-- ==== Sys2Proof/Word.lean ====
section
/-!
DEFINITION. The plain types every other file speaks in: an octet, a 32-bit word, an octet string, the two control
lanes (R85) and a point of network time (R34).
-/
namespace Sys2Proof

/-- An octet. -/
abbrev Byte := BitVec 8

/-- A 32-bit register word (R14). -/
abbrev Word := BitVec 32

/-- An octet string, octet 0 first. -/
abbrev Octets := List (BitVec 8)

/-- The two control lanes (R85). -/
inductive Lane where
  | A
  | B
deriving DecidableEq, Repr

/-- The lane that is not this one. -/
def Lane.other : Lane → Lane
  | .A => .B
  | .B => .A

/-- The number of a lane: 0 for Lane A, 1 for Lane B (R85, mhartid). -/
def Lane.num : Lane → Nat
  | .A => 0
  | .B => 1

/-- A point of network time: SEC (64 bits), NS (0 to 999,999,999) and FRAC in units of 2^-32 ns (R34, R38). -/
structure Time where
  sec : Nat
  ns : Nat
  frac : Nat
deriving DecidableEq, Repr

/-- Time zero, which the counter reads after a reset (R37). -/
def Time.zero : Time := ⟨0, 0, 0⟩

end Sys2Proof
end

