-- ==== Sys2Proof/Syntax.lean ====
section
/-!
DEFINITION. The commands of the block: one constructor for each row of spec/opcode_table.json, with its operands. Operands that the rules of spec/
leave to the outside world (a sample, a stamp, an error met on the way) are carried by the command.
-/
namespace Sys2Proof

/-- What is wrong with a received frame: nothing, its FCS, an invalid code-group, its reassembly, or its SMD (R225, R245). -/
inductive RxError where
  | none
  | fcs
  | code
  | assembly
  | smd
deriving DecidableEq, Repr

/-- What is received in place of a frame, or meets a frame (R228, R229, R242): whether it is a verify mPacket, its error, the fragments it came in, its queue full before its end,
DCQ 15 or 16 full before its forwarding or after it has started, and a word delivered poisoned by its queue. -/
structure RxMeet where
  verify : Bool
  err : RxError
  frags : Nat
  full : Bool
  fwdFull : Bool
  fwdCut : Bool
  poison : Bool
deriving DecidableEq, Repr

/-- What a frame meets that leaves a backhaul port (R242, R384): the octets it has carried in each fragment before it was preempted again, and a word of it delivered poisoned by
its queue. -/
structure TxMeet where
  cuts : List Nat
  poison : Bool
deriving DecidableEq, Repr

/-- A frame as a radio's receiver finds it (R167): whether its FCS is good, whether its PHR announces a 4-octet FCS, and whether it is sent without whitening. -/
structure RadioMeet where
  fcs : Bool
  fcs4 : Bool
  plain : Bool
deriving DecidableEq, Repr

/-- A frame as the modem's receiver finds it (R194, R197, R200): whether its FCS is good, whether it is in a ROBO or coherent mode, and the time in ns from its stamp point to its last
sample, as G.9903 has it. -/
structure PlcMeet where
  fcs : Bool
  robo : Bool
  air : Nat
deriving DecidableEq, Repr

/-- What a transmission of a radio or of the modem meets (R384, R396): the place in the launch queue of an entry with an uncorrected error, a mismatch of
the two bundle builders, a mismatch of the second CCM* unit, and a word of it delivered poisoned by its queue. -/
structure GuardMeet where
  entry : Option Nat
  bundle : Bool
  frame : Bool
  poison : Bool
deriving DecidableEq, Repr

/-- The result of a BIST of a lane (R403): the two signatures and whether each differs from its expected value. -/
structure BistResult where
  lsig : Nat
  msig : Nat
  logicFail : Bool
  memoryFail : Bool
deriving DecidableEq, Repr

/-- What Rinse finds in a word (R407). -/
inductive RinseMeet where
  | clean
  | corrected
  | uncorrected
deriving DecidableEq, Repr

/-- The instruction of the boundary-scan TAP (R424); others act as BYPASS. -/
inductive TapInstr where
  | bypass
  | idcode
  | samplePreload
  | extest
deriving DecidableEq, Repr

/-- What a path of SF1 sees for a while (R276): path A a residual current in 0.1 mA behind its filter for a time in ns of its own clock, path B samples of its own decimator. -/
inductive Sf1Seen where
  | analog (current : Nat) (time : Nat)
  | digital (samples : List Int)
deriving DecidableEq, Repr

/-- The functions of R28: the backhaul ports, the pole bus port, RF-A and RF-B, the power-line modem, Reflect, the metering engine, each DMA channel and each
dual-clock queue. -/
inductive Func where
  | port0
  | port1
  | pole
  | rfA
  | rfB
  | plm
  | reflect
  | meter
  | channel (n : Fin 16)
  | queue (n : Fin 17)
deriving DecidableEq, Repr

/-- How a PMP region matches addresses (R85): off, a top of range, four octets, or a naturally aligned power of two. -/
inductive PmpMode where
  | off
  | tor
  | na4
  | napot
deriving DecidableEq, Repr

/-- A PMP region of a lane (R85): its address register, how it matches, what it permits, and whether it binds M mode too. -/
structure PmpRegion where
  addr : Nat
  mode : PmpMode
  read : Bool
  write : Bool
  lock : Bool
deriving DecidableEq, Repr

/-- The core of a lane as it makes an access (R85): whether it runs in U mode, its PMP regions where its firmware has changed them since its last command, and
what the word of its SRAM that it reads meets (R86). -/
structure CoreMeet where
  user : Bool
  pmp : Option (List PmpRegion)
  word : RinseMeet
deriving DecidableEq, Repr

/-- The atomic instructions of RV64A (R85), each on an aligned word or doubleword of lane SRAM. -/
inductive AtomicOp where
  | lr
  | sc
  | swap
  | add
  | xor
  | and
  | or
  | min
  | max
  | minu
  | maxu
deriving DecidableEq, Repr

/-- What a lane's store meets: a parity error on the fabric (R397), the nine reads of the PUF array that an enrolment makes (R323), a packet
that is being written to the queue named (R385), its core, and the atomic instruction that it is, if it is one. -/
structure WriteMeet where
  parity : Bool
  reads : List Octets
  writing : Bool
  core : CoreMeet
  atomic : Option AtomicOp
deriving DecidableEq, Repr

/-- Whether a store comes from U mode (R333, R342). -/
def WriteMeet.user (x : WriteMeet) : Bool := x.core.user

/-- What a lane's load meets: a parity error on the fabric (R397), and its core. -/
structure LoadMeet where
  parity : Bool
  core : CoreMeet
deriving DecidableEq, Repr

/-- What a drain meets (R121, R153, R396): the place of a launch-queue entry with an uncorrected error, the places, in the order in which they are built, of the result records
at which an error in the Felter entry is met, and the place in the Escort list at which an error is met. -/
structure DrainMeet where
  queue : Option Nat
  felter : List Nat
  escort : Option Nat
deriving DecidableEq, Repr

/-- The interrupts of a lane (R23): the machine external interrupt, batch ready (mip bit 16) and the fault of the lane (mip bit 17). -/
inductive IntSource where
  | external
  | batchReady
  | laneFault
deriving DecidableEq, Repr

/-- The accesses that the determinism fence forbids (R90): a load of a register at an address, a read of the time CSR or of another CSR that it names, and a store to a register at
an address. -/
inductive FenceAccess where
  | load (addr : Word)
  | timeCsr
  | csr
  | store (addr : Word)
deriving DecidableEq, Repr

/-- What makes a lane fault that no other command brings (R88, R121, R153, R395, R397): a lockstep mismatch, an uncorrected error of the lane's SRAM, an uncorrected error in an
entry of its Felter unit read through the window, one in its Escort engine's memory, a disagreement of a duplicated unit (0 Felter, 1 Escort, 2 delivery port), or a
load of poisoned data. -/
inductive LaneFaultKind where
  | lockstep
  | sram
  | felterEntry
  | escortMemory
  | unit (u : Fin 3)
  | poisonedLoad
deriving DecidableEq, Repr

/-- What a load from the PST window meets (R282, R397), beside its core. -/
inductive PstMeet where
  | clean
  | corrected
  | uncorrected
  | parity
deriving DecidableEq, Repr

/-- The three paths an action is sent on (R140): RF-A, RF-B and the power line. -/
inductive Path where
  | rfa
  | rfb
  | plc
deriving DecidableEq, Repr

/-- The words a descriptor meets with errors: source words read poisoned (R378), source words whose transfer fails its parity check, destination
words whose write fails it (R397), and source words with an error that is corrected (R86, R282). Each is named by an address within it. -/
structure BusErrors where
  poison : List Nat
  parity : List Nat
  lost : List Nat
  corrected : List Nat
deriving DecidableEq, Repr

/-- The commands of the block, in the order of spec/opcode_table.json. -/
inductive Instr where
  /-- REGISTER_WRITE: A store of a lane (R14, R16, R17, R21, R85, R94): to a register word, to the PST window, or to its own SRAM; to anything else it faults. -/
  | registerWrite (l : Lane) (addr : Word) (size : Nat) (value : BitVec 64) (meet : WriteMeet)
  /-- WIDE_VALUE_CAPTURE_READ: A load of a register word (R15): that of the lowest word captures a wide value into the holding register of the lane. `parity`: the word fails its check on the fabric (R397). -/
  | wideValueCaptureRead (l : Lane) (addr : Word) (parity : Bool)
  /-- WIDE_VALUE_COMMIT_WRITE: A store to a word of a wide value (R15): that to the highest word makes the whole value take effect. -/
  | wideValueCommitWrite (l : Lane) (addr : Word) (value : Word) (meet : WriteMeet)
  /-- ND_FIELD_READ: A load of a lane (R10, R14, R16, R85, R91): of a register word, where an ND field faults in deterministic context and is counted in service context, or of any other region
  of the address space. -/
  | ndFieldRead (l : Lane) (addr : Word) (size : Nat) (meet : LoadMeet)
  /-- POWER_ON_RESET: VIN rises through VPOR (R30, R417). -/
  | powerOnReset
  /-- POWER_ON_RESET_END: The power-on reset ends with the results of the cold-start BIST (R404, R417); `testLow`: TEST_N is low and holds it (R424). -/
  | powerOnResetEnd (a : BistResult) (b : BistResult) (testLow : Bool)
  /-- BACKUP_DOMAIN_RESET: VMAIN and VBAT are both below the power-on level of the backup domain (R30). -/
  | backupDomainReset
  /-- PIN_RESET: RST_N has been low for 10 µs (R421). -/
  | pinReset
  /-- PIN_RESET_RELEASE: RST_N has risen, 20 µs ago (R421). -/
  | pinResetRelease
  /-- SYSRST: A store to SYS_RESET_CTRL (R30). -/
  | sysrst (l : Lane) (key : BitVec 16) (sysrst : Bool)
  /-- NOLANE_RESET: 16 lane cycles have passed with no lane in service (R101). -/
  | nolaneReset
  /-- LANE_RESET: LSC resets a lane that has been taken out (R30, R88 step 4). -/
  | laneReset (l : Lane)
  /-- SRAM_REFILL_COMPLETE: The refill of a lane's SRAM is complete (R31). -/
  | sramRefillComplete (l : Lane)
  /-- COLD_START_BOOT: The boot ROM runs after a pin, system or power-on reset (R354). -/
  | coldStartBoot
  /-- LANE_BOOT_LOAD: The boot ROM loads a lane after a lane reset (R356). -/
  | laneBootLoad (l : Lane)
  /-- FUNCTION_ENABLE: A store of 1 to the enable of a function (R28). -/
  | functionEnable (l : Lane) (f : Func)
  /-- FUNCTION_DISABLE: A store of 0 to the enable of a function (R28). -/
  | functionDisable (l : Lane) (f : Func)
  /-- SHUTDOWN_COMPLETE: The shut-down of a function completes (R28). -/
  | shutdownComplete (f : Func)
  /-- TB_COUNTER_TICK: TB_CLK cycles pass (R35, R52); more than one may be taken together. -/
  | tbCounterTick (cycles : Nat)
  /-- SNAPSHOT_BOUNDARY: A snapshot boundary (R37, R41). -/
  | snapshotBoundary
  /-- TB_SET: The store to the highest word of TB_SET, at offset 0x002C (R37); the lower words stand as the lane staged them. -/
  | tbSet (l : Lane) (value : Word)
  /-- SERVO_DISABLE: A store of SERVO_EN = 0 (R53), the other fields of TB_CTRL as they are. -/
  | servoDisable (l : Lane)
  /-- FOLLOW_UP_TIMEOUT: No Follow_Up has come within 2^LOG s (R48). -/
  | followUpTimeout
  /-- SYNC_TIMEOUT: No valid sample has come for TOUT_N × 2^LOG s (R54). -/
  | syncTimeout
  /-- HOLDOVER_EXPIRY: HOLD_MAX seconds have passed in HOLDOVER (R53). -/
  | holdoverExpiry
  /-- CREASE_CLOSURE: The counter reaches the end of the hold-back (R71); `bad`: the closure summary of the Time Base is read with an error (R79, R384). -/
  | creaseClosure (bad : Bool)
  /-- EVENT_REGISTER: The intake takes the oldest event that waits on a channel (R69, R76). -/
  | eventRegister (chan : Fin 128)
  /-- INTAKE_RESUME: Enough pool slots are free for the event at which the intake stopped (R76). -/
  | intakeResume
  /-- BATCH_DELIVERY: The oldest sealed batch is delivered to a lane (R74); `bad`: the delivery port's digest differs (R75). -/
  | batchDelivery (l : Lane) (bad : Bool)
  /-- CRZ_ENABLE: A store of CRZ_CTRL.EN = 1 (R78). -/
  | crzEnable (l : Lane)
  /-- CRZ_DISABLE: A store of CRZ_CTRL.EN = 0 (R78). -/
  | crzDisable (l : Lane)
  /-- INJECT_EVENT: A store to CRZ_INJ_CMD (R80). -/
  | injectEvent (l : Lane) (chan : BitVec 7) (kind : Byte)
  /-- MLANECTX_WRITE: A write of mlanectx (R89); from U mode it raises an illegal-instruction exception. -/
  | mlanectxWrite (l : Lane) (det : Bool) (user : Bool)
  /-- FENCE_VIOLATION: An access that the determinism fence may forbid (R90). -/
  | fenceViolation (l : Lane) (access : FenceAccess)
  /-- INTERRUPT_ENTRY: A lane takes a pending interrupt that its context allows (R23, R24). -/
  | interruptEntry (l : Lane) (source : IntSource)
  /-- COMMIT_RECORD_STORE: A store in deterministic context (R93, R95). -/
  | commitRecordStore (l : Lane) (addr : Word) (value : Word)
  /-- LSC_SEAL: A store to LSC_SEAL (R94). -/
  | lscSeal (l : Lane) (value : Word)
  /-- SEAL_COMPLETE: A seal completes (R94 to R100, R103); LSC has met `corrected` correctable errors as it read the lane's SRAM (R86). -/
  | sealComplete (l : Lane) (corrected : Nat)
  /-- LANE_FAULT: A lane fault (R88). -/
  | laneFault (l : Lane) (kind : LaneFaultKind)
  /-- CMP_WAIT_EXPIRY: CMP_WAIT has passed without the digest of the Shadow lane (R97). -/
  | cmpWaitExpiry
  /-- COMMIT_DRAIN: The records of a Crease are performed (R97, R132). -/
  | commitDrain (meet : DrainMeet)
  /-- DRAIN_COMPLETE: A drain completes (R97). -/
  | drainComplete
  /-- SWAP: LSC_CMD OP = SWAP (R99). -/
  | swap (l : Lane) (key : BitVec 16)
  /-- TAKEOUT_A: LSC_CMD OP = TAKEOUT_A (R99). -/
  | takeoutA (l : Lane) (key : BitVec 16)
  /-- TAKEOUT_B: LSC_CMD OP = TAKEOUT_B (R99). -/
  | takeoutB (l : Lane) (key : BitVec 16)
  /-- REJOIN: LSC_CMD OP = REJOIN (R100). -/
  | rejoin (l : Lane) (key : BitVec 16)
  /-- LSC_JOIN: A store to LSC_JOIN (R99). -/
  | lscJoin (l : Lane) (value : Word)
  /-- RESULT_RECORD_SEND: The send time of a result record has come (R124, R125). -/
  | resultRecordSend
  /-- COLLECTOR_RECORD_RECEIVE: The payload of a UDP datagram to INPORT (R125). -/
  | collectorRecordReceive (record : Octets)
  /-- COLLECTOR_INTAKE: The intake takes the record at the head of its queue (R126). -/
  | collectorIntake
  /-- ACTION_DEADLINE_MISS: The deadlines that have passed on a path (R142). -/
  | actionDeadlineMiss (path : Path)
  /-- BEACON: The BEACON cell of a radio (R178), with what the beacon meets (R384, R396). -/
  | beacon (r : Fin 2) (meet : GuardMeet)
  /-- RADIO_BUNDLE_CELL: A BUNDLE cell of a radio (R182), with what its guards meet (R396). -/
  | radioBundleCell (r : Fin 2) (meet : GuardMeet)
  /-- RADIO_FRAME_RECEIVE: A frame whose SFD ends now at a radio (R170, R176): its octets without the FCS, how it is found, and its signal strength. -/
  | radioFrameReceive (r : Fin 2) (psdu : Octets) (meet : RadioMeet) (rssi : Byte)
  /-- IMM_ACK_RECEIVE: An Imm-Ack whose SFD ends now (R177). -/
  | immAckReceive (r : Fin 2) (seq : Byte)
  /-- ACK_WAIT_EXPIRY: The wait for an Imm-Ack ends (R177). -/
  | ackWaitExpiry (r : Fin 2)
  /-- REPORT_CELL_END: The expected contact of a lantern in a superframe is over (R185). -/
  | reportCellEnd (lantern : Fin 2048) (sf : Int)
  /-- DARN_WINDOW_END: A Darn window that was called ends (R186). -/
  | darnWindowEnd (r : Fin 2) (window : Fin 4)
  /-- NBR_CELL_END: The NBR cell of a neighbour entry ends (R189). -/
  | nbrCellEnd (neighbour : Fin 8)
  /-- WAKE_CHANGE: The superframe of a change of the wake interval has come (R183). -/
  | wakeChange
  /-- RADIO_DOWNLINK_QUEUE: A store to RFM_TXCMD (R182). -/
  | radioDownlinkQueue (l : Lane) (handle : Byte) (dst : BitVec 11) (len : BitVec 7)
  /-- LANTERN_TABLE_WRITE: A store to word 0 of an entry of RFM_LTAB (R185, R192). -/
  | lanternTableWrite (l : Lane) (lantern : Fin 2048) (value : Word)
  /-- DOWNLINK_NO_OPPORTUNITY: 64 superframes have passed without an opportunity for the first downlink frame (R180). -/
  | downlinkNoOpportunity (r : Fin 2)
  /-- TIME_FRAME: Cell 0 of a PLC cycle (R203), with what the frame meets (R384, R396). -/
  | timeFrame (meet : GuardMeet)
  /-- PLC_BUNDLE_CELL: A BUNDLE cell of the PLM (R206), with the time in ns from the stamp point to the last sample of what it sends, as G.9903 has it, and what its guards meet (R396). -/
  | plcBundleCell (air : Nat) (meet : GuardMeet)
  /-- PLC_FRAME_RECEIVE: A frame whose preamble ends now at the PLM (R200, R202): its octets without the FCS, how it is found, the FCS that an ACK repeats, and its signal-to-noise ratio. -/
  | plcFrameReceive (psdu : Octets) (meet : PlcMeet) (fcsValue : BitVec 16) (snr : Byte)
  /-- PLC_ACK_RECEIVE: An ACK whose stamp point is now (R201, R202), and whether it repeats the FCS of the frame that waits. -/
  | plcAckReceive (ours : Bool)
  /-- PLC_ACK_WAIT_EXPIRY: The wait for an ACK ends (R201). -/
  | plcAckWaitExpiry
  /-- PLC_REPORT_MISS: A report cycle of a lantern on the feeder is over (R205). -/
  | plcReportMiss (lantern : Fin 2048) (cycle : Int)
  /-- PLC_DOWNLINK_QUEUE: A store to PLM_TXCMD (R206). -/
  | plcDownlinkQueue (l : Lane) (handle : Byte) (dst : BitVec 11) (len : Byte)
  /-- PLC_ASSIGNMENT_PENDING: A store to word 0 of an entry of PLM_LTAB, or to the word that holds its DLY (R206). -/
  | plcAssignmentPending (l : Lane) (lantern : Fin 2048) (dly : Bool) (value : Word)
  /-- START: PLM_RFL_CMD OP = START (R213). -/
  | start (l : Lane)
  /-- BASELINE: PLM_RFL_CMD OP = BASELINE (R213, R217). -/
  | baseline (l : Lane) (slot : BitVec 3)
  /-- ABORT: PLM_RFL_CMD OP = ABORT (R220). -/
  | abort (l : Lane)
  /-- REFLECT_DISABLE: A store of REFL_EN = 0 (R220). -/
  | reflectDisable (l : Lane)
  /-- REFLECT_RUN_START: TSTART has come (R212): the captures of the noise phase. -/
  | reflectRunStart (noise : List (List Int))
  /-- SHOT: A shot of a Reflect run (R211): its capture, whether it clipped, and whether DCQ 12 delivered a poisoned word. -/
  | shot (capture : List Int) (clipped : Bool) (poison : Bool)
  /-- REFLECT_PROCESS: The captures of a run are processed after the last shot (R214, R217). -/
  | reflectProcess
  /-- BASELINE_WRITE_DONE: A baseline record has been written to its PST slot (R217). -/
  | baselineWriteDone
  /-- QUIET_WINDOW_END: The quiet window of Reflect ends (R212). -/
  | quietWindowEnd
  /-- LINK_UP: A port reaches link up (R223), with the speed and the duplex found (R222). -/
  | linkUp (p : Fin 2) (speed : BitVec 2) (half : Bool)
  /-- LINK_DOWN: A port loses link (R223). -/
  | linkDown (p : Fin 2)
  /-- BH_FRAME_RECEIVE: A frame received by a port (R226): how many UI its first octet stands behind the PCS word edge (R40), its octets without the FCS, and what it meets. -/
  | bhFrameReceive (p : Fin 2) (symbol : Nat) (frame : Octets) (meet : RxMeet)
  /-- HSR_FORWARD: A ring frame leaves by a port (R236), its first octet so many UI behind the PCS word edge (R40), with what it meets. -/
  | hsrForward (p : Fin 2) (symbol : Nat) (meet : TxMeet)
  /-- TX_TAIL_WRITE: A store to TX_TAIL of a port (R237). -/
  | txTailWrite (l : Lane) (p : Fin 2) (value : Word)
  /-- TX_FRAME_SEND: A port sends the next frame (R239, R241), its first octet so many UI behind the PCS word edge (R40), with what it meets. -/
  | txFrameSend (p : Fin 2) (symbol : Nat) (meet : TxMeet)
  /-- DESCRIPTOR_WRITEBACK: The next descriptor is written back (R237). -/
  | descriptorWriteback
  /-- VERIFY_MPACKET_TIMER: VERIFY_MS has passed without a respond mPacket (R242). -/
  | verifyMpacketTimer (p : Fin 2)
  /-- RESPOND_MPACKET_RECEIVE: A respond mPacket (R242). -/
  | respondMpacketReceive (p : Fin 2)
  /-- PAUSE_RECEIVE: A PAUSE or PFC frame (R243): the enable vector of PFC, and the quanta of the eight priorities, the first for PAUSE. -/
  | pauseReceive (p : Fin 2) (pfc : Bool) (mask : Byte) (quanta : List Nat)
  /-- PAUSE_EXPIRY: The quanta of a pause have run out (R243). -/
  | pauseExpiry (p : Fin 2) (tc : Fin 8)
  /-- PAUSE_WATCHDOG_EXPIRY: A class has been paused for PWD ms (R243). -/
  | pauseWatchdogExpiry (p : Fin 2) (tc : Fin 8)
  /-- DUPLICATE_ENTRY_FORGET: An entry of the duplicate table has been unused for FORGET ms (R234). -/
  | duplicateEntryForget (src : BitVec 48)
  /-- ENTER: A store to BHM0_DR_CMD (R248). -/
  | enter (l : Lane) (key : BitVec 16) (enter : Bool)
  /-- DR_WAKE_TIME: Network time reaches DR_WAKE_T (R249). -/
  | drWakeTime
  /-- HEARTBEAT_REST_TOGGLE: A network second divisible by 4 in REST (R402). -/
  | heartbeatRestToggle
  /-- PB_FRAME_RECEIVE: A frame received by the pole bus port (R252). -/
  | pbFrameReceive (frame : Octets) (good : Bool)
  /-- PB_FRAME_TRANSMIT: The pole bus port is ready to send the frame in hand (R251); `carrier`: it senses carrier; `poison`: a word of the frame is delivered poisoned (R384). -/
  | pbFrameTransmit (carrier : Bool) (poison : Bool)
  /-- PB_COLLISION: A collision on the pole bus (R251); `late`: after 64 octets. -/
  | pbCollision (late : Bool)
  /-- PB_BACKOFF_EXPIRY: The backoff has passed (R251). -/
  | pbBackoffExpiry
  /-- METERING_SAMPLE: A sample of the seven channels (R256, R257). -/
  | meteringSample (raw : List Int)
  /-- CROSSING_TIMEOUT: Three nominal half-cycles have passed without a valid crossing (R262). -/
  | crossingTimeout (phase : Fin 3)
  /-- FREE_WINDOW_END: One nominal cycle has passed in FREE (R262). -/
  | freeWindowEnd (phase : Fin 3)
  /-- CREASE_SUMMARY: The summaries whose Crease has ended are registered (R272). -/
  | creaseSummary
  /-- METERING_START: The Crease boundary at which metering starts (R279). -/
  | meteringStart
  /-- METERING_STOP: A store of EN = 0, and the next sample, at which metering stops (R279). -/
  | meteringStop (l : Lane) (raw : List Int)
  /-- SF1_PATH_A_TRIP: Path A's filter stands at a residual current in 0.1 mA for a time in ns of its own clock, at whose end the path may have qualified (R276). -/
  | sf1PathATrip (current : Nat) (time : Nat)
  /-- SF1_PATH_B_TRIP: Samples of path B's own decimator, at one of which the path may have qualified (R276). -/
  | sf1PathBTrip (samples : List Int)
  /-- SF1_TRIP_RELEASE: What a path sees up to the moment at which it may release its output (R277). -/
  | sf1TripRelease (seen : Sf1Seen)
  /-- SF1_DISAGREE_TIMEOUT: 100 ms have passed since one path asserted alone (R277). -/
  | sf1DisagreeTimeout
  /-- SF1_THR_WRITE: A store to MTR_SF1 (R278). -/
  | sf1ThrWrite (l : Lane) (value : Word)
  /-- PST_STORE: A store to the PST window (R282, R284). -/
  | pstStore (l : Lane) (addr : Word) (size : Nat) (value : Word) (meet : WriteMeet)
  /-- PST_CELL_WRITE: The oldest word of the write buffer reaches its cells (R283), whatever reset the module is in. -/
  | pstCellWrite
  /-- PST_READ: A load from the PST window (R282). -/
  | pstRead (l : Lane) (addr : Word) (size : Nat) (core : CoreMeet) (meet : PstMeet)
  /-- PST_DRAIN_READ: A load of PST_DRAIN (R283). -/
  | pstDrainRead (l : Lane) (parity : Bool)
  /-- OPSEC_TICK: A second of VIN presence (R291). -/
  | opsecTick
  /-- RECORDER_WRITE_DONE: The writes of a closed period have been made (R293). -/
  | recorderWriteDone
  /-- RTC_SECOND_TICK: The prescaler wraps (R300). -/
  | rtcSecondTick
  /-- RTC_TRIM_STEP: A trim step at a count of the prescaler (R313). -/
  | rtcTrimStep (prescaler : BitVec 15)
  /-- TIME_GROUP_READ: A load of RTC_TIME or RTC_DATE (R303) at a count of the prescaler. -/
  | timeGroupRead (l : Lane) (date : Bool) (prescaler : BitVec 15) (parity : Bool)
  /-- FREEZE_TIMEOUT: One second has passed since a freeze (R303). -/
  | freezeTimeout (l : Lane)
  /-- COMMIT: RTC_CMD OP = COMMIT (R304). -/
  | commit (l : Lane) (key : BitVec 16)
  /-- ADD_HOUR: RTC_CMD OP = ADD_HOUR (R306). -/
  | addHour (l : Lane) (key : BitVec 16)
  /-- SUB_HOUR: RTC_CMD OP = SUB_HOUR (R306). -/
  | subHour (l : Lane) (key : BitVec 16)
  /-- PON_SET: RTC_CMD OP = PON_SET (R318). -/
  | ponSet (l : Lane) (key : BitVec 16)
  /-- PON_CLR: RTC_CMD OP = PON_CLR (R318). -/
  | ponClr (l : Lane) (key : BitVec 16)
  /-- RTC_MARK: A mark of the Time Base (R310) at a count of the prescaler. -/
  | rtcMark (prescaler : BitVec 15)
  /-- OSCILLATOR_STOP: No crystal edge for 2 ms (R314). -/
  | oscillatorStop
  /-- OSCILLATOR_RESUME: Crystal edges return (R314). -/
  | oscillatorResume
  /-- SWITCH_TO_VBAT: VMAIN falls below VBAT or 2.70 V (R315), at a count of the prescaler. -/
  | switchToVbat (prescaler : BitVec 15)
  /-- SWITCH_TO_VMAIN: VMAIN rises to VBAT + 100 mV and 2.80 V (R315). -/
  | switchToVmain
  /-- ROOT_RECOVERY: The KSU recovers its root after a reset (R322) from the octets of the PUF array as it powers up (R320). -/
  | rootRecovery (array : Octets)
  /-- HELPER_MIRROR_WRITE: The boot ROM writes the ACM mirror of the helper data to KSU_HLP (R322). -/
  | helperMirrorWrite
  /-- TRANSITION: KSU_CMD OP = TRANSITION (R327); `user`: from U mode (R333). -/
  | transition (l : Lane) (key : BitVec 16) (user : Bool)
  /-- IMPORT: KSU_CMD OP = IMPORT (R336). -/
  | importBlob (l : Lane) (key : BitVec 16) (user : Bool)
  /-- DERIVE: KSU_CMD OP = DERIVE (R337). -/
  | derive (l : Lane) (key : BitVec 16) (user : Bool)
  /-- CLEAR: KSU_CMD OP = CLEAR (R337). -/
  | clear (l : Lane) (key : BitVec 16) (user : Bool)
  /-- ENROLPUF: KSU_CMD OP = ENROLPUF (R323) with the octets of the PUF array as its nine reads find them. -/
  | enrolpuf (l : Lane) (key : BitVec 16) (user : Bool) (reads : List Octets)
  /-- CRY_JOB: A store to CRY_JOB (R342). -/
  | cryJob (l : Lane) (addr : Word) (user : Bool)
  /-- CRY_JOB_COMPLETE: The oldest crypto job ends (R342); `poison`: it read a poisoned word. -/
  | cryJobComplete (poison : Bool)
  /-- PROGRAM: RLD_CMD OP = PROGRAM (R358). -/
  | program (l : Lane) (key : BitVec 16)
  /-- ERASE: RLD_CMD OP = ERASE (R358). -/
  | erase (l : Lane) (key : BitVec 16)
  /-- ACM_OPERATION_DONE: A program or an erase of the ACM ends (R358). -/
  | acmOperationDone (fail : Bool)
  /-- VERIFY: RLD_CMD OP = VERIFY (R359). -/
  | verify (l : Lane) (key : BitVec 16) (slot : BitVec 2)
  /-- SCHEDULE: RLD_CMD OP = SCHEDULE (R361). -/
  | schedule (l : Lane) (key : BitVec 16) (kind : BitVec 2) (cslot : Bool) (fslot : Bool)
  /-- CANCEL: RLD_CMD OP = CANCEL (R361). -/
  | cancel (l : Lane) (key : BitVec 16)
  /-- SAVE_COPY_DONE: The fallback copy ends (R361). -/
  | saveCopyDone (fail : Bool)
  /-- UPDATE_ACTIVATION: The activation of an armed update (R362). -/
  | updateActivation
  /-- ACTIVATION_DEFER_EXPIRY: DEFER has passed after TACT (R361). -/
  | activationDeferExpiry
  /-- CODE_STORE_WRITTEN: The new container is in the code store (R363). -/
  | codeStoreWritten
  /-- VERDICT: A store to RLD_VERDICT (R364). -/
  | verdict (l : Lane) (key : BitVec 16) (pass : Bool) (cause : Byte)
  /-- TRIAL_DEADLINE: The trial has met its deadline (R364). -/
  | trialDeadline
  /-- COMMITTING_COPY_DONE: The settings of the trial have been copied (R365). -/
  | committingCopyDone
  /-- ROLLBACK_RESTORE_DONE: The restore of a rollback is complete (R366). -/
  | rollbackRestoreDone
  /-- DMA_TAIL_WRITE: A store to CH_TAIL of a channel (R369). -/
  | dmaTailWrite (l : Lane) (ch : Fin 16) (value : Word)
  /-- COPY: A channel works a COPY descriptor (R372); `descBad`: the descriptor itself is read poisoned (R378). -/
  | copy (ch : Fin 16) (descBad : Bool) (meet : BusErrors)
  /-- GATHER: A channel works a GATHER descriptor (R372). -/
  | gather (ch : Fin 16) (descBad : Bool) (meet : BusErrors)
  /-- FILL: A channel works a FILL descriptor (R373). -/
  | fill (ch : Fin 16) (descBad : Bool) (meet : BusErrors)
  /-- COMPARE: A channel works a COMPARE descriptor (R374). -/
  | compare (ch : Fin 16) (descBad : Bool) (meet : BusErrors)
  /-- DMA_DESCRIPTOR_COMPLETE: The last write response of a channel's descriptor, or its last read (R375). -/
  | dmaDescriptorComplete (ch : Fin 16)
  /-- DMA_RESPONSE_TIMEOUT: RTO expires with responses missing (R375): `done` of the destination had been answered. -/
  | dmaResponseTimeout (ch : Fin 16) (done : Nat)
  /-- COMPLETION_RECORD_WRITE: The oldest completion record is written (R377). -/
  | completionRecordWrite
  /-- FLUSH: A store of FLUSH to a dual-clock queue (R385); `writing`: its writer is writing a packet. -/
  | flush (l : Lane) (q : Fin 17) (writing : Bool)
  /-- DROP: A store of DROP to a dual-clock queue (R385). -/
  | drop (l : Lane) (q : Fin 17) (writing : Bool)
  /-- DCQ_WORD_READ: The next word of a dual-clock queue is read (R383); `bad`: its parity fails. -/
  | dcqWordRead (q : Fin 17) (bad : Bool)
  /-- BIST_LANE_A: SAF_CMD OP = 1 (R405). -/
  | bistLaneA (l : Lane) (key : BitVec 16)
  /-- BIST_LANE_B: SAF_CMD OP = 2 (R405). -/
  | bistLaneB (l : Lane) (key : BitVec 16)
  /-- BIST_PERIODIC_DUE: BIST_PER hours have passed (R405). -/
  | bistPeriodicDue
  /-- BIST_COMPLETE: A run of BIST ends (R406). -/
  | bistComplete (result : BistResult)
  /-- DETECT_PATH_A: SAF_CMD OP = 3 (R401). -/
  | detectPathA (l : Lane) (key : BitVec 16)
  /-- DETECT_PATH_B: SAF_CMD OP = 4 (R401). -/
  | detectPathB (l : Lane) (key : BitVec 16)
  /-- FULL_PATH_A: SAF_CMD OP = 5 (R401). -/
  | fullPathA (l : Lane) (key : BitVec 16)
  /-- FULL_PATH_B: SAF_CMD OP = 6 (R401). -/
  | fullPathB (l : Lane) (key : BitVec 16)
  /-- CLRBLK: SAF_CMD OP = CLRBLK (R406). -/
  | clrblk (l : Lane) (key : BitVec 16)
  /-- SF1_TEST_PERIODIC: SF1PER hours have passed, or the second after which path B follows path A (R401). -/
  | sf1TestPeriodic
  /-- SF1_TEST_COMPLETE: An SF1 proof test ends (R401): the time to qualification in 0.1 ms, if the path qualified, and whether the test passed. -/
  | sf1TestComplete (time : Option Nat) (ok : Bool)
  /-- RINSE_READ: Rinse reads the next word of each lane's memories (R407). -/
  | rinseRead (a : RinseMeet) (b : RinseMeet)
  /-- VIN_COLLAPSE: VIN falls away (R297, R400, R417); `words` of the PST write buffer still reach the cells. -/
  | vinCollapse (words : Nat)
  /-- REFERENCE_OSCILLATOR_STOP: The 25 MHz reference stops (R399). -/
  | referenceOscillatorStop
  /-- TAP_INSTRUCTION_UPDATE: The boundary-scan TAP loads an instruction (R424). -/
  | tapInstructionUpdate (ins : TapInstr)
  /-- FUNCTION_RUNNING: A function in STARTING finishes its start (R28). -/
  | functionRunning (f : Func)
  /-- OTP_ENTRY_PROGRAMMED: The lifecycle OTP entry of a transition has been programmed (R327, R421). -/
  | otpEntryProgrammed
deriving DecidableEq, Repr

end Sys2Proof
end

