-- ==== Sys2Proof/Decode.lean ====
section
/-!
DEFINITION. The commands that words of the opcode table spell: spec/opcode_table.json gives no row bits, so no word spells a command.
-/
namespace Sys2Proof

/-- The command that `nbits` bits `w` spell by spec/opcode_table.json: none, since no row of the table has bits. -/
def decodeTableWord (nbits w : Nat) : Option Instr :=
  match nbits, w with
  | _, _ => none

end Sys2Proof
end

