-- ==== Sys2Proof/Config.lean ====
section
/-!
DEFINITION. What spec/ leaves open: free values. A free value has no body, so no proof can see what it is; the state's field
`freeCount` numbers the draws, and functions of operands give what spec/ describes in words only.
-/
namespace Sys2Proof.Config

/-- The free number of draw `n`: a value the spec leaves open (notes/assumptions/2). -/
opaque freeValue : Nat → BitVec 64

/-- Octet `i` of the free octet string of draw `n` (notes/assumptions/2). -/
opaque freeOctet : Nat → Nat → BitVec 8

/-! ### Key operations that spec/ leaves open (notes/assumptions/5) -/

/-- What ECDH gives for a private key and a peer key that is no point of the curve (R336, R340). -/
opaque ecdhInvalid : List (BitVec 8) → List (BitVec 8) → List (BitVec 8)

/-! ### Metering arithmetic whose rounding spec/ does not give (notes/assumptions/6) -/

/-- Whether a quotient that is not whole is rounded up. -/
opaque rounds : Nat → Nat → Bool

/-- A raw sample with the factory trim of its path applied (R260). -/
opaque meterTrim : Nat → Int → Int

/-- A sample shifted in time by PH (R260), by draw. -/
opaque timeShift : Nat → Int → Int → Int

/-- ANG_VI of a window with neither active nor reactive power (R272). -/
opaque noAngle : Nat

/-! ### Reflect arithmetic that spec/ does not state (notes/assumptions/9) -/

/-- The cosine of a fraction of a turn in the module's own fixed-point format (R214). -/
opaque cosine : Nat → Nat → Int

/-- A quotient of Reflect whose divisor is 0: a near-end pulse of amplitude 0, or no noise capture (R214, R218). -/
opaque overZero : Nat → Nat

/-- A value of Reflect that its field of `w` bits cannot hold (R218, R219). -/
opaque noFit : Nat → Int → Int

/-- SNR where the envelope is below σ or σ is 0 (R219). -/
opaque decibels : Nat → Nat → Nat

end Sys2Proof.Config
end

