-- ==== Sys2Proof/Machine/Bits.lean ====
section
/-!
DEFINITION. Bit fields of numbers, two's complement, octet order and the arithmetic of network time, said once for
every file of the machine. Frames and records are little-endian unless their table says otherwise (00_scope, Notation).
-/
namespace Sys2Proof.Machine

/-- The `w` bits of `v` from bit `lo` upward. -/
def bits (v lo w : Nat) : Nat := v / 2 ^ lo % 2 ^ w

/-- One bit of `v`. -/
def bit (v i : Nat) : Bool := v / 2 ^ i % 2 == 1

/-- 1 for true, 0 for false. -/
def b2n (b : Bool) : Nat := if b then 1 else 0

/-- The signed value of `w` bits in two's complement. -/
def signed (w v : Nat) : Int := if v % 2 ^ w < 2 ^ (w - 1) then (v % 2 ^ w : Nat) else (v % 2 ^ w : Nat) - (2 ^ w : Nat)

/-- The `w`-bit two's complement pattern of an integer. -/
def unsigned (w : Nat) (i : Int) : Nat := (i % (2 ^ w : Nat)).toNat

/-- `v` held within `lo` and `hi`: values outside act as the nearer limit. -/
def clampN (lo hi v : Nat) : Nat := if v < lo then lo else if hi < v then hi else v

/-- An integer held within `lo` and `hi`. -/
def clampI (lo hi v : Int) : Int := if v < lo then lo else if hi < v then hi else v

/-- The quotient truncated toward zero. -/
def truncDiv (a : Int) (b : Nat) : Int := if a < 0 then -((a.natAbs / b : Nat) : Int) else (a.natAbs / b : Nat)

/-- The least integer not below `a / b`. -/
def ceilDiv (a b : Nat) : Nat := if b = 0 then 0 else (a + b - 1) / b

/-- Bit `i` of `v` set or cleared. -/
def setBit (v i : Nat) (b : Bool) : Nat := if bit v i == b then v else if b then v + 2 ^ i else v - 2 ^ i

/-- The number of bits of `v` set among the lowest `n`. -/
def popCount : Nat → Nat → Nat
  | 0, _ => 0
  | n + 1, v => v % 2 + popCount n (v / 2)

/-- The octet with the value `v` modulo 256. -/
def octet (v : Nat) : Byte := BitVec.ofNat 8 v

/-- `n` octets of `v`, least significant first. -/
def le : Nat → Nat → Octets
  | 0, _ => []
  | n + 1, v => octet v :: le n (v / 256)

/-- `n` octets of `v`, most significant first. -/
def be (n v : Nat) : Octets := (le n v).reverse

/-- The number an octet string spells, least significant octet first. -/
def leVal : Octets → Nat
  | [] => 0
  | b :: bs => b.toNat + 256 * leVal bs

/-- The number an octet string spells, most significant octet first. -/
def beVal (bs : Octets) : Nat := leVal bs.reverse

/-- `n` zero octets. -/
def zeros (n : Nat) : Octets := List.replicate n (octet 0)

/-- An octet string brought to `n` octets: cut, or filled with zeros. -/
def padTo (n : Nat) (bs : Octets) : Octets := bs.take n ++ zeros (n - bs.length)

/-- `n` octets from position `i`; octets beyond the end read zero. -/
def slice (bs : Octets) (i n : Nat) : Octets := padTo n (bs.drop i)

/-- The little-endian number of `n` octets at position `i`. -/
def leAt (bs : Octets) (i n : Nat) : Nat := leVal (slice bs i n)

/-- The big-endian number of `n` octets at position `i`. -/
def beAt (bs : Octets) (i n : Nat) : Nat := beVal (slice bs i n)

/-- The octet at position `i`, 0 beyond the end. -/
def octAt (bs : Octets) (i : Nat) : Nat := leAt bs i 1

/-- Octet strings compared as unsigned octets in order (R68). -/
def octLt : Octets → Octets → Bool
  | [], [] => false
  | [], _ :: _ => true
  | _ :: _, [] => false
  | a :: as, b :: bs => if a.toNat < b.toNat then true else if b.toNat < a.toNat then false else octLt as bs

/-- Element `i` of a list with a default. -/
def nth {α : Type} (d : α) : List α → Nat → α
  | [], _ => d
  | a :: _, 0 => a
  | _ :: as, i + 1 => nth d as i

/-- A list with element `i` changed. -/
def updNth {α : Type} (f : α → α) : List α → Nat → List α
  | [], _ => []
  | a :: as, 0 => f a :: as
  | a :: as, i + 1 => a :: updNth f as i

/-- Insertion into a list that `lt` orders, after the elements that are not above it. -/
def insertBy {α : Type} (lt : α → α → Bool) (a : α) : List α → List α
  | [] => [a]
  | b :: bs => if lt a b then a :: b :: bs else b :: insertBy lt a bs

/-- A stable sort by `lt`. -/
def sortBy {α : Type} (lt : α → α → Bool) : List α → List α
  | [] => []
  | a :: as => insertBy (fun x y => !lt y x) a (sortBy lt as)

/-- The sum of a list. -/
def sumN : List Nat → Nat
  | [] => 0
  | a :: as => a + sumN as

/-- The exact sum of a list of integers. -/
def sumI : List Int → Int
  | [] => 0
  | a :: as => a + sumI as

/-- The value listed for a key, if one is. -/
def kvFind {α : Type} : List (Nat × α) → Nat → Option α
  | [], _ => none
  | (k, v) :: t, q => if k = q then some v else kvFind t q

/-- A key given a value, in rising order of keys. -/
def kvSet {α : Type} : List (Nat × α) → Nat → α → List (Nat × α)
  | [], q, w => [(q, w)]
  | (k, v) :: t, q, w => if q < k then (q, w) :: (k, v) :: t else if q = k then (q, w) :: t else (k, v) :: kvSet t q w

/-- A key no longer listed. -/
def kvErase {α : Type} (m : List (Nat × α)) (q : Nat) : List (Nat × α) := m.filter (fun p => p.1 != q)

/-! ### Network time -/

/-- Whole nanoseconds since the PTP epoch: SEC × 10^9 + NS (R61). -/
def nsOf (t : Time) : Nat := t.sec * 1000000000 + t.ns

/-- Network time in units of 2^-32 ns. -/
def unitsOf (t : Time) : Nat := nsOf t * 4294967296 + t.frac

/-- The time of a number of 2^-32 ns; SEC has 64 bits (R34). -/
def timeOfUnits (u : Nat) : Time :=
  ⟨u / 4294967296 / 1000000000 % 18446744073709551616, u / 4294967296 % 1000000000, u % 4294967296⟩

/-- The time of a number of whole nanoseconds. -/
def timeOfNs (n : Nat) : Time := ⟨n / 1000000000 % 18446744073709551616, n % 1000000000, 0⟩

/-- TS64: bits [63:30] SEC[33:0], bits [29:0] NS (R63). -/
def ts64 (t : Time) : Nat := t.sec % 2 ^ 34 * 2 ^ 30 + t.ns % 2 ^ 30

/-- A lantern's or block's source ID: segment, node and channel (R6). -/
def srcId (seg node chan : Nat) : Nat := seg % 2 ^ 14 * 2 ^ 18 + node % 2 ^ 11 * 2 ^ 7 + chan % 2 ^ 7

/-- The channel of a source ID (R6). -/
def srcChan (s : Nat) : Nat := bits s 0 7

/-- The node of a source ID (R6). -/
def srcNode (s : Nat) : Nat := bits s 7 11

/-- The segment of a source ID (R6). -/
def srcSeg (s : Nat) : Nat := bits s 18 14

end Sys2Proof.Machine
end

