-- ==== Sys2Proof/Machine/RegMap.lean ====
section
/-!
DEFINITION. The register map of the module: one `Field` per field of the register tables of spec/ (R25, R60, R84,
R106, R131, R147, R166, R192, R221, R253, R254, R280, R298, R299, R319, R343, R344, R368, R389, R390, R409), with its
bus address (R13), its lowest bit, its width and its reset value, and the table that finds a register by its address.
A field of a banked register takes the lane, a field of a numbered register its index, a backhaul field its port (an index counts modulo
the number of registers, so that it always names one of them).
A reserved field is not listed: it reads 0 and a write of it has no effect (R11).
-/
namespace Sys2Proof.Machine

/-- One register field (R9): the bus address of its register (of the lowest word of a wide value, R15), its lowest bit
counted across the whole value, its width and its reset value. -/
structure Field where
  reg : Nat
  lo : Nat
  width : Nat
  reset : Nat
deriving DecidableEq, Repr

/-- The access codes of R9. -/
inductive Access where
  | rw | ro | wo | w1c | w1s | rwo
deriving DecidableEq, Repr

/-- Where a lane's copy of a banked register stands in the register store: Lane B's copies lie above every bus address. -/
def lanePart : Lane → Nat
  | .A => 0
  | .B => 0x100000000

/-- The reset contents of RFM_MAP_A and RFM_MAP_B, one 32-bit word each (R173). -/
def rfmDefaultMap (n : Nat) : Nat := if n = 0 then 0x55553661 else if n % 2 = 1 then 0x22222222 else if n < 10 then 0x43333337 else 0x33333337

/-- The reset contents of PLM_MAP, one 32-bit word each (R198). -/
def plmResetMap (n : Nat) : Nat := if n = 0 then 0x22222221 else if n < 4 then 0x22222222 else if n = 4 then 0x33333332 else 0x33333333

/-! ### SYS registers (01 R25) -/

def SYS_ID_PART : Field := ⟨0x40000000, 16, 16, 0x2048⟩
def SYS_ID_VARIANT : Field := ⟨0x40000000, 8, 8, 1⟩
def SYS_ID_STEP : Field := ⟨0x40000000, 0, 8, 1⟩
def SYS_RESET_CAUSE_NOLANE : Field := ⟨0x40000004, 6, 1, 0⟩
def SYS_RESET_CAUSE_BKP : Field := ⟨0x40000004, 5, 1, 0⟩
def SYS_RESET_CAUSE_POR : Field := ⟨0x40000004, 4, 1, 1⟩
def SYS_RESET_CAUSE_PIN : Field := ⟨0x40000004, 3, 1, 0⟩
def SYS_RESET_CAUSE_SOFT : Field := ⟨0x40000004, 2, 1, 0⟩
def SYS_RESET_CAUSE_LANEB : Field := ⟨0x40000004, 1, 1, 0⟩
def SYS_RESET_CAUSE_LANEA : Field := ⟨0x40000004, 0, 1, 0⟩
def SYS_RESET_CTRL_KEY : Field := ⟨0x40000008, 16, 16, 0⟩
def SYS_RESET_CTRL_SYSRST : Field := ⟨0x40000008, 0, 1, 0⟩
def SYS_IRQ_PEND_PEND (l : Lane) : Field := ⟨lanePart l + 0x40000010, 1, 21, 0⟩
def SYS_IRQ_EN_EN (l : Lane) : Field := ⟨lanePart l + 0x40000014, 1, 21, 0⟩
def SYS_IRQ_NEXT_ID (l : Lane) : Field := ⟨lanePart l + 0x40000018, 0, 5, 0⟩
def SYS_CLK_STATUS_MTRPLL : Field := ⟨0x40000020, 5, 1, 0⟩
def SYS_CLK_STATUS_RFPLL : Field := ⟨0x40000020, 4, 1, 0⟩
def SYS_CLK_STATUS_PLCPLL : Field := ⟨0x40000020, 3, 1, 0⟩
def SYS_CLK_STATUS_TBPLL : Field := ⟨0x40000020, 2, 1, 0⟩
def SYS_CLK_STATUS_SYSPLL : Field := ⟨0x40000020, 1, 1, 0⟩
def SYS_CLK_STATUS_REFOK : Field := ⟨0x40000020, 0, 1, 0⟩

/-! ### TB registers (02 R60) -/

def TB_CTRL_TWOSTEP_OK : Field := ⟨0x40010000, 4, 1, 1⟩
def TB_CTRL_TC_EN : Field := ⟨0x40010000, 3, 1, 0⟩
def TB_CTRL_PORTSEL : Field := ⟨0x40010000, 2, 1, 0⟩
def TB_CTRL_STEP_EN : Field := ⟨0x40010000, 1, 1, 1⟩
def TB_CTRL_SERVO_EN : Field := ⟨0x40010000, 0, 1, 0⟩
def TB_STATUS_ERRSAT : Field := ⟨0x40010004, 13, 1, 0⟩
def TB_STATUS_SYNCWRAP : Field := ⟨0x40010004, 12, 1, 0⟩
def TB_STATUS_TXTS1 : Field := ⟨0x40010004, 11, 1, 0⟩
def TB_STATUS_TXTS0 : Field := ⟨0x40010004, 10, 1, 0⟩
def TB_STATUS_NOFIX : Field := ⟨0x40010004, 9, 1, 0⟩
def TB_STATUS_FUMISS : Field := ⟨0x40010004, 8, 1, 0⟩
def TB_STATUS_SETREJ : Field := ⟨0x40010004, 7, 1, 0⟩
def TB_STATUS_INCCLAMP : Field := ⟨0x40010004, 6, 1, 0⟩
def TB_STATUS_SYNCLOSS : Field := ⟨0x40010004, 5, 1, 0⟩
def TB_STATUS_STEPPED : Field := ⟨0x40010004, 4, 1, 0⟩
def TB_STATUS_STCHG : Field := ⟨0x40010004, 3, 1, 0⟩
def TB_STATUS_STATE : Field := ⟨0x40010004, 0, 2, 0⟩
def TB_IRQ_EN_EN : Field := ⟨0x40010008, 3, 11, 0⟩
def TB_TIME_SEC : Field := ⟨0x40010010, 64, 64, 0⟩
def TB_TIME_NS : Field := ⟨0x40010010, 32, 30, 0⟩
def TB_TIME_FRAC : Field := ⟨0x40010010, 0, 32, 0⟩
def TB_SET_SEC : Field := ⟨0x40010020, 64, 64, 0⟩
def TB_SET_NS : Field := ⟨0x40010020, 32, 30, 0⟩
def TB_SET_FRAC : Field := ⟨0x40010020, 0, 32, 0⟩
def TB_INC_BASE_INT : Field := ⟨0x40010030, 32, 8, 0x04⟩
def TB_INC_BASE_FRAC : Field := ⟨0x40010030, 0, 32, 0⟩
def TB_INC_FREQ_INT : Field := ⟨0x40010038, 32, 8, 0x04⟩
def TB_INC_FREQ_FRAC : Field := ⟨0x40010038, 0, 32, 0⟩
def TB_INTEG_I : Field := ⟨0x40010040, 0, 32, 0⟩
def TB_GAIN_KI : Field := ⟨0x40010044, 16, 16, 16⟩
def TB_GAIN_KP : Field := ⟨0x40010044, 0, 16, 128⟩
def TB_SLEW_LIM_LIM : Field := ⟨0x40010048, 0, 24, 0x1A36E3⟩
def TB_STEP_THR_THR : Field := ⟨0x4001004C, 0, 32, 10000⟩
def TB_LOCK_CFG_LOCK_N : Field := ⟨0x40010050, 24, 8, 16⟩
def TB_LOCK_CFG_UNLOCK_THR : Field := ⟨0x40010050, 12, 12, 200⟩
def TB_LOCK_CFG_LOCK_THR : Field := ⟨0x40010050, 0, 12, 100⟩
def TB_SYNC_CFG_HOLD_MAX : Field := ⟨0x40010054, 16, 16, 60⟩
def TB_SYNC_CFG_DOMAIN : Field := ⟨0x40010054, 8, 8, 0⟩
def TB_SYNC_CFG_TOUT_N : Field := ⟨0x40010054, 4, 4, 3⟩
def TB_SYNC_CFG_LOG : Field := ⟨0x40010054, 0, 4, 0xD⟩
def TB_MASTER_CLOCKID : Field := ⟨0x40010058, 16, 64, 0⟩
def TB_MASTER_PORTNUM : Field := ⟨0x40010058, 0, 16, 0⟩
def TB_OFFSET_O : Field := ⟨0x40010068, 0, 64, 0⟩
def TB_SYNC_CNT_COUNT : Field := ⟨0x40010070, 0, 32, 0⟩
def TB_ERR_CNT_FUMISS_CNT : Field := ⟨0x40010074, 16, 16, 0⟩
def TB_ERR_CNT_NOFIX_CNT : Field := ⟨0x40010074, 0, 16, 0⟩
def TB_P0_LINKDLY_NS : Field := ⟨0x40010080, 16, 16, 0⟩
def TB_P0_LINKDLY_FRAC : Field := ⟨0x40010080, 0, 16, 0⟩
def TB_P1_LINKDLY_NS : Field := ⟨0x40010084, 16, 16, 0⟩
def TB_P1_LINKDLY_FRAC : Field := ⟨0x40010084, 0, 16, 0⟩
def TB_P0_ASYM_ASYM : Field := ⟨0x40010088, 0, 32, 0⟩
def TB_P1_ASYM_ASYM : Field := ⟨0x4001008C, 0, 32, 0⟩
def TB_P0_LAT_TXLAT : Field := ⟨0x40010090, 16, 16, 2560⟩
def TB_P0_LAT_RXLAT : Field := ⟨0x40010090, 0, 16, 7200⟩
def TB_P1_LAT_TXLAT : Field := ⟨0x40010094, 16, 16, 2560⟩
def TB_P1_LAT_RXLAT : Field := ⟨0x40010094, 0, 16, 7200⟩
def TB_P0_TXTS_SEQ : Field := ⟨0x400100A0, 112, 16, 0⟩
def TB_P0_TXTS_SEC : Field := ⟨0x400100A0, 64, 48, 0⟩
def TB_P0_TXTS_NS : Field := ⟨0x400100A0, 32, 30, 0⟩
def TB_P0_TXTS_FRAC : Field := ⟨0x400100A0, 0, 32, 0⟩
def TB_P1_TXTS_SEQ : Field := ⟨0x400100B0, 112, 16, 0⟩
def TB_P1_TXTS_SEC : Field := ⟨0x400100B0, 64, 48, 0⟩
def TB_P1_TXTS_NS : Field := ⟨0x400100B0, 32, 30, 0⟩
def TB_P1_TXTS_FRAC : Field := ⟨0x400100B0, 0, 32, 0⟩

/-! ### CRZ registers (03 R84) -/

def CRZ_CTRL_EN : Field := ⟨0x40020000, 0, 1, 0⟩
def CRZ_GRID_H_MS : Field := ⟨0x40020004, 7, 13, 400⟩
def CRZ_GRID_P_STEP : Field := ⟨0x40020004, 0, 7, 10⟩
def CRZ_SEG_SEG : Field := ⟨0x40020008, 0, 14, 0⟩
def CRZ_STATUS_TBDROP : Field := ⟨0x4002000C, 12, 1, 0⟩
def CRZ_STATUS_CFGREJ : Field := ⟨0x4002000C, 11, 1, 0⟩
def CRZ_STATUS_INJREJ : Field := ⟨0x4002000C, 10, 1, 0⟩
def CRZ_STATUS_GAP : Field := ⟨0x4002000C, 9, 1, 0⟩
def CRZ_STATUS_DIGERR_B : Field := ⟨0x4002000C, 8, 1, 0⟩
def CRZ_STATUS_DIGERR_A : Field := ⟨0x4002000C, 7, 1, 0⟩
def CRZ_STATUS_QWAIT_B : Field := ⟨0x4002000C, 6, 1, 0⟩
def CRZ_STATUS_QWAIT_A : Field := ⟨0x4002000C, 5, 1, 0⟩
def CRZ_STATUS_STALL : Field := ⟨0x4002000C, 4, 1, 0⟩
def CRZ_STATUS_DUP : Field := ⟨0x4002000C, 3, 1, 0⟩
def CRZ_STATUS_CNTWRAP : Field := ⟨0x4002000C, 2, 1, 0⟩
def CRZ_STATUS_AHEAD : Field := ⟨0x4002000C, 1, 1, 0⟩
def CRZ_STATUS_LATE : Field := ⟨0x4002000C, 0, 1, 0⟩
def CRZ_IRQ_EN_EN : Field := ⟨0x40020010, 0, 13, 0⟩
def CRZ_CUR_IDX_IDX : Field := ⟨0x40020018, 0, 64, 0⟩
def CRZ_SEAL_IDX_IDX : Field := ⟨0x40020020, 0, 64, 0⟩
def CRZ_LATE_CNT_COUNT : Field := ⟨0x40020028, 0, 32, 0⟩
def CRZ_DUP_CNT_COUNT : Field := ⟨0x4002002C, 0, 32, 0⟩
def CRZ_STALL_CNT_COUNT : Field := ⟨0x40020030, 0, 32, 0⟩
def CRZ_POOL_PEAK : Field := ⟨0x40020034, 16, 16, 0⟩
def CRZ_POOL_USED : Field := ⟨0x40020034, 0, 16, 0⟩
def CRZ_EQ_BASE_BASE : Field := ⟨0x40020040, 5, 17, 0⟩
def CRZ_EQ_SIZE_SIZE : Field := ⟨0x40020044, 0, 18, 32771⟩
def CRZ_EQ_RD_RD (l : Lane) : Field := ⟨lanePart l + 0x40020048, 0, 17, 0⟩
def CRZ_EQ_WR_WR (l : Lane) : Field := ⟨lanePart l + 0x4002004C, 0, 17, 0⟩
def CRZ_INJ_PAY_PAYLOAD : Field := ⟨0x40020050, 0, 128, 0⟩
def CRZ_INJ_CMD_CHAN : Field := ⟨0x40020060, 8, 7, 0⟩
def CRZ_INJ_CMD_KIND : Field := ⟨0x40020060, 0, 8, 0⟩
def CRZ_COV_SEL_ENTRY : Field := ⟨0x40020070, 0, 9, 0⟩
def CRZ_COV_IDXLO : Field := ⟨0x40020074, 16, 9, 0⟩
def CRZ_COV_LATECNT : Field := ⟨0x40020074, 8, 8, 0⟩
def CRZ_COV_COVER : Field := ⟨0x40020074, 0, 8, 0⟩
def CRZ_DIGEST_DIGEST : Field := ⟨0x40020080, 0, 256, 0⟩

/-! ### LSC registers (04 R106) -/

def LSC_CTRL_SPLIT : Field := ⟨0x40030000, 5, 1, 0⟩
def LSC_CTRL_AUTOREJOIN : Field := ⟨0x40030000, 4, 1, 1⟩
def LSC_CTRL_PREF_B : Field := ⟨0x40030000, 3, 1, 0⟩
def LSC_STATUS_NOLANE : Field := ⟨0x40030004, 13, 1, 0⟩
def LSC_STATUS_SVCSAT : Field := ⟨0x40030004, 12, 1, 0⟩
def LSC_STATUS_CFGREJ : Field := ⟨0x40030004, 11, 1, 0⟩
def LSC_STATUS_NDWRAP : Field := ⟨0x40030004, 10, 1, 0⟩
def LSC_STATUS_CEWRAP : Field := ⟨0x40030004, 9, 1, 0⟩
def LSC_STATUS_CBOVF : Field := ⟨0x40030004, 8, 1, 0⟩
def LSC_STATUS_CMPTMO : Field := ⟨0x40030004, 7, 1, 0⟩
def LSC_STATUS_REJOINED : Field := ⟨0x40030004, 6, 1, 0⟩
def LSC_STATUS_TAKEOVER : Field := ⟨0x40030004, 5, 1, 0⟩
def LSC_STATUS_OUT_B : Field := ⟨0x40030004, 4, 1, 0⟩
def LSC_STATUS_OUT_A : Field := ⟨0x40030004, 3, 1, 0⟩
def LSC_STATUS_DEGRADE : Field := ⟨0x40030004, 2, 1, 0⟩
def LSC_STATUS_SUSPECT : Field := ⟨0x40030004, 1, 1, 0⟩
def LSC_STATUS_MISMATCH : Field := ⟨0x40030004, 0, 1, 0⟩
def LSC_IRQ_EN_EN : Field := ⟨0x40030008, 0, 14, 0⟩
def LSC_ROLE_SUSP_CNT : Field := ⟨0x4003000C, 8, 8, 0⟩
def LSC_ROLE_DEGRADED : Field := ⟨0x4003000C, 7, 1, 0⟩
def LSC_ROLE_SUSPECT : Field := ⟨0x4003000C, 6, 1, 0⟩
def LSC_ROLE_STATE_B : Field := ⟨0x4003000C, 3, 3, 0⟩
def LSC_ROLE_STATE_A : Field := ⟨0x4003000C, 0, 3, 0⟩
def LSC_CAUSE_A_OUTS : Field := ⟨0x40030010, 16, 16, 0⟩
def LSC_CAUSE_A_CAUSE : Field := ⟨0x40030010, 0, 8, 0⟩
def LSC_CAUSE_B_OUTS : Field := ⟨0x40030014, 16, 16, 0⟩
def LSC_CAUSE_B_CAUSE : Field := ⟨0x40030014, 0, 8, 0⟩
def LSC_CMD_KEY : Field := ⟨0x40030018, 16, 16, 0⟩
def LSC_CMD_OP : Field := ⟨0x40030018, 0, 3, 0⟩
def LSC_CMP_WAIT_WAIT : Field := ⟨0x4003001C, 0, 16, 200⟩
def LSC_DIG_A_DIGEST : Field := ⟨0x40030020, 0, 256, 0⟩
def LSC_DIG_B_DIGEST : Field := ⟨0x40030040, 0, 256, 0⟩
def LSC_DIGIDX_A_IDX : Field := ⟨0x40030060, 0, 64, 0⟩
def LSC_DIGIDX_B_IDX : Field := ⟨0x40030068, 0, 64, 0⟩
def LSC_MIS_IDX_IDX : Field := ⟨0x40030070, 0, 64, 0⟩
def LSC_SEAL_SEAL (l : Lane) : Field := ⟨lanePart l + 0x40030100, 0, 1, 0⟩
def LSC_JOIN_REQ (l : Lane) : Field := ⟨lanePart l + 0x40030104, 0, 1, 0⟩
def LSC_CB_PEAK (l : Lane) : Field := ⟨lanePart l + 0x40030108, 16, 16, 0⟩
def LSC_CB_USED (l : Lane) : Field := ⟨lanePart l + 0x40030108, 0, 16, 0⟩
def LSC_ND_CNT_COUNT (l : Lane) : Field := ⟨lanePart l + 0x4003010C, 0, 32, 0⟩
def LSC_CE_CNT_COUNT (l : Lane) : Field := ⟨lanePart l + 0x40030110, 0, 32, 0⟩
def LSC_SVC_WCNT_COUNT (l : Lane) : Field := ⟨lanePart l + 0x40030114, 0, 32, 0⟩
def LSC_SRG_BASE_BASE (n : Nat) (l : Lane) : Field := ⟨lanePart l + 0x40030120 + 8 * (n % 16), 5, 17, 0⟩
def LSC_SRG_LEN_LEN (n : Nat) (l : Lane) : Field := ⟨lanePart l + 0x40030124 + 8 * (n % 16), 0, 16, 0⟩

/-! ### LNU registers (06 R147) -/

def LNU_CTRL_PATHDEF : Field := ⟨0x40040000, 2, 2, 2⟩
def LNU_CTRL_STAG_EN : Field := ⟨0x40040000, 1, 1, 1⟩
def LNU_CTRL_EN : Field := ⟨0x40040000, 0, 1, 0⟩
def LNU_STATUS_SVCREJ : Field := ⟨0x40040004, 10, 1, 0⟩
def LNU_STATUS_RNDUP : Field := ⟨0x40040004, 9, 1, 0⟩
def LNU_STATUS_CNTWRAP : Field := ⟨0x40040004, 8, 1, 0⟩
def LNU_STATUS_STAGOVF : Field := ⟨0x40040004, 7, 1, 0⟩
def LNU_STATUS_PROFORD : Field := ⟨0x40040004, 6, 1, 0⟩
def LNU_STATUS_PROFDEF : Field := ⟨0x40040004, 5, 1, 0⟩
def LNU_STATUS_MISS_PLC : Field := ⟨0x40040004, 4, 1, 0⟩
def LNU_STATUS_MISS_RFB : Field := ⟨0x40040004, 3, 1, 0⟩
def LNU_STATUS_MISS_RFA : Field := ⟨0x40040004, 2, 1, 0⟩
def LNU_STATUS_REJ : Field := ⟨0x40040004, 1, 1, 0⟩
def LNU_STATUS_CFGREJ : Field := ⟨0x40040004, 0, 1, 0⟩
def LNU_IRQ_EN_EN : Field := ⟨0x40040008, 0, 11, 0⟩
def LNU_LEAD_RF_EARLY : Field := ⟨0x40040010, 16, 16, 500⟩
def LNU_LEAD_RF_LEAD : Field := ⟨0x40040010, 0, 16, 150⟩
def LNU_LEAD_PLC_EARLY : Field := ⟨0x40040014, 16, 16, 800⟩
def LNU_LEAD_PLC_LEAD : Field := ⟨0x40040014, 0, 16, 300⟩
def LNU_REL_RH : Field := ⟨0x40040018, 0, 16, 1000⟩
def LNU_WAVE_OFS : Field := ⟨0x4004001C, 0, 16, 0⟩
def LNU_STAG_IMAX : Field := ⟨0x40040020, 0, 16, 500⟩
def LNU_QSTAT_PEAK : Field := ⟨0x40040024, 16, 16, 0⟩
def LNU_QSTAT_USED : Field := ⟨0x40040024, 0, 16, 0⟩
def LNU_ACC_CNT_COUNT : Field := ⟨0x40040028, 0, 32, 0⟩
def LNU_REJ_CNT_COUNT : Field := ⟨0x4004002C, 0, 32, 0⟩
def LNU_SENT_RFA_COUNT : Field := ⟨0x40040030, 0, 32, 0⟩
def LNU_SENT_RFB_COUNT : Field := ⟨0x40040034, 0, 32, 0⟩
def LNU_SENT_PLC_COUNT : Field := ⟨0x40040038, 0, 32, 0⟩
def LNU_MISS_RFA_COUNT : Field := ⟨0x4004003C, 0, 32, 0⟩
def LNU_MISS_RFB_COUNT : Field := ⟨0x40040040, 0, 32, 0⟩
def LNU_MISS_PLC_COUNT : Field := ⟨0x40040044, 0, 32, 0⟩
def LNU_REJ_LAST_CIDX : Field := ⟨0x40040048, 32, 32, 0⟩
def LNU_REJ_LAST_REASON : Field := ⟨0x40040048, 28, 4, 0⟩
def LNU_REJ_LAST_ORIGIN : Field := ⟨0x40040048, 26, 2, 0⟩
def LNU_REJ_LAST_TARGET : Field := ⟨0x40040048, 0, 16, 0⟩
def LNU_ACT_RECORD : Field := ⟨0x40040050, 0, 128, 0⟩
def LNU_DAY_EN (n : Nat) : Field := ⟨0x40040060 + 16 * (n % 2), 95, 1, 0⟩
def LNU_DAY_BANK (n : Nat) : Field := ⟨0x40040060 + 16 * (n % 2), 64, 2, 0⟩
def LNU_DAY_DAYBASE (n : Nat) : Field := ⟨0x40040060 + 16 * (n % 2), 0, 64, 0⟩
def LNU_BANK_N_NENT (n : Nat) : Field := ⟨0x40040080 + 4 * (n % 4), 0, 13, 0⟩
def LNU_PW_IDX_BANK : Field := ⟨0x40040090, 12, 2, 0⟩
def LNU_PW_IDX_ENTRY : Field := ⟨0x40040090, 0, 12, 0⟩
def LNU_PW_DATA_ENTRY : Field := ⟨0x40040094, 0, 128, 0⟩
def LNU_PR_DATA_ENTRY : Field := ⟨0x400400A4, 0, 128, 0⟩
def LNU_GRP_PH (n : Nat) : Field := ⟨0x40040400 + 4 * (n % 256), 16, 2, 0⟩
def LNU_GRP_INR (n : Nat) : Field := ⟨0x40040400 + 4 * (n % 256), 0, 16, 0⟩
def LNU_HOME_HOME (n : Nat) : Field := ⟨0x40040800 + 4 * (n % 64), 0, 32, 0⟩

/-! ### ESC registers (07 R166) -/

def ESC_CTRL_CMDCH : Field := ⟨0x40050000, 8, 7, 120⟩
def ESC_CTRL_PATH : Field := ⟨0x40050000, 1, 2, 2⟩
def ESC_CTRL_EN : Field := ⟨0x40050000, 0, 1, 0⟩
def ESC_STATUS_CFGERR : Field := ⟨0x40050004, 12, 1, 0⟩
def ESC_STATUS_ESCUE : Field := ⟨0x40050004, 11, 1, 0⟩
def ESC_STATUS_WAIT_B : Field := ⟨0x40050004, 10, 1, 0⟩
def ESC_STATUS_WAIT_A : Field := ⟨0x40050004, 9, 1, 0⟩
def ESC_STATUS_RCLAMP : Field := ⟨0x40050004, 8, 1, 0⟩
def ESC_STATUS_CMDOVF : Field := ⟨0x40050004, 7, 1, 0⟩
def ESC_STATUS_CMDREJ : Field := ⟨0x40050004, 6, 1, 0⟩
def ESC_STATUS_OUTDROP : Field := ⟨0x40050004, 5, 1, 0⟩
def ESC_STATUS_TRKFULL : Field := ⟨0x40050004, 4, 1, 0⟩
def ESC_STATUS_DETOVF : Field := ⟨0x40050004, 3, 1, 0⟩
def ESC_STATUS_DETLATE : Field := ⟨0x40050004, 2, 1, 0⟩
def ESC_STATUS_CNTWRAP : Field := ⟨0x40050004, 1, 1, 0⟩
def ESC_STATUS_CFGREJ : Field := ⟨0x40050004, 0, 1, 0⟩
def ESC_IRQ_EN_EN : Field := ⟨0x40050008, 0, 13, 0⟩
def ESC_DET_KIND_VAL : Field := ⟨0x4005000C, 16, 8, 0x10⟩
def ESC_DET_KIND_MASK : Field := ⟨0x4005000C, 8, 8, 0xFF⟩
def ESC_DET_CH : Field := ⟨0x4005000C, 0, 7, 3⟩
def ESC_SPEED_VMAX : Field := ⟨0x40050010, 16, 16, 40000⟩
def ESC_SPEED_VMIN : Field := ⟨0x40050010, 0, 16, 1000⟩
def ESC_TRACK_NAHEAD : Field := ⟨0x40050014, 24, 4, 6⟩
def ESC_TRACK_NEIGH : Field := ⟨0x40050014, 22, 2, 1⟩
def ESC_TRACK_GMIN : Field := ⟨0x40050014, 0, 16, 500⟩
def ESC_TIMING_TTENT : Field := ⟨0x40050018, 16, 16, 1000⟩
def ESC_TIMING_MERGE : Field := ⟨0x40050018, 0, 16, 300⟩
def ESC_OUTMAX_OUTMAX : Field := ⟨0x4005001C, 0, 10, 256⟩
def ESC_DET_CNT_COUNT : Field := ⟨0x40050020, 0, 32, 0⟩
def ESC_ACT_CNT_COUNT : Field := ⟨0x40050024, 0, 32, 0⟩
def ESC_TRK_CNT_COUNT : Field := ⟨0x40050028, 0, 32, 0⟩
def ESC_LOST_CNT_COUNT : Field := ⟨0x4005002C, 0, 32, 0⟩
def ESC_DROP_CNT_COUNT : Field := ⟨0x40050030, 0, 32, 0⟩
def ESC_MERGE_CNT_COUNT : Field := ⟨0x40050034, 0, 32, 0⟩
def ESC_TRK_SEL_TRACK (l : Lane) : Field := ⟨lanePart l + 0x40050040, 0, 8, 0⟩
def ESC_TRK_RECORD (l : Lane) : Field := ⟨lanePart l + 0x40050044, 0, 128, 0⟩
def ESC_LST_SEL_LANTERN (l : Lane) : Field := ⟨lanePart l + 0x40050058, 0, 11, 0⟩
def ESC_LST_PLAN (l : Lane) : Field := ⟨lanePart l + 0x40050060, 88, 40, 0⟩
def ESC_LST_DIMAT (l : Lane) : Field := ⟨lanePart l + 0x40050060, 48, 40, 0⟩
def ESC_LST_LITFROM (l : Lane) : Field := ⟨lanePart l + 0x40050060, 8, 40, 0⟩
def ESC_LST_LIT (l : Lane) : Field := ⟨lanePart l + 0x40050060, 1, 1, 0⟩
def ESC_LST_HELD (l : Lane) : Field := ⟨lanePart l + 0x40050060, 0, 1, 0⟩
def ESC_OUTCHK_CHK : Field := ⟨0x40050070, 0, 32, 0⟩
def ESC_CHAIN_W0_EN (n : Nat) : Field := ⟨0x40050400 + 16 * (n % 64), 31, 1, 0⟩
def ESC_CHAIN_W0_NPOLE (n : Nat) : Field := ⟨0x40050400 + 16 * (n % 64), 16, 8, 0⟩
def ESC_CHAIN_W0_HI (n : Nat) : Field := ⟨0x40050400 + 16 * (n % 64), 0, 10, 1000⟩
def ESC_CHAIN_W1_BASE (n : Nat) : Field := ⟨0x40050404 + 16 * (n % 64), 16, 10, 0⟩
def ESC_CHAIN_W1_FDN (n : Nat) : Field := ⟨0x40050404 + 16 * (n % 64), 4, 4, 8⟩
def ESC_CHAIN_W1_FUP (n : Nat) : Field := ⟨0x40050404 + 16 * (n % 64), 0, 4, 4⟩
def ESC_CHAIN_W2_DWELL (n : Nat) : Field := ⟨0x40050408 + 16 * (n % 64), 16, 16, 3000⟩
def ESC_CHAIN_W2_TLEAD (n : Nat) : Field := ⟨0x40050408 + 16 * (n % 64), 0, 16, 400⟩
def ESC_OUT_INFO_W0_IDX (l : Lane) : Field := ⟨lanePart l + 0x40053F00, 0, 64, 0⟩
def ESC_OUT_INFO_W2_CHK (l : Lane) : Field := ⟨lanePart l + 0x40053F08, 0, 32, 0⟩
def ESC_OUT_INFO_W3_DROP (l : Lane) : Field := ⟨lanePart l + 0x40053F0C, 16, 10, 0⟩
def ESC_OUT_INFO_W3_NACT (l : Lane) : Field := ⟨lanePart l + 0x40053F0C, 0, 10, 0⟩
def ESC_POLE_LANTERN (n : Nat) : Field := ⟨0x40058000 + 4 * (n % 8192), 21, 11, 0⟩
def ESC_POLE_POS (n : Nat) : Field := ⟨0x40058000 + 4 * (n % 8192), 0, 21, 0⟩

/-! ### FLT registers (05 R131) -/

def FLT_CTRL_COLLECTOR : Field := ⟨0x40060000, 1, 1, 0⟩
def FLT_CTRL_EN : Field := ⟨0x40060000, 0, 1, 0⟩
def FLT_STATUS_RESUE : Field := ⟨0x40060004, 8, 1, 0⟩
def FLT_STATUS_INQOVF : Field := ⟨0x40060004, 7, 1, 0⟩
def FLT_STATUS_INREJ : Field := ⟨0x40060004, 6, 1, 0⟩
def FLT_STATUS_SENDREJ : Field := ⟨0x40060004, 5, 1, 0⟩
def FLT_STATUS_SENDLATE : Field := ⟨0x40060004, 4, 1, 0⟩
def FLT_STATUS_WAIT_B : Field := ⟨0x40060004, 3, 1, 0⟩
def FLT_STATUS_WAIT_A : Field := ⟨0x40060004, 2, 1, 0⟩
def FLT_STATUS_CNTWRAP : Field := ⟨0x40060004, 1, 1, 0⟩
def FLT_STATUS_CFGREJ : Field := ⟨0x40060004, 0, 1, 0⟩
def FLT_IRQ_EN_EN : Field := ⟨0x40060008, 0, 9, 0⟩
def FLT_SPREAD_W : Field := ⟨0x4006000C, 0, 10, 64⟩
def FLT_COL_CFG_INPORT : Field := ⟨0x40060010, 16, 16, 0⟩
def FLT_COL_CFG_NREP : Field := ⟨0x40060010, 0, 10, 0⟩
def FLT_INMASK_MASK : Field := ⟨0x40060018, 0, 64, 0⟩
def FLT_SEND_MASK_MASK : Field := ⟨0x40060020, 0, 64, 0⟩
def FLT_SEND_DIST : Field := ⟨0x40060028, 8, 1, 0⟩
def FLT_SEND_PART : Field := ⟨0x40060028, 0, 4, 0⟩
def FLT_SEND_CNT_COUNT : Field := ⟨0x40060030, 0, 32, 0⟩
def FLT_LATE_CNT_COUNT : Field := ⟨0x40060034, 0, 32, 0⟩
def FLT_IN_CNT_COUNT : Field := ⟨0x40060038, 0, 32, 0⟩
def FLT_INREJ_CNT_COUNT : Field := ⟨0x4006003C, 0, 32, 0⟩
def FLT_INQ_PEAK : Field := ⟨0x40060040, 16, 16, 0⟩
def FLT_INQ_USED : Field := ⟨0x40060040, 0, 16, 0⟩
def FLT_RESCHK_CHK : Field := ⟨0x40060050, 0, 32, 0⟩
def FLT_RCV_IDX_IDX : Field := ⟨0x40060058, 0, 64, 0⟩
def FLT_REPTAB_VALID1 (n : Nat) : Field := ⟨0x40060400 + 4 * (n % 256), 31, 1, 0⟩
def FLT_REPTAB_SEG1 (n : Nat) : Field := ⟨0x40060400 + 4 * (n % 256), 16, 14, 0⟩
def FLT_REPTAB_VALID0 (n : Nat) : Field := ⟨0x40060400 + 4 * (n % 256), 15, 1, 0⟩
def FLT_REPTAB_SEG0 (n : Nat) : Field := ⟨0x40060400 + 4 * (n % 256), 0, 14, 0⟩
def FLT_RCV_GOT : Field := ⟨0x40060800, 0, 512, 0⟩
def FLT_PROG_W0_EN (n : Nat) : Field := ⟨0x40061000 + 32 * (n % 64), 31, 1, 0⟩
def FLT_PROG_W0_INCL_LATE (n : Nat) : Field := ⟨0x40061000 + 32 * (n % 64), 30, 1, 0⟩
def FLT_PROG_W0_SIGNED (n : Nat) : Field := ⟨0x40061000 + 32 * (n % 64), 29, 1, 0⟩
def FLT_PROG_W0_OPW (n : Nat) : Field := ⟨0x40061000 + 32 * (n % 64), 27, 2, 0⟩
def FLT_PROG_W0_OP (n : Nat) : Field := ⟨0x40061000 + 32 * (n % 64), 20, 4, 0⟩
def FLT_PROG_W0_CH_HI (n : Nat) : Field := ⟨0x40061000 + 32 * (n % 64), 7, 7, 0⟩
def FLT_PROG_W0_CH_LO (n : Nat) : Field := ⟨0x40061000 + 32 * (n % 64), 0, 7, 0⟩
def FLT_PROG_W1_KIND_MASK (n : Nat) : Field := ⟨0x40061004 + 32 * (n % 64), 24, 8, 0⟩
def FLT_PROG_W1_KIND_VAL (n : Nat) : Field := ⟨0x40061004 + 32 * (n % 64), 16, 8, 0⟩
def FLT_PROG_W1_SEGSEL (n : Nat) : Field := ⟨0x40061004 + 32 * (n % 64), 0, 2, 0⟩
def FLT_PROG_W2_NODE_HI (n : Nat) : Field := ⟨0x40061008 + 32 * (n % 64), 16, 11, 0⟩
def FLT_PROG_W2_NODE_LO (n : Nat) : Field := ⟨0x40061008 + 32 * (n % 64), 0, 11, 0⟩
def FLT_PROG_W3_SEG_VAL (n : Nat) : Field := ⟨0x4006100C + 32 * (n % 64), 0, 14, 0⟩
def FLT_PROG_W4_ARGOFF (n : Nat) : Field := ⟨0x40061010 + 32 * (n % 64), 16, 11, 0⟩
def FLT_PROG_W4_ARGSEL (n : Nat) : Field := ⟨0x40061010 + 32 * (n % 64), 15, 1, 0⟩
def FLT_PROG_W4_OPOFF (n : Nat) : Field := ⟨0x40061010 + 32 * (n % 64), 0, 11, 0⟩
def FLT_PROG_W5_SHIFT (n : Nat) : Field := ⟨0x40061014 + 32 * (n % 64), 24, 6, 0⟩
def FLT_PROG_W5_BITSEL (n : Nat) : Field := ⟨0x40061014 + 32 * (n % 64), 0, 6, 0⟩
def FLT_PROG_W6_HBASE (n : Nat) : Field := ⟨0x40061018 + 32 * (n % 64), 0, 64, 0⟩
def FLT_RES_INFO_W0_IDX (l : Lane) : Field := ⟨lanePart l + 0x40067F00, 0, 64, 0⟩
def FLT_RES_INFO_W2_CHK (l : Lane) : Field := ⟨lanePart l + 0x40067F08, 0, 32, 0⟩
def FLT_RES_INFO_W3_POISONED (l : Lane) : Field := ⟨lanePart l + 0x40067F0C, 0, 16, 0⟩

/-! ### RFM registers (08 R192) -/

def RFM_CTRL_RUNST_B : Field := ⟨0x40070000, 5, 2, 0⟩
def RFM_CTRL_EN_B : Field := ⟨0x40070000, 4, 1, 0⟩
def RFM_CTRL_RUNST_A : Field := ⟨0x40070000, 1, 2, 0⟩
def RFM_CTRL_EN_A : Field := ⟨0x40070000, 0, 1, 0⟩
def RFM_STATUS_FCEXH : Field := ⟨0x40070004, 14, 1, 0⟩
def RFM_STATUS_FCHALF : Field := ⟨0x40070004, 13, 1, 0⟩
def RFM_STATUS_DLFAIL : Field := ⟨0x40070004, 12, 1, 0⟩
def RFM_STATUS_DLQFULL : Field := ⟨0x40070004, 11, 1, 0⟩
def RFM_STATUS_NBRCHG : Field := ⟨0x40070004, 10, 1, 0⟩
def RFM_STATUS_LOST : Field := ⟨0x40070004, 9, 1, 0⟩
def RFM_STATUS_ADRIFT : Field := ⟨0x40070004, 8, 1, 0⟩
def RFM_STATUS_EVDROP : Field := ⟨0x40070004, 7, 1, 0⟩
def RFM_STATUS_BADORIG : Field := ⟨0x40070004, 6, 1, 0⟩
def RFM_STATUS_REPLAY : Field := ⟨0x40070004, 5, 1, 0⟩
def RFM_STATUS_SECFAIL : Field := ⟨0x40070004, 4, 1, 0⟩
def RFM_STATUS_MAPERR_B : Field := ⟨0x40070004, 3, 1, 0⟩
def RFM_STATUS_MAPERR_A : Field := ⟨0x40070004, 2, 1, 0⟩
def RFM_STATUS_CNTWRAP : Field := ⟨0x40070004, 1, 1, 0⟩
def RFM_STATUS_CFGREJ : Field := ⟨0x40070004, 0, 1, 0⟩
def RFM_IRQ_EN_EN : Field := ⟨0x40070008, 0, 15, 0⟩
def RFM_RFA_CFG_CH : Field := ⟨0x40070010, 24, 8, 0⟩
def RFM_RFA_CFG_SFOFS : Field := ⟨0x40070010, 16, 7, 0⟩
def RFM_RFA_CFG_TXPWR : Field := ⟨0x40070010, 8, 5, 20⟩
def RFM_RFA_CFG_RATE : Field := ⟨0x40070010, 4, 2, 3⟩
def RFM_RFB_CFG_CH : Field := ⟨0x40070014, 24, 8, 0⟩
def RFM_RFB_CFG_SFOFS : Field := ⟨0x40070014, 16, 7, 0⟩
def RFM_RFB_CFG_TXPWR : Field := ⟨0x40070014, 8, 5, 20⟩
def RFM_RFB_CFG_RATE : Field := ⟨0x40070014, 4, 2, 3⟩
def RFM_RFA_CHLIST_CHLIST : Field := ⟨0x40070018, 0, 32, 0⟩
def RFM_RFB_CHLIST_CHLIST : Field := ⟨0x4007001C, 0, 32, 0⟩
def RFM_LINK_DARN_MAX : Field := ⟨0x40070020, 24, 4, 8⟩
def RFM_LINK_HOLD : Field := ⟨0x40070020, 16, 8, 15⟩
def RFM_LINK_TOL : Field := ⟨0x40070020, 8, 8, 40⟩
def RFM_WAKE_WSFN : Field := ⟨0x40070024, 16, 16, 0⟩
def RFM_WAKE_WL_NEXT : Field := ⟨0x40070024, 2, 2, 0⟩
def RFM_WAKE_WL : Field := ⟨0x40070024, 0, 2, 0⟩
def RFM_SEC_KSLOTB : Field := ⟨0x40070028, 24, 5, 0⟩
def RFM_SEC_KSLOT1 : Field := ⟨0x40070028, 16, 5, 0⟩
def RFM_SEC_KSLOT0 : Field := ⟨0x40070028, 8, 5, 0⟩
def RFM_SEC_TXKEY : Field := ⟨0x40070028, 0, 1, 0⟩
def RFM_FC_FC : Field := ⟨0x4007002C, 0, 32, 0⟩
def RFM_SFN_SFN : Field := ⟨0x40070030, 0, 64, 0⟩
def RFM_RX_A_COUNT : Field := ⟨0x40070040, 0, 32, 0⟩
def RFM_RX_B_COUNT : Field := ⟨0x40070044, 0, 32, 0⟩
def RFM_TX_A_COUNT : Field := ⟨0x40070048, 0, 32, 0⟩
def RFM_TX_B_COUNT : Field := ⟨0x4007004C, 0, 32, 0⟩
def RFM_DROP_COUNT : Field := ⟨0x40070050, 0, 32, 0⟩
def RFM_DLFAIL_CNT_COUNT : Field := ⟨0x40070054, 0, 32, 0⟩
def RFM_TXBUF_PAYLOAD : Field := ⟨0x40070100, 0, 864, 0⟩
def RFM_TXCMD_HANDLE : Field := ⟨0x40070170, 24, 8, 0⟩
def RFM_TXCMD_DST : Field := ⟨0x40070170, 12, 11, 0⟩
def RFM_TXCMD_LEN : Field := ⟨0x40070170, 0, 7, 0⟩
def RFM_DLQ_STAT_USED_B : Field := ⟨0x40070174, 16, 5, 0⟩
def RFM_DLQ_STAT_USED_A : Field := ⟨0x40070174, 0, 5, 0⟩
def RFM_MAP_A_CODE (n : Nat) : Field := ⟨0x40070200 + 4 * (n % 16), 0, 32, rfmDefaultMap n⟩
def RFM_MAP_B_CODE (n : Nat) : Field := ⟨0x40070240 + 4 * (n % 16), 0, 32, rfmDefaultMap n⟩
def RFM_NBR_W0_EN (n : Nat) : Field := ⟨0x40070300 + 8 * (n % 8), 31, 1, 0⟩
def RFM_NBR_W0_RADIO (n : Nat) : Field := ⟨0x40070300 + 8 * (n % 8), 30, 1, 0⟩
def RFM_NBR_W0_SEG (n : Nat) : Field := ⟨0x40070300 + 8 * (n % 8), 16, 14, 0⟩
def RFM_NBR_W0_CH (n : Nat) : Field := ⟨0x40070300 + 8 * (n % 8), 8, 8, 0⟩
def RFM_NBR_W0_LSLOT (n : Nat) : Field := ⟨0x40070300 + 8 * (n % 8), 0, 7, 0⟩
def RFM_NBR_W1_PRESENT (n : Nat) : Field := ⟨0x40070304 + 8 * (n % 8), 31, 1, 0⟩
def RFM_NBR_W1_MISSES (n : Nat) : Field := ⟨0x40070304 + 8 * (n % 8), 29, 2, 0⟩
def RFM_LTAB_W0_EN (n : Nat) : Field := ⟨0x40078000 + 16 * (n % 2048), 31, 1, 0⟩
def RFM_LTAB_W0_SLEEPY (n : Nat) : Field := ⟨0x40078000 + 16 * (n % 2048), 30, 1, 0⟩
def RFM_LTAB_W0_RELAYED (n : Nat) : Field := ⟨0x40078000 + 16 * (n % 2048), 29, 1, 0⟩
def RFM_LTAB_W0_RELAY (n : Nat) : Field := ⟨0x40078000 + 16 * (n % 2048), 28, 1, 0⟩
def RFM_LTAB_W0_CELL (n : Nat) : Field := ⟨0x40078000 + 16 * (n % 2048), 22, 6, 0⟩
def RFM_LTAB_W0_RCELL (n : Nat) : Field := ⟨0x40078000 + 16 * (n % 2048), 16, 6, 0⟩
def RFM_LTAB_W0_RP (n : Nat) : Field := ⟨0x40078000 + 16 * (n % 2048), 8, 8, 0⟩
def RFM_LTAB_W0_PH (n : Nat) : Field := ⟨0x40078000 + 16 * (n % 2048), 0, 8, 0⟩
def RFM_LTAB_W1_PARENT (n : Nat) : Field := ⟨0x40078004 + 16 * (n % 2048), 16, 11, 0⟩
def RFM_LTAB_W1_FCKEY (n : Nat) : Field := ⟨0x40078004 + 16 * (n % 2048), 0, 2, 0⟩
def RFM_LTAB_W2_FC (n : Nat) : Field := ⟨0x40078008 + 16 * (n % 2048), 0, 32, 0⟩
def RFM_LTAB_W3_STATE (n : Nat) : Field := ⟨0x4007800C + 16 * (n % 2048), 30, 2, 0⟩
def RFM_LTAB_W3_MISS (n : Nat) : Field := ⟨0x4007800C + 16 * (n % 2048), 28, 2, 0⟩
def RFM_LTAB_W3_DARNF (n : Nat) : Field := ⟨0x4007800C + 16 * (n % 2048), 24, 4, 0⟩
def RFM_LTAB_W3_RSSI (n : Nat) : Field := ⟨0x4007800C + 16 * (n % 2048), 16, 8, 0⟩
def RFM_LTAB_W3_SYNC (n : Nat) : Field := ⟨0x4007800C + 16 * (n % 2048), 0, 16, 0⟩

/-! ### PLM registers (09 R221) -/

def PLM_CTRL_RUNST_R : Field := ⟨0x40080000, 5, 2, 0⟩
def PLM_CTRL_REFL_EN : Field := ⟨0x40080000, 4, 1, 0⟩
def PLM_CTRL_RUNST : Field := ⟨0x40080000, 1, 2, 0⟩
def PLM_CTRL_EN : Field := ⟨0x40080000, 0, 1, 0⟩
def PLM_STATUS_MAPERR : Field := ⟨0x40080004, 17, 1, 0⟩
def PLM_STATUS_RABORT : Field := ⟨0x40080004, 16, 1, 0⟩
def PLM_STATUS_BASEUNST : Field := ⟨0x40080004, 15, 1, 0⟩
def PLM_STATUS_BASEDONE : Field := ⟨0x40080004, 14, 1, 0⟩
def PLM_STATUS_STARTREJ : Field := ⟨0x40080004, 13, 1, 0⟩
def PLM_STATUS_RUNDONE : Field := ⟨0x40080004, 12, 1, 0⟩
def PLM_STATUS_FCEXH : Field := ⟨0x40080004, 11, 1, 0⟩
def PLM_STATUS_FCHALF : Field := ⟨0x40080004, 10, 1, 0⟩
def PLM_STATUS_FOREIGN : Field := ⟨0x40080004, 9, 1, 0⟩
def PLM_STATUS_SILENT : Field := ⟨0x40080004, 8, 1, 0⟩
def PLM_STATUS_DLFAIL : Field := ⟨0x40080004, 7, 1, 0⟩
def PLM_STATUS_DLQFULL : Field := ⟨0x40080004, 6, 1, 0⟩
def PLM_STATUS_EVDROP : Field := ⟨0x40080004, 5, 1, 0⟩
def PLM_STATUS_REPLAY : Field := ⟨0x40080004, 4, 1, 0⟩
def PLM_STATUS_SECFAIL : Field := ⟨0x40080004, 3, 1, 0⟩
def PLM_STATUS_KEYERR : Field := ⟨0x40080004, 2, 1, 0⟩
def PLM_STATUS_CNTWRAP : Field := ⟨0x40080004, 1, 1, 0⟩
def PLM_STATUS_CFGREJ : Field := ⟨0x40080004, 0, 1, 0⟩
def PLM_IRQ_EN_EN : Field := ⟨0x40080008, 0, 18, 0⟩
def PLM_CFG_TPATH : Field := ⟨0x40080010, 16, 2, 0⟩
def PLM_CFG_CELLOFS : Field := ⟨0x40080010, 8, 6, 0⟩
def PLM_CFG_TXATT : Field := ⟨0x40080010, 4, 4, 0⟩
def PLM_CFG_MOD : Field := ⟨0x40080010, 0, 2, 2⟩
def PLM_LAT_TXLAT : Field := ⟨0x40080014, 16, 16, 0⟩
def PLM_LAT_RXLAT : Field := ⟨0x40080014, 0, 16, 0⟩
def PLM_SEC_PKSLOT1 : Field := ⟨0x40080018, 16, 5, 0⟩
def PLM_SEC_PKSLOT0 : Field := ⟨0x40080018, 8, 5, 0⟩
def PLM_SEC_PTXKEY : Field := ⟨0x40080018, 0, 1, 0⟩
def PLM_FC_FC : Field := ⟨0x4008001C, 0, 32, 0⟩
def PLM_PCN_PCN : Field := ⟨0x40080020, 0, 64, 0⟩
def PLM_RX_COUNT : Field := ⟨0x40080030, 0, 32, 0⟩
def PLM_TX_COUNT : Field := ⟨0x40080034, 0, 32, 0⟩
def PLM_DROP_COUNT : Field := ⟨0x40080038, 0, 32, 0⟩
def PLM_DLFAIL_CNT_COUNT : Field := ⟨0x4008003C, 0, 32, 0⟩
def PLM_RFL_RUNS_COUNT : Field := ⟨0x40080040, 0, 32, 0⟩
def PLM_TXBUF_PAYLOAD : Field := ⟨0x40080100, 0, 1024, 0⟩
def PLM_TXCMD_HANDLE : Field := ⟨0x40080180, 24, 8, 0⟩
def PLM_TXCMD_DST : Field := ⟨0x40080180, 12, 11, 0⟩
def PLM_TXCMD_LEN : Field := ⟨0x40080180, 0, 8, 0⟩
def PLM_DLQ_STAT_USED : Field := ⟨0x40080184, 0, 5, 0⟩
def PLM_MAP_CODE (n : Nat) : Field := ⟨0x40080200 + 4 * (n % 8), 0, 32, plmResetMap n⟩
def PLM_RFL_CFG_RXG : Field := ⟨0x40080400, 24, 4, 8⟩
def PLM_RFL_CFG_NAVGL : Field := ⟨0x40080400, 16, 4, 8⟩
def PLM_RFL_CFG_COND : Field := ⟨0x40080400, 12, 1, 0⟩
def PLM_RFL_CFG_SPATH : Field := ⟨0x40080400, 8, 2, 0⟩
def PLM_RFL_CFG_TCH : Field := ⟨0x40080400, 0, 2, 1⟩
def PLM_RFL_LEVEL_LEVEL : Field := ⟨0x40080404, 0, 10, 0⟩
def PLM_RFL_DET_SHORTK : Field := ⟨0x40080408, 24, 8, 128⟩
def PLM_RFL_DET_NOISEK : Field := ⟨0x40080408, 16, 8, 60⟩
def PLM_RFL_DET_THR : Field := ⟨0x40080408, 0, 16, 328⟩
def PLM_RFL_ZERO_ZERO : Field := ⟨0x40080410, 0, 32, 0⟩
def PLM_RFL_CMD_SLOT : Field := ⟨0x40080420, 4, 3, 0⟩
def PLM_RFL_CMD_OP : Field := ⟨0x40080420, 0, 3, 0⟩
def PLM_RFL_TSTART_T10 : Field := ⟨0x40080428, 0, 40, 0⟩
def PLM_RFL_STAT_SHOTS : Field := ⟨0x40080430, 16, 16, 0⟩
def PLM_RFL_STAT_PHASE : Field := ⟨0x40080430, 0, 3, 0⟩
def PLM_RFL_SECT_VF (n : Nat) : Field := ⟨0x40080440 + 4 * (n % 4), 20, 12, if n = 0 then 2458 else 0⟩
def PLM_RFL_SECT_END (n : Nat) : Field := ⟨0x40080440 + 4 * (n % 4), 0, 20, 0⟩
def PLM_RFL_BDIR_VALID (n : Nat) : Field := ⟨0x40080460 + 4 * (n % 8), 31, 1, 0⟩
def PLM_RFL_BDIR_PATH (n : Nat) : Field := ⟨0x40080460 + 4 * (n % 8), 28, 2, 0⟩
def PLM_RFL_BDIR_COND (n : Nat) : Field := ⟨0x40080460 + 4 * (n % 8), 27, 1, 0⟩
def PLM_RFL_BDIR_TCH (n : Nat) : Field := ⟨0x40080460 + 4 * (n % 8), 25, 2, 0⟩
def PLM_RFL_BDIR_RXG (n : Nat) : Field := ⟨0x40080460 + 4 * (n % 8), 21, 4, 0⟩
def PLM_RFL_BDIR_LEVEL (n : Nat) : Field := ⟨0x40080460 + 4 * (n % 8), 0, 10, 0⟩
def PLM_LTAB_W0_EN (n : Nat) : Field := ⟨0x40088000 + 16 * (n % 2048), 31, 1, 0⟩
def PLM_LTAB_W0_CELL (n : Nat) : Field := ⟨0x40088000 + 16 * (n % 2048), 24, 6, 0⟩
def PLM_LTAB_W0_PRP (n : Nat) : Field := ⟨0x40088000 + 16 * (n % 2048), 8, 8, 0⟩
def PLM_LTAB_W0_PPH (n : Nat) : Field := ⟨0x40088000 + 16 * (n % 2048), 0, 8, 0⟩
def PLM_LTAB_W1_FCKEY (n : Nat) : Field := ⟨0x40088004 + 16 * (n % 2048), 16, 2, 0⟩
def PLM_LTAB_W1_DLY (n : Nat) : Field := ⟨0x40088004 + 16 * (n % 2048), 0, 16, 0⟩
def PLM_LTAB_W2_FC (n : Nat) : Field := ⟨0x40088008 + 16 * (n % 2048), 0, 32, 0⟩
def PLM_LTAB_W3_MISS (n : Nat) : Field := ⟨0x4008800C + 16 * (n % 2048), 30, 2, 0⟩
def PLM_LTAB_W3_PRES (n : Nat) : Field := ⟨0x4008800C + 16 * (n % 2048), 29, 1, 0⟩
def PLM_LTAB_W3_SNR (n : Nat) : Field := ⟨0x4008800C + 16 * (n % 2048), 16, 8, 0⟩
def PLM_LTAB_W3_DLYM (n : Nat) : Field := ⟨0x4008800C + 16 * (n % 2048), 0, 16, 0⟩

/-! ### BHM registers (10 R253) -/

def BHM_CTRL_ADDFRAG (p : Nat) : Field := ⟨0x40090000 + 0x10000 * (p % 2), 14, 2, 0⟩
def BHM_CTRL_VERIFY_DIS (p : Nat) : Field := ⟨0x40090000 + 0x10000 * (p % 2), 13, 1, 0⟩
def BHM_CTRL_PREEMPT (p : Nat) : Field := ⟨0x40090000 + 0x10000 * (p % 2), 12, 1, 1⟩
def BHM_CTRL_RING (p : Nat) : Field := ⟨0x40090000 + 0x10000 * (p % 2), 10, 2, 0⟩
def BHM_CTRL_ANEG (p : Nat) : Field := ⟨0x40090000 + 0x10000 * (p % 2), 9, 1, 1⟩
def BHM_CTRL_PVERIFIED (p : Nat) : Field := ⟨0x40090000 + 0x10000 * (p % 2), 8, 1, 0⟩
def BHM_CTRL_SGSPD (p : Nat) : Field := ⟨0x40090000 + 0x10000 * (p % 2), 6, 2, 0⟩
def BHM_CTRL_MODE (p : Nat) : Field := ⟨0x40090000 + 0x10000 * (p % 2), 4, 2, 0⟩
def BHM_CTRL_LINK (p : Nat) : Field := ⟨0x40090000 + 0x10000 * (p % 2), 3, 1, 0⟩
def BHM_CTRL_RUNST (p : Nat) : Field := ⟨0x40090000 + 0x10000 * (p % 2), 1, 2, 0⟩
def BHM_CTRL_EN (p : Nat) : Field := ⟨0x40090000 + 0x10000 * (p % 2), 0, 1, 0⟩
def BHM_STATUS_DRWRAP (p : Nat) : Field := ⟨0x40090004 + 0x10000 * (p % 2), 16, 1, 0⟩
def BHM_STATUS_DRWAKE (p : Nat) : Field := ⟨0x40090004 + 0x10000 * (p % 2), 15, 1, 0⟩
def BHM_STATUS_DRREJ (p : Nat) : Field := ⟨0x40090004 + 0x10000 * (p % 2), 14, 1, 0⟩
def BHM_STATUS_VERIFYFAIL (p : Nat) : Field := ⟨0x40090004 + 0x10000 * (p % 2), 13, 1, 0⟩
def BHM_STATUS_LINKCHG (p : Nat) : Field := ⟨0x40090004 + 0x10000 * (p % 2), 12, 1, 0⟩
def BHM_STATUS_STATHALF (p : Nat) : Field := ⟨0x40090004 + 0x10000 * (p % 2), 11, 1, 0⟩
def BHM_STATUS_PAUSEOVR (p : Nat) : Field := ⟨0x40090004 + 0x10000 * (p % 2), 10, 1, 0⟩
def BHM_STATUS_SVCRST (p : Nat) : Field := ⟨0x40090004 + 0x10000 * (p % 2), 9, 1, 0⟩
def BHM_STATUS_TXDONE (p : Nat) : Field := ⟨0x40090004 + 0x10000 * (p % 2), 8, 1, 0⟩
def BHM_STATUS_SRXNEW (p : Nat) : Field := ⟨0x40090004 + 0x10000 * (p % 2), 7, 1, 0⟩
def BHM_STATUS_SRXFULL (p : Nat) : Field := ⟨0x40090004 + 0x10000 * (p % 2), 6, 1, 0⟩
def BHM_STATUS_RXOVF (p : Nat) : Field := ⟨0x40090004 + 0x10000 * (p % 2), 5, 1, 0⟩
def BHM_STATUS_FWDDROP (p : Nat) : Field := ⟨0x40090004 + 0x10000 * (p % 2), 4, 1, 0⟩
def BHM_STATUS_STOMP (p : Nat) : Field := ⟨0x40090004 + 0x10000 * (p % 2), 3, 1, 0⟩
def BHM_STATUS_MODEERR (p : Nat) : Field := ⟨0x40090004 + 0x10000 * (p % 2), 2, 1, 0⟩
def BHM_STATUS_TXERR (p : Nat) : Field := ⟨0x40090004 + 0x10000 * (p % 2), 1, 1, 0⟩
def BHM_STATUS_CFGREJ (p : Nat) : Field := ⟨0x40090004 + 0x10000 * (p % 2), 0, 1, 0⟩
def BHM_IRQ_EN_EN (p : Nat) : Field := ⟨0x40090008 + 0x10000 * (p % 2), 0, 17, 0⟩
def BHM_MAC_ADDR (p : Nat) : Field := ⟨0x40090010 + 0x10000 * (p % 2), 0, 48, 0⟩
def BHM_RXCFG_DEFACT (p : Nat) : Field := ⟨0x40090018 + 0x10000 * (p % 2), 30, 2, 2⟩
def BHM_RXCFG_MAXRX (p : Nat) : Field := ⟨0x40090018 + 0x10000 * (p % 2), 0, 11, 1536⟩
def BHM_TCCFG_PWD (p : Nat) : Field := ⟨0x4009001C + 0x10000 * (p % 2), 24, 8, 50⟩
def BHM_TCCFG_VERIFY_MS (p : Nat) : Field := ⟨0x4009001C + 0x10000 * (p % 2), 16, 8, 10⟩
def BHM_TCCFG_FPMAP (p : Nat) : Field := ⟨0x4009001C + 0x10000 * (p % 2), 8, 8, 0xE0⟩
def BHM_TCCFG_PAUSE_EN (p : Nat) : Field := ⟨0x4009001C + 0x10000 * (p % 2), 5, 1, 1⟩
def BHM_TCCFG_PFC_EN (p : Nat) : Field := ⟨0x4009001C + 0x10000 * (p % 2), 4, 1, 1⟩
def BHM_TCCFG_UNTAG_TC (p : Nat) : Field := ⟨0x4009001C + 0x10000 * (p % 2), 0, 3, 0⟩
def BHM_RULE_EN (p : Nat) (n : Nat) : Field := ⟨0x40090020 + 0x10000 * (p % 2) + 4 * (n % 8), 31, 1, 0⟩
def BHM_RULE_ACT (p : Nat) (n : Nat) : Field := ⟨0x40090020 + 0x10000 * (p % 2) + 4 * (n % 8), 29, 2, 0⟩
def BHM_RULE_TYPE (p : Nat) (n : Nat) : Field := ⟨0x40090020 + 0x10000 * (p % 2) + 4 * (n % 8), 27, 2, 0⟩
def BHM_RULE_VALUE (p : Nat) (n : Nat) : Field := ⟨0x40090020 + 0x10000 * (p % 2) + 4 * (n % 8), 0, 16, 0⟩
def BHM_MCAST_EN (p : Nat) (n : Nat) : Field := ⟨0x40090040 + 0x10000 * (p % 2) + 8 * (n % 8), 63, 1, 0⟩
def BHM_MCAST_ADDR (p : Nat) (n : Nat) : Field := ⟨0x40090040 + 0x10000 * (p % 2) + 8 * (n % 8), 0, 48, 0⟩
def BHM_TX_BASE_BASE (p : Nat) : Field := ⟨0x40090080 + 0x10000 * (p % 2), 5, 17, 0⟩
def BHM_TX_SIZE_VALUE (p : Nat) : Field := ⟨0x40090084 + 0x10000 * (p % 2), 0, 12, 0⟩
def BHM_TX_TAIL_VALUE (p : Nat) : Field := ⟨0x40090088 + 0x10000 * (p % 2), 0, 12, 0⟩
def BHM_TX_HEAD_VALUE (p : Nat) : Field := ⟨0x4009008C + 0x10000 * (p % 2), 0, 12, 0⟩
def BHM_SRX_BASE_BASE (p : Nat) : Field := ⟨0x40090090 + 0x10000 * (p % 2), 5, 17, 0⟩
def BHM_SRX_SIZE_VALUE (p : Nat) : Field := ⟨0x40090094 + 0x10000 * (p % 2), 0, 10, 0⟩
def BHM_SRX_WR_VALUE (p : Nat) : Field := ⟨0x40090098 + 0x10000 * (p % 2), 0, 10, 0⟩
def BHM_SRX_RD_VALUE (p : Nat) : Field := ⟨0x4009009C + 0x10000 * (p % 2), 0, 10, 0⟩
def BHM_HALF_HALF (p : Nat) : Field := ⟨0x40090800 + 0x10000 * (p % 2), 0, 48, 0⟩
def BHM_CNT_COUNT (p : Nat) (n : Nat) : Field := ⟨0x40091000 + 0x10000 * (p % 2) + 8 * (n % 48), 0, 48, 0⟩

/-! ### BHM0 registers (10 R253) -/

def BHM0_HSR_FORGET : Field := ⟨0x400900A0, 16, 16, 400⟩
def BHM0_HSR_NETID : Field := ⟨0x400900A0, 0, 3, 0⟩
def BHM0_SEQ_SEQ : Field := ⟨0x400900A4, 0, 16, 0⟩
def BHM0_TPL_CFG_TC : Field := ⟨0x400900B0, 28, 3, 5⟩
def BHM0_TPL_CFG_PORTS : Field := ⟨0x400900B0, 26, 2, 0⟩
def BHM0_TPL_CFG_IPV6 : Field := ⟨0x400900B0, 25, 1, 0⟩
def BHM0_TPL_CFG_L3OFF : Field := ⟨0x400900B0, 8, 8, 14⟩
def BHM0_TPL_CFG_HLEN : Field := ⟨0x400900B0, 0, 8, 42⟩
def BHM0_TPL_HEADER : Field := ⟨0x40090100, 0, 512, 0⟩
def BHM0_WP_W0_MASK (n : Nat) : Field := ⟨0x40090200 + 32 * (n % 8), 0, 128, 0⟩
def BHM0_WP_W4_EN (n : Nat) : Field := ⟨0x40090210 + 32 * (n % 8), 31, 1, 0⟩
def BHM0_WP_W4_PORTS (n : Nat) : Field := ⟨0x40090210 + 32 * (n % 8), 29, 2, 3⟩
def BHM0_WP_W4_CRC (n : Nat) : Field := ⟨0x40090210 + 32 * (n % 8), 0, 16, 0⟩
def BHM0_DR_CMD_KEY : Field := ⟨0x40090300, 16, 16, 0⟩
def BHM0_DR_CMD_ENTER : Field := ⟨0x40090300, 0, 1, 0⟩
def BHM0_DR_WAKE_T_TEN : Field := ⟨0x40090308, 63, 1, 0⟩
def BHM0_DR_WAKE_T_T10 : Field := ⟨0x40090308, 0, 40, 0⟩
def BHM0_DR_STAT_STATE : Field := ⟨0x40090310, 30, 2, 0⟩
def BHM0_DR_STAT_CANCEL : Field := ⟨0x40090310, 19, 1, 0⟩
def BHM0_DR_STAT_TRIP : Field := ⟨0x40090310, 18, 1, 0⟩
def BHM0_DR_STAT_TIME : Field := ⟨0x40090310, 17, 1, 0⟩
def BHM0_DR_STAT_PATTERN : Field := ⟨0x40090310, 16, 1, 0⟩
def BHM0_DR_STAT_PORT : Field := ⟨0x40090310, 7, 1, 0⟩
def BHM0_DR_STAT_PAT : Field := ⟨0x40090310, 0, 3, 0⟩
def BHM0_DR_DISC_COUNT : Field := ⟨0x40090314, 0, 32, 0⟩
def BHM0_DR_KIDX_IDX : Field := ⟨0x40090318, 0, 64, 0⟩

/-! ### PBM registers (10 R254) -/

def PBM_CTRL_CRS : Field := ⟨0x400B0000, 3, 1, 0⟩
def PBM_CTRL_RUNST : Field := ⟨0x400B0000, 1, 2, 0⟩
def PBM_CTRL_EN : Field := ⟨0x400B0000, 0, 1, 0⟩
def PBM_STATUS_SVCRST : Field := ⟨0x400B0004, 8, 1, 0⟩
def PBM_STATUS_STATHALF : Field := ⟨0x400B0004, 7, 1, 0⟩
def PBM_STATUS_EXCOLL : Field := ⟨0x400B0004, 6, 1, 0⟩
def PBM_STATUS_LATECOLL : Field := ⟨0x400B0004, 5, 1, 0⟩
def PBM_STATUS_TXDONE : Field := ⟨0x400B0004, 4, 1, 0⟩
def PBM_STATUS_RXOVF : Field := ⟨0x400B0004, 3, 1, 0⟩
def PBM_STATUS_UNKNOWN : Field := ⟨0x400B0004, 2, 1, 0⟩
def PBM_STATUS_TXERR : Field := ⟨0x400B0004, 1, 1, 0⟩
def PBM_STATUS_CFGREJ : Field := ⟨0x400B0004, 0, 1, 0⟩
def PBM_IRQ_EN_EN : Field := ⟨0x400B0008, 0, 9, 0⟩
def PBM_RXCFG_MAXRX : Field := ⟨0x400B000C, 0, 11, 1522⟩
def PBM_NODE_EN (n : Nat) : Field := ⟨0x400B0010 + 8 * (n % 8), 63, 1, 0⟩
def PBM_NODE_ADDR (n : Nat) : Field := ⟨0x400B0010 + 8 * (n % 8), 0, 48, 0⟩
def PBM_TX_BASE_BASE : Field := ⟨0x400B0080, 5, 17, 0⟩
def PBM_TX_SIZE_VALUE : Field := ⟨0x400B0084, 0, 12, 0⟩
def PBM_TX_TAIL_VALUE : Field := ⟨0x400B0088, 0, 12, 0⟩
def PBM_TX_HEAD_VALUE : Field := ⟨0x400B008C, 0, 12, 0⟩
def PBM_HALF_HALF : Field := ⟨0x400B0800, 0, 16, 0⟩
def PBM_CNT_COUNT (n : Nat) : Field := ⟨0x400B1000 + 8 * (n % 16), 0, 48, 0⟩

/-! ### MTR registers (11 R280) -/

def MTR_CTRL_MODE : Field := ⟨0x400C0000, 5, 1, 0⟩
def MTR_CTRL_RUNST : Field := ⟨0x400C0000, 1, 2, 0⟩
def MTR_CTRL_EN : Field := ⟨0x400C0000, 0, 1, 0⟩
def MTR_STATUS_EVDROP : Field := ⟨0x400C0004, 11, 1, 0⟩
def MTR_STATUS_SF1DIS : Field := ⟨0x400C0004, 10, 1, 0⟩
def MTR_STATUS_TRIP_B : Field := ⟨0x400C0004, 9, 1, 0⟩
def MTR_STATUS_TRIP_A : Field := ⟨0x400C0004, 8, 1, 0⟩
def MTR_STATUS_GAINSW : Field := ⟨0x400C0004, 7, 1, 0⟩
def MTR_STATUS_CLIP : Field := ⟨0x400C0004, 6, 1, 0⟩
def MTR_STATUS_MIXED : Field := ⟨0x400C0004, 5, 1, 0⟩
def MTR_STATUS_VPCHG : Field := ⟨0x400C0004, 4, 1, 0⟩
def MTR_STATUS_ZCTO : Field := ⟨0x400C0004, 3, 1, 0⟩
def MTR_STATUS_ACCWRAP : Field := ⟨0x400C0004, 2, 1, 0⟩
def MTR_STATUS_CNTWRAP : Field := ⟨0x400C0004, 1, 1, 0⟩
def MTR_STATUS_CFGREJ : Field := ⟨0x400C0004, 0, 1, 0⟩
def MTR_IRQ_EN_EN : Field := ⟨0x400C0008, 0, 12, 0⟩
def MTR_CFG_IST_CODE : Field := ⟨0x400C0010, 16, 10, 20⟩
def MTR_CFG_CYCEV : Field := ⟨0x400C0010, 4, 3, 7⟩
def MTR_CFG_REFPH : Field := ⟨0x400C0010, 1, 2, 0⟩
def MTR_CFG_NOMF : Field := ⟨0x400C0010, 0, 1, 0⟩
def MTR_ZC_VP_THR : Field := ⟨0x400C0014, 16, 16, 500⟩
def MTR_ZC_HYST : Field := ⟨0x400C0014, 0, 16, 100⟩
def MTR_COMPAT_CNT_DN : Field := ⟨0x400C0018, 0, 4, 2⟩
def MTR_SCALE_V_FS : Field := ⟨0x400C0020, 0, 32, 50000⟩
def MTR_SCALE_I_FS : Field := ⟨0x400C0024, 0, 32, 20000⟩
def MTR_SCALE_N_FS : Field := ⟨0x400C0028, 0, 32, 20000⟩
def MTR_SF1_PATHB : Field := ⟨0x400C0030, 11, 1, 0⟩
def MTR_SF1_PATHA : Field := ⟨0x400C0030, 10, 1, 0⟩
def MTR_SF1_LOCKED : Field := ⟨0x400C0030, 2, 1, 0⟩
def MTR_SF1_THR : Field := ⟨0x400C0030, 0, 2, 0⟩
def MTR_IRES_RMS : Field := ⟨0x400C0034, 0, 16, 0⟩
def MTR_TO_CNT_COUNT : Field := ⟨0x400C0040, 0, 32, 0⟩
def MTR_SW_CNT_COUNT : Field := ⟨0x400C0044, 0, 32, 0⟩
def MTR_CLIP_CNT_COUNT : Field := ⟨0x400C0048, 0, 32, 0⟩
def MTR_WRAP_WRAP : Field := ⟨0x400C0050, 0, 32, 0⟩
def MTR_LIVE_W0_VRMS (n : Nat) : Field := ⟨0x400C0060 + 16 * (n % 3), 0, 24, 0⟩
def MTR_LIVE_W1_IRMS (n : Nat) : Field := ⟨0x400C0064 + 16 * (n % 3), 0, 24, 0⟩
def MTR_LIVE_W2_P (n : Nat) : Field := ⟨0x400C0068 + 16 * (n % 3), 0, 32, 0⟩
def MTR_LIVE_W3_Q (n : Nat) : Field := ⟨0x400C006C + 16 * (n % 3), 0, 32, 0⟩
def MTR_FREQ_FREQ : Field := ⟨0x400C0090, 0, 32, 0⟩
def MTR_PHST_FREE : Field := ⟨0x400C0094, 12, 3, 0⟩
def MTR_PHST_G16 : Field := ⟨0x400C0094, 8, 3, 0⟩
def MTR_PHST_VPRES : Field := ⟨0x400C0094, 4, 3, 0⟩
def MTR_PHST_FVALID : Field := ⟨0x400C0094, 0, 3, 0⟩
def MTR_CAL_W0_GAIN (n : Nat) : Field := ⟨0x400C0100 + 16 * (n % 11), 0, 24, 0x400000⟩
def MTR_CAL_W1_PH (n : Nat) : Field := ⟨0x400C0104 + 16 * (n % 11), 16, 16, 0⟩
def MTR_CAL_W2_OFS (n : Nat) : Field := ⟨0x400C0108 + 16 * (n % 11), 0, 24, 0⟩
def MTR_ACC_COUNT (n : Nat) : Field := ⟨0x400C0400 + 8 * (n % 32), 0, 40, 0⟩

/-! ### PST registers (12 R298) -/

def PST_STATUS_CNTWRAP : Field := ⟨0x400D0004, 4, 1, 0⟩
def PST_STATUS_UE : Field := ⟨0x400D0004, 3, 1, 0⟩
def PST_STATUS_CE : Field := ⟨0x400D0004, 2, 1, 0⟩
def PST_STATUS_ALIGN : Field := ⟨0x400D0004, 1, 1, 0⟩
def PST_STATUS_WPERR : Field := ⟨0x400D0004, 0, 1, 0⟩
def PST_IRQ_EN_EN : Field := ⟨0x400D0008, 0, 5, 0⟩
def PST_SETSEL_TRIAL : Field := ⟨0x400D000C, 2, 1, 0⟩
def PST_SETSEL_ACT : Field := ⟨0x400D000C, 0, 1, 0⟩
def PST_WERR_ADDR : Field := ⟨0x400D0010, 0, 32, 0⟩
def PST_CE_CNT_COUNT : Field := ⟨0x400D0014, 0, 32, 0⟩
def PST_UE_CNT_COUNT : Field := ⟨0x400D0018, 0, 32, 0⟩
def PST_WBUF_USED : Field := ⟨0x400D001C, 0, 7, 0⟩
def PST_OPSEC_COUNT : Field := ⟨0x400D0024, 0, 32, 0⟩
def PST_PCYC_COUNT : Field := ⟨0x400D0028, 0, 32, 0⟩
def PST_WORDS_COUNT : Field := ⟨0x400D0030, 0, 48, 0⟩

/-! ### EVR registers (12 R299) -/

def EVR_CTRL_EN : Field := ⟨0x400E0000, 0, 1, 0⟩
def EVR_STATUS_HINVAL : Field := ⟨0x400E0004, 5, 1, 0⟩
def EVR_STATUS_HSAT : Field := ⟨0x400E0004, 4, 1, 0⟩
def EVR_STATUS_RECDONE : Field := ⟨0x400E0004, 3, 1, 0⟩
def EVR_STATUS_SVCREJ : Field := ⟨0x400E0004, 2, 1, 0⟩
def EVR_STATUS_CNTWRAP : Field := ⟨0x400E0004, 1, 1, 0⟩
def EVR_STATUS_CFGREJ : Field := ⟨0x400E0004, 0, 1, 0⟩
def EVR_IRQ_EN_EN : Field := ⟨0x400E0008, 0, 6, 0⟩
def EVR_RPER_RPER : Field := ⟨0x400E000C, 0, 17, 3600⟩
def EVR_HINC_HIST : Field := ⟨0x400E0010, 27, 5, 0⟩
def EVR_HINC_BIN : Field := ⟨0x400E0010, 21, 6, 0⟩
def EVR_HINC_INC : Field := ⟨0x400E0010, 0, 21, 0⟩
def EVR_XVAL_VALUE : Field := ⟨0x400E0014, 0, 32, 0⟩
def EVR_XCH_CH : Field := ⟨0x400E0018, 0, 6, 0⟩
def EVR_CMD_KEY : Field := ⟨0x400E001C, 16, 16, 0⟩
def EVR_CMD_CLRHIST : Field := ⟨0x400E001C, 0, 1, 0⟩
def EVR_PIDX_IDX : Field := ⟨0x400E0020, 0, 64, 0⟩
def EVR_LAST_IDX : Field := ⟨0x400E0028, 0, 64, 0⟩
def EVR_REC_CNT_COUNT : Field := ⟨0x400E0030, 0, 32, 0⟩

/-! ### RTC registers (13 R319) -/

def RTC_CTRL_DWIN : Field := ⟨0x400F0000, 8, 8, 4⟩
def RTC_CTRL_DISC_EN : Field := ⟨0x400F0000, 0, 1, 0⟩
def RTC_STATUS_OSCSTOP : Field := ⟨0x400F0004, 12, 1, 1⟩
def RTC_STATUS_YWRAP : Field := ⟨0x400F0004, 11, 1, 0⟩
def RTC_STATUS_DISCRNG : Field := ⟨0x400F0004, 10, 1, 0⟩
def RTC_STATUS_DISCSTEP : Field := ⟨0x400F0004, 9, 1, 0⟩
def RTC_STATUS_HOURREJ : Field := ⟨0x400F0004, 8, 1, 0⟩
def RTC_STATUS_FRZTO : Field := ⟨0x400F0004, 7, 1, 0⟩
def RTC_STATUS_BADDATE : Field := ⟨0x400F0004, 6, 1, 0⟩
def RTC_STATUS_ALM1 : Field := ⟨0x400F0004, 5, 1, 0⟩
def RTC_STATUS_ALM0 : Field := ⟨0x400F0004, 4, 1, 0⟩
def RTC_STATUS_BKPSW : Field := ⟨0x400F0004, 3, 1, 0⟩
def RTC_STATUS_OSCFAIL : Field := ⟨0x400F0004, 2, 1, 0⟩
def RTC_STATUS_CNTWRAP : Field := ⟨0x400F0004, 1, 1, 0⟩
def RTC_STATUS_CMDREJ : Field := ⟨0x400F0004, 0, 1, 0⟩
def RTC_IRQ_EN_EN : Field := ⟨0x400F0008, 0, 12, 0⟩
def RTC_TIME_HOUR : Field := ⟨0x400F0010, 24, 5, 0⟩
def RTC_TIME_MIN : Field := ⟨0x400F0010, 16, 6, 0⟩
def RTC_TIME_SEC : Field := ⟨0x400F0010, 8, 6, 0⟩
def RTC_TIME_SUBSEC : Field := ⟨0x400F0010, 0, 8, 0⟩
def RTC_DATE_WDAY : Field := ⟨0x400F0014, 24, 3, 5⟩
def RTC_DATE_YEAR : Field := ⟨0x400F0014, 16, 8, 0⟩
def RTC_DATE_MONTH : Field := ⟨0x400F0014, 8, 4, 1⟩
def RTC_DATE_DAY : Field := ⟨0x400F0014, 0, 5, 1⟩
def RTC_STG_TIME_HOUR : Field := ⟨0x400F0018, 24, 5, 0⟩
def RTC_STG_TIME_MIN : Field := ⟨0x400F0018, 16, 6, 0⟩
def RTC_STG_TIME_SEC : Field := ⟨0x400F0018, 8, 6, 0⟩
def RTC_STG_DATE_YEAR : Field := ⟨0x400F001C, 16, 8, 0⟩
def RTC_STG_DATE_MONTH : Field := ⟨0x400F001C, 8, 4, 1⟩
def RTC_STG_DATE_DAY : Field := ⟨0x400F001C, 0, 5, 1⟩
def RTC_CMD_KEY : Field := ⟨0x400F0020, 16, 16, 0⟩
def RTC_CMD_OP : Field := ⟨0x400F0020, 0, 3, 0⟩
def RTC_ZONE_ZONE : Field := ⟨0x400F0024, 0, 8, 0⟩
def RTC_UTC_OFS : Field := ⟨0x400F0028, 0, 16, 0⟩
def RTC_LEAP_PEND : Field := ⟨0x400F0030, 63, 1, 0⟩
def RTC_LEAP_NEWOFS : Field := ⟨0x400F0030, 48, 15, 0⟩
def RTC_LEAP_EFF : Field := ⟨0x400F0030, 0, 48, 0⟩
def RTC_DRIFT_STEP_CNT : Field := ⟨0x400F0038, 16, 16, 0⟩
def RTC_DRIFT_ERR : Field := ⟨0x400F0038, 0, 16, 0⟩
def RTC_TRIM_TRIM : Field := ⟨0x400F003C, 0, 10, 0⟩
def RTC_ALM_W0_HOUR (n : Nat) : Field := ⟨0x400F0040 + 8 * (n % 2), 24, 5, 0⟩
def RTC_ALM_W0_MIN (n : Nat) : Field := ⟨0x400F0040 + 8 * (n % 2), 16, 6, 0⟩
def RTC_ALM_W0_SEC (n : Nat) : Field := ⟨0x400F0040 + 8 * (n % 2), 8, 6, 0⟩
def RTC_ALM_W0_DAY (n : Nat) : Field := ⟨0x400F0040 + 8 * (n % 2), 0, 5, 0⟩
def RTC_ALM_W1_EN (n : Nat) : Field := ⟨0x400F0044 + 8 * (n % 2), 31, 1, 0⟩
def RTC_ALM_W1_ACT (n : Nat) : Field := ⟨0x400F0044 + 8 * (n % 2), 29, 2, 0⟩
def RTC_ALM_W1_YEAR (n : Nat) : Field := ⟨0x400F0044 + 8 * (n % 2), 16, 8, 0⟩
def RTC_ALM_W1_MONTH (n : Nat) : Field := ⟨0x400F0044 + 8 * (n % 2), 8, 4, 0⟩
def RTC_ALM_W1_MASK (n : Nat) : Field := ⟨0x400F0044 + 8 * (n % 2), 0, 6, 0⟩
def RTC_PON_SRC : Field := ⟨0x400F0050, 1, 2, 0⟩
def RTC_PON_PON : Field := ⟨0x400F0050, 0, 1, 0⟩
def RTC_OFF_TIME_HOUR : Field := ⟨0x400F0058, 24, 5, 0⟩
def RTC_OFF_TIME_MIN : Field := ⟨0x400F0058, 16, 6, 0⟩
def RTC_OFF_TIME_SEC : Field := ⟨0x400F0058, 8, 6, 0⟩
def RTC_OFF_TIME_SUBSEC : Field := ⟨0x400F0058, 0, 8, 0⟩
def RTC_OFF_DATE_WDAY : Field := ⟨0x400F005C, 24, 3, 0⟩
def RTC_OFF_DATE_YEAR : Field := ⟨0x400F005C, 16, 8, 0⟩
def RTC_OFF_DATE_MONTH : Field := ⟨0x400F005C, 8, 4, 0⟩
def RTC_OFF_DATE_DAY : Field := ⟨0x400F005C, 0, 5, 0⟩
def RTC_BKP_DATA (n : Nat) : Field := ⟨0x400F0080 + 4 * (n % 8), 0, 32, 0⟩

/-! ### KSU registers (14 R343) -/

def KSU_STATUS_CNTWRAP : Field := ⟨0x40100004, 10, 1, 0⟩
def KSU_STATUS_CTXREJ : Field := ⟨0x40100004, 9, 1, 0⟩
def KSU_STATUS_DONE : Field := ⟨0x40100004, 8, 1, 0⟩
def KSU_STATUS_NOROOM : Field := ⟨0x40100004, 7, 1, 0⟩
def KSU_STATUS_IMPREJ : Field := ⟨0x40100004, 6, 1, 0⟩
def KSU_STATUS_TOKREJ : Field := ⟨0x40100004, 5, 1, 0⟩
def KSU_STATUS_POLDENY : Field := ⟨0x40100004, 4, 1, 0⟩
def KSU_STATUS_ANCHORERR : Field := ⟨0x40100004, 3, 1, 0⟩
def KSU_STATUS_HLPFIX : Field := ⟨0x40100004, 2, 1, 0⟩
def KSU_STATUS_NOROOT : Field := ⟨0x40100004, 1, 1, 0⟩
def KSU_STATUS_ROOTOK : Field := ⟨0x40100004, 0, 1, 0⟩
def KSU_IRQ_EN_EN : Field := ⟨0x40100008, 2, 9, 0⟩
def KSU_LCS_PREV : Field := ⟨0x40100010, 16, 3, 0⟩
def KSU_LCS_EPOCH : Field := ⟨0x40100010, 8, 6, 0⟩
def KSU_LCS_STATE : Field := ⟨0x40100010, 0, 3, 0⟩
def KSU_UID_UID : Field := ⟨0x40100018, 0, 64, 0⟩
def KSU_CMD_KEY : Field := ⟨0x40100020, 16, 16, 0⟩
def KSU_CMD_OP : Field := ⟨0x40100020, 0, 3, 0⟩
def KSU_CMDSTAT_BUSY : Field := ⟨0x40100024, 31, 1, 0⟩
def KSU_CMDSTAT_RESULT : Field := ⟨0x40100024, 0, 8, 0⟩
def KSU_CLR_SLOT : Field := ⟨0x40100028, 0, 5, 0⟩
def KSU_DRV_ROOTSRC : Field := ⟨0x4010002C, 31, 1, 0⟩
def KSU_DRV_SRC : Field := ⟨0x4010002C, 24, 5, 0⟩
def KSU_DRV_DST : Field := ⟨0x4010002C, 16, 5, 0⟩
def KSU_DRV_TYPE : Field := ⟨0x4010002C, 8, 4, 0⟩
def KSU_DRV_INFOLEN : Field := ⟨0x4010002C, 0, 6, 0⟩
def KSU_DRV_POL_POLICY : Field := ⟨0x40100030, 0, 32, 0⟩
def KSU_DRV_INFO_INFO : Field := ⟨0x40100040, 0, 256, 0⟩
def KSU_DENY_CNT_COUNT : Field := ⟨0x40100060, 0, 32, 0⟩
def KSU_SLOT_TYPE (n : Nat) : Field := ⟨0x40100100 + 4 * (n % 32), 28, 4, 0⟩
def KSU_SLOT_ORIGIN (n : Nat) : Field := ⟨0x40100100 + 4 * (n % 32), 26, 2, 0⟩
def KSU_SLOT_LOCK (n : Nat) : Field := ⟨0x40100100 + 4 * (n % 32), 16, 1, 0⟩
def KSU_SLOT_CTX (n : Nat) : Field := ⟨0x40100100 + 4 * (n % 32), 8, 6, 0⟩
def KSU_SLOT_OPS (n : Nat) : Field := ⟨0x40100100 + 4 * (n % 32), 0, 5, 0⟩
def KSU_QDEV_QDEV : Field := ⟨0x40100200, 0, 264, 0⟩
def KSU_PUBSEL_SLOT : Field := ⟨0x40100240, 0, 5, 0⟩
def KSU_PUB_KEY : Field := ⟨0x40100244, 0, 392, 0⟩
def KSU_TOKEN_TOKEN : Field := ⟨0x40100400, 0, 1792, 0⟩
def KSU_BLOB_BLOB : Field := ⟨0x40100500, 0, 1856, 0⟩
def KSU_HLP_HLP : Field := ⟨0x40100800, 0, 8192, 0⟩

/-! ### CRY registers (14 R344) -/

def CRY_STATUS_CNTWRAP : Field := ⟨0x40110004, 5, 1, 0⟩
def CRY_STATUS_QFULL : Field := ⟨0x40110004, 4, 1, 0⟩
def CRY_STATUS_CTXREJ : Field := ⟨0x40110004, 3, 1, 0⟩
def CRY_STATUS_POLDENY : Field := ⟨0x40110004, 2, 1, 0⟩
def CRY_STATUS_FAIL : Field := ⟨0x40110004, 1, 1, 0⟩
def CRY_STATUS_JOBDONE : Field := ⟨0x40110004, 0, 1, 0⟩
def CRY_IRQ_EN_EN : Field := ⟨0x40110008, 0, 6, 0⟩
def CRY_JOB_ADDR : Field := ⟨0x40110010, 6, 26, 0⟩
def CRY_QSTAT_BUSY : Field := ⟨0x40110014, 8, 1, 0⟩
def CRY_QSTAT_USED : Field := ⟨0x40110014, 0, 4, 0⟩
def CRY_JOB_CNT_COUNT : Field := ⟨0x40110018, 0, 32, 0⟩
def CRY_FAIL_CNT_COUNT : Field := ⟨0x4011001C, 0, 32, 0⟩

/-! ### RLD registers (15 R368) -/

def RLD_STATUS_NOHDR : Field := ⟨0x40120004, 9, 1, 0⟩
def RLD_STATUS_IMGBAD : Field := ⟨0x40120004, 8, 1, 0⟩
def RLD_STATUS_CFGBAD : Field := ⟨0x40120004, 7, 1, 0⟩
def RLD_STATUS_VERDREJ : Field := ⟨0x40120004, 6, 1, 0⟩
def RLD_STATUS_STCHG : Field := ⟨0x40120004, 5, 1, 0⟩
def RLD_STATUS_VERIFYFAIL : Field := ⟨0x40120004, 4, 1, 0⟩
def RLD_STATUS_VERIFIED : Field := ⟨0x40120004, 3, 1, 0⟩
def RLD_STATUS_PGMERR : Field := ⟨0x40120004, 2, 1, 0⟩
def RLD_STATUS_CMDDONE : Field := ⟨0x40120004, 1, 1, 0⟩
def RLD_STATUS_CMDREJ : Field := ⟨0x40120004, 0, 1, 0⟩
def RLD_IRQ_EN_EN : Field := ⟨0x40120008, 0, 7, 0⟩
def RLD_CFG_DEFER : Field := ⟨0x4012000C, 16, 16, 600⟩
def RLD_CFG_DEADLINE : Field := ⟨0x4012000C, 0, 16, 600⟩
def RLD_STATE_BUSY : Field := ⟨0x40120010, 31, 1, 0⟩
def RLD_STATE_CAUSE : Field := ⟨0x40120010, 16, 8, 0⟩
def RLD_STATE_CFGFB : Field := ⟨0x40120010, 14, 2, 3⟩
def RLD_STATE_CFGCUR : Field := ⟨0x40120010, 13, 1, 0⟩
def RLD_STATE_FBSLOT : Field := ⟨0x40120010, 11, 2, 3⟩
def RLD_STATE_NEWSLOT : Field := ⟨0x40120010, 10, 1, 0⟩
def RLD_STATE_KIND : Field := ⟨0x40120010, 8, 2, 0⟩
def RLD_STATE_STATE : Field := ⟨0x40120010, 0, 3, 0⟩
def RLD_CMD_KEY : Field := ⟨0x40120014, 16, 16, 0⟩
def RLD_CMD_KIND : Field := ⟨0x40120014, 12, 2, 0⟩
def RLD_CMD_CSLOT : Field := ⟨0x40120014, 11, 1, 0⟩
def RLD_CMD_FSLOT : Field := ⟨0x40120014, 10, 1, 0⟩
def RLD_CMD_SLOT : Field := ⟨0x40120014, 8, 2, 0⟩
def RLD_CMD_OP : Field := ⟨0x40120014, 0, 3, 0⟩
def RLD_ADDR_ADDR : Field := ⟨0x40120018, 0, 28, 0⟩
def RLD_TACT_TACT : Field := ⟨0x40120020, 0, 64, 0⟩
def RLD_VERDICT_KEY : Field := ⟨0x40120030, 16, 16, 0⟩
def RLD_VERDICT_PASS : Field := ⟨0x40120030, 8, 1, 0⟩
def RLD_VERDICT_CAUSE : Field := ⟨0x40120030, 0, 8, 0⟩
def RLD_VCUR_VERSION : Field := ⟨0x40120040, 0, 32, 0⟩
def RLD_VFB_VERSION : Field := ⟨0x40120044, 0, 32, 0⟩
def RLD_MINVER_VERSION : Field := ⟨0x40120048, 0, 32, 0⟩
def RLD_KSTART_IDX : Field := ⟨0x40120050, 0, 64, 0⟩
def RLD_SLOT_VERIFIED (n : Nat) : Field := ⟨0x40120060 + 4 * (n % 4), 31, 1, 0⟩
def RLD_SLOTVER_VERSION (n : Nat) : Field := ⟨0x40120070 + 4 * (n % 4), 0, 32, 0⟩
def RLD_PAGE_DATA : Field := ⟨0x40120100, 0, 2048, 0⟩

/-! ### DMA registers (16 R389) -/

def DMA_STATUS_SVCRST : Field := ⟨0x40130004, 7, 1, 0⟩
def DMA_STATUS_CQWAIT : Field := ⟨0x40130004, 6, 1, 0⟩
def DMA_STATUS_ERR : Field := ⟨0x40130004, 5, 1, 0⟩
def DMA_STATUS_CQIRQ : Field := ⟨0x40130004, 4, 1, 0⟩
def DMA_STATUS_CQNEW : Field := ⟨0x40130004, 3, 1, 0⟩
def DMA_STATUS_CNTWRAP : Field := ⟨0x40130004, 2, 1, 0⟩
def DMA_STATUS_CTXREJ : Field := ⟨0x40130004, 1, 1, 0⟩
def DMA_STATUS_CFGREJ : Field := ⟨0x40130004, 0, 1, 0⟩
def DMA_IRQ_EN_EN : Field := ⟨0x40130008, 0, 8, 0⟩
def DMA_CQ_BASE_BASE : Field := ⟨0x40130010, 5, 17, 0⟩
def DMA_CQ_SIZE_VALUE : Field := ⟨0x40130014, 0, 12, 0⟩
def DMA_CQ_WR_VALUE : Field := ⟨0x40130018, 0, 12, 0⟩
def DMA_CQ_RD_VALUE : Field := ⟨0x4013001C, 0, 12, 0⟩
def DMA_DONE_CNT_COUNT : Field := ⟨0x40130020, 0, 32, 0⟩
def DMA_ERR_CNT_COUNT : Field := ⟨0x40130024, 0, 32, 0⟩
def DMA_CH_W0_RUNST (n : Nat) : Field := ⟨0x40130100 + 32 * (n % 16), 1, 2, 0⟩
def DMA_CH_W0_EN (n : Nat) : Field := ⟨0x40130100 + 32 * (n % 16), 0, 1, 0⟩
def DMA_CH_W1_BASE (n : Nat) : Field := ⟨0x40130104 + 32 * (n % 16), 5, 17, 0⟩
def DMA_CH_W2_SIZE (n : Nat) : Field := ⟨0x40130108 + 32 * (n % 16), 0, 12, 0⟩
def DMA_CH_W3_TAIL (n : Nat) : Field := ⟨0x4013010C + 32 * (n % 16), 0, 12, 0⟩
def DMA_CH_W4_HEAD (n : Nat) : Field := ⟨0x40130110 + 32 * (n % 16), 0, 12, 0⟩
def DMA_CH_W5_RTO (n : Nat) : Field := ⟨0x40130114 + 32 * (n % 16), 0, 16, 100⟩

/-! ### DCQ registers (16 R390) -/

def DCQ_STATUS_CMDREJ : Field := ⟨0x40140004, 1, 1, 0⟩
def DCQ_STATUS_CFGREJ : Field := ⟨0x40140004, 0, 1, 0⟩
def DCQ_WRAP_WRAP : Field := ⟨0x40140008, 0, 17, 0⟩
def DCQ_Q_W0_FLUSH (n : Nat) : Field := ⟨0x40140100 + 16 * (n % 17), 5, 1, 0⟩
def DCQ_Q_W0_DROP (n : Nat) : Field := ⟨0x40140100 + 16 * (n % 17), 4, 1, 0⟩
def DCQ_Q_W0_CMDSEL (n : Nat) : Field := ⟨0x40140100 + 16 * (n % 17), 3, 1, if n < 15 then 1 else 0⟩
def DCQ_Q_W0_RUNST (n : Nat) : Field := ⟨0x40140100 + 16 * (n % 17), 1, 2, 1⟩
def DCQ_Q_W0_EN (n : Nat) : Field := ⟨0x40140100 + 16 * (n % 17), 0, 1, 1⟩
def DCQ_Q_W1_USED (n : Nat) : Field := ⟨0x40140104 + 16 * (n % 17), 0, 11, 0⟩
def DCQ_Q_W2_PERR (n : Nat) : Field := ⟨0x40140108 + 16 * (n % 17), 0, 32, 0⟩
def DCQ_Q_W3_DISC (n : Nat) : Field := ⟨0x4014010C + 16 * (n % 17), 0, 32, 0⟩

/-! ### SAF registers (17 R409) -/

def SAF_CTRL_SWAP_EN : Field := ⟨0x40150000, 2, 1, 1⟩
def SAF_CTRL_SF1T_EN : Field := ⟨0x40150000, 1, 1, 1⟩
def SAF_CTRL_BIST_EN : Field := ⟨0x40150000, 0, 1, 1⟩
def SAF_STATUS_CFGREJ : Field := ⟨0x40150004, 12, 1, 0⟩
def SAF_STATUS_RINSEUE : Field := ⟨0x40150004, 11, 1, 0⟩
def SAF_STATUS_SF2OVF : Field := ⟨0x40150004, 10, 1, 0⟩
def SAF_STATUS_FABPAR : Field := ⟨0x40150004, 9, 1, 0⟩
def SAF_STATUS_GUARD : Field := ⟨0x40150004, 8, 1, 0⟩
def SAF_STATUS_UNITFLT : Field := ⟨0x40150004, 7, 1, 0⟩
def SAF_STATUS_SF1DIS : Field := ⟨0x40150004, 6, 1, 0⟩
def SAF_STATUS_SF1TFAIL : Field := ⟨0x40150004, 5, 1, 0⟩
def SAF_STATUS_BISTDEFER : Field := ⟨0x40150004, 4, 1, 0⟩
def SAF_STATUS_BISTFAIL : Field := ⟨0x40150004, 3, 1, 0⟩
def SAF_STATUS_BISTDONE : Field := ⟨0x40150004, 2, 1, 0⟩
def SAF_STATUS_CNTWRAP : Field := ⟨0x40150004, 1, 1, 0⟩
def SAF_STATUS_CMDREJ : Field := ⟨0x40150004, 0, 1, 0⟩
def SAF_IRQ_EN_EN : Field := ⟨0x40150008, 0, 13, 0⟩
def SAF_CMD_KEY : Field := ⟨0x4015000C, 16, 16, 0⟩
def SAF_CMD_OP : Field := ⟨0x4015000C, 0, 3, 0⟩
def SAF_BIST_BLOCK_B : Field := ⟨0x40150010, 15, 1, 0⟩
def SAF_BIST_RES_B : Field := ⟨0x40150010, 12, 3, 0⟩
def SAF_BIST_RUN_B : Field := ⟨0x40150010, 11, 1, 0⟩
def SAF_BIST_BLOCK_A : Field := ⟨0x40150010, 7, 1, 0⟩
def SAF_BIST_RES_A : Field := ⟨0x40150010, 4, 3, 0⟩
def SAF_BIST_RUN_A : Field := ⟨0x40150010, 3, 1, 0⟩
def SAF_PER_SF1PER : Field := ⟨0x40150014, 16, 16, 24⟩
def SAF_PER_BIST_PER : Field := ⟨0x40150014, 0, 16, 24⟩
def SAF_NEXT_TS64 : Field := ⟨0x40150018, 0, 64, 0⟩
def SAF_LSIG_A_SIG : Field := ⟨0x40150020, 0, 64, 0⟩
def SAF_LSIG_B_SIG : Field := ⟨0x40150028, 0, 64, 0⟩
def SAF_MSIG_A_SIG : Field := ⟨0x40150030, 0, 64, 0⟩
def SAF_MSIG_B_SIG : Field := ⟨0x40150038, 0, 64, 0⟩
def SAF_SF1T_QTIME : Field := ⟨0x40150040, 16, 16, 0⟩
def SAF_SF1T_RUN : Field := ⟨0x40150040, 8, 1, 0⟩
def SAF_SF1T_RES_B : Field := ⟨0x40150040, 4, 2, 0⟩
def SAF_SF1T_RES_A : Field := ⟨0x40150040, 0, 2, 0⟩
def SAF_SF2_LEVEL : Field := ⟨0x40150050, 16, 16, 0⟩
def SAF_SF2_CAUSE : Field := ⟨0x40150050, 11, 3, 0⟩
def SAF_SF2_LANTERN : Field := ⟨0x40150050, 0, 11, 0⟩
def SAF_SF2_CFG_TC : Field := ⟨0x40150054, 16, 3, 6⟩
def SAF_SF2_CFG_SFPORT : Field := ⟨0x40150054, 0, 16, 0⟩
def SAF_RINSE_INT : Field := ⟨0x40150060, 0, 7, 100⟩
def SAF_UNITFLT_LANE : Field := ⟨0x40150064, 8, 1, 0⟩
def SAF_UNITFLT_UNIT : Field := ⟨0x40150064, 0, 2, 0⟩
def SAF_RINSE_PASS_COUNT : Field := ⟨0x40150068, 0, 32, 0⟩
def SAF_GUARD_CNT_COUNT : Field := ⟨0x4015006C, 0, 32, 0⟩
def SAF_FABPAR_CNT_COUNT : Field := ⟨0x40150070, 0, 32, 0⟩
def SAF_SF2_CNT_COUNT : Field := ⟨0x40150074, 0, 32, 0⟩
def SAF_HB_REST : Field := ⟨0x40150080, 1, 1, 0⟩
def SAF_HB_LEVEL : Field := ⟨0x40150080, 0, 1, 0⟩

end Sys2Proof.Machine
end

