-- ==== Sys2Proof/Machine/RegTable.lean ====
section
/-!
DEFINITION. The table of the registers: every register of spec/ with its address, its words, its instances and its
fields with their access codes (R9), one list per block (R13), and the search of a register by its bus address.
-/
namespace Sys2Proof.Machine

/-- How one field is accessed: the field (of a port, an index and a lane), its access code (R9) and whether it is marked ND. -/
structure FieldRow where
  at' : Nat → Nat → Lane → Field
  acc : Access
  nd : Bool

/-- One row of the register map: the bus address of its first register, its words, the number of its instances and the
distance between them, whether both backhaul ports have it, whether it is banked, and its fields. -/
structure RegRow where
  base : Nat
  words : Nat
  count : Nat
  stride : Nat
  port : Bool
  banked : Bool
  fields : List FieldRow

/-- The registers of SYS. -/
def regsSYS : List RegRow := [
  ⟨0x40000000, 1, 1, 4, false, false,
    [⟨fun _ _ _ => SYS_ID_PART, .ro, false⟩,
     ⟨fun _ _ _ => SYS_ID_VARIANT, .ro, false⟩,
     ⟨fun _ _ _ => SYS_ID_STEP, .ro, false⟩]⟩,
  ⟨0x40000004, 1, 1, 4, false, false,
    [⟨fun _ _ _ => SYS_RESET_CAUSE_NOLANE, .w1c, false⟩,
     ⟨fun _ _ _ => SYS_RESET_CAUSE_BKP, .w1c, false⟩,
     ⟨fun _ _ _ => SYS_RESET_CAUSE_POR, .w1c, false⟩,
     ⟨fun _ _ _ => SYS_RESET_CAUSE_PIN, .w1c, false⟩,
     ⟨fun _ _ _ => SYS_RESET_CAUSE_SOFT, .w1c, false⟩,
     ⟨fun _ _ _ => SYS_RESET_CAUSE_LANEB, .w1c, false⟩,
     ⟨fun _ _ _ => SYS_RESET_CAUSE_LANEA, .w1c, false⟩]⟩,
  ⟨0x40000008, 1, 1, 4, false, false,
    [⟨fun _ _ _ => SYS_RESET_CTRL_KEY, .wo, false⟩,
     ⟨fun _ _ _ => SYS_RESET_CTRL_SYSRST, .wo, false⟩]⟩,
  ⟨0x40000010, 1, 1, 4, false, true,
    [⟨fun _ _ l => SYS_IRQ_PEND_PEND l, .ro, true⟩]⟩,
  ⟨0x40000014, 1, 1, 4, false, true,
    [⟨fun _ _ l => SYS_IRQ_EN_EN l, .rw, false⟩]⟩,
  ⟨0x40000018, 1, 1, 4, false, true,
    [⟨fun _ _ l => SYS_IRQ_NEXT_ID l, .ro, true⟩]⟩,
  ⟨0x40000020, 1, 1, 4, false, false,
    [⟨fun _ _ _ => SYS_CLK_STATUS_MTRPLL, .ro, true⟩,
     ⟨fun _ _ _ => SYS_CLK_STATUS_RFPLL, .ro, true⟩,
     ⟨fun _ _ _ => SYS_CLK_STATUS_PLCPLL, .ro, true⟩,
     ⟨fun _ _ _ => SYS_CLK_STATUS_TBPLL, .ro, true⟩,
     ⟨fun _ _ _ => SYS_CLK_STATUS_SYSPLL, .ro, true⟩,
     ⟨fun _ _ _ => SYS_CLK_STATUS_REFOK, .ro, true⟩]⟩]

/-- The registers of TB. -/
def regsTB : List RegRow := [
  ⟨0x40010000, 1, 1, 4, false, false,
    [⟨fun _ _ _ => TB_CTRL_TWOSTEP_OK, .rw, false⟩,
     ⟨fun _ _ _ => TB_CTRL_TC_EN, .rw, false⟩,
     ⟨fun _ _ _ => TB_CTRL_PORTSEL, .rw, false⟩,
     ⟨fun _ _ _ => TB_CTRL_STEP_EN, .rw, false⟩,
     ⟨fun _ _ _ => TB_CTRL_SERVO_EN, .rw, false⟩]⟩,
  ⟨0x40010004, 1, 1, 4, false, false,
    [⟨fun _ _ _ => TB_STATUS_ERRSAT, .w1c, true⟩,
     ⟨fun _ _ _ => TB_STATUS_SYNCWRAP, .w1c, true⟩,
     ⟨fun _ _ _ => TB_STATUS_TXTS1, .w1c, true⟩,
     ⟨fun _ _ _ => TB_STATUS_TXTS0, .w1c, true⟩,
     ⟨fun _ _ _ => TB_STATUS_NOFIX, .w1c, true⟩,
     ⟨fun _ _ _ => TB_STATUS_FUMISS, .w1c, true⟩,
     ⟨fun _ _ _ => TB_STATUS_SETREJ, .w1c, true⟩,
     ⟨fun _ _ _ => TB_STATUS_INCCLAMP, .w1c, true⟩,
     ⟨fun _ _ _ => TB_STATUS_SYNCLOSS, .w1c, true⟩,
     ⟨fun _ _ _ => TB_STATUS_STEPPED, .w1c, true⟩,
     ⟨fun _ _ _ => TB_STATUS_STCHG, .w1c, true⟩,
     ⟨fun _ _ _ => TB_STATUS_STATE, .ro, true⟩]⟩,
  ⟨0x40010008, 1, 1, 4, false, false,
    [⟨fun _ _ _ => TB_IRQ_EN_EN, .rw, false⟩]⟩,
  ⟨0x40010010, 4, 1, 16, false, false,
    [⟨fun _ _ _ => TB_TIME_SEC, .ro, true⟩,
     ⟨fun _ _ _ => TB_TIME_NS, .ro, true⟩,
     ⟨fun _ _ _ => TB_TIME_FRAC, .ro, true⟩]⟩,
  ⟨0x40010020, 4, 1, 16, false, false,
    [⟨fun _ _ _ => TB_SET_SEC, .wo, false⟩,
     ⟨fun _ _ _ => TB_SET_NS, .wo, false⟩,
     ⟨fun _ _ _ => TB_SET_FRAC, .wo, false⟩]⟩,
  ⟨0x40010030, 2, 1, 8, false, false,
    [⟨fun _ _ _ => TB_INC_BASE_INT, .rw, false⟩,
     ⟨fun _ _ _ => TB_INC_BASE_FRAC, .rw, false⟩]⟩,
  ⟨0x40010038, 2, 1, 8, false, false,
    [⟨fun _ _ _ => TB_INC_FREQ_INT, .ro, true⟩,
     ⟨fun _ _ _ => TB_INC_FREQ_FRAC, .ro, true⟩]⟩,
  ⟨0x40010040, 1, 1, 4, false, false,
    [⟨fun _ _ _ => TB_INTEG_I, .ro, true⟩]⟩,
  ⟨0x40010044, 1, 1, 4, false, false,
    [⟨fun _ _ _ => TB_GAIN_KI, .rw, false⟩,
     ⟨fun _ _ _ => TB_GAIN_KP, .rw, false⟩]⟩,
  ⟨0x40010048, 1, 1, 4, false, false,
    [⟨fun _ _ _ => TB_SLEW_LIM_LIM, .rw, false⟩]⟩,
  ⟨0x4001004C, 1, 1, 4, false, false,
    [⟨fun _ _ _ => TB_STEP_THR_THR, .rw, false⟩]⟩,
  ⟨0x40010050, 1, 1, 4, false, false,
    [⟨fun _ _ _ => TB_LOCK_CFG_LOCK_N, .rw, false⟩,
     ⟨fun _ _ _ => TB_LOCK_CFG_UNLOCK_THR, .rw, false⟩,
     ⟨fun _ _ _ => TB_LOCK_CFG_LOCK_THR, .rw, false⟩]⟩,
  ⟨0x40010054, 1, 1, 4, false, false,
    [⟨fun _ _ _ => TB_SYNC_CFG_HOLD_MAX, .rw, false⟩,
     ⟨fun _ _ _ => TB_SYNC_CFG_DOMAIN, .rw, false⟩,
     ⟨fun _ _ _ => TB_SYNC_CFG_TOUT_N, .rw, false⟩,
     ⟨fun _ _ _ => TB_SYNC_CFG_LOG, .rw, false⟩]⟩,
  ⟨0x40010058, 3, 1, 12, false, false,
    [⟨fun _ _ _ => TB_MASTER_CLOCKID, .rw, false⟩,
     ⟨fun _ _ _ => TB_MASTER_PORTNUM, .rw, false⟩]⟩,
  ⟨0x40010068, 2, 1, 8, false, false,
    [⟨fun _ _ _ => TB_OFFSET_O, .ro, true⟩]⟩,
  ⟨0x40010070, 1, 1, 4, false, false,
    [⟨fun _ _ _ => TB_SYNC_CNT_COUNT, .ro, true⟩]⟩,
  ⟨0x40010074, 1, 1, 4, false, false,
    [⟨fun _ _ _ => TB_ERR_CNT_FUMISS_CNT, .ro, true⟩,
     ⟨fun _ _ _ => TB_ERR_CNT_NOFIX_CNT, .ro, true⟩]⟩,
  ⟨0x40010080, 1, 1, 4, false, false,
    [⟨fun _ _ _ => TB_P0_LINKDLY_NS, .rw, false⟩,
     ⟨fun _ _ _ => TB_P0_LINKDLY_FRAC, .rw, false⟩]⟩,
  ⟨0x40010084, 1, 1, 4, false, false,
    [⟨fun _ _ _ => TB_P1_LINKDLY_NS, .rw, false⟩,
     ⟨fun _ _ _ => TB_P1_LINKDLY_FRAC, .rw, false⟩]⟩,
  ⟨0x40010088, 1, 1, 4, false, false,
    [⟨fun _ _ _ => TB_P0_ASYM_ASYM, .rw, false⟩]⟩,
  ⟨0x4001008C, 1, 1, 4, false, false,
    [⟨fun _ _ _ => TB_P1_ASYM_ASYM, .rw, false⟩]⟩,
  ⟨0x40010090, 1, 1, 4, false, false,
    [⟨fun _ _ _ => TB_P0_LAT_TXLAT, .rw, false⟩,
     ⟨fun _ _ _ => TB_P0_LAT_RXLAT, .rw, false⟩]⟩,
  ⟨0x40010094, 1, 1, 4, false, false,
    [⟨fun _ _ _ => TB_P1_LAT_TXLAT, .rw, false⟩,
     ⟨fun _ _ _ => TB_P1_LAT_RXLAT, .rw, false⟩]⟩,
  ⟨0x400100A0, 4, 1, 16, false, false,
    [⟨fun _ _ _ => TB_P0_TXTS_SEQ, .ro, true⟩,
     ⟨fun _ _ _ => TB_P0_TXTS_SEC, .ro, true⟩,
     ⟨fun _ _ _ => TB_P0_TXTS_NS, .ro, true⟩,
     ⟨fun _ _ _ => TB_P0_TXTS_FRAC, .ro, true⟩]⟩,
  ⟨0x400100B0, 4, 1, 16, false, false,
    [⟨fun _ _ _ => TB_P1_TXTS_SEQ, .ro, true⟩,
     ⟨fun _ _ _ => TB_P1_TXTS_SEC, .ro, true⟩,
     ⟨fun _ _ _ => TB_P1_TXTS_NS, .ro, true⟩,
     ⟨fun _ _ _ => TB_P1_TXTS_FRAC, .ro, true⟩]⟩]

/-- The registers of CRZ. -/
def regsCRZ : List RegRow := [
  ⟨0x40020000, 1, 1, 4, false, false,
    [⟨fun _ _ _ => CRZ_CTRL_EN, .rw, false⟩]⟩,
  ⟨0x40020004, 1, 1, 4, false, false,
    [⟨fun _ _ _ => CRZ_GRID_H_MS, .rw, false⟩,
     ⟨fun _ _ _ => CRZ_GRID_P_STEP, .rw, false⟩]⟩,
  ⟨0x40020008, 1, 1, 4, false, false,
    [⟨fun _ _ _ => CRZ_SEG_SEG, .rw, false⟩]⟩,
  ⟨0x4002000C, 1, 1, 4, false, false,
    [⟨fun _ _ _ => CRZ_STATUS_TBDROP, .w1c, true⟩,
     ⟨fun _ _ _ => CRZ_STATUS_CFGREJ, .w1c, true⟩,
     ⟨fun _ _ _ => CRZ_STATUS_INJREJ, .w1c, true⟩,
     ⟨fun _ _ _ => CRZ_STATUS_GAP, .w1c, true⟩,
     ⟨fun _ _ _ => CRZ_STATUS_DIGERR_B, .w1c, true⟩,
     ⟨fun _ _ _ => CRZ_STATUS_DIGERR_A, .w1c, true⟩,
     ⟨fun _ _ _ => CRZ_STATUS_QWAIT_B, .w1c, true⟩,
     ⟨fun _ _ _ => CRZ_STATUS_QWAIT_A, .w1c, true⟩,
     ⟨fun _ _ _ => CRZ_STATUS_STALL, .w1c, true⟩,
     ⟨fun _ _ _ => CRZ_STATUS_DUP, .w1c, true⟩,
     ⟨fun _ _ _ => CRZ_STATUS_CNTWRAP, .w1c, true⟩,
     ⟨fun _ _ _ => CRZ_STATUS_AHEAD, .w1c, true⟩,
     ⟨fun _ _ _ => CRZ_STATUS_LATE, .w1c, true⟩]⟩,
  ⟨0x40020010, 1, 1, 4, false, false,
    [⟨fun _ _ _ => CRZ_IRQ_EN_EN, .rw, false⟩]⟩,
  ⟨0x40020018, 2, 1, 8, false, false,
    [⟨fun _ _ _ => CRZ_CUR_IDX_IDX, .ro, true⟩]⟩,
  ⟨0x40020020, 2, 1, 8, false, false,
    [⟨fun _ _ _ => CRZ_SEAL_IDX_IDX, .ro, true⟩]⟩,
  ⟨0x40020028, 1, 1, 4, false, false,
    [⟨fun _ _ _ => CRZ_LATE_CNT_COUNT, .ro, true⟩]⟩,
  ⟨0x4002002C, 1, 1, 4, false, false,
    [⟨fun _ _ _ => CRZ_DUP_CNT_COUNT, .ro, true⟩]⟩,
  ⟨0x40020030, 1, 1, 4, false, false,
    [⟨fun _ _ _ => CRZ_STALL_CNT_COUNT, .ro, true⟩]⟩,
  ⟨0x40020034, 1, 1, 4, false, false,
    [⟨fun _ _ _ => CRZ_POOL_PEAK, .ro, true⟩,
     ⟨fun _ _ _ => CRZ_POOL_USED, .ro, true⟩]⟩,
  ⟨0x40020040, 1, 1, 4, false, false,
    [⟨fun _ _ _ => CRZ_EQ_BASE_BASE, .rw, false⟩]⟩,
  ⟨0x40020044, 1, 1, 4, false, false,
    [⟨fun _ _ _ => CRZ_EQ_SIZE_SIZE, .rw, false⟩]⟩,
  ⟨0x40020048, 1, 1, 4, false, true,
    [⟨fun _ _ l => CRZ_EQ_RD_RD l, .rw, false⟩]⟩,
  ⟨0x4002004C, 1, 1, 4, false, true,
    [⟨fun _ _ l => CRZ_EQ_WR_WR l, .ro, true⟩]⟩,
  ⟨0x40020050, 4, 1, 16, false, false,
    [⟨fun _ _ _ => CRZ_INJ_PAY_PAYLOAD, .wo, false⟩]⟩,
  ⟨0x40020060, 1, 1, 4, false, false,
    [⟨fun _ _ _ => CRZ_INJ_CMD_CHAN, .wo, false⟩,
     ⟨fun _ _ _ => CRZ_INJ_CMD_KIND, .wo, false⟩]⟩,
  ⟨0x40020070, 1, 1, 4, false, false,
    [⟨fun _ _ _ => CRZ_COV_SEL_ENTRY, .rw, false⟩]⟩,
  ⟨0x40020074, 1, 1, 4, false, false,
    [⟨fun _ _ _ => CRZ_COV_IDXLO, .ro, true⟩,
     ⟨fun _ _ _ => CRZ_COV_LATECNT, .ro, true⟩,
     ⟨fun _ _ _ => CRZ_COV_COVER, .ro, true⟩]⟩,
  ⟨0x40020080, 8, 1, 32, false, false,
    [⟨fun _ _ _ => CRZ_DIGEST_DIGEST, .ro, true⟩]⟩]

/-- The registers of LSC. -/
def regsLSC : List RegRow := [
  ⟨0x40030000, 1, 1, 4, false, false,
    [⟨fun _ _ _ => LSC_CTRL_SPLIT, .ro, true⟩,
     ⟨fun _ _ _ => LSC_CTRL_AUTOREJOIN, .rw, false⟩,
     ⟨fun _ _ _ => LSC_CTRL_PREF_B, .rw, false⟩]⟩,
  ⟨0x40030004, 1, 1, 4, false, false,
    [⟨fun _ _ _ => LSC_STATUS_NOLANE, .w1c, true⟩,
     ⟨fun _ _ _ => LSC_STATUS_SVCSAT, .w1c, true⟩,
     ⟨fun _ _ _ => LSC_STATUS_CFGREJ, .w1c, true⟩,
     ⟨fun _ _ _ => LSC_STATUS_NDWRAP, .w1c, true⟩,
     ⟨fun _ _ _ => LSC_STATUS_CEWRAP, .w1c, true⟩,
     ⟨fun _ _ _ => LSC_STATUS_CBOVF, .w1c, true⟩,
     ⟨fun _ _ _ => LSC_STATUS_CMPTMO, .w1c, true⟩,
     ⟨fun _ _ _ => LSC_STATUS_REJOINED, .w1c, true⟩,
     ⟨fun _ _ _ => LSC_STATUS_TAKEOVER, .w1c, true⟩,
     ⟨fun _ _ _ => LSC_STATUS_OUT_B, .w1c, true⟩,
     ⟨fun _ _ _ => LSC_STATUS_OUT_A, .w1c, true⟩,
     ⟨fun _ _ _ => LSC_STATUS_DEGRADE, .w1c, true⟩,
     ⟨fun _ _ _ => LSC_STATUS_SUSPECT, .w1c, true⟩,
     ⟨fun _ _ _ => LSC_STATUS_MISMATCH, .w1c, true⟩]⟩,
  ⟨0x40030008, 1, 1, 4, false, false,
    [⟨fun _ _ _ => LSC_IRQ_EN_EN, .rw, false⟩]⟩,
  ⟨0x4003000C, 1, 1, 4, false, false,
    [⟨fun _ _ _ => LSC_ROLE_SUSP_CNT, .ro, true⟩,
     ⟨fun _ _ _ => LSC_ROLE_DEGRADED, .ro, true⟩,
     ⟨fun _ _ _ => LSC_ROLE_SUSPECT, .ro, true⟩,
     ⟨fun _ _ _ => LSC_ROLE_STATE_B, .ro, true⟩,
     ⟨fun _ _ _ => LSC_ROLE_STATE_A, .ro, true⟩]⟩,
  ⟨0x40030010, 1, 1, 4, false, false,
    [⟨fun _ _ _ => LSC_CAUSE_A_OUTS, .ro, true⟩,
     ⟨fun _ _ _ => LSC_CAUSE_A_CAUSE, .ro, true⟩]⟩,
  ⟨0x40030014, 1, 1, 4, false, false,
    [⟨fun _ _ _ => LSC_CAUSE_B_OUTS, .ro, true⟩,
     ⟨fun _ _ _ => LSC_CAUSE_B_CAUSE, .ro, true⟩]⟩,
  ⟨0x40030018, 1, 1, 4, false, false,
    [⟨fun _ _ _ => LSC_CMD_KEY, .wo, false⟩,
     ⟨fun _ _ _ => LSC_CMD_OP, .wo, false⟩]⟩,
  ⟨0x4003001C, 1, 1, 4, false, false,
    [⟨fun _ _ _ => LSC_CMP_WAIT_WAIT, .rw, false⟩]⟩,
  ⟨0x40030020, 8, 1, 32, false, false,
    [⟨fun _ _ _ => LSC_DIG_A_DIGEST, .ro, true⟩]⟩,
  ⟨0x40030040, 8, 1, 32, false, false,
    [⟨fun _ _ _ => LSC_DIG_B_DIGEST, .ro, true⟩]⟩,
  ⟨0x40030060, 2, 1, 8, false, false,
    [⟨fun _ _ _ => LSC_DIGIDX_A_IDX, .ro, true⟩]⟩,
  ⟨0x40030068, 2, 1, 8, false, false,
    [⟨fun _ _ _ => LSC_DIGIDX_B_IDX, .ro, true⟩]⟩,
  ⟨0x40030070, 2, 1, 8, false, false,
    [⟨fun _ _ _ => LSC_MIS_IDX_IDX, .ro, true⟩]⟩,
  ⟨0x40030100, 1, 1, 4, false, true,
    [⟨fun _ _ l => LSC_SEAL_SEAL l, .wo, false⟩]⟩,
  ⟨0x40030104, 1, 1, 4, false, true,
    [⟨fun _ _ l => LSC_JOIN_REQ l, .wo, false⟩]⟩,
  ⟨0x40030108, 1, 1, 4, false, true,
    [⟨fun _ _ l => LSC_CB_PEAK l, .ro, true⟩,
     ⟨fun _ _ l => LSC_CB_USED l, .ro, true⟩]⟩,
  ⟨0x4003010C, 1, 1, 4, false, true,
    [⟨fun _ _ l => LSC_ND_CNT_COUNT l, .ro, true⟩]⟩,
  ⟨0x40030110, 1, 1, 4, false, true,
    [⟨fun _ _ l => LSC_CE_CNT_COUNT l, .ro, true⟩]⟩,
  ⟨0x40030114, 1, 1, 4, false, true,
    [⟨fun _ _ l => LSC_SVC_WCNT_COUNT l, .ro, true⟩]⟩,
  ⟨0x40030120, 1, 16, 8, false, true,
    [⟨fun _ n l => LSC_SRG_BASE_BASE n l, .rw, false⟩]⟩,
  ⟨0x40030124, 1, 16, 8, false, true,
    [⟨fun _ n l => LSC_SRG_LEN_LEN n l, .rw, false⟩]⟩]

/-- The registers of LNU. -/
def regsLNU : List RegRow := [
  ⟨0x40040000, 1, 1, 4, false, false,
    [⟨fun _ _ _ => LNU_CTRL_PATHDEF, .rw, false⟩,
     ⟨fun _ _ _ => LNU_CTRL_STAG_EN, .rw, false⟩,
     ⟨fun _ _ _ => LNU_CTRL_EN, .rw, false⟩]⟩,
  ⟨0x40040004, 1, 1, 4, false, false,
    [⟨fun _ _ _ => LNU_STATUS_SVCREJ, .w1c, true⟩,
     ⟨fun _ _ _ => LNU_STATUS_RNDUP, .w1c, true⟩,
     ⟨fun _ _ _ => LNU_STATUS_CNTWRAP, .w1c, true⟩,
     ⟨fun _ _ _ => LNU_STATUS_STAGOVF, .w1c, true⟩,
     ⟨fun _ _ _ => LNU_STATUS_PROFORD, .w1c, true⟩,
     ⟨fun _ _ _ => LNU_STATUS_PROFDEF, .w1c, true⟩,
     ⟨fun _ _ _ => LNU_STATUS_MISS_PLC, .w1c, true⟩,
     ⟨fun _ _ _ => LNU_STATUS_MISS_RFB, .w1c, true⟩,
     ⟨fun _ _ _ => LNU_STATUS_MISS_RFA, .w1c, true⟩,
     ⟨fun _ _ _ => LNU_STATUS_REJ, .w1c, true⟩,
     ⟨fun _ _ _ => LNU_STATUS_CFGREJ, .w1c, true⟩]⟩,
  ⟨0x40040008, 1, 1, 4, false, false,
    [⟨fun _ _ _ => LNU_IRQ_EN_EN, .rw, false⟩]⟩,
  ⟨0x40040010, 1, 1, 4, false, false,
    [⟨fun _ _ _ => LNU_LEAD_RF_EARLY, .rw, false⟩,
     ⟨fun _ _ _ => LNU_LEAD_RF_LEAD, .rw, false⟩]⟩,
  ⟨0x40040014, 1, 1, 4, false, false,
    [⟨fun _ _ _ => LNU_LEAD_PLC_EARLY, .rw, false⟩,
     ⟨fun _ _ _ => LNU_LEAD_PLC_LEAD, .rw, false⟩]⟩,
  ⟨0x40040018, 1, 1, 4, false, false,
    [⟨fun _ _ _ => LNU_REL_RH, .rw, false⟩]⟩,
  ⟨0x4004001C, 1, 1, 4, false, false,
    [⟨fun _ _ _ => LNU_WAVE_OFS, .rw, false⟩]⟩,
  ⟨0x40040020, 1, 1, 4, false, false,
    [⟨fun _ _ _ => LNU_STAG_IMAX, .rw, false⟩]⟩,
  ⟨0x40040024, 1, 1, 4, false, false,
    [⟨fun _ _ _ => LNU_QSTAT_PEAK, .ro, true⟩,
     ⟨fun _ _ _ => LNU_QSTAT_USED, .ro, true⟩]⟩,
  ⟨0x40040028, 1, 1, 4, false, false,
    [⟨fun _ _ _ => LNU_ACC_CNT_COUNT, .ro, true⟩]⟩,
  ⟨0x4004002C, 1, 1, 4, false, false,
    [⟨fun _ _ _ => LNU_REJ_CNT_COUNT, .ro, true⟩]⟩,
  ⟨0x40040030, 1, 1, 4, false, false,
    [⟨fun _ _ _ => LNU_SENT_RFA_COUNT, .ro, true⟩]⟩,
  ⟨0x40040034, 1, 1, 4, false, false,
    [⟨fun _ _ _ => LNU_SENT_RFB_COUNT, .ro, true⟩]⟩,
  ⟨0x40040038, 1, 1, 4, false, false,
    [⟨fun _ _ _ => LNU_SENT_PLC_COUNT, .ro, true⟩]⟩,
  ⟨0x4004003C, 1, 1, 4, false, false,
    [⟨fun _ _ _ => LNU_MISS_RFA_COUNT, .ro, true⟩]⟩,
  ⟨0x40040040, 1, 1, 4, false, false,
    [⟨fun _ _ _ => LNU_MISS_RFB_COUNT, .ro, true⟩]⟩,
  ⟨0x40040044, 1, 1, 4, false, false,
    [⟨fun _ _ _ => LNU_MISS_PLC_COUNT, .ro, true⟩]⟩,
  ⟨0x40040048, 2, 1, 8, false, false,
    [⟨fun _ _ _ => LNU_REJ_LAST_CIDX, .ro, true⟩,
     ⟨fun _ _ _ => LNU_REJ_LAST_REASON, .ro, true⟩,
     ⟨fun _ _ _ => LNU_REJ_LAST_ORIGIN, .ro, true⟩,
     ⟨fun _ _ _ => LNU_REJ_LAST_TARGET, .ro, true⟩]⟩,
  ⟨0x40040050, 4, 1, 16, false, false,
    [⟨fun _ _ _ => LNU_ACT_RECORD, .wo, false⟩]⟩,
  ⟨0x40040060, 3, 2, 16, false, false,
    [⟨fun _ n _ => LNU_DAY_EN n, .rw, false⟩,
     ⟨fun _ n _ => LNU_DAY_BANK n, .rw, false⟩,
     ⟨fun _ n _ => LNU_DAY_DAYBASE n, .rw, false⟩]⟩,
  ⟨0x40040080, 1, 4, 4, false, false,
    [⟨fun _ n _ => LNU_BANK_N_NENT n, .rw, false⟩]⟩,
  ⟨0x40040090, 1, 1, 4, false, false,
    [⟨fun _ _ _ => LNU_PW_IDX_BANK, .rw, false⟩,
     ⟨fun _ _ _ => LNU_PW_IDX_ENTRY, .rw, false⟩]⟩,
  ⟨0x40040094, 4, 1, 16, false, false,
    [⟨fun _ _ _ => LNU_PW_DATA_ENTRY, .wo, false⟩]⟩,
  ⟨0x400400A4, 4, 1, 16, false, false,
    [⟨fun _ _ _ => LNU_PR_DATA_ENTRY, .ro, false⟩]⟩,
  ⟨0x40040400, 1, 256, 4, false, false,
    [⟨fun _ n _ => LNU_GRP_PH n, .rw, false⟩,
     ⟨fun _ n _ => LNU_GRP_INR n, .rw, false⟩]⟩,
  ⟨0x40040800, 1, 64, 4, false, false,
    [⟨fun _ n _ => LNU_HOME_HOME n, .rw, false⟩]⟩]

/-- The registers of ESC. -/
def regsESC : List RegRow := [
  ⟨0x40050000, 1, 1, 4, false, false,
    [⟨fun _ _ _ => ESC_CTRL_CMDCH, .rw, false⟩,
     ⟨fun _ _ _ => ESC_CTRL_PATH, .rw, false⟩,
     ⟨fun _ _ _ => ESC_CTRL_EN, .rw, false⟩]⟩,
  ⟨0x40050004, 1, 1, 4, false, false,
    [⟨fun _ _ _ => ESC_STATUS_CFGERR, .w1c, true⟩,
     ⟨fun _ _ _ => ESC_STATUS_ESCUE, .w1c, true⟩,
     ⟨fun _ _ _ => ESC_STATUS_WAIT_B, .w1c, true⟩,
     ⟨fun _ _ _ => ESC_STATUS_WAIT_A, .w1c, true⟩,
     ⟨fun _ _ _ => ESC_STATUS_RCLAMP, .w1c, true⟩,
     ⟨fun _ _ _ => ESC_STATUS_CMDOVF, .w1c, true⟩,
     ⟨fun _ _ _ => ESC_STATUS_CMDREJ, .w1c, true⟩,
     ⟨fun _ _ _ => ESC_STATUS_OUTDROP, .w1c, true⟩,
     ⟨fun _ _ _ => ESC_STATUS_TRKFULL, .w1c, true⟩,
     ⟨fun _ _ _ => ESC_STATUS_DETOVF, .w1c, true⟩,
     ⟨fun _ _ _ => ESC_STATUS_DETLATE, .w1c, true⟩,
     ⟨fun _ _ _ => ESC_STATUS_CNTWRAP, .w1c, true⟩,
     ⟨fun _ _ _ => ESC_STATUS_CFGREJ, .w1c, true⟩]⟩,
  ⟨0x40050008, 1, 1, 4, false, false,
    [⟨fun _ _ _ => ESC_IRQ_EN_EN, .rw, false⟩]⟩,
  ⟨0x4005000C, 1, 1, 4, false, false,
    [⟨fun _ _ _ => ESC_DET_KIND_VAL, .rw, false⟩,
     ⟨fun _ _ _ => ESC_DET_KIND_MASK, .rw, false⟩,
     ⟨fun _ _ _ => ESC_DET_CH, .rw, false⟩]⟩,
  ⟨0x40050010, 1, 1, 4, false, false,
    [⟨fun _ _ _ => ESC_SPEED_VMAX, .rw, false⟩,
     ⟨fun _ _ _ => ESC_SPEED_VMIN, .rw, false⟩]⟩,
  ⟨0x40050014, 1, 1, 4, false, false,
    [⟨fun _ _ _ => ESC_TRACK_NAHEAD, .rw, false⟩,
     ⟨fun _ _ _ => ESC_TRACK_NEIGH, .rw, false⟩,
     ⟨fun _ _ _ => ESC_TRACK_GMIN, .rw, false⟩]⟩,
  ⟨0x40050018, 1, 1, 4, false, false,
    [⟨fun _ _ _ => ESC_TIMING_TTENT, .rw, false⟩,
     ⟨fun _ _ _ => ESC_TIMING_MERGE, .rw, false⟩]⟩,
  ⟨0x4005001C, 1, 1, 4, false, false,
    [⟨fun _ _ _ => ESC_OUTMAX_OUTMAX, .rw, false⟩]⟩,
  ⟨0x40050020, 1, 1, 4, false, false,
    [⟨fun _ _ _ => ESC_DET_CNT_COUNT, .ro, true⟩]⟩,
  ⟨0x40050024, 1, 1, 4, false, false,
    [⟨fun _ _ _ => ESC_ACT_CNT_COUNT, .ro, true⟩]⟩,
  ⟨0x40050028, 1, 1, 4, false, false,
    [⟨fun _ _ _ => ESC_TRK_CNT_COUNT, .ro, true⟩]⟩,
  ⟨0x4005002C, 1, 1, 4, false, false,
    [⟨fun _ _ _ => ESC_LOST_CNT_COUNT, .ro, true⟩]⟩,
  ⟨0x40050030, 1, 1, 4, false, false,
    [⟨fun _ _ _ => ESC_DROP_CNT_COUNT, .ro, true⟩]⟩,
  ⟨0x40050034, 1, 1, 4, false, false,
    [⟨fun _ _ _ => ESC_MERGE_CNT_COUNT, .ro, true⟩]⟩,
  ⟨0x40050040, 1, 1, 4, false, true,
    [⟨fun _ _ l => ESC_TRK_SEL_TRACK l, .rw, false⟩]⟩,
  ⟨0x40050044, 4, 1, 16, false, true,
    [⟨fun _ _ l => ESC_TRK_RECORD l, .ro, true⟩]⟩,
  ⟨0x40050058, 1, 1, 4, false, true,
    [⟨fun _ _ l => ESC_LST_SEL_LANTERN l, .rw, false⟩]⟩,
  ⟨0x40050060, 4, 1, 16, false, true,
    [⟨fun _ _ l => ESC_LST_PLAN l, .ro, true⟩,
     ⟨fun _ _ l => ESC_LST_DIMAT l, .ro, true⟩,
     ⟨fun _ _ l => ESC_LST_LITFROM l, .ro, true⟩,
     ⟨fun _ _ l => ESC_LST_LIT l, .ro, true⟩,
     ⟨fun _ _ l => ESC_LST_HELD l, .ro, true⟩]⟩,
  ⟨0x40050070, 1, 1, 4, false, false,
    [⟨fun _ _ _ => ESC_OUTCHK_CHK, .wo, false⟩]⟩,
  ⟨0x40050400, 1, 64, 16, false, false,
    [⟨fun _ n _ => ESC_CHAIN_W0_EN n, .rw, false⟩,
     ⟨fun _ n _ => ESC_CHAIN_W0_NPOLE n, .rw, false⟩,
     ⟨fun _ n _ => ESC_CHAIN_W0_HI n, .rw, false⟩]⟩,
  ⟨0x40050404, 1, 64, 16, false, false,
    [⟨fun _ n _ => ESC_CHAIN_W1_BASE n, .rw, false⟩,
     ⟨fun _ n _ => ESC_CHAIN_W1_FDN n, .rw, false⟩,
     ⟨fun _ n _ => ESC_CHAIN_W1_FUP n, .rw, false⟩]⟩,
  ⟨0x40050408, 1, 64, 16, false, false,
    [⟨fun _ n _ => ESC_CHAIN_W2_DWELL n, .rw, false⟩,
     ⟨fun _ n _ => ESC_CHAIN_W2_TLEAD n, .rw, false⟩]⟩,
  ⟨0x40053F00, 2, 1, 8, false, true,
    [⟨fun _ _ l => ESC_OUT_INFO_W0_IDX l, .ro, false⟩]⟩,
  ⟨0x40053F08, 1, 1, 4, false, true,
    [⟨fun _ _ l => ESC_OUT_INFO_W2_CHK l, .ro, false⟩]⟩,
  ⟨0x40053F0C, 1, 1, 4, false, true,
    [⟨fun _ _ l => ESC_OUT_INFO_W3_DROP l, .ro, false⟩,
     ⟨fun _ _ l => ESC_OUT_INFO_W3_NACT l, .ro, false⟩]⟩,
  ⟨0x40058000, 1, 8192, 4, false, false,
    [⟨fun _ n _ => ESC_POLE_LANTERN n, .rw, false⟩,
     ⟨fun _ n _ => ESC_POLE_POS n, .rw, false⟩]⟩]

/-- The registers of FLT. -/
def regsFLT : List RegRow := [
  ⟨0x40060000, 1, 1, 4, false, false,
    [⟨fun _ _ _ => FLT_CTRL_COLLECTOR, .rw, false⟩,
     ⟨fun _ _ _ => FLT_CTRL_EN, .rw, false⟩]⟩,
  ⟨0x40060004, 1, 1, 4, false, false,
    [⟨fun _ _ _ => FLT_STATUS_RESUE, .w1c, true⟩,
     ⟨fun _ _ _ => FLT_STATUS_INQOVF, .w1c, true⟩,
     ⟨fun _ _ _ => FLT_STATUS_INREJ, .w1c, true⟩,
     ⟨fun _ _ _ => FLT_STATUS_SENDREJ, .w1c, true⟩,
     ⟨fun _ _ _ => FLT_STATUS_SENDLATE, .w1c, true⟩,
     ⟨fun _ _ _ => FLT_STATUS_WAIT_B, .w1c, true⟩,
     ⟨fun _ _ _ => FLT_STATUS_WAIT_A, .w1c, true⟩,
     ⟨fun _ _ _ => FLT_STATUS_CNTWRAP, .w1c, true⟩,
     ⟨fun _ _ _ => FLT_STATUS_CFGREJ, .w1c, true⟩]⟩,
  ⟨0x40060008, 1, 1, 4, false, false,
    [⟨fun _ _ _ => FLT_IRQ_EN_EN, .rw, false⟩]⟩,
  ⟨0x4006000C, 1, 1, 4, false, false,
    [⟨fun _ _ _ => FLT_SPREAD_W, .rw, false⟩]⟩,
  ⟨0x40060010, 1, 1, 4, false, false,
    [⟨fun _ _ _ => FLT_COL_CFG_INPORT, .rw, false⟩,
     ⟨fun _ _ _ => FLT_COL_CFG_NREP, .ro, false⟩]⟩,
  ⟨0x40060018, 2, 1, 8, false, false,
    [⟨fun _ _ _ => FLT_INMASK_MASK, .rw, false⟩]⟩,
  ⟨0x40060020, 2, 1, 8, false, false,
    [⟨fun _ _ _ => FLT_SEND_MASK_MASK, .rw, false⟩]⟩,
  ⟨0x40060028, 1, 1, 4, false, false,
    [⟨fun _ _ _ => FLT_SEND_DIST, .wo, false⟩,
     ⟨fun _ _ _ => FLT_SEND_PART, .wo, false⟩]⟩,
  ⟨0x40060030, 1, 1, 4, false, false,
    [⟨fun _ _ _ => FLT_SEND_CNT_COUNT, .ro, true⟩]⟩,
  ⟨0x40060034, 1, 1, 4, false, false,
    [⟨fun _ _ _ => FLT_LATE_CNT_COUNT, .ro, true⟩]⟩,
  ⟨0x40060038, 1, 1, 4, false, false,
    [⟨fun _ _ _ => FLT_IN_CNT_COUNT, .ro, true⟩]⟩,
  ⟨0x4006003C, 1, 1, 4, false, false,
    [⟨fun _ _ _ => FLT_INREJ_CNT_COUNT, .ro, true⟩]⟩,
  ⟨0x40060040, 1, 1, 4, false, false,
    [⟨fun _ _ _ => FLT_INQ_PEAK, .ro, true⟩,
     ⟨fun _ _ _ => FLT_INQ_USED, .ro, true⟩]⟩,
  ⟨0x40060050, 1, 1, 4, false, false,
    [⟨fun _ _ _ => FLT_RESCHK_CHK, .wo, false⟩]⟩,
  ⟨0x40060058, 2, 1, 8, false, false,
    [⟨fun _ _ _ => FLT_RCV_IDX_IDX, .ro, true⟩]⟩,
  ⟨0x40060400, 1, 256, 4, false, false,
    [⟨fun _ n _ => FLT_REPTAB_VALID1 n, .rw, false⟩,
     ⟨fun _ n _ => FLT_REPTAB_SEG1 n, .rw, false⟩,
     ⟨fun _ n _ => FLT_REPTAB_VALID0 n, .rw, false⟩,
     ⟨fun _ n _ => FLT_REPTAB_SEG0 n, .rw, false⟩]⟩,
  ⟨0x40060800, 16, 1, 64, false, false,
    [⟨fun _ _ _ => FLT_RCV_GOT, .ro, true⟩]⟩,
  ⟨0x40061000, 1, 64, 32, false, false,
    [⟨fun _ n _ => FLT_PROG_W0_EN n, .rw, false⟩,
     ⟨fun _ n _ => FLT_PROG_W0_INCL_LATE n, .rw, false⟩,
     ⟨fun _ n _ => FLT_PROG_W0_SIGNED n, .rw, false⟩,
     ⟨fun _ n _ => FLT_PROG_W0_OPW n, .rw, false⟩,
     ⟨fun _ n _ => FLT_PROG_W0_OP n, .rw, false⟩,
     ⟨fun _ n _ => FLT_PROG_W0_CH_HI n, .rw, false⟩,
     ⟨fun _ n _ => FLT_PROG_W0_CH_LO n, .rw, false⟩]⟩,
  ⟨0x40061004, 1, 64, 32, false, false,
    [⟨fun _ n _ => FLT_PROG_W1_KIND_MASK n, .rw, false⟩,
     ⟨fun _ n _ => FLT_PROG_W1_KIND_VAL n, .rw, false⟩,
     ⟨fun _ n _ => FLT_PROG_W1_SEGSEL n, .rw, false⟩]⟩,
  ⟨0x40061008, 1, 64, 32, false, false,
    [⟨fun _ n _ => FLT_PROG_W2_NODE_HI n, .rw, false⟩,
     ⟨fun _ n _ => FLT_PROG_W2_NODE_LO n, .rw, false⟩]⟩,
  ⟨0x4006100C, 1, 64, 32, false, false,
    [⟨fun _ n _ => FLT_PROG_W3_SEG_VAL n, .rw, false⟩]⟩,
  ⟨0x40061010, 1, 64, 32, false, false,
    [⟨fun _ n _ => FLT_PROG_W4_ARGOFF n, .rw, false⟩,
     ⟨fun _ n _ => FLT_PROG_W4_ARGSEL n, .rw, false⟩,
     ⟨fun _ n _ => FLT_PROG_W4_OPOFF n, .rw, false⟩]⟩,
  ⟨0x40061014, 1, 64, 32, false, false,
    [⟨fun _ n _ => FLT_PROG_W5_SHIFT n, .rw, false⟩,
     ⟨fun _ n _ => FLT_PROG_W5_BITSEL n, .rw, false⟩]⟩,
  ⟨0x40061018, 2, 64, 32, false, false,
    [⟨fun _ n _ => FLT_PROG_W6_HBASE n, .rw, false⟩]⟩,
  ⟨0x40067F00, 2, 1, 8, false, true,
    [⟨fun _ _ l => FLT_RES_INFO_W0_IDX l, .ro, false⟩]⟩,
  ⟨0x40067F08, 1, 1, 4, false, true,
    [⟨fun _ _ l => FLT_RES_INFO_W2_CHK l, .ro, false⟩]⟩,
  ⟨0x40067F0C, 1, 1, 4, false, true,
    [⟨fun _ _ l => FLT_RES_INFO_W3_POISONED l, .ro, false⟩]⟩]

/-- The registers of RFM. -/
def regsRFM : List RegRow := [
  ⟨0x40070000, 1, 1, 4, false, false,
    [⟨fun _ _ _ => RFM_CTRL_RUNST_B, .ro, true⟩,
     ⟨fun _ _ _ => RFM_CTRL_EN_B, .rw, false⟩,
     ⟨fun _ _ _ => RFM_CTRL_RUNST_A, .ro, true⟩,
     ⟨fun _ _ _ => RFM_CTRL_EN_A, .rw, false⟩]⟩,
  ⟨0x40070004, 1, 1, 4, false, false,
    [⟨fun _ _ _ => RFM_STATUS_FCEXH, .w1c, true⟩,
     ⟨fun _ _ _ => RFM_STATUS_FCHALF, .w1c, true⟩,
     ⟨fun _ _ _ => RFM_STATUS_DLFAIL, .w1c, true⟩,
     ⟨fun _ _ _ => RFM_STATUS_DLQFULL, .w1c, true⟩,
     ⟨fun _ _ _ => RFM_STATUS_NBRCHG, .w1c, true⟩,
     ⟨fun _ _ _ => RFM_STATUS_LOST, .w1c, true⟩,
     ⟨fun _ _ _ => RFM_STATUS_ADRIFT, .w1c, true⟩,
     ⟨fun _ _ _ => RFM_STATUS_EVDROP, .w1c, true⟩,
     ⟨fun _ _ _ => RFM_STATUS_BADORIG, .w1c, true⟩,
     ⟨fun _ _ _ => RFM_STATUS_REPLAY, .w1c, true⟩,
     ⟨fun _ _ _ => RFM_STATUS_SECFAIL, .w1c, true⟩,
     ⟨fun _ _ _ => RFM_STATUS_MAPERR_B, .w1c, true⟩,
     ⟨fun _ _ _ => RFM_STATUS_MAPERR_A, .w1c, true⟩,
     ⟨fun _ _ _ => RFM_STATUS_CNTWRAP, .w1c, true⟩,
     ⟨fun _ _ _ => RFM_STATUS_CFGREJ, .w1c, true⟩]⟩,
  ⟨0x40070008, 1, 1, 4, false, false,
    [⟨fun _ _ _ => RFM_IRQ_EN_EN, .rw, false⟩]⟩,
  ⟨0x40070010, 1, 1, 4, false, false,
    [⟨fun _ _ _ => RFM_RFA_CFG_CH, .rw, false⟩,
     ⟨fun _ _ _ => RFM_RFA_CFG_SFOFS, .rw, false⟩,
     ⟨fun _ _ _ => RFM_RFA_CFG_TXPWR, .rw, false⟩,
     ⟨fun _ _ _ => RFM_RFA_CFG_RATE, .rw, false⟩]⟩,
  ⟨0x40070014, 1, 1, 4, false, false,
    [⟨fun _ _ _ => RFM_RFB_CFG_CH, .rw, false⟩,
     ⟨fun _ _ _ => RFM_RFB_CFG_SFOFS, .rw, false⟩,
     ⟨fun _ _ _ => RFM_RFB_CFG_TXPWR, .rw, false⟩,
     ⟨fun _ _ _ => RFM_RFB_CFG_RATE, .rw, false⟩]⟩,
  ⟨0x40070018, 1, 1, 4, false, false,
    [⟨fun _ _ _ => RFM_RFA_CHLIST_CHLIST, .rw, false⟩]⟩,
  ⟨0x4007001C, 1, 1, 4, false, false,
    [⟨fun _ _ _ => RFM_RFB_CHLIST_CHLIST, .rw, false⟩]⟩,
  ⟨0x40070020, 1, 1, 4, false, false,
    [⟨fun _ _ _ => RFM_LINK_DARN_MAX, .rw, false⟩,
     ⟨fun _ _ _ => RFM_LINK_HOLD, .rw, false⟩,
     ⟨fun _ _ _ => RFM_LINK_TOL, .rw, false⟩]⟩,
  ⟨0x40070024, 1, 1, 4, false, false,
    [⟨fun _ _ _ => RFM_WAKE_WSFN, .rw, false⟩,
     ⟨fun _ _ _ => RFM_WAKE_WL_NEXT, .rw, false⟩,
     ⟨fun _ _ _ => RFM_WAKE_WL, .ro, true⟩]⟩,
  ⟨0x40070028, 1, 1, 4, false, false,
    [⟨fun _ _ _ => RFM_SEC_KSLOTB, .rw, false⟩,
     ⟨fun _ _ _ => RFM_SEC_KSLOT1, .rw, false⟩,
     ⟨fun _ _ _ => RFM_SEC_KSLOT0, .rw, false⟩,
     ⟨fun _ _ _ => RFM_SEC_TXKEY, .rw, false⟩]⟩,
  ⟨0x4007002C, 1, 1, 4, false, false,
    [⟨fun _ _ _ => RFM_FC_FC, .ro, true⟩]⟩,
  ⟨0x40070030, 2, 1, 8, false, false,
    [⟨fun _ _ _ => RFM_SFN_SFN, .ro, true⟩]⟩,
  ⟨0x40070040, 1, 1, 4, false, false,
    [⟨fun _ _ _ => RFM_RX_A_COUNT, .ro, true⟩]⟩,
  ⟨0x40070044, 1, 1, 4, false, false,
    [⟨fun _ _ _ => RFM_RX_B_COUNT, .ro, true⟩]⟩,
  ⟨0x40070048, 1, 1, 4, false, false,
    [⟨fun _ _ _ => RFM_TX_A_COUNT, .ro, true⟩]⟩,
  ⟨0x4007004C, 1, 1, 4, false, false,
    [⟨fun _ _ _ => RFM_TX_B_COUNT, .ro, true⟩]⟩,
  ⟨0x40070050, 1, 1, 4, false, false,
    [⟨fun _ _ _ => RFM_DROP_COUNT, .ro, true⟩]⟩,
  ⟨0x40070054, 1, 1, 4, false, false,
    [⟨fun _ _ _ => RFM_DLFAIL_CNT_COUNT, .ro, true⟩]⟩,
  ⟨0x40070100, 27, 1, 108, false, false,
    [⟨fun _ _ _ => RFM_TXBUF_PAYLOAD, .wo, false⟩]⟩,
  ⟨0x40070170, 1, 1, 4, false, false,
    [⟨fun _ _ _ => RFM_TXCMD_HANDLE, .wo, false⟩,
     ⟨fun _ _ _ => RFM_TXCMD_DST, .wo, false⟩,
     ⟨fun _ _ _ => RFM_TXCMD_LEN, .wo, false⟩]⟩,
  ⟨0x40070174, 1, 1, 4, false, false,
    [⟨fun _ _ _ => RFM_DLQ_STAT_USED_B, .ro, true⟩,
     ⟨fun _ _ _ => RFM_DLQ_STAT_USED_A, .ro, true⟩]⟩,
  ⟨0x40070200, 1, 16, 4, false, false,
    [⟨fun _ n _ => RFM_MAP_A_CODE n, .rw, false⟩]⟩,
  ⟨0x40070240, 1, 16, 4, false, false,
    [⟨fun _ n _ => RFM_MAP_B_CODE n, .rw, false⟩]⟩,
  ⟨0x40070300, 1, 8, 8, false, false,
    [⟨fun _ n _ => RFM_NBR_W0_EN n, .rw, false⟩,
     ⟨fun _ n _ => RFM_NBR_W0_RADIO n, .rw, false⟩,
     ⟨fun _ n _ => RFM_NBR_W0_SEG n, .rw, false⟩,
     ⟨fun _ n _ => RFM_NBR_W0_CH n, .rw, false⟩,
     ⟨fun _ n _ => RFM_NBR_W0_LSLOT n, .rw, false⟩]⟩,
  ⟨0x40070304, 1, 8, 8, false, false,
    [⟨fun _ n _ => RFM_NBR_W1_PRESENT n, .ro, true⟩,
     ⟨fun _ n _ => RFM_NBR_W1_MISSES n, .ro, true⟩]⟩,
  ⟨0x40078000, 1, 2048, 16, false, false,
    [⟨fun _ n _ => RFM_LTAB_W0_EN n, .rw, false⟩,
     ⟨fun _ n _ => RFM_LTAB_W0_SLEEPY n, .rw, false⟩,
     ⟨fun _ n _ => RFM_LTAB_W0_RELAYED n, .rw, false⟩,
     ⟨fun _ n _ => RFM_LTAB_W0_RELAY n, .rw, false⟩,
     ⟨fun _ n _ => RFM_LTAB_W0_CELL n, .rw, false⟩,
     ⟨fun _ n _ => RFM_LTAB_W0_RCELL n, .rw, false⟩,
     ⟨fun _ n _ => RFM_LTAB_W0_RP n, .rw, false⟩,
     ⟨fun _ n _ => RFM_LTAB_W0_PH n, .rw, false⟩]⟩,
  ⟨0x40078004, 1, 2048, 16, false, false,
    [⟨fun _ n _ => RFM_LTAB_W1_PARENT n, .rw, false⟩,
     ⟨fun _ n _ => RFM_LTAB_W1_FCKEY n, .ro, true⟩]⟩,
  ⟨0x40078008, 1, 2048, 16, false, false,
    [⟨fun _ n _ => RFM_LTAB_W2_FC n, .ro, true⟩]⟩,
  ⟨0x4007800C, 1, 2048, 16, false, false,
    [⟨fun _ n _ => RFM_LTAB_W3_STATE n, .ro, true⟩,
     ⟨fun _ n _ => RFM_LTAB_W3_MISS n, .ro, true⟩,
     ⟨fun _ n _ => RFM_LTAB_W3_DARNF n, .ro, true⟩,
     ⟨fun _ n _ => RFM_LTAB_W3_RSSI n, .ro, true⟩,
     ⟨fun _ n _ => RFM_LTAB_W3_SYNC n, .ro, true⟩]⟩]

/-- The registers of PLM. -/
def regsPLM : List RegRow := [
  ⟨0x40080000, 1, 1, 4, false, false,
    [⟨fun _ _ _ => PLM_CTRL_RUNST_R, .ro, true⟩,
     ⟨fun _ _ _ => PLM_CTRL_REFL_EN, .rw, false⟩,
     ⟨fun _ _ _ => PLM_CTRL_RUNST, .ro, true⟩,
     ⟨fun _ _ _ => PLM_CTRL_EN, .rw, false⟩]⟩,
  ⟨0x40080004, 1, 1, 4, false, false,
    [⟨fun _ _ _ => PLM_STATUS_MAPERR, .w1c, true⟩,
     ⟨fun _ _ _ => PLM_STATUS_RABORT, .w1c, true⟩,
     ⟨fun _ _ _ => PLM_STATUS_BASEUNST, .w1c, true⟩,
     ⟨fun _ _ _ => PLM_STATUS_BASEDONE, .w1c, true⟩,
     ⟨fun _ _ _ => PLM_STATUS_STARTREJ, .w1c, true⟩,
     ⟨fun _ _ _ => PLM_STATUS_RUNDONE, .w1c, true⟩,
     ⟨fun _ _ _ => PLM_STATUS_FCEXH, .w1c, true⟩,
     ⟨fun _ _ _ => PLM_STATUS_FCHALF, .w1c, true⟩,
     ⟨fun _ _ _ => PLM_STATUS_FOREIGN, .w1c, true⟩,
     ⟨fun _ _ _ => PLM_STATUS_SILENT, .w1c, true⟩,
     ⟨fun _ _ _ => PLM_STATUS_DLFAIL, .w1c, true⟩,
     ⟨fun _ _ _ => PLM_STATUS_DLQFULL, .w1c, true⟩,
     ⟨fun _ _ _ => PLM_STATUS_EVDROP, .w1c, true⟩,
     ⟨fun _ _ _ => PLM_STATUS_REPLAY, .w1c, true⟩,
     ⟨fun _ _ _ => PLM_STATUS_SECFAIL, .w1c, true⟩,
     ⟨fun _ _ _ => PLM_STATUS_KEYERR, .w1c, true⟩,
     ⟨fun _ _ _ => PLM_STATUS_CNTWRAP, .w1c, true⟩,
     ⟨fun _ _ _ => PLM_STATUS_CFGREJ, .w1c, true⟩]⟩,
  ⟨0x40080008, 1, 1, 4, false, false,
    [⟨fun _ _ _ => PLM_IRQ_EN_EN, .rw, false⟩]⟩,
  ⟨0x40080010, 1, 1, 4, false, false,
    [⟨fun _ _ _ => PLM_CFG_TPATH, .rw, false⟩,
     ⟨fun _ _ _ => PLM_CFG_CELLOFS, .rw, false⟩,
     ⟨fun _ _ _ => PLM_CFG_TXATT, .rw, false⟩,
     ⟨fun _ _ _ => PLM_CFG_MOD, .rw, false⟩]⟩,
  ⟨0x40080014, 1, 1, 4, false, false,
    [⟨fun _ _ _ => PLM_LAT_TXLAT, .rw, false⟩,
     ⟨fun _ _ _ => PLM_LAT_RXLAT, .rw, false⟩]⟩,
  ⟨0x40080018, 1, 1, 4, false, false,
    [⟨fun _ _ _ => PLM_SEC_PKSLOT1, .rw, false⟩,
     ⟨fun _ _ _ => PLM_SEC_PKSLOT0, .rw, false⟩,
     ⟨fun _ _ _ => PLM_SEC_PTXKEY, .rw, false⟩]⟩,
  ⟨0x4008001C, 1, 1, 4, false, false,
    [⟨fun _ _ _ => PLM_FC_FC, .ro, true⟩]⟩,
  ⟨0x40080020, 2, 1, 8, false, false,
    [⟨fun _ _ _ => PLM_PCN_PCN, .ro, true⟩]⟩,
  ⟨0x40080030, 1, 1, 4, false, false,
    [⟨fun _ _ _ => PLM_RX_COUNT, .ro, true⟩]⟩,
  ⟨0x40080034, 1, 1, 4, false, false,
    [⟨fun _ _ _ => PLM_TX_COUNT, .ro, true⟩]⟩,
  ⟨0x40080038, 1, 1, 4, false, false,
    [⟨fun _ _ _ => PLM_DROP_COUNT, .ro, true⟩]⟩,
  ⟨0x4008003C, 1, 1, 4, false, false,
    [⟨fun _ _ _ => PLM_DLFAIL_CNT_COUNT, .ro, true⟩]⟩,
  ⟨0x40080040, 1, 1, 4, false, false,
    [⟨fun _ _ _ => PLM_RFL_RUNS_COUNT, .ro, true⟩]⟩,
  ⟨0x40080100, 32, 1, 128, false, false,
    [⟨fun _ _ _ => PLM_TXBUF_PAYLOAD, .wo, false⟩]⟩,
  ⟨0x40080180, 1, 1, 4, false, false,
    [⟨fun _ _ _ => PLM_TXCMD_HANDLE, .wo, false⟩,
     ⟨fun _ _ _ => PLM_TXCMD_DST, .wo, false⟩,
     ⟨fun _ _ _ => PLM_TXCMD_LEN, .wo, false⟩]⟩,
  ⟨0x40080184, 1, 1, 4, false, false,
    [⟨fun _ _ _ => PLM_DLQ_STAT_USED, .ro, true⟩]⟩,
  ⟨0x40080200, 1, 8, 4, false, false,
    [⟨fun _ n _ => PLM_MAP_CODE n, .rw, false⟩]⟩,
  ⟨0x40080400, 1, 1, 4, false, false,
    [⟨fun _ _ _ => PLM_RFL_CFG_RXG, .rw, false⟩,
     ⟨fun _ _ _ => PLM_RFL_CFG_NAVGL, .rw, false⟩,
     ⟨fun _ _ _ => PLM_RFL_CFG_COND, .rw, false⟩,
     ⟨fun _ _ _ => PLM_RFL_CFG_SPATH, .rw, false⟩,
     ⟨fun _ _ _ => PLM_RFL_CFG_TCH, .rw, false⟩]⟩,
  ⟨0x40080404, 1, 1, 4, false, false,
    [⟨fun _ _ _ => PLM_RFL_LEVEL_LEVEL, .rw, false⟩]⟩,
  ⟨0x40080408, 1, 1, 4, false, false,
    [⟨fun _ _ _ => PLM_RFL_DET_SHORTK, .rw, false⟩,
     ⟨fun _ _ _ => PLM_RFL_DET_NOISEK, .rw, false⟩,
     ⟨fun _ _ _ => PLM_RFL_DET_THR, .rw, false⟩]⟩,
  ⟨0x40080410, 1, 1, 4, false, false,
    [⟨fun _ _ _ => PLM_RFL_ZERO_ZERO, .rw, false⟩]⟩,
  ⟨0x40080420, 1, 1, 4, false, false,
    [⟨fun _ _ _ => PLM_RFL_CMD_SLOT, .wo, false⟩,
     ⟨fun _ _ _ => PLM_RFL_CMD_OP, .wo, false⟩]⟩,
  ⟨0x40080428, 2, 1, 8, false, false,
    [⟨fun _ _ _ => PLM_RFL_TSTART_T10, .rw, false⟩]⟩,
  ⟨0x40080430, 1, 1, 4, false, false,
    [⟨fun _ _ _ => PLM_RFL_STAT_SHOTS, .ro, true⟩,
     ⟨fun _ _ _ => PLM_RFL_STAT_PHASE, .ro, true⟩]⟩,
  ⟨0x40080440, 1, 4, 4, false, false,
    [⟨fun _ n _ => PLM_RFL_SECT_VF n, .rw, false⟩,
     ⟨fun _ n _ => PLM_RFL_SECT_END n, .rw, false⟩]⟩,
  ⟨0x40080460, 1, 8, 4, false, false,
    [⟨fun _ n _ => PLM_RFL_BDIR_VALID n, .ro, true⟩,
     ⟨fun _ n _ => PLM_RFL_BDIR_PATH n, .ro, true⟩,
     ⟨fun _ n _ => PLM_RFL_BDIR_COND n, .ro, true⟩,
     ⟨fun _ n _ => PLM_RFL_BDIR_TCH n, .ro, true⟩,
     ⟨fun _ n _ => PLM_RFL_BDIR_RXG n, .ro, true⟩,
     ⟨fun _ n _ => PLM_RFL_BDIR_LEVEL n, .ro, true⟩]⟩,
  ⟨0x40088000, 1, 2048, 16, false, false,
    [⟨fun _ n _ => PLM_LTAB_W0_EN n, .rw, false⟩,
     ⟨fun _ n _ => PLM_LTAB_W0_CELL n, .rw, false⟩,
     ⟨fun _ n _ => PLM_LTAB_W0_PRP n, .rw, false⟩,
     ⟨fun _ n _ => PLM_LTAB_W0_PPH n, .rw, false⟩]⟩,
  ⟨0x40088004, 1, 2048, 16, false, false,
    [⟨fun _ n _ => PLM_LTAB_W1_FCKEY n, .ro, true⟩,
     ⟨fun _ n _ => PLM_LTAB_W1_DLY n, .rw, false⟩]⟩,
  ⟨0x40088008, 1, 2048, 16, false, false,
    [⟨fun _ n _ => PLM_LTAB_W2_FC n, .ro, true⟩]⟩,
  ⟨0x4008800C, 1, 2048, 16, false, false,
    [⟨fun _ n _ => PLM_LTAB_W3_MISS n, .ro, true⟩,
     ⟨fun _ n _ => PLM_LTAB_W3_PRES n, .ro, true⟩,
     ⟨fun _ n _ => PLM_LTAB_W3_SNR n, .ro, true⟩,
     ⟨fun _ n _ => PLM_LTAB_W3_DLYM n, .ro, true⟩]⟩]

/-- The registers of BHM. -/
def regsBHM : List RegRow := [
  ⟨0x40090000, 1, 1, 4, true, false,
    [⟨fun p _ _ => BHM_CTRL_ADDFRAG p, .rw, false⟩,
     ⟨fun p _ _ => BHM_CTRL_VERIFY_DIS p, .rw, false⟩,
     ⟨fun p _ _ => BHM_CTRL_PREEMPT p, .rw, false⟩,
     ⟨fun p _ _ => BHM_CTRL_RING p, .rw, false⟩,
     ⟨fun p _ _ => BHM_CTRL_ANEG p, .rw, false⟩,
     ⟨fun p _ _ => BHM_CTRL_PVERIFIED p, .ro, true⟩,
     ⟨fun p _ _ => BHM_CTRL_SGSPD p, .ro, true⟩,
     ⟨fun p _ _ => BHM_CTRL_MODE p, .rw, false⟩,
     ⟨fun p _ _ => BHM_CTRL_LINK p, .ro, true⟩,
     ⟨fun p _ _ => BHM_CTRL_RUNST p, .ro, true⟩,
     ⟨fun p _ _ => BHM_CTRL_EN p, .rw, false⟩]⟩,
  ⟨0x40090004, 1, 1, 4, true, false,
    [⟨fun p _ _ => BHM_STATUS_DRWRAP p, .w1c, true⟩,
     ⟨fun p _ _ => BHM_STATUS_DRWAKE p, .w1c, true⟩,
     ⟨fun p _ _ => BHM_STATUS_DRREJ p, .w1c, true⟩,
     ⟨fun p _ _ => BHM_STATUS_VERIFYFAIL p, .w1c, true⟩,
     ⟨fun p _ _ => BHM_STATUS_LINKCHG p, .w1c, true⟩,
     ⟨fun p _ _ => BHM_STATUS_STATHALF p, .w1c, true⟩,
     ⟨fun p _ _ => BHM_STATUS_PAUSEOVR p, .w1c, true⟩,
     ⟨fun p _ _ => BHM_STATUS_SVCRST p, .w1c, true⟩,
     ⟨fun p _ _ => BHM_STATUS_TXDONE p, .w1c, true⟩,
     ⟨fun p _ _ => BHM_STATUS_SRXNEW p, .w1c, true⟩,
     ⟨fun p _ _ => BHM_STATUS_SRXFULL p, .w1c, true⟩,
     ⟨fun p _ _ => BHM_STATUS_RXOVF p, .w1c, true⟩,
     ⟨fun p _ _ => BHM_STATUS_FWDDROP p, .w1c, true⟩,
     ⟨fun p _ _ => BHM_STATUS_STOMP p, .w1c, true⟩,
     ⟨fun p _ _ => BHM_STATUS_MODEERR p, .w1c, true⟩,
     ⟨fun p _ _ => BHM_STATUS_TXERR p, .w1c, true⟩,
     ⟨fun p _ _ => BHM_STATUS_CFGREJ p, .w1c, true⟩]⟩,
  ⟨0x40090008, 1, 1, 4, true, false,
    [⟨fun p _ _ => BHM_IRQ_EN_EN p, .rw, false⟩]⟩,
  ⟨0x40090010, 2, 1, 8, true, false,
    [⟨fun p _ _ => BHM_MAC_ADDR p, .rw, false⟩]⟩,
  ⟨0x40090018, 1, 1, 4, true, false,
    [⟨fun p _ _ => BHM_RXCFG_DEFACT p, .rw, false⟩,
     ⟨fun p _ _ => BHM_RXCFG_MAXRX p, .rw, false⟩]⟩,
  ⟨0x4009001C, 1, 1, 4, true, false,
    [⟨fun p _ _ => BHM_TCCFG_PWD p, .rw, false⟩,
     ⟨fun p _ _ => BHM_TCCFG_VERIFY_MS p, .rw, false⟩,
     ⟨fun p _ _ => BHM_TCCFG_FPMAP p, .rw, false⟩,
     ⟨fun p _ _ => BHM_TCCFG_PAUSE_EN p, .rw, false⟩,
     ⟨fun p _ _ => BHM_TCCFG_PFC_EN p, .rw, false⟩,
     ⟨fun p _ _ => BHM_TCCFG_UNTAG_TC p, .rw, false⟩]⟩,
  ⟨0x40090020, 1, 8, 4, true, false,
    [⟨fun p n _ => BHM_RULE_EN p n, .rw, false⟩,
     ⟨fun p n _ => BHM_RULE_ACT p n, .rw, false⟩,
     ⟨fun p n _ => BHM_RULE_TYPE p n, .rw, false⟩,
     ⟨fun p n _ => BHM_RULE_VALUE p n, .rw, false⟩]⟩,
  ⟨0x40090040, 2, 8, 8, true, false,
    [⟨fun p n _ => BHM_MCAST_EN p n, .rw, false⟩,
     ⟨fun p n _ => BHM_MCAST_ADDR p n, .rw, false⟩]⟩,
  ⟨0x40090080, 1, 1, 4, true, false,
    [⟨fun p _ _ => BHM_TX_BASE_BASE p, .rw, false⟩]⟩,
  ⟨0x40090084, 1, 1, 4, true, false,
    [⟨fun p _ _ => BHM_TX_SIZE_VALUE p, .rw, false⟩]⟩,
  ⟨0x40090088, 1, 1, 4, true, false,
    [⟨fun p _ _ => BHM_TX_TAIL_VALUE p, .rw, false⟩]⟩,
  ⟨0x4009008C, 1, 1, 4, true, false,
    [⟨fun p _ _ => BHM_TX_HEAD_VALUE p, .ro, true⟩]⟩,
  ⟨0x40090090, 1, 1, 4, true, false,
    [⟨fun p _ _ => BHM_SRX_BASE_BASE p, .rw, false⟩]⟩,
  ⟨0x40090094, 1, 1, 4, true, false,
    [⟨fun p _ _ => BHM_SRX_SIZE_VALUE p, .rw, false⟩]⟩,
  ⟨0x40090098, 1, 1, 4, true, false,
    [⟨fun p _ _ => BHM_SRX_WR_VALUE p, .ro, true⟩]⟩,
  ⟨0x4009009C, 1, 1, 4, true, false,
    [⟨fun p _ _ => BHM_SRX_RD_VALUE p, .rw, false⟩]⟩,
  ⟨0x40090800, 2, 1, 8, true, false,
    [⟨fun p _ _ => BHM_HALF_HALF p, .w1c, true⟩]⟩,
  ⟨0x40091000, 2, 48, 8, true, false,
    [⟨fun p n _ => BHM_CNT_COUNT p n, .ro, true⟩]⟩]

/-- The registers of BHM0. -/
def regsBHM0 : List RegRow := [
  ⟨0x400900A0, 1, 1, 4, false, false,
    [⟨fun _ _ _ => BHM0_HSR_FORGET, .rw, false⟩,
     ⟨fun _ _ _ => BHM0_HSR_NETID, .rw, false⟩]⟩,
  ⟨0x400900A4, 1, 1, 4, false, false,
    [⟨fun _ _ _ => BHM0_SEQ_SEQ, .ro, true⟩]⟩,
  ⟨0x400900B0, 1, 1, 4, false, false,
    [⟨fun _ _ _ => BHM0_TPL_CFG_TC, .rw, false⟩,
     ⟨fun _ _ _ => BHM0_TPL_CFG_PORTS, .rw, false⟩,
     ⟨fun _ _ _ => BHM0_TPL_CFG_IPV6, .rw, false⟩,
     ⟨fun _ _ _ => BHM0_TPL_CFG_L3OFF, .rw, false⟩,
     ⟨fun _ _ _ => BHM0_TPL_CFG_HLEN, .rw, false⟩]⟩,
  ⟨0x40090100, 16, 1, 64, false, false,
    [⟨fun _ _ _ => BHM0_TPL_HEADER, .rw, false⟩]⟩,
  ⟨0x40090200, 4, 8, 32, false, false,
    [⟨fun _ n _ => BHM0_WP_W0_MASK n, .rw, false⟩]⟩,
  ⟨0x40090210, 1, 8, 32, false, false,
    [⟨fun _ n _ => BHM0_WP_W4_EN n, .rw, false⟩,
     ⟨fun _ n _ => BHM0_WP_W4_PORTS n, .rw, false⟩,
     ⟨fun _ n _ => BHM0_WP_W4_CRC n, .rw, false⟩]⟩,
  ⟨0x40090300, 1, 1, 4, false, false,
    [⟨fun _ _ _ => BHM0_DR_CMD_KEY, .wo, false⟩,
     ⟨fun _ _ _ => BHM0_DR_CMD_ENTER, .wo, false⟩]⟩,
  ⟨0x40090308, 2, 1, 8, false, false,
    [⟨fun _ _ _ => BHM0_DR_WAKE_T_TEN, .rw, false⟩,
     ⟨fun _ _ _ => BHM0_DR_WAKE_T_T10, .rw, false⟩]⟩,
  ⟨0x40090310, 1, 1, 4, false, false,
    [⟨fun _ _ _ => BHM0_DR_STAT_STATE, .ro, true⟩,
     ⟨fun _ _ _ => BHM0_DR_STAT_CANCEL, .ro, true⟩,
     ⟨fun _ _ _ => BHM0_DR_STAT_TRIP, .ro, true⟩,
     ⟨fun _ _ _ => BHM0_DR_STAT_TIME, .ro, true⟩,
     ⟨fun _ _ _ => BHM0_DR_STAT_PATTERN, .ro, true⟩,
     ⟨fun _ _ _ => BHM0_DR_STAT_PORT, .ro, true⟩,
     ⟨fun _ _ _ => BHM0_DR_STAT_PAT, .ro, true⟩]⟩,
  ⟨0x40090314, 1, 1, 4, false, false,
    [⟨fun _ _ _ => BHM0_DR_DISC_COUNT, .ro, true⟩]⟩,
  ⟨0x40090318, 2, 1, 8, false, false,
    [⟨fun _ _ _ => BHM0_DR_KIDX_IDX, .ro, true⟩]⟩]

/-- The registers of PBM. -/
def regsPBM : List RegRow := [
  ⟨0x400B0000, 1, 1, 4, false, false,
    [⟨fun _ _ _ => PBM_CTRL_CRS, .ro, true⟩,
     ⟨fun _ _ _ => PBM_CTRL_RUNST, .ro, true⟩,
     ⟨fun _ _ _ => PBM_CTRL_EN, .rw, false⟩]⟩,
  ⟨0x400B0004, 1, 1, 4, false, false,
    [⟨fun _ _ _ => PBM_STATUS_SVCRST, .w1c, true⟩,
     ⟨fun _ _ _ => PBM_STATUS_STATHALF, .w1c, true⟩,
     ⟨fun _ _ _ => PBM_STATUS_EXCOLL, .w1c, true⟩,
     ⟨fun _ _ _ => PBM_STATUS_LATECOLL, .w1c, true⟩,
     ⟨fun _ _ _ => PBM_STATUS_TXDONE, .w1c, true⟩,
     ⟨fun _ _ _ => PBM_STATUS_RXOVF, .w1c, true⟩,
     ⟨fun _ _ _ => PBM_STATUS_UNKNOWN, .w1c, true⟩,
     ⟨fun _ _ _ => PBM_STATUS_TXERR, .w1c, true⟩,
     ⟨fun _ _ _ => PBM_STATUS_CFGREJ, .w1c, true⟩]⟩,
  ⟨0x400B0008, 1, 1, 4, false, false,
    [⟨fun _ _ _ => PBM_IRQ_EN_EN, .rw, false⟩]⟩,
  ⟨0x400B000C, 1, 1, 4, false, false,
    [⟨fun _ _ _ => PBM_RXCFG_MAXRX, .rw, false⟩]⟩,
  ⟨0x400B0010, 2, 8, 8, false, false,
    [⟨fun _ n _ => PBM_NODE_EN n, .rw, false⟩,
     ⟨fun _ n _ => PBM_NODE_ADDR n, .rw, false⟩]⟩,
  ⟨0x400B0080, 1, 1, 4, false, false,
    [⟨fun _ _ _ => PBM_TX_BASE_BASE, .rw, false⟩]⟩,
  ⟨0x400B0084, 1, 1, 4, false, false,
    [⟨fun _ _ _ => PBM_TX_SIZE_VALUE, .rw, false⟩]⟩,
  ⟨0x400B0088, 1, 1, 4, false, false,
    [⟨fun _ _ _ => PBM_TX_TAIL_VALUE, .rw, false⟩]⟩,
  ⟨0x400B008C, 1, 1, 4, false, false,
    [⟨fun _ _ _ => PBM_TX_HEAD_VALUE, .ro, true⟩]⟩,
  ⟨0x400B0800, 1, 1, 4, false, false,
    [⟨fun _ _ _ => PBM_HALF_HALF, .w1c, true⟩]⟩,
  ⟨0x400B1000, 2, 16, 8, false, false,
    [⟨fun _ n _ => PBM_CNT_COUNT n, .ro, true⟩]⟩]

/-- The registers of MTR. -/
def regsMTR : List RegRow := [
  ⟨0x400C0000, 1, 1, 4, false, false,
    [⟨fun _ _ _ => MTR_CTRL_MODE, .rw, false⟩,
     ⟨fun _ _ _ => MTR_CTRL_RUNST, .ro, true⟩,
     ⟨fun _ _ _ => MTR_CTRL_EN, .rw, false⟩]⟩,
  ⟨0x400C0004, 1, 1, 4, false, false,
    [⟨fun _ _ _ => MTR_STATUS_EVDROP, .w1c, true⟩,
     ⟨fun _ _ _ => MTR_STATUS_SF1DIS, .w1c, true⟩,
     ⟨fun _ _ _ => MTR_STATUS_TRIP_B, .w1c, true⟩,
     ⟨fun _ _ _ => MTR_STATUS_TRIP_A, .w1c, true⟩,
     ⟨fun _ _ _ => MTR_STATUS_GAINSW, .w1c, true⟩,
     ⟨fun _ _ _ => MTR_STATUS_CLIP, .w1c, true⟩,
     ⟨fun _ _ _ => MTR_STATUS_MIXED, .w1c, true⟩,
     ⟨fun _ _ _ => MTR_STATUS_VPCHG, .w1c, true⟩,
     ⟨fun _ _ _ => MTR_STATUS_ZCTO, .w1c, true⟩,
     ⟨fun _ _ _ => MTR_STATUS_ACCWRAP, .w1c, true⟩,
     ⟨fun _ _ _ => MTR_STATUS_CNTWRAP, .w1c, true⟩,
     ⟨fun _ _ _ => MTR_STATUS_CFGREJ, .w1c, true⟩]⟩,
  ⟨0x400C0008, 1, 1, 4, false, false,
    [⟨fun _ _ _ => MTR_IRQ_EN_EN, .rw, false⟩]⟩,
  ⟨0x400C0010, 1, 1, 4, false, false,
    [⟨fun _ _ _ => MTR_CFG_IST_CODE, .rw, false⟩,
     ⟨fun _ _ _ => MTR_CFG_CYCEV, .rw, false⟩,
     ⟨fun _ _ _ => MTR_CFG_REFPH, .rw, false⟩,
     ⟨fun _ _ _ => MTR_CFG_NOMF, .rw, false⟩]⟩,
  ⟨0x400C0014, 1, 1, 4, false, false,
    [⟨fun _ _ _ => MTR_ZC_VP_THR, .rw, false⟩,
     ⟨fun _ _ _ => MTR_ZC_HYST, .rw, false⟩]⟩,
  ⟨0x400C0018, 1, 1, 4, false, false,
    [⟨fun _ _ _ => MTR_COMPAT_CNT_DN, .rw, false⟩]⟩,
  ⟨0x400C0020, 1, 1, 4, false, false,
    [⟨fun _ _ _ => MTR_SCALE_V_FS, .rw, false⟩]⟩,
  ⟨0x400C0024, 1, 1, 4, false, false,
    [⟨fun _ _ _ => MTR_SCALE_I_FS, .rw, false⟩]⟩,
  ⟨0x400C0028, 1, 1, 4, false, false,
    [⟨fun _ _ _ => MTR_SCALE_N_FS, .rw, false⟩]⟩,
  ⟨0x400C0030, 1, 1, 4, false, false,
    [⟨fun _ _ _ => MTR_SF1_PATHB, .ro, true⟩,
     ⟨fun _ _ _ => MTR_SF1_PATHA, .ro, true⟩,
     ⟨fun _ _ _ => MTR_SF1_LOCKED, .ro, false⟩,
     ⟨fun _ _ _ => MTR_SF1_THR, .rwo, false⟩]⟩,
  ⟨0x400C0034, 1, 1, 4, false, false,
    [⟨fun _ _ _ => MTR_IRES_RMS, .ro, true⟩]⟩,
  ⟨0x400C0040, 1, 1, 4, false, false,
    [⟨fun _ _ _ => MTR_TO_CNT_COUNT, .ro, true⟩]⟩,
  ⟨0x400C0044, 1, 1, 4, false, false,
    [⟨fun _ _ _ => MTR_SW_CNT_COUNT, .ro, true⟩]⟩,
  ⟨0x400C0048, 1, 1, 4, false, false,
    [⟨fun _ _ _ => MTR_CLIP_CNT_COUNT, .ro, true⟩]⟩,
  ⟨0x400C0050, 1, 1, 4, false, false,
    [⟨fun _ _ _ => MTR_WRAP_WRAP, .w1c, true⟩]⟩,
  ⟨0x400C0060, 1, 3, 16, false, false,
    [⟨fun _ n _ => MTR_LIVE_W0_VRMS n, .ro, true⟩]⟩,
  ⟨0x400C0064, 1, 3, 16, false, false,
    [⟨fun _ n _ => MTR_LIVE_W1_IRMS n, .ro, true⟩]⟩,
  ⟨0x400C0068, 1, 3, 16, false, false,
    [⟨fun _ n _ => MTR_LIVE_W2_P n, .ro, true⟩]⟩,
  ⟨0x400C006C, 1, 3, 16, false, false,
    [⟨fun _ n _ => MTR_LIVE_W3_Q n, .ro, true⟩]⟩,
  ⟨0x400C0090, 1, 1, 4, false, false,
    [⟨fun _ _ _ => MTR_FREQ_FREQ, .ro, true⟩]⟩,
  ⟨0x400C0094, 1, 1, 4, false, false,
    [⟨fun _ _ _ => MTR_PHST_FREE, .ro, true⟩,
     ⟨fun _ _ _ => MTR_PHST_G16, .ro, true⟩,
     ⟨fun _ _ _ => MTR_PHST_VPRES, .ro, true⟩,
     ⟨fun _ _ _ => MTR_PHST_FVALID, .ro, true⟩]⟩,
  ⟨0x400C0100, 1, 11, 16, false, false,
    [⟨fun _ n _ => MTR_CAL_W0_GAIN n, .rw, false⟩]⟩,
  ⟨0x400C0104, 1, 11, 16, false, false,
    [⟨fun _ n _ => MTR_CAL_W1_PH n, .rw, false⟩]⟩,
  ⟨0x400C0108, 1, 11, 16, false, false,
    [⟨fun _ n _ => MTR_CAL_W2_OFS n, .rw, false⟩]⟩,
  ⟨0x400C0400, 2, 32, 8, false, false,
    [⟨fun _ n _ => MTR_ACC_COUNT n, .ro, true⟩]⟩]

/-- The registers of PST. -/
def regsPST : List RegRow := [
  ⟨0x400D0004, 1, 1, 4, false, false,
    [⟨fun _ _ _ => PST_STATUS_CNTWRAP, .w1c, true⟩,
     ⟨fun _ _ _ => PST_STATUS_UE, .w1c, true⟩,
     ⟨fun _ _ _ => PST_STATUS_CE, .w1c, true⟩,
     ⟨fun _ _ _ => PST_STATUS_ALIGN, .w1c, true⟩,
     ⟨fun _ _ _ => PST_STATUS_WPERR, .w1c, true⟩]⟩,
  ⟨0x400D0008, 1, 1, 4, false, false,
    [⟨fun _ _ _ => PST_IRQ_EN_EN, .rw, false⟩]⟩,
  ⟨0x400D000C, 1, 1, 4, false, false,
    [⟨fun _ _ _ => PST_SETSEL_TRIAL, .ro, false⟩,
     ⟨fun _ _ _ => PST_SETSEL_ACT, .ro, false⟩]⟩,
  ⟨0x400D0010, 1, 1, 4, false, false,
    [⟨fun _ _ _ => PST_WERR_ADDR, .ro, true⟩]⟩,
  ⟨0x400D0014, 1, 1, 4, false, false,
    [⟨fun _ _ _ => PST_CE_CNT_COUNT, .ro, true⟩]⟩,
  ⟨0x400D0018, 1, 1, 4, false, false,
    [⟨fun _ _ _ => PST_UE_CNT_COUNT, .ro, true⟩]⟩,
  ⟨0x400D001C, 1, 1, 4, false, false,
    [⟨fun _ _ _ => PST_WBUF_USED, .ro, true⟩]⟩,
  ⟨0x400D0020, 1, 1, 4, false, false,
    []⟩,
  ⟨0x400D0024, 1, 1, 4, false, false,
    [⟨fun _ _ _ => PST_OPSEC_COUNT, .ro, true⟩]⟩,
  ⟨0x400D0028, 1, 1, 4, false, false,
    [⟨fun _ _ _ => PST_PCYC_COUNT, .ro, false⟩]⟩,
  ⟨0x400D0030, 2, 1, 8, false, false,
    [⟨fun _ _ _ => PST_WORDS_COUNT, .ro, true⟩]⟩]

/-- The registers of EVR. -/
def regsEVR : List RegRow := [
  ⟨0x400E0000, 1, 1, 4, false, false,
    [⟨fun _ _ _ => EVR_CTRL_EN, .rw, false⟩]⟩,
  ⟨0x400E0004, 1, 1, 4, false, false,
    [⟨fun _ _ _ => EVR_STATUS_HINVAL, .w1c, true⟩,
     ⟨fun _ _ _ => EVR_STATUS_HSAT, .w1c, true⟩,
     ⟨fun _ _ _ => EVR_STATUS_RECDONE, .w1c, true⟩,
     ⟨fun _ _ _ => EVR_STATUS_SVCREJ, .w1c, true⟩,
     ⟨fun _ _ _ => EVR_STATUS_CNTWRAP, .w1c, true⟩,
     ⟨fun _ _ _ => EVR_STATUS_CFGREJ, .w1c, true⟩]⟩,
  ⟨0x400E0008, 1, 1, 4, false, false,
    [⟨fun _ _ _ => EVR_IRQ_EN_EN, .rw, false⟩]⟩,
  ⟨0x400E000C, 1, 1, 4, false, false,
    [⟨fun _ _ _ => EVR_RPER_RPER, .rw, false⟩]⟩,
  ⟨0x400E0010, 1, 1, 4, false, false,
    [⟨fun _ _ _ => EVR_HINC_HIST, .wo, false⟩,
     ⟨fun _ _ _ => EVR_HINC_BIN, .wo, false⟩,
     ⟨fun _ _ _ => EVR_HINC_INC, .wo, false⟩]⟩,
  ⟨0x400E0014, 1, 1, 4, false, false,
    [⟨fun _ _ _ => EVR_XVAL_VALUE, .wo, false⟩]⟩,
  ⟨0x400E0018, 1, 1, 4, false, false,
    [⟨fun _ _ _ => EVR_XCH_CH, .wo, false⟩]⟩,
  ⟨0x400E001C, 1, 1, 4, false, false,
    [⟨fun _ _ _ => EVR_CMD_KEY, .wo, false⟩,
     ⟨fun _ _ _ => EVR_CMD_CLRHIST, .wo, false⟩]⟩,
  ⟨0x400E0020, 2, 1, 8, false, false,
    [⟨fun _ _ _ => EVR_PIDX_IDX, .ro, true⟩]⟩,
  ⟨0x400E0028, 2, 1, 8, false, false,
    [⟨fun _ _ _ => EVR_LAST_IDX, .ro, true⟩]⟩,
  ⟨0x400E0030, 1, 1, 4, false, false,
    [⟨fun _ _ _ => EVR_REC_CNT_COUNT, .ro, true⟩]⟩]

/-- The registers of RTC. -/
def regsRTC : List RegRow := [
  ⟨0x400F0000, 1, 1, 4, false, false,
    [⟨fun _ _ _ => RTC_CTRL_DWIN, .rw, false⟩,
     ⟨fun _ _ _ => RTC_CTRL_DISC_EN, .rw, false⟩]⟩,
  ⟨0x400F0004, 1, 1, 4, false, false,
    [⟨fun _ _ _ => RTC_STATUS_OSCSTOP, .ro, true⟩,
     ⟨fun _ _ _ => RTC_STATUS_YWRAP, .w1c, true⟩,
     ⟨fun _ _ _ => RTC_STATUS_DISCRNG, .w1c, true⟩,
     ⟨fun _ _ _ => RTC_STATUS_DISCSTEP, .w1c, true⟩,
     ⟨fun _ _ _ => RTC_STATUS_HOURREJ, .w1c, true⟩,
     ⟨fun _ _ _ => RTC_STATUS_FRZTO, .w1c, true⟩,
     ⟨fun _ _ _ => RTC_STATUS_BADDATE, .w1c, true⟩,
     ⟨fun _ _ _ => RTC_STATUS_ALM1, .w1c, true⟩,
     ⟨fun _ _ _ => RTC_STATUS_ALM0, .w1c, true⟩,
     ⟨fun _ _ _ => RTC_STATUS_BKPSW, .w1c, true⟩,
     ⟨fun _ _ _ => RTC_STATUS_OSCFAIL, .w1c, true⟩,
     ⟨fun _ _ _ => RTC_STATUS_CNTWRAP, .w1c, true⟩,
     ⟨fun _ _ _ => RTC_STATUS_CMDREJ, .w1c, true⟩]⟩,
  ⟨0x400F0008, 1, 1, 4, false, false,
    [⟨fun _ _ _ => RTC_IRQ_EN_EN, .rw, false⟩]⟩,
  ⟨0x400F0010, 1, 1, 4, false, false,
    [⟨fun _ _ _ => RTC_TIME_HOUR, .ro, true⟩,
     ⟨fun _ _ _ => RTC_TIME_MIN, .ro, true⟩,
     ⟨fun _ _ _ => RTC_TIME_SEC, .ro, true⟩,
     ⟨fun _ _ _ => RTC_TIME_SUBSEC, .ro, true⟩]⟩,
  ⟨0x400F0014, 1, 1, 4, false, false,
    [⟨fun _ _ _ => RTC_DATE_WDAY, .ro, true⟩,
     ⟨fun _ _ _ => RTC_DATE_YEAR, .ro, true⟩,
     ⟨fun _ _ _ => RTC_DATE_MONTH, .ro, true⟩,
     ⟨fun _ _ _ => RTC_DATE_DAY, .ro, true⟩]⟩,
  ⟨0x400F0018, 1, 1, 4, false, false,
    [⟨fun _ _ _ => RTC_STG_TIME_HOUR, .rw, false⟩,
     ⟨fun _ _ _ => RTC_STG_TIME_MIN, .rw, false⟩,
     ⟨fun _ _ _ => RTC_STG_TIME_SEC, .rw, false⟩]⟩,
  ⟨0x400F001C, 1, 1, 4, false, false,
    [⟨fun _ _ _ => RTC_STG_DATE_YEAR, .rw, false⟩,
     ⟨fun _ _ _ => RTC_STG_DATE_MONTH, .rw, false⟩,
     ⟨fun _ _ _ => RTC_STG_DATE_DAY, .rw, false⟩]⟩,
  ⟨0x400F0020, 1, 1, 4, false, false,
    [⟨fun _ _ _ => RTC_CMD_KEY, .wo, false⟩,
     ⟨fun _ _ _ => RTC_CMD_OP, .wo, false⟩]⟩,
  ⟨0x400F0024, 1, 1, 4, false, false,
    [⟨fun _ _ _ => RTC_ZONE_ZONE, .rw, false⟩]⟩,
  ⟨0x400F0028, 1, 1, 4, false, false,
    [⟨fun _ _ _ => RTC_UTC_OFS, .rw, false⟩]⟩,
  ⟨0x400F0030, 2, 1, 8, false, false,
    [⟨fun _ _ _ => RTC_LEAP_PEND, .rw, false⟩,
     ⟨fun _ _ _ => RTC_LEAP_NEWOFS, .rw, false⟩,
     ⟨fun _ _ _ => RTC_LEAP_EFF, .rw, false⟩]⟩,
  ⟨0x400F0038, 1, 1, 4, false, false,
    [⟨fun _ _ _ => RTC_DRIFT_STEP_CNT, .ro, true⟩,
     ⟨fun _ _ _ => RTC_DRIFT_ERR, .ro, true⟩]⟩,
  ⟨0x400F003C, 1, 1, 4, false, false,
    [⟨fun _ _ _ => RTC_TRIM_TRIM, .rw, false⟩]⟩,
  ⟨0x400F0040, 1, 2, 8, false, false,
    [⟨fun _ n _ => RTC_ALM_W0_HOUR n, .rw, false⟩,
     ⟨fun _ n _ => RTC_ALM_W0_MIN n, .rw, false⟩,
     ⟨fun _ n _ => RTC_ALM_W0_SEC n, .rw, false⟩,
     ⟨fun _ n _ => RTC_ALM_W0_DAY n, .rw, false⟩]⟩,
  ⟨0x400F0044, 1, 2, 8, false, false,
    [⟨fun _ n _ => RTC_ALM_W1_EN n, .rw, false⟩,
     ⟨fun _ n _ => RTC_ALM_W1_ACT n, .rw, false⟩,
     ⟨fun _ n _ => RTC_ALM_W1_YEAR n, .rw, false⟩,
     ⟨fun _ n _ => RTC_ALM_W1_MONTH n, .rw, false⟩,
     ⟨fun _ n _ => RTC_ALM_W1_MASK n, .rw, false⟩]⟩,
  ⟨0x400F0050, 1, 1, 4, false, false,
    [⟨fun _ _ _ => RTC_PON_SRC, .ro, true⟩,
     ⟨fun _ _ _ => RTC_PON_PON, .ro, true⟩]⟩,
  ⟨0x400F0058, 1, 1, 4, false, false,
    [⟨fun _ _ _ => RTC_OFF_TIME_HOUR, .ro, true⟩,
     ⟨fun _ _ _ => RTC_OFF_TIME_MIN, .ro, true⟩,
     ⟨fun _ _ _ => RTC_OFF_TIME_SEC, .ro, true⟩,
     ⟨fun _ _ _ => RTC_OFF_TIME_SUBSEC, .ro, true⟩]⟩,
  ⟨0x400F005C, 1, 1, 4, false, false,
    [⟨fun _ _ _ => RTC_OFF_DATE_WDAY, .ro, true⟩,
     ⟨fun _ _ _ => RTC_OFF_DATE_YEAR, .ro, true⟩,
     ⟨fun _ _ _ => RTC_OFF_DATE_MONTH, .ro, true⟩,
     ⟨fun _ _ _ => RTC_OFF_DATE_DAY, .ro, true⟩]⟩,
  ⟨0x400F0080, 1, 8, 4, false, false,
    [⟨fun _ n _ => RTC_BKP_DATA n, .rw, false⟩]⟩]

/-- The registers of KSU. -/
def regsKSU : List RegRow := [
  ⟨0x40100004, 1, 1, 4, false, false,
    [⟨fun _ _ _ => KSU_STATUS_CNTWRAP, .w1c, true⟩,
     ⟨fun _ _ _ => KSU_STATUS_CTXREJ, .w1c, true⟩,
     ⟨fun _ _ _ => KSU_STATUS_DONE, .w1c, true⟩,
     ⟨fun _ _ _ => KSU_STATUS_NOROOM, .w1c, true⟩,
     ⟨fun _ _ _ => KSU_STATUS_IMPREJ, .w1c, true⟩,
     ⟨fun _ _ _ => KSU_STATUS_TOKREJ, .w1c, true⟩,
     ⟨fun _ _ _ => KSU_STATUS_POLDENY, .w1c, true⟩,
     ⟨fun _ _ _ => KSU_STATUS_ANCHORERR, .w1c, true⟩,
     ⟨fun _ _ _ => KSU_STATUS_HLPFIX, .w1c, true⟩,
     ⟨fun _ _ _ => KSU_STATUS_NOROOT, .ro, false⟩,
     ⟨fun _ _ _ => KSU_STATUS_ROOTOK, .ro, false⟩]⟩,
  ⟨0x40100008, 1, 1, 4, false, false,
    [⟨fun _ _ _ => KSU_IRQ_EN_EN, .rw, false⟩]⟩,
  ⟨0x40100010, 1, 1, 4, false, false,
    [⟨fun _ _ _ => KSU_LCS_PREV, .ro, false⟩,
     ⟨fun _ _ _ => KSU_LCS_EPOCH, .ro, false⟩,
     ⟨fun _ _ _ => KSU_LCS_STATE, .ro, false⟩]⟩,
  ⟨0x40100018, 2, 1, 8, false, false,
    [⟨fun _ _ _ => KSU_UID_UID, .ro, false⟩]⟩,
  ⟨0x40100020, 1, 1, 4, false, false,
    [⟨fun _ _ _ => KSU_CMD_KEY, .wo, false⟩,
     ⟨fun _ _ _ => KSU_CMD_OP, .wo, false⟩]⟩,
  ⟨0x40100024, 1, 1, 4, false, false,
    [⟨fun _ _ _ => KSU_CMDSTAT_BUSY, .ro, true⟩,
     ⟨fun _ _ _ => KSU_CMDSTAT_RESULT, .ro, true⟩]⟩,
  ⟨0x40100028, 1, 1, 4, false, false,
    [⟨fun _ _ _ => KSU_CLR_SLOT, .rw, false⟩]⟩,
  ⟨0x4010002C, 1, 1, 4, false, false,
    [⟨fun _ _ _ => KSU_DRV_ROOTSRC, .rw, false⟩,
     ⟨fun _ _ _ => KSU_DRV_SRC, .rw, false⟩,
     ⟨fun _ _ _ => KSU_DRV_DST, .rw, false⟩,
     ⟨fun _ _ _ => KSU_DRV_TYPE, .rw, false⟩,
     ⟨fun _ _ _ => KSU_DRV_INFOLEN, .rw, false⟩]⟩,
  ⟨0x40100030, 1, 1, 4, false, false,
    [⟨fun _ _ _ => KSU_DRV_POL_POLICY, .rw, false⟩]⟩,
  ⟨0x40100040, 8, 1, 32, false, false,
    [⟨fun _ _ _ => KSU_DRV_INFO_INFO, .wo, false⟩]⟩,
  ⟨0x40100060, 1, 1, 4, false, false,
    [⟨fun _ _ _ => KSU_DENY_CNT_COUNT, .ro, true⟩]⟩,
  ⟨0x40100100, 1, 32, 4, false, false,
    [⟨fun _ n _ => KSU_SLOT_TYPE n, .ro, true⟩,
     ⟨fun _ n _ => KSU_SLOT_ORIGIN n, .ro, true⟩,
     ⟨fun _ n _ => KSU_SLOT_LOCK n, .ro, true⟩,
     ⟨fun _ n _ => KSU_SLOT_CTX n, .ro, true⟩,
     ⟨fun _ n _ => KSU_SLOT_OPS n, .ro, true⟩]⟩,
  ⟨0x40100200, 9, 1, 36, false, false,
    [⟨fun _ _ _ => KSU_QDEV_QDEV, .ro, false⟩]⟩,
  ⟨0x40100240, 1, 1, 4, false, false,
    [⟨fun _ _ _ => KSU_PUBSEL_SLOT, .rw, false⟩]⟩,
  ⟨0x40100244, 13, 1, 52, false, false,
    [⟨fun _ _ _ => KSU_PUB_KEY, .ro, true⟩]⟩,
  ⟨0x40100400, 56, 1, 224, false, false,
    [⟨fun _ _ _ => KSU_TOKEN_TOKEN, .wo, false⟩]⟩,
  ⟨0x40100500, 58, 1, 232, false, false,
    [⟨fun _ _ _ => KSU_BLOB_BLOB, .wo, false⟩]⟩,
  ⟨0x40100800, 256, 1, 1024, false, false,
    [⟨fun _ _ _ => KSU_HLP_HLP, .wo, false⟩]⟩]

/-- The registers of CRY. -/
def regsCRY : List RegRow := [
  ⟨0x40110004, 1, 1, 4, false, false,
    [⟨fun _ _ _ => CRY_STATUS_CNTWRAP, .w1c, true⟩,
     ⟨fun _ _ _ => CRY_STATUS_QFULL, .w1c, true⟩,
     ⟨fun _ _ _ => CRY_STATUS_CTXREJ, .w1c, true⟩,
     ⟨fun _ _ _ => CRY_STATUS_POLDENY, .w1c, true⟩,
     ⟨fun _ _ _ => CRY_STATUS_FAIL, .w1c, true⟩,
     ⟨fun _ _ _ => CRY_STATUS_JOBDONE, .w1c, true⟩]⟩,
  ⟨0x40110008, 1, 1, 4, false, false,
    [⟨fun _ _ _ => CRY_IRQ_EN_EN, .rw, false⟩]⟩,
  ⟨0x40110010, 1, 1, 4, false, false,
    [⟨fun _ _ _ => CRY_JOB_ADDR, .wo, false⟩]⟩,
  ⟨0x40110014, 1, 1, 4, false, false,
    [⟨fun _ _ _ => CRY_QSTAT_BUSY, .ro, true⟩,
     ⟨fun _ _ _ => CRY_QSTAT_USED, .ro, true⟩]⟩,
  ⟨0x40110018, 1, 1, 4, false, false,
    [⟨fun _ _ _ => CRY_JOB_CNT_COUNT, .ro, true⟩]⟩,
  ⟨0x4011001C, 1, 1, 4, false, false,
    [⟨fun _ _ _ => CRY_FAIL_CNT_COUNT, .ro, true⟩]⟩]

/-- The registers of RLD. -/
def regsRLD : List RegRow := [
  ⟨0x40120004, 1, 1, 4, false, false,
    [⟨fun _ _ _ => RLD_STATUS_NOHDR, .ro, false⟩,
     ⟨fun _ _ _ => RLD_STATUS_IMGBAD, .ro, false⟩,
     ⟨fun _ _ _ => RLD_STATUS_CFGBAD, .ro, false⟩,
     ⟨fun _ _ _ => RLD_STATUS_VERDREJ, .w1c, true⟩,
     ⟨fun _ _ _ => RLD_STATUS_STCHG, .w1c, true⟩,
     ⟨fun _ _ _ => RLD_STATUS_VERIFYFAIL, .w1c, true⟩,
     ⟨fun _ _ _ => RLD_STATUS_VERIFIED, .w1c, true⟩,
     ⟨fun _ _ _ => RLD_STATUS_PGMERR, .w1c, true⟩,
     ⟨fun _ _ _ => RLD_STATUS_CMDDONE, .w1c, true⟩,
     ⟨fun _ _ _ => RLD_STATUS_CMDREJ, .w1c, true⟩]⟩,
  ⟨0x40120008, 1, 1, 4, false, false,
    [⟨fun _ _ _ => RLD_IRQ_EN_EN, .rw, false⟩]⟩,
  ⟨0x4012000C, 1, 1, 4, false, false,
    [⟨fun _ _ _ => RLD_CFG_DEFER, .rw, false⟩,
     ⟨fun _ _ _ => RLD_CFG_DEADLINE, .rw, false⟩]⟩,
  ⟨0x40120010, 1, 1, 4, false, false,
    [⟨fun _ _ _ => RLD_STATE_BUSY, .ro, true⟩,
     ⟨fun _ _ _ => RLD_STATE_CAUSE, .ro, true⟩,
     ⟨fun _ _ _ => RLD_STATE_CFGFB, .ro, true⟩,
     ⟨fun _ _ _ => RLD_STATE_CFGCUR, .ro, true⟩,
     ⟨fun _ _ _ => RLD_STATE_FBSLOT, .ro, true⟩,
     ⟨fun _ _ _ => RLD_STATE_NEWSLOT, .ro, true⟩,
     ⟨fun _ _ _ => RLD_STATE_KIND, .ro, true⟩,
     ⟨fun _ _ _ => RLD_STATE_STATE, .ro, true⟩]⟩,
  ⟨0x40120014, 1, 1, 4, false, false,
    [⟨fun _ _ _ => RLD_CMD_KEY, .wo, false⟩,
     ⟨fun _ _ _ => RLD_CMD_KIND, .wo, false⟩,
     ⟨fun _ _ _ => RLD_CMD_CSLOT, .wo, false⟩,
     ⟨fun _ _ _ => RLD_CMD_FSLOT, .wo, false⟩,
     ⟨fun _ _ _ => RLD_CMD_SLOT, .wo, false⟩,
     ⟨fun _ _ _ => RLD_CMD_OP, .wo, false⟩]⟩,
  ⟨0x40120018, 1, 1, 4, false, false,
    [⟨fun _ _ _ => RLD_ADDR_ADDR, .rw, false⟩]⟩,
  ⟨0x40120020, 2, 1, 8, false, false,
    [⟨fun _ _ _ => RLD_TACT_TACT, .rw, false⟩]⟩,
  ⟨0x40120030, 1, 1, 4, false, false,
    [⟨fun _ _ _ => RLD_VERDICT_KEY, .wo, false⟩,
     ⟨fun _ _ _ => RLD_VERDICT_PASS, .wo, false⟩,
     ⟨fun _ _ _ => RLD_VERDICT_CAUSE, .wo, false⟩]⟩,
  ⟨0x40120040, 1, 1, 4, false, false,
    [⟨fun _ _ _ => RLD_VCUR_VERSION, .ro, true⟩]⟩,
  ⟨0x40120044, 1, 1, 4, false, false,
    [⟨fun _ _ _ => RLD_VFB_VERSION, .ro, true⟩]⟩,
  ⟨0x40120048, 1, 1, 4, false, false,
    [⟨fun _ _ _ => RLD_MINVER_VERSION, .ro, true⟩]⟩,
  ⟨0x40120050, 2, 1, 8, false, false,
    [⟨fun _ _ _ => RLD_KSTART_IDX, .ro, true⟩]⟩,
  ⟨0x40120060, 1, 4, 4, false, false,
    [⟨fun _ n _ => RLD_SLOT_VERIFIED n, .ro, true⟩]⟩,
  ⟨0x40120070, 1, 4, 4, false, false,
    [⟨fun _ n _ => RLD_SLOTVER_VERSION n, .ro, true⟩]⟩,
  ⟨0x40120100, 64, 1, 256, false, false,
    [⟨fun _ _ _ => RLD_PAGE_DATA, .wo, false⟩]⟩]

/-- The registers of DMA. -/
def regsDMA : List RegRow := [
  ⟨0x40130004, 1, 1, 4, false, false,
    [⟨fun _ _ _ => DMA_STATUS_SVCRST, .w1c, true⟩,
     ⟨fun _ _ _ => DMA_STATUS_CQWAIT, .w1c, true⟩,
     ⟨fun _ _ _ => DMA_STATUS_ERR, .w1c, true⟩,
     ⟨fun _ _ _ => DMA_STATUS_CQIRQ, .w1c, true⟩,
     ⟨fun _ _ _ => DMA_STATUS_CQNEW, .w1c, true⟩,
     ⟨fun _ _ _ => DMA_STATUS_CNTWRAP, .w1c, true⟩,
     ⟨fun _ _ _ => DMA_STATUS_CTXREJ, .w1c, true⟩,
     ⟨fun _ _ _ => DMA_STATUS_CFGREJ, .w1c, true⟩]⟩,
  ⟨0x40130008, 1, 1, 4, false, false,
    [⟨fun _ _ _ => DMA_IRQ_EN_EN, .rw, false⟩]⟩,
  ⟨0x40130010, 1, 1, 4, false, false,
    [⟨fun _ _ _ => DMA_CQ_BASE_BASE, .rw, false⟩]⟩,
  ⟨0x40130014, 1, 1, 4, false, false,
    [⟨fun _ _ _ => DMA_CQ_SIZE_VALUE, .rw, false⟩]⟩,
  ⟨0x40130018, 1, 1, 4, false, false,
    [⟨fun _ _ _ => DMA_CQ_WR_VALUE, .ro, true⟩]⟩,
  ⟨0x4013001C, 1, 1, 4, false, false,
    [⟨fun _ _ _ => DMA_CQ_RD_VALUE, .rw, false⟩]⟩,
  ⟨0x40130020, 1, 1, 4, false, false,
    [⟨fun _ _ _ => DMA_DONE_CNT_COUNT, .ro, true⟩]⟩,
  ⟨0x40130024, 1, 1, 4, false, false,
    [⟨fun _ _ _ => DMA_ERR_CNT_COUNT, .ro, true⟩]⟩,
  ⟨0x40130100, 1, 16, 32, false, false,
    [⟨fun _ n _ => DMA_CH_W0_RUNST n, .ro, true⟩,
     ⟨fun _ n _ => DMA_CH_W0_EN n, .rw, false⟩]⟩,
  ⟨0x40130104, 1, 16, 32, false, false,
    [⟨fun _ n _ => DMA_CH_W1_BASE n, .rw, false⟩]⟩,
  ⟨0x40130108, 1, 16, 32, false, false,
    [⟨fun _ n _ => DMA_CH_W2_SIZE n, .rw, false⟩]⟩,
  ⟨0x4013010C, 1, 16, 32, false, false,
    [⟨fun _ n _ => DMA_CH_W3_TAIL n, .rw, false⟩]⟩,
  ⟨0x40130110, 1, 16, 32, false, false,
    [⟨fun _ n _ => DMA_CH_W4_HEAD n, .ro, true⟩]⟩,
  ⟨0x40130114, 1, 16, 32, false, false,
    [⟨fun _ n _ => DMA_CH_W5_RTO n, .rw, false⟩]⟩]

/-- The registers of DCQ. -/
def regsDCQ : List RegRow := [
  ⟨0x40140004, 1, 1, 4, false, false,
    [⟨fun _ _ _ => DCQ_STATUS_CMDREJ, .w1c, true⟩,
     ⟨fun _ _ _ => DCQ_STATUS_CFGREJ, .w1c, true⟩]⟩,
  ⟨0x40140008, 1, 1, 4, false, false,
    [⟨fun _ _ _ => DCQ_WRAP_WRAP, .w1c, true⟩]⟩,
  ⟨0x40140100, 1, 17, 16, false, false,
    [⟨fun _ n _ => DCQ_Q_W0_FLUSH n, .wo, false⟩,
     ⟨fun _ n _ => DCQ_Q_W0_DROP n, .wo, false⟩,
     ⟨fun _ n _ => DCQ_Q_W0_CMDSEL n, .rw, false⟩,
     ⟨fun _ n _ => DCQ_Q_W0_RUNST n, .ro, true⟩,
     ⟨fun _ n _ => DCQ_Q_W0_EN n, .rw, false⟩]⟩,
  ⟨0x40140104, 1, 17, 16, false, false,
    [⟨fun _ n _ => DCQ_Q_W1_USED n, .ro, true⟩]⟩,
  ⟨0x40140108, 1, 17, 16, false, false,
    [⟨fun _ n _ => DCQ_Q_W2_PERR n, .ro, true⟩]⟩,
  ⟨0x4014010C, 1, 17, 16, false, false,
    [⟨fun _ n _ => DCQ_Q_W3_DISC n, .ro, true⟩]⟩]

/-- The registers of SAF. -/
def regsSAF : List RegRow := [
  ⟨0x40150000, 1, 1, 4, false, false,
    [⟨fun _ _ _ => SAF_CTRL_SWAP_EN, .rw, false⟩,
     ⟨fun _ _ _ => SAF_CTRL_SF1T_EN, .rw, false⟩,
     ⟨fun _ _ _ => SAF_CTRL_BIST_EN, .rw, false⟩]⟩,
  ⟨0x40150004, 1, 1, 4, false, false,
    [⟨fun _ _ _ => SAF_STATUS_CFGREJ, .w1c, true⟩,
     ⟨fun _ _ _ => SAF_STATUS_RINSEUE, .w1c, true⟩,
     ⟨fun _ _ _ => SAF_STATUS_SF2OVF, .w1c, true⟩,
     ⟨fun _ _ _ => SAF_STATUS_FABPAR, .w1c, true⟩,
     ⟨fun _ _ _ => SAF_STATUS_GUARD, .w1c, true⟩,
     ⟨fun _ _ _ => SAF_STATUS_UNITFLT, .w1c, true⟩,
     ⟨fun _ _ _ => SAF_STATUS_SF1DIS, .w1c, true⟩,
     ⟨fun _ _ _ => SAF_STATUS_SF1TFAIL, .w1c, true⟩,
     ⟨fun _ _ _ => SAF_STATUS_BISTDEFER, .w1c, true⟩,
     ⟨fun _ _ _ => SAF_STATUS_BISTFAIL, .w1c, true⟩,
     ⟨fun _ _ _ => SAF_STATUS_BISTDONE, .w1c, true⟩,
     ⟨fun _ _ _ => SAF_STATUS_CNTWRAP, .w1c, true⟩,
     ⟨fun _ _ _ => SAF_STATUS_CMDREJ, .w1c, true⟩]⟩,
  ⟨0x40150008, 1, 1, 4, false, false,
    [⟨fun _ _ _ => SAF_IRQ_EN_EN, .rw, false⟩]⟩,
  ⟨0x4015000C, 1, 1, 4, false, false,
    [⟨fun _ _ _ => SAF_CMD_KEY, .wo, false⟩,
     ⟨fun _ _ _ => SAF_CMD_OP, .wo, false⟩]⟩,
  ⟨0x40150010, 1, 1, 4, false, false,
    [⟨fun _ _ _ => SAF_BIST_BLOCK_B, .ro, true⟩,
     ⟨fun _ _ _ => SAF_BIST_RES_B, .ro, true⟩,
     ⟨fun _ _ _ => SAF_BIST_RUN_B, .ro, true⟩,
     ⟨fun _ _ _ => SAF_BIST_BLOCK_A, .ro, true⟩,
     ⟨fun _ _ _ => SAF_BIST_RES_A, .ro, true⟩,
     ⟨fun _ _ _ => SAF_BIST_RUN_A, .ro, true⟩]⟩,
  ⟨0x40150014, 1, 1, 4, false, false,
    [⟨fun _ _ _ => SAF_PER_SF1PER, .rw, false⟩,
     ⟨fun _ _ _ => SAF_PER_BIST_PER, .rw, false⟩]⟩,
  ⟨0x40150018, 2, 1, 8, false, false,
    [⟨fun _ _ _ => SAF_NEXT_TS64, .ro, true⟩]⟩,
  ⟨0x40150020, 2, 1, 8, false, false,
    [⟨fun _ _ _ => SAF_LSIG_A_SIG, .ro, true⟩]⟩,
  ⟨0x40150028, 2, 1, 8, false, false,
    [⟨fun _ _ _ => SAF_LSIG_B_SIG, .ro, true⟩]⟩,
  ⟨0x40150030, 2, 1, 8, false, false,
    [⟨fun _ _ _ => SAF_MSIG_A_SIG, .ro, true⟩]⟩,
  ⟨0x40150038, 2, 1, 8, false, false,
    [⟨fun _ _ _ => SAF_MSIG_B_SIG, .ro, true⟩]⟩,
  ⟨0x40150040, 1, 1, 4, false, false,
    [⟨fun _ _ _ => SAF_SF1T_QTIME, .ro, true⟩,
     ⟨fun _ _ _ => SAF_SF1T_RUN, .ro, true⟩,
     ⟨fun _ _ _ => SAF_SF1T_RES_B, .ro, true⟩,
     ⟨fun _ _ _ => SAF_SF1T_RES_A, .ro, true⟩]⟩,
  ⟨0x40150050, 1, 1, 4, false, false,
    [⟨fun _ _ _ => SAF_SF2_LEVEL, .wo, false⟩,
     ⟨fun _ _ _ => SAF_SF2_CAUSE, .wo, false⟩,
     ⟨fun _ _ _ => SAF_SF2_LANTERN, .wo, false⟩]⟩,
  ⟨0x40150054, 1, 1, 4, false, false,
    [⟨fun _ _ _ => SAF_SF2_CFG_TC, .rw, false⟩,
     ⟨fun _ _ _ => SAF_SF2_CFG_SFPORT, .rw, false⟩]⟩,
  ⟨0x40150060, 1, 1, 4, false, false,
    [⟨fun _ _ _ => SAF_RINSE_INT, .rw, false⟩]⟩,
  ⟨0x40150064, 1, 1, 4, false, false,
    [⟨fun _ _ _ => SAF_UNITFLT_LANE, .ro, true⟩,
     ⟨fun _ _ _ => SAF_UNITFLT_UNIT, .ro, true⟩]⟩,
  ⟨0x40150068, 1, 1, 4, false, false,
    [⟨fun _ _ _ => SAF_RINSE_PASS_COUNT, .ro, true⟩]⟩,
  ⟨0x4015006C, 1, 1, 4, false, false,
    [⟨fun _ _ _ => SAF_GUARD_CNT_COUNT, .ro, true⟩]⟩,
  ⟨0x40150070, 1, 1, 4, false, false,
    [⟨fun _ _ _ => SAF_FABPAR_CNT_COUNT, .ro, true⟩]⟩,
  ⟨0x40150074, 1, 1, 4, false, false,
    [⟨fun _ _ _ => SAF_SF2_CNT_COUNT, .ro, true⟩]⟩,
  ⟨0x40150080, 1, 1, 4, false, false,
    [⟨fun _ _ _ => SAF_HB_REST, .ro, true⟩,
     ⟨fun _ _ _ => SAF_HB_LEVEL, .ro, true⟩]⟩]

/-- Where a bus address lies: the row, the port, the instance and the word of the register (R13, R15). -/
structure RegPlace where
  row : RegRow
  port : Nat
  index : Nat
  word : Nat

/-- The place of the address `a` in one row, for port `p`, if it has one. -/
def RegRow.placeAt (r : RegRow) (p a : Nat) : Option RegPlace :=
  let b := r.base + 0x10000 * p
  if a < b then none else
    let d := a - b
    let i := d / r.stride
    let w := d % r.stride / 4
    if i < r.count ∧ w < r.words then some ⟨r, p, i, w⟩ else none

/-- The place of the address `a` in one row, the second backhaul port's copy included. -/
def RegRow.place (r : RegRow) (a : Nat) : Option RegPlace :=
  match r.placeAt 0 a with
  | some q => some q
  | none => if r.port then r.placeAt 1 a else none

/-- The registers of the block whose 64 KiB region holds the address (R13). -/
def blockRegs (a : Nat) : List RegRow :=
  match a / 0x10000 % 0x4000 with
  | 0 => regsSYS | 1 => regsTB | 2 => regsCRZ | 3 => regsLSC | 4 => regsLNU | 5 => regsESC | 6 => regsFLT | 7 => regsRFM
  | 8 => regsPLM | 9 => regsBHM ++ regsBHM0 | 10 => regsBHM | 11 => regsPBM | 12 => regsMTR | 13 => regsPST | 14 => regsEVR
  | 15 => regsRTC | 16 => regsKSU | 17 => regsCRY | 18 => regsRLD | 19 => regsDMA | 20 => regsDCQ | 21 => regsSAF
  | _ => []

/-- The register that stands at a bus address of the register space; none at a reserved offset (R11). -/
def findReg (a : Nat) : Option RegPlace :=
  if a < 0x40000000 then none else (blockRegs a).findSome? (·.place a)

end Sys2Proof.Machine
end

