-- ==== Sys2Proof/Machine/State.lean ====
section
/-!
DEFINITION. The state of the module: everything spec/ gives it, as plain data. Every register field stands in `regs`, one
home for each; what is no register stands in the structure of its block. `pending` is the queue of the commands that wait.
-/
namespace Sys2Proof.Machine

/-- Why the machine would stop. No rule of spec/ stops the module as a whole, so no command raises a fault; the one reason is kept
for a model in which a command would (safe). -/
inductive Fault where
  | stopped
deriving DecidableEq, Repr

/-- Why a command has no meaning. `notModelled` is raised by an arm of `exec` whose meaning is not written (safe: the machine
stops where the module goes on). -/
inductive Refusal where
  | notModelled (mnemonic : String)
deriving DecidableEq, Repr

/-! ### Events (R63, R64) -/

/-- An event: its stamp, its source ID, its SEQ (`none` while the Sequencer has yet to rank it, R67), its KIND, its payload
(16 octets and 32 more for each continuation slot), LATE and AHEAD, and the slots (0 is the head) that hold a poisoned word. -/
structure Event where
  stamp : Time
  src : Nat
  seq : Option Nat
  kind : Nat
  payload : Octets
  late : Bool
  ahead : Bool
  bad : List Nat
deriving DecidableEq, Repr

/-- An event that waits for the intake (R76): the dual-clock queue that holds it, if one does, and how many of its words
have not been read from that queue. -/
structure Waiting where
  ev : Event
  dcq : Option Nat
  unread : Nat
deriving DecidableEq, Repr

/-! ### Time Base (R34 to R57) -/

/-- A step requested and not yet made (R37): a servo step by an amount in 2^-16 ns, or a load of TB_SET's value. -/
inductive StepRequest where
  | add (d : Int)
  | load (t : Time)
deriving DecidableEq, Repr

/-- A two-step Sync that waits for its Follow_Up (R48): its ingress stamp, its correctionField in 2^-16 ns, its sequenceId,
the TB_CLK cycles waited, and the port, the domainNumber and the sourcePortIdentity with which it came. -/
structure TwoStep where
  t2 : Time
  corr : Int
  seq : Nat
  waited : Nat
  port : Nat
  domain : Nat
  source : Octets
deriving DecidableEq, Repr

/-- A sample of the extractor as the closure summaries count it (R79): the network time in ns, |o| in 2^-16 ns, and
whether it was out of bound. -/
structure Sample where
  at' : Nat
  mag : Nat
  out : Bool
deriving DecidableEq, Repr

/-- The Time Base beyond its registers. `now` is the counter; `before` is the counter in ns in the cycle before the present
one (R69); `slew` is S in 2^-32 ns (R52); `step` is the step requested and not yet made, `fresh` that it was requested in the present
cycle (R37); `phase` counts cycles since the last snapshot boundary (R41); `inBound` and `outBound` count consecutive samples (R53);
`quiet` and `hold` count cycles since the last valid sample and since HOLDOVER began (R53, R54); `pps` is the level of PPS_OUT
(R423); `loose` is the network time in ns from which the state has not been LOCKED, `spans` the earlier such stretches of the open
Creases, and `samples` and `steps` what the closure summaries count (R56, R79); `was` is STATE in the cycle before the present one
(R79); `drift` is by how much each replica differs from the counter, in 2^-32 ns, in the order receive of ports 0 and 1, transmit of ports 0
and 1, pole bus, RF-A, RF-B, power line and Reflect (R41; none listed: nothing); `marked` is SEC at the last mark to the RTC (R41). -/
structure TimeBase where
  now : Time
  before : Nat
  slew : Int
  step : Option StepRequest
  fresh : Bool
  phase : Nat
  inBound : Nat
  outBound : Nat
  quiet : Nat
  hold : Nat
  follow : Option TwoStep
  pps : Bool
  loose : Option Nat
  spans : List (Nat × Nat)
  samples : List Sample
  steps : List Nat
  was : Nat
  drift : List Int
  marked : Nat
deriving DecidableEq, Repr

/-! ### Crease Sequencer (R61 to R84) -/

/-- The bin of a Crease not yet sealed (R62): its on-time events in order of registration. -/
structure Bin where
  k : Nat
  events : List Event
deriving DecidableEq, Repr

/-- A sealed batch not yet delivered to every lane (R74): its header (64 octets, R72), its events in delivery order, the
pool slots it holds, and the lanes it still waits for. -/
structure Batch where
  k : Nat
  header : Octets
  events : List Event
  pool : Nat
  forA : Bool
  forB : Bool
deriving DecidableEq, Repr

/-- An entry of the coverage ring (R82). -/
structure Coverage where
  k : Nat
  late : Nat
  cover : Nat
deriving DecidableEq, Repr

/-- A LATE event of the group that the next seal takes (R69, R71): the event, and the network time in ns in the cycle before its arrival. -/
structure LateEvent where
  ev : Event
  before : Nat
deriving DecidableEq, Repr

/-- The Sequencer beyond its registers: the bins, the LATE group since the previous seal, the oldest unsealed index, the
index last sealed, whether the next batch is the first, whether a step occurred since the previous batch and whether one was
discarded (R72), the stall in being (the slots needed and the network time in ns of its start), the earlier stalls of open Creases and the
remainder of CRZ_STALL_CNT (R76) with the channel whose event it stopped at, the end of a skip over more than 64 Creases (R77), the digest of the previous batch, the batches not
yet delivered, the coverage ring by k mod 512, the status buffer of 16 Time Base events (R76), whether k_last of Day Rest has been sealed (R248), and whether an ND read or an
uncorrected error already counts against the Crease whose batch comes next (R81). -/
structure Sequencer where
  bins : List Bin
  late : List LateEvent
  oldest : Nat
  lastSealed : Option Nat
  first : Bool
  stepped : Bool
  gap : Bool
  stalled : Option (Nat × Nat)
  stalls : List (Nat × Nat)
  stallRem : Nat
  stallChan : Nat
  skipTo : Nat
  dPrev : Octets
  sealed : List Batch
  cover : List (Nat × Coverage)
  tbBuf : List Event
  rest : Bool
  ndMark : Bool
  ueMark : Bool
deriving DecidableEq, Repr

/-! ### Lanes and the Lane Supervisor (R85 to R106) -/

/-- The traps a lane takes from the module's rules (R10, R14, R16, R85, R90, R95, R282) and the interrupts it takes (R24). -/
inductive Trap where
  | loadFault
  | storeFault
  | loadMisaligned
  | storeMisaligned
  | illegalInstruction
  | interrupt (source : IntSource)
deriving DecidableEq, Repr

/-- A commit buffer that is closed (R93 to R97): the Crease, its records in program order, and whether the lane was Active as it formed the digest. -/
structure SealedBuf where
  k : Nat
  records : List (Nat × Nat)
  active : Bool
deriving DecidableEq, Repr

/-- The core of a lane as far as the module's rules name it (R85): whether it runs in U mode, its PMP regions, and the reservation of a load-reserved: the offset
in lane SRAM and the width. -/
structure LaneCore where
  user : Bool
  pmp : List PmpRegion
  reserved : Option (Nat × Nat)
deriving DecidableEq, Repr

/-- A core after a reset: M mode, and 16 regions that match nothing (R32, R85, notes/assumptions/13). -/
def LaneCore.init : LaneCore := ⟨false, List.replicate 16 ⟨0, .off, false, false, false⟩, none⟩

/-- One lane beyond its registers: DET (R89), the last trap it took, the data its last read returned (the model's own), the level of mip bit 17
(R23), whether its SRAM is being refilled (R31), whether it is closed to the lane's stores (R94), its SRAM by octet offset, the commit
buffer that fills and the one held sealed (R93, R95), the Crease whose digest it is forming, the Crease it is processing with whether it
began in service (R98), the last digest it formed with the same, its write staging and its holding registers (R15), and whether its image
load has ended (R356), whether the lane has been taken out and waits for its reset (R88), whether its seal is held at step 4 (R248), and its core (R85). -/
structure LaneState where
  det : Bool
  trap : Option Trap
  data : Nat
  mip17 : Bool
  refilling : Bool
  closed : Bool
  sram : List Host.Cell
  fill : List (Nat × Nat)
  sealedBuf : Option SealedBuf
  sealing : Option Nat
  began : Option (Nat × Bool)
  formed : Option (Nat × Bool)
  staging : List (Nat × Nat)
  holding : List (Nat × Nat)
  loaded : Bool
  leaving : Bool
  held : Bool
  core : LaneCore
deriving DecidableEq, Repr

/-- A drain under way or waiting for its completion (R97): the Crease and the lane whose records were performed. -/
structure Drain where
  k : Nat
  lane : Lane
  done : Bool
deriving DecidableEq, Repr

/-- The Lane Supervisor beyond its registers: whether cold-start roles have been taken (R99), the lowest index not yet
drained, the drain in progress, the Crease for which CMP_WAIT has elapsed (R97), the last Crease compared or passed over, the elapsed time (ns) at which the Active lane formed its last digest, a swap
waiting for the next seal and a REJOIN command standing, whether the NOLANE reset is due (R101), whether delivery is held
for a state transfer (R103), and whether the first index to drain is known. -/
structure Supervisor where
  coldStart : Bool
  nextDrain : Nat
  drain : Option Drain
  cmpExpired : Option Nat
  compared : Option Nat
  formedAt : Nat
  swap : Bool
  rejoin : Bool
  noLane : Bool
  laneClocks : Bool
deriving DecidableEq, Repr

/-! ### DMA engine and dual-clock queues (R369 to R390) -/

/-- The descriptor a DMA channel has in progress (R370 to R375): its ring index, its 32 octets, its completed prefix, what was read poisoned (first address and count), its
miscompares and their first address, the statuses met so far, and the elapsed time (ns) at which it issued its last write. -/
structure DmaJob where
  index : Nat
  desc : Octets
  done : Nat
  poisonAt : Option Nat
  poisoned : Nat
  misCount : Nat
  misAddr : Option Nat
  descErr : Bool
  busErr : Bool
  timedOut : Bool
  aborted : Bool
  issued : Nat
deriving DecidableEq, Repr

/-- A completion record that waits to be written (R377): its octets without PHASE, its channel and whether the descriptor
asked for CQIRQ. -/
structure DmaRecord where
  chan : Nat
  octets : Octets
  irq : Bool
deriving DecidableEq, Repr

/-- The DMA engine beyond its registers: the descriptor in progress of each channel that has one, the records waiting, and
PHASE (R377). -/
structure DmaState where
  jobs : List (Nat × DmaJob)
  records : List DmaRecord
  phase : Bool
deriving DecidableEq, Repr

/-- The dual-clock queues beyond their registers and the packets that wait in them: those that owe their reader an ABORT word (R385). -/
structure DcqState where
  abortDue : List Nat
deriving DecidableEq, Repr

/-! ### Felter (R107 to R131) -/

/-- An entry of a Felter unit (R108, R117): the Crease, POISONED, the block of each enabled program, CHK, and whether the
lane's seal of the Crease has completed (R119). -/
structure FelterEntry where
  k : Nat
  poisoned : Nat
  blocks : List (Nat × Octets)
  chk : Nat
  sealed : Bool
deriving DecidableEq, Repr

/-- A result record built and not yet sent (R122 to R124, R129): the Crease whose COVER it carries, the reported Crease, its part,
its mask, its blocks, its send time in ns, SENDLATE, NGOT, NCOV and NMISS of a district record, and SEG, P_MS, H_MS and W as it was built. -/
structure ResultRecord where
  k : Nat
  reported : Nat
  district : Bool
  part : Nat
  mask : Nat
  blocks : Octets
  sendAt : Nat
  sendLate : Bool
  nGot : Nat
  nCov : Nat
  nMiss : Nat
  seg : Nat
  pMs : Nat
  hMs : Nat
  w : Nat
deriving DecidableEq, Repr

/-- A receipt of the collector (R126, R129): the reported Crease, the reporting segment, its COVER, and whether a record has been registered,
and on time. -/
structure Receipt where
  k : Nat
  seg : Nat
  cover : Nat
  registered : Bool
  onTime : Bool
deriving DecidableEq, Repr

/-- Felter beyond its registers: the entries of the two units, the records requested in the drain in progress (part,
district, mask), the records that wait for their send time, the collector's intake queue and its receipts. -/
structure FelterState where
  unitA : List FelterEntry
  unitB : List FelterEntry
  requests : List (Nat × Bool × Nat)
  records : List ResultRecord
  inq : List Octets
  receipts : List Receipt
deriving DecidableEq, Repr

/-! ### Launch Unit (R132 to R147) -/

/-- An action in the launch queue (R133, R135): its launch time in 10 ms units since the PTP epoch, its KIND (0 lantern, 1 group,
2 segment), its lantern or group, LEVEL, FADE, HC, ZC, TAG, PATH, ORIGIN, ASEQ, and the paths on which it is still to be sent. -/
structure Action where
  launch : Nat
  kind : Nat
  index : Nat
  level : Nat
  fade : Nat
  hc : Nat
  zc : Bool
  tag : Nat
  path : Nat
  origin : Nat
  aseq : Nat
  dueA : Bool
  dueB : Bool
  dueP : Bool
deriving DecidableEq, Repr

/-- The walker of a day slot (R137, R138): whether its windows have started, the start in ns of the first window not yet released, its position, and the
place it holds within an expanded entry. -/
structure Walker where
  started : Bool
  from' : Nat
  pos : Nat
  held : Nat
deriving DecidableEq, Repr

/-- The Launch Unit beyond its registers: the queue, the profile entries by bank × 4,096 + entry (16 octets, zeros where
unlisted), the two walkers, and the actions queued at the drain in progress (R134 step 7). -/
structure LaunchState where
  queue : List Action
  bank : List (Nat × Octets)
  day0 : Walker
  day1 : Walker
  queuedNow : Nat
deriving DecidableEq, Repr

/-! ### Escort engine (R148 to R166) -/

/-- A track that is not FREE (R156); `tlast` is TLAST in ns. -/
structure Track where
  active : Bool
  chain : Nat
  pole : Nat
  dir : Bool
  speed : Nat
  ndet : Nat
  tlast : Nat
deriving DecidableEq, Repr

/-- A lantern state (R149); the times are in 10 ms units since the PTP epoch. -/
structure LanternState where
  litFrom : Nat
  dimAt : Nat
  plan : Nat
  lit : Bool
  held : Bool
deriving DecidableEq, Repr

/-- A command of the pending list (R163): its KIND, payload, EFF in ns and its order key (TS64, SRCID, SEQ). -/
structure EscCommand where
  kind : Nat
  payload : Octets
  eff : Nat
  key : Nat × Nat × Nat
deriving DecidableEq, Repr

/-- An action an engine issues (R161); the launch time is in 10 ms units. -/
structure EscAction where
  launch : Nat
  lantern : Nat
  level : Nat
  fade : Nat
deriving DecidableEq, Repr

/-- An output entry (R152) with ESC's PATH as it was written and the figures that are counted at the drain (R166). -/
structure EscOutput where
  k : Nat
  path : Nat
  actions : List EscAction
  dropped : Nat
  chk : Nat
  nDet : Nat
  nTrk : Nat
  nLost : Nat
  nDrop : Nat
  nMerge : Nat
  sealed : Bool
deriving DecidableEq, Repr

/-- One engine (R150): its tracks by number, its lantern states by index, the chain BASE values that differ from the table's, the
inhibited chains, the chains enabled for the run (R148), the pending commands and the output entries. -/
structure EscortEngine where
  tracks : List (Nat × Track)
  lanterns : List (Nat × LanternState)
  base : List (Nat × Nat)
  inhibited : List Nat
  chains : List Nat
  pend : List EscCommand
  outs : List EscOutput
deriving DecidableEq, Repr

/-! ### Persistent store and event recorder (R281 to R299) -/

/-- The writers of the persistent store (R283): each lane, the commit drain, the DMA engine, EVR, PLM, KSU and the resident loader. The PST controller
keeps two words of its own beside them (R291). -/
inductive Writer where
  | lane (l : Lane)
  | commit
  | dma
  | evr
  | plm
  | ksu
  | rld
deriving DecidableEq, Repr

/-- A word in the write buffer (R283): who wrote it, its octet offset in the PST window, and the word. -/
structure PstWord where
  writer : Writer
  offset : Nat
  value : Nat
deriving DecidableEq, Repr

/-- The persistent store beyond its registers: the cells by octet offset in the PST window (unlisted octets read 0, notes/assumptions/4), the write buffer of at most 64 words in
order of issue, and the writer, by its place in R283's list, that the arbiter asks first for the next word (R283). -/
structure PstState where
  cells : List Host.Cell
  buffer : List PstWord
  turn : Nat
deriving DecidableEq, Repr

/-- An extreme channel of the recorder (R292): MIN and MAX as 32-bit patterns, TMIN and TMAX. -/
structure Extreme where
  min' : Nat
  max' : Nat
  tMin : Nat
  tMax : Nat
deriving DecidableEq, Repr

/-- The recorder beyond its registers (R292 to R296): the bins by 64 × histogram + bin, HCNT, the extreme channels to which a value has been
offered, the live period with its first Crease and CREASES, its flags START, HSAT and CLR, whether START is due, and the words of a closed period that are still to be
written, with its index. -/
structure EvrState where
  bins : List (Nat × Nat)
  hcnt : List (Nat × Nat)
  ext : List (Nat × Extreme)
  live : Option Nat
  k0 : Nat
  creases : Nat
  start : Bool
  hsat : Bool
  clr : Bool
  startDue : Bool
  closing : Option (Nat × List (Nat × Nat))
deriving DecidableEq, Repr

/-! ### OTP, keys and the crypto engine (R320 to R342) -/

/-- OTP (R30, R324, R326, R40, R260): the module's UID, the lifecycle log (entry i, unlisted entries unwritten), MFGH, the calibrated latencies by
3 × port + MODE as TXLAT × 65,536 + RXLAT (unlisted: the nominal values, notes/assumptions/3), and the calibration trims by channel. -/
structure OtpState where
  uid : Octets
  log : List (Nat × Nat)
  mfgh : Octets
  lat : List (Nat × Nat)
  trims : List (Nat × Nat)
deriving DecidableEq, Repr

/-- A key slot that is not empty (R332, R333). -/
structure KeySlot where
  typ : Nat
  policy : Nat
  origin : Nat
  key : Octets
deriving DecidableEq, Repr

/-- The derived-key cache (R331). -/
structure KeyCache where
  prk : Octets
  kSeal : Octets
  kAm : Octets
  dDev : Octets
deriving DecidableEq, Repr

/-- The KSU beyond its registers: the slots, the cache, K_PUF while the root is formed, the response of the PUF array while the mirror is awaited (R320, R322), whether root
recovery has been tried since the reset and waits for the mirror (R322), IMPSEQ (R339), and the state a transition that has passed its steps 1 to 5 is
to enter (R327). -/
structure KeyState where
  slots : List (Nat × KeySlot)
  cache : Option KeyCache
  kPuf : Octets
  response : List Nat
  tried : Bool
  wantMirror : Bool
  impSeq : Nat
  commit : Option Nat
deriving DecidableEq, Repr

/-- A job of the crypto engine (R340): its descriptor's address, whether it was asked for in U mode (R333), and once it runs its descriptor and the contents of its
slot (R334). -/
structure CryJob where
  addr : Nat
  user : Bool
  run : Option (Octets × Option KeySlot)
deriving DecidableEq, Repr

/-! ### Real-time clock and backup domain (R300 to R319) -/

/-- A lane's frozen shadows of the time group (R303): the two words, and which of them have been read. -/
structure Shadow where
  time : Nat
  date : Nat
  timeRead : Bool
  dateRead : Bool
deriving DecidableEq, Repr

/-- What has fallen in an RTC cycle (R307): the elapsed time (ns) of the first of it; whether a commit, a tick or mark, and a mark are among it; the level of a PON command; the
hour change that was armed before; and the fields, by their place in the list of those a tick or a mark may change, that one has changed, with their values before and after. -/
structure RtcCycle where
  at' : Nat
  commit : Bool
  tick : Bool
  mark : Bool
  pon : Option Nat
  armed : Option Bool
  undo : List (Nat × Nat × Nat)
deriving DecidableEq, Repr

/-- The backup domain beyond its registers: the prescaler, the hour change that is armed (R306), the lanes' shadows, whether the oscillator is
stopped (R314), whether the domain runs from VBAT (R315), whether it has been reset since the module last started (R30, BKP), the part of the next trim step that has
passed, in 2^-20 of a count (R313), and what has fallen in the last RTC cycle in which something fell (R307). -/
structure RtcState where
  prescaler : Nat
  armed : Option Bool
  shadowA : Option Shadow
  shadowB : Option Shadow
  stopped : Bool
  onVbat : Bool
  bkpDue : Bool
  trimAcc : Nat
  cycle : Option RtcCycle
deriving DecidableEq, Repr

/-! ### Metering (R255 to R279) -/

/-- One calibrated sample of the channels (R257 to R260): its number, the three voltages in sample units, the three currents in sixteenths of a sample
unit (R258), the neutral current and the residual current. -/
structure MeterSample where
  n : Nat
  v : List Int
  i : List Int
  neutral : Int
  residual : Int
deriving DecidableEq, Repr

/-- A phase of the metering engine (R259, R261, R262, R269, R272): whether its crossing is armed, its last valid crossing (ns), the start of its open window,
whether that start is a valid crossing, the sample at which the last window end was detected, the previous cycle's duration (ns), the
consecutive low cycles, the settling samples to come with the current before the change of gain, and what the open Crease has seen: a window with P > 0,
one with P < 0, the sums of VRMS and IRMS and their count, and P and Q of the last window. -/
structure MeterPhase where
  armed : Bool
  cross : Option Nat
  ts : Nat
  startValid : Bool
  endN : Nat
  prevT : Nat
  low : Nat
  settle : Nat
  base : Int
  pos : Bool
  neg : Bool
  vSum : Nat
  iSum : Nat
  count : Nat
  last : Option (Int × Int)
deriving DecidableEq, Repr

/-- A window that has ended and is not yet booked (R263): its phase, its instants, whether it is a free window, whether the timeout ended it, whether both its
ends are valid crossings, and the previous cycle's duration. -/
structure MeterWindow where
  phase : Nat
  ts : Nat
  te : Nat
  free : Bool
  timeout : Bool
  valid : Bool
  prevT : Nat
deriving DecidableEq, Repr

/-- The metering engine beyond its registers: the samples settled in STARTING, the number of the last sample, the recent samples (newest first), the
phases, the windows not yet booked, the residues of the accumulators in 2^-32 quanta (R266), the open Crease with NCYC, WRAPS, IRES_MAX, the sum of the IN values and
the signs of the total set (R267 to R272), the Creases in which the reference phase has been in FREE (R267), whether START is due, the angles of V2 and V3 last measured, the gain
in force at the end of the Crease before the last sample's (R272), the summaries formed and not yet registered, and for SF1 how long each driven path has driven its output in ns of
its own clock, the path whose assertion waits for the other with its time (R277), whether each path runs, path A's qualifying timer in ns, path B's last 320 samples, newest first, and
how many consecutive mean squares of them have stood above the operating point (R276). -/
structure MeterState where
  settled : Nat
  lastN : Option Nat
  hist : List MeterSample
  phases : List MeterPhase
  windows : List MeterWindow
  residues : List (Nat × Nat)
  open' : Nat
  nCyc : Nat
  wraps : Nat
  iresMax : Nat
  inSum : Nat
  tFree : List Nat
  pos : Bool
  neg : Bool
  startDue : Bool
  ang12 : Option Nat
  ang13 : Option Nat
  g16End : Nat
  due : List (Nat × Octets)
  sf1A : Option Nat
  sf1B : Option Nat
  sf1First : Option (Nat × Nat)
  sf1RunA : Bool
  sf1RunB : Bool
  sf1Timer : Nat
  sf1Hist : List Int
  sf1Count : Nat
deriving DecidableEq, Repr

/-! ### Backhaul ports and the pole bus (R222 to R252) -/

/-- What a transmission is on a backhaul port (R242): a whole frame of the express MAC, the first fragment of a preemptable frame or all of it, a further fragment, a verify
or a respond mPacket. On the other media every transmission is whole. -/
inductive MPacket where
  | whole
  | first
  | further
  | verify
  | respond
deriving DecidableEq, Repr

/-- What has left the module (the model's own record): the medium (0 and 1 the backhaul ports, 2 the pole bus, 3 and 4 RF-A and RF-B, 5 the
power line), the network time in ns, the octets, on the media 0 to 2 its FCS or mCRC as sent (0 elsewhere), what it is, and on the radios and the power line the
channel and the power (0 elsewhere). -/
structure Transmission where
  medium : Nat
  at' : Nat
  octets : Octets
  check : Nat
  part : MPacket
  channel : Nat
  power : Nat
deriving DecidableEq, Repr

/-- A frame that waits to be forwarded out of a port (R233, R236): its octets, its ingress stamp, the port it came from, whether it is to end with an inverted FCS, and
how many of its words the dual-clock queue still holds (R22). -/
structure Forward where
  octets : Octets
  stamp : Time
  from' : Nat
  bad : Bool
  unread : Nat
deriving DecidableEq, Repr

/-- What waits to be sent as frames (R237 to R241): its traffic class, the port and ring index of its descriptor (`none` for a frame that FLT or SAF queued), the
descriptor or the frame, the segment to send, the ports that have still to send it, its sequence number in HSR and PRP, whether an insertion failed, whether some port has
sent it whole, and whether one has ended it with an inverted FCS. -/
structure TxItem where
  tc : Nat
  owner : Option (Nat × Nat)
  desc : Octets
  seg : Nat
  due0 : Bool
  due1 : Bool
  seq : Option Nat
  nofix : Bool
  out : Bool
  abort : Bool
deriving DecidableEq, Repr

/-- A pause of a traffic class (R243): when it began without a break and when it ends, in ns of elapsed time. -/
structure Pause where
  from' : Nat
  until' : Nat
deriving DecidableEq, Repr

/-- A backhaul port beyond its registers: the verify mPackets sent, whether one waits for its answer and the elapsed time (ns) of the last (R242), the pauses by traffic class and
until when a class ignores them (R243), whether the port passes no frames because of its mode (R230), the classes in which a forwarded frame went last and that have
not been idle since, as bits (R241), and the frames that wait to be forwarded out of it. -/
structure PortState where
  verifies : Nat
  verifying : Bool
  verifyAt : Nat
  pauses : List (Nat × Pause)
  ignore : List (Nat × Nat)
  mismatch : Bool
  turns : Nat
  fwd : List Forward
deriving DecidableEq, Repr

/-- A window of the duplicate table (R234): H and the map of H − 63 to H, bit i for H − i. -/
structure DupWindow where
  high : Nat
  map : Nat
deriving DecidableEq, Repr

/-- An entry of the duplicate table (R234): the windows for acceptance and for forwarding out of each port, and when it was last used (ns elapsed). -/
structure DupEntry where
  accept : Option DupWindow
  out0 : Option DupWindow
  out1 : Option DupWindow
  used : Nat
deriving DecidableEq, Repr

/-- The pole bus port (R251): the descriptors fetched, the collisions of the frame in hand, the backoff in being (slot times, start), whether the frame in hand has deferred to
carrier, and the elapsed time (ns) until which the inter-frame gap lasts. -/
structure PoleBus where
  items : List TxItem
  tries : Nat
  backoff : Option (Nat × Nat)
  deferred : Bool
  gapUntil : Nat
deriving DecidableEq, Repr

/-- A descriptor that waits to be written back (R237): its ring (0, 1 the ports, 2 the pole bus), its index, the result, the frames sent, and IRQ. -/
structure WriteBack where
  ring : Nat
  index : Nat
  result : Nat
  frames : Nat
  irq : Bool
deriving DecidableEq, Repr

/-- The ring ports beyond their registers: the two ports, what waits to be sent, the duplicate table by source address, the descriptors to be written back, the
pole bus, and the TB_CLK cycle in which Day Rest last ended (R249). -/
structure Backhaul where
  port0 : PortState
  port1 : PortState
  items : List TxItem
  dup : List (Nat × DupEntry)
  backs : List WriteBack
  pole : PoleBus
  woke : Option Nat
deriving DecidableEq, Repr

/-! ### Lantern radio link (R167 to R192) -/

/-- A downlink frame (R182): its target, its payload, its HANDLE (0xFF an assignment), the superframe or PLC cycle in which it was queued, the attempts
made and the sequence number it was last sent with. -/
structure Downlink where
  dst : Nat
  payload : Octets
  handle : Nat
  queued : Int
  tries : Nat
  seq : Nat
deriving DecidableEq, Repr

/-- A unicast frame that has been sent and waits for its acknowledgement (R177, R201): the frame as it was sent, the network time in ns up to which the acknowledgement is
accepted, and the end of its cell. -/
structure Await where
  frame : Downlink
  until' : Nat
  cellEnd : Nat
deriving DecidableEq, Repr

/-- A Darn call (R186): the window, the lantern, the superframe, and whether the lantern has made contact in the window. -/
structure DarnCall where
  window : Nat
  lantern : Nat
  sf : Int
  contact : Bool
deriving DecidableEq, Repr

/-- A radio beyond its registers: the downlink queue, the frames of it that wait for an Imm-Ack (R177), the map of the previous run and MAPVER (R172), the
lantern last called and the calls of the superframe (R186), the superframe of the last BEACON cell, the next MAC sequence number, the absent neighbour entries whose
slots act as BUNDLE in this superframe (R189), and the network time in ns since which the radio has been RUNNING (R183). -/
structure RadioState where
  queue : List Downlink
  awaiting : List Await
  lastMap : Option (List Nat)
  mapVer : Nat
  called : Nat
  calls : List DarnCall
  beaconed : Option Int
  seq : Nat
  released : Nat
  since : Nat
deriving DecidableEq, Repr

/-- What is known of a lantern beyond its table entry (R183 to R185): the superframe of C_n, the report superframes whose expected contact has been met of late, the last
expected contact judged, and whether an assignment is due at its first contact. -/
structure LanternLink where
  sync : Option Int
  met : List Int
  judged : Option Int
  assign : Bool
deriving DecidableEq, Repr

/-- The radio MAC beyond its registers: the two radios, the lanterns, the table words still in force where a write waits for the superframe start (R192), the
TXKEY in force, the superframe at which WL_NEXT is to apply with the setting before it (R183), and the superframes in which each neighbour entry was last heard and last
judged (R189). -/
structure RfmState where
  rfA : RadioState
  rfB : RadioState
  links : List (Nat × LanternLink)
  inForce : List (Nat × Nat)
  txKey : Nat
  wakeAt : Option Nat
  wlOld : Nat
  wlFrom : Nat
  heard : List (Nat × Int)
  nbrJudged : List (Nat × Int)
deriving DecidableEq, Repr

/-! ### Power-line modem and Reflect (R193 to R221) -/

/-- What is known of a lantern on the feeder beyond its table entry (R205): the report cycles whose contact has been met of late, and the last report cycle
judged. -/
structure PlcLink where
  met : List Int
  judged : Option Int
deriving DecidableEq, Repr

/-- The PLC traffic function beyond its registers: the downlink queue, the pending assignments with the attempts made of each (R206), the frames that wait for
their ACK with whether each is an assignment (R201), the map of the previous run and MAPVER (R198), the next sequence number, the table words still in force where a write
waits for the cycle start (R221), the PTXKEY in force, the
lanterns, and the last PLC cycle whose start has been acted on. -/
structure PlmState where
  queue : List Downlink
  assigns : List (Nat × Nat)
  wait : List (Await × Bool)
  lastMap : Option (List Nat)
  mapVer : Nat
  seq : Nat
  inForce : List (Nat × Nat)
  txKey : Nat
  links : List (Nat × PlcLink)
  timed : Option Int
deriving DecidableEq, Repr

/-- A Reflect run or baseline capture that is armed or in progress (R211 to R217): which of the two, the baseline slot, TSTART in ns, RUNID, the repeats made, the captures of
the noise phase, and the accumulated shots, of a baseline in its two halves. -/
structure ReflectRun where
  baseline : Bool
  slot : Nat
  start : Nat
  runId : Nat
  repeats : Nat
  noise : List (List Int)
  accA : List Int
  accB : List Int
deriving DecidableEq, Repr

/-- Reflect beyond its registers: the run, the quiet window last opened with whether it still holds (R212), and what a stable capture has still to write to PST:
the head of its record and the words (R217). -/
structure ReflectState where
  run : Option ReflectRun
  quiet : Option (Nat × Nat)
  quietOn : Bool
  head : Octets
  store : List (Nat × Nat)
deriving DecidableEq, Repr

/-! ### Resident loader, safety and the module's resets (R345 to R409, R417 to R424) -/

/-- An ACM operation in progress (R358): whether it is an erase, its offset, and the page of a program. -/
structure AcmOp where
  erase : Bool
  addr : Nat
  page : Octets
deriving DecidableEq, Repr

/-- Where an update stands beyond its STATE (R363 to R366): nothing, a swap commanded at TACT, Lane B's seal awaited after a PASS, Lane B's join awaited after a
PASS, a restore in progress, Lane B's split join awaited after ACTOUT, and its first seal awaited. -/
inductive UpdateStep where
  | none
  | swapping
  | sealB
  | joinB
  | restoring
  | splitB
  | firstSealB
deriving DecidableEq, Repr

/-- What the boot header in force says (R346, R347): QMODE, QCLK and DUMMY, by which the ACM is read from then on, the verifying and the decrypting slot, and ACMSIZE. -/
structure BootHeader where
  qMode : Nat
  qClk : Nat
  dummy : Nat
  vSlot : Nat
  dSlot : Nat
  acmSize : Nat
deriving DecidableEq, Repr

/-- The resident loader beyond its registers (R347, R358, R360 to R366): the boot header in force, whether the boot ROM has run since the reset, the ACM operation in
progress, the SEQ, TACT and DEADLINE of the update record, the CFG slot that a schedule names, and where the update stands. -/
structure LoaderState where
  header : Option BootHeader
  booted : Bool
  op : Option AcmOp
  seq : Nat
  tact : Nat
  deadline : Nat
  newCfg : Nat
  step : UpdateStep
deriving DecidableEq, Repr

/-- A BIST that is ordered or runs (R404, R405): its lane and its origin (0 cold start, 1 periodic, 2 command). -/
structure BistRun where
  lane : Lane
  origin : Nat
deriving DecidableEq, Repr

/-- An SF1 proof test in progress (R401): the path (0 A, 1 B), and whether it is FULL. -/
structure ProofTest where
  path : Nat
  full : Bool
deriving DecidableEq, Repr

/-- The safety block beyond its registers (R393, R401 to R407): the level of HEARTBEAT, whether a drain has completed since the reset, the network second of the last
inversion in REST, SFSEQ, the SF2 words of the drain in progress, the BIST that runs, the BIST commanded for the next seal, whether a periodic start is due, the lane last
tested, the elapsed times (ns) of the last periodic start of BIST and of DETECT on path A, when DETECT on path B is due, the proof test that runs, until
when the disagreement check is suspended, and the word that Rinse reads next. -/
structure SafState where
  level : Bool
  drained : Bool
  restSecond : Option Nat
  sfSeq : Nat
  sf2 : List Nat
  bist : Option BistRun
  ordered : Option Lane
  due : Bool
  lastLane : Option Lane
  lastBist : Nat
  lastTest : Nat
  dueB : Option Nat
  test : Option ProofTest
  quietUntil : Nat
  rinseAt : Nat
deriving DecidableEq, Repr

/-- What caused a reset that is held off while OTP is programmed (R421): RST_N, SYS_RESET_CTRL, the Lane Supervisor, or the loader or KSU. -/
inductive ResetCause where
  | pin
  | soft
  | noLane
  | other
deriving DecidableEq, Repr

/-- The module's resets and clocks (R30, R399, R417, R421, R424): whether the power-on reset is asserted, whether RST_N holds a pin reset, whether EXTEST holds one, a reset held
off by OTP programming, the TAP's instruction, and whether the 25 MHz reference has stopped. -/
structure ModuleState where
  por : Bool
  rstLow : Bool
  extest : Bool
  heldOff : Option ResetCause
  tap : TapInstr
  oscStop : Bool
deriving DecidableEq, Repr

/-- The state of the module. `regs` lists the register fields that differ from their reset value, by `Field` key; `waiting` the
events that wait for the intake; `cry` the jobs queued; `acm` the attached memory by octet offset, each octet as its complement, so that an erased octet is not listed
(notes/assumptions/4), and `acmSize` its size; `held` the events of RLD and SAF
that wait for the Sequencer to start (R367, R404); `sent` the frames that have left the module and `cycles` the TB_CLK cycles ever
counted (both the model's own); `freeCount` counts the free values consumed (the
model's own field). -/
structure State where
  pending : List Instr
  regs : List (Nat × Nat)
  waiting : List Waiting
  tb : TimeBase
  crz : Sequencer
  laneA : LaneState
  laneB : LaneState
  lsc : Supervisor
  flt : FelterState
  lnu : LaunchState
  escA : EscortEngine
  escB : EscortEngine
  dma : DmaState
  dcq : DcqState
  pst : PstState
  evr : EvrState
  otp : OtpState
  ksu : KeyState
  cry : List CryJob
  acm : List Host.Cell
  acmSize : Nat
  rtc : RtcState
  mtr : MeterState
  bh : Backhaul
  rfm : RfmState
  plm : PlmState
  rfl : ReflectState
  rld : LoaderState
  saf : SafState
  sys : ModuleState
  held : List Event
  sent : List Transmission
  cycles : Nat
  freeCount : Nat
deriving DecidableEq, Repr

/-! ### Reset -/

/-- The module right after its power-on reset is asserted (R30): every register at the reset value of its table, both lanes OFF, every queue empty,
memory with nothing listed; the reset values that no rule states are those of notes/assumptions/3 and notes/assumptions/4. -/
def State.reset : State where
  pending := []
  regs := []
  waiting := []
  tb := ⟨Time.zero, 0, 0, none, false, 0, 0, 0, 0, 0, none, false, some 0, [], [], [], 0, [], 0⟩
  crz := ⟨[], [], 0, none, true, false, false, none, [], 0, 0, 0, [], [], [], [], false, false, false⟩
  laneA := ⟨false, none, 0, false, false, false, [], [], none, none, none, none, [], [], false, false, false, .init⟩
  laneB := ⟨false, none, 0, false, false, false, [], [], none, none, none, none, [], [], false, false, false, .init⟩
  lsc := ⟨true, 0, none, none, none, 0, false, false, false, true⟩
  flt := ⟨[], [], [], [], [], []⟩
  lnu := ⟨[], [], ⟨false, 0, 0, 0⟩, ⟨false, 0, 0, 0⟩, 0⟩
  escA := ⟨[], [], [], [], [], [], []⟩
  escB := ⟨[], [], [], [], [], [], []⟩
  dma := ⟨[], [], true⟩
  dcq := ⟨[]⟩
  pst := ⟨[], [], 0⟩
  evr := ⟨[], [], [], none, 0, 0, false, false, false, false, none⟩
  otp := ⟨List.replicate 8 0#8, [], List.replicate 48 0#8, [], []⟩
  ksu := ⟨[], none, [], [], false, false, 0, none⟩
  cry := []
  acm := []
  acmSize := 0x2000000
  rtc := ⟨0, none, none, none, false, false, false, 0, none⟩
  mtr := ⟨0, none, [], List.replicate 3 ⟨false, none, 0, false, 0, 0, 0, 0, 0, false, false, 0, 0, 0, none⟩, [], [], 0, 0, 0, 0, 0, [], false, false,
    false, none, none, 0, [], none, none, none, false, false, 0, [], 0⟩
  bh := ⟨⟨0, false, 0, [], [], false, 0, []⟩, ⟨0, false, 0, [], [], false, 0, []⟩, [], [], [], ⟨[], 0, none, false, 0⟩, none⟩
  rfm := ⟨⟨[], [], none, 0, 0, [], none, 0, 0, 0⟩, ⟨[], [], none, 0, 0, [], none, 0, 0, 0⟩, [], [], 0, none, 0, 0, [], []⟩
  plm := ⟨[], [], [], none, 0, 0, [], 0, [], none⟩
  rfl := ⟨none, none, false, [], []⟩
  rld := ⟨none, false, none, 0, 0, 0, 0, .none⟩
  saf := ⟨false, false, none, 0, [], none, none, false, none, 0, 0, none, none, 0, 0⟩
  sys := ⟨true, false, false, none, .idcode, false⟩
  held := []
  sent := []
  cycles := 0
  freeCount := 0

end Sys2Proof.Machine
end

