-- ==== Sys2Proof/Machine/Ops.lean ====
section
/-!
DEFINITION. The named operations over registers, memories, lanes, network time and the events that wait for the Sequencer:
every meaning reads and writes the state through these.
-/
namespace Sys2Proof.Machine

open Host (Cell)

/-! ### Registers (R9) -/

/-- Where a field stands in the register store. -/
def Field.key (f : Field) : Nat := f.reg * 1024 + f.lo

/-- The value a field holds: the one listed, or its reset value, of its width. -/
def State.rd (s : State) (f : Field) : Nat := (kvFind s.regs f.key).getD f.reset % 2 ^ f.width

/-- A field that holds something but zero. -/
def State.on (s : State) (f : Field) : Bool := s.rd f != 0

/-- The signed value of a field. -/
def State.rdI (s : State) (f : Field) : Int := signed f.width (s.rd f)

/-- A field given a value, cut to its width; a field at its reset value is not listed. -/
def State.wr (s : State) (f : Field) (v : Nat) : State :=
  { s with regs := if v % 2 ^ f.width = f.reset then kvErase s.regs f.key else kvSet s.regs f.key (v % 2 ^ f.width) }

/-- A flag set. -/
def State.raise (s : State) (f : Field) : State := s.wr f 1

/-- A flag set where the condition holds. -/
def State.raiseIf (s : State) (b : Bool) (f : Field) : State := if b then s.raise f else s

/-- A signed value written into a field. -/
def State.wrI (s : State) (f : Field) (v : Int) : State := s.wr f (unsigned f.width v)

/-! ### Octet memories -/

/-- The octet at an address of a memory whose unlisted octets read 0. -/
def memGet (m : List Cell) (a : Nat) : Byte := (kvFind m a).getD (octet 0)

/-- An octet of such a memory written; an octet that is 0 is not listed. -/
def memSet (m : List Cell) (a : Nat) (b : Byte) : List Cell := if b = octet 0 then kvErase m a else kvSet m a b

/-- `n` octets from an address upward. -/
def memRead (m : List Cell) : Nat → Nat → Octets
  | _, 0 => []
  | a, n + 1 => memGet m a :: memRead m (a + 1) n

/-- Octets written from an address upward. -/
def memWrite (m : List Cell) : Nat → Octets → List Cell
  | _, [] => m
  | a, b :: bs => memWrite (memSet m a b) (a + 1) bs

/-- The canonical form of a memory: addresses strictly rising and no octet listed that is 0. -/
def Memory.wf : List Cell → Bool
  | [] => true
  | [(_, b)] => b != octet 0
  | (a, b) :: (a', b') :: t => b != octet 0 && a < a' && Memory.wf ((a', b') :: t)

/-! ### Lanes (R85, R99) -/

/-- The state of a lane. -/
def State.lane (s : State) : Lane → LaneState
  | .A => s.laneA
  | .B => s.laneB

/-- The state of a lane replaced. -/
def State.setLane (s : State) (l : Lane) (x : LaneState) : State :=
  match l with
  | .A => { s with laneA := x }
  | .B => { s with laneB := x }

/-- A change of one lane's state. -/
def State.onLane (s : State) (l : Lane) (f : LaneState → LaneState) : State := s.setLane l (f (s.lane l))

/-- The register field that holds a lane's role (R106). -/
def roleField : Lane → Field
  | .A => LSC_ROLE_STATE_A
  | .B => LSC_ROLE_STATE_B

/-! The role states: 0 OFF, 1 BOOT, 2 JOINING, 3 SHADOW, 4 ACTIVE, 5 OUT, 6 BIST (R106). -/

abbrev roleOff : Nat := 0
abbrev roleBoot : Nat := 1
abbrev roleJoining : Nat := 2
abbrev roleShadow : Nat := 3
abbrev roleActive : Nat := 4
abbrev roleOut : Nat := 5
abbrev roleBist : Nat := 6

/-- The role in which a lane acts: a lane that has been taken out acts as OUT before its reset writes that state (R88). -/
def State.role (s : State) (l : Lane) : Nat := if (s.lane l).leaving then roleOut else s.rd (roleField l)

/-- A lane in service is SHADOW or ACTIVE (R74, R99). -/
def State.inService (s : State) (l : Lane) : Bool := s.role l == roleShadow || s.role l == roleActive

/-- The lane that is ACTIVE, if one is. -/
def State.activeLane (s : State) : Option Lane :=
  if s.role .A = roleActive then some .A else if s.role .B = roleActive then some .B else none

/-- Whether BLOCK holds a lane in BOOT (R404, R406). -/
def State.blocked (s : State) : Lane → Bool
  | .A => s.on SAF_BIST_BLOCK_A
  | .B => s.on SAF_BIST_BLOCK_B

/-- The lane that is to become ACTIVE at the cold start (R17): Lane A, or Lane B if PREF_B is 1, or the only lane without BLOCK. -/
def State.coldLane (s : State) : Lane :=
  let p := if s.on LSC_CTRL_PREF_B then Lane.B else Lane.A
  if s.blocked p && !s.blocked p.other then p.other else p

/-- The lane that acts as the Active lane (R17): the ACTIVE one, or before the cold-start roles are taken the one that is to
become ACTIVE. -/
def State.actsActive (s : State) (l : Lane) : Bool :=
  if s.lsc.coldStart then s.coldLane == l else s.role l == roleActive

/-- The other lane than the one given, as the Shadow that a comparison waits for (R97). -/
def State.isShadow (s : State) (l : Lane) : Bool := s.role l == roleShadow

/-- A trap recorded on a lane (R10, R14, R16, R90, R95), which runs on in M mode (notes/assumptions/13). -/
def State.trapLane (s : State) (l : Lane) (t : Trap) : State :=
  s.onLane l (fun x => { x with trap := some t, core := { x.core with user := false } })

/-! ### Network time and the grid (R34, R61) -/

/-- Network time in whole ns. -/
def State.now (s : State) : Nat := nsOf s.tb.now

/-- P in ns (R61): P_STEP × 10 ms, 0 acting as 1 and values above 100 as 100 (R84). -/
def State.P (s : State) : Nat := clampN 1 100 (s.rd CRZ_GRID_P_STEP) * 10000000

/-- H in ns (R61): values below 50 act as 50 ms and above 5,000 as 5,000 ms (R84). -/
def State.H (s : State) : Nat := clampN 50 5000 (s.rd CRZ_GRID_H_MS) * 1000000

/-- The index of the Crease that holds a time in ns (R61). -/
def State.creaseOf (s : State) (ns : Nat) : Nat := ns / s.P

/-- The time in ns at which Crease `k` closes (R61). -/
def State.closeTime (s : State) (k : Nat) : Nat := (k + 1) * s.P + s.H

/-- The Sequencer runs (R78). -/
def State.crzOn (s : State) : Bool := s.on CRZ_CTRL_EN

/-- The own segment (CRZ_SEG). -/
def State.seg (s : State) : Nat := s.rd CRZ_SEG_SEG

/-! ### Events that wait for the intake (R66, R76) -/

/-- The number of continuation slots of an event (R64, EXT). -/
def Event.ext (e : Event) : Nat := (e.payload.length - 16 + 31) / 32

/-- The slots an event takes: its head and its continuation slots (R64). -/
def Event.slots (e : Event) : Nat := 1 + e.ext

/-- The channel of an event (R66). -/
def Event.chan (e : Event) : Nat := srcChan e.src

/-- A payload brought to whole slots: 16 octets and a multiple of 32 more, filled with zeros. -/
def wholeSlots (p : Octets) : Octets := padTo (16 + 32 * ceilDiv (p.length - 16) 32) p

/-- An event of the own segment whose SEQ the Sequencer is to rank (R66, R67). -/
def State.event (s : State) (chan node kind : Nat) (payload : Octets) (stamp : Time) : Event :=
  ⟨stamp, srcId s.seg node chan, none, kind, wholeSlots payload, false, false, []⟩

/-- An event that waits for the intake without passing a dual-clock queue. -/
def State.post (s : State) (e : Event) : State := { s with waiting := s.waiting ++ [Waiting.mk e none 0] }

/-- The depth of a dual-clock queue in words of 64 bits (R22). -/
def dcqDepth (n : Nat) : Nat :=
  if n < 4 then 1024 else if n < 6 then 256 else if n < 10 then 64 else if n < 12 then 256
  else if n < 14 then 512 else if n = 14 then 128 else 512

/-- The words of 64 bits that an event's packet takes: four to a slot (R63, R381). -/
def Event.words (e : Event) : Nat := 4 * e.slots

/-- The words that a forwarding queue holds, DCQ 15 towards port 1 and DCQ 16 towards port 0 (R22); no other queue carries forwarded frames. -/
def State.forwardWords (s : State) (n : Nat) : Nat :=
  if n = 15 then sumN (s.bh.port1.fwd.map (·.unread)) else if n = 16 then sumN (s.bh.port0.fwd.map (·.unread)) else 0

/-- The words that a dual-clock queue holds (R388). The queues towards the media, and that of the captures of Reflect, are filled and read within the command that sends the
frame or takes the shot, and hold none between commands (DESIGN CHOICE, notes/assumptions/59). -/
def State.dcqUsed (s : State) (n : Nat) : Nat :=
  sumN (s.waiting.map (fun w => if w.dcq = some n then w.unread else 0)) + s.forwardWords n

/-- A dual-clock queue takes words: it is enabled, and not in its shut-down (R387). -/
def State.dcqOpen (s : State) (n : Nat) : Bool := s.rd (DCQ_Q_W0_RUNST n) == 1

/-- A dual-clock queue takes `k` words: it is open and has room for them (R382, R387). -/
def State.dcqFits (s : State) (n k : Nat) : Bool := s.dcqOpen n && decide (s.dcqUsed n + k ≤ dcqDepth n)

/-- The USED field brought up to what the queue holds. -/
def State.dcqCount (s : State) (n : Nat) : State := s.wr (DCQ_Q_W1_USED n) (s.dcqUsed n)

/-- The words removed from a queue counted in DISC (R385), with its WRAP bit (R390). -/
def State.dcqDiscard (s : State) (n k : Nat) : State :=
  let v := s.rd (DCQ_Q_W3_DISC n) + k
  let s := s.wr (DCQ_Q_W3_DISC n) v
  if v < 4294967296 then s else s.wr DCQ_WRAP_WRAP (setBit (s.rd DCQ_WRAP_WRAP) n true)

/-- Everything that waits in a queue removed, counted in DISC (R385, FLUSH). -/
def State.dcqEmpty (s : State) (n : Nat) : State :=
  let k := s.dcqUsed n
  (({ s with waiting := s.waiting.filter (fun w => w.dcq != some n) }).dcqDiscard n k).dcqCount n

/-- The overflow of a queue of events by a packet of `k` words: the queue's own discard command is issued (R385, R387). -/
def State.dcqOverflow (s : State) (n k : Nat) : State :=
  let room := min k (dcqDepth n - s.dcqUsed n)
  if s.rd (DCQ_Q_W0_CMDSEL n) = 1 then s.dcqDiscard n room else (s.dcqEmpty n).dcqDiscard n room

/-- An event offered to a dual-clock queue: it waits there when the queue is enabled and has room for its words; otherwise the
writer meets an overflow. The Bool says whether it was taken. -/
def State.dcqOffer (s : State) (n : Nat) (e : Event) : State × Bool :=
  if s.dcqFits n e.words then (({ s with waiting := s.waiting ++ [Waiting.mk e (some n) e.words] }).dcqCount n, true)
  else (s.dcqOverflow n e.words, false)

/-- A word delivered with POISON counted in PERR, with its WRAP bit (R383, R390). -/
def State.dcqPoison (s : State) (n : Nat) : State :=
  let v := s.rd (DCQ_Q_W2_PERR n) + 1
  let s := s.wr (DCQ_Q_W2_PERR n) v
  if v < 4294967296 then s else s.wr DCQ_WRAP_WRAP (setBit (s.rd DCQ_WRAP_WRAP) n true)

/-- An event offered to a dual-clock queue whose block names no flag for an overflow. -/
def State.postDcq (s : State) (n : Nat) (e : Event) : State := (s.dcqOffer n e).1

/-! ### Free values -/

/-- The state that has consumed the next free value. -/
def State.freeTick (s : State) : State := { s with freeCount := s.freeCount + 1 }

/-- The next free value as a number of `w` bits (at most 64). -/
def State.freeNat (s : State) (w : Nat) : Nat := (Config.freeValue s.freeCount).toNat % 2 ^ w

/-- Nanoseconds of elapsed time: 4 for each TB_CLK cycle, whatever the steps of network time (R54). -/
def State.elapsed (s : State) : Nat := s.cycles * 4

/-- A transmission recorded. -/
def State.emit (s : State) (x : Transmission) : State := { s with sent := s.sent ++ [x] }

/-- The next free octet string of `n` octets. -/
def State.freeOctets (s : State) (n : Nat) : Octets := (List.range n).map (Config.freeOctet s.freeCount)

/-- A quotient rounded down, or up where the free rule of rounding says so and the quotient is not whole (notes/assumptions/6). -/
def rnd (num den : Nat) : Nat := num / den + (if num % den = 0 then 0 else b2n (Config.rounds num den))

/-- An integer brought into the signed format of `w` bits: itself where it fits, a free value where it does not (the spec states no
result there). -/
def State.fit (s : State) (w : Nat) (v : Int) : State × Int :=
  if -(2 ^ (w - 1) : Int) ≤ v ∧ v < (2 ^ (w - 1) : Int) then (s, v) else (s.freeTick, signed w (s.freeNat w))

end Sys2Proof.Machine
end

