-- ==== Sys2Proof/Machine/Flags.lean ====
section
/-!
DEFINITION. What a counter does at its limit (R29), what a status register's set events do (R9), and the interrupt levels a lane sees
(R23 to R25).
-/
namespace Sys2Proof.Machine

/-- A wrapping counter advanced by `n`, with the flag of its wrap (R29). -/
def State.addCount (s : State) (f : Field) (n : Nat) (wrap : Field) : State :=
  let v := s.rd f + n
  (s.wr f v).raiseIf (2 ^ f.width ≤ v) wrap

/-- A wrapping counter advanced by one (R29). -/
def State.count (s : State) (f wrap : Field) : State := s.addCount f 1 wrap

/-- A saturating counter advanced by one, with the flag of its reaching the maximum (R29). -/
def State.countSat (s : State) (f sat : Field) : State :=
  let v := s.rd f
  if v + 1 < 2 ^ f.width then (s.wr f (v + 1)).raiseIf (v + 2 == 2 ^ f.width) sat else s

/-- The larger of a peak field and a value. -/
def State.peak (s : State) (f : Field) (v : Nat) : State := if s.rd f < v then s.wr f v else s

/-- The status register, the enable mask and the first enabled bit of a block, by its number in the SYS controller (R13, R23). Source 21 is SYS itself; no rule
names a cause of it, and the model never raises it (DESIGN CHOICE, notes/assumptions/51). -/
def causeTable : List (Nat × Nat × Field) :=
  [(1, 0x40010004, TB_IRQ_EN_EN), (2, 0x4002000C, CRZ_IRQ_EN_EN), (3, 0x40030004, LSC_IRQ_EN_EN), (4, 0x40040004, LNU_IRQ_EN_EN),
   (5, 0x40050004, ESC_IRQ_EN_EN), (6, 0x40060004, FLT_IRQ_EN_EN), (7, 0x40070004, RFM_IRQ_EN_EN), (8, 0x40080004, PLM_IRQ_EN_EN),
   (9, 0x40090004, BHM_IRQ_EN_EN 0), (10, 0x400A0004, BHM_IRQ_EN_EN 1), (11, 0x400B0004, PBM_IRQ_EN_EN),
   (12, 0x400C0004, MTR_IRQ_EN_EN), (13, 0x400D0004, PST_IRQ_EN_EN), (14, 0x400E0004, EVR_IRQ_EN_EN),
   (15, 0x400F0004, RTC_IRQ_EN_EN), (16, 0x40100004, KSU_IRQ_EN_EN), (17, 0x40110004, CRY_IRQ_EN_EN),
   (18, 0x40120004, RLD_IRQ_EN_EN), (19, 0x40130004, DMA_IRQ_EN_EN), (20, 0x40150004, SAF_IRQ_EN_EN)]

/-- Whether some bit of a list of listed register fields is a set cause that the mask enables: the fields of the status register at
`status` stand in the store at `status * 1024 + bit`. -/
def anyCause (regs : List (Nat × Nat)) (status mask shift : Nat) : Bool :=
  regs.any (fun p => p.1 / 1024 == status && p.2 != 0 && shift ≤ p.1 % 1024 && bit mask (p.1 % 1024 - shift))

/-- The level of an interrupt source: set while an enabled cause of its block is set (R23). -/
def State.irqLevel (s : State) (n : Nat) : Bool :=
  match causeTable.find? (fun p => p.1 == n) with
  | some (_, status, en) => anyCause s.regs status (s.rd en) en.lo
  | none => false

/-- SYS_IRQ_PEND.PEND: bit n of the register is the level of source n (R25). -/
def State.irqPend (s : State) : Nat :=
  sumN ((List.range 21).map (fun i => if s.irqLevel (i + 1) then 2 ^ i else 0))

/-- MEIP of a lane: SYS_IRQ_PEND AND SYS_IRQ_EN is not zero (R23). -/
def State.meip (s : State) (l : Lane) : Bool :=
  (List.range 21).any (fun i => s.irqLevel (i + 1) && bit (s.rd (SYS_IRQ_EN_EN l)) i)

/-- SYS_IRQ_NEXT.ID: the lowest source that is pending and enabled, 0 if there is none (R25). -/
def State.irqNext (s : State) (l : Lane) : Nat :=
  match (List.range 21).find? (fun i => s.irqLevel (i + 1) && bit (s.rd (SYS_IRQ_EN_EN l)) i) with
  | some i => i + 1
  | none => 0

/-- Batch ready: mip bit 16 is high while EQ_RD differs from EQ_WR (R74). -/
def State.batchReady (s : State) (l : Lane) : Bool := s.rd (CRZ_EQ_RD_RD l) != s.rd (CRZ_EQ_WR_WR l)

end Sys2Proof.Machine
end

