-- ==== Sys2Proof/Machine/Hash.lean ====
section
/-!
DEFINITION. The published check and hash functions that spec/ names and whose values its rules use: SHA-256 (R73, R96), HMAC and HKDF
over it (R331, R337), SHA-384 and HMAC over it (R340), CRC-32 (R225), CRC-32C (R118, R286) and CRC-16 (R247). They are written from the published
algorithms (FIPS 180-4, RFC 2104, RFC 5869), PRESUMED, notes/assumptions/5.
-/
namespace Sys2Proof.Machine

/-! ### The SHA-2 family -/

/-- `n` words of `w` bits packed into a number, the first at the top. -/
def unpack (w : Nat) : Nat → Nat → List Nat
  | 0, _ => []
  | n + 1, v => v / 2 ^ (w * n) % 2 ^ w :: unpack w n v

/-- What tells the members of the family apart: the bits of a word, the rotations of the two sums of a round and of the two of the schedule, the shifts of the latter, and the
hash value of no block. -/
structure Sha2 where
  width : Nat
  high : List Nat
  low : List Nat
  old : List Nat
  new : List Nat
  oldShift : Nat
  newShift : Nat
  start : Nat

/-- SHA-256, and SHA-512 as SHA-384 starts it. -/
def sha2Short : Sha2 := ⟨32, [2, 13, 22], [6, 11, 25], [7, 18], [17, 19], 3, 10, 0x6a09e667bb67ae853c6ef372a54ff53a510e527f9b05688c1f83d9ab5be0cd19⟩
def sha2Long : Sha2 := ⟨64, [28, 34, 39], [14, 18, 41], [1, 8], [19, 61], 7, 6,
  0xcbbb9d5dc1059ed8629a292a367cd5079159015a3070dd17152fecd8f70e593967332667ffc00b318eb44a8768581511db0c2e0d64f98fa747b5481dbefa4fa4⟩

/-- The constants of the 80 rounds of the long members, eight to a number. -/
def sha2Table : List Nat :=
  [0x428a2f98d728ae227137449123ef65cdb5c0fbcfec4d3b2fe9b5dba58189dbbc3956c25bf348b53859f111f1b605d019923f82a4af194f9bab1c5ed5da6d8118,
   0xd807aa98a303024212835b0145706fbe243185be4ee4b28c550c7dc3d5ffb4e272be5d74f27b896f80deb1fe3b1696b19bdc06a725c71235c19bf174cf692694,
   0xe49b69c19ef14ad2efbe4786384f25e30fc19dc68b8cd5b5240ca1cc77ac9c652de92c6f592b02754a7484aa6ea6e4835cb0a9dcbd41fbd476f988da831153b5,
   0x983e5152ee66dfaba831c66d2db43210b00327c898fb213fbf597fc7beef0ee4c6e00bf33da88fc2d5a79147930aa72506ca6351e003826f142929670a0e6e70,
   0x27b70a8546d22ffc2e1b21385c26c9264d2c6dfc5ac42aed53380d139d95b3df650a73548baf63de766a0abb3c77b2a881c2c92e47edaee692722c851482353b,
   0xa2bfe8a14cf10364a81a664bbc423001c24b8b70d0f89791c76c51a30654be30d192e819d6ef5218d69906245565a910f40e35855771202a106aa07032bbd1b8,
   0x19a4c116b8d2d0c81e376c085141ab532748774cdf8eeb9934b0bcb5e19b48a8391c0cb3c5c95a634ed8aa4ae3418acb5b9cca4f7763e373682e6ff3d6b2b8a3,
   0x748f82ee5defb2fc78a5636f43172f6084c87814a1f0ab728cc702081a6439ec90befffa23631e28a4506cebde82bde9bef9a3f7b2c67915c67178f2e372532b,
   0xca273eceea26619cd186b8c721c0c207eada7dd6cde0eb1ef57d4f7fee6ed17806f067aa72176fba0a637dc5a2c898a6113f9804bef90dae1b710b35131c471b,
   0x28db77f523047d8432caab7b40c724933c9ebe0a15c9bebc431d67c49c100d4c4cc5d4becb3e42b6597f299cfc657e2a5fcb6fab3ad6faec6c44198c4a475817]

/-- The round constants: a short member takes the upper halves of the first 64. -/
def Sha2.constants (h : Sha2) : List Nat :=
  let c := sha2Table.flatMap (unpack 64 8)
  if h.width = 64 then c else (c.take 64).map (· / 2 ^ 32)

/-- The exclusive sum of a word's rotations to the right. -/
def Sha2.spin (h : Sha2) (rs : List Nat) (x : Nat) : Nat :=
  rs.foldl (fun y r => y.xor (x / 2 ^ r + x % 2 ^ r * 2 ^ (h.width - r))) 0

/-- The word that follows the last 16 of the schedule, the oldest of them first. -/
def Sha2.next (h : Sha2) (win : List Nat) : Nat :=
  let p := nth 0 win 1
  let q := nth 0 win 14
  (nth 0 win 0 + nth 0 win 9 + (h.spin h.old p).xor (p / 2 ^ h.oldShift) + (h.spin h.new q).xor (q / 2 ^ h.newShift)) % 2 ^ h.width

/-- One round: the window of the schedule moves on by a word, and the eight working words by a place. -/
def Sha2.turn (h : Sha2) (r : List Nat × List Nat) (k : Nat) : List Nat × List Nat :=
  let v := r.2
  let pick := (nth 0 v 6).xor ((nth 0 v 4).land ((nth 0 v 5).xor (nth 0 v 6)))
  let most := ((nth 0 v 0).land (nth 0 v 1)).lor ((nth 0 v 2).land ((nth 0 v 0).lor (nth 0 v 1)))
  let t := nth 0 v 7 + h.spin h.low (nth 0 v 4) + pick + k + nth 0 r.1 0
  (r.1.drop 1 ++ [h.next r.1], (t + h.spin h.high (nth 0 v 0) + most) % 2 ^ h.width :: updNth (fun x => (x + t) % 2 ^ h.width) (v.take 7) 3)

/-- A block of 16 words folded into the hash value. -/
def Sha2.fold (h : Sha2) (hv : List Nat) (blk : Octets) : List Nat :=
  let r := h.constants.foldl h.turn (unpack h.width 16 (beVal blk), hv)
  (hv.zip r.2).map (fun p => (p.1 + p.2) % 2 ^ h.width)

/-- `n` blocks of an octet string folded into the hash value. -/
def Sha2.blocks (h : Sha2) : Nat → List Nat → Octets → List Nat
  | 0, hv, _ => hv
  | n + 1, hv, bs => h.blocks n (h.fold hv (bs.take (2 * h.width))) (bs.drop (2 * h.width))

/-- The hash of an octet string: a one bit, zeros, and the length in bits in two words fill the last block. -/
def Sha2.hash (h : Sha2) (m : Octets) : Octets :=
  let b := 2 * h.width
  let tail := be (h.width / 4) (8 * m.length)
  let p := m ++ octet 128 :: zeros ((2 * b - 1 - tail.length - m.length % b) % b) ++ tail
  ((h.blocks (p.length / b) (unpack h.width 8 h.start) p).map (be (h.width / 8))).flatten

/-- SHA-256 of an octet string: 32 octets. -/
def sha256 (m : Octets) : Octets := sha2Short.hash m

/-- SHA-384 of an octet string: 48 octets. -/
def sha384 (m : Octets) : Octets := (sha2Long.hash m).take 48

/-- HMAC with SHA-256. -/
def hmac (key m : Octets) : Octets :=
  let k := padTo 64 (if 64 < key.length then sha256 key else key)
  sha256 (k.map (fun b => b ^^^ octet 0x5c) ++ sha256 (k.map (fun b => b ^^^ octet 0x36) ++ m))

/-- The blocks T(i) of HKDF-Expand. -/
def hkdfBlocks (prk info : Octets) : Nat → Nat → Octets → Octets
  | 0, _, _ => []
  | n + 1, i, t =>
    let t' := hmac prk (t ++ info ++ [octet i])
    t' ++ hkdfBlocks prk info n (i + 1) t'

/-- HKDF-Expand with SHA-256: `n` octets. -/
def hkdfExpand (prk info : Octets) (n : Nat) : Octets := (hkdfBlocks prk info (ceilDiv n 32) 1 []).take n

/-- HKDF-Extract with SHA-256. -/
def hkdfExtract (salt ikm : Octets) : Octets := hmac salt ikm

/-- HMAC with SHA-384. -/
def hmac384 (key m : Octets) : Octets :=
  let k := padTo 128 (if 128 < key.length then sha384 key else key)
  sha384 (k.map (fun b => b ^^^ octet 0x5c) ++ sha384 (k.map (fun b => b ^^^ octet 0x36) ++ m))

/-! ### Check words -/

/-- One bit of a reflected CRC. -/
def crcBit (poly c : Nat) : Nat := if c % 2 = 1 then (c / 2).xor poly else c / 2

/-- `n` bits of a reflected CRC. -/
def crcBits (poly : Nat) : Nat → Nat → Nat
  | 0, c => c
  | n + 1, c => crcBits poly n (crcBit poly c)

/-- A reflected CRC over an octet string, from the running value `c`. -/
def crcOver (poly : Nat) : Nat → Octets → Nat
  | c, [] => c
  | c, b :: bs => crcOver poly (crcBits poly 8 (c.xor b.toNat)) bs

/-- The CRC-32 of IEEE 802.3 from a running value: the frame check sequence (R225), and in mCRC the running value over the fragments so far (R242). -/
def crc32 (m : Octets) : Nat := (crcOver 0xEDB88320 0xFFFFFFFF m).xor 0xFFFFFFFF

/-- CRC-32C (Castagnoli). -/
def crc32c (m : Octets) : Nat := (crcOver 0x82F63B78 0xFFFFFFFF m).xor 0xFFFFFFFF

/-- One step of a 16-bit CRC with polynomial 0x1021, most significant bit first. -/
def crc16Bits : Nat → Nat → Nat
  | 0, c => c
  | n + 1, c => crc16Bits n (if 32768 ≤ c then (c * 2 % 65536).xor 0x1021 else c * 2)

/-- CRC-16 with polynomial 0x1021 and a start value, without reflection or final XOR (R247). -/
def crc16From : Nat → Octets → Nat
  | c, [] => c
  | c, b :: t => crc16From (crc16Bits 8 (c.xor (b.toNat * 256))) t

/-- CRC-16 from 0xFFFF (R247). -/
def crc16 (m : Octets) : Nat := crc16From 0xFFFF m

end Sys2Proof.Machine
end

