-- ==== Sys2Proof/Machine/Store.lean ====
section
/-!
DEFINITION. The persistent store and the event recorder (R281 to R299): partitions and writers, the write buffer and the cells, framed
records, the recorder's live state, the close of a period and its record.
-/
namespace Sys2Proof.Machine

/-! ### Writers and partitions (R283 to R285) -/

/-- A store of a lane in either context (R284). -/
def Writer.isLane : Writer → Bool
  | .lane _ => true
  | .commit => true
  | _ => false

/-- The writers in the order in which the arbiter asks them (R283; DESIGN CHOICE, notes/assumptions/53: the order of R283's list). -/
def pstWriters : List Writer := [.lane .A, .lane .B, .commit, .dma, .evr, .plm, .ksu, .rld]

/-- Whether a writer may write the word at an offset of the window (R284); the recorder control partition is the PST controller's own, which writes its cells itself. -/
def State.pstAllowed (s : State) (w : Writer) (o : Nat) : Bool :=
  if o < 0x300000 then w == .rld
  else if o < 0x340000 then w == .rld || (w.isLane && !s.on PST_SETSEL_ACT && !s.on PST_SETSEL_TRIAL)
  else if o < 0x380000 then w == .rld || (w.isLane && s.on PST_SETSEL_ACT && !s.on PST_SETSEL_TRIAL)
  else if o < 0x3C0000 then w == .rld || w.isLane
  else if o < 0x3D0000 then w == .commit
  else if o < 0x3D1000 then w == .ksu
  else if o < 0x3D2000 then false
  else if o < 0x3DA000 then w == .evr
  else if o < 0x3E0000 then false
  else if o < 0x3F0000 then w == .plm
  else if o < 0x400000 then false
  else if o < 0xD80000 then w == .evr
  else o < 0x1000000 && (w.isLane || w == .dma)

/-! ### The buffer and the cells (R281, R283) -/

/-- A word written into the cells, counted in PST_WORDS (R281, R298). -/
def State.pstCell (s : State) (o v : Nat) : State :=
  ({ s with pst := { s.pst with cells := memWrite s.pst.cells o (le 4 v) } }).count PST_WORDS_COUNT PST_STATUS_CNTWRAP

/-- Whether a writer has a word in the write buffer. -/
def State.pstHas (s : State) (w : Writer) : Bool := s.pst.buffer.any (fun x => x.writer == w)

/-- A word put into the write buffer where it has room (R283). -/
def State.pstEnter (s : State) (w : Writer) (o v : Nat) : State :=
  { s with pst := { s.pst with buffer := s.pst.buffer ++ [⟨w, o, v % 4294967296⟩] } }

/-- EVR and PLM offer the next word that they have still to write, where none of theirs is in the buffer and it has room (R217, R283, R293). -/
def State.pstFeedEvr (s : State) : State :=
  match s.evr.closing with
  | some (p, (o, v) :: t) =>
    if s.pst.buffer.length < 64 && !s.pstHas .evr then { s.pstEnter .evr o v with evr := { s.evr with closing := some (p, t) } } else s
  | _ => s
def State.pstFeedPlm (s : State) : State :=
  match s.rfl.store with
  | (o, v) :: t => if s.pst.buffer.length < 64 && !s.pstHas .plm then { s.pstEnter .plm o v with rfl := { s.rfl with store := t } } else s
  | [] => s

/-- The place of the writer that the arbiter serves next: from its turn on, the first that has a word in the buffer (R283). -/
def State.pstNext (s : State) : Option Nat :=
  ((List.range 8).map (fun i => (s.pst.turn + i) % 8)).find? (fun i => s.pstHas (nth .rld pstWriters i))

/-- The oldest word of a writer taken out of a buffer. -/
def takeWord (w : Writer) : List PstWord → List PstWord
  | [] => []
  | x :: t => if x.writer = w then t else x :: takeWord w t

/-- The arbiter's next word reaches the cells: the oldest of the writer whose turn it is (R283). -/
def State.pstStep (s : State) : State :=
  let s := s.pstFeedEvr.pstFeedPlm
  match s.pstNext with
  | none => s
  | some i =>
    let w := nth .rld pstWriters i
    match s.pst.buffer.find? (fun x => x.writer == w) with
    | none => s
    | some x => ({ s with pst := { s.pst with buffer := takeWord w s.pst.buffer, turn := (i + 1) % 8 } }).pstCell x.offset x.value

/-- Words reach the cells until none of a writer's is in the buffer, at most `n` of them. -/
def pstUntil (w : Writer) : Nat → State → State
  | 0, s => s
  | n + 1, s => if s.pstHas w then pstUntil w n s.pstStep else s

/-- Every word that a writer has in the buffer reaches the cells (R283): in each round of the arbiter one of them does. -/
def State.pstDrain (s : State) (w : Writer) : State := pstUntil w (8 * s.pst.buffer.length) s

/-- A word taken into the write buffer of 64 words; where it is full a word reaches the cells first (R283). -/
def State.pstPut (s : State) (w : Writer) (o v : Nat) : State := (if s.pst.buffer.length < 64 then s else s.pstStep).pstEnter w o v

/-- Words written in order by a writer that waits until they are in the cells (R283). -/
def State.pstWords (s : State) (w : Writer) (ws : List (Nat × Nat)) : State := (ws.foldl (fun s x => s.pstPut w x.1 x.2) s).pstDrain w

/-- A write refused: WPERR and its address (R285). -/
def State.pstRefuse (s : State) (o : Nat) : State := (s.raise PST_STATUS_WPERR).wr PST_WERR_ADDR (0x20000000 + o)

/-- A store refused for its width or its alignment: ALIGN and its address (R282, R298). -/
def State.pstMisaligned (s : State) (o : Nat) : State := (s.raise PST_STATUS_ALIGN).wr PST_WERR_ADDR (0x20000000 + o)

/-- A word written by a writer where R284 permits it (R285); the Bool says whether it was. -/
def State.pstWrite (s : State) (w : Writer) (o v : Nat) : State × Bool :=
  if s.pstAllowed w o then (s.pstPut w o v, true) else (s.pstRefuse o, false)

/-- The octets of the window as a reader finds them: the newest value written, in the buffer or in the cells (R283). -/
def State.pstOctets (s : State) (o n : Nat) : Octets :=
  memRead (s.pst.buffer.foldl (fun m w => memWrite m w.offset (le 4 w.value)) s.pst.cells) o n

/-- A word of the window as a reader finds it. -/
def State.pstWord (s : State) (o : Nat) : Nat := leVal (s.pstOctets o 4)

/-- A corrected error on a read (R282). -/
def State.pstCorrected (s : State) : State := (s.raise PST_STATUS_CE).count PST_CE_CNT_COUNT PST_STATUS_CNTWRAP

/-- An uncorrected error on a read (R282). -/
def State.pstUncorrected (s : State) : State := (s.raise PST_STATUS_UE).count PST_UE_CNT_COUNT PST_STATUS_CNTWRAP

/-! ### Operating seconds and power cycles (R291) -/

/-- A word of the recorder control partition advanced by one; a wrap sets CNTWRAP (R291, R298). -/
def State.pstAdvance (s : State) (o : Nat) : State :=
  let v := s.pstWord o + 1
  (s.pstCell o (v % 4294967296)).raiseIf (4294967296 ≤ v) PST_STATUS_CNTWRAP

/-- PCYC and OPSEC. -/
def State.pcyc (s : State) : Nat := s.pstWord 0x3D1000
def State.opsec (s : State) : Nat := s.pstWord 0x3D1004

/-! ### Framed records (R286, R287) -/

/-- The mark of a valid record (R286). -/
abbrev validMark : Nat := 0xA55AC33C

/-- A record with its CRC, which covers octets 0 to 55 and from 64 on, and its mark (R286). -/
def frameRecord (r : Octets) : Octets :=
  r.take 56 ++ le 4 (crc32c (r.take 56 ++ r.drop 64)) ++ le 4 validMark ++ r.drop 64

/-- The words of a record, each with its offset. -/
def recordWords : Nat → Nat → Octets → List (Nat × Nat)
  | 0, _, _ => []
  | n + 1, o, r => (o, leAt r 0 4) :: recordWords n (o + 4) (r.drop 4)

/-- The writes of a framed record at offset `o` in the order of R287; `seq` says that it is sequenced. -/
def frameWrites (o : Nat) (seq : Bool) (r : Octets) : List (Nat × Nat) :=
  let f := frameRecord r
  let ws := recordWords (f.length / 4) o f
  let skip := fun (a : Nat) => a == o + 56 || a == o + 60 || (seq && (a == o || a == o + 48))
  [(o + 60, 0)] ++ (if seq then [(o, leAt f 0 4)] else []) ++ ws.filter (fun w => !skip w.1) ++ [(o + 56, leAt f 56 4)] ++
  (if seq then [(o + 48, leAt f 48 4)] else []) ++ [(o + 60, validMark)]

/-- Whether a framed record of `n` octets at an offset is valid (R286). -/
def State.recordValid (s : State) (o n : Nat) : Bool :=
  s.pstWord (o + 60) == validMark && (let r := s.pstOctets o n; leAt r 56 4 == crc32c (r.take 56 ++ r.drop 64))

/-! ### The recorder (R292 to R296) -/

/-- RPER in ms: values below 60 s act as 60 s, above 86,400 s as 86,400 s (R299). -/
def State.rper (s : State) : Nat := clampN 60 86400 (s.rd EVR_RPER_RPER) * 1000

/-- PIDX of Crease `k` (R293). -/
def State.periodOf (s : State) (k : Nat) : Nat := k * (s.P / 1000000) / s.rper

/-- K0 of a period: its first Crease (R293). -/
def State.periodStart (s : State) (p : Nat) : Nat := ceilDiv (p * s.rper) (s.P / 1000000)

/-- An extreme channel to which no value has been offered (R293). -/
def extreme0 : Extreme := ⟨0x7FFFFFFF, 0x80000000, 0xFFFFFFFF, 0xFFFFFFFF⟩

/-- Channel `c` of the live set. -/
def EvrState.channel (e : EvrState) (c : Nat) : Extreme := (kvFind e.ext c).getD extreme0

/-- The octets of the histogram copy of period `p` (R295). -/
def EvrState.copy (e : EvrState) (p : Nat) : Octets :=
  let h := le 4 p ++ [octet 1, octet 0x11] ++ zeros 2 ++ le 8 p ++ zeros 32 ++ le 4 p ++ zeros 12
  h ++ ((List.range 2048).map (fun i => le 4 ((kvFind e.bins i).getD 0))).flatten

/-- The octets of the ring record of the live period `p` (R294). -/
def State.recorderRecord (s : State) (p : Nat) : Octets :=
  let e := s.evr
  let full := s.periodStart (p + 1) - e.k0
  let flags := b2n e.start + 2 * b2n (decide (e.creases < full)) + 4 * b2n e.hsat + 8 * b2n e.clr
  let h := le 4 p ++ [octet 1, octet 0x10] ++ le 2 flags ++ le 8 p ++ le 8 e.k0 ++ le 4 e.creases ++ le 4 s.rper ++
    le 2 (s.P / 1000000) ++ [octet (p % 2), octet 0] ++ le 4 s.opsec ++ le 4 s.pcyc ++ zeros 4 ++ le 4 p ++ zeros 12
  h ++ ((List.range 32).map (fun i => le 4 ((kvFind e.hcnt i).getD 0))).flatten ++
    ((List.range 64).map (fun c => let x := e.channel c; le 4 x.min' ++ le 4 x.max' ++ le 4 x.tMin ++ le 4 x.tMax)).flatten

/-- The offset of the ring slot of a period (R293) and of its histogram copy (R295). -/
def ringSlot (p : Nat) : Nat := 0x400000 + 1216 * (p % 8192)
def copySlot (p : Nat) : Nat := 0x3D2000 + 16384 * (p % 2)

/-- The writes of a closed period: its record, then its histogram copy (R293). -/
def State.closeWrites (s : State) (p : Nat) : List (Nat × Nat) :=
  frameWrites (ringSlot p) true (s.recorderRecord p) ++ frameWrites (copySlot p) true (s.evr.copy p)

/-- The writes of a closed period all made (R293): RECDONE, EVR_LAST and EVR_REC_CNT. -/
def State.recorderDone (s : State) : State :=
  match s.evr.closing with
  | none => s
  | some (p, ws) =>
    let s := ({ s with evr := { s.evr with closing := none } }).pstWords .evr ws
    ((s.raise EVR_STATUS_RECDONE).wr EVR_LAST_IDX p).count EVR_REC_CNT_COUNT EVR_STATUS_CNTWRAP

/-- The recorder at the start of the drain of Crease `k` (R293): a new period closes the live one and starts; CREASES counts. -/
def State.recorderOpen (s : State) (k : Nat) : State :=
  if !s.on EVR_CTRL_EN then s
  else
    let p := s.periodOf k
    let s :=
      if s.evr.live = some p then s
      else
        let s := match s.evr.live with
          | some q => let s := s.recorderDone
            { s with evr := { s.evr with closing := some (q, s.closeWrites q) } }
          | none => s
        let s := { s with evr := { s.evr with
            hcnt := [], ext := [], live := some p, k0 := s.periodStart p, creases := 0, start := s.evr.startDue, hsat := false, clr := false,
            startDue := false } }
        s.wr EVR_PIDX_IDX p
    { s with evr := { s.evr with creases := s.evr.creases + 1 } }

/-- The recorder at the write of CRZ_CTRL.EN = 1 with EVR_CTRL.EN at 1 (R296): the bins of the valid copy with the higher PIDX, or none
with HINVAL. -/
def State.recorderStart (s : State) : State :=
  if !s.on EVR_CTRL_EN then s
  else
    let pid := fun (h : Nat) => leVal (s.pstOctets (copySlot h + 8) 8)
    let a := s.recordValid (copySlot 0) 8256
    let b := s.recordValid (copySlot 1) 8256
    let from' : Option Nat := if a && b then some (if pid 0 < pid 1 then 1 else 0) else if a then some 0 else if b then some 1 else none
    let bins := match from' with
      | none => []
      | some h => ((List.range 2048).map (fun i => (i, s.pstWord (copySlot h + 64 + 4 * i)))).filter (fun p => p.2 != 0)
    let s := { s with evr := { s.evr with
        bins := bins, hcnt := [], ext := [], live := none, k0 := 0, creases := 0, start := false, hsat := false, clr := false,
        startDue := true } }
    s.raiseIf from'.isNone EVR_STATUS_HINVAL

/-- A 32-bit sum that saturates, and whether it does. -/
def satAdd (a b : Nat) : Nat × Bool := if a + b < 4294967296 then (a + b, false) else (4294967295, true)

/-- HSAT, for the status register and for the live period's record (R292, R294). -/
def State.evrSat (s : State) (b : Bool) : State :=
  if b then ({ s with evr := { s.evr with hsat := true } }).raise EVR_STATUS_HSAT else s

/-- A committed EVR_HINC (R292): INC to a bin and to its HCNT. -/
def State.evrHinc (s : State) (hist bin inc : Nat) : State :=
  let i := 64 * hist + bin
  let x := satAdd ((kvFind s.evr.bins i).getD 0) inc
  let y := satAdd ((kvFind s.evr.hcnt hist).getD 0) inc
  ({ s with evr := { s.evr with bins := kvSet s.evr.bins i x.1, hcnt := kvSet s.evr.hcnt hist y.1 } }).evrSat (x.2 || y.2)

/-- A committed EVR_XCH in the drain of Crease `k` (R292): VALUE offered to a channel. -/
def State.evrOffer (s : State) (k ch : Nat) : State :=
  let v := s.rd EVR_XVAL_VALUE
  let x := s.evr.channel ch
  let t := (k - s.evr.k0) % 4294967296
  let x := if signed 32 v < signed 32 x.min' then { x with min' := v, tMin := t } else x
  let x := if signed 32 x.max' < signed 32 v then { x with max' := v, tMax := t } else x
  { s with evr := { s.evr with ext := kvSet s.evr.ext ch x } }

/-- A committed EVR_CMD with CLRHIST and the key (R292, R299): every bin cleared. -/
def State.evrClear (s : State) : State := { s with evr := { s.evr with bins := [], clr := true } }

/-- The recorder's writes that take effect only through commit records (R292): ignored with SVCREJ in service context, and without effect
while EN is 0 (R299). `k` is the Crease being drained. -/
def State.evrWrite (s : State) (commit : Bool) (k off v : Nat) : State :=
  if !commit then s.raise EVR_STATUS_SVCREJ
  else if !s.on EVR_CTRL_EN then s
  else if off = 0x10 then s.evrHinc (bits v 27 5) (bits v 21 6) (bits v 0 21)
  else if off = 0x14 then s.wr EVR_XVAL_VALUE v
  else if off = 0x18 then s.evrOffer k (bits v 0 6)
  else if off = 0x1C then (if bits v 16 16 = 0xC1EA && bit v 0 then s.evrClear else s)
  else s

/-- The write lock of EVR_CTRL and EVR_RPER (R299). -/
def State.evrLocked (s : State) (a : Nat) : Bool := s.crzOn && (a == 0x400E0000 || a == 0x400E000C)

end Sys2Proof.Machine
end

