-- ==== Sys2Proof/Machine/Bus.lean ====
section
/-!
DEFINITION. What a master of the fabric reads and writes by address (R16): the lane SRAM of the Active lane, the event staging memory, the PST window and
the ACM window, for the DMA engine (R369 to R378) and the crypto engine (R341).
-/
namespace Sys2Proof.Machine

/-- The regions of the address space that hold memory (R16). -/
inductive Region where
  | sram
  | staging
  | pst
  | acm
deriving DecidableEq

/-- The region that holds a whole span, and the span's offset in it (R16). -/
def State.region (s : State) (a n : Nat) : Option (Region × Nat) :=
  if 0x08000000 ≤ a ∧ a + n ≤ 0x08400000 then some (.sram, a % 0x08000000)
  else if 0x10000000 ≤ a ∧ a + n ≤ 0x10100000 then some (.staging, a % 0x10000000)
  else if 0x20000000 ≤ a ∧ a + n ≤ 0x21000000 then some (.pst, a % 0x20000000)
  else if 0x30000000 ≤ a ∧ a + n ≤ 0x30000000 + min s.acmSize 0x10000000 then some (.acm, a % 0x10000000)
  else none

/-- The lane whose SRAM the engines reach: the one that acts as the Active lane (R17, R369). -/
def State.busLane (s : State) : Lane := if s.actsActive .A then .A else .B

/-- `n` octets of the ACM from an offset; an erased octet reads 0xFF. -/
def State.acmRead (s : State) (o n : Nat) : Octets := (memRead s.acm o n).map (~~~ ·)

/-- Octets written into the ACM. -/
def State.acmWrite (s : State) (o : Nat) (bs : Octets) : State := { s with acm := memWrite s.acm o (bs.map (~~~ ·)) }

/-- Octets erased in the ACM. -/
def State.acmErase (s : State) (o n : Nat) : State := { s with acm := s.acm.filter (fun c => c.1 < o || o + n ≤ c.1) }

/-- `n` octets read at an address of a region. The layout of the event staging memory is not stated: its octets are free values. -/
def State.regionRead (s : State) (r : Region) (o n : Nat) : Octets :=
  match r with
  | .sram => memRead (s.lane s.busLane).sram o n
  | .staging => s.freeOctets n
  | .pst => s.pstOctets o n
  | .acm => s.acmRead o n

/-- A corrected error of a lane's SRAM: the word is corrected and written back corrected, and counted (R86). -/
def State.correctedWord (s : State) (l : Lane) : State := s.count (LSC_CE_CNT_COUNT l) LSC_STATUS_CEWRAP

/-- Octets written into a lane's SRAM. -/
def State.sramWrite (s : State) (l : Lane) (o : Nat) (bs : Octets) : State :=
  s.onLane l (fun x => { x with sram := memWrite x.sram o bs })

/-- The octets at an address, if the span lies in one readable region. -/
def State.busRead (s : State) (a n : Nat) : Option Octets :=
  match s.region a n with
  | some (r, o) => some (s.regionRead r o n)
  | none => none

/-- The word that holds an address, as poison and errors name it: 32 bits in PST, 64 bits elsewhere (R86, R281). -/
def busWord (a : Nat) : Nat := if 0x20000000 ≤ a ∧ a < 0x21000000 then a / 4 * 4 else a / 8 * 8

end Sys2Proof.Machine
end

