-- ==== Sys2Proof/Machine/Cipher.lean ====
section
/-!
DEFINITION. AES in the two modes that spec/ names: GCM (R337, R340, R345) and CCM with CCM* (R160, R200, R340). Written from the published algorithms
(FIPS 197, NIST SP 800-38C and 800-38D; CCM* as IEEE 802.15.4 has it), PRESUMED, notes/assumptions/5.
-/
namespace Sys2Proof.Machine

/-! ### AES -/

/-- The substitution box, 16 octets a row, first octet most significant. -/
def sboxRows : List Nat :=
  [0x637c777bf26b6fc53001672bfed7ab76,
   0xca82c97dfa5947f0add4a2af9ca472c0,
   0xb7fd9326363ff7cc34a5e5f171d83115,
   0x04c723c31896059a071280e2eb27b275,
   0x09832c1a1b6e5aa0523bd6b329e32f84,
   0x53d100ed20fcb15b6acbbe394a4c58cf,
   0xd0efaafb434d338545f9027f503c9fa8,
   0x51a3408f929d38f5bcb6da2110fff3d2,
   0xcd0c13ec5f974417c4a77e3d645d1973,
   0x60814fdc222a908846eeb814de5e0bdb,
   0xe0323a0a4906245cc2d3ac629195e479,
   0xe7c8376d8dd54ea96c56f4ea657aae08,
   0xba78252e1ca6b4c6e8dd741f4bbd8b8a,
   0x703eb5664803f60e613557b986c11d9e,
   0xe1f8981169d98e949b1e87e9ce5528df,
   0x8ca1890dbfe6426841992d0fb054bb16]

/-- One octet substituted. -/
def sbox (x : Nat) : Nat := nth 0 sboxRows (x / 16) / 256 ^ (15 - x % 16) % 256

/-- The product with x in the field of AES. -/
def xtime (x : Nat) : Nat := if x < 128 then 2 * x else (2 * x).xor 0x11b

/-- A 32-bit word substituted octet by octet. -/
def subWord (w : Nat) : Nat :=
  sbox (w / 2 ^ 24 % 256) * 2 ^ 24 + sbox (w / 2 ^ 16 % 256) * 2 ^ 16 + sbox (w / 2 ^ 8 % 256) * 2 ^ 8 + sbox (w % 256)

/-- `n` further words of the key schedule from word `i` on; `w` holds the words so far, newest first, `nk` the words of the key and `rc` the next round constant. -/
def keyWords (nk : Nat) : Nat → Nat → Nat → List Nat → List Nat
  | 0, _, _, w => w
  | n + 1, i, rc, w =>
    let p := nth 0 w 0
    let t := if i % nk = 0 then (subWord (p % 2 ^ 24 * 256 + p / 2 ^ 24)).xor (rc * 2 ^ 24) else if nk = 8 ∧ i % nk = 4 then subWord p else p
    keyWords nk n (i + 1) (if i % nk = 0 then xtime rc else rc) ((nth 0 w (nk - 1)).xor t :: w)

/-- The octets of `n` round keys of a list of words. -/
def roundKeys : Nat → List Nat → List (List Nat)
  | 0, _ => []
  | n + 1, w => ((w.take 4).map (be 4)).flatten.map BitVec.toNat :: roundKeys n (w.drop 4)

/-- The round keys of a key of 16 or 32 octets. -/
def aesKeys (key : Octets) : List (List Nat) :=
  let nk := if key.length ≤ 16 then 4 else 8
  let k := padTo (4 * nk) key
  roundKeys (nk + 7) (keyWords nk (3 * nk + 28) nk 1 (unpack 32 nk (beVal k)).reverse).reverse

/-- The rows of the state shifted. -/
def shiftRows (s : List Nat) : List Nat := [0, 5, 10, 15, 4, 9, 14, 3, 8, 13, 2, 7, 12, 1, 6, 11].map (nth 0 s)

/-- The columns of the state mixed. -/
def mixColumns : List Nat → List Nat
  | a :: b :: c :: d :: r =>
    let e := (a.xor b).xor (c.xor d)
    (a.xor e).xor (xtime (a.xor b)) :: (b.xor e).xor (xtime (b.xor c)) :: (c.xor e).xor (xtime (c.xor d)) :: (d.xor e).xor (xtime (d.xor a)) :: mixColumns r
  | _ => []

/-- The rounds after the first key; the last has no mixing of columns. -/
def aesRounds : List (List Nat) → List Nat → List Nat
  | [], s => s
  | [k], s => List.zipWith Nat.xor (shiftRows (s.map sbox)) k
  | k :: ks, s => aesRounds ks (List.zipWith Nat.xor (mixColumns (shiftRows (s.map sbox))) k)

/-- One block under the round keys of a key. -/
def aesBlock (ks : List (List Nat)) (b : Octets) : Octets :=
  (aesRounds ks.tail (List.zipWith Nat.xor (b.map BitVec.toNat) (nth [] ks 0))).map octet

/-! ### Key stream -/

/-- Two octet strings added bit by bit. -/
def xorOctets (a b : Octets) : Octets := List.zipWith (fun x y => x ^^^ y) a b

/-- The blocks of a key stream: `n` blocks of which the `i`-th is the counter block `ctr i` enciphered. -/
def streamBlocks (ks : List (List Nat)) (ctr : Nat → Octets) : Nat → Nat → Octets
  | 0, _ => []
  | n + 1, i => aesBlock ks (ctr i) ++ streamBlocks ks ctr n (i + 1)

/-- `n` octets of key stream from counter block `i` on. -/
def keyStream (key : Octets) (ctr : Nat → Octets) (i n : Nat) : Octets := padTo n (streamBlocks (aesKeys key) ctr (ceilDiv n 16) i)

/-! ### GCM -/

/-- The product in the field of GCM, `n` bits of `x` to go, most significant first; `z` is the sum so far, `v` the shifted factor. -/
def ghashMul : Nat → Nat → Nat → Nat → Nat
  | 0, _, z, _ => z
  | n + 1, x, z, v =>
    ghashMul n x (if bit x n then z.xor v else z) (if v % 2 = 1 then (v / 2).xor (0xe1 * 2 ^ 120) else v / 2)

/-- GHASH of `n` blocks under the hash key `h`. -/
def ghash (h : Nat) : Nat → Nat → Octets → Nat
  | 0, y, _ => y
  | n + 1, y, bs => ghash h n (ghashMul 128 (y.xor (beVal (bs.take 16))) 0 h) (bs.drop 16)

/-- An octet string filled with zeros to whole blocks. -/
def toBlocks (bs : Octets) : Octets := padTo (16 * ceilDiv bs.length 16) bs

/-- Counter block `i` of GCM; block 1 is that of the tag. -/
def gcmCtr (nonce : Octets) (i : Nat) : Octets := padTo 12 nonce ++ be 4 i

/-- AES-GCM: the text of the other side, for both directions. -/
def gcmText (key nonce data : Octets) : Octets := xorOctets data (keyStream key (gcmCtr nonce) 2 data.length)

/-- AES-GCM: the 16-octet tag of key, nonce, additional data and ciphertext. -/
def gcmTag (key nonce aad ct : Octets) : Octets :=
  let ks := aesKeys key
  let m := toBlocks aad ++ toBlocks ct ++ be 8 (8 * aad.length) ++ be 8 (8 * ct.length)
  xorOctets (be 16 (ghash (beVal (aesBlock ks (zeros 16))) (m.length / 16) 0 m)) (aesBlock ks (gcmCtr nonce 1))

/-! ### CCM -/

/-- Counter block `i` of CCM; block 0 is that of the tag. -/
def ccmCtr (nonce : Octets) (i : Nat) : Octets := [octet (14 - nonce.length)] ++ nonce ++ be (15 - nonce.length) i

/-- The blocks of an octet string chained under the round keys. -/
def cbcMac (ks : List (List Nat)) : Nat → Octets → Octets → Octets
  | 0, y, _ => y
  | n + 1, y, bs => cbcMac ks n (aesBlock ks (xorOctets y (bs.take 16))) (bs.drop 16)

/-- AES-CCM and CCM*: the text of the other side, for both directions. -/
def ccmText (key nonce data : Octets) : Octets := xorOctets data (keyStream key (ccmCtr nonce) 1 data.length)

/-- AES-CCM and CCM*: the tag of `tl` octets over key, nonce, additional data and plaintext. -/
def ccmTag (tl : Nat) (key nonce aad pt : Octets) : Octets :=
  let ks := aesKeys key
  let flags := (if aad = [] then 0 else 64) + (if tl = 0 then 0 else 8 * ((tl - 2) / 2)) + (14 - nonce.length)
  let head := if aad = [] then [] else if aad.length < 0xff00 then be 2 aad.length ++ aad else be 2 0xfffe ++ be 4 aad.length ++ aad
  let m := [octet flags] ++ nonce ++ be (15 - nonce.length) pt.length ++ toBlocks head ++ toBlocks pt
  (xorOctets (cbcMac ks (m.length / 16) (zeros 16) m) (aesBlock ks (ccmCtr nonce 0))).take tl

end Sys2Proof.Machine
end

