-- ==== Sys2Proof/Machine/Curve.lean ====
section
/-!
DEFINITION. The elliptic-curve operations that spec/ names: ECDSA verification on P-256 with SHA-256 and on P-384 with SHA-384 (R340), ECDH on P-256 and
the public key of a private one (R330, R336, R340). Written from the published algorithms (FIPS 186-5, SP 800-186, SEC 1), PRESUMED, notes/assumptions/5.
-/
namespace Sys2Proof.Machine

/-- A curve y² = x³ − 3x + b over the integers modulo p, with a base point of order n; `size` is the octets of a coordinate. -/
structure Curve where
  size : Nat
  p : Nat
  b : Nat
  n : Nat
  gx : Nat
  gy : Nat
  deriving DecidableEq, Repr

/-- P-256. -/
def p256 : Curve where
  size := 32
  p := 2 ^ 256 - 2 ^ 224 + 2 ^ 192 + 2 ^ 96 - 1
  b := 0x5ac635d8aa3a93e7b3ebbd55769886bc651d06b0cc53b0f63bce3c3e27d2604b
  n := 0xffffffff00000000ffffffffffffffffbce6faada7179e84f3b9cac2fc632551
  gx := 0x6b17d1f2e12c4247f8bce6e563a440f277037d812deb33a0f4a13945d898c296
  gy := 0x4fe342e2fe1a7f9b8ee7eb4a7c0f9e162bce33576b315ececbb6406837bf51f5

/-- P-384. -/
def p384 : Curve where
  size := 48
  p := 2 ^ 384 - 2 ^ 128 - 2 ^ 96 + 2 ^ 32 - 1
  b := 0xb3312fa7e23ee7e4988e056be3f82d19181d9c6efe8141120314088f5013875ac656398d8a2ed19d2a85c8edd3ec2aef
  n := 0xffffffffffffffffffffffffffffffffffffffffffffffffc7634d81f4372ddf581a0db248b0a77aecec196accc52973
  gx := 0xaa87ca22be8b05378eb1c71ef320ad746e1d3b628ba79b9859f741e082542a385502f25dbf55296c3a545e3872760ab7
  gy := 0x3617de4a96262c6f5d9e98bf9292dc29f8f41dbd289a147ce9da3113b5f0b8c00a60b1ce1d7e819d7a431d7c90ea0e5f

/-- A point in Jacobian coordinates; Z = 0 is the point at infinity. -/
structure Point where
  x : Nat
  y : Nat
  z : Nat
  deriving DecidableEq, Repr

/-- The point at infinity. -/
def Point.infinity : Point := ⟨1, 1, 0⟩

/-- A difference modulo m of two residues. -/
def subMod (m a b : Nat) : Nat := (a + m - b) % m

/-- `a` to the power `e` modulo m, `n` bits of `e` to go. -/
def powMod (m : Nat) : Nat → Nat → Nat → Nat
  | 0, _, _ => 1
  | n + 1, a, e => (if e % 2 = 1 then a else 1) * powMod m n (a * a % m) (e / 2) % m

/-- The inverse modulo a prime of at most 384 bits. -/
def invMod (m a : Nat) : Nat := powMod m 384 (a % m) (m - 2)

/-- A point doubled. -/
def Curve.double (c : Curve) (q : Point) : Point :=
  let m := c.p
  let d := q.z * q.z % m
  let g := q.y * q.y % m
  let e := q.x * g % m
  let a := 3 * (subMod m q.x d * ((q.x + d) % m)) % m
  let x := subMod m (a * a % m) (8 * e % m)
  ⟨x, subMod m (a * subMod m (4 * e % m) x % m) (8 * (g * g % m) % m), 2 * (q.y * q.z) % m⟩

/-- Two points added. -/
def Curve.add (c : Curve) (q r : Point) : Point :=
  let m := c.p
  if q.z = 0 then r
  else if r.z = 0 then q
  else
    let zq := q.z * q.z % m
    let zr := r.z * r.z % m
    let u := q.x * zr % m
    let v := q.y * (zr * r.z % m) % m
    let h := subMod m (r.x * zq % m) u
    let k := subMod m (r.y * (zq * q.z % m) % m) v
    if h = 0 then (if k = 0 then c.double q else Point.infinity)
    else
      let h2 := h * h % m
      let h3 := h2 * h % m
      let w := u * h2 % m
      let x := subMod m (subMod m (k * k % m) h3) (2 * w % m)
      ⟨x, subMod m (k * subMod m w x % m) (v * h3 % m), h * (q.z * r.z % m) % m⟩

/-- A point times a number, `n` bits of it to go, least significant first; `acc` is the sum so far. -/
def Curve.mul (c : Curve) : Nat → Nat → Point → Point → Point
  | 0, _, _, acc => acc
  | n + 1, e, q, acc => c.mul n (e / 2) (c.double q) (if e % 2 = 1 then c.add acc q else acc)

/-- A point times a number. -/
def Curve.times (c : Curve) (e : Nat) (q : Point) : Point := c.mul (8 * c.size) e q Point.infinity

/-- The coordinates of a point other than infinity. -/
def Curve.affine (c : Curve) (q : Point) : Option (Nat × Nat) :=
  if q.z = 0 then none
  else
    let i := invMod c.p q.z
    let i2 := i * i % c.p
    some (q.x * i2 % c.p, q.y * (i2 * i % c.p) % c.p)

/-- The base point. -/
def Curve.base (c : Curve) : Point := ⟨c.gx, c.gy, 1⟩

/-- x³ − 3x + b modulo p. -/
def Curve.rhs (c : Curve) (x : Nat) : Nat := (x * x % c.p * x + (c.p - 3) * x + c.b) % c.p

/-- The point that a public key spells: 0x02 or 0x03 and x, or 0x04, x and y; none where that is no point of the curve. -/
def Curve.point (c : Curve) (k : Octets) : Option Point :=
  let x := beAt k 1 c.size
  if c.p ≤ x then none
  else if (octAt k 0 = 2 ∨ octAt k 0 = 3) ∧ k.length = c.size + 1 then
    let y := powMod c.p 384 (c.rhs x) ((c.p + 1) / 4)
    if y * y % c.p ≠ c.rhs x then none
    else some ⟨x, if y % 2 = octAt k 0 - 2 then y else (c.p - y) % c.p, 1⟩
  else if octAt k 0 = 4 ∧ k.length = 2 * c.size + 1 then
    let y := beAt k (1 + c.size) c.size
    if y < c.p ∧ y * y % c.p = c.rhs x then some ⟨x, y, 1⟩ else none
  else none

/-- ECDSA: whether the signature r ‖ s verifies for a public key and a digest. -/
def Curve.verifies (c : Curve) (key digest sig : Octets) : Bool :=
  let r := beAt sig 0 c.size
  let s := beAt sig c.size c.size
  match c.point key with
  | none => false
  | some q =>
    let w := invMod c.n s
    let z := beVal (digest.take c.size)
    decide (1 ≤ r ∧ r < c.n ∧ 1 ≤ s ∧ s < c.n) &&
    (match c.affine (c.add (c.times (z * w % c.n) c.base) (c.times (r * w % c.n) q)) with
      | none => false
      | some (x, _) => x % c.n == r)

/-- ECDSA verification of a message: P-256 with SHA-256 or P-384 with SHA-384, by the number of bits. -/
def ecdsaVerify (curve : Nat) (key msg sig : Octets) : Bool :=
  if curve = 256 then p256.verifies key (sha256 msg) sig else p384.verifies key (sha384 msg) sig

/-- The compressed P-256 public key of a private key. -/
def p256Public (d : Octets) : Octets :=
  match p256.affine (p256.times (beVal d) p256.base) with
  | none => zeros 33
  | some (x, y) => [octet (2 + y % 2)] ++ be 32 x

/-- The x-coordinate of the ECDH P-256 product of a private key and a public key; none where the product is no point. -/
def ecdhProduct (d q : Octets) : Option Octets :=
  match p256.point q with
  | none => none
  | some q => (p256.affine (p256.times (beVal d) q)).map (fun a => be 32 a.1)

/-- The x-coordinate of the ECDH P-256 product; of a peer key that is no point of the curve spec/ states none, and it is a free value. -/
def ecdhX (d q : Octets) : Octets := (ecdhProduct d q).getD (padTo 32 (Config.ecdhInvalid d q))

end Sys2Proof.Machine
end

