-- ==== Sys2Proof/Machine/Puf.lean ====
section
/-!
DEFINITION. The PUF array's response and the code that corrects it (R320, R321, R323): the binary BCH(255, 45) code over GF(2^8) with x^8 + x^4 + x^3 + x^2 + 1, the majority
of nine reads, and the recovered messages as octets. Bit j of a codeword is the coefficient of x^j, and the message stands in its 45 highest (notes/assumptions/56).
-/
namespace Sys2Proof.Machine

/-! ### The field -/

/-- Octet `i` of a number. -/
def byteOf (v i : Nat) : Nat := v / 256 ^ i % 256

/-- The powers 0 to 254 of the primitive element, and the exponents of 1 to 255, an octet each. -/
def gfExps : Nat :=
  0x8e47add86c361b83cfe9fa7db0582c160b8bcbebfbf3f7f5f47a3d90482412098a45ac562b9bc3eff9f279b259a251a653a7dde070381c0e078dc86432198241ae57a5dc6e3795c46231964babdbe3fff1f67bb3d7e5fc7e3f91c663bfd1e673b7d5e472399249aa55a452299a4da8542a158442219e4fa9da6db85c2e1785cc663397c5ec763b93c7edf87c3e1f81ce67bdd068341a0d884422118643afd9e271b65ba3dfe1fe7fb1d66bbbd3e7fdf0783c1e0f89ca65bc5e2f99c261be5fa1de6fb9d269ba5da05028140a058c46239fc1ee77b5d46a35944a259c4e279dc06030180c06038fc9ea75b45a2d984c261387cde8743a1d8040201008040201
def gfLogs : Nat :=
  0xaf5850a8eaf4d674e8ade7e6e9d5ae4fd72c757aeb16f50b51a0a99cb05f59cb5a3eccbbb18660fbaa559d29523ba16cf66f0c7fec4917c476a47bb7d8432d1fa2416d4753393c849e5d2a14abd356f261befcdcb2978790cdcfbc955bd13f372e892023d99244117cb4b8267799a5e318fec531edde4a670d63808cf7c0700757a7f373ace5d44e2b79150a9f9b5eca3dba85fa54283a6b6e7e48c3a3b6421e404638835c13d2f1bddb968fce94d03688229110b32598e2fd30dd66628bbf06a672e44d78099ac9b9f9276a7dc2b51d458212f0da8e9335210f24e12f658a05714c08c8f869c11c81ef8d340ee064044bc7681bee33df03c61a320219010000

/-- Power `i` of the primitive element. -/
def gfPow (i : Nat) : Nat := byteOf gfExps (i % 255)

/-- The product in the field, and the inverse of an element that is not 0. -/
def gfMul (a b : Nat) : Nat := if a = 0 ∨ b = 0 then 0 else gfPow (byteOf gfLogs a + byteOf gfLogs b)
def gfInv (a : Nat) : Nat := gfPow (255 - byteOf gfLogs a)

/-- The value at `x` of a polynomial, lowest coefficient first. -/
def gfEval (x : Nat) : List Nat → Nat
  | [] => 0
  | c :: cs => c.xor (gfMul x (gfEval x cs))

/-- The sum of two polynomials. -/
def gfAdd : List Nat → List Nat → List Nat
  | [], b => b
  | a, [] => a
  | x :: a, y :: b => x.xor y :: gfAdd a b

/-! ### The code (R320) -/

/-- The generator, of degree 210: its zeros are the powers 1 to 86 of the primitive element with their conjugates. -/
def bchGen : Nat := 0x6a085c2d4e1c4b241733fa27c1b9ee02938f93ec3682378545361

/-- The remainder modulo the generator of a polynomial of degree below 210 + `n`. -/
def bchRem : Nat → Nat → Nat
  | 0, v => v
  | n + 1, v => bchRem n (if bit v (210 + n) then v.xor (bchGen * 2 ^ n) else v)

/-- The codeword of a 45-bit message. -/
def bchEncode (m : Nat) : Nat := m % 2 ^ 45 * 2 ^ 210 + bchRem 45 (m % 2 ^ 45 * 2 ^ 210)

/-- Syndrome `i` of a word: its value at power `i`. -/
def bchSyndrome (y i : Nat) : Nat := (List.range 255).foldl (fun a j => if bit y j then a.xor (gfPow (i * j)) else a) 0

/-- The search for the locator of the errors (Berlekamp and Massey): the locator, the one before its last change of length over that change's discrepancy and shifted since,
and the length. -/
structure BchSearch where
  loc : List Nat
  old : List Nat
  len : Nat

/-- The search carried through the syndromes; `seen` holds those before, newest first. -/
def bchSearch : List Nat → List Nat → BchSearch → BchSearch
  | [], _, r => r
  | x :: xs, seen, r =>
    let win := x :: seen
    let d := (List.zipWith gfMul r.loc win).foldl Nat.xor 0
    let shifted := 0 :: r.old
    let next := gfAdd r.loc (shifted.map (gfMul d))
    bchSearch xs win
      (if d = 0 then { r with old := shifted }
       else if 2 * r.len ≤ seen.length then ⟨next, r.loc.map (gfMul (gfInv d)), seen.length + 1 - r.len⟩
       else { r with loc := next, old := shifted })

/-- The positions at which a locator says that a word is wrong. -/
def bchErrors (loc : List Nat) : List Nat := (List.range 255).filter (fun j => gfEval (gfPow (255 - j)) loc == 0)

/-- The message of the codeword that differs from a word in at most 43 bits, if there is one. -/
def bchDecode (y : Nat) : Option Nat :=
  let r := bchSearch ((List.range 86).map (fun i => bchSyndrome y (i + 1))) [] ⟨[1], [1], 0⟩
  let errs := bchErrors r.loc
  let c := errs.foldl (fun (v : Nat) j => v.xor (2 ^ j)) (y % 2 ^ 255)
  if errs.length ≤ 43 ∧ bchRem 45 c = 0 then some (c / 2 ^ 210) else none

/-! ### The array (R320, R323) -/

/-- The number whose bits are listed from the least significant. -/
def ofBits : List Bool → Nat
  | [] => 0
  | b :: bs => b2n b + 2 * ofBits bs

/-- The response of an array of octets: bit j of block b is bit 0 of octet 255b + j. -/
def pufBlocks (array : Octets) : List Nat :=
  (List.range 30).map (fun b => ofBits ((List.range 255).map (fun j => bit (octAt array (255 * b + j)) 0)))

/-- How many of the reads of a bit are 1. -/
def pufVotes (reads : List (List Nat)) (b j : Nat) : Nat := (reads.filter (fun r => bit (nth 0 r b) j)).length

/-- Block `b` of the majority of nine reads, and how many of its bits disagree in any of them (R323). -/
def pufMajority (reads : List (List Nat)) (b : Nat) : Nat := ofBits ((List.range 255).map (fun j => decide (5 ≤ pufVotes reads b j)))
def pufUnsteady (reads : List (List Nat)) (b : Nat) : Nat :=
  ((List.range 255).filter (fun j => pufVotes reads b j != 0 && pufVotes reads b j != reads.length)).length

/-- Block `b` of the code offset in a helper block's W (R321). -/
def offsetBlock (w : Octets) (b : Nat) : Nat := leAt w (32 * b) 32 % 2 ^ 255

/-- Every message of a list decoded, if each could be. -/
def allSome : List (Option Nat) → Option (List Nat)
  | [] => some []
  | none :: _ => none
  | some m :: t => (allSome t).map (m :: ·)

/-- The messages recovered from a response and a code offset: each block decoded as r ⊕ W (R320, R322). -/
def pufRecover (response : List Nat) (w : Octets) : Option (List Nat) :=
  allSome ((List.range 30).map (fun b => bchDecode ((nth 0 response b).xor (offsetBlock w b))))

/-- M: 30 messages of 45 bits, the first at the top, and two zero bits (R321). -/
def pufOctets (ms : List Nat) : Octets := be 169 (4 * ms.foldl (fun v m => v * 2 ^ 45 + m % 2 ^ 45) 0)

/-- The code offset of a response for 30 messages (R320, R321). -/
def pufOffset (response ms : List Nat) : Octets :=
  ((List.range 30).map (fun b => le 32 ((nth 0 response b).xor (bchEncode (nth 0 ms b))))).flatten

end Sys2Proof.Machine
end

