-- ==== Sys2Proof/Machine/Keys.lean ====
section
/-!
DEFINITION. The key store (R320 to R339) and the crypto engine (R340 to R342): the lifecycle log, root recovery, slots and policies, the KSU's
commands, and the jobs of the crypto engine. The ciphers stand in Cipher, ECDSA and ECDH in Curve (notes/assumptions/5).
-/
namespace Sys2Proof.Machine

/-- The octets of an ASCII text. -/
def ascii (t : String) : Octets := t.toList.map (fun c => octet c.toNat)

/-- Octets compared with a value octet by octet. -/
def allZero (bs : Octets) : Bool := bs.all (· == octet 0)

/-! ### Lifecycle (R324, R325) -/

abbrev lcFactory : Nat := 0
abbrev lcCalibrate : Nat := 1
abbrev lcDeployed : Nat := 2
abbrev lcService : Nat := 3
abbrev lcRetired : Nat := 4

/-- Entry `i` of the log; 0 is unwritten. -/
def State.lcEntry (s : State) (i : Nat) : Nat := (kvFind s.otp.log i).getD 0 % 16

/-- The epoch: the index of the first unwritten entry (R324). -/
def State.epoch (s : State) : Nat := ((List.range 32).find? (fun i => s.lcEntry i == 0)).getD 32

/-- A written entry with bad parity, or one that follows an unwritten entry (R324). -/
def State.lcBroken (s : State) : Bool :=
  (List.range 32).any (fun i => s.lcEntry i != 0 && (popCount 4 (s.lcEntry i) % 2 == 0 || decide (s.epoch < i)))

/-- The lifecycle state (R324). -/
def State.lcState (s : State) : Nat :=
  if s.lcBroken then lcRetired else if s.epoch = 0 then lcFactory else s.lcEntry (s.epoch - 1) % 8

/-- The state before the last transition; 0 at epoch 0 (KSU_LCS.PREV). -/
def State.lcPrev (s : State) : Nat := if s.epoch < 2 then 0 else s.lcEntry (s.epoch - 2) % 8

/-- The entry that a transition programs: the state with odd parity (R324). -/
def lcCode (target : Nat) : Nat := target % 8 + (if popCount 3 target % 2 = 0 then 8 else 0)

/-- The transitions each state permits, at each epoch (R325). -/
def stepAllowed (epoch from' target : Nat) : Bool :=
  if 31 ≤ epoch then epoch == 31 && target == lcRetired && from' != lcRetired
  else if from' = lcFactory then target == lcCalibrate || target == lcRetired
  else if from' = lcCalibrate then target == lcDeployed || target == lcRetired
  else if from' = lcDeployed then target == lcDeployed || target == lcService || target == lcRetired
  else if from' = lcService then target == lcDeployed || target == lcRetired
  else false

/-- The states in which the OTP calibration trims are writable (R325). No rule says what writes them: no command does (notes/assumptions/56). -/
def State.trimsWritable (s : State) : Bool := s.lcState == lcCalibrate || s.lcState == lcService

/-! ### Derivation (R330) -/

/-- The order n of P-256, below which d_DEV lies (R330). -/
def p256Order : Nat := 0xFFFFFFFF00000000FFFFFFFFFFFFFFFFBCE6FAADA7179E84F3B9CAC2FC632551

/-- d_DEV: the first expansion, by the counter c, that is in range (R330). -/
def deviceKey (prk : Octets) : Nat → Nat → Octets
  | 0, _ => zeros 32
  | fuel + 1, c =>
    let x := hkdfExpand prk ([octet 0] ++ ascii "DEVK" ++ [octet c]) 32
    if 1 ≤ beVal x ∧ beVal x < p256Order then x else deviceKey prk fuel (c + 1)

/-- The keys the KSU derives from K_PUF in a state and an epoch (R330). -/
def deriveCache (kPuf : Octets) (st ep : Nat) : KeyCache :=
  let prk := hkdfExtract (zeros 32) (kPuf ++ [octet st, octet ep])
  ⟨prk, hkdfExpand prk ([octet 0] ++ ascii "SEAL") 32, hkdfExpand prk ([octet 0] ++ ascii "AMAC") 32, deviceKey prk 256 0⟩

/-- HKDF-SHA-256 of a salt, key material and info to `n` octets. -/
def hkdf (salt ikm info : Octets) (n : Nat) : Octets := hkdfExpand (hkdfExtract salt ikm) info n

/-! ### Slots and policies (R332, R333) -/

/-- The octets of a key of a TYPE (R332). -/
def typeOctets (t : Nat) : Nat :=
  if t = 1 then 16 else if t = 2 then 32 else if t = 3 then 32 else if t = 4 then 48 else if t = 5 then 33 else if t = 6 then 49
  else if t = 7 then 32 else if t = 8 then 32 else 0

abbrev opImgDec : Nat := 0
abbrev opImgVer : Nat := 1
abbrev opLink : Nat := 2
abbrev opMgmt : Nat := 3
abbrev opDerive : Nat := 4

abbrev ctxBoot : Nat := 8
abbrev ctxRld : Nat := 9
abbrev ctxLane : Nat := 10
abbrev ctxLaneU : Nat := 11
abbrev ctxRfm : Nat := 12
abbrev ctxPlm : Nat := 13

/-- The operations a TYPE may carry, as OPS bits (R332). -/
def typeOps (t : Nat) : Nat :=
  if t = 1 then 12 else if t = 2 then 25 else if t = 3 then 24 else if t = 4 then 24 else if t = 5 then 10 else if t = 6 then 10
  else if t = 7 then 16 else if t = 8 then 16 else 0

/-- A POLICY a TYPE may hold: its reserved bits are 0 and its OPS are among those of the TYPE (R333). -/
def policyGood (t p : Nat) : Bool :=
  bits p 5 3 == 0 && bits p 14 2 == 0 && bits p 17 15 == 0 && (bits p 0 5).land (typeOps t) == bits p 0 5

/-- The slot of a number, if it is not empty. -/
def State.slot (s : State) (n : Nat) : Option KeySlot := kvFind s.ksu.slots n

/-- A slot filled or emptied. -/
def State.setSlot (s : State) (n : Nat) (k : Option KeySlot) : State :=
  { s with ksu := { s.ksu with slots := match k with
      | some x => kvSet s.ksu.slots n x
      | none => kvErase s.ksu.slots n } }

/-- A slot with LOCK set (R333). -/
def State.slotLocked (s : State) (n : Nat) : Bool :=
  match s.slot n with
  | some k => bit k.policy 16
  | none => false

/-- A use refused: POLDENY and KSU_DENY_CNT (R333). -/
def State.deny (s : State) : State := (s.raise KSU_STATUS_POLDENY).count KSU_DENY_CNT_COUNT KSU_STATUS_CNTWRAP

/-- A slot's policy allows an operation to a requester (R333). -/
def KeySlot.allows (k : KeySlot) (op ctx : Nat) : Bool := bit k.policy op && bit k.policy ctx

/-- The key of a slot for a use by a requester: refused uses are counted (R333). -/
def State.keyFor (s : State) (n op ctx : Nat) : State × Option KeySlot :=
  match s.slot n with
  | some k => if k.allows op ctx then (s, some k) else (s.deny, none)
  | none => (s.deny, none)

/-! ### The key helper partition (R335, R339) -/

/-- Octets written by the KSU, the first word before and after the rest where `twice` says that VER goes last (R335). -/
def State.ksuWrite (s : State) (o : Nat) (bs : Octets) : State :=
  let ws := recordWords (bs.length / 4) o bs
  match ws with
  | [] => s
  | (a, v) :: t => s.pstWords .ksu ([(a, v / 256 * 256)] ++ t ++ [(a, v)])

/-- The offset of the enrolment record of an epoch and of a sealed record. -/
def enrolAt (ep : Nat) : Nat := 0x3D0400 + 128 * (ep % 2)
def sealedAt (i : Nat) : Nat := 0x3D0500 + 128 * i

/-- Sealed record `i` as its octets stand. -/
def State.sealedRecord (s : State) (i : Nat) : Octets := s.pstOctets (sealedAt i) 128

/-- A sealed record valid in an epoch under a K_SEAL (R335). -/
def sealedValid (kSeal : Octets) (ep : Nat) (r : Octets) : Bool :=
  octAt r 0 == 1 && octAt r 8 == ep && slice r 112 16 == padTo 16 (gcmTag kSeal (slice r 12 12) (slice r 0 24) (slice r 24 88))

/-- The key octets of a sealed record. -/
def sealedKey (kSeal r : Octets) : Octets := (padTo 88 (gcmText kSeal (slice r 12 12) (slice r 24 88))).take (octAt r 3)

/-- A sealed record made of a header of 12 octets, a nonce and a key (R335). -/
def sealRecord (kSeal head iv key : Octets) : Octets :=
  let aad := padTo 12 head ++ padTo 12 iv
  let ct := padTo 88 (gcmText kSeal (padTo 12 iv) (padTo 88 key))
  aad ++ ct ++ padTo 16 (gcmTag kSeal (padTo 12 iv) aad ct)

/-- The policy of the anchor: MGMT for BOOT, RLD and LANE, locked (R332). -/
def anchorPolicy : Nat := 2 ^ opMgmt + 2 ^ ctxBoot + 2 ^ ctxRld + 2 ^ ctxLane + 65536

/-- The enrolment record's octets without AMAC, with it (R339). -/
def withAmac (kAm body : Octets) : Octets := body ++ (hmac kAm body).take 8

/-- The anchor and IMPSEQ loaded from the enrolment record of the present epoch, or ANCHORERR (R332, R339). -/
def State.loadAnchor (s : State) (c : KeyCache) : State :=
  let r := s.pstOctets (enrolAt s.epoch) 128
  if octAt r 2 == s.epoch && slice r 120 8 == (hmac c.kAm (slice r 0 120)).take 8 then
    ({ s with ksu := { s.ksu with impSeq := leAt r 80 4 } }).setSlot 0 (some ⟨5, anchorPolicy, 3, slice r 84 33⟩)
  else (s.setSlot 0 none).raise KSU_STATUS_ANCHORERR

/-- The valid sealed records loaded into their slots in ascending order (R335). -/
def State.loadSealed (s : State) (c : KeyCache) : State :=
  (List.range 22).foldl (fun s i =>
    let r := s.sealedRecord i
    if sealedValid c.kSeal s.epoch r then s.setSlot (octAt r 1) (some ⟨octAt r 2, leAt r 4 4, 3, sealedKey c.kSeal r⟩) else s) s

/-- The root formed from K_PUF (R322 step 6). -/
def State.formRoot (s : State) (kPuf : Octets) : State :=
  let c := deriveCache kPuf s.lcState s.epoch
  let s := { s with ksu := { s.ksu with cache := some c, kPuf := kPuf, wantMirror := false } }
  let s := (s.loadAnchor c).loadSealed c
  (s.wr KSU_QDEV_QDEV (leVal (padTo 33 (p256Public c.dDev)))).raise KSU_STATUS_ROOTOK

/-! ### Root recovery (R320 to R322) -/

/-- K_PUF and its KCV (R321). -/
def pufKey (m : Octets) : Octets := sha256 ([octet 0] ++ ascii "PUF" ++ m)
def pufCheck (k : Octets) : Octets := (sha256 ([octet 0] ++ ascii "KCV" ++ k)).take 8

/-- K_PUF from a response and a helper block whose KCV it matches (R322 steps 3 and 4): none where a block has more than 43 errors. -/
def helperKey (response : List Nat) (h : Octets) : Option Octets :=
  match pufRecover response (slice h 12 960) with
  | some ms => if pufCheck (pufKey (pufOctets ms)) = slice h 4 8 then some (pufKey (pufOctets ms)) else none
  | none => none

/-- Helper data with VER and CRC as they must be (R321, R322 step 2). -/
def helperSound (h : Octets) : Bool := octAt h 0 == 1 && leAt h 1020 4 == crc32c (h.take 1020)

/-- Root recovery after a reset (R322 steps 1 to 4 and 6), with the octets of the PUF array as they are read once (R320): from the PST copy, or the KSU waits for the mirror.
None in RETIRED (R325). -/
def State.rootRecovery (s : State) (array : Octets) : State :=
  if s.ksu.tried || s.lcState == lcRetired then s
  else
    let h := s.pstOctets 0x3D0000 1024
    let r := pufBlocks array
    let s := { s with ksu := { s.ksu with tried := true } }
    match (if helperSound h then helperKey r h else none) with
    | some k => s.formRoot k
    | none => { s with ksu := { s.ksu with wantMirror := true, response := r } }

/-- The mirror written to KSU_HLP by the boot ROM (R322 step 5): the root, with the PST copy rewritten and HLPFIX, or NOROOT. -/
def State.mirrorWrite (s : State) (h : Octets) : State :=
  if !s.ksu.wantMirror then s
  else
    let k := helperKey s.ksu.response h
    let s := { s.wr KSU_HLP_HLP (leVal (padTo 1024 h)) with ksu := { s.ksu with wantMirror := false, response := [] } }
    match k with
    | some k => ((s.pstWords .ksu (recordWords 256 0x3D0000 (le 1024 (s.rd KSU_HLP_HLP)))).raise KSU_STATUS_HLPFIX).formRoot k
    | none => s.raise KSU_STATUS_NOROOT

/-! ### Commands (R323, R326, R327, R336 to R338) -/

abbrev ksuOk : Nat := 0
abbrev ksuBadSig : Nat := 1
abbrev ksuBadField : Nat := 2
abbrev ksuNotAllowed : Nat := 3
abbrev ksuNoRoom : Nat := 4
abbrev ksuPolicy : Nat := 5
abbrev ksuLocked : Nat := 6
abbrev ksuNoRoot : Nat := 7
abbrev ksuBadCtx : Nat := 8
abbrev ksuPufWeak : Nat := 9
abbrev ksuBadSeq : Nat := 10
abbrev ksuBusy : Nat := 11

/-- A command completed with a result (R343). -/
def State.ksuDone (s : State) (r : Nat) : State := (s.wr KSU_CMDSTAT_RESULT r).raise KSU_STATUS_DONE

/-- OP = CLEAR (R337). -/
def State.ksuClear (s : State) : State :=
  let n := s.rd KSU_CLR_SLOT
  if s.slotLocked n then s.ksuDone ksuLocked else (s.setSlot n none).ksuDone ksuOk

/-- The source of a DERIVE: PRK with the contexts BOOT, RLD and LANE, or a slot with DERIVE allowed (R337). -/
def State.deriveSource (s : State) : State × (Nat ⊕ (Octets × Nat)) :=
  if s.on KSU_DRV_ROOTSRC then
    match s.ksu.cache with
    | some c => (s, .inr (c.prk, 2 ^ ctxBoot + 2 ^ ctxRld + 2 ^ ctxLane))
    | none => (s, .inl ksuNoRoot)
  else
    match s.keyFor (s.rd KSU_DRV_SRC) opDerive ctxLane with
    | (s, some k) => if k.typ = 7 then (s.deny, .inl ksuPolicy) else (s, .inr (k.key, k.policy))
    | (s, none) => (s, .inl ksuPolicy)

/-- OP = DERIVE (R337). -/
def State.ksuDerive (s : State) : State :=
  let t := s.rd KSU_DRV_TYPE
  let dst := s.rd KSU_DRV_DST
  let n := s.rd KSU_DRV_INFOLEN
  let pol := s.rd KSU_DRV_POL_POLICY
  let info := (le 32 (s.rd KSU_DRV_INFO_INFO)).take n
  if dst = 0 ∨ n = 0 ∨ 32 < n ∨ octAt info 0 = 0 ∨ !((1 ≤ t && t ≤ 4) || t == 8) then s.ksuDone ksuBadField
  else if !policyGood t pol then s.ksuDone ksuPolicy
  else match s.deriveSource with
    | (s, .inl r) => s.ksuDone r
    | (s, .inr (ikm, src)) =>
      if (bits pol 8 6).land (bits src 8 6) != bits pol 8 6 then s.ksuDone ksuPolicy
      else (s.setSlot dst (some ⟨t, pol, 1, hkdf (zeros 32) ikm info (typeOctets t)⟩)).ksuDone ksuOk

/-- An import refused (R336). -/
def State.importRefused (s : State) (r : Nat) : State := (s.ksuDone r).raise KSU_STATUS_IMPREJ

/-- The checks of the second stage of an import (R336): 0, or the result with which it fails. -/
def State.importCheck (s : State) (b : Octets) (c : KeyCache) : Nat :=
  let t := octAt b 2
  let idx := octAt b 8
  if octAt b 0 != 1 || octAt b 9 != s.epoch || octAt b 1 == 0 || decide (31 < octAt b 1) ||
      !((1 ≤ t && t ≤ 6) || t == 8) || octAt b 3 != typeOctets t || leAt b 10 2 != 0 || leAt b 49 3 != 0 ||
      (decide (21 < idx) && idx != 255) then ksuBadField
  else if leAt b 12 4 ≤ s.ksu.impSeq then ksuBadSeq
  else if !policyGood t (leAt b 4 4) then ksuPolicy
  else if s.slotLocked (octAt b 1) then ksuLocked
  else if idx != 255 && sealedValid c.kSeal s.epoch (s.sealedRecord idx) then ksuLocked
  else ksuOk

/-- IMPSEQ stored in the enrolment record with a new AMAC (R336, R339). -/
def State.storeImpSeq (s : State) (c : KeyCache) (q : Nat) : State :=
  let r := s.pstOctets (enrolAt s.epoch) 128
  let s := { s with ksu := { s.ksu with impSeq := q } }
  s.ksuWrite (enrolAt s.epoch) (withAmac c.kAm (slice r 0 80 ++ le 4 q ++ slice r 84 36))

/-- OP = IMPORT of the blob in KSU_BLOB (R336). -/
def State.ksuImport (s : State) : State :=
  let b := le 232 (s.rd KSU_BLOB_BLOB)
  match s.ksu.cache, s.slot 0 with
  | some c, some anchor =>
    if !ecdsaVerify 256 anchor.key (slice b 0 168) (slice b 168 64) then s.importRefused ksuBadSig
    else
      let r := s.importCheck b c
      if r != ksuOk then s.importRefused r
      else
        let kw := hkdf s.otp.uid (ecdhX c.dDev (slice b 16 33)) ([octet 0] ++ ascii "WRAP") 32
        if padTo 16 (gcmTag kw (slice b 52 12) (slice b 0 64) (slice b 64 88)) != slice b 152 16 then s.importRefused ksuBadSig
        else
          let key := (padTo 88 (gcmText kw (slice b 52 12) (slice b 64 88))).take (octAt b 3)
          let s := s.setSlot (octAt b 1) (some ⟨octAt b 2, leAt b 4 4, 2, key⟩)
          let s := if octAt b 8 = 255 then s else
            let head := [octet 1] ++ slice b 1 7 ++ [octet s.epoch] ++ zeros 3
            (s.ksuWrite (sealedAt (octAt b 8)) (sealRecord c.kSeal head (s.freeOctets 12) key)).freeTick
          (s.storeImpSeq c (leAt b 12 4)).ksuDone ksuOk
  | none, _ => s.importRefused ksuNoRoot
  | some _, none => s.importRefused ksuBadSig

/-- The helper block of a response and 30 messages (R321). -/
def helperBlock (response ms : List Nat) : Octets :=
  let head := [octet 1, octet 30] ++ zeros 2 ++ pufCheck (pufKey (pufOctets ms)) ++ pufOffset response ms ++ zeros 48
  head ++ le 4 (crc32c head)

/-- Thirty random messages of the noise source (R323). -/
def State.freeMessages (s : State) : List Nat := (List.range 30).map (fun b => bits (leVal (s.freeOctets 169)) (45 * b) 45)

/-- OP = ENROLPUF (R323): the majority of the nine reads of the array as response, messages from the noise source, the helper copy to PST, and the root; or PUFWEAK where a
block has more than 24 bits that disagree. -/
def State.ksuEnrol (s : State) (reads : List Octets) : State :=
  let rs := reads.map pufBlocks
  if s.lcState != lcFactory || s.epoch != 0 then s.ksuDone ksuNotAllowed
  else if (List.range 30).any (fun b => decide (24 < pufUnsteady rs b)) then s.ksuDone ksuPufWeak
  else
    let ms := s.freeMessages
    ((s.freeTick.pstWords .ksu (recordWords 256 0x3D0000 (helperBlock ((List.range 30).map (pufMajority rs)) ms))).formRoot (pufKey (pufOctets ms))).ksuDone ksuOk

/-! ### Transition (R326, R327) -/

/-- A token refused (R326). -/
def State.tokenRefused (s : State) (r : Nat) : State := (s.ksuDone r).raise KSU_STATUS_TOKREJ

/-- The token's signature (R326): by the manufacturing key whose SHA-384 equals MFGH, or by the anchor. -/
def State.tokenSigned (s : State) (t : Octets) : Bool :=
  if octAt t 15 = 1 then
    padTo 48 (sha384 (slice t 64 49)) == s.otp.mfgh && ecdsaVerify 384 (slice t 64 49) (slice t 0 128) (slice t 128 96)
  else if octAt t 15 = 2 then
    match s.slot 0 with
    | some a => ecdsaVerify 256 a.key (slice t 0 128) (slice t 128 64)
    | none => false
  else false

/-- The checks of a token (R326): 0, or the result with which it is refused. -/
def State.tokenCheck (s : State) (t : Octets) : Nat :=
  let carry := leAt t 12 3
  let fromSt := octAt t 1
  let target := octAt t 2
  if !s.tokenSigned t then ksuBadSig
  else if octAt t 0 != 1 || fromSt != s.lcState || octAt t 3 != s.epoch || slice t 4 8 != padTo 8 s.otp.uid || bits carry 22 2 != 0 ||
      !allZero (slice t 49 15) || !allZero (slice t 113 15) || (octAt t 15 == 2 && !allZero (slice t 64 49)) then ksuBadField
  else if !stepAllowed s.epoch fromSt target || (octAt t 15 == 2 && fromSt != lcDeployed && fromSt != lcService) ||
      (target == lcRetired && carry != 0) then ksuNotAllowed
  else ksuOk

/-- The records named in CARRY that are valid (R327 step 4). -/
def State.carried (s : State) (c : KeyCache) (carry : Nat) : List Nat :=
  (List.range 22).filter (fun i => bit carry i && sealedValid c.kSeal s.epoch (s.sealedRecord i))

/-- The records that are free (R335). -/
def State.freeRecords (s : State) (c : KeyCache) : List Nat :=
  (List.range 22).filter (fun i => !sealedValid c.kSeal s.epoch (s.sealedRecord i))

/-- A record erased: VER as 0 first, then zeros (R327 step 7). -/
def State.eraseRecord (s : State) (o : Nat) : State := s.ksuWrite o (zeros 128)

/-- The records whose EPOCH is not the current epoch erased (R327 step 4). -/
def State.eraseStale (s : State) : State :=
  (List.range 22).foldl (fun s i => if octAt (s.sealedRecord i) 8 = s.epoch then s else s.eraseRecord (sealedAt i)) s

/-- Each carried record sealed under the new key into the lowest free record (R327 step 4). -/
def reseal (old new : KeyCache) (ep : Nat) : List Nat → List Nat → State → State
  | i :: is, j :: js, s =>
    let r := s.sealedRecord i
    let head := slice r 0 8 ++ [octet ep] ++ zeros 3
    let w := sealRecord new.kSeal head (s.freeOctets 12) (sealedKey old.kSeal r)
    reseal old new ep is js ((s.ksuWrite (sealedAt j) w).freeTick)
  | _, _, s => s

/-- The enrolment record of the new epoch (R339). -/
def State.enrolmentRecord (s : State) (t : Octets) (old new : KeyCache) (target : Nat) : Octets :=
  let q := padTo 33 (p256Public new.dDev)
  let ids := [octet s.lcState, octet target, octet (s.epoch + 1)]
  let kb := hkdf s.otp.uid (ecdhX old.dDev (slice t 16 33)) ([octet 0] ++ ascii "BIND") 32
  let bind := hmac kb (ascii "BIND" ++ padTo 8 s.otp.uid ++ ids ++ q)
  withAmac new.kAm ([octet 1, octet target, octet (s.epoch + 1), octet s.lcState] ++ padTo 8 s.otp.uid ++ q ++ zeros 3 ++ bind ++ zeros 4 ++
    slice t 16 33 ++ zeros 3)

/-- OP = TRANSITION, steps 1 to 5 (R327); the OTP entry follows as a command of its own. -/
def State.ksuTransition (s : State) : State :=
  let t := le 224 (s.rd KSU_TOKEN_TOKEN)
  let r := s.tokenCheck t
  if r != ksuOk then s.tokenRefused r
  else match s.ksu.cache with
    | none => s.ksuDone ksuNoRoot
    | some old =>
      let target := octAt t 2
      let new := deriveCache s.ksu.kPuf target (s.epoch + 1)
      let keep := s.carried old (leAt t 12 3)
      let room := s.freeRecords old
      let s := s.ksuWrite (enrolAt (s.epoch + 1)) (s.enrolmentRecord t old new target)
      if room.length < keep.length then (s.ksuDone ksuNoRoom).raise KSU_STATUS_NOROOM
      else
        let s := reseal old new (s.epoch + 1) keep room s.eraseStale
        ({ s with ksu := { s.ksu with commit := some target } }).wr KSU_CMDSTAT_BUSY 1

/-- The OTP entry of a transition programmed (R327 steps 6 to 8, before the system reset): the old epoch's records erased, slots and cache
zeroised. -/
def State.otpProgrammed (s : State) (target : Nat) : State :=
  let ep := s.epoch
  let s := { s with otp := { s.otp with log := kvSet s.otp.log ep (lcCode target) } }
  let s := (List.range 22).foldl (fun s i => if octAt (s.sealedRecord i) 8 = ep then s.eraseRecord (sealedAt i) else s) s
  let s := s.eraseRecord (enrolAt ep)
  let s := if target = lcRetired then s.pstWords .ksu (recordWords 256 0x3D0000 (zeros 1024)) else s
  { s with ksu := { s.ksu with slots := [], cache := none, kPuf := [], commit := none } }

/-- A KSU command (R338, R343): `key` is the KEY field; commands in deterministic context or from U mode fail with BADCTX, and while a transition
runs with BUSY. -/
def State.ksuCommand (s : State) (key : Nat) (commit user : Bool) (run : State → State) : State :=
  if key != 0x4B5E then s.raise KSU_STATUS_CTXREJ
  else if commit || user then (s.wr KSU_CMDSTAT_RESULT ksuBadCtx).raise KSU_STATUS_CTXREJ
  else if s.ksu.commit.isSome then s.wr KSU_CMDSTAT_RESULT ksuBusy
  else run s

/-! ### The crypto engine (R340 to R342) -/

abbrev cryOk : Nat := 0
abbrev cryAuthFail : Nat := 1
abbrev cryPolicy : Nat := 2
abbrev cryBadDesc : Nat := 3
abbrev cryEmpty : Nat := 4
abbrev cryPoison : Nat := 5
abbrev cryBusErr : Nat := 6
abbrev cryBadCtx : Nat := 7

/-- What a job writes when it ends: its result, and the octets for DST and for TAG. -/
structure CryOut where
  result : Nat
  dst : Octets
  tag : Octets
  slot : Option Octets

/-- A job that fails. -/
def cryFail (r : Nat) : CryOut := ⟨r, [], [], none⟩

/-- The octets at an address that a job may read: lane SRAM, PST or ACM (R341). -/
def State.cryRead (s : State) (a n : Nat) : Option Octets :=
  match s.region a n with
  | some (.staging, _) => none
  | some (r, o) => some (s.regionRead r o n)
  | none => none

/-- The lengths of the outputs of a job to DST and to TAG, by OP, SRCLEN and TLEN (R340). -/
def cryLengths (op n tl : Nat) : Nat × Nat :=
  if op = 1 ∨ op = 3 then (n, tl) else if op = 2 ∨ op = 4 then (n, 0) else if op = 5 ∨ op = 7 then (0, 32) else if op = 6 ∨ op = 8 then (0, 48)
  else (0, 0)

/-- The lengths of a nonce and a tag that a job accepts (R340). -/
def cryShape (op tl nl n : Nat) : Bool :=
  1 ≤ op && op ≤ 13 && n ≤ 2 ^ 28 &&
  (if op ≤ 2 then nl == 12 && 4 ≤ tl && tl ≤ 16
   else if op ≤ 4 then 7 ≤ nl && nl ≤ 13 && (tl == 0 || (4 ≤ tl && tl ≤ 16 && tl % 2 == 0))
   else true)

/-- The key types of a job (R340). -/
def cryType (op t : Nat) : Bool :=
  if op ≤ 4 then t == 1 || t == 2 else if op ≤ 10 then t == 3 || t == 4 else if op = 11 then t == 5 else if op = 12 then t == 6 else t == 7

/-- The slot operation of a job is held (R340). -/
def cryOps (op p : Nat) : Bool :=
  if op = 1 then bit p opMgmt else if op = 2 then bit p opMgmt || bit p opImgDec
  else if op ≤ 4 then bit p opLink || bit p opMgmt else if op ≤ 10 then bit p opMgmt
  else if op ≤ 12 then bit p opImgVer || bit p opMgmt else bit p opDerive

/-- The octets of a memory key: public keys by their first octet; of an AES or HMAC key the length is not stated, and is a free choice of two. -/
def State.memoryKeyLength (s : State) (op first : Nat) : Nat :=
  let pick := s.freeNat 1 == 0
  if op ≤ 4 then (if pick then 16 else 32) else if op ≤ 10 then (if pick then 32 else 48)
  else if op = 12 then (if first = 4 then 97 else 49) else (if first = 4 then 65 else 33)

/-- The key of a job that has started with the contents `held` of its slot: its octets, or the result with which the job fails (R333, R334, R340). -/
def State.cryKey (s : State) (d : Octets) (held : Option KeySlot) (user : Bool) : State × (Nat ⊕ Octets) :=
  let op := octAt d 0
  let sel := octAt d 1
  if op = 5 ∨ op = 6 then (s, .inr [])
  else if sel = 255 then
    if op = 13 then (s, .inl cryBadDesc)
    else match s.cryRead (leAt d 8 4) 1 with
      | none => (s, .inl cryBusErr)
      | some f => match s.cryRead (leAt d 8 4) (s.memoryKeyLength op (octAt f 0)) with
        | none => (s, .inl cryBusErr)
        | some k => (s.freeTick, .inr k)
  else if 31 < sel then (s, .inl cryBadDesc)
  else match held with
    | none => (s, .inl cryEmpty)
    | some k =>
      if !cryType op k.typ then (s, .inl cryBadDesc)
      else if cryOps op k.policy && bit k.policy (if user then ctxLaneU else ctxLane) then (s, .inr k.key)
      else (s.deny.raise CRY_STATUS_POLDENY, .inl cryPolicy)

/-- What a job computes from its key, nonce (or signature), additional data, source and the octets at TAGADDR (R340). -/
def cryCompute (op tl : Nat) (key nonce aad src tag : Octets) : CryOut :=
  if op = 1 then
    let ct := padTo src.length (gcmText key nonce src)
    ⟨cryOk, ct, (padTo 16 (gcmTag key nonce aad ct)).take tl, none⟩
  else if op = 2 then
    if (padTo 16 (gcmTag key nonce aad src)).take tl = tag then ⟨cryOk, padTo src.length (gcmText key nonce src), [], none⟩
    else cryFail cryAuthFail
  else if op = 3 then ⟨cryOk, padTo src.length (ccmText key nonce src), padTo tl (ccmTag tl key nonce aad src), none⟩
  else if op = 4 then
    let pt := padTo src.length (ccmText key nonce src)
    if padTo tl (ccmTag tl key nonce aad pt) = tag then ⟨cryOk, pt, [], none⟩ else cryFail cryAuthFail
  else if op = 5 then ⟨cryOk, [], sha256 src, none⟩
  else if op = 6 then ⟨cryOk, [], padTo 48 (sha384 src), none⟩
  else if op = 7 then ⟨cryOk, [], hmac key src, none⟩
  else if op = 8 then ⟨cryOk, [], padTo 48 (hmac384 key src), none⟩
  else if op = 9 then (if hmac key src = tag then ⟨cryOk, [], [], none⟩ else cryFail cryAuthFail)
  else if op = 10 then (if padTo 48 (hmac384 key src) = tag then ⟨cryOk, [], [], none⟩ else cryFail cryAuthFail)
  else if op = 11 then (if ecdsaVerify 256 key src nonce then ⟨cryOk, [], [], none⟩ else cryFail cryAuthFail)
  else if op = 12 then (if ecdsaVerify 384 key src nonce then ⟨cryOk, [], [], none⟩ else cryFail cryAuthFail)
  else ⟨cryOk, [], [], some (padTo 32 (ecdhX key nonce))⟩

/-- The octets a job reads at NADDR, AADADDR, SRCADDR and TAGADDR, by its OP (R340, R341). -/
def State.cryInputs (s : State) (d : Octets) : Option (Octets × Octets × Octets × Octets) :=
  let op := octAt d 0
  let get := fun (need : Bool) (a n : Nat) => if need && 0 < n then s.cryRead a n else some []
  let nLen := if op ≤ 4 then octAt d 3 else if op = 11 then 64 else if op = 12 then 96 else 0
  let tLen := if op = 2 ∨ op = 4 then octAt d 2 else if op = 9 then 32 else if op = 10 then 48 else 0
  match get true (leAt d 12 4) nLen, get (op ≤ 4) (leAt d 16 4) (leAt d 20 4), get (op != 13) (leAt d 24 4) (leAt d 28 4),
      get true (leAt d 36 4) tLen with
  | some a, some b, some c, some t => some (a, b, c, t)
  | _, _, _, _ => none

/-- Whether an output span lies in lane SRAM (R341). -/
def State.outFits (s : State) (a n : Nat) : Bool :=
  n == 0 || (match s.region a n with
    | some (.sram, _) => true
    | _ => false)

/-- A job evaluated (R340 to R342). `poison` says that a source word was read poisoned. The peer key of an ECDH job lies at KEYADDR. -/
def State.cryEval (s : State) (d : Octets) (held : Option KeySlot) (user poison : Bool) : State × CryOut :=
  let op := octAt d 0
  let n := leAt d 28 4
  let lens := cryLengths op n (octAt d 2)
  if !cryShape op (octAt d 2) (octAt d 3) n then (s, cryFail cryBadDesc)
  else if !s.outFits (leAt d 32 4) lens.1 || !s.outFits (leAt d 36 4) lens.2 then (s, cryFail cryBusErr)
  else match s.cryKey d held user with
    | (s, .inl r) => (s, cryFail r)
    | (s, .inr key) =>
      if poison then (s, cryFail cryPoison)
      else if op = 13 then
        match s.cryRead (leAt d 8 4) 1 with
        | none => (s, cryFail cryBusErr)
        | some f => match s.cryRead (leAt d 8 4) (if octAt f 0 = 4 then 65 else 33) with
          | none => (s, cryFail cryBusErr)
          | some peer =>
            if 31 < octAt d 4 || octAt d 4 == 0 || !policyGood 8 (leAt d 40 4) then (s, cryFail cryPolicy)
            else (s, cryCompute op 0 key peer [] [] [])
      else match s.cryInputs d with
        | none => (s, cryFail cryBusErr)
        | some (nonce, aad, src, tag) => (s, cryCompute op (octAt d 2) key nonce aad src tag)

/-- Octets of a job's output written to lane SRAM, zeros where the job failed (R342). -/
def State.cryWrite (s : State) (a n : Nat) (bs : Octets) (ok : Bool) : State :=
  match s.region a n with
  | some (.sram, o) => if n = 0 then s else s.sramWrite s.busLane o (if ok then padTo n bs else zeros n)
  | _ => s

/-- The job at the front of the queue starts, where it has not: it takes its descriptor and the contents of its slot as they stand (R334). -/
def State.cryStart (s : State) : State :=
  match s.cry with
  | [] => s
  | j :: rest =>
    if j.run.isSome then s
    else match s.region j.addr 64 with
      | some (.sram, o) =>
        let d := memRead (s.lane s.busLane).sram o 64
        let run := some (d, s.slot (octAt d 1))
        { s with cry := { j with run := run } :: rest }
      | _ => s

/-- The job at the front of the queue runs to its end (R342): outputs, then STAT. -/
def State.cryFinish (s : State) (poison : Bool) : State :=
  match s.cry with
  | [] => s
  | j :: rest =>
    let s := { s with cry := rest }
    match s.region j.addr 64, j.run with
    | some (.sram, o), some (d, held) =>
      let r := s.cryEval d held j.user poison
      let out := r.2
      let s := r.1
      let lens := cryLengths (octAt d 0) (leAt d 28 4) (octAt d 2)
      let ok := out.result == cryOk
      let s := (s.cryWrite (leAt d 32 4) lens.1 out.dst ok).cryWrite (leAt d 36 4) lens.2 out.tag ok
      let s := match out.slot with
        | some k => s.setSlot (octAt d 4) (some ⟨8, leAt d 40 4, 1, k⟩)
        | none => s
      let s := s.sramWrite s.busLane (o + 44) (le 4 (out.result + 256))
      let s := (s.count CRY_JOB_CNT_COUNT CRY_STATUS_CNTWRAP).raise CRY_STATUS_JOBDONE
      if ok then s else (s.count CRY_FAIL_CNT_COUNT CRY_STATUS_CNTWRAP).raise CRY_STATUS_FAIL
    | _, _ => ((s.count CRY_JOB_CNT_COUNT CRY_STATUS_CNTWRAP).count CRY_FAIL_CNT_COUNT CRY_STATUS_CNTWRAP).raise CRY_STATUS_FAIL

/-- The running job ends, and the next one starts (R342). -/
def State.cryComplete (s : State) (poison : Bool) : State := (s.cryFinish poison).cryStart

/-- A write of CRY_JOB (R342): the job is queued, or refused with QFULL, or in deterministic context with CTXREJ and STAT BADCTX. During a
transition no job is taken (R327). -/
def State.cryJob (s : State) (addr : Nat) (commit user : Bool) : State :=
  if commit then
    let s := s.raise CRY_STATUS_CTXREJ
    match s.region addr 64 with
    | some (.sram, o) => s.sramWrite s.busLane (o + 44) (le 4 (cryBadCtx + 256))
    | _ => s
  else if s.ksu.commit.isSome then s
  else if 8 ≤ s.cry.length then s.raise CRY_STATUS_QFULL
  else State.cryStart { s with cry := s.cry ++ [⟨addr, user, none⟩] }

end Sys2Proof.Machine
end

