-- ==== Sys2Proof/Machine/Launch.lean ====
section
/-!
DEFINITION. The Launch Unit (R132 to R147): the acceptance steps of an action, the inrush stagger, the day profiles and their walkers, the
retirement at a drain, and the bundles of a path.
-/
namespace Sys2Proof.Machine

/-! ### Action records (R133) -/

/-- An action as it is submitted: LAUNCH in ns, its fields, whether a field holds what R134 step 2 refuses, and TARGET as written. -/
structure RawAction where
  launch : Nat
  kind : Nat
  index : Nat
  level : Nat
  fade : Nat
  wave : Bool
  hc : Nat
  path : Nat
  stag : Bool
  zc : Bool
  tag : Nat
  bad : Bool
  target : Nat

/-- The fields of octets 8 to 14 of an action record, with a launch time in ns and the checks of R134 step 2. -/
def rawAction (launch : Nat) (timeBad : Bool) (r : Octets) : RawAction :=
  let target := leAt r 8 2
  let level := leAt r 10 2
  let fade := octAt r 12
  let flags := octAt r 13
  let tag := octAt r 14
  let kind := bits target 14 2
  let spare := if kind = 0 then bits target 11 3 else if kind = 1 then bits target 8 6 else bits target 0 14
  { launch := launch, kind := kind, index := if kind = 0 then bits target 0 11 else if kind = 1 then bits target 0 8 else 0,
    level := bits level 0 10, fade := bits fade 0 4, wave := bit flags 7, hc := bits flags 4 3, path := bits flags 2 2,
    stag := bit flags 1, zc := bit flags 0, tag := bits tag 0 5,
    bad := timeBad || kind == 3 || 1000 < bits level 0 10 || bits level 10 6 != 0 || spare != 0 || bits fade 4 4 != 0 || bits tag 5 3 != 0,
    target := target }

/-- A record as lane firmware commits it: LAUNCH is a TS64 whose NS must be below 10^9 (R133, R134). -/
def commitAction (r : Octets) : RawAction :=
  let t := leAt r 0 8
  rawAction (t / 2 ^ 30 * 1000000000 + t % 2 ^ 30) (decide (1000000000 ≤ t % 2 ^ 30)) r

/-- A profile entry: its launch time is DAYBASE + DOFS × 10 ms, and octets 4 to 7 must be 0 (R136). -/
def profileAction (dayBase : Nat) (r : Octets) : RawAction :=
  rawAction (dayBase + leAt r 0 4 * 10000000) (leAt r 4 4 != 0) r

/-! ### Acceptance (R134) -/

/-- LEAD of a path in 10 ms units: radio, PLC, or the larger of the two for PATH 2 (R134 step 6, R140). -/
def State.leadOf (s : State) (path : Nat) : Nat :=
  let rf := s.rd LNU_LEAD_RF_LEAD
  let plc := s.rd LNU_LEAD_PLC_LEAD
  if path = 0 then rf else if path = 1 then plc else max rf plc

/-- A rejection: counted, flagged and kept in LNU_REJ_LAST with its reason (R134). -/
def State.lnuReject (s : State) (k reason origin target : Nat) : State :=
  let s := (s.count LNU_REJ_CNT_COUNT LNU_STATUS_CNTWRAP).raise LNU_STATUS_REJ
  (((s.wr LNU_REJ_LAST_CIDX k).wr LNU_REJ_LAST_REASON reason).wr LNU_REJ_LAST_ORIGIN origin).wr LNU_REJ_LAST_TARGET target

/-- The launch queue replaced, with USED and PEAK (R147). -/
def State.setQueue (s : State) (q : List Action) : State :=
  ({ s with lnu := { s.lnu with queue := q } }.wr LNU_QSTAT_USED q.length).peak LNU_QSTAT_PEAK q.length

/-- The order of the queue: ascending (LAUNCH, ASEQ) (R135). -/
def actionLt (a b : Action) : Bool := a.launch < b.launch || (a.launch == b.launch && a.aseq < b.aseq)

/-- AMAX = floor(8,192 × P_ms / 1,000) (R134 step 7). -/
def State.amax (s : State) : Nat := 8192 * (s.P / 1000000) / 1000

/-- The home radio of a lantern: false RF-A, true RF-B (R140, LNU_HOME). -/
def State.homeB (s : State) (n : Nat) : Bool := bit (s.rd (LNU_HOME_HOME (n / 32))) (n % 32)

/-- What becomes of a submitted action at the steps 6 to 9: queued, rejected, or stopped by the quota or the full queue. -/
inductive Taken where
  | queued
  | rejected
  | stopped
deriving DecidableEq

/-- The action was stopped. -/
def Taken.isStopped : Taken → Bool
  | .stopped => true
  | .queued => false
  | .rejected => false

/-- Steps 6 to 9 of R134 for one action (after expansion). `stops` says that steps 7 and 8 stop the action rather than reject it (R138). -/
def State.enqueue (s : State) (k origin : Nat) (stops : Bool) (a : Action) (target : Nat) : State × Taken :=
  if a.launch * 10000000 < (k + 1) * s.P + 2 * s.H + s.leadOf a.path * 10000000 then (s.lnuReject k 1 origin target, .rejected)
  else if s.amax ≤ s.lnu.queuedNow then (if stops then (s, .stopped) else (s.lnuReject k 3 origin target, .rejected))
  else if 8192 ≤ s.lnu.queue.length then (if stops then (s, .stopped) else (s.lnuReject k 2 origin target, .rejected))
  else
    let a := { a with
      aseq := s.rd LNU_ACC_CNT_COUNT, origin := origin,
      dueA := a.path != 1 && (a.kind != 0 || !s.homeB a.index),
      dueB := a.path != 1 && (a.kind != 0 || s.homeB a.index),
      dueP := a.path != 0 }
    let s := (s.count LNU_ACC_CNT_COUNT LNU_STATUS_CNTWRAP).setQueue (insertBy actionLt a s.lnu.queue)
    ({ s with lnu := { s.lnu with queuedNow := s.lnu.queuedNow + 1 } }, .queued)

/-! ### Inrush stagger (R139) -/

/-- The load of the three phases in one slot of the table of an expanded action. -/
structure Load where
  l1 : Nat
  l2 : Nat
  l3 : Nat

/-- The load that counts for a group of a phase: its own, or the greatest of the three for a mixed group. -/
def Load.on (x : Load) (ph : Nat) : Nat :=
  if ph = 0 then x.l1 else if ph = 1 then x.l2 else if ph = 2 then x.l3 else max x.l1 (max x.l2 x.l3)

/-- A group's inrush added to its phase, or in full to each phase for a mixed group. -/
def Load.add (x : Load) (ph inr : Nat) : Load :=
  if ph = 0 then { x with l1 := x.l1 + inr } else if ph = 1 then { x with l2 := x.l2 + inr }
  else if ph = 2 then { x with l3 := x.l3 + inr } else ⟨x.l1 + inr, x.l2 + inr, x.l3 + inr⟩

/-- The lowest slot from `i` whose load with the group stays within IMAX. -/
def fitSlot (ph inr imax : Nat) : List Load → Nat → Option Nat
  | [], _ => none
  | x :: t, i => if x.on ph + inr ≤ imax then some i else fitSlot ph inr imax t (i + 1)

/-- The slot with the least load, the lowest on a tie, given the best so far. -/
def leastSlot (ph : Nat) : List Load → Nat → Nat → Nat → Nat
  | [], _, best, _ => best
  | x :: t, i, best, load => if x.on ph < load then leastSlot ph t (i + 1) i (x.on ph) else leastSlot ph t (i + 1) best load

/-- The groups placed one after another: (group, slot) pairs and whether one was placed over IMAX. -/
def placeGroups (s : State) (imax : Nat) : List Nat → List Load → List (Nat × Nat) × Bool
  | [], _ => ([], false)
  | g :: gs, tab =>
    let inr := s.rd (LNU_GRP_INR g)
    let ph := s.rd (LNU_GRP_PH g)
    let fit := if inr = 0 then some 0 else fitSlot ph inr imax tab 0
    let slot := match fit with
      | some i => i
      | none => leastSlot ph tab 0 0 ((nth ⟨0, 0, 0⟩ tab 0).on ph)
    let r := placeGroups s imax gs (updNth (fun x => x.add ph inr) tab slot)
    ((g, slot) :: r.1, fit.isNone || r.2)

/-- The groups an action is expanded into: its own for KIND 1, every group with INR above 0 for KIND 2 (R139). -/
def State.staggerGroups (s : State) (r : RawAction) : List Nat :=
  if r.kind = 1 then [r.index] else (List.range 256).filter (fun g => 0 < s.rd (LNU_GRP_INR g))

/-! ### Submission (R134) -/

/-- A raw action as a queue entry with launch time `u` in 10 ms units and path `p`. -/
def RawAction.entry (r : RawAction) (u p : Nat) : Action :=
  ⟨u, r.kind, r.index, r.level, r.fade, r.hc, r.zc, r.tag, p, 0, 0, false, false, false⟩

/-- The actions, with their TARGET, that steps 3 to 5 of R134 make of a submitted one, and the flags those steps set. -/
def State.resolve (s : State) (r : RawAction) : State × List (Action × Nat) :=
  let u := ceilDiv r.launch 10000000
  let s := s.raiseIf (r.launch % 10000000 != 0) LNU_STATUS_RNDUP
  let u := if r.wave then ((u : Int) + s.rdI LNU_WAVE_OFS).toNat else u
  let pd := s.rd LNU_CTRL_PATHDEF
  let p := if r.path = 3 then (if pd = 3 then 2 else pd) else r.path
  if r.stag && s.on LNU_CTRL_STAG_EN && (r.kind == 1 || r.kind == 2) then
    let pl := placeGroups s (s.rd LNU_STAG_IMAX) (s.staggerGroups r) (List.replicate 64 ⟨0, 0, 0⟩)
    (s.raiseIf pl.2 LNU_STATUS_STAGOVF,
      pl.1.map (fun g => ({ r.entry (u + g.2 / 8 * 10) p with kind := 1, index := g.1, zc := true, hc := g.2 % 8 }, 0x4000 + g.1)))
  else (s, [(r.entry u p, r.target)])

/-- The resulting actions submitted one after another from place `i`; those before `from'` are passed over (R138). The answer says at which place
step 7 or 8 stopped. -/
def submitEach (k origin : Nat) (stops : Bool) (from' : Nat) : List (Action × Nat) → Nat → State → State × Option Nat
  | [], _, s => (s, none)
  | (a, t) :: rest, i, s =>
    if i < from' then submitEach k origin stops from' rest (i + 1) s
    else
      let q := s.enqueue k origin stops a t
      if q.2.isStopped then (q.1, some i) else submitEach k origin stops from' rest (i + 1) q.1

/-- An action submitted at the drain of Crease `k` (R134). `stops` and `from'` serve the release of profile entries (R138). -/
def State.submit (s : State) (k origin : Nat) (stops : Bool) (from' : Nat) (r : RawAction) : State × Option Nat :=
  if !s.on LNU_CTRL_EN then (s.lnuReject k 5 origin r.target, none)
  else if r.bad then (s.lnuReject k 4 origin r.target, none)
  else
    let q := s.resolve r
    submitEach k origin stops from' q.2 0 q.1

/-! ### Day profiles (R136 to R138) -/

/-- The walker of a day slot. -/
def LaunchState.day (u : LaunchState) (n : Nat) : Walker := if n = 0 then u.day0 else u.day1

/-- A day slot's walker replaced. -/
def State.setDay (s : State) (n : Nat) (w : Walker) : State :=
  { s with lnu := if n = 0 then { s.lnu with day0 := w } else { s.lnu with day1 := w } }

/-- Entry `i` of a bank, zeros where none was stored (R136). -/
def State.profile (s : State) (bank i : Nat) : Octets := (kvFind s.lnu.bank (bank * 4096 + i)).getD (zeros 16)

/-- DAYBASE of a slot in ns (TS64 form, R147). -/
def State.dayBase (s : State) (n : Nat) : Nat :=
  let t := s.rd (LNU_DAY_DAYBASE n)
  t / 2 ^ 30 * 1000000000 + t % 2 ^ 30

/-- NENT of a bank; values above 4,096 act as 4,096. -/
def State.nEnt (s : State) (bank : Nat) : Nat := min 4096 (s.rd (LNU_BANK_N_NENT bank))

/-- The launch time in ns of entry `i` of a slot's bank (R136). -/
def State.entryTime (s : State) (n i : Nat) : Nat := s.dayBase n + leAt (s.profile (s.rd (LNU_DAY_BANK n)) i) 0 4 * 10000000

/-- RH in ns: values below 100 act as 100 and above 6,000 as 6,000, in 10 ms units (R147). -/
def State.releaseHorizon (s : State) : Nat := clampN 100 6000 (s.rd LNU_REL_RH) * 10000000

/-- W_j of R137. -/
def State.window (s : State) (j : Nat) : Nat := (j + 1) * s.P + s.releaseHorizon

/-- The lowest entry from `i`, among `n` more, whose launch time is at least `from'` (R137). -/
def State.firstEntry (s : State) (slot from' : Nat) : Nat → Nat → Nat
  | 0, i => i
  | n + 1, i => if from' ≤ s.entryTime slot i then i else State.firstEntry s slot from' n (i + 1)

/-- The walker's passage over at most `fuel` entries at the drain of Crease `k`, up to the window end `stop` (R137, R138). The windows count as released once the passage
has not been stopped by step 7 or 8 of R134 (DEDUCED, notes/assumptions/52). -/
def walk (k slot stop : Nat) : Nat → Walker → State → State
  | 0, w, s => s.setDay slot { w with from' := stop }
  | fuel + 1, w, s =>
    let t := s.entryTime slot w.pos
    let bank := s.rd (LNU_DAY_BANK slot)
    if s.nEnt bank ≤ w.pos then s.setDay slot { w with from' := stop }
    else if 0 < w.pos && leAt (s.profile bank w.pos) 0 4 < leAt (s.profile bank (w.pos - 1)) 0 4 then
      walk k slot stop fuel { w with pos := w.pos + 1, held := 0 } (s.raise LNU_STATUS_PROFORD)
    else if stop ≤ t then s.setDay slot { w with from' := stop }
    else if t < w.from' then walk k slot stop fuel { w with pos := w.pos + 1, held := 0 } s
    else
      let q := s.submit k 1 true w.held (profileAction (s.dayBase slot) (s.profile bank w.pos))
      match q.2 with
      | some i => (q.1.raise LNU_STATUS_PROFDEF).setDay slot { w with held := i }
      | none => walk k slot stop fuel { w with pos := w.pos + 1, held := 0 } q.1

/-- The release of one day slot at the drain of Crease `k` (R137): windows start at j = k where they have not started. -/
def State.releaseSlot (s : State) (k slot : Nat) : State :=
  if !s.on (LNU_DAY_EN slot) then s
  else
    let w := s.lnu.day slot
    let w := if w.started then w else
      ⟨true, s.window k, s.firstEntry slot (s.window k) (s.nEnt (s.rd (LNU_DAY_BANK slot))) 0, 0⟩
    walk k slot (s.window (k + 1)) 4097 w s

/-- The steps 1 and 2 of a drain (R132): entries earlier than (k+1)·P + H are retired, and the day slots release. -/
def State.launchOpen (s : State) (k : Nat) : State :=
  let s := s.setQueue (s.lnu.queue.filter (fun a => !(decide (a.launch * 10000000 < (k + 1) * s.P + s.H))))
  let s := { s with lnu := { s.lnu with queuedNow := 0 } }
  (s.releaseSlot k 0).releaseSlot k 1

/-- A walker whose windows have not started. -/
def walker0 : Walker := ⟨false, 0, 0, 0⟩

/-- The queue and the profile release state emptied at CRZ_CTRL.EN = 1 (R135). -/
def State.launchReset (s : State) : State :=
  let s := { s with lnu := { s.lnu with queue := [], day0 := walker0, day1 := walker0, queuedNow := 0 } }
  (s.wr LNU_QSTAT_USED 0).wr LNU_QSTAT_PEAK 0

/-- A committed write of LNU_PW_DATA3: the entry is stored and ENTRY advances, from 4,095 to 0 (R136). -/
def State.storeProfile (s : State) (v : Nat) : State :=
  let i := s.rd LNU_PW_IDX_BANK * 4096 + s.rd LNU_PW_IDX_ENTRY
  ({ s with lnu := { s.lnu with bank := kvSet s.lnu.bank i (le 16 v) } }).wr LNU_PW_IDX_ENTRY (s.rd LNU_PW_IDX_ENTRY + 1)

/-- A committed write of a day slot's control word (R137): the windows start again when EN goes from 0 to 1 or BANK or DAYBASE changes. -/
def State.setDaySlot (s : State) (n v : Nat) : State :=
  let same := s.on (LNU_DAY_EN n) && bit v 95 && s.rd (LNU_DAY_BANK n) == bits v 64 2 && s.rd (LNU_DAY_DAYBASE n) == bits v 0 64
  let s := ((s.wr (LNU_DAY_EN n) (bits v 95 1)).wr (LNU_DAY_BANK n) (bits v 64 2)).wr (LNU_DAY_DAYBASE n) (bits v 0 64)
  if same then s else s.setDay n walker0

/-! ### Bundles (R140 to R142) -/

/-- Whether an action is still to be sent on a path. -/
def Action.due (a : Action) : Path → Bool
  | .rfa => a.dueA
  | .rfb => a.dueB
  | .plc => a.dueP

/-- An action that is no longer to be sent on a path. -/
def Action.settle (a : Action) : Path → Action
  | .rfa => { a with dueA := false }
  | .rfb => { a with dueB := false }
  | .plc => { a with dueP := false }

/-- LEAD and EARLY of a path in ns; EARLY below LEAD acts as LEAD (R140, R147). -/
def State.pathLead (s : State) (p : Path) : Nat :=
  (if p = .plc then s.rd LNU_LEAD_PLC_LEAD else s.rd LNU_LEAD_RF_LEAD) * 10000000
def State.pathEarly (s : State) (p : Path) : Nat :=
  max (s.pathLead p) ((if p = .plc then s.rd LNU_LEAD_PLC_EARLY else s.rd LNU_LEAD_RF_EARLY) * 10000000)

/-- An action whose deadline LAUNCH − LEAD has passed unsent on a path (R140, R142). -/
def State.missed (s : State) (p : Path) (a : Action) : Bool := a.due p && decide (a.launch * 10000000 < s.now + s.pathLead p)

/-- An action eligible on a path: from LAUNCH − EARLY to its deadline, and not yet sent on it (R140). -/
def State.eligible (s : State) (p : Path) (a : Action) : Bool :=
  a.due p && !s.missed p a && decide (a.launch * 10000000 ≤ s.now + s.pathEarly p)

/-- The actions taken in queue order: at most `n`, stopping at the first whose LAUNCH lies more than 1.27 s after the first's (R142). -/
def takeBundle (first : Nat) : Nat → List Action → List Action
  | 0, _ => []
  | _, [] => []
  | n + 1, a :: t => if first + 127 < a.launch then [] else a :: takeBundle first n t

/-- MOD of the power-line modem; 3 acts as 2 (R221). -/
def State.plcMod (s : State) : Nat := min 2 (s.rd PLM_CFG_MOD)

/-- The FCC band of the FSC-2048-NA (R194). -/
def State.plcFcc (s : State) : Bool := s.rd SYS_ID_VARIANT == 2

/-- The entry limit of a path's bundle (R141, R197). -/
def State.bundleLimit (s : State) : Path → Nat
  | .plc => if s.plcFcc then 31 else if s.plcMod = 0 then 10 else if s.plcMod = 1 then 26 else 31
  | _ => 20

/-- The answer to a bundle request on a path at this moment (R142). -/
def State.bundle (s : State) (p : Path) : List Action :=
  let es := s.lnu.queue.filter (s.eligible p)
  match es with
  | [] => []
  | a :: _ => takeBundle a.launch (s.bundleLimit p) es

/-- A bundle entry of 40 bits (R141). -/
def Action.entryBits (a : Action) (base : Nat) : Nat :=
  let tgt := if a.kind = 0 then a.index else if a.kind = 1 then 2 * 2 ^ 13 + a.index * 2 ^ 5 + a.tag else 3 * 2 ^ 13 + a.tag
  tgt * 2 ^ 25 + a.level * 2 ^ 15 + a.hc * 2 ^ 12 + b2n a.zc * 2 ^ 11 + a.fade * 2 ^ 7 + (a.launch - base)

/-- The payload of a bundle (R141). -/
def bundleOctets : List Action → Octets
  | [] => []
  | a :: t => [octet 0xB1, octet (a :: t).length] ++ le 5 a.launch ++ ((a :: t).map (fun x => le 5 (x.entryBits a.launch))).flatten

/-- The counter of actions sent on a path, and that of actions missed with its flag. -/
def pathSent : Path → Field
  | .rfa => LNU_SENT_RFA_COUNT
  | .rfb => LNU_SENT_RFB_COUNT
  | .plc => LNU_SENT_PLC_COUNT
def pathMiss : Path → Field
  | .rfa => LNU_MISS_RFA_COUNT
  | .rfb => LNU_MISS_RFB_COUNT
  | .plc => LNU_MISS_PLC_COUNT
def pathMissFlag : Path → Field
  | .rfa => LNU_STATUS_MISS_RFA
  | .rfb => LNU_STATUS_MISS_RFB
  | .plc => LNU_STATUS_MISS_PLC

/-- The actions of a bundle marked as sent on their path and counted (R142, R147). -/
def State.markSent (s : State) (p : Path) (b : List Action) : State :=
  let q := s.lnu.queue.map (fun a => if b.any (fun x => x.aseq == a.aseq && x.launch == a.launch) then a.settle p else a)
  ({ s with lnu := { s.lnu with queue := q } }).addCount (pathSent p) b.length LNU_STATUS_CNTWRAP

/-- Every action whose deadline has passed unsent dropped from a path, counted and flagged (R142). -/
def State.dropMissed (s : State) (p : Path) : State :=
  let n := (s.lnu.queue.filter (s.missed p)).length
  if n = 0 then s
  else (({ s with lnu := { s.lnu with queue := s.lnu.queue.map (fun a => if s.missed p a then a.settle p else a) } }).addCount
    (pathMiss p) n LNU_STATUS_CNTWRAP).raise (pathMissFlag p)

/-- The write lock of the Launch Unit's registers (R147). -/
def State.lnuLocked (s : State) (a : Nat) : Bool :=
  let o := a % 0x10000
  s.crzOn && 0x40040000 ≤ a && (o == 0 || (0x10 ≤ o && o < 0x24) || (0x400 ≤ o && o < 0x900))

end Sys2Proof.Machine
end

