-- ==== Sys2Proof/Machine/Link.lean ====
section
/-!
DEFINITION. What the radios and the power-line modem share: the output guards (R396), secured frames by CCM* (R174, R175) and the bundle of the Launch Unit
with its guards.
-/
namespace Sys2Proof.Machine

/-! ### Output guards (R396, R408) -/

/-- A guard acts: SAF_GUARD_CNT, GUARD and a KIND 0x05 event with its source (1 queue entry, 2 bundle, 3 RFM, 4 PLM). -/
def State.guard (s : State) (source : Nat) : State :=
  ((s.count SAF_GUARD_CNT_COUNT SAF_STATUS_CNTWRAP).raise SAF_STATUS_GUARD).post (s.event 68 0 0x05 [octet source] s.tb.now)

/-- A launch-queue entry with an uncorrected error is dropped from every path (R396). -/
def State.guardEntry (s : State) (i : Option Nat) : State :=
  match i with
  | some i => if i < s.lnu.queue.length then
      { s with lnu := { s.lnu with queue := updNth (fun a => { a with dueA := false, dueB := false, dueP := false }) s.lnu.queue i } }.guard 1 else s
  | none => s

/-- The bundle of a path under its guards: an entry in error leaves first, and a mismatch of the builders makes the answer empty (R142, R396). -/
def State.askBundle (s : State) (p : Path) (g : GuardMeet) : State × List Action :=
  let s := s.guardEntry g.entry
  if g.bundle && !(s.bundle p).isEmpty then (s.guard 2, []) else (s, s.bundle p)

/-! ### CCM* (R175) -/

/-- The nonce: the source identifier, the frame counter and the security level, each most significant octet first (R175). -/
def ccmNonce (pan short fc level : Nat) : Octets := zeros 4 ++ be 2 pan ++ be 2 short ++ be 4 fc ++ [octet level]

/-- The auxiliary security header (R175): security control, frame counter and key index. -/
def auxHeader (control fc index : Nat) : Octets := octet control :: le 4 fc ++ [octet index]

/-- A frame secured at level 5: header, auxiliary header, encrypted payload and MIC-32 (R174, R175). -/
def secured5 (key nonce head aux payload : Octets) : Octets :=
  head ++ aux ++ padTo payload.length (ccmText key nonce payload) ++ padTo 4 (ccmTag 4 key nonce (head ++ aux) payload)

/-- A frame secured at level 1: header, auxiliary header, payload and MIC-32. -/
def secured1 (key nonce head aux payload : Octets) : Octets :=
  head ++ aux ++ payload ++ padTo 4 (ccmTag 4 key nonce (head ++ aux ++ payload) [])

/-- The payload of a level 5 frame of which `n` octets are header and auxiliary header, if its MIC verifies. -/
def opened5 (key nonce f : Octets) (n : Nat) : Option Octets :=
  let ct := (f.drop n).take (f.length - n - 4)
  let pt := padTo ct.length (ccmText key nonce ct)
  if padTo 4 (ccmTag 4 key nonce (f.take n) pt) = f.drop (f.length - 4) then some pt else none

/-- The payload of a level 1 frame of which `n` octets are header and auxiliary header, if its MIC verifies. -/
def opened1 (key nonce f : Octets) (n : Nat) : Option Octets :=
  let body := f.take (f.length - 4)
  if padTo 4 (ccmTag 4 key nonce body []) = f.drop (f.length - 4) then some (body.drop n) else none

end Sys2Proof.Machine
end

