-- ==== Sys2Proof/Machine/TimeBase.lean ====
section
/-!
DEFINITION. The Time Base (R34 to R57, R423): the counter, the slew, steps at snapshot boundaries, the servo and its states, the
timers, the status events, and the closure summary of a Crease (R79).
-/
namespace Sys2Proof.Machine

/-! ### The counter (R35, R36) -/

/-- The nearest increment within ±1,000 ppm of nominal (R36). -/
def clampInc (v : Int) : Int := clampI 0x3FEF9DB23 0x4010624DD v

/-- INC_BASE, an 8.32 number of ns (R60). -/
def State.incBase (s : State) : Nat := s.rd TB_INC_BASE_INT * 4294967296 + s.rd TB_INC_BASE_FRAC

/-- INC_BASE + I before the clamp. -/
def State.incRaw (s : State) : Int := (s.incBase : Int) + s.rdI TB_INTEG_I

/-- clamp(INC_BASE + I): the increment without slew, which TB_INC_FREQ reads (R35, R60). -/
def State.incFreq (s : State) : Int := clampInc s.incRaw

/-- INCCLAMP set where INC_BASE + I lies outside the range (R36). -/
def State.flagClamp (s : State) : State := s.raiseIf (s.incFreq != s.incRaw) TB_STATUS_INCCLAMP

/-- LIM, the most by which the slew changes the counter in a cycle (R52). -/
def State.slewLim (s : State) : Nat := s.rd TB_SLEW_LIM_LIM

/-- The slew made in `n` cycles: S held within ±n·LIM (R52). -/
def slewSum (S : Int) (lim n : Nat) : Int := clampI (-((n * lim : Nat) : Int)) ((n * lim : Nat) : Int) S

/-- What `n` cycles add to the counter, in 2^-32 ns (R35). -/
def State.advance (s : State) (n : Nat) : Int := s.incFreq * n + slewSum s.tb.slew s.slewLim n

/-- The counter `n` cycles on, in 2^-32 ns, before SEC wraps. -/
def State.unitsAfter (s : State) (n : Nat) : Nat := ((unitsOf s.tb.now : Int) + s.advance n).toNat

/-- PPS_OUT after `n` cycles: it rises when NS returns to 0 by counting and falls when NS reaches 100,000,000 (R423). -/
def State.ppsAfter (s : State) (n : Nat) : Bool :=
  let a := unitsOf s.tb.now / 4294967296
  let b := s.unitsAfter n / 4294967296
  if a / 1000000000 < b / 1000000000 then b % 1000000000 < 100000000
  else s.tb.pps && !(a % 1000000000 < 100000000 && 100000000 ≤ b % 1000000000)

/-- `n` TB_CLK cycles of a stalled intake, counted in fabric cycles: 8 to 5 TB_CLK cycles (R20, R76). -/
def State.stallTick (s : State) (n : Nat) : State :=
  match s.crz.stalled with
  | none => s
  | some _ =>
    let t := s.crz.stallRem + 8 * n
    ({ s with crz := { s.crz with stallRem := t % 5 } }).addCount CRZ_STALL_CNT_COUNT (t / 5) CRZ_STATUS_CNTWRAP

/-! ### Replicas (R38, R39, R41) -/

/-- The replicas of network time, numbered as `drift` lists them (R41): receive and transmit of the ports, the pole bus, the radios, and the power line
with Reflect. -/
abbrev repRx (port : Nat) : Nat := port
abbrev repTx (port : Nat) : Nat := 2 + port
abbrev repPole : Nat := 4
abbrev repRadio (r : Nat) : Nat := 5 + r
abbrev repPlc : Nat := 7

/-- How far a replica may stand from the counter, in 2^-32 ns (R39, R41): 120 ps for a backhaul port, and half a cycle of its own clock for the others: 40 ns
of the pole bus, 31.25 ns of a radio, 15.625 ns of the power line. -/
def driftBound (d : Nat) : Nat :=
  if d < repPole then 515396075 else if d = repPole then 85899345920 else if d < repPlc then 67108864000 else 33554432000

/-- A number brought within ±`b`. -/
def centred (b v : Nat) : Int := ((v % (2 * b + 1) : Nat) : Int) - (b : Int)

/-- The replicas as they stand after some cycles: each at the counter, less or more a free amount within its bound (R41, notes/assumptions/16). -/
def State.redrift (s : State) : State :=
  { s with
    freeCount := s.freeCount + 8,
    tb := { s.tb with drift := (List.range 8).map (fun d => centred (driftBound d) (Config.freeValue (s.freeCount + d)).toNat) } }

/-- The network time that a replica holds (R41): a step takes effect in it as in the counter. -/
def State.replica (s : State) (d : Nat) : Time := timeOfUnits ((unitsOf s.tb.now : Int) + nth 0 s.tb.drift d).toNat

/-- `n` TB_CLK cycles (R35, R41, R52 to R54, R423): the counter and its replicas, the remaining slew, the cycles counted by the timers, and PPS_OUT. -/
def State.tick (s : State) (n : Nat) : State :=
  if n = 0 then s
  else
    (({ s with cycles := s.cycles + n, tb := { s.tb with
        now := timeOfUnits (s.unitsAfter n), before := nsOf (timeOfUnits (s.unitsAfter (n - 1))),
        slew := s.tb.slew - slewSum s.tb.slew s.slewLim n, fresh := false, phase := s.tb.phase + n,
        quiet := s.tb.quiet + n, hold := s.tb.hold + n, was := s.rd TB_STATUS_STATE,
        follow := s.tb.follow.map (fun (f : TwoStep) => { f with waited := f.waited + n }), pps := s.ppsAfter n } }).redrift).flagClamp.stallTick n

/-! ### States and status events (R53, R55, R79) -/

abbrev tbFreerun : Nat := 0
abbrev tbAcquiring : Nat := 1
abbrev tbLocked : Nat := 2
abbrev tbHoldover : Nat := 3

/-- A status event of the Time Base posted through DCQ 14 (R55). -/
def State.postTb (s : State) (kind : Nat) (p : Octets) : State := s.postDcq 14 (s.event 64 0 kind p s.tb.now)

/-- The last o as the status events carry it: TB_OFFSET, 8 octets. -/
def State.lastO (s : State) : Octets := le 8 (s.rd TB_OFFSET_O)

/-- The stretch in which the state was not LOCKED, kept as LOCKED begins, or begun as it ends (R56). -/
def State.markLock (s : State) (old new : Nat) : State :=
  if new = tbLocked then
    match s.tb.loose with
    | some f => { s with tb := { s.tb with loose := none, spans := if s.crzOn then s.tb.spans ++ [(f, s.now)] else s.tb.spans } }
    | none => s
  else if old = tbLocked then { s with tb := { s.tb with loose := s.tb.loose.orElse (fun _ => some s.now) } }
  else s

/-- A state change: STCHG and a KIND 0x01 event (R53, R55, R79); `hold` counts from the entry to HOLDOVER, and the consecutive samples
are counted anew at an entry to ACQUIRING. -/
def State.setTb (s : State) (new : Nat) : State :=
  let old := s.rd TB_STATUS_STATE
  if old = new then s
  else
    let s := ((s.wr TB_STATUS_STATE new).raise TB_STATUS_STCHG).markLock old new
    let s := { s with tb := { s.tb with
      hold := if new = tbHoldover then 0 else s.tb.hold, inBound := if new = tbAcquiring then 0 else s.tb.inBound, outBound := 0 } }
    s.postTb 1 ([octet new, octet old, octet 0, octet 0] ++ s.lastO)

/-! ### Steps (R37) -/

/-- A step requested: it replaces one still pending (R37). -/
def State.requestStep (s : State) (q : StepRequest) : State := { s with tb := { s.tb with step := some q, fresh := true } }

/-- The counter after a step. -/
def stepTarget (t : Time) : StepRequest → Time
  | .add d => timeOfUnits (((unitsOf t : Int) + d * 65536) % (18446744073709551616 * 1000000000 * 4294967296 : Nat)).toNat
  | .load v => v

/-- The signed change a KIND 0x02 event carries: 2^-16 ns, saturating (R79). -/
def stepChange (t : Time) : StepRequest → Int
  | .add d => clampI (-(2 ^ 63)) (2 ^ 63 - 1) d
  | .load v => clampI (-(2 ^ 63)) (2 ^ 63 - 1) (truncDiv ((unitsOf v : Int) - unitsOf t) 65536)

/-- A step from `old` to `new` seen by the Sequencer: the next batch carries STEP, a step past the closure of more than 64 Creases lets
those without a bin be skipped (R77), and a stall goes on at the new time. -/
def State.crzStepped (s : State) (old new : Nat) : State :=
  if !s.crzOn then s
  else
    let last := (new - s.H) / s.P
    { s with crz := { s.crz with
        stepped := true, skipTo := if s.H ≤ new && decide (s.crz.oldest + 64 < last) then max s.crz.skipTo last else s.crz.skipTo,
        late := s.crz.late.map (fun x => { x with before := min x.before new }),
        stalled := s.crz.stalled.map (fun p => (p.1, new)),
        stalls := s.crz.stalls ++ (match s.crz.stalled with
          | some p => [(p.2, old)]
          | none => []) } }

/-- The stretches around a step in which the state was not LOCKED: the point it leaves, and for a step backward all since the state
was last LOCKED (R56, R77). -/
def State.markStep (s : State) (old new : Nat) : State :=
  let f := match s.tb.loose with
    | some f => f
    | none => old
  { s with tb := { s.tb with
    loose := some (if new < old then new else f),
    spans := if s.crzOn then s.tb.spans ++ [(f, old)] else s.tb.spans,
    steps := if s.crzOn then s.tb.steps ++ [old] else s.tb.steps } }

/-- A step made (R37): the counter, STEPPED, the state, the KIND 0x02 event, the end of a PPS_OUT pulse (R423), and what the
Sequencer sees of it. -/
def State.makeStep (s : State) (q : StepRequest) : State :=
  let old := s.now
  let new := stepTarget s.tb.now q
  let change := stepChange s.tb.now q
  let s := s.markStep old (nsOf new)
  let s := { s with tb := { s.tb with now := new, before := old, step := none, pps := false } }
  let s := s.raise TB_STATUS_STEPPED
  let s := match q with
    | .add _ => if s.on TB_CTRL_SERVO_EN then s.setTb tbAcquiring else s
    | .load _ => s
  let s := s.postTb 2 ([octet (s.rd TB_STATUS_STATE), octet 0, octet 0, octet 0] ++ le 8 (unsigned 64 change))
  s.crzStepped old (nsOf new)

/-- A snapshot boundary (R41): due every 1,024 cycles; a step requested in an earlier cycle takes effect (R37). -/
def State.boundary (s : State) : State :=
  if s.tb.phase < 1024 then s
  else
    let s := { s with tb := { s.tb with phase := s.tb.phase % 1024 } }
    match s.tb.step with
    | some q => if s.tb.fresh then s else s.makeStep q
    | none => s

/-- A write of TB_SET (R37): ignored with SETREJ while SERVO_EN is 1 or if NS exceeds 999,999,999. -/
def State.setTime (s : State) (t : Time) : State :=
  if s.on TB_CTRL_SERVO_EN || decide (999999999 < t.ns) then s.raise TB_STATUS_SETREJ else s.requestStep (.load t)

/-! ### The servo (R52 to R54) -/

/-- A threshold in ns compared with |o| in 2^-16 ns. -/
def above (mag thr : Nat) : Bool := thr * 65536 < mag

/-- A sample counted for the closure summary of the Crease it falls in (R55, R79). -/
def State.noteSample (s : State) (mag : Nat) (out : Bool) : State :=
  { s with tb := { s.tb with quiet := 0, samples := if s.crzOn then s.tb.samples ++ [⟨s.now, mag, out⟩] else s.tb.samples } }

/-- I after a sample: I − trunc(KI × o / 2^16), held so that INC_BASE + I stays within the limits (R36, R52). -/
def State.integrate (s : State) (o : Int) : State :=
  let i := s.rdI TB_INTEG_I - truncDiv ((s.rd TB_GAIN_KI : Int) * o) 65536
  let held := clampInc ((s.incBase : Int) + i) - s.incBase
  let q := (s.raiseIf (held != i) TB_STATUS_INCCLAMP).fit 32 held
  q.1.wrI TB_INTEG_I q.2

/-- The states a sample leads to, which is in bound, out of bound, or neither (R53). -/
def State.judge (s : State) (inb out : Bool) : State :=
  let st := s.rd TB_STATUS_STATE
  if st = tbLocked then
    let n := if out then s.tb.outBound + 1 else 0
    let s := { s with tb := { s.tb with outBound := n } }
    if 2 ≤ n then s.setTb tbAcquiring else s
  else
    let s := if st = tbAcquiring then s else s.setTb tbAcquiring
    let n := if inb then s.tb.inBound + 1 else 0
    let s := { s with tb := { s.tb with inBound := n } }
    if max 1 (s.rd TB_LOCK_CFG_LOCK_N) ≤ n then s.setTb tbLocked else s

/-- The servo acts on a valid sample o (R52, R53): a step by −o, which counts as a sample out of bound, or the new I and S. -/
def State.servo (s : State) (o : Int) : State :=
  if !s.on TB_CTRL_SERVO_EN then s
  else
    let mag := o.natAbs
    let out := above mag (s.rd TB_LOCK_CFG_UNLOCK_THR)
    let s := s.noteSample mag out
    if s.on TB_CTRL_STEP_EN && above mag (s.rd TB_STEP_THR_THR) then
      ({ s with tb := { s.tb with slew := 0 } }.requestStep (.add (-o))).judge false true
    else
      let s := s.integrate o
      { s with tb := { s.tb with slew := -((s.rd TB_GAIN_KP : Int) * o * 256) } }.judge (!above mag (s.rd TB_LOCK_CFG_LOCK_THR)) out

/-- A sample of the extractor (R49): o to TB_OFFSET, TB_SYNC_CNT counted, and o passed to the servo. An o outside its 64-bit format is a
free value. -/
def State.sample (s : State) (o : Int) : State :=
  let q := s.fit 64 o
  ((q.1.wrI TB_OFFSET_O q.2).count TB_SYNC_CNT_COUNT TB_STATUS_SYNCWRAP).servo q.2

/-- A write of SERVO_EN = 0 (R53): FREERUN, with I and INC_BASE kept and S cleared. -/
def State.servoOff (s : State) : State := { s with tb := { s.tb with slew := 0 } }.setTb tbFreerun

/-- 2^LOG s in TB_CLK cycles; LOG outside −7 to +1 acts as the nearer limit (R54, R60). -/
def State.syncCycles (s : State) : Nat := 1953125 * 2 ^ (clampI (-7) 1 (s.rdI TB_SYNC_CFG_LOG) + 7).toNat

/-- The cycles without a valid sample after which the Sync timeout expires (R54). -/
def State.syncLimit (s : State) : Nat := max 1 (s.rd TB_SYNC_CFG_TOUT_N) * s.syncCycles

/-- A two-step Sync stamped in the cycle in which the Sync timeout expired still waits for its Follow_Up (R54). -/
def State.syncAwaited (s : State) : Bool :=
  match s.tb.follow with
  | some f => f.waited + s.syncLimit == s.tb.quiet
  | none => false

/-- The Sync timeout (R53, R54): due after TOUT_N × 2^LOG s without a valid sample, in ACQUIRING and LOCKED with SERVO_EN = 1. It acts once the cycle in which
it expires is over, since a valid Sync stamped in that cycle is accepted (R26), also a two-step one whose Follow_Up is awaited (DEDUCED, notes/assumptions/63). -/
def State.syncTimeout (s : State) : State :=
  let st := s.rd TB_STATUS_STATE
  if s.on TB_CTRL_SERVO_EN && (st == tbAcquiring || st == tbLocked) && decide (s.syncLimit < s.tb.quiet) && !s.syncAwaited
  then (s.raise TB_STATUS_SYNCLOSS).setTb (if st = tbLocked then tbHoldover else tbFreerun) else s

/-- The end of HOLDOVER, HOLD_MAX seconds of 250,000,000 cycles after its entry (R53, R54). -/
def State.holdoverExpiry (s : State) : State :=
  if s.rd TB_STATUS_STATE = tbHoldover ∧ s.rd TB_SYNC_CFG_HOLD_MAX * 250000000 ≤ s.tb.hold then s.setTb tbFreerun else s

/-- A two-step sample discarded: FUMISS, counted (R48). -/
def State.followMiss (s : State) : State :=
  match s.tb.follow with
  | none => s
  | some _ => (({ s with tb := { s.tb with follow := none } }).raise TB_STATUS_FUMISS).countSat TB_ERR_CNT_FUMISS_CNT TB_STATUS_ERRSAT

/-- The Follow_Up wait runs out: more than 2^LOG s have passed since its Sync (R48, R54). -/
def State.followTimeout (s : State) : State :=
  match s.tb.follow with
  | none => s
  | some f => if s.syncCycles < f.waited then s.followMiss else s

/-! ### The closure summary (R55, R56, R79) -/

/-- Whether the state was LOCKED throughout Crease `k`: no stretch without LOCKED meets it. -/
def State.lockedThrough (s : State) (k : Nat) : Bool :=
  let meets := fun (a b : Nat) => decide (a < (k + 1) * s.P) && decide (k * s.P ≤ b)
  (match s.tb.loose with
    | some f => decide ((k + 1) * s.P ≤ f)
    | none => true) && !s.tb.spans.any (fun p => meets p.1 p.2)

/-- The closure summary of Crease `k` (R79): channel 64, KIND 0x03, stamped (k+1)·P − 1 ns. Its STATE is that of C_k, the cycle before the seal can act. -/
def State.closureSummary (s : State) (k : Nat) : Event :=
  let own := s.tb.samples.filter (fun x => s.creaseOf x.at' == k)
  let clean := !own.any (·.out)
  let step := s.tb.steps.any (fun x => s.creaseOf x == k)
  let p := [octet s.tb.was, octet (b2n (s.lockedThrough k) + 2 * b2n clean + 4 * b2n step)] ++
    le 2 (min 65535 own.length) ++ le 8 (min (2 ^ 64 - 1) ((own.map (·.mag)).foldl max 0))
  s.event 64 0 3 p (timeOfNs ((k + 1) * s.P - 1))

/-- TBOK as a closure summary gives it: bit 0 AND bit 1 of octet 1 (R79). -/
def summaryOk (e : Event) : Bool := octAt e.payload 1 % 4 == 3

/-- What the closure summaries of Creases up to `k` needed, removed. -/
def State.pruneTb (s : State) (k : Nat) : State :=
  let keep := fun (t : Nat) => decide (k < s.creaseOf t)
  { s with tb := { s.tb with
      samples := s.tb.samples.filter (fun x => keep x.at'), steps := s.tb.steps.filter keep, spans := s.tb.spans.filter (fun p => keep p.2) } }

/-- The nominal latencies of a MODE, as TXLAT × 65,536 + RXLAT (R40). -/
def nominalLat (mode : Nat) : Nat := if mode = 1 then 1280 * 65536 + 3840 else 2560 * 65536 + 7200

/-- A port's latencies loaded from OTP for its MODE (R40). -/
def State.loadLat (s : State) (p : Nat) : State :=
  let m := s.rd (BHM_CTRL_MODE p) % 3
  let v := (kvFind s.otp.lat (3 * p + m)).getD (nominalLat m)
  if p = 0 then (s.wr TB_P0_LAT_TXLAT (v / 65536)).wr TB_P0_LAT_RXLAT v else (s.wr TB_P1_LAT_TXLAT (v / 65536)).wr TB_P1_LAT_RXLAT v

end Sys2Proof.Machine
end

