-- ==== Sys2Proof/Machine/Radio.lean ====
section
/-!
DEFINITION. The lantern radio link on RF-A (0) and RF-B (1) (R167 to R192): the slot grid and the map, the beacon, bundles and downlink frames, received
frames, expected contacts and lantern states, Darn calls, neighbours, wake settings, and start and stop.
-/
namespace Sys2Proof.Machine

/-! ### Radios (R190, R192) -/

/-- RUNST of a radio. -/
def rfRunst (r : Nat) : Field := if r = 0 then RFM_CTRL_RUNST_A else RFM_CTRL_RUNST_B

/-- A radio with nothing in progress that has never run. -/
def RadioState.init : RadioState := ⟨[], [], none, 0, 0, [], none, 0, 0, 0⟩

/-- The state of a radio. -/
def State.radio (s : State) (r : Nat) : RadioState := if r = 0 then s.rfm.rfA else s.rfm.rfB

/-- A change of a radio's state. -/
def State.onRadio (s : State) (r : Nat) (f : RadioState → RadioState) : State :=
  if r = 0 then { s with rfm := { s.rfm with rfA := f s.rfm.rfA } } else { s with rfm := { s.rfm with rfB := f s.rfm.rfB } }

/-- A radio that is running. -/
def State.rfRuns (s : State) (r : Nat) : Bool := s.rd (rfRunst r) == 1

/-- RATE of a radio. -/
def State.rfRate (s : State) (r : Nat) : Nat := s.rd (if r = 0 then RFM_RFA_CFG_RATE else RFM_RFB_CFG_RATE)

/-- SPAN: the slots of a cell (R168). -/
def State.span (s : State) (r : Nat) : Nat := match s.rfRate r with
  | 0 => 4
  | 3 => 1
  | _ => 2

/-- The time from the first preamble symbol to the end of the SFD in ns (R170). -/
def State.shrNs (s : State) (r : Nat) : Nat := match s.rfRate r with
  | 0 => 960000
  | 1 => 480000
  | 2 => 320000
  | _ => 240000

/-- The time of `n` octets on air in ns (R170): the SHR is 6 of them. -/
def State.airNs (s : State) (r n : Nat) : Nat := n * s.shrNs r / 6

/-- A superframe and a slot in ns (R169), and TX_OFS (R170). -/
def sfNs : Nat := 1280000000
def slotNs : Nat := 10000000
def txOfs : Nat := 1500000

/-- The RF baseband cycle of 31.25 ns that holds a time, and a time in ns (R26). -/
def rfCycle (t : Time) : Nat := unitsOf t * 4 / 536870912000
def rfCycleNs (t : Nat) : Nat := t * 4 / 125

/-- The present time is in a later RF baseband cycle than a time in ns: what comes in the cycle of that time is before its expiry (R26). -/
def State.rfPast (s : State) (t : Nat) : Bool := decide (rfCycleNs t < rfCycle s.tb.now)

/-- SFOFS of a radio in ns (R169). -/
def State.sfOfs (s : State) (r : Nat) : Nat := s.rd (if r = 0 then RFM_RFA_CFG_SFOFS else RFM_RFB_CFG_SFOFS) * slotNs

/-- The superframe and the slot of a radio at a time in ns (R169). -/
def State.sfAt (s : State) (r t : Nat) : Int := ((t : Int) - s.sfOfs r) / sfNs
def State.slotAt (s : State) (r t : Nat) : Nat := (((t : Int) - s.sfOfs r) % sfNs).toNat / slotNs

/-- The start of a slot of a superframe of a radio in ns; one before the epoch is held at the epoch. -/
def State.slotStart (s : State) (r : Nat) (f : Int) (slot : Nat) : Nat := (f * sfNs + s.sfOfs r + slot * slotNs).toNat

/-! ### The map (R171 to R173) -/

/-- The codes of a radio's 128 slots. -/
def State.mapCodes (s : State) (r : Nat) : List Nat :=
  (List.range 16).flatMap (fun w => (List.range 8).map (fun j => bits (s.rd (if r = 0 then RFM_MAP_A_CODE w else RFM_MAP_B_CODE w)) (4 * j) 4))

/-- The code of a slot in the superframe: a RESV slot of an absent neighbour acts as BUNDLE (R189). -/
def State.codeAt (s : State) (r slot : Nat) : Nat :=
  let c := nth 0 (s.mapCodes r) slot
  if 8 ≤ c ∧ bit (s.radio r).released (c - 8) then 2 else c

/-- The first slots of the cells that a map holds for a code, in slot order (R171): Darn windows start every 4 slots. -/
def State.cellsOf (s : State) (r code : Nat) : List Nat :=
  let n := if code = 5 then 4 else s.span r
  (List.range 128).filter (fun i => i % n == 0 && nth 0 (s.mapCodes r) i == code)

/-- Whether a map is rejected (R172). -/
def mapBad (m : List Nat) (span : Nat) : Bool :=
  let at' := fun i => nth 0 m i
  !(List.range span).all (fun i => at' i == 1) || (List.range 128).any (fun i => span ≤ i && at' i == 1) ||
  (List.range 128).any (fun i => at' i != at' (i / span * span)) ||
  (List.range 128).any (fun i => at' i == 5 && at' (i / 4 * 4) != 5) ||
  (List.range 128).any (fun i => at' i != 5 && at' (i / 4 * 4) == 5) ||
  64 < ((List.range 128).filter (fun i => i % span == 0 && at' i == 3)).length ||
  64 < ((List.range 128).filter (fun i => i % span == 0 && at' i == 4)).length ||
  4 < ((List.range 128).filter (fun i => i % 4 == 0 && at' i == 5)).length

/-- EN written 1 on a radio that is OFF (R172, R190): a rejected map leaves it OFF with MAPERR; MAPVER rises at a map unlike the previous run's. -/
def State.rfStart (s : State) (r : Nat) : State :=
  let m := s.mapCodes r
  if mapBad m (s.span r) then s.raise (if r = 0 then RFM_STATUS_MAPERR_A else RFM_STATUS_MAPERR_B)
  else
    let s := if (s.radio r).lastMap = some m then s
      else s.onRadio r (fun x => { x with lastMap := some m, mapVer := (x.mapVer + 1) % 256 })
    s.wr (rfRunst r) 3

/-! ### The lantern table (R183, R192) -/

/-- The register word 0 of a lantern's entry as last written. -/
def State.ltabWord (s : State) (n : Nat) : Nat :=
  s.rd (RFM_LTAB_W0_EN n) * 2 ^ 31 + s.rd (RFM_LTAB_W0_SLEEPY n) * 2 ^ 30 + s.rd (RFM_LTAB_W0_RELAYED n) * 2 ^ 29 + s.rd (RFM_LTAB_W0_RELAY n) * 2 ^ 28 +
  s.rd (RFM_LTAB_W0_CELL n) * 2 ^ 22 + s.rd (RFM_LTAB_W0_RCELL n) * 2 ^ 16 + s.rd (RFM_LTAB_W0_RP n) * 2 ^ 8 + s.rd (RFM_LTAB_W0_PH n)

/-- The word 0 in force. -/
def State.ltab (s : State) (n : Nat) : Nat := (kvFind s.rfm.inForce n).getD (s.ltabWord n)

/-- EN, SLEEPY, RELAYED, RELAY, CELL, RCELL, RP and PH in force. -/
def State.lEn (s : State) (n : Nat) : Bool := bit (s.ltab n) 31
def State.lSleepy (s : State) (n : Nat) : Bool := bit (s.ltab n) 30
def State.lRelayed (s : State) (n : Nat) : Bool := bit (s.ltab n) 29
def State.lRelay (s : State) (n : Nat) : Bool := bit (s.ltab n) 28
def State.lCell (s : State) (n : Nat) : Nat := bits (s.ltab n) 22 6
def State.lRcell (s : State) (n : Nat) : Nat := bits (s.ltab n) 16 6
def State.lRp (s : State) (n : Nat) : Nat := max 1 (bits (s.ltab n) 8 8)
def State.lPh (s : State) (n : Nat) : Nat := bits (s.ltab n) 0 8

/-- The home radio of a lantern (LNU_HOME). -/
def State.homeOf (s : State) (n : Nat) : Nat := b2n (s.homeB n)

/-- What is known of a lantern. -/
def State.link (s : State) (n : Nat) : LanternLink := (kvFind s.rfm.links n).getD ⟨none, [], none, false⟩

/-- A change of what is known of a lantern. -/
def State.onLink (s : State) (n : Nat) (f : LanternLink → LanternLink) : State :=
  { s with rfm := { s.rfm with links := kvSet s.rfm.links n (f (s.link n)) } }

/-- WL in force in a radio's superframe `f` (R183). -/
def State.wlAt (s : State) (f : Int) : Nat :=
  match s.rfm.wakeAt with
  | some n => if n ≤ f then s.rd RFM_WAKE_WL_NEXT else if f < s.rfm.wlFrom then s.rfm.wlOld else s.rd RFM_WAKE_WL
  | none => if f < s.rfm.wlFrom then s.rfm.wlOld else s.rd RFM_WAKE_WL

/-- The wake period of a lantern in superframe `f` (R183, R184). -/
def State.wakeN (s : State) (n : Nat) (f : Int) : Nat := if s.lSleepy n then 2 ^ s.wlAt f else 1

/-- A superframe or PLC cycle is the one of a period that a phase names (R183, R205). -/
def inPhase (f : Int) (ph period : Nat) : Bool := f % period == ((ph % period : Nat) : Int)

/-- A lantern is awake in superframe `f` (R183). -/
def State.awake (s : State) (n : Nat) (f : Int) : Bool := inPhase f (s.lPh n) (s.wakeN n f)

/-- `f` is a report superframe of a lantern (R183). -/
def State.reportSf (s : State) (n : Nat) (f : Int) : Bool := inPhase f (s.lPh n) (if 1 < s.wakeN n f then s.wakeN n f else s.lRp n)

/-! ### Guard windows (R184) -/

/-- TOL in ppm: 0 acts as 1, above 200 as 200 (R192). -/
def State.tol (s : State) : Nat := clampN 1 200 (s.rd RFM_LINK_TOL)

/-- The uncapped W for a Δ in ns, in 10^-7 ns. -/
def State.guardRaw (s : State) (delta : Nat) : Nat := 256000 * 10000000 + 2 * (10 * s.tol + 1) * delta

/-- W for a Δ in ns, in quarters of a ns: rounded up to whole RF baseband cycles of 31.25 ns and capped at 1.5 ms. -/
def State.guardW (s : State) (delta : Nat) : Nat := min 6000000 (ceilDiv (s.guardRaw delta * 4) 1250000000 * 125)

/-- Δ of a lantern at time `t` of superframe `f` (R184). -/
def State.deltaOf (s : State) (n : Nat) (f : Int) (t : Nat) : Nat :=
  let bound := (s.wakeN n f + 1) * sfNs
  match (s.link n).sync with
  | some c => min ((t : Int) - (c * sfNs + s.sfOfs (s.homeOf n))).toNat bound
  | none => bound

/-- An SFD end within W of a nominal time in ns, both ends included. -/
def within (t : Time) (e w : Nat) : Bool :=
  let a := unitsOf t
  let b := e * 4294967296
  (if a ≤ b then b - a else a - b) * 4 ≤ w * 4294967296

/-- The nominal SFD end of a cell (R170). -/
def State.sfdOf (s : State) (r : Nat) (f : Int) (slot : Nat) : Nat := s.slotStart r f slot + txOfs + s.shrNs r

/-- The lanterns. -/
def lanterns : List Nat := List.range 2048

/-- The direct lantern that reports in cell `c` of superframe `f` on a radio (R183). -/
def State.reporter (s : State) (r : Nat) (f : Int) (c : Nat) : Option Nat :=
  lanterns.find? (fun n => s.lEn n && !s.lRelayed n && s.homeOf n == r && s.lCell n == c && s.reportSf n f)

/-- The direct relay lantern of relay cell `c` on a radio (R184). -/
def State.relayer (s : State) (r c : Nat) : Option Nat :=
  lanterns.find? (fun n => s.lEn n && s.lRelay n && !s.lRelayed n && s.homeOf n == r && s.lRcell n == c)

/-- The place of a slot among the cells of its code. -/
def placeOf (l : List Nat) (slot : Nat) : Nat := (l.filter (fun x => x < slot)).length

/-- The start of Darn window `w` of superframe `f` in ns (R186). -/
def State.darnStart (s : State) (r : Nat) (f : Int) (w : Nat) : Nat := s.slotStart r f (nth 0 (s.cellsOf r 5) w)

/-- The end of a called Darn window in ns (R186). -/
def State.darnUntil (s : State) (r : Nat) (c : DarnCall) : Nat := s.darnStart r c.sf c.window + 4 * slotNs

/-- The call whose window holds a time, the cycle in which it ends included (R186). -/
def State.callAt (s : State) (r : Nat) (t : Time) : Option DarnCall :=
  (s.radio r).calls.find? (fun c => s.darnStart r c.sf c.window ≤ nsOf t && rfCycle t ≤ rfCycleNs (s.darnUntil r c))

/-- The enabled neighbour entry that a radio listens for in a slot (R189). -/
def State.neighbourAt (s : State) (r slot : Nat) : Option Nat :=
  (List.range 8).find? (fun m => s.on (RFM_NBR_W0_EN m) && s.rd (RFM_NBR_W0_RADIO m) == r && s.rd (RFM_NBR_W0_LSLOT m) == slot)

/-- Whether a radio's receiver takes a frame whose SFD ends at `t` (R184, R186, R189). -/
def State.listens (s : State) (r : Nat) (t : Time) : Bool :=
  let now := nsOf t
  let f := s.sfAt r now
  let slot := s.slotAt r now / s.span r * s.span r
  let e := s.sfdOf r f slot
  (s.callAt r t).isSome || (match s.codeAt r slot with
    | 3 => match s.reporter r f (placeOf (s.cellsOf r 3) slot) with
      | some n => within t e (s.guardW (s.deltaOf n f e))
      | none => false
    | 4 => match s.relayer r (placeOf (s.cellsOf r 4) slot) with
      | some n => within t e (s.guardW (s.deltaOf n f e))
      | none => false
    | 6 => (s.neighbourAt r slot).isSome && within t e (s.guardW 2560000000)
    | 7 => within t e (s.guardW ((2 ^ s.wlAt f + 1) * sfNs))
    | _ => false)

/-! ### Events (R180, R187) -/

/-- An event of RFM through the radio's receive queue. The Bool says whether it was taken. -/
def State.rfEvent (s : State) (r : Nat) (e : Event) : State × Bool := s.dcqOffer (6 + 2 * r) e

/-- A happening posted on channel 76 or 77 (R180). -/
def State.rfPost (s : State) (r node kind : Nat) (p : Octets) (t : Time) : State :=
  s.post (s.event (76 + r) node kind p t)

/-- A lantern's STATE changed, with its event (R187); cause 1 misses, 2 Darn failures, 3 frame received, 4 table write. -/
def State.lanternTo (s : State) (r n new cause : Nat) (t : Time) : State :=
  let old := s.rd (RFM_LTAB_W3_STATE n)
  (s.wr (RFM_LTAB_W3_STATE n) new).rfPost r n 0x03 [octet new, octet old, octet cause] t

/-- STATE of a lantern: 0 UNUSED, 1 TRACKED, 2 ADRIFT, 3 LOST. -/
def State.lState (s : State) (n : Nat) : Nat := s.rd (RFM_LTAB_W3_STATE n)

/-! ### The downlink queue (R177, R182) -/

/-- A radio's queue replaced, with its USED field. -/
def State.setDl (s : State) (r : Nat) (q : List Downlink) : State :=
  (s.onRadio r (fun x => { x with queue := q })).wr (if r = 0 then RFM_DLQ_STAT_USED_A else RFM_DLQ_STAT_USED_B) q.length

/-- The result of a downlink frame (R180), with the time of the happening: 0 acknowledged, 1 no Imm-Ack, 2 no opportunity, 3 discarded. -/
def State.dlResult (s : State) (r : Nat) (d : Downlink) (result : Nat) (t : Time) : State :=
  let s := s.rfPost r d.dst 0x04 [octet d.handle, octet result] t
  if result = 1 ∨ result = 2 then (s.raise RFM_STATUS_DLFAIL).count RFM_DLFAIL_CNT_COUNT RFM_STATUS_CNTWRAP else s

/-- A frame offered to the queue of its target's home radio, of 16 frames (R182). -/
def State.dlQueue (s : State) (n : Nat) (payload : Octets) (handle : Nat) : State :=
  let r := s.homeOf n
  let d : Downlink := ⟨n, payload, handle, s.sfAt r s.now, 0, 0⟩
  let q := (s.radio r).queue
  if q.length < 16 then s.setDl r (q ++ [d]) else (s.raise RFM_STATUS_DLQFULL).dlResult r d 3 s.tb.now

/-- A write of RFM_TXCMD (R182, R192): a LEN outside 1 to 106 discards the frame with result 3. -/
def State.rfTxcmd (s : State) (handle dst len : Nat) : State :=
  if len = 0 ∨ 106 < len then s.dlResult (s.homeOf dst) ⟨dst, [], handle, 0, 0, 0⟩ 3 s.tb.now
  else s.dlQueue dst (le len (s.rd RFM_TXBUF_PAYLOAD)) handle

/-- The assignment of a lantern queued (R182): PTYPE 0xA1, word 0 as last written, word 1 with FCKEY zero, and the home radio. -/
def State.queueAssign (s : State) (n : Nat) : State :=
  s.dlQueue n ([octet 0xA1] ++ le 4 (s.ltabWord n) ++ le 4 (s.rd (RFM_LTAB_W1_PARENT n) * 65536) ++ [octet (s.homeOf n)]) 0xFF

/-- A frame that no longer waits for its Imm-Ack. -/
def State.rfWaited (s : State) (r : Nat) (a : Await) : State := s.onRadio r (fun x => { x with awaiting := x.awaiting.erase a })

/-- An Imm-Ack whose SFD ends now (R177): it acknowledges the frame of its sequence number up to and in the cycle in which the wait expires. -/
def State.immAck (s : State) (r seq : Nat) : State :=
  let t := s.replica (repRadio r)
  match (s.radio r).awaiting.find? (fun a => a.frame.seq == seq && rfCycle t ≤ rfCycleNs a.until') with
  | some a => ((s.rfWaited r a).setDl r ((s.radio r).queue.erase a.frame)).dlResult r a.frame 0 t
  | none => s

/-- The wait for an Imm-Ack that has expired (R177): the frame is sent again at the next opportunity, or fails at its cell's end after 3 attempts. -/
def State.ackExpiry (s : State) (r : Nat) : State :=
  match (s.radio r).awaiting.find? (fun a => s.rfPast a.until') with
  | some a =>
    if 3 ≤ a.frame.tries then ((s.rfWaited r a).setDl r ((s.radio r).queue.erase a.frame)).dlResult r a.frame 1 (timeOfNs a.cellEnd) else s.rfWaited r a
  | none => s

/-- The frames that have found no opportunity within 64 superframes fail with result 2 at the end of the last of them (R180). -/
def State.noOpportunity (s : State) (r : Nat) : State :=
  let f := s.sfAt r s.now
  let q := (s.radio r).queue
  let old := fun (d : Downlink) => decide (d.queued + 64 ≤ f) && d.tries == 0
  (q.filter old).foldl (fun (s : State) d => s.dlResult r d 2 (timeOfNs (s.slotStart r (d.queued + 64) 0))) (s.setDl r (q.filter (fun d => !old d)))

/-! ### Sending (R174, R175, R178, R182) -/

/-- The KSU slot and index of the link key in force (R175). -/
def State.txKeySlot (s : State) : Nat := if s.rfm.txKey = 0 then s.rd RFM_SEC_KSLOT0 else s.rd RFM_SEC_KSLOT1
def State.txKeyIndex (s : State) : Nat := s.rfm.txKey + 1

/-- The next transmit frame counter, unless it is exhausted (R175). -/
def State.nextFc (s : State) : State × Option Nat :=
  let c := s.rd RFM_FC_FC
  if c = 0xFFFFFFFF then (s.raise RFM_STATUS_FCEXH, none)
  else (((s.wr RFM_FC_FC (c + 1)).raiseIf (c + 1 == 2147483648) RFM_STATUS_FCHALF).raiseIf (c + 1 == 0xFFFFFFFF) RFM_STATUS_FCEXH, some c)

/-- The counter of frames sent by a radio. -/
def rfTxCount (r : Nat) : Field := if r = 0 then RFM_TX_A_COUNT else RFM_TX_B_COUNT

/-- The highest channel of a radio's rate (R168). -/
def State.topChannel (s : State) (r : Nat) : Nat :=
  if s.rfRate r = 0 then (if s.rd SYS_ID_VARIANT = 2 then 128 else 63) else if s.rd SYS_ID_VARIANT = 2 then 63 else 31

/-- A channel number as a radio takes it: one outside the range of its rate acts as channel 0 (R168). -/
def State.channelOf (s : State) (r ch : Nat) : Nat := if ch ≤ s.topChannel r then ch else 0

/-- The channel and the transmit power in dBm of a radio (R168, R192). -/
def State.rfChannel (s : State) (r : Nat) : Nat := s.channelOf r (s.rd (if r = 0 then RFM_RFA_CFG_CH else RFM_RFB_CFG_CH))
def State.rfPower (s : State) (r : Nat) : Nat := min 20 (s.rd (if r = 0 then RFM_RFA_CFG_TXPWR else RFM_RFB_CFG_TXPWR))

/-- A frame leaves a radio, its first preamble symbol at a time in ns (R170). One that starts at TX_OFS ends by SPAN × 10 ms − 1.5 ms, whatever its length; an Imm-Ack keeps to its
turnaround after a frame that came late (DEDUCED, notes/assumptions/62). -/
def State.rfOut (s : State) (r at' : Nat) (f : Octets) : State :=
  (s.count (rfTxCount r) RFM_STATUS_CNTWRAP).emit ⟨3 + r, at', f, 0, .whole, s.rfChannel r, s.rfPower r⟩

/-- The queue of the frames that a radio sends (R22). -/
def rfTxQueue (r : Nat) : Nat := 7 + 2 * r

/-- A link-key frame formed (R174, R175): `none` where the key is refused or the counter exhausted. `dst` is `none` for a broadcast. The number is the MAC
sequence number. -/
def State.linkFrame (s : State) (r : Nat) (dst : Option Nat) (payload : Octets) : State × Option (Octets × Nat) :=
  match s.keyFor s.txKeySlot opLink ctxRfm with
  | (s, none) => (s, none)
  | (s, some k) =>
    match s.nextFc with
    | (s, none) => (s, none)
    | (s, some fc) =>
      let q := (s.radio r).seq
      let s := s.onRadio r (fun x => { x with seq := (q + 1) % 256 })
      let head := match dst with
        | some n => le 2 0xA869 ++ [octet q] ++ le 2 s.seg ++ le 2 n ++ le 2 0x0800
        | none => le 2 0x2809 ++ [octet q] ++ le 2 s.seg ++ le 2 0xFFFF
      (s, some (secured5 k.key (ccmNonce s.seg 0x0800 fc 5) head (auxHeader 0x0D fc s.txKeyIndex) payload, q))

/-- What keeps a formed frame from being sent (R384, R396): a disagreement of the second CCM* unit, which is a guard event, or a poisoned word in the queue `q`. -/
def State.frameLost (s : State) (g : GuardMeet) (source q : Nat) : State := if g.frame then s.guard source else s.dcqPoison q

/-- The wait of a unicast frame of a radio that starts at a time in ns (R177): up to its end, the turnaround, the SHR and 50 µs. -/
def State.rfAwait (s : State) (r at' close' : Nat) (d : Downlink) (f : Octets) : Await :=
  ⟨d, at' + s.airNs r (10 + f.length) + 1000000 + s.shrNs r + 50000, close'⟩

/-- A unicast frame of the downlink queue sent in a cell that starts and ends at times in ns (R177, R182). -/
def State.rfUnicast (s : State) (r start close' : Nat) (g : GuardMeet) (d : Downlink) : State :=
  match s.linkFrame r (some d.dst) d.payload with
  | (s, none) => s
  | (s, some (x, q)) =>
    if g.frame || g.poison then ((s.setDl r ((s.radio r).queue.erase d)).frameLost g 3 (rfTxQueue r)).dlResult r d 3 s.tb.now
    else
      let d' := { d with tries := d.tries + 1, seq := q }
      let queue := (s.radio r).queue.map (fun x => if x = d then d' else x)
      let a := s.rfAwait r (start + txOfs) close' d' x
      ((s.setDl r queue).onRadio r (fun y => { y with awaiting := y.awaiting ++ [a] })).rfOut r (start + txOfs) x

/-- A BUNDLE cell at `slot` of superframe `f` (R182): the bundle of the Launch Unit, else the first downlink frame whose target is awake, leaving out one that still waits for its
Imm-Ack. -/
def State.fillCell (s : State) (r : Nat) (f : Int) (slot : Nat) (g : GuardMeet) : State :=
  let p : Path := if r = 0 then .rfa else .rfb
  let start := s.slotStart r f slot
  let (s, b) := s.askBundle p g
  if !b.isEmpty then
    match s.linkFrame r none (bundleOctets b) with
    | (s, none) => s
    | (s, some (x, _)) => if g.frame || g.poison then s.frameLost g 3 (rfTxQueue r) else (s.rfOut r (start + txOfs) x).markSent p b
  else
    match (s.radio r).queue.find? (fun d => s.awake d.dst f && !(s.radio r).awaiting.any (fun a => a.frame == d)) with
    | none => s
    | some d => s.rfUnicast r start (start + s.span r * slotNs) g d

/-- The number of the slot, counted from the start of superframe 0, that next starts at least 2 ms ahead. -/
def State.nextSlot (s : State) (r : Nat) : Int := -(((s.sfOfs r : Int) - s.now - 2000000) / slotNs)

/-- A radio asks for a bundle at least 2 ms before the next BUNDLE cell (R182). -/
def State.bundleCell (s : State) (r : Nat) (g : GuardMeet) : State :=
  let u := s.nextSlot r
  let slot := (u % 128).toNat
  if s.rfRuns r && s.dcqOpen (rfTxQueue r) && slot % s.span r == 0 && s.codeAt r slot == 2 then s.fillCell r (u / 128) slot g else s

/-- The absent neighbour entries, bit m (R189). -/
def State.absentMask (s : State) : Nat := sumN ((List.range 8).map (fun m => if s.on (RFM_NBR_W1_PRESENT m) then 0 else 2 ^ m))

/-- The lanterns called in superframe `f` (R186): ADRIFT, homed on the radio, awake, in ascending order from after the last called. -/
def State.callList (s : State) (r : Nat) (f : Int) : List Nat :=
  let c := lanterns.filter (fun n => s.lEn n && s.lState n == 2 && s.homeOf n == r && s.awake n f)
  let last := (s.radio r).called
  ((c.filter (fun n => last < n)) ++ c.filter (fun n => n ≤ last)).take (s.cellsOf r 5).length

/-- The payload of the beacon of superframe `n` (R178). -/
def State.beaconPayload (s : State) (r : Nat) (n : Int) (calls : List Nat) : Octets :=
  let p := unsigned 2 n
  let map := (List.range 16).map (fun j => octet (nth 0 (s.mapCodes r) (32 * p + 2 * j) + 16 * nth 0 (s.mapCodes r) (32 * p + 2 * j + 1)))
  let entries := (List.range 4).flatMap (fun i => if i < calls.length then le 2 (nth 0 calls i + 2048 * i) else zeros 2)
  [octet 0xBE] ++ le 5 (unsigned 40 n) ++ le 8 (ts64 (timeOfNs (s.sfdOf r n 0))) ++ [octet (r + 4 * s.rfRate r), octet (max 1 (s.rd RFM_LINK_HOLD)),
    octet (s.wlAt n + 4 * s.rd RFM_WAKE_WL_NEXT)] ++ le 2 (s.rd RFM_WAKE_WSFN) ++
    le 4 (s.rd (if r = 0 then RFM_RFA_CHLIST_CHLIST else RFM_RFB_CHLIST_CHLIST)) ++ [octet (s.radio r).mapVer, octet p] ++ map ++
    [octet s.absentMask, octet calls.length] ++ entries

/-- The frame counter of a beacon (R175). -/
def beaconFc (r : Nat) (n : Int) : Nat := unsigned 32 (2 * (n - 1406250000) + r)

/-- A table write takes effect at the superframe start of the lantern's home radio (R185, R192). -/
def State.applyWord (s : State) (r n old : Nat) : State :=
  let s := { s with rfm := { s.rfm with inForce := kvErase s.rfm.inForce n } }
  let en := bit (s.ltabWord n) 31
  if en = bit old 31 then s
  else if en then
    let s := (s.wr (RFM_LTAB_W3_MISS n) 0).wr (RFM_LTAB_W3_DARNF n) 0
    (s.onLink n (fun x => { x with sync := none, assign := true })).lanternTo r n 2 4 s.tb.now
  else s.lanternTo r n 0 4 s.tb.now

/-- What a superframe start brings into force (R175, R189, R192): the table writes of the lanterns homed on the radio, TXKEY at RF-A's, and the slots of absent
neighbours. -/
def State.superframeStart (s : State) (r : Nat) (n : Int) : State :=
  let s := s.rfm.inForce.foldl (fun (s : State) w => if s.homeOf w.1 = r then s.applyWord r w.1 w.2 else s) s
  let key := s.rd RFM_SEC_TXKEY
  let s := if r = 0 ∧ key ≠ s.rfm.txKey then { s with rfm := { s.rfm with txKey := key } }.wr RFM_FC_FC 0 else s
  s.onRadio r (fun x => { x with beaconed := some n, released := s.absentMask, calls := x.calls.filter (fun c => n ≤ c.sf + 1) })

/-- The BEACON cell of a superframe (R178): what takes effect there, and on a running radio the beacon with its Darn calls. A disagreement of the second CCM* unit
or a poisoned word leaves the cell idle (R384, R396). -/
def State.beacon (s : State) (r : Nat) (g : GuardMeet) : State :=
  let n := s.sfAt r s.now
  if (s.radio r).beaconed = some n ∨ s.span r ≤ s.slotAt r s.now ∨ s.now < s.sfOfs r then s
  else
    let s := s.superframeStart r n
    if !s.rfRuns r || !s.dcqOpen (rfTxQueue r) then s
    else if g.frame || g.poison then s.frameLost g 3 (rfTxQueue r)
    else
      let calls := s.callList r n
      let p := s.beaconPayload r n calls
      match s.keyFor (s.rd RFM_SEC_KSLOTB) opLink ctxRfm with
      | (s, none) => s
      | (s, some k) =>
        let fc := beaconFc r n
        let head := le 2 0xA008 ++ [octet (unsigned 8 n)] ++ le 2 s.seg ++ le 2 0x0800
        let made := (List.range calls.length).map (fun i => (⟨i, nth 0 calls i, n, false⟩ : DarnCall))
        let s := s.onRadio r (fun x => { x with calls := x.calls ++ made, called := nth x.called calls (calls.length - 1) })
        s.rfOut r (s.slotStart r n 0 + txOfs) (secured1 k.key (ccmNonce s.seg 0x0800 fc 1) head (auxHeader 0x09 fc 0x10) p)

/-! ### Contacts (R183 to R187) -/

/-- The slot of a lantern's REPORT cell on its home radio, if the map holds it (R171, R192). -/
def State.reportSlot (s : State) (n : Nat) : Option Nat := (s.cellsOf (s.homeOf n) 3)[s.lCell n]?

/-- When an expected contact of superframe `f` must have been made: the end of the lantern's REPORT cell, or for a relayed one the end of superframe `f` + 1
(R183). `none` where the map holds no such cell. -/
def State.contactEnd (s : State) (n : Nat) (f : Int) : Option Nat :=
  let r := s.homeOf n
  if s.lRelayed n then some (s.slotStart r (f + 2) 0) else (s.reportSlot n).map (fun c => s.slotStart r f c + s.span r * slotNs)

/-- When an expected contact of superframe `f` begins: with the lantern's REPORT cell, or with the superframe for a relayed one. The radio must be RUNNING from then on for it
to be counted (DEDUCED, notes/assumptions/62: R183 says on a radio that is not RUNNING). -/
def State.contactStart (s : State) (n : Nat) (f : Int) : Nat :=
  s.slotStart (s.homeOf n) f (if s.lRelayed n then 0 else (s.reportSlot n).getD 0)

/-- The report superframes whose expected contact a frame at time `t` meets (R183), one in the cycle in which the cell or superframe ends included (R185). -/
def State.contactsMet (s : State) (n : Nat) (t : Time) : List Int :=
  let f := s.sfAt (s.homeOf n) (nsOf t)
  [f, f - 1, f - 2].filter (fun g => s.reportSf n g && (match s.contactEnd n g with
    | some e => decide (rfCycle t ≤ rfCycleNs e)
    | none => false))

/-- The expected contact of a report superframe has been judged (R185). -/
def LanternLink.judgedBy (x : LanternLink) (f : Int) : Bool := match x.judged with
  | some j => decide (f ≤ j)
  | none => false

/-- A frame that meets expected contacts of a lantern (R183, R185): those not yet judged are met, which clears MISS of a TRACKED one. -/
def State.meet (s : State) (n : Nat) (t : Time) : State :=
  let new := (s.contactsMet n t).filter (fun g => !(s.link n).judgedBy g)
  let s := s.onLink n (fun x => { x with met := (new ++ x.met).take 4 })
  if s.lState n = 1 ∧ new ≠ [] then s.wr (RFM_LTAB_W3_MISS n) 0 else s

/-- A contact of a lantern on radio `r` (R185): the state it brings, the call it answers, and the assignment that is due. -/
def State.contact (s : State) (r n : Nat) (t : Time) : State :=
  if !s.lEn n then s
  else
    let s := if s.lState n = 2 ∨ s.lState n = 3 then
        ((s.wr (RFM_LTAB_W3_MISS n) 0).wr (RFM_LTAB_W3_DARNF n) 0).lanternTo r n 1 3 t
      else s
    let s := s.onRadio r (fun x => { x with calls := x.calls.map (fun c =>
      if c.lantern = n ∧ s.callAt r t = some c then { c with contact := true } else c) })
    if (s.link n).assign then (s.onLink n (fun x => { x with assign := false })).queueAssign n else s

/-- The uncapped W of a lantern at t = E of its REPORT cell in superframe `f` exceeds 1.5 ms (R184, R185). -/
def State.wideAt (s : State) (n : Nat) (f : Int) : Bool :=
  decide (15000000000000 < s.guardRaw (s.deltaOf n f (s.sfdOf (s.homeOf n) f ((s.reportSlot n).getD 0))))

/-- An expected contact missed by a TRACKED lantern (R185), at the end `e` of its cell or superframe. -/
def State.contactMissed (s : State) (n : Nat) (f : Int) (e : Nat) : State :=
  let m := s.rd (RFM_LTAB_W3_MISS n)
  if m < 2 && !s.wideAt n f then s.wr (RFM_LTAB_W3_MISS n) (m + 1)
  else
    (((s.wr (RFM_LTAB_W3_MISS n) 3).wr (RFM_LTAB_W3_DARNF n) 0).lanternTo (s.homeOf n) n 2 1 (timeOfNs e)).raise RFM_STATUS_ADRIFT

/-- The end of a lantern's report cell or superframe (R183, R185): an expected contact is judged once, after every frame of the cycle in which it ends, and counted on a
radio that has been RUNNING throughout. -/
def State.reportEnd (s : State) (n : Nat) (f : Int) : State :=
  match s.contactEnd n f with
  | none => s
  | some e =>
    if !s.rfPast e || !s.lEn n || !s.reportSf n f || (s.link n).judgedBy f || !s.rfRuns (s.homeOf n) ||
      decide (s.contactStart n f < (s.radio (s.homeOf n)).since) then s
    else
      let met := (s.link n).met.elem f
      let s := s.onLink n (fun x => { x with judged := some f })
      if s.lState n != 1 || met then s else s.contactMissed n f e

/-- DARN_MAX; 0 acts as 1 (R192). -/
def State.darnMax (s : State) : Nat := max 1 (s.rd RFM_LINK_DARN_MAX)

/-- The end of a called Darn window (R185, R186), after every frame of the cycle in which it ends: without contact DARNF rises, and at DARN_MAX the lantern becomes LOST. -/
def State.darnEnd (s : State) (r w : Nat) : State :=
  match (s.radio r).calls.find? (fun c => c.window == w && s.rfPast (s.darnUntil r c)) with
  | none => s
  | some c =>
    let s := s.onRadio r (fun x => { x with calls := x.calls.erase c })
    let n := c.lantern
    if c.contact || s.lState n != 2 then s
    else
      let d := s.rd (RFM_LTAB_W3_DARNF n) + 1
      let s := s.wr (RFM_LTAB_W3_DARNF n) (min d s.darnMax)
      if d < s.darnMax then s
      else (s.lanternTo r n 3 2 (timeOfNs (s.darnUntil r c))).raise RFM_STATUS_LOST

/-! ### Neighbours (R189) -/

/-- A neighbour entry's presence changed, with its event (R180, R189). -/
def State.neighbourTo (s : State) (m present : Nat) (t : Time) : State :=
  let r := s.rd (RFM_NBR_W0_RADIO m)
  let e := { s.event (76 + r) 0 0x05 [octet m, octet present] t with src := srcId (s.rd (RFM_NBR_W0_SEG m)) 0 (76 + r) }
  ((s.wr (RFM_NBR_W1_PRESENT m) present).post e).raise RFM_STATUS_NBRCHG

/-- The end of the NBR cell of an entry (R189): three in a row without the beacon mark it absent. -/
def State.nbrEnd (s : State) (m : Nat) : State :=
  let r := s.rd (RFM_NBR_W0_RADIO m)
  let d := s.rd (RFM_NBR_W0_LSLOT m) * slotNs + s.span r * slotNs
  let f : Int := ((s.now : Int) - d - s.sfOfs r) / sfNs
  let e := s.slotStart r f 0 + d
  if !s.on (RFM_NBR_W0_EN m) || !s.rfRuns r || !s.rfPast e || decide (e < (s.radio r).since + s.span r * slotNs) ||
    kvFind s.rfm.nbrJudged m == some f then s
  else
    let s := { s with rfm := { s.rfm with nbrJudged := kvSet s.rfm.nbrJudged m f } }
    if kvFind s.rfm.heard m = some f then s
    else
      let n := min 3 (s.rd (RFM_NBR_W1_MISSES m) + 1)
      let s := s.wr (RFM_NBR_W1_MISSES m) n
      if n = 3 ∧ s.on (RFM_NBR_W1_PRESENT m) then s.neighbourTo m 0 (timeOfNs e) else s

/-! ### Received frames (R176, R180) -/

/-- A frame discarded (R176). -/
def State.rfDrop (s : State) : State := s.count RFM_DROP_COUNT RFM_STATUS_CNTWRAP

/-- The counter of frames accepted by a radio. -/
def rfRxCount (r : Nat) : Field := if r = 0 then RFM_RX_A_COUNT else RFM_RX_B_COUNT

/-- A neighbour's beacon in an NBR cell (R174, R176, R180, R189): sent by the module of its PAN and verified under KSLOTB, it gives a KIND 0x01 event and presence. -/
def State.neighbourBeacon (s : State) (r : Nat) (t : Time) (f : Octets) (fcs : Bool) : State :=
  let sf := s.sfAt r (nsOf t)
  match s.neighbourAt r (s.slotAt r (nsOf t) / s.span r * s.span r) with
  | none => s.rfDrop
  | some m =>
    let pan := leAt f 3 2
    if !fcs || pan != s.rd (RFM_NBR_W0_SEG m) || leAt f 5 2 != 0x0800 then s.rfDrop
    else
      match s.keyFor (s.rd RFM_SEC_KSLOTB) opLink ctxRfm with
      | (s, none) => (s.rfDrop).raise RFM_STATUS_SECFAIL
      | (s, some k) =>
        let fc := leAt f 8 4
        match opened1 k.key (ccmNonce pan (leAt f 5 2) fc 1) f 13 with
        | none => (s.rfDrop).raise RFM_STATUS_SECFAIL
        | some p =>
          if octAt f 7 != 0x09 || octAt f 12 != 0x10 then (s.rfDrop).raise RFM_STATUS_SECFAIL
          else if octAt p 0 != 0xBE then s.rfDrop
          else
            let e := { s.event (76 + r) 0 0x01 (slice p 6 8 ++ slice p 1 5 ++ [octet 1]) t with src := srcId pan 0 (76 + r), seq := some (leAt p 1 2) }
            let q := s.rfEvent r e
            if !q.2 then (q.1.rfDrop).raise RFM_STATUS_EVDROP
            else
              let s := (q.1.count (rfRxCount r) RFM_STATUS_CNTWRAP).wr (RFM_NBR_W1_MISSES m) 0
              let s := { s with rfm := { s.rfm with heard := kvSet s.rfm.heard m sf } }
              if s.on (RFM_NBR_W1_PRESENT m) then s else s.neighbourTo m 1 t

/-- The event of an accepted lantern frame (R180): a report gives it from its own fields, any other frame on channel 76 or 77. -/
def State.lanternEvent (s : State) (r src : Nat) (p : Octets) (t : Time) : Event :=
  if octAt p 0 = 0xC0 then
    let ts := leAt p 8 8
    ⟨⟨ts / 2 ^ 30, ts % 2 ^ 30, 0⟩, srcId s.seg (leAt p 4 2 % 2048) (octAt p 1 % 64), some (leAt p 6 2), octAt p 2, wholeSlots (p.drop 16), false, false, []⟩
  else s.event (76 + r) src 0x02 p t

/-- C_n of a lantern from a frame with HOPS = 0 (R184): the start of superframe f − BAGE. -/
def State.syncTo (s : State) (n : Nat) (c : Int) : State := (s.onLink n (fun x => { x with sync := some c })).wr (RFM_LTAB_W3_SYNC n) (unsigned 16 c)

/-- What an accepted report gives (R183 to R185): C_n where no relay has passed it, and the contact of a relayed origin. -/
def State.noteReport (s : State) (r src : Nat) (p : Octets) (t : Time) : State :=
  let orig := leAt p 4 2 % 2048
  let s := if octAt p 1 / 64 = 0 then s.syncTo src (s.sfAt (s.homeOf src) (nsOf t) - octAt p 3) else s
  let s := if s.lRelayed orig then s.meet orig t else s
  if orig = src then s else s.contact r orig t

/-- What an accepted frame leaves in the sender's entry, and the contacts it makes (R176, R183 to R185). -/
def State.noteFrame (s : State) (r src idx fc rssi : Nat) (p : Octets) (t : Time) : State :=
  let s := ((s.wr (RFM_LTAB_W1_FCKEY src) idx).wr (RFM_LTAB_W2_FC src) fc).wr (RFM_LTAB_W3_RSSI src) rssi
  let s := if s.lRelayed src then s else s.meet src t
  let s := if octAt p 0 = 0xC0 then s.noteReport r src p t else s
  s.contact r src t

/-- The replay check (R176 check 4). -/
def State.replayed (s : State) (src idx fc : Nat) : Bool :=
  if s.rd (RFM_LTAB_W1_FCKEY src) = idx then fc ≤ s.rd (RFM_LTAB_W2_FC src) else idx != s.txKeyIndex

/-- A lantern's frame (R176): its checks in order, its Imm-Ack, its event and its contacts. -/
def State.lanternFrame (s : State) (r : Nat) (t : Time) (f : Octets) (fcs : Bool) (rssi : Nat) : State :=
  let src := leAt f 7 2
  let idx := octAt f 14
  let fc := leAt f 10 4
  if !fcs || leAt f 3 2 != s.seg || leAt f 5 2 != 0x0800 || leAt f 0 2 != 0xA869 || 2048 ≤ src then s.rfDrop
  else if octAt f 9 != 0x0D || (idx != 1 && idx != 2) then (s.rfDrop).raise RFM_STATUS_SECFAIL
  else
    match s.keyFor (if idx = 1 then s.rd RFM_SEC_KSLOT0 else s.rd RFM_SEC_KSLOT1) opLink ctxRfm with
    | (s, none) => (s.rfDrop).raise RFM_STATUS_SECFAIL
    | (s, some k) =>
      match opened5 k.key (ccmNonce s.seg src fc 5) f 15 with
      | none => (s.rfDrop).raise RFM_STATUS_SECFAIL
      | some p =>
        let report := octAt p 0 == 0xC0
        if !report && octAt p 0 / 16 != 0xE then s.rfDrop
        else if s.replayed src idx fc then (s.rfDrop).raise RFM_STATUS_REPLAY
        else if report && octAt p 1 / 64 == 0 && leAt p 4 2 % 2048 != src then (s.rfDrop).raise RFM_STATUS_BADORIG
        else if !s.lEn src then s.rfDrop
        else
          let q := s.rfEvent r (s.lanternEvent r src p t)
          if !q.2 then (q.1.rfDrop).raise RFM_STATUS_EVDROP
          else
            let s := q.1.count (rfRxCount r) RFM_STATUS_CNTWRAP
            (s.rfOut r (nsOf t + s.airNs r (4 + f.length) + 1000000) (le 2 0x0002 ++ [octet (octAt f 2)])).noteFrame r src idx fc rssi p t

/-- A frame whose SFD ends now at a radio (R167, R176): one outside the receiver's windows is not heard; one that announces a 4-octet FCS, is sent without
whitening or is too long is discarded. -/
def State.rfReceive (s : State) (r : Nat) (f : Octets) (meet : RadioMeet) (rssi : Nat) : State :=
  let t := s.replica (repRadio r)
  if (s.rd (rfRunst r) != 1 && s.rd (rfRunst r) != 2) || !s.listens r t then s
  else if meet.fcs4 || meet.plain || 125 < f.length then s.rfDrop
  else if leAt f 0 2 = 0xA008 then s.neighbourBeacon r t f meet.fcs
  else s.lanternFrame r t f meet.fcs rssi

/-! ### Wake settings and table writes (R183, R185, R192) -/

/-- A write of RFM_WAKE fixes the superframe at which WL_NEXT applies (R183). -/
def State.rfWake (s : State) (wsfn next : Nat) : State :=
  let first := ceilDiv (s.now + 10240000000) sfNs
  let n := first + (wsfn + 65536 - first % 65536) % 65536
  { (s.wr RFM_WAKE_WSFN wsfn).wr RFM_WAKE_WL_NEXT next with rfm := { s.rfm with wakeAt := some n } }

/-- WL_NEXT takes effect at n × 1.28 s (R183). -/
def State.wakeChange (s : State) : State :=
  match s.rfm.wakeAt with
  | some n =>
    if n * sfNs ≤ s.now then
      { s.wr RFM_WAKE_WL (s.rd RFM_WAKE_WL_NEXT) with rfm := { s.rfm with wakeAt := none, wlOld := s.rd RFM_WAKE_WL, wlFrom := n } }
    else s
  | none => s

/-- A write of word 0 of a lantern's entry (R182, R185, R192): in force from the next superframe start; one that finds EN at 1 and leaves it queues the
assignment. -/
def State.ltabWrite (s : State) (n w : Nat) : State :=
  let old := s.ltabWord n
  let s := { s with rfm := { s.rfm with inForce := match kvFind s.rfm.inForce n with
      | some _ => s.rfm.inForce
      | none => kvSet s.rfm.inForce n old } }
  let s := (((s.wr (RFM_LTAB_W0_EN n) (w / 2 ^ 31)).wr (RFM_LTAB_W0_SLEEPY n) (w / 2 ^ 30)).wr (RFM_LTAB_W0_RELAYED n) (w / 2 ^ 29)).wr (RFM_LTAB_W0_RELAY n) (w / 2 ^ 28)
  let s := (((s.wr (RFM_LTAB_W0_CELL n) (w / 2 ^ 22)).wr (RFM_LTAB_W0_RCELL n) (w / 2 ^ 16)).wr (RFM_LTAB_W0_RP n) (w / 2 ^ 8)).wr (RFM_LTAB_W0_PH n) w
  if bit old 31 && bit w 31 then s.queueAssign n else s

/-! ### Shut-down (R190) -/

/-- A radio's shut-down: its queue is discarded with result 3 and it returns to its reset state of operation. -/
def State.rfShut (s : State) (r : Nat) : State :=
  let s := (s.radio r).queue.foldl (fun (s : State) d => s.dlResult r d 3 s.tb.now) (s.setDl r [])
  (s.onRadio r (fun x => { x with
    awaiting := [], called := 0, calls := [], beaconed := none, seq := 0, released := 0, since := 0 })).wr (rfRunst r) 0

/-- A radio comes to RUNNING (R28, R183). -/
def State.rfRunning (s : State) (r : Nat) : State := (s.onRadio r (fun x => { x with since := s.now })).wr (rfRunst r) 1

/-- A radio has no exchange in progress: its shut-down first completes that of the cell (R190). -/
def State.rfIdle (s : State) (r : Nat) : Bool := (s.radio r).awaiting.isEmpty

/-- The writes that RFM ignores with CFGREJ by address (R192). -/
def State.rfmLocked (s : State) (a : Nat) : Bool :=
  let a0 := s.rd RFM_CTRL_RUNST_A != 0
  let b0 := s.rd RFM_CTRL_RUNST_B != 0
  (a0 && (a == 0x40070010 || a == 0x40070018 || (0x40070200 ≤ a && a < 0x40070240))) ||
  (b0 && (a == 0x40070014 || a == 0x4007001C || (0x40070240 ≤ a && a < 0x40070280))) || ((a0 || b0) && a == 0x40070020)

end Sys2Proof.Machine
end

