-- ==== Sys2Proof/Machine/Plm.lean ====
section
/-!
DEFINITION. The power-line modem as the second path to the lanterns (R193 to R209): the cell grid and the map, the TIME frame, bundles, assignments and
downlink frames, received frames, acknowledgement, presence, start and stop.
-/
namespace Sys2Proof.Machine

/-- A modem with nothing in progress that has never run. -/
def PlmState.init : PlmState := ⟨[], [], [], none, 0, 0, [], 0, [], none⟩

/-! ### The cell grid (R196, R197) -/

/-- A PLC cycle and a cell in ns (R196). -/
def plcCycleNs : Nat := 3200000000
def cellNs : Nat := 50000000

/-- CELLOFS in ns. -/
def State.cellOfs (s : State) : Nat := s.rd PLM_CFG_CELLOFS * cellNs

/-- The PLC cycle and the cell of a time in ns (R196). -/
def State.plcCycle (s : State) (t : Nat) : Int := ((t : Int) - s.cellOfs) / plcCycleNs
def State.plcCell (s : State) (t : Nat) : Nat := (((t : Int) - s.cellOfs) % plcCycleNs).toNat / cellNs

/-- The start of a cell of a PLC cycle in ns; one before the epoch is held at the epoch. -/
def State.cellStart (s : State) (p : Int) (cell : Nat) : Nat := (p * plcCycleNs + s.cellOfs + cell * cellNs).toNat

/-- The end of the cell that holds a time. -/
def State.cellEnd (s : State) (t : Nat) : Nat := s.cellStart (s.plcCycle t) (s.plcCell t + 1)

/-- PLM_PCN (R221). -/
def State.pcn (s : State) : Nat := unsigned 64 (s.plcCycle s.now)

/-- The PLC clock cycle of 15.625 ns that holds a time, and a time in ns (R26, R197). -/
def plcTick (t : Time) : Nat := unitsOf t * 8 / 536870912000
def plcTickNs (t : Nat) : Nat := t * 8 / 125

/-- The present time is in a later PLC clock cycle than a time in ns: what comes in the cycle of that time is before its expiry (R26). -/
def State.plcPast (s : State) (t : Nat) : Bool := decide (plcTickNs t < plcTick s.tb.now)

/-- The preamble time in ns: 6.080 ms CENELEC-A, 2.0267 ms FCC (R194). -/
def State.preambleNs (s : State) : Nat := if s.plcFcc then 2026700 else 6080000

/-- The largest unicast MAC payload of a cell, if any fits (R197). -/
def State.unicastLimit (s : State) : Nat :=
  if s.plcFcc then 128 else if s.plcMod = 0 then 0 else if s.plcMod = 1 then 56 else 100

/-! ### The map and the start (R198, R199) -/

/-- The codes of the 64 cells. -/
def State.plcCodes (s : State) : List Nat := (List.range 8).flatMap (fun w => (List.range 8).map (fun j => bits (s.rd (PLM_MAP_CODE w)) (4 * j) 4))

/-- Whether a map is rejected (R198): cell 0 is not TIME, TIME elsewhere, or a reserved code. -/
def plcMapBad (m : List Nat) : Bool := nth 0 m 0 != 1 || (m.drop 1).any (fun c => c == 1) || m.any (fun c => 3 < c)

/-- A key slot that RFM_SEC names too (R199). -/
def State.plcKeyShared (s : State) : Bool :=
  [s.rd PLM_SEC_PKSLOT0, s.rd PLM_SEC_PKSLOT1].any (fun k => k == s.rd RFM_SEC_KSLOT0 || k == s.rd RFM_SEC_KSLOT1)

/-- The lanterns with EN = 1 in the table as last written. -/
def State.plcEnabled (s : State) : List Nat := lanterns.filter (fun n => s.on (PLM_LTAB_W0_EN n))

/-- An assignment made pending for a lantern (R206); one that is pending begins again. -/
def State.plcPending (s : State) (n : Nat) : State := { s with plm := { s.plm with assigns := kvSet s.plm.assigns n 0 } }

/-- EN written 1 on a modem that is OFF (R198, R199): a rejected map or a shared key slot leaves it OFF; otherwise MAPVER follows the map and every enabled entry has an assignment
pending (R206). -/
def State.plmStart (s : State) : State :=
  let m := s.plcCodes
  let bad := plcMapBad m
  let shared := s.plcKeyShared
  if bad || shared then (s.raiseIf bad PLM_STATUS_MAPERR).raiseIf shared PLM_STATUS_KEYERR
  else
    let s := if s.plm.lastMap = some m then s
      else { s with plm := { s.plm with lastMap := some m, mapVer := (s.plm.mapVer + 1) % 256 } }
    (s.plcEnabled.foldl (fun (s : State) n => s.plcPending n) s).wr PLM_CTRL_RUNST 3

/-! ### Quiet windows (R212) -/

/-- NAVGL; values above 10 act as 10 (R221). -/
def State.navgl (s : State) : Nat := min 10 (s.rd PLM_RFL_CFG_NAVGL)

/-- The shots of a run: NAVG, or 4 × NAVG for a baseline capture (R212). -/
def State.shotsOf (s : State) (baseline : Bool) : Nat := 2 ^ s.navgl * (if baseline then 4 else 1)

/-- QCELLS of a run (R212). -/
def State.qCells (s : State) (baseline : Bool) : Nat := ceilDiv (s.shotsOf baseline + 84) 50

/-- A run is armed (R221). -/
def State.rflArmed (s : State) : Bool := s.rd PLM_RFL_STAT_PHASE == 1

/-- Whether a time in ns lies in a quiet window, one that holds or one that is to come (R212). -/
def State.quietAt (s : State) (t : Nat) : Bool :=
  (s.rfl.quietOn && (match s.rfl.quiet with
    | some (a, b) => a ≤ t && t < b
    | none => false)) ||
  (s.rflArmed && (match s.rfl.run with
    | some r => r.start ≤ t && t < r.start + s.qCells r.baseline * cellNs
    | none => false))

/-- QSTART and QCELLS as the TIME frame gives them (R203, R213). -/
def State.quietNext (s : State) : Octets :=
  match s.rfl.run with
  | some r => if s.rflArmed then le 5 (r.start / 10000000) ++ [octet (s.qCells r.baseline)] else zeros 6
  | none => zeros 6

/-! ### Secured frames (R199, R202) -/

/-- The KSU slot of a PLC key index. -/
def State.plcSlot (s : State) (idx : Nat) : Nat := if idx = 1 then s.rd PLM_SEC_PKSLOT0 else s.rd PLM_SEC_PKSLOT1

/-- The coupling path of traffic; 3 acts as 0 (R193, R221). -/
def State.tPath (s : State) : Nat := if s.rd PLM_CFG_TPATH = 3 then 0 else s.rd PLM_CFG_TPATH

/-- What leaves the modem on its coupling path and with its attenuation, the first preamble sample at a time in ns. -/
def State.plcEmit (s : State) (at' : Nat) (f : Octets) : State := s.emit ⟨5, at', f, 0, .whole, s.tPath, s.rd PLM_CFG_TXATT⟩

/-- A frame sent in a cell that starts at a time in ns: its first sample leaves at TX_OFS, earlier by TXLAT (R197, R202). -/
def State.plcOut (s : State) (start : Nat) (f : Octets) : State :=
  (s.count PLM_TX_COUNT PLM_STATUS_CNTWRAP).plcEmit (start + 2000000 - s.rd PLM_LAT_TXLAT) f

/-- The next transmit frame counter, unless it is exhausted (R175, R199). -/
def State.plcFc (s : State) : State × Option Nat :=
  let c := s.rd PLM_FC_FC
  if c = 0xFFFFFFFF then (s.raise PLM_STATUS_FCEXH, none)
  else (((s.wr PLM_FC_FC (c + 1)).raiseIf (c + 1 == 2147483648) PLM_STATUS_FCHALF).raiseIf (c + 1 == 0xFFFFFFFF) PLM_STATUS_FCEXH, some c)

/-- A frame formed (R199): `none` where the key is refused or the counter is exhausted. `dst` is `none` for a broadcast. -/
def State.plcFrame (s : State) (dst : Option Nat) (payload : Octets) : State × Option Octets :=
  let idx := s.plm.txKey + 1
  match s.keyFor (s.plcSlot idx) opLink ctxPlm with
  | (s, none) => (s, none)
  | (s, some k) =>
    match s.plcFc with
    | (s, none) => (s, none)
    | (s, some fc) =>
      let q := s.plm.seq
      let s := { s with plm := { s.plm with seq := (q + 1) % 256 } }
      let head := match dst with
        | some n => le 2 0x9869 ++ [octet q] ++ le 2 s.seg ++ le 2 n ++ le 2 0x0800
        | none => le 2 0x1809 ++ [octet q] ++ le 2 s.seg ++ le 2 0xFFFF
      (s, some (secured5 k.key (ccmNonce s.seg 0x0800 fc 5) head (auxHeader 0x0D fc idx) payload))

/-! ### The TIME frame (R203) and what a cycle start brings into force (R221) -/

/-- TSTAMP of the TIME frame of cycle `p` (R197, R203). -/
def State.tStamp (s : State) (p : Int) : Nat := s.cellStart p 0 + 2000000 + s.preambleNs

/-- The payload of the TIME frame of cycle `p` (R203). -/
def State.timePayload (s : State) (p : Int) : Octets :=
  let m := (List.range 32).map (fun j => octet (nth 0 s.plcCodes (2 * j) + 16 * nth 0 s.plcCodes (2 * j + 1)))
  [octet 0xBD] ++ le 5 (unsigned 40 p) ++ le 8 (ts64 (timeOfNs (s.tStamp p))) ++
    [octet (s.plcMod + 4 * b2n s.plcFcc), octet (max 1 (s.rd RFM_LINK_HOLD)), octet s.plm.mapVer] ++ m ++ s.quietNext

/-- A PLC cycle start: the table words written since take effect, and PTXKEY, whose change restarts the counter at 0 (R175, R221). -/
def State.cycleStart (s : State) (p : Int) : State :=
  let key := s.rd PLM_SEC_PTXKEY
  let s := if key ≠ s.plm.txKey then s.wr PLM_FC_FC 0 else s
  { s with plm := { s.plm with inForce := [], txKey := key, timed := some p } }

/-- Cell 0 of a PLC cycle (R203): what takes effect there, and from a running modem outside a quiet window the TIME frame. A disagreement of the second
CCM* unit or a poisoned word leaves the cell idle (R384, R396). -/
def State.timeFrame (s : State) (g : GuardMeet) : State :=
  let p := s.plcCycle s.now
  if s.plm.timed = some p ∨ s.plcCell s.now ≠ 0 then s
  else
    let s := s.cycleStart p
    if s.rd PLM_CTRL_RUNST ≠ 1 ∨ s.dcqOpen 11 = false ∨ s.quietAt s.now then s
    else match s.plcFrame none (s.timePayload p) with
      | (s, none) => s
      | (s, some f) => if g.frame || g.poison then s.frameLost g 4 11 else s.plcOut (s.cellStart p 0) f

/-! ### The lantern table (R198, R205, R221) -/

/-- The register word 0 of a lantern's entry as last written. -/
def State.plcWord (s : State) (n : Nat) : Nat :=
  s.rd (PLM_LTAB_W0_EN n) * 2 ^ 31 + s.rd (PLM_LTAB_W0_CELL n) * 2 ^ 24 + s.rd (PLM_LTAB_W0_PRP n) * 2 ^ 8 + s.rd (PLM_LTAB_W0_PPH n)

/-- The word 0 in force. -/
def State.plcEntry (s : State) (n : Nat) : Nat := (kvFind s.plm.inForce n).getD (s.plcWord n)

/-- A write of word 0 of an entry (R206, R221): in force from the next cycle start; with EN = 1 it makes an assignment pending. -/
def State.plcTabWrite (s : State) (n w : Nat) : State :=
  let old := s.plcWord n
  let s := { s with plm := { s.plm with inForce := match kvFind s.plm.inForce n with
      | some _ => s.plm.inForce
      | none => kvSet s.plm.inForce n old } }
  let s := (((s.wr (PLM_LTAB_W0_EN n) (w / 2 ^ 31)).wr (PLM_LTAB_W0_CELL n) (w / 2 ^ 24)).wr (PLM_LTAB_W0_PRP n) (w / 2 ^ 8)).wr (PLM_LTAB_W0_PPH n) w
  if bit w 31 then s.plcPending n else s

/-- A write of DLY of an entry (R206). -/
def State.plcDlyWrite (s : State) (n v : Nat) : State :=
  let s := s.wr (PLM_LTAB_W1_DLY n) v
  if s.on (PLM_LTAB_W0_EN n) then s.plcPending n else s

/-- `p` is a report cycle of a lantern (R205); PRP 0 acts as 1. -/
def State.plcReports (s : State) (n : Nat) (p : Int) : Bool := inPhase p (bits (s.plcEntry n) 0 8) (max 1 (bits (s.plcEntry n) 8 8))

/-- The REPORT cell of a lantern (R198): CELL counted among the REPORT cells. -/
def State.reportCell (s : State) (n : Nat) : Option Nat :=
  ((List.range 64).filter (fun i => nth 0 s.plcCodes i == 3))[bits (s.plcEntry n) 24 6]?

/-- What is known of a lantern on the feeder. -/
def State.plcLink (s : State) (n : Nat) : PlcLink := (kvFind s.plm.links n).getD ⟨[], none⟩

/-- A change of what is known of a lantern on the feeder. -/
def State.onPlcLink (s : State) (n : Nat) (f : PlcLink → PlcLink) : State :=
  { s with plm := { s.plm with links := kvSet s.plm.links n (f (s.plcLink n)) } }

/-! ### Events and presence (R204, R205) -/

/-- A happening posted on channel 80 (R204). -/
def State.plcPost (s : State) (kind : Nat) (p : Octets) (t : Nat) : State := s.post (s.event 80 0 kind p (timeOfNs t))

/-- The report cycles whose contact a frame at time `t` meets (R205), one in the clock cycle in which the REPORT cell ends included (R26). -/
def State.plcMeets (s : State) (n : Nat) (t : Time) : List Int :=
  let p := s.plcCycle (nsOf t)
  [p, p - 1].filter (fun g => s.plcReports n g && (match s.reportCell n with
    | some c => decide (plcTick t ≤ plcTickNs (s.cellStart g (c + 1)))
    | none => false))

/-- The contact of a report cycle has been judged (R205). -/
def PlcLink.judgedBy (x : PlcLink) (p : Int) : Bool := match x.judged with
  | some j => decide (p ≤ j)
  | none => false

/-- A lantern heard at time `t` (R205): in a report cycle before the end of its cell it meets the contact; a silent lantern becomes present. -/
def State.plcHeard (s : State) (n : Nat) (t : Time) : State :=
  let new := (s.plcMeets n t).filter (fun g => !(s.plcLink n).judgedBy g)
  let s := if new.isEmpty then s else (s.wr (PLM_LTAB_W3_MISS n) 0).onPlcLink n (fun x => { x with met := (new ++ x.met).take 4 })
  if s.on (PLM_LTAB_W3_PRES n) then s else (s.wr (PLM_LTAB_W3_PRES n) 1).plcPost 0x06 (le 2 n ++ [octet 1]) (s.cellEnd (nsOf t))

/-- The end of a lantern's REPORT cell in cycle `p` (R205), after every frame of the clock cycle in which it ends: a contact not met adds 1 to MISS, and at 3 PRES clears. -/
def State.plcReportEnd (s : State) (n : Nat) (p : Int) : State :=
  match s.reportCell n with
  | none => s
  | some c =>
    let e := s.cellStart p (c + 1)
    if s.rd PLM_CTRL_RUNST != 1 || !s.plcPast e || !bit (s.plcEntry n) 31 || !s.plcReports n p || (s.plcLink n).judgedBy p then s
    else
      let s := s.onPlcLink n (fun x => { x with judged := some p })
      let inQuiet : Bool := match s.rfl.quiet with
        | some (a, b) => decide (a < e) && decide (s.cellStart p c < b)
        | none => false
      if (s.plcLink n).met.elem p ∨ inQuiet then s
      else
        let m := s.rd (PLM_LTAB_W3_MISS n)
        let s := s.wr (PLM_LTAB_W3_MISS n) (min 3 (m + 1))
        if m < 2 || (m == 3 && !s.on (PLM_LTAB_W3_PRES n)) then s
        else ((s.wr (PLM_LTAB_W3_PRES n) 0).raise PLM_STATUS_SILENT).plcPost 0x06 (le 2 n ++ [octet 0]) e

/-! ### Downlink frames and assignments (R201, R206) -/

/-- The downlink queue replaced, with its USED field. -/
def State.setPlcQueue (s : State) (q : List Downlink) : State := ({ s with plm := { s.plm with queue := q } }).wr PLM_DLQ_STAT_USED q.length

/-- The result of a frame (R180, R204) at the end of its cell: 0 acknowledged, 1 no ACK, 3 discarded. -/
def State.plcResult (s : State) (d : Downlink) (result cellEnd : Nat) : State :=
  let s := s.plcPost 0x04 (le 2 d.dst ++ [octet d.handle, octet result]) cellEnd
  if result = 1 ∨ result = 2 then (s.raise PLM_STATUS_DLFAIL).count PLM_DLFAIL_CNT_COUNT PLM_STATUS_CNTWRAP else s

/-- A write of PLM_TXCMD (R206, R221): a LEN outside 1 to 128 and a full queue of 16 discard the frame with result 3. -/
def State.plcTxcmd (s : State) (handle dst len : Nat) : State :=
  let d : Downlink := ⟨dst, le len (s.rd PLM_TXBUF_PAYLOAD), handle, s.plcCycle s.now, 0, 0⟩
  if len = 0 ∨ 128 < len then s.plcResult d 3 (s.cellEnd s.now)
  else if s.plm.queue.length < 16 then s.setPlcQueue (s.plm.queue ++ [d])
  else (s.raise PLM_STATUS_DLQFULL).plcResult d 3 (s.cellEnd s.now)

/-- The lowest-indexed pending assignment that does not wait for its ACK, as a frame (R206): PTYPE 0xA2, entry word 0 and DLY; its HANDLE is 0xFF. -/
def State.plcAssignment (s : State) : Option Downlink :=
  match s.plm.assigns.find? (fun x => !s.plm.wait.any (fun w => w.2 && w.1.frame.dst == x.1)) with
  | some (n, tries) => some ⟨n, [octet 0xA2] ++ le 4 (s.plcWord n) ++ le 2 (s.rd (PLM_LTAB_W1_DLY n)), 0xFF, 0, tries, 0⟩
  | none => none

/-- The first downlink frame that does not wait for its ACK (R206). -/
def State.plcFirst (s : State) : Option Downlink := s.plm.queue.find? (fun d => !s.plm.wait.any (fun w => !w.2 && w.1.frame == d))

/-- A frame that leaves the queue or the pending assignments. -/
def State.plcDone (s : State) (d : Downlink) (assign : Bool) : State :=
  if assign then { s with plm := { s.plm with assigns := kvErase s.plm.assigns d.dst } } else s.setPlcQueue (s.plm.queue.erase d)

/-- The wait of a unicast frame sent in a cell that starts at a time in ns (R201): 100 µs beyond the stamp point of the ACK of a lantern at zero distance. -/
def State.plcAwait (s : State) (start air : Nat) (d : Downlink) : Await :=
  ⟨d, start + 2000000 + s.preambleNs + air + 1000000 + s.preambleNs + 100000, start + cellNs⟩

/-- A unicast frame sent in a cell that starts at a time in ns (R201, R206): it waits for its ACK. -/
def State.plcUnicast (s : State) (start air : Nat) (d : Downlink) (assign : Bool) (g : GuardMeet) : State :=
  match s.plcFrame (some d.dst) d.payload with
  | (s, none) => s
  | (s, some f) =>
    if g.frame || g.poison then ((s.plcDone d assign).frameLost g 4 11).plcResult d 3 (start + cellNs)
    else
      let d' := { d with tries := d.tries + 1 }
      let s := if assign then { s with plm := { s.plm with assigns := kvSet s.plm.assigns d.dst d'.tries } }
        else s.setPlcQueue (s.plm.queue.map (fun x => if x = d then d' else x))
      ({ s with plm := { s.plm with wait := s.plm.wait ++ [(s.plcAwait start air d', assign)] } }).plcOut start f

/-- What a BUNDLE cell that starts at a time in ns carries (R206): a bundle, else the lowest pending assignment, else the first downlink frame; a frame larger than the cell allows is
not sent (R197). -/
def State.fillPlcCell (s : State) (start air : Nat) (g : GuardMeet) : State :=
  let (s, b) := s.askBundle .plc g
  if !b.isEmpty then
    match s.plcFrame none (bundleOctets b) with
    | (s, none) => s
    | (s, some f) => if g.frame || g.poison then s.frameLost g 4 11 else (s.plcOut start f).markSent .plc b
  else if s.unicastLimit = 0 then s
  else match s.plcAssignment with
    | some d => s.plcUnicast start air d true g
    | none =>
      match s.plcFirst with
      | some d => if s.unicastLimit < d.payload.length then (s.plcDone d false).plcResult d 3 (start + cellNs) else s.plcUnicast start air d false g
      | none => s

/-- The modem asks for a bundle at least 2 ms before the next BUNDLE cell (R206). -/
def State.plcBundleCell (s : State) (air : Nat) (g : GuardMeet) : State :=
  let u : Int := -(((s.cellOfs : Int) - s.now - 2000000) / cellNs)
  let cell := (u % 64).toNat
  let start := s.cellStart (u / 64) cell
  if s.rd PLM_CTRL_RUNST == 1 && s.dcqOpen 11 && nth 0 s.plcCodes cell == 2 && !s.quietAt start then s.fillPlcCell start air g else s

/-- Whether the frame that waits is still pending: an assignment written again meanwhile begins again (R206). -/
def State.plcStands (s : State) (d : Downlink) (assign : Bool) : Bool := !assign || kvFind s.plm.assigns d.dst == some d.tries

/-- A frame that no longer waits for its ACK. -/
def State.plcWaited (s : State) (w : Await × Bool) : State := { s with plm := { s.plm with wait := s.plm.wait.erase w } }

/-- The stamp of what the modem receives now (R202): that of its replica, less RXLAT. -/
def State.plcStamp (s : State) : Time := timeOfUnits (unitsOf (s.replica repPlc) - s.rd PLM_LAT_RXLAT * 4294967296)

/-- An ACK whose stamp point is now (R201, R202); `ours` says that it names the frame that has waited longest. It is taken up to and in the clock cycle in which the wait expires; half
of what it is late against a lantern at zero distance is DLYM, and one that is early counts as not late (DEDUCED, notes/assumptions/62). -/
def State.plcAck (s : State) (ours : Bool) : State :=
  match s.plm.wait with
  | w :: _ =>
    let d := w.1.frame
    if !ours || decide (plcTickNs w.1.until' < plcTick s.plcStamp) then s
    else
      let stands := s.plcStands d w.2
      let late := unitsOf s.plcStamp - (w.1.until' - 100000) * 4294967296
      let s := (s.plcWaited w).wr (PLM_LTAB_W3_DLYM d.dst) (rnd late 8589934592)
      (if stands then s.plcDone d w.2 else s).plcResult d 0 w.1.cellEnd
  | [] => s

/-- The wait for an ACK that has expired (R201): the frame is sent again at the next opportunity, or fails after 3 attempts. -/
def State.plcAckExpiry (s : State) : State :=
  match s.plm.wait with
  | w :: _ =>
    if !s.plcPast w.1.until' then s
    else if 3 ≤ w.1.frame.tries ∧ s.plcStands w.1.frame w.2 then ((s.plcWaited w).plcDone w.1.frame w.2).plcResult w.1.frame 1 w.1.cellEnd
    else s.plcWaited w
  | [] => s

/-! ### Received frames (R200, R204) -/

/-- A frame discarded (R176, R200). -/
def State.plcDrop (s : State) : State := s.count PLM_DROP_COUNT PLM_STATUS_CNTWRAP

/-- A broadcast frame heard (R200, R204): a TIME frame of another PAN whose MIC verifies is posted; every other is discarded, with SECFAIL where it fails check 3 of R176
under the PLC keys. -/
def State.plcForeign (s : State) (t : Time) (f : Octets) (fcs : Bool) : State :=
  let pan := leAt f 3 2
  let idx := octAt f 12
  if !fcs || pan == s.seg || leAt f 5 2 != 0xFFFF then s.plcDrop
  else if octAt f 7 != 0x0D || (idx != 1 && idx != 2) then (s.plcDrop).raise PLM_STATUS_SECFAIL
  else
    match s.keyFor (s.plcSlot idx) opLink ctxPlm with
    | (s, none) => (s.plcDrop).raise PLM_STATUS_SECFAIL
    | (s, some k) =>
      match opened5 k.key (ccmNonce pan 0x0800 (leAt f 8 4) 5) f 13 with
      | none => (s.plcDrop).raise PLM_STATUS_SECFAIL
      | some p =>
        if octAt p 0 != 0xBD then s.plcDrop
        else
          let q := (s.raise PLM_STATUS_FOREIGN).dcqOffer 10 (s.event 80 0 0x08 (le 2 pan ++ slice p 6 8) t)
          if q.2 then q.1 else (q.1.plcDrop).raise PLM_STATUS_EVDROP

/-- The event of an accepted lantern frame (R204): a report gives it from its own fields as in R180. -/
def State.plcEvent (s : State) (src : Nat) (p : Octets) (t : Time) : Event :=
  if octAt p 0 = 0xC0 then s.lanternEvent 0 src p t else s.event 80 0 0x02 (le 2 src ++ p) t

/-- The replay check under the PLC keys (R176 check 4, R200). -/
def State.plcReplayed (s : State) (src idx fc : Nat) : Bool :=
  if s.rd (PLM_LTAB_W1_FCKEY src) = idx then fc ≤ s.rd (PLM_LTAB_W2_FC src) else idx != s.plm.txKey + 1

/-- An accepted frame (R197, R200 to R205): its ACK 1.000 ms after its last sample, what it leaves in the sender's entry, and presence. -/
def State.plcAccept (s : State) (src idx fc snr fcsValue air : Nat) (t : Time) : State :=
  let s := (s.count PLM_RX_COUNT PLM_STATUS_CNTWRAP).plcEmit (nsOf (s.replica repPlc) + air + 1000000) (le 2 fcsValue)
  let s := ((s.wr (PLM_LTAB_W1_FCKEY src) idx).wr (PLM_LTAB_W2_FC src) fc).wr (PLM_LTAB_W3_SNR src) snr
  s.plcHeard src t

/-- A lantern's frame (R200): the checks of R176 in order under the PLC table and keys. -/
def State.plcLantern (s : State) (t : Time) (f : Octets) (fcs : Bool) (fcsValue snr air : Nat) : State :=
  let src := leAt f 7 2
  let idx := octAt f 14
  let fc := leAt f 10 4
  if !fcs || leAt f 3 2 != s.seg || leAt f 5 2 != 0x0800 || leAt f 0 2 != 0x9869 || 2048 ≤ src then s.plcDrop
  else if octAt f 9 != 0x0D || (idx != 1 && idx != 2) then (s.plcDrop).raise PLM_STATUS_SECFAIL
  else
    match s.keyFor (s.plcSlot idx) opLink ctxPlm with
    | (s, none) => (s.plcDrop).raise PLM_STATUS_SECFAIL
    | (s, some k) =>
      match opened5 k.key (ccmNonce s.seg src fc 5) f 15 with
      | none => (s.plcDrop).raise PLM_STATUS_SECFAIL
      | some p =>
        let report := octAt p 0 == 0xC0
        if !report && octAt p 0 / 16 != 0xE then s.plcDrop
        else if s.plcReplayed src idx fc then (s.plcDrop).raise PLM_STATUS_REPLAY
        else if report && (octAt p 1 / 64 != 0 || leAt p 4 2 % 2048 != src) then s.plcDrop
        else if !bit (s.plcEntry src) 31 then s.plcDrop
        else
          let q := s.dcqOffer 10 (s.plcEvent src p t)
          if q.2 then q.1.plcAccept src idx fc snr fcsValue air t else (q.1.plcDrop).raise PLM_STATUS_EVDROP

/-- A frame whose stamp point is now at the modem (R194, R200, R202): in a quiet window it does not listen; a frame in a ROBO or coherent mode, and a PSDU of more than 200 octets
with its FCS, are discarded. -/
def State.plcReceive (s : State) (f : Octets) (meet : PlcMeet) (fcsValue snr : Nat) : State :=
  if (s.rd PLM_CTRL_RUNST != 1 && s.rd PLM_CTRL_RUNST != 2) || s.quietAt s.now then s
  else if meet.robo || 198 < f.length then s.plcDrop
  else if leAt f 0 2 = 0x1809 then s.plcForeign s.plcStamp f meet.fcs
  else s.plcLantern s.plcStamp f meet.fcs fcsValue snr meet.air

/-! ### Shut-down (R209) and write locks (R221) -/

/-- The modem's shut-down: the downlink queue is discarded with result 3 and the pending assignments are discarded (R209). -/
def State.plmShut (s : State) : State :=
  let s := s.plm.queue.foldl (fun (s : State) d => s.plcResult d 3 (s.cellEnd s.now)) (s.setPlcQueue [])
  ({ s with plm := { s.plm with assigns := [], wait := [] } }).wr PLM_CTRL_RUNST 0

/-- The writes that PLM ignores with CFGREJ by address (R221). -/
def State.plmLocked (s : State) (a : Nat) : Bool :=
  (s.rd PLM_CTRL_RUNST != 0 && (a == 0x40080010 || (0x40080200 ≤ a && a < 0x40080220))) ||
  (s.rd PLM_RFL_STAT_PHASE != 0 && (a == 0x40080400 || a == 0x40080404 || a == 0x40080408 || a == 0x40080410 || (0x40080440 ≤ a && a < 0x40080450)))

end Sys2Proof.Machine
end

