-- ==== Sys2Proof/Machine/Reflect.lean ====
section
/-!
DEFINITION. Reflect mode (R210 to R220): arming, the run and its shots, the search for changes, the distance, the result record, baselines, and the end of a run.
-/
namespace Sys2Proof.Machine

/-- Reflect with nothing armed. -/
def ReflectState.init : ReflectState := ⟨none, none, false, [], []⟩

/-! ### Settings (R217, R221) -/

/-- SPATH and TCH; 3 acts as 0 and as 2 (R221). -/
def State.sPath (s : State) : Nat := if s.rd PLM_RFL_CFG_SPATH = 3 then 0 else s.rd PLM_RFL_CFG_SPATH
def State.tch (s : State) : Nat := min 2 (s.rd PLM_RFL_CFG_TCH)

/-- SETUP of a run (R218). -/
def State.rflSetup (s : State) : Nat := s.sPath + 4 * s.rd PLM_RFL_CFG_COND + 8 * s.tch

/-- The coupling path that PLC_SEL selects: SPATH in a quiet window, else TPATH, of which 3 acts as 0 (R193, R212). -/
def State.plcSel (s : State) : Nat := if s.quietAt s.now then s.sPath else s.tPath

/-- The offset of baseline slot `n` in the PST window (R217, R284). -/
def baselineAt (n : Nat) : Nat := 0x3E0000 + 0x2000 * n

/-- The octets of a baseline record (R218). -/
def State.baselineOctets (s : State) (n : Nat) : Octets := s.pstOctets (baselineAt n) 4160

/-- Slot `n` holds a valid baseline (R217, R286). -/
def State.baselineValid (s : State) (n : Nat) : Bool := s.recordValid (baselineAt n) 4160

/-- PLM_RFL_BDIRn: VALID with PATH, COND, TCH, RXG and LEVEL of a valid slot (R221). -/
def State.bdirWord (s : State) (n : Nat) : Nat :=
  if s.baselineValid n then
    let h := s.pstOctets (baselineAt n) 64
    2 ^ 31 + bits (octAt h 2) 0 2 * 2 ^ 28 + bits (octAt h 2) 2 1 * 2 ^ 27 + bits (octAt h 2) 3 2 * 2 ^ 25 + octAt h 3 % 16 * 2 ^ 21 + leAt h 4 2 % 1024
  else 0

/-- The lowest valid slot whose PATH, COND, TCH and RXG equal the run's, and for LIVE its LEVEL (R217). -/
def State.findBaseline (s : State) : Option Nat :=
  (List.range 8).find? (fun n => s.baselineValid n && (
    let h := s.pstOctets (baselineAt n) 64
    octAt h 2 % 32 == s.rflSetup && octAt h 3 == s.rd PLM_RFL_CFG_RXG && (!s.on PLM_RFL_CFG_COND || leAt h 4 2 == s.rd PLM_RFL_LEVEL_LEVEL)))

/-! ### Arming (R213) -/

/-- PHASE: 0 IDLE, 1 ARMED, 2 NOISE, 3 SHOTS, 4 PROCESS, 5 STORE (R221). -/
def State.rflPhase (s : State) : Nat := s.rd PLM_RFL_STAT_PHASE
def State.setPhase (s : State) (p : Nat) : State := s.wr PLM_RFL_STAT_PHASE p

/-- TSTART in ns, rounded up to a cell start (R213). -/
def State.tStart (s : State) : Nat := ceilDiv (s.rd PLM_RFL_TSTART_T10 * 10000000) cellNs * cellNs

/-- A write of OP = START or BASELINE (R213): it arms a run, or is ignored with STARTREJ. -/
def State.rflArm (s : State) (baseline : Bool) (slot : Nat) : State :=
  let t := s.tStart
  let ahead := if s.on PLM_RFL_CFG_COND then 7000000000 else 100000000
  let found := s.findBaseline
  if !s.on PLM_CTRL_REFL_EN || s.rflPhase != 0 || t < s.now + ahead || (!baseline && found.isNone) then s.raise PLM_STATUS_STARTREJ
  else
    let s := s.count PLM_RFL_RUNS_COUNT PLM_STATUS_CNTWRAP
    let run : ReflectRun := ⟨baseline, if baseline then slot else found.getD 0, t, s.rd PLM_RFL_RUNS_COUNT % 65536, 0, [], [], []⟩
    (({ s with rfl := { s.rfl with run := some run } }).wr PLM_RFL_STAT_SHOTS 0).setPhase 1

/-! ### The result record (R219) -/

/-- A change that a run reports (R214, R219). -/
structure Change where
  dist : Int
  dtau : Int
  amp : Int
  cls : Nat
  flags : Nat
  snr : Nat
deriving DecidableEq, Repr

/-- The 16 octets of a change (R219). -/
def Change.octets (c : Change) : Octets :=
  le 4 (unsigned 32 c.dist) ++ le 4 (unsigned 32 c.dtau) ++ le 2 (unsigned 16 c.amp) ++ [octet c.cls, octet c.flags] ++ le 2 c.snr ++ zeros 2

/-- The payload of a run's record (R219). -/
def State.rflRecord (s : State) (r : ReflectRun) (status sigma thru : Nat) (cs : List Change) (more : Bool) : Octets :=
  let base := if s.baselineValid r.slot && status != 1 then slice (s.baselineOctets r.slot) 8 8 else zeros 8
  [octet status, octet (s.rflSetup + 32 * b2n more), octet r.slot, octet cs.length] ++ le 2 r.runId ++ le 2 s.navgl ++
    le 8 (ts64 (timeOfNs r.start)) ++ base ++ le 2 sigma ++ le 2 thru ++ zeros 4 ++ (cs.map Change.octets).flatten

/-- A run ends: PHASE is IDLE and its record is registered on channel 81 (R219); a status other than OK sets RABORT. -/
def State.rflEnd (s : State) (r : ReflectRun) (status sigma thru : Nat) (cs : List Change) (more : Bool) : State :=
  let e := s.event 81 0 0x01 (s.rflRecord r status sigma thru cs more) s.tb.now
  (((({ s with rfl := { s.rfl with run := none } }).setPhase 0).post e).raise PLM_STATUS_RUNDONE).raiseIf (status != 0) PLM_STATUS_RABORT

/-- The slot of a baseline capture that ends early is left invalid (R220): its valid mark is cleared, as the first write of a record does (R287). -/
def State.baselineVoid (s : State) (r : ReflectRun) : State :=
  if r.baseline then s.pstWords .plm ((frameWrites (baselineAt r.slot) false (zeros 4160)).take 1) else s

/-- A run ends with a status that reports no change: 1 NOBASE, 2 MISMATCH, 4 ABORT. -/
def State.rflFail (s : State) (r : ReflectRun) (status : Nat) : State := (s.baselineVoid r).rflEnd r status 0 0 [] false

/-! ### The run and its shots (R210 to R212) -/

/-- COND matches the voltage-present signal of the phase of SPATH, with metering RUNNING (R210). -/
def State.condHolds (s : State) : Bool :=
  s.rd MTR_CTRL_RUNST == 1 && bit (s.rd MTR_PHST_VPRES) s.sPath == s.on PLM_RFL_CFG_COND

/-- TSTART of an armed run (R212): the quiet window opens, COND is checked and the noise phase begins, with the captures it takes. -/
def State.rflStart (s : State) (noise : List (List Int)) : State :=
  match s.rfl.run with
  | some r =>
    if s.rflPhase ≠ 1 ∨ s.now < r.start then s
    else
      let s := { s with rfl := { s.rfl with quiet := some (r.start, r.start + s.qCells r.baseline * cellNs), quietOn := true } }
      if !s.condHolds then s.rflFail r 2
      else ({ s with rfl := { s.rfl with run := some { r with noise := noise } } }).setPhase 2
  | none => s

/-- A capture with its sign added to an accumulator, sample by sample, in 32 bits (R211). -/
def addCapture (neg : Bool) : List Int → List Int → List Int
  | as, [] => as
  | [], c :: cs => signed 32 (unsigned 32 (if neg then -c else c)) :: addCapture neg [] cs
  | a :: as, c :: cs => signed 32 (unsigned 32 (if neg then a - c else a + c)) :: addCapture neg as cs

/-- A shot (R211): accumulated with alternating polarity, or repeated where it is clipped, a word of DCQ 12 is poisoned or a sample is missing; after 16 repeats the run
ends with ABORT. -/
def State.rflShot (s : State) (capture : List Int) (clipped poison : Bool) : State :=
  match s.rfl.run with
  | some r =>
    if s.rflPhase ≠ 2 ∧ s.rflPhase ≠ 3 then s
    else
      let s := s.setPhase 3
      let j := s.rd PLM_RFL_STAT_SHOTS
      let s := if poison then s.dcqPoison 12 else s
      if clipped || poison || !s.dcqOpen 12 || decide (capture.length < 4096) then
        if r.repeats < 16 then { s with rfl := { s.rfl with run := some { r with repeats := r.repeats + 1 } } } else s.rflFail r 4
      else
        let inB := r.baseline && decide (s.shotsOf true / 2 ≤ j)
        let c := capture.take 4096
        let r := if inB then { r with accB := addCapture (j % 2 == 1) r.accB c } else { r with accA := addCapture (j % 2 == 1) r.accA c }
        let s := ({ s with rfl := { s.rfl with run := some r } }).wr PLM_RFL_STAT_SHOTS (j + 1)
        if j + 1 < s.shotsOf r.baseline then s else s.setPhase 4
  | none => s

/-! ### The correlation (R214) -/

/-- The samples of a chirp: 64, 128 or 256 µs at 8 MS/s (R193, R211). -/
def chirpLen (tch : Nat) : Nat := 512 * 2 ^ tch

/-- The Hann weight of sample `n` of `l`, times a constant (R214). -/
def hann (l n : Nat) : Int := Config.cosine 0 1 - Config.cosine n l

/-- The phase of the chirp at sample `n` in 1/(40 × `l`) of a turn: 0.2 MHz is 1/40 turn to a sample, and 2.8 MHz is gained over the `l` samples (R211). -/
def chirpPhase (l n : Nat) : Nat := n * l + 7 * n * n

/-- The weighted chirp and its quadrature (R214). -/
def chirpI (l : Nat) : List Int := (List.range l).map (fun n => hann l n * Config.cosine (chirpPhase l n) (40 * l))
def chirpQ (l : Nat) : List Int := (List.range l).map (fun n => hann l n * Config.cosine (chirpPhase l n + 30 * l) (40 * l))

/-- The sum of the products of a capture, from a lag on, with a reference. -/
def dot (c : List Int) (r : List Int) (lag : Nat) : Int := sumI (List.zipWith (fun x y => x * y) (c.drop lag) r)

/-- The complex analytic correlation of a capture at lags 0 to 1,023 (R214 step 1). -/
def correlate (tch : Nat) (c : List Int) : List (Int × Int) :=
  (List.range 1024).map (fun m => (dot c (chirpI (chirpLen tch)) m, -dot c (chirpQ (chirpLen tch)) m))

/-- The integer square root, bit by bit from 2^`b` down. -/
def sqrtFrom (n : Nat) : Nat → Nat → Nat
  | 0, r => r
  | b + 1, r => sqrtFrom n b (if (r + 2 ^ b) * (r + 2 ^ b) ≤ n then r + 2 ^ b else r)

/-- The square root of a quotient, rounded by the free rule (notes/assumptions/6); over 0 it is free (notes/assumptions/9). -/
def rootOver (n d : Nat) : Nat :=
  if d = 0 then Config.overZero n
  else
    let r := sqrtFrom (n / d) (Nat.log2 (n / d) / 2 + 1) 0
    if r * r * d = n then r else r + b2n (Config.rounds n d)

/-- A quotient of an integer rounded by the same rule. -/
def quotI (n : Int) (d : Nat) : Int :=
  if d = 0 then Config.overZero n.natAbs else if n < 0 then -(rnd n.natAbs d : Int) else (rnd n.natAbs d : Int)

/-- A value brought into a field of `w` bits: one that does not fit it is free (notes/assumptions/9). -/
def fitI (w : Nat) (v : Int) : Int := if -(2 ^ (w - 1) : Int) ≤ v ∧ v < (2 ^ (w - 1) : Int) then v else Config.noFit w v

/-- The lag of the near-end peak (R214 step 1), held within the trace. -/
def State.nearLag (s : State) : Nat := min 1023 (rnd (s.rd PLM_RFL_ZERO_ZERO) 125000)

/-- |z|² of a correlation value. -/
def norm2 (z : Int × Int) : Nat := (z.1 * z.1 + z.2 * z.2).toNat

/-- REFAMP of a correlation (R218): its envelope at the near-end lag. -/
def State.refAmp (s : State) (c : List (Int × Int)) : Nat :=
  let a := rootOver (norm2 (nth (0, 0) c s.nearLag)) 1
  if a < 4294967296 then a else (Config.noFit 32 a).natAbs

/-- REFAMP, the number of shots and the trace of a baseline record (R217, R218). -/
def recordAmp (base : Octets) : Nat := leAt base 20 4
def recordShots (base : Octets) : Nat := 4 * 2 ^ leAt base 6 2
def recordTrace (base : Octets) : List (Int × Int) :=
  (List.range 1024).map (fun m => (signed 16 (leAt base (64 + 4 * m) 2), signed 16 (leAt base (66 + 4 * m) 2)))

/-- The divisor of a run's values against a baseline: its shots and REFAMP. -/
def rflScale (shots : Nat) (base : Octets) : Nat := shots * recordAmp base

/-- The difference of a run and a baseline at each lag, times `rflScale`, in Q15 of REFAMP (R214 step 2): the run scaled to the baseline's number of shots, less the trace, in which
REFAMP is 16,384. -/
def rflDiff (tch shots : Nat) (acc : List Int) (base : Octets) : List (Int × Int) :=
  let k : Int := recordShots base * 32768
  let d : Int := 2 * rflScale shots base
  List.zipWith (fun x t => (x.1 * k - t.1 * d, x.2 * k - t.2 * d)) (correlate tch acc) (recordTrace base)

/-- The envelope e of the difference in Q15 of REFAMP (R214 step 2). -/
def reflectEnvelope (tch shots : Nat) (acc : List Int) (base : Octets) : List Nat :=
  (rflDiff tch shots acc base).map (fun z => rootOver (norm2 z) (rflScale shots base * rflScale shots base))

/-- σ, the rms of e at a number of shots, from the captures of the noise phase (R214 step 3): of independent shots the mean squares add, and each sum is scaled to the baseline's number of
shots. -/
def reflectSigma (tch shots : Nat) (noise : List (List Int)) (base : Octets) : Nat :=
  let sum := sumN (noise.map (fun c => sumN ((correlate tch c).map norm2)))
  let k := recordShots base * 32768
  rootOver (sum * k * k) (1024 * noise.length * shots * recordAmp base * recordAmp base)

/-- AMP at a lag (R214 step 6): the real part of the difference, turned by the phase of the baseline's near-end pulse, in Q15 of REFAMP. -/
def State.reflectAmp (s : State) (shots : Nat) (acc : List Int) (base : Octets) (m : Nat) : Int :=
  let z := nth (0, 0) (rflDiff s.tch shots acc base) m
  let p := nth (0, 0) (recordTrace base) s.nearLag
  let n := z.1 * p.1 + z.2 * p.2
  let a := rootOver (n.natAbs * n.natAbs) (rflScale shots base * rflScale shots base * norm2 p)
  fitI 16 (if n < 0 then -(a : Int) else (a : Int))

/-- The envelope of the correlated difference of the halves of a baseline capture, in Q15 of its REFAMP (R217). -/
def State.reflectHalves (s : State) (accA accB : List Int) : List Nat :=
  let a := correlate s.tch accA
  let b := correlate s.tch accB
  let whole := List.zipWith (fun (x y : Int × Int) => (x.1 + y.1, x.2 + y.2)) a b
  let amp := s.refAmp whole
  (List.zipWith (fun (x y : Int × Int) => (x.1 - y.1, x.2 - y.2)) a b).map (fun z => rootOver (norm2 z * 32768 * 32768) (amp * amp))

/-- SNR of an envelope value over σ in 0.1 dB (R219): the greatest n with 10^(n / 200) not above the ratio, or the next by the free rule where the ratio is no such power; of a
ratio below 1 and of σ = 0 it is free (notes/assumptions/9). -/
def snrOf (e sigma : Nat) : Nat :=
  if sigma = 0 ∨ e < sigma then Config.decibels e sigma
  else
    let n := ((List.range 1024).filter (fun n => decide (sigma ^ 200 * 10 ^ n ≤ e ^ 200))).length - 1
    if sigma ^ 200 * 10 ^ n = e ^ 200 then n else n + b2n (Config.rounds (e ^ 200) (sigma ^ 200))

/-! ### The search for changes (R214, R215) -/

/-- A quotient rounded to the nearest integer, halves away from zero. -/
def roundHalfAway (a : Int) (b : Nat) : Int := if a < 0 then -(((2 * a.natAbs + b) / (2 * b) : Nat) : Int) else ((2 * a.natAbs + b) / (2 * b) : Nat)

/-- δ of a peak in 1/64 lag (R214 step 5). -/
def peakOffset (y0 y1 y2 : Nat) : Int :=
  let d : Int := 2 * ((y0 : Int) - 2 * y1 + y2)
  let n : Int := 64 * ((y0 : Int) - y2)
  if d < 0 then roundHalfAway (-n) d.natAbs else roundHalfAway n d.natAbs

/-- Δτ of a peak in ps (R214 step 5). -/
def State.dTau (s : State) (m : Nat) (delta : Int) : Int := (64 * (m : Int) + delta) * 1953125 / 1000 - s.rd PLM_RFL_ZERO_ZERO

/-- The distance in cm over the cable sections from section `i` on (R215). -/
def State.distFrom (s : State) : Nat → Nat → Int → Int → Int
  | 0, _, pos, _ => pos
  | n + 1, i, pos, rem =>
    let vf := s.rd (PLM_RFL_SECT_VF i)
    let e : Nat := s.rd (PLM_RFL_SECT_END i)
    let last := pos + rem * vf * 299792458 / (2 * 4096 * 10000000000)
    if vf = 0 then pos
    else if e = 0 ∨ i = 3 then last
    else
      let seg := (e - pos) * (2 * 4096 * 10000000000) / (vf * 299792458)
      if rem ≤ seg then last else s.distFrom n (i + 1) e (rem - seg)

/-- DIST of a delay in ps (R215). -/
def State.distOf (s : State) (dtau : Int) : Int := s.distFrom 4 0 0 dtau

/-- The local maxima of the envelope above a threshold, as (lag, value), largest first (R214 step 4). -/
def candidates (e : List Nat) (t : Nat) : List (Nat × Nat) :=
  let at' := fun i => nth 0 e i
  let l := (List.range 1024).filter (fun m => decide (t < at' m) && (m == 0 || decide (at' (m - 1) < at' m)) && decide (at' (m + 1) ≤ at' m))
  sortBy (fun a b => decide (b.2 < a.2)) (l.map (fun m => (m, at' m)))

/-- Lags that lie apart by at most `n`. -/
def near (n a b : Nat) : Bool := a ≤ b + n && b ≤ a + n

/-- The candidates kept, each with MERGED, in order (R214 step 4). -/
def keepPeaks : List (Nat × Nat × Bool) → List (Nat × Nat) → List (Nat × Nat × Bool)
  | kept, [] => kept
  | kept, (m, y) :: t =>
    if kept.any (fun k => near 3 k.1 m) then keepPeaks (kept.map (fun k => if near 3 k.1 m then (k.1, k.2.1, true) else k)) t
    else if kept.any (fun k => near 16 k.1 m && decide (32 * y < k.2.1)) then keepPeaks kept t
    else keepPeaks (kept ++ [(m, y, false)]) t

/-- A kept peak as a change (R214 steps 5 and 6). -/
def State.changeOf (s : State) (r : ReflectRun) (base : Octets) (e : List Nat) (sigma : Nat) (k : Nat × Nat × Bool) : Change :=
  let m := k.1
  let dtau := s.dTau m (peakOffset (if m = 0 then 0 else nth 0 e (m - 1)) k.2.1 (nth 0 e (m + 1)))
  let dist := s.distOf dtau
  let amp := s.reflectAmp (s.shotsOf false) r.accA base m
  let cls := if 0 < amp then 1 else if amp ≤ -((s.rd PLM_RFL_DET_SHORTK * 128 : Nat) : Int) then 2 else 3
  ⟨dist, dtau, amp, cls, b2n k.2.2 + 2 * b2n (decide (dtau < 500000)) + 4 * b2n (decide (300000 < dist)), snrOf k.2.1 sigma⟩

/-- The search of a START run whose baseline stands and whose COND holds (R214). -/
def State.rflSearch (s : State) (r : ReflectRun) : State :=
  let base := s.baselineOctets r.slot
  let sigma := reflectSigma s.tch (s.shotsOf false) r.noise base
  let noise := rnd (s.rd PLM_RFL_DET_NOISEK * sigma) 10
  let t := max (s.rd PLM_RFL_DET_THR) noise
  if 8192 * 10 < s.rd PLM_RFL_DET_NOISEK * sigma then s.rflEnd r 3 sigma t [] false
  else
    let e := reflectEnvelope s.tch (s.shotsOf false) r.accA base
    let kept := keepPeaks [] (candidates e (max (s.rd PLM_RFL_DET_THR) (s.rd PLM_RFL_DET_NOISEK * sigma / 10)))
    let cs := (kept.take 8).map (s.changeOf r base e sigma)
    s.rflEnd r 0 sigma t (sortBy (fun a b => decide (a.dist < b.dist)) cs) (decide (8 < kept.length))

/-! ### Baselines (R217, R218) -/

/-- TRACE (R218): I and Q of each lag, scaled so that REFAMP is 16,384. -/
def traceOctets (amp : Nat) (c : List (Int × Int)) : Octets :=
  c.flatMap (fun z => le 2 (unsigned 16 (fitI 16 (quotI (z.1 * 16384) amp))) ++ le 2 (unsigned 16 (fitI 16 (quotI (z.2 * 16384) amp))))

/-- The record of a stable capture (R218); CRC and VALID are filled as it is written. -/
def State.baselineRecord (s : State) (r : ReflectRun) : Octets :=
  let c := correlate s.tch (addCapture false r.accA r.accB)
  [octet 1, octet r.slot, octet s.rflSetup, octet (s.rd PLM_RFL_CFG_RXG)] ++ le 2 (s.rd PLM_RFL_LEVEL_LEVEL) ++ le 2 s.navgl ++
    le 8 (ts64 (timeOfNs r.start)) ++ le 4 (s.rd PLM_RFL_ZERO_ZERO) ++ le 4 (s.refAmp c) ++ zeros 40 ++
    padTo 4096 (traceOctets (s.refAmp c) c)

/-- Step 5 of a baseline capture (R217): an unstable one sets BASEUNST; a stable one begins to write its slot, which reads invalid from the first octet. -/
def State.baselineProcess (s : State) (r : ReflectRun) : State :=
  if (s.reflectHalves r.accA r.accB).any (fun y => decide (s.rd PLM_RFL_DET_THR < 2 * y)) then
    (({ s with rfl := { s.rfl with run := none } }).setPhase 0).raise PLM_STATUS_BASEUNST
  else
    let rec' := s.baselineRecord r
    match frameWrites (baselineAt r.slot) false rec' with
    | w :: ws => (({ s with rfl := { s.rfl with head := rec'.take 16, store := ws } }).pstWords .plm [w]).setPhase 5
    | [] => s

/-- Step 5 of R212: COND is checked again; a baseline capture goes on to its store, and a run is searched against its baseline. -/
def State.rflProcess (s : State) : State :=
  match s.rfl.run with
  | some r =>
    if s.rflPhase ≠ 4 then s
    else if !s.condHolds then s.rflFail r 2
    else if r.baseline then s.baselineProcess r
    else if !s.baselineValid r.slot then s.rflFail r 1
    else s.rflSearch r
  | none => s

/-- A baseline record is written (R217): BASEDONE and a KIND 0x02 event with octets 0 to 15 of the record. -/
def State.baselineDone (s : State) : State :=
  if s.rflPhase ≠ 5 then s
  else
    let h := s.rfl.head
    let s := ({ s with rfl := { s.rfl with run := none, head := [], store := [] } }).pstWords .plm s.rfl.store
    ((s.setPhase 0).raise PLM_STATUS_BASEDONE).post (s.event 81 0 0x02 h s.tb.now)

/-! ### The end of a run (R212, R220) -/

/-- A run in progress given up with ABORT: its record is registered, and a store under way is left unfinished (R220). -/
def State.rflGiveUp (s : State) (r : ReflectRun) : State := ({ s with rfl := { s.rfl with head := [], store := [] } }).rflFail r 4

/-- OP = ABORT or REFL_EN = 0 (R220): an armed run is disarmed; a run in progress ends with ABORT, and traffic resumes at the next cell. -/
def State.rflAbort (s : State) : State :=
  match s.rfl.run with
  | none => s
  | some r =>
    if s.rflPhase = 1 then ({ s with rfl := { s.rfl with run := none } }).setPhase 0
    else
      let q := match s.rfl.quiet with
        | some (a, b) => some (a, min b (s.cellEnd s.now))
        | none => none
      ({ s with rfl := { s.rfl with quiet := q } }).rflGiveUp r

/-- The end of the quiet window (R212): traffic resumes, and a run whose shots are not processed ends with ABORT. -/
def State.quietEnd (s : State) : State :=
  match s.rfl.quiet with
  | some (_, b) =>
    if !s.rfl.quietOn || s.now < b then s
    else
      let s := { s with rfl := { s.rfl with quietOn := false } }
      match s.rfl.run with
      | some r => if s.rflPhase = 2 ∨ s.rflPhase = 3 ∨ s.rflPhase = 4 then s.rflFail r 4 else s
      | none => s
  | none => s

/-- Reflect's shut-down (R220): its reset state of operation is PHASE = IDLE. -/
def State.rflShut (s : State) : State :=
  (({ s with rfl := { s.rfl with run := none, head := [], store := [] } }).setPhase 0).wr PLM_CTRL_RUNST_R 0

end Sys2Proof.Machine
end

