-- ==== Sys2Proof/Machine/Rtc.lean ====
section
/-!
DEFINITION. The real-time clock and the backup domain (R300 to R319): the calendar, the freeze of the time group, commit and hour commands, the
discipline from network time, trim, the oscillator, switchover, alarms and PON.
-/
namespace Sys2Proof.Machine

/-! ### Dates (R300 to R302) -/

/-- A leap year, by years since 2000 (R301). -/
def leapYear (y : Nat) : Bool := (y % 4 == 0 && (2000 + y) % 100 != 0) || (2000 + y) % 400 == 0

/-- The length of a month, 1 to 12 (R301). -/
def monthLength (y m : Nat) : Nat :=
  if m = 2 then (if leapYear y then 29 else 28) else if m = 4 ∨ m = 6 ∨ m = 9 ∨ m = 11 then 30 else 31

/-- Days of the years before year `y` of the calendar's range. -/
def daysBeforeYear (y : Nat) : Nat := y * 365 + (y + 3) / 4 - (if 100 < y then 1 else 0)

/-- Days of the months before month `m`. -/
def daysBeforeMonth (y m : Nat) : Nat := sumN ((List.range (m - 1)).map (fun i => monthLength y (i + 1)))

/-- The number of days from 2000-01-01 to a date. -/
def dayNumber (y m d : Nat) : Nat := daysBeforeYear y + daysBeforeMonth y m + (d - 1)

/-- The days of the calendar's range, 2000 to 2199 (R300). -/
def calendarDays : Nat := 73049

/-- Year, month and day of a day number. -/
def dateOf (n : Nat) : Nat × Nat × Nat :=
  let y := ((List.range 200).find? (fun y => n < daysBeforeYear (y + 1))).getD 199
  let r := n - daysBeforeYear y
  let m := ((List.range 12).find? (fun i => r < daysBeforeMonth y (i + 2))).getD 11 + 1
  (y, m, r - daysBeforeMonth y m + 1)

/-- WDAY of a day number: 2000-01-01 is a Saturday, 5 (R300). -/
def weekDay (n : Nat) : Nat := (n + 5) % 7

/-- The calendar in seconds after 2000-01-01 00:00:00. -/
def State.calendar (s : State) : Nat :=
  dayNumber (s.rd RTC_DATE_YEAR) (s.rd RTC_DATE_MONTH) (s.rd RTC_DATE_DAY) * 86400 + s.rd RTC_TIME_HOUR * 3600 + s.rd RTC_TIME_MIN * 60 +
  s.rd RTC_TIME_SEC

/-- The calendar set to a number of seconds after 2000-01-01 00:00:00. -/
def State.setCalendar (s : State) (n : Nat) : State :=
  let d := n / 86400
  let q := dateOf d
  let s := (((s.wr RTC_DATE_YEAR q.1).wr RTC_DATE_MONTH q.2.1).wr RTC_DATE_DAY q.2.2).wr RTC_DATE_WDAY (weekDay d)
  ((s.wr RTC_TIME_HOUR (n % 86400 / 3600)).wr RTC_TIME_MIN (n % 3600 / 60)).wr RTC_TIME_SEC (n % 60)

/-- A change of the calendar in seconds: past either end of the range it wraps, with YWRAP (R302). -/
def State.moveCalendar (s : State) (d : Int) : State :=
  let v := (s.calendar : Int) + d
  let m : Nat := calendarDays * 86400
  (s.setCalendar (v % (m : Int)).toNat).raiseIf (v < 0 || (m : Int) ≤ v) RTC_STATUS_YWRAP

/-! ### Alarms and PON (R317, R318) -/

/-- PON driven, with the source of the change (R318). -/
def State.setPon (s : State) (level src : Nat) : State := (s.wr RTC_PON_PON level).wr RTC_PON_SRC src

/-- Whether alarm `n` matches the calendar (R317). -/
def State.alarmMatches (s : State) (n : Nat) : Bool :=
  let k := s.rd (RTC_ALM_W1_MASK n)
  s.on (RTC_ALM_W1_EN n) && !s.on RTC_STATUS_OSCSTOP &&
  (!bit k 0 || s.rd RTC_TIME_SEC == s.rd (RTC_ALM_W0_SEC n)) && (!bit k 1 || s.rd RTC_TIME_MIN == s.rd (RTC_ALM_W0_MIN n)) &&
  (!bit k 2 || s.rd RTC_TIME_HOUR == s.rd (RTC_ALM_W0_HOUR n)) && (!bit k 3 || s.rd RTC_DATE_DAY == s.rd (RTC_ALM_W0_DAY n)) &&
  (!bit k 4 || s.rd RTC_DATE_MONTH == s.rd (RTC_ALM_W1_MONTH n)) && (!bit k 5 || s.rd RTC_DATE_YEAR == s.rd (RTC_ALM_W1_YEAR n))

/-- One alarm checked: its flag, and its action on PON (R317). -/
def State.checkAlarm (s : State) (n : Nat) : State :=
  if !s.alarmMatches n then s
  else
    let s := s.raise (if n = 0 then RTC_STATUS_ALM0 else RTC_STATUS_ALM1)
    let a := s.rd (RTC_ALM_W1_ACT n)
    if a = 1 then s.setPon 1 (n + 1) else if a = 2 then s.setPon 0 (n + 1) else s

/-! ### The second tick (R300, R306) -/

/-- ZONE in quarter-hours; values outside −48 to +56 act as the nearer limit (R319). -/
def State.zone (s : State) : Int := clampI (-48) 56 (s.rdI RTC_ZONE_ZONE)

/-- The armed hour change applied (R306). -/
def State.applyHour (s : State) : State :=
  match s.rtc.armed with
  | none => s
  | some add =>
    let s := { s with rtc := { s.rtc with armed := none } }
    let z := s.zone
    (s.moveCalendar (if add then 3600 else -3600)).wrI RTC_ZONE_ZONE (if add then z + 4 else z - 4)

/-- `n` RTC cycles pass: the part of a trim step that they bring, in 2^-20 of a count (R313). -/
def State.trimBy (s : State) (n : Nat) : State :=
  { s with rtc := { s.rtc with trimAcc := s.rtc.trimAcc + n * (s.rdI RTC_TRIM_TRIM).natAbs } }

/-- The prescaler as a command finds it. -/
def State.prescalerAt (s : State) (p : Nat) : State :=
  let t := s.trimBy (p % 32768 - s.rtc.prescaler)
  { t with rtc := { t.rtc with prescaler := p % 32768 } }

/-- The second tick's own work (R300): the calendar advances, an armed hour change applies in the same cycle, and the alarms are checked, ALM0 first (R307). -/
def State.rtcSecond (s : State) : State :=
  let t := s.trimBy (32768 - s.rtc.prescaler)
  let t := ({ t with rtc := { t.rtc with prescaler := 0 } }.moveCalendar 1).applyHour
  (t.checkAlarm 0).checkAlarm 1

/-! ### Coincidences (R307) -/

/-- What has fallen in the present RTC cycle, if anything has: less than 1/32,768 s has passed since (notes/assumptions/57). -/
def State.rtcNow (s : State) : Option RtcCycle :=
  match s.rtc.cycle with
  | some c => if s.elapsed < c.at' + 30518 then some c else none
  | none => none

/-- The fields that a tick or a mark may change. -/
def rtcFields : List Field :=
  [RTC_DATE_YEAR, RTC_DATE_MONTH, RTC_DATE_DAY, RTC_DATE_WDAY, RTC_TIME_HOUR, RTC_TIME_MIN, RTC_TIME_SEC, RTC_ZONE_ZONE, RTC_STATUS_ALM0, RTC_STATUS_ALM1,
   RTC_STATUS_YWRAP, RTC_PON_PON, RTC_PON_SRC, RTC_STATUS_DISCRNG, RTC_STATUS_DISCSTEP, RTC_STATUS_CNTWRAP, RTC_DRIFT_STEP_CNT, RTC_DRIFT_ERR, RTC_UTC_OFS,
   RTC_LEAP_PEND, RTC_STATUS_OSCSTOP]

/-- Field `i` of them. -/
def rtcField (i : Nat) : Field := nth RTC_DATE_YEAR rtcFields i

/-- What has fallen in the present cycle, or where nothing has, a cycle with the hour change that is armed. -/
def State.rtcCycle (s : State) : RtcCycle := s.rtcNow.getD ⟨s.elapsed, false, false, false, none, s.rtc.armed, []⟩

/-- A tick or a mark noted: the fields it has changed from those of `old`, with their values before and after. -/
def State.noteRtc (s old : State) (mark : Bool) : State :=
  let c := old.rtcCycle
  let ch := (List.range rtcFields.length).filterMap (fun i =>
    let f := rtcField i
    if old.rd f = s.rd f then none else some (i, old.rd f, s.rd f))
  { s with rtc := { s.rtc with cycle := some { c with tick := true, mark := c.mark || mark, undo := ch ++ c.undo } } }

/-- A tick or a mark of the present cycle as if it had not been: the fields that still stand as it left them, and the hour change armed before it. -/
def State.undoRtc (s : State) (c : RtcCycle) : State :=
  let armed := if s.rtc.armed.isSome then s.rtc.armed else c.armed
  let s := { s with rtc := { s.rtc with armed := armed, cycle := some { c with tick := false, mark := false, undo := [] } } }
  c.undo.foldl (fun (s : State) (u : Nat × Nat × Nat) => if s.rd (rtcField u.1) = u.2.2 then s.wr (rtcField u.1) u.2.1 else s) s

/-- The second tick (R300). It stands still while the oscillator is stopped (R314), is discarded in the cycle of a commit or of a mark, which acts as the tick, and comes before a
PON command of its cycle (R307). -/
def State.rtcTick (s : State) : State :=
  let c := s.rtcCycle
  if s.rtc.stopped || c.commit || c.mark then s
  else
    let t := s.rtcSecond
    let t := match c.pon with
      | some level => t.setPon level 3
      | none => t
    t.noteRtc s false

/-- A trim step taken from what has accumulated: 2^20 counts (R313). -/
def State.trimTaken (s : State) : State := { s with rtc := { s.rtc with trimAcc := s.rtc.trimAcc - 2 ^ 20 } }

/-- A trim step (R313): one count more or less, as the sign of TRIM requires, where 2^20 / |TRIM| cycles have passed since the last one; a count past 32,767 is the second tick. -/
def State.trimStep (s : State) (p : Nat) : State :=
  let t := s.rdI RTC_TRIM_TRIM
  let s := s.prescalerAt p
  if s.rtc.stopped || t == 0 || s.rtc.trimAcc < 1048576 then s
  else
    let s := s.trimTaken
    if t < 0 then { s with rtc := { s.rtc with prescaler := s.rtc.prescaler - 1 } }
    else if s.rtc.prescaler = 32767 then s.rtcTick
    else { s with rtc := { s.rtc with prescaler := s.rtc.prescaler + 1 } }

/-! ### The time group (R303) -/

/-- RTC_TIME as a word. -/
def State.timeWord (s : State) : Nat :=
  s.rd RTC_TIME_HOUR * 2 ^ 24 + s.rd RTC_TIME_MIN * 2 ^ 16 + s.rd RTC_TIME_SEC * 2 ^ 8 + s.rtc.prescaler / 128

/-- RTC_DATE as a word. -/
def State.dateWord (s : State) : Nat :=
  s.rd RTC_DATE_WDAY * 2 ^ 24 + s.rd RTC_DATE_YEAR * 2 ^ 16 + s.rd RTC_DATE_MONTH * 2 ^ 8 + s.rd RTC_DATE_DAY

/-- A lane's shadows. -/
def RtcState.shadow (r : RtcState) : Lane → Option Shadow
  | .A => r.shadowA
  | .B => r.shadowB

/-- A lane's shadows replaced. -/
def State.setShadow (s : State) (l : Lane) (x : Option Shadow) : State :=
  match l with
  | .A => { s with rtc := { s.rtc with shadowA := x } }
  | .B => { s with rtc := { s.rtc with shadowB := x } }

/-- A read of the time group (R303): it freezes released shadows, returns the shadow, and releases them once both registers have been read. -/
def State.readTimeGroup (s : State) (l : Lane) (date : Bool) : State × Nat :=
  let x := (s.rtc.shadow l).getD ⟨s.timeWord, s.dateWord, false, false⟩
  let x := if date then { x with dateRead := true } else { x with timeRead := true }
  (s.setShadow l (if x.timeRead && x.dateRead then none else some x), if date then x.date else x.time)

/-- The release of a lane's shadows 1 s after a freeze (R303). -/
def State.freezeTimeout (s : State) (l : Lane) : State :=
  match s.rtc.shadow l with
  | none => s
  | some _ => (s.setShadow l none).raise RTC_STATUS_FRZTO

/-! ### Commit and commands (R304 to R307, R318) -/

/-- The staged value is a real date and time (R305). -/
def State.stagedGood (s : State) : Bool :=
  let y := s.rd RTC_STG_DATE_YEAR
  let m := s.rd RTC_STG_DATE_MONTH
  let d := s.rd RTC_STG_DATE_DAY
  y ≤ 199 && 1 ≤ m && m ≤ 12 && 1 ≤ d && d ≤ monthLength y m && s.rd RTC_STG_TIME_HOUR ≤ 23 && s.rd RTC_STG_TIME_MIN ≤ 59 &&
  s.rd RTC_STG_TIME_SEC ≤ 59

/-- OP = COMMIT (R304, R305, R307): the staged fields loaded, SUBSEC and the prescaler 0, OSCSTOP clear, an armed hour command discarded with HOURREJ; or
BADDATE. A tick or a mark of its cycle is as if it had not been. -/
def State.rtcCommit (s : State) : State :=
  if !s.stagedGood then s.raise RTC_STATUS_BADDATE
  else
    let c := s.rtcCycle
    let s := s.undoRtc c
    let s := { s with rtc := { s.rtc with cycle := some { c with commit := true, tick := false, mark := false, undo := [] } } }
    let n := dayNumber (s.rd RTC_STG_DATE_YEAR) (s.rd RTC_STG_DATE_MONTH) (s.rd RTC_STG_DATE_DAY) * 86400 + s.rd RTC_STG_TIME_HOUR * 3600 +
      s.rd RTC_STG_TIME_MIN * 60 + s.rd RTC_STG_TIME_SEC
    let s := s.raiseIf s.rtc.armed.isSome RTC_STATUS_HOURREJ
    ({ s with rtc := { s.rtc with prescaler := 0, armed := none } }.setCalendar n).wr RTC_STATUS_OSCSTOP 0

/-- OP = ADD_HOUR or SUB_HOUR (R306): armed for the next tick, or HOURREJ; in the cycle of a tick it applies at that tick. -/
def State.armHour (s : State) (add : Bool) : State :=
  let c := s.rtcCycle
  let z := if add then s.zone + 4 else s.zone - 4
  let armed := if c.tick && !c.mark then c.armed else s.rtc.armed
  if armed.isSome || z < -48 || 56 < z then s.raise RTC_STATUS_HOURREJ
  else if c.tick && !c.mark then
    let t := s.undoRtc c
    { t with rtc := { t.rtc with armed := some add } }.rtcTick
  else { s with rtc := { s.rtc with armed := some add } }

/-- OP = PON_SET or PON_CLR (R318): it stands over an alarm of its cycle (R307). -/
def State.ponCommand (s : State) (level : Nat) : State :=
  let c := s.rtcCycle
  let s := s.setPon level 3
  { s with rtc := { s.rtc with cycle := some { c with pon := some level } } }

/-- A write of RTC_CMD (R319): a KEY other than 0xCA1D is ignored with CMDREJ. -/
def State.rtcCommand (s : State) (key : Nat) (run : State → State) : State :=
  if s.rtc.onVbat then s else if key != 0xCA1D then s.raise RTC_STATUS_CMDREJ else run s

/-! ### Discipline (R308 to R311) -/

/-- The expected calendar at a network second, in seconds after 2000-01-01 (R308). -/
def expectedCalendar (sec ofs : Nat) (zone : Int) : Int := (sec : Int) - ofs + 900 * zone - 946684800

/-- Whether an expected calendar lies in 2000 to 2199. -/
def inCalendar (c : Int) : Bool := 0 ≤ c && c < (calendarDays * 86400 : Nat)

/-- The work of a mark that the discipline acts on (R310), with the prescaler at `p`. -/
def State.discipline (s : State) (p : Nat) : State :=
  let err : Int := if 16384 ≤ p then (p : Int) - 32768 else p
  let s := if 16384 ≤ p then s.rtcSecond else s
  let sec := s.tb.now.sec
  let leap := s.on RTC_LEAP_PEND && sec % 2 ^ 48 == s.rd RTC_LEAP_EFF
  let old := expectedCalendar sec (s.rd RTC_UTC_OFS) s.zone
  let s := if leap then (s.wr RTC_UTC_OFS (s.rd RTC_LEAP_NEWOFS)).wr RTC_LEAP_PEND 0 else s
  let exp := expectedCalendar sec (s.rd RTC_UTC_OFS) s.zone
  let far := decide (s.rd RTC_CTRL_DWIN < err.natAbs)
  let here : Int := s.calendar
  let s :=
    if !inCalendar exp then s.raise RTC_STATUS_DISCRNG
    else if here = exp && !far then s
    else
      let s := s.setCalendar exp.toNat
      if leap && here == old && !far then s
      else (s.raise RTC_STATUS_DISCSTEP).count RTC_DRIFT_STEP_CNT RTC_STATUS_CNTWRAP
  (({ s with rtc := { s.rtc with prescaler := 2 } }).wrI RTC_DRIFT_ERR err).wr RTC_STATUS_OSCSTOP 0

/-- A mark of the Time Base with the prescaler at `p` (R41, R309). One is sent at each change of SEC. It acts while DISC_EN is 1, the Time Base is LOCKED, the domain runs from
VMAIN and its oscillator runs; it acts as the tick of its cycle, and the discipline skips it in the cycle of a commit (R307). -/
def State.rtcMark (s : State) (p : Nat) : State :=
  let sec := s.tb.now.sec
  if sec = s.tb.marked then s
  else
    let s := { s with tb := { s.tb with marked := sec } }
    let c := s.rtcCycle
    if !s.on RTC_CTRL_DISC_EN || s.rd TB_STATUS_STATE != 2 || s.rtc.onVbat || s.rtc.stopped || c.commit then s
    else
      let s := if c.tick && decide (16384 ≤ p % 32768) then s.undoRtc c else s
      let s := s.prescalerAt p
      (s.discipline (p % 32768)).noteRtc s true

/-! ### Oscillator, supply and reset (R314, R315, R30) -/

/-- The oscillator detector finds no edge (R314). -/
def State.oscStop (s : State) : State :=
  ({ s with rtc := { s.rtc with stopped := true } }.raise RTC_STATUS_OSCSTOP).raise RTC_STATUS_OSCFAIL

/-- Crystal edges return (R314). -/
def State.oscResume (s : State) : State := { s with rtc := { s.rtc with stopped := false } }

/-- The switch to VBAT with the prescaler at `p` (R315): the interface isolated, BKPSW, and the calendar copied. -/
def State.toVbat (s : State) (p : Nat) : State :=
  if s.rtc.onVbat then s
  else
    let s := s.prescalerAt p
    let s := { s with rtc := { s.rtc with onVbat := true, cycle := none } }.raise RTC_STATUS_BKPSW
    let s := (((s.wr RTC_OFF_TIME_HOUR (s.rd RTC_TIME_HOUR)).wr RTC_OFF_TIME_MIN (s.rd RTC_TIME_MIN)).wr RTC_OFF_TIME_SEC
      (s.rd RTC_TIME_SEC)).wr RTC_OFF_TIME_SUBSEC (s.rtc.prescaler / 128)
    (((s.wr RTC_OFF_DATE_WDAY (s.rd RTC_DATE_WDAY)).wr RTC_OFF_DATE_YEAR (s.rd RTC_DATE_YEAR)).wr RTC_OFF_DATE_MONTH
      (s.rd RTC_DATE_MONTH)).wr RTC_OFF_DATE_DAY (s.rd RTC_DATE_DAY)

/-- The return to VMAIN (R315). -/
def State.toVmain (s : State) : State := { s with rtc := { s.rtc with onVbat := false } }

/-- The holding registers of R15 without those of the RTC block's wide values. -/
def rtcUnheld (x : LaneState) : LaneState := { x with holding := x.holding.filter (fun p => p.1 < 0x400F0000 || 0x40100000 ≤ p.1) }

/-- The backup-domain reset (R30, R300, R318, R319): every RTC register at its reset value, captures of them in the lanes' holding registers cleared (R15), and BKP due at the next
start. -/
def State.backupReset (s : State) : State :=
  { s with regs := s.regs.filter (fun p => !(0x400F0000 * 1024 ≤ p.1 && p.1 < 0x40100000 * 1024)),
           laneA := rtcUnheld s.laneA, laneB := rtcUnheld s.laneB,
           rtc := ⟨0, none, none, none, false, s.rtc.onVbat, true, 0, none⟩ }

end Sys2Proof.Machine
end

