-- ==== Sys2Proof/Machine/Felter.lean ====
section
/-!
DEFINITION. Felter (R107 to R131): the match and the reduction of a batch into a unit's entry, the check word, when an entry is free, the
building of result records at a drain, and their octets. Every reduction is a function of the list of events alone (R7).
-/
namespace Sys2Proof.Machine

/-! ### Programs (R110, R111) -/

/-- One program of the table FLT_PROG. -/
structure Prog where
  en : Bool
  inclLate : Bool
  sgn : Bool
  opw : Nat
  op : Nat
  chLo : Nat
  chHi : Nat
  kindMask : Nat
  kindVal : Nat
  segSel : Nat
  nodeLo : Nat
  nodeHi : Nat
  segVal : Nat
  argOff : Nat
  argSel : Bool
  opOff : Nat
  shift : Nat
  bitSel : Nat
  hBase : Int

/-- Program `p` as its registers hold it. -/
def State.prog (s : State) (p : Nat) : Prog :=
  { en := s.on (FLT_PROG_W0_EN p), inclLate := s.on (FLT_PROG_W0_INCL_LATE p), sgn := s.on (FLT_PROG_W0_SIGNED p),
    opw := s.rd (FLT_PROG_W0_OPW p), op := s.rd (FLT_PROG_W0_OP p), chLo := s.rd (FLT_PROG_W0_CH_LO p),
    chHi := s.rd (FLT_PROG_W0_CH_HI p), kindMask := s.rd (FLT_PROG_W1_KIND_MASK p), kindVal := s.rd (FLT_PROG_W1_KIND_VAL p),
    segSel := s.rd (FLT_PROG_W1_SEGSEL p), nodeLo := s.rd (FLT_PROG_W2_NODE_LO p), nodeHi := s.rd (FLT_PROG_W2_NODE_HI p),
    segVal := s.rd (FLT_PROG_W3_SEG_VAL p), argOff := s.rd (FLT_PROG_W4_ARGOFF p), argSel := s.on (FLT_PROG_W4_ARGSEL p),
    opOff := s.rd (FLT_PROG_W4_OPOFF p), shift := s.rd (FLT_PROG_W5_SHIFT p), bitSel := s.rd (FLT_PROG_W5_BITSEL p),
    hBase := s.rdI (FLT_PROG_W6_HBASE p) }

/-- Whether an event matches a program, of own segment `own` (R110). An OP outside 0x1 to 0x9 matches nothing (R113). -/
def Prog.hits (q : Prog) (own : Nat) (e : Event) : Bool :=
  q.en && 1 ≤ q.op && q.op ≤ 9 && q.chLo ≤ e.chan && e.chan ≤ q.chHi && e.kind.land q.kindMask == q.kindVal &&
  (q.segSel == 1 || srcSeg e.src == (if q.segSel = 2 then q.segVal else own)) &&
  q.nodeLo ≤ srcNode e.src && srcNode e.src ≤ q.nodeHi && (!e.late || q.inclLate)

/-- The octets a program needs from OPOFF (R111). -/
def Prog.need (q : Prog) : Nat := if q.op = 6 then 128 else if q.op = 1 then 0 else 2 ^ q.opw

/-- An event whose stream ends too early for a program (R111). -/
def Prog.short (q : Prog) (e : Event) : Bool :=
  (q.op != 1 && e.payload.length < q.opOff + q.need) ||
  ((q.op == 3 || q.op == 4) && q.argSel && e.payload.length < q.argOff + 4)

/-- The unsigned value of a field of `n` octets of the payload stream. -/
def Event.field (e : Event) (off n : Nat) : Nat := leAt e.payload off n

/-- The operand of an event, extended as SIGNED says (R111). -/
def Prog.operand (q : Prog) (e : Event) : Int :=
  let v := e.field q.opOff (2 ^ q.opw)
  if q.sgn then signed (8 * 2 ^ q.opw) v else (v : Int)

/-- The order key of an event (R65): TS64, SRCID, SEQ. -/
def Event.key (e : Event) : Nat × Nat × Nat := (ts64 e.stamp, e.src, e.seq.getD 0)

/-- Order keys compared (R65). -/
def keyLt (a b : Nat × Nat × Nat) : Bool :=
  if a.1 < b.1 then true else if b.1 < a.1 then false
  else if a.2.1 < b.2.1 then true else if b.2.1 < a.2.1 then false else a.2.2 < b.2.2

/-! ### Operations (R113 to R116) -/

/-- The range of SUM's or a bin's result in `w` bits of a signedness (R114). -/
def inRange (sgn : Bool) (w : Nat) (v : Int) : Bool :=
  if sgn then -(2 ^ (w - 1) : Int) ≤ v && v < (2 ^ (w - 1) : Int) else 0 ≤ v && v < (2 ^ w : Int)

/-- The event that wins MIN (or MAX, `mx`): the least (greatest) operand, and on a tie the lowest order key (R115). -/
def winner (q : Prog) (mx : Bool) : List Event → Option Event
  | [] => none
  | e :: t =>
    match winner q mx t with
    | none => some e
    | some f =>
      let a := q.operand e
      let b := q.operand f
      if (if mx then decide (b < a) else decide (a < b)) then some e
      else if a = b && keyLt e.key f.key then some e else some f

/-- The bin of an event in HIST (R116). -/
def Prog.bin (q : Prog) (e : Event) : Nat :=
  let d := q.operand e - q.hBase
  if d < 0 then 0 else min 31 (d.toNat / 2 ^ q.shift)

/-- Bin `i` of HSUM: the exact sum of word `i` at OPOFF (R113, R114). -/
def Prog.hsum (q : Prog) (es : List Event) (i : Nat) : Int :=
  sumI (es.map (fun e => let v := e.field (q.opOff + 4 * i) 4; if q.sgn then signed 32 v else (v : Int)))

/-- OR or AND of operands in 64 bits, from a start value (R113). -/
def foldBits (f : Nat → Nat → Nat) (q : Prog) (z : Nat) : List Event → Nat
  | [] => z
  | e :: t => f (e.field q.opOff (2 ^ q.opw)) (foldBits f q z t)

/-- MAP: octet `i` of the map (R113), from bit BITSEL of the operand as R111 extends it. -/
def Prog.mapOctet (q : Prog) (es : List Event) (i : Nat) : Nat :=
  sumN ((List.range 8).map (fun b =>
    if es.any (fun e => srcNode e.src == 8 * i + b && bit (unsigned 64 (q.operand e)) q.bitSel) then 2 ^ b else 0))

/-- The data of a program's block over the events it reduced, and its WRAP flag (R113 to R116). -/
def Prog.data (q : Prog) (es : List Event) : Octets × Bool :=
  match q.op with
  | 2 => let t := sumI (es.map q.operand); (le 8 (unsigned 64 t), !inRange q.sgn 64 t)
  | 3 | 4 =>
    match winner q (q.op == 4) es with
    | none => (zeros 24, false)
    | some e => (le 8 (unsigned 64 (q.operand e)) ++ le 4 (if q.argSel then e.field q.argOff 4 else e.src) ++ zeros 4
        ++ le 8 (ts64 e.stamp), false)
  | 5 => (((List.range 32).map (fun i => le 4 ((es.filter (fun e => q.bin e == i)).length))).flatten, false)
  | 6 => (((List.range 32).map (fun i => le 4 (unsigned 32 (q.hsum es i)))).flatten,
      (List.range 32).any (fun i => !inRange q.sgn 32 (q.hsum es i)))
  | 7 => (le 8 (foldBits Nat.lor q 0 es), false)
  | 8 => (le 8 (foldBits Nat.land q 0xFFFFFFFFFFFFFFFF es), false)
  | 9 => ((List.range 256).map (fun i => octet (q.mapOctet es i)), false)
  | _ => ([], false)

/-- The result block of program `p` (R113). `es` are the batch's events, `poison` says that some event of the batch was poisoned (R112), and
`run` that FLT_CTRL.EN is 1. -/
def Prog.block (q : Prog) (p own : Nat) (run poison : Bool) (es : List Event) : Octets :=
  let ms := if run then es.filter (fun e => e.bad.isEmpty && q.hits own e) else []
  let rs := ms.filter (fun e => !q.short e)
  let d := q.data rs
  let flags := b2n (!rs.isEmpty) + 2 * b2n d.2 + 4 * b2n (ms.any q.short) + 8 * b2n (run && poison) + 16 * b2n (rs.any (·.late))
  if 1 ≤ q.op ∧ q.op ≤ 9 then [octet p, octet q.op, octet flags, octet 0] ++ le 4 rs.length ++ d.1
  else [octet p, octet q.op, octet 0, octet 0] ++ le 4 0

/-- The blocks of the enabled programs in ascending order. A program with EN = 0 has no block: its window reads zero, and a record whose mask names it carries none
(DESIGN CHOICE, notes/assumptions/26: R113 speaks of enabled programs only). -/
def State.felterBlocks (s : State) (es : List Event) : List (Nat × Octets) :=
  let run := s.on FLT_CTRL_EN
  let poison := es.any (fun e => !e.bad.isEmpty)
  ((List.range 64).filter (fun p => s.on (FLT_PROG_W0_EN p))).map (fun p => (p, (s.prog p).block p s.seg run poison es))

/-- The entry of Crease `k` that a unit forms from a batch (R108, R112, R118). -/
def State.felterEntry (s : State) (k : Nat) (es : List Event) : FelterEntry :=
  let bs := s.felterBlocks es
  let poisoned := if s.on FLT_CTRL_EN then (es.filter (fun e => !e.bad.isEmpty)).length else 0
  ⟨k, poisoned, bs, crc32c (bs.map (·.2)).flatten, false⟩

/-- The entries of a lane's unit. -/
def FelterState.unit (f : FelterState) : Lane → List FelterEntry
  | .A => f.unitA
  | .B => f.unitB

/-- The entries of a lane's unit replaced. -/
def FelterState.setUnit (f : FelterState) (l : Lane) (u : List FelterEntry) : FelterState :=
  match l with
  | .A => { f with unitA := u }
  | .B => { f with unitB := u }

/-- A change of one unit's entries. -/
def State.onUnit (s : State) (l : Lane) (g : List FelterEntry → List FelterEntry) : State :=
  { s with flt := s.flt.setUnit l (g (s.flt.unit l)) }

/-- An entry put in the place `k mod 4` of a unit (R119). -/
def putEntry (e : FelterEntry) (u : List FelterEntry) : List FelterEntry := e :: u.filter (fun x => x.k % 4 != e.k % 4)

/-- The batch reduced into the unit of a lane (R108). -/
def State.felterTake (s : State) (l : Lane) (k : Nat) (es : List Event) : State := s.onUnit l (putEntry (s.felterEntry k es))

/-- Whether a set of commit records requests a result record (R122). -/
def asksRecord (rs : List (Nat × Nat)) : Bool := rs.any (fun r => r.1 == 0x40060028)

/-- Whether the drain of Crease `k` has yet to complete (R97). -/
def State.drainDue (s : State) (k : Nat) : Bool :=
  decide (s.lsc.nextDrain ≤ k) || (match s.lsc.drain with
    | some d => d.k == k
    | none => false)

/-- Whether a drain of Crease `k` that builds result records has yet to complete (R119): while no lane holds the records to be drained, it may build some. -/
def State.recordDrainDue (s : State) (k : Nat) : Bool :=
  let held := [Lane.A, Lane.B].filterMap (fun l => (s.lane l).sealedBuf.filter (fun b => b.active && b.k == k))
  s.drainDue k && (held.isEmpty || held.any (fun b => asksRecord b.records))

/-- Whether the unit of a lane can take batch `k` (R119): its entry `k mod 4` is empty, or is sealed with no record still to be
built from it. -/
def State.felterFree (s : State) (l : Lane) (k : Nat) : Bool :=
  (s.flt.unit l).all (fun e => e.k % 4 != k % 4 || (e.sealed && !s.recordDrainDue e.k))

/-- The entry of Crease `k` in a lane's unit. -/
def State.felterGet (s : State) (l : Lane) (k : Nat) : Option FelterEntry := (s.flt.unit l).find? (·.k == k)

/-- The seal of Crease `k` marked in a lane's unit (R119). -/
def State.felterSealed (s : State) (l : Lane) (k : Nat) : State :=
  s.onUnit l (fun u => u.map (fun e => if e.k = k then { e with sealed := true } else e))

/-! ### Result records (R122 to R124, R129) -/

/-- W: 0 acts as 1, values above 512 as 512 (R131). -/
def State.spreadW (s : State) : Nat := clampN 1 512 (s.rd FLT_SPREAD_W)

/-- The send time in ns of a record of Crease `k` from a segment (R124). -/
def State.sendTime (s : State) (k seg : Nat) : Nat := (k + 1) * s.P + 2 * s.H + seg % s.spreadW * 50000

/-- D of R127: the distance from a reported Crease to the collector's Crease. -/
def State.reportDistance (s : State) : Nat := 1 + 2 * s.H / s.P

/-- P and H in milliseconds, as headers carry them. -/
def State.pMs (s : State) : Nat := s.P / 1000000
def State.hMs (s : State) : Nat := s.H / 1000000

/-- The valid segments of FLT_REPTAB by entry number (R128). -/
def State.repTab (s : State) : List (Nat × Nat) :=
  ((List.range 256).map (fun m =>
    (if s.on (FLT_REPTAB_VALID0 m) then [(2 * m, s.rd (FLT_REPTAB_SEG0 m))] else []) ++
    (if s.on (FLT_REPTAB_VALID1 m) then [(2 * m + 1, s.rd (FLT_REPTAB_SEG1 m))] else []))).flatten

/-- The blocks of the programs of a mask in ascending order (R123). -/
def FelterEntry.pick (e : FelterEntry) (mask : Nat) : Octets :=
  ((e.blocks.filter (fun b => bit mask b.1)).map (·.2)).flatten

/-- COVER of a Crease as the ring holds it; 0 for a Crease it does not hold (R82, R83). -/
def State.coverOf (s : State) (k : Nat) : Nat :=
  match kvFind s.crz.cover (k % 512) with
  | some c => if c.k = k then c.cover else 0
  | none => 0

/-- The octets of a record as it is sent: the header of R123, whose COVER stands as it does at that moment (R83), then the blocks. -/
def State.recordOctets (s : State) (r : ResultRecord) : Octets :=
  [octet 1, octet (if r.district then 2 else 1), octet r.part, octet (s.coverOf r.k)] ++ le 2 r.seg ++
  le 2 (r.reported % 4096 * 16 + r.part) ++ le 8 r.reported ++ le 8 (ts64 (timeOfNs r.sendAt)) ++ le 8 r.mask ++
  le 2 r.pMs ++ le 2 r.hMs ++ le 2 r.w ++ le 2 (b2n r.sendLate) ++ le 2 r.nGot ++ le 2 r.nCov ++ le 2 r.nMiss ++ zeros 2 ++
  r.blocks

/-- A record asked for in the drain in progress: the last request for a part and a kind stands (R122). -/
def State.felterAsk (s : State) (part : Nat) (dist : Bool) : State :=
  let rest := s.flt.requests.filter (fun r => !(r.1 == part && r.2.1 == dist))
  { s with flt := { s.flt with requests := rest ++ [(part, dist, s.rd FLT_SEND_MASK_MASK)] } }

/-- A record queued for its send time; one built after it carries SENDLATE and is counted (R124). -/
def State.queueRecord (s : State) (r : ResultRecord) : State :=
  let late := decide (r.sendAt < s.now)
  let s := { s with flt := { s.flt with records := s.flt.records ++ [{ r with sendLate := late }] } }
  if late then (s.raise FLT_STATUS_SENDLATE).count FLT_LATE_CNT_COUNT FLT_STATUS_CNTWRAP else s

/-- The figures of a district record's sideband from the receipts of a reported Crease (R129): NGOT, NCOV, NMISS. -/
def State.receiptFigures (s : State) (reported : Nat) : Nat × Nat × Nat :=
  let rs := s.flt.receipts.filter (fun r => r.k == reported && r.registered)
  let got := rs.filter (·.onTime)
  let expected := s.seg :: s.repTab.map (·.2)
  (got.length, (got.filter (fun r => bit r.cover 7)).length,
    (expected.filter (fun g => rs.all (fun r => r.seg != g))).length)

/-- FLT_RCV_IDX and FLT_RCV set at the building of a district record (R131). -/
def State.setReceived (s : State) (reported : Nat) : State :=
  let got := s.flt.receipts.filter (fun r => r.k == reported && r.onTime)
  (s.wr FLT_RCV_IDX_IDX reported).wr FLT_RCV_GOT
    (sumN (s.repTab.map (fun t => if got.any (fun r => r.seg == t.2) then 2 ^ t.1 else 0)))

/-- One requested record of Crease `k` built from an entry, or refused for its length (R122, R129). A district record is built also while COLLECTOR is 0, and one of a Crease below D
carries CREASE_IDX 0 (DESIGN CHOICE, notes/assumptions/27: R129 states neither). -/
def State.buildRecord (s : State) (k : Nat) (e : FelterEntry) (part : Nat) (dist : Bool) (mask : Nat) : State :=
  let blocks := e.pick mask
  if 1518 - s.rd BHM0_TPL_CFG_HLEN < 48 + blocks.length then s.raise FLT_STATUS_SENDREJ
  else
    let reported := if dist then k - s.reportDistance else k
    let f := if dist then s.receiptFigures reported else (0, 0, 0)
    let s := if dist then s.setReceived reported else s
    s.queueRecord ⟨k, reported, dist, part, mask, blocks, s.sendTime k s.seg, false, f.1, f.2.1, f.2.2, s.seg, s.pMs, s.hMs, s.spreadW⟩

/-- The other unit's entry of Crease `k`, if that lane is in service and its unit holds it (R121). -/
def State.otherEntry (s : State) (k : Nat) (l : Lane) : Option FelterEntry := if s.inService l.other then s.felterGet l.other k else none

/-- The entry from which a record of Crease `k` is built (R121, R122): that of the drained lane, or the other unit's where it is in error or not held. -/
def State.recordEntry (s : State) (k : Nat) (l : Lane) (bad : Bool) : Option FelterEntry :=
  if bad then s.otherEntry k l else (s.felterGet l k).orElse (fun _ => s.otherEntry k l)

/-- The records requested in the drain of Crease `k` of lane `l` built in the order of the requests, the first of them at place `i`; `bad` lists the places at which an
uncorrected error is met (R121, R122). -/
def State.buildAll (k : Nat) (l : Lane) (bad : List Nat) : Nat → List (Nat × Bool × Nat) → State → State
  | _, [], s => s
  | i, r :: t, s =>
    let b := bad.contains i
    buildAll k l bad (i + 1) t (match s.recordEntry k l b with
      | some e => s.buildRecord k e r.1 r.2.1 r.2.2
      | none => (s.raise FLT_STATUS_SENDREJ).raiseIf b FLT_STATUS_RESUE)

/-- Every record requested in the drain of Crease `k` of lane `l` built (R121, R122). -/
def State.felterBuild (s : State) (k : Nat) (l : Lane) (bad : List Nat) : State :=
  State.buildAll k l bad 0 s.flt.requests { s with flt := { s.flt with requests := [] } }

/-- The write of FLT_SEND (R122): a request as a commit record, ignored with SENDREJ in service context. -/
def State.fltSendWrite (s : State) (commit : Bool) (v : Nat) : State :=
  if commit then s.felterAsk (bits v 0 4) (bit v 8) else s.raise FLT_STATUS_SENDREJ

/-! ### The collector's intake queue (R125) -/

/-- A record offered to the intake queue of 16 records; one that finds it full is discarded (R125). -/
def State.intakeOffer (s : State) (r : Octets) : State :=
  if s.flt.inq.length < 16 then
    let s := { s with flt := { s.flt with inq := s.flt.inq ++ [r] } }
    (s.wr FLT_INQ_USED s.flt.inq.length).peak FLT_INQ_PEAK s.flt.inq.length
  else (s.raise FLT_STATUS_INQOVF).count FLT_INREJ_CNT_COUNT FLT_STATUS_CNTWRAP

/-- Whether the intake takes a record (R126): VER, RTYPE, P_MS, H_MS, W, MASK, SEG and SEND_TS64 as required. A datagram shorter than the header is none (DESIGN CHOICE,
notes/assumptions/27: R126 lists no check of the length). -/
def State.intakeGood (s : State) (r : Octets) : Bool :=
  let seg := leAt r 4 2
  let k := leAt r 8 8
  48 ≤ r.length && octAt r 0 == 1 && octAt r 1 == 1 && leAt r 32 2 == s.pMs && leAt r 34 2 == s.hMs &&
  leAt r 36 2 == s.spreadW && leAt r 24 8 == s.rd FLT_INMASK_MASK &&
  (seg == s.seg || s.repTab.any (fun t => t.2 == seg)) && leAt r 16 8 == ts64 (timeOfNs (s.sendTime k seg))

/-- A record with its sideband, octets 3 and 38 to 47, replaced by zeros (R123, R126). -/
def stripSideband (r : Octets) : Octets := r.take 3 ++ zeros 1 ++ (r.drop 4).take 34 ++ zeros 10 ++ r.drop 48

/-- The event that a record of the intake becomes (R126). -/
def intakeEvent (r : Octets) : Event :=
  let t := leAt r 16 8
  ⟨⟨t / 2 ^ 30, t % 2 ^ 30, 0⟩, srcId (leAt r 4 2) 0 88, some (leAt r 6 2), octAt r 1, wholeSlots (stripSideband r), false, false, []⟩

/-- A receipt of a reported Crease and segment, if none stands (R126). Of several parts of one reporter the first one's COVER is kept, and the reporter counts once, on time if any part was
(DESIGN CHOICE, notes/assumptions/27: the spec does not say how parts are received). -/
def State.putReceipt (s : State) (k seg cover : Nat) : State :=
  if s.flt.receipts.any (fun r => r.k == k && r.seg == seg) then s
  else { s with flt := { s.flt with receipts := s.flt.receipts ++ [⟨k, seg, cover, false, false⟩] } }

/-- The receipt of a record that the Sequencer registers (R129): the event's payload is the record, whose octets 8 to 15 are CREASE_IDX. -/
def State.markReceipt (s : State) (e : Event) (onTime : Bool) : State :=
  if e.chan != 88 then s
  else
    let k := leAt e.payload 8 8
    { s with flt := { s.flt with receipts := s.flt.receipts.map (fun r =>
        if r.k = k ∧ r.seg = srcSeg e.src then { r with registered := true, onTime := r.onTime || onTime } else r) } }

/-- The intake checks the record at the head of its queue (R126): it is registered as an event, or rejected with INREJ. -/
def State.intakeRecord (s : State) : State :=
  match s.flt.inq with
  | [] => s
  | r :: rest =>
    let s := { s with flt := { s.flt with inq := rest } }.wr FLT_INQ_USED rest.length
    if s.intakeGood r then
      (((s.putReceipt (leAt r 8 8) (leAt r 4 2) (octAt r 3)).count FLT_IN_CNT_COUNT FLT_STATUS_CNTWRAP)).post (intakeEvent r)
    else (s.raise FLT_STATUS_INREJ).count FLT_INREJ_CNT_COUNT FLT_STATUS_CNTWRAP

/-- The write lock of Felter's registers (R109): FLT_PROG and FLT_CTRL while the Sequencer runs. -/
def State.fltLocked (s : State) (a : Nat) : Bool :=
  s.crzOn && (a == 0x40060000 || (0x40061000 ≤ a && a < 0x40061800))

end Sys2Proof.Machine
end

