-- ==== Sys2Proof/Machine/Escort.lean ====
section
/-!
DEFINITION. The Escort engine (R148 to R166): the check of the chains, the four phases of a batch (commands, detections, track timeouts, the dim
walker), the output entries, and what the Launch Unit takes from them at a drain.
-/
namespace Sys2Proof.Machine

/-- A time of TS64 in ns (R154). -/
def tsNs (t : Time) : Nat := t.sec % 2 ^ 34 * 1000000000 + t.ns

/-! ### Configuration of a run -/

/-- NPOLE of a chain; values above 128 act as 128 (R166). -/
def State.nPole (s : State) (c : Nat) : Nat := min 128 (s.rd (ESC_CHAIN_W0_NPOLE c))

/-- The lantern and the position of entry `i` of chain `c` (R148). -/
def State.poleLantern (s : State) (c i : Nat) : Nat := s.rd (ESC_POLE_LANTERN (128 * c + i))
def State.polePos (s : State) (c i : Nat) : Nat := s.rd (ESC_POLE_POS (128 * c + i))

/-- The entry of chain `c` that names lantern `n`. -/
def State.entryOf (s : State) (c n : Nat) : Option Nat := (List.range (s.nPole c)).find? (fun i => s.poleLantern c i == n)

/-- HI, FUP, FDN, DWELL and TLEAD of a chain, the times in ns (R166). -/
def State.chainHi (s : State) (c : Nat) : Nat := s.rd (ESC_CHAIN_W0_HI c)
def State.dwell (s : State) (c : Nat) : Nat := clampN 2000 60000 (s.rd (ESC_CHAIN_W2_DWELL c)) * 10000000
def State.tLead (s : State) (c : Nat) : Nat := min 6000 (s.rd (ESC_CHAIN_W2_TLEAD c)) * 10000000

/-- VMIN and VMAX: values outside 1,000 to 40,000 act as the nearer limit, and VMIN above VMAX as VMAX (R166). -/
def State.vMax (s : State) : Nat := clampN 1000 40000 (s.rd ESC_SPEED_VMAX)
def State.vMin (s : State) : Nat := min s.vMax (clampN 1000 40000 (s.rd ESC_SPEED_VMIN))

/-- GMIN and MERGE in ns, TTENT in ns (0 acts as 1), NAHEAD (0 acts as 1), OUTMAX (1 to 512) (R166). -/
def State.gMin (s : State) : Nat := s.rd ESC_TRACK_GMIN * 1000000
def State.mergeWin (s : State) : Nat := s.rd ESC_TIMING_MERGE * 1000000
def State.tTent (s : State) : Nat := max 1 (s.rd ESC_TIMING_TTENT) * 10000000
def State.nAhead (s : State) : Nat := max 1 (s.rd ESC_TRACK_NAHEAD)
def State.outMax (s : State) : Nat := clampN 1 512 (s.rd ESC_OUTMAX_OUTMAX)

/-- ESC's PATH; 3 acts as 2 (R166). -/
def State.escPath (s : State) : Nat := min 2 (s.rd ESC_CTRL_PATH)

/-- CMDCH and the detection channel; values out of range act as 120 and 3 (R166). -/
def State.cmdChan (s : State) : Nat := if 96 ≤ s.rd ESC_CTRL_CMDCH then s.rd ESC_CTRL_CMDCH else 120
def State.detChan (s : State) : Nat := if s.rd ESC_DET_CH < 64 then s.rd ESC_DET_CH else 3

/-- EMIN_k in ns: (k+1)·P + 2·H + LEAD_path (R159). -/
def State.eMin (s : State) (k : Nat) : Nat := (k + 1) * s.P + 2 * s.H + s.leadOf s.escPath * 10000000

/-- A chain whose positions ascend strictly and that names no lantern twice (R148). -/
def State.chainSound (s : State) (c : Nat) : Bool :=
  let n := s.nPole c
  (List.range (n - 1)).all (fun i => s.polePos c i < s.polePos c (i + 1)) &&
  (List.range n).all (fun i => (List.range i).all (fun j => s.poleLantern c j != s.poleLantern c i))

/-- How many of the chains `cs` name a lantern. -/
def State.timesNamed (s : State) (cs : List Nat) (n : Nat) : Nat := (cs.filter (fun c => (s.entryOf c n).isSome)).length

/-- The chains enabled for the run, in ascending order: enabled, sound, and holding no fifth entry of a lantern (R148). -/
def State.goodChains (s : State) : List Nat :=
  (List.range 64).foldl (fun cs c =>
    if s.on (ESC_CHAIN_W0_EN c) && s.chainSound c &&
        (List.range (s.nPole c)).all (fun i => s.timesNamed cs (s.poleLantern c i) < 4) then cs ++ [c] else cs) []

/-! ### Work on one engine -/

/-- An engine while it processes a batch: its contents, the actions issued so far (newest first) and their number, and the figures of the
Crease. -/
structure EscWork where
  st : State
  eng : EscortEngine
  k : Nat
  acts : List EscAction
  n : Nat
  dropped : Nat
  nDet : Nat
  nTrk : Nat
  nLost : Nat
  nDrop : Nat
  nMerge : Nat

/-- A flag raised while an engine works. -/
def EscWork.raise (w : EscWork) (f : Field) : EscWork := { w with st := w.st.raise f }

/-- A command or an action counted in ESC_DROP_CNT at the drain, with its flag. -/
def EscWork.dropCmd (w : EscWork) (f : Field) : EscWork := { w.raise f with nDrop := w.nDrop + 1 }

/-- The state of a lantern in an engine. -/
def EscortEngine.lantern (e : EscortEngine) (n : Nat) : LanternState := (kvFind e.lanterns n).getD ⟨0, 0, 0, false, false⟩

/-- The state of a lantern replaced. -/
def EscWork.setLantern (w : EscWork) (n : Nat) (x : LanternState) : EscWork :=
  { w with eng := { w.eng with lanterns :=
      if x = ⟨0, 0, 0, false, false⟩ then kvErase w.eng.lanterns n else kvSet w.eng.lanterns n x } }

/-- A track replaced; `none` frees it. -/
def EscWork.setTrack (w : EscWork) (t : Nat) (x : Option Track) : EscWork :=
  { w with eng := { w.eng with tracks := match x with
      | some y => kvSet w.eng.tracks t y
      | none => kvErase w.eng.tracks t } }

/-- The present BASE of a chain: that of the last SET_BASE, or the table's (R164). -/
def EscWork.base (w : EscWork) (c : Nat) : Nat := (kvFind w.eng.base c).getD (w.st.rd (ESC_CHAIN_W1_BASE c))

/-- The room that the output list still has (R161). -/
def EscWork.room (w : EscWork) : Bool := w.n < w.st.outMax

/-- An action issued, or beyond OUTMAX dropped and counted (R161). -/
def EscWork.issue (w : EscWork) (a : EscAction) : EscWork :=
  if w.room then { w with acts := a :: w.acts, n := w.n + 1 }
  else { w.raise ESC_STATUS_OUTDROP with dropped := w.dropped + 1, nDrop := w.nDrop + 1 }

/-- ns rounded up to 10 ms units. -/
def up10 (ns : Nat) : Nat := ceilDiv ns 10000000

/-- tpred(q) of R154: TLAST + 1,000 × floor(|POS_q − POS_j| × 10^7 / SPEED) ns. -/
def State.tPred (s : State) (x : Track) (q : Nat) : Nat :=
  let a := s.polePos x.chain q
  let b := s.polePos x.chain x.pole
  x.tlast + 1000 * ((if a < b then b - a else a - b) * 10000000 / x.speed)

/-- The gate G(q) in ns (R154). -/
def State.gate (s : State) (x : Track) (q : Nat) : Nat := s.gMin + (s.tPred x q - x.tlast) / 4

/-- The entry `n` steps from `i` in a direction, if the chain has it. -/
def State.ahead (s : State) (c i n : Nat) (down : Bool) : Option Nat :=
  if down then (if n ≤ i then some (i - n) else none) else (if i + n < s.nPole c then some (i + n) else none)

/-! ### Requirements (R158, R159) -/

/-- One requirement of chain `c` for a lantern at time `tq` (R159). -/
def EscWork.require (w : EscWork) (c n tq : Nat) : EscWork :=
  let x := w.eng.lantern n
  if x.held then w
  else
    let b := up10 (max (tq - w.st.tLead c) (w.st.eMin w.k))
    let d := up10 (max (tq + w.st.dwell c) (b * 10000000 + w.st.dwell c))
    if x.lit then w.setLantern n { x with plan := max x.plan d }
    else if w.room then
      let t := max b x.dimAt
      (w.issue ⟨t, n, w.st.chainHi c, w.st.rd (ESC_CHAIN_W1_FUP c)⟩).setLantern n
        { x with litFrom := t, plan := max d (t + w.st.dwell c / 10000000), lit := true }
    else w.issue ⟨0, n, 0, 0⟩

/-- The requirements of a list of (entry, time) pairs of a chain, one after another. -/
def EscWork.requireAll (w : EscWork) (c : Nat) (l : List (Nat × Nat)) : EscWork :=
  l.foldl (fun w p => w.require c (w.st.poleLantern c p.1) p.2) w

/-- The requirements that a track issues (R158); none where the chain's BASE is HI or above (R164) or the chain is inhibited (R165). -/
def EscWork.issueFor (w : EscWork) (x : Track) : EscWork :=
  if w.st.chainHi x.chain ≤ w.base x.chain || w.eng.inhibited.contains x.chain then w
  else if x.active then
    w.requireAll x.chain (((List.range (w.st.nAhead + 1)).filterMap (fun a => w.st.ahead x.chain x.pole a x.dir)).map
      (fun q => (q, if q = x.pole then x.tlast else w.st.tPred x q)))
  else
    let nb := w.st.rd ESC_TRACK_NEIGH
    w.requireAll x.chain (((List.range (2 * nb + 1)).filterMap (fun a =>
      if nb ≤ x.pole + a ∧ x.pole + a - nb < w.st.nPole x.chain then some (x.pole + a - nb) else none)).map (fun q => (q, x.tlast)))

/-! ### Detections (R155 to R157) -/

/-- |a − b|. -/
def dist (a b : Nat) : Nat := if a < b then b - a else a - b

/-- NDET one higher, saturating. -/
def bumpDet (n : Nat) : Nat := min 65535 (n + 1)

/-- One merge check of R157: track `u` (number `un`) against the updated ACTIVE track `t` (number `tn`). The answer gives the survivor's number. -/
def EscWork.mergeOne (w : EscWork) (tn un : Nat) : EscWork × Nat :=
  match kvFind w.eng.tracks tn, kvFind w.eng.tracks un with
  | some t, some u =>
    if un = tn || u.chain != t.chain || u.pole != t.pole || w.st.mergeWin < dist t.tlast u.tlast then (w, tn)
    else if !u.active then (w.setTrack un none, tn)
    else if u.dir != t.dir then (w, tn)
    else
      let m := { t with speed := (t.speed + u.speed) / 2, tlast := max t.tlast u.tlast, ndet := min 65535 (t.ndet + u.ndet) }
      let lo := min tn un
      ({ ((w.setTrack (max tn un) none).setTrack lo (some m)) with nMerge := w.nMerge + 1 }, lo)
  | _, _ => (w, tn)

/-- The merges after an update of track `tn`, against every other track in ascending number (R157). -/
def EscWork.merge (w : EscWork) (tn : Nat) : EscWork × Nat :=
  (w.eng.tracks.map (·.1)).foldl (fun r un => r.1.mergeOne r.2 un) (w, tn)

/-- The best candidate of a list under a preference. -/
def best (better : (Nat × Track) → (Nat × Track) → Bool) : List (Nat × Track) → Option (Nat × Track)
  | [] => none
  | a :: t => match best better t with
    | none => some a
    | some b => if better b a then some b else some a

/-- The ACTIVE track that a detection at entry `i` of chain `c` and time `t` associates with (R155 step 2). -/
def EscWork.activeMatch (w : EscWork) (c i t : Nat) : Option (Nat × Track) :=
  best (fun a b => dist t (w.st.tPred a.2 i) < dist t (w.st.tPred b.2 i))
    (w.eng.tracks.filter (fun p => p.2.active && p.2.chain == c &&
      (w.st.ahead c p.2.pole 1 p.2.dir == some i || w.st.ahead c p.2.pole 2 p.2.dir == some i) &&
      p.2.tlast < t && 0 < (t - p.2.tlast) / 1000 && dist t (w.st.tPred p.2 i) ≤ w.st.gate p.2 i))

/-- The implied speed between two entries in mm/s (R154). -/
def State.implied (s : State) (c i j us : Nat) : Nat := dist (s.polePos c i) (s.polePos c j) * 10000000 / us

/-- The TENT track that a detection associates with (R155 step 2). -/
def EscWork.tentMatch (w : EscWork) (c i t : Nat) : Option (Nat × Track) :=
  best (fun a b => dist a.2.pole i < dist b.2.pole i || (dist a.2.pole i == dist b.2.pole i && b.2.tlast < a.2.tlast))
    (w.eng.tracks.filter (fun p => !p.2.active && p.2.chain == c && (dist p.2.pole i == 1 || dist p.2.pole i == 2) &&
      p.2.tlast < t && 0 < (t - p.2.tlast) / 1000 &&
      w.st.vMin ≤ w.st.implied c i p.2.pole ((t - p.2.tlast) / 1000) &&
      w.st.implied c i p.2.pole ((t - p.2.tlast) / 1000) ≤ w.st.vMax))

/-- The lowest track number from `i`, among `n` more, that is FREE. -/
def freeTrack (ts : List (Nat × Track)) : Nat → Nat → Option Nat
  | 0, _ => none
  | n + 1, i => if (kvFind ts i).isNone then some i else freeTrack ts n (i + 1)

/-- A track updated by association: its requirements, its merges, and its end at the last entry of its direction (R155 to R157). -/
def EscWork.associate (w : EscWork) (tn : Nat) (x : Track) : EscWork :=
  let w := (w.setTrack tn (some x)).issueFor x
  let r := w.merge tn
  if (w.st.ahead x.chain x.pole 1 x.dir).isNone then r.1.setTrack r.2 none else r.1

/-- A detection absorbed by track `tn` (R155 step 1). -/
def EscWork.absorb (w : EscWork) (tn : Nat) (x : Track) (t : Nat) : EscWork :=
  if x.active then
    if t ≤ x.tlast + w.st.gMin then w
    else
      let y := { x with tlast := t, ndet := bumpDet x.ndet }
      (((w.setTrack tn (some y)).issueFor y).merge tn).1
  else
    let y := { x with tlast := max x.tlast t, ndet := bumpDet x.ndet }
    (w.setTrack tn (some y)).issueFor y

/-- A detection at entry `i` of chain `c` (R155). -/
def EscWork.detectAt (w : EscWork) (t c i : Nat) : EscWork :=
  match w.eng.tracks.find? (fun p => p.2.chain == c && p.2.pole == i) with
  | some (tn, x) => w.absorb tn x t
  | none =>
    match w.activeMatch c i t with
    | some (tn, x) =>
      let v := w.st.implied c i x.pole ((t - x.tlast) / 1000)
      w.associate tn { x with speed := clampN w.st.vMin w.st.vMax ((3 * x.speed + v + 2) / 4), pole := i, tlast := t, ndet := bumpDet x.ndet }
    | none =>
      match w.tentMatch c i t with
      | some (tn, x) =>
        let v := w.st.implied c i x.pole ((t - x.tlast) / 1000)
        { w with nTrk := w.nTrk + 1 }.associate tn
          { x with active := true, speed := v, dir := decide (i < x.pole), pole := i, tlast := t, ndet := bumpDet x.ndet }
      | none =>
        match freeTrack w.eng.tracks 256 0 with
        | some tn =>
          let x : Track := ⟨false, c, i, false, 0, 1, t⟩
          (w.setTrack tn (some x)).issueFor x
        | none => w.raise ESC_STATUS_TRKFULL

/-- A detection at lantern `n`: each entry of it on an enabled chain, in ascending chain order; inhibited chains and held lanterns are skipped. -/
def EscWork.detect (w : EscWork) (n t : Nat) : EscWork :=
  let w := { w with nDet := w.nDet + 1 }
  w.eng.chains.foldl (fun w c =>
    if w.eng.inhibited.contains c || (w.eng.lantern n).held then w
    else match w.st.entryOf c n with
      | some i => w.detectAt t c i
      | none => w) w

/-! ### Commands (R163 to R165) -/

/-- Whether a command is one of the table's and has no bit set that the table gives no meaning (R163). -/
def commandGood (kind : Nat) (p : Octets) : Bool :=
  if kind = 1 then octAt p 0 ≤ 63 && octAt p 1 ≤ 1 && leAt p 2 2 ≤ 1000 && leAt p 4 4 == 0
  else if kind = 2 then octAt p 0 ≤ 63 && octAt p 1 ≤ 1 && leAt p 2 6 == 0
  else if kind = 3 then octAt p 0 == 0 && bits (octAt p 1) 1 3 == 0 && leAt p 2 2 ≤ leAt p 4 2 && leAt p 4 2 ≤ 2047 && leAt p 6 2 ≤ 1000
  else false

/-- A command of the batch taken into the pending list, or rejected (R163). -/
def EscWork.takeCommand (w : EscWork) (e : Event) : EscWork :=
  if !commandGood e.kind e.payload then w.dropCmd ESC_STATUS_CMDREJ
  else if 16 ≤ w.eng.pend.length then w.dropCmd ESC_STATUS_CMDOVF
  else
    let t := leAt e.payload 8 8
    { w with eng := { w.eng with pend := w.eng.pend ++ [⟨e.kind, e.payload, t / 2 ^ 30 * 1000000000 + t % 2 ^ 30, e.key⟩] } }

/-- SET_BASE applied at EFF′ = `u` (R164). -/
def EscWork.setBase (w : EscWork) (c : Nat) (reassert : Bool) (v u : Nat) : EscWork :=
  let w := { w with eng := { w.eng with base := kvSet w.eng.base c v } }
  if !reassert || !w.eng.chains.contains c then w
  else ((List.range 2048).filter (fun n => (w.st.entryOf c n).isSome)).foldl (fun w n =>
    let x := w.eng.lantern n
    if x.lit && !x.held && x.litFrom ≤ u then w.issue ⟨u, n, w.st.chainHi c, 0⟩ else w) w

/-- INHIBIT applied (R165). -/
def EscWork.inhibit (w : EscWork) (c : Nat) (on : Bool) : EscWork :=
  if on then
    { w with eng := { w.eng with
      tracks := w.eng.tracks.filter (fun p => p.2.chain != c), inhibited := c :: w.eng.inhibited.filter (· != c) } }
  else { w with eng := { w.eng with inhibited := w.eng.inhibited.filter (· != c) } }

/-- HOLD applied to one lantern (R165). -/
def EscWork.holdOne (w : EscWork) (hold : Bool) (level fade u n : Nat) : EscWork :=
  let x := w.eng.lantern n
  if !hold then w.setLantern n { x with held := false }
  else
    let w := w.setLantern n { x with held := true, lit := false, plan := 0 }
    if u ≤ max x.litFrom x.dimAt && w.eng.chains.any (fun c => (w.st.entryOf c n).isSome)
    then w.issue ⟨max x.litFrom x.dimAt + 1, n, level, fade⟩ else w

/-- A due command applied (R163). -/
def EscWork.applyCommand (w : EscWork) (c : EscCommand) : EscWork :=
  let u := up10 (max c.eff (w.st.eMin w.k))
  let w := if u = up10 c.eff then w else w.raise ESC_STATUS_RCLAMP
  let p := c.payload
  if c.kind = 1 then w.setBase (octAt p 0) (bit (octAt p 1) 0) (leAt p 2 2) u
  else if c.kind = 2 then w.inhibit (octAt p 0) (bit (octAt p 1) 0)
  else ((List.range (leAt p 4 2 + 1 - leAt p 2 2)).map (· + leAt p 2 2)).foldl
    (fun w n => w.holdOne (bit (octAt p 1) 0) (leAt p 6 2) (bits (octAt p 1) 4 4) u n) w

/-- Phase A: the commands that are due, in ascending (EFF, order key) order (R151, R163). -/
def EscWork.phaseA (w : EscWork) : EscWork :=
  let lim := w.st.eMin (w.k + 1)
  let due := sortBy (fun (a b : EscCommand) => a.eff < b.eff || (a.eff == b.eff && keyLt a.key b.key)) (w.eng.pend.filter (fun c => c.eff < lim))
  due.foldl EscWork.applyCommand { w with eng := { w.eng with pend := w.eng.pend.filter (fun c => !(decide (c.eff < lim))) } }

/-! ### Timeouts and the dim walker (R156, R160) -/

/-- The track timeout of phase C for one track (R156). -/
def EscWork.timeout (w : EscWork) (tn : Nat) : EscWork :=
  match kvFind w.eng.tracks tn with
  | none => w
  | some x =>
    let t := (w.k + 1) * w.st.P
    if !x.active then (if x.tlast + w.st.tTent < t then w.setTrack tn none else w)
    else
      let q := match w.st.ahead x.chain x.pole 2 x.dir with
        | some q => q
        | none => (w.st.ahead x.chain x.pole 1 x.dir).getD x.pole
      if w.st.tPred x q + w.st.gate x q < t then { (w.setTrack tn none) with nLost := w.nLost + 1 } else w

/-- Phase C: the tracks in ascending number (R151). -/
def EscWork.phaseC (w : EscWork) : EscWork := (w.eng.tracks.map (·.1)).foldl EscWork.timeout w

/-- The dim walker for one lantern (R160). -/
def EscWork.dim (w : EscWork) (n : Nat) : EscWork :=
  let x := w.eng.lantern n
  if x.lit && !x.held && x.plan * 10000000 < w.st.eMin (w.k + 1) then
    let cs := w.eng.chains.filter (fun c => (w.st.entryOf c n).isSome)
    let t := max x.plan (up10 (w.st.eMin w.k))
    if w.room then
      (w.issue ⟨t, n, (cs.map w.base).foldl max 0, w.st.rd (ESC_CHAIN_W1_FDN (nth 0 cs 0))⟩).setLantern n { x with dimAt := t, lit := false }
    else w.issue ⟨t, n, 0, 0⟩
  else w

/-- Phase D: the lanterns in ascending index (R151, R160). -/
def EscWork.phaseD (w : EscWork) : EscWork := (w.eng.lanterns.map (·.1)).foldl EscWork.dim w

/-! ### Batches and output entries (R150 to R153) -/

/-- An action's record, with ESC's PATH as the action was issued (R133, R152, R161). -/
def EscAction.record (path : Nat) (a : EscAction) : Octets :=
  le 8 (ts64 (timeOfNs (a.launch * 10000000))) ++ le 2 a.lantern ++ le 2 a.level ++ [octet a.fade, octet (path * 4), octet 0, octet 0]

/-- The action records of an output entry, in list order (R152). -/
def EscOutput.records (o : EscOutput) : List Octets := o.actions.map (EscAction.record o.path)

/-- A track's record (R156). -/
def Track.record (x : Track) : Octets :=
  [octet (if x.active then 2 else 1), octet x.chain, octet x.pole, octet (b2n x.dir)] ++ le 2 x.speed ++ le 2 x.ndet ++
  le 8 (ts64 (timeOfNs x.tlast))

/-- CHK of an output entry: the records of the list, then the 256 track records (R152). -/
def escCheck (path : Nat) (acts : List EscAction) (ts : List (Nat × Track)) : Nat :=
  crc32c ((acts.map (EscAction.record path)).flatten ++
    ((List.range 256).map (fun i => match kvFind ts i with
      | some x => x.record
      | none => zeros 16)).flatten)

/-- The detections of a batch: on time, on the detection channel, of the detection KIND (R150). -/
def State.isDetection (s : State) (e : Event) : Bool :=
  e.chan == s.detChan && e.kind.land (s.rd ESC_DET_KIND_MASK) == s.rd ESC_DET_KIND_VAL

/-- What the limits and the LATE rule leave unused of a batch, flagged and counted (R150). -/
def EscWork.unused (w : EscWork) (es : List Event) : EscWork :=
  let lateDet := es.any (fun e => e.late && w.st.isDetection e)
  let lateCmd := (es.filter (fun e => e.late && e.chan == w.st.cmdChan)).length
  let nd := (es.filter (fun e => !e.late && w.st.isDetection e)).length
  let nc := (es.filter (fun e => !e.late && e.chan == w.st.cmdChan)).length
  let w := if lateDet then w.raise ESC_STATUS_DETLATE else w
  let w := if 0 < lateCmd then { w.raise ESC_STATUS_CMDREJ with nDrop := w.nDrop + lateCmd } else w
  if 512 < nd || 16 < nc then { w.raise ESC_STATUS_DETOVF with nDrop := w.nDrop + (nc - 16) } else w

/-- The four phases over a batch (R151). -/
def EscWork.run (w : EscWork) (es : List Event) : EscWork :=
  let w := w.unused es
  let cmds := (es.filter (fun e => !e.late && e.chan == w.st.cmdChan)).take 16
  let dets := (es.filter (fun e => !e.late && w.st.isDetection e)).take 512
  let w := (cmds.foldl EscWork.takeCommand w).phaseA
  ((dets.foldl (fun w e => w.detect (srcNode e.src) (tsNs e.stamp)) w).phaseC).phaseD

/-- The engine of a lane, and its replacement. -/
def State.esc (s : State) : Lane → EscortEngine
  | .A => s.escA
  | .B => s.escB
def State.setEsc (s : State) (l : Lane) (e : EscortEngine) : State :=
  match l with
  | .A => { s with escA := e }
  | .B => { s with escB := e }

/-- An output entry put in the place `k mod 4` (R152). -/
def putOutput (o : EscOutput) (u : List EscOutput) : List EscOutput := o :: u.filter (fun x => x.k % 4 != o.k % 4)

/-- The batch of Crease `k` processed by a lane's engine (R151); with ESC_CTRL.EN = 0 its list is empty (R166). -/
def State.escortTake (s : State) (l : Lane) (k : Nat) (es : List Event) : State :=
  let w0 : EscWork := ⟨s, s.esc l, k, [], 0, 0, 0, 0, 0, 0, 0⟩
  let w := if s.on ESC_CTRL_EN then w0.run es else w0
  let acts := w.acts.reverse
  let o : EscOutput := ⟨k, s.escPath, acts, w.dropped, escCheck s.escPath acts w.eng.tracks, w.nDet, w.nTrk, w.nLost, w.nDrop, w.nMerge, false⟩
  w.st.setEsc l { w.eng with outs := putOutput o w.eng.outs }

/-- Whether a lane's engine can take batch `k`: its entry `k mod 4` is empty, or sealed and drained (R153). -/
def State.escortFree (s : State) (l : Lane) (k : Nat) : Bool :=
  (s.esc l).outs.all (fun o => o.k % 4 != k % 4 || (o.sealed && !s.drainDue o.k))

/-- The seal of Crease `k` marked in a lane's engine (R153). -/
def State.escortSealed (s : State) (l : Lane) (k : Nat) : State :=
  let e := s.esc l
  s.setEsc l { e with outs := e.outs.map (fun o => if o.k = k then { o with sealed := true } else o) }

/-- An engine as CRZ_CTRL.EN = 1 leaves it: every track free, lantern states, flags and pending list clear, the chains checked (R166). -/
def State.escortReset (s : State) : State :=
  let good := s.goodChains
  let e (o : List EscOutput) : EscortEngine := ⟨[], [], [], [], good, [], o⟩
  let bad := (List.range 64).any (fun c => s.on (ESC_CHAIN_W0_EN c) && !good.contains c)
  ({ s with escA := e s.escA.outs, escB := e s.escB.outs }).raiseIf bad ESC_STATUS_CFGERR

/-- Step 4 of a drain (R132, R152): the list of the drained lane's engine goes to the Launch Unit in list order, and the Crease's figures
are counted (R166). -/
def State.escortDrain (s : State) (l : Lane) (k : Nat) : State :=
  match (s.esc l).outs.find? (·.k == k) with
  | none => s
  | some o =>
    let s := o.records.foldl (fun s r => (s.submit k 2 false 0 (commitAction r)).1) s
    let s := (s.addCount ESC_DET_CNT_COUNT o.nDet ESC_STATUS_CNTWRAP).addCount ESC_ACT_CNT_COUNT o.actions.length ESC_STATUS_CNTWRAP
    let s := (s.addCount ESC_TRK_CNT_COUNT o.nTrk ESC_STATUS_CNTWRAP).addCount ESC_LOST_CNT_COUNT o.nLost ESC_STATUS_CNTWRAP
    (s.addCount ESC_DROP_CNT_COUNT o.nDrop ESC_STATUS_CNTWRAP).addCount ESC_MERGE_CNT_COUNT o.nMerge ESC_STATUS_CNTWRAP

/-- The write lock of the Escort registers (R166). -/
def State.escLocked (s : State) (a : Nat) : Bool :=
  let o := a % 0x10000
  s.crzOn && 0x40050000 ≤ a && (o == 0 || (0x0C ≤ o && o < 0x20) || (0x400 ≤ o && o < 0x800) || 0x8000 ≤ o)

end Sys2Proof.Machine
end

