-- ==== Sys2Proof/Machine/Crease.lean ====
section
/-!
DEFINITION. The Crease Sequencer (R61 to R84): the intake, the bins, sealing and the batch header, delivery into a lane's queue, coverage, and
its start and stop. What follows for a lane that lags stands in Machine/Lanes.
-/
namespace Sys2Proof.Machine

/-! ### Octets of events (R63, R64) -/

/-- TYPE: LATE, AHEAD, EXT and KIND (R64). -/
def Event.type (e : Event) : Nat := b2n e.late * 32768 + b2n e.ahead * 16384 + e.ext % 64 * 256 + e.kind % 256

/-- The slots of an event: the head slot and its continuation slots (R63, R64). -/
def Event.octets (e : Event) : Octets :=
  le 8 (ts64 e.stamp) ++ le 4 e.src ++ le 2 (e.seq.getD 0) ++ le 2 e.type ++ e.payload

/-- The octets from offset 14 through the last continuation slot, which R68 compares. -/
def Event.tail (e : Event) : Octets := le 2 e.type ++ e.payload

/-! ### The pool (R76) -/

/-- The slots that a list of events takes. -/
def slotsOf (es : List Event) : Nat := sumN (es.map Event.slots)

/-- The slots the pool holds: bins, the LATE group, and the batches not delivered to every lane in service (R76). -/
def State.poolUsed (s : State) : Nat :=
  sumN (s.crz.bins.map (fun b => slotsOf b.events)) + slotsOf (s.crz.late.map (·.ev)) + sumN (s.crz.sealed.map (·.pool))

/-- Whether an event's slots can all be taken at once (R76). -/
def State.poolFits (s : State) (e : Event) : Bool := s.poolUsed + e.slots ≤ 32768

/-! ### Registration (R67, R69) -/

/-- The rank of an event among the events of its channel registered before it in the same group (R67). -/
def rankIn (es : List Event) (e : Event) : Nat := (es.filter (fun x => x.chan == e.chan)).length % 65536

/-- An event with its SEQ: its own, or its rank (R67). -/
def Event.ranked (e : Event) (es : List Event) : Event :=
  match e.seq with
  | some _ => e
  | none => { e with seq := some (rankIn es e) }

/-- The events of the bin of Crease `k`. -/
def State.binOf (s : State) (k : Nat) : List Event :=
  match s.crz.bins.find? (fun b => b.k == k) with
  | some b => b.events
  | none => []

/-- Bins in ascending order of their Creases. -/
def setBin (k : Nat) (es : List Event) (bs : List Bin) : List Bin :=
  insertBy (fun a b => decide (a.k < b.k)) ⟨k, es⟩ (bs.filter (fun b => b.k != k))

/-- The arrival cycle is `C_k` or earlier, and Crease `k` is not sealed (R69). -/
def State.inTime (s : State) (k : Nat) : Bool :=
  s.crz.oldest ≤ k && (decide (s.now < s.closeTime k) || decide (s.tb.before < s.closeTime k))

/-- The stamp is ahead: its Crease is more than one above that of the arrival (R69). -/
def State.isAhead (s : State) (k : Nat) : Bool := s.creaseOf s.now + 1 < k

/-- An event registered now (R69): into its bin with its SEQ, or LATE, with its SEQ to be given by the batch that delivers it (R67). The pool's PEAK
follows. -/
def State.register (s : State) (e : Event) : State :=
  let k := s.creaseOf (nsOf e.stamp)
  let good := !s.isAhead k && s.inTime k
  let s := s.markReceipt e good
  let s := if good then
      { s with crz := { s.crz with bins := setBin k (s.binOf k ++ [e.ranked (s.binOf k)]) s.crz.bins } }
    else { s with crz := { s.crz with late := s.crz.late ++ [⟨{ e with late := true, ahead := s.isAhead k }, s.tb.before⟩] } }
  s.peak CRZ_POOL_PEAK s.poolUsed

/-- The status buffer's events registered in arrival order while the pool has a free slot (R76). -/
def drainTbBuf : List Event → State → State
  | [], s => { s with crz := { s.crz with tbBuf := [] } }
  | e :: t, s => if s.poolFits e then drainTbBuf t (s.register e) else { s with crz := { s.crz with tbBuf := e :: t } }

/-- What follows when slots have been freed (R76). -/
def State.slotsFreed (s : State) : State := drainTbBuf s.crz.tbBuf s

/-- A word of a dual-clock queue is read without error: the words of an event that leaves its queue for the intake are all read. -/
def State.leaveQueue (s : State) (w : Waiting) (rest : List Waiting) : State :=
  match w.dcq with
  | none => { s with waiting := rest }
  | some n => ({ s with waiting := rest }).dcqCount n

/-- A Time Base event of KIND 0x01 or 0x02 that meets a stall: into the status buffer of 16, or discarded with TBDROP (R76). -/
def State.tbStalled (s : State) (e : Event) : State :=
  if s.crz.tbBuf.length < 16 then { s with crz := { s.crz with tbBuf := s.crz.tbBuf ++ [e] } } else s.raise CRZ_STATUS_TBDROP

/-- The first waiting event that a test finds, and the others in order. -/
def takeFirst (p : Waiting → Bool) : List Waiting → Option (Waiting × List Waiting)
  | [] => none
  | w :: t => if p w then some (w, t) else (takeFirst p t).map (fun r => (r.1, w :: r.2))

/-- An input that the intake discards in Day Rest, after k_last has been sealed (R248). -/
def State.restDiscard (s : State) : State := s.count BHM0_DR_DISC_COUNT (BHM_STATUS_DRWRAP 0)

/-- The intake turns to the first waiting event of a channel (R69, R76): it registers it, or stalls before it. While the intake stands
still, only Time Base status events leave their queue. -/
def State.intake (s : State) (chan : Nat) : State :=
  if !s.crzOn then s
  else
    match takeFirst (fun w => w.ev.chan == chan) s.waiting with
    | none => s
    | some (w, rest) =>
      if s.crz.rest then (s.leaveQueue w rest).restDiscard
      else if chan = 64 then
        let s := s.leaveQueue w rest
        if s.crz.tbBuf.isEmpty && s.poolFits w.ev then s.register w.ev else s.tbStalled w.ev
      else if s.crz.stalled.isSome then s
      else if s.poolFits w.ev then (s.leaveQueue w rest).register w.ev
      else ({ s with crz := { s.crz with stalled := some (w.ev.slots, s.now), stallRem := 0, stallChan := chan } }).raise CRZ_STATUS_STALL

/-- The intake resumes when the whole event it stopped at fits, and registers it (R76). -/
def State.intakeResume (s : State) : State :=
  match s.crz.stalled with
  | none => s
  | some (need, f) =>
    if s.poolUsed + need ≤ 32768 then
      { s with crz := { s.crz with stalled := none, stalls := s.crz.stalls ++ [(f, s.now)] } }.intake s.crz.stallChan
    else s

/-! ### Sealing (R68, R70 to R73) -/

/-- Events compared by order key (R65). -/
def eventLt (a b : Event) : Bool := keyLt a.key b.key

/-- Of the events of a sorted list that share an order key, the one whose octets from offset 14 are lowest (R68). -/
def dedup : List Event → List Event
  | [] => []
  | e :: t =>
    match dedup t with
    | [] => [e]
    | f :: r => if e.key = f.key then (if octLt f.tail e.tail then f :: r else e :: r) else e :: f :: r

/-- The events of a batch in delivery order (R68, R70): one of each order key, the on-time ones before the LATE ones, each group in key order. -/
def sealGroup (es : List Event) : List Event :=
  let kept := dedup (sortBy eventLt es)
  kept.filter (fun e => !e.late) ++ kept.filter (·.late)

/-- The LATE events of a batch with their SEQ, each ranked among those of its channel before it (R67). -/
def rankLate (before : List Event) : List Event → List Event
  | [] => []
  | e :: t => e.ranked before :: rankLate (before ++ [e]) t

/-- The intake was stalled during Crease `k` (R72, R76). -/
def State.stalledIn (s : State) (k : Nat) : Bool :=
  s.crz.stalls.any (fun p => decide (p.1 < (k + 1) * s.P) && decide (k * s.P ≤ p.2)) ||
  (match s.crz.stalled with
    | some p => decide (p.2 < (k + 1) * s.P)
    | none => false)

/-- FLAGS of a batch header (R72); a batch that follows a skip carries GAP (R77). -/
def State.batchFlags (s : State) (k : Nat) (tbOk : Bool) : Nat :=
  let gap := s.crz.gap || decide (s.crz.oldest < k) || (match s.crz.lastSealed with
    | some j => !s.crz.first && k != j + 1
    | none => false)
  b2n s.crz.first + 2 * b2n tbOk + 4 * b2n s.crz.stepped + 8 * b2n gap + 16 * b2n (s.stalledIn k)

/-- The number of slots of a batch that hold a poisoned word (R72). -/
def poisonedSlots (es : List Event) : Nat := sumN (es.map (fun e => e.bad.length))

/-- Octets 0 to 31 of a batch header (R72). -/
def State.batchHead (s : State) (k : Nat) (es : List Event) (flags : Nat) : Octets :=
  le 8 k ++ le 4 (slotsOf es) ++ le 2 es.length ++ le 2 (es.filter (·.late)).length ++ le 8 (ts64 (timeOfNs (k * s.P))) ++
  le 2 (poisonedSlots es) ++ le 2 flags ++ le 2 s.pMs ++ le 2 s.hMs

/-- The octets of a batch's slots in delivery order. -/
def slotOctets (es : List Event) : Octets := (es.map Event.octets).flatten

/-- D_k (R73). -/
def batchDigest (prev head : Octets) (es : List Event) : Octets := sha256 (prev ++ head ++ slotOctets es)

/-! ### Coverage (R81, R82) -/

/-- The coverage entry of a Crease changed, if the ring holds it. -/
def State.onCover (s : State) (k : Nat) (f : Coverage → Coverage) : State :=
  match kvFind s.crz.cover (k % 512) with
  | some c => if c.k = k then { s with crz := { s.crz with cover := kvSet s.crz.cover (k % 512) (f c) } } else s
  | none => s

/-- NOLATE cleared: REVISED if FINAL was set, and COVERED reads 0 (R81, R82). -/
def Coverage.clearNoLate (c : Coverage) : Coverage :=
  { c with cover := if bit c.cover 1 && bit c.cover 4 then setBit (setBit (setBit c.cover 1 false) 5 true) 7 false
      else setBit (setBit c.cover 1 false) 7 false }

/-- What a LATE event delivered in batch `k` does to the Crease of its stamp (R82): it is counted in LATECNT, and clears NOLATE unless it is AHEAD (R81) or its Crease is 256 or
more Creases older. -/
def State.lateMark (k : Nat) (s : State) (e : Event) : State :=
  let j := s.creaseOf (nsOf e.stamp)
  s.onCover j (fun c =>
    let c := { c with late := min 255 (c.late + 1) }
    if !e.ahead && decide (k < j + 256) then c.clearNoLate else c)

/-- FINAL set as the Active lane forms digest `k`; COVERED follows (R82). -/
def State.coverFinal (s : State) (k : Nat) : State :=
  s.onCover k (fun c =>
    let v := setBit c.cover 4 true
    { c with cover := if v % 16 = 15 then setBit v 7 true else v })

/-- A NOND (3) or NOUE (2) bit cleared, unless FINAL is set (R82). -/
def State.coverClear (s : State) (k b : Nat) : State :=
  s.onCover k (fun c => if bit c.cover 4 then c else { c with cover := setBit c.cover b false })

/-- The entry of Crease `k` created as its batch is sealed (R82). -/
def State.coverCreate (s : State) (k : Nat) (tbOk : Bool) (es : List Event) : State :=
  let noLate := !es.any (·.late)
  let noUe := !s.crz.ueMark && poisonedSlots es == 0
  let v := b2n tbOk + 2 * b2n noLate + 4 * b2n noUe + 8 * b2n (!s.crz.ndMark)
  { s with crz := { s.crz with cover := kvSet s.crz.cover (k % 512) ⟨k, 0, v⟩, ndMark := false, ueMark := false } }

/-! ### The seal of a batch (R71) -/

/-- The index that is sealed next: the oldest, or past a skip over more than 64 Creases the next with a bin (R77). -/
def State.nextSeal (s : State) : Nat :=
  if s.crz.oldest < s.crz.skipTo then
    match s.crz.bins.find? (fun b => s.crz.oldest ≤ b.k && decide (b.k < s.crz.skipTo)) with
    | some b => b.k
    | none => s.crz.skipTo
  else s.crz.oldest

/-- Whether the Crease that is sealed next has closed and its bin can be frozen: the cycle C_k, in which the counter reached the closure, is over, since an event that
arrives in it is on time (R26, R69, R71). -/
def State.closureDue (s : State) : Bool := s.crzOn && !s.crz.rest && decide (s.closeTime s.nextSeal ≤ s.tb.before)

/-- The counters and flags of a sealed batch (R68, R69, R84). -/
def State.sealCounts (s : State) (dups : Nat) (es : List Event) (flags : Nat) : State :=
  let lates := es.filter (·.late)
  let s := (s.addCount CRZ_DUP_CNT_COUNT dups CRZ_STATUS_CNTWRAP).raiseIf (0 < dups) CRZ_STATUS_DUP
  let s := (s.addCount CRZ_LATE_CNT_COUNT lates.length CRZ_STATUS_CNTWRAP).raiseIf (!lates.isEmpty) CRZ_STATUS_LATE
  (s.raiseIf (lates.any (·.ahead)) CRZ_STATUS_AHEAD).raiseIf (bit flags 3) CRZ_STATUS_GAP

/-- The closure summary with its own rank in bin `k`; `bad` says that its word was read poisoned (R79, R384). -/
def State.summaryEvent (s : State) (k : Nat) (bad : Bool) : Event :=
  let e := (s.closureSummary k).ranked (s.binOf k)
  { e with bad := if bad then [0] else [] }

/-- The events from which the batch of Crease `k` is made (R69, R71, R79): its bin, its closure summary, and the LATE events that arrived no later than C_k. -/
def State.batchInput (s : State) (k : Nat) (sum : Event) : List Event :=
  s.binOf k ++ [sum] ++ rankLate [] ((s.crz.late.filter (fun x => decide (x.before < s.closeTime k))).map (·.ev))

/-- Crease `k` sealed into a batch (R71 to R73, R82); it waits for the lanes in service. -/
def State.sealBatch (s : State) (k : Nat) (bad : Bool) : State :=
  let sum := s.summaryEvent k bad
  let tbOk := summaryOk sum && !bad
  let all := s.batchInput k sum
  let es := sealGroup all
  let dups := all.length - es.length
  let flags := s.batchFlags k tbOk
  let head := s.batchHead k es flags
  let d := batchDigest (if s.crz.first then zeros 32 else s.crz.dPrev) head es
  let b : Batch := ⟨k, head ++ d, es, slotsOf es - 1, s.inService .A, s.inService .B⟩
  let s := s.sealCounts dups es flags
  let s := ((s.wr CRZ_SEAL_IDX_IDX k).wr CRZ_DIGEST_DIGEST (leVal d)).coverCreate k tbOk es
  let s := (es.filter (·.late)).foldl (State.lateMark k) s
  let s := { s with crz := { s.crz with
      bins := s.crz.bins.filter (fun x => k < x.k), late := s.crz.late.filter (fun x => !decide (x.before < s.closeTime k)), oldest := k + 1, lastSealed := some k, first := false, stepped := false,
      gap := false, stalls := s.crz.stalls.filter (fun p => (k + 1) * s.P ≤ p.2), dPrev := d,
      sealed := if b.forA || b.forB then s.crz.sealed ++ [b] else s.crz.sealed } }
  (s.pruneTb k).slotsFreed

/-- A batch sealed while Day Rest is PENDING is k_last (R248). -/
def State.markLast (s : State) (k : Nat) : State :=
  if s.rd BHM0_DR_STAT_STATE = 1 ∧ ¬ s.crz.rest then { s.wr BHM0_DR_KIDX_IDX k with
    crz := { s.crz with rest := true } }
  else s

/-! ### Delivery (R74, R75) -/

/-- Whether a batch waits for a lane. -/
def Batch.waits (b : Batch) : Lane → Bool
  | .A => b.forA
  | .B => b.forB

/-- A batch that no longer waits for a lane. -/
def Batch.served (b : Batch) : Lane → Batch
  | .A => { b with forA := false }
  | .B => { b with forB := false }

/-- The batches that wait for no lane leave, and their slots are free (R76). -/
def State.dropServed (s : State) : State :=
  ({ s with crz := { s.crz with sealed := s.crz.sealed.filter (fun b => b.forA || b.forB) } }).slotsFreed

/-- The oldest batch that waits for a lane. -/
def State.waitingBatch (s : State) (l : Lane) : Option Batch := s.crz.sealed.find? (fun b => b.waits l)

/-- A lane for which nothing waits any more: it left service, or its older batch is discarded (R74, R102). -/
def State.unwait (s : State) (l : Lane) (p : Batch → Bool) : State :=
  ({ s with crz := { s.crz with sealed := s.crz.sealed.map (fun b => if p b then b.served l else b) } }).dropServed

/-- The queue length in slots: below 32,771 acts as 32,771 (R84). -/
def State.eqSize (s : State) : Nat := max 32771 (s.rd CRZ_EQ_SIZE_SIZE)

/-- The address within lane SRAM of a queue slot (R74). -/
def State.eqSlot (s : State) (i : Nat) : Nat := s.rd CRZ_EQ_BASE_BASE * 32 + i % s.eqSize * 32

/-- The slots that a lane's queue holds. -/
def State.eqUsed (s : State) (l : Lane) : Nat := (s.rd (CRZ_EQ_WR_WR l) + s.eqSize - s.rd (CRZ_EQ_RD_RD l) % s.eqSize) % s.eqSize

/-- Octets written slot by slot into a lane's queue from a slot index (R74); slots wrap modulo EQ_SIZE. -/
def putSlots (s : State) (m : List Host.Cell) (i : Nat) : Nat → Octets → List Host.Cell
  | 0, _ => m
  | n + 1, bs => putSlots s (memWrite m (s.eqSlot i) (bs.take 32)) (i + 1) n (bs.drop 32)

/-- The header of the batch at a lane's read index, if its queue is not empty. -/
def State.frontHeader (s : State) (l : Lane) : Option Octets :=
  if s.batchReady l then some (memRead (s.lane l).sram (s.eqSlot (s.rd (CRZ_EQ_RD_RD l))) 32) else none

/-- CREASE_IDX of the batch at a lane's read index (R94). -/
def State.frontIndex (s : State) (l : Lane) : Option Nat := (s.frontHeader l).map (fun h => leAt h 0 8)

/-- The read index of a lane advanced past the batch that it has consumed, by 2 + SLOTS (R74, R94); the lane begins the next batch if its queue holds one (R98). -/
def State.advanceRead (s : State) (l : Lane) : State :=
  match s.frontHeader l with
  | none => s
  | some h =>
    let s := s.wr (CRZ_EQ_RD_RD l) ((s.rd (CRZ_EQ_RD_RD l) + 2 + leAt h 8 4) % s.eqSize)
    let next := s.frontIndex l
    let ok := s.inService l
    s.onLane l (fun x => { x with began := next.map (fun k => (k, ok)) })

/-- The Crease against which a lane's ND reads and errors count: that of the batch it processes or takes next (R81). -/
def State.countingCrease (s : State) (l : Lane) : Option Nat :=
  match s.frontIndex l with
  | some k => some k
  | none => (s.waitingBatch l).map (·.k)

/-- An ND read in service context (b = 3) or an uncorrected error (b = 2) of the Active lane counts against its Crease (R81). -/
def State.countAgainst (s : State) (l : Lane) (b : Nat) : State :=
  if s.role l != roleActive then s
  else match s.countingCrease l with
    | some k => s.coverClear k b
    | none => { s with crz := if b = 3 then { s.crz with ndMark := true } else { s.crz with ueMark := true } }

/-- QWAIT of a lane. -/
def qwaitFlag : Lane → Field
  | .A => CRZ_STATUS_QWAIT_A
  | .B => CRZ_STATUS_QWAIT_B

/-- DIGERR of a lane. -/
def digerrFlag : Lane → Field
  | .A => CRZ_STATUS_DIGERR_A
  | .B => CRZ_STATUS_DIGERR_B

/-- The Active lane's deliveries are held while it forms a digest with the other lane in JOINING (R103). -/
def State.deliveryHeld (s : State) (l : Lane) : Bool :=
  s.role l == roleActive && s.role l.other == roleJoining && (s.lane l).sealing.isSome

/-- A batch written into a lane's queue (R74), reduced by its Felter unit (R108) and run by its Escort engine (R151). -/
def State.deliverTo (s : State) (l : Lane) (b : Batch) : State :=
  let wr := s.rd (CRZ_EQ_WR_WR l)
  let n := 2 + slotsOf b.events
  let was := s.batchReady l
  let s := s.onLane l (fun x => { x with sram := putSlots s x.sram wr n (b.header ++ slotOctets b.events) })
  let s := s.wr (CRZ_EQ_WR_WR l) ((wr + n) % s.eqSize)
  let s := if was then s else s.onLane l (fun x => { x with began := some (b.k, s.inService l) })
  let s := (s.felterTake l b.k b.events).escortTake l b.k b.events
  s.unwait l (fun x => x.k == b.k)

/-- WAIT of a lane in Felter and in Escort (R119, R153). -/
def felterWait : Lane → Field
  | .A => FLT_STATUS_WAIT_A
  | .B => FLT_STATUS_WAIT_B
def escortWait : Lane → Field
  | .A => ESC_STATUS_WAIT_A
  | .B => ESC_STATUS_WAIT_B

/-- The delivery of the oldest batch that waits for a lane (R74): it is written when it fits whole with one slot left free and the lane's
Felter and Escort units can take it; otherwise it waits, with QWAIT where the queue is full and WAIT where a unit's entry is not free (R119, R153). -/
def State.deliver (s : State) (l : Lane) : State :=
  match s.waitingBatch l with
  | none => s
  | some b =>
    let full := decide (s.eqSize < s.eqUsed l + 2 + slotsOf b.events + 1)
    let felter := !s.felterFree l b.k
    let escort := !s.escortFree l b.k
    if s.deliveryHeld l then s
    else if full || felter || escort then ((s.raiseIf full (qwaitFlag l)).raiseIf felter (felterWait l)).raiseIf escort (escortWait l)
    else s.deliverTo l b

/-! ### Start, stop and injection (R78, R80) -/

/-- The Sequencer starts (R78): an empty pool, k0 = floor(t/P) + 1, and FIRST due. -/
def State.crzStart (s : State) : State :=
  let s := { s with crz := { s.crz with
      bins := [], late := [], oldest := s.creaseOf s.now + 1, lastSealed := none, first := true, stepped := false, gap := false,
      stalled := none, stalls := [], stallRem := 0, skipTo := 0, sealed := [], tbBuf := [], rest := false, ndMark := false, ueMark := false } }
  let s := { s with tb := { s.tb with spans := [], samples := [], steps := [] } }
  (s.wr CRZ_CTRL_EN 1).wr CRZ_POOL_PEAK 0

/-- The Sequencer stops (R78): every bin and every undelivered batch is discarded, and the queue indices are kept. -/
def State.crzStop (s : State) : State :=
  let s := { s with crz := { s.crz with bins := [], late := [], sealed := [], tbBuf := [], stalled := none, stalls := [], skipTo := 0 } }
  s.wr CRZ_CTRL_EN 0

/-- The registers that accept writes only while EN = 0 (R78): CRZ_GRID, CRZ_SEG, CRZ_EQ_BASE, CRZ_EQ_SIZE and CRZ_EQ_RD. -/
def State.crzLocked (s : State) (a : Nat) : Bool :=
  s.crzOn && (a == 0x40020004 || a == 0x40020008 || a == 0x40020040 || a == 0x40020044 || a == 0x40020048)

/-- Whether a queue of a base (32-octet units) and a size lies within lane SRAM (R84). -/
def queueFits (base size : Nat) : Bool := base * 32 + max 32771 size * 32 ≤ 4194304

/-- A write of CRZ_INJ_CMD in service context (R80): the event of CRZ_INJ_PAY, stamped now, is registered, after the events of its channel that still wait (R67). -/
def State.inject (s : State) (chan kind : Nat) : State :=
  if chan < 96 then s.raise CRZ_STATUS_INJREJ
  else
    let e := s.event chan 0 kind (le 16 (s.rd CRZ_INJ_PAY_PAYLOAD)) s.tb.now
    if s.crz.rest then s.restDiscard
    else if s.crzOn && s.crz.stalled.isNone && s.poolFits e && !s.waiting.any (fun w => w.ev.chan == chan) then s.register e
    else s.post e

end Sys2Proof.Machine
end

