-- ==== Sys2Proof/Machine/Dma.lean ====
section
/-!
DEFINITION. The DMA engine (R369 to R380) and what is particular to the dual-clock queues (R381 to R387): descriptors, the four operations,
completion and its records, shut-down and takeover, and the discard commands.
-/
namespace Sys2Proof.Machine

/-! ### Errors that a command carries -/

/-- A word of a list holds an address. -/
def hitsWord (l : List Nat) (a : Nat) : Bool := l.any (fun p => busWord p == busWord a)

/-- The words of a list that a span meets, each once. -/
def wordsIn (l : List Nat) (a n : Nat) : List Nat :=
  ((l.map busWord).eraseDups).filter (fun p => decide (p < a + n) && decide (busWord a ≤ p))

/-- A fabric parity error counted (R397). -/
def State.parityError (s : State) (n : Nat) : State :=
  if n = 0 then s else (s.addCount SAF_FABPAR_CNT_COUNT n SAF_STATUS_CNTWRAP).raise SAF_STATUS_FABPAR

/-! ### Descriptors (R370, R371) -/

/-- A descriptor's fields (R370). -/
structure Descriptor where
  op : Nat
  irq : Bool
  esize : Nat
  len : Nat
  src : Nat
  dst : Nat
  idx : Nat
  pattern : Octets
  spare : Bool

/-- The fields of 32 octets; `spare` says that a reserved or unused field is not zero. -/
def readDescriptor (d : Octets) : Descriptor :=
  let op := octAt d 0
  { op := op, irq := bit (octAt d 1) 0, esize := leAt d 2 2, len := leAt d 4 4, src := leAt d 8 4, dst := leAt d 12 4, idx := leAt d 16 4,
    pattern := slice d 24 8,
    spare := bits (octAt d 1) 1 7 != 0 || leAt d 20 4 != 0 || (op != 1 && (leAt d 2 2 != 0 || leAt d 16 4 != 0)) ||
      (op == 2 && leAt d 8 4 != 0) || (op != 2 && leAt d 24 8 != 0) }

/-- The destination span in octets. -/
def Descriptor.span (d : Descriptor) : Nat := if d.op = 1 then d.len * d.esize else d.len

/-- A span in one readable region (R16, R371). -/
def State.readable (s : State) (a n : Nat) : Bool := (s.region a n).isSome

/-- A span in one writable region: lane SRAM or the PST window, where it must be of whole words (R371). -/
def State.writable (s : State) (a n : Nat) : Bool :=
  match s.region a n with
  | some (.sram, _) => true
  | some (.pst, _) => a % 4 == 0 && n % 4 == 0
  | _ => false

/-- Whether a descriptor is refused (R371). -/
def State.descRefused (s : State) (d : Descriptor) : Bool :=
  decide (3 < d.op) || d.spare ||
  (if d.op = 1 then d.len == 0 || decide (65536 < d.len) || d.esize == 0 || decide (4096 < d.esize)
   else d.len == 0 || decide (2 ^ 24 < d.len)) ||
  (if d.op = 1 then !s.readable d.idx (4 * d.len) || d.idx % 4 != 0 else if d.op = 2 then false else !s.readable d.src d.len) ||
  (if d.op = 3 then !s.readable d.dst d.len else !s.writable d.dst d.span) ||
  (d.op == 0 && decide (d.src < d.dst + d.len) && decide (d.dst < d.src + d.len))

/-! ### Moving data (R372 to R374, R378) -/

/-- What a descriptor's run has gathered: the state, the poisoned words met with the first of them, the destination octets whose writes
were issued, and whether it ended with BUSERR. -/
structure DmaRun where
  st : State
  first : Option Nat
  count : Nat
  done : Nat
  busErr : Bool

/-- An uncorrected error in a word that the engine reads: counted in PST_UE_CNT for PST (R282), and against the Crease being processed for the Active lane's SRAM (R81, R86). -/
def State.wordUncorrected (s : State) (a : Nat) : State :=
  if 0x20000000 ≤ a ∧ a < 0x21000000 then s.pstUncorrected
  else if 0x08000000 ≤ a ∧ a < 0x08400000 then s.countAgainst s.busLane 2 else s

/-- A corrected error in a word that the engine reads (R86, R282). -/
def State.wordCorrected (s : State) (a : Nat) : State :=
  if 0x20000000 ≤ a ∧ a < 0x21000000 then s.pstCorrected
  else if 0x08000000 ≤ a ∧ a < 0x08400000 then s.correctedWord s.busLane else s

/-- What a span of `n` octets meets as it is read: the words with an error that is corrected, those with one that is not, and those whose transfer fails its check (R86, R282, R397). -/
def State.spanMeets (s : State) (e : BusErrors) (a n : Nat) : State :=
  let s := (wordsIn e.corrected a n).foldl State.wordCorrected s
  ((wordsIn e.poison a n).foldl State.wordUncorrected s).parityError (wordsIn e.parity a n).length

/-- Poisoned words noted (R378). -/
def DmaRun.note (r : DmaRun) (ws : List Nat) : DmaRun := { r with first := r.first.or ws.head?, count := r.count + ws.length }

/-- A span read: its octets, those of poisoned words as zeros (R378). -/
def DmaRun.read (r : DmaRun) (e : BusErrors) (a n : Nat) : DmaRun × Octets :=
  let bs := (r.st.busRead a n).getD (zeros n)
  let ws := wordsIn (e.poison ++ e.parity) a n
  let clean := if ws.isEmpty then bs else bs.mapIdx (fun i b => if hitsWord ws (a + i) then octet 0 else b)
  (({ r with st := r.st.spanMeets e a n }).note ws, clean)

/-- A run with the answer of a write into PST: a write that is refused ends it (R372). -/
def DmaRun.answered (r : DmaRun) (w : State × Bool) : DmaRun :=
  if w.2 then { r with st := w.1, done := r.done + 4 } else { r with st := w.1, busErr := true }

/-- A word written into PST, unless a write before it was refused (R372, R285); a word whose transfer fails its check is not written. -/
def pstWord (e : BusErrors) (a v : Nat) (r : DmaRun) : DmaRun :=
  if r.busErr then r
  else if hitsWord e.lost a then { r with st := r.st.parityError 1, done := r.done + 4 }
  else r.answered (r.st.pstWrite .dma (a % 0x20000000) v)

/-- Octets of a span that are no whole aligned word of PST are refused as a store of them is (R282; DEDUCED, notes/assumptions/54: an element of GATHER is written by itself). -/
def pstPart (a : Nat) (r : DmaRun) : DmaRun := if r.busErr then r else { r with st := r.st.pstMisaligned (a % 0x20000000), busErr := true }

/-- Words written into PST in ascending order until one is refused (R372, R285). -/
def pstSpan (e : BusErrors) : Nat → Nat → Octets → DmaRun → DmaRun
  | 0, _, _, r => r
  | n + 1, a, bs, r =>
    if bs.isEmpty then r
    else if a % 4 ≠ 0 ∨ bs.length < 4 then pstPart a r
    else pstSpan e n (a + 4) (bs.drop 4) (pstWord e a (leAt bs 0 4) r)

/-- Octets written into the Active lane's SRAM; those of a word whose transfer fails its check are not (R397). -/
def sramSpan (e : BusErrors) (a : Nat) (bs : Octets) (r : DmaRun) : DmaRun :=
  let lost := wordsIn e.lost a bs.length
  let o := a % 0x08000000
  let l := r.st.busLane
  let old := memRead (r.st.lane l).sram o bs.length
  let out := if lost.isEmpty then bs else (bs.zip old).mapIdx (fun i p => if hitsWord lost (a + i) then p.2 else p.1)
  { r with st := (r.st.sramWrite l o out).parityError lost.length, done := r.done + bs.length }

/-- A span written to its destination. -/
def DmaRun.write (r : DmaRun) (e : BusErrors) (a : Nat) (bs : Octets) : DmaRun :=
  if a < 0x20000000 then sramSpan e a bs r else pstSpan e (bs.length / 4 + 1) a bs r

/-- COPY (R372). -/
def DmaRun.copy (r : DmaRun) (e : BusErrors) (d : Descriptor) : DmaRun :=
  let x := r.read e d.src d.len
  x.1.write e d.dst x.2

/-- The elements of GATHER from `i` on (R372): an element outside the readable regions ends the descriptor with BUSERR, and one whose index was
read poisoned is zeros (R378). -/
def gatherFrom (e : BusErrors) (d : Descriptor) : Nat → Nat → DmaRun → DmaRun
  | 0, _, r => r
  | n + 1, i, r =>
    if r.busErr then r
    else
      let q := r.read e (d.idx + 4 * i) 4
      let bad := hitsWord (e.poison ++ e.parity) (d.idx + 4 * i)
      let a := (d.src + leAt q.2 0 4) % 4294967296
      if bad then gatherFrom e d n (i + 1) (q.1.write e (d.dst + i * d.esize) (zeros d.esize))
      else if q.1.st.readable a d.esize then
        let x := q.1.read e a d.esize
        gatherFrom e d n (i + 1) (x.1.write e (d.dst + i * d.esize) x.2)
      else { q.1 with busErr := true }

/-- FILL: at each address a, octet a mod 8 of PATTERN (R373). -/
def DmaRun.fill (r : DmaRun) (e : BusErrors) (d : Descriptor) : DmaRun :=
  r.write e d.dst ((List.range d.len).map (fun i => octet (octAt d.pattern ((d.dst + i) % 8))))

/-- The positions at which two spans differ, from `i` on: each octet of a poisoned word counts (R374). -/
def misses (e : BusErrors) (d : Descriptor) : Nat → Octets → Octets → List Nat
  | i, a :: as, b :: bs =>
    let bad := hitsWord (e.poison ++ e.parity) (d.src + i) || hitsWord (e.poison ++ e.parity) (d.dst + i)
    if bad || a != b then (d.src + i) :: misses e d (i + 1) as bs else misses e d (i + 1) as bs
  | _, _, _ => []

/-! ### A channel's work (R369, R375 to R377) -/

/-- SIZE of a ring; 0 acts as 1 (R389). -/
def State.dmaSize (s : State) (n : Nat) : Nat := max 1 (s.rd (DMA_CH_W2_SIZE n))

/-- A channel may fetch: it is running, HEAD differs from TAIL, no descriptor of it is in progress and no record of it waits (R369, R377). -/
def State.dmaReady (s : State) (n : Nat) : Bool :=
  s.rd (DMA_CH_W0_RUNST n) == 1 && s.rd (DMA_CH_W4_HEAD n) != s.rd (DMA_CH_W3_TAIL n) && (kvFind s.dma.jobs n).isNone &&
  s.dma.records.all (fun r => r.chan != n)

/-- The octets of the descriptor at CH_HEAD. -/
def State.dmaFetch (s : State) (n : Nat) : Octets :=
  memRead (s.lane s.busLane).sram (s.rd (DMA_CH_W1_BASE n) * 32 + s.rd (DMA_CH_W4_HEAD n) * 32) 32

/-- The status of a job: the first that applies in the order of R376. -/
def DmaJob.status (j : DmaJob) : Nat :=
  if j.descErr then 3 else if j.busErr then 2 else if j.timedOut then 4 else if j.aborted then 5 else if 0 < j.poisoned then 1 else 0

/-- The octets of a completion record without PHASE (R376), at a network time. -/
def DmaJob.record (j : DmaJob) (n : Nat) (t : Time) : Octets :=
  let d := readDescriptor j.desc
  [octet n, octet j.status] ++ le 2 j.index ++ le 4 j.done ++ le 4 j.misCount ++ le 4 (j.misAddr.getD 0xFFFFFFFF) ++
  le 4 (j.poisonAt.getD 0xFFFFFFFF) ++ le 2 (min 65535 j.poisoned) ++ [octet d.op, octet 0] ++ le 8 (ts64 t)

/-- A descriptor completed: its record waits to be written (R375, R377). -/
def State.dmaFinish (s : State) (n : Nat) (j : DmaJob) : State :=
  let r : DmaRecord := ⟨n, j.record n s.tb.now, (readDescriptor j.desc).irq⟩
  let s := { s with dma := { s.dma with jobs := kvErase s.dma.jobs n, records := s.dma.records ++ [r] } }
  let s := s.count DMA_DONE_CNT_COUNT DMA_STATUS_CNTWRAP
  if j.status = 0 then s else s.count DMA_ERR_CNT_COUNT DMA_STATUS_CNTWRAP

/-- A job as it is fetched, at an elapsed time. -/
def newJob (i : Nat) (d : Octets) (t : Nat) : DmaJob := ⟨i, d, 0, none, 0, 0, none, false, false, false, false, t⟩

/-- A job with what its run gathered; DONE of GATHER counts elements (R375). -/
def DmaJob.after (j : DmaJob) (r : DmaRun) (unit : Nat) : DmaJob :=
  { j with done := r.done / max 1 unit, poisonAt := r.first, poisoned := r.count, busErr := r.busErr }

/-- A job that completes at once, or waits for its write responses (R375). -/
def State.dmaHold (s : State) (n : Nat) (j : DmaJob) (now : Bool) : State :=
  if now then s.dmaFinish n j else { s with dma := { s.dma with jobs := kvSet s.dma.jobs n j } }

/-- The work of a descriptor that is not refused (R372 to R374). -/
def State.dmaWork (s : State) (n : Nat) (j : DmaJob) (d : Descriptor) (e : BusErrors) : State :=
  let r0 : DmaRun := ⟨s, none, 0, 0, false⟩
  if d.op = 3 then
    let a := r0.read e d.src d.len
    let b := a.1.read e d.dst d.len
    let ms := misses e d 0 a.2 b.2
    let j := { j.after b.1 1 with done := d.len, misCount := ms.length, misAddr := ms.head? }
    b.1.st.dmaFinish n j
  else
    let r := if d.op = 0 then r0.copy e d else if d.op = 1 then gatherFrom e d d.len 0 r0 else r0.fill e d
    r.st.dmaHold n (j.after r (if d.op = 1 then d.esize else 1)) (r.busErr && r.done == 0)

/-- A descriptor fetched by a channel and worked (R369 to R374). It is worked by the command of its OP; a descriptor whose OP is above 3, or whose own
words are read poisoned (`descBad`), is refused by any of the four. -/
def State.dmaStart (s : State) (op n : Nat) (descBad : Bool) (e : BusErrors) : State :=
  if !s.dmaReady n then s
  else
    let bs := s.dmaFetch n
    let d := readDescriptor bs
    if !descBad && d.op ≤ 3 && d.op != op then s
    else
      let h := s.rd (DMA_CH_W4_HEAD n)
      let s := s.wr (DMA_CH_W4_HEAD n) ((h + 1) % s.dmaSize n)
      let j := newJob h bs s.elapsed
      let at' := 0x08000000 + s.rd (DMA_CH_W1_BASE n) * 32 + h * 32
      if descBad then (s.wordUncorrected at').dmaFinish n { j with descErr := true, poisonAt := some at', poisoned := 1 }
      else if s.descRefused d then s.dmaFinish n { j with descErr := true }
      else (s.dmaWork n j d e).freeTick

/-- The last write response of a channel's descriptor is received (R375): that of a word of PST is given once the word is in the cells (R283). In a shut-down, which waits for it, the
descriptor ends with ABORT (R379). -/
def State.dmaComplete (s : State) (n : Nat) : State :=
  match kvFind s.dma.jobs n with
  | some j => (s.pstDrain .dma).dmaFinish n { j with aborted := s.rd (DMA_CH_W0_RUNST n) == 2 }
  | none => s

/-- RTO of a channel in ns; 0 acts as 1 µs (R389). -/
def State.dmaRto (s : State) (n : Nat) : Nat := max 1 (s.rd (DMA_CH_W5_RTO n)) * 1000

/-- RTO has expired with responses missing: `got` of the destination (octets, or elements of GATHER) had all been received, none beyond the cycle of the expiry (R26, R375). -/
def State.dmaTimeout (s : State) (n got : Nat) : State :=
  match kvFind s.dma.jobs n with
  | some j => if s.elapsed ≤ j.issued + s.dmaRto n then s else (s.pstDrain .dma).dmaFinish n { j with timedOut := true, done := min got j.done }
  | none => s

/-- CQ_SIZE; values below 2 act as 2 (R389). -/
def State.cqSize (s : State) : Nat := max 2 (s.rd DMA_CQ_SIZE_VALUE)

/-- The oldest record written into the completion queue, or CQWAIT where the queue is full (R377). -/
def State.dmaRecordWrite (s : State) : State :=
  match s.dma.records with
  | [] => s
  | r :: rest =>
    let wr := s.rd DMA_CQ_WR_VALUE
    let next := (wr + 1) % s.cqSize
    if next = s.rd DMA_CQ_RD_VALUE % s.cqSize then s.raise DMA_STATUS_CQWAIT
    else
      let bs := r.octets.take 23 ++ [octet (b2n s.dma.phase)] ++ r.octets.drop 24
      let s := s.sramWrite s.busLane (s.rd DMA_CQ_BASE_BASE * 32 + wr * 32) bs
      let s := { s with dma := { s.dma with records := rest, phase := if next = 0 then !s.dma.phase else s.dma.phase } }
      let s := ((s.wr DMA_CQ_WR_VALUE next).raise DMA_STATUS_CQNEW).raiseIf r.irq DMA_STATUS_CQIRQ
      s.raiseIf (octAt r.octets 1 != 0) DMA_STATUS_ERR

/-- A channel's shut-down completed (R379): its descriptor in progress ends with ABORT and its record. -/
def State.dmaShut (s : State) (n : Nat) : State :=
  match kvFind s.dma.jobs n with
  | some j => (s.pstDrain .dma).dmaFinish n { j with aborted := true }
  | none => s

/-- A takeover seen by the DMA engine (R380). A channel with EN = 1 starts again (R28). -/
def State.dmaTakeover (s : State) : State :=
  let s := { s with dma := { s.dma with jobs := [], records := [] } }
  let s := (List.range 16).foldl (fun s n =>
    let s := (s.wr (DMA_CH_W4_HEAD n) 0).wr (DMA_CH_W3_TAIL n) 0
    if s.rd (DMA_CH_W0_RUNST n) = 0 then s else s.wr (DMA_CH_W0_RUNST n) (if s.on (DMA_CH_W0_EN n) then 3 else 0)) s
  ((s.wr DMA_CQ_WR_VALUE 0).wr DMA_CQ_RD_VALUE 0).raise DMA_STATUS_SVCRST

/-- The registers of the DMA engine that accept writes only while channels are OFF (R389): a channel's base and size, and the completion queue's. -/
def State.dmaLocked (s : State) (a : Nat) : Bool :=
  let o := a % 0x10000
  if o = 0x10 ∨ o = 0x14 then (List.range 16).any (fun n => s.rd (DMA_CH_W0_RUNST n) != 0)
  else 0x100 ≤ o && o < 0x300 && (o % 32 == 4 || o % 32 == 8) && s.rd (DMA_CH_W0_RUNST (o / 32 - 8)) != 0

/-! ### Dual-clock queues (R383 to R387, R390) -/

/-- The frames that wait in a forwarding queue, DCQ 15 towards port 1 and DCQ 16 towards port 0. -/
def State.fwdOf (s : State) (n : Nat) : List Forward := if n = 15 then s.bh.port1.fwd else s.bh.port0.fwd

/-- They replaced. -/
def State.setFwd (s : State) (n : Nat) (l : List Forward) : State :=
  if n = 15 then { s with bh := { s.bh with port1 := { s.bh.port1 with fwd := l } } } else { s with bh := { s.bh with port0 := { s.bh.port0 with fwd := l } } }

/-- The words of a frame of `k` octets and its FCS in a forwarding queue (DESIGN CHOICE, notes/assumptions/59). -/
def frameWords (k : Nat) : Nat := ceilDiv (k + 4) 8

/-- A forwarded frame that a discard command meets (R385): one of which the port has taken words ends there with an inverted FCS (R229, R236), one that it has taken whole stays, and one
that it has not begun is gone. -/
def Forward.cut (x : Forward) : List Forward :=
  let w := frameWords x.octets.length
  if x.unread = 0 then [x]
  else if x.unread = w then [] else [{ x with octets := x.octets.take (8 * (w - x.unread)), bad := true, unread := 0 }]

/-- FLUSH on a forwarding queue (R385): emptied, but for what the port has taken of the first frame. -/
def State.fwdFlush (s : State) (n : Nat) : State :=
  let k := s.dcqUsed n
  let l := s.fwdOf n
  ((s.setFwd n ((l.take 1).flatMap Forward.cut)).dcqDiscard n k).dcqCount n

/-- DROP on a forwarding queue (R385): where its writer is writing a packet, the words of the newest still queued are removed. -/
def State.fwdDrop (s : State) (n : Nat) (writing : Bool) : State :=
  match (s.fwdOf n).getLast? with
  | some x =>
    if !writing || x.unread = 0 then s else ((s.setFwd n ((s.fwdOf n).dropLast ++ x.cut)).dcqDiscard n x.unread).dcqCount n
  | none => s

/-- One word of the first frame of a forwarding queue read, `bad` with a parity error: that frame is to end with an inverted FCS (R383, R384). -/
def State.fwdRead (s : State) (n : Nat) (bad : Bool) : State :=
  match s.fwdOf n with
  | [] => s
  | x :: t =>
    if x.unread = 0 then s
    else
      let s := s.setFwd n ({ x with unread := x.unread - 1, bad := x.bad || bad } :: t)
      (if bad then s.dcqPoison n else s).dcqCount n

/-- FLUSH on a queue (R385, R386): it is emptied. A packet of which the reader has taken words is cut: the reader gets an ABORT word. -/
def State.dcqFlush (s : State) (n : Nat) : State :=
  let cut := s.waiting.any (fun w => w.dcq == some n && w.unread != 0 && w.unread != w.ev.words)
  let s := if 15 ≤ n then s.fwdFlush n else s.dcqEmpty n
  let s := if cut then { s with dcq := { s.dcq with abortDue := s.dcq.abortDue ++ [n] } } else s
  if s.rd (DCQ_Q_W0_RUNST n) = 2 then s.wr (DCQ_Q_W0_RUNST n) (if s.on (DCQ_Q_W0_EN n) then 3 else 0) else s

/-- The place of the newest packet of a queue. -/
def State.newestPacket (s : State) (n : Nat) : Option Nat :=
  ((List.range s.waiting.length).filter (fun i => match s.waiting[i]? with
    | some w => w.dcq == some n && w.unread != 0
    | none => false)).getLast?

/-- DROP on a queue (R385): where its writer is writing a packet (`writing`: the newest in the queue), the words of it still queued are removed, and a
reader that has taken words of it gets an ABORT word. Complete packets are kept. -/
def State.dcqDrop (s : State) (n : Nat) (writing : Bool) : State :=
  match s.newestPacket n with
  | some i =>
    if !writing then s
    else
      match s.waiting[i]? with
      | some w =>
        let s := { s with waiting := s.waiting.eraseIdx i }
        let s := if w.unread = w.ev.words then s else { s with dcq := { s.dcq with abortDue := s.dcq.abortDue ++ [n] } }
        (s.dcqDiscard n w.unread).dcqCount n
      | none => s
  | none => s

/-- A lane's write of a discard command (R385): the one the queue does not accept is ignored with CMDREJ. -/
def State.dcqCommand (s : State) (n : Nat) (flush drop writing : Bool) : State :=
  let sel := s.rd (DCQ_Q_W0_CMDSEL n)
  let s := s.raiseIf ((flush && sel == 1) || (drop && sel == 0)) DCQ_STATUS_CMDREJ
  if flush && sel == 0 then s.dcqFlush n
  else if drop && sel == 1 then (if 15 ≤ n then s.fwdDrop n writing else s.dcqDrop n writing) else s

/-- A word of a packet read with an error: the slot it belongs to is marked (R384). -/
def Waiting.poisoned (w : Waiting) : Waiting :=
  let slot := (w.ev.words - w.unread) / 4
  { w with ev := { w.ev with bad := if w.ev.bad.contains slot then w.ev.bad else w.ev.bad ++ [slot] } }

/-- One word of the first packet of a queue read, `bad` with a parity error (R382 to R384); an ABORT word that is due is read first (R385). -/
def State.dcqRead (s : State) (n : Nat) (bad : Bool) : State :=
  if s.dcq.abortDue.contains n then { s with dcq := { s.dcq with abortDue := s.dcq.abortDue.filter (· != n) } }
  else if 15 ≤ n then s.fwdRead n bad
  else
    match s.waiting.findIdx? (fun w => w.dcq == some n && w.unread != 0) with
    | none => s
    | some i =>
      let s := { s with waiting := updNth (fun w =>
          let w := if bad then w.poisoned else w
          { w with unread := w.unread - 1 }) s.waiting i }
      (if bad then s.dcqPoison n else s).dcqCount n

end Sys2Proof.Machine
end

