-- ==== Sys2Proof/Machine/Loader.lean ====
section
/-!
DEFINITION. The resident loader: its events, the update record, containers, staging, and the changes of the update state that need no lane (R345 to R353, R358 to R361, R367,
R368).
-/
namespace Sys2Proof.Machine

/-- A loader before the boot ROM has run. -/
def LoaderState.init : LoaderState := ⟨none, false, none, 0, 0, 0, 0, .none⟩

/-- The loader's step replaced. -/
def State.setStep (s : State) (x : UpdateStep) : State := { s with rld := { s.rld with step := x } }

/-! ### Events that wait for the Sequencer (R367, R404) -/

/-- An event of RLD or SAF (R367, R404): posted, or held until the Sequencer starts. -/
def State.postOrHold (s : State) (e : Event) : State := if s.crzOn then s.post e else { s with held := s.held ++ [e] }

/-- The held events registered in the cycle in which the Sequencer starts, stamped k0·P, with the module's own segment (R66, R78, R367, R404). -/
def State.releaseHeld (s : State) : State :=
  let t := timeOfNs (s.crz.oldest * s.P)
  let seg := s.seg
  s.held.foldl (fun (s : State) e => s.register { e with stamp := t, src := srcId seg (srcNode e.src) (srcChan e.src) }) { s with held := [] }

/-- An event on channel 67 (R367). -/
def State.rldEvent (s : State) (kind : Nat) (p : Octets) : State := s.postOrHold (s.event 67 0 kind p s.tb.now)

/-! ### The update record (R360) -/

/-! STATE: 0 IDLE, 1 SAVING, 2 ARMED, 3 WRITING, 4 TRIAL, 5 COMMITTING, 6 ROLLBACK, 7 CFGBOOT (R360). -/

abbrev upIdle : Nat := 0
abbrev upSaving : Nat := 1
abbrev upArmed : Nat := 2
abbrev upWriting : Nat := 3
abbrev upTrial : Nat := 4
abbrev upCommitting : Nat := 5
abbrev upRollback : Nat := 6
abbrev upCfgBoot : Nat := 7

/-- STATE of the update. -/
def State.upState (s : State) : Nat := s.rd RLD_STATE_STATE

/-- A slot field of two bits as the record holds it: 0xFF for none. -/
def slotOctet (v : Nat) : Byte := if v = 3 then octet 0xFF else octet v

/-- The octets of the update record with a sequence value (R360). -/
def State.updateRecord (s : State) (seq : Nat) : Octets :=
  le 4 seq ++ [octet 1, octet 0x30, octet s.upState, octet (s.rd RLD_STATE_KIND)] ++ le 8 s.rld.tact ++
    [octet (s.rd RLD_STATE_NEWSLOT), slotOctet (s.rd RLD_STATE_FBSLOT), octet (s.rd RLD_STATE_CFGCUR), slotOctet (s.rd RLD_STATE_CFGFB)] ++
    le 2 s.rld.deadline ++ [octet (s.rd RLD_STATE_CAUSE), octet 0] ++ le 4 (s.rd RLD_VCUR_VERSION) ++ le 4 (s.rd RLD_VFB_VERSION) ++
    le 4 (s.rd RLD_MINVER_VERSION) ++ zeros 4 ++ le 8 (s.rd RLD_KSTART_IDX) ++ le 4 seq ++ zeros 12

/-- The offset of a copy of the record in PST (R352). -/
def recordAt (c : Nat) : Nat := 0x100 * (c % 2)

/-- The record written with the next sequence value, into copy SEQ mod 2 (R287, R360). -/
def State.writeRecord (s : State) : State :=
  let q := (s.rld.seq + 1) % 4294967296
  ({ s with rld := { s.rld with seq := q } }).pstWords .rld (frameWrites (recordAt q) true (s.updateRecord q))

/-- The copy of the record in use at start: the valid one with the higher SEQ (R360). -/
def State.recordCopy (s : State) : Option Octets :=
  let a := s.recordValid (recordAt 0) 64
  let b := s.recordValid (recordAt 1) 64
  let x := s.pstOctets (recordAt 0) 64
  let y := s.pstOctets (recordAt 1) 64
  if a && b then some (if leAt x 0 4 < leAt y 0 4 then y else x) else if a then some x else if b then some y else none

/-- The registers and the loader after the record is read (R354 step 3, R360): with no valid copy STATE is IDLE, CFGCUR 0 and no fallback. -/
def State.readRecord (s : State) : State :=
  match s.recordCopy with
  | none => s
  | some r =>
    let s := ((s.wr RLD_STATE_STATE (octAt r 6)).wr RLD_STATE_KIND (octAt r 7)).wr RLD_STATE_NEWSLOT (octAt r 16)
    let s := ((s.wr RLD_STATE_FBSLOT (octAt r 17)).wr RLD_STATE_CFGCUR (octAt r 18)).wr RLD_STATE_CFGFB (octAt r 19)
    let s := ((s.wr RLD_STATE_CAUSE (octAt r 22)).wr RLD_VCUR_VERSION (leAt r 24 4)).wr RLD_VFB_VERSION (leAt r 28 4)
    let s := (s.wr RLD_MINVER_VERSION (leAt r 32 4)).wr RLD_KSTART_IDX (leAt r 40 8)
    { s with rld := { s.rld with seq := leAt r 0 4, tact := leAt r 8 8, deadline := leAt r 20 2 } }

/-- STATE changed (R361): the record is written, STCHG is set and a KIND 0x02 event registered. -/
def State.upTo (s : State) (new : Nat) : State :=
  let old := s.upState
  let s := (s.wr RLD_STATE_STATE new).writeRecord.raise RLD_STATUS_STCHG
  s.rldEvent 0x02 ([octet new, octet old, octet (s.rd RLD_STATE_KIND), octet (s.rd RLD_STATE_CAUSE)] ++ zeros 4 ++ le 8 s.rld.tact)

/-- The cause of a verdict recorded (R364). -/
def State.upCause (s : State) (c : Nat) : State := s.wr RLD_STATE_CAUSE c

/-- BUSY: a command or a copy is in progress (R368). -/
def State.rldBusy (s : State) : Bool :=
  s.rld.op.isSome || s.upState == upSaving || s.upState == upWriting || (s.upState == upRollback && s.rld.step == .restoring) ||
  (s.upState == upCommitting && s.rld.step == .none)

/-- TACT in ns. -/
def State.tactNs (s : State) : Nat := s.rld.tact / 2 ^ 30 * 1000000000 + s.rld.tact % 2 ^ 30

/-! ### Containers (R348, R349) -/

/-- Where the ACM holds a slot (0, 1 staging; 2, 3 CFG) and its size (R345). -/
def slotBase (n : Nat) : Nat := if n = 0 then 0x100000 else if n = 1 then 0x400000 else if n = 2 then 0x10000 else 0x50000
def slotSize (n : Nat) : Nat := if n < 2 then 0x300000 else 0x40000

/-- The slot that holds an ACM offset (R345). -/
def slotOf (a : Nat) : Option Nat := (List.range 4).find? (fun n => slotBase n ≤ a && decide (a < slotBase n + slotSize n))

/-- The octets of a container's signature (R348). -/
def sigOctets (h : Octets) : Nat := if octAt h 6 = 2 then 96 else 64

/-- The octets of a whole container, from its first 128 octets. -/
def containerLength (h : Octets) : Nat := 128 + leAt h 20 4 + sigOctets h

/-- VERSION, KIND and FLOOR of a container. -/
def containerVersion (c : Octets) : Nat := leAt c 8 4
def containerKind (c : Octets) : Nat := octAt c 5
def containerFloor (c : Octets) : Bool := bit (octAt c 7) 0

/-- The reserved octets, MAGIC, VER, PART and the other fields of a container as R348 states them. -/
def State.shapeGood (s : State) (c : Octets) : Bool :=
  let k := containerKind c
  let n := leAt c 20 4
  let load := leAt c 24 4
  let uid := slice c 32 8
  slice c 0 4 == [octet 0x46, octet 0x56, octet 0x49, octet 0x4D] && octAt c 4 == 1 && (octAt c 6 == 1 || octAt c 6 == 2) && octAt c 7 < 2 &&
  leAt c 14 2 == 0 && leAt c 16 2 == 0x2048 && octAt c 18 < 4 && bit (octAt c 18) (s.rd SYS_ID_VARIANT - 1) && octAt c 19 == 0 &&
  allZero (slice c 52 12) && allZero (slice c 80 48) &&
  (if k = 1 then containerLength c ≤ 3008 * 1024 && load + n ≤ 0x400000 && load ≤ leAt c 28 4 && leAt c 28 4 < load + n && (uid == padTo 8 s.otp.uid || allZero uid)
   else k == 2 && containerLength c ≤ 0x40000 && leAt c 12 2 == 0 && load == 0 && leAt c 28 4 == 0 && uid == padTo 8 s.otp.uid)

/-- The signature of a container checked under the VSLOT key by a requester (R333, R349). -/
def State.signatureGood (s : State) (c : Octets) (ctx : Nat) : State × Bool :=
  match s.rld.header with
  | none => (s, false)
  | some h =>
    match s.keyFor h.vSlot opImgVer ctx with
    | (s, none) => (s, false)
    | (s, some k) =>
      let n := 128 + leAt c 20 4
      let curve := if octAt c 6 = 1 then 256 else 384
      (s, (octAt c 6 == 1 && k.typ == 5 || octAt c 6 == 2 && k.typ == 6) && ecdsaVerify curve k.key (c.take n) (slice c n (sigOctets c)))

/-- Whether a container is acceptable (R349). -/
def State.acceptable (s : State) (c : Octets) (ctx : Nat) : State × Bool :=
  if !s.shapeGood c || containerVersion c < s.rd RLD_MINVER_VERSION then (s, false) else s.signatureGood c ctx

/-- The body of a container decrypted under the DSLOT key, if its tag verifies (R348, R349). -/
def State.bodyOf (s : State) (c : Octets) (ctx : Nat) : State × Option Octets :=
  match s.rld.header with
  | none => (s, none)
  | some h =>
    match s.keyFor h.dSlot opImgDec ctx with
    | (s, none) => (s, none)
    | (s, some k) =>
      let ct := slice c 128 (leAt c 20 4)
      let iv := slice c 40 12
      if k.typ == 2 && padTo 16 (gcmTag k.key iv (c.take 64) ct) == slice c 64 16 then (s, some (padTo ct.length (gcmText k.key iv ct))) else (s, none)

/-- The container that a slot of the ACM holds, no longer than the slot. -/
def State.slotContainer (s : State) (n : Nat) : Octets :=
  s.acmRead (slotBase n) (min (slotSize n) (containerLength (s.acmRead (slotBase n) 128)))

/-- The container in the code store (R352). -/
def State.codeStore (s : State) : Octets := s.pstOctets 0x10000 (min (3008 * 1024) (containerLength (s.pstOctets 0x10000 128)))

/-- A container written into the code store, word by word. -/
def State.writeCodeStore (s : State) (c : Octets) : State :=
  let n := ceilDiv c.length 4
  s.pstWords .rld (recordWords n 0x10000 (padTo (4 * n) c))

/-- Octets copied within PST, word by word. -/
def State.copyPst (s : State) (src dst n : Nat) : State := s.pstWords .rld (recordWords (n / 4) dst (s.pstOctets src n))

/-! ### Staging (R358, R359) -/

/-- Whether the loader refuses to program or erase at an offset (R358). -/
def State.acmRefused (s : State) (a : Nat) : Bool :=
  let busyUpdate := s.upState != upIdle
  s.rldBusy || slotOf a == some (2 + s.rd RLD_STATE_CFGCUR) ||
  (busyUpdate && s.rd RLD_STATE_FBSLOT != 3 && slotOf a == some (s.rd RLD_STATE_FBSLOT)) ||
  (busyUpdate && s.rd RLD_STATE_CFGFB != 3 && slotOf a == some (2 + s.rd RLD_STATE_CFGFB)) ||
  (a < 0x2000 && s.lcState == lcDeployed) || (match s.rld.header with
    | some h => decide (h.acmSize ≤ a)
    | none => decide (s.acmSize ≤ a))

/-- OP = PROGRAM or ERASE (R358): started, or refused with CMDREJ. -/
def State.rldStore (s : State) (erase : Bool) : State :=
  let a := s.rd RLD_ADDR_ADDR
  let a := if erase then a / 4096 * 4096 else a / 256 * 256
  if s.acmRefused a then s.raise RLD_STATUS_CMDREJ
  else { s with rld := { s.rld with op := some ⟨erase, a, le 256 (s.rd RLD_PAGE_DATA)⟩ } }

/-- The slot of an offset loses VERIFIED (R358). -/
def State.unverify (s : State) (a : Nat) : State :=
  match slotOf a with
  | some n => s.wr (RLD_SLOT_VERIFIED n) 0
  | none => s

/-- An ACM program or erase finishes (R358): CMDDONE, or PGMERR where the memory reports a failure, which leaves free octets. -/
def State.acmDone (s : State) (fail : Bool) : State :=
  match s.rld.op with
  | none => s
  | some o =>
    let s := ({ s with rld := { s.rld with op := none } }).unverify o.addr
    let n := if o.erase then 4096 else 256
    if fail then ((s.acmWrite o.addr (s.freeOctets n)).freeTick).raise RLD_STATUS_PGMERR
    else (if o.erase then s.acmErase o.addr n else s.acmWrite o.addr o.page).raise RLD_STATUS_CMDDONE

/-- An ACM operation cut off by a reset leaves its page or sector undefined (R30, R421). -/
def State.acmAbort (s : State) : State :=
  match s.rld.op with
  | none => s
  | some o => (s.acmWrite o.addr (s.freeOctets (if o.erase then 4096 else 256))).freeTick

/-- OP = VERIFY (R359). SLOTVER changes only where it passes (DEDUCED, notes/assumptions/65). -/
def State.rldVerify (s : State) (n : Nat) : State :=
  if s.rldBusy then s.raise RLD_STATUS_CMDREJ
  else
    let c := s.slotContainer n
    let r := s.acceptable c ctxRld
    let s := if r.2 then ((r.1.wr (RLD_SLOT_VERIFIED n) 1).wr (RLD_SLOTVER_VERSION n) (containerVersion c)).raise RLD_STATUS_VERIFIED
      else r.1.raise RLD_STATUS_VERIFYFAIL
    (s.raise RLD_STATUS_CMDDONE).rldEvent 0x01 ([octet n, octet (b2n (!r.2)), octet 0, octet 0] ++ le 4 (containerVersion c))

/-! ### Scheduling (R361) -/

/-- A named slot is VERIFIED and holds the KIND it is named for (R361). -/
def State.slotReady (s : State) (n kind : Nat) : Bool := s.on (RLD_SLOT_VERIFIED n) && containerKind (s.acmRead (slotBase n) 128) == kind

/-- OP = SCHEDULE (R361). KIND 3 names the fallback CFG slot as KIND 2 does (DEDUCED, notes/assumptions/65). -/
def State.rldSchedule (s : State) (kind cSlot fSlot : Nat) : State :=
  let t := s.rd RLD_TACT_TACT
  let tNs := t / 2 ^ 30 * 1000000000 + t % 2 ^ 30
  let fw := kind == 1 || kind == 3
  let cfg := kind == 2 || kind == 3
  if kind = 0 ∨ s.rldBusy ∨ s.upState ≠ upIdle ∨ (fw ∧ !s.slotReady fSlot 1) ∨ (cfg ∧ !s.slotReady (2 + cSlot) 2) ∨ tNs < s.now + 60000000000 then
    s.raise RLD_STATUS_CMDREJ
  else
    let s := { s with rld := { s.rld with tact := t, deadline := s.rd RLD_CFG_DEADLINE, newCfg := cSlot, step := .none } }
    let s := (s.wr RLD_STATE_KIND kind).raise RLD_STATUS_CMDDONE
    let s := if cfg then s.wr RLD_STATE_CFGFB (s.rd RLD_STATE_CFGCUR) else s
    if fw then ((s.wr RLD_STATE_NEWSLOT fSlot).wr RLD_STATE_FBSLOT (1 - fSlot)).upTo upSaving else s.upTo upArmed

/-- OP = CANCEL (R361). -/
def State.rldCancel (s : State) : State :=
  if s.upState ≠ upArmed ∨ s.rldBusy then s.raise RLD_STATUS_CMDREJ
  else (s.raise RLD_STATUS_CMDDONE).setStep .none |>.upTo upIdle

/-- A write of RLD_CMD (R358, R368): refused as a commit record or with a wrong KEY; other OP values are ignored. -/
def State.rldCommand (s : State) (key : Nat) (commit : Bool) (run : State → State) : State :=
  if commit || key != 0x7D1E then s.raise RLD_STATUS_CMDREJ else run s

/-- The fallback copy is made (R361): the code store's container in FBSLOT, verified, or SAVEFAIL. What the memory holds of a copy whose writing failed is not stated: free octets. -/
def State.saveDone (s : State) (fail : Bool) : State :=
  if s.upState ≠ upSaving then s
  else
    let n := s.rd RLD_STATE_FBSLOT
    let data := if fail then s.freeOctets s.codeStore.length else s.codeStore
    let s := if fail then s.freeTick else s
    let s := ((s.acmErase (slotBase n) (slotSize n)).acmWrite (slotBase n) data).wr (RLD_SLOT_VERIFIED n) 0
    let c := s.slotContainer n
    let r := s.acceptable c ctxRld
    if fail || !r.2 then (r.1.upCause 9).upTo upIdle
    else ((r.1.wr (RLD_SLOT_VERIFIED n) 1).wr (RLD_SLOTVER_VERSION n) (containerVersion c)).upTo upArmed

/-- No moment has met R362 within DEFER of TACT (R361): SKIPPED; DEFER 0 acts as 1. -/
def State.deferExpiry (s : State) : State :=
  if s.upState ≠ upArmed ∨ s.rld.step ≠ .none ∨ s.now < s.tactNs + max 1 (s.rd RLD_CFG_DEFER) * 1000000000 then s else (s.upCause 10).upTo upIdle

end Sys2Proof.Machine
end

