-- ==== Sys2Proof/Machine/Frames.lean ====
section
/-!
DEFINITION. Ethernet frames as the ring ports and the Time Base read them: tags, transport, PTP messages (R46), the stamps (R40), one-step insertion
(R42 to R44), the extractor's frames (R47 to R49) and the headers that segmentation writes (R239). A frame runs from its destination address to its last
data octet, tags and trailer included and without FCS.
-/
namespace Sys2Proof.Machine

/-- Octets written over a frame from a position. -/
def putAt (bs : Octets) (i : Nat) (v : Octets) : Octets := bs.take i ++ v ++ bs.drop (i + v.length)

/-- Where the HSR tag or the EtherType stands: after the addresses and a single 802.1Q tag (R46, R232). -/
def afterVlan (f : Octets) : Nat := if beAt f 12 2 = 0x8100 then 16 else 12

/-- Whether a frame carries an HSR tag (R232). -/
def hasHsr (f : Octets) : Bool := beAt f (afterVlan f) 2 == 0x892F

/-- Where the EtherType stands after any 802.1Q and HSR tags (R226). -/
def typeAt (f : Octets) : Nat := if hasHsr f then afterVlan f + 6 else afterVlan f

/-- The EtherType after any 802.1Q and HSR tags. -/
def etherType (f : Octets) : Nat := beAt f (typeAt f) 2

/-- The sequence number of an HSR tag. -/
def hsrSeq (f : Octets) : Nat := beAt f (afterVlan f + 4) 2

/-- A frame without its HSR tag (R227). -/
def stripHsr (f : Octets) : Octets := if hasHsr f then f.take (afterVlan f) ++ f.drop (afterVlan f + 6) else f

/-- Whether a frame ends in a redundancy control trailer: suffix 0x88FB and an LSDU size that fits the frame (R232, notes/assumptions/7). -/
def hasPrp (f : Octets) : Bool :=
  20 ≤ f.length && beAt f (f.length - 2) 2 == 0x88FB &&
  beAt f (f.length - 4) 2 % 4096 == f.length - 14 - (if beAt f 12 2 = 0x8100 then 4 else 0)

/-- The sequence number of a trailer. -/
def prpSeq (f : Octets) : Nat := beAt f (f.length - 6) 2

/-- LanId of a trailer. -/
def prpLan (f : Octets) : Nat := beAt f (f.length - 4) 2 / 4096

/-- A frame without its trailer (R227). -/
def stripPrp (f : Octets) : Octets := f.take (f.length - 6)

/-- The IP version of a frame's payload: 4, 6, or 0 for none. -/
def ipVersion (f : Octets) : Nat := if etherType f = 0x0800 then 4 else if etherType f = 0x86DD then 6 else 0

/-- The IP protocol of a frame (R226). -/
def ipProto (f : Octets) : Option Nat :=
  if ipVersion f = 4 then some (octAt f (typeAt f + 11)) else if ipVersion f = 6 then some (octAt f (typeAt f + 8)) else none

/-- Where the UDP header of a frame stands, if it carries UDP over IPv4 or IPv6 (R226). -/
def udpAt (f : Octets) : Option Nat :=
  if ipProto f = some 17 then
    some (if ipVersion f = 4 then typeAt f + 2 + octAt f (typeAt f + 2) % 16 * 4 else typeAt f + 42)
  else none

/-- The UDP destination port. -/
def udpPort (f : Octets) : Option Nat := (udpAt f).map (fun u => beAt f (u + 2) 2)

/-- Where a PTP message stands in a frame (R46): EtherType 0x88F7, or UDP port 319 or 320. -/
def ptpAt (f : Octets) : Option Nat :=
  if etherType f = 0x88F7 then some (typeAt f + 2)
  else match udpAt f with
    | some u => if beAt f (u + 2) 2 = 319 ∨ beAt f (u + 2) 2 = 320 then some (u + 8) else none
    | none => none

/-- messageType: 0 Sync, 2 Pdelay_Req, 3 Pdelay_Resp, 8 Follow_Up, 10 Pdelay_Resp_Follow_Up (IEEE 1588). -/
def ptpType (f : Octets) : Option Nat := (ptpAt f).map (fun p => octAt f p % 16)

/-- Pdelay_Req, Pdelay_Resp and Pdelay_Resp_Follow_Up, which are never forwarded (R46). -/
def isPdelay (f : Octets) : Bool := ptpType f == some 2 || ptpType f == some 3 || ptpType f == some 10

/-! ### Stamps (R38 to R40) -/

/-- A time moved by a number of ps (R40 parts 2 and 3): a number that is no whole count of 2^-32 ns is rounded by the free rule, and a time below zero is held at
zero (DESIGN CHOICE, notes/assumptions/16: the spec states neither). -/
def shiftPs (t : Time) (ps : Int) : Time :=
  timeOfUnits ((unitsOf t : Int) + (if ps < 0 then -(rnd (ps.natAbs * 4294967296) 1000 : Int) else (rnd (ps.natAbs * 4294967296) 1000 : Int))).toNat

/-- RXLAT and TXLAT of a port. -/
def State.rxLat (s : State) (p : Nat) : Nat := s.rd (if p = 0 then TB_P0_LAT_RXLAT else TB_P1_LAT_RXLAT)
def State.txLat (s : State) (p : Nat) : Nat := s.rd (if p = 0 then TB_P0_LAT_TXLAT else TB_P1_LAT_TXLAT)

/-- One UI of a port in ps (R39): 320 at 2500BASE-X, 800 at 1000BASE-X and SGMII, where at 10 and 100 Mbit/s the symbol is that of the first replica. -/
def State.uiPs (s : State) (p : Nat) : Nat := if s.rd (BHM_CTRL_MODE p) = 1 then 320 else 800

/-- The ingress stamp of an octet `symbol` UI behind the PCS word edge (R40): the receive replica, the symbol's place, less RXLAT. -/
def State.ingress (s : State) (p symbol : Nat) : Time :=
  shiftPs (shiftPs (s.replica (repRx p)) ((symbol * s.uiPs p : Nat) : Int)) (-(s.rxLat p : Int))

/-- The egress stamp of an octet `symbol` UI behind the PCS word edge (R40): the transmit replica, the symbol's place, and TXLAT. -/
def State.egress (s : State) (p symbol : Nat) : Time :=
  shiftPs (shiftPs (s.replica (repTx p)) ((symbol * s.uiPs p : Nat) : Int)) (s.txLat p : Int)

/-- LINKDLY of a port in 2^-16 ns. -/
def State.linkDelay (s : State) (p : Nat) : Int :=
  ((if p = 0 then s.rd TB_P0_LINKDLY_NS * 65536 + s.rd TB_P0_LINKDLY_FRAC else s.rd TB_P1_LINKDLY_NS * 65536 + s.rd TB_P1_LINKDLY_FRAC : Nat) : Int)

/-- ASYM of a port in 2^-16 ns. -/
def State.asym (s : State) (p : Nat) : Int := s.rdI (if p = 0 then TB_P0_ASYM_ASYM else TB_P1_ASYM_ASYM)

/-- The difference of two stamps, in 2^-32 ns and truncated toward zero to 2^-16 ns (R43). -/
def stampDiff (a b : Time) : Int := truncDiv ((unitsOf a : Int) - unitsOf b) 65536

/-! ### Insertion (R42 to R44) -/

/-- The ones' complement sum of an octet string taken as big-endian words. -/
def sum16 : Octets → Nat
  | a :: b :: t => a.toNat * 256 + b.toNat + sum16 t
  | [a] => a.toNat * 256
  | [] => 0

/-- A sum folded to 16 bits. -/
def fold16 (n : Nat) : Nat := if n = 0 then 0 else if n % 65535 = 0 then 65535 else n % 65535

/-- The last two octets of the UDP payload of an IPv6 frame adjusted so that the checksum stays valid after a change (R44). -/
def repairV6 (old new : Octets) (u : Nat) : Octets :=
  let e := u + beAt new (u + 4) 2
  let cut := putAt new (e - 2) (zeros 2)
  let want := sum16 (slice old u (e - u)) % 65535
  let have' := sum16 (slice cut u (e - u)) % 65535
  let d := (want + 65535 - have') % 65535
  putAt new (e - 2) (if (e - u) % 2 = 0 then be 2 d else (be 2 d).reverse)

/-- Whether an IPv6 frame lacks the two octets after the PTP message that a repair needs (R44). -/
def noFixRoom (f : Octets) (p u : Nat) : Bool := ipVersion f == 6 && beAt f (u + 4) 2 < 8 + beAt f (p + 2) 2 + 2

/-- A changed PTP frame repaired (R44): the UDP checksum zero over IPv4, the last two octets adjusted over IPv6. -/
def repairUdp (old new : Octets) : Octets :=
  match udpAt new with
  | some u => if ipVersion new = 4 then putAt new (u + 6) (zeros 2) else repairV6 old new u
  | none => new

/-- A signed addition into correctionField; one that leaves the signed 64 bits is free. -/
def State.addCorrection (s : State) (f : Octets) (p : Nat) (d : Int) : State × Octets :=
  let (s, c) := s.fit 64 (signed 64 (beAt f (p + 8) 8) + d)
  (s, putAt f (p + 8) (be 8 (unsigned 64 c)))

/-- The insertion operations of R42 in a descriptor: 0 NONE, 1 CAPTURE, 2 ORIGIN, 3 RESID; 4 is TC, which the transparent clock selects. -/
abbrev opCapture : Nat := 1
abbrev opOrigin : Nat := 2
abbrev opResid : Nat := 3
abbrev opTc : Nat := 4

/-- NOFIX: a frame sent unmodified (R44). -/
def State.noFix (s : State) : State := (s.raise TB_STATUS_NOFIX).countSat TB_ERR_CNT_NOFIX_CNT TB_STATUS_ERRSAT

/-- CAPTURE: the egress stamp and the sequenceId to TB_Pn_TXTS (R42). -/
def State.capture (s : State) (port : Nat) (seq : Nat) (t : Time) : State :=
  if port = 0 then
    ((((s.wr TB_P0_TXTS_SEQ seq).wr TB_P0_TXTS_SEC t.sec).wr TB_P0_TXTS_NS t.ns).wr TB_P0_TXTS_FRAC t.frac).raise TB_STATUS_TXTS0
  else ((((s.wr TB_P1_TXTS_SEQ seq).wr TB_P1_TXTS_SEC t.sec).wr TB_P1_TXTS_NS t.ns).wr TB_P1_TXTS_FRAC t.frac).raise TB_STATUS_TXTS1

/-- One insertion on a frame that leaves port `port` with egress stamp `t` (R42): `from'` is the ingress stamp of RESID and TC, `inPort` the ingress port of TC.
The Bool says that the frame was sent unmodified for want of room (R44). -/
def State.insert (s : State) (op port : Nat) (f : Octets) (t from' : Time) (inPort : Nat) : State × Octets × Bool :=
  match ptpAt f with
  | none => (s, f, false)
  | some p =>
    if op = opCapture then (s.capture port (beAt f (p + 30) 2) t, f, false)
    else if op = 0 then (s, f, false)
    else if (match udpAt f with | some u => noFixRoom f p u | none => false) then (s.noFix, f, true)
    else if op = opOrigin then
      let g := putAt (putAt f (p + 34) (be 6 (t.sec % 2 ^ 48))) (p + 40) (be 4 t.ns)
      let (s, g) := s.addCorrection g p ((t.frac / 65536 : Nat) : Int)
      (s, repairUdp f g, false)
    else
      let d := stampDiff t from' + (if op = opTc then s.linkDelay inPort + s.asym inPort else 0)
      let (s, g) := s.addCorrection f p d
      (s, repairUdp f g, false)

/-! ### The extractor (R47 to R49) -/

/-- A received secondsField in 64 bits (R47). -/
def State.seconds64 (s : State) (v : Nat) : Nat :=
  let c : Int := ((s.tb.now.sec / 2 ^ 48 * 2 ^ 48 + v : Nat) : Int)
  let d := c - s.tb.now.sec
  unsigned 64 (if (2 ^ 47 : Int) < d then c - 2 ^ 48 else if d < -(2 ^ 47 : Int) then c + 2 ^ 48 else c)

/-- TB_MASTER as the ten octets of a sourcePortIdentity. -/
def State.masterId (s : State) : Octets := be 8 (s.rd TB_MASTER_CLOCKID) ++ be 2 (s.rd TB_MASTER_PORTNUM)

/-- t1 of a message: its origin or preciseOrigin timestamp in 2^-16 ns (R47, R49). -/
def State.originOf (s : State) (f : Octets) (p : Nat) : Int :=
  (((s.seconds64 (beAt f (p + 34) 6) * 1000000000 + beAt f (p + 40) 4) * 65536 : Nat) : Int)

/-- A sample from t2, t1 and C (R49): o = t2 − t1 − C − D − A. Of t2 the low 16 bits of FRAC are dropped, so that o is rounded down to 2^-16 ns
(DESIGN CHOICE, notes/assumptions/15: R49 gives the unit of o and no rounding). -/
def State.offset (s : State) (port : Nat) (t2 : Time) (t1 c : Int) : State :=
  s.sample (((unitsOf t2 / 65536 : Nat) : Int) - t1 - c - s.linkDelay port - s.asym port)

/-- Whether a PTP message at `p` of a frame on a port carries a domainNumber and a sourcePortIdentity. -/
def ptpFrom (f : Octets) (p domain : Nat) (source : Octets) : Bool := octAt f (p + 4) == domain && slice f (p + 20) 10 == source

/-- A Follow_Up on a port (R48): it completes the Sync that waits where it carries that Sync's port, domainNumber, sourcePortIdentity and sequenceId; more
than 2^LOG s after it, the sample is discarded. -/
def State.followUp (s : State) (port : Nat) (f : Octets) (p : Nat) : State :=
  match s.tb.follow with
  | none => s
  | some w =>
    if w.port != port || !ptpFrom f p w.domain w.source || w.seq != beAt f (p + 30) 2 then s
    else if s.syncCycles < w.waited then s.followMiss
    else ({ s with tb := { s.tb with follow := none } }).offset port w.t2 (s.originOf f p) (w.corr + signed 64 (beAt f (p + 8) 8))

/-- A PTP frame as the extractor takes it (R48): a valid Sync gives a sample or waits for its Follow_Up. -/
def State.extract (s : State) (port : Nat) (f : Octets) (t2 : Time) : State :=
  match ptpAt f with
  | none => s
  | some p =>
    if octAt f p % 16 = 8 then s.followUp port f p
    else if octAt f p % 16 = 0 ∧ s.rd TB_CTRL_PORTSEL = port ∧ ptpFrom f p (s.rd TB_SYNC_CFG_DOMAIN) s.masterId = true then
      let s := s.followMiss
      let corr := signed 64 (beAt f (p + 8) 8)
      if octAt f (p + 6) / 2 % 2 = 1 then
        (if s.on TB_CTRL_TWOSTEP_OK then
          { s with tb := { s.tb with follow := some ⟨t2, corr, beAt f (p + 30) 2, 0, port, octAt f (p + 4), s.masterId⟩ } } else s)
      else s.offset port t2 (s.originOf f p) corr
    else s

/-! ### Headers of segments (R239) -/

/-- The Internet checksum of an octet string. -/
def inetChecksum (bs : Octets) : Nat := 65535 - fold16 (sum16 bs)

/-- The UDP checksum over the pseudo-header, the UDP header and the payload; 0 is sent as 0xFFFF (R239). -/
def udpChecksum (v6 : Bool) (h : Octets) (l3 hlen : Nat) (payload : Octets) : Nat :=
  let n := 8 + payload.length
  let pseudo := if v6 then slice h (l3 + 8) 32 ++ be 4 n ++ zeros 3 ++ [octet 17] else slice h (l3 + 12) 8 ++ [octet 0, octet 17] ++ be 2 n
  let c := inetChecksum (pseudo ++ slice h (hlen - 8) 4 ++ be 2 n ++ zeros 2 ++ payload)
  if c = 0 then 65535 else c

/-- The header of frame `i` over its payload (R239). -/
def segmentHeader (v6 : Bool) (h : Octets) (l3 i : Nat) (payload : Octets) : Octets :=
  let n := payload.length
  let h1 := if v6 then putAt h (l3 + 4) (be 2 (8 + n))
    else
      let a := putAt (putAt (putAt h (l3 + 2) (be 2 (28 + n))) (l3 + 4) (be 2 ((beAt h (l3 + 4) 2 + i) % 65536))) (l3 + 10) (zeros 2)
      putAt a (l3 + 10) (be 2 (inetChecksum (slice a l3 20)))
  let h2 := putAt h1 (h.length - 4) (be 2 (8 + n))
  putAt h2 (h.length - 2) (be 2 (udpChecksum v6 h l3 h.length payload))

end Sys2Proof.Machine
end

