-- ==== Sys2Proof/Machine/Backhaul.lean ====
section
/-!
DEFINITION. The backhaul ring ports (R222 to R249): links, receiving and steering, duplicate discard, forwarding, the transmit rings and segmentation,
pause, takeover, shut-down, and Day Rest.
-/
namespace Sys2Proof.Machine

/-! ### Ports (R222, R230, R245) -/

/-- A port with nothing in progress. -/
def PortState.init : PortState := ⟨0, false, 0, [], [], false, 0, []⟩

/-- The state of a port. -/
def State.port (s : State) (p : Nat) : PortState := if p = 0 then s.bh.port0 else s.bh.port1

/-- A change of a port's state. -/
def State.onPort (s : State) (p : Nat) (f : PortState → PortState) : State :=
  if p = 0 then { s with bh := { s.bh with port0 := f s.bh.port0 } } else { s with bh := { s.bh with port1 := f s.bh.port1 } }

/-- The list of what waits to be sent replaced. -/
def State.setItems (s : State) (l : List TxItem) : State := { s with bh := { s.bh with items := l } }

/-- MODE of a port; 3 acts as 0 (R253). -/
def State.portMode (s : State) (p : Nat) : Nat := if s.rd (BHM_CTRL_MODE p) = 3 then 0 else s.rd (BHM_CTRL_MODE p)

/-- RING: 0 INDEPENDENT, 1 HSR, 2 PRP; 3 acts as 0 (R230, R253). -/
def State.ring (s : State) : Nat := if s.rd (BHM_CTRL_RING 0) = 3 then 0 else s.rd (BHM_CTRL_RING 0)

/-- The MAC address that serves a port: BHM0's in HSR and PRP (R225). -/
def State.macOf (s : State) (p : Nat) : Nat := s.rd (BHM_MAC_ADDR (if s.ring = 0 then p else 0))

/-- A port that passes frames: RUNNING, linked, and not held by a mode unlike the other port's (R223, R230). -/
def State.portUp (s : State) (p : Nat) : Bool := s.rd (BHM_CTRL_RUNST p) == 1 && s.on (BHM_CTRL_LINK p) && !(s.port p).mismatch

/-- Counter `m` of a port advanced; a change of its top bit sets its bit of HALF, and STATHALF (R245). -/
def State.bhCount (s : State) (p m n : Nat) : State :=
  let w := if m < 2 ∨ m = 29 then 48 else 40
  let old := s.rd (BHM_CNT_COUNT p m)
  let new := (old + n) % 2 ^ w
  let s := s.wr (BHM_CNT_COUNT p m) new
  if bit old (w - 1) = bit new (w - 1) then s
  else (s.wr (BHM_HALF_HALF p) (setBit (s.rd (BHM_HALF_HALF p)) m true)).raise (BHM_STATUS_STATHALF p)

/-- The counter of a frame's size class, from the counter of 64 octets (R245). -/
def sizeClass (base n : Nat) : Nat :=
  if n ≤ 64 then base else if n < 128 then base + 1 else if n < 256 then base + 2 else if n < 512 then base + 3
  else if n < 1024 then base + 4 else base + 5

/-- The counter of unicast, multicast or broadcast, from the first (R245). -/
def castClass (base : Nat) (f : Octets) : Nat :=
  if beAt f 0 6 = 2 ^ 48 - 1 then base + 2 else if octAt f 0 % 2 = 1 then base + 1 else base

/-- The counters of a good received frame (R245). -/
def State.rxGood (s : State) (p : Nat) (f : Octets) : State :=
  let n := f.length + 4
  (((s.bhCount p 1 n).bhCount p 2 1).bhCount p (castClass 3 f) 1).bhCount p (sizeClass 6 n) 1

/-- The counters of a sent frame (R245). -/
def State.txGood (s : State) (p : Nat) (f : Octets) : State :=
  let n := f.length + 4
  (((s.bhCount p 29 n).bhCount p 30 1).bhCount p (castClass 31 f) 1).bhCount p (sizeClass 34 n) 1

/-! ### Acceptance and duplicates (R225, R234) -/

/-- MAXRX: below 64 acts as 64, above 2,000 as 2,000 (R253). -/
def State.maxRx (s : State) (p : Nat) : Nat := clampN 64 2000 (s.rd (BHM_RXCFG_MAXRX p))

/-- Whether a frame's destination is one of the module's (R225). -/
def State.addressed (s : State) (p : Nat) (f : Octets) : Bool :=
  let d := beAt f 0 6
  d == s.macOf p || d == 2 ^ 48 - 1 || d == 0x011B19000000 || d == 0x0180C200000E ||
  (List.range 8).any (fun n => s.on (BHM_MCAST_EN p n) && s.rd (BHM_MCAST_ADDR p n) == d)

/-- A window after a sequence number, whether the frame passes, and whether the window restarted (R234). -/
def DupWindow.test (w : Option DupWindow) (q : Nat) : DupWindow × Bool × Bool :=
  match w with
  | none => (⟨q, 1⟩, true, false)
  | some w =>
    let back := (w.high + 65536 - q) % 65536
    let ahead := (q + 65536 - w.high) % 65536
    if back < 64 then (if bit w.map back then (w, false, false) else (⟨w.high, w.map + 2 ^ back⟩, true, false))
    else if ahead < 32768 then (⟨q, (if 64 ≤ ahead then 0 else w.map * 2 ^ ahead % 2 ^ 64) + 1⟩, true, false)
    else (⟨q, 1⟩, true, true)

/-- The table with room for a new source: at 256 sources the entry unused for longest leaves (R234). -/
def dupRoom (t : List (Nat × DupEntry)) : List (Nat × DupEntry) :=
  if t.length < 256 then t
  else
    let least := (t.map (fun e => e.2.used)).foldl min ((t.map (fun e => e.2.used)).foldl max 0)
    match t.find? (fun e => e.2.used == least) with
    | some e => kvErase t e.1
    | none => t

/-- A sequence number of a source offered to a window of the duplicate table: 0 acceptance, 1 and 2 forwarding out of port 0 and 1 (R234). Answers whether the
frame passes and whether the window restarted. -/
def State.dupTest (s : State) (src which q : Nat) : State × Bool × Bool :=
  let t := match kvFind s.bh.dup src with
    | some _ => s.bh.dup
    | none => dupRoom s.bh.dup
  let e := (kvFind t src).getD ⟨none, none, none, 0⟩
  let r := DupWindow.test (if which = 0 then e.accept else if which = 1 then e.out0 else e.out1) q
  let e : DupEntry := if which = 0 then { e with accept := some r.1 } else if which = 1 then { e with out0 := some r.1 } else { e with out1 := some r.1 }
  ({ s with bh := { s.bh with dup := kvSet t src { e with used := s.elapsed } } }, r.2.1, r.2.2)

/-- FORGET in ns; 0 acts as 1 (R253). -/
def State.forget (s : State) : Nat := max 1 (s.rd BHM0_HSR_FORGET) * 1000000

/-- An entry of the duplicate table that has not been used for FORGET is freed (R234). -/
def State.dupForget (s : State) (src : Nat) : State :=
  match kvFind s.bh.dup src with
  | some e => if e.used + s.forget ≤ s.elapsed then { s with bh := { s.bh with dup := kvErase s.bh.dup src } } else s
  | none => s

/-! ### Day Rest: wake (R247, R249) -/

/-- The octets of a frame that a mask selects, and whether the frame reaches the highest of them (R247). -/
def selected (f : Octets) (mask : Nat) : Octets × Bool :=
  ((List.range 128).flatMap (fun i => if bit mask i then slice f i 1 else []), (List.range 128).all (fun i => !bit mask i || i < f.length))

/-- The lowest wake pattern that matches an accepted frame (R247). -/
def State.patternOf (s : State) (p : Nat) (f : Octets) : Option Nat :=
  (List.range 8).find? (fun n =>
    let q := selected f (s.rd (BHM0_WP_W0_MASK n))
    s.on (BHM0_WP_W4_EN n) && bit (s.rd (BHM0_WP_W4_PORTS n)) p && q.2 && crc16 q.1 == s.rd (BHM0_WP_W4_CRC n))

/-- A seal write held at step 4 completes (R94, R249). -/
def State.sealRelease (s : State) (l : Lane) : State :=
  if (s.lane l).held then (s.advanceRead l).onLane l (fun x => { x with held := false, closed := false }) else s

/-- The Sequencer restarts at the wake as for a write of EN = 1, the lane clocks run, and held seal writes complete (R249). -/
def State.restEnd (s : State) : State :=
  if s.crz.rest then
    let s := s.crzStart
    ({ s with lsc := { s.lsc with laneClocks := true } }.sealRelease .A).sealRelease .B
  else s

/-- The pattern and the port of a match recorded (R249). -/
def State.drPattern (s : State) : Option (Nat × Nat) → State
  | some (n, p) => ((s.wr BHM0_DR_STAT_PATTERN 1).wr BHM0_DR_STAT_PAT n).wr BHM0_DR_STAT_PORT p
  | none => s

/-- The present cycle is that in which Day Rest ended (R249). -/
def State.wakingNow (s : State) : Bool := s.bh.woke == some s.cycles

/-- A further wake condition of the cycle in which Day Rest ended (R249): it is recorded too, the first pattern with its port. -/
def State.drMore (s : State) (pat : Option (Nat × Nat)) (time trip : Bool) : State :=
  let s := (s.raiseIf trip BHM0_DR_STAT_TRIP).raiseIf time BHM0_DR_STAT_TIME
  if s.on BHM0_DR_STAT_PATTERN then s else s.drPattern pat

/-- Day Rest ends or its entry is cancelled (R248, R249): the causes, STATE = AWAKE and DRWAKE. `pat` is the pattern and its port. -/
def State.drEnd (s : State) (pat : Option (Nat × Nat)) (time trip : Bool) : State :=
  let st := s.rd BHM0_DR_STAT_STATE
  if st = 0 then (if s.wakingNow then s.drMore pat time trip else s)
  else
    let s := (s.wr BHM0_DR_STAT_CANCEL (b2n (st == 1))).wr BHM0_DR_STAT_TRIP (b2n trip)
    let s := ((s.wr BHM0_DR_STAT_TIME (b2n time)).wr BHM0_DR_STAT_PATTERN 0).drPattern pat
    let s := { s with bh := { s.bh with woke := some s.cycles } }
    ((s.wr BHM0_DR_STAT_STATE 0).raise (BHM_STATUS_DRWAKE 0)).restEnd

/-- A wake pattern is looked for while STATE is PENDING or REST (R247), and in the cycle in which Day Rest ends (R249). -/
def State.watchPatterns (s : State) (p : Nat) (f : Octets) : State :=
  if s.rd BHM0_DR_STAT_STATE = 0 ∧ s.wakingNow = false then s
  else match s.patternOf p f with
    | some n => s.drEnd (some (n, p)) false false
    | none => s

/-- Network time reaches DR_WAKE_T with TEN = 1 (R249). -/
def State.drWakeTime (s : State) : State :=
  if s.on BHM0_DR_WAKE_T_TEN && s.rd BHM0_DR_WAKE_T_T10 * 10000000 ≤ s.now then s.drEnd none true false else s

/-- A write of BHM0_DR_CMD (R248). -/
def State.drEnter (s : State) (key enter : Nat) : State :=
  if key ≠ 0xDA7E ∨ enter = 0 then s
  else
    let busy := [Lane.A, Lane.B].any (fun l => s.role l == roleJoining || s.role l == roleBist)
    let wakes := s.on BHM0_DR_WAKE_T_TEN || (List.range 8).any (fun n => s.on (BHM0_WP_W4_EN n))
    if !s.crzOn || s.on LSC_CTRL_SPLIT || busy || s.rd BHM0_DR_STAT_STATE != 0 || !wakes then s.raise (BHM_STATUS_DRREJ 0)
    else s.wr BHM0_DR_STAT_STATE 1

/-! ### Steering (R226 to R229) -/

/-- Whether a rule matches a frame (R226). -/
def State.ruleHits (s : State) (p n : Nat) (f : Octets) : Bool :=
  let v := s.rd (BHM_RULE_VALUE p n)
  s.on (BHM_RULE_EN p n) && (match s.rd (BHM_RULE_TYPE p n) with
    | 0 => etherType f == v
    | 1 => udpPort f == some v
    | 2 => ipProto f == some (v % 256)
    | _ => true)

/-- The action for a frame and the rule index, 0xFF for DEFACT (R226). -/
def State.steer (s : State) (p : Nat) (f : Octets) : Nat × Nat :=
  match (List.range 8).find? (fun n => s.ruleHits p n f) with
  | some n => (s.rd (BHM_RULE_ACT p n), n)
  | none => (s.rd (BHM_RXCFG_DEFACT p), 255)

/-- The event of a frame steered to EVENT (R227). -/
def State.frameEvent (s : State) (p rule : Nat) (f : Octets) (t : Time) : Event :=
  s.event (72 + p) 0 0x01 (le 2 f.length ++ [octet rule, octet 0] ++ f) t

/-- SRX_SIZE: 0 acts as 1, above 512 as 512 (R253). -/
def State.srxSize (s : State) (p : Nat) : Nat := clampN 1 512 (s.rd (BHM_SRX_SIZE_VALUE p))

/-- A frame steered to SERVICE (R228): a slot of the ring in the Active lane's SRAM, or discarded with SRXFULL. One slot stays free (notes/assumptions/8). -/
def State.toService (s : State) (p rule : Nat) (f : Octets) (t : Time) (hsr prp poison : Bool) : State :=
  let w := s.rd (BHM_SRX_WR_VALUE p)
  let next := (w + 1) % s.srxSize p
  if next = s.rd (BHM_SRX_RD_VALUE p) % s.srxSize p then s.raise (BHM_STATUS_SRXFULL p)
  else
    let head := le 2 f.length ++ [octet (p + 2 * b2n hsr + 4 * b2n prp + 8 * b2n poison), octet rule] ++ le 4 t.frac ++ le 8 (ts64 t)
    let s := s.sramWrite s.busLane (s.rd (BHM_SRX_BASE_BASE p) * 32 + w * 2048) (head ++ f)
    (s.wr (BHM_SRX_WR_VALUE p) next).raise (BHM_STATUS_SRXNEW p)

/-- An accepted frame that survives duplicate discard (R226); `raw` carries its tags. Whatever takes it, its octets pass the port's receive queue, and a frame that finds that
full before its end is discarded whole (R229). -/
def State.takeFrame (s : State) (p : Nat) (raw : Octets) (t : Time) (meet : RxMeet) : State :=
  let prp := s.ring == 2 && hasPrp raw
  let hsr := s.ring == 1 && hasHsr raw
  let f := if prp then stripPrp raw else if hsr then stripHsr raw else raw
  let s := s.watchPatterns p raw
  let (act, rule) := s.steer p f
  let e := s.frameEvent p rule f t
  let collect := s.on FLT_CTRL_COLLECTOR && udpPort f == some (s.rd FLT_COL_CFG_INPORT)
  if !collect && act == 0 then s.bhCount p 19 1
  else if meet.full || !s.dcqFits (2 * p) e.words then ((s.dcqOverflow (2 * p) e.words).bhCount p 20 1).raise (BHM_STATUS_RXOVF p)
  else if collect then
    match udpAt f with
    | some u => s.intakeOffer (slice f (u + 8) (beAt f (u + 4) 2 - 8))
    | none => s
  else
    let s := if act % 2 = 1 then (s.dcqOffer (2 * p) e).1 else s
    if 2 ≤ act then s.toService p rule f t hsr prp meet.poison else s

/-! ### Forwarding (R233, R236, R241) -/

/-- The traffic class of a forwarded frame (R241). -/
def State.forwardTc (s : State) (q : Nat) (f : Octets) : Nat :=
  if (ptpAt f).isSome then 7 else if beAt f 12 2 = 0x8100 then octAt f 14 / 32 else s.rd (BHM_TCCFG_UNTAG_TC q)

/-- The queue that feeds the forwarding out of port `q` (R22). -/
def fwdQueue (q : Nat) : Nat := if q = 1 then 15 else 16

/-- A forwarded frame that finds its queue full (R229, R385): the queue's own command is issued, and of the frame stays what the port has taken of it, `kept`. -/
def State.fwdOverflow (s : State) (q : Nat) (kept : List Forward) (written : Nat) : State :=
  let n := fwdQueue q
  let k := s.dcqUsed n
  let s := (s.bhCount q 41 1).raise (BHM_STATUS_FWDDROP q)
  let s := if s.rd (DCQ_Q_W0_CMDSEL n) = 1 then (s.setFwd n (s.fwdOf n ++ kept)).dcqDiscard n written
    else (s.setFwd n (((s.fwdOf n).take 1).flatMap Forward.cut ++ kept)).dcqDiscard n (k + written)
  s.dcqCount n

/-- A frame offered for forwarding out of port `q` (R223, R229, R233). One that finds the queue full before it has begun is not forwarded; one that finds it full later is cut, and is
sent as far as it has got where the port has begun to send it. -/
def State.offerForward (s : State) (q : Nat) (x : Forward) (meet : RxMeet) : State :=
  let n := fwdQueue q
  let room := dcqDepth n - s.dcqUsed n
  if !s.portUp q then (s.bhCount q 47 1).bhCount q 41 1
  else if meet.fwdFull || !s.dcqOpen n || room == 0 then s.fwdOverflow q [] 0
  else if meet.fwdCut || decide (room < x.unread) then
    let got := min room x.unread
    if (s.fwdOf n).isEmpty then s.fwdOverflow q [{ x with octets := x.octets.take (8 * got), bad := true, unread := 0 }] 0 else s.fwdOverflow q [] got
  else (s.setFwd n (s.fwdOf n ++ [x])).dcqCount n

/-- The forwarding of a tagged ring frame (R233 item 3), and whether it was forwarded. `bad` says that it ends with an error. -/
def State.ringForward (s : State) (p : Nat) (f : Octets) (t : Time) (bad : Bool) (meet : RxMeet) : State × Bool :=
  let q := 1 - p
  if beAt f 0 6 = s.macOf p then (s, false)
  else
    let (s, pass, restart) := s.dupTest (beAt f 6 6) (1 + q) (hsrSeq f)
    let s := if restart then s.bhCount p 25 1 else s
    if pass then (s.offerForward q ⟨f, t, p, bad, frameWords f.length⟩ meet, true) else (s, false)

/-- Acceptance with duplicate discard under a sequence number (R233, R234, R235). -/
def State.acceptOnce (s : State) (p src q : Nat) (f : Octets) (t : Time) (meet : RxMeet) : State :=
  let (s, pass, restart) := s.dupTest src 0 q
  let s := if restart then s.bhCount p 25 1 else s
  if pass then s.takeFrame p f t meet else s.bhCount p 21 1

/-- A frame whose length and errors are known (R225 to R235): `good`, it may be accepted; `bad`, it ends with an error. One that is neither accepted nor forwarded is counted. -/
def State.receiveFrame (s : State) (p : Nat) (f : Octets) (t : Time) (good bad : Bool) (meet : RxMeet) : State :=
  let mine := good && s.addressed p f
  let s := if mine then s.extract p f t else s
  let src := beAt f 6 6
  if s.ring = 1 then
    if hasHsr f then
      if src = s.macOf p then (s.bhCount p 22 1).bhCount p 18 1
      else if isPdelay f then (if mine then s.takeFrame p f t meet else s.bhCount p 18 1)
      else
        let (s, went) := s.ringForward p f t bad meet
        if mine then s.acceptOnce p src (hsrSeq f) f t meet
        else if went then s
        else (if beAt f 0 6 = s.macOf p then s else s.bhCount p 21 1).bhCount p 18 1
    else
      let s := s.bhCount p 23 1
      if mine then s.takeFrame p f t meet else s.bhCount p 18 1
  else if !mine then s.bhCount p 18 1
  else if s.ring = 2 && hasPrp f then
    let s := if prpLan f = 10 + p then s else s.bhCount p 24 1
    s.acceptOnce p src (prpSeq f) f t meet
  else s.takeFrame p f t meet

/-- The mCRC of a fragment that ends after the octets `f` of its frame (R242, notes/assumptions/60). -/
def mCrc (f : Octets) : Nat := (crc32 f).xor 0x0000FFFF

/-- A verify or a respond mPacket sent (R242). -/
def State.control (s : State) (p : Nat) (part : MPacket) : State := s.emit ⟨p, s.now, zeros 60, mCrc (zeros 60), part, 0, 0⟩

/-- A verify mPacket received: the port answers it while preemption is enabled (R242). -/
def State.verifyReceive (s : State) (p : Nat) : State := if s.on (BHM_CTRL_PREEMPT p) then s.control p .respond else s

/-- The counter of a frame by its error and its length (R245). -/
def State.rxCount (s : State) (p : Nat) (f : Octets) (e : RxError) : State :=
  match e with
  | .fcs => s.bhCount p 12 1
  | .code => s.bhCount p 13 1
  | .assembly => s.bhCount p 26 1
  | .smd => s.bhCount p 27 1
  | .none => if f.length + 4 < 64 then s.bhCount p 14 1 else if s.maxRx p < f.length + 4 then s.bhCount p 15 1 else s.rxGood p f

/-- A frame received at a port (R225 to R236, R40), with its first octet `symbol` UI behind the PCS word edge. An mPacket with an SMD that does not fit belongs to no frame. -/
def State.bhReceive (s : State) (p symbol : Nat) (f : Octets) (meet : RxMeet) : State :=
  if !s.portUp p then s
  else if meet.verify then s.verifyReceive p
  else
    let n := f.length + 4
    let t := s.ingress p symbol
    let good := meet.err == .none && decide (64 ≤ n) && decide (n ≤ s.maxRx p)
    let s := ((s.bhCount p 0 n).bhCount p 28 meet.frags).rxCount p f meet.err
    if meet.err = .smd then s else s.receiveFrame p f t good (meet.err != .none) meet

/-! ### The transmit rings (R237 to R239) -/

/-- A transmit descriptor as its octets give it (R237). -/
structure TxDesc where
  addr : Nat
  len : Nat
  op : Nat
  tc : Nat
  ports : Nat
  ofl : Nat
  mss : Nat
  hlen : Nat
  l3 : Nat
  from' : Time

/-- The fields of a descriptor (R237). The ingress stamp of RESID has SEC[33:0] (TS64), and R42 takes it from the egress stamp as it stands, without extending it to 64 bits
(DESIGN CHOICE, notes/assumptions/58). -/
def txDesc (d : Octets) : TxDesc :=
  { addr := leAt d 0 4, len := leAt d 4 4, op := octAt d 8 % 8, tc := octAt d 8 / 8 % 8, ports := octAt d 8 / 64, ofl := octAt d 9, mss := leAt d 10 2,
    hlen := octAt d 12, l3 := octAt d 13, from' := ⟨leAt d 16 8 / 2 ^ 30, leAt d 16 8 % 2 ^ 30, leAt d 24 4⟩ }

/-- SEG, IPV6, RAW and IRQ of a descriptor. -/
def TxDesc.segmented (d : TxDesc) : Bool := bit d.ofl 0
def TxDesc.v6 (d : TxDesc) : Bool := bit d.ofl 1
def TxDesc.raw (d : TxDesc) : Bool := bit d.ofl 2
def TxDesc.irq (d : TxDesc) : Bool := bit d.ofl 3

/-- Whether a span lies within one region that a port reads: SRAM, PST or ACM (R237, R238). -/
def State.txReadable (s : State) (a n : Nat) : Bool :=
  match s.region a n with
  | some (.staging, _) => false
  | some _ => 0 < n
  | none => false

/-- The checks of R239 on a segmented descriptor. -/
def State.segmentsGood (s : State) (d : TxDesc) : Bool :=
  let h := (s.busRead d.addr d.hlen).getD []
  let hl := if d.v6 then d.l3 + 48 else d.l3 + 28
  d.op == 0 && d.hlen == hl && 0 < d.mss && d.hlen + d.mss ≤ 1518 && d.hlen < d.len && d.len - d.hlen ≤ 65536 &&
  (if d.v6 then octAt h (d.l3 + 6) == 17 && octAt h d.l3 / 16 == 6 else octAt h (d.l3 + 9) == 17 && octAt h d.l3 == 0x45)

/-- Whether a descriptor is refused (R238). -/
def State.txRefused (s : State) (bs : Octets) : Bool :=
  let d := txDesc bs
  d.len / 131072 != 0 || d.ofl / 16 != 0 || leAt bs 14 2 != 0 || d.ports == 3 || 3 < d.op || !s.txReadable d.addr d.len ||
  (!d.segmented && (d.len < 14 || 1518 < d.len)) ||
  ((d.op == opCapture || d.op == opResid) && d.ports == 0 && s.ring != 0) || (d.segmented && !s.segmentsGood d)

/-- The frames a descriptor produces (R239). -/
def TxDesc.frames (d : TxDesc) : Nat := if d.segmented then ceilDiv (d.len - d.hlen) d.mss else 1

/-- SIZE of a port's transmit ring; 0 acts as 1 (R253). -/
def State.txSize (s : State) (p : Nat) : Nat := max 1 (s.rd (BHM_TX_SIZE_VALUE p))

/-- Where descriptor `i` of a port's ring stands in the Active lane's SRAM. -/
def State.txSlot (s : State) (p i : Nat) : Nat := s.rd (BHM_TX_BASE_BASE p) * 32 + 32 * i

/-- A descriptor of a port's ring that is to be written back (R237). -/
def State.txWriteBack (s : State) (p i result nseg : Nat) (irq : Bool) : State :=
  { s with bh := { s.bh with backs := s.bh.backs ++ [⟨p, i, result, nseg, irq⟩] } }

/-- A descriptor of a port's ring written back: STAT and NSEG, with TXDONE where IRQ asks for it (R237). -/
def State.txWriteNow (s : State) (b : WriteBack) : State :=
  (s.sramWrite s.busLane (s.txSlot b.ring b.index + 28) (le 2 (1 + 2 * b.result) ++ le 2 b.frames)).raiseIf b.irq (BHM_STATUS_TXDONE b.ring)

/-- The write-backs that wait for a ring are forgotten. -/
def State.dropBacks (s : State) (ring : Nat) : State := { s with bh := { s.bh with backs := s.bh.backs.filter (fun b => b.ring != ring) } }

/-- Every write-back that waits for a port's ring performed. -/
def State.flushBacks (s : State) (p : Nat) : State := (s.bh.backs.filter (fun b => b.ring == p)).foldl (fun (s : State) b => s.txWriteNow b) (s.dropBacks p)

/-- The ports a descriptor or a template names: PORTS 0 as RING (R237). -/
def State.namedPorts (s : State) (own ports : Nat) : Bool × Bool :=
  if ports = 0 then (if s.ring = 0 then (own == 0, own == 1) else (true, true)) else (ports == 1, ports == 2)

/-- One descriptor of a port's ring fetched: refused with DESCERR, or its frames wait to be sent (R237, R238). -/
def State.txFetch (s : State) (p i : Nat) : State :=
  let bs := memRead (s.lane s.busLane).sram (s.txSlot p i) 32
  let d := txDesc bs
  if s.txRefused bs then ((s.bhCount p 46 1).raise (BHM_STATUS_TXERR p)).txWriteBack p i 1 0 d.irq
  else
    let (a, b) := s.namedPorts p d.ports
    s.setItems (s.bh.items ++ (List.range d.frames).map (fun j => ⟨d.tc, some (p, i), bs, j, a, b, none, false, false, false⟩))

/-- The descriptors from TX_HEAD up to TX_TAIL fetched; `n` bounds their number. -/
def txFetchAll (p : Nat) : Nat → State → State
  | 0, s => s
  | n + 1, s =>
    let h := s.rd (BHM_TX_HEAD_VALUE p)
    if h = s.rd (BHM_TX_TAIL_VALUE p) % s.txSize p then s
    else txFetchAll p n ((s.txFetch p h).wr (BHM_TX_HEAD_VALUE p) ((h + 1) % s.txSize p))

/-- A port that runs fetches what its tail allows (R237). -/
def State.txRun (s : State) (p : Nat) : State := if s.rd (BHM_CTRL_RUNST p) = 1 then txFetchAll p (s.txSize p) s else s

/-- A write of TX_TAIL (R237). -/
def State.txTail (s : State) (p v : Nat) : State := (s.wr (BHM_TX_TAIL_VALUE p) v).txRun p

/-! ### Frames (R232, R238, R239) -/

/-- A frame padded to 64 octets, FCS included (R238). -/
def padFrame (f : Octets) : Octets := if f.length < 60 then padTo 60 f else f

/-- The HSR tag put into a frame: NETID and the port's LanId, the LSDU size and the sequence number (R232). -/
def hsrTag (f : Octets) (netId p q : Nat) : Octets :=
  let i := afterVlan f
  f.take i ++ be 2 0x892F ++ be 2 ((netId * 2 + p) * 4096 + (f.length + 6 - i - 2) % 4096) ++ be 2 q ++ f.drop i

/-- The redundancy control trailer put after a frame (R232). -/
def prpTrailer (f : Octets) (p q : Nat) : Octets :=
  f ++ be 2 q ++ be 2 ((10 + p) * 4096 + (f.length + 6 - (if beAt f 12 2 = 0x8100 then 18 else 14)) % 4096) ++ [octet 0x88, octet 0xFB]

/-- A frame as it leaves port `p`: tagged in HSR and PRP unless it is raw, and padded (R232, R238). -/
def State.dress (s : State) (p q : Nat) (raw : Bool) (f : Octets) : Octets :=
  if raw || s.ring == 0 then padFrame f
  else if s.ring = 1 then padFrame (hsrTag f (s.rd BHM0_HSR_NETID) p q)
  else prpTrailer (if f.length < 54 then padTo 54 f else f) p q

/-- The frame of an item before its tags: the buffer, or a segment of it behind its header (R239). -/
def State.itemFrame (s : State) (x : TxItem) : Octets :=
  match x.owner with
  | none => x.desc
  | some _ =>
    let d := txDesc x.desc
    let buf := padTo d.len ((s.busRead d.addr d.len).getD [])
    if d.segmented then
      let payload := ((buf.drop d.hlen).drop (x.seg * d.mss)).take d.mss
      segmentHeader d.v6 (buf.take d.hlen) d.l3 x.seg payload ++ payload
    else buf

/-- A frame that FLT or SAF queues, built from the header of BHM0_TPL as R239 builds a single frame (R240, R393). -/
def State.queueDatagram (s : State) (tc : Nat) (dport : Option Nat) (payload : Octets) : State :=
  let hlen := s.rd BHM0_TPL_CFG_HLEN
  let l3 := s.rd BHM0_TPL_CFG_L3OFF
  let h := padTo hlen (le 64 (s.rd BHM0_TPL_HEADER))
  let h := match dport with
    | some v => putAt h (hlen - 6) (be 2 v)
    | none => h
  let f := segmentHeader (s.on BHM0_TPL_CFG_IPV6) h l3 0 payload ++ payload
  let (a, b) := s.namedPorts 0 (s.rd BHM0_TPL_CFG_PORTS)
  s.setItems (s.bh.items ++ [⟨tc, none, f, 0, a, b, none, false, false, false⟩])

/-! ### Sending (R223, R236, R241) -/

/-- An item is still to be sent by a port. -/
def TxItem.dueOn (x : TxItem) (p : Nat) : Bool := if p = 0 then x.due0 else x.due1

/-- An item that a port has sent or dropped. -/
def TxItem.gone (x : TxItem) (p : Nat) : TxItem := if p = 0 then { x with due0 := false } else { x with due1 := false }

/-- Whether a traffic class is express on a port (R241). -/
def State.express (s : State) (p tc : Nat) : Bool := bit (s.rd (BHM_TCCFG_FPMAP p)) tc

/-- PWD in ns; 0 acts as 1 (R253). -/
def State.pwd (s : State) (p : Nat) : Nat := max 1 (s.rd (BHM_TCCFG_PWD p)) * 1000000

/-- A pause that still stops its class: neither its quanta nor the watchdog's time have run out (R243). -/
def State.pauseHolds (s : State) (p : Nat) (z : Pause) : Bool := decide (s.elapsed < z.until') && decide (s.elapsed < z.from' + s.pwd p)

/-- Whether a class may send: express, or not paused (R243). -/
def State.tcFree (s : State) (p tc : Nat) : Bool :=
  s.express p tc || (match kvFind (s.port p).pauses tc with
    | some z => !s.pauseHolds p z
    | none => true)

/-- The first of a list with the highest class. -/
def topClass {α : Type} (tc : α → Nat) (l : List α) : Option α :=
  let top := (l.map tc).foldl max 0
  l.find? (fun x => tc x == top)

/-- The local item that is first on a port: the highest class, in order of queueing (R241). -/
def State.firstLocal (s : State) (p : Nat) : Option TxItem := topClass (·.tc) (s.bh.items.filter (fun x => x.dueOn p && s.tcFree p x.tc))

/-- The frame that is first to be forwarded out of a port: the highest class, in order of arrival (R241). -/
def State.firstForward (s : State) (p : Nat) : Option Forward :=
  topClass (fun x => s.forwardTc p x.octets) ((s.port p).fwd.filter (fun x => s.tcFree p (s.forwardTc p x.octets)))

/-- Whether the frame that waits to be forwarded goes before the local one (R241): the higher class, and in one class in turn, the forwarded
frame first from idle. -/
def State.forwardFirst (s : State) (p : Nat) : Bool :=
  match s.firstForward p, s.firstLocal p with
  | none, _ => false
  | some _, none => true
  | some x, some y =>
    let tc := s.forwardTc p x.octets
    y.tc < tc || (tc == y.tc && !bit (s.port p).turns tc)

/-- A class of which nothing waits on a port. -/
def State.tcIdle (s : State) (p tc : Nat) : Bool :=
  !s.bh.items.any (fun x => x.dueOn p && x.tc == tc) && !(s.port p).fwd.any (fun x => s.forwardTc p x.octets == tc)

/-- A frame of a class has gone: whose turn it was, until the class is idle (R241). -/
def State.turnTaken (s : State) (p tc : Nat) (forwarded : Bool) : State :=
  let b := forwarded && !s.tcIdle p tc
  s.onPort p (fun x => { x with turns := setBit x.turns tc b })

/-- The first occurrence of an element replaced. -/
def replaceFirst {α : Type} [DecidableEq α] (old new : α) : List α → List α
  | [] => []
  | x :: t => if x = old then new :: t else x :: replaceFirst old new t

/-- The item changed in the queue. -/
def State.putItem (s : State) (old new : TxItem) : State := s.setItems (replaceFirst old new s.bh.items)

/-- The items of a descriptor. -/
def State.itemsOf (s : State) (o : Option (Nat × Nat)) : List TxItem := s.bh.items.filter (fun y => y.owner == o)

/-- The result of a descriptor whose items have all been seen to: 2 ABORT where a frame has left by no port, or by one with an inverted FCS, 3 NOFIX where an insertion failed, else 0
SENT (R237, R384, notes/assumptions/61). -/
def txResult (l : List TxItem) : Nat := if l.any (fun y => y.abort || !y.out) then 2 else if l.any (·.nofix) then 3 else 0

/-- The items of a descriptor leave, and it is to be written back with the number of frames sent (R237). -/
def State.descDone (s : State) (p i result : Nat) : State :=
  let l := s.itemsOf (some (p, i))
  (s.setItems (s.bh.items.filter (fun y => y.owner != some (p, i)))).txWriteBack p i result (l.filter (·.out)).length (l.any (fun x => (txDesc x.desc).irq))

/-- An item has left a port or been dropped there: one that no port has still to send is done, and with the last item of a descriptor the descriptor is (R237). -/
def State.itemDone (s : State) (x : TxItem) : State :=
  if x.due0 || x.due1 then s
  else match x.owner with
    | none => s.setItems (s.bh.items.erase x)
    | some (p, i) => if (s.itemsOf x.owner).any (fun y => y.due0 || y.due1) then s else s.descDone p i (txResult (s.itemsOf x.owner))

/-- The sequence number of an item in HSR and PRP: its own, or the next of BHM0_SEQ (R232). -/
def State.itemSeq (s : State) (x : TxItem) (raw : Bool) : State × Nat :=
  match x.seq with
  | some q => (s, q)
  | none => if raw || s.ring == 0 then (s, 0) else (s.wr BHM0_SEQ_SEQ (s.rd BHM0_SEQ_SEQ + 1), s.rd BHM0_SEQ_SEQ)

/-- A frame in the fragments that preemption cuts it into (R242): each but the last has as many octets as `cuts` says, which with its mCRC are at least `least`, and leaves some to
follow; a cut that does not is none. -/
def fragments (least : Nat) : List Nat → Octets → List Octets
  | [], f => [f]
  | c :: cs, f => if least ≤ c + 4 ∧ c < f.length then f.take c :: fragments least cs (f.drop c) else fragments least cs f

/-- Fragments sent one after the other, `done` being the octets of the frame before them: each but the last ends with its mCRC, the last with the frame's FCS, which is inverted where
`bad` says so (R45, R236, R384). -/
def State.emitFragments (s : State) (p : Nat) (bad : Bool) (part : MPacket) (done : Octets) : List Octets → State
  | [] => s
  | [f] =>
    let c := crc32 (done ++ f)
    s.emit ⟨p, s.now, f, if bad then c.xor 0xFFFFFFFF else c, part, 0, 0⟩
  | f :: t => (s.emit ⟨p, s.now, f, mCrc (done ++ f), part, 0, 0⟩).emitFragments p bad .further (done ++ f) t

/-- A frame that leaves a port in a class (R241, R242, R245): whole by the express MAC, or, where preemption is active and the class is preemptable, in fragments. -/
def State.sendFrame (s : State) (p tc : Nat) (f : Octets) (bad : Bool) (cuts : List Nat) : State :=
  let s := s.txGood p f
  let s := if bad then s.bhCount p 42 1 else s
  if s.express p tc || !s.on (BHM_CTRL_PVERIFIED p) then s.emitFragments p bad .whole [] [f]
  else
    let l := fragments (64 * (1 + s.rd (BHM_CTRL_ADDFRAG p))) cuts f
    let s := if l.length = 1 then s else (s.bhCount p 43 (l.length - 1)).bhCount p 44 l.length
    s.emitFragments p bad .first [] l

/-- The first local item sent from a port as one frame (R232, R239, R242), with its first octet `symbol` UI behind the PCS word edge. With the link down it is dropped and counted
(R223); a word that its queue delivers poisoned ends it with an inverted FCS (R384). -/
def State.sendLocal (s : State) (p symbol : Nat) (meet : TxMeet) (x : TxItem) : State :=
  let d := txDesc x.desc
  let raw := x.owner.isSome && d.raw
  if !s.portUp p then
    let y := x.gone p
    ((s.bhCount p 47 1).putItem x y).itemDone y
  else
    let (s, q) := s.itemSeq x raw
    let op := if x.owner.isSome then d.op else 0
    let (s, f, bad) := s.insert op p (s.dress p q raw (s.itemFrame x)) (s.egress p symbol) d.from' p
    let s := if meet.poison then s.dcqPoison (1 + 2 * p) else s
    let s := s.sendFrame p x.tc f meet.poison meet.cuts
    let y := { x.gone p with
      seq := if s.ring = 0 then none else some q, nofix := x.nofix || bad, out := x.out || !meet.poison, abort := x.abort || meet.poison }
    ((s.putItem x y).turnTaken p x.tc false).itemDone y

/-- A frame sent from a port (R239, R241), through the queue that feeds it (R22, R387): while that takes no words, nothing is sent. -/
def State.txSend (s : State) (p symbol : Nat) (meet : TxMeet) : State :=
  if s.forwardFirst p || !s.dcqOpen (1 + 2 * p) then s
  else match s.firstLocal p with
    | some x => s.sendLocal p symbol meet x
    | none => s

/-- The first frame that waits to be forwarded leaves a port, a Sync with the correction of the transparent clock (R57, R236); one that proved bad ends with an inverted FCS. -/
def State.forward (s : State) (p symbol : Nat) (meet : TxMeet) : State :=
  if !s.forwardFirst p then s
  else match s.firstForward p with
    | none => s
    | some x =>
      let tc := s.forwardTc p x.octets
      let n := fwdQueue p
      let s := (((s.setFwd n ((s.fwdOf n).erase x)).dcqCount n).turnTaken p tc true)
      if !s.portUp p then (s.bhCount p 47 1).bhCount p 41 1
      else
        let op := if s.on TB_CTRL_TC_EN && ptpType x.octets == some 0 then opTc else 0
        let (s, f, _) := s.insert op p x.octets (s.egress p symbol) x.stamp x.from'
        let s := if meet.poison then s.dcqPoison n else s
        ((s.bhCount p 40 1).raiseIf (x.bad || meet.poison) (BHM_STATUS_STOMP p)).sendFrame p tc f (x.bad || meet.poison) meet.cuts

/-! ### Links, preemption and pause (R222, R223, R242, R243) -/

/-- Preemption starts at link up: active at once without verification, else after a respond mPacket (R242). -/
def State.startVerify (s : State) (p : Nat) : State :=
  if !s.on (BHM_CTRL_PREEMPT p) then s
  else if s.on (BHM_CTRL_VERIFY_DIS p) then s.wr (BHM_CTRL_PVERIFIED p) 1
  else
    let e := s.elapsed
    (s.onPort p (fun x => { x with verifies := 1, verifying := true, verifyAt := e })).control p .verify

/-- A port reaches link up, in SGMII with the speed and duplex of the PHY's word (R222, R223, R230). -/
def State.linkUp (s : State) (p speed : Nat) (half : Bool) : State :=
  let st := s.rd (BHM_CTRL_RUNST p)
  if (st != 1 && st != 3) || s.on (BHM_CTRL_LINK p) then s
  else if s.portMode p = 2 ∧ half then s.raise (BHM_STATUS_MODEERR p)
  else
    let s := if s.portMode p = 2 then s.wr (BHM_CTRL_SGSPD p) (min 2 speed) else s
    let s := ((s.wr (BHM_CTRL_LINK p) 1).raise (BHM_STATUS_LINKCHG p)).wr (BHM_CTRL_RUNST p) 1
    let unlike := s.ring == 1 && s.on (BHM_CTRL_LINK (1 - p)) &&
      (s.portMode p != s.portMode (1 - p) || (s.portMode p == 2 && s.rd (BHM_CTRL_SGSPD p) != s.rd (BHM_CTRL_SGSPD (1 - p))))
    let s := (s.onPort p (fun x => { x with mismatch := unlike })).raiseIf unlike (BHM_STATUS_MODEERR p)
    (s.startVerify p).txRun p

/-- A port loses its link (R223). -/
def State.linkDown (s : State) (p : Nat) : State :=
  if !s.on (BHM_CTRL_LINK p) then s
  else
    let s := ((s.wr (BHM_CTRL_LINK p) 0).raise (BHM_STATUS_LINKCHG p)).wr (BHM_CTRL_PVERIFIED p) 0
    s.onPort p (fun x => { x with verifies := 0, verifying := false, mismatch := false })

/-- VERIFY_MS passes without a respond mPacket: another verify mPacket, or VERIFYFAIL after the third (R242). -/
def State.verifyTimer (s : State) (p : Nat) : State :=
  let x := s.port p
  let e := s.elapsed
  if !x.verifying || decide (e < x.verifyAt + s.rd (BHM_TCCFG_VERIFY_MS p) * 1000000) then s
  else if x.verifies < 3 then (s.onPort p (fun x => { x with verifies := x.verifies + 1, verifyAt := e })).control p .verify
  else (s.onPort p (fun x => { x with verifying := false })).raise (BHM_STATUS_VERIFYFAIL p)

/-- A respond mPacket (R242). -/
def State.respond (s : State) (p : Nat) : State :=
  if (s.port p).verifying then (s.onPort p (fun x => { x with verifying := false })).wr (BHM_CTRL_PVERIFIED p) 1 else s

/-- A number of quanta in ns: 512 bit times each (R243). -/
def State.quantaNs (s : State) (p q : Nat) : Nat :=
  if s.portMode p = 1 then q * 2048 / 10
  else if s.portMode p = 2 then q * (if s.rd (BHM_CTRL_SGSPD p) = 0 then 51200 else if s.rd (BHM_CTRL_SGSPD p) = 1 then 5120 else 512)
  else q * 512

/-- The pause watchdog of a class that has been paused without a break for PWD (R243). -/
def State.pauseWatchdog (s : State) (p tc : Nat) : State :=
  match kvFind (s.port p).pauses tc with
  | some z =>
    if z.from' + s.pwd p ≤ z.until' ∧ z.from' + s.pwd p ≤ s.elapsed then
      let t := z.from' + s.pwd p + s.pwd p
      let s := s.onPort p (fun x => { x with pauses := kvErase x.pauses tc, ignore := kvSet x.ignore tc t })
      (s.raise (BHM_STATUS_PAUSEOVR p)).bhCount p 45 1
    else s
  | none => s

/-- A class paused for a number of quanta, 0 ending the pause (R243): never an express class, nor one that ignores pauses. One that comes in the cycle in which the watchdog expires
does not prevent the override. -/
def State.pauseTc (s : State) (p tc q : Nat) : State :=
  let s := s.pauseWatchdog p tc
  let x := s.port p
  let ignored := match kvFind x.ignore tc with
    | some t => decide (s.elapsed < t)
    | none => false
  if s.express p tc || ignored then s
  else if q = 0 then s.onPort p (fun x => { x with pauses := kvErase x.pauses tc })
  else
    let f := match kvFind x.pauses tc with
      | some z => if s.elapsed ≤ z.until' then z.from' else s.elapsed
      | none => s.elapsed
    s.onPort p (fun x => { x with pauses := kvSet x.pauses tc ⟨f, s.elapsed + s.quantaNs p q⟩ })

/-- A received PAUSE frame (`pfc` false, one time for every class) or PFC frame (the classes of `mask`) (R243). -/
def State.pauseReceive (s : State) (p : Nat) (pfc : Bool) (mask : Nat) (quanta : List Nat) : State :=
  if !s.portUp p then s
  else
    let s := (((s.bhCount p 0 64).bhCount p 1 64).bhCount p 2 1).bhCount p (if pfc then 17 else 16) 1
    let s := (s.bhCount p 4 1).bhCount p 6 1
    if pfc then
      (if s.on (BHM_TCCFG_PFC_EN p) then
        (List.range 8).foldl (fun (s : State) tc => if bit mask tc then s.pauseTc p tc (nth 0 quanta tc % 65536) else s) s else s)
    else if s.on (BHM_TCCFG_PAUSE_EN p) then (List.range 8).foldl (fun (s : State) tc => s.pauseTc p tc (nth 0 quanta 0 % 65536)) s
    else s

/-- A pause's quanta run out (R243). -/
def State.pauseExpiry (s : State) (p tc : Nat) : State :=
  match kvFind (s.port p).pauses tc with
  | some z => if z.until' ≤ s.elapsed then s.onPort p (fun x => { x with pauses := kvErase x.pauses tc }) else s
  | none => s

/-! ### Shut-down and takeover (R224, R244) -/

/-- The descriptors between TX_HEAD and TX_TAIL of a ring of `size`, which the port has not fetched. -/
def unfetched (head tail size : Nat) : Nat := (tail % size + size - head % size) % size

/-- The descriptors of a port's ring that wait, by ring index, without repeats. -/
def State.waitingDescs (s : State) (p : Nat) : List Nat :=
  (s.bh.items.filterMap (fun x => match x.owner with
    | some (q, i) => if q = p then some i else none
    | none => none)).eraseDups

/-- Every frame of the ring of a port, and of another ring on this port, dropped with result ABORT (R224). -/
def State.abortPort (s : State) (p : Nat) : State :=
  let s := (s.waitingDescs p).foldl (fun (s : State) i => s.descDone p i 2) s
  (s.bh.items.filter (fun x => x.dueOn p && x.owner.isSome)).foldl (fun (s : State) x => (s.putItem x (x.gone p)).itemDone (x.gone p)) s

/-- A port's shut-down (R223, R224): the queue that feeds it is flushed where it accepts that, what waits is written back with ABORT, TX_HEAD equals TX_TAIL, and the port with its PCS
returns to its reset state of operation, which takes its link down. -/
def State.portShut (s : State) (p : Nat) : State :=
  let n := fwdQueue p
  let s := if s.rd (DCQ_Q_W0_CMDSEL n) = 0 then s.dcqFlush n else s
  let keep := if s.rd (DCQ_Q_W0_CMDSEL n) = 0 then [] else s.fwdOf n
  let s := (s.abortPort p).flushBacks p
  let s := (s.wr (BHM_TX_HEAD_VALUE p) (s.rd (BHM_TX_TAIL_VALUE p))).onPort p (fun _ => { PortState.init with fwd := keep })
  let s := s.raiseIf (s.on (BHM_CTRL_LINK p)) (BHM_STATUS_LINKCHG p)
  let s := (((s.wr (BHM_CTRL_LINK p) 0).wr (BHM_CTRL_SGSPD p) 0).wr (BHM_CTRL_PVERIFIED p) 0).wr (BHM_CTRL_RUNST p) 0
  if s.rd (BHM_CTRL_RUNST (1 - p)) = 0 then { s with bh := { s.bh with dup := [] } } else s

/-- What a takeover does at a port (R244): the rings of the former Active lane are abandoned. -/
def State.portTakeover (s : State) (p : Nat) : State :=
  let n := (s.waitingDescs p).length + unfetched (s.rd (BHM_TX_HEAD_VALUE p)) (s.rd (BHM_TX_TAIL_VALUE p)) (s.txSize p)
  let s := ((s.dropBacks p).setItems (s.bh.items.filter (fun x => match x.owner with | some (q, _) => q != p | none => true))).bhCount p 47 n
  let s := (s.wr (BHM_TX_HEAD_VALUE p) 0).wr (BHM_TX_TAIL_VALUE p) 0
  ((s.wr (BHM_SRX_WR_VALUE p) 0).wr (BHM_SRX_RD_VALUE p) 0).raise (BHM_STATUS_SVCRST p)

/-- The writes that BHM ignores with CFGREJ (R253), by address; CTRL's fields are judged in Machine/Write. -/
def State.bhLocked (s : State) (p a : Nat) : Bool :=
  let b := 0x40090000 + 0x10000 * p
  s.rd (BHM_CTRL_RUNST p) != 0 && (a == b + 0x80 || a == b + 0x84 || a == b + 0x90 || a == b + 0x94)

end Sys2Proof.Machine
end

