-- ==== Sys2Proof/Machine/PoleBus.lean ====
section
/-!
DEFINITION. The pole bus port (R250 to R252, R254): receiving from known nodes, the transmit ring, collisions and backoff, shut-down and takeover.
-/
namespace Sys2Proof.Machine

/-- A pole bus port with nothing in progress. -/
def PoleBus.init : PoleBus := ⟨[], 0, none, false, 0⟩

/-- A change of the pole bus port's state. -/
def State.onPole (s : State) (f : PoleBus → PoleBus) : State := { s with bh := { s.bh with pole := f s.bh.pole } }

/-- Counter `m` of the pole bus advanced; a change of its top bit sets its bit of HALF, and STATHALF (R245, R254). -/
def State.pbCount (s : State) (m n : Nat) : State :=
  let w := if m = 0 ∨ m = 7 then 48 else 40
  let old := s.rd (PBM_CNT_COUNT m)
  let new := (old + n) % 2 ^ w
  let s := s.wr (PBM_CNT_COUNT m) new
  if bit old (w - 1) = bit new (w - 1) then s else (s.wr PBM_HALF_HALF (setBit (s.rd PBM_HALF_HALF) m true)).raise PBM_STATUS_STATHALF

/-- The enabled node, 1 to 7, that holds a source address (R252). -/
def State.poleNode (s : State) (src : Nat) : Option Nat :=
  (List.range 8).find? (fun n => n != 0 && s.on (PBM_NODE_EN n) && s.rd (PBM_NODE_ADDR n) == src)

/-- Carrier sensed, or the medium idle: after a carrier the inter-frame gap of 96 bit times begins (R251). -/
def State.pbCarrier (s : State) (busy : Bool) : State :=
  if busy then s.wr PBM_CTRL_CRS 1
  else if s.on PBM_CTRL_CRS then
    let e := s.elapsed + 9600
    (s.wr PBM_CTRL_CRS 0).onPole (fun p => { p with gapUntil := e })
  else s

/-- A frame received on the pole bus, stamped with the port's replica (R252): an event on channel 74 with its node, or counted and discarded. The carrier ends with it. -/
def State.pbReceive (s : State) (f : Octets) (good : Bool) : State :=
  if s.rd PBM_CTRL_RUNST != 1 then s
  else
    let n := f.length + 4
    let t := s.replica repPole
    let s := ((s.pbCarrier true).pbCarrier false).pbCount 0 n
    if n < 64 then s.pbCount (if good then 3 else 15) 1
    else if !good then s.pbCount 2 1
    else if clampN 64 2000 (s.rd PBM_RXCFG_MAXRX) < n then s.pbCount 4 1
    else
      let s := s.pbCount 1 1
      match s.poleNode (beAt f 6 6) with
      | none => (s.pbCount 5 1).raise PBM_STATUS_UNKNOWN
      | some node =>
        let r := s.dcqOffer 4 (s.event 74 node 0x01 (le 2 f.length ++ [octet 255, octet 0] ++ f) t)
        if r.2 then r.1 else (r.1.pbCount 6 1).raise PBM_STATUS_RXOVF

/-- SIZE of the ring; 0 acts as 1. -/
def State.pbSize (s : State) : Nat := max 1 (s.rd PBM_TX_SIZE_VALUE)

/-- Where descriptor `i` of the ring stands in the Active lane's SRAM. -/
def State.pbSlot (s : State) (i : Nat) : Nat := s.rd PBM_TX_BASE_BASE * 32 + 32 * i

/-- A descriptor of the ring that is to be written back (R237, R251). -/
def State.pbWriteBack (s : State) (i result nseg : Nat) (irq : Bool) : State :=
  { s with bh := { s.bh with backs := s.bh.backs ++ [⟨2, i, result, nseg, irq⟩] } }

/-- A descriptor of the pole bus ring written back. -/
def State.pbWriteNow (s : State) (b : WriteBack) : State :=
  (s.sramWrite s.busLane (s.pbSlot b.index + 28) (le 2 (1 + 2 * b.result) ++ le 2 b.frames)).raiseIf b.irq PBM_STATUS_TXDONE

/-- The oldest write-back that waits is performed (R237). -/
def State.writeBackNext (s : State) : State :=
  match s.bh.backs with
  | [] => s
  | b :: t =>
    let s := { s with bh := { s.bh with backs := t } }
    if b.ring = 2 then s.pbWriteNow b else s.txWriteNow b

/-- Whether the pole bus refuses a descriptor (R238, R251). -/
def State.pbRefused (s : State) (bs : Octets) : Bool :=
  let d := txDesc bs
  octAt bs 8 != 0 || d.segmented || d.len / 131072 != 0 || d.ofl / 16 != 0 || leAt bs 14 2 != 0 || d.len < 14 || 1518 < d.len ||
  !s.txReadable d.addr d.len

/-- One descriptor of the ring fetched. -/
def State.pbFetch (s : State) (i : Nat) : State :=
  let bs := memRead (s.lane s.busLane).sram (s.pbSlot i) 32
  if s.pbRefused bs then ((s.pbCount 13 1).raise PBM_STATUS_TXERR).pbWriteBack i 1 0 (txDesc bs).irq
  else s.onPole (fun x => { x with items := x.items ++ [⟨0, some (2, i), bs, 0, true, false, none, false, false, false⟩] })

/-- The descriptors from TX_HEAD up to TX_TAIL fetched; `n` bounds their number. -/
def pbFetchAll : Nat → State → State
  | 0, s => s
  | n + 1, s =>
    let h := s.rd PBM_TX_HEAD_VALUE
    if h = s.rd PBM_TX_TAIL_VALUE % s.pbSize then s else pbFetchAll n ((s.pbFetch h).wr PBM_TX_HEAD_VALUE ((h + 1) % s.pbSize))

/-- A running pole bus port fetches what its tail allows. -/
def State.pbRun (s : State) : State := if s.rd PBM_CTRL_RUNST = 1 then pbFetchAll s.pbSize s else s

/-- A write of PBM_TX_TAIL. -/
def State.pbTail (s : State) (v : Nat) : State := (s.wr PBM_TX_TAIL_VALUE v).pbRun

/-- The first item leaves the ring with a result. -/
def State.pbFinish (s : State) (x : TxItem) (result nseg : Nat) : State :=
  let s := s.onPole (fun p => { p with items := p.items.drop 1, tries := 0, backoff := none, deferred := false })
  match x.owner with
  | some (_, i) => s.pbWriteBack i result nseg (txDesc x.desc).irq
  | none => s

/-- The frame in hand defers to carrier: counted once for a frame (R251). -/
def State.pbDefer (s : State) : State :=
  if s.bh.pole.items.isEmpty || s.bh.pole.deferred then s else (s.pbCount 9 1).onPole (fun p => { p with deferred := true })

/-- The first frame of the ring sent (R251, R384); `bad`: a word of it has been delivered poisoned. The gap that follows it begins at its end, 8 octets of preamble and SFD, the frame
and its FCS after its start at 800 ns each. -/
def State.pbOut (s : State) (x : TxItem) (bad : Bool) : State :=
  let f := padFrame (s.itemFrame x)
  let c := crc32 f
  let s := ((s.pbCount 7 (f.length + 4)).pbCount 8 1).emit ⟨2, s.now, f, if bad then c.xor 0xFFFFFFFF else c, .whole, 0, 0⟩
  let s := if bad then s.dcqPoison 5 else s
  let e := s.elapsed + (f.length + 12) * 800 + 9600
  (s.pbFinish x (if bad then 2 else 0) (b2n (!bad))).onPole (fun p => { p with gapUntil := e })

/-- The port is ready to send the first frame of the ring, with what it senses of the medium (R251): it sends once no carrier is sensed, the gap after the last one has passed, no
backoff is in being and its queue takes words (R22, R387). -/
def State.pbSend (s : State) (carrier bad : Bool) : State :=
  if s.rd PBM_CTRL_RUNST = 0 ∨ s.rd PBM_CTRL_RUNST = 3 then s
  else
    let s := s.pbCarrier carrier
    if carrier then s.pbDefer
    else match s.bh.pole.items, s.bh.pole.backoff with
      | x :: _, none => if s.elapsed < s.bh.pole.gapUntil ∨ s.dcqOpen 5 = false then s else s.pbOut x bad
      | _, _ => s

/-- A collision of the first frame (R251): a late one ends it, the sixteenth discards it, and any other waits r slot times, r free below
2^min(n, 10). -/
def State.pbCollision (s : State) (late : Bool) : State :=
  match s.bh.pole.items, s.bh.pole.backoff with
  | x :: _, none =>
    let s := s.pbCount 10 1
    let n := s.bh.pole.tries + 1
    if late then ((s.pbCount 11 1).raise PBM_STATUS_LATECOLL).pbFinish x 5 0
    else if 16 ≤ n then ((s.pbCount 12 1).raise PBM_STATUS_EXCOLL).pbFinish x 4 0
    else
      let r := s.freeNat (min n 10)
      s.freeTick.onPole (fun p => { p with tries := n, backoff := some (r, s.elapsed) })
  | _, _ => s

/-- The backoff of r slot times of 51.2 µs has passed (R251). -/
def State.pbBackoff (s : State) : State :=
  match s.bh.pole.backoff with
  | some (r, t) => if t + r * 51200 ≤ s.elapsed then s.onPole (fun p => { p with backoff := none }) else s
  | none => s

/-- The shut-down of the pole bus port (R224): what waits is written back with ABORT. -/
def State.pbShut (s : State) : State :=
  let s := s.bh.pole.items.foldl (fun (s : State) x => s.pbFinish x 2 0) s
  let s := (s.bh.backs.filter (fun b => b.ring == 2)).foldl (fun (s : State) b => s.pbWriteNow b) (s.dropBacks 2)
  ((s.wr PBM_TX_HEAD_VALUE (s.rd PBM_TX_TAIL_VALUE)).onPole (fun _ => PoleBus.init)).wr PBM_CTRL_RUNST 0

/-- What a takeover does at the pole bus (R244, R252). -/
def State.pbTakeover (s : State) : State :=
  let n := s.bh.pole.items.length + unfetched (s.rd PBM_TX_HEAD_VALUE) (s.rd PBM_TX_TAIL_VALUE) s.pbSize
  let s := ((s.dropBacks 2).pbCount 14 n).onPole (fun _ => PoleBus.init)
  ((s.wr PBM_TX_HEAD_VALUE 0).wr PBM_TX_TAIL_VALUE 0).raise PBM_STATUS_SVCRST

/-- The writes that PBM ignores with CFGREJ (R254): PBM_RXCFG, PBM_NODEn and the ring's base and size, but in OFF. -/
def State.pbLocked (s : State) (a : Nat) : Bool :=
  s.rd PBM_CTRL_RUNST != 0 && ((0x400B000C ≤ a && a < 0x400B0050) || a == 0x400B0080 || a == 0x400B0084)

end Sys2Proof.Machine
end

