-- ==== Sys2Proof/Machine/Lanes.lean ====
section
/-!
DEFINITION. The Lane Supervisor (R85 to R106): role changes, taking a lane out and takeover, lane resets, seals and state digests, comparison, suspect and degraded,
state transfer, and what the resident loader does at a lane's seals (R363 to R366).
-/
namespace Sys2Proof.Machine

/-- A lane with nothing in its SRAM and nothing in progress. -/
def LaneState.init : LaneState := ⟨false, none, 0, false, false, false, [], [], none, none, none, none, [], [], false, false, false, .init⟩

/-- A supervisor after a reset. -/
def Supervisor.init : Supervisor := ⟨true, 0, none, none, none, 0, false, false, false, true⟩

/-! ### Role changes and their events (R99, R105) -/

/-- Octet 0 of an event about a lane. -/
def laneOctet : Lane → Byte
  | .A => octet 0
  | .B => octet 1

/-- An event on channel 66 (R105): only a running Sequencer takes it. -/
def State.lscEvent (s : State) (kind : Nat) (p : Octets) : State := if s.crzOn then s.post (s.event 66 0 kind p s.tb.now) else s

/-- The first Crease index that a change of a lane governs (R105): the one after its last digest, or the batch at its read index, or the next to be sealed. -/
def State.governs (s : State) (l : Lane) : Nat :=
  match (s.lane l).formed with
  | some (k, _) => k + 1
  | none => (s.frontIndex l).getD s.nextSeal

/-- The register fields of a lane's last cause and of the times it was taken out, its OUT flag, and its digest registers (R106). -/
def causeField : Lane → Field
  | .A => LSC_CAUSE_A_CAUSE
  | .B => LSC_CAUSE_B_CAUSE
def outsField : Lane → Field
  | .A => LSC_CAUSE_A_OUTS
  | .B => LSC_CAUSE_B_OUTS
def outFlag : Lane → Field
  | .A => LSC_STATUS_OUT_A
  | .B => LSC_STATUS_OUT_B
def digestField : Lane → Field
  | .A => LSC_DIG_A_DIGEST
  | .B => LSC_DIG_B_DIGEST
def digestIndex : Lane → Field
  | .A => LSC_DIGIDX_A_IDX
  | .B => LSC_DIGIDX_B_IDX

/-- A lane's role changed with its KIND 0x01 event (R105). -/
def State.setRole (s : State) (l : Lane) (new cause : Nat) : State :=
  let old := s.role l
  let g := s.governs l
  (s.wr (roleField l) new).lscEvent 0x01 ([laneOctet l, octet new, octet old, octet cause] ++ le 8 g)

/-! ### The causes of R106 -/

abbrev causeLockstep : Nat := 1
abbrev causeSramUe : Nat := 2
abbrev causeDelivDig : Nat := 3
abbrev causeLag : Nat := 4
abbrev causeSlow : Nat := 5
abbrev causeDigMis : Nat := 6
abbrev causeCmd : Nat := 7
abbrev causeBist : Nat := 8
abbrev causeUpdate : Nat := 9
abbrev causeXfer : Nat := 10

/-! ### Comparison and the suspect window (R98, R100) -/

/-- SUSP_CNT falls by 1 for a Crease after the first mismatch, once (R100); at 0 the suspicion ends. The Creases are settled in the order of their digests. -/
def State.settle (s : State) (k : Nat) : State :=
  if s.lsc.compared = some k then s
  else
    let s := { s with lsc := { s.lsc with compared := some k } }
    if !s.on LSC_ROLE_SUSPECT then s
    else
      let c := s.rd LSC_ROLE_SUSP_CNT - 1
      let s := s.wr LSC_ROLE_SUSP_CNT c
      if c = 0 then (s.wr LSC_ROLE_SUSPECT 0).lscEvent 0x03 (le 8 k) else s

/-- A lane's held commit buffer released (R95, R97). -/
def State.releaseBuf (s : State) (l : Lane) : State := s.onLane l (fun x => { x with sealedBuf := none })

/-- A lane's records that no drain performs are discarded (R97). -/
def State.discardIdle (s : State) (l : Lane) : State :=
  match (s.lane l).sealedBuf with
  | some b => if b.active then s else s.releaseBuf l
  | none => s

/-- The records of Crease `k` are drained already, or those of the lane given are the ones that are drained (R97). -/
def State.taken (s : State) (l : Lane) (k : Nat) : Bool :=
  decide (k < s.lsc.nextDrain) || (match (s.lane l).sealedBuf with
    | some b => b.active && b.k == k
    | none => false)

/-- A lane that becomes ACTIVE has formed the digest of its sealed Crease as the Active lane, unless that Crease is taken: its records are the ones drained, and
FINAL is set (R81, R97, R101). -/
def State.claimSealed (s : State) (l : Lane) : State :=
  match (s.lane l).sealedBuf with
  | some b =>
    if b.active || s.taken l.other b.k then s
    else (s.onLane l (fun x => { x with sealedBuf := some { b with active := true } })).coverFinal b.k
  | none => s

/-! ### What the loader does as a lane leaves (R364, R366) -/

/-- VERSION of what an update brings: of the new firmware, or of the new CFG for KIND 2. -/
def State.newVersion (s : State) : Nat :=
  if s.rd RLD_STATE_KIND = 2 then containerVersion (s.acmRead (slotBase (2 + s.rld.newCfg)) 128)
  else containerVersion (s.acmRead (slotBase (s.rd RLD_STATE_NEWSLOT)) 128)

/-- A KIND 0x03 event (R367). -/
def State.verdictEvent (s : State) (pass : Bool) (cause : Nat) : State :=
  s.rldEvent 0x03 ([octet (b2n pass), octet cause] ++ zeros 2 ++ le 4 s.newVersion ++ le 8 (s.creaseOf s.now))

/-- The loader sees a lane taken out (R364): while SPLIT is 1 in a trial, LANEOUT for Lane A and ACTOUT for Lane B; a swap it commanded at TACT is given up (R362). -/
def State.rldLaneOut (s : State) (l : Lane) : State :=
  if s.rld.step = .swapping then s.setStep .none
  else if s.upState = upTrial ∧ s.on LSC_CTRL_SPLIT then
    let c := if l = .A then 4 else 5
    ((s.upCause c).verdictEvent false c).setStep (if l = .A then .restoring else .splitB) |>.upTo upRollback
  else s

/-! ### Taking a lane out (R88, R99, R101) -/

/-- The fields of SAF_BIST for a lane (R409). -/
def bistRunField : Lane → Field
  | .A => SAF_BIST_RUN_A
  | .B => SAF_BIST_RUN_B
def bistResField : Lane → Field
  | .A => SAF_BIST_RES_A
  | .B => SAF_BIST_RES_B
def bistBlockField : Lane → Field
  | .A => SAF_BIST_BLOCK_A
  | .B => SAF_BIST_BLOCK_B

/-- The event of a BIST result (R408): its lane, result and origin, and a signature. -/
def State.bistEvent (s : State) (l : Lane) (res origin sig : Nat) : Event :=
  s.event 68 0 0x01 ([laneOctet l, octet res, octet origin] ++ zeros 5 ++ le 8 sig) s.tb.now

/-- A BIST that runs is abandoned as the other lane faults (R405). -/
def State.bistAbandon (s : State) : State :=
  match s.saf.bist with
  | none => s
  | some b =>
    let s := { s with saf := { s.saf with bist := none } }
    let s := ((s.wr (bistRunField b.lane) 0).wr (bistResField b.lane) 4).raise SAF_STATUS_BISTDONE
    s.post (s.bistEvent b.lane 4 b.origin 0)

/-- The other lane takes over (R101): with it the rings of the DMA engine and the ports; with no lane in service NOLANE is set and a reset is due. -/
def State.takeover (s : State) (l : Lane) : State :=
  let o := l.other
  if s.role o = roleShadow then
    let s := ((s.setRole o roleActive 0).raise LSC_STATUS_TAKEOVER).claimSealed o
    ((((s.discardIdle o).dmaTakeover).portTakeover 0).portTakeover 1).pbTakeover
  else ({ s.raise LSC_STATUS_NOLANE with lsc := { s.lsc with noLane := true } }).bistAbandon

/-- A lane taken out with a cause (R88 steps 1 to 3): its records without a digest are discarded, nothing waits for it, and it waits for its reset. -/
def State.leave (s : State) (l : Lane) (cause : Nat) : State :=
  let old := s.role l
  let g := s.governs l
  let mip := s.lane l |>.mip17
  let s := ((s.wr (causeField l) cause).countSat (outsField l) LSC_STATUS_SVCSAT).raise (outFlag l)
  let s := s.onLane l (fun x => { x with fill := [], sealing := none, closed := false, held := false, leaving := true, mip17 := mip || cause != causeDigMis })
  let s := (s.wr (LSC_CB_USED l) 0).discardIdle l
  (s.unwait l (fun _ => true)).lscEvent 0x01 ([laneOctet l, octet roleOut, octet old, octet cause] ++ le 8 g)

/-- The Crease of the Active lane's last digest is settled where the comparison it waited for is no longer due (R97, R100). -/
def State.settleAlone (s : State) : State :=
  match s.activeLane with
  | some a => match (s.lane a).formed with
    | some (k, _) => if s.isShadow a.other then s else s.settle k
    | none => s
  | none => s

/-- A lane taken out (R88, R99): an Active lane is followed by the other (R101), and the loader sees it. A lane that has left already is not taken out again. -/
def State.takeOut (s : State) (l : Lane) (cause : Nat) : State :=
  let r := s.role l
  if r = roleOut ∨ r = roleOff ∨ r = roleBist then s
  else
    let s := s.leave l cause
    let s := if r = roleActive then s.takeover l else s
    (s.settleAlone).rldLaneOut l

/-- A lane fault (R88): it also cancels an entry into Day Rest (R248). -/
def State.laneFault (s : State) (l : Lane) (cause : Nat) : State :=
  let s := if s.rd BHM0_DR_STAT_STATE = 1 then s.drEnd none false false else s
  s.takeOut l cause

/-- The reset of a lane (R30, R31, R88 step 4): its cores, its banked SYS registers, its holding registers and its SRAM, which is refilled; its state is OUT, or BOOT after BIST. Its units in
Felter and Escort keep what they hold. -/
def State.laneReset (s : State) (l : Lane) (new : Nat) : State :=
  let x := s.lane l
  let s := s.setLane l { LaneState.init with refilling := true, sealedBuf := x.sealedBuf, staging := x.staging }
  let s := ((s.wr (SYS_IRQ_EN_EN l) 0).wr (LSC_CB_USED l) 0).wr (LSC_CB_PEAK l) 0
  (s.wr (roleField l) new).raise (match l with
    | .A => SYS_RESET_CAUSE_LANEA
    | .B => SYS_RESET_CAUSE_LANEB)

/-- LSC resets a lane that has been taken out, 16 lane cycles after (R88 step 4). -/
def State.resetLeft (s : State) (l : Lane) : State := if (s.lane l).leaving then s.laneReset l roleOut else s

/-- The refill of a lane's SRAM ends (R31, R88 step 5): the lane starts at the boot ROM, and its state becomes BOOT. -/
def State.refillDone (s : State) (l : Lane) : State :=
  if !(s.lane l).refilling then s
  else
    let s := s.onLane l (fun x => { x with refilling := false })
    if s.rd (roleField l) = roleOut then s.setRole l roleBoot 0 else s

/-- 16 lane cycles with no lane in service (R101): the system reset is due. -/
def State.noLaneDue (s : State) : Bool := s.lsc.noLane

/-! ### Commit records and the state digest (R93 to R96) -/

/-- A store in deterministic context as a commit record; record 32,769 of a Crease is not recorded (R93, R95). The Bool says whether it was. -/
def State.recordStore (s : State) (l : Lane) (a v : Nat) : State × Bool :=
  let n := (s.lane l).fill.length
  if 32768 ≤ n then ((s.raise LSC_STATUS_CBOVF).trapLane l .storeFault, false)
  else
    let s := s.onLane l (fun x => { x with fill := x.fill ++ [(a, v)] })
    ((s.wr (LSC_CB_USED l) (n + 1)).peak (LSC_CB_PEAK l) (n + 1), true)

/-- O_k: the SHA-256 of the records in program order (R96). -/
def recordsDigest (rs : List (Nat × Nat)) : Octets := sha256 ((rs.map (fun r => le 4 r.1 ++ le 4 r.2)).flatten)

/-- The declared regions of a lane, in table order: offset and length in octets (R96, R106). -/
def State.srgTable (s : State) (l : Lane) : List (Nat × Nat) :=
  (List.range 16).map (fun n => (s.rd (LSC_SRG_BASE_BASE n l) * 32, s.rd (LSC_SRG_LEN_LEN n l) * 32))

/-- An entry of T: BASE and LEN as in LSC_SRG, an unused entry zero (R96). -/
def srgOctets (r : Nat × Nat) : Octets := if r.2 = 0 then zeros 8 else le 4 r.1 ++ le 4 (r.2 / 32)

/-- T of a lane (R96). -/
def State.tableOctets (s : State) (l : Lane) : Octets := ((s.srgTable l).map srgOctets).flatten

/-- The contents of a lane's declared regions in table order. -/
def State.regionOctets (s : State) (l : Lane) : Octets := ((s.srgTable l).map (fun r => memRead (s.lane l).sram r.1 r.2)).flatten

/-- G_k (R96). -/
def State.stateDigest (s : State) (l : Lane) (k : Nat) : Octets :=
  sha256 (le 8 k ++ recordsDigest (s.lane l).fill ++ s.tableOctets l ++ s.regionOctets l)

/-- A seal write with SEAL = 1 (R94 step 1): from service context it faults; with a batch at the read index the lane is closed and its digest is begun. -/
def State.sealWrite (s : State) (l : Lane) (v : Nat) : State :=
  if !(s.lane l).det then s.trapLane l .storeFault
  else if v % 2 = 0 ∨ (s.lane l).sealing.isSome then s
  else match s.frontIndex l with
    | some k => s.onLane l (fun x => { x with closed := true, sealing := some k })
    | none => s

/-! ### Mismatch (R100) -/

/-- The digests of a Crease differ (R100): suspect, or degraded where the lanes are suspect already; the Shadow lane is taken out. -/
def State.mismatch (s : State) (k : Nat) (shadow : Lane) : State :=
  let second := s.on LSC_ROLE_SUSPECT
  let s := ((s.raise LSC_STATUS_MISMATCH).wr LSC_MIS_IDX_IDX k).lscEvent 0x02 (le 8 k ++ [octet (b2n second)])
  let s := if second then
      (((s.wr LSC_ROLE_DEGRADED 1).raise LSC_STATUS_DEGRADE).lscEvent 0x04 [octet 1, octet 1]).settle k
    else
      let s := ((s.wr LSC_ROLE_SUSPECT 1).raise LSC_STATUS_SUSPECT).wr LSC_ROLE_SUSP_CNT 64
      { s with lsc := { s.lsc with compared := some k } }
  s.takeOut shadow causeDigMis

/-- Whether the digests of Crease `k` are to be compared (R98): both lanes are in service, so that neither is in fault (R100). -/
def State.comparable (s : State) (k : Nat) : Bool :=
  !s.on LSC_CTRL_SPLIT && s.inService .A && s.inService .B && (s.lane .A).formed == some (k, true) && (s.lane .B).formed == some (k, true)

/-- Whether a comparison of Crease `k`, whose digest one lane has formed, may still be made: the lane given is in service and has begun or will begin it so. -/
def State.comparisonDue (s : State) (k : Nat) (l : Lane) : Bool :=
  s.inService l && !s.on LSC_CTRL_SPLIT && (match (s.lane l).formed with
    | some (j, _) => decide (j < k)
    | none => true)

/-- The idle records of Crease `k` of either lane discarded where its drained records are the other lane's (R97). -/
def State.discardTaken (s : State) (k : Nat) : State :=
  let drop := fun (s : State) (l : Lane) =>
    if (s.lane l).sealedBuf.map (·.k) = some k ∧ s.taken l.other k = true then s.discardIdle l else s
  drop (drop s .A) .B

/-- The comparison that a digest of Crease `k` completes, if one is due, and what follows (R97, R98, R100). -/
def State.compare (s : State) (k : Nat) : State :=
  match s.activeLane with
  | none => s
  | some a =>
    if s.comparable k then
      let s := s.discardTaken k
      if s.rd LSC_DIG_A_DIGEST = s.rd LSC_DIG_B_DIGEST then s.settle k else s.mismatch k a.other
    else if s.comparisonDue k .A || s.comparisonDue k .B then s
    else
      let s := s.discardTaken k
      if (s.lane a).formed.map (·.1) = some k then s.settle k else s

/-! ### Swap (R99) -/

/-- The roles of the lanes exchanged (R99). -/
def State.swapRoles (s : State) (a : Lane) : State :=
  if s.role a = roleActive ∧ s.role a.other = roleShadow then ((s.setRole a roleShadow 0).setRole a.other roleActive 0).claimSealed a.other else s

/-! ### State transfer (R103) -/

/-- Whether a join by a lane is made without step 1 and the table check: the split join (R363, R366). -/
def State.splitJoin (s : State) (l : Lane) : Bool := s.on LSC_CTRL_SPLIT && (l == .A || s.rld.step == .splitB)

/-- The declared regions copied into the joining lane's SRAM (R103 step 1). -/
def State.copyRegions (s : State) (a : Lane) : State :=
  let src := (s.lane a).sram
  s.onLane a.other (fun x => { x with sram := (s.srgTable a).foldl (fun m r => memWrite m r.1 (memRead src r.1 r.2)) x.sram })

/-- The slots of an event queue copied from one SRAM to the other (R103 step 3). -/
def copySlots (s : State) (src : List Host.Cell) : Nat → Nat → List Host.Cell → List Host.Cell
  | 0, _, m => m
  | n + 1, i, m => copySlots s src n (i + 1) (memWrite m (s.eqSlot i) (memRead src (s.eqSlot i) 32))

/-- The indices of the batches that a lane's queue holds (R103, R120). -/
def queueIndices (s : State) (m : List Host.Cell) (wr : Nat) : Nat → Nat → List Nat
  | 0, _ => []
  | n + 1, i =>
    if i % s.eqSize = wr then []
    else
      let h := memRead m (s.eqSlot i) 32
      leAt h 0 8 :: queueIndices s m wr n (i + 2 + leAt h 8 4)

/-- The Felter entries, the Escort state and the queue given to the joining lane (R103 steps 3 and 4, R120, R153); batches that still wait for the Active lane
wait for both. -/
def State.copyUnits (s : State) (a : Lane) : State :=
  let src := (s.lane a).sram
  let rdI := s.rd (CRZ_EQ_RD_RD a)
  let wrI := s.rd (CRZ_EQ_WR_WR a)
  let ks := queueIndices s src wrI s.eqSize rdI
  let s := s.onLane a.other (fun x => { x with sram := copySlots s src (s.eqUsed a) rdI x.sram })
  let s := { s with flt := s.flt.setUnit a.other ((s.flt.unit a).filter (fun e => ks.contains e.k)) }
  let e := s.esc a
  let s := s.setEsc a.other { e with outs := e.outs.filter (fun o => ks.contains o.k) }
  let s := (s.wr (CRZ_EQ_RD_RD a.other) rdI).wr (CRZ_EQ_WR_WR a.other) wrI
  { s with crz := { s.crz with sealed := s.crz.sealed.map (fun b => if b.waits a then { b with forA := true, forB := true } else b) } }

/-- What the loader does as a lane becomes SHADOW (R365, R366): after a PASS Lane B ends the window; after ACTOUT its first seal is awaited. -/
def State.rldShadow (s : State) (l : Lane) : State :=
  if l = .B ∧ s.rld.step = .joinB then ((s.wr LSC_CTRL_SPLIT 0).setStep .none).upTo upIdle
  else if l = .B ∧ s.rld.step = .splitB then s.setStep .firstSealB
  else s

/-- The transfer at the Active lane's seal of Crease `j` (R103), after its read index has advanced: a table T unlike the Active lane's sends the joining lane
out with XFER. -/
def State.transfer (s : State) (a : Lane) (j : Nat) : State :=
  let o := a.other
  if s.role o != roleJoining then s
  else
    let split := s.splitJoin o
    if !split && s.tableOctets a != s.tableOctets o then s.takeOut o causeXfer
    else
      let s := (if split then s else s.copyRegions a).copyUnits a
      let s := (s.setRole o roleShadow 0).raise LSC_STATUS_REJOINED
      let front := s.frontIndex o
      let s := s.onLane o (fun x => { x with formed := some (j, false), began := front.map (fun k => (k, true)), sealing := none, closed := false })
      s.rldShadow o

/-! ### The split window and the commit at a seal (R363, R365, R366) -/

/-- The split-version window opens (R363 step 2): Lane A is taken out, SPLIT and TRIAL are set, and the loader writes the code store. -/
def State.openWindow (s : State) : State :=
  let s := (s.setStep .none).takeOut .A causeUpdate
  ((s.wr LSC_CTRL_SPLIT 1).wr PST_SETSEL_TRIAL 1).upTo upWriting

/-- What the loader does at a lane's seal: the swap of R363, the change of lanes of R365 step 3, and the return of R366. -/
def State.rldSeal (s : State) (l : Lane) : State :=
  match s.rld.step with
  | .swapping => if l = .A ∧ s.role .A = roleActive ∧ s.role .B = roleShadow then (s.swapRoles .A).openWindow else s
  | .sealB =>
    if l = .B ∧ s.role .B = roleActive ∧ s.role .A = roleShadow then ((s.swapRoles .B).setStep .joinB).takeOut .B causeUpdate else s
  | .firstSealB =>
    if l = .B ∧ s.role .A = roleActive ∧ s.role .B = roleShadow then ((s.swapRoles .A).setStep .restoring).takeOut .A causeUpdate else s
  | _ => s

/-! ### The completion of a seal (R94 steps 2 to 4) -/

/-- A Shadow lane that has not formed the digest before the Active lane's present one is taken out (R99, SLOW); that earlier digest is compared no more, and its Crease is settled (R100). -/
def State.slowCheck (s : State) (a : Lane) (prev : Option (Nat × Bool)) : State :=
  match prev with
  | none => s
  | some (p, _) =>
    let behind := match (s.lane a.other).formed with
      | some (j, _) => decide (j < p)
      | none => true
    if s.isShadow a.other && behind then (s.settle p).takeOut a.other causeSlow else s

/-- The digest of Crease `k` formed by a lane, its commit buffer closed (R94, R95, R97). -/
def State.formDigest (s : State) (l : Lane) (k : Nat) : State :=
  let g := s.stateDigest l k
  let x := s.lane l

  let act := s.role l == roleActive && !s.taken l.other k
  let ok := match x.began with
    | some (j, b) => j == k && b
    | none => false
  let s := s.onLane l (fun x => { x with sealing := none, closed := false, fill := [], sealedBuf := some ⟨k, x.fill, act⟩, formed := some (k, ok) })
  (((s.wr (LSC_CB_USED l) 0).wr (digestField l) (leVal g)).wr (digestIndex l) k).felterSealed l k |>.escortSealed l k

/-- What follows at the Active lane's seal: FINAL, the SLOW check, the transfer, and a swap commanded (R81, R99, R103). -/
def State.activeSeal (s : State) (l : Lane) (k : Nat) (prev : Option (Nat × Bool)) : State :=
  let s := { s.coverFinal k with lsc := { s.lsc with formedAt := s.elapsed } }
  let s := s.slowCheck l prev
  let s := s.transfer l k
  if s.lsc.swap then { s with lsc := { s.lsc with swap := false } }.swapRoles l else s

/-- A seal completes (R94): it stalls while the lane's other buffer is held (R95); that of k_last in Day Rest is held at step 4 (R248). -/
def State.sealDone (s : State) (l : Lane) : State :=
  match (s.lane l).sealing with
  | none => s
  | some k =>
    if (s.lane l).sealedBuf.isSome then s
    else
      let prev := (s.lane l).formed
      let was := s.role l == roleActive
      let last := s.crz.rest && s.rd BHM0_DR_KIDX_IDX == k
      let s := s.formDigest l k
      let s := if last then s.onLane l (fun x => { x with held := true, closed := true }) else s.advanceRead l
      let s := if was then s.activeSeal l k prev else s
      (s.compare k).rldSeal l

/-! ### Commands (R99, R100) -/

/-- TAKEOUT of a lane (R99): a SHADOW lane, or an ACTIVE lane whose other lane is SHADOW; otherwise ignored. -/
def State.takeOutCmd (s : State) (l : Lane) : State :=
  if s.role l = roleShadow ∨ (s.role l = roleActive ∧ s.role l.other = roleShadow) then s.takeOut l causeCmd else s

/-- SWAP (R99): made at the Active lane's next seal. -/
def State.swapCmd (s : State) : State :=
  match s.activeLane with
  | some a => if s.isShadow a.other then { s with lsc := { s.lsc with swap := true } } else s
  | none => s

/-- REJOIN (R100): DEGRADED clears, and a lane in BOOT may join. -/
def State.rejoinCmd (s : State) : State :=
  let was := s.on LSC_ROLE_DEGRADED
  let s := { s.wr LSC_ROLE_DEGRADED 0 with lsc := { s.lsc with rejoin := true } }
  if was then s.lscEvent 0x04 [octet 0, octet 3] else s

/-- LSC_JOIN written 1 from a lane in BOOT (R99, R406). With AUTOREJOIN = 0 the permission of a REJOIN command stands until one join has used it (DESIGN CHOICE,
notes/assumptions/22: the spec does not say how long). -/
def State.joinWrite (s : State) (l : Lane) (v : Nat) : State :=
  let may := s.on LSC_CTRL_AUTOREJOIN || s.lsc.rejoin
  if v % 2 = 1 ∧ s.role l = roleBoot ∧ may ∧ !s.on LSC_ROLE_DEGRADED ∧ s.role l.other = roleActive ∧ !s.blocked l ∧ !(s.lane l).refilling then
    { s with lsc := { s.lsc with rejoin := false } }.setRole l roleJoining 0
  else s

/-- CMP_WAIT in ns (R97); 0 acts as 1. -/
def State.cmpWait (s : State) : Nat := max 1 (s.rd LSC_CMP_WAIT_WAIT) * 100000

/-- A Shadow lane that has not formed digest `k` (R97). -/
def State.digestAwaited (s : State) (k : Nat) (shadow : Lane) : Bool :=
  s.isShadow shadow && (match (s.lane shadow).formed with
    | some (j, _) => decide (j < k)
    | none => true)

/-- CMP_WAIT has passed since the Active lane's digest without the Shadow's (R97). -/
def State.cmpExpire (s : State) : State :=
  match s.activeLane with
  | none => s
  | some a => match (s.lane a).formed with
    | none => s
    | some (k, _) =>
      let drained := decide (k < s.lsc.nextDrain)
      if drained || s.lsc.cmpExpired == some k || s.elapsed < s.lsc.formedAt + s.cmpWait || !s.digestAwaited k a.other then s
      else { s.raise LSC_STATUS_CMPTMO with lsc := { s.lsc with cmpExpired := some k } }

/-- The lanes take their cold-start roles in the cycle of the write of CRZ_CTRL.EN = 1 (R99): lanes in BOOT without BLOCK. -/
def State.coldRoles (s : State) : State :=
  if !s.lsc.coldStart then s
  else
    let c := s.coldLane
    let free := fun (s : State) (l : Lane) => s.role l == roleBoot && !s.blocked l
    let first := if free s c then c else c.other
    let s := if free s first then s.setRole first roleActive 0 else s
    let s := if free s first.other then s.setRole first.other roleShadow 0 else s
    { s with lsc := { s.lsc with coldStart := false } }

/-! ### The closure of a Crease with its lagging lanes (R71, R74, R102) -/

/-- A lane that still waits for a batch as the next is sealed, other than in a hold (R74, R103). -/
def State.lagging (s : State) (l : Lane) : Bool := s.inService l && (s.waitingBatch l).isSome && !s.deliveryHeld l

/-- The lane that R102 takes out: the lagging one of two, or of two lagging the Shadow. -/
def State.lagOut (s : State) : State :=
  match s.activeLane with
  | none => s
  | some a =>
    let b := a.other
    if !s.inService b then s
    else if s.lagging a && s.lagging b then s.laneFault b causeLag
    else if s.lagging a then s.laneFault a causeLag
    else if s.lagging b then s.laneFault b causeLag
    else s

/-- The only lane in service that lags loses its older batch: GAP, DEGRADE and a KIND 0x04 event (R102). -/
def State.lagAlone (s : State) : State :=
  match s.activeLane with
  | none => s
  | some a =>
    if s.inService a.other || !s.lagging a then s
    else
      let s := s.unwait a (fun _ => true)
      ({ s with crz := { s.crz with gap := true } }.raise LSC_STATUS_DEGRADE).lscEvent 0x04 [octet 1, octet 2]

/-- The closure of the Crease that is sealed next (R71): lagging lanes first, then the seal, and k_last of Day Rest marked (R248). -/
def State.closeCrease (s : State) (bad : Bool) : State :=
  if !s.closureDue then s
  else
    let s := s.lagOut.lagAlone
    let k := s.nextSeal
    (s.sealBatch k bad).markLast k

end Sys2Proof.Machine
end

