-- ==== Sys2Proof/Machine/Metering.lean ====
section
/-!
DEFINITION. Metering (R255 to R279): the samples, the current paths, mains cycles and free windows, energy, the Crease summary, start and stop, and
the SF1 residual-current trip.
-/
namespace Sys2Proof.Machine

/-! ### Rounding (notes/assumptions/6) -/

/-- A quotient of a signed numerator rounded by its magnitude. -/
def rndI (num : Int) (den : Nat) : Int := if num < 0 then -(rnd num.natAbs den : Nat) else (rnd num.natAbs den : Nat)

/-- The integer square root, by binary digits from 2^`n` down. -/
def isqrt : Nat → Nat → Nat → Nat
  | 0, r, v => if (r + 1) * (r + 1) ≤ v then r + 1 else r
  | n + 1, r, v => isqrt n (if (r + 2 ^ (n + 1)) * (r + 2 ^ (n + 1)) ≤ v then r + 2 ^ (n + 1) else r) v

/-- The square root of a quotient, rounded as `rnd` rounds. -/
def rootOf (num den : Nat) : Nat :=
  let r := isqrt 96 0 (num / den)
  r + (if r * r * den = num then 0 else b2n (Config.rounds num den))

/-! ### Settings (R255, R258 to R265) -/

/-- The interval of samples in ns (R257). -/
def sampleNs : Nat := 62500

/-- VFS, IFS and NFS in 0.01 V or 0.01 A; 0 acts as 1 (R280). -/
def State.vfs (s : State) : Nat := max 1 (s.rd MTR_SCALE_V_FS)
def State.ifs (s : State) : Nat := max 1 (s.rd MTR_SCALE_I_FS)
def State.nfs (s : State) : Nat := max 1 (s.rd MTR_SCALE_N_FS)

/-- The reference phase: 0 to 2, 3 acting as 0 (R280). -/
def State.refPhase (s : State) : Nat := if s.rd MTR_CFG_REFPH = 3 then 0 else s.rd MTR_CFG_REFPH

/-- The samples of a nominal cycle and of a crossing timeout (R262). -/
def State.nominal (s : State) : Nat := if s.on MTR_CFG_NOMF then 267 else 320
def State.zcTimeout (s : State) : Nat := if s.on MTR_CFG_NOMF then 400 else 480

/-- The bit of a phase in a field of MTR_PHST. -/
def State.phBit (s : State) (f : Field) (p : Nat) : Bool := bit (s.rd f) p

/-- The bit of a phase in a field of MTR_PHST set or cleared. -/
def State.setPhBit (s : State) (f : Field) (p : Nat) (b : Bool) : State := s.wr f (setBit (s.rd f) p b)

/-- A phase that has seen nothing. -/
def MeterPhase.init : MeterPhase := ⟨false, none, 0, false, 0, 0, 0, 0, 0, false, false, 0, 0, 0, none⟩

/-- The state of phase `p`. -/
def State.phase (s : State) (p : Nat) : MeterPhase := nth MeterPhase.init s.mtr.phases p

/-- A change of the state of phase `p`. -/
def State.onPhase (s : State) (p : Nat) (f : MeterPhase → MeterPhase) : State :=
  { s with mtr := { s.mtr with phases := updNth f s.mtr.phases p } }

/-! ### Calibration (R260) -/

/-- Calibration set `c` applied to a raw sample: its factory trim, OFS, GAIN and PH. The value is in 1/2^`frac` of a sample unit. -/
def State.calibrate (s : State) (c frac : Nat) (raw : Int) : State × Int :=
  let t := match kvFind s.otp.trims c with
    | some code => Config.meterTrim code raw
    | none => raw
  let v := rndI ((t - s.rdI (MTR_CAL_W2_OFS c)) * ((s.rd (MTR_CAL_W0_GAIN c) * 2 ^ frac : Nat) : Int)) 4194304
  let ph := s.rdI (MTR_CAL_W1_PH c)
  if ph = 0 then (s, v) else (s.freeTick, Config.timeShift s.freeCount ph v)

/-- A sample of a path held within its full scale: R259 clips in compatibility mode. -/
def clipRaw (raw : Int) : Int := clampI (-8388608) 8388608 raw

/-- The current of a phase in native mode: the LO sample where it lies within 0.875 of the LO full scale, else the HI sample (R258). In sixteenths of a
unit of the HI path. -/
def State.nativeCurrent (s : State) (p : Nat) (raw : List Int) : State × Int :=
  let (s, lo) := s.calibrate (8 + p) 0 (nth 0 raw (8 + p))
  if lo.natAbs ≤ 7340032 then (s, lo) else s.calibrate (3 + p) 4 (nth 0 raw (3 + p))

/-- A change of gain: the gain, the four settling samples, of which the fifth sample ends the count, SW_CNT and GAINSW (R259). -/
def State.gainTo (s : State) (p : Nat) (g16 : Bool) (before : Int) : State :=
  let s := (s.setPhBit MTR_PHST_G16 p g16).onPhase p (fun x => { x with settle := 5, base := before, low := 0 })
  (s.count MTR_SW_CNT_COUNT MTR_STATUS_CNTWRAP).raise MTR_STATUS_GAINSW

/-- The current of a phase in compatibility mode: one path with the gain in force, clipped at its full scale; beyond 0.875 of the ×16 full scale the
gain goes to ×1 from the next sample (R259). -/
def State.compatCurrent (s : State) (p : Nat) (raw : List Int) : State × Int :=
  let g16 := s.phBit MTR_PHST_G16 p
  let x := if g16 then nth 0 raw (8 + p) else nth 0 raw (3 + p)
  let s := if x.natAbs ≤ 8388608 then s else (s.count MTR_CLIP_CNT_COUNT MTR_STATUS_CNTWRAP).raise MTR_STATUS_CLIP
  let (s, v) := if g16 then s.calibrate (8 + p) 0 (clipRaw x) else s.calibrate (3 + p) 4 (clipRaw x)
  if g16 && 7340032 < x.natAbs && decide ((s.phase p).settle ≤ 1) then (s.gainTo p false v, v) else (s, v)

/-! ### Windows (R261 to R263) -/

/-- The sample whose number is `n`, if it is still held. -/
def sampleAt (h : List MeterSample) (n : Nat) : Option MeterSample := h.find? (fun x => x.n == n)

/-- The voltage of phase `p` delayed by a quarter of a duration in ns, in 1/250,000 of a unit: interpolated between two samples, `none` where a sample is not
held (R263). -/
def delayedV (h : List MeterSample) (p n dur : Nat) : Option Int :=
  let q := dur / (4 * sampleNs)
  let r := dur % (4 * sampleNs)
  match sampleAt h (n - q), sampleAt h (n - q - 1) with
  | some a, some b => some (nth 0 a.v p * ((4 * sampleNs - r : Nat) : Int) + nth 0 b.v p * (r : Int))
  | some a, none => if r = 0 then some (nth 0 a.v p * ((4 * sampleNs : Nat) : Int)) else none
  | none, _ => none

/-- The sum of a list of integers each of which may be missing. -/
def sumO : List (Option Int) → Option Int
  | [] => some 0
  | some a :: as => (sumO as).map (a + ·)
  | none :: _ => none

/-- The sums of one phase over a window (R263): the number of samples, Σv², Σi² (1/256), Σvi (1/16) and Σv90·i (1/4,000,000). -/
structure MeterSums where
  n : Nat
  vv : Nat
  ii : Nat
  p : Int
  q : Option Int
deriving DecidableEq, Repr

/-- The samples of a window: those whose instants lie in [ts, te) (R263). -/
def windowSamples (h : List MeterSample) (ts te : Nat) : List MeterSample := h.filter (fun x => ts ≤ x.n * sampleNs && x.n * sampleNs < te)

/-- The sums of phase `p` over the samples of a window. -/
def sumsOf (h w : List MeterSample) (p dur : Nat) : MeterSums :=
  ⟨w.length, sumN (w.map (fun x => (nth 0 x.v p).natAbs ^ 2)), sumN (w.map (fun x => (nth 0 x.i p).natAbs ^ 2)),
    sumI (w.map (fun x => nth 0 x.v p * nth 0 x.i p)),
    sumO (w.map (fun x => (delayedV h p x.n dur).map (· * nth 0 x.i p)))⟩

/-- Irms below IST (R264): IST is 0.00001 × IST_CODE of IFS/√2. -/
def belowIst (s : State) (m : MeterSums) : Bool :=
  2 * m.ii * 10000000000 < m.n * s.rd MTR_CFG_IST_CODE ^ 2 * (8388608 * 16) ^ 2

/-- The denominator of a power in mW: the sum of products is in 1/16 unit, the scales in 0.01 V and 0.01 A. -/
def powerDen (n : Nat) : Nat := 16 * n * 2 ^ 46 * 10

/-- The energy of a summed power over a duration in ns, in 2^-32 of a quantum (R266): the numerator is in units of which `powerDen` × `extra` make a mW. -/
def energyOf (num n extra dur : Nat) : Nat := rnd (num * dur * 4294967296) (powerDen n * extra * 3600000000000)

/-- An accumulator given an energy: its residue keeps the fraction, and a wrap is recorded (R266, R268). -/
def State.accumulate (s : State) (m e : Nat) : State :=
  let total := (kvFind s.mtr.residues m).getD 0 + e
  let v := s.rd (MTR_ACC_COUNT m) + total / 4294967296
  let s := { s with mtr := { s.mtr with residues := kvSet s.mtr.residues m (total % 4294967296) } }
  let s := s.wr (MTR_ACC_COUNT m) v
  if v < 2 ^ 40 then s
  else
    let s := { s with mtr := { s.mtr with wraps := setBit s.mtr.wraps (m / 8) true } }
    (s.wr MTR_WRAP_WRAP (setBit (s.rd MTR_WRAP_WRAP) m true)).raise MTR_STATUS_ACCWRAP

/-- The energies of a window booked in a set by its direction and quadrant (R266). P is in units of `powerDen`, Q in 1/250,000 and S in 1 of them. -/
def State.book (s : State) (set n dur : Nat) (p q : Int) (sv : Nat) : State :=
  let fwd := 0 ≤ p
  let s := s.accumulate (8 * set + (if fwd then 0 else 1)) (energyOf p.natAbs n 1 dur)
  let s := s.accumulate (8 * set + (if 0 ≤ q then (if fwd then 2 else 3) else if fwd then 5 else 4)) (energyOf q.natAbs n 250000 dur)
  s.accumulate (8 * set + (if fwd then 6 else 7)) (energyOf sv n 1 dur)

/-- An event of MTR on channel 84 through DCQ 13; one that cannot be queued sets EVDROP (R270). -/
def State.meterEvent (s : State) (node kind : Nat) (payload : Octets) (stamp : Nat) : State :=
  let r := s.dcqOffer 13 (s.event 84 node kind payload (timeOfNs stamp))
  r.1.raiseIf (!r.2) MTR_STATUS_EVDROP

/-- VPRES of a phase given a value, with a KIND 0x03 event and VPCHG at a change (R265, R270). -/
def State.setVpres (s : State) (p : Nat) (b : Bool) (cause stamp : Nat) : State :=
  if s.phBit MTR_PHST_VPRES p = b then s
  else ((s.setPhBit MTR_PHST_VPRES p b).meterEvent (p + 1) 0x03 [octet (b2n b), octet cause] stamp).raise MTR_STATUS_VPCHG

/-- The duration of a window: te − ts; free where the network time stood later at its start than at its end. -/
def State.windowDur (s : State) (w : MeterWindow) : State × Nat :=
  if w.ts ≤ w.te then (s, w.te - w.ts) else (s.freeTick, s.freeNat 26)

/-- Σ v90·i of a window, free where the voltage a quarter cycle before is not held (R263). -/
def State.windowQ (s : State) (m : MeterSums) : State × Int :=
  match m.q with
  | some q => (s, q)
  | none => (s.freeTick, signed 64 (s.freeNat 64))

/-- S of a window in the units of P: sqrt(Σv²·Σi²) (R263). -/
def apparent (m : MeterSums) : Nat := rootOf (m.vv * m.ii) 1

/-- The gain of a phase in compatibility mode at the sample at which the end of a cycle from `ts` to `te` is detected (R259). -/
def State.cycleGain (s : State) (p ts te : Nat) : State :=
  if !s.on MTR_CTRL_MODE || s.phBit MTR_PHST_G16 p then s
  else
    let peak := ((windowSamples s.mtr.hist ts te).map (fun x => (nth 0 x.i p).natAbs)).foldl max 0
    let low := if 20 * peak < 8388608 * 16 then (s.phase p).low + 1 else 0
    let s := s.onPhase p (fun x => { x with low := low })
    if max 1 (s.rd MTR_COMPAT_CNT_DN) ≤ low then s.gainTo p true (match s.mtr.hist with
      | x :: _ => nth 0 x.i p
      | [] => 0)
    else s

/-- Q of the total set: the sum of the live phases, or a free value where one is not known. -/
def State.totalQ (s : State) (live : List MeterSums) : State × Int :=
  match sumO (live.map (·.q)) with
  | some q => (s, q)
  | none => (s.freeTick, signed 64 (s.freeNat 64))

/-- The total set booked over the live phases of a window of `n` samples (R263, R267). -/
def State.bookTotal (s : State) (live : List MeterSums) (n dur : Nat) : State :=
  let r := s.totalQ live
  let scale : Nat := s.vfs * s.ifs
  if live.isEmpty then r.1 else r.1.book 3 n dur (sumI (live.map (·.p)) * (scale : Int)) (r.2 * (scale : Int)) (sumN (live.map apparent) * scale)

/-- A Crease in which the reference phase has been in FREE (R267). -/
def State.noteFree (s : State) (k : Nat) : State :=
  if s.mtr.tFree.elem k then s else { s with mtr := { s.mtr with tFree := s.mtr.tFree ++ [k] } }

/-- What the open Crease counts of a window of the reference phase (R272). -/
def State.noteReference (s : State) (free : Bool) (p : Int) (neutral ires : Nat) : State :=
  let s := if free then s.noteFree s.mtr.open' else s
  let m := s.mtr
  { s with mtr := { m with
    nCyc := m.nCyc + 1, iresMax := max m.iresMax ires, inSum := m.inSum + neutral, pos := m.pos || 0 < p, neg := m.neg || p < 0 } }

/-- The total set, the neutral and the residual current over a window of the reference phase (R263, R267, R272). -/
def State.bookReference (s : State) (w : MeterWindow) (dur : Nat) (smp : List MeterSample) : State :=
  let sums := (List.range 3).map (fun p => sumsOf s.mtr.hist smp p (if p = w.phase then w.prevT else (s.phase p).prevT))
  let live := sums.filter (fun m => !belowIst s m)
  let neutral := rootOf (sumN (smp.map (fun x => x.neutral.natAbs ^ 2)) * s.nfs ^ 2) (smp.length * 2 ^ 46)
  let ires := rootOf (sumN (smp.map (fun x => x.residual.natAbs ^ 2)) * 100000000) (smp.length * 2 ^ 46)
  let t := ((s.bookTotal live smp.length dur).noteReference w.free (sumI (live.map (·.p))) neutral ires).wr MTR_IRES_RMS ires
  if w.valid && 0 < dur then t.wr MTR_FREQ_FREQ (rnd 10000000000000 dur) else t

/-- The results of a window of a phase (R263 to R267): its live values, its energies and what the summary counts. -/
def State.bookPhase (s : State) (p dur : Nat) (m : MeterSums) (q pw qw : Int) (vrms irms : Nat) : State :=
  let scale : Nat := s.vfs * s.ifs
  let s := (((s.wr (MTR_LIVE_W0_VRMS p) vrms).wr (MTR_LIVE_W1_IRMS p) irms).wrI (MTR_LIVE_W2_P p) pw).wrI (MTR_LIVE_W3_Q p) qw
  let s := if belowIst s m then s else s.book p m.n dur (m.p * (scale : Int)) (q * (scale : Int)) (apparent m * scale)
  s.onPhase p (fun x => { x with
    pos := x.pos || 0 < m.p, neg := x.neg || m.p < 0, vSum := x.vSum + vrms, iSum := x.iSum + irms, count := x.count + 1,
    last := some (pw, qw) })

/-- Vrms of a window is at least VP_THR (R265), in 0.1 V, without rounding. -/
def State.voltsPresent (s : State) (m : MeterSums) : Bool := decide ((s.rd MTR_ZC_VP_THR * 100) ^ 2 * (m.n * 2 ^ 46) ≤ m.vv * s.vfs ^ 2 * 100)

/-- FVALID and VPRES after a window (R262, R265); those of a window that the timeout ends have cleared at its last sample. -/
def State.bookVoltage (s : State) (w : MeterWindow) (m : MeterSums) : State :=
  if w.timeout then s
  else
    let s := if w.valid then s.setPhBit MTR_PHST_FVALID w.phase true else s
    if s.voltsPresent m then s.setVpres w.phase true 3 w.te else s.setVpres w.phase false 2 w.te

/-- The event of a window, where CYCEV asks for it (R270, R271). -/
def State.cycleEvent (s : State) (w : MeterWindow) (dur vrms irms : Nat) (pw qw : Int) : State :=
  if bit (s.rd MTR_CFG_CYCEV) w.phase then
    s.meterEvent (w.phase + 1) (if w.free then 0x02 else 0x01)
      (le 3 vrms ++ le 3 irms ++ le 4 (unsigned 32 pw) ++ le 4 (unsigned 32 qw) ++ le 2 (rnd dur 500)) w.te
  else s

/-- A window booked (R262 to R269): its quantities, energies, VPRES, frequency, event and what the summary counts. -/
def State.bookWindow (s : State) (w : MeterWindow) : State :=
  let smp := windowSamples s.mtr.hist w.ts w.te
  let m := sumsOf s.mtr.hist smp w.phase w.prevT
  if m.n = 0 then s
  else
    let d := s.windowDur w
    let r := d.1.windowQ m
    let p := w.phase
    let vrms := rootOf (m.vv * s.vfs ^ 2 * 100) (m.n * 2 ^ 46)
    let irms := rootOf (m.ii * s.ifs ^ 2 * 100) (256 * m.n * 2 ^ 46)
    let scale : Nat := s.vfs * s.ifs
    let pw := rndI (m.p * (scale : Int)) (powerDen m.n)
    let qw := rndI (r.2 * (scale : Int)) (powerDen m.n * 250000)
    let t := ((r.1.bookPhase p d.2 m r.2 pw qw vrms irms).bookVoltage w m).cycleEvent w d.2 vrms irms pw qw
    if p = s.refPhase then t.bookReference w d.2 smp else t

/-! ### The Crease summary (R272) -/

/-- π to 128 fractional bits. -/
def piFixed : Nat := 1069028584064966747859680373161870783300

/-- The series of atan y/x for y ≤ x to 128 fractional bits: each term is 2n/(2n + 1) · y²/(x² + y²) times that before it. -/
def atanSum (yy rr : Nat) : Nat → Nat → Nat → Nat
  | 0, _, term => term
  | k + 1, n, term => term + atanSum yy rr k (n + 1) (term * (2 * n) * yy / ((2 * n + 1) * rr))

/-- atan y/x of y ≤ x, times 18,000 × 2^128, so that its quotient by `piFixed` is in 0.01 degrees; exact at 0 and 45 degrees. -/
def atanNum (y x : Nat) : Nat :=
  if y = x then 4500 * piFixed else 18000 * atanSum (y * y) (x * x + y * y) 128 1 (x * y * 2 ^ 128 / (x * x + y * y))

/-- atan2(q, p), signed, in 0.01 degrees (R272), rounded by the free rule (notes/assumptions/6); that of (0, 0) is free. -/
def angleOf (q p : Int) : Nat :=
  if q = 0 ∧ p = 0 then Config.noAngle
  else
    let a := if q.natAbs ≤ p.natAbs then atanNum q.natAbs p.natAbs else 9000 * piFixed - atanNum p.natAbs q.natAbs
    let a := rnd (if p < 0 then 18000 * piFixed - a else a) piFixed
    unsigned 16 (if q < 0 then -(a : Int) else (a : Int))

/-- Two octets of an angle, free where it has not been measured. -/
def State.angleOctets (s : State) (a : Option Nat) : State × Octets :=
  match a with
  | some v => (s, le 2 v)
  | none => (s.freeTick, s.freeOctets 2)

/-- MIXED of the phases and of the total set, as bits 0 to 3 (R269). -/
def State.mixedBits (s : State) : Nat :=
  sumN ((List.range 3).map (fun p => if (s.phase p).pos && (s.phase p).neg then 2 ^ p else 0)) + (if s.mtr.pos && s.mtr.neg then 8 else 0)

/-- A mean over a count, 0 where nothing was counted. -/
def meanOf (sum n : Nat) : Nat := if n = 0 then 0 else rnd sum n

/-- The payload of the summary of the open Crease (R272). -/
def State.summaryPayload (s : State) : State × Octets :=
  let m := s.mtr
  let (s, a12) := s.angleOctets m.ang12
  let (s, a13) := s.angleOctets m.ang13
  let (s, vi) := [0, 1, 2].foldl (fun r p => match ((s.phase p).last : Option (Int × Int)) with
    | some (pw, qw) => (r.1, r.2 ++ le 2 (angleOf qw pw))
    | none => (r.1.freeTick, r.2 ++ r.1.freeOctets 2)) (s, ([] : Octets))
  let acc := (List.range 32).flatMap (fun a => le 5 (s.rd (MTR_ACC_COUNT a)))
  let phs := [0, 1, 2].flatMap (fun p => let x := s.phase p; le 3 (meanOf x.vSum x.count) ++ le 3 (meanOf x.iSum x.count))
  (s, [octet (s.rd MTR_PHST_FVALID + (if m.tFree.elem m.open' then 8 else 0) + 16 * s.rd MTR_PHST_VPRES),
       octet (s.mixedBits + 16 * m.g16End + (if s.on MTR_CTRL_MODE then 128 else 0)),
       octet m.nCyc, octet (m.wraps + (if m.startDue then 16 else 0))] ++ le 4 (s.rd MTR_FREQ_FREQ) ++ le 2 m.iresMax ++ le 2 (meanOf m.inSum m.nCyc) ++
      zeros 4 ++ acc ++ phs ++ a12 ++ a13 ++ vi ++ zeros 4)

/-- The summary of the open Crease formed, and the next Crease opened (R272). -/
def State.formSummary (s : State) (next : Nat) : State :=
  let (s, payload) := s.summaryPayload
  let s := s.raiseIf (s.mixedBits != 0) MTR_STATUS_MIXED
  let m := s.mtr
  { s with mtr := { m with
    due := m.due ++ [(m.open', payload)], open' := next, nCyc := 0, wraps := 0, iresMax := 0, inSum := 0,
    tFree := m.tFree.filter (fun k => decide (m.open' < k)), pos := false, neg := false,
    startDue := false, phases := m.phases.map (fun x : MeterPhase => { x with pos := false, neg := false, vSum := 0, iSum := 0, count := 0 }) } }

/-- Whether the samples of a window are settled: no phase is replacing samples that lie in it (R259). -/
def State.windowSettled (s : State) (w : MeterWindow) : Bool :=
  s.mtr.phases.all (fun x => x.settle == 0 || match s.mtr.lastN with
    | some n => w.te ≤ (n + 1 - (5 - x.settle)) * sampleNs
    | none => true)

/-- The windows that have ended are booked in order, each in the Crease that holds its end, and the summary of a Crease is formed once the samples have passed
its end and its windows are booked; `n` bounds the rounds. -/
def State.settleWindows : Nat → State → State
  | 0, s => s
  | n + 1, s =>
    let endOf := (s.mtr.open' + 1) * s.P
    match s.mtr.windows.find? (fun w => w.te < endOf) with
    | some w =>
      if s.windowSettled w then
        ({ s with mtr := { s.mtr with windows := s.mtr.windows.erase w } }.bookWindow w).settleWindows n
      else s
    | none =>
      match s.mtr.lastN with
      | some i => if endOf ≤ i * sampleNs then (s.formSummary (s.creaseOf (i * sampleNs))).settleWindows n else s
      | none => s

/-- The windows and summaries brought up to date. -/
def State.settleAll (s : State) : State := s.settleWindows (s.mtr.windows.length + 3)

/-- A window of phase `p` ends at `te`, detected at the present sample, at which its gain may change (R259, R262). -/
def State.endWindow (s : State) (p te : Nat) (crossing timeout : Bool) : State :=
  let x := s.phase p
  let w : MeterWindow := ⟨p, x.ts, te, !crossing || s.phBit MTR_PHST_FREE p, timeout, crossing && x.startValid, x.prevT⟩
  let s := { s with mtr := { s.mtr with windows := s.mtr.windows ++ [w] } }.cycleGain p x.ts te
  let n := s.mtr.lastN.getD 0
  s.onPhase p (fun x => { x with ts := te, startValid := crossing, endN := n, prevT := te - x.ts })

/-! ### The sample (R257 to R262) -/

/-- Whether a voltage lies below −HYST (R261): HYST is in 0.1 V, VFS in 0.01 V. -/
def State.belowHyst (s : State) (v : Int) : Bool := v * (s.vfs : Int) < -((10 * s.rd MTR_ZC_HYST * 8388608 : Nat) : Int)

/-- The time of a crossing between two samples (R261). -/
def crossTime (n : Nat) (a b : Int) : Nat := (n - 1) * sampleNs + sampleNs * a.natAbs / (b - a).natAbs

/-- The angle of a crossing after the last V1 crossing, in 0.01 degrees of the last V1 cycle (R272). -/
def angleAfter (t1 t dur : Nat) : Nat := rnd ((t - t1) * 36000) dur % 36000

/-- ANG_V12 or ANG_V13 at a crossing of V2 or V3 at `tc`, the first since the last V1 crossing (R272). -/
def State.noteAngle (s : State) (p tc : Nat) : State :=
  let dur := (s.phase 0).prevT
  match (s.phase 0).cross with
  | some t1 =>
    let first := match (s.phase p).cross with
      | some t => decide (t < t1)
      | none => true
    if t1 ≤ tc && first then
      (if p = 1 then { s with mtr := { s.mtr with ang12 := some (angleAfter t1 tc dur) } }
       else { s with mtr := { s.mtr with ang13 := some (angleAfter t1 tc dur) } })
    else s
  | none => s

/-- A valid crossing of phase `p` at `tc` (R261, R262): it ends a cycle in SYNC and the free window in FREE. -/
def State.crossing (s : State) (p tc : Nat) : State :=
  let s := if p = 0 then s else s.noteAngle p tc
  let s := s.endWindow p tc true false
  (s.setPhBit MTR_PHST_FREE p false).onPhase p (fun x => { x with cross := some tc })

/-- The crossing of phase `p` at sample `n` with voltage `b` after `a` (R261): armed below −HYST, detected at the first sample at or above 0, ignored within half a
nominal cycle of the previous valid crossing. The time of one that is valid is answered. -/
def State.watchCrossing (s : State) (p n : Nat) (a : Option Int) (b : Int) : State × Option Nat :=
  match a with
  | none => (if s.belowHyst b then s.onPhase p (fun x => { x with armed := true }) else s, none)
  | some a =>
    if (s.phase p).armed && decide (0 ≤ b) && decide (a < 0) then
      let tc := crossTime n a b
      let s := s.onPhase p (fun x => { x with armed := false })
      let near := match (s.phase p).cross with
        | some t => decide ((tc - t) * (if s.on MTR_CFG_NOMF then 120 else 100) < 1000000000)
        | none => false
      (s, if near || s.rd MTR_CTRL_RUNST != 1 then none else some tc)
    else (if s.belowHyst b then s.onPhase p (fun x => { x with armed := true }) else s, none)

/-- The crossings of the three phases at sample `n`, taken in order of their times (R261, R272). -/
def State.watchAll (s : State) (n : Nat) (prev : Option MeterSample) (x : MeterSample) : State :=
  let r := [0, 1, 2].foldl (fun (r : State × List (Nat × Nat)) p =>
    let q := r.1.watchCrossing p n (prev.map (fun y => nth 0 y.v p)) (nth 0 x.v p)
    (q.1, match q.2 with
      | some tc => r.2 ++ [(tc, p)]
      | none => r.2)) (s, [])
  (sortBy (fun a b => decide (a.1 < b.1)) r.2).foldl (fun (s : State) c => s.crossing c.2 c.1) r.1

/-- The settling samples of phase `p` replaced by linear interpolation between the current before the change and the fifth sample after it (R259). -/
def interpolate (h : List MeterSample) (p n : Nat) (base last : Int) : List MeterSample :=
  h.map (fun x => if n < x.n + 5 && x.n < n then { x with i := updNth (fun _ => base + rndI ((last - base) * ((5 + x.n - n : Nat) : Int)) 5) x.i p } else x)

/-- The settling count of phase `p`, which stood at `x` before the present sample, advanced by it (R259): the fifth sample after a change of gain ends the count and gives the four
before it, even where it changes the gain again. -/
def State.settleStep (s : State) (p n : Nat) (x : MeterPhase) : State :=
  let s := if x.settle = 1 then
      { s with mtr := { s.mtr with hist := interpolate s.mtr.hist p n x.base (match s.mtr.hist with | y :: _ => nth 0 y.i p | [] => 0) } }
    else s
  if x.settle = 0 ∨ (s.phase p).settle ≠ x.settle then s else s.onPhase p (fun x => { x with settle := x.settle - 1 })

/-- The calibrated samples of the channels from the raw samples in the order of the calibration sets (R258 to R260). -/
def State.calibrateAll (s : State) (n : Nat) (raw : List Int) : State × MeterSample :=
  let (s, v0) := s.calibrate 0 0 (nth 0 raw 0)
  let (s, v1) := s.calibrate 1 0 (nth 0 raw 1)
  let (s, v2) := s.calibrate 2 0 (nth 0 raw 2)
  let cur := fun (s : State) (p : Nat) => if s.on MTR_CTRL_MODE then s.compatCurrent p raw else s.nativeCurrent p raw
  let (s, i0) := cur s 0
  let (s, i1) := cur s 1
  let (s, i2) := cur s 2
  let (s, nn) := s.calibrate 6 0 (nth 0 raw 6)
  let (s, rr) := s.calibrate 7 0 (nth 0 raw 7)
  (s, ⟨n, [v0, v1, v2], [i0, i1, i2], nn, rr⟩)

/-- The gain in force at the end of a Crease (R272), noted as sample `n` is the first of the next. -/
def State.noteCrease (s : State) (n : Nat) : State :=
  match s.mtr.lastN with
  | some l => if s.creaseOf (l * sampleNs) = s.creaseOf (n * sampleNs) then s else { s with mtr := { s.mtr with g16End := s.rd MTR_PHST_G16 } }
  | none => s

/-- Sample `n` of every channel taken into the engine (R257 to R262): calibrated, its settling samples replaced, its crossings found. -/
def State.takeSample (s : State) (n : Nat) (raw : List Int) : State :=
  let s := s.noteCrease n
  let before := s.mtr.phases
  let prev := match s.mtr.hist with
    | x :: _ => if x.n + 1 = n then some x else none
    | [] => none
  let (s, x) := s.calibrateAll n raw
  let m := s.mtr
  let s := { s with mtr := { m with hist := x :: m.hist.take 650, lastN := some n, settled := m.settled + 1 } }
  let s := [0, 1, 2].foldl (fun (s : State) p => s.settleStep p n (nth MeterPhase.init before p)) s
  let s := s.watchAll n prev x
  if s.rd MTR_CTRL_RUNST = 1 ∧ s.phBit MTR_PHST_FREE s.refPhase then s.noteFree (s.creaseOf (n * sampleNs)) else s

/-- The samples since the last window end of phase `p` was detected (R262). -/
def State.since (s : State) (p : Nat) : Nat := s.mtr.lastN.getD 0 - (s.phase p).endN

/-- The instant at which a free window ends: its last sample plus 62.5 µs (R262). -/
def State.freeEnd (s : State) : Nat := (s.mtr.lastN.getD 0 + 1) * sampleNs

/-- The crossing timeout of phase `p` (R262, R265, R270): FVALID and VPRES clear at the timeout sample. -/
def State.crossingTimeout (s : State) (p : Nat) : State :=
  if s.rd MTR_CTRL_RUNST != 1 || s.phBit MTR_PHST_FREE p || s.since p < s.zcTimeout then s
  else
    let s := (s.endWindow p s.freeEnd false true).setPhBit MTR_PHST_FREE p true
    let s := (s.count MTR_TO_CNT_COUNT MTR_STATUS_CNTWRAP).raise MTR_STATUS_ZCTO
    ((s.setPhBit MTR_PHST_FVALID p false).setVpres p false 1 (s.mtr.lastN.getD 0 * sampleNs)).settleAll

/-- The end of a free window of phase `p` after one nominal cycle in FREE (R262). -/
def State.freeWindowEnd (s : State) (p : Nat) : State :=
  if s.rd MTR_CTRL_RUNST != 1 || !s.phBit MTR_PHST_FREE p || s.since p < s.nominal then s
  else (s.endWindow p s.freeEnd false false).settleAll

/-- The summaries that are formed enter DCQ 13 (R272). -/
def State.registerSummaries (s : State) : State :=
  s.mtr.due.foldl (fun (s : State) d => s.meterEvent 0 0x10 d.2 ((d.1 + 1) * s.P - 1)) { s with mtr := { s.mtr with due := [] } }

/-! ### Start and stop (R279) -/

/-- A stop from STARTING has no window in progress (R279). -/
def State.meterHalt (s : State) : State :=
  if s.rd MTR_CTRL_RUNST = 3 then { s with mtr := { s.mtr with phases := [MeterPhase.init, MeterPhase.init, MeterPhase.init] } } else s

/-- A write of EN (R279). -/
def State.meterEnable (s : State) (v : Nat) : State :=
  let s := s.wr MTR_CTRL_EN v
  if v = 1 ∧ s.rd MTR_CTRL_RUNST = 0 then { s.wr MTR_CTRL_RUNST 3 with
    mtr := { s.mtr with settled := 0, hist := [], lastN := none } }
  else if v = 0 ∧ (s.rd MTR_CTRL_RUNST = 1 ∨ s.rd MTR_CTRL_RUNST = 3) then s.meterHalt.wr MTR_CTRL_RUNST 2
  else s

/-- Metering starts at a Crease boundary after 64 samples of settling: every phase in FREE with FVALID 0 (R279). Each previous cycle's duration is
free until a window has ended. -/
def State.meterStart (s : State) : State :=
  if s.rd MTR_CTRL_RUNST != 3 || s.mtr.settled < 64 || sampleNs ≤ s.now % s.P then s
  else
    let k := s.creaseOf s.now
    let first := k * s.P / sampleNs
    let ph : MeterPhase := { MeterPhase.init with ts := k * s.P, endN := first - 1, prevT := s.freeNat 25 }
    let s := s.freeTick
    let s := (((s.wr MTR_CTRL_RUNST 1).wr MTR_PHST_FREE 7).wr MTR_PHST_FVALID 0).wr MTR_PHST_G16 0
    let m := s.mtr
    { s with mtr := { m with
      phases := m.phases.map (fun x : MeterPhase => { ph with armed := x.armed }), windows := [], open' := k, nCyc := 0, wraps := 0, iresMax := 0, inSum := 0, tFree := [k],
      pos := false, neg := false, startDue := true, ang12 := none, ang13 := none, g16End := 0 } }

/-- No window is in progress (R279). -/
def State.meterIdle (s : State) : Bool := s.mtr.phases.all (fun x => decide ({ x with armed := false } = MeterPhase.init))

/-- Metering stops: the windows in progress end as free windows at the last sample, VPRES clears with cause 4, and RUNST reads OFF, or STARTING
again where EN reads 1 (R265, R279). -/
def State.meterStop (s : State) : State :=
  if s.rd MTR_CTRL_RUNST != 2 then s
  else
    let at' := s.freeEnd
    let s := if s.meterIdle then s else [0, 1, 2].foldl (fun (s : State) p => s.endWindow p at' false false) s
    let s := { s with mtr := { s.mtr with phases := s.mtr.phases.map (fun x : MeterPhase => { x with settle := 0 }) } }
    let s := s.mtr.windows.foldl (fun (s : State) w => s.bookWindow w) s
    let s := [0, 1, 2].foldl (fun (s : State) p => s.setVpres p false 4 (at' - sampleNs)) s
    let s := { s with mtr := { s.mtr with windows := [], phases := [MeterPhase.init, MeterPhase.init, MeterPhase.init] } }
    let s := s.wr MTR_CTRL_RUNST 0
    if s.on MTR_CTRL_EN then s.meterEnable 1 else s

/-- A sample of every channel with its number (R257 to R269): on a running engine it settles what has ended; in STOPPING it is the sample at which metering stops (R279). -/
def State.meterSampleAt (s : State) (n : Nat) (raw : List Int) : State :=
  if s.rd MTR_CTRL_RUNST = 0 ∨ s.mtr.lastN = some n then s
  else
    let s := s.takeSample n raw
    if s.rd MTR_CTRL_RUNST = 1 then s.settleAll else s.meterStop

/-- A sample at the present network time: its number is the number of whole intervals since the PTP epoch (R257). -/
def State.meterSample (s : State) (raw : List Int) : State := s.meterSampleAt (s.now / sampleNs) raw

/-- The sample after a write of EN = 0, if it stops metering (R279). -/
def State.stopSample (s : State) (raw : List Int) : State :=
  if s.rd MTR_CTRL_RUNST = 2 then s.meterSampleAt (s.now / sampleNs + 1) raw else s

/-- Whether a write to an MTR setting is ignored with CFGREJ at this moment (R280). -/
def State.mtrLocked (s : State) (a : Nat) : Bool :=
  ((0x400C0010 ≤ a && a ≤ 0x400C0028) || (0x400C0100 ≤ a && a < 0x400C01B0)) && s.crzOn

/-! ### SF1 (R276 to R278) -/

/-- IΔn in 0.1 mA by THR (R276, R280). -/
def State.idn (s : State) : Nat := match s.rd MTR_SF1_THR with
  | 1 => 1000
  | 2 => 3000
  | _ => 300

/-- A residual current (0.1 mA rms) above the operating point 0.8 × IΔn (R276). -/
def State.sf1Above (s : State) (ires : Nat) : Bool := 8 * s.idn < 10 * ires

/-- The mean square of path B's last 320 samples is above that of the operating point (R276); ±2^23 is ±1,000 mA (R255, R257). -/
def State.sf1Square (s : State) (h : List Int) : Bool :=
  decide ((8 * s.idn) ^ 2 * 320 * 2 ^ 46 < sumN (h.map (fun x => x.natAbs ^ 2)) * 100 * 10000 ^ 2)

/-- A path is qualified (R276): its filter has stood above the operating point for 10 ms of its own clock, or 80 consecutive mean squares have. -/
def State.sf1Qualified (s : State) (path : Nat) : Bool := if path = 0 then 10000000 ≤ s.mtr.sf1Timer else 80 ≤ s.mtr.sf1Count

/-- Whether a path of SF1 runs: 0 path A, 1 path B (R276). -/
def State.sf1Runs (s : State) (path : Nat) : Bool := if path = 0 then s.mtr.sf1RunA else s.mtr.sf1RunB

/-- The field that reads 1 while a path drives its output (R280). -/
def sf1Field (path : Nat) : Field := if path = 0 then MTR_SF1_PATHA else MTR_SF1_PATHB

/-- How long a path that drives its output has driven it, in ns of its own clock. -/
def State.sf1At (s : State) (path : Nat) : Option Nat := if path = 0 then s.mtr.sf1A else s.mtr.sf1B

/-- The time for which a path has driven its output. -/
def State.setSf1At (s : State) (path : Nat) (t : Option Nat) : State :=
  if path = 0 then { s with mtr := { s.mtr with sf1A := t } } else { s with mtr := { s.mtr with sf1B := t } }

/-- Time passes for a path that drives its output (R277). -/
def State.sf1Drive (s : State) (path ns : Nat) : State := s.setSf1At path ((s.sf1At path).map (· + ns))

/-- A path asserts (R277): its output is driven high, its flag and the KIND 0x20 event are given, and the other path's 100 ms begin or end. -/
def State.sf1Assert (s : State) (path : Nat) : State :=
  let s := ((s.wr (sf1Field path) 1).setSf1At path (some 0)).raise (if path = 0 then MTR_STATUS_TRIP_A else MTR_STATUS_TRIP_B)
  let s := s.meterEvent 0 0x20 (octet (s.rd MTR_SF1_PATHA + 2 * s.rd MTR_SF1_PATHB) :: octet 0 :: le 2 (s.rd MTR_IRES_RMS)) (s.now / sampleNs * sampleNs)
  match s.mtr.sf1First with
  | some (q, _) => if q = path then s else { s with mtr := { s.mtr with sf1First := none } }
  | none => if s.on (sf1Field (1 - path)) then s else { s with mtr := { s.mtr with sf1First := some (path, s.elapsed) } }

/-- A qualified path that does not drive its output drives it (R276). -/
def State.sf1Trip (s : State) (path : Nat) : State := if s.sf1Qualified path && !s.on (sf1Field path) then s.sf1Assert path else s

/-- A path no longer qualified releases its output once it has been driven for 200 ms (R277). -/
def State.sf1Release (s : State) (path : Nat) : State :=
  match s.sf1At path with
  | some t => if s.sf1Qualified path || t < 200000000 then s else (s.wr (sf1Field path) 0).setSf1At path none
  | none => s

/-- Path A's filter stands at a residual current (0.1 mA rms) for a time of its own clock (R276): its qualifying timer runs above the operating point and restarts below it. -/
def State.sf1Analog (s : State) (ires ns : Nat) : State :=
  let s := s.sf1Drive 0 ns
  { s with mtr := { s.mtr with sf1Timer := if s.sf1Above ires then s.mtr.sf1Timer + ns else 0 } }

/-- A sample of path B's own decimator (R276): the last 320, and how many consecutive mean squares have stood above the operating point. -/
def State.sf1Digital (s : State) (x : Int) : State :=
  let s := s.sf1Drive 1 sampleNs
  let h := (x :: s.mtr.sf1Hist).take 320
  { s with mtr := { s.mtr with sf1Hist := h, sf1Count := if s.sf1Square h then s.mtr.sf1Count + 1 else 0 } }

/-- 100 ms after one path asserted the other has not: SF1DIS (R277). -/
def State.sf1Disagree (s : State) : State :=
  match s.mtr.sf1First with
  | some (_, t) => if s.elapsed < t + 100000000 then s else { s.raise MTR_STATUS_SF1DIS with mtr := { s.mtr with sf1First := none } }
  | none => s

/-- A write of THR: the first after a power-on reset sets it and LOCKED, a later one is ignored (R278). -/
def State.sf1Thr (s : State) (v : Nat) : State :=
  if s.on MTR_SF1_LOCKED then s else (s.wr MTR_SF1_THR v).wr MTR_SF1_LOCKED 1

end Sys2Proof.Machine
end

