-- ==== Sys2Proof/Machine/Saf.lean ====
section
/-!
DEFINITION. The safety block (R391 to R409): safety frames, unit faults and fabric parity, the proof tests of SF1, HEARTBEAT, BIST and Rinse.
-/
namespace Sys2Proof.Machine

/-- A safety block after a reset. -/
def SafState.init : SafState := ⟨false, false, none, 0, [], none, none, false, none, 0, 0, none, none, 0, 0⟩

/-- The safety block changed. -/
def State.onSaf (s : State) (f : SafState → SafState) : State := { s with saf := f s.saf }

/-- A write of SAF_CMD (R409): a KEY other than 0x5AFE is ignored with CMDREJ. -/
def State.safCommand (s : State) (key : Nat) (run : State → State) : State :=
  if key != 0x5AFE then s.raise SAF_STATUS_CMDREJ else run s

/-! ### Safety frames (R393) -/

/-- A record of SAF_SF2 in the drain in progress. -/
def State.sf2Record (s : State) (v : Nat) : State := s.onSaf (fun x => { x with sf2 := x.sf2 ++ [v] })

/-- An entry of a safety frame from a word written to SAF_SF2: bits [15:14] are 0. -/
def sf2Entry (v : Nat) : Octets := le 4 (v / 65536 * 65536 + v % 16384)

/-- The payload of the safety frame of Crease `k`. -/
def State.safetyPayload (s : State) (k : Nat) : Octets :=
  let es := s.saf.sf2.take 64
  [octet 0x01, octet 0x40] ++ le 2 s.seg ++ le 8 k ++ [octet es.length, octet (b2n (decide (64 < s.saf.sf2.length)))] ++ le 2 s.saf.sfSeq ++
    (es.map sf2Entry).flatten

/-- The safety frame that a drain with SAF_SF2 records sends as it completes. -/
def State.safetyFrame (s : State) (k : Nat) : State :=
  if s.saf.sf2.isEmpty then s
  else
    let s := (s.raiseIf (decide (64 < s.saf.sf2.length)) SAF_STATUS_SF2OVF).queueDatagram (s.rd SAF_SF2_CFG_TC) (some (s.rd SAF_SF2_CFG_SFPORT)) (s.safetyPayload k)
    (s.onSaf (fun x => { x with sf2 := [], sfSeq := (x.sfSeq + 1) % 65536 })).count SAF_SF2_CNT_COUNT SAF_STATUS_CNTWRAP

/-! ### Checks beside the lockstep (R395, R397) -/

/-- A duplicated unit of a lane differs from its copy (R395): 1 Felter, 2 Escort, 3 delivery port. -/
def State.unitFault (s : State) (l : Lane) (unit : Nat) : State :=
  let s := ((s.wr SAF_UNITFLT_UNIT unit).wr SAF_UNITFLT_LANE l.num).raise SAF_STATUS_UNITFLT
  (s.post (s.event 68 0 0x04 [laneOctet l, octet unit] s.tb.now)).laneFault l causeLockstep

/-- An uncorrected error that a core or LSC reads (R81, R86), or one found by Rinse. -/
def State.sramFault (s : State) (l : Lane) : State := (s.countAgainst l 2).laneFault l causeSramUe

/-- A lane load of data that a parity check found bad (R397). -/
def State.poisonedLoad (s : State) (l : Lane) : State := (s.parityError 1).sramFault l

/-! ### HEARTBEAT (R402) -/

/-- A drain completes: HEARTBEAT is inverted, but in REST. -/
def State.heartbeatDrain (s : State) : State :=
  let s := s.onSaf (fun x => { x with drained := true })
  if s.rd BHM0_DR_STAT_STATE = 2 ∨ ¬ (s.inService .A || s.inService .B) then s else s.onSaf (fun x => { x with level := !x.level })

/-- HEARTBEAT in REST: inverted at each network second divisible by 4. -/
def State.heartbeatRest (s : State) : State :=
  let sec := s.tb.now.sec
  if s.rd BHM0_DR_STAT_STATE ≠ 2 ∨ ¬ s.saf.drained ∨ sec % 4 ≠ 0 ∨ s.saf.restSecond = some sec ∨ ¬ (s.inService .A || s.inService .B) then s
  else s.onSaf (fun x => { x with level := !x.level, restSecond := some sec })

/-! ### Proof tests of SF1 (R401) -/

/-- A path of SF1 that drives its output. -/
def State.sf1Asserted (s : State) : Bool := s.on MTR_SF1_PATHA || s.on MTR_SF1_PATHB

/-- A proof test started on a path, or refused with CMDREJ. -/
def State.sf1Test (s : State) (path : Nat) (full : Bool) : State :=
  if s.sf1Asserted || s.saf.test.isSome || (full && s.on MTR_PHST_VPRES) then s.raise SAF_STATUS_CMDREJ
  else (s.onSaf (fun x => { x with test := some ⟨path, full⟩ })).wr SAF_SF1T_RUN 1

/-- The gate of DETECT holds a path's output at no trip. -/
def State.sf1Gated (s : State) (path : Nat) : Bool := s.saf.test == some ⟨path, false⟩

/-- A qualified path drives its output, but for the gate of DETECT; an assertion wakes from Day Rest (R249, R277). -/
def State.sf1Qualify (s : State) (path : Nat) : State :=
  if s.sf1Gated path then s
  else
    let t := s.sf1Trip path
    if t.on (sf1Field path) && !s.on (sf1Field path) then t.drEnd none false true else t

/-- The path that sees something: 0 path A, 1 path B. -/
def sf1Path : Sf1Seen → Nat
  | .analog _ _ => 0
  | .digital _ => 1

/-- What a path that runs sees (R276): it may qualify at its end, and path B at each sample. -/
def State.sf1See (s : State) (x : Sf1Seen) : State :=
  if !s.sf1Runs (sf1Path x) then s
  else match x with
    | .analog ires ns => (s.sf1Analog ires ns).sf1Qualify 0
    | .digital l => l.foldl (fun (s : State) v => (s.sf1Digital v).sf1Qualify 1) s

/-- 100 ms after one path asserted alone: SF1DIS in MTR and SAF and a KIND 0x03 event, unless a proof test suspends the check. -/
def State.sf1Alone (s : State) : State :=
  if s.saf.test.isSome ∨ s.elapsed < s.saf.quietUntil then s
  else match s.mtr.sf1First with
    | none => s
    | some (p, t) =>
      if s.elapsed < t + 100000000 then s
      else
        let s := s.sf1Disagree.raise SAF_STATUS_SF1DIS
        s.post (s.event 68 0 0x03 [octet (p + 1)] s.tb.now)

/-- A proof test ends: `qt` is the time to qualify in 0.1 ms, if the path qualified, and `ok` that the pin readback was as required throughout. The
time of a test without qualification is not stated: a free value. -/
def State.sf1TestDone (s : State) (qt : Option Nat) (ok : Bool) : State :=
  match s.saf.test with
  | none => s
  | some t =>
    let q := match qt with
      | some v => v % 65536
      | none => s.freeNat 16
    let s := if qt.isNone then s.freeTick else s
    let res := if qt.isNone ∨ 400 < q then 1 else if ok then 0 else 2
    let until' := s.elapsed + 100000000
    let s := s.onSaf (fun x => { x with test := none, quietUntil := until' })
    let s := ((s.wr SAF_SF1T_RUN 0).wr SAF_SF1T_QTIME q).wr (if t.path = 0 then SAF_SF1T_RES_A else SAF_SF1T_RES_B) (if res = 0 then 1 else 2)
    (s.raiseIf (res != 0) SAF_STATUS_SF1TFAIL).post
      (s.event 68 0 0x02 ([octet (t.path + 1), octet (if t.full then 2 else 1), octet res, octet 0] ++ le 2 q) s.tb.now)

/-- An interval in hours in ns; 0 acts as 1. -/
def hoursNs (h : Nat) : Nat := max 1 h * 3600000000000

/-- The periodic tests: DETECT on path A every SF1PER hours, and on path B 1 s later. -/
def State.sf1Periodic (s : State) : State :=
  if !s.on SAF_CTRL_SF1T_EN then s
  else
    let e := s.elapsed
    match s.saf.dueB with
    | some t => if e < t then s else (s.onSaf (fun x => { x with dueB := none })).sf1Test 1 false
    | none =>
      if e < s.saf.lastTest + hoursNs (s.rd SAF_PER_SF1PER) then s
      else (s.onSaf (fun x => { x with lastTest := e, dueB := some (e + 1000000000) })).sf1Test 0 false

/-! ### BIST (R403 to R406) -/

/-- What holds for every BIST in service (R405): no lane JOINING, SPLIT 0, no update, and not in Day Rest. -/
def State.bistCalm (s : State) : Bool :=
  s.role .A != roleJoining && s.role .B != roleJoining && !s.on LSC_CTRL_SPLIT && s.upState == upIdle && s.rd BHM0_DR_STAT_STATE == 0

/-- The conditions of a start on the Shadow lane (R405). -/
def State.bistMay (s : State) : Bool :=
  s.bistCalm && !s.on LSC_ROLE_SUSPECT && !s.on LSC_ROLE_DEGRADED && s.saf.bist.isNone &&
  (match s.activeLane with
    | some a => s.isShadow a.other
    | none => false)

/-- The time of the next periodic BIST in TS64 form (SAF_NEXT), known once one has started (DEDUCED, notes/assumptions/43). -/
def State.bistNext (s : State) : Nat := ts64 (timeOfNs (s.now + hoursNs (s.rd SAF_PER_BIST_PER)))

/-- A BIST starts on a lane: from SHADOW its records without a drain are discarded and nothing waits for it any more (R99, R405). -/
def State.bistStart (s : State) (l : Lane) (origin : Nat) : State :=
  let e := s.elapsed
  let s := (s.wr SAF_NEXT_TS64 s.bistNext).onSaf (fun x => { x with bist := some ⟨l, origin⟩, ordered := none, due := false, lastLane := some l, lastBist := e })
  let s := s.onLane l (fun x => { x with fill := [], sealing := none, closed := false, held := false })
  let s := ((s.wr (LSC_CB_USED l) 0).discardIdle l).unwait l (fun _ => true)
  let s := (s.wr (causeField l) causeBist).setRole l roleBist causeBist
  s.wr (bistRunField l) 1

/-- SAF_CMD orders BIST on a lane (R405): at the Active lane's next seal for the SHADOW lane, at once for a lane held in BOOT by BLOCK; otherwise CMDREJ. -/
def State.bistOrder (s : State) (l : Lane) : State :=
  if s.isShadow l ∧ s.bistMay ∧ s.saf.ordered.isNone then s.onSaf (fun x => { x with ordered := some l })
  else if s.role l = roleBoot ∧ s.blocked l ∧ s.role l.other = roleActive ∧ s.bistCalm ∧ s.saf.bist.isNone then s.bistStart l 2
  else s.raise SAF_STATUS_CMDREJ

/-- BIST_PER hours have passed since the last start (R405): a start is due, and deferred where it cannot proceed. -/
def State.bistPeriodic (s : State) : State :=
  if ¬ s.on SAF_CTRL_BIST_EN ∨ s.elapsed < s.saf.lastBist + hoursNs (s.rd SAF_PER_BIST_PER) then s
  else (s.onSaf (fun x => { x with due := true })).raiseIf (!s.bistMay) SAF_STATUS_BISTDEFER

/-- What SAF does at the Active lane's seal (R405): an ordered start, or the one that is due, one seal earlier with a swap where the lane tested last is the
SHADOW lane. -/
def State.safSeal (s : State) : State :=
  match s.saf.ordered with
  | some l =>
    if s.bistMay ∧ s.isShadow l then s.bistStart l 2 else (s.onSaf (fun x => { x with ordered := none })).raise SAF_STATUS_CMDREJ
  | none =>
    if !s.saf.due then s
    else if !s.bistMay then s.raise SAF_STATUS_BISTDEFER
    else match s.activeLane with
      | none => s
      | some a => if s.on SAF_CTRL_SWAP_EN && s.saf.lastLane == some a.other then s.swapRoles a else s.bistStart a.other 1

/-- The signatures of a lane's last BIST (R409). -/
def logicSig : Lane → Field
  | .A => SAF_LSIG_A_SIG
  | .B => SAF_LSIG_B_SIG
def memorySig : Lane → Field
  | .A => SAF_MSIG_A_SIG
  | .B => SAF_MSIG_B_SIG

/-- The result of the two tests (R408): 1 pass, 2 logic fail, 3 memory fail. -/
def bistCode (r : BistResult) : Nat := if r.logicFail then 2 else if r.memoryFail then 3 else 1

/-- What a result leaves in the registers (R404, R406): RES, the signatures, BISTDONE, and on a failure BISTFAIL and BLOCK, which a pass clears. -/
def State.bistRecord (s : State) (l : Lane) (r : BistResult) : State :=
  let s := ((s.wr (bistResField l) (bistCode r)).wr (logicSig l) r.lsig).wr (memorySig l) r.msig
  let s := (s.raise SAF_STATUS_BISTDONE).raiseIf ((bistCode r) != 1) SAF_STATUS_BISTFAIL
  s.wr (bistBlockField l) (b2n ((bistCode r) != 1))

/-- The signature that a result event carries (R408). -/
def bistSig (r : BistResult) : Nat := if (bistCode r) = 3 then r.msig % 2 ^ 64 else r.lsig % 2 ^ 64

/-- A BIST ends (R403, R406): the lane is reset and returns to BOOT. -/
def State.bistDone (s : State) (r : BistResult) : State :=
  match s.saf.bist with
  | none => s
  | some b =>
    let s := (s.onSaf (fun x => { x with bist := none })).wr (bistRunField b.lane) 0
    let s := (s.setRole b.lane roleBoot 0).laneReset b.lane roleBoot
    let s := s.bistRecord b.lane r
    s.post (s.bistEvent b.lane (bistCode r) b.origin (bistSig r))

/-- The cold-start BIST of a lane (R404), its event held until the Sequencer starts. -/
def State.bistCold (s : State) (l : Lane) (r : BistResult) : State :=
  let s := s.bistRecord l r
  s.postOrHold (s.bistEvent l (bistCode r) 0 (bistSig r))

/-- OP = CLRBLK (R406). -/
def State.clearBlock (s : State) : State := (s.wr SAF_BIST_BLOCK_A 0).wr SAF_BIST_BLOCK_B 0

/-! ### Rinse (R407) -/

/-- Whether Rinse pauses in a lane: during its refill and its BIST. -/
def State.rinsePaused (s : State) (l : Lane) : Bool := (s.lane l).refilling || s.on (bistRunField l)

/-- What Rinse finds in the word it reads in a lane. -/
def State.rinseLane (s : State) (l : Lane) (m : RinseMeet) : State :=
  if s.rinsePaused l then s
  else match m with
    | .clean => s
    | .corrected => s.correctedWord l
    | .uncorrected => (s.raise SAF_STATUS_RINSEUE).sramFault l

/-- Rinse reads the next word in each lane; after the last word of lane SRAM a pass is complete. -/
def State.rinseRead (s : State) (a b : RinseMeet) : State :=
  let both := s.rinsePaused .A && s.rinsePaused .B
  let s := (s.rinseLane .A a).rinseLane .B b
  if both then s
  else if s.saf.rinseAt + 1 < 524288 then s.onSaf (fun x => { x with rinseAt := x.rinseAt + 1 })
  else (s.onSaf (fun x => { x with rinseAt := 0 })).count SAF_RINSE_PASS_COUNT SAF_STATUS_CNTWRAP

end Sys2Proof.Machine
end

