-- ==== Sys2Proof/Machine/Resets.lean ====
section
/-!
DEFINITION. The resets of the module (R30 to R33, R101, R399, R417, R421, R424): what each clears and keeps, and how each ends.
-/
namespace Sys2Proof.Machine

/-- The module runs: no reset is asserted, but one that OTP programming holds off, and the reference oscillator runs (R12, R30, R399, R421, R424). -/
def State.up (s : State) : Bool := !s.sys.por && !s.sys.oscStop && (s.sys.heldOff.isSome || (!s.sys.rstLow && !s.sys.extest))

/-- The lanes run: the module is up and Day Rest has not stopped their clocks (R248). -/
def State.lanesRun (s : State) : Bool := s.up && s.lsc.laneClocks

/-- A lane that executes: it runs and is neither refilled, held in BOOT by BLOCK, tested, taken out, nor stopped. -/
def State.laneRuns (s : State) (l : Lane) : Bool :=
  s.lanesRun && !(s.lane l).refilling && (s.role l == roleBoot || s.role l == roleJoining || s.inService l)

/-- What happens only while the module is up, and while its lanes run: else nothing. -/
def State.whenUp (s : State) (f : State → State) : State := if s.up then f s else s
def State.whenLanes (s : State) (f : State → State) : State := if s.lanesRun then f s else s

/-- A field that a reset keeps (R30, R278): the RTC block's, and through a pin or system reset SYS_RESET_CAUSE and MTR_SF1. -/
def keptByReset (por : Bool) (key : Nat) : Bool :=
  (0x400F0000 ≤ key / 1024 && key / 1024 < 0x40100000) || (!por && (key / 1024 == 0x40000004 || key / 1024 == 0x400C0030))

/-- The clearing of a reset (R30): everything but the cells of PST, OTP, the ACM, the RTC, the frames that have left and the counters of the model; a pin or system reset also
keeps the SF1 paths. What no row of R30 names is cleared: the write buffer of PST, whose words are lost as R297 allows, and the lanes' staging and holding registers of R15, which a
lane reset keeps (DESIGN CHOICE, notes/assumptions/21). The latencies of the ports are loaded from OTP (R40). An ACM operation is aborted (R421); the intervals of BIST and
of the proof tests start again. -/
def State.clearAll (s : State) (por : Bool) : State :=
  let s := s.acmAbort
  let r := State.reset
  let m := s.mtr
  let t : State := { r with
    pending := s.pending
    regs := s.regs.filter (fun p => keptByReset por p.1)
    pst := { s.pst with buffer := [], turn := 0 }
    otp := s.otp
    acm := s.acm
    acmSize := s.acmSize
    rtc := { s.rtc with cycle := none }
    mtr := if por then r.mtr else { r.mtr with
      sf1A := m.sf1A, sf1B := m.sf1B, sf1First := m.sf1First, sf1RunA := m.sf1RunA, sf1RunB := m.sf1RunB,
      sf1Timer := m.sf1Timer, sf1Hist := m.sf1Hist, sf1Count := m.sf1Count }
    saf := { r.saf with level := !por && s.saf.level, sfSeq := if por then 0 else s.saf.sfSeq, lastBist := s.elapsed, lastTest := s.elapsed }
    sys := { s.sys with por := por || s.sys.por, heldOff := none }
    sent := s.sent
    cycles := s.cycles
    freeCount := s.freeCount }
  (t.loadLat 0).loadLat 1

/-- A reset is released (R99, R354): both lanes are in BOOT and their SRAM is refilled. -/
def State.startLanes (s : State) : State :=
  let s := (s.onLane .A (fun x => { x with refilling := true })).onLane .B (fun x => { x with refilling := true })
  (s.wr LSC_ROLE_STATE_A roleBoot).wr LSC_ROLE_STATE_B roleBoot

/-- The bit of SYS_RESET_CAUSE that a reset sets (R30). A reset that the loader or the KSU makes has none. -/
def State.resetCause (s : State) : ResetCause → State
  | .pin => s.raise SYS_RESET_CAUSE_PIN
  | .soft => s.raise SYS_RESET_CAUSE_SOFT
  | .noLane => s.raise SYS_RESET_CAUSE_NOLANE
  | .other => s

/-- A pin or system reset (R30): held off while OTP is programmed (R421). It is released at once unless RST_N or EXTEST holds it. -/
def State.systemReset (s : State) (c : ResetCause) : State :=
  if s.ksu.commit.isSome then { s with sys := { s.sys with heldOff := some (s.sys.heldOff.getD c) } }
  else
    let s := (s.clearAll false).resetCause c
    if s.sys.por || s.sys.rstLow || s.sys.extest then s else s.startLanes

/-- RST_N low for 10 µs or more (R421): no effect in a power-on reset. -/
def State.pinReset (s : State) : State :=
  if s.sys.por then s else ({ s with sys := { s.sys with rstLow := true } }).systemReset .pin

/-- RST_N rises (R421): the pin reset ends; one that is still held off has yet to be made. -/
def State.pinRelease (s : State) : State :=
  if !s.sys.rstLow then s
  else
    let s := { s with sys := { s.sys with rstLow := false } }
    if s.sys.extest || s.sys.heldOff.isSome then s else s.startLanes

/-- VIN rises through VPOR (R30, R417): BKP is set where the backup domain has been reset. -/
def State.powerOn (s : State) : State :=
  let bkp := s.rtc.bkpDue
  let s := (s.clearAll true).raiseIf bkp SYS_RESET_CAUSE_BKP
  { s with rtc := { s.rtc with bkpDue := false }, sys := ⟨true, false, false, none, .idcode, false⟩ }

/-- The power-on reset ends (R404, R417): PCYC, the SF1 paths and the results of the cold-start BIST. TEST_N low holds the module in reset (R424). -/
def State.powerOnEnd (s : State) (a b : BistResult) (testLow : Bool) : State :=
  if !s.sys.por || testLow then s
  else
    let s := ({ s with sys := { s.sys with por := false }, mtr := { s.mtr with sf1RunA := true, sf1RunB := true } }).pstAdvance 0x3D1000
    let s := (s.bistCold .A a).bistCold .B b
    if s.sys.extest then s else s.startLanes

/-- VIN falls away (R297, R400, R417): `n` words of the PST write buffer still reach the cells, and the power-on reset is asserted as the core rail fails. -/
def State.vinCollapse (s : State) (n : Nat) : State :=
  let s := (List.range n).foldl (fun (s : State) _ => s.pstStep) s
  let s := { s with pst := { s.pst with buffer := [] } }.clearAll true
  { s with sys := ⟨true, false, false, none, .idcode, false⟩ }

/-- The 25 MHz reference stops (R399): every clock but the RTC's and that of SF1 path A stops. -/
def State.referenceStop (s : State) : State :=
  { s with sys := { s.sys with oscStop := true }, mtr := { s.mtr with sf1RunB := false }, rtc := { s.rtc with cycle := none } }

/-- The TAP loads an instruction (R424): EXTEST holds a pin reset, and leaving it ends the reset and sets PIN. -/
def State.tapUpdate (s : State) (i : TapInstr) : State :=
  let was := s.sys.extest
  let now := i == .extest
  let s := { s with sys := { s.sys with tap := i, extest := now } }
  if s.sys.por || was == now then s
  else if now then
    if s.ksu.commit.isSome then { s with sys := { s.sys with heldOff := some (s.sys.heldOff.getD .pin) } } else s.clearAll false
  else
    let s := s.raise SYS_RESET_CAUSE_PIN
    if s.sys.rstLow || s.sys.heldOff.isSome then s else s.startLanes

/-- The OTP entry of a transition is programmed (R327, R421): the old records are erased and the system resets as for SYS_RESET_CTRL, with a reset that was held off. Jobs of
CRY that are in progress complete first: until then the entry is not programmed. -/
def State.otpDone (s : State) : State :=
  match s.ksu.commit with
  | none => s
  | some target =>
    if !s.cry.isEmpty then s
    else
      let held := s.sys.heldOff.getD .soft
      ((s.otpProgrammed target).systemReset .soft).resetCause held

/-- 16 lane cycles with no lane in service (R101). -/
def State.noLaneReset (s : State) : State := if s.lsc.noLane then s.systemReset .noLane else s

end Sys2Proof.Machine
end

