-- ==== Sys2Proof/Machine/Update.lean ====
section
/-!
DEFINITION. The scheduled update from its activation to its end (R361 to R366), and the load of a lane's image (R354 step 7, R356).
-/
namespace Sys2Proof.Machine

/-- What holds for an activation (R362). -/
def State.updateMay (s : State) : Bool :=
  s.inService .A && s.inService .B && !s.on LSC_ROLE_SUSPECT && !s.on LSC_ROLE_DEGRADED && s.rd TB_STATUS_STATE == tbLocked && s.crzOn &&
  s.rd BHM0_DR_STAT_STATE == 0

/-- KSTART: the Crease that holds TACT (R360). -/
def State.kStart (s : State) : Nat := s.creaseOf s.tactNs

/-- The activation at TACT, or at the first later moment that meets R362 (R361 to R363): a firmware update opens the split window, after a swap where Lane A is ACTIVE;
the others write CFGCUR, for KIND 3 the code store too, and reset the module. -/
def State.activate (s : State) : State :=
  if s.upState ≠ upArmed ∨ s.rld.step ≠ .none ∨ s.now < s.tactNs ∨ ¬ s.updateMay then s
  else if s.rd RLD_STATE_KIND = 1 then
    if s.role .A = roleActive then s.setStep .swapping else s.openWindow
  else
    let s := if s.rd RLD_STATE_KIND = 3 then s.writeCodeStore (s.slotContainer (s.rd RLD_STATE_NEWSLOT)) else s
    let s := (s.wr RLD_STATE_CFGCUR s.rld.newCfg).wr RLD_KSTART_IDX s.kStart
    (s.upTo upCfgBoot).systemReset .other

/-- The new container is in the code store (R363 steps 3 and 4). -/
def State.codeWritten (s : State) : State :=
  if s.upState ≠ upWriting then s
  else ((s.writeCodeStore (s.slotContainer (s.rd RLD_STATE_NEWSLOT))).wr RLD_KSTART_IDX s.kStart).upTo upTrial

/-- The rollback of a live update begins (R366): for KIND 1 Lane A is taken out unless it is out already, then the restore follows. -/
def State.rollback (s : State) (cause : Nat) : State :=
  let s := ((s.upCause cause).verdictEvent false cause).setStep .restoring |>.upTo upRollback
  if s.rd RLD_STATE_KIND = 1 ∧ (s.lane .A).loaded then s.takeOut .A causeUpdate else s

/-- A verdict (R364, R365): from the lane that may give one, in TRIAL; otherwise VERDREJ, with another KEY too (DEDUCED, notes/assumptions/65). -/
def State.verdict (s : State) (l : Lane) (key pass cause : Nat) : State :=
  let may := if s.rd RLD_STATE_KIND = 1 then l == .A else s.activeLane == some l
  if key ≠ 0x7D1E ∨ s.upState ≠ upTrial ∨ ¬ may then s.raise RLD_STATUS_VERDREJ
  else if pass = 1 then (((s.upCause 0).verdictEvent true 0).setStep .none).upTo upCommitting
  else s.rollback cause

/-- DEADLINE; values below 10 act as 10 (R368). -/
def State.trialLimit (s : State) : Nat := max 10 s.rld.deadline

/-- Network time reaches (KSTART + DEADLINE)·P with no verdict (R364). -/
def State.trialDeadline (s : State) : State :=
  if s.upState ≠ upTrial ∨ s.now < (s.rd RLD_KSTART_IDX + s.trialLimit) * s.P then s else s.rollback 3

/-- The trial area copied into the settings partition that is not ACT, ACT changed, and TRIAL cleared (R365 step 1). -/
def State.commitSettings (s : State) : State :=
  let act := s.rd PST_SETSEL_ACT
  let s := s.copyPst 0x380000 (if act = 0 then 0x340000 else 0x300000) 0x40000
  (s.wr PST_SETSEL_ACT (1 - act)).wr PST_SETSEL_TRIAL 0

/-- VFB, VCUR and MINVER (R365 step 2): an update of CFG alone leaves the versions of the firmware (DEDUCED, notes/assumptions/65), and a commit made again leaves those it has written. -/
def State.commitVersions (s : State) (again : Bool) : State :=
  let c := s.slotContainer (s.rd RLD_STATE_NEWSLOT)
  if s.rd RLD_STATE_KIND = 2 ∨ (again ∧ s.rd RLD_VCUR_VERSION = containerVersion c) then s
  else
    let s := (s.wr RLD_VFB_VERSION (s.rd RLD_VCUR_VERSION)).wr RLD_VCUR_VERSION (containerVersion c)
    if containerFloor c then s.wr RLD_MINVER_VERSION (containerVersion c) else s

/-- The commit's copy is made (R365): a KIND 1 update then changes the lanes, the others are done. -/
def State.committed (s : State) : State :=
  if s.upState ≠ upCommitting ∨ s.rld.step ≠ .none then s
  else
    let s := s.commitSettings.commitVersions false
    if s.rd RLD_STATE_KIND = 1 ∧ s.on LSC_CTRL_SPLIT then (s.writeRecord).setStep .sealB else s.upTo upIdle

/-- The trial area marked invalid (R366, R284). -/
def State.voidTrial (s : State) : State := s.pstWords .rld [(0x38003C, 0)]

/-- The restore is complete (R366): for KIND 1 the window ends; for the others the module resets. -/
def State.restored (s : State) : State :=
  if s.upState ≠ upRollback ∨ s.rld.step ≠ .restoring then s
  else
    let fb := s.rd RLD_STATE_FBSLOT
    let s := if s.rd RLD_STATE_KIND ≠ 2 ∧ fb ≠ 3 then s.writeCodeStore (s.slotContainer fb) else s
    if s.rd RLD_STATE_KIND = 1 then (((s.voidTrial.wr LSC_CTRL_SPLIT 0).wr PST_SETSEL_TRIAL 0).setStep .none).upTo upIdle
    else (((s.wr RLD_STATE_CFGCUR (s.rd RLD_STATE_CFGFB)).voidTrial).setStep .none |>.upTo upIdle).systemReset .other

/-! ### Lane images (R354, R356, R366) -/

/-- A firmware body copied into a lane's SRAM, where the lane starts at ENTRY in M mode with DET = 0. -/
def State.placeBody (s : State) (l : Lane) (at' : Nat) (body : Octets) : State :=
  s.onLane l (fun x => { x with sram := memWrite x.sram at' body, det := false, loaded := true })

/-- A firmware container loaded into a lane: refused where it is not acceptable or its tag fails. -/
def State.loadImage (s : State) (l : Lane) (c : Octets) : State × Bool :=
  let r := s.acceptable c ctxBoot
  if !r.2 || containerKind c != 1 then (r.1, false)
  else match r.1.bodyOf c ctxBoot with
    | (s, some b) => (s.placeBody l (leAt c 24 4) b, true)
    | (s, none) => (s, false)

/-- Whether a lane that waits in the boot ROM after a lane reset loads its image now: not while the code store is being written or restored under it. -/
def State.loadWaits (s : State) (l : Lane) : Bool :=
  s.upState == upWriting || (s.upState == upRollback && s.rld.step == .restoring && l == .A)

/-- The load of a lane after a lane reset (R356): from the code store, or for Lane B in a rollback after ACTOUT from the fallback slot. A new container that fails in
a trial rolls the update back with BOOTFAIL (R364); any other that fails sets IMGBAD. -/
def State.laneLoad (s : State) (l : Lane) : State :=
  if s.role l ≠ roleBoot ∨ (s.lane l).refilling ∨ (s.lane l).loaded ∨ s.blocked l ∨ s.lsc.coldStart ∨ s.loadWaits l then s
  else
    let fb := l == .B && (s.upState == upTrial || (s.upState == upRollback && s.rld.step == .splitB)) && s.rd RLD_STATE_FBSLOT != 3
    let r := s.loadImage l (if fb then s.slotContainer (s.rd RLD_STATE_FBSLOT) else s.codeStore)
    if r.2 then r.1
    else if !fb && r.1.upState == upTrial && r.1.on LSC_CTRL_SPLIT then r.1.rollback 7
    else r.1.raise RLD_STATUS_IMGBAD

end Sys2Proof.Machine
end

