-- ==== Sys2Proof/Machine/Functions.lean ====
section
/-!
DEFINITION. The functions of R28 as one interface: their enables and RUNST fields, their start, their shut-down and its completion (R27, R28, R190, R209, R220, R223,
R224, R279, R379, R387).
-/
namespace Sys2Proof.Machine

/-- The enable of a function. -/
def enField : Func → Field
  | .port0 => BHM_CTRL_EN 0
  | .port1 => BHM_CTRL_EN 1
  | .pole => PBM_CTRL_EN
  | .rfA => RFM_CTRL_EN_A
  | .rfB => RFM_CTRL_EN_B
  | .plm => PLM_CTRL_EN
  | .reflect => PLM_CTRL_REFL_EN
  | .meter => MTR_CTRL_EN
  | .channel n => DMA_CH_W0_EN n.val
  | .queue n => DCQ_Q_W0_EN n.val

/-- The RUNST field of a function: 0 OFF, 1 RUNNING, 2 STOPPING, 3 STARTING (R27). -/
def runstField : Func → Field
  | .port0 => BHM_CTRL_RUNST 0
  | .port1 => BHM_CTRL_RUNST 1
  | .pole => PBM_CTRL_RUNST
  | .rfA => RFM_CTRL_RUNST_A
  | .rfB => RFM_CTRL_RUNST_B
  | .plm => PLM_CTRL_RUNST
  | .reflect => PLM_CTRL_RUNST_R
  | .meter => MTR_CTRL_RUNST
  | .channel n => DMA_CH_W0_RUNST n.val
  | .queue n => DCQ_Q_W0_RUNST n.val

/-- Every function of R28. -/
def allFuncs : List Func :=
  [.port0, .port1, .pole, .rfA, .rfB, .plm, .reflect, .meter] ++ (List.finRange 16).map .channel ++ (List.finRange 17).map .queue

/-- The function whose enable a field is, if it is one. -/
def funcOf (f : Field) : Option Func := allFuncs.find? (fun x => enField x == f)

/-- A function that is OFF starts: RUNST reads STARTING, unless a radio's or the modem's start is rejected (R172, R198). -/
def State.funcStart (s : State) : Func → State
  | .rfA => s.rfStart 0
  | .rfB => s.rfStart 1
  | .plm => s.plmStart
  | .meter => s.meterEnable 1
  | f => s.wr (runstField f) 3

/-- What a write of 0 to an enable does at once (R220, R279): Reflect ends its run as ABORT does, and metering that is still STARTING has no window in progress. -/
def State.funcHalt (s : State) : Func → State
  | .reflect => s.rflAbort
  | .meter => s.meterHalt
  | _ => s

/-- A value written to the enable of a function (R28): while STOPPING it is only kept; 1 starts a function that is OFF, and 0 begins the shut-down of one that is not. -/
def State.funcWrite (s : State) (f : Func) (v : Nat) : State :=
  let s := s.wr (enField f) v
  let r := s.rd (runstField f)
  if v % 2 = 1 then (if r = 0 then s.funcStart f else s)
  else if r = 1 ∨ r = 3 then (s.funcHalt f).wr (runstField f) 2
  else s

/-- What a shut-down leaves in its reset state of operation, RUNST reading OFF. -/
def State.funcShut (s : State) : Func → State
  | .port0 => s.portShut 0
  | .port1 => s.portShut 1
  | .pole => s.pbShut
  | .rfA => s.rfShut 0
  | .rfB => s.rfShut 1
  | .plm => s.plmShut
  | .reflect => s.rflShut
  | .meter => s.meterStop.wr MTR_CTRL_RUNST 0
  | .channel n => (s.dmaShut n.val).wr (DMA_CH_W0_RUNST n.val) 0
  | .queue n => s.wr (DCQ_Q_W0_RUNST n.val) 0

/-- A shut-down can complete: a queue must be empty (R387), a radio and the modem first complete the exchange of the cell in progress (R190, R209), and metering stops at a
sample (R279). -/
def State.funcEmpty (s : State) : Func → Bool
  | .queue n => s.dcqUsed n.val == 0
  | .rfA => s.rfIdle 0
  | .rfB => s.rfIdle 1
  | .plm => s.plm.wait.isEmpty
  | .meter => s.meterIdle
  | _ => true

/-- A shut-down completes (R28): RUNST passes through OFF, and a function whose enable reads 1 starts again. -/
def State.shutDone (s : State) (f : Func) : State :=
  if s.rd (runstField f) ≠ 2 ∨ ¬ s.funcEmpty f then s
  else
    let s := s.funcShut f
    if s.on (enField f) then s.funcStart f else s

/-- A function in STARTING is running (R28): a backhaul port gets there by its link and metering at a Crease boundary; the pole bus then fetches what its tail
allows; a radio notes since when it runs. -/
def State.funcRunning (s : State) (f : Func) : State :=
  if s.rd (runstField f) ≠ 3 then s
  else match f with
    | .port0 => s
    | .port1 => s
    | .meter => s
    | .pole => (s.wr PBM_CTRL_RUNST 1).pbRun
    | .rfA => s.rfRunning 0
    | .rfB => s.rfRunning 1
    | f => s.wr (runstField f) 1

end Sys2Proof.Machine
end

