-- ==== Sys2Proof/Machine/ReadView.lean ====
section
/-!
DEFINITION. What a lane's load returns: the fields whose value the module derives as they are read, the windows of Felter and Escort, the capture of wide values (R15),
the fence and the count of ND reads (R10, R90, R91), and loads from the PST window (R282).
-/
namespace Sys2Proof.Machine

/-! ### Fields derived as they are read -/

/-- The bus address of a field, without the part that tells the lanes' copies apart. -/
def Field.addr (f : Field) : Nat := f.reg % 0x100000000

/-- The entries that a lane's windows show (R117, R152): those of the batch at its read index. -/
def State.felterShown (s : State) (l : Lane) : Option FelterEntry := (s.frontIndex l).bind (fun k => s.felterGet l k)
def State.escortShown (s : State) (l : Lane) : Option EscOutput := (s.frontIndex l).bind (fun k => (s.esc l).outs.find? (fun o => o.k == k))

/-- The octets of Lane `l`'s FLT_RES window from an offset in it (R117). -/
def State.felterWindow (s : State) (l : Lane) (o : Nat) : Octets :=
  match s.felterShown l with
  | some e => slice ((kvFind e.blocks (o / 512)).getD []) (o % 512) 4
  | none => zeros 4

/-- The octets of Lane `l`'s ESC_OUT window from an offset in it (R152, R166). -/
def State.escortWindow (s : State) (l : Lane) (o : Nat) : Octets :=
  match s.escortShown l with
  | some e => slice e.records.flatten o 4
  | none => zeros 4

/-- SYS_CLK_STATUS: the reference and every PLL run while a lane can read them (R25, notes/assumptions/20). -/
def State.clocksGood (s : State) : Nat := b2n (!s.sys.oscStop)

/-- The key slot fields that KSU_SLOTn shows (R332, R343). -/
def State.slotField (s : State) (f : Field) : Nat :=
  match s.slot (f.addr % 0x100 / 4) with
  | none => 0
  | some k =>
    if f.lo = 28 then k.typ
    else if f.lo = 26 then k.origin
    else if f.lo = 16 then bits k.policy 16 1
    else if f.lo = 8 then bits k.policy 8 6
    else bits k.policy 0 5

/-- KSU_PUB: the public key of a slot of TYPE 5 or 6 (R343). -/
def State.pubKey (s : State) : Nat :=
  match s.slot (s.rd KSU_PUBSEL_SLOT) with
  | some k => if k.typ = 5 ∨ k.typ = 6 then leVal k.key else 0
  | none => 0

/-- The track that ESC_TRK shows and the lantern that ESC_LST shows (R166). -/
def State.trackShown (s : State) (l : Lane) : Nat :=
  match kvFind (s.esc l).tracks (s.rd (ESC_TRK_SEL_TRACK l)) with
  | some x => leVal x.record
  | none => 0
def State.lanternShown (s : State) (l : Lane) : LanternState := (s.esc l).lantern (s.rd (ESC_LST_SEL_LANTERN l))

/-- The coverage entry that CRZ_COV shows (R82, R84). -/
def State.coverShown (s : State) : Coverage := (kvFind s.crz.cover (s.rd CRZ_COV_SEL_ENTRY)).getD ⟨0, 0, 0⟩

/-- The fields of the time base, the sequencer and the lanes' own registers that are derived. -/
def State.viewCore (s : State) (l : Lane) (f : Field) : Option Nat :=
  let a := f.addr
  if a = 0x40000010 then some s.irqPend
  else if a = 0x40000018 then some (s.irqNext l)
  else if a = 0x40000020 then some s.clocksGood
  else if a = 0x40010010 then some (if f.lo = 64 then s.tb.now.sec else if f.lo = 32 then s.tb.now.ns else s.tb.now.frac)
  else if a = 0x40010038 then some (if f.lo = 32 then s.incFreq.toNat / 2 ^ 32 else s.incFreq.toNat)
  else if a = 0x40020018 then some (s.creaseOf s.now)
  else if a = 0x40020034 ∧ f.lo = 0 then some s.poolUsed
  else if a = 0x40020074 then some (if f.lo = 16 then s.coverShown.k % 512 else if f.lo = 8 then s.coverShown.late else s.coverShown.cover)
  else if a = 0x400400A4 then some (leVal (s.profile (s.rd LNU_PW_IDX_BANK) (s.rd LNU_PW_IDX_ENTRY)))
  else if a = 0x40050044 then some (s.trackShown l)
  else if a = 0x40050060 then
    let x := s.lanternShown l
    some (if f.lo = 88 then x.plan else if f.lo = 48 then x.dimAt else if f.lo = 8 then x.litFrom else if f.lo = 1 then b2n x.lit else b2n x.held)
  else if a = 0x40053F00 then some (match s.escortShown l with | some e => e.k | none => 0)
  else if a = 0x40053F08 then some (match s.escortShown l with | some e => e.chk | none => 0)
  else if a = 0x40053F0C then some (match s.escortShown l with | some e => if f.lo = 16 then e.dropped else e.actions.length | none => 0)
  else if a = 0x40060010 ∧ f.lo = 0 then some s.repTab.length
  else if a = 0x40067F00 then some (match s.felterShown l with | some e => e.k | none => 0)
  else if a = 0x40067F08 then some (match s.felterShown l with | some e => e.chk | none => 0)
  else if a = 0x40067F0C then some (match s.felterShown l with | some e => e.poisoned | none => 0)
  else none

/-- The fields of the links, the store, the keys, the loader and the safety block that are derived. -/
def State.viewLinks (s : State) (f : Field) : Option Nat :=
  let a := f.addr
  if a = 0x40070030 then some (s.now / 1280000000)
  else if a = 0x40080020 then some s.pcn
  else if 0x40080460 ≤ a ∧ a < 0x40080480 then some (bits (s.bdirWord (a % 0x20 / 4)) f.lo f.width)
  else if a = 0x400D001C then some s.pst.buffer.length
  else if a = 0x400D0024 then some s.opsec
  else if a = 0x400D0028 then some s.pcyc
  else if a = 0x400F0010 ∧ f.lo = 0 then some (s.rtc.prescaler / 128)
  else if a = 0x40100010 then some (if f.lo = 16 then s.lcPrev else if f.lo = 8 then s.epoch else s.lcState)
  else if a = 0x40100018 then some (leVal s.otp.uid)
  else if a = 0x40100024 ∧ f.lo = 31 then some (b2n s.ksu.commit.isSome)
  else if 0x40100100 ≤ a ∧ a < 0x40100180 then some (s.slotField f)
  else if a = 0x40100244 then some s.pubKey
  else if a = 0x40110014 then some (if f.lo = 8 then b2n (!s.cry.isEmpty) else s.cry.length)
  else if a = 0x40120010 ∧ f.lo = 31 then some (b2n s.rldBusy)
  else if a = 0x40150080 then some (if f.lo = 1 then b2n (s.rd BHM0_DR_STAT_STATE == 2) else b2n s.saf.level)
  else none

/-- The value that a lane reads of a field (R9): derived, or as the store holds it. -/
def State.view (s : State) (l : Lane) (f : Field) : Nat :=
  match s.viewCore l f with
  | some v => v % 2 ^ f.width
  | none => match s.viewLinks f with
    | some v => v % 2 ^ f.width
    | none => s.rd f

/-! ### Registers as words (R9, R11, R15) -/

/-- The fields of the register at a place, as its port, instance and a lane have them. -/
def RegPlace.fields (p : RegPlace) (l : Lane) : List (Field × Access × Bool) := p.row.fields.map (fun r => (r.at' p.port p.index l, r.acc, r.nd))

/-- The whole value of a register as a lane reads it: WO fields read 0 (R9). -/
def State.placeValue (s : State) (l : Lane) (p : RegPlace) : Nat :=
  sumN ((p.fields l).map (fun x => if x.2.1 = .wo then 0 else s.view l x.1 * 2 ^ x.1.lo))

/-- Whether a field has bits in a word of its register. -/
def Field.inWord (f : Field) (w : Nat) : Bool := f.lo < 32 * (w + 1) && 32 * w < f.lo + f.width

/-- Whether a word of a register holds an ND field (R10). -/
def RegPlace.nd (p : RegPlace) (l : Lane) : Bool := (p.fields l).any (fun x => x.2.2 && x.1.inWord p.word)

/-- The register to which R15 does not apply: FLT_RES_INFO (R117). -/
def freeOfCapture (base : Nat) : Bool := base == 0x40067F00

/-- The word at a reserved offset or in a window (R11, R117, R152). -/
def State.windowWord (s : State) (l : Lane) (a : Nat) : Nat :=
  if 0x40054000 ≤ a ∧ a < 0x40056000 then leVal (s.escortWindow l (a % 0x2000))
  else if 0x40068000 ≤ a ∧ a < 0x40070000 then leVal (s.felterWindow l (a % 0x8000))
  else 0

/-- The holding register of a wide value, which a lane's capture fills (R15). -/
def State.capture15 (s : State) (l : Lane) (base v : Nat) : State := s.onLane l (fun x => { x with holding := kvSet x.holding base v })

/-- A register word as a lane's load returns it, with what the read does: a capture (R15), a freeze (R303), or the drain that a read of PST_DRAIN awaits (R283). The RTC
behind its isolated interface returns a free value (R315). -/
def State.regRead (s : State) (l : Lane) (a : Nat) : State × Nat :=
  if s.rtc.onVbat ∧ 0x400F0000 ≤ a ∧ a < 0x40100000 then (s.freeTick, s.freeNat 32)
  else if a = 0x400F0010 then s.readTimeGroup l false
  else if a = 0x400F0014 then s.readTimeGroup l true
  else if a = 0x400D0020 then (s.pstDrain (.lane l), 0)
  else match findReg a with
    | none => (s, s.windowWord l a)
    | some p =>
      let base := a - 4 * p.word
      let v := s.placeValue l p
      if p.row.words = 1 ∨ freeOfCapture base then (s, bits v (32 * p.word) 32)
      else if p.word = 0 then (s.capture15 l base v, bits v 0 32)
      else (s, bits ((kvFind (s.lane l).holding base).getD 0) (32 * p.word) 32)

/-- The data of a lane's load (the model's own field). -/
def State.loaded (s : State) (l : Lane) (v : Nat) : State := s.onLane l (fun x => { x with data := v })

/-- An ND read in service context counted in LSC_ND_CNT, and against the Crease for the Active lane (R81, R91). -/
def State.countNd (s : State) (l : Lane) : State := (s.count (LSC_ND_CNT_COUNT l) LSC_STATUS_NDWRAP).countAgainst l 3

/-- Whether the word at an address holds an ND field. -/
def isNd (l : Lane) (a : Nat) : Bool :=
  match findReg a with
  | some p => p.nd l
  | none => false

/-! ### The core of a lane (R85, R86) -/

/-- The core of a lane as it makes an access. -/
def State.enterCore (s : State) (l : Lane) (c : CoreMeet) : State :=
  s.onLane l (fun x => { x with core := { x.core with user := c.user, pmp := c.pmp.getD x.core.pmp } })

/-- The number of ones below the lowest zero of an address register. -/
def trailingOnes : Nat → Nat → Nat
  | 0, _ => 0
  | n + 1, v => if v % 2 = 1 then trailingOnes n (v / 2) + 1 else 0

/-- The span of addresses that a PMP region matches, with the address register of the region before it (R85): its start and its end. -/
def pmpSpan (before : Nat) (r : PmpRegion) : Nat × Nat :=
  match r.mode with
  | .off => (0, 0)
  | .tor => (before * 4, r.addr * 4)
  | .na4 => (r.addr * 4, r.addr * 4 + 4)
  | .napot =>
    let w := 8 * 2 ^ trailingOnes 54 r.addr
    (r.addr * 4 / w * w, r.addr * 4 / w * w + w)

/-- Whether the PMP regions permit an access of `n` octets at `a` (R85): the first region that matches an octet of it decides; with none, M mode may and U mode may
not (notes/assumptions/13). -/
def pmpAllows (user write : Bool) (a n : Nat) : Nat → List PmpRegion → Bool
  | _, [] => !user
  | before, r :: t =>
    let w := pmpSpan before r
    if w.1 < a + n ∧ a < w.2 then
      decide (w.1 ≤ a) && decide (a + n ≤ w.2) && ((!user && !r.lock) || (if write then r.write else r.read))
    else pmpAllows user write a n r.addr t

/-- Whether a lane's core may make an access. -/
def State.coreMay (s : State) (l : Lane) (write : Bool) (a n : Nat) : Bool :=
  pmpAllows (s.lane l).core.user write a n 0 (s.lane l).core.pmp

/-- What a word of a lane's SRAM that its core reads meets (R86): a corrected word is counted and an uncorrected one is a lane fault; else the access goes on. -/
def State.sramMeet (s : State) (l : Lane) (m : RinseMeet) (go : State → State) : State :=
  match m with
  | .clean => go s
  | .corrected => go (s.correctedWord l)
  | .uncorrected => s.sramFault l

/-- The region that a lane loads from beside the register space and the PST window (R16): its SRAM, the event staging memory and the ACM window as `region` has them. The boot
ROM is read in M mode only, and what it holds is not stated: a free value. -/
def State.memoryLoad (s : State) (l : Lane) (a size : Nat) (m : RinseMeet) : State :=
  if a + size ≤ 0x10000 ∧ (s.lane l).core.user = false then (s.freeTick).loaded l (s.freeNat (8 * size))
  else match s.region a size with
    | some (.sram, o) => s.sramMeet l m (fun (s : State) => s.loaded l (leVal (memRead (s.lane l).sram o size)))
    | some (.staging, _) => (s.freeTick).loaded l (leVal (s.freeOctets size))
    | some (.acm, o) => s.loaded l (leVal (s.acmRead o size))
    | _ => s.trapLane l .loadFault

/-- A lane's load of a register (R10, R14, R90): 32 bits and aligned, or an access fault; an ND field faults in deterministic context and is counted in service
context. A word that fails its parity check is a lane fault (R397). -/
def State.laneRead (s : State) (l : Lane) (a size : Nat) (parity : Bool) : State :=
  if !s.laneRuns l then s
  else if size ≠ 4 ∨ a % 4 ≠ 0 ∨ ¬ (0x40000000 ≤ a ∧ a < 0x40160000) then s.trapLane l .loadFault
  else if isNd l a && (s.lane l).det then s.trapLane l .loadFault
  else if parity then s.poisonedLoad l
  else
    let r := s.regRead l a
    let s := r.1.loaded l r.2
    if isNd l a then s.countNd l else s

/-- What a load from the PST window meets. -/
def State.pstLoad (s : State) (l : Lane) (a size : Nat) (e : PstMeet) : State :=
  if !s.laneRuns l then s
  else if ¬ (size = 1 ∨ size = 2 ∨ size = 4 ∨ size = 8) ∨ ¬ (0x20000000 ≤ a ∧ a + size ≤ 0x21000000) then s.trapLane l .loadFault
  else if a % size ≠ 0 then s.trapLane l .loadMisaligned
  else match e with
    | .clean => s.loaded l (leVal (s.pstOctets (a % 0x20000000) size))
    | .corrected => (s.pstCorrected).loaded l (leVal (s.pstOctets (a % 0x20000000) size))
    | .uncorrected => (s.pstUncorrected).trapLane l .loadFault
    | .parity => s.poisonedLoad l

/-- A lane's load (R10, R14, R16, R85, R282): from the register space and the PST window as their rules say; anywhere else it is aligned, permitted by the PMP regions, and within a
region, or it traps. -/
def State.coreLoad (s : State) (l : Lane) (a size : Nat) (m : LoadMeet) (p : PstMeet) : State :=
  if !s.laneRuns l then s
  else
    let s := s.enterCore l m.core
    if 0x40000000 ≤ a ∧ a < 0x40160000 then
      if s.coreMay l false a size then s.laneRead l a size m.parity else s.trapLane l .loadFault
    else if ¬ (size = 1 ∨ size = 2 ∨ size = 4 ∨ size = 8) then s.trapLane l .loadFault
    else if a % size ≠ 0 then s.trapLane l .loadMisaligned
    else if !s.coreMay l false a size then s.trapLane l .loadFault
    else if 0x20000000 ≤ a ∧ a < 0x21000000 then s.pstLoad l a size p
    else s.memoryLoad l a size m.core.word

end Sys2Proof.Machine
end

