-- ==== Sys2Proof/Machine/Write.lean ====
section
/-!
DEFINITION. The performance of a register write: the assembly of wide values (R15), the write locks of the blocks, what each command register does, and the stores of a
lane with the context in which they are performed (R14 to R17, R90, R93, R282, R397).
-/
namespace Sys2Proof.Machine

/-- Who a performed write acts for: a lane in service context, the drain of a Crease for a lane (R93), or the boot ROM, which acts as Lane A. -/
inductive Origin where
  | service (l : Lane)
  | commit (l : Lane) (k : Nat)
  | boot
deriving DecidableEq, Repr

/-- The lane whose staging and banked registers a write uses. -/
def Origin.lane : Origin → Lane
  | .service l => l
  | .commit l _ => l
  | .boot => .A

/-- A write that arrives as a drained commit record. -/
def Origin.isCommit : Origin → Bool
  | .commit _ _ => true
  | _ => false

/-- The Crease of the drain. -/
def Origin.crease : Origin → Nat
  | .commit _ k => k
  | _ => 0

/-- A core in M mode whose PMP regions stand and whose SRAM is clean, and a store that meets nothing. -/
def cleanCore : CoreMeet := ⟨false, none, .clean⟩
def cleanWrite : WriteMeet := ⟨false, [], false, cleanCore, none⟩

/-- A store from U or M mode that meets nothing but the nine reads of the PUF array. -/
def userWrite (user : Bool) (reads : List Octets) : WriteMeet := ⟨false, reads, false, ⟨user, none, .clean⟩, none⟩

/-- A store that meets nothing but a packet that is being written to its queue. -/
def whileWriting (writing : Bool) : WriteMeet := { cleanWrite with writing := writing }

/-! ### Writes that are ignored with CFGREJ -/

/-- A radio is not OFF. -/
def State.anyRadio (s : State) : Bool := s.rd RFM_CTRL_RUNST_A != 0 || s.rd RFM_CTRL_RUNST_B != 0

/-- A write that would change a key slot of the running radios (R192) or of the running modem (R221). -/
def State.secLocked (s : State) (a v : Nat) : Bool :=
  (a == 0x40070028 && s.anyRadio && [RFM_SEC_KSLOTB, RFM_SEC_KSLOT1, RFM_SEC_KSLOT0].any (fun f => s.rd f != bits v f.lo f.width)) ||
  (a == 0x40080018 && s.rd PLM_CTRL_RUNST != 0 && [PLM_SEC_PKSLOT1, PLM_SEC_PKSLOT0].any (fun f => s.rd f != bits v f.lo f.width))

/-- A queue that a write would place outside lane SRAM (R84). -/
def State.queueOutside (s : State) (a v : Nat) : Bool :=
  (a == 0x40020040 && !queueFits (bits v 5 17) (s.rd CRZ_EQ_SIZE_SIZE)) || (a == 0x40020044 && !queueFits (s.rd CRZ_EQ_BASE_BASE) (bits v 0 18))

/-- The state-region table after a write of one of its words: its entries as base and length in 32-octet units. -/
def State.srgAfter (s : State) (l : Lane) (a v : Nat) : List (Nat × Nat) :=
  (List.range 16).map (fun n =>
    (if a = 0x40030120 + 8 * n then bits v 5 17 else s.rd (LSC_SRG_BASE_BASE n l), if a = 0x40030124 + 8 * n then bits v 0 16 else s.rd (LSC_SRG_LEN_LEN n l)))

/-- A write of the state-region table that LSC ignores (R106): while the lane is in SHADOW, ACTIVE or JOINING, or for regions above 1 MiB in total or beyond lane
SRAM. -/
def State.srgRefused (s : State) (l : Lane) (a v : Nat) : Bool :=
  let t := s.srgAfter l a v
  s.inService l || s.role l == roleJoining || decide (32768 < sumN (t.map (·.2))) || t.any (fun r => r.2 != 0 && decide (131072 < r.1 + r.2))

/-- The CFGREJ flag of the block that ignores a write of a word, if it does. -/
def State.writeLock (s : State) (l : Lane) (a v : Nat) : Option Field :=
  match a / 0x10000 % 0x4000 with
  | 2 => if s.crzLocked a || s.queueOutside a v then some CRZ_STATUS_CFGREJ else none
  | 3 => if 0x40030120 ≤ a && a < 0x400301A0 && s.srgRefused l a v then some LSC_STATUS_CFGREJ else none
  | 4 => if s.lnuLocked a then some LNU_STATUS_CFGREJ else none
  | 5 => if s.escLocked a then some ESC_STATUS_CFGREJ else none
  | 6 => if s.fltLocked a then some FLT_STATUS_CFGREJ else none
  | 7 => if s.rfmLocked a || s.secLocked a v then some RFM_STATUS_CFGREJ else none
  | 8 => if s.plmLocked a || s.secLocked a v then some PLM_STATUS_CFGREJ else none
  | 9 => if s.bhLocked 0 a then some (BHM_STATUS_CFGREJ 0) else none
  | 10 => if s.bhLocked 1 a then some (BHM_STATUS_CFGREJ 1) else none
  | 11 => if s.pbLocked a then some PBM_STATUS_CFGREJ else none
  | 12 => if s.mtrLocked a then some MTR_STATUS_CFGREJ else none
  | 14 => if s.evrLocked a then some EVR_STATUS_CFGREJ else none
  | 19 => if s.dmaLocked a then some DMA_STATUS_CFGREJ else none
  | 21 => if s.crzOn && (a == 0x40150000 || a == 0x40150014 || a == 0x40150054) then some SAF_STATUS_CFGREJ else none
  | _ => none

/-- A field of a register that is not wholly locked whose change is refused, with its CFGREJ flag (R253, R280, R390). Such a register also holds EN, and a write of it that leaves the
field as it is sets no CFGREJ (DEDUCED, notes/assumptions/55). -/
def State.fieldLock (s : State) (f : Field) : Option Field :=
  let port := fun (p : Nat) => [BHM_CTRL_MODE p, BHM_CTRL_ANEG p, BHM_CTRL_PREEMPT p, BHM_CTRL_VERIFY_DIS p, BHM_CTRL_ADDFRAG p].contains f &&
    s.rd (BHM_CTRL_RUNST p) != 0
  if port 0 then some (BHM_STATUS_CFGREJ 0)
  else if port 1 then some (BHM_STATUS_CFGREJ 1)
  else if f = BHM_CTRL_RING 0 ∧ (s.rd (BHM_CTRL_RUNST 0) ≠ 0 ∨ s.rd (BHM_CTRL_RUNST 1) ≠ 0) then some (BHM_STATUS_CFGREJ 0)
  else if f = MTR_CTRL_MODE ∧ s.rd MTR_CTRL_RUNST ≠ 0 then some MTR_STATUS_CFGREJ
  else if (List.range 17).any (fun n => f == DCQ_Q_W0_CMDSEL n && s.rd (DCQ_Q_W0_RUNST n) != 0) then some DCQ_STATUS_CFGREJ
  else none

/-- The fields that stand in BHM0 only: BHM1 ignores writes of them (R253). -/
def bhm0Only (f : Field) : Bool := [BHM_CTRL_RING 1, BHM_STATUS_DRWRAP 1, BHM_STATUS_DRWAKE 1, BHM_STATUS_DRREJ 1].contains f

/-! ### The fields of a written register (R9) -/

/-- A value written to one field, by its access code. A RW field that is locked keeps its value and sets CFGREJ where the write would change it. -/
def State.writeField (s : State) (f : Field) (acc : Access) (v : Nat) : State :=
  if bhm0Only f then s
  else match acc with
    | .rw =>
      match s.fieldLock f with
      | some flag => if s.rd f = v then s else s.raise flag
      | none => match funcOf f with
        | some x => s.funcWrite x v
        | none => s.wr f v
    | .wo => s.wr f v
    | .ro => s
    | .w1c => s.wr f (s.rd f - (s.rd f).land v)
    | .w1s => s.wr f ((s.rd f).lor v)
    | .rwo => s.sf1Thr v

/-- A whole value written to a register's fields. -/
def State.writeFields (s : State) (p : RegPlace) (l : Lane) (v : Nat) : State :=
  (p.fields l).foldl (fun (s : State) x => s.writeField x.1 x.2.1 (bits v x.1.lo x.1.width)) s

/-! ### What the command registers do -/

/-- The Sequencer starts at a write of EN = 1 (R78): the lanes take their cold-start roles, the Launch Unit, Escort and the recorder start afresh, the drains begin with the
first Crease, and the events that were held are registered. -/
def State.sequencerOn (s : State) : State :=
  let s := s.crzStart
  let s := { s with lsc := { s.lsc with nextDrain := s.crz.oldest } }
  (((s.coldRoles).launchReset).escortReset).recorderStart.releaseHeld

/-- CRZ_CTRL (R78). A write of the value that EN holds has no effect (DESIGN CHOICE, notes/assumptions/17: R78 does not speak of EN written 1 while it is 1). -/
def State.crzCtrl (s : State) (v : Nat) : State :=
  if bit v 0 && !s.crzOn then s.sequencerOn else if !bit v 0 && s.crzOn then s.crzStop else s

/-- LSC_CMD (R99, R100, R106). -/
def State.lscCommand (s : State) (v : Nat) : State :=
  if bits v 16 16 ≠ 0x5EA1 then s
  else match bits v 0 3 with
    | 1 => s.swapCmd
    | 2 => s.takeOutCmd .A
    | 3 => s.takeOutCmd .B
    | 4 => s.rejoinCmd
    | _ => s

/-- RTC_CMD (R304, R306, R316, R319). -/
def State.rtcOp (s : State) (v : Nat) : State :=
  s.rtcCommand (bits v 16 16) (fun s => match bits v 0 3 with
    | 1 => s.rtcCommit
    | 2 => s.armHour true
    | 3 => s.armHour false
    | 4 => s.ponCommand 1
    | 5 => s.ponCommand 0
    | _ => s)

/-- KSU_CMD (R338). -/
def State.ksuOp (s : State) (org : Origin) (v : Nat) (x : WriteMeet) : State :=
  s.ksuCommand (bits v 16 16) org.isCommit x.user (fun s => match bits v 0 3 with
    | 1 => s.ksuTransition
    | 2 => s.ksuImport
    | 3 => s.ksuDerive
    | 4 => s.ksuClear
    | 5 => s.ksuEnrol x.reads
    | _ => s)

/-- RLD_CMD (R358, R359, R361, R368). -/
def State.rldOp (s : State) (org : Origin) (v : Nat) : State :=
  s.rldCommand (bits v 16 16) org.isCommit (fun s => match bits v 0 3 with
    | 1 => s.rldVerify (bits v 8 2)
    | 2 => s.rldSchedule (bits v 12 2) (bits v 11 1) (bits v 10 1)
    | 3 => s.rldCancel
    | 4 => s.rldStore true
    | 5 => s.rldStore false
    | _ => s)

/-- SAF_CMD (R401, R405, R406, R409). -/
def State.safOp (s : State) (v : Nat) : State :=
  s.safCommand (bits v 16 16) (fun s => match bits v 0 3 with
    | 1 => s.bistOrder .A
    | 2 => s.bistOrder .B
    | 3 => s.sf1Test 0 false
    | 4 => s.sf1Test 1 false
    | 5 => s.sf1Test 0 true
    | 6 => s.sf1Test 1 true
    | 7 => s.clearBlock
    | _ => s)

/-- PLM_RFL_CMD (R213, R217, R220). -/
def State.rflOp (s : State) (v : Nat) : State :=
  match bits v 0 3 with
  | 1 => s.rflArm false 0
  | 2 => s.rflArm true (bits v 4 3)
  | 3 => s.rflAbort
  | _ => s

/-- A lane's own LSC register that its writes always reach (R17, R106). -/
def State.lscOwn (s : State) (l : Lane) (a v : Nat) : State :=
  if a = 0x40030100 then s.sealWrite l v else if a = 0x40030104 then s.joinWrite l v else s

/-- What a performed write of a command register does, by its lowest address; `none` where the register is no command. -/
def State.commandCore (s : State) (org : Origin) (a v : Nat) : Option State :=
  if a = 0x40000008 then some (if bits v 16 16 = 0xC1A5 ∧ bit v 0 then s.systemReset .soft else s)
  else if a = 0x40010020 then some (s.setTime ⟨bits v 64 64, bits v 32 30, bits v 0 32⟩)
  else if a = 0x40020000 then some (s.crzCtrl v)
  else if a = 0x40020060 then some (match org with
    | .service _ => s.inject (bits v 8 7) (bits v 0 8)
    | _ => s)
  else if a = 0x40030018 then some (s.lscCommand v)
  else if a = 0x40030100 ∨ a = 0x40030104 then some (s.lscOwn org.lane a v)
  else if a = 0x40040050 then some (if org.isCommit then (s.submit org.crease 0 false 0 (commitAction (le 16 v))).1 else s.raise LNU_STATUS_SVCREJ)
  else if a = 0x40040060 ∨ a = 0x40040070 then some (if org.isCommit then s.setDaySlot (a / 16 % 2) v else s.raise LNU_STATUS_SVCREJ)
  else if a = 0x40040094 then some (if org.isCommit then s.storeProfile v else s.raise LNU_STATUS_SVCREJ)
  else if a = 0x40050070 ∨ a = 0x40060050 then some s
  else if a = 0x40060028 then some (s.fltSendWrite org.isCommit v)
  else none

/-- The same for the links. -/
def State.commandLinks (s : State) (a v : Nat) : Option State :=
  if a = 0x40070024 then some (s.rfWake (bits v 16 16) (bits v 2 2))
  else if a = 0x40070170 then some (s.rfTxcmd (bits v 24 8) (bits v 12 11) (bits v 0 7))
  else if 0x40078000 ≤ a ∧ a < 0x40080000 ∧ a % 16 = 0 then some (s.ltabWrite (a % 0x8000 / 16) v)
  else if a = 0x40080180 then some (s.plcTxcmd (bits v 24 8) (bits v 12 11) (bits v 0 8))
  else if a = 0x40080420 then some (s.rflOp v)
  else if 0x40088000 ≤ a ∧ a < 0x40090000 ∧ a % 16 = 0 then some (s.plcTabWrite (a % 0x8000 / 16) v)
  else if 0x40088000 ≤ a ∧ a < 0x40090000 ∧ a % 16 = 4 then some (s.plcDlyWrite (a % 0x8000 / 16) (bits v 0 16))
  else if a = 0x40090088 then some (s.txTail 0 v)
  else if a = 0x400A0088 then some (s.txTail 1 v)
  else if a = 0x40090300 then some (s.drEnter (bits v 16 16) (bits v 0 1))
  else if a = 0x400B0088 then some (s.pbTail v)
  else none

/-- The same for the store, the keys, the loader and the safety block. -/
def State.commandControl (s : State) (org : Origin) (a v : Nat) (x : WriteMeet) : Option State :=
  if 0x400E0010 ≤ a ∧ a ≤ 0x400E001C then some (s.evrWrite org.isCommit org.crease (a % 0x10000) v)
  else if a = 0x400F0020 then some (s.rtcOp v)
  else if a = 0x40100020 then some (s.ksuOp org v x)
  else if a = 0x40100800 then some s
  else if a = 0x40110010 then some (s.cryJob (v / 64 * 64) org.isCommit x.user)
  else if a = 0x40120014 then some (s.rldOp org v)
  else if a = 0x40120030 then some (if org.isCommit then s.raise RLD_STATUS_CMDREJ else s.verdict org.lane (bits v 16 16) (bits v 8 1) (bits v 0 8))
  else if a = 0x4015000C then some (s.safOp v)
  else if a = 0x40150050 then some (if org.isCommit then s.sf2Record v else s.raise SAF_STATUS_CMDREJ)
  else none

/-- What follows the write of a register that is no command: the servo's enable (R53), the clamp of the increment (R36), the latencies of a changed MODE (R40), the peak of
the intake queue (R131), PHASE (R377), and the discard commands of a queue (R385). -/
def State.afterWrite (s old : State) (a v : Nat) (x : WriteMeet) : State :=
  if a = 0x40010000 then (if bit v 0 then s else s.servoOff)
  else if a = 0x40010030 then s.flagClamp
  else if a = 0x40090000 then (if s.rd (BHM_CTRL_MODE 0) = old.rd (BHM_CTRL_MODE 0) then s else s.loadLat 0)
  else if a = 0x400A0000 then (if s.rd (BHM_CTRL_MODE 1) = old.rd (BHM_CTRL_MODE 1) then s else s.loadLat 1)
  else if a = 0x40060000 then (if bit v 1 then s.wr FLT_INQ_PEAK s.flt.inq.length else s)
  else if a = 0x40130010 ∨ a = 0x40130014 then { s with dma := { s.dma with phase := true } }
  else if 0x40140100 ≤ a ∧ a < 0x40140210 ∧ a % 16 = 0 then s.dcqCommand (a / 16 % 0x100 - 16) (bit v 5) (bit v 4) x.writing
  else s

/-- A whole value that takes effect at a register. -/
def State.takeEffect (s : State) (org : Origin) (p : RegPlace) (a v : Nat) (x : WriteMeet) : State :=
  match s.commandCore org a v with
  | some t => t
  | none => match s.commandLinks a v with
    | some t => t
    | none => match s.commandControl org a v x with
      | some t => t
      | none => (s.writeFields p org.lane v).afterWrite s a v x

/-! ### Wide values (R15) -/

/-- The contents that the words of a register not written keep: a field that only a written 1 clears counts as written 0 (R9). -/
def State.contents (s : State) (p : RegPlace) (l : Lane) : Nat :=
  sumN ((p.fields l).map (fun x => if x.2.1 = .w1c then 0 else s.rd x.1 * 2 ^ x.1.lo))

/-- The value that takes effect with the write of the highest word: its lower words as this lane staged them, or as the register holds them. -/
def State.assemble (s : State) (l : Lane) (p : RegPlace) (base v : Nat) : Nat :=
  sumN ((List.range (p.row.words - 1)).map (fun i =>
    (kvFind (s.lane l).staging (base + 4 * i)).getD (bits (s.contents p l) (32 * i) 32) * 2 ^ (32 * i))) + v * 2 ^ (32 * (p.row.words - 1))

/-- A lower word put into the lane's staging, and the staging of a value cleared. -/
def State.stage (s : State) (l : Lane) (a v : Nat) : State := s.onLane l (fun x => { x with staging := kvSet x.staging a v })
def State.unstage (s : State) (l : Lane) (base words : Nat) : State :=
  s.onLane l (fun x => { x with staging := x.staging.filter (fun p => p.1 < base || base + 4 * words ≤ p.1) })

/-- A wide value whose write as a whole a block ignores by its origin keeps its staging: those of LNU that only a commit record performs (R147). -/
def serviceRefused (org : Origin) (base : Nat) : Bool :=
  !org.isCommit && (base == 0x40040050 || base == 0x40040060 || base == 0x40040070 || base == 0x40040094)

/-- Blocks whose registers take no write as a commit record: the DMA engine (R369) and the dual-clock queues (R390). -/
def commitRefused (org : Origin) (a : Nat) : Bool := org.isCommit && 0x40130000 ≤ a && a < 0x40150000

/-- The last word of a wide register: the words staged before it and this one are written together (R17). -/
def State.wideWrite (s : State) (org : Origin) (p : RegPlace) (base v : Nat) (x : WriteMeet) : State :=
  let w := s.assemble org.lane p base v
  let s := s.unstage org.lane base p.row.words
  let s := if p.fields org.lane |>.all (fun f => f.2.1 == .wo) then s.writeFields p org.lane w else s
  s.takeEffect org p base w x

/-- A write of the word at `a` of the register that starts at `base`, as far as the locks, the staging and the refusals of the source go. A lane's write of KSU_HLP is
ignored (R343). -/
def State.wordWrite (s : State) (org : Origin) (p : RegPlace) (base a v : Nat) (x : WriteMeet) : State :=
  match s.writeLock org.lane a v with
  | some flag => s.raise flag
  | none =>
    if p.row.words = 1 then s.takeEffect org p base v x
    else if base = 0x40100800 then s
    else if p.word + 1 < p.row.words then s.stage org.lane a v
    else if serviceRefused org base then s.raise LNU_STATUS_SVCREJ
    else s.wideWrite org p base v x

/-- The write of one register word performed (R9, R15). -/
def State.performWrite (s : State) (org : Origin) (a v : Nat) (x : WriteMeet) : State :=
  if s.rtc.onVbat ∧ 0x400F0000 ≤ a ∧ a < 0x40100000 then s
  else match findReg a with
    | none => s
    | some p =>
      if commitRefused org a then s.raiseIf (decide (a < 0x40140000)) DMA_STATUS_CTXREJ else s.wordWrite org p (a - 4 * p.word) a v x

/-! ### The stores of a lane -/

/-- A register that a lane's stores reach whatever its role: its own banked SYS and LSC registers (R17), and in a split-version window the verdict of Lane A
(R363, R364). -/
def State.ownRegister (s : State) (l : Lane) (a : Nat) : Bool :=
  a == 0x40000014 || (0x40030100 ≤ a && a < 0x40040000) || (a == 0x40120030 && l == .A && s.on LSC_CTRL_SPLIT)

/-- A service-context store that is not performed (R17), counted in LSC_SVC_WCNT. -/
def State.notPerformed (s : State) (l : Lane) : State := s.countSat (LSC_SVC_WCNT_COUNT l) LSC_STATUS_SVCSAT

/-- A store to the register space (R14, R17, R90, R93). -/
def State.storeRegister (s : State) (l : Lane) (a v : Nat) (x : WriteMeet) : State :=
  if (s.lane l).det then
    if a = 0x40030100 then s.sealWrite l v
    else if a = 0x40020060 ∨ a = 0x40030018 then s.trapLane l .storeFault
    else (s.recordStore l a v).1
  else if x.parity then s.parityError 1
  else if a = 0x40030100 then s.sealWrite l v
  else if s.actsActive l || s.ownRegister l a then s.performWrite (.service l) a v x
  else s.notPerformed l

/-- A word of the PST window stored in service context (R17, R282 to R285): the trial area is written by Lane A in a split-version window (R363). -/
def State.storePst (s : State) (l : Lane) (a v : Nat) (x : WriteMeet) : State :=
  let o := a % 0x20000000
  if (s.lane l).det then (s.recordStore l a v).1
  else if x.parity then s.parityError 1
  else if s.actsActive l || (s.on LSC_CTRL_SPLIT && l == .A && decide (0x380000 ≤ o) && decide (o < 0x3C0000)) then
    let r := s.pstWrite (.lane l) o v
    if r.2 then r.1 else r.1.trapLane l .storeFault
  else s.notPerformed l

/-- A lane's store (R14, R16, R94, R282): to the register space and the PST window as their rules say, to its own SRAM, aligned (R85), while it is not closed; anywhere else it faults. -/
def State.laneStore (s : State) (l : Lane) (a size v : Nat) (x : WriteMeet) : State :=
  if !s.laneRuns l then s
  else if 0x40000000 ≤ a ∧ a < 0x40160000 then
    if size ≠ 4 ∨ a % 4 ≠ 0 then s.trapLane l .storeFault else s.storeRegister l a (v % 2 ^ 32) x
  else if 0x20000000 ≤ a ∧ a < 0x21000000 then
    if size ≠ 4 ∨ a % 4 ≠ 0 then (s.pstMisaligned (a % 0x20000000)).trapLane l .storeFault else s.storePst l a (v % 2 ^ 32) x
  else if 0x08000000 ≤ a ∧ a + size ≤ 0x08400000 ∧ (size = 1 ∨ size = 2 ∨ size = 4 ∨ size = 8) then
    if a % size ≠ 0 then s.trapLane l .storeMisaligned else if (s.lane l).closed then s else s.sramWrite l (a % 0x08000000) (le size v)
  else s.trapLane l .storeFault

/-! ### The core of a lane (R85) -/

/-- The value that an atomic instruction leaves in a word of `n` octets, from the one it reads and its operand (R85, notes/assumptions/13). -/
def atomicResult (op : AtomicOp) (n old v : Nat) : Nat :=
  let less := fun (a b : Nat) => decide (signed (8 * n) a < signed (8 * n) b)
  match op with
  | .lr => old
  | .sc => v
  | .swap => v
  | .add => old + v
  | .xor => old.xor v
  | .and => old.land v
  | .or => old.lor v
  | .min => if less v old then v else old
  | .max => if less old v then v else old
  | .minu => if v < old then v else old
  | .maxu => if old < v then v else old

/-- An atomic instruction on a word of lane SRAM (R85): the lane gets the word read, or of a store-conditional whether it failed, which it does unless the reservation is of that
word. -/
def State.atomicSram (s : State) (l : Lane) (op : AtomicOp) (o n v : Nat) : State :=
  let x := s.lane l
  let v := v % 2 ^ (8 * n)
  let old := leVal (memRead x.sram o n)
  let reserve := fun (s : State) (r : Option (Nat × Nat)) => s.onLane l (fun x => { x with core := { x.core with reserved := r } })
  match op with
  | .lr => reserve (s.loaded l old) (some (o, n))
  | .sc => if x.core.reserved = some (o, n) then reserve ((s.sramWrite l o (le n v)).loaded l 0) none else reserve (s.loaded l 1) none
  | _ => (s.sramWrite l o (le n (atomicResult op n old v))).loaded l old

/-- The store of a lane's core (R85): an atomic instruction is performed on lane SRAM only and raises a store access fault anywhere else, and what the word of the SRAM that a store reads
meets comes before it (R86). -/
def State.coreAccess (s : State) (l : Lane) (a size v : Nat) (x : WriteMeet) : State :=
  let inSram := decide (0x08000000 ≤ a) && decide (a + size ≤ 0x08400000)
  match x.atomic with
  | some op =>
    if inSram && (size == 4 || size == 8) then
      (if (s.lane l).closed then s else s.sramMeet l x.core.word (fun (s : State) => s.atomicSram l op (a % 0x08000000) size v))
    else s.trapLane l .storeFault
  | none => if inSram && size != 8 then s.sramMeet l x.core.word (fun (s : State) => s.laneStore l a size v x) else s.laneStore l a size v x

/-- A store of a lane (R14, R16, R85): aligned, but that the register space and the PST window answer a misaligned one by their own rules (R14, R282), and permitted by the PMP regions,
or it traps. -/
def State.coreStore (s : State) (l : Lane) (a size v : Nat) (x : WriteMeet) : State :=
  if !s.laneRuns l then s
  else
    let s := s.enterCore l x.core
    let ruled := (0x40000000 ≤ a ∧ a < 0x40160000) ∨ (0x20000000 ≤ a ∧ a < 0x21000000)
    if ¬ ruled ∧ (size = 1 ∨ size = 2 ∨ size = 4 ∨ size = 8) ∧ a % size ≠ 0 then s.trapLane l .storeMisaligned
    else if !s.coreMay l true a size then s.trapLane l .storeFault
    else s.coreAccess l a size v x

/-- A command register written by a lane with a store of 32 bits. -/
def State.commandStore (s : State) (l : Lane) (a v : Nat) : State := s.laneStore l a 4 v cleanWrite

/-- The word of a register with its present RW fields, one field given another value. -/
def State.wordWith (s : State) (l : Lane) (a : Nat) (f : Field) (v : Nat) : Nat :=
  match findReg a with
  | none => 0
  | some p => sumN ((p.fields l).map (fun x => if x.1 = f then v * 2 ^ f.lo else if x.2.1 = .rw then s.rd x.1 * 2 ^ x.1.lo else 0))

/-- A lane writes the enable of a function (R28), the other fields of its register as they are. -/
def State.enableWrite (s : State) (l : Lane) (f : Func) (v : Nat) : State :=
  s.commandStore l (enField f).reg (s.wordWith l (enField f).reg (enField f) v)

end Sys2Proof.Machine
end

