-- ==== Sys2Proof/Machine/Boot.lean ====
section
/-!
DEFINITION. The cold start (R346, R347, R350, R351, R354, R355, R360): the boot header, what the boot ROM does with the update record, the configuration image, and the
loading of both lanes.
-/
namespace Sys2Proof.Machine

/-! ### The boot header (R346, R347) -/

/-- A copy of the boot header that is usable. -/
def headerUsable (h : Octets) : Bool :=
  slice h 0 4 == [octet 0x46, octet 0x56, octet 0x42, octet 0x48] && octAt h 4 == 1 && allZero (slice h 18 230) && leAt h 248 4 == crc32c (h.take 248) &&
  leAt h 252 4 == validMark

/-- What a header says. -/
def readHeader (h : Octets) : BootHeader := ⟨octAt h 5, octAt h 6, octAt h 7, octAt h 16, octAt h 17, leAt h 12 4⟩

/-- The copy in force: the usable one with the higher GEN, copy 0 where they are equal. -/
def State.chooseHeader (s : State) : Option BootHeader :=
  let a := s.acmRead 0 256
  let b := s.acmRead 0x1000 256
  if headerUsable a && headerUsable b then some (readHeader (if leAt a 8 4 < leAt b 8 4 then b else a))
  else if headerUsable a then some (readHeader a) else if headerUsable b then some (readHeader b) else none

/-! ### The configuration image (R350, R351) -/

/-- What a CFG body holds: the register entries in order, the lane data by offset, and the value for RLD_CFG. -/
structure CfgBody where
  regs : List (Nat × Nat)
  data : List (Nat × Octets)
  upd : Option Nat

/-- `n` consecutive words from an address. -/
def wordEntries : Nat → Nat → Octets → List (Nat × Nat)
  | 0, _, _ => []
  | n + 1, a, bs => (a, leAt bs 0 4) :: wordEntries n (a + 4) (bs.drop 4)

/-- The entries of a REGS section; `none` where an entry is refused for its form. -/
def readRegs : Nat → Octets → Option (List (Nat × Nat))
  | _, [] => some []
  | 0, _ => none
  | fuel + 1, bs =>
    let a := leAt bs 0 4
    let n := leAt bs 4 4
    if bs.length < 8 then none
    else if a % 4 = 0 then (readRegs fuel (bs.drop 8)).map (fun t => (a, n) :: t)
    else if a % 4 = 1 ∧ 8 + 4 * n ≤ bs.length then (readRegs fuel (bs.drop (8 + 4 * n))).map (fun t => wordEntries n (a / 4 * 4) (bs.drop 8) ++ t)
    else none

/-- The sections of a CFG body in order; `none` where one is not as R350 states. -/
def readSections : Nat → Octets → Option CfgBody
  | _, [] => some ⟨[], [], none⟩
  | 0, _ => none
  | fuel + 1, bs =>
    let n := leAt bs 4 4
    let c := slice bs 8 n
    if bs.length < 8 ∨ leAt bs 2 2 ≠ 0 ∨ bs.length < 8 + n then none
    else match readSections fuel (bs.drop (8 + n)) with
      | none => none
      | some r =>
        match leAt bs 0 2 with
        | 1 => (readRegs (n + 1) c).map (fun es => { r with regs := es ++ r.regs })
        | 2 => if n < 4 ∨ 0x400000 < leAt c 0 4 + (n - 4) then none else some { r with data := (leAt c 0 4, c.drop 4) :: r.data }
        | 3 => if n = 4 then some { r with upd := some (r.upd.getD (leAt c 0 4)) } else none
        | _ => none

/-- A register that a REGS entry may not address (R351). -/
def regRefused (a : Nat) : Bool :=
  a < 0x40000000 || 0x40160000 ≤ a || a == 0x40000008 || a == 0x40020000 || (0x40020050 ≤ a && a < 0x40020064) ||
  (0x40030000 ≤ a && a < 0x40040000) || (0x40100000 ≤ a && a < 0x40130000) || (0x40040050 ≤ a && a < 0x40040080) ||
  (0x40040094 ≤ a && a < 0x400400A4) || (0x400E0010 ≤ a && a < 0x400E0020)

/-- The sections of an acceptable CFG, if its tag verifies and no entry is refused. -/
def State.cfgBody (s : State) : State × Option CfgBody :=
  let c := s.slotContainer (2 + s.rd RLD_STATE_CFGCUR)
  let r := s.acceptable c ctxBoot
  if !r.2 || containerKind c != 2 then (r.1, none)
  else match r.1.bodyOf c ctxBoot with
    | (s, none) => (s, none)
    | (s, some b) => match readSections (b.length + 1) b with
      | some x => (s, if x.regs.any (fun e => regRefused e.1) then none else some x)
      | none => (s, none)

/-- REGS and UPDCFG performed (R354 step 6). -/
def State.applyCfg (s : State) (x : CfgBody) : State :=
  let s := x.regs.foldl (fun (s : State) e => s.performWrite .boot e.1 e.2 cleanWrite) s
  match x.upd with
  | some v => (s.wr RLD_CFG_DEFER (v / 65536)).wr RLD_CFG_DEADLINE v
  | none => s

/-! ### What the update record asks at a start (R361, R365, R366) -/

/-- A rollback taken at a start: the restore is made (again). The Bool says whether the start goes on; KIND 2 and 3 reset the module. -/
def State.bootRestore (s : State) : State × Bool := ((s.setStep .restoring).restored, s.rd RLD_STATE_KIND == 1)

/-- The recoveries of R354 step 3. -/
def State.bootRecover (s : State) : State × Bool :=
  let st := s.upState
  if st = upSaving then ((s.upCause 9).upTo upIdle, true)
  else if st = upWriting ∨ st = upTrial then ((s.upCause 6).upTo upRollback).bootRestore
  else if st = upRollback then s.bootRestore
  else if st = upCommitting then ((s.commitSettings.commitVersions true).upTo upIdle, true)
  else if st = upCfgBoot then (s.upTo upTrial, true)
  else (s, true)

/-- A container that fails at a start: the rollback where the record allows it, else the flag, with both lanes held in the boot ROM (R354, R364). -/
def State.bootFail (s : State) (cause : Nat) (flag : Field) : State :=
  if s.upState = upTrial then ((s.rollback cause).bootRestore).1 else s.raise flag

/-! ### The lanes (R354 steps 7 to 9, R355) -/

/-- A factory image taken from staging slot 0 (R355), with the record that was read but for VCUR (DEDUCED, notes/assumptions/65). -/
def State.install (s : State) : State × Bool :=
  let c := s.slotContainer 0
  let r := s.acceptable c ctxBoot
  if s.upState = upIdle ∧ r.2 ∧ containerKind c = 1 then (((r.1.writeCodeStore c).wr RLD_VCUR_VERSION (containerVersion c)).writeRecord, true) else (r.1, false)

/-- A code store with an acceptable container, installed where there is none. -/
def State.bootStore (s : State) : State × Bool :=
  let c := s.codeStore
  let r := s.acceptable c ctxBoot
  if r.2 && containerKind c == 1 then (r.1, true) else r.1.install

/-- The container of the code store decrypted into each lane that BLOCK does not hold, and LANEDATA copied. -/
def State.bootLanes (s : State) (x : CfgBody) : State :=
  match s.bootStore with
  | (s, false) => s.bootFail 7 RLD_STATUS_IMGBAD
  | (s, true) =>
    let c := s.codeStore
    match s.bodyOf c ctxBoot with
    | (s, none) => s.bootFail 7 RLD_STATUS_IMGBAD
    | (s, some b) =>
      let put := fun (s : State) (l : Lane) =>
        if s.blocked l then s else x.data.foldl (fun (s : State) d => s.sramWrite l d.1 d.2) (s.placeBody l (leAt c 24 4) b)
      put (put s .A) .B

/-! ### The cold start (R354) -/

/-- What the boot ROM waits for: the refills of both lanes, and ROOTOK or NOROOT but in RETIRED (R325, R355). -/
def State.bootReady (s : State) : Bool :=
  s.up && !s.rld.booted && s.role .A == roleBoot && s.role .B == roleBoot && !s.laneA.refilling && !s.laneB.refilling &&
  !(s.blocked .A && s.blocked .B) && (s.on KSU_STATUS_ROOTOK || s.on KSU_STATUS_NOROOT || s.lcState == lcRetired)

/-- Steps 4 to 9. -/
def State.bootImages (s : State) : State :=
  match s.cfgBody with
  | (s, none) => s.bootFail 8 RLD_STATUS_CFGBAD
  | (s, some x) => (s.applyCfg x).bootLanes x

/-- The cold start. With no usable header, and in RETIRED, both lanes stay held in the boot ROM. -/
def State.coldBoot (s : State) : State :=
  if !s.bootReady then s
  else
    let s := { s with rld := { s.rld with booted := true } }
    match s.chooseHeader with
    | none => s.raise RLD_STATUS_NOHDR
    | some h =>
      let s := { s with acmSize := h.acmSize, rld := { s.rld with header := some h } }
      if s.lcState = lcRetired then s
      else match s.readRecord.bootRecover with
        | (s, false) => s
        | (s, true) => s.bootImages

end Sys2Proof.Machine
end

