-- ==== Sys2Proof/Machine/BackhaulCommands.lean ====
section
/-!
DEFINITION. The commands of one family. The backhaul ring ports, Day Rest and the pole bus (R222 to R252, R402).
-/
namespace Sys2Proof.Machine

/-- LINK_UP: A port reaches link up (R223), with the speed and the duplex found (R222). -/
def execLinkUp (p : Fin 2) (speed : BitVec 2) (half : Bool) (s : State) : Host.Outcome State Fault Refusal :=
  .next (s.whenUp (fun (s : State) => s.linkUp p.val speed.toNat half))

/-- LINK_DOWN: A port loses link (R223). -/
def execLinkDown (p : Fin 2) (s : State) : Host.Outcome State Fault Refusal :=
  .next (s.whenUp (fun (s : State) => s.linkDown p.val))

/-- BH_FRAME_RECEIVE: A frame received by a port (R226): how many UI its first octet stands behind the PCS word edge (R40), its octets without the FCS, and what it meets. -/
def execBhFrameReceive (p : Fin 2) (symbol : Nat) (frame : Octets) (meet : RxMeet) (s : State) : Host.Outcome State Fault Refusal :=
  .next (s.whenUp (fun (s : State) => s.bhReceive p.val symbol frame meet))

/-- HSR_FORWARD: A ring frame leaves by a port (R236), its first octet so many UI behind the PCS word edge (R40), with what it meets. -/
def execHsrForward (p : Fin 2) (symbol : Nat) (meet : TxMeet) (s : State) : Host.Outcome State Fault Refusal :=
  .next (s.whenUp (fun (s : State) => s.forward p.val symbol meet))

/-- TX_TAIL_WRITE: A store to TX_TAIL of a port (R237). -/
def execTxTailWrite (l : Lane) (p : Fin 2) (value : Word) (s : State) : Host.Outcome State Fault Refusal :=
  .next (s.commandStore l (0x40090088 + 0x10000 * p.val) value.toNat)

/-- TX_FRAME_SEND: A port sends the next frame (R239, R241), its first octet so many UI behind the PCS word edge (R40), with what it meets. -/
def execTxFrameSend (p : Fin 2) (symbol : Nat) (meet : TxMeet) (s : State) : Host.Outcome State Fault Refusal :=
  .next (s.whenUp (fun (s : State) => s.txSend p.val symbol meet))

/-- DESCRIPTOR_WRITEBACK: The next descriptor is written back (R237). -/
def execDescriptorWriteback (s : State) : Host.Outcome State Fault Refusal :=
  .next (s.whenUp State.writeBackNext)

/-- VERIFY_MPACKET_TIMER: VERIFY_MS has passed without a respond mPacket (R242). -/
def execVerifyMpacketTimer (p : Fin 2) (s : State) : Host.Outcome State Fault Refusal :=
  .next (s.whenUp (fun (s : State) => s.verifyTimer p.val))

/-- RESPOND_MPACKET_RECEIVE: A respond mPacket (R242). -/
def execRespondMpacketReceive (p : Fin 2) (s : State) : Host.Outcome State Fault Refusal :=
  .next (s.whenUp (fun (s : State) => s.respond p.val))

/-- PAUSE_RECEIVE: A PAUSE or PFC frame (R243): the enable vector of PFC, and the quanta of the eight priorities, the first for PAUSE. -/
def execPauseReceive (p : Fin 2) (pfc : Bool) (mask : Byte) (quanta : List Nat) (s : State) : Host.Outcome State Fault Refusal :=
  .next (s.whenUp (fun (s : State) => s.pauseReceive p.val pfc mask.toNat quanta))

/-- PAUSE_EXPIRY: The quanta of a pause have run out (R243). -/
def execPauseExpiry (p : Fin 2) (tc : Fin 8) (s : State) : Host.Outcome State Fault Refusal :=
  .next (s.whenUp (fun (s : State) => s.pauseExpiry p.val tc.val))

/-- PAUSE_WATCHDOG_EXPIRY: A class has been paused for PWD ms (R243). -/
def execPauseWatchdogExpiry (p : Fin 2) (tc : Fin 8) (s : State) : Host.Outcome State Fault Refusal :=
  .next (s.whenUp (fun (s : State) => s.pauseWatchdog p.val tc.val))

/-- DUPLICATE_ENTRY_FORGET: An entry of the duplicate table has been unused for FORGET ms (R234). -/
def execDuplicateEntryForget (src : BitVec 48) (s : State) : Host.Outcome State Fault Refusal :=
  .next (s.whenUp (fun (s : State) => s.dupForget src.toNat))

/-- ENTER: A store to BHM0_DR_CMD (R248). -/
def execEnter (l : Lane) (key : BitVec 16) (enter : Bool) (s : State) : Host.Outcome State Fault Refusal :=
  .next (s.commandStore l 0x40090300 (key.toNat * 65536 + b2n enter))

/-- DR_WAKE_TIME: Network time reaches DR_WAKE_T (R249). -/
def execDrWakeTime (s : State) : Host.Outcome State Fault Refusal :=
  .next (s.whenUp State.drWakeTime)

/-- HEARTBEAT_REST_TOGGLE: A network second divisible by 4 in REST (R402). -/
def execHeartbeatRestToggle (s : State) : Host.Outcome State Fault Refusal :=
  .next (s.whenUp State.heartbeatRest)

/-- PB_FRAME_RECEIVE: A frame received by the pole bus port (R252). -/
def execPbFrameReceive (frame : Octets) (good : Bool) (s : State) : Host.Outcome State Fault Refusal :=
  .next (s.whenUp (fun (s : State) => s.pbReceive frame good))

/-- PB_FRAME_TRANSMIT: The pole bus port is ready to send the frame in hand (R251); `carrier`: it senses carrier; `poison`: a word of the frame is delivered poisoned (R384). -/
def execPbFrameTransmit (carrier : Bool) (poison : Bool) (s : State) : Host.Outcome State Fault Refusal :=
  .next (s.whenUp (fun (s : State) => s.pbSend carrier poison))

/-- PB_COLLISION: A collision on the pole bus (R251); `late`: after 64 octets. -/
def execPbCollision (late : Bool) (s : State) : Host.Outcome State Fault Refusal :=
  .next (s.whenUp (fun (s : State) => s.pbCollision late))

/-- PB_BACKOFF_EXPIRY: The backoff has passed (R251). -/
def execPbBackoffExpiry (s : State) : Host.Outcome State Fault Refusal :=
  .next (s.whenUp State.pbBackoff)

end Sys2Proof.Machine
end

