-- ==== Sys2Proof/Machine/CreaseCommands.lean ====
section
/-!
DEFINITION. The commands of one family. The Crease Sequencer: closure, intake, delivery, start, stop and injection (R69 to R80).
-/
namespace Sys2Proof.Machine

/-- A delivery with the check of R75: a batch delivered whose digest differs sets DIGERR, counts against its Crease where the lane is Active (R81), and is a lane fault. -/
def State.deliverChecked (s : State) (l : Lane) (bad : Bool) : State :=
  let t := s.deliver l
  if bad && t.rd (CRZ_EQ_WR_WR l) != s.rd (CRZ_EQ_WR_WR l) then ((t.raise (digerrFlag l)).countAgainst l 2).laneFault l causeDelivDig else t

/-- CREASE_CLOSURE: The counter reaches the end of the hold-back (R71); `bad`: the closure summary of the Time Base is read with an error (R79, R384). -/
def execCreaseClosure (bad : Bool) (s : State) : Host.Outcome State Fault Refusal :=
  .next (s.whenUp (fun (s : State) => s.closeCrease bad))

/-- EVENT_REGISTER: The intake takes the oldest event that waits on a channel (R69, R76). -/
def execEventRegister (chan : Fin 128) (s : State) : Host.Outcome State Fault Refusal :=
  .next (s.whenUp (fun (s : State) => s.intake chan.val))

/-- INTAKE_RESUME: Enough pool slots are free for the event at which the intake stopped (R76). -/
def execIntakeResume (s : State) : Host.Outcome State Fault Refusal :=
  .next (s.whenUp State.intakeResume)

/-- BATCH_DELIVERY: The oldest sealed batch is delivered to a lane (R74); `bad`: the delivery port's digest differs (R75). -/
def execBatchDelivery (l : Lane) (bad : Bool) (s : State) : Host.Outcome State Fault Refusal :=
  .next (s.whenUp (fun (s : State) => s.deliverChecked l bad))

/-- CRZ_ENABLE: A store of CRZ_CTRL.EN = 1 (R78). -/
def execCrzEnable (l : Lane) (s : State) : Host.Outcome State Fault Refusal :=
  .next (s.commandStore l 0x40020000 1)

/-- CRZ_DISABLE: A store of CRZ_CTRL.EN = 0 (R78). -/
def execCrzDisable (l : Lane) (s : State) : Host.Outcome State Fault Refusal :=
  .next (s.commandStore l 0x40020000 0)

/-- INJECT_EVENT: A store to CRZ_INJ_CMD (R80). -/
def execInjectEvent (l : Lane) (chan : BitVec 7) (kind : Byte) (s : State) : Host.Outcome State Fault Refusal :=
  .next (s.commandStore l 0x40020060 (chan.toNat * 256 + kind.toNat))

end Sys2Proof.Machine
end

