-- ==== Sys2Proof/Machine/DmaCommands.lean ====
section
/-!
DEFINITION. The commands of one family. The DMA engine and the dual-clock queues (R369 to R386).
-/
namespace Sys2Proof.Machine

/-- DMA_TAIL_WRITE: A store to CH_TAIL of a channel (R369). -/
def execDmaTailWrite (l : Lane) (ch : Fin 16) (value : Word) (s : State) : Host.Outcome State Fault Refusal :=
  .next (s.commandStore l (0x4013010C + 32 * ch.val) value.toNat)

/-- COPY: A channel works a COPY descriptor (R372); `descBad`: the descriptor itself is read poisoned (R378). -/
def execCopy (ch : Fin 16) (descBad : Bool) (meet : BusErrors) (s : State) : Host.Outcome State Fault Refusal :=
  .next (s.whenUp (fun (s : State) => s.dmaStart 0 ch.val descBad meet))

/-- GATHER: A channel works a GATHER descriptor (R372). -/
def execGather (ch : Fin 16) (descBad : Bool) (meet : BusErrors) (s : State) : Host.Outcome State Fault Refusal :=
  .next (s.whenUp (fun (s : State) => s.dmaStart 1 ch.val descBad meet))

/-- FILL: A channel works a FILL descriptor (R373). -/
def execFill (ch : Fin 16) (descBad : Bool) (meet : BusErrors) (s : State) : Host.Outcome State Fault Refusal :=
  .next (s.whenUp (fun (s : State) => s.dmaStart 2 ch.val descBad meet))

/-- COMPARE: A channel works a COMPARE descriptor (R374). -/
def execCompare (ch : Fin 16) (descBad : Bool) (meet : BusErrors) (s : State) : Host.Outcome State Fault Refusal :=
  .next (s.whenUp (fun (s : State) => s.dmaStart 3 ch.val descBad meet))

/-- DMA_DESCRIPTOR_COMPLETE: The last write response of a channel's descriptor, or its last read (R375). -/
def execDmaDescriptorComplete (ch : Fin 16) (s : State) : Host.Outcome State Fault Refusal :=
  .next (s.whenUp (fun (s : State) => s.dmaComplete ch.val))

/-- DMA_RESPONSE_TIMEOUT: RTO expires with responses missing (R375): `done` of the destination had been answered. -/
def execDmaResponseTimeout (ch : Fin 16) (done : Nat) (s : State) : Host.Outcome State Fault Refusal :=
  .next (s.whenUp (fun (s : State) => s.dmaTimeout ch.val done))

/-- COMPLETION_RECORD_WRITE: The oldest completion record is written (R377). -/
def execCompletionRecordWrite (s : State) : Host.Outcome State Fault Refusal :=
  .next (s.whenUp State.dmaRecordWrite)

/-- FLUSH: A store of FLUSH to a dual-clock queue (R385); `writing`: its writer is writing a packet. -/
def execFlush (l : Lane) (q : Fin 17) (writing : Bool) (s : State) : Host.Outcome State Fault Refusal :=
  .next (s.laneStore l (0x40140100 + 16 * q.val) 4 (s.wordWith l (0x40140100 + 16 * q.val) (DCQ_Q_W0_FLUSH q.val) 1) (whileWriting writing))

/-- DROP: A store of DROP to a dual-clock queue (R385). -/
def execDrop (l : Lane) (q : Fin 17) (writing : Bool) (s : State) : Host.Outcome State Fault Refusal :=
  .next (s.laneStore l (0x40140100 + 16 * q.val) 4 (s.wordWith l (0x40140100 + 16 * q.val) (DCQ_Q_W0_DROP q.val) 1) (whileWriting writing))

/-- DCQ_WORD_READ: The next word of a dual-clock queue is read (R383); `bad`: its parity fails. -/
def execDcqWordRead (q : Fin 17) (bad : Bool) (s : State) : Host.Outcome State Fault Refusal :=
  .next (s.whenUp (fun (s : State) => s.dcqRead q.val bad))

end Sys2Proof.Machine
end

