-- ==== Sys2Proof/Machine/FelterCommands.lean ====
section
/-!
DEFINITION. The commands of one family. Result records, the collector and the actions that miss their deadline (R124 to R126, R142).
-/
namespace Sys2Proof.Machine

/-- The first record whose send time has come leaves (R124): from a collector a module record goes into its own intake queue (R125), any other is sent as a datagram of the class of
BHM0_TPL and counted. -/
def State.sendRecord (s : State) : State :=
  match s.flt.records.find? (fun r => decide (r.sendAt ≤ s.now)) with
  | none => s
  | some r =>
    let t := { s with flt := { s.flt with records := s.flt.records.erase r } }
    if s.on FLT_CTRL_COLLECTOR && !r.district then t.intakeOffer (s.recordOctets r)
    else (t.queueDatagram (s.rd BHM0_TPL_CFG_TC) none (s.recordOctets r)).count FLT_SEND_CNT_COUNT FLT_STATUS_CNTWRAP

/-- RESULT_RECORD_SEND: The send time of a result record has come (R124, R125). -/
def execResultRecordSend (s : State) : Host.Outcome State Fault Refusal :=
  .next (s.whenUp State.sendRecord)

/-- COLLECTOR_RECORD_RECEIVE: The payload of a UDP datagram to INPORT (R125). -/
def execCollectorRecordReceive (record : Octets) (s : State) : Host.Outcome State Fault Refusal :=
  .next (s.whenUp (fun (s : State) => if s.on FLT_CTRL_COLLECTOR then s.intakeOffer record else s))

/-- COLLECTOR_INTAKE: The intake takes the record at the head of its queue (R126). -/
def execCollectorIntake (s : State) : Host.Outcome State Fault Refusal :=
  .next (s.whenUp State.intakeRecord)

/-- ACTION_DEADLINE_MISS: The deadlines that have passed on a path (R142). -/
def execActionDeadlineMiss (path : Path) (s : State) : Host.Outcome State Fault Refusal :=
  .next (s.whenUp (fun (s : State) => s.dropMissed path))

end Sys2Proof.Machine
end

