-- ==== Sys2Proof/Machine/KeyCommands.lean ====
section
/-!
DEFINITION. The commands of one family. The Key Storage Unit and the crypto engine (R322 to R342).
-/
namespace Sys2Proof.Machine

/-- ROOT_RECOVERY: The KSU recovers its root after a reset (R322) from the octets of the PUF array as it powers up (R320). -/
def execRootRecovery (array : Octets) (s : State) : Host.Outcome State Fault Refusal :=
  .next (s.whenUp (fun (s : State) => s.rootRecovery array))

/-- HELPER_MIRROR_WRITE: The boot ROM writes the ACM mirror of the helper data to KSU_HLP (R322). -/
def execHelperMirrorWrite (s : State) : Host.Outcome State Fault Refusal :=
  .next (s.whenUp (fun (s : State) => s.mirrorWrite (s.acmRead 0x2000 1024)))

/-- TRANSITION: KSU_CMD OP = TRANSITION (R327); `user`: from U mode (R333). -/
def execTransition (l : Lane) (key : BitVec 16) (user : Bool) (s : State) : Host.Outcome State Fault Refusal :=
  .next (s.laneStore l 0x40100020 4 (key.toNat * 65536 + 1) (userWrite user []))

/-- IMPORT: KSU_CMD OP = IMPORT (R336). -/
def execImportBlob (l : Lane) (key : BitVec 16) (user : Bool) (s : State) : Host.Outcome State Fault Refusal :=
  .next (s.laneStore l 0x40100020 4 (key.toNat * 65536 + 2) (userWrite user []))

/-- DERIVE: KSU_CMD OP = DERIVE (R337). -/
def execDerive (l : Lane) (key : BitVec 16) (user : Bool) (s : State) : Host.Outcome State Fault Refusal :=
  .next (s.laneStore l 0x40100020 4 (key.toNat * 65536 + 3) (userWrite user []))

/-- CLEAR: KSU_CMD OP = CLEAR (R337). -/
def execClear (l : Lane) (key : BitVec 16) (user : Bool) (s : State) : Host.Outcome State Fault Refusal :=
  .next (s.laneStore l 0x40100020 4 (key.toNat * 65536 + 4) (userWrite user []))

/-- ENROLPUF: KSU_CMD OP = ENROLPUF (R323) with the octets of the PUF array as its nine reads find them. -/
def execEnrolpuf (l : Lane) (key : BitVec 16) (user : Bool) (reads : List Octets) (s : State) : Host.Outcome State Fault Refusal :=
  .next (s.laneStore l 0x40100020 4 (key.toNat * 65536 + 5) (userWrite user reads))

/-- CRY_JOB: A store to CRY_JOB (R342). -/
def execCryJob (l : Lane) (addr : Word) (user : Bool) (s : State) : Host.Outcome State Fault Refusal :=
  .next (s.laneStore l 0x40110010 4 addr.toNat (userWrite user []))

/-- CRY_JOB_COMPLETE: The oldest crypto job ends (R342); `poison`: it read a poisoned word. -/
def execCryJobComplete (poison : Bool) (s : State) : Host.Outcome State Fault Refusal :=
  .next (s.whenUp (fun (s : State) => s.cryComplete poison))

end Sys2Proof.Machine
end

