-- ==== Sys2Proof/Machine/Drain.lean ====
section
/-!
DEFINITION. The drain of a Crease's commit records into the blocks, its completion, and the halt of Day Rest (R97, R101, R121, R122, R132, R153, R248, R393, R402).
-/
namespace Sys2Proof.Machine

/-! ### Which records are drained (R97, R101) -/

/-- The sealed buffer of a lane whose records are to be drained. -/
def State.drainBuf (s : State) (l : Lane) : Option SealedBuf := (s.lane l).sealedBuf.filter (fun b => b.active)

/-- The lane whose records are drained next: of those that wait, the lowest Crease index. -/
def State.drainLane (s : State) : Option (Lane × SealedBuf) :=
  match s.drainBuf .A, s.drainBuf .B with
  | some a, some b => if b.k < a.k then some (.B, b) else some (.A, a)
  | some a, none => some (.A, a)
  | none, some b => some (.B, b)
  | none, none => none

/-- A drain may start: the other lane has formed digest `k`, or is not SHADOW, or CMP_WAIT has elapsed. -/
def State.drainMay (s : State) (l : Lane) (k : Nat) : Bool := !s.digestAwaited k l.other || s.lsc.cmpExpired == some k

/-! ### The records (R93) -/

/-- One commit record performed as a write of its lane. -/
def State.performRecord (s : State) (l : Lane) (k a v : Nat) : State :=
  if 0x20000000 ≤ a ∧ a < 0x21000000 then (s.pstWrite .commit (a % 0x20000000) v).1 else s.performWrite (.commit l k) a v cleanWrite

/-- The records in program order; a record that resets the module ends the drain. -/
def performRecords (l : Lane) (k : Nat) : List (Nat × Nat) → State → State
  | [], s => s
  | (a, v) :: t, s => if s.lsc.drain.isNone then s else performRecords l k t (s.performRecord l k a v)

/-! ### Errors met in the drain (R121, R153) -/

/-- The list that the Launch Unit takes where the drained engine's is in error at place `i`: the rest comes from the other engine, or is dropped and counted (R153). -/
def State.escortList (s : State) (l : Lane) (k i : Nat) : List EscAction × Nat :=
  let mine := (((s.esc l).outs.find? (·.k == k)).map (·.actions)).getD []
  match (if s.inService l.other then (s.esc l.other).outs.find? (·.k == k) else none) with
  | some o => (mine.take i ++ o.actions.drop i, 0)
  | none => (mine.take i, mine.length - i)

/-- Step 4 of a drain (R132), with the lane fault of an error in the engine's memory (R153). -/
def State.drainEscort (s : State) (l : Lane) (k : Nat) (bad : Option Nat) : State :=
  match bad with
  | none => s.escortDrain l k
  | some i =>
    let r := s.escortList l k i
    let e := s.esc l
    let t := s.setEsc l { e with outs := e.outs.map (fun o => if o.k = k then { o with actions := r.1 } else o) }
    let t := (t.escortDrain l k).addCount ESC_DROP_CNT_COUNT r.2 ESC_STATUS_CNTWRAP
    (t.raise ESC_STATUS_ESCUE).laneFault l causeSramUe

/-! ### The drain (R97, R132) -/

/-- The drain of Crease `k` of lane `l`: entries retire and profiles release, the recorder counts the Crease, the records are performed, and the result records and the
Escort list follow. -/
def State.drainRecords (s : State) (l : Lane) (b : SealedBuf) (m : DrainMeet) : State :=
  let k := b.k
  let s := { s with lsc := { s.lsc with drain := some ⟨k, l, false⟩, nextDrain := k + 1 } }
  let s := { s with flt := { s.flt with requests := [] } }
  let s := ((s.guardEntry m.queue).launchOpen k).recorderOpen k
  let s := performRecords l k b.records s
  if s.lsc.drain.isNone then s
  else
    let s := (s.felterBuild k l m.felter).drainEscort l k m.escort
    { s with lsc := { s.lsc with drain := some ⟨k, l, true⟩ } }

/-- The next drain, where one may start. -/
def State.commitDrain (s : State) (m : DrainMeet) : State :=
  if s.lsc.drain.isSome then s
  else match s.drainLane with
    | none => s
    | some (l, b) => if s.drainMay l b.k then s.drainRecords l b m else s

/-! ### The completion of a drain (R97, R248, R283, R393, R402) -/

/-- Every lane in service has formed the digest of k_last, and its drain has completed (R248). -/
def State.restReady (s : State) : Bool :=
  let k := s.rd BHM0_DR_KIDX_IDX
  let formed := fun (l : Lane) => !s.inService l || (match (s.lane l).formed with
    | some (j, _) => decide (k ≤ j)
    | none => false)
  s.rd BHM0_DR_STAT_STATE == 1 && s.crz.rest && s.lsc.drain.isNone && decide (k < s.lsc.nextDrain) && formed .A && formed .B

/-- Day Rest begins: both lanes' clocks stop and STATE becomes REST (R248). -/
def State.restHalt (s : State) : State :=
  if s.restReady then { s.wr BHM0_DR_STAT_STATE 2 with lsc := { s.lsc with laneClocks := false } } else s

/-- A drain completes: its words are in the cells, its buffer is released, the safety frame is sent and HEARTBEAT is inverted. -/
def State.drainComplete (s : State) : State :=
  match s.lsc.drain with
  | none => s
  | some d =>
    if !d.done then s
    else
      let stores := match (s.lane d.lane).sealedBuf with
        | some b => b.records.any (fun r => 0x20000000 ≤ r.1 && decide (r.1 < 0x21000000))
        | none => false
      let s := if stores then s.pstDrain .commit else s
      let s := { s.releaseBuf d.lane with lsc := { s.lsc with drain := none } }
      ((s.safetyFrame d.k).heartbeatDrain).restHalt

/-- The seal of a lane completes (R94), with the correctable errors that LSC met in its SRAM (R86) and what the safety block and Day Rest do at it (R248, R405). -/
def State.sealComplete (s : State) (l : Lane) (corrected : Nat) : State :=
  let did := (s.lane l).sealing.isSome && (s.lane l).sealedBuf.isNone
  let was := s.role l == roleActive
  let s := if did then s.addCount (LSC_CE_CNT_COUNT l) corrected LSC_STATUS_CEWRAP else s
  let s := s.sealDone l
  (if did && was then s.safSeal else s).restHalt

end Sys2Proof.Machine
end

