-- ==== Sys2Proof/Machine/LaneCommands.lean ====
section
/-!
DEFINITION. The commands of one family. The control lanes and the Lane Supervisor: contexts, commit records, seals, drains, faults and role commands (R23, R24, R88 to R106).
-/
namespace Sys2Proof.Machine

/-- A write of mlanectx by a lane that executes (R89). -/
def State.contextWrite (s : State) (l : Lane) (det user : Bool) : State :=
  if !s.laneRuns l then s
  else if user then s.trapLane l .illegalInstruction
  else s.onLane l (fun x => { x with det := det })

/-- What the fence does with an access (R90): in deterministic context a load of an ND field and a store to CRZ_INJ_CMD or LSC_CMD fault and the named CSRs are illegal; the time CSR is
illegal in both contexts. An access that the fence does not forbid is no violation. -/
def State.fence (s : State) (l : Lane) (access : FenceAccess) : State :=
  if !s.laneRuns l then s
  else match access with
    | .load a => if (s.lane l).det && isNd l a.toNat then s.trapLane l .loadFault else s
    | .timeCsr => s.trapLane l .illegalInstruction
    | .csr => if (s.lane l).det then s.trapLane l .illegalInstruction else s
    | .store a => if (s.lane l).det && (a == 0x40020060#32 || a == 0x40030018#32) then s.trapLane l .storeFault else s

/-- Whether an interrupt is pending for a lane and its context allows it (R23, R24). -/
def State.mayInterrupt (s : State) (l : Lane) : IntSource → Bool
  | .external => s.laneRuns l && s.meip l && !(s.lane l).det
  | .batchReady => s.laneRuns l && s.batchReady l
  | .laneFault => s.lanesRun && (s.lane l).mip17

/-- A lane takes an interrupt: its trap is recorded. -/
def State.interrupt (s : State) (l : Lane) (source : IntSource) : State :=
  if s.mayInterrupt l source then s.trapLane l (.interrupt source) else s

/-- A lane fault by its kind (R86 to R88, R121, R153, R395, R397). -/
def State.faultOf (s : State) (l : Lane) : LaneFaultKind → State
  | .lockstep => s.laneFault l causeLockstep
  | .sram => s.sramFault l
  | .felterEntry => (s.raise FLT_STATUS_RESUE).laneFault l causeSramUe
  | .escortMemory => (s.raise ESC_STATUS_ESCUE).laneFault l causeSramUe
  | .unit u => s.unitFault l (u.val + 1)
  | .poisonedLoad => s.poisonedLoad l

/-- MLANECTX_WRITE: A write of mlanectx (R89); from U mode it raises an illegal-instruction exception. -/
def execMlanectxWrite (l : Lane) (det : Bool) (user : Bool) (s : State) : Host.Outcome State Fault Refusal :=
  .next (s.contextWrite l det user)

/-- FENCE_VIOLATION: An access that the determinism fence may forbid (R90). -/
def execFenceViolation (l : Lane) (access : FenceAccess) (s : State) : Host.Outcome State Fault Refusal :=
  .next (s.fence l access)

/-- INTERRUPT_ENTRY: A lane takes a pending interrupt that its context allows (R23, R24). -/
def execInterruptEntry (l : Lane) (source : IntSource) (s : State) : Host.Outcome State Fault Refusal :=
  .next (s.interrupt l source)

/-- COMMIT_RECORD_STORE: A store in deterministic context (R93, R95). -/
def execCommitRecordStore (l : Lane) (addr : Word) (value : Word) (s : State) : Host.Outcome State Fault Refusal :=
  .next (if (s.lane l).det then s.laneStore l addr.toNat 4 value.toNat cleanWrite else s)

/-- LSC_SEAL: A store to LSC_SEAL (R94). -/
def execLscSeal (l : Lane) (value : Word) (s : State) : Host.Outcome State Fault Refusal :=
  .next (s.commandStore l 0x40030100 value.toNat)

/-- SEAL_COMPLETE: A seal completes (R94 to R100, R103); LSC has met `corrected` correctable errors as it read the lane's SRAM (R86). -/
def execSealComplete (l : Lane) (corrected : Nat) (s : State) : Host.Outcome State Fault Refusal :=
  .next (s.whenLanes (fun (s : State) => s.sealComplete l corrected))

/-- LANE_FAULT: A lane fault (R88). -/
def execLaneFault (l : Lane) (kind : LaneFaultKind) (s : State) : Host.Outcome State Fault Refusal :=
  .next (s.whenLanes (fun (s : State) => s.faultOf l kind))

/-- CMP_WAIT_EXPIRY: CMP_WAIT has passed without the digest of the Shadow lane (R97). -/
def execCmpWaitExpiry (s : State) : Host.Outcome State Fault Refusal :=
  .next (s.whenLanes State.cmpExpire)

/-- COMMIT_DRAIN: The records of a Crease are performed (R97, R132). -/
def execCommitDrain (meet : DrainMeet) (s : State) : Host.Outcome State Fault Refusal :=
  .next (s.whenUp (fun (s : State) => s.commitDrain meet))

/-- DRAIN_COMPLETE: A drain completes (R97). -/
def execDrainComplete (s : State) : Host.Outcome State Fault Refusal :=
  .next (s.whenUp State.drainComplete)

/-- SWAP: LSC_CMD OP = SWAP (R99). -/
def execSwap (l : Lane) (key : BitVec 16) (s : State) : Host.Outcome State Fault Refusal :=
  .next (s.commandStore l 0x40030018 (key.toNat * 65536 + 1))

/-- TAKEOUT_A: LSC_CMD OP = TAKEOUT_A (R99). -/
def execTakeoutA (l : Lane) (key : BitVec 16) (s : State) : Host.Outcome State Fault Refusal :=
  .next (s.commandStore l 0x40030018 (key.toNat * 65536 + 2))

/-- TAKEOUT_B: LSC_CMD OP = TAKEOUT_B (R99). -/
def execTakeoutB (l : Lane) (key : BitVec 16) (s : State) : Host.Outcome State Fault Refusal :=
  .next (s.commandStore l 0x40030018 (key.toNat * 65536 + 3))

/-- REJOIN: LSC_CMD OP = REJOIN (R100). -/
def execRejoin (l : Lane) (key : BitVec 16) (s : State) : Host.Outcome State Fault Refusal :=
  .next (s.commandStore l 0x40030018 (key.toNat * 65536 + 4))

/-- LSC_JOIN: A store to LSC_JOIN (R99). -/
def execLscJoin (l : Lane) (value : Word) (s : State) : Host.Outcome State Fault Refusal :=
  .next (s.commandStore l 0x40030104 value.toNat)

end Sys2Proof.Machine
end

