-- ==== Sys2Proof/Machine/LoaderCommands.lean ====
section
/-!
DEFINITION. The commands of one family. The resident loader: the ACM, verification, the live update and its verdict (R358 to R366).
-/
namespace Sys2Proof.Machine

/-- PROGRAM: RLD_CMD OP = PROGRAM (R358). -/
def execProgram (l : Lane) (key : BitVec 16) (s : State) : Host.Outcome State Fault Refusal :=
  .next (s.commandStore l 0x40120014 (key.toNat * 65536 + 5))

/-- ERASE: RLD_CMD OP = ERASE (R358). -/
def execErase (l : Lane) (key : BitVec 16) (s : State) : Host.Outcome State Fault Refusal :=
  .next (s.commandStore l 0x40120014 (key.toNat * 65536 + 4))

/-- ACM_OPERATION_DONE: A program or an erase of the ACM ends (R358). -/
def execAcmOperationDone (fail : Bool) (s : State) : Host.Outcome State Fault Refusal :=
  .next (s.whenUp (fun (s : State) => s.acmDone fail))

/-- VERIFY: RLD_CMD OP = VERIFY (R359). -/
def execVerify (l : Lane) (key : BitVec 16) (slot : BitVec 2) (s : State) : Host.Outcome State Fault Refusal :=
  .next (s.commandStore l 0x40120014 (key.toNat * 65536 + slot.toNat * 256 + 1))

/-- SCHEDULE: RLD_CMD OP = SCHEDULE (R361). -/
def execSchedule (l : Lane) (key : BitVec 16) (kind : BitVec 2) (cslot : Bool) (fslot : Bool) (s : State) : Host.Outcome State Fault Refusal :=
  .next (s.commandStore l 0x40120014 (key.toNat * 65536 + kind.toNat * 4096 + b2n cslot * 2048 + b2n fslot * 1024 + 2))

/-- CANCEL: RLD_CMD OP = CANCEL (R361). -/
def execCancel (l : Lane) (key : BitVec 16) (s : State) : Host.Outcome State Fault Refusal :=
  .next (s.commandStore l 0x40120014 (key.toNat * 65536 + 3))

/-- SAVE_COPY_DONE: The fallback copy ends (R361). -/
def execSaveCopyDone (fail : Bool) (s : State) : Host.Outcome State Fault Refusal :=
  .next (s.whenUp (fun (s : State) => s.saveDone fail))

/-- UPDATE_ACTIVATION: The activation of an armed update (R362). -/
def execUpdateActivation (s : State) : Host.Outcome State Fault Refusal :=
  .next (s.whenUp State.activate)

/-- ACTIVATION_DEFER_EXPIRY: DEFER has passed after TACT (R361). -/
def execActivationDeferExpiry (s : State) : Host.Outcome State Fault Refusal :=
  .next (s.whenUp State.deferExpiry)

/-- CODE_STORE_WRITTEN: The new container is in the code store (R363). -/
def execCodeStoreWritten (s : State) : Host.Outcome State Fault Refusal :=
  .next (s.whenUp State.codeWritten)

/-- VERDICT: A store to RLD_VERDICT (R364). -/
def execVerdict (l : Lane) (key : BitVec 16) (pass : Bool) (cause : Byte) (s : State) : Host.Outcome State Fault Refusal :=
  .next (s.commandStore l 0x40120030 (key.toNat * 65536 + b2n pass * 256 + cause.toNat))

/-- TRIAL_DEADLINE: The trial has met its deadline (R364). -/
def execTrialDeadline (s : State) : Host.Outcome State Fault Refusal :=
  .next (s.whenUp State.trialDeadline)

/-- COMMITTING_COPY_DONE: The settings of the trial have been copied (R365). -/
def execCommittingCopyDone (s : State) : Host.Outcome State Fault Refusal :=
  .next (s.whenUp State.committed)

/-- ROLLBACK_RESTORE_DONE: The restore of a rollback is complete (R366). -/
def execRollbackRestoreDone (s : State) : Host.Outcome State Fault Refusal :=
  .next (s.whenUp State.restored)

end Sys2Proof.Machine
end

