-- ==== Sys2Proof/Machine/MeterCommands.lean ====
section
/-!
DEFINITION. The commands of one family. The metering engine and the SF1 paths (R257 to R279).
-/
namespace Sys2Proof.Machine

/-- METERING_SAMPLE: A sample of the seven channels (R256, R257). -/
def execMeteringSample (raw : List Int) (s : State) : Host.Outcome State Fault Refusal :=
  .next (s.whenUp (fun (s : State) => s.meterSample raw))

/-- CROSSING_TIMEOUT: Three nominal half-cycles have passed without a valid crossing (R262). -/
def execCrossingTimeout (phase : Fin 3) (s : State) : Host.Outcome State Fault Refusal :=
  .next (s.whenUp (fun (s : State) => s.crossingTimeout phase.val))

/-- FREE_WINDOW_END: One nominal cycle has passed in FREE (R262). -/
def execFreeWindowEnd (phase : Fin 3) (s : State) : Host.Outcome State Fault Refusal :=
  .next (s.whenUp (fun (s : State) => s.freeWindowEnd phase.val))

/-- CREASE_SUMMARY: The summaries whose Crease has ended are registered (R272). -/
def execCreaseSummary (s : State) : Host.Outcome State Fault Refusal :=
  .next (s.whenUp (fun (s : State) => (if s.rd MTR_CTRL_RUNST = 1 then s.settleAll else s).registerSummaries))

/-- METERING_START: The Crease boundary at which metering starts (R279). -/
def execMeteringStart (s : State) : Host.Outcome State Fault Refusal :=
  .next (s.whenUp State.meterStart)

/-- METERING_STOP: A store of EN = 0, and the next sample, at which metering stops (R279). -/
def execMeteringStop (l : Lane) (raw : List Int) (s : State) : Host.Outcome State Fault Refusal :=
  .next (if s.laneRuns l then (s.commandStore l 0x400C0000 (s.wordWith l 0x400C0000 MTR_CTRL_EN 0)).stopSample raw else s)

/-- SF1_PATH_A_TRIP: Path A's filter stands at a residual current in 0.1 mA for a time in ns of its own clock, at whose end the path may have qualified (R276). -/
def execSf1PathATrip (current : Nat) (time : Nat) (s : State) : Host.Outcome State Fault Refusal :=
  .next (s.sf1See (.analog current time))

/-- SF1_PATH_B_TRIP: Samples of path B's own decimator, at one of which the path may have qualified (R276). -/
def execSf1PathBTrip (samples : List Int) (s : State) : Host.Outcome State Fault Refusal :=
  .next (s.sf1See (.digital samples))

/-- SF1_TRIP_RELEASE: What a path sees up to the moment at which it may release its output (R277). -/
def execSf1TripRelease (seen : Sf1Seen) (s : State) : Host.Outcome State Fault Refusal :=
  .next ((s.sf1See seen).sf1Release (sf1Path seen))

/-- SF1_DISAGREE_TIMEOUT: 100 ms have passed since one path asserted alone (R277). -/
def execSf1DisagreeTimeout (s : State) : Host.Outcome State Fault Refusal :=
  .next (s.whenUp State.sf1Alone)

/-- SF1_THR_WRITE: A store to MTR_SF1 (R278). -/
def execSf1ThrWrite (l : Lane) (value : Word) (s : State) : Host.Outcome State Fault Refusal :=
  .next (s.commandStore l 0x400C0030 value.toNat)

end Sys2Proof.Machine
end

