-- ==== Sys2Proof/Machine/PlcCommands.lean ====
section
/-!
DEFINITION. The commands of one family. The power-line modem and Reflect (R200 to R220).
-/
namespace Sys2Proof.Machine

/-- TIME_FRAME: Cell 0 of a PLC cycle (R203), with what the frame meets (R384, R396). -/
def execTimeFrame (meet : GuardMeet) (s : State) : Host.Outcome State Fault Refusal :=
  .next (s.whenUp (fun (s : State) => s.timeFrame meet))

/-- PLC_BUNDLE_CELL: A BUNDLE cell of the PLM (R206), with the time in ns from the stamp point to the last sample of what it sends, as G.9903 has it, and what its guards meet (R396). -/
def execPlcBundleCell (air : Nat) (meet : GuardMeet) (s : State) : Host.Outcome State Fault Refusal :=
  .next (s.whenUp (fun (s : State) => s.plcBundleCell air meet))

/-- PLC_FRAME_RECEIVE: A frame whose preamble ends now at the PLM (R200, R202): its octets without the FCS, how it is found, the FCS that an ACK repeats, and its signal-to-noise ratio. -/
def execPlcFrameReceive (psdu : Octets) (meet : PlcMeet) (fcsValue : BitVec 16) (snr : Byte) (s : State) : Host.Outcome State Fault Refusal :=
  .next (s.whenUp (fun (s : State) => s.plcReceive psdu meet fcsValue.toNat snr.toNat))

/-- PLC_ACK_RECEIVE: An ACK whose stamp point is now (R201, R202), and whether it repeats the FCS of the frame that waits. -/
def execPlcAckReceive (ours : Bool) (s : State) : Host.Outcome State Fault Refusal :=
  .next (s.whenUp (fun (s : State) => s.plcAck ours))

/-- PLC_ACK_WAIT_EXPIRY: The wait for an ACK ends (R201). -/
def execPlcAckWaitExpiry (s : State) : Host.Outcome State Fault Refusal :=
  .next (s.whenUp State.plcAckExpiry)

/-- PLC_REPORT_MISS: A report cycle of a lantern on the feeder is over (R205). -/
def execPlcReportMiss (lantern : Fin 2048) (cycle : Int) (s : State) : Host.Outcome State Fault Refusal :=
  .next (s.whenUp (fun (s : State) => s.plcReportEnd lantern.val cycle))

/-- PLC_DOWNLINK_QUEUE: A store to PLM_TXCMD (R206). -/
def execPlcDownlinkQueue (l : Lane) (handle : Byte) (dst : BitVec 11) (len : Byte) (s : State) : Host.Outcome State Fault Refusal :=
  .next (s.commandStore l 0x40080180 (handle.toNat * 16777216 + dst.toNat * 4096 + len.toNat))

/-- PLC_ASSIGNMENT_PENDING: A store to word 0 of an entry of PLM_LTAB, or to the word that holds its DLY (R206). -/
def execPlcAssignmentPending (l : Lane) (lantern : Fin 2048) (dly : Bool) (value : Word) (s : State) : Host.Outcome State Fault Refusal :=
  .next (s.commandStore l (0x40088000 + 16 * lantern.val + 4 * b2n dly) value.toNat)

/-- START: PLM_RFL_CMD OP = START (R213). -/
def execStart (l : Lane) (s : State) : Host.Outcome State Fault Refusal :=
  .next (s.commandStore l 0x40080420 1)

/-- BASELINE: PLM_RFL_CMD OP = BASELINE (R213, R217). -/
def execBaseline (l : Lane) (slot : BitVec 3) (s : State) : Host.Outcome State Fault Refusal :=
  .next (s.commandStore l 0x40080420 (16 * slot.toNat + 2))

/-- ABORT: PLM_RFL_CMD OP = ABORT (R220). -/
def execAbort (l : Lane) (s : State) : Host.Outcome State Fault Refusal :=
  .next (s.commandStore l 0x40080420 3)

/-- REFLECT_DISABLE: A store of REFL_EN = 0 (R220). -/
def execReflectDisable (l : Lane) (s : State) : Host.Outcome State Fault Refusal :=
  .next (s.commandStore l 0x40080000 (s.wordWith l 0x40080000 PLM_CTRL_REFL_EN 0))

/-- REFLECT_RUN_START: TSTART has come (R212): the captures of the noise phase. -/
def execReflectRunStart (noise : List (List Int)) (s : State) : Host.Outcome State Fault Refusal :=
  .next (s.whenUp (fun (s : State) => s.rflStart noise))

/-- SHOT: A shot of a Reflect run (R211): its capture, whether it clipped, and whether DCQ 12 delivered a poisoned word. -/
def execShot (capture : List Int) (clipped : Bool) (poison : Bool) (s : State) : Host.Outcome State Fault Refusal :=
  .next (s.whenUp (fun (s : State) => s.rflShot capture clipped poison))

/-- REFLECT_PROCESS: The captures of a run are processed after the last shot (R214, R217). -/
def execReflectProcess (s : State) : Host.Outcome State Fault Refusal :=
  .next (s.whenUp State.rflProcess)

/-- BASELINE_WRITE_DONE: A baseline record has been written to its PST slot (R217). -/
def execBaselineWriteDone (s : State) : Host.Outcome State Fault Refusal :=
  .next (s.whenUp State.baselineDone)

/-- QUIET_WINDOW_END: The quiet window of Reflect ends (R212). -/
def execQuietWindowEnd (s : State) : Host.Outcome State Fault Refusal :=
  .next (s.whenUp State.quietEnd)

end Sys2Proof.Machine
end

