-- ==== Sys2Proof/Machine/RadioCommands.lean ====
section
/-!
DEFINITION. The commands of one family. The lantern radio link (R176 to R192).
-/
namespace Sys2Proof.Machine

/-- BEACON: The BEACON cell of a radio (R178), with what the beacon meets (R384, R396). -/
def execBeacon (r : Fin 2) (meet : GuardMeet) (s : State) : Host.Outcome State Fault Refusal :=
  .next (s.whenUp (fun (s : State) => s.beacon r.val meet))

/-- RADIO_BUNDLE_CELL: A BUNDLE cell of a radio (R182), with what its guards meet (R396). -/
def execRadioBundleCell (r : Fin 2) (meet : GuardMeet) (s : State) : Host.Outcome State Fault Refusal :=
  .next (s.whenUp (fun (s : State) => s.bundleCell r.val meet))

/-- RADIO_FRAME_RECEIVE: A frame whose SFD ends now at a radio (R170, R176): its octets without the FCS, how it is found, and its signal strength. -/
def execRadioFrameReceive (r : Fin 2) (psdu : Octets) (meet : RadioMeet) (rssi : Byte) (s : State) : Host.Outcome State Fault Refusal :=
  .next (s.whenUp (fun (s : State) => s.rfReceive r.val psdu meet rssi.toNat))

/-- IMM_ACK_RECEIVE: An Imm-Ack whose SFD ends now (R177). -/
def execImmAckReceive (r : Fin 2) (seq : Byte) (s : State) : Host.Outcome State Fault Refusal :=
  .next (s.whenUp (fun (s : State) => s.immAck r.val seq.toNat))

/-- ACK_WAIT_EXPIRY: The wait for an Imm-Ack ends (R177). -/
def execAckWaitExpiry (r : Fin 2) (s : State) : Host.Outcome State Fault Refusal :=
  .next (s.whenUp (fun (s : State) => s.ackExpiry r.val))

/-- REPORT_CELL_END: The expected contact of a lantern in a superframe is over (R185). -/
def execReportCellEnd (lantern : Fin 2048) (sf : Int) (s : State) : Host.Outcome State Fault Refusal :=
  .next (s.whenUp (fun (s : State) => s.reportEnd lantern.val sf))

/-- DARN_WINDOW_END: A Darn window that was called ends (R186). -/
def execDarnWindowEnd (r : Fin 2) (window : Fin 4) (s : State) : Host.Outcome State Fault Refusal :=
  .next (s.whenUp (fun (s : State) => s.darnEnd r.val window.val))

/-- NBR_CELL_END: The NBR cell of a neighbour entry ends (R189). -/
def execNbrCellEnd (neighbour : Fin 8) (s : State) : Host.Outcome State Fault Refusal :=
  .next (s.whenUp (fun (s : State) => s.nbrEnd neighbour.val))

/-- WAKE_CHANGE: The superframe of a change of the wake interval has come (R183). -/
def execWakeChange (s : State) : Host.Outcome State Fault Refusal :=
  .next (s.whenUp State.wakeChange)

/-- RADIO_DOWNLINK_QUEUE: A store to RFM_TXCMD (R182). -/
def execRadioDownlinkQueue (l : Lane) (handle : Byte) (dst : BitVec 11) (len : BitVec 7) (s : State) : Host.Outcome State Fault Refusal :=
  .next (s.commandStore l 0x40070170 (handle.toNat * 16777216 + dst.toNat * 4096 + len.toNat))

/-- LANTERN_TABLE_WRITE: A store to word 0 of an entry of RFM_LTAB (R185, R192). -/
def execLanternTableWrite (l : Lane) (lantern : Fin 2048) (value : Word) (s : State) : Host.Outcome State Fault Refusal :=
  .next (s.commandStore l (0x40078000 + 16 * lantern.val) value.toNat)

/-- DOWNLINK_NO_OPPORTUNITY: 64 superframes have passed without an opportunity for the first downlink frame (R180). -/
def execDownlinkNoOpportunity (r : Fin 2) (s : State) : Host.Outcome State Fault Refusal :=
  .next (s.whenUp (fun (s : State) => s.noOpportunity r.val))

end Sys2Proof.Machine
end

