-- ==== Sys2Proof/Machine/RtcCommands.lean ====
section
/-!
DEFINITION. The commands of one family. The real-time clock and the backup domain (R300 to R318).
-/
namespace Sys2Proof.Machine

/-- RTC_SECOND_TICK: The prescaler wraps (R300). -/
def execRtcSecondTick (s : State) : Host.Outcome State Fault Refusal :=
  .next (s.rtcTick)

/-- RTC_TRIM_STEP: A trim step at a count of the prescaler (R313). -/
def execRtcTrimStep (prescaler : BitVec 15) (s : State) : Host.Outcome State Fault Refusal :=
  .next (s.trimStep prescaler.toNat)

/-- TIME_GROUP_READ: A load of RTC_TIME or RTC_DATE (R303) at a count of the prescaler. -/
def execTimeGroupRead (l : Lane) (date : Bool) (prescaler : BitVec 15) (parity : Bool) (s : State) : Host.Outcome State Fault Refusal :=
  .next (if s.laneRuns l then (s.prescalerAt prescaler.toNat).laneRead l (0x400F0010 + 4 * b2n date) 4 parity else s)

/-- FREEZE_TIMEOUT: One second has passed since a freeze (R303). -/
def execFreezeTimeout (l : Lane) (s : State) : Host.Outcome State Fault Refusal :=
  .next (s.freezeTimeout l)

/-- COMMIT: RTC_CMD OP = COMMIT (R304). -/
def execCommit (l : Lane) (key : BitVec 16) (s : State) : Host.Outcome State Fault Refusal :=
  .next (s.commandStore l 0x400F0020 (key.toNat * 65536 + 1))

/-- ADD_HOUR: RTC_CMD OP = ADD_HOUR (R306). -/
def execAddHour (l : Lane) (key : BitVec 16) (s : State) : Host.Outcome State Fault Refusal :=
  .next (s.commandStore l 0x400F0020 (key.toNat * 65536 + 2))

/-- SUB_HOUR: RTC_CMD OP = SUB_HOUR (R306). -/
def execSubHour (l : Lane) (key : BitVec 16) (s : State) : Host.Outcome State Fault Refusal :=
  .next (s.commandStore l 0x400F0020 (key.toNat * 65536 + 3))

/-- PON_SET: RTC_CMD OP = PON_SET (R318). -/
def execPonSet (l : Lane) (key : BitVec 16) (s : State) : Host.Outcome State Fault Refusal :=
  .next (s.commandStore l 0x400F0020 (key.toNat * 65536 + 4))

/-- PON_CLR: RTC_CMD OP = PON_CLR (R318). -/
def execPonClr (l : Lane) (key : BitVec 16) (s : State) : Host.Outcome State Fault Refusal :=
  .next (s.commandStore l 0x400F0020 (key.toNat * 65536 + 5))

/-- RTC_MARK: A mark of the Time Base (R310) at a count of the prescaler. -/
def execRtcMark (prescaler : BitVec 15) (s : State) : Host.Outcome State Fault Refusal :=
  .next (s.whenUp (fun (s : State) => s.rtcMark prescaler.toNat))

/-- OSCILLATOR_STOP: No crystal edge for 2 ms (R314). -/
def execOscillatorStop (s : State) : Host.Outcome State Fault Refusal :=
  .next (s.oscStop)

/-- OSCILLATOR_RESUME: Crystal edges return (R314). -/
def execOscillatorResume (s : State) : Host.Outcome State Fault Refusal :=
  .next (s.oscResume)

/-- SWITCH_TO_VBAT: VMAIN falls below VBAT or 2.70 V (R315), at a count of the prescaler. -/
def execSwitchToVbat (prescaler : BitVec 15) (s : State) : Host.Outcome State Fault Refusal :=
  .next (s.toVbat prescaler.toNat)

/-- SWITCH_TO_VMAIN: VMAIN rises to VBAT + 100 mV and 2.80 V (R315). -/
def execSwitchToVmain (s : State) : Host.Outcome State Fault Refusal :=
  .next (s.toVmain)

end Sys2Proof.Machine
end

