-- ==== Sys2Proof/Machine/SafetyCommands.lean ====
section
/-!
DEFINITION. The commands of one family. BIST, the SF1 proof tests and Rinse (R401 to R407).
-/
namespace Sys2Proof.Machine

/-- BIST_LANE_A: SAF_CMD OP = 1 (R405). -/
def execBistLaneA (l : Lane) (key : BitVec 16) (s : State) : Host.Outcome State Fault Refusal :=
  .next (s.commandStore l 0x4015000C (key.toNat * 65536 + 1))

/-- BIST_LANE_B: SAF_CMD OP = 2 (R405). -/
def execBistLaneB (l : Lane) (key : BitVec 16) (s : State) : Host.Outcome State Fault Refusal :=
  .next (s.commandStore l 0x4015000C (key.toNat * 65536 + 2))

/-- BIST_PERIODIC_DUE: BIST_PER hours have passed (R405). -/
def execBistPeriodicDue (s : State) : Host.Outcome State Fault Refusal :=
  .next (s.whenUp State.bistPeriodic)

/-- BIST_COMPLETE: A run of BIST ends (R406). -/
def execBistComplete (result : BistResult) (s : State) : Host.Outcome State Fault Refusal :=
  .next (s.whenUp (fun (s : State) => s.bistDone result))

/-- DETECT_PATH_A: SAF_CMD OP = 3 (R401). -/
def execDetectPathA (l : Lane) (key : BitVec 16) (s : State) : Host.Outcome State Fault Refusal :=
  .next (s.commandStore l 0x4015000C (key.toNat * 65536 + 3))

/-- DETECT_PATH_B: SAF_CMD OP = 4 (R401). -/
def execDetectPathB (l : Lane) (key : BitVec 16) (s : State) : Host.Outcome State Fault Refusal :=
  .next (s.commandStore l 0x4015000C (key.toNat * 65536 + 4))

/-- FULL_PATH_A: SAF_CMD OP = 5 (R401). -/
def execFullPathA (l : Lane) (key : BitVec 16) (s : State) : Host.Outcome State Fault Refusal :=
  .next (s.commandStore l 0x4015000C (key.toNat * 65536 + 5))

/-- FULL_PATH_B: SAF_CMD OP = 6 (R401). -/
def execFullPathB (l : Lane) (key : BitVec 16) (s : State) : Host.Outcome State Fault Refusal :=
  .next (s.commandStore l 0x4015000C (key.toNat * 65536 + 6))

/-- CLRBLK: SAF_CMD OP = CLRBLK (R406). -/
def execClrblk (l : Lane) (key : BitVec 16) (s : State) : Host.Outcome State Fault Refusal :=
  .next (s.commandStore l 0x4015000C (key.toNat * 65536 + 7))

/-- SF1_TEST_PERIODIC: SF1PER hours have passed, or the second after which path B follows path A (R401). -/
def execSf1TestPeriodic (s : State) : Host.Outcome State Fault Refusal :=
  .next (s.whenUp State.sf1Periodic)

/-- SF1_TEST_COMPLETE: An SF1 proof test ends (R401): the time to qualification in 0.1 ms, if the path qualified, and whether the test passed. -/
def execSf1TestComplete (time : Option Nat) (ok : Bool) (s : State) : Host.Outcome State Fault Refusal :=
  .next (s.whenUp (fun (s : State) => s.sf1TestDone time ok))

/-- RINSE_READ: Rinse reads the next word of each lane's memories (R407). -/
def execRinseRead (a : RinseMeet) (b : RinseMeet) (s : State) : Host.Outcome State Fault Refusal :=
  .next (s.whenUp (fun (s : State) => s.rinseRead a b))

end Sys2Proof.Machine
end

