-- ==== Sys2Proof/Machine/StoreCommands.lean ====
section
/-!
DEFINITION. The commands of one family. The persistent store and the event recorder (R282 to R293).
-/
namespace Sys2Proof.Machine

/-- PST_STORE: A store to the PST window (R282, R284). -/
def execPstStore (l : Lane) (addr : Word) (size : Nat) (value : Word) (meet : WriteMeet) (s : State) : Host.Outcome State Fault Refusal :=
  .next (s.coreStore l addr.toNat size value.toNat meet)

/-- PST_CELL_WRITE: The oldest word of the write buffer reaches its cells (R283), whatever reset the module is in. -/
def execPstCellWrite (s : State) : Host.Outcome State Fault Refusal :=
  .next (s.pstStep)

/-- PST_READ: A load from the PST window (R282). -/
def execPstRead (l : Lane) (addr : Word) (size : Nat) (core : CoreMeet) (meet : PstMeet) (s : State) : Host.Outcome State Fault Refusal :=
  .next (s.coreLoad l addr.toNat size ⟨false, core⟩ meet)

/-- PST_DRAIN_READ: A load of PST_DRAIN (R283). -/
def execPstDrainRead (l : Lane) (parity : Bool) (s : State) : Host.Outcome State Fault Refusal :=
  .next (s.laneRead l 0x400D0020 4 parity)

/-- OPSEC_TICK: A second of VIN presence (R291): it counts from the end of the power-on reset, through every other reset, while the module has a clock. -/
def execOpsecTick (s : State) : Host.Outcome State Fault Refusal :=
  .next (if s.sys.por || s.sys.oscStop then s else s.pstAdvance 0x3D1004)

/-- RECORDER_WRITE_DONE: The writes of a closed period have been made (R293). -/
def execRecorderWriteDone (s : State) : Host.Outcome State Fault Refusal :=
  .next (s.whenUp State.recorderDone)

end Sys2Proof.Machine
end

