-- ==== Sys2Proof/Machine/SystemCommands.lean ====
section
/-!
DEFINITION. The commands of one family. Register access and the resets of the module (R10, R14 to R17, R30 to R33, R101, R354, R356, R417, R421).
-/
namespace Sys2Proof.Machine

/-- REGISTER_WRITE: A store of a lane (R14, R16, R17, R21, R85, R94): to a register word, to the PST window, or to its own SRAM; to anything else it faults. -/
def execRegisterWrite (l : Lane) (addr : Word) (size : Nat) (value : BitVec 64) (meet : WriteMeet) (s : State) : Host.Outcome State Fault Refusal :=
  .next (s.coreStore l addr.toNat size value.toNat meet)

/-- WIDE_VALUE_CAPTURE_READ: A load of a register word (R15): that of the lowest word captures a wide value into the holding register of the lane. `parity`: the word fails its check on the fabric (R397). -/
def execWideValueCaptureRead (l : Lane) (addr : Word) (parity : Bool) (s : State) : Host.Outcome State Fault Refusal :=
  .next (s.laneRead l addr.toNat 4 parity)

/-- WIDE_VALUE_COMMIT_WRITE: A store to a word of a wide value (R15): that to the highest word makes the whole value take effect. -/
def execWideValueCommitWrite (l : Lane) (addr : Word) (value : Word) (meet : WriteMeet) (s : State) : Host.Outcome State Fault Refusal :=
  .next (s.coreStore l addr.toNat 4 value.toNat meet)

/-- ND_FIELD_READ: A load of a lane (R10, R14, R16, R85, R91): of a register word, where an ND field faults in deterministic context and is counted in service context, or of any other region
of the address space. -/
def execNdFieldRead (l : Lane) (addr : Word) (size : Nat) (meet : LoadMeet) (s : State) : Host.Outcome State Fault Refusal :=
  .next (s.coreLoad l addr.toNat size meet .clean)

/-- POWER_ON_RESET: VIN rises through VPOR (R30, R417). -/
def execPowerOnReset (s : State) : Host.Outcome State Fault Refusal :=
  .next (s.powerOn)

/-- POWER_ON_RESET_END: The power-on reset ends with the results of the cold-start BIST (R404, R417); `testLow`: TEST_N is low and holds it (R424). -/
def execPowerOnResetEnd (a : BistResult) (b : BistResult) (testLow : Bool) (s : State) : Host.Outcome State Fault Refusal :=
  .next (s.powerOnEnd a b testLow)

/-- BACKUP_DOMAIN_RESET: VMAIN and VBAT are both below the power-on level of the backup domain (R30). -/
def execBackupDomainReset (s : State) : Host.Outcome State Fault Refusal :=
  .next (s.backupReset)

/-- PIN_RESET: RST_N has been low for 10 µs (R421). -/
def execPinReset (s : State) : Host.Outcome State Fault Refusal :=
  .next (s.pinReset)

/-- PIN_RESET_RELEASE: RST_N has risen, 20 µs ago (R421). -/
def execPinResetRelease (s : State) : Host.Outcome State Fault Refusal :=
  .next (s.pinRelease)

/-- SYSRST: A store to SYS_RESET_CTRL (R30). -/
def execSysrst (l : Lane) (key : BitVec 16) (sysrst : Bool) (s : State) : Host.Outcome State Fault Refusal :=
  .next (s.commandStore l 0x40000008 (key.toNat * 65536 + b2n sysrst))

/-- NOLANE_RESET: 16 lane cycles have passed with no lane in service (R101). -/
def execNolaneReset (s : State) : Host.Outcome State Fault Refusal :=
  .next (s.whenLanes State.noLaneReset)

/-- LANE_RESET: LSC resets a lane that has been taken out (R30, R88 step 4). -/
def execLaneReset (l : Lane) (s : State) : Host.Outcome State Fault Refusal :=
  .next (s.whenLanes (fun (s : State) => s.resetLeft l))

/-- SRAM_REFILL_COMPLETE: The refill of a lane's SRAM is complete (R31). -/
def execSramRefillComplete (l : Lane) (s : State) : Host.Outcome State Fault Refusal :=
  .next (s.whenLanes (fun (s : State) => s.refillDone l))

/-- COLD_START_BOOT: The boot ROM runs after a pin, system or power-on reset (R354). -/
def execColdStartBoot (s : State) : Host.Outcome State Fault Refusal :=
  .next (s.coldBoot)

/-- LANE_BOOT_LOAD: The boot ROM loads a lane after a lane reset (R356). -/
def execLaneBootLoad (l : Lane) (s : State) : Host.Outcome State Fault Refusal :=
  .next (s.whenLanes (fun (s : State) => s.laneLoad l))

/-- FUNCTION_ENABLE: A store of 1 to the enable of a function (R28). -/
def execFunctionEnable (l : Lane) (f : Func) (s : State) : Host.Outcome State Fault Refusal :=
  .next (s.enableWrite l f 1)

/-- FUNCTION_DISABLE: A store of 0 to the enable of a function (R28). -/
def execFunctionDisable (l : Lane) (f : Func) (s : State) : Host.Outcome State Fault Refusal :=
  .next (s.enableWrite l f 0)

/-- SHUTDOWN_COMPLETE: The shut-down of a function completes (R28). -/
def execShutdownComplete (f : Func) (s : State) : Host.Outcome State Fault Refusal :=
  .next (s.whenUp (fun (s : State) => s.shutDone f))

/-- FUNCTION_RUNNING: A function in STARTING finishes its start (R28). -/
def execFunctionRunning (f : Func) (s : State) : Host.Outcome State Fault Refusal :=
  .next (s.whenUp (fun (s : State) => s.funcRunning f))

/-- VIN_COLLAPSE: VIN falls away (R297, R400, R417); `words` of the PST write buffer still reach the cells. -/
def execVinCollapse (words : Nat) (s : State) : Host.Outcome State Fault Refusal :=
  .next (s.vinCollapse words)

/-- REFERENCE_OSCILLATOR_STOP: The 25 MHz reference stops (R399). -/
def execReferenceOscillatorStop (s : State) : Host.Outcome State Fault Refusal :=
  .next (s.referenceStop)

/-- TAP_INSTRUCTION_UPDATE: The boundary-scan TAP loads an instruction (R424). -/
def execTapInstructionUpdate (ins : TapInstr) (s : State) : Host.Outcome State Fault Refusal :=
  .next (s.tapUpdate ins)

/-- OTP_ENTRY_PROGRAMMED: The lifecycle OTP entry of a transition has been programmed (R327, R421). -/
def execOtpEntryProgrammed (s : State) : Host.Outcome State Fault Refusal :=
  .next (s.otpDone)

end Sys2Proof.Machine
end

