-- ==== Sys2Proof/Machine/TimeCommands.lean ====
section
/-!
DEFINITION. The commands of one family. The Time Base: its counter, its steps and its timeouts (R35 to R56).
-/
namespace Sys2Proof.Machine

/-- TB_COUNTER_TICK: TB_CLK cycles pass (R35, R52); more than one may be taken together. -/
def execTbCounterTick (cycles : Nat) (s : State) : Host.Outcome State Fault Refusal :=
  .next (s.whenUp (fun (s : State) => s.tick cycles))

/-- SNAPSHOT_BOUNDARY: A snapshot boundary (R37, R41). -/
def execSnapshotBoundary (s : State) : Host.Outcome State Fault Refusal :=
  .next (s.whenUp State.boundary)

/-- TB_SET: The store to the highest word of TB_SET, at offset 0x002C (R37); the lower words stand as the lane staged them. -/
def execTbSet (l : Lane) (value : Word) (s : State) : Host.Outcome State Fault Refusal :=
  .next (s.commandStore l 0x4001002C value.toNat)

/-- SERVO_DISABLE: A store of SERVO_EN = 0 (R53), the other fields of TB_CTRL as they are. -/
def execServoDisable (l : Lane) (s : State) : Host.Outcome State Fault Refusal :=
  .next (s.commandStore l 0x40010000 (s.wordWith l 0x40010000 TB_CTRL_SERVO_EN 0))

/-- FOLLOW_UP_TIMEOUT: No Follow_Up has come within 2^LOG s (R48). -/
def execFollowUpTimeout (s : State) : Host.Outcome State Fault Refusal :=
  .next (s.whenUp State.followTimeout)

/-- SYNC_TIMEOUT: No valid sample has come for TOUT_N × 2^LOG s (R54). -/
def execSyncTimeout (s : State) : Host.Outcome State Fault Refusal :=
  .next (s.whenUp State.syncTimeout)

/-- HOLDOVER_EXPIRY: HOLD_MAX seconds have passed in HOLDOVER (R53). -/
def execHoldoverExpiry (s : State) : Host.Outcome State Fault Refusal :=
  .next (s.whenUp State.holdoverExpiry)

end Sys2Proof.Machine
end

