-- ==== Sys2Proof/Machine/Dispatch.lean ====
section
/-!
DEFINITION. The dispatch of a command to its meaning: one arm for each constructor of Instr.
-/
namespace Sys2Proof.Machine

def exec (i : Instr) (s : State) : Host.Outcome State Fault Refusal :=
  match i with
  | .registerWrite l addr size value meet => Sys2Proof.Machine.execRegisterWrite l addr size value meet s
  | .wideValueCaptureRead l addr parity => Sys2Proof.Machine.execWideValueCaptureRead l addr parity s
  | .wideValueCommitWrite l addr value meet => Sys2Proof.Machine.execWideValueCommitWrite l addr value meet s
  | .ndFieldRead l addr size meet => Sys2Proof.Machine.execNdFieldRead l addr size meet s
  | .powerOnReset => Sys2Proof.Machine.execPowerOnReset s
  | .powerOnResetEnd a b testLow => Sys2Proof.Machine.execPowerOnResetEnd a b testLow s
  | .backupDomainReset => Sys2Proof.Machine.execBackupDomainReset s
  | .pinReset => Sys2Proof.Machine.execPinReset s
  | .pinResetRelease => Sys2Proof.Machine.execPinResetRelease s
  | .sysrst l key sysrst => Sys2Proof.Machine.execSysrst l key sysrst s
  | .nolaneReset => Sys2Proof.Machine.execNolaneReset s
  | .laneReset l => Sys2Proof.Machine.execLaneReset l s
  | .sramRefillComplete l => Sys2Proof.Machine.execSramRefillComplete l s
  | .coldStartBoot => Sys2Proof.Machine.execColdStartBoot s
  | .laneBootLoad l => Sys2Proof.Machine.execLaneBootLoad l s
  | .functionEnable l f => Sys2Proof.Machine.execFunctionEnable l f s
  | .functionDisable l f => Sys2Proof.Machine.execFunctionDisable l f s
  | .shutdownComplete f => Sys2Proof.Machine.execShutdownComplete f s
  | .tbCounterTick cycles => Sys2Proof.Machine.execTbCounterTick cycles s
  | .snapshotBoundary => Sys2Proof.Machine.execSnapshotBoundary s
  | .tbSet l value => Sys2Proof.Machine.execTbSet l value s
  | .servoDisable l => Sys2Proof.Machine.execServoDisable l s
  | .followUpTimeout => Sys2Proof.Machine.execFollowUpTimeout s
  | .syncTimeout => Sys2Proof.Machine.execSyncTimeout s
  | .holdoverExpiry => Sys2Proof.Machine.execHoldoverExpiry s
  | .creaseClosure bad => Sys2Proof.Machine.execCreaseClosure bad s
  | .eventRegister chan => Sys2Proof.Machine.execEventRegister chan s
  | .intakeResume => Sys2Proof.Machine.execIntakeResume s
  | .batchDelivery l bad => Sys2Proof.Machine.execBatchDelivery l bad s
  | .crzEnable l => Sys2Proof.Machine.execCrzEnable l s
  | .crzDisable l => Sys2Proof.Machine.execCrzDisable l s
  | .injectEvent l chan kind => Sys2Proof.Machine.execInjectEvent l chan kind s
  | .mlanectxWrite l det user => Sys2Proof.Machine.execMlanectxWrite l det user s
  | .fenceViolation l access => Sys2Proof.Machine.execFenceViolation l access s
  | .interruptEntry l source => Sys2Proof.Machine.execInterruptEntry l source s
  | .commitRecordStore l addr value => Sys2Proof.Machine.execCommitRecordStore l addr value s
  | .lscSeal l value => Sys2Proof.Machine.execLscSeal l value s
  | .sealComplete l corrected => Sys2Proof.Machine.execSealComplete l corrected s
  | .laneFault l kind => Sys2Proof.Machine.execLaneFault l kind s
  | .cmpWaitExpiry => Sys2Proof.Machine.execCmpWaitExpiry s
  | .commitDrain meet => Sys2Proof.Machine.execCommitDrain meet s
  | .drainComplete => Sys2Proof.Machine.execDrainComplete s
  | .swap l key => Sys2Proof.Machine.execSwap l key s
  | .takeoutA l key => Sys2Proof.Machine.execTakeoutA l key s
  | .takeoutB l key => Sys2Proof.Machine.execTakeoutB l key s
  | .rejoin l key => Sys2Proof.Machine.execRejoin l key s
  | .lscJoin l value => Sys2Proof.Machine.execLscJoin l value s
  | .resultRecordSend => Sys2Proof.Machine.execResultRecordSend s
  | .collectorRecordReceive record => Sys2Proof.Machine.execCollectorRecordReceive record s
  | .collectorIntake => Sys2Proof.Machine.execCollectorIntake s
  | .actionDeadlineMiss path => Sys2Proof.Machine.execActionDeadlineMiss path s
  | .beacon r meet => Sys2Proof.Machine.execBeacon r meet s
  | .radioBundleCell r meet => Sys2Proof.Machine.execRadioBundleCell r meet s
  | .radioFrameReceive r psdu meet rssi => Sys2Proof.Machine.execRadioFrameReceive r psdu meet rssi s
  | .immAckReceive r seq => Sys2Proof.Machine.execImmAckReceive r seq s
  | .ackWaitExpiry r => Sys2Proof.Machine.execAckWaitExpiry r s
  | .reportCellEnd lantern sf => Sys2Proof.Machine.execReportCellEnd lantern sf s
  | .darnWindowEnd r window => Sys2Proof.Machine.execDarnWindowEnd r window s
  | .nbrCellEnd neighbour => Sys2Proof.Machine.execNbrCellEnd neighbour s
  | .wakeChange => Sys2Proof.Machine.execWakeChange s
  | .radioDownlinkQueue l handle dst len => Sys2Proof.Machine.execRadioDownlinkQueue l handle dst len s
  | .lanternTableWrite l lantern value => Sys2Proof.Machine.execLanternTableWrite l lantern value s
  | .downlinkNoOpportunity r => Sys2Proof.Machine.execDownlinkNoOpportunity r s
  | .timeFrame meet => Sys2Proof.Machine.execTimeFrame meet s
  | .plcBundleCell air meet => Sys2Proof.Machine.execPlcBundleCell air meet s
  | .plcFrameReceive psdu meet fcsValue snr => Sys2Proof.Machine.execPlcFrameReceive psdu meet fcsValue snr s
  | .plcAckReceive ours => Sys2Proof.Machine.execPlcAckReceive ours s
  | .plcAckWaitExpiry => Sys2Proof.Machine.execPlcAckWaitExpiry s
  | .plcReportMiss lantern cycle => Sys2Proof.Machine.execPlcReportMiss lantern cycle s
  | .plcDownlinkQueue l handle dst len => Sys2Proof.Machine.execPlcDownlinkQueue l handle dst len s
  | .plcAssignmentPending l lantern dly value => Sys2Proof.Machine.execPlcAssignmentPending l lantern dly value s
  | .start l => Sys2Proof.Machine.execStart l s
  | .baseline l slot => Sys2Proof.Machine.execBaseline l slot s
  | .abort l => Sys2Proof.Machine.execAbort l s
  | .reflectDisable l => Sys2Proof.Machine.execReflectDisable l s
  | .reflectRunStart noise => Sys2Proof.Machine.execReflectRunStart noise s
  | .shot capture clipped poison => Sys2Proof.Machine.execShot capture clipped poison s
  | .reflectProcess => Sys2Proof.Machine.execReflectProcess s
  | .baselineWriteDone => Sys2Proof.Machine.execBaselineWriteDone s
  | .quietWindowEnd => Sys2Proof.Machine.execQuietWindowEnd s
  | .linkUp p speed half => Sys2Proof.Machine.execLinkUp p speed half s
  | .linkDown p => Sys2Proof.Machine.execLinkDown p s
  | .bhFrameReceive p symbol frame meet => Sys2Proof.Machine.execBhFrameReceive p symbol frame meet s
  | .hsrForward p symbol meet => Sys2Proof.Machine.execHsrForward p symbol meet s
  | .txTailWrite l p value => Sys2Proof.Machine.execTxTailWrite l p value s
  | .txFrameSend p symbol meet => Sys2Proof.Machine.execTxFrameSend p symbol meet s
  | .descriptorWriteback => Sys2Proof.Machine.execDescriptorWriteback s
  | .verifyMpacketTimer p => Sys2Proof.Machine.execVerifyMpacketTimer p s
  | .respondMpacketReceive p => Sys2Proof.Machine.execRespondMpacketReceive p s
  | .pauseReceive p pfc mask quanta => Sys2Proof.Machine.execPauseReceive p pfc mask quanta s
  | .pauseExpiry p tc => Sys2Proof.Machine.execPauseExpiry p tc s
  | .pauseWatchdogExpiry p tc => Sys2Proof.Machine.execPauseWatchdogExpiry p tc s
  | .duplicateEntryForget src => Sys2Proof.Machine.execDuplicateEntryForget src s
  | .enter l key enter => Sys2Proof.Machine.execEnter l key enter s
  | .drWakeTime => Sys2Proof.Machine.execDrWakeTime s
  | .heartbeatRestToggle => Sys2Proof.Machine.execHeartbeatRestToggle s
  | .pbFrameReceive frame good => Sys2Proof.Machine.execPbFrameReceive frame good s
  | .pbFrameTransmit carrier poison => Sys2Proof.Machine.execPbFrameTransmit carrier poison s
  | .pbCollision late => Sys2Proof.Machine.execPbCollision late s
  | .pbBackoffExpiry => Sys2Proof.Machine.execPbBackoffExpiry s
  | .meteringSample raw => Sys2Proof.Machine.execMeteringSample raw s
  | .crossingTimeout phase => Sys2Proof.Machine.execCrossingTimeout phase s
  | .freeWindowEnd phase => Sys2Proof.Machine.execFreeWindowEnd phase s
  | .creaseSummary => Sys2Proof.Machine.execCreaseSummary s
  | .meteringStart => Sys2Proof.Machine.execMeteringStart s
  | .meteringStop l raw => Sys2Proof.Machine.execMeteringStop l raw s
  | .sf1PathATrip current time => Sys2Proof.Machine.execSf1PathATrip current time s
  | .sf1PathBTrip samples => Sys2Proof.Machine.execSf1PathBTrip samples s
  | .sf1TripRelease seen => Sys2Proof.Machine.execSf1TripRelease seen s
  | .sf1DisagreeTimeout => Sys2Proof.Machine.execSf1DisagreeTimeout s
  | .sf1ThrWrite l value => Sys2Proof.Machine.execSf1ThrWrite l value s
  | .pstStore l addr size value meet => Sys2Proof.Machine.execPstStore l addr size value meet s
  | .pstCellWrite => Sys2Proof.Machine.execPstCellWrite s
  | .pstRead l addr size core meet => Sys2Proof.Machine.execPstRead l addr size core meet s
  | .pstDrainRead l parity => Sys2Proof.Machine.execPstDrainRead l parity s
  | .opsecTick => Sys2Proof.Machine.execOpsecTick s
  | .recorderWriteDone => Sys2Proof.Machine.execRecorderWriteDone s
  | .rtcSecondTick => Sys2Proof.Machine.execRtcSecondTick s
  | .rtcTrimStep prescaler => Sys2Proof.Machine.execRtcTrimStep prescaler s
  | .timeGroupRead l date prescaler parity => Sys2Proof.Machine.execTimeGroupRead l date prescaler parity s
  | .freezeTimeout l => Sys2Proof.Machine.execFreezeTimeout l s
  | .commit l key => Sys2Proof.Machine.execCommit l key s
  | .addHour l key => Sys2Proof.Machine.execAddHour l key s
  | .subHour l key => Sys2Proof.Machine.execSubHour l key s
  | .ponSet l key => Sys2Proof.Machine.execPonSet l key s
  | .ponClr l key => Sys2Proof.Machine.execPonClr l key s
  | .rtcMark prescaler => Sys2Proof.Machine.execRtcMark prescaler s
  | .oscillatorStop => Sys2Proof.Machine.execOscillatorStop s
  | .oscillatorResume => Sys2Proof.Machine.execOscillatorResume s
  | .switchToVbat prescaler => Sys2Proof.Machine.execSwitchToVbat prescaler s
  | .switchToVmain => Sys2Proof.Machine.execSwitchToVmain s
  | .rootRecovery array => Sys2Proof.Machine.execRootRecovery array s
  | .helperMirrorWrite => Sys2Proof.Machine.execHelperMirrorWrite s
  | .transition l key user => Sys2Proof.Machine.execTransition l key user s
  | .importBlob l key user => Sys2Proof.Machine.execImportBlob l key user s
  | .derive l key user => Sys2Proof.Machine.execDerive l key user s
  | .clear l key user => Sys2Proof.Machine.execClear l key user s
  | .enrolpuf l key user reads => Sys2Proof.Machine.execEnrolpuf l key user reads s
  | .cryJob l addr user => Sys2Proof.Machine.execCryJob l addr user s
  | .cryJobComplete poison => Sys2Proof.Machine.execCryJobComplete poison s
  | .program l key => Sys2Proof.Machine.execProgram l key s
  | .erase l key => Sys2Proof.Machine.execErase l key s
  | .acmOperationDone fail => Sys2Proof.Machine.execAcmOperationDone fail s
  | .verify l key slot => Sys2Proof.Machine.execVerify l key slot s
  | .schedule l key kind cslot fslot => Sys2Proof.Machine.execSchedule l key kind cslot fslot s
  | .cancel l key => Sys2Proof.Machine.execCancel l key s
  | .saveCopyDone fail => Sys2Proof.Machine.execSaveCopyDone fail s
  | .updateActivation => Sys2Proof.Machine.execUpdateActivation s
  | .activationDeferExpiry => Sys2Proof.Machine.execActivationDeferExpiry s
  | .codeStoreWritten => Sys2Proof.Machine.execCodeStoreWritten s
  | .verdict l key pass cause => Sys2Proof.Machine.execVerdict l key pass cause s
  | .trialDeadline => Sys2Proof.Machine.execTrialDeadline s
  | .committingCopyDone => Sys2Proof.Machine.execCommittingCopyDone s
  | .rollbackRestoreDone => Sys2Proof.Machine.execRollbackRestoreDone s
  | .dmaTailWrite l ch value => Sys2Proof.Machine.execDmaTailWrite l ch value s
  | .copy ch descBad meet => Sys2Proof.Machine.execCopy ch descBad meet s
  | .gather ch descBad meet => Sys2Proof.Machine.execGather ch descBad meet s
  | .fill ch descBad meet => Sys2Proof.Machine.execFill ch descBad meet s
  | .compare ch descBad meet => Sys2Proof.Machine.execCompare ch descBad meet s
  | .dmaDescriptorComplete ch => Sys2Proof.Machine.execDmaDescriptorComplete ch s
  | .dmaResponseTimeout ch done => Sys2Proof.Machine.execDmaResponseTimeout ch done s
  | .completionRecordWrite => Sys2Proof.Machine.execCompletionRecordWrite s
  | .flush l q writing => Sys2Proof.Machine.execFlush l q writing s
  | .drop l q writing => Sys2Proof.Machine.execDrop l q writing s
  | .dcqWordRead q bad => Sys2Proof.Machine.execDcqWordRead q bad s
  | .bistLaneA l key => Sys2Proof.Machine.execBistLaneA l key s
  | .bistLaneB l key => Sys2Proof.Machine.execBistLaneB l key s
  | .bistPeriodicDue => Sys2Proof.Machine.execBistPeriodicDue s
  | .bistComplete result => Sys2Proof.Machine.execBistComplete result s
  | .detectPathA l key => Sys2Proof.Machine.execDetectPathA l key s
  | .detectPathB l key => Sys2Proof.Machine.execDetectPathB l key s
  | .fullPathA l key => Sys2Proof.Machine.execFullPathA l key s
  | .fullPathB l key => Sys2Proof.Machine.execFullPathB l key s
  | .clrblk l key => Sys2Proof.Machine.execClrblk l key s
  | .sf1TestPeriodic => Sys2Proof.Machine.execSf1TestPeriodic s
  | .sf1TestComplete time ok => Sys2Proof.Machine.execSf1TestComplete time ok s
  | .rinseRead a b => Sys2Proof.Machine.execRinseRead a b s
  | .vinCollapse words => Sys2Proof.Machine.execVinCollapse words s
  | .referenceOscillatorStop => Sys2Proof.Machine.execReferenceOscillatorStop s
  | .tapInstructionUpdate ins => Sys2Proof.Machine.execTapInstructionUpdate ins s
  | .functionRunning f => Sys2Proof.Machine.execFunctionRunning f s
  | .otpEntryProgrammed => Sys2Proof.Machine.execOtpEntryProgrammed s

end Sys2Proof.Machine
end

