-- ==== Sys2Proof/Safety.lean ====
section
/-!
DEFINITION. The terms that statements use: what counts as a sound state of the module (the invariant), and the parts of the state that a command may change.
-/
namespace Sys2Proof.Machine

/-- A list of keys and values in canonical form: keys strictly rising. -/
def kvWf {α : Type} (m : List (Nat × α)) : Prop := (m.map (·.1)).Pairwise (· < ·)

/-- A point of network time within its format (R34, R38). -/
def Time.ok (t : Time) : Prop := t.sec < 2 ^ 64 ∧ t.ns < 1000000000 ∧ t.frac < 2 ^ 32

/-- A step of the Time Base that waits (R37): a load is within the format. -/
def StepRequest.ok : StepRequest → Prop
  | .add _ => True
  | .load t => Time.ok t

/-- The invariant: the memories are in canonical form (R85, R281, R347), the registers are listed in rising order of their places, the write buffer of PST
holds at most 64 words (R283), the intake queue of the collector at most 16 records (R125) and a commit buffer at most 32,768 (R95), and the counter
of the Time Base is a point of network time (R34). -/
structure State.Inv (s : State) : Prop where
  sramA : Memory.wf s.laneA.sram = true
  sramB : Memory.wf s.laneB.sram = true
  cells : Memory.wf s.pst.cells = true
  acm : Memory.wf s.acm = true
  regs : kvWf s.regs
  buffer : s.pst.buffer.length ≤ 64
  inq : s.flt.inq.length ≤ 16
  fillA : s.laneA.fill.length ≤ 32768
  fillB : s.laneB.fill.length ≤ 32768
  now : Time.ok s.tb.now
  step : ∀ q ∈ s.tb.step, StepRequest.ok q

/-- A lane whose stores take effect (R17): it executes, in service context, and acts as the Active lane. -/
def State.serves (s : State) (l : Lane) : Prop := s.laneRuns l = true ∧ (s.lane l).det = false ∧ s.actsActive l = true

/-- A command answers a next state of which a property holds. -/
def Answers (c : Instr) (s : State) (P : State → Prop) : Prop := ∃ t, Machine.exec c s = .next t ∧ P t

/-- No word of another writer waits for a span of PST, in the write buffer or with EVR or PLM: each record has a single writer at any moment (R283). -/
def State.pstAlone (s : State) (w : Writer) (o n : Nat) : Prop :=
  (∀ x ∈ s.pst.buffer, x.writer = w ∨ x.offset + 4 ≤ o ∨ o + n ≤ x.offset) ∧
  (∀ (p : Nat) (ws : List (Nat × Nat)), s.evr.closing = some (p, ws) → ∀ x ∈ ws, w = .evr ∨ x.1 + 4 ≤ o ∨ o + n ≤ x.1) ∧
  ∀ x ∈ s.rfl.store, w = .plm ∨ x.1 + 4 ≤ o ∨ o + n ≤ x.1

/-- What a reset leaves (R30, R31, R278): every register field at its reset value but those the reset keeps, the causes set, and nothing in the queues and the lanes' SRAM. -/
def ResetLeaves (por : Bool) (cause : List Field) (s t : State) : Prop :=
  (∀ f : Field, f.lo < 1024 → f.reg ≠ TB_P0_LAT_TXLAT.reg → f.reg ≠ TB_P1_LAT_TXLAT.reg → f.key ≠ LSC_ROLE_STATE_A.key → f.key ≠ LSC_ROLE_STATE_B.key → (∀ g ∈ cause, f.key ≠ g.key) →
    t.rd f = if keptByReset por f.key then s.rd f else f.reset % 2 ^ f.width) ∧
  (∀ g ∈ cause, t.rd g = 1) ∧ t.pst = ⟨s.pst.cells, [], 0⟩ ∧ t.otp = s.otp ∧ t.waiting = [] ∧ t.held = [] ∧ t.laneA.sram = [] ∧ t.laneB.sram = [] ∧ (s.rld.op = none → t.acm = s.acm)

/-- Where a write of EN = 1 starts a function that is OFF (R28): a radio whose map is sound (R172), the modem whose map is sound and whose keys are its own (R198, R199), and any other. -/
def Startable (s : State) : Func → Prop
  | .rfA => mapBad (s.mapCodes 0) (s.span 0) = false
  | .rfB => mapBad (s.mapCodes 1) (s.span 1) = false
  | .plm => plcMapBad s.plcCodes = false ∧ s.plcKeyShared = false
  | _ => True

/-- A pause of a class has stood without a break for PWD, so that the watchdog overrides it (R243). -/
def State.overrun (s : State) (p tc : Nat) : Bool := match kvFind (s.port p).pauses tc with
  | some z => decide (z.from' + s.pwd p ≤ z.until' ∧ z.from' + s.pwd p ≤ s.elapsed)
  | none => false

/-- An event registered (R67, R69, R70): with its rank, in the bin of its Crease while that is in time, and among the late events afterwards, with the time of the cycle before its
arrival. -/
def Registered (s t : State) (e : Event) : Prop :=
  let k := s.creaseOf (nsOf e.stamp)
  if s.isAhead k = false ∧ s.inTime k = true then t.binOf k = s.binOf k ++ [e.ranked (s.binOf k)] ∧ t.crz.late = s.crz.late
  else t.crz.late = s.crz.late ++ [⟨{ e with late := true, ahead := s.isAhead k }, s.tb.before⟩] ∧ t.crz.bins = s.crz.bins

/-- The events of a batch in their order (R68, R70): of each order key one, those of the Crease with its summary first, then the late ones that have arrived by its closure. -/
def batchEvents (s : State) (k : Nat) (bad : Bool) : List Event := sealGroup (s.batchInput k (s.summaryEvent k bad))

/-- The header of a Crease's batch (R72). -/
def batchHeader (s : State) (k : Nat) (bad : Bool) : Octets :=
  s.batchHead k (batchEvents s k bad) (s.batchFlags k (summaryOk (s.summaryEvent k bad) && !bad))

/-- The digest of a Crease's batch (R73). -/
def batchValue (s : State) (k : Nat) (bad : Bool) : Octets := batchDigest (if s.crz.first then zeros 32 else s.crz.dPrev) (batchHeader s k bad) (batchEvents s k bad)

/-- The batch that the seal of a Crease delivers (R70 to R73). -/
def sealBatchOf (s : State) (k : Nat) (bad : Bool) : Batch := ⟨k, batchHeader s k bad ++ batchValue s k bad, batchEvents s k bad, slotsOf (batchEvents s k bad) - 1, s.inService .A, s.inService .B⟩

/-- The CAUSE of a fault of a lane (R88, R395). -/
def faultCause : LaneFaultKind → Nat
  | .lockstep => causeLockstep
  | .unit _ => causeLockstep
  | _ => causeSramUe

/-- The path of a radio (R142). -/
def radioPath (r : Nat) : Path := if r = 0 then .rfa else .rfb

/-- The UTC offset in force at the current second, a leap change at its time (R311). -/
def ofsAt (s : State) : Nat := if s.rd RTC_LEAP_PEND ≠ 0 ∧ s.tb.now.sec % 2 ^ 48 = s.rd RTC_LEAP_EFF then s.rd RTC_LEAP_NEWOFS else s.rd RTC_UTC_OFS

/-- The blocks whose registers the map lists (R13); the backhaul port block stands twice. -/
inductive Block where
  | sys | tb | crz | lsc | lnu | esc | flt | rfm | plm | bhm0 | bhm1 | pbm | mtr | pst | evr | rtc | ksu | cry | rld | dma | dcq | saf
deriving DecidableEq, Repr

/-- The number of a block's 64 KiB region from 0x4000_0000 (R13). -/
def Block.number : Block → Nat
  | .sys => 0
  | .tb => 1
  | .crz => 2
  | .lsc => 3
  | .lnu => 4
  | .esc => 5
  | .flt => 6
  | .rfm => 7
  | .plm => 8
  | .bhm0 => 9
  | .bhm1 => 10
  | .pbm => 11
  | .mtr => 12
  | .pst => 13
  | .evr => 14
  | .rtc => 15
  | .ksu => 16
  | .cry => 17
  | .rld => 18
  | .dma => 19
  | .dcq => 20
  | .saf => 21

/-- The number of the 64 KiB region that holds a field, for both copies of a banked register. -/
def Field.block (f : Field) : Nat := f.key / 67108864 % 16384

/-- A part of the state of the module: the registers of a block, or a piece of state that no register holds. -/
inductive Part where
  | regs (b : Block)
  /-- The lanes' contexts, commit buffers and loads, without their memories. -/
  | lanes
  /-- The lanes' memories (R85). -/
  | sram
  /-- The queues of events that wait (R69). -/
  | waiting
  /-- The Time Base. -/
  | tb
  /-- The Sequencer. -/
  | crz
  /-- The Lane Supervisor. -/
  | lsc
  /-- The Felter. -/
  | flt
  /-- The Launch Unit. -/
  | lnu
  /-- The Escort engines. -/
  | esc
  /-- The DMA engine. -/
  | dma
  /-- The dual-clock queues. -/
  | dcq
  /-- The cells of PST (R281). -/
  | pstCells
  /-- The write buffer of PST and its arbiter (R283). -/
  | pstBuffer
  /-- The recorder. -/
  | evr
  /-- The OTP (R30). -/
  | otp
  /-- The Key Store Unit. -/
  | ksu
  /-- The crypto jobs. -/
  | cry
  /-- The contents of the ACM (R347). -/
  | acm
  /-- The size of the ACM. -/
  | acmSize
  /-- The backup domain. -/
  | rtc
  /-- The metering. -/
  | mtr
  /-- The backhaul ports and the pole bus. -/
  | bh
  /-- The radios. -/
  | rfm
  /-- The power-line modem. -/
  | plm
  /-- Reflect. -/
  | rfl
  /-- The loader. -/
  | rld
  /-- The safety block. -/
  | saf
  /-- Resets, the oscillator and the TAP. -/
  | sys
  /-- The events the loader holds back. -/
  | held
  /-- The frames and signals that have left the module. -/
  | sent
  /-- The elapsed time of the model. -/
  | cycles
  /-- The counter of free values. -/
  | freeCount
deriving DecidableEq, Repr

/-- A part is the same in two states. -/
def Part.same (s t : State) : Part → Prop
  | .regs b => ∀ f : Field, f.block = b.number → t.rd f = s.rd f
  | .lanes => { t.laneA with sram := [] } = { s.laneA with sram := [] } ∧ { t.laneB with sram := [] } = { s.laneB with sram := [] }
  | .sram => t.laneA.sram = s.laneA.sram ∧ t.laneB.sram = s.laneB.sram
  | .esc => t.escA = s.escA ∧ t.escB = s.escB
  | .pstCells => t.pst.cells = s.pst.cells
  | .pstBuffer => t.pst.buffer = s.pst.buffer ∧ t.pst.turn = s.pst.turn
  | .waiting => t.waiting = s.waiting
  | .tb => t.tb = s.tb
  | .crz => t.crz = s.crz
  | .lsc => t.lsc = s.lsc
  | .flt => t.flt = s.flt
  | .lnu => t.lnu = s.lnu
  | .dma => t.dma = s.dma
  | .dcq => t.dcq = s.dcq
  | .evr => t.evr = s.evr
  | .otp => t.otp = s.otp
  | .ksu => t.ksu = s.ksu
  | .cry => t.cry = s.cry
  | .acm => t.acm = s.acm
  | .acmSize => t.acmSize = s.acmSize
  | .rtc => t.rtc = s.rtc
  | .mtr => t.mtr = s.mtr
  | .bh => t.bh = s.bh
  | .rfm => t.rfm = s.rfm
  | .plm => t.plm = s.plm
  | .rfl => t.rfl = s.rfl
  | .rld => t.rld = s.rld
  | .saf => t.saf = s.saf
  | .sys => t.sys = s.sys
  | .held => t.held = s.held
  | .sent => t.sent = s.sent
  | .cycles => t.cycles = s.cycles
  | .freeCount => t.freeCount = s.freeCount

/-- The blocks. -/
def allBlocks : List Block :=
  [.sys, .tb, .crz, .lsc, .lnu, .esc, .flt, .rfm, .plm, .bhm0, .bhm1, .pbm, .mtr, .pst, .evr, .rtc, .ksu, .cry, .rld, .dma, .dcq, .saf]

/-- The parts of the state. -/
def allParts : List Part :=
  allBlocks.map .regs ++ [.lanes, .sram, .waiting, .tb, .crz, .lsc, .flt, .lnu, .esc, .dma, .dcq, .pstCells, .pstBuffer, .evr, .otp, .ksu, .cry, .acm, .acmSize, .rtc, .mtr, .bh, .rfm, .plm, .rfl, .rld, .saf, .sys, .held, .sent, .cycles, .freeCount]

/-- All parts but those of a list. -/
def allBut (L : List Part) : List Part := allParts.filter (fun p => !L.contains p)

/-- The parts that a function's enable concerns (R28). -/
def funcParts : Func → List Part
  | .port0 => [.regs .bhm0]
  | .port1 => [.regs .bhm1]
  | .pole => [.regs .pbm]
  | .rfA => [.regs .rfm, .rfm]
  | .rfB => [.regs .rfm, .rfm]
  | .plm => [.regs .plm, .regs .pst, .waiting, .pstCells, .pstBuffer, .evr, .plm, .rfl]
  | .reflect => [.regs .plm, .regs .pst, .waiting, .pstCells, .pstBuffer, .evr, .plm, .rfl]
  | .meter => [.regs .mtr, .mtr]
  | .channel _ => [.regs .dma]
  | .queue _ => [.regs .dcq, .waiting, .dcq, .bh]

/-- The parts that a store to any address can change. -/
def storeParts : List Part := allBut [.otp, .acmSize, .sent, .cycles]

/-- The lane whose store a command is, where the command is the store of a command register. -/
def server : Sys2Proof.Instr → Option Lane
  | .sysrst l _ _ => some l
  | .functionEnable l _ => some l
  | .functionDisable l _ => some l
  | .tbSet l _ => some l
  | .servoDisable l => some l
  | .crzEnable l => some l
  | .crzDisable l => some l
  | .injectEvent l _ _ => some l
  | .swap l _ => some l
  | .takeoutA l _ => some l
  | .takeoutB l _ => some l
  | .rejoin l _ => some l
  | .lscJoin l _ => some l
  | .radioDownlinkQueue l _ _ _ => some l
  | .lanternTableWrite l _ _ => some l
  | .plcDownlinkQueue l _ _ _ => some l
  | .plcAssignmentPending l _ _ _ => some l
  | .start l => some l
  | .baseline l _ => some l
  | .abort l => some l
  | .reflectDisable l => some l
  | .txTailWrite l _ _ => some l
  | .enter l _ _ => some l
  | .meteringStop l _ => some l
  | .sf1ThrWrite l _ => some l
  | .pstStore l _ _ _ _ => some l
  | .commit l _ => some l
  | .addHour l _ => some l
  | .subHour l _ => some l
  | .ponSet l _ => some l
  | .ponClr l _ => some l
  | .transition l _ _ => some l
  | .importBlob l _ _ => some l
  | .derive l _ _ => some l
  | .clear l _ _ => some l
  | .enrolpuf l _ _ _ => some l
  | .cryJob l _ _ => some l
  | .program l _ => some l
  | .erase l _ => some l
  | .verify l _ _ => some l
  | .schedule l _ _ _ _ => some l
  | .cancel l _ => some l
  | .verdict l _ _ _ => some l
  | .dmaTailWrite l _ _ => some l
  | .flush l _ _ => some l
  | .drop l _ _ => some l
  | .bistLaneA l _ => some l
  | .bistLaneB l _ => some l
  | .detectPathA l _ => some l
  | .detectPathB l _ => some l
  | .fullPathA l _ => some l
  | .fullPathB l _ => some l
  | .clrblk l _ => some l
  | _ => none

/-- The parts of the state that a command can change. A store of a command register is meant as performed, by a lane whose stores take effect. -/
def touches : Sys2Proof.Instr → List Part
  | .registerWrite .. => storeParts
  | .wideValueCaptureRead .. => [.regs .crz, .regs .lsc, .regs .bhm0, .regs .bhm1, .regs .pbm, .regs .pst, .regs .rld, .regs .dma, .regs .saf, .lanes, .waiting, .tb,
  .crz, .lsc, .flt, .dma, .pstCells, .pstBuffer, .evr, .rtc, .bh, .rfl, .rld, .saf, .held, .freeCount]
  | .wideValueCommitWrite .. => storeParts
  | .ndFieldRead .. => [.regs .crz, .regs .lsc, .regs .bhm0, .regs .bhm1, .regs .pbm, .regs .pst, .regs .rld, .regs .dma, .regs .saf, .lanes, .waiting, .tb, .crz, .lsc,
  .flt, .dma, .pstCells, .pstBuffer, .evr, .rtc, .bh, .rfl, .rld, .saf, .held, .freeCount]
  | .powerOnReset => allBut [.pstCells, .otp, .acmSize, .sent, .cycles]
  | .powerOnResetEnd .. => [.regs .lsc, .regs .pst, .regs .saf, .lanes, .waiting, .pstCells, .pstBuffer, .mtr, .sys, .held]
  | .backupDomainReset => [.regs .rtc, .lanes, .rtc]
  | .pinReset => allBut [.pstCells, .otp, .acmSize, .sent, .cycles]
  | .pinResetRelease => [.regs .lsc, .lanes, .sys]
  | .sysrst .. => allBut [.pstCells, .otp, .acmSize, .sent, .cycles]
  | .nolaneReset => allBut [.pstCells, .otp, .acmSize, .sent, .cycles]
  | .laneReset .. => [.regs .sys, .regs .lsc, .lanes, .sram]
  | .sramRefillComplete .. => [.regs .lsc, .lanes, .waiting]
  | .coldStartBoot => allBut [.otp, .sent, .cycles]
  | .laneBootLoad .. => [.regs .crz, .regs .lsc, .regs .bhm0, .regs .bhm1, .regs .pbm, .regs .pst, .regs .ksu, .regs .rld, .regs .dma, .regs .saf, .lanes, .sram,
  .waiting, .crz, .lsc, .flt, .dma, .pstCells, .pstBuffer, .evr, .bh, .rfl, .rld, .saf, .held]
  | .functionEnable _ f => funcParts f
  | .functionDisable _ f => funcParts f
  | .shutdownComplete .. => [.regs .rfm, .regs .plm, .regs .bhm0, .regs .bhm1, .regs .pbm, .regs .mtr, .regs .pst, .regs .dma, .regs .dcq, .sram, .waiting, .dma, .dcq,
  .pstCells, .pstBuffer, .evr, .mtr, .bh, .rfm, .plm, .rfl, .freeCount]
  | .tbCounterTick .. => [.regs .tb, .regs .crz, .tb, .crz, .cycles, .freeCount]
  | .snapshotBoundary => [.regs .tb, .regs .dcq, .waiting, .tb, .crz]
  | .tbSet .. => [.regs .tb, .lanes, .tb]
  | .servoDisable .. => [.regs .tb, .regs .dcq, .waiting, .tb]
  | .followUpTimeout => [.regs .tb, .tb]
  | .syncTimeout => [.regs .tb, .regs .dcq, .waiting, .tb]
  | .holdoverExpiry => [.regs .tb, .regs .dcq, .waiting, .tb]
  | .creaseClosure .. => [.regs .crz, .regs .lsc, .regs .bhm0, .regs .bhm1, .regs .pbm, .regs .pst, .regs .rld, .regs .dma, .regs .saf, .lanes, .waiting, .tb, .crz,
  .lsc, .flt, .dma, .pstCells, .pstBuffer, .evr, .bh, .rfl, .rld, .saf, .held]
  | .eventRegister .. => [.regs .crz, .regs .bhm0, .regs .bhm1, .regs .dcq, .waiting, .crz, .flt]
  | .intakeResume => [.regs .crz, .regs .bhm0, .regs .bhm1, .regs .dcq, .waiting, .crz, .flt]
  | .batchDelivery .. => [.regs .crz, .regs .lsc, .regs .esc, .regs .flt, .regs .bhm0, .regs .bhm1, .regs .pbm, .regs .pst, .regs .rld, .regs .dma, .regs .saf, .lanes,
  .sram, .waiting, .tb, .crz, .lsc, .flt, .esc, .dma, .pstCells, .pstBuffer, .evr, .bh, .rfl, .rld, .saf, .held]
  | .crzEnable .. => [.regs .crz, .regs .lsc, .regs .lnu, .regs .esc, .regs .evr, .waiting, .tb, .crz, .lsc, .flt, .lnu, .esc, .evr, .held]
  | .crzDisable .. => [.regs .crz, .crz]
  | .injectEvent .. => [.regs .crz, .regs .bhm0, .regs .bhm1, .waiting, .crz, .flt]
  | .mlanectxWrite .. => [.lanes]
  | .fenceViolation .. => [.lanes]
  | .interruptEntry .. => [.lanes]
  | .commitRecordStore .. => [.regs .lsc, .regs .pst, .lanes, .sram]
  | .lscSeal .. => [.lanes]
  | .sealComplete .. => [.regs .crz, .regs .lsc, .regs .bhm0, .regs .bhm1, .regs .pbm, .regs .pst, .regs .rld, .regs .dma, .regs .saf, .lanes, .sram, .waiting, .crz,
  .lsc, .flt, .esc, .dma, .pstCells, .pstBuffer, .evr, .bh, .rfl, .rld, .saf, .held]
  | .laneFault .. => [.regs .crz, .regs .lsc, .regs .esc, .regs .flt, .regs .bhm0, .regs .bhm1, .regs .pbm, .regs .pst, .regs .rld, .regs .dma, .regs .saf, .lanes,
  .waiting, .tb, .crz, .lsc, .flt, .dma, .pstCells, .pstBuffer, .evr, .bh, .rfl, .rld, .saf, .held]
  | .cmpWaitExpiry => [.regs .lsc, .lsc]
  | .commitDrain .. => allBut [.otp, .acmSize, .sent, .cycles]
  | .drainComplete => [.regs .bhm0, .regs .pst, .regs .saf, .lanes, .lsc, .pstCells, .pstBuffer, .evr, .bh, .rfl, .saf]
  | .swap .. => [.lsc]
  | .takeoutA .. => [.regs .crz, .regs .lsc, .regs .bhm0, .regs .bhm1, .regs .pbm, .regs .pst, .regs .rld, .regs .dma, .regs .saf, .lanes, .waiting, .crz, .lsc, .flt,
  .dma, .pstCells, .pstBuffer, .evr, .bh, .rfl, .rld, .saf, .held]
  | .takeoutB .. => [.regs .crz, .regs .lsc, .regs .bhm0, .regs .bhm1, .regs .pbm, .regs .pst, .regs .rld, .regs .dma, .regs .saf, .lanes, .waiting, .crz, .lsc, .flt,
  .dma, .pstCells, .pstBuffer, .evr, .bh, .rfl, .rld, .saf, .held]
  | .rejoin .. => [.regs .lsc, .waiting, .lsc]
  | .lscJoin .. => [.regs .lsc, .waiting, .lsc]
  | .resultRecordSend => [.regs .flt, .flt, .bh]
  | .collectorRecordReceive .. => [.regs .flt, .flt]
  | .collectorIntake => [.regs .flt, .waiting, .flt]
  | .actionDeadlineMiss .. => [.regs .lnu, .lnu]
  | .beacon .. => [.regs .rfm, .regs .ksu, .regs .dcq, .regs .saf, .waiting, .rfm, .sent]
  | .radioBundleCell .. => [.regs .lnu, .regs .rfm, .regs .ksu, .regs .dcq, .regs .saf, .waiting, .lnu, .rfm, .sent]
  | .radioFrameReceive .. => [.regs .rfm, .regs .ksu, .regs .dcq, .waiting, .rfm, .sent]
  | .immAckReceive .. => [.regs .rfm, .waiting, .rfm]
  | .ackWaitExpiry .. => [.regs .rfm, .waiting, .rfm]
  | .reportCellEnd .. => [.regs .rfm, .waiting, .rfm]
  | .darnWindowEnd .. => [.regs .rfm, .waiting, .rfm]
  | .nbrCellEnd .. => [.regs .rfm, .waiting, .rfm]
  | .wakeChange => [.regs .rfm, .rfm]
  | .radioDownlinkQueue .. => [.regs .rfm, .waiting, .rfm]
  | .lanternTableWrite .. => [.regs .rfm, .waiting, .rfm]
  | .downlinkNoOpportunity .. => [.regs .rfm, .waiting, .rfm]
  | .timeFrame .. => [.regs .plm, .regs .ksu, .regs .dcq, .regs .saf, .waiting, .plm, .sent]
  | .plcBundleCell .. => [.regs .lnu, .regs .plm, .regs .ksu, .regs .dcq, .regs .saf, .waiting, .lnu, .plm, .sent]
  | .plcFrameReceive .. => [.regs .plm, .regs .ksu, .regs .dcq, .waiting, .plm, .sent]
  | .plcAckReceive .. => [.regs .plm, .waiting, .plm]
  | .plcAckWaitExpiry => [.regs .plm, .waiting, .plm]
  | .plcReportMiss .. => [.regs .plm, .waiting, .plm]
  | .plcDownlinkQueue .. => [.regs .plm, .waiting, .plm]
  | .plcAssignmentPending .. => [.regs .plm, .plm]
  | .start .. => [.regs .plm, .rfl]
  | .baseline .. => [.regs .plm, .rfl]
  | .abort .. => [.regs .plm, .regs .pst, .waiting, .pstCells, .pstBuffer, .evr, .rfl]
  | .reflectDisable .. => [.regs .plm, .regs .pst, .waiting, .pstCells, .pstBuffer, .evr, .plm, .rfl]
  | .reflectRunStart .. => [.regs .plm, .regs .pst, .waiting, .pstCells, .pstBuffer, .evr, .rfl]
  | .shot .. => [.regs .plm, .regs .pst, .regs .dcq, .waiting, .pstCells, .pstBuffer, .evr, .rfl]
  | .reflectProcess => [.regs .plm, .regs .pst, .waiting, .pstCells, .pstBuffer, .evr, .rfl]
  | .baselineWriteDone => [.regs .plm, .regs .pst, .waiting, .pstCells, .pstBuffer, .evr, .rfl]
  | .quietWindowEnd => [.regs .plm, .regs .pst, .waiting, .pstCells, .pstBuffer, .evr, .rfl]
  | .linkUp .. => [.regs .bhm0, .regs .bhm1, .bh, .sent]
  | .linkDown .. => [.regs .bhm0, .regs .bhm1, .bh]
  | .bhFrameReceive .. => [.regs .tb, .regs .crz, .regs .flt, .regs .bhm0, .regs .bhm1, .regs .dcq, .lanes, .sram, .waiting, .tb, .crz, .lsc, .flt, .bh, .sent,
  .freeCount]
  | .hsrForward .. => [.regs .tb, .regs .bhm0, .regs .bhm1, .regs .dcq, .bh, .sent, .freeCount]
  | .txTailWrite .. => [.regs .bhm0, .regs .bhm1, .bh]
  | .txFrameSend .. => [.regs .tb, .regs .bhm0, .regs .bhm1, .regs .dcq, .bh, .sent, .freeCount]
  | .descriptorWriteback => [.regs .bhm0, .regs .bhm1, .regs .pbm, .sram, .bh]
  | .verifyMpacketTimer .. => [.regs .bhm0, .regs .bhm1, .bh, .sent]
  | .respondMpacketReceive .. => [.regs .bhm0, .regs .bhm1, .bh]
  | .pauseReceive .. => [.regs .bhm0, .regs .bhm1, .bh]
  | .pauseExpiry .. => [.bh]
  | .pauseWatchdogExpiry .. => [.regs .bhm0, .regs .bhm1, .bh]
  | .duplicateEntryForget .. => [.bh]
  | .enter .. => [.regs .bhm0, .regs .bhm1]
  | .drWakeTime => [.regs .crz, .regs .bhm0, .regs .bhm1, .lanes, .tb, .crz, .lsc, .bh]
  | .heartbeatRestToggle => [.saf]
  | .pbFrameReceive .. => [.regs .pbm, .regs .dcq, .waiting, .bh]
  | .pbFrameTransmit .. => [.regs .pbm, .regs .dcq, .bh, .sent]
  | .pbCollision .. => [.regs .pbm, .bh, .freeCount]
  | .pbBackoffExpiry => [.bh]
  | .meteringSample .. => [.regs .mtr, .regs .dcq, .waiting, .mtr, .freeCount]
  | .crossingTimeout .. => [.regs .mtr, .regs .dcq, .waiting, .mtr, .freeCount]
  | .freeWindowEnd .. => [.regs .mtr, .regs .dcq, .waiting, .mtr, .freeCount]
  | .creaseSummary => [.regs .mtr, .regs .dcq, .waiting, .mtr, .freeCount]
  | .meteringStart => [.regs .mtr, .mtr, .freeCount]
  | .meteringStop .. => [.regs .mtr, .regs .dcq, .waiting, .mtr, .freeCount]
  | .sf1PathATrip .. => [.regs .crz, .regs .bhm0, .regs .bhm1, .regs .mtr, .regs .dcq, .lanes, .waiting, .tb, .crz, .lsc, .mtr, .bh]
  | .sf1PathBTrip .. => [.regs .crz, .regs .bhm0, .regs .bhm1, .regs .mtr, .regs .dcq, .lanes, .waiting, .tb, .crz, .lsc, .mtr, .bh]
  | .sf1TripRelease .. => [.regs .crz, .regs .bhm0, .regs .bhm1, .regs .mtr, .regs .dcq, .lanes, .waiting, .tb, .crz, .lsc, .mtr, .bh]
  | .sf1DisagreeTimeout => [.regs .mtr, .regs .saf, .waiting, .mtr]
  | .sf1ThrWrite .. => [.regs .mtr]
  | .pstStore _ addr _ _ _ => if 0x20000000 ≤ addr.toNat ∧ addr.toNat < 0x21000000 then [.regs .lsc, .regs .pst, .regs .saf, .lanes, .pstCells, .pstBuffer, .evr, .rfl]
  else storeParts
  | .pstCellWrite => [.regs .pst, .pstCells, .pstBuffer, .evr, .rfl]
  | .pstRead .. => [.regs .crz, .regs .lsc, .regs .bhm0, .regs .bhm1, .regs .pbm, .regs .pst, .regs .rld, .regs .dma, .regs .saf, .lanes, .waiting, .tb, .crz, .lsc,
  .flt, .dma, .pstCells, .pstBuffer, .evr, .rtc, .bh, .rfl, .rld, .saf, .held, .freeCount]
  | .pstDrainRead .. => [.regs .crz, .regs .lsc, .regs .bhm0, .regs .bhm1, .regs .pbm, .regs .pst, .regs .rld, .regs .dma, .regs .saf, .lanes, .waiting, .tb, .crz,
  .lsc, .flt, .dma, .pstCells, .pstBuffer, .evr, .rtc, .bh, .rfl, .rld, .saf, .held, .freeCount]
  | .opsecTick => [.regs .pst, .pstCells, .pstBuffer]
  | .recorderWriteDone => [.regs .pst, .regs .evr, .pstCells, .pstBuffer, .evr, .rfl]
  | .rtcSecondTick => [.regs .rtc, .rtc]
  | .rtcTrimStep .. => [.regs .rtc, .rtc]
  | .timeGroupRead .. => [.regs .crz, .regs .lsc, .regs .bhm0, .regs .bhm1, .regs .pbm, .regs .pst, .regs .rld, .regs .dma, .regs .saf, .lanes, .waiting, .tb, .crz,
  .lsc, .flt, .dma, .pstCells, .pstBuffer, .evr, .rtc, .bh, .rfl, .rld, .saf, .held, .freeCount]
  | .freezeTimeout .. => [.regs .rtc, .rtc]
  | .commit .. => [.regs .rtc, .rtc]
  | .addHour .. => [.regs .rtc, .rtc]
  | .subHour .. => [.regs .rtc, .rtc]
  | .ponSet .. => [.regs .rtc, .rtc]
  | .ponClr .. => [.regs .rtc, .rtc]
  | .rtcMark .. => [.regs .rtc, .tb, .rtc]
  | .oscillatorStop => [.regs .rtc, .rtc]
  | .oscillatorResume => [.rtc]
  | .switchToVbat .. => [.regs .rtc, .rtc]
  | .switchToVmain => [.rtc]
  | .rootRecovery .. => [.regs .ksu, .ksu]
  | .helperMirrorWrite .. => [.regs .pst, .regs .ksu, .pstCells, .pstBuffer, .evr, .ksu, .rfl]
  | .transition .. => [.regs .pst, .regs .ksu, .pstCells, .pstBuffer, .evr, .ksu, .rfl, .freeCount]
  | .importBlob .. => [.regs .pst, .regs .ksu, .pstCells, .pstBuffer, .evr, .ksu, .rfl, .freeCount]
  | .derive .. => [.regs .ksu, .ksu]
  | .clear .. => [.regs .ksu, .ksu]
  | .enrolpuf .. => [.regs .pst, .regs .ksu, .pstCells, .pstBuffer, .evr, .ksu, .rfl, .freeCount]
  | .cryJob .. => [.regs .cry, .sram, .cry]
  | .cryJobComplete .. => [.regs .ksu, .regs .cry, .sram, .ksu, .cry, .freeCount]
  | .program .. => [.regs .rld, .rld]
  | .erase .. => [.regs .rld, .rld]
  | .acmOperationDone .. => [.regs .rld, .acm, .rld, .freeCount]
  | .verify .. => [.regs .ksu, .regs .rld, .waiting, .held]
  | .schedule .. => [.regs .pst, .regs .rld, .waiting, .pstCells, .pstBuffer, .evr, .rfl, .rld, .held]
  | .cancel .. => [.regs .pst, .regs .rld, .waiting, .pstCells, .pstBuffer, .evr, .rfl, .rld, .held]
  | .saveCopyDone .. => [.regs .pst, .regs .ksu, .regs .rld, .waiting, .pstCells, .pstBuffer, .evr, .acm, .rfl, .rld, .held, .freeCount]
  | .updateActivation => allBut [.otp, .acmSize, .sent, .cycles]
  | .activationDeferExpiry => [.regs .pst, .regs .rld, .waiting, .pstCells, .pstBuffer, .evr, .rfl, .rld, .held]
  | .codeStoreWritten => [.regs .pst, .regs .rld, .waiting, .pstCells, .pstBuffer, .evr, .rfl, .rld, .held]
  | .verdict .. => [.regs .crz, .regs .lsc, .regs .bhm0, .regs .bhm1, .regs .pbm, .regs .pst, .regs .rld, .regs .dma, .regs .saf, .lanes, .waiting, .crz, .lsc, .flt,
  .dma, .pstCells, .pstBuffer, .evr, .bh, .rfl, .rld, .saf, .held]
  | .trialDeadline => [.regs .crz, .regs .lsc, .regs .bhm0, .regs .bhm1, .regs .pbm, .regs .pst, .regs .rld, .regs .dma, .regs .saf, .lanes, .waiting, .crz, .lsc, .flt,
  .dma, .pstCells, .pstBuffer, .evr, .bh, .rfl, .rld, .saf, .held]
  | .committingCopyDone => [.regs .pst, .regs .rld, .waiting, .pstCells, .pstBuffer, .evr, .rfl, .rld, .held]
  | .rollbackRestoreDone => allBut [.otp, .acmSize, .sent, .cycles]
  | .dmaTailWrite .. => [.regs .dma]
  | .copy .. => [.regs .lsc, .regs .pst, .regs .dma, .regs .saf, .sram, .crz, .dma, .pstCells, .pstBuffer, .evr, .rfl, .freeCount]
  | .gather .. => [.regs .lsc, .regs .pst, .regs .dma, .regs .saf, .sram, .crz, .dma, .pstCells, .pstBuffer, .evr, .rfl, .freeCount]
  | .fill .. => [.regs .lsc, .regs .pst, .regs .dma, .regs .saf, .sram, .crz, .dma, .pstCells, .pstBuffer, .evr, .rfl, .freeCount]
  | .compare .. => [.regs .lsc, .regs .pst, .regs .dma, .regs .saf, .sram, .crz, .dma, .pstCells, .pstBuffer, .evr, .rfl, .freeCount]
  | .dmaDescriptorComplete .. => [.regs .pst, .regs .dma, .dma, .pstCells, .pstBuffer, .evr, .rfl]
  | .dmaResponseTimeout .. => [.regs .pst, .regs .dma, .dma, .pstCells, .pstBuffer, .evr, .rfl]
  | .completionRecordWrite => [.regs .dma, .sram, .dma]
  | .flush .. => [.regs .dcq, .waiting, .dcq, .bh]
  | .drop .. => [.regs .dcq, .waiting, .dcq, .bh]
  | .dcqWordRead .. => [.regs .dcq, .waiting, .dcq, .bh]
  | .bistLaneA .. => [.regs .crz, .regs .lsc, .regs .saf, .lanes, .waiting, .crz, .flt, .saf]
  | .bistLaneB .. => [.regs .crz, .regs .lsc, .regs .saf, .lanes, .waiting, .crz, .flt, .saf]
  | .bistPeriodicDue => [.regs .saf, .saf]
  | .bistComplete .. => [.regs .sys, .regs .lsc, .regs .saf, .lanes, .sram, .waiting, .saf]
  | .detectPathA .. => [.regs .saf, .saf]
  | .detectPathB .. => [.regs .saf, .saf]
  | .fullPathA .. => [.regs .saf, .saf]
  | .fullPathB .. => [.regs .saf, .saf]
  | .clrblk .. => [.regs .saf]
  | .sf1TestPeriodic => [.regs .saf, .saf]
  | .sf1TestComplete .. => [.regs .saf, .waiting, .saf, .freeCount]
  | .rinseRead .. => [.regs .crz, .regs .lsc, .regs .bhm0, .regs .bhm1, .regs .pbm, .regs .pst, .regs .rld, .regs .dma, .regs .saf, .lanes, .waiting, .tb, .crz, .lsc,
  .flt, .dma, .pstCells, .pstBuffer, .evr, .bh, .rfl, .rld, .saf, .held]
  | .vinCollapse .. => allBut [.otp, .acmSize, .sent, .cycles]
  | .referenceOscillatorStop => [.rtc, .mtr, .sys]
  | .tapInstructionUpdate .. => allBut [.pstCells, .otp, .acmSize, .sent, .cycles]
  | .functionRunning .. => [.regs .rfm, .regs .plm, .regs .bhm0, .regs .bhm1, .regs .pbm, .regs .mtr, .regs .dma, .regs .dcq, .bh, .rfm]
  | .otpEntryProgrammed => allBut [.acmSize, .sent, .cycles]

end Sys2Proof.Machine
end

