-- ==== Sys2Proof/Certificates/Slice0/Obligations.lean ====
section
/-!
DEFINITION. The statements for the provers: what a step does with the queue, what every command keeps, and family by family what a command does where its rule lets it act.
-/
open Sys2Proof Sys2Proof.Machine

/-! ### The queue, the invariant and the frame -/

/-- A step performs the command at the front of the queue on the state with the queue's rest. -/
def Obligations.StepRunsFront : Prop :=
  ∀ (c : Instr) (rest : List Instr) (s : State), step { s with pending := c :: rest } = exec c { s with pending := rest }

/-- With an empty queue a step answers the same state: the model's choice, notes/assumptions/1. -/
def Obligations.EmptyQueueIdles : Prop :=
  ∀ s : State, s.pending = [] → step s = .next s

/-- Every command answers a next state, and none changes the queue. -/
def Obligations.EveryCommandAnswers : Prop :=
  ∀ (c : Instr) (s : State), Answers c s (fun t => t.pending = s.pending)

/-- The state after reset meets the invariant.
The values that this state has where spec/ gives none are the model's choice, notes/assumptions/3 and 4. -/
def Obligations.ResetMeetsInvariant : Prop := State.reset.Inv

/-- Every step keeps the invariant: the memories in canonical form (R85, R281, R347), the registers rising, at most 64 words in the write buffer of PST (R283), at most 16 records
in the intake queue of the collector (R125), at most 32,768 records in a commit buffer (R95), and the Time Base a point of network time (R34).
What unlisted octets and register fields read as is the model's choice, notes/assumptions/4 and 50. -/
def Obligations.StepKeepsInvariant : Prop :=
  ∀ s t : State, s.Inv → step s = .next t → t.Inv

/-- The frame of every command: each part of the state that is not in `touches` of the command is the same after it. A command that is a lane's store of a command register is
meant as performed (`server`). -/
def Obligations.CommandsKeepOtherParts : Prop :=
  ∀ (c : Instr) (s t : State), exec c s = .next t → (∀ l, server c = some l → s.serves l) → ∀ p : Part, p ∉ touches c → p.same s t

/-- The OTP changes in one command only, that of the entry programmed (R30, R327). -/
def Obligations.OtpChangesOnceOnly : Prop :=
  ∀ (c : Instr) (s t : State), exec c s = .next t → c ≠ .otpEntryProgrammed → t.otp = s.otp

/-! ### Register access -/

/-- R14: an access to the register space that is not 32 bits wide and aligned faults and has no effect, for a store and for a load. What stands in the state with which the lane makes
the access, its mode and its PMP regions, comes with the command, and a trap takes it to M mode: the model's choice, notes/assumptions/13. -/
def Obligations.MisalignedRegisterAccess : Prop :=
  ∀ (s : State) (l : Lane) (a : Word) (size : Nat) (v : BitVec 64),
    s.laneRuns l = true → 0x40000000 ≤ a.toNat → a.toNat < 0x40160000 → size ≠ 4 ∨ a.toNat % 4 ≠ 0 →
      (∀ m : WriteMeet, exec (.registerWrite l a size v m) s = .next ((s.enterCore l m.core).trapLane l .storeFault)) ∧
      (∀ m : LoadMeet, exec (.ndFieldRead l a size m) s = .next ((s.enterCore l m.core).trapLane l .loadFault))

/-- R10 and R91: a load of an ND word from deterministic context faults and returns no data; from service context, where the lane's PMP regions permit it, it returns the value and is
counted in LSC_ND_CNT of the lane, and only the Active lane's count affects a Crease's coverage. -/
def Obligations.NdReads : Prop :=
  ∀ (s u : State) (l : Lane) (a : Word) (m : LoadMeet), s.laneRuns l = true → 0x40000000 ≤ a.toNat → a.toNat < 0x40160000 → a.toNat % 4 = 0 → isNd l a.toNat = true → u = s.enterCore l m.core →
    ((s.lane l).det = true ∨ u.coreMay l false a.toNat 4 = false → exec (.ndFieldRead l a 4 m) s = .next (u.trapLane l .loadFault)) ∧
    ((s.lane l).det = false → u.coreMay l false a.toNat 4 = true → m.parity = false → Answers (.ndFieldRead l a 4 m) s (fun t =>
      (t.lane l).data = (u.regRead l a.toNat).2 ∧ (t.lane l).trap = ((u.regRead l a.toNat).1.lane l).trap ∧
      t.rd (LSC_ND_CNT_COUNT l) = ((u.regRead l a.toNat).1.rd (LSC_ND_CNT_COUNT l) + 1) % 2 ^ 32 ∧
      ((u.regRead l a.toNat).1.role l ≠ roleActive → t.crz = (u.regRead l a.toNat).1.crz)))

/-- R15: a load of the lowest word of a wide register captures the whole value into the lane's holding register, and a load of a higher word answers from there, whatever the register
holds by then; outside the RTC, whose time group R303 governs. An ND register is read so in service context. -/
def Obligations.WideReads : Prop :=
  ∀ (s : State) (l : Lane) (a : Word) (p : RegPlace), s.laneRuns l = true → (s.lane l).det = false → 0x40000000 ≤ a.toNat → a.toNat < 0x40160000 →
    a.toNat < 0x400F0000 ∨ 0x40100000 ≤ a.toNat → a.toNat % 4 = 0 → findReg a.toNat = some p → 1 < p.row.words → freeOfCapture (a.toNat - 4 * p.word) = false →
      (p.word = 0 → Answers (.wideValueCaptureRead l a false) s (fun t =>
        (t.lane l).data = bits (s.placeValue l p) 0 32 ∧ kvFind (t.lane l).holding a.toNat = some (s.placeValue l p))) ∧
      (p.word ≠ 0 → Answers (.wideValueCaptureRead l a false) s (fun t =>
        (t.lane l).data = bits ((kvFind (s.lane l).holding (a.toNat - 4 * p.word)).getD 0) (32 * p.word) 32 ∧ (t.lane l).holding = (s.lane l).holding))

/-- R15: a store to a word of a wide register below the highest is only staged for its lane. A store to the highest word makes the whole value take effect: TB_MASTER, whose lower
words the lane has staged. -/
def Obligations.WideWrites : Prop :=
  (∀ (s u : State) (l : Lane) (a v : Word) (p : RegPlace) (m : WriteMeet), s.serves l → m.parity = false → m.atomic = none → u = s.enterCore l m.core → u.coreMay l true a.toNat 4 = true →
    0x40000000 ≤ a.toNat → a.toNat < 0x400F0000 → a.toNat % 4 = 0 → findReg a.toNat = some p → p.word + 1 < p.row.words → u.writeLock l a.toNat v.toNat = none →
      exec (.wideValueCommitWrite l a v m) s = .next (u.onLane l (fun x => { x with staging := kvSet x.staging a.toNat v.toNat }))) ∧
  (∀ (s : State) (l : Lane) (v : Word) (m : WriteMeet) (w0 w1 : Nat), s.serves l → m.parity = false → m.atomic = none → (s.enterCore l m.core).coreMay l true 0x40010060 4 = true →
    w0 < 2 ^ 32 → w1 < 2 ^ 32 → kvFind (s.lane l).staging 0x40010058 = some w0 → kvFind (s.lane l).staging 0x4001005C = some w1 →
      Answers (.wideValueCommitWrite l 0x40010060#32 v m) s (fun t =>
        t.rd TB_MASTER_CLOCKID * 65536 + t.rd TB_MASTER_PORTNUM = (w0 + w1 * 2 ^ 32 + v.toNat * 2 ^ 64) % 2 ^ 80 ∧
        kvFind (t.lane l).staging 0x40010058 = none ∧ kvFind (t.lane l).staging 0x4001005C = none ∧ t.lane l.other = s.lane l.other))

/-- R9, R16, R17, R85: what a lane's store does. In service context the lane's own banked SYS_IRQ_EN takes it whatever the lane's role; the Active lane's store to TB_LOCK_CFG gives the
fields their bits; a store of a lane that does not act as the Active lane is not performed and is counted in LSC_SVC_WCNT; an aligned store to the lane's own SRAM writes its octets there, and
an atomic add returns the old word and writes the sum; a misaligned store and a store outside the lane's spaces trap, and so does an atomic instruction anywhere but on SRAM.
Which stores are counted is the model's reading, notes/assumptions/23; that the lane's mode and PMP regions come with the command is its choice, notes/assumptions/13. -/
def Obligations.LaneStores : Prop :=
  ∀ (s u : State) (l : Lane) (v : BitVec 64) (m : WriteMeet), s.laneRuns l = true → (s.lane l).det = false → m.parity = false → u = s.enterCore l m.core →
    (m.atomic = none → u.coreMay l true 0x40000014 4 = true →
      Answers (.registerWrite l 0x40000014#32 4 v m) s (fun t => t.rd (SYS_IRQ_EN_EN l) = bits v.toNat 1 21 ∧ t.rd (SYS_IRQ_EN_EN l.other) = s.rd (SYS_IRQ_EN_EN l.other))) ∧
    (m.atomic = none → u.coreMay l true 0x40010050 4 = true →
      (s.actsActive l = true → Answers (.registerWrite l 0x40010050#32 4 v m) s (fun t =>
        t.rd TB_LOCK_CFG_LOCK_THR = bits v.toNat 0 12 ∧ t.rd TB_LOCK_CFG_UNLOCK_THR = bits v.toNat 12 12 ∧ t.rd TB_LOCK_CFG_LOCK_N = bits v.toNat 24 8)) ∧
      (s.actsActive l = false → Answers (.registerWrite l 0x40010050#32 4 v m) s (fun t =>
        t.rd (LSC_SVC_WCNT_COUNT l) = min (2 ^ (LSC_SVC_WCNT_COUNT l).width - 1) (s.rd (LSC_SVC_WCNT_COUNT l) + 1) ∧ t.tb = s.tb ∧ ∀ f : Field, f.block ≠ Block.lsc.number → t.rd f = s.rd f))) ∧
    (∀ (a : Word) (size : Nat), size = 1 ∨ size = 2 ∨ size = 4 ∨ size = 8 →
      (0x08000000 ≤ a.toNat → a.toNat + size ≤ 0x08400000 → a.toNat % size = 0 → u.coreMay l true a.toNat size = true → (s.lane l).closed = false → m.core.word = .clean →
        (m.atomic = none → Answers (.registerWrite l a size v m) s (fun t => (t.lane l).sram = memWrite (s.lane l).sram (a.toNat - 0x08000000) (le size v.toNat) ∧
          t.lane l.other = s.lane l.other ∧ ∀ f : Field, t.rd f = s.rd f)) ∧
        (m.atomic = some .add → 4 ≤ size → ∀ old : Nat, old = leVal (memRead (s.lane l).sram (a.toNat - 0x08000000) size) → Answers (.registerWrite l a size v m) s (fun t =>
          (t.lane l).data = old ∧ memRead (t.lane l).sram (a.toNat - 0x08000000) size = le size (old + v.toNat) ∧ t.lane l.other = s.lane l.other ∧ ∀ f : Field, t.rd f = s.rd f))) ∧
      (a.toNat < 0x08000000 ∨ 0x50000000 ≤ a.toNat → exec (.registerWrite l a size v m) s = .next (u.trapLane l (if a.toNat % size = 0 then .storeFault else .storeMisaligned))) ∧
      ((∃ op : AtomicOp, m.atomic = some op) → 0x40000000 ≤ a.toNat → a.toNat < 0x40160000 → exec (.registerWrite l a size v m) s = .next (u.trapLane l .storeFault)))
/-! ### Resets, start-up and supply -/

/-- R30: what a power-on, a pin, a system and a NOLANE reset leave, and the bit of SYS_RESET_CAUSE each sets; and that a wrong key makes none. A pin or system reset made while OTP is
programmed is held off (R421), so it is stated where none is. -/
def Obligations.ResetsClear : Prop :=
  (∀ s : State, Answers .powerOnReset s (fun t => ResetLeaves true (if s.rtc.bkpDue = true then [SYS_RESET_CAUSE_BKP] else []) s t ∧ t.rd SYS_RESET_CAUSE_POR = 1 ∧
    t.rd SYS_RESET_CAUSE_BKP = b2n s.rtc.bkpDue ∧ t.sys.por = true ∧ t.rd LSC_ROLE_STATE_A = roleOff ∧ t.rd LSC_ROLE_STATE_B = roleOff ∧ t.rtc = { s.rtc with bkpDue := false, cycle := none })) ∧
  (∀ s : State, s.sys.por = false → s.ksu.commit = none → Answers .pinReset s (fun t =>
    ResetLeaves false [SYS_RESET_CAUSE_PIN] s t ∧ t.sys.rstLow = true ∧ t.rd LSC_ROLE_STATE_A = roleOff ∧ t.rd LSC_ROLE_STATE_B = roleOff ∧ t.rtc = { s.rtc with cycle := none })) ∧
  (∀ (s : State) (l : Lane), s.serves l → s.ksu.commit = none → s.sys.rstLow = false → s.sys.extest = false → Answers (.sysrst l 0xC1A5#16 true) s (fun t =>
    ResetLeaves false [SYS_RESET_CAUSE_SOFT] s t ∧ t.rd LSC_ROLE_STATE_A = roleBoot ∧ t.rd LSC_ROLE_STATE_B = roleBoot ∧
    t.laneA.refilling = true ∧ t.laneB.refilling = true ∧ t.rtc = { s.rtc with cycle := none })) ∧
  (∀ (s : State) (l : Lane) (key : BitVec 16) (b : Bool), s.serves l → key ≠ 0xC1A5#16 ∨ b = false → exec (.sysrst l key b) s = .next s) ∧
  (∀ s : State, s.lanesRun = true → s.lsc.noLane = true → s.ksu.commit = none → s.sys.rstLow = false → s.sys.extest = false → Answers .nolaneReset s (fun t =>
    ResetLeaves false [SYS_RESET_CAUSE_NOLANE] s t ∧ t.rd LSC_ROLE_STATE_A = roleBoot ∧ t.rd LSC_ROLE_STATE_B = roleBoot ∧
    t.laneA.refilling = true ∧ t.laneB.refilling = true ∧ t.rtc = { s.rtc with cycle := none }))

/-- R404, R417, R421, R424: a power-on reset ends with both lanes in BOOT and refilled, the SF1 paths running, and the cold-start BIST of each lane recorded with its BLOCK; TEST_N low holds
it; and the release of RST_N ends a pin reset.
A command whose condition does not hold does nothing: the model's choice, notes/assumptions/11. -/
def Obligations.ResetsEnd : Prop :=
  (∀ (s : State) (a b : BistResult), s.sys.por = true → s.sys.extest = false → Answers (.powerOnResetEnd a b false) s (fun t =>
    t.sys.por = false ∧ t.rd LSC_ROLE_STATE_A = roleBoot ∧ t.rd LSC_ROLE_STATE_B = roleBoot ∧ t.laneA.refilling = true ∧ t.laneB.refilling = true ∧
    t.mtr.sf1RunA = true ∧ t.mtr.sf1RunB = true ∧ t.rd SAF_BIST_RES_A = bistCode a ∧ t.rd SAF_BIST_RES_B = bistCode b ∧
    t.rd SAF_BIST_BLOCK_A = b2n (bistCode a != 1) ∧ t.rd SAF_BIST_BLOCK_B = b2n (bistCode b != 1))) ∧
  (∀ (s : State) (a b : BistResult), exec (.powerOnResetEnd a b true) s = .next s) ∧
  (∀ s : State, s.sys.rstLow = true → s.sys.extest = false → s.sys.heldOff = none → Answers .pinResetRelease s (fun t =>
    t.sys.rstLow = false ∧ t.rd LSC_ROLE_STATE_A = roleBoot ∧ t.rd LSC_ROLE_STATE_B = roleBoot ∧ t.laneA.refilling = true ∧ t.laneB.refilling = true))

/-- R30, R31, R88, R356: the reset of a lane that has been taken out, the end of its refill and the load of its image; none of them changes the other lane. -/
def Obligations.LaneStartsAgain : Prop :=
  (∀ (s : State) (l : Lane), s.lanesRun = true → (s.lane l).leaving = true → Answers (.laneReset l) s (fun t =>
    t.rd (roleField l) = roleOut ∧ (t.lane l).refilling = true ∧ (t.lane l).sram = [] ∧ (t.lane l).det = false ∧ (t.lane l).leaving = false ∧
    t.rd (match l with | .A => SYS_RESET_CAUSE_LANEA | .B => SYS_RESET_CAUSE_LANEB) = 1 ∧ t.rd (SYS_IRQ_EN_EN l) = 0 ∧ t.lane l.other = s.lane l.other)) ∧
  (∀ (s : State) (l : Lane), s.lanesRun = true → (s.lane l).refilling = true → Answers (.sramRefillComplete l) s (fun t =>
    (t.lane l).refilling = false ∧ (s.rd (roleField l) = roleOut → t.rd (roleField l) = roleBoot) ∧ t.lane l.other = s.lane l.other)) ∧
  (∀ (s u : State) (l : Lane) (body : Octets), s.lanesRun = true → s.role l = roleBoot → (s.lane l).refilling = false → (s.lane l).loaded = false → s.blocked l = false →
    s.lsc.coldStart = false → s.upState = upIdle → (s.acceptable s.codeStore ctxBoot).2 = true → containerKind s.codeStore = 1 →
    (s.acceptable s.codeStore ctxBoot).1.bodyOf s.codeStore ctxBoot = (u, some body) → Answers (.laneBootLoad l) s (fun t =>
      (t.lane l).loaded = true ∧ (t.lane l).det = false ∧ (t.lane l).sram = memWrite (u.lane l).sram (leAt s.codeStore 24 4) body ∧ t.lane l.other = u.lane l.other))

/-- R354: the cold start. Where no copy of the boot header is usable NOHDR is set; where one is and the update record asks nothing, the accepted CFG is performed and the accepted container
of the code store stands in each lane that BLOCK does not hold, with LANEDATA over it. -/
def Obligations.ColdStart : Prop :=
  (∀ s : State, s.bootReady = true → s.chooseHeader = none → Answers .coldStartBoot s (fun t => t.rd RLD_STATUS_NOHDR = 1 ∧ t.rld.booted = true)) ∧
  (∀ (s u v w : State) (h : BootHeader) (x : CfgBody) (body : Octets), s.bootReady = true → s.chooseHeader = some h → s.lcState ≠ lcRetired →
    State.bootRecover (State.readRecord { s with acmSize := h.acmSize, rld := { s.rld with booted := true, header := some h } }) = (u, true) →
    u.cfgBody = (v, some x) → (v.applyCfg x).bootStore = (w, true) → (w.bodyOf w.codeStore ctxBoot).2 = some body → Answers .coldStartBoot s (fun t =>
      ∀ l : Lane, (w.bodyOf w.codeStore ctxBoot).1.blocked l = false → (t.lane l).loaded = true ∧ (t.lane l).det = false ∧
        (t.lane l).sram = (x.data.foldl (fun (m : List Host.Cell) d => memWrite m d.1 d.2)
          (memWrite ((w.bodyOf w.codeStore ctxBoot).1.lane l).sram (leAt w.codeStore 24 4) body))))

/-- R28: a write of 1 starts a function that is OFF, a write of 0 begins the shut-down of one that is RUNNING or STARTING, a function in STARTING becomes RUNNING, and a shut-down that can
complete ends with the function OFF, or STARTING again where its enable has been written 1 meanwhile. The backhaul ports become RUNNING by their link (R223) and metering at a Crease
boundary (R279). -/
def Obligations.FunctionsStartAndStop : Prop :=
  (∀ (s : State) (l : Lane) (f : Func), s.serves l → s.rd (runstField f) = 0 → Startable s f → Answers (.functionEnable l f) s (fun t =>
    t.rd (enField f) = 1 ∧ t.rd (runstField f) = 3)) ∧
  (∀ (s : State) (l : Lane) (f : Func), s.serves l → s.rd (runstField f) = 1 ∨ s.rd (runstField f) = 3 → Answers (.functionDisable l f) s (fun t =>
    t.rd (enField f) = 0 ∧ t.rd (runstField f) = 2)) ∧
  (∀ (s : State) (f : Func), s.up = true → s.rd (runstField f) = 3 → f ≠ .port0 → f ≠ .port1 → f ≠ .meter → Answers (.functionRunning f) s (fun t => t.rd (runstField f) = 1)) ∧
  (∀ (s : State) (f : Func), s.up = true → s.rd (runstField f) = 2 → s.funcEmpty f = true → s.rd (enField f) = 0 → Answers (.shutdownComplete f) s (fun t => t.rd (runstField f) = 0)) ∧
  (∀ (s : State) (f : Func), s.up = true → s.rd (runstField f) = 2 → s.funcEmpty f = true → s.rd (enField f) = 1 → Startable s f → Answers (.shutdownComplete f) s (fun t =>
    t.rd (enField f) = 1 ∧ t.rd (runstField f) = 3))

/-- R297, R399, R400, R417, R424: VIN falls and the power-on reset is asserted, PST keeping what reached its cells; the reference stops and with it SF1 path B, path A running on; EXTEST
holds a pin reset and leaving it releases the lanes; and the OTP entry of a transition is programmed and the module resets as for SYS_RESET_CTRL once no crypto job is in progress (R327). -/
def Obligations.SupplyAndTap : Prop :=
  (∀ s : State, Answers (.vinCollapse 0) s (fun t => t.sys.por = true ∧ t.up = false ∧ t.pst = ⟨s.pst.cells, [], 0⟩ ∧ t.otp = s.otp ∧ t.rtc = { s.rtc with cycle := none } ∧ t.laneA.sram = [] ∧ t.laneB.sram = [])) ∧
  (∀ (s : State) (n : Nat), Answers (.vinCollapse n) s (fun t => t.sys.por = true ∧ t.pst.buffer = [] ∧ t.pst.cells = ((List.range n).foldl (fun (u : State) _ => u.pstStep) s).pst.cells)) ∧
  (∀ s : State, Answers .referenceOscillatorStop s (fun t => t.sys.oscStop = true ∧ t.up = false ∧ t.mtr.sf1RunB = false ∧ t.mtr.sf1RunA = s.mtr.sf1RunA ∧ t.rtc = { s.rtc with cycle := none } ∧ t.regs = s.regs)) ∧
  (∀ s : State, s.sys.por = false → s.sys.extest = false → s.ksu.commit = none → Answers (.tapInstructionUpdate .extest) s (fun t => t.sys.tap = .extest ∧ t.sys.extest = true ∧
    t.rd LSC_ROLE_STATE_A = roleOff ∧ t.rd LSC_ROLE_STATE_B = roleOff ∧ t.rtc = { s.rtc with cycle := none } ∧ t.pst = ⟨s.pst.cells, [], 0⟩)) ∧
  (∀ (s : State) (i : TapInstr), s.sys.por = false → s.sys.extest = true → s.sys.rstLow = false → s.sys.heldOff = none → i ≠ .extest → Answers (.tapInstructionUpdate i) s (fun t =>
    t.sys.tap = i ∧ t.sys.extest = false ∧ t.rd SYS_RESET_CAUSE_PIN = 1 ∧ t.rd LSC_ROLE_STATE_A = roleBoot ∧ t.rd LSC_ROLE_STATE_B = roleBoot)) ∧
  (∀ (s : State) (i : TapInstr), s.sys.extest = false → i ≠ .extest → exec (.tapInstructionUpdate i) s = .next { s with sys := { s.sys with tap := i } }) ∧
  (∀ (s : State) (target : Nat), s.ksu.commit = some target → s.cry = [] → s.sys.rstLow = false → s.sys.extest = false → s.sys.por = false → s.sys.heldOff = none →
    Answers .otpEntryProgrammed s (fun t => t.otp = { s.otp with log := kvSet s.otp.log s.epoch (lcCode target) } ∧ t.ksu.commit = none ∧ t.rd SYS_RESET_CAUSE_SOFT = 1 ∧
      t.rd LSC_ROLE_STATE_A = roleBoot ∧ t.rd LSC_ROLE_STATE_B = roleBoot)) ∧
  (∀ (s : State) (j : CryJob) (js : List CryJob), s.cry = j :: js → exec .otpEntryProgrammed s = .next s)
/-! ### The Time Base -/

/-- R35, R41, R52, R54: `n` TB_CLK cycles advance the counter by INC_NOW each, the increment without slew held within the range of R36 and the slew within ±LIM a cycle, what is slewed leaves S, and
the cycles are counted for the snapshot boundary, the Sync timeout and the end of HOLDOVER. -/
def Obligations.CounterTicks : Prop :=
  ∀ (s : State) (n : Nat), s.up = true → 0 < n → Answers (.tbCounterTick n) s (fun t =>
    t.tb.now = timeOfUnits ((unitsOf s.tb.now : Int) + clampInc ((s.incBase : Int) + s.rdI TB_INTEG_I) * n +
      clampI (-((n * s.rd TB_SLEW_LIM_LIM : Nat) : Int)) ((n * s.rd TB_SLEW_LIM_LIM : Nat) : Int) s.tb.slew).toNat ∧
    t.tb.slew = s.tb.slew - clampI (-((n * s.rd TB_SLEW_LIM_LIM : Nat) : Int)) ((n * s.rd TB_SLEW_LIM_LIM : Nat) : Int) s.tb.slew ∧
    t.tb.phase = s.tb.phase + n ∧ t.tb.quiet = s.tb.quiet + n ∧ t.tb.hold = s.tb.hold + n ∧ t.cycles = s.cycles + n ∧ t.tb.step = s.tb.step ∧
    (clampInc ((s.incBase : Int) + s.rdI TB_INTEG_I) ≠ (s.incBase : Int) + s.rdI TB_INTEG_I → t.rd TB_STATUS_INCCLAMP = 1))

/-- R37, R41, R53: at a snapshot boundary a step requested in an earlier cycle takes effect: a load replaces the counter and leaves the state, a servo step adds its amount and takes the state to
ACQUIRING, and each sets STEPPED. With no step, or one requested in this cycle, the counter stands. -/
def Obligations.StepsAtBoundaries : Prop :=
  ∀ s : State, s.up = true → 1024 ≤ s.tb.phase →
    (∀ v : Time, s.tb.step = some (.load v) → s.tb.fresh = false → Answers .snapshotBoundary s (fun t =>
      t.tb.now = v ∧ t.tb.step = none ∧ t.tb.phase = s.tb.phase % 1024 ∧ t.rd TB_STATUS_STEPPED = 1 ∧ t.rd TB_STATUS_STATE = s.rd TB_STATUS_STATE)) ∧
    (∀ d : Int, s.tb.step = some (.add d) → s.tb.fresh = false → s.rd TB_CTRL_SERVO_EN ≠ 0 → Answers .snapshotBoundary s (fun t =>
      t.tb.now = timeOfUnits (((unitsOf s.tb.now : Int) + d * 65536) % ((2 : Int) ^ 64 * 1000000000 * 2 ^ 32)).toNat ∧ t.tb.step = none ∧
      t.tb.phase = s.tb.phase % 1024 ∧ t.rd TB_STATUS_STEPPED = 1 ∧ t.rd TB_STATUS_STATE = tbAcquiring)) ∧
    (s.tb.step = none ∨ s.tb.fresh = true → exec .snapshotBoundary s = .next { s with tb := { s.tb with phase := s.tb.phase % 1024 } })

/-- R37, R53: the store to the highest word of TB_SET requests a step to the value staged below it, unless SERVO_EN is 1 or NS exceeds 999,999,999, which sets SETREJ; and SERVO_EN written 0 takes the
state to FREERUN with S cleared, the counter and I kept. -/
def Obligations.TimeIsSet : Prop :=
  ∀ (s : State) (l : Lane), s.serves l →
    (∀ (v : Word) (w0 w1 w2 : Nat), kvFind (s.lane l).staging 0x40010020 = some w0 → kvFind (s.lane l).staging 0x40010024 = some w1 → kvFind (s.lane l).staging 0x40010028 = some w2 →
      w0 < 2 ^ 32 → w1 < 2 ^ 32 → w2 < 2 ^ 32 →
      (s.rd TB_CTRL_SERVO_EN = 0 → w1 % 2 ^ 30 ≤ 999999999 → Answers (.tbSet l v) s (fun t =>
        t.tb = { s.tb with step := some (.load ⟨w2 + v.toNat * 2 ^ 32, w1 % 2 ^ 30, w0⟩), fresh := true } ∧ t.rd TB_STATUS_SETREJ = s.rd TB_STATUS_SETREJ)) ∧
      (s.rd TB_CTRL_SERVO_EN ≠ 0 ∨ 999999999 < w1 % 2 ^ 30 → Answers (.tbSet l v) s (fun t => t.tb = s.tb ∧ t.rd TB_STATUS_SETREJ = 1))) ∧
    Answers (.servoDisable l) s (fun t => t.rd TB_CTRL_SERVO_EN = 0 ∧ t.rd TB_STATUS_STATE = tbFreerun ∧ t.tb.slew = 0 ∧ t.tb.now = s.tb.now ∧
      t.rd TB_INTEG_I = s.rd TB_INTEG_I ∧ t.rd TB_CTRL_STEP_EN = s.rd TB_CTRL_STEP_EN)

/-- R26, R48, R53, R54: the Follow_Up wait that runs out discards its sample and counts it; a Sync timeout takes LOCKED to HOLDOVER and ACQUIRING to FREERUN with SYNCLOSS; and HOLDOVER ends in FREERUN
after HOLD_MAX seconds of elapsed time. Each leaves network time as it is. The Sync timeout acts once the cycle in which it expires is over, and not while a two-step Sync of that cycle awaits its
Follow_Up, since an event stamped in that cycle is accepted; before, it does nothing. -/
def Obligations.TimeoutsOfTheTimeBase : Prop :=
  ∀ s : State, s.up = true →
    (∀ f : TwoStep, s.tb.follow = some f → s.syncCycles < f.waited → Answers .followUpTimeout s (fun t =>
      t.tb = { s.tb with follow := none } ∧ t.rd TB_STATUS_FUMISS = 1 ∧ t.rd TB_ERR_CNT_FUMISS_CNT = min (2 ^ TB_ERR_CNT_FUMISS_CNT.width - 1) (s.rd TB_ERR_CNT_FUMISS_CNT + 1))) ∧
    (s.rd TB_CTRL_SERVO_EN ≠ 0 → max 1 (s.rd TB_SYNC_CFG_TOUT_N) * s.syncCycles < s.tb.quiet →
      (∀ f : TwoStep, s.tb.follow = some f → f.waited + max 1 (s.rd TB_SYNC_CFG_TOUT_N) * s.syncCycles ≠ s.tb.quiet) →
      (s.rd TB_STATUS_STATE = tbLocked → Answers .syncTimeout s (fun t =>
        t.rd TB_STATUS_STATE = tbHoldover ∧ t.rd TB_STATUS_SYNCLOSS = 1 ∧ t.rd TB_STATUS_STCHG = 1 ∧ t.tb.hold = 0 ∧ t.tb.now = s.tb.now)) ∧
      (s.rd TB_STATUS_STATE = tbAcquiring → Answers .syncTimeout s (fun t =>
        t.rd TB_STATUS_STATE = tbFreerun ∧ t.rd TB_STATUS_SYNCLOSS = 1 ∧ t.rd TB_STATUS_STCHG = 1 ∧ t.tb.now = s.tb.now))) ∧
    (s.tb.quiet ≤ max 1 (s.rd TB_SYNC_CFG_TOUT_N) * s.syncCycles → exec .syncTimeout s = .next s) ∧
    (s.rd TB_STATUS_STATE = tbHoldover → s.rd TB_SYNC_CFG_HOLD_MAX * 250000000 ≤ s.tb.hold → Answers .holdoverExpiry s (fun t =>
      t.rd TB_STATUS_STATE = tbFreerun ∧ t.rd TB_STATUS_STCHG = 1 ∧ t.rd TB_INTEG_I = s.rd TB_INTEG_I ∧ t.tb.now = s.tb.now))

/-! ### The Crease Sequencer -/

/-- R73, R71, R78: at the closure that is due, with no lane lagging, Crease k is sealed: its digest is that of the previous digest (32 zero octets for the first batch), its header and its slots in
delivery order; CRZ_DIGEST and CRZ_SEAL_IDX hold it; the next Crease becomes the oldest; and the batch waits for the lanes in service. -/
def Obligations.CreaseIsSealed : Prop :=
  ∀ (s : State) (bad : Bool), s.up = true → s.closureDue = true → s.lagging .A = false → s.lagging .B = false → Answers (.creaseClosure bad) s (fun t =>
    t.rd CRZ_DIGEST_DIGEST = leVal (sha256 ((if s.crz.first then zeros 32 else s.crz.dPrev) ++ batchHeader s s.nextSeal bad ++ slotOctets (batchEvents s s.nextSeal bad))) % 2 ^ 256 ∧
    t.crz.dPrev = sha256 ((if s.crz.first then zeros 32 else s.crz.dPrev) ++ batchHeader s s.nextSeal bad ++ slotOctets (batchEvents s s.nextSeal bad)) ∧
    t.rd CRZ_SEAL_IDX_IDX = s.nextSeal % 2 ^ 64 ∧ t.crz.lastSealed = some s.nextSeal ∧ t.crz.oldest = s.nextSeal + 1 ∧ t.crz.first = false ∧
    t.crz.sealed = if s.inService .A || s.inService .B then s.crz.sealed ++ [sealBatchOf s s.nextSeal bad] else s.crz.sealed)

/-- R65, R68, R70: the events of a batch are the on-time ones and then the LATE ones, each group in strict order of the order key; no two of the batch have one key; each is an event of those
given; and of the events given that share a key the batch holds one whose octets from offset 14 are the lowest. -/
def Obligations.SealedGroupsAreSorted : Prop :=
  ∀ es : List Event, sealGroup es = (sealGroup es).filter (fun e => !e.late) ++ (sealGroup es).filter (·.late) ∧
    ((sealGroup es).filter (fun e => !e.late)).Pairwise (fun a b => keyLt a.key b.key = true) ∧ ((sealGroup es).filter (·.late)).Pairwise (fun a b => keyLt a.key b.key = true) ∧
    (sealGroup es).Pairwise (fun a b => a.key ≠ b.key) ∧ (∀ e ∈ sealGroup es, e ∈ es) ∧ (∀ e ∈ es, ∃ f ∈ sealGroup es, f.key = e.key ∧ octLt e.tail f.tail = false)

/-- R67, R69, R76: the intake registers the oldest event that waits on a channel when the pool holds it; where the pool does not, the intake stalls with the event kept; it resumes when the event
fits, registering it; and a status event of the Time Base that the pool cannot take at once leaves its queue for the status buffer of 16 events, or is discarded with TBDROP. -/
def Obligations.EventsAreRegistered : Prop :=
  (∀ (s : State) (chan : Fin 128) (w : Waiting) (rest : List Waiting), s.up = true → s.crzOn = true → s.crz.rest = false → chan.val ≠ 64 → s.crz.stalled = none →
    takeFirst (fun x => x.ev.chan == chan.val) s.waiting = some (w, rest) →
      (s.poolFits w.ev = true → Answers (.eventRegister chan) s (fun t => t.waiting = rest ∧ Registered s t w.ev)) ∧
      (s.poolFits w.ev = false → Answers (.eventRegister chan) s (fun t => t.waiting = s.waiting ∧ t.crz.stalled = some (w.ev.slots, s.now) ∧ t.rd CRZ_STATUS_STALL = 1))) ∧
  (∀ (s : State) (w : Waiting) (rest : List Waiting), s.up = true → s.crzOn = true → s.crz.rest = false → takeFirst (fun x => x.ev.chan == 64) s.waiting = some (w, rest) →
      (s.crz.tbBuf = [] → s.poolFits w.ev = true → Answers (.eventRegister 64) s (fun t => t.waiting = rest ∧ Registered s t w.ev)) ∧
      (s.crz.tbBuf ≠ [] ∨ s.poolFits w.ev = false → s.crz.tbBuf.length < 16 → Answers (.eventRegister 64) s (fun t => t.waiting = rest ∧ t.crz = { s.crz with tbBuf := s.crz.tbBuf ++ [w.ev] })) ∧
      (16 ≤ s.crz.tbBuf.length → Answers (.eventRegister 64) s (fun t => t.waiting = rest ∧ t.crz = s.crz ∧ t.rd CRZ_STATUS_TBDROP = 1))) ∧
  (∀ (s : State) (w : Waiting) (rest : List Waiting) (need since : Nat), s.up = true → s.crzOn = true → s.crz.rest = false → s.crz.stallChan ≠ 64 → s.crz.stalled = some (need, since) →
    s.poolUsed + need ≤ 32768 → takeFirst (fun x => x.ev.chan == s.crz.stallChan) s.waiting = some (w, rest) → s.poolFits w.ev = true →
      Answers .intakeResume s (fun t => t.waiting = rest ∧ t.crz.stalled = none ∧ Registered s t w.ev))

/-- R74, R75, R119, R153: a batch that fits, with its lane's Felter and Escort entries free, is written into the lane's event queue from EQ_WR, which advances by its slots; a batch that does not fit
waits with QWAIT, and one for which an entry is not free with that unit's WAIT; and a batch whose digest differs is delivered, sets DIGERR of its lane and takes the lane out. -/
def Obligations.BatchesAreDelivered : Prop :=
  (∀ (s : State) (l : Lane) (b : Batch), s.up = true → s.waitingBatch l = some b → s.deliveryHeld l = false → s.eqUsed l + 2 + slotsOf b.events + 1 ≤ s.eqSize →
    s.felterFree l b.k = true → s.escortFree l b.k = true → Answers (.batchDelivery l false) s (fun t =>
      t.rd (CRZ_EQ_WR_WR l) = (s.rd (CRZ_EQ_WR_WR l) + (2 + slotsOf b.events)) % s.eqSize % 2 ^ (CRZ_EQ_WR_WR l).width ∧
      (t.lane l).sram = putSlots s (s.lane l).sram (s.rd (CRZ_EQ_WR_WR l)) (2 + slotsOf b.events) (b.header ++ slotOctets b.events) ∧
      (∀ c ∈ t.crz.sealed, c.k = b.k → c.waits l = false) ∧ (t.lane l.other).sram = (s.lane l.other).sram)) ∧
  (∀ (s : State) (l : Lane) (b : Batch) (bad : Bool), s.up = true → s.waitingBatch l = some b → s.deliveryHeld l = false → s.eqSize < s.eqUsed l + 2 + slotsOf b.events + 1 →
    Answers (.batchDelivery l bad) s (fun t => t.rd (qwaitFlag l) = 1 ∧ t.crz = s.crz ∧ ∀ m, (t.lane m).sram = (s.lane m).sram)) ∧
  (∀ (s : State) (l : Lane) (b : Batch) (bad : Bool), s.up = true → s.waitingBatch l = some b → s.deliveryHeld l = false →
    (s.felterFree l b.k = false → Answers (.batchDelivery l bad) s (fun t => t.rd (felterWait l) = 1 ∧ t.crz = s.crz ∧ ∀ m, (t.lane m).sram = (s.lane m).sram)) ∧
    (s.escortFree l b.k = false → Answers (.batchDelivery l bad) s (fun t => t.rd (escortWait l) = 1 ∧ t.crz = s.crz ∧ ∀ m, (t.lane m).sram = (s.lane m).sram))) ∧
  (∀ (s : State) (l : Lane) (b : Batch), s.up = true → s.waitingBatch l = some b → s.deliveryHeld l = false → s.eqUsed l + 2 + slotsOf b.events + 1 ≤ s.eqSize →
    s.felterFree l b.k = true → s.escortFree l b.k = true → s.inService l = true → s.rd (CRZ_EQ_WR_WR l) < s.eqSize → Answers (.batchDelivery l true) s (fun t =>
      t.rd (digerrFlag l) = 1 ∧ (t.lane l).leaving = true ∧ t.rd (causeField l) = causeDelivDig))

/-- R78, R80, R99, R135: CRZ_CTRL.EN written 1 starts the Sequencer at the Crease after the present one with FIRST due, empties the launch queue, and at a cold start makes the lanes ACTIVE and
SHADOW; written 0 it discards the bins and the batches; and a write of CRZ_INJ_CMD with a channel of 96 to 127 registers an event of that channel, KIND and payload stamped now, or has it wait behind an event of its channel or at a stall, another
channel setting INJREJ. -/
def Obligations.SequencerCommands : Prop :=
  ∀ (s : State) (l : Lane), s.serves l →
    (s.crzOn = false → Answers (.crzEnable l) s (fun t => t.rd CRZ_CTRL_EN = 1 ∧ t.crz.oldest = s.now / s.P + 1 ∧ t.crz.first = true ∧ t.crz.sealed = [] ∧
      t.lnu.queue = [] ∧ t.rd LNU_QSTAT_PEAK = 0 ∧
      (s.lsc.coldStart = true → s.role s.coldLane = roleBoot → s.blocked s.coldLane = false → (s.lane s.coldLane).leaving = false →
        t.rd (roleField s.coldLane) = roleActive ∧ t.lsc.coldStart = false ∧
        (s.role s.coldLane.other = roleBoot → s.blocked s.coldLane.other = false → t.rd (roleField s.coldLane.other) = roleShadow)))) ∧
    (s.crzOn = true → Answers (.crzDisable l) s (fun t => t.rd CRZ_CTRL_EN = 0 ∧ t.crz.bins = [] ∧ t.crz.late = [] ∧ t.crz.sealed = [] ∧
      ∀ m, t.rd (CRZ_EQ_RD_RD m) = s.rd (CRZ_EQ_RD_RD m) ∧ t.rd (CRZ_EQ_WR_WR m) = s.rd (CRZ_EQ_WR_WR m))) ∧
    (∀ (chan : BitVec 7) (kind : Byte), chan.toNat < 96 → exec (.injectEvent l chan kind) s = .next (s.wr CRZ_STATUS_INJREJ 1)) ∧
    (∀ (chan : BitVec 7) (kind : Byte), 96 ≤ chan.toNat → s.crz.rest = false →
      s.crzOn = false ∨ s.crz.stalled.isSome = true ∨ (∃ w ∈ s.waiting, w.ev.chan = chan.toNat) → Answers (.injectEvent l chan kind) s (fun t =>
        t.waiting = s.waiting ++ [Waiting.mk (s.event chan.toNat 0 kind.toNat (le 16 (s.rd CRZ_INJ_PAY_PAYLOAD)) s.tb.now) none 0] ∧ t.crz = s.crz)) ∧
    (∀ (chan : BitVec 7) (kind : Byte), 96 ≤ chan.toNat → s.crzOn = true → s.crz.rest = false → s.crz.stalled = none → (∀ w ∈ s.waiting, w.ev.chan ≠ chan.toNat) →
      s.poolFits (s.event chan.toNat 0 kind.toNat (le 16 (s.rd CRZ_INJ_PAY_PAYLOAD)) s.tb.now) = true → Answers (.injectEvent l chan kind) s (fun t =>
        Registered s t (s.event chan.toNat 0 kind.toNat (le 16 (s.rd CRZ_INJ_PAY_PAYLOAD)) s.tb.now) ∧ t.waiting = s.waiting))
/-! ### The lanes and the Lane Supervisor -/

/-- R23, R24, R89, R90: a write of mlanectx sets DET, and from U mode it is an illegal instruction; in deterministic context the fence refuses a load of an ND field, a store to CRZ_INJ_CMD or
LSC_CMD and the named CSRs, and in both contexts the time CSR; in service context the rest is no violation. A lane takes the external interrupt in service context alone, and batch ready and its lane fault
in both.
A command whose condition does not hold does nothing: the model's choice, notes/assumptions/11. A trap takes the lane to M mode: its choice, notes/assumptions/13. -/
def Obligations.LaneContexts : Prop :=
  ∀ (s : State) (l : Lane), s.laneRuns l = true →
    (∀ det : Bool, exec (.mlanectxWrite l det false) s = .next (s.onLane l (fun x => { x with det := det })) ∧
      exec (.mlanectxWrite l det true) s = .next (s.trapLane l .illegalInstruction)) ∧
    (∀ a : Word, isNd l a.toNat = true → exec (.fenceViolation l (.load a)) s = .next (if (s.lane l).det then s.trapLane l .loadFault else s)) ∧
    (∀ a : Word, a = 0x40020060#32 ∨ a = 0x40030018#32 → exec (.fenceViolation l (.store a)) s = .next (if (s.lane l).det then s.trapLane l .storeFault else s)) ∧
    exec (.fenceViolation l .csr) s = .next (if (s.lane l).det then s.trapLane l .illegalInstruction else s) ∧
    exec (.fenceViolation l .timeCsr) s = .next (s.trapLane l .illegalInstruction) ∧
    ((s.lane l).det = true → exec (.interruptEntry l .external) s = .next s) ∧
    ((s.lane l).det = false → s.meip l = true → exec (.interruptEntry l .external) s = .next (s.trapLane l (.interrupt .external))) ∧
    (s.rd (CRZ_EQ_RD_RD l) ≠ s.rd (CRZ_EQ_WR_WR l) → exec (.interruptEntry l .batchReady) s = .next (s.trapLane l (.interrupt .batchReady))) ∧
    ((s.lane l).mip17 = true → exec (.interruptEntry l .laneFault) s = .next (s.trapLane l (.interrupt .laneFault)))

/-- R93, R94, R95: a store in deterministic context to the register space or the PST window is a record at the end of the lane's commit buffer and is not performed; record 32,769 is not recorded, faults
and sets CBOVF; and a store of 1 to LSC_SEAL closes the lane's SRAM and begins the digest of the batch at its read index, while from service context it faults. -/
def Obligations.CommitRecordsAreKept : Prop :=
  ∀ (s : State) (l : Lane), s.laneRuns l = true →
    (∀ a v : Word, (s.lane l).det = true → a.toNat % 4 = 0 →
      (0x40000000 ≤ a.toNat ∧ a.toNat < 0x40160000 ∧ a ≠ 0x40030100#32 ∧ a ≠ 0x40020060#32 ∧ a ≠ 0x40030018#32) ∨ (0x20000000 ≤ a.toNat ∧ a.toNat < 0x21000000) →
        ((s.lane l).fill.length < 32768 → Answers (.commitRecordStore l a v) s (fun t =>
          (t.lane l).fill = (s.lane l).fill ++ [(a.toNat, v.toNat)] ∧ t.rd (LSC_CB_USED l) = (s.lane l).fill.length + 1 ∧
          t.pst = s.pst ∧ t.lane l.other = s.lane l.other ∧ ∀ f : Field, f.block ≠ Block.lsc.number → t.rd f = s.rd f)) ∧
        (32768 ≤ (s.lane l).fill.length → Answers (.commitRecordStore l a v) s (fun t =>
          (t.lane l).fill = (s.lane l).fill ∧ (t.lane l).trap = some .storeFault ∧ t.rd LSC_STATUS_CBOVF = 1))) ∧
    (∀ (v : Word) (k : Nat), v.toNat % 2 = 1 → (s.lane l).det = true → (s.lane l).sealing = none → s.frontIndex l = some k →
      exec (.lscSeal l v) s = .next (s.onLane l (fun x => { x with closed := true, sealing := some k }))) ∧
    (∀ v : Word, (s.lane l).det = false → exec (.lscSeal l v) s = .next (s.trapLane l .storeFault))

/-- R86, R94, R95, R96: a seal completes with the state digest of the Crease in the lane's digest registers: the SHA-256 of the index, of the SHA-256 of the commit records, of the region table and of the declared
regions. The commit buffer that filled is empty again, the correctable errors that LSC met in the lane's SRAM are counted, and but for the last Crease before Day Rest the read index moves past
the batch. While the other buffer is held the seal stalls. -/
def Obligations.SealsComplete : Prop :=
  ∀ (s : State) (l : Lane) (k corrected : Nat), s.lanesRun = true → (s.lane l).sealing = some k →
    ((s.lane l).sealedBuf = none → Answers (.sealComplete l corrected) s (fun t =>
      t.rd (digestField l) = leVal (sha256 (le 8 k ++ sha256 (((s.lane l).fill.map (fun r => le 4 r.1 ++ le 4 r.2)).flatten) ++ s.tableOctets l ++ s.regionOctets l)) % 2 ^ 256 ∧
      t.rd (digestIndex l) = k % 2 ^ 64 ∧ (t.lane l).fill = [] ∧ (t.lane l).sealing = none ∧ t.rd (LSC_CE_CNT_COUNT l) = (s.rd (LSC_CE_CNT_COUNT l) + corrected) % 2 ^ (LSC_CE_CNT_COUNT l).width ∧
      (s.crz.rest = false → ∀ h : Octets, s.frontHeader l = some h →
        t.rd (CRZ_EQ_RD_RD l) = (s.rd (CRZ_EQ_RD_RD l) + 2 + leAt h 8 4) % s.eqSize % 2 ^ (CRZ_EQ_RD_RD l).width))) ∧
    ((s.lane l).sealedBuf.isSome = true → Answers (.sealComplete l corrected) s (fun t => t.laneA = s.laneA ∧ t.laneB = s.laneB ∧ t.rd (CRZ_EQ_RD_RD l) = s.rd (CRZ_EQ_RD_RD l)))

/-- R88, R101, R106: a lane fault takes the lane out with the CAUSE of its kind and sets OUT; of an Active lane the Shadow becomes ACTIVE with TAKEOVER, and with no other lane in service NOLANE is set and its
reset is due. A lane that is out, off or in BIST is not taken out. -/
def Obligations.LaneFaultsTakeOut : Prop :=
  ∀ (s : State) (l : Lane) (kind : LaneFaultKind), s.lanesRun = true →
    (s.role l ≠ roleOut ∧ s.role l ≠ roleOff ∧ s.role l ≠ roleBist → Answers (.laneFault l kind) s (fun t =>
      (t.lane l).leaving = true ∧ t.role l = roleOut ∧ t.rd (causeField l) = faultCause kind ∧ t.rd (outFlag l) = 1 ∧ (t.lane l).fill = [] ∧
      (s.role l = roleActive → s.role l.other = roleShadow → t.rd (roleField l.other) = roleActive ∧ t.rd LSC_STATUS_TAKEOVER = 1) ∧
      (s.role l = roleActive → s.role l.other ≠ roleShadow → t.rd LSC_STATUS_NOLANE = 1 ∧ t.lsc.noLane = true))) ∧
    (s.role l = roleOut ∨ s.role l = roleOff ∨ s.role l = roleBist → kind = .lockstep → s.rd BHM0_DR_STAT_STATE ≠ 1 → Answers (.laneFault l kind) s (fun t =>
      t.rd (causeField l) = s.rd (causeField l) ∧ t.rd (outFlag l) = s.rd (outFlag l) ∧ ∀ m, t.lane m = s.lane m))

/-- R97: CMP_WAIT sets CMPTMO and lets the drain start; the records of the lowest Crease that waits are performed; and a drain that completes releases its buffer. -/
def Obligations.DrainsRun : Prop :=
  (∀ (s : State) (a : Lane) (k : Nat) (b : Bool), s.lanesRun = true → s.activeLane = some a → (s.lane a).formed = some (k, b) → s.lsc.nextDrain ≤ k → s.lsc.cmpExpired ≠ some k →
    s.lsc.formedAt + s.cmpWait ≤ s.elapsed → s.digestAwaited k a.other = true → exec .cmpWaitExpiry s = .next { s.wr LSC_STATUS_CMPTMO 1 with lsc := { s.lsc with cmpExpired := some k } }) ∧
  (∀ (s : State) (l : Lane) (b : SealedBuf) (m : DrainMeet), s.up = true → s.lsc.drain = none → s.drainLane = some (l, b) → s.drainMay l b.k = true →
    (∀ r ∈ b.records, 0x20000000 ≤ r.1 ∧ r.1 < 0x21000000) → Answers (.commitDrain m) s (fun t =>
      t.lsc.drain = some ⟨b.k, l, true⟩ ∧ (m.escort = none → t.lsc.nextDrain = b.k + 1))) ∧
  (∀ (s : State) (l : Lane) (b : SealedBuf) (v : Nat), s.up = true → s.lsc.drain = none → s.drainLane = some (l, b) → s.drainMay l b.k = true → b.records = [(0x40010050, v)] →
    Answers (.commitDrain ⟨none, [], none⟩) s (fun t =>
      t.rd TB_LOCK_CFG_LOCK_THR = bits v 0 12 ∧ t.rd TB_LOCK_CFG_UNLOCK_THR = bits v 12 12 ∧ t.rd TB_LOCK_CFG_LOCK_N = bits v 24 8 ∧ t.lsc.drain = some ⟨b.k, l, true⟩)) ∧
  (∀ (s : State) (d : Drain), s.up = true → s.lsc.drain = some d → d.done = true → Answers .drainComplete s (fun t => t.lsc.drain = none ∧ (t.lane d.lane).sealedBuf = none))

/-- R99, R100: what the role commands do with the key 0x5EA1, and that with another they do nothing: SWAP waits for the Active lane's next seal, TAKEOUT takes a Shadow lane out, or an Active one that a
Shadow follows, and no other; REJOIN clears DEGRADED and lets a lane join; and LSC_JOIN takes a lane in BOOT to JOINING where it may join.
That SWAP with no Shadow lane is ignored is the model's reading, notes/assumptions/22. -/
def Obligations.RoleCommands : Prop :=
  (∀ (s : State) (l : Lane), s.serves l →
    (∀ a : Lane, s.activeLane = some a → s.isShadow a.other = true → exec (.swap l 0x5EA1#16) s = .next { s with lsc := { s.lsc with swap := true } }) ∧
    (s.role .A = roleShadow ∨ (s.role .A = roleActive ∧ s.role .B = roleShadow) → Answers (.takeoutA l 0x5EA1#16) s (fun t => t.role .A = roleOut ∧ t.rd LSC_CAUSE_A_CAUSE = causeCmd ∧ t.rd LSC_STATUS_OUT_A = 1)) ∧
    (s.role .B = roleShadow ∨ (s.role .B = roleActive ∧ s.role .A = roleShadow) → Answers (.takeoutB l 0x5EA1#16) s (fun t => t.role .B = roleOut ∧ t.rd LSC_CAUSE_B_CAUSE = causeCmd ∧ t.rd LSC_STATUS_OUT_B = 1)) ∧
    (s.role .A ≠ roleShadow → s.role .A ≠ roleActive ∨ s.role .B ≠ roleShadow → exec (.takeoutA l 0x5EA1#16) s = .next s) ∧
    (s.role .B ≠ roleShadow → s.role .B ≠ roleActive ∨ s.role .A ≠ roleShadow → exec (.takeoutB l 0x5EA1#16) s = .next s) ∧
    Answers (.rejoin l 0x5EA1#16) s (fun t => t.rd LSC_ROLE_DEGRADED = 0 ∧ t.lsc = { s.lsc with rejoin := true }) ∧
    (∀ key : BitVec 16, key ≠ 0x5EA1#16 → exec (.swap l key) s = .next s ∧ exec (.takeoutA l key) s = .next s ∧ exec (.takeoutB l key) s = .next s ∧ exec (.rejoin l key) s = .next s)) ∧
  (∀ (s : State) (l : Lane) (v : Word), s.laneRuns l = true → (s.lane l).det = false → s.role l = roleBoot → s.role l.other = roleActive → s.rd LSC_ROLE_DEGRADED = 0 → s.blocked l = false →
    s.rd LSC_CTRL_AUTOREJOIN ≠ 0 ∨ s.lsc.rejoin = true → v.toNat % 2 = 1 → Answers (.lscJoin l v) s (fun t =>
      t.rd (roleField l) = roleJoining ∧ t.rd (roleField l.other) = s.rd (roleField l.other) ∧ t.lsc = { s.lsc with rejoin := false }))
/-! ### Felter and the Launch Unit -/

/-- R109: FLT_PROG and FLT_CTRL take writes only while CRZ_CTRL.EN is 0: the fields get their bits; while it is 1 the write is ignored and sets CFGREJ. The write is a store, not an atomic
instruction, that the PMP regions of the lane permit (R85, notes/assumptions/13). -/
def Obligations.FelterConfigurationLock : Prop :=
  ∀ (s u : State) (l : Lane) (a : Word) (v : BitVec 64) (m : WriteMeet), s.serves l → m.parity = false → m.atomic = none → u = s.enterCore l m.core → u.coreMay l true a.toNat 4 = true → a.toNat % 4 = 0 → a = 0x40060000#32 ∨ (0x40061000 ≤ a.toNat ∧ a.toNat < 0x40061800) →
    (s.crzOn = true → exec (.registerWrite l a 4 v m) s = .next (u.wr FLT_STATUS_CFGREJ 1)) ∧
    (s.crzOn = false → Answers (.registerWrite l a 4 v m) s (fun t => t.rd FLT_STATUS_CFGREJ = s.rd FLT_STATUS_CFGREJ ∧
      ∀ p : RegPlace, findReg a.toNat = some p → ∀ x ∈ p.fields l, x.2.1 = .rw → t.rd x.1 = bits v.toNat x.1.lo x.1.width))

/-- R115: MIN and MAX compare operands as SIGNED says; of the events with the least (greatest) operand the one with the lowest order key wins, and its SRCID, or the 32-bit field at ARGOFF, is the arg. -/
def Obligations.LeastAndGreatest : Prop :=
  ∀ (q : Prog) (es : List Event), (∀ e : Event, q.operand e = if q.sgn then signed (8 * 2 ^ q.opw) (e.field q.opOff (2 ^ q.opw)) else ((e.field q.opOff (2 ^ q.opw) : Nat) : Int)) ∧
    (es ≠ [] → q.op = 3 → ∃ e ∈ es, (∀ f ∈ es, q.operand e ≤ q.operand f ∧ (q.operand f = q.operand e → keyLt f.key e.key = false)) ∧
      q.data es = (le 8 (unsigned 64 (q.operand e)) ++ le 4 (if q.argSel then e.field q.argOff 4 else e.src) ++ zeros 4 ++ le 8 (ts64 e.stamp), false)) ∧
    (es ≠ [] → q.op = 4 → ∃ e ∈ es, (∀ f ∈ es, q.operand f ≤ q.operand e ∧ (q.operand f = q.operand e → keyLt f.key e.key = false)) ∧
      q.data es = (le 8 (unsigned 64 (q.operand e)) ++ le 4 (if q.argSel then e.field q.argOff 4 else e.src) ++ zeros 4 ++ le 8 (ts64 e.stamp), false))

/-- R116: HIST puts an event into bin 0 where d = operand − HBASE is negative, and otherwise into d shifted right by SHIFT, limited to 31; each bin counts events and holds no more than a batch of at most 32,768
has. -/
def Obligations.Histograms : Prop :=
  ∀ (q : Prog) (es : List Event), q.op = 5 → es.length ≤ 32768 →
    (∀ e : Event, (q.operand e < q.hBase → q.bin e = 0) ∧ (q.hBase ≤ q.operand e → q.bin e = min 31 ((q.operand e - q.hBase).toNat >>> q.shift))) ∧
    (q.data es).1.length = 128 ∧
    ∀ i : Nat, i < 32 → leAt (q.data es).1 (4 * i) 4 = (es.filter (fun e => q.bin e == i)).length ∧ leAt (q.data es).1 (4 * i) 4 ≤ 32768

/-- R124, R125, R126, R142: a record whose send time has come leaves and is counted, in a collector its own module record into the intake queue; the queue takes 16 records and discards another with
INQOVF; the intake registers a good record as the event of channel 88 with its sideband zero, and rejects one whose VER, RTYPE, P_MS, H_MS, W, MASK, SEG or SEND_TS64 is not as the collector has it; and the actions whose deadline has passed
are dropped from their path, counted and flagged, and stay in the queue. -/
def Obligations.RecordsAndDeadlines : Prop :=
  (∀ (s : State) (r : ResultRecord), s.up = true → s.flt.records.find? (fun x => decide (x.sendAt ≤ s.now)) = some r →
    (s.rd FLT_CTRL_COLLECTOR = 0 ∨ r.district = true → Answers .resultRecordSend s (fun t =>
      t.flt = { s.flt with records := s.flt.records.erase r } ∧ t.rd FLT_SEND_CNT_COUNT = (s.rd FLT_SEND_CNT_COUNT + 1) % 2 ^ FLT_SEND_CNT_COUNT.width ∧
      t.bh = (s.queueDatagram (s.rd BHM0_TPL_CFG_TC) none (s.recordOctets r)).bh)) ∧
    (s.rd FLT_CTRL_COLLECTOR ≠ 0 → r.district = false → s.flt.inq.length < 16 → Answers .resultRecordSend s (fun t =>
      t.flt = { s.flt with records := s.flt.records.erase r, inq := s.flt.inq ++ [s.recordOctets r] } ∧ t.bh = s.bh ∧ t.rd FLT_SEND_CNT_COUNT = s.rd FLT_SEND_CNT_COUNT))) ∧
  (∀ (s : State) (r : Octets), s.up = true → s.rd FLT_CTRL_COLLECTOR ≠ 0 →
    (s.flt.inq.length < 16 → Answers (.collectorRecordReceive r) s (fun t => t.flt = { s.flt with inq := s.flt.inq ++ [r] } ∧ t.rd FLT_INQ_USED = s.flt.inq.length + 1)) ∧
    (16 ≤ s.flt.inq.length → Answers (.collectorRecordReceive r) s (fun t => t.flt = s.flt ∧ t.rd FLT_STATUS_INQOVF = 1))) ∧
  (∀ (s : State) (r : Octets) (rest : List Octets), s.up = true → s.flt.inq = r :: rest →
    (s.intakeGood r = true → Answers .collectorIntake s (fun t => t.flt.inq = rest ∧
      t.waiting = s.waiting ++ [⟨⟨⟨leAt r 16 8 / 2 ^ 30, leAt r 16 8 % 2 ^ 30, 0⟩, leAt r 4 2 * 262144 + 88, some (leAt r 6 2), 1,
        wholeSlots (r.take 3 ++ zeros 1 ++ (r.drop 4).take 34 ++ zeros 10 ++ r.drop 48), false, false, []⟩, none, 0⟩] ∧
      t.rd FLT_IN_CNT_COUNT = (s.rd FLT_IN_CNT_COUNT + 1) % 2 ^ FLT_IN_CNT_COUNT.width)) ∧
    (octAt r 0 ≠ 1 ∨ octAt r 1 ≠ 1 ∨ leAt r 32 2 ≠ s.pMs ∨ leAt r 34 2 ≠ s.hMs ∨ leAt r 36 2 ≠ s.spreadW ∨ leAt r 24 8 ≠ s.rd FLT_INMASK_MASK ∨ (leAt r 4 2 ≠ s.seg ∧ ∀ x ∈ s.repTab, x.2 ≠ leAt r 4 2) ∨
      leAt r 16 8 ≠ ts64 (timeOfNs (s.sendTime (leAt r 8 8) (leAt r 4 2))) → Answers .collectorIntake s (fun t =>
        t.flt = { s.flt with inq := rest } ∧ t.waiting = s.waiting ∧ t.rd FLT_STATUS_INREJ = 1))) ∧
  (∀ (s : State) (p : Path), s.up = true → (s.lnu.queue.filter (s.missed p)).length ≠ 0 → Answers (.actionDeadlineMiss p) s (fun t =>
    t.lnu = { s.lnu with queue := s.lnu.queue.map (fun a => if s.missed p a then a.settle p else a) } ∧ t.rd (pathMissFlag p) = 1 ∧
    t.rd (pathMiss p) = (s.rd (pathMiss p) + (s.lnu.queue.filter (s.missed p)).length) % 2 ^ (pathMiss p).width))
/-! ### The lantern radio link -/

/-- R168, R170, R175, R177, R178, R180, R182: a beacon leaves at TX_OFS of its cell, on the radio's channel, secured under KSLOTB with the frame counter of its superframe, and one that the guard holds back, or
that is poisoned in its queue, leaves its cell idle; a BUNDLE cell carries the bundle of the Launch Unit, else the first downlink frame whose target is awake, which then waits for its Imm-Ack up to frame end + 1 ms +
SHR + 50 us; the Imm-Ack of that time ends the wait with result 0, and the wait that runs out leaves the frame for another opportunity or after three attempts ends it with result 1; a frame that 64 superframes gave no
opportunity ends with result 2; and RFM_TXCMD queues a frame of 1 to 106 octets for the home radio, of 16 frames, and ends another with result 3.
A command whose condition does not hold does nothing: the model's choice, notes/assumptions/11. -/
def Obligations.RadioSends : Prop :=
  ∀ (s : State) (r : Fin 2), s.up = true →
    (∀ (u : State) (n : Int) (g : GuardMeet), n = s.sfAt r.val s.now → (s.radio r.val).beaconed ≠ some n → s.slotAt r.val s.now < s.span r.val → s.sfOfs r.val ≤ s.now → u = s.superframeStart r.val n →
      (∀ k : KeySlot, u.rfRuns r.val = true → u.dcqOpen (rfTxQueue r.val) = true → g.frame = false → g.poison = false → u.slot (u.rd RFM_SEC_KSLOTB) = some k → k.allows opLink ctxRfm = true →
        Answers (.beacon r g) s (fun t => (t.radio r.val).beaconed = some n ∧
          t.sent = s.sent ++ [⟨3 + r.val, u.slotStart r.val n 0 + txOfs, secured1 k.key (ccmNonce u.seg 0x0800 (unsigned 32 (2 * (n - 1406250000) + r.val)) 1)
            (le 2 0xA008 ++ [octet (unsigned 8 n)] ++ le 2 u.seg ++ le 2 0x0800) (auxHeader 0x09 (unsigned 32 (2 * (n - 1406250000) + r.val)) 0x10)
            (u.beaconPayload r.val n (u.callList r.val n)), 0, .whole, u.rfChannel r.val, u.rfPower r.val⟩])) ∧
      (g.frame = true ∨ g.poison = true → Answers (.beacon r g) s (fun t => t.sent = s.sent ∧ (t.radio r.val).beaconed = some n))) ∧
    (∀ (u w : State) (b : List Action) (g : GuardMeet) (x : Octets) (q slot start : Nat) (f : Int), s.rfRuns r.val = true → s.dcqOpen (rfTxQueue r.val) = true →
      (s.nextSlot r.val % 128).toNat = slot → s.nextSlot r.val / 128 = f → start = s.slotStart r.val f slot → slot % s.span r.val = 0 → s.codeAt r.val slot = 2 →
      s.askBundle (radioPath r.val) g = (u, b) → g.frame = false → g.poison = false →
        (b ≠ [] → u.linkFrame r.val none (bundleOctets b) = (w, some (x, q)) → Answers (.radioBundleCell r g) s (fun t =>
          t.sent = s.sent ++ [⟨3 + r.val, start + txOfs, x, 0, .whole, w.rfChannel r.val, w.rfPower r.val⟩] ∧
          t.lnu.queue = w.lnu.queue.map (fun a => if b.any (fun y => y.aseq == a.aseq && y.launch == a.launch) then a.settle (radioPath r.val) else a))) ∧
        (∀ d : Downlink, b = [] → (u.radio r.val).queue.find? (fun d => u.awake d.dst f && !(u.radio r.val).awaiting.any (fun a => a.frame == d)) = some d →
          u.linkFrame r.val (some d.dst) d.payload = (w, some (x, q)) → Answers (.radioBundleCell r g) s (fun t =>
            t.sent = s.sent ++ [⟨3 + r.val, start + txOfs, x, 0, .whole, w.rfChannel r.val, w.rfPower r.val⟩] ∧
            (t.radio r.val).queue = (w.radio r.val).queue.map (fun y => if y = d then { d with tries := d.tries + 1, seq := q } else y) ∧
            (t.radio r.val).awaiting = (w.radio r.val).awaiting ++
              [⟨{ d with tries := d.tries + 1, seq := q }, start + txOfs + w.airNs r.val (10 + x.length) + 1000000 + w.shrNs r.val + 50000, start + u.span r.val * slotNs⟩]))) ∧
    (∀ seq : Byte,
      (∀ a : Await, (s.radio r.val).awaiting.find? (fun a => a.frame.seq == seq.toNat && rfCycle (s.replica (repRadio r.val)) ≤ rfCycleNs a.until') = some a → Answers (.immAckReceive r seq) s (fun t =>
        (t.radio r.val).queue = (s.radio r.val).queue.erase a.frame ∧ (t.radio r.val).awaiting = (s.radio r.val).awaiting.erase a ∧
        t.waiting = s.waiting ++ [⟨s.event (76 + r.val) a.frame.dst 0x04 [octet a.frame.handle, octet 0] (s.replica (repRadio r.val)), none, 0⟩])) ∧
      ((∀ a ∈ (s.radio r.val).awaiting, a.frame.seq ≠ seq.toNat ∨ rfCycleNs a.until' < rfCycle (s.replica (repRadio r.val))) → exec (.immAckReceive r seq) s = .next s)) ∧
    (∀ a : Await, (s.radio r.val).awaiting.find? (fun a => s.rfPast a.until') = some a →
      (a.frame.tries < 3 → Answers (.ackWaitExpiry r) s (fun t => (t.radio r.val).queue = (s.radio r.val).queue ∧ (t.radio r.val).awaiting = (s.radio r.val).awaiting.erase a ∧ t.waiting = s.waiting)) ∧
      (3 ≤ a.frame.tries → Answers (.ackWaitExpiry r) s (fun t =>
        (t.radio r.val).queue = (s.radio r.val).queue.erase a.frame ∧ (t.radio r.val).awaiting = (s.radio r.val).awaiting.erase a ∧ t.rd RFM_STATUS_DLFAIL = 1 ∧
        t.waiting = s.waiting ++ [⟨s.event (76 + r.val) a.frame.dst 0x04 [octet a.frame.handle, octet 1] (timeOfNs a.cellEnd), none, 0⟩]))) ∧
    Answers (.downlinkNoOpportunity r) s (fun t => (t.radio r.val).queue = (s.radio r.val).queue.filter (fun d => !(decide (d.queued + 64 ≤ s.sfAt r.val s.now) && d.tries == 0))) ∧
    (∀ d : Downlink, (s.radio r.val).queue = [d] → d.tries = 0 → d.queued + 64 ≤ s.sfAt r.val s.now → Answers (.downlinkNoOpportunity r) s (fun t =>
      (t.radio r.val).queue = [] ∧ t.rd RFM_STATUS_DLFAIL = 1 ∧
      t.waiting = s.waiting ++ [⟨s.event (76 + r.val) d.dst 0x04 [octet d.handle, octet 2] (timeOfNs (s.slotStart r.val (d.queued + 64) 0)), none, 0⟩])) ∧
    (∀ (l : Lane) (handle : Byte) (dst : BitVec 11) (len : BitVec 7), s.serves l → r.val = s.homeOf dst.toNat →
      (1 ≤ len.toNat → len.toNat ≤ 106 → (s.radio r.val).queue.length < 16 → Answers (.radioDownlinkQueue l handle dst len) s (fun t =>
        (t.radio r.val).queue = (s.radio r.val).queue ++ [⟨dst.toNat, le len.toNat (s.rd RFM_TXBUF_PAYLOAD), handle.toNat, s.sfAt r.val s.now, 0, 0⟩] ∧ t.waiting = s.waiting)) ∧
      (len.toNat = 0 ∨ 106 < len.toNat ∨ 16 ≤ (s.radio r.val).queue.length → Answers (.radioDownlinkQueue l handle dst len) s (fun t =>
        (t.radio r.val).queue = (s.radio r.val).queue ∧ t.waiting = s.waiting ++ [⟨s.event (76 + r.val) dst.toNat 0x04 [octet handle.toNat, octet 3] s.tb.now, none, 0⟩])))

/-- R167, R176, R177, R180, R182, R183, R185, R186, R187, R189: a lantern's frame that passes the checks leaves its counter and key in the entry, becomes an event through the radio's queue, meets its expected contact,
which clears MISS, and is acknowledged 1 ms after its end; one replayed sets REPLAY, with neither stored nor acknowledged; one with a bad FCS, a 4-octet FCS, no whitening or more than 127 octets is dropped, and one
outside the windows is not heard; a neighbour's beacon marks it present; an expected contact missed raises MISS or takes the lantern to ADRIFT; a called window without contact raises DARNF or takes it to LOST; three
NBR cells without the neighbour's beacon mark it absent; WL_NEXT takes effect in its superframe; and a write of word 0 stands in the table, in force later, and queues the assignment of a lantern that stays enabled. -/
def Obligations.LanternsAreTracked : Prop :=
  (∀ (s : State) (r : Fin 2) (stamp : Time) (f p : Octets) (rssi : Byte) (k : KeySlot), s.up = true → s.rfRuns r.val = true → stamp = s.replica (repRadio r.val) → s.listens r.val stamp = true → f.length ≤ 125 →
    leAt f 0 2 = 0xA869 → leAt f 3 2 = s.seg → leAt f 5 2 = 0x0800 → leAt f 7 2 < 2048 → octAt f 9 = 0x0D → octAt f 14 = 1 → s.slot (s.rd RFM_SEC_KSLOT0) = some k → k.allows opLink ctxRfm = true →
    opened5 k.key (ccmNonce s.seg (leAt f 7 2) (leAt f 10 4) 5) f 15 = some p → octAt p 0 / 16 = 0xE → s.lEn (leAt f 7 2) = true →
      (s.rd (RFM_LTAB_W1_FCKEY (leAt f 7 2)) = 1 → s.rd (RFM_LTAB_W2_FC (leAt f 7 2)) < leAt f 10 4 → (s.dcqOffer (6 + 2 * r.val) (s.event (76 + r.val) (leAt f 7 2) 0x02 p stamp)).2 = true →
        Answers (.radioFrameReceive r f ⟨true, false, false⟩ rssi) s (fun t => t.rd (RFM_LTAB_W1_FCKEY (leAt f 7 2)) = 1 ∧ t.rd (RFM_LTAB_W2_FC (leAt f 7 2)) = leAt f 10 4 ∧
          t.sent = s.sent ++ [⟨3 + r.val, nsOf stamp + s.airNs r.val (4 + f.length) + 1000000, le 2 0x0002 ++ [octet (octAt f 2)], 0, .whole, s.rfChannel r.val, s.rfPower r.val⟩] ∧
          (s.lRelayed (leAt f 7 2) = false → s.rd (RFM_LTAB_W3_STATE (leAt f 7 2)) = 1 → (∃ g ∈ s.contactsMet (leAt f 7 2) stamp, (s.link (leAt f 7 2)).judgedBy g = false) →
            t.rd (RFM_LTAB_W3_MISS (leAt f 7 2)) = 0) ∧
          ∃ more, t.waiting = s.waiting ++ ⟨s.event (76 + r.val) (leAt f 7 2) 0x02 p stamp, some (6 + 2 * r.val), (s.event (76 + r.val) (leAt f 7 2) 0x02 p stamp).words⟩ :: more)) ∧
      (s.rd (RFM_LTAB_W1_FCKEY (leAt f 7 2)) = 1 → leAt f 10 4 ≤ s.rd (RFM_LTAB_W2_FC (leAt f 7 2)) → Answers (.radioFrameReceive r f ⟨true, false, false⟩ rssi) s (fun t =>
        t.rd RFM_STATUS_REPLAY = 1 ∧ t.rd (RFM_LTAB_W2_FC (leAt f 7 2)) = s.rd (RFM_LTAB_W2_FC (leAt f 7 2)) ∧ t.sent = s.sent ∧ t.waiting = s.waiting))) ∧
  (∀ (s : State) (r : Fin 2) (f : Octets) (m : RadioMeet) (rssi : Byte), s.up = true → s.rfRuns r.val = true → s.listens r.val (s.replica (repRadio r.val)) = true →
    m.fcs4 = true ∨ m.plain = true ∨ 125 < f.length ∨ (m.fcs = false ∧ leAt f 0 2 = 0xA869) → Answers (.radioFrameReceive r f m rssi) s (fun t =>
      t.rd RFM_DROP_COUNT = (s.rd RFM_DROP_COUNT + 1) % 2 ^ RFM_DROP_COUNT.width ∧ t.sent = s.sent ∧ t.waiting = s.waiting ∧ t.rfm = s.rfm)) ∧
  (∀ (s : State) (r : Fin 2) (f : Octets) (m : RadioMeet) (rssi : Byte), s.listens r.val (s.replica (repRadio r.val)) = false → exec (.radioFrameReceive r f m rssi) s = .next s) ∧
  (∀ (s : State) (r : Fin 2) (m : Nat) (stamp : Time) (f p : Octets) (rssi : Byte) (k : KeySlot) (e : Event), s.up = true → s.rfRuns r.val = true → stamp = s.replica (repRadio r.val) → s.listens r.val stamp = true →
    f.length ≤ 125 → leAt f 0 2 = 0xA008 → s.neighbourAt r.val (s.slotAt r.val (nsOf stamp) / s.span r.val * s.span r.val) = some m → leAt f 3 2 = s.rd (RFM_NBR_W0_SEG m) → leAt f 5 2 = 0x0800 →
    octAt f 7 = 0x09 → octAt f 12 = 0x10 → s.slot (s.rd RFM_SEC_KSLOTB) = some k → k.allows opLink ctxRfm = true → opened1 k.key (ccmNonce (leAt f 3 2) 0x0800 (leAt f 8 4) 1) f 13 = some p → octAt p 0 = 0xBE →
    e = { s.event (76 + r.val) 0 0x01 (slice p 6 8 ++ slice p 1 5 ++ [octet 1]) stamp with src := srcId (leAt f 3 2) 0 (76 + r.val), seq := some (leAt p 1 2) } →
    (s.dcqOffer (6 + 2 * r.val) e).2 = true → Answers (.radioFrameReceive r f ⟨true, false, false⟩ rssi) s (fun t =>
      t.rd (RFM_NBR_W1_MISSES m) = 0 ∧ t.rd (RFM_NBR_W1_PRESENT m) ≠ 0 ∧ kvFind t.rfm.heard m = some (s.sfAt r.val (nsOf stamp)) ∧ t.sent = s.sent ∧
      ∃ more, t.waiting = s.waiting ++ ⟨e, some (6 + 2 * r.val), e.words⟩ :: more)) ∧
  (∀ (s : State) (n : Fin 2048) (f : Int) (e w : Nat), s.up = true → s.contactEnd n.val f = some e → s.rfPast e = true → s.lEn n.val = true → s.reportSf n.val f = true → (s.link n.val).judgedBy f = false →
    s.rfRuns (s.homeOf n.val) = true → (s.radio (s.homeOf n.val)).since ≤ s.contactStart n.val f → s.rd (RFM_LTAB_W3_STATE n.val) = 1 →
    w = s.guardRaw (s.deltaOf n.val f (s.sfdOf (s.homeOf n.val) f ((s.reportSlot n.val).getD 0))) →
      (f ∈ (s.link n.val).met → Answers (.reportCellEnd n f) s (fun t => t.regs = s.regs ∧ t.waiting = s.waiting ∧ (t.link n.val).judged = some f)) ∧
      (f ∉ (s.link n.val).met → s.rd (RFM_LTAB_W3_MISS n.val) < 2 → w ≤ 15000000000000 → Answers (.reportCellEnd n f) s (fun t =>
        t.rd (RFM_LTAB_W3_MISS n.val) = s.rd (RFM_LTAB_W3_MISS n.val) + 1 ∧ t.rd (RFM_LTAB_W3_STATE n.val) = 1 ∧ t.waiting = s.waiting)) ∧
      (f ∉ (s.link n.val).met → 2 ≤ s.rd (RFM_LTAB_W3_MISS n.val) ∨ 15000000000000 < w → Answers (.reportCellEnd n f) s (fun t =>
        t.rd (RFM_LTAB_W3_MISS n.val) = 3 ∧ t.rd (RFM_LTAB_W3_DARNF n.val) = 0 ∧ t.rd (RFM_LTAB_W3_STATE n.val) = 2 ∧ t.rd RFM_STATUS_ADRIFT = 1 ∧
        t.waiting = s.waiting ++ [⟨s.event (76 + s.homeOf n.val) n.val 0x03 [octet 2, octet 1, octet 1] (timeOfNs e), none, 0⟩]))) ∧
  (∀ (s : State) (r : Fin 2) (w : Fin 4) (c : DarnCall), s.up = true → (s.radio r.val).calls.find? (fun x => x.window == w.val && s.rfPast (s.darnUntil r.val x)) = some c → c.contact = false →
    s.rd (RFM_LTAB_W3_STATE c.lantern) = 2 →
      (s.rd (RFM_LTAB_W3_DARNF c.lantern) + 1 < s.darnMax → Answers (.darnWindowEnd r w) s (fun t =>
        t.rd (RFM_LTAB_W3_DARNF c.lantern) = s.rd (RFM_LTAB_W3_DARNF c.lantern) + 1 ∧ t.rd (RFM_LTAB_W3_STATE c.lantern) = 2 ∧ t.waiting = s.waiting)) ∧
      (s.rd (RFM_LTAB_W3_DARNF c.lantern) + 1 = s.darnMax → Answers (.darnWindowEnd r w) s (fun t =>
        t.rd (RFM_LTAB_W3_DARNF c.lantern) = s.darnMax % 2 ^ (RFM_LTAB_W3_DARNF c.lantern).width ∧ t.rd (RFM_LTAB_W3_STATE c.lantern) = 3 ∧ t.rd RFM_STATUS_LOST = 1 ∧
        t.waiting = s.waiting ++ [⟨s.event (76 + r.val) c.lantern 0x03 [octet 3, octet 2, octet 2] (timeOfNs (s.darnUntil r.val c)), none, 0⟩]))) ∧
  (∀ (s : State) (m : Fin 8) (r d e : Nat) (f : Int), s.up = true → s.rd (RFM_NBR_W0_EN m.val) ≠ 0 → r = s.rd (RFM_NBR_W0_RADIO m.val) → s.rfRuns r = true →
    d = s.rd (RFM_NBR_W0_LSLOT m.val) * slotNs + s.span r * slotNs → f = ((s.now : Int) - d - s.sfOfs r) / sfNs → e = s.slotStart r f 0 + d → s.rfPast e = true →
    (s.radio r).since + s.span r * slotNs ≤ e → kvFind s.rfm.nbrJudged m.val ≠ some f →
      (kvFind s.rfm.heard m.val = some f → Answers (.nbrCellEnd m) s (fun t => t.regs = s.regs ∧ t.waiting = s.waiting)) ∧
      (kvFind s.rfm.heard m.val ≠ some f → s.rd (RFM_NBR_W1_MISSES m.val) < 2 → Answers (.nbrCellEnd m) s (fun t =>
        t.rd (RFM_NBR_W1_MISSES m.val) = s.rd (RFM_NBR_W1_MISSES m.val) + 1 ∧ t.rd (RFM_NBR_W1_PRESENT m.val) = s.rd (RFM_NBR_W1_PRESENT m.val))) ∧
      (kvFind s.rfm.heard m.val ≠ some f → s.rd (RFM_NBR_W1_MISSES m.val) = 2 → s.rd (RFM_NBR_W1_PRESENT m.val) = 1 → Answers (.nbrCellEnd m) s (fun t =>
        t.rd (RFM_NBR_W1_MISSES m.val) = 3 ∧ t.rd (RFM_NBR_W1_PRESENT m.val) = 0 ∧ t.rd RFM_STATUS_NBRCHG = 1))) ∧
  (∀ (s : State) (n : Nat), s.up = true → s.rfm.wakeAt = some n → n * sfNs ≤ s.now → Answers .wakeChange s (fun t => t.rd RFM_WAKE_WL = s.rd RFM_WAKE_WL_NEXT ∧ t.rfm.wakeAt = none)) ∧
  (∀ (s : State) (l : Lane) (n : Fin 2048) (v : Word), s.serves l →
    Answers (.lanternTableWrite l n v) s (fun t => t.ltabWord n.val = v.toNat ∧ t.ltab n.val = s.ltab n.val ∧ t.rd (RFM_LTAB_W3_STATE n.val) = s.rd (RFM_LTAB_W3_STATE n.val)) ∧
    (s.rd (RFM_LTAB_W0_EN n.val) = 1 → v.toNat / 2 ^ 31 = 1 → (s.radio (s.homeOf n.val)).queue.length < 16 → Answers (.lanternTableWrite l n v) s (fun t =>
      (t.radio (s.homeOf n.val)).queue = (s.radio (s.homeOf n.val)).queue ++
        [⟨n.val, [octet 0xA1] ++ le 4 v.toNat ++ le 4 (s.rd (RFM_LTAB_W1_PARENT n.val) * 65536) ++ [octet (s.homeOf n.val)], 0xFF, s.sfAt (s.homeOf n.val) s.now, 0, 0⟩])))
/-! ### The power-line modem and Reflect -/

/-- R197, R201 to R203, R206: cell 0 of a running modem carries the TIME frame; a BUNDLE cell carries the bundle, else the lowest pending assignment, else the first downlink frame, each of which then waits for its ACK,
and a frame too large for the cell ends with result 3; an ACK up to 100 us after that of a lantern at zero distance ends the wait with result 0 and stores DLYM, a later one is none; the wait that runs out leaves the frame,
or after three attempts ends it with result 1; PLM_TXCMD queues a frame of 1 to 128 octets and ends another with result 3; and a write of word 0 or DLY of an enabled entry makes its assignment pending.
A command whose condition does not hold does nothing: the model's choice, notes/assumptions/11. -/
def Obligations.PowerLineSends : Prop :=
  ∀ s : State, s.up = true →
    (∀ (u : State) (g : GuardMeet), s.plm.timed ≠ some (s.plcCycle s.now) → s.plcCell s.now = 0 → u = s.cycleStart (s.plcCycle s.now) →
      (∀ (w : State) (f : Octets), s.rd PLM_CTRL_RUNST = 1 → s.dcqOpen 11 = true → s.quietAt s.now = false → g.frame = false → g.poison = false → u.plcFrame none (u.timePayload (s.plcCycle s.now)) = (w, some f) →
        Answers (.timeFrame g) s (fun t => t.sent = s.sent ++ [⟨5, s.cellStart (s.plcCycle s.now) 0 + 2000000 - s.rd PLM_LAT_TXLAT, f, 0, .whole, s.tPath, s.rd PLM_CFG_TXATT⟩] ∧
          t.plm.timed = some (s.plcCycle s.now) ∧ t.plm.inForce = [] ∧ t.plm.txKey = s.rd PLM_SEC_PTXKEY)) ∧
      (s.rd PLM_CTRL_RUNST ≠ 1 ∨ g.frame = true ∨ g.poison = true → Answers (.timeFrame g) s (fun t =>
        t.sent = s.sent ∧ t.plm.timed = some (s.plcCycle s.now) ∧ t.plm.inForce = [] ∧ t.plm.txKey = s.rd PLM_SEC_PTXKEY))) ∧
    (∀ (u : State) (b : List Action) (air start cell : Nat) (n : Int) (g : GuardMeet), s.rd PLM_CTRL_RUNST = 1 → s.dcqOpen 11 = true → n = -(((s.cellOfs : Int) - s.now - 2000000) / cellNs) →
      (n % 64).toNat = cell → nth 0 s.plcCodes cell = 2 → s.cellStart (n / 64) cell = start → s.quietAt start = false → s.askBundle .plc g = (u, b) → g.frame = false → g.poison = false →
        (∀ (w : State) (f : Octets), b ≠ [] → u.plcFrame none (bundleOctets b) = (w, some f) → Answers (.plcBundleCell air g) s (fun t =>
          t.sent = s.sent ++ [⟨5, start + 2000000 - s.rd PLM_LAT_TXLAT, f, 0, .whole, s.tPath, s.rd PLM_CFG_TXATT⟩] ∧ t.plm.wait = s.plm.wait ∧
          t.lnu.queue = w.lnu.queue.map (fun a => if b.any (fun y => y.aseq == a.aseq && y.launch == a.launch) then a.settle .plc else a))) ∧
        (∀ (d : Downlink) (w : State) (f : Octets), b = [] → s.unicastLimit ≠ 0 → u.plcAssignment = some d → u.plcFrame (some d.dst) d.payload = (w, some f) → Answers (.plcBundleCell air g) s (fun t =>
          t.sent = s.sent ++ [⟨5, start + 2000000 - s.rd PLM_LAT_TXLAT, f, 0, .whole, s.tPath, s.rd PLM_CFG_TXATT⟩] ∧ kvFind t.plm.assigns d.dst = some (d.tries + 1) ∧
          t.plm.wait = s.plm.wait ++ [(⟨{ d with tries := d.tries + 1 }, start + 2000000 + s.preambleNs + air + 1000000 + s.preambleNs + 100000, start + cellNs⟩, true)])) ∧
        (∀ d : Downlink, b = [] → s.unicastLimit ≠ 0 → u.plcAssignment = none → u.plcFirst = some d →
          (∀ (w : State) (f : Octets), d.payload.length ≤ s.unicastLimit → u.plcFrame (some d.dst) d.payload = (w, some f) → Answers (.plcBundleCell air g) s (fun t =>
            t.sent = s.sent ++ [⟨5, start + 2000000 - s.rd PLM_LAT_TXLAT, f, 0, .whole, s.tPath, s.rd PLM_CFG_TXATT⟩] ∧
            t.plm.queue = s.plm.queue.map (fun y => if y = d then { d with tries := d.tries + 1 } else y) ∧
            t.plm.wait = s.plm.wait ++ [(⟨{ d with tries := d.tries + 1 }, start + 2000000 + s.preambleNs + air + 1000000 + s.preambleNs + 100000, start + cellNs⟩, false)])) ∧
          (s.unicastLimit < d.payload.length → Answers (.plcBundleCell air g) s (fun t => t.sent = s.sent ∧ t.plm.queue = s.plm.queue.erase d ∧
            t.waiting = u.waiting ++ [⟨s.event 80 0 0x04 (le 2 d.dst ++ [octet d.handle, octet 3]) (timeOfNs (start + cellNs)), none, 0⟩])))) ∧
    (∀ (a : Await) (assign : Bool) (rest : List (Await × Bool)), s.plm.wait = (a, assign) :: rest →
      (plcTick s.plcStamp ≤ plcTickNs a.until' → assign = false → Answers (.plcAckReceive true) s (fun t => t.plm = { s.plm with wait := rest, queue := s.plm.queue.erase a.frame } ∧
        t.rd (PLM_LTAB_W3_DLYM a.frame.dst) = rnd (unitsOf s.plcStamp - (a.until' - 100000) * 2 ^ 32) (2 * 2 ^ 32) % 2 ^ (PLM_LTAB_W3_DLYM a.frame.dst).width ∧
        t.waiting = s.waiting ++ [⟨s.event 80 0 0x04 (le 2 a.frame.dst ++ [octet a.frame.handle, octet 0]) (timeOfNs a.cellEnd), none, 0⟩])) ∧
      (plcTick s.plcStamp ≤ plcTickNs a.until' → assign = true → kvFind s.plm.assigns a.frame.dst = some a.frame.tries → Answers (.plcAckReceive true) s (fun t =>
        t.plm = { s.plm with wait := rest, assigns := kvErase s.plm.assigns a.frame.dst } ∧
        t.waiting = s.waiting ++ [⟨s.event 80 0 0x04 (le 2 a.frame.dst ++ [octet a.frame.handle, octet 0]) (timeOfNs a.cellEnd), none, 0⟩])) ∧
      (∀ ours : Bool, ours = false ∨ plcTickNs a.until' < plcTick s.plcStamp → exec (.plcAckReceive ours) s = .next s) ∧
      (s.plcPast a.until' = true → a.frame.tries < 3 → exec .plcAckWaitExpiry s = .next { s with plm := { s.plm with wait := rest } }) ∧
      (s.plcPast a.until' = true → 3 ≤ a.frame.tries → assign = false → Answers .plcAckWaitExpiry s (fun t => t.plm = { s.plm with wait := rest, queue := s.plm.queue.erase a.frame } ∧ t.rd PLM_STATUS_DLFAIL = 1 ∧
        t.waiting = s.waiting ++ [⟨s.event 80 0 0x04 (le 2 a.frame.dst ++ [octet a.frame.handle, octet 1]) (timeOfNs a.cellEnd), none, 0⟩]))) ∧
    (∀ (l : Lane) (handle : Byte) (dst : BitVec 11) (len : Byte), s.serves l →
      (1 ≤ len.toNat → len.toNat ≤ 128 → s.plm.queue.length < 16 → Answers (.plcDownlinkQueue l handle dst len) s (fun t =>
        t.plm = { s.plm with queue := s.plm.queue ++ [⟨dst.toNat, le len.toNat (s.rd PLM_TXBUF_PAYLOAD), handle.toNat, s.plcCycle s.now, 0, 0⟩] } ∧ t.rd PLM_DLQ_STAT_USED = s.plm.queue.length + 1)) ∧
      (len.toNat = 0 ∨ 128 < len.toNat ∨ 16 ≤ s.plm.queue.length → Answers (.plcDownlinkQueue l handle dst len) s (fun t => t.plm = s.plm ∧
        t.waiting = s.waiting ++ [⟨s.event 80 0 0x04 (le 2 dst.toNat ++ [octet handle.toNat, octet 3]) (timeOfNs (s.cellEnd s.now)), none, 0⟩]))) ∧
    (∀ (l : Lane) (n : Fin 2048) (v : Word), s.serves l →
      (v.toNat / 2 ^ 31 = 1 → Answers (.plcAssignmentPending l n false v) s (fun t => kvFind t.plm.assigns n.val = some 0 ∧ t.plcEntry n.val = s.plcEntry n.val ∧ t.rd (PLM_LTAB_W0_EN n.val) = 1 ∧
        t.rd (PLM_LTAB_W0_CELL n.val) = bits v.toNat 24 6 ∧ t.rd (PLM_LTAB_W0_PRP n.val) = bits v.toNat 8 8 ∧ t.rd (PLM_LTAB_W0_PPH n.val) = bits v.toNat 0 8)) ∧
      (s.rd (PLM_LTAB_W0_EN n.val) = 1 → Answers (.plcAssignmentPending l n true v) s (fun t => kvFind t.plm.assigns n.val = some 0 ∧ t.rd (PLM_LTAB_W1_DLY n.val) = bits v.toNat 0 16)))

/-- R194, R200, R202, R204, R205: a lantern's frame that passes the checks leaves its counter and key in the entry, becomes an event through DCQ 10 with the modem's stamp, is answered by an ACK with its FCS 1 ms after its
last sample and makes the lantern present; one replayed sets REPLAY and leaves no trace there; one in a ROBO or coherent mode, of more than 200 octets or with a bad FCS is dropped; a TIME frame of another PAN sets
FOREIGN; and a report cycle without a contact raises MISS, at 3 clearing PRES with SILENT, but not in a quiet window. -/
def Obligations.PowerLineReceives : Prop :=
  (∀ (s : State) (f p : Octets) (v : BitVec 16) (snr : Byte) (air : Nat) (k : KeySlot), s.up = true → s.rd PLM_CTRL_RUNST = 1 → s.quietAt s.now = false → f.length ≤ 198 →
    leAt f 0 2 = 0x9869 → leAt f 3 2 = s.seg → leAt f 5 2 = 0x0800 → leAt f 7 2 < 2048 → octAt f 9 = 0x0D → octAt f 14 = 1 → s.slot (s.rd PLM_SEC_PKSLOT0) = some k → k.allows opLink ctxPlm = true →
    opened5 k.key (ccmNonce s.seg (leAt f 7 2) (leAt f 10 4) 5) f 15 = some p → octAt p 0 / 16 = 0xE → bit (s.plcEntry (leAt f 7 2)) 31 = true → s.rd (PLM_LTAB_W1_FCKEY (leAt f 7 2)) = 1 →
      (s.rd (PLM_LTAB_W2_FC (leAt f 7 2)) < leAt f 10 4 → (s.dcqOffer 10 (s.event 80 0 0x02 (le 2 (leAt f 7 2) ++ p) s.plcStamp)).2 = true →
        Answers (.plcFrameReceive f ⟨true, false, air⟩ v snr) s (fun t => t.rd (PLM_LTAB_W1_FCKEY (leAt f 7 2)) = 1 ∧ t.rd (PLM_LTAB_W2_FC (leAt f 7 2)) = leAt f 10 4 ∧ t.rd (PLM_LTAB_W3_PRES (leAt f 7 2)) = 1 ∧
          ((∃ g ∈ s.plcMeets (leAt f 7 2) s.plcStamp, (s.plcLink (leAt f 7 2)).judgedBy g = false) → t.rd (PLM_LTAB_W3_MISS (leAt f 7 2)) = 0) ∧
          t.sent = s.sent ++ [⟨5, nsOf (s.replica repPlc) + air + 1000000, le 2 v.toNat, 0, .whole, s.tPath, s.rd PLM_CFG_TXATT⟩] ∧ ∃ more, t.waiting = s.waiting ++
            ⟨s.event 80 0 0x02 (le 2 (leAt f 7 2) ++ p) s.plcStamp, some 10, (s.event 80 0 0x02 (le 2 (leAt f 7 2) ++ p) s.plcStamp).words⟩ :: more)) ∧
      (leAt f 10 4 ≤ s.rd (PLM_LTAB_W2_FC (leAt f 7 2)) → Answers (.plcFrameReceive f ⟨true, false, air⟩ v snr) s (fun t =>
        t.rd PLM_STATUS_REPLAY = 1 ∧ t.rd PLM_DROP_COUNT = (s.rd PLM_DROP_COUNT + 1) % 2 ^ PLM_DROP_COUNT.width ∧ t.rd (PLM_LTAB_W2_FC (leAt f 7 2)) = s.rd (PLM_LTAB_W2_FC (leAt f 7 2)) ∧ t.sent = s.sent ∧ t.waiting = s.waiting))) ∧
  (∀ (s : State) (f : Octets) (m : PlcMeet) (v : BitVec 16) (snr : Byte), s.up = true → s.rd PLM_CTRL_RUNST = 1 → s.quietAt s.now = false → m.robo = true ∨ 198 < f.length ∨ m.fcs = false →
    Answers (.plcFrameReceive f m v snr) s (fun t => t.rd PLM_DROP_COUNT = (s.rd PLM_DROP_COUNT + 1) % 2 ^ PLM_DROP_COUNT.width ∧ t.sent = s.sent ∧ t.waiting = s.waiting ∧ t.plm = s.plm)) ∧
  (∀ (s : State) (f p : Octets) (v : BitVec 16) (snr : Byte) (air : Nat) (k : KeySlot) (e : Event), s.up = true → s.rd PLM_CTRL_RUNST = 1 → s.quietAt s.now = false → f.length ≤ 198 →
    leAt f 0 2 = 0x1809 → leAt f 3 2 ≠ s.seg → leAt f 5 2 = 0xFFFF → octAt f 7 = 0x0D → octAt f 12 = 1 → s.slot (s.rd PLM_SEC_PKSLOT0) = some k → k.allows opLink ctxPlm = true →
    opened5 k.key (ccmNonce (leAt f 3 2) 0x0800 (leAt f 8 4) 5) f 13 = some p → octAt p 0 = 0xBD → e = s.event 80 0 0x08 (le 2 (leAt f 3 2) ++ slice p 6 8) s.plcStamp → (s.dcqOffer 10 e).2 = true →
      Answers (.plcFrameReceive f ⟨true, false, air⟩ v snr) s (fun t => t.rd PLM_STATUS_FOREIGN = 1 ∧ t.sent = s.sent ∧ t.waiting = s.waiting ++ [⟨e, some 10, e.words⟩])) ∧
  (∀ (s : State) (n : Fin 2048) (p : Int) (c e : Nat), s.up = true → s.reportCell n.val = some c → e = s.cellStart p (c + 1) → s.plcPast e = true → s.rd PLM_CTRL_RUNST = 1 → bit (s.plcEntry n.val) 31 = true →
    s.plcReports n.val p = true → (s.plcLink n.val).judgedBy p = false →
      (p ∈ (s.plcLink n.val).met ∨ (∃ a b : Nat, s.rfl.quiet = some (a, b) ∧ a < e ∧ s.cellStart p c < b) → Answers (.plcReportMiss n p) s (fun t => t.regs = s.regs ∧ t.waiting = s.waiting)) ∧
      (p ∉ (s.plcLink n.val).met → (∀ a b : Nat, s.rfl.quiet = some (a, b) → e ≤ a ∨ b ≤ s.cellStart p c) →
        (s.rd (PLM_LTAB_W3_MISS n.val) < 2 → Answers (.plcReportMiss n p) s (fun t =>
          t.rd (PLM_LTAB_W3_MISS n.val) = s.rd (PLM_LTAB_W3_MISS n.val) + 1 ∧ t.rd (PLM_LTAB_W3_PRES n.val) = s.rd (PLM_LTAB_W3_PRES n.val) ∧ t.waiting = s.waiting)) ∧
        (s.rd (PLM_LTAB_W3_MISS n.val) = 2 → Answers (.plcReportMiss n p) s (fun t =>
          t.rd (PLM_LTAB_W3_MISS n.val) = 3 ∧ t.rd (PLM_LTAB_W3_PRES n.val) = 0 ∧ t.rd PLM_STATUS_SILENT = 1 ∧
          t.waiting = s.waiting ++ [⟨s.event 80 0 0x06 (le 2 n.val ++ [octet 0]) (timeOfNs e), none, 0⟩]))))

/-- R210 to R213, R217, R219, R220: START and BASELINE arm a run where REFL_EN is 1, nothing is armed, TSTART lies far enough ahead and a START has its baseline, and otherwise set STARTREJ; ABORT and REFL_EN = 0 disarm an armed run and
end another with ABORT; TSTART opens the quiet window and ends a run whose COND does not hold with MISMATCH; a shot of 4,096 samples is accumulated with its polarity, and one clipped, poisoned or short is repeated up to 16 times and then ABORT; the processing ends a run with its
record, an unstable capture with BASEUNST, and begins the store of a stable one; the store ends with BASEDONE; and the window's end ends a run that is not processed. -/
def Obligations.ReflectRuns : Prop :=
  (∀ (s : State) (l : Lane), s.serves l →
    (∀ n : Nat, s.rd PLM_CTRL_REFL_EN = 1 → s.rflPhase = 0 → s.now + (if s.rd PLM_RFL_CFG_COND = 0 then 100000000 else 7000000000) ≤ s.tStart →
      (s.findBaseline = some n → Answers (.start l) s (fun t => t.rflPhase = 1 ∧ t.rd PLM_RFL_STAT_SHOTS = 0 ∧ t.rd PLM_RFL_RUNS_COUNT = (s.rd PLM_RFL_RUNS_COUNT + 1) % 2 ^ 32 ∧
        t.rfl.run = some ⟨false, n, s.tStart, (s.rd PLM_RFL_RUNS_COUNT + 1) % 65536, 0, [], [], []⟩)) ∧
      (∀ slot : BitVec 3, Answers (.baseline l slot) s (fun t => t.rflPhase = 1 ∧ t.rfl.run = some ⟨true, slot.toNat, s.tStart, (s.rd PLM_RFL_RUNS_COUNT + 1) % 65536, 0, [], [], []⟩))) ∧
    (s.findBaseline = none → exec (.start l) s = .next (s.wr PLM_STATUS_STARTREJ 1)) ∧
    (∀ slot : BitVec 3, s.rd PLM_CTRL_REFL_EN = 0 ∨ s.rflPhase ≠ 0 ∨ s.tStart < s.now + (if s.rd PLM_RFL_CFG_COND = 0 then 100000000 else 7000000000) →
      exec (.start l) s = .next (s.wr PLM_STATUS_STARTREJ 1) ∧ exec (.baseline l slot) s = .next (s.wr PLM_STATUS_STARTREJ 1)) ∧
    (∀ r : ReflectRun, s.rfl.run = some r →
      (s.rflPhase = 1 → Answers (.abort l) s (fun t => t.rfl.run = none ∧ t.rflPhase = 0 ∧ t.waiting = s.waiting)) ∧
      (s.rflPhase ≠ 1 → Answers (.abort l) s (fun t => t.rfl.run = none ∧ t.rflPhase = 0 ∧ t.rd PLM_STATUS_RABORT = 1 ∧
        ∃ q, octAt q 0 = 4 ∧ t.waiting = s.waiting ++ [⟨s.event 81 0 0x01 q s.tb.now, none, 0⟩])) ∧
      (s.rd PLM_CTRL_RUNST_R = 1 ∨ s.rd PLM_CTRL_RUNST_R = 3 → Answers (.reflectDisable l) s (fun t => t.rd PLM_CTRL_REFL_EN = 0 ∧ t.rd PLM_CTRL_RUNST_R = 2 ∧ t.rfl.run = none ∧ t.rflPhase = 0)))) ∧
  (∀ (s : State) (r : ReflectRun), s.up = true → s.rfl.run = some r →
    (∀ noise : List (List Int), s.rflPhase = 1 → r.start ≤ s.now →
      (s.rd MTR_CTRL_RUNST = 1 → bit (s.rd MTR_PHST_VPRES) s.sPath = s.on PLM_RFL_CFG_COND → Answers (.reflectRunStart noise) s (fun t => t.rflPhase = 2 ∧ t.rfl.quietOn = true ∧
        t.rfl.quiet = some (r.start, r.start + s.qCells r.baseline * cellNs) ∧ t.rfl.run = some { r with noise := noise })) ∧
      (s.rd MTR_CTRL_RUNST ≠ 1 ∨ bit (s.rd MTR_PHST_VPRES) s.sPath ≠ s.on PLM_RFL_CFG_COND → Answers (.reflectRunStart noise) s (fun t => t.rflPhase = 0 ∧ t.rfl.quietOn = true ∧ t.rfl.run = none ∧
        t.rd PLM_STATUS_RABORT = 1 ∧ ∃ q, octAt q 0 = 2 ∧ t.waiting = s.waiting ++ [⟨s.event 81 0 0x01 q s.tb.now, none, 0⟩]))) ∧
    (∀ capture : List Int, s.rflPhase = 2 ∨ s.rflPhase = 3 →
      (∀ a b : List Int, s.rd (DCQ_Q_W0_RUNST 12) = 1 → 4096 ≤ capture.length → s.rd PLM_RFL_STAT_SHOTS + 1 < 65536 →
        a = (if r.baseline = true ∧ s.shotsOf true / 2 ≤ s.rd PLM_RFL_STAT_SHOTS then r.accA else addCapture (s.rd PLM_RFL_STAT_SHOTS % 2 == 1) r.accA (capture.take 4096)) →
        b = (if r.baseline = true ∧ s.shotsOf true / 2 ≤ s.rd PLM_RFL_STAT_SHOTS then addCapture (s.rd PLM_RFL_STAT_SHOTS % 2 == 1) r.accB (capture.take 4096) else r.accB) →
        Answers (.shot capture false false) s (fun t => t.rd PLM_RFL_STAT_SHOTS = s.rd PLM_RFL_STAT_SHOTS + 1 ∧ t.rfl.run = some { r with accA := a, accB := b } ∧
          t.rflPhase = if s.rd PLM_RFL_STAT_SHOTS + 1 < s.shotsOf r.baseline then 3 else 4)) ∧
      (∀ clipped poison : Bool, clipped = true ∨ poison = true ∨ capture.length < 4096 →
        (r.repeats < 16 → Answers (.shot capture clipped poison) s (fun t => t.rflPhase = 3 ∧ t.rfl.run = some { r with repeats := r.repeats + 1 } ∧ t.rd PLM_RFL_STAT_SHOTS = s.rd PLM_RFL_STAT_SHOTS)) ∧
        (16 ≤ r.repeats → Answers (.shot capture clipped poison) s (fun t => t.rflPhase = 0 ∧ t.rfl.run = none ∧ t.rd PLM_STATUS_RABORT = 1)))) ∧
    (s.rflPhase = 4 → s.condHolds = true →
      (r.baseline = false → s.baselineValid r.slot = true → Answers .reflectProcess s (fun t => t.rflPhase = 0 ∧ t.rfl.run = none ∧ t.rd PLM_STATUS_RUNDONE = 1 ∧
        ∃ q, (octAt q 0 = 0 ∨ octAt q 0 = 3) ∧ t.waiting = s.waiting ++ [⟨s.event 81 0 0x01 q s.tb.now, none, 0⟩])) ∧
      (r.baseline = true → (s.reflectHalves r.accA r.accB).any (fun y => decide (s.rd PLM_RFL_DET_THR < 2 * y)) = true → Answers .reflectProcess s (fun t =>
        t.rflPhase = 0 ∧ t.rfl.run = none ∧ t.rd PLM_STATUS_BASEUNST = 1 ∧ t.pst = s.pst ∧ t.waiting = s.waiting)) ∧
      (r.baseline = true → (s.reflectHalves r.accA r.accB).any (fun y => decide (s.rd PLM_RFL_DET_THR < 2 * y)) = false → Answers .reflectProcess s (fun t =>
        t.rflPhase = 5 ∧ t.rfl.run = some r ∧ t.rfl.head = (s.baselineRecord r).take 16))) ∧
    (s.rflPhase = 5 → Answers .baselineWriteDone s (fun t => t.rflPhase = 0 ∧ t.rfl.run = none ∧ t.rd PLM_STATUS_BASEDONE = 1 ∧ t.waiting = s.waiting ++ [⟨s.event 81 0 0x02 s.rfl.head s.tb.now, none, 0⟩])) ∧
    (∀ a b : Nat, s.rfl.quiet = some (a, b) → s.rfl.quietOn = true → b ≤ s.now →
      (s.rflPhase = 2 ∨ s.rflPhase = 3 ∨ s.rflPhase = 4 → Answers .quietWindowEnd s (fun t => t.rfl.quietOn = false ∧ t.rfl.run = none ∧ t.rflPhase = 0 ∧ t.rd PLM_STATUS_RABORT = 1)) ∧
      (s.rflPhase = 5 → exec .quietWindowEnd s = .next { s with rfl := { s.rfl with quietOn := false } })))
/-! ### The backhaul ports, Day Rest and the pole bus -/

/-- R222, R223, R230, R234, R242, R243: link up and link down; a half-duplex SGMII word and, in HSR, a mode unlike the other port's set MODEERR; a verify mPacket is sent at link up and each VERIFY_MS, is answered by a respond mPacket, which
verifies preemption, and after the third without an answer it fails; a PAUSE pauses every preemptable class and a PFC frame the classes it names, for their quanta, 0 ending a pause; the quanta run out; the watchdog, which a
PAUSE of its cycle does not prevent, resumes a class and ignores pauses for PWD; and an entry of the duplicate table unused for FORGET is freed.
A command whose condition does not hold does nothing: the model's choice, notes/assumptions/11. -/
def Obligations.LinksAndPauses : Prop :=
  ∀ (s : State) (p : Fin 2), s.up = true →
    (∀ (speed : BitVec 2) (half : Bool), s.rd (BHM_CTRL_RUNST p) = 1 ∨ s.rd (BHM_CTRL_RUNST p) = 3 → s.rd (BHM_CTRL_LINK p) = 0 →
      (s.portMode p ≠ 2 ∨ half = false → Answers (.linkUp p speed half) s (fun t => t.rd (BHM_CTRL_LINK p) = 1 ∧ t.rd (BHM_CTRL_RUNST p) = 1 ∧ t.rd (BHM_STATUS_LINKCHG p) = 1 ∧
        (s.portMode p = 2 → t.rd (BHM_CTRL_SGSPD p) = min 2 speed.toNat) ∧
        (s.ring = 1 → s.rd (BHM_CTRL_LINK (1 - p.val)) = 1 → s.portMode p ≠ s.portMode (1 - p.val) → t.rd (BHM_STATUS_MODEERR p) = 1 ∧ t.portUp p = false) ∧
        (s.ring ≠ 1 → t.portUp p = true) ∧
        (s.rd (BHM_CTRL_PREEMPT p) ≠ 0 → s.rd (BHM_CTRL_VERIFY_DIS p) = 0 → t.sent = s.sent ++ [⟨p, s.now, zeros 60, mCrc (zeros 60), .verify, 0, 0⟩]) ∧
        (s.rd (BHM_CTRL_PREEMPT p) ≠ 0 → s.rd (BHM_CTRL_VERIFY_DIS p) ≠ 0 → t.rd (BHM_CTRL_PVERIFIED p) = 1 ∧ t.sent = s.sent))) ∧
      (s.portMode p = 2 → Answers (.linkUp p speed true) s (fun t => t = s.wr (BHM_STATUS_MODEERR p) 1))) ∧
    (s.rd (BHM_CTRL_LINK p) ≠ 0 → Answers (.linkDown p) s (fun t => t.rd (BHM_CTRL_LINK p) = 0 ∧ t.rd (BHM_STATUS_LINKCHG p) = 1 ∧ t.rd (BHM_CTRL_PVERIFIED p) = 0 ∧ t.rd (BHM_CTRL_RUNST p) = s.rd (BHM_CTRL_RUNST p))) ∧
    ((s.port p).verifying = true →
      (s.elapsed < (s.port p).verifyAt + s.rd (BHM_TCCFG_VERIFY_MS p) * 1000000 → exec (.verifyMpacketTimer p) s = .next s) ∧
      ((s.port p).verifyAt + s.rd (BHM_TCCFG_VERIFY_MS p) * 1000000 ≤ s.elapsed →
        ((s.port p).verifies < 3 → Answers (.verifyMpacketTimer p) s (fun t => t.port p = { s.port p with verifies := (s.port p).verifies + 1, verifyAt := s.elapsed } ∧
          t.sent = s.sent ++ [⟨p, s.now, zeros 60, mCrc (zeros 60), .verify, 0, 0⟩])) ∧
        (3 ≤ (s.port p).verifies → Answers (.verifyMpacketTimer p) s (fun t => t.rd (BHM_STATUS_VERIFYFAIL p) = 1 ∧ (t.port p).verifying = false ∧ t.rd (BHM_CTRL_PVERIFIED p) = s.rd (BHM_CTRL_PVERIFIED p) ∧ t.sent = s.sent))) ∧
      Answers (.respondMpacketReceive p) s (fun t => t.rd (BHM_CTRL_PVERIFIED p) = 1 ∧ (t.port p).verifying = false)) ∧
    (∀ (mask : Byte) (quanta : List Nat) (tc : Fin 8), s.portUp p = true → s.express p tc = false → kvFind (s.port p).ignore tc = none → s.overrun p tc = false →
      (s.rd (BHM_TCCFG_PAUSE_EN p) ≠ 0 → Answers (.pauseReceive p false mask quanta) s (fun t =>
        t.rd (BHM_CNT_COUNT p 16) = (s.rd (BHM_CNT_COUNT p 16) + 1) % 2 ^ 40 ∧
        (nth 0 quanta 0 % 65536 = 0 → kvFind (t.port p).pauses tc = none) ∧
        (nth 0 quanta 0 % 65536 ≠ 0 → ∃ z, kvFind (t.port p).pauses tc = some z ∧ z.until' = s.elapsed + s.quantaNs p (nth 0 quanta 0 % 65536)))) ∧
      (s.rd (BHM_TCCFG_PFC_EN p) ≠ 0 → Answers (.pauseReceive p true mask quanta) s (fun t =>
        t.rd (BHM_CNT_COUNT p 17) = (s.rd (BHM_CNT_COUNT p 17) + 1) % 2 ^ 40 ∧
        (bit mask.toNat tc = false → kvFind (t.port p).pauses tc = kvFind (s.port p).pauses tc) ∧
        (bit mask.toNat tc = true → nth 0 quanta tc % 65536 = 0 → kvFind (t.port p).pauses tc = none) ∧
        (bit mask.toNat tc = true → nth 0 quanta tc % 65536 ≠ 0 → ∃ z, kvFind (t.port p).pauses tc = some z ∧ z.until' = s.elapsed + s.quantaNs p (nth 0 quanta tc % 65536))))) ∧
    (∀ (tc : Fin 8) (z : Pause), kvFind (s.port p).pauses tc = some z →
      (z.until' ≤ s.elapsed → Answers (.pauseExpiry p tc) s (fun t => kvFind (t.port p).pauses tc = none)) ∧
      (∀ (mask : Byte) (quanta : List Nat), s.portUp p = true → s.rd (BHM_TCCFG_PAUSE_EN p) ≠ 0 → z.from' + s.pwd p ≤ z.until' → z.from' + s.pwd p = s.elapsed → Answers (.pauseReceive p false mask quanta) s (fun t =>
        kvFind (t.port p).pauses tc = none ∧ t.rd (BHM_STATUS_PAUSEOVR p) = 1)) ∧
      (z.from' + s.pwd p ≤ z.until' → z.from' + s.pwd p ≤ s.elapsed → Answers (.pauseWatchdogExpiry p tc) s (fun t => kvFind (t.port p).pauses tc = none ∧ t.rd (BHM_STATUS_PAUSEOVR p) = 1 ∧
        t.rd (BHM_CNT_COUNT p 45) = (s.rd (BHM_CNT_COUNT p 45) + 1) % 2 ^ 40 ∧ kvFind (t.port p).ignore tc = some (z.from' + s.pwd p + s.pwd p)))) ∧
    (∀ (src : BitVec 48) (e : DupEntry), kvFind s.bh.dup src.toNat = some e →
      (e.used + s.forget ≤ s.elapsed → Answers (.duplicateEntryForget src) s (fun t => kvFind t.bh.dup src.toNat = none ∧ ∀ k, k ≠ src.toNat → kvFind t.bh.dup k = kvFind s.bh.dup k)) ∧
      (s.elapsed < e.used + s.forget → exec (.duplicateEntryForget src) s = .next s))

/-- R225 to R229, R233, R234, R236 to R238, R241, R242, R245: a good frame for the module is steered to its action, EVENT, SERVICE or DROP, is discarded with RX_OVF where its queue is full, and one for another address is
counted in RX_ADDRFILT; a verify mPacket is answered; in HSR a duplicate is counted in RX_DUP and discarded, and a frame not yet sent out of the other port waits there to be forwarded; a forwarded frame leaves unchanged
and is counted in TX_FWD, one that ended with an error with an inverted FCS and STOMP; TX_TAIL has the descriptors up to it fetched by a running port; a local frame leaves padded and is counted; what leaves as preemptable
leaves in fragments that hold its octets in order; and a descriptor is written back with DONE, its result and its frames. -/
def Obligations.RingFrames : Prop :=
  (∀ (s : State) (p : Fin 2) (symbol : Nat) (f : Octets) (m : RxMeet), s.up = true → s.portUp p = true → m.verify = true → s.rd (BHM_CTRL_PREEMPT p) ≠ 0 → Answers (.bhFrameReceive p symbol f m) s (fun t =>
    t.sent = s.sent ++ [⟨p, s.now, zeros 60, mCrc (zeros 60), .respond, 0, 0⟩] ∧ t.waiting = s.waiting)) ∧
  (∀ (s : State) (p : Fin 2) (symbol : Nat) (stamp : Time) (f : Octets) (m : RxMeet) (e : Event), s.up = true → s.portUp p = true → m.verify = false → m.err = .none → 60 ≤ f.length → f.length + 4 ≤ s.maxRx p →
    ptpAt f = none → stamp = s.ingress p symbol → s.rd BHM0_DR_STAT_STATE = 0 → s.bh.woke ≠ some s.cycles → s.rd FLT_CTRL_COLLECTOR = 0 →
      (s.ring = 0 → s.addressed p f = true → e = s.event (72 + p.val) 0 0x01 (le 2 f.length ++ [octet (s.steer p f).2, octet 0] ++ f) stamp →
        ((s.steer p f).1 = 0 → Answers (.bhFrameReceive p symbol f m) s (fun t => t.rd (BHM_CNT_COUNT p 19) = (s.rd (BHM_CNT_COUNT p 19) + 1) % 2 ^ 40 ∧ t.waiting = s.waiting)) ∧
        ((s.steer p f).1 ≠ 0 → m.full = true ∨ s.dcqFits (2 * p.val) e.words = false → Answers (.bhFrameReceive p symbol f m) s (fun t =>
          t.rd (BHM_CNT_COUNT p 20) = (s.rd (BHM_CNT_COUNT p 20) + 1) % 2 ^ 40 ∧ t.rd (BHM_STATUS_RXOVF p) = 1 ∧ t.rd (BHM_SRX_WR_VALUE p) = s.rd (BHM_SRX_WR_VALUE p))) ∧
        ((s.steer p f).1 = 1 → m.full = false → (s.dcqOffer (2 * p) e).2 = true → Answers (.bhFrameReceive p symbol f m) s (fun t => t.waiting = s.waiting ++ [⟨e, some (2 * p), e.words⟩])) ∧
        ((s.steer p f).1 = 2 → m.full = false → s.dcqFits (2 * p.val) e.words = true → (s.rd (BHM_SRX_WR_VALUE p) + 1) % s.srxSize p ≠ s.rd (BHM_SRX_RD_VALUE p) % s.srxSize p → Answers (.bhFrameReceive p symbol f m) s (fun t =>
          t.rd (BHM_SRX_WR_VALUE p) = (s.rd (BHM_SRX_WR_VALUE p) + 1) % s.srxSize p ∧ t.rd (BHM_STATUS_SRXNEW p) = 1 ∧ t.waiting = s.waiting ∧
          (t.lane s.busLane).sram = memWrite (s.lane s.busLane).sram (s.rd (BHM_SRX_BASE_BASE p) * 32 + s.rd (BHM_SRX_WR_VALUE p) * 2048)
            (le 2 f.length ++ [octet (p.val + 8 * b2n m.poison), octet (s.steer p f).2] ++ le 4 stamp.frac ++ le 8 (ts64 stamp) ++ f)))) ∧
      (s.ring = 0 → s.addressed p f = false → Answers (.bhFrameReceive p symbol f m) s (fun t => t.rd (BHM_CNT_COUNT p 18) = (s.rd (BHM_CNT_COUNT p 18) + 1) % 2 ^ 40 ∧ t.waiting = s.waiting)) ∧
      (s.ring = 1 → hasHsr f = true → beAt f 6 6 ≠ s.macOf p → isPdelay f = false → beAt f 0 6 ≠ s.macOf p →
        ((s.dupTest (beAt f 6 6) (1 + (1 - p.val)) (hsrSeq f)).2.1 = true → s.portUp (1 - p.val) = true → m.fwdFull = false → m.fwdCut = false → s.dcqOpen (fwdQueue (1 - p.val)) = true →
          s.dcqUsed (fwdQueue (1 - p.val)) + frameWords f.length ≤ dcqDepth (fwdQueue (1 - p.val)) → s.addressed p f = false → Answers (.bhFrameReceive p symbol f m) s (fun t =>
            (t.port (1 - p.val)).fwd = (s.port (1 - p.val)).fwd ++ [⟨f, stamp, p.val, false, frameWords f.length⟩] ∧ t.waiting = s.waiting)) ∧
        (∀ e : DupEntry, kvFind s.bh.dup (beAt f 6 6) = some e → (DupWindow.test e.accept (hsrSeq f)).2.1 = false → s.addressed p f = true → Answers (.bhFrameReceive p symbol f m) s (fun t =>
          t.rd (BHM_CNT_COUNT p 21) = (s.rd (BHM_CNT_COUNT p 21) + 1) % 2 ^ 40 ∧ t.waiting = s.waiting ∧ t.rd (BHM_SRX_WR_VALUE p) = s.rd (BHM_SRX_WR_VALUE p))))) ∧
  (∀ (s : State) (p : Fin 2) (symbol : Nat) (m : TxMeet) (x : Forward), s.up = true → s.forwardFirst p = true → s.firstForward p = some x →
    (s.portUp p = true → s.rd TB_CTRL_TC_EN = 0 ∨ ptpType x.octets ≠ some 0 →
      Answers (.hsrForward p symbol m) s (fun t => (t.port p).fwd = (s.port p).fwd.erase x ∧ t.rd (BHM_CNT_COUNT p 40) = (s.rd (BHM_CNT_COUNT p 40) + 1) % 2 ^ 40 ∧
        (x.bad = true ∨ m.poison = true → t.rd (BHM_STATUS_STOMP p) = 1) ∧
        ∃ l : List Transmission, t.sent = s.sent ++ l ∧ (l.map (·.octets)).flatten = x.octets ∧ ∀ y ∈ l, y.medium = p.val) ∧
      (s.express p (s.forwardTc p x.octets) = true ∨ s.rd (BHM_CTRL_PVERIFIED p) = 0 → Answers (.hsrForward p symbol m) s (fun t =>
        t.sent = s.sent ++ [⟨p, s.now, x.octets, if x.bad || m.poison then (crc32 x.octets).xor 0xFFFFFFFF else crc32 x.octets, .whole, 0, 0⟩]))) ∧
    (s.portUp p = false → Answers (.hsrForward p symbol m) s (fun t => t.sent = s.sent ∧ (t.port p).fwd = (s.port p).fwd.erase x ∧ t.rd (BHM_CNT_COUNT p 41) = (s.rd (BHM_CNT_COUNT p 41) + 1) % 2 ^ 40 ∧
      t.rd (BHM_CNT_COUNT p 47) = (s.rd (BHM_CNT_COUNT p 47) + 1) % 2 ^ 40))) ∧
  (∀ (s : State) (l : Lane) (p : Fin 2) (v : Word), s.serves l →
    (s.rd (BHM_CTRL_RUNST p) ≠ 1 → exec (.txTailWrite l p v) s = .next (s.wr (BHM_TX_TAIL_VALUE p) v.toNat)) ∧
    (s.rd (BHM_CTRL_RUNST p) = 1 → s.rd (BHM_TX_HEAD_VALUE p) < s.txSize p → Answers (.txTailWrite l p v) s (fun t =>
      t.rd (BHM_TX_TAIL_VALUE p) = v.toNat % 4096 ∧ t.rd (BHM_TX_HEAD_VALUE p) = v.toNat % 4096 % s.txSize p))) ∧
  (∀ (s : State) (p : Fin 2) (symbol : Nat) (m : TxMeet) (x : TxItem) (f : Octets), s.up = true → s.forwardFirst p = false → s.dcqOpen (1 + 2 * p.val) = true → s.firstLocal p = some x → f = padFrame (s.itemFrame x) →
    (s.portUp p = true → s.ring = 0 → x.owner = none ∨ (txDesc x.desc).op = 0 →
      Answers (.txFrameSend p symbol m) s (fun t => t.rd (BHM_CNT_COUNT p 30) = (s.rd (BHM_CNT_COUNT p 30) + 1) % 2 ^ 40 ∧
        ∃ l : List Transmission, t.sent = s.sent ++ l ∧ (l.map (·.octets)).flatten = f ∧ ∀ y ∈ l, y.medium = p.val) ∧
      (s.express p x.tc = true ∨ s.rd (BHM_CTRL_PVERIFIED p) = 0 → Answers (.txFrameSend p symbol m) s (fun t =>
        t.sent = s.sent ++ [⟨p, s.now, f, if m.poison then (crc32 f).xor 0xFFFFFFFF else crc32 f, .whole, 0, 0⟩]))) ∧
    (s.portUp p = false → Answers (.txFrameSend p symbol m) s (fun t => t.sent = s.sent ∧ t.rd (BHM_CNT_COUNT p 47) = (s.rd (BHM_CNT_COUNT p 47) + 1) % 2 ^ 40))) ∧
  (∀ (s : State) (b : WriteBack) (rest : List WriteBack), s.up = true → s.bh.backs = b :: rest → b.ring < 2 → Answers .descriptorWriteback s (fun t => t.bh = { s.bh with backs := rest } ∧
    (t.lane s.busLane).sram = memWrite (s.lane s.busLane).sram (s.rd (BHM_TX_BASE_BASE b.ring) * 32 + 32 * b.index + 28) (le 2 (1 + 2 * b.result) ++ le 2 b.frames) ∧ (b.irq = true → t.rd (BHM_STATUS_TXDONE b.ring) = 1)))

/-- R247 to R249, R251, R252, R402: DR_CMD begins an entry into Day Rest where it may, and sets DRREJ otherwise; network time at DR_WAKE_T ends the rest with the Sequencer started again, or cancels an entry; HEARTBEAT is inverted in REST at
a second divisible by 4; and on the pole bus a good frame of an enabled node becomes an event and another is counted, a frame defers to carrier, leaves padded after the gap and is written back, a collision waits r slots below 2^min(n, 10), the sixteenth or a late one ends the
frame, and the backoff ends after its slots.
A command whose condition does not hold does nothing: the model's choice, notes/assumptions/11. -/
def Obligations.DayRestAndPoleBus : Prop :=
  (∀ (s : State) (l : Lane), s.serves l →
    (s.crzOn = true → s.rd LSC_CTRL_SPLIT = 0 → (∀ m, s.role m ≠ roleJoining ∧ s.role m ≠ roleBist) → s.rd BHM0_DR_STAT_STATE = 0 → s.rd BHM0_DR_WAKE_T_TEN ≠ 0 ∨ (∃ n, n < 8 ∧ s.rd (BHM0_WP_W4_EN n) ≠ 0) →
      exec (.enter l 0xDA7E#16 true) s = .next (s.wr BHM0_DR_STAT_STATE 1)) ∧
    (s.crzOn = false ∨ s.rd LSC_CTRL_SPLIT ≠ 0 ∨ s.rd BHM0_DR_STAT_STATE ≠ 0 ∨ (∃ m, s.role m = roleJoining ∨ s.role m = roleBist) → exec (.enter l 0xDA7E#16 true) s = .next (s.wr (BHM_STATUS_DRREJ 0) 1)) ∧
    (∀ key : BitVec 16, key ≠ 0xDA7E#16 → ∀ e, exec (.enter l key e) s = .next s)) ∧
  (∀ s : State, s.up = true → s.rd BHM0_DR_WAKE_T_TEN ≠ 0 → s.rd BHM0_DR_WAKE_T_T10 * 10000000 ≤ s.now →
    (s.rd BHM0_DR_STAT_STATE = 2 → s.crz.rest = true → Answers .drWakeTime s (fun t => t.rd BHM0_DR_STAT_STATE = 0 ∧ t.rd BHM0_DR_STAT_TIME = 1 ∧ t.rd BHM0_DR_STAT_CANCEL = 0 ∧ t.rd (BHM_STATUS_DRWAKE 0) = 1 ∧
      t.crz.rest = false ∧ t.crz.oldest = s.now / s.P + 1 ∧ t.crz.first = true ∧ t.lsc.laneClocks = true ∧ t.lnu = s.lnu ∧ t.escA = s.escA ∧ t.flt = s.flt)) ∧
    (s.rd BHM0_DR_STAT_STATE = 1 → s.crz.rest = false → Answers .drWakeTime s (fun t => t.rd BHM0_DR_STAT_STATE = 0 ∧ t.rd BHM0_DR_STAT_CANCEL = 1 ∧ t.crz = s.crz ∧ t.lsc = s.lsc))) ∧
  (∀ s : State, s.up = true → s.rd BHM0_DR_STAT_STATE = 2 → s.saf.drained = true → s.tb.now.sec % 4 = 0 → s.saf.restSecond ≠ some s.tb.now.sec → s.inService .A = true ∨ s.inService .B = true →
    exec .heartbeatRestToggle s = .next { s with saf := { s.saf with level := !s.saf.level, restSecond := some s.tb.now.sec } }) ∧
  (∀ (s : State) (stamp : Time) (f : Octets), s.up = true → s.rd PBM_CTRL_RUNST = 1 → stamp = s.replica repPole → 60 ≤ f.length → f.length + 4 ≤ clampN 64 2000 (s.rd PBM_RXCFG_MAXRX) →
    (∀ n : Nat, s.poleNode (beAt f 6 6) = some n → (s.dcqOffer 4 (s.event 74 n 0x01 (le 2 f.length ++ [octet 255, octet 0] ++ f) stamp)).2 = true → Answers (.pbFrameReceive f true) s (fun t =>
      t.waiting = s.waiting ++ [⟨s.event 74 n 0x01 (le 2 f.length ++ [octet 255, octet 0] ++ f) stamp, some 4, (s.event 74 n 0x01 (le 2 f.length ++ [octet 255, octet 0] ++ f) stamp).words⟩])) ∧
    (s.poleNode (beAt f 6 6) = none → Answers (.pbFrameReceive f true) s (fun t => t.rd PBM_STATUS_UNKNOWN = 1 ∧ t.rd (PBM_CNT_COUNT 5) = (s.rd (PBM_CNT_COUNT 5) + 1) % 2 ^ 40 ∧ t.waiting = s.waiting)) ∧
    Answers (.pbFrameReceive f false) s (fun t => t.rd (PBM_CNT_COUNT 2) = (s.rd (PBM_CNT_COUNT 2) + 1) % 2 ^ 40 ∧ t.waiting = s.waiting)) ∧
  (∀ (s : State) (x : TxItem) (rest : List TxItem), s.up = true → s.bh.pole.items = x :: rest → s.bh.pole.backoff = none →
    (∀ (i : Nat) (f : Octets), s.rd PBM_CTRL_RUNST = 1 → s.rd PBM_CTRL_CRS = 0 → s.bh.pole.gapUntil ≤ s.elapsed → s.dcqOpen 5 = true → x.owner = some (2, i) → f = padFrame (s.itemFrame x) →
      Answers (.pbFrameTransmit false false) s (fun t => t.sent = s.sent ++ [⟨2, s.now, f, crc32 f, .whole, 0, 0⟩] ∧ t.bh.pole = ⟨rest, 0, none, false, s.elapsed + (f.length + 12) * 800 + 9600⟩ ∧
        t.bh.backs = s.bh.backs ++ [⟨2, i, 0, 1, (txDesc x.desc).irq⟩] ∧ t.rd (PBM_CNT_COUNT 8) = (s.rd (PBM_CNT_COUNT 8) + 1) % 2 ^ 40) ∧
      Answers (.pbFrameTransmit false true) s (fun t => t.sent = s.sent ++ [⟨2, s.now, f, (crc32 f).xor 0xFFFFFFFF, .whole, 0, 0⟩] ∧ t.bh.pole.items = rest ∧
        t.bh.backs = s.bh.backs ++ [⟨2, i, 2, 0, (txDesc x.desc).irq⟩])) ∧
    (∀ bad : Bool, s.rd PBM_CTRL_RUNST = 1 → s.bh.pole.deferred = false → Answers (.pbFrameTransmit true bad) s (fun t => t.sent = s.sent ∧ t.rd PBM_CTRL_CRS = 1 ∧ t.bh.pole = { s.bh.pole with deferred := true } ∧
      t.rd (PBM_CNT_COUNT 9) = (s.rd (PBM_CNT_COUNT 9) + 1) % 2 ^ 40)) ∧
    (s.bh.pole.tries < 15 → Answers (.pbCollision false) s (fun t => t.sent = s.sent ∧ t.rd (PBM_CNT_COUNT 10) = (s.rd (PBM_CNT_COUNT 10) + 1) % 2 ^ 40 ∧
      ∃ r, r < 2 ^ min (s.bh.pole.tries + 1) 10 ∧ t.bh.pole = { s.bh.pole with tries := s.bh.pole.tries + 1, backoff := some (r, s.elapsed) })) ∧
    (15 ≤ s.bh.pole.tries → Answers (.pbCollision false) s (fun t => t.rd PBM_STATUS_EXCOLL = 1 ∧ t.bh.pole = ⟨rest, 0, none, false, s.bh.pole.gapUntil⟩)) ∧
    Answers (.pbCollision true) s (fun t => t.rd PBM_STATUS_LATECOLL = 1 ∧ t.bh.pole = ⟨rest, 0, none, false, s.bh.pole.gapUntil⟩)) ∧
  (∀ (s : State) (r t0 : Nat), s.up = true → s.bh.pole.backoff = some (r, t0) →
    (t0 + r * 51200 ≤ s.elapsed → exec .pbBackoffExpiry s = .next { s with bh := { s.bh with pole := { s.bh.pole with backoff := none } } }) ∧
    (s.elapsed < t0 + r * 51200 → exec .pbBackoffExpiry s = .next s))
/-! ### Metering and SF1 -/

/-- R257, R262, R270, R272, R279: a sample of an instant not yet sampled is kept first, with the 650 before it; a phase without a crossing for the timeout enters FREE with ZCTO, a new window beginning at its end; in FREE a window ends after
one nominal cycle; the summaries formed are registered through DCQ 13; metering starts at a Crease boundary after 64 samples, every phase in FREE with FVALID 0; and a write of EN = 0 stops it, with no window left open and VPRES 0.
A command whose condition does not hold does nothing: the model's choice, notes/assumptions/11. -/
def Obligations.MeteringWindows : Prop :=
  (∀ (s : State) (raw : List Int), s.up = true →
    (s.rd MTR_CTRL_RUNST = 1 ∨ s.rd MTR_CTRL_RUNST = 3 → s.mtr.lastN ≠ some (s.now / sampleNs) → Answers (.meteringSample raw) s (fun t =>
      t.mtr.lastN = some (s.now / sampleNs) ∧ t.mtr.hist.map (·.n) = s.now / sampleNs :: (s.mtr.hist.take 650).map (·.n))) ∧
    (s.rd MTR_CTRL_RUNST = 2 → s.mtr.lastN ≠ some (s.now / sampleNs) → Answers (.meteringSample raw) s (fun t =>
      t.mtr.windows = [] ∧ t.rd MTR_CTRL_RUNST = (if s.rd MTR_CTRL_EN = 1 then 3 else 0) ∧ (∀ p : Nat, p < 3 → t.phBit MTR_PHST_VPRES p = false))) ∧
    (s.rd MTR_CTRL_RUNST = 0 ∨ s.mtr.lastN = some (s.now / sampleNs) → exec (.meteringSample raw) s = .next s)) ∧
  (∀ (s : State) (p : Fin 3), s.up = true → s.rd MTR_CTRL_RUNST = 1 → p.val < s.mtr.phases.length →
    (s.phBit MTR_PHST_FREE p = false → s.zcTimeout ≤ s.since p → Answers (.crossingTimeout p) s (fun t =>
      t.phBit MTR_PHST_FREE p = true ∧ t.rd MTR_STATUS_ZCTO = 1 ∧ t.rd MTR_TO_CNT_COUNT = (s.rd MTR_TO_CNT_COUNT + 1) % 2 ^ 32 ∧ (t.phase p).ts = s.freeEnd)) ∧
    (s.phBit MTR_PHST_FREE p = true ∨ s.since p < s.zcTimeout → exec (.crossingTimeout p) s = .next s) ∧
    (s.phBit MTR_PHST_FREE p = true → s.nominal ≤ s.since p → Answers (.freeWindowEnd p) s (fun t => t.phBit MTR_PHST_FREE p = true ∧ (t.phase p).ts = s.freeEnd)) ∧
    (s.phBit MTR_PHST_FREE p = false ∨ s.since p < s.nominal → exec (.freeWindowEnd p) s = .next s)) ∧
  (∀ s : State, s.up = true →
    Answers .creaseSummary s (fun t => t.mtr.due = []) ∧
    (∀ (k : Nat) (x : Octets), s.rd MTR_CTRL_RUNST ≠ 1 → s.mtr.due = [(k, x)] →
      (s.dcqOffer 13 (s.event 84 0 0x10 x (timeOfNs ((k + 1) * s.P - 1)))).2 = true → Answers .creaseSummary s (fun t => t.waiting = s.waiting ++
        [⟨s.event 84 0 0x10 x (timeOfNs ((k + 1) * s.P - 1)), some 13, (s.event 84 0 0x10 x (timeOfNs ((k + 1) * s.P - 1))).words⟩]))) ∧
  (∀ s : State, s.up = true → s.rd MTR_CTRL_RUNST = 3 →
    (64 ≤ s.mtr.settled → s.now % s.P < sampleNs → Answers .meteringStart s (fun t => t.rd MTR_CTRL_RUNST = 1 ∧ t.rd MTR_PHST_FREE = 7 ∧ t.rd MTR_PHST_FVALID = 0 ∧ t.mtr.startDue = true ∧
      t.mtr.open' = s.creaseOf s.now ∧ t.mtr.windows = [])) ∧
    (s.mtr.settled < 64 ∨ sampleNs ≤ s.now % s.P → exec .meteringStart s = .next s)) ∧
  (∀ (s : State) (l : Lane) (raw : List Int), s.serves l → s.rd MTR_CTRL_RUNST = 1 ∨ s.rd MTR_CTRL_RUNST = 3 → s.mtr.lastN ≠ some (s.now / sampleNs + 1) → Answers (.meteringStop l raw) s (fun t =>
    t.rd MTR_CTRL_EN = 0 ∧ t.rd MTR_CTRL_RUNST = 0 ∧ t.mtr.windows = [] ∧ t.rd MTR_CTRL_MODE = s.rd MTR_CTRL_MODE ∧ (∀ p : Nat, p < 3 → t.phBit MTR_PHST_VPRES p = false)))

/-- R276, R277, R401: path A drives its output once its filter has stood above 0.8 × IΔn for 10 ms, and path B at the 80th consecutive sample at which the mean square of its last 320 stands above it, unless DETECT gates the path; a path that is
no longer qualified releases its output once it has driven it for 200 ms; several samples of path B are their sequence; and 100 ms after one path asserted alone SF1DIS is set in MTR and SAF, but while a proof test suspends it.
A command whose condition does not hold does nothing: the model's choice, notes/assumptions/11. -/
def Obligations.TripsDrive : Prop :=
  (∀ (s : State) (current time : Nat), s.mtr.sf1RunA = true →
    (s.sf1Above current = true → 10000000 ≤ s.mtr.sf1Timer + time → s.sf1Gated 0 = false → s.rd MTR_SF1_PATHA = 0 → Answers (.sf1PathATrip current time) s (fun t =>
      t.rd MTR_SF1_PATHA = 1 ∧ t.rd MTR_STATUS_TRIP_A = 1 ∧ t.mtr.sf1A = some 0)) ∧
    (s.sf1Above current = false ∨ s.mtr.sf1Timer + time < 10000000 ∨ s.sf1Gated 0 = true ∨ s.rd MTR_SF1_PATHA ≠ 0 → Answers (.sf1PathATrip current time) s (fun t =>
      t.regs = s.regs ∧ t.mtr.sf1Timer = if s.sf1Above current then s.mtr.sf1Timer + time else 0)) ∧
    (∀ t0 : Nat, s.mtr.sf1A = some t0 → s.sf1Above current = false ∨ s.mtr.sf1Timer + time < 10000000 →
      (200000000 ≤ t0 + time → Answers (.sf1TripRelease (.analog current time)) s (fun t => t.rd MTR_SF1_PATHA = 0 ∧ t.mtr.sf1A = none ∧ t.rd MTR_SF1_PATHB = s.rd MTR_SF1_PATHB)) ∧
      (t0 + time < 200000000 → Answers (.sf1TripRelease (.analog current time)) s (fun t => t.regs = s.regs ∧ t.mtr.sf1A = some (t0 + time)))) ∧
    (∀ t0 : Nat, s.mtr.sf1A = some t0 → s.rd MTR_SF1_PATHA = 1 → s.sf1Above current = true → 10000000 ≤ s.mtr.sf1Timer + time →
      Answers (.sf1TripRelease (.analog current time)) s (fun t => t.regs = s.regs ∧ t.mtr.sf1A = some (t0 + time)))) ∧
  (∀ (s : State) (x : Int) (m : List Int), s.mtr.sf1RunB = true → (x :: s.mtr.sf1Hist).take 320 = m →
    (s.sf1Square m = true → 79 ≤ s.mtr.sf1Count → s.sf1Gated 1 = false → s.rd MTR_SF1_PATHB = 0 → Answers (.sf1PathBTrip [x]) s (fun t =>
      t.rd MTR_SF1_PATHB = 1 ∧ t.rd MTR_STATUS_TRIP_B = 1 ∧ t.mtr.sf1B = some 0)) ∧
    (s.sf1Square m = false ∨ s.mtr.sf1Count < 79 ∨ s.sf1Gated 1 = true ∨ s.rd MTR_SF1_PATHB ≠ 0 → Answers (.sf1PathBTrip [x]) s (fun t =>
      t.regs = s.regs ∧ t.mtr.sf1Hist = m ∧ t.mtr.sf1Count = if s.sf1Square m then s.mtr.sf1Count + 1 else 0)) ∧
    (∀ t0 : Nat, s.mtr.sf1B = some t0 → s.sf1Square m = false ∨ s.mtr.sf1Count < 79 →
      (200000000 ≤ t0 + 62500 → Answers (.sf1TripRelease (.digital [x])) s (fun t => t.rd MTR_SF1_PATHB = 0 ∧ t.mtr.sf1B = none ∧ t.rd MTR_SF1_PATHA = s.rd MTR_SF1_PATHA)) ∧
      (t0 + 62500 < 200000000 → Answers (.sf1TripRelease (.digital [x])) s (fun t => t.regs = s.regs ∧ t.mtr.sf1B = some (t0 + 62500)))) ∧
    (∀ t0 : Nat, s.mtr.sf1B = some t0 → s.rd MTR_SF1_PATHB = 1 → s.sf1Square m = true → 79 ≤ s.mtr.sf1Count →
      Answers (.sf1TripRelease (.digital [x])) s (fun t => t.regs = s.regs ∧ t.mtr.sf1B = some (t0 + 62500)))) ∧
  (∀ (s t : State) (x : Int) (l : List Int), exec (.sf1PathBTrip [x]) s = .next t →
    exec (.sf1PathBTrip (x :: l)) s = exec (.sf1PathBTrip l) t ∧ exec (.sf1TripRelease (.digital (x :: l))) s = exec (.sf1TripRelease (.digital l)) t) ∧
  (∀ (s : State) (current time : Nat) (l : List Int), (s.mtr.sf1RunA = false → exec (.sf1PathATrip current time) s = .next s) ∧ (s.mtr.sf1RunB = false → exec (.sf1PathBTrip l) s = .next s)) ∧
  (∀ (s : State) (q t0 : Nat), s.up = true → s.mtr.sf1First = some (q, t0) →
    (s.saf.test = none → s.saf.quietUntil ≤ s.elapsed → t0 + 100000000 ≤ s.elapsed → Answers .sf1DisagreeTimeout s (fun t => t.rd MTR_STATUS_SF1DIS = 1 ∧ t.rd SAF_STATUS_SF1DIS = 1 ∧ t.mtr.sf1First = none)) ∧
    (s.saf.test ≠ none ∨ s.elapsed < s.saf.quietUntil ∨ s.elapsed < t0 + 100000000 → exec .sf1DisagreeTimeout s = .next s))

/-- R278: the first write of THR after a power-on reset sets it, and a later one is ignored; a pin or system reset changes neither THR nor LOCKED; a power-on reset clears both, and THR 0 selects 30 mA. -/
def Obligations.TripThresholdOnce : Prop :=
  (∀ (s : State) (l : Lane) (v : Word), s.serves l →
    (s.rd MTR_SF1_LOCKED = 0 → Answers (.sf1ThrWrite l v) s (fun t => t.rd MTR_SF1_THR = v.toNat % 4 ∧ t.rd MTR_SF1_LOCKED = 1)) ∧
    (s.rd MTR_SF1_LOCKED ≠ 0 → exec (.sf1ThrWrite l v) s = .next s)) ∧
  (∀ s : State,
    Answers .pinReset s (fun t => t.rd MTR_SF1_THR = s.rd MTR_SF1_THR ∧ t.rd MTR_SF1_LOCKED = s.rd MTR_SF1_LOCKED) ∧
    (∀ (l : Lane) (key : BitVec 16) (b : Bool), s.serves l → Answers (.sysrst l key b) s (fun t => t.rd MTR_SF1_THR = s.rd MTR_SF1_THR ∧ t.rd MTR_SF1_LOCKED = s.rd MTR_SF1_LOCKED)) ∧
    Answers .nolaneReset s (fun t => t.rd MTR_SF1_THR = s.rd MTR_SF1_THR ∧ t.rd MTR_SF1_LOCKED = s.rd MTR_SF1_LOCKED) ∧
    Answers .powerOnReset s (fun t => t.rd MTR_SF1_THR = 0 ∧ t.rd MTR_SF1_LOCKED = 0) ∧
    (s.rd MTR_SF1_THR = 0 → s.idn = 300))
/-! ### The persistent store and the recorder -/

/-- R282 to R285: a store that is not 32 bits wide and aligned faults with ALIGN and its address; one in service context is performed where the table of partitions permits it to lanes, and otherwise faults with WPERR and its address, the store
unchanged; one by a lane that is not Active is counted and not performed; one that the PMP regions do not permit, or an atomic one, faults; the oldest word of the writer whose turn it is, round robin, reaches its cells and is counted, EVR and
PLM offering their next word first; an aligned load returns the newest value written, corrected errors being counted in PST_CE_CNT, and an uncorrected error faults and is counted in PST_UE_CNT; and a read of PST_DRAIN completes with no word of the
lane left in the buffer.
A command whose condition does not hold does nothing: the model's choice, notes/assumptions/11. -/
def Obligations.PersistentStoreAccess : Prop :=
  (∀ (s : State) (l : Lane) (o : Nat), s.pstAllowed (.lane l) o = true ↔
    (0x300000 ≤ o ∧ o < 0x340000 ∧ s.rd PST_SETSEL_ACT = 0 ∧ s.rd PST_SETSEL_TRIAL = 0) ∨ (0x340000 ≤ o ∧ o < 0x380000 ∧ s.rd PST_SETSEL_ACT ≠ 0 ∧ s.rd PST_SETSEL_TRIAL = 0) ∨
    (0x380000 ≤ o ∧ o < 0x3C0000) ∨ (0xD80000 ≤ o ∧ o < 0x1000000)) ∧
  (∀ (s u : State) (l : Lane) (a : Word) (size : Nat) (v : Word) (m : WriteMeet), s.laneRuns l = true → 0x20000000 ≤ a.toNat → a.toNat < 0x21000000 → u = s.enterCore l m.core →
    (u.coreMay l true a.toNat size = false ∨ m.atomic ≠ none → Answers (.pstStore l a size v m) s (fun t => (t.lane l).trap = some .storeFault ∧ t.pst = s.pst ∧ t.regs = s.regs)) ∧
    (u.coreMay l true a.toNat size = true → m.atomic = none → size ≠ 4 ∨ a.toNat % 4 ≠ 0 →
      Answers (.pstStore l a size v m) s (fun t => t.rd PST_STATUS_ALIGN = 1 ∧ t.rd PST_WERR_ADDR = a.toNat ∧ (t.lane l).trap = some .storeFault ∧ t.pst = s.pst)) ∧
    (u.coreMay l true a.toNat size = true → m.atomic = none → size = 4 → a.toNat % 4 = 0 → m.parity = false → (s.lane l).det = false →
      (s.actsActive l = true → s.pstAllowed (.lane l) (a.toNat - 0x20000000) = true → Answers (.pstStore l a size v m) s (fun t =>
        t.pstWord (a.toNat - 0x20000000) = v.toNat ∧ (t.lane l).trap = (s.lane l).trap ∧ t.rd PST_STATUS_WPERR = s.rd PST_STATUS_WPERR)) ∧
      (s.actsActive l = true → s.pstAllowed (.lane l) (a.toNat - 0x20000000) = false → Answers (.pstStore l a size v m) s (fun t =>
        t.pst = s.pst ∧ t.rd PST_STATUS_WPERR = 1 ∧ t.rd PST_WERR_ADDR = a.toNat ∧ (t.lane l).trap = some .storeFault)) ∧
      (s.actsActive l = false → s.rd LSC_CTRL_SPLIT = 0 → Answers (.pstStore l a size v m) s (fun t =>
        t.pst = s.pst ∧ t.rd (LSC_SVC_WCNT_COUNT l) = min (2 ^ 32 - 1) (s.rd (LSC_SVC_WCNT_COUNT l) + 1))))) ∧
  (∀ s : State, (∀ (p : Nat) (x : Nat × Nat) (ws : List (Nat × Nat)), s.evr.closing ≠ some (p, x :: ws)) → s.rfl.store = [] →
    (s.pst.buffer = [] → exec .pstCellWrite s = .next s) ∧
    (∀ (i : Nat) (w : Writer) (x : PstWord), i < 8 → nth .rld pstWriters ((s.pst.turn + i) % 8) = w → (∀ j < i, s.pstHas (nth .rld pstWriters ((s.pst.turn + j) % 8)) = false) →
      s.pst.buffer.find? (fun y => y.writer == w) = some x → Answers .pstCellWrite s (fun t =>
        t.pst = ⟨memWrite s.pst.cells x.offset (le 4 x.value), takeWord w s.pst.buffer, ((s.pst.turn + i) % 8 + 1) % 8⟩ ∧ t.rd PST_WORDS_COUNT = (s.rd PST_WORDS_COUNT + 1) % 2 ^ 48))) ∧
  (∀ (s : State) (p o v : Nat) (ws : List (Nat × Nat)), s.pst.buffer.length < 64 →
    (s.pstHas .evr = false → s.evr.closing = some (p, (o, v) :: ws) → exec .pstCellWrite s = exec .pstCellWrite { s.pstEnter .evr o v with evr := { s.evr with closing := some (p, ws) } }) ∧
    (s.pstHas .plm = false → s.rfl.store = (o, v) :: ws → s.evr.closing = none → exec .pstCellWrite s = exec .pstCellWrite { s.pstEnter .plm o v with rfl := { s.rfl with store := ws } })) ∧
  (∀ (s : State) (w : Writer) (p n : Nat), w ≠ .evr → w ≠ .plm → s.pstAlone w p n → Answers .pstCellWrite s (fun t => t.pstOctets p n = s.pstOctets p n)) ∧
  (∀ (s u : State) (l : Lane) (a : Word) (size : Nat) (c : CoreMeet), s.laneRuns l = true → size = 1 ∨ size = 2 ∨ size = 4 ∨ size = 8 → 0x20000000 ≤ a.toNat → a.toNat + size ≤ 0x21000000 → u = s.enterCore l c →
    (a.toNat % size = 0 → u.coreMay l false a.toNat size = true →
      Answers (.pstRead l a size c .clean) s (fun t => (t.lane l).data = leVal (s.pstOctets (a.toNat - 0x20000000) size) ∧ t.pst = s.pst ∧ t.regs = s.regs) ∧
      Answers (.pstRead l a size c .corrected) s (fun t => (t.lane l).data = leVal (s.pstOctets (a.toNat - 0x20000000) size) ∧ t.pst = s.pst ∧ t.rd PST_STATUS_CE = 1 ∧
        t.rd PST_CE_CNT_COUNT = (s.rd PST_CE_CNT_COUNT + 1) % 2 ^ 32) ∧
      Answers (.pstRead l a size c .uncorrected) s (fun t => (t.lane l).data = (s.lane l).data ∧ (t.lane l).trap = some .loadFault ∧ t.rd PST_STATUS_UE = 1 ∧
        t.rd PST_UE_CNT_COUNT = (s.rd PST_UE_CNT_COUNT + 1) % 2 ^ 32)) ∧
    (a.toNat % size = 0 → u.coreMay l false a.toNat size = false → ∀ m : PstMeet, Answers (.pstRead l a size c m) s (fun t => (t.lane l).trap = some .loadFault ∧ (t.lane l).data = (s.lane l).data ∧ t.pst = s.pst)) ∧
    (a.toNat % size ≠ 0 → ∀ m : PstMeet, Answers (.pstRead l a size c m) s (fun t => (t.lane l).trap = some .loadMisaligned ∧ (t.lane l).data = (s.lane l).data ∧ t.pst = s.pst))) ∧
  (∀ (s : State) (l : Lane), s.laneRuns l = true → Answers (.pstDrainRead l false) s (fun t => (∀ x ∈ t.pst.buffer, x.writer ≠ .lane l) ∧ (t.lane l).data = 0 ∧
    ∀ p n : Nat, s.pstAlone (.lane l) p n → t.pstOctets p n = s.pstOctets p n))

/-- R283, R286, R287, R291, R293: OPSEC rises by one at each second of VIN, through every reset but the power-on reset, where no other writer's word for it waits in the buffer, and wraps with CNTWRAP; the writes of a closed period end with RECDONE,
its index and its count, every word in the cells; and a framed record that a writer writes alone is valid once its writes have been made, whatever stood there.
A command whose condition does not hold does nothing: the model's choice, notes/assumptions/11. -/
def Obligations.RecorderWrites : Prop :=
  (∀ s : State, s.sys.por = false → s.sys.oscStop = false → Memory.wf s.pst.cells = true → (∀ w ∈ s.pst.buffer, w.offset + 4 ≤ 0x3D1004 ∨ 0x3D1008 ≤ w.offset) → Answers .opsecTick s (fun t =>
    t.pstWord 0x3D1004 = (s.pstWord 0x3D1004 + 1) % 2 ^ 32 ∧ (s.pstWord 0x3D1004 = 2 ^ 32 - 1 → t.rd PST_STATUS_CNTWRAP = 1))) ∧
  (∀ s : State, s.up = true →
    (∀ (p : Nat) (ws : List (Nat × Nat)), s.evr.closing = some (p, ws) → (∀ x ∈ s.pst.buffer, x.writer = .evr) → s.rfl.store = [] → Answers .recorderWriteDone s (fun t =>
      t.evr = { s.evr with closing := none } ∧ t.pst.buffer = [] ∧
      t.pst.cells = (s.pst.buffer.map (fun x : PstWord => (x.offset, x.value)) ++ ws).foldl (fun m w => memWrite m w.1 (le 4 w.2)) s.pst.cells ∧
      t.rd EVR_STATUS_RECDONE = 1 ∧ t.rd EVR_LAST_IDX = p % 2 ^ 64 ∧ t.rd EVR_REC_CNT_COUNT = (s.rd EVR_REC_CNT_COUNT + 1) % 2 ^ 32)) ∧
    (s.evr.closing = none → exec .recorderWriteDone s = .next s)) ∧
  (∀ (s : State) (w : Writer) (o : Nat) (seq : Bool) (r : Octets), Memory.wf s.pst.cells = true → (∀ x ∈ s.pst.buffer, x.writer = w) →
    (∀ (p : Nat) (x : Nat × Nat) (ws : List (Nat × Nat)), s.evr.closing ≠ some (p, x :: ws)) → s.rfl.store = [] → 64 ≤ r.length → r.length % 4 = 0 → (s.pstWords w (frameWrites o seq r)).recordValid o r.length = true)
/-! ### The real-time clock -/

/-- R300, R301, R302, R306 to R314, R317: the second tick moves the calendar by one second, and by one hour more with ZONE by 4 where an hour command is armed, wrapping past either end of its range with YWRAP; an alarm that then matches sets its
flag and applies its action, over which a PON command of the cycle stands; nothing moves while the oscillator stands, nor at a tick in the cycle of a commit or of a mark; a trim step adds or takes one count once TRIM has brought it; a mark at a
change of SEC that is acted on loads the calendar with the expected one, the prescaler with 2 and ERR, and clears OSCSTOP; and it acts as the tick of its cycle.
What falls in one RTC cycle is the model's reading, notes/assumptions/57, and a command whose condition does not hold does nothing by its choice, notes/assumptions/11. -/
def Obligations.CalendarRuns : Prop :=
  (∀ s : State, s.rtc.stopped = false → s.rtcCycle.commit = false → s.rtcCycle.mark = false → s.calendar < calendarDays * 86400 →
    (s.rtc.armed = none → Answers .rtcSecondTick s (fun t => t.calendar = (s.calendar + 1) % (calendarDays * 86400) ∧ t.rd RTC_DATE_WDAY = (t.calendar / 86400 + 5) % 7 ∧ t.rtc.prescaler = 0 ∧
      (s.calendar + 1 = calendarDays * 86400 → t.rd RTC_STATUS_YWRAP = 1 ∧ t.rd RTC_DATE_YEAR = 0 ∧ t.rd RTC_DATE_MONTH = 1 ∧ t.rd RTC_DATE_DAY = 1 ∧ t.rd RTC_DATE_WDAY = 5) ∧
      (t.alarmMatches 0 = true → t.rd RTC_STATUS_ALM0 = 1 ∧ (t.alarmMatches 1 = false → s.rtcCycle.pon = none → (t.rd (RTC_ALM_W1_ACT 0) = 1 → t.rd RTC_PON_PON = 1 ∧ t.rd RTC_PON_SRC = 1) ∧
        (t.rd (RTC_ALM_W1_ACT 0) = 2 → t.rd RTC_PON_PON = 0 ∧ t.rd RTC_PON_SRC = 1))) ∧
      (t.alarmMatches 1 = true → t.rd RTC_STATUS_ALM1 = 1 ∧ (s.rtcCycle.pon = none → (t.rd (RTC_ALM_W1_ACT 1) = 1 → t.rd RTC_PON_PON = 1 ∧ t.rd RTC_PON_SRC = 2) ∧
        (t.rd (RTC_ALM_W1_ACT 1) = 2 → t.rd RTC_PON_PON = 0 ∧ t.rd RTC_PON_SRC = 2))) ∧
      (∀ level : Nat, s.rtcCycle.pon = some level → t.rd RTC_PON_PON = level % 2 ∧ t.rd RTC_PON_SRC = 3))) ∧
    (s.rtc.armed = some true → Answers .rtcSecondTick s (fun t => t.calendar = (s.calendar + 3601) % (calendarDays * 86400) ∧ t.rd RTC_DATE_WDAY = (t.calendar / 86400 + 5) % 7 ∧
      t.rdI RTC_ZONE_ZONE = s.zone + 4 ∧ t.rtc.armed = none ∧ (calendarDays * 86400 ≤ s.calendar + 3601 → t.rd RTC_STATUS_YWRAP = 1))) ∧
    (s.rtc.armed = some false → Answers .rtcSecondTick s (fun t => t.calendar = (s.calendar + 1 + (calendarDays * 86400 - 3600)) % (calendarDays * 86400) ∧ t.rd RTC_DATE_WDAY = (t.calendar / 86400 + 5) % 7 ∧
      t.rdI RTC_ZONE_ZONE = s.zone - 4 ∧ t.rtc.armed = none ∧ (s.calendar + 1 < 3600 → t.rd RTC_STATUS_YWRAP = 1)))) ∧
  (∀ s : State, s.rtc.stopped = true ∨ s.rtcCycle.commit = true ∨ s.rtcCycle.mark = true → exec .rtcSecondTick s = .next s) ∧
  (∀ (s q : State) (p : BitVec 15), q = (s.prescalerAt p.toNat).trimTaken →
    (s.rtc.stopped = false → 2 ^ 20 ≤ (s.prescalerAt p.toNat).rtc.trimAcc →
      (0 < s.rdI RTC_TRIM_TRIM → p.toNat < 32767 → exec (.rtcTrimStep p) s = .next { q with rtc := { q.rtc with prescaler := p.toNat + 1 } }) ∧
      (0 < s.rdI RTC_TRIM_TRIM → p.toNat = 32767 → exec (.rtcTrimStep p) s = exec .rtcSecondTick q) ∧
      (s.rdI RTC_TRIM_TRIM < 0 → exec (.rtcTrimStep p) s = .next { q with rtc := { q.rtc with prescaler := p.toNat - 1 } })) ∧
    (s.rtc.stopped = true ∨ s.rdI RTC_TRIM_TRIM = 0 ∨ (s.prescalerAt p.toNat).rtc.trimAcc < 2 ^ 20 → exec (.rtcTrimStep p) s = .next (s.prescalerAt p.toNat))) ∧
  (∀ (s : State) (p : BitVec 15), s.up = true →
    (s.tb.now.sec = s.tb.marked → exec (.rtcMark p) s = .next s) ∧
    (s.tb.now.sec ≠ s.tb.marked → s.rd RTC_CTRL_DISC_EN = 0 ∨ s.rd TB_STATUS_STATE ≠ 2 ∨ s.rtc.onVbat = true ∨ s.rtc.stopped = true ∨ s.rtcCycle.commit = true →
      exec (.rtcMark p) s = .next { s with tb := { s.tb with marked := s.tb.now.sec } }) ∧
    (s.tb.now.sec ≠ s.tb.marked → s.rd RTC_CTRL_DISC_EN ≠ 0 → s.rd TB_STATUS_STATE = 2 → s.rtc.onVbat = false → s.rtc.stopped = false → s.rtcCycle.commit = false → s.rtcCycle.tick = true → 16384 ≤ p.toNat →
      exec (.rtcMark p) s = exec (.rtcMark p) (s.undoRtc s.rtcCycle))) ∧
  (∀ (s : State) (p : BitVec 15), s.up = true → s.tb.now.sec ≠ s.tb.marked → s.rd RTC_CTRL_DISC_EN ≠ 0 → s.rd TB_STATUS_STATE = 2 → s.rtc.onVbat = false → s.rtc.stopped = false → s.rtc.armed = none →
    s.rtcCycle.commit = false → s.rtcCycle.tick = false ∨ p.toNat < 16384 → Answers (.rtcMark p) s (fun t =>
      t.rtc.prescaler = 2 ∧ t.tb.marked = s.tb.now.sec ∧ t.rd RTC_STATUS_OSCSTOP = 0 ∧ t.rdI RTC_DRIFT_ERR = (if 16384 ≤ p.toNat then (p.toNat : Int) - 32768 else p.toNat) ∧
      t.rd RTC_UTC_OFS = (if s.rd RTC_LEAP_PEND ≠ 0 ∧ s.tb.now.sec % 2 ^ 48 = s.rd RTC_LEAP_EFF then s.rd RTC_LEAP_NEWOFS else s.rd RTC_UTC_OFS) ∧
      (inCalendar (expectedCalendar s.tb.now.sec (t.rd RTC_UTC_OFS) s.zone) = true → (t.calendar : Int) = expectedCalendar s.tb.now.sec (t.rd RTC_UTC_OFS) s.zone) ∧
      (inCalendar (expectedCalendar s.tb.now.sec (t.rd RTC_UTC_OFS) s.zone) = false → t.rd RTC_STATUS_DISCRNG = 1)))

/-- R303 to R306, R314, R315, R318, R319: the first read of the time group freezes both words and the second returns and releases the shadow; one second after a freeze FRZTO releases it; COMMIT loads the staged date and time where it is real, and sets
BADDATE where not; an hour command is armed, or HOURREJ; PON_SET and PON_CLR drive PON; a wrong key sets CMDREJ; the oscillator's stop sets OSCSTOP and OSCFAIL; the switch to VBAT copies the calendar; and a backup-domain reset leaves every RTC
register at its reset value.
A command whose condition does not hold does nothing: the model's choice, notes/assumptions/11. -/
def Obligations.ClockCommands : Prop :=
  (∀ (s : State) (l : Lane) (date : Bool) (p : BitVec 15), s.laneRuns l = true → (s.lane l).det = false → s.rtc.onVbat = false →
    (s.rtc.shadow l = none → Answers (.timeGroupRead l date p false) s (fun t => t.rtc.prescaler = p.toNat ∧
      t.rtc.shadow l = some ⟨t.timeWord, t.dateWord, !date, date⟩ ∧ (t.lane l).data = (if date then t.dateWord else t.timeWord) ∧ t.calendar = s.calendar)) ∧
    (∀ x : Shadow, s.rtc.shadow l = some x → Answers (.timeGroupRead l date p false) s (fun t => (t.lane l).data = (if date then x.date else x.time) ∧
      t.rtc.shadow l = (if (x.timeRead || !date) && (x.dateRead || date) then none else some { x with timeRead := x.timeRead || !date, dateRead := x.dateRead || date })))) ∧
  (∀ (s : State) (l : Lane), (s.rtc.shadow l = none → exec (.freezeTimeout l) s = .next s) ∧
    (s.rtc.shadow l ≠ none → Answers (.freezeTimeout l) s (fun t => t.rtc.shadow l = none ∧ t.rd RTC_STATUS_FRZTO = 1 ∧ t.rtc.shadow l.other = s.rtc.shadow l.other))) ∧
  (∀ (s : State) (l : Lane), s.serves l → s.rtc.onVbat = false →
    (s.stagedGood = true → Answers (.commit l 0xCA1D#16) s (fun t => t.rd RTC_DATE_YEAR = s.rd RTC_STG_DATE_YEAR ∧ t.rd RTC_DATE_MONTH = s.rd RTC_STG_DATE_MONTH ∧ t.rd RTC_DATE_DAY = s.rd RTC_STG_DATE_DAY ∧
      t.rd RTC_TIME_HOUR = s.rd RTC_STG_TIME_HOUR ∧ t.rd RTC_TIME_MIN = s.rd RTC_STG_TIME_MIN ∧ t.rd RTC_TIME_SEC = s.rd RTC_STG_TIME_SEC ∧ t.rtc.prescaler = 0 ∧ t.rd RTC_STATUS_OSCSTOP = 0 ∧ t.rtc.armed = none ∧
      t.rd RTC_DATE_WDAY = (t.calendar / 86400 + 5) % 7 ∧ (s.rtc.armed ≠ none ∨ s.rtcCycle.armed ≠ none → t.rd RTC_STATUS_HOURREJ = 1))) ∧
    (s.stagedGood = false → Answers (.commit l 0xCA1D#16) s (fun t => t.rd RTC_STATUS_BADDATE = 1 ∧ t.calendar = s.calendar ∧ t.rtc = s.rtc ∧ t.rd RTC_STATUS_OSCSTOP = s.rd RTC_STATUS_OSCSTOP)) ∧
    (s.rtcCycle.tick = false ∨ s.rtcCycle.mark = true →
      (s.rtc.armed = none → s.zone ≤ 52 → exec (.addHour l 0xCA1D#16) s = .next { s with rtc := { s.rtc with armed := some true } }) ∧
      (s.rtc.armed ≠ none ∨ 52 < s.zone → exec (.addHour l 0xCA1D#16) s = .next (s.wr RTC_STATUS_HOURREJ 1)) ∧
      (s.rtc.armed = none → -44 ≤ s.zone → exec (.subHour l 0xCA1D#16) s = .next { s with rtc := { s.rtc with armed := some false } }) ∧
      (s.rtc.armed ≠ none ∨ s.zone < -44 → exec (.subHour l 0xCA1D#16) s = .next (s.wr RTC_STATUS_HOURREJ 1))) ∧
    (s.rtcCycle.tick = true → s.rtcCycle.mark = false → ∀ u : State, u = s.undoRtc s.rtcCycle →
      (s.rtcCycle.armed = none → s.zone ≤ 52 → exec (.addHour l 0xCA1D#16) s = exec .rtcSecondTick { u with rtc := { u.rtc with armed := some true } }) ∧
      (s.rtcCycle.armed ≠ none ∨ 52 < s.zone → exec (.addHour l 0xCA1D#16) s = .next (s.wr RTC_STATUS_HOURREJ 1)) ∧
      (s.rtcCycle.armed = none → -44 ≤ s.zone → exec (.subHour l 0xCA1D#16) s = exec .rtcSecondTick { u with rtc := { u.rtc with armed := some false } }) ∧
      (s.rtcCycle.armed ≠ none ∨ s.zone < -44 → exec (.subHour l 0xCA1D#16) s = .next (s.wr RTC_STATUS_HOURREJ 1))) ∧
    Answers (.ponSet l 0xCA1D#16) s (fun t => t.rd RTC_PON_PON = 1 ∧ t.rd RTC_PON_SRC = 3 ∧ t.rtc = { s.rtc with cycle := some { s.rtcCycle with pon := some 1 } }) ∧
    Answers (.ponClr l 0xCA1D#16) s (fun t => t.rd RTC_PON_PON = 0 ∧ t.rd RTC_PON_SRC = 3 ∧ t.rtc = { s.rtc with cycle := some { s.rtcCycle with pon := some 0 } }) ∧
    (∀ key : BitVec 16, key ≠ 0xCA1D#16 → ∀ c ∈ [Instr.commit l key, .addHour l key, .subHour l key, .ponSet l key, .ponClr l key], exec c s = .next (s.wr RTC_STATUS_CMDREJ 1))) ∧
  (∀ s : State,
    Answers .oscillatorStop s (fun t => t.rtc = { s.rtc with stopped := true } ∧ t.rd RTC_STATUS_OSCSTOP = 1 ∧ t.rd RTC_STATUS_OSCFAIL = 1) ∧
    exec .oscillatorResume s = .next { s with rtc := { s.rtc with stopped := false } } ∧
    (∀ p : BitVec 15, s.rtc.onVbat = true → exec (.switchToVbat p) s = .next s) ∧
    (∀ p : BitVec 15, s.rtc.onVbat = false → Answers (.switchToVbat p) s (fun t => t.rtc = { (s.prescalerAt p.toNat).rtc with onVbat := true, cycle := none } ∧ t.rd RTC_STATUS_BKPSW = 1 ∧ t.rd RTC_OFF_TIME_HOUR = s.rd RTC_TIME_HOUR ∧
      t.rd RTC_OFF_TIME_MIN = s.rd RTC_TIME_MIN ∧ t.rd RTC_OFF_TIME_SEC = s.rd RTC_TIME_SEC ∧ t.rd RTC_OFF_TIME_SUBSEC = p.toNat / 128 ∧ t.rd RTC_OFF_DATE_YEAR = s.rd RTC_DATE_YEAR ∧ t.rd RTC_OFF_DATE_MONTH = s.rd RTC_DATE_MONTH ∧ t.rd RTC_OFF_DATE_DAY = s.rd RTC_DATE_DAY ∧
      t.rd RTC_OFF_DATE_WDAY = s.rd RTC_DATE_WDAY ∧ t.calendar = s.calendar)) ∧
    exec .switchToVmain s = .next { s with rtc := { s.rtc with onVbat := false } } ∧
    Answers .backupDomainReset s (fun t => t.rd RTC_STATUS_OSCSTOP = 1 ∧ t.rd RTC_PON_PON = 0 ∧ t.calendar = 0 ∧ t.rd RTC_DATE_WDAY = 5 ∧ t.rtc.prescaler = 0 ∧ t.rtc.armed = none ∧
      (∀ l : Lane, ∀ x ∈ (t.lane l).holding, x.1 < 0x400F0000 ∨ 0x40100000 ≤ x.1) ∧
      (∀ f : Field, f.lo < 1024 → f.block = 15 → t.rd f = f.reset % 2 ^ f.width) ∧ (∀ f : Field, f.lo < 1024 → f.block ≠ 15 → f.block < 22 → t.rd f = s.rd f)))
/-! ### The key store and the crypto engine -/

/-- R322, R330, R340 to R342: the root is recovered from a sound helper copy whose KCV matches, its keys derived for the state and epoch, and the KSU waits for the mirror where it is not; the mirror's root rewrites the copy with HLPFIX, and where it
fails too NOROOT is set; a crypto job is queued while fewer than 8 wait, and refused with QFULL otherwise; a job ends with its result and DONE in STAT, counted, and with FAIL where the result is not OK; and the next one then reads its command block
and its slot.
A command whose condition does not hold does nothing: the model's choice, notes/assumptions/11. -/
def Obligations.RootAndJobs : Prop :=
  (∀ (s : State) (array : Octets), s.up = true →
    (s.ksu.tried = true ∨ s.lcState = lcRetired → exec (.rootRecovery array) s = .next s) ∧
    (s.ksu.tried = false → s.lcState ≠ lcRetired →
      (∀ k : Octets, helperSound (s.pstOctets 0x3D0000 1024) = true → helperKey (pufBlocks array) (s.pstOctets 0x3D0000 1024) = some k → Answers (.rootRecovery array) s (fun t =>
        t.ksu.cache = some (deriveCache k s.lcState s.epoch) ∧ t.rd KSU_STATUS_ROOTOK = 1 ∧ t.ksu.tried = true ∧ t.ksu.wantMirror = false ∧ t.pst = s.pst ∧ t.otp = s.otp)) ∧
      (helperSound (s.pstOctets 0x3D0000 1024) = false ∨ helperKey (pufBlocks array) (s.pstOctets 0x3D0000 1024) = none → Answers (.rootRecovery array) s (fun t =>
        t.ksu = { s.ksu with tried := true, wantMirror := true, response := pufBlocks array } ∧ t.regs = s.regs ∧ t.pst = s.pst)))) ∧
  (∀ s : State, s.up = true →
    (s.ksu.wantMirror = false → exec .helperMirrorWrite s = .next s) ∧
    (s.ksu.wantMirror = true → (∀ k : Octets, helperKey s.ksu.response (s.acmRead 0x2000 1024) = some k → Memory.wf s.pst.cells = true → s.pstAlone .ksu 0x3D0000 1024 → Answers .helperMirrorWrite s (fun t =>
        t.ksu.cache = some (deriveCache k s.lcState s.epoch) ∧ t.rd KSU_STATUS_ROOTOK = 1 ∧ t.rd KSU_STATUS_HLPFIX = 1 ∧ t.ksu.wantMirror = false ∧ t.pstOctets 0x3D0000 1024 = s.acmRead 0x2000 1024)) ∧
      (helperKey s.ksu.response (s.acmRead 0x2000 1024) = none → Answers .helperMirrorWrite s (fun t =>
        t.rd KSU_STATUS_NOROOT = 1 ∧ t.ksu = { s.ksu with wantMirror := false, response := [] } ∧ t.pst = s.pst)))) ∧
  (∀ (s : State) (l : Lane) (a : Word) (user : Bool), s.serves l → s.ksu.commit = none →
    (s.cry.length < 8 → Answers (.cryJob l a user) s (fun t => t = { s with cry := t.cry } ∧ t.cry.map (fun j => (j.addr, j.user)) = s.cry.map (fun j => (j.addr, j.user)) ++ [(a.toNat / 64 * 64, user)])) ∧
    (8 ≤ s.cry.length → exec (.cryJob l a user) s = .next (s.wr CRY_STATUS_QFULL 1))) ∧
  (∀ (s : State) (l : Lane) (a : Word) (user : Bool), s.serves l → s.ksu.commit ≠ none → exec (.cryJob l a user) s = .next s) ∧
  (∀ (s : State) (poison : Bool) (j : CryJob) (rest : List CryJob) (d : Octets) (held : Option KeySlot) (o r : Nat), s.up = true → s.cry = j :: rest → s.region j.addr 64 = some (.sram, o) → j.run = some (d, held) →
    ({ s with cry := rest }.cryEval d held j.user poison).2.result = r → Answers (.cryJobComplete poison) s (fun t =>
      t.cry.map (fun j => (j.addr, j.user)) = rest.map (fun j => (j.addr, j.user)) ∧
      t.rd CRY_JOB_CNT_COUNT = (s.rd CRY_JOB_CNT_COUNT + 1) % 2 ^ 32 ∧ t.rd CRY_STATUS_JOBDONE = 1 ∧ memRead (t.lane s.busLane).sram (o + 44) 4 = le 4 (r + 256) ∧
      (r ≠ cryOk → t.rd CRY_STATUS_FAIL = 1 ∧ t.rd CRY_FAIL_CNT_COUNT = (s.rd CRY_FAIL_CNT_COUNT + 1) % 2 ^ 32) ∧ (r = cryOk → t.rd CRY_FAIL_CNT_COUNT = s.rd CRY_FAIL_CNT_COUNT) ∧
      (∀ (n : CryJob) (more : List CryJob) (p : Nat), rest = n :: more → n.run = none → t.region n.addr 64 = some (.sram, p) →
        t.cry = { n with run := some (memRead (t.lane t.busLane).sram p 64, t.slot (octAt (memRead (t.lane t.busLane).sram p 64) 1)) } :: more))) ∧
  (∀ (s : State) (poison : Bool), s.up = true → s.cry = [] → exec (.cryJobComplete poison) s = .next s)

/-- R323, R326, R327, R336 to R338, R343: a KSU command with a wrong key sets CTXREJ, from U mode it fails with BADCTX, and while a transition runs with BUSY; CLEAR empties a slot that is not locked; DERIVE fills its slot with the HKDF of the root or
of a slot that may derive, within the source's contexts, and refuses INFO that begins with 0; ENROLPUF forms a root in FACTORY at epoch 0; TRANSITION refuses a token with the result of its checks, and otherwise prepares the new epoch and waits for its
OTP entry; and IMPORT refuses with IMPREJ, or fills its slot and stores SEQ. -/
def Obligations.KeyCommands : Prop :=
  ∀ (s : State) (l : Lane), s.serves l →
    (∀ (key : BitVec 16) (user : Bool) (reads : List Octets), ∀ c ∈ [Instr.transition l key user, .importBlob l key user, .derive l key user, .clear l key user, .enrolpuf l key user reads],
      (key ≠ 0x4B5E#16 → exec c s = .next (s.wr KSU_STATUS_CTXREJ 1)) ∧
      (key = 0x4B5E#16 → user = true → exec c s = .next ((s.wr KSU_CMDSTAT_RESULT ksuBadCtx).wr KSU_STATUS_CTXREJ 1)) ∧
      (key = 0x4B5E#16 → user = false → s.ksu.commit ≠ none → exec c s = .next (s.wr KSU_CMDSTAT_RESULT ksuBusy))) ∧
    (s.ksu.commit = none →
      (s.slotLocked (s.rd KSU_CLR_SLOT) = false → Answers (.clear l 0x4B5E#16 false) s (fun t => t.slot (s.rd KSU_CLR_SLOT) = none ∧ (∀ m : Nat, m ≠ s.rd KSU_CLR_SLOT → t.slot m = s.slot m) ∧
        t.rd KSU_CMDSTAT_RESULT = ksuOk ∧ t.rd KSU_STATUS_DONE = 1 ∧ t.pst = s.pst)) ∧
      (s.slotLocked (s.rd KSU_CLR_SLOT) = true → Answers (.clear l 0x4B5E#16 false) s (fun t => t.ksu = s.ksu ∧ t.rd KSU_CMDSTAT_RESULT = ksuLocked)) ∧
      (octAt (le 32 (s.rd KSU_DRV_INFO_INFO)) 0 = 0 → Answers (.derive l 0x4B5E#16 false) s (fun t => t.ksu = s.ksu ∧ t.rd KSU_CMDSTAT_RESULT = ksuBadField)) ∧
      (∀ (ikm : Octets) (src : Nat), (s.rd KSU_DRV_ROOTSRC ≠ 0 ∧ (∃ c : KeyCache, s.ksu.cache = some c ∧ ikm = c.prk) ∧ src = 0x700) ∨
          (s.rd KSU_DRV_ROOTSRC = 0 ∧ ∃ k : KeySlot, s.slot (s.rd KSU_DRV_SRC) = some k ∧ k.allows opDerive ctxLane = true ∧ k.typ ≠ 7 ∧ ikm = k.key ∧ src = k.policy) →
        1 ≤ s.rd KSU_DRV_INFOLEN → s.rd KSU_DRV_INFOLEN ≤ 32 → octAt (le 32 (s.rd KSU_DRV_INFO_INFO)) 0 ≠ 0 → s.rd KSU_DRV_DST ≠ 0 → (1 ≤ s.rd KSU_DRV_TYPE ∧ s.rd KSU_DRV_TYPE ≤ 4) ∨ s.rd KSU_DRV_TYPE = 8 →
        s.slotLocked (s.rd KSU_DRV_DST) = false → policyGood (s.rd KSU_DRV_TYPE) (s.rd KSU_DRV_POL_POLICY) = true →
        ((∀ b : Nat, b < 6 → bit (s.rd KSU_DRV_POL_POLICY) (8 + b) = true → bit src (8 + b) = true) → Answers (.derive l 0x4B5E#16 false) s (fun t =>
          t.slot (s.rd KSU_DRV_DST) = some ⟨s.rd KSU_DRV_TYPE, s.rd KSU_DRV_POL_POLICY, 1, hkdf (zeros 32) ikm ((le 32 (s.rd KSU_DRV_INFO_INFO)).take (s.rd KSU_DRV_INFOLEN)) (typeOctets (s.rd KSU_DRV_TYPE))⟩ ∧
          (∀ m : Nat, m ≠ s.rd KSU_DRV_DST → t.slot m = s.slot m) ∧ t.rd KSU_CMDSTAT_RESULT = ksuOk ∧ t.rd KSU_STATUS_DONE = 1 ∧ t.pst = s.pst)) ∧
        ((∃ b : Nat, b < 6 ∧ bit (s.rd KSU_DRV_POL_POLICY) (8 + b) = true ∧ bit src (8 + b) = false) → Answers (.derive l 0x4B5E#16 false) s (fun t => t.ksu = s.ksu ∧ t.rd KSU_CMDSTAT_RESULT = ksuPolicy))) ∧
      (∀ reads : List Octets, s.lcState ≠ lcFactory ∨ s.epoch ≠ 0 → Answers (.enrolpuf l 0x4B5E#16 false reads) s (fun t => t.ksu = s.ksu ∧ t.pst = s.pst ∧ t.rd KSU_CMDSTAT_RESULT = ksuNotAllowed)) ∧
      (∀ reads : List Octets, s.lcState = lcFactory → s.epoch = 0 →
        ((∃ b : Nat, b < 30 ∧ 24 < pufUnsteady (reads.map pufBlocks) b) → Answers (.enrolpuf l 0x4B5E#16 false reads) s (fun t => t.ksu = s.ksu ∧ t.pst = s.pst ∧ t.rd KSU_CMDSTAT_RESULT = ksuPufWeak)) ∧
        ((∀ b : Nat, b < 30 → pufUnsteady (reads.map pufBlocks) b ≤ 24) → Memory.wf s.pst.cells = true → s.pstAlone .ksu 0x3D0000 1024 → Answers (.enrolpuf l 0x4B5E#16 false reads) s (fun t =>
          t.rd KSU_STATUS_ROOTOK = 1 ∧ t.rd KSU_CMDSTAT_RESULT = ksuOk ∧ ∃ ms : List Nat, ms.length = 30 ∧ t.ksu.cache = some (deriveCache (pufKey (pufOctets ms)) lcFactory 0) ∧
          t.pstOctets 0x3D0000 1024 = helperBlock ((List.range 30).map (pufMajority (reads.map pufBlocks))) ms))) ∧
      (∀ t0 : Octets, t0 = le 224 (s.rd KSU_TOKEN_TOKEN) →
        (∀ r : Nat, s.tokenCheck t0 = r → r ≠ ksuOk → Answers (.transition l 0x4B5E#16 false) s (fun t => t.ksu = s.ksu ∧ t.otp = s.otp ∧ t.pst = s.pst ∧ t.rd KSU_CMDSTAT_RESULT = r ∧ t.rd KSU_STATUS_TOKREJ = 1)) ∧
        (∀ c : KeyCache, s.tokenCheck t0 = ksuOk → s.ksu.cache = some c →
          ((s.carried c (leAt t0 12 3)).length ≤ (s.freeRecords c).length → Answers (.transition l 0x4B5E#16 false) s (fun t =>
            t.ksu = { s.ksu with commit := some (octAt t0 2) } ∧ t.otp = s.otp ∧ t.rd KSU_CMDSTAT_BUSY = 1 ∧ ∀ x ∈ t.pst.buffer, x.writer ≠ .ksu)) ∧
          ((s.freeRecords c).length < (s.carried c (leAt t0 12 3)).length → Answers (.transition l 0x4B5E#16 false) s (fun t =>
            t.ksu = s.ksu ∧ t.otp = s.otp ∧ t.rd KSU_CMDSTAT_RESULT = ksuNoRoom ∧ t.rd KSU_STATUS_NOROOM = 1 ∧ ∀ x ∈ t.pst.buffer, x.writer ≠ .ksu)))) ∧
      (∀ (b : Octets) (c : KeyCache) (a : KeySlot), b = le 232 (s.rd KSU_BLOB_BLOB) → s.ksu.cache = some c → s.slot 0 = some a →
        (ecdsaVerify 256 a.key (slice b 0 168) (slice b 168 64) = false → Answers (.importBlob l 0x4B5E#16 false) s (fun t => t.ksu = s.ksu ∧ t.pst = s.pst ∧ t.rd KSU_CMDSTAT_RESULT = ksuBadSig ∧ t.rd KSU_STATUS_IMPREJ = 1)) ∧
        (ecdsaVerify 256 a.key (slice b 0 168) (slice b 168 64) = true →
          (∀ r : Nat, s.importCheck b c = r → r ≠ ksuOk → Answers (.importBlob l 0x4B5E#16 false) s (fun t => t.ksu = s.ksu ∧ t.pst = s.pst ∧ t.rd KSU_CMDSTAT_RESULT = r ∧ t.rd KSU_STATUS_IMPREJ = 1)) ∧
          (∀ kw : Octets, s.importCheck b c = ksuOk → kw = hkdf s.otp.uid (ecdhX c.dDev (slice b 16 33)) ([octet 0] ++ ascii "WRAP") 32 →
            padTo 16 (gcmTag kw (slice b 52 12) (slice b 0 64) (slice b 64 88)) = slice b 152 16 → Answers (.importBlob l 0x4B5E#16 false) s (fun t =>
              t.slot (octAt b 1) = some ⟨octAt b 2, leAt b 4 4, 2, (padTo 88 (gcmText kw (slice b 52 12) (slice b 64 88))).take (octAt b 3)⟩ ∧
              t.ksu.impSeq = leAt b 12 4 ∧ t.rd KSU_CMDSTAT_RESULT = ksuOk ∧ t.rd KSU_STATUS_DONE = 1)))))
/-! ### The resident loader -/

/-- R345, R358, R359, R368: PROGRAM and ERASE start at the page or sector of RLD_ADDR, and are refused with CMDREJ at the places that R358 names; the operation leaves the page written or the sector erased, its slot not VERIFIED, with CMDDONE, or
PGMERR; VERIFY sets VERIFIED with the VERSION where the container is acceptable, and VERIFYFAIL where not, with an event that waits while the Sequencer is stopped; and a wrong key sets CMDREJ.
A command whose condition does not hold does nothing: the model's choice, notes/assumptions/11. What PROGRAM leaves on a page that was not erased is the model's choice, notes/assumptions/38. -/
def Obligations.Staging : Prop :=
  (∀ (s : State) (a : Nat), s.acmRefused a = true ↔
    s.rldBusy = true ∨ slotOf a = some (2 + s.rd RLD_STATE_CFGCUR) ∨ (s.rd RLD_STATE_STATE ≠ 0 ∧ s.rd RLD_STATE_FBSLOT ≠ 3 ∧ slotOf a = some (s.rd RLD_STATE_FBSLOT)) ∨
    (s.rd RLD_STATE_STATE ≠ 0 ∧ s.rd RLD_STATE_CFGFB ≠ 3 ∧ slotOf a = some (2 + s.rd RLD_STATE_CFGFB)) ∨ (a < 0x2000 ∧ s.lcState = lcDeployed) ∨ ((s.rld.header.map (·.acmSize)).getD s.acmSize) ≤ a) ∧
  (∀ (s : State) (l : Lane), s.serves l →
    (∀ (key : BitVec 16) (n kind : BitVec 2) (c f : Bool), key ≠ 0x7D1E#16 → ∀ i ∈ [Instr.program l key, .erase l key, .verify l key n, .schedule l key kind c f, .cancel l key], exec i s = .next (s.wr RLD_STATUS_CMDREJ 1)) ∧
    (s.acmRefused (s.rd RLD_ADDR_ADDR / 256 * 256) = true → exec (.program l 0x7D1E#16) s = .next (s.wr RLD_STATUS_CMDREJ 1)) ∧
    (s.acmRefused (s.rd RLD_ADDR_ADDR / 256 * 256) = false → exec (.program l 0x7D1E#16) s = .next { s with rld := { s.rld with op := some ⟨false, s.rd RLD_ADDR_ADDR / 256 * 256, le 256 (s.rd RLD_PAGE_DATA)⟩ } }) ∧
    (s.acmRefused (s.rd RLD_ADDR_ADDR / 4096 * 4096) = true → exec (.erase l 0x7D1E#16) s = .next (s.wr RLD_STATUS_CMDREJ 1)) ∧
    (s.acmRefused (s.rd RLD_ADDR_ADDR / 4096 * 4096) = false → exec (.erase l 0x7D1E#16) s = .next { s with rld := { s.rld with op := some ⟨true, s.rd RLD_ADDR_ADDR / 4096 * 4096, le 256 (s.rd RLD_PAGE_DATA)⟩ } }) ∧
    (∀ n : BitVec 2, (s.rldBusy = true → exec (.verify l 0x7D1E#16 n) s = .next (s.wr RLD_STATUS_CMDREJ 1)) ∧
      (s.rldBusy = false → (s.acceptable (s.slotContainer n.toNat) ctxRld).2 = true → Answers (.verify l 0x7D1E#16 n) s (fun t => t.rd (RLD_SLOT_VERIFIED n.toNat) = 1 ∧
        t.rd (RLD_SLOTVER_VERSION n.toNat) = containerVersion (s.slotContainer n.toNat) % 2 ^ 32 ∧ t.rd RLD_STATUS_VERIFIED = 1 ∧ t.rd RLD_STATUS_CMDDONE = 1)) ∧
      (s.rldBusy = false → (s.acceptable (s.slotContainer n.toNat) ctxRld).2 = false → Answers (.verify l 0x7D1E#16 n) s (fun t => t.rd (RLD_SLOT_VERIFIED n.toNat) = s.rd (RLD_SLOT_VERIFIED n.toNat) ∧
        t.rd RLD_STATUS_VERIFYFAIL = 1 ∧ t.rd RLD_STATUS_CMDDONE = 1)) ∧
      (s.rldBusy = false → s.crzOn = false → Answers (.verify l 0x7D1E#16 n) s (fun t => t.held = s.held ++
        [s.event 67 0 0x01 ([octet n.toNat, octet (b2n (!(s.acceptable (s.slotContainer n.toNat) ctxRld).2)), octet 0, octet 0] ++ le 4 (containerVersion (s.slotContainer n.toNat))) s.tb.now])))) ∧
  (∀ (s : State) (fail : Bool), s.up = true → s.rld.op = none → exec (.acmOperationDone fail) s = .next s) ∧
  (∀ (s : State) (o : AcmOp), s.up = true → s.rld.op = some o → Memory.wf s.acm = true → o.page.length = 256 →
    Answers (.acmOperationDone false) s (fun t => t.rld.op = none ∧ t.rd RLD_STATUS_CMDDONE = 1 ∧ (o.erase = false → t.acmRead o.addr 256 = o.page) ∧
      (o.erase = true → t.acmRead o.addr 4096 = List.replicate 4096 (octet 255)) ∧ (∀ a : Nat, a < o.addr ∨ o.addr + 4096 ≤ a → t.acmRead a 1 = s.acmRead a 1) ∧
      (∀ n : Nat, slotOf o.addr = some n → t.rd (RLD_SLOT_VERIFIED n) = 0)) ∧
    Answers (.acmOperationDone true) s (fun t => t.rld.op = none ∧ t.rd RLD_STATUS_PGMERR = 1 ∧ t.rd RLD_STATUS_CMDDONE = s.rd RLD_STATUS_CMDDONE ∧ (∀ n : Nat, slotOf o.addr = some n → t.rd (RLD_SLOT_VERIFIED n) = 0)))

/-- R361 to R366: SCHEDULE goes to SAVING for firmware and to ARMED for a CFG alone, where the slots are ready and TACT is 60 s ahead, and otherwise sets CMDREJ; CANCEL disarms; the saved copy arms the update, or fails with CAUSE 9; the activation
commands a swap where Lane A is ACTIVE, opens the window where Lane B is, and for a CFG resets the module; DEFER ends it with CAUSE 10; the code store is written and the trial begins; a verdict, from the Active lane or from Lane A while SPLIT is 1, commits or rolls back, or sets VERDREJ; the deadline rolls
back with CAUSE 3; the commit changes ACT and the versions; and the restore ends the window.
A command whose condition does not hold does nothing: the model's choice, notes/assumptions/11. -/
def Obligations.ScheduledUpdate : Prop :=
  (∀ (s : State) (l : Lane) (kind : BitVec 2) (c f : Bool), s.serves l →
    (kind ≠ 0 → s.rldBusy = false → s.rd RLD_STATE_STATE = 0 → s.now + 60000000000 ≤ s.rd RLD_TACT_TACT / 2 ^ 30 * 1000000000 + s.rd RLD_TACT_TACT % 2 ^ 30 →
      (kind = 1 ∨ kind = 3 → s.slotReady (b2n f) 1 = true) → (kind = 2 ∨ kind = 3 → s.slotReady (2 + b2n c) 2 = true) → Answers (.schedule l 0x7D1E#16 kind c f) s (fun t =>
        t.rd RLD_STATE_KIND = kind.toNat ∧ t.rld.tact = s.rd RLD_TACT_TACT ∧ t.rd RLD_STATUS_STCHG = 1 ∧ t.rd RLD_STATUS_CMDDONE = 1 ∧
        (kind = 1 ∨ kind = 3 → t.rd RLD_STATE_STATE = 1 ∧ t.rd RLD_STATE_NEWSLOT = b2n f ∧ t.rd RLD_STATE_FBSLOT = 1 - b2n f) ∧
        (kind = 2 → t.rd RLD_STATE_STATE = 2) ∧ (kind = 2 ∨ kind = 3 → t.rd RLD_STATE_CFGFB = s.rd RLD_STATE_CFGCUR ∧ t.rld.newCfg = b2n c))) ∧
    (kind = 0 ∨ s.rldBusy = true ∨ s.rd RLD_STATE_STATE ≠ 0 ∨ ((kind = 1 ∨ kind = 3) ∧ s.slotReady (b2n f) 1 = false) ∨ ((kind = 2 ∨ kind = 3) ∧ s.slotReady (2 + b2n c) 2 = false) ∨
      s.rd RLD_TACT_TACT / 2 ^ 30 * 1000000000 + s.rd RLD_TACT_TACT % 2 ^ 30 < s.now + 60000000000 → exec (.schedule l 0x7D1E#16 kind c f) s = .next (s.wr RLD_STATUS_CMDREJ 1)) ∧
    (s.rd RLD_STATE_STATE = 2 → s.rldBusy = false → Answers (.cancel l 0x7D1E#16) s (fun t => t.rd RLD_STATE_STATE = 0 ∧ t.rd RLD_STATUS_CMDDONE = 1)) ∧
    (s.rd RLD_STATE_STATE ≠ 2 → exec (.cancel l 0x7D1E#16) s = .next (s.wr RLD_STATUS_CMDREJ 1))) ∧
  (∀ s : State, s.up = true →
    (s.rd RLD_STATE_STATE = 1 → Answers (.saveCopyDone true) s (fun t => t.rd RLD_STATE_STATE = 0 ∧ t.rd RLD_STATE_CAUSE = 9 ∧ t.rd RLD_STATUS_STCHG = 1) ∧
      (∀ (n : Nat) (u : State), n = s.rd RLD_STATE_FBSLOT → u = ((s.acmErase (slotBase n) (slotSize n)).acmWrite (slotBase n) s.codeStore).wr (RLD_SLOT_VERIFIED n) 0 → (u.acceptable (u.slotContainer n) ctxRld).2 = true →
        Answers (.saveCopyDone false) s (fun t => t.rd RLD_STATE_STATE = 2 ∧ t.rd (RLD_SLOT_VERIFIED n) = 1 ∧ t.rd (RLD_SLOTVER_VERSION n) = containerVersion (u.slotContainer n) % 2 ^ 32 ∧ t.acm = u.acm))) ∧
    (s.rd RLD_STATE_STATE = 2 → s.rld.step = .none →
      (s.tactNs ≤ s.now → s.updateMay = true →
        (s.rd RLD_STATE_KIND = 1 → s.role .A = roleActive → exec .updateActivation s = .next { s with rld := { s.rld with step := .swapping } }) ∧
        (s.rd RLD_STATE_KIND = 1 → s.role .A = roleShadow → Answers .updateActivation s (fun t => t.rd RLD_STATE_STATE = 3 ∧ t.rd LSC_CTRL_SPLIT = 1 ∧ t.rd PST_SETSEL_TRIAL = 1 ∧ t.role .A = roleOut ∧ t.rd LSC_CAUSE_A_CAUSE = 9)) ∧
        (s.rd RLD_STATE_KIND = 2 → s.ksu.commit = none → s.sys.rstLow = false → s.sys.extest = false → Answers .updateActivation s (fun t => ∀ l : Lane, t.role l = roleBoot ∧ (t.lane l).refilling = true))) ∧
      (s.now < s.tactNs ∨ s.updateMay = false → exec .updateActivation s = .next s) ∧
      (s.tactNs + max 1 (s.rd RLD_CFG_DEFER) * 1000000000 ≤ s.now → Answers .activationDeferExpiry s (fun t => t.rd RLD_STATE_STATE = 0 ∧ t.rd RLD_STATE_CAUSE = 10)) ∧
      (s.now < s.tactNs + max 1 (s.rd RLD_CFG_DEFER) * 1000000000 → exec .activationDeferExpiry s = .next s)) ∧
    (s.rd RLD_STATE_STATE = 3 → Memory.wf s.pst.cells = true → s.pstAlone .rld 0x10000 (s.slotContainer (s.rd RLD_STATE_NEWSLOT)).length → Answers .codeStoreWritten s (fun t => t.rd RLD_STATE_STATE = 4 ∧ t.rd RLD_KSTART_IDX = s.creaseOf s.tactNs % 2 ^ 64 ∧
      t.pstOctets 0x10000 (s.slotContainer (s.rd RLD_STATE_NEWSLOT)).length = s.slotContainer (s.rd RLD_STATE_NEWSLOT))) ∧
    (s.rd RLD_STATE_STATE = 4 → ((s.rd RLD_KSTART_IDX + max 10 s.rld.deadline) * s.P ≤ s.now → Answers .trialDeadline s (fun t => t.rd RLD_STATE_STATE = 6 ∧ t.rd RLD_STATE_CAUSE = 3 ∧ t.rld.step = .restoring)) ∧
      (s.now < (s.rd RLD_KSTART_IDX + max 10 s.rld.deadline) * s.P → exec .trialDeadline s = .next s)) ∧
    (s.rd RLD_STATE_STATE = 5 → s.rld.step = .none → Answers .committingCopyDone s (fun t => t.rd PST_SETSEL_ACT = 1 - s.rd PST_SETSEL_ACT ∧ t.rd PST_SETSEL_TRIAL = 0 ∧
      (s.rd RLD_STATE_KIND ≠ 2 → t.rd RLD_VFB_VERSION = s.rd RLD_VCUR_VERSION ∧ t.rd RLD_VCUR_VERSION = containerVersion (s.slotContainer (s.rd RLD_STATE_NEWSLOT)) % 2 ^ 32 ∧
        t.rd RLD_MINVER_VERSION = (if containerFloor (s.slotContainer (s.rd RLD_STATE_NEWSLOT)) then containerVersion (s.slotContainer (s.rd RLD_STATE_NEWSLOT)) % 2 ^ 32 else s.rd RLD_MINVER_VERSION)) ∧
      (s.rd RLD_STATE_KIND ≠ 1 → t.rd RLD_STATE_STATE = 0) ∧ (s.rd RLD_STATE_KIND = 1 → s.rd LSC_CTRL_SPLIT ≠ 0 → t.rld.step = .sealB ∧ t.rd RLD_STATE_STATE = 5))) ∧
    (s.rd RLD_STATE_STATE = 6 → s.rld.step = .restoring →
      (s.rd RLD_STATE_KIND = 1 → Memory.wf s.pst.cells = true → s.pstAlone .rld 0x10000 (s.slotContainer (s.rd RLD_STATE_FBSLOT)).length → Answers .rollbackRestoreDone s (fun t => t.rd RLD_STATE_STATE = 0 ∧ t.rd LSC_CTRL_SPLIT = 0 ∧ t.rd PST_SETSEL_TRIAL = 0 ∧ t.rld.step = .none ∧
        t.rd PST_SETSEL_ACT = s.rd PST_SETSEL_ACT ∧ (s.rd RLD_STATE_FBSLOT ≠ 3 → t.pstOctets 0x10000 (s.slotContainer (s.rd RLD_STATE_FBSLOT)).length = s.slotContainer (s.rd RLD_STATE_FBSLOT)))) ∧
      (s.rd RLD_STATE_KIND ≠ 1 → s.ksu.commit = none → s.sys.rstLow = false → s.sys.extest = false → Answers .rollbackRestoreDone s (fun t => ∀ l : Lane, t.role l = roleBoot ∧ (t.lane l).refilling = true)))) ∧
  (∀ (s : State) (l : Lane) (cause : Byte), s.laneRuns l = true → (s.lane l).det = false → s.actsActive l = true ∨ (l = .A ∧ s.rd LSC_CTRL_SPLIT ≠ 0) →
    (s.rd RLD_STATE_STATE = 4 → (s.rd RLD_STATE_KIND = 1 → l = .A) → (s.rd RLD_STATE_KIND ≠ 1 → s.activeLane = some l) →
      Answers (.verdict l 0x7D1E#16 true cause) s (fun t => t.rd RLD_STATE_STATE = 5 ∧ t.rd RLD_STATE_CAUSE = 0 ∧ t.rd RLD_STATUS_STCHG = 1) ∧
      Answers (.verdict l 0x7D1E#16 false cause) s (fun t => t.rd RLD_STATE_STATE = 6 ∧ t.rd RLD_STATE_CAUSE = cause.toNat ∧ t.rld.step = .restoring ∧
        (s.rd RLD_STATE_KIND = 1 → (s.lane .A).loaded = true → t.role .A = roleOut))) ∧
    (∀ (key : BitVec 16) (pass : Bool), key ≠ 0x7D1E#16 ∨ s.rd RLD_STATE_STATE ≠ 4 ∨ (s.rd RLD_STATE_KIND = 1 ∧ l ≠ .A) ∨ (s.rd RLD_STATE_KIND ≠ 1 ∧ s.activeLane ≠ some l) →
      exec (.verdict l key pass cause) s = .next (s.wr RLD_STATUS_VERDREJ 1)))
/-! ### The DMA engine and the dual-clock queues -/

/-- R369 to R379: a store to CH_TAIL sets it; a channel that is not ready, or whose descriptor has another operation, is not worked; a refused descriptor, or one read poisoned, completes with DESCERR and moves nothing; COPY, FILL and GATHER write what they
should and nothing else, and COPY writes zeros for poisoned words; a PST write refused at once, or a first element outside the readable regions, ends with BUSERR; COMPARE counts the differences; the last response, or RTO
after it has passed, completes the descriptor (with ABORT where the channel is stopping, R379), no word of the engine left in the write buffer of PST; and its record is written with PHASE, or waits with CQWAIT.
A command whose condition does not hold does nothing: the model's choice, notes/assumptions/11. Which command brings a descriptor that has no operation is the model's choice, notes/assumptions/40. -/
def Obligations.DmaWork : Prop :=
  (∀ (s : State) (l : Lane) (n : Fin 16) (v : Word), s.serves l → Answers (.dmaTailWrite l n v) s (fun t => t.rd (DMA_CH_W3_TAIL n.val) = v.toNat % 4096 ∧ t.dma = s.dma)) ∧
  (∀ (s : State) (n : Nat), s.dmaReady n = true ↔ s.rd (DMA_CH_W0_RUNST n) = 1 ∧ s.rd (DMA_CH_W4_HEAD n) ≠ s.rd (DMA_CH_W3_TAIL n) ∧ kvFind s.dma.jobs n = none ∧ ∀ r ∈ s.dma.records, r.chan ≠ n) ∧
  (∀ (s : State) (n : Fin 16) (d : Descriptor) (j : DmaJob), s.up = true → d = readDescriptor (s.dmaFetch n.val) → j = newJob (s.rd (DMA_CH_W4_HEAD n.val)) (s.dmaFetch n.val) s.elapsed →
    (∀ p ∈ [(0, Instr.copy n), (1, Instr.gather n), (2, Instr.fill n), (3, Instr.compare n)],
      (s.dmaReady n.val = false → ∀ (bad : Bool) (e : BusErrors), exec (p.2 bad e) s = .next s) ∧
      (s.dmaReady n.val = true → ∀ e : BusErrors,
        (d.op ≤ 3 → d.op ≠ p.1 → exec (p.2 false e) s = .next s) ∧
        (3 < d.op ∨ d.op = p.1 → s.descRefused d = true → Answers (p.2 false e) s (fun t => t.dma.records = s.dma.records ++ [⟨n.val, DmaJob.record { j with descErr := true } n.val s.tb.now, d.irq⟩] ∧
          t.rd (DMA_CH_W4_HEAD n.val) = (s.rd (DMA_CH_W4_HEAD n.val) + 1) % s.dmaSize n.val ∧ t.rd DMA_ERR_CNT_COUNT = (s.rd DMA_ERR_CNT_COUNT + 1) % 2 ^ 32 ∧ (∀ l : Lane, t.lane l = s.lane l) ∧ t.pst = s.pst)) ∧
        Answers (p.2 true e) s (fun t => ∃ r : Octets, t.dma.records = s.dma.records ++ [⟨n.val, r, d.irq⟩] ∧ octAt r 1 = 3 ∧
          leAt r 16 4 = 0x08000000 + s.rd (DMA_CH_W1_BASE n.val) * 32 + s.rd (DMA_CH_W4_HEAD n.val) * 32 ∧ leAt r 20 2 = 1 ∧ (∀ l : Lane, t.lane l = s.lane l) ∧ t.pst = s.pst))) ∧
    (s.dmaReady n.val = true → s.descRefused d = false →
      (∀ (c : Instr) (bs : Octets), (d.op = 0 ∧ c = .copy n false ⟨[], [], [], []⟩ ∧ s.busRead d.src d.len = some bs) ∨ (d.op = 2 ∧ c = .fill n false ⟨[], [], [], []⟩ ∧ bs = (List.range d.len).map (fun i => octet (octAt d.pattern ((d.dst + i) % 8)))) →
        (d.dst < 0x20000000 → Answers c s (fun t => memRead (t.lane s.busLane).sram (d.dst % 0x08000000) d.len = bs ∧
          (∀ a : Nat, a < d.dst % 0x08000000 ∨ d.dst % 0x08000000 + d.len ≤ a → memGet (t.lane s.busLane).sram a = memGet (s.lane s.busLane).sram a) ∧ t.lane s.busLane.other = s.lane s.busLane.other ∧
          t.rd (DMA_CH_W4_HEAD n.val) = (s.rd (DMA_CH_W4_HEAD n.val) + 1) % s.dmaSize n.val ∧ kvFind t.dma.jobs n.val = some { j with done := d.len })) ∧
        (0x20D80000 ≤ d.dst → s.pstAlone .dma (d.dst % 0x20000000) d.len → Answers c s (fun t => t.pstOctets (d.dst % 0x20000000) d.len = bs ∧ (∀ l : Lane, t.lane l = s.lane l) ∧
          t.rd (DMA_CH_W4_HEAD n.val) = (s.rd (DMA_CH_W4_HEAD n.val) + 1) % s.dmaSize n.val ∧ kvFind t.dma.jobs n.val = some { j with done := d.len })) ∧
        (0x20000000 ≤ d.dst → d.dst < 0x20D80000 → Answers c s (fun t => t.pst = s.pst ∧ t.rd PST_STATUS_WPERR = 1 ∧ (∀ l : Lane, t.lane l = s.lane l) ∧
          ∃ r : Octets, t.dma.records = s.dma.records ++ [⟨n.val, r, d.irq⟩] ∧ octAt r 1 = 2 ∧ leAt r 4 4 = 0))) ∧
      (∀ (bs : Octets) (e : BusErrors), d.op = 0 → d.dst < 0x20000000 → s.busRead d.src d.len = some bs → e.lost = [] → Answers (.copy n false e) s (fun t =>
        memRead (t.lane s.busLane).sram (d.dst % 0x08000000) d.len = bs.mapIdx (fun i b => if hitsWord (wordsIn (e.poison ++ e.parity) d.src d.len) (d.src + i) then octet 0 else b) ∧
        kvFind t.dma.jobs n.val = some { j with done := d.len, poisonAt := (wordsIn (e.poison ++ e.parity) d.src d.len).head?, poisoned := (wordsIn (e.poison ++ e.parity) d.src d.len).length })) ∧
      (d.op = 1 → d.dst < 0x20000000 → ∀ A : Nat → Nat, (∀ k : Nat, k < d.len → A k = (d.src + leAt ((s.busRead (d.idx + 4 * k) 4).getD (zeros 4)) 0 4) % 2 ^ 32) →
        ((∀ k : Nat, k < d.len → d.idx + 4 * k + 4 ≤ d.dst ∨ d.dst + d.len * d.esize ≤ d.idx + 4 * k) →
          (∀ k : Nat, k < d.len → s.readable (A k) d.esize = true ∧ (A k + d.esize ≤ d.dst ∨ d.dst + d.len * d.esize ≤ A k)) → Answers (.gather n false ⟨[], [], [], []⟩) s (fun t =>
            (∀ k : Nat, k < d.len → s.busRead (A k) d.esize = some (memRead (t.lane s.busLane).sram (d.dst % 0x08000000 + k * d.esize) d.esize)) ∧
            (∀ a : Nat, a < d.dst % 0x08000000 ∨ d.dst % 0x08000000 + d.len * d.esize ≤ a → memGet (t.lane s.busLane).sram a = memGet (s.lane s.busLane).sram a) ∧
            kvFind t.dma.jobs n.val = some { j with done := d.len })) ∧
        (s.readable (A 0) d.esize = false → Answers (.gather n false ⟨[], [], [], []⟩) s (fun t => (∀ l : Lane, t.lane l = s.lane l) ∧ t.pst = s.pst ∧
          ∃ r : Octets, t.dma.records = s.dma.records ++ [⟨n.val, r, d.irq⟩] ∧ octAt r 1 = 2 ∧ leAt r 4 4 = 0))) ∧
      (∀ (as bs : Octets) (ms : List Nat), d.op = 3 → s.busRead d.src d.len = some as → s.busRead d.dst d.len = some bs → ms = (List.range d.len).filter (fun k => as[k]? != bs[k]?) → Answers (.compare n false ⟨[], [], [], []⟩) s (fun t =>
        (∀ l : Lane, t.lane l = s.lane l) ∧ t.pst = s.pst ∧ ∃ r : Octets, t.dma.records = s.dma.records ++ [⟨n.val, r, d.irq⟩] ∧ octAt r 0 = n.val ∧ octAt r 1 = 0 ∧ leAt r 4 4 = d.len ∧
          leAt r 8 4 = ms.length ∧ leAt r 12 4 = (ms.head?).elim 0xFFFFFFFF (fun k => d.src + k) ∧ octAt r 22 = 3 ∧ leAt r 24 8 = ts64 s.tb.now % 2 ^ 64)))) ∧
  (∀ (s : State) (n : Fin 16), s.up = true →
    (kvFind s.dma.jobs n.val = none → exec (.dmaDescriptorComplete n) s = .next s ∧ ∀ got : Nat, exec (.dmaResponseTimeout n got) s = .next s) ∧
    (∀ (j : DmaJob) (got : Nat), kvFind s.dma.jobs n.val = some j → s.elapsed ≤ j.issued + max 1 (s.rd (DMA_CH_W5_RTO n.val)) * 1000 → exec (.dmaResponseTimeout n got) s = .next s) ∧
    (∀ (j : DmaJob) (c : Instr) (i : DmaJob), kvFind s.dma.jobs n.val = some j → (c = .dmaDescriptorComplete n ∧ i = { j with aborted := s.rd (DMA_CH_W0_RUNST n.val) == 2 }) ∨ (∃ got : Nat, j.issued + max 1 (s.rd (DMA_CH_W5_RTO n.val)) * 1000 < s.elapsed ∧ c = .dmaResponseTimeout n got ∧
        i = { j with timedOut := true, done := min got j.done }) →
      Answers c s (fun t => t.dma.jobs = kvErase s.dma.jobs n.val ∧ (∀ x ∈ t.pst.buffer, x.writer ≠ .dma) ∧ t.rd DMA_DONE_CNT_COUNT = (s.rd DMA_DONE_CNT_COUNT + 1) % 2 ^ 32 ∧
        t.rd DMA_ERR_CNT_COUNT = (s.rd DMA_ERR_CNT_COUNT + if i.status = 0 then 0 else 1) % 2 ^ 32 ∧
        ∃ r : Octets, t.dma.records = s.dma.records ++ [⟨n.val, r, (readDescriptor j.desc).irq⟩] ∧ octAt r 0 = n.val ∧ octAt r 1 = i.status ∧ leAt r 2 2 = i.index % 65536 ∧ leAt r 4 4 = i.done % 2 ^ 32 ∧
          leAt r 16 4 = (i.poisonAt.getD 0xFFFFFFFF) % 2 ^ 32 ∧ leAt r 20 2 = min 65535 i.poisoned ∧ octAt r 22 = octAt j.desc 0 ∧ leAt r 24 8 = ts64 s.tb.now % 2 ^ 64))) ∧
  (∀ s : State, s.up = true → (s.dma.records = [] → exec .completionRecordWrite s = .next s) ∧
    (∀ (r : DmaRecord) (rest : List DmaRecord) (next : Nat), s.dma.records = r :: rest → next = (s.rd DMA_CQ_WR_VALUE + 1) % s.cqSize →
      (next = s.rd DMA_CQ_RD_VALUE % s.cqSize → exec .completionRecordWrite s = .next (s.wr DMA_STATUS_CQWAIT 1)) ∧
      (next ≠ s.rd DMA_CQ_RD_VALUE % s.cqSize → r.octets.length = 32 → Answers .completionRecordWrite s (fun t =>
        memRead (t.lane s.busLane).sram (s.rd DMA_CQ_BASE_BASE * 32 + s.rd DMA_CQ_WR_VALUE * 32) 32 = r.octets.take 23 ++ [octet (b2n s.dma.phase)] ++ r.octets.drop 24 ∧ t.lane s.busLane.other = s.lane s.busLane.other ∧
        t.rd DMA_CQ_WR_VALUE = next ∧ t.rd DMA_STATUS_CQNEW = 1 ∧ (r.irq = true → t.rd DMA_STATUS_CQIRQ = 1) ∧ (octAt r.octets 1 ≠ 0 → t.rd DMA_STATUS_ERR = 1) ∧
        t.dma = { s.dma with records := rest, phase := if next = 0 then !s.dma.phase else s.dma.phase }))))

/-- R383 to R387: the word read next is an ABORT word that is due, and otherwise one of the first packet of the queue; a word whose parity fails marks its slot, or has its forwarded frame end badly, and is counted in PERR; FLUSH empties the queue, but
for what the port has taken of a forwarded frame, DROP removes the packet that is being written, with the words removed counted in DISC; and the command that the queue does not accept is ignored with CMDREJ.
A command whose condition does not hold does nothing: the model's choice, notes/assumptions/11. The words of a forwarded frame are the model's choice, notes/assumptions/59. -/
def Obligations.QueueCommands : Prop :=
  (∀ (s : State) (q : Fin 17) (bad : Bool), s.up = true →
    (s.dcq.abortDue.contains q.val = true → exec (.dcqWordRead q bad) s = .next { s with dcq := { s.dcq with abortDue := s.dcq.abortDue.filter (· != q.val) } }) ∧
    (s.dcq.abortDue.contains q.val = false →
      (q.val < 15 → (∀ w ∈ s.waiting, w.dcq = some q.val → w.unread = 0) → exec (.dcqWordRead q bad) s = .next s) ∧
      (∀ (i : Nat) (w : Waiting), q.val < 15 → s.waiting[i]? = some w → w.dcq = some q.val → w.unread ≠ 0 → (∀ (k : Nat) (x : Waiting), k < i → s.waiting[k]? = some x → x.dcq ≠ some q.val ∨ x.unread = 0) →
        Answers (.dcqWordRead q bad) s (fun t => (∀ k : Nat, k ≠ i → t.waiting[k]? = s.waiting[k]?) ∧ t.rd (DCQ_Q_W2_PERR q.val) = (s.rd (DCQ_Q_W2_PERR q.val) + b2n bad) % 2 ^ 32 ∧
          (bad = false → t.waiting[i]? = some { w with unread := w.unread - 1 }) ∧
          (bad = true → ∃ x : Waiting, t.waiting[i]? = some x ∧ x.unread = w.unread - 1 ∧ (w.ev.words - w.unread) / 4 ∈ x.ev.bad ∧ { x.ev with bad := [] } = { w.ev with bad := [] }))) ∧
      (15 ≤ q.val → s.fwdOf q.val = [] → exec (.dcqWordRead q bad) s = .next s) ∧
      (∀ (x : Forward) (rest : List Forward), 15 ≤ q.val → s.fwdOf q.val = x :: rest →
        (x.unread = 0 → exec (.dcqWordRead q bad) s = .next s) ∧
        (x.unread ≠ 0 → Answers (.dcqWordRead q bad) s (fun t => t.fwdOf q.val = { x with unread := x.unread - 1, bad := x.bad || bad } :: rest ∧ t.waiting = s.waiting ∧
          t.rd (DCQ_Q_W2_PERR q.val) = (s.rd (DCQ_Q_W2_PERR q.val) + b2n bad) % 2 ^ 32))))) ∧
  (∀ (s : State) (l : Lane) (q : Fin 17) (writing : Bool), s.serves l →
    (s.rd (DCQ_Q_W0_CMDSEL q.val) = 0 →
      (q.val < 15 → Answers (.flush l q writing) s (fun t => t.waiting = s.waiting.filter (fun w => w.dcq != some q.val) ∧ t.rd (DCQ_Q_W1_USED q.val) = 0 ∧
        t.rd (DCQ_Q_W3_DISC q.val) = (s.rd (DCQ_Q_W3_DISC q.val) + s.dcqUsed q.val) % 2 ^ 32 ∧
        ((∃ w ∈ s.waiting, w.dcq = some q.val ∧ w.unread ≠ 0 ∧ w.unread ≠ w.ev.words) → q.val ∈ t.dcq.abortDue) ∧
        (s.rd (DCQ_Q_W0_RUNST q.val) = 2 → t.rd (DCQ_Q_W0_RUNST q.val) = if s.rd (DCQ_Q_W0_EN q.val) = 0 then 0 else 3))) ∧
      (15 ≤ q.val → (∀ w ∈ s.waiting, w.dcq ≠ some q.val) → Answers (.flush l q writing) s (fun t => t.waiting = s.waiting ∧ t.fwdOf q.val = ((s.fwdOf q.val).take 1).flatMap Forward.cut ∧ t.rd (DCQ_Q_W1_USED q.val) = 0 ∧
        t.rd (DCQ_Q_W3_DISC q.val) = (s.rd (DCQ_Q_W3_DISC q.val) + s.dcqUsed q.val) % 2 ^ 32 ∧
        (s.rd (DCQ_Q_W0_RUNST q.val) = 2 → t.rd (DCQ_Q_W0_RUNST q.val) = if s.rd (DCQ_Q_W0_EN q.val) = 0 then 0 else 3))) ∧
      Answers (.drop l q writing) s (fun t => t.rd DCQ_STATUS_CMDREJ = 1 ∧ t.waiting = s.waiting ∧ t.dcq = s.dcq ∧ t.bh = s.bh ∧ t.rd (DCQ_Q_W3_DISC q.val) = s.rd (DCQ_Q_W3_DISC q.val))) ∧
    (s.rd (DCQ_Q_W0_CMDSEL q.val) ≠ 0 →
      Answers (.flush l q writing) s (fun t => t.rd DCQ_STATUS_CMDREJ = 1 ∧ t.waiting = s.waiting ∧ t.dcq = s.dcq ∧ t.bh = s.bh ∧ t.rd (DCQ_Q_W3_DISC q.val) = s.rd (DCQ_Q_W3_DISC q.val)) ∧
      (writing = false → Answers (.drop l q writing) s (fun t => t.waiting = s.waiting ∧ t.dcq = s.dcq ∧ t.bh = s.bh ∧ t.rd (DCQ_Q_W3_DISC q.val) = s.rd (DCQ_Q_W3_DISC q.val))) ∧
      (writing = true → q.val < 15 → ∀ (i : Nat) (w : Waiting), s.waiting[i]? = some w → w.dcq = some q.val → w.unread ≠ 0 → (∀ (k : Nat) (x : Waiting), i < k → s.waiting[k]? = some x → x.dcq ≠ some q.val ∨ x.unread = 0) →
        Answers (.drop l q writing) s (fun t => t.waiting = s.waiting.eraseIdx i ∧ t.rd (DCQ_Q_W3_DISC q.val) = (s.rd (DCQ_Q_W3_DISC q.val) + w.unread) % 2 ^ 32 ∧ (w.unread ≠ w.ev.words → q.val ∈ t.dcq.abortDue))) ∧
      (writing = true → 15 ≤ q.val → ∀ x : Forward, (s.fwdOf q.val).getLast? = some x → x.unread ≠ 0 →
        Answers (.drop l q writing) s (fun t => t.fwdOf q.val = (s.fwdOf q.val).dropLast ++ x.cut ∧ t.waiting = s.waiting ∧ t.rd (DCQ_Q_W3_DISC q.val) = (s.rd (DCQ_Q_W3_DISC q.val) + x.unread) % 2 ^ 32))))
/-! ### The safety block -/

/-- R403, R405, R406, R408, R409: an order for the SHADOW lane waits for the Active lane's seal, one for a lane held in BOOT by BLOCK starts at once, and any other sets CMDREJ; a periodic start is due after BIST_PER hours and deferred while it cannot proceed; at the
seal the test starts, or the lanes swap first, or the order is refused; the end of a run returns the lane to BOOT with its result, its signatures, BLOCK and the event; and CLRBLK clears BLOCK.
A command whose condition does not hold does nothing: the model's choice, notes/assumptions/11. That an order that cannot proceed is refused at once is the model's reading, notes/assumptions/43. -/
def Obligations.LaneTests : Prop :=
  (∀ s : State, s.bistMay = true ↔ s.role .A ≠ roleJoining ∧ s.role .B ≠ roleJoining ∧ s.rd LSC_CTRL_SPLIT = 0 ∧ s.rd RLD_STATE_STATE = 0 ∧ s.rd BHM0_DR_STAT_STATE = 0 ∧ s.rd LSC_ROLE_SUSPECT = 0 ∧
    s.rd LSC_ROLE_DEGRADED = 0 ∧ s.saf.bist = none ∧ ((s.role .A = roleActive ∧ s.role .B = roleShadow) ∨ (s.role .A = roleShadow ∧ s.role .B = roleActive))) ∧
  (∀ (s : State) (l : Lane), s.serves l →
    (∀ (key : BitVec 16), key ≠ 0x5AFE#16 → ∀ i ∈ [Instr.bistLaneA l key, .bistLaneB l key, .clrblk l key], exec i s = .next (s.wr SAF_STATUS_CMDREJ 1)) ∧
    Answers (.clrblk l 0x5AFE#16) s (fun t => t.rd SAF_BIST_BLOCK_A = 0 ∧ t.rd SAF_BIST_BLOCK_B = 0) ∧
    (∀ p ∈ [(Lane.A, Instr.bistLaneA l 0x5AFE#16), (Lane.B, Instr.bistLaneB l 0x5AFE#16)],
      (s.role p.1 = roleShadow → s.bistMay = true → s.saf.ordered = none → exec p.2 s = .next { s with saf := { s.saf with ordered := some p.1 } }) ∧
      (s.role p.1 = roleBoot → s.blocked p.1 = true → s.role p.1.other = roleActive → s.bistCalm = true → s.saf.bist = none → Answers p.2 s (fun t =>
        t.saf.bist = some ⟨p.1, 2⟩ ∧ t.rd (bistRunField p.1) = 1 ∧ t.role p.1 = roleBist ∧ t.rd (causeField p.1) = causeBist)) ∧
      ((s.role p.1 ≠ roleShadow ∧ s.role p.1 ≠ roleBoot) ∨ (s.role p.1 = roleShadow ∧ s.bistMay = false) ∨ (s.role p.1 = roleBoot ∧ (s.blocked p.1 = false ∨ s.role p.1.other ≠ roleActive ∨ s.bistCalm = false)) →
        exec p.2 s = .next (s.wr SAF_STATUS_CMDREJ 1)))) ∧
  (∀ s : State, s.up = true →
    (s.rd SAF_CTRL_BIST_EN = 0 ∨ s.elapsed < s.saf.lastBist + max 1 (s.rd SAF_PER_BIST_PER) * 3600000000000 → exec .bistPeriodicDue s = .next s) ∧
    (s.rd SAF_CTRL_BIST_EN ≠ 0 → s.saf.lastBist + max 1 (s.rd SAF_PER_BIST_PER) * 3600000000000 ≤ s.elapsed → Answers .bistPeriodicDue s (fun t => t.saf = { s.saf with due := true } ∧
      t.rd SAF_STATUS_BISTDEFER = if s.bistMay = true then s.rd SAF_STATUS_BISTDEFER else 1))) ∧
  (∀ s : State, (∀ l : Lane, s.saf.ordered = some l →
      (s.bistMay = true → s.role l = roleShadow → s.safSeal.saf.bist = some ⟨l, 2⟩ ∧ s.safSeal.role l = roleBist ∧ s.safSeal.rd (bistRunField l) = 1 ∧ s.safSeal.saf.ordered = none) ∧
      (s.bistMay = false → s.safSeal = { s with saf := { s.saf with ordered := none } }.wr SAF_STATUS_CMDREJ 1)) ∧
    (s.saf.ordered = none → (s.saf.due = false → s.safSeal = s) ∧ (s.saf.due = true → s.bistMay = false → s.safSeal = s.wr SAF_STATUS_BISTDEFER 1) ∧
      (∀ a : Lane, s.saf.due = true → s.bistMay = true → s.role a = roleActive →
        (s.rd SAF_CTRL_SWAP_EN ≠ 0 ∧ s.saf.lastLane = some a.other → s.safSeal.role a = roleShadow ∧ s.safSeal.role a.other = roleActive ∧ s.safSeal.saf = s.saf) ∧
        (s.rd SAF_CTRL_SWAP_EN = 0 ∨ s.saf.lastLane ≠ some a.other → s.safSeal.saf.bist = some ⟨a.other, 1⟩ ∧ s.safSeal.role a.other = roleBist ∧ s.safSeal.saf.due = false ∧ s.safSeal.saf.lastBist = s.elapsed)))) ∧
  (∀ (s : State) (r : BistResult), s.up = true → (s.saf.bist = none → exec (.bistComplete r) s = .next s) ∧
    (∀ (b : BistRun) (code : Nat), s.saf.bist = some b → code = (if r.logicFail then 2 else if r.memoryFail then 3 else 1) → Answers (.bistComplete r) s (fun t =>
      t.saf.bist = none ∧ t.role b.lane = roleBoot ∧ (t.lane b.lane).refilling = true ∧ t.rd (bistRunField b.lane) = 0 ∧ t.rd (bistResField b.lane) = code ∧ t.rd (logicSig b.lane) = r.lsig % 2 ^ 64 ∧ t.rd (memorySig b.lane) = r.msig % 2 ^ 64 ∧
      t.rd SAF_STATUS_BISTDONE = 1 ∧ (code ≠ 1 → t.rd SAF_STATUS_BISTFAIL = 1) ∧ t.rd (bistBlockField b.lane) = (if code = 1 then 0 else 1) ∧
      t.waiting.getLast? = some ⟨s.event 68 0 0x01 ([laneOctet b.lane, octet code, octet b.origin] ++ zeros 5 ++ le 8 (if code = 3 then r.msig % 2 ^ 64 else r.lsig % 2 ^ 64)) s.tb.now, none, 0⟩)))

/-- R401, R407, R408, R409: a proof test of a path of SF1 starts where neither path is asserted and no test runs, FULL also with VPRES 0, and otherwise sets CMDREJ; the periodic tests start on path A every SF1PER hours and on path B 1 s later; the end of a test leaves
its result, its time and its event, with SF1TFAIL on a failure, and suspends the check of disagreement for 100 ms; and Rinse reads the next word of each lane, counting corrected errors, completing a pass after the last word, and taking out a lane
in which it finds an uncorrected one.
A command whose condition does not hold does nothing: the model's choice, notes/assumptions/11. -/
def Obligations.ProofTestsAndRinse : Prop :=
  (∀ (s : State) (l : Lane), s.serves l →
    (∀ (key : BitVec 16), key ≠ 0x5AFE#16 → ∀ i ∈ [Instr.detectPathA l key, .detectPathB l key, .fullPathA l key, .fullPathB l key], exec i s = .next (s.wr SAF_STATUS_CMDREJ 1)) ∧
    (∀ p ∈ [(ProofTest.mk 0 false, Instr.detectPathA l 0x5AFE#16), (ProofTest.mk 1 false, Instr.detectPathB l 0x5AFE#16), (ProofTest.mk 0 true, Instr.fullPathA l 0x5AFE#16), (ProofTest.mk 1 true, Instr.fullPathB l 0x5AFE#16)],
      (s.rd MTR_SF1_PATHA = 0 → s.rd MTR_SF1_PATHB = 0 → s.saf.test = none → (p.1.full = true → s.rd MTR_PHST_VPRES = 0) → exec p.2 s = .next ({ s with saf := { s.saf with test := some p.1 } }.wr SAF_SF1T_RUN 1)) ∧
      (s.rd MTR_SF1_PATHA ≠ 0 ∨ s.rd MTR_SF1_PATHB ≠ 0 ∨ s.saf.test ≠ none ∨ (p.1.full = true ∧ s.rd MTR_PHST_VPRES ≠ 0) → exec p.2 s = .next (s.wr SAF_STATUS_CMDREJ 1)))) ∧
  (∀ s : State, s.up = true →
    (s.rd SAF_CTRL_SF1T_EN = 0 → exec .sf1TestPeriodic s = .next s) ∧
    (s.rd SAF_CTRL_SF1T_EN ≠ 0 →
      (∀ t0 : Nat, s.saf.dueB = some t0 → (s.elapsed < t0 → exec .sf1TestPeriodic s = .next s) ∧
        (t0 ≤ s.elapsed → s.rd MTR_SF1_PATHA = 0 → s.rd MTR_SF1_PATHB = 0 → s.saf.test = none → Answers .sf1TestPeriodic s (fun t => t.saf = { s.saf with dueB := none, test := some ⟨1, false⟩ } ∧ t.rd SAF_SF1T_RUN = 1))) ∧
      (s.saf.dueB = none → (s.elapsed < s.saf.lastTest + max 1 (s.rd SAF_PER_SF1PER) * 3600000000000 → exec .sf1TestPeriodic s = .next s) ∧
        (s.saf.lastTest + max 1 (s.rd SAF_PER_SF1PER) * 3600000000000 ≤ s.elapsed → s.rd MTR_SF1_PATHA = 0 → s.rd MTR_SF1_PATHB = 0 → s.saf.test = none → Answers .sf1TestPeriodic s (fun t =>
          t.saf = { s.saf with lastTest := s.elapsed, dueB := some (s.elapsed + 1000000000), test := some ⟨0, false⟩ } ∧ t.rd SAF_SF1T_RUN = 1))))) ∧
  (∀ (s : State) (time : Option Nat) (ok : Bool), s.up = true → (s.saf.test = none → exec (.sf1TestComplete time ok) s = .next s) ∧
    (∀ (p : ProofTest) (res : Nat), s.saf.test = some p → (∀ v ∈ time, v < 65536) → res = (if time.all (fun v => 400 < v) then 1 else if ok then 0 else 2) → Answers (.sf1TestComplete time ok) s (fun t =>
      t.saf = { s.saf with test := none, quietUntil := s.elapsed + 100000000 } ∧ t.rd SAF_SF1T_RUN = 0 ∧ (∀ v ∈ time, t.rd SAF_SF1T_QTIME = v) ∧
      t.rd (if p.path = 0 then SAF_SF1T_RES_A else SAF_SF1T_RES_B) = (if res = 0 then 1 else 2) ∧ t.rd (if p.path = 0 then SAF_SF1T_RES_B else SAF_SF1T_RES_A) = s.rd (if p.path = 0 then SAF_SF1T_RES_B else SAF_SF1T_RES_A) ∧
      t.rd SAF_STATUS_SF1TFAIL = (if res = 0 then s.rd SAF_STATUS_SF1TFAIL else 1) ∧
      t.waiting = s.waiting ++ [⟨s.event 68 0 0x02 ([octet (p.path + 1), octet (if p.full then 2 else 1), octet res, octet 0] ++ le 2 (t.rd SAF_SF1T_QTIME)) s.tb.now, none, 0⟩]))) ∧
  (∀ (s : State) (a b : RinseMeet), s.up = true →
    (s.rinsePaused .A = true → s.rinsePaused .B = true → exec (.rinseRead a b) s = .next s) ∧
    (a ≠ .uncorrected → b ≠ .uncorrected → s.rinsePaused .A = false ∨ s.rinsePaused .B = false → Answers (.rinseRead a b) s (fun t =>
      t.rd (LSC_CE_CNT_COUNT .A) = (s.rd (LSC_CE_CNT_COUNT .A) + if a = .corrected ∧ s.rinsePaused .A = false then 1 else 0) % 2 ^ 32 ∧
      t.rd (LSC_CE_CNT_COUNT .B) = (s.rd (LSC_CE_CNT_COUNT .B) + if b = .corrected ∧ s.rinsePaused .B = false then 1 else 0) % 2 ^ 32 ∧
      (s.saf.rinseAt < 524287 → t.saf = { s.saf with rinseAt := s.saf.rinseAt + 1 } ∧ t.rd SAF_RINSE_PASS_COUNT = s.rd SAF_RINSE_PASS_COUNT) ∧
      (s.saf.rinseAt = 524287 → t.saf = { s.saf with rinseAt := 0 } ∧ t.rd SAF_RINSE_PASS_COUNT = (s.rd SAF_RINSE_PASS_COUNT + 1) % 2 ^ 32))) ∧
    (∀ l : Lane, s.rinsePaused l = false → s.role l ≠ roleOut → s.role l ≠ roleOff → s.role l ≠ roleBist →
      Answers (.rinseRead (if l = .A then .uncorrected else .clean) (if l = .B then .uncorrected else .clean)) s (fun t =>
        t.rd SAF_STATUS_RINSEUE = 1 ∧ t.role l = roleOut ∧ t.rd (causeField l) = causeSramUe ∧ t.rd (outFlag l) = 1)))
end

