-- ==== Sys2Proof/Laws/Memory.lean ====
section
/-!
SUPPORT. Lists of keys and values and octet memories: reading after writing, and that every operation keeps the canonical form.
-/
namespace Sys2Proof.Machine
set_option Elab.async false

open Host (Cell)

/-! ### Lists of keys and values -/

@[simp] theorem kvFind_kvSet_same {α : Type} (m : List (Nat × α)) (q : Nat) (w : α) : kvFind (kvSet m q w) q = some w := by
  induction m with
  | nil => simp [kvSet, kvFind]
  | cons p t ih =>
    obtain ⟨k, v⟩ := p
    simp only [kvSet]
    split
    · simp [kvFind]
    · split
      · simp [kvFind]
      · rename_i h1 h2
        simp [kvFind, ih, Ne.symm h2]

theorem kvFind_kvSet_ne {α : Type} (m : List (Nat × α)) {p q : Nat} (w : α) (h : p ≠ q) : kvFind (kvSet m q w) p = kvFind m p := by
  induction m with
  | nil => simp [kvSet, kvFind, Ne.symm h]
  | cons x t ih =>
    obtain ⟨k, v⟩ := x
    simp only [kvSet]
    split
    · simp [kvFind, Ne.symm h]
    · split
      · rename_i h1 h2
        subst h2
        simp [kvFind, Ne.symm h]
      · simp [kvFind, ih]

@[simp] theorem kvFind_kvErase_same {α : Type} (m : List (Nat × α)) (q : Nat) : kvFind (kvErase m q) q = none := by
  induction m with
  | nil => rfl
  | cons x t ih =>
    obtain ⟨k, v⟩ := x
    simp only [kvErase, List.filter_cons]
    split
    · rename_i h
      have h : k ≠ q := by simpa using h
      simp only [kvFind, h, if_false]
      exact ih
    · exact ih

theorem kvFind_kvErase_ne {α : Type} (m : List (Nat × α)) {p q : Nat} (h : p ≠ q) : kvFind (kvErase m q) p = kvFind m p := by
  induction m with
  | nil => rfl
  | cons x t ih =>
    obtain ⟨k, v⟩ := x
    simp only [kvErase, List.filter_cons]
    split
    · simp only [kvFind]
      split
      · rfl
      · exact ih
    · rename_i hk
      have hk : k = q := by simpa using hk
      subst hk
      simp only [kvFind, Ne.symm h, if_false]
      exact ih

theorem kvSet_keys {α : Type} (m : List (Nat × α)) (q : Nat) (w : α) (x : Nat) (h : x ∈ (kvSet m q w).map (·.1)) : x = q ∨ x ∈ m.map (·.1) := by
  induction m with
  | nil => simpa [kvSet] using h
  | cons p t ih =>
    obtain ⟨k, v⟩ := p
    simp only [kvSet] at h
    split at h
    · simpa using h
    · split at h
      · simp only [List.map_cons, List.mem_cons] at h ⊢
        rcases h with h | h
        · exact .inl h
        · exact .inr (.inr h)
      · simp only [List.map_cons, List.mem_cons] at h ⊢
        rcases h with h | h
        · exact .inr (.inl h)
        · exact (ih h).imp_right .inr

/-- A key given a value keeps the canonical form. -/
theorem kvSet_wf {α : Type} (m : List (Nat × α)) (q : Nat) (w : α) (h : kvWf m) : kvWf (kvSet m q w) := by
  induction m with
  | nil => simp [kvSet, kvWf]
  | cons p t ih =>
    obtain ⟨k, v⟩ := p
    simp only [kvWf, List.map_cons, List.pairwise_cons] at h
    obtain ⟨h1, h2⟩ := h
    simp only [kvSet]
    split
    · rename_i hq
      simp only [kvWf, List.map_cons, List.pairwise_cons, List.mem_cons]
      refine ⟨?_, h1, h2⟩
      rintro x (rfl | hx)
      · exact hq
      · exact Nat.lt_trans hq (h1 x hx)
    · split
      · rename_i h3 h4
        subst h4
        exact List.pairwise_cons.2 ⟨h1, h2⟩
      · rename_i h3 h4
        refine List.pairwise_cons.2 ⟨?_, ih h2⟩
        intro x hx
        rcases kvSet_keys t q w x hx with rfl | hx
        · show k < x; omega
        · exact h1 x hx

/-- A filtered list keeps the canonical form. -/
theorem kvFilter_wf {α : Type} (m : List (Nat × α)) (f : Nat × α → Bool) (h : kvWf m) : kvWf (m.filter f) :=
  List.Pairwise.sublist (List.Sublist.map _ List.filter_sublist) h

/-- A key no longer listed keeps the canonical form. -/
theorem kvErase_wf {α : Type} (m : List (Nat × α)) (q : Nat) (h : kvWf m) : kvWf (kvErase m q) := kvFilter_wf m _ h

/-! ### Octet memories -/

/-- The canonical form of a memory in two parts: rising addresses, and no octet listed that is 0. -/
theorem memory_wf_iff (m : List Cell) : Memory.wf m = true ↔ kvWf m ∧ ∀ c ∈ m, c.2 ≠ octet 0 := by
  induction m with
  | nil => simp [Memory.wf, kvWf]
  | cons x t ih =>
    obtain ⟨a, b⟩ := x
    cases t with
    | nil => simp [Memory.wf, kvWf]
    | cons y t =>
      obtain ⟨a', b'⟩ := y
      simp only [Memory.wf, Bool.and_eq_true, decide_eq_true_eq, ih]
      simp only [kvWf, List.map_cons, List.pairwise_cons, List.mem_cons, bne_iff_ne, ne_eq]
      constructor
      · rintro ⟨⟨hb, hlt⟩, ⟨h1, h2⟩, h3⟩
        refine ⟨⟨?_, h1, h2⟩, ?_⟩
        · rintro z (rfl | hz)
          · exact hlt
          · exact Nat.lt_trans hlt (h1 z hz)
        · rintro c (rfl | hc)
          · exact hb
          · exact h3 c hc
      · rintro ⟨⟨h0, h1, h2⟩, h3⟩
        exact ⟨⟨h3 _ (.inl rfl), h0 _ (.inl rfl)⟩, ⟨h1, h2⟩, fun c hc => h3 c (.inr hc)⟩

theorem kvSet_mem {α : Type} (m : List (Nat × α)) (q : Nat) (w : α) (x : Nat × α) (h : x ∈ kvSet m q w) : x = (q, w) ∨ x ∈ m := by
  induction m with
  | nil => simpa [kvSet] using h
  | cons p t ih =>
    obtain ⟨k, v⟩ := p
    simp only [kvSet] at h
    split at h
    · simpa using h
    · split at h
      · simp only [List.mem_cons] at h ⊢
        exact h.imp_right .inr
      · simp only [List.mem_cons] at h ⊢
        rcases h with h | h
        · exact .inr (.inl h)
        · exact (ih h).imp_right .inr

/-- One octet written keeps the canonical form. -/
theorem memSet_wf (m : List Cell) (a : Nat) (b : Byte) (h : Memory.wf m = true) : Memory.wf (memSet m a b) = true := by
  obtain ⟨h1, h2⟩ := (memory_wf_iff m).1 h
  rw [memory_wf_iff]
  simp only [memSet]
  split
  · exact ⟨kvErase_wf m a h1, fun c hc => h2 c (List.mem_filter.1 hc).1⟩
  · rename_i hb
    refine ⟨kvSet_wf m a b h1, fun c hc => ?_⟩
    rcases kvSet_mem m a b c hc with rfl | hc
    · exact hb
    · exact h2 c hc

/-- Octets written keep the canonical form. -/
theorem memWrite_wf (m : List Cell) (a : Nat) (bs : Octets) (h : Memory.wf m = true) : Memory.wf (memWrite m a bs) = true := by
  induction bs generalizing m a with
  | nil => exact h
  | cons b bs ih => exact ih _ _ (memSet_wf m a b h)

/-- An erased range keeps the canonical form. -/
theorem memFilter_wf (m : List Cell) (f : Cell → Bool) (h : Memory.wf m = true) : Memory.wf (m.filter f) = true := by
  obtain ⟨h1, h2⟩ := (memory_wf_iff m).1 h
  exact (memory_wf_iff _).2 ⟨kvFilter_wf m f h1, fun c hc => h2 c (List.mem_filter.1 hc).1⟩

/-- The octet just written reads back. -/
@[simp] theorem memGet_memSet_same (m : List Cell) (a : Nat) (b : Byte) : memGet (memSet m a b) a = b := by
  simp only [memGet, memSet]
  split
  · rename_i h
    simp [h]
  · simp

/-- An octet written leaves every other octet as it was. -/
theorem memGet_memSet_ne (m : List Cell) {a a' : Nat} (b : Byte) (h : a' ≠ a) : memGet (memSet m a b) a' = memGet m a' := by
  simp only [memGet, memSet]
  split
  · rw [kvFind_kvErase_ne m h]
  · rw [kvFind_kvSet_ne m b h]

/-- Octets written leave every octet outside them as it was. -/
theorem memGet_memWrite_outside (m : List Cell) (a a' : Nat) (bs : Octets) (h : a' < a ∨ a + bs.length ≤ a') : memGet (memWrite m a bs) a' = memGet m a' := by
  induction bs generalizing m a with
  | nil => rfl
  | cons b bs ih =>
    simp only [List.length_cons] at h
    rw [memWrite, ih _ _ (by omega), memGet_memSet_ne _ _ (by omega)]

/-- Octets written read back. -/
theorem memRead_memWrite (m : List Cell) (a : Nat) (bs : Octets) : memRead (memWrite m a bs) a bs.length = bs := by
  induction bs generalizing m a with
  | nil => rfl
  | cons b bs ih =>
    simp only [List.length_cons, memRead, memWrite]
    rw [ih, memGet_memWrite_outside _ _ _ _ (by omega)]
    simp

/-! ### Register fields -/

/-- A field just written reads back, cut to its width. -/
@[simp] theorem rd_wr_same (s : State) (f : Field) (v : Nat) : (s.wr f v).rd f = v % 2 ^ f.width := by
  simp only [State.rd, State.wr]
  split
  · rename_i h
    simp [h.symm]
  · simp

/-- A field written leaves every field at another place as it was. -/
theorem rd_wr_ne (s : State) {f g : Field} (v : Nat) (h : g.key ≠ f.key) : (s.wr f v).rd g = s.rd g := by
  simp only [State.rd, State.wr]
  split
  · rw [kvFind_kvErase_ne _ h]
  · rw [kvFind_kvSet_ne _ _ h]

/-- A field holds a value of its width. -/
theorem rd_lt (s : State) (f : Field) : s.rd f < 2 ^ f.width := Nat.mod_lt _ (Nat.two_pow_pos _)

/-- A field written keeps the registers in canonical form. -/
theorem wr_regs_wf (s : State) (f : Field) (v : Nat) (h : kvWf s.regs) : kvWf (s.wr f v).regs := by
  simp only [State.wr]
  split
  · exact kvErase_wf _ _ h
  · exact kvSet_wf _ _ _ h

end Sys2Proof.Machine
end

