-- ==== Sys2Proof/Laws/Only.lean ====
section
/-!
SUPPORT. What an operation may change: `Only m s t` says that every part of the state whose bit is not set in the mask `m` is the same in `t` as in `s`, that the queue is
the same, and that the invariant stands. The law of an operation gives the mask of the parts it changes, and cites the laws of the operations it calls.
-/
namespace Sys2Proof.Machine
set_option Elab.async false

/-- The bit of a part in a mask. -/
def Part.bit : Part → Nat
  | .regs b => b.number
  | .lanes => 23
  | .sram => 24
  | .waiting => 25
  | .tb => 26
  | .crz => 27
  | .lsc => 28
  | .flt => 29
  | .lnu => 30
  | .esc => 31
  | .dma => 32
  | .dcq => 33
  | .pstCells => 34
  | .pstBuffer => 35
  | .evr => 36
  | .otp => 37
  | .ksu => 38
  | .cry => 39
  | .acm => 40
  | .acmSize => 41
  | .rtc => 42
  | .mtr => 43
  | .bh => 44
  | .rfm => 45
  | .plm => 46
  | .rfl => 47
  | .rld => 48
  | .saf => 49
  | .sys => 50
  | .held => 51
  | .sent => 52
  | .cycles => 53
  | .freeCount => 54

/-- The bit of the registers a field belongs to; 22 for a field of no block. -/
def Field.bit (f : Field) : Nat := min 22 f.block

/-- The mask `a` lies in the mask `m`. -/
def sub (a m : Nat) : Bool := a &&& m == a

/-- A field belongs to registers that the mask names. -/
def FieldIn (f : Field) (m : Nat) : Prop := m.testBit f.bit = true

/-- From `s` to `t` only the parts in the mask change; the queue is the same and the invariant stands. -/
structure Only (m : Nat) (s t : State) : Prop where
  same : ∀ p : Part, m.testBit p.bit = false → p.same s t
  pending : t.pending = s.pending
  inv : s.Inv → t.Inv

theorem part_same_refl (p : Part) (s : State) : p.same s s := by
  cases p <;> first | exact rfl | exact ⟨rfl, rfl⟩ | exact fun _ _ => rfl

theorem part_same_trans {p : Part} {r s t : State} (a : p.same r s) (b : p.same s t) : p.same r t := by
  cases p
  case regs k => exact fun f hf => (b f hf).trans (a f hf)
  case lanes => exact ⟨b.1.trans a.1, b.2.trans a.2⟩
  case sram => exact ⟨b.1.trans a.1, b.2.trans a.2⟩
  case esc => exact ⟨b.1.trans a.1, b.2.trans a.2⟩
  case pstBuffer => exact ⟨b.1.trans a.1, b.2.trans a.2⟩
  all_goals exact Eq.trans b a

theorem Only.refl {m : Nat} (s : State) : Only m s s := ⟨fun p _ => part_same_refl p s, rfl, id⟩

theorem Only.trans {m : Nat} {r s t : State} (a : Only m r s) (b : Only m s t) : Only m r t :=
  ⟨fun p hp => part_same_trans (a.same p hp) (b.same p hp), b.pending.trans a.pending, fun h => b.inv (a.inv h)⟩

theorem sub_testBit {a m i : Nat} (h : sub a m = true) (hi : a.testBit i = true) : m.testBit i = true := by
  have e : a &&& m = a := by simpa [sub] using h
  have e2 : (a &&& m).testBit i = true := by rw [e]; exact hi
  rw [Nat.testBit_and, Bool.and_eq_true] at e2
  exact e2.2

theorem sub_mid {a b m : Nat} (h : sub a b = true) (hm : sub b m = true) : sub a m = true := by
  have e1 : a &&& b = a := by simpa [sub] using h
  have e2 : b &&& m = b := by simpa [sub] using hm
  have e3 : a &&& m = a := by rw [← e1, Nat.and_assoc, e2]
  simp [sub, e3]

theorem bit_mid {a m i : Nat} (hm : sub a m = true) (h : a.testBit i = true) : m.testBit i = true := sub_testBit hm h

/-- A part in the mask need not be the same. -/
theorem bit_no {a m i : Nat} {p : Prop} (hm : sub a m = true) (h : a.testBit i = true) (hi : m.testBit i = false) : p := by
  rw [sub_testBit hm h] at hi
  cases hi

theorem FieldIn.mid {f : Field} {a m : Nat} (hm : sub a m = true) (h : FieldIn f a) : FieldIn f m := sub_testBit hm h

/-- Every field belongs to the registers together. -/
theorem fieldIn_all (f : Field) : FieldIn f 8388607 := by
  have h : f.bit < 23 := by
    simp only [Field.bit]
    omega
  simp only [FieldIn]
  generalize f.bit = i at h
  interval_cases i <;> decide

/-- A field whose number of region is known. -/
theorem fieldIn_block {f : Field} {b m : Nat} (h : f.block = b) (hb : m.testBit (min 22 b) = true) : FieldIn f m := by
  simp only [FieldIn, Field.bit, h]
  exact hb

/-- A field of a backhaul port, whichever port. -/
theorem fieldIn_port {f : Field} {m : Nat} (h : f.block = 9 ∨ f.block = 10) (hb : (m.testBit 9 && m.testBit 10) = true) : FieldIn f m := by
  rw [Bool.and_eq_true] at hb
  rcases h with h | h
  · exact fieldIn_block h hb.1
  · exact fieldIn_block h hb.2

/-- The state `y` is `x` but for parts in the mask `a`, and the invariant stands. Each field is proved where its default does not prove it. -/
structure Upd (a : Nat) (x y : State) : Prop where
  regs : sub 4194303 a = true ∨ y.regs = x.regs := by first | exact .inr rfl | exact .inl rfl
  waiting : a.testBit 25 = true ∨ y.waiting = x.waiting := by first | exact .inl rfl | exact .inr rfl
  tb : a.testBit 26 = true ∨ y.tb = x.tb := by first | exact .inl rfl | exact .inr rfl
  crz : a.testBit 27 = true ∨ y.crz = x.crz := by first | exact .inl rfl | exact .inr rfl
  lsc : a.testBit 28 = true ∨ y.lsc = x.lsc := by first | exact .inl rfl | exact .inr rfl
  flt : a.testBit 29 = true ∨ y.flt = x.flt := by first | exact .inl rfl | exact .inr rfl
  lnu : a.testBit 30 = true ∨ y.lnu = x.lnu := by first | exact .inl rfl | exact .inr rfl
  escA : a.testBit 31 = true ∨ y.escA = x.escA := by first | exact .inl rfl | exact .inr rfl
  escB : a.testBit 31 = true ∨ y.escB = x.escB := by first | exact .inl rfl | exact .inr rfl
  dma : a.testBit 32 = true ∨ y.dma = x.dma := by first | exact .inl rfl | exact .inr rfl
  dcq : a.testBit 33 = true ∨ y.dcq = x.dcq := by first | exact .inl rfl | exact .inr rfl
  evr : a.testBit 36 = true ∨ y.evr = x.evr := by first | exact .inl rfl | exact .inr rfl
  otp : a.testBit 37 = true ∨ y.otp = x.otp := by first | exact .inl rfl | exact .inr rfl
  ksu : a.testBit 38 = true ∨ y.ksu = x.ksu := by first | exact .inl rfl | exact .inr rfl
  cry : a.testBit 39 = true ∨ y.cry = x.cry := by first | exact .inl rfl | exact .inr rfl
  acm : a.testBit 40 = true ∨ y.acm = x.acm := by first | exact .inl rfl | exact .inr rfl
  acmSize : a.testBit 41 = true ∨ y.acmSize = x.acmSize := by first | exact .inl rfl | exact .inr rfl
  rtc : a.testBit 42 = true ∨ y.rtc = x.rtc := by first | exact .inl rfl | exact .inr rfl
  mtr : a.testBit 43 = true ∨ y.mtr = x.mtr := by first | exact .inl rfl | exact .inr rfl
  bh : a.testBit 44 = true ∨ y.bh = x.bh := by first | exact .inl rfl | exact .inr rfl
  rfm : a.testBit 45 = true ∨ y.rfm = x.rfm := by first | exact .inl rfl | exact .inr rfl
  plm : a.testBit 46 = true ∨ y.plm = x.plm := by first | exact .inl rfl | exact .inr rfl
  rfl : a.testBit 47 = true ∨ y.rfl = x.rfl := by first | exact .inl rfl | exact .inr rfl
  rld : a.testBit 48 = true ∨ y.rld = x.rld := by first | exact .inl rfl | exact .inr rfl
  saf : a.testBit 49 = true ∨ y.saf = x.saf := by first | exact .inl rfl | exact .inr rfl
  sys : a.testBit 50 = true ∨ y.sys = x.sys := by first | exact .inl rfl | exact .inr rfl
  held : a.testBit 51 = true ∨ y.held = x.held := by first | exact .inl rfl | exact .inr rfl
  sent : a.testBit 52 = true ∨ y.sent = x.sent := by first | exact .inl rfl | exact .inr rfl
  cycles : a.testBit 53 = true ∨ y.cycles = x.cycles := by first | exact .inl rfl | exact .inr rfl
  freeCount : a.testBit 54 = true ∨ y.freeCount = x.freeCount := by first | exact .inl rfl | exact .inr rfl
  laneA : a.testBit 23 = true ∨ { y.laneA with sram := [] } = { x.laneA with sram := [] } := by first | exact .inl rfl | exact .inr rfl
  sramA : a.testBit 24 = true ∨ y.laneA.sram = x.laneA.sram := by first | exact .inl rfl | exact .inr rfl
  laneB : a.testBit 23 = true ∨ { y.laneB with sram := [] } = { x.laneB with sram := [] } := by first | exact .inl rfl | exact .inr rfl
  sramB : a.testBit 24 = true ∨ y.laneB.sram = x.laneB.sram := by first | exact .inl rfl | exact .inr rfl
  cells : a.testBit 34 = true ∨ y.pst.cells = x.pst.cells := by first | exact .inl rfl | exact .inr rfl
  buffer : a.testBit 35 = true ∨ y.pst.buffer = x.pst.buffer ∧ y.pst.turn = x.pst.turn := by first | exact .inl rfl | exact .inr ⟨rfl, rfl⟩
  sramAInv : x.Inv → Memory.wf y.laneA.sram = true := by exact fun i => i.sramA
  sramBInv : x.Inv → Memory.wf y.laneB.sram = true := by exact fun i => i.sramB
  cellsInv : x.Inv → Memory.wf y.pst.cells = true := by exact fun i => i.cells
  acmInv : x.Inv → Memory.wf y.acm = true := by exact fun i => i.acm
  regsInv : x.Inv → kvWf y.regs := by exact fun i => i.regs
  bufferInv : x.Inv → y.pst.buffer.length ≤ 64 := by exact fun i => i.buffer
  inqInv : x.Inv → y.flt.inq.length ≤ 16 := by exact fun i => i.inq
  fillAInv : x.Inv → y.laneA.fill.length ≤ 32768 := by exact fun i => i.fillA
  fillBInv : x.Inv → y.laneB.fill.length ≤ 32768 := by exact fun i => i.fillB
  nowInv : x.Inv → Time.ok y.tb.now := by exact fun i => i.now
  stepInv : x.Inv → ∀ q ∈ y.tb.step, StepRequest.ok q := by exact fun i => i.step

/-- A part that is in the mask, or the same. -/
theorem or_same {a m i : Nat} {p : Prop} (hm : sub a m = true) (h : a.testBit i = true ∨ p) (hi : m.testBit i = false) : p :=
  h.elim (fun h => bit_no hm h hi) id

/-- A record update. -/
theorem Only.upd {a m : Nat} {r x : State} {f0 : List Instr} {f1 : List (Nat × Nat)} {f2 : List Waiting} {f3 : TimeBase} {f4 : Sequencer} {f5 : LaneState} {f6 : LaneState} {f7 : Supervisor} {f8 : FelterState} {f9 : LaunchState} {f10 : EscortEngine} {f11 : EscortEngine} {f12 : DmaState} {f13 : DcqState} {f14 : PstState} {f15 : EvrState} {f16 : OtpState} {f17 : KeyState} {f18 : List CryJob} {f19 : List Host.Cell} {f20 : Nat} {f21 : RtcState} {f22 : MeterState} {f23 : Backhaul} {f24 : RfmState} {f25 : PlmState} {f26 : ReflectState} {f27 : LoaderState} {f28 : SafState} {f29 : ModuleState} {f30 : List Event} {f31 : List Transmission} {f32 : Nat} {f33 : Nat}
    (h0 : f0 = x.pending) (hm : sub a m = true) (u : Upd a x ⟨f0, f1, f2, f3, f4, f5, f6, f7, f8, f9, f10, f11, f12, f13, f14, f15, f16, f17, f18, f19, f20, f21, f22, f23, f24, f25, f26, f27, f28, f29, f30, f31, f32, f33⟩) (h : Only m r x) : Only m r ⟨f0, f1, f2, f3, f4, f5, f6, f7, f8, f9, f10, f11, f12, f13, f14, f15, f16, f17, f18, f19, f20, f21, f22, f23, f24, f25, f26, f27, f28, f29, f30, f31, f32, f33⟩ := by
  refine h.trans ⟨fun p hp => ?_, h0, fun i => ⟨u.sramAInv i, u.sramBInv i, u.cellsInv i, u.acmInv i, u.regsInv i, u.bufferInv i, u.inqInv i, u.fillAInv i, u.fillBInv i, u.nowInv i, u.stepInv i⟩⟩
  cases p
  case regs k =>
    rcases u.regs with e | e
    · exact bit_no (sub_mid e hm) (by cases k <;> rfl) hp
    · intro g _
      exact congrArg (fun l => (kvFind l g.key).getD g.reset % 2 ^ g.width) e
  case lanes => exact ⟨or_same hm u.laneA hp, or_same hm u.laneB hp⟩
  case sram => exact ⟨or_same hm u.sramA hp, or_same hm u.sramB hp⟩
  case esc => exact ⟨or_same hm u.escA hp, or_same hm u.escB hp⟩
  case pstCells => exact or_same hm u.cells hp
  case pstBuffer => exact or_same hm u.buffer hp
  case waiting => exact or_same hm u.waiting hp
  case tb => exact or_same hm u.tb hp
  case crz => exact or_same hm u.crz hp
  case lsc => exact or_same hm u.lsc hp
  case flt => exact or_same hm u.flt hp
  case lnu => exact or_same hm u.lnu hp
  case dma => exact or_same hm u.dma hp
  case dcq => exact or_same hm u.dcq hp
  case evr => exact or_same hm u.evr hp
  case otp => exact or_same hm u.otp hp
  case ksu => exact or_same hm u.ksu hp
  case cry => exact or_same hm u.cry hp
  case acm => exact or_same hm u.acm hp
  case acmSize => exact or_same hm u.acmSize hp
  case rtc => exact or_same hm u.rtc hp
  case mtr => exact or_same hm u.mtr hp
  case bh => exact or_same hm u.bh hp
  case rfm => exact or_same hm u.rfm hp
  case plm => exact or_same hm u.plm hp
  case rfl => exact or_same hm u.rfl hp
  case rld => exact or_same hm u.rld hp
  case saf => exact or_same hm u.saf hp
  case sys => exact or_same hm u.sys hp
  case held => exact or_same hm u.held hp
  case sent => exact or_same hm u.sent hp
  case cycles => exact or_same hm u.cycles hp
  case freeCount => exact or_same hm u.freeCount hp

/-- A field whose registers the mask names. -/
theorem fieldIn_of {f : Field} {a m : Nat} (hm : sub a m = true) (h : a.testBit f.bit = true) : FieldIn f m := sub_testBit hm h

/-- A field written. -/
theorem wr_only {m : Nat} {r s : State} {f : Field} {v : Nat} (hf : FieldIn f m) (h : Only m r s) : Only m r (s.wr f v) := by
  refine h.trans ⟨fun p hp => ?_, rfl, fun i => { i with regs := wr_regs_wf s f v i.regs }⟩
  cases p
  case regs k =>
    intro g hg
    by_cases e : g.key = f.key
    · have e2 : f.block = k.number := by rw [← hg]; simp only [Field.block, e]
      have e3 : k.number ≤ 21 := by cases k <;> decide
      have e4 : f.bit = k.number := by simp only [Field.bit, e2]; omega
      have e5 : m.testBit k.number = true := by rw [← e4]; exact hf
      have e6 : m.testBit k.number = false := hp
      rw [e5] at e6
      cases e6
    · exact rd_wr_ne s v e
  all_goals first | exact rfl | exact ⟨rfl, rfl⟩

/-- A lane's state replaced by one that is sound. -/
theorem setLane_only {m : Nat} {r s : State} {l : Lane} {x : LaneState} (h23 : m.testBit 23 = true ∨ { x with sram := [] } = { s.lane l with sram := [] })
    (h24 : m.testBit 24 = true ∨ x.sram = (s.lane l).sram) (hs : s.Inv → Memory.wf x.sram = true) (hf : s.Inv → x.fill.length ≤ 32768) (h : Only m r s) :
    Only m r (s.setLane l x) := by
  have no {i : Nat} {p : Prop} (h : m.testBit i = true ∨ p) (hi : m.testBit i = false) : p := h.elim (fun h => absurd h (by rw [hi]; decide)) id
  cases l
  · refine h.trans ⟨fun p hp => ?_, rfl, fun i => { i with sramA := hs i, fillA := hf i }⟩
    cases p
    case regs k => exact fun g _ => rfl
    case sram => exact ⟨no h24 hp, rfl⟩
    case lanes => exact ⟨no h23 hp, rfl⟩
    all_goals first | exact rfl | exact ⟨rfl, rfl⟩
  · refine h.trans ⟨fun p hp => ?_, rfl, fun i => { i with sramB := hs i, fillB := hf i }⟩
    cases p
    case regs k => exact fun g _ => rfl
    case sram => exact ⟨rfl, no h24 hp⟩
    case lanes => exact ⟨rfl, no h23 hp⟩
    all_goals first | exact rfl | exact ⟨rfl, rfl⟩

theorem lane_inv {s : State} (l : Lane) (i : s.Inv) : Memory.wf (s.lane l).sram = true ∧ (s.lane l).fill.length ≤ 32768 := by
  cases l
  · exact ⟨i.sramA, i.fillA⟩
  · exact ⟨i.sramB, i.fillB⟩

/-- A lane changed beside its memory, with its commit buffer the same or empty. -/
theorem onLane_only_lanes {m : Nat} {r s : State} {l : Lane} {f : LaneState → LaneState} (hs : ∀ x, (f x).sram = x.sram) (hf : ∀ x, (f x).fill.length ≤ x.fill.length)
    (hb : m.testBit 23 = true) (h : Only m r s) : Only m r (s.onLane l f) :=
  setLane_only (.inl hb) (.inr (hs _)) (fun i => by rw [hs]; exact (lane_inv l i).1) (fun i => Nat.le_trans (hf _) (lane_inv l i).2) h

/-- A lane's memory changed by an operation that keeps the canonical form. -/
theorem onLane_only_sram {m : Nat} {r s : State} {l : Lane} {f : LaneState → LaneState} (hs : ∀ x, { f x with sram := [] } = { x with sram := [] })
    (hw : ∀ x, Memory.wf x.sram = true → Memory.wf (f x).sram = true) (hb : m.testBit 24 = true) (h : Only m r s) : Only m r (s.onLane l f) :=
  setLane_only (.inr (hs _)) (.inl hb) (fun i => hw _ (lane_inv l i).1)
    (fun i => by have e := congrArg LaneState.fill (hs (s.lane l)); exact Nat.le_trans (Nat.le_of_eq (congrArg List.length e)) (lane_inv l i).2) h

/-- Both. -/
theorem onLane_only_both {m : Nat} {r s : State} {l : Lane} {f : LaneState → LaneState} (hw : ∀ x, Memory.wf x.sram = true → Memory.wf (f x).sram = true)
    (hf : ∀ x, (f x).fill.length ≤ x.fill.length) (hb : (m.testBit 23 && m.testBit 24) = true) (h : Only m r s) : Only m r (s.onLane l f) := by
  rw [Bool.and_eq_true] at hb
  exact setLane_only (.inl hb.1) (.inl hb.2) (fun i => hw _ (lane_inv l i).1) (fun i => Nat.le_trans (hf _) (lane_inv l i).2) h

theorem timeOfUnits_ok (u : Nat) : Time.ok (timeOfUnits u) :=
  ⟨Nat.mod_lt _ (by decide), Nat.mod_lt _ (by decide), Nat.mod_lt _ (by decide)⟩

/-- A fold of steps that change only parts in the mask. -/
theorem only_foldl {α : Type} {m : Nat} {r s : State} {f : State → α → State} {l : List α} (hf : ∀ s x, Only m s (f s x)) (h : Only m r s) : Only m r (l.foldl f s) := by
  induction l generalizing s with
  | nil => exact h
  | cons a l ih => exact ih (h.trans (hf s a))

/-- The same of the Escort engine's work, of the work beside a number, and of a state beside a value. -/
theorem only_foldl_esc {α : Type} {m : Nat} {r : State} {w : EscWork} {f : EscWork → α → EscWork} {l : List α} (hf : ∀ w x, Only m w.st (f w x).st) (h : Only m r w.st) :
    Only m r (l.foldl f w).st := by
  induction l generalizing w with
  | nil => exact h
  | cons a l ih => exact ih (h.trans (hf w a))

theorem only_foldl_escPair {α β : Type} {m : Nat} {r : State} {w : EscWork × β} {f : EscWork × β → α → EscWork × β} {l : List α}
    (hf : ∀ w x, Only m w.1.st (f w x).1.st) (h : Only m r w.1.st) : Only m r (l.foldl f w).1.st := by
  induction l generalizing w with
  | nil => exact h
  | cons a l ih => exact ih (h.trans (hf w a))

theorem only_foldl_pair {α β : Type} {m : Nat} {r : State} {p : State × β} {f : State × β → α → State × β} {l : List α} (hf : ∀ p x, Only m p.1 (f p x).1) (h : Only m r p.1) :
    Only m r (l.foldl f p).1 := by
  induction l generalizing p with
  | nil => exact h
  | cons a l ih => exact ih (h.trans (hf p a))

/-- A choice of two states, and a choice among operations that may not apply. -/
theorem only_ite {m : Nat} {s₀ x y : State} {c : Prop} [Decidable c] (hx : Only m s₀ x) (hy : Only m s₀ y) : Only m s₀ (if c then x else y) := by
  split
  · exact hx
  · exact hy

theorem only_some_ite {m : Nat} {s₀ t x : State} {c : Prop} [Decidable c] {r : Option State} (hx : Only m s₀ x) (hr : r = some t → Only m s₀ t)
    (e : (if c then some x else r) = some t) : Only m s₀ t := by
  split at e
  · cases e
    exact hx
  · exact hr e

/-- A pair taken apart. -/
theorem only_of_fst {α : Type} {m : Nat} {r a : State} {p : State × α} {b : α} (e : p = (a, b)) (h : Only m r p.1) : Only m r a := by
  rw [e] at h
  exact h

/-- A command that answers a next state and changes only the parts in the mask. -/
def Ends (m : Nat) (s : State) (o : Host.Outcome State Fault Refusal) : Prop := ∃ t, o = .next t ∧ Only m s t

theorem Ends.next {m : Nat} {s t : State} (h : Only m s t) : Ends m s (.next t) := ⟨t, rfl, h⟩

theorem Ends.only {m : Nat} {s t : State} {o : Host.Outcome State Fault Refusal} (h : Ends m s o) (e : o = .next t) : Only m s t := by
  obtain ⟨u, hu, h⟩ := h
  rw [hu] at e
  cases e
  exact h

end Sys2Proof.Machine
end

