-- ==== Sys2Proof/Laws/OnlyFields.lean ====
section
/-!
SUPPORT. The blocks of the fields that take an index, a lane or a port.
-/
namespace Sys2Proof.Machine
set_option Elab.async false

theorem SYS_IRQ_EN_EN_in {l : Lane} {k : Nat} (h : k.testBit 0 = true) : FieldIn (SYS_IRQ_EN_EN l) k := by
  cases l <;> exact fieldIn_block (b := 0) rfl h

theorem CRZ_EQ_RD_RD_in {l : Lane} {k : Nat} (h : k.testBit 2 = true) : FieldIn (CRZ_EQ_RD_RD l) k := by
  cases l <;> exact fieldIn_block (b := 2) rfl h

theorem CRZ_EQ_WR_WR_in {l : Lane} {k : Nat} (h : k.testBit 2 = true) : FieldIn (CRZ_EQ_WR_WR l) k := by
  cases l <;> exact fieldIn_block (b := 2) rfl h

theorem LSC_CB_PEAK_in {l : Lane} {k : Nat} (h : k.testBit 3 = true) : FieldIn (LSC_CB_PEAK l) k := by
  cases l <;> exact fieldIn_block (b := 3) rfl h

theorem LSC_CB_USED_in {l : Lane} {k : Nat} (h : k.testBit 3 = true) : FieldIn (LSC_CB_USED l) k := by
  cases l <;> exact fieldIn_block (b := 3) rfl h

theorem LSC_CE_CNT_COUNT_in {l : Lane} {k : Nat} (h : k.testBit 3 = true) : FieldIn (LSC_CE_CNT_COUNT l) k := by
  cases l <;> exact fieldIn_block (b := 3) rfl h

theorem LSC_ND_CNT_COUNT_in {l : Lane} {k : Nat} (h : k.testBit 3 = true) : FieldIn (LSC_ND_CNT_COUNT l) k := by
  cases l <;> exact fieldIn_block (b := 3) rfl h

theorem LSC_SVC_WCNT_COUNT_in {l : Lane} {k : Nat} (h : k.testBit 3 = true) : FieldIn (LSC_SVC_WCNT_COUNT l) k := by
  cases l <;> exact fieldIn_block (b := 3) rfl h

theorem LNU_DAY_BANK_in {n : Nat} {k : Nat} (h : k.testBit 4 = true) : FieldIn (LNU_DAY_BANK n) k := by
  refine fieldIn_block (b := 4) ?_ h
  simp only [Field.block, Field.key, LNU_DAY_BANK]
  omega

theorem LNU_DAY_DAYBASE_in {n : Nat} {k : Nat} (h : k.testBit 4 = true) : FieldIn (LNU_DAY_DAYBASE n) k := by
  refine fieldIn_block (b := 4) ?_ h
  simp only [Field.block, Field.key, LNU_DAY_DAYBASE]
  omega

theorem LNU_DAY_EN_in {n : Nat} {k : Nat} (h : k.testBit 4 = true) : FieldIn (LNU_DAY_EN n) k := by
  refine fieldIn_block (b := 4) ?_ h
  simp only [Field.block, Field.key, LNU_DAY_EN]
  omega

theorem RFM_LTAB_W0_CELL_in {n : Nat} {k : Nat} (h : k.testBit 7 = true) : FieldIn (RFM_LTAB_W0_CELL n) k := by
  refine fieldIn_block (b := 7) ?_ h
  simp only [Field.block, Field.key, RFM_LTAB_W0_CELL]
  omega

theorem RFM_LTAB_W0_EN_in {n : Nat} {k : Nat} (h : k.testBit 7 = true) : FieldIn (RFM_LTAB_W0_EN n) k := by
  refine fieldIn_block (b := 7) ?_ h
  simp only [Field.block, Field.key, RFM_LTAB_W0_EN]
  omega

theorem RFM_LTAB_W0_PH_in {n : Nat} {k : Nat} (h : k.testBit 7 = true) : FieldIn (RFM_LTAB_W0_PH n) k := by
  refine fieldIn_block (b := 7) ?_ h
  simp only [Field.block, Field.key, RFM_LTAB_W0_PH]
  omega

theorem RFM_LTAB_W0_RCELL_in {n : Nat} {k : Nat} (h : k.testBit 7 = true) : FieldIn (RFM_LTAB_W0_RCELL n) k := by
  refine fieldIn_block (b := 7) ?_ h
  simp only [Field.block, Field.key, RFM_LTAB_W0_RCELL]
  omega

theorem RFM_LTAB_W0_RELAY_in {n : Nat} {k : Nat} (h : k.testBit 7 = true) : FieldIn (RFM_LTAB_W0_RELAY n) k := by
  refine fieldIn_block (b := 7) ?_ h
  simp only [Field.block, Field.key, RFM_LTAB_W0_RELAY]
  omega

theorem RFM_LTAB_W0_RELAYED_in {n : Nat} {k : Nat} (h : k.testBit 7 = true) : FieldIn (RFM_LTAB_W0_RELAYED n) k := by
  refine fieldIn_block (b := 7) ?_ h
  simp only [Field.block, Field.key, RFM_LTAB_W0_RELAYED]
  omega

theorem RFM_LTAB_W0_RP_in {n : Nat} {k : Nat} (h : k.testBit 7 = true) : FieldIn (RFM_LTAB_W0_RP n) k := by
  refine fieldIn_block (b := 7) ?_ h
  simp only [Field.block, Field.key, RFM_LTAB_W0_RP]
  omega

theorem RFM_LTAB_W0_SLEEPY_in {n : Nat} {k : Nat} (h : k.testBit 7 = true) : FieldIn (RFM_LTAB_W0_SLEEPY n) k := by
  refine fieldIn_block (b := 7) ?_ h
  simp only [Field.block, Field.key, RFM_LTAB_W0_SLEEPY]
  omega

theorem RFM_LTAB_W1_FCKEY_in {n : Nat} {k : Nat} (h : k.testBit 7 = true) : FieldIn (RFM_LTAB_W1_FCKEY n) k := by
  refine fieldIn_block (b := 7) ?_ h
  simp only [Field.block, Field.key, RFM_LTAB_W1_FCKEY]
  omega

theorem RFM_LTAB_W2_FC_in {n : Nat} {k : Nat} (h : k.testBit 7 = true) : FieldIn (RFM_LTAB_W2_FC n) k := by
  refine fieldIn_block (b := 7) ?_ h
  simp only [Field.block, Field.key, RFM_LTAB_W2_FC]
  omega

theorem RFM_LTAB_W3_DARNF_in {n : Nat} {k : Nat} (h : k.testBit 7 = true) : FieldIn (RFM_LTAB_W3_DARNF n) k := by
  refine fieldIn_block (b := 7) ?_ h
  simp only [Field.block, Field.key, RFM_LTAB_W3_DARNF]
  omega

theorem RFM_LTAB_W3_MISS_in {n : Nat} {k : Nat} (h : k.testBit 7 = true) : FieldIn (RFM_LTAB_W3_MISS n) k := by
  refine fieldIn_block (b := 7) ?_ h
  simp only [Field.block, Field.key, RFM_LTAB_W3_MISS]
  omega

theorem RFM_LTAB_W3_RSSI_in {n : Nat} {k : Nat} (h : k.testBit 7 = true) : FieldIn (RFM_LTAB_W3_RSSI n) k := by
  refine fieldIn_block (b := 7) ?_ h
  simp only [Field.block, Field.key, RFM_LTAB_W3_RSSI]
  omega

theorem RFM_LTAB_W3_STATE_in {n : Nat} {k : Nat} (h : k.testBit 7 = true) : FieldIn (RFM_LTAB_W3_STATE n) k := by
  refine fieldIn_block (b := 7) ?_ h
  simp only [Field.block, Field.key, RFM_LTAB_W3_STATE]
  omega

theorem RFM_LTAB_W3_SYNC_in {n : Nat} {k : Nat} (h : k.testBit 7 = true) : FieldIn (RFM_LTAB_W3_SYNC n) k := by
  refine fieldIn_block (b := 7) ?_ h
  simp only [Field.block, Field.key, RFM_LTAB_W3_SYNC]
  omega

theorem RFM_NBR_W1_MISSES_in {n : Nat} {k : Nat} (h : k.testBit 7 = true) : FieldIn (RFM_NBR_W1_MISSES n) k := by
  refine fieldIn_block (b := 7) ?_ h
  simp only [Field.block, Field.key, RFM_NBR_W1_MISSES]
  omega

theorem RFM_NBR_W1_PRESENT_in {n : Nat} {k : Nat} (h : k.testBit 7 = true) : FieldIn (RFM_NBR_W1_PRESENT n) k := by
  refine fieldIn_block (b := 7) ?_ h
  simp only [Field.block, Field.key, RFM_NBR_W1_PRESENT]
  omega

theorem PLM_LTAB_W0_CELL_in {n : Nat} {k : Nat} (h : k.testBit 8 = true) : FieldIn (PLM_LTAB_W0_CELL n) k := by
  refine fieldIn_block (b := 8) ?_ h
  simp only [Field.block, Field.key, PLM_LTAB_W0_CELL]
  omega

theorem PLM_LTAB_W0_EN_in {n : Nat} {k : Nat} (h : k.testBit 8 = true) : FieldIn (PLM_LTAB_W0_EN n) k := by
  refine fieldIn_block (b := 8) ?_ h
  simp only [Field.block, Field.key, PLM_LTAB_W0_EN]
  omega

theorem PLM_LTAB_W0_PPH_in {n : Nat} {k : Nat} (h : k.testBit 8 = true) : FieldIn (PLM_LTAB_W0_PPH n) k := by
  refine fieldIn_block (b := 8) ?_ h
  simp only [Field.block, Field.key, PLM_LTAB_W0_PPH]
  omega

theorem PLM_LTAB_W0_PRP_in {n : Nat} {k : Nat} (h : k.testBit 8 = true) : FieldIn (PLM_LTAB_W0_PRP n) k := by
  refine fieldIn_block (b := 8) ?_ h
  simp only [Field.block, Field.key, PLM_LTAB_W0_PRP]
  omega

theorem PLM_LTAB_W1_DLY_in {n : Nat} {k : Nat} (h : k.testBit 8 = true) : FieldIn (PLM_LTAB_W1_DLY n) k := by
  refine fieldIn_block (b := 8) ?_ h
  simp only [Field.block, Field.key, PLM_LTAB_W1_DLY]
  omega

theorem PLM_LTAB_W1_FCKEY_in {n : Nat} {k : Nat} (h : k.testBit 8 = true) : FieldIn (PLM_LTAB_W1_FCKEY n) k := by
  refine fieldIn_block (b := 8) ?_ h
  simp only [Field.block, Field.key, PLM_LTAB_W1_FCKEY]
  omega

theorem PLM_LTAB_W2_FC_in {n : Nat} {k : Nat} (h : k.testBit 8 = true) : FieldIn (PLM_LTAB_W2_FC n) k := by
  refine fieldIn_block (b := 8) ?_ h
  simp only [Field.block, Field.key, PLM_LTAB_W2_FC]
  omega

theorem PLM_LTAB_W3_DLYM_in {n : Nat} {k : Nat} (h : k.testBit 8 = true) : FieldIn (PLM_LTAB_W3_DLYM n) k := by
  refine fieldIn_block (b := 8) ?_ h
  simp only [Field.block, Field.key, PLM_LTAB_W3_DLYM]
  omega

theorem PLM_LTAB_W3_MISS_in {n : Nat} {k : Nat} (h : k.testBit 8 = true) : FieldIn (PLM_LTAB_W3_MISS n) k := by
  refine fieldIn_block (b := 8) ?_ h
  simp only [Field.block, Field.key, PLM_LTAB_W3_MISS]
  omega

theorem PLM_LTAB_W3_PRES_in {n : Nat} {k : Nat} (h : k.testBit 8 = true) : FieldIn (PLM_LTAB_W3_PRES n) k := by
  refine fieldIn_block (b := 8) ?_ h
  simp only [Field.block, Field.key, PLM_LTAB_W3_PRES]
  omega

theorem PLM_LTAB_W3_SNR_in {n : Nat} {k : Nat} (h : k.testBit 8 = true) : FieldIn (PLM_LTAB_W3_SNR n) k := by
  refine fieldIn_block (b := 8) ?_ h
  simp only [Field.block, Field.key, PLM_LTAB_W3_SNR]
  omega

theorem BHM_CNT_COUNT_in {p : Nat} {n : Nat} {k : Nat} (h9 : k.testBit 9 = true) (h10 : k.testBit 10 = true) : FieldIn (BHM_CNT_COUNT p n) k := by
  refine fieldIn_port ?_ (by rw [h9, h10]; rfl)
  simp only [Field.block, Field.key, BHM_CNT_COUNT]
  omega

theorem BHM_CTRL_LINK_in {p : Nat} {k : Nat} (h9 : k.testBit 9 = true) (h10 : k.testBit 10 = true) : FieldIn (BHM_CTRL_LINK p) k := by
  refine fieldIn_port ?_ (by rw [h9, h10]; rfl)
  simp only [Field.block, Field.key, BHM_CTRL_LINK]
  omega

theorem BHM_CTRL_PVERIFIED_in {p : Nat} {k : Nat} (h9 : k.testBit 9 = true) (h10 : k.testBit 10 = true) : FieldIn (BHM_CTRL_PVERIFIED p) k := by
  refine fieldIn_port ?_ (by rw [h9, h10]; rfl)
  simp only [Field.block, Field.key, BHM_CTRL_PVERIFIED]
  omega

theorem BHM_CTRL_RUNST_in {p : Nat} {k : Nat} (h9 : k.testBit 9 = true) (h10 : k.testBit 10 = true) : FieldIn (BHM_CTRL_RUNST p) k := by
  refine fieldIn_port ?_ (by rw [h9, h10]; rfl)
  simp only [Field.block, Field.key, BHM_CTRL_RUNST]
  omega

theorem BHM_CTRL_SGSPD_in {p : Nat} {k : Nat} (h9 : k.testBit 9 = true) (h10 : k.testBit 10 = true) : FieldIn (BHM_CTRL_SGSPD p) k := by
  refine fieldIn_port ?_ (by rw [h9, h10]; rfl)
  simp only [Field.block, Field.key, BHM_CTRL_SGSPD]
  omega

theorem BHM_HALF_HALF_in {p : Nat} {k : Nat} (h9 : k.testBit 9 = true) (h10 : k.testBit 10 = true) : FieldIn (BHM_HALF_HALF p) k := by
  refine fieldIn_port ?_ (by rw [h9, h10]; rfl)
  simp only [Field.block, Field.key, BHM_HALF_HALF]
  omega

theorem BHM_SRX_RD_VALUE_in {p : Nat} {k : Nat} (h9 : k.testBit 9 = true) (h10 : k.testBit 10 = true) : FieldIn (BHM_SRX_RD_VALUE p) k := by
  refine fieldIn_port ?_ (by rw [h9, h10]; rfl)
  simp only [Field.block, Field.key, BHM_SRX_RD_VALUE]
  omega

theorem BHM_SRX_WR_VALUE_in {p : Nat} {k : Nat} (h9 : k.testBit 9 = true) (h10 : k.testBit 10 = true) : FieldIn (BHM_SRX_WR_VALUE p) k := by
  refine fieldIn_port ?_ (by rw [h9, h10]; rfl)
  simp only [Field.block, Field.key, BHM_SRX_WR_VALUE]
  omega

theorem BHM_STATUS_DRREJ_in {p : Nat} {k : Nat} (h9 : k.testBit 9 = true) (h10 : k.testBit 10 = true) : FieldIn (BHM_STATUS_DRREJ p) k := by
  refine fieldIn_port ?_ (by rw [h9, h10]; rfl)
  simp only [Field.block, Field.key, BHM_STATUS_DRREJ]
  omega

theorem BHM_STATUS_DRWAKE_in {p : Nat} {k : Nat} (h9 : k.testBit 9 = true) (h10 : k.testBit 10 = true) : FieldIn (BHM_STATUS_DRWAKE p) k := by
  refine fieldIn_port ?_ (by rw [h9, h10]; rfl)
  simp only [Field.block, Field.key, BHM_STATUS_DRWAKE]
  omega

theorem BHM_STATUS_DRWRAP_in {p : Nat} {k : Nat} (h9 : k.testBit 9 = true) (h10 : k.testBit 10 = true) : FieldIn (BHM_STATUS_DRWRAP p) k := by
  refine fieldIn_port ?_ (by rw [h9, h10]; rfl)
  simp only [Field.block, Field.key, BHM_STATUS_DRWRAP]
  omega

theorem BHM_STATUS_FWDDROP_in {p : Nat} {k : Nat} (h9 : k.testBit 9 = true) (h10 : k.testBit 10 = true) : FieldIn (BHM_STATUS_FWDDROP p) k := by
  refine fieldIn_port ?_ (by rw [h9, h10]; rfl)
  simp only [Field.block, Field.key, BHM_STATUS_FWDDROP]
  omega

theorem BHM_STATUS_LINKCHG_in {p : Nat} {k : Nat} (h9 : k.testBit 9 = true) (h10 : k.testBit 10 = true) : FieldIn (BHM_STATUS_LINKCHG p) k := by
  refine fieldIn_port ?_ (by rw [h9, h10]; rfl)
  simp only [Field.block, Field.key, BHM_STATUS_LINKCHG]
  omega

theorem BHM_STATUS_MODEERR_in {p : Nat} {k : Nat} (h9 : k.testBit 9 = true) (h10 : k.testBit 10 = true) : FieldIn (BHM_STATUS_MODEERR p) k := by
  refine fieldIn_port ?_ (by rw [h9, h10]; rfl)
  simp only [Field.block, Field.key, BHM_STATUS_MODEERR]
  omega

theorem BHM_STATUS_PAUSEOVR_in {p : Nat} {k : Nat} (h9 : k.testBit 9 = true) (h10 : k.testBit 10 = true) : FieldIn (BHM_STATUS_PAUSEOVR p) k := by
  refine fieldIn_port ?_ (by rw [h9, h10]; rfl)
  simp only [Field.block, Field.key, BHM_STATUS_PAUSEOVR]
  omega

theorem BHM_STATUS_RXOVF_in {p : Nat} {k : Nat} (h9 : k.testBit 9 = true) (h10 : k.testBit 10 = true) : FieldIn (BHM_STATUS_RXOVF p) k := by
  refine fieldIn_port ?_ (by rw [h9, h10]; rfl)
  simp only [Field.block, Field.key, BHM_STATUS_RXOVF]
  omega

theorem BHM_STATUS_SRXFULL_in {p : Nat} {k : Nat} (h9 : k.testBit 9 = true) (h10 : k.testBit 10 = true) : FieldIn (BHM_STATUS_SRXFULL p) k := by
  refine fieldIn_port ?_ (by rw [h9, h10]; rfl)
  simp only [Field.block, Field.key, BHM_STATUS_SRXFULL]
  omega

theorem BHM_STATUS_SRXNEW_in {p : Nat} {k : Nat} (h9 : k.testBit 9 = true) (h10 : k.testBit 10 = true) : FieldIn (BHM_STATUS_SRXNEW p) k := by
  refine fieldIn_port ?_ (by rw [h9, h10]; rfl)
  simp only [Field.block, Field.key, BHM_STATUS_SRXNEW]
  omega

theorem BHM_STATUS_STATHALF_in {p : Nat} {k : Nat} (h9 : k.testBit 9 = true) (h10 : k.testBit 10 = true) : FieldIn (BHM_STATUS_STATHALF p) k := by
  refine fieldIn_port ?_ (by rw [h9, h10]; rfl)
  simp only [Field.block, Field.key, BHM_STATUS_STATHALF]
  omega

theorem BHM_STATUS_STOMP_in {p : Nat} {k : Nat} (h9 : k.testBit 9 = true) (h10 : k.testBit 10 = true) : FieldIn (BHM_STATUS_STOMP p) k := by
  refine fieldIn_port ?_ (by rw [h9, h10]; rfl)
  simp only [Field.block, Field.key, BHM_STATUS_STOMP]
  omega

theorem BHM_STATUS_SVCRST_in {p : Nat} {k : Nat} (h9 : k.testBit 9 = true) (h10 : k.testBit 10 = true) : FieldIn (BHM_STATUS_SVCRST p) k := by
  refine fieldIn_port ?_ (by rw [h9, h10]; rfl)
  simp only [Field.block, Field.key, BHM_STATUS_SVCRST]
  omega

theorem BHM_STATUS_TXDONE_in {p : Nat} {k : Nat} (h9 : k.testBit 9 = true) (h10 : k.testBit 10 = true) : FieldIn (BHM_STATUS_TXDONE p) k := by
  refine fieldIn_port ?_ (by rw [h9, h10]; rfl)
  simp only [Field.block, Field.key, BHM_STATUS_TXDONE]
  omega

theorem BHM_STATUS_TXERR_in {p : Nat} {k : Nat} (h9 : k.testBit 9 = true) (h10 : k.testBit 10 = true) : FieldIn (BHM_STATUS_TXERR p) k := by
  refine fieldIn_port ?_ (by rw [h9, h10]; rfl)
  simp only [Field.block, Field.key, BHM_STATUS_TXERR]
  omega

theorem BHM_STATUS_VERIFYFAIL_in {p : Nat} {k : Nat} (h9 : k.testBit 9 = true) (h10 : k.testBit 10 = true) : FieldIn (BHM_STATUS_VERIFYFAIL p) k := by
  refine fieldIn_port ?_ (by rw [h9, h10]; rfl)
  simp only [Field.block, Field.key, BHM_STATUS_VERIFYFAIL]
  omega

theorem BHM_TX_HEAD_VALUE_in {p : Nat} {k : Nat} (h9 : k.testBit 9 = true) (h10 : k.testBit 10 = true) : FieldIn (BHM_TX_HEAD_VALUE p) k := by
  refine fieldIn_port ?_ (by rw [h9, h10]; rfl)
  simp only [Field.block, Field.key, BHM_TX_HEAD_VALUE]
  omega

theorem BHM_TX_TAIL_VALUE_in {p : Nat} {k : Nat} (h9 : k.testBit 9 = true) (h10 : k.testBit 10 = true) : FieldIn (BHM_TX_TAIL_VALUE p) k := by
  refine fieldIn_port ?_ (by rw [h9, h10]; rfl)
  simp only [Field.block, Field.key, BHM_TX_TAIL_VALUE]
  omega

theorem PBM_CNT_COUNT_in {n : Nat} {k : Nat} (h : k.testBit 11 = true) : FieldIn (PBM_CNT_COUNT n) k := by
  refine fieldIn_block (b := 11) ?_ h
  simp only [Field.block, Field.key, PBM_CNT_COUNT]
  omega

theorem MTR_ACC_COUNT_in {n : Nat} {k : Nat} (h : k.testBit 12 = true) : FieldIn (MTR_ACC_COUNT n) k := by
  refine fieldIn_block (b := 12) ?_ h
  simp only [Field.block, Field.key, MTR_ACC_COUNT]
  omega

theorem MTR_LIVE_W0_VRMS_in {n : Nat} {k : Nat} (h : k.testBit 12 = true) : FieldIn (MTR_LIVE_W0_VRMS n) k := by
  refine fieldIn_block (b := 12) ?_ h
  simp only [Field.block, Field.key, MTR_LIVE_W0_VRMS]
  omega

theorem MTR_LIVE_W1_IRMS_in {n : Nat} {k : Nat} (h : k.testBit 12 = true) : FieldIn (MTR_LIVE_W1_IRMS n) k := by
  refine fieldIn_block (b := 12) ?_ h
  simp only [Field.block, Field.key, MTR_LIVE_W1_IRMS]
  omega

theorem MTR_LIVE_W2_P_in {n : Nat} {k : Nat} (h : k.testBit 12 = true) : FieldIn (MTR_LIVE_W2_P n) k := by
  refine fieldIn_block (b := 12) ?_ h
  simp only [Field.block, Field.key, MTR_LIVE_W2_P]
  omega

theorem MTR_LIVE_W3_Q_in {n : Nat} {k : Nat} (h : k.testBit 12 = true) : FieldIn (MTR_LIVE_W3_Q n) k := by
  refine fieldIn_block (b := 12) ?_ h
  simp only [Field.block, Field.key, MTR_LIVE_W3_Q]
  omega

theorem RLD_SLOTVER_VERSION_in {n : Nat} {k : Nat} (h : k.testBit 18 = true) : FieldIn (RLD_SLOTVER_VERSION n) k := by
  refine fieldIn_block (b := 18) ?_ h
  simp only [Field.block, Field.key, RLD_SLOTVER_VERSION]
  omega

theorem RLD_SLOT_VERIFIED_in {n : Nat} {k : Nat} (h : k.testBit 18 = true) : FieldIn (RLD_SLOT_VERIFIED n) k := by
  refine fieldIn_block (b := 18) ?_ h
  simp only [Field.block, Field.key, RLD_SLOT_VERIFIED]
  omega

theorem DMA_CH_W0_EN_in {n : Nat} {k : Nat} (h : k.testBit 19 = true) : FieldIn (DMA_CH_W0_EN n) k := by
  refine fieldIn_block (b := 19) ?_ h
  simp only [Field.block, Field.key, DMA_CH_W0_EN]
  omega

theorem DMA_CH_W0_RUNST_in {n : Nat} {k : Nat} (h : k.testBit 19 = true) : FieldIn (DMA_CH_W0_RUNST n) k := by
  refine fieldIn_block (b := 19) ?_ h
  simp only [Field.block, Field.key, DMA_CH_W0_RUNST]
  omega

theorem DMA_CH_W3_TAIL_in {n : Nat} {k : Nat} (h : k.testBit 19 = true) : FieldIn (DMA_CH_W3_TAIL n) k := by
  refine fieldIn_block (b := 19) ?_ h
  simp only [Field.block, Field.key, DMA_CH_W3_TAIL]
  omega

theorem DMA_CH_W4_HEAD_in {n : Nat} {k : Nat} (h : k.testBit 19 = true) : FieldIn (DMA_CH_W4_HEAD n) k := by
  refine fieldIn_block (b := 19) ?_ h
  simp only [Field.block, Field.key, DMA_CH_W4_HEAD]
  omega

theorem DCQ_Q_W0_EN_in {n : Nat} {k : Nat} (h : k.testBit 20 = true) : FieldIn (DCQ_Q_W0_EN n) k := by
  refine fieldIn_block (b := 20) ?_ h
  simp only [Field.block, Field.key, DCQ_Q_W0_EN]
  omega

theorem DCQ_Q_W0_RUNST_in {n : Nat} {k : Nat} (h : k.testBit 20 = true) : FieldIn (DCQ_Q_W0_RUNST n) k := by
  refine fieldIn_block (b := 20) ?_ h
  simp only [Field.block, Field.key, DCQ_Q_W0_RUNST]
  omega

theorem DCQ_Q_W1_USED_in {n : Nat} {k : Nat} (h : k.testBit 20 = true) : FieldIn (DCQ_Q_W1_USED n) k := by
  refine fieldIn_block (b := 20) ?_ h
  simp only [Field.block, Field.key, DCQ_Q_W1_USED]
  omega

theorem DCQ_Q_W2_PERR_in {n : Nat} {k : Nat} (h : k.testBit 20 = true) : FieldIn (DCQ_Q_W2_PERR n) k := by
  refine fieldIn_block (b := 20) ?_ h
  simp only [Field.block, Field.key, DCQ_Q_W2_PERR]
  omega

theorem DCQ_Q_W3_DISC_in {n : Nat} {k : Nat} (h : k.testBit 20 = true) : FieldIn (DCQ_Q_W3_DISC n) k := by
  refine fieldIn_block (b := 20) ?_ h
  simp only [Field.block, Field.key, DCQ_Q_W3_DISC]
  omega

theorem digerrFlag_in {x0 : Lane} {k : Nat} (h : k.testBit 2 = true) : FieldIn (digerrFlag x0) k := by
  cases x0 <;> exact fieldIn_block (b := 2) rfl h

theorem qwaitFlag_in {x0 : Lane} {k : Nat} (h : k.testBit 2 = true) : FieldIn (qwaitFlag x0) k := by
  cases x0 <;> exact fieldIn_block (b := 2) rfl h

theorem causeField_in {x0 : Lane} {k : Nat} (h : k.testBit 3 = true) : FieldIn (causeField x0) k := by
  cases x0 <;> exact fieldIn_block (b := 3) rfl h

theorem digestField_in {x0 : Lane} {k : Nat} (h : k.testBit 3 = true) : FieldIn (digestField x0) k := by
  cases x0 <;> exact fieldIn_block (b := 3) rfl h

theorem digestIndex_in {x0 : Lane} {k : Nat} (h : k.testBit 3 = true) : FieldIn (digestIndex x0) k := by
  cases x0 <;> exact fieldIn_block (b := 3) rfl h

theorem outFlag_in {x0 : Lane} {k : Nat} (h : k.testBit 3 = true) : FieldIn (outFlag x0) k := by
  cases x0 <;> exact fieldIn_block (b := 3) rfl h

theorem outsField_in {x0 : Lane} {k : Nat} (h : k.testBit 3 = true) : FieldIn (outsField x0) k := by
  cases x0 <;> exact fieldIn_block (b := 3) rfl h

theorem roleField_in {x0 : Lane} {k : Nat} (h : k.testBit 3 = true) : FieldIn (roleField x0) k := by
  cases x0 <;> exact fieldIn_block (b := 3) rfl h

theorem pathMiss_in {x0 : Path} {k : Nat} (h : k.testBit 4 = true) : FieldIn (pathMiss x0) k := by
  cases x0 <;> exact fieldIn_block (b := 4) rfl h

theorem pathMissFlag_in {x0 : Path} {k : Nat} (h : k.testBit 4 = true) : FieldIn (pathMissFlag x0) k := by
  cases x0 <;> exact fieldIn_block (b := 4) rfl h

theorem pathSent_in {x0 : Path} {k : Nat} (h : k.testBit 4 = true) : FieldIn (pathSent x0) k := by
  cases x0 <;> exact fieldIn_block (b := 4) rfl h

theorem escortWait_in {x0 : Lane} {k : Nat} (h : k.testBit 5 = true) : FieldIn (escortWait x0) k := by
  cases x0 <;> exact fieldIn_block (b := 5) rfl h

theorem felterWait_in {x0 : Lane} {k : Nat} (h : k.testBit 6 = true) : FieldIn (felterWait x0) k := by
  cases x0 <;> exact fieldIn_block (b := 6) rfl h

theorem enField_in {x0 : Func} {k : Nat} (hm : sub 1580928 k = true) : FieldIn (enField x0) k := by
  cases x0 with
  | channel n => exact DMA_CH_W0_EN_in (bit_mid hm rfl)
  | queue n => exact DCQ_Q_W0_EN_in (bit_mid hm rfl)
  | port0 => exact fieldIn_block (b := 9) rfl (bit_mid hm rfl)
  | port1 => exact fieldIn_block (b := 10) rfl (bit_mid hm rfl)
  | pole => exact fieldIn_block (b := 11) rfl (bit_mid hm rfl)
  | rfA => exact fieldIn_block (b := 7) rfl (bit_mid hm rfl)
  | rfB => exact fieldIn_block (b := 7) rfl (bit_mid hm rfl)
  | plm => exact fieldIn_block (b := 8) rfl (bit_mid hm rfl)
  | reflect => exact fieldIn_block (b := 8) rfl (bit_mid hm rfl)
  | meter => exact fieldIn_block (b := 12) rfl (bit_mid hm rfl)

theorem rfRunst_in {r : Nat} {k : Nat} (h : k.testBit 7 = true) : FieldIn (rfRunst r) k := by
  unfold rfRunst
  split <;> exact fieldIn_block (b := 7) rfl h

theorem rfRxCount_in {r : Nat} {k : Nat} (h : k.testBit 7 = true) : FieldIn (rfRxCount r) k := by
  unfold rfRxCount
  split <;> exact fieldIn_block (b := 7) rfl h

theorem rfTxCount_in {r : Nat} {k : Nat} (h : k.testBit 7 = true) : FieldIn (rfTxCount r) k := by
  unfold rfTxCount
  split <;> exact fieldIn_block (b := 7) rfl h

theorem runstField_in {x0 : Func} {k : Nat} (hm : sub 1580928 k = true) : FieldIn (runstField x0) k := by
  cases x0 with
  | channel n => exact DMA_CH_W0_RUNST_in (bit_mid hm rfl)
  | queue n => exact DCQ_Q_W0_RUNST_in (bit_mid hm rfl)
  | port0 => exact fieldIn_block (b := 9) rfl (bit_mid hm rfl)
  | port1 => exact fieldIn_block (b := 10) rfl (bit_mid hm rfl)
  | pole => exact fieldIn_block (b := 11) rfl (bit_mid hm rfl)
  | rfA => exact fieldIn_block (b := 7) rfl (bit_mid hm rfl)
  | rfB => exact fieldIn_block (b := 7) rfl (bit_mid hm rfl)
  | plm => exact fieldIn_block (b := 8) rfl (bit_mid hm rfl)
  | reflect => exact fieldIn_block (b := 8) rfl (bit_mid hm rfl)
  | meter => exact fieldIn_block (b := 12) rfl (bit_mid hm rfl)

theorem sf1Field_in {path : Nat} {k : Nat} (h : k.testBit 12 = true) : FieldIn (sf1Field path) k := by
  unfold sf1Field
  split <;> exact fieldIn_block (b := 12) rfl h

theorem rtcField_in {i : Nat} {k : Nat} (h : k.testBit 15 = true) : FieldIn (rtcField i) k := by
  have nth_in : ∀ (l : List Field) (j : Nat), (∀ g ∈ l, FieldIn g k) → FieldIn (nth RTC_DATE_YEAR l j) k := by
    intro l
    induction l with
    | nil => exact fun _ _ => (fieldIn_block (b := 15) rfl h : FieldIn RTC_DATE_YEAR k)
    | cons a l ih =>
      intro j hj
      cases j with
      | zero => exact hj a (List.mem_cons_self ..)
      | succ j => exact ih j (fun g hg => hj g (List.mem_cons_of_mem _ hg))
  refine nth_in rtcFields i (fun g hg => fieldIn_block (b := 15) ?_ h)
  have e : rtcFields.all (fun g => g.block == 15) = true := by decide +kernel
  exact beq_iff_eq.mp (List.all_eq_true.mp e g hg)

theorem bistBlockField_in {x0 : Lane} {k : Nat} (h : k.testBit 21 = true) : FieldIn (bistBlockField x0) k := by
  cases x0 <;> exact fieldIn_block (b := 21) rfl h

theorem bistResField_in {x0 : Lane} {k : Nat} (h : k.testBit 21 = true) : FieldIn (bistResField x0) k := by
  cases x0 <;> exact fieldIn_block (b := 21) rfl h

theorem bistRunField_in {x0 : Lane} {k : Nat} (h : k.testBit 21 = true) : FieldIn (bistRunField x0) k := by
  cases x0 <;> exact fieldIn_block (b := 21) rfl h

theorem logicSig_in {x0 : Lane} {k : Nat} (h : k.testBit 21 = true) : FieldIn (logicSig x0) k := by
  cases x0 <;> exact fieldIn_block (b := 21) rfl h

theorem memorySig_in {x0 : Lane} {k : Nat} (h : k.testBit 21 = true) : FieldIn (memorySig x0) k := by
  cases x0 <;> exact fieldIn_block (b := 21) rfl h

end Sys2Proof.Machine
end

