-- ==== Sys2Proof/Laws/OnlyUnits.lean ====
section
/-!
SUPPORT. The parts of the state that the operations may change (`Only`): the flags, the Time Base and the decision units.
-/
set_option linter.unusedTactic false
set_option linter.unreachableTactic false
set_option linter.unusedVariables false

namespace Sys2Proof.Machine
set_option Elab.async false

/-! ### Ops -/

theorem raise_only {μ : Nat} {s₀ : State} {s : State} {f : Field} (hm : sub 0 μ = true) (hf : FieldIn f μ) (h₀ : Only μ s₀ s) : Only μ s₀ (State.raise s f) := by
  unfold State.raise
  try dsimp only
  repeat' (first
    | with_reducible first
      | exact h₀
      | exact Only.refl _
      | refine wr_only ?_ ?_
      | exact hf
      | refine only_of_fst (by assumption) ?_
    | intro _
    | split
    | dsimp only)

theorem raiseIf_only {μ : Nat} {s₀ : State} {s : State} {b : Bool} {f : Field} (hm : sub 0 μ = true) (hf : FieldIn f μ) (h₀ : Only μ s₀ s) : Only μ s₀ (State.raiseIf s b f) := by
  unfold State.raiseIf
  try dsimp only
  repeat' (first
    | with_reducible first
      | exact h₀
      | exact Only.refl _
      | refine raise_only (sub_mid rfl hm) ?_ ?_
      | exact hf
      | refine only_of_fst (by assumption) ?_
    | intro _
    | split
    | dsimp only)

theorem wrI_only {μ : Nat} {s₀ : State} {s : State} {f : Field} {v : Int} (hm : sub 0 μ = true) (hf : FieldIn f μ) (h₀ : Only μ s₀ s) : Only μ s₀ (State.wrI s f v) := by
  unfold State.wrI
  try dsimp only
  repeat' (first
    | with_reducible first
      | exact h₀
      | exact Only.refl _
      | refine wr_only ?_ ?_
      | exact hf
      | refine only_of_fst (by assumption) ?_
    | intro _
    | split
    | dsimp only)

theorem trapLane_only {μ : Nat} {s₀ : State} {s : State} {l : Lane} {t : Trap} (hm : sub 8388608 μ = true) (h₀ : Only μ s₀ s) : Only μ s₀ (State.trapLane s l t) := by
  unfold State.trapLane
  try dsimp only
  repeat' (first
    | with_reducible first
      | exact h₀
      | exact Only.refl _
      | refine only_of_fst (by assumption) ?_
    | refine onLane_only_lanes (fun _ => rfl) (fun _ => by first | exact Nat.le_refl _ | exact Nat.zero_le _) (bit_mid hm rfl) ?_
    | intro _
    | split
    | dsimp only
    | (with_reducible refine Only.upd rfl hm ?_ ?_; exact {}))

theorem post_only {μ : Nat} {s₀ : State} {s : State} {e : Event} (hm : sub 33554432 μ = true) (h₀ : Only μ s₀ s) : Only μ s₀ (State.post s e) := by
  unfold State.post
  try dsimp only
  repeat' (first
    | with_reducible first
      | exact h₀
      | exact Only.refl _
      | refine only_of_fst (by assumption) ?_
    | intro _
    | split
    | dsimp only
    | (with_reducible refine Only.upd rfl hm ?_ ?_; exact {}))

theorem dcqCount_only {μ : Nat} {s₀ : State} {s : State} {n : Nat} (hm : sub 1048576 μ = true) (h₀ : Only μ s₀ s) : Only μ s₀ (State.dcqCount s n) := by
  unfold State.dcqCount
  try dsimp only
  repeat' (first
    | with_reducible first
      | exact h₀
      | exact Only.refl _
      | refine wr_only ?_ ?_
      | exact DCQ_Q_W1_USED_in (bit_mid hm rfl)
      | refine only_of_fst (by assumption) ?_
    | intro _
    | split
    | dsimp only)

theorem dcqDiscard_only {μ : Nat} {s₀ : State} {s : State} {n : Nat} {k : Nat} (hm : sub 1048576 μ = true) (h₀ : Only μ s₀ s) : Only μ s₀ (State.dcqDiscard s n k) := by
  unfold State.dcqDiscard
  try dsimp only
  repeat' (first
    | with_reducible first
      | exact h₀
      | exact Only.refl _
      | refine wr_only ?_ ?_
      | exact DCQ_Q_W3_DISC_in (bit_mid hm rfl)
      | refine only_of_fst (by assumption) ?_
    | intro _
    | split
    | dsimp only
    | exact fieldIn_block (b := 20) rfl (bit_mid hm rfl))

theorem dcqEmpty_only {μ : Nat} {s₀ : State} {s : State} {n : Nat} (hm : sub 34603008 μ = true) (h₀ : Only μ s₀ s) : Only μ s₀ (State.dcqEmpty s n) := by
  unfold State.dcqEmpty
  try dsimp only
  repeat' (first
    | with_reducible first
      | exact h₀
      | exact Only.refl _
      | refine dcqDiscard_only (sub_mid rfl hm) ?_
      | refine dcqCount_only (sub_mid rfl hm) ?_
      | refine only_of_fst (by assumption) ?_
    | intro _
    | split
    | dsimp only
    | (with_reducible refine Only.upd rfl hm ?_ ?_; exact {}))

theorem dcqOverflow_only {μ : Nat} {s₀ : State} {s : State} {n : Nat} {k : Nat} (hm : sub 34603008 μ = true) (h₀ : Only μ s₀ s) : Only μ s₀ (State.dcqOverflow s n k) := by
  unfold State.dcqOverflow
  try dsimp only
  repeat' (first
    | with_reducible first
      | exact h₀
      | exact Only.refl _
      | refine dcqEmpty_only (sub_mid rfl hm) ?_
      | refine dcqDiscard_only (sub_mid rfl hm) ?_
      | refine only_of_fst (by assumption) ?_
    | intro _
    | split
    | dsimp only)

theorem dcqOffer_only {μ : Nat} {s₀ : State} {s : State} {n : Nat} {e : Event} (hm : sub 34603008 μ = true) (h₀ : Only μ s₀ s) : Only μ s₀ (State.dcqOffer s n e).1 := by
  unfold State.dcqOffer
  try dsimp only
  repeat' (first
    | with_reducible first
      | exact h₀
      | exact Only.refl _
      | refine dcqOverflow_only (sub_mid rfl hm) ?_
      | refine dcqCount_only (sub_mid rfl hm) ?_
      | refine only_of_fst (by assumption) ?_
    | intro _
    | split
    | dsimp only
    | (with_reducible refine Only.upd rfl hm ?_ ?_; exact {}))

theorem dcqPoison_only {μ : Nat} {s₀ : State} {s : State} {n : Nat} (hm : sub 1048576 μ = true) (h₀ : Only μ s₀ s) : Only μ s₀ (State.dcqPoison s n) := by
  unfold State.dcqPoison
  try dsimp only
  repeat' (first
    | with_reducible first
      | exact h₀
      | exact Only.refl _
      | refine wr_only ?_ ?_
      | exact DCQ_Q_W2_PERR_in (bit_mid hm rfl)
      | refine only_of_fst (by assumption) ?_
    | intro _
    | split
    | dsimp only
    | exact fieldIn_block (b := 20) rfl (bit_mid hm rfl))

theorem postDcq_only {μ : Nat} {s₀ : State} {s : State} {n : Nat} {e : Event} (hm : sub 34603008 μ = true) (h₀ : Only μ s₀ s) : Only μ s₀ (State.postDcq s n e) := by
  unfold State.postDcq
  try dsimp only
  repeat' (first
    | with_reducible first
      | exact h₀
      | exact Only.refl _
      | refine dcqOffer_only (sub_mid rfl hm) ?_
      | refine only_of_fst (by assumption) ?_
    | intro _
    | split
    | dsimp only)

theorem freeTick_only {μ : Nat} {s₀ : State} {s : State} (hm : sub 18014398509481984 μ = true) (h₀ : Only μ s₀ s) : Only μ s₀ (State.freeTick s) := by
  unfold State.freeTick
  try dsimp only
  repeat' (first
    | with_reducible first
      | exact h₀
      | exact Only.refl _
      | refine only_of_fst (by assumption) ?_
    | intro _
    | split
    | dsimp only
    | (with_reducible refine Only.upd rfl hm ?_ ?_; exact {}))

theorem emit_only {μ : Nat} {s₀ : State} {s : State} {x : Transmission} (hm : sub 4503599627370496 μ = true) (h₀ : Only μ s₀ s) : Only μ s₀ (State.emit s x) := by
  unfold State.emit
  try dsimp only
  repeat' (first
    | with_reducible first
      | exact h₀
      | exact Only.refl _
      | refine only_of_fst (by assumption) ?_
    | intro _
    | split
    | dsimp only
    | (with_reducible refine Only.upd rfl hm ?_ ?_; exact {}))

theorem fit_only {μ : Nat} {s₀ : State} {s : State} {w : Nat} {v : Int} (hm : sub 18014398509481984 μ = true) (h₀ : Only μ s₀ s) : Only μ s₀ (State.fit s w v).1 := by
  unfold State.fit
  try dsimp only
  repeat' (first
    | with_reducible first
      | exact h₀
      | exact Only.refl _
      | refine freeTick_only (sub_mid rfl hm) ?_
      | refine only_of_fst (by assumption) ?_
    | intro _
    | split
    | dsimp only)

/-! ### Flags -/

theorem addCount_only {μ : Nat} {s₀ : State} {s : State} {f : Field} {n : Nat} {wrap : Field} (hm : sub 0 μ = true) (hf : FieldIn f μ) (hwrap : FieldIn wrap μ) (h₀ : Only μ s₀ s) : Only μ s₀ (State.addCount s f n wrap) := by
  unfold State.addCount
  try dsimp only
  repeat' (first
    | with_reducible first
      | exact h₀
      | exact Only.refl _
      | refine raiseIf_only (sub_mid rfl hm) ?_ ?_
      | refine wr_only ?_ ?_
      | exact hf
      | exact hwrap
      | refine only_of_fst (by assumption) ?_
    | intro _
    | split
    | dsimp only)

theorem count_only {μ : Nat} {s₀ : State} {s : State} {f : Field} {wrap : Field} (hm : sub 0 μ = true) (hf : FieldIn f μ) (hwrap : FieldIn wrap μ) (h₀ : Only μ s₀ s) : Only μ s₀ (State.count s f wrap) := by
  unfold State.count
  try dsimp only
  repeat' (first
    | with_reducible first
      | exact h₀
      | exact Only.refl _
      | refine addCount_only (sub_mid rfl hm) ?_ ?_ ?_
      | exact hf
      | exact hwrap
      | refine only_of_fst (by assumption) ?_
    | intro _
    | split
    | dsimp only)

theorem countSat_only {μ : Nat} {s₀ : State} {s : State} {f : Field} {sat : Field} (hm : sub 0 μ = true) (hf : FieldIn f μ) (hsat : FieldIn sat μ) (h₀ : Only μ s₀ s) : Only μ s₀ (State.countSat s f sat) := by
  unfold State.countSat
  try dsimp only
  repeat' (first
    | with_reducible first
      | exact h₀
      | exact Only.refl _
      | refine raiseIf_only (sub_mid rfl hm) ?_ ?_
      | refine wr_only ?_ ?_
      | exact hf
      | exact hsat
      | refine only_of_fst (by assumption) ?_
    | intro _
    | split
    | dsimp only)

theorem peak_only {μ : Nat} {s₀ : State} {s : State} {f : Field} {v : Nat} (hm : sub 0 μ = true) (hf : FieldIn f μ) (h₀ : Only μ s₀ s) : Only μ s₀ (State.peak s f v) := by
  unfold State.peak
  try dsimp only
  repeat' (first
    | with_reducible first
      | exact h₀
      | exact Only.refl _
      | refine wr_only ?_ ?_
      | exact hf
      | refine only_of_fst (by assumption) ?_
    | intro _
    | split
    | dsimp only)

/-! ### TimeBase -/

theorem flagClamp_only {μ : Nat} {s₀ : State} {s : State} (hm : sub 2 μ = true) (h₀ : Only μ s₀ s) : Only μ s₀ (State.flagClamp s) := by
  unfold State.flagClamp
  try dsimp only
  repeat' (first
    | with_reducible first
      | exact h₀
      | exact Only.refl _
      | refine raiseIf_only (sub_mid rfl hm) ?_ ?_
      | refine only_of_fst (by assumption) ?_
    | intro _
    | split
    | dsimp only
    | exact fieldIn_block (b := 1) rfl (bit_mid hm rfl))

theorem stallTick_only {μ : Nat} {s₀ : State} {s : State} {n : Nat} (hm : sub 134217732 μ = true) (h₀ : Only μ s₀ s) : Only μ s₀ (State.stallTick s n) := by
  unfold State.stallTick
  try dsimp only
  repeat' (first
    | with_reducible first
      | exact h₀
      | exact Only.refl _
      | refine addCount_only (sub_mid rfl hm) ?_ ?_ ?_
      | refine only_of_fst (by assumption) ?_
    | intro _
    | split
    | dsimp only
    | exact fieldIn_block (b := 2) rfl (bit_mid hm rfl)
    | (with_reducible refine Only.upd rfl hm ?_ ?_; exact {}))

theorem redrift_only {μ : Nat} {s₀ : State} {s : State} (hm : sub 18014398576590848 μ = true) (h₀ : Only μ s₀ s) : Only μ s₀ (State.redrift s) := by
  unfold State.redrift
  try dsimp only
  repeat' (first
    | with_reducible first
      | exact h₀
      | exact Only.refl _
      | refine only_of_fst (by assumption) ?_
    | intro _
    | split
    | dsimp only
    | (with_reducible refine Only.upd rfl hm ?_ ?_; exact {}))

theorem tick_only {μ : Nat} {s₀ : State} {s : State} {n : Nat} (hm : sub 27021597965549574 μ = true) (h₀ : Only μ s₀ s) : Only μ s₀ (State.tick s n) := by
  unfold State.tick
  split
  · exact h₀
  · refine stallTick_only (sub_mid rfl hm) (flagClamp_only (sub_mid rfl hm) (redrift_only (sub_mid rfl hm) ?_))
    exact Only.upd rfl hm { nowInv := fun _ => timeOfUnits_ok _ } h₀

theorem postTb_only {μ : Nat} {s₀ : State} {s : State} {kind : Nat} {p : Octets} (hm : sub 34603008 μ = true) (h₀ : Only μ s₀ s) : Only μ s₀ (State.postTb s kind p) := by
  unfold State.postTb
  try dsimp only
  repeat' (first
    | with_reducible first
      | exact h₀
      | exact Only.refl _
      | refine postDcq_only (sub_mid rfl hm) ?_
      | refine only_of_fst (by assumption) ?_
    | intro _
    | split
    | dsimp only)

theorem markLock_only {μ : Nat} {s₀ : State} {s : State} {old : Nat} {new : Nat} (hm : sub 67108864 μ = true) (h₀ : Only μ s₀ s) : Only μ s₀ (State.markLock s old new) := by
  unfold State.markLock
  try dsimp only
  repeat' (first
    | with_reducible first
      | exact h₀
      | exact Only.refl _
      | refine only_of_fst (by assumption) ?_
    | intro _
    | split
    | dsimp only
    | (with_reducible refine Only.upd rfl hm ?_ ?_; exact {}))

theorem setTb_only {μ : Nat} {s₀ : State} {s : State} {new : Nat} (hm : sub 101711874 μ = true) (h₀ : Only μ s₀ s) : Only μ s₀ (State.setTb s new) := by
  unfold State.setTb
  try dsimp only
  repeat' (first
    | with_reducible first
      | exact h₀
      | exact Only.refl _
      | refine postTb_only (sub_mid rfl hm) ?_
      | refine raise_only (sub_mid rfl hm) ?_ ?_
      | refine markLock_only (sub_mid rfl hm) ?_
      | refine wr_only ?_ ?_
      | refine only_of_fst (by assumption) ?_
    | intro _
    | split
    | dsimp only
    | exact fieldIn_block (b := 1) rfl (bit_mid hm rfl)
    | (with_reducible refine Only.upd rfl hm ?_ ?_; exact {}))

theorem requestStep_only {μ : Nat} {s₀ : State} {s : State} {q : StepRequest} (hm : sub 67108864 μ = true) (hq : StepRequest.ok q) (h₀ : Only μ s₀ s) : Only μ s₀ (State.requestStep s q) := by
  refine Only.upd rfl hm { stepInv := fun _ x hx => ?_ } h₀
  cases hx
  exact hq

theorem crzStepped_only {μ : Nat} {s₀ : State} {s : State} {old : Nat} {new : Nat} (hm : sub 134217728 μ = true) (h₀ : Only μ s₀ s) : Only μ s₀ (State.crzStepped s old new) := by
  unfold State.crzStepped
  try dsimp only
  repeat' (first
    | with_reducible first
      | exact h₀
      | exact Only.refl _
      | refine only_of_fst (by assumption) ?_
    | intro _
    | split
    | dsimp only
    | (with_reducible refine Only.upd rfl hm ?_ ?_; exact {}))

theorem markStep_only {μ : Nat} {s₀ : State} {s : State} {old : Nat} {new : Nat} (hm : sub 67108864 μ = true) (h₀ : Only μ s₀ s) : Only μ s₀ (State.markStep s old new) := by
  unfold State.markStep
  try dsimp only
  repeat' (first
    | with_reducible first
      | exact h₀
      | exact Only.refl _
      | refine only_of_fst (by assumption) ?_
    | intro _
    | split
    | dsimp only
    | (with_reducible refine Only.upd rfl hm ?_ ?_; exact {}))

theorem stepTarget_ok {t : Time} {q : StepRequest} (h : StepRequest.ok q) : Time.ok (stepTarget t q) := by
  cases q with
  | add d => exact timeOfUnits_ok _
  | load v => exact h

theorem makeStep_only {μ : Nat} {s₀ : State} {s : State} {q : StepRequest} (hm : sub 235929602 μ = true) (hq : s.Inv → StepRequest.ok q) (h₀ : Only μ s₀ s) : Only μ s₀ (State.makeStep s q) := by
  unfold State.makeStep
  extract_lets old new change s1 b s2 s3 s4 s5
  have h2 : Only μ s₀ s2 := Only.upd (x := s) rfl hm
    { nowInv := fun i => stepTarget_ok (t := s.tb.now) (hq i), stepInv := fun _ _ h => by cases h } h₀
  have h3 : Only μ s₀ s3 := raise_only (sub_mid rfl hm) (fieldIn_block (b := 1) rfl (bit_mid hm rfl)) h2
  refine crzStepped_only (sub_mid rfl hm) (postTb_only (sub_mid rfl hm) ?_)
  cases q with
  | add d =>
    show Only μ s₀ (if s3.on TB_CTRL_SERVO_EN then s3.setTb tbAcquiring else s3)
    split
    · exact setTb_only (sub_mid rfl hm) h3
    · exact h3
  | load v => exact h3

theorem boundary_only {μ : Nat} {s₀ : State} {s : State} (hm : sub 235929602 μ = true) (h₀ : Only μ s₀ s) : Only μ s₀ (State.boundary s) := by
  unfold State.boundary
  try dsimp only
  repeat' (first
    | with_reducible first
      | exact h₀
      | exact Only.refl _
      | refine makeStep_only (sub_mid rfl hm) ?_ ?_
      | refine only_of_fst (by assumption) ?_
    | intro _
    | split
    | dsimp only
    | exact (‹State.Inv _›).step _ (Option.mem_def.2 (by assumption))
    | (with_reducible refine Only.upd rfl hm ?_ ?_; exact {}))

theorem setTime_only {μ : Nat} {s₀ : State} {s : State} {t : Time} (hm : sub 67108866 μ = true) (hs : t.sec < 2 ^ 64) (hf : t.frac < 2 ^ 32) (h₀ : Only μ s₀ s) : Only μ s₀ (State.setTime s t) := by
  unfold State.setTime
  split
  · exact raise_only (sub_mid rfl hm) (fieldIn_block (b := 1) rfl (bit_mid hm rfl)) h₀
  · rename_i h
    simp only [Bool.or_eq_true, decide_eq_true_eq, not_or] at h
    exact requestStep_only (sub_mid rfl hm) ⟨hs, by omega, hf⟩ h₀

theorem noteSample_only {μ : Nat} {s₀ : State} {s : State} {mag : Nat} {out : Bool} (hm : sub 67108864 μ = true) (h₀ : Only μ s₀ s) : Only μ s₀ (State.noteSample s mag out) := by
  unfold State.noteSample
  try dsimp only
  repeat' (first
    | with_reducible first
      | exact h₀
      | exact Only.refl _
      | refine only_of_fst (by assumption) ?_
    | intro _
    | split
    | dsimp only
    | (with_reducible refine Only.upd rfl hm ?_ ?_; exact {}))

theorem integrate_only {μ : Nat} {s₀ : State} {s : State} {o : Int} (hm : sub 18014398509481986 μ = true) (h₀ : Only μ s₀ s) : Only μ s₀ (State.integrate s o) := by
  unfold State.integrate
  try dsimp only
  repeat' (first
    | with_reducible first
      | exact h₀
      | exact Only.refl _
      | refine wrI_only (sub_mid rfl hm) ?_ ?_
      | refine raiseIf_only (sub_mid rfl hm) ?_ ?_
      | refine fit_only (sub_mid rfl hm) ?_
      | refine only_of_fst (by assumption) ?_
    | intro _
    | split
    | dsimp only
    | exact fieldIn_block (b := 1) rfl (bit_mid hm rfl))

theorem judge_only {μ : Nat} {s₀ : State} {s : State} {inb : Bool} {out : Bool} (hm : sub 101711874 μ = true) (h₀ : Only μ s₀ s) : Only μ s₀ (State.judge s inb out) := by
  unfold State.judge
  try dsimp only
  repeat' (first
    | with_reducible first
      | exact h₀
      | exact Only.refl _
      | refine setTb_only (sub_mid rfl hm) ?_
      | refine only_of_fst (by assumption) ?_
    | intro _
    | split
    | dsimp only
    | (with_reducible refine Only.upd rfl hm ?_ ?_; exact {}))

theorem servo_only {μ : Nat} {s₀ : State} {s : State} {o : Int} (hm : sub 18014398611193858 μ = true) (h₀ : Only μ s₀ s) : Only μ s₀ (State.servo s o) := by
  unfold State.servo
  try dsimp only
  repeat' (first
    | with_reducible first
      | exact h₀
      | exact Only.refl _
      | refine judge_only (sub_mid rfl hm) ?_
      | refine integrate_only (sub_mid rfl hm) ?_
      | refine requestStep_only (sub_mid rfl hm) ?_ ?_
      | refine noteSample_only (sub_mid rfl hm) ?_
      | refine only_of_fst (by assumption) ?_
    | intro _
    | split
    | dsimp only
    | exact True.intro
    | (with_reducible refine Only.upd rfl hm ?_ ?_; exact {}))

theorem sample_only {μ : Nat} {s₀ : State} {s : State} {o : Int} (hm : sub 18014398611193858 μ = true) (h₀ : Only μ s₀ s) : Only μ s₀ (State.sample s o) := by
  unfold State.sample
  try dsimp only
  repeat' (first
    | with_reducible first
      | exact h₀
      | exact Only.refl _
      | refine wrI_only (sub_mid rfl hm) ?_ ?_
      | refine count_only (sub_mid rfl hm) ?_ ?_ ?_
      | refine servo_only (sub_mid rfl hm) ?_
      | refine fit_only (sub_mid rfl hm) ?_
      | refine only_of_fst (by assumption) ?_
    | intro _
    | split
    | dsimp only
    | exact fieldIn_block (b := 1) rfl (bit_mid hm rfl))

theorem servoOff_only {μ : Nat} {s₀ : State} {s : State} (hm : sub 101711874 μ = true) (h₀ : Only μ s₀ s) : Only μ s₀ (State.servoOff s) := by
  unfold State.servoOff
  try dsimp only
  repeat' (first
    | with_reducible first
      | exact h₀
      | exact Only.refl _
      | refine setTb_only (sub_mid rfl hm) ?_
      | refine only_of_fst (by assumption) ?_
    | intro _
    | split
    | dsimp only
    | (with_reducible refine Only.upd rfl hm ?_ ?_; exact {}))

theorem syncTimeout_only {μ : Nat} {s₀ : State} {s : State} (hm : sub 101711874 μ = true) (h₀ : Only μ s₀ s) : Only μ s₀ (State.syncTimeout s) := by
  unfold State.syncTimeout
  try dsimp only
  repeat' (first
    | with_reducible first
      | exact h₀
      | exact Only.refl _
      | refine raise_only (sub_mid rfl hm) ?_ ?_
      | refine setTb_only (sub_mid rfl hm) ?_
      | refine only_of_fst (by assumption) ?_
    | intro _
    | split
    | dsimp only
    | exact fieldIn_block (b := 1) rfl (bit_mid hm rfl))

theorem holdoverExpiry_only {μ : Nat} {s₀ : State} {s : State} (hm : sub 101711874 μ = true) (h₀ : Only μ s₀ s) : Only μ s₀ (State.holdoverExpiry s) := by
  unfold State.holdoverExpiry
  try dsimp only
  repeat' (first
    | with_reducible first
      | exact h₀
      | exact Only.refl _
      | refine setTb_only (sub_mid rfl hm) ?_
      | refine only_of_fst (by assumption) ?_
    | intro _
    | split
    | dsimp only)

theorem followMiss_only {μ : Nat} {s₀ : State} {s : State} (hm : sub 67108866 μ = true) (h₀ : Only μ s₀ s) : Only μ s₀ (State.followMiss s) := by
  unfold State.followMiss
  try dsimp only
  repeat' (first
    | with_reducible first
      | exact h₀
      | exact Only.refl _
      | refine raise_only (sub_mid rfl hm) ?_ ?_
      | refine countSat_only (sub_mid rfl hm) ?_ ?_ ?_
      | refine only_of_fst (by assumption) ?_
    | intro _
    | split
    | dsimp only
    | exact fieldIn_block (b := 1) rfl (bit_mid hm rfl)
    | (with_reducible refine Only.upd rfl hm ?_ ?_; exact {}))

theorem followTimeout_only {μ : Nat} {s₀ : State} {s : State} (hm : sub 67108866 μ = true) (h₀ : Only μ s₀ s) : Only μ s₀ (State.followTimeout s) := by
  unfold State.followTimeout
  try dsimp only
  repeat' (first
    | with_reducible first
      | exact h₀
      | exact Only.refl _
      | refine followMiss_only (sub_mid rfl hm) ?_
      | refine only_of_fst (by assumption) ?_
    | intro _
    | split
    | dsimp only)

theorem pruneTb_only {μ : Nat} {s₀ : State} {s : State} {k : Nat} (hm : sub 67108864 μ = true) (h₀ : Only μ s₀ s) : Only μ s₀ (State.pruneTb s k) := by
  unfold State.pruneTb
  try dsimp only
  repeat' (first
    | with_reducible first
      | exact h₀
      | exact Only.refl _
      | refine only_of_fst (by assumption) ?_
    | intro _
    | split
    | dsimp only
    | (with_reducible refine Only.upd rfl hm ?_ ?_; exact {}))

theorem loadLat_only {μ : Nat} {s₀ : State} {s : State} {p : Nat} (hm : sub 2 μ = true) (h₀ : Only μ s₀ s) : Only μ s₀ (State.loadLat s p) := by
  unfold State.loadLat
  try dsimp only
  repeat' (first
    | with_reducible first
      | exact h₀
      | exact Only.refl _
      | refine wr_only ?_ ?_
      | refine only_of_fst (by assumption) ?_
    | intro _
    | split
    | dsimp only
    | exact fieldIn_block (b := 1) rfl (bit_mid hm rfl))

/-! ### Felter -/

theorem setUnit_inq (f : FelterState) (l : Lane) (u : List FelterEntry) : (f.setUnit l u).inq = f.inq := by cases l <;> rfl

theorem onUnit_only {μ : Nat} {s₀ : State} {s : State} {l : Lane} {g : List FelterEntry → List FelterEntry} (hm : sub 536870912 μ = true) (h₀ : Only μ s₀ s) : Only μ s₀ (State.onUnit s l g) := by
  exact Only.upd rfl hm { inqInv := fun i => by rw [setUnit_inq]; exact i.inq } h₀

theorem felterTake_only {μ : Nat} {s₀ : State} {s : State} {l : Lane} {k : Nat} {es : List Event} (hm : sub 536870912 μ = true) (h₀ : Only μ s₀ s) : Only μ s₀ (State.felterTake s l k es) := by
  unfold State.felterTake
  try dsimp only
  repeat' (first
    | with_reducible first
      | exact h₀
      | exact Only.refl _
      | refine onUnit_only (sub_mid rfl hm) ?_
      | refine only_of_fst (by assumption) ?_
    | intro _
    | split
    | dsimp only)

theorem felterSealed_only {μ : Nat} {s₀ : State} {s : State} {l : Lane} {k : Nat} (hm : sub 536870912 μ = true) (h₀ : Only μ s₀ s) : Only μ s₀ (State.felterSealed s l k) := by
  unfold State.felterSealed
  try dsimp only
  repeat' (first
    | with_reducible first
      | exact h₀
      | exact Only.refl _
      | refine onUnit_only (sub_mid rfl hm) ?_
      | refine only_of_fst (by assumption) ?_
    | intro _
    | split
    | dsimp only)

theorem felterAsk_only {μ : Nat} {s₀ : State} {s : State} {part : Nat} {dist : Bool} (hm : sub 536870912 μ = true) (h₀ : Only μ s₀ s) : Only μ s₀ (State.felterAsk s part dist) := by
  unfold State.felterAsk
  try dsimp only
  repeat' (first
    | with_reducible first
      | exact h₀
      | exact Only.refl _
      | refine only_of_fst (by assumption) ?_
    | intro _
    | split
    | dsimp only
    | (with_reducible refine Only.upd rfl hm ?_ ?_; exact {}))

theorem queueRecord_only {μ : Nat} {s₀ : State} {s : State} {r : ResultRecord} (hm : sub 536870976 μ = true) (h₀ : Only μ s₀ s) : Only μ s₀ (State.queueRecord s r) := by
  unfold State.queueRecord
  try dsimp only
  repeat' (first
    | with_reducible first
      | exact h₀
      | exact Only.refl _
      | refine raise_only (sub_mid rfl hm) ?_ ?_
      | refine count_only (sub_mid rfl hm) ?_ ?_ ?_
      | refine only_of_fst (by assumption) ?_
    | intro _
    | split
    | dsimp only
    | exact fieldIn_block (b := 6) rfl (bit_mid hm rfl)
    | (with_reducible refine Only.upd rfl hm ?_ ?_; exact {}))

theorem setReceived_only {μ : Nat} {s₀ : State} {s : State} {reported : Nat} (hm : sub 64 μ = true) (h₀ : Only μ s₀ s) : Only μ s₀ (State.setReceived s reported) := by
  unfold State.setReceived
  try dsimp only
  repeat' (first
    | with_reducible first
      | exact h₀
      | exact Only.refl _
      | refine wr_only ?_ ?_
      | refine only_of_fst (by assumption) ?_
    | intro _
    | split
    | dsimp only
    | exact fieldIn_block (b := 6) rfl (bit_mid hm rfl))

theorem buildRecord_only {μ : Nat} {s₀ : State} {s : State} {k : Nat} {e : FelterEntry} {part : Nat} {dist : Bool} {mask : Nat} (hm : sub 536870976 μ = true) (h₀ : Only μ s₀ s) : Only μ s₀ (State.buildRecord s k e part dist mask) := by
  unfold State.buildRecord
  try dsimp only
  repeat' (first
    | with_reducible first
      | exact h₀
      | exact Only.refl _
      | refine queueRecord_only (sub_mid rfl hm) ?_
      | refine setReceived_only (sub_mid rfl hm) ?_
      | refine raise_only (sub_mid rfl hm) ?_ ?_
      | refine only_of_fst (by assumption) ?_
    | intro _
    | split
    | dsimp only
    | exact fieldIn_block (b := 6) rfl (bit_mid hm rfl))

theorem buildAll_only {μ : Nat} {s₀ : State} {k : Nat} {l : Lane} {bad : List Nat} {x0 : Nat} {x1 : List (Nat × Bool × Nat)} {s : State} (hm : sub 536870976 μ = true) (h₀ : Only μ s₀ s) : Only μ s₀ (State.buildAll k l bad x0 x1 s) := by
  revert h₀
  generalize x1 = rs
  intro h₀
  induction rs generalizing x0 s with
  | nil => exact h₀
  | cons r t ih =>
    rw [State.buildAll]
    refine ih ?_
    split
    · exact buildRecord_only (sub_mid rfl hm) h₀
    · exact raiseIf_only (sub_mid rfl hm) (fieldIn_block (b := 6) rfl (bit_mid hm rfl)) (raise_only (sub_mid rfl hm) (fieldIn_block (b := 6) rfl (bit_mid hm rfl)) h₀)

theorem felterBuild_only {μ : Nat} {s₀ : State} {s : State} {k : Nat} {l : Lane} {bad : List Nat} (hm : sub 536870976 μ = true) (h₀ : Only μ s₀ s) : Only μ s₀ (State.felterBuild s k l bad) := by
  unfold State.felterBuild
  try dsimp only
  repeat' (first
    | with_reducible first
      | exact h₀
      | exact Only.refl _
      | refine buildAll_only (sub_mid rfl hm) ?_
      | refine only_of_fst (by assumption) ?_
    | intro _
    | split
    | dsimp only
    | (with_reducible refine Only.upd rfl hm ?_ ?_; exact {}))

theorem fltSendWrite_only {μ : Nat} {s₀ : State} {s : State} {commit : Bool} {v : Nat} (hm : sub 536870976 μ = true) (h₀ : Only μ s₀ s) : Only μ s₀ (State.fltSendWrite s commit v) := by
  unfold State.fltSendWrite
  try dsimp only
  repeat' (first
    | with_reducible first
      | exact h₀
      | exact Only.refl _
      | refine raise_only (sub_mid rfl hm) ?_ ?_
      | refine felterAsk_only (sub_mid rfl hm) ?_
      | refine only_of_fst (by assumption) ?_
    | intro _
    | split
    | dsimp only
    | exact fieldIn_block (b := 6) rfl (bit_mid hm rfl))

theorem intakeOffer_only {μ : Nat} {s₀ : State} {s : State} {r : Octets} (hm : sub 536870976 μ = true) (h₀ : Only μ s₀ s) : Only μ s₀ (State.intakeOffer s r) := by
  unfold State.intakeOffer
  try dsimp only
  repeat' (first
    | with_reducible first
      | exact h₀
      | exact Only.refl _
      | refine raise_only (sub_mid rfl hm) ?_ ?_
      | refine count_only (sub_mid rfl hm) ?_ ?_ ?_
      | refine peak_only (sub_mid rfl hm) ?_ ?_
      | refine wr_only ?_ ?_
      | refine only_of_fst (by assumption) ?_
    | intro _
    | split
    | dsimp only
    | (with_reducible refine Only.upd rfl hm ?_ ?_; exact { inqInv := fun _ => by simp only [List.length_append, List.length_singleton]; omega })
    | exact fieldIn_block (b := 6) rfl (bit_mid hm rfl)
    | (with_reducible refine Only.upd rfl hm ?_ ?_; exact {}))

theorem putReceipt_only {μ : Nat} {s₀ : State} {s : State} {k : Nat} {seg : Nat} {cover : Nat} (hm : sub 536870912 μ = true) (h₀ : Only μ s₀ s) : Only μ s₀ (State.putReceipt s k seg cover) := by
  unfold State.putReceipt
  try dsimp only
  repeat' (first
    | with_reducible first
      | exact h₀
      | exact Only.refl _
      | refine only_of_fst (by assumption) ?_
    | intro _
    | split
    | dsimp only
    | (with_reducible refine Only.upd rfl hm ?_ ?_; exact {}))

theorem markReceipt_only {μ : Nat} {s₀ : State} {s : State} {e : Event} {onTime : Bool} (hm : sub 536870912 μ = true) (h₀ : Only μ s₀ s) : Only μ s₀ (State.markReceipt s e onTime) := by
  unfold State.markReceipt
  try dsimp only
  repeat' (first
    | with_reducible first
      | exact h₀
      | exact Only.refl _
      | refine only_of_fst (by assumption) ?_
    | intro _
    | split
    | dsimp only
    | (with_reducible refine Only.upd rfl hm ?_ ?_; exact {}))

theorem intakeRecord_only {μ : Nat} {s₀ : State} {s : State} (hm : sub 570425408 μ = true) (h₀ : Only μ s₀ s) : Only μ s₀ (State.intakeRecord s) := by
  unfold State.intakeRecord
  try dsimp only
  repeat' (first
    | with_reducible first
      | exact h₀
      | exact Only.refl _
      | refine raise_only (sub_mid rfl hm) ?_ ?_
      | refine count_only (sub_mid rfl hm) ?_ ?_ ?_
      | refine putReceipt_only (sub_mid rfl hm) ?_
      | refine post_only (sub_mid rfl hm) ?_
      | refine wr_only ?_ ?_
      | refine only_of_fst (by assumption) ?_
    | intro _
    | split
    | dsimp only
    | (with_reducible refine Only.upd rfl hm ?_ ?_; exact { inqInv := fun i => by have := i.inq; simp_all; omega })
    | exact fieldIn_block (b := 6) rfl (bit_mid hm rfl)
    | (with_reducible refine Only.upd rfl hm ?_ ?_; exact {}))

/-! ### Launch -/

theorem lnuReject_only {μ : Nat} {s₀ : State} {s : State} {k : Nat} {reason : Nat} {origin : Nat} {target : Nat} (hm : sub 16 μ = true) (h₀ : Only μ s₀ s) : Only μ s₀ (State.lnuReject s k reason origin target) := by
  unfold State.lnuReject
  try dsimp only
  repeat' (first
    | with_reducible first
      | exact h₀
      | exact Only.refl _
      | refine count_only (sub_mid rfl hm) ?_ ?_ ?_
      | refine raise_only (sub_mid rfl hm) ?_ ?_
      | refine wr_only ?_ ?_
      | refine only_of_fst (by assumption) ?_
    | intro _
    | split
    | dsimp only
    | exact fieldIn_block (b := 4) rfl (bit_mid hm rfl))

theorem setQueue_only {μ : Nat} {s₀ : State} {s : State} {q : List Action} (hm : sub 1073741840 μ = true) (h₀ : Only μ s₀ s) : Only μ s₀ (State.setQueue s q) := by
  unfold State.setQueue
  try dsimp only
  repeat' (first
    | with_reducible first
      | exact h₀
      | exact Only.refl _
      | refine peak_only (sub_mid rfl hm) ?_ ?_
      | refine wr_only ?_ ?_
      | refine only_of_fst (by assumption) ?_
    | intro _
    | split
    | dsimp only
    | exact fieldIn_block (b := 4) rfl (bit_mid hm rfl)
    | (with_reducible refine Only.upd rfl hm ?_ ?_; exact {}))

theorem enqueue_only {μ : Nat} {s₀ : State} {s : State} {k : Nat} {origin : Nat} {stops : Bool} {a : Action} {target : Nat} (hm : sub 1073741840 μ = true) (h₀ : Only μ s₀ s) : Only μ s₀ (State.enqueue s k origin stops a target).1 := by
  unfold State.enqueue
  try dsimp only
  repeat' (first
    | with_reducible first
      | exact h₀
      | exact Only.refl _
      | refine count_only (sub_mid rfl hm) ?_ ?_ ?_
      | refine setQueue_only (sub_mid rfl hm) ?_
      | refine lnuReject_only (sub_mid rfl hm) ?_
      | refine only_of_fst (by assumption) ?_
    | intro _
    | split
    | dsimp only
    | exact fieldIn_block (b := 4) rfl (bit_mid hm rfl)
    | (with_reducible refine Only.upd rfl hm ?_ ?_; exact {}))

theorem resolve_only {μ : Nat} {s₀ : State} {s : State} {r : RawAction} (hm : sub 16 μ = true) (h₀ : Only μ s₀ s) : Only μ s₀ (State.resolve s r).1 := by
  unfold State.resolve
  try dsimp only
  repeat' (first
    | with_reducible first
      | exact h₀
      | exact Only.refl _
      | refine raiseIf_only (sub_mid rfl hm) ?_ ?_
      | refine only_of_fst (by assumption) ?_
    | intro _
    | split
    | dsimp only
    | exact fieldIn_block (b := 4) rfl (bit_mid hm rfl))

theorem submitEach_only {μ : Nat} {s₀ : State} {k : Nat} {origin : Nat} {stops : Bool} {from' : Nat} {x0 : List (Action × Nat)} {x1 : Nat} {s : State} (hm : sub 1073741840 μ = true) (h₀ : Only μ s₀ s) : Only μ s₀ (submitEach k origin stops from' x0 x1 s).1 := by
  induction x0 generalizing x1 s with
  | nil => exact h₀
  | cons x t ih =>
    obtain ⟨a, g⟩ := x
    rw [submitEach]
    split
    · exact ih h₀
    · have h1 : Only μ s₀ (s.enqueue k origin stops a g).1 := enqueue_only (sub_mid rfl hm) h₀
      generalize s.enqueue k origin stops a g = q at h1 ⊢
      obtain ⟨q1, q2⟩ := q
      cases q2
      · exact ih h1
      · exact ih h1
      · exact h1

theorem submit_only {μ : Nat} {s₀ : State} {s : State} {k : Nat} {origin : Nat} {stops : Bool} {from' : Nat} {r : RawAction} (hm : sub 1073741840 μ = true) (h₀ : Only μ s₀ s) : Only μ s₀ (State.submit s k origin stops from' r).1 := by
  unfold State.submit
  try dsimp only
  repeat' (first
    | with_reducible first
      | exact h₀
      | exact Only.refl _
      | refine submitEach_only (sub_mid rfl hm) ?_
      | refine resolve_only (sub_mid rfl hm) ?_
      | refine lnuReject_only (sub_mid rfl hm) ?_
      | refine only_of_fst (by assumption) ?_
    | intro _
    | split
    | dsimp only)

theorem setDay_only {μ : Nat} {s₀ : State} {s : State} {n : Nat} {w : Walker} (hm : sub 1073741824 μ = true) (h₀ : Only μ s₀ s) : Only μ s₀ (State.setDay s n w) := by
  unfold State.setDay
  try dsimp only
  repeat' (first
    | with_reducible first
      | exact h₀
      | exact Only.refl _
      | refine only_of_fst (by assumption) ?_
    | intro _
    | split
    | dsimp only
    | (with_reducible refine Only.upd rfl hm ?_ ?_; exact {}))

theorem walk_only {μ : Nat} {s₀ : State} {k : Nat} {slot : Nat} {stop : Nat} {x0 : Nat} {x1 : Walker} {s : State} (hm : sub 1073741840 μ = true) (h₀ : Only μ s₀ s) : Only μ s₀ (walk k slot stop x0 x1 s) := by
  have hd : ∀ {s w}, Only μ s₀ s → Only μ s₀ (State.setDay s slot w) := fun h => setDay_only (sub_mid rfl hm) h
  induction x0 generalizing x1 s with
  | zero => exact hd h₀
  | succ n ih =>
    rw [walk]
    extract_lets q
    split
    · exact hd h₀
    split
    · exact ih (raise_only (sub_mid rfl hm) (fieldIn_block (b := 4) rfl (bit_mid hm rfl)) h₀)
    split
    · exact hd h₀
    split
    · exact ih h₀
    have h1 : Only μ s₀ q.1 := submit_only (sub_mid rfl hm) h₀
    clear_value q
    split
    · exact hd (raise_only (sub_mid rfl hm) (fieldIn_block (b := 4) rfl (bit_mid hm rfl)) h1)
    · exact ih h1

theorem releaseSlot_only {μ : Nat} {s₀ : State} {s : State} {k : Nat} {slot : Nat} (hm : sub 1073741840 μ = true) (h₀ : Only μ s₀ s) : Only μ s₀ (State.releaseSlot s k slot) := by
  unfold State.releaseSlot
  try dsimp only
  repeat' (first
    | with_reducible first
      | exact h₀
      | exact Only.refl _
      | refine walk_only (sub_mid rfl hm) ?_
      | refine only_of_fst (by assumption) ?_
    | intro _
    | split
    | dsimp only)

theorem launchOpen_only {μ : Nat} {s₀ : State} {s : State} {k : Nat} (hm : sub 1073741840 μ = true) (h₀ : Only μ s₀ s) : Only μ s₀ (State.launchOpen s k) := by
  unfold State.launchOpen
  try dsimp only
  repeat' (first
    | with_reducible first
      | exact h₀
      | exact Only.refl _
      | refine releaseSlot_only (sub_mid rfl hm) ?_
      | refine setQueue_only (sub_mid rfl hm) ?_
      | refine only_of_fst (by assumption) ?_
    | intro _
    | split
    | dsimp only
    | (with_reducible refine Only.upd rfl hm ?_ ?_; exact {}))

theorem launchReset_only {μ : Nat} {s₀ : State} {s : State} (hm : sub 1073741840 μ = true) (h₀ : Only μ s₀ s) : Only μ s₀ (State.launchReset s) := by
  unfold State.launchReset
  try dsimp only
  repeat' (first
    | with_reducible first
      | exact h₀
      | exact Only.refl _
      | refine wr_only ?_ ?_
      | refine only_of_fst (by assumption) ?_
    | intro _
    | split
    | dsimp only
    | exact fieldIn_block (b := 4) rfl (bit_mid hm rfl)
    | (with_reducible refine Only.upd rfl hm ?_ ?_; exact {}))

theorem storeProfile_only {μ : Nat} {s₀ : State} {s : State} {v : Nat} (hm : sub 1073741840 μ = true) (h₀ : Only μ s₀ s) : Only μ s₀ (State.storeProfile s v) := by
  unfold State.storeProfile
  try dsimp only
  repeat' (first
    | with_reducible first
      | exact h₀
      | exact Only.refl _
      | refine wr_only ?_ ?_
      | refine only_of_fst (by assumption) ?_
    | intro _
    | split
    | dsimp only
    | exact fieldIn_block (b := 4) rfl (bit_mid hm rfl)
    | (with_reducible refine Only.upd rfl hm ?_ ?_; exact {}))

theorem setDaySlot_only {μ : Nat} {s₀ : State} {s : State} {n : Nat} {v : Nat} (hm : sub 1073741840 μ = true) (h₀ : Only μ s₀ s) : Only μ s₀ (State.setDaySlot s n v) := by
  unfold State.setDaySlot
  try dsimp only
  repeat' (first
    | with_reducible first
      | exact h₀
      | exact Only.refl _
      | refine setDay_only (sub_mid rfl hm) ?_
      | refine wr_only ?_ ?_
      | exact LNU_DAY_BANK_in (bit_mid hm rfl)
      | exact LNU_DAY_DAYBASE_in (bit_mid hm rfl)
      | exact LNU_DAY_EN_in (bit_mid hm rfl)
      | refine only_of_fst (by assumption) ?_
    | intro _
    | split
    | dsimp only)

theorem markSent_only {μ : Nat} {s₀ : State} {s : State} {p : Path} {b : List Action} (hm : sub 1073741840 μ = true) (h₀ : Only μ s₀ s) : Only μ s₀ (State.markSent s p b) := by
  unfold State.markSent
  try dsimp only
  repeat' (first
    | with_reducible first
      | exact h₀
      | exact Only.refl _
      | refine addCount_only (sub_mid rfl hm) ?_ ?_ ?_
      | exact pathSent_in (bit_mid hm rfl)
      | refine only_of_fst (by assumption) ?_
    | intro _
    | split
    | dsimp only
    | exact fieldIn_block (b := 4) rfl (bit_mid hm rfl)
    | (with_reducible refine Only.upd rfl hm ?_ ?_; exact {}))

theorem dropMissed_only {μ : Nat} {s₀ : State} {s : State} {p : Path} (hm : sub 1073741840 μ = true) (h₀ : Only μ s₀ s) : Only μ s₀ (State.dropMissed s p) := by
  unfold State.dropMissed
  try dsimp only
  repeat' (first
    | with_reducible first
      | exact h₀
      | exact Only.refl _
      | refine addCount_only (sub_mid rfl hm) ?_ ?_ ?_
      | refine raise_only (sub_mid rfl hm) ?_ ?_
      | exact pathMiss_in (bit_mid hm rfl)
      | exact pathMissFlag_in (bit_mid hm rfl)
      | refine only_of_fst (by assumption) ?_
    | intro _
    | split
    | dsimp only
    | exact fieldIn_block (b := 4) rfl (bit_mid hm rfl)
    | (with_reducible refine Only.upd rfl hm ?_ ?_; exact {}))

/-! ### Escort -/

theorem escWork_raise_only {μ : Nat} {s₀ : State} {w : EscWork} {f : Field} (hm : sub 0 μ = true) (hf : FieldIn f μ) (h₀ : Only μ s₀ w.st) : Only μ s₀ (EscWork.raise w f).st := by
  unfold EscWork.raise
  try dsimp only
  repeat' (first
    | with_reducible first
      | exact h₀
      | exact Only.refl _
      | refine raise_only (sub_mid rfl hm) ?_ ?_
      | exact hf
      | refine only_of_fst (by assumption) ?_
    | intro _
    | split
    | dsimp only)

theorem escWork_dropCmd_only {μ : Nat} {s₀ : State} {w : EscWork} {f : Field} (hm : sub 0 μ = true) (hf : FieldIn f μ) (h₀ : Only μ s₀ w.st) : Only μ s₀ (EscWork.dropCmd w f).st := by
  unfold EscWork.dropCmd
  try dsimp only
  repeat' (first
    | with_reducible first
      | exact h₀
      | exact Only.refl _
      | refine escWork_raise_only (sub_mid rfl hm) ?_ ?_
      | exact hf
      | refine only_of_fst (by assumption) ?_
    | intro _
    | split
    | dsimp only)

theorem escWork_setLantern_only {μ : Nat} {s₀ : State} {w : EscWork} {n : Nat} {x : LanternState} (hm : sub 0 μ = true) (h₀ : Only μ s₀ w.st) : Only μ s₀ (EscWork.setLantern w n x).st := by
  unfold EscWork.setLantern
  try dsimp only
  repeat' (first
    | with_reducible first
      | exact h₀
      | exact Only.refl _
      | refine only_of_fst (by assumption) ?_
    | intro _
    | split
    | dsimp only)

theorem escWork_setTrack_only {μ : Nat} {s₀ : State} {w : EscWork} {t : Nat} {x : Option Track} (hm : sub 0 μ = true) (h₀ : Only μ s₀ w.st) : Only μ s₀ (EscWork.setTrack w t x).st := by
  unfold EscWork.setTrack
  try dsimp only
  repeat' (first
    | with_reducible first
      | exact h₀
      | exact Only.refl _
      | refine only_of_fst (by assumption) ?_
    | intro _
    | split
    | dsimp only)

theorem escWork_issue_only {μ : Nat} {s₀ : State} {w : EscWork} {a : EscAction} (hm : sub 32 μ = true) (h₀ : Only μ s₀ w.st) : Only μ s₀ (EscWork.issue w a).st := by
  unfold EscWork.issue
  try dsimp only
  repeat' (first
    | with_reducible first
      | exact h₀
      | exact Only.refl _
      | refine escWork_raise_only (sub_mid rfl hm) ?_ ?_
      | refine only_of_fst (by assumption) ?_
    | intro _
    | split
    | dsimp only
    | exact fieldIn_block (b := 5) rfl (bit_mid hm rfl))

theorem escWork_require_only {μ : Nat} {s₀ : State} {w : EscWork} {c : Nat} {n : Nat} {tq : Nat} (hm : sub 32 μ = true) (h₀ : Only μ s₀ w.st) : Only μ s₀ (EscWork.require w c n tq).st := by
  unfold EscWork.require
  try dsimp only
  repeat' (first
    | with_reducible first
      | exact h₀
      | exact Only.refl _
      | refine escWork_issue_only (sub_mid rfl hm) ?_
      | refine escWork_setLantern_only (sub_mid rfl hm) ?_
      | refine only_of_fst (by assumption) ?_
    | intro _
    | split
    | dsimp only)

theorem escWork_requireAll_only {μ : Nat} {s₀ : State} {w : EscWork} {c : Nat} {l : List (Nat × Nat)} (hm : sub 32 μ = true) (h₀ : Only μ s₀ w.st) : Only μ s₀ (EscWork.requireAll w c l).st := by
  unfold EscWork.requireAll
  try dsimp only
  repeat' (first
    | with_reducible first
      | exact h₀
      | exact Only.refl _
      | refine escWork_require_only (sub_mid rfl hm) ?_
      | refine only_foldl ?_ ?_
      | refine only_foldl_pair ?_ ?_
      | refine only_foldl_esc ?_ ?_
      | refine only_foldl_escPair ?_ ?_
      | refine only_of_fst (by assumption) ?_
    | intro _
    | split
    | dsimp only)

theorem escWork_issueFor_only {μ : Nat} {s₀ : State} {w : EscWork} {x : Track} (hm : sub 32 μ = true) (h₀ : Only μ s₀ w.st) : Only μ s₀ (EscWork.issueFor w x).st := by
  unfold EscWork.issueFor
  try dsimp only
  repeat' (first
    | with_reducible first
      | exact h₀
      | exact Only.refl _
      | refine escWork_requireAll_only (sub_mid rfl hm) ?_
      | refine only_of_fst (by assumption) ?_
    | intro _
    | split
    | dsimp only)

theorem escWork_mergeOne_only {μ : Nat} {s₀ : State} {w : EscWork} {tn : Nat} {un : Nat} (hm : sub 0 μ = true) (h₀ : Only μ s₀ w.st) : Only μ s₀ (EscWork.mergeOne w tn un).1.st := by
  unfold EscWork.mergeOne
  try dsimp only
  repeat' (first
    | with_reducible first
      | exact h₀
      | exact Only.refl _
      | refine escWork_setTrack_only (sub_mid rfl hm) ?_
      | refine only_of_fst (by assumption) ?_
    | intro _
    | split
    | dsimp only)

theorem escWork_merge_only {μ : Nat} {s₀ : State} {w : EscWork} {tn : Nat} (hm : sub 0 μ = true) (h₀ : Only μ s₀ w.st) : Only μ s₀ (EscWork.merge w tn).1.st := by
  unfold EscWork.merge
  try dsimp only
  repeat' (first
    | with_reducible first
      | exact h₀
      | exact Only.refl _
      | refine escWork_mergeOne_only (sub_mid rfl hm) ?_
      | refine only_foldl ?_ ?_
      | refine only_foldl_pair ?_ ?_
      | refine only_foldl_esc ?_ ?_
      | refine only_foldl_escPair ?_ ?_
      | refine only_of_fst (by assumption) ?_
    | intro _
    | split
    | dsimp only)

theorem escWork_associate_only {μ : Nat} {s₀ : State} {w : EscWork} {tn : Nat} {x : Track} (hm : sub 32 μ = true) (h₀ : Only μ s₀ w.st) : Only μ s₀ (EscWork.associate w tn x).st := by
  unfold EscWork.associate
  try dsimp only
  repeat' (first
    | with_reducible first
      | exact h₀
      | exact Only.refl _
      | refine escWork_setTrack_only (sub_mid rfl hm) ?_
      | refine escWork_merge_only (sub_mid rfl hm) ?_
      | refine escWork_issueFor_only (sub_mid rfl hm) ?_
      | refine only_of_fst (by assumption) ?_
    | intro _
    | split
    | dsimp only)

theorem escWork_absorb_only {μ : Nat} {s₀ : State} {w : EscWork} {tn : Nat} {x : Track} {t : Nat} (hm : sub 32 μ = true) (h₀ : Only μ s₀ w.st) : Only μ s₀ (EscWork.absorb w tn x t).st := by
  unfold EscWork.absorb
  try dsimp only
  repeat' (first
    | with_reducible first
      | exact h₀
      | exact Only.refl _
      | refine escWork_setTrack_only (sub_mid rfl hm) ?_
      | refine escWork_issueFor_only (sub_mid rfl hm) ?_
      | refine escWork_merge_only (sub_mid rfl hm) ?_
      | refine only_of_fst (by assumption) ?_
    | intro _
    | split
    | dsimp only)

theorem escWork_detectAt_only {μ : Nat} {s₀ : State} {w : EscWork} {t : Nat} {c : Nat} {i : Nat} (hm : sub 32 μ = true) (h₀ : Only μ s₀ w.st) : Only μ s₀ (EscWork.detectAt w t c i).st := by
  unfold EscWork.detectAt
  try dsimp only
  repeat' (first
    | with_reducible first
      | exact h₀
      | exact Only.refl _
      | refine escWork_raise_only (sub_mid rfl hm) ?_ ?_
      | refine escWork_setTrack_only (sub_mid rfl hm) ?_
      | refine escWork_issueFor_only (sub_mid rfl hm) ?_
      | refine escWork_associate_only (sub_mid rfl hm) ?_
      | refine escWork_absorb_only (sub_mid rfl hm) ?_
      | refine only_of_fst (by assumption) ?_
    | intro _
    | split
    | dsimp only
    | exact fieldIn_block (b := 5) rfl (bit_mid hm rfl))

theorem escWork_detect_only {μ : Nat} {s₀ : State} {w : EscWork} {n : Nat} {t : Nat} (hm : sub 32 μ = true) (h₀ : Only μ s₀ w.st) : Only μ s₀ (EscWork.detect w n t).st := by
  unfold EscWork.detect
  try dsimp only
  repeat' (first
    | with_reducible first
      | exact h₀
      | exact Only.refl _
      | refine escWork_detectAt_only (sub_mid rfl hm) ?_
      | refine only_foldl ?_ ?_
      | refine only_foldl_pair ?_ ?_
      | refine only_foldl_esc ?_ ?_
      | refine only_foldl_escPair ?_ ?_
      | refine only_of_fst (by assumption) ?_
    | intro _
    | split
    | dsimp only)

theorem escWork_takeCommand_only {μ : Nat} {s₀ : State} {w : EscWork} {e : Event} (hm : sub 32 μ = true) (h₀ : Only μ s₀ w.st) : Only μ s₀ (EscWork.takeCommand w e).st := by
  unfold EscWork.takeCommand
  try dsimp only
  repeat' (first
    | with_reducible first
      | exact h₀
      | exact Only.refl _
      | refine escWork_dropCmd_only (sub_mid rfl hm) ?_ ?_
      | refine only_of_fst (by assumption) ?_
    | intro _
    | split
    | dsimp only
    | exact fieldIn_block (b := 5) rfl (bit_mid hm rfl))

theorem escWork_setBase_only {μ : Nat} {s₀ : State} {w : EscWork} {c : Nat} {reassert : Bool} {v : Nat} {u : Nat} (hm : sub 32 μ = true) (h₀ : Only μ s₀ w.st) : Only μ s₀ (EscWork.setBase w c reassert v u).st := by
  unfold EscWork.setBase
  try dsimp only
  repeat' (first
    | with_reducible first
      | exact h₀
      | exact Only.refl _
      | refine escWork_issue_only (sub_mid rfl hm) ?_
      | refine only_foldl ?_ ?_
      | refine only_foldl_pair ?_ ?_
      | refine only_foldl_esc ?_ ?_
      | refine only_foldl_escPair ?_ ?_
      | refine only_of_fst (by assumption) ?_
    | intro _
    | split
    | dsimp only)

theorem escWork_inhibit_only {μ : Nat} {s₀ : State} {w : EscWork} {c : Nat} {on : Bool} (hm : sub 0 μ = true) (h₀ : Only μ s₀ w.st) : Only μ s₀ (EscWork.inhibit w c on).st := by
  unfold EscWork.inhibit
  try dsimp only
  repeat' (first
    | with_reducible first
      | exact h₀
      | exact Only.refl _
      | refine only_of_fst (by assumption) ?_
    | intro _
    | split
    | dsimp only)

theorem escWork_holdOne_only {μ : Nat} {s₀ : State} {w : EscWork} {hold : Bool} {level : Nat} {fade : Nat} {u : Nat} {n : Nat} (hm : sub 32 μ = true) (h₀ : Only μ s₀ w.st) : Only μ s₀ (EscWork.holdOne w hold level fade u n).st := by
  unfold EscWork.holdOne
  try dsimp only
  repeat' (first
    | with_reducible first
      | exact h₀
      | exact Only.refl _
      | refine escWork_issue_only (sub_mid rfl hm) ?_
      | refine escWork_setLantern_only (sub_mid rfl hm) ?_
      | refine only_of_fst (by assumption) ?_
    | intro _
    | split
    | dsimp only)

theorem escWork_applyCommand_only {μ : Nat} {s₀ : State} {w : EscWork} {c : EscCommand} (hm : sub 32 μ = true) (h₀ : Only μ s₀ w.st) : Only μ s₀ (EscWork.applyCommand w c).st := by
  unfold EscWork.applyCommand
  try dsimp only
  repeat' (first
    | with_reducible first
      | exact h₀
      | exact Only.refl _
      | refine escWork_holdOne_only (sub_mid rfl hm) ?_
      | refine escWork_inhibit_only (sub_mid rfl hm) ?_
      | refine escWork_setBase_only (sub_mid rfl hm) ?_
      | refine escWork_raise_only (sub_mid rfl hm) ?_ ?_
      | refine only_foldl ?_ ?_
      | refine only_foldl_pair ?_ ?_
      | refine only_foldl_esc ?_ ?_
      | refine only_foldl_escPair ?_ ?_
      | refine only_of_fst (by assumption) ?_
    | intro _
    | split
    | dsimp only
    | exact fieldIn_block (b := 5) rfl (bit_mid hm rfl))

theorem escWork_phaseA_only {μ : Nat} {s₀ : State} {w : EscWork} (hm : sub 32 μ = true) (h₀ : Only μ s₀ w.st) : Only μ s₀ (EscWork.phaseA w).st := by
  unfold EscWork.phaseA
  try dsimp only
  repeat' (first
    | with_reducible first
      | exact h₀
      | exact Only.refl _
      | refine escWork_applyCommand_only (sub_mid rfl hm) ?_
      | refine only_foldl ?_ ?_
      | refine only_foldl_pair ?_ ?_
      | refine only_foldl_esc ?_ ?_
      | refine only_foldl_escPair ?_ ?_
      | refine only_of_fst (by assumption) ?_
    | intro _
    | split
    | dsimp only)

theorem escWork_timeout_only {μ : Nat} {s₀ : State} {w : EscWork} {tn : Nat} (hm : sub 0 μ = true) (h₀ : Only μ s₀ w.st) : Only μ s₀ (EscWork.timeout w tn).st := by
  unfold EscWork.timeout
  try dsimp only
  repeat' (first
    | with_reducible first
      | exact h₀
      | exact Only.refl _
      | refine escWork_setTrack_only (sub_mid rfl hm) ?_
      | refine only_of_fst (by assumption) ?_
    | intro _
    | split
    | dsimp only)

theorem escWork_phaseC_only {μ : Nat} {s₀ : State} {w : EscWork} (hm : sub 0 μ = true) (h₀ : Only μ s₀ w.st) : Only μ s₀ (EscWork.phaseC w).st := by
  unfold EscWork.phaseC
  try dsimp only
  repeat' (first
    | with_reducible first
      | exact h₀
      | exact Only.refl _
      | refine escWork_timeout_only (sub_mid rfl hm) ?_
      | refine only_foldl ?_ ?_
      | refine only_foldl_pair ?_ ?_
      | refine only_foldl_esc ?_ ?_
      | refine only_foldl_escPair ?_ ?_
      | refine only_of_fst (by assumption) ?_
    | intro _
    | split
    | dsimp only)

theorem escWork_dim_only {μ : Nat} {s₀ : State} {w : EscWork} {n : Nat} (hm : sub 32 μ = true) (h₀ : Only μ s₀ w.st) : Only μ s₀ (EscWork.dim w n).st := by
  unfold EscWork.dim
  try dsimp only
  repeat' (first
    | with_reducible first
      | exact h₀
      | exact Only.refl _
      | refine escWork_issue_only (sub_mid rfl hm) ?_
      | refine escWork_setLantern_only (sub_mid rfl hm) ?_
      | refine only_foldl ?_ ?_
      | refine only_foldl_pair ?_ ?_
      | refine only_foldl_esc ?_ ?_
      | refine only_foldl_escPair ?_ ?_
      | refine only_of_fst (by assumption) ?_
    | intro _
    | split
    | dsimp only)

theorem escWork_phaseD_only {μ : Nat} {s₀ : State} {w : EscWork} (hm : sub 32 μ = true) (h₀ : Only μ s₀ w.st) : Only μ s₀ (EscWork.phaseD w).st := by
  unfold EscWork.phaseD
  try dsimp only
  repeat' (first
    | with_reducible first
      | exact h₀
      | exact Only.refl _
      | refine escWork_dim_only (sub_mid rfl hm) ?_
      | refine only_foldl ?_ ?_
      | refine only_foldl_pair ?_ ?_
      | refine only_foldl_esc ?_ ?_
      | refine only_foldl_escPair ?_ ?_
      | refine only_of_fst (by assumption) ?_
    | intro _
    | split
    | dsimp only)

theorem escWork_unused_only {μ : Nat} {s₀ : State} {w : EscWork} {es : List Event} (hm : sub 32 μ = true) (h₀ : Only μ s₀ w.st) : Only μ s₀ (EscWork.unused w es).st := by
  unfold EscWork.unused
  try dsimp only
  repeat' (first
    | with_reducible first
      | exact h₀
      | exact Only.refl _
      | refine escWork_raise_only (sub_mid rfl hm) ?_ ?_
      | refine only_of_fst (by assumption) ?_
    | intro _
    | split
    | dsimp only
    | exact fieldIn_block (b := 5) rfl (bit_mid hm rfl))

theorem escWork_run_only {μ : Nat} {s₀ : State} {w : EscWork} {es : List Event} (hm : sub 32 μ = true) (h₀ : Only μ s₀ w.st) : Only μ s₀ (EscWork.run w es).st := by
  unfold EscWork.run
  try dsimp only
  repeat' (first
    | with_reducible first
      | exact h₀
      | exact Only.refl _
      | refine escWork_detect_only (sub_mid rfl hm) ?_
      | refine escWork_phaseC_only (sub_mid rfl hm) ?_
      | refine escWork_phaseD_only (sub_mid rfl hm) ?_
      | refine escWork_takeCommand_only (sub_mid rfl hm) ?_
      | refine escWork_phaseA_only (sub_mid rfl hm) ?_
      | refine escWork_unused_only (sub_mid rfl hm) ?_
      | refine only_foldl ?_ ?_
      | refine only_foldl_pair ?_ ?_
      | refine only_foldl_esc ?_ ?_
      | refine only_foldl_escPair ?_ ?_
      | refine only_of_fst (by assumption) ?_
    | intro _
    | split
    | dsimp only)

theorem setEsc_only {μ : Nat} {s₀ : State} {s : State} {l : Lane} {e : EscortEngine} (hm : sub 2147483648 μ = true) (h₀ : Only μ s₀ s) : Only μ s₀ (State.setEsc s l e) := by
  unfold State.setEsc
  try dsimp only
  repeat' (first
    | with_reducible first
      | exact h₀
      | exact Only.refl _
      | refine only_of_fst (by assumption) ?_
    | intro _
    | split
    | dsimp only
    | (with_reducible refine Only.upd rfl hm ?_ ?_; exact {}))

theorem escortTake_only {μ : Nat} {s₀ : State} {s : State} {l : Lane} {k : Nat} {es : List Event} (hm : sub 2147483680 μ = true) (h₀ : Only μ s₀ s) : Only μ s₀ (State.escortTake s l k es) := by
  unfold State.escortTake
  try dsimp only
  repeat' (first
    | with_reducible first
      | exact h₀
      | exact Only.refl _
      | refine setEsc_only (sub_mid rfl hm) ?_
      | refine escWork_run_only (sub_mid rfl hm) ?_
      | refine only_of_fst (by assumption) ?_
    | intro _
    | split
    | dsimp only)

theorem escortSealed_only {μ : Nat} {s₀ : State} {s : State} {l : Lane} {k : Nat} (hm : sub 2147483648 μ = true) (h₀ : Only μ s₀ s) : Only μ s₀ (State.escortSealed s l k) := by
  unfold State.escortSealed
  try dsimp only
  repeat' (first
    | with_reducible first
      | exact h₀
      | exact Only.refl _
      | refine setEsc_only (sub_mid rfl hm) ?_
      | refine only_of_fst (by assumption) ?_
    | intro _
    | split
    | dsimp only)

theorem escortReset_only {μ : Nat} {s₀ : State} {s : State} (hm : sub 2147483680 μ = true) (h₀ : Only μ s₀ s) : Only μ s₀ (State.escortReset s) := by
  unfold State.escortReset
  try dsimp only
  repeat' (first
    | with_reducible first
      | exact h₀
      | exact Only.refl _
      | refine raiseIf_only (sub_mid rfl hm) ?_ ?_
      | refine only_of_fst (by assumption) ?_
    | intro _
    | split
    | dsimp only
    | exact fieldIn_block (b := 5) rfl (bit_mid hm rfl)
    | (with_reducible refine Only.upd rfl hm ?_ ?_; exact {}))

theorem escortDrain_only {μ : Nat} {s₀ : State} {s : State} {l : Lane} {k : Nat} (hm : sub 1073741872 μ = true) (h₀ : Only μ s₀ s) : Only μ s₀ (State.escortDrain s l k) := by
  unfold State.escortDrain
  try dsimp only
  repeat' (first
    | with_reducible first
      | exact h₀
      | exact Only.refl _
      | refine addCount_only (sub_mid rfl hm) ?_ ?_ ?_
      | refine submit_only (sub_mid rfl hm) ?_
      | refine only_foldl ?_ ?_
      | refine only_foldl_pair ?_ ?_
      | refine only_of_fst (by assumption) ?_
    | intro _
    | split
    | dsimp only
    | exact fieldIn_block (b := 5) rfl (bit_mid hm rfl))

/-! ### Crease -/

theorem register_only {μ : Nat} {s₀ : State} {s : State} {e : Event} (hm : sub 671088644 μ = true) (h₀ : Only μ s₀ s) : Only μ s₀ (State.register s e) := by
  unfold State.register
  try dsimp only
  repeat' (first
    | with_reducible first
      | exact h₀
      | exact Only.refl _
      | refine peak_only (sub_mid rfl hm) ?_ ?_
      | refine markReceipt_only (sub_mid rfl hm) ?_
      | refine only_of_fst (by assumption) ?_
    | intro _
    | split
    | dsimp only
    | exact fieldIn_block (b := 2) rfl (bit_mid hm rfl)
    | (with_reducible refine Only.upd rfl hm ?_ ?_; exact {}))

theorem drainTbBuf_only {μ : Nat} {s₀ : State} {x0 : List Event} {s : State} (hm : sub 671088644 μ = true) (h₀ : Only μ s₀ s) : Only μ s₀ (drainTbBuf x0 s) := by
  induction x0 generalizing s with
  | nil => exact Only.upd rfl hm {} h₀
  | cons e t ih =>
    rw [drainTbBuf]
    split
    · exact ih (register_only (sub_mid rfl hm) h₀)
    · exact Only.upd rfl hm {} h₀

theorem slotsFreed_only {μ : Nat} {s₀ : State} {s : State} (hm : sub 671088644 μ = true) (h₀ : Only μ s₀ s) : Only μ s₀ (State.slotsFreed s) := by
  unfold State.slotsFreed
  try dsimp only
  repeat' (first
    | with_reducible first
      | exact h₀
      | exact Only.refl _
      | refine drainTbBuf_only (sub_mid rfl hm) ?_
      | refine only_of_fst (by assumption) ?_
    | intro _
    | split
    | dsimp only)

theorem leaveQueue_only {μ : Nat} {s₀ : State} {s : State} {w : Waiting} {rest : List Waiting} (hm : sub 34603008 μ = true) (h₀ : Only μ s₀ s) : Only μ s₀ (State.leaveQueue s w rest) := by
  unfold State.leaveQueue
  try dsimp only
  repeat' (first
    | with_reducible first
      | exact h₀
      | exact Only.refl _
      | refine dcqCount_only (sub_mid rfl hm) ?_
      | refine only_of_fst (by assumption) ?_
    | intro _
    | split
    | dsimp only
    | (with_reducible refine Only.upd rfl hm ?_ ?_; exact {}))

theorem tbStalled_only {μ : Nat} {s₀ : State} {s : State} {e : Event} (hm : sub 134217732 μ = true) (h₀ : Only μ s₀ s) : Only μ s₀ (State.tbStalled s e) := by
  unfold State.tbStalled
  try dsimp only
  repeat' (first
    | with_reducible first
      | exact h₀
      | exact Only.refl _
      | refine raise_only (sub_mid rfl hm) ?_ ?_
      | refine only_of_fst (by assumption) ?_
    | intro _
    | split
    | dsimp only
    | exact fieldIn_block (b := 2) rfl (bit_mid hm rfl)
    | (with_reducible refine Only.upd rfl hm ?_ ?_; exact {}))

theorem restDiscard_only {μ : Nat} {s₀ : State} {s : State} (hm : sub 1536 μ = true) (h₀ : Only μ s₀ s) : Only μ s₀ (State.restDiscard s) := by
  unfold State.restDiscard
  try dsimp only
  repeat' (first
    | with_reducible first
      | exact h₀
      | exact Only.refl _
      | refine count_only (sub_mid rfl hm) ?_ ?_ ?_
      | exact BHM_STATUS_DRWRAP_in (bit_mid hm rfl) (bit_mid hm rfl)
      | refine only_of_fst (by assumption) ?_
    | intro _
    | split
    | dsimp only
    | exact fieldIn_block (b := 9) rfl (bit_mid hm rfl))

theorem intake_only {μ : Nat} {s₀ : State} {s : State} {chan : Nat} (hm : sub 705693188 μ = true) (h₀ : Only μ s₀ s) : Only μ s₀ (State.intake s chan) := by
  unfold State.intake
  try dsimp only
  repeat' (first
    | with_reducible first
      | exact h₀
      | exact Only.refl _
      | refine raise_only (sub_mid rfl hm) ?_ ?_
      | refine leaveQueue_only (sub_mid rfl hm) ?_
      | refine register_only (sub_mid rfl hm) ?_
      | refine tbStalled_only (sub_mid rfl hm) ?_
      | refine restDiscard_only (sub_mid rfl hm) ?_
      | refine only_of_fst (by assumption) ?_
    | intro _
    | split
    | dsimp only
    | exact fieldIn_block (b := 2) rfl (bit_mid hm rfl)
    | (with_reducible refine Only.upd rfl hm ?_ ?_; exact {}))

theorem intakeResume_only {μ : Nat} {s₀ : State} {s : State} (hm : sub 705693188 μ = true) (h₀ : Only μ s₀ s) : Only μ s₀ (State.intakeResume s) := by
  unfold State.intakeResume
  try dsimp only
  repeat' (first
    | with_reducible first
      | exact h₀
      | exact Only.refl _
      | refine intake_only (sub_mid rfl hm) ?_
      | refine only_of_fst (by assumption) ?_
    | intro _
    | split
    | dsimp only
    | (with_reducible refine Only.upd rfl hm ?_ ?_; exact {}))

theorem onCover_only {μ : Nat} {s₀ : State} {s : State} {k : Nat} {f : Coverage → Coverage} (hm : sub 134217728 μ = true) (h₀ : Only μ s₀ s) : Only μ s₀ (State.onCover s k f) := by
  unfold State.onCover
  try dsimp only
  repeat' (first
    | with_reducible first
      | exact h₀
      | exact Only.refl _
      | refine only_of_fst (by assumption) ?_
    | intro _
    | split
    | dsimp only
    | (with_reducible refine Only.upd rfl hm ?_ ?_; exact {}))

theorem lateMark_only {μ : Nat} {s₀ : State} {k : Nat} {s : State} {e : Event} (hm : sub 134217728 μ = true) (h₀ : Only μ s₀ s) : Only μ s₀ (State.lateMark k s e) := by
  unfold State.lateMark
  try dsimp only
  repeat' (first
    | with_reducible first
      | exact h₀
      | exact Only.refl _
      | refine onCover_only (sub_mid rfl hm) ?_
      | refine only_of_fst (by assumption) ?_
    | intro _
    | split
    | dsimp only)

theorem coverFinal_only {μ : Nat} {s₀ : State} {s : State} {k : Nat} (hm : sub 134217728 μ = true) (h₀ : Only μ s₀ s) : Only μ s₀ (State.coverFinal s k) := by
  unfold State.coverFinal
  try dsimp only
  repeat' (first
    | with_reducible first
      | exact h₀
      | exact Only.refl _
      | refine onCover_only (sub_mid rfl hm) ?_
      | refine only_of_fst (by assumption) ?_
    | intro _
    | split
    | dsimp only)

theorem coverClear_only {μ : Nat} {s₀ : State} {s : State} {k : Nat} {b : Nat} (hm : sub 134217728 μ = true) (h₀ : Only μ s₀ s) : Only μ s₀ (State.coverClear s k b) := by
  unfold State.coverClear
  try dsimp only
  repeat' (first
    | with_reducible first
      | exact h₀
      | exact Only.refl _
      | refine onCover_only (sub_mid rfl hm) ?_
      | refine only_of_fst (by assumption) ?_
    | intro _
    | split
    | dsimp only)

theorem coverCreate_only {μ : Nat} {s₀ : State} {s : State} {k : Nat} {tbOk : Bool} {es : List Event} (hm : sub 134217728 μ = true) (h₀ : Only μ s₀ s) : Only μ s₀ (State.coverCreate s k tbOk es) := by
  unfold State.coverCreate
  try dsimp only
  repeat' (first
    | with_reducible first
      | exact h₀
      | exact Only.refl _
      | refine only_of_fst (by assumption) ?_
    | intro _
    | split
    | dsimp only
    | (with_reducible refine Only.upd rfl hm ?_ ?_; exact {}))

theorem sealCounts_only {μ : Nat} {s₀ : State} {s : State} {dups : Nat} {es : List Event} {flags : Nat} (hm : sub 4 μ = true) (h₀ : Only μ s₀ s) : Only μ s₀ (State.sealCounts s dups es flags) := by
  unfold State.sealCounts
  try dsimp only
  repeat' (first
    | with_reducible first
      | exact h₀
      | exact Only.refl _
      | refine raiseIf_only (sub_mid rfl hm) ?_ ?_
      | refine addCount_only (sub_mid rfl hm) ?_ ?_ ?_
      | refine only_of_fst (by assumption) ?_
    | intro _
    | split
    | dsimp only
    | exact fieldIn_block (b := 2) rfl (bit_mid hm rfl))

theorem sealBatch_only {μ : Nat} {s₀ : State} {s : State} {k : Nat} {bad : Bool} (hm : sub 738197508 μ = true) (h₀ : Only μ s₀ s) : Only μ s₀ (State.sealBatch s k bad) := by
  unfold State.sealBatch
  try dsimp only
  repeat' (first
    | with_reducible first
      | exact h₀
      | exact Only.refl _
      | refine pruneTb_only (sub_mid rfl hm) ?_
      | refine slotsFreed_only (sub_mid rfl hm) ?_
      | refine lateMark_only (sub_mid rfl hm) ?_
      | refine coverCreate_only (sub_mid rfl hm) ?_
      | refine sealCounts_only (sub_mid rfl hm) ?_
      | refine wr_only ?_ ?_
      | refine only_foldl ?_ ?_
      | refine only_foldl_pair ?_ ?_
      | refine only_of_fst (by assumption) ?_
    | intro _
    | split
    | dsimp only
    | exact fieldIn_block (b := 2) rfl (bit_mid hm rfl)
    | (with_reducible refine Only.upd rfl hm ?_ ?_; exact {}))

theorem markLast_only {μ : Nat} {s₀ : State} {s : State} {k : Nat} (hm : sub 134218240 μ = true) (h₀ : Only μ s₀ s) : Only μ s₀ (State.markLast s k) := by
  unfold State.markLast
  try dsimp only
  repeat' (first
    | with_reducible first
      | exact h₀
      | exact Only.refl _
      | refine wr_only ?_ ?_
      | refine only_of_fst (by assumption) ?_
    | intro _
    | split
    | dsimp only
    | exact fieldIn_block (b := 9) rfl (bit_mid hm rfl)
    | (with_reducible refine Only.upd rfl hm ?_ ?_; exact {}))

theorem dropServed_only {μ : Nat} {s₀ : State} {s : State} (hm : sub 671088644 μ = true) (h₀ : Only μ s₀ s) : Only μ s₀ (State.dropServed s) := by
  unfold State.dropServed
  try dsimp only
  repeat' (first
    | with_reducible first
      | exact h₀
      | exact Only.refl _
      | refine slotsFreed_only (sub_mid rfl hm) ?_
      | refine only_of_fst (by assumption) ?_
    | intro _
    | split
    | dsimp only
    | (with_reducible refine Only.upd rfl hm ?_ ?_; exact {}))

theorem unwait_only {μ : Nat} {s₀ : State} {s : State} {l : Lane} {p : Batch → Bool} (hm : sub 671088644 μ = true) (h₀ : Only μ s₀ s) : Only μ s₀ (State.unwait s l p) := by
  unfold State.unwait
  try dsimp only
  repeat' (first
    | with_reducible first
      | exact h₀
      | exact Only.refl _
      | refine dropServed_only (sub_mid rfl hm) ?_
      | refine only_of_fst (by assumption) ?_
    | intro _
    | split
    | dsimp only
    | (with_reducible refine Only.upd rfl hm ?_ ?_; exact {}))

theorem advanceRead_only {μ : Nat} {s₀ : State} {s : State} {l : Lane} (hm : sub 8388612 μ = true) (h₀ : Only μ s₀ s) : Only μ s₀ (State.advanceRead s l) := by
  unfold State.advanceRead
  try dsimp only
  repeat' (first
    | with_reducible first
      | exact h₀
      | exact Only.refl _
      | refine wr_only ?_ ?_
      | exact CRZ_EQ_RD_RD_in (bit_mid hm rfl)
      | refine only_of_fst (by assumption) ?_
    | refine onLane_only_lanes (fun _ => rfl) (fun _ => by first | exact Nat.le_refl _ | exact Nat.zero_le _) (bit_mid hm rfl) ?_
    | intro _
    | split
    | dsimp only
    | (with_reducible refine Only.upd rfl hm ?_ ?_; exact {}))

theorem countAgainst_only {μ : Nat} {s₀ : State} {s : State} {l : Lane} {b : Nat} (hm : sub 134217728 μ = true) (h₀ : Only μ s₀ s) : Only μ s₀ (State.countAgainst s l b) := by
  unfold State.countAgainst
  try dsimp only
  repeat' (first
    | with_reducible first
      | exact h₀
      | exact Only.refl _
      | refine coverClear_only (sub_mid rfl hm) ?_
      | refine only_of_fst (by assumption) ?_
    | intro _
    | split
    | dsimp only
    | (with_reducible refine Only.upd rfl hm ?_ ?_; exact {}))

theorem putSlots_wf (s : State) (i n : Nat) (bs : Octets) (m : List Host.Cell) (h : Memory.wf m = true) : Memory.wf (putSlots s m i n bs) = true := by
  induction n generalizing i bs m with
  | zero => exact h
  | succ n ih => exact ih _ _ _ (memWrite_wf _ _ _ h)

theorem deliverTo_only {μ : Nat} {s₀ : State} {s : State} {l : Lane} {b : Batch} (hm : sub 2843738148 μ = true) (h₀ : Only μ s₀ s) : Only μ s₀ (State.deliverTo s l b) := by
  unfold State.deliverTo
  try dsimp only
  repeat' (first
    | with_reducible first
      | exact h₀
      | exact Only.refl _
      | refine unwait_only (sub_mid rfl hm) ?_
      | refine felterTake_only (sub_mid rfl hm) ?_
      | refine escortTake_only (sub_mid rfl hm) ?_
      | refine wr_only ?_ ?_
      | exact CRZ_EQ_WR_WR_in (bit_mid hm rfl)
      | refine only_of_fst (by assumption) ?_
    | refine onLane_only_lanes (fun _ => rfl) (fun _ => by first | exact Nat.le_refl _ | exact Nat.zero_le _) (bit_mid hm rfl) ?_
    | intro _
    | split
    | dsimp only
    | refine onLane_only_sram (fun _ => rfl) (fun _ h => putSlots_wf _ _ _ _ _ h) (bit_mid hm rfl) ?_
    | (with_reducible refine Only.upd rfl hm ?_ ?_; exact {}))

theorem deliver_only {μ : Nat} {s₀ : State} {s : State} {l : Lane} (hm : sub 2843738212 μ = true) (h₀ : Only μ s₀ s) : Only μ s₀ (State.deliver s l) := by
  unfold State.deliver
  try dsimp only
  repeat' (first
    | with_reducible first
      | exact h₀
      | exact Only.refl _
      | refine deliverTo_only (sub_mid rfl hm) ?_
      | refine raiseIf_only (sub_mid rfl hm) ?_ ?_
      | exact escortWait_in (bit_mid hm rfl)
      | exact felterWait_in (bit_mid hm rfl)
      | exact qwaitFlag_in (bit_mid hm rfl)
      | refine only_of_fst (by assumption) ?_
    | intro _
    | split
    | dsimp only)

theorem crzStart_only {μ : Nat} {s₀ : State} {s : State} (hm : sub 201326596 μ = true) (h₀ : Only μ s₀ s) : Only μ s₀ (State.crzStart s) := by
  unfold State.crzStart
  try dsimp only
  repeat' (first
    | with_reducible first
      | exact h₀
      | exact Only.refl _
      | refine wr_only ?_ ?_
      | refine only_of_fst (by assumption) ?_
    | intro _
    | split
    | dsimp only
    | exact fieldIn_block (b := 2) rfl (bit_mid hm rfl)
    | (with_reducible refine Only.upd rfl hm ?_ ?_; exact {}))

theorem crzStop_only {μ : Nat} {s₀ : State} {s : State} (hm : sub 134217732 μ = true) (h₀ : Only μ s₀ s) : Only μ s₀ (State.crzStop s) := by
  unfold State.crzStop
  try dsimp only
  repeat' (first
    | with_reducible first
      | exact h₀
      | exact Only.refl _
      | refine wr_only ?_ ?_
      | refine only_of_fst (by assumption) ?_
    | intro _
    | split
    | dsimp only
    | exact fieldIn_block (b := 2) rfl (bit_mid hm rfl)
    | (with_reducible refine Only.upd rfl hm ?_ ?_; exact {}))

theorem inject_only {μ : Nat} {s₀ : State} {s : State} {chan : Nat} {kind : Nat} (hm : sub 704644612 μ = true) (h₀ : Only μ s₀ s) : Only μ s₀ (State.inject s chan kind) := by
  unfold State.inject
  try dsimp only
  repeat' (first
    | with_reducible first
      | exact h₀
      | exact Only.refl _
      | refine post_only (sub_mid rfl hm) ?_
      | refine register_only (sub_mid rfl hm) ?_
      | refine restDiscard_only (sub_mid rfl hm) ?_
      | refine raise_only (sub_mid rfl hm) ?_ ?_
      | refine only_of_fst (by assumption) ?_
    | intro _
    | split
    | dsimp only
    | exact fieldIn_block (b := 2) rfl (bit_mid hm rfl))

end Sys2Proof.Machine
end

