-- ==== Sys2Proof/Laws/OnlyStores.lean ====
section
/-!
SUPPORT. The parts of the state that the operations may change (`Only`): the stores, the keys, the DMA engine, the calendar and the metering.
-/
set_option linter.unusedTactic false
set_option linter.unreachableTactic false
set_option linter.unusedVariables false

namespace Sys2Proof.Machine
set_option Elab.async false

/-! ### Store -/

theorem pstCell_only {μ : Nat} {s₀ : State} {s : State} {o : Nat} {v : Nat} (hm : sub 51539615744 μ = true) (h₀ : Only μ s₀ s) : Only μ s₀ (State.pstCell s o v) := by
  unfold State.pstCell
  try dsimp only
  repeat' (first
    | with_reducible first
      | exact h₀
      | exact Only.refl _
      | refine count_only (sub_mid rfl hm) ?_ ?_ ?_
      | refine only_of_fst (by assumption) ?_
    | intro _
    | split
    | dsimp only
    | (with_reducible refine Only.upd rfl hm ?_ ?_; exact { cellsInv := fun i => memWrite_wf _ _ _ i.cells })
    | exact fieldIn_block (b := 13) rfl (bit_mid hm rfl)
    | (with_reducible refine Only.upd rfl hm ?_ ?_; exact {}))

theorem pstEnter_only {μ : Nat} {s₀ : State} {s : State} {w : Writer} {o : Nat} {v : Nat} (hm : sub 51539607552 μ = true) (hb : s.Inv → s.pst.buffer.length < 64) (h₀ : Only μ s₀ s) : Only μ s₀ (State.pstEnter s w o v) := by
  refine Only.upd rfl hm { bufferInv := fun i => ?_ } h₀
  show (s.pst.buffer ++ [_]).length ≤ 64
  rw [List.length_append]
  exact hb i

theorem pstFeedEvr_only {μ : Nat} {s₀ : State} {s : State} (hm : sub 120259084288 μ = true) (h₀ : Only μ s₀ s) : Only μ s₀ (State.pstFeedEvr s) := by
  unfold State.pstFeedEvr
  split
  · split
    · rename_i h
      have hb : s.pst.buffer.length < 64 := by simp only [Bool.and_eq_true, decide_eq_true_eq] at h; exact h.1
      exact Only.upd (x := s.pstEnter .evr _ _) rfl hm {} (pstEnter_only (sub_mid rfl hm) (fun _ => hb) h₀)
    · exact h₀
  · exact h₀

theorem pstFeedPlm_only {μ : Nat} {s₀ : State} {s : State} (hm : sub 140789027962880 μ = true) (h₀ : Only μ s₀ s) : Only μ s₀ (State.pstFeedPlm s) := by
  unfold State.pstFeedPlm
  split
  · split
    · rename_i h
      have hb : s.pst.buffer.length < 64 := by simp only [Bool.and_eq_true, decide_eq_true_eq] at h; exact h.1
      exact Only.upd (x := s.pstEnter .plm _ _) rfl hm {} (pstEnter_only (sub_mid rfl hm) (fun _ => hb) h₀)
    · exact h₀
  · exact h₀

theorem takeWord_length (w : Writer) (l : List PstWord) : (takeWord w l).length ≤ l.length := by
  induction l with
  | nil => exact Nat.le_refl _
  | cons x t ih =>
    rw [takeWord]
    split
    · exact Nat.le_succ _
    · exact Nat.succ_le_succ ih

theorem takeWord_some {w : Writer} {l : List PstWord} {x : PstWord} (h : l.find? (fun x => x.writer == w) = some x) : (takeWord w l).length + 1 = l.length := by
  induction l with
  | nil => cases h
  | cons y t ih =>
    rw [takeWord]
    split
    · rfl
    · rename_i hy
      rw [List.find?_cons_of_neg (by simpa using hy)] at h
      exact congrArg (· + 1) (ih h)

theorem pstStep_only {μ : Nat} {s₀ : State} {s : State} (hm : sub 140857747447808 μ = true) (h₀ : Only μ s₀ s) : Only μ s₀ (State.pstStep s) := by
  unfold State.pstStep
  try dsimp only
  repeat' (first
    | with_reducible first
      | exact h₀
      | exact Only.refl _
      | refine pstCell_only (sub_mid rfl hm) ?_
      | refine pstFeedEvr_only (sub_mid rfl hm) ?_
      | refine pstFeedPlm_only (sub_mid rfl hm) ?_
      | refine only_of_fst (by assumption) ?_
    | intro _
    | split
    | dsimp only
    | (with_reducible refine Only.upd rfl hm ?_ ?_; exact { bufferInv := fun i => Nat.le_trans (takeWord_length _ _) i.buffer })
    | (with_reducible refine Only.upd rfl hm ?_ ?_; exact {}))

theorem pstUntil_only {μ : Nat} {s₀ : State} {w : Writer} {x0 : Nat} {s : State} (hm : sub 140857747447808 μ = true) (h₀ : Only μ s₀ s) : Only μ s₀ (pstUntil w x0 s) := by
  induction x0 generalizing s with
  | zero => exact h₀
  | succ n ih =>
    rw [pstUntil]
    split
    · exact ih (pstStep_only (sub_mid rfl hm) h₀)
    · exact h₀

theorem pstDrain_only {μ : Nat} {s₀ : State} {s : State} {w : Writer} (hm : sub 140857747447808 μ = true) (h₀ : Only μ s₀ s) : Only μ s₀ (State.pstDrain s w) := by
  unfold State.pstDrain
  try dsimp only
  repeat' (first
    | with_reducible first
      | exact h₀
      | exact Only.refl _
      | refine pstUntil_only (sub_mid rfl hm) ?_
      | refine only_of_fst (by assumption) ?_
    | intro _
    | split
    | dsimp only)

/-- The arbiter's step makes room in a full buffer (R283). -/
theorem pstStep_room {s : State} (h : s.pst.buffer.length = 64) : s.pstStep.pst.buffer.length < 64 := by
  have e1 : s.pstFeedEvr = s := by
    unfold State.pstFeedEvr
    split
    · rw [if_neg (by simp [h])]
    · rfl
  have e2 : s.pstFeedPlm = s := by
    unfold State.pstFeedPlm
    split
    · rw [if_neg (by simp [h])]
    · rfl
  have hw : ∀ w : Writer, ∃ i < 8, nth .rld pstWriters i = w := by
    intro w
    cases w with
    | lane l => cases l; exacts [⟨0, by decide, rfl⟩, ⟨1, by decide, rfl⟩]
    | commit => exact ⟨2, by decide, rfl⟩
    | dma => exact ⟨3, by decide, rfl⟩
    | evr => exact ⟨4, by decide, rfl⟩
    | plm => exact ⟨5, by decide, rfl⟩
    | ksu => exact ⟨6, by decide, rfl⟩
    | rld => exact ⟨7, by decide, rfl⟩
  have hn : s.pstNext ≠ none := by
    intro e
    unfold State.pstNext at e
    rw [List.find?_eq_none] at e
    cases hb : s.pst.buffer with
    | nil => rw [hb] at h; cases h
    | cons x t =>
      obtain ⟨i, hi, ei⟩ := hw x.writer
      have hj : ∃ j < 8, (s.pst.turn + j) % 8 = i := ⟨(i + 8 - s.pst.turn % 8) % 8, by omega, by omega⟩
      obtain ⟨j, hj, ej⟩ := hj
      refine e i ?_ ?_
      · rw [List.mem_map]
        exact ⟨j, List.mem_range.2 hj, ej⟩
      · simp [State.pstHas, hb, ei]
  unfold State.pstStep
  rw [e1, e2]
  dsimp only
  cases en : s.pstNext with
  | none => exact absurd en hn
  | some i =>
    dsimp only
    have hp : s.pstHas (nth .rld pstWriters i) = true := by
      unfold State.pstNext at en
      exact List.find?_some (p := fun i => s.pstHas (nth .rld pstWriters i)) en
    cases ef : s.pst.buffer.find? (fun x => x.writer == nth .rld pstWriters i) with
    | none =>
      unfold State.pstHas at hp
      rw [List.find?_eq_none] at ef
      obtain ⟨x, hx, e⟩ := List.any_eq_true.1 hp
      exact absurd e (ef x hx)
    | some x =>
      dsimp only
      have h1 := takeWord_some ef
      have h2 : ∀ (t : State) (o v : Nat), (t.pstCell o v).pst.buffer = t.pst.buffer := by
        intro t o v
        unfold State.pstCell State.count State.addCount State.raiseIf
        dsimp only
        split <;> rfl
      rw [h2]
      show (takeWord _ s.pst.buffer).length < 64
      omega

theorem pstPut_only {μ : Nat} {s₀ : State} {s : State} {w : Writer} {o : Nat} {v : Nat} (hm : sub 140857747447808 μ = true) (h₀ : Only μ s₀ s) : Only μ s₀ (State.pstPut s w o v) := by
  refine h₀.trans ?_
  unfold State.pstPut
  split
  · rename_i h
    exact pstEnter_only (sub_mid rfl hm) (fun _ => h) (Only.refl s)
  · have h1 : Only μ s s.pstStep := pstStep_only (sub_mid rfl hm) (Only.refl s)
    refine ⟨fun p hp => part_same_trans (h1.same p hp) ?_, h1.pending, fun i => { h1.inv i with buffer := ?_ }⟩
    · cases p
      case pstBuffer => exact bit_no hm rfl hp
      all_goals first | exact rfl | exact ⟨rfl, rfl⟩ | exact fun _ _ => rfl
    · show (s.pstStep.pst.buffer ++ [_]).length ≤ 64
      rw [List.length_append]
      exact pstStep_room (Nat.le_antisymm i.buffer (by omega))

theorem pstWords_only {μ : Nat} {s₀ : State} {s : State} {w : Writer} {ws : List (Nat × Nat)} (hm : sub 140857747447808 μ = true) (h₀ : Only μ s₀ s) : Only μ s₀ (State.pstWords s w ws) := by
  unfold State.pstWords
  try dsimp only
  repeat' (first
    | with_reducible first
      | exact h₀
      | exact Only.refl _
      | refine pstPut_only (sub_mid rfl hm) ?_
      | refine pstDrain_only (sub_mid rfl hm) ?_
      | refine only_foldl ?_ ?_
      | refine only_foldl_pair ?_ ?_
      | refine only_of_fst (by assumption) ?_
    | intro _
    | split
    | dsimp only)

theorem pstRefuse_only {μ : Nat} {s₀ : State} {s : State} {o : Nat} (hm : sub 8192 μ = true) (h₀ : Only μ s₀ s) : Only μ s₀ (State.pstRefuse s o) := by
  unfold State.pstRefuse
  try dsimp only
  repeat' (first
    | with_reducible first
      | exact h₀
      | exact Only.refl _
      | refine raise_only (sub_mid rfl hm) ?_ ?_
      | refine wr_only ?_ ?_
      | refine only_of_fst (by assumption) ?_
    | intro _
    | split
    | dsimp only
    | exact fieldIn_block (b := 13) rfl (bit_mid hm rfl))

theorem pstMisaligned_only {μ : Nat} {s₀ : State} {s : State} {o : Nat} (hm : sub 8192 μ = true) (h₀ : Only μ s₀ s) : Only μ s₀ (State.pstMisaligned s o) := by
  unfold State.pstMisaligned
  try dsimp only
  repeat' (first
    | with_reducible first
      | exact h₀
      | exact Only.refl _
      | refine raise_only (sub_mid rfl hm) ?_ ?_
      | refine wr_only ?_ ?_
      | refine only_of_fst (by assumption) ?_
    | intro _
    | split
    | dsimp only
    | exact fieldIn_block (b := 13) rfl (bit_mid hm rfl))

theorem pstWrite_only {μ : Nat} {s₀ : State} {s : State} {w : Writer} {o : Nat} {v : Nat} (hm : sub 140857747447808 μ = true) (h₀ : Only μ s₀ s) : Only μ s₀ (State.pstWrite s w o v).1 := by
  unfold State.pstWrite
  try dsimp only
  repeat' (first
    | with_reducible first
      | exact h₀
      | exact Only.refl _
      | refine pstRefuse_only (sub_mid rfl hm) ?_
      | refine pstPut_only (sub_mid rfl hm) ?_
      | refine only_of_fst (by assumption) ?_
    | intro _
    | split
    | dsimp only)

theorem pstCorrected_only {μ : Nat} {s₀ : State} {s : State} (hm : sub 8192 μ = true) (h₀ : Only μ s₀ s) : Only μ s₀ (State.pstCorrected s) := by
  unfold State.pstCorrected
  try dsimp only
  repeat' (first
    | with_reducible first
      | exact h₀
      | exact Only.refl _
      | refine raise_only (sub_mid rfl hm) ?_ ?_
      | refine count_only (sub_mid rfl hm) ?_ ?_ ?_
      | refine only_of_fst (by assumption) ?_
    | intro _
    | split
    | dsimp only
    | exact fieldIn_block (b := 13) rfl (bit_mid hm rfl))

theorem pstUncorrected_only {μ : Nat} {s₀ : State} {s : State} (hm : sub 8192 μ = true) (h₀ : Only μ s₀ s) : Only μ s₀ (State.pstUncorrected s) := by
  unfold State.pstUncorrected
  try dsimp only
  repeat' (first
    | with_reducible first
      | exact h₀
      | exact Only.refl _
      | refine raise_only (sub_mid rfl hm) ?_ ?_
      | refine count_only (sub_mid rfl hm) ?_ ?_ ?_
      | refine only_of_fst (by assumption) ?_
    | intro _
    | split
    | dsimp only
    | exact fieldIn_block (b := 13) rfl (bit_mid hm rfl))

theorem pstAdvance_only {μ : Nat} {s₀ : State} {s : State} {o : Nat} (hm : sub 51539615744 μ = true) (h₀ : Only μ s₀ s) : Only μ s₀ (State.pstAdvance s o) := by
  unfold State.pstAdvance
  try dsimp only
  repeat' (first
    | with_reducible first
      | exact h₀
      | exact Only.refl _
      | refine pstCell_only (sub_mid rfl hm) ?_
      | refine raiseIf_only (sub_mid rfl hm) ?_ ?_
      | refine only_of_fst (by assumption) ?_
    | intro _
    | split
    | dsimp only
    | exact fieldIn_block (b := 13) rfl (bit_mid hm rfl))

theorem recorderDone_only {μ : Nat} {s₀ : State} {s : State} (hm : sub 140857747464192 μ = true) (h₀ : Only μ s₀ s) : Only μ s₀ (State.recorderDone s) := by
  unfold State.recorderDone
  try dsimp only
  repeat' (first
    | with_reducible first
      | exact h₀
      | exact Only.refl _
      | refine raise_only (sub_mid rfl hm) ?_ ?_
      | refine count_only (sub_mid rfl hm) ?_ ?_ ?_
      | refine pstWords_only (sub_mid rfl hm) ?_
      | refine wr_only ?_ ?_
      | refine only_of_fst (by assumption) ?_
    | intro _
    | split
    | dsimp only
    | exact fieldIn_block (b := 14) rfl (bit_mid hm rfl)
    | (with_reducible refine Only.upd rfl hm ?_ ?_; exact {}))

theorem recorderOpen_only {μ : Nat} {s₀ : State} {s : State} {k : Nat} (hm : sub 140857747464192 μ = true) (h₀ : Only μ s₀ s) : Only μ s₀ (State.recorderOpen s k) := by
  unfold State.recorderOpen
  try dsimp only
  repeat' (first
    | with_reducible first
      | exact h₀
      | exact Only.refl _
      | refine recorderDone_only (sub_mid rfl hm) ?_
      | refine wr_only ?_ ?_
      | refine only_of_fst (by assumption) ?_
    | intro _
    | split
    | dsimp only
    | exact fieldIn_block (b := 14) rfl (bit_mid hm rfl)
    | (with_reducible refine Only.upd rfl hm ?_ ?_; exact {}))

theorem recorderStart_only {μ : Nat} {s₀ : State} {s : State} (hm : sub 68719493120 μ = true) (h₀ : Only μ s₀ s) : Only μ s₀ (State.recorderStart s) := by
  unfold State.recorderStart
  try dsimp only
  repeat' (first
    | with_reducible first
      | exact h₀
      | exact Only.refl _
      | refine raiseIf_only (sub_mid rfl hm) ?_ ?_
      | refine only_of_fst (by assumption) ?_
    | intro _
    | split
    | dsimp only
    | exact fieldIn_block (b := 14) rfl (bit_mid hm rfl)
    | (with_reducible refine Only.upd rfl hm ?_ ?_; exact {}))

theorem evrSat_only {μ : Nat} {s₀ : State} {s : State} {b : Bool} (hm : sub 68719493120 μ = true) (h₀ : Only μ s₀ s) : Only μ s₀ (State.evrSat s b) := by
  unfold State.evrSat
  try dsimp only
  repeat' (first
    | with_reducible first
      | exact h₀
      | exact Only.refl _
      | refine raise_only (sub_mid rfl hm) ?_ ?_
      | refine only_of_fst (by assumption) ?_
    | intro _
    | split
    | dsimp only
    | exact fieldIn_block (b := 14) rfl (bit_mid hm rfl)
    | (with_reducible refine Only.upd rfl hm ?_ ?_; exact {}))

theorem evrHinc_only {μ : Nat} {s₀ : State} {s : State} {hist : Nat} {bin : Nat} {inc : Nat} (hm : sub 68719493120 μ = true) (h₀ : Only μ s₀ s) : Only μ s₀ (State.evrHinc s hist bin inc) := by
  unfold State.evrHinc
  try dsimp only
  repeat' (first
    | with_reducible first
      | exact h₀
      | exact Only.refl _
      | refine evrSat_only (sub_mid rfl hm) ?_
      | refine only_of_fst (by assumption) ?_
    | intro _
    | split
    | dsimp only
    | (with_reducible refine Only.upd rfl hm ?_ ?_; exact {}))

theorem evrOffer_only {μ : Nat} {s₀ : State} {s : State} {k : Nat} {ch : Nat} (hm : sub 68719476736 μ = true) (h₀ : Only μ s₀ s) : Only μ s₀ (State.evrOffer s k ch) := by
  unfold State.evrOffer
  try dsimp only
  repeat' (first
    | with_reducible first
      | exact h₀
      | exact Only.refl _
      | refine only_of_fst (by assumption) ?_
    | intro _
    | split
    | dsimp only
    | (with_reducible refine Only.upd rfl hm ?_ ?_; exact {}))

theorem evrClear_only {μ : Nat} {s₀ : State} {s : State} (hm : sub 68719476736 μ = true) (h₀ : Only μ s₀ s) : Only μ s₀ (State.evrClear s) := by
  unfold State.evrClear
  try dsimp only
  repeat' (first
    | with_reducible first
      | exact h₀
      | exact Only.refl _
      | refine only_of_fst (by assumption) ?_
    | intro _
    | split
    | dsimp only
    | (with_reducible refine Only.upd rfl hm ?_ ?_; exact {}))

theorem evrWrite_only {μ : Nat} {s₀ : State} {s : State} {commit : Bool} {k : Nat} {off : Nat} {v : Nat} (hm : sub 68719493120 μ = true) (h₀ : Only μ s₀ s) : Only μ s₀ (State.evrWrite s commit k off v) := by
  unfold State.evrWrite
  try dsimp only
  repeat' (first
    | with_reducible first
      | exact h₀
      | exact Only.refl _
      | refine evrClear_only (sub_mid rfl hm) ?_
      | refine evrOffer_only (sub_mid rfl hm) ?_
      | refine evrHinc_only (sub_mid rfl hm) ?_
      | refine raise_only (sub_mid rfl hm) ?_ ?_
      | refine wr_only ?_ ?_
      | refine only_of_fst (by assumption) ?_
    | intro _
    | split
    | dsimp only
    | exact fieldIn_block (b := 14) rfl (bit_mid hm rfl))

/-! ### Bus -/

theorem acmWrite_only {μ : Nat} {s₀ : State} {s : State} {o : Nat} {bs : Octets} (hm : sub 1099511627776 μ = true) (h₀ : Only μ s₀ s) : Only μ s₀ (State.acmWrite s o bs) := by
  exact Only.upd rfl hm { acmInv := fun i => memWrite_wf _ _ _ i.acm } h₀

theorem acmErase_only {μ : Nat} {s₀ : State} {s : State} {o : Nat} {n : Nat} (hm : sub 1099511627776 μ = true) (h₀ : Only μ s₀ s) : Only μ s₀ (State.acmErase s o n) := by
  exact Only.upd rfl hm { acmInv := fun i => memFilter_wf _ _ i.acm } h₀

theorem correctedWord_only {μ : Nat} {s₀ : State} {s : State} {l : Lane} (hm : sub 8 μ = true) (h₀ : Only μ s₀ s) : Only μ s₀ (State.correctedWord s l) := by
  unfold State.correctedWord
  try dsimp only
  repeat' (first
    | with_reducible first
      | exact h₀
      | exact Only.refl _
      | refine count_only (sub_mid rfl hm) ?_ ?_ ?_
      | exact LSC_CE_CNT_COUNT_in (bit_mid hm rfl)
      | refine only_of_fst (by assumption) ?_
    | intro _
    | split
    | dsimp only
    | exact fieldIn_block (b := 3) rfl (bit_mid hm rfl))

theorem sramWrite_only {μ : Nat} {s₀ : State} {s : State} {l : Lane} {o : Nat} {bs : Octets} (hm : sub 16777216 μ = true) (h₀ : Only μ s₀ s) : Only μ s₀ (State.sramWrite s l o bs) := by
  exact onLane_only_sram (fun _ => rfl) (fun _ h => memWrite_wf _ _ _ h) (bit_mid hm rfl) h₀

/-! ### Keys -/

theorem setSlot_only {μ : Nat} {s₀ : State} {s : State} {n : Nat} {k : Option KeySlot} (hm : sub 274877906944 μ = true) (h₀ : Only μ s₀ s) : Only μ s₀ (State.setSlot s n k) := by
  unfold State.setSlot
  try dsimp only
  repeat' (first
    | with_reducible first
      | exact h₀
      | exact Only.refl _
      | refine only_of_fst (by assumption) ?_
    | intro _
    | split
    | dsimp only
    | (with_reducible refine Only.upd rfl hm ?_ ?_; exact {}))

theorem deny_only {μ : Nat} {s₀ : State} {s : State} (hm : sub 65536 μ = true) (h₀ : Only μ s₀ s) : Only μ s₀ (State.deny s) := by
  unfold State.deny
  try dsimp only
  repeat' (first
    | with_reducible first
      | exact h₀
      | exact Only.refl _
      | refine raise_only (sub_mid rfl hm) ?_ ?_
      | refine count_only (sub_mid rfl hm) ?_ ?_ ?_
      | refine only_of_fst (by assumption) ?_
    | intro _
    | split
    | dsimp only
    | exact fieldIn_block (b := 16) rfl (bit_mid hm rfl))

theorem keyFor_only {μ : Nat} {s₀ : State} {s : State} {n : Nat} {op : Nat} {ctx : Nat} (hm : sub 65536 μ = true) (h₀ : Only μ s₀ s) : Only μ s₀ (State.keyFor s n op ctx).1 := by
  unfold State.keyFor
  try dsimp only
  repeat' (first
    | with_reducible first
      | exact h₀
      | exact Only.refl _
      | refine deny_only (sub_mid rfl hm) ?_
      | refine only_of_fst (by assumption) ?_
    | intro _
    | split
    | dsimp only)

theorem ksuWrite_only {μ : Nat} {s₀ : State} {s : State} {o : Nat} {bs : Octets} (hm : sub 140857747447808 μ = true) (h₀ : Only μ s₀ s) : Only μ s₀ (State.ksuWrite s o bs) := by
  unfold State.ksuWrite
  try dsimp only
  repeat' (first
    | with_reducible first
      | exact h₀
      | exact Only.refl _
      | refine pstWords_only (sub_mid rfl hm) ?_
      | refine only_of_fst (by assumption) ?_
    | intro _
    | split
    | dsimp only)

theorem loadAnchor_only {μ : Nat} {s₀ : State} {s : State} {c : KeyCache} (hm : sub 274877972480 μ = true) (h₀ : Only μ s₀ s) : Only μ s₀ (State.loadAnchor s c) := by
  unfold State.loadAnchor
  try dsimp only
  repeat' (first
    | with_reducible first
      | exact h₀
      | exact Only.refl _
      | refine setSlot_only (sub_mid rfl hm) ?_
      | refine raise_only (sub_mid rfl hm) ?_ ?_
      | refine only_of_fst (by assumption) ?_
    | intro _
    | split
    | dsimp only
    | exact fieldIn_block (b := 16) rfl (bit_mid hm rfl)
    | (with_reducible refine Only.upd rfl hm ?_ ?_; exact {}))

theorem loadSealed_only {μ : Nat} {s₀ : State} {s : State} {c : KeyCache} (hm : sub 274877906944 μ = true) (h₀ : Only μ s₀ s) : Only μ s₀ (State.loadSealed s c) := by
  unfold State.loadSealed
  try dsimp only
  repeat' (first
    | with_reducible first
      | exact h₀
      | exact Only.refl _
      | refine setSlot_only (sub_mid rfl hm) ?_
      | refine only_foldl ?_ ?_
      | refine only_foldl_pair ?_ ?_
      | refine only_of_fst (by assumption) ?_
    | intro _
    | split
    | dsimp only)

theorem formRoot_only {μ : Nat} {s₀ : State} {s : State} {kPuf : Octets} (hm : sub 274877972480 μ = true) (h₀ : Only μ s₀ s) : Only μ s₀ (State.formRoot s kPuf) := by
  unfold State.formRoot
  try dsimp only
  repeat' (first
    | with_reducible first
      | exact h₀
      | exact Only.refl _
      | refine raise_only (sub_mid rfl hm) ?_ ?_
      | refine loadAnchor_only (sub_mid rfl hm) ?_
      | refine loadSealed_only (sub_mid rfl hm) ?_
      | refine wr_only ?_ ?_
      | refine only_of_fst (by assumption) ?_
    | intro _
    | split
    | dsimp only
    | exact fieldIn_block (b := 16) rfl (bit_mid hm rfl)
    | (with_reducible refine Only.upd rfl hm ?_ ?_; exact {}))

theorem rootRecovery_only {μ : Nat} {s₀ : State} {s : State} {array : Octets} (hm : sub 274877972480 μ = true) (h₀ : Only μ s₀ s) : Only μ s₀ (State.rootRecovery s array) := by
  unfold State.rootRecovery
  try dsimp only
  repeat' (first
    | with_reducible first
      | exact h₀
      | exact Only.refl _
      | refine formRoot_only (sub_mid rfl hm) ?_
      | refine only_of_fst (by assumption) ?_
    | intro _
    | split
    | dsimp only
    | (with_reducible refine Only.upd rfl hm ?_ ?_; exact {}))

theorem mirrorWrite_only {μ : Nat} {s₀ : State} {s : State} {h : Octets} (hm : sub 141132625420288 μ = true) (h₀ : Only μ s₀ s) : Only μ s₀ (State.mirrorWrite s h) := by
  unfold State.mirrorWrite
  try dsimp only
  repeat' (first
    | with_reducible first
      | exact h₀
      | exact Only.refl _
      | refine raise_only (sub_mid rfl hm) ?_ ?_
      | refine pstWords_only (sub_mid rfl hm) ?_
      | refine formRoot_only (sub_mid rfl hm) ?_
      | refine wr_only ?_ ?_
      | refine only_of_fst (by assumption) ?_
    | intro _
    | split
    | dsimp only
    | exact fieldIn_block (b := 16) rfl (bit_mid hm rfl)
    | (with_reducible refine Only.upd rfl hm ?_ ?_; exact {}))

theorem ksuDone_only {μ : Nat} {s₀ : State} {s : State} {r : Nat} (hm : sub 65536 μ = true) (h₀ : Only μ s₀ s) : Only μ s₀ (State.ksuDone s r) := by
  unfold State.ksuDone
  try dsimp only
  repeat' (first
    | with_reducible first
      | exact h₀
      | exact Only.refl _
      | refine raise_only (sub_mid rfl hm) ?_ ?_
      | refine wr_only ?_ ?_
      | refine only_of_fst (by assumption) ?_
    | intro _
    | split
    | dsimp only
    | exact fieldIn_block (b := 16) rfl (bit_mid hm rfl))

theorem ksuClear_only {μ : Nat} {s₀ : State} {s : State} (hm : sub 274877972480 μ = true) (h₀ : Only μ s₀ s) : Only μ s₀ (State.ksuClear s) := by
  unfold State.ksuClear
  try dsimp only
  repeat' (first
    | with_reducible first
      | exact h₀
      | exact Only.refl _
      | refine setSlot_only (sub_mid rfl hm) ?_
      | refine ksuDone_only (sub_mid rfl hm) ?_
      | refine only_of_fst (by assumption) ?_
    | intro _
    | split
    | dsimp only)

theorem deriveSource_only {μ : Nat} {s₀ : State} {s : State} (hm : sub 65536 μ = true) (h₀ : Only μ s₀ s) : Only μ s₀ (State.deriveSource s).1 := by
  unfold State.deriveSource
  try dsimp only
  repeat' (first
    | with_reducible first
      | exact h₀
      | exact Only.refl _
      | refine deny_only (sub_mid rfl hm) ?_
      | refine keyFor_only (sub_mid rfl hm) ?_
      | refine only_of_fst (by assumption) ?_
    | intro _
    | split
    | dsimp only)

theorem ksuDerive_only {μ : Nat} {s₀ : State} {s : State} (hm : sub 274877972480 μ = true) (h₀ : Only μ s₀ s) : Only μ s₀ (State.ksuDerive s) := by
  unfold State.ksuDerive
  try dsimp only
  repeat' (first
    | with_reducible first
      | exact h₀
      | exact Only.refl _
      | refine setSlot_only (sub_mid rfl hm) ?_
      | refine ksuDone_only (sub_mid rfl hm) ?_
      | refine deriveSource_only (sub_mid rfl hm) ?_
      | refine only_of_fst (by assumption) ?_
    | intro _
    | split
    | dsimp only)

theorem importRefused_only {μ : Nat} {s₀ : State} {s : State} {r : Nat} (hm : sub 65536 μ = true) (h₀ : Only μ s₀ s) : Only μ s₀ (State.importRefused s r) := by
  unfold State.importRefused
  try dsimp only
  repeat' (first
    | with_reducible first
      | exact h₀
      | exact Only.refl _
      | refine ksuDone_only (sub_mid rfl hm) ?_
      | refine raise_only (sub_mid rfl hm) ?_ ?_
      | refine only_of_fst (by assumption) ?_
    | intro _
    | split
    | dsimp only
    | exact fieldIn_block (b := 16) rfl (bit_mid hm rfl))

theorem storeImpSeq_only {μ : Nat} {s₀ : State} {s : State} {c : KeyCache} {q : Nat} (hm : sub 141132625354752 μ = true) (h₀ : Only μ s₀ s) : Only μ s₀ (State.storeImpSeq s c q) := by
  unfold State.storeImpSeq
  try dsimp only
  repeat' (first
    | with_reducible first
      | exact h₀
      | exact Only.refl _
      | refine ksuWrite_only (sub_mid rfl hm) ?_
      | refine only_of_fst (by assumption) ?_
    | intro _
    | split
    | dsimp only
    | (with_reducible refine Only.upd rfl hm ?_ ?_; exact {}))

theorem ksuImport_only {μ : Nat} {s₀ : State} {s : State} (hm : sub 18155531134902272 μ = true) (h₀ : Only μ s₀ s) : Only μ s₀ (State.ksuImport s) := by
  unfold State.ksuImport
  try dsimp only
  repeat' (first
    | with_reducible first
      | exact h₀
      | exact Only.refl _
      | refine importRefused_only (sub_mid rfl hm) ?_
      | refine storeImpSeq_only (sub_mid rfl hm) ?_
      | refine ksuDone_only (sub_mid rfl hm) ?_
      | refine ksuWrite_only (sub_mid rfl hm) ?_
      | refine freeTick_only (sub_mid rfl hm) ?_
      | refine setSlot_only (sub_mid rfl hm) ?_
      | refine only_of_fst (by assumption) ?_
    | intro _
    | split
    | dsimp only)

theorem ksuEnrol_only {μ : Nat} {s₀ : State} {s : State} {reads : List Octets} (hm : sub 18155531134902272 μ = true) (h₀ : Only μ s₀ s) : Only μ s₀ (State.ksuEnrol s reads) := by
  unfold State.ksuEnrol
  try dsimp only
  repeat' (first
    | with_reducible first
      | exact h₀
      | exact Only.refl _
      | refine freeTick_only (sub_mid rfl hm) ?_
      | refine pstWords_only (sub_mid rfl hm) ?_
      | refine formRoot_only (sub_mid rfl hm) ?_
      | refine ksuDone_only (sub_mid rfl hm) ?_
      | refine only_of_fst (by assumption) ?_
    | intro _
    | split
    | dsimp only)

theorem tokenRefused_only {μ : Nat} {s₀ : State} {s : State} {r : Nat} (hm : sub 65536 μ = true) (h₀ : Only μ s₀ s) : Only μ s₀ (State.tokenRefused s r) := by
  unfold State.tokenRefused
  try dsimp only
  repeat' (first
    | with_reducible first
      | exact h₀
      | exact Only.refl _
      | refine ksuDone_only (sub_mid rfl hm) ?_
      | refine raise_only (sub_mid rfl hm) ?_ ?_
      | refine only_of_fst (by assumption) ?_
    | intro _
    | split
    | dsimp only
    | exact fieldIn_block (b := 16) rfl (bit_mid hm rfl))

theorem eraseRecord_only {μ : Nat} {s₀ : State} {s : State} {o : Nat} (hm : sub 140857747447808 μ = true) (h₀ : Only μ s₀ s) : Only μ s₀ (State.eraseRecord s o) := by
  unfold State.eraseRecord
  try dsimp only
  repeat' (first
    | with_reducible first
      | exact h₀
      | exact Only.refl _
      | refine ksuWrite_only (sub_mid rfl hm) ?_
      | refine only_of_fst (by assumption) ?_
    | intro _
    | split
    | dsimp only)

theorem eraseStale_only {μ : Nat} {s₀ : State} {s : State} (hm : sub 140857747447808 μ = true) (h₀ : Only μ s₀ s) : Only μ s₀ (State.eraseStale s) := by
  unfold State.eraseStale
  try dsimp only
  repeat' (first
    | with_reducible first
      | exact h₀
      | exact Only.refl _
      | refine eraseRecord_only (sub_mid rfl hm) ?_
      | refine only_foldl ?_ ?_
      | refine only_foldl_pair ?_ ?_
      | refine only_of_fst (by assumption) ?_
    | intro _
    | split
    | dsimp only)

theorem reseal_only {μ : Nat} {s₀ : State} {old : KeyCache} {new : KeyCache} {ep : Nat} {x0 : List Nat} {x1 : List Nat} {s : State} (hm : sub 18155256256929792 μ = true) (h₀ : Only μ s₀ s) : Only μ s₀ (reseal old new ep x0 x1 s) := by
  induction x0 generalizing x1 s with
  | nil => exact h₀
  | cons i is ih =>
    cases x1 with
    | nil => exact h₀
    | cons j js => exact ih (freeTick_only (sub_mid rfl hm) (ksuWrite_only (sub_mid rfl hm) h₀))

theorem ksuTransition_only {μ : Nat} {s₀ : State} {s : State} (hm : sub 18155531134902272 μ = true) (h₀ : Only μ s₀ s) : Only μ s₀ (State.ksuTransition s) := by
  unfold State.ksuTransition
  try dsimp only
  repeat' (first
    | with_reducible first
      | exact h₀
      | exact Only.refl _
      | refine eraseStale_only (sub_mid rfl hm) ?_
      | refine reseal_only (sub_mid rfl hm) ?_
      | refine ksuDone_only (sub_mid rfl hm) ?_
      | refine raise_only (sub_mid rfl hm) ?_ ?_
      | refine ksuWrite_only (sub_mid rfl hm) ?_
      | refine tokenRefused_only (sub_mid rfl hm) ?_
      | refine wr_only ?_ ?_
      | refine only_of_fst (by assumption) ?_
    | intro _
    | split
    | dsimp only
    | exact fieldIn_block (b := 16) rfl (bit_mid hm rfl)
    | (with_reducible refine Only.upd rfl hm ?_ ?_; exact {}))

theorem otpProgrammed_only {μ : Nat} {s₀ : State} {s : State} {target : Nat} (hm : sub 141270064308224 μ = true) (h₀ : Only μ s₀ s) : Only μ s₀ (State.otpProgrammed s target) := by
  unfold State.otpProgrammed
  try dsimp only
  repeat' (first
    | with_reducible first
      | exact h₀
      | exact Only.refl _
      | refine pstWords_only (sub_mid rfl hm) ?_
      | refine eraseRecord_only (sub_mid rfl hm) ?_
      | refine only_foldl ?_ ?_
      | refine only_foldl_pair ?_ ?_
      | refine only_of_fst (by assumption) ?_
    | intro _
    | split
    | dsimp only
    | (with_reducible refine Only.upd rfl hm ?_ ?_; exact {}))

theorem ksuCommand_only {μ : Nat} {s₀ : State} {s : State} {key : Nat} {commit : Bool} {user : Bool} {run : State → State} (hm : sub 65536 μ = true) (hrun : ∀ s, Only μ s (run s)) (h₀ : Only μ s₀ s) : Only μ s₀ (State.ksuCommand s key commit user run) := by
  unfold State.ksuCommand
  try dsimp only
  repeat' (first
    | with_reducible first
      | exact h₀
      | exact Only.refl _
      | refine raise_only (sub_mid rfl hm) ?_ ?_
      | refine wr_only ?_ ?_
      | refine Only.trans ?_ (hrun _)
      | refine only_of_fst (by assumption) ?_
    | intro _
    | split
    | dsimp only
    | exact fieldIn_block (b := 16) rfl (bit_mid hm rfl))

theorem cryKey_only {μ : Nat} {s₀ : State} {s : State} {d : Octets} {held : Option KeySlot} {user : Bool} (hm : sub 18014398509678592 μ = true) (h₀ : Only μ s₀ s) : Only μ s₀ (State.cryKey s d held user).1 := by
  unfold State.cryKey
  try dsimp only
  repeat' (first
    | with_reducible first
      | exact h₀
      | exact Only.refl _
      | refine deny_only (sub_mid rfl hm) ?_
      | refine raise_only (sub_mid rfl hm) ?_ ?_
      | refine freeTick_only (sub_mid rfl hm) ?_
      | refine only_of_fst (by assumption) ?_
    | intro _
    | split
    | dsimp only
    | exact fieldIn_block (b := 17) rfl (bit_mid hm rfl))

theorem cryEval_only {μ : Nat} {s₀ : State} {s : State} {d : Octets} {held : Option KeySlot} {user : Bool} {poison : Bool} (hm : sub 18014398509678592 μ = true) (h₀ : Only μ s₀ s) : Only μ s₀ (State.cryEval s d held user poison).1 := by
  unfold State.cryEval
  try dsimp only
  repeat' (first
    | with_reducible first
      | exact h₀
      | exact Only.refl _
      | refine cryKey_only (sub_mid rfl hm) ?_
      | refine only_of_fst (by assumption) ?_
    | intro _
    | split
    | dsimp only)

theorem cryWrite_only {μ : Nat} {s₀ : State} {s : State} {a : Nat} {n : Nat} {bs : Octets} {ok : Bool} (hm : sub 16777216 μ = true) (h₀ : Only μ s₀ s) : Only μ s₀ (State.cryWrite s a n bs ok) := by
  unfold State.cryWrite
  try dsimp only
  repeat' (first
    | with_reducible first
      | exact h₀
      | exact Only.refl _
      | refine sramWrite_only (sub_mid rfl hm) ?_
      | refine only_of_fst (by assumption) ?_
    | intro _
    | split
    | dsimp only)

theorem cryStart_only {μ : Nat} {s₀ : State} {s : State} (hm : sub 549755813888 μ = true) (h₀ : Only μ s₀ s) : Only μ s₀ (State.cryStart s) := by
  unfold State.cryStart
  try dsimp only
  repeat' (first
    | with_reducible first
      | exact h₀
      | exact Only.refl _
      | refine only_of_fst (by assumption) ?_
    | intro _
    | split
    | dsimp only
    | (with_reducible refine Only.upd rfl hm ?_ ?_; exact {}))

theorem cryFinish_only {μ : Nat} {s₀ : State} {s : State} {poison : Bool} (hm : sub 18015223160176640 μ = true) (h₀ : Only μ s₀ s) : Only μ s₀ (State.cryFinish s poison) := by
  unfold State.cryFinish
  try dsimp only
  repeat' (first
    | with_reducible first
      | exact h₀
      | exact Only.refl _
      | refine count_only (sub_mid rfl hm) ?_ ?_ ?_
      | refine raise_only (sub_mid rfl hm) ?_ ?_
      | refine sramWrite_only (sub_mid rfl hm) ?_
      | refine setSlot_only (sub_mid rfl hm) ?_
      | refine cryWrite_only (sub_mid rfl hm) ?_
      | refine cryEval_only (sub_mid rfl hm) ?_
      | refine only_of_fst (by assumption) ?_
    | intro _
    | split
    | dsimp only
    | exact fieldIn_block (b := 17) rfl (bit_mid hm rfl)
    | (with_reducible refine Only.upd rfl hm ?_ ?_; exact {}))

theorem cryComplete_only {μ : Nat} {s₀ : State} {s : State} {poison : Bool} (hm : sub 18015223160176640 μ = true) (h₀ : Only μ s₀ s) : Only μ s₀ (State.cryComplete s poison) := by
  unfold State.cryComplete
  try dsimp only
  repeat' (first
    | with_reducible first
      | exact h₀
      | exact Only.refl _
      | refine cryFinish_only (sub_mid rfl hm) ?_
      | refine cryStart_only (sub_mid rfl hm) ?_
      | refine only_of_fst (by assumption) ?_
    | intro _
    | split
    | dsimp only)

theorem cryJob_only {μ : Nat} {s₀ : State} {s : State} {addr : Nat} {commit : Bool} {user : Bool} (hm : sub 549772722176 μ = true) (h₀ : Only μ s₀ s) : Only μ s₀ (State.cryJob s addr commit user) := by
  unfold State.cryJob
  try dsimp only
  repeat' (first
    | with_reducible first
      | exact h₀
      | exact Only.refl _
      | refine cryStart_only (sub_mid rfl hm) ?_
      | refine raise_only (sub_mid rfl hm) ?_ ?_
      | refine sramWrite_only (sub_mid rfl hm) ?_
      | refine only_of_fst (by assumption) ?_
    | intro _
    | split
    | dsimp only
    | exact fieldIn_block (b := 17) rfl (bit_mid hm rfl)
    | (with_reducible refine Only.upd rfl hm ?_ ?_; exact {}))

/-! ### Dma -/

theorem parityError_only {μ : Nat} {s₀ : State} {s : State} {n : Nat} (hm : sub 2097152 μ = true) (h₀ : Only μ s₀ s) : Only μ s₀ (State.parityError s n) := by
  unfold State.parityError
  try dsimp only
  repeat' (first
    | with_reducible first
      | exact h₀
      | exact Only.refl _
      | refine addCount_only (sub_mid rfl hm) ?_ ?_ ?_
      | refine raise_only (sub_mid rfl hm) ?_ ?_
      | refine only_of_fst (by assumption) ?_
    | intro _
    | split
    | dsimp only
    | exact fieldIn_block (b := 21) rfl (bit_mid hm rfl))

theorem wordUncorrected_only {μ : Nat} {s₀ : State} {s : State} {a : Nat} (hm : sub 134225920 μ = true) (h₀ : Only μ s₀ s) : Only μ s₀ (State.wordUncorrected s a) := by
  unfold State.wordUncorrected
  try dsimp only
  repeat' (first
    | with_reducible first
      | exact h₀
      | exact Only.refl _
      | refine countAgainst_only (sub_mid rfl hm) ?_
      | refine pstUncorrected_only (sub_mid rfl hm) ?_
      | refine only_of_fst (by assumption) ?_
    | intro _
    | split
    | dsimp only)

theorem wordCorrected_only {μ : Nat} {s₀ : State} {s : State} {a : Nat} (hm : sub 8200 μ = true) (h₀ : Only μ s₀ s) : Only μ s₀ (State.wordCorrected s a) := by
  unfold State.wordCorrected
  try dsimp only
  repeat' (first
    | with_reducible first
      | exact h₀
      | exact Only.refl _
      | refine correctedWord_only (sub_mid rfl hm) ?_
      | refine pstCorrected_only (sub_mid rfl hm) ?_
      | refine only_of_fst (by assumption) ?_
    | intro _
    | split
    | dsimp only)

theorem spanMeets_only {μ : Nat} {s₀ : State} {s : State} {e : BusErrors} {a : Nat} {n : Nat} (hm : sub 136323080 μ = true) (h₀ : Only μ s₀ s) : Only μ s₀ (State.spanMeets s e a n) := by
  unfold State.spanMeets
  try dsimp only
  repeat' (first
    | with_reducible first
      | exact h₀
      | exact Only.refl _
      | refine wordUncorrected_only (sub_mid rfl hm) ?_
      | refine parityError_only (sub_mid rfl hm) ?_
      | refine wordCorrected_only (sub_mid rfl hm) ?_
      | refine only_foldl ?_ ?_
      | refine only_foldl_pair ?_ ?_
      | refine only_of_fst (by assumption) ?_
    | intro _
    | split
    | dsimp only)

theorem dmaRun_note_only {μ : Nat} {s₀ : State} {r : DmaRun} {ws : List Nat} (hm : sub 0 μ = true) (h₀ : Only μ s₀ r.st) : Only μ s₀ (DmaRun.note r ws).st := by
  unfold DmaRun.note
  try dsimp only
  repeat' (first
    | with_reducible first
      | exact h₀
      | exact Only.refl _
      | refine only_of_fst (by assumption) ?_
    | intro _
    | split
    | dsimp only)

theorem dmaRun_read_only {μ : Nat} {s₀ : State} {r : DmaRun} {e : BusErrors} {a : Nat} {n : Nat} (hm : sub 136323080 μ = true) (h₀ : Only μ s₀ r.st) : Only μ s₀ (DmaRun.read r e a n).1.st := by
  unfold DmaRun.read
  try dsimp only
  repeat' (first
    | with_reducible first
      | exact h₀
      | exact Only.refl _
      | refine spanMeets_only (sub_mid rfl hm) ?_
      | refine dmaRun_note_only (sub_mid rfl hm) ?_
      | refine only_of_fst (by assumption) ?_
    | intro _
    | split
    | dsimp only)

theorem dmaRun_answered_only {μ : Nat} {s₀ : State} {r : DmaRun} {w : State × Bool} (hm : sub 0 μ = true) (h₀ : Only μ s₀ w.1) : Only μ s₀ (DmaRun.answered r w).st := by
  unfold DmaRun.answered
  split
  · exact h₀
  · exact h₀

theorem pstWord_only {μ : Nat} {s₀ : State} {e : BusErrors} {a : Nat} {v : Nat} {r : DmaRun} (hm : sub 140857749544960 μ = true) (h₀ : Only μ s₀ r.st) : Only μ s₀ (pstWord e a v r).st := by
  unfold pstWord
  try dsimp only
  repeat' (first
    | with_reducible first
      | exact h₀
      | exact Only.refl _
      | refine pstWrite_only (sub_mid rfl hm) ?_
      | refine dmaRun_answered_only (sub_mid rfl hm) ?_
      | refine parityError_only (sub_mid rfl hm) ?_
      | refine only_of_fst (by assumption) ?_
    | intro _
    | split
    | dsimp only)

theorem pstPart_only {μ : Nat} {s₀ : State} {a : Nat} {r : DmaRun} (hm : sub 8192 μ = true) (h₀ : Only μ s₀ r.st) : Only μ s₀ (pstPart a r).st := by
  unfold pstPart
  try dsimp only
  repeat' (first
    | with_reducible first
      | exact h₀
      | exact Only.refl _
      | refine pstMisaligned_only (sub_mid rfl hm) ?_
      | refine only_of_fst (by assumption) ?_
    | intro _
    | split
    | dsimp only)

theorem pstSpan_only {μ : Nat} {s₀ : State} {e : BusErrors} {x0 : Nat} {x1 : Nat} {x2 : Octets} {r : DmaRun} (hm : sub 140857749544960 μ = true) (h₀ : Only μ s₀ r.st) : Only μ s₀ (pstSpan e x0 x1 x2 r).st := by
  induction x0 generalizing x1 x2 r with
  | zero => exact h₀
  | succ n ih =>
    rw [pstSpan]
    split
    · exact h₀
    split
    · exact pstPart_only (sub_mid rfl hm) h₀
    · exact ih (pstWord_only (sub_mid rfl hm) h₀)

theorem sramSpan_only {μ : Nat} {s₀ : State} {e : BusErrors} {a : Nat} {bs : Octets} {r : DmaRun} (hm : sub 18874368 μ = true) (h₀ : Only μ s₀ r.st) : Only μ s₀ (sramSpan e a bs r).st := by
  unfold sramSpan
  try dsimp only
  repeat' (first
    | with_reducible first
      | exact h₀
      | exact Only.refl _
      | refine sramWrite_only (sub_mid rfl hm) ?_
      | refine parityError_only (sub_mid rfl hm) ?_
      | refine only_of_fst (by assumption) ?_
    | intro _
    | split
    | dsimp only)

theorem dmaRun_write_only {μ : Nat} {s₀ : State} {r : DmaRun} {e : BusErrors} {a : Nat} {bs : Octets} (hm : sub 140857766322176 μ = true) (h₀ : Only μ s₀ r.st) : Only μ s₀ (DmaRun.write r e a bs).st := by
  unfold DmaRun.write
  try dsimp only
  repeat' (first
    | with_reducible first
      | exact h₀
      | exact Only.refl _
      | refine pstSpan_only (sub_mid rfl hm) ?_
      | refine sramSpan_only (sub_mid rfl hm) ?_
      | refine only_of_fst (by assumption) ?_
    | intro _
    | split
    | dsimp only)

theorem dmaRun_copy_only {μ : Nat} {s₀ : State} {r : DmaRun} {e : BusErrors} {d : Descriptor} (hm : sub 140857900539912 μ = true) (h₀ : Only μ s₀ r.st) : Only μ s₀ (DmaRun.copy r e d).st := by
  unfold DmaRun.copy
  try dsimp only
  repeat' (first
    | with_reducible first
      | exact h₀
      | exact Only.refl _
      | refine dmaRun_write_only (sub_mid rfl hm) ?_
      | refine dmaRun_read_only (sub_mid rfl hm) ?_
      | refine only_of_fst (by assumption) ?_
    | intro _
    | split
    | dsimp only)

theorem gatherFrom_only {μ : Nat} {s₀ : State} {e : BusErrors} {d : Descriptor} {x0 : Nat} {x1 : Nat} {r : DmaRun} (hm : sub 140857900539912 μ = true) (h₀ : Only μ s₀ r.st) : Only μ s₀ (gatherFrom e d x0 x1 r).st := by
  induction x0 generalizing x1 r with
  | zero => exact h₀
  | succ n ih =>
    rw [gatherFrom]
    have h1 : Only μ s₀ (r.read e (d.idx + 4 * x1) 4).1.st := dmaRun_read_only (sub_mid rfl hm) h₀
    extract_lets q bad a x
    clear_value bad a
    have h1 : Only μ s₀ q.1.st := h1
    have h2 : Only μ s₀ x.1.st := dmaRun_read_only (sub_mid rfl hm) h1
    clear_value x q
    split
    · exact h₀
    split
    · exact ih (dmaRun_write_only (sub_mid rfl hm) h1)
    split
    · exact ih (dmaRun_write_only (sub_mid rfl hm) h2)
    · exact h1

theorem dmaRun_fill_only {μ : Nat} {s₀ : State} {r : DmaRun} {e : BusErrors} {d : Descriptor} (hm : sub 140857766322176 μ = true) (h₀ : Only μ s₀ r.st) : Only μ s₀ (DmaRun.fill r e d).st := by
  unfold DmaRun.fill
  try dsimp only
  repeat' (first
    | with_reducible first
      | exact h₀
      | exact Only.refl _
      | refine dmaRun_write_only (sub_mid rfl hm) ?_
      | refine only_of_fst (by assumption) ?_
    | intro _
    | split
    | dsimp only)

theorem dmaFinish_only {μ : Nat} {s₀ : State} {s : State} {n : Nat} {j : DmaJob} (hm : sub 4295491584 μ = true) (h₀ : Only μ s₀ s) : Only μ s₀ (State.dmaFinish s n j) := by
  unfold State.dmaFinish
  try dsimp only
  repeat' (first
    | with_reducible first
      | exact h₀
      | exact Only.refl _
      | refine count_only (sub_mid rfl hm) ?_ ?_ ?_
      | refine only_of_fst (by assumption) ?_
    | intro _
    | split
    | dsimp only
    | exact fieldIn_block (b := 19) rfl (bit_mid hm rfl)
    | (with_reducible refine Only.upd rfl hm ?_ ?_; exact {}))

theorem dmaHold_only {μ : Nat} {s₀ : State} {s : State} {n : Nat} {j : DmaJob} {now : Bool} (hm : sub 4295491584 μ = true) (h₀ : Only μ s₀ s) : Only μ s₀ (State.dmaHold s n j now) := by
  unfold State.dmaHold
  try dsimp only
  repeat' (first
    | with_reducible first
      | exact h₀
      | exact Only.refl _
      | refine dmaFinish_only (sub_mid rfl hm) ?_
      | refine only_of_fst (by assumption) ?_
    | intro _
    | split
    | dsimp only
    | (with_reducible refine Only.upd rfl hm ?_ ?_; exact {}))

theorem dmaWork_only {μ : Nat} {s₀ : State} {s : State} {n : Nat} {j : DmaJob} {d : Descriptor} {e : BusErrors} (hm : sub 140862196031496 μ = true) (h₀ : Only μ s₀ s) : Only μ s₀ (State.dmaWork s n j d e) := by
  unfold State.dmaWork
  try dsimp only
  repeat' (first
    | with_reducible first
      | exact h₀
      | exact Only.refl _
      | refine dmaHold_only (sub_mid rfl hm) ?_
      | refine dmaRun_fill_only (sub_mid rfl hm) ?_
      | refine gatherFrom_only (sub_mid rfl hm) ?_
      | refine dmaRun_copy_only (sub_mid rfl hm) ?_
      | refine dmaFinish_only (sub_mid rfl hm) ?_
      | refine dmaRun_read_only (sub_mid rfl hm) ?_
      | refine only_of_fst (by assumption) ?_
    | intro _
    | split
    | dsimp only)

theorem dmaStart_only {μ : Nat} {s₀ : State} {s : State} {op : Nat} {n : Nat} {descBad : Bool} {e : BusErrors} (hm : sub 18155260705513480 μ = true) (h₀ : Only μ s₀ s) : Only μ s₀ (State.dmaStart s op n descBad e) := by
  unfold State.dmaStart
  try dsimp only
  repeat' (first
    | with_reducible first
      | exact h₀
      | exact Only.refl _
      | refine dmaWork_only (sub_mid rfl hm) ?_
      | refine freeTick_only (sub_mid rfl hm) ?_
      | refine dmaFinish_only (sub_mid rfl hm) ?_
      | refine wordUncorrected_only (sub_mid rfl hm) ?_
      | refine wr_only ?_ ?_
      | exact DMA_CH_W4_HEAD_in (bit_mid hm rfl)
      | refine only_of_fst (by assumption) ?_
    | intro _
    | split
    | dsimp only)

theorem dmaComplete_only {μ : Nat} {s₀ : State} {s : State} {n : Nat} (hm : sub 140862042939392 μ = true) (h₀ : Only μ s₀ s) : Only μ s₀ (State.dmaComplete s n) := by
  unfold State.dmaComplete
  try dsimp only
  repeat' (first
    | with_reducible first
      | exact h₀
      | exact Only.refl _
      | refine pstDrain_only (sub_mid rfl hm) ?_
      | refine dmaFinish_only (sub_mid rfl hm) ?_
      | refine only_of_fst (by assumption) ?_
    | intro _
    | split
    | dsimp only)

theorem dmaTimeout_only {μ : Nat} {s₀ : State} {s : State} {n : Nat} {got : Nat} (hm : sub 140862042939392 μ = true) (h₀ : Only μ s₀ s) : Only μ s₀ (State.dmaTimeout s n got) := by
  unfold State.dmaTimeout
  try dsimp only
  repeat' (first
    | with_reducible first
      | exact h₀
      | exact Only.refl _
      | refine pstDrain_only (sub_mid rfl hm) ?_
      | refine dmaFinish_only (sub_mid rfl hm) ?_
      | refine only_of_fst (by assumption) ?_
    | intro _
    | split
    | dsimp only)

theorem dmaRecordWrite_only {μ : Nat} {s₀ : State} {s : State} (hm : sub 4312268800 μ = true) (h₀ : Only μ s₀ s) : Only μ s₀ (State.dmaRecordWrite s) := by
  unfold State.dmaRecordWrite
  try dsimp only
  repeat' (first
    | with_reducible first
      | exact h₀
      | exact Only.refl _
      | refine raiseIf_only (sub_mid rfl hm) ?_ ?_
      | refine raise_only (sub_mid rfl hm) ?_ ?_
      | refine sramWrite_only (sub_mid rfl hm) ?_
      | refine wr_only ?_ ?_
      | refine only_of_fst (by assumption) ?_
    | intro _
    | split
    | dsimp only
    | exact fieldIn_block (b := 19) rfl (bit_mid hm rfl)
    | (with_reducible refine Only.upd rfl hm ?_ ?_; exact {}))

theorem dmaShut_only {μ : Nat} {s₀ : State} {s : State} {n : Nat} (hm : sub 140862042939392 μ = true) (h₀ : Only μ s₀ s) : Only μ s₀ (State.dmaShut s n) := by
  unfold State.dmaShut
  try dsimp only
  repeat' (first
    | with_reducible first
      | exact h₀
      | exact Only.refl _
      | refine pstDrain_only (sub_mid rfl hm) ?_
      | refine dmaFinish_only (sub_mid rfl hm) ?_
      | refine only_of_fst (by assumption) ?_
    | intro _
    | split
    | dsimp only)

theorem dmaTakeover_only {μ : Nat} {s₀ : State} {s : State} (hm : sub 4295491584 μ = true) (h₀ : Only μ s₀ s) : Only μ s₀ (State.dmaTakeover s) := by
  unfold State.dmaTakeover
  try dsimp only
  repeat' (first
    | with_reducible first
      | exact h₀
      | exact Only.refl _
      | refine raise_only (sub_mid rfl hm) ?_ ?_
      | refine wr_only ?_ ?_
      | exact DMA_CH_W0_RUNST_in (bit_mid hm rfl)
      | exact DMA_CH_W3_TAIL_in (bit_mid hm rfl)
      | exact DMA_CH_W4_HEAD_in (bit_mid hm rfl)
      | refine only_foldl ?_ ?_
      | refine only_foldl_pair ?_ ?_
      | refine only_of_fst (by assumption) ?_
    | intro _
    | split
    | dsimp only
    | exact fieldIn_block (b := 19) rfl (bit_mid hm rfl)
    | (with_reducible refine Only.upd rfl hm ?_ ?_; exact {}))

theorem setFwd_only {μ : Nat} {s₀ : State} {s : State} {n : Nat} {l : List Forward} (hm : sub 17592186044416 μ = true) (h₀ : Only μ s₀ s) : Only μ s₀ (State.setFwd s n l) := by
  unfold State.setFwd
  try dsimp only
  repeat' (first
    | with_reducible first
      | exact h₀
      | exact Only.refl _
      | refine only_of_fst (by assumption) ?_
    | intro _
    | split
    | dsimp only
    | (with_reducible refine Only.upd rfl hm ?_ ?_; exact {}))

theorem fwdFlush_only {μ : Nat} {s₀ : State} {s : State} {n : Nat} (hm : sub 17592187092992 μ = true) (h₀ : Only μ s₀ s) : Only μ s₀ (State.fwdFlush s n) := by
  unfold State.fwdFlush
  try dsimp only
  repeat' (first
    | with_reducible first
      | exact h₀
      | exact Only.refl _
      | refine setFwd_only (sub_mid rfl hm) ?_
      | refine dcqDiscard_only (sub_mid rfl hm) ?_
      | refine dcqCount_only (sub_mid rfl hm) ?_
      | refine only_of_fst (by assumption) ?_
    | intro _
    | split
    | dsimp only)

theorem fwdDrop_only {μ : Nat} {s₀ : State} {s : State} {n : Nat} {writing : Bool} (hm : sub 17592187092992 μ = true) (h₀ : Only μ s₀ s) : Only μ s₀ (State.fwdDrop s n writing) := by
  unfold State.fwdDrop
  try dsimp only
  repeat' (first
    | with_reducible first
      | exact h₀
      | exact Only.refl _
      | refine setFwd_only (sub_mid rfl hm) ?_
      | refine dcqDiscard_only (sub_mid rfl hm) ?_
      | refine dcqCount_only (sub_mid rfl hm) ?_
      | refine only_of_fst (by assumption) ?_
    | intro _
    | split
    | dsimp only)

theorem fwdRead_only {μ : Nat} {s₀ : State} {s : State} {n : Nat} {bad : Bool} (hm : sub 17592187092992 μ = true) (h₀ : Only μ s₀ s) : Only μ s₀ (State.fwdRead s n bad) := by
  unfold State.fwdRead
  try dsimp only
  repeat' (first
    | with_reducible first
      | exact h₀
      | exact Only.refl _
      | refine dcqPoison_only (sub_mid rfl hm) ?_
      | refine dcqCount_only (sub_mid rfl hm) ?_
      | refine setFwd_only (sub_mid rfl hm) ?_
      | refine only_of_fst (by assumption) ?_
    | intro _
    | split
    | dsimp only)

theorem dcqFlush_only {μ : Nat} {s₀ : State} {s : State} {n : Nat} (hm : sub 17600810582016 μ = true) (h₀ : Only μ s₀ s) : Only μ s₀ (State.dcqFlush s n) := by
  unfold State.dcqFlush
  try dsimp only
  repeat' (first
    | with_reducible first
      | exact h₀
      | exact Only.refl _
      | refine dcqEmpty_only (sub_mid rfl hm) ?_
      | refine fwdFlush_only (sub_mid rfl hm) ?_
      | refine wr_only ?_ ?_
      | exact DCQ_Q_W0_RUNST_in (bit_mid hm rfl)
      | refine only_of_fst (by assumption) ?_
    | intro _
    | split
    | dsimp only
    | (with_reducible refine Only.upd rfl hm ?_ ?_; exact {}))

theorem dcqDrop_only {μ : Nat} {s₀ : State} {s : State} {n : Nat} {writing : Bool} (hm : sub 8624537600 μ = true) (h₀ : Only μ s₀ s) : Only μ s₀ (State.dcqDrop s n writing) := by
  unfold State.dcqDrop
  try dsimp only
  repeat' (first
    | with_reducible first
      | exact h₀
      | exact Only.refl _
      | refine dcqDiscard_only (sub_mid rfl hm) ?_
      | refine dcqCount_only (sub_mid rfl hm) ?_
      | refine only_of_fst (by assumption) ?_
    | intro _
    | split
    | dsimp only
    | (with_reducible refine Only.upd rfl hm ?_ ?_; exact {}))

theorem dcqCommand_only {μ : Nat} {s₀ : State} {s : State} {n : Nat} {flush : Bool} {drop : Bool} {writing : Bool} (hm : sub 17600810582016 μ = true) (h₀ : Only μ s₀ s) : Only μ s₀ (State.dcqCommand s n flush drop writing) := by
  unfold State.dcqCommand
  try dsimp only
  repeat' (first
    | with_reducible first
      | exact h₀
      | exact Only.refl _
      | refine dcqDrop_only (sub_mid rfl hm) ?_
      | refine fwdDrop_only (sub_mid rfl hm) ?_
      | refine dcqFlush_only (sub_mid rfl hm) ?_
      | refine raiseIf_only (sub_mid rfl hm) ?_ ?_
      | refine only_of_fst (by assumption) ?_
    | intro _
    | split
    | dsimp only
    | exact fieldIn_block (b := 20) rfl (bit_mid hm rfl))

theorem dcqRead_only {μ : Nat} {s₀ : State} {s : State} {n : Nat} {bad : Bool} (hm : sub 17600810582016 μ = true) (h₀ : Only μ s₀ s) : Only μ s₀ (State.dcqRead s n bad) := by
  unfold State.dcqRead
  try dsimp only
  repeat' (first
    | with_reducible first
      | exact h₀
      | exact Only.refl _
      | refine dcqPoison_only (sub_mid rfl hm) ?_
      | refine dcqCount_only (sub_mid rfl hm) ?_
      | refine fwdRead_only (sub_mid rfl hm) ?_
      | refine only_of_fst (by assumption) ?_
    | intro _
    | split
    | dsimp only
    | (with_reducible refine Only.upd rfl hm ?_ ?_; exact {}))

/-! ### Rtc -/

theorem setCalendar_only {μ : Nat} {s₀ : State} {s : State} {n : Nat} (hm : sub 32768 μ = true) (h₀ : Only μ s₀ s) : Only μ s₀ (State.setCalendar s n) := by
  unfold State.setCalendar
  try dsimp only
  repeat' (first
    | with_reducible first
      | exact h₀
      | exact Only.refl _
      | refine wr_only ?_ ?_
      | refine only_of_fst (by assumption) ?_
    | intro _
    | split
    | dsimp only
    | exact fieldIn_block (b := 15) rfl (bit_mid hm rfl))

theorem moveCalendar_only {μ : Nat} {s₀ : State} {s : State} {d : Int} (hm : sub 32768 μ = true) (h₀ : Only μ s₀ s) : Only μ s₀ (State.moveCalendar s d) := by
  unfold State.moveCalendar
  try dsimp only
  repeat' (first
    | with_reducible first
      | exact h₀
      | exact Only.refl _
      | refine setCalendar_only (sub_mid rfl hm) ?_
      | refine raiseIf_only (sub_mid rfl hm) ?_ ?_
      | refine only_of_fst (by assumption) ?_
    | intro _
    | split
    | dsimp only
    | exact fieldIn_block (b := 15) rfl (bit_mid hm rfl))

theorem setPon_only {μ : Nat} {s₀ : State} {s : State} {level : Nat} {src : Nat} (hm : sub 32768 μ = true) (h₀ : Only μ s₀ s) : Only μ s₀ (State.setPon s level src) := by
  unfold State.setPon
  try dsimp only
  repeat' (first
    | with_reducible first
      | exact h₀
      | exact Only.refl _
      | refine wr_only ?_ ?_
      | refine only_of_fst (by assumption) ?_
    | intro _
    | split
    | dsimp only
    | exact fieldIn_block (b := 15) rfl (bit_mid hm rfl))

theorem checkAlarm_only {μ : Nat} {s₀ : State} {s : State} {n : Nat} (hm : sub 32768 μ = true) (h₀ : Only μ s₀ s) : Only μ s₀ (State.checkAlarm s n) := by
  unfold State.checkAlarm
  try dsimp only
  repeat' (first
    | with_reducible first
      | exact h₀
      | exact Only.refl _
      | refine setPon_only (sub_mid rfl hm) ?_
      | refine raise_only (sub_mid rfl hm) ?_ ?_
      | refine only_of_fst (by assumption) ?_
    | intro _
    | split
    | dsimp only
    | exact fieldIn_block (b := 15) rfl (bit_mid hm rfl))

theorem applyHour_only {μ : Nat} {s₀ : State} {s : State} (hm : sub 4398046543872 μ = true) (h₀ : Only μ s₀ s) : Only μ s₀ (State.applyHour s) := by
  unfold State.applyHour
  try dsimp only
  repeat' (first
    | with_reducible first
      | exact h₀
      | exact Only.refl _
      | refine moveCalendar_only (sub_mid rfl hm) ?_
      | refine wrI_only (sub_mid rfl hm) ?_ ?_
      | refine only_of_fst (by assumption) ?_
    | intro _
    | split
    | dsimp only
    | exact fieldIn_block (b := 15) rfl (bit_mid hm rfl)
    | (with_reducible refine Only.upd rfl hm ?_ ?_; exact {}))

theorem trimBy_only {μ : Nat} {s₀ : State} {s : State} {n : Nat} (hm : sub 4398046511104 μ = true) (h₀ : Only μ s₀ s) : Only μ s₀ (State.trimBy s n) := by
  unfold State.trimBy
  try dsimp only
  repeat' (first
    | with_reducible first
      | exact h₀
      | exact Only.refl _
      | refine only_of_fst (by assumption) ?_
    | intro _
    | split
    | dsimp only
    | (with_reducible refine Only.upd rfl hm ?_ ?_; exact {}))

theorem prescalerAt_only {μ : Nat} {s₀ : State} {s : State} {p : Nat} (hm : sub 4398046511104 μ = true) (h₀ : Only μ s₀ s) : Only μ s₀ (State.prescalerAt s p) := by
  unfold State.prescalerAt
  try dsimp only
  repeat' (first
    | with_reducible first
      | exact h₀
      | exact Only.refl _
      | refine trimBy_only (sub_mid rfl hm) ?_
      | refine only_of_fst (by assumption) ?_
    | intro _
    | split
    | dsimp only
    | (with_reducible refine Only.upd rfl hm ?_ ?_; exact {}))

theorem rtcSecond_only {μ : Nat} {s₀ : State} {s : State} (hm : sub 4398046543872 μ = true) (h₀ : Only μ s₀ s) : Only μ s₀ (State.rtcSecond s) := by
  unfold State.rtcSecond
  try dsimp only
  repeat' (first
    | with_reducible first
      | exact h₀
      | exact Only.refl _
      | refine checkAlarm_only (sub_mid rfl hm) ?_
      | refine moveCalendar_only (sub_mid rfl hm) ?_
      | refine applyHour_only (sub_mid rfl hm) ?_
      | refine trimBy_only (sub_mid rfl hm) ?_
      | refine only_of_fst (by assumption) ?_
    | intro _
    | split
    | dsimp only
    | (with_reducible refine Only.upd rfl hm ?_ ?_; exact {}))

theorem noteRtc_only {μ : Nat} {s₀ : State} {s : State} {old : State} {mark : Bool} (hm : sub 4398046511104 μ = true) (h₀ : Only μ s₀ s) : Only μ s₀ (State.noteRtc s old mark) := by
  unfold State.noteRtc
  try dsimp only
  repeat' (first
    | with_reducible first
      | exact h₀
      | exact Only.refl _
      | refine only_of_fst (by assumption) ?_
    | intro _
    | split
    | dsimp only
    | (with_reducible refine Only.upd rfl hm ?_ ?_; exact {}))

theorem undoRtc_only {μ : Nat} {s₀ : State} {s : State} {c : RtcCycle} (hm : sub 4398046543872 μ = true) (h₀ : Only μ s₀ s) : Only μ s₀ (State.undoRtc s c) := by
  unfold State.undoRtc
  try dsimp only
  repeat' (first
    | with_reducible first
      | exact h₀
      | exact Only.refl _
      | refine wr_only ?_ ?_
      | exact rtcField_in (bit_mid hm rfl)
      | refine only_foldl ?_ ?_
      | refine only_foldl_pair ?_ ?_
      | refine only_of_fst (by assumption) ?_
    | intro _
    | split
    | dsimp only
    | (with_reducible refine Only.upd rfl hm ?_ ?_; exact {}))

theorem rtcTick_only {μ : Nat} {s₀ : State} {s : State} (hm : sub 4398046543872 μ = true) (h₀ : Only μ s₀ s) : Only μ s₀ (State.rtcTick s) := by
  unfold State.rtcTick
  try dsimp only
  repeat' (first
    | with_reducible first
      | exact h₀
      | exact Only.refl _
      | refine noteRtc_only (sub_mid rfl hm) ?_
      | refine setPon_only (sub_mid rfl hm) ?_
      | refine rtcSecond_only (sub_mid rfl hm) ?_
      | refine only_of_fst (by assumption) ?_
    | intro _
    | split
    | dsimp only)

theorem trimTaken_only {μ : Nat} {s₀ : State} {s : State} (hm : sub 4398046511104 μ = true) (h₀ : Only μ s₀ s) : Only μ s₀ (State.trimTaken s) := by
  unfold State.trimTaken
  try dsimp only
  repeat' (first
    | with_reducible first
      | exact h₀
      | exact Only.refl _
      | refine only_of_fst (by assumption) ?_
    | intro _
    | split
    | dsimp only
    | (with_reducible refine Only.upd rfl hm ?_ ?_; exact {}))

theorem trimStep_only {μ : Nat} {s₀ : State} {s : State} {p : Nat} (hm : sub 4398046543872 μ = true) (h₀ : Only μ s₀ s) : Only μ s₀ (State.trimStep s p) := by
  unfold State.trimStep
  try dsimp only
  repeat' (first
    | with_reducible first
      | exact h₀
      | exact Only.refl _
      | refine rtcTick_only (sub_mid rfl hm) ?_
      | refine trimTaken_only (sub_mid rfl hm) ?_
      | refine prescalerAt_only (sub_mid rfl hm) ?_
      | refine only_of_fst (by assumption) ?_
    | intro _
    | split
    | dsimp only
    | (with_reducible refine Only.upd rfl hm ?_ ?_; exact {}))

theorem setShadow_only {μ : Nat} {s₀ : State} {s : State} {l : Lane} {x : Option Shadow} (hm : sub 4398046511104 μ = true) (h₀ : Only μ s₀ s) : Only μ s₀ (State.setShadow s l x) := by
  unfold State.setShadow
  try dsimp only
  repeat' (first
    | with_reducible first
      | exact h₀
      | exact Only.refl _
      | refine only_of_fst (by assumption) ?_
    | intro _
    | split
    | dsimp only
    | (with_reducible refine Only.upd rfl hm ?_ ?_; exact {}))

theorem readTimeGroup_only {μ : Nat} {s₀ : State} {s : State} {l : Lane} {date : Bool} (hm : sub 4398046511104 μ = true) (h₀ : Only μ s₀ s) : Only μ s₀ (State.readTimeGroup s l date).1 := by
  unfold State.readTimeGroup
  try dsimp only
  repeat' (first
    | with_reducible first
      | exact h₀
      | exact Only.refl _
      | refine setShadow_only (sub_mid rfl hm) ?_
      | refine only_of_fst (by assumption) ?_
    | intro _
    | split
    | dsimp only)

theorem freezeTimeout_only {μ : Nat} {s₀ : State} {s : State} {l : Lane} (hm : sub 4398046543872 μ = true) (h₀ : Only μ s₀ s) : Only μ s₀ (State.freezeTimeout s l) := by
  unfold State.freezeTimeout
  try dsimp only
  repeat' (first
    | with_reducible first
      | exact h₀
      | exact Only.refl _
      | refine setShadow_only (sub_mid rfl hm) ?_
      | refine raise_only (sub_mid rfl hm) ?_ ?_
      | refine only_of_fst (by assumption) ?_
    | intro _
    | split
    | dsimp only
    | exact fieldIn_block (b := 15) rfl (bit_mid hm rfl))

theorem rtcCommit_only {μ : Nat} {s₀ : State} {s : State} (hm : sub 4398046543872 μ = true) (h₀ : Only μ s₀ s) : Only μ s₀ (State.rtcCommit s) := by
  unfold State.rtcCommit
  try dsimp only
  repeat' (first
    | with_reducible first
      | exact h₀
      | exact Only.refl _
      | refine setCalendar_only (sub_mid rfl hm) ?_
      | refine raiseIf_only (sub_mid rfl hm) ?_ ?_
      | refine undoRtc_only (sub_mid rfl hm) ?_
      | refine raise_only (sub_mid rfl hm) ?_ ?_
      | refine wr_only ?_ ?_
      | refine only_of_fst (by assumption) ?_
    | intro _
    | split
    | dsimp only
    | exact fieldIn_block (b := 15) rfl (bit_mid hm rfl)
    | (with_reducible refine Only.upd rfl hm ?_ ?_; exact {}))

theorem armHour_only {μ : Nat} {s₀ : State} {s : State} {add : Bool} (hm : sub 4398046543872 μ = true) (h₀ : Only μ s₀ s) : Only μ s₀ (State.armHour s add) := by
  unfold State.armHour
  try dsimp only
  repeat' (first
    | with_reducible first
      | exact h₀
      | exact Only.refl _
      | refine rtcTick_only (sub_mid rfl hm) ?_
      | refine undoRtc_only (sub_mid rfl hm) ?_
      | refine raise_only (sub_mid rfl hm) ?_ ?_
      | refine only_of_fst (by assumption) ?_
    | intro _
    | split
    | dsimp only
    | exact fieldIn_block (b := 15) rfl (bit_mid hm rfl)
    | (with_reducible refine Only.upd rfl hm ?_ ?_; exact {}))

theorem ponCommand_only {μ : Nat} {s₀ : State} {s : State} {level : Nat} (hm : sub 4398046543872 μ = true) (h₀ : Only μ s₀ s) : Only μ s₀ (State.ponCommand s level) := by
  unfold State.ponCommand
  try dsimp only
  repeat' (first
    | with_reducible first
      | exact h₀
      | exact Only.refl _
      | refine setPon_only (sub_mid rfl hm) ?_
      | refine only_of_fst (by assumption) ?_
    | intro _
    | split
    | dsimp only
    | (with_reducible refine Only.upd rfl hm ?_ ?_; exact {}))

theorem rtcCommand_only {μ : Nat} {s₀ : State} {s : State} {key : Nat} {run : State → State} (hm : sub 32768 μ = true) (hrun : ∀ s, Only μ s (run s)) (h₀ : Only μ s₀ s) : Only μ s₀ (State.rtcCommand s key run) := by
  unfold State.rtcCommand
  try dsimp only
  repeat' (first
    | with_reducible first
      | exact h₀
      | exact Only.refl _
      | refine raise_only (sub_mid rfl hm) ?_ ?_
      | refine Only.trans ?_ (hrun _)
      | refine only_of_fst (by assumption) ?_
    | intro _
    | split
    | dsimp only
    | exact fieldIn_block (b := 15) rfl (bit_mid hm rfl))

theorem discipline_only {μ : Nat} {s₀ : State} {s : State} {p : Nat} (hm : sub 4398046543872 μ = true) (h₀ : Only μ s₀ s) : Only μ s₀ (State.discipline s p) := by
  unfold State.discipline
  try dsimp only
  repeat' (first
    | with_reducible first
      | exact h₀
      | exact Only.refl _
      | refine wrI_only (sub_mid rfl hm) ?_ ?_
      | refine raise_only (sub_mid rfl hm) ?_ ?_
      | refine count_only (sub_mid rfl hm) ?_ ?_ ?_
      | refine setCalendar_only (sub_mid rfl hm) ?_
      | refine rtcSecond_only (sub_mid rfl hm) ?_
      | refine wr_only ?_ ?_
      | refine only_of_fst (by assumption) ?_
    | intro _
    | split
    | dsimp only
    | exact fieldIn_block (b := 15) rfl (bit_mid hm rfl)
    | (with_reducible refine Only.upd rfl hm ?_ ?_; exact {}))

theorem rtcMark_only {μ : Nat} {s₀ : State} {s : State} {p : Nat} (hm : sub 4398113652736 μ = true) (h₀ : Only μ s₀ s) : Only μ s₀ (State.rtcMark s p) := by
  unfold State.rtcMark
  try dsimp only
  repeat' (first
    | with_reducible first
      | exact h₀
      | exact Only.refl _
      | refine discipline_only (sub_mid rfl hm) ?_
      | refine noteRtc_only (sub_mid rfl hm) ?_
      | refine prescalerAt_only (sub_mid rfl hm) ?_
      | refine undoRtc_only (sub_mid rfl hm) ?_
      | refine only_of_fst (by assumption) ?_
    | intro _
    | split
    | dsimp only
    | (with_reducible refine Only.upd rfl hm ?_ ?_; exact {}))

theorem oscStop_only {μ : Nat} {s₀ : State} {s : State} (hm : sub 4398046543872 μ = true) (h₀ : Only μ s₀ s) : Only μ s₀ (State.oscStop s) := by
  unfold State.oscStop
  try dsimp only
  repeat' (first
    | with_reducible first
      | exact h₀
      | exact Only.refl _
      | refine raise_only (sub_mid rfl hm) ?_ ?_
      | refine only_of_fst (by assumption) ?_
    | intro _
    | split
    | dsimp only
    | exact fieldIn_block (b := 15) rfl (bit_mid hm rfl)
    | (with_reducible refine Only.upd rfl hm ?_ ?_; exact {}))

theorem oscResume_only {μ : Nat} {s₀ : State} {s : State} (hm : sub 4398046511104 μ = true) (h₀ : Only μ s₀ s) : Only μ s₀ (State.oscResume s) := by
  unfold State.oscResume
  try dsimp only
  repeat' (first
    | with_reducible first
      | exact h₀
      | exact Only.refl _
      | refine only_of_fst (by assumption) ?_
    | intro _
    | split
    | dsimp only
    | (with_reducible refine Only.upd rfl hm ?_ ?_; exact {}))

theorem toVbat_only {μ : Nat} {s₀ : State} {s : State} {p : Nat} (hm : sub 4398046543872 μ = true) (h₀ : Only μ s₀ s) : Only μ s₀ (State.toVbat s p) := by
  unfold State.toVbat
  try dsimp only
  repeat' (first
    | with_reducible first
      | exact h₀
      | exact Only.refl _
      | refine raise_only (sub_mid rfl hm) ?_ ?_
      | refine prescalerAt_only (sub_mid rfl hm) ?_
      | refine wr_only ?_ ?_
      | refine only_of_fst (by assumption) ?_
    | intro _
    | split
    | dsimp only
    | exact fieldIn_block (b := 15) rfl (bit_mid hm rfl)
    | (with_reducible refine Only.upd rfl hm ?_ ?_; exact {}))

theorem toVmain_only {μ : Nat} {s₀ : State} {s : State} (hm : sub 4398046511104 μ = true) (h₀ : Only μ s₀ s) : Only μ s₀ (State.toVmain s) := by
  unfold State.toVmain
  try dsimp only
  repeat' (first
    | with_reducible first
      | exact h₀
      | exact Only.refl _
      | refine only_of_fst (by assumption) ?_
    | intro _
    | split
    | dsimp only
    | (with_reducible refine Only.upd rfl hm ?_ ?_; exact {}))

theorem kvFind_filter {α : Type} (l : List (Nat × α)) (p : Nat → Bool) (k : Nat) (h : p k = true) : kvFind (l.filter (fun x => p x.1)) k = kvFind l k := by
  induction l with
  | nil => rfl
  | cons x t ih =>
    obtain ⟨a, b⟩ := x
    by_cases e : a = k
    · subst e
      rw [List.filter_cons_of_pos (by simpa using h)]
      simp [kvFind]
    · by_cases hp : p a = true
      · rw [List.filter_cons_of_pos (by simpa using hp)]
        simp only [kvFind, e, if_false]
        exact ih
      · rw [List.filter_cons_of_neg (by simpa using hp), ih]
        simp [kvFind, e]

theorem backupReset_only {μ : Nat} {s₀ : State} {s : State} (hm : sub 4398054932480 μ = true) (h₀ : Only μ s₀ s) : Only μ s₀ (State.backupReset s) := by
  refine h₀.trans ⟨fun p hp => ?_, rfl, fun i => { i with regs := kvFilter_wf _ _ i.regs }⟩
  cases p
  case regs k =>
    intro f hf
    have h15 : k.number ≠ 15 := by
      intro e
      have h2 : μ.testBit k.number = false := hp
      rw [e, bit_mid hm (i := 15) rfl] at h2
      cases h2
    have hk : (fun key => !(decide (0x400F0000 * 1024 ≤ key) && decide (key < 0x40100000 * 1024))) f.key = true := by
      have hb : f.key / 67108864 % 16384 = k.number := hf
      simp only [Bool.not_eq_true', Bool.and_eq_false_iff, decide_eq_false_iff_not]
      omega
    exact congrArg (fun o => Option.getD o f.reset % 2 ^ f.width) (kvFind_filter s.regs (fun key => !(decide (0x400F0000 * 1024 ≤ key) && decide (key < 0x40100000 * 1024))) f.key hk)
  case rtc => exact bit_no hm rfl hp
  case lanes => exact bit_no hm rfl hp
  all_goals first | exact rfl | exact ⟨rfl, rfl⟩

/-! ### Metering -/

theorem setPhBit_only {μ : Nat} {s₀ : State} {s : State} {f : Field} {p : Nat} {b : Bool} (hm : sub 0 μ = true) (hf : FieldIn f μ) (h₀ : Only μ s₀ s) : Only μ s₀ (State.setPhBit s f p b) := by
  unfold State.setPhBit
  try dsimp only
  repeat' (first
    | with_reducible first
      | exact h₀
      | exact Only.refl _
      | refine wr_only ?_ ?_
      | exact hf
      | refine only_of_fst (by assumption) ?_
    | intro _
    | split
    | dsimp only)

theorem onPhase_only {μ : Nat} {s₀ : State} {s : State} {p : Nat} {f : MeterPhase → MeterPhase} (hm : sub 8796093022208 μ = true) (h₀ : Only μ s₀ s) : Only μ s₀ (State.onPhase s p f) := by
  unfold State.onPhase
  try dsimp only
  repeat' (first
    | with_reducible first
      | exact h₀
      | exact Only.refl _
      | refine only_of_fst (by assumption) ?_
    | intro _
    | split
    | dsimp only
    | (with_reducible refine Only.upd rfl hm ?_ ?_; exact {}))

theorem calibrate_only {μ : Nat} {s₀ : State} {s : State} {c : Nat} {frac : Nat} {raw : Int} (hm : sub 18014398509481984 μ = true) (h₀ : Only μ s₀ s) : Only μ s₀ (State.calibrate s c frac raw).1 := by
  unfold State.calibrate
  try dsimp only
  repeat' (first
    | with_reducible first
      | exact h₀
      | exact Only.refl _
      | refine freeTick_only (sub_mid rfl hm) ?_
      | refine only_of_fst (by assumption) ?_
    | intro _
    | split
    | dsimp only)

theorem nativeCurrent_only {μ : Nat} {s₀ : State} {s : State} {p : Nat} {raw : List Int} (hm : sub 18014398509481984 μ = true) (h₀ : Only μ s₀ s) : Only μ s₀ (State.nativeCurrent s p raw).1 := by
  unfold State.nativeCurrent
  try dsimp only
  repeat' (first
    | with_reducible first
      | exact h₀
      | exact Only.refl _
      | refine calibrate_only (sub_mid rfl hm) ?_
      | refine only_of_fst (by assumption) ?_
    | intro _
    | split
    | dsimp only)

theorem gainTo_only {μ : Nat} {s₀ : State} {s : State} {p : Nat} {g16 : Bool} {before : Int} (hm : sub 8796093026304 μ = true) (h₀ : Only μ s₀ s) : Only μ s₀ (State.gainTo s p g16 before) := by
  unfold State.gainTo
  try dsimp only
  repeat' (first
    | with_reducible first
      | exact h₀
      | exact Only.refl _
      | refine count_only (sub_mid rfl hm) ?_ ?_ ?_
      | refine raise_only (sub_mid rfl hm) ?_ ?_
      | refine setPhBit_only (sub_mid rfl hm) ?_ ?_
      | refine onPhase_only (sub_mid rfl hm) ?_
      | refine only_of_fst (by assumption) ?_
    | intro _
    | split
    | dsimp only
    | exact fieldIn_block (b := 12) rfl (bit_mid hm rfl))

theorem compatCurrent_only {μ : Nat} {s₀ : State} {s : State} {p : Nat} {raw : List Int} (hm : sub 18023194602508288 μ = true) (h₀ : Only μ s₀ s) : Only μ s₀ (State.compatCurrent s p raw).1 := by
  unfold State.compatCurrent
  try dsimp only
  repeat' (first
    | with_reducible first
      | exact h₀
      | exact Only.refl _
      | refine gainTo_only (sub_mid rfl hm) ?_
      | refine calibrate_only (sub_mid rfl hm) ?_
      | refine count_only (sub_mid rfl hm) ?_ ?_ ?_
      | refine raise_only (sub_mid rfl hm) ?_ ?_
      | refine only_of_fst (by assumption) ?_
    | intro _
    | split
    | dsimp only
    | exact fieldIn_block (b := 12) rfl (bit_mid hm rfl))

theorem accumulate_only {μ : Nat} {s₀ : State} {s : State} {m : Nat} {e : Nat} (hm : sub 8796093026304 μ = true) (h₀ : Only μ s₀ s) : Only μ s₀ (State.accumulate s m e) := by
  unfold State.accumulate
  try dsimp only
  repeat' (first
    | with_reducible first
      | exact h₀
      | exact Only.refl _
      | refine raise_only (sub_mid rfl hm) ?_ ?_
      | refine wr_only ?_ ?_
      | exact MTR_ACC_COUNT_in (bit_mid hm rfl)
      | refine only_of_fst (by assumption) ?_
    | intro _
    | split
    | dsimp only
    | exact fieldIn_block (b := 12) rfl (bit_mid hm rfl)
    | (with_reducible refine Only.upd rfl hm ?_ ?_; exact {}))

theorem book_only {μ : Nat} {s₀ : State} {s : State} {set : Nat} {n : Nat} {dur : Nat} {p : Int} {q : Int} {sv : Nat} (hm : sub 8796093026304 μ = true) (h₀ : Only μ s₀ s) : Only μ s₀ (State.book s set n dur p q sv) := by
  unfold State.book
  try dsimp only
  repeat' (first
    | with_reducible first
      | exact h₀
      | exact Only.refl _
      | refine accumulate_only (sub_mid rfl hm) ?_
      | refine only_of_fst (by assumption) ?_
    | intro _
    | split
    | dsimp only)

theorem meterEvent_only {μ : Nat} {s₀ : State} {s : State} {node : Nat} {kind : Nat} {payload : Octets} {stamp : Nat} (hm : sub 34607104 μ = true) (h₀ : Only μ s₀ s) : Only μ s₀ (State.meterEvent s node kind payload stamp) := by
  unfold State.meterEvent
  try dsimp only
  repeat' (first
    | with_reducible first
      | exact h₀
      | exact Only.refl _
      | refine raiseIf_only (sub_mid rfl hm) ?_ ?_
      | refine dcqOffer_only (sub_mid rfl hm) ?_
      | refine only_of_fst (by assumption) ?_
    | intro _
    | split
    | dsimp only
    | exact fieldIn_block (b := 12) rfl (bit_mid hm rfl))

theorem setVpres_only {μ : Nat} {s₀ : State} {s : State} {p : Nat} {b : Bool} {cause : Nat} {stamp : Nat} (hm : sub 34607104 μ = true) (h₀ : Only μ s₀ s) : Only μ s₀ (State.setVpres s p b cause stamp) := by
  unfold State.setVpres
  try dsimp only
  repeat' (first
    | with_reducible first
      | exact h₀
      | exact Only.refl _
      | refine setPhBit_only (sub_mid rfl hm) ?_ ?_
      | refine meterEvent_only (sub_mid rfl hm) ?_
      | refine raise_only (sub_mid rfl hm) ?_ ?_
      | refine only_of_fst (by assumption) ?_
    | intro _
    | split
    | dsimp only
    | exact fieldIn_block (b := 12) rfl (bit_mid hm rfl))

theorem windowDur_only {μ : Nat} {s₀ : State} {s : State} {w : MeterWindow} (hm : sub 18014398509481984 μ = true) (h₀ : Only μ s₀ s) : Only μ s₀ (State.windowDur s w).1 := by
  unfold State.windowDur
  try dsimp only
  repeat' (first
    | with_reducible first
      | exact h₀
      | exact Only.refl _
      | refine freeTick_only (sub_mid rfl hm) ?_
      | refine only_of_fst (by assumption) ?_
    | intro _
    | split
    | dsimp only)

theorem windowQ_only {μ : Nat} {s₀ : State} {s : State} {m : MeterSums} (hm : sub 18014398509481984 μ = true) (h₀ : Only μ s₀ s) : Only μ s₀ (State.windowQ s m).1 := by
  unfold State.windowQ
  try dsimp only
  repeat' (first
    | with_reducible first
      | exact h₀
      | exact Only.refl _
      | refine freeTick_only (sub_mid rfl hm) ?_
      | refine only_of_fst (by assumption) ?_
    | intro _
    | split
    | dsimp only)

theorem cycleGain_only {μ : Nat} {s₀ : State} {s : State} {p : Nat} {ts : Nat} {te : Nat} (hm : sub 8796093026304 μ = true) (h₀ : Only μ s₀ s) : Only μ s₀ (State.cycleGain s p ts te) := by
  unfold State.cycleGain
  try dsimp only
  repeat' (first
    | with_reducible first
      | exact h₀
      | exact Only.refl _
      | refine gainTo_only (sub_mid rfl hm) ?_
      | refine onPhase_only (sub_mid rfl hm) ?_
      | refine only_foldl ?_ ?_
      | refine only_foldl_pair ?_ ?_
      | refine only_of_fst (by assumption) ?_
    | intro _
    | split
    | dsimp only)

theorem totalQ_only {μ : Nat} {s₀ : State} {s : State} {live : List MeterSums} (hm : sub 18014398509481984 μ = true) (h₀ : Only μ s₀ s) : Only μ s₀ (State.totalQ s live).1 := by
  unfold State.totalQ
  try dsimp only
  repeat' (first
    | with_reducible first
      | exact h₀
      | exact Only.refl _
      | refine freeTick_only (sub_mid rfl hm) ?_
      | refine only_of_fst (by assumption) ?_
    | intro _
    | split
    | dsimp only)

theorem bookTotal_only {μ : Nat} {s₀ : State} {s : State} {live : List MeterSums} {n : Nat} {dur : Nat} (hm : sub 18023194602508288 μ = true) (h₀ : Only μ s₀ s) : Only μ s₀ (State.bookTotal s live n dur) := by
  unfold State.bookTotal
  try dsimp only
  repeat' (first
    | with_reducible first
      | exact h₀
      | exact Only.refl _
      | refine book_only (sub_mid rfl hm) ?_
      | refine totalQ_only (sub_mid rfl hm) ?_
      | refine only_of_fst (by assumption) ?_
    | intro _
    | split
    | dsimp only)

theorem noteFree_only {μ : Nat} {s₀ : State} {s : State} {k : Nat} (hm : sub 8796093022208 μ = true) (h₀ : Only μ s₀ s) : Only μ s₀ (State.noteFree s k) := by
  unfold State.noteFree
  try dsimp only
  repeat' (first
    | with_reducible first
      | exact h₀
      | exact Only.refl _
      | refine only_of_fst (by assumption) ?_
    | intro _
    | split
    | dsimp only
    | (with_reducible refine Only.upd rfl hm ?_ ?_; exact {}))

theorem noteReference_only {μ : Nat} {s₀ : State} {s : State} {free : Bool} {p : Int} {neutral : Nat} {ires : Nat} (hm : sub 8796093022208 μ = true) (h₀ : Only μ s₀ s) : Only μ s₀ (State.noteReference s free p neutral ires) := by
  unfold State.noteReference
  try dsimp only
  repeat' (first
    | with_reducible first
      | exact h₀
      | exact Only.refl _
      | refine noteFree_only (sub_mid rfl hm) ?_
      | refine only_of_fst (by assumption) ?_
    | intro _
    | split
    | dsimp only
    | (with_reducible refine Only.upd rfl hm ?_ ?_; exact {}))

theorem bookReference_only {μ : Nat} {s₀ : State} {s : State} {w : MeterWindow} {dur : Nat} {smp : List MeterSample} (hm : sub 18023194602508288 μ = true) (h₀ : Only μ s₀ s) : Only μ s₀ (State.bookReference s w dur smp) := by
  unfold State.bookReference
  try dsimp only
  repeat' (first
    | with_reducible first
      | exact h₀
      | exact Only.refl _
      | refine bookTotal_only (sub_mid rfl hm) ?_
      | refine noteReference_only (sub_mid rfl hm) ?_
      | refine wr_only ?_ ?_
      | refine only_of_fst (by assumption) ?_
    | intro _
    | split
    | dsimp only
    | exact fieldIn_block (b := 12) rfl (bit_mid hm rfl))

theorem bookPhase_only {μ : Nat} {s₀ : State} {s : State} {p : Nat} {dur : Nat} {m : MeterSums} {q : Int} {pw : Int} {qw : Int} {vrms : Nat} {irms : Nat} (hm : sub 8796093026304 μ = true) (h₀ : Only μ s₀ s) : Only μ s₀ (State.bookPhase s p dur m q pw qw vrms irms) := by
  unfold State.bookPhase
  try dsimp only
  repeat' (first
    | with_reducible first
      | exact h₀
      | exact Only.refl _
      | refine onPhase_only (sub_mid rfl hm) ?_
      | refine book_only (sub_mid rfl hm) ?_
      | refine wrI_only (sub_mid rfl hm) ?_ ?_
      | refine wr_only ?_ ?_
      | exact MTR_LIVE_W0_VRMS_in (bit_mid hm rfl)
      | exact MTR_LIVE_W1_IRMS_in (bit_mid hm rfl)
      | exact MTR_LIVE_W2_P_in (bit_mid hm rfl)
      | exact MTR_LIVE_W3_Q_in (bit_mid hm rfl)
      | refine only_of_fst (by assumption) ?_
    | intro _
    | split
    | dsimp only)

theorem bookVoltage_only {μ : Nat} {s₀ : State} {s : State} {w : MeterWindow} {m : MeterSums} (hm : sub 34607104 μ = true) (h₀ : Only μ s₀ s) : Only μ s₀ (State.bookVoltage s w m) := by
  unfold State.bookVoltage
  try dsimp only
  repeat' (first
    | with_reducible first
      | exact h₀
      | exact Only.refl _
      | refine setVpres_only (sub_mid rfl hm) ?_
      | refine setPhBit_only (sub_mid rfl hm) ?_ ?_
      | refine only_of_fst (by assumption) ?_
    | intro _
    | split
    | dsimp only
    | exact fieldIn_block (b := 12) rfl (bit_mid hm rfl))

theorem cycleEvent_only {μ : Nat} {s₀ : State} {s : State} {w : MeterWindow} {dur : Nat} {vrms : Nat} {irms : Nat} {pw : Int} {qw : Int} (hm : sub 34607104 μ = true) (h₀ : Only μ s₀ s) : Only μ s₀ (State.cycleEvent s w dur vrms irms pw qw) := by
  unfold State.cycleEvent
  try dsimp only
  repeat' (first
    | with_reducible first
      | exact h₀
      | exact Only.refl _
      | refine meterEvent_only (sub_mid rfl hm) ?_
      | refine only_of_fst (by assumption) ?_
    | intro _
    | split
    | dsimp only)

theorem bookWindow_only {μ : Nat} {s₀ : State} {s : State} {w : MeterWindow} (hm : sub 18023194637111296 μ = true) (h₀ : Only μ s₀ s) : Only μ s₀ (State.bookWindow s w) := by
  unfold State.bookWindow
  try dsimp only
  repeat' (first
    | with_reducible first
      | exact h₀
      | exact Only.refl _
      | refine bookReference_only (sub_mid rfl hm) ?_
      | refine bookPhase_only (sub_mid rfl hm) ?_
      | refine bookVoltage_only (sub_mid rfl hm) ?_
      | refine cycleEvent_only (sub_mid rfl hm) ?_
      | refine windowQ_only (sub_mid rfl hm) ?_
      | refine windowDur_only (sub_mid rfl hm) ?_
      | refine only_of_fst (by assumption) ?_
    | intro _
    | split
    | dsimp only)

theorem angleOctets_only {μ : Nat} {s₀ : State} {s : State} {a : Option Nat} (hm : sub 18014398509481984 μ = true) (h₀ : Only μ s₀ s) : Only μ s₀ (State.angleOctets s a).1 := by
  unfold State.angleOctets
  try dsimp only
  repeat' (first
    | with_reducible first
      | exact h₀
      | exact Only.refl _
      | refine freeTick_only (sub_mid rfl hm) ?_
      | refine only_of_fst (by assumption) ?_
    | intro _
    | split
    | dsimp only)

theorem summaryPayload_only {μ : Nat} {s₀ : State} {s : State} (hm : sub 18014398509481984 μ = true) (h₀ : Only μ s₀ s) : Only μ s₀ (State.summaryPayload s).1 := by
  unfold State.summaryPayload
  try dsimp only
  repeat' (first
    | with_reducible first
      | exact h₀
      | exact Only.refl _
      | refine freeTick_only (sub_mid rfl hm) ?_
      | refine angleOctets_only (sub_mid rfl hm) ?_
      | refine only_foldl ?_ ?_
      | refine only_foldl_pair ?_ ?_
      | refine only_of_fst (by assumption) ?_
    | intro _
    | split
    | dsimp only)

theorem formSummary_only {μ : Nat} {s₀ : State} {s : State} {next : Nat} (hm : sub 18023194602508288 μ = true) (h₀ : Only μ s₀ s) : Only μ s₀ (State.formSummary s next) := by
  unfold State.formSummary
  try dsimp only
  repeat' (first
    | with_reducible first
      | exact h₀
      | exact Only.refl _
      | refine raiseIf_only (sub_mid rfl hm) ?_ ?_
      | refine summaryPayload_only (sub_mid rfl hm) ?_
      | refine only_of_fst (by assumption) ?_
    | intro _
    | split
    | dsimp only
    | exact fieldIn_block (b := 12) rfl (bit_mid hm rfl)
    | (with_reducible refine Only.upd rfl hm ?_ ?_; exact {}))

theorem settleWindows_only {μ : Nat} {s₀ : State} {x0 : Nat} {s : State} (hm : sub 18023194637111296 μ = true) (h₀ : Only μ s₀ s) : Only μ s₀ (State.settleWindows x0 s) := by
  induction x0 generalizing s with
  | zero => exact h₀
  | succ n ih =>
    rw [State.settleWindows]
    extract_lets e
    split
    · split
      · exact ih (bookWindow_only (sub_mid rfl hm) (Only.upd rfl hm {} h₀))
      · exact h₀
    · split
      · split
        · exact ih (formSummary_only (sub_mid rfl hm) h₀)
        · exact h₀
      · exact h₀

theorem settleAll_only {μ : Nat} {s₀ : State} {s : State} (hm : sub 18023194637111296 μ = true) (h₀ : Only μ s₀ s) : Only μ s₀ (State.settleAll s) := by
  unfold State.settleAll
  try dsimp only
  repeat' (first
    | with_reducible first
      | exact h₀
      | exact Only.refl _
      | refine settleWindows_only (sub_mid rfl hm) ?_
      | refine only_of_fst (by assumption) ?_
    | intro _
    | split
    | dsimp only)

theorem endWindow_only {μ : Nat} {s₀ : State} {s : State} {p : Nat} {te : Nat} {crossing : Bool} {timeout : Bool} (hm : sub 8796093026304 μ = true) (h₀ : Only μ s₀ s) : Only μ s₀ (State.endWindow s p te crossing timeout) := by
  unfold State.endWindow
  try dsimp only
  repeat' (first
    | with_reducible first
      | exact h₀
      | exact Only.refl _
      | refine onPhase_only (sub_mid rfl hm) ?_
      | refine cycleGain_only (sub_mid rfl hm) ?_
      | refine only_of_fst (by assumption) ?_
    | intro _
    | split
    | dsimp only
    | (with_reducible refine Only.upd rfl hm ?_ ?_; exact {}))

theorem noteAngle_only {μ : Nat} {s₀ : State} {s : State} {p : Nat} {tc : Nat} (hm : sub 8796093022208 μ = true) (h₀ : Only μ s₀ s) : Only μ s₀ (State.noteAngle s p tc) := by
  unfold State.noteAngle
  try dsimp only
  repeat' (first
    | with_reducible first
      | exact h₀
      | exact Only.refl _
      | refine only_of_fst (by assumption) ?_
    | intro _
    | split
    | dsimp only
    | (with_reducible refine Only.upd rfl hm ?_ ?_; exact {}))

theorem crossing_only {μ : Nat} {s₀ : State} {s : State} {p : Nat} {tc : Nat} (hm : sub 8796093026304 μ = true) (h₀ : Only μ s₀ s) : Only μ s₀ (State.crossing s p tc) := by
  unfold State.crossing
  try dsimp only
  repeat' (first
    | with_reducible first
      | exact h₀
      | exact Only.refl _
      | refine setPhBit_only (sub_mid rfl hm) ?_ ?_
      | refine onPhase_only (sub_mid rfl hm) ?_
      | refine endWindow_only (sub_mid rfl hm) ?_
      | refine noteAngle_only (sub_mid rfl hm) ?_
      | refine only_of_fst (by assumption) ?_
    | intro _
    | split
    | dsimp only
    | exact fieldIn_block (b := 12) rfl (bit_mid hm rfl))

theorem watchCrossing_only {μ : Nat} {s₀ : State} {s : State} {p : Nat} {n : Nat} {a : Option Int} {b : Int} (hm : sub 8796093022208 μ = true) (h₀ : Only μ s₀ s) : Only μ s₀ (State.watchCrossing s p n a b).1 := by
  unfold State.watchCrossing
  try dsimp only
  repeat' (first
    | with_reducible first
      | exact h₀
      | exact Only.refl _
      | refine onPhase_only (sub_mid rfl hm) ?_
      | refine only_of_fst (by assumption) ?_
    | intro _
    | split
    | dsimp only)

theorem watchAll_only {μ : Nat} {s₀ : State} {s : State} {n : Nat} {prev : Option MeterSample} {x : MeterSample} (hm : sub 8796093026304 μ = true) (h₀ : Only μ s₀ s) : Only μ s₀ (State.watchAll s n prev x) := by
  unfold State.watchAll
  try dsimp only
  repeat' (first
    | with_reducible first
      | exact h₀
      | exact Only.refl _
      | refine crossing_only (sub_mid rfl hm) ?_
      | refine watchCrossing_only (sub_mid rfl hm) ?_
      | refine only_foldl ?_ ?_
      | refine only_foldl_pair ?_ ?_
      | refine only_of_fst (by assumption) ?_
    | intro _
    | split
    | dsimp only)

theorem settleStep_only {μ : Nat} {s₀ : State} {s : State} {p : Nat} {n : Nat} {x : MeterPhase} (hm : sub 8796093022208 μ = true) (h₀ : Only μ s₀ s) : Only μ s₀ (State.settleStep s p n x) := by
  unfold State.settleStep
  try dsimp only
  repeat' (first
    | with_reducible first
      | exact h₀
      | exact Only.refl _
      | refine onPhase_only (sub_mid rfl hm) ?_
      | refine only_of_fst (by assumption) ?_
    | intro _
    | split
    | dsimp only
    | (with_reducible refine Only.upd rfl hm ?_ ?_; exact {}))

theorem calibrateAll_only {μ : Nat} {s₀ : State} {s : State} {n : Nat} {raw : List Int} (hm : sub 18023194602508288 μ = true) (h₀ : Only μ s₀ s) : Only μ s₀ (State.calibrateAll s n raw).1 := by
  unfold State.calibrateAll
  try dsimp only
  repeat' (first
    | with_reducible first
      | exact h₀
      | exact Only.refl _
      | refine calibrate_only (sub_mid rfl hm) ?_
      | refine nativeCurrent_only (sub_mid rfl hm) ?_
      | refine compatCurrent_only (sub_mid rfl hm) ?_
      | refine only_of_fst (by assumption) ?_
    | intro _
    | split
    | dsimp only)

theorem noteCrease_only {μ : Nat} {s₀ : State} {s : State} {n : Nat} (hm : sub 8796093022208 μ = true) (h₀ : Only μ s₀ s) : Only μ s₀ (State.noteCrease s n) := by
  unfold State.noteCrease
  try dsimp only
  repeat' (first
    | with_reducible first
      | exact h₀
      | exact Only.refl _
      | refine only_of_fst (by assumption) ?_
    | intro _
    | split
    | dsimp only
    | (with_reducible refine Only.upd rfl hm ?_ ?_; exact {}))

theorem takeSample_only {μ : Nat} {s₀ : State} {s : State} {n : Nat} {raw : List Int} (hm : sub 18023194602508288 μ = true) (h₀ : Only μ s₀ s) : Only μ s₀ (State.takeSample s n raw) := by
  unfold State.takeSample
  try dsimp only
  repeat' (first
    | with_reducible first
      | exact h₀
      | exact Only.refl _
      | refine noteFree_only (sub_mid rfl hm) ?_
      | refine watchAll_only (sub_mid rfl hm) ?_
      | refine settleStep_only (sub_mid rfl hm) ?_
      | refine calibrateAll_only (sub_mid rfl hm) ?_
      | refine noteCrease_only (sub_mid rfl hm) ?_
      | refine only_foldl ?_ ?_
      | refine only_foldl_pair ?_ ?_
      | refine only_of_fst (by assumption) ?_
    | intro _
    | split
    | dsimp only
    | (with_reducible refine Only.upd rfl hm ?_ ?_; exact {}))

theorem crossingTimeout_only {μ : Nat} {s₀ : State} {s : State} {p : Nat} (hm : sub 18023194637111296 μ = true) (h₀ : Only μ s₀ s) : Only μ s₀ (State.crossingTimeout s p) := by
  unfold State.crossingTimeout
  try dsimp only
  repeat' (first
    | with_reducible first
      | exact h₀
      | exact Only.refl _
      | refine setPhBit_only (sub_mid rfl hm) ?_ ?_
      | refine setVpres_only (sub_mid rfl hm) ?_
      | refine settleAll_only (sub_mid rfl hm) ?_
      | refine count_only (sub_mid rfl hm) ?_ ?_ ?_
      | refine raise_only (sub_mid rfl hm) ?_ ?_
      | refine endWindow_only (sub_mid rfl hm) ?_
      | refine only_of_fst (by assumption) ?_
    | intro _
    | split
    | dsimp only
    | exact fieldIn_block (b := 12) rfl (bit_mid hm rfl))

theorem freeWindowEnd_only {μ : Nat} {s₀ : State} {s : State} {p : Nat} (hm : sub 18023194637111296 μ = true) (h₀ : Only μ s₀ s) : Only μ s₀ (State.freeWindowEnd s p) := by
  unfold State.freeWindowEnd
  try dsimp only
  repeat' (first
    | with_reducible first
      | exact h₀
      | exact Only.refl _
      | refine endWindow_only (sub_mid rfl hm) ?_
      | refine settleAll_only (sub_mid rfl hm) ?_
      | refine only_of_fst (by assumption) ?_
    | intro _
    | split
    | dsimp only)

theorem registerSummaries_only {μ : Nat} {s₀ : State} {s : State} (hm : sub 8796127629312 μ = true) (h₀ : Only μ s₀ s) : Only μ s₀ (State.registerSummaries s) := by
  unfold State.registerSummaries
  try dsimp only
  repeat' (first
    | with_reducible first
      | exact h₀
      | exact Only.refl _
      | refine meterEvent_only (sub_mid rfl hm) ?_
      | refine only_foldl ?_ ?_
      | refine only_foldl_pair ?_ ?_
      | refine only_of_fst (by assumption) ?_
    | intro _
    | split
    | dsimp only
    | (with_reducible refine Only.upd rfl hm ?_ ?_; exact {}))

theorem meterHalt_only {μ : Nat} {s₀ : State} {s : State} (hm : sub 8796093022208 μ = true) (h₀ : Only μ s₀ s) : Only μ s₀ (State.meterHalt s) := by
  unfold State.meterHalt
  try dsimp only
  repeat' (first
    | with_reducible first
      | exact h₀
      | exact Only.refl _
      | refine only_of_fst (by assumption) ?_
    | intro _
    | split
    | dsimp only
    | (with_reducible refine Only.upd rfl hm ?_ ?_; exact {}))

theorem meterEnable_only {μ : Nat} {s₀ : State} {s : State} {v : Nat} (hm : sub 8796093026304 μ = true) (h₀ : Only μ s₀ s) : Only μ s₀ (State.meterEnable s v) := by
  unfold State.meterEnable
  try dsimp only
  repeat' (first
    | with_reducible first
      | exact h₀
      | exact Only.refl _
      | refine meterHalt_only (sub_mid rfl hm) ?_
      | refine wr_only ?_ ?_
      | refine only_of_fst (by assumption) ?_
    | intro _
    | split
    | dsimp only
    | exact fieldIn_block (b := 12) rfl (bit_mid hm rfl)
    | (with_reducible refine Only.upd rfl hm ?_ ?_; exact {}))

theorem meterStart_only {μ : Nat} {s₀ : State} {s : State} (hm : sub 18023194602508288 μ = true) (h₀ : Only μ s₀ s) : Only μ s₀ (State.meterStart s) := by
  unfold State.meterStart
  try dsimp only
  repeat' (first
    | with_reducible first
      | exact h₀
      | exact Only.refl _
      | refine freeTick_only (sub_mid rfl hm) ?_
      | refine wr_only ?_ ?_
      | refine only_of_fst (by assumption) ?_
    | intro _
    | split
    | dsimp only
    | exact fieldIn_block (b := 12) rfl (bit_mid hm rfl)
    | (with_reducible refine Only.upd rfl hm ?_ ?_; exact {}))

theorem meterStop_only {μ : Nat} {s₀ : State} {s : State} (hm : sub 18023194637111296 μ = true) (h₀ : Only μ s₀ s) : Only μ s₀ (State.meterStop s) := by
  unfold State.meterStop
  try dsimp only
  repeat' (first
    | with_reducible first
      | exact h₀
      | exact Only.refl _
      | refine meterEnable_only (sub_mid rfl hm) ?_
      | refine setVpres_only (sub_mid rfl hm) ?_
      | refine bookWindow_only (sub_mid rfl hm) ?_
      | refine endWindow_only (sub_mid rfl hm) ?_
      | refine wr_only ?_ ?_
      | refine only_foldl ?_ ?_
      | refine only_foldl_pair ?_ ?_
      | refine only_of_fst (by assumption) ?_
    | intro _
    | split
    | dsimp only
    | exact fieldIn_block (b := 12) rfl (bit_mid hm rfl)
    | (with_reducible refine Only.upd rfl hm ?_ ?_; exact {}))

theorem meterSampleAt_only {μ : Nat} {s₀ : State} {s : State} {n : Nat} {raw : List Int} (hm : sub 18023194637111296 μ = true) (h₀ : Only μ s₀ s) : Only μ s₀ (State.meterSampleAt s n raw) := by
  unfold State.meterSampleAt
  try dsimp only
  repeat' (first
    | with_reducible first
      | exact h₀
      | exact Only.refl _
      | refine meterStop_only (sub_mid rfl hm) ?_
      | refine settleAll_only (sub_mid rfl hm) ?_
      | refine takeSample_only (sub_mid rfl hm) ?_
      | refine only_of_fst (by assumption) ?_
    | intro _
    | split
    | dsimp only)

theorem meterSample_only {μ : Nat} {s₀ : State} {s : State} {raw : List Int} (hm : sub 18023194637111296 μ = true) (h₀ : Only μ s₀ s) : Only μ s₀ (State.meterSample s raw) := by
  unfold State.meterSample
  try dsimp only
  repeat' (first
    | with_reducible first
      | exact h₀
      | exact Only.refl _
      | refine meterSampleAt_only (sub_mid rfl hm) ?_
      | refine only_of_fst (by assumption) ?_
    | intro _
    | split
    | dsimp only)

theorem stopSample_only {μ : Nat} {s₀ : State} {s : State} {raw : List Int} (hm : sub 18023194637111296 μ = true) (h₀ : Only μ s₀ s) : Only μ s₀ (State.stopSample s raw) := by
  unfold State.stopSample
  try dsimp only
  repeat' (first
    | with_reducible first
      | exact h₀
      | exact Only.refl _
      | refine meterSampleAt_only (sub_mid rfl hm) ?_
      | refine only_of_fst (by assumption) ?_
    | intro _
    | split
    | dsimp only)

theorem setSf1At_only {μ : Nat} {s₀ : State} {s : State} {path : Nat} {t : Option Nat} (hm : sub 8796093022208 μ = true) (h₀ : Only μ s₀ s) : Only μ s₀ (State.setSf1At s path t) := by
  unfold State.setSf1At
  try dsimp only
  repeat' (first
    | with_reducible first
      | exact h₀
      | exact Only.refl _
      | refine only_of_fst (by assumption) ?_
    | intro _
    | split
    | dsimp only
    | (with_reducible refine Only.upd rfl hm ?_ ?_; exact {}))

theorem sf1Drive_only {μ : Nat} {s₀ : State} {s : State} {path : Nat} {ns : Nat} (hm : sub 8796093022208 μ = true) (h₀ : Only μ s₀ s) : Only μ s₀ (State.sf1Drive s path ns) := by
  unfold State.sf1Drive
  try dsimp only
  repeat' (first
    | with_reducible first
      | exact h₀
      | exact Only.refl _
      | refine setSf1At_only (sub_mid rfl hm) ?_
      | refine only_of_fst (by assumption) ?_
    | intro _
    | split
    | dsimp only)

theorem sf1Assert_only {μ : Nat} {s₀ : State} {s : State} {path : Nat} (hm : sub 8796127629312 μ = true) (h₀ : Only μ s₀ s) : Only μ s₀ (State.sf1Assert s path) := by
  unfold State.sf1Assert
  try dsimp only
  repeat' (first
    | with_reducible first
      | exact h₀
      | exact Only.refl _
      | refine meterEvent_only (sub_mid rfl hm) ?_
      | refine setSf1At_only (sub_mid rfl hm) ?_
      | refine raise_only (sub_mid rfl hm) ?_ ?_
      | refine wr_only ?_ ?_
      | exact sf1Field_in (bit_mid hm rfl)
      | refine only_of_fst (by assumption) ?_
    | intro _
    | split
    | dsimp only
    | exact fieldIn_block (b := 12) rfl (bit_mid hm rfl)
    | (with_reducible refine Only.upd rfl hm ?_ ?_; exact {}))

theorem sf1Trip_only {μ : Nat} {s₀ : State} {s : State} {path : Nat} (hm : sub 8796127629312 μ = true) (h₀ : Only μ s₀ s) : Only μ s₀ (State.sf1Trip s path) := by
  unfold State.sf1Trip
  try dsimp only
  repeat' (first
    | with_reducible first
      | exact h₀
      | exact Only.refl _
      | refine sf1Assert_only (sub_mid rfl hm) ?_
      | refine only_of_fst (by assumption) ?_
    | intro _
    | split
    | dsimp only)

theorem sf1Release_only {μ : Nat} {s₀ : State} {s : State} {path : Nat} (hm : sub 8796093026304 μ = true) (h₀ : Only μ s₀ s) : Only μ s₀ (State.sf1Release s path) := by
  unfold State.sf1Release
  try dsimp only
  repeat' (first
    | with_reducible first
      | exact h₀
      | exact Only.refl _
      | refine setSf1At_only (sub_mid rfl hm) ?_
      | refine wr_only ?_ ?_
      | exact sf1Field_in (bit_mid hm rfl)
      | refine only_of_fst (by assumption) ?_
    | intro _
    | split
    | dsimp only)

theorem sf1Analog_only {μ : Nat} {s₀ : State} {s : State} {ires : Nat} {ns : Nat} (hm : sub 8796093022208 μ = true) (h₀ : Only μ s₀ s) : Only μ s₀ (State.sf1Analog s ires ns) := by
  unfold State.sf1Analog
  try dsimp only
  repeat' (first
    | with_reducible first
      | exact h₀
      | exact Only.refl _
      | refine sf1Drive_only (sub_mid rfl hm) ?_
      | refine only_of_fst (by assumption) ?_
    | intro _
    | split
    | dsimp only
    | (with_reducible refine Only.upd rfl hm ?_ ?_; exact {}))

theorem sf1Digital_only {μ : Nat} {s₀ : State} {s : State} {x : Int} (hm : sub 8796093022208 μ = true) (h₀ : Only μ s₀ s) : Only μ s₀ (State.sf1Digital s x) := by
  unfold State.sf1Digital
  try dsimp only
  repeat' (first
    | with_reducible first
      | exact h₀
      | exact Only.refl _
      | refine sf1Drive_only (sub_mid rfl hm) ?_
      | refine only_of_fst (by assumption) ?_
    | intro _
    | split
    | dsimp only
    | (with_reducible refine Only.upd rfl hm ?_ ?_; exact {}))

theorem sf1Disagree_only {μ : Nat} {s₀ : State} {s : State} (hm : sub 8796093026304 μ = true) (h₀ : Only μ s₀ s) : Only μ s₀ (State.sf1Disagree s) := by
  unfold State.sf1Disagree
  try dsimp only
  repeat' (first
    | with_reducible first
      | exact h₀
      | exact Only.refl _
      | refine raise_only (sub_mid rfl hm) ?_ ?_
      | refine only_of_fst (by assumption) ?_
    | intro _
    | split
    | dsimp only
    | exact fieldIn_block (b := 12) rfl (bit_mid hm rfl)
    | (with_reducible refine Only.upd rfl hm ?_ ?_; exact {}))

theorem sf1Thr_only {μ : Nat} {s₀ : State} {s : State} {v : Nat} (hm : sub 4096 μ = true) (h₀ : Only μ s₀ s) : Only μ s₀ (State.sf1Thr s v) := by
  unfold State.sf1Thr
  try dsimp only
  repeat' (first
    | with_reducible first
      | exact h₀
      | exact Only.refl _
      | refine wr_only ?_ ?_
      | refine only_of_fst (by assumption) ?_
    | intro _
    | split
    | dsimp only
    | exact fieldIn_block (b := 12) rfl (bit_mid hm rfl))

end Sys2Proof.Machine
end

