-- ==== Sys2Proof/Laws/OnlyLinks.lean ====
section
/-!
SUPPORT. The parts of the state that the operations may change (`Only`): the ports, the radios and the power line.
-/
set_option linter.unusedTactic false
set_option linter.unreachableTactic false
set_option linter.unusedVariables false

namespace Sys2Proof.Machine
set_option Elab.async false

/-! ### Frames -/

theorem addCorrection_only {μ : Nat} {s₀ : State} {s : State} {f : Octets} {p : Nat} {d : Int} (hm : sub 18014398509481984 μ = true) (h₀ : Only μ s₀ s) : Only μ s₀ (State.addCorrection s f p d).1 := by
  unfold State.addCorrection
  try dsimp only
  repeat' (first
    | with_reducible first
      | exact h₀
      | exact Only.refl _
      | refine fit_only (sub_mid rfl hm) ?_
      | refine only_of_fst (by assumption) ?_
    | intro _
    | split
    | dsimp only)

theorem noFix_only {μ : Nat} {s₀ : State} {s : State} (hm : sub 2 μ = true) (h₀ : Only μ s₀ s) : Only μ s₀ (State.noFix s) := by
  unfold State.noFix
  try dsimp only
  repeat' (first
    | with_reducible first
      | exact h₀
      | exact Only.refl _
      | refine raise_only (sub_mid rfl hm) ?_ ?_
      | refine countSat_only (sub_mid rfl hm) ?_ ?_ ?_
      | refine only_of_fst (by assumption) ?_
    | intro _
    | split
    | dsimp only
    | exact fieldIn_block (b := 1) rfl (bit_mid hm rfl))

theorem capture_only {μ : Nat} {s₀ : State} {s : State} {port : Nat} {seq : Nat} {t : Time} (hm : sub 2 μ = true) (h₀ : Only μ s₀ s) : Only μ s₀ (State.capture s port seq t) := by
  unfold State.capture
  try dsimp only
  repeat' (first
    | with_reducible first
      | exact h₀
      | exact Only.refl _
      | refine raise_only (sub_mid rfl hm) ?_ ?_
      | refine wr_only ?_ ?_
      | refine only_of_fst (by assumption) ?_
    | intro _
    | split
    | dsimp only
    | exact fieldIn_block (b := 1) rfl (bit_mid hm rfl))

theorem insert_only {μ : Nat} {s₀ : State} {s : State} {op : Nat} {port : Nat} {f : Octets} {t : Time} {from' : Time} {inPort : Nat} (hm : sub 18014398509481986 μ = true) (h₀ : Only μ s₀ s) : Only μ s₀ (State.insert s op port f t from' inPort).1 := by
  unfold State.insert
  try dsimp only
  repeat' (first
    | with_reducible first
      | exact h₀
      | exact Only.refl _
      | refine addCorrection_only (sub_mid rfl hm) ?_
      | refine noFix_only (sub_mid rfl hm) ?_
      | refine capture_only (sub_mid rfl hm) ?_
      | refine only_of_fst (by assumption) ?_
    | intro _
    | split
    | dsimp only)

theorem offset_only {μ : Nat} {s₀ : State} {s : State} {port : Nat} {t2 : Time} {t1 : Int} {c : Int} (hm : sub 18014398611193858 μ = true) (h₀ : Only μ s₀ s) : Only μ s₀ (State.offset s port t2 t1 c) := by
  unfold State.offset
  try dsimp only
  repeat' (first
    | with_reducible first
      | exact h₀
      | exact Only.refl _
      | refine sample_only (sub_mid rfl hm) ?_
      | refine only_of_fst (by assumption) ?_
    | intro _
    | split
    | dsimp only)

theorem followUp_only {μ : Nat} {s₀ : State} {s : State} {port : Nat} {f : Octets} {p : Nat} (hm : sub 18014398611193858 μ = true) (h₀ : Only μ s₀ s) : Only μ s₀ (State.followUp s port f p) := by
  unfold State.followUp
  try dsimp only
  repeat' (first
    | with_reducible first
      | exact h₀
      | exact Only.refl _
      | refine offset_only (sub_mid rfl hm) ?_
      | refine followMiss_only (sub_mid rfl hm) ?_
      | refine only_of_fst (by assumption) ?_
    | intro _
    | split
    | dsimp only
    | (with_reducible refine Only.upd rfl hm ?_ ?_; exact {}))

theorem extract_only {μ : Nat} {s₀ : State} {s : State} {port : Nat} {f : Octets} {t2 : Time} (hm : sub 18014398611193858 μ = true) (h₀ : Only μ s₀ s) : Only μ s₀ (State.extract s port f t2) := by
  unfold State.extract
  try dsimp only
  repeat' (first
    | with_reducible first
      | exact h₀
      | exact Only.refl _
      | refine offset_only (sub_mid rfl hm) ?_
      | refine followMiss_only (sub_mid rfl hm) ?_
      | refine followUp_only (sub_mid rfl hm) ?_
      | refine only_of_fst (by assumption) ?_
    | intro _
    | split
    | dsimp only
    | (with_reducible refine Only.upd rfl hm ?_ ?_; exact {}))

/-! ### Backhaul -/

theorem onPort_only {μ : Nat} {s₀ : State} {s : State} {p : Nat} {f : PortState → PortState} (hm : sub 17592186044416 μ = true) (h₀ : Only μ s₀ s) : Only μ s₀ (State.onPort s p f) := by
  unfold State.onPort
  try dsimp only
  repeat' (first
    | with_reducible first
      | exact h₀
      | exact Only.refl _
      | refine only_of_fst (by assumption) ?_
    | intro _
    | split
    | dsimp only
    | (with_reducible refine Only.upd rfl hm ?_ ?_; exact {}))

theorem setItems_only {μ : Nat} {s₀ : State} {s : State} {l : List TxItem} (hm : sub 17592186044416 μ = true) (h₀ : Only μ s₀ s) : Only μ s₀ (State.setItems s l) := by
  unfold State.setItems
  try dsimp only
  repeat' (first
    | with_reducible first
      | exact h₀
      | exact Only.refl _
      | refine only_of_fst (by assumption) ?_
    | intro _
    | split
    | dsimp only
    | (with_reducible refine Only.upd rfl hm ?_ ?_; exact {}))

theorem bhCount_only {μ : Nat} {s₀ : State} {s : State} {p : Nat} {m : Nat} {n : Nat} (hm : sub 1536 μ = true) (h₀ : Only μ s₀ s) : Only μ s₀ (State.bhCount s p m n) := by
  unfold State.bhCount
  try dsimp only
  repeat' (first
    | with_reducible first
      | exact h₀
      | exact Only.refl _
      | refine raise_only (sub_mid rfl hm) ?_ ?_
      | refine wr_only ?_ ?_
      | exact BHM_CNT_COUNT_in (bit_mid hm rfl) (bit_mid hm rfl)
      | exact BHM_HALF_HALF_in (bit_mid hm rfl) (bit_mid hm rfl)
      | exact BHM_STATUS_STATHALF_in (bit_mid hm rfl) (bit_mid hm rfl)
      | refine only_of_fst (by assumption) ?_
    | intro _
    | split
    | dsimp only)

theorem rxGood_only {μ : Nat} {s₀ : State} {s : State} {p : Nat} {f : Octets} (hm : sub 1536 μ = true) (h₀ : Only μ s₀ s) : Only μ s₀ (State.rxGood s p f) := by
  unfold State.rxGood
  try dsimp only
  repeat' (first
    | with_reducible first
      | exact h₀
      | exact Only.refl _
      | refine bhCount_only (sub_mid rfl hm) ?_
      | refine only_of_fst (by assumption) ?_
    | intro _
    | split
    | dsimp only)

theorem txGood_only {μ : Nat} {s₀ : State} {s : State} {p : Nat} {f : Octets} (hm : sub 1536 μ = true) (h₀ : Only μ s₀ s) : Only μ s₀ (State.txGood s p f) := by
  unfold State.txGood
  try dsimp only
  repeat' (first
    | with_reducible first
      | exact h₀
      | exact Only.refl _
      | refine bhCount_only (sub_mid rfl hm) ?_
      | refine only_of_fst (by assumption) ?_
    | intro _
    | split
    | dsimp only)

theorem dupTest_only {μ : Nat} {s₀ : State} {s : State} {src : Nat} {which : Nat} {q : Nat} (hm : sub 17592186044416 μ = true) (h₀ : Only μ s₀ s) : Only μ s₀ (State.dupTest s src which q).1 := by
  unfold State.dupTest
  try dsimp only
  repeat' (first
    | with_reducible first
      | exact h₀
      | exact Only.refl _
      | refine only_of_fst (by assumption) ?_
    | intro _
    | split
    | dsimp only
    | (with_reducible refine Only.upd rfl hm ?_ ?_; exact {}))

theorem dupForget_only {μ : Nat} {s₀ : State} {s : State} {src : Nat} (hm : sub 17592186044416 μ = true) (h₀ : Only μ s₀ s) : Only μ s₀ (State.dupForget s src) := by
  unfold State.dupForget
  try dsimp only
  repeat' (first
    | with_reducible first
      | exact h₀
      | exact Only.refl _
      | refine only_of_fst (by assumption) ?_
    | intro _
    | split
    | dsimp only
    | (with_reducible refine Only.upd rfl hm ?_ ?_; exact {}))

theorem sealRelease_only {μ : Nat} {s₀ : State} {s : State} {l : Lane} (hm : sub 8388612 μ = true) (h₀ : Only μ s₀ s) : Only μ s₀ (State.sealRelease s l) := by
  unfold State.sealRelease
  try dsimp only
  repeat' (first
    | with_reducible first
      | exact h₀
      | exact Only.refl _
      | refine advanceRead_only (sub_mid rfl hm) ?_
      | refine only_of_fst (by assumption) ?_
    | refine onLane_only_lanes (fun _ => rfl) (fun _ => by first | exact Nat.le_refl _ | exact Nat.zero_le _) (bit_mid hm rfl) ?_
    | intro _
    | split
    | dsimp only
    | (with_reducible refine Only.upd rfl hm ?_ ?_; exact {}))

theorem restEnd_only {μ : Nat} {s₀ : State} {s : State} (hm : sub 478150660 μ = true) (h₀ : Only μ s₀ s) : Only μ s₀ (State.restEnd s) := by
  unfold State.restEnd
  try dsimp only
  repeat' (first
    | with_reducible first
      | exact h₀
      | exact Only.refl _
      | refine sealRelease_only (sub_mid rfl hm) ?_
      | refine crzStart_only (sub_mid rfl hm) ?_
      | refine only_of_fst (by assumption) ?_
    | intro _
    | split
    | dsimp only
    | (with_reducible refine Only.upd rfl hm ?_ ?_; exact {}))

theorem drPattern_only {μ : Nat} {s₀ : State} {s : State} {x0 : Option (Nat × Nat)} (hm : sub 512 μ = true) (h₀ : Only μ s₀ s) : Only μ s₀ (State.drPattern s x0) := by
  unfold State.drPattern
  try dsimp only
  repeat' (first
    | with_reducible first
      | exact h₀
      | exact Only.refl _
      | refine wr_only ?_ ?_
      | refine only_of_fst (by assumption) ?_
    | intro _
    | split
    | dsimp only
    | exact fieldIn_block (b := 9) rfl (bit_mid hm rfl))

theorem drMore_only {μ : Nat} {s₀ : State} {s : State} {pat : Option (Nat × Nat)} {time : Bool} {trip : Bool} (hm : sub 512 μ = true) (h₀ : Only μ s₀ s) : Only μ s₀ (State.drMore s pat time trip) := by
  unfold State.drMore
  try dsimp only
  repeat' (first
    | with_reducible first
      | exact h₀
      | exact Only.refl _
      | refine drPattern_only (sub_mid rfl hm) ?_
      | refine raiseIf_only (sub_mid rfl hm) ?_ ?_
      | refine only_of_fst (by assumption) ?_
    | intro _
    | split
    | dsimp only
    | exact fieldIn_block (b := 9) rfl (bit_mid hm rfl))

theorem drEnd_only {μ : Nat} {s₀ : State} {s : State} {pat : Option (Nat × Nat)} {time : Bool} {trip : Bool} (hm : sub 17592664196612 μ = true) (h₀ : Only μ s₀ s) : Only μ s₀ (State.drEnd s pat time trip) := by
  unfold State.drEnd
  try dsimp only
  repeat' (first
    | with_reducible first
      | exact h₀
      | exact Only.refl _
      | refine raise_only (sub_mid rfl hm) ?_ ?_
      | refine restEnd_only (sub_mid rfl hm) ?_
      | refine drPattern_only (sub_mid rfl hm) ?_
      | refine drMore_only (sub_mid rfl hm) ?_
      | refine wr_only ?_ ?_
      | exact BHM_STATUS_DRWAKE_in (bit_mid hm rfl) (bit_mid hm rfl)
      | refine only_of_fst (by assumption) ?_
    | intro _
    | split
    | dsimp only
    | exact fieldIn_block (b := 9) rfl (bit_mid hm rfl)
    | (with_reducible refine Only.upd rfl hm ?_ ?_; exact {}))

theorem watchPatterns_only {μ : Nat} {s₀ : State} {s : State} {p : Nat} {f : Octets} (hm : sub 17592664196612 μ = true) (h₀ : Only μ s₀ s) : Only μ s₀ (State.watchPatterns s p f) := by
  unfold State.watchPatterns
  try dsimp only
  repeat' (first
    | with_reducible first
      | exact h₀
      | exact Only.refl _
      | refine drEnd_only (sub_mid rfl hm) ?_
      | refine only_of_fst (by assumption) ?_
    | intro _
    | split
    | dsimp only)

theorem drWakeTime_only {μ : Nat} {s₀ : State} {s : State} (hm : sub 17592664196612 μ = true) (h₀ : Only μ s₀ s) : Only μ s₀ (State.drWakeTime s) := by
  unfold State.drWakeTime
  try dsimp only
  repeat' (first
    | with_reducible first
      | exact h₀
      | exact Only.refl _
      | refine drEnd_only (sub_mid rfl hm) ?_
      | refine only_of_fst (by assumption) ?_
    | intro _
    | split
    | dsimp only)

theorem drEnter_only {μ : Nat} {s₀ : State} {s : State} {key : Nat} {enter : Nat} (hm : sub 1536 μ = true) (h₀ : Only μ s₀ s) : Only μ s₀ (State.drEnter s key enter) := by
  unfold State.drEnter
  try dsimp only
  repeat' (first
    | with_reducible first
      | exact h₀
      | exact Only.refl _
      | refine raise_only (sub_mid rfl hm) ?_ ?_
      | refine wr_only ?_ ?_
      | exact BHM_STATUS_DRREJ_in (bit_mid hm rfl) (bit_mid hm rfl)
      | refine only_of_fst (by assumption) ?_
    | intro _
    | split
    | dsimp only
    | exact fieldIn_block (b := 9) rfl (bit_mid hm rfl))

theorem toService_only {μ : Nat} {s₀ : State} {s : State} {p : Nat} {rule : Nat} {f : Octets} {t : Time} {hsr : Bool} {prp : Bool} {poison : Bool} (hm : sub 16778752 μ = true) (h₀ : Only μ s₀ s) : Only μ s₀ (State.toService s p rule f t hsr prp poison) := by
  unfold State.toService
  try dsimp only
  repeat' (first
    | with_reducible first
      | exact h₀
      | exact Only.refl _
      | refine raise_only (sub_mid rfl hm) ?_ ?_
      | refine sramWrite_only (sub_mid rfl hm) ?_
      | refine wr_only ?_ ?_
      | exact BHM_SRX_WR_VALUE_in (bit_mid hm rfl) (bit_mid hm rfl)
      | exact BHM_STATUS_SRXFULL_in (bit_mid hm rfl) (bit_mid hm rfl)
      | exact BHM_STATUS_SRXNEW_in (bit_mid hm rfl) (bit_mid hm rfl)
      | refine only_of_fst (by assumption) ?_
    | intro _
    | split
    | dsimp only)

theorem takeFrame_only {μ : Nat} {s₀ : State} {s : State} {p : Nat} {raw : Octets} {t : Time} {meet : RxMeet} (hm : sub 17593252447812 μ = true) (h₀ : Only μ s₀ s) : Only μ s₀ (State.takeFrame s p raw t meet) := by
  unfold State.takeFrame
  try dsimp only
  repeat' (first
    | with_reducible first
      | exact h₀
      | exact Only.refl _
      | refine toService_only (sub_mid rfl hm) ?_
      | refine dcqOffer_only (sub_mid rfl hm) ?_
      | refine intakeOffer_only (sub_mid rfl hm) ?_
      | refine dcqOverflow_only (sub_mid rfl hm) ?_
      | refine bhCount_only (sub_mid rfl hm) ?_
      | refine raise_only (sub_mid rfl hm) ?_ ?_
      | refine watchPatterns_only (sub_mid rfl hm) ?_
      | exact BHM_STATUS_RXOVF_in (bit_mid hm rfl) (bit_mid hm rfl)
      | refine only_of_fst (by assumption) ?_
    | intro _
    | split
    | dsimp only)

theorem fwdOverflow_only {μ : Nat} {s₀ : State} {s : State} {q : Nat} {kept : List Forward} {written : Nat} (hm : sub 17592187094528 μ = true) (h₀ : Only μ s₀ s) : Only μ s₀ (State.fwdOverflow s q kept written) := by
  unfold State.fwdOverflow
  try dsimp only
  repeat' (first
    | with_reducible first
      | exact h₀
      | exact Only.refl _
      | refine dcqCount_only (sub_mid rfl hm) ?_
      | refine setFwd_only (sub_mid rfl hm) ?_
      | refine dcqDiscard_only (sub_mid rfl hm) ?_
      | refine bhCount_only (sub_mid rfl hm) ?_
      | refine raise_only (sub_mid rfl hm) ?_ ?_
      | exact BHM_STATUS_FWDDROP_in (bit_mid hm rfl) (bit_mid hm rfl)
      | refine only_of_fst (by assumption) ?_
    | intro _
    | split
    | dsimp only)

theorem offerForward_only {μ : Nat} {s₀ : State} {s : State} {q : Nat} {x : Forward} {meet : RxMeet} (hm : sub 17592187094528 μ = true) (h₀ : Only μ s₀ s) : Only μ s₀ (State.offerForward s q x meet) := by
  unfold State.offerForward
  try dsimp only
  repeat' (first
    | with_reducible first
      | exact h₀
      | exact Only.refl _
      | refine setFwd_only (sub_mid rfl hm) ?_
      | refine dcqCount_only (sub_mid rfl hm) ?_
      | refine fwdOverflow_only (sub_mid rfl hm) ?_
      | refine bhCount_only (sub_mid rfl hm) ?_
      | refine only_of_fst (by assumption) ?_
    | intro _
    | split
    | dsimp only)

theorem ringForward_only {μ : Nat} {s₀ : State} {s : State} {p : Nat} {f : Octets} {t : Time} {bad : Bool} {meet : RxMeet} (hm : sub 17592187094528 μ = true) (h₀ : Only μ s₀ s) : Only μ s₀ (State.ringForward s p f t bad meet).1 := by
  unfold State.ringForward
  try dsimp only
  repeat' (first
    | with_reducible first
      | exact h₀
      | exact Only.refl _
      | refine offerForward_only (sub_mid rfl hm) ?_
      | refine bhCount_only (sub_mid rfl hm) ?_
      | refine dupTest_only (sub_mid rfl hm) ?_
      | refine only_of_fst (by assumption) ?_
    | intro _
    | split
    | dsimp only)

theorem acceptOnce_only {μ : Nat} {s₀ : State} {s : State} {p : Nat} {src : Nat} {q : Nat} {f : Octets} {t : Time} {meet : RxMeet} (hm : sub 17593252447812 μ = true) (h₀ : Only μ s₀ s) : Only μ s₀ (State.acceptOnce s p src q f t meet) := by
  unfold State.acceptOnce
  try dsimp only
  repeat' (first
    | with_reducible first
      | exact h₀
      | exact Only.refl _
      | refine bhCount_only (sub_mid rfl hm) ?_
      | refine takeFrame_only (sub_mid rfl hm) ?_
      | refine dupTest_only (sub_mid rfl hm) ?_
      | refine only_of_fst (by assumption) ?_
    | intro _
    | split
    | dsimp only)

theorem receiveFrame_only {μ : Nat} {s₀ : State} {s : State} {p : Nat} {f : Octets} {t : Time} {good : Bool} {bad : Bool} {meet : RxMeet} (hm : sub 18031991761929798 μ = true) (h₀ : Only μ s₀ s) : Only μ s₀ (State.receiveFrame s p f t good bad meet) := by
  unfold State.receiveFrame
  try dsimp only
  repeat' (first
    | with_reducible first
      | exact h₀
      | exact Only.refl _
      | refine takeFrame_only (sub_mid rfl hm) ?_
      | refine acceptOnce_only (sub_mid rfl hm) ?_
      | refine bhCount_only (sub_mid rfl hm) ?_
      | refine ringForward_only (sub_mid rfl hm) ?_
      | refine extract_only (sub_mid rfl hm) ?_
      | refine only_of_fst (by assumption) ?_
    | intro _
    | split
    | dsimp only)

theorem control_only {μ : Nat} {s₀ : State} {s : State} {p : Nat} {part : MPacket} (hm : sub 4503599627370496 μ = true) (h₀ : Only μ s₀ s) : Only μ s₀ (State.control s p part) := by
  unfold State.control
  try dsimp only
  repeat' (first
    | with_reducible first
      | exact h₀
      | exact Only.refl _
      | refine emit_only (sub_mid rfl hm) ?_
      | refine only_of_fst (by assumption) ?_
    | intro _
    | split
    | dsimp only)

theorem verifyReceive_only {μ : Nat} {s₀ : State} {s : State} {p : Nat} (hm : sub 4503599627370496 μ = true) (h₀ : Only μ s₀ s) : Only μ s₀ (State.verifyReceive s p) := by
  unfold State.verifyReceive
  try dsimp only
  repeat' (first
    | with_reducible first
      | exact h₀
      | exact Only.refl _
      | refine control_only (sub_mid rfl hm) ?_
      | refine only_of_fst (by assumption) ?_
    | intro _
    | split
    | dsimp only)

theorem rxCount_only {μ : Nat} {s₀ : State} {s : State} {p : Nat} {f : Octets} {e : RxError} (hm : sub 1536 μ = true) (h₀ : Only μ s₀ s) : Only μ s₀ (State.rxCount s p f e) := by
  unfold State.rxCount
  try dsimp only
  repeat' (first
    | with_reducible first
      | exact h₀
      | exact Only.refl _
      | refine rxGood_only (sub_mid rfl hm) ?_
      | refine bhCount_only (sub_mid rfl hm) ?_
      | refine only_of_fst (by assumption) ?_
    | intro _
    | split
    | dsimp only)

theorem bhReceive_only {μ : Nat} {s₀ : State} {s : State} {p : Nat} {symbol : Nat} {f : Octets} {meet : RxMeet} (hm : sub 22535591389300294 μ = true) (h₀ : Only μ s₀ s) : Only μ s₀ (State.bhReceive s p symbol f meet) := by
  unfold State.bhReceive
  try dsimp only
  repeat' (first
    | with_reducible first
      | exact h₀
      | exact Only.refl _
      | refine receiveFrame_only (sub_mid rfl hm) ?_
      | refine bhCount_only (sub_mid rfl hm) ?_
      | refine rxCount_only (sub_mid rfl hm) ?_
      | refine verifyReceive_only (sub_mid rfl hm) ?_
      | refine only_of_fst (by assumption) ?_
    | intro _
    | split
    | dsimp only)

theorem txWriteBack_only {μ : Nat} {s₀ : State} {s : State} {p : Nat} {i : Nat} {result : Nat} {nseg : Nat} {irq : Bool} (hm : sub 17592186044416 μ = true) (h₀ : Only μ s₀ s) : Only μ s₀ (State.txWriteBack s p i result nseg irq) := by
  unfold State.txWriteBack
  try dsimp only
  repeat' (first
    | with_reducible first
      | exact h₀
      | exact Only.refl _
      | refine only_of_fst (by assumption) ?_
    | intro _
    | split
    | dsimp only
    | (with_reducible refine Only.upd rfl hm ?_ ?_; exact {}))

theorem txWriteNow_only {μ : Nat} {s₀ : State} {s : State} {b : WriteBack} (hm : sub 16778752 μ = true) (h₀ : Only μ s₀ s) : Only μ s₀ (State.txWriteNow s b) := by
  unfold State.txWriteNow
  try dsimp only
  repeat' (first
    | with_reducible first
      | exact h₀
      | exact Only.refl _
      | refine sramWrite_only (sub_mid rfl hm) ?_
      | refine raiseIf_only (sub_mid rfl hm) ?_ ?_
      | exact BHM_STATUS_TXDONE_in (bit_mid hm rfl) (bit_mid hm rfl)
      | refine only_of_fst (by assumption) ?_
    | intro _
    | split
    | dsimp only)

theorem dropBacks_only {μ : Nat} {s₀ : State} {s : State} {ring : Nat} (hm : sub 17592186044416 μ = true) (h₀ : Only μ s₀ s) : Only μ s₀ (State.dropBacks s ring) := by
  unfold State.dropBacks
  try dsimp only
  repeat' (first
    | with_reducible first
      | exact h₀
      | exact Only.refl _
      | refine only_of_fst (by assumption) ?_
    | intro _
    | split
    | dsimp only
    | (with_reducible refine Only.upd rfl hm ?_ ?_; exact {}))

theorem flushBacks_only {μ : Nat} {s₀ : State} {s : State} {p : Nat} (hm : sub 17592202823168 μ = true) (h₀ : Only μ s₀ s) : Only μ s₀ (State.flushBacks s p) := by
  unfold State.flushBacks
  try dsimp only
  repeat' (first
    | with_reducible first
      | exact h₀
      | exact Only.refl _
      | refine dropBacks_only (sub_mid rfl hm) ?_
      | refine txWriteNow_only (sub_mid rfl hm) ?_
      | refine only_foldl ?_ ?_
      | refine only_foldl_pair ?_ ?_
      | refine only_of_fst (by assumption) ?_
    | intro _
    | split
    | dsimp only)

theorem txFetch_only {μ : Nat} {s₀ : State} {s : State} {p : Nat} {i : Nat} (hm : sub 17592186045952 μ = true) (h₀ : Only μ s₀ s) : Only μ s₀ (State.txFetch s p i) := by
  unfold State.txFetch
  try dsimp only
  repeat' (first
    | with_reducible first
      | exact h₀
      | exact Only.refl _
      | refine setItems_only (sub_mid rfl hm) ?_
      | refine bhCount_only (sub_mid rfl hm) ?_
      | refine raise_only (sub_mid rfl hm) ?_ ?_
      | refine txWriteBack_only (sub_mid rfl hm) ?_
      | exact BHM_STATUS_TXERR_in (bit_mid hm rfl) (bit_mid hm rfl)
      | refine only_of_fst (by assumption) ?_
    | intro _
    | split
    | dsimp only)

theorem txFetchAll_only {μ : Nat} {s₀ : State} {p : Nat} {x0 : Nat} {s : State} (hm : sub 17592186045952 μ = true) (h₀ : Only μ s₀ s) : Only μ s₀ (txFetchAll p x0 s) := by
  induction x0 generalizing s with
  | zero => exact h₀
  | succ n ih =>
    rw [txFetchAll]
    split
    · exact h₀
    · exact ih (wr_only (BHM_TX_HEAD_VALUE_in (bit_mid hm rfl) (bit_mid hm rfl)) (txFetch_only (sub_mid rfl hm) h₀))

theorem txRun_only {μ : Nat} {s₀ : State} {s : State} {p : Nat} (hm : sub 17592186045952 μ = true) (h₀ : Only μ s₀ s) : Only μ s₀ (State.txRun s p) := by
  unfold State.txRun
  try dsimp only
  repeat' (first
    | with_reducible first
      | exact h₀
      | exact Only.refl _
      | refine txFetchAll_only (sub_mid rfl hm) ?_
      | refine only_of_fst (by assumption) ?_
    | intro _
    | split
    | dsimp only)

theorem txTail_only {μ : Nat} {s₀ : State} {s : State} {p : Nat} {v : Nat} (hm : sub 17592186045952 μ = true) (h₀ : Only μ s₀ s) : Only μ s₀ (State.txTail s p v) := by
  unfold State.txTail
  try dsimp only
  repeat' (first
    | with_reducible first
      | exact h₀
      | exact Only.refl _
      | refine txRun_only (sub_mid rfl hm) ?_
      | refine wr_only ?_ ?_
      | exact BHM_TX_TAIL_VALUE_in (bit_mid hm rfl) (bit_mid hm rfl)
      | refine only_of_fst (by assumption) ?_
    | intro _
    | split
    | dsimp only)

theorem queueDatagram_only {μ : Nat} {s₀ : State} {s : State} {tc : Nat} {dport : Option Nat} {payload : Octets} (hm : sub 17592186044416 μ = true) (h₀ : Only μ s₀ s) : Only μ s₀ (State.queueDatagram s tc dport payload) := by
  unfold State.queueDatagram
  try dsimp only
  repeat' (first
    | with_reducible first
      | exact h₀
      | exact Only.refl _
      | refine setItems_only (sub_mid rfl hm) ?_
      | refine only_of_fst (by assumption) ?_
    | intro _
    | split
    | dsimp only)

theorem turnTaken_only {μ : Nat} {s₀ : State} {s : State} {p : Nat} {tc : Nat} {forwarded : Bool} (hm : sub 17592186044416 μ = true) (h₀ : Only μ s₀ s) : Only μ s₀ (State.turnTaken s p tc forwarded) := by
  unfold State.turnTaken
  try dsimp only
  repeat' (first
    | with_reducible first
      | exact h₀
      | exact Only.refl _
      | refine onPort_only (sub_mid rfl hm) ?_
      | refine only_of_fst (by assumption) ?_
    | intro _
    | split
    | dsimp only)

theorem putItem_only {μ : Nat} {s₀ : State} {s : State} {old : TxItem} {new : TxItem} (hm : sub 17592186044416 μ = true) (h₀ : Only μ s₀ s) : Only μ s₀ (State.putItem s old new) := by
  unfold State.putItem
  try dsimp only
  repeat' (first
    | with_reducible first
      | exact h₀
      | exact Only.refl _
      | refine setItems_only (sub_mid rfl hm) ?_
      | refine only_of_fst (by assumption) ?_
    | intro _
    | split
    | dsimp only)

theorem descDone_only {μ : Nat} {s₀ : State} {s : State} {p : Nat} {i : Nat} {result : Nat} (hm : sub 17592186044416 μ = true) (h₀ : Only μ s₀ s) : Only μ s₀ (State.descDone s p i result) := by
  unfold State.descDone
  try dsimp only
  repeat' (first
    | with_reducible first
      | exact h₀
      | exact Only.refl _
      | refine setItems_only (sub_mid rfl hm) ?_
      | refine txWriteBack_only (sub_mid rfl hm) ?_
      | refine only_of_fst (by assumption) ?_
    | intro _
    | split
    | dsimp only)

theorem itemDone_only {μ : Nat} {s₀ : State} {s : State} {x : TxItem} (hm : sub 17592186044416 μ = true) (h₀ : Only μ s₀ s) : Only μ s₀ (State.itemDone s x) := by
  unfold State.itemDone
  try dsimp only
  repeat' (first
    | with_reducible first
      | exact h₀
      | exact Only.refl _
      | refine descDone_only (sub_mid rfl hm) ?_
      | refine setItems_only (sub_mid rfl hm) ?_
      | refine only_of_fst (by assumption) ?_
    | intro _
    | split
    | dsimp only)

theorem itemSeq_only {μ : Nat} {s₀ : State} {s : State} {x : TxItem} {raw : Bool} (hm : sub 512 μ = true) (h₀ : Only μ s₀ s) : Only μ s₀ (State.itemSeq s x raw).1 := by
  unfold State.itemSeq
  try dsimp only
  repeat' (first
    | with_reducible first
      | exact h₀
      | exact Only.refl _
      | refine wr_only ?_ ?_
      | refine only_of_fst (by assumption) ?_
    | intro _
    | split
    | dsimp only
    | exact fieldIn_block (b := 9) rfl (bit_mid hm rfl))

theorem emitFragments_only {μ : Nat} {s₀ : State} {s : State} {p : Nat} {bad : Bool} {part : MPacket} {done : Octets} {x0 : List Octets} (hm : sub 4503599627370496 μ = true) (h₀ : Only μ s₀ s) : Only μ s₀ (State.emitFragments s p bad part done x0) := by
  induction x0 generalizing part done s with
  | nil => exact h₀
  | cons f t ih =>
    cases t with
    | nil => exact emit_only (sub_mid rfl hm) h₀
    | cons g t => exact ih (emit_only (sub_mid rfl hm) h₀)

theorem sendFrame_only {μ : Nat} {s₀ : State} {s : State} {p : Nat} {tc : Nat} {f : Octets} {bad : Bool} {cuts : List Nat} (hm : sub 4503599627372032 μ = true) (h₀ : Only μ s₀ s) : Only μ s₀ (State.sendFrame s p tc f bad cuts) := by
  unfold State.sendFrame
  try dsimp only
  repeat' (first
    | with_reducible first
      | exact h₀
      | exact Only.refl _
      | refine emitFragments_only (sub_mid rfl hm) ?_
      | refine bhCount_only (sub_mid rfl hm) ?_
      | refine txGood_only (sub_mid rfl hm) ?_
      | refine only_of_fst (by assumption) ?_
    | intro _
    | split
    | dsimp only)

theorem sendLocal_only {μ : Nat} {s₀ : State} {s : State} {p : Nat} {symbol : Nat} {meet : TxMeet} {x : TxItem} (hm : sub 22535590323947010 μ = true) (h₀ : Only μ s₀ s) : Only μ s₀ (State.sendLocal s p symbol meet x) := by
  unfold State.sendLocal
  try dsimp only
  repeat' (first
    | with_reducible first
      | exact h₀
      | exact Only.refl _
      | refine putItem_only (sub_mid rfl hm) ?_
      | refine turnTaken_only (sub_mid rfl hm) ?_
      | refine itemDone_only (sub_mid rfl hm) ?_
      | refine sendFrame_only (sub_mid rfl hm) ?_
      | refine dcqPoison_only (sub_mid rfl hm) ?_
      | refine insert_only (sub_mid rfl hm) ?_
      | refine itemSeq_only (sub_mid rfl hm) ?_
      | refine bhCount_only (sub_mid rfl hm) ?_
      | refine only_of_fst (by assumption) ?_
    | intro _
    | split
    | dsimp only)

theorem txSend_only {μ : Nat} {s₀ : State} {s : State} {p : Nat} {symbol : Nat} {meet : TxMeet} (hm : sub 22535590323947010 μ = true) (h₀ : Only μ s₀ s) : Only μ s₀ (State.txSend s p symbol meet) := by
  unfold State.txSend
  try dsimp only
  repeat' (first
    | with_reducible first
      | exact h₀
      | exact Only.refl _
      | refine sendLocal_only (sub_mid rfl hm) ?_
      | refine only_of_fst (by assumption) ?_
    | intro _
    | split
    | dsimp only)

theorem forward_only {μ : Nat} {s₀ : State} {s : State} {p : Nat} {symbol : Nat} {meet : TxMeet} (hm : sub 22535590323947010 μ = true) (h₀ : Only μ s₀ s) : Only μ s₀ (State.forward s p symbol meet) := by
  unfold State.forward
  try dsimp only
  repeat' (first
    | with_reducible first
      | exact h₀
      | exact Only.refl _
      | refine bhCount_only (sub_mid rfl hm) ?_
      | refine raiseIf_only (sub_mid rfl hm) ?_ ?_
      | refine sendFrame_only (sub_mid rfl hm) ?_
      | refine dcqPoison_only (sub_mid rfl hm) ?_
      | refine insert_only (sub_mid rfl hm) ?_
      | refine setFwd_only (sub_mid rfl hm) ?_
      | refine dcqCount_only (sub_mid rfl hm) ?_
      | refine turnTaken_only (sub_mid rfl hm) ?_
      | exact BHM_STATUS_STOMP_in (bit_mid hm rfl) (bit_mid hm rfl)
      | refine only_of_fst (by assumption) ?_
    | intro _
    | split
    | dsimp only)

theorem startVerify_only {μ : Nat} {s₀ : State} {s : State} {p : Nat} (hm : sub 4521191813416448 μ = true) (h₀ : Only μ s₀ s) : Only μ s₀ (State.startVerify s p) := by
  unfold State.startVerify
  try dsimp only
  repeat' (first
    | with_reducible first
      | exact h₀
      | exact Only.refl _
      | refine onPort_only (sub_mid rfl hm) ?_
      | refine control_only (sub_mid rfl hm) ?_
      | refine wr_only ?_ ?_
      | exact BHM_CTRL_PVERIFIED_in (bit_mid hm rfl) (bit_mid hm rfl)
      | refine only_of_fst (by assumption) ?_
    | intro _
    | split
    | dsimp only)

theorem linkUp_only {μ : Nat} {s₀ : State} {s : State} {p : Nat} {speed : Nat} {half : Bool} (hm : sub 4521191813416448 μ = true) (h₀ : Only μ s₀ s) : Only μ s₀ (State.linkUp s p speed half) := by
  unfold State.linkUp
  try dsimp only
  repeat' (first
    | with_reducible first
      | exact h₀
      | exact Only.refl _
      | refine startVerify_only (sub_mid rfl hm) ?_
      | refine txRun_only (sub_mid rfl hm) ?_
      | refine onPort_only (sub_mid rfl hm) ?_
      | refine raiseIf_only (sub_mid rfl hm) ?_ ?_
      | refine raise_only (sub_mid rfl hm) ?_ ?_
      | refine wr_only ?_ ?_
      | exact BHM_CTRL_LINK_in (bit_mid hm rfl) (bit_mid hm rfl)
      | exact BHM_CTRL_RUNST_in (bit_mid hm rfl) (bit_mid hm rfl)
      | exact BHM_CTRL_SGSPD_in (bit_mid hm rfl) (bit_mid hm rfl)
      | exact BHM_STATUS_LINKCHG_in (bit_mid hm rfl) (bit_mid hm rfl)
      | exact BHM_STATUS_MODEERR_in (bit_mid hm rfl) (bit_mid hm rfl)
      | refine only_of_fst (by assumption) ?_
    | intro _
    | split
    | dsimp only)

theorem linkDown_only {μ : Nat} {s₀ : State} {s : State} {p : Nat} (hm : sub 17592186045952 μ = true) (h₀ : Only μ s₀ s) : Only μ s₀ (State.linkDown s p) := by
  unfold State.linkDown
  try dsimp only
  repeat' (first
    | with_reducible first
      | exact h₀
      | exact Only.refl _
      | refine onPort_only (sub_mid rfl hm) ?_
      | refine raise_only (sub_mid rfl hm) ?_ ?_
      | refine wr_only ?_ ?_
      | exact BHM_CTRL_LINK_in (bit_mid hm rfl) (bit_mid hm rfl)
      | exact BHM_CTRL_PVERIFIED_in (bit_mid hm rfl) (bit_mid hm rfl)
      | exact BHM_STATUS_LINKCHG_in (bit_mid hm rfl) (bit_mid hm rfl)
      | refine only_of_fst (by assumption) ?_
    | intro _
    | split
    | dsimp only)

theorem verifyTimer_only {μ : Nat} {s₀ : State} {s : State} {p : Nat} (hm : sub 4521191813416448 μ = true) (h₀ : Only μ s₀ s) : Only μ s₀ (State.verifyTimer s p) := by
  unfold State.verifyTimer
  try dsimp only
  repeat' (first
    | with_reducible first
      | exact h₀
      | exact Only.refl _
      | refine onPort_only (sub_mid rfl hm) ?_
      | refine raise_only (sub_mid rfl hm) ?_ ?_
      | refine control_only (sub_mid rfl hm) ?_
      | exact BHM_STATUS_VERIFYFAIL_in (bit_mid hm rfl) (bit_mid hm rfl)
      | refine only_of_fst (by assumption) ?_
    | intro _
    | split
    | dsimp only)

theorem respond_only {μ : Nat} {s₀ : State} {s : State} {p : Nat} (hm : sub 17592186045952 μ = true) (h₀ : Only μ s₀ s) : Only μ s₀ (State.respond s p) := by
  unfold State.respond
  try dsimp only
  repeat' (first
    | with_reducible first
      | exact h₀
      | exact Only.refl _
      | refine onPort_only (sub_mid rfl hm) ?_
      | refine wr_only ?_ ?_
      | exact BHM_CTRL_PVERIFIED_in (bit_mid hm rfl) (bit_mid hm rfl)
      | refine only_of_fst (by assumption) ?_
    | intro _
    | split
    | dsimp only)

theorem pauseWatchdog_only {μ : Nat} {s₀ : State} {s : State} {p : Nat} {tc : Nat} (hm : sub 17592186045952 μ = true) (h₀ : Only μ s₀ s) : Only μ s₀ (State.pauseWatchdog s p tc) := by
  unfold State.pauseWatchdog
  try dsimp only
  repeat' (first
    | with_reducible first
      | exact h₀
      | exact Only.refl _
      | refine raise_only (sub_mid rfl hm) ?_ ?_
      | refine bhCount_only (sub_mid rfl hm) ?_
      | refine onPort_only (sub_mid rfl hm) ?_
      | exact BHM_STATUS_PAUSEOVR_in (bit_mid hm rfl) (bit_mid hm rfl)
      | refine only_of_fst (by assumption) ?_
    | intro _
    | split
    | dsimp only)

theorem pauseTc_only {μ : Nat} {s₀ : State} {s : State} {p : Nat} {tc : Nat} {q : Nat} (hm : sub 17592186045952 μ = true) (h₀ : Only μ s₀ s) : Only μ s₀ (State.pauseTc s p tc q) := by
  unfold State.pauseTc
  try dsimp only
  repeat' (first
    | with_reducible first
      | exact h₀
      | exact Only.refl _
      | refine onPort_only (sub_mid rfl hm) ?_
      | refine pauseWatchdog_only (sub_mid rfl hm) ?_
      | refine only_of_fst (by assumption) ?_
    | intro _
    | split
    | dsimp only)

theorem pauseReceive_only {μ : Nat} {s₀ : State} {s : State} {p : Nat} {pfc : Bool} {mask : Nat} {quanta : List Nat} (hm : sub 17592186045952 μ = true) (h₀ : Only μ s₀ s) : Only μ s₀ (State.pauseReceive s p pfc mask quanta) := by
  unfold State.pauseReceive
  try dsimp only
  repeat' (first
    | with_reducible first
      | exact h₀
      | exact Only.refl _
      | refine pauseTc_only (sub_mid rfl hm) ?_
      | refine bhCount_only (sub_mid rfl hm) ?_
      | refine only_foldl ?_ ?_
      | refine only_foldl_pair ?_ ?_
      | refine only_of_fst (by assumption) ?_
    | intro _
    | split
    | dsimp only)

theorem pauseExpiry_only {μ : Nat} {s₀ : State} {s : State} {p : Nat} {tc : Nat} (hm : sub 17592186044416 μ = true) (h₀ : Only μ s₀ s) : Only μ s₀ (State.pauseExpiry s p tc) := by
  unfold State.pauseExpiry
  try dsimp only
  repeat' (first
    | with_reducible first
      | exact h₀
      | exact Only.refl _
      | refine onPort_only (sub_mid rfl hm) ?_
      | refine only_of_fst (by assumption) ?_
    | intro _
    | split
    | dsimp only)

theorem abortPort_only {μ : Nat} {s₀ : State} {s : State} {p : Nat} (hm : sub 17592186044416 μ = true) (h₀ : Only μ s₀ s) : Only μ s₀ (State.abortPort s p) := by
  unfold State.abortPort
  try dsimp only
  repeat' (first
    | with_reducible first
      | exact h₀
      | exact Only.refl _
      | refine putItem_only (sub_mid rfl hm) ?_
      | refine itemDone_only (sub_mid rfl hm) ?_
      | refine descDone_only (sub_mid rfl hm) ?_
      | refine only_foldl ?_ ?_
      | refine only_foldl_pair ?_ ?_
      | refine only_of_fst (by assumption) ?_
    | intro _
    | split
    | dsimp only)

theorem portShut_only {μ : Nat} {s₀ : State} {s : State} {p : Nat} (hm : sub 17600827360768 μ = true) (h₀ : Only μ s₀ s) : Only μ s₀ (State.portShut s p) := by
  unfold State.portShut
  try dsimp only
  repeat' (first
    | with_reducible first
      | exact h₀
      | exact Only.refl _
      | refine raiseIf_only (sub_mid rfl hm) ?_ ?_
      | refine onPort_only (sub_mid rfl hm) ?_
      | refine abortPort_only (sub_mid rfl hm) ?_
      | refine flushBacks_only (sub_mid rfl hm) ?_
      | refine dcqFlush_only (sub_mid rfl hm) ?_
      | refine wr_only ?_ ?_
      | exact BHM_CTRL_LINK_in (bit_mid hm rfl) (bit_mid hm rfl)
      | exact BHM_CTRL_PVERIFIED_in (bit_mid hm rfl) (bit_mid hm rfl)
      | exact BHM_CTRL_RUNST_in (bit_mid hm rfl) (bit_mid hm rfl)
      | exact BHM_CTRL_SGSPD_in (bit_mid hm rfl) (bit_mid hm rfl)
      | exact BHM_STATUS_LINKCHG_in (bit_mid hm rfl) (bit_mid hm rfl)
      | exact BHM_TX_HEAD_VALUE_in (bit_mid hm rfl) (bit_mid hm rfl)
      | refine only_of_fst (by assumption) ?_
    | intro _
    | split
    | dsimp only
    | (with_reducible refine Only.upd rfl hm ?_ ?_; exact {}))

theorem portTakeover_only {μ : Nat} {s₀ : State} {s : State} {p : Nat} (hm : sub 17592186045952 μ = true) (h₀ : Only μ s₀ s) : Only μ s₀ (State.portTakeover s p) := by
  unfold State.portTakeover
  try dsimp only
  repeat' (first
    | with_reducible first
      | exact h₀
      | exact Only.refl _
      | refine raise_only (sub_mid rfl hm) ?_ ?_
      | refine dropBacks_only (sub_mid rfl hm) ?_
      | refine setItems_only (sub_mid rfl hm) ?_
      | refine bhCount_only (sub_mid rfl hm) ?_
      | refine wr_only ?_ ?_
      | exact BHM_SRX_RD_VALUE_in (bit_mid hm rfl) (bit_mid hm rfl)
      | exact BHM_SRX_WR_VALUE_in (bit_mid hm rfl) (bit_mid hm rfl)
      | exact BHM_STATUS_SVCRST_in (bit_mid hm rfl) (bit_mid hm rfl)
      | exact BHM_TX_HEAD_VALUE_in (bit_mid hm rfl) (bit_mid hm rfl)
      | exact BHM_TX_TAIL_VALUE_in (bit_mid hm rfl) (bit_mid hm rfl)
      | refine only_of_fst (by assumption) ?_
    | intro _
    | split
    | dsimp only)

/-! ### PoleBus -/

theorem onPole_only {μ : Nat} {s₀ : State} {s : State} {f : PoleBus → PoleBus} (hm : sub 17592186044416 μ = true) (h₀ : Only μ s₀ s) : Only μ s₀ (State.onPole s f) := by
  unfold State.onPole
  try dsimp only
  repeat' (first
    | with_reducible first
      | exact h₀
      | exact Only.refl _
      | refine only_of_fst (by assumption) ?_
    | intro _
    | split
    | dsimp only
    | (with_reducible refine Only.upd rfl hm ?_ ?_; exact {}))

theorem pbCount_only {μ : Nat} {s₀ : State} {s : State} {m : Nat} {n : Nat} (hm : sub 2048 μ = true) (h₀ : Only μ s₀ s) : Only μ s₀ (State.pbCount s m n) := by
  unfold State.pbCount
  try dsimp only
  repeat' (first
    | with_reducible first
      | exact h₀
      | exact Only.refl _
      | refine raise_only (sub_mid rfl hm) ?_ ?_
      | refine wr_only ?_ ?_
      | exact PBM_CNT_COUNT_in (bit_mid hm rfl)
      | refine only_of_fst (by assumption) ?_
    | intro _
    | split
    | dsimp only
    | exact fieldIn_block (b := 11) rfl (bit_mid hm rfl))

theorem pbCarrier_only {μ : Nat} {s₀ : State} {s : State} {busy : Bool} (hm : sub 17592186046464 μ = true) (h₀ : Only μ s₀ s) : Only μ s₀ (State.pbCarrier s busy) := by
  unfold State.pbCarrier
  try dsimp only
  repeat' (first
    | with_reducible first
      | exact h₀
      | exact Only.refl _
      | refine onPole_only (sub_mid rfl hm) ?_
      | refine wr_only ?_ ?_
      | refine only_of_fst (by assumption) ?_
    | intro _
    | split
    | dsimp only
    | exact fieldIn_block (b := 11) rfl (bit_mid hm rfl))

theorem pbReceive_only {μ : Nat} {s₀ : State} {s : State} {f : Octets} {good : Bool} (hm : sub 17592220649472 μ = true) (h₀ : Only μ s₀ s) : Only μ s₀ (State.pbReceive s f good) := by
  unfold State.pbReceive
  try dsimp only
  repeat' (first
    | with_reducible first
      | exact h₀
      | exact Only.refl _
      | refine pbCount_only (sub_mid rfl hm) ?_
      | refine raise_only (sub_mid rfl hm) ?_ ?_
      | refine dcqOffer_only (sub_mid rfl hm) ?_
      | refine pbCarrier_only (sub_mid rfl hm) ?_
      | refine only_of_fst (by assumption) ?_
    | intro _
    | split
    | dsimp only
    | exact fieldIn_block (b := 11) rfl (bit_mid hm rfl))

theorem pbWriteBack_only {μ : Nat} {s₀ : State} {s : State} {i : Nat} {result : Nat} {nseg : Nat} {irq : Bool} (hm : sub 17592186044416 μ = true) (h₀ : Only μ s₀ s) : Only μ s₀ (State.pbWriteBack s i result nseg irq) := by
  unfold State.pbWriteBack
  try dsimp only
  repeat' (first
    | with_reducible first
      | exact h₀
      | exact Only.refl _
      | refine only_of_fst (by assumption) ?_
    | intro _
    | split
    | dsimp only
    | (with_reducible refine Only.upd rfl hm ?_ ?_; exact {}))

theorem pbWriteNow_only {μ : Nat} {s₀ : State} {s : State} {b : WriteBack} (hm : sub 16779264 μ = true) (h₀ : Only μ s₀ s) : Only μ s₀ (State.pbWriteNow s b) := by
  unfold State.pbWriteNow
  try dsimp only
  repeat' (first
    | with_reducible first
      | exact h₀
      | exact Only.refl _
      | refine sramWrite_only (sub_mid rfl hm) ?_
      | refine raiseIf_only (sub_mid rfl hm) ?_ ?_
      | refine only_of_fst (by assumption) ?_
    | intro _
    | split
    | dsimp only
    | exact fieldIn_block (b := 11) rfl (bit_mid hm rfl))

theorem writeBackNext_only {μ : Nat} {s₀ : State} {s : State} (hm : sub 17592202825216 μ = true) (h₀ : Only μ s₀ s) : Only μ s₀ (State.writeBackNext s) := by
  unfold State.writeBackNext
  try dsimp only
  repeat' (first
    | with_reducible first
      | exact h₀
      | exact Only.refl _
      | refine txWriteNow_only (sub_mid rfl hm) ?_
      | refine pbWriteNow_only (sub_mid rfl hm) ?_
      | refine only_of_fst (by assumption) ?_
    | intro _
    | split
    | dsimp only
    | (with_reducible refine Only.upd rfl hm ?_ ?_; exact {}))

theorem pbFetch_only {μ : Nat} {s₀ : State} {s : State} {i : Nat} (hm : sub 17592186046464 μ = true) (h₀ : Only μ s₀ s) : Only μ s₀ (State.pbFetch s i) := by
  unfold State.pbFetch
  try dsimp only
  repeat' (first
    | with_reducible first
      | exact h₀
      | exact Only.refl _
      | refine onPole_only (sub_mid rfl hm) ?_
      | refine pbCount_only (sub_mid rfl hm) ?_
      | refine raise_only (sub_mid rfl hm) ?_ ?_
      | refine pbWriteBack_only (sub_mid rfl hm) ?_
      | refine only_of_fst (by assumption) ?_
    | intro _
    | split
    | dsimp only
    | exact fieldIn_block (b := 11) rfl (bit_mid hm rfl))

theorem pbFetchAll_only {μ : Nat} {s₀ : State} {x0 : Nat} {s : State} (hm : sub 17592186046464 μ = true) (h₀ : Only μ s₀ s) : Only μ s₀ (pbFetchAll x0 s) := by
  induction x0 generalizing s with
  | zero => exact h₀
  | succ n ih =>
    rw [pbFetchAll]
    split
    · exact h₀
    · exact ih (wr_only (fieldIn_block (b := 11) rfl (bit_mid hm rfl)) (pbFetch_only (sub_mid rfl hm) h₀))

theorem pbRun_only {μ : Nat} {s₀ : State} {s : State} (hm : sub 17592186046464 μ = true) (h₀ : Only μ s₀ s) : Only μ s₀ (State.pbRun s) := by
  unfold State.pbRun
  try dsimp only
  repeat' (first
    | with_reducible first
      | exact h₀
      | exact Only.refl _
      | refine pbFetchAll_only (sub_mid rfl hm) ?_
      | refine only_of_fst (by assumption) ?_
    | intro _
    | split
    | dsimp only)

theorem pbTail_only {μ : Nat} {s₀ : State} {s : State} {v : Nat} (hm : sub 17592186046464 μ = true) (h₀ : Only μ s₀ s) : Only μ s₀ (State.pbTail s v) := by
  unfold State.pbTail
  try dsimp only
  repeat' (first
    | with_reducible first
      | exact h₀
      | exact Only.refl _
      | refine pbRun_only (sub_mid rfl hm) ?_
      | refine wr_only ?_ ?_
      | refine only_of_fst (by assumption) ?_
    | intro _
    | split
    | dsimp only
    | exact fieldIn_block (b := 11) rfl (bit_mid hm rfl))

theorem pbFinish_only {μ : Nat} {s₀ : State} {s : State} {x : TxItem} {result : Nat} {nseg : Nat} (hm : sub 17592186044416 μ = true) (h₀ : Only μ s₀ s) : Only μ s₀ (State.pbFinish s x result nseg) := by
  unfold State.pbFinish
  try dsimp only
  repeat' (first
    | with_reducible first
      | exact h₀
      | exact Only.refl _
      | refine pbWriteBack_only (sub_mid rfl hm) ?_
      | refine onPole_only (sub_mid rfl hm) ?_
      | refine only_of_fst (by assumption) ?_
    | intro _
    | split
    | dsimp only)

theorem pbDefer_only {μ : Nat} {s₀ : State} {s : State} (hm : sub 17592186046464 μ = true) (h₀ : Only μ s₀ s) : Only μ s₀ (State.pbDefer s) := by
  unfold State.pbDefer
  try dsimp only
  repeat' (first
    | with_reducible first
      | exact h₀
      | exact Only.refl _
      | refine pbCount_only (sub_mid rfl hm) ?_
      | refine onPole_only (sub_mid rfl hm) ?_
      | refine only_of_fst (by assumption) ?_
    | intro _
    | split
    | dsimp only)

theorem pbOut_only {μ : Nat} {s₀ : State} {s : State} {x : TxItem} {bad : Bool} (hm : sub 4521191814465536 μ = true) (h₀ : Only μ s₀ s) : Only μ s₀ (State.pbOut s x bad) := by
  unfold State.pbOut
  try dsimp only
  repeat' (first
    | with_reducible first
      | exact h₀
      | exact Only.refl _
      | refine pbFinish_only (sub_mid rfl hm) ?_
      | refine onPole_only (sub_mid rfl hm) ?_
      | refine dcqPoison_only (sub_mid rfl hm) ?_
      | refine pbCount_only (sub_mid rfl hm) ?_
      | refine emit_only (sub_mid rfl hm) ?_
      | refine only_of_fst (by assumption) ?_
    | intro _
    | split
    | dsimp only)

theorem pbSend_only {μ : Nat} {s₀ : State} {s : State} {carrier : Bool} {bad : Bool} (hm : sub 4521191814465536 μ = true) (h₀ : Only μ s₀ s) : Only μ s₀ (State.pbSend s carrier bad) := by
  unfold State.pbSend
  try dsimp only
  repeat' (first
    | with_reducible first
      | exact h₀
      | exact Only.refl _
      | refine pbOut_only (sub_mid rfl hm) ?_
      | refine pbDefer_only (sub_mid rfl hm) ?_
      | refine pbCarrier_only (sub_mid rfl hm) ?_
      | refine only_of_fst (by assumption) ?_
    | intro _
    | split
    | dsimp only)

theorem pbCollision_only {μ : Nat} {s₀ : State} {s : State} {late : Bool} (hm : sub 18031990695528448 μ = true) (h₀ : Only μ s₀ s) : Only μ s₀ (State.pbCollision s late) := by
  unfold State.pbCollision
  try dsimp only
  repeat' (first
    | with_reducible first
      | exact h₀
      | exact Only.refl _
      | refine freeTick_only (sub_mid rfl hm) ?_
      | refine onPole_only (sub_mid rfl hm) ?_
      | refine pbCount_only (sub_mid rfl hm) ?_
      | refine raise_only (sub_mid rfl hm) ?_ ?_
      | refine pbFinish_only (sub_mid rfl hm) ?_
      | refine only_of_fst (by assumption) ?_
    | intro _
    | split
    | dsimp only
    | exact fieldIn_block (b := 11) rfl (bit_mid hm rfl))

theorem pbBackoff_only {μ : Nat} {s₀ : State} {s : State} (hm : sub 17592186044416 μ = true) (h₀ : Only μ s₀ s) : Only μ s₀ (State.pbBackoff s) := by
  unfold State.pbBackoff
  try dsimp only
  repeat' (first
    | with_reducible first
      | exact h₀
      | exact Only.refl _
      | refine onPole_only (sub_mid rfl hm) ?_
      | refine only_of_fst (by assumption) ?_
    | intro _
    | split
    | dsimp only)

theorem pbShut_only {μ : Nat} {s₀ : State} {s : State} (hm : sub 17592202823680 μ = true) (h₀ : Only μ s₀ s) : Only μ s₀ (State.pbShut s) := by
  unfold State.pbShut
  try dsimp only
  repeat' (first
    | with_reducible first
      | exact h₀
      | exact Only.refl _
      | refine onPole_only (sub_mid rfl hm) ?_
      | refine dropBacks_only (sub_mid rfl hm) ?_
      | refine pbWriteNow_only (sub_mid rfl hm) ?_
      | refine pbFinish_only (sub_mid rfl hm) ?_
      | refine wr_only ?_ ?_
      | refine only_foldl ?_ ?_
      | refine only_foldl_pair ?_ ?_
      | refine only_of_fst (by assumption) ?_
    | intro _
    | split
    | dsimp only
    | exact fieldIn_block (b := 11) rfl (bit_mid hm rfl))

theorem pbTakeover_only {μ : Nat} {s₀ : State} {s : State} (hm : sub 17592186046464 μ = true) (h₀ : Only μ s₀ s) : Only μ s₀ (State.pbTakeover s) := by
  unfold State.pbTakeover
  try dsimp only
  repeat' (first
    | with_reducible first
      | exact h₀
      | exact Only.refl _
      | refine raise_only (sub_mid rfl hm) ?_ ?_
      | refine dropBacks_only (sub_mid rfl hm) ?_
      | refine pbCount_only (sub_mid rfl hm) ?_
      | refine onPole_only (sub_mid rfl hm) ?_
      | refine wr_only ?_ ?_
      | refine only_of_fst (by assumption) ?_
    | intro _
    | split
    | dsimp only
    | exact fieldIn_block (b := 11) rfl (bit_mid hm rfl))

/-! ### Link -/

theorem guard_only {μ : Nat} {s₀ : State} {s : State} {source : Nat} (hm : sub 35651584 μ = true) (h₀ : Only μ s₀ s) : Only μ s₀ (State.guard s source) := by
  unfold State.guard
  try dsimp only
  repeat' (first
    | with_reducible first
      | exact h₀
      | exact Only.refl _
      | refine count_only (sub_mid rfl hm) ?_ ?_ ?_
      | refine raise_only (sub_mid rfl hm) ?_ ?_
      | refine post_only (sub_mid rfl hm) ?_
      | refine only_of_fst (by assumption) ?_
    | intro _
    | split
    | dsimp only
    | exact fieldIn_block (b := 21) rfl (bit_mid hm rfl))

theorem guardEntry_only {μ : Nat} {s₀ : State} {s : State} {i : Option Nat} (hm : sub 1109393408 μ = true) (h₀ : Only μ s₀ s) : Only μ s₀ (State.guardEntry s i) := by
  unfold State.guardEntry
  try dsimp only
  repeat' (first
    | with_reducible first
      | exact h₀
      | exact Only.refl _
      | refine guard_only (sub_mid rfl hm) ?_
      | refine only_of_fst (by assumption) ?_
    | intro _
    | split
    | dsimp only
    | (with_reducible refine Only.upd rfl hm ?_ ?_; exact {}))

theorem askBundle_only {μ : Nat} {s₀ : State} {s : State} {p : Path} {g : GuardMeet} (hm : sub 1109393408 μ = true) (h₀ : Only μ s₀ s) : Only μ s₀ (State.askBundle s p g).1 := by
  unfold State.askBundle
  try dsimp only
  repeat' (first
    | with_reducible first
      | exact h₀
      | exact Only.refl _
      | refine guard_only (sub_mid rfl hm) ?_
      | refine guardEntry_only (sub_mid rfl hm) ?_
      | refine only_of_fst (by assumption) ?_
    | intro _
    | split
    | dsimp only)

/-! ### Radio -/

theorem onRadio_only {μ : Nat} {s₀ : State} {s : State} {r : Nat} {f : RadioState → RadioState} (hm : sub 35184372088832 μ = true) (h₀ : Only μ s₀ s) : Only μ s₀ (State.onRadio s r f) := by
  unfold State.onRadio
  try dsimp only
  repeat' (first
    | with_reducible first
      | exact h₀
      | exact Only.refl _
      | refine only_of_fst (by assumption) ?_
    | intro _
    | split
    | dsimp only
    | (with_reducible refine Only.upd rfl hm ?_ ?_; exact {}))

theorem rfStart_only {μ : Nat} {s₀ : State} {s : State} {r : Nat} (hm : sub 35184372088960 μ = true) (h₀ : Only μ s₀ s) : Only μ s₀ (State.rfStart s r) := by
  unfold State.rfStart
  try dsimp only
  repeat' (first
    | with_reducible first
      | exact h₀
      | exact Only.refl _
      | refine onRadio_only (sub_mid rfl hm) ?_
      | refine raise_only (sub_mid rfl hm) ?_ ?_
      | refine wr_only ?_ ?_
      | exact rfRunst_in (bit_mid hm rfl)
      | refine only_of_fst (by assumption) ?_
    | intro _
    | split
    | dsimp only
    | exact fieldIn_block (b := 7) rfl (bit_mid hm rfl))

theorem onLink_only {μ : Nat} {s₀ : State} {s : State} {n : Nat} {f : LanternLink → LanternLink} (hm : sub 35184372088832 μ = true) (h₀ : Only μ s₀ s) : Only μ s₀ (State.onLink s n f) := by
  unfold State.onLink
  try dsimp only
  repeat' (first
    | with_reducible first
      | exact h₀
      | exact Only.refl _
      | refine only_of_fst (by assumption) ?_
    | intro _
    | split
    | dsimp only
    | (with_reducible refine Only.upd rfl hm ?_ ?_; exact {}))

theorem rfEvent_only {μ : Nat} {s₀ : State} {s : State} {r : Nat} {e : Event} (hm : sub 34603008 μ = true) (h₀ : Only μ s₀ s) : Only μ s₀ (State.rfEvent s r e).1 := by
  unfold State.rfEvent
  try dsimp only
  repeat' (first
    | with_reducible first
      | exact h₀
      | exact Only.refl _
      | refine dcqOffer_only (sub_mid rfl hm) ?_
      | refine only_of_fst (by assumption) ?_
    | intro _
    | split
    | dsimp only)

theorem rfPost_only {μ : Nat} {s₀ : State} {s : State} {r : Nat} {node : Nat} {kind : Nat} {p : Octets} {t : Time} (hm : sub 33554432 μ = true) (h₀ : Only μ s₀ s) : Only μ s₀ (State.rfPost s r node kind p t) := by
  unfold State.rfPost
  try dsimp only
  repeat' (first
    | with_reducible first
      | exact h₀
      | exact Only.refl _
      | refine post_only (sub_mid rfl hm) ?_
      | refine only_of_fst (by assumption) ?_
    | intro _
    | split
    | dsimp only)

theorem lanternTo_only {μ : Nat} {s₀ : State} {s : State} {r : Nat} {n : Nat} {new : Nat} {cause : Nat} {t : Time} (hm : sub 33554560 μ = true) (h₀ : Only μ s₀ s) : Only μ s₀ (State.lanternTo s r n new cause t) := by
  unfold State.lanternTo
  try dsimp only
  repeat' (first
    | with_reducible first
      | exact h₀
      | exact Only.refl _
      | refine rfPost_only (sub_mid rfl hm) ?_
      | refine wr_only ?_ ?_
      | exact RFM_LTAB_W3_STATE_in (bit_mid hm rfl)
      | refine only_of_fst (by assumption) ?_
    | intro _
    | split
    | dsimp only)

theorem setDl_only {μ : Nat} {s₀ : State} {s : State} {r : Nat} {q : List Downlink} (hm : sub 35184372088960 μ = true) (h₀ : Only μ s₀ s) : Only μ s₀ (State.setDl s r q) := by
  unfold State.setDl
  try dsimp only
  repeat' (first
    | with_reducible first
      | exact h₀
      | exact Only.refl _
      | refine onRadio_only (sub_mid rfl hm) ?_
      | refine wr_only ?_ ?_
      | refine only_of_fst (by assumption) ?_
    | intro _
    | split
    | dsimp only
    | exact fieldIn_block (b := 7) rfl (bit_mid hm rfl))

theorem dlResult_only {μ : Nat} {s₀ : State} {s : State} {r : Nat} {d : Downlink} {result : Nat} {t : Time} (hm : sub 33554560 μ = true) (h₀ : Only μ s₀ s) : Only μ s₀ (State.dlResult s r d result t) := by
  unfold State.dlResult
  try dsimp only
  repeat' (first
    | with_reducible first
      | exact h₀
      | exact Only.refl _
      | refine raise_only (sub_mid rfl hm) ?_ ?_
      | refine count_only (sub_mid rfl hm) ?_ ?_ ?_
      | refine rfPost_only (sub_mid rfl hm) ?_
      | refine only_of_fst (by assumption) ?_
    | intro _
    | split
    | dsimp only
    | exact fieldIn_block (b := 7) rfl (bit_mid hm rfl))

theorem dlQueue_only {μ : Nat} {s₀ : State} {s : State} {n : Nat} {payload : Octets} {handle : Nat} (hm : sub 35184405643392 μ = true) (h₀ : Only μ s₀ s) : Only μ s₀ (State.dlQueue s n payload handle) := by
  unfold State.dlQueue
  try dsimp only
  repeat' (first
    | with_reducible first
      | exact h₀
      | exact Only.refl _
      | refine raise_only (sub_mid rfl hm) ?_ ?_
      | refine dlResult_only (sub_mid rfl hm) ?_
      | refine setDl_only (sub_mid rfl hm) ?_
      | refine only_of_fst (by assumption) ?_
    | intro _
    | split
    | dsimp only
    | exact fieldIn_block (b := 7) rfl (bit_mid hm rfl))

theorem rfTxcmd_only {μ : Nat} {s₀ : State} {s : State} {handle : Nat} {dst : Nat} {len : Nat} (hm : sub 35184405643392 μ = true) (h₀ : Only μ s₀ s) : Only μ s₀ (State.rfTxcmd s handle dst len) := by
  unfold State.rfTxcmd
  try dsimp only
  repeat' (first
    | with_reducible first
      | exact h₀
      | exact Only.refl _
      | refine dlQueue_only (sub_mid rfl hm) ?_
      | refine dlResult_only (sub_mid rfl hm) ?_
      | refine only_of_fst (by assumption) ?_
    | intro _
    | split
    | dsimp only)

theorem queueAssign_only {μ : Nat} {s₀ : State} {s : State} {n : Nat} (hm : sub 35184405643392 μ = true) (h₀ : Only μ s₀ s) : Only μ s₀ (State.queueAssign s n) := by
  unfold State.queueAssign
  try dsimp only
  repeat' (first
    | with_reducible first
      | exact h₀
      | exact Only.refl _
      | refine dlQueue_only (sub_mid rfl hm) ?_
      | refine only_of_fst (by assumption) ?_
    | intro _
    | split
    | dsimp only)

theorem rfWaited_only {μ : Nat} {s₀ : State} {s : State} {r : Nat} {a : Await} (hm : sub 35184372088832 μ = true) (h₀ : Only μ s₀ s) : Only μ s₀ (State.rfWaited s r a) := by
  unfold State.rfWaited
  try dsimp only
  repeat' (first
    | with_reducible first
      | exact h₀
      | exact Only.refl _
      | refine onRadio_only (sub_mid rfl hm) ?_
      | refine only_of_fst (by assumption) ?_
    | intro _
    | split
    | dsimp only)

theorem immAck_only {μ : Nat} {s₀ : State} {s : State} {r : Nat} {seq : Nat} (hm : sub 35184405643392 μ = true) (h₀ : Only μ s₀ s) : Only μ s₀ (State.immAck s r seq) := by
  unfold State.immAck
  try dsimp only
  repeat' (first
    | with_reducible first
      | exact h₀
      | exact Only.refl _
      | refine rfWaited_only (sub_mid rfl hm) ?_
      | refine setDl_only (sub_mid rfl hm) ?_
      | refine dlResult_only (sub_mid rfl hm) ?_
      | refine only_of_fst (by assumption) ?_
    | intro _
    | split
    | dsimp only)

theorem ackExpiry_only {μ : Nat} {s₀ : State} {s : State} {r : Nat} (hm : sub 35184405643392 μ = true) (h₀ : Only μ s₀ s) : Only μ s₀ (State.ackExpiry s r) := by
  unfold State.ackExpiry
  try dsimp only
  repeat' (first
    | with_reducible first
      | exact h₀
      | exact Only.refl _
      | refine rfWaited_only (sub_mid rfl hm) ?_
      | refine setDl_only (sub_mid rfl hm) ?_
      | refine dlResult_only (sub_mid rfl hm) ?_
      | refine only_of_fst (by assumption) ?_
    | intro _
    | split
    | dsimp only)

theorem noOpportunity_only {μ : Nat} {s₀ : State} {s : State} {r : Nat} (hm : sub 35184405643392 μ = true) (h₀ : Only μ s₀ s) : Only μ s₀ (State.noOpportunity s r) := by
  unfold State.noOpportunity
  try dsimp only
  repeat' (first
    | with_reducible first
      | exact h₀
      | exact Only.refl _
      | refine setDl_only (sub_mid rfl hm) ?_
      | refine dlResult_only (sub_mid rfl hm) ?_
      | refine only_foldl ?_ ?_
      | refine only_foldl_pair ?_ ?_
      | refine only_of_fst (by assumption) ?_
    | intro _
    | split
    | dsimp only)

theorem nextFc_only {μ : Nat} {s₀ : State} {s : State} (hm : sub 128 μ = true) (h₀ : Only μ s₀ s) : Only μ s₀ (State.nextFc s).1 := by
  unfold State.nextFc
  try dsimp only
  repeat' (first
    | with_reducible first
      | exact h₀
      | exact Only.refl _
      | refine raiseIf_only (sub_mid rfl hm) ?_ ?_
      | refine raise_only (sub_mid rfl hm) ?_ ?_
      | refine wr_only ?_ ?_
      | refine only_of_fst (by assumption) ?_
    | intro _
    | split
    | dsimp only
    | exact fieldIn_block (b := 7) rfl (bit_mid hm rfl))

theorem rfOut_only {μ : Nat} {s₀ : State} {s : State} {r : Nat} {at' : Nat} {f : Octets} (hm : sub 4503599627370624 μ = true) (h₀ : Only μ s₀ s) : Only μ s₀ (State.rfOut s r at' f) := by
  unfold State.rfOut
  try dsimp only
  repeat' (first
    | with_reducible first
      | exact h₀
      | exact Only.refl _
      | refine count_only (sub_mid rfl hm) ?_ ?_ ?_
      | refine emit_only (sub_mid rfl hm) ?_
      | exact rfTxCount_in (bit_mid hm rfl)
      | refine only_of_fst (by assumption) ?_
    | intro _
    | split
    | dsimp only
    | exact fieldIn_block (b := 7) rfl (bit_mid hm rfl))

theorem linkFrame_only {μ : Nat} {s₀ : State} {s : State} {r : Nat} {dst : Option Nat} {payload : Octets} (hm : sub 35184372154496 μ = true) (h₀ : Only μ s₀ s) : Only μ s₀ (State.linkFrame s r dst payload).1 := by
  unfold State.linkFrame
  try dsimp only
  repeat' (first
    | with_reducible first
      | exact h₀
      | exact Only.refl _
      | refine onRadio_only (sub_mid rfl hm) ?_
      | refine nextFc_only (sub_mid rfl hm) ?_
      | refine keyFor_only (sub_mid rfl hm) ?_
      | refine only_of_fst (by assumption) ?_
    | intro _
    | split
    | dsimp only)

theorem frameLost_only {μ : Nat} {s₀ : State} {s : State} {g : GuardMeet} {source : Nat} {q : Nat} (hm : sub 36700160 μ = true) (h₀ : Only μ s₀ s) : Only μ s₀ (State.frameLost s g source q) := by
  unfold State.frameLost
  try dsimp only
  repeat' (first
    | with_reducible first
      | exact h₀
      | exact Only.refl _
      | refine dcqPoison_only (sub_mid rfl hm) ?_
      | refine guard_only (sub_mid rfl hm) ?_
      | refine only_of_fst (by assumption) ?_
    | intro _
    | split
    | dsimp only)

theorem rfUnicast_only {μ : Nat} {s₀ : State} {s : State} {r : Nat} {start : Nat} {close' : Nat} {g : GuardMeet} {d : Downlink} (hm : sub 4538784036225152 μ = true) (h₀ : Only μ s₀ s) : Only μ s₀ (State.rfUnicast s r start close' g d) := by
  unfold State.rfUnicast
  try dsimp only
  repeat' (first
    | with_reducible first
      | exact h₀
      | exact Only.refl _
      | refine setDl_only (sub_mid rfl hm) ?_
      | refine onRadio_only (sub_mid rfl hm) ?_
      | refine rfOut_only (sub_mid rfl hm) ?_
      | refine frameLost_only (sub_mid rfl hm) ?_
      | refine dlResult_only (sub_mid rfl hm) ?_
      | refine linkFrame_only (sub_mid rfl hm) ?_
      | refine only_of_fst (by assumption) ?_
    | intro _
    | split
    | dsimp only)

theorem fillCell_only {μ : Nat} {s₀ : State} {s : State} {r : Nat} {f : Int} {slot : Nat} {g : GuardMeet} (hm : sub 4538785109966992 μ = true) (h₀ : Only μ s₀ s) : Only μ s₀ (State.fillCell s r f slot g) := by
  unfold State.fillCell
  try dsimp only
  repeat' (first
    | with_reducible first
      | exact h₀
      | exact Only.refl _
      | refine rfUnicast_only (sub_mid rfl hm) ?_
      | refine rfOut_only (sub_mid rfl hm) ?_
      | refine markSent_only (sub_mid rfl hm) ?_
      | refine frameLost_only (sub_mid rfl hm) ?_
      | refine linkFrame_only (sub_mid rfl hm) ?_
      | refine askBundle_only (sub_mid rfl hm) ?_
      | refine only_of_fst (by assumption) ?_
    | intro _
    | split
    | dsimp only)

theorem bundleCell_only {μ : Nat} {s₀ : State} {s : State} {r : Nat} {g : GuardMeet} (hm : sub 4538785109966992 μ = true) (h₀ : Only μ s₀ s) : Only μ s₀ (State.bundleCell s r g) := by
  unfold State.bundleCell
  try dsimp only
  repeat' (first
    | with_reducible first
      | exact h₀
      | exact Only.refl _
      | refine fillCell_only (sub_mid rfl hm) ?_
      | refine only_of_fst (by assumption) ?_
    | intro _
    | split
    | dsimp only)

theorem applyWord_only {μ : Nat} {s₀ : State} {s : State} {r : Nat} {n : Nat} {old : Nat} (hm : sub 35184405643392 μ = true) (h₀ : Only μ s₀ s) : Only μ s₀ (State.applyWord s r n old) := by
  unfold State.applyWord
  try dsimp only
  repeat' (first
    | with_reducible first
      | exact h₀
      | exact Only.refl _
      | refine lanternTo_only (sub_mid rfl hm) ?_
      | refine onLink_only (sub_mid rfl hm) ?_
      | refine wr_only ?_ ?_
      | exact RFM_LTAB_W3_DARNF_in (bit_mid hm rfl)
      | exact RFM_LTAB_W3_MISS_in (bit_mid hm rfl)
      | refine only_of_fst (by assumption) ?_
    | intro _
    | split
    | dsimp only
    | (with_reducible refine Only.upd rfl hm ?_ ?_; exact {}))

theorem superframeStart_only {μ : Nat} {s₀ : State} {s : State} {r : Nat} {n : Int} (hm : sub 35184405643392 μ = true) (h₀ : Only μ s₀ s) : Only μ s₀ (State.superframeStart s r n) := by
  unfold State.superframeStart
  try dsimp only
  repeat' (first
    | with_reducible first
      | exact h₀
      | exact Only.refl _
      | refine onRadio_only (sub_mid rfl hm) ?_
      | refine applyWord_only (sub_mid rfl hm) ?_
      | refine wr_only ?_ ?_
      | refine only_foldl ?_ ?_
      | refine only_foldl_pair ?_ ?_
      | refine only_of_fst (by assumption) ?_
    | intro _
    | split
    | dsimp only
    | exact fieldIn_block (b := 7) rfl (bit_mid hm rfl)
    | (with_reducible refine Only.upd rfl hm ?_ ?_; exact {}))

theorem beacon_only {μ : Nat} {s₀ : State} {s : State} {r : Nat} {g : GuardMeet} (hm : sub 4538784036225152 μ = true) (h₀ : Only μ s₀ s) : Only μ s₀ (State.beacon s r g) := by
  unfold State.beacon
  try dsimp only
  repeat' (first
    | with_reducible first
      | exact h₀
      | exact Only.refl _
      | refine rfOut_only (sub_mid rfl hm) ?_
      | refine onRadio_only (sub_mid rfl hm) ?_
      | refine keyFor_only (sub_mid rfl hm) ?_
      | refine frameLost_only (sub_mid rfl hm) ?_
      | refine superframeStart_only (sub_mid rfl hm) ?_
      | refine only_of_fst (by assumption) ?_
    | intro _
    | split
    | dsimp only)

theorem meet_only {μ : Nat} {s₀ : State} {s : State} {n : Nat} {t : Time} (hm : sub 35184372088960 μ = true) (h₀ : Only μ s₀ s) : Only μ s₀ (State.meet s n t) := by
  unfold State.meet
  try dsimp only
  repeat' (first
    | with_reducible first
      | exact h₀
      | exact Only.refl _
      | refine onLink_only (sub_mid rfl hm) ?_
      | refine wr_only ?_ ?_
      | exact RFM_LTAB_W3_MISS_in (bit_mid hm rfl)
      | refine only_of_fst (by assumption) ?_
    | intro _
    | split
    | dsimp only)

theorem contact_only {μ : Nat} {s₀ : State} {s : State} {r : Nat} {n : Nat} {t : Time} (hm : sub 35184405643392 μ = true) (h₀ : Only μ s₀ s) : Only μ s₀ (State.contact s r n t) := by
  unfold State.contact
  try dsimp only
  repeat' (first
    | with_reducible first
      | exact h₀
      | exact Only.refl _
      | refine onLink_only (sub_mid rfl hm) ?_
      | refine queueAssign_only (sub_mid rfl hm) ?_
      | refine onRadio_only (sub_mid rfl hm) ?_
      | refine lanternTo_only (sub_mid rfl hm) ?_
      | refine wr_only ?_ ?_
      | exact RFM_LTAB_W3_DARNF_in (bit_mid hm rfl)
      | exact RFM_LTAB_W3_MISS_in (bit_mid hm rfl)
      | refine only_of_fst (by assumption) ?_
    | intro _
    | split
    | dsimp only)

theorem contactMissed_only {μ : Nat} {s₀ : State} {s : State} {n : Nat} {f : Int} {e : Nat} (hm : sub 33554560 μ = true) (h₀ : Only μ s₀ s) : Only μ s₀ (State.contactMissed s n f e) := by
  unfold State.contactMissed
  try dsimp only
  repeat' (first
    | with_reducible first
      | exact h₀
      | exact Only.refl _
      | refine lanternTo_only (sub_mid rfl hm) ?_
      | refine raise_only (sub_mid rfl hm) ?_ ?_
      | refine wr_only ?_ ?_
      | exact RFM_LTAB_W3_DARNF_in (bit_mid hm rfl)
      | exact RFM_LTAB_W3_MISS_in (bit_mid hm rfl)
      | refine only_of_fst (by assumption) ?_
    | intro _
    | split
    | dsimp only
    | exact fieldIn_block (b := 7) rfl (bit_mid hm rfl))

theorem reportEnd_only {μ : Nat} {s₀ : State} {s : State} {n : Nat} {f : Int} (hm : sub 35184405643392 μ = true) (h₀ : Only μ s₀ s) : Only μ s₀ (State.reportEnd s n f) := by
  unfold State.reportEnd
  try dsimp only
  repeat' (first
    | with_reducible first
      | exact h₀
      | exact Only.refl _
      | refine contactMissed_only (sub_mid rfl hm) ?_
      | refine onLink_only (sub_mid rfl hm) ?_
      | refine only_of_fst (by assumption) ?_
    | intro _
    | split
    | dsimp only)

theorem darnEnd_only {μ : Nat} {s₀ : State} {s : State} {r : Nat} {w : Nat} (hm : sub 35184405643392 μ = true) (h₀ : Only μ s₀ s) : Only μ s₀ (State.darnEnd s r w) := by
  unfold State.darnEnd
  try dsimp only
  repeat' (first
    | with_reducible first
      | exact h₀
      | exact Only.refl _
      | refine lanternTo_only (sub_mid rfl hm) ?_
      | refine raise_only (sub_mid rfl hm) ?_ ?_
      | refine onRadio_only (sub_mid rfl hm) ?_
      | refine wr_only ?_ ?_
      | exact RFM_LTAB_W3_DARNF_in (bit_mid hm rfl)
      | refine only_of_fst (by assumption) ?_
    | intro _
    | split
    | dsimp only
    | exact fieldIn_block (b := 7) rfl (bit_mid hm rfl))

theorem neighbourTo_only {μ : Nat} {s₀ : State} {s : State} {m : Nat} {present : Nat} {t : Time} (hm : sub 33554560 μ = true) (h₀ : Only μ s₀ s) : Only μ s₀ (State.neighbourTo s m present t) := by
  unfold State.neighbourTo
  try dsimp only
  repeat' (first
    | with_reducible first
      | exact h₀
      | exact Only.refl _
      | refine post_only (sub_mid rfl hm) ?_
      | refine raise_only (sub_mid rfl hm) ?_ ?_
      | refine wr_only ?_ ?_
      | exact RFM_NBR_W1_PRESENT_in (bit_mid hm rfl)
      | refine only_of_fst (by assumption) ?_
    | intro _
    | split
    | dsimp only
    | exact fieldIn_block (b := 7) rfl (bit_mid hm rfl))

theorem nbrEnd_only {μ : Nat} {s₀ : State} {s : State} {m : Nat} (hm : sub 35184405643392 μ = true) (h₀ : Only μ s₀ s) : Only μ s₀ (State.nbrEnd s m) := by
  unfold State.nbrEnd
  try dsimp only
  repeat' (first
    | with_reducible first
      | exact h₀
      | exact Only.refl _
      | refine neighbourTo_only (sub_mid rfl hm) ?_
      | refine wr_only ?_ ?_
      | exact RFM_NBR_W1_MISSES_in (bit_mid hm rfl)
      | refine only_of_fst (by assumption) ?_
    | intro _
    | split
    | dsimp only
    | (with_reducible refine Only.upd rfl hm ?_ ?_; exact {}))

theorem rfDrop_only {μ : Nat} {s₀ : State} {s : State} (hm : sub 128 μ = true) (h₀ : Only μ s₀ s) : Only μ s₀ (State.rfDrop s) := by
  unfold State.rfDrop
  try dsimp only
  repeat' (first
    | with_reducible first
      | exact h₀
      | exact Only.refl _
      | refine count_only (sub_mid rfl hm) ?_ ?_ ?_
      | refine only_of_fst (by assumption) ?_
    | intro _
    | split
    | dsimp only
    | exact fieldIn_block (b := 7) rfl (bit_mid hm rfl))

theorem neighbourBeacon_only {μ : Nat} {s₀ : State} {s : State} {r : Nat} {t : Time} {f : Octets} {fcs : Bool} (hm : sub 35184406757504 μ = true) (h₀ : Only μ s₀ s) : Only μ s₀ (State.neighbourBeacon s r t f fcs) := by
  unfold State.neighbourBeacon
  try dsimp only
  repeat' (first
    | with_reducible first
      | exact h₀
      | exact Only.refl _
      | refine neighbourTo_only (sub_mid rfl hm) ?_
      | refine count_only (sub_mid rfl hm) ?_ ?_ ?_
      | refine rfDrop_only (sub_mid rfl hm) ?_
      | refine raise_only (sub_mid rfl hm) ?_ ?_
      | refine rfEvent_only (sub_mid rfl hm) ?_
      | refine keyFor_only (sub_mid rfl hm) ?_
      | refine wr_only ?_ ?_
      | exact RFM_NBR_W1_MISSES_in (bit_mid hm rfl)
      | exact rfRxCount_in (bit_mid hm rfl)
      | refine only_of_fst (by assumption) ?_
    | intro _
    | split
    | dsimp only
    | exact fieldIn_block (b := 7) rfl (bit_mid hm rfl)
    | (with_reducible refine Only.upd rfl hm ?_ ?_; exact {}))

theorem syncTo_only {μ : Nat} {s₀ : State} {s : State} {n : Nat} {c : Int} (hm : sub 35184372088960 μ = true) (h₀ : Only μ s₀ s) : Only μ s₀ (State.syncTo s n c) := by
  unfold State.syncTo
  try dsimp only
  repeat' (first
    | with_reducible first
      | exact h₀
      | exact Only.refl _
      | refine onLink_only (sub_mid rfl hm) ?_
      | refine wr_only ?_ ?_
      | exact RFM_LTAB_W3_SYNC_in (bit_mid hm rfl)
      | refine only_of_fst (by assumption) ?_
    | intro _
    | split
    | dsimp only)

theorem noteReport_only {μ : Nat} {s₀ : State} {s : State} {r : Nat} {src : Nat} {p : Octets} {t : Time} (hm : sub 35184405643392 μ = true) (h₀ : Only μ s₀ s) : Only μ s₀ (State.noteReport s r src p t) := by
  unfold State.noteReport
  try dsimp only
  repeat' (first
    | with_reducible first
      | exact h₀
      | exact Only.refl _
      | refine contact_only (sub_mid rfl hm) ?_
      | refine meet_only (sub_mid rfl hm) ?_
      | refine syncTo_only (sub_mid rfl hm) ?_
      | refine only_of_fst (by assumption) ?_
    | intro _
    | split
    | dsimp only)

theorem noteFrame_only {μ : Nat} {s₀ : State} {s : State} {r : Nat} {src : Nat} {idx : Nat} {fc : Nat} {rssi : Nat} {p : Octets} {t : Time} (hm : sub 35184405643392 μ = true) (h₀ : Only μ s₀ s) : Only μ s₀ (State.noteFrame s r src idx fc rssi p t) := by
  unfold State.noteFrame
  try dsimp only
  repeat' (first
    | with_reducible first
      | exact h₀
      | exact Only.refl _
      | refine contact_only (sub_mid rfl hm) ?_
      | refine noteReport_only (sub_mid rfl hm) ?_
      | refine meet_only (sub_mid rfl hm) ?_
      | refine wr_only ?_ ?_
      | exact RFM_LTAB_W1_FCKEY_in (bit_mid hm rfl)
      | exact RFM_LTAB_W2_FC_in (bit_mid hm rfl)
      | exact RFM_LTAB_W3_RSSI_in (bit_mid hm rfl)
      | refine only_of_fst (by assumption) ?_
    | intro _
    | split
    | dsimp only)

theorem lanternFrame_only {μ : Nat} {s₀ : State} {s : State} {r : Nat} {t : Time} {f : Octets} {fcs : Bool} {rssi : Nat} (hm : sub 4538784034128000 μ = true) (h₀ : Only μ s₀ s) : Only μ s₀ (State.lanternFrame s r t f fcs rssi) := by
  unfold State.lanternFrame
  try dsimp only
  repeat' (first
    | with_reducible first
      | exact h₀
      | exact Only.refl _
      | refine rfOut_only (sub_mid rfl hm) ?_
      | refine noteFrame_only (sub_mid rfl hm) ?_
      | refine count_only (sub_mid rfl hm) ?_ ?_ ?_
      | refine rfDrop_only (sub_mid rfl hm) ?_
      | refine raise_only (sub_mid rfl hm) ?_ ?_
      | refine rfEvent_only (sub_mid rfl hm) ?_
      | refine keyFor_only (sub_mid rfl hm) ?_
      | exact rfRxCount_in (bit_mid hm rfl)
      | refine only_of_fst (by assumption) ?_
    | intro _
    | split
    | dsimp only
    | exact fieldIn_block (b := 7) rfl (bit_mid hm rfl))

theorem rfReceive_only {μ : Nat} {s₀ : State} {s : State} {r : Nat} {f : Octets} {meet : RadioMeet} {rssi : Nat} (hm : sub 4538784034128000 μ = true) (h₀ : Only μ s₀ s) : Only μ s₀ (State.rfReceive s r f meet rssi) := by
  unfold State.rfReceive
  try dsimp only
  repeat' (first
    | with_reducible first
      | exact h₀
      | exact Only.refl _
      | refine lanternFrame_only (sub_mid rfl hm) ?_
      | refine neighbourBeacon_only (sub_mid rfl hm) ?_
      | refine rfDrop_only (sub_mid rfl hm) ?_
      | refine only_of_fst (by assumption) ?_
    | intro _
    | split
    | dsimp only)

theorem rfWake_only {μ : Nat} {s₀ : State} {s : State} {wsfn : Nat} {next : Nat} (hm : sub 35184372088960 μ = true) (h₀ : Only μ s₀ s) : Only μ s₀ (State.rfWake s wsfn next) := by
  unfold State.rfWake
  try dsimp only
  repeat' (first
    | with_reducible first
      | exact h₀
      | exact Only.refl _
      | refine wr_only ?_ ?_
      | refine only_of_fst (by assumption) ?_
    | intro _
    | split
    | dsimp only
    | exact fieldIn_block (b := 7) rfl (bit_mid hm rfl)
    | (with_reducible refine Only.upd rfl hm ?_ ?_; exact {}))

theorem wakeChange_only {μ : Nat} {s₀ : State} {s : State} (hm : sub 35184372088960 μ = true) (h₀ : Only μ s₀ s) : Only μ s₀ (State.wakeChange s) := by
  unfold State.wakeChange
  try dsimp only
  repeat' (first
    | with_reducible first
      | exact h₀
      | exact Only.refl _
      | refine wr_only ?_ ?_
      | refine only_of_fst (by assumption) ?_
    | intro _
    | split
    | dsimp only
    | exact fieldIn_block (b := 7) rfl (bit_mid hm rfl)
    | (with_reducible refine Only.upd rfl hm ?_ ?_; exact {}))

theorem ltabWrite_only {μ : Nat} {s₀ : State} {s : State} {n : Nat} {w : Nat} (hm : sub 35184405643392 μ = true) (h₀ : Only μ s₀ s) : Only μ s₀ (State.ltabWrite s n w) := by
  unfold State.ltabWrite
  try dsimp only
  repeat' (first
    | with_reducible first
      | exact h₀
      | exact Only.refl _
      | refine queueAssign_only (sub_mid rfl hm) ?_
      | refine wr_only ?_ ?_
      | exact RFM_LTAB_W0_CELL_in (bit_mid hm rfl)
      | exact RFM_LTAB_W0_EN_in (bit_mid hm rfl)
      | exact RFM_LTAB_W0_PH_in (bit_mid hm rfl)
      | exact RFM_LTAB_W0_RCELL_in (bit_mid hm rfl)
      | exact RFM_LTAB_W0_RELAY_in (bit_mid hm rfl)
      | exact RFM_LTAB_W0_RELAYED_in (bit_mid hm rfl)
      | exact RFM_LTAB_W0_RP_in (bit_mid hm rfl)
      | exact RFM_LTAB_W0_SLEEPY_in (bit_mid hm rfl)
      | refine only_of_fst (by assumption) ?_
    | intro _
    | split
    | dsimp only
    | (with_reducible refine Only.upd rfl hm ?_ ?_; exact {}))

theorem rfShut_only {μ : Nat} {s₀ : State} {s : State} {r : Nat} (hm : sub 35184405643392 μ = true) (h₀ : Only μ s₀ s) : Only μ s₀ (State.rfShut s r) := by
  unfold State.rfShut
  try dsimp only
  repeat' (first
    | with_reducible first
      | exact h₀
      | exact Only.refl _
      | refine onRadio_only (sub_mid rfl hm) ?_
      | refine setDl_only (sub_mid rfl hm) ?_
      | refine dlResult_only (sub_mid rfl hm) ?_
      | refine wr_only ?_ ?_
      | exact rfRunst_in (bit_mid hm rfl)
      | refine only_foldl ?_ ?_
      | refine only_foldl_pair ?_ ?_
      | refine only_of_fst (by assumption) ?_
    | intro _
    | split
    | dsimp only)

theorem rfRunning_only {μ : Nat} {s₀ : State} {s : State} {r : Nat} (hm : sub 35184372088960 μ = true) (h₀ : Only μ s₀ s) : Only μ s₀ (State.rfRunning s r) := by
  unfold State.rfRunning
  try dsimp only
  repeat' (first
    | with_reducible first
      | exact h₀
      | exact Only.refl _
      | refine onRadio_only (sub_mid rfl hm) ?_
      | refine wr_only ?_ ?_
      | exact rfRunst_in (bit_mid hm rfl)
      | refine only_of_fst (by assumption) ?_
    | intro _
    | split
    | dsimp only)

/-! ### Plm -/

theorem plcPending_only {μ : Nat} {s₀ : State} {s : State} {n : Nat} (hm : sub 70368744177664 μ = true) (h₀ : Only μ s₀ s) : Only μ s₀ (State.plcPending s n) := by
  unfold State.plcPending
  try dsimp only
  repeat' (first
    | with_reducible first
      | exact h₀
      | exact Only.refl _
      | refine only_of_fst (by assumption) ?_
    | intro _
    | split
    | dsimp only
    | (with_reducible refine Only.upd rfl hm ?_ ?_; exact {}))

theorem plmStart_only {μ : Nat} {s₀ : State} {s : State} (hm : sub 70368744177920 μ = true) (h₀ : Only μ s₀ s) : Only μ s₀ (State.plmStart s) := by
  unfold State.plmStart
  try dsimp only
  repeat' (first
    | with_reducible first
      | exact h₀
      | exact Only.refl _
      | refine plcPending_only (sub_mid rfl hm) ?_
      | refine raiseIf_only (sub_mid rfl hm) ?_ ?_
      | refine wr_only ?_ ?_
      | refine only_foldl ?_ ?_
      | refine only_foldl_pair ?_ ?_
      | refine only_of_fst (by assumption) ?_
    | intro _
    | split
    | dsimp only
    | exact fieldIn_block (b := 8) rfl (bit_mid hm rfl)
    | (with_reducible refine Only.upd rfl hm ?_ ?_; exact {}))

theorem plcEmit_only {μ : Nat} {s₀ : State} {s : State} {at' : Nat} {f : Octets} (hm : sub 4503599627370496 μ = true) (h₀ : Only μ s₀ s) : Only μ s₀ (State.plcEmit s at' f) := by
  unfold State.plcEmit
  try dsimp only
  repeat' (first
    | with_reducible first
      | exact h₀
      | exact Only.refl _
      | refine emit_only (sub_mid rfl hm) ?_
      | refine only_of_fst (by assumption) ?_
    | intro _
    | split
    | dsimp only)

theorem plcOut_only {μ : Nat} {s₀ : State} {s : State} {start : Nat} {f : Octets} (hm : sub 4503599627370752 μ = true) (h₀ : Only μ s₀ s) : Only μ s₀ (State.plcOut s start f) := by
  unfold State.plcOut
  try dsimp only
  repeat' (first
    | with_reducible first
      | exact h₀
      | exact Only.refl _
      | refine count_only (sub_mid rfl hm) ?_ ?_ ?_
      | refine plcEmit_only (sub_mid rfl hm) ?_
      | refine only_of_fst (by assumption) ?_
    | intro _
    | split
    | dsimp only
    | exact fieldIn_block (b := 8) rfl (bit_mid hm rfl))

theorem plcFc_only {μ : Nat} {s₀ : State} {s : State} (hm : sub 256 μ = true) (h₀ : Only μ s₀ s) : Only μ s₀ (State.plcFc s).1 := by
  unfold State.plcFc
  try dsimp only
  repeat' (first
    | with_reducible first
      | exact h₀
      | exact Only.refl _
      | refine raiseIf_only (sub_mid rfl hm) ?_ ?_
      | refine raise_only (sub_mid rfl hm) ?_ ?_
      | refine wr_only ?_ ?_
      | refine only_of_fst (by assumption) ?_
    | intro _
    | split
    | dsimp only
    | exact fieldIn_block (b := 8) rfl (bit_mid hm rfl))

theorem plcFrame_only {μ : Nat} {s₀ : State} {s : State} {dst : Option Nat} {payload : Octets} (hm : sub 70368744243456 μ = true) (h₀ : Only μ s₀ s) : Only μ s₀ (State.plcFrame s dst payload).1 := by
  unfold State.plcFrame
  try dsimp only
  repeat' (first
    | with_reducible first
      | exact h₀
      | exact Only.refl _
      | refine plcFc_only (sub_mid rfl hm) ?_
      | refine keyFor_only (sub_mid rfl hm) ?_
      | refine only_of_fst (by assumption) ?_
    | intro _
    | split
    | dsimp only
    | (with_reducible refine Only.upd rfl hm ?_ ?_; exact {}))

theorem cycleStart_only {μ : Nat} {s₀ : State} {s : State} {p : Int} (hm : sub 70368744177920 μ = true) (h₀ : Only μ s₀ s) : Only μ s₀ (State.cycleStart s p) := by
  unfold State.cycleStart
  try dsimp only
  repeat' (first
    | with_reducible first
      | exact h₀
      | exact Only.refl _
      | refine wr_only ?_ ?_
      | refine only_of_fst (by assumption) ?_
    | intro _
    | split
    | dsimp only
    | exact fieldIn_block (b := 8) rfl (bit_mid hm rfl)
    | (with_reducible refine Only.upd rfl hm ?_ ?_; exact {}))

theorem timeFrame_only {μ : Nat} {s₀ : State} {s : State} {g : GuardMeet} (hm : sub 4573968408314112 μ = true) (h₀ : Only μ s₀ s) : Only μ s₀ (State.timeFrame s g) := by
  unfold State.timeFrame
  try dsimp only
  repeat' (first
    | with_reducible first
      | exact h₀
      | exact Only.refl _
      | refine plcOut_only (sub_mid rfl hm) ?_
      | refine frameLost_only (sub_mid rfl hm) ?_
      | refine plcFrame_only (sub_mid rfl hm) ?_
      | refine cycleStart_only (sub_mid rfl hm) ?_
      | refine only_of_fst (by assumption) ?_
    | intro _
    | split
    | dsimp only)

theorem plcTabWrite_only {μ : Nat} {s₀ : State} {s : State} {n : Nat} {w : Nat} (hm : sub 70368744177920 μ = true) (h₀ : Only μ s₀ s) : Only μ s₀ (State.plcTabWrite s n w) := by
  unfold State.plcTabWrite
  try dsimp only
  repeat' (first
    | with_reducible first
      | exact h₀
      | exact Only.refl _
      | refine plcPending_only (sub_mid rfl hm) ?_
      | refine wr_only ?_ ?_
      | exact PLM_LTAB_W0_CELL_in (bit_mid hm rfl)
      | exact PLM_LTAB_W0_EN_in (bit_mid hm rfl)
      | exact PLM_LTAB_W0_PPH_in (bit_mid hm rfl)
      | exact PLM_LTAB_W0_PRP_in (bit_mid hm rfl)
      | refine only_of_fst (by assumption) ?_
    | intro _
    | split
    | dsimp only
    | (with_reducible refine Only.upd rfl hm ?_ ?_; exact {}))

theorem plcDlyWrite_only {μ : Nat} {s₀ : State} {s : State} {n : Nat} {v : Nat} (hm : sub 70368744177920 μ = true) (h₀ : Only μ s₀ s) : Only μ s₀ (State.plcDlyWrite s n v) := by
  unfold State.plcDlyWrite
  try dsimp only
  repeat' (first
    | with_reducible first
      | exact h₀
      | exact Only.refl _
      | refine plcPending_only (sub_mid rfl hm) ?_
      | refine wr_only ?_ ?_
      | exact PLM_LTAB_W1_DLY_in (bit_mid hm rfl)
      | refine only_of_fst (by assumption) ?_
    | intro _
    | split
    | dsimp only)

theorem onPlcLink_only {μ : Nat} {s₀ : State} {s : State} {n : Nat} {f : PlcLink → PlcLink} (hm : sub 70368744177664 μ = true) (h₀ : Only μ s₀ s) : Only μ s₀ (State.onPlcLink s n f) := by
  unfold State.onPlcLink
  try dsimp only
  repeat' (first
    | with_reducible first
      | exact h₀
      | exact Only.refl _
      | refine only_of_fst (by assumption) ?_
    | intro _
    | split
    | dsimp only
    | (with_reducible refine Only.upd rfl hm ?_ ?_; exact {}))

theorem plcPost_only {μ : Nat} {s₀ : State} {s : State} {kind : Nat} {p : Octets} {t : Nat} (hm : sub 33554432 μ = true) (h₀ : Only μ s₀ s) : Only μ s₀ (State.plcPost s kind p t) := by
  unfold State.plcPost
  try dsimp only
  repeat' (first
    | with_reducible first
      | exact h₀
      | exact Only.refl _
      | refine post_only (sub_mid rfl hm) ?_
      | refine only_of_fst (by assumption) ?_
    | intro _
    | split
    | dsimp only)

theorem plcHeard_only {μ : Nat} {s₀ : State} {s : State} {n : Nat} {t : Time} (hm : sub 70368777732352 μ = true) (h₀ : Only μ s₀ s) : Only μ s₀ (State.plcHeard s n t) := by
  unfold State.plcHeard
  try dsimp only
  repeat' (first
    | with_reducible first
      | exact h₀
      | exact Only.refl _
      | refine plcPost_only (sub_mid rfl hm) ?_
      | refine onPlcLink_only (sub_mid rfl hm) ?_
      | refine wr_only ?_ ?_
      | exact PLM_LTAB_W3_MISS_in (bit_mid hm rfl)
      | exact PLM_LTAB_W3_PRES_in (bit_mid hm rfl)
      | refine only_of_fst (by assumption) ?_
    | intro _
    | split
    | dsimp only)

theorem plcReportEnd_only {μ : Nat} {s₀ : State} {s : State} {n : Nat} {p : Int} (hm : sub 70368777732352 μ = true) (h₀ : Only μ s₀ s) : Only μ s₀ (State.plcReportEnd s n p) := by
  unfold State.plcReportEnd
  try dsimp only
  repeat' (first
    | with_reducible first
      | exact h₀
      | exact Only.refl _
      | refine raise_only (sub_mid rfl hm) ?_ ?_
      | refine plcPost_only (sub_mid rfl hm) ?_
      | refine onPlcLink_only (sub_mid rfl hm) ?_
      | refine wr_only ?_ ?_
      | exact PLM_LTAB_W3_MISS_in (bit_mid hm rfl)
      | exact PLM_LTAB_W3_PRES_in (bit_mid hm rfl)
      | refine only_of_fst (by assumption) ?_
    | intro _
    | split
    | dsimp only
    | exact fieldIn_block (b := 8) rfl (bit_mid hm rfl))

theorem setPlcQueue_only {μ : Nat} {s₀ : State} {s : State} {q : List Downlink} (hm : sub 70368744177920 μ = true) (h₀ : Only μ s₀ s) : Only μ s₀ (State.setPlcQueue s q) := by
  unfold State.setPlcQueue
  try dsimp only
  repeat' (first
    | with_reducible first
      | exact h₀
      | exact Only.refl _
      | refine wr_only ?_ ?_
      | refine only_of_fst (by assumption) ?_
    | intro _
    | split
    | dsimp only
    | exact fieldIn_block (b := 8) rfl (bit_mid hm rfl)
    | (with_reducible refine Only.upd rfl hm ?_ ?_; exact {}))

theorem plcResult_only {μ : Nat} {s₀ : State} {s : State} {d : Downlink} {result : Nat} {cellEnd : Nat} (hm : sub 33554688 μ = true) (h₀ : Only μ s₀ s) : Only μ s₀ (State.plcResult s d result cellEnd) := by
  unfold State.plcResult
  try dsimp only
  repeat' (first
    | with_reducible first
      | exact h₀
      | exact Only.refl _
      | refine raise_only (sub_mid rfl hm) ?_ ?_
      | refine count_only (sub_mid rfl hm) ?_ ?_ ?_
      | refine plcPost_only (sub_mid rfl hm) ?_
      | refine only_of_fst (by assumption) ?_
    | intro _
    | split
    | dsimp only
    | exact fieldIn_block (b := 8) rfl (bit_mid hm rfl))

theorem plcTxcmd_only {μ : Nat} {s₀ : State} {s : State} {handle : Nat} {dst : Nat} {len : Nat} (hm : sub 70368777732352 μ = true) (h₀ : Only μ s₀ s) : Only μ s₀ (State.plcTxcmd s handle dst len) := by
  unfold State.plcTxcmd
  try dsimp only
  repeat' (first
    | with_reducible first
      | exact h₀
      | exact Only.refl _
      | refine raise_only (sub_mid rfl hm) ?_ ?_
      | refine plcResult_only (sub_mid rfl hm) ?_
      | refine setPlcQueue_only (sub_mid rfl hm) ?_
      | refine only_of_fst (by assumption) ?_
    | intro _
    | split
    | dsimp only
    | exact fieldIn_block (b := 8) rfl (bit_mid hm rfl))

theorem plcDone_only {μ : Nat} {s₀ : State} {s : State} {d : Downlink} {assign : Bool} (hm : sub 70368744177920 μ = true) (h₀ : Only μ s₀ s) : Only μ s₀ (State.plcDone s d assign) := by
  unfold State.plcDone
  try dsimp only
  repeat' (first
    | with_reducible first
      | exact h₀
      | exact Only.refl _
      | refine setPlcQueue_only (sub_mid rfl hm) ?_
      | refine only_of_fst (by assumption) ?_
    | intro _
    | split
    | dsimp only
    | (with_reducible refine Only.upd rfl hm ?_ ?_; exact {}))

theorem plcUnicast_only {μ : Nat} {s₀ : State} {s : State} {start : Nat} {air : Nat} {d : Downlink} {assign : Bool} {g : GuardMeet} (hm : sub 4573968408314112 μ = true) (h₀ : Only μ s₀ s) : Only μ s₀ (State.plcUnicast s start air d assign g) := by
  unfold State.plcUnicast
  try dsimp only
  repeat' (first
    | with_reducible first
      | exact h₀
      | exact Only.refl _
      | refine plcOut_only (sub_mid rfl hm) ?_
      | refine setPlcQueue_only (sub_mid rfl hm) ?_
      | refine plcDone_only (sub_mid rfl hm) ?_
      | refine frameLost_only (sub_mid rfl hm) ?_
      | refine plcResult_only (sub_mid rfl hm) ?_
      | refine plcFrame_only (sub_mid rfl hm) ?_
      | refine only_of_fst (by assumption) ?_
    | intro _
    | split
    | dsimp only
    | (with_reducible refine Only.upd rfl hm ?_ ?_; exact {}))

theorem fillPlcCell_only {μ : Nat} {s₀ : State} {s : State} {start : Nat} {air : Nat} {g : GuardMeet} (hm : sub 4573969482055952 μ = true) (h₀ : Only μ s₀ s) : Only μ s₀ (State.fillPlcCell s start air g) := by
  unfold State.fillPlcCell
  try dsimp only
  repeat' (first
    | with_reducible first
      | exact h₀
      | exact Only.refl _
      | refine plcUnicast_only (sub_mid rfl hm) ?_
      | refine plcDone_only (sub_mid rfl hm) ?_
      | refine plcResult_only (sub_mid rfl hm) ?_
      | refine plcOut_only (sub_mid rfl hm) ?_
      | refine markSent_only (sub_mid rfl hm) ?_
      | refine frameLost_only (sub_mid rfl hm) ?_
      | refine plcFrame_only (sub_mid rfl hm) ?_
      | refine askBundle_only (sub_mid rfl hm) ?_
      | refine only_of_fst (by assumption) ?_
    | intro _
    | split
    | dsimp only)

theorem plcBundleCell_only {μ : Nat} {s₀ : State} {s : State} {air : Nat} {g : GuardMeet} (hm : sub 4573969482055952 μ = true) (h₀ : Only μ s₀ s) : Only μ s₀ (State.plcBundleCell s air g) := by
  unfold State.plcBundleCell
  try dsimp only
  repeat' (first
    | with_reducible first
      | exact h₀
      | exact Only.refl _
      | refine fillPlcCell_only (sub_mid rfl hm) ?_
      | refine only_of_fst (by assumption) ?_
    | intro _
    | split
    | dsimp only)

theorem plcWaited_only {μ : Nat} {s₀ : State} {s : State} {w : Await × Bool} (hm : sub 70368744177664 μ = true) (h₀ : Only μ s₀ s) : Only μ s₀ (State.plcWaited s w) := by
  unfold State.plcWaited
  try dsimp only
  repeat' (first
    | with_reducible first
      | exact h₀
      | exact Only.refl _
      | refine only_of_fst (by assumption) ?_
    | intro _
    | split
    | dsimp only
    | (with_reducible refine Only.upd rfl hm ?_ ?_; exact {}))

theorem plcAck_only {μ : Nat} {s₀ : State} {s : State} {ours : Bool} (hm : sub 70368777732352 μ = true) (h₀ : Only μ s₀ s) : Only μ s₀ (State.plcAck s ours) := by
  unfold State.plcAck
  try dsimp only
  repeat' (first
    | with_reducible first
      | exact h₀
      | exact Only.refl _
      | refine plcDone_only (sub_mid rfl hm) ?_
      | refine plcResult_only (sub_mid rfl hm) ?_
      | refine plcWaited_only (sub_mid rfl hm) ?_
      | refine wr_only ?_ ?_
      | exact PLM_LTAB_W3_DLYM_in (bit_mid hm rfl)
      | refine only_of_fst (by assumption) ?_
    | intro _
    | split
    | dsimp only)

theorem plcAckExpiry_only {μ : Nat} {s₀ : State} {s : State} (hm : sub 70368777732352 μ = true) (h₀ : Only μ s₀ s) : Only μ s₀ (State.plcAckExpiry s) := by
  unfold State.plcAckExpiry
  try dsimp only
  repeat' (first
    | with_reducible first
      | exact h₀
      | exact Only.refl _
      | refine plcWaited_only (sub_mid rfl hm) ?_
      | refine plcDone_only (sub_mid rfl hm) ?_
      | refine plcResult_only (sub_mid rfl hm) ?_
      | refine only_of_fst (by assumption) ?_
    | intro _
    | split
    | dsimp only)

theorem plcDrop_only {μ : Nat} {s₀ : State} {s : State} (hm : sub 256 μ = true) (h₀ : Only μ s₀ s) : Only μ s₀ (State.plcDrop s) := by
  unfold State.plcDrop
  try dsimp only
  repeat' (first
    | with_reducible first
      | exact h₀
      | exact Only.refl _
      | refine count_only (sub_mid rfl hm) ?_ ?_ ?_
      | refine only_of_fst (by assumption) ?_
    | intro _
    | split
    | dsimp only
    | exact fieldIn_block (b := 8) rfl (bit_mid hm rfl))

theorem plcForeign_only {μ : Nat} {s₀ : State} {s : State} {t : Time} {f : Octets} {fcs : Bool} (hm : sub 34668800 μ = true) (h₀ : Only μ s₀ s) : Only μ s₀ (State.plcForeign s t f fcs) := by
  unfold State.plcForeign
  try dsimp only
  repeat' (first
    | with_reducible first
      | exact h₀
      | exact Only.refl _
      | refine plcDrop_only (sub_mid rfl hm) ?_
      | refine raise_only (sub_mid rfl hm) ?_ ?_
      | refine dcqOffer_only (sub_mid rfl hm) ?_
      | refine keyFor_only (sub_mid rfl hm) ?_
      | refine only_of_fst (by assumption) ?_
    | intro _
    | split
    | dsimp only
    | exact fieldIn_block (b := 8) rfl (bit_mid hm rfl))

theorem plcAccept_only {μ : Nat} {s₀ : State} {s : State} {src : Nat} {idx : Nat} {fc : Nat} {snr : Nat} {fcsValue : Nat} {air : Nat} {t : Time} (hm : sub 4573968405102848 μ = true) (h₀ : Only μ s₀ s) : Only μ s₀ (State.plcAccept s src idx fc snr fcsValue air t) := by
  unfold State.plcAccept
  try dsimp only
  repeat' (first
    | with_reducible first
      | exact h₀
      | exact Only.refl _
      | refine plcHeard_only (sub_mid rfl hm) ?_
      | refine count_only (sub_mid rfl hm) ?_ ?_ ?_
      | refine plcEmit_only (sub_mid rfl hm) ?_
      | refine wr_only ?_ ?_
      | exact PLM_LTAB_W1_FCKEY_in (bit_mid hm rfl)
      | exact PLM_LTAB_W2_FC_in (bit_mid hm rfl)
      | exact PLM_LTAB_W3_SNR_in (bit_mid hm rfl)
      | refine only_of_fst (by assumption) ?_
    | intro _
    | split
    | dsimp only
    | exact fieldIn_block (b := 8) rfl (bit_mid hm rfl))

theorem plcLantern_only {μ : Nat} {s₀ : State} {s : State} {t : Time} {f : Octets} {fcs : Bool} {fcsValue : Nat} {snr : Nat} {air : Nat} (hm : sub 4573968406216960 μ = true) (h₀ : Only μ s₀ s) : Only μ s₀ (State.plcLantern s t f fcs fcsValue snr air) := by
  unfold State.plcLantern
  try dsimp only
  repeat' (first
    | with_reducible first
      | exact h₀
      | exact Only.refl _
      | refine plcDrop_only (sub_mid rfl hm) ?_
      | refine raise_only (sub_mid rfl hm) ?_ ?_
      | refine plcAccept_only (sub_mid rfl hm) ?_
      | refine dcqOffer_only (sub_mid rfl hm) ?_
      | refine keyFor_only (sub_mid rfl hm) ?_
      | refine only_of_fst (by assumption) ?_
    | intro _
    | split
    | dsimp only
    | exact fieldIn_block (b := 8) rfl (bit_mid hm rfl))

theorem plcReceive_only {μ : Nat} {s₀ : State} {s : State} {f : Octets} {meet : PlcMeet} {fcsValue : Nat} {snr : Nat} (hm : sub 4573968406216960 μ = true) (h₀ : Only μ s₀ s) : Only μ s₀ (State.plcReceive s f meet fcsValue snr) := by
  unfold State.plcReceive
  try dsimp only
  repeat' (first
    | with_reducible first
      | exact h₀
      | exact Only.refl _
      | refine plcLantern_only (sub_mid rfl hm) ?_
      | refine plcForeign_only (sub_mid rfl hm) ?_
      | refine plcDrop_only (sub_mid rfl hm) ?_
      | refine only_of_fst (by assumption) ?_
    | intro _
    | split
    | dsimp only)

theorem plmShut_only {μ : Nat} {s₀ : State} {s : State} (hm : sub 70368777732352 μ = true) (h₀ : Only μ s₀ s) : Only μ s₀ (State.plmShut s) := by
  unfold State.plmShut
  try dsimp only
  repeat' (first
    | with_reducible first
      | exact h₀
      | exact Only.refl _
      | refine setPlcQueue_only (sub_mid rfl hm) ?_
      | refine plcResult_only (sub_mid rfl hm) ?_
      | refine wr_only ?_ ?_
      | refine only_foldl ?_ ?_
      | refine only_foldl_pair ?_ ?_
      | refine only_of_fst (by assumption) ?_
    | intro _
    | split
    | dsimp only
    | exact fieldIn_block (b := 8) rfl (bit_mid hm rfl)
    | (with_reducible refine Only.upd rfl hm ?_ ?_; exact {}))

/-! ### Reflect -/

theorem setPhase_only {μ : Nat} {s₀ : State} {s : State} {p : Nat} (hm : sub 256 μ = true) (h₀ : Only μ s₀ s) : Only μ s₀ (State.setPhase s p) := by
  unfold State.setPhase
  try dsimp only
  repeat' (first
    | with_reducible first
      | exact h₀
      | exact Only.refl _
      | refine wr_only ?_ ?_
      | refine only_of_fst (by assumption) ?_
    | intro _
    | split
    | dsimp only
    | exact fieldIn_block (b := 8) rfl (bit_mid hm rfl))

theorem rflArm_only {μ : Nat} {s₀ : State} {s : State} {baseline : Bool} {slot : Nat} (hm : sub 140737488355584 μ = true) (h₀ : Only μ s₀ s) : Only μ s₀ (State.rflArm s baseline slot) := by
  unfold State.rflArm
  try dsimp only
  repeat' (first
    | with_reducible first
      | exact h₀
      | exact Only.refl _
      | refine setPhase_only (sub_mid rfl hm) ?_
      | refine count_only (sub_mid rfl hm) ?_ ?_ ?_
      | refine raise_only (sub_mid rfl hm) ?_ ?_
      | refine wr_only ?_ ?_
      | refine only_of_fst (by assumption) ?_
    | intro _
    | split
    | dsimp only
    | exact fieldIn_block (b := 8) rfl (bit_mid hm rfl)
    | (with_reducible refine Only.upd rfl hm ?_ ?_; exact {}))

theorem rflEnd_only {μ : Nat} {s₀ : State} {s : State} {r : ReflectRun} {status : Nat} {sigma : Nat} {thru : Nat} {cs : List Change} {more : Bool} (hm : sub 140737521910016 μ = true) (h₀ : Only μ s₀ s) : Only μ s₀ (State.rflEnd s r status sigma thru cs more) := by
  unfold State.rflEnd
  try dsimp only
  repeat' (first
    | with_reducible first
      | exact h₀
      | exact Only.refl _
      | refine setPhase_only (sub_mid rfl hm) ?_
      | refine post_only (sub_mid rfl hm) ?_
      | refine raise_only (sub_mid rfl hm) ?_ ?_
      | refine raiseIf_only (sub_mid rfl hm) ?_ ?_
      | refine only_of_fst (by assumption) ?_
    | intro _
    | split
    | dsimp only
    | exact fieldIn_block (b := 8) rfl (bit_mid hm rfl)
    | (with_reducible refine Only.upd rfl hm ?_ ?_; exact {}))

theorem baselineVoid_only {μ : Nat} {s₀ : State} {s : State} {r : ReflectRun} (hm : sub 140857747447808 μ = true) (h₀ : Only μ s₀ s) : Only μ s₀ (State.baselineVoid s r) := by
  unfold State.baselineVoid
  try dsimp only
  repeat' (first
    | with_reducible first
      | exact h₀
      | exact Only.refl _
      | refine pstWords_only (sub_mid rfl hm) ?_
      | refine only_of_fst (by assumption) ?_
    | intro _
    | split
    | dsimp only)

theorem rflFail_only {μ : Nat} {s₀ : State} {s : State} {r : ReflectRun} {status : Nat} (hm : sub 140857781002496 μ = true) (h₀ : Only μ s₀ s) : Only μ s₀ (State.rflFail s r status) := by
  unfold State.rflFail
  try dsimp only
  repeat' (first
    | with_reducible first
      | exact h₀
      | exact Only.refl _
      | refine baselineVoid_only (sub_mid rfl hm) ?_
      | refine rflEnd_only (sub_mid rfl hm) ?_
      | refine only_of_fst (by assumption) ?_
    | intro _
    | split
    | dsimp only)

theorem rflStart_only {μ : Nat} {s₀ : State} {s : State} {noise : List (List Int)} (hm : sub 140857781002496 μ = true) (h₀ : Only μ s₀ s) : Only μ s₀ (State.rflStart s noise) := by
  unfold State.rflStart
  try dsimp only
  repeat' (first
    | with_reducible first
      | exact h₀
      | exact Only.refl _
      | refine setPhase_only (sub_mid rfl hm) ?_
      | refine rflFail_only (sub_mid rfl hm) ?_
      | refine only_of_fst (by assumption) ?_
    | intro _
    | split
    | dsimp only
    | (with_reducible refine Only.upd rfl hm ?_ ?_; exact {}))

theorem rflShot_only {μ : Nat} {s₀ : State} {s : State} {capture : List Int} {clipped : Bool} {poison : Bool} (hm : sub 140857782051072 μ = true) (h₀ : Only μ s₀ s) : Only μ s₀ (State.rflShot s capture clipped poison) := by
  unfold State.rflShot
  try dsimp only
  repeat' (first
    | with_reducible first
      | exact h₀
      | exact Only.refl _
      | refine setPhase_only (sub_mid rfl hm) ?_
      | refine rflFail_only (sub_mid rfl hm) ?_
      | refine dcqPoison_only (sub_mid rfl hm) ?_
      | refine wr_only ?_ ?_
      | refine only_of_fst (by assumption) ?_
    | intro _
    | split
    | dsimp only
    | exact fieldIn_block (b := 8) rfl (bit_mid hm rfl)
    | (with_reducible refine Only.upd rfl hm ?_ ?_; exact {}))

theorem rflSearch_only {μ : Nat} {s₀ : State} {s : State} {r : ReflectRun} (hm : sub 140737521910016 μ = true) (h₀ : Only μ s₀ s) : Only μ s₀ (State.rflSearch s r) := by
  unfold State.rflSearch
  try dsimp only
  repeat' (first
    | with_reducible first
      | exact h₀
      | exact Only.refl _
      | refine rflEnd_only (sub_mid rfl hm) ?_
      | refine only_of_fst (by assumption) ?_
    | intro _
    | split
    | dsimp only)

theorem baselineProcess_only {μ : Nat} {s₀ : State} {s : State} {r : ReflectRun} (hm : sub 140857747448064 μ = true) (h₀ : Only μ s₀ s) : Only μ s₀ (State.baselineProcess s r) := by
  unfold State.baselineProcess
  try dsimp only
  repeat' (first
    | with_reducible first
      | exact h₀
      | exact Only.refl _
      | refine pstWords_only (sub_mid rfl hm) ?_
      | refine setPhase_only (sub_mid rfl hm) ?_
      | refine raise_only (sub_mid rfl hm) ?_ ?_
      | refine only_of_fst (by assumption) ?_
    | intro _
    | split
    | dsimp only
    | exact fieldIn_block (b := 8) rfl (bit_mid hm rfl)
    | (with_reducible refine Only.upd rfl hm ?_ ?_; exact {}))

theorem rflProcess_only {μ : Nat} {s₀ : State} {s : State} (hm : sub 140857781002496 μ = true) (h₀ : Only μ s₀ s) : Only μ s₀ (State.rflProcess s) := by
  unfold State.rflProcess
  try dsimp only
  repeat' (first
    | with_reducible first
      | exact h₀
      | exact Only.refl _
      | refine rflSearch_only (sub_mid rfl hm) ?_
      | refine rflFail_only (sub_mid rfl hm) ?_
      | refine baselineProcess_only (sub_mid rfl hm) ?_
      | refine only_of_fst (by assumption) ?_
    | intro _
    | split
    | dsimp only)

theorem baselineDone_only {μ : Nat} {s₀ : State} {s : State} (hm : sub 140857781002496 μ = true) (h₀ : Only μ s₀ s) : Only μ s₀ (State.baselineDone s) := by
  unfold State.baselineDone
  try dsimp only
  repeat' (first
    | with_reducible first
      | exact h₀
      | exact Only.refl _
      | refine setPhase_only (sub_mid rfl hm) ?_
      | refine raise_only (sub_mid rfl hm) ?_ ?_
      | refine post_only (sub_mid rfl hm) ?_
      | refine pstWords_only (sub_mid rfl hm) ?_
      | refine only_of_fst (by assumption) ?_
    | intro _
    | split
    | dsimp only
    | exact fieldIn_block (b := 8) rfl (bit_mid hm rfl)
    | (with_reducible refine Only.upd rfl hm ?_ ?_; exact {}))

theorem rflGiveUp_only {μ : Nat} {s₀ : State} {s : State} {r : ReflectRun} (hm : sub 140857781002496 μ = true) (h₀ : Only μ s₀ s) : Only μ s₀ (State.rflGiveUp s r) := by
  unfold State.rflGiveUp
  try dsimp only
  repeat' (first
    | with_reducible first
      | exact h₀
      | exact Only.refl _
      | refine rflFail_only (sub_mid rfl hm) ?_
      | refine only_of_fst (by assumption) ?_
    | intro _
    | split
    | dsimp only
    | (with_reducible refine Only.upd rfl hm ?_ ?_; exact {}))

theorem rflAbort_only {μ : Nat} {s₀ : State} {s : State} (hm : sub 140857781002496 μ = true) (h₀ : Only μ s₀ s) : Only μ s₀ (State.rflAbort s) := by
  unfold State.rflAbort
  try dsimp only
  repeat' (first
    | with_reducible first
      | exact h₀
      | exact Only.refl _
      | refine rflGiveUp_only (sub_mid rfl hm) ?_
      | refine setPhase_only (sub_mid rfl hm) ?_
      | refine only_of_fst (by assumption) ?_
    | intro _
    | split
    | dsimp only
    | (with_reducible refine Only.upd rfl hm ?_ ?_; exact {}))

theorem quietEnd_only {μ : Nat} {s₀ : State} {s : State} (hm : sub 140857781002496 μ = true) (h₀ : Only μ s₀ s) : Only μ s₀ (State.quietEnd s) := by
  unfold State.quietEnd
  try dsimp only
  repeat' (first
    | with_reducible first
      | exact h₀
      | exact Only.refl _
      | refine rflFail_only (sub_mid rfl hm) ?_
      | refine only_of_fst (by assumption) ?_
    | intro _
    | split
    | dsimp only
    | (with_reducible refine Only.upd rfl hm ?_ ?_; exact {}))

theorem rflShut_only {μ : Nat} {s₀ : State} {s : State} (hm : sub 140737488355584 μ = true) (h₀ : Only μ s₀ s) : Only μ s₀ (State.rflShut s) := by
  unfold State.rflShut
  try dsimp only
  repeat' (first
    | with_reducible first
      | exact h₀
      | exact Only.refl _
      | refine setPhase_only (sub_mid rfl hm) ?_
      | refine wr_only ?_ ?_
      | refine only_of_fst (by assumption) ?_
    | intro _
    | split
    | dsimp only
    | exact fieldIn_block (b := 8) rfl (bit_mid hm rfl)
    | (with_reducible refine Only.upd rfl hm ?_ ?_; exact {}))

end Sys2Proof.Machine
end

