-- ==== Sys2Proof/Laws/OnlyModule.lean ====
section
/-!
SUPPORT. The parts of the state that the operations may change (`Only`): the loader, the lanes, the safety block, resets, the register map and the boot ROM.
-/
set_option linter.unusedTactic false
set_option linter.unreachableTactic false
set_option linter.unusedVariables false

namespace Sys2Proof.Machine
set_option Elab.async false

/-! ### Loader -/

theorem setStep_only {μ : Nat} {s₀ : State} {s : State} {x : UpdateStep} (hm : sub 281474976710656 μ = true) (h₀ : Only μ s₀ s) : Only μ s₀ (State.setStep s x) := by
  unfold State.setStep
  try dsimp only
  repeat' (first
    | with_reducible first
      | exact h₀
      | exact Only.refl _
      | refine only_of_fst (by assumption) ?_
    | intro _
    | split
    | dsimp only
    | (with_reducible refine Only.upd rfl hm ?_ ?_; exact {}))

theorem postOrHold_only {μ : Nat} {s₀ : State} {s : State} {e : Event} (hm : sub 2251799847239680 μ = true) (h₀ : Only μ s₀ s) : Only μ s₀ (State.postOrHold s e) := by
  unfold State.postOrHold
  try dsimp only
  repeat' (first
    | with_reducible first
      | exact h₀
      | exact Only.refl _
      | refine post_only (sub_mid rfl hm) ?_
      | refine only_of_fst (by assumption) ?_
    | intro _
    | split
    | dsimp only
    | (with_reducible refine Only.upd rfl hm ?_ ?_; exact {}))

theorem releaseHeld_only {μ : Nat} {s₀ : State} {s : State} (hm : sub 2251800484773892 μ = true) (h₀ : Only μ s₀ s) : Only μ s₀ (State.releaseHeld s) := by
  unfold State.releaseHeld
  try dsimp only
  repeat' (first
    | with_reducible first
      | exact h₀
      | exact Only.refl _
      | refine register_only (sub_mid rfl hm) ?_
      | refine only_foldl ?_ ?_
      | refine only_foldl_pair ?_ ?_
      | refine only_of_fst (by assumption) ?_
    | intro _
    | split
    | dsimp only
    | (with_reducible refine Only.upd rfl hm ?_ ?_; exact {}))

theorem rldEvent_only {μ : Nat} {s₀ : State} {s : State} {kind : Nat} {p : Octets} (hm : sub 2251799847239680 μ = true) (h₀ : Only μ s₀ s) : Only μ s₀ (State.rldEvent s kind p) := by
  unfold State.rldEvent
  try dsimp only
  repeat' (first
    | with_reducible first
      | exact h₀
      | exact Only.refl _
      | refine postOrHold_only (sub_mid rfl hm) ?_
      | refine only_of_fst (by assumption) ?_
    | intro _
    | split
    | dsimp only)

theorem writeRecord_only {μ : Nat} {s₀ : State} {s : State} (hm : sub 422332724158464 μ = true) (h₀ : Only μ s₀ s) : Only μ s₀ (State.writeRecord s) := by
  unfold State.writeRecord
  try dsimp only
  repeat' (first
    | with_reducible first
      | exact h₀
      | exact Only.refl _
      | refine pstWords_only (sub_mid rfl hm) ?_
      | refine only_of_fst (by assumption) ?_
    | intro _
    | split
    | dsimp only
    | (with_reducible refine Only.upd rfl hm ?_ ?_; exact {}))

theorem readRecord_only {μ : Nat} {s₀ : State} {s : State} (hm : sub 281474976972800 μ = true) (h₀ : Only μ s₀ s) : Only μ s₀ (State.readRecord s) := by
  unfold State.readRecord
  try dsimp only
  repeat' (first
    | with_reducible first
      | exact h₀
      | exact Only.refl _
      | refine wr_only ?_ ?_
      | refine only_of_fst (by assumption) ?_
    | intro _
    | split
    | dsimp only
    | exact fieldIn_block (b := 18) rfl (bit_mid hm rfl)
    | (with_reducible refine Only.upd rfl hm ?_ ?_; exact {}))

theorem upTo_only {μ : Nat} {s₀ : State} {s : State} {new : Nat} (hm : sub 2674132571660288 μ = true) (h₀ : Only μ s₀ s) : Only μ s₀ (State.upTo s new) := by
  unfold State.upTo
  try dsimp only
  repeat' (first
    | with_reducible first
      | exact h₀
      | exact Only.refl _
      | refine rldEvent_only (sub_mid rfl hm) ?_
      | refine writeRecord_only (sub_mid rfl hm) ?_
      | refine raise_only (sub_mid rfl hm) ?_ ?_
      | refine wr_only ?_ ?_
      | refine only_of_fst (by assumption) ?_
    | intro _
    | split
    | dsimp only
    | exact fieldIn_block (b := 18) rfl (bit_mid hm rfl))

theorem upCause_only {μ : Nat} {s₀ : State} {s : State} {c : Nat} (hm : sub 262144 μ = true) (h₀ : Only μ s₀ s) : Only μ s₀ (State.upCause s c) := by
  unfold State.upCause
  try dsimp only
  repeat' (first
    | with_reducible first
      | exact h₀
      | exact Only.refl _
      | refine wr_only ?_ ?_
      | refine only_of_fst (by assumption) ?_
    | intro _
    | split
    | dsimp only
    | exact fieldIn_block (b := 18) rfl (bit_mid hm rfl))

theorem signatureGood_only {μ : Nat} {s₀ : State} {s : State} {c : Octets} {ctx : Nat} (hm : sub 65536 μ = true) (h₀ : Only μ s₀ s) : Only μ s₀ (State.signatureGood s c ctx).1 := by
  unfold State.signatureGood
  try dsimp only
  repeat' (first
    | with_reducible first
      | exact h₀
      | exact Only.refl _
      | refine keyFor_only (sub_mid rfl hm) ?_
      | refine only_of_fst (by assumption) ?_
    | intro _
    | split
    | dsimp only)

theorem acceptable_only {μ : Nat} {s₀ : State} {s : State} {c : Octets} {ctx : Nat} (hm : sub 65536 μ = true) (h₀ : Only μ s₀ s) : Only μ s₀ (State.acceptable s c ctx).1 := by
  unfold State.acceptable
  try dsimp only
  repeat' (first
    | with_reducible first
      | exact h₀
      | exact Only.refl _
      | refine signatureGood_only (sub_mid rfl hm) ?_
      | refine only_of_fst (by assumption) ?_
    | intro _
    | split
    | dsimp only)

theorem bodyOf_only {μ : Nat} {s₀ : State} {s : State} {c : Octets} {ctx : Nat} (hm : sub 65536 μ = true) (h₀ : Only μ s₀ s) : Only μ s₀ (State.bodyOf s c ctx).1 := by
  unfold State.bodyOf
  try dsimp only
  repeat' (first
    | with_reducible first
      | exact h₀
      | exact Only.refl _
      | refine keyFor_only (sub_mid rfl hm) ?_
      | refine only_of_fst (by assumption) ?_
    | intro _
    | split
    | dsimp only)

theorem writeCodeStore_only {μ : Nat} {s₀ : State} {s : State} {c : Octets} (hm : sub 140857747447808 μ = true) (h₀ : Only μ s₀ s) : Only μ s₀ (State.writeCodeStore s c) := by
  unfold State.writeCodeStore
  try dsimp only
  repeat' (first
    | with_reducible first
      | exact h₀
      | exact Only.refl _
      | refine pstWords_only (sub_mid rfl hm) ?_
      | refine only_of_fst (by assumption) ?_
    | intro _
    | split
    | dsimp only)

theorem copyPst_only {μ : Nat} {s₀ : State} {s : State} {src : Nat} {dst : Nat} {n : Nat} (hm : sub 140857747447808 μ = true) (h₀ : Only μ s₀ s) : Only μ s₀ (State.copyPst s src dst n) := by
  unfold State.copyPst
  try dsimp only
  repeat' (first
    | with_reducible first
      | exact h₀
      | exact Only.refl _
      | refine pstWords_only (sub_mid rfl hm) ?_
      | refine only_of_fst (by assumption) ?_
    | intro _
    | split
    | dsimp only)

theorem rldStore_only {μ : Nat} {s₀ : State} {s : State} {erase : Bool} (hm : sub 281474976972800 μ = true) (h₀ : Only μ s₀ s) : Only μ s₀ (State.rldStore s erase) := by
  unfold State.rldStore
  try dsimp only
  repeat' (first
    | with_reducible first
      | exact h₀
      | exact Only.refl _
      | refine raise_only (sub_mid rfl hm) ?_ ?_
      | refine only_of_fst (by assumption) ?_
    | intro _
    | split
    | dsimp only
    | exact fieldIn_block (b := 18) rfl (bit_mid hm rfl)
    | (with_reducible refine Only.upd rfl hm ?_ ?_; exact {}))

theorem unverify_only {μ : Nat} {s₀ : State} {s : State} {a : Nat} (hm : sub 262144 μ = true) (h₀ : Only μ s₀ s) : Only μ s₀ (State.unverify s a) := by
  unfold State.unverify
  try dsimp only
  repeat' (first
    | with_reducible first
      | exact h₀
      | exact Only.refl _
      | refine wr_only ?_ ?_
      | exact RLD_SLOT_VERIFIED_in (bit_mid hm rfl)
      | refine only_of_fst (by assumption) ?_
    | intro _
    | split
    | dsimp only)

theorem acmDone_only {μ : Nat} {s₀ : State} {s : State} {fail : Bool} (hm : sub 18296972998082560 μ = true) (h₀ : Only μ s₀ s) : Only μ s₀ (State.acmDone s fail) := by
  unfold State.acmDone
  try dsimp only
  repeat' (first
    | with_reducible first
      | exact h₀
      | exact Only.refl _
      | refine acmWrite_only (sub_mid rfl hm) ?_
      | refine acmErase_only (sub_mid rfl hm) ?_
      | refine raise_only (sub_mid rfl hm) ?_ ?_
      | refine freeTick_only (sub_mid rfl hm) ?_
      | refine unverify_only (sub_mid rfl hm) ?_
      | refine only_of_fst (by assumption) ?_
    | intro _
    | split
    | dsimp only
    | exact fieldIn_block (b := 18) rfl (bit_mid hm rfl)
    | (with_reducible refine Only.upd rfl hm ?_ ?_; exact {}))

theorem acmAbort_only {μ : Nat} {s₀ : State} {s : State} (hm : sub 18015498021109760 μ = true) (h₀ : Only μ s₀ s) : Only μ s₀ (State.acmAbort s) := by
  unfold State.acmAbort
  try dsimp only
  repeat' (first
    | with_reducible first
      | exact h₀
      | exact Only.refl _
      | refine acmWrite_only (sub_mid rfl hm) ?_
      | refine freeTick_only (sub_mid rfl hm) ?_
      | refine only_of_fst (by assumption) ?_
    | intro _
    | split
    | dsimp only)

theorem rldVerify_only {μ : Nat} {s₀ : State} {s : State} {n : Nat} (hm : sub 2251799847567360 μ = true) (h₀ : Only μ s₀ s) : Only μ s₀ (State.rldVerify s n) := by
  unfold State.rldVerify
  try dsimp only
  repeat' (first
    | with_reducible first
      | exact h₀
      | exact Only.refl _
      | refine raise_only (sub_mid rfl hm) ?_ ?_
      | refine rldEvent_only (sub_mid rfl hm) ?_
      | refine acceptable_only (sub_mid rfl hm) ?_
      | refine wr_only ?_ ?_
      | exact RLD_SLOTVER_VERSION_in (bit_mid hm rfl)
      | exact RLD_SLOT_VERIFIED_in (bit_mid hm rfl)
      | refine only_of_fst (by assumption) ?_
    | intro _
    | split
    | dsimp only
    | exact fieldIn_block (b := 18) rfl (bit_mid hm rfl))

theorem rldSchedule_only {μ : Nat} {s₀ : State} {s : State} {kind : Nat} {cSlot : Nat} {fSlot : Nat} (hm : sub 2674132571660288 μ = true) (h₀ : Only μ s₀ s) : Only μ s₀ (State.rldSchedule s kind cSlot fSlot) := by
  unfold State.rldSchedule
  try dsimp only
  repeat' (first
    | with_reducible first
      | exact h₀
      | exact Only.refl _
      | refine upTo_only (sub_mid rfl hm) ?_
      | refine raise_only (sub_mid rfl hm) ?_ ?_
      | refine wr_only ?_ ?_
      | refine only_of_fst (by assumption) ?_
    | intro _
    | split
    | dsimp only
    | exact fieldIn_block (b := 18) rfl (bit_mid hm rfl)
    | (with_reducible refine Only.upd rfl hm ?_ ?_; exact {}))

theorem rldCancel_only {μ : Nat} {s₀ : State} {s : State} (hm : sub 2674132571660288 μ = true) (h₀ : Only μ s₀ s) : Only μ s₀ (State.rldCancel s) := by
  unfold State.rldCancel
  try dsimp only
  repeat' (first
    | with_reducible first
      | exact h₀
      | exact Only.refl _
      | refine raise_only (sub_mid rfl hm) ?_ ?_
      | refine setStep_only (sub_mid rfl hm) ?_
      | refine upTo_only (sub_mid rfl hm) ?_
      | refine only_of_fst (by assumption) ?_
    | intro _
    | split
    | dsimp only
    | exact fieldIn_block (b := 18) rfl (bit_mid hm rfl))

theorem rldCommand_only {μ : Nat} {s₀ : State} {s : State} {key : Nat} {commit : Bool} {run : State → State} (hm : sub 262144 μ = true) (hrun : ∀ s, Only μ s (run s)) (h₀ : Only μ s₀ s) : Only μ s₀ (State.rldCommand s key commit run) := by
  unfold State.rldCommand
  try dsimp only
  repeat' (first
    | with_reducible first
      | exact h₀
      | exact Only.refl _
      | refine raise_only (sub_mid rfl hm) ?_ ?_
      | refine Only.trans ?_ (hrun _)
      | refine only_of_fst (by assumption) ?_
    | intro _
    | split
    | dsimp only
    | exact fieldIn_block (b := 18) rfl (bit_mid hm rfl))

theorem saveDone_only {μ : Nat} {s₀ : State} {s : State} {fail : Bool} (hm : sub 20689630592835584 μ = true) (h₀ : Only μ s₀ s) : Only μ s₀ (State.saveDone s fail) := by
  unfold State.saveDone
  try dsimp only
  repeat' (first
    | with_reducible first
      | exact h₀
      | exact Only.refl _
      | refine upTo_only (sub_mid rfl hm) ?_
      | refine upCause_only (sub_mid rfl hm) ?_
      | refine acceptable_only (sub_mid rfl hm) ?_
      | refine acmErase_only (sub_mid rfl hm) ?_
      | refine acmWrite_only (sub_mid rfl hm) ?_
      | refine freeTick_only (sub_mid rfl hm) ?_
      | refine wr_only ?_ ?_
      | exact RLD_SLOTVER_VERSION_in (bit_mid hm rfl)
      | exact RLD_SLOT_VERIFIED_in (bit_mid hm rfl)
      | refine only_of_fst (by assumption) ?_
    | intro _
    | split
    | dsimp only)

theorem deferExpiry_only {μ : Nat} {s₀ : State} {s : State} (hm : sub 2674132571660288 μ = true) (h₀ : Only μ s₀ s) : Only μ s₀ (State.deferExpiry s) := by
  unfold State.deferExpiry
  try dsimp only
  repeat' (first
    | with_reducible first
      | exact h₀
      | exact Only.refl _
      | refine upCause_only (sub_mid rfl hm) ?_
      | refine upTo_only (sub_mid rfl hm) ?_
      | refine only_of_fst (by assumption) ?_
    | intro _
    | split
    | dsimp only)

/-! ### Lanes -/

theorem lscEvent_only {μ : Nat} {s₀ : State} {s : State} {kind : Nat} {p : Octets} (hm : sub 33554432 μ = true) (h₀ : Only μ s₀ s) : Only μ s₀ (State.lscEvent s kind p) := by
  unfold State.lscEvent
  try dsimp only
  repeat' (first
    | with_reducible first
      | exact h₀
      | exact Only.refl _
      | refine post_only (sub_mid rfl hm) ?_
      | refine only_of_fst (by assumption) ?_
    | intro _
    | split
    | dsimp only)

theorem setRole_only {μ : Nat} {s₀ : State} {s : State} {l : Lane} {new : Nat} {cause : Nat} (hm : sub 33554440 μ = true) (h₀ : Only μ s₀ s) : Only μ s₀ (State.setRole s l new cause) := by
  unfold State.setRole
  try dsimp only
  repeat' (first
    | with_reducible first
      | exact h₀
      | exact Only.refl _
      | refine lscEvent_only (sub_mid rfl hm) ?_
      | refine wr_only ?_ ?_
      | exact roleField_in (bit_mid hm rfl)
      | refine only_of_fst (by assumption) ?_
    | intro _
    | split
    | dsimp only)

theorem settle_only {μ : Nat} {s₀ : State} {s : State} {k : Nat} (hm : sub 301989896 μ = true) (h₀ : Only μ s₀ s) : Only μ s₀ (State.settle s k) := by
  unfold State.settle
  try dsimp only
  repeat' (first
    | with_reducible first
      | exact h₀
      | exact Only.refl _
      | refine lscEvent_only (sub_mid rfl hm) ?_
      | refine wr_only ?_ ?_
      | refine only_of_fst (by assumption) ?_
    | intro _
    | split
    | dsimp only
    | exact fieldIn_block (b := 3) rfl (bit_mid hm rfl)
    | (with_reducible refine Only.upd rfl hm ?_ ?_; exact {}))

theorem releaseBuf_only {μ : Nat} {s₀ : State} {s : State} {l : Lane} (hm : sub 8388608 μ = true) (h₀ : Only μ s₀ s) : Only μ s₀ (State.releaseBuf s l) := by
  unfold State.releaseBuf
  try dsimp only
  repeat' (first
    | with_reducible first
      | exact h₀
      | exact Only.refl _
      | refine only_of_fst (by assumption) ?_
    | refine onLane_only_lanes (fun _ => rfl) (fun _ => by first | exact Nat.le_refl _ | exact Nat.zero_le _) (bit_mid hm rfl) ?_
    | intro _
    | split
    | dsimp only
    | (with_reducible refine Only.upd rfl hm ?_ ?_; exact {}))

theorem discardIdle_only {μ : Nat} {s₀ : State} {s : State} {l : Lane} (hm : sub 8388608 μ = true) (h₀ : Only μ s₀ s) : Only μ s₀ (State.discardIdle s l) := by
  unfold State.discardIdle
  try dsimp only
  repeat' (first
    | with_reducible first
      | exact h₀
      | exact Only.refl _
      | refine releaseBuf_only (sub_mid rfl hm) ?_
      | refine only_of_fst (by assumption) ?_
    | intro _
    | split
    | dsimp only)

theorem claimSealed_only {μ : Nat} {s₀ : State} {s : State} {l : Lane} (hm : sub 142606336 μ = true) (h₀ : Only μ s₀ s) : Only μ s₀ (State.claimSealed s l) := by
  unfold State.claimSealed
  try dsimp only
  repeat' (first
    | with_reducible first
      | exact h₀
      | exact Only.refl _
      | refine coverFinal_only (sub_mid rfl hm) ?_
      | refine only_of_fst (by assumption) ?_
    | refine onLane_only_lanes (fun _ => rfl) (fun _ => by first | exact Nat.le_refl _ | exact Nat.zero_le _) (bit_mid hm rfl) ?_
    | intro _
    | split
    | dsimp only
    | (with_reducible refine Only.upd rfl hm ?_ ?_; exact {}))

theorem verdictEvent_only {μ : Nat} {s₀ : State} {s : State} {pass : Bool} {cause : Nat} (hm : sub 2251799847239680 μ = true) (h₀ : Only μ s₀ s) : Only μ s₀ (State.verdictEvent s pass cause) := by
  unfold State.verdictEvent
  try dsimp only
  repeat' (first
    | with_reducible first
      | exact h₀
      | exact Only.refl _
      | refine rldEvent_only (sub_mid rfl hm) ?_
      | refine only_of_fst (by assumption) ?_
    | intro _
    | split
    | dsimp only)

theorem rldLaneOut_only {μ : Nat} {s₀ : State} {s : State} {l : Lane} (hm : sub 2674132571660288 μ = true) (h₀ : Only μ s₀ s) : Only μ s₀ (State.rldLaneOut s l) := by
  unfold State.rldLaneOut
  try dsimp only
  repeat' (first
    | with_reducible first
      | exact h₀
      | exact Only.refl _
      | refine upCause_only (sub_mid rfl hm) ?_
      | refine verdictEvent_only (sub_mid rfl hm) ?_
      | refine setStep_only (sub_mid rfl hm) ?_
      | refine upTo_only (sub_mid rfl hm) ?_
      | refine only_of_fst (by assumption) ?_
    | intro _
    | split
    | dsimp only)

theorem bistAbandon_only {μ : Nat} {s₀ : State} {s : State} (hm : sub 562949989072896 μ = true) (h₀ : Only μ s₀ s) : Only μ s₀ (State.bistAbandon s) := by
  unfold State.bistAbandon
  try dsimp only
  repeat' (first
    | with_reducible first
      | exact h₀
      | exact Only.refl _
      | refine post_only (sub_mid rfl hm) ?_
      | refine raise_only (sub_mid rfl hm) ?_ ?_
      | refine wr_only ?_ ?_
      | exact bistResField_in (bit_mid hm rfl)
      | exact bistRunField_in (bit_mid hm rfl)
      | refine only_of_fst (by assumption) ?_
    | intro _
    | split
    | dsimp only
    | exact fieldIn_block (b := 21) rfl (bit_mid hm rfl)
    | (with_reducible refine Only.upd rfl hm ?_ ?_; exact {}))

theorem takeover_only {μ : Nat} {s₀ : State} {s : State} {l : Lane} (hm : sub 580546881654280 μ = true) (h₀ : Only μ s₀ s) : Only μ s₀ (State.takeover s l) := by
  unfold State.takeover
  try dsimp only
  repeat' (first
    | with_reducible first
      | exact h₀
      | exact Only.refl _
      | refine raise_only (sub_mid rfl hm) ?_ ?_
      | refine bistAbandon_only (sub_mid rfl hm) ?_
      | refine discardIdle_only (sub_mid rfl hm) ?_
      | refine dmaTakeover_only (sub_mid rfl hm) ?_
      | refine portTakeover_only (sub_mid rfl hm) ?_
      | refine pbTakeover_only (sub_mid rfl hm) ?_
      | refine setRole_only (sub_mid rfl hm) ?_
      | refine claimSealed_only (sub_mid rfl hm) ?_
      | refine only_of_fst (by assumption) ?_
    | intro _
    | split
    | dsimp only
    | exact fieldIn_block (b := 3) rfl (bit_mid hm rfl)
    | (with_reducible refine Only.upd rfl hm ?_ ?_; exact {}))

theorem leave_only {μ : Nat} {s₀ : State} {s : State} {l : Lane} {cause : Nat} (hm : sub 713031692 μ = true) (h₀ : Only μ s₀ s) : Only μ s₀ (State.leave s l cause) := by
  unfold State.leave
  try dsimp only
  repeat' (first
    | with_reducible first
      | exact h₀
      | exact Only.refl _
      | refine unwait_only (sub_mid rfl hm) ?_
      | refine lscEvent_only (sub_mid rfl hm) ?_
      | refine discardIdle_only (sub_mid rfl hm) ?_
      | refine countSat_only (sub_mid rfl hm) ?_ ?_ ?_
      | refine raise_only (sub_mid rfl hm) ?_ ?_
      | refine wr_only ?_ ?_
      | exact LSC_CB_USED_in (bit_mid hm rfl)
      | exact causeField_in (bit_mid hm rfl)
      | exact outFlag_in (bit_mid hm rfl)
      | exact outsField_in (bit_mid hm rfl)
      | refine only_of_fst (by assumption) ?_
    | refine onLane_only_lanes (fun _ => rfl) (fun _ => by first | exact Nat.le_refl _ | exact Nat.zero_le _) (bit_mid hm rfl) ?_
    | intro _
    | split
    | dsimp only
    | exact fieldIn_block (b := 3) rfl (bit_mid hm rfl)
    | (with_reducible refine Only.upd rfl hm ?_ ?_; exact {}))

theorem settleAlone_only {μ : Nat} {s₀ : State} {s : State} (hm : sub 301989896 μ = true) (h₀ : Only μ s₀ s) : Only μ s₀ (State.settleAlone s) := by
  unfold State.settleAlone
  try dsimp only
  repeat' (first
    | with_reducible first
      | exact h₀
      | exact Only.refl _
      | refine settle_only (sub_mid rfl hm) ?_
      | refine only_of_fst (by assumption) ?_
    | intro _
    | split
    | dsimp only)

theorem takeOut_only {μ : Nat} {s₀ : State} {s : State} {l : Lane} {cause : Nat} (hm : sub 3254679956631052 μ = true) (h₀ : Only μ s₀ s) : Only μ s₀ (State.takeOut s l cause) := by
  unfold State.takeOut
  try dsimp only
  repeat' (first
    | with_reducible first
      | exact h₀
      | exact Only.refl _
      | refine settleAlone_only (sub_mid rfl hm) ?_
      | refine rldLaneOut_only (sub_mid rfl hm) ?_
      | refine takeover_only (sub_mid rfl hm) ?_
      | refine leave_only (sub_mid rfl hm) ?_
      | refine only_of_fst (by assumption) ?_
    | intro _
    | split
    | dsimp only)

theorem laneFault_only {μ : Nat} {s₀ : State} {s : State} {l : Lane} {cause : Nat} (hm : sub 3254680023739916 μ = true) (h₀ : Only μ s₀ s) : Only μ s₀ (State.laneFault s l cause) := by
  unfold State.laneFault
  try dsimp only
  repeat' (first
    | with_reducible first
      | exact h₀
      | exact Only.refl _
      | refine takeOut_only (sub_mid rfl hm) ?_
      | refine drEnd_only (sub_mid rfl hm) ?_
      | refine only_of_fst (by assumption) ?_
    | intro _
    | split
    | dsimp only)

theorem laneReset_only {μ : Nat} {s₀ : State} {s : State} {l : Lane} {new : Nat} (hm : sub 25165833 μ = true) (h₀ : Only μ s₀ s) : Only μ s₀ (State.laneReset s l new) := by
  unfold State.laneReset
  extract_lets x y s1 s2
  have h1 : Only μ s₀ s1 := setLane_only (.inl (bit_mid hm rfl)) (.inl (bit_mid hm rfl)) (fun _ => (rfl : Memory.wf [] = true)) (fun _ => (Nat.zero_le _ : ([] : List (Nat × Nat)).length ≤ 32768)) h₀
  have h2 : Only μ s₀ s2 :=
    wr_only (LSC_CB_PEAK_in (bit_mid hm rfl)) (wr_only (LSC_CB_USED_in (bit_mid hm rfl)) (wr_only (SYS_IRQ_EN_EN_in (bit_mid hm rfl)) h1))
  refine raise_only (sub_mid rfl hm) ?_ (wr_only (roleField_in (bit_mid hm rfl)) h2)
  cases l <;> exact fieldIn_block (b := 0) rfl (bit_mid hm rfl)

theorem resetLeft_only {μ : Nat} {s₀ : State} {s : State} {l : Lane} (hm : sub 25165833 μ = true) (h₀ : Only μ s₀ s) : Only μ s₀ (State.resetLeft s l) := by
  unfold State.resetLeft
  try dsimp only
  repeat' (first
    | with_reducible first
      | exact h₀
      | exact Only.refl _
      | refine laneReset_only (sub_mid rfl hm) ?_
      | refine only_of_fst (by assumption) ?_
    | intro _
    | split
    | dsimp only)

theorem refillDone_only {μ : Nat} {s₀ : State} {s : State} {l : Lane} (hm : sub 41943048 μ = true) (h₀ : Only μ s₀ s) : Only μ s₀ (State.refillDone s l) := by
  unfold State.refillDone
  try dsimp only
  repeat' (first
    | with_reducible first
      | exact h₀
      | exact Only.refl _
      | refine setRole_only (sub_mid rfl hm) ?_
      | refine only_of_fst (by assumption) ?_
    | refine onLane_only_lanes (fun _ => rfl) (fun _ => by first | exact Nat.le_refl _ | exact Nat.zero_le _) (bit_mid hm rfl) ?_
    | intro _
    | split
    | dsimp only
    | (with_reducible refine Only.upd rfl hm ?_ ?_; exact {}))

theorem recordStore_only {μ : Nat} {s₀ : State} {s : State} {l : Lane} {a : Nat} {v : Nat} (hm : sub 8388616 μ = true) (h₀ : Only μ s₀ s) : Only μ s₀ (State.recordStore s l a v).1 := by
  unfold State.recordStore
  extract_lets n s1
  split
  · exact trapLane_only (sub_mid rfl hm) (raise_only (sub_mid rfl hm) (fieldIn_block (b := 3) rfl (bit_mid hm rfl)) h₀)
  · rename_i hn
    have e : ((s.lane l).fill ++ [(a, v)]).length ≤ 32768 := by
      rw [List.length_append]
      exact Nat.lt_of_not_le hn
    have h1 : Only μ s₀ s1 := setLane_only (.inl (bit_mid hm rfl)) (.inr rfl) (fun i => (lane_inv l i).1) (fun _ => e) h₀
    exact peak_only (sub_mid rfl hm) (LSC_CB_PEAK_in (bit_mid hm rfl)) (wr_only (LSC_CB_USED_in (bit_mid hm rfl)) h1)

theorem sealWrite_only {μ : Nat} {s₀ : State} {s : State} {l : Lane} {v : Nat} (hm : sub 8388608 μ = true) (h₀ : Only μ s₀ s) : Only μ s₀ (State.sealWrite s l v) := by
  unfold State.sealWrite
  try dsimp only
  repeat' (first
    | with_reducible first
      | exact h₀
      | exact Only.refl _
      | refine trapLane_only (sub_mid rfl hm) ?_
      | refine only_of_fst (by assumption) ?_
    | refine onLane_only_lanes (fun _ => rfl) (fun _ => by first | exact Nat.le_refl _ | exact Nat.zero_le _) (bit_mid hm rfl) ?_
    | intro _
    | split
    | dsimp only
    | (with_reducible refine Only.upd rfl hm ?_ ?_; exact {}))

theorem mismatch_only {μ : Nat} {s₀ : State} {s : State} {k : Nat} {shadow : Lane} (hm : sub 3254679956631052 μ = true) (h₀ : Only μ s₀ s) : Only μ s₀ (State.mismatch s k shadow) := by
  unfold State.mismatch
  try dsimp only
  repeat' (first
    | with_reducible first
      | exact h₀
      | exact Only.refl _
      | refine takeOut_only (sub_mid rfl hm) ?_
      | refine raise_only (sub_mid rfl hm) ?_ ?_
      | refine lscEvent_only (sub_mid rfl hm) ?_
      | refine settle_only (sub_mid rfl hm) ?_
      | refine wr_only ?_ ?_
      | refine only_of_fst (by assumption) ?_
    | intro _
    | split
    | dsimp only
    | exact fieldIn_block (b := 3) rfl (bit_mid hm rfl)
    | (with_reducible refine Only.upd rfl hm ?_ ?_; exact {}))

theorem discardTaken_only {μ : Nat} {s₀ : State} {s : State} {k : Nat} (hm : sub 8388608 μ = true) (h₀ : Only μ s₀ s) : Only μ s₀ (State.discardTaken s k) := by
  unfold State.discardTaken
  try dsimp only
  repeat' (first
    | with_reducible first
      | exact h₀
      | exact Only.refl _
      | refine discardIdle_only (sub_mid rfl hm) ?_
      | refine only_of_fst (by assumption) ?_
    | intro _
    | split
    | dsimp only)

theorem compare_only {μ : Nat} {s₀ : State} {s : State} {k : Nat} (hm : sub 3254679956631052 μ = true) (h₀ : Only μ s₀ s) : Only μ s₀ (State.compare s k) := by
  unfold State.compare
  try dsimp only
  repeat' (first
    | with_reducible first
      | exact h₀
      | exact Only.refl _
      | refine settle_only (sub_mid rfl hm) ?_
      | refine discardTaken_only (sub_mid rfl hm) ?_
      | refine mismatch_only (sub_mid rfl hm) ?_
      | refine only_of_fst (by assumption) ?_
    | intro _
    | split
    | dsimp only)

theorem swapRoles_only {μ : Nat} {s₀ : State} {s : State} {a : Lane} (hm : sub 176160776 μ = true) (h₀ : Only μ s₀ s) : Only μ s₀ (State.swapRoles s a) := by
  unfold State.swapRoles
  try dsimp only
  repeat' (first
    | with_reducible first
      | exact h₀
      | exact Only.refl _
      | refine setRole_only (sub_mid rfl hm) ?_
      | refine claimSealed_only (sub_mid rfl hm) ?_
      | refine only_of_fst (by assumption) ?_
    | intro _
    | split
    | dsimp only)

theorem memCopy_wf {ls : List (Nat × Nat)} {src m : List Host.Cell} (h : Memory.wf m = true) :
    Memory.wf (ls.foldl (fun m r => memWrite m r.1 (memRead src r.1 r.2)) m) = true := by
  induction ls generalizing m with
  | nil => exact h
  | cons r t ih => exact ih (memWrite_wf _ _ _ h)

theorem copyRegions_only {μ : Nat} {s₀ : State} {s : State} {a : Lane} (hm : sub 16777216 μ = true) (h₀ : Only μ s₀ s) : Only μ s₀ (State.copyRegions s a) := by
  exact onLane_only_sram (f := fun x => { x with sram := (s.srgTable a).foldl (fun m r => memWrite m r.1 (memRead (s.lane a).sram r.1 r.2)) x.sram }) (fun _ => rfl) (fun _ h => memCopy_wf h) (bit_mid hm rfl) h₀

theorem copySlots_wf {s : State} {src m : List Host.Cell} {n i : Nat} (h : Memory.wf m = true) : Memory.wf (copySlots s src n i m) = true := by
  induction n generalizing i m with
  | zero => exact h
  | succ n ih => exact ih (memWrite_wf _ _ _ h)

theorem copyUnits_only {μ : Nat} {s₀ : State} {s : State} {a : Lane} (hm : sub 2835349508 μ = true) (h₀ : Only μ s₀ s) : Only μ s₀ (State.copyUnits s a) := by
  unfold State.copyUnits
  try dsimp only
  repeat' (first
    | with_reducible first
      | exact h₀
      | exact Only.refl _
      | refine setEsc_only (sub_mid rfl hm) ?_
      | refine wr_only ?_ ?_
      | exact CRZ_EQ_RD_RD_in (bit_mid hm rfl)
      | exact CRZ_EQ_WR_WR_in (bit_mid hm rfl)
      | refine only_of_fst (by assumption) ?_
    | refine onLane_only_lanes (fun _ => rfl) (fun _ => by first | exact Nat.le_refl _ | exact Nat.zero_le _) (bit_mid hm rfl) ?_
    | intro _
    | split
    | dsimp only
    | refine onLane_only_sram (fun _ => rfl) (fun _ h => copySlots_wf h) (bit_mid hm rfl) ?_
    | (with_reducible refine Only.upd rfl hm ?_ ?_; exact { inqInv := fun i => by rw [setUnit_inq]; exact i.inq })
    | (with_reducible refine Only.upd rfl hm ?_ ?_; exact {}))

theorem rldShadow_only {μ : Nat} {s₀ : State} {s : State} {l : Lane} (hm : sub 2674132571660296 μ = true) (h₀ : Only μ s₀ s) : Only μ s₀ (State.rldShadow s l) := by
  unfold State.rldShadow
  try dsimp only
  repeat' (first
    | with_reducible first
      | exact h₀
      | exact Only.refl _
      | refine setStep_only (sub_mid rfl hm) ?_
      | refine upTo_only (sub_mid rfl hm) ?_
      | refine wr_only ?_ ?_
      | refine only_of_fst (by assumption) ?_
    | intro _
    | split
    | dsimp only
    | exact fieldIn_block (b := 3) rfl (bit_mid hm rfl))

theorem transfer_only {μ : Nat} {s₀ : State} {s : State} {a : Lane} {j : Nat} (hm : sub 3254682120891916 μ = true) (h₀ : Only μ s₀ s) : Only μ s₀ (State.transfer s a j) := by
  unfold State.transfer
  try dsimp only
  repeat' (first
    | with_reducible first
      | exact h₀
      | exact Only.refl _
      | refine rldShadow_only (sub_mid rfl hm) ?_
      | refine setRole_only (sub_mid rfl hm) ?_
      | refine raise_only (sub_mid rfl hm) ?_ ?_
      | refine copyRegions_only (sub_mid rfl hm) ?_
      | refine copyUnits_only (sub_mid rfl hm) ?_
      | refine takeOut_only (sub_mid rfl hm) ?_
      | refine only_of_fst (by assumption) ?_
    | refine onLane_only_lanes (fun _ => rfl) (fun _ => by first | exact Nat.le_refl _ | exact Nat.zero_le _) (bit_mid hm rfl) ?_
    | intro _
    | split
    | dsimp only
    | exact fieldIn_block (b := 3) rfl (bit_mid hm rfl)
    | (with_reducible refine Only.upd rfl hm ?_ ?_; exact {}))

theorem openWindow_only {μ : Nat} {s₀ : State} {s : State} (hm : sub 3254679956631052 μ = true) (h₀ : Only μ s₀ s) : Only μ s₀ (State.openWindow s) := by
  unfold State.openWindow
  try dsimp only
  repeat' (first
    | with_reducible first
      | exact h₀
      | exact Only.refl _
      | refine upTo_only (sub_mid rfl hm) ?_
      | refine setStep_only (sub_mid rfl hm) ?_
      | refine takeOut_only (sub_mid rfl hm) ?_
      | refine wr_only ?_ ?_
      | refine only_of_fst (by assumption) ?_
    | intro _
    | split
    | dsimp only
    | exact fieldIn_block (b := 3) rfl (bit_mid hm rfl)
    | exact fieldIn_block (b := 13) rfl (bit_mid hm rfl))

theorem rldSeal_only {μ : Nat} {s₀ : State} {s : State} {l : Lane} (hm : sub 3254679956631052 μ = true) (h₀ : Only μ s₀ s) : Only μ s₀ (State.rldSeal s l) := by
  unfold State.rldSeal
  try dsimp only
  repeat' (first
    | with_reducible first
      | exact h₀
      | exact Only.refl _
      | refine swapRoles_only (sub_mid rfl hm) ?_
      | refine setStep_only (sub_mid rfl hm) ?_
      | refine takeOut_only (sub_mid rfl hm) ?_
      | refine openWindow_only (sub_mid rfl hm) ?_
      | refine only_of_fst (by assumption) ?_
    | intro _
    | split
    | dsimp only)

theorem slowCheck_only {μ : Nat} {s₀ : State} {s : State} {a : Lane} {prev : Option (Nat × Bool)} (hm : sub 3254679956631052 μ = true) (h₀ : Only μ s₀ s) : Only μ s₀ (State.slowCheck s a prev) := by
  unfold State.slowCheck
  try dsimp only
  repeat' (first
    | with_reducible first
      | exact h₀
      | exact Only.refl _
      | refine settle_only (sub_mid rfl hm) ?_
      | refine takeOut_only (sub_mid rfl hm) ?_
      | refine only_of_fst (by assumption) ?_
    | intro _
    | split
    | dsimp only)

theorem formDigest_only {μ : Nat} {s₀ : State} {s : State} {l : Lane} {k : Nat} (hm : sub 2692743176 μ = true) (h₀ : Only μ s₀ s) : Only μ s₀ (State.formDigest s l k) := by
  unfold State.formDigest
  try dsimp only
  repeat' (first
    | with_reducible first
      | exact h₀
      | exact Only.refl _
      | refine felterSealed_only (sub_mid rfl hm) ?_
      | refine escortSealed_only (sub_mid rfl hm) ?_
      | refine wr_only ?_ ?_
      | exact LSC_CB_USED_in (bit_mid hm rfl)
      | exact digestField_in (bit_mid hm rfl)
      | exact digestIndex_in (bit_mid hm rfl)
      | refine only_of_fst (by assumption) ?_
    | refine onLane_only_lanes (fun _ => rfl) (fun _ => by first | exact Nat.le_refl _ | exact Nat.zero_le _) (bit_mid hm rfl) ?_
    | intro _
    | split
    | dsimp only
    | (with_reducible refine Only.upd rfl hm ?_ ?_; exact {}))

theorem activeSeal_only {μ : Nat} {s₀ : State} {s : State} {l : Lane} {k : Nat} {prev : Option (Nat × Bool)} (hm : sub 3254682120891916 μ = true) (h₀ : Only μ s₀ s) : Only μ s₀ (State.activeSeal s l k prev) := by
  unfold State.activeSeal
  try dsimp only
  repeat' (first
    | with_reducible first
      | exact h₀
      | exact Only.refl _
      | refine swapRoles_only (sub_mid rfl hm) ?_
      | refine transfer_only (sub_mid rfl hm) ?_
      | refine slowCheck_only (sub_mid rfl hm) ?_
      | refine coverFinal_only (sub_mid rfl hm) ?_
      | refine only_of_fst (by assumption) ?_
    | intro _
    | split
    | dsimp only
    | (with_reducible refine Only.upd rfl hm ?_ ?_; exact {}))

theorem sealDone_only {μ : Nat} {s₀ : State} {s : State} {l : Lane} (hm : sub 3254682120891916 μ = true) (h₀ : Only μ s₀ s) : Only μ s₀ (State.sealDone s l) := by
  unfold State.sealDone
  try dsimp only
  repeat' (first
    | with_reducible first
      | exact h₀
      | exact Only.refl _
      | refine compare_only (sub_mid rfl hm) ?_
      | refine rldSeal_only (sub_mid rfl hm) ?_
      | refine activeSeal_only (sub_mid rfl hm) ?_
      | refine advanceRead_only (sub_mid rfl hm) ?_
      | refine formDigest_only (sub_mid rfl hm) ?_
      | refine only_of_fst (by assumption) ?_
    | refine onLane_only_lanes (fun _ => rfl) (fun _ => by first | exact Nat.le_refl _ | exact Nat.zero_le _) (bit_mid hm rfl) ?_
    | intro _
    | split
    | dsimp only
    | (with_reducible refine Only.upd rfl hm ?_ ?_; exact {}))

theorem takeOutCmd_only {μ : Nat} {s₀ : State} {s : State} {l : Lane} (hm : sub 3254679956631052 μ = true) (h₀ : Only μ s₀ s) : Only μ s₀ (State.takeOutCmd s l) := by
  unfold State.takeOutCmd
  try dsimp only
  repeat' (first
    | with_reducible first
      | exact h₀
      | exact Only.refl _
      | refine takeOut_only (sub_mid rfl hm) ?_
      | refine only_of_fst (by assumption) ?_
    | intro _
    | split
    | dsimp only)

theorem swapCmd_only {μ : Nat} {s₀ : State} {s : State} (hm : sub 268435456 μ = true) (h₀ : Only μ s₀ s) : Only μ s₀ (State.swapCmd s) := by
  unfold State.swapCmd
  try dsimp only
  repeat' (first
    | with_reducible first
      | exact h₀
      | exact Only.refl _
      | refine only_of_fst (by assumption) ?_
    | intro _
    | split
    | dsimp only
    | (with_reducible refine Only.upd rfl hm ?_ ?_; exact {}))

theorem rejoinCmd_only {μ : Nat} {s₀ : State} {s : State} (hm : sub 301989896 μ = true) (h₀ : Only μ s₀ s) : Only μ s₀ (State.rejoinCmd s) := by
  unfold State.rejoinCmd
  try dsimp only
  repeat' (first
    | with_reducible first
      | exact h₀
      | exact Only.refl _
      | refine lscEvent_only (sub_mid rfl hm) ?_
      | refine wr_only ?_ ?_
      | refine only_of_fst (by assumption) ?_
    | intro _
    | split
    | dsimp only
    | exact fieldIn_block (b := 3) rfl (bit_mid hm rfl)
    | (with_reducible refine Only.upd rfl hm ?_ ?_; exact {}))

theorem joinWrite_only {μ : Nat} {s₀ : State} {s : State} {l : Lane} {v : Nat} (hm : sub 301989896 μ = true) (h₀ : Only μ s₀ s) : Only μ s₀ (State.joinWrite s l v) := by
  unfold State.joinWrite
  try dsimp only
  repeat' (first
    | with_reducible first
      | exact h₀
      | exact Only.refl _
      | refine setRole_only (sub_mid rfl hm) ?_
      | refine only_of_fst (by assumption) ?_
    | intro _
    | split
    | dsimp only
    | (with_reducible refine Only.upd rfl hm ?_ ?_; exact {}))

theorem cmpExpire_only {μ : Nat} {s₀ : State} {s : State} (hm : sub 268435464 μ = true) (h₀ : Only μ s₀ s) : Only μ s₀ (State.cmpExpire s) := by
  unfold State.cmpExpire
  try dsimp only
  repeat' (first
    | with_reducible first
      | exact h₀
      | exact Only.refl _
      | refine raise_only (sub_mid rfl hm) ?_ ?_
      | refine only_of_fst (by assumption) ?_
    | intro _
    | split
    | dsimp only
    | exact fieldIn_block (b := 3) rfl (bit_mid hm rfl)
    | (with_reducible refine Only.upd rfl hm ?_ ?_; exact {}))

theorem coldRoles_only {μ : Nat} {s₀ : State} {s : State} (hm : sub 301989896 μ = true) (h₀ : Only μ s₀ s) : Only μ s₀ (State.coldRoles s) := by
  unfold State.coldRoles
  try dsimp only
  repeat' (first
    | with_reducible first
      | exact h₀
      | exact Only.refl _
      | refine setRole_only (sub_mid rfl hm) ?_
      | refine only_of_fst (by assumption) ?_
    | intro _
    | split
    | dsimp only
    | (with_reducible refine Only.upd rfl hm ?_ ?_; exact {}))

theorem lagOut_only {μ : Nat} {s₀ : State} {s : State} (hm : sub 3254680023739916 μ = true) (h₀ : Only μ s₀ s) : Only μ s₀ (State.lagOut s) := by
  unfold State.lagOut
  try dsimp only
  repeat' (first
    | with_reducible first
      | exact h₀
      | exact Only.refl _
      | refine laneFault_only (sub_mid rfl hm) ?_
      | refine only_of_fst (by assumption) ?_
    | intro _
    | split
    | dsimp only)

theorem lagAlone_only {μ : Nat} {s₀ : State} {s : State} (hm : sub 704643084 μ = true) (h₀ : Only μ s₀ s) : Only μ s₀ (State.lagAlone s) := by
  unfold State.lagAlone
  try dsimp only
  repeat' (first
    | with_reducible first
      | exact h₀
      | exact Only.refl _
      | refine raise_only (sub_mid rfl hm) ?_ ?_
      | refine lscEvent_only (sub_mid rfl hm) ?_
      | refine unwait_only (sub_mid rfl hm) ?_
      | refine only_of_fst (by assumption) ?_
    | intro _
    | split
    | dsimp only
    | exact fieldIn_block (b := 3) rfl (bit_mid hm rfl)
    | (with_reducible refine Only.upd rfl hm ?_ ?_; exact {}))

theorem closeCrease_only {μ : Nat} {s₀ : State} {s : State} {bad : Bool} (hm : sub 3254680023739916 μ = true) (h₀ : Only μ s₀ s) : Only μ s₀ (State.closeCrease s bad) := by
  unfold State.closeCrease
  try dsimp only
  repeat' (first
    | with_reducible first
      | exact h₀
      | exact Only.refl _
      | refine sealBatch_only (sub_mid rfl hm) ?_
      | refine markLast_only (sub_mid rfl hm) ?_
      | refine lagOut_only (sub_mid rfl hm) ?_
      | refine lagAlone_only (sub_mid rfl hm) ?_
      | refine only_of_fst (by assumption) ?_
    | intro _
    | split
    | dsimp only)

/-! ### Saf -/

theorem onSaf_only {μ : Nat} {s₀ : State} {s : State} {f : SafState → SafState} (hm : sub 562949953421312 μ = true) (h₀ : Only μ s₀ s) : Only μ s₀ (State.onSaf s f) := by
  unfold State.onSaf
  try dsimp only
  repeat' (first
    | with_reducible first
      | exact h₀
      | exact Only.refl _
      | refine only_of_fst (by assumption) ?_
    | intro _
    | split
    | dsimp only
    | (with_reducible refine Only.upd rfl hm ?_ ?_; exact {}))

theorem safCommand_only {μ : Nat} {s₀ : State} {s : State} {key : Nat} {run : State → State} (hm : sub 2097152 μ = true) (hrun : ∀ s, Only μ s (run s)) (h₀ : Only μ s₀ s) : Only μ s₀ (State.safCommand s key run) := by
  unfold State.safCommand
  try dsimp only
  repeat' (first
    | with_reducible first
      | exact h₀
      | exact Only.refl _
      | refine raise_only (sub_mid rfl hm) ?_ ?_
      | refine Only.trans ?_ (hrun _)
      | refine only_of_fst (by assumption) ?_
    | intro _
    | split
    | dsimp only
    | exact fieldIn_block (b := 21) rfl (bit_mid hm rfl))

theorem sf2Record_only {μ : Nat} {s₀ : State} {s : State} {v : Nat} (hm : sub 562949953421312 μ = true) (h₀ : Only μ s₀ s) : Only μ s₀ (State.sf2Record s v) := by
  unfold State.sf2Record
  try dsimp only
  repeat' (first
    | with_reducible first
      | exact h₀
      | exact Only.refl _
      | refine onSaf_only (sub_mid rfl hm) ?_
      | refine only_of_fst (by assumption) ?_
    | intro _
    | split
    | dsimp only)

theorem safetyFrame_only {μ : Nat} {s₀ : State} {s : State} {k : Nat} (hm : sub 580542141562880 μ = true) (h₀ : Only μ s₀ s) : Only μ s₀ (State.safetyFrame s k) := by
  unfold State.safetyFrame
  try dsimp only
  repeat' (first
    | with_reducible first
      | exact h₀
      | exact Only.refl _
      | refine onSaf_only (sub_mid rfl hm) ?_
      | refine count_only (sub_mid rfl hm) ?_ ?_ ?_
      | refine raiseIf_only (sub_mid rfl hm) ?_ ?_
      | refine queueDatagram_only (sub_mid rfl hm) ?_
      | refine only_of_fst (by assumption) ?_
    | intro _
    | split
    | dsimp only
    | exact fieldIn_block (b := 21) rfl (bit_mid hm rfl))

theorem unitFault_only {μ : Nat} {s₀ : State} {s : State} {l : Lane} {unit : Nat} (hm : sub 3254680023739916 μ = true) (h₀ : Only μ s₀ s) : Only μ s₀ (State.unitFault s l unit) := by
  unfold State.unitFault
  try dsimp only
  repeat' (first
    | with_reducible first
      | exact h₀
      | exact Only.refl _
      | refine post_only (sub_mid rfl hm) ?_
      | refine laneFault_only (sub_mid rfl hm) ?_
      | refine raise_only (sub_mid rfl hm) ?_ ?_
      | refine wr_only ?_ ?_
      | refine only_of_fst (by assumption) ?_
    | intro _
    | split
    | dsimp only
    | exact fieldIn_block (b := 21) rfl (bit_mid hm rfl))

theorem sramFault_only {μ : Nat} {s₀ : State} {s : State} {l : Lane} (hm : sub 3254680023739916 μ = true) (h₀ : Only μ s₀ s) : Only μ s₀ (State.sramFault s l) := by
  unfold State.sramFault
  try dsimp only
  repeat' (first
    | with_reducible first
      | exact h₀
      | exact Only.refl _
      | refine countAgainst_only (sub_mid rfl hm) ?_
      | refine laneFault_only (sub_mid rfl hm) ?_
      | refine only_of_fst (by assumption) ?_
    | intro _
    | split
    | dsimp only)

theorem poisonedLoad_only {μ : Nat} {s₀ : State} {s : State} {l : Lane} (hm : sub 3254680023739916 μ = true) (h₀ : Only μ s₀ s) : Only μ s₀ (State.poisonedLoad s l) := by
  unfold State.poisonedLoad
  try dsimp only
  repeat' (first
    | with_reducible first
      | exact h₀
      | exact Only.refl _
      | refine parityError_only (sub_mid rfl hm) ?_
      | refine sramFault_only (sub_mid rfl hm) ?_
      | refine only_of_fst (by assumption) ?_
    | intro _
    | split
    | dsimp only)

theorem heartbeatDrain_only {μ : Nat} {s₀ : State} {s : State} (hm : sub 562949953421312 μ = true) (h₀ : Only μ s₀ s) : Only μ s₀ (State.heartbeatDrain s) := by
  unfold State.heartbeatDrain
  try dsimp only
  repeat' (first
    | with_reducible first
      | exact h₀
      | exact Only.refl _
      | refine onSaf_only (sub_mid rfl hm) ?_
      | refine only_of_fst (by assumption) ?_
    | intro _
    | split
    | dsimp only)

theorem heartbeatRest_only {μ : Nat} {s₀ : State} {s : State} (hm : sub 562949953421312 μ = true) (h₀ : Only μ s₀ s) : Only μ s₀ (State.heartbeatRest s) := by
  unfold State.heartbeatRest
  try dsimp only
  repeat' (first
    | with_reducible first
      | exact h₀
      | exact Only.refl _
      | refine onSaf_only (sub_mid rfl hm) ?_
      | refine only_of_fst (by assumption) ?_
    | intro _
    | split
    | dsimp only)

theorem sf1Test_only {μ : Nat} {s₀ : State} {s : State} {path : Nat} {full : Bool} (hm : sub 562949955518464 μ = true) (h₀ : Only μ s₀ s) : Only μ s₀ (State.sf1Test s path full) := by
  unfold State.sf1Test
  try dsimp only
  repeat' (first
    | with_reducible first
      | exact h₀
      | exact Only.refl _
      | refine onSaf_only (sub_mid rfl hm) ?_
      | refine raise_only (sub_mid rfl hm) ?_ ?_
      | refine wr_only ?_ ?_
      | refine only_of_fst (by assumption) ?_
    | intro _
    | split
    | dsimp only
    | exact fieldIn_block (b := 21) rfl (bit_mid hm rfl))

theorem sf1Qualify_only {μ : Nat} {s₀ : State} {s : State} {path : Nat} (hm : sub 26388791825924 μ = true) (h₀ : Only μ s₀ s) : Only μ s₀ (State.sf1Qualify s path) := by
  unfold State.sf1Qualify
  try dsimp only
  repeat' (first
    | with_reducible first
      | exact h₀
      | exact Only.refl _
      | refine drEnd_only (sub_mid rfl hm) ?_
      | refine sf1Trip_only (sub_mid rfl hm) ?_
      | refine only_of_fst (by assumption) ?_
    | intro _
    | split
    | dsimp only)

theorem sf1See_only {μ : Nat} {s₀ : State} {s : State} {x : Sf1Seen} (hm : sub 26388791825924 μ = true) (h₀ : Only μ s₀ s) : Only μ s₀ (State.sf1See s x) := by
  unfold State.sf1See
  try dsimp only
  repeat' (first
    | with_reducible first
      | exact h₀
      | exact Only.refl _
      | refine sf1Digital_only (sub_mid rfl hm) ?_
      | refine sf1Qualify_only (sub_mid rfl hm) ?_
      | refine sf1Analog_only (sub_mid rfl hm) ?_
      | refine only_foldl ?_ ?_
      | refine only_foldl_pair ?_ ?_
      | refine only_of_fst (by assumption) ?_
    | intro _
    | split
    | dsimp only)

theorem sf1Alone_only {μ : Nat} {s₀ : State} {s : State} (hm : sub 8796128677888 μ = true) (h₀ : Only μ s₀ s) : Only μ s₀ (State.sf1Alone s) := by
  unfold State.sf1Alone
  try dsimp only
  repeat' (first
    | with_reducible first
      | exact h₀
      | exact Only.refl _
      | refine post_only (sub_mid rfl hm) ?_
      | refine sf1Disagree_only (sub_mid rfl hm) ?_
      | refine raise_only (sub_mid rfl hm) ?_ ?_
      | refine only_of_fst (by assumption) ?_
    | intro _
    | split
    | dsimp only
    | exact fieldIn_block (b := 21) rfl (bit_mid hm rfl))

theorem sf1TestDone_only {μ : Nat} {s₀ : State} {s : State} {qt : Option Nat} {ok : Bool} (hm : sub 18577348498554880 μ = true) (h₀ : Only μ s₀ s) : Only μ s₀ (State.sf1TestDone s qt ok) := by
  unfold State.sf1TestDone
  try dsimp only
  repeat' (first
    | with_reducible first
      | exact h₀
      | exact Only.refl _
      | refine raiseIf_only (sub_mid rfl hm) ?_ ?_
      | refine post_only (sub_mid rfl hm) ?_
      | refine onSaf_only (sub_mid rfl hm) ?_
      | refine freeTick_only (sub_mid rfl hm) ?_
      | refine wr_only ?_ ?_
      | refine only_of_fst (by assumption) ?_
    | intro _
    | split
    | dsimp only
    | exact fieldIn_block (b := 21) rfl (bit_mid hm rfl))

theorem sf1Periodic_only {μ : Nat} {s₀ : State} {s : State} (hm : sub 562949955518464 μ = true) (h₀ : Only μ s₀ s) : Only μ s₀ (State.sf1Periodic s) := by
  unfold State.sf1Periodic
  try dsimp only
  repeat' (first
    | with_reducible first
      | exact h₀
      | exact Only.refl _
      | refine onSaf_only (sub_mid rfl hm) ?_
      | refine sf1Test_only (sub_mid rfl hm) ?_
      | refine only_of_fst (by assumption) ?_
    | intro _
    | split
    | dsimp only)

theorem bistStart_only {μ : Nat} {s₀ : State} {s : State} {l : Lane} {origin : Nat} (hm : sub 562950668550156 μ = true) (h₀ : Only μ s₀ s) : Only μ s₀ (State.bistStart s l origin) := by
  unfold State.bistStart
  try dsimp only
  repeat' (first
    | with_reducible first
      | exact h₀
      | exact Only.refl _
      | refine setRole_only (sub_mid rfl hm) ?_
      | refine discardIdle_only (sub_mid rfl hm) ?_
      | refine unwait_only (sub_mid rfl hm) ?_
      | refine onSaf_only (sub_mid rfl hm) ?_
      | refine wr_only ?_ ?_
      | exact LSC_CB_USED_in (bit_mid hm rfl)
      | exact bistRunField_in (bit_mid hm rfl)
      | exact causeField_in (bit_mid hm rfl)
      | refine only_of_fst (by assumption) ?_
    | refine onLane_only_lanes (fun _ => rfl) (fun _ => by first | exact Nat.le_refl _ | exact Nat.zero_le _) (bit_mid hm rfl) ?_
    | intro _
    | split
    | dsimp only
    | exact fieldIn_block (b := 21) rfl (bit_mid hm rfl)
    | (with_reducible refine Only.upd rfl hm ?_ ?_; exact {}))

theorem bistOrder_only {μ : Nat} {s₀ : State} {s : State} {l : Lane} (hm : sub 562950668550156 μ = true) (h₀ : Only μ s₀ s) : Only μ s₀ (State.bistOrder s l) := by
  unfold State.bistOrder
  try dsimp only
  repeat' (first
    | with_reducible first
      | exact h₀
      | exact Only.refl _
      | refine raise_only (sub_mid rfl hm) ?_ ?_
      | refine bistStart_only (sub_mid rfl hm) ?_
      | refine onSaf_only (sub_mid rfl hm) ?_
      | refine only_of_fst (by assumption) ?_
    | intro _
    | split
    | dsimp only
    | exact fieldIn_block (b := 21) rfl (bit_mid hm rfl))

theorem bistPeriodic_only {μ : Nat} {s₀ : State} {s : State} (hm : sub 562949955518464 μ = true) (h₀ : Only μ s₀ s) : Only μ s₀ (State.bistPeriodic s) := by
  unfold State.bistPeriodic
  try dsimp only
  repeat' (first
    | with_reducible first
      | exact h₀
      | exact Only.refl _
      | refine onSaf_only (sub_mid rfl hm) ?_
      | refine raiseIf_only (sub_mid rfl hm) ?_ ?_
      | refine only_of_fst (by assumption) ?_
    | intro _
    | split
    | dsimp only
    | exact fieldIn_block (b := 21) rfl (bit_mid hm rfl))

theorem safSeal_only {μ : Nat} {s₀ : State} {s : State} (hm : sub 562950668550156 μ = true) (h₀ : Only μ s₀ s) : Only μ s₀ (State.safSeal s) := by
  unfold State.safSeal
  try dsimp only
  repeat' (first
    | with_reducible first
      | exact h₀
      | exact Only.refl _
      | refine bistStart_only (sub_mid rfl hm) ?_
      | refine swapRoles_only (sub_mid rfl hm) ?_
      | refine raise_only (sub_mid rfl hm) ?_ ?_
      | refine onSaf_only (sub_mid rfl hm) ?_
      | refine only_of_fst (by assumption) ?_
    | intro _
    | split
    | dsimp only
    | exact fieldIn_block (b := 21) rfl (bit_mid hm rfl))

theorem bistRecord_only {μ : Nat} {s₀ : State} {s : State} {l : Lane} {r : BistResult} (hm : sub 2097152 μ = true) (h₀ : Only μ s₀ s) : Only μ s₀ (State.bistRecord s l r) := by
  unfold State.bistRecord
  try dsimp only
  repeat' (first
    | with_reducible first
      | exact h₀
      | exact Only.refl _
      | refine raise_only (sub_mid rfl hm) ?_ ?_
      | refine raiseIf_only (sub_mid rfl hm) ?_ ?_
      | refine wr_only ?_ ?_
      | exact bistBlockField_in (bit_mid hm rfl)
      | exact bistResField_in (bit_mid hm rfl)
      | exact logicSig_in (bit_mid hm rfl)
      | exact memorySig_in (bit_mid hm rfl)
      | refine only_of_fst (by assumption) ?_
    | intro _
    | split
    | dsimp only
    | exact fieldIn_block (b := 21) rfl (bit_mid hm rfl))

theorem bistDone_only {μ : Nat} {s₀ : State} {s : State} {r : BistResult} (hm : sub 562950014238729 μ = true) (h₀ : Only μ s₀ s) : Only μ s₀ (State.bistDone s r) := by
  unfold State.bistDone
  try dsimp only
  repeat' (first
    | with_reducible first
      | exact h₀
      | exact Only.refl _
      | refine post_only (sub_mid rfl hm) ?_
      | refine bistRecord_only (sub_mid rfl hm) ?_
      | refine setRole_only (sub_mid rfl hm) ?_
      | refine laneReset_only (sub_mid rfl hm) ?_
      | refine onSaf_only (sub_mid rfl hm) ?_
      | refine wr_only ?_ ?_
      | exact bistRunField_in (bit_mid hm rfl)
      | refine only_of_fst (by assumption) ?_
    | intro _
    | split
    | dsimp only)

theorem bistCold_only {μ : Nat} {s₀ : State} {s : State} {l : Lane} {r : BistResult} (hm : sub 2251799849336832 μ = true) (h₀ : Only μ s₀ s) : Only μ s₀ (State.bistCold s l r) := by
  unfold State.bistCold
  try dsimp only
  repeat' (first
    | with_reducible first
      | exact h₀
      | exact Only.refl _
      | refine postOrHold_only (sub_mid rfl hm) ?_
      | refine bistRecord_only (sub_mid rfl hm) ?_
      | refine only_of_fst (by assumption) ?_
    | intro _
    | split
    | dsimp only)

theorem clearBlock_only {μ : Nat} {s₀ : State} {s : State} (hm : sub 2097152 μ = true) (h₀ : Only μ s₀ s) : Only μ s₀ (State.clearBlock s) := by
  unfold State.clearBlock
  try dsimp only
  repeat' (first
    | with_reducible first
      | exact h₀
      | exact Only.refl _
      | refine wr_only ?_ ?_
      | refine only_of_fst (by assumption) ?_
    | intro _
    | split
    | dsimp only
    | exact fieldIn_block (b := 21) rfl (bit_mid hm rfl))

theorem rinseLane_only {μ : Nat} {s₀ : State} {s : State} {l : Lane} {m : RinseMeet} (hm : sub 3254680023739916 μ = true) (h₀ : Only μ s₀ s) : Only μ s₀ (State.rinseLane s l m) := by
  unfold State.rinseLane
  try dsimp only
  repeat' (first
    | with_reducible first
      | exact h₀
      | exact Only.refl _
      | refine raise_only (sub_mid rfl hm) ?_ ?_
      | refine sramFault_only (sub_mid rfl hm) ?_
      | refine correctedWord_only (sub_mid rfl hm) ?_
      | refine only_of_fst (by assumption) ?_
    | intro _
    | split
    | dsimp only
    | exact fieldIn_block (b := 21) rfl (bit_mid hm rfl))

theorem rinseRead_only {μ : Nat} {s₀ : State} {s : State} {a : RinseMeet} {b : RinseMeet} (hm : sub 3254680023739916 μ = true) (h₀ : Only μ s₀ s) : Only μ s₀ (State.rinseRead s a b) := by
  unfold State.rinseRead
  try dsimp only
  repeat' (first
    | with_reducible first
      | exact h₀
      | exact Only.refl _
      | refine onSaf_only (sub_mid rfl hm) ?_
      | refine count_only (sub_mid rfl hm) ?_ ?_ ?_
      | refine rinseLane_only (sub_mid rfl hm) ?_
      | refine only_of_fst (by assumption) ?_
    | intro _
    | split
    | dsimp only
    | exact fieldIn_block (b := 21) rfl (bit_mid hm rfl))

/-! ### Resets -/

theorem whenUp_only {μ : Nat} {s₀ : State} {s : State} {f : State → State} (hm : sub 0 μ = true) (hf : ∀ s, Only μ s (f s)) (h₀ : Only μ s₀ s) : Only μ s₀ (State.whenUp s f) := by
  unfold State.whenUp
  try dsimp only
  repeat' (first
    | with_reducible first
      | exact h₀
      | exact Only.refl _
      | refine Only.trans ?_ (hf _)
      | refine only_of_fst (by assumption) ?_
    | intro _
    | split
    | dsimp only)

theorem whenLanes_only {μ : Nat} {s₀ : State} {s : State} {f : State → State} (hm : sub 0 μ = true) (hf : ∀ s, Only μ s (f s)) (h₀ : Only μ s₀ s) : Only μ s₀ (State.whenLanes s f) := by
  unfold State.whenLanes
  try dsimp only
  repeat' (first
    | with_reducible first
      | exact h₀
      | exact Only.refl _
      | refine Only.trans ?_ (hf _)
      | refine only_of_fst (by assumption) ?_
    | intro _
    | split
    | dsimp only)

theorem clearAll_only {μ : Nat} {s₀ : State} {s : State} {por : Bool} (hm : sub 22515644494774271 μ = true) (h₀ : Only μ s₀ s) : Only μ s₀ (State.clearAll s por) := by
  unfold State.clearAll
  refine loadLat_only (sub_mid rfl hm) (loadLat_only (sub_mid rfl hm) ?_)
  have hnow : Time.ok State.reset.tb.now := ⟨by decide, by decide, by decide⟩
  exact Only.upd rfl hm {
    regs := .inl rfl
    sramAInv := fun _ => rfl
    sramBInv := fun _ => rfl
    regsInv := fun i => kvFilter_wf _ _ i.regs
    bufferInv := fun _ => Nat.zero_le _
    inqInv := fun _ => Nat.zero_le _
    fillAInv := fun _ => Nat.zero_le _
    fillBInv := fun _ => Nat.zero_le _
    nowInv := fun _ => hnow
    stepInv := fun _ q hq => by cases hq
  } (acmAbort_only (sub_mid rfl hm) h₀)

theorem startLanes_only {μ : Nat} {s₀ : State} {s : State} (hm : sub 8388616 μ = true) (h₀ : Only μ s₀ s) : Only μ s₀ (State.startLanes s) := by
  unfold State.startLanes
  try dsimp only
  repeat' (first
    | with_reducible first
      | exact h₀
      | exact Only.refl _
      | refine wr_only ?_ ?_
      | refine only_of_fst (by assumption) ?_
    | refine onLane_only_lanes (fun _ => rfl) (fun _ => by first | exact Nat.le_refl _ | exact Nat.zero_le _) (bit_mid hm rfl) ?_
    | intro _
    | split
    | dsimp only
    | exact fieldIn_block (b := 3) rfl (bit_mid hm rfl)
    | (with_reducible refine Only.upd rfl hm ?_ ?_; exact {}))

theorem resetCause_only {μ : Nat} {s₀ : State} {s : State} {x0 : ResetCause} (hm : sub 1 μ = true) (h₀ : Only μ s₀ s) : Only μ s₀ (State.resetCause s x0) := by
  unfold State.resetCause
  try dsimp only
  repeat' (first
    | with_reducible first
      | exact h₀
      | exact Only.refl _
      | refine raise_only (sub_mid rfl hm) ?_ ?_
      | refine only_of_fst (by assumption) ?_
    | intro _
    | split
    | dsimp only
    | exact fieldIn_block (b := 0) rfl (bit_mid hm rfl))

theorem systemReset_only {μ : Nat} {s₀ : State} {s : State} {c : ResetCause} (hm : sub 22515644494774271 μ = true) (h₀ : Only μ s₀ s) : Only μ s₀ (State.systemReset s c) := by
  unfold State.systemReset
  try dsimp only
  repeat' (first
    | with_reducible first
      | exact h₀
      | exact Only.refl _
      | refine startLanes_only (sub_mid rfl hm) ?_
      | refine clearAll_only (sub_mid rfl hm) ?_
      | refine resetCause_only (sub_mid rfl hm) ?_
      | refine only_of_fst (by assumption) ?_
    | intro _
    | split
    | dsimp only
    | (with_reducible refine Only.upd rfl hm ?_ ?_; exact {}))

theorem pinReset_only {μ : Nat} {s₀ : State} {s : State} (hm : sub 22515644494774271 μ = true) (h₀ : Only μ s₀ s) : Only μ s₀ (State.pinReset s) := by
  unfold State.pinReset
  try dsimp only
  repeat' (first
    | with_reducible first
      | exact h₀
      | exact Only.refl _
      | refine systemReset_only (sub_mid rfl hm) ?_
      | refine only_of_fst (by assumption) ?_
    | intro _
    | split
    | dsimp only
    | (with_reducible refine Only.upd rfl hm ?_ ?_; exact {}))

theorem pinRelease_only {μ : Nat} {s₀ : State} {s : State} (hm : sub 1125899915231240 μ = true) (h₀ : Only μ s₀ s) : Only μ s₀ (State.pinRelease s) := by
  unfold State.pinRelease
  try dsimp only
  repeat' (first
    | with_reducible first
      | exact h₀
      | exact Only.refl _
      | refine startLanes_only (sub_mid rfl hm) ?_
      | refine only_of_fst (by assumption) ?_
    | intro _
    | split
    | dsimp only
    | (with_reducible refine Only.upd rfl hm ?_ ?_; exact {}))

theorem powerOn_only {μ : Nat} {s₀ : State} {s : State} (hm : sub 22515644494774271 μ = true) (h₀ : Only μ s₀ s) : Only μ s₀ (State.powerOn s) := by
  unfold State.powerOn
  try dsimp only
  repeat' (first
    | with_reducible first
      | exact h₀
      | exact Only.refl _
      | refine clearAll_only (sub_mid rfl hm) ?_
      | refine raiseIf_only (sub_mid rfl hm) ?_ ?_
      | refine only_of_fst (by assumption) ?_
    | intro _
    | split
    | dsimp only
    | exact fieldIn_block (b := 0) rfl (bit_mid hm rfl)
    | (with_reducible refine Only.upd rfl hm ?_ ?_; exact {}))

theorem powerOnEnd_only {μ : Nat} {s₀ : State} {s : State} {a : BistResult} {b : BistResult} {testLow : Bool} (hm : sub 3386547397206024 μ = true) (h₀ : Only μ s₀ s) : Only μ s₀ (State.powerOnEnd s a b testLow) := by
  unfold State.powerOnEnd
  try dsimp only
  repeat' (first
    | with_reducible first
      | exact h₀
      | exact Only.refl _
      | refine startLanes_only (sub_mid rfl hm) ?_
      | refine bistCold_only (sub_mid rfl hm) ?_
      | refine pstAdvance_only (sub_mid rfl hm) ?_
      | refine only_of_fst (by assumption) ?_
    | intro _
    | split
    | dsimp only
    | (with_reducible refine Only.upd rfl hm ?_ ?_; exact {}))

theorem vinCollapse_only {μ : Nat} {s₀ : State} {s : State} {n : Nat} (hm : sub 22515661674643455 μ = true) (h₀ : Only μ s₀ s) : Only μ s₀ (State.vinCollapse s n) := by
  unfold State.vinCollapse
  try dsimp only
  repeat' (first
    | with_reducible first
      | exact h₀
      | exact Only.refl _
      | refine clearAll_only (sub_mid rfl hm) ?_
      | refine pstStep_only (sub_mid rfl hm) ?_
      | refine only_foldl ?_ ?_
      | refine only_foldl_pair ?_ ?_
      | refine only_of_fst (by assumption) ?_
    | intro _
    | split
    | dsimp only
    | (with_reducible refine Only.upd rfl hm ?_ ?_; exact { bufferInv := fun _ => Nat.zero_le _ })
    | (with_reducible refine Only.upd rfl hm ?_ ?_; exact {}))

theorem referenceStop_only {μ : Nat} {s₀ : State} {s : State} (hm : sub 1139094046375936 μ = true) (h₀ : Only μ s₀ s) : Only μ s₀ (State.referenceStop s) := by
  unfold State.referenceStop
  try dsimp only
  repeat' (first
    | with_reducible first
      | exact h₀
      | exact Only.refl _
      | refine only_of_fst (by assumption) ?_
    | intro _
    | split
    | dsimp only
    | (with_reducible refine Only.upd rfl hm ?_ ?_; exact {}))

theorem tapUpdate_only {μ : Nat} {s₀ : State} {s : State} {i : TapInstr} (hm : sub 22515644494774271 μ = true) (h₀ : Only μ s₀ s) : Only μ s₀ (State.tapUpdate s i) := by
  unfold State.tapUpdate
  try dsimp only
  repeat' (first
    | with_reducible first
      | exact h₀
      | exact Only.refl _
      | refine startLanes_only (sub_mid rfl hm) ?_
      | refine raise_only (sub_mid rfl hm) ?_ ?_
      | refine clearAll_only (sub_mid rfl hm) ?_
      | refine only_of_fst (by assumption) ?_
    | intro _
    | split
    | dsimp only
    | exact fieldIn_block (b := 0) rfl (bit_mid hm rfl)
    | (with_reducible refine Only.upd rfl hm ?_ ?_; exact {}))

theorem otpDone_only {μ : Nat} {s₀ : State} {s : State} (hm : sub 22515799113596927 μ = true) (h₀ : Only μ s₀ s) : Only μ s₀ (State.otpDone s) := by
  unfold State.otpDone
  try dsimp only
  repeat' (first
    | with_reducible first
      | exact h₀
      | exact Only.refl _
      | refine otpProgrammed_only (sub_mid rfl hm) ?_
      | refine systemReset_only (sub_mid rfl hm) ?_
      | refine resetCause_only (sub_mid rfl hm) ?_
      | refine only_of_fst (by assumption) ?_
    | intro _
    | split
    | dsimp only)

theorem noLaneReset_only {μ : Nat} {s₀ : State} {s : State} (hm : sub 22515644494774271 μ = true) (h₀ : Only μ s₀ s) : Only μ s₀ (State.noLaneReset s) := by
  unfold State.noLaneReset
  try dsimp only
  repeat' (first
    | with_reducible first
      | exact h₀
      | exact Only.refl _
      | refine systemReset_only (sub_mid rfl hm) ?_
      | refine only_of_fst (by assumption) ?_
    | intro _
    | split
    | dsimp only)

/-! ### Update -/

theorem activate_only {μ : Nat} {s₀ : State} {s : State} (hm : sub 22515661674643455 μ = true) (h₀ : Only μ s₀ s) : Only μ s₀ (State.activate s) := by
  unfold State.activate
  try dsimp only
  repeat' (first
    | with_reducible first
      | exact h₀
      | exact Only.refl _
      | refine upTo_only (sub_mid rfl hm) ?_
      | refine systemReset_only (sub_mid rfl hm) ?_
      | refine writeCodeStore_only (sub_mid rfl hm) ?_
      | refine openWindow_only (sub_mid rfl hm) ?_
      | refine setStep_only (sub_mid rfl hm) ?_
      | refine wr_only ?_ ?_
      | refine only_of_fst (by assumption) ?_
    | intro _
    | split
    | dsimp only
    | exact fieldIn_block (b := 18) rfl (bit_mid hm rfl))

theorem codeWritten_only {μ : Nat} {s₀ : State} {s : State} (hm : sub 2674132571660288 μ = true) (h₀ : Only μ s₀ s) : Only μ s₀ (State.codeWritten s) := by
  unfold State.codeWritten
  try dsimp only
  repeat' (first
    | with_reducible first
      | exact h₀
      | exact Only.refl _
      | refine writeCodeStore_only (sub_mid rfl hm) ?_
      | refine upTo_only (sub_mid rfl hm) ?_
      | refine wr_only ?_ ?_
      | refine only_of_fst (by assumption) ?_
    | intro _
    | split
    | dsimp only
    | exact fieldIn_block (b := 18) rfl (bit_mid hm rfl))

theorem rollback_only {μ : Nat} {s₀ : State} {s : State} {cause : Nat} (hm : sub 3254679956631052 μ = true) (h₀ : Only μ s₀ s) : Only μ s₀ (State.rollback s cause) := by
  unfold State.rollback
  try dsimp only
  repeat' (first
    | with_reducible first
      | exact h₀
      | exact Only.refl _
      | refine takeOut_only (sub_mid rfl hm) ?_
      | refine upCause_only (sub_mid rfl hm) ?_
      | refine verdictEvent_only (sub_mid rfl hm) ?_
      | refine setStep_only (sub_mid rfl hm) ?_
      | refine upTo_only (sub_mid rfl hm) ?_
      | refine only_of_fst (by assumption) ?_
    | intro _
    | split
    | dsimp only)

theorem verdict_only {μ : Nat} {s₀ : State} {s : State} {l : Lane} {key : Nat} {pass : Nat} {cause : Nat} (hm : sub 3254679956631052 μ = true) (h₀ : Only μ s₀ s) : Only μ s₀ (State.verdict s l key pass cause) := by
  unfold State.verdict
  try dsimp only
  repeat' (first
    | with_reducible first
      | exact h₀
      | exact Only.refl _
      | refine rollback_only (sub_mid rfl hm) ?_
      | refine upCause_only (sub_mid rfl hm) ?_
      | refine verdictEvent_only (sub_mid rfl hm) ?_
      | refine setStep_only (sub_mid rfl hm) ?_
      | refine upTo_only (sub_mid rfl hm) ?_
      | refine raise_only (sub_mid rfl hm) ?_ ?_
      | refine only_of_fst (by assumption) ?_
    | intro _
    | split
    | dsimp only
    | exact fieldIn_block (b := 18) rfl (bit_mid hm rfl))

theorem trialDeadline_only {μ : Nat} {s₀ : State} {s : State} (hm : sub 3254679956631052 μ = true) (h₀ : Only μ s₀ s) : Only μ s₀ (State.trialDeadline s) := by
  unfold State.trialDeadline
  try dsimp only
  repeat' (first
    | with_reducible first
      | exact h₀
      | exact Only.refl _
      | refine rollback_only (sub_mid rfl hm) ?_
      | refine only_of_fst (by assumption) ?_
    | intro _
    | split
    | dsimp only)

theorem commitSettings_only {μ : Nat} {s₀ : State} {s : State} (hm : sub 140857747447808 μ = true) (h₀ : Only μ s₀ s) : Only μ s₀ (State.commitSettings s) := by
  unfold State.commitSettings
  try dsimp only
  repeat' (first
    | with_reducible first
      | exact h₀
      | exact Only.refl _
      | refine copyPst_only (sub_mid rfl hm) ?_
      | refine wr_only ?_ ?_
      | refine only_of_fst (by assumption) ?_
    | intro _
    | split
    | dsimp only
    | exact fieldIn_block (b := 13) rfl (bit_mid hm rfl))

theorem commitVersions_only {μ : Nat} {s₀ : State} {s : State} {again : Bool} (hm : sub 262144 μ = true) (h₀ : Only μ s₀ s) : Only μ s₀ (State.commitVersions s again) := by
  unfold State.commitVersions
  try dsimp only
  repeat' (first
    | with_reducible first
      | exact h₀
      | exact Only.refl _
      | refine wr_only ?_ ?_
      | refine only_of_fst (by assumption) ?_
    | intro _
    | split
    | dsimp only
    | exact fieldIn_block (b := 18) rfl (bit_mid hm rfl))

theorem committed_only {μ : Nat} {s₀ : State} {s : State} (hm : sub 2674132571660288 μ = true) (h₀ : Only μ s₀ s) : Only μ s₀ (State.committed s) := by
  unfold State.committed
  try dsimp only
  repeat' (first
    | with_reducible first
      | exact h₀
      | exact Only.refl _
      | refine upTo_only (sub_mid rfl hm) ?_
      | refine writeRecord_only (sub_mid rfl hm) ?_
      | refine setStep_only (sub_mid rfl hm) ?_
      | refine commitSettings_only (sub_mid rfl hm) ?_
      | refine commitVersions_only (sub_mid rfl hm) ?_
      | refine only_of_fst (by assumption) ?_
    | intro _
    | split
    | dsimp only)

theorem voidTrial_only {μ : Nat} {s₀ : State} {s : State} (hm : sub 140857747447808 μ = true) (h₀ : Only μ s₀ s) : Only μ s₀ (State.voidTrial s) := by
  unfold State.voidTrial
  try dsimp only
  repeat' (first
    | with_reducible first
      | exact h₀
      | exact Only.refl _
      | refine pstWords_only (sub_mid rfl hm) ?_
      | refine only_of_fst (by assumption) ?_
    | intro _
    | split
    | dsimp only)

theorem restored_only {μ : Nat} {s₀ : State} {s : State} (hm : sub 22515661674643455 μ = true) (h₀ : Only μ s₀ s) : Only μ s₀ (State.restored s) := by
  unfold State.restored
  try dsimp only
  repeat' (first
    | with_reducible first
      | exact h₀
      | exact Only.refl _
      | refine voidTrial_only (sub_mid rfl hm) ?_
      | refine setStep_only (sub_mid rfl hm) ?_
      | refine upTo_only (sub_mid rfl hm) ?_
      | refine systemReset_only (sub_mid rfl hm) ?_
      | refine writeCodeStore_only (sub_mid rfl hm) ?_
      | refine wr_only ?_ ?_
      | refine only_of_fst (by assumption) ?_
    | intro _
    | split
    | dsimp only
    | exact fieldIn_block (b := 3) rfl (bit_mid hm rfl)
    | exact fieldIn_block (b := 13) rfl (bit_mid hm rfl)
    | exact fieldIn_block (b := 18) rfl (bit_mid hm rfl))

theorem placeBody_only {μ : Nat} {s₀ : State} {s : State} {l : Lane} {at' : Nat} {body : Octets} (hm : sub 25165824 μ = true) (h₀ : Only μ s₀ s) : Only μ s₀ (State.placeBody s l at' body) := by
  exact onLane_only_both (fun _ h => memWrite_wf _ _ _ h) (fun _ => Nat.le_refl _) (by rw [bit_mid hm (i := 23) rfl, bit_mid hm (i := 24) rfl]; rfl) h₀

theorem loadImage_only {μ : Nat} {s₀ : State} {s : State} {l : Lane} {c : Octets} (hm : sub 25231360 μ = true) (h₀ : Only μ s₀ s) : Only μ s₀ (State.loadImage s l c).1 := by
  unfold State.loadImage
  try dsimp only
  repeat' (first
    | with_reducible first
      | exact h₀
      | exact Only.refl _
      | refine placeBody_only (sub_mid rfl hm) ?_
      | refine bodyOf_only (sub_mid rfl hm) ?_
      | refine acceptable_only (sub_mid rfl hm) ?_
      | refine only_of_fst (by assumption) ?_
    | intro _
    | split
    | dsimp only)

theorem laneLoad_only {μ : Nat} {s₀ : State} {s : State} {l : Lane} (hm : sub 3254679973473804 μ = true) (h₀ : Only μ s₀ s) : Only μ s₀ (State.laneLoad s l) := by
  unfold State.laneLoad
  try dsimp only
  repeat' (first
    | with_reducible first
      | exact h₀
      | exact Only.refl _
      | refine raise_only (sub_mid rfl hm) ?_ ?_
      | refine rollback_only (sub_mid rfl hm) ?_
      | refine loadImage_only (sub_mid rfl hm) ?_
      | refine only_of_fst (by assumption) ?_
    | intro _
    | split
    | dsimp only
    | exact fieldIn_block (b := 18) rfl (bit_mid hm rfl))

/-! ### Functions -/

theorem funcStart_only {μ : Nat} {s₀ : State} {s : State} {x0 : Func} (hm : sub 114349210869632 μ = true) (h₀ : Only μ s₀ s) : Only μ s₀ (State.funcStart s x0) := by
  unfold State.funcStart
  try dsimp only
  repeat' (first
    | with_reducible first
      | exact h₀
      | exact Only.refl _
      | refine meterEnable_only (sub_mid rfl hm) ?_
      | refine plmStart_only (sub_mid rfl hm) ?_
      | refine rfStart_only (sub_mid rfl hm) ?_
      | refine wr_only ?_ ?_
      | exact runstField_in (sub_mid rfl hm)
      | refine only_of_fst (by assumption) ?_
    | intro _
    | split
    | dsimp only)

theorem funcHalt_only {μ : Nat} {s₀ : State} {s : State} {x0 : Func} (hm : sub 149653874024704 μ = true) (h₀ : Only μ s₀ s) : Only μ s₀ (State.funcHalt s x0) := by
  unfold State.funcHalt
  try dsimp only
  repeat' (first
    | with_reducible first
      | exact h₀
      | exact Only.refl _
      | refine meterHalt_only (sub_mid rfl hm) ?_
      | refine rflAbort_only (sub_mid rfl hm) ?_
      | refine only_of_fst (by assumption) ?_
    | intro _
    | split
    | dsimp only)

theorem funcWrite_only {μ : Nat} {s₀ : State} {s : State} {f : Func} {v : Nat} (hm : sub 255206991871872 μ = true) (h₀ : Only μ s₀ s) : Only μ s₀ (State.funcWrite s f v) := by
  unfold State.funcWrite
  try dsimp only
  repeat' (first
    | with_reducible first
      | exact h₀
      | exact Only.refl _
      | refine funcHalt_only (sub_mid rfl hm) ?_
      | refine funcStart_only (sub_mid rfl hm) ?_
      | refine wr_only ?_ ?_
      | exact enField_in (sub_mid rfl hm)
      | exact runstField_in (sub_mid rfl hm)
      | refine only_of_fst (by assumption) ?_
    | intro _
    | split
    | dsimp only)

theorem funcShut_only {μ : Nat} {s₀ : State} {s : State} {x0 : Func} (hm : sub 18287210589077376 μ = true) (h₀ : Only μ s₀ s) : Only μ s₀ (State.funcShut s x0) := by
  unfold State.funcShut
  try dsimp only
  repeat' (first
    | with_reducible first
      | exact h₀
      | exact Only.refl _
      | refine dmaShut_only (sub_mid rfl hm) ?_
      | refine meterStop_only (sub_mid rfl hm) ?_
      | refine rflShut_only (sub_mid rfl hm) ?_
      | refine plmShut_only (sub_mid rfl hm) ?_
      | refine rfShut_only (sub_mid rfl hm) ?_
      | refine pbShut_only (sub_mid rfl hm) ?_
      | refine portShut_only (sub_mid rfl hm) ?_
      | refine wr_only ?_ ?_
      | exact DCQ_Q_W0_RUNST_in (bit_mid hm rfl)
      | exact DMA_CH_W0_RUNST_in (bit_mid hm rfl)
      | refine only_of_fst (by assumption) ?_
    | intro _
    | split
    | dsimp only
    | exact fieldIn_block (b := 12) rfl (bit_mid hm rfl))

theorem shutDone_only {μ : Nat} {s₀ : State} {s : State} {f : Func} (hm : sub 18287210589077376 μ = true) (h₀ : Only μ s₀ s) : Only μ s₀ (State.shutDone s f) := by
  unfold State.shutDone
  try dsimp only
  repeat' (first
    | with_reducible first
      | exact h₀
      | exact Only.refl _
      | refine funcStart_only (sub_mid rfl hm) ?_
      | refine funcShut_only (sub_mid rfl hm) ?_
      | refine only_of_fst (by assumption) ?_
    | intro _
    | split
    | dsimp only)

theorem funcRunning_only {μ : Nat} {s₀ : State} {s : State} {f : Func} (hm : sub 52776559714176 μ = true) (h₀ : Only μ s₀ s) : Only μ s₀ (State.funcRunning s f) := by
  unfold State.funcRunning
  try dsimp only
  repeat' (first
    | with_reducible first
      | exact h₀
      | exact Only.refl _
      | refine rfRunning_only (sub_mid rfl hm) ?_
      | refine pbRun_only (sub_mid rfl hm) ?_
      | refine wr_only ?_ ?_
      | exact runstField_in (sub_mid rfl hm)
      | refine only_of_fst (by assumption) ?_
    | intro _
    | split
    | dsimp only
    | exact fieldIn_block (b := 11) rfl (bit_mid hm rfl))

/-! ### ReadView -/

theorem capture15_only {μ : Nat} {s₀ : State} {s : State} {l : Lane} {base : Nat} {v : Nat} (hm : sub 8388608 μ = true) (h₀ : Only μ s₀ s) : Only μ s₀ (State.capture15 s l base v) := by
  unfold State.capture15
  try dsimp only
  repeat' (first
    | with_reducible first
      | exact h₀
      | exact Only.refl _
      | refine only_of_fst (by assumption) ?_
    | refine onLane_only_lanes (fun _ => rfl) (fun _ => by first | exact Nat.le_refl _ | exact Nat.zero_le _) (bit_mid hm rfl) ?_
    | intro _
    | split
    | dsimp only
    | (with_reducible refine Only.upd rfl hm ?_ ?_; exact {}))

theorem regRead_only {μ : Nat} {s₀ : State} {s : State} {l : Lane} {a : Nat} (hm : sub 18159654311829504 μ = true) (h₀ : Only μ s₀ s) : Only μ s₀ (State.regRead s l a).1 := by
  unfold State.regRead
  try dsimp only
  repeat' (first
    | with_reducible first
      | exact h₀
      | exact Only.refl _
      | refine capture15_only (sub_mid rfl hm) ?_
      | refine pstDrain_only (sub_mid rfl hm) ?_
      | refine readTimeGroup_only (sub_mid rfl hm) ?_
      | refine freeTick_only (sub_mid rfl hm) ?_
      | refine only_of_fst (by assumption) ?_
    | intro _
    | split
    | dsimp only)

theorem loaded_only {μ : Nat} {s₀ : State} {s : State} {l : Lane} {v : Nat} (hm : sub 8388608 μ = true) (h₀ : Only μ s₀ s) : Only μ s₀ (State.loaded s l v) := by
  unfold State.loaded
  try dsimp only
  repeat' (first
    | with_reducible first
      | exact h₀
      | exact Only.refl _
      | refine only_of_fst (by assumption) ?_
    | refine onLane_only_lanes (fun _ => rfl) (fun _ => by first | exact Nat.le_refl _ | exact Nat.zero_le _) (bit_mid hm rfl) ?_
    | intro _
    | split
    | dsimp only
    | (with_reducible refine Only.upd rfl hm ?_ ?_; exact {}))

theorem countNd_only {μ : Nat} {s₀ : State} {s : State} {l : Lane} (hm : sub 134217736 μ = true) (h₀ : Only μ s₀ s) : Only μ s₀ (State.countNd s l) := by
  unfold State.countNd
  try dsimp only
  repeat' (first
    | with_reducible first
      | exact h₀
      | exact Only.refl _
      | refine count_only (sub_mid rfl hm) ?_ ?_ ?_
      | refine countAgainst_only (sub_mid rfl hm) ?_
      | exact LSC_ND_CNT_COUNT_in (bit_mid hm rfl)
      | refine only_of_fst (by assumption) ?_
    | intro _
    | split
    | dsimp only
    | exact fieldIn_block (b := 3) rfl (bit_mid hm rfl))

theorem enterCore_only {μ : Nat} {s₀ : State} {s : State} {l : Lane} {c : CoreMeet} (hm : sub 8388608 μ = true) (h₀ : Only μ s₀ s) : Only μ s₀ (State.enterCore s l c) := by
  unfold State.enterCore
  try dsimp only
  repeat' (first
    | with_reducible first
      | exact h₀
      | exact Only.refl _
      | refine only_of_fst (by assumption) ?_
    | refine onLane_only_lanes (fun _ => rfl) (fun _ => by first | exact Nat.le_refl _ | exact Nat.zero_le _) (bit_mid hm rfl) ?_
    | intro _
    | split
    | dsimp only
    | (with_reducible refine Only.upd rfl hm ?_ ?_; exact {}))

theorem sramMeet_only {μ : Nat} {s₀ : State} {s : State} {l : Lane} {m : RinseMeet} {go : State → State} (hm : sub 3254680023739916 μ = true) (hgo : ∀ s, Only μ s (go s)) (h₀ : Only μ s₀ s) : Only μ s₀ (State.sramMeet s l m go) := by
  unfold State.sramMeet
  try dsimp only
  repeat' (first
    | with_reducible first
      | exact h₀
      | exact Only.refl _
      | refine sramFault_only (sub_mid rfl hm) ?_
      | refine correctedWord_only (sub_mid rfl hm) ?_
      | refine Only.trans ?_ (hgo _)
      | refine only_of_fst (by assumption) ?_
    | intro _
    | split
    | dsimp only)

theorem memoryLoad_only {μ : Nat} {s₀ : State} {s : State} {l : Lane} {a : Nat} {size : Nat} {m : RinseMeet} (hm : sub 21269078533221900 μ = true) (h₀ : Only μ s₀ s) : Only μ s₀ (State.memoryLoad s l a size m) := by
  unfold State.memoryLoad
  try dsimp only
  repeat' (first
    | with_reducible first
      | exact h₀
      | exact Only.refl _
      | refine trapLane_only (sub_mid rfl hm) ?_
      | refine loaded_only (sub_mid rfl hm) ?_
      | refine freeTick_only (sub_mid rfl hm) ?_
      | refine sramMeet_only (sub_mid rfl hm) ?_ ?_
      | refine only_of_fst (by assumption) ?_
    | intro _
    | split
    | dsimp only)

theorem laneRead_only {μ : Nat} {s₀ : State} {s : State} {l : Lane} {a : Nat} {size : Nat} {parity : Bool} (hm : sub 21273476579733004 μ = true) (h₀ : Only μ s₀ s) : Only μ s₀ (State.laneRead s l a size parity) := by
  unfold State.laneRead
  try dsimp only
  repeat' (first
    | with_reducible first
      | exact h₀
      | exact Only.refl _
      | refine countNd_only (sub_mid rfl hm) ?_
      | refine loaded_only (sub_mid rfl hm) ?_
      | refine regRead_only (sub_mid rfl hm) ?_
      | refine poisonedLoad_only (sub_mid rfl hm) ?_
      | refine trapLane_only (sub_mid rfl hm) ?_
      | refine only_of_fst (by assumption) ?_
    | intro _
    | split
    | dsimp only)

theorem pstLoad_only {μ : Nat} {s₀ : State} {s : State} {l : Lane} {a : Nat} {size : Nat} {e : PstMeet} (hm : sub 3254680023739916 μ = true) (h₀ : Only μ s₀ s) : Only μ s₀ (State.pstLoad s l a size e) := by
  unfold State.pstLoad
  try dsimp only
  repeat' (first
    | with_reducible first
      | exact h₀
      | exact Only.refl _
      | refine poisonedLoad_only (sub_mid rfl hm) ?_
      | refine pstUncorrected_only (sub_mid rfl hm) ?_
      | refine trapLane_only (sub_mid rfl hm) ?_
      | refine pstCorrected_only (sub_mid rfl hm) ?_
      | refine loaded_only (sub_mid rfl hm) ?_
      | refine only_of_fst (by assumption) ?_
    | intro _
    | split
    | dsimp only)

theorem coreLoad_only {μ : Nat} {s₀ : State} {s : State} {l : Lane} {a : Nat} {size : Nat} {m : LoadMeet} {p : PstMeet} (hm : sub 21273476579733004 μ = true) (h₀ : Only μ s₀ s) : Only μ s₀ (State.coreLoad s l a size m p) := by
  unfold State.coreLoad
  try dsimp only
  repeat' (first
    | with_reducible first
      | exact h₀
      | exact Only.refl _
      | refine memoryLoad_only (sub_mid rfl hm) ?_
      | refine pstLoad_only (sub_mid rfl hm) ?_
      | refine trapLane_only (sub_mid rfl hm) ?_
      | refine laneRead_only (sub_mid rfl hm) ?_
      | refine enterCore_only (sub_mid rfl hm) ?_
      | refine only_of_fst (by assumption) ?_
    | intro _
    | split
    | dsimp only)

/-! ### Write -/

theorem writeField_only {μ : Nat} {s₀ : State} {s : State} {f : Field} {acc : Access} {v : Nat} (hm : sub 255206998671359 μ = true) (hf : FieldIn f μ) (h₀ : Only μ s₀ s) : Only μ s₀ (State.writeField s f acc v) := by
  unfold State.writeField
  try dsimp only
  repeat' (first
    | with_reducible first
      | exact h₀
      | exact Only.refl _
      | refine sf1Thr_only (sub_mid rfl hm) ?_
      | refine funcWrite_only (sub_mid rfl hm) ?_
      | refine raise_only (sub_mid rfl hm) ?_ ?_
      | refine wr_only ?_ ?_
      | exact hf
      | exact FieldIn.mid (sub_mid rfl hm) (fieldIn_all _)
      | refine only_of_fst (by assumption) ?_
    | intro _
    | split
    | dsimp only)

theorem writeFields_only {μ : Nat} {s₀ : State} {s : State} {p : RegPlace} {l : Lane} {v : Nat} (hm : sub 255206998671359 μ = true) (h₀ : Only μ s₀ s) : Only μ s₀ (State.writeFields s p l v) := by
  exact only_foldl (fun s x => writeField_only (sub_mid rfl hm) (FieldIn.mid (sub_mid rfl hm) (fieldIn_all _)) (Only.refl s)) h₀

theorem sequencerOn_only {μ : Nat} {s₀ : State} {s : State} (hm : sub 2251872794591292 μ = true) (h₀ : Only μ s₀ s) : Only μ s₀ (State.sequencerOn s) := by
  unfold State.sequencerOn
  try dsimp only
  repeat' (first
    | with_reducible first
      | exact h₀
      | exact Only.refl _
      | refine coldRoles_only (sub_mid rfl hm) ?_
      | refine launchReset_only (sub_mid rfl hm) ?_
      | refine escortReset_only (sub_mid rfl hm) ?_
      | refine recorderStart_only (sub_mid rfl hm) ?_
      | refine releaseHeld_only (sub_mid rfl hm) ?_
      | refine crzStart_only (sub_mid rfl hm) ?_
      | refine only_of_fst (by assumption) ?_
    | intro _
    | split
    | dsimp only
    | (with_reducible refine Only.upd rfl hm ?_ ?_; exact {}))

theorem crzCtrl_only {μ : Nat} {s₀ : State} {s : State} {v : Nat} (hm : sub 2251872794591292 μ = true) (h₀ : Only μ s₀ s) : Only μ s₀ (State.crzCtrl s v) := by
  unfold State.crzCtrl
  try dsimp only
  repeat' (first
    | with_reducible first
      | exact h₀
      | exact Only.refl _
      | refine crzStop_only (sub_mid rfl hm) ?_
      | refine sequencerOn_only (sub_mid rfl hm) ?_
      | refine only_of_fst (by assumption) ?_
    | intro _
    | split
    | dsimp only)

theorem lscCommand_only {μ : Nat} {s₀ : State} {s : State} {v : Nat} (hm : sub 3254679956631052 μ = true) (h₀ : Only μ s₀ s) : Only μ s₀ (State.lscCommand s v) := by
  unfold State.lscCommand
  try dsimp only
  repeat' (first
    | with_reducible first
      | exact h₀
      | exact Only.refl _
      | refine rejoinCmd_only (sub_mid rfl hm) ?_
      | refine takeOutCmd_only (sub_mid rfl hm) ?_
      | refine swapCmd_only (sub_mid rfl hm) ?_
      | refine only_of_fst (by assumption) ?_
    | intro _
    | split
    | dsimp only)

theorem rtcOp_only {μ : Nat} {s₀ : State} {s : State} {v : Nat} (hm : sub 4398046543872 μ = true) (h₀ : Only μ s₀ s) : Only μ s₀ (State.rtcOp s v) := by
  unfold State.rtcOp
  try dsimp only
  repeat' (first
    | with_reducible first
      | exact h₀
      | exact Only.refl _
      | refine ponCommand_only (sub_mid rfl hm) ?_
      | refine armHour_only (sub_mid rfl hm) ?_
      | refine rtcCommit_only (sub_mid rfl hm) ?_
      | refine rtcCommand_only (sub_mid rfl hm) ?_ ?_
      | refine only_of_fst (by assumption) ?_
    | intro _
    | split
    | dsimp only)

theorem ksuOp_only {μ : Nat} {s₀ : State} {s : State} {org : Origin} {v : Nat} {x : WriteMeet} (hm : sub 18155531134902272 μ = true) (h₀ : Only μ s₀ s) : Only μ s₀ (State.ksuOp s org v x) := by
  unfold State.ksuOp
  try dsimp only
  repeat' (first
    | with_reducible first
      | exact h₀
      | exact Only.refl _
      | refine ksuEnrol_only (sub_mid rfl hm) ?_
      | refine ksuClear_only (sub_mid rfl hm) ?_
      | refine ksuDerive_only (sub_mid rfl hm) ?_
      | refine ksuImport_only (sub_mid rfl hm) ?_
      | refine ksuTransition_only (sub_mid rfl hm) ?_
      | refine ksuCommand_only (sub_mid rfl hm) ?_ ?_
      | refine only_of_fst (by assumption) ?_
    | intro _
    | split
    | dsimp only)

theorem rldOp_only {μ : Nat} {s₀ : State} {s : State} {org : Origin} {v : Nat} (hm : sub 2674132571725824 μ = true) (h₀ : Only μ s₀ s) : Only μ s₀ (State.rldOp s org v) := by
  unfold State.rldOp
  try dsimp only
  repeat' (first
    | with_reducible first
      | exact h₀
      | exact Only.refl _
      | refine rldStore_only (sub_mid rfl hm) ?_
      | refine rldCancel_only (sub_mid rfl hm) ?_
      | refine rldSchedule_only (sub_mid rfl hm) ?_
      | refine rldVerify_only (sub_mid rfl hm) ?_
      | refine rldCommand_only (sub_mid rfl hm) ?_ ?_
      | refine only_of_fst (by assumption) ?_
    | intro _
    | split
    | dsimp only)

theorem safOp_only {μ : Nat} {s₀ : State} {s : State} {v : Nat} (hm : sub 562950668550156 μ = true) (h₀ : Only μ s₀ s) : Only μ s₀ (State.safOp s v) := by
  unfold State.safOp
  try dsimp only
  repeat' (first
    | with_reducible first
      | exact h₀
      | exact Only.refl _
      | refine clearBlock_only (sub_mid rfl hm) ?_
      | refine sf1Test_only (sub_mid rfl hm) ?_
      | refine bistOrder_only (sub_mid rfl hm) ?_
      | refine safCommand_only (sub_mid rfl hm) ?_ ?_
      | refine only_of_fst (by assumption) ?_
    | intro _
    | split
    | dsimp only)

theorem rflOp_only {μ : Nat} {s₀ : State} {s : State} {v : Nat} (hm : sub 140857781002496 μ = true) (h₀ : Only μ s₀ s) : Only μ s₀ (State.rflOp s v) := by
  unfold State.rflOp
  try dsimp only
  repeat' (first
    | with_reducible first
      | exact h₀
      | exact Only.refl _
      | refine rflAbort_only (sub_mid rfl hm) ?_
      | refine rflArm_only (sub_mid rfl hm) ?_
      | refine only_of_fst (by assumption) ?_
    | intro _
    | split
    | dsimp only)

theorem lscOwn_only {μ : Nat} {s₀ : State} {s : State} {l : Lane} {a : Nat} {v : Nat} (hm : sub 310378504 μ = true) (h₀ : Only μ s₀ s) : Only μ s₀ (State.lscOwn s l a v) := by
  unfold State.lscOwn
  try dsimp only
  repeat' (first
    | with_reducible first
      | exact h₀
      | exact Only.refl _
      | refine joinWrite_only (sub_mid rfl hm) ?_
      | refine sealWrite_only (sub_mid rfl hm) ?_
      | refine only_of_fst (by assumption) ?_
    | intro _
    | split
    | dsimp only)

theorem commandCore_only {μ : Nat} {s₀ t : State} {s : State} {org : Origin} {a : Nat} {v : Nat} (hm : sub 22515661674643455 μ = true) (e : State.commandCore s org a v = some t) (h₀ : Only μ s₀ s) : Only μ s₀ t := by
  unfold State.commandCore at e
  revert e
  refine only_some_ite (only_ite (systemReset_only (sub_mid rfl hm) h₀) h₀) ?_
  refine only_some_ite (setTime_only (sub_mid rfl hm) (Nat.mod_lt _ (by decide)) (Nat.mod_lt _ (by decide)) h₀) ?_
  refine only_some_ite (crzCtrl_only (sub_mid rfl hm) h₀) ?_
  refine only_some_ite ?_ ?_
  · cases org
    · exact inject_only (sub_mid rfl hm) h₀
    · exact h₀
    · exact h₀
  refine only_some_ite (lscCommand_only (sub_mid rfl hm) h₀) ?_
  refine only_some_ite (lscOwn_only (sub_mid rfl hm) h₀) ?_
  refine only_some_ite (only_ite (submit_only (sub_mid rfl hm) h₀) (raise_only (sub_mid rfl hm) (fieldIn_block (b := 4) rfl (bit_mid hm rfl)) h₀)) ?_
  refine only_some_ite (only_ite (setDaySlot_only (sub_mid rfl hm) h₀) (raise_only (sub_mid rfl hm) (fieldIn_block (b := 4) rfl (bit_mid hm rfl)) h₀)) ?_
  refine only_some_ite (only_ite (storeProfile_only (sub_mid rfl hm) h₀) (raise_only (sub_mid rfl hm) (fieldIn_block (b := 4) rfl (bit_mid hm rfl)) h₀)) ?_
  refine only_some_ite h₀ ?_
  refine only_some_ite (fltSendWrite_only (sub_mid rfl hm) h₀) ?_
  intro e
  cases e

theorem commandLinks_only {μ : Nat} {s₀ t : State} {s : State} {a : Nat} {v : Nat} (hm : sub 264003083317120 μ = true) (e : State.commandLinks s a v = some t) (h₀ : Only μ s₀ s) : Only μ s₀ t := by
  unfold State.commandLinks at e
  revert e
  refine only_some_ite (rfWake_only (sub_mid rfl hm) h₀) ?_
  refine only_some_ite (rfTxcmd_only (sub_mid rfl hm) h₀) ?_
  refine only_some_ite (ltabWrite_only (sub_mid rfl hm) h₀) ?_
  refine only_some_ite (plcTxcmd_only (sub_mid rfl hm) h₀) ?_
  refine only_some_ite (rflOp_only (sub_mid rfl hm) h₀) ?_
  refine only_some_ite (plcTabWrite_only (sub_mid rfl hm) h₀) ?_
  refine only_some_ite (plcDlyWrite_only (sub_mid rfl hm) h₀) ?_
  refine only_some_ite (txTail_only (sub_mid rfl hm) h₀) ?_
  refine only_some_ite (txTail_only (sub_mid rfl hm) h₀) ?_
  refine only_some_ite (drEnter_only (sub_mid rfl hm) h₀) ?_
  refine only_some_ite (pbTail_only (sub_mid rfl hm) h₀) ?_
  intro e
  cases e

theorem commandControl_only {μ : Nat} {s₀ t : State} {s : State} {org : Origin} {a : Nat} {v : Nat} {x : WriteMeet} (hm : sub 21274301163367948 μ = true) (e : State.commandControl s org a v x = some t) (h₀ : Only μ s₀ s) : Only μ s₀ t := by
  unfold State.commandControl at e
  revert e
  refine only_some_ite (evrWrite_only (sub_mid rfl hm) h₀) ?_
  refine only_some_ite (rtcOp_only (sub_mid rfl hm) h₀) ?_
  refine only_some_ite (ksuOp_only (sub_mid rfl hm) h₀) ?_
  refine only_some_ite h₀ ?_
  refine only_some_ite (cryJob_only (sub_mid rfl hm) h₀) ?_
  refine only_some_ite (rldOp_only (sub_mid rfl hm) h₀) ?_
  refine only_some_ite (only_ite (raise_only (sub_mid rfl hm) (fieldIn_block (b := 18) rfl (bit_mid hm rfl)) h₀) (verdict_only (sub_mid rfl hm) h₀)) ?_
  refine only_some_ite (safOp_only (sub_mid rfl hm) h₀) ?_
  refine only_some_ite (only_ite (sf2Record_only (sub_mid rfl hm) h₀) (raise_only (sub_mid rfl hm) (fieldIn_block (b := 21) rfl (bit_mid hm rfl)) h₀)) ?_
  intro e
  cases e

theorem afterWrite_only {μ : Nat} {s₀ : State} {s : State} {old : State} {a : Nat} {v : Nat} {x : WriteMeet} (hm : sub 17605172658242 μ = true) (h₀ : Only μ s₀ s) : Only μ s₀ (State.afterWrite s old a v x) := by
  unfold State.afterWrite
  try dsimp only
  repeat' (first
    | with_reducible first
      | exact h₀
      | exact Only.refl _
      | refine dcqCommand_only (sub_mid rfl hm) ?_
      | refine loadLat_only (sub_mid rfl hm) ?_
      | refine flagClamp_only (sub_mid rfl hm) ?_
      | refine servoOff_only (sub_mid rfl hm) ?_
      | refine wr_only ?_ ?_
      | refine only_of_fst (by assumption) ?_
    | intro _
    | split
    | dsimp only
    | exact fieldIn_block (b := 6) rfl (bit_mid hm rfl)
    | (with_reducible refine Only.upd rfl hm ?_ ?_; exact {}))

theorem takeEffect_only {μ : Nat} {s₀ : State} {s : State} {org : Origin} {p : RegPlace} {a : Nat} {v : Nat} {x : WriteMeet} (hm : sub 22515661674643455 μ = true) (h₀ : Only μ s₀ s) : Only μ s₀ (State.takeEffect s org p a v x) := by
  unfold State.takeEffect
  split
  · exact commandCore_only (sub_mid rfl hm) (by assumption) h₀
  split
  · exact commandLinks_only (sub_mid rfl hm) (by assumption) h₀
  split
  · exact commandControl_only (sub_mid rfl hm) (by assumption) h₀
  · exact afterWrite_only (sub_mid rfl hm) (writeFields_only (sub_mid rfl hm) h₀)

theorem stage_only {μ : Nat} {s₀ : State} {s : State} {l : Lane} {a : Nat} {v : Nat} (hm : sub 8388608 μ = true) (h₀ : Only μ s₀ s) : Only μ s₀ (State.stage s l a v) := by
  unfold State.stage
  try dsimp only
  repeat' (first
    | with_reducible first
      | exact h₀
      | exact Only.refl _
      | refine only_of_fst (by assumption) ?_
    | refine onLane_only_lanes (fun _ => rfl) (fun _ => by first | exact Nat.le_refl _ | exact Nat.zero_le _) (bit_mid hm rfl) ?_
    | intro _
    | split
    | dsimp only
    | (with_reducible refine Only.upd rfl hm ?_ ?_; exact {}))

theorem unstage_only {μ : Nat} {s₀ : State} {s : State} {l : Lane} {base : Nat} {words : Nat} (hm : sub 8388608 μ = true) (h₀ : Only μ s₀ s) : Only μ s₀ (State.unstage s l base words) := by
  unfold State.unstage
  try dsimp only
  repeat' (first
    | with_reducible first
      | exact h₀
      | exact Only.refl _
      | refine only_of_fst (by assumption) ?_
    | refine onLane_only_lanes (fun _ => rfl) (fun _ => by first | exact Nat.le_refl _ | exact Nat.zero_le _) (bit_mid hm rfl) ?_
    | intro _
    | split
    | dsimp only
    | (with_reducible refine Only.upd rfl hm ?_ ?_; exact {}))

theorem wideWrite_only {μ : Nat} {s₀ : State} {s : State} {org : Origin} {p : RegPlace} {base : Nat} {v : Nat} {x : WriteMeet} (hm : sub 22515661674643455 μ = true) (h₀ : Only μ s₀ s) : Only μ s₀ (State.wideWrite s org p base v x) := by
  unfold State.wideWrite
  try dsimp only
  repeat' (first
    | with_reducible first
      | exact h₀
      | exact Only.refl _
      | refine takeEffect_only (sub_mid rfl hm) ?_
      | refine writeFields_only (sub_mid rfl hm) ?_
      | refine unstage_only (sub_mid rfl hm) ?_
      | refine only_of_fst (by assumption) ?_
    | intro _
    | split
    | dsimp only)

theorem wordWrite_only {μ : Nat} {s₀ : State} {s : State} {org : Origin} {p : RegPlace} {base : Nat} {a : Nat} {v : Nat} {x : WriteMeet} (hm : sub 22515661674643455 μ = true) (h₀ : Only μ s₀ s) : Only μ s₀ (State.wordWrite s org p base a v x) := by
  unfold State.wordWrite
  try dsimp only
  repeat' (first
    | with_reducible first
      | exact h₀
      | exact Only.refl _
      | refine wideWrite_only (sub_mid rfl hm) ?_
      | refine raise_only (sub_mid rfl hm) ?_ ?_
      | refine stage_only (sub_mid rfl hm) ?_
      | refine takeEffect_only (sub_mid rfl hm) ?_
      | exact FieldIn.mid (sub_mid rfl hm) (fieldIn_all _)
      | refine only_of_fst (by assumption) ?_
    | intro _
    | split
    | dsimp only
    | exact fieldIn_block (b := 4) rfl (bit_mid hm rfl))

theorem performWrite_only {μ : Nat} {s₀ : State} {s : State} {org : Origin} {a : Nat} {v : Nat} {x : WriteMeet} (hm : sub 22515661674643455 μ = true) (h₀ : Only μ s₀ s) : Only μ s₀ (State.performWrite s org a v x) := by
  unfold State.performWrite
  try dsimp only
  repeat' (first
    | with_reducible first
      | exact h₀
      | exact Only.refl _
      | refine wordWrite_only (sub_mid rfl hm) ?_
      | refine raiseIf_only (sub_mid rfl hm) ?_ ?_
      | refine only_of_fst (by assumption) ?_
    | intro _
    | split
    | dsimp only
    | exact fieldIn_block (b := 19) rfl (bit_mid hm rfl))

theorem notPerformed_only {μ : Nat} {s₀ : State} {s : State} {l : Lane} (hm : sub 8 μ = true) (h₀ : Only μ s₀ s) : Only μ s₀ (State.notPerformed s l) := by
  unfold State.notPerformed
  try dsimp only
  repeat' (first
    | with_reducible first
      | exact h₀
      | exact Only.refl _
      | refine countSat_only (sub_mid rfl hm) ?_ ?_ ?_
      | exact LSC_SVC_WCNT_COUNT_in (bit_mid hm rfl)
      | refine only_of_fst (by assumption) ?_
    | intro _
    | split
    | dsimp only
    | exact fieldIn_block (b := 3) rfl (bit_mid hm rfl))

theorem storeRegister_only {μ : Nat} {s₀ : State} {s : State} {l : Lane} {a : Nat} {v : Nat} {x : WriteMeet} (hm : sub 22515661674643455 μ = true) (h₀ : Only μ s₀ s) : Only μ s₀ (State.storeRegister s l a v x) := by
  unfold State.storeRegister
  try dsimp only
  repeat' (first
    | with_reducible first
      | exact h₀
      | exact Only.refl _
      | refine notPerformed_only (sub_mid rfl hm) ?_
      | refine performWrite_only (sub_mid rfl hm) ?_
      | refine sealWrite_only (sub_mid rfl hm) ?_
      | refine parityError_only (sub_mid rfl hm) ?_
      | refine recordStore_only (sub_mid rfl hm) ?_
      | refine trapLane_only (sub_mid rfl hm) ?_
      | refine only_of_fst (by assumption) ?_
    | intro _
    | split
    | dsimp only)

theorem storePst_only {μ : Nat} {s₀ : State} {s : State} {l : Lane} {a : Nat} {v : Nat} {x : WriteMeet} (hm : sub 140857757933576 μ = true) (h₀ : Only μ s₀ s) : Only μ s₀ (State.storePst s l a v x) := by
  unfold State.storePst
  try dsimp only
  repeat' (first
    | with_reducible first
      | exact h₀
      | exact Only.refl _
      | refine notPerformed_only (sub_mid rfl hm) ?_
      | refine trapLane_only (sub_mid rfl hm) ?_
      | refine pstWrite_only (sub_mid rfl hm) ?_
      | refine parityError_only (sub_mid rfl hm) ?_
      | refine recordStore_only (sub_mid rfl hm) ?_
      | refine only_of_fst (by assumption) ?_
    | intro _
    | split
    | dsimp only)

theorem laneStore_only {μ : Nat} {s₀ : State} {s : State} {l : Lane} {a : Nat} {size : Nat} {v : Nat} {x : WriteMeet} (hm : sub 22515661674643455 μ = true) (h₀ : Only μ s₀ s) : Only μ s₀ (State.laneStore s l a size v x) := by
  unfold State.laneStore
  try dsimp only
  repeat' (first
    | with_reducible first
      | exact h₀
      | exact Only.refl _
      | refine trapLane_only (sub_mid rfl hm) ?_
      | refine sramWrite_only (sub_mid rfl hm) ?_
      | refine storePst_only (sub_mid rfl hm) ?_
      | refine pstMisaligned_only (sub_mid rfl hm) ?_
      | refine storeRegister_only (sub_mid rfl hm) ?_
      | refine only_of_fst (by assumption) ?_
    | intro _
    | split
    | dsimp only)

theorem atomicSram_only {μ : Nat} {s₀ : State} {s : State} {l : Lane} {op : AtomicOp} {o : Nat} {n : Nat} {v : Nat} (hm : sub 25165824 μ = true) (h₀ : Only μ s₀ s) : Only μ s₀ (State.atomicSram s l op o n v) := by
  unfold State.atomicSram
  try dsimp only
  repeat' (first
    | with_reducible first
      | exact h₀
      | exact Only.refl _
      | refine sramWrite_only (sub_mid rfl hm) ?_
      | refine loaded_only (sub_mid rfl hm) ?_
      | refine only_of_fst (by assumption) ?_
    | refine onLane_only_lanes (fun _ => rfl) (fun _ => by first | exact Nat.le_refl _ | exact Nat.zero_le _) (bit_mid hm rfl) ?_
    | intro _
    | split
    | dsimp only
    | (with_reducible refine Only.upd rfl hm ?_ ?_; exact {}))

theorem coreAccess_only {μ : Nat} {s₀ : State} {s : State} {l : Lane} {a : Nat} {size : Nat} {v : Nat} {x : WriteMeet} (hm : sub 22515661674643455 μ = true) (h₀ : Only μ s₀ s) : Only μ s₀ (State.coreAccess s l a size v x) := by
  unfold State.coreAccess
  try dsimp only
  repeat' (first
    | with_reducible first
      | exact h₀
      | exact Only.refl _
      | refine laneStore_only (sub_mid rfl hm) ?_
      | refine sramMeet_only (sub_mid rfl hm) ?_ ?_
      | refine trapLane_only (sub_mid rfl hm) ?_
      | refine atomicSram_only (sub_mid rfl hm) ?_
      | refine only_of_fst (by assumption) ?_
    | intro _
    | split
    | dsimp only)

theorem coreStore_only {μ : Nat} {s₀ : State} {s : State} {l : Lane} {a : Nat} {size : Nat} {v : Nat} {x : WriteMeet} (hm : sub 22515661674643455 μ = true) (h₀ : Only μ s₀ s) : Only μ s₀ (State.coreStore s l a size v x) := by
  unfold State.coreStore
  try dsimp only
  repeat' (first
    | with_reducible first
      | exact h₀
      | exact Only.refl _
      | refine coreAccess_only (sub_mid rfl hm) ?_
      | refine trapLane_only (sub_mid rfl hm) ?_
      | refine enterCore_only (sub_mid rfl hm) ?_
      | refine only_of_fst (by assumption) ?_
    | intro _
    | split
    | dsimp only)

theorem commandStore_only {μ : Nat} {s₀ : State} {s : State} {l : Lane} {a : Nat} {v : Nat} (hm : sub 22515661674643455 μ = true) (h₀ : Only μ s₀ s) : Only μ s₀ (State.commandStore s l a v) := by
  unfold State.commandStore
  try dsimp only
  repeat' (first
    | with_reducible first
      | exact h₀
      | exact Only.refl _
      | refine laneStore_only (sub_mid rfl hm) ?_
      | refine only_of_fst (by assumption) ?_
    | intro _
    | split
    | dsimp only)

theorem enableWrite_only {μ : Nat} {s₀ : State} {s : State} {l : Lane} {f : Func} {v : Nat} (hm : sub 22515661674643455 μ = true) (h₀ : Only μ s₀ s) : Only μ s₀ (State.enableWrite s l f v) := by
  unfold State.enableWrite
  try dsimp only
  repeat' (first
    | with_reducible first
      | exact h₀
      | exact Only.refl _
      | refine commandStore_only (sub_mid rfl hm) ?_
      | refine only_of_fst (by assumption) ?_
    | intro _
    | split
    | dsimp only)

/-! ### Drain -/

theorem performRecord_only {μ : Nat} {s₀ : State} {s : State} {l : Lane} {k : Nat} {a : Nat} {v : Nat} (hm : sub 22515661674643455 μ = true) (h₀ : Only μ s₀ s) : Only μ s₀ (State.performRecord s l k a v) := by
  unfold State.performRecord
  try dsimp only
  repeat' (first
    | with_reducible first
      | exact h₀
      | exact Only.refl _
      | refine performWrite_only (sub_mid rfl hm) ?_
      | refine pstWrite_only (sub_mid rfl hm) ?_
      | refine only_of_fst (by assumption) ?_
    | intro _
    | split
    | dsimp only)

theorem performRecords_only {μ : Nat} {s₀ : State} {l : Lane} {k : Nat} {x0 : List (Nat × Nat)} {s : State} (hm : sub 22515661674643455 μ = true) (h₀ : Only μ s₀ s) : Only μ s₀ (performRecords l k x0 s) := by
  induction x0 generalizing s with
  | nil => exact h₀
  | cons x t ih =>
    obtain ⟨a, v⟩ := x
    rw [performRecords]
    split
    · exact h₀
    · exact ih (performRecord_only (sub_mid rfl hm) h₀)

theorem drainEscort_only {μ : Nat} {s₀ : State} {s : State} {l : Lane} {k : Nat} {bad : Option Nat} (hm : sub 3254683244965436 μ = true) (h₀ : Only μ s₀ s) : Only μ s₀ (State.drainEscort s l k bad) := by
  unfold State.drainEscort
  try dsimp only
  repeat' (first
    | with_reducible first
      | exact h₀
      | exact Only.refl _
      | refine raise_only (sub_mid rfl hm) ?_ ?_
      | refine laneFault_only (sub_mid rfl hm) ?_
      | refine escortDrain_only (sub_mid rfl hm) ?_
      | refine addCount_only (sub_mid rfl hm) ?_ ?_ ?_
      | refine setEsc_only (sub_mid rfl hm) ?_
      | refine only_of_fst (by assumption) ?_
    | intro _
    | split
    | dsimp only
    | exact fieldIn_block (b := 5) rfl (bit_mid hm rfl))

theorem drainRecords_only {μ : Nat} {s₀ : State} {s : State} {l : Lane} {b : SealedBuf} {m : DrainMeet} (hm : sub 22515661674643455 μ = true) (h₀ : Only μ s₀ s) : Only μ s₀ (State.drainRecords s l b m) := by
  unfold State.drainRecords
  try dsimp only
  repeat' (first
    | with_reducible first
      | exact h₀
      | exact Only.refl _
      | refine felterBuild_only (sub_mid rfl hm) ?_
      | refine drainEscort_only (sub_mid rfl hm) ?_
      | refine performRecords_only (sub_mid rfl hm) ?_
      | refine guardEntry_only (sub_mid rfl hm) ?_
      | refine launchOpen_only (sub_mid rfl hm) ?_
      | refine recorderOpen_only (sub_mid rfl hm) ?_
      | refine only_of_fst (by assumption) ?_
    | intro _
    | split
    | dsimp only
    | (with_reducible refine Only.upd rfl hm ?_ ?_; exact {}))

theorem commitDrain_only {μ : Nat} {s₀ : State} {s : State} {m : DrainMeet} (hm : sub 22515661674643455 μ = true) (h₀ : Only μ s₀ s) : Only μ s₀ (State.commitDrain s m) := by
  unfold State.commitDrain
  try dsimp only
  repeat' (first
    | with_reducible first
      | exact h₀
      | exact Only.refl _
      | refine drainRecords_only (sub_mid rfl hm) ?_
      | refine only_of_fst (by assumption) ?_
    | intro _
    | split
    | dsimp only)

theorem restHalt_only {μ : Nat} {s₀ : State} {s : State} (hm : sub 268435968 μ = true) (h₀ : Only μ s₀ s) : Only μ s₀ (State.restHalt s) := by
  unfold State.restHalt
  try dsimp only
  repeat' (first
    | with_reducible first
      | exact h₀
      | exact Only.refl _
      | refine wr_only ?_ ?_
      | refine only_of_fst (by assumption) ?_
    | intro _
    | split
    | dsimp only
    | exact fieldIn_block (b := 9) rfl (bit_mid hm rfl)
    | (with_reducible refine Only.upd rfl hm ?_ ?_; exact {}))

theorem drainComplete_only {μ : Nat} {s₀ : State} {s : State} (hm : sub 721400165835264 μ = true) (h₀ : Only μ s₀ s) : Only μ s₀ (State.drainComplete s) := by
  unfold State.drainComplete
  try dsimp only
  repeat' (first
    | with_reducible first
      | exact h₀
      | exact Only.refl _
      | refine safetyFrame_only (sub_mid rfl hm) ?_
      | refine heartbeatDrain_only (sub_mid rfl hm) ?_
      | refine restHalt_only (sub_mid rfl hm) ?_
      | refine releaseBuf_only (sub_mid rfl hm) ?_
      | refine pstDrain_only (sub_mid rfl hm) ?_
      | refine only_of_fst (by assumption) ?_
    | intro _
    | split
    | dsimp only
    | (with_reducible refine Only.upd rfl hm ?_ ?_; exact {}))

theorem sealComplete_only {μ : Nat} {s₀ : State} {s : State} {l : Lane} {corrected : Nat} (hm : sub 3254682120891916 μ = true) (h₀ : Only μ s₀ s) : Only μ s₀ (State.sealComplete s l corrected) := by
  unfold State.sealComplete
  try dsimp only
  repeat' (first
    | with_reducible first
      | exact h₀
      | exact Only.refl _
      | refine safSeal_only (sub_mid rfl hm) ?_
      | refine restHalt_only (sub_mid rfl hm) ?_
      | refine sealDone_only (sub_mid rfl hm) ?_
      | refine addCount_only (sub_mid rfl hm) ?_ ?_ ?_
      | exact LSC_CE_CNT_COUNT_in (bit_mid hm rfl)
      | refine only_of_fst (by assumption) ?_
    | intro _
    | split
    | dsimp only
    | exact fieldIn_block (b := 3) rfl (bit_mid hm rfl))

/-! ### Boot -/

theorem cfgBody_only {μ : Nat} {s₀ : State} {s : State} (hm : sub 65536 μ = true) (h₀ : Only μ s₀ s) : Only μ s₀ (State.cfgBody s).1 := by
  unfold State.cfgBody
  try dsimp only
  repeat' (first
    | with_reducible first
      | exact h₀
      | exact Only.refl _
      | refine bodyOf_only (sub_mid rfl hm) ?_
      | refine acceptable_only (sub_mid rfl hm) ?_
      | refine only_of_fst (by assumption) ?_
    | intro _
    | split
    | dsimp only)

theorem applyCfg_only {μ : Nat} {s₀ : State} {s : State} {x : CfgBody} (hm : sub 22515661674643455 μ = true) (h₀ : Only μ s₀ s) : Only μ s₀ (State.applyCfg s x) := by
  unfold State.applyCfg
  try dsimp only
  repeat' (first
    | with_reducible first
      | exact h₀
      | exact Only.refl _
      | refine performWrite_only (sub_mid rfl hm) ?_
      | refine wr_only ?_ ?_
      | refine only_foldl ?_ ?_
      | refine only_foldl_pair ?_ ?_
      | refine only_of_fst (by assumption) ?_
    | intro _
    | split
    | dsimp only
    | exact fieldIn_block (b := 18) rfl (bit_mid hm rfl))

theorem bootRestore_only {μ : Nat} {s₀ : State} {s : State} (hm : sub 22515661674643455 μ = true) (h₀ : Only μ s₀ s) : Only μ s₀ (State.bootRestore s).1 := by
  unfold State.bootRestore
  try dsimp only
  repeat' (first
    | with_reducible first
      | exact h₀
      | exact Only.refl _
      | refine setStep_only (sub_mid rfl hm) ?_
      | refine restored_only (sub_mid rfl hm) ?_
      | refine only_of_fst (by assumption) ?_
    | intro _
    | split
    | dsimp only)

theorem bootRecover_only {μ : Nat} {s₀ : State} {s : State} (hm : sub 22515661674643455 μ = true) (h₀ : Only μ s₀ s) : Only μ s₀ (State.bootRecover s).1 := by
  unfold State.bootRecover
  try dsimp only
  repeat' (first
    | with_reducible first
      | exact h₀
      | exact Only.refl _
      | refine upTo_only (sub_mid rfl hm) ?_
      | refine commitSettings_only (sub_mid rfl hm) ?_
      | refine commitVersions_only (sub_mid rfl hm) ?_
      | refine bootRestore_only (sub_mid rfl hm) ?_
      | refine upCause_only (sub_mid rfl hm) ?_
      | refine only_of_fst (by assumption) ?_
    | intro _
    | split
    | dsimp only)

theorem bootFail_only {μ : Nat} {s₀ : State} {s : State} {cause : Nat} {flag : Field} (hm : sub 22515661674643455 μ = true) (hflag : FieldIn flag μ) (h₀ : Only μ s₀ s) : Only μ s₀ (State.bootFail s cause flag) := by
  unfold State.bootFail
  try dsimp only
  repeat' (first
    | with_reducible first
      | exact h₀
      | exact Only.refl _
      | refine raise_only (sub_mid rfl hm) ?_ ?_
      | refine rollback_only (sub_mid rfl hm) ?_
      | refine bootRestore_only (sub_mid rfl hm) ?_
      | exact hflag
      | refine only_of_fst (by assumption) ?_
    | intro _
    | split
    | dsimp only)

theorem install_only {μ : Nat} {s₀ : State} {s : State} (hm : sub 422332724486144 μ = true) (h₀ : Only μ s₀ s) : Only μ s₀ (State.install s).1 := by
  unfold State.install
  try dsimp only
  repeat' (first
    | with_reducible first
      | exact h₀
      | exact Only.refl _
      | refine writeCodeStore_only (sub_mid rfl hm) ?_
      | refine writeRecord_only (sub_mid rfl hm) ?_
      | refine acceptable_only (sub_mid rfl hm) ?_
      | refine wr_only ?_ ?_
      | refine only_of_fst (by assumption) ?_
    | intro _
    | split
    | dsimp only
    | exact fieldIn_block (b := 18) rfl (bit_mid hm rfl))

theorem bootStore_only {μ : Nat} {s₀ : State} {s : State} (hm : sub 422332724486144 μ = true) (h₀ : Only μ s₀ s) : Only μ s₀ (State.bootStore s).1 := by
  unfold State.bootStore
  try dsimp only
  repeat' (first
    | with_reducible first
      | exact h₀
      | exact Only.refl _
      | refine install_only (sub_mid rfl hm) ?_
      | refine acceptable_only (sub_mid rfl hm) ?_
      | refine only_of_fst (by assumption) ?_
    | intro _
    | split
    | dsimp only)

theorem bootLanes_only {μ : Nat} {s₀ : State} {s : State} {x : CfgBody} (hm : sub 22515661674643455 μ = true) (h₀ : Only μ s₀ s) : Only μ s₀ (State.bootLanes s x) := by
  unfold State.bootLanes
  try dsimp only
  repeat' (first
    | with_reducible first
      | exact h₀
      | exact Only.refl _
      | refine placeBody_only (sub_mid rfl hm) ?_
      | refine sramWrite_only (sub_mid rfl hm) ?_
      | refine bootFail_only (sub_mid rfl hm) ?_ ?_
      | refine bodyOf_only (sub_mid rfl hm) ?_
      | refine bootStore_only (sub_mid rfl hm) ?_
      | refine only_foldl ?_ ?_
      | refine only_foldl_pair ?_ ?_
      | refine only_of_fst (by assumption) ?_
    | intro _
    | split
    | dsimp only
    | exact fieldIn_block (b := 18) rfl (bit_mid hm rfl))

theorem bootImages_only {μ : Nat} {s₀ : State} {s : State} (hm : sub 22515661674643455 μ = true) (h₀ : Only μ s₀ s) : Only μ s₀ (State.bootImages s) := by
  unfold State.bootImages
  try dsimp only
  repeat' (first
    | with_reducible first
      | exact h₀
      | exact Only.refl _
      | refine applyCfg_only (sub_mid rfl hm) ?_
      | refine bootLanes_only (sub_mid rfl hm) ?_
      | refine bootFail_only (sub_mid rfl hm) ?_ ?_
      | refine cfgBody_only (sub_mid rfl hm) ?_
      | refine only_of_fst (by assumption) ?_
    | intro _
    | split
    | dsimp only
    | exact fieldIn_block (b := 18) rfl (bit_mid hm rfl))

theorem coldBoot_only {μ : Nat} {s₀ : State} {s : State} (hm : sub 22517860697899007 μ = true) (h₀ : Only μ s₀ s) : Only μ s₀ (State.coldBoot s) := by
  unfold State.coldBoot
  try dsimp only
  repeat' (first
    | with_reducible first
      | exact h₀
      | exact Only.refl _
      | refine bootImages_only (sub_mid rfl hm) ?_
      | refine readRecord_only (sub_mid rfl hm) ?_
      | refine bootRecover_only (sub_mid rfl hm) ?_
      | refine raise_only (sub_mid rfl hm) ?_ ?_
      | refine only_of_fst (by assumption) ?_
    | intro _
    | split
    | dsimp only
    | exact fieldIn_block (b := 18) rfl (bit_mid hm rfl)
    | (with_reducible refine Only.upd rfl hm ?_ ?_; exact {}))

end Sys2Proof.Machine
end

