-- ==== Sys2Proof/Laws/State.lean ====
section
/-!
SUPPORT. One law for each piece of the state under each plain update of it: a field written or raised, a piece of the state replaced, and a lane's state changed.
-/
namespace Sys2Proof.Machine
set_option Elab.async false

/-! ### A register field written -/

@[simp] theorem raise_def (s : State) (f : Field) : s.raise f = s.wr f 1 := rfl
@[simp] theorem wr_pending (s : State) (f : Field) (v : Nat) : (s.wr f v).pending = s.pending := rfl
@[simp] theorem wr_waiting (s : State) (f : Field) (v : Nat) : (s.wr f v).waiting = s.waiting := rfl
@[simp] theorem wr_tb (s : State) (f : Field) (v : Nat) : (s.wr f v).tb = s.tb := rfl
@[simp] theorem wr_crz (s : State) (f : Field) (v : Nat) : (s.wr f v).crz = s.crz := rfl
@[simp] theorem wr_laneA (s : State) (f : Field) (v : Nat) : (s.wr f v).laneA = s.laneA := rfl
@[simp] theorem wr_laneB (s : State) (f : Field) (v : Nat) : (s.wr f v).laneB = s.laneB := rfl
@[simp] theorem wr_lsc (s : State) (f : Field) (v : Nat) : (s.wr f v).lsc = s.lsc := rfl
@[simp] theorem wr_flt (s : State) (f : Field) (v : Nat) : (s.wr f v).flt = s.flt := rfl
@[simp] theorem wr_lnu (s : State) (f : Field) (v : Nat) : (s.wr f v).lnu = s.lnu := rfl
@[simp] theorem wr_escA (s : State) (f : Field) (v : Nat) : (s.wr f v).escA = s.escA := rfl
@[simp] theorem wr_escB (s : State) (f : Field) (v : Nat) : (s.wr f v).escB = s.escB := rfl
@[simp] theorem wr_dma (s : State) (f : Field) (v : Nat) : (s.wr f v).dma = s.dma := rfl
@[simp] theorem wr_dcq (s : State) (f : Field) (v : Nat) : (s.wr f v).dcq = s.dcq := rfl
@[simp] theorem wr_pst (s : State) (f : Field) (v : Nat) : (s.wr f v).pst = s.pst := rfl
@[simp] theorem wr_evr (s : State) (f : Field) (v : Nat) : (s.wr f v).evr = s.evr := rfl
@[simp] theorem wr_otp (s : State) (f : Field) (v : Nat) : (s.wr f v).otp = s.otp := rfl
@[simp] theorem wr_ksu (s : State) (f : Field) (v : Nat) : (s.wr f v).ksu = s.ksu := rfl
@[simp] theorem wr_cry (s : State) (f : Field) (v : Nat) : (s.wr f v).cry = s.cry := rfl
@[simp] theorem wr_acm (s : State) (f : Field) (v : Nat) : (s.wr f v).acm = s.acm := rfl
@[simp] theorem wr_acmSize (s : State) (f : Field) (v : Nat) : (s.wr f v).acmSize = s.acmSize := rfl
@[simp] theorem wr_rtc (s : State) (f : Field) (v : Nat) : (s.wr f v).rtc = s.rtc := rfl
@[simp] theorem wr_mtr (s : State) (f : Field) (v : Nat) : (s.wr f v).mtr = s.mtr := rfl
@[simp] theorem wr_bh (s : State) (f : Field) (v : Nat) : (s.wr f v).bh = s.bh := rfl
@[simp] theorem wr_rfm (s : State) (f : Field) (v : Nat) : (s.wr f v).rfm = s.rfm := rfl
@[simp] theorem wr_plm (s : State) (f : Field) (v : Nat) : (s.wr f v).plm = s.plm := rfl
@[simp] theorem wr_rfl (s : State) (f : Field) (v : Nat) : (s.wr f v).rfl = s.rfl := rfl
@[simp] theorem wr_rld (s : State) (f : Field) (v : Nat) : (s.wr f v).rld = s.rld := rfl
@[simp] theorem wr_saf (s : State) (f : Field) (v : Nat) : (s.wr f v).saf = s.saf := rfl
@[simp] theorem wr_sys (s : State) (f : Field) (v : Nat) : (s.wr f v).sys = s.sys := rfl
@[simp] theorem wr_held (s : State) (f : Field) (v : Nat) : (s.wr f v).held = s.held := rfl
@[simp] theorem wr_sent (s : State) (f : Field) (v : Nat) : (s.wr f v).sent = s.sent := rfl
@[simp] theorem wr_cycles (s : State) (f : Field) (v : Nat) : (s.wr f v).cycles = s.cycles := rfl
@[simp] theorem wr_freeCount (s : State) (f : Field) (v : Nat) : (s.wr f v).freeCount = s.freeCount := rfl
@[simp] theorem wr_lane (s : State) (f : Field) (v : Nat) (l : Lane) : (s.wr f v).lane l = s.lane l := by cases l <;> rfl

/-! ### The registers where pieces of the state are replaced, but not the registers -/

@[simp] theorem rd_mk (s : State) (g : Field) {a0 : List Instr} {a2 : List Waiting} {a3 : TimeBase} {a4 : Sequencer} {a5 : LaneState} {a6 : LaneState} {a7 : Supervisor} {a8 : FelterState} {a9 : LaunchState} {a10 : EscortEngine} {a11 : EscortEngine} {a12 : DmaState} {a13 : DcqState} {a14 : PstState} {a15 : EvrState} {a16 : OtpState} {a17 : KeyState} {a18 : List CryJob} {a19 : List Host.Cell} {a20 : Nat} {a21 : RtcState} {a22 : MeterState} {a23 : Backhaul} {a24 : RfmState} {a25 : PlmState} {a26 : ReflectState} {a27 : LoaderState} {a28 : SafState} {a29 : ModuleState} {a30 : List Event} {a31 : List Transmission} {a32 : Nat} {a33 : Nat} :
    State.rd ⟨a0, s.regs, a2, a3, a4, a5, a6, a7, a8, a9, a10, a11, a12, a13, a14, a15, a16, a17, a18, a19, a20, a21, a22, a23, a24, a25, a26, a27, a28, a29, a30, a31, a32, a33⟩ g = s.rd g := rfl

/-! ### A lane's state changed -/

@[simp] theorem onLane_pending (s : State) (l : Lane) (f : LaneState → LaneState) : (s.onLane l f).pending = s.pending := by cases l <;> rfl
@[simp] theorem onLane_regs (s : State) (l : Lane) (f : LaneState → LaneState) : (s.onLane l f).regs = s.regs := by cases l <;> rfl
@[simp] theorem onLane_waiting (s : State) (l : Lane) (f : LaneState → LaneState) : (s.onLane l f).waiting = s.waiting := by cases l <;> rfl
@[simp] theorem onLane_tb (s : State) (l : Lane) (f : LaneState → LaneState) : (s.onLane l f).tb = s.tb := by cases l <;> rfl
@[simp] theorem onLane_crz (s : State) (l : Lane) (f : LaneState → LaneState) : (s.onLane l f).crz = s.crz := by cases l <;> rfl
@[simp] theorem onLane_lsc (s : State) (l : Lane) (f : LaneState → LaneState) : (s.onLane l f).lsc = s.lsc := by cases l <;> rfl
@[simp] theorem onLane_flt (s : State) (l : Lane) (f : LaneState → LaneState) : (s.onLane l f).flt = s.flt := by cases l <;> rfl
@[simp] theorem onLane_lnu (s : State) (l : Lane) (f : LaneState → LaneState) : (s.onLane l f).lnu = s.lnu := by cases l <;> rfl
@[simp] theorem onLane_escA (s : State) (l : Lane) (f : LaneState → LaneState) : (s.onLane l f).escA = s.escA := by cases l <;> rfl
@[simp] theorem onLane_escB (s : State) (l : Lane) (f : LaneState → LaneState) : (s.onLane l f).escB = s.escB := by cases l <;> rfl
@[simp] theorem onLane_dma (s : State) (l : Lane) (f : LaneState → LaneState) : (s.onLane l f).dma = s.dma := by cases l <;> rfl
@[simp] theorem onLane_dcq (s : State) (l : Lane) (f : LaneState → LaneState) : (s.onLane l f).dcq = s.dcq := by cases l <;> rfl
@[simp] theorem onLane_pst (s : State) (l : Lane) (f : LaneState → LaneState) : (s.onLane l f).pst = s.pst := by cases l <;> rfl
@[simp] theorem onLane_evr (s : State) (l : Lane) (f : LaneState → LaneState) : (s.onLane l f).evr = s.evr := by cases l <;> rfl
@[simp] theorem onLane_otp (s : State) (l : Lane) (f : LaneState → LaneState) : (s.onLane l f).otp = s.otp := by cases l <;> rfl
@[simp] theorem onLane_ksu (s : State) (l : Lane) (f : LaneState → LaneState) : (s.onLane l f).ksu = s.ksu := by cases l <;> rfl
@[simp] theorem onLane_cry (s : State) (l : Lane) (f : LaneState → LaneState) : (s.onLane l f).cry = s.cry := by cases l <;> rfl
@[simp] theorem onLane_acm (s : State) (l : Lane) (f : LaneState → LaneState) : (s.onLane l f).acm = s.acm := by cases l <;> rfl
@[simp] theorem onLane_acmSize (s : State) (l : Lane) (f : LaneState → LaneState) : (s.onLane l f).acmSize = s.acmSize := by cases l <;> rfl
@[simp] theorem onLane_rtc (s : State) (l : Lane) (f : LaneState → LaneState) : (s.onLane l f).rtc = s.rtc := by cases l <;> rfl
@[simp] theorem onLane_mtr (s : State) (l : Lane) (f : LaneState → LaneState) : (s.onLane l f).mtr = s.mtr := by cases l <;> rfl
@[simp] theorem onLane_bh (s : State) (l : Lane) (f : LaneState → LaneState) : (s.onLane l f).bh = s.bh := by cases l <;> rfl
@[simp] theorem onLane_rfm (s : State) (l : Lane) (f : LaneState → LaneState) : (s.onLane l f).rfm = s.rfm := by cases l <;> rfl
@[simp] theorem onLane_plm (s : State) (l : Lane) (f : LaneState → LaneState) : (s.onLane l f).plm = s.plm := by cases l <;> rfl
@[simp] theorem onLane_rfl (s : State) (l : Lane) (f : LaneState → LaneState) : (s.onLane l f).rfl = s.rfl := by cases l <;> rfl
@[simp] theorem onLane_rld (s : State) (l : Lane) (f : LaneState → LaneState) : (s.onLane l f).rld = s.rld := by cases l <;> rfl
@[simp] theorem onLane_saf (s : State) (l : Lane) (f : LaneState → LaneState) : (s.onLane l f).saf = s.saf := by cases l <;> rfl
@[simp] theorem onLane_sys (s : State) (l : Lane) (f : LaneState → LaneState) : (s.onLane l f).sys = s.sys := by cases l <;> rfl
@[simp] theorem onLane_held (s : State) (l : Lane) (f : LaneState → LaneState) : (s.onLane l f).held = s.held := by cases l <;> rfl
@[simp] theorem onLane_sent (s : State) (l : Lane) (f : LaneState → LaneState) : (s.onLane l f).sent = s.sent := by cases l <;> rfl
@[simp] theorem onLane_cycles (s : State) (l : Lane) (f : LaneState → LaneState) : (s.onLane l f).cycles = s.cycles := by cases l <;> rfl
@[simp] theorem onLane_freeCount (s : State) (l : Lane) (f : LaneState → LaneState) : (s.onLane l f).freeCount = s.freeCount := by cases l <;> rfl
@[simp] theorem onLane_rd (s : State) (l : Lane) (f : LaneState → LaneState) (g : Field) : (s.onLane l f).rd g = s.rd g := by cases l <;> rfl
@[simp] theorem onLane_lane (s : State) (l : Lane) (f : LaneState → LaneState) : (s.onLane l f).lane l = f (s.lane l) := by cases l <;> rfl
@[simp] theorem onLane_lane_other (s : State) (l : Lane) (f : LaneState → LaneState) : (s.onLane l f).lane l.other = s.lane l.other := by cases l <;> rfl

end Sys2Proof.Machine
end

