-- ==== Sys2Proof/Laws/Service.lean ====
section
/-!
SUPPORT. What a store to a register of one word does where it takes effect (R9, R17): it is the register's own operation, unless its block ignores it.
-/
namespace Sys2Proof.Machine
set_option Elab.async false

/-- A register of one word stands at the address. -/
def single (a : Nat) : Bool := (findReg a).any (fun p => p.row.words == 1 && p.word == 0)

theorem single_place {a : Nat} (h : single a = true) : ∃ p, findReg a = some p ∧ p.row.words = 1 ∧ p.word = 0 := by
  unfold single at h
  cases e : findReg a with
  | none => rw [e] at h; cases h
  | some p =>
    rw [e] at h
    have h2 : (p.row.words == 1 && p.word == 0) = true := h
    rw [Bool.and_eq_true, beq_iff_eq, beq_iff_eq] at h2
    exact ⟨p, rfl, h2.1, h2.2⟩

/-- A store of a lane that serves, to the register space, is performed. -/
theorem laneStore_serves {s : State} {l : Lane} {a v : Nat} {x : WriteMeet} (h : s.serves l) (hx : x.parity = false)
    (ha : 0x40000000 ≤ a ∧ a < 0x40160000) (h4 : a % 4 = 0) (hs : a ≠ 0x40030100) :
    s.laneStore l a 4 v x = s.performWrite (.service l) a (v % 2 ^ 32) x := by
  obtain ⟨h1, h2, h3⟩ := h
  simp [State.laneStore, State.storeRegister, h1, h2, h3, hx, ha, h4, hs]

/-- The write of a register of one word that its block does not ignore. -/
theorem performWrite_single {s : State} {org : Origin} {a v : Nat} {x : WriteMeet} (hv : ¬(s.rtc.onVbat ∧ 0x400F0000 ≤ a ∧ a < 0x40100000))
    (h1 : single a = true) (hc : commitRefused org a = false) (hl : s.writeLock org.lane a v = none) :
    ∃ p, findReg a = some p ∧ s.performWrite org a v x = s.takeEffect org p a v x := by
  obtain ⟨p, e, e1, e2⟩ := single_place h1
  refine ⟨p, e, ?_⟩
  simp [State.performWrite, hv, e, hc, State.wordWrite, hl, e1, e2]

theorem takeEffect_core {s t : State} {org : Origin} {p : RegPlace} {a v : Nat} {x : WriteMeet} (h : s.commandCore org a v = some t) : s.takeEffect org p a v x = t := by
  simp [State.takeEffect, h]

theorem takeEffect_links {s t : State} {org : Origin} {p : RegPlace} {a v : Nat} {x : WriteMeet} (h0 : s.commandCore org a v = none)
    (h : s.commandLinks a v = some t) : s.takeEffect org p a v x = t := by
  simp [State.takeEffect, h0, h]

theorem takeEffect_control {s t : State} {org : Origin} {p : RegPlace} {a v : Nat} {x : WriteMeet} (h0 : s.commandCore org a v = none)
    (h1 : s.commandLinks a v = none) (h : s.commandControl org a v x = some t) : s.takeEffect org p a v x = t := by
  simp [State.takeEffect, h0, h1, h]

/-- What a store to a command register does. -/
theorem store_command {s t : State} {l : Lane} {a v w : Nat} {x : WriteMeet} (h : s.serves l) (hx : x.parity = false) (hw : v % 2 ^ 32 = w)
    (ha : (decide (0x40000000 ≤ a) && decide (a < 0x40160000) && a % 4 == 0 && a != 0x40030100 && single a) = true)
    (hv : ¬(s.rtc.onVbat ∧ 0x400F0000 ≤ a ∧ a < 0x40100000)) (hl : s.writeLock l a w = none)
    (he : ∀ p, s.takeEffect (.service l) p a w x = t) : s.laneStore l a 4 v x = t := by
  simp only [Bool.and_eq_true, decide_eq_true_eq, beq_iff_eq, bne_iff_ne] at ha
  obtain ⟨⟨⟨⟨a1, a2⟩, a3⟩, a4⟩, a5⟩ := ha
  rw [laneStore_serves h hx ⟨a1, a2⟩ a3 a4, hw]
  obtain ⟨p, _, e⟩ := performWrite_single (x := x) (org := .service l) hv a5 rfl hl
  rw [e, he]

/-- What a store to a register of one word that is no command does: its fields take the value's bits. -/
theorem store_register {s : State} {l : Lane} {a v w : Nat} {x : WriteMeet} {L : List (Field × Access × Bool)} (h : s.serves l) (hx : x.parity = false) (hw : v % 2 ^ 32 = w)
    (ha : (decide (0x40000000 ≤ a) && decide (a < 0x40160000) && a % 4 == 0 && a != 0x40030100 && single a) = true)
    (hv : ¬(s.rtc.onVbat ∧ 0x400F0000 ≤ a ∧ a < 0x40100000)) (hl : s.writeLock l a w = none) (hL : (findReg a).map (fun p => p.fields l) = some L)
    (h0 : s.commandCore (.service l) a w = none) (h1 : s.commandLinks a w = none) (h2 : s.commandControl (.service l) a w x = none) :
    s.laneStore l a 4 v x = (L.foldl (fun (s : State) y => s.writeField y.1 y.2.1 (bits w y.1.lo y.1.width)) s).afterWrite s a w x := by
  simp only [Bool.and_eq_true, decide_eq_true_eq, beq_iff_eq, bne_iff_ne] at ha
  obtain ⟨⟨⟨⟨a1, a2⟩, a3⟩, a4⟩, a5⟩ := ha
  rw [laneStore_serves h hx ⟨a1, a2⟩ a3 a4, hw]
  obtain ⟨p, hp, e⟩ := performWrite_single (x := x) (org := .service l) hv a5 rfl hl
  rw [hp] at hL
  have e2 : p.fields l = L := Option.some.inj hL
  have e3 : (Origin.service l).lane = l := rfl
  rw [e]
  simp only [State.takeEffect, h0, h1, h2, State.writeFields, e2, e3]

/-- The word of a register with one of its fields given another value. -/
theorem wordWith_fields {s : State} {l : Lane} {a v : Nat} {f : Field} {L : List (Field × Access × Bool)} (hL : (findReg a).map (fun p => p.fields l) = some L) :
    s.wordWith l a f v = sumN (L.map (fun x => if x.1 = f then v * 2 ^ f.lo else if x.2.1 = .rw then s.rd x.1 * 2 ^ x.1.lo else 0)) := by
  unfold State.wordWith
  cases e : findReg a with
  | none => rw [e] at hL; cases hL
  | some p =>
    rw [e] at hL
    have e2 : p.fields l = L := Option.some.inj hL
    simp only [e2]

end Sys2Proof.Machine
end

