-- ==== Sys2Proof/Laws/Commands.lean ====
section
/-!
SUPPORT. What the stores to the command registers do where they take effect (R9, R17).
-/
namespace Sys2Proof.Machine
set_option Elab.async false

theorem b2n_le (b : Bool) : b2n b ≤ 1 := by cases b <;> decide

theorem sysrst_serves {s : State} {l : Lane} (key : BitVec 16) (r : Bool) (h : s.serves l) : execSysrst l key r s = .next (if bits (key.toNat * 65536 + b2n r) 16 16 = 0xC1A5 ∧ bit (key.toNat * 65536 + b2n r) 0 then s.systemReset .soft else s) := by
  have ikey := key.isLt
  exact congrArg _ (store_command h rfl (Nat.mod_eq_of_lt (by have := b2n_le r; omega)) (by decide) (by simp) rfl (fun p => takeEffect_core rfl))

theorem crzEnable_serves {s : State} {l : Lane}  (h : s.serves l) : execCrzEnable l s = .next (s.crzCtrl 1) := by
  exact congrArg _ (store_command h rfl (rfl) (by decide) (by simp) (by simp [State.writeLock, State.crzLocked, State.queueOutside]) (fun p => takeEffect_core rfl))

theorem crzDisable_serves {s : State} {l : Lane}  (h : s.serves l) : execCrzDisable l s = .next (s.crzCtrl 0) := by
  exact congrArg _ (store_command h rfl (rfl) (by decide) (by simp) (by simp [State.writeLock, State.crzLocked, State.queueOutside]) (fun p => takeEffect_core rfl))

theorem injectEvent_serves {s : State} {l : Lane} (chan : BitVec 7) (kind : Byte) (h : s.serves l) : execInjectEvent l chan kind s = .next (s.inject (bits (chan.toNat * 256 + kind.toNat) 8 7) (bits (chan.toNat * 256 + kind.toNat) 0 8)) := by
  have ichan := chan.isLt
  have ikind := kind.isLt
  exact congrArg _ (store_command h rfl (Nat.mod_eq_of_lt (by omega)) (by decide) (by simp) (by simp [State.writeLock, State.crzLocked, State.queueOutside]) (fun p => takeEffect_core rfl))

theorem swap_serves {s : State} {l : Lane} (key : BitVec 16) (h : s.serves l) : execSwap l key s = .next (s.lscCommand (key.toNat * 65536 + 1)) := by
  have ikey := key.isLt
  exact congrArg _ (store_command h rfl (Nat.mod_eq_of_lt (by omega)) (by decide) (by simp) rfl (fun p => takeEffect_core rfl))

theorem takeoutA_serves {s : State} {l : Lane} (key : BitVec 16) (h : s.serves l) : execTakeoutA l key s = .next (s.lscCommand (key.toNat * 65536 + 2)) := by
  have ikey := key.isLt
  exact congrArg _ (store_command h rfl (Nat.mod_eq_of_lt (by omega)) (by decide) (by simp) rfl (fun p => takeEffect_core rfl))

theorem takeoutB_serves {s : State} {l : Lane} (key : BitVec 16) (h : s.serves l) : execTakeoutB l key s = .next (s.lscCommand (key.toNat * 65536 + 3)) := by
  have ikey := key.isLt
  exact congrArg _ (store_command h rfl (Nat.mod_eq_of_lt (by omega)) (by decide) (by simp) rfl (fun p => takeEffect_core rfl))

theorem rejoin_serves {s : State} {l : Lane} (key : BitVec 16) (h : s.serves l) : execRejoin l key s = .next (s.lscCommand (key.toNat * 65536 + 4)) := by
  have ikey := key.isLt
  exact congrArg _ (store_command h rfl (Nat.mod_eq_of_lt (by omega)) (by decide) (by simp) rfl (fun p => takeEffect_core rfl))

theorem lscJoin_serves {s : State} {l : Lane} (value : Word) (h : s.serves l) : execLscJoin l value s = .next (s.lscOwn l 0x40030104 value.toNat) := by
  have ivalue := value.isLt
  exact congrArg _ (store_command h rfl (Nat.mod_eq_of_lt (by omega)) (by decide) (by simp) rfl (fun p => takeEffect_core rfl))

theorem radioDownlinkQueue_serves {s : State} {l : Lane} (handle : Byte) (dst : BitVec 11) (len : BitVec 7) (h : s.serves l) : execRadioDownlinkQueue l handle dst len s = .next (s.rfTxcmd (bits (handle.toNat * 16777216 + dst.toNat * 4096 + len.toNat) 24 8) (bits (handle.toNat * 16777216 + dst.toNat * 4096 + len.toNat) 12 11) (bits (handle.toNat * 16777216 + dst.toNat * 4096 + len.toNat) 0 7)) := by
  have ihandle := handle.isLt
  have idst := dst.isLt
  have ilen := len.isLt
  exact congrArg _ (store_command h rfl (Nat.mod_eq_of_lt (by omega)) (by decide) (by simp) (by simp [State.writeLock, State.rfmLocked, State.secLocked]) (fun p => takeEffect_links rfl rfl))

theorem plcDownlinkQueue_serves {s : State} {l : Lane} (handle : Byte) (dst : BitVec 11) (len : Byte) (h : s.serves l) : execPlcDownlinkQueue l handle dst len s = .next (s.plcTxcmd (bits (handle.toNat * 16777216 + dst.toNat * 4096 + len.toNat) 24 8) (bits (handle.toNat * 16777216 + dst.toNat * 4096 + len.toNat) 12 11) (bits (handle.toNat * 16777216 + dst.toNat * 4096 + len.toNat) 0 8)) := by
  have ihandle := handle.isLt
  have idst := dst.isLt
  have ilen := len.isLt
  exact congrArg _ (store_command h rfl (Nat.mod_eq_of_lt (by omega)) (by decide) (by simp) (by simp [State.writeLock, State.plmLocked, State.secLocked]) (fun p => takeEffect_links rfl rfl))

theorem start_serves {s : State} {l : Lane}  (h : s.serves l) : execStart l s = .next (s.rflArm false 0) := by
  exact congrArg _ (store_command h rfl (rfl) (by decide) (by simp) (by simp [State.writeLock, State.plmLocked, State.secLocked]) (fun p => takeEffect_links rfl rfl))

theorem baseline_serves {s : State} {l : Lane} (slot : BitVec 3) (h : s.serves l) : execBaseline l slot s = .next (s.rflOp (16 * slot.toNat + 2)) := by
  have islot := slot.isLt
  exact congrArg _ (store_command h rfl (Nat.mod_eq_of_lt (by omega)) (by decide) (by simp) (by simp [State.writeLock, State.plmLocked, State.secLocked]) (fun p => takeEffect_links rfl rfl))

theorem abort_serves {s : State} {l : Lane}  (h : s.serves l) : execAbort l s = .next s.rflAbort := by
  exact congrArg _ (store_command h rfl (rfl) (by decide) (by simp) (by simp [State.writeLock, State.plmLocked, State.secLocked]) (fun p => takeEffect_links rfl rfl))

theorem enter_serves {s : State} {l : Lane} (key : BitVec 16) (e : Bool) (h : s.serves l) : execEnter l key e s = .next (s.drEnter (bits (key.toNat * 65536 + b2n e) 16 16) (bits (key.toNat * 65536 + b2n e) 0 1)) := by
  have ikey := key.isLt
  exact congrArg _ (store_command h rfl (Nat.mod_eq_of_lt (by have := b2n_le e; omega)) (by decide) (by simp) (by simp [State.writeLock, State.bhLocked]) (fun p => takeEffect_links rfl rfl))

theorem commit_serves {s : State} {l : Lane} (key : BitVec 16) (hv : s.rtc.onVbat = false) (h : s.serves l) : execCommit l key s = .next (s.rtcOp (key.toNat * 65536 + 1)) := by
  have ikey := key.isLt
  exact congrArg _ (store_command h rfl (Nat.mod_eq_of_lt (by omega)) (by decide) (by simp [hv]) rfl (fun p => takeEffect_control rfl rfl rfl))

theorem addHour_serves {s : State} {l : Lane} (key : BitVec 16) (hv : s.rtc.onVbat = false) (h : s.serves l) : execAddHour l key s = .next (s.rtcOp (key.toNat * 65536 + 2)) := by
  have ikey := key.isLt
  exact congrArg _ (store_command h rfl (Nat.mod_eq_of_lt (by omega)) (by decide) (by simp [hv]) rfl (fun p => takeEffect_control rfl rfl rfl))

theorem subHour_serves {s : State} {l : Lane} (key : BitVec 16) (hv : s.rtc.onVbat = false) (h : s.serves l) : execSubHour l key s = .next (s.rtcOp (key.toNat * 65536 + 3)) := by
  have ikey := key.isLt
  exact congrArg _ (store_command h rfl (Nat.mod_eq_of_lt (by omega)) (by decide) (by simp [hv]) rfl (fun p => takeEffect_control rfl rfl rfl))

theorem ponSet_serves {s : State} {l : Lane} (key : BitVec 16) (hv : s.rtc.onVbat = false) (h : s.serves l) : execPonSet l key s = .next (s.rtcOp (key.toNat * 65536 + 4)) := by
  have ikey := key.isLt
  exact congrArg _ (store_command h rfl (Nat.mod_eq_of_lt (by omega)) (by decide) (by simp [hv]) rfl (fun p => takeEffect_control rfl rfl rfl))

theorem ponClr_serves {s : State} {l : Lane} (key : BitVec 16) (hv : s.rtc.onVbat = false) (h : s.serves l) : execPonClr l key s = .next (s.rtcOp (key.toNat * 65536 + 5)) := by
  have ikey := key.isLt
  exact congrArg _ (store_command h rfl (Nat.mod_eq_of_lt (by omega)) (by decide) (by simp [hv]) rfl (fun p => takeEffect_control rfl rfl rfl))

theorem transition_serves {s : State} {l : Lane} (key : BitVec 16) (user : Bool) (h : s.serves l) : execTransition l key user s = .next (s.ksuOp (.service l) (key.toNat * 65536 + 1) (userWrite user [])) := by
  have ikey := key.isLt
  exact congrArg _ (store_command h rfl (Nat.mod_eq_of_lt (by omega)) (by decide) (by simp) rfl (fun p => takeEffect_control rfl rfl rfl))

theorem importBlob_serves {s : State} {l : Lane} (key : BitVec 16) (user : Bool) (h : s.serves l) : execImportBlob l key user s = .next (s.ksuOp (.service l) (key.toNat * 65536 + 2) (userWrite user [])) := by
  have ikey := key.isLt
  exact congrArg _ (store_command h rfl (Nat.mod_eq_of_lt (by omega)) (by decide) (by simp) rfl (fun p => takeEffect_control rfl rfl rfl))

theorem derive_serves {s : State} {l : Lane} (key : BitVec 16) (user : Bool) (h : s.serves l) : execDerive l key user s = .next (s.ksuOp (.service l) (key.toNat * 65536 + 3) (userWrite user [])) := by
  have ikey := key.isLt
  exact congrArg _ (store_command h rfl (Nat.mod_eq_of_lt (by omega)) (by decide) (by simp) rfl (fun p => takeEffect_control rfl rfl rfl))

theorem clear_serves {s : State} {l : Lane} (key : BitVec 16) (user : Bool) (h : s.serves l) : execClear l key user s = .next (s.ksuOp (.service l) (key.toNat * 65536 + 4) (userWrite user [])) := by
  have ikey := key.isLt
  exact congrArg _ (store_command h rfl (Nat.mod_eq_of_lt (by omega)) (by decide) (by simp) rfl (fun p => takeEffect_control rfl rfl rfl))

theorem enrolpuf_serves {s : State} {l : Lane} (key : BitVec 16) (user : Bool) (reads : List Octets) (h : s.serves l) : execEnrolpuf l key user reads s = .next (s.ksuOp (.service l) (key.toNat * 65536 + 5) (userWrite user reads)) := by
  have ikey := key.isLt
  exact congrArg _ (store_command h rfl (Nat.mod_eq_of_lt (by omega)) (by decide) (by simp) rfl (fun p => takeEffect_control rfl rfl rfl))

theorem cryJob_serves {s : State} {l : Lane} (addr : Word) (user : Bool) (h : s.serves l) : execCryJob l addr user s = .next (s.cryJob (addr.toNat / 64 * 64) false user) := by
  have iaddr := addr.isLt
  exact congrArg _ (store_command h rfl (Nat.mod_eq_of_lt (by omega)) (by decide) (by simp) rfl (fun p => takeEffect_control rfl rfl rfl))

theorem program_serves {s : State} {l : Lane} (key : BitVec 16) (h : s.serves l) : execProgram l key s = .next (s.rldOp (.service l) (key.toNat * 65536 + 5)) := by
  have ikey := key.isLt
  exact congrArg _ (store_command h rfl (Nat.mod_eq_of_lt (by omega)) (by decide) (by simp) rfl (fun p => takeEffect_control rfl rfl rfl))

theorem erase_serves {s : State} {l : Lane} (key : BitVec 16) (h : s.serves l) : execErase l key s = .next (s.rldOp (.service l) (key.toNat * 65536 + 4)) := by
  have ikey := key.isLt
  exact congrArg _ (store_command h rfl (Nat.mod_eq_of_lt (by omega)) (by decide) (by simp) rfl (fun p => takeEffect_control rfl rfl rfl))

theorem cancel_serves {s : State} {l : Lane} (key : BitVec 16) (h : s.serves l) : execCancel l key s = .next (s.rldOp (.service l) (key.toNat * 65536 + 3)) := by
  have ikey := key.isLt
  exact congrArg _ (store_command h rfl (Nat.mod_eq_of_lt (by omega)) (by decide) (by simp) rfl (fun p => takeEffect_control rfl rfl rfl))

theorem verify_serves {s : State} {l : Lane} (key : BitVec 16) (slot : BitVec 2) (h : s.serves l) : execVerify l key slot s = .next (s.rldOp (.service l) (key.toNat * 65536 + slot.toNat * 256 + 1)) := by
  have ikey := key.isLt
  have islot := slot.isLt
  exact congrArg _ (store_command h rfl (Nat.mod_eq_of_lt (by omega)) (by decide) (by simp) rfl (fun p => takeEffect_control rfl rfl rfl))

theorem schedule_serves {s : State} {l : Lane} (key : BitVec 16) (kind : BitVec 2) (cslot fslot : Bool) (h : s.serves l) : execSchedule l key kind cslot fslot s = .next (s.rldOp (.service l) (key.toNat * 65536 + kind.toNat * 4096 + b2n cslot * 2048 + b2n fslot * 1024 + 2)) := by
  have ikey := key.isLt
  have ikind := kind.isLt
  exact congrArg _ (store_command h rfl (Nat.mod_eq_of_lt (by have := b2n_le cslot; have := b2n_le fslot; omega)) (by decide) (by simp) rfl (fun p => takeEffect_control rfl rfl rfl))

theorem verdict_serves {s : State} {l : Lane} (key : BitVec 16) (pass : Bool) (cause : Byte) (h : s.serves l) : execVerdict l key pass cause s = .next (s.verdict l (bits (key.toNat * 65536 + b2n pass * 256 + cause.toNat) 16 16) (bits (key.toNat * 65536 + b2n pass * 256 + cause.toNat) 8 1) (bits (key.toNat * 65536 + b2n pass * 256 + cause.toNat) 0 8)) := by
  have ikey := key.isLt
  have icause := cause.isLt
  exact congrArg _ (store_command h rfl (Nat.mod_eq_of_lt (by have := b2n_le pass; omega)) (by decide) (by simp) rfl (fun p => takeEffect_control rfl rfl rfl))

theorem bistLaneA_serves {s : State} {l : Lane} (key : BitVec 16) (h : s.serves l) : execBistLaneA l key s = .next (s.safOp (key.toNat * 65536 + 1)) := by
  have ikey := key.isLt
  exact congrArg _ (store_command h rfl (Nat.mod_eq_of_lt (by omega)) (by decide) (by simp) (by simp [State.writeLock]) (fun p => takeEffect_control rfl rfl rfl))

theorem bistLaneB_serves {s : State} {l : Lane} (key : BitVec 16) (h : s.serves l) : execBistLaneB l key s = .next (s.safOp (key.toNat * 65536 + 2)) := by
  have ikey := key.isLt
  exact congrArg _ (store_command h rfl (Nat.mod_eq_of_lt (by omega)) (by decide) (by simp) (by simp [State.writeLock]) (fun p => takeEffect_control rfl rfl rfl))

theorem detectPathA_serves {s : State} {l : Lane} (key : BitVec 16) (h : s.serves l) : execDetectPathA l key s = .next (s.safOp (key.toNat * 65536 + 3)) := by
  have ikey := key.isLt
  exact congrArg _ (store_command h rfl (Nat.mod_eq_of_lt (by omega)) (by decide) (by simp) (by simp [State.writeLock]) (fun p => takeEffect_control rfl rfl rfl))

theorem detectPathB_serves {s : State} {l : Lane} (key : BitVec 16) (h : s.serves l) : execDetectPathB l key s = .next (s.safOp (key.toNat * 65536 + 4)) := by
  have ikey := key.isLt
  exact congrArg _ (store_command h rfl (Nat.mod_eq_of_lt (by omega)) (by decide) (by simp) (by simp [State.writeLock]) (fun p => takeEffect_control rfl rfl rfl))

theorem fullPathA_serves {s : State} {l : Lane} (key : BitVec 16) (h : s.serves l) : execFullPathA l key s = .next (s.safOp (key.toNat * 65536 + 5)) := by
  have ikey := key.isLt
  exact congrArg _ (store_command h rfl (Nat.mod_eq_of_lt (by omega)) (by decide) (by simp) (by simp [State.writeLock]) (fun p => takeEffect_control rfl rfl rfl))

theorem fullPathB_serves {s : State} {l : Lane} (key : BitVec 16) (h : s.serves l) : execFullPathB l key s = .next (s.safOp (key.toNat * 65536 + 6)) := by
  have ikey := key.isLt
  exact congrArg _ (store_command h rfl (Nat.mod_eq_of_lt (by omega)) (by decide) (by simp) (by simp [State.writeLock]) (fun p => takeEffect_control rfl rfl rfl))

theorem clrblk_serves {s : State} {l : Lane} (key : BitVec 16) (h : s.serves l) : execClrblk l key s = .next (s.safOp (key.toNat * 65536 + 7)) := by
  have ikey := key.isLt
  exact congrArg _ (store_command h rfl (Nat.mod_eq_of_lt (by omega)) (by decide) (by simp) (by simp [State.writeLock]) (fun p => takeEffect_control rfl rfl rfl))

/-! ### The same with the operands of the commands -/

theorem key_hi (key : BitVec 16) {n : Nat} (h : n < 65536) : bits (key.toNat * 65536 + n) 16 16 = key.toNat := by
  have := key.isLt
  unfold bits; omega
theorem key_lit (key w : BitVec 16) : key.toNat = w.toNat ↔ key = w := BitVec.toNat_inj

theorem sysrst_does {s : State} {l : Lane} (key : BitVec 16) (r : Bool) (h : s.serves l) : execSysrst l key r s = .next (if key = 0xC1A5#16 ∧ r = true then s.systemReset .soft else s) := by
  rw [sysrst_serves key r h, key_hi key (by have := b2n_le r; omega)]
  have e : bit (key.toNat * 65536 + b2n r) 0 = r := by
    cases r <;> simp only [bit, b2n] <;> simp <;> omega
  rw [e]
  by_cases k : key = 0xC1A5#16
  · subst k; cases r <;> rfl
  · rw [if_neg (fun x => k ((key_lit key _).mp x.1)), if_neg (fun x => k x.1)]

theorem crzDisable_does {s : State} {l : Lane} (h : s.serves l) : execCrzDisable l s = .next (if s.crzOn then s.crzStop else s) := by
  rw [crzDisable_serves h]; simp [State.crzCtrl, bit]

theorem crzEnable_does {s : State} {l : Lane} (h : s.serves l) : execCrzEnable l s = .next (if s.crzOn then s else s.sequencerOn) := by
  rw [crzEnable_serves h]; cases e : s.crzOn <;> simp [State.crzCtrl, bit, e]

theorem injectEvent_does {s : State} {l : Lane} (chan : BitVec 7) (kind : Byte) (h : s.serves l) : execInjectEvent l chan kind s = .next (s.inject chan.toNat kind.toNat) := by
  have i := kind.isLt
  have j := chan.isLt
  rw [injectEvent_serves chan kind h, show bits (chan.toNat * 256 + kind.toNat) 8 7 = chan.toNat by unfold bits; omega,
    show bits (chan.toNat * 256 + kind.toNat) 0 8 = kind.toNat by unfold bits; omega]

theorem swap_does {s : State} {l : Lane} (key : BitVec 16) (h : s.serves l) : execSwap l key s = .next (if key = 0x5EA1#16 then s.swapCmd else s) := by
  rw [swap_serves key h]
  unfold State.lscCommand
  rw [key_hi key (by decide), show bits (key.toNat * 65536 + 1) 0 3 = 1 by unfold bits; omega]
  by_cases e : key = 0x5EA1#16
  · rw [if_neg (by rw [not_not]; exact (key_lit key _).mpr e), if_pos e]; rfl
  · rw [if_pos (by rw [ne_eq]; exact fun x => e ((key_lit key _).mp x)), if_neg e]

theorem takeoutA_does {s : State} {l : Lane} (key : BitVec 16) (h : s.serves l) : execTakeoutA l key s = .next (if key = 0x5EA1#16 then (s.takeOutCmd .A) else s) := by
  rw [takeoutA_serves key h]
  unfold State.lscCommand
  rw [key_hi key (by decide), show bits (key.toNat * 65536 + 2) 0 3 = 2 by unfold bits; omega]
  by_cases e : key = 0x5EA1#16
  · rw [if_neg (by rw [not_not]; exact (key_lit key _).mpr e), if_pos e]; rfl
  · rw [if_pos (by rw [ne_eq]; exact fun x => e ((key_lit key _).mp x)), if_neg e]

theorem takeoutB_does {s : State} {l : Lane} (key : BitVec 16) (h : s.serves l) : execTakeoutB l key s = .next (if key = 0x5EA1#16 then (s.takeOutCmd .B) else s) := by
  rw [takeoutB_serves key h]
  unfold State.lscCommand
  rw [key_hi key (by decide), show bits (key.toNat * 65536 + 3) 0 3 = 3 by unfold bits; omega]
  by_cases e : key = 0x5EA1#16
  · rw [if_neg (by rw [not_not]; exact (key_lit key _).mpr e), if_pos e]; rfl
  · rw [if_pos (by rw [ne_eq]; exact fun x => e ((key_lit key _).mp x)), if_neg e]

theorem rejoin_does {s : State} {l : Lane} (key : BitVec 16) (h : s.serves l) : execRejoin l key s = .next (if key = 0x5EA1#16 then s.rejoinCmd else s) := by
  rw [rejoin_serves key h]
  unfold State.lscCommand
  rw [key_hi key (by decide), show bits (key.toNat * 65536 + 4) 0 3 = 4 by unfold bits; omega]
  by_cases e : key = 0x5EA1#16
  · rw [if_neg (by rw [not_not]; exact (key_lit key _).mpr e), if_pos e]; rfl
  · rw [if_pos (by rw [ne_eq]; exact fun x => e ((key_lit key _).mp x)), if_neg e]

theorem lscJoin_does {s : State} {l : Lane} (value : Word) (h : s.serves l) : execLscJoin l value s = .next (s.joinWrite l value.toNat) := by
  rw [lscJoin_serves value h]; rfl

theorem radioDownlinkQueue_does {s : State} {l : Lane} (handle : Byte) (dst : BitVec 11) (len : BitVec 7) (h : s.serves l) : execRadioDownlinkQueue l handle dst len s = .next (s.rfTxcmd handle.toNat dst.toNat len.toNat) := by
  have i := handle.isLt
  have j := dst.isLt
  have k := len.isLt
  rw [radioDownlinkQueue_serves handle dst len h]
  simp only [bits]
  congr 3 <;> omega

theorem plcDownlinkQueue_does {s : State} {l : Lane} (handle : Byte) (dst : BitVec 11) (len : Byte) (h : s.serves l) : execPlcDownlinkQueue l handle dst len s = .next (s.plcTxcmd handle.toNat dst.toNat len.toNat) := by
  have i := handle.isLt
  have j := dst.isLt
  have k := len.isLt
  rw [plcDownlinkQueue_serves handle dst len h]
  simp only [bits]
  congr 3 <;> omega

theorem baseline_does {s : State} {l : Lane} (slot : BitVec 3) (h : s.serves l) : execBaseline l slot s = .next (s.rflArm true slot.toNat) := by
  have i := slot.isLt
  rw [baseline_serves slot h]
  unfold State.rflOp
  rw [show bits (16 * slot.toNat + 2) 0 3 = 2 by unfold bits; omega, show bits (16 * slot.toNat + 2) 4 3 = slot.toNat by unfold bits; omega]
  rfl

theorem enter_does {s : State} {l : Lane} (key : BitVec 16) (e : Bool) (h : s.serves l) : execEnter l key e s = .next (s.drEnter key.toNat (b2n e)) := by
  have i := b2n_le e
  rw [enter_serves key e h, key_hi key (by omega), show bits (key.toNat * 65536 + b2n e) 0 1 = b2n e by unfold bits; omega]

theorem commit_does {s : State} {l : Lane} (key : BitVec 16) (hv : s.rtc.onVbat = false) (h : s.serves l) : execCommit l key s = .next (s.rtcCommand key.toNat State.rtcCommit) := by
  rw [commit_serves key hv h]
  unfold State.rtcOp
  rw [key_hi key (by decide), show bits (key.toNat * 65536 + 1) 0 3 = 1 by unfold bits; omega]
  rfl

theorem addHour_does {s : State} {l : Lane} (key : BitVec 16) (hv : s.rtc.onVbat = false) (h : s.serves l) : execAddHour l key s = .next (s.rtcCommand key.toNat (fun s => s.armHour true)) := by
  rw [addHour_serves key hv h]
  unfold State.rtcOp
  rw [key_hi key (by decide), show bits (key.toNat * 65536 + 2) 0 3 = 2 by unfold bits; omega]
  rfl

theorem subHour_does {s : State} {l : Lane} (key : BitVec 16) (hv : s.rtc.onVbat = false) (h : s.serves l) : execSubHour l key s = .next (s.rtcCommand key.toNat (fun s => s.armHour false)) := by
  rw [subHour_serves key hv h]
  unfold State.rtcOp
  rw [key_hi key (by decide), show bits (key.toNat * 65536 + 3) 0 3 = 3 by unfold bits; omega]
  rfl

theorem ponSet_does {s : State} {l : Lane} (key : BitVec 16) (hv : s.rtc.onVbat = false) (h : s.serves l) : execPonSet l key s = .next (s.rtcCommand key.toNat (fun s => s.ponCommand 1)) := by
  rw [ponSet_serves key hv h]
  unfold State.rtcOp
  rw [key_hi key (by decide), show bits (key.toNat * 65536 + 4) 0 3 = 4 by unfold bits; omega]
  rfl

theorem ponClr_does {s : State} {l : Lane} (key : BitVec 16) (hv : s.rtc.onVbat = false) (h : s.serves l) : execPonClr l key s = .next (s.rtcCommand key.toNat (fun s => s.ponCommand 0)) := by
  rw [ponClr_serves key hv h]
  unfold State.rtcOp
  rw [key_hi key (by decide), show bits (key.toNat * 65536 + 5) 0 3 = 5 by unfold bits; omega]
  rfl

theorem transition_does {s : State} {l : Lane} (key : BitVec 16) (user : Bool) (h : s.serves l) : execTransition l key user s = .next (s.ksuCommand key.toNat false user State.ksuTransition) := by
  rw [transition_serves key user h]
  unfold State.ksuOp
  rw [key_hi key (by decide), show bits (key.toNat * 65536 + 1) 0 3 = 1 by unfold bits; omega]
  rfl

theorem importBlob_does {s : State} {l : Lane} (key : BitVec 16) (user : Bool) (h : s.serves l) : execImportBlob l key user s = .next (s.ksuCommand key.toNat false user State.ksuImport) := by
  rw [importBlob_serves key user h]
  unfold State.ksuOp
  rw [key_hi key (by decide), show bits (key.toNat * 65536 + 2) 0 3 = 2 by unfold bits; omega]
  rfl

theorem derive_does {s : State} {l : Lane} (key : BitVec 16) (user : Bool) (h : s.serves l) : execDerive l key user s = .next (s.ksuCommand key.toNat false user State.ksuDerive) := by
  rw [derive_serves key user h]
  unfold State.ksuOp
  rw [key_hi key (by decide), show bits (key.toNat * 65536 + 3) 0 3 = 3 by unfold bits; omega]
  rfl

theorem clear_does {s : State} {l : Lane} (key : BitVec 16) (user : Bool) (h : s.serves l) : execClear l key user s = .next (s.ksuCommand key.toNat false user State.ksuClear) := by
  rw [clear_serves key user h]
  unfold State.ksuOp
  rw [key_hi key (by decide), show bits (key.toNat * 65536 + 4) 0 3 = 4 by unfold bits; omega]
  rfl

theorem enrolpuf_does {s : State} {l : Lane} (key : BitVec 16) (user : Bool) (reads : List Octets) (h : s.serves l) : execEnrolpuf l key user reads s = .next (s.ksuCommand key.toNat false user (fun s => s.ksuEnrol reads)) := by
  rw [enrolpuf_serves key user reads h]
  unfold State.ksuOp
  rw [key_hi key (by decide), show bits (key.toNat * 65536 + 5) 0 3 = 5 by unfold bits; omega]
  rfl

theorem program_does {s : State} {l : Lane} (key : BitVec 16) (h : s.serves l) : execProgram l key s = .next (s.rldCommand key.toNat false (fun s => s.rldStore false)) := by
  rw [program_serves key h]
  unfold State.rldOp
  rw [key_hi key (by decide), show bits (key.toNat * 65536 + 5) 0 3 = 5 by unfold bits; omega]
  rfl

theorem erase_does {s : State} {l : Lane} (key : BitVec 16) (h : s.serves l) : execErase l key s = .next (s.rldCommand key.toNat false (fun s => s.rldStore true)) := by
  rw [erase_serves key h]
  unfold State.rldOp
  rw [key_hi key (by decide), show bits (key.toNat * 65536 + 4) 0 3 = 4 by unfold bits; omega]
  rfl

theorem cancel_does {s : State} {l : Lane} (key : BitVec 16) (h : s.serves l) : execCancel l key s = .next (s.rldCommand key.toNat false State.rldCancel) := by
  rw [cancel_serves key h]
  unfold State.rldOp
  rw [key_hi key (by decide), show bits (key.toNat * 65536 + 3) 0 3 = 3 by unfold bits; omega]
  rfl

theorem verify_does {s : State} {l : Lane} (key : BitVec 16) (slot : BitVec 2) (h : s.serves l) : execVerify l key slot s = .next (s.rldCommand key.toNat false (fun s => s.rldVerify slot.toNat)) := by
  have i := slot.isLt
  rw [verify_serves key slot h]
  unfold State.rldOp
  rw [show bits (key.toNat * 65536 + slot.toNat * 256 + 1) 16 16 = key.toNat by have := key.isLt; unfold bits; omega,
    show bits (key.toNat * 65536 + slot.toNat * 256 + 1) 0 3 = 1 by unfold bits; omega,
    show bits (key.toNat * 65536 + slot.toNat * 256 + 1) 8 2 = slot.toNat by unfold bits; omega]
  rfl

theorem schedule_does {s : State} {l : Lane} (key : BitVec 16) (kind : BitVec 2) (cslot fslot : Bool) (h : s.serves l) : execSchedule l key kind cslot fslot s = .next (s.rldCommand key.toNat false (fun s => s.rldSchedule kind.toNat (b2n cslot) (b2n fslot))) := by
  have i := kind.isLt
  have j := b2n_le cslot
  have k := b2n_le fslot
  have q := key.isLt
  rw [schedule_serves key kind cslot fslot h]
  unfold State.rldOp
  generalize b2n cslot = c at *
  generalize b2n fslot = f at *
  rw [show bits (key.toNat * 65536 + kind.toNat * 4096 + c * 2048 + f * 1024 + 2) 16 16 = key.toNat by unfold bits; omega,
    show bits (key.toNat * 65536 + kind.toNat * 4096 + c * 2048 + f * 1024 + 2) 0 3 = 2 by unfold bits; omega,
    show bits (key.toNat * 65536 + kind.toNat * 4096 + c * 2048 + f * 1024 + 2) 12 2 = kind.toNat by unfold bits; omega,
    show bits (key.toNat * 65536 + kind.toNat * 4096 + c * 2048 + f * 1024 + 2) 11 1 = c by unfold bits; omega,
    show bits (key.toNat * 65536 + kind.toNat * 4096 + c * 2048 + f * 1024 + 2) 10 1 = f by unfold bits; omega]
  rfl

theorem verdict_does {s : State} {l : Lane} (key : BitVec 16) (pass : Bool) (cause : Byte) (h : s.serves l) : execVerdict l key pass cause s = .next (s.verdict l key.toNat (b2n pass) cause.toNat) := by
  have i := cause.isLt
  have j := b2n_le pass
  have q := key.isLt
  rw [verdict_serves key pass cause h]
  generalize b2n pass = c at *
  rw [show bits (key.toNat * 65536 + c * 256 + cause.toNat) 16 16 = key.toNat by unfold bits; omega,
    show bits (key.toNat * 65536 + c * 256 + cause.toNat) 8 1 = c by unfold bits; omega,
    show bits (key.toNat * 65536 + c * 256 + cause.toNat) 0 8 = cause.toNat by unfold bits; omega]

theorem bistLaneA_does {s : State} {l : Lane} (key : BitVec 16) (h : s.serves l) : execBistLaneA l key s = .next (s.safCommand key.toNat (fun s => s.bistOrder .A)) := by
  rw [bistLaneA_serves key h]
  unfold State.safOp
  rw [key_hi key (by decide), show bits (key.toNat * 65536 + 1) 0 3 = 1 by unfold bits; omega]
  rfl

theorem bistLaneB_does {s : State} {l : Lane} (key : BitVec 16) (h : s.serves l) : execBistLaneB l key s = .next (s.safCommand key.toNat (fun s => s.bistOrder .B)) := by
  rw [bistLaneB_serves key h]
  unfold State.safOp
  rw [key_hi key (by decide), show bits (key.toNat * 65536 + 2) 0 3 = 2 by unfold bits; omega]
  rfl

theorem detectPathA_does {s : State} {l : Lane} (key : BitVec 16) (h : s.serves l) : execDetectPathA l key s = .next (s.safCommand key.toNat (fun s => s.sf1Test 0 false)) := by
  rw [detectPathA_serves key h]
  unfold State.safOp
  rw [key_hi key (by decide), show bits (key.toNat * 65536 + 3) 0 3 = 3 by unfold bits; omega]
  rfl

theorem detectPathB_does {s : State} {l : Lane} (key : BitVec 16) (h : s.serves l) : execDetectPathB l key s = .next (s.safCommand key.toNat (fun s => s.sf1Test 1 false)) := by
  rw [detectPathB_serves key h]
  unfold State.safOp
  rw [key_hi key (by decide), show bits (key.toNat * 65536 + 4) 0 3 = 4 by unfold bits; omega]
  rfl

theorem fullPathA_does {s : State} {l : Lane} (key : BitVec 16) (h : s.serves l) : execFullPathA l key s = .next (s.safCommand key.toNat (fun s => s.sf1Test 0 true)) := by
  rw [fullPathA_serves key h]
  unfold State.safOp
  rw [key_hi key (by decide), show bits (key.toNat * 65536 + 5) 0 3 = 5 by unfold bits; omega]
  rfl

theorem fullPathB_does {s : State} {l : Lane} (key : BitVec 16) (h : s.serves l) : execFullPathB l key s = .next (s.safCommand key.toNat (fun s => s.sf1Test 1 true)) := by
  rw [fullPathB_serves key h]
  unfold State.safOp
  rw [key_hi key (by decide), show bits (key.toNat * 65536 + 6) 0 3 = 6 by unfold bits; omega]
  rfl

theorem clrblk_does {s : State} {l : Lane} (key : BitVec 16) (h : s.serves l) : execClrblk l key s = .next (s.safCommand key.toNat State.clearBlock) := by
  rw [clrblk_serves key h]
  unfold State.safOp
  rw [key_hi key (by decide), show bits (key.toNat * 65536 + 7) 0 3 = 7 by unfold bits; omega]
  rfl

end Sys2Proof.Machine
end

