-- ==== Sys2Proof/Laws/OnlyExec.lean ====
section
/-!
SUPPORT. The parts of the state that the operations may change (`Only`): the commands.
-/
set_option linter.unusedTactic false
set_option linter.unreachableTactic false
set_option linter.unusedVariables false

namespace Sys2Proof.Machine
set_option Elab.async false

/-! ### SystemCommands -/

theorem execRegisterWrite_ends {l : Lane} {addr : Word} {size : Nat} {value : BitVec 64} {meet : WriteMeet} {s : State} : Ends 22515661674643455 s (execRegisterWrite l addr size value meet s) := by
  have hm : sub 22515661674643455 22515661674643455 = true := rfl
  have h₀ : Only 22515661674643455 s s := Only.refl s
  unfold execRegisterWrite
  try dsimp only
  repeat' (first
    | with_reducible first
      | exact h₀
      | exact Only.refl _
      | refine Ends.next ?_
      | refine coreStore_only (sub_mid rfl hm) ?_
      | refine only_of_fst (by assumption) ?_
    | intro _
    | split
    | dsimp only)

theorem execWideValueCaptureRead_ends {l : Lane} {addr : Word} {parity : Bool} {s : State} : Ends 21273476579733004 s (execWideValueCaptureRead l addr parity s) := by
  have hm : sub 21273476579733004 21273476579733004 = true := rfl
  have h₀ : Only 21273476579733004 s s := Only.refl s
  unfold execWideValueCaptureRead
  try dsimp only
  repeat' (first
    | with_reducible first
      | exact h₀
      | exact Only.refl _
      | refine Ends.next ?_
      | refine laneRead_only (sub_mid rfl hm) ?_
      | refine only_of_fst (by assumption) ?_
    | intro _
    | split
    | dsimp only)

theorem execWideValueCommitWrite_ends {l : Lane} {addr : Word} {value : Word} {meet : WriteMeet} {s : State} : Ends 22515661674643455 s (execWideValueCommitWrite l addr value meet s) := by
  have hm : sub 22515661674643455 22515661674643455 = true := rfl
  have h₀ : Only 22515661674643455 s s := Only.refl s
  unfold execWideValueCommitWrite
  try dsimp only
  repeat' (first
    | with_reducible first
      | exact h₀
      | exact Only.refl _
      | refine Ends.next ?_
      | refine coreStore_only (sub_mid rfl hm) ?_
      | refine only_of_fst (by assumption) ?_
    | intro _
    | split
    | dsimp only)

theorem execNdFieldRead_ends {l : Lane} {addr : Word} {size : Nat} {meet : LoadMeet} {s : State} : Ends 21273476579733004 s (execNdFieldRead l addr size meet s) := by
  have hm : sub 21273476579733004 21273476579733004 = true := rfl
  have h₀ : Only 21273476579733004 s s := Only.refl s
  unfold execNdFieldRead
  try dsimp only
  repeat' (first
    | with_reducible first
      | exact h₀
      | exact Only.refl _
      | refine Ends.next ?_
      | refine coreLoad_only (sub_mid rfl hm) ?_
      | refine only_of_fst (by assumption) ?_
    | intro _
    | split
    | dsimp only)

theorem execPowerOnReset_ends {s : State} : Ends 22515644494774271 s (execPowerOnReset s) := by
  have hm : sub 22515644494774271 22515644494774271 = true := rfl
  have h₀ : Only 22515644494774271 s s := Only.refl s
  unfold execPowerOnReset
  try dsimp only
  repeat' (first
    | with_reducible first
      | exact h₀
      | exact Only.refl _
      | refine Ends.next ?_
      | refine powerOn_only (sub_mid rfl hm) ?_
      | refine only_of_fst (by assumption) ?_
    | intro _
    | split
    | dsimp only)

theorem execPowerOnResetEnd_ends {a : BistResult} {b : BistResult} {testLow : Bool} {s : State} : Ends 3386547397206024 s (execPowerOnResetEnd a b testLow s) := by
  have hm : sub 3386547397206024 3386547397206024 = true := rfl
  have h₀ : Only 3386547397206024 s s := Only.refl s
  unfold execPowerOnResetEnd
  try dsimp only
  repeat' (first
    | with_reducible first
      | exact h₀
      | exact Only.refl _
      | refine Ends.next ?_
      | refine powerOnEnd_only (sub_mid rfl hm) ?_
      | refine only_of_fst (by assumption) ?_
    | intro _
    | split
    | dsimp only)

theorem execBackupDomainReset_ends {s : State} : Ends 4398054932480 s (execBackupDomainReset s) := by
  have hm : sub 4398054932480 4398054932480 = true := rfl
  have h₀ : Only 4398054932480 s s := Only.refl s
  unfold execBackupDomainReset
  try dsimp only
  repeat' (first
    | with_reducible first
      | exact h₀
      | exact Only.refl _
      | refine Ends.next ?_
      | refine backupReset_only (sub_mid rfl hm) ?_
      | refine only_of_fst (by assumption) ?_
    | intro _
    | split
    | dsimp only)

theorem execPinReset_ends {s : State} : Ends 22515644494774271 s (execPinReset s) := by
  have hm : sub 22515644494774271 22515644494774271 = true := rfl
  have h₀ : Only 22515644494774271 s s := Only.refl s
  unfold execPinReset
  try dsimp only
  repeat' (first
    | with_reducible first
      | exact h₀
      | exact Only.refl _
      | refine Ends.next ?_
      | refine pinReset_only (sub_mid rfl hm) ?_
      | refine only_of_fst (by assumption) ?_
    | intro _
    | split
    | dsimp only)

theorem execPinResetRelease_ends {s : State} : Ends 1125899915231240 s (execPinResetRelease s) := by
  have hm : sub 1125899915231240 1125899915231240 = true := rfl
  have h₀ : Only 1125899915231240 s s := Only.refl s
  unfold execPinResetRelease
  try dsimp only
  repeat' (first
    | with_reducible first
      | exact h₀
      | exact Only.refl _
      | refine Ends.next ?_
      | refine pinRelease_only (sub_mid rfl hm) ?_
      | refine only_of_fst (by assumption) ?_
    | intro _
    | split
    | dsimp only)

theorem execSysrst_ends {l : Lane} {key : BitVec 16} {sysrst : Bool} {s : State} : Ends 22515661674643455 s (execSysrst l key sysrst s) := by
  have hm : sub 22515661674643455 22515661674643455 = true := rfl
  have h₀ : Only 22515661674643455 s s := Only.refl s
  unfold execSysrst
  try dsimp only
  repeat' (first
    | with_reducible first
      | exact h₀
      | exact Only.refl _
      | refine Ends.next ?_
      | refine commandStore_only (sub_mid rfl hm) ?_
      | refine only_of_fst (by assumption) ?_
    | intro _
    | split
    | dsimp only)

theorem execNolaneReset_ends {s : State} : Ends 22515644494774271 s (execNolaneReset s) := by
  have hm : sub 22515644494774271 22515644494774271 = true := rfl
  have h₀ : Only 22515644494774271 s s := Only.refl s
  unfold execNolaneReset
  try dsimp only
  repeat' (first
    | with_reducible first
      | exact h₀
      | exact Only.refl _
      | refine Ends.next ?_
      | refine noLaneReset_only (sub_mid rfl hm) ?_
      | refine whenLanes_only (sub_mid rfl hm) ?_ ?_
      | refine only_of_fst (by assumption) ?_
    | intro _
    | split
    | dsimp only)

theorem execLaneReset_ends {l : Lane} {s : State} : Ends 25165833 s (execLaneReset l s) := by
  have hm : sub 25165833 25165833 = true := rfl
  have h₀ : Only 25165833 s s := Only.refl s
  unfold execLaneReset
  try dsimp only
  repeat' (first
    | with_reducible first
      | exact h₀
      | exact Only.refl _
      | refine Ends.next ?_
      | refine resetLeft_only (sub_mid rfl hm) ?_
      | refine whenLanes_only (sub_mid rfl hm) ?_ ?_
      | refine only_of_fst (by assumption) ?_
    | intro _
    | split
    | dsimp only)

theorem execSramRefillComplete_ends {l : Lane} {s : State} : Ends 41943048 s (execSramRefillComplete l s) := by
  have hm : sub 41943048 41943048 = true := rfl
  have h₀ : Only 41943048 s s := Only.refl s
  unfold execSramRefillComplete
  try dsimp only
  repeat' (first
    | with_reducible first
      | exact h₀
      | exact Only.refl _
      | refine Ends.next ?_
      | refine refillDone_only (sub_mid rfl hm) ?_
      | refine whenLanes_only (sub_mid rfl hm) ?_ ?_
      | refine only_of_fst (by assumption) ?_
    | intro _
    | split
    | dsimp only)

theorem execColdStartBoot_ends {s : State} : Ends 22517860697899007 s (execColdStartBoot s) := by
  have hm : sub 22517860697899007 22517860697899007 = true := rfl
  have h₀ : Only 22517860697899007 s s := Only.refl s
  unfold execColdStartBoot
  try dsimp only
  repeat' (first
    | with_reducible first
      | exact h₀
      | exact Only.refl _
      | refine Ends.next ?_
      | refine coldBoot_only (sub_mid rfl hm) ?_
      | refine only_of_fst (by assumption) ?_
    | intro _
    | split
    | dsimp only)

theorem execLaneBootLoad_ends {l : Lane} {s : State} : Ends 3254679973473804 s (execLaneBootLoad l s) := by
  have hm : sub 3254679973473804 3254679973473804 = true := rfl
  have h₀ : Only 3254679973473804 s s := Only.refl s
  unfold execLaneBootLoad
  try dsimp only
  repeat' (first
    | with_reducible first
      | exact h₀
      | exact Only.refl _
      | refine Ends.next ?_
      | refine laneLoad_only (sub_mid rfl hm) ?_
      | refine whenLanes_only (sub_mid rfl hm) ?_ ?_
      | refine only_of_fst (by assumption) ?_
    | intro _
    | split
    | dsimp only)

theorem execFunctionEnable_ends {l : Lane} {f : Func} {s : State} : Ends 22515661674643455 s (execFunctionEnable l f s) := by
  have hm : sub 22515661674643455 22515661674643455 = true := rfl
  have h₀ : Only 22515661674643455 s s := Only.refl s
  unfold execFunctionEnable
  try dsimp only
  repeat' (first
    | with_reducible first
      | exact h₀
      | exact Only.refl _
      | refine Ends.next ?_
      | refine enableWrite_only (sub_mid rfl hm) ?_
      | refine only_of_fst (by assumption) ?_
    | intro _
    | split
    | dsimp only)

theorem execFunctionDisable_ends {l : Lane} {f : Func} {s : State} : Ends 22515661674643455 s (execFunctionDisable l f s) := by
  have hm : sub 22515661674643455 22515661674643455 = true := rfl
  have h₀ : Only 22515661674643455 s s := Only.refl s
  unfold execFunctionDisable
  try dsimp only
  repeat' (first
    | with_reducible first
      | exact h₀
      | exact Only.refl _
      | refine Ends.next ?_
      | refine enableWrite_only (sub_mid rfl hm) ?_
      | refine only_of_fst (by assumption) ?_
    | intro _
    | split
    | dsimp only)

theorem execShutdownComplete_ends {f : Func} {s : State} : Ends 18287210589077376 s (execShutdownComplete f s) := by
  have hm : sub 18287210589077376 18287210589077376 = true := rfl
  have h₀ : Only 18287210589077376 s s := Only.refl s
  unfold execShutdownComplete
  try dsimp only
  repeat' (first
    | with_reducible first
      | exact h₀
      | exact Only.refl _
      | refine Ends.next ?_
      | refine shutDone_only (sub_mid rfl hm) ?_
      | refine whenUp_only (sub_mid rfl hm) ?_ ?_
      | refine only_of_fst (by assumption) ?_
    | intro _
    | split
    | dsimp only)

theorem execFunctionRunning_ends {f : Func} {s : State} : Ends 52776559714176 s (execFunctionRunning f s) := by
  have hm : sub 52776559714176 52776559714176 = true := rfl
  have h₀ : Only 52776559714176 s s := Only.refl s
  unfold execFunctionRunning
  try dsimp only
  repeat' (first
    | with_reducible first
      | exact h₀
      | exact Only.refl _
      | refine Ends.next ?_
      | refine funcRunning_only (sub_mid rfl hm) ?_
      | refine whenUp_only (sub_mid rfl hm) ?_ ?_
      | refine only_of_fst (by assumption) ?_
    | intro _
    | split
    | dsimp only)

theorem execVinCollapse_ends {words : Nat} {s : State} : Ends 22515661674643455 s (execVinCollapse words s) := by
  have hm : sub 22515661674643455 22515661674643455 = true := rfl
  have h₀ : Only 22515661674643455 s s := Only.refl s
  unfold execVinCollapse
  try dsimp only
  repeat' (first
    | with_reducible first
      | exact h₀
      | exact Only.refl _
      | refine Ends.next ?_
      | refine vinCollapse_only (sub_mid rfl hm) ?_
      | refine only_of_fst (by assumption) ?_
    | intro _
    | split
    | dsimp only)

theorem execReferenceOscillatorStop_ends {s : State} : Ends 1139094046375936 s (execReferenceOscillatorStop s) := by
  have hm : sub 1139094046375936 1139094046375936 = true := rfl
  have h₀ : Only 1139094046375936 s s := Only.refl s
  unfold execReferenceOscillatorStop
  try dsimp only
  repeat' (first
    | with_reducible first
      | exact h₀
      | exact Only.refl _
      | refine Ends.next ?_
      | refine referenceStop_only (sub_mid rfl hm) ?_
      | refine only_of_fst (by assumption) ?_
    | intro _
    | split
    | dsimp only)

theorem execTapInstructionUpdate_ends {ins : TapInstr} {s : State} : Ends 22515644494774271 s (execTapInstructionUpdate ins s) := by
  have hm : sub 22515644494774271 22515644494774271 = true := rfl
  have h₀ : Only 22515644494774271 s s := Only.refl s
  unfold execTapInstructionUpdate
  try dsimp only
  repeat' (first
    | with_reducible first
      | exact h₀
      | exact Only.refl _
      | refine Ends.next ?_
      | refine tapUpdate_only (sub_mid rfl hm) ?_
      | refine only_of_fst (by assumption) ?_
    | intro _
    | split
    | dsimp only)

theorem execOtpEntryProgrammed_ends {s : State} : Ends 22515799113596927 s (execOtpEntryProgrammed s) := by
  have hm : sub 22515799113596927 22515799113596927 = true := rfl
  have h₀ : Only 22515799113596927 s s := Only.refl s
  unfold execOtpEntryProgrammed
  try dsimp only
  repeat' (first
    | with_reducible first
      | exact h₀
      | exact Only.refl _
      | refine Ends.next ?_
      | refine otpDone_only (sub_mid rfl hm) ?_
      | refine only_of_fst (by assumption) ?_
    | intro _
    | split
    | dsimp only)

/-! ### TimeCommands -/

theorem execTbCounterTick_ends {cycles : Nat} {s : State} : Ends 27021597965549574 s (execTbCounterTick cycles s) := by
  have hm : sub 27021597965549574 27021597965549574 = true := rfl
  have h₀ : Only 27021597965549574 s s := Only.refl s
  unfold execTbCounterTick
  try dsimp only
  repeat' (first
    | with_reducible first
      | exact h₀
      | exact Only.refl _
      | refine Ends.next ?_
      | refine tick_only (sub_mid rfl hm) ?_
      | refine whenUp_only (sub_mid rfl hm) ?_ ?_
      | refine only_of_fst (by assumption) ?_
    | intro _
    | split
    | dsimp only)

theorem execSnapshotBoundary_ends {s : State} : Ends 235929602 s (execSnapshotBoundary s) := by
  have hm : sub 235929602 235929602 = true := rfl
  have h₀ : Only 235929602 s s := Only.refl s
  unfold execSnapshotBoundary
  try dsimp only
  repeat' (first
    | with_reducible first
      | exact h₀
      | exact Only.refl _
      | refine Ends.next ?_
      | refine boundary_only (sub_mid rfl hm) ?_
      | refine whenUp_only (sub_mid rfl hm) ?_ ?_
      | refine only_of_fst (by assumption) ?_
    | intro _
    | split
    | dsimp only)

theorem execTbSet_ends {l : Lane} {value : Word} {s : State} : Ends 22515661674643455 s (execTbSet l value s) := by
  have hm : sub 22515661674643455 22515661674643455 = true := rfl
  have h₀ : Only 22515661674643455 s s := Only.refl s
  unfold execTbSet
  try dsimp only
  repeat' (first
    | with_reducible first
      | exact h₀
      | exact Only.refl _
      | refine Ends.next ?_
      | refine commandStore_only (sub_mid rfl hm) ?_
      | refine only_of_fst (by assumption) ?_
    | intro _
    | split
    | dsimp only)

theorem execServoDisable_ends {l : Lane} {s : State} : Ends 22515661674643455 s (execServoDisable l s) := by
  have hm : sub 22515661674643455 22515661674643455 = true := rfl
  have h₀ : Only 22515661674643455 s s := Only.refl s
  unfold execServoDisable
  try dsimp only
  repeat' (first
    | with_reducible first
      | exact h₀
      | exact Only.refl _
      | refine Ends.next ?_
      | refine commandStore_only (sub_mid rfl hm) ?_
      | refine only_of_fst (by assumption) ?_
    | intro _
    | split
    | dsimp only)

theorem execFollowUpTimeout_ends {s : State} : Ends 67108866 s (execFollowUpTimeout s) := by
  have hm : sub 67108866 67108866 = true := rfl
  have h₀ : Only 67108866 s s := Only.refl s
  unfold execFollowUpTimeout
  try dsimp only
  repeat' (first
    | with_reducible first
      | exact h₀
      | exact Only.refl _
      | refine Ends.next ?_
      | refine followTimeout_only (sub_mid rfl hm) ?_
      | refine whenUp_only (sub_mid rfl hm) ?_ ?_
      | refine only_of_fst (by assumption) ?_
    | intro _
    | split
    | dsimp only)

theorem execSyncTimeout_ends {s : State} : Ends 101711874 s (execSyncTimeout s) := by
  have hm : sub 101711874 101711874 = true := rfl
  have h₀ : Only 101711874 s s := Only.refl s
  unfold execSyncTimeout
  try dsimp only
  repeat' (first
    | with_reducible first
      | exact h₀
      | exact Only.refl _
      | refine Ends.next ?_
      | refine syncTimeout_only (sub_mid rfl hm) ?_
      | refine whenUp_only (sub_mid rfl hm) ?_ ?_
      | refine only_of_fst (by assumption) ?_
    | intro _
    | split
    | dsimp only)

theorem execHoldoverExpiry_ends {s : State} : Ends 101711874 s (execHoldoverExpiry s) := by
  have hm : sub 101711874 101711874 = true := rfl
  have h₀ : Only 101711874 s s := Only.refl s
  unfold execHoldoverExpiry
  try dsimp only
  repeat' (first
    | with_reducible first
      | exact h₀
      | exact Only.refl _
      | refine Ends.next ?_
      | refine holdoverExpiry_only (sub_mid rfl hm) ?_
      | refine whenUp_only (sub_mid rfl hm) ?_ ?_
      | refine only_of_fst (by assumption) ?_
    | intro _
    | split
    | dsimp only)

/-! ### CreaseCommands -/

theorem deliverChecked_only {μ : Nat} {s₀ : State} {s : State} {l : Lane} {bad : Bool} (hm : sub 3254682188000876 μ = true) (h₀ : Only μ s₀ s) : Only μ s₀ (State.deliverChecked s l bad) := by
  unfold State.deliverChecked
  try dsimp only
  repeat' (first
    | with_reducible first
      | exact h₀
      | exact Only.refl _
      | refine raise_only (sub_mid rfl hm) ?_ ?_
      | refine countAgainst_only (sub_mid rfl hm) ?_
      | refine laneFault_only (sub_mid rfl hm) ?_
      | refine deliver_only (sub_mid rfl hm) ?_
      | exact digerrFlag_in (bit_mid hm rfl)
      | refine only_of_fst (by assumption) ?_
    | intro _
    | split
    | dsimp only)

theorem execCreaseClosure_ends {bad : Bool} {s : State} : Ends 3254680023739916 s (execCreaseClosure bad s) := by
  have hm : sub 3254680023739916 3254680023739916 = true := rfl
  have h₀ : Only 3254680023739916 s s := Only.refl s
  unfold execCreaseClosure
  try dsimp only
  repeat' (first
    | with_reducible first
      | exact h₀
      | exact Only.refl _
      | refine Ends.next ?_
      | refine closeCrease_only (sub_mid rfl hm) ?_
      | refine whenUp_only (sub_mid rfl hm) ?_ ?_
      | refine only_of_fst (by assumption) ?_
    | intro _
    | split
    | dsimp only)

theorem execEventRegister_ends {chan : Fin 128} {s : State} : Ends 705693188 s (execEventRegister chan s) := by
  have hm : sub 705693188 705693188 = true := rfl
  have h₀ : Only 705693188 s s := Only.refl s
  unfold execEventRegister
  try dsimp only
  repeat' (first
    | with_reducible first
      | exact h₀
      | exact Only.refl _
      | refine Ends.next ?_
      | refine intake_only (sub_mid rfl hm) ?_
      | refine whenUp_only (sub_mid rfl hm) ?_ ?_
      | refine only_of_fst (by assumption) ?_
    | intro _
    | split
    | dsimp only)

theorem execIntakeResume_ends {s : State} : Ends 705693188 s (execIntakeResume s) := by
  have hm : sub 705693188 705693188 = true := rfl
  have h₀ : Only 705693188 s s := Only.refl s
  unfold execIntakeResume
  try dsimp only
  repeat' (first
    | with_reducible first
      | exact h₀
      | exact Only.refl _
      | refine Ends.next ?_
      | refine intakeResume_only (sub_mid rfl hm) ?_
      | refine whenUp_only (sub_mid rfl hm) ?_ ?_
      | refine only_of_fst (by assumption) ?_
    | intro _
    | split
    | dsimp only)

theorem execBatchDelivery_ends {l : Lane} {bad : Bool} {s : State} : Ends 3254682188000876 s (execBatchDelivery l bad s) := by
  have hm : sub 3254682188000876 3254682188000876 = true := rfl
  have h₀ : Only 3254682188000876 s s := Only.refl s
  unfold execBatchDelivery
  try dsimp only
  repeat' (first
    | with_reducible first
      | exact h₀
      | exact Only.refl _
      | refine Ends.next ?_
      | refine deliverChecked_only (sub_mid rfl hm) ?_
      | refine whenUp_only (sub_mid rfl hm) ?_ ?_
      | refine only_of_fst (by assumption) ?_
    | intro _
    | split
    | dsimp only)

theorem execCrzEnable_ends {l : Lane} {s : State} : Ends 22515661674643455 s (execCrzEnable l s) := by
  have hm : sub 22515661674643455 22515661674643455 = true := rfl
  have h₀ : Only 22515661674643455 s s := Only.refl s
  unfold execCrzEnable
  try dsimp only
  repeat' (first
    | with_reducible first
      | exact h₀
      | exact Only.refl _
      | refine Ends.next ?_
      | refine commandStore_only (sub_mid rfl hm) ?_
      | refine only_of_fst (by assumption) ?_
    | intro _
    | split
    | dsimp only)

theorem execCrzDisable_ends {l : Lane} {s : State} : Ends 22515661674643455 s (execCrzDisable l s) := by
  have hm : sub 22515661674643455 22515661674643455 = true := rfl
  have h₀ : Only 22515661674643455 s s := Only.refl s
  unfold execCrzDisable
  try dsimp only
  repeat' (first
    | with_reducible first
      | exact h₀
      | exact Only.refl _
      | refine Ends.next ?_
      | refine commandStore_only (sub_mid rfl hm) ?_
      | refine only_of_fst (by assumption) ?_
    | intro _
    | split
    | dsimp only)

theorem execInjectEvent_ends {l : Lane} {chan : BitVec 7} {kind : Byte} {s : State} : Ends 22515661674643455 s (execInjectEvent l chan kind s) := by
  have hm : sub 22515661674643455 22515661674643455 = true := rfl
  have h₀ : Only 22515661674643455 s s := Only.refl s
  unfold execInjectEvent
  try dsimp only
  repeat' (first
    | with_reducible first
      | exact h₀
      | exact Only.refl _
      | refine Ends.next ?_
      | refine commandStore_only (sub_mid rfl hm) ?_
      | refine only_of_fst (by assumption) ?_
    | intro _
    | split
    | dsimp only)

/-! ### LaneCommands -/

theorem contextWrite_only {μ : Nat} {s₀ : State} {s : State} {l : Lane} {det : Bool} {user : Bool} (hm : sub 8388608 μ = true) (h₀ : Only μ s₀ s) : Only μ s₀ (State.contextWrite s l det user) := by
  unfold State.contextWrite
  try dsimp only
  repeat' (first
    | with_reducible first
      | exact h₀
      | exact Only.refl _
      | refine trapLane_only (sub_mid rfl hm) ?_
      | refine only_of_fst (by assumption) ?_
    | refine onLane_only_lanes (fun _ => rfl) (fun _ => by first | exact Nat.le_refl _ | exact Nat.zero_le _) (bit_mid hm rfl) ?_
    | intro _
    | split
    | dsimp only
    | (with_reducible refine Only.upd rfl hm ?_ ?_; exact {}))

theorem fence_only {μ : Nat} {s₀ : State} {s : State} {l : Lane} {access : FenceAccess} (hm : sub 8388608 μ = true) (h₀ : Only μ s₀ s) : Only μ s₀ (State.fence s l access) := by
  unfold State.fence
  try dsimp only
  repeat' (first
    | with_reducible first
      | exact h₀
      | exact Only.refl _
      | refine trapLane_only (sub_mid rfl hm) ?_
      | refine only_of_fst (by assumption) ?_
    | intro _
    | split
    | dsimp only)

theorem interrupt_only {μ : Nat} {s₀ : State} {s : State} {l : Lane} {source : IntSource} (hm : sub 8388608 μ = true) (h₀ : Only μ s₀ s) : Only μ s₀ (State.interrupt s l source) := by
  unfold State.interrupt
  try dsimp only
  repeat' (first
    | with_reducible first
      | exact h₀
      | exact Only.refl _
      | refine trapLane_only (sub_mid rfl hm) ?_
      | refine only_of_fst (by assumption) ?_
    | intro _
    | split
    | dsimp only)

theorem faultOf_only {μ : Nat} {s₀ : State} {s : State} {l : Lane} {x0 : LaneFaultKind} (hm : sub 3254680023740012 μ = true) (h₀ : Only μ s₀ s) : Only μ s₀ (State.faultOf s l x0) := by
  unfold State.faultOf
  try dsimp only
  repeat' (first
    | with_reducible first
      | exact h₀
      | exact Only.refl _
      | refine poisonedLoad_only (sub_mid rfl hm) ?_
      | refine unitFault_only (sub_mid rfl hm) ?_
      | refine raise_only (sub_mid rfl hm) ?_ ?_
      | refine laneFault_only (sub_mid rfl hm) ?_
      | refine sramFault_only (sub_mid rfl hm) ?_
      | refine only_of_fst (by assumption) ?_
    | intro _
    | split
    | dsimp only
    | exact fieldIn_block (b := 5) rfl (bit_mid hm rfl)
    | exact fieldIn_block (b := 6) rfl (bit_mid hm rfl))

theorem execMlanectxWrite_ends {l : Lane} {det : Bool} {user : Bool} {s : State} : Ends 8388608 s (execMlanectxWrite l det user s) := by
  have hm : sub 8388608 8388608 = true := rfl
  have h₀ : Only 8388608 s s := Only.refl s
  unfold execMlanectxWrite
  try dsimp only
  repeat' (first
    | with_reducible first
      | exact h₀
      | exact Only.refl _
      | refine Ends.next ?_
      | refine contextWrite_only (sub_mid rfl hm) ?_
      | refine only_of_fst (by assumption) ?_
    | intro _
    | split
    | dsimp only)

theorem execFenceViolation_ends {l : Lane} {access : FenceAccess} {s : State} : Ends 8388608 s (execFenceViolation l access s) := by
  have hm : sub 8388608 8388608 = true := rfl
  have h₀ : Only 8388608 s s := Only.refl s
  unfold execFenceViolation
  try dsimp only
  repeat' (first
    | with_reducible first
      | exact h₀
      | exact Only.refl _
      | refine Ends.next ?_
      | refine fence_only (sub_mid rfl hm) ?_
      | refine only_of_fst (by assumption) ?_
    | intro _
    | split
    | dsimp only)

theorem execInterruptEntry_ends {l : Lane} {source : IntSource} {s : State} : Ends 8388608 s (execInterruptEntry l source s) := by
  have hm : sub 8388608 8388608 = true := rfl
  have h₀ : Only 8388608 s s := Only.refl s
  unfold execInterruptEntry
  try dsimp only
  repeat' (first
    | with_reducible first
      | exact h₀
      | exact Only.refl _
      | refine Ends.next ?_
      | refine interrupt_only (sub_mid rfl hm) ?_
      | refine only_of_fst (by assumption) ?_
    | intro _
    | split
    | dsimp only)

theorem execCommitRecordStore_ends {l : Lane} {addr : Word} {value : Word} {s : State} : Ends 22515661674643455 s (execCommitRecordStore l addr value s) := by
  have hm : sub 22515661674643455 22515661674643455 = true := rfl
  have h₀ : Only 22515661674643455 s s := Only.refl s
  unfold execCommitRecordStore
  try dsimp only
  repeat' (first
    | with_reducible first
      | exact h₀
      | exact Only.refl _
      | refine Ends.next ?_
      | refine laneStore_only (sub_mid rfl hm) ?_
      | refine only_of_fst (by assumption) ?_
    | intro _
    | split
    | dsimp only)

theorem execLscSeal_ends {l : Lane} {value : Word} {s : State} : Ends 22515661674643455 s (execLscSeal l value s) := by
  have hm : sub 22515661674643455 22515661674643455 = true := rfl
  have h₀ : Only 22515661674643455 s s := Only.refl s
  unfold execLscSeal
  try dsimp only
  repeat' (first
    | with_reducible first
      | exact h₀
      | exact Only.refl _
      | refine Ends.next ?_
      | refine commandStore_only (sub_mid rfl hm) ?_
      | refine only_of_fst (by assumption) ?_
    | intro _
    | split
    | dsimp only)

theorem execSealComplete_ends {l : Lane} {corrected : Nat} {s : State} : Ends 3254682120891916 s (execSealComplete l corrected s) := by
  have hm : sub 3254682120891916 3254682120891916 = true := rfl
  have h₀ : Only 3254682120891916 s s := Only.refl s
  unfold execSealComplete
  try dsimp only
  repeat' (first
    | with_reducible first
      | exact h₀
      | exact Only.refl _
      | refine Ends.next ?_
      | refine sealComplete_only (sub_mid rfl hm) ?_
      | refine whenLanes_only (sub_mid rfl hm) ?_ ?_
      | refine only_of_fst (by assumption) ?_
    | intro _
    | split
    | dsimp only)

theorem execLaneFault_ends {l : Lane} {kind : LaneFaultKind} {s : State} : Ends 3254680023740012 s (execLaneFault l kind s) := by
  have hm : sub 3254680023740012 3254680023740012 = true := rfl
  have h₀ : Only 3254680023740012 s s := Only.refl s
  unfold execLaneFault
  try dsimp only
  repeat' (first
    | with_reducible first
      | exact h₀
      | exact Only.refl _
      | refine Ends.next ?_
      | refine faultOf_only (sub_mid rfl hm) ?_
      | refine whenLanes_only (sub_mid rfl hm) ?_ ?_
      | refine only_of_fst (by assumption) ?_
    | intro _
    | split
    | dsimp only)

theorem execCmpWaitExpiry_ends {s : State} : Ends 268435464 s (execCmpWaitExpiry s) := by
  have hm : sub 268435464 268435464 = true := rfl
  have h₀ : Only 268435464 s s := Only.refl s
  unfold execCmpWaitExpiry
  try dsimp only
  repeat' (first
    | with_reducible first
      | exact h₀
      | exact Only.refl _
      | refine Ends.next ?_
      | refine cmpExpire_only (sub_mid rfl hm) ?_
      | refine whenLanes_only (sub_mid rfl hm) ?_ ?_
      | refine only_of_fst (by assumption) ?_
    | intro _
    | split
    | dsimp only)

theorem execCommitDrain_ends {meet : DrainMeet} {s : State} : Ends 22515661674643455 s (execCommitDrain meet s) := by
  have hm : sub 22515661674643455 22515661674643455 = true := rfl
  have h₀ : Only 22515661674643455 s s := Only.refl s
  unfold execCommitDrain
  try dsimp only
  repeat' (first
    | with_reducible first
      | exact h₀
      | exact Only.refl _
      | refine Ends.next ?_
      | refine commitDrain_only (sub_mid rfl hm) ?_
      | refine whenUp_only (sub_mid rfl hm) ?_ ?_
      | refine only_of_fst (by assumption) ?_
    | intro _
    | split
    | dsimp only)

theorem execDrainComplete_ends {s : State} : Ends 721400165835264 s (execDrainComplete s) := by
  have hm : sub 721400165835264 721400165835264 = true := rfl
  have h₀ : Only 721400165835264 s s := Only.refl s
  unfold execDrainComplete
  try dsimp only
  repeat' (first
    | with_reducible first
      | exact h₀
      | exact Only.refl _
      | refine Ends.next ?_
      | refine drainComplete_only (sub_mid rfl hm) ?_
      | refine whenUp_only (sub_mid rfl hm) ?_ ?_
      | refine only_of_fst (by assumption) ?_
    | intro _
    | split
    | dsimp only)

theorem execSwap_ends {l : Lane} {key : BitVec 16} {s : State} : Ends 22515661674643455 s (execSwap l key s) := by
  have hm : sub 22515661674643455 22515661674643455 = true := rfl
  have h₀ : Only 22515661674643455 s s := Only.refl s
  unfold execSwap
  try dsimp only
  repeat' (first
    | with_reducible first
      | exact h₀
      | exact Only.refl _
      | refine Ends.next ?_
      | refine commandStore_only (sub_mid rfl hm) ?_
      | refine only_of_fst (by assumption) ?_
    | intro _
    | split
    | dsimp only)

theorem execTakeoutA_ends {l : Lane} {key : BitVec 16} {s : State} : Ends 22515661674643455 s (execTakeoutA l key s) := by
  have hm : sub 22515661674643455 22515661674643455 = true := rfl
  have h₀ : Only 22515661674643455 s s := Only.refl s
  unfold execTakeoutA
  try dsimp only
  repeat' (first
    | with_reducible first
      | exact h₀
      | exact Only.refl _
      | refine Ends.next ?_
      | refine commandStore_only (sub_mid rfl hm) ?_
      | refine only_of_fst (by assumption) ?_
    | intro _
    | split
    | dsimp only)

theorem execTakeoutB_ends {l : Lane} {key : BitVec 16} {s : State} : Ends 22515661674643455 s (execTakeoutB l key s) := by
  have hm : sub 22515661674643455 22515661674643455 = true := rfl
  have h₀ : Only 22515661674643455 s s := Only.refl s
  unfold execTakeoutB
  try dsimp only
  repeat' (first
    | with_reducible first
      | exact h₀
      | exact Only.refl _
      | refine Ends.next ?_
      | refine commandStore_only (sub_mid rfl hm) ?_
      | refine only_of_fst (by assumption) ?_
    | intro _
    | split
    | dsimp only)

theorem execRejoin_ends {l : Lane} {key : BitVec 16} {s : State} : Ends 22515661674643455 s (execRejoin l key s) := by
  have hm : sub 22515661674643455 22515661674643455 = true := rfl
  have h₀ : Only 22515661674643455 s s := Only.refl s
  unfold execRejoin
  try dsimp only
  repeat' (first
    | with_reducible first
      | exact h₀
      | exact Only.refl _
      | refine Ends.next ?_
      | refine commandStore_only (sub_mid rfl hm) ?_
      | refine only_of_fst (by assumption) ?_
    | intro _
    | split
    | dsimp only)

theorem execLscJoin_ends {l : Lane} {value : Word} {s : State} : Ends 22515661674643455 s (execLscJoin l value s) := by
  have hm : sub 22515661674643455 22515661674643455 = true := rfl
  have h₀ : Only 22515661674643455 s s := Only.refl s
  unfold execLscJoin
  try dsimp only
  repeat' (first
    | with_reducible first
      | exact h₀
      | exact Only.refl _
      | refine Ends.next ?_
      | refine commandStore_only (sub_mid rfl hm) ?_
      | refine only_of_fst (by assumption) ?_
    | intro _
    | split
    | dsimp only)

/-! ### FelterCommands -/

theorem sendRecord_only {μ : Nat} {s₀ : State} {s : State} (hm : sub 17592722915392 μ = true) (h₀ : Only μ s₀ s) : Only μ s₀ (State.sendRecord s) := by
  unfold State.sendRecord
  try dsimp only
  repeat' (first
    | with_reducible first
      | exact h₀
      | exact Only.refl _
      | refine queueDatagram_only (sub_mid rfl hm) ?_
      | refine count_only (sub_mid rfl hm) ?_ ?_ ?_
      | refine intakeOffer_only (sub_mid rfl hm) ?_
      | refine only_of_fst (by assumption) ?_
    | intro _
    | split
    | dsimp only
    | exact fieldIn_block (b := 6) rfl (bit_mid hm rfl)
    | (with_reducible refine Only.upd rfl hm ?_ ?_; exact {}))

theorem execResultRecordSend_ends {s : State} : Ends 17592722915392 s (execResultRecordSend s) := by
  have hm : sub 17592722915392 17592722915392 = true := rfl
  have h₀ : Only 17592722915392 s s := Only.refl s
  unfold execResultRecordSend
  try dsimp only
  repeat' (first
    | with_reducible first
      | exact h₀
      | exact Only.refl _
      | refine Ends.next ?_
      | refine sendRecord_only (sub_mid rfl hm) ?_
      | refine whenUp_only (sub_mid rfl hm) ?_ ?_
      | refine only_of_fst (by assumption) ?_
    | intro _
    | split
    | dsimp only)

theorem execCollectorRecordReceive_ends {record : Octets} {s : State} : Ends 536870976 s (execCollectorRecordReceive record s) := by
  have hm : sub 536870976 536870976 = true := rfl
  have h₀ : Only 536870976 s s := Only.refl s
  unfold execCollectorRecordReceive
  try dsimp only
  repeat' (first
    | with_reducible first
      | exact h₀
      | exact Only.refl _
      | refine Ends.next ?_
      | refine intakeOffer_only (sub_mid rfl hm) ?_
      | refine whenUp_only (sub_mid rfl hm) ?_ ?_
      | refine only_of_fst (by assumption) ?_
    | intro _
    | split
    | dsimp only)

theorem execCollectorIntake_ends {s : State} : Ends 570425408 s (execCollectorIntake s) := by
  have hm : sub 570425408 570425408 = true := rfl
  have h₀ : Only 570425408 s s := Only.refl s
  unfold execCollectorIntake
  try dsimp only
  repeat' (first
    | with_reducible first
      | exact h₀
      | exact Only.refl _
      | refine Ends.next ?_
      | refine intakeRecord_only (sub_mid rfl hm) ?_
      | refine whenUp_only (sub_mid rfl hm) ?_ ?_
      | refine only_of_fst (by assumption) ?_
    | intro _
    | split
    | dsimp only)

theorem execActionDeadlineMiss_ends {path : Path} {s : State} : Ends 1073741840 s (execActionDeadlineMiss path s) := by
  have hm : sub 1073741840 1073741840 = true := rfl
  have h₀ : Only 1073741840 s s := Only.refl s
  unfold execActionDeadlineMiss
  try dsimp only
  repeat' (first
    | with_reducible first
      | exact h₀
      | exact Only.refl _
      | refine Ends.next ?_
      | refine dropMissed_only (sub_mid rfl hm) ?_
      | refine whenUp_only (sub_mid rfl hm) ?_ ?_
      | refine only_of_fst (by assumption) ?_
    | intro _
    | split
    | dsimp only)

/-! ### RadioCommands -/

theorem execBeacon_ends {r : Fin 2} {meet : GuardMeet} {s : State} : Ends 4538784036225152 s (execBeacon r meet s) := by
  have hm : sub 4538784036225152 4538784036225152 = true := rfl
  have h₀ : Only 4538784036225152 s s := Only.refl s
  unfold execBeacon
  try dsimp only
  repeat' (first
    | with_reducible first
      | exact h₀
      | exact Only.refl _
      | refine Ends.next ?_
      | refine beacon_only (sub_mid rfl hm) ?_
      | refine whenUp_only (sub_mid rfl hm) ?_ ?_
      | refine only_of_fst (by assumption) ?_
    | intro _
    | split
    | dsimp only)

theorem execRadioBundleCell_ends {r : Fin 2} {meet : GuardMeet} {s : State} : Ends 4538785109966992 s (execRadioBundleCell r meet s) := by
  have hm : sub 4538785109966992 4538785109966992 = true := rfl
  have h₀ : Only 4538785109966992 s s := Only.refl s
  unfold execRadioBundleCell
  try dsimp only
  repeat' (first
    | with_reducible first
      | exact h₀
      | exact Only.refl _
      | refine Ends.next ?_
      | refine bundleCell_only (sub_mid rfl hm) ?_
      | refine whenUp_only (sub_mid rfl hm) ?_ ?_
      | refine only_of_fst (by assumption) ?_
    | intro _
    | split
    | dsimp only)

theorem execRadioFrameReceive_ends {r : Fin 2} {psdu : Octets} {meet : RadioMeet} {rssi : Byte} {s : State} : Ends 4538784034128000 s (execRadioFrameReceive r psdu meet rssi s) := by
  have hm : sub 4538784034128000 4538784034128000 = true := rfl
  have h₀ : Only 4538784034128000 s s := Only.refl s
  unfold execRadioFrameReceive
  try dsimp only
  repeat' (first
    | with_reducible first
      | exact h₀
      | exact Only.refl _
      | refine Ends.next ?_
      | refine rfReceive_only (sub_mid rfl hm) ?_
      | refine whenUp_only (sub_mid rfl hm) ?_ ?_
      | refine only_of_fst (by assumption) ?_
    | intro _
    | split
    | dsimp only)

theorem execImmAckReceive_ends {r : Fin 2} {seq : Byte} {s : State} : Ends 35184405643392 s (execImmAckReceive r seq s) := by
  have hm : sub 35184405643392 35184405643392 = true := rfl
  have h₀ : Only 35184405643392 s s := Only.refl s
  unfold execImmAckReceive
  try dsimp only
  repeat' (first
    | with_reducible first
      | exact h₀
      | exact Only.refl _
      | refine Ends.next ?_
      | refine immAck_only (sub_mid rfl hm) ?_
      | refine whenUp_only (sub_mid rfl hm) ?_ ?_
      | refine only_of_fst (by assumption) ?_
    | intro _
    | split
    | dsimp only)

theorem execAckWaitExpiry_ends {r : Fin 2} {s : State} : Ends 35184405643392 s (execAckWaitExpiry r s) := by
  have hm : sub 35184405643392 35184405643392 = true := rfl
  have h₀ : Only 35184405643392 s s := Only.refl s
  unfold execAckWaitExpiry
  try dsimp only
  repeat' (first
    | with_reducible first
      | exact h₀
      | exact Only.refl _
      | refine Ends.next ?_
      | refine ackExpiry_only (sub_mid rfl hm) ?_
      | refine whenUp_only (sub_mid rfl hm) ?_ ?_
      | refine only_of_fst (by assumption) ?_
    | intro _
    | split
    | dsimp only)

theorem execReportCellEnd_ends {lantern : Fin 2048} {sf : Int} {s : State} : Ends 35184405643392 s (execReportCellEnd lantern sf s) := by
  have hm : sub 35184405643392 35184405643392 = true := rfl
  have h₀ : Only 35184405643392 s s := Only.refl s
  unfold execReportCellEnd
  try dsimp only
  repeat' (first
    | with_reducible first
      | exact h₀
      | exact Only.refl _
      | refine Ends.next ?_
      | refine reportEnd_only (sub_mid rfl hm) ?_
      | refine whenUp_only (sub_mid rfl hm) ?_ ?_
      | refine only_of_fst (by assumption) ?_
    | intro _
    | split
    | dsimp only)

theorem execDarnWindowEnd_ends {r : Fin 2} {window : Fin 4} {s : State} : Ends 35184405643392 s (execDarnWindowEnd r window s) := by
  have hm : sub 35184405643392 35184405643392 = true := rfl
  have h₀ : Only 35184405643392 s s := Only.refl s
  unfold execDarnWindowEnd
  try dsimp only
  repeat' (first
    | with_reducible first
      | exact h₀
      | exact Only.refl _
      | refine Ends.next ?_
      | refine darnEnd_only (sub_mid rfl hm) ?_
      | refine whenUp_only (sub_mid rfl hm) ?_ ?_
      | refine only_of_fst (by assumption) ?_
    | intro _
    | split
    | dsimp only)

theorem execNbrCellEnd_ends {neighbour : Fin 8} {s : State} : Ends 35184405643392 s (execNbrCellEnd neighbour s) := by
  have hm : sub 35184405643392 35184405643392 = true := rfl
  have h₀ : Only 35184405643392 s s := Only.refl s
  unfold execNbrCellEnd
  try dsimp only
  repeat' (first
    | with_reducible first
      | exact h₀
      | exact Only.refl _
      | refine Ends.next ?_
      | refine nbrEnd_only (sub_mid rfl hm) ?_
      | refine whenUp_only (sub_mid rfl hm) ?_ ?_
      | refine only_of_fst (by assumption) ?_
    | intro _
    | split
    | dsimp only)

theorem execWakeChange_ends {s : State} : Ends 35184372088960 s (execWakeChange s) := by
  have hm : sub 35184372088960 35184372088960 = true := rfl
  have h₀ : Only 35184372088960 s s := Only.refl s
  unfold execWakeChange
  try dsimp only
  repeat' (first
    | with_reducible first
      | exact h₀
      | exact Only.refl _
      | refine Ends.next ?_
      | refine wakeChange_only (sub_mid rfl hm) ?_
      | refine whenUp_only (sub_mid rfl hm) ?_ ?_
      | refine only_of_fst (by assumption) ?_
    | intro _
    | split
    | dsimp only)

theorem execRadioDownlinkQueue_ends {l : Lane} {handle : Byte} {dst : BitVec 11} {len : BitVec 7} {s : State} : Ends 22515661674643455 s (execRadioDownlinkQueue l handle dst len s) := by
  have hm : sub 22515661674643455 22515661674643455 = true := rfl
  have h₀ : Only 22515661674643455 s s := Only.refl s
  unfold execRadioDownlinkQueue
  try dsimp only
  repeat' (first
    | with_reducible first
      | exact h₀
      | exact Only.refl _
      | refine Ends.next ?_
      | refine commandStore_only (sub_mid rfl hm) ?_
      | refine only_of_fst (by assumption) ?_
    | intro _
    | split
    | dsimp only)

theorem execLanternTableWrite_ends {l : Lane} {lantern : Fin 2048} {value : Word} {s : State} : Ends 22515661674643455 s (execLanternTableWrite l lantern value s) := by
  have hm : sub 22515661674643455 22515661674643455 = true := rfl
  have h₀ : Only 22515661674643455 s s := Only.refl s
  unfold execLanternTableWrite
  try dsimp only
  repeat' (first
    | with_reducible first
      | exact h₀
      | exact Only.refl _
      | refine Ends.next ?_
      | refine commandStore_only (sub_mid rfl hm) ?_
      | refine only_of_fst (by assumption) ?_
    | intro _
    | split
    | dsimp only)

theorem execDownlinkNoOpportunity_ends {r : Fin 2} {s : State} : Ends 35184405643392 s (execDownlinkNoOpportunity r s) := by
  have hm : sub 35184405643392 35184405643392 = true := rfl
  have h₀ : Only 35184405643392 s s := Only.refl s
  unfold execDownlinkNoOpportunity
  try dsimp only
  repeat' (first
    | with_reducible first
      | exact h₀
      | exact Only.refl _
      | refine Ends.next ?_
      | refine noOpportunity_only (sub_mid rfl hm) ?_
      | refine whenUp_only (sub_mid rfl hm) ?_ ?_
      | refine only_of_fst (by assumption) ?_
    | intro _
    | split
    | dsimp only)

/-! ### PlcCommands -/

theorem execTimeFrame_ends {meet : GuardMeet} {s : State} : Ends 4573968408314112 s (execTimeFrame meet s) := by
  have hm : sub 4573968408314112 4573968408314112 = true := rfl
  have h₀ : Only 4573968408314112 s s := Only.refl s
  unfold execTimeFrame
  try dsimp only
  repeat' (first
    | with_reducible first
      | exact h₀
      | exact Only.refl _
      | refine Ends.next ?_
      | refine timeFrame_only (sub_mid rfl hm) ?_
      | refine whenUp_only (sub_mid rfl hm) ?_ ?_
      | refine only_of_fst (by assumption) ?_
    | intro _
    | split
    | dsimp only)

theorem execPlcBundleCell_ends {air : Nat} {meet : GuardMeet} {s : State} : Ends 4573969482055952 s (execPlcBundleCell air meet s) := by
  have hm : sub 4573969482055952 4573969482055952 = true := rfl
  have h₀ : Only 4573969482055952 s s := Only.refl s
  unfold execPlcBundleCell
  try dsimp only
  repeat' (first
    | with_reducible first
      | exact h₀
      | exact Only.refl _
      | refine Ends.next ?_
      | refine plcBundleCell_only (sub_mid rfl hm) ?_
      | refine whenUp_only (sub_mid rfl hm) ?_ ?_
      | refine only_of_fst (by assumption) ?_
    | intro _
    | split
    | dsimp only)

theorem execPlcFrameReceive_ends {psdu : Octets} {meet : PlcMeet} {fcsValue : BitVec 16} {snr : Byte} {s : State} : Ends 4573968406216960 s (execPlcFrameReceive psdu meet fcsValue snr s) := by
  have hm : sub 4573968406216960 4573968406216960 = true := rfl
  have h₀ : Only 4573968406216960 s s := Only.refl s
  unfold execPlcFrameReceive
  try dsimp only
  repeat' (first
    | with_reducible first
      | exact h₀
      | exact Only.refl _
      | refine Ends.next ?_
      | refine plcReceive_only (sub_mid rfl hm) ?_
      | refine whenUp_only (sub_mid rfl hm) ?_ ?_
      | refine only_of_fst (by assumption) ?_
    | intro _
    | split
    | dsimp only)

theorem execPlcAckReceive_ends {ours : Bool} {s : State} : Ends 70368777732352 s (execPlcAckReceive ours s) := by
  have hm : sub 70368777732352 70368777732352 = true := rfl
  have h₀ : Only 70368777732352 s s := Only.refl s
  unfold execPlcAckReceive
  try dsimp only
  repeat' (first
    | with_reducible first
      | exact h₀
      | exact Only.refl _
      | refine Ends.next ?_
      | refine plcAck_only (sub_mid rfl hm) ?_
      | refine whenUp_only (sub_mid rfl hm) ?_ ?_
      | refine only_of_fst (by assumption) ?_
    | intro _
    | split
    | dsimp only)

theorem execPlcAckWaitExpiry_ends {s : State} : Ends 70368777732352 s (execPlcAckWaitExpiry s) := by
  have hm : sub 70368777732352 70368777732352 = true := rfl
  have h₀ : Only 70368777732352 s s := Only.refl s
  unfold execPlcAckWaitExpiry
  try dsimp only
  repeat' (first
    | with_reducible first
      | exact h₀
      | exact Only.refl _
      | refine Ends.next ?_
      | refine plcAckExpiry_only (sub_mid rfl hm) ?_
      | refine whenUp_only (sub_mid rfl hm) ?_ ?_
      | refine only_of_fst (by assumption) ?_
    | intro _
    | split
    | dsimp only)

theorem execPlcReportMiss_ends {lantern : Fin 2048} {cycle : Int} {s : State} : Ends 70368777732352 s (execPlcReportMiss lantern cycle s) := by
  have hm : sub 70368777732352 70368777732352 = true := rfl
  have h₀ : Only 70368777732352 s s := Only.refl s
  unfold execPlcReportMiss
  try dsimp only
  repeat' (first
    | with_reducible first
      | exact h₀
      | exact Only.refl _
      | refine Ends.next ?_
      | refine plcReportEnd_only (sub_mid rfl hm) ?_
      | refine whenUp_only (sub_mid rfl hm) ?_ ?_
      | refine only_of_fst (by assumption) ?_
    | intro _
    | split
    | dsimp only)

theorem execPlcDownlinkQueue_ends {l : Lane} {handle : Byte} {dst : BitVec 11} {len : Byte} {s : State} : Ends 22515661674643455 s (execPlcDownlinkQueue l handle dst len s) := by
  have hm : sub 22515661674643455 22515661674643455 = true := rfl
  have h₀ : Only 22515661674643455 s s := Only.refl s
  unfold execPlcDownlinkQueue
  try dsimp only
  repeat' (first
    | with_reducible first
      | exact h₀
      | exact Only.refl _
      | refine Ends.next ?_
      | refine commandStore_only (sub_mid rfl hm) ?_
      | refine only_of_fst (by assumption) ?_
    | intro _
    | split
    | dsimp only)

theorem execPlcAssignmentPending_ends {l : Lane} {lantern : Fin 2048} {dly : Bool} {value : Word} {s : State} : Ends 22515661674643455 s (execPlcAssignmentPending l lantern dly value s) := by
  have hm : sub 22515661674643455 22515661674643455 = true := rfl
  have h₀ : Only 22515661674643455 s s := Only.refl s
  unfold execPlcAssignmentPending
  try dsimp only
  repeat' (first
    | with_reducible first
      | exact h₀
      | exact Only.refl _
      | refine Ends.next ?_
      | refine commandStore_only (sub_mid rfl hm) ?_
      | refine only_of_fst (by assumption) ?_
    | intro _
    | split
    | dsimp only)

theorem execStart_ends {l : Lane} {s : State} : Ends 22515661674643455 s (execStart l s) := by
  have hm : sub 22515661674643455 22515661674643455 = true := rfl
  have h₀ : Only 22515661674643455 s s := Only.refl s
  unfold execStart
  try dsimp only
  repeat' (first
    | with_reducible first
      | exact h₀
      | exact Only.refl _
      | refine Ends.next ?_
      | refine commandStore_only (sub_mid rfl hm) ?_
      | refine only_of_fst (by assumption) ?_
    | intro _
    | split
    | dsimp only)

theorem execBaseline_ends {l : Lane} {slot : BitVec 3} {s : State} : Ends 22515661674643455 s (execBaseline l slot s) := by
  have hm : sub 22515661674643455 22515661674643455 = true := rfl
  have h₀ : Only 22515661674643455 s s := Only.refl s
  unfold execBaseline
  try dsimp only
  repeat' (first
    | with_reducible first
      | exact h₀
      | exact Only.refl _
      | refine Ends.next ?_
      | refine commandStore_only (sub_mid rfl hm) ?_
      | refine only_of_fst (by assumption) ?_
    | intro _
    | split
    | dsimp only)

theorem execAbort_ends {l : Lane} {s : State} : Ends 22515661674643455 s (execAbort l s) := by
  have hm : sub 22515661674643455 22515661674643455 = true := rfl
  have h₀ : Only 22515661674643455 s s := Only.refl s
  unfold execAbort
  try dsimp only
  repeat' (first
    | with_reducible first
      | exact h₀
      | exact Only.refl _
      | refine Ends.next ?_
      | refine commandStore_only (sub_mid rfl hm) ?_
      | refine only_of_fst (by assumption) ?_
    | intro _
    | split
    | dsimp only)

theorem execReflectDisable_ends {l : Lane} {s : State} : Ends 22515661674643455 s (execReflectDisable l s) := by
  have hm : sub 22515661674643455 22515661674643455 = true := rfl
  have h₀ : Only 22515661674643455 s s := Only.refl s
  unfold execReflectDisable
  try dsimp only
  repeat' (first
    | with_reducible first
      | exact h₀
      | exact Only.refl _
      | refine Ends.next ?_
      | refine commandStore_only (sub_mid rfl hm) ?_
      | refine only_of_fst (by assumption) ?_
    | intro _
    | split
    | dsimp only)

theorem execReflectRunStart_ends {noise : List (List Int)} {s : State} : Ends 140857781002496 s (execReflectRunStart noise s) := by
  have hm : sub 140857781002496 140857781002496 = true := rfl
  have h₀ : Only 140857781002496 s s := Only.refl s
  unfold execReflectRunStart
  try dsimp only
  repeat' (first
    | with_reducible first
      | exact h₀
      | exact Only.refl _
      | refine Ends.next ?_
      | refine rflStart_only (sub_mid rfl hm) ?_
      | refine whenUp_only (sub_mid rfl hm) ?_ ?_
      | refine only_of_fst (by assumption) ?_
    | intro _
    | split
    | dsimp only)

theorem execShot_ends {capture : List Int} {clipped : Bool} {poison : Bool} {s : State} : Ends 140857782051072 s (execShot capture clipped poison s) := by
  have hm : sub 140857782051072 140857782051072 = true := rfl
  have h₀ : Only 140857782051072 s s := Only.refl s
  unfold execShot
  try dsimp only
  repeat' (first
    | with_reducible first
      | exact h₀
      | exact Only.refl _
      | refine Ends.next ?_
      | refine rflShot_only (sub_mid rfl hm) ?_
      | refine whenUp_only (sub_mid rfl hm) ?_ ?_
      | refine only_of_fst (by assumption) ?_
    | intro _
    | split
    | dsimp only)

theorem execReflectProcess_ends {s : State} : Ends 140857781002496 s (execReflectProcess s) := by
  have hm : sub 140857781002496 140857781002496 = true := rfl
  have h₀ : Only 140857781002496 s s := Only.refl s
  unfold execReflectProcess
  try dsimp only
  repeat' (first
    | with_reducible first
      | exact h₀
      | exact Only.refl _
      | refine Ends.next ?_
      | refine rflProcess_only (sub_mid rfl hm) ?_
      | refine whenUp_only (sub_mid rfl hm) ?_ ?_
      | refine only_of_fst (by assumption) ?_
    | intro _
    | split
    | dsimp only)

theorem execBaselineWriteDone_ends {s : State} : Ends 140857781002496 s (execBaselineWriteDone s) := by
  have hm : sub 140857781002496 140857781002496 = true := rfl
  have h₀ : Only 140857781002496 s s := Only.refl s
  unfold execBaselineWriteDone
  try dsimp only
  repeat' (first
    | with_reducible first
      | exact h₀
      | exact Only.refl _
      | refine Ends.next ?_
      | refine baselineDone_only (sub_mid rfl hm) ?_
      | refine whenUp_only (sub_mid rfl hm) ?_ ?_
      | refine only_of_fst (by assumption) ?_
    | intro _
    | split
    | dsimp only)

theorem execQuietWindowEnd_ends {s : State} : Ends 140857781002496 s (execQuietWindowEnd s) := by
  have hm : sub 140857781002496 140857781002496 = true := rfl
  have h₀ : Only 140857781002496 s s := Only.refl s
  unfold execQuietWindowEnd
  try dsimp only
  repeat' (first
    | with_reducible first
      | exact h₀
      | exact Only.refl _
      | refine Ends.next ?_
      | refine quietEnd_only (sub_mid rfl hm) ?_
      | refine whenUp_only (sub_mid rfl hm) ?_ ?_
      | refine only_of_fst (by assumption) ?_
    | intro _
    | split
    | dsimp only)

/-! ### BackhaulCommands -/

theorem execLinkUp_ends {p : Fin 2} {speed : BitVec 2} {half : Bool} {s : State} : Ends 4521191813416448 s (execLinkUp p speed half s) := by
  have hm : sub 4521191813416448 4521191813416448 = true := rfl
  have h₀ : Only 4521191813416448 s s := Only.refl s
  unfold execLinkUp
  try dsimp only
  repeat' (first
    | with_reducible first
      | exact h₀
      | exact Only.refl _
      | refine Ends.next ?_
      | refine linkUp_only (sub_mid rfl hm) ?_
      | refine whenUp_only (sub_mid rfl hm) ?_ ?_
      | refine only_of_fst (by assumption) ?_
    | intro _
    | split
    | dsimp only)

theorem execLinkDown_ends {p : Fin 2} {s : State} : Ends 17592186045952 s (execLinkDown p s) := by
  have hm : sub 17592186045952 17592186045952 = true := rfl
  have h₀ : Only 17592186045952 s s := Only.refl s
  unfold execLinkDown
  try dsimp only
  repeat' (first
    | with_reducible first
      | exact h₀
      | exact Only.refl _
      | refine Ends.next ?_
      | refine linkDown_only (sub_mid rfl hm) ?_
      | refine whenUp_only (sub_mid rfl hm) ?_ ?_
      | refine only_of_fst (by assumption) ?_
    | intro _
    | split
    | dsimp only)

theorem execBhFrameReceive_ends {p : Fin 2} {symbol : Nat} {frame : Octets} {meet : RxMeet} {s : State} : Ends 22535591389300294 s (execBhFrameReceive p symbol frame meet s) := by
  have hm : sub 22535591389300294 22535591389300294 = true := rfl
  have h₀ : Only 22535591389300294 s s := Only.refl s
  unfold execBhFrameReceive
  try dsimp only
  repeat' (first
    | with_reducible first
      | exact h₀
      | exact Only.refl _
      | refine Ends.next ?_
      | refine bhReceive_only (sub_mid rfl hm) ?_
      | refine whenUp_only (sub_mid rfl hm) ?_ ?_
      | refine only_of_fst (by assumption) ?_
    | intro _
    | split
    | dsimp only)

theorem execHsrForward_ends {p : Fin 2} {symbol : Nat} {meet : TxMeet} {s : State} : Ends 22535590323947010 s (execHsrForward p symbol meet s) := by
  have hm : sub 22535590323947010 22535590323947010 = true := rfl
  have h₀ : Only 22535590323947010 s s := Only.refl s
  unfold execHsrForward
  try dsimp only
  repeat' (first
    | with_reducible first
      | exact h₀
      | exact Only.refl _
      | refine Ends.next ?_
      | refine forward_only (sub_mid rfl hm) ?_
      | refine whenUp_only (sub_mid rfl hm) ?_ ?_
      | refine only_of_fst (by assumption) ?_
    | intro _
    | split
    | dsimp only)

theorem execTxTailWrite_ends {l : Lane} {p : Fin 2} {value : Word} {s : State} : Ends 22515661674643455 s (execTxTailWrite l p value s) := by
  have hm : sub 22515661674643455 22515661674643455 = true := rfl
  have h₀ : Only 22515661674643455 s s := Only.refl s
  unfold execTxTailWrite
  try dsimp only
  repeat' (first
    | with_reducible first
      | exact h₀
      | exact Only.refl _
      | refine Ends.next ?_
      | refine commandStore_only (sub_mid rfl hm) ?_
      | refine only_of_fst (by assumption) ?_
    | intro _
    | split
    | dsimp only)

theorem execTxFrameSend_ends {p : Fin 2} {symbol : Nat} {meet : TxMeet} {s : State} : Ends 22535590323947010 s (execTxFrameSend p symbol meet s) := by
  have hm : sub 22535590323947010 22535590323947010 = true := rfl
  have h₀ : Only 22535590323947010 s s := Only.refl s
  unfold execTxFrameSend
  try dsimp only
  repeat' (first
    | with_reducible first
      | exact h₀
      | exact Only.refl _
      | refine Ends.next ?_
      | refine txSend_only (sub_mid rfl hm) ?_
      | refine whenUp_only (sub_mid rfl hm) ?_ ?_
      | refine only_of_fst (by assumption) ?_
    | intro _
    | split
    | dsimp only)

theorem execDescriptorWriteback_ends {s : State} : Ends 17592202825216 s (execDescriptorWriteback s) := by
  have hm : sub 17592202825216 17592202825216 = true := rfl
  have h₀ : Only 17592202825216 s s := Only.refl s
  unfold execDescriptorWriteback
  try dsimp only
  repeat' (first
    | with_reducible first
      | exact h₀
      | exact Only.refl _
      | refine Ends.next ?_
      | refine writeBackNext_only (sub_mid rfl hm) ?_
      | refine whenUp_only (sub_mid rfl hm) ?_ ?_
      | refine only_of_fst (by assumption) ?_
    | intro _
    | split
    | dsimp only)

theorem execVerifyMpacketTimer_ends {p : Fin 2} {s : State} : Ends 4521191813416448 s (execVerifyMpacketTimer p s) := by
  have hm : sub 4521191813416448 4521191813416448 = true := rfl
  have h₀ : Only 4521191813416448 s s := Only.refl s
  unfold execVerifyMpacketTimer
  try dsimp only
  repeat' (first
    | with_reducible first
      | exact h₀
      | exact Only.refl _
      | refine Ends.next ?_
      | refine verifyTimer_only (sub_mid rfl hm) ?_
      | refine whenUp_only (sub_mid rfl hm) ?_ ?_
      | refine only_of_fst (by assumption) ?_
    | intro _
    | split
    | dsimp only)

theorem execRespondMpacketReceive_ends {p : Fin 2} {s : State} : Ends 17592186045952 s (execRespondMpacketReceive p s) := by
  have hm : sub 17592186045952 17592186045952 = true := rfl
  have h₀ : Only 17592186045952 s s := Only.refl s
  unfold execRespondMpacketReceive
  try dsimp only
  repeat' (first
    | with_reducible first
      | exact h₀
      | exact Only.refl _
      | refine Ends.next ?_
      | refine respond_only (sub_mid rfl hm) ?_
      | refine whenUp_only (sub_mid rfl hm) ?_ ?_
      | refine only_of_fst (by assumption) ?_
    | intro _
    | split
    | dsimp only)

theorem execPauseReceive_ends {p : Fin 2} {pfc : Bool} {mask : Byte} {quanta : List Nat} {s : State} : Ends 17592186045952 s (execPauseReceive p pfc mask quanta s) := by
  have hm : sub 17592186045952 17592186045952 = true := rfl
  have h₀ : Only 17592186045952 s s := Only.refl s
  unfold execPauseReceive
  try dsimp only
  repeat' (first
    | with_reducible first
      | exact h₀
      | exact Only.refl _
      | refine Ends.next ?_
      | refine pauseReceive_only (sub_mid rfl hm) ?_
      | refine whenUp_only (sub_mid rfl hm) ?_ ?_
      | refine only_of_fst (by assumption) ?_
    | intro _
    | split
    | dsimp only)

theorem execPauseExpiry_ends {p : Fin 2} {tc : Fin 8} {s : State} : Ends 17592186044416 s (execPauseExpiry p tc s) := by
  have hm : sub 17592186044416 17592186044416 = true := rfl
  have h₀ : Only 17592186044416 s s := Only.refl s
  unfold execPauseExpiry
  try dsimp only
  repeat' (first
    | with_reducible first
      | exact h₀
      | exact Only.refl _
      | refine Ends.next ?_
      | refine pauseExpiry_only (sub_mid rfl hm) ?_
      | refine whenUp_only (sub_mid rfl hm) ?_ ?_
      | refine only_of_fst (by assumption) ?_
    | intro _
    | split
    | dsimp only)

theorem execPauseWatchdogExpiry_ends {p : Fin 2} {tc : Fin 8} {s : State} : Ends 17592186045952 s (execPauseWatchdogExpiry p tc s) := by
  have hm : sub 17592186045952 17592186045952 = true := rfl
  have h₀ : Only 17592186045952 s s := Only.refl s
  unfold execPauseWatchdogExpiry
  try dsimp only
  repeat' (first
    | with_reducible first
      | exact h₀
      | exact Only.refl _
      | refine Ends.next ?_
      | refine pauseWatchdog_only (sub_mid rfl hm) ?_
      | refine whenUp_only (sub_mid rfl hm) ?_ ?_
      | refine only_of_fst (by assumption) ?_
    | intro _
    | split
    | dsimp only)

theorem execDuplicateEntryForget_ends {src : BitVec 48} {s : State} : Ends 17592186044416 s (execDuplicateEntryForget src s) := by
  have hm : sub 17592186044416 17592186044416 = true := rfl
  have h₀ : Only 17592186044416 s s := Only.refl s
  unfold execDuplicateEntryForget
  try dsimp only
  repeat' (first
    | with_reducible first
      | exact h₀
      | exact Only.refl _
      | refine Ends.next ?_
      | refine dupForget_only (sub_mid rfl hm) ?_
      | refine whenUp_only (sub_mid rfl hm) ?_ ?_
      | refine only_of_fst (by assumption) ?_
    | intro _
    | split
    | dsimp only)

theorem execEnter_ends {l : Lane} {key : BitVec 16} {enter : Bool} {s : State} : Ends 22515661674643455 s (execEnter l key enter s) := by
  have hm : sub 22515661674643455 22515661674643455 = true := rfl
  have h₀ : Only 22515661674643455 s s := Only.refl s
  unfold execEnter
  try dsimp only
  repeat' (first
    | with_reducible first
      | exact h₀
      | exact Only.refl _
      | refine Ends.next ?_
      | refine commandStore_only (sub_mid rfl hm) ?_
      | refine only_of_fst (by assumption) ?_
    | intro _
    | split
    | dsimp only)

theorem execDrWakeTime_ends {s : State} : Ends 17592664196612 s (execDrWakeTime s) := by
  have hm : sub 17592664196612 17592664196612 = true := rfl
  have h₀ : Only 17592664196612 s s := Only.refl s
  unfold execDrWakeTime
  try dsimp only
  repeat' (first
    | with_reducible first
      | exact h₀
      | exact Only.refl _
      | refine Ends.next ?_
      | refine drWakeTime_only (sub_mid rfl hm) ?_
      | refine whenUp_only (sub_mid rfl hm) ?_ ?_
      | refine only_of_fst (by assumption) ?_
    | intro _
    | split
    | dsimp only)

theorem execHeartbeatRestToggle_ends {s : State} : Ends 562949953421312 s (execHeartbeatRestToggle s) := by
  have hm : sub 562949953421312 562949953421312 = true := rfl
  have h₀ : Only 562949953421312 s s := Only.refl s
  unfold execHeartbeatRestToggle
  try dsimp only
  repeat' (first
    | with_reducible first
      | exact h₀
      | exact Only.refl _
      | refine Ends.next ?_
      | refine heartbeatRest_only (sub_mid rfl hm) ?_
      | refine whenUp_only (sub_mid rfl hm) ?_ ?_
      | refine only_of_fst (by assumption) ?_
    | intro _
    | split
    | dsimp only)

theorem execPbFrameReceive_ends {frame : Octets} {good : Bool} {s : State} : Ends 17592220649472 s (execPbFrameReceive frame good s) := by
  have hm : sub 17592220649472 17592220649472 = true := rfl
  have h₀ : Only 17592220649472 s s := Only.refl s
  unfold execPbFrameReceive
  try dsimp only
  repeat' (first
    | with_reducible first
      | exact h₀
      | exact Only.refl _
      | refine Ends.next ?_
      | refine pbReceive_only (sub_mid rfl hm) ?_
      | refine whenUp_only (sub_mid rfl hm) ?_ ?_
      | refine only_of_fst (by assumption) ?_
    | intro _
    | split
    | dsimp only)

theorem execPbFrameTransmit_ends {carrier : Bool} {poison : Bool} {s : State} : Ends 4521191814465536 s (execPbFrameTransmit carrier poison s) := by
  have hm : sub 4521191814465536 4521191814465536 = true := rfl
  have h₀ : Only 4521191814465536 s s := Only.refl s
  unfold execPbFrameTransmit
  try dsimp only
  repeat' (first
    | with_reducible first
      | exact h₀
      | exact Only.refl _
      | refine Ends.next ?_
      | refine pbSend_only (sub_mid rfl hm) ?_
      | refine whenUp_only (sub_mid rfl hm) ?_ ?_
      | refine only_of_fst (by assumption) ?_
    | intro _
    | split
    | dsimp only)

theorem execPbCollision_ends {late : Bool} {s : State} : Ends 18031990695528448 s (execPbCollision late s) := by
  have hm : sub 18031990695528448 18031990695528448 = true := rfl
  have h₀ : Only 18031990695528448 s s := Only.refl s
  unfold execPbCollision
  try dsimp only
  repeat' (first
    | with_reducible first
      | exact h₀
      | exact Only.refl _
      | refine Ends.next ?_
      | refine pbCollision_only (sub_mid rfl hm) ?_
      | refine whenUp_only (sub_mid rfl hm) ?_ ?_
      | refine only_of_fst (by assumption) ?_
    | intro _
    | split
    | dsimp only)

theorem execPbBackoffExpiry_ends {s : State} : Ends 17592186044416 s (execPbBackoffExpiry s) := by
  have hm : sub 17592186044416 17592186044416 = true := rfl
  have h₀ : Only 17592186044416 s s := Only.refl s
  unfold execPbBackoffExpiry
  try dsimp only
  repeat' (first
    | with_reducible first
      | exact h₀
      | exact Only.refl _
      | refine Ends.next ?_
      | refine pbBackoff_only (sub_mid rfl hm) ?_
      | refine whenUp_only (sub_mid rfl hm) ?_ ?_
      | refine only_of_fst (by assumption) ?_
    | intro _
    | split
    | dsimp only)

/-! ### MeterCommands -/

theorem execMeteringSample_ends {raw : List Int} {s : State} : Ends 18023194637111296 s (execMeteringSample raw s) := by
  have hm : sub 18023194637111296 18023194637111296 = true := rfl
  have h₀ : Only 18023194637111296 s s := Only.refl s
  unfold execMeteringSample
  try dsimp only
  repeat' (first
    | with_reducible first
      | exact h₀
      | exact Only.refl _
      | refine Ends.next ?_
      | refine meterSample_only (sub_mid rfl hm) ?_
      | refine whenUp_only (sub_mid rfl hm) ?_ ?_
      | refine only_of_fst (by assumption) ?_
    | intro _
    | split
    | dsimp only)

theorem execCrossingTimeout_ends {phase : Fin 3} {s : State} : Ends 18023194637111296 s (execCrossingTimeout phase s) := by
  have hm : sub 18023194637111296 18023194637111296 = true := rfl
  have h₀ : Only 18023194637111296 s s := Only.refl s
  unfold execCrossingTimeout
  try dsimp only
  repeat' (first
    | with_reducible first
      | exact h₀
      | exact Only.refl _
      | refine Ends.next ?_
      | refine crossingTimeout_only (sub_mid rfl hm) ?_
      | refine whenUp_only (sub_mid rfl hm) ?_ ?_
      | refine only_of_fst (by assumption) ?_
    | intro _
    | split
    | dsimp only)

theorem execFreeWindowEnd_ends {phase : Fin 3} {s : State} : Ends 18023194637111296 s (execFreeWindowEnd phase s) := by
  have hm : sub 18023194637111296 18023194637111296 = true := rfl
  have h₀ : Only 18023194637111296 s s := Only.refl s
  unfold execFreeWindowEnd
  try dsimp only
  repeat' (first
    | with_reducible first
      | exact h₀
      | exact Only.refl _
      | refine Ends.next ?_
      | refine freeWindowEnd_only (sub_mid rfl hm) ?_
      | refine whenUp_only (sub_mid rfl hm) ?_ ?_
      | refine only_of_fst (by assumption) ?_
    | intro _
    | split
    | dsimp only)

theorem execCreaseSummary_ends {s : State} : Ends 18023194637111296 s (execCreaseSummary s) := by
  have hm : sub 18023194637111296 18023194637111296 = true := rfl
  have h₀ : Only 18023194637111296 s s := Only.refl s
  unfold execCreaseSummary
  try dsimp only
  repeat' (first
    | with_reducible first
      | exact h₀
      | exact Only.refl _
      | refine Ends.next ?_
      | refine settleAll_only (sub_mid rfl hm) ?_
      | refine registerSummaries_only (sub_mid rfl hm) ?_
      | refine whenUp_only (sub_mid rfl hm) ?_ ?_
      | refine only_of_fst (by assumption) ?_
    | intro _
    | split
    | dsimp only)

theorem execMeteringStart_ends {s : State} : Ends 18023194602508288 s (execMeteringStart s) := by
  have hm : sub 18023194602508288 18023194602508288 = true := rfl
  have h₀ : Only 18023194602508288 s s := Only.refl s
  unfold execMeteringStart
  try dsimp only
  repeat' (first
    | with_reducible first
      | exact h₀
      | exact Only.refl _
      | refine Ends.next ?_
      | refine meterStart_only (sub_mid rfl hm) ?_
      | refine whenUp_only (sub_mid rfl hm) ?_ ?_
      | refine only_of_fst (by assumption) ?_
    | intro _
    | split
    | dsimp only)

theorem execMeteringStop_ends {l : Lane} {raw : List Int} {s : State} : Ends 22515661674643455 s (execMeteringStop l raw s) := by
  have hm : sub 22515661674643455 22515661674643455 = true := rfl
  have h₀ : Only 22515661674643455 s s := Only.refl s
  unfold execMeteringStop
  try dsimp only
  repeat' (first
    | with_reducible first
      | exact h₀
      | exact Only.refl _
      | refine Ends.next ?_
      | refine commandStore_only (sub_mid rfl hm) ?_
      | refine stopSample_only (sub_mid rfl hm) ?_
      | refine only_of_fst (by assumption) ?_
    | intro _
    | split
    | dsimp only)

theorem execSf1PathATrip_ends {current : Nat} {time : Nat} {s : State} : Ends 26388791825924 s (execSf1PathATrip current time s) := by
  have hm : sub 26388791825924 26388791825924 = true := rfl
  have h₀ : Only 26388791825924 s s := Only.refl s
  unfold execSf1PathATrip
  try dsimp only
  repeat' (first
    | with_reducible first
      | exact h₀
      | exact Only.refl _
      | refine Ends.next ?_
      | refine sf1See_only (sub_mid rfl hm) ?_
      | refine only_of_fst (by assumption) ?_
    | intro _
    | split
    | dsimp only)

theorem execSf1PathBTrip_ends {samples : List Int} {s : State} : Ends 26388791825924 s (execSf1PathBTrip samples s) := by
  have hm : sub 26388791825924 26388791825924 = true := rfl
  have h₀ : Only 26388791825924 s s := Only.refl s
  unfold execSf1PathBTrip
  try dsimp only
  repeat' (first
    | with_reducible first
      | exact h₀
      | exact Only.refl _
      | refine Ends.next ?_
      | refine sf1See_only (sub_mid rfl hm) ?_
      | refine only_of_fst (by assumption) ?_
    | intro _
    | split
    | dsimp only)

theorem execSf1TripRelease_ends {seen : Sf1Seen} {s : State} : Ends 26388791825924 s (execSf1TripRelease seen s) := by
  have hm : sub 26388791825924 26388791825924 = true := rfl
  have h₀ : Only 26388791825924 s s := Only.refl s
  unfold execSf1TripRelease
  try dsimp only
  repeat' (first
    | with_reducible first
      | exact h₀
      | exact Only.refl _
      | refine Ends.next ?_
      | refine sf1See_only (sub_mid rfl hm) ?_
      | refine sf1Release_only (sub_mid rfl hm) ?_
      | refine only_of_fst (by assumption) ?_
    | intro _
    | split
    | dsimp only)

theorem execSf1DisagreeTimeout_ends {s : State} : Ends 8796128677888 s (execSf1DisagreeTimeout s) := by
  have hm : sub 8796128677888 8796128677888 = true := rfl
  have h₀ : Only 8796128677888 s s := Only.refl s
  unfold execSf1DisagreeTimeout
  try dsimp only
  repeat' (first
    | with_reducible first
      | exact h₀
      | exact Only.refl _
      | refine Ends.next ?_
      | refine sf1Alone_only (sub_mid rfl hm) ?_
      | refine whenUp_only (sub_mid rfl hm) ?_ ?_
      | refine only_of_fst (by assumption) ?_
    | intro _
    | split
    | dsimp only)

theorem execSf1ThrWrite_ends {l : Lane} {value : Word} {s : State} : Ends 22515661674643455 s (execSf1ThrWrite l value s) := by
  have hm : sub 22515661674643455 22515661674643455 = true := rfl
  have h₀ : Only 22515661674643455 s s := Only.refl s
  unfold execSf1ThrWrite
  try dsimp only
  repeat' (first
    | with_reducible first
      | exact h₀
      | exact Only.refl _
      | refine Ends.next ?_
      | refine commandStore_only (sub_mid rfl hm) ?_
      | refine only_of_fst (by assumption) ?_
    | intro _
    | split
    | dsimp only)

/-! ### StoreCommands -/

theorem execPstStore_ends {l : Lane} {addr : Word} {size : Nat} {value : Word} {meet : WriteMeet} {s : State} : Ends 22515661674643455 s (execPstStore l addr size value meet s) := by
  have hm : sub 22515661674643455 22515661674643455 = true := rfl
  have h₀ : Only 22515661674643455 s s := Only.refl s
  unfold execPstStore
  try dsimp only
  repeat' (first
    | with_reducible first
      | exact h₀
      | exact Only.refl _
      | refine Ends.next ?_
      | refine coreStore_only (sub_mid rfl hm) ?_
      | refine only_of_fst (by assumption) ?_
    | intro _
    | split
    | dsimp only)

theorem execPstCellWrite_ends {s : State} : Ends 140857747447808 s (execPstCellWrite s) := by
  have hm : sub 140857747447808 140857747447808 = true := rfl
  have h₀ : Only 140857747447808 s s := Only.refl s
  unfold execPstCellWrite
  try dsimp only
  repeat' (first
    | with_reducible first
      | exact h₀
      | exact Only.refl _
      | refine Ends.next ?_
      | refine pstStep_only (sub_mid rfl hm) ?_
      | refine only_of_fst (by assumption) ?_
    | intro _
    | split
    | dsimp only)

theorem execPstRead_ends {l : Lane} {addr : Word} {size : Nat} {core : CoreMeet} {meet : PstMeet} {s : State} : Ends 21273476579733004 s (execPstRead l addr size core meet s) := by
  have hm : sub 21273476579733004 21273476579733004 = true := rfl
  have h₀ : Only 21273476579733004 s s := Only.refl s
  unfold execPstRead
  try dsimp only
  repeat' (first
    | with_reducible first
      | exact h₀
      | exact Only.refl _
      | refine Ends.next ?_
      | refine coreLoad_only (sub_mid rfl hm) ?_
      | refine only_of_fst (by assumption) ?_
    | intro _
    | split
    | dsimp only)

theorem execPstDrainRead_ends {l : Lane} {parity : Bool} {s : State} : Ends 21273476579733004 s (execPstDrainRead l parity s) := by
  have hm : sub 21273476579733004 21273476579733004 = true := rfl
  have h₀ : Only 21273476579733004 s s := Only.refl s
  unfold execPstDrainRead
  try dsimp only
  repeat' (first
    | with_reducible first
      | exact h₀
      | exact Only.refl _
      | refine Ends.next ?_
      | refine laneRead_only (sub_mid rfl hm) ?_
      | refine only_of_fst (by assumption) ?_
    | intro _
    | split
    | dsimp only)

theorem execOpsecTick_ends {s : State} : Ends 51539615744 s (execOpsecTick s) := by
  have hm : sub 51539615744 51539615744 = true := rfl
  have h₀ : Only 51539615744 s s := Only.refl s
  unfold execOpsecTick
  try dsimp only
  repeat' (first
    | with_reducible first
      | exact h₀
      | exact Only.refl _
      | refine Ends.next ?_
      | refine pstAdvance_only (sub_mid rfl hm) ?_
      | refine only_of_fst (by assumption) ?_
    | intro _
    | split
    | dsimp only)

theorem execRecorderWriteDone_ends {s : State} : Ends 140857747464192 s (execRecorderWriteDone s) := by
  have hm : sub 140857747464192 140857747464192 = true := rfl
  have h₀ : Only 140857747464192 s s := Only.refl s
  unfold execRecorderWriteDone
  try dsimp only
  repeat' (first
    | with_reducible first
      | exact h₀
      | exact Only.refl _
      | refine Ends.next ?_
      | refine recorderDone_only (sub_mid rfl hm) ?_
      | refine whenUp_only (sub_mid rfl hm) ?_ ?_
      | refine only_of_fst (by assumption) ?_
    | intro _
    | split
    | dsimp only)

/-! ### RtcCommands -/

theorem execRtcSecondTick_ends {s : State} : Ends 4398046543872 s (execRtcSecondTick s) := by
  have hm : sub 4398046543872 4398046543872 = true := rfl
  have h₀ : Only 4398046543872 s s := Only.refl s
  unfold execRtcSecondTick
  try dsimp only
  repeat' (first
    | with_reducible first
      | exact h₀
      | exact Only.refl _
      | refine Ends.next ?_
      | refine rtcTick_only (sub_mid rfl hm) ?_
      | refine only_of_fst (by assumption) ?_
    | intro _
    | split
    | dsimp only)

theorem execRtcTrimStep_ends {prescaler : BitVec 15} {s : State} : Ends 4398046543872 s (execRtcTrimStep prescaler s) := by
  have hm : sub 4398046543872 4398046543872 = true := rfl
  have h₀ : Only 4398046543872 s s := Only.refl s
  unfold execRtcTrimStep
  try dsimp only
  repeat' (first
    | with_reducible first
      | exact h₀
      | exact Only.refl _
      | refine Ends.next ?_
      | refine trimStep_only (sub_mid rfl hm) ?_
      | refine only_of_fst (by assumption) ?_
    | intro _
    | split
    | dsimp only)

theorem execTimeGroupRead_ends {l : Lane} {date : Bool} {prescaler : BitVec 15} {parity : Bool} {s : State} : Ends 21273476579733004 s (execTimeGroupRead l date prescaler parity s) := by
  have hm : sub 21273476579733004 21273476579733004 = true := rfl
  have h₀ : Only 21273476579733004 s s := Only.refl s
  unfold execTimeGroupRead
  try dsimp only
  repeat' (first
    | with_reducible first
      | exact h₀
      | exact Only.refl _
      | refine Ends.next ?_
      | refine prescalerAt_only (sub_mid rfl hm) ?_
      | refine laneRead_only (sub_mid rfl hm) ?_
      | refine only_of_fst (by assumption) ?_
    | intro _
    | split
    | dsimp only)

theorem execFreezeTimeout_ends {l : Lane} {s : State} : Ends 4398046543872 s (execFreezeTimeout l s) := by
  have hm : sub 4398046543872 4398046543872 = true := rfl
  have h₀ : Only 4398046543872 s s := Only.refl s
  unfold execFreezeTimeout
  try dsimp only
  repeat' (first
    | with_reducible first
      | exact h₀
      | exact Only.refl _
      | refine Ends.next ?_
      | refine freezeTimeout_only (sub_mid rfl hm) ?_
      | refine only_of_fst (by assumption) ?_
    | intro _
    | split
    | dsimp only)

theorem execCommit_ends {l : Lane} {key : BitVec 16} {s : State} : Ends 22515661674643455 s (execCommit l key s) := by
  have hm : sub 22515661674643455 22515661674643455 = true := rfl
  have h₀ : Only 22515661674643455 s s := Only.refl s
  unfold execCommit
  try dsimp only
  repeat' (first
    | with_reducible first
      | exact h₀
      | exact Only.refl _
      | refine Ends.next ?_
      | refine commandStore_only (sub_mid rfl hm) ?_
      | refine only_of_fst (by assumption) ?_
    | intro _
    | split
    | dsimp only)

theorem execAddHour_ends {l : Lane} {key : BitVec 16} {s : State} : Ends 22515661674643455 s (execAddHour l key s) := by
  have hm : sub 22515661674643455 22515661674643455 = true := rfl
  have h₀ : Only 22515661674643455 s s := Only.refl s
  unfold execAddHour
  try dsimp only
  repeat' (first
    | with_reducible first
      | exact h₀
      | exact Only.refl _
      | refine Ends.next ?_
      | refine commandStore_only (sub_mid rfl hm) ?_
      | refine only_of_fst (by assumption) ?_
    | intro _
    | split
    | dsimp only)

theorem execSubHour_ends {l : Lane} {key : BitVec 16} {s : State} : Ends 22515661674643455 s (execSubHour l key s) := by
  have hm : sub 22515661674643455 22515661674643455 = true := rfl
  have h₀ : Only 22515661674643455 s s := Only.refl s
  unfold execSubHour
  try dsimp only
  repeat' (first
    | with_reducible first
      | exact h₀
      | exact Only.refl _
      | refine Ends.next ?_
      | refine commandStore_only (sub_mid rfl hm) ?_
      | refine only_of_fst (by assumption) ?_
    | intro _
    | split
    | dsimp only)

theorem execPonSet_ends {l : Lane} {key : BitVec 16} {s : State} : Ends 22515661674643455 s (execPonSet l key s) := by
  have hm : sub 22515661674643455 22515661674643455 = true := rfl
  have h₀ : Only 22515661674643455 s s := Only.refl s
  unfold execPonSet
  try dsimp only
  repeat' (first
    | with_reducible first
      | exact h₀
      | exact Only.refl _
      | refine Ends.next ?_
      | refine commandStore_only (sub_mid rfl hm) ?_
      | refine only_of_fst (by assumption) ?_
    | intro _
    | split
    | dsimp only)

theorem execPonClr_ends {l : Lane} {key : BitVec 16} {s : State} : Ends 22515661674643455 s (execPonClr l key s) := by
  have hm : sub 22515661674643455 22515661674643455 = true := rfl
  have h₀ : Only 22515661674643455 s s := Only.refl s
  unfold execPonClr
  try dsimp only
  repeat' (first
    | with_reducible first
      | exact h₀
      | exact Only.refl _
      | refine Ends.next ?_
      | refine commandStore_only (sub_mid rfl hm) ?_
      | refine only_of_fst (by assumption) ?_
    | intro _
    | split
    | dsimp only)

theorem execRtcMark_ends {prescaler : BitVec 15} {s : State} : Ends 4398113652736 s (execRtcMark prescaler s) := by
  have hm : sub 4398113652736 4398113652736 = true := rfl
  have h₀ : Only 4398113652736 s s := Only.refl s
  unfold execRtcMark
  try dsimp only
  repeat' (first
    | with_reducible first
      | exact h₀
      | exact Only.refl _
      | refine Ends.next ?_
      | refine rtcMark_only (sub_mid rfl hm) ?_
      | refine whenUp_only (sub_mid rfl hm) ?_ ?_
      | refine only_of_fst (by assumption) ?_
    | intro _
    | split
    | dsimp only)

theorem execOscillatorStop_ends {s : State} : Ends 4398046543872 s (execOscillatorStop s) := by
  have hm : sub 4398046543872 4398046543872 = true := rfl
  have h₀ : Only 4398046543872 s s := Only.refl s
  unfold execOscillatorStop
  try dsimp only
  repeat' (first
    | with_reducible first
      | exact h₀
      | exact Only.refl _
      | refine Ends.next ?_
      | refine oscStop_only (sub_mid rfl hm) ?_
      | refine only_of_fst (by assumption) ?_
    | intro _
    | split
    | dsimp only)

theorem execOscillatorResume_ends {s : State} : Ends 4398046511104 s (execOscillatorResume s) := by
  have hm : sub 4398046511104 4398046511104 = true := rfl
  have h₀ : Only 4398046511104 s s := Only.refl s
  unfold execOscillatorResume
  try dsimp only
  repeat' (first
    | with_reducible first
      | exact h₀
      | exact Only.refl _
      | refine Ends.next ?_
      | refine oscResume_only (sub_mid rfl hm) ?_
      | refine only_of_fst (by assumption) ?_
    | intro _
    | split
    | dsimp only)

theorem execSwitchToVbat_ends {prescaler : BitVec 15} {s : State} : Ends 4398046543872 s (execSwitchToVbat prescaler s) := by
  have hm : sub 4398046543872 4398046543872 = true := rfl
  have h₀ : Only 4398046543872 s s := Only.refl s
  unfold execSwitchToVbat
  try dsimp only
  repeat' (first
    | with_reducible first
      | exact h₀
      | exact Only.refl _
      | refine Ends.next ?_
      | refine toVbat_only (sub_mid rfl hm) ?_
      | refine only_of_fst (by assumption) ?_
    | intro _
    | split
    | dsimp only)

theorem execSwitchToVmain_ends {s : State} : Ends 4398046511104 s (execSwitchToVmain s) := by
  have hm : sub 4398046511104 4398046511104 = true := rfl
  have h₀ : Only 4398046511104 s s := Only.refl s
  unfold execSwitchToVmain
  try dsimp only
  repeat' (first
    | with_reducible first
      | exact h₀
      | exact Only.refl _
      | refine Ends.next ?_
      | refine toVmain_only (sub_mid rfl hm) ?_
      | refine only_of_fst (by assumption) ?_
    | intro _
    | split
    | dsimp only)

/-! ### KeyCommands -/

theorem execRootRecovery_ends {array : Octets} {s : State} : Ends 274877972480 s (execRootRecovery array s) := by
  have hm : sub 274877972480 274877972480 = true := rfl
  have h₀ : Only 274877972480 s s := Only.refl s
  unfold execRootRecovery
  try dsimp only
  repeat' (first
    | with_reducible first
      | exact h₀
      | exact Only.refl _
      | refine Ends.next ?_
      | refine rootRecovery_only (sub_mid rfl hm) ?_
      | refine whenUp_only (sub_mid rfl hm) ?_ ?_
      | refine only_of_fst (by assumption) ?_
    | intro _
    | split
    | dsimp only)

theorem execHelperMirrorWrite_ends {s : State} : Ends 141132625420288 s (execHelperMirrorWrite s) := by
  have hm : sub 141132625420288 141132625420288 = true := rfl
  have h₀ : Only 141132625420288 s s := Only.refl s
  unfold execHelperMirrorWrite
  try dsimp only
  repeat' (first
    | with_reducible first
      | exact h₀
      | exact Only.refl _
      | refine Ends.next ?_
      | refine mirrorWrite_only (sub_mid rfl hm) ?_
      | refine whenUp_only (sub_mid rfl hm) ?_ ?_
      | refine only_of_fst (by assumption) ?_
    | intro _
    | split
    | dsimp only)

theorem execTransition_ends {l : Lane} {key : BitVec 16} {user : Bool} {s : State} : Ends 22515661674643455 s (execTransition l key user s) := by
  have hm : sub 22515661674643455 22515661674643455 = true := rfl
  have h₀ : Only 22515661674643455 s s := Only.refl s
  unfold execTransition
  try dsimp only
  repeat' (first
    | with_reducible first
      | exact h₀
      | exact Only.refl _
      | refine Ends.next ?_
      | refine laneStore_only (sub_mid rfl hm) ?_
      | refine only_of_fst (by assumption) ?_
    | intro _
    | split
    | dsimp only)

theorem execImportBlob_ends {l : Lane} {key : BitVec 16} {user : Bool} {s : State} : Ends 22515661674643455 s (execImportBlob l key user s) := by
  have hm : sub 22515661674643455 22515661674643455 = true := rfl
  have h₀ : Only 22515661674643455 s s := Only.refl s
  unfold execImportBlob
  try dsimp only
  repeat' (first
    | with_reducible first
      | exact h₀
      | exact Only.refl _
      | refine Ends.next ?_
      | refine laneStore_only (sub_mid rfl hm) ?_
      | refine only_of_fst (by assumption) ?_
    | intro _
    | split
    | dsimp only)

theorem execDerive_ends {l : Lane} {key : BitVec 16} {user : Bool} {s : State} : Ends 22515661674643455 s (execDerive l key user s) := by
  have hm : sub 22515661674643455 22515661674643455 = true := rfl
  have h₀ : Only 22515661674643455 s s := Only.refl s
  unfold execDerive
  try dsimp only
  repeat' (first
    | with_reducible first
      | exact h₀
      | exact Only.refl _
      | refine Ends.next ?_
      | refine laneStore_only (sub_mid rfl hm) ?_
      | refine only_of_fst (by assumption) ?_
    | intro _
    | split
    | dsimp only)

theorem execClear_ends {l : Lane} {key : BitVec 16} {user : Bool} {s : State} : Ends 22515661674643455 s (execClear l key user s) := by
  have hm : sub 22515661674643455 22515661674643455 = true := rfl
  have h₀ : Only 22515661674643455 s s := Only.refl s
  unfold execClear
  try dsimp only
  repeat' (first
    | with_reducible first
      | exact h₀
      | exact Only.refl _
      | refine Ends.next ?_
      | refine laneStore_only (sub_mid rfl hm) ?_
      | refine only_of_fst (by assumption) ?_
    | intro _
    | split
    | dsimp only)

theorem execEnrolpuf_ends {l : Lane} {key : BitVec 16} {user : Bool} {reads : List Octets} {s : State} : Ends 22515661674643455 s (execEnrolpuf l key user reads s) := by
  have hm : sub 22515661674643455 22515661674643455 = true := rfl
  have h₀ : Only 22515661674643455 s s := Only.refl s
  unfold execEnrolpuf
  try dsimp only
  repeat' (first
    | with_reducible first
      | exact h₀
      | exact Only.refl _
      | refine Ends.next ?_
      | refine laneStore_only (sub_mid rfl hm) ?_
      | refine only_of_fst (by assumption) ?_
    | intro _
    | split
    | dsimp only)

theorem execCryJob_ends {l : Lane} {addr : Word} {user : Bool} {s : State} : Ends 22515661674643455 s (execCryJob l addr user s) := by
  have hm : sub 22515661674643455 22515661674643455 = true := rfl
  have h₀ : Only 22515661674643455 s s := Only.refl s
  unfold execCryJob
  try dsimp only
  repeat' (first
    | with_reducible first
      | exact h₀
      | exact Only.refl _
      | refine Ends.next ?_
      | refine laneStore_only (sub_mid rfl hm) ?_
      | refine only_of_fst (by assumption) ?_
    | intro _
    | split
    | dsimp only)

theorem execCryJobComplete_ends {poison : Bool} {s : State} : Ends 18015223160176640 s (execCryJobComplete poison s) := by
  have hm : sub 18015223160176640 18015223160176640 = true := rfl
  have h₀ : Only 18015223160176640 s s := Only.refl s
  unfold execCryJobComplete
  try dsimp only
  repeat' (first
    | with_reducible first
      | exact h₀
      | exact Only.refl _
      | refine Ends.next ?_
      | refine cryComplete_only (sub_mid rfl hm) ?_
      | refine whenUp_only (sub_mid rfl hm) ?_ ?_
      | refine only_of_fst (by assumption) ?_
    | intro _
    | split
    | dsimp only)

/-! ### LoaderCommands -/

theorem execProgram_ends {l : Lane} {key : BitVec 16} {s : State} : Ends 22515661674643455 s (execProgram l key s) := by
  have hm : sub 22515661674643455 22515661674643455 = true := rfl
  have h₀ : Only 22515661674643455 s s := Only.refl s
  unfold execProgram
  try dsimp only
  repeat' (first
    | with_reducible first
      | exact h₀
      | exact Only.refl _
      | refine Ends.next ?_
      | refine commandStore_only (sub_mid rfl hm) ?_
      | refine only_of_fst (by assumption) ?_
    | intro _
    | split
    | dsimp only)

theorem execErase_ends {l : Lane} {key : BitVec 16} {s : State} : Ends 22515661674643455 s (execErase l key s) := by
  have hm : sub 22515661674643455 22515661674643455 = true := rfl
  have h₀ : Only 22515661674643455 s s := Only.refl s
  unfold execErase
  try dsimp only
  repeat' (first
    | with_reducible first
      | exact h₀
      | exact Only.refl _
      | refine Ends.next ?_
      | refine commandStore_only (sub_mid rfl hm) ?_
      | refine only_of_fst (by assumption) ?_
    | intro _
    | split
    | dsimp only)

theorem execAcmOperationDone_ends {fail : Bool} {s : State} : Ends 18296972998082560 s (execAcmOperationDone fail s) := by
  have hm : sub 18296972998082560 18296972998082560 = true := rfl
  have h₀ : Only 18296972998082560 s s := Only.refl s
  unfold execAcmOperationDone
  try dsimp only
  repeat' (first
    | with_reducible first
      | exact h₀
      | exact Only.refl _
      | refine Ends.next ?_
      | refine acmDone_only (sub_mid rfl hm) ?_
      | refine whenUp_only (sub_mid rfl hm) ?_ ?_
      | refine only_of_fst (by assumption) ?_
    | intro _
    | split
    | dsimp only)

theorem execVerify_ends {l : Lane} {key : BitVec 16} {slot : BitVec 2} {s : State} : Ends 22515661674643455 s (execVerify l key slot s) := by
  have hm : sub 22515661674643455 22515661674643455 = true := rfl
  have h₀ : Only 22515661674643455 s s := Only.refl s
  unfold execVerify
  try dsimp only
  repeat' (first
    | with_reducible first
      | exact h₀
      | exact Only.refl _
      | refine Ends.next ?_
      | refine commandStore_only (sub_mid rfl hm) ?_
      | refine only_of_fst (by assumption) ?_
    | intro _
    | split
    | dsimp only)

theorem execSchedule_ends {l : Lane} {key : BitVec 16} {kind : BitVec 2} {cslot : Bool} {fslot : Bool} {s : State} : Ends 22515661674643455 s (execSchedule l key kind cslot fslot s) := by
  have hm : sub 22515661674643455 22515661674643455 = true := rfl
  have h₀ : Only 22515661674643455 s s := Only.refl s
  unfold execSchedule
  try dsimp only
  repeat' (first
    | with_reducible first
      | exact h₀
      | exact Only.refl _
      | refine Ends.next ?_
      | refine commandStore_only (sub_mid rfl hm) ?_
      | refine only_of_fst (by assumption) ?_
    | intro _
    | split
    | dsimp only)

theorem execCancel_ends {l : Lane} {key : BitVec 16} {s : State} : Ends 22515661674643455 s (execCancel l key s) := by
  have hm : sub 22515661674643455 22515661674643455 = true := rfl
  have h₀ : Only 22515661674643455 s s := Only.refl s
  unfold execCancel
  try dsimp only
  repeat' (first
    | with_reducible first
      | exact h₀
      | exact Only.refl _
      | refine Ends.next ?_
      | refine commandStore_only (sub_mid rfl hm) ?_
      | refine only_of_fst (by assumption) ?_
    | intro _
    | split
    | dsimp only)

theorem execSaveCopyDone_ends {fail : Bool} {s : State} : Ends 20689630592835584 s (execSaveCopyDone fail s) := by
  have hm : sub 20689630592835584 20689630592835584 = true := rfl
  have h₀ : Only 20689630592835584 s s := Only.refl s
  unfold execSaveCopyDone
  try dsimp only
  repeat' (first
    | with_reducible first
      | exact h₀
      | exact Only.refl _
      | refine Ends.next ?_
      | refine saveDone_only (sub_mid rfl hm) ?_
      | refine whenUp_only (sub_mid rfl hm) ?_ ?_
      | refine only_of_fst (by assumption) ?_
    | intro _
    | split
    | dsimp only)

theorem execUpdateActivation_ends {s : State} : Ends 22515661674643455 s (execUpdateActivation s) := by
  have hm : sub 22515661674643455 22515661674643455 = true := rfl
  have h₀ : Only 22515661674643455 s s := Only.refl s
  unfold execUpdateActivation
  try dsimp only
  repeat' (first
    | with_reducible first
      | exact h₀
      | exact Only.refl _
      | refine Ends.next ?_
      | refine activate_only (sub_mid rfl hm) ?_
      | refine whenUp_only (sub_mid rfl hm) ?_ ?_
      | refine only_of_fst (by assumption) ?_
    | intro _
    | split
    | dsimp only)

theorem execActivationDeferExpiry_ends {s : State} : Ends 2674132571660288 s (execActivationDeferExpiry s) := by
  have hm : sub 2674132571660288 2674132571660288 = true := rfl
  have h₀ : Only 2674132571660288 s s := Only.refl s
  unfold execActivationDeferExpiry
  try dsimp only
  repeat' (first
    | with_reducible first
      | exact h₀
      | exact Only.refl _
      | refine Ends.next ?_
      | refine deferExpiry_only (sub_mid rfl hm) ?_
      | refine whenUp_only (sub_mid rfl hm) ?_ ?_
      | refine only_of_fst (by assumption) ?_
    | intro _
    | split
    | dsimp only)

theorem execCodeStoreWritten_ends {s : State} : Ends 2674132571660288 s (execCodeStoreWritten s) := by
  have hm : sub 2674132571660288 2674132571660288 = true := rfl
  have h₀ : Only 2674132571660288 s s := Only.refl s
  unfold execCodeStoreWritten
  try dsimp only
  repeat' (first
    | with_reducible first
      | exact h₀
      | exact Only.refl _
      | refine Ends.next ?_
      | refine codeWritten_only (sub_mid rfl hm) ?_
      | refine whenUp_only (sub_mid rfl hm) ?_ ?_
      | refine only_of_fst (by assumption) ?_
    | intro _
    | split
    | dsimp only)

theorem execVerdict_ends {l : Lane} {key : BitVec 16} {pass : Bool} {cause : Byte} {s : State} : Ends 22515661674643455 s (execVerdict l key pass cause s) := by
  have hm : sub 22515661674643455 22515661674643455 = true := rfl
  have h₀ : Only 22515661674643455 s s := Only.refl s
  unfold execVerdict
  try dsimp only
  repeat' (first
    | with_reducible first
      | exact h₀
      | exact Only.refl _
      | refine Ends.next ?_
      | refine commandStore_only (sub_mid rfl hm) ?_
      | refine only_of_fst (by assumption) ?_
    | intro _
    | split
    | dsimp only)

theorem execTrialDeadline_ends {s : State} : Ends 3254679956631052 s (execTrialDeadline s) := by
  have hm : sub 3254679956631052 3254679956631052 = true := rfl
  have h₀ : Only 3254679956631052 s s := Only.refl s
  unfold execTrialDeadline
  try dsimp only
  repeat' (first
    | with_reducible first
      | exact h₀
      | exact Only.refl _
      | refine Ends.next ?_
      | refine trialDeadline_only (sub_mid rfl hm) ?_
      | refine whenUp_only (sub_mid rfl hm) ?_ ?_
      | refine only_of_fst (by assumption) ?_
    | intro _
    | split
    | dsimp only)

theorem execCommittingCopyDone_ends {s : State} : Ends 2674132571660288 s (execCommittingCopyDone s) := by
  have hm : sub 2674132571660288 2674132571660288 = true := rfl
  have h₀ : Only 2674132571660288 s s := Only.refl s
  unfold execCommittingCopyDone
  try dsimp only
  repeat' (first
    | with_reducible first
      | exact h₀
      | exact Only.refl _
      | refine Ends.next ?_
      | refine committed_only (sub_mid rfl hm) ?_
      | refine whenUp_only (sub_mid rfl hm) ?_ ?_
      | refine only_of_fst (by assumption) ?_
    | intro _
    | split
    | dsimp only)

theorem execRollbackRestoreDone_ends {s : State} : Ends 22515661674643455 s (execRollbackRestoreDone s) := by
  have hm : sub 22515661674643455 22515661674643455 = true := rfl
  have h₀ : Only 22515661674643455 s s := Only.refl s
  unfold execRollbackRestoreDone
  try dsimp only
  repeat' (first
    | with_reducible first
      | exact h₀
      | exact Only.refl _
      | refine Ends.next ?_
      | refine restored_only (sub_mid rfl hm) ?_
      | refine whenUp_only (sub_mid rfl hm) ?_ ?_
      | refine only_of_fst (by assumption) ?_
    | intro _
    | split
    | dsimp only)

/-! ### DmaCommands -/

theorem execDmaTailWrite_ends {l : Lane} {ch : Fin 16} {value : Word} {s : State} : Ends 22515661674643455 s (execDmaTailWrite l ch value s) := by
  have hm : sub 22515661674643455 22515661674643455 = true := rfl
  have h₀ : Only 22515661674643455 s s := Only.refl s
  unfold execDmaTailWrite
  try dsimp only
  repeat' (first
    | with_reducible first
      | exact h₀
      | exact Only.refl _
      | refine Ends.next ?_
      | refine commandStore_only (sub_mid rfl hm) ?_
      | refine only_of_fst (by assumption) ?_
    | intro _
    | split
    | dsimp only)

theorem execCopy_ends {ch : Fin 16} {descBad : Bool} {meet : BusErrors} {s : State} : Ends 18155260705513480 s (execCopy ch descBad meet s) := by
  have hm : sub 18155260705513480 18155260705513480 = true := rfl
  have h₀ : Only 18155260705513480 s s := Only.refl s
  unfold execCopy
  try dsimp only
  repeat' (first
    | with_reducible first
      | exact h₀
      | exact Only.refl _
      | refine Ends.next ?_
      | refine dmaStart_only (sub_mid rfl hm) ?_
      | refine whenUp_only (sub_mid rfl hm) ?_ ?_
      | refine only_of_fst (by assumption) ?_
    | intro _
    | split
    | dsimp only)

theorem execGather_ends {ch : Fin 16} {descBad : Bool} {meet : BusErrors} {s : State} : Ends 18155260705513480 s (execGather ch descBad meet s) := by
  have hm : sub 18155260705513480 18155260705513480 = true := rfl
  have h₀ : Only 18155260705513480 s s := Only.refl s
  unfold execGather
  try dsimp only
  repeat' (first
    | with_reducible first
      | exact h₀
      | exact Only.refl _
      | refine Ends.next ?_
      | refine dmaStart_only (sub_mid rfl hm) ?_
      | refine whenUp_only (sub_mid rfl hm) ?_ ?_
      | refine only_of_fst (by assumption) ?_
    | intro _
    | split
    | dsimp only)

theorem execFill_ends {ch : Fin 16} {descBad : Bool} {meet : BusErrors} {s : State} : Ends 18155260705513480 s (execFill ch descBad meet s) := by
  have hm : sub 18155260705513480 18155260705513480 = true := rfl
  have h₀ : Only 18155260705513480 s s := Only.refl s
  unfold execFill
  try dsimp only
  repeat' (first
    | with_reducible first
      | exact h₀
      | exact Only.refl _
      | refine Ends.next ?_
      | refine dmaStart_only (sub_mid rfl hm) ?_
      | refine whenUp_only (sub_mid rfl hm) ?_ ?_
      | refine only_of_fst (by assumption) ?_
    | intro _
    | split
    | dsimp only)

theorem execCompare_ends {ch : Fin 16} {descBad : Bool} {meet : BusErrors} {s : State} : Ends 18155260705513480 s (execCompare ch descBad meet s) := by
  have hm : sub 18155260705513480 18155260705513480 = true := rfl
  have h₀ : Only 18155260705513480 s s := Only.refl s
  unfold execCompare
  try dsimp only
  repeat' (first
    | with_reducible first
      | exact h₀
      | exact Only.refl _
      | refine Ends.next ?_
      | refine dmaStart_only (sub_mid rfl hm) ?_
      | refine whenUp_only (sub_mid rfl hm) ?_ ?_
      | refine only_of_fst (by assumption) ?_
    | intro _
    | split
    | dsimp only)

theorem execDmaDescriptorComplete_ends {ch : Fin 16} {s : State} : Ends 140862042939392 s (execDmaDescriptorComplete ch s) := by
  have hm : sub 140862042939392 140862042939392 = true := rfl
  have h₀ : Only 140862042939392 s s := Only.refl s
  unfold execDmaDescriptorComplete
  try dsimp only
  repeat' (first
    | with_reducible first
      | exact h₀
      | exact Only.refl _
      | refine Ends.next ?_
      | refine dmaComplete_only (sub_mid rfl hm) ?_
      | refine whenUp_only (sub_mid rfl hm) ?_ ?_
      | refine only_of_fst (by assumption) ?_
    | intro _
    | split
    | dsimp only)

theorem execDmaResponseTimeout_ends {ch : Fin 16} {done : Nat} {s : State} : Ends 140862042939392 s (execDmaResponseTimeout ch done s) := by
  have hm : sub 140862042939392 140862042939392 = true := rfl
  have h₀ : Only 140862042939392 s s := Only.refl s
  unfold execDmaResponseTimeout
  try dsimp only
  repeat' (first
    | with_reducible first
      | exact h₀
      | exact Only.refl _
      | refine Ends.next ?_
      | refine dmaTimeout_only (sub_mid rfl hm) ?_
      | refine whenUp_only (sub_mid rfl hm) ?_ ?_
      | refine only_of_fst (by assumption) ?_
    | intro _
    | split
    | dsimp only)

theorem execCompletionRecordWrite_ends {s : State} : Ends 4312268800 s (execCompletionRecordWrite s) := by
  have hm : sub 4312268800 4312268800 = true := rfl
  have h₀ : Only 4312268800 s s := Only.refl s
  unfold execCompletionRecordWrite
  try dsimp only
  repeat' (first
    | with_reducible first
      | exact h₀
      | exact Only.refl _
      | refine Ends.next ?_
      | refine dmaRecordWrite_only (sub_mid rfl hm) ?_
      | refine whenUp_only (sub_mid rfl hm) ?_ ?_
      | refine only_of_fst (by assumption) ?_
    | intro _
    | split
    | dsimp only)

theorem execFlush_ends {l : Lane} {q : Fin 17} {writing : Bool} {s : State} : Ends 22515661674643455 s (execFlush l q writing s) := by
  have hm : sub 22515661674643455 22515661674643455 = true := rfl
  have h₀ : Only 22515661674643455 s s := Only.refl s
  unfold execFlush
  try dsimp only
  repeat' (first
    | with_reducible first
      | exact h₀
      | exact Only.refl _
      | refine Ends.next ?_
      | refine laneStore_only (sub_mid rfl hm) ?_
      | refine only_of_fst (by assumption) ?_
    | intro _
    | split
    | dsimp only)

theorem execDrop_ends {l : Lane} {q : Fin 17} {writing : Bool} {s : State} : Ends 22515661674643455 s (execDrop l q writing s) := by
  have hm : sub 22515661674643455 22515661674643455 = true := rfl
  have h₀ : Only 22515661674643455 s s := Only.refl s
  unfold execDrop
  try dsimp only
  repeat' (first
    | with_reducible first
      | exact h₀
      | exact Only.refl _
      | refine Ends.next ?_
      | refine laneStore_only (sub_mid rfl hm) ?_
      | refine only_of_fst (by assumption) ?_
    | intro _
    | split
    | dsimp only)

theorem execDcqWordRead_ends {q : Fin 17} {bad : Bool} {s : State} : Ends 17600810582016 s (execDcqWordRead q bad s) := by
  have hm : sub 17600810582016 17600810582016 = true := rfl
  have h₀ : Only 17600810582016 s s := Only.refl s
  unfold execDcqWordRead
  try dsimp only
  repeat' (first
    | with_reducible first
      | exact h₀
      | exact Only.refl _
      | refine Ends.next ?_
      | refine dcqRead_only (sub_mid rfl hm) ?_
      | refine whenUp_only (sub_mid rfl hm) ?_ ?_
      | refine only_of_fst (by assumption) ?_
    | intro _
    | split
    | dsimp only)

/-! ### SafetyCommands -/

theorem execBistLaneA_ends {l : Lane} {key : BitVec 16} {s : State} : Ends 22515661674643455 s (execBistLaneA l key s) := by
  have hm : sub 22515661674643455 22515661674643455 = true := rfl
  have h₀ : Only 22515661674643455 s s := Only.refl s
  unfold execBistLaneA
  try dsimp only
  repeat' (first
    | with_reducible first
      | exact h₀
      | exact Only.refl _
      | refine Ends.next ?_
      | refine commandStore_only (sub_mid rfl hm) ?_
      | refine only_of_fst (by assumption) ?_
    | intro _
    | split
    | dsimp only)

theorem execBistLaneB_ends {l : Lane} {key : BitVec 16} {s : State} : Ends 22515661674643455 s (execBistLaneB l key s) := by
  have hm : sub 22515661674643455 22515661674643455 = true := rfl
  have h₀ : Only 22515661674643455 s s := Only.refl s
  unfold execBistLaneB
  try dsimp only
  repeat' (first
    | with_reducible first
      | exact h₀
      | exact Only.refl _
      | refine Ends.next ?_
      | refine commandStore_only (sub_mid rfl hm) ?_
      | refine only_of_fst (by assumption) ?_
    | intro _
    | split
    | dsimp only)

theorem execBistPeriodicDue_ends {s : State} : Ends 562949955518464 s (execBistPeriodicDue s) := by
  have hm : sub 562949955518464 562949955518464 = true := rfl
  have h₀ : Only 562949955518464 s s := Only.refl s
  unfold execBistPeriodicDue
  try dsimp only
  repeat' (first
    | with_reducible first
      | exact h₀
      | exact Only.refl _
      | refine Ends.next ?_
      | refine bistPeriodic_only (sub_mid rfl hm) ?_
      | refine whenUp_only (sub_mid rfl hm) ?_ ?_
      | refine only_of_fst (by assumption) ?_
    | intro _
    | split
    | dsimp only)

theorem execBistComplete_ends {result : BistResult} {s : State} : Ends 562950014238729 s (execBistComplete result s) := by
  have hm : sub 562950014238729 562950014238729 = true := rfl
  have h₀ : Only 562950014238729 s s := Only.refl s
  unfold execBistComplete
  try dsimp only
  repeat' (first
    | with_reducible first
      | exact h₀
      | exact Only.refl _
      | refine Ends.next ?_
      | refine bistDone_only (sub_mid rfl hm) ?_
      | refine whenUp_only (sub_mid rfl hm) ?_ ?_
      | refine only_of_fst (by assumption) ?_
    | intro _
    | split
    | dsimp only)

theorem execDetectPathA_ends {l : Lane} {key : BitVec 16} {s : State} : Ends 22515661674643455 s (execDetectPathA l key s) := by
  have hm : sub 22515661674643455 22515661674643455 = true := rfl
  have h₀ : Only 22515661674643455 s s := Only.refl s
  unfold execDetectPathA
  try dsimp only
  repeat' (first
    | with_reducible first
      | exact h₀
      | exact Only.refl _
      | refine Ends.next ?_
      | refine commandStore_only (sub_mid rfl hm) ?_
      | refine only_of_fst (by assumption) ?_
    | intro _
    | split
    | dsimp only)

theorem execDetectPathB_ends {l : Lane} {key : BitVec 16} {s : State} : Ends 22515661674643455 s (execDetectPathB l key s) := by
  have hm : sub 22515661674643455 22515661674643455 = true := rfl
  have h₀ : Only 22515661674643455 s s := Only.refl s
  unfold execDetectPathB
  try dsimp only
  repeat' (first
    | with_reducible first
      | exact h₀
      | exact Only.refl _
      | refine Ends.next ?_
      | refine commandStore_only (sub_mid rfl hm) ?_
      | refine only_of_fst (by assumption) ?_
    | intro _
    | split
    | dsimp only)

theorem execFullPathA_ends {l : Lane} {key : BitVec 16} {s : State} : Ends 22515661674643455 s (execFullPathA l key s) := by
  have hm : sub 22515661674643455 22515661674643455 = true := rfl
  have h₀ : Only 22515661674643455 s s := Only.refl s
  unfold execFullPathA
  try dsimp only
  repeat' (first
    | with_reducible first
      | exact h₀
      | exact Only.refl _
      | refine Ends.next ?_
      | refine commandStore_only (sub_mid rfl hm) ?_
      | refine only_of_fst (by assumption) ?_
    | intro _
    | split
    | dsimp only)

theorem execFullPathB_ends {l : Lane} {key : BitVec 16} {s : State} : Ends 22515661674643455 s (execFullPathB l key s) := by
  have hm : sub 22515661674643455 22515661674643455 = true := rfl
  have h₀ : Only 22515661674643455 s s := Only.refl s
  unfold execFullPathB
  try dsimp only
  repeat' (first
    | with_reducible first
      | exact h₀
      | exact Only.refl _
      | refine Ends.next ?_
      | refine commandStore_only (sub_mid rfl hm) ?_
      | refine only_of_fst (by assumption) ?_
    | intro _
    | split
    | dsimp only)

theorem execClrblk_ends {l : Lane} {key : BitVec 16} {s : State} : Ends 22515661674643455 s (execClrblk l key s) := by
  have hm : sub 22515661674643455 22515661674643455 = true := rfl
  have h₀ : Only 22515661674643455 s s := Only.refl s
  unfold execClrblk
  try dsimp only
  repeat' (first
    | with_reducible first
      | exact h₀
      | exact Only.refl _
      | refine Ends.next ?_
      | refine commandStore_only (sub_mid rfl hm) ?_
      | refine only_of_fst (by assumption) ?_
    | intro _
    | split
    | dsimp only)

theorem execSf1TestPeriodic_ends {s : State} : Ends 562949955518464 s (execSf1TestPeriodic s) := by
  have hm : sub 562949955518464 562949955518464 = true := rfl
  have h₀ : Only 562949955518464 s s := Only.refl s
  unfold execSf1TestPeriodic
  try dsimp only
  repeat' (first
    | with_reducible first
      | exact h₀
      | exact Only.refl _
      | refine Ends.next ?_
      | refine sf1Periodic_only (sub_mid rfl hm) ?_
      | refine whenUp_only (sub_mid rfl hm) ?_ ?_
      | refine only_of_fst (by assumption) ?_
    | intro _
    | split
    | dsimp only)

theorem execSf1TestComplete_ends {time : Option Nat} {ok : Bool} {s : State} : Ends 18577348498554880 s (execSf1TestComplete time ok s) := by
  have hm : sub 18577348498554880 18577348498554880 = true := rfl
  have h₀ : Only 18577348498554880 s s := Only.refl s
  unfold execSf1TestComplete
  try dsimp only
  repeat' (first
    | with_reducible first
      | exact h₀
      | exact Only.refl _
      | refine Ends.next ?_
      | refine sf1TestDone_only (sub_mid rfl hm) ?_
      | refine whenUp_only (sub_mid rfl hm) ?_ ?_
      | refine only_of_fst (by assumption) ?_
    | intro _
    | split
    | dsimp only)

theorem execRinseRead_ends {a : RinseMeet} {b : RinseMeet} {s : State} : Ends 3254680023739916 s (execRinseRead a b s) := by
  have hm : sub 3254680023739916 3254680023739916 = true := rfl
  have h₀ : Only 3254680023739916 s s := Only.refl s
  unfold execRinseRead
  try dsimp only
  repeat' (first
    | with_reducible first
      | exact h₀
      | exact Only.refl _
      | refine Ends.next ?_
      | refine rinseRead_only (sub_mid rfl hm) ?_
      | refine whenUp_only (sub_mid rfl hm) ?_ ?_
      | refine only_of_fst (by assumption) ?_
    | intro _
    | split
    | dsimp only)

end Sys2Proof.Machine
end

