-- ==== Sys2Proof/Laws/Stores.lean ====
section
/-!
SUPPORT. What the stores to the registers of the lanterns, the channels and the queues, the stores that give a function's enable a value, and the last stores of the command
registers do where they take effect (R9, R15, R17, R28).
-/
namespace Sys2Proof.Machine
set_option Elab.async false

/-! ### Registers that stand many times -/

/-- A row that has no place for the instances `lo + n * st`: it ends at or below `lo`, or stands beside them at the same distance. -/
def RegRow.apart (r : RegRow) (lo st : Nat) : Bool :=
  !r.port && decide (0 < r.stride) && (decide (r.base + r.count * r.stride ≤ lo) || (r.words == 1 && r.stride == st && decide (r.base ≤ lo) && decide (4 ≤ (lo - r.base) % st)))

theorem place_apart {r : RegRow} {lo st n : Nat} (h : r.apart lo st = true) : r.place (lo + n * st) = none := by
  unfold RegRow.apart at h
  simp only [Bool.and_eq_true, Bool.or_eq_true, Bool.not_eq_true', decide_eq_true_eq, beq_iff_eq] at h
  obtain ⟨⟨h1, h2⟩, h3 | ⟨⟨⟨h4, h5⟩, h6⟩, h7⟩⟩ := h
  · have : ¬ ((lo + n * st - r.base) / r.stride < r.count) := by
      rw [Nat.div_lt_iff_lt_mul h2]; omega
    simp [RegRow.place, RegRow.placeAt, h1, this]
  · have e : (lo + n * st - r.base) % r.stride = (lo - r.base) % st := by
      rw [show lo + n * st - r.base = lo - r.base + n * st by omega, h5, Nat.add_mul_mod_self_right]
    have : ¬ ((lo + n * st - r.base) % r.stride / 4 < r.words) := by rw [e, h4]; omega
    simp [RegRow.place, RegRow.placeAt, h1, this]

theorem find_skip {pre post : List RegRow} {r : RegRow} {lo st n : Nat} {q : RegPlace} (h : pre.all (fun r => r.apart lo st) = true)
    (hq : r.place (lo + n * st) = some q) : (pre ++ r :: post).findSome? (·.place (lo + n * st)) = some q := by
  induction pre with
  | nil => simp [hq]
  | cons x xs ih =>
    rw [List.all_cons, Bool.and_eq_true] at h
    simp [place_apart h.1, ih h.2]

/-- The place of each instance of a row of one word that no earlier row covers. -/
theorem find_row {L : List RegRow} {r : RegRow} {k a n : Nat} (hb : blockRegs a = L) (hL : L = L.take k ++ r :: L.drop (k + 1))
    (h : (decide (0x40000000 ≤ r.base) && (L.take k).all (fun r' => r'.apart r.base r.stride) && r.words == 1 && decide (0 < r.stride)) = true)
    (hn : n < r.count) (ha : a = r.base + n * r.stride) : findReg a = some ⟨r, 0, n, 0⟩ := by
  simp only [Bool.and_eq_true, decide_eq_true_eq, beq_iff_eq] at h
  obtain ⟨⟨⟨h0, hp⟩, hw⟩, hs⟩ := h
  have e : r.place a = some ⟨r, 0, n, 0⟩ := by
    unfold RegRow.place RegRow.placeAt
    simp [ha, hw, hn, Nat.mul_div_cancel _ hs]
  unfold findReg
  subst ha
  rw [if_neg (by omega), hb, hL]
  exact find_skip hp e

theorem single_row {r : RegRow} {a n : Nat} (h : findReg a = some ⟨r, 0, n, 0⟩) (hw : r.words = 1) : single a = true := by
  simp [single, h, hw]

/-- The rows of the registers that stand once for each lantern. -/
def rfmLantern : RegRow := regsRFM[25]'(by decide)
def plmLantern : RegRow := regsPLM[26]'(by decide)
def plmDelay : RegRow := regsPLM[27]'(by decide)

theorem block_rfm {a : Nat} (h : a / 0x10000 % 0x4000 = 7) : blockRegs a = regsRFM := by unfold blockRegs; rw [h]; rfl
theorem block_plm {a : Nat} (h : a / 0x10000 % 0x4000 = 8) : blockRegs a = regsPLM := by unfold blockRegs; rw [h]; rfl

/-- A store to a command register at an address that a variable gives. -/
theorem store_command_at {s t : State} {l : Lane} {a v w : Nat} {x : WriteMeet} (h : s.serves l) (hx : x.parity = false) (hw : v % 2 ^ 32 = w)
    (h1 : 0x40000000 ≤ a ∧ a < 0x40160000) (h4 : a % 4 = 0) (hs : a ≠ 0x40030100) (hg : single a = true)
    (hv : ¬(s.rtc.onVbat ∧ 0x400F0000 ≤ a ∧ a < 0x40100000)) (hl : s.writeLock l a w = none)
    (he : ∀ p, s.takeEffect (.service l) p a w x = t) : s.laneStore l a 4 v x = t := by
  rw [laneStore_serves h hx h1 h4 hs, hw]
  obtain ⟨p, _, e⟩ := performWrite_single (x := x) (org := .service l) hv hg rfl hl
  rw [e, he]

theorem lock_rfm {s : State} {l : Lane} {a v : Nat} (h : a / 0x10000 % 0x4000 = 7) (h1 : s.rfmLocked a = false) (h2 : s.secLocked a v = false) : s.writeLock l a v = none := by
  unfold State.writeLock; rw [h]; simp [h1, h2]
theorem lock_plm {s : State} {l : Lane} {a v : Nat} (h : a / 0x10000 % 0x4000 = 8) (h1 : s.plmLocked a = false) (h2 : s.secLocked a v = false) : s.writeLock l a v = none := by
  unfold State.writeLock; rw [h]; simp [h1, h2]

/-- A register of the lanterns' tables is no command of the first group. -/
theorem core_tables {s : State} {o : Origin} {a v : Nat} (h : 0x40070180 ≤ a ∧ a < 0x40090000) : s.commandCore o a v = none := by
  unfold State.commandCore
  iterate 11 rw [if_neg (by omega)]
theorem links_ltab {s : State} {n v : Nat} (hn : n < 2048) : s.commandLinks (0x40078000 + 16 * n) v = some (s.ltabWrite n v) := by
  unfold State.commandLinks
  iterate 2 rw [if_neg (by omega)]
  rw [if_pos (by omega), show (0x40078000 + 16 * n) % 0x8000 / 16 = n by omega]
theorem links_plcTab {s : State} {n v : Nat} (hn : n < 2048) : s.commandLinks (0x40088000 + 16 * n) v = some (s.plcTabWrite n v) := by
  unfold State.commandLinks
  iterate 5 rw [if_neg (by omega)]
  rw [if_pos (by omega), show (0x40088000 + 16 * n) % 0x8000 / 16 = n by omega]
theorem links_plcDly {s : State} {n v : Nat} (hn : n < 2048) : s.commandLinks (0x40088004 + 16 * n) v = some (s.plcDlyWrite n (bits v 0 16)) := by
  unfold State.commandLinks
  iterate 6 rw [if_neg (by omega)]
  rw [if_pos (by omega), show (0x40088004 + 16 * n) % 0x8000 / 16 = n by omega]

theorem ltab_find (n : Nat) (hn : n < 2048) : findReg (0x40078000 + 16 * n) = some ⟨rfmLantern, 0, n, 0⟩ := by
  refine find_row (L := regsRFM) (r := rfmLantern) (k := 25) ?_ rfl (by decide) hn (by show _ = 0x40078000 + n * 16; omega)
  exact block_rfm (by omega)
theorem plcTab_find (n : Nat) (hn : n < 2048) : findReg (0x40088000 + 16 * n) = some ⟨plmLantern, 0, n, 0⟩ := by
  refine find_row (L := regsPLM) (r := plmLantern) (k := 26) ?_ rfl (by decide) hn (by show _ = 0x40088000 + n * 16; omega)
  exact block_plm (by omega)
theorem plcDly_find (n : Nat) (hn : n < 2048) : findReg (0x40088004 + 16 * n) = some ⟨plmDelay, 0, n, 0⟩ := by
  refine find_row (L := regsPLM) (r := plmDelay) (k := 27) ?_ rfl (by decide) hn (by show _ = 0x40088004 + n * 16; omega)
  exact block_plm (by omega)

theorem rfmLocked_ltab {s : State} {a : Nat} (h : 0x40070280 ≤ a) : s.rfmLocked a = false := by
  have h1 : (a == 0x40070010) = false := by simp; omega
  have h2 : (a == 0x40070018) = false := by simp; omega
  have h3 : (a == 0x40070014) = false := by simp; omega
  have h4 : (a == 0x4007001C) = false := by simp; omega
  have h5 : (a == 0x40070020) = false := by simp; omega
  have h6 : decide (a < 0x40070240) = false := by simp; omega
  have h7 : decide (a < 0x40070280) = false := by simp; omega
  simp [State.rfmLocked, h1, h2, h3, h4, h5, h6, h7]
theorem plmLocked_tab {s : State} {a : Nat} (h : 0x40080450 ≤ a) : s.plmLocked a = false := by
  have h1 : (a == 0x40080010) = false := by simp; omega
  have h2 : (a == 0x40080400) = false := by simp; omega
  have h3 : (a == 0x40080404) = false := by simp; omega
  have h4 : (a == 0x40080408) = false := by simp; omega
  have h5 : (a == 0x40080410) = false := by simp; omega
  have h6 : decide (a < 0x40080220) = false := by simp; omega
  have h7 : decide (a < 0x40080450) = false := by simp; omega
  simp [State.plmLocked, h1, h2, h3, h4, h5, h6, h7]
theorem secLocked_tables {s : State} {a v : Nat} (h : a ≠ 0x40070028 ∧ a ≠ 0x40080018) : s.secLocked a v = false := by
  simp [State.secLocked, h.1, h.2]

theorem lanternTableWrite_serves {s : State} {l : Lane} (n : Fin 2048) (v : Word) (h : s.serves l) : execLanternTableWrite l n v s = .next (s.ltabWrite n.val v.toNat) := by
  obtain ⟨n, hn⟩ := n
  have e : (Fin.mk n hn).val = n := rfl
  rw [execLanternTableWrite, e]
  have iv := v.isLt
  exact congrArg _ (store_command_at h rfl (Nat.mod_eq_of_lt (by omega)) (by omega) (by omega) (by omega) (single_row (ltab_find n hn) rfl) (by omega)
    (lock_rfm (by omega) (rfmLocked_ltab (by omega)) (secLocked_tables (by omega))) (fun p => takeEffect_links (core_tables (by omega)) (links_ltab hn)))

/-- PLC_ASSIGNMENT_PENDING of a lantern's entry, and of its delay. -/
theorem plcAssignmentPending_serves {s : State} {l : Lane} (n : Fin 2048) (v : Word) (h : s.serves l) :
    execPlcAssignmentPending l n false v s = .next (s.plcTabWrite n.val v.toNat) := by
  obtain ⟨n, hn⟩ := n
  have e : 0x40088000 + 16 * (Fin.mk n hn).val + 4 * b2n false = 0x40088000 + 16 * n := rfl
  rw [execPlcAssignmentPending, e]
  have iv := v.isLt
  exact congrArg _ (store_command_at h rfl (Nat.mod_eq_of_lt (by omega)) (by omega) (by omega) (by omega) (single_row (plcTab_find n hn) rfl) (by omega)
    (lock_plm (by omega) (plmLocked_tab (by omega)) (secLocked_tables (by omega))) (fun p => takeEffect_links (core_tables (by omega)) (links_plcTab hn)))
theorem delay_at (a m k : Nat) (h : k = 1) : a + 16 * m + 4 * k = (a + 4) + 16 * m := by omega
theorem plcDelay_store {s : State} {l : Lane} {m : Nat} (hn : m < 2048) (v : Word) (h : s.serves l) :
    s.laneStore l (0x40088004 + 16 * m) 4 v.toNat cleanWrite = s.plcDlyWrite m (bits v.toNat 0 16) := by
  have iv := v.isLt
  exact store_command_at h rfl (Nat.mod_eq_of_lt (by omega)) (by omega) (by omega) (by omega) (single_row (plcDly_find m hn) rfl) (by omega)
    (lock_plm (by omega) (plmLocked_tab (by omega)) (secLocked_tables (by omega))) (fun p => takeEffect_links (core_tables (by omega)) (links_plcDly hn))
theorem plcDelayPending_serves {s : State} {l : Lane} (n : Fin 2048) (v : Word) (h : s.serves l) :
    execPlcAssignmentPending l n true v s = .next (s.plcDlyWrite n.val (bits v.toNat 0 16)) := by
  have e : 0x40088000 + 16 * n.val + 4 * b2n true = 0x40088004 + 16 * n.val := delay_at 0x40088000 n.val _ (by decide)
  exact (congrArg (fun a => Host.Outcome.next (s.commandStore l a v.toNat)) e).trans (congrArg _ (plcDelay_store n.isLt v h))

theorem txTail_at (p : Nat) (hp : p < 2) (a : Nat) (P : Nat → Nat → Prop) (h0 : P 0 a) (h1 : P 1 (a + 0x10000)) : P p (a + 0x10000 * p) := by
  match p with
  | 0 => exact h0
  | 1 => exact h1
theorem txTailWrite_serves {s : State} {l : Lane} (p : Fin 2) (v : Word) (h : s.serves l) : execTxTailWrite l p v s = .next (s.txTail p.val v.toNat) := by
  have iv := v.isLt
  refine congrArg _ (txTail_at p.val p.isLt 0x40090088 (fun p a => s.laneStore l a 4 v.toNat cleanWrite = s.txTail p v.toNat) ?_ ?_)
  · exact store_command h rfl (Nat.mod_eq_of_lt (by omega)) (by decide) (by simp) (by simp [State.writeLock, State.bhLocked]) (fun p => takeEffect_links rfl rfl)
  · exact store_command (a := 0x400A0088) h rfl (Nat.mod_eq_of_lt (by omega)) (by decide) (by simp) (by simp [State.writeLock, State.bhLocked]) (fun p => takeEffect_links rfl rfl)

theorem sf1ThrWrite_serves {s : State} {l : Lane} (v : Word) (h : s.serves l) : execSf1ThrWrite l v s = .next (s.sf1Thr (bits v.toNat 0 2)) := by
  have iv := v.isLt
  have hL : (findReg 0x400C0030).map (fun p => p.fields l) = some [(MTR_SF1_PATHB, .ro, true), (MTR_SF1_PATHA, .ro, true), (MTR_SF1_LOCKED, .ro, false), (MTR_SF1_THR, .rwo, false)] := rfl
  exact congrArg _ (store_register (x := cleanWrite) h rfl (Nat.mod_eq_of_lt (by omega)) (by decide) (by simp) (by simp [State.writeLock, State.mtrLocked]) hL rfl rfl rfl)

/-- The rows of the registers that stand once for each channel and each queue. -/
def dmaTail : RegRow := regsDMA[11]'(by decide)
def dmaEnable : RegRow := regsDMA[8]'(by decide)
def dcqEnable : RegRow := regsDCQ[2]'(by decide)
theorem block_dma {a : Nat} (h : a / 0x10000 % 0x4000 = 19) : blockRegs a = regsDMA := by unfold blockRegs; rw [h]; rfl
theorem block_dcq {a : Nat} (h : a / 0x10000 % 0x4000 = 20) : blockRegs a = regsDCQ := by unfold blockRegs; rw [h]; rfl
theorem dmaTail_find (n : Nat) (hn : n < 16) : findReg (0x4013010C + 32 * n) = some ⟨dmaTail, 0, n, 0⟩ :=
  find_row (L := regsDMA) (r := dmaTail) (k := 11) (block_dma (by omega)) rfl (by decide) hn (by show _ = 0x4013010C + n * 32; omega)
theorem dmaEnable_find (n : Nat) (hn : n < 16) : findReg (0x40130100 + 32 * n) = some ⟨dmaEnable, 0, n, 0⟩ :=
  find_row (L := regsDMA) (r := dmaEnable) (k := 8) (block_dma (by omega)) rfl (by decide) hn (by show _ = 0x40130100 + n * 32; omega)
theorem dcqEnable_find (n : Nat) (hn : n < 17) : findReg (0x40140100 + 16 * n) = some ⟨dcqEnable, 0, n, 0⟩ :=
  find_row (L := regsDCQ) (r := dcqEnable) (k := 2) (block_dcq (by omega)) rfl (by decide) hn (by show _ = 0x40140100 + n * 16; omega)

/-- A store to a register of one word that is no command, at an address that a variable gives. -/
theorem store_register_at {s : State} {l : Lane} {a v w : Nat} {x : WriteMeet} {p : RegPlace} (h : s.serves l) (hx : x.parity = false) (hw : v % 2 ^ 32 = w)
    (h1 : 0x40000000 ≤ a ∧ a < 0x40160000) (h4 : a % 4 = 0) (hs : a ≠ 0x40030100) (hg : findReg a = some p) (hp : p.row.words = 1 ∧ p.word = 0)
    (hv : ¬(s.rtc.onVbat ∧ 0x400F0000 ≤ a ∧ a < 0x40100000)) (hl : s.writeLock l a w = none)
    (h0 : s.commandCore (.service l) a w = none) (h2 : s.commandLinks a w = none) (h3 : s.commandControl (.service l) a w x = none) :
    s.laneStore l a 4 v x = ((p.fields l).foldl (fun (s : State) y => s.writeField y.1 y.2.1 (bits w y.1.lo y.1.width)) s).afterWrite s a w x := by
  have hs1 : single a = true := by simp [single, hg, hp.1, hp.2]
  rw [laneStore_serves h hx h1 h4 hs, hw]
  obtain ⟨q, hq, e⟩ := performWrite_single (x := x) (org := .service l) hv hs1 rfl hl
  rw [hg] at hq
  cases hq
  have e3 : (Origin.service l).lane = l := rfl
  rw [e]
  simp only [State.takeEffect, h0, h2, h3, State.writeFields, e3]

/-- A register of the DMA engine or of the dual-clock queues is no command. -/
theorem core_engines {s : State} {o : Origin} {a v : Nat} (h : 0x40130000 ≤ a ∧ a < 0x40150000) : s.commandCore o a v = none := by
  unfold State.commandCore
  iterate 11 rw [if_neg (by omega)]
theorem links_engines {s : State} {a v : Nat} (h : 0x40130000 ≤ a ∧ a < 0x40150000) : s.commandLinks a v = none := by
  unfold State.commandLinks
  iterate 11 rw [if_neg (by omega)]
theorem control_engines {s : State} {o : Origin} {a v : Nat} {x : WriteMeet} (h : 0x40130000 ≤ a ∧ a < 0x40150000) : s.commandControl o a v x = none := by
  unfold State.commandControl
  iterate 9 rw [if_neg (by omega)]
theorem lock_dma {s : State} {l : Lane} {a v : Nat} (h : a / 0x10000 % 0x4000 = 19) (h1 : s.dmaLocked a = false) : s.writeLock l a v = none := by
  unfold State.writeLock; rw [h]; simp [h1]
theorem lock_dcq {s : State} {l : Lane} {a v : Nat} (h : a / 0x10000 % 0x4000 = 20) : s.writeLock l a v = none := by
  unfold State.writeLock; rw [h]; simp
theorem dmaLocked_no {s : State} {a : Nat} (h : 0x100 ≤ a % 0x10000) (h1 : a % 32 ≠ 4) (h2 : a % 32 ≠ 8) : s.dmaLocked a = false := by
  have e1 : (a % 0x10000 % 32 == 4) = false := by simp; omega
  have e2 : (a % 0x10000 % 32 == 8) = false := by simp; omega
  unfold State.dmaLocked
  generalize a % 0x10000 = o at *
  rw [if_neg (by omega)]
  simp [e1, e2]
theorem afterWrite_dma {s t : State} {a v : Nat} {x : WriteMeet} (h : 0x40130018 ≤ a ∧ a < 0x40140000) : State.afterWrite s t a v x = s := by
  unfold State.afterWrite
  iterate 7 rw [if_neg (by omega)]

theorem dmaTailWrite_serves {s : State} {l : Lane} (n : Fin 16) (v : Word) (h : s.serves l) :
    execDmaTailWrite l n v s = .next (s.writeField (DMA_CH_W3_TAIL n.val) .rw (bits v.toNat 0 12)) := by
  obtain ⟨n, hn⟩ := n
  have e : (Fin.mk n hn).val = n := rfl
  rw [execDmaTailWrite, e]
  have iv := v.isLt
  refine congrArg _ ((store_register_at (x := cleanWrite) h rfl (Nat.mod_eq_of_lt (by omega)) (by omega) (by omega) (by omega) (dmaTail_find n hn) ⟨rfl, rfl⟩ (by omega)
    (lock_dma (by omega) (dmaLocked_no (by omega) (by omega) (by omega))) (core_engines (by omega)) (links_engines (by omega)) (control_engines (by omega))).trans ?_)
  rw [afterWrite_dma (by omega)]
  rfl

/-- The fields whose changes are refused while their function runs stand at no lowest bit, and not in RFM or PLM. -/
def lockable (g : Field) : Bool := g.lo != 0 && g.block != 7 && g.block != 8

theorem dcq_lockable (n : Nat) : lockable (DCQ_Q_W0_CMDSEL n) = true := by
  have h : n % 17 < 17 := Nat.mod_lt _ (by decide)
  simp only [lockable, DCQ_Q_W0_CMDSEL, Field.block, Field.key]
  simp only [Bool.and_eq_true, bne_iff_ne]
  omega

theorem fieldLock_none {s : State} {f : Field} (h : lockable f = false) : s.fieldLock f = none := by
  have c : ∀ L : List Field, L.all lockable = true → L.contains f = false := by
    intro L hL
    rw [List.contains_eq_any_beq, List.any_eq_false]
    intro g hg e
    have h1 := List.all_eq_true.mp hL g hg
    rw [beq_iff_eq] at e
    subst e
    rw [h] at h1; cases h1
  have h1 : f ≠ BHM_CTRL_RING 0 := by intro e; subst e; revert h; decide
  have h2 : f ≠ MTR_CTRL_MODE := by intro e; subst e; revert h; decide
  have h3 : (List.range 17).any (fun n => f == DCQ_Q_W0_CMDSEL n && s.rd (DCQ_Q_W0_RUNST n) != 0) = false := by
    rw [List.any_eq_false]
    intro n _ e
    rw [Bool.and_eq_true, beq_iff_eq] at e
    have := e.1
    subst this
    have hq : lockable (DCQ_Q_W0_CMDSEL n) = true := dcq_lockable n
    rw [hq] at h; cases h
  unfold State.fieldLock
  simp only [c _ (rfl : List.all [BHM_CTRL_MODE 0, BHM_CTRL_ANEG 0, BHM_CTRL_PREEMPT 0, BHM_CTRL_VERIFY_DIS 0, BHM_CTRL_ADDFRAG 0] _ = true), 
    c _ (rfl : List.all [BHM_CTRL_MODE 1, BHM_CTRL_ANEG 1, BHM_CTRL_PREEMPT 1, BHM_CTRL_VERIFY_DIS 1, BHM_CTRL_ADDFRAG 1] _ = true), h1, h2, h3]
  simp

/-! ### Stores that give one field of a register a value and keep the others -/

/-- Two states differ at most in how the registers of a list of fields are written down: every field of the list, and every field elsewhere, reads the same. -/
structure Near (K : List Field) (s t : State) : Prop where
  rest : t = { s with regs := t.regs }
  rd : ∀ g, (g ∈ K ∨ ∀ f ∈ K, g.key ≠ f.key) → t.rd g = s.rd g
  regsWf : kvWf s.regs → kvWf t.regs

theorem Near.refl (K : List Field) (s : State) : Near K s s := ⟨rfl, fun _ _ => rfl, id⟩

theorem Near.trans {K : List Field} {r s t : State} (a : Near K r s) (b : Near K s t) : Near K r t := by
  refine ⟨?_, fun g hg => (b.rd g hg).trans (a.rd g hg), fun h => b.regsWf (a.regsWf h)⟩
  have h := b.rest
  rw [a.rest] at h
  exact h

/-- A field of the list given the value it has. -/
theorem Near.wr {K : List Field} {s : State} {f : Field} {v : Nat} (hK : ∀ x ∈ K, x.key = f.key → x = f) (hf : f ∈ K) (hv : v = s.rd f) : Near K s (s.wr f v) := by
  refine ⟨rfl, fun g hg => ?_, wr_regs_wf s f v⟩
  by_cases e : g = f
  · subst e; rw [rd_wr_same, hv, Nat.mod_eq_of_lt (rd_lt s g)]
  · refine rd_wr_ne s v ?_
    rcases hg with h | h
    · exact fun ek => e (hK g h ek)
    · exact h f hf

/-- A RW field of the list that is no enable given the value it has. -/
theorem Near.writeField {K : List Field} {s : State} {f : Field} {v : Nat} (hK : ∀ x ∈ K, x.key = f.key → x = f) (hf : f ∈ K) (hn : funcOf f = none) (hv : v = s.rd f) :
    Near K s (s.writeField f .rw v) := by
  unfold State.writeField
  split
  · exact Near.refl K s
  · simp only [hn]
    split
    · rw [if_pos hv.symm]; exact Near.refl K s
    · exact Near.wr hK hf hv

theorem runst_ne (f : Func) : (runstField f).key ≠ (enField f).key := by
  cases f with
  | channel n => revert n; decide
  | queue n => revert n; decide
  | _ => decide
theorem en_width (f : Func) : (enField f).width = 1 := by cases f <;> rfl
theorem funcOf_en (f : Func) : funcOf (enField f) = some f := by
  cases f with
  | channel n => revert n; decide
  | queue n => revert n; decide
  | _ => decide
theorem lockable_en (f : Func) : lockable (enField f) = false := by
  cases f with
  | channel n => revert n; decide
  | queue n => revert n; decide
  | _ => decide
theorem fieldLock_en (s : State) (f : Func) : s.fieldLock (enField f) = none := fieldLock_none (lockable_en f)
theorem bhm0Only_en (f : Func) : bhm0Only (enField f) = false := by
  cases f with
  | channel n => revert n; decide
  | queue n => revert n; decide
  | _ => decide

/-- A value written to an enable (R28). -/
theorem writeField_en (s : State) (f : Func) (v : Nat) : s.writeField (enField f) .rw v = s.funcWrite f v := by
  simp [State.writeField, bhm0Only_en, fieldLock_en, funcOf_en]

theorem writeField_ro (s : State) (f : Field) (v : Nat) : s.writeField f .ro v = s := by unfold State.writeField; split <;> rfl
theorem bits_bit {v : Nat} (h : v < 2) : bits v 0 1 = v := by unfold bits; omega

/-- The enable of pole written, the other fields as they are. -/
theorem enable_pole {s : State} {l : Lane} {v : Nat} (hv : v < 2) (h : s.serves l) :
    ∃ t, Near [] s t ∧ s.enableWrite l .pole v = t.funcWrite .pole v := by
  have hL : (findReg 0x400B0000).map (fun p => p.fields l) = some [(PBM_CTRL_CRS, .ro, true), (PBM_CTRL_RUNST, .ro, true), (PBM_CTRL_EN, .rw, false)] := rfl
  have e : s.wordWith l 0x400B0000 PBM_CTRL_EN v = v := by
    rw [wordWith_fields hL]; simp [sumN, PBM_CTRL_CRS, PBM_CTRL_EN, PBM_CTRL_RUNST]; try omega
  have hs := store_register (x := cleanWrite) (v := s.wordWith l 0x400B0000 PBM_CTRL_EN v) (w := v) h rfl (by rw [e]; exact Nat.mod_eq_of_lt (by omega)) (by decide) (by simp) (by simp [State.writeLock, State.pbLocked]) hL rfl rfl rfl
  simp only [List.foldl, writeField_ro] at hs
  have n0 : Near [] s s := Near.refl _ s
  have we : bits (v) PBM_CTRL_EN.lo PBM_CTRL_EN.width = v := by
    change bits (v) 0 1 = _
    unfold bits; omega
  rw [we, show ∀ t : State, t.writeField PBM_CTRL_EN .rw v = t.funcWrite .pole v from fun t => writeField_en t .pole v] at hs
  rw [show ∀ t : State, State.afterWrite t s 0x400B0000 _ cleanWrite = t from fun t => by simp [State.afterWrite]] at hs
  exact ⟨s, n0, hs⟩

/-- The enable of Radio A written, with that of Radio B as it is. -/
theorem enable_rfA {s : State} {l : Lane} {v : Nat} (hv : v < 2) (h : s.serves l) :
    s.enableWrite l .rfA v = (s.funcWrite .rfB (s.rd RFM_CTRL_EN_B)).funcWrite .rfA v := by
  have hL : (findReg 0x40070000).map (fun p => p.fields l) = some [(RFM_CTRL_RUNST_B, .ro, true), (RFM_CTRL_EN_B, .rw, false), (RFM_CTRL_RUNST_A, .ro, true), (RFM_CTRL_EN_A, .rw, false)] := rfl
  have e : s.wordWith l 0x40070000 RFM_CTRL_EN_A v = s.rd RFM_CTRL_EN_B * 16 + v := by
    rw [wordWith_fields hL]; simp [sumN, RFM_CTRL_EN_A, RFM_CTRL_EN_B, RFM_CTRL_RUNST_A, RFM_CTRL_RUNST_B]; try omega
  have b4 := rd_lt s RFM_CTRL_EN_B
  change s.rd RFM_CTRL_EN_B < 2 at b4
  have hs := store_register (x := cleanWrite) (v := s.wordWith l 0x40070000 RFM_CTRL_EN_A v) (w := s.rd RFM_CTRL_EN_B * 16 + v) h rfl (by rw [e]; exact Nat.mod_eq_of_lt (by omega)) (by decide) (by simp) (by simp [State.writeLock, State.rfmLocked, State.secLocked]) hL rfl rfl rfl
  simp only [List.foldl, writeField_ro] at hs
  have w1 : bits (s.rd RFM_CTRL_EN_B * 16 + v) RFM_CTRL_EN_B.lo RFM_CTRL_EN_B.width = s.rd RFM_CTRL_EN_B := by
    change bits (s.rd RFM_CTRL_EN_B * 16 + v) 4 1 = _
    unfold bits; omega
  rw [w1] at hs
  have we : bits (s.rd RFM_CTRL_EN_B * 16 + v) RFM_CTRL_EN_A.lo RFM_CTRL_EN_A.width = v := by
    change bits (s.rd RFM_CTRL_EN_B * 16 + v) 0 1 = _
    unfold bits; omega
  rw [we, show ∀ t : State, t.writeField RFM_CTRL_EN_A .rw v = t.funcWrite .rfA v from fun t => writeField_en t .rfA v,
    show ∀ t : State, ∀ w, t.writeField RFM_CTRL_EN_B .rw w = t.funcWrite .rfB w from fun t w => writeField_en t .rfB w] at hs
  rw [show ∀ t : State, State.afterWrite t s 0x40070000 _ cleanWrite = t from fun t => by simp [State.afterWrite]] at hs
  exact hs

/-- The enable of the modem written, with that of Reflect as it is. -/
theorem enable_plm {s : State} {l : Lane} {v : Nat} (hv : v < 2) (h : s.serves l) :
    s.enableWrite l .plm v = (s.funcWrite .reflect (s.rd PLM_CTRL_REFL_EN)).funcWrite .plm v := by
  have hL : (findReg 0x40080000).map (fun p => p.fields l) = some [(PLM_CTRL_RUNST_R, .ro, true), (PLM_CTRL_REFL_EN, .rw, false), (PLM_CTRL_RUNST, .ro, true), (PLM_CTRL_EN, .rw, false)] := rfl
  have e : s.wordWith l 0x40080000 PLM_CTRL_EN v = s.rd PLM_CTRL_REFL_EN * 16 + v := by
    rw [wordWith_fields hL]; simp [sumN, PLM_CTRL_EN, PLM_CTRL_REFL_EN, PLM_CTRL_RUNST, PLM_CTRL_RUNST_R]; try omega
  have b4 := rd_lt s PLM_CTRL_REFL_EN
  change s.rd PLM_CTRL_REFL_EN < 2 at b4
  have hs := store_register (x := cleanWrite) (v := s.wordWith l 0x40080000 PLM_CTRL_EN v) (w := s.rd PLM_CTRL_REFL_EN * 16 + v) h rfl (by rw [e]; exact Nat.mod_eq_of_lt (by omega)) (by decide) (by simp) (by simp [State.writeLock, State.plmLocked, State.secLocked]) hL rfl rfl rfl
  simp only [List.foldl, writeField_ro] at hs
  have w1 : bits (s.rd PLM_CTRL_REFL_EN * 16 + v) PLM_CTRL_REFL_EN.lo PLM_CTRL_REFL_EN.width = s.rd PLM_CTRL_REFL_EN := by
    change bits (s.rd PLM_CTRL_REFL_EN * 16 + v) 4 1 = _
    unfold bits; omega
  rw [w1] at hs
  have we : bits (s.rd PLM_CTRL_REFL_EN * 16 + v) PLM_CTRL_EN.lo PLM_CTRL_EN.width = v := by
    change bits (s.rd PLM_CTRL_REFL_EN * 16 + v) 0 1 = _
    unfold bits; omega
  rw [we, show ∀ t : State, t.writeField PLM_CTRL_EN .rw v = t.funcWrite .plm v from fun t => writeField_en t .plm v,
    show ∀ t : State, ∀ w, t.writeField PLM_CTRL_REFL_EN .rw w = t.funcWrite .reflect w from fun t w => writeField_en t .reflect w] at hs
  rw [show ∀ t : State, State.afterWrite t s 0x40080000 _ cleanWrite = t from fun t => by simp [State.afterWrite]] at hs
  exact hs

/-- The enable of meter written, the other fields as they are. -/
theorem enable_meter {s : State} {l : Lane} {v : Nat} (hv : v < 2) (h : s.serves l) :
    ∃ t, Near [MTR_CTRL_MODE] s t ∧ s.enableWrite l .meter v = t.funcWrite .meter v := by
  have hL : (findReg 0x400C0000).map (fun p => p.fields l) = some [(MTR_CTRL_MODE, .rw, false), (MTR_CTRL_RUNST, .ro, true), (MTR_CTRL_EN, .rw, false)] := rfl
  have e : s.wordWith l 0x400C0000 MTR_CTRL_EN v = s.rd MTR_CTRL_MODE * 32 + v := by
    rw [wordWith_fields hL]; simp [sumN, MTR_CTRL_EN, MTR_CTRL_MODE, MTR_CTRL_RUNST]; try omega
  have b5 := rd_lt s MTR_CTRL_MODE
  change s.rd MTR_CTRL_MODE < 2 at b5
  have hs := store_register (x := cleanWrite) (v := s.wordWith l 0x400C0000 MTR_CTRL_EN v) (w := s.rd MTR_CTRL_MODE * 32 + v) h rfl (by rw [e]; exact Nat.mod_eq_of_lt (by omega)) (by decide) (by simp) (by simp [State.writeLock, State.mtrLocked]) hL rfl rfl rfl
  simp only [List.foldl, writeField_ro] at hs
  have n0 : Near [MTR_CTRL_MODE] s s := Near.refl _ s
  have w1 : bits (s.rd MTR_CTRL_MODE * 32 + v) MTR_CTRL_MODE.lo MTR_CTRL_MODE.width = s.rd MTR_CTRL_MODE := by
    change bits (s.rd MTR_CTRL_MODE * 32 + v) 5 1 = _
    unfold bits; omega
  rw [w1] at hs
  have m1 : Near [MTR_CTRL_MODE] (s) ((s).writeField MTR_CTRL_MODE .rw (s.rd MTR_CTRL_MODE)) := Near.writeField (by decide) (by decide) (by decide) (n0.rd MTR_CTRL_MODE (.inl (by decide))).symm
  have n1 := n0.trans m1
  generalize ht1 : (s).writeField MTR_CTRL_MODE .rw (s.rd MTR_CTRL_MODE) = t1 at hs m1 n1
  have we : bits (s.rd MTR_CTRL_MODE * 32 + v) MTR_CTRL_EN.lo MTR_CTRL_EN.width = v := by
    change bits (s.rd MTR_CTRL_MODE * 32 + v) 0 1 = _
    unfold bits; omega
  rw [we, show ∀ t : State, t.writeField MTR_CTRL_EN .rw v = t.funcWrite .meter v from fun t => writeField_en t .meter v] at hs
  rw [show ∀ t : State, State.afterWrite t s 0x400C0000 _ cleanWrite = t from fun t => by simp [State.afterWrite]] at hs
  exact ⟨t1, n1, hs⟩

/-- A write of a port's enable leaves the port's MODE as it is. -/
theorem funcWrite_port_mode (t : State) (v : Nat) : (t.funcWrite .port0 v).rd (BHM_CTRL_MODE 0) = t.rd (BHM_CTRL_MODE 0) ∧
    (t.funcWrite .port1 v).rd (BHM_CTRL_MODE 1) = t.rd (BHM_CTRL_MODE 1) := by
  constructor
  all_goals
    simp only [State.funcWrite, State.funcStart, State.funcHalt, enField, runstField]
    split_ifs <;> simp (disch := decide) only [rd_wr_ne] <;> split_ifs <;> simp (disch := decide) only [rd_wr_ne]

/-- The enable of port0 written, the other fields as they are. -/
theorem enable_port0 {s : State} {l : Lane} {v : Nat} (hv : v < 2) (h : s.serves l) :
    ∃ t, Near [(BHM_CTRL_ADDFRAG 0), (BHM_CTRL_VERIFY_DIS 0), (BHM_CTRL_PREEMPT 0), (BHM_CTRL_RING 0), (BHM_CTRL_ANEG 0), (BHM_CTRL_MODE 0)] s t ∧ s.enableWrite l .port0 v = t.funcWrite .port0 v := by
  have hL : (findReg 0x40090000).map (fun p => p.fields l) = some [((BHM_CTRL_ADDFRAG 0), .rw, false), ((BHM_CTRL_VERIFY_DIS 0), .rw, false), ((BHM_CTRL_PREEMPT 0), .rw, false), ((BHM_CTRL_RING 0), .rw, false), ((BHM_CTRL_ANEG 0), .rw, false), ((BHM_CTRL_PVERIFIED 0), .ro, true), ((BHM_CTRL_SGSPD 0), .ro, true), ((BHM_CTRL_MODE 0), .rw, false), ((BHM_CTRL_LINK 0), .ro, true), ((BHM_CTRL_RUNST 0), .ro, true), ((BHM_CTRL_EN 0), .rw, false)] := rfl
  have e : s.wordWith l 0x40090000 (BHM_CTRL_EN 0) v = s.rd (BHM_CTRL_ADDFRAG 0) * 16384 + s.rd (BHM_CTRL_VERIFY_DIS 0) * 8192 + s.rd (BHM_CTRL_PREEMPT 0) * 4096 + s.rd (BHM_CTRL_RING 0) * 1024 + s.rd (BHM_CTRL_ANEG 0) * 512 + s.rd (BHM_CTRL_MODE 0) * 16 + v := by
    rw [wordWith_fields hL]; simp [sumN, BHM_CTRL_ADDFRAG, BHM_CTRL_ANEG, BHM_CTRL_EN, BHM_CTRL_LINK, BHM_CTRL_MODE, BHM_CTRL_PREEMPT, BHM_CTRL_PVERIFIED, BHM_CTRL_RING, BHM_CTRL_RUNST, BHM_CTRL_SGSPD, BHM_CTRL_VERIFY_DIS]; try omega
  have b14 := rd_lt s (BHM_CTRL_ADDFRAG 0)
  change s.rd (BHM_CTRL_ADDFRAG 0) < 4 at b14
  have b13 := rd_lt s (BHM_CTRL_VERIFY_DIS 0)
  change s.rd (BHM_CTRL_VERIFY_DIS 0) < 2 at b13
  have b12 := rd_lt s (BHM_CTRL_PREEMPT 0)
  change s.rd (BHM_CTRL_PREEMPT 0) < 2 at b12
  have b10 := rd_lt s (BHM_CTRL_RING 0)
  change s.rd (BHM_CTRL_RING 0) < 4 at b10
  have b9 := rd_lt s (BHM_CTRL_ANEG 0)
  change s.rd (BHM_CTRL_ANEG 0) < 2 at b9
  have b4 := rd_lt s (BHM_CTRL_MODE 0)
  change s.rd (BHM_CTRL_MODE 0) < 4 at b4
  have hs := store_register (x := cleanWrite) (v := s.wordWith l 0x40090000 (BHM_CTRL_EN 0) v) (w := s.rd (BHM_CTRL_ADDFRAG 0) * 16384 + s.rd (BHM_CTRL_VERIFY_DIS 0) * 8192 + s.rd (BHM_CTRL_PREEMPT 0) * 4096 + s.rd (BHM_CTRL_RING 0) * 1024 + s.rd (BHM_CTRL_ANEG 0) * 512 + s.rd (BHM_CTRL_MODE 0) * 16 + v) h rfl (by rw [e]; exact Nat.mod_eq_of_lt (by omega)) (by decide) (by simp) (by simp [State.writeLock, State.bhLocked]) hL rfl rfl rfl
  simp only [List.foldl, writeField_ro] at hs
  have n0 : Near [(BHM_CTRL_ADDFRAG 0), (BHM_CTRL_VERIFY_DIS 0), (BHM_CTRL_PREEMPT 0), (BHM_CTRL_RING 0), (BHM_CTRL_ANEG 0), (BHM_CTRL_MODE 0)] s s := Near.refl _ s
  have w1 : bits (s.rd (BHM_CTRL_ADDFRAG 0) * 16384 + s.rd (BHM_CTRL_VERIFY_DIS 0) * 8192 + s.rd (BHM_CTRL_PREEMPT 0) * 4096 + s.rd (BHM_CTRL_RING 0) * 1024 + s.rd (BHM_CTRL_ANEG 0) * 512 + s.rd (BHM_CTRL_MODE 0) * 16 + v) (BHM_CTRL_ADDFRAG 0).lo (BHM_CTRL_ADDFRAG 0).width = s.rd (BHM_CTRL_ADDFRAG 0) := by
    change bits (s.rd (BHM_CTRL_ADDFRAG 0) * 16384 + s.rd (BHM_CTRL_VERIFY_DIS 0) * 8192 + s.rd (BHM_CTRL_PREEMPT 0) * 4096 + s.rd (BHM_CTRL_RING 0) * 1024 + s.rd (BHM_CTRL_ANEG 0) * 512 + s.rd (BHM_CTRL_MODE 0) * 16 + v) 14 2 = _
    unfold bits; omega
  rw [w1] at hs
  have m1 : Near [(BHM_CTRL_ADDFRAG 0), (BHM_CTRL_VERIFY_DIS 0), (BHM_CTRL_PREEMPT 0), (BHM_CTRL_RING 0), (BHM_CTRL_ANEG 0), (BHM_CTRL_MODE 0)] (s) ((s).writeField (BHM_CTRL_ADDFRAG 0) .rw (s.rd (BHM_CTRL_ADDFRAG 0))) := Near.writeField (by decide) (by decide) (by decide) (n0.rd (BHM_CTRL_ADDFRAG 0) (.inl (by decide))).symm
  have n1 := n0.trans m1
  generalize ht1 : (s).writeField (BHM_CTRL_ADDFRAG 0) .rw (s.rd (BHM_CTRL_ADDFRAG 0)) = t1 at hs m1 n1
  have w2 : bits (s.rd (BHM_CTRL_ADDFRAG 0) * 16384 + s.rd (BHM_CTRL_VERIFY_DIS 0) * 8192 + s.rd (BHM_CTRL_PREEMPT 0) * 4096 + s.rd (BHM_CTRL_RING 0) * 1024 + s.rd (BHM_CTRL_ANEG 0) * 512 + s.rd (BHM_CTRL_MODE 0) * 16 + v) (BHM_CTRL_VERIFY_DIS 0).lo (BHM_CTRL_VERIFY_DIS 0).width = s.rd (BHM_CTRL_VERIFY_DIS 0) := by
    change bits (s.rd (BHM_CTRL_ADDFRAG 0) * 16384 + s.rd (BHM_CTRL_VERIFY_DIS 0) * 8192 + s.rd (BHM_CTRL_PREEMPT 0) * 4096 + s.rd (BHM_CTRL_RING 0) * 1024 + s.rd (BHM_CTRL_ANEG 0) * 512 + s.rd (BHM_CTRL_MODE 0) * 16 + v) 13 1 = _
    unfold bits; omega
  rw [w2] at hs
  have m2 : Near [(BHM_CTRL_ADDFRAG 0), (BHM_CTRL_VERIFY_DIS 0), (BHM_CTRL_PREEMPT 0), (BHM_CTRL_RING 0), (BHM_CTRL_ANEG 0), (BHM_CTRL_MODE 0)] (t1) ((t1).writeField (BHM_CTRL_VERIFY_DIS 0) .rw (s.rd (BHM_CTRL_VERIFY_DIS 0))) := Near.writeField (by decide) (by decide) (by decide) (n1.rd (BHM_CTRL_VERIFY_DIS 0) (.inl (by decide))).symm
  have n2 := n1.trans m2
  generalize ht2 : (t1).writeField (BHM_CTRL_VERIFY_DIS 0) .rw (s.rd (BHM_CTRL_VERIFY_DIS 0)) = t2 at hs m2 n2
  have w3 : bits (s.rd (BHM_CTRL_ADDFRAG 0) * 16384 + s.rd (BHM_CTRL_VERIFY_DIS 0) * 8192 + s.rd (BHM_CTRL_PREEMPT 0) * 4096 + s.rd (BHM_CTRL_RING 0) * 1024 + s.rd (BHM_CTRL_ANEG 0) * 512 + s.rd (BHM_CTRL_MODE 0) * 16 + v) (BHM_CTRL_PREEMPT 0).lo (BHM_CTRL_PREEMPT 0).width = s.rd (BHM_CTRL_PREEMPT 0) := by
    change bits (s.rd (BHM_CTRL_ADDFRAG 0) * 16384 + s.rd (BHM_CTRL_VERIFY_DIS 0) * 8192 + s.rd (BHM_CTRL_PREEMPT 0) * 4096 + s.rd (BHM_CTRL_RING 0) * 1024 + s.rd (BHM_CTRL_ANEG 0) * 512 + s.rd (BHM_CTRL_MODE 0) * 16 + v) 12 1 = _
    unfold bits; omega
  rw [w3] at hs
  have m3 : Near [(BHM_CTRL_ADDFRAG 0), (BHM_CTRL_VERIFY_DIS 0), (BHM_CTRL_PREEMPT 0), (BHM_CTRL_RING 0), (BHM_CTRL_ANEG 0), (BHM_CTRL_MODE 0)] (t2) ((t2).writeField (BHM_CTRL_PREEMPT 0) .rw (s.rd (BHM_CTRL_PREEMPT 0))) := Near.writeField (by decide) (by decide) (by decide) (n2.rd (BHM_CTRL_PREEMPT 0) (.inl (by decide))).symm
  have n3 := n2.trans m3
  generalize ht3 : (t2).writeField (BHM_CTRL_PREEMPT 0) .rw (s.rd (BHM_CTRL_PREEMPT 0)) = t3 at hs m3 n3
  have w4 : bits (s.rd (BHM_CTRL_ADDFRAG 0) * 16384 + s.rd (BHM_CTRL_VERIFY_DIS 0) * 8192 + s.rd (BHM_CTRL_PREEMPT 0) * 4096 + s.rd (BHM_CTRL_RING 0) * 1024 + s.rd (BHM_CTRL_ANEG 0) * 512 + s.rd (BHM_CTRL_MODE 0) * 16 + v) (BHM_CTRL_RING 0).lo (BHM_CTRL_RING 0).width = s.rd (BHM_CTRL_RING 0) := by
    change bits (s.rd (BHM_CTRL_ADDFRAG 0) * 16384 + s.rd (BHM_CTRL_VERIFY_DIS 0) * 8192 + s.rd (BHM_CTRL_PREEMPT 0) * 4096 + s.rd (BHM_CTRL_RING 0) * 1024 + s.rd (BHM_CTRL_ANEG 0) * 512 + s.rd (BHM_CTRL_MODE 0) * 16 + v) 10 2 = _
    unfold bits; omega
  rw [w4] at hs
  have m4 : Near [(BHM_CTRL_ADDFRAG 0), (BHM_CTRL_VERIFY_DIS 0), (BHM_CTRL_PREEMPT 0), (BHM_CTRL_RING 0), (BHM_CTRL_ANEG 0), (BHM_CTRL_MODE 0)] (t3) ((t3).writeField (BHM_CTRL_RING 0) .rw (s.rd (BHM_CTRL_RING 0))) := Near.writeField (by decide) (by decide) (by decide) (n3.rd (BHM_CTRL_RING 0) (.inl (by decide))).symm
  have n4 := n3.trans m4
  generalize ht4 : (t3).writeField (BHM_CTRL_RING 0) .rw (s.rd (BHM_CTRL_RING 0)) = t4 at hs m4 n4
  have w5 : bits (s.rd (BHM_CTRL_ADDFRAG 0) * 16384 + s.rd (BHM_CTRL_VERIFY_DIS 0) * 8192 + s.rd (BHM_CTRL_PREEMPT 0) * 4096 + s.rd (BHM_CTRL_RING 0) * 1024 + s.rd (BHM_CTRL_ANEG 0) * 512 + s.rd (BHM_CTRL_MODE 0) * 16 + v) (BHM_CTRL_ANEG 0).lo (BHM_CTRL_ANEG 0).width = s.rd (BHM_CTRL_ANEG 0) := by
    change bits (s.rd (BHM_CTRL_ADDFRAG 0) * 16384 + s.rd (BHM_CTRL_VERIFY_DIS 0) * 8192 + s.rd (BHM_CTRL_PREEMPT 0) * 4096 + s.rd (BHM_CTRL_RING 0) * 1024 + s.rd (BHM_CTRL_ANEG 0) * 512 + s.rd (BHM_CTRL_MODE 0) * 16 + v) 9 1 = _
    unfold bits; omega
  rw [w5] at hs
  have m5 : Near [(BHM_CTRL_ADDFRAG 0), (BHM_CTRL_VERIFY_DIS 0), (BHM_CTRL_PREEMPT 0), (BHM_CTRL_RING 0), (BHM_CTRL_ANEG 0), (BHM_CTRL_MODE 0)] (t4) ((t4).writeField (BHM_CTRL_ANEG 0) .rw (s.rd (BHM_CTRL_ANEG 0))) := Near.writeField (by decide) (by decide) (by decide) (n4.rd (BHM_CTRL_ANEG 0) (.inl (by decide))).symm
  have n5 := n4.trans m5
  generalize ht5 : (t4).writeField (BHM_CTRL_ANEG 0) .rw (s.rd (BHM_CTRL_ANEG 0)) = t5 at hs m5 n5
  have w6 : bits (s.rd (BHM_CTRL_ADDFRAG 0) * 16384 + s.rd (BHM_CTRL_VERIFY_DIS 0) * 8192 + s.rd (BHM_CTRL_PREEMPT 0) * 4096 + s.rd (BHM_CTRL_RING 0) * 1024 + s.rd (BHM_CTRL_ANEG 0) * 512 + s.rd (BHM_CTRL_MODE 0) * 16 + v) (BHM_CTRL_MODE 0).lo (BHM_CTRL_MODE 0).width = s.rd (BHM_CTRL_MODE 0) := by
    change bits (s.rd (BHM_CTRL_ADDFRAG 0) * 16384 + s.rd (BHM_CTRL_VERIFY_DIS 0) * 8192 + s.rd (BHM_CTRL_PREEMPT 0) * 4096 + s.rd (BHM_CTRL_RING 0) * 1024 + s.rd (BHM_CTRL_ANEG 0) * 512 + s.rd (BHM_CTRL_MODE 0) * 16 + v) 4 2 = _
    unfold bits; omega
  rw [w6] at hs
  have m6 : Near [(BHM_CTRL_ADDFRAG 0), (BHM_CTRL_VERIFY_DIS 0), (BHM_CTRL_PREEMPT 0), (BHM_CTRL_RING 0), (BHM_CTRL_ANEG 0), (BHM_CTRL_MODE 0)] (t5) ((t5).writeField (BHM_CTRL_MODE 0) .rw (s.rd (BHM_CTRL_MODE 0))) := Near.writeField (by decide) (by decide) (by decide) (n5.rd (BHM_CTRL_MODE 0) (.inl (by decide))).symm
  have n6 := n5.trans m6
  generalize ht6 : (t5).writeField (BHM_CTRL_MODE 0) .rw (s.rd (BHM_CTRL_MODE 0)) = t6 at hs m6 n6
  have we : bits (s.rd (BHM_CTRL_ADDFRAG 0) * 16384 + s.rd (BHM_CTRL_VERIFY_DIS 0) * 8192 + s.rd (BHM_CTRL_PREEMPT 0) * 4096 + s.rd (BHM_CTRL_RING 0) * 1024 + s.rd (BHM_CTRL_ANEG 0) * 512 + s.rd (BHM_CTRL_MODE 0) * 16 + v) (BHM_CTRL_EN 0).lo (BHM_CTRL_EN 0).width = v := by
    change bits (s.rd (BHM_CTRL_ADDFRAG 0) * 16384 + s.rd (BHM_CTRL_VERIFY_DIS 0) * 8192 + s.rd (BHM_CTRL_PREEMPT 0) * 4096 + s.rd (BHM_CTRL_RING 0) * 1024 + s.rd (BHM_CTRL_ANEG 0) * 512 + s.rd (BHM_CTRL_MODE 0) * 16 + v) 0 1 = _
    unfold bits; omega
  rw [we, show ∀ t : State, t.writeField (BHM_CTRL_EN 0) .rw v = t.funcWrite .port0 v from fun t => writeField_en t .port0 v] at hs
  have hm : (t6.funcWrite .port0 v).rd (BHM_CTRL_MODE 0) = s.rd (BHM_CTRL_MODE 0) := (funcWrite_port_mode t6 v).1.trans (n6.rd _ (.inl (by decide)))
  rw [show ∀ t w : State, ∀ z : Nat, t.rd (BHM_CTRL_MODE 0) = w.rd (BHM_CTRL_MODE 0) → State.afterWrite t w 0x40090000 z cleanWrite = t from fun t w z e => by simp [State.afterWrite, e], ] at hs
  rotate_left
  · exact hm
  exact ⟨t6, n6, hs⟩

/-- The enable of port1 written, the other fields as they are. -/
theorem enable_port1 {s : State} {l : Lane} {v : Nat} (hv : v < 2) (h : s.serves l) :
    ∃ t, Near [(BHM_CTRL_ADDFRAG 1), (BHM_CTRL_VERIFY_DIS 1), (BHM_CTRL_PREEMPT 1), (BHM_CTRL_RING 1), (BHM_CTRL_ANEG 1), (BHM_CTRL_MODE 1)] s t ∧ s.enableWrite l .port1 v = t.funcWrite .port1 v := by
  have hL : (findReg 0x400A0000).map (fun p => p.fields l) = some [((BHM_CTRL_ADDFRAG 1), .rw, false), ((BHM_CTRL_VERIFY_DIS 1), .rw, false), ((BHM_CTRL_PREEMPT 1), .rw, false), ((BHM_CTRL_RING 1), .rw, false), ((BHM_CTRL_ANEG 1), .rw, false), ((BHM_CTRL_PVERIFIED 1), .ro, true), ((BHM_CTRL_SGSPD 1), .ro, true), ((BHM_CTRL_MODE 1), .rw, false), ((BHM_CTRL_LINK 1), .ro, true), ((BHM_CTRL_RUNST 1), .ro, true), ((BHM_CTRL_EN 1), .rw, false)] := rfl
  have e : s.wordWith l 0x400A0000 (BHM_CTRL_EN 1) v = s.rd (BHM_CTRL_ADDFRAG 1) * 16384 + s.rd (BHM_CTRL_VERIFY_DIS 1) * 8192 + s.rd (BHM_CTRL_PREEMPT 1) * 4096 + s.rd (BHM_CTRL_RING 1) * 1024 + s.rd (BHM_CTRL_ANEG 1) * 512 + s.rd (BHM_CTRL_MODE 1) * 16 + v := by
    rw [wordWith_fields hL]; simp [sumN, BHM_CTRL_ADDFRAG, BHM_CTRL_ANEG, BHM_CTRL_EN, BHM_CTRL_LINK, BHM_CTRL_MODE, BHM_CTRL_PREEMPT, BHM_CTRL_PVERIFIED, BHM_CTRL_RING, BHM_CTRL_RUNST, BHM_CTRL_SGSPD, BHM_CTRL_VERIFY_DIS]; try omega
  have b14 := rd_lt s (BHM_CTRL_ADDFRAG 1)
  change s.rd (BHM_CTRL_ADDFRAG 1) < 4 at b14
  have b13 := rd_lt s (BHM_CTRL_VERIFY_DIS 1)
  change s.rd (BHM_CTRL_VERIFY_DIS 1) < 2 at b13
  have b12 := rd_lt s (BHM_CTRL_PREEMPT 1)
  change s.rd (BHM_CTRL_PREEMPT 1) < 2 at b12
  have b10 := rd_lt s (BHM_CTRL_RING 1)
  change s.rd (BHM_CTRL_RING 1) < 4 at b10
  have b9 := rd_lt s (BHM_CTRL_ANEG 1)
  change s.rd (BHM_CTRL_ANEG 1) < 2 at b9
  have b4 := rd_lt s (BHM_CTRL_MODE 1)
  change s.rd (BHM_CTRL_MODE 1) < 4 at b4
  have hs := store_register (x := cleanWrite) (v := s.wordWith l 0x400A0000 (BHM_CTRL_EN 1) v) (w := s.rd (BHM_CTRL_ADDFRAG 1) * 16384 + s.rd (BHM_CTRL_VERIFY_DIS 1) * 8192 + s.rd (BHM_CTRL_PREEMPT 1) * 4096 + s.rd (BHM_CTRL_RING 1) * 1024 + s.rd (BHM_CTRL_ANEG 1) * 512 + s.rd (BHM_CTRL_MODE 1) * 16 + v) h rfl (by rw [e]; exact Nat.mod_eq_of_lt (by omega)) (by decide) (by simp) (by simp [State.writeLock, State.bhLocked]) hL rfl rfl rfl
  simp only [List.foldl, writeField_ro] at hs
  have n0 : Near [(BHM_CTRL_ADDFRAG 1), (BHM_CTRL_VERIFY_DIS 1), (BHM_CTRL_PREEMPT 1), (BHM_CTRL_RING 1), (BHM_CTRL_ANEG 1), (BHM_CTRL_MODE 1)] s s := Near.refl _ s
  have w1 : bits (s.rd (BHM_CTRL_ADDFRAG 1) * 16384 + s.rd (BHM_CTRL_VERIFY_DIS 1) * 8192 + s.rd (BHM_CTRL_PREEMPT 1) * 4096 + s.rd (BHM_CTRL_RING 1) * 1024 + s.rd (BHM_CTRL_ANEG 1) * 512 + s.rd (BHM_CTRL_MODE 1) * 16 + v) (BHM_CTRL_ADDFRAG 1).lo (BHM_CTRL_ADDFRAG 1).width = s.rd (BHM_CTRL_ADDFRAG 1) := by
    change bits (s.rd (BHM_CTRL_ADDFRAG 1) * 16384 + s.rd (BHM_CTRL_VERIFY_DIS 1) * 8192 + s.rd (BHM_CTRL_PREEMPT 1) * 4096 + s.rd (BHM_CTRL_RING 1) * 1024 + s.rd (BHM_CTRL_ANEG 1) * 512 + s.rd (BHM_CTRL_MODE 1) * 16 + v) 14 2 = _
    unfold bits; omega
  rw [w1] at hs
  have m1 : Near [(BHM_CTRL_ADDFRAG 1), (BHM_CTRL_VERIFY_DIS 1), (BHM_CTRL_PREEMPT 1), (BHM_CTRL_RING 1), (BHM_CTRL_ANEG 1), (BHM_CTRL_MODE 1)] (s) ((s).writeField (BHM_CTRL_ADDFRAG 1) .rw (s.rd (BHM_CTRL_ADDFRAG 1))) := Near.writeField (by decide) (by decide) (by decide) (n0.rd (BHM_CTRL_ADDFRAG 1) (.inl (by decide))).symm
  have n1 := n0.trans m1
  generalize ht1 : (s).writeField (BHM_CTRL_ADDFRAG 1) .rw (s.rd (BHM_CTRL_ADDFRAG 1)) = t1 at hs m1 n1
  have w2 : bits (s.rd (BHM_CTRL_ADDFRAG 1) * 16384 + s.rd (BHM_CTRL_VERIFY_DIS 1) * 8192 + s.rd (BHM_CTRL_PREEMPT 1) * 4096 + s.rd (BHM_CTRL_RING 1) * 1024 + s.rd (BHM_CTRL_ANEG 1) * 512 + s.rd (BHM_CTRL_MODE 1) * 16 + v) (BHM_CTRL_VERIFY_DIS 1).lo (BHM_CTRL_VERIFY_DIS 1).width = s.rd (BHM_CTRL_VERIFY_DIS 1) := by
    change bits (s.rd (BHM_CTRL_ADDFRAG 1) * 16384 + s.rd (BHM_CTRL_VERIFY_DIS 1) * 8192 + s.rd (BHM_CTRL_PREEMPT 1) * 4096 + s.rd (BHM_CTRL_RING 1) * 1024 + s.rd (BHM_CTRL_ANEG 1) * 512 + s.rd (BHM_CTRL_MODE 1) * 16 + v) 13 1 = _
    unfold bits; omega
  rw [w2] at hs
  have m2 : Near [(BHM_CTRL_ADDFRAG 1), (BHM_CTRL_VERIFY_DIS 1), (BHM_CTRL_PREEMPT 1), (BHM_CTRL_RING 1), (BHM_CTRL_ANEG 1), (BHM_CTRL_MODE 1)] (t1) ((t1).writeField (BHM_CTRL_VERIFY_DIS 1) .rw (s.rd (BHM_CTRL_VERIFY_DIS 1))) := Near.writeField (by decide) (by decide) (by decide) (n1.rd (BHM_CTRL_VERIFY_DIS 1) (.inl (by decide))).symm
  have n2 := n1.trans m2
  generalize ht2 : (t1).writeField (BHM_CTRL_VERIFY_DIS 1) .rw (s.rd (BHM_CTRL_VERIFY_DIS 1)) = t2 at hs m2 n2
  have w3 : bits (s.rd (BHM_CTRL_ADDFRAG 1) * 16384 + s.rd (BHM_CTRL_VERIFY_DIS 1) * 8192 + s.rd (BHM_CTRL_PREEMPT 1) * 4096 + s.rd (BHM_CTRL_RING 1) * 1024 + s.rd (BHM_CTRL_ANEG 1) * 512 + s.rd (BHM_CTRL_MODE 1) * 16 + v) (BHM_CTRL_PREEMPT 1).lo (BHM_CTRL_PREEMPT 1).width = s.rd (BHM_CTRL_PREEMPT 1) := by
    change bits (s.rd (BHM_CTRL_ADDFRAG 1) * 16384 + s.rd (BHM_CTRL_VERIFY_DIS 1) * 8192 + s.rd (BHM_CTRL_PREEMPT 1) * 4096 + s.rd (BHM_CTRL_RING 1) * 1024 + s.rd (BHM_CTRL_ANEG 1) * 512 + s.rd (BHM_CTRL_MODE 1) * 16 + v) 12 1 = _
    unfold bits; omega
  rw [w3] at hs
  have m3 : Near [(BHM_CTRL_ADDFRAG 1), (BHM_CTRL_VERIFY_DIS 1), (BHM_CTRL_PREEMPT 1), (BHM_CTRL_RING 1), (BHM_CTRL_ANEG 1), (BHM_CTRL_MODE 1)] (t2) ((t2).writeField (BHM_CTRL_PREEMPT 1) .rw (s.rd (BHM_CTRL_PREEMPT 1))) := Near.writeField (by decide) (by decide) (by decide) (n2.rd (BHM_CTRL_PREEMPT 1) (.inl (by decide))).symm
  have n3 := n2.trans m3
  generalize ht3 : (t2).writeField (BHM_CTRL_PREEMPT 1) .rw (s.rd (BHM_CTRL_PREEMPT 1)) = t3 at hs m3 n3
  have w4 : bits (s.rd (BHM_CTRL_ADDFRAG 1) * 16384 + s.rd (BHM_CTRL_VERIFY_DIS 1) * 8192 + s.rd (BHM_CTRL_PREEMPT 1) * 4096 + s.rd (BHM_CTRL_RING 1) * 1024 + s.rd (BHM_CTRL_ANEG 1) * 512 + s.rd (BHM_CTRL_MODE 1) * 16 + v) (BHM_CTRL_RING 1).lo (BHM_CTRL_RING 1).width = s.rd (BHM_CTRL_RING 1) := by
    change bits (s.rd (BHM_CTRL_ADDFRAG 1) * 16384 + s.rd (BHM_CTRL_VERIFY_DIS 1) * 8192 + s.rd (BHM_CTRL_PREEMPT 1) * 4096 + s.rd (BHM_CTRL_RING 1) * 1024 + s.rd (BHM_CTRL_ANEG 1) * 512 + s.rd (BHM_CTRL_MODE 1) * 16 + v) 10 2 = _
    unfold bits; omega
  rw [w4] at hs
  have m4 : Near [(BHM_CTRL_ADDFRAG 1), (BHM_CTRL_VERIFY_DIS 1), (BHM_CTRL_PREEMPT 1), (BHM_CTRL_RING 1), (BHM_CTRL_ANEG 1), (BHM_CTRL_MODE 1)] (t3) ((t3).writeField (BHM_CTRL_RING 1) .rw (s.rd (BHM_CTRL_RING 1))) := Near.writeField (by decide) (by decide) (by decide) (n3.rd (BHM_CTRL_RING 1) (.inl (by decide))).symm
  have n4 := n3.trans m4
  generalize ht4 : (t3).writeField (BHM_CTRL_RING 1) .rw (s.rd (BHM_CTRL_RING 1)) = t4 at hs m4 n4
  have w5 : bits (s.rd (BHM_CTRL_ADDFRAG 1) * 16384 + s.rd (BHM_CTRL_VERIFY_DIS 1) * 8192 + s.rd (BHM_CTRL_PREEMPT 1) * 4096 + s.rd (BHM_CTRL_RING 1) * 1024 + s.rd (BHM_CTRL_ANEG 1) * 512 + s.rd (BHM_CTRL_MODE 1) * 16 + v) (BHM_CTRL_ANEG 1).lo (BHM_CTRL_ANEG 1).width = s.rd (BHM_CTRL_ANEG 1) := by
    change bits (s.rd (BHM_CTRL_ADDFRAG 1) * 16384 + s.rd (BHM_CTRL_VERIFY_DIS 1) * 8192 + s.rd (BHM_CTRL_PREEMPT 1) * 4096 + s.rd (BHM_CTRL_RING 1) * 1024 + s.rd (BHM_CTRL_ANEG 1) * 512 + s.rd (BHM_CTRL_MODE 1) * 16 + v) 9 1 = _
    unfold bits; omega
  rw [w5] at hs
  have m5 : Near [(BHM_CTRL_ADDFRAG 1), (BHM_CTRL_VERIFY_DIS 1), (BHM_CTRL_PREEMPT 1), (BHM_CTRL_RING 1), (BHM_CTRL_ANEG 1), (BHM_CTRL_MODE 1)] (t4) ((t4).writeField (BHM_CTRL_ANEG 1) .rw (s.rd (BHM_CTRL_ANEG 1))) := Near.writeField (by decide) (by decide) (by decide) (n4.rd (BHM_CTRL_ANEG 1) (.inl (by decide))).symm
  have n5 := n4.trans m5
  generalize ht5 : (t4).writeField (BHM_CTRL_ANEG 1) .rw (s.rd (BHM_CTRL_ANEG 1)) = t5 at hs m5 n5
  have w6 : bits (s.rd (BHM_CTRL_ADDFRAG 1) * 16384 + s.rd (BHM_CTRL_VERIFY_DIS 1) * 8192 + s.rd (BHM_CTRL_PREEMPT 1) * 4096 + s.rd (BHM_CTRL_RING 1) * 1024 + s.rd (BHM_CTRL_ANEG 1) * 512 + s.rd (BHM_CTRL_MODE 1) * 16 + v) (BHM_CTRL_MODE 1).lo (BHM_CTRL_MODE 1).width = s.rd (BHM_CTRL_MODE 1) := by
    change bits (s.rd (BHM_CTRL_ADDFRAG 1) * 16384 + s.rd (BHM_CTRL_VERIFY_DIS 1) * 8192 + s.rd (BHM_CTRL_PREEMPT 1) * 4096 + s.rd (BHM_CTRL_RING 1) * 1024 + s.rd (BHM_CTRL_ANEG 1) * 512 + s.rd (BHM_CTRL_MODE 1) * 16 + v) 4 2 = _
    unfold bits; omega
  rw [w6] at hs
  have m6 : Near [(BHM_CTRL_ADDFRAG 1), (BHM_CTRL_VERIFY_DIS 1), (BHM_CTRL_PREEMPT 1), (BHM_CTRL_RING 1), (BHM_CTRL_ANEG 1), (BHM_CTRL_MODE 1)] (t5) ((t5).writeField (BHM_CTRL_MODE 1) .rw (s.rd (BHM_CTRL_MODE 1))) := Near.writeField (by decide) (by decide) (by decide) (n5.rd (BHM_CTRL_MODE 1) (.inl (by decide))).symm
  have n6 := n5.trans m6
  generalize ht6 : (t5).writeField (BHM_CTRL_MODE 1) .rw (s.rd (BHM_CTRL_MODE 1)) = t6 at hs m6 n6
  have we : bits (s.rd (BHM_CTRL_ADDFRAG 1) * 16384 + s.rd (BHM_CTRL_VERIFY_DIS 1) * 8192 + s.rd (BHM_CTRL_PREEMPT 1) * 4096 + s.rd (BHM_CTRL_RING 1) * 1024 + s.rd (BHM_CTRL_ANEG 1) * 512 + s.rd (BHM_CTRL_MODE 1) * 16 + v) (BHM_CTRL_EN 1).lo (BHM_CTRL_EN 1).width = v := by
    change bits (s.rd (BHM_CTRL_ADDFRAG 1) * 16384 + s.rd (BHM_CTRL_VERIFY_DIS 1) * 8192 + s.rd (BHM_CTRL_PREEMPT 1) * 4096 + s.rd (BHM_CTRL_RING 1) * 1024 + s.rd (BHM_CTRL_ANEG 1) * 512 + s.rd (BHM_CTRL_MODE 1) * 16 + v) 0 1 = _
    unfold bits; omega
  rw [we, show ∀ t : State, t.writeField (BHM_CTRL_EN 1) .rw v = t.funcWrite .port1 v from fun t => writeField_en t .port1 v] at hs
  have hm : (t6.funcWrite .port1 v).rd (BHM_CTRL_MODE 1) = s.rd (BHM_CTRL_MODE 1) := (funcWrite_port_mode t6 v).2.trans (n6.rd _ (.inl (by decide)))
  rw [show ∀ t w : State, ∀ z : Nat, t.rd (BHM_CTRL_MODE 1) = w.rd (BHM_CTRL_MODE 1) → State.afterWrite t w 0x400A0000 z cleanWrite = t from fun t w z e => by simp [State.afterWrite, e], ] at hs
  rotate_left
  · exact hm
  exact ⟨t6, n6, hs⟩

theorem onRadio_rd (s : State) (r : Nat) (f : RadioState → RadioState) (g : Field) : (s.onRadio r f).rd g = s.rd g := by
  unfold State.onRadio; split <;> rfl

/-- What a write of an enable does (R28): only that, or the start, or the shut-down. -/
theorem funcWrite_cases (s : State) (f : Func) (v : Nat) : s.funcWrite f v = s.wr (enField f) v ∨ s.funcWrite f v = (s.wr (enField f) v).funcStart f ∨
    s.funcWrite f v = ((s.wr (enField f) v).funcHalt f).wr (runstField f) 2 := by
  unfold State.funcWrite
  simp only
  split
  · split
    · exact .inr (.inl rfl)
    · exact .inl rfl
  · split
    · exact .inr (.inr rfl)
    · exact .inl rfl

/-- A write of Radio B's enable leaves Radio A's as it is. -/
theorem funcWrite_rfB_other (t : State) (v : Nat) {g : Field} (h1 : g.key ≠ RFM_CTRL_EN_B.key) (h2 : g.key ≠ RFM_CTRL_RUNST_B.key) (h3 : g.key ≠ RFM_STATUS_MAPERR_B.key) :
    (t.funcWrite .rfB v).rd g = t.rd g := by
  have e0 : ∀ w : State, (w.wr RFM_CTRL_EN_B v).rd g = w.rd g := fun w => rd_wr_ne w v h1
  rcases funcWrite_cases t .rfB v with e | e | e
  · rw [e]; exact e0 t
  · rw [e]
    change (State.rfStart (t.wr RFM_CTRL_EN_B v) 1).rd g = _
    rw [← e0 t]
    generalize t.wr RFM_CTRL_EN_B v = w
    unfold State.rfStart
    simp only [Nat.one_ne_zero, if_false]
    split
    · exact rd_wr_ne w 1 h3
    · refine (rd_wr_ne _ 3 h2).trans ?_
      split
      · rfl
      · exact onRadio_rd w 1 _ g
  · rw [e]; exact (rd_wr_ne _ 2 h2).trans (e0 t)

/-- The enable of Radio B written, with that of Radio A as it is. -/
theorem enable_rfB {s : State} {l : Lane} {v : Nat} (hv : v < 2) (h : s.serves l) :
    s.enableWrite l .rfB v = (s.funcWrite .rfB v).funcWrite .rfA (s.rd RFM_CTRL_EN_A) := by
  have hL : (findReg 0x40070000).map (fun p => p.fields l) = some [(RFM_CTRL_RUNST_B, .ro, true), (RFM_CTRL_EN_B, .rw, false), (RFM_CTRL_RUNST_A, .ro, true), (RFM_CTRL_EN_A, .rw, false)] := rfl
  have e : s.wordWith l 0x40070000 RFM_CTRL_EN_B v = v * 16 + s.rd RFM_CTRL_EN_A := by
    rw [wordWith_fields hL]; simp [sumN, RFM_CTRL_EN_A, RFM_CTRL_EN_B, RFM_CTRL_RUNST_A, RFM_CTRL_RUNST_B]; try omega
  have b0 := rd_lt s RFM_CTRL_EN_A
  change s.rd RFM_CTRL_EN_A < 2 at b0
  have hs := store_register (x := cleanWrite) (v := s.wordWith l 0x40070000 RFM_CTRL_EN_B v) (w := v * 16 + s.rd RFM_CTRL_EN_A) h rfl (by rw [e]; exact Nat.mod_eq_of_lt (by omega)) (by decide) (by simp) (by simp [State.writeLock, State.rfmLocked, State.secLocked]) hL rfl rfl rfl
  simp only [List.foldl, writeField_ro] at hs
  have we : bits (v * 16 + s.rd RFM_CTRL_EN_A) RFM_CTRL_EN_B.lo RFM_CTRL_EN_B.width = v := by
    change bits (v * 16 + s.rd RFM_CTRL_EN_A) 4 1 = _
    unfold bits; omega
  have w1 : bits (v * 16 + s.rd RFM_CTRL_EN_A) RFM_CTRL_EN_A.lo RFM_CTRL_EN_A.width = s.rd RFM_CTRL_EN_A := by
    change bits (v * 16 + s.rd RFM_CTRL_EN_A) 0 1 = _
    unfold bits; omega
  rw [we, w1, show ∀ t : State, t.writeField RFM_CTRL_EN_B .rw v = t.funcWrite .rfB v from fun t => writeField_en t .rfB v,
    show ∀ t : State, ∀ w, t.writeField RFM_CTRL_EN_A .rw w = t.funcWrite .rfA w from fun t w => writeField_en t .rfA w] at hs
  rw [show ∀ t : State, State.afterWrite t s 0x40070000 _ cleanWrite = t from fun t => by simp [State.afterWrite]] at hs
  exact hs

/-- The enable of Reflect written, with that of the modem as it is. -/
theorem enable_reflect {s : State} {l : Lane} {v : Nat} (hv : v < 2) (h : s.serves l) :
    s.enableWrite l .reflect v = (s.funcWrite .reflect v).funcWrite .plm (s.rd PLM_CTRL_EN) := by
  have hL : (findReg 0x40080000).map (fun p => p.fields l) = some [(PLM_CTRL_RUNST_R, .ro, true), (PLM_CTRL_REFL_EN, .rw, false), (PLM_CTRL_RUNST, .ro, true), (PLM_CTRL_EN, .rw, false)] := rfl
  have e : s.wordWith l 0x40080000 PLM_CTRL_REFL_EN v = v * 16 + s.rd PLM_CTRL_EN := by
    rw [wordWith_fields hL]; simp [sumN, PLM_CTRL_EN, PLM_CTRL_REFL_EN, PLM_CTRL_RUNST, PLM_CTRL_RUNST_R]; try omega
  have b0 := rd_lt s PLM_CTRL_EN
  change s.rd PLM_CTRL_EN < 2 at b0
  have hs := store_register (x := cleanWrite) (v := s.wordWith l 0x40080000 PLM_CTRL_REFL_EN v) (w := v * 16 + s.rd PLM_CTRL_EN) h rfl (by rw [e]; exact Nat.mod_eq_of_lt (by omega)) (by decide) (by simp) (by simp [State.writeLock, State.plmLocked, State.secLocked]) hL rfl rfl rfl
  simp only [List.foldl, writeField_ro] at hs
  have we : bits (v * 16 + s.rd PLM_CTRL_EN) PLM_CTRL_REFL_EN.lo PLM_CTRL_REFL_EN.width = v := by
    change bits (v * 16 + s.rd PLM_CTRL_EN) 4 1 = _
    unfold bits; omega
  have w1 : bits (v * 16 + s.rd PLM_CTRL_EN) PLM_CTRL_EN.lo PLM_CTRL_EN.width = s.rd PLM_CTRL_EN := by
    change bits (v * 16 + s.rd PLM_CTRL_EN) 0 1 = _
    unfold bits; omega
  rw [we, w1, show ∀ t : State, t.writeField PLM_CTRL_REFL_EN .rw v = t.funcWrite .reflect v from fun t => writeField_en t .reflect v,
    show ∀ t : State, ∀ w, t.writeField PLM_CTRL_EN .rw w = t.funcWrite .plm w from fun t w => writeField_en t .plm w] at hs
  rw [show ∀ t : State, State.afterWrite t s 0x40080000 _ cleanWrite = t from fun t => by simp [State.afterWrite]] at hs
  exact hs

/-- The enable of a channel written. -/
theorem enable_channel {s : State} {l : Lane} (n : Fin 16) {v : Nat} (hv : v < 2) (h : s.serves l) : s.enableWrite l (.channel n) v = s.funcWrite (.channel n) v := by
  have hn := n.isLt
  have hr : (enField (.channel n)).reg = 0x40130100 + 32 * n.val := by
    show 0x40130100 + 32 * (n.val % 16) = _
    rw [Nat.mod_eq_of_lt hn]
  have hf := dmaEnable_find n.val hn
  have hL : (findReg (0x40130100 + 32 * n.val)).map (fun p => p.fields l) = some [(DMA_CH_W0_RUNST n.val, .ro, true), (DMA_CH_W0_EN n.val, .rw, false)] := by
    rw [hf]; rfl
  have e : s.wordWith l (0x40130100 + 32 * n.val) (DMA_CH_W0_EN n.val) v = v := by
    rw [wordWith_fields hL]; simp [sumN, DMA_CH_W0_RUNST, DMA_CH_W0_EN]
  unfold State.enableWrite State.commandStore
  rw [hr, show enField (.channel n) = DMA_CH_W0_EN n.val from rfl, e]
  refine (store_register_at (x := cleanWrite) (w := v) h rfl (Nat.mod_eq_of_lt (by omega)) (by omega) (by omega) (by omega) hf ⟨rfl, rfl⟩ (by omega)
    (lock_dma (by omega) (dmaLocked_no (by omega) (by omega) (by omega))) (core_engines (by omega)) (links_engines (by omega)) (control_engines (by omega))).trans ?_
  rw [afterWrite_dma (by omega)]
  show State.writeField (State.writeField s (DMA_CH_W0_RUNST n.val) .ro (bits v 1 2)) (enField (.channel n)) .rw (bits v 0 1) = _
  rw [writeField_ro, bits_bit hv, writeField_en]

theorem lockable_dcq {n : Nat} : bhm0Only (DCQ_Q_W0_CMDSEL n) = false := by
  simp [bhm0Only, DCQ_Q_W0_CMDSEL, BHM_CTRL_RING, BHM_STATUS_DRWRAP, BHM_STATUS_DRWAKE, BHM_STATUS_DRREJ]

theorem funcOf_cmdsel (n : Fin 17) : funcOf (DCQ_Q_W0_CMDSEL n.val) = none := by revert n; decide
theorem wo_flush (n : Fin 17) (s : State) (v : Nat) : s.writeField (DCQ_Q_W0_FLUSH n.val) .wo v = s.wr (DCQ_Q_W0_FLUSH n.val) v := by
  have : bhm0Only (DCQ_Q_W0_FLUSH n.val) = false := by revert n; decide
  simp [State.writeField, this]
theorem wo_drop (n : Fin 17) (s : State) (v : Nat) : s.writeField (DCQ_Q_W0_DROP n.val) .wo v = s.wr (DCQ_Q_W0_DROP n.val) v := by
  have : bhm0Only (DCQ_Q_W0_DROP n.val) = false := by revert n; decide
  simp [State.writeField, this]

/-- A store to the first register of a queue, with CMDSEL as it is. -/
theorem queue_store {s : State} {l : Lane} (n : Fin 17) {f d v : Nat} (hf2 : f < 2) (hd : d < 2) (hv : v < 2) {x : WriteMeet} (hx : x.parity = false) (h : s.serves l) :
    ∃ t, Near [DCQ_Q_W0_CMDSEL n.val] ((s.wr (DCQ_Q_W0_FLUSH n.val) f).wr (DCQ_Q_W0_DROP n.val) d) t ∧
      s.laneStore l (0x40140100 + 16 * n.val) 4 (f * 32 + d * 16 + s.rd (DCQ_Q_W0_CMDSEL n.val) * 8 + v) x =
        (t.funcWrite (.queue n) v).dcqCommand n.val (f == 1) (d == 1) x.writing := by
  have hn := n.isLt
  have hf := dcqEnable_find n.val hn
  have b := rd_lt s (DCQ_Q_W0_CMDSEL n.val)
  change s.rd (DCQ_Q_W0_CMDSEL n.val) < 2 at b
  generalize hw : f * 32 + d * 16 + s.rd (DCQ_Q_W0_CMDSEL n.val) * 8 + v = w
  have hs := store_register_at (x := x) (w := w) (v := w) h hx (Nat.mod_eq_of_lt (by omega)) (by omega) (by omega) (by omega) hf ⟨rfl, rfl⟩ (by omega)
    (lock_dcq (by omega)) (core_engines (by omega)) (links_engines (by omega)) (control_engines (by omega))
  change _ = State.afterWrite (State.writeField (State.writeField (State.writeField (State.writeField (State.writeField s (DCQ_Q_W0_FLUSH n.val) .wo (bits w 5 1)) (DCQ_Q_W0_DROP n.val) .wo (bits w 4 1))
    (DCQ_Q_W0_CMDSEL n.val) .rw (bits w 3 1)) (DCQ_Q_W0_RUNST n.val) .ro (bits w 1 2)) (enField (.queue n)) .rw (bits w 0 1)) s (0x40140100 + 16 * n.val) w x at hs
  rw [show bits w 5 1 = f by unfold bits; omega, show bits w 4 1 = d by unfold bits; omega, show bits w 3 1 = s.rd (DCQ_Q_W0_CMDSEL n.val) by unfold bits; omega,
    show bits w 0 1 = v by unfold bits; omega, writeField_ro, wo_flush, wo_drop, writeField_en] at hs
  have k1 : (DCQ_Q_W0_CMDSEL n.val).key ≠ (DCQ_Q_W0_FLUSH n.val).key := by simp [Field.key, DCQ_Q_W0_CMDSEL, DCQ_Q_W0_FLUSH]
  have k2 : (DCQ_Q_W0_CMDSEL n.val).key ≠ (DCQ_Q_W0_DROP n.val).key := by simp [Field.key, DCQ_Q_W0_CMDSEL, DCQ_Q_W0_DROP]
  refine ⟨_, Near.writeField (v := s.rd (DCQ_Q_W0_CMDSEL n.val)) (by simp) (by simp) (funcOf_cmdsel n) ?_, hs.trans ?_⟩
  · rw [rd_wr_ne _ _ k2, rd_wr_ne _ _ k1]
  · unfold State.afterWrite
    rw [if_neg (by omega), if_neg (by omega), if_neg (by omega), if_neg (by omega), if_neg (by omega), if_neg (by omega), if_pos (by omega)]
    rw [show (0x40140100 + 16 * n.val) / 16 % 0x100 - 16 = n.val by omega, show bit w 5 = (f == 1) by rw [Bool.eq_iff_iff]; simp only [bit, beq_iff_eq]; omega,
      show bit w 4 = (d == 1) by rw [Bool.eq_iff_iff]; simp only [bit, beq_iff_eq]; omega]

/-- The word that a queue's command, or its enable, is written with. -/
theorem queue_word (s : State) (l : Lane) (n : Fin 17) (g : Field) (v : Nat) : s.wordWith l (0x40140100 + 16 * n.val) g v =
    sumN ([(DCQ_Q_W0_FLUSH n.val, Access.wo, false), (DCQ_Q_W0_DROP n.val, .wo, false), (DCQ_Q_W0_CMDSEL n.val, .rw, false), (DCQ_Q_W0_RUNST n.val, .ro, true), (DCQ_Q_W0_EN n.val, .rw, false)].map
      (fun x => if x.1 = g then v * 2 ^ g.lo else if x.2.1 = .rw then s.rd x.1 * 2 ^ x.1.lo else 0)) := by
  refine wordWith_fields ?_
  rw [dcqEnable_find n.val n.isLt]; rfl

theorem flush_serves {s : State} {l : Lane} (n : Fin 17) (writing : Bool) (h : s.serves l) :
    ∃ t, Near [DCQ_Q_W0_CMDSEL n.val] ((s.wr (DCQ_Q_W0_FLUSH n.val) 1).wr (DCQ_Q_W0_DROP n.val) 0) t ∧
      execFlush l n writing s = .next ((t.funcWrite (.queue n) (s.rd (DCQ_Q_W0_EN n.val))).dcqCommand n.val true false writing) := by
  have e : s.wordWith l (0x40140100 + 16 * n.val) (DCQ_Q_W0_FLUSH n.val) 1 = 1 * 32 + 0 * 16 + s.rd (DCQ_Q_W0_CMDSEL n.val) * 8 + s.rd (DCQ_Q_W0_EN n.val) := by
    rw [queue_word]; simp [sumN, DCQ_Q_W0_FLUSH, DCQ_Q_W0_DROP, DCQ_Q_W0_CMDSEL, DCQ_Q_W0_RUNST, DCQ_Q_W0_EN]; omega
  obtain ⟨t, h1, h2⟩ := queue_store n (f := 1) (d := 0) (v := s.rd (DCQ_Q_W0_EN n.val)) (by decide) (by decide) (rd_lt s (DCQ_Q_W0_EN n.val)) (x := whileWriting writing) rfl h
  refine ⟨t, h1, ?_⟩
  rw [execFlush, e, h2]
  rfl

theorem drop_serves {s : State} {l : Lane} (n : Fin 17) (writing : Bool) (h : s.serves l) :
    ∃ t, Near [DCQ_Q_W0_CMDSEL n.val] ((s.wr (DCQ_Q_W0_FLUSH n.val) 0).wr (DCQ_Q_W0_DROP n.val) 1) t ∧
      execDrop l n writing s = .next ((t.funcWrite (.queue n) (s.rd (DCQ_Q_W0_EN n.val))).dcqCommand n.val false true writing) := by
  have e : s.wordWith l (0x40140100 + 16 * n.val) (DCQ_Q_W0_DROP n.val) 1 = 0 * 32 + 1 * 16 + s.rd (DCQ_Q_W0_CMDSEL n.val) * 8 + s.rd (DCQ_Q_W0_EN n.val) := by
    rw [queue_word]; simp [sumN, DCQ_Q_W0_FLUSH, DCQ_Q_W0_DROP, DCQ_Q_W0_CMDSEL, DCQ_Q_W0_RUNST, DCQ_Q_W0_EN]; omega
  obtain ⟨t, h1, h2⟩ := queue_store n (f := 0) (d := 1) (v := s.rd (DCQ_Q_W0_EN n.val)) (by decide) (by decide) (rd_lt s (DCQ_Q_W0_EN n.val)) (x := whileWriting writing) rfl h
  refine ⟨t, h1, ?_⟩
  rw [execDrop, e, h2]
  rfl

/-- The enable of a queue written. -/
theorem enable_queue {s : State} {l : Lane} (n : Fin 17) {v : Nat} (hv : v < 2) (h : s.serves l) :
    ∃ t, Near [DCQ_Q_W0_CMDSEL n.val] ((s.wr (DCQ_Q_W0_FLUSH n.val) 0).wr (DCQ_Q_W0_DROP n.val) 0) t ∧
      s.enableWrite l (.queue n) v = (t.funcWrite (.queue n) v).dcqCommand n.val false false false := by
  have hn := n.isLt
  have e : s.wordWith l (0x40140100 + 16 * n.val) (DCQ_Q_W0_EN n.val) v = 0 * 32 + 0 * 16 + s.rd (DCQ_Q_W0_CMDSEL n.val) * 8 + v := by
    rw [queue_word]; simp [sumN, DCQ_Q_W0_FLUSH, DCQ_Q_W0_DROP, DCQ_Q_W0_CMDSEL, DCQ_Q_W0_RUNST, DCQ_Q_W0_EN]
  obtain ⟨t, h1, h2⟩ := queue_store n (f := 0) (d := 0) (v := v) (by decide) (by decide) hv (x := cleanWrite) rfl h
  refine ⟨t, h1, ?_⟩
  have hr : (enField (.queue n)).reg = 0x40140100 + 16 * n.val := by
    show 0x40140100 + 16 * (n.val % 17) = _
    rw [Nat.mod_eq_of_lt hn]
  unfold State.enableWrite State.commandStore
  rw [hr, show enField (.queue n) = DCQ_Q_W0_EN n.val from rfl, e, h2]
  rfl

theorem servoDisable_serves {s : State} {l : Lane} (h : s.serves l) :
    ∃ t, Near [TB_CTRL_TWOSTEP_OK, TB_CTRL_TC_EN, TB_CTRL_PORTSEL, TB_CTRL_STEP_EN] s t ∧ execServoDisable l s = .next (t.wr TB_CTRL_SERVO_EN 0).servoOff := by
  obtain ⟨v, hv, hv0⟩ : ∃ v : Nat, v < 2 ∧ v = 0 := ⟨0, by decide, rfl⟩
  have hL : (findReg 0x40010000).map (fun p => p.fields l) = some [(TB_CTRL_TWOSTEP_OK, .rw, false), (TB_CTRL_TC_EN, .rw, false), (TB_CTRL_PORTSEL, .rw, false), (TB_CTRL_STEP_EN, .rw, false), (TB_CTRL_SERVO_EN, .rw, false)] := rfl
  have e : s.wordWith l 0x40010000 TB_CTRL_SERVO_EN v = s.rd TB_CTRL_TWOSTEP_OK * 16 + s.rd TB_CTRL_TC_EN * 8 + s.rd TB_CTRL_PORTSEL * 4 + s.rd TB_CTRL_STEP_EN * 2 + v := by
    rw [wordWith_fields hL]; simp [sumN, TB_CTRL_PORTSEL, TB_CTRL_SERVO_EN, TB_CTRL_STEP_EN, TB_CTRL_TC_EN, TB_CTRL_TWOSTEP_OK]; try omega
  have b4 := rd_lt s TB_CTRL_TWOSTEP_OK
  change s.rd TB_CTRL_TWOSTEP_OK < 2 at b4
  have b3 := rd_lt s TB_CTRL_TC_EN
  change s.rd TB_CTRL_TC_EN < 2 at b3
  have b2 := rd_lt s TB_CTRL_PORTSEL
  change s.rd TB_CTRL_PORTSEL < 2 at b2
  have b1 := rd_lt s TB_CTRL_STEP_EN
  change s.rd TB_CTRL_STEP_EN < 2 at b1
  have hs := store_register (x := cleanWrite) (v := s.wordWith l 0x40010000 TB_CTRL_SERVO_EN v) (w := s.rd TB_CTRL_TWOSTEP_OK * 16 + s.rd TB_CTRL_TC_EN * 8 + s.rd TB_CTRL_PORTSEL * 4 + s.rd TB_CTRL_STEP_EN * 2 + v) h rfl (by rw [e]; exact Nat.mod_eq_of_lt (by omega)) (by decide) (by simp) (by simp [State.writeLock]) hL rfl rfl rfl
  simp only [List.foldl, writeField_ro] at hs
  have n0 : Near [TB_CTRL_TWOSTEP_OK, TB_CTRL_TC_EN, TB_CTRL_PORTSEL, TB_CTRL_STEP_EN] s s := Near.refl _ s
  have w1 : bits (s.rd TB_CTRL_TWOSTEP_OK * 16 + s.rd TB_CTRL_TC_EN * 8 + s.rd TB_CTRL_PORTSEL * 4 + s.rd TB_CTRL_STEP_EN * 2 + v) TB_CTRL_TWOSTEP_OK.lo TB_CTRL_TWOSTEP_OK.width = s.rd TB_CTRL_TWOSTEP_OK := by
    change bits (s.rd TB_CTRL_TWOSTEP_OK * 16 + s.rd TB_CTRL_TC_EN * 8 + s.rd TB_CTRL_PORTSEL * 4 + s.rd TB_CTRL_STEP_EN * 2 + v) 4 1 = _
    unfold bits; omega
  rw [w1] at hs
  have m1 : Near [TB_CTRL_TWOSTEP_OK, TB_CTRL_TC_EN, TB_CTRL_PORTSEL, TB_CTRL_STEP_EN] (s) ((s).writeField TB_CTRL_TWOSTEP_OK .rw (s.rd TB_CTRL_TWOSTEP_OK)) := Near.writeField (by decide) (by decide) (by decide) (n0.rd TB_CTRL_TWOSTEP_OK (.inl (by decide))).symm
  have n1 := n0.trans m1
  generalize ht1 : (s).writeField TB_CTRL_TWOSTEP_OK .rw (s.rd TB_CTRL_TWOSTEP_OK) = t1 at hs m1 n1
  have w2 : bits (s.rd TB_CTRL_TWOSTEP_OK * 16 + s.rd TB_CTRL_TC_EN * 8 + s.rd TB_CTRL_PORTSEL * 4 + s.rd TB_CTRL_STEP_EN * 2 + v) TB_CTRL_TC_EN.lo TB_CTRL_TC_EN.width = s.rd TB_CTRL_TC_EN := by
    change bits (s.rd TB_CTRL_TWOSTEP_OK * 16 + s.rd TB_CTRL_TC_EN * 8 + s.rd TB_CTRL_PORTSEL * 4 + s.rd TB_CTRL_STEP_EN * 2 + v) 3 1 = _
    unfold bits; omega
  rw [w2] at hs
  have m2 : Near [TB_CTRL_TWOSTEP_OK, TB_CTRL_TC_EN, TB_CTRL_PORTSEL, TB_CTRL_STEP_EN] (t1) ((t1).writeField TB_CTRL_TC_EN .rw (s.rd TB_CTRL_TC_EN)) := Near.writeField (by decide) (by decide) (by decide) (n1.rd TB_CTRL_TC_EN (.inl (by decide))).symm
  have n2 := n1.trans m2
  generalize ht2 : (t1).writeField TB_CTRL_TC_EN .rw (s.rd TB_CTRL_TC_EN) = t2 at hs m2 n2
  have w3 : bits (s.rd TB_CTRL_TWOSTEP_OK * 16 + s.rd TB_CTRL_TC_EN * 8 + s.rd TB_CTRL_PORTSEL * 4 + s.rd TB_CTRL_STEP_EN * 2 + v) TB_CTRL_PORTSEL.lo TB_CTRL_PORTSEL.width = s.rd TB_CTRL_PORTSEL := by
    change bits (s.rd TB_CTRL_TWOSTEP_OK * 16 + s.rd TB_CTRL_TC_EN * 8 + s.rd TB_CTRL_PORTSEL * 4 + s.rd TB_CTRL_STEP_EN * 2 + v) 2 1 = _
    unfold bits; omega
  rw [w3] at hs
  have m3 : Near [TB_CTRL_TWOSTEP_OK, TB_CTRL_TC_EN, TB_CTRL_PORTSEL, TB_CTRL_STEP_EN] (t2) ((t2).writeField TB_CTRL_PORTSEL .rw (s.rd TB_CTRL_PORTSEL)) := Near.writeField (by decide) (by decide) (by decide) (n2.rd TB_CTRL_PORTSEL (.inl (by decide))).symm
  have n3 := n2.trans m3
  generalize ht3 : (t2).writeField TB_CTRL_PORTSEL .rw (s.rd TB_CTRL_PORTSEL) = t3 at hs m3 n3
  have w4 : bits (s.rd TB_CTRL_TWOSTEP_OK * 16 + s.rd TB_CTRL_TC_EN * 8 + s.rd TB_CTRL_PORTSEL * 4 + s.rd TB_CTRL_STEP_EN * 2 + v) TB_CTRL_STEP_EN.lo TB_CTRL_STEP_EN.width = s.rd TB_CTRL_STEP_EN := by
    change bits (s.rd TB_CTRL_TWOSTEP_OK * 16 + s.rd TB_CTRL_TC_EN * 8 + s.rd TB_CTRL_PORTSEL * 4 + s.rd TB_CTRL_STEP_EN * 2 + v) 1 1 = _
    unfold bits; omega
  rw [w4] at hs
  have m4 : Near [TB_CTRL_TWOSTEP_OK, TB_CTRL_TC_EN, TB_CTRL_PORTSEL, TB_CTRL_STEP_EN] (t3) ((t3).writeField TB_CTRL_STEP_EN .rw (s.rd TB_CTRL_STEP_EN)) := Near.writeField (by decide) (by decide) (by decide) (n3.rd TB_CTRL_STEP_EN (.inl (by decide))).symm
  have n4 := n3.trans m4
  generalize ht4 : (t3).writeField TB_CTRL_STEP_EN .rw (s.rd TB_CTRL_STEP_EN) = t4 at hs m4 n4
  have we : bits (s.rd TB_CTRL_TWOSTEP_OK * 16 + s.rd TB_CTRL_TC_EN * 8 + s.rd TB_CTRL_PORTSEL * 4 + s.rd TB_CTRL_STEP_EN * 2 + v) TB_CTRL_SERVO_EN.lo TB_CTRL_SERVO_EN.width = 0 := by
    change bits (s.rd TB_CTRL_TWOSTEP_OK * 16 + s.rd TB_CTRL_TC_EN * 8 + s.rd TB_CTRL_PORTSEL * 4 + s.rd TB_CTRL_STEP_EN * 2 + v) 0 1 = _
    unfold bits; omega
  have wb : bit (s.rd TB_CTRL_TWOSTEP_OK * 16 + s.rd TB_CTRL_TC_EN * 8 + s.rd TB_CTRL_PORTSEL * 4 + s.rd TB_CTRL_STEP_EN * 2 + v) 0 = false := by
    simp only [bit, beq_eq_false_iff_ne]; omega
  have wk : ∀ t : State, t.writeField TB_CTRL_SERVO_EN .rw 0 = t.wr TB_CTRL_SERVO_EN 0 := by
    intro t
    have a1 : bhm0Only TB_CTRL_SERVO_EN = false := by decide
    have a2 : funcOf TB_CTRL_SERVO_EN = none := by decide
    simp [State.writeField, a1, a2, fieldLock_none (s := t) (show lockable TB_CTRL_SERVO_EN = false by decide)]
  rw [we, wk, show ∀ t : State, State.afterWrite t s 0x40010000 (s.rd TB_CTRL_TWOSTEP_OK * 16 + s.rd TB_CTRL_TC_EN * 8 + s.rd TB_CTRL_PORTSEL * 4 + s.rd TB_CTRL_STEP_EN * 2 + v) cleanWrite = t.servoOff from fun t => by
    unfold State.afterWrite; rw [if_pos rfl, wb]; rfl] at hs
  exact ⟨t4, n4, by rw [hv0] at hs; exact congrArg _ hs⟩

theorem reflectDisable_serves {s : State} {l : Lane} (h : s.serves l) : execReflectDisable l s = .next ((s.funcWrite .reflect 0).funcWrite .plm (s.rd PLM_CTRL_EN)) :=
  congrArg _ (enable_reflect (v := 0) (by decide) h)

theorem meteringStop_serves {s : State} {l : Lane} (raw : List Int) (h : s.serves l) :
    ∃ t, Near [MTR_CTRL_MODE] s t ∧ execMeteringStop l raw s = .next ((t.funcWrite .meter 0).stopSample raw) := by
  obtain ⟨t, n, e⟩ := enable_meter (v := 0) (by decide) h
  refine ⟨t, n, ?_⟩
  unfold execMeteringStop
  rw [if_pos h.1]
  exact congrArg (fun (x : State) => Host.Outcome.next (x.stopSample raw)) e

/-- LSC_SEAL of a lane that executes: in deterministic context its own register is reached in the same way. -/
theorem lscSeal_runs {s : State} {l : Lane} (v : Word) (h : s.laneRuns l = true) : execLscSeal l v s = .next (s.sealWrite l v.toNat) := by
  have iv := v.isLt
  simp [execLscSeal, State.commandStore, State.laneStore, h, State.storeRegister, cleanWrite, Nat.mod_eq_of_lt iv]

/-- A record into the lane's commit buffer (R91, R93). -/
theorem commitRecordStore_register {s : State} {l : Lane} (a v : Word) (h : s.laneRuns l = true) (hd : (s.lane l).det = true) (ha : 0x40000000 ≤ a.toNat ∧ a.toNat < 0x40160000)
    (h4 : a.toNat % 4 = 0) (h1 : a.toNat ≠ 0x40030100) (h2 : a.toNat ≠ 0x40020060) (h3 : a.toNat ≠ 0x40030018) :
    execCommitRecordStore l a v s = .next (s.recordStore l a.toNat v.toNat).1 := by
  have iv := v.isLt
  simp [execCommitRecordStore, State.laneStore, h, State.storeRegister, Nat.mod_eq_of_lt iv, hd, ha, h4, h1, h2, h3]
theorem commitRecordStore_pst {s : State} {l : Lane} (a v : Word) (h : s.laneRuns l = true) (hd : (s.lane l).det = true) (ha : 0x20000000 ≤ a.toNat ∧ a.toNat < 0x21000000)
    (h4 : a.toNat % 4 = 0) : execCommitRecordStore l a v s = .next (s.recordStore l a.toNat v.toNat).1 := by
  have iv := v.isLt
  have n1 : ¬(0x40000000 ≤ a.toNat ∧ a.toNat < 0x40160000) := by omega
  simp only [execCommitRecordStore, State.laneStore, h, State.storePst, cleanWrite, Nat.mod_eq_of_lt iv, hd, ha, h4, n1]
  simp

@[simp] theorem enterCore_runs (s : State) (l : Lane) (c : CoreMeet) : (s.enterCore l c).laneRuns l = s.laneRuns l := by cases l <;> rfl
@[simp] theorem enterCore_det (s : State) (l : Lane) (c : CoreMeet) : ((s.enterCore l c).lane l).det = (s.lane l).det := by cases l <;> rfl
@[simp] theorem enterCore_active (s : State) (l : Lane) (c : CoreMeet) : (s.enterCore l c).actsActive l = s.actsActive l := by cases l <;> rfl
@[simp] theorem enterCore_pstAllowed (s : State) (l : Lane) (c : CoreMeet) (w : Writer) (o : Nat) : (s.enterCore l c).pstAllowed w o = s.pstAllowed w o := by cases l <;> rfl

/-- A store of a lane's core that is no atomic instruction and that its PMP regions permit, outside the SRAM: it is the lane's store (R14, R16, R85). -/
theorem coreStore_plain {s : State} {l : Lane} {a size v : Nat} {x : WriteMeet} (h : s.laneRuns l = true) (hx : x.atomic = none) (hm : (s.enterCore l x.core).coreMay l true a size = true)
    (ha : (0x40000000 ≤ a ∧ a < 0x40160000) ∨ (0x20000000 ≤ a ∧ a < 0x21000000)) : s.coreStore l a size v x = (s.enterCore l x.core).laneStore l a size v x := by
  have n : (decide (0x08000000 ≤ a) && decide (a + size ≤ 0x08400000)) = false := by simp; omega
  simp [State.coreStore, State.coreAccess, h, hx, hm, ha, n]

/-- A word of PST stored in service context (R282 to R284). -/
theorem pstStore_serves {s : State} {l : Lane} (a v : Word) (x : WriteMeet) (h : s.serves l) (hx : x.parity = false) (ht : x.atomic = none)
    (hm : (s.enterCore l x.core).coreMay l true a.toNat 4 = true) (ha : 0x20000000 ≤ a.toNat ∧ a.toNat < 0x21000000)
    (h4 : a.toNat % 4 = 0) (hp : s.pstAllowed (.lane l) (a.toNat % 0x20000000) = true) :
    execPstStore l a 4 v x s = .next ((s.enterCore l x.core).pstPut (.lane l) (a.toNat % 0x20000000) v.toNat) := by
  have iv := v.isLt
  have n1 : ¬(0x40000000 ≤ a.toNat ∧ a.toNat < 0x40160000) := by omega
  obtain ⟨h0, hd, hc⟩ := h
  rw [execPstStore, coreStore_plain h0 ht hm (.inr ha)]
  simp [State.laneStore, State.storePst, Nat.mod_eq_of_lt iv, h0, hd, hc, hp, ha, h4, n1, hx, State.pstWrite]

/-- The lane's word that completes TB_SET (R15, R37). -/
theorem tbSet_store {s : State} {l : Lane} {v w : Nat} {p : RegPlace} (h : s.serves l) (iv : v < 2 ^ 32) (hp : findReg 0x4001002C = some p) (hw : p.word = 3) (hr : p.row.words = 4)
    (hL : p.fields l = [(TB_SET_SEC, .wo, false), (TB_SET_NS, .wo, false), (TB_SET_FRAC, .wo, false)]) (ea : s.assemble l p 0x40010020 v = w) :
    s.laneStore l 0x4001002C 4 v cleanWrite = State.setTime ((((s.unstage l 0x40010020 4).wr TB_SET_SEC (bits w 64 64)).wr TB_SET_NS (bits w 32 30)).wr TB_SET_FRAC (bits w 0 32))
      ⟨bits w 64 64, bits w 32 30, bits w 0 32⟩ := by
  obtain ⟨h0, hd, hc⟩ := h
  have hs : s.laneStore l 0x4001002C 4 v cleanWrite = s.performWrite (.service l) 0x4001002C v cleanWrite := by
    simp [State.laneStore, h0, State.storeRegister, hd, hc, cleanWrite, show v % 4294967296 = v from Nat.mod_eq_of_lt iv]
  have ep : s.performWrite (.service l) 0x4001002C v cleanWrite = s.wideWrite (.service l) p 0x40010020 v cleanWrite := by
    simp [State.performWrite, hp, commitRefused, Origin.isCommit, State.wordWrite, State.writeLock, hw, hr, serviceRefused]
  have eo : (Origin.service l).lane = l := rfl
  have k : ∀ f ∈ [TB_SET_SEC, TB_SET_NS, TB_SET_FRAC], bhm0Only f = false := by decide
  rw [hs, ep]
  unfold State.wideWrite
  simp only [eo, ea, hr, State.writeFields, hL]
  rw [takeEffect_core (t := State.setTime _ _) rfl]
  simp only [List.all, List.foldl, State.writeField, k TB_SET_SEC (by decide), k TB_SET_NS (by decide), k TB_SET_FRAC (by decide)]
  rfl

/-- TB_SET (R37): the three words that the lane staged, and the one it writes. -/
theorem tbSet_serves {s : State} {l : Lane} (v : Word) (h : s.serves l) {w0 w1 w2 w : Nat} (e0 : kvFind (s.lane l).staging 0x40010020 = some w0)
    (e1 : kvFind (s.lane l).staging 0x40010024 = some w1) (e2 : kvFind (s.lane l).staging 0x40010028 = some w2)
    (hw : w = w0 + w1 * 2 ^ 32 + w2 * 2 ^ 64 + v.toNat * 2 ^ 96) :
    ∃ t : State, t.tb = s.tb ∧ (∀ f : Field, (f.key < 0x40010020 * 1024 ∨ 0x40010030 * 1024 ≤ f.key) → t.rd f = s.rd f) ∧
      execTbSet l v s = .next (t.setTime ⟨bits w 64 64, bits w 32 30, bits w 0 32⟩) := by
  obtain ⟨p, hp, hq, hr, hL⟩ : ∃ p, findReg 0x4001002C = some p ∧ p.word = 3 ∧ p.row.words = 4 ∧ p.fields l = [(TB_SET_SEC, .wo, false), (TB_SET_NS, .wo, false), (TB_SET_FRAC, .wo, false)] :=
    ⟨_, rfl, rfl, rfl, rfl⟩
  have ea : s.assemble l p 0x40010020 v.toNat = w := by
    simp [State.assemble, hr, List.range, List.range.loop, e0, e1, e2, sumN]; omega
  refine ⟨_, ?_, ?_, congrArg Host.Outcome.next (tbSet_store h v.isLt hp hq hr hL ea)⟩
  · simp [State.unstage]
  · intro f hf
    have n1 : f.key ≠ TB_SET_SEC.key := by show f.key ≠ 0x40010020 * 1024 + 64; omega
    have n2 : f.key ≠ TB_SET_NS.key := by show f.key ≠ 0x40010020 * 1024 + 32; omega
    have n3 : f.key ≠ TB_SET_FRAC.key := by show f.key ≠ 0x40010020 * 1024 + 0; omega
    rw [rd_wr_ne _ _ n3, rd_wr_ne _ _ n2, rd_wr_ne _ _ n1]
    simp [State.unstage, State.rd]

/-- The enable of Radio A written, with that of Radio B as it is. -/
theorem enableBoth_rfA {s : State} {l : Lane} {v : Nat} (hv : v < 2) (h : s.serves l) :
    s.enableWrite l .rfA v = (s.funcWrite .rfB (s.rd RFM_CTRL_EN_B)).funcWrite .rfA (v) := by
  have hL : (findReg 0x40070000).map (fun p => p.fields l) = some [(RFM_CTRL_RUNST_B, .ro, true), (RFM_CTRL_EN_B, .rw, false), (RFM_CTRL_RUNST_A, .ro, true), (RFM_CTRL_EN_A, .rw, false)] := rfl
  have e : s.wordWith l 0x40070000 RFM_CTRL_EN_A v = s.rd RFM_CTRL_EN_B * 16 + v := by
    rw [wordWith_fields hL]; simp [sumN, RFM_CTRL_EN_A, RFM_CTRL_EN_B, RFM_CTRL_RUNST_A, RFM_CTRL_RUNST_B]; try omega
  have b4 := rd_lt s RFM_CTRL_EN_B
  change s.rd RFM_CTRL_EN_B < 2 at b4
  have hs := store_register (x := cleanWrite) (v := s.wordWith l 0x40070000 RFM_CTRL_EN_A v) (w := s.rd RFM_CTRL_EN_B * 16 + v) h rfl (by rw [e]; exact Nat.mod_eq_of_lt (by omega)) (by decide) (by simp) (by simp [State.writeLock, State.rfmLocked, State.secLocked]) hL rfl rfl rfl
  simp only [List.foldl, writeField_ro] at hs
  have we : bits (s.rd RFM_CTRL_EN_B * 16 + v) RFM_CTRL_EN_B.lo RFM_CTRL_EN_B.width = s.rd RFM_CTRL_EN_B := by
    change bits (s.rd RFM_CTRL_EN_B * 16 + v) 4 1 = _
    unfold bits; omega
  have w1 : bits (s.rd RFM_CTRL_EN_B * 16 + v) RFM_CTRL_EN_A.lo RFM_CTRL_EN_A.width = v := by
    change bits (s.rd RFM_CTRL_EN_B * 16 + v) 0 1 = _
    unfold bits; omega
  rw [we, w1, show ∀ t : State, ∀ w, t.writeField RFM_CTRL_EN_B .rw w = t.funcWrite .rfB w from fun t w => writeField_en t .rfB w,
    show ∀ t : State, ∀ w, t.writeField RFM_CTRL_EN_A .rw w = t.funcWrite .rfA w from fun t w => writeField_en t .rfA w] at hs
  rw [show ∀ t : State, State.afterWrite t s 0x40070000 _ cleanWrite = t from fun t => by simp [State.afterWrite]] at hs
  exact hs

/-- The enable of Radio B written, with that of Radio A as it is. -/
theorem enableBoth_rfB {s : State} {l : Lane} {v : Nat} (hv : v < 2) (h : s.serves l) :
    s.enableWrite l .rfB v = (s.funcWrite .rfB (v)).funcWrite .rfA (s.rd RFM_CTRL_EN_A) := by
  have hL : (findReg 0x40070000).map (fun p => p.fields l) = some [(RFM_CTRL_RUNST_B, .ro, true), (RFM_CTRL_EN_B, .rw, false), (RFM_CTRL_RUNST_A, .ro, true), (RFM_CTRL_EN_A, .rw, false)] := rfl
  have e : s.wordWith l 0x40070000 RFM_CTRL_EN_B v = v * 16 + s.rd RFM_CTRL_EN_A := by
    rw [wordWith_fields hL]; simp [sumN, RFM_CTRL_EN_A, RFM_CTRL_EN_B, RFM_CTRL_RUNST_A, RFM_CTRL_RUNST_B]; try omega
  have b0 := rd_lt s RFM_CTRL_EN_A
  change s.rd RFM_CTRL_EN_A < 2 at b0
  have hs := store_register (x := cleanWrite) (v := s.wordWith l 0x40070000 RFM_CTRL_EN_B v) (w := v * 16 + s.rd RFM_CTRL_EN_A) h rfl (by rw [e]; exact Nat.mod_eq_of_lt (by omega)) (by decide) (by simp) (by simp [State.writeLock, State.rfmLocked, State.secLocked]) hL rfl rfl rfl
  simp only [List.foldl, writeField_ro] at hs
  have we : bits (v * 16 + s.rd RFM_CTRL_EN_A) RFM_CTRL_EN_B.lo RFM_CTRL_EN_B.width = v := by
    change bits (v * 16 + s.rd RFM_CTRL_EN_A) 4 1 = _
    unfold bits; omega
  have w1 : bits (v * 16 + s.rd RFM_CTRL_EN_A) RFM_CTRL_EN_A.lo RFM_CTRL_EN_A.width = s.rd RFM_CTRL_EN_A := by
    change bits (v * 16 + s.rd RFM_CTRL_EN_A) 0 1 = _
    unfold bits; omega
  rw [we, w1, show ∀ t : State, ∀ w, t.writeField RFM_CTRL_EN_B .rw w = t.funcWrite .rfB w from fun t w => writeField_en t .rfB w,
    show ∀ t : State, ∀ w, t.writeField RFM_CTRL_EN_A .rw w = t.funcWrite .rfA w from fun t w => writeField_en t .rfA w] at hs
  rw [show ∀ t : State, State.afterWrite t s 0x40070000 _ cleanWrite = t from fun t => by simp [State.afterWrite]] at hs
  exact hs

/-- The enable of the modem written, with that of Reflect as it is. -/
theorem enableBoth_plm {s : State} {l : Lane} {v : Nat} (hv : v < 2) (h : s.serves l) :
    s.enableWrite l .plm v = (s.funcWrite .reflect (s.rd PLM_CTRL_REFL_EN)).funcWrite .plm (v) := by
  have hL : (findReg 0x40080000).map (fun p => p.fields l) = some [(PLM_CTRL_RUNST_R, .ro, true), (PLM_CTRL_REFL_EN, .rw, false), (PLM_CTRL_RUNST, .ro, true), (PLM_CTRL_EN, .rw, false)] := rfl
  have e : s.wordWith l 0x40080000 PLM_CTRL_EN v = s.rd PLM_CTRL_REFL_EN * 16 + v := by
    rw [wordWith_fields hL]; simp [sumN, PLM_CTRL_EN, PLM_CTRL_REFL_EN, PLM_CTRL_RUNST, PLM_CTRL_RUNST_R]; try omega
  have b4 := rd_lt s PLM_CTRL_REFL_EN
  change s.rd PLM_CTRL_REFL_EN < 2 at b4
  have hs := store_register (x := cleanWrite) (v := s.wordWith l 0x40080000 PLM_CTRL_EN v) (w := s.rd PLM_CTRL_REFL_EN * 16 + v) h rfl (by rw [e]; exact Nat.mod_eq_of_lt (by omega)) (by decide) (by simp) (by simp [State.writeLock, State.plmLocked, State.secLocked]) hL rfl rfl rfl
  simp only [List.foldl, writeField_ro] at hs
  have we : bits (s.rd PLM_CTRL_REFL_EN * 16 + v) PLM_CTRL_REFL_EN.lo PLM_CTRL_REFL_EN.width = s.rd PLM_CTRL_REFL_EN := by
    change bits (s.rd PLM_CTRL_REFL_EN * 16 + v) 4 1 = _
    unfold bits; omega
  have w1 : bits (s.rd PLM_CTRL_REFL_EN * 16 + v) PLM_CTRL_EN.lo PLM_CTRL_EN.width = v := by
    change bits (s.rd PLM_CTRL_REFL_EN * 16 + v) 0 1 = _
    unfold bits; omega
  rw [we, w1, show ∀ t : State, ∀ w, t.writeField PLM_CTRL_REFL_EN .rw w = t.funcWrite .reflect w from fun t w => writeField_en t .reflect w,
    show ∀ t : State, ∀ w, t.writeField PLM_CTRL_EN .rw w = t.funcWrite .plm w from fun t w => writeField_en t .plm w] at hs
  rw [show ∀ t : State, State.afterWrite t s 0x40080000 _ cleanWrite = t from fun t => by simp [State.afterWrite]] at hs
  exact hs

end Sys2Proof.Machine
end

