-- ==== Sys2Proof/Laws/Frame.lean ====
section
/-!
SUPPORT. The parts of the state that a store to a command register may change where it takes effect, for each such command.
-/
namespace Sys2Proof.Machine
set_option Elab.async false

/-- A block whose registers a list of fields lie in. -/
theorem near_only {K : List Field} {m : Nat} {r s t : State} (hK : ∀ f ∈ K, FieldIn f m) (h : Near K s t) (h0 : Only m r s) : Only m r t := by
  refine h0.trans ⟨fun p hp => ?_, by rw [h.rest], fun i => by rw [h.rest]; exact { i with regs := h.regsWf i.regs }⟩
  have e := h.rest
  cases p with
  | regs b =>
    intro g hg
    refine h.rd g (.inr fun f hf ek => ?_)
    have hb : f.block = g.block := by unfold Field.block; rw [ek]
    have := hK f hf
    unfold FieldIn Field.bit at this
    rw [hb, hg, Nat.min_eq_right (by cases b <;> decide)] at this
    rw [show (Part.regs b).bit = b.number from rfl, this] at hp
    cases hp
  | lanes => rw [e]; exact ⟨rfl, rfl⟩
  | sram => rw [e]; exact ⟨rfl, rfl⟩
  | esc => rw [e]; exact ⟨rfl, rfl⟩
  | pstBuffer => rw [e]; exact ⟨rfl, rfl⟩
  | _ => rw [e]; rfl
theorem near_only_one {f : Field} {m : Nat} {r s t : State} (hf : FieldIn f m) (h : Near [f] s t) (h0 : Only m r s) : Only m r t :=
  near_only (fun g hg => by rw [List.mem_singleton] at hg; rw [hg]; exact hf) h h0

theorem funcWrite_only_of {f : Func} {v m : Nat} {r s : State} (h1 : FieldIn (enField f) m) (h2 : FieldIn (runstField f) m)
    (hs : ∀ s, Only m r s → Only m r (s.funcStart f)) (hh : ∀ s, Only m r s → Only m r (s.funcHalt f)) (h0 : Only m r s) : Only m r (s.funcWrite f v) := by
  have h := wr_only (v := v) h1 h0
  rcases funcWrite_cases s f v with e | e | e <;> rw [e]
  · exact h
  · exact hs _ h
  · exact wr_only h2 (hh _ h)

theorem dcqCmdsel_in {n m : Nat} (hm : m.testBit 20 = true) : FieldIn (DCQ_Q_W0_CMDSEL n) m :=
  fieldIn_block (b := 20) (by have h : n % 17 < 17 := Nat.mod_lt _ (by decide); simp only [Field.block, Field.key, DCQ_Q_W0_CMDSEL]; omega) hm
theorem dcqDrop_in {n m : Nat} (hm : m.testBit 20 = true) : FieldIn (DCQ_Q_W0_DROP n) m :=
  fieldIn_block (b := 20) (by have h : n % 17 < 17 := Nat.mod_lt _ (by decide); simp only [Field.block, Field.key, DCQ_Q_W0_DROP]; omega) hm
theorem dcqFlush_in {n m : Nat} (hm : m.testBit 20 = true) : FieldIn (DCQ_Q_W0_FLUSH n) m :=
  fieldIn_block (b := 20) (by have h : n % 17 < 17 := Nat.mod_lt _ (by decide); simp only [Field.block, Field.key, DCQ_Q_W0_FLUSH]; omega) hm

/-- The parts that a function's enable concerns. -/
def funcMask : Func → Nat
  | .port0 => 512
  | .port1 => 1024
  | .pole => 2048
  | .rfA => 35184372088960
  | .rfB => 35184372088960
  | .plm => 211226525180160
  | .reflect => 211226525180160
  | .meter => 8796093026304
  | .channel _ => 524288
  | .queue _ => 17600810582016

theorem rtc_onVbat {s : State} {l : Lane} (h : s.serves l) (hv : s.rtc.onVbat = true) (n : Fin 8) (key : BitVec 16) :
    (Host.Outcome.next (s.commandStore l 0x400F0020 (key.toNat * 65536 + n.val)) : Host.Outcome State Fault Refusal) = .next s := by
  have i := key.isLt
  have j := n.isLt
  obtain ⟨h0, hd, hc⟩ := h
  simp [State.commandStore, State.laneStore, h0, State.storeRegister, hd, hc, cleanWrite, State.performWrite, hv]

theorem funcWrite_port0_only {μ v : Nat} {s₀ s : State} (hm : sub 512 μ = true) (h₀ : Only μ s₀ s) : Only μ s₀ (s.funcWrite .port0 v) :=
  funcWrite_only_of (fieldIn_block (b := 9) rfl (bit_mid hm rfl)) (fieldIn_block (b := 9) rfl (bit_mid hm rfl)) (fun s h => wr_only (by exact fieldIn_block (b := 9) rfl (bit_mid hm rfl)) h) (fun s h => h) h₀
theorem funcWrite_port1_only {μ v : Nat} {s₀ s : State} (hm : sub 1024 μ = true) (h₀ : Only μ s₀ s) : Only μ s₀ (s.funcWrite .port1 v) :=
  funcWrite_only_of (fieldIn_block (b := 10) rfl (bit_mid hm rfl)) (fieldIn_block (b := 10) rfl (bit_mid hm rfl)) (fun s h => wr_only (by exact fieldIn_block (b := 10) rfl (bit_mid hm rfl)) h) (fun s h => h) h₀
theorem funcWrite_pole_only {μ v : Nat} {s₀ s : State} (hm : sub 2048 μ = true) (h₀ : Only μ s₀ s) : Only μ s₀ (s.funcWrite .pole v) :=
  funcWrite_only_of (fieldIn_block (b := 11) rfl (bit_mid hm rfl)) (fieldIn_block (b := 11) rfl (bit_mid hm rfl)) (fun s h => wr_only (fieldIn_block (b := 11) rfl (bit_mid hm rfl)) h) (fun s h => h) h₀
theorem funcWrite_rfA_only {μ v : Nat} {s₀ s : State} (hm : sub 35184372088960 μ = true) (h₀ : Only μ s₀ s) : Only μ s₀ (s.funcWrite .rfA v) :=
  funcWrite_only_of (fieldIn_block (b := 7) rfl (bit_mid hm rfl)) (fieldIn_block (b := 7) rfl (bit_mid hm rfl)) (fun s h => rfStart_only (sub_mid rfl hm) h) (fun s h => h) h₀
theorem funcWrite_rfB_only {μ v : Nat} {s₀ s : State} (hm : sub 35184372088960 μ = true) (h₀ : Only μ s₀ s) : Only μ s₀ (s.funcWrite .rfB v) :=
  funcWrite_only_of (fieldIn_block (b := 7) rfl (bit_mid hm rfl)) (fieldIn_block (b := 7) rfl (bit_mid hm rfl)) (fun s h => rfStart_only (sub_mid rfl hm) h) (fun s h => h) h₀
theorem funcWrite_plm_only {μ v : Nat} {s₀ s : State} (hm : sub 70368744177920 μ = true) (h₀ : Only μ s₀ s) : Only μ s₀ (s.funcWrite .plm v) :=
  funcWrite_only_of (fieldIn_block (b := 8) rfl (bit_mid hm rfl)) (fieldIn_block (b := 8) rfl (bit_mid hm rfl)) (fun s h => plmStart_only (sub_mid rfl hm) h) (fun s h => h) h₀
theorem funcWrite_reflect_only {μ v : Nat} {s₀ s : State} (hm : sub 140857781002496 μ = true) (h₀ : Only μ s₀ s) : Only μ s₀ (s.funcWrite .reflect v) :=
  funcWrite_only_of (fieldIn_block (b := 8) rfl (bit_mid hm rfl)) (fieldIn_block (b := 8) rfl (bit_mid hm rfl)) (fun s h => wr_only (fieldIn_block (b := 8) rfl (bit_mid hm rfl)) h) (fun s h => rflAbort_only (sub_mid rfl hm) h) h₀
theorem funcWrite_meter_only {μ v : Nat} {s₀ s : State} (hm : sub 8796093026304 μ = true) (h₀ : Only μ s₀ s) : Only μ s₀ (s.funcWrite .meter v) :=
  funcWrite_only_of (fieldIn_block (b := 12) rfl (bit_mid hm rfl)) (fieldIn_block (b := 12) rfl (bit_mid hm rfl)) (fun s h => meterEnable_only (sub_mid rfl hm) h) (fun s h => meterHalt_only (sub_mid rfl hm) h) h₀
theorem funcWrite_channel_only {μ v : Nat} {s₀ s : State} {n : Fin 16} (hm : sub 524288 μ = true) (h₀ : Only μ s₀ s) : Only μ s₀ (s.funcWrite (.channel n) v) :=
  funcWrite_only_of (DMA_CH_W0_EN_in (bit_mid hm rfl)) (DMA_CH_W0_RUNST_in (bit_mid hm rfl)) (fun s h => wr_only (DMA_CH_W0_RUNST_in (bit_mid hm rfl)) h) (fun s h => h) h₀
theorem funcWrite_queue_only {μ v : Nat} {s₀ s : State} {n : Fin 17} (hm : sub 1048576 μ = true) (h₀ : Only μ s₀ s) : Only μ s₀ (s.funcWrite (.queue n) v) :=
  funcWrite_only_of (DCQ_Q_W0_EN_in (bit_mid hm rfl)) (DCQ_Q_W0_RUNST_in (bit_mid hm rfl)) (fun s h => wr_only (DCQ_Q_W0_RUNST_in (bit_mid hm rfl)) h) (fun s h => h) h₀

theorem sysrst_frame {s t : State} {l : Lane} (key : BitVec 16) (r : Bool) (h : s.serves l) (e : execSysrst l key r s = .next t) : Only 22515644494774271 s t := by
  obtain rfl : _ = t := Host.Outcome.next.inj ((sysrst_does key r h).symm.trans e)
  exact only_ite (systemReset_only rfl (Only.refl s)) (Only.refl s)

theorem crzEnable_frame {s t : State} {l : Lane}  (h : s.serves l) (e : execCrzEnable l  s = .next t) : Only 2251872794591292 s t := by
  obtain rfl : _ = t := Host.Outcome.next.inj ((crzEnable_does  h).symm.trans e)
  exact only_ite (Only.refl s) (sequencerOn_only rfl (Only.refl s))

theorem crzDisable_frame {s t : State} {l : Lane}  (h : s.serves l) (e : execCrzDisable l  s = .next t) : Only 134217732 s t := by
  obtain rfl : _ = t := Host.Outcome.next.inj ((crzDisable_does  h).symm.trans e)
  exact only_ite (crzStop_only rfl (Only.refl s)) (Only.refl s)

theorem injectEvent_frame {s t : State} {l : Lane} (chan : BitVec 7) (kind : Byte) (h : s.serves l) (e : execInjectEvent l chan kind s = .next t) : Only 704644612 s t := by
  obtain rfl : _ = t := Host.Outcome.next.inj ((injectEvent_does chan kind h).symm.trans e)
  exact inject_only rfl (Only.refl s)

theorem swap_frame {s t : State} {l : Lane} (key : BitVec 16) (h : s.serves l) (e : execSwap l key s = .next t) : Only 268435456 s t := by
  obtain rfl : _ = t := Host.Outcome.next.inj ((swap_does key h).symm.trans e)
  exact only_ite (swapCmd_only rfl (Only.refl s)) (Only.refl s)

theorem takeoutA_frame {s t : State} {l : Lane} (key : BitVec 16) (h : s.serves l) (e : execTakeoutA l key s = .next t) : Only 3254679956631052 s t := by
  obtain rfl : _ = t := Host.Outcome.next.inj ((takeoutA_does key h).symm.trans e)
  exact only_ite (takeOutCmd_only rfl (Only.refl s)) (Only.refl s)

theorem takeoutB_frame {s t : State} {l : Lane} (key : BitVec 16) (h : s.serves l) (e : execTakeoutB l key s = .next t) : Only 3254679956631052 s t := by
  obtain rfl : _ = t := Host.Outcome.next.inj ((takeoutB_does key h).symm.trans e)
  exact only_ite (takeOutCmd_only rfl (Only.refl s)) (Only.refl s)

theorem rejoin_frame {s t : State} {l : Lane} (key : BitVec 16) (h : s.serves l) (e : execRejoin l key s = .next t) : Only 301989896 s t := by
  obtain rfl : _ = t := Host.Outcome.next.inj ((rejoin_does key h).symm.trans e)
  exact only_ite (rejoinCmd_only rfl (Only.refl s)) (Only.refl s)

theorem lscJoin_frame {s t : State} {l : Lane} (value : Word) (h : s.serves l) (e : execLscJoin l value s = .next t) : Only 301989896 s t := by
  obtain rfl : _ = t := Host.Outcome.next.inj ((lscJoin_does value h).symm.trans e)
  exact joinWrite_only rfl (Only.refl s)

theorem radioDownlinkQueue_frame {s t : State} {l : Lane} (handle : Byte) (dst : BitVec 11) (len : BitVec 7) (h : s.serves l) (e : execRadioDownlinkQueue l handle dst len s = .next t) : Only 35184405643392 s t := by
  obtain rfl : _ = t := Host.Outcome.next.inj ((radioDownlinkQueue_does handle dst len h).symm.trans e)
  exact rfTxcmd_only rfl (Only.refl s)

theorem plcDownlinkQueue_frame {s t : State} {l : Lane} (handle : Byte) (dst : BitVec 11) (len : Byte) (h : s.serves l) (e : execPlcDownlinkQueue l handle dst len s = .next t) : Only 70368777732352 s t := by
  obtain rfl : _ = t := Host.Outcome.next.inj ((plcDownlinkQueue_does handle dst len h).symm.trans e)
  exact plcTxcmd_only rfl (Only.refl s)

theorem start_frame {s t : State} {l : Lane}  (h : s.serves l) (e : execStart l  s = .next t) : Only 140737488355584 s t := by
  obtain rfl : _ = t := Host.Outcome.next.inj ((start_serves  h).symm.trans e)
  exact rflArm_only rfl (Only.refl s)

theorem baseline_frame {s t : State} {l : Lane} (slot : BitVec 3) (h : s.serves l) (e : execBaseline l slot s = .next t) : Only 140737488355584 s t := by
  obtain rfl : _ = t := Host.Outcome.next.inj ((baseline_does slot h).symm.trans e)
  exact rflArm_only rfl (Only.refl s)

theorem abort_frame {s t : State} {l : Lane}  (h : s.serves l) (e : execAbort l  s = .next t) : Only 140857781002496 s t := by
  obtain rfl : _ = t := Host.Outcome.next.inj ((abort_serves  h).symm.trans e)
  exact rflAbort_only rfl (Only.refl s)

theorem enter_frame {s t : State} {l : Lane} (key : BitVec 16) (enter : Bool) (h : s.serves l) (e : execEnter l key enter s = .next t) : Only 1536 s t := by
  obtain rfl : _ = t := Host.Outcome.next.inj ((enter_does key enter h).symm.trans e)
  exact drEnter_only rfl (Only.refl s)

theorem commit_frame {s t : State} {l : Lane} (key : BitVec 16) (h : s.serves l) (e : execCommit l key s = .next t) : Only 4398046543872 s t := by
  by_cases hv : s.rtc.onVbat = true
  · obtain rfl : _ = t := Host.Outcome.next.inj ((rtc_onVbat h hv 1 key).symm.trans e)
    exact Only.refl s
  · obtain rfl : _ = t := Host.Outcome.next.inj ((commit_does key (Bool.not_eq_true _ ▸ hv) h).symm.trans e)
    exact only_ite (Only.refl s) (only_ite (wr_only (fieldIn_block (b := 15) rfl rfl) (Only.refl s)) (rtcCommit_only rfl (Only.refl s)))

theorem addHour_frame {s t : State} {l : Lane} (key : BitVec 16) (h : s.serves l) (e : execAddHour l key s = .next t) : Only 4398046543872 s t := by
  by_cases hv : s.rtc.onVbat = true
  · obtain rfl : _ = t := Host.Outcome.next.inj ((rtc_onVbat h hv 2 key).symm.trans e)
    exact Only.refl s
  · obtain rfl : _ = t := Host.Outcome.next.inj ((addHour_does key (Bool.not_eq_true _ ▸ hv) h).symm.trans e)
    exact only_ite (Only.refl s) (only_ite (wr_only (fieldIn_block (b := 15) rfl rfl) (Only.refl s)) (armHour_only rfl (Only.refl s)))

theorem subHour_frame {s t : State} {l : Lane} (key : BitVec 16) (h : s.serves l) (e : execSubHour l key s = .next t) : Only 4398046543872 s t := by
  by_cases hv : s.rtc.onVbat = true
  · obtain rfl : _ = t := Host.Outcome.next.inj ((rtc_onVbat h hv 3 key).symm.trans e)
    exact Only.refl s
  · obtain rfl : _ = t := Host.Outcome.next.inj ((subHour_does key (Bool.not_eq_true _ ▸ hv) h).symm.trans e)
    exact only_ite (Only.refl s) (only_ite (wr_only (fieldIn_block (b := 15) rfl rfl) (Only.refl s)) (armHour_only rfl (Only.refl s)))

theorem ponSet_frame {s t : State} {l : Lane} (key : BitVec 16) (h : s.serves l) (e : execPonSet l key s = .next t) : Only 4398046543872 s t := by
  by_cases hv : s.rtc.onVbat = true
  · obtain rfl : _ = t := Host.Outcome.next.inj ((rtc_onVbat h hv 4 key).symm.trans e)
    exact Only.refl s
  · obtain rfl : _ = t := Host.Outcome.next.inj ((ponSet_does key (Bool.not_eq_true _ ▸ hv) h).symm.trans e)
    exact only_ite (Only.refl s) (only_ite (wr_only (fieldIn_block (b := 15) rfl rfl) (Only.refl s)) (ponCommand_only rfl (Only.refl s)))

theorem ponClr_frame {s t : State} {l : Lane} (key : BitVec 16) (h : s.serves l) (e : execPonClr l key s = .next t) : Only 4398046543872 s t := by
  by_cases hv : s.rtc.onVbat = true
  · obtain rfl : _ = t := Host.Outcome.next.inj ((rtc_onVbat h hv 5 key).symm.trans e)
    exact Only.refl s
  · obtain rfl : _ = t := Host.Outcome.next.inj ((ponClr_does key (Bool.not_eq_true _ ▸ hv) h).symm.trans e)
    exact only_ite (Only.refl s) (only_ite (wr_only (fieldIn_block (b := 15) rfl rfl) (Only.refl s)) (ponCommand_only rfl (Only.refl s)))

theorem transition_frame {s t : State} {l : Lane} (key : BitVec 16) (user : Bool) (h : s.serves l) (e : execTransition l key user s = .next t) : Only 18155531134902272 s t := by
  obtain rfl : _ = t := Host.Outcome.next.inj ((transition_does key user h).symm.trans e)
  exact only_ite (wr_only (fieldIn_block (b := 16) rfl rfl) (Only.refl s)) (only_ite (wr_only (fieldIn_block (b := 16) rfl rfl) (wr_only (fieldIn_block (b := 16) rfl rfl) (Only.refl s)))
    (only_ite (wr_only (fieldIn_block (b := 16) rfl rfl) (Only.refl s)) (ksuTransition_only rfl (Only.refl s))))

theorem importBlob_frame {s t : State} {l : Lane} (key : BitVec 16) (user : Bool) (h : s.serves l) (e : execImportBlob l key user s = .next t) : Only 18155531134902272 s t := by
  obtain rfl : _ = t := Host.Outcome.next.inj ((importBlob_does key user h).symm.trans e)
  exact only_ite (wr_only (fieldIn_block (b := 16) rfl rfl) (Only.refl s)) (only_ite (wr_only (fieldIn_block (b := 16) rfl rfl) (wr_only (fieldIn_block (b := 16) rfl rfl) (Only.refl s)))
    (only_ite (wr_only (fieldIn_block (b := 16) rfl rfl) (Only.refl s)) (ksuImport_only rfl (Only.refl s))))

theorem derive_frame {s t : State} {l : Lane} (key : BitVec 16) (user : Bool) (h : s.serves l) (e : execDerive l key user s = .next t) : Only 274877972480 s t := by
  obtain rfl : _ = t := Host.Outcome.next.inj ((derive_does key user h).symm.trans e)
  exact only_ite (wr_only (fieldIn_block (b := 16) rfl rfl) (Only.refl s)) (only_ite (wr_only (fieldIn_block (b := 16) rfl rfl) (wr_only (fieldIn_block (b := 16) rfl rfl) (Only.refl s)))
    (only_ite (wr_only (fieldIn_block (b := 16) rfl rfl) (Only.refl s)) (ksuDerive_only rfl (Only.refl s))))

theorem clear_frame {s t : State} {l : Lane} (key : BitVec 16) (user : Bool) (h : s.serves l) (e : execClear l key user s = .next t) : Only 274877972480 s t := by
  obtain rfl : _ = t := Host.Outcome.next.inj ((clear_does key user h).symm.trans e)
  exact only_ite (wr_only (fieldIn_block (b := 16) rfl rfl) (Only.refl s)) (only_ite (wr_only (fieldIn_block (b := 16) rfl rfl) (wr_only (fieldIn_block (b := 16) rfl rfl) (Only.refl s)))
    (only_ite (wr_only (fieldIn_block (b := 16) rfl rfl) (Only.refl s)) (ksuClear_only rfl (Only.refl s))))

theorem enrolpuf_frame {s t : State} {l : Lane} (key : BitVec 16) (user : Bool) (reads : List Octets) (h : s.serves l) (e : execEnrolpuf l key user reads s = .next t) : Only 18155531134902272 s t := by
  obtain rfl : _ = t := Host.Outcome.next.inj ((enrolpuf_does key user reads h).symm.trans e)
  exact only_ite (wr_only (fieldIn_block (b := 16) rfl rfl) (Only.refl s)) (only_ite (wr_only (fieldIn_block (b := 16) rfl rfl) (wr_only (fieldIn_block (b := 16) rfl rfl) (Only.refl s)))
    (only_ite (wr_only (fieldIn_block (b := 16) rfl rfl) (Only.refl s)) (ksuEnrol_only rfl (Only.refl s))))

theorem cryJob_frame {s t : State} {l : Lane} (addr : Word) (user : Bool) (h : s.serves l) (e : execCryJob l addr user s = .next t) : Only 549772722176 s t := by
  obtain rfl : _ = t := Host.Outcome.next.inj ((cryJob_serves addr user h).symm.trans e)
  exact cryJob_only rfl (Only.refl s)

theorem program_frame {s t : State} {l : Lane} (key : BitVec 16) (h : s.serves l) (e : execProgram l key s = .next t) : Only 281474976972800 s t := by
  obtain rfl : _ = t := Host.Outcome.next.inj ((program_does key h).symm.trans e)
  exact only_ite (wr_only (fieldIn_block (b := 18) rfl rfl) (Only.refl s)) (rldStore_only rfl (Only.refl s))

theorem erase_frame {s t : State} {l : Lane} (key : BitVec 16) (h : s.serves l) (e : execErase l key s = .next t) : Only 281474976972800 s t := by
  obtain rfl : _ = t := Host.Outcome.next.inj ((erase_does key h).symm.trans e)
  exact only_ite (wr_only (fieldIn_block (b := 18) rfl rfl) (Only.refl s)) (rldStore_only rfl (Only.refl s))

theorem cancel_frame {s t : State} {l : Lane} (key : BitVec 16) (h : s.serves l) (e : execCancel l key s = .next t) : Only 2674132571660288 s t := by
  obtain rfl : _ = t := Host.Outcome.next.inj ((cancel_does key h).symm.trans e)
  exact only_ite (wr_only (fieldIn_block (b := 18) rfl rfl) (Only.refl s)) (rldCancel_only rfl (Only.refl s))

theorem verify_frame {s t : State} {l : Lane} (key : BitVec 16) (slot : BitVec 2) (h : s.serves l) (e : execVerify l key slot s = .next t) : Only 2251799847567360 s t := by
  obtain rfl : _ = t := Host.Outcome.next.inj ((verify_does key slot h).symm.trans e)
  exact only_ite (wr_only (fieldIn_block (b := 18) rfl rfl) (Only.refl s)) (rldVerify_only rfl (Only.refl s))

theorem schedule_frame {s t : State} {l : Lane} (key : BitVec 16) (kind : BitVec 2) (cslot fslot : Bool) (h : s.serves l) (e : execSchedule l key kind cslot fslot s = .next t) : Only 2674132571660288 s t := by
  obtain rfl : _ = t := Host.Outcome.next.inj ((schedule_does key kind cslot fslot h).symm.trans e)
  exact only_ite (wr_only (fieldIn_block (b := 18) rfl rfl) (Only.refl s)) (rldSchedule_only rfl (Only.refl s))

theorem verdict_frame {s t : State} {l : Lane} (key : BitVec 16) (pass : Bool) (cause : Byte) (h : s.serves l) (e : execVerdict l key pass cause s = .next t) : Only 3254679956631052 s t := by
  obtain rfl : _ = t := Host.Outcome.next.inj ((verdict_does key pass cause h).symm.trans e)
  exact verdict_only rfl (Only.refl s)

theorem bistLaneA_frame {s t : State} {l : Lane} (key : BitVec 16) (h : s.serves l) (e : execBistLaneA l key s = .next t) : Only 562950668550156 s t := by
  obtain rfl : _ = t := Host.Outcome.next.inj ((bistLaneA_does key h).symm.trans e)
  exact only_ite (wr_only (fieldIn_block (b := 21) rfl rfl) (Only.refl s)) (bistOrder_only rfl (Only.refl s))

theorem bistLaneB_frame {s t : State} {l : Lane} (key : BitVec 16) (h : s.serves l) (e : execBistLaneB l key s = .next t) : Only 562950668550156 s t := by
  obtain rfl : _ = t := Host.Outcome.next.inj ((bistLaneB_does key h).symm.trans e)
  exact only_ite (wr_only (fieldIn_block (b := 21) rfl rfl) (Only.refl s)) (bistOrder_only rfl (Only.refl s))

theorem detectPathA_frame {s t : State} {l : Lane} (key : BitVec 16) (h : s.serves l) (e : execDetectPathA l key s = .next t) : Only 562949955518464 s t := by
  obtain rfl : _ = t := Host.Outcome.next.inj ((detectPathA_does key h).symm.trans e)
  exact only_ite (wr_only (fieldIn_block (b := 21) rfl rfl) (Only.refl s)) (sf1Test_only rfl (Only.refl s))

theorem detectPathB_frame {s t : State} {l : Lane} (key : BitVec 16) (h : s.serves l) (e : execDetectPathB l key s = .next t) : Only 562949955518464 s t := by
  obtain rfl : _ = t := Host.Outcome.next.inj ((detectPathB_does key h).symm.trans e)
  exact only_ite (wr_only (fieldIn_block (b := 21) rfl rfl) (Only.refl s)) (sf1Test_only rfl (Only.refl s))

theorem fullPathA_frame {s t : State} {l : Lane} (key : BitVec 16) (h : s.serves l) (e : execFullPathA l key s = .next t) : Only 562949955518464 s t := by
  obtain rfl : _ = t := Host.Outcome.next.inj ((fullPathA_does key h).symm.trans e)
  exact only_ite (wr_only (fieldIn_block (b := 21) rfl rfl) (Only.refl s)) (sf1Test_only rfl (Only.refl s))

theorem fullPathB_frame {s t : State} {l : Lane} (key : BitVec 16) (h : s.serves l) (e : execFullPathB l key s = .next t) : Only 562949955518464 s t := by
  obtain rfl : _ = t := Host.Outcome.next.inj ((fullPathB_does key h).symm.trans e)
  exact only_ite (wr_only (fieldIn_block (b := 21) rfl rfl) (Only.refl s)) (sf1Test_only rfl (Only.refl s))

theorem clrblk_frame {s t : State} {l : Lane} (key : BitVec 16) (h : s.serves l) (e : execClrblk l key s = .next t) : Only 2097152 s t := by
  obtain rfl : _ = t := Host.Outcome.next.inj ((clrblk_does key h).symm.trans e)
  exact only_ite (wr_only (fieldIn_block (b := 21) rfl rfl) (Only.refl s)) (clearBlock_only rfl (Only.refl s))

theorem lanternTableWrite_frame {s t : State} {l : Lane} (lantern : Fin 2048) (value : Word) (h : s.serves l) (e : execLanternTableWrite l lantern value s = .next t) : Only 35184405643392 s t := by
  obtain rfl : _ = t := Host.Outcome.next.inj ((lanternTableWrite_serves lantern value h).symm.trans e)
  exact ltabWrite_only rfl (Only.refl s)

theorem plcAssignmentPending_frame {s t : State} {l : Lane} (lantern : Fin 2048) (dly : Bool) (value : Word) (h : s.serves l) (e : execPlcAssignmentPending l lantern dly value s = .next t) : Only 70368744177920 s t := by
  cases dly
  · obtain rfl : _ = t := Host.Outcome.next.inj ((plcAssignmentPending_serves lantern value h).symm.trans e)
    exact plcTabWrite_only rfl (Only.refl s)
  · obtain rfl : _ = t := Host.Outcome.next.inj ((plcDelayPending_serves lantern value h).symm.trans e)
    exact plcDlyWrite_only rfl (Only.refl s)

theorem txTailWrite_frame {s t : State} {l : Lane} (p : Fin 2) (value : Word) (h : s.serves l) (e : execTxTailWrite l p value s = .next t) : Only 17592186045952 s t := by
  obtain rfl : _ = t := Host.Outcome.next.inj ((txTailWrite_serves p value h).symm.trans e)
  exact txTail_only rfl (Only.refl s)

theorem sf1ThrWrite_frame {s t : State} {l : Lane} (value : Word) (h : s.serves l) (e : execSf1ThrWrite l value s = .next t) : Only 4096 s t := by
  obtain rfl : _ = t := Host.Outcome.next.inj ((sf1ThrWrite_serves value h).symm.trans e)
  exact sf1Thr_only rfl (Only.refl s)

theorem dmaTailWrite_frame {s t : State} {l : Lane} (ch : Fin 16) (value : Word) (h : s.serves l) (e : execDmaTailWrite l ch value s = .next t) : Only 524288 s t := by
  obtain rfl : _ = t := Host.Outcome.next.inj ((dmaTailWrite_serves ch value h).symm.trans e)
  have k : ∀ ch : Fin 16, (funcOf (DMA_CH_W3_TAIL ch.val)).isNone = true ∧ bhm0Only (DMA_CH_W3_TAIL ch.val) = false ∧ lockable (DMA_CH_W3_TAIL ch.val) = false := by decide
  obtain ⟨k1, k2, k3⟩ := k ch
  simp only [State.writeField, k2, Option.isNone_iff_eq_none.mp k1, fieldLock_none (s := s) k3]
  exact wr_only (DMA_CH_W3_TAIL_in rfl) (Only.refl s)

theorem flush_frame {s t : State} {l : Lane} (q : Fin 17) (writing : Bool) (h : s.serves l) (e : execFlush l q writing s = .next t) : Only 17600810582016 s t := by
  obtain ⟨u, hu, eu⟩ := flush_serves (s := s) q writing h
  obtain rfl : _ = t := Host.Outcome.next.inj (eu.symm.trans e)
  exact dcqCommand_only rfl (funcWrite_queue_only rfl (near_only_one (m := 17600810582016) (dcqCmdsel_in rfl) hu (wr_only (dcqDrop_in rfl) (wr_only (dcqFlush_in rfl) (Only.refl s)))))

theorem drop_frame {s t : State} {l : Lane} (q : Fin 17) (writing : Bool) (h : s.serves l) (e : execDrop l q writing s = .next t) : Only 17600810582016 s t := by
  obtain ⟨u, hu, eu⟩ := drop_serves (s := s) q writing h
  obtain rfl : _ = t := Host.Outcome.next.inj (eu.symm.trans e)
  exact dcqCommand_only rfl (funcWrite_queue_only rfl (near_only_one (m := 17600810582016) (dcqCmdsel_in rfl) hu (wr_only (dcqDrop_in rfl) (wr_only (dcqFlush_in rfl) (Only.refl s)))))

theorem servoDisable_frame {s t : State} {l : Lane}  (h : s.serves l) (e : execServoDisable l  s = .next t) : Only 101711874 s t := by
  obtain ⟨u, hu, eu⟩ := servoDisable_serves (s := s) h
  obtain rfl : _ = t := Host.Outcome.next.inj (eu.symm.trans e)
  refine servoOff_only rfl (wr_only (fieldIn_block (b := 1) rfl rfl) (near_only (m := 101711874) (by unfold FieldIn; decide) hu (Only.refl s)))

theorem reflectDisable_frame {s t : State} {l : Lane}  (h : s.serves l) (e : execReflectDisable l  s = .next t) : Only 211226525180160 s t := by
  obtain rfl : _ = t := Host.Outcome.next.inj ((reflectDisable_serves h).symm.trans e)
  exact funcWrite_plm_only rfl (funcWrite_reflect_only rfl (Only.refl s))

theorem meteringStop_frame {s t : State} {l : Lane} (raw : List Int) (h : s.serves l) (e : execMeteringStop l raw s = .next t) : Only 18023194637111296 s t := by
  obtain ⟨u, hu, eu⟩ := meteringStop_serves (s := s) raw h
  obtain rfl : _ = t := Host.Outcome.next.inj (eu.symm.trans e)
  exact stopSample_only rfl (funcWrite_meter_only (v := 0) rfl (near_only (by unfold FieldIn; decide) hu (Only.refl s)))

theorem tbSet_frame {s t : State} {l : Lane} (value : Word) (h : s.serves l) (e : execTbSet l value s = .next t) : Only 75497474 s t := by
  obtain ⟨p, hp, hq, hr, hL⟩ : ∃ p, findReg 0x4001002C = some p ∧ p.word = 3 ∧ p.row.words = 4 ∧ p.fields l = [(TB_SET_SEC, .wo, false), (TB_SET_NS, .wo, false), (TB_SET_FRAC, .wo, false)] :=
    ⟨_, rfl, rfl, rfl, rfl⟩
  obtain rfl : _ = t := Host.Outcome.next.inj ((congrArg Host.Outcome.next (tbSet_store h value.isLt hp hq hr hL rfl)).symm.trans e)
  refine setTime_only rfl (Nat.mod_lt _ (by decide)) (Nat.mod_lt _ (by decide)) (wr_only (fieldIn_block (b := 1) rfl rfl) (wr_only (fieldIn_block (b := 1) rfl rfl) (wr_only (fieldIn_block (b := 1) rfl rfl) ?_)))
  exact unstage_only rfl (Only.refl s)

theorem lscSeal_frame {s t : State} {l : Lane} (value : Word) (e : execLscSeal l value s = .next t) : Only 8388608 s t := by
  by_cases hr : s.laneRuns l = true
  · obtain rfl : _ = t := Host.Outcome.next.inj ((lscSeal_runs value hr).symm.trans e)
    exact sealWrite_only rfl (Only.refl s)
  · obtain rfl : _ = t := Host.Outcome.next.inj e
    simp only [State.commandStore, State.laneStore, hr]
    exact Only.refl s

theorem commitRecordStore_frame {s t : State} {l : Lane} (addr : Word) (value : Word) (e : execCommitRecordStore l addr value s = .next t) : Only 25174024 s t := by
  unfold execCommitRecordStore at e
  obtain rfl : _ = t := Host.Outcome.next.inj e
  by_cases hd : (s.lane l).det = true
  · rw [if_pos hd]
    unfold State.laneStore State.storeRegister State.storePst
    rw [if_pos hd, if_pos hd]
    refine only_ite (Only.refl s) (only_ite ?_ (only_ite ?_ (only_ite ?_ ?_)))
    · refine only_ite (trapLane_only rfl (Only.refl s)) (only_ite (sealWrite_only rfl (Only.refl s)) (only_ite (trapLane_only rfl (Only.refl s)) (recordStore_only rfl (Only.refl s))))
    · exact only_ite (trapLane_only rfl (pstMisaligned_only rfl (Only.refl s))) (recordStore_only rfl (Only.refl s))
    · exact only_ite (trapLane_only rfl (Only.refl s)) (only_ite (Only.refl s) (sramWrite_only rfl (Only.refl s)))
    · exact trapLane_only rfl (Only.refl s)
  · rw [if_neg hd]; exact Only.refl s

theorem pstStore_frame {s t : State} {l : Lane} (addr : Word) (size : Nat) (value : Word) (meet : WriteMeet) (ha : 0x20000000 ≤ addr.toNat ∧ addr.toNat < 0x21000000) (e : execPstStore l addr size value meet s = .next t) : Only 140857757933576 s t := by
  obtain rfl : _ = t := Host.Outcome.next.inj e
  have n1 : ¬(0x40000000 ≤ addr.toNat ∧ addr.toNat < 0x40160000) := by omega
  have n2 : (decide (0x08000000 ≤ addr.toNat) && decide (addr.toNat + size ≤ 0x08400000)) = false := by simp; omega
  have hc : Only 140857757933576 s (s.enterCore l meet.core) := enterCore_only rfl (Only.refl s)
  unfold State.coreStore State.coreAccess
  refine only_ite (Only.refl s) (only_ite (trapLane_only rfl hc) (only_ite (trapLane_only rfl hc) ?_))
  simp only [n2, Bool.false_and, Bool.false_eq_true, if_false]
  split
  · exact trapLane_only rfl hc
  · unfold State.laneStore
    rw [if_neg n1, if_pos ha]
    exact only_ite hc (only_ite (trapLane_only rfl (pstMisaligned_only rfl hc)) (storePst_only rfl hc))

/-- A write of a function's enable changes that function's parts only. -/
theorem enableWrite_frame {s : State} {l : Lane} {f : Func} {v : Nat} (hv : v < 2) (h : s.serves l) : Only (funcMask f) s (s.enableWrite l f v) := by
  cases f with
  | port0 => obtain ⟨u, n, e⟩ := enable_port0 hv h; rw [e]; exact funcWrite_port0_only rfl (near_only (by unfold FieldIn; decide) n (Only.refl s))
  | port1 => obtain ⟨u, n, e⟩ := enable_port1 hv h; rw [e]; exact funcWrite_port1_only rfl (near_only (by unfold FieldIn; decide) n (Only.refl s))
  | pole => obtain ⟨u, n, e⟩ := enable_pole hv h; rw [e]; exact funcWrite_pole_only rfl (near_only (by unfold FieldIn; decide) n (Only.refl s))
  | meter => obtain ⟨u, n, e⟩ := enable_meter hv h; rw [e]; exact funcWrite_meter_only rfl (near_only (by unfold FieldIn; decide) n (Only.refl s))
  | rfA => rw [enableBoth_rfA hv h]; exact funcWrite_rfA_only rfl (funcWrite_rfB_only rfl (Only.refl s))
  | rfB => rw [enableBoth_rfB hv h]; exact funcWrite_rfA_only rfl (funcWrite_rfB_only rfl (Only.refl s))
  | plm => rw [enableBoth_plm hv h]; exact funcWrite_plm_only rfl (funcWrite_reflect_only rfl (Only.refl s))
  | reflect => rw [enable_reflect hv h]; exact funcWrite_plm_only rfl (funcWrite_reflect_only rfl (Only.refl s))
  | channel n => rw [enable_channel n hv h]; change Only 524288 s _; exact funcWrite_channel_only rfl (Only.refl s)
  | queue n =>
    obtain ⟨u, k, e⟩ := enable_queue n hv h
    rw [e]
    change Only 17600810582016 s _
    exact dcqCommand_only rfl (funcWrite_queue_only rfl (near_only_one (m := 17600810582016) (dcqCmdsel_in rfl) k (wr_only (dcqDrop_in rfl) (wr_only (dcqFlush_in rfl) (Only.refl s)))))

theorem functionEnable_frame {s t : State} {l : Lane} (f : Func) (h : s.serves l) (e : execFunctionEnable l f s = .next t) : Only (funcMask f) s t := by
  obtain rfl : _ = t := Host.Outcome.next.inj e
  exact enableWrite_frame (by decide) h
theorem functionDisable_frame {s t : State} {l : Lane} (f : Func) (h : s.serves l) (e : execFunctionDisable l f s = .next t) : Only (funcMask f) s t := by
  obtain rfl : _ = t := Host.Outcome.next.inj e
  exact enableWrite_frame (by decide) h
end Sys2Proof.Machine
end

