-- ==== Sys2Proof/Laws/Effects.lean ====
section
/-!
SUPPORT. Small laws that say what the common operations leave as it was and what they give: commands while the module is up, fields and pieces of the state that an operation
does not concern, and events that are posted.
-/
namespace Sys2Proof.Machine
set_option Elab.async false

theorem whenUp_up {s : State} {f : State → State} (h : s.up = true) : s.whenUp f = f s := by simp [State.whenUp, h]
theorem whenUp_down {s : State} {f : State → State} (h : s.up = false) : s.whenUp f = s := by simp [State.whenUp, h]
theorem whenLanes_run {s : State} {f : State → State} (h : s.lanesRun = true) : s.whenLanes f = f s := by simp [State.whenLanes, h]

@[simp] theorem le_length (n v : Nat) : (le n v).length = n := by
  induction n generalizing v with
  | zero => rfl
  | succ n ih => simp [le, ih]

/-- A field of a block that an operation does not concern. -/
theorem only_rd {m : Nat} {s t : State} {f : Field} (h : Only m s t) (hb : (decide (f.block < 22) && !m.testBit f.block) = true) : t.rd f = s.rd f := by
  simp only [Bool.and_eq_true, decide_eq_true_eq, Bool.not_eq_true'] at hb
  obtain ⟨h1, h2⟩ := hb
  obtain ⟨b, e⟩ : ∃ b : Block, b.number = f.block := by
    generalize f.block = n at h1
    interval_cases n
    exacts [⟨.sys, rfl⟩, ⟨.tb, rfl⟩, ⟨.crz, rfl⟩, ⟨.lsc, rfl⟩, ⟨.lnu, rfl⟩, ⟨.esc, rfl⟩, ⟨.flt, rfl⟩, ⟨.rfm, rfl⟩, ⟨.plm, rfl⟩, ⟨.bhm0, rfl⟩, ⟨.bhm1, rfl⟩, ⟨.pbm, rfl⟩,
      ⟨.mtr, rfl⟩, ⟨.pst, rfl⟩, ⟨.evr, rfl⟩, ⟨.rtc, rfl⟩, ⟨.ksu, rfl⟩, ⟨.cry, rfl⟩, ⟨.rld, rfl⟩, ⟨.dma, rfl⟩, ⟨.dcq, rfl⟩, ⟨.saf, rfl⟩]
  exact h.same (.regs b) (by show m.testBit b.number = false; rw [e]; exact h2) f e.symm

/-- A piece of the state that an operation does not concern. -/
theorem only_part {m : Nat} {s t : State} (h : Only m s t) (p : Part) (hb : m.testBit p.bit = false) : p.same s t := h.same p hb

/-! ### Fields that are no enable and that nothing locks -/

/-- The blocks of the functions of R28. -/
def funcBlock (b : Nat) : Bool := b == 7 || b == 8 || b == 9 || b == 10 || b == 11 || b == 12 || b == 19 || b == 20

theorem enField_block : allFuncs.all (fun x => funcBlock (enField x).block) = true := by decide +kernel

/-- A field of another block is no enable. -/
theorem funcOf_none {f : Field} (h : funcBlock f.block = false) : funcOf f = none := by
  unfold funcOf
  rw [List.find?_eq_none]
  intro x hx e
  have := List.all_eq_true.mp enField_block x hx
  rw [beq_iff_eq.mp e, h] at this
  cases this

/-- A field of another block is not locked by a function that runs. -/
theorem fieldLock_other {s : State} {f : Field} (h : funcBlock f.block = false) : s.fieldLock f = none := by
  have c : ∀ g : Field, funcBlock g.block = true → f ≠ g := by
    intro g hg e; subst e; rw [h] at hg; cases hg
  have cn : ∀ L : List Field, L.all (fun g => funcBlock g.block) = true → L.contains f = false := by
    intro L hL
    rw [List.contains_eq_any_beq, List.any_eq_false]
    intro g hg e
    exact c g (List.all_eq_true.mp hL g hg) (beq_iff_eq.mp e)
  have hq : (List.range 17).any (fun n => f == DCQ_Q_W0_CMDSEL n && s.rd (DCQ_Q_W0_RUNST n) != 0) = false := by
    rw [List.any_eq_false]
    intro n _ e
    rw [Bool.and_eq_true, beq_iff_eq] at e
    refine c _ ?_ e.1
    have h : n % 17 < 17 := Nat.mod_lt _ (by decide)
    have : (DCQ_Q_W0_CMDSEL n).block = 20 := by simp only [Field.block, Field.key, DCQ_Q_W0_CMDSEL]; omega
    rw [this]; rfl
  have l0 : List.all [BHM_CTRL_MODE 0, BHM_CTRL_ANEG 0, BHM_CTRL_PREEMPT 0, BHM_CTRL_VERIFY_DIS 0, BHM_CTRL_ADDFRAG 0] (fun g => funcBlock g.block) = true := by decide +kernel
  have l1 : List.all [BHM_CTRL_MODE 1, BHM_CTRL_ANEG 1, BHM_CTRL_PREEMPT 1, BHM_CTRL_VERIFY_DIS 1, BHM_CTRL_ADDFRAG 1] (fun g => funcBlock g.block) = true := by decide +kernel
  unfold State.fieldLock
  simp only [cn _ l0, cn _ l1,
    c (BHM_CTRL_RING 0) (by decide +kernel), c MTR_CTRL_MODE (by decide +kernel), hq]
  simp

/-- A RW field of such a block takes the value written. -/
theorem writeField_rw {s : State} {f : Field} (h : funcBlock f.block = false) (v : Nat) : s.writeField f .rw v = s.wr f v := by
  have hb : bhm0Only f = false := by
    cases e : bhm0Only f with
    | false => rfl
    | true =>
      simp only [bhm0Only, List.contains_eq_any_beq, List.any_eq_true] at e
      obtain ⟨g, hg, e⟩ := e
      rw [beq_iff_eq] at e
      subst e
      simp only [List.mem_cons, List.not_mem_nil, or_false] at hg
      rcases hg with e | e | e | e <;> subst e <;> exact absurd h (by decide)
  simp [State.writeField, hb, funcOf_none h, fieldLock_other h]

/-- What a write of a register that is no command does. -/
theorem takeEffect_plain {s : State} {org : Origin} {p : RegPlace} {a v : Nat} {x : WriteMeet} (h0 : s.commandCore org a v = none) (h1 : s.commandLinks a v = none)
    (h2 : s.commandControl org a v x = none) : s.takeEffect org p a v x = (s.writeFields p org.lane v).afterWrite s a v x := by
  simp [State.takeEffect, h0, h1, h2]

/-! ### Counters (R29) -/

theorem raiseIf_rd_ne (s : State) {b : Bool} {f g : Field} (h : g.key ≠ f.key) : (s.raiseIf b f).rd g = s.rd g := by
  unfold State.raiseIf
  split
  · exact rd_wr_ne s 1 h
  · rfl
theorem raiseIf_rd_true (s : State) {b : Bool} {f : Field} (h : b = true) (hw : 0 < f.width) : (s.raiseIf b f).rd f = 1 := by
  unfold State.raiseIf
  rw [if_pos h, raise_def, rd_wr_same]
  exact Nat.mod_eq_of_lt (Nat.one_lt_two_pow (by omega))
theorem addCount_rd_same (s : State) {f w : Field} {n : Nat} (h : f.key ≠ w.key) : (s.addCount f n w).rd f = (s.rd f + n) % 2 ^ f.width := by
  unfold State.addCount
  simp only
  rw [raiseIf_rd_ne _ h, rd_wr_same]
theorem addCount_rd_ne (s : State) {f w g : Field} {n : Nat} (h1 : g.key ≠ f.key) (h2 : g.key ≠ w.key) : (s.addCount f n w).rd g = s.rd g := by
  unfold State.addCount
  simp only
  rw [raiseIf_rd_ne _ h2, rd_wr_ne _ _ h1]
theorem count_rd_same (s : State) {f w : Field} (h : f.key ≠ w.key) : (s.count f w).rd f = (s.rd f + 1) % 2 ^ f.width := addCount_rd_same s h
theorem count_rd_ne (s : State) {f w g : Field} (h1 : g.key ≠ f.key) (h2 : g.key ≠ w.key) : (s.count f w).rd g = s.rd g := addCount_rd_ne s h1 h2
theorem countSat_rd_same (s : State) {f w : Field} (h : f.key ≠ w.key) : (s.countSat f w).rd f = min (2 ^ f.width - 1) (s.rd f + 1) := by
  have b := rd_lt s f
  unfold State.countSat
  simp only
  split
  · rename_i hlt
    rw [raiseIf_rd_ne _ h, rd_wr_same, Nat.mod_eq_of_lt hlt]; omega
  · omega
theorem countSat_rd_ne (s : State) {f w g : Field} (h1 : g.key ≠ f.key) (h2 : g.key ≠ w.key) : (s.countSat f w).rd g = s.rd g := by
  unfold State.countSat
  simp only
  split
  · rw [raiseIf_rd_ne _ h2, rd_wr_ne _ _ h1]
  · rfl
theorem peak_rd_ne (s : State) {f g : Field} {v : Nat} (h : g.key ≠ f.key) : (s.peak f v).rd g = s.rd g := by
  unfold State.peak
  split
  · exact rd_wr_ne s v h
  · rfl

end Sys2Proof.Machine
end

