-- ==== Sys2Proof/Laws/FactsCore.lean ====
section
/-!
SUPPORT. Small laws about registers, resets, functions and the supply.
-/
namespace Sys2Proof.Machine
set_option Elab.async false
open Host (Cell)

/-! ### Stores and loads of registers -/

theorem irqEn_write (s : State) (l : Lane) (x : Nat) : s.writeField (SYS_IRQ_EN_EN l) .rw x = s.wr (SYS_IRQ_EN_EN l) x := by
  refine writeField_rw ?_ x
  have : (SYS_IRQ_EN_EN l).block = 0 := by cases l <;> rfl
  rw [this]; rfl

theorem irqEn_place (l : Lane) {p : RegPlace} (hp : findReg 0x40000014 = some p) : p.fields l = [(SYS_IRQ_EN_EN l, .rw, false)] := by
  have hL : (findReg 0x40000014).map (fun p => p.fields l) = some [(SYS_IRQ_EN_EN l, .rw, false)] := rfl
  rw [hp] at hL
  exact Option.some.inj hL

theorem writeFields_one (s : State) {p : RegPlace} {l : Lane} {f : Field} {k : Access} {b : Bool} (h : p.fields l = [(f, k, b)]) (w : Nat) :
    s.writeFields p l w = s.writeField f k (bits w f.lo f.width) := by
  unfold State.writeFields
  rw [h]
  rfl

theorem irqEn_takes (s : State) (l : Lane) (w : Nat) (m : WriteMeet) {p : RegPlace} (hp : findReg 0x40000014 = some p) :
    s.takeEffect (.service l) p 0x40000014 w m = s.wr (SYS_IRQ_EN_EN l) (bits w 1 21) := by
  have c1 : s.commandCore (.service l) 0x40000014 w = none := rfl
  have c2 : s.commandLinks 0x40000014 w = none := rfl
  have c3 : s.commandControl (.service l) 0x40000014 w m = none := rfl
  have c4 : ∀ t : State, State.afterWrite t s 0x40000014 w m = t := fun t => by simp [State.afterWrite]
  have e3 : (Origin.service l).lane = l := rfl
  refine (takeEffect_plain c1 c2 c3).trans ((c4 _).trans ?_)
  refine (writeFields_one s (irqEn_place l hp) w).trans ?_
  exact irqEn_write s l (bits w 1 21)

theorem own_store (s : State) (l : Lane) (v : Nat) (m : WriteMeet) (h : s.laneRuns l = true) (hd : (s.lane l).det = false) (hm : m.parity = false) :
    s.laneStore l 0x40000014 4 v m = s.wr (SYS_IRQ_EN_EN l) (bits (v % 2 ^ 32) 1 21) := by
  have h1 : s.laneStore l 0x40000014 4 v m = s.performWrite (.service l) 0x40000014 (v % 2 ^ 32) m := by
    simp [State.laneStore, State.storeRegister, h, hd, hm, State.ownRegister]
  obtain ⟨p, hp, e⟩ := performWrite_single (s := s) (org := .service l) (a := 0x40000014) (v := v % 2 ^ 32) (x := m) (by simp) (by decide) rfl rfl
  rw [h1, e, irqEn_takes s l _ m hp]

theorem svc_ne (l : Lane) : (LSC_SVC_WCNT_COUNT l).key ≠ LSC_STATUS_SVCSAT.key := by
  intro e
  have h : (lanePart l + 0x40030114) * 1024 + 0 = 0x40030004 * 1024 + 12 := e
  omega

/-! ### Wide values and what a reset clears -/

theorem loadLat_rd (s : State) (p : Nat) (f : Field) (h : f.reg ≠ TB_P0_LAT_TXLAT.reg) (h1 : f.reg ≠ TB_P1_LAT_TXLAT.reg) (hl : f.lo < 1024) : (s.loadLat p).rd f = s.rd f := by
  have k : ∀ g : Field, g.lo < 1024 → f.reg ≠ g.reg → f.key ≠ g.key := by
    intro g hg h e; unfold Field.key at e; omega
  have k1 := k TB_P0_LAT_TXLAT (by decide) h
  have k2 := k TB_P0_LAT_RXLAT (by decide) h
  have k3 := k TB_P1_LAT_TXLAT (by decide) h1
  have k4 := k TB_P1_LAT_RXLAT (by decide) h1
  unfold State.loadLat
  simp only
  split <;> simp only [rd_wr_ne _ _ k1, rd_wr_ne _ _ k2, rd_wr_ne _ _ k3, rd_wr_ne _ _ k4]

theorem kvFind_filter' {α : Type} (m : List (Nat × α)) (p : Nat → Bool) (k : Nat) : kvFind (m.filter (fun x => p x.1)) k = if p k = true then kvFind m k else none := by
  induction m with
  | nil => simp [kvFind]
  | cons a t ih =>
    obtain ⟨q, v⟩ := a
    by_cases e : q = k
    · subst e
      by_cases hp : p q = true
      · simp [List.filter, hp, kvFind]
      · simp only [Bool.not_eq_true] at hp
        rw [hp] at ih
        simpa [List.filter, hp] using ih
    · by_cases hp : p q = true
      · simp only [List.filter, hp, kvFind, if_neg e]; exact ih
      · simp only [Bool.not_eq_true] at hp
        simp only [List.filter, hp, kvFind, if_neg e]; exact ih

theorem clearAll_rd (s : State) (por : Bool) (f : Field) (hl : f.lo < 1024) (h : f.reg ≠ TB_P0_LAT_TXLAT.reg) (h1 : f.reg ≠ TB_P1_LAT_TXLAT.reg) (hk : keptByReset por f.key = false) :
    (s.clearAll por).rd f = f.reset % 2 ^ f.width := by
  unfold State.clearAll
  simp only [loadLat_rd _ _ f h h1 hl]
  simp only [State.rd]
  rw [kvFind_filter', if_neg (by simp [hk])]
  rfl

theorem clearAll_kept (s : State) (por : Bool) (f : Field) (hl : f.lo < 1024) (h : f.reg ≠ TB_P0_LAT_TXLAT.reg) (h1 : f.reg ≠ TB_P1_LAT_TXLAT.reg) (hk : keptByReset por f.key = true) :
    (s.clearAll por).rd f = s.rd f := by
  unfold State.clearAll
  simp only [loadLat_rd _ _ f h h1 hl]
  simp only [State.rd]
  rw [kvFind_filter', if_pos hk]
  unfold State.acmAbort
  split <;> rfl

theorem startLanes_rd (s : State) (f : Field) (h : f.key ≠ LSC_ROLE_STATE_A.key) (h2 : f.key ≠ LSC_ROLE_STATE_B.key) : s.startLanes.rd f = s.rd f := by
  unfold State.startLanes
  simp only [rd_wr_ne _ _ h, rd_wr_ne _ _ h2, onLane_rd]

theorem startLanes_role (s : State) (l : Lane) : s.startLanes.rd (roleField l) = roleBoot ∧ (s.startLanes.lane l).refilling = true := by
  cases l
  · constructor
    · show State.rd _ LSC_ROLE_STATE_A = _
      unfold State.startLanes
      simp (disch := decide) only [rd_wr_ne, rd_wr_same]; decide
    · rfl
  · constructor
    · show State.rd _ LSC_ROLE_STATE_B = _
      unfold State.startLanes
      simp (disch := decide) only [rd_wr_ne, rd_wr_same]; decide
    · rfl

theorem nd_ne (l : Lane) : (LSC_ND_CNT_COUNT l).key ≠ LSC_STATUS_NDWRAP.key := by
  intro e
  have h : (lanePart l + (LSC_ND_CNT_COUNT .A).reg) * 1024 + (LSC_ND_CNT_COUNT .A).lo = LSC_STATUS_NDWRAP.key := by
    refine Eq.trans ?_ e
    cases l <;> rfl
  have a1 : LSC_STATUS_NDWRAP.key = LSC_STATUS_NDWRAP.reg * 1024 + LSC_STATUS_NDWRAP.lo := rfl
  have b1 : (LSC_ND_CNT_COUNT .A).reg = 0x4003010C := rfl
  have b2 : LSC_STATUS_NDWRAP.reg = 0x40030004 := rfl
  have b3 : LSC_STATUS_NDWRAP.lo < 32 := by decide
  have b4 : (LSC_ND_CNT_COUNT .A).lo < 32 := by decide
  cases l <;> simp only [lanePart] at h <;> omega

theorem master_place (l : Lane) : (findReg 0x40010060).map (fun p => (p.row.words, p.word, p.fields l)) = some (3, 2, [(TB_MASTER_CLOCKID, .rw, false), (TB_MASTER_PORTNUM, .rw, false)]) := rfl

theorem master_store {s : State} {l : Lane} {v w : Nat} {p : RegPlace} {m : WriteMeet} (h : s.serves l) (hm : m.parity = false) (iv : v < 2 ^ 32) (hp : findReg 0x40010060 = some p) (hw : p.word = 2) (hr : p.row.words = 3)
    (hL : p.fields l = [(TB_MASTER_CLOCKID, .rw, false), (TB_MASTER_PORTNUM, .rw, false)]) (ea : s.assemble l p 0x40010058 v = w) :
    s.laneStore l 0x40010060 4 v m = ((s.unstage l 0x40010058 3).wr TB_MASTER_CLOCKID (bits w 16 64)).wr TB_MASTER_PORTNUM (bits w 0 16) := by
  obtain ⟨h0, hd, hc⟩ := h
  have hs : s.laneStore l 0x40010060 4 v m = s.performWrite (.service l) 0x40010060 v m := by
    simp [State.laneStore, h0, State.storeRegister, hd, hc, hm, show v % 4294967296 = v from Nat.mod_eq_of_lt iv]
  have ep : s.performWrite (.service l) 0x40010060 v m = s.wideWrite (.service l) p 0x40010058 v m := by
    simp [State.performWrite, hp, commitRefused, Origin.isCommit, State.wordWrite, State.writeLock, hw, hr, serviceRefused]
  have eo : (Origin.service l).lane = l := rfl
  rw [hs, ep]
  unfold State.wideWrite
  simp only [eo, ea, hr, hL]
  generalize s.unstage l 0x40010058 3 = t
  have al : ([(TB_MASTER_CLOCKID, Access.rw, false), (TB_MASTER_PORTNUM, Access.rw, false)].all fun f => f.2.1 == Access.wo) = false := rfl
  simp only [al]
  have c1 : t.commandCore (.service l) 0x40010058 w = none := rfl
  have c2 : t.commandLinks 0x40010058 w = none := rfl
  have c3 : t.commandControl (.service l) 0x40010058 w m = none := rfl
  have c4 : ∀ r : State, State.afterWrite r t 0x40010058 w m = r := fun r => by simp [State.afterWrite]
  have w1 : ∀ r : State, r.writeField TB_MASTER_CLOCKID .rw (bits w 16 64) = r.wr TB_MASTER_CLOCKID (bits w 16 64) := fun r => writeField_rw (by decide +kernel) _
  have w2 : ∀ r : State, r.writeField TB_MASTER_PORTNUM .rw (bits w 0 16) = r.wr TB_MASTER_PORTNUM (bits w 0 16) := fun r => writeField_rw (by decide +kernel) _
  show State.takeEffect t (.service l) p 0x40010058 w m = _
  refine (takeEffect_plain c1 c2 c3).trans ((c4 _).trans ?_)
  unfold State.writeFields
  rw [eo, hL]
  exact (w2 _).trans (congrArg (fun r : State => r.wr TB_MASTER_PORTNUM (bits w 0 16)) (w1 t))

theorem bits_mod (v lo w : Nat) : bits v lo w % 2 ^ w = bits v lo w := Nat.mod_eq_of_lt (Nat.mod_lt _ (Nat.two_pow_pos _))

/-! ### Resets, lanes that start and the boot ROM -/

theorem clear_sys (s : State) (por : Bool) : (s.clearAll por).sys = { s.sys with por := por || s.sys.por, heldOff := none } := by
  unfold State.clearAll State.acmAbort State.loadLat
  cases s.rld.op <;> cases por <;> rfl

theorem clear_pst (s : State) (por : Bool) : (s.clearAll por).pst = ⟨s.pst.cells, [], 0⟩ ∧ (s.clearAll por).otp = s.otp ∧ (s.clearAll por).rtc = { s.rtc with cycle := none } := by
  unfold State.clearAll State.acmAbort State.loadLat
  cases s.rld.op <;> exact ⟨rfl, rfl, rfl⟩

theorem clear_gone (s : State) (por : Bool) : (s.clearAll por).waiting = [] ∧ (s.clearAll por).held = [] ∧ (s.clearAll por).laneA.sram = [] ∧ (s.clearAll por).laneB.sram = [] := by
  unfold State.clearAll State.acmAbort State.loadLat
  cases s.rld.op <;> exact ⟨rfl, rfl, rfl, rfl⟩

theorem clear_acm (s : State) (por : Bool) (h : s.rld.op = none) : (s.clearAll por).acm = s.acm := by
  unfold State.clearAll State.acmAbort State.loadLat
  rw [h]
  rfl

theorem leaves_clear (s : State) (por : Bool) (f : Field) (h0 : f.lo < 1024) (h1 : f.reg ≠ TB_P0_LAT_TXLAT.reg) (h2 : f.reg ≠ TB_P1_LAT_TXLAT.reg) :
    (s.clearAll por).rd f = if keptByReset por f.key then s.rd f else f.reset % 2 ^ f.width := by
  split
  · rename_i h; exact clearAll_kept s por f h0 h1 h2 h
  · rename_i h; exact clearAll_rd s por f h0 h1 h2 (by simpa using h)

theorem laneReset_facts (s : State) (l : Lane) (new : Nat) : (s.laneReset l new).rd (roleField l) = new % 8 ∧ ((s.laneReset l new).lane l).refilling = true ∧ ((s.laneReset l new).lane l).sram = [] ∧
    ((s.laneReset l new).lane l).det = false ∧ ((s.laneReset l new).lane l).leaving = false ∧
    (s.laneReset l new).rd (match l with | .A => SYS_RESET_CAUSE_LANEA | .B => SYS_RESET_CAUSE_LANEB) = 1 ∧ (s.laneReset l new).lane l.other = s.lane l.other := by
  cases l <;> refine ⟨?_, rfl, rfl, rfl, rfl, ?_, rfl⟩
  all_goals simp only [State.laneReset, roleField, raise_def]
  · rw [rd_wr_ne _ _ (by decide), rd_wr_same]; rfl
  · rw [rd_wr_same]; rfl
  · rw [rd_wr_ne _ _ (by decide), rd_wr_same]; rfl
  · rw [rd_wr_same]; rfl

theorem lscEvent_rd (s : State) (k : Nat) (p : Octets) (f : Field) : (s.lscEvent k p).rd f = s.rd f := by
  unfold State.lscEvent; split <;> rfl

theorem lscEvent_lane (s : State) (k : Nat) (p : Octets) (l : Lane) : (s.lscEvent k p).lane l = s.lane l := by
  unfold State.lscEvent; split
  · cases l <;> rfl
  · rfl

theorem setRole_rd (s : State) (l : Lane) (new cause : Nat) : (s.setRole l new cause).rd (roleField l) = new % 8 := by
  unfold State.setRole
  simp only [lscEvent_rd, rd_wr_same]
  cases l <;> rfl

theorem setRole_lane (s : State) (l : Lane) (new cause : Nat) (l' : Lane) : (s.setRole l new cause).lane l' = s.lane l' := by
  unfold State.setRole
  simp only [lscEvent_lane, wr_lane]

theorem placeBody_lane (s : State) (l : Lane) (n : Nat) (b : Octets) : ((s.placeBody l n b).lane l).loaded = true ∧ ((s.placeBody l n b).lane l).det = false ∧ (s.placeBody l n b).lane l.other = s.lane l.other := by
  unfold State.placeBody
  refine ⟨?_, ?_, ?_⟩ <;> simp

theorem placed (s : State) (l : Lane) (L : List (Nat × Octets)) : ((L.foldl (fun (s : State) d => s.sramWrite l d.1 d.2) s).lane l).loaded = (s.lane l).loaded ∧
    ((L.foldl (fun (s : State) d => s.sramWrite l d.1 d.2) s).lane l).det = (s.lane l).det ∧ (L.foldl (fun (s : State) d => s.sramWrite l d.1 d.2) s).lane l.other = s.lane l.other ∧
    (L.foldl (fun (s : State) d => s.sramWrite l d.1 d.2) s).regs = s.regs := by
  induction L generalizing s with
  | nil => exact ⟨rfl, rfl, rfl, rfl⟩
  | cons d t ih =>
    simp only [List.foldl]
    obtain ⟨a, b, c, e⟩ := ih (s.sramWrite l d.1 d.2)
    refine ⟨a.trans ?_, b.trans ?_, c.trans ?_, e.trans ?_⟩ <;> simp [State.sramWrite]

/-! ### Functions that start and stop, the TAP and the supply -/

theorem run_width (f : Func) : (runstField f).width = 2 := by cases f <;> rfl

theorem start_run (s : State) (f : Func) (h : ∀ r, (f = .rfA ∧ r = 0) ∨ (f = .rfB ∧ r = 1) → mapBad (s.mapCodes r) (s.span r) = false)
    (hp : f = .plm → plcMapBad s.plcCodes = false ∧ s.plcKeyShared = false) (hm : f = .meter → s.rd MTR_CTRL_RUNST = 0) (he : s.rd (enField f) = 1) :
    (s.funcStart f).rd (enField f) = 1 ∧ (s.funcStart f).rd (runstField f) = 3 := by
  have k : ∀ u : State, u.rd (enField f) = 1 → (u.wr (runstField f) 3).rd (enField f) = 1 ∧ (u.wr (runstField f) 3).rd (runstField f) = 3 := by
    intro u hu
    rw [rd_wr_ne _ _ (runst_ne f).symm, rd_wr_same, run_width]
    exact ⟨hu, rfl⟩
  cases f with
  | rfA =>
    have := h 0 (.inl ⟨rfl, rfl⟩)
    simp only [State.funcStart, State.rfStart]
    rw [if_neg (by simp [this])]
    refine k _ ?_
    split
    · exact he
    · rw [onRadio_rd]; exact he
  | rfB =>
    have := h 1 (.inr ⟨rfl, rfl⟩)
    simp only [State.funcStart, State.rfStart]
    rw [if_neg (by simp [this])]
    refine k _ ?_
    split
    · exact he
    · rw [onRadio_rd]; exact he
  | plm =>
    obtain ⟨a, b⟩ := hp rfl
    simp only [State.funcStart, State.plmStart, a, b]
    rw [if_neg (by simp)]
    refine k _ ?_
    have fold : ∀ (L : List Nat) (u : State), (L.foldl (fun (s : State) n => s.plcPending n) u).rd PLM_CTRL_EN = u.rd PLM_CTRL_EN := by
      intro L
      induction L with
      | nil => intro u; rfl
      | cons x t ih => intro u; simp only [List.foldl]; rw [ih]; rfl
    rw [show enField .plm = PLM_CTRL_EN from rfl] at he ⊢
    rw [fold]
    split <;> exact he
  | meter =>
    have := hm rfl
    simp only [State.funcStart, State.meterEnable]
    rw [if_pos ⟨trivial, by rw [rd_wr_ne _ _ (by decide)]; exact this⟩]
    refine ⟨?_, ?_⟩
    · show State.rd _ MTR_CTRL_EN = 1
      simp (disch := decide) only [rd_mk, rd_wr_ne, rd_wr_same]; rfl
    · show State.rd _ MTR_CTRL_RUNST = 3
      simp (disch := decide) only [rd_mk, rd_wr_ne, rd_wr_same]; rfl
  | port0 => exact k _ he
  | port1 => exact k _ he
  | pole => exact k _ he
  | reflect => exact k _ he
  | channel n => exact k _ he
  | queue n => exact k _ he

theorem funcWrite_on (s : State) (f : Func) (h0 : s.rd (runstField f) = 0) (h : ∀ r, (f = .rfA ∧ r = 0) ∨ (f = .rfB ∧ r = 1) → mapBad ((s.wr (enField f) 1).mapCodes r) ((s.wr (enField f) 1).span r) = false)
    (hp : f = .plm → plcMapBad (s.wr (enField f) 1).plcCodes = false ∧ (s.wr (enField f) 1).plcKeyShared = false) :
    (s.funcWrite f 1).rd (enField f) = 1 ∧ (s.funcWrite f 1).rd (runstField f) = 3 := by
  have r0 : (s.wr (enField f) 1).rd (runstField f) = 0 := by rw [rd_wr_ne _ _ (runst_ne f)]; exact h0
  have e : s.funcWrite f 1 = (s.wr (enField f) 1).funcStart f := by
    unfold State.funcWrite
    simp [r0]
  rw [e]
  refine start_run _ f h hp ?_ ?_
  · intro hm; subst hm; exact r0
  · rw [rd_wr_same, en_width]; rfl

theorem map_same {s t : State} (r : Nat) (hA : ∀ w, t.rd (RFM_MAP_A_CODE w) = s.rd (RFM_MAP_A_CODE w)) (hB : ∀ w, t.rd (RFM_MAP_B_CODE w) = s.rd (RFM_MAP_B_CODE w)) (hr : t.rfRate r = s.rfRate r) :
    t.mapCodes r = s.mapCodes r ∧ t.span r = s.span r := by
  constructor
  · unfold State.mapCodes
    split <;> simp only [hA, hB]
  · unfold State.span; rw [hr]

theorem map_wr (s : State) (f : Field) (v r : Nat) (h : f.reg = 0x40070000) (hl : f.lo < 1024) : (s.wr f v).mapCodes r = s.mapCodes r ∧ (s.wr f v).span r = s.span r := by
  refine map_same r (fun w => rd_wr_ne s v ?_) (fun w => rd_wr_ne s v ?_) ?_
  · unfold Field.key; rw [h]; simp only [RFM_MAP_A_CODE]; omega
  · unfold Field.key; rw [h]; simp only [RFM_MAP_B_CODE]; omega
  · unfold State.rfRate
    refine rd_wr_ne s v ?_
    unfold Field.key; rw [h]; split <;> simp only [RFM_RFA_CFG_RATE, RFM_RFB_CFG_RATE] <;> omega

theorem map_near (s t : State) (f : Field) (r : Nat) (h : f.reg = 0x40070000) (hl : f.lo < 1024) (n : Near [f] s t) : t.mapCodes r = s.mapCodes r ∧ t.span r = s.span r := by
  have k : ∀ g : Field, g.key ≠ f.key → t.rd g = s.rd g := fun g hg => n.rd g (.inr (by intro x hx; rw [List.mem_singleton] at hx; rw [hx]; exact hg))
  refine map_same r (fun w => k _ ?_) (fun w => k _ ?_) ?_
  · unfold Field.key; rw [h]; simp only [RFM_MAP_A_CODE]; omega
  · unfold Field.key; rw [h]; simp only [RFM_MAP_B_CODE]; omega
  · unfold State.rfRate
    refine k _ ?_
    unfold Field.key; rw [h]; split <;> simp only [RFM_RFA_CFG_RATE, RFM_RFB_CFG_RATE] <;> omega

theorem plc_same {s t : State} (h : ∀ g : Field, g.reg ≠ 0x40080000 → g.lo < 1024 → t.rd g = s.rd g) : t.plcCodes = s.plcCodes ∧ t.plcKeyShared = s.plcKeyShared := by
  constructor
  · unfold State.plcCodes
    have : ∀ w, t.rd (PLM_MAP_CODE w) = s.rd (PLM_MAP_CODE w) := fun w => h _ (by simp only [PLM_MAP_CODE]; omega) (by simp only [PLM_MAP_CODE]; omega)
    simp only [this]
  · unfold State.plcKeyShared
    rw [h PLM_SEC_PKSLOT0 (by decide) (by decide), h PLM_SEC_PKSLOT1 (by decide) (by decide), h RFM_SEC_KSLOT0 (by decide) (by decide), h RFM_SEC_KSLOT1 (by decide) (by decide)]

theorem plc_wr (s : State) (f : Field) (v : Nat) (h : f.reg = 0x40080000) (hl : f.lo < 1024) : ∀ g : Field, g.reg ≠ 0x40080000 → g.lo < 1024 → (s.wr f v).rd g = s.rd g := by
  intro g h1 h2
  refine rd_wr_ne s v ?_
  unfold Field.key; omega

theorem plc_near (s t : State) (f : Field) (h : f.reg = 0x40080000) (hl : f.lo < 1024) (n : Near [f] s t) : ∀ g : Field, g.reg ≠ 0x40080000 → g.lo < 1024 → t.rd g = s.rd g := by
  intro g h1 h2
  refine n.rd g (.inr ?_)
  intro x hx; rw [List.mem_singleton] at hx; rw [hx]
  unfold Field.key; omega

theorem rflEnd_ctrl (s : State) (r : ReflectRun) (a b c : Nat) (L : List Change) (m : Bool) (f : Field) (h : f.reg = 0x40080000) (hl : f.lo < 1024) : (s.rflEnd r a b c L m).rd f = s.rd f := by
  have k : ∀ g : Field, g.reg ≠ 0x40080000 → g.lo < 1024 → f.key ≠ g.key := by
    intro g h1 h2 e; unfold Field.key at e; omega
  unfold State.rflEnd
  simp only
  rw [raiseIf_rd_ne _ (k _ (by decide) (by decide)), raise_def, rd_wr_ne _ _ (k _ (by decide) (by decide))]
  show State.rd (State.setPhase _ 0) f = _
  unfold State.setPhase
  rw [rd_wr_ne _ _ (k _ (by decide) (by decide))]
  rfl

/-- What the writer of a baseline record writes in PST leaves the registers of the block alone. -/
theorem pstWords_ctrl (s : State) (w : Writer) (L : List (Nat × Nat)) (f : Field) (h : f.reg = 0x40080000) (hl : f.lo < 1024) : (s.pstWords w L).rd f = s.rd f := by
  have e : f.block = 8 := by unfold Field.block Field.key; omega
  exact only_rd (pstWords_only (μ := 140857747447808) rfl (Only.refl _)) (by rw [e]; rfl)

theorem rflFail_ctrl (s : State) (r : ReflectRun) (n : Nat) (f : Field) (h : f.reg = 0x40080000) (hl : f.lo < 1024) : (s.rflFail r n).rd f = s.rd f := by
  unfold State.rflFail State.baselineVoid
  rw [rflEnd_ctrl _ _ _ _ _ _ _ _ h hl]
  split
  · exact pstWords_ctrl _ _ _ f h hl
  · rfl

theorem rflAbort_ctrl (s : State) (f : Field) (h : f.reg = 0x40080000) (hl : f.lo < 1024) : s.rflAbort.rd f = s.rd f := by
  have k : ∀ g : Field, g.reg ≠ 0x40080000 → g.lo < 1024 → f.key ≠ g.key := by
    intro g h1 h2 e; unfold Field.key at e; omega
  unfold State.rflAbort
  split
  · rfl
  · split
    · unfold State.setPhase
      rw [rd_wr_ne _ _ (k _ (by decide) (by decide))]
      rfl
    · unfold State.rflGiveUp
      exact rflFail_ctrl _ _ _ f h hl

theorem meterHalt_rd (s : State) (f : Field) : s.meterHalt.rd f = s.rd f := by unfold State.meterHalt; split <;> rfl

theorem funcWrite_off (s : State) (f : Func) (h0 : s.rd (runstField f) = 1 ∨ s.rd (runstField f) = 3) :
    (s.funcWrite f 0).rd (enField f) = 0 ∧ (s.funcWrite f 0).rd (runstField f) = 2 := by
  have r0 : (s.wr (enField f) 0).rd (runstField f) = s.rd (runstField f) := rd_wr_ne _ _ (runst_ne f)
  have e : s.funcWrite f 0 = ((s.wr (enField f) 0).funcHalt f).wr (runstField f) 2 := by
    unfold State.funcWrite
    simp only [r0]
    rw [if_neg (by decide), if_pos h0]
  rw [e, rd_wr_ne _ _ (runst_ne f).symm, rd_wr_same, run_width]
  refine ⟨?_, rfl⟩
  have z : (s.wr (enField f) 0).rd (enField f) = 0 := by rw [rd_wr_same, en_width]; rfl
  cases f with
  | reflect => exact (rflAbort_ctrl _ _ rfl (by decide)).trans z
  | meter => exact (meterHalt_rd _ _).trans z
  | _ => exact z

theorem wr_zero (u : State) (g : Field) : (u.wr g 0).rd g = 0 := by rw [rd_wr_same]; exact Nat.zero_mod _

theorem shut_port (s : State) (p : Nat) : (s.portShut p).rd (BHM_CTRL_RUNST p) = 0 := by
  unfold State.portShut
  generalize (if s.rd (DCQ_Q_W0_CMDSEL (fwdQueue p)) = 0 then s.dcqFlush (fwdQueue p) else s) = u
  generalize ((u.abortPort p).flushBacks p) = v
  simp only
  generalize State.raiseIf _ _ _ = w
  split
  · rw [rd_mk]; exact wr_zero _ _
  · exact wr_zero _ _

theorem shut_run (s : State) (f : Func) : (s.funcShut f).rd (runstField f) = 0 := by
  cases f with
  | port0 => exact shut_port s 0
  | port1 => exact shut_port s 1
  | rfA => unfold State.funcShut State.rfShut; exact wr_zero _ _
  | rfB => unfold State.funcShut State.rfShut; exact wr_zero _ _
  | pole => unfold State.funcShut State.pbShut; exact wr_zero _ _
  | plm => unfold State.funcShut State.plmShut; exact wr_zero _ _
  | reflect => unfold State.funcShut State.rflShut; exact wr_zero _ _
  | meter => unfold State.funcShut; exact wr_zero _ _
  | channel n => unfold State.funcShut; exact wr_zero _ _
  | queue n => unfold State.funcShut; exact wr_zero _ _

theorem start_en (s : State) (f : Func) : s.rd (enField f) = 1 → (s.funcStart f).rd (enField f) = 1 := by
  intro he
  have k : ∀ (u : State) (g : Field) (v : Nat), u.rd (enField f) = 1 → (enField f).key ≠ g.key → (u.wr g v).rd (enField f) = 1 := by
    intro u g v h1 h2; rw [rd_wr_ne _ _ h2]; exact h1
  cases f with
  | rfA =>
    simp only [State.funcStart, State.rfStart]
    split
    · exact k _ _ _ he (by decide)
    · refine k _ _ _ ?_ (by decide)
      split
      · exact he
      · rw [onRadio_rd]; exact he
  | rfB =>
    simp only [State.funcStart, State.rfStart]
    split
    · exact k _ _ _ he (by decide)
    · refine k _ _ _ ?_ (by decide)
      split
      · exact he
      · rw [onRadio_rd]; exact he
  | plm =>
    simp only [State.funcStart, State.plmStart]
    have fold : ∀ (L : List Nat) (u : State), (L.foldl (fun (s : State) n => s.plcPending n) u).rd PLM_CTRL_EN = u.rd PLM_CTRL_EN := by
      intro L
      induction L with
      | nil => intro u; rfl
      | cons x t ih => intro u; simp only [List.foldl]; rw [ih]; rfl
    split
    · rw [raiseIf_rd_ne _ (by decide), raiseIf_rd_ne _ (by decide)]; exact he
    · refine k _ _ _ ?_ (by decide)
      rw [show enField .plm = PLM_CTRL_EN from rfl] at he ⊢
      rw [fold]
      split <;> exact he
  | meter =>
    have e1 : (s.wr MTR_CTRL_EN 1).rd MTR_CTRL_EN = 1 := by rw [rd_wr_same]; rfl
    simp only [State.funcStart, State.meterEnable]
    split
    · show State.rd _ MTR_CTRL_EN = 1
      simp (disch := decide) only [rd_mk, rd_wr_ne, rd_wr_same]; rfl
    · split
      · show State.rd _ MTR_CTRL_EN = 1
        simp (disch := decide) only [rd_wr_ne, meterHalt_rd, rd_wr_same]; rfl
      · exact e1
  | port0 => exact k _ _ _ he (runst_ne _).symm
  | port1 => exact k _ _ _ he (runst_ne _).symm
  | pole => exact k _ _ _ he (runst_ne _).symm
  | reflect => exact k _ _ _ he (runst_ne _).symm
  | channel n => exact k _ _ _ he (runst_ne _).symm
  | queue n => exact k _ _ _ he (runst_ne _).symm

theorem pstStep_keeps (s : State) : s.pstStep.otp = s.otp ∧ s.pstStep.rtc = s.rtc := by
  exact ⟨(only_part (pstStep_only (μ := 140857747447808) rfl (Only.refl _)) .otp rfl), (only_part (pstStep_only (μ := 140857747447808) rfl (Only.refl _)) .rtc rfl)⟩

theorem pstSteps_keep (L : List Nat) (s : State) : (L.foldl (fun (s : State) _ => s.pstStep) s).otp = s.otp ∧ (L.foldl (fun (s : State) _ => s.pstStep) s).rtc = s.rtc := by
  induction L generalizing s with
  | nil => exact ⟨rfl, rfl⟩
  | cons x t ih =>
    simp only [List.foldl]
    have a := ih s.pstStep
    have b := pstStep_keeps s
    exact ⟨a.1.trans b.1, a.2.trans b.2⟩

theorem porEnd_cells (s : State) (o : Nat) : (s.pstAdvance o).sys = s.sys ∧ (s.pstAdvance o).mtr = s.mtr := ⟨(only_part (pstAdvance_only (μ := 51539615744) rfl (Only.refl _)) .sys rfl), (only_part (pstAdvance_only (μ := 51539615744) rfl (Only.refl _)) .mtr rfl)⟩

theorem bistCold_sys (s : State) (l : Lane) (r : BistResult) : (s.bistCold l r).sys = s.sys ∧ (s.bistCold l r).mtr = s.mtr := ⟨(only_part (bistCold_only (μ := 2251799849336832) rfl (Only.refl _)) .sys rfl), (only_part (bistCold_only (μ := 2251799849336832) rfl (Only.refl _)) .mtr rfl)⟩

theorem postOrHold_rd (s : State) (e : Event) (f : Field) : (s.postOrHold e).rd f = s.rd f := by unfold State.postOrHold; split <;> rfl

theorem code_lt (r : BistResult) : bistCode r < 4 := by unfold bistCode; split <;> [decide; split <;> decide]

theorem bistRecord_facts (s : State) (l : Lane) (r : BistResult) : (s.bistRecord l r).rd (bistResField l) = bistCode r ∧ (s.bistRecord l r).rd (bistBlockField l) = b2n (bistCode r != 1) ∧
    (s.bistRecord l r).rd SAF_STATUS_BISTDONE = 1 ∧ (s.bistRecord l r).rd (bistResField l.other) = s.rd (bistResField l.other) ∧ (s.bistRecord l r).rd (bistBlockField l.other) = s.rd (bistBlockField l.other) := by
  have hc : bistCode r % 2 ^ 3 = bistCode r := Nat.mod_eq_of_lt (by have := code_lt r; omega)
  have hb : b2n (bistCode r != 1) % 2 ^ 1 = b2n (bistCode r != 1) := by unfold b2n; split <;> rfl
  unfold State.bistRecord
  cases l <;> simp only [bistResField, bistBlockField, logicSig, memorySig, raise_def, Lane.other] <;>
    simp (disch := decide) only [rd_wr_ne, rd_wr_same, raiseIf_rd_ne] <;> exact ⟨hc, hb, rfl, trivial, trivial⟩

theorem eraseRecord_otp (s : State) (o : Nat) : (s.eraseRecord o).otp = s.otp := (only_part (eraseRecord_only (μ := 140857747447808) rfl (Only.refl _)) .otp rfl)

theorem erase_fold (L : List Nat) (s : State) (ep : Nat) : (L.foldl (fun (s : State) i => if octAt (s.sealedRecord i) 8 = ep then s.eraseRecord (sealedAt i) else s) s).otp = s.otp := by
  induction L generalizing s with
  | nil => rfl
  | cons x t ih =>
    simp only [List.foldl]
    rw [ih]
    split
    · exact eraseRecord_otp _ _
    · rfl

theorem otpProgrammed_facts (s : State) (g : Nat) : (s.otpProgrammed g).otp = { s.otp with log := kvSet s.otp.log s.epoch (lcCode g) } := by
  unfold State.otpProgrammed
  simp only
  have w : ∀ (u : State) (c : Prop) [Decidable c] (L : List (Nat × Nat)), (if c then u.pstWords .ksu L else u).otp = u.otp := by
    intro u c _ L; split
    · exact (only_part (pstWords_only (μ := 140857747447808) rfl (Only.refl _)) .otp rfl)
    · rfl
  refine (w _ _ _).trans ?_
  rw [eraseRecord_otp, erase_fold]

end Sys2Proof.Machine
end

