-- ==== Sys2Proof/Laws/FactsCrease.lean ====
section
/-!
SUPPORT. Small laws about the Time Base and the Crease Sequencer.
-/
namespace Sys2Proof.Machine
set_option Elab.async false
open Host (Cell)

/-! ### The Time Base -/

theorem dcqOffer_rd (s : State) (n : Nat) (e : Event) (f : Field) (h : f.block ≠ 20) (hb : f.block < 22) : (s.dcqOffer n e).1.rd f = s.rd f := by
  refine only_rd (dcqOffer_only (μ := 34603008) rfl (Only.refl _)) ?_
  rw [Bool.and_eq_true, decide_eq_true_eq]
  refine ⟨hb, ?_⟩
  interval_cases f.block <;> first | rfl | exact absurd rfl h

theorem postTb_rd (s : State) (k : Nat) (p : Octets) (f : Field) (h : f.block ≠ 20) (hb : f.block < 22) : (s.postTb k p).rd f = s.rd f := dcqOffer_rd s 14 _ f h hb

theorem postTb_tb (s : State) (k : Nat) (p : Octets) : (s.postTb k p).tb = s.tb := (only_part (postTb_only (μ := 34603008) rfl (Only.refl _)) .tb rfl)

theorem markLock_facts (s : State) (a b : Nat) : (s.markLock a b).regs = s.regs ∧ (s.markLock a b).tb.now = s.tb.now ∧ (s.markLock a b).tb.slew = s.tb.slew ∧ (s.markLock a b).tb.step = s.tb.step ∧ (s.markLock a b).tb.phase = s.tb.phase := by
  unfold State.markLock
  split
  · split <;> exact ⟨rfl, rfl, rfl, rfl, rfl⟩
  · split <;> exact ⟨rfl, rfl, rfl, rfl, rfl⟩

theorem setTb_facts (s : State) (new : Nat) (hn : new < 4) : (s.setTb new).rd TB_STATUS_STATE = new ∧ (s.rd TB_STATUS_STATE ≠ new → (s.setTb new).rd TB_STATUS_STCHG = 1) ∧
    (∀ f : Field, f.key ≠ TB_STATUS_STATE.key → f.key ≠ TB_STATUS_STCHG.key → f.block ≠ 20 → f.block < 22 → (s.setTb new).rd f = s.rd f) ∧
    (s.setTb new).tb.now = s.tb.now ∧ (s.setTb new).tb.slew = s.tb.slew ∧ (s.setTb new).tb.step = s.tb.step ∧ (s.setTb new).tb.phase = s.tb.phase ∧
    (s.rd TB_STATUS_STATE ≠ new → new = tbHoldover → (s.setTb new).tb.hold = 0) := by
  unfold State.setTb
  simp only
  split
  · rename_i h; exact ⟨h, fun c => absurd h c, fun _ _ _ _ _ => rfl, rfl, rfl, rfl, rfl, fun c => absurd h c⟩
  · have ml := markLock_facts ((s.wr TB_STATUS_STATE new).raise TB_STATUS_STCHG) (s.rd TB_STATUS_STATE) new
    have rd : ∀ (u v : State) (f : Field), u.regs = v.regs → u.rd f = v.rd f := by intro u v f e; unfold State.rd; rw [e]
    have h1 : ∀ f : Field, f.block ≠ 20 → f.block < 22 → (State.postTb { (((s.wr TB_STATUS_STATE new).raise TB_STATUS_STCHG).markLock (s.rd TB_STATUS_STATE) new) with tb := { (((s.wr TB_STATUS_STATE new).raise TB_STATUS_STCHG).markLock (s.rd TB_STATUS_STATE) new).tb with
        hold := if new = tbHoldover then 0 else (((s.wr TB_STATUS_STATE new).raise TB_STATUS_STCHG).markLock (s.rd TB_STATUS_STATE) new).tb.hold,
        inBound := if new = tbAcquiring then 0 else (((s.wr TB_STATUS_STATE new).raise TB_STATUS_STCHG).markLock (s.rd TB_STATUS_STATE) new).tb.inBound, outBound := 0 } } 1
        ([octet new, octet (s.rd TB_STATUS_STATE), octet 0, octet 0] ++ State.lastO { (((s.wr TB_STATUS_STATE new).raise TB_STATUS_STCHG).markLock (s.rd TB_STATUS_STATE) new) with tb := { (((s.wr TB_STATUS_STATE new).raise TB_STATUS_STCHG).markLock (s.rd TB_STATUS_STATE) new).tb with
        hold := if new = tbHoldover then 0 else (((s.wr TB_STATUS_STATE new).raise TB_STATUS_STCHG).markLock (s.rd TB_STATUS_STATE) new).tb.hold,
        inBound := if new = tbAcquiring then 0 else (((s.wr TB_STATUS_STATE new).raise TB_STATUS_STCHG).markLock (s.rd TB_STATUS_STATE) new).tb.inBound, outBound := 0 } })).rd f = ((s.wr TB_STATUS_STATE new).raise TB_STATUS_STCHG).rd f :=
      fun f h hb => (postTb_rd _ _ _ f h hb).trans (rd _ _ f ml.1)
    refine ⟨?_, fun _ => ?_, ?_, ?_, ?_, ?_, ?_, fun _ e => ?_⟩
    · rw [h1 _ (by decide) (by decide), raise_def, rd_wr_ne _ _ (by decide), rd_wr_same]; exact Nat.mod_eq_of_lt hn
    · rw [h1 _ (by decide) (by decide), raise_def, rd_wr_same]; rfl
    · intro f k1 k2 k3 k4
      rw [h1 f k3 k4, raise_def, rd_wr_ne _ _ k2, rd_wr_ne _ _ k1]
    · rw [postTb_tb]; exact ml.2.1
    · rw [postTb_tb]; exact ml.2.2.1
    · rw [postTb_tb]; exact ml.2.2.2.1
    · rw [postTb_tb]; exact ml.2.2.2.2
    · rw [postTb_tb]; exact if_pos e

theorem stallTick_rd (s : State) (n : Nat) (f : Field) (h : f.block ≠ 2) (hb : f.block < 22) : (s.stallTick n).rd f = s.rd f ∧ (s.stallTick n).tb = s.tb ∧ (s.stallTick n).cycles = s.cycles := by
  refine ⟨?_, (only_part (stallTick_only (μ := 134217732) rfl (Only.refl _)) .tb rfl), (only_part (stallTick_only (μ := 134217732) rfl (Only.refl _)) .cycles rfl)⟩
  refine only_rd (stallTick_only (μ := 134217732) rfl (Only.refl _)) ?_
  rw [Bool.and_eq_true, decide_eq_true_eq]
  refine ⟨hb, ?_⟩
  interval_cases f.block <;> first | rfl | exact absurd rfl h

theorem markStep_facts (s : State) (a b : Nat) : (s.markStep a b).regs = s.regs ∧ (s.markStep a b).tb.now = s.tb.now ∧ (s.markStep a b).tb.step = s.tb.step ∧ (s.markStep a b).tb.phase = s.tb.phase := by
  unfold State.markStep; exact ⟨rfl, rfl, rfl, rfl⟩

theorem crzStepped_facts (s : State) (a b : Nat) : (s.crzStepped a b).regs = s.regs ∧ (s.crzStepped a b).tb = s.tb := by
  unfold State.crzStepped; split <;> exact ⟨rfl, rfl⟩

theorem step_load (s : State) (v : Time) : (s.makeStep (.load v)).tb.now = v ∧ (s.makeStep (.load v)).tb.step = none ∧ (s.makeStep (.load v)).tb.phase = s.tb.phase ∧
    (s.makeStep (.load v)).rd TB_STATUS_STEPPED = 1 ∧ (s.makeStep (.load v)).rd TB_STATUS_STATE = s.rd TB_STATUS_STATE := by
  have rd : ∀ (u v : State) (f : Field), u.regs = v.regs → u.rd f = v.rd f := by intro u v f e; unfold State.rd; rw [e]
  unfold State.makeStep
  simp only
  refine ⟨?_, ?_, ?_, ?_, ?_⟩
  · rw [(crzStepped_facts _ _ _).2, postTb_tb]; rfl
  · rw [(crzStepped_facts _ _ _).2, postTb_tb]; rfl
  · rw [(crzStepped_facts _ _ _).2, postTb_tb]; rfl
  · rw [rd _ _ _ (crzStepped_facts _ _ _).1, postTb_rd _ _ _ _ (by decide) (by decide), raise_def, rd_wr_same]; rfl
  · rw [rd _ _ _ (crzStepped_facts _ _ _).1, postTb_rd _ _ _ _ (by decide) (by decide), raise_def, rd_wr_ne _ _ (by decide)]; rfl

theorem step_add (s : State) (d : Int) (h : s.rd TB_CTRL_SERVO_EN ≠ 0) : (s.makeStep (.add d)).tb.now = stepTarget s.tb.now (.add d) ∧ (s.makeStep (.add d)).tb.step = none ∧
    (s.makeStep (.add d)).tb.phase = s.tb.phase ∧ (s.makeStep (.add d)).rd TB_STATUS_STEPPED = 1 ∧ (s.makeStep (.add d)).rd TB_STATUS_STATE = tbAcquiring := by
  have rd : ∀ (u v : State) (f : Field), u.regs = v.regs → u.rd f = v.rd f := by intro u v f e; unfold State.rd; rw [e]
  generalize hx : stepTarget s.tb.now (.add d) = x
  have on : ∀ u : State, u.regs = (s.raise TB_STATUS_STEPPED).regs → u.on TB_CTRL_SERVO_EN = true := by
    intro u e
    unfold State.on
    rw [rd _ _ _ e, raise_def, rd_wr_ne _ _ (by decide)]
    exact bne_iff_ne.mpr h
  unfold State.makeStep
  simp only [hx]
  split
  · have f := fun u : State => setTb_facts u tbAcquiring (by decide)
    refine ⟨?_, ?_, ?_, ?_, ?_⟩
    · rw [(crzStepped_facts _ _ _).2, postTb_tb, (f _).2.2.2.1]; rfl
    · rw [(crzStepped_facts _ _ _).2, postTb_tb, (f _).2.2.2.2.2.1]; rfl
    · rw [(crzStepped_facts _ _ _).2, postTb_tb, (f _).2.2.2.2.2.2.1]; rfl
    · rw [rd _ _ _ (crzStepped_facts _ _ _).1, postTb_rd _ _ _ _ (by decide) (by decide), (f _).2.2.1 _ (by decide) (by decide) (by decide) (by decide), rd_mk, raise_def, rd_wr_same]; rfl
    · rw [rd _ _ _ (crzStepped_facts _ _ _).1, postTb_rd _ _ _ _ (by decide) (by decide)]; exact (f _).1
  · rename_i hc
    exact absurd (on _ rfl) hc

theorem sync_timeout (s : State) (st new : Nat) (hst : st = tbAcquiring ∧ new = tbFreerun ∨ st = tbLocked ∧ new = tbHoldover) (h : s.up = true) (he : s.rd TB_CTRL_SERVO_EN ≠ 0) (hs : s.rd TB_STATUS_STATE = st)
    (hq : s.syncLimit < s.tb.quiet) (hf : s.syncAwaited = false) :
    Answers .syncTimeout s (fun t => t.rd TB_STATUS_STATE = new ∧ t.rd TB_STATUS_SYNCLOSS = 1 ∧ t.rd TB_STATUS_STCHG = 1 ∧ (new = tbHoldover → t.tb.hold = 0) ∧ t.tb.now = s.tb.now) := by
  have e : s.syncTimeout = (s.raise TB_STATUS_SYNCLOSS).setTb new := by
    unfold State.syncTimeout
    have on : s.on TB_CTRL_SERVO_EN = true := bne_iff_ne.mpr he
    simp only [hs, on]
    rcases hst with ⟨a, b⟩ | ⟨a, b⟩ <;> subst a <;> subst b <;> simp [hq, hf]
  have r : (s.raise TB_STATUS_SYNCLOSS).rd TB_STATUS_STATE = st := (rd_wr_ne _ _ (by decide)).trans hs
  have ne : (s.raise TB_STATUS_SYNCLOSS).rd TB_STATUS_STATE ≠ new := by
    rw [r]; rcases hst with ⟨a, b⟩ | ⟨a, b⟩ <;> subst a <;> subst b <;> decide
  have f := setTb_facts (s.raise TB_STATUS_SYNCLOSS) new (by rcases hst with ⟨a, b⟩ | ⟨a, b⟩ <;> subst b <;> decide)
  refine ⟨_, congrArg Host.Outcome.next ((whenUp_up h).trans e), f.1, ?_, f.2.1 ne, f.2.2.2.2.2.2.2 ne, f.2.2.2.1⟩
  rw [f.2.2.1 _ (by decide) (by decide) (by decide) (by decide), raise_def, rd_wr_same]; rfl

/-! ### Registered events and batches -/

theorem markReceipt_facts (s : State) (e : Event) (b : Bool) : (s.markReceipt e b).crz = s.crz ∧ (s.markReceipt e b).regs = s.regs ∧ (s.markReceipt e b).waiting = s.waiting ∧ (s.markReceipt e b).tb = s.tb := by
  unfold State.markReceipt
  split <;> exact ⟨rfl, rfl, rfl, rfl⟩

theorem peak_facts (s : State) (f : Field) (v : Nat) : (s.peak f v).crz = s.crz ∧ (s.peak f v).waiting = s.waiting := by
  unfold State.peak
  split <;> exact ⟨rfl, rfl⟩

theorem find_insert (k : Nat) (es : List Event) (bs : List Bin) (h : ∀ b ∈ bs, b.k ≠ k) :
    (insertBy (fun a b => decide (a.k < b.k)) (⟨k, es⟩ : Bin) bs).find? (fun b => b.k == k) = some ⟨k, es⟩ := by
  induction bs with
  | nil => simp [insertBy]
  | cons b t ih =>
    unfold insertBy
    have hb : b.k ≠ k := h b (by simp)
    split
    · simp
    · rw [List.find?_cons_of_neg (by simpa using hb)]
      exact ih (fun x hx => h x (by simp [hx]))

theorem binOf_set (s : State) (k : Nat) (es : List Event) (c : Sequencer) : State.binOf { s with crz := { c with bins := setBin k es c.bins } } k = es := by
  unfold State.binOf setBin
  simp only
  rw [find_insert]
  intro b hb
  have := (List.mem_filter.mp hb).2
  simpa using this

theorem binOf_crz {s t : State} (h : s.crz.bins = t.crz.bins) (k : Nat) : s.binOf k = t.binOf k := by unfold State.binOf; rw [h]

theorem register_facts (s : State) (e : Event) :
    (s.isAhead (s.creaseOf (nsOf e.stamp)) = false → s.inTime (s.creaseOf (nsOf e.stamp)) = true →
      (s.register e).binOf (s.creaseOf (nsOf e.stamp)) = s.binOf (s.creaseOf (nsOf e.stamp)) ++ [e.ranked (s.binOf (s.creaseOf (nsOf e.stamp)))] ∧ (s.register e).crz.late = s.crz.late) ∧
    (s.isAhead (s.creaseOf (nsOf e.stamp)) = true ∨ s.inTime (s.creaseOf (nsOf e.stamp)) = false →
      (s.register e).crz.late = s.crz.late ++ [⟨{ e with late := true, ahead := s.isAhead (s.creaseOf (nsOf e.stamp)) }, s.tb.before⟩] ∧ (s.register e).crz.bins = s.crz.bins) ∧
    { (s.register e).crz with bins := [], late := [] } = { s.crz with bins := [], late := [] } ∧ (s.register e).waiting = s.waiting ∧ (s.register e).tb = s.tb ∧
    (∀ f : Field, f.key ≠ CRZ_POOL_PEAK.key → (s.register e).rd f = s.rd f) := by
  have rd : ∀ (u v : State) (f : Field), u.regs = v.regs → u.rd f = v.rd f := by intro u v f e; unfold State.rd; rw [e]
  have pk : ∀ (u : State) (v : Nat), (u.peak CRZ_POOL_PEAK v).tb = u.tb := by intro u v; unfold State.peak; split <;> rfl
  have ct : ∀ u v : State, u.regs = v.regs → u.tb = v.tb → ∀ n, u.creaseOf n = v.creaseOf n ∧ u.isAhead n = v.isAhead n := by
    intro u v h1 h2 n
    have p : u.P = v.P := by unfold State.P; rw [rd u v _ h1]
    have c : ∀ m, u.creaseOf m = v.creaseOf m := by intro m; unfold State.creaseOf; rw [p]
    refine ⟨c n, ?_⟩
    unfold State.isAhead State.now; rw [c, h2]
  unfold State.register
  simp only
  generalize hg : (!s.isAhead (s.creaseOf (nsOf e.stamp)) && s.inTime (s.creaseOf (nsOf e.stamp))) = g
  have mr := markReceipt_facts s e g
  generalize hm : s.markReceipt e g = m at mr
  obtain ⟨m1, m2, m3, m4⟩ := mr
  have c := ct m s m2 m4 (s.creaseOf (nsOf e.stamp))
  have bo : m.binOf (s.creaseOf (nsOf e.stamp)) = s.binOf (s.creaseOf (nsOf e.stamp)) := binOf_crz (by rw [m1]) _
  cases g
  · simp only [Bool.false_eq_true, if_false]
    refine ⟨?_, ?_, ?_, ?_, ?_, ?_⟩
    · intro h1 h2; rw [h1, h2] at hg; cases hg
    · intro _
      rw [(peak_facts _ _ _).1]
      refine ⟨?_, ?_⟩
      · show m.crz.late ++ _ = _
        rw [m1, m4, c.2]
      · show m.crz.bins = _
        rw [m1]
    · rw [(peak_facts _ _ _).1, m1]
    · rw [(peak_facts _ _ _).2]; exact m3
    · rw [pk]; exact m4
    · intro f hf
      rw [peak_rd_ne _ hf]
      exact rd _ _ f m2
  · simp only [if_true]
    refine ⟨?_, ?_, ?_, ?_, ?_, ?_⟩
    · intro _ _
      refine ⟨?_, ?_⟩
      · refine (binOf_crz (congrArg Sequencer.bins (peak_facts _ _ _).1) _).trans ?_
        rw [binOf_set, bo]
      · rw [(peak_facts _ _ _).1]
        show m.crz.late = _
        rw [m1]
    · intro h
      rcases h with h | h <;> rw [h] at hg <;> simp at hg
    · rw [(peak_facts _ _ _).1, m1]
    · rw [(peak_facts _ _ _).2]; exact m3
    · rw [pk]; exact m4
    · intro f hf
      rw [peak_rd_ne _ hf]
      exact rd _ _ f m2

theorem registered (s : State) (e : Event) : Registered s (s.register e) e := by
  have f := register_facts s e
  unfold Registered
  simp only
  split
  · rename_i h; exact f.1 h.1 h.2
  · rename_i h
    refine f.2.1 ?_
    cases a : s.isAhead (s.creaseOf (nsOf e.stamp)) <;> cases b : s.inTime (s.creaseOf (nsOf e.stamp)) <;> simp_all

theorem crease_same {u s : State} (h1 : u.tb = s.tb) (h2 : u.rd CRZ_GRID_P_STEP = s.rd CRZ_GRID_P_STEP) (h4 : u.rd CRZ_GRID_H_MS = s.rd CRZ_GRID_H_MS) (h3 : u.crz.oldest = s.crz.oldest) (n : Nat) :
    u.creaseOf n = s.creaseOf n ∧ u.isAhead n = s.isAhead n ∧ u.inTime n = s.inTime n := by
  have p : u.P = s.P := by unfold State.P; rw [h2]
  have q : u.H = s.H := by unfold State.H; rw [h4]
  have c : ∀ m, u.creaseOf m = s.creaseOf m := by intro m; unfold State.creaseOf; rw [p]
  refine ⟨c n, ?_, ?_⟩
  · unfold State.isAhead State.now; rw [c, h1]
  · unfold State.inTime State.closeTime State.now; rw [p, q, h1, h3]

theorem registered_of {u s t : State} {e : Event} (h1 : u.tb = s.tb) (h2 : u.rd CRZ_GRID_P_STEP = s.rd CRZ_GRID_P_STEP) (h4 : u.rd CRZ_GRID_H_MS = s.rd CRZ_GRID_H_MS)
    (h3 : u.crz.oldest = s.crz.oldest) (h5 : u.crz.bins = s.crz.bins) (h6 : u.crz.late = s.crz.late) (h : Registered u t e) : Registered s t e := by
  have c := crease_same h1 h2 h4 h3
  unfold Registered at h ⊢
  simp only at h ⊢
  rw [(c _).1, (c _).2.1, (c _).2.2, binOf_crz h5, h5, h6, h1] at h
  exact h

theorem leaveQueue_facts (s : State) (w : Waiting) (r : List Waiting) : (s.leaveQueue w r).waiting = r ∧ (s.leaveQueue w r).tb = s.tb ∧ (s.leaveQueue w r).crz = s.crz ∧
    ∀ f : Field, f.block ≠ 20 → f.block < 22 → (s.leaveQueue w r).rd f = s.rd f := by
  refine ⟨?_, (only_part (leaveQueue_only (μ := 34603008) rfl (Only.refl _)) .tb rfl), (only_part (leaveQueue_only (μ := 34603008) rfl (Only.refl _)) .crz rfl), ?_⟩
  · unfold State.leaveQueue; split <;> rfl
  · intro f h hb
    refine only_rd (leaveQueue_only (μ := 34603008) rfl (Only.refl _)) ?_
    rw [Bool.and_eq_true, decide_eq_true_eq]
    refine ⟨hb, ?_⟩
    interval_cases f.block <;> first | rfl | exact absurd rfl h

theorem seq_two {x y : Sequencer} (h : { x with bins := [], late := [] } = { y with bins := [], late := [] }) : x.sealed = y.sealed ∧ x.stalled = y.stalled ∧ x.stalls = y.stalls ∧ x.oldest = y.oldest ∧ x.first = y.first := by
  cases x; cases y; simp_all

theorem tb_skip (s : State) (L : List Event) : { ({ s with crz := { s.crz with tbBuf := L } } : State).crz with bins := [], late := [], tbBuf := [] } = { s.crz with bins := [], late := [], tbBuf := [] } ∧
    (∀ f : Field, f.key ≠ CRZ_POOL_PEAK.key → ({ s with crz := { s.crz with tbBuf := L } } : State).rd f = s.rd f) ∧ ({ s with crz := { s.crz with tbBuf := L } } : State).tb = s.tb := ⟨rfl, fun _ _ => rfl, rfl⟩

theorem drainTb_cons (e : Event) (t : List Event) (s : State) : drainTbBuf (e :: t) s = if s.poolFits e then drainTbBuf t (s.register e) else { s with crz := { s.crz with tbBuf := e :: t } } := rfl

theorem seq_tb (x y : Sequencer) (h : { x with bins := [], late := [] } = { y with bins := [], late := [] }) : { x with bins := [], late := [], tbBuf := [] } = { y with bins := [], late := [], tbBuf := [] } := by
  cases x; cases y; simp_all

theorem drainTb_facts (L : List Event) (s : State) : { (drainTbBuf L s).crz with bins := [], late := [], tbBuf := [] } = { s.crz with bins := [], late := [], tbBuf := [] } ∧
    (∀ f : Field, f.key ≠ CRZ_POOL_PEAK.key → (drainTbBuf L s).rd f = s.rd f) ∧ (drainTbBuf L s).tb = s.tb := by
  induction L generalizing s with
  | nil => exact tb_skip s []
  | cons e t ih =>
    rw [drainTb_cons]
    cases hp : s.poolFits e
    · rw [if_neg (by decide)]
      exact tb_skip s (e :: t)
    · rw [if_pos rfl]
      have g := register_facts s e
      obtain ⟨a, b, c⟩ := ih (s.register e)
      refine ⟨a.trans ?_, fun f hf => (b f hf).trans (g.2.2.2.2.2 f hf), c.trans g.2.2.2.2.1⟩
      exact seq_tb _ _ g.2.2.1

theorem slotsFreed_facts (s : State) : { s.slotsFreed.crz with bins := [], late := [], tbBuf := [] } = { s.crz with bins := [], late := [], tbBuf := [] } ∧
    (∀ f : Field, f.key ≠ CRZ_POOL_PEAK.key → s.slotsFreed.rd f = s.rd f) ∧ s.slotsFreed.tb = s.tb := drainTb_facts _ _

theorem markLast_facts (s : State) (k : Nat) : { (s.markLast k).crz with rest := false } = { s.crz with rest := false } ∧ (∀ f : Field, f.key ≠ BHM0_DR_KIDX_IDX.key → (s.markLast k).rd f = s.rd f) := by
  unfold State.markLast
  split
  · exact ⟨rfl, fun f hf => rd_wr_ne s k hf⟩
  · exact ⟨rfl, fun _ _ => rfl⟩

theorem onCover_facts (s : State) (k : Nat) (f : Coverage → Coverage) : { (s.onCover k f).crz with cover := [] } = { s.crz with cover := [] } ∧ (s.onCover k f).regs = s.regs := by
  unfold State.onCover
  split
  · split <;> exact ⟨rfl, rfl⟩
  · exact ⟨rfl, rfl⟩

theorem lateMark_facts (k : Nat) (L : List Event) (s : State) : { (L.foldl (State.lateMark k) s).crz with cover := [] } = { s.crz with cover := [] } ∧ (L.foldl (State.lateMark k) s).regs = s.regs := by
  induction L generalizing s with
  | nil => exact ⟨rfl, rfl⟩
  | cons e t ih =>
    simp only [List.foldl]
    obtain ⟨a, b⟩ := ih (State.lateMark k s e)
    have g : { (State.lateMark k s e).crz with cover := [] } = { s.crz with cover := [] } ∧ (State.lateMark k s e).regs = s.regs := by
      exact onCover_facts _ _ _
    exact ⟨a.trans g.1, b.trans g.2⟩

theorem sealCounts_facts (s : State) (d : Nat) (es : List Event) (fl : Nat) : (s.sealCounts d es fl).crz = s.crz ∧ (∀ f : Field, f.reg ≠ CRZ_STATUS_DUP.reg → f.reg ≠ CRZ_DUP_CNT_COUNT.reg → f.reg ≠ CRZ_LATE_CNT_COUNT.reg → f.lo < 1024 →
    (s.sealCounts d es fl).rd f = s.rd f) := by
  refine ⟨(only_part (sealCounts_only (μ := 4) rfl (Only.refl _)) .crz rfl), ?_⟩
  intro f h1 h2 h3 hl
  have k : ∀ g : Field, g.lo < 1024 → f.reg ≠ g.reg → f.key ≠ g.key := by intro g h1 h2 e; unfold Field.key at e; omega
  unfold State.sealCounts
  simp only
  rw [raiseIf_rd_ne _ (k CRZ_STATUS_GAP (by decide) h1), raiseIf_rd_ne _ (k CRZ_STATUS_AHEAD (by decide) h1), raiseIf_rd_ne _ (k CRZ_STATUS_LATE (by decide) h1),
    addCount_rd_ne _ (k CRZ_LATE_CNT_COUNT (by decide) h3) (k CRZ_STATUS_CNTWRAP (by decide) h1),
    raiseIf_rd_ne _ (k CRZ_STATUS_DUP (by decide) h1), addCount_rd_ne _ (k CRZ_DUP_CNT_COUNT (by decide) h2) (k CRZ_STATUS_CNTWRAP (by decide) h1)]

theorem coverCreate_facts (s : State) (k : Nat) (b : Bool) (es : List Event) : { (s.coverCreate k b es).crz with cover := [], ndMark := false, ueMark := false } = { s.crz with cover := [], ndMark := false, ueMark := false } ∧
    (s.coverCreate k b es).regs = s.regs := ⟨rfl, rfl⟩

theorem lagAlone_keep (s : State) (h : s.lagOut = s) (hg : s.lagAlone = s) (hc : s.closureDue = true) (b : Bool) : s.closeCrease b = (s.sealBatch s.nextSeal b).markLast s.nextSeal := by
  unfold State.closeCrease
  rw [if_neg (by simp [hc])]
  simp only [h, hg]

theorem lag_none (s : State) (hA : s.lagging .A = false) (hB : s.lagging .B = false) : s.lagOut = s ∧ s.lagAlone = s := by
  have h : ∀ l, s.lagging l = false := by intro l; cases l <;> assumption
  constructor
  · unfold State.lagOut
    split
    · rfl
    · simp [h]
  · unfold State.lagAlone
    split
    · rfl
    · simp [h]

def sealClose (u : State) (k : Nat) (D : Octets) (B : Batch) : State := { u with crz := { u.crz with
      bins := u.crz.bins.filter (fun x => k < x.k), late := u.crz.late.filter (fun x => !decide (x.before < u.closeTime k)), oldest := k + 1, lastSealed := some k, first := false, stepped := false,
      gap := false, stalls := u.crz.stalls.filter (fun p => (k + 1) * u.P ≤ p.2), dPrev := D,
      sealed := if B.forA || B.forB then u.crz.sealed ++ [B] else u.crz.sealed } }

def sealMark (s : State) (k : Nat) (bad : Bool) (D : Octets) : State :=
  ((((s.sealCounts ((s.batchInput k (s.summaryEvent k bad)).length - (batchEvents s k bad).length) (batchEvents s k bad) (s.batchFlags k (summaryOk (s.summaryEvent k bad) && !bad))).wr CRZ_SEAL_IDX_IDX k).wr CRZ_DIGEST_DIGEST (leVal D)).coverCreate k (summaryOk (s.summaryEvent k bad) && !bad) (batchEvents s k bad))

theorem seal_eq (s : State) (k : Nat) (bad : Bool) : s.sealBatch k bad = (State.pruneTb (sealClose (((batchEvents s k bad).filter (·.late)).foldl (State.lateMark k) (sealMark s k bad (batchValue s k bad))) k (batchValue s k bad) (sealBatchOf s k bad)) k).slotsFreed := by
  unfold State.sealBatch sealClose sealMark sealBatchOf batchValue batchHeader batchEvents
  rfl

theorem sealMark_facts (s : State) (k : Nat) (bad : Bool) (D : Octets) : (sealMark s k bad D).crz.sealed = s.crz.sealed ∧ (sealMark s k bad D).rd CRZ_SEAL_IDX_IDX = k % 2 ^ 64 ∧ (sealMark s k bad D).rd CRZ_DIGEST_DIGEST = leVal D % 2 ^ 256 := by
  unfold sealMark
  have sc := (sealCounts_facts s ((s.batchInput k (s.summaryEvent k bad)).length - (batchEvents s k bad).length) (batchEvents s k bad) (s.batchFlags k (summaryOk (s.summaryEvent k bad) && !bad))).1
  generalize s.sealCounts ((s.batchInput k (s.summaryEvent k bad)).length - (batchEvents s k bad).length) (batchEvents s k bad) (s.batchFlags k (summaryOk (s.summaryEvent k bad) && !bad)) = u at sc
  generalize batchEvents s k bad = es
  generalize (summaryOk (s.summaryEvent k bad) && !bad) = b
  have rd : ∀ (u v : State) (f : Field), u.regs = v.regs → u.rd f = v.rd f := by intro u v f e; unfold State.rd; rw [e]
  have c := (coverCreate_facts ((u.wr CRZ_SEAL_IDX_IDX k).wr CRZ_DIGEST_DIGEST (leVal D)) k b es)
  refine ⟨?_, ?_, ?_⟩
  · unfold State.coverCreate
    show u.crz.sealed = _
    rw [sc]
  · rw [rd _ _ _ c.2, rd_wr_ne _ _ (by decide), rd_wr_same]; rfl
  · rw [rd _ _ _ c.2, rd_wr_same]; rfl

theorem seq_sealed {x y : Sequencer} (h : { x with cover := [] } = { y with cover := [] }) : x.sealed = y.sealed := by
  cases x; cases y; simp_all

theorem seq_fields {x y : Sequencer} (h : { x with bins := [], late := [], tbBuf := [] } = { y with bins := [], late := [], tbBuf := [] }) : x.lastSealed = y.lastSealed ∧ x.oldest = y.oldest ∧ x.first = y.first ∧ x.dPrev = y.dPrev ∧ x.sealed = y.sealed := by
  cases x; cases y; simp_all

theorem sealBatch_facts (s : State) (k : Nat) (bad : Bool) : (s.sealBatch k bad).rd CRZ_SEAL_IDX_IDX = k % 2 ^ 64 ∧ (s.sealBatch k bad).rd CRZ_DIGEST_DIGEST = leVal (batchValue s k bad) % 2 ^ 256 ∧
    (s.sealBatch k bad).crz.lastSealed = some k ∧ (s.sealBatch k bad).crz.oldest = k + 1 ∧ (s.sealBatch k bad).crz.first = false ∧ (s.sealBatch k bad).crz.dPrev = batchValue s k bad ∧
    (s.sealBatch k bad).crz.sealed = if s.inService .A || s.inService .B then s.crz.sealed ++ [sealBatchOf s k bad] else s.crz.sealed := by
  have rd : ∀ (u v : State) (f : Field), u.regs = v.regs → u.rd f = v.rd f := by intro u v f e; unfold State.rd; rw [e]
  rw [seal_eq]
  have m := sealMark_facts s k bad (batchValue s k bad)
  have hB : (sealBatchOf s k bad).forA = s.inService .A ∧ (sealBatchOf s k bad).forB = s.inService .B := ⟨rfl, rfl⟩
  generalize sealBatchOf s k bad = B at hB
  generalize batchValue s k bad = D at m
  generalize sealMark s k bad D = u at m
  have lm := lateMark_facts k ((batchEvents s k bad).filter (·.late)) u
  generalize ((batchEvents s k bad).filter (·.late)).foldl (State.lateMark k) u = v at lm
  have w1 : (State.pruneTb (sealClose v k D B) k).regs = v.regs := rfl
  have w2 : (State.pruneTb (sealClose v k D B) k).crz = (sealClose v k D B).crz := rfl
  generalize State.pruneTb (sealClose v k D B) k = w at w1 w2
  have f := slotsFreed_facts w
  have g := seq_fields f.1
  rw [w2] at g
  refine ⟨?_, ?_, g.1, g.2.1, g.2.2.1, g.2.2.2.1, ?_⟩
  · rw [f.2.1 _ (by decide), rd _ _ _ (w1.trans lm.2)]; exact m.2.1
  · rw [f.2.1 _ (by decide), rd _ _ _ (w1.trans lm.2)]; exact m.2.2
  · refine g.2.2.2.2.trans ?_
    unfold sealClose
    simp only
    rw [hB.1, hB.2, seq_sealed lm.1, m.1]

/-! ### Delivery of a batch and the lanes that wait for it -/

theorem setRole_ne (s : State) (l : Lane) (new cause : Nat) (f : Field) (h : f.key ≠ (roleField l).key) : (s.setRole l new cause).rd f = s.rd f := by
  unfold State.setRole
  simp only [lscEvent_rd, rd_wr_ne _ _ h]

theorem role_other (l : Lane) : (roleField l.other).key ≠ (roleField l).key := by cases l <;> decide

theorem other_other (l : Lane) : l.other.other = l := by cases l <;> rfl

theorem setRole_role (s : State) (l : Lane) (new cause : Nat) (h : (s.lane l).leaving = false) : (s.setRole l new cause).role l = new % 8 := by
  unfold State.role; rw [setRole_lane, h, setRole_rd]; rfl

theorem setRole_role_other (s : State) (l : Lane) (new cause : Nat) : (s.setRole l new cause).role l.other = s.role l.other := by
  unfold State.role; rw [setRole_lane, setRole_ne _ _ _ _ _ (role_other l)]

theorem setRole_blocked (s : State) (l l' : Lane) (new cause : Nat) : (s.setRole l new cause).blocked l' = s.blocked l' := by
  cases l' <;> unfold State.blocked State.on <;> simp only <;> rw [setRole_ne] <;> cases l <;> decide

theorem coldRoles_facts (s : State) (h : s.lsc.coldStart = true) (h1 : s.role s.coldLane = roleBoot) (h2 : s.blocked s.coldLane = false) (h3 : (s.lane s.coldLane).leaving = false) :
    s.coldRoles.rd (roleField s.coldLane) = roleActive ∧ s.coldRoles.lsc.coldStart = false ∧
    (s.role s.coldLane.other = roleBoot → s.blocked s.coldLane.other = false → s.coldRoles.rd (roleField s.coldLane.other) = roleShadow) ∧
    (s.role s.coldLane.other ≠ roleBoot ∨ s.blocked s.coldLane.other = true → s.coldRoles.rd (roleField s.coldLane.other) = s.rd (roleField s.coldLane.other)) := by
  unfold State.coldRoles
  rw [if_neg (by simp [h])]
  generalize s.coldLane = c at h1 h2 h3
  have f0 : (s.role c == roleBoot && !s.blocked c) = true := by simp [h1, h2]
  simp only [f0, if_true]
  have r := setRole_role_other s c roleActive 0
  have b := setRole_blocked s c c.other roleActive 0
  have a := setRole_rd s c roleActive 0
  have o := setRole_ne s c roleActive 0 (roleField c.other) (role_other c)
  generalize s.setRole c roleActive 0 = u at r b a o
  simp only [r, b]
  by_cases hf : (s.role c.other == roleBoot && !s.blocked c.other) = true
  · simp only [hf, if_true]
    refine ⟨?_, trivial, ?_, ?_⟩
    · refine (setRole_ne u c.other roleShadow 0 (roleField c) ?_).trans a
      have := role_other c.other
      rwa [other_other] at this
    · intro _ _
      exact setRole_rd u c.other roleShadow 0
    · intro hh
      simp only [Bool.and_eq_true, beq_iff_eq, Bool.not_eq_true'] at hf
      rcases hh with e | e
      · exact absurd hf.1 e
      · rw [hf.2] at e; cases e
  · simp only [hf, if_false]
    refine ⟨a, trivial, ?_, fun _ => o⟩
    intro e1 e2
    exact absurd (by simp [e1, e2]) hf

theorem releaseHeld_reg (L : List Event) (s : State) (g : Event → Event) : { (L.foldl (fun (s : State) e => s.register (g e)) s).crz with bins := [], late := [] } = { s.crz with bins := [], late := [] } ∧
    (∀ f : Field, f.key ≠ CRZ_POOL_PEAK.key → (L.foldl (fun (s : State) e => s.register (g e)) s).rd f = s.rd f) := by
  induction L generalizing s with
  | nil => exact ⟨rfl, fun _ _ => rfl⟩
  | cons e L ih =>
    rw [List.foldl_cons]
    have a := ih (s.register (g e))
    have b := register_facts s (g e)
    exact ⟨a.1.trans b.2.2.1, fun f hf => (a.2 f hf).trans (b.2.2.2.2.2 f hf)⟩

theorem releaseHeld_facts (s : State) : { s.releaseHeld.crz with bins := [], late := [] } = { s.crz with bins := [], late := [] } ∧ (∀ f : Field, f.key ≠ CRZ_POOL_PEAK.key → s.releaseHeld.rd f = s.rd f) := by
  unfold State.releaseHeld
  simp only
  have g := releaseHeld_reg s.held { s with held := [] } (fun e => { e with stamp := timeOfNs (s.crz.oldest * s.P), src := srcId s.seg (srcNode e.src) (srcChan e.src) })
  exact ⟨g.1.trans rfl, fun f hf => (g.2 f hf).trans rfl⟩

theorem register_held (s : State) (e : Event) : (s.register e).held = s.held := (only_part (register_only (μ := 671088644) rfl (Only.refl _)) .held rfl)

theorem releaseHeld_held (L : List Event) (s : State) (g : Event → Event) : (L.foldl (fun (s : State) e => s.register (g e)) s).held = s.held := by
  induction L generalizing s with
  | nil => rfl
  | cons e L ih => rw [List.foldl_cons, ih, register_held]

theorem crzStart_facts (s : State) : s.crzStart.crz.oldest = s.creaseOf s.now + 1 ∧ s.crzStart.crz.first = true ∧ s.crzStart.crz.sealed = [] ∧ s.crzStart.crz.stalled = none ∧ s.crzStart.rd CRZ_CTRL_EN = 1 ∧
    s.crzStart.lsc = s.lsc ∧ (∀ l, s.crzStart.lane l = s.lane l) ∧ (∀ f : Field, f.key ≠ CRZ_CTRL_EN.key → f.key ≠ CRZ_POOL_PEAK.key → s.crzStart.rd f = s.rd f) := by
  refine ⟨rfl, rfl, rfl, rfl, ?_, rfl, fun l => by cases l <;> rfl, ?_⟩
  · unfold State.crzStart; simp only; rw [rd_wr_ne _ _ (by decide), rd_wr_same]; rfl
  · intro f h1 h2
    unfold State.crzStart; simp only; rw [rd_wr_ne _ _ h2, rd_wr_ne _ _ h1]; rfl

theorem seq_five {x y : Sequencer} (h : { x with bins := [], late := [] } = { y with bins := [], late := [] }) : x.sealed = y.sealed ∧ x.stalled = y.stalled ∧ x.oldest = y.oldest ∧ x.first = y.first := by
  cases x; cases y; simp_all

theorem units_rd (s : State) (f : Field) (h3 : f.block ≠ 3) (h4 : f.block ≠ 4) (h5 : f.block ≠ 5) (h14 : f.block ≠ 14) (hb : f.block < 22) :
    ((((s.coldRoles).launchReset).escortReset).recorderStart).rd f = s.rd f := by
  have k : ∀ m : Nat, (∀ b, b < 22 → b ≠ 3 → b ≠ 4 → b ≠ 5 → b ≠ 14 → m.testBit b = false) → (decide (f.block < 22) && !m.testBit f.block) = true := by
    intro m h
    rw [Bool.and_eq_true, decide_eq_true_eq]
    exact ⟨hb, by rw [h f.block hb h3 h4 h5 h14]; rfl⟩
  rw [only_rd (recorderStart_only (μ := 68719493120) rfl (Only.refl _)) (k _ (by intro b hb; interval_cases b <;> intros <;> first | rfl | contradiction))]
  rw [only_rd (escortReset_only (μ := 2147483680) rfl (Only.refl _)) (k _ (by intro b hb; interval_cases b <;> intros <;> first | rfl | contradiction))]
  rw [only_rd (launchReset_only (μ := 1073741840) rfl (Only.refl _)) (k _ (by intro b hb; interval_cases b <;> intros <;> first | rfl | contradiction))]
  rw [only_rd (coldRoles_only (μ := 301989896) rfl (Only.refl _)) (k _ (by intro b hb; interval_cases b <;> intros <;> first | rfl | contradiction))]

theorem units_role (s : State) (l : Lane) : ((((s.coldRoles).launchReset).escortReset).recorderStart).rd (roleField l) = s.coldRoles.rd (roleField l) := by
  have d : (roleField l).block = 3 := by cases l <;> rfl
  have k : ∀ m : Nat, m.testBit 3 = false → (decide ((roleField l).block < 22) && !m.testBit (roleField l).block) = true := by intro m h; rw [d, h]; rfl
  rw [only_rd (recorderStart_only (μ := 68719493120) rfl (Only.refl _)) (k _ rfl)]
  rw [only_rd (escortReset_only (μ := 2147483680) rfl (Only.refl _)) (k _ rfl)]
  rw [only_rd (launchReset_only (μ := 1073741840) rfl (Only.refl _)) (k _ rfl)]

theorem units_crz (s : State) : ((((s.coldRoles).launchReset).escortReset).recorderStart).crz = s.crz ∧ ((((s.coldRoles).launchReset).escortReset).recorderStart).lsc = s.coldRoles.lsc :=
  ⟨(only_part (recorderStart_only (μ := 68719493120) rfl (Only.refl _)) .crz rfl).trans ((only_part (escortReset_only (μ := 2147483680) rfl (Only.refl _)) .crz rfl).trans ((only_part (launchReset_only (μ := 1073741840) rfl (Only.refl _)) .crz rfl).trans (only_part (coldRoles_only (μ := 301989896) rfl (Only.refl _)) .crz rfl))), (only_part (recorderStart_only (μ := 68719493120) rfl (Only.refl _)) .lsc rfl).trans ((only_part (escortReset_only (μ := 2147483680) rfl (Only.refl _)) .lsc rfl).trans (only_part (launchReset_only (μ := 1073741840) rfl (Only.refl _)) .lsc rfl))⟩

theorem unwait_facts (s : State) (l : Lane) (p : Batch → Bool) : (∀ b ∈ (s.unwait l p).crz.sealed, ∃ a ∈ s.crz.sealed, b = if p a then a.served l else a) ∧ (∀ f : Field, f.key ≠ CRZ_POOL_PEAK.key → (s.unwait l p).rd f = s.rd f) := by
  unfold State.unwait State.dropServed
  refine ⟨?_, ?_⟩
  · intro b hb
    rw [(seq_fields (slotsFreed_facts _).1).2.2.2.2] at hb
    have := (List.mem_filter.mp hb).1
    obtain ⟨a, ha, e⟩ := List.mem_map.mp this
    exact ⟨a, ha, e.symm⟩
  · intro f hf
    rw [(slotsFreed_facts _).2.1 f hf]; rfl

theorem eqwr_peak (l : Lane) : (CRZ_EQ_WR_WR l).key ≠ CRZ_POOL_PEAK.key := by cases l <;> decide +kernel

theorem eqwr_block (l : Lane) : (CRZ_EQ_WR_WR l).block = 2 := by cases l <;> decide +kernel

theorem lane_part {s t : State} (h : Part.lanes.same s t) (h2 : Part.sram.same s t) (l : Lane) : t.lane l = s.lane l := by
  obtain ⟨a, b⟩ := h
  obtain ⟨c, d⟩ := h2
  cases l
  · show t.laneA = s.laneA
    generalize t.laneA = x at a c
    generalize s.laneA = y at a c
    cases x; cases y; simp_all
  · show t.laneB = s.laneB
    generalize t.laneB = x at b d
    generalize s.laneB = y at b d
    cases x; cases y; simp_all

end Sys2Proof.Machine
end

