-- ==== Sys2Proof/Laws/FactsLanes.lean ====
section
/-!
SUPPORT. Small laws about the control lanes.
-/
namespace Sys2Proof.Machine
set_option Elab.async false
open Host (Cell)

/-! ### A lane that is taken out -/

theorem block3 (m : Nat) (f : Field) (h : f.block = 3) (hm : m.testBit 3 = false) : (decide (f.block < 22) && !m.testBit f.block) = true := by rw [h, hm]; rfl

theorem leaving_wr (s : State) (f : Field) (v : Nat) (l : Lane) : ((s.wr f v).lane l).leaving = (s.lane l).leaving := by rw [wr_lane]

theorem leaving_on (s : State) (l' l : Lane) (f : LaneState → LaneState) (h : ∀ x, (f x).leaving = x.leaving) : ((s.onLane l' f).lane l).leaving = (s.lane l).leaving := by
  cases l <;> cases l' <;> first | exact h _ | rfl

theorem advance_leaving (s : State) (l' l : Lane) : ((s.advanceRead l').lane l).leaving = (s.lane l).leaving := by
  unfold State.advanceRead
  split
  · rfl
  · simp only; rw [leaving_on _ _ _ _ (by intro x; rfl), leaving_wr]

theorem release_leaving (s : State) (l' l : Lane) : ((s.sealRelease l').lane l).leaving = (s.lane l).leaving := by
  unfold State.sealRelease
  split
  · rw [leaving_on _ _ _ _ (by intro x; rfl), advance_leaving]
  · rfl

theorem restEnd_leaving (s : State) (l : Lane) : (s.restEnd.lane l).leaving = (s.lane l).leaving := by
  unfold State.restEnd
  split
  · simp only
    rw [release_leaving, release_leaving]
    exact congrArg LaneState.leaving ((by cases l <;> rfl : _ = s.crzStart.lane l).trans ((crzStart_facts s).2.2.2.2.2.2.1 l))
  · rfl

theorem pattern_leaving {m : Nat} {s t : State} (h : Only m s t) (h1 : m.testBit 23 = false) (h2 : m.testBit 24 = false) (l : Lane) : (t.lane l).leaving = (s.lane l).leaving := by
  rw [lane_part (only_part h .lanes h1) (only_part h .sram h2)]

theorem discard_leaving (s : State) (l' l : Lane) : ((s.discardIdle l').lane l).leaving = (s.lane l).leaving := by
  unfold State.discardIdle State.releaseBuf
  split
  · split
    · rfl
    · exact leaving_on _ _ _ _ (by intro x; rfl)
  · rfl

theorem claim_leaving (s : State) (l' l : Lane) : ((s.claimSealed l').lane l).leaving = (s.lane l).leaving := by
  unfold State.claimSealed
  split
  · split
    · rfl
    · exact (pattern_leaving (coverFinal_only (μ := 134217728) rfl (Only.refl _)) rfl rfl l).trans (leaving_on _ _ _ _ (by intro x; rfl))
  · rfl

theorem drEnd_leaving (s : State) (p : Option (Nat × Nat)) (a b : Bool) (l : Lane) : ((s.drEnd p a b).lane l).leaving = (s.lane l).leaving := by
  unfold State.drEnd
  simp only
  split
  · split
    · exact pattern_leaving (drMore_only (μ := 512) rfl (Only.refl _)) rfl rfl l
    · rfl
  · rw [restEnd_leaving, raise_def, leaving_wr, leaving_wr]
    refine (show _ = (State.lane (State.drPattern _ p) l).leaving from by cases l <;> rfl).trans ?_
    rw [pattern_leaving (drPattern_only (μ := 512) rfl (Only.refl _)) rfl rfl]
    simp only [leaving_wr]

theorem roleField_block (l : Lane) : (roleField l).block = 3 := by cases l <;> rfl

theorem drEnd_role (s : State) (p : Option (Nat × Nat)) (a b : Bool) (l : Lane) : (s.drEnd p a b).role l = s.role l := by
  unfold State.role
  rw [drEnd_leaving, only_rd (drEnd_only (μ := 17592664196612) rfl (Only.refl _)) (block3 _ _ (roleField_block l) rfl)]

theorem cause_block (l : Lane) : (causeField l).block = 3 ∧ (outFlag l).block = 3 := by cases l <;> exact ⟨rfl, rfl⟩

theorem lane_eq {s t : State} (h : Part.lanes.same s t) (h2 : Part.sram.same s t) (l : Lane) : (t.lane l).leaving = (s.lane l).leaving := by rw [lane_part h h2]

theorem claim_rd (s : State) (l : Lane) (f : Field) (h : f.block = 3) : ((s.claimSealed l).discardIdle l).rd f = s.rd f := by
  rw [only_rd (discardIdle_only (μ := 8388608) rfl (Only.refl _)) (block3 _ f h rfl), only_rd (claimSealed_only (μ := 142606336) rfl (Only.refl _)) (block3 _ f h rfl)]

theorem takeover_facts (s : State) (l : Lane) : ((s.takeover l).lane l).leaving = (s.lane l).leaving ∧ (s.takeover l).rd (causeField l) = s.rd (causeField l) ∧ (s.takeover l).rd (outFlag l) = s.rd (outFlag l) := by
  unfold State.takeover
  simp only
  split
  · have keep : ∀ u : State, ((((u.dmaTakeover).portTakeover 0).portTakeover 1).pbTakeover).lane l = u.lane l := by
      intro u
      rw [lane_part (only_part (pbTakeover_only (μ := 17592186046464) rfl (Only.refl _)) .lanes rfl) (only_part (pbTakeover_only (μ := 17592186046464) rfl (Only.refl _)) .sram rfl), lane_part (only_part (portTakeover_only (μ := 17592186045952) rfl (Only.refl _)) .lanes rfl) (only_part (portTakeover_only (μ := 17592186045952) rfl (Only.refl _)) .sram rfl), lane_part (only_part (portTakeover_only (μ := 17592186045952) rfl (Only.refl _)) .lanes rfl) (only_part (portTakeover_only (μ := 17592186045952) rfl (Only.refl _)) .sram rfl), lane_part (only_part (dmaTakeover_only (μ := 4295491584) rfl (Only.refl _)) .lanes rfl) (only_part (dmaTakeover_only (μ := 4295491584) rfl (Only.refl _)) .sram rfl)]
    have rk : ∀ (u : State) (f : Field), f.block = 3 → ((((u.dmaTakeover).portTakeover 0).portTakeover 1).pbTakeover).rd f = u.rd f := by
      intro u f hf
      rw [only_rd (pbTakeover_only (μ := 17592186046464) rfl (Only.refl _)) (block3 _ f hf rfl), only_rd (portTakeover_only (μ := 17592186045952) rfl (Only.refl _)) (block3 _ f hf rfl),
        only_rd (portTakeover_only (μ := 17592186045952) rfl (Only.refl _)) (block3 _ f hf rfl), only_rd (dmaTakeover_only (μ := 4295491584) rfl (Only.refl _)) (block3 _ f hf rfl)]
    refine ⟨?_, ?_, ?_⟩
    · rw [keep, discard_leaving, claim_leaving, raise_def, leaving_wr, setRole_lane]
    · rw [rk _ _ (cause_block l).1, claim_rd _ _ _ (cause_block l).1, raise_def, rd_wr_ne _ _ (by cases l <;> decide), setRole_ne _ _ _ _ _ (by cases l <;> decide)]
    · rw [rk _ _ (cause_block l).2, claim_rd _ _ _ (cause_block l).2, raise_def, rd_wr_ne _ _ (by cases l <;> decide), setRole_ne _ _ _ _ _ (by cases l <;> decide)]
  · refine ⟨?_, ?_, ?_⟩
    · rw [lane_part (only_part (bistAbandon_only (μ := 562949989072896) rfl (Only.refl _)) .lanes rfl) (only_part (bistAbandon_only (μ := 562949989072896) rfl (Only.refl _)) .sram rfl)]; cases l <;> rfl
    · rw [only_rd (bistAbandon_only (μ := 562949989072896) rfl (Only.refl _)) (block3 _ _ (cause_block l).1 rfl)]
      change State.rd (s.raise LSC_STATUS_NOLANE) (causeField l) = _
      rw [raise_def]; exact rd_wr_ne _ _ (by cases l <;> decide)
    · rw [only_rd (bistAbandon_only (μ := 562949989072896) rfl (Only.refl _)) (block3 _ _ (cause_block l).2 rfl)]
      change State.rd (s.raise LSC_STATUS_NOLANE) (outFlag l) = _
      rw [raise_def]; exact rd_wr_ne _ _ (by cases l <;> decide)

theorem settle_facts (s : State) (k : Nat) (f : Field) (h1 : f.key ≠ LSC_ROLE_SUSPECT.key) (h2 : f.key ≠ LSC_ROLE_SUSP_CNT.key) : (s.settle k).rd f = s.rd f := by
  unfold State.settle
  split
  · rfl
  · simp only
    split
    · rfl
    · split
      · rw [lscEvent_rd, rd_wr_ne _ _ h1, rd_wr_ne _ _ h2]; rfl
      · rw [rd_wr_ne _ _ h2]; rfl

theorem settleAlone_facts (s : State) (l : Lane) : (s.settleAlone.lane l) = (s.lane l) ∧ ∀ f : Field, f.key ≠ LSC_ROLE_SUSPECT.key → f.key ≠ LSC_ROLE_SUSP_CNT.key → s.settleAlone.rd f = s.rd f := by
  refine ⟨lane_part (only_part (settleAlone_only (μ := 301989896) rfl (Only.refl _)) .lanes rfl) (only_part (settleAlone_only (μ := 301989896) rfl (Only.refl _)) .sram rfl) l, ?_⟩
  intro f h1 h2
  unfold State.settleAlone
  (repeat' split) <;> first | rfl | exact settle_facts _ _ _ h1 h2

theorem leave_facts (s : State) (l : Lane) (c : Nat) : ((s.leave l c).lane l).leaving = true ∧ (s.leave l c).rd (causeField l) = c % 256 ∧ (s.leave l c).rd (outFlag l) = 1 := by
  unfold State.leave
  simp only
  have un : ∀ (u : State) (f : Field), f.block = 3 → (u.unwait l (fun _ => true)).rd f = u.rd f := by
    intro u f hf; exact only_rd (unwait_only (μ := 671088644) rfl (Only.refl _)) (block3 _ f hf rfl)
  have di : ∀ (u : State) (f : Field), f.block = 3 → (u.discardIdle l).rd f = u.rd f := by
    intro u f hf; exact only_rd (discardIdle_only (μ := 8388608) rfl (Only.refl _)) (block3 _ f hf rfl)
  have ck : (causeField l).key ≠ (LSC_CB_USED l).key := by cases l <;> decide +kernel
  have ok : (outFlag l).key ≠ (LSC_CB_USED l).key := by cases l <;> decide +kernel
  refine ⟨?_, ?_, ?_⟩
  · rw [lscEvent_lane, lane_part (only_part (unwait_only (μ := 671088644) rfl (Only.refl _)) .lanes rfl) (only_part (unwait_only (μ := 671088644) rfl (Only.refl _)) .sram rfl), discard_leaving, leaving_wr, onLane_lane]
  · rw [lscEvent_rd, un _ _ (cause_block l).1, di _ _ (cause_block l).1, rd_wr_ne _ _ ck, onLane_rd, raise_def, rd_wr_ne _ _ (by cases l <;> decide),
      countSat_rd_ne _ (by cases l <;> decide) (by cases l <;> decide), rd_wr_same]
    cases l <;> rfl
  · rw [lscEvent_rd, un _ _ (cause_block l).2, di _ _ (cause_block l).2, rd_wr_ne _ _ ok, onLane_rd, raise_def, rd_wr_same]
    cases l <;> rfl

theorem takeOut_facts (s : State) (l : Lane) (c : Nat) (h : s.role l ≠ roleOut ∧ s.role l ≠ roleOff ∧ s.role l ≠ roleBist) :
    ((s.takeOut l c).lane l).leaving = true ∧ (s.takeOut l c).rd (causeField l) = c % 256 ∧ (s.takeOut l c).rd (outFlag l) = 1 := by
  have lv := leave_facts s l c
  have key : ∀ u : State, (u.lane l).leaving = true → u.rd (causeField l) = c % 256 → u.rd (outFlag l) = 1 →
      (((u.settleAlone).rldLaneOut l).lane l).leaving = true ∧ ((u.settleAlone).rldLaneOut l).rd (causeField l) = c % 256 ∧ ((u.settleAlone).rldLaneOut l).rd (outFlag l) = 1 := by
    intro u h1 h2 h3
    have sa := settleAlone_facts u l
    refine ⟨?_, ?_, ?_⟩
    · rw [lane_part (only_part (rldLaneOut_only (μ := 2674132571660288) rfl (Only.refl _)) .lanes rfl) (only_part (rldLaneOut_only (μ := 2674132571660288) rfl (Only.refl _)) .sram rfl), sa.1]; exact h1
    · rw [only_rd (rldLaneOut_only (μ := 2674132571660288) rfl (Only.refl _)) (block3 _ _ (cause_block l).1 rfl), sa.2 _ (by cases l <;> decide) (by cases l <;> decide)]; exact h2
    · rw [only_rd (rldLaneOut_only (μ := 2674132571660288) rfl (Only.refl _)) (block3 _ _ (cause_block l).2 rfl), sa.2 _ (by cases l <;> decide) (by cases l <;> decide)]; exact h3
  unfold State.takeOut
  simp only
  rw [if_neg (by rintro (e | e | e); exacts [h.1 e, h.2.1 e, h.2.2 e])]
  split
  · have tk := takeover_facts (s.leave l c) l
    exact key _ (tk.1.trans lv.1) (tk.2.1.trans lv.2.1) (tk.2.2.trans lv.2.2)
  · exact key _ lv.1 lv.2.1 lv.2.2

theorem laneFault_facts (s : State) (l : Lane) (c : Nat) (h : s.role l ≠ roleOut ∧ s.role l ≠ roleOff ∧ s.role l ≠ roleBist) :
    ((s.laneFault l c).lane l).leaving = true ∧ (s.laneFault l c).rd (causeField l) = c % 256 ∧ (s.laneFault l c).rd (outFlag l) = 1 := by
  unfold State.laneFault
  simp only
  split
  · exact takeOut_facts _ l c (by rw [drEnd_role]; exact h)
  · exact takeOut_facts s l c h

theorem role_keep {s t : State} (l : Lane) (h : t.lane l = s.lane l) (h2 : t.rd (roleField l) = s.rd (roleField l)) : t.role l = s.role l := by unfold State.role; rw [h, h2]

/-! ### Sealed batches as the lanes receive them -/

def lscMoves : List Nat := [LSC_ROLE_STATE_A.key, LSC_ROLE_STATE_B.key, LSC_CAUSE_A_CAUSE.key, LSC_CAUSE_B_CAUSE.key, LSC_CAUSE_A_OUTS.key, LSC_CAUSE_B_OUTS.key, LSC_STATUS_OUT_A.key, LSC_STATUS_OUT_B.key,
  LSC_STATUS_SVCSAT.key, LSC_STATUS_TAKEOVER.key, LSC_STATUS_NOLANE.key, LSC_ROLE_SUSPECT.key, LSC_ROLE_SUSP_CNT.key, LSC_STATUS_MISMATCH.key, LSC_MIS_IDX_IDX.key, LSC_ROLE_DEGRADED.key,
  LSC_STATUS_DEGRADE.key, LSC_STATUS_SUSPECT.key, LSC_CTRL_SPLIT.key, LSC_STATUS_REJOINED.key, (LSC_CB_USED .A).key, (LSC_CB_USED .B).key]

def LK (s t : State) : Prop := ∀ f : Field, f.block = 3 → f.key ∉ lscMoves → t.rd f = s.rd f

theorem LK.refl (s : State) : LK s s := fun _ _ _ => rfl

theorem LK.trans {r s t : State} (a : LK r s) (b : LK s t) : LK r t := fun f h k => (b f h k).trans (a f h k)

theorem LK.wr {r s : State} (a : LK r s) {g : Field} {v : Nat} (h : g.key ∈ lscMoves) : LK r (s.wr g v) :=
  fun f hb k => (rd_wr_ne _ _ (fun e => k (by rw [e]; exact h))).trans (a f hb k)

theorem LK.raise {r s : State} (a : LK r s) {g : Field} (h : g.key ∈ lscMoves) : LK r (s.raise g) := by rw [raise_def]; exact a.wr h

theorem LK.countSat {r s : State} (a : LK r s) {g w : Field} (h : g.key ∈ lscMoves) (h2 : w.key ∈ lscMoves) : LK r (s.countSat g w) :=
  fun f hb k => (countSat_rd_ne _ (fun e => k (by rw [e]; exact h)) (fun e => k (by rw [e]; exact h2))).trans (a f hb k)

theorem LK.mask {r s t : State} {m : Nat} (a : LK r s) (o : Only m s t) (hm : m.testBit 3 = false) : LK r t :=
  fun f hb k => (only_rd o (block3 m f hb hm)).trans (a f hb k)

theorem LK.regs {r s t : State} (a : LK r s) (e : t.regs = s.regs) : LK r t := fun f hb k => by
  have : t.rd f = s.rd f := by unfold State.rd; rw [e]
  exact this.trans (a f hb k)

theorem LK.onLane {r s : State} (a : LK r s) (l : Lane) (f : LaneState → LaneState) : LK r (s.onLane l f) := fun g hb k => (onLane_rd _ _ _ _).trans (a g hb k)

theorem LK.ite {r x y : State} {c : Prop} [Decidable c] (hx : LK r x) (hy : LK r y) : LK r (if c then x else y) := by
  split
  · exact hx
  · exact hy

theorem LK.event {r s : State} (a : LK r s) (k : Nat) (p : Octets) : LK r (s.lscEvent k p) := fun f hb h => (lscEvent_rd s k p f).trans (a f hb h)

theorem LK.setRole {r s : State} (a : LK r s) (l : Lane) (n c : Nat) : LK r (s.setRole l n c) := fun f hb h =>
  (setRole_ne s l n c f (fun e => h (by rw [e]; cases l <;> decide))).trans (a f hb h)

theorem cb_moves (l : Lane) : (LSC_CB_USED l).key ∈ lscMoves := by
  unfold lscMoves; cases l <;> simp

theorem lk_discard {r s : State} (a : LK r s) (l : Lane) : LK r (s.discardIdle l) := a.mask (discardIdle_only (μ := 8388608) rfl (Only.refl _)) rfl

theorem lk_claim {r s : State} (a : LK r s) (l : Lane) : LK r (s.claimSealed l) := a.mask (claimSealed_only (μ := 142606336) rfl (Only.refl _)) rfl

theorem lk_taken {r s : State} (a : LK r s) (k : Nat) : LK r (s.discardTaken k) := a.mask (discardTaken_only (μ := 8388608) rfl (Only.refl _)) rfl

theorem lk_unwait {r s : State} (a : LK r s) (l : Lane) (p : Batch → Bool) : LK r (s.unwait l p) := a.mask (unwait_only (μ := 671088644) rfl (Only.refl _)) rfl

theorem lk_settle {r s : State} (a : LK r s) (k : Nat) : LK r (s.settle k) := by
  unfold State.settle
  split
  · exact a
  · simp only
    split
    · exact a.regs rfl
    · split
      · refine LK.event (LK.wr (g := LSC_ROLE_SUSPECT) (LK.wr (g := LSC_ROLE_SUSP_CNT) ?_ (by decide)) (by decide)) _ _
        exact LK.regs a rfl
      · refine LK.wr (g := LSC_ROLE_SUSP_CNT) ?_ (by decide)
        exact LK.regs a rfl

theorem lk_settleAlone {r s : State} (a : LK r s) : LK r s.settleAlone := by
  unfold State.settleAlone
  (repeat' split) <;> first | exact a | exact lk_settle a _

theorem cause_moves (l : Lane) : (causeField l).key ∈ lscMoves := by cases l <;> decide +kernel

theorem outs_moves (l : Lane) : (outsField l).key ∈ lscMoves := by cases l <;> decide +kernel

theorem flag_moves (l : Lane) : (outFlag l).key ∈ lscMoves := by cases l <;> decide +kernel

theorem lk_leave {r s : State} (a : LK r s) (l : Lane) (c : Nat) : LK r (s.leave l c) := by
  unfold State.leave
  simp only
  have b := ((a.wr (v := c) (cause_moves l)).countSat (outs_moves l) (w := LSC_STATUS_SVCSAT) (by decide)).raise (flag_moves l)
  exact (lk_unwait (lk_discard ((b.onLane l _).wr (cb_moves l)) l) l _).event _ _

theorem lk_takeover {r s : State} (a : LK r s) (l : Lane) : LK r (s.takeover l) := by
  unfold State.takeover
  simp only
  split
  · refine LK.mask ?_ (pbTakeover_only (μ := 17592186046464) rfl (Only.refl _)) rfl
    refine LK.mask ?_ (portTakeover_only (μ := 17592186045952) rfl (Only.refl _)) rfl
    refine LK.mask ?_ (portTakeover_only (μ := 17592186045952) rfl (Only.refl _)) rfl
    refine LK.mask ?_ (dmaTakeover_only (μ := 4295491584) rfl (Only.refl _)) rfl
    exact lk_discard (lk_claim (LK.raise (LK.setRole a _ _ _) (by decide)) _) _
  · refine LK.mask ?_ (bistAbandon_only (μ := 562949989072896) rfl (Only.refl _)) rfl
    exact LK.regs (a.raise (g := LSC_STATUS_NOLANE) (by decide)) rfl

theorem lk_takeOut {r s : State} (a : LK r s) (l : Lane) (c : Nat) : LK r (s.takeOut l c) := by
  unfold State.takeOut
  simp only
  split
  · exact a
  · refine LK.mask ?_ (rldLaneOut_only (μ := 2674132571660288) rfl (Only.refl _)) rfl
    refine lk_settleAlone ?_
    split
    · exact lk_takeover (lk_leave a l c) l
    · exact lk_leave a l c

theorem lk_swapRoles {r s : State} (a : LK r s) (l : Lane) : LK r (s.swapRoles l) := by
  unfold State.swapRoles
  split
  · exact lk_claim ((a.setRole _ _ _).setRole _ _ _) _
  · exact a

theorem lk_mismatch {r s : State} (a : LK r s) (k : Nat) (l : Lane) : LK r (s.mismatch k l) := by
  unfold State.mismatch
  simp only
  have b := ((a.raise (g := LSC_STATUS_MISMATCH) (by decide)).wr (g := LSC_MIS_IDX_IDX) (v := k) (by decide)).event 0x02 (le 8 k ++ [octet (b2n (s.on LSC_ROLE_SUSPECT))])
  refine lk_takeOut ?_ _ _
  split
  · exact lk_settle (((b.wr (g := LSC_ROLE_DEGRADED) (by decide)).raise (g := LSC_STATUS_DEGRADE) (by decide)).event _ _) _
  · exact (((b.wr (g := LSC_ROLE_SUSPECT) (v := 1) (by decide)).raise (g := LSC_STATUS_SUSPECT) (by decide)).wr (g := LSC_ROLE_SUSP_CNT) (v := 64) (by decide)).regs rfl

theorem lk_compare {r s : State} (a : LK r s) (k : Nat) : LK r (s.compare k) := by
  unfold State.compare
  split
  · exact a
  · split
    · simp only
      split
      · exact lk_settle (lk_taken a _) _
      · exact lk_mismatch (lk_taken a _) _ _
    · split
      · exact a
      · simp only
        split
        · exact lk_settle (lk_taken a _) _
        · exact lk_taken a _

theorem lk_upTo {r s : State} (a : LK r s) (n : Nat) : LK r (s.upTo n) := a.mask (upTo_only (μ := 2674132571660288) rfl (Only.refl _)) rfl

theorem lk_openWindow {r s : State} (a : LK r s) : LK r s.openWindow := by
  unfold State.openWindow
  simp only
  refine lk_upTo ?_ _
  have b := lk_takeOut (LK.regs a (t := s.setStep .none) rfl) .A causeUpdate
  exact fun f hb k => (rd_wr_ne _ _ (by intro e; rw [Field.block, e] at hb; revert hb; decide)).trans ((b.wr (g := LSC_CTRL_SPLIT) (v := 1) (by decide)) f hb k)

theorem lk_rldSeal {r s : State} (a : LK r s) (l : Lane) : LK r (s.rldSeal l) := by
  unfold State.rldSeal
  split
  · split
    · exact lk_openWindow (lk_swapRoles a _)
    · exact a
  · split
    · exact lk_takeOut (LK.regs (lk_swapRoles a .B) (t := (s.swapRoles .B).setStep .joinB) rfl) _ _
    · exact a
  · split
    · exact lk_takeOut (LK.regs (lk_swapRoles a .A) (t := (s.swapRoles .A).setStep .restoring) rfl) _ _
    · exact a
  · exact a

theorem lk_rldShadow {r s : State} (a : LK r s) (l : Lane) : LK r (s.rldShadow l) := by
  unfold State.rldShadow
  split
  · exact lk_upTo (LK.regs (a.wr (g := LSC_CTRL_SPLIT) (v := 0) (by decide)) (t := (s.wr LSC_CTRL_SPLIT 0).setStep .none) rfl) _
  · split
    · exact a.regs rfl
    · exact a

theorem lk_transfer {r s : State} (a : LK r s) (l : Lane) (j : Nat) : LK r (s.transfer l j) := by
  unfold State.transfer
  simp only
  split
  · exact a
  · split
    · exact lk_takeOut a _ _
    · refine lk_rldShadow ?_ _
      refine LK.onLane ?_ _ _
      refine LK.raise ?_ (by decide)
      refine LK.setRole ?_ _ _ _
      refine LK.mask ?_ (copyUnits_only (μ := 2835349508) rfl (Only.refl _)) rfl
      split
      · exact a
      · exact a.mask (copyRegions_only (μ := 16777216) rfl (Only.refl _)) rfl

theorem lk_slow {r s : State} (a : LK r s) (l : Lane) (p : Option (Nat × Bool)) : LK r (s.slowCheck l p) := by
  unfold State.slowCheck
  split
  · exact a
  · exact LK.ite (lk_takeOut (lk_settle a _) _ _) a

theorem lk_activeSeal {r s : State} (a : LK r s) (l : Lane) (k : Nat) (p : Option (Nat × Bool)) : LK r (s.activeSeal l k p) := by
  unfold State.activeSeal
  simp only
  generalize hu : ({ s.coverFinal k with lsc := { s.lsc with formedAt := s.elapsed } } : State) = u
  have c : LK r u := by
    rw [← hu]
    refine LK.regs (s := s.coverFinal k) ?_ rfl
    exact LK.mask a (coverFinal_only (μ := 134217728) rfl (Only.refl _)) rfl
  clear hu
  have b := lk_transfer (lk_slow c l p) l k
  generalize (u.slowCheck l p).transfer l k = v at b
  split
  · refine lk_swapRoles ?_ _
    exact LK.regs b rfl
  · exact b

theorem lk_safSeal {r s : State} (a : LK r s) : LK r s.safSeal := by
  have sk : ∀ {s : State} (f : Field) (v : Nat), f.block = 21 → LK r s → LK r (s.wr f v) := by
    intro s f v hf a g hb k
    exact (rd_wr_ne _ _ (by intro e; rw [Field.block, e] at hb; rw [Field.block] at hf; rw [hb] at hf; cases hf)).trans (a g hb k)
  have bs : ∀ (l : Lane) (o : Nat), LK r (s.bistStart l o) := by
    intro l o
    unfold State.bistStart
    simp only
    refine sk _ _ (by cases l <;> rfl) ?_
    refine LK.setRole (LK.wr ?_ (cause_moves l)) _ _ _
    refine lk_unwait (lk_discard (LK.wr (LK.onLane ?_ _ _) (cb_moves l)) _) _ _
    exact LK.regs (sk SAF_NEXT_TS64 s.bistNext rfl a) rfl
  unfold State.safSeal
  split
  · split
    · exact bs _ _
    · rw [raise_def]; exact sk _ _ rfl (a.regs rfl)
  · split
    · exact a
    · split
      · rw [raise_def]; exact sk _ _ rfl a
      · split
        · exact a
        · split
          · exact lk_swapRoles a _
          · exact bs _ _

theorem digest_block (l : Lane) : (digestField l).block = 3 ∧ (digestIndex l).block = 3 := by cases l <;> exact ⟨rfl, rfl⟩

theorem digest_stays (l : Lane) : (digestField l).key ∉ lscMoves ∧ (digestIndex l).key ∉ lscMoves := by cases l <;> decide +kernel

theorem leVal_lt (bs : Octets) : leVal bs < 256 ^ bs.length := by
  induction bs with
  | nil => simp [leVal]
  | cons b t ih =>
    have := b.isLt
    simp only [leVal, List.length_cons, Nat.pow_succ]
    omega

theorem formDigest_facts (s : State) (l : Lane) (k : Nat) : (s.formDigest l k).rd (digestField l) = leVal (s.stateDigest l k) % 2 ^ 256 ∧ (s.formDigest l k).rd (digestIndex l) = k % 2 ^ 64 := by
  unfold State.formDigest
  simp only
  have e : ∀ (u : State) (f : Field), f.block = 3 → ((u.felterSealed l k).escortSealed l k).rd f = u.rd f := by
    intro u f hf
    rw [only_rd (escortSealed_only (μ := 2147483648) rfl (Only.refl _)) (block3 _ _ hf rfl), only_rd (felterSealed_only (μ := 536870912) rfl (Only.refl _)) (block3 _ _ hf rfl)]
  refine ⟨?_, ?_⟩
  · rw [e _ _ (digest_block l).1, rd_wr_ne _ _ (by cases l <;> decide +kernel), rd_wr_same]
    cases l <;> rfl
  · rw [e _ _ (digest_block l).2, rd_wr_same]
    cases l <;> rfl

/-! ### Records, drains and the exchange of roles -/

theorem trapped (s : State) (l : Lane) (x : Trap) : ((s.trapLane l x).lane l).trap = some x ∧ ((s.trapLane l x).lane l).det = (s.lane l).det ∧ ((s.trapLane l x).lane l).sealing = (s.lane l).sealing := by
  unfold State.trapLane; rw [onLane_lane]; exact ⟨rfl, rfl, rfl⟩

theorem recordStore_fits (s : State) (l : Lane) (a v : Nat) (h : (s.lane l).fill.length < 32768) :
    ((s.recordStore l a v).1.lane l).fill = (s.lane l).fill ++ [(a, v)] ∧ (s.recordStore l a v).1.rd (LSC_CB_USED l) = (s.lane l).fill.length + 1 := by
  unfold State.recordStore
  simp only
  rw [if_neg (by omega)]
  have pk : ∀ (u : State) (f : Field) (n : Nat), (u.peak f n).lane l = u.lane l := by
    intro u f n; unfold State.peak; split
    · exact wr_lane _ _ _ _
    · rfl
  refine ⟨?_, ?_⟩
  · rw [pk, wr_lane, onLane_lane]
  · rw [peak_rd_ne _ (by cases l <;> decide +kernel), rd_wr_same]
    have : (LSC_CB_USED l).width = 16 := by cases l <;> rfl
    rw [this]; exact Nat.mod_eq_of_lt (by omega)

theorem recordStore_full (s : State) (l : Lane) (a v : Nat) (h : 32768 ≤ (s.lane l).fill.length) :
    ((s.recordStore l a v).1.lane l).fill = (s.lane l).fill ∧ ((s.recordStore l a v).1.lane l).trap = some .storeFault ∧ (s.recordStore l a v).1.rd LSC_STATUS_CBOVF = 1 := by
  unfold State.recordStore
  simp only
  rw [if_pos h]
  unfold State.trapLane
  refine ⟨?_, ?_, ?_⟩
  · rw [onLane_lane, raise_def, wr_lane]
  · rw [onLane_lane]
  · rw [onLane_rd, raise_def, rd_wr_same]; rfl

def pstRecords (rs : List (Nat × Nat)) : Prop := ∀ r ∈ rs, 0x20000000 ≤ r.1 ∧ r.1 < 0x21000000

theorem performRecords_pst (l : Lane) (k : Nat) (rs : List (Nat × Nat)) (s : State) (h : pstRecords rs) : (performRecords l k rs s).lsc = s.lsc := by
  induction rs generalizing s with
  | nil => rfl
  | cons r t ih =>
    unfold performRecords
    split
    · rfl
    · rw [ih _ (fun x hx => h x (by simp [hx]))]
      unfold State.performRecord
      rw [if_pos (h r (by simp))]
      exact only_part (pstWrite_only (μ := 140857747447808) rfl (Only.refl _)) .lsc rfl

theorem drainRecords_facts (s : State) (l : Lane) (b : SealedBuf) (m : DrainMeet) (hr : pstRecords b.records) :
    (s.drainRecords l b m).lsc.drain = some ⟨b.k, l, true⟩ ∧ (m.escort = none → (s.drainRecords l b m).lsc.nextDrain = b.k + 1) := by
  unfold State.drainRecords
  simp only
  generalize hu : ({ s with lsc := { s.lsc with drain := some ⟨b.k, l, false⟩, nextDrain := b.k + 1 }, flt := { s.flt with requests := [] } } : State) = u
  have u1 : u.lsc.drain = some ⟨b.k, l, false⟩ ∧ u.lsc.nextDrain = b.k + 1 := by rw [← hu]; exact ⟨rfl, rfl⟩
  clear hu
  generalize hv : ((u.guardEntry m.queue).launchOpen b.k).recorderOpen b.k = v
  have v1 : v.lsc = u.lsc := by rw [← hv]; exact (only_part (recorderOpen_only (μ := 140857747464192) rfl (Only.refl _)) .lsc rfl).trans ((only_part (launchOpen_only (μ := 1073741840) rfl (Only.refl _)) .lsc rfl).trans (only_part (guardEntry_only (μ := 1109393408) rfl (Only.refl _)) .lsc rfl))
  clear hv
  have w1 : (performRecords l b.k b.records v).lsc = u.lsc := (performRecords_pst _ _ _ _ hr).trans v1
  generalize performRecords l b.k b.records v = w at w1
  rw [if_neg (by rw [w1, u1.1]; simp)]
  refine ⟨rfl, fun he => ?_⟩
  rw [he]
  show (((w.felterBuild b.k l m.felter).drainEscort l b.k none).lsc).nextDrain = _
  have x1 : ((w.felterBuild b.k l m.felter).drainEscort l b.k none).lsc = w.lsc :=
    (only_part (escortDrain_only (μ := 1073741872) rfl (Only.refl _)) .lsc rfl : ((w.felterBuild b.k l m.felter).escortDrain l b.k).lsc = (w.felterBuild b.k l m.felter).lsc).trans (only_part (felterBuild_only (μ := 536870976) rfl (Only.refl _)) .lsc rfl)
  rw [x1, w1, u1.2]

theorem restHalt_facts (s : State) : s.restHalt.lsc.drain = s.lsc.drain ∧ ∀ l, s.restHalt.lane l = s.lane l := by
  refine ⟨?_, fun l => lane_part (only_part (restHalt_only (μ := 268435968) rfl (Only.refl _)) .lanes rfl) (only_part (restHalt_only (μ := 268435968) rfl (Only.refl _)) .sram rfl) l⟩
  unfold State.restHalt; split <;> rfl

theorem takeOutCmd_facts (s : State) (l : Lane) (h : s.role l = roleShadow ∨ (s.role l = roleActive ∧ s.role l.other = roleShadow)) :
    (s.takeOutCmd l).role l = roleOut ∧ (s.takeOutCmd l).rd (causeField l) = causeCmd ∧ (s.takeOutCmd l).rd (outFlag l) = 1 := by
  have e : s.takeOutCmd l = s.takeOut l causeCmd := by unfold State.takeOutCmd; rw [if_pos h]
  have n : s.role l ≠ roleOut ∧ s.role l ≠ roleOff ∧ s.role l ≠ roleBist := by
    rcases h with h | ⟨h, _⟩ <;> rw [h] <;> decide
  have f := takeOut_facts s l causeCmd n
  rw [e]
  exact ⟨by unfold State.role; rw [f.1]; rfl, f.2.1, f.2.2⟩

end Sys2Proof.Machine
end

