-- ==== Sys2Proof/Laws/FactsRadio.lean ====
section
/-!
SUPPORT. Small laws about the Felter and the radios.
-/
namespace Sys2Proof.Machine
set_option Elab.async false
open Host (Cell)

/-! ### The Felter -/

theorem offer_facts (s : State) (r : Octets) :
    (s.flt.inq.length < 16 → (s.intakeOffer r).flt.inq = s.flt.inq ++ [r] ∧ (s.intakeOffer r).rd FLT_INQ_USED = s.flt.inq.length + 1 ∧ (s.intakeOffer r).flt.records = s.flt.records) ∧
    (16 ≤ s.flt.inq.length → (s.intakeOffer r).flt.inq = s.flt.inq ∧ (s.intakeOffer r).rd FLT_STATUS_INQOVF = 1 ∧ (s.intakeOffer r).rd FLT_INREJ_CNT_COUNT = (s.rd FLT_INREJ_CNT_COUNT + 1) % 2 ^ 32 ∧
      (s.intakeOffer r).flt.records = s.flt.records) := by
  have pk : ∀ (u : State) (f : Field) (n : Nat), (u.peak f n).flt = u.flt := by intro u f n; unfold State.peak; split <;> rfl
  have ct : ∀ (u : State) (f w : Field), (u.count f w).flt = u.flt := by
    intro u f w; unfold State.count State.addCount State.raiseIf; simp only; split <;> rfl
  refine ⟨fun h => ?_, fun h => ?_⟩
  · unfold State.intakeOffer
    rw [if_pos h]
    simp only
    refine ⟨?_, ?_, ?_⟩
    · rw [pk]; rfl
    · rw [peak_rd_ne _ (by decide), rd_wr_same, List.length_append]
      exact Nat.mod_eq_of_lt (by show _ < 2 ^ 16; simp; omega)
    · rw [pk]; rfl
  · unfold State.intakeOffer
    rw [if_neg (by omega)]
    refine ⟨?_, ?_, ?_, ?_⟩
    · rw [ct]; rfl
    · rw [count_rd_ne _ (by decide) (by decide), raise_def, rd_wr_same]; rfl
    · rw [count_rd_same _ (by decide), raise_def, rd_wr_ne _ _ (by decide)]; rfl
    · rw [ct]; rfl

/-! ### The radios' queues -/

theorem onRadio_radio (s : State) (r : Nat) (f : RadioState → RadioState) : (s.onRadio r f).radio r = f (s.radio r) := by
  unfold State.onRadio State.radio; split <;> rfl

theorem onRadio_regs (s : State) (r : Nat) (f : RadioState → RadioState) : (s.onRadio r f).regs = s.regs ∧ (s.onRadio r f).sent = s.sent ∧ (s.onRadio r f).tb = s.tb ∧ (s.onRadio r f).waiting = s.waiting ∧ (s.onRadio r f).lnu = s.lnu := by
  unfold State.onRadio; split <;> exact ⟨rfl, rfl, rfl, rfl, rfl⟩

theorem radio_rfm {s t : State} (h : t.rfm = s.rfm) (r : Nat) : t.radio r = s.radio r := by unfold State.radio; rw [h]

theorem rd_regs {s t : State} (h : t.regs = s.regs) (f : Field) : t.rd f = s.rd f := by unfold State.rd; rw [h]

theorem count_parts (u : State) (f w : Field) : (u.count f w).rfm = u.rfm ∧ (u.count f w).sent = u.sent ∧ (u.count f w).tb = u.tb ∧ (u.count f w).waiting = u.waiting ∧ (u.count f w).lnu = u.lnu := by
  unfold State.count State.addCount State.raiseIf; simp only; split <;> exact ⟨rfl, rfl, rfl, rfl, rfl⟩

theorem addCount_parts (u : State) (f w : Field) (n : Nat) : (u.addCount f n w).rfm = u.rfm ∧ (u.addCount f n w).sent = u.sent ∧ (u.addCount f n w).tb = u.tb ∧ (u.addCount f n w).waiting = u.waiting ∧ (u.addCount f n w).lnu = u.lnu := by
  unfold State.addCount State.raiseIf; simp only; split <;> exact ⟨rfl, rfl, rfl, rfl, rfl⟩

theorem setDl_facts (s : State) (r : Nat) (q : List Downlink) : ((s.setDl r q).radio r).queue = q ∧ ((s.setDl r q).radio r).awaiting = (s.radio r).awaiting ∧ (s.setDl r q).sent = s.sent ∧ (s.setDl r q).tb = s.tb ∧
    (s.setDl r q).waiting = s.waiting ∧ (∀ f : Field, f.key ≠ RFM_DLQ_STAT_USED_A.key → f.key ≠ RFM_DLQ_STAT_USED_B.key → (s.setDl r q).rd f = s.rd f) := by
  unfold State.setDl
  refine ⟨?_, ?_, ?_, ?_, ?_, ?_⟩
  · rw [radio_rfm (wr_rfm _ _ _), onRadio_radio]
  · rw [radio_rfm (wr_rfm _ _ _), onRadio_radio]
  · exact (onRadio_regs _ _ _).2.1
  · exact (onRadio_regs _ _ _).2.2.1
  · exact (onRadio_regs _ _ _).2.2.2.1
  · intro f h1 h2
    rw [rd_wr_ne _ _ (by split <;> assumption), rd_regs (onRadio_regs _ _ _).1]

theorem rfPost_facts (s : State) (r n k : Nat) (p : Octets) (t : Time) : (s.rfPost r n k p t).rfm = s.rfm ∧ (s.rfPost r n k p t).regs = s.regs ∧ (s.rfPost r n k p t).tb = s.tb ∧
    (s.rfPost r n k p t).waiting = s.waiting ++ [⟨s.event (76 + r) n k p t, none, 0⟩] := ⟨rfl, rfl, rfl, rfl⟩

theorem dlResult_facts (s : State) (r : Nat) (d : Downlink) (x : Nat) (w : Time) : (s.dlResult r d x w).rfm = s.rfm ∧
    (s.dlResult r d x w).waiting = s.waiting ++ [⟨s.event (76 + r) d.dst 0x04 [octet d.handle, octet x] w, none, 0⟩] ∧
    (x = 1 ∨ x = 2 → (s.dlResult r d x w).rd RFM_STATUS_DLFAIL = 1 ∧ (s.dlResult r d x w).rd RFM_DLFAIL_CNT_COUNT = (s.rd RFM_DLFAIL_CNT_COUNT + 1) % 2 ^ 32) ∧ (s.dlResult r d x w).tb = s.tb ∧
    (∀ f : Field, f.key ≠ RFM_STATUS_DLFAIL.key → f.key ≠ RFM_DLFAIL_CNT_COUNT.key → f.key ≠ RFM_STATUS_CNTWRAP.key → (s.dlResult r d x w).rd f = s.rd f) := by
  unfold State.dlResult
  simp only
  split
  · rename_i h
    refine ⟨?_, ?_, fun _ => ⟨?_, ?_⟩, ?_, ?_⟩
    · rw [(count_parts _ _ _).1]; rfl
    · rw [(count_parts _ _ _).2.2.2.1]; rfl
    · rw [count_rd_ne _ (by decide) (by decide), raise_def, rd_wr_same]; rfl
    · rw [count_rd_same _ (by decide), raise_def, rd_wr_ne _ _ (by decide)]; rfl
    · rw [(count_parts _ _ _).2.2.1]; rfl
    · intro f h1 h2 h3
      rw [count_rd_ne _ h2 h3, raise_def, rd_wr_ne _ _ h1]; rfl
  · rename_i h
    exact ⟨rfl, rfl, fun c => absurd c h, rfl, fun _ _ _ _ => rfl⟩

theorem noOpp_fold (r : Nat) (w : State → Downlink → Time) (L : List Downlink) (s : State) : (L.foldl (fun (s : State) d => s.dlResult r d 2 (w s d)) s).rfm = s.rfm ∧ (L ≠ [] → (L.foldl (fun (s : State) d => s.dlResult r d 2 (w s d)) s).rd RFM_STATUS_DLFAIL = 1) ∧
    (s.rd RFM_STATUS_DLFAIL = 1 → (L.foldl (fun (s : State) d => s.dlResult r d 2 (w s d)) s).rd RFM_STATUS_DLFAIL = 1) ∧
    (L.foldl (fun (s : State) d => s.dlResult r d 2 (w s d)) s).rd RFM_DLFAIL_CNT_COUNT = (s.rd RFM_DLFAIL_CNT_COUNT + L.length) % 2 ^ 32 := by
  induction L generalizing s with
  | nil => exact ⟨rfl, fun h => absurd rfl h, fun h => h, by have := rd_lt s RFM_DLFAIL_CNT_COUNT; exact (Nat.mod_eq_of_lt this).symm⟩
  | cons d t ih =>
    rw [List.foldl_cons]
    have a := ih (s.dlResult r d 2 (w s d))
    have f := dlResult_facts s r d 2 (w s d)
    refine ⟨a.1.trans f.1, fun _ => a.2.2.1 (f.2.2.1 (Or.inr rfl)).1, fun _ => a.2.2.1 (f.2.2.1 (Or.inr rfl)).1, ?_⟩
    rw [a.2.2.2, (f.2.2.1 (Or.inr rfl)).2, List.length_cons]
    omega

theorem dlQueue_facts (s : State) (n : Nat) (p : Octets) (hd : Nat) : 
    ((s.radio (s.homeOf n)).queue.length < 16 → ((s.dlQueue n p hd).radio (s.homeOf n)).queue = (s.radio (s.homeOf n)).queue ++ [⟨n, p, hd, s.sfAt (s.homeOf n) s.now, 0, 0⟩]) ∧
    (16 ≤ (s.radio (s.homeOf n)).queue.length → (s.dlQueue n p hd).rd RFM_STATUS_DLQFULL = 1 ∧ ((s.dlQueue n p hd).radio (s.homeOf n)).queue = (s.radio (s.homeOf n)).queue ∧
      (s.dlQueue n p hd).waiting = s.waiting ++ [⟨s.event (76 + s.homeOf n) n 0x04 [octet hd, octet 3] s.tb.now, none, 0⟩]) := by
  refine ⟨fun h => ?_, fun h => ?_⟩
  · unfold State.dlQueue
    simp only
    rw [if_pos h]
    exact (setDl_facts _ _ _).1
  · unfold State.dlQueue
    simp only
    rw [if_neg (by omega)]
    have f := dlResult_facts (s.raise RFM_STATUS_DLQFULL) (s.homeOf n) ⟨n, p, hd, s.sfAt (s.homeOf n) s.now, 0, 0⟩ 3 s.tb.now
    refine ⟨?_, ?_, ?_⟩
    · rw [f.2.2.2.2 _ (by decide) (by decide) (by decide), raise_def, rd_wr_same]; rfl
    · rw [radio_rfm f.1]; rfl
    · rw [f.2.1]
      have : (s.raise RFM_STATUS_DLQFULL).seg = s.seg := by unfold State.seg; rw [raise_def, rd_wr_ne _ _ (by decide)]
      unfold State.event
      rw [this]; rfl

/-! ### The ends of radio cells -/

theorem post_rd (u : State) (e : Event) (f : Field) : (u.post e).rd f = u.rd f := rfl

theorem lanternTo_facts (s : State) (r n new c : Nat) (t : Time) : (s.lanternTo r n new c t).rd (RFM_LTAB_W3_STATE n) = new % 4 ∧ (s.lanternTo r n new c t).rfm = s.rfm ∧ (s.lanternTo r n new c t).lnu = s.lnu ∧
    (s.lanternTo r n new c t).waiting = s.waiting ++ [⟨s.event (76 + r) n 0x03 [octet new, octet (s.rd (RFM_LTAB_W3_STATE n)), octet c] t, none, 0⟩] ∧
    (∀ f : Field, f.key ≠ (RFM_LTAB_W3_STATE n).key → (s.lanternTo r n new c t).rd f = s.rd f) := by
  have sg : (s.wr (RFM_LTAB_W3_STATE n) new).seg = s.seg := by
    unfold State.seg
    rw [rd_wr_ne]
    unfold Field.key; simp only [RFM_LTAB_W3_STATE, CRZ_SEG_SEG]; omega
  refine ⟨?_, rfl, rfl, ?_, ?_⟩
  · exact (rd_regs (rfPost_facts _ _ _ _ _ _).2.1 _).trans (rd_wr_same _ _ _)
  · unfold State.lanternTo
    simp only
    rw [(rfPost_facts _ _ _ _ _ _).2.2.2]
    unfold State.event
    rw [sg]; rfl
  · intro f h
    exact (rd_regs (rfPost_facts _ _ _ _ _ _).2.1 _).trans (rd_wr_ne _ _ h)

/-! ### The lantern table -/

theorem key_ne {f g : Field} (h : f.reg = g.reg) (hl : (f.lo == g.lo) = false) (w : f.lo < 1024 ∧ g.lo < 1024) : f.key ≠ g.key := by
  unfold Field.key; rw [h]; have : f.lo ≠ g.lo := by simpa using hl
  omega

def w0Fields (n : Nat) : List Field := [RFM_LTAB_W0_EN n, RFM_LTAB_W0_SLEEPY n, RFM_LTAB_W0_RELAYED n, RFM_LTAB_W0_RELAY n, RFM_LTAB_W0_CELL n, RFM_LTAB_W0_RCELL n, RFM_LTAB_W0_RP n, RFM_LTAB_W0_PH n]

theorem w0_ne (n : Nat) (f : Field) (h : f.reg < 0x40078000) (hl : f.lo < 1024) : ∀ g ∈ w0Fields n, f.key ≠ g.key := by
  intro g hg
  simp only [w0Fields, List.mem_cons, List.not_mem_nil, or_false] at hg
  unfold Field.key
  rcases hg with e | e | e | e | e | e | e | e <;> subst e <;>
    simp only [RFM_LTAB_W0_EN, RFM_LTAB_W0_SLEEPY, RFM_LTAB_W0_RELAYED, RFM_LTAB_W0_RELAY, RFM_LTAB_W0_CELL, RFM_LTAB_W0_RCELL, RFM_LTAB_W0_RP, RFM_LTAB_W0_PH] <;> omega

def ltabPut (u : State) (n w : Nat) : State :=
  ((((((((u.wr (RFM_LTAB_W0_EN n) (w / 2 ^ 31)).wr (RFM_LTAB_W0_SLEEPY n) (w / 2 ^ 30)).wr (RFM_LTAB_W0_RELAYED n) (w / 2 ^ 29)).wr (RFM_LTAB_W0_RELAY n) (w / 2 ^ 28)).wr (RFM_LTAB_W0_CELL n) (w / 2 ^ 22)).wr (RFM_LTAB_W0_RCELL n) (w / 2 ^ 16)).wr
    (RFM_LTAB_W0_RP n) (w / 2 ^ 8)).wr (RFM_LTAB_W0_PH n) w)

theorem ltabPut_word (u : State) (n w : Nat) (h : w < 2 ^ 32) : (ltabPut u n w).ltabWord n = w ∧ (∀ f : Field, (∀ g ∈ w0Fields n, f.key ≠ g.key) → (ltabPut u n w).rd f = u.rd f) ∧ (ltabPut u n w).rfm = u.rfm ∧ (ltabPut u n w).tb = u.tb := by
  refine ⟨?_, ?_, rfl, rfl⟩
  · unfold State.ltabWord ltabPut
    have k : ∀ (s : State) (f g : Field) (v : Nat), f.reg = g.reg → (f.lo == g.lo) = false → f.lo < 1024 ∧ g.lo < 1024 → (s.wr g v).rd f = s.rd f := fun s f g v a b c => rd_wr_ne s v (key_ne a b c)
    have e0 : ∀ (s : State) (v : Nat), (s.wr (RFM_LTAB_W0_EN n) v).rd (RFM_LTAB_W0_EN n) = v % 2 := fun s v => rd_wr_same _ _ _
    have e1 : ∀ (s : State) (v : Nat), (s.wr (RFM_LTAB_W0_SLEEPY n) v).rd (RFM_LTAB_W0_SLEEPY n) = v % 2 := fun s v => rd_wr_same _ _ _
    have e2 : ∀ (s : State) (v : Nat), (s.wr (RFM_LTAB_W0_RELAYED n) v).rd (RFM_LTAB_W0_RELAYED n) = v % 2 := fun s v => rd_wr_same _ _ _
    have e3 : ∀ (s : State) (v : Nat), (s.wr (RFM_LTAB_W0_RELAY n) v).rd (RFM_LTAB_W0_RELAY n) = v % 2 := fun s v => rd_wr_same _ _ _
    have e4 : ∀ (s : State) (v : Nat), (s.wr (RFM_LTAB_W0_CELL n) v).rd (RFM_LTAB_W0_CELL n) = v % 64 := fun s v => rd_wr_same _ _ _
    have e5 : ∀ (s : State) (v : Nat), (s.wr (RFM_LTAB_W0_RCELL n) v).rd (RFM_LTAB_W0_RCELL n) = v % 64 := fun s v => rd_wr_same _ _ _
    have e6 : ∀ (s : State) (v : Nat), (s.wr (RFM_LTAB_W0_RP n) v).rd (RFM_LTAB_W0_RP n) = v % 256 := fun s v => rd_wr_same _ _ _
    have e7 : ∀ (s : State) (v : Nat), (s.wr (RFM_LTAB_W0_PH n) v).rd (RFM_LTAB_W0_PH n) = v % 256 := fun s v => rd_wr_same _ _ _
    rw [k _ (RFM_LTAB_W0_EN n) (RFM_LTAB_W0_PH n) _ rfl rfl (by exact ⟨by show 31 < 1024; decide, by show 0 < 1024; decide⟩), k _ (RFM_LTAB_W0_EN n) (RFM_LTAB_W0_RP n) _ rfl rfl (by exact ⟨by show 31 < 1024; decide, by show 8 < 1024; decide⟩),
      k _ (RFM_LTAB_W0_EN n) (RFM_LTAB_W0_RCELL n) _ rfl rfl (by exact ⟨by show 31 < 1024; decide, by show 16 < 1024; decide⟩), k _ (RFM_LTAB_W0_EN n) (RFM_LTAB_W0_CELL n) _ rfl rfl (by exact ⟨by show 31 < 1024; decide, by show 22 < 1024; decide⟩),
      k _ (RFM_LTAB_W0_EN n) (RFM_LTAB_W0_RELAY n) _ rfl rfl (by exact ⟨by show 31 < 1024; decide, by show 28 < 1024; decide⟩), k _ (RFM_LTAB_W0_EN n) (RFM_LTAB_W0_RELAYED n) _ rfl rfl (by exact ⟨by show 31 < 1024; decide, by show 29 < 1024; decide⟩),
      k _ (RFM_LTAB_W0_EN n) (RFM_LTAB_W0_SLEEPY n) _ rfl rfl (by exact ⟨by show 31 < 1024; decide, by show 30 < 1024; decide⟩), e0]
    rw [k _ (RFM_LTAB_W0_SLEEPY n) (RFM_LTAB_W0_PH n) _ rfl rfl (by exact ⟨by show 30 < 1024; decide, by show 0 < 1024; decide⟩), k _ (RFM_LTAB_W0_SLEEPY n) (RFM_LTAB_W0_RP n) _ rfl rfl (by exact ⟨by show 30 < 1024; decide, by show 8 < 1024; decide⟩),
      k _ (RFM_LTAB_W0_SLEEPY n) (RFM_LTAB_W0_RCELL n) _ rfl rfl (by exact ⟨by show 30 < 1024; decide, by show 16 < 1024; decide⟩), k _ (RFM_LTAB_W0_SLEEPY n) (RFM_LTAB_W0_CELL n) _ rfl rfl (by exact ⟨by show 30 < 1024; decide, by show 22 < 1024; decide⟩),
      k _ (RFM_LTAB_W0_SLEEPY n) (RFM_LTAB_W0_RELAY n) _ rfl rfl (by exact ⟨by show 30 < 1024; decide, by show 28 < 1024; decide⟩), k _ (RFM_LTAB_W0_SLEEPY n) (RFM_LTAB_W0_RELAYED n) _ rfl rfl (by exact ⟨by show 30 < 1024; decide, by show 29 < 1024; decide⟩), e1]
    rw [k _ (RFM_LTAB_W0_RELAYED n) (RFM_LTAB_W0_PH n) _ rfl rfl (by exact ⟨by show 29 < 1024; decide, by show 0 < 1024; decide⟩), k _ (RFM_LTAB_W0_RELAYED n) (RFM_LTAB_W0_RP n) _ rfl rfl (by exact ⟨by show 29 < 1024; decide, by show 8 < 1024; decide⟩),
      k _ (RFM_LTAB_W0_RELAYED n) (RFM_LTAB_W0_RCELL n) _ rfl rfl (by exact ⟨by show 29 < 1024; decide, by show 16 < 1024; decide⟩), k _ (RFM_LTAB_W0_RELAYED n) (RFM_LTAB_W0_CELL n) _ rfl rfl (by exact ⟨by show 29 < 1024; decide, by show 22 < 1024; decide⟩),
      k _ (RFM_LTAB_W0_RELAYED n) (RFM_LTAB_W0_RELAY n) _ rfl rfl (by exact ⟨by show 29 < 1024; decide, by show 28 < 1024; decide⟩), e2]
    rw [k _ (RFM_LTAB_W0_RELAY n) (RFM_LTAB_W0_PH n) _ rfl rfl (by exact ⟨by show 28 < 1024; decide, by show 0 < 1024; decide⟩), k _ (RFM_LTAB_W0_RELAY n) (RFM_LTAB_W0_RP n) _ rfl rfl (by exact ⟨by show 28 < 1024; decide, by show 8 < 1024; decide⟩),
      k _ (RFM_LTAB_W0_RELAY n) (RFM_LTAB_W0_RCELL n) _ rfl rfl (by exact ⟨by show 28 < 1024; decide, by show 16 < 1024; decide⟩), k _ (RFM_LTAB_W0_RELAY n) (RFM_LTAB_W0_CELL n) _ rfl rfl (by exact ⟨by show 28 < 1024; decide, by show 22 < 1024; decide⟩), e3]
    rw [k _ (RFM_LTAB_W0_CELL n) (RFM_LTAB_W0_PH n) _ rfl rfl (by exact ⟨by show 22 < 1024; decide, by show 0 < 1024; decide⟩), k _ (RFM_LTAB_W0_CELL n) (RFM_LTAB_W0_RP n) _ rfl rfl (by exact ⟨by show 22 < 1024; decide, by show 8 < 1024; decide⟩),
      k _ (RFM_LTAB_W0_CELL n) (RFM_LTAB_W0_RCELL n) _ rfl rfl (by exact ⟨by show 22 < 1024; decide, by show 16 < 1024; decide⟩), e4]
    rw [k _ (RFM_LTAB_W0_RCELL n) (RFM_LTAB_W0_PH n) _ rfl rfl (by exact ⟨by show 16 < 1024; decide, by show 0 < 1024; decide⟩), k _ (RFM_LTAB_W0_RCELL n) (RFM_LTAB_W0_RP n) _ rfl rfl (by exact ⟨by show 16 < 1024; decide, by show 8 < 1024; decide⟩), e5]
    rw [k _ (RFM_LTAB_W0_RP n) (RFM_LTAB_W0_PH n) _ rfl rfl (by exact ⟨by show 8 < 1024; decide, by show 0 < 1024; decide⟩), e6, e7]
    omega
  · intro f hf
    simp only [w0Fields, List.mem_cons, List.not_mem_nil, or_false, forall_eq_or_imp, forall_eq] at hf
    obtain ⟨a, b, c, d, e, g, i, j⟩ := hf
    unfold ltabPut
    rw [rd_wr_ne _ _ j, rd_wr_ne _ _ i, rd_wr_ne _ _ g, rd_wr_ne _ _ e, rd_wr_ne _ _ d, rd_wr_ne _ _ c, rd_wr_ne _ _ b, rd_wr_ne _ _ a]

theorem dlQueue_keep (s : State) (n : Nat) (p : Octets) (hd : Nat) : (∀ f : Field, 0x40070178 ≤ f.reg → f.lo < 1024 → (s.dlQueue n p hd).rd f = s.rd f) ∧ (s.dlQueue n p hd).rfm.inForce = s.rfm.inForce := by
  have ne : ∀ (f g : Field), 0x40070178 ≤ f.reg → g.reg < 0x40070178 → g.lo < 1024 → f.key ≠ g.key := by
    intro f g a b c; unfold Field.key; omega
  refine ⟨?_, ?_⟩
  · intro f h hl
    unfold State.dlQueue
    simp only
    split
    · exact (setDl_facts _ _ _).2.2.2.2.2 f (ne f _ h (by decide) (by decide)) (ne f _ h (by decide) (by decide))
    · rw [(dlResult_facts _ _ _ _ _).2.2.2.2 f (ne f _ h (by decide) (by decide)) (ne f _ h (by decide) (by decide)) (ne f _ h (by decide) (by decide)), raise_def, rd_wr_ne _ _ (ne f _ h (by decide) (by decide))]
  · unfold State.dlQueue
    simp only
    split
    · unfold State.setDl State.onRadio; split <;> rfl
    · rw [(dlResult_facts _ _ _ _ _).1]; rfl

/-! ### Beacons and bundles -/

theorem keyFor_ok (s : State) (n op ctx : Nat) (k : KeySlot) (h : s.slot n = some k) (h2 : k.allows op ctx = true) : s.keyFor n op ctx = (s, some k) := by
  unfold State.keyFor; simp only [h, h2, if_true]

theorem rfOut_facts (s : State) (r a : Nat) (f : Octets) : (s.rfOut r a f).sent = s.sent ++ [⟨3 + r, a, f, 0, .whole, s.rfChannel r, s.rfPower r⟩] ∧ (s.rfOut r a f).rfm = s.rfm ∧ (s.rfOut r a f).lnu = s.lnu ∧ (s.rfOut r a f).rd (rfTxCount r) = (s.rd (rfTxCount r) + 1) % 2 ^ 32 := by
  unfold State.rfOut State.emit
  refine ⟨?_, (count_parts _ _ _).1, (count_parts _ _ _).2.2.2.2, ?_⟩
  · show (State.count _ _ _).sent ++ _ = _
    rw [(count_parts _ _ _).2.1]
  · show (State.count _ _ _).rd _ = _
    rw [count_rd_same _ (by unfold rfTxCount; split <;> decide)]
    unfold rfTxCount; split <;> rfl

theorem superframe_facts (s : State) (r : Nat) (n : Int) : (s.superframeStart r n).sent = s.sent ∧ (s.superframeStart r n).tb = s.tb ∧ ((s.superframeStart r n).radio r).beaconed = some n := by
  refine ⟨(only_part (superframeStart_only (μ := 35184405643392) rfl (Only.refl _)) .sent rfl), (only_part (superframeStart_only (μ := 35184405643392) rfl (Only.refl _)) .tb rfl), ?_⟩
  unfold State.superframeStart; simp only
  exact congrArg RadioState.beaconed (onRadio_radio _ _ _)

theorem markSent_facts (s : State) (p : Path) (b : List Action) : (s.markSent p b).sent = s.sent ∧ (s.markSent p b).lnu.queue = s.lnu.queue.map (fun a => if b.any (fun x => x.aseq == a.aseq && x.launch == a.launch) then a.settle p else a) ∧
    (s.markSent p b).rd (pathSent p) = (s.rd (pathSent p) + b.length) % 2 ^ 32 := by
  unfold State.markSent
  simp only
  refine ⟨(addCount_parts _ _ _ _).2.1, by rw [(addCount_parts _ _ _ _).2.2.2.2], ?_⟩
  rw [addCount_rd_same _ (by cases p <;> decide)]
  cases p <;> rfl

theorem linkFrame_parts (s : State) (r : Nat) (d : Option Nat) (p : Octets) : (s.linkFrame r d p).1.sent = s.sent ∧ (s.linkFrame r d p).1.tb = s.tb ∧ (s.linkFrame r d p).1.lnu = s.lnu ∧ ((s.linkFrame r d p).1.radio r).queue = (s.radio r).queue := by
  refine ⟨only_part (linkFrame_only (μ := 35184372154496) rfl (Only.refl _)) .sent rfl, only_part (linkFrame_only (μ := 35184372154496) rfl (Only.refl _)) .tb rfl, only_part (linkFrame_only (μ := 35184372154496) rfl (Only.refl _)) .lnu rfl, ?_⟩
  have nf : ∀ u : State, (u.nextFc.1).rfm = u.rfm := by
    intro u; unfold State.nextFc State.raiseIf; simp only; split
    · rfl
    · repeat' split
      all_goals rfl
  have kf : ∀ (u : State) (n a b : Nat), (u.keyFor n a b).1.rfm = u.rfm := by
    intro u n a b; exact only_part (keyFor_only (μ := 65536) rfl (Only.refl _)) .rfm rfl
  unfold State.linkFrame
  have kf1 := kf s s.txKeySlot opLink ctxRfm
  split
  · rename_i v hv; rw [hv] at kf1; rw [radio_rfm kf1]
  · rename_i v k hv
    rw [hv] at kf1
    have nf1 := nf v
    split
    · rename_i w hw; rw [hw] at nf1; rw [radio_rfm (nf1.trans kf1)]
    · rename_i w fc hw
      rw [hw] at nf1
      simp only
      rw [onRadio_radio, radio_rfm (nf1.trans kf1)]

theorem rfDrop_facts (s : State) : s.rfDrop.rd RFM_DROP_COUNT = (s.rd RFM_DROP_COUNT + 1) % 2 ^ 32 ∧ ∀ f : Field, f.key ≠ RFM_DROP_COUNT.key → f.key ≠ RFM_STATUS_CNTWRAP.key → s.rfDrop.rd f = s.rd f :=
  ⟨count_rd_same s (by decide), fun f a b => count_rd_ne s a b⟩

/-! ### Received radio frames -/

def LtabKeep (f : Field) : Prop := 0x40078000 ≤ f.reg ∧ f.reg % 16 ≠ 12 ∧ f.lo < 1024

theorem w3_ne {f : Field} (h : LtabKeep f) (n : Nat) : f.key ≠ (RFM_LTAB_W3_STATE n).key ∧ f.key ≠ (RFM_LTAB_W3_MISS n).key ∧ f.key ≠ (RFM_LTAB_W3_DARNF n).key ∧ f.key ≠ (RFM_LTAB_W3_RSSI n).key ∧ f.key ≠ (RFM_LTAB_W3_SYNC n).key := by
  obtain ⟨a, b, c⟩ := h
  refine ⟨?_, ?_, ?_, ?_, ?_⟩ <;> (unfold Field.key; simp only [RFM_LTAB_W3_STATE, RFM_LTAB_W3_MISS, RFM_LTAB_W3_DARNF, RFM_LTAB_W3_RSSI, RFM_LTAB_W3_SYNC]; omega)

theorem onLink_rd (s : State) (n : Nat) (g : LanternLink → LanternLink) (f : Field) : (s.onLink n g).rd f = s.rd f := rfl

theorem contact_keep {f : Field} (h : LtabKeep f) (s : State) (r n : Nat) (t : Time) : (s.contact r n t).rd f = s.rd f := by
  have k := w3_ne h n
  have e1 : ∀ u : State, u.rd f = s.rd f → ((if u.lState n = 2 ∨ u.lState n = 3 then ((u.wr (RFM_LTAB_W3_MISS n) 0).wr (RFM_LTAB_W3_DARNF n) 0).lanternTo r n 1 3 t else u) : State).rd f = s.rd f := by
    intro u hu
    split
    · rw [(lanternTo_facts _ _ _ _ _ _).2.2.2.2 f k.1, rd_wr_ne _ _ k.2.2.1, rd_wr_ne _ _ k.2.1]; exact hu
    · exact hu
  have last : ∀ u : State, u.rd f = s.rd f → ((if (u.link n).assign then (u.onLink n (fun x => { x with assign := false })).queueAssign n else u : State)).rd f = s.rd f := by
    intro u hu
    split
    · unfold State.queueAssign
      rw [(dlQueue_keep _ _ _ _).1 f (by have := h.1; omega) h.2.2, onLink_rd]; exact hu
    · exact hu
  unfold State.contact
  simp only
  by_cases c : (!s.lEn n) = true
  · rw [if_pos c]
  · rw [if_neg c]
    refine last _ ?_
    rw [rd_regs (onRadio_regs _ _ _).1]
    exact e1 s rfl

theorem meet_keep {f : Field} (h : LtabKeep f) (s : State) (n : Nat) (t : Time) : (s.meet n t).rd f = s.rd f := by
  unfold State.meet
  simp only
  split
  · rw [rd_wr_ne _ _ (w3_ne h n).2.1, onLink_rd]
  · rw [onLink_rd]

theorem noteReport_keep {f : Field} (h : LtabKeep f) (s : State) (r src : Nat) (p : Octets) (t : Time) : (s.noteReport r src p t).rd f = s.rd f := by
  have e : ∀ c : Int, (s.syncTo src c).rd f = s.rd f := fun c => by
    unfold State.syncTo; rw [rd_wr_ne _ _ (w3_ne h src).2.2.2.2, onLink_rd]
  have e1 : ∀ (p : Prop) [Decidable p] (u v : State), u.rd f = v.rd f → (if p then u else v).rd f = v.rd f := by
    intro p _ u v hu; split
    · exact hu
    · rfl
  unfold State.noteReport
  simp only
  split
  · rw [e1 _ _ _ (meet_keep h _ _ _), e1 _ _ _ (e _)]
  · rw [contact_keep h, e1 _ _ _ (meet_keep h _ _ _), e1 _ _ _ (e _)]

theorem noteFrame_facts (s : State) (r src idx fc rssi : Nat) (p : Octets) (t : Time) : (s.noteFrame r src idx fc rssi p t).rd (RFM_LTAB_W1_FCKEY src) = idx % 4 ∧ (s.noteFrame r src idx fc rssi p t).rd (RFM_LTAB_W2_FC src) = fc % 2 ^ 32 ∧
    (s.noteFrame r src idx fc rssi p t).sent = s.sent := by
  have k1 : LtabKeep (RFM_LTAB_W1_FCKEY src) := by unfold LtabKeep; simp only [RFM_LTAB_W1_FCKEY]; omega
  have k2 : LtabKeep (RFM_LTAB_W2_FC src) := by unfold LtabKeep; simp only [RFM_LTAB_W2_FC]; omega
  have n12 : (RFM_LTAB_W1_FCKEY src).key ≠ (RFM_LTAB_W2_FC src).key := by unfold Field.key; simp only [RFM_LTAB_W1_FCKEY, RFM_LTAB_W2_FC]; omega
  have step : ∀ f, LtabKeep f → (s.noteFrame r src idx fc rssi p t).rd f = ((s.wr (RFM_LTAB_W1_FCKEY src) idx).wr (RFM_LTAB_W2_FC src) fc).rd f := by
    intro f hf
    have k := w3_ne hf src
    unfold State.noteFrame
    simp only
    rw [contact_keep hf]
    split <;> split <;> simp only [noteReport_keep hf, meet_keep hf, rd_wr_ne _ _ k.2.2.2.1]
  refine ⟨?_, ?_, (only_part (noteFrame_only (μ := 35184405643392) rfl (Only.refl _)) .sent rfl)⟩
  · rw [step _ k1, rd_wr_ne _ _ n12, rd_wr_same]; rfl
  · rw [step _ k2, rd_wr_same]; rfl

theorem dcqOffer_taken (s : State) (n : Nat) (e : Event) (h : (s.dcqOffer n e).2 = true) : (s.dcqOffer n e).1.waiting = s.waiting ++ [⟨e, some n, e.words⟩] := by
  unfold State.dcqOffer at h ⊢
  split
  · rfl
  · rename_i c
    rw [if_neg c] at h
    exact absurd h Bool.false_ne_true

end Sys2Proof.Machine
end

