-- ==== Sys2Proof/Laws/FactsPlc.lean ====
section
/-!
SUPPORT. Small laws about the power-line modem and Reflect.
-/
namespace Sys2Proof.Machine
set_option Elab.async false
open Host (Cell)

/-! ### The power-line modem's queues -/

theorem count_plm (u : State) (f w : Field) : (u.count f w).plm = u.plm := by
  unfold State.count State.addCount State.raiseIf; simp only; split <;> rfl

/-- The settings that a transmission of the modem carries stand through its counters. -/
theorem plcSet_count (s : State) (f : Field) (h : f.key ≠ PLM_CFG_TPATH.key ∧ f.key ≠ PLM_CFG_TXATT.key ∧ f.key ≠ PLM_LAT_TXLAT.key) :
    (s.count f PLM_STATUS_CNTWRAP).tPath = s.tPath ∧ (s.count f PLM_STATUS_CNTWRAP).rd PLM_CFG_TXATT = s.rd PLM_CFG_TXATT ∧ (s.count f PLM_STATUS_CNTWRAP).rd PLM_LAT_TXLAT = s.rd PLM_LAT_TXLAT := by
  refine ⟨?_, count_rd_ne _ (Ne.symm h.2.1) (by decide), count_rd_ne _ (Ne.symm h.2.2) (by decide)⟩
  unfold State.tPath; rw [count_rd_ne _ (Ne.symm h.1) (by decide)]

theorem plcOut_facts (s : State) (a : Nat) (f : Octets) : (s.plcOut a f).sent = s.sent ++ [⟨5, a + 2000000 - s.rd PLM_LAT_TXLAT, f, 0, .whole, s.tPath, s.rd PLM_CFG_TXATT⟩] ∧ (s.plcOut a f).plm = s.plm ∧
    (s.plcOut a f).lnu = s.lnu ∧ (s.plcOut a f).rd PLM_TX_COUNT = (s.rd PLM_TX_COUNT + 1) % 2 ^ 32 := by
  have k := plcSet_count s PLM_TX_COUNT (by decide)
  unfold State.plcOut State.plcEmit State.emit
  refine ⟨?_, count_plm _ _ _, (count_parts _ _ _).2.2.2.2, ?_⟩
  · show (State.count _ _ _).sent ++ _ = _
    rw [(count_parts _ _ _).2.1, k.1, k.2.1]
  · show (State.count _ _ _).rd _ = _
    rw [count_rd_same _ (by decide)]; rfl

theorem plcFrame_parts (s : State) (d : Option Nat) (p : Octets) : (s.plcFrame d p).1.sent = s.sent ∧ (s.plcFrame d p).1.tb = s.tb ∧ (s.plcFrame d p).1.lnu = s.lnu ∧ { (s.plcFrame d p).1.plm with seq := 0 } = { s.plm with seq := 0 } := by
  refine ⟨only_part (plcFrame_only (μ := 70368744243456) rfl (Only.refl _)) .sent rfl, only_part (plcFrame_only (μ := 70368744243456) rfl (Only.refl _)) .tb rfl, only_part (plcFrame_only (μ := 70368744243456) rfl (Only.refl _)) .lnu rfl, ?_⟩
  have nf : ∀ u : State, (u.plcFc.1).plm = u.plm := by
    intro u; unfold State.plcFc State.raiseIf; simp only; split
    · rfl
    · repeat' split
      all_goals rfl
  have kf : ∀ (u : State) (n a b : Nat), (u.keyFor n a b).1.plm = u.plm := by
    intro u n a b; exact only_part (keyFor_only (μ := 65536) rfl (Only.refl _)) .plm rfl
  unfold State.plcFrame
  simp only
  have kf1 := kf s (s.plcSlot (s.plm.txKey + 1)) opLink ctxPlm
  split
  · rename_i v hv; rw [hv] at kf1; rw [kf1]
  · rename_i v k hv
    rw [hv] at kf1
    have nf1 := nf v
    split
    · rename_i w hw; rw [hw] at nf1; rw [nf1.trans kf1]
    · rename_i w fc hw
      rw [hw] at nf1
      simp only
      rw [nf1.trans kf1]

theorem plm_parts {x y : PlmState} (h : { x with seq := 0 } = { y with seq := 0 }) : x.queue = y.queue ∧ x.assigns = y.assigns ∧ x.wait = y.wait ∧ x.timed = y.timed := by
  cases x; cases y; simp_all

theorem plcPost_facts (s : State) (k : Nat) (p : Octets) (t : Nat) : (s.plcPost k p t).plm = s.plm ∧ (s.plcPost k p t).regs = s.regs ∧ (s.plcPost k p t).tb = s.tb ∧ (s.plcPost k p t).waiting = s.waiting ++ [⟨s.event 80 0 k p (timeOfNs t), none, 0⟩] := ⟨rfl, rfl, rfl, rfl⟩

theorem plcResult_facts (s : State) (d : Downlink) (x w : Nat) : (s.plcResult d x w).plm = s.plm ∧ (s.plcResult d x w).tb = s.tb ∧
    (s.plcResult d x w).waiting = s.waiting ++ [⟨s.event 80 0 0x04 (le 2 d.dst ++ [octet d.handle, octet x]) (timeOfNs w), none, 0⟩] ∧
    (x = 1 ∨ x = 2 → (s.plcResult d x w).rd PLM_STATUS_DLFAIL = 1 ∧ (s.plcResult d x w).rd PLM_DLFAIL_CNT_COUNT = (s.rd PLM_DLFAIL_CNT_COUNT + 1) % 2 ^ 32) ∧
    (∀ f : Field, f.key ≠ PLM_STATUS_DLFAIL.key → f.key ≠ PLM_DLFAIL_CNT_COUNT.key → f.key ≠ PLM_STATUS_CNTWRAP.key → (s.plcResult d x w).rd f = s.rd f) := by
  have pl : ∀ (u : State) (f w : Field), (u.count f w).plm = u.plm := by
    intro u f w; unfold State.count State.addCount State.raiseIf; simp only; split <;> rfl
  unfold State.plcResult
  simp only
  split
  · refine ⟨?_, ?_, ?_, fun _ => ⟨?_, ?_⟩, ?_⟩
    · rw [pl]; rfl
    · rw [(count_parts _ _ _).2.2.1]; rfl
    · rw [(count_parts _ _ _).2.2.2.1]; rfl
    · rw [count_rd_ne _ (by decide) (by decide), raise_def, rd_wr_same]; rfl
    · rw [count_rd_same _ (by decide), raise_def, rd_wr_ne _ _ (by decide)]; rfl
    · intro f h1 h2 h3
      rw [count_rd_ne _ h2 h3, raise_def, rd_wr_ne _ _ h1]; rfl
  · rename_i h
    exact ⟨rfl, rfl, rfl, fun c => absurd c h, fun _ _ _ _ => rfl⟩

theorem setPlcQueue_facts (s : State) (q : List Downlink) : (s.setPlcQueue q).plm = { s.plm with queue := q } ∧ (s.setPlcQueue q).tb = s.tb ∧ (s.setPlcQueue q).waiting = s.waiting ∧ (s.setPlcQueue q).sent = s.sent ∧
    ∀ f : Field, f.key ≠ PLM_DLQ_STAT_USED.key → (s.setPlcQueue q).rd f = s.rd f := ⟨rfl, rfl, rfl, rfl, fun f h => (rd_wr_ne _ _ h).trans rfl⟩

/-! ### Received power-line frames -/

theorem markSent_plm (s : State) (p : Path) (b : List Action) : (s.markSent p b).plm = s.plm := by
  unfold State.markSent State.addCount State.raiseIf; simp only; split <;> rfl

theorem plcUnicast_assign (s v : State) (start air : Nat) (g : GuardMeet) (d : Downlink) (x : Octets) (hg : (g.frame || g.poison) = false) (h : s.plcFrame (some d.dst) d.payload = (v, some x)) :
    s.plcUnicast start air d true g = State.plcOut { v with plm := { v.plm with assigns := kvSet v.plm.assigns d.dst (d.tries + 1), wait := v.plm.wait ++ [(v.plcAwait start air { d with tries := d.tries + 1 }, true)] } } start x := by
  unfold State.plcUnicast
  rw [h]
  simp only [hg]
  rfl

theorem plcUnicast_queue (s v : State) (start air : Nat) (g : GuardMeet) (d : Downlink) (x : Octets) (hg : (g.frame || g.poison) = false) (h : s.plcFrame (some d.dst) d.payload = (v, some x)) :
    ∃ u : State, u = v.setPlcQueue (v.plm.queue.map (fun y => if y = d then { d with tries := d.tries + 1 } else y)) ∧
      s.plcUnicast start air d false g = State.plcOut { u with plm := { u.plm with wait := u.plm.wait ++ [(u.plcAwait start air { d with tries := d.tries + 1 }, false)] } } start x := by
  refine ⟨_, rfl, ?_⟩
  unfold State.plcUnicast
  rw [h]
  simp only [hg]
  rfl

theorem plm3_ne {f : Field} (h : 0x40088000 ≤ f.reg ∧ f.reg % 16 ≠ 12 ∧ f.lo < 1024) (n : Nat) : f.key ≠ (PLM_LTAB_W3_MISS n).key ∧ f.key ≠ (PLM_LTAB_W3_PRES n).key ∧ f.key ≠ (PLM_LTAB_W3_SNR n).key := by
  obtain ⟨a, b, c⟩ := h
  refine ⟨?_, ?_, ?_⟩ <;> (unfold Field.key; simp only [PLM_LTAB_W3_MISS, PLM_LTAB_W3_PRES, PLM_LTAB_W3_SNR]; omega)

theorem onPlc_rd (s : State) (n : Nat) (g : PlcLink → PlcLink) (f : Field) : (s.onPlcLink n g).rd f = s.rd f := rfl

theorem heard_tail (s u : State) (n k : Nat) (p : Octets) (t : Nat) (uf : ∀ f : Field, f.key ≠ (PLM_LTAB_W3_MISS n).key → u.rd f = s.rd f) :
    ((if u.on (PLM_LTAB_W3_PRES n) then u else (u.wr (PLM_LTAB_W3_PRES n) 1).plcPost k p t : State).rd (PLM_LTAB_W3_PRES n) = 1) ∧
    ∀ f : Field, (0x40088000 ≤ f.reg ∧ f.reg % 16 ≠ 12 ∧ f.lo < 1024) → (if u.on (PLM_LTAB_W3_PRES n) then u else (u.wr (PLM_LTAB_W3_PRES n) 1).plcPost k p t : State).rd f = s.rd f := by
  split
  · rename_i c
    refine ⟨?_, fun f hf => uf f (plm3_ne hf n).1⟩
    have b2 := rd_lt u (PLM_LTAB_W3_PRES n)
    have b2 : u.rd (PLM_LTAB_W3_PRES n) < 2 := b2
    unfold State.on at c
    simp at c
    omega
  · refine ⟨?_, fun f hf => ?_⟩
    · rw [rd_regs (plcPost_facts _ _ _ _).2.1, rd_wr_same]; rfl
    · rw [rd_regs (plcPost_facts _ _ _ _).2.1, rd_wr_ne _ _ (plm3_ne hf n).2.1]; exact uf f (plm3_ne hf n).1

theorem plcHeard_facts (s : State) (n : Nat) (t : Time) : ((s.plcHeard n t).rd (PLM_LTAB_W3_PRES n) = 1) ∧ ∀ f : Field, (0x40088000 ≤ f.reg ∧ f.reg % 16 ≠ 12 ∧ f.lo < 1024) → (s.plcHeard n t).rd f = s.rd f := by
  refine heard_tail s _ n _ _ _ ?_
  intro f hf
  split
  · rfl
  · exact (onPlc_rd _ _ _ _).trans (rd_wr_ne _ _ hf)

theorem plcAccept_facts (s : State) (src idx fc snr v air : Nat) (t : Time) : (s.plcAccept src idx fc snr v air t).sent = s.sent ++ [⟨5, nsOf (s.replica repPlc) + air + 1000000, le 2 v, 0, .whole, s.tPath, s.rd PLM_CFG_TXATT⟩] ∧
    (s.plcAccept src idx fc snr v air t).rd (PLM_LTAB_W1_FCKEY src) = idx % 4 ∧
    (s.plcAccept src idx fc snr v air t).rd (PLM_LTAB_W2_FC src) = fc % 2 ^ 32 ∧ (s.plcAccept src idx fc snr v air t).rd (PLM_LTAB_W3_PRES src) = 1 := by
  have k1 : 0x40088000 ≤ (PLM_LTAB_W1_FCKEY src).reg ∧ (PLM_LTAB_W1_FCKEY src).reg % 16 ≠ 12 ∧ (PLM_LTAB_W1_FCKEY src).lo < 1024 := by simp only [PLM_LTAB_W1_FCKEY]; omega
  have k2 : 0x40088000 ≤ (PLM_LTAB_W2_FC src).reg ∧ (PLM_LTAB_W2_FC src).reg % 16 ≠ 12 ∧ (PLM_LTAB_W2_FC src).lo < 1024 := by simp only [PLM_LTAB_W2_FC]; omega
  have n12 : (PLM_LTAB_W1_FCKEY src).key ≠ (PLM_LTAB_W2_FC src).key := by unfold Field.key; simp only [PLM_LTAB_W1_FCKEY, PLM_LTAB_W2_FC]; omega
  have kc := plcSet_count s PLM_RX_COUNT (by decide)
  have kr : (s.count PLM_RX_COUNT PLM_STATUS_CNTWRAP).replica repPlc = s.replica repPlc := by unfold State.replica; rw [(count_parts _ _ _).2.2.1]
  have e0 : s.plcAccept src idx fc snr v air t = ((((State.plcEmit (s.count PLM_RX_COUNT PLM_STATUS_CNTWRAP) (nsOf ((s.count PLM_RX_COUNT PLM_STATUS_CNTWRAP).replica repPlc) + air + 1000000) (le 2 v)).wr
    (PLM_LTAB_W1_FCKEY src) idx).wr (PLM_LTAB_W2_FC src) fc).wr (PLM_LTAB_W3_SNR src) snr).plcHeard src t := by
    unfold State.plcAccept; simp only; rw [kr]
  rw [e0, kr]
  generalize hu : State.plcEmit (s.count PLM_RX_COUNT PLM_STATUS_CNTWRAP) (nsOf (s.replica repPlc) + air + 1000000) (le 2 v) = u
  have us : u.sent = s.sent ++ [⟨5, nsOf (s.replica repPlc) + air + 1000000, le 2 v, 0, .whole, s.tPath, s.rd PLM_CFG_TXATT⟩] := by
    rw [← hu]
    unfold State.plcEmit State.emit
    show (State.count _ _ _).sent ++ _ = _
    rw [(count_parts _ _ _).2.1, kc.1, kc.2.1]
  clear hu e0
  have hf := plcHeard_facts (((u.wr (PLM_LTAB_W1_FCKEY src) idx).wr (PLM_LTAB_W2_FC src) fc).wr (PLM_LTAB_W3_SNR src) snr) src t
  have ws : (((u.wr (PLM_LTAB_W1_FCKEY src) idx).wr (PLM_LTAB_W2_FC src) fc).wr (PLM_LTAB_W3_SNR src) snr).sent = u.sent := rfl
  have w1 : (((u.wr (PLM_LTAB_W1_FCKEY src) idx).wr (PLM_LTAB_W2_FC src) fc).wr (PLM_LTAB_W3_SNR src) snr).rd (PLM_LTAB_W1_FCKEY src) = idx % 4 := by
    rw [rd_wr_ne _ _ (plm3_ne k1 src).2.2, rd_wr_ne _ _ n12, rd_wr_same]; rfl
  have w2 : (((u.wr (PLM_LTAB_W1_FCKEY src) idx).wr (PLM_LTAB_W2_FC src) fc).wr (PLM_LTAB_W3_SNR src) snr).rd (PLM_LTAB_W2_FC src) = fc % 2 ^ 32 := by
    rw [rd_wr_ne _ _ (plm3_ne k2 src).2.2, rd_wr_same]; rfl
  generalize ((u.wr (PLM_LTAB_W1_FCKEY src) idx).wr (PLM_LTAB_W2_FC src) fc).wr (PLM_LTAB_W3_SNR src) snr = w at hf ws w1 w2
  have e : (w.plcHeard src t).sent = w.sent := (only_part (plcHeard_only (μ := 70368777732352) rfl (Only.refl _)) .sent rfl)
  exact ⟨e.trans (ws.trans us), (hf.2 _ k1).trans w1, (hf.2 _ k2).trans w2, hf.1⟩

theorem plcDrop_facts (s : State) : s.plcDrop.rd PLM_DROP_COUNT = (s.rd PLM_DROP_COUNT + 1) % 2 ^ 32 ∧ s.plcDrop.waiting = s.waiting := ⟨count_rd_same s (by decide), (count_parts _ _ _).2.2.2.1⟩

theorem plcTab_facts (s : State) (n w : Nat) (h : w < 2 ^ 32) : (s.plcTabWrite n w).plcWord n = bits w 31 1 * 2 ^ 31 + bits w 24 6 * 2 ^ 24 + bits w 8 8 * 2 ^ 8 + bits w 0 8 ∧ (s.plcTabWrite n w).plcEntry n = s.plcEntry n ∧
    (bit w 31 = true → kvFind (s.plcTabWrite n w).plm.assigns n = some 0) := by
  have e : s.plcTabWrite n w = if bit w 31 then State.plcPending ((((State.wr ({ s with plm := { s.plm with inForce := match kvFind s.plm.inForce n with
      | some _ => s.plm.inForce
      | none => kvSet s.plm.inForce n (s.plcWord n) } } : State) (PLM_LTAB_W0_EN n) (w / 2 ^ 31)).wr (PLM_LTAB_W0_CELL n) (w / 2 ^ 24)).wr (PLM_LTAB_W0_PRP n) (w / 2 ^ 8)).wr (PLM_LTAB_W0_PPH n) w) n
      else ((((State.wr ({ s with plm := { s.plm with inForce := match kvFind s.plm.inForce n with
      | some _ => s.plm.inForce
      | none => kvSet s.plm.inForce n (s.plcWord n) } } : State) (PLM_LTAB_W0_EN n) (w / 2 ^ 31)).wr (PLM_LTAB_W0_CELL n) (w / 2 ^ 24)).wr (PLM_LTAB_W0_PRP n) (w / 2 ^ 8)).wr (PLM_LTAB_W0_PPH n) w) := rfl
  generalize hu : ({ s with plm := { s.plm with inForce := match kvFind s.plm.inForce n with
      | some _ => s.plm.inForce
      | none => kvSet s.plm.inForce n (s.plcWord n) } } : State) = u at e
  have inf : kvFind u.plm.inForce n = some (s.plcEntry n) := by
    rw [← hu]; unfold State.plcEntry
    cases x : kvFind s.plm.inForce n with
    | none => simp only [kvFind_kvSet_same]; rfl
    | some y => simp only [x]; rfl
  clear hu
  generalize hv : (((u.wr (PLM_LTAB_W0_EN n) (w / 2 ^ 31)).wr (PLM_LTAB_W0_CELL n) (w / 2 ^ 24)).wr (PLM_LTAB_W0_PRP n) (w / 2 ^ 8)).wr (PLM_LTAB_W0_PPH n) w = v at e
  have vw : v.plcWord n = bits w 31 1 * 2 ^ 31 + bits w 24 6 * 2 ^ 24 + bits w 8 8 * 2 ^ 8 + bits w 0 8 := by
    rw [← hv]; unfold State.plcWord
    have k : ∀ (s : State) (f g : Field) (v : Nat), f.reg = g.reg → (f.lo == g.lo) = false → f.lo < 1024 ∧ g.lo < 1024 → (s.wr g v).rd f = s.rd f := fun s f g v a b c => rd_wr_ne s v (key_ne a b c)
    have e0 : ∀ (s : State) (v : Nat), (s.wr (PLM_LTAB_W0_EN n) v).rd (PLM_LTAB_W0_EN n) = v % 2 := fun s v => rd_wr_same _ _ _
    have e1 : ∀ (s : State) (v : Nat), (s.wr (PLM_LTAB_W0_CELL n) v).rd (PLM_LTAB_W0_CELL n) = v % 64 := fun s v => rd_wr_same _ _ _
    have e2 : ∀ (s : State) (v : Nat), (s.wr (PLM_LTAB_W0_PRP n) v).rd (PLM_LTAB_W0_PRP n) = v % 256 := fun s v => rd_wr_same _ _ _
    have e3 : ∀ (s : State) (v : Nat), (s.wr (PLM_LTAB_W0_PPH n) v).rd (PLM_LTAB_W0_PPH n) = v % 256 := fun s v => rd_wr_same _ _ _
    have l31 : (PLM_LTAB_W0_EN n).lo < 1024 := by show 31 < 1024; decide
    have l24 : (PLM_LTAB_W0_CELL n).lo < 1024 := by show 24 < 1024; decide
    have l8 : (PLM_LTAB_W0_PRP n).lo < 1024 := by show 8 < 1024; decide
    have l0 : (PLM_LTAB_W0_PPH n).lo < 1024 := by show 0 < 1024; decide
    rw [k _ (PLM_LTAB_W0_EN n) (PLM_LTAB_W0_PPH n) _ rfl rfl ⟨l31, l0⟩, k _ (PLM_LTAB_W0_EN n) (PLM_LTAB_W0_PRP n) _ rfl rfl ⟨l31, l8⟩, k _ (PLM_LTAB_W0_EN n) (PLM_LTAB_W0_CELL n) _ rfl rfl ⟨l31, l24⟩, e0,
      k _ (PLM_LTAB_W0_CELL n) (PLM_LTAB_W0_PPH n) _ rfl rfl ⟨l24, l0⟩, k _ (PLM_LTAB_W0_CELL n) (PLM_LTAB_W0_PRP n) _ rfl rfl ⟨l24, l8⟩, e1, k _ (PLM_LTAB_W0_PRP n) (PLM_LTAB_W0_PPH n) _ rfl rfl ⟨l8, l0⟩, e2, e3]
    unfold bits
    omega
  have vp : v.plm = u.plm := by rw [← hv]; rfl
  clear hv
  rw [e]
  split
  · refine ⟨vw, ?_, fun _ => ?_⟩
    · have : (v.plcPending n).plcEntry n = (kvFind v.plm.inForce n).getD (v.plcWord n) := rfl
      rw [this, vp, inf]; rfl
    · show kvFind (kvSet v.plm.assigns n 0) n = _
      exact kvFind_kvSet_same _ _ _
  · refine ⟨vw, ?_, fun c => by rename_i d; exact absurd c d⟩
    unfold State.plcEntry; rw [vp, inf]; rfl

/-! ### Reflect -/

theorem rflEnd_facts (s : State) (r : ReflectRun) (st a b : Nat) (cs : List Change) (m : Bool) : (s.rflEnd r st a b cs m).rfl.run = none ∧ (s.rflEnd r st a b cs m).rd PLM_RFL_STAT_PHASE = 0 ∧ (s.rflEnd r st a b cs m).rd PLM_STATUS_RUNDONE = 1 ∧
    (st ≠ 0 → (s.rflEnd r st a b cs m).rd PLM_STATUS_RABORT = 1) ∧ (s.rflEnd r st a b cs m).rfl.quietOn = s.rfl.quietOn ∧
    (s.rflEnd r st a b cs m).waiting = s.waiting ++ [⟨s.event 81 0 0x01 (s.rflRecord r st a b cs m) s.tb.now, none, 0⟩] := by
  unfold State.rflEnd
  simp only
  have ri : ∀ (u : State) (c : Bool) (f : Field), (u.raiseIf c f).rfl = u.rfl ∧ (u.raiseIf c f).waiting = u.waiting := by intro u c f; unfold State.raiseIf; split <;> exact ⟨rfl, rfl⟩
  refine ⟨?_, ?_, ?_, ?_, ?_, ?_⟩
  · rw [(ri _ _ _).1]; rfl
  · rw [raiseIf_rd_ne _ (by decide), raise_def, rd_wr_ne _ _ (by decide), post_rd]; unfold State.setPhase; rw [rd_wr_same]; rfl
  · rw [raiseIf_rd_ne _ (by decide), raise_def, rd_wr_same]; rfl
  · intro h; exact raiseIf_rd_true _ (by simpa using h) (by decide)
  · rw [(ri _ _ _).1]; rfl
  · rw [(ri _ _ _).2]; rfl

def ArmRefused (s : State) (baseline : Bool) : Prop := s.rd PLM_CTRL_REFL_EN = 0 ∨ s.rflPhase ≠ 0 ∨ s.tStart < s.now + (if s.on PLM_RFL_CFG_COND then 7000000000 else 100000000) ∨ (baseline = false ∧ s.findBaseline = none)

theorem arm_facts (s : State) (b : Bool) (slot n : Nat) (h1 : s.rd PLM_CTRL_REFL_EN = 1) (h2 : s.rflPhase = 0) (h3 : s.now + (if s.on PLM_RFL_CFG_COND then 7000000000 else 100000000) ≤ s.tStart)
    (h4 : (b = true ∧ n = slot) ∨ (b = false ∧ s.findBaseline = some n)) : (s.rflArm b slot).rflPhase = 1 ∧ (s.rflArm b slot).rd PLM_RFL_STAT_SHOTS = 0 ∧ (s.rflArm b slot).rd PLM_RFL_RUNS_COUNT = (s.rd PLM_RFL_RUNS_COUNT + 1) % 2 ^ 32 ∧
    (s.rflArm b slot).rfl.run = some ⟨b, n, s.tStart, (s.rd PLM_RFL_RUNS_COUNT + 1) % 2 ^ 32 % 65536, 0, [], [], []⟩ := by
  have g : (!s.on PLM_CTRL_REFL_EN || s.rflPhase != 0 || decide (s.tStart < s.now + (if s.on PLM_RFL_CFG_COND then 7000000000 else 100000000)) || (!b && s.findBaseline.isNone)) = false := by
    rcases h4 with ⟨a, c⟩ | ⟨a, c⟩ <;> simp [State.on, h1, h2, a, c] <;> (unfold State.on at h3; simpa using h3)
  have e : (if b then slot else s.findBaseline.getD 0) = n := by
    rcases h4 with ⟨a, c⟩ | ⟨a, c⟩
    · rw [a, if_pos rfl, c]
    · rw [a, if_neg (by decide), c]; rfl
  unfold State.rflArm
  simp only
  rw [if_neg (by rw [g]; decide), e]
  unfold State.rflPhase State.setPhase
  have c1 : (s.count PLM_RFL_RUNS_COUNT PLM_STATUS_CNTWRAP).rd PLM_RFL_RUNS_COUNT = (s.rd PLM_RFL_RUNS_COUNT + 1) % 2 ^ 32 := count_rd_same s (by decide)
  refine ⟨?_, ?_, ?_, ?_⟩
  · rw [rd_wr_same]; rfl
  · rw [rd_wr_ne _ _ (by decide), rd_wr_same]; rfl
  · rw [rd_wr_ne _ _ (by decide), rd_wr_ne _ _ (by decide)]; exact c1
  · show some _ = some _
    rw [c1]

theorem arm_refused (s : State) (b : Bool) (slot : Nat) (h : ArmRefused s b) : s.rflArm b slot = s.raise PLM_STATUS_STARTREJ := by
  unfold State.rflArm
  simp only
  rw [if_pos]
  rcases h with e | e | e | ⟨e, e2⟩
  · simp [State.on, e]
  · simp [e]
  · simp [e]
  · simp [e, e2]

theorem abort_facts (s : State) (r : ReflectRun) (h : s.rfl.run = some r) : s.rflAbort.rfl.run = none ∧ s.rflAbort.rflPhase = 0 ∧ (s.rflPhase ≠ 1 → s.rflAbort.rd PLM_STATUS_RUNDONE = 1 ∧ s.rflAbort.rd PLM_STATUS_RABORT = 1) := by
  unfold State.rflAbort
  simp only [h]
  split
  · rename_i c
    refine ⟨rfl, ?_, fun d => absurd c d⟩
    unfold State.rflPhase State.setPhase; rw [rd_wr_same]; rfl
  · unfold State.rflGiveUp State.rflFail
    exact ⟨(rflEnd_facts _ r 4 0 0 [] false).1, (rflEnd_facts _ r 4 0 0 [] false).2.1, fun _ => ⟨(rflEnd_facts _ r 4 0 0 [] false).2.2.1, (rflEnd_facts _ r 4 0 0 [] false).2.2.2.1 (by decide)⟩⟩

end Sys2Proof.Machine
end

