-- ==== Sys2Proof/Laws/FactsBackhaul.lean ====
section
/-!
SUPPORT. Small laws about the backhaul ports and the pole bus.
-/
namespace Sys2Proof.Machine
set_option Elab.async false
open Host (Cell)

/-! ### The transmit rings of the ports -/

theorem bhCount_same (s : State) (p m n : Nat) (hm : m < 48) : (s.bhCount p m n).rd (BHM_CNT_COUNT p m) = (s.rd (BHM_CNT_COUNT p m) + n) % 2 ^ (if m < 2 ∨ m = 29 then 48 else 40) := by
  have k1 : (BHM_CNT_COUNT p m).key ≠ (BHM_HALF_HALF p).key := by unfold Field.key; simp only [BHM_CNT_COUNT, BHM_HALF_HALF]; omega
  have k2 : (BHM_CNT_COUNT p m).key ≠ (BHM_STATUS_STATHALF p).key := by unfold Field.key; simp only [BHM_CNT_COUNT, BHM_STATUS_STATHALF]; omega
  have w : (s.rd (BHM_CNT_COUNT p m) + n) % 2 ^ (if m < 2 ∨ m = 29 then 48 else 40) % 2 ^ (BHM_CNT_COUNT p m).width = (s.rd (BHM_CNT_COUNT p m) + n) % 2 ^ (if m < 2 ∨ m = 29 then 48 else 40) := by
    refine Nat.mod_eq_of_lt (Nat.lt_of_lt_of_le (Nat.mod_lt _ (Nat.pow_pos (by decide))) ?_)
    split
    · exact Nat.le_refl _
    · exact Nat.pow_le_pow_right (by decide) (by show 40 ≤ 48; decide)
  unfold State.bhCount
  simp only
  generalize (if m < 2 ∨ m = 29 then 48 else 40) = k at w
  split
  · rw [rd_wr_same, w]
  · rw [raise_def, rd_wr_ne _ _ k2, rd_wr_ne _ _ k1, rd_wr_same, w]

theorem bhCount_ne (s : State) {p m n : Nat} {f : Field} (h1 : f.key ≠ (BHM_CNT_COUNT p m).key) (h2 : f.key ≠ (BHM_HALF_HALF p).key) (h3 : f.key ≠ (BHM_STATUS_STATHALF p).key) : (s.bhCount p m n).rd f = s.rd f := by
  unfold State.bhCount
  simp only
  generalize (if m < 2 ∨ m = 29 then 48 else 40) = k
  split
  · rw [rd_wr_ne _ _ h1]
  · rw [raise_def, rd_wr_ne _ _ h3, rd_wr_ne _ _ h2, rd_wr_ne _ _ h1]

theorem cnt_ne {p m k : Nat} (h : m % 48 ≠ k % 48) : (BHM_CNT_COUNT p m).key ≠ (BHM_CNT_COUNT p k).key ∧ (BHM_CNT_COUNT p m).key ≠ (BHM_HALF_HALF p).key ∧ (BHM_CNT_COUNT p m).key ≠ (BHM_STATUS_STATHALF p).key := by
  refine ⟨?_, ?_, ?_⟩ <;> (unfold Field.key; simp only [BHM_CNT_COUNT, BHM_HALF_HALF, BHM_STATUS_STATHALF]; omega)

theorem bhCount_other (s : State) {p m k n : Nat} (h : m % 48 ≠ k % 48) : (s.bhCount p k n).rd (BHM_CNT_COUNT p m) = s.rd (BHM_CNT_COUNT p m) := bhCount_ne s (cnt_ne h).1 (cnt_ne h).2.1 (cnt_ne h).2.2

theorem low_ne {f : Field} (h : f.reg % 65536 < 2048 ∧ f.reg % 65536 ≠ 4 ∧ f.lo < 1024) (p k : Nat) : f.key ≠ (BHM_CNT_COUNT p k).key ∧ f.key ≠ (BHM_HALF_HALF p).key ∧ f.key ≠ (BHM_STATUS_STATHALF p).key := by
  obtain ⟨a, b, c⟩ := h
  refine ⟨?_, ?_, ?_⟩ <;> (unfold Field.key; simp only [BHM_CNT_COUNT, BHM_HALF_HALF, BHM_STATUS_STATHALF]; omega)

theorem bhCount_low (s : State) {p k n : Nat} {f : Field} (h : f.reg % 65536 < 2048 ∧ f.reg % 65536 ≠ 4 ∧ f.lo < 1024) : (s.bhCount p k n).rd f = s.rd f := bhCount_ne s (low_ne h p k).1 (low_ne h p k).2.1 (low_ne h p k).2.2

theorem bhCount_parts (s : State) (p m n : Nat) : (s.bhCount p m n).bh = s.bh ∧ (s.bhCount p m n).sent = s.sent ∧ (s.bhCount p m n).tb = s.tb ∧ (s.bhCount p m n).waiting = s.waiting ∧ (s.bhCount p m n).cycles = s.cycles := by
  unfold State.bhCount
  simp only
  generalize (if m < 2 ∨ m = 29 then 48 else 40) = k
  split <;> exact ⟨rfl, rfl, rfl, rfl, rfl⟩

theorem port_wr (s : State) (p : Nat) (f : Field) (v : Nat) : (s.wr f v).port p = s.port p := rfl

theorem onPort_facts (s : State) (p : Nat) (f : PortState → PortState) : (s.onPort p f).port p = f (s.port p) ∧ (∀ g : Field, (s.onPort p f).rd g = s.rd g) ∧ (s.onPort p f).cycles = s.cycles := by
  unfold State.onPort State.port
  split <;> exact ⟨rfl, fun _ => rfl, rfl⟩

theorem port_bh {s t : State} (h : t.bh = s.bh) (p : Nat) : t.port p = s.port p := by unfold State.port; rw [h]

theorem txFetch_rd (s : State) (p i : Nat) (f : Field) (h : f.key ≠ (BHM_CNT_COUNT p 46).key) (h2 : f.key ≠ (BHM_HALF_HALF p).key) (h3 : f.key ≠ (BHM_STATUS_STATHALF p).key) (h4 : f.key ≠ (BHM_STATUS_TXERR p).key) :
    (s.txFetch p i).rd f = s.rd f := by
  unfold State.txFetch
  simp only
  split
  · refine (rd_regs (s := (s.bhCount p 46 1).raise (BHM_STATUS_TXERR p)) rfl f).trans ?_
    rw [raise_def, rd_wr_ne _ _ h4, bhCount_ne _ h h2 h3]
  · rfl

theorem txFetchAll_rd (p n : Nat) : ∀ (s : State) (f : Field), f.key ≠ (BHM_CNT_COUNT p 46).key → f.key ≠ (BHM_HALF_HALF p).key → f.key ≠ (BHM_STATUS_STATHALF p).key → f.key ≠ (BHM_STATUS_TXERR p).key →
    f.key ≠ (BHM_TX_HEAD_VALUE p).key → (txFetchAll p n s).rd f = s.rd f := by
  induction n with
  | zero => intro s f _ _ _ _ _; rfl
  | succ n ih =>
    intro s f h1 h2 h3 h4 h5
    unfold txFetchAll
    simp only
    split
    · rfl
    · rw [ih _ f h1 h2 h3 h4 h5, rd_wr_ne _ _ h5, txFetch_rd _ _ _ _ h1 h2 h3 h4]

theorem txFetchAll_head (p n : Nat) : ∀ (s : State), s.rd (BHM_TX_HEAD_VALUE p) < s.txSize p → s.txSize p ≤ 4095 →
    (s.rd (BHM_TX_TAIL_VALUE p) % s.txSize p + s.txSize p - s.rd (BHM_TX_HEAD_VALUE p)) % s.txSize p ≤ n →
    (txFetchAll p n s).rd (BHM_TX_HEAD_VALUE p) = s.rd (BHM_TX_TAIL_VALUE p) % s.txSize p := by
  induction n with
  | zero =>
    intro s h1 h0 h2
    unfold txFetchAll
    generalize hz : s.txSize p = z at *
    generalize s.rd (BHM_TX_HEAD_VALUE p) = a at *
    have hb : s.rd (BHM_TX_TAIL_VALUE p) % z < z := Nat.mod_lt _ (by omega)
    generalize s.rd (BHM_TX_TAIL_VALUE p) % z = b at *
    have h3 : (b + z - a) % z = 0 := by omega
    by_cases c : a ≤ b
    · rw [show b + z - a = (b - a) + z by omega, Nat.add_mod_right, Nat.mod_eq_of_lt (by omega)] at h3; omega
    · rw [Nat.mod_eq_of_lt (by omega)] at h3; omega
  | succ n ih =>
    intro s h1 h0 h2
    unfold txFetchAll
    simp only
    split
    · assumption
    · rename_i hne
      generalize hu : (s.txFetch p (s.rd (BHM_TX_HEAD_VALUE p))).wr (BHM_TX_HEAD_VALUE p) ((s.rd (BHM_TX_HEAD_VALUE p) + 1) % s.txSize p) = u
      have ku : ∀ f : Field, f.reg % 65536 < 2048 ∧ f.reg % 65536 ≠ 4 ∧ f.lo < 1024 → f.key ≠ (BHM_TX_HEAD_VALUE p).key → u.rd f = s.rd f := by
        intro f hf hk
        have l := low_ne hf p 46
        rw [← hu, rd_wr_ne _ _ hk, txFetch_rd _ _ _ _ l.1 l.2.1 l.2.2]
        obtain ⟨a, b, c⟩ := hf
        unfold Field.key; simp only [BHM_STATUS_TXERR]; omega
      have e1 : u.rd (BHM_TX_TAIL_VALUE p) = s.rd (BHM_TX_TAIL_VALUE p) := ku _ (by simp only [BHM_TX_TAIL_VALUE]; omega) (by unfold Field.key; simp only [BHM_TX_TAIL_VALUE, BHM_TX_HEAD_VALUE]; omega)
      have e2 : u.txSize p = s.txSize p := by
        unfold State.txSize
        rw [ku _ (by simp only [BHM_TX_SIZE_VALUE]; omega) (by unfold Field.key; simp only [BHM_TX_SIZE_VALUE, BHM_TX_HEAD_VALUE]; omega)]
      have e3 : u.rd (BHM_TX_HEAD_VALUE p) = (s.rd (BHM_TX_HEAD_VALUE p) + 1) % s.txSize p := by
        rw [← hu, rd_wr_same]
        exact Nat.mod_eq_of_lt (Nat.lt_of_lt_of_le (Nat.mod_lt _ (by omega)) (by show _ ≤ 4096; omega))
      have r := ih u (by rw [e3, e2]; exact Nat.mod_lt _ (by omega)) (by rw [e2]; exact h0)
      rw [e1, e2, e3] at r
      refine r ?_
      generalize hz : s.txSize p = z at *
      generalize s.rd (BHM_TX_HEAD_VALUE p) = a at *
      have hb : s.rd (BHM_TX_TAIL_VALUE p) % z < z := Nat.mod_lt _ (by omega)
      generalize s.rd (BHM_TX_TAIL_VALUE p) % z = b at *
      clear r ih hu ku e1 e2 e3 hz
      by_cases c : a < b
      · rw [show b + z - a = (b - a) + z by omega, Nat.add_mod_right, Nat.mod_eq_of_lt (by omega)] at h2
        have : (a + 1) % z = a + 1 := Nat.mod_eq_of_lt (by omega)
        rw [this, show b + z - (a + 1) = (b - (a + 1)) + z by omega, Nat.add_mod_right, Nat.mod_eq_of_lt (by omega)]; omega
      · rw [Nat.mod_eq_of_lt (by omega)] at h2
        by_cases d : a + 1 = z
        · rw [d, Nat.mod_self, Nat.sub_zero, Nat.add_mod_right, Nat.mod_eq_of_lt hb]; omega
        · have : (a + 1) % z = a + 1 := Nat.mod_eq_of_lt (by omega)
          rw [this]
          refine Nat.le_trans (Nat.mod_le _ _) ?_; omega

theorem txRun_rd (s : State) (p : Nat) (f : Field) (h : f.reg % 65536 < 2048 ∧ f.lo < 1024 ∧ f.reg % 65536 ≠ 0x8C) (h3 : f.key ≠ (BHM_STATUS_STATHALF p).key) (h4 : f.key ≠ (BHM_STATUS_TXERR p).key) : (s.txRun p).rd f = s.rd f := by
  obtain ⟨a, b, c⟩ := h
  unfold State.txRun
  split
  · refine txFetchAll_rd _ _ _ _ ?_ ?_ h3 h4 ?_ <;> (unfold Field.key; simp only [BHM_CNT_COUNT, BHM_HALF_HALF, BHM_TX_HEAD_VALUE]; omega)
  · rfl

theorem startVerify_rd (s : State) (p : Nat) (f : Field) (h : f.key ≠ (BHM_CTRL_PVERIFIED p).key) : (s.startVerify p).rd f = s.rd f := by
  unfold State.startVerify
  split
  · rfl
  · split
    · exact rd_wr_ne _ _ h
    · exact (onPort_facts _ _ _).2.1 f

/-! ### PAUSE, preemption and supervision of the ports -/

/-- The fields that the pause watchdog leaves: all but PAUSEOVR, its counter and the marks of a counter's top bit. -/
def PauseKeep (p : Nat) (f : Field) : Prop :=
  f.key ≠ (BHM_STATUS_PAUSEOVR p).key ∧ f.key ≠ (BHM_CNT_COUNT p 45).key ∧ f.key ≠ (BHM_HALF_HALF p).key ∧ f.key ≠ (BHM_STATUS_STATHALF p).key

theorem watchdog_facts (s : State) (p tc : Nat) : (∀ f : Field, PauseKeep p f → (s.pauseWatchdog p tc).rd f = s.rd f) ∧ (s.pauseWatchdog p tc).cycles = s.cycles ∧
    (∀ k, k ≠ tc → kvFind ((s.pauseWatchdog p tc).port p).pauses k = kvFind (s.port p).pauses k ∧ kvFind ((s.pauseWatchdog p tc).port p).ignore k = kvFind (s.port p).ignore k) ∧
    (s.overrun p tc = false → s.pauseWatchdog p tc = s) := by
  unfold State.pauseWatchdog State.overrun
  split
  · rename_i z hz
    split
    · rename_i c
      have f := fun t => onPort_facts s p (fun x => { x with pauses := kvErase x.pauses tc, ignore := kvSet x.ignore tc t })
      refine ⟨fun g hg => ?_, ?_, fun k hk => ?_, fun d => ?_⟩
      · rw [bhCount_ne _ hg.2.1 hg.2.2.1 hg.2.2.2, raise_def, rd_wr_ne _ _ hg.1, (f _).2.1]
      · rw [(bhCount_parts _ _ _ _).2.2.2.2]; exact (f _).2.2
      · rw [port_bh (bhCount_parts _ _ _ _).1, raise_def, port_wr, (f _).1]
        exact ⟨kvFind_kvErase_ne _ hk, kvFind_kvSet_ne _ _ hk⟩
      · simp only [hz, c, and_self, decide_true] at d; cases d
    · exact ⟨fun _ _ => rfl, rfl, fun _ _ => ⟨rfl, rfl⟩, fun _ => rfl⟩
  · exact ⟨fun _ _ => rfl, rfl, fun _ _ => ⟨rfl, rfl⟩, fun _ => rfl⟩

theorem pauseTc_set (s : State) (p tc q : Nat) (h1 : s.express p tc = false) (h2 : kvFind (s.port p).ignore tc = none) (h3 : s.overrun p tc = false) :
    (q = 0 → kvFind ((s.pauseTc p tc q).port p).pauses tc = none) ∧
    (q ≠ 0 → ∃ z, kvFind ((s.pauseTc p tc q).port p).pauses tc = some z ∧ z.until' = s.elapsed + s.quantaNs p q) := by
  unfold State.pauseTc
  simp only [(watchdog_facts s p tc).2.2.2 h3, h1, h2, Bool.or_self, Bool.false_eq_true, if_false]
  refine ⟨fun hq => ?_, fun hq => ?_⟩
  · rw [if_pos hq, (onPort_facts _ _ _).1]; exact kvFind_kvErase_same _ _
  · rw [if_neg hq, (onPort_facts _ _ _).1]; exact ⟨_, kvFind_kvSet_same _ _ _, rfl⟩

theorem pauseTc_facts (s : State) (p tc q : Nat) : (∀ f : Field, PauseKeep p f → (s.pauseTc p tc q).rd f = s.rd f) ∧ (s.pauseTc p tc q).cycles = s.cycles ∧
    (∀ k, k ≠ tc → kvFind ((s.pauseTc p tc q).port p).pauses k = kvFind (s.port p).pauses k ∧ kvFind ((s.pauseTc p tc q).port p).ignore k = kvFind (s.port p).ignore k) := by
  have w := watchdog_facts s p tc
  obtain ⟨u, hu⟩ : ∃ u, u = s.pauseWatchdog p tc := ⟨_, rfl⟩
  have f := fun g => onPort_facts u p g
  obtain ⟨ig, fr, e⟩ : ∃ (ig : Bool) (fr : Nat), s.pauseTc p tc q = if u.express p tc || ig then u
      else if q = 0 then u.onPort p (fun x => { x with pauses := kvErase x.pauses tc })
      else u.onPort p (fun x => { x with pauses := kvSet x.pauses tc ⟨fr, u.elapsed + u.quantaNs p q⟩ }) :=
    ⟨match kvFind (u.port p).ignore tc with | some t => decide (u.elapsed < t) | none => false, match kvFind (u.port p).pauses tc with | some z => if u.elapsed ≤ z.until' then z.from' else u.elapsed | none => u.elapsed, by subst hu; rfl⟩
  rw [e]
  rw [← hu] at w
  split
  · exact ⟨w.1, w.2.1, w.2.2.1⟩
  · split
    · refine ⟨fun g hg => ((f _).2.1 g).trans (w.1 g hg), (f _).2.2.trans w.2.1, fun k hk => ?_⟩
      rw [(f _).1]
      exact ⟨(kvFind_kvErase_ne _ hk).trans (w.2.2.1 k hk).1, (w.2.2.1 k hk).2⟩
    · refine ⟨fun g hg => ((f _).2.1 g).trans (w.1 g hg), (f _).2.2.trans w.2.1, fun k hk => ?_⟩
      rw [(f _).1]
      exact ⟨(kvFind_kvSet_ne _ _ hk).trans (w.2.2.1 k hk).1, (w.2.2.1 k hk).2⟩

theorem express_keep {s t : State} (h : ∀ f : Field, f.reg % 65536 < 2048 ∧ f.reg % 65536 ≠ 4 ∧ f.lo < 1024 → t.rd f = s.rd f) (p tc : Nat) : t.express p tc = s.express p tc := by
  unfold State.express; rw [h _ (by simp only [BHM_TCCFG_FPMAP]; omega)]

theorem quanta_keep {s t : State} (h : ∀ f : Field, f.reg % 65536 < 2048 ∧ f.reg % 65536 ≠ 4 ∧ f.lo < 1024 → t.rd f = s.rd f) (p q : Nat) : t.quantaNs p q = s.quantaNs p q := by
  unfold State.quantaNs State.portMode
  rw [h _ (by simp only [BHM_CTRL_MODE]; omega), h _ (by simp only [BHM_CTRL_SGSPD]; omega)]
/-- The pauses of a list of classes, each with its own quanta. -/
theorem pauses_fold (p : Nat) (g : Nat → Nat) (c : Nat → Bool) : ∀ (L : List Nat) (s : State), L.Nodup →
    (∀ f : Field, PauseKeep p f → (L.foldl (fun (s : State) tc => if c tc then s.pauseTc p tc (g tc) else s) s).rd f = s.rd f) ∧ (L.foldl (fun (s : State) tc => if c tc then s.pauseTc p tc (g tc) else s) s).cycles = s.cycles ∧
    (∀ k, k ∉ L → kvFind ((L.foldl (fun (s : State) tc => if c tc then s.pauseTc p tc (g tc) else s) s).port p).pauses k = kvFind (s.port p).pauses k) ∧
    (∀ k, k ∈ L → c k = false → kvFind ((L.foldl (fun (s : State) tc => if c tc then s.pauseTc p tc (g tc) else s) s).port p).pauses k = kvFind (s.port p).pauses k) ∧
    (∀ k, k ∈ L → c k = true → s.express p k = false → kvFind (s.port p).ignore k = none → s.overrun p k = false →
      (g k = 0 → kvFind ((L.foldl (fun (s : State) tc => if c tc then s.pauseTc p tc (g tc) else s) s).port p).pauses k = none) ∧
      (g k ≠ 0 → ∃ z, kvFind ((L.foldl (fun (s : State) tc => if c tc then s.pauseTc p tc (g tc) else s) s).port p).pauses k = some z ∧ z.until' = s.elapsed + s.quantaNs p (g k))) := by
  intro L
  induction L with
  | nil => intro s _; exact ⟨fun _ _ => rfl, rfl, fun _ _ => rfl, fun k hk => absurd hk (by simp), fun k hk => absurd hk (by simp)⟩
  | cons x L ih =>
    intro s hd
    rw [List.nodup_cons] at hd
    obtain ⟨hx, hd⟩ := hd
    simp only [List.foldl]
    have f0 : (∀ f : Field, PauseKeep p f → (if c x then s.pauseTc p x (g x) else s).rd f = s.rd f) ∧ (if c x then s.pauseTc p x (g x) else s).cycles = s.cycles ∧
        (∀ k, k ≠ x → kvFind ((if c x then s.pauseTc p x (g x) else s).port p).pauses k = kvFind (s.port p).pauses k ∧ kvFind ((if c x then s.pauseTc p x (g x) else s).port p).ignore k = kvFind (s.port p).ignore k) ∧
        (c x = true → (if c x then s.pauseTc p x (g x) else s) = s.pauseTc p x (g x)) ∧ (c x = false → (if c x then s.pauseTc p x (g x) else s) = s) := by
      have f := pauseTc_facts s p x (g x)
      split
      · rename_i hc; exact ⟨f.1, f.2.1, f.2.2, fun _ => rfl, fun z => absurd hc (by simp [z])⟩
      · rename_i hc; exact ⟨fun _ _ => rfl, rfl, fun _ _ => ⟨rfl, rfl⟩, fun z => absurd z hc, fun _ => rfl⟩
    generalize (if c x then s.pauseTc p x (g x) else s) = u at f0
    obtain ⟨a1, a2, a3, a4, a5⟩ := f0
    obtain ⟨b1, b2, b3, b4, b5⟩ := ih u hd
    refine ⟨fun f hf => (b1 f hf).trans (a1 f hf), b2.trans a2, fun k hk => ?_, fun k hk hc => ?_, fun k hk hc he hi ho => ?_⟩
    · rw [List.mem_cons, not_or] at hk
      exact (b3 k hk.2).trans (a3 k hk.1).1
    · by_cases e : k = x
      · subst e
        rw [b3 k hx, a5 hc]
      · have hl : k ∈ L := by rcases List.mem_cons.mp hk with z | z; exacts [absurd z e, z]
        exact (b4 k hl hc).trans (a3 k e).1
    · by_cases e : k = x
      · subst e
        rw [b3 k hx, a4 hc]
        exact pauseTc_set s p k (g k) he hi ho
      · have hl : k ∈ L := by rcases List.mem_cons.mp hk with z | z; exacts [absurd z e, z]
        have lp : ∀ f : Field, f.reg % 65536 < 2048 ∧ f.reg % 65536 ≠ 4 ∧ f.lo < 1024 → u.rd f = s.rd f := fun f hf =>
          a1 f ⟨(by obtain ⟨a, b, c⟩ := hf; unfold Field.key; simp only [BHM_STATUS_PAUSEOVR]; omega), (low_ne hf p 45).1, (low_ne hf p 45).2.1, (low_ne hf p 45).2.2⟩
        have el : u.elapsed = s.elapsed := by unfold State.elapsed; rw [a2]
        have ov : u.overrun p k = s.overrun p k := by
          unfold State.overrun State.pwd; rw [(a3 k e).1, el, lp _ (by simp only [BHM_TCCFG_PWD]; omega)]
        have r := b5 k hl hc ((express_keep lp p k).trans he) ((a3 k e).2.trans hi) (ov.trans ho)
        rw [el, quanta_keep lp] at r
        exact r

theorem portUp_keep {s t : State} (h : ∀ f : Field, f.reg % 65536 < 2048 ∧ f.reg % 65536 ≠ 4 ∧ f.lo < 1024 → t.rd f = s.rd f) (hb : t.bh = s.bh) (p : Nat) : t.portUp p = s.portUp p := by
  unfold State.portUp State.on
  rw [h _ (by simp only [BHM_CTRL_RUNST]; omega), h _ (by simp only [BHM_CTRL_LINK]; omega), port_bh hb]

/-! ### Frames a port receives -/

def Low (f : Field) : Prop := f.lo < 1024 ∧ (f.reg % 65536 < 2048 ∧ f.reg % 65536 ≠ 4 ∨ f.reg < 0x40090000 ∨ 0x400B0000 ≤ f.reg)

theorem bhCount_Low (s : State) {p k n : Nat} {f : Field} (h : Low f) : (s.bhCount p k n).rd f = s.rd f := by
  obtain ⟨a, b⟩ := h
  refine bhCount_ne s ?_ ?_ ?_ <;> (unfold Field.key; simp only [BHM_CNT_COUNT, BHM_HALF_HALF, BHM_STATUS_STATHALF]; omega)
/- What a run of counters leaves: every low field, the port's own state, what waits, the time, and the counters from `k` on. -/

def Counted (p k : Nat) (s t : State) : Prop := (∀ f, Low f → t.rd f = s.rd f) ∧ t.bh = s.bh ∧ t.waiting = s.waiting ∧ t.cycles = s.cycles ∧ t.tb = s.tb ∧ t.sent = s.sent ∧ (∀ l, t.lane l = s.lane l) ∧ t.lsc = s.lsc ∧
  ∀ m, k ≤ m → m < 48 → t.rd (BHM_CNT_COUNT p m) = s.rd (BHM_CNT_COUNT p m)

theorem Counted.refl (p k : Nat) (s : State) : Counted p k s s := ⟨fun _ _ => rfl, rfl, rfl, rfl, rfl, rfl, fun _ => rfl, rfl, fun _ _ _ => rfl⟩

theorem Counted.count {p k m n : Nat} {s t : State} (h : Counted p k s t) (hm : m < k) (hk : m < 48) : Counted p k s (t.bhCount p m n) := by
  obtain ⟨a, b, c, d, e, e1, g, g2, f⟩ := h
  have q := bhCount_parts t p m n
  refine ⟨fun x hx => (bhCount_Low t hx).trans (a x hx), q.1.trans b, q.2.2.2.1.trans c, q.2.2.2.2.trans d, q.2.2.1.trans e, q.2.1.trans e1, fun l => ?_, (show (t.bhCount p m n).lsc = t.lsc from (only_part (bhCount_only (μ := 1536) rfl (Only.refl _)) .lsc rfl)).trans g2, fun j h1 h2 => (bhCount_other t (by omega)).trans (f j h1 h2)⟩
  rw [← g l]
  have : ∀ u : State, u.bhCount p m n = u ∨ True := fun _ => .inr trivial
  unfold State.bhCount
  simp only
  generalize (if m < 2 ∨ m = 29 then 48 else 40) = k
  split
  · exact wr_lane _ _ _ _
  · rw [raise_def, wr_lane, wr_lane, wr_lane]

theorem castClass_lt (b : Nat) (f : Octets) : b ≤ castClass b f ∧ castClass b f ≤ b + 2 := by unfold castClass; split <;> [skip; split] <;> omega

theorem sizeClass_lt (b n : Nat) : b ≤ sizeClass b n ∧ sizeClass b n ≤ b + 5 := by unfold sizeClass; (repeat' split) <;> omega

theorem bus_keep {s t : State} (h : ∀ f, Low f → t.rd f = s.rd f) (hl : ∀ l, t.lane l = s.lane l) (hs : t.lsc = s.lsc) : t.busLane = s.busLane := by
  have ro : ∀ l, t.role l = s.role l := by
    intro l; unfold State.role
    rw [hl]
    cases l
    · rw [h (roleField .A) (by unfold Low; decide)]
    · rw [h (roleField .B) (by unfold Low; decide)]
  have co : t.coldLane = s.coldLane := by
    have bl : ∀ l, t.blocked l = s.blocked l := by
      intro l; cases l
      · show t.on _ = s.on _; unfold State.on; rw [h _ (by unfold Low; decide)]
      · show t.on _ = s.on _; unfold State.on; rw [h _ (by unfold Low; decide)]
    unfold State.coldLane State.on
    simp only [bl, h LSC_CTRL_PREF_B (by unfold Low; decide)]
  unfold State.busLane State.actsActive
  rw [ro, co, hs]

theorem rxGood_facts (s : State) (p : Nat) (f : Octets) : Counted p 12 s (s.rxGood p f) ∧ (s.rxGood p f).rd (BHM_CNT_COUNT p 2) = (s.rd (BHM_CNT_COUNT p 2) + 1) % 2 ^ 40 := by
  have c := castClass_lt 3 f
  have z := sizeClass_lt 6 (f.length + 4)
  unfold State.rxGood
  refine ⟨((((Counted.refl p 12 s).count (by omega) (by omega)).count (by omega) (by omega)).count (by omega) (by omega)).count (by omega) (by omega), ?_⟩
  rw [bhCount_other _ (by omega), bhCount_other _ (by omega), bhCount_same _ _ _ _ (by omega), bhCount_other _ (by omega), if_neg (by omega)]

theorem counts_before (s : State) (p n k : Nat) : Counted p 2 s (s.bhCount p 0 n) ∧ Counted p 29 s ((s.bhCount p 0 n).bhCount p 28 k) ∧ (∀ m, 2 ≤ m → m < 28 → ((s.bhCount p 0 n).bhCount p 28 k).rd (BHM_CNT_COUNT p m) = s.rd (BHM_CNT_COUNT p m)) ∧
    ((s.bhCount p 0 n).bhCount p 28 k).rd (BHM_CNT_COUNT p 0) = (s.rd (BHM_CNT_COUNT p 0) + n) % 2 ^ 48 := by
  have a : Counted p 2 s (s.bhCount p 0 n) := (Counted.refl p 2 s).count (by omega) (by omega)
  refine ⟨a, ((Counted.refl p 29 s).count (by omega) (by omega)).count (by omega) (by omega), fun m h1 h2 => (bhCount_other _ (by omega)).trans (a.2.2.2.2.2.2.2.2 m h1 (by omega)), ?_⟩
  rw [bhCount_other _ (by omega), bhCount_same _ _ _ _ (by omega), if_pos (by omega)]

theorem low_ring (p : Nat) : Low (BHM_CTRL_RING p) := by unfold Low; simp only [BHM_CTRL_RING]; omega

theorem low_maxrx (p : Nat) : Low (BHM_RXCFG_MAXRX p) := by unfold Low; simp only [BHM_RXCFG_MAXRX]; omega

theorem ring_keep {s t : State} (h : ∀ f, Low f → t.rd f = s.rd f) : t.ring = s.ring := by unfold State.ring; rw [h _ (low_ring 0)]

theorem mac_keep {s t : State} (h : ∀ f, Low f → t.rd f = s.rd f) (p : Nat) : t.macOf p = s.macOf p := by
  unfold State.macOf; rw [ring_keep h, h _ (by unfold Low; simp only [BHM_MAC_ADDR]; omega)]

theorem addressed_keep {s t : State} (h : ∀ f, Low f → t.rd f = s.rd f) (p : Nat) (f : Octets) : t.addressed p f = s.addressed p f := by
  have : ∀ n, (t.on (BHM_MCAST_EN p n) && t.rd (BHM_MCAST_ADDR p n) == beAt f 0 6) = (s.on (BHM_MCAST_EN p n) && s.rd (BHM_MCAST_ADDR p n) == beAt f 0 6) := by
    intro n
    unfold State.on
    rw [h _ (by unfold Low; simp only [BHM_MCAST_EN]; omega), h _ (by unfold Low; simp only [BHM_MCAST_ADDR]; omega)]
  unfold State.addressed
  simp only [this, mac_keep h]

theorem steer_keep {s t : State} (h : ∀ f, Low f → t.rd f = s.rd f) (p : Nat) (f : Octets) : t.steer p f = s.steer p f := by
  have : ∀ n, t.ruleHits p n f = s.ruleHits p n f := by
    intro n
    have a1 : t.rd (BHM_RULE_EN p n) = s.rd (BHM_RULE_EN p n) := h _ (by unfold Low; simp only [BHM_RULE_EN]; omega)
    have a2 : t.rd (BHM_RULE_VALUE p n) = s.rd (BHM_RULE_VALUE p n) := h _ (by unfold Low; simp only [BHM_RULE_VALUE]; omega)
    have a3 : t.rd (BHM_RULE_TYPE p n) = s.rd (BHM_RULE_TYPE p n) := h _ (by unfold Low; simp only [BHM_RULE_TYPE]; omega)
    unfold State.ruleHits State.on
    simp only [a1, a2, a3]
  have e : ∀ n, t.rd (BHM_RULE_ACT p n) = s.rd (BHM_RULE_ACT p n) := fun n => h _ (by unfold Low; simp only [BHM_RULE_ACT]; omega)
  have e2 : (fun n => t.ruleHits p n f) = (fun n => s.ruleHits p n f) := funext this
  have e3 : t.rd (BHM_RXCFG_DEFACT p) = s.rd (BHM_RXCFG_DEFACT p) := h _ (by unfold Low; simp only [BHM_RXCFG_DEFACT]; omega)
  unfold State.steer
  simp only [e2, e, e3]

theorem maxRx_keep {s t : State} (h : ∀ f, Low f → t.rd f = s.rd f) (p : Nat) : t.maxRx p = s.maxRx p := by unfold State.maxRx; rw [h _ (low_maxrx p)]
/-- A good frame reaches the acceptance with its counters advanced. -/
theorem rx_go (s : State) (p y : Nat) (f : Octets) (m : RxMeet) (h0 : m.verify = false) (h1 : s.portUp p = true) (h2 : m.err = .none) (h3 : 60 ≤ f.length) (h4 : f.length + 4 ≤ s.maxRx p) :
    ∃ u : State, s.bhReceive p y f m = u.receiveFrame p f (s.ingress p y) true false m ∧ (∀ f, Low f → u.rd f = s.rd f) ∧ u.bh = s.bh ∧ u.waiting = s.waiting ∧ u.cycles = s.cycles ∧ u.tb = s.tb ∧ (∀ l, u.lane l = s.lane l) ∧ u.lsc = s.lsc ∧
      (∀ k, 12 ≤ k → k < 28 → u.rd (BHM_CNT_COUNT p k) = s.rd (BHM_CNT_COUNT p k)) ∧ u.rd (BHM_CNT_COUNT p 2) = (s.rd (BHM_CNT_COUNT p 2) + 1) % 2 ^ 40 := by
  have b := counts_before s p (f.length + 4) m.frags
  have g := rxGood_facts ((s.bhCount p 0 (f.length + 4)).bhCount p 28 m.frags) p f
  refine ⟨((s.bhCount p 0 (f.length + 4)).bhCount p 28 m.frags).rxGood p f, ?_, fun x hx => (g.1.1 x hx).trans (b.2.1.1 x hx), g.1.2.1.trans b.2.1.2.1, g.1.2.2.1.trans b.2.1.2.2.1, g.1.2.2.2.1.trans b.2.1.2.2.2.1,
    g.1.2.2.2.2.1.trans b.2.1.2.2.2.2.1, fun l => (g.1.2.2.2.2.2.2.1 l).trans (b.2.1.2.2.2.2.2.2.1 l), g.1.2.2.2.2.2.2.2.1.trans b.2.1.2.2.2.2.2.2.2.1, fun k x y => (g.1.2.2.2.2.2.2.2.2 k x (by omega)).trans (b.2.2.1 k (by omega) y), g.2.trans ?_⟩
  · have e : ((s.bhCount p 0 (f.length + 4)).bhCount p 28 m.frags).rxCount p f .none = ((s.bhCount p 0 (f.length + 4)).bhCount p 28 m.frags).rxGood p f := by
      unfold State.rxCount
      simp only
      rw [if_neg (by omega), if_neg (by rw [maxRx_keep b.2.1.1]; omega)]
    have d : (RxError.none == RxError.none && decide (64 ≤ f.length + 4) && decide (f.length + 4 ≤ s.maxRx p)) = true := by
      rw [decide_eq_true (by omega), decide_eq_true h4]; rfl
    unfold State.bhReceive
    rw [if_neg (by simp [h1]), if_neg (by simp [h0])]
    simp only [h2, e, d]
    rfl
  · rw [b.2.2.1 2 (by omega) (by omega)]

theorem ring1 (s : State) : s.ring ≠ 0 → s.ring ≠ 2 → s.ring = 1 := by
  have b := rd_lt s (BHM_CTRL_RING 0)
  change s.rd (BHM_CTRL_RING 0) < 4 at b
  unfold State.ring
  split <;> omega

theorem take_go (s : State) (p : Nat) (f : Octets) (t : Time) (m : RxMeet) (h1 : s.ring = 0) (h2 : s.rd BHM0_DR_STAT_STATE = 0) (hw : s.wakingNow = false) (h3 : s.rd FLT_CTRL_COLLECTOR = 0) :
    s.takeFrame p f t m = if (s.steer p f).1 = 0 then s.bhCount p 19 1
      else if m.full || !s.dcqFits (2 * p) (s.frameEvent p (s.steer p f).2 f t).words then ((s.dcqOverflow (2 * p) (s.frameEvent p (s.steer p f).2 f t).words).bhCount p 20 1).raise (BHM_STATUS_RXOVF p)
      else if 2 ≤ (s.steer p f).1 then (if (s.steer p f).1 % 2 = 1 then (s.dcqOffer (2 * p) (s.frameEvent p (s.steer p f).2 f t)).1 else s).toService p (s.steer p f).2 f t false false m.poison
      else if (s.steer p f).1 % 2 = 1 then (s.dcqOffer (2 * p) (s.frameEvent p (s.steer p f).2 f t)).1 else s := by
  have e1 : (s.ring == 2 && hasPrp f) = false := by simp [h1]
  have e2 : (s.ring == 1 && hasHsr f) = false := by simp [h1]
  have e3 : s.watchPatterns p f = s := by unfold State.watchPatterns; rw [if_pos ⟨h2, hw⟩]
  have e4 : (s.on FLT_CTRL_COLLECTOR && udpPort f == some (s.rd FLT_COL_CFG_INPORT)) = false := by simp [State.on, h3]
  unfold State.takeFrame
  simp only [e1, e2, e3, e4, Bool.not_false, Bool.true_and, beq_iff_eq, Bool.false_eq_true, if_false]

/-! ### Frames a port forwards -/

theorem dup_keep {s t : State} (h : t.bh = s.bh) (a b c : Nat) : (t.dupTest a b c).2 = (s.dupTest a b c).2 := by
  unfold State.dupTest
  simp only [h]

theorem dup_state (s : State) (a b c : Nat) : (∀ f, (s.dupTest a b c).1.rd f = s.rd f) ∧ (∀ p, (s.dupTest a b c).1.port p = s.port p) := ⟨fun _ => rfl, fun _ => rfl⟩

theorem dup_known (s : State) (src q : Nat) (e : DupEntry) (h : kvFind s.bh.dup src = some e) : (s.dupTest src 0 q).2 = (DupWindow.test e.accept q).2 := by
  unfold State.dupTest
  simp only [h, if_true, Option.getD_some]

theorem window_drop (w : Option DupWindow) (q : Nat) (h : (DupWindow.test w q).2.1 = false) : (DupWindow.test w q).2.2 = false := by
  unfold DupWindow.test at h ⊢
  cases w with
  | none => cases h
  | some x =>
    simp only at h ⊢
    split at h
    · rename_i c; rw [if_pos c]; split <;> rfl
    · split at h <;> cases h

theorem accept_go (s : State) (p src q : Nat) (f : Octets) (t : Time) (m : RxMeet) (h : (s.dupTest src 0 q).2.1 = false) (h2 : (s.dupTest src 0 q).2.2 = false) :
    s.acceptOnce p src q f t m = (s.dupTest src 0 q).1.bhCount p 21 1 := by
  have : s.acceptOnce p src q f t m = if (s.dupTest src 0 q).2.1 then (if (s.dupTest src 0 q).2.2 then (s.dupTest src 0 q).1.bhCount p 25 1 else (s.dupTest src 0 q).1).takeFrame p f t m
      else (if (s.dupTest src 0 q).2.2 then (s.dupTest src 0 q).1.bhCount p 25 1 else (s.dupTest src 0 q).1).bhCount p 21 1 := rfl
  rw [this, h, h2, if_neg (by decide), if_neg (by decide)]

theorem offer_go (s : State) (q : Nat) (x : Forward) (m : RxMeet) (h1 : s.portUp q = true) (h2 : m.fwdFull = false) (h3 : m.fwdCut = false) (h4 : s.dcqOpen (fwdQueue q) = true)
    (h5 : x.unread ≤ dcqDepth (fwdQueue q) - s.dcqUsed (fwdQueue q)) (h6 : 0 < dcqDepth (fwdQueue q) - s.dcqUsed (fwdQueue q)) :
    s.offerForward q x m = (s.setFwd (fwdQueue q) (s.fwdOf (fwdQueue q) ++ [x])).dcqCount (fwdQueue q) := by
  have e : (dcqDepth (fwdQueue q) - s.dcqUsed (fwdQueue q) == 0) = false := by simp; omega
  have e2 : decide (dcqDepth (fwdQueue q) - s.dcqUsed (fwdQueue q) < x.unread) = false := decide_eq_false (by omega)
  unfold State.offerForward
  simp only [h1, h2, h3, h4, e, e2, Bool.not_true, Bool.or_self, Bool.false_eq_true, if_false]

theorem txGood_parts (s : State) (p : Nat) (f : Octets) : Counted p 40 s (s.txGood p f) ∧ (s.txGood p f).rd (BHM_CNT_COUNT p 30) = (s.rd (BHM_CNT_COUNT p 30) + 1) % 2 ^ 40 := by
  have c := castClass_lt 31 f
  have z := sizeClass_lt 34 (f.length + 4)
  unfold State.txGood
  refine ⟨((((Counted.refl p 40 s).count (by omega) (by omega)).count (by omega) (by omega)).count (by omega) (by omega)).count (by omega) (by omega), ?_⟩
  rw [bhCount_other _ (by omega), bhCount_other _ (by omega), bhCount_same _ _ _ _ (by omega), bhCount_other _ (by omega), if_neg (by omega)]

/-! ### Day Rest -/

theorem insert_zero (s : State) (p : Nat) (f : Octets) (t t2 : Time) (q : Nat) : s.insert 0 p f t t2 q = (s, f, false) := by
  unfold State.insert
  split
  · rfl
  · rw [if_neg (by decide), if_pos rfl]

theorem itemDone_facts (s : State) (x : TxItem) : (s.itemDone x).sent = s.sent ∧ ∀ f, (s.itemDone x).rd f = s.rd f := by
  unfold State.itemDone State.descDone
  split
  · exact ⟨rfl, fun _ => rfl⟩
  · split
    · exact ⟨rfl, fun _ => rfl⟩
    · split <;> exact ⟨rfl, fun _ => rfl⟩

theorem bus_same {s t : State} (h : ∀ f : Field, f.lo < 1024 → f.reg < 0x40090000 ∨ 0x400B0000 ≤ f.reg → t.rd f = s.rd f) (hl : ∀ l, t.lane l = s.lane l) (hs : t.lsc = s.lsc) : t.busLane = s.busLane := by
  have ro : ∀ l, t.role l = s.role l := by
    intro l; unfold State.role
    rw [hl]
    cases l
    · rw [h (roleField .A) (by decide) (by decide)]
    · rw [h (roleField .B) (by decide) (by decide)]
  have co : t.coldLane = s.coldLane := by
    have bl : ∀ l, t.blocked l = s.blocked l := by
      intro l; cases l
      · show t.on _ = s.on _; unfold State.on; rw [h _ (by decide) (by decide)]
      · show t.on _ = s.on _; unfold State.on; rw [h _ (by decide) (by decide)]
    unfold State.coldLane State.on
    simp only [bl, h LSC_CTRL_PREF_B (by decide) (by decide)]
  unfold State.busLane State.actsActive
  rw [ro, co, hs]

theorem itemFrame_seq (s : State) (v : Nat) (x : TxItem) : (s.wr BHM0_SEQ_SEQ v).itemFrame x = s.itemFrame x := by
  have b : (s.wr BHM0_SEQ_SEQ v).busLane = s.busLane := by
    refine bus_same (fun f hl hf => rd_wr_ne _ _ ?_) (fun l => wr_lane _ _ _ l) rfl
    unfold Field.key; simp only [BHM0_SEQ_SEQ]; omega
  have r : ∀ a n, (s.wr BHM0_SEQ_SEQ v).busRead a n = s.busRead a n := by
    intro a n
    have e1 : (s.wr BHM0_SEQ_SEQ v).region a n = s.region a n := rfl
    have e2 : ∀ q o, (s.wr BHM0_SEQ_SEQ v).regionRead q o n = s.regionRead q o n := by
      intro q o
      cases q
      · show memRead ((s.wr BHM0_SEQ_SEQ v).lane (s.wr BHM0_SEQ_SEQ v).busLane).sram o n = _
        rw [b, wr_lane]; rfl
      · rfl
      · rfl
      · rfl
    unfold State.busRead
    rw [e1]
    split
    · rw [e2]
    · rfl
  unfold State.itemFrame
  simp only [r]

theorem restEnd_dr (s : State) : s.restEnd.rd BHM0_DR_STAT_STATE = s.rd BHM0_DR_STAT_STATE ∧ s.restEnd.rd BHM0_DR_STAT_TIME = s.rd BHM0_DR_STAT_TIME ∧ s.restEnd.rd (BHM_STATUS_DRWAKE 0) = s.rd (BHM_STATUS_DRWAKE 0) :=
  ⟨(only_rd (restEnd_only (μ := 478150660) rfl (Only.refl _)) (by decide +kernel)), (only_rd (restEnd_only (μ := 478150660) rfl (Only.refl _)) (by decide +kernel)), (only_rd (restEnd_only (μ := 478150660) rfl (Only.refl _)) (by decide +kernel))⟩

/-! ### The pole bus -/

theorem pbCount_same (s : State) (m n : Nat) (hm : m < 16) : (s.pbCount m n).rd (PBM_CNT_COUNT m) = (s.rd (PBM_CNT_COUNT m) + n) % 2 ^ (if m = 0 ∨ m = 7 then 48 else 40) := by
  have k1 : (PBM_CNT_COUNT m).key ≠ PBM_HALF_HALF.key := by unfold Field.key; simp only [PBM_CNT_COUNT, PBM_HALF_HALF]; omega
  have k2 : (PBM_CNT_COUNT m).key ≠ PBM_STATUS_STATHALF.key := by unfold Field.key; simp only [PBM_CNT_COUNT, PBM_STATUS_STATHALF]; omega
  have w : (s.rd (PBM_CNT_COUNT m) + n) % 2 ^ (if m = 0 ∨ m = 7 then 48 else 40) % 2 ^ (PBM_CNT_COUNT m).width = (s.rd (PBM_CNT_COUNT m) + n) % 2 ^ (if m = 0 ∨ m = 7 then 48 else 40) := by
    refine Nat.mod_eq_of_lt (Nat.lt_of_lt_of_le (Nat.mod_lt _ (Nat.pow_pos (by decide))) ?_)
    split
    · exact Nat.le_refl _
    · exact Nat.pow_le_pow_right (by decide) (by show 40 ≤ 48; decide)
  unfold State.pbCount
  simp only
  generalize (if m = 0 ∨ m = 7 then 48 else 40) = k at w
  split
  · rw [rd_wr_same, w]
  · rw [raise_def, rd_wr_ne _ _ k2, rd_wr_ne _ _ k1, rd_wr_same, w]

theorem pbCount_ne (s : State) {m n : Nat} {f : Field} (h1 : f.key ≠ (PBM_CNT_COUNT m).key) (h2 : f.key ≠ PBM_HALF_HALF.key) (h3 : f.key ≠ PBM_STATUS_STATHALF.key) : (s.pbCount m n).rd f = s.rd f := by
  unfold State.pbCount
  simp only
  generalize (if m = 0 ∨ m = 7 then 48 else 40) = k
  split
  · rw [rd_wr_ne _ _ h1]
  · rw [raise_def, rd_wr_ne _ _ h3, rd_wr_ne _ _ h2, rd_wr_ne _ _ h1]

theorem pbCount_other (s : State) {m k n : Nat} (h : m % 16 ≠ k % 16) : (s.pbCount k n).rd (PBM_CNT_COUNT m) = s.rd (PBM_CNT_COUNT m) := by
  refine pbCount_ne s ?_ ?_ ?_ <;> (unfold Field.key; simp only [PBM_CNT_COUNT, PBM_HALF_HALF, PBM_STATUS_STATHALF]; omega)

def PLow (f : Field) : Prop := f.lo < 1024 ∧ (f.reg < 0x400B0000 ∨ 0x400B0008 ≤ f.reg ∧ f.reg < 0x400B0800 ∨ f.reg = 0x400B0000 ∨ 0x400C0000 ≤ f.reg)

theorem pbCount_low (s : State) {k n : Nat} {f : Field} (h : PLow f) : (s.pbCount k n).rd f = s.rd f := by
  obtain ⟨a, b⟩ := h
  refine pbCount_ne s ?_ ?_ ?_ <;> (unfold Field.key; simp only [PBM_CNT_COUNT, PBM_HALF_HALF, PBM_STATUS_STATHALF]; omega)

theorem pbCount_parts (s : State) (m n : Nat) : (s.pbCount m n).bh = s.bh ∧ (s.pbCount m n).sent = s.sent ∧ (s.pbCount m n).tb = s.tb ∧ (s.pbCount m n).waiting = s.waiting ∧ (s.pbCount m n).cycles = s.cycles ∧ (s.pbCount m n).freeCount = s.freeCount := by
  unfold State.pbCount
  simp only
  generalize (if m = 0 ∨ m = 7 then 48 else 40) = k
  split <;> exact ⟨rfl, rfl, rfl, rfl, rfl, rfl⟩

theorem node_keep {s t : State} (h : ∀ f, PLow f → t.rd f = s.rd f) (a : Nat) : t.poleNode a = s.poleNode a := by
  have : (fun n : Nat => n != 0 && t.on (PBM_NODE_EN n) && t.rd (PBM_NODE_ADDR n) == a) = (fun n : Nat => n != 0 && s.on (PBM_NODE_EN n) && s.rd (PBM_NODE_ADDR n) == a) := by
    funext n
    have e1 : t.rd (PBM_NODE_EN n) = s.rd (PBM_NODE_EN n) := h _ (by unfold PLow; simp only [PBM_NODE_EN]; omega)
    have e2 : t.rd (PBM_NODE_ADDR n) = s.rd (PBM_NODE_ADDR n) := h _ (by unfold PLow; simp only [PBM_NODE_ADDR]; omega)
    unfold State.on
    rw [e1, e2]
  unfold State.poleNode
  rw [this]

theorem pbFinish_facts (s : State) (x : TxItem) (r n : Nat) : (s.pbFinish x r n).bh.pole = { s.bh.pole with items := s.bh.pole.items.drop 1, tries := 0, backoff := none, deferred := false } ∧ (s.pbFinish x r n).sent = s.sent ∧
    (∀ f, (s.pbFinish x r n).rd f = s.rd f) ∧ (∀ q i, x.owner = some (q, i) → (s.pbFinish x r n).bh.backs = s.bh.backs ++ [⟨2, i, r, n, (txDesc x.desc).irq⟩]) := by
  unfold State.pbFinish
  split
  · rename_i q i e
    refine ⟨rfl, rfl, fun _ => rfl, fun q2 i2 e2 => ?_⟩
    rw [e] at e2
    obtain ⟨rfl, rfl⟩ := Prod.mk.inj (Option.some.inj e2)
    rfl
  · rename_i e
    exact ⟨rfl, rfl, fun _ => rfl, fun q i e2 => by rw [e] at e2; cases e2⟩

end Sys2Proof.Machine
end

