-- ==== Sys2Proof/Laws/FactsMeter.lean ====
section
/-!
SUPPORT. Small laws about metering, SF1 and PST.
-/
namespace Sys2Proof.Machine
set_option Elab.async false
open Host (Cell)

/-! ### SF1 -/

theorem dcq_rd (s : State) (n : Nat) (e : Event) {f : Field} (h : f.block ≠ 20) (hb : f.block < 22) : (s.dcqOffer n e).1.rd f = s.rd f := by
  refine only_rd (dcqOffer_only (μ := 34603008) rfl (Only.refl _)) ?_
  rw [Bool.and_eq_true, decide_eq_true_eq]
  refine ⟨hb, ?_⟩
  generalize f.block = b at h hb
  interval_cases b <;> first | rfl | exact absurd rfl h

theorem meterEvent_rd (s : State) (n k : Nat) (p : Octets) (t : Nat) {f : Field} (h1 : f.key ≠ MTR_STATUS_EVDROP.key) (h2 : f.block ≠ 20) (h3 : f.block < 22) : (s.meterEvent n k p t).rd f = s.rd f := by
  unfold State.meterEvent
  simp only
  rw [raiseIf_rd_ne _ h1]
  exact dcq_rd _ _ _ h2 h3

theorem raiseIf_mtr (u : State) (c : Bool) (f : Field) : (u.raiseIf c f).mtr = u.mtr ∧ (u.raiseIf c f).saf = u.saf ∧ (u.raiseIf c f).cycles = u.cycles := by unfold State.raiseIf; split <;> exact ⟨rfl, rfl, rfl⟩

theorem dcqOffer_mtr (s : State) (n : Nat) (e : Event) : (s.dcqOffer n e).1.mtr = s.mtr := only_part (dcqOffer_only (μ := 34603008) rfl (Only.refl _)) .mtr rfl

theorem meterEvent_mtr (s : State) (n k : Nat) (p : Octets) (t : Nat) : (s.meterEvent n k p t).mtr = s.mtr := by
  unfold State.meterEvent
  simp only
  rw [(raiseIf_mtr _ _ _).1, dcqOffer_mtr]

theorem assert_facts (s : State) (p : Nat) (hp : p < 2) : (s.sf1Assert p).rd (sf1Field p) = 1 ∧ (s.sf1Assert p).rd (if p = 0 then MTR_STATUS_TRIP_A else MTR_STATUS_TRIP_B) = 1 ∧ (s.sf1Assert p).sf1At p = some 0 := by
  have k : ∀ u : State, ∀ o, (match u.mtr.sf1First with | some (q, _) => if q = p then u else { u with mtr := { u.mtr with sf1First := none } } | none => if u.on (sf1Field (1 - p)) then u else { u with mtr := { u.mtr with sf1First := some (p, o) } } : State).regs = u.regs ∧
      (match u.mtr.sf1First with | some (q, _) => if q = p then u else { u with mtr := { u.mtr with sf1First := none } } | none => if u.on (sf1Field (1 - p)) then u else { u with mtr := { u.mtr with sf1First := some (p, o) } } : State).sf1At p = u.sf1At p := by
    intro u o
    split
    · split <;> exact ⟨rfl, rfl⟩
    · split <;> exact ⟨rfl, rfl⟩
  generalize hv : ((s.wr (sf1Field p) 1).setSf1At p (some 0)).raise (if p = 0 then MTR_STATUS_TRIP_A else MTR_STATUS_TRIP_B) = v
  have fw : (sf1Field p).width = 1 ∧ (sf1Field p).key ≠ (if p = 0 then MTR_STATUS_TRIP_A else MTR_STATUS_TRIP_B).key ∧ (if p = 0 then MTR_STATUS_TRIP_A else MTR_STATUS_TRIP_B).width = 1 ∧
      (sf1Field p).key ≠ MTR_STATUS_EVDROP.key ∧ (if p = 0 then MTR_STATUS_TRIP_A else MTR_STATUS_TRIP_B).key ≠ MTR_STATUS_EVDROP.key ∧ (sf1Field p).block ≠ 20 ∧ (if p = 0 then MTR_STATUS_TRIP_A else MTR_STATUS_TRIP_B).block ≠ 20 ∧ (sf1Field p).block < 22 ∧ (if p = 0 then MTR_STATUS_TRIP_A else MTR_STATUS_TRIP_B).block < 22 := by
    rcases (show p = 0 ∨ p = 1 by omega) with e | e <;> subst e <;> decide
  have sr : ∀ (u : State) t f, (u.setSf1At p t).rd f = u.rd f := by intro u t f; unfold State.setSf1At; split <;> rfl
  have sa : ∀ (u : State) t, (u.setSf1At p t).sf1At p = t := by
    intro u t
    rcases (show p = 0 ∨ p = 1 by omega) with e | e <;> subst e <;> rfl
  have v1 : v.rd (sf1Field p) = 1 := by rw [← hv, raise_def, rd_wr_ne _ _ fw.2.1, sr, rd_wr_same, fw.1]; rfl
  have v2 : v.rd (if p = 0 then MTR_STATUS_TRIP_A else MTR_STATUS_TRIP_B) = 1 := by rw [← hv, raise_def, rd_wr_same, fw.2.2.1]; rfl
  have v3 : v.sf1At p = some 0 := by rw [← hv]; exact sa _ _
  unfold State.sf1Assert
  simp only
  rw [hv]
  generalize hw : v.meterEvent 0 0x20 (octet (v.rd MTR_SF1_PATHA + 2 * v.rd MTR_SF1_PATHB) :: octet 0 :: le 2 (v.rd MTR_IRES_RMS)) (v.now / sampleNs * sampleNs) = w
  have wr : ∀ f : Field, f.key ≠ MTR_STATUS_EVDROP.key → f.block ≠ 20 → f.block < 22 → w.rd f = v.rd f := by intro f a b c; rw [← hw]; exact meterEvent_rd _ _ _ _ _ a b c
  have wa : w.sf1At p = v.sf1At p := by unfold State.sf1At; rw [← hw, meterEvent_mtr]
  clear hw
  have K := k w w.elapsed
  refine ⟨?_, ?_, ?_⟩
  · exact (rd_regs K.1 _).trans ((wr _ fw.2.2.2.1 fw.2.2.2.2.2.1 fw.2.2.2.2.2.2.2.1).trans v1)
  · exact (rd_regs K.1 _).trans ((wr _ fw.2.2.2.2.1 fw.2.2.2.2.2.2.1 fw.2.2.2.2.2.2.2.2).trans v2)
  · exact K.2.trans (wa.trans v3)

theorem qualify_facts (s : State) (p : Nat) (hp : p < 2) : (s.sf1Gated p = false → s.sf1Qualified p = true → s.rd (sf1Field p) = 0 →
      (s.sf1Qualify p).rd (sf1Field p) = 1 ∧ (s.sf1Qualify p).rd (if p = 0 then MTR_STATUS_TRIP_A else MTR_STATUS_TRIP_B) = 1 ∧ (s.sf1Qualify p).sf1At p = some 0) ∧
    (s.sf1Gated p = true ∨ s.sf1Qualified p = false ∨ s.rd (sf1Field p) ≠ 0 → s.sf1Qualify p = s) := by
  have A := assert_facts s p hp
  refine ⟨fun a b e => ?_, fun a => ?_⟩
  · have t : s.sf1Trip p = s.sf1Assert p := by unfold State.sf1Trip; rw [if_pos (by simp [b, State.on, e])]
    unfold State.sf1Qualify
    rw [if_neg (by simp [a]), t]
    simp only
    rw [if_pos (by simp [State.on, A.1, e])]
    generalize s.sf1Assert p = v at A
    have kr : ∀ f : Field, f = MTR_SF1_PATHA ∨ f = MTR_SF1_PATHB ∨ f = MTR_STATUS_TRIP_A ∨ f = MTR_STATUS_TRIP_B → (v.drEnd none false true).rd f = v.rd f := by
      intro f hf
      rcases hf with hf | hf | hf | hf <;> subst hf <;> exact (only_rd (drEnd_only (μ := 17592664196612) rfl (Only.refl _)) (by decide +kernel))
    have km : (v.drEnd none false true).mtr = v.mtr := (only_part (drEnd_only (μ := 17592664196612) rfl (Only.refl _)) .mtr rfl)
    refine ⟨(kr _ ?_).trans A.1, (kr _ ?_).trans A.2.1, ?_⟩
    · rcases (show p = 0 ∨ p = 1 by omega) with e | e <;> subst e <;> simp [sf1Field]
    · rcases (show p = 0 ∨ p = 1 by omega) with e | e <;> subst e <;> simp
    · rw [← A.2.2]; unfold State.sf1At; rw [km]
  · unfold State.sf1Qualify
    rcases a with a | a
    · rw [if_pos a]
    · split
      · rfl
      · have t : s.sf1Trip p = s := by
          unfold State.sf1Trip
          rw [if_neg]
          rcases a with a | a
          · simp [a]
          · simp [State.on, a]
        rw [t]
        simp only
        rw [if_neg (by simp)]

/-- What a path sees of its current leaves the registers, the gates and the other path as they are, before it may qualify. -/
theorem analog_facts (s : State) (c ns : Nat) : (s.sf1Analog c ns).regs = s.regs ∧ (s.sf1Analog c ns).saf = s.saf ∧ (s.sf1Analog c ns).mtr.sf1Timer = (if s.sf1Above c then s.mtr.sf1Timer + ns else 0) ∧
    (s.sf1Analog c ns).mtr.sf1A = s.mtr.sf1A.map (· + ns) := ⟨rfl, rfl, rfl, rfl⟩

theorem digital_facts (s : State) (x : Int) : (s.sf1Digital x).regs = s.regs ∧ (s.sf1Digital x).saf = s.saf ∧ (s.sf1Digital x).mtr.sf1Hist = (x :: s.mtr.sf1Hist).take 320 ∧
    (s.sf1Digital x).mtr.sf1Count = (if s.sf1Square ((x :: s.mtr.sf1Hist).take 320) then s.mtr.sf1Count + 1 else 0) ∧ (s.sf1Digital x).mtr.sf1B = s.mtr.sf1B.map (· + sampleNs) := ⟨rfl, rfl, rfl, rfl, rfl⟩

/-! ### Metering -/

def QF : List Field := [MTR_CTRL_RUNST, MTR_CTRL_EN, MTR_TO_CNT_COUNT, MTR_STATUS_ZCTO, MTR_PHST_FREE]

def sameAt (g : MeterPhase → MeterPhase) : Prop := ∀ x, (g x).ts = x.ts ∧ (g x).endN = x.endN

theorem nth_upd (g : MeterPhase → MeterPhase) (hg : sameAt g) (d : MeterPhase) (l : List MeterPhase) (i p : Nat) : (nth d (updNth g l i) p).ts = (nth d l p).ts ∧ (nth d (updNth g l i) p).endN = (nth d l p).endN := by
  induction l generalizing i p with
  | nil => cases i <;> exact ⟨rfl, rfl⟩
  | cons a l ih =>
    cases i with
    | zero => cases p with
      | zero => exact hg a
      | succ p => exact ⟨rfl, rfl⟩
    | succ i => cases p with
      | zero => exact ⟨rfl, rfl⟩
      | succ p => exact ih i p

theorem nth_map (g : MeterPhase → MeterPhase) (hg : sameAt g) (d : MeterPhase) (l : List MeterPhase) (p : Nat) : (nth d (l.map g) p).ts = (nth d l p).ts ∧ (nth d (l.map g) p).endN = (nth d l p).endN := by
  induction l generalizing p with
  | nil => exact ⟨rfl, rfl⟩
  | cons a l ih => cases p with
    | zero => exact hg a
    | succ p => exact ih p

theorem upd_length {α : Type} (g : α → α) (l : List α) (i : Nat) : (updNth g l i).length = l.length := by
  induction l generalizing i with
  | nil => cases i <;> rfl
  | cons a l ih => cases i with
    | zero => rfl
    | succ i => simp [updNth, ih]

theorem nth_upd_same {α : Type} (g : α → α) (d : α) (l : List α) (i : Nat) (h : i < l.length) : nth d (updNth g l i) i = g (nth d l i) := by
  induction l generalizing i with
  | nil => exact absurd h (by simp)
  | cons a l ih => cases i with
    | zero => rfl
    | succ i => exact ih i (by simpa using h)
structure MK (s t : State) : Prop where
  rd : ∀ f ∈ QF, t.rd f = s.rd f
  lastN : t.mtr.lastN = s.mtr.lastN
  hist : t.mtr.hist = s.mtr.hist
  len : t.mtr.phases.length = s.mtr.phases.length
  ph : ∀ p, (t.phase p).ts = (s.phase p).ts ∧ (t.phase p).endN = (s.phase p).endN

theorem MK.refl (s : State) : MK s s := ⟨fun _ _ => rfl, rfl, rfl, rfl, fun _ => ⟨rfl, rfl⟩⟩

theorem MK.trans {a b c : State} (h : MK a b) (k : MK b c) : MK a c :=
  ⟨fun f hf => (k.rd f hf).trans (h.rd f hf), k.lastN.trans h.lastN, k.hist.trans h.hist, k.len.trans h.len, fun p => ⟨(k.ph p).1.trans (h.ph p).1, (k.ph p).2.trans (h.ph p).2⟩⟩

theorem MK.wr {s t : State} {g : Field} {v : Nat} (h : MK s t) (hk : ∀ f ∈ QF, f.key ≠ g.key) : MK s (t.wr g v) :=
  h.trans ⟨fun f hf => rd_wr_ne _ _ (hk f hf), rfl, rfl, rfl, fun _ => ⟨rfl, rfl⟩⟩

theorem MK.mk' {s t u : State} (h : MK s t) (h1 : u.regs = t.regs) (h2 : u.mtr.lastN = t.mtr.lastN) (h3 : u.mtr.hist = t.mtr.hist) (h4 : u.mtr.phases = t.mtr.phases) : MK s u :=
  h.trans ⟨fun f _ => rd_regs h1 f, h2, h3, by rw [h4], fun p => by unfold State.phase; rw [h4]; exact ⟨rfl, rfl⟩⟩

theorem MK.phase {s t : State} {g : MeterPhase → MeterPhase} {p : Nat} (h : MK s t) (hg : sameAt g) : MK s (t.onPhase p g) :=
  h.trans ⟨fun _ _ => rfl, rfl, rfl, upd_length _ _ _, fun q => nth_upd g hg _ _ _ _⟩

theorem MK.raiseIf {s t : State} {c : Bool} {g : Field} (h : MK s t) (hk : ∀ f ∈ QF, f.key ≠ g.key) : MK s (t.raiseIf c g) := by
  unfold State.raiseIf; split
  · exact h.wr hk
  · exact h

theorem MK.count {s t : State} {g w : Field} (h : MK s t) (h1 : ∀ f ∈ QF, f.key ≠ g.key) (h2 : ∀ f ∈ QF, f.key ≠ w.key) : MK s (t.count g w) := by
  unfold State.count State.addCount
  exact (h.wr h1).raiseIf h2

theorem qf_ne {g : Field} (h : g.lo < 1024 ∧ g.reg ≠ 0x400C0000 ∧ g.reg ≠ 0x400C0040 ∧ g.reg ≠ 0x400C0004 ∧ g.reg ≠ 0x400C0094) : ∀ f ∈ QF, f.key ≠ g.key := by
  obtain ⟨a, b, c, d, e⟩ := h
  intro f hf
  simp only [QF, List.mem_cons, List.not_mem_nil, or_false] at hf
  rcases hf with rfl | rfl | rfl | rfl | rfl <;> (unfold Field.key; simp only [MTR_CTRL_RUNST, MTR_CTRL_EN, MTR_TO_CNT_COUNT, MTR_STATUS_ZCTO, MTR_PHST_FREE]; omega)

theorem MK.event {s t : State} (n k : Nat) (p : Octets) (x : Nat) (h : MK s t) : MK s (t.meterEvent n k p x) := by
  refine h.trans ⟨fun f hf => ?_, by rw [meterEvent_mtr], by rw [meterEvent_mtr], by rw [meterEvent_mtr], fun q => by unfold State.phase; rw [meterEvent_mtr]; exact ⟨rfl, rfl⟩⟩
  have : f.key ≠ MTR_STATUS_EVDROP.key ∧ f.block ≠ 20 ∧ f.block < 22 := by
    simp only [QF, List.mem_cons, List.not_mem_nil, or_false] at hf
    rcases hf with rfl | rfl | rfl | rfl | rfl <;> decide
  exact meterEvent_rd _ _ _ _ _ this.1 this.2.1 this.2.2

theorem MK.accumulate {s t : State} (m e : Nat) (h : MK s t) : MK s (t.accumulate m e) := by
  unfold State.accumulate
  simp only
  generalize hu : ({ t with mtr := { t.mtr with residues := kvSet t.mtr.residues m (((kvFind t.mtr.residues m).getD 0 + e) % 4294967296) } } : State) = u
  have k : MK s u := by rw [← hu]; exact h.mk' rfl rfl rfl rfl
  have a : ∀ n, ∀ f ∈ QF, f.key ≠ (MTR_ACC_COUNT n).key := fun n => qf_ne (by simp only [MTR_ACC_COUNT]; omega)
  clear hu
  split
  · exact k.wr (a _)
  · refine MK.wr (MK.wr ?_ (by decide)) (by decide)
    exact (k.wr (a _)).mk' rfl rfl rfl rfl

theorem MK.book {s t : State} (a b c : Nat) (p q : Int) (v : Nat) (h : MK s t) : MK s (t.book a b c p q v) := by
  unfold State.book
  exact ((h.accumulate _ _).accumulate _ _).accumulate _ _

theorem MK.free {s t : State} (h : MK s t) : MK s t.freeTick := h.mk' rfl rfl rfl rfl

theorem MK.setPh {s t : State} {g : Field} {p : Nat} {b : Bool} (h : MK s t) (hk : ∀ f ∈ QF, f.key ≠ g.key) : MK s (t.setPhBit g p b) := h.wr hk

theorem MK.setVpres {s t : State} (p : Nat) (b : Bool) (c x : Nat) (h : MK s t) : MK s (t.setVpres p b c x) := by
  unfold State.setVpres
  split
  · exact h
  · exact MK.wr (MK.event _ _ _ _ (h.setPh (by decide))) (by decide)

theorem MK.gainTo {s t : State} (p : Nat) (g : Bool) (x : Int) (h : MK s t) : MK s (t.gainTo p g x) := by
  unfold State.gainTo
  exact MK.wr (MK.count (MK.phase (h.setPh (by decide)) (fun _ => ⟨rfl, rfl⟩)) (by decide) (by decide)) (by decide)

theorem MK.cycleGain {s t : State} (p a b : Nat) (h : MK s t) : MK s (t.cycleGain p a b) := by
  unfold State.cycleGain
  split
  · exact h
  · simp only
    generalize (if 20 * _ < 8388608 * 16 then (t.phase p).low + 1 else 0) = low
    have a : MK s (t.onPhase p (fun x => { x with low := low })) := MK.phase h (fun _ => ⟨rfl, rfl⟩)
    split
    · exact MK.gainTo _ _ _ a
    · exact a

theorem MK.bookVoltage {s t : State} (w : MeterWindow) (m : MeterSums) (h : MK s t) : MK s (t.bookVoltage w m) := by
  unfold State.bookVoltage
  split
  · exact h
  · simp only
    have k : MK s (if w.valid then t.setPhBit MTR_PHST_FVALID w.phase true else t) := by
      split
      · exact h.setPh (by decide)
      · exact h
    generalize (if w.valid then t.setPhBit MTR_PHST_FVALID w.phase true else t) = u at k
    split
    · exact k.setVpres _ _ _ _
    · exact k.setVpres _ _ _ _

theorem MK.bookPhase {s t : State} (p d : Nat) (m : MeterSums) (q a b : Int) (v i : Nat) (h : MK s t) : MK s (t.bookPhase p d m q a b v i) := by
  unfold State.bookPhase
  simp only
  have k : MK s ((((t.wr (MTR_LIVE_W0_VRMS p) v).wr (MTR_LIVE_W1_IRMS p) i).wrI (MTR_LIVE_W2_P p) a).wrI (MTR_LIVE_W3_Q p) b) :=
    MK.wr (MK.wr (MK.wr (MK.wr h (qf_ne (by simp only [MTR_LIVE_W0_VRMS]; omega))) (qf_ne (by simp only [MTR_LIVE_W1_IRMS]; omega))) (qf_ne (by simp only [MTR_LIVE_W2_P]; omega))) (qf_ne (by simp only [MTR_LIVE_W3_Q]; omega))
  refine MK.phase ?_ (fun _ => ⟨rfl, rfl⟩)
  split
  · exact k
  · exact k.book _ _ _ _ _ _

theorem MK.bookReference {s t : State} (w : MeterWindow) (d : Nat) (l : List MeterSample) (h : MK s t) : MK s (t.bookReference w d l) := by
  have tq : ∀ live, MK s (t.totalQ live).1 := by
    intro live; unfold State.totalQ
    split
    · exact h
    · exact h.free
  have bt : ∀ live n dur, MK s (t.bookTotal live n dur) := by
    intro live n dur; unfold State.bookTotal
    simp only
    split
    · exact tq _
    · exact (tq _).book _ _ _ _ _ _
  have nf : ∀ (u : State) k, MK s u → MK s (u.noteFree k) := by
    intro u k h; unfold State.noteFree; split
    · exact h
    · exact h.mk' rfl rfl rfl rfl
  have nr : ∀ (u : State) a b c d, MK s u → MK s (u.noteReference a b c d) := by
    intro u a b c d k
    have k2 : MK s (if a then u.noteFree u.mtr.open' else u) := by
      split
      · exact nf _ _ k
      · exact k
    unfold State.noteReference
    exact k2.mk' rfl rfl rfl rfl
  unfold State.bookReference
  simp only
  split
  · exact MK.wr (MK.wr (nr _ _ _ _ _ (bt _ _ _)) (by decide)) (by decide)
  · exact MK.wr (nr _ _ _ _ _ (bt _ _ _)) (by decide)

theorem MK.bookWindow {s t : State} (w : MeterWindow) (h : MK s t) : MK s (t.bookWindow w) := by
  have wd : MK s (t.windowDur w).1 := by
    unfold State.windowDur; split
    · exact h
    · exact h.free
  have wq : ∀ (u : State) m, MK s u → MK s (u.windowQ m).1 := by
    intro u m k; unfold State.windowQ; split
    · exact k
    · exact k.free
  have ce : ∀ (u : State) d v i a b, MK s u → MK s (u.cycleEvent w d v i a b) := by
    intro u d v i a b k; unfold State.cycleEvent; split
    · exact k.event _ _ _ _
    · exact k
  unfold State.bookWindow
  simp only
  split
  · exact h
  · split
    · exact MK.bookReference _ _ _ (ce _ _ _ _ _ _ (MK.bookVoltage _ _ (MK.bookPhase _ _ _ _ _ _ _ _ (wq _ _ wd))))
    · exact ce _ _ _ _ _ _ (MK.bookVoltage _ _ (MK.bookPhase _ _ _ _ _ _ _ _ (wq _ _ wd)))

theorem MK.summary {s t : State} (h : MK s t) : MK s t.summaryPayload.1 := by
  have an : ∀ (u : State) a, MK s u → MK s (u.angleOctets a).1 := by
    intro u a k; unfold State.angleOctets; split
    · exact k
    · exact k.free
  have fo : ∀ (g : Nat → Option (Int × Int)) (L : List Nat) (x : State × Octets), MK s x.1 → MK s (L.foldl (fun (r : State × Octets) p => match g p with
      | some (pw, qw) => (r.1, r.2 ++ le 2 (angleOf qw pw))
      | none => (r.1.freeTick, r.2 ++ r.1.freeOctets 2)) x).1 := by
    intro g L
    induction L with
    | nil => intro x k; exact k
    | cons a L ih =>
      intro x k
      simp only [List.foldl]
      refine ih _ ?_
      split
      · exact k
      · exact k.free
  unfold State.summaryPayload
  simp only
  exact fo (fun p => (State.phase ((t.angleOctets t.mtr.ang12).1.angleOctets t.mtr.ang13).1 p).last) _ _ (an _ _ (an _ _ h))

theorem MK.form {s t : State} (n : Nat) (h : MK s t) : MK s (t.formSummary n) := by
  have e : t.formSummary n = (fun (v : State) (o : Octets) => ({ v with mtr := { v.mtr with
    due := v.mtr.due ++ [(v.mtr.open', o)], open' := n, nCyc := 0, wraps := 0, iresMax := 0, inSum := 0, tFree := v.mtr.tFree.filter (fun k => decide (v.mtr.open' < k)), pos := false, neg := false,
    startDue := false, phases := v.mtr.phases.map (fun x : MeterPhase => { x with pos := false, neg := false, vSum := 0, iSum := 0, count := 0 }) } } : State))
      (t.summaryPayload.1.raiseIf (t.summaryPayload.1.mixedBits != 0) MTR_STATUS_MIXED) t.summaryPayload.2 := rfl
  rw [e]
  have k : MK s (t.summaryPayload.1.raiseIf (t.summaryPayload.1.mixedBits != 0) MTR_STATUS_MIXED) := h.summary.raiseIf (by decide)
  generalize t.summaryPayload.1.raiseIf (t.summaryPayload.1.mixedBits != 0) MTR_STATUS_MIXED = v at k
  generalize t.summaryPayload.2 = o
  exact k.trans ⟨fun _ _ => rfl, rfl, rfl, by simp, fun p => nth_map (fun x : MeterPhase => { x with pos := false, neg := false, vSum := 0, iSum := 0, count := 0 }) (fun _ => ⟨rfl, rfl⟩) MeterPhase.init v.mtr.phases p⟩

theorem MK.settleWindows (n : Nat) : ∀ {s t : State}, MK s t → MK s (State.settleWindows n t) := by
  induction n with
  | zero => intro s t h; exact h
  | succ n ih =>
    intro s t h
    unfold State.settleWindows
    simp only
    split
    · split
      · refine ih (MK.bookWindow _ ?_)
        exact h.mk' rfl rfl rfl rfl
      · exact h
    · split
      · split
        · exact ih (h.form _)
        · exact h
      · exact h

theorem MK.settleAll {s t : State} (h : MK s t) : MK s t.settleAll := MK.settleWindows _ h

/-! ### Metered samples -/

def skey (x : MeterSample) : Nat × List Int × Int × Int := (x.n, x.v, x.neutral, x.residual)
structure SH (s t : State) : Prop where
  lastN : t.mtr.lastN = s.mtr.lastN
  hist : t.mtr.hist.map skey = s.mtr.hist.map skey

theorem SH.refl (s : State) : SH s s := ⟨rfl, rfl⟩

theorem SH.trans {a b c : State} (h : SH a b) (k : SH b c) : SH a c := ⟨k.lastN.trans h.lastN, k.hist.trans h.hist⟩

theorem SH.same {a b c : State} (h : SH a b) (h1 : c.mtr.lastN = b.mtr.lastN) (h2 : c.mtr.hist = b.mtr.hist) : SH a c := ⟨h1.trans h.lastN, by rw [h2]; exact h.hist⟩

theorem SH.step {s t : State} (p n : Nat) (x : MeterPhase) (h : SH s t) : SH s (t.settleStep p n x) := by
  unfold State.settleStep
  simp only
  generalize hu : (if x.settle = 1 then
      { t with mtr := { t.mtr with hist := interpolate t.mtr.hist p n x.base (match t.mtr.hist with | y :: _ => nth 0 y.i p | [] => 0) } } else t : State) = u
  have a : SH s u := by
    rw [← hu]
    split
    · refine ⟨h.lastN, ?_⟩
      rw [← h.hist]
      show (interpolate t.mtr.hist p n _ _).map skey = _
      unfold interpolate
      rw [List.map_map]
      congr 1
      funext x
      simp only [Function.comp]
      split <;> rfl
    · exact h
  split
  · exact a
  · exact a.same rfl rfl

theorem noteAngle_keep (s : State) (p tc : Nat) : (s.noteAngle p tc).mtr.lastN = s.mtr.lastN ∧ (s.noteAngle p tc).mtr.hist = s.mtr.hist ∧ (s.noteAngle p tc).regs = s.regs ∧
    (s.noteAngle p tc).mtr.phases = s.mtr.phases := by
  unfold State.noteAngle
  simp only
  (repeat' split) <;> exact ⟨rfl, rfl, rfl, rfl⟩

theorem SH.mk' {s t u : State} (h : SH s t) (k : MK t u) : SH s u := h.same k.lastN k.hist

theorem SH.endWindow {s t : State} (p te : Nat) (a b : Bool) (h : SH s t) : SH s (t.endWindow p te a b) := by
  unfold State.endWindow
  simp only
  generalize hw : ({ t with mtr := { t.mtr with windows := _ } } : State) = u
  have k : SH s u := by rw [← hw]; exact h.same rfl rfl
  exact (k.mk' (MK.cycleGain _ _ _ (MK.refl _))).same rfl rfl

theorem SH.cross {s t : State} (p tc : Nat) (h : SH s t) : SH s (t.crossing p tc) := by
  have a : SH s (if p = 0 then t else t.noteAngle p tc) := by
    split
    · exact h
    · exact h.same (noteAngle_keep _ _ _).1 (noteAngle_keep _ _ _).2.1
  unfold State.crossing
  simp only
  exact (a.endWindow p tc true false).same rfl rfl

theorem SH.watch {s t : State} (p n : Nat) (a : Option Int) (b : Int) (h : SH s t) : SH s (t.watchCrossing p n a b).1 := by
  have k : ∀ c : Bool, SH s (t.onPhase p (fun x => { x with armed := c })) := fun _ => h.same rfl rfl
  cases a with
  | none =>
    unfold State.watchCrossing
    simp only
    split
    · exact k true
    · exact h
  | some a =>
    unfold State.watchCrossing
    simp only
    split
    · exact k false
    · split
      · exact k true
      · exact h

theorem SH.watchAll {s t : State} (n : Nat) (q : Option MeterSample) (x : MeterSample) (h : SH s t) : SH s (t.watchAll n q x) := by
  have f1 : ∀ (L : List Nat) (r : State × List (Nat × Nat)), SH s r.1 → SH s (L.foldl (fun (r : State × List (Nat × Nat)) p =>
      ((r.1.watchCrossing p n (q.map (fun y => nth 0 y.v p)) (nth 0 x.v p)).1, match (r.1.watchCrossing p n (q.map (fun y => nth 0 y.v p)) (nth 0 x.v p)).2 with
        | some tc => r.2 ++ [(tc, p)]
        | none => r.2)) r).1 := by
    intro L
    induction L with
    | nil => intro r k; exact k
    | cons a L ih => intro r k; exact ih _ (k.watch _ _ _ _)
  have f2 : ∀ (L : List (Nat × Nat)) (u : State), SH s u → SH s (L.foldl (fun (s : State) c => s.crossing c.2 c.1) u) := by
    intro L
    induction L with
    | nil => intro u k; exact k
    | cons a L ih => intro u k; exact ih _ (k.cross _ _)
  unfold State.watchAll
  exact f2 _ _ (f1 _ _ h)

theorem SH.fold {s : State} (f : State → Nat → State) (hf : ∀ t p, SH s t → SH s (f t p)) : ∀ (L : List Nat) (t : State), SH s t → SH s (L.foldl f t) := by
  intro L
  induction L with
  | nil => intro t h; exact h
  | cons a L ih => intro t h; exact ih _ (hf _ _ h)

theorem calib_n (s : State) (n : Nat) (raw : List Int) : (s.calibrateAll n raw).2.n = n := by unfold State.calibrateAll; simp only

theorem bit_set : ∀ v < 8, ∀ p < 3, bit (setBit v p true % 8) p = true := by decide

theorem endWindow_facts (s : State) (p te : Nat) (a b : Bool) (hp : p < s.mtr.phases.length) : (∀ f ∈ QF, (s.endWindow p te a b).rd f = s.rd f) ∧ ((s.endWindow p te a b).phase p).ts = te ∧
    ((s.endWindow p te a b).phase p).endN = s.mtr.lastN.getD 0 := by
  unfold State.endWindow
  simp only
  generalize hw : ({ s with mtr := { s.mtr with windows := _ } } : State) = u
  have k : MK s u := by rw [← hw]; exact (MK.refl s).mk' rfl rfl rfl rfl
  have g := k.cycleGain p (s.phase p).ts te
  generalize u.cycleGain p (s.phase p).ts te = v at g
  refine ⟨fun f hf => g.rd f hf, ?_, ?_⟩
  · show (nth MeterPhase.init (updNth _ v.mtr.phases p) p).ts = _
    rw [nth_upd_same _ _ _ _ (by rw [g.len]; exact hp)]
  · show (nth MeterPhase.init (updNth _ v.mtr.phases p) p).endN = _
    rw [nth_upd_same _ _ _ _ (by rw [g.len]; exact hp), g.lastN]

theorem register_due (s : State) : s.registerSummaries.mtr.due = [] := by
  have fo : ∀ (L : List (Nat × Octets)) (P : State → Nat → Nat) (u : State), (L.foldl (fun (s : State) d => s.meterEvent 0 0x10 d.2 (P s d.1)) u).mtr = u.mtr := by
    intro L P
    induction L with
    | nil => intro u; rfl
    | cons a L ih => intro u; simp only [List.foldl]; rw [ih, meterEvent_mtr]
  unfold State.registerSummaries
  rw [fo s.mtr.due (fun s k => (k + 1) * s.P - 1)]

/-! ### PST -/

theorem count_pst (s : State) (f w : Field) : (s.count f w).pst = s.pst ∧ (s.count f w).evr = s.evr ∧ (s.count f w).laneA = s.laneA ∧ (s.count f w).laneB = s.laneB := by
  unfold State.count State.addCount State.raiseIf
  simp only
  split <;> exact ⟨rfl, rfl, rfl, rfl⟩

theorem pstCell_pst (s : State) (o v : Nat) : (s.pstCell o v).pst = { s.pst with cells := memWrite s.pst.cells o (le 4 v) } ∧ (s.pstCell o v).evr = s.evr :=
  ⟨(count_pst _ _ _).1, (count_pst _ _ _).2.1⟩

theorem leVal_le (n v : Nat) : leVal (le n v) = v % 256 ^ n := by
  induction n generalizing v with
  | zero => simp [le, leVal, Nat.mod_one]
  | succ n ih =>
    simp only [le, leVal, ih]
    have h : (octet v).toNat = v % 256 := BitVec.toNat_ofNat v 8
    rw [h, Nat.pow_succ, Nat.mul_comm (256 ^ n) 256, Nat.mod_mul]

/-- The cells with the words of the write buffer over them in order: what a reader finds (R283). -/
def State.pstImage (s : State) : List Cell := s.pst.buffer.foldl (fun m w => memWrite m w.offset (le 4 w.value)) s.pst.cells

theorem pstOctets_image (s : State) (o n : Nat) : s.pstOctets o n = memRead s.pstImage o n := rfl

/-- Neither EVR nor PLM has words that it has still to give the write buffer. -/
def PstStill (s : State) : Prop := (∀ p w ws, s.evr.closing ≠ some (p, w :: ws)) ∧ s.rfl.store = []

theorem pstFeed_still {s : State} (h : PstStill s) : s.pstFeedEvr.pstFeedPlm = s := by
  have e : s.pstFeedEvr = s := by
    unfold State.pstFeedEvr
    split
    · rename_i p o v t hc; exact absurd hc (h.1 p (o, v) t)
    · rfl
  rw [e]
  unfold State.pstFeedPlm
  rw [h.2]

/-- The words of the write buffer are all of one writer. -/
def PstOf (w : Writer) (s : State) : Prop := PstStill s ∧ (∀ x ∈ s.pst.buffer, x.writer = w) ∧ ∃ k, k < 8 ∧ nth .rld pstWriters k = w

theorem pstHas_of {w : Writer} {s : State} (h : PstOf w s) (k : Nat) : s.pstHas (nth .rld pstWriters k) = (decide (nth .rld pstWriters k = w) && !s.pst.buffer.isEmpty) := by
  unfold State.pstHas
  obtain ⟨_, h2, _⟩ := h
  cases e : s.pst.buffer with
  | nil => simp
  | cons x t =>
    rw [e] at h2
    by_cases c : nth .rld pstWriters k = w
    · have := h2 x List.mem_cons_self
      simp [c, this]
    · rw [decide_eq_false c]
      simp only [Bool.false_and, List.any_eq_false]
      intro y hy
      rw [h2 y hy]
      simpa using fun z => c z.symm

theorem pstWriters_inj : ∀ i < 8, ∀ j < 8, nth .rld pstWriters i = nth .rld pstWriters j → i = j := by decide

theorem pstNext_of {w : Writer} {s : State} (h : PstOf w s) (hb : s.pst.buffer ≠ []) : ∃ k, s.pstNext = some k ∧ nth .rld pstWriters k = w := by
  obtain ⟨k, hk, hw⟩ := h.2.2
  have he : s.pst.buffer.isEmpty = false := by cases e : s.pst.buffer; exacts [absurd e hb, rfl]
  have hf : ∃ a, s.pstNext = some a := by
    cases z : s.pstNext with
    | some a => exact ⟨a, rfl⟩
    | none =>
      unfold State.pstNext at z
      rw [List.find?_eq_none] at z
      have : k ∈ (List.range 8).map (fun i => (s.pst.turn + i) % 8) := by
        rw [List.mem_map]
        exact ⟨(k + 8 - s.pst.turn % 8) % 8, by rw [List.mem_range]; omega, by omega⟩
      have := z k this
      rw [pstHas_of h, decide_eq_true hw, he] at this
      exact absurd rfl this
  obtain ⟨a, ha⟩ := hf
  refine ⟨a, ha, ?_⟩
  unfold State.pstNext at ha
  have := List.find?_some ha
  simp only [pstHas_of h, Bool.and_eq_true, decide_eq_true_eq] at this
  exact this.1

theorem pstStep_of {w : Writer} {s : State} {x : PstWord} {t : List PstWord} (h : PstOf w s) (hb : s.pst.buffer = x :: t) : ∃ k, s.pstStep = ({ s with pst := { s.pst with buffer := t, turn := k } }).pstCell x.offset x.value := by
  obtain ⟨k, hk, hw⟩ := pstNext_of h (by rw [hb]; exact List.cons_ne_nil _ _)
  have hx := h.2.1 x (by rw [hb]; exact List.mem_cons_self)
  refine ⟨(k + 1) % 8, ?_⟩
  unfold State.pstStep
  simp only [pstFeed_still h.1, hk, hw, hb]
  simp only [List.find?_cons, hx, beq_self_eq_true, takeWord, if_true]

/-- A word of the one writer reaches the cells: the first of the buffer, and a reader finds what it found (R283). -/
theorem pstStep_facts {w : Writer} {s : State} {x : PstWord} {t : List PstWord} (h : PstOf w s) (hb : s.pst.buffer = x :: t) : s.pstStep.pst.buffer = t ∧
    s.pstStep.pst.cells = memWrite s.pst.cells x.offset (le 4 x.value) ∧ s.pstStep.pstImage = s.pstImage ∧ PstOf w s.pstStep ∧ s.pstStep.evr = s.evr := by
  obtain ⟨k, e⟩ := pstStep_of h hb
  have c := pstCell_pst ({ s with pst := { s.pst with buffer := t, turn := k } }) x.offset x.value
  have r : s.pstStep.rfl = s.rfl := by
    rw [e]; unfold State.pstCell State.count State.addCount State.raiseIf; simp only; split <;> rfl
  rw [e] at r ⊢
  refine ⟨by rw [c.1], by rw [c.1], ?_, ⟨⟨?_, ?_⟩, ?_, h.2.2⟩, c.2⟩
  · unfold State.pstImage; rw [c.1, hb]; rfl
  · rw [c.2]; exact h.1.1
  · rw [r]; exact h.1.2
  · rw [c.1]; intro y hy; exact h.2.1 y (by rw [hb]; exact List.mem_cons_of_mem _ hy)

theorem pstNone {w : Writer} {s : State} (h : PstOf w s) (hb : s.pst.buffer = []) : s.pstStep = s := by
  have : s.pstNext = none := by
    unfold State.pstNext
    rw [List.find?_eq_none]
    intro k _
    rw [pstHas_of h, hb]; simp
  unfold State.pstStep
  simp only [pstFeed_still h.1, this]

theorem pstPut_facts {w : Writer} {s : State} (h : PstOf w s) (o v : Nat) : (s.pstPut w o v).pstImage = memWrite s.pstImage o (le 4 (v % 4294967296)) ∧ PstOf w (s.pstPut w o v) ∧ (s.pstPut w o v).evr = s.evr := by
  have k : ∀ u : State, PstOf w u → u.pstImage = s.pstImage → u.evr = s.evr → (u.pstEnter w o v).pstImage = memWrite s.pstImage o (le 4 (v % 4294967296)) ∧ PstOf w (u.pstEnter w o v) ∧ (u.pstEnter w o v).evr = s.evr := by
    intro u hu hi he
    refine ⟨?_, ⟨hu.1, ?_, hu.2.2⟩, he⟩
    · rw [← hi]; unfold State.pstImage State.pstEnter; simp only [List.foldl_append, List.foldl_cons, List.foldl_nil]
    · intro x hx
      have hx : x ∈ u.pst.buffer ++ [⟨w, o, v % 4294967296⟩] := hx
      rw [List.mem_append, List.mem_singleton] at hx
      rcases hx with z | z
      · exact hu.2.1 x z
      · rw [z]
  unfold State.pstPut
  split
  · exact k s h rfl rfl
  · cases e : s.pst.buffer with
    | nil => rename_i c; rw [e] at c; exact absurd (by decide) c
    | cons x t =>
      have f := pstStep_facts h e
      exact k _ f.2.2.2.1 f.2.2.1 f.2.2.2.2

theorem pstUntil_of {w : Writer} : ∀ (n : Nat) {s : State}, PstOf w s → s.pst.buffer.length ≤ n → (pstUntil w n s).pst.buffer = [] ∧ (pstUntil w n s).pst.cells = s.pstImage ∧ (pstUntil w n s).evr = s.evr := by
  intro n
  induction n with
  | zero =>
    intro s h hl
    have e : s.pst.buffer = [] := List.length_eq_zero_iff.mp (by omega)
    exact ⟨e, by unfold State.pstImage; rw [e]; rfl, rfl⟩
  | succ n ih =>
    intro s h hl
    unfold pstUntil
    cases e : s.pst.buffer with
    | nil =>
      have : s.pstHas w = false := by unfold State.pstHas; rw [e]; rfl
      rw [this, if_neg (by decide)]
      exact ⟨e, by unfold State.pstImage; rw [e]; rfl, rfl⟩
    | cons x t =>
      have f := pstStep_facts h e
      have : s.pstHas w = true := by
        unfold State.pstHas; rw [e]; simp [h.2.1 x (by rw [e]; exact List.mem_cons_self)]
      rw [this, if_pos rfl]
      have := ih f.2.2.2.1 (by rw [f.1]; rw [e] at hl; simpa using hl)
      exact ⟨this.1, this.2.1.trans f.2.2.1, this.2.2.trans f.2.2.2.2⟩

/-- A drain of the one writer empties the buffer into the cells (R283). -/
theorem pstDrain_facts {w : Writer} {s : State} (h : PstOf w s) : (s.pstDrain w).pst.buffer = [] ∧ (s.pstDrain w).pst.cells = s.pstImage ∧ (s.pstDrain w).evr = s.evr :=
  pstUntil_of _ h (by omega)

/-- Words written by the one writer stand in the cells, in order over what was there and in the buffer (R283). -/
theorem pstWords_facts {w : Writer} {s : State} (h : PstOf w s) (ws : List (Nat × Nat)) : (s.pstWords w ws).pst.buffer = [] ∧
    (s.pstWords w ws).pst.cells = ws.foldl (fun m x => memWrite m x.1 (le 4 (x.2 % 4294967296))) s.pstImage ∧ (s.pstWords w ws).evr = s.evr := by
  have f : ∀ (ws : List (Nat × Nat)) (u : State), PstOf w u → (ws.foldl (fun s x => State.pstPut s w x.1 x.2) u).pstImage = ws.foldl (fun m x => memWrite m x.1 (le 4 (x.2 % 4294967296))) u.pstImage ∧
      PstOf w (ws.foldl (fun s x => State.pstPut s w x.1 x.2) u) ∧ (ws.foldl (fun s x => State.pstPut s w x.1 x.2) u).evr = u.evr := by
    intro ws
    induction ws with
    | nil => intro u hu; exact ⟨rfl, hu, rfl⟩
    | cons x t ih =>
      intro u hu
      have p := pstPut_facts hu x.1 x.2
      have q := ih _ p.2.1
      exact ⟨q.1.trans (by rw [p.1]; rfl), q.2.1, q.2.2.trans p.2.2⟩
  have g := f ws s h
  have d := pstDrain_facts g.2.1
  unfold State.pstWords
  exact ⟨d.1, d.2.1.trans g.1, d.2.2.trans g.2.2⟩

theorem pstPut_word (s : State) (w : Writer) (o v : Nat) : (s.pstPut w o v).pstWord o = v % 4294967296 := by
  have k : ∀ m : State, (m.pstEnter w o v).pst.buffer = m.pst.buffer ++ [⟨w, o, v % 4294967296⟩] := fun m => rfl
  unfold State.pstPut State.pstWord State.pstOctets
  rw [k]
  simp only [List.foldl_append, List.foldl_cons, List.foldl_nil]
  generalize (List.foldl _ _ _ : List Cell) = m
  have z := memRead_memWrite m o (le 4 (v % 4294967296))
  rw [le_length] at z
  rw [z, leVal_le, show (256 ^ 4 : Nat) = 4294967296 from rfl, Nat.mod_mod]

theorem pstWriters_all (w : Writer) : ∃ k, k < 8 ∧ nth .rld pstWriters k = w := by
  cases w with
  | lane l => cases l
              · exact ⟨0, by decide, rfl⟩
              · exact ⟨1, by decide, rfl⟩
  | commit => exact ⟨2, by decide, rfl⟩
  | dma => exact ⟨3, by decide, rfl⟩
  | evr => exact ⟨4, by decide, rfl⟩
  | plm => exact ⟨5, by decide, rfl⟩
  | ksu => exact ⟨6, by decide, rfl⟩
  | rld => exact ⟨7, by decide, rfl⟩

/-- How many words of a writer are in the buffer. -/
def State.pstCount (s : State) (w : Writer) : Nat := (s.pst.buffer.filter (fun x => decide (x.writer = w))).length

theorem takeWord_count (v w : Writer) (l : List PstWord) (h : l.find? (fun x => x.writer == v) ≠ none) :
    ((takeWord v l).filter (fun x => decide (x.writer = w))).length + (if v = w then 1 else 0) = (l.filter (fun x => decide (x.writer = w))).length := by
  induction l with
  | nil => exact absurd rfl h
  | cons x t ih =>
    unfold takeWord
    by_cases c : x.writer = v
    · rw [if_pos c]
      by_cases d : v = w
      · rw [if_pos d, List.filter_cons_of_pos (by simp [c, d]), List.length_cons]
      · rw [if_neg d, List.filter_cons_of_neg (by simp [c, d])]; rfl
    · rw [if_neg c]
      have h2 : t.find? (fun x => x.writer == v) ≠ none := by
        rw [List.find?_cons_of_neg (by simpa using c)] at h; exact h
      have i := ih h2
      by_cases d : x.writer = w
      · rw [List.filter_cons_of_pos (by simp [d]), List.filter_cons_of_pos (by simp [d])]; simp only [List.length_cons]; omega
      · rw [List.filter_cons_of_neg (by simp [d]), List.filter_cons_of_neg (by simp [d])]; exact i

theorem pstHas_count (s : State) (w : Writer) : s.pstHas w = true ↔ s.pstCount w ≠ 0 := by
  unfold State.pstHas State.pstCount
  rw [List.any_eq_true, Ne, List.length_eq_zero_iff, List.filter_eq_nil_iff]
  constructor
  · rintro ⟨x, h1, h2⟩ h3; exact absurd (h3 x h1) (by simpa using h2)
  · intro h
    refine Classical.byContradiction (fun c => h (fun x hx hd => c ⟨x, hx, by simpa using hd⟩))

theorem pstFeed_count (s : State) (w : Writer) (h : w ≠ .evr ∧ w ≠ .plm) : s.pstFeedEvr.pstFeedPlm.pstCount w = s.pstCount w ∧ s.pstFeedEvr.pstFeedPlm.pst.turn = s.pst.turn := by
  have e : ∀ (u : State) v o x, v ≠ w → (u.pstEnter v o x).pstCount w = u.pstCount w := by
    intro u v o x hv
    unfold State.pstCount State.pstEnter
    simp only [List.filter_append, List.filter_cons_of_neg (a := (⟨v, o, x % 4294967296⟩ : PstWord)) (p := fun x => decide (x.writer = w)) (l := []) (by simpa using hv), List.filter_nil, List.append_nil]
  have e1 : s.pstFeedEvr.pstCount w = s.pstCount w ∧ s.pstFeedEvr.pst.turn = s.pst.turn := by
    unfold State.pstFeedEvr
    split
    · split
      · exact ⟨e s .evr _ _ (Ne.symm h.1), rfl⟩
      · exact ⟨rfl, rfl⟩
    · exact ⟨rfl, rfl⟩
  rw [← e1.1, ← e1.2]
  generalize s.pstFeedEvr = u
  unfold State.pstFeedPlm
  split
  · split
    · exact ⟨e u .plm _ _ (Ne.symm h.2), rfl⟩
    · exact ⟨rfl, rfl⟩
  · exact ⟨rfl, rfl⟩

/-- How far the arbiter's turn stands before the place of a writer. -/
def turnsTo (turn k : Nat) : Nat := (k + 8 - turn % 8) % 8

/-- One word of the arbiter: the writer's own, or one of a writer whose turn comes before (R283). -/
theorem pstStep_turn (s : State) (w : Writer) (k : Nat) (h : w ≠ .evr ∧ w ≠ .plm) (hk : k < 8) (hw : nth .rld pstWriters k = w) (hc : s.pstCount w ≠ 0) :
    (s.pstStep.pstCount w + 1 = s.pstCount w) ∨ (s.pstStep.pstCount w = s.pstCount w ∧ turnsTo s.pstStep.pst.turn k < turnsTo s.pst.turn k) := by
  have fd := pstFeed_count s w h
  unfold State.pstStep
  simp only
  generalize s.pstFeedEvr.pstFeedPlm = u at fd
  rw [← fd.1] at hc ⊢
  rw [← fd.2]
  have hs := (pstHas_count u w).mpr hc
  have mem : k ∈ (List.range 8).map (fun i => (u.pst.turn + i) % 8) := by
    rw [List.mem_map]
    exact ⟨(k + 8 - u.pst.turn % 8) % 8, by rw [List.mem_range]; omega, by omega⟩
  cases z : u.pstNext with
  | none =>
    unfold State.pstNext at z
    rw [List.find?_eq_none] at z
    have := z k mem
    rw [hw, hs] at this
    exact absurd rfl this
  | some i =>
    simp only
    have zi : u.pstHas (nth .rld pstWriters i) = true := by unfold State.pstNext at z; exact List.find?_some (p := fun i => u.pstHas (nth .rld pstWriters i)) z
    have hi : ∃ j, j < 8 ∧ i = (u.pst.turn + j) % 8 ∧ ∀ m, m < j → u.pstHas (nth .rld pstWriters ((u.pst.turn + m) % 8)) = false := by
      unfold State.pstNext at z
      rw [List.find?_map] at z
      cases y : (List.range 8).find? ((fun i => u.pstHas (nth .rld pstWriters i)) ∘ fun i => (u.pst.turn + i) % 8) with
      | none => rw [y] at z; cases z
      | some j =>
        rw [y] at z
        have y' := List.find?_range_eq_some.mp y
        refine ⟨j, List.mem_range.mp y'.2.1, (Option.some.inj z).symm, fun m hm => ?_⟩
        simpa using y'.2.2 m hm
    obtain ⟨j, hj, he, hn⟩ := hi
    cases y : u.pst.buffer.find? (fun x => x.writer == nth .rld pstWriters i) with
    | none =>
      unfold State.pstHas at zi
      rw [List.find?_eq_none] at y
      rw [List.any_eq_true] at zi
      obtain ⟨x, h1, h2⟩ := zi
      exact absurd h2 (y x h1)
    | some x =>
      simp only
      have tc := takeWord_count (nth .rld pstWriters i) w u.pst.buffer (by rw [y]; exact Option.some_ne_none _)
      have cp := (pstCell_pst ({ u with pst := { u.pst with buffer := takeWord (nth .rld pstWriters i) u.pst.buffer, turn := (i + 1) % 8 } }) x.offset x.value).1
      have c2 : (State.pstCell { u with pst := { u.pst with buffer := takeWord (nth .rld pstWriters i) u.pst.buffer, turn := (i + 1) % 8 } } x.offset x.value).pstCount w =
          ((takeWord (nth .rld pstWriters i) u.pst.buffer).filter (fun x => decide (x.writer = w))).length := by unfold State.pstCount; rw [cp]
      rw [c2, cp]
      by_cases d : nth .rld pstWriters i = w
      · rw [if_pos d] at tc; exact .inl tc
      · rw [if_neg d] at tc
        refine .inr ⟨tc, ?_⟩
        have hik : i ≠ k := fun e => d (by rw [e]; exact hw)
        have hjd : j < (k + 8 - u.pst.turn % 8) % 8 := by
          refine Nat.lt_of_not_le (fun c => ?_)
          by_cases c2 : (k + 8 - u.pst.turn % 8) % 8 = j
          · exact hik (by omega)
          · have := hn ((k + 8 - u.pst.turn % 8) % 8) (by omega)
            rw [show (u.pst.turn + (k + 8 - u.pst.turn % 8) % 8) % 8 = k by omega, hw, hs] at this
            cases this
        show (k + 8 - (i + 1) % 8 % 8) % 8 < (k + 8 - u.pst.turn % 8) % 8
        omega

/-- Every word of a writer that no queue feeds reaches the cells in a drain (R283): in each round of the arbiter one of them does. -/
theorem pstDrain_none (s : State) (w : Writer) (hw : w ≠ .evr ∧ w ≠ .plm) : (s.pstDrain w).pstHas w = false := by
  obtain ⟨k, hk, hn⟩ := pstWriters_all w
  have f : ∀ (n : Nat) (u : State), u.pstCount w * 8 + turnsTo u.pst.turn k < n + 8 → (pstUntil w n u).pstHas w = false := by
    intro n
    induction n with
    | zero =>
      intro u hu
      have : u.pstCount w = 0 := by omega
      refine Bool.eq_false_iff.mpr (fun c => (pstHas_count u w).mp c this)
    | succ n ih =>
      intro u hu
      unfold pstUntil
      split
      · rename_i c
        have st := pstStep_turn u w k hw hk hn ((pstHas_count u w).mp c)
        refine ih _ ?_
        have : turnsTo u.pstStep.pst.turn k < 8 := Nat.mod_lt _ (by decide)
        rcases st with a | ⟨a, b⟩ <;> omega
      · rename_i c; simpa using c
  have hl : s.pstCount w ≤ s.pst.buffer.length := List.length_filter_le _ _
  have ht : turnsTo s.pst.turn k < 8 := Nat.mod_lt _ (by decide)
  exact f _ s (by omega)

theorem pstLoad_go (s : State) (l : Lane) (a : Word) (z : Nat) (e : PstMeet) (h : s.laneRuns l = true) (hz : z = 1 ∨ z = 2 ∨ z = 4 ∨ z = 8) (h1 : 0x20000000 ≤ a.toNat) (h2 : a.toNat + z ≤ 0x21000000) (h3 : a.toNat % z = 0) :
    s.pstLoad l a.toNat z e = match e with
    | .clean => s.loaded l (leVal (s.pstOctets (a.toNat % 0x20000000) z))
    | .corrected => (s.pstCorrected).loaded l (leVal (s.pstOctets (a.toNat % 0x20000000) z))
    | .uncorrected => (s.pstUncorrected).trapLane l .loadFault
    | .parity => s.poisonedLoad l := by
  unfold State.pstLoad
  rw [if_neg (by simp [h]), if_neg (by rw [not_or, not_not, not_not]; exact ⟨hz, h1, h2⟩), if_neg (by simp [h3])]
  all_goals (cases e <;> rfl)

theorem drain_nd (l : Lane) : isNd l 0x400D0020 = false := by cases l <;> decide +kernel

theorem pstStep_rd (s : State) {f : Field} (h1 : f.key ≠ PST_WORDS_COUNT.key) (h2 : f.key ≠ PST_STATUS_CNTWRAP.key) : s.pstStep.rd f = s.rd f := by
  have e1 : ∀ u : State, u.pstFeedEvr.rd f = u.rd f := by
    intro u; unfold State.pstFeedEvr
    split
    · split <;> rfl
    · rfl
  have e2 : ∀ u : State, u.pstFeedPlm.rd f = u.rd f := by
    intro u; unfold State.pstFeedPlm
    split
    · split <;> rfl
    · rfl
  unfold State.pstStep
  simp only
  rw [← e1 s, ← e2 s.pstFeedEvr]
  split
  · rfl
  · split
    · rfl
    · exact (count_rd_ne _ h1 h2).trans rfl

theorem pstUntil_rd (w : Writer) (n : Nat) (s : State) {f : Field} (h1 : f.key ≠ PST_WORDS_COUNT.key) (h2 : f.key ≠ PST_STATUS_CNTWRAP.key) : (pstUntil w n s).rd f = s.rd f := by
  induction n generalizing s with
  | zero => rfl
  | succ n ih =>
    unfold pstUntil
    split
    · exact (ih _).trans (pstStep_rd s h1 h2)
    · rfl

theorem pstWords_rd (s : State) (w : Writer) (ws : List (Nat × Nat)) {f : Field} (h1 : f.key ≠ PST_WORDS_COUNT.key) (h2 : f.key ≠ PST_STATUS_CNTWRAP.key) : (s.pstWords w ws).rd f = s.rd f := by
  unfold State.pstWords State.pstDrain
  rw [pstUntil_rd w _ _ h1 h2]
  induction ws generalizing s with
  | nil => rfl
  | cons x t ih =>
    refine (ih _).trans ?_
    show (State.pstPut s w x.1 x.2).rd f = _
    unfold State.pstPut
    split
    · rfl
    · exact (pstStep_rd s h1 h2)

end Sys2Proof.Machine
end

