-- ==== Sys2Proof/Laws/FactsRtc.lean ====
section
/-!
SUPPORT. Small laws about the RTC.
-/
namespace Sys2Proof.Machine
set_option Elab.async false
open Host (Cell)

/-! ### The calendar -/

theorem year_next : (List.range 200).all (fun y => daysBeforeYear (y + 1) == daysBeforeYear y + (if leapYear y then 366 else 365)) = true := by decide +kernel

theorem year_step (y : Nat) (h : y < 200) : daysBeforeYear (y + 1) = daysBeforeYear y + (if leapYear y then 366 else 365) := by
  have := List.all_eq_true.mp year_next y (List.mem_range.mpr h)
  exact beq_iff_eq.mp this

theorem month_of (y r : Nat) (h : r < (if leapYear y then 366 else 365)) : ∃ i, (List.range 12).find? (fun i => r < daysBeforeMonth y (i + 2)) = some i ∧ i < 12 ∧ daysBeforeMonth y (i + 1) ≤ r ∧
    r - daysBeforeMonth y (i + 1) < monthLength y (i + 1) := by
  have k : ∀ b : Bool, (List.range (if b then 366 else 365)).all (fun r =>
      match (List.range 12).find? (fun i => r < sumN ((List.range (i + 2 - 1)).map (fun j => if j + 1 = 2 then (if b then 29 else 28) else if j + 1 = 4 ∨ j + 1 = 6 ∨ j + 1 = 9 ∨ j + 1 = 11 then 30 else 31))) with
      | none => false
      | some i => decide (i < 12) && decide (sumN ((List.range (i + 1 - 1)).map (fun j => if j + 1 = 2 then (if b then 29 else 28) else if j + 1 = 4 ∨ j + 1 = 6 ∨ j + 1 = 9 ∨ j + 1 = 11 then 30 else 31)) ≤ r) &&
        decide (r - sumN ((List.range (i + 1 - 1)).map (fun j => if j + 1 = 2 then (if b then 29 else 28) else if j + 1 = 4 ∨ j + 1 = 6 ∨ j + 1 = 9 ∨ j + 1 = 11 then 30 else 31)) <
          (if i + 1 = 2 then (if b then 29 else 28) else if i + 1 = 4 ∨ i + 1 = 6 ∨ i + 1 = 9 ∨ i + 1 = 11 then 30 else 31))) = true := by
    intro b; cases b <;> decide +kernel
  have z := List.all_eq_true.mp (k (leapYear y)) r (List.mem_range.mpr h)
  unfold daysBeforeMonth monthLength
  split at z
  · cases z
  · rename_i i e
    simp only [Bool.and_eq_true, decide_eq_true_eq] at z
    exact ⟨i, e, z.1.1, z.1.2, z.2⟩

theorem month_unique (y : Nat) : ∀ m d, 1 ≤ m → m ≤ 12 → 1 ≤ d → d ≤ monthLength y m →
    daysBeforeMonth y m + (d - 1) < (if leapYear y then 366 else 365) ∧ ∀ m', 1 ≤ m' → m' ≤ 12 → daysBeforeMonth y m' ≤ daysBeforeMonth y m + (d - 1) → daysBeforeMonth y m + (d - 1) - daysBeforeMonth y m' < monthLength y m' → m' = m := by
  have k : ∀ b : Bool, (List.range 12).all (fun i => (List.range 31).all (fun j =>
      let len := fun m : Nat => if m = 2 then (if b then 29 else 28) else if m = 4 ∨ m = 6 ∨ m = 9 ∨ m = 11 then 30 else 31
      let before := fun m : Nat => sumN ((List.range (m - 1)).map (fun j => len (j + 1)))
      !decide (j + 1 ≤ len (i + 1)) || (decide (before (i + 1) + j < (if b then 366 else 365)) && (List.range 12).all (fun i' =>
        !decide (before (i' + 1) ≤ before (i + 1) + j) || !decide (before (i + 1) + j - before (i' + 1) < len (i' + 1)) || i' == i)))) = true := by
    intro b; cases b <;> decide +kernel
  intro m d hm hm' hd hd'
  have dl : monthLength y m ≤ 31 := by unfold monthLength; split <;> [split <;> omega; split <;> omega]
  obtain ⟨i, rfl⟩ : ∃ i, m = i + 1 := ⟨m - 1, by omega⟩
  obtain ⟨j, rfl⟩ : ∃ j, d = j + 1 := ⟨d - 1, by omega⟩
  have z := List.all_eq_true.mp (List.all_eq_true.mp (k (leapYear y)) i (List.mem_range.mpr (by omega))) j (List.mem_range.mpr (by omega))
  unfold daysBeforeMonth
  have e : ∀ m, monthLength y m = (fun m : Nat => if m = 2 then (if leapYear y then 29 else 28) else if m = 4 ∨ m = 6 ∨ m = 9 ∨ m = 11 then 30 else 31) m := fun m => rfl
  simp only [e] at hd' ⊢
  simp only [Bool.or_eq_true, Bool.and_eq_true, Bool.not_eq_true', decide_eq_true_eq, decide_eq_false_iff_not, beq_iff_eq] at z
  rcases z with z | ⟨z1, z2⟩
  · exact absurd hd' z
  · refine ⟨z1, fun m' h1 h2 h3 h4 => ?_⟩
    obtain ⟨i', rfl⟩ : ∃ i', m' = i' + 1 := ⟨m' - 1, by omega⟩
    have w := List.all_eq_true.mp z2 i' (List.mem_range.mpr (by omega))
    simp only [Bool.or_eq_true, Bool.not_eq_true', decide_eq_false_iff_not, beq_iff_eq] at w
    rcases w with (w | w) | w
    · exact absurd h3 w
    · exact absurd h4 w
    · omega

theorem year_mono {a b : Nat} (h : a ≤ b) : daysBeforeYear a ≤ daysBeforeYear b := by
  unfold daysBeforeYear
  split <;> split <;> omega

theorem date_of (n : Nat) (h : n < 73049) : (dateOf n).1 < 200 ∧ 1 ≤ (dateOf n).2.1 ∧ (dateOf n).2.1 ≤ 12 ∧ 1 ≤ (dateOf n).2.2 ∧ (dateOf n).2.2 ≤ monthLength (dateOf n).1 (dateOf n).2.1 ∧
    dayNumber (dateOf n).1 (dateOf n).2.1 (dateOf n).2.2 = n := by
  obtain ⟨y, hy, e⟩ : ∃ y, y < 200 ∧ (List.range 200).find? (fun y => n < daysBeforeYear (y + 1)) = some y := by
    cases e : (List.range 200).find? (fun y => n < daysBeforeYear (y + 1)) with
    | none =>
      rw [List.find?_eq_none] at e
      have := e 199 (List.mem_range.mpr (by decide))
      rw [decide_eq_true_eq, show daysBeforeYear (199 + 1) = 73049 by decide] at this
      omega
    | some y => exact ⟨y, List.mem_range.mp (List.find?_range_eq_some.mp e).2.1, rfl⟩
  have e' := List.find?_range_eq_some.mp e
  have lo : daysBeforeYear y ≤ n := by
    rcases Nat.eq_zero_or_pos y with z | z
    · subst z; exact Nat.zero_le _
    · have := e'.2.2 (y - 1) (by omega)
      rw [Bool.not_eq_true', decide_eq_false_iff_not, show y - 1 + 1 = y by omega] at this
      omega
  have hi : n < daysBeforeYear (y + 1) := by simpa using e'.1
  rw [year_step y hy] at hi
  obtain ⟨i, f, hi', m1, m2⟩ := month_of y (n - daysBeforeYear y) (by omega)
  have D : dateOf n = (y, i + 1, n - daysBeforeYear y - daysBeforeMonth y (i + 1) + 1) := by
    unfold dateOf
    simp only [e, Option.getD_some, f]
  rw [D]
  simp only
  refine ⟨hy, by omega, by omega, by omega, by omega, ?_⟩
  unfold dayNumber; omega

theorem day_lt (y m d : Nat) (hy : y < 200) (hm : 1 ≤ m) (hm' : m ≤ 12) (hd : 1 ≤ d) (hd' : d ≤ monthLength y m) : dayNumber y m d < 73049 := by
  have a := (month_unique y m d hm hm' hd hd').1
  have b := year_step y hy
  have c : daysBeforeYear (y + 1) ≤ daysBeforeYear 200 := year_mono (by omega)
  rw [show daysBeforeYear 200 = 73049 by decide] at c
  unfold dayNumber
  omega

theorem date_inv (y m d : Nat) (hy : y < 200) (hm : 1 ≤ m) (hm' : m ≤ 12) (hd : 1 ≤ d) (hd' : d ≤ monthLength y m) : dateOf (dayNumber y m d) = (y, m, d) := by
  have k := month_unique y m d hm hm' hd hd'
  have ye := year_step y hy
  have e : (List.range 200).find? (fun j => dayNumber y m d < daysBeforeYear (j + 1)) = some y := by
    rw [List.find?_range_eq_some]
    refine ⟨?_, List.mem_range.mpr hy, fun j hj => ?_⟩
    · rw [decide_eq_true_eq]; unfold dayNumber; omega
    · rw [Bool.not_eq_true', decide_eq_false_iff_not]
      have := year_mono (a := j + 1) (b := y) (by omega)
      unfold dayNumber; omega
  have r : dayNumber y m d - daysBeforeYear y = daysBeforeMonth y m + (d - 1) := by unfold dayNumber; omega
  obtain ⟨i, f, hi', m1, m2⟩ := month_of y (daysBeforeMonth y m + (d - 1)) k.1
  have u := k.2 (i + 1) (by omega) (by omega) m1 m2
  unfold dateOf
  simp only [e, Option.getD_some, r, f]
  rw [u]
  simp only [Prod.mk.injEq, true_and]
  omega

theorem set_fields (s : State) (n : Nat) (h : n < 73049 * 86400) : (s.setCalendar n).rd RTC_DATE_YEAR = (dateOf (n / 86400)).1 ∧ (s.setCalendar n).rd RTC_DATE_MONTH = (dateOf (n / 86400)).2.1 ∧
    (s.setCalendar n).rd RTC_DATE_DAY = (dateOf (n / 86400)).2.2 ∧ (s.setCalendar n).rd RTC_DATE_WDAY = (n / 86400 + 5) % 7 ∧ (s.setCalendar n).rd RTC_TIME_HOUR = n % 86400 / 3600 ∧
    (s.setCalendar n).rd RTC_TIME_MIN = n % 3600 / 60 ∧ (s.setCalendar n).rd RTC_TIME_SEC = n % 60 := by
  have D := date_of (n / 86400) (by omega)
  have L : ∀ y m, monthLength y m ≤ 31 := by intro y m; unfold monthLength; split <;> [split <;> omega; split <;> omega]
  have L' := L (dateOf (n / 86400)).1 (dateOf (n / 86400)).2.1
  unfold State.setCalendar
  simp only
  refine ⟨?_, ?_, ?_, ?_, ?_, ?_, ?_⟩
  · rw [rd_wr_ne _ _ (by decide), rd_wr_ne _ _ (by decide), rd_wr_ne _ _ (by decide), rd_wr_ne _ _ (by decide), rd_wr_ne _ _ (by decide), rd_wr_ne _ _ (by decide), rd_wr_same]
    show _ % 256 = _; omega
  · rw [rd_wr_ne _ _ (by decide), rd_wr_ne _ _ (by decide), rd_wr_ne _ _ (by decide), rd_wr_ne _ _ (by decide), rd_wr_ne _ _ (by decide), rd_wr_same]
    show _ % 16 = _; omega
  · rw [rd_wr_ne _ _ (by decide), rd_wr_ne _ _ (by decide), rd_wr_ne _ _ (by decide), rd_wr_ne _ _ (by decide), rd_wr_same]
    show _ % 32 = _; omega
  · rw [rd_wr_ne _ _ (by decide), rd_wr_ne _ _ (by decide), rd_wr_ne _ _ (by decide), rd_wr_same]
    show _ % 8 = _; unfold weekDay; omega
  · rw [rd_wr_ne _ _ (by decide), rd_wr_ne _ _ (by decide), rd_wr_same]
    show _ % 32 = _; omega
  · rw [rd_wr_ne _ _ (by decide), rd_wr_same]
    show _ % 64 = _; omega
  · rw [rd_wr_same]
    show _ % 64 = _; omega

theorem set_calendar (s : State) (n : Nat) (h : n < 73049 * 86400) : (s.setCalendar n).calendar = n := by
  have F := set_fields s n h
  have D := date_of (n / 86400) (by omega)
  unfold State.calendar
  rw [F.1, F.2.1, F.2.2.1, F.2.2.2.2.1, F.2.2.2.2.2.1, F.2.2.2.2.2.2, D.2.2.2.2.2]
  omega

/-! ### The tick of the RTC -/

theorem raiseIf_rtc (s : State) (c : Bool) (f : Field) : (s.raiseIf c f).rtc = s.rtc ∧ (s.raiseIf c f).tb = s.tb := by unfold State.raiseIf; split <;> exact ⟨rfl, rfl⟩

theorem cal_regs {s t : State} (h : ∀ f : Field, f = RTC_DATE_YEAR ∨ f = RTC_DATE_MONTH ∨ f = RTC_DATE_DAY ∨ f = RTC_TIME_HOUR ∨ f = RTC_TIME_MIN ∨ f = RTC_TIME_SEC → t.rd f = s.rd f) : t.calendar = s.calendar := by
  unfold State.calendar
  rw [h _ (.inl rfl), h _ (.inr (.inl rfl)), h _ (.inr (.inr (.inl rfl))), h _ (.inr (.inr (.inr (.inl rfl)))), h _ (.inr (.inr (.inr (.inr (.inl rfl))))), h _ (.inr (.inr (.inr (.inr (.inr rfl)))))]

theorem move_calendar (s : State) (d : Int) : (s.moveCalendar d).calendar = (((s.calendar : Int) + d) % 6311433600).toNat := by
  unfold State.moveCalendar
  simp only
  have e : (((calendarDays * 86400 : Nat)) : Int) = 6311433600 := by decide
  rw [e]
  have b : (((s.calendar : Int) + d) % 6311433600).toNat < 73049 * 86400 := by omega
  rw [cal_regs (s := s.setCalendar (((s.calendar : Int) + d) % 6311433600).toNat) (fun f hf => raiseIf_rd_ne _ (by rcases hf with hf | hf | hf | hf | hf | hf <;> subst hf <;> decide))]
  exact set_calendar s _ b

theorem set_rd (s : State) (n : Nat) (f : Field) (h : f.key / 1024 ≠ 0x400F0010 ∧ f.key / 1024 ≠ 0x400F0014) : (s.setCalendar n).rd f = s.rd f := by
  have k : ∀ g : Field, g.key / 1024 = 0x400F0010 ∨ g.key / 1024 = 0x400F0014 → f.key ≠ g.key := by
    intro g hg e; rw [e] at h; omega
  unfold State.setCalendar
  simp only
  rw [rd_wr_ne _ _ (k _ (by decide)), rd_wr_ne _ _ (k _ (by decide)), rd_wr_ne _ _ (k _ (by decide)), rd_wr_ne _ _ (k _ (by decide)), rd_wr_ne _ _ (k _ (by decide)), rd_wr_ne _ _ (k _ (by decide)), rd_wr_ne _ _ (k _ (by decide))]

theorem set_parts (s : State) (n : Nat) : (s.setCalendar n).rtc = s.rtc ∧ (s.setCalendar n).tb = s.tb := by
  unfold State.setCalendar
  simp only [wr_rtc, wr_tb]
  exact ⟨trivial, trivial⟩

theorem move_rd (s : State) (d : Int) (f : Field) (h : f.key / 1024 ≠ 0x400F0010 ∧ f.key / 1024 ≠ 0x400F0014 ∧ f.key ≠ RTC_STATUS_YWRAP.key) : (s.moveCalendar d).rd f = s.rd f := by
  unfold State.moveCalendar
  simp only
  rw [raiseIf_rd_ne _ h.2.2, set_rd _ _ _ ⟨h.1, h.2.1⟩]

theorem move_parts (s : State) (d : Int) : (s.moveCalendar d).rtc = s.rtc ∧ (s.moveCalendar d).tb = s.tb := by
  unfold State.moveCalendar
  simp only
  rw [(raiseIf_rtc _ _ _).1, (raiseIf_rtc _ _ _).2]
  exact set_parts _ _

theorem alarm_rd (s : State) (n : Nat) (f : Field) (h : f.key ≠ RTC_STATUS_ALM0.key ∧ f.key ≠ RTC_STATUS_ALM1.key ∧ f.key ≠ RTC_PON_PON.key ∧ f.key ≠ RTC_PON_SRC.key) : (s.checkAlarm n).rd f = s.rd f := by
  have r : (s.raise (if n = 0 then RTC_STATUS_ALM0 else RTC_STATUS_ALM1)).rd f = s.rd f := by
    rw [raise_def]
    split
    · exact rd_wr_ne _ _ h.1
    · exact rd_wr_ne _ _ h.2.1
  unfold State.checkAlarm
  split
  · rfl
  · simp only
    generalize s.raise (if n = 0 then RTC_STATUS_ALM0 else RTC_STATUS_ALM1) = u at r
    split
    · unfold State.setPon; rw [rd_wr_ne _ _ h.2.2.2, rd_wr_ne _ _ h.2.2.1]; exact r
    · split
      · unfold State.setPon; rw [rd_wr_ne _ _ h.2.2.2, rd_wr_ne _ _ h.2.2.1]; exact r
      · exact r

theorem alarm_parts (s : State) (n : Nat) : (s.checkAlarm n).rtc = s.rtc ∧ (s.checkAlarm n).tb = s.tb := by
  unfold State.checkAlarm
  split
  · exact ⟨rfl, rfl⟩
  · simp only
    have r : (s.raise (if n = 0 then RTC_STATUS_ALM0 else RTC_STATUS_ALM1)).rtc = s.rtc ∧ (s.raise (if n = 0 then RTC_STATUS_ALM0 else RTC_STATUS_ALM1)).tb = s.tb := ⟨rfl, rfl⟩
    generalize s.raise (if n = 0 then RTC_STATUS_ALM0 else RTC_STATUS_ALM1) = u at r
    split
    · exact r
    · split <;> exact r

theorem alarm_calendar (s : State) (n : Nat) : (s.checkAlarm n).calendar = s.calendar :=
  cal_regs (fun f hf => alarm_rd _ _ _ (by rcases hf with hf | hf | hf | hf | hf | hf <;> subst hf <;> decide))

theorem alarm_keeps (s : State) (m n : Nat) (hn : n < 2) : (s.checkAlarm m).alarmMatches n = s.alarmMatches n := by
  unfold State.alarmMatches State.on
  simp only
  rcases (show n = 0 ∨ n = 1 by omega) with e | e <;> subst e
  all_goals rw [alarm_rd s m _ (by decide), alarm_rd s m _ (by decide), alarm_rd s m _ (by decide), alarm_rd s m _ (by decide), alarm_rd s m _ (by decide), alarm_rd s m _ (by decide),
    alarm_rd s m _ (by decide), alarm_rd s m _ (by decide), alarm_rd s m _ (by decide), alarm_rd s m _ (by decide), alarm_rd s m _ (by decide), alarm_rd s m _ (by decide), alarm_rd s m _ (by decide),
    alarm_rd s m _ (by decide), alarm_rd s m _ (by decide)]

theorem alarm_flag (s : State) (n : Nat) (h : s.alarmMatches n = true) (hn : n < 2) : (s.checkAlarm n).rd (if n = 0 then RTC_STATUS_ALM0 else RTC_STATUS_ALM1) = 1 ∧
    (s.rd (RTC_ALM_W1_ACT n) = 1 → (s.checkAlarm n).rd RTC_PON_PON = 1 ∧ (s.checkAlarm n).rd RTC_PON_SRC = n + 1) ∧ (s.rd (RTC_ALM_W1_ACT n) = 2 → (s.checkAlarm n).rd RTC_PON_PON = 0 ∧ (s.checkAlarm n).rd RTC_PON_SRC = n + 1) := by
  have a : (s.raise (if n = 0 then RTC_STATUS_ALM0 else RTC_STATUS_ALM1)).rd (RTC_ALM_W1_ACT n) = s.rd (RTC_ALM_W1_ACT n) := by
    rcases (show n = 0 ∨ n = 1 by omega) with e | e <;> subst e <;> (rw [raise_def]; exact rd_wr_ne _ _ (by decide))
  have b : (s.raise (if n = 0 then RTC_STATUS_ALM0 else RTC_STATUS_ALM1)).rd (if n = 0 then RTC_STATUS_ALM0 else RTC_STATUS_ALM1) = 1 := by
    rcases (show n = 0 ∨ n = 1 by omega) with e | e <;> subst e <;> (rw [raise_def, rd_wr_same]; rfl)
  unfold State.checkAlarm
  rw [if_neg (by simp [h])]
  simp only
  rw [a]
  generalize s.raise (if n = 0 then RTC_STATUS_ALM0 else RTC_STATUS_ALM1) = u at b
  have fk : (if n = 0 then RTC_STATUS_ALM0 else RTC_STATUS_ALM1).key ≠ RTC_PON_SRC.key ∧ (if n = 0 then RTC_STATUS_ALM0 else RTC_STATUS_ALM1).key ≠ RTC_PON_PON.key := by split <;> decide
  have p : ∀ v, (u.setPon v (n + 1)).rd (if n = 0 then RTC_STATUS_ALM0 else RTC_STATUS_ALM1) = 1 := by
    intro v; unfold State.setPon; rw [rd_wr_ne _ _ fk.1, rd_wr_ne _ _ fk.2]; exact b
  have q : ∀ v, (u.setPon v (n + 1)).rd RTC_PON_PON = v % 2 ∧ (u.setPon v (n + 1)).rd RTC_PON_SRC = n + 1 := by
    intro v; unfold State.setPon
    refine ⟨by rw [rd_wr_ne _ _ (by decide), rd_wr_same]; rfl, ?_⟩
    rw [rd_wr_same]; show (n + 1) % 4 = _; omega
  refine ⟨?_, fun e => ?_, fun e => ?_⟩
  · split
    · exact p 1
    · split
      · exact p 0
      · exact b
  · rw [if_pos e]; exact q 1
  · rw [if_neg (by omega), if_pos e]; exact q 0

theorem hour_facts (s : State) : (s.rtc.armed = none → s.applyHour = s) ∧ (∀ a, s.rtc.armed = some a → s.applyHour.calendar = (((s.calendar : Int) + (if a then 3600 else -3600)) % 6311433600).toNat ∧ s.applyHour.rtc.armed = none ∧
    s.applyHour.rdI RTC_ZONE_ZONE = s.zone + (if a then 4 else -4)) := by
  refine ⟨fun h => by unfold State.applyHour; rw [h], fun a h => ?_⟩
  have go : s.applyHour = (({ s with rtc := { s.rtc with armed := none } } : State).moveCalendar (if a then 3600 else -3600)).wrI RTC_ZONE_ZONE (if a then s.zone + 4 else s.zone - 4) := by
    unfold State.applyHour; rw [h]; rfl
  have zb : -48 ≤ s.zone ∧ s.zone ≤ 56 := by
    unfold State.zone clampI; split <;> [omega; (split <;> omega)]
  rw [go]
  refine ⟨?_, ?_, ?_⟩
  · refine (cal_regs (fun f hf => rd_wr_ne _ _ (by rcases hf with hf | hf | hf | hf | hf | hf <;> subst hf <;> decide))).trans ?_
    exact move_calendar _ _
  · show (({ s with rtc := { s.rtc with armed := none } } : State).moveCalendar _).rtc.armed = none
    rw [(move_parts _ _).1]
  · unfold State.rdI State.wrI
    rw [rd_wr_same]
    show signed 8 (unsigned 8 _ % 256) = _
    unfold signed unsigned
    generalize s.zone = z at zb
    cases a <;> simp only [Bool.false_eq_true, if_false, if_true] <;> split <;> omega

/-- The state in which the second tick's work begins: the prescaler at zero. -/
def State.tickStart (s : State) : State :=
  { s.trimBy (32768 - s.rtc.prescaler) with rtc := { (s.trimBy (32768 - s.rtc.prescaler)).rtc with prescaler := 0 } }

theorem rtcCycle_idle (s : State) (h : s.rtcNow = none) : s.rtcCycle = ⟨s.elapsed, false, false, false, none, s.rtc.armed, []⟩ := by
  unfold State.rtcCycle; rw [h]; rfl

theorem second_go (s : State) : s.rtcSecond = (((s.tickStart.moveCalendar 1).applyHour).checkAlarm 0).checkAlarm 1 := rfl

theorem second_facts (s : State) :
    (s.rtc.armed = none → s.rtcSecond.calendar = (s.calendar + 1) % 6311433600 ∧ s.rtcSecond.rdI RTC_ZONE_ZONE = s.rdI RTC_ZONE_ZONE) ∧
    (∀ a, s.rtc.armed = some a → s.rtcSecond.calendar = ((((s.calendar + 1) % 6311433600 : Nat) + (if a then 3600 else -3600 : Int)) % 6311433600).toNat ∧ s.rtcSecond.rdI RTC_ZONE_ZONE = s.zone + (if a then 4 else -4)) ∧
    s.rtcSecond.rtc = { s.tickStart.rtc with armed := none } ∧ s.rtcSecond.tb = s.tb := by
  rw [second_go s]
  have m0 := move_calendar s.tickStart 1
  have mp := move_parts s.tickStart 1
  have mz := move_rd s.tickStart 1 RTC_ZONE_ZONE (by decide)
  have c0 : s.tickStart.calendar = s.calendar := cal_regs (fun _ _ => rfl)
  rw [c0] at m0
  have m0' : (s.tickStart.moveCalendar 1).calendar = (s.calendar + 1) % 6311433600 := by rw [m0]; omega
  have ma : (s.tickStart.moveCalendar 1).rtc.armed = s.rtc.armed := by rw [mp.1]; rfl
  have mr := mp.1
  have mt : (s.tickStart.moveCalendar 1).tb = s.tb := by rw [mp.2]; rfl
  have mz' : (s.tickStart.moveCalendar 1).rdI RTC_ZONE_ZONE = s.rdI RTC_ZONE_ZONE := by unfold State.rdI; rw [mz]; rfl
  clear m0 mp mz
  generalize s.tickStart.moveCalendar 1 = u at *
  have zz : u.zone = s.zone := by unfold State.zone; rw [mz']
  have H := hour_facts u
  have fin : ∀ v : State, ((v.checkAlarm 0).checkAlarm 1).calendar = v.calendar ∧ ((v.checkAlarm 0).checkAlarm 1).rdI RTC_ZONE_ZONE = v.rdI RTC_ZONE_ZONE ∧ ((v.checkAlarm 0).checkAlarm 1).rtc = v.rtc ∧ ((v.checkAlarm 0).checkAlarm 1).tb = v.tb := by
    intro v
    refine ⟨by rw [alarm_calendar, alarm_calendar], by unfold State.rdI; rw [alarm_rd _ _ _ (by decide), alarm_rd _ _ _ (by decide)], by rw [(alarm_parts _ _).1, (alarm_parts _ _).1], by rw [(alarm_parts _ _).2, (alarm_parts _ _).2]⟩
  have F := fin u.applyHour
  have hp : u.applyHour.rtc = { u.rtc with armed := none } ∧ u.applyHour.tb = u.tb := by
    cases e : u.rtc.armed with
    | none =>
      rw [H.1 e]
      refine ⟨?_, rfl⟩
      generalize u.rtc = r at e
      cases r; cases e; rfl
    | some a =>
      have go : u.applyHour = (({ u with rtc := { u.rtc with armed := none } } : State).moveCalendar (if a then 3600 else -3600)).wrI RTC_ZONE_ZONE (if a then u.zone + 4 else u.zone - 4) := by
        unfold State.applyHour; rw [e]; rfl
      have P := move_parts ({ u with rtc := { u.rtc with armed := none } } : State) (if a then 3600 else -3600)
      rw [go]
      have w : ∀ (v : State) i, (v.wrI RTC_ZONE_ZONE i).rtc = v.rtc ∧ (v.wrI RTC_ZONE_ZONE i).tb = v.tb := fun v i => ⟨rfl, rfl⟩
      rw [(w _ _).1, (w _ _).2, P.1, P.2]
      exact ⟨rfl, rfl⟩
  refine ⟨fun e => ?_, fun a e => ?_, ?_, ?_⟩
  · rw [F.1, F.2.1, H.1 (ma.trans e)]; exact ⟨m0', mz'⟩
  · rw [F.1, F.2.1, (H.2 a (ma.trans e)).1, (H.2 a (ma.trans e)).2.2, m0', zz]; exact ⟨rfl, rfl⟩
  · rw [F.2.2.1, hp.1, mr]
  · rw [F.2.2.2, hp.2]; exact mt

theorem note_facts (s old : State) (mark : Bool) : (∀ f, (s.noteRtc old mark).rd f = s.rd f) ∧ (s.noteRtc old mark).calendar = s.calendar ∧ (s.noteRtc old mark).rtc.prescaler = s.rtc.prescaler ∧
    (s.noteRtc old mark).rtc.armed = s.rtc.armed ∧ (s.noteRtc old mark).rtc.stopped = s.rtc.stopped ∧ (s.noteRtc old mark).rtc.onVbat = s.rtc.onVbat ∧ (s.noteRtc old mark).tb = s.tb :=
  ⟨fun _ => rfl, cal_regs (fun _ _ => rfl), rfl, rfl, rfl, rfl, rfl⟩

theorem setPon_facts (s : State) (v n : Nat) : (s.setPon v n).calendar = s.calendar ∧ (s.setPon v n).rtc = s.rtc ∧ (s.setPon v n).tb = s.tb ∧
    (∀ f, f.key ≠ RTC_PON_PON.key → f.key ≠ RTC_PON_SRC.key → (s.setPon v n).rd f = s.rd f) := by
  have r : ∀ f, f.key ≠ RTC_PON_PON.key → f.key ≠ RTC_PON_SRC.key → (s.setPon v n).rd f = s.rd f := by
    intro f h1 h2; unfold State.setPon; rw [rd_wr_ne _ _ h2, rd_wr_ne _ _ h1]
  exact ⟨cal_regs (fun f hf => r f (by rcases hf with hf | hf | hf | hf | hf | hf <;> subst hf <;> decide) (by rcases hf with hf | hf | hf | hf | hf | hf <;> subst hf <;> decide)), rfl, rfl, r⟩

/-- The tick, where its cycle holds no commit and no mark (R307): the second's work, and after it a PON command of the cycle. -/
theorem tick_go (s : State) (h : s.rtc.stopped = false) (hc : s.rtcCycle.commit = false) (hm : s.rtcCycle.mark = false) :
    s.rtcTick = (match s.rtcCycle.pon with
      | some level => s.rtcSecond.setPon level 3
      | none => s.rtcSecond).noteRtc s false := by
  unfold State.rtcTick
  exact if_neg (by simp [h, hc, hm])

theorem tick_still (s : State) (h : s.rtc.stopped = true ∨ s.rtcCycle.commit = true ∨ s.rtcCycle.mark = true) : s.rtcTick = s := by
  unfold State.rtcTick; simp only; rw [if_pos (by rcases h with h | h | h <;> simp [h])]

/-- What the tick shares with the second's work: all but PON and the cycle's record. -/
theorem tick_second (s : State) (h : s.rtc.stopped = false) (hc : s.rtcCycle.commit = false) (hm : s.rtcCycle.mark = false) :
    s.rtcTick.calendar = s.rtcSecond.calendar ∧ s.rtcTick.rtc.armed = none ∧ s.rtcTick.rtc.prescaler = 0 ∧ s.rtcTick.rtc.stopped = false ∧ s.rtcTick.rtc.onVbat = s.rtc.onVbat ∧ s.rtcTick.tb = s.tb ∧
    (∀ f, f.key ≠ RTC_PON_PON.key → f.key ≠ RTC_PON_SRC.key → s.rtcTick.rd f = s.rtcSecond.rd f) ∧ (s.rtcCycle.pon = none → ∀ f, s.rtcTick.rd f = s.rtcSecond.rd f) := by
  have S := second_facts s
  rw [tick_go s h hc hm]
  cases e : s.rtcCycle.pon with
  | none =>
    have N := note_facts s.rtcSecond s false
    refine ⟨N.2.1, ?_, ?_, ?_, ?_, ?_, fun f _ _ => N.1 f, fun _ => N.1⟩
    · exact N.2.2.2.1.trans (by rw [S.2.2.1])
    · exact N.2.2.1.trans (by rw [S.2.2.1]; rfl)
    · exact N.2.2.2.2.1.trans (by rw [S.2.2.1]; exact h)
    · exact N.2.2.2.2.2.1.trans (by rw [S.2.2.1]; rfl)
    · exact N.2.2.2.2.2.2.trans S.2.2.2
  | some v =>
    have N := note_facts (s.rtcSecond.setPon v 3) s false
    have P := setPon_facts s.rtcSecond v 3
    refine ⟨N.2.1.trans P.1, ?_, ?_, ?_, ?_, ?_, fun f h1 h2 => (N.1 f).trans (P.2.2.2 f h1 h2), fun x => by cases x⟩
    · exact N.2.2.2.1.trans (by rw [P.2.1, S.2.2.1])
    · exact N.2.2.1.trans (by rw [P.2.1, S.2.2.1]; rfl)
    · exact N.2.2.2.2.1.trans (by rw [P.2.1, S.2.2.1]; exact h)
    · exact N.2.2.2.2.2.1.trans (by rw [P.2.1, S.2.2.1]; rfl)
    · exact N.2.2.2.2.2.2.trans (P.2.2.1.trans S.2.2.2)

/-! ### The commands of the RTC -/

theorem rtcCmd_run (s : State) (key : BitVec 16) (run : State → State) (hv : s.rtc.onVbat = false) : (key = 0xCA1D#16 → s.rtcCommand key.toNat run = run s) ∧ (key ≠ 0xCA1D#16 → s.rtcCommand key.toNat run = s.raise RTC_STATUS_CMDREJ) := by
  refine ⟨fun e => ?_, fun e => ?_⟩
  · unfold State.rtcCommand; rw [if_neg (by simp [hv]), e]; rfl
  · unfold State.rtcCommand
    rw [if_neg (by simp [hv]), if_pos]
    rw [bne_iff_ne]
    intro h; exact e (BitVec.eq_of_toNat_eq h)

/-- An hour command outside the cycle of a tick (R306). -/
theorem arm_go (s : State) (add : Bool) (hc : (s.rtcCycle.tick && !s.rtcCycle.mark) = false) :
    (s.rtc.armed = none → -48 ≤ s.zone + (if add then 4 else -4) → s.zone + (if add then 4 else -4) ≤ 56 → s.armHour add = { s with rtc := { s.rtc with armed := some add } }) ∧
    (s.rtc.armed.isSome = true ∨ s.zone + (if add then 4 else -4) < -48 ∨ 56 < s.zone + (if add then 4 else -4) → s.armHour add = s.raise RTC_STATUS_HOURREJ) := by
  have z : (if add then s.zone + 4 else s.zone - 4) = s.zone + (if add then 4 else -4) := by cases add <;> rfl
  refine ⟨fun a b c => ?_, fun a => ?_⟩
  · unfold State.armHour; simp only; rw [z, hc, if_neg (by simp [a]; omega), if_neg (by simp)]
  · unfold State.armHour; simp only; rw [z, hc, if_pos (by simpa [or_assoc] using a)]

/-- An hour command in the cycle of a tick applies at that tick (R306). -/
theorem arm_tick (s : State) (add : Bool) (hc : (s.rtcCycle.tick && !s.rtcCycle.mark) = true) (ha : s.rtcCycle.armed = none) (b : -48 ≤ s.zone + (if add then 4 else -4)) (c : s.zone + (if add then 4 else -4) ≤ 56) :
    s.armHour add = ({ s.undoRtc s.rtcCycle with rtc := { (s.undoRtc s.rtcCycle).rtc with armed := some add } } : State).rtcTick := by
  have z : (if add then s.zone + 4 else s.zone - 4) = s.zone + (if add then 4 else -4) := by cases add <;> rfl
  unfold State.armHour; simp only; rw [z, hc, if_neg (by simp [ha]; omega), if_pos rfl]

theorem pon_facts (s : State) (v : Nat) : (s.setPon v 3).rd RTC_PON_PON = v % 2 ∧ (s.setPon v 3).rd RTC_PON_SRC = 3 := by
  unfold State.setPon
  exact ⟨by rw [rd_wr_ne _ _ (by decide), rd_wr_same]; rfl, by rw [rd_wr_same]; rfl⟩

theorem off_k (u : State) (a b c d e f g h : Nat) : 
    let t := (((((((u.wr RTC_OFF_TIME_HOUR a).wr RTC_OFF_TIME_MIN b).wr RTC_OFF_TIME_SEC c).wr RTC_OFF_TIME_SUBSEC d).wr RTC_OFF_DATE_WDAY e).wr RTC_OFF_DATE_YEAR f).wr RTC_OFF_DATE_MONTH g).wr RTC_OFF_DATE_DAY h
    t.rd RTC_OFF_TIME_HOUR = a % 32 ∧ t.rd RTC_OFF_TIME_MIN = b % 64 ∧ t.rd RTC_OFF_TIME_SEC = c % 64 ∧ t.rd RTC_OFF_TIME_SUBSEC = d % 256 ∧ t.rd RTC_OFF_DATE_WDAY = e % 8 ∧ t.rd RTC_OFF_DATE_YEAR = f % 256 ∧
      t.rd RTC_OFF_DATE_MONTH = g % 16 ∧ t.rd RTC_OFF_DATE_DAY = h % 32 ∧ t.rd RTC_STATUS_BKPSW = u.rd RTC_STATUS_BKPSW ∧ t.rtc = u.rtc := by
  intro t
  refine ⟨?_, ?_, ?_, ?_, ?_, ?_, ?_, ?_, ?_, ?_⟩
  · rw [rd_wr_ne _ _ (by decide), rd_wr_ne _ _ (by decide), rd_wr_ne _ _ (by decide), rd_wr_ne _ _ (by decide), rd_wr_ne _ _ (by decide), rd_wr_ne _ _ (by decide), rd_wr_ne _ _ (by decide), rd_wr_same]; rfl
  · rw [rd_wr_ne _ _ (by decide), rd_wr_ne _ _ (by decide), rd_wr_ne _ _ (by decide), rd_wr_ne _ _ (by decide), rd_wr_ne _ _ (by decide), rd_wr_ne _ _ (by decide), rd_wr_same]; rfl
  · rw [rd_wr_ne _ _ (by decide), rd_wr_ne _ _ (by decide), rd_wr_ne _ _ (by decide), rd_wr_ne _ _ (by decide), rd_wr_ne _ _ (by decide), rd_wr_same]; rfl
  · rw [rd_wr_ne _ _ (by decide), rd_wr_ne _ _ (by decide), rd_wr_ne _ _ (by decide), rd_wr_ne _ _ (by decide), rd_wr_same]; rfl
  · rw [rd_wr_ne _ _ (by decide), rd_wr_ne _ _ (by decide), rd_wr_ne _ _ (by decide), rd_wr_same]; rfl
  · rw [rd_wr_ne _ _ (by decide), rd_wr_ne _ _ (by decide), rd_wr_same]; rfl
  · rw [rd_wr_ne _ _ (by decide), rd_wr_same]; rfl
  · rw [rd_wr_same]; rfl
  · rw [rd_wr_ne _ _ (by decide), rd_wr_ne _ _ (by decide), rd_wr_ne _ _ (by decide), rd_wr_ne _ _ (by decide), rd_wr_ne _ _ (by decide), rd_wr_ne _ _ (by decide), rd_wr_ne _ _ (by decide), rd_wr_ne _ _ (by decide)]
  · simp only [t, wr_rtc]

theorem time_nd (l : Lane) (d : Bool) : isNd l (0x400F0010 + 4 * b2n d) = true := by cases l <;> cases d <;> decide +kernel

theorem countNd_parts (s : State) (l : Lane) : (s.countNd l).rtc = s.rtc ∧ (s.countNd l).laneA = s.laneA ∧ (s.countNd l).laneB = s.laneB := by
  have c : ∀ (u : State) f w, (u.count f w).rtc = u.rtc ∧ (u.count f w).laneA = u.laneA ∧ (u.count f w).laneB = u.laneB := by
    intro u f w; unfold State.count State.addCount State.raiseIf; simp only; split <;> exact ⟨rfl, rfl, rfl⟩
  have d : ∀ (u : State), (u.countAgainst l 3).rtc = u.rtc ∧ (u.countAgainst l 3).laneA = u.laneA ∧ (u.countAgainst l 3).laneB = u.laneB := by
    intro u
    unfold State.countAgainst
    split
    · exact ⟨rfl, rfl, rfl⟩
    · split
      · unfold State.coverClear State.onCover
        split
        · split <;> exact ⟨rfl, rfl, rfl⟩
        · exact ⟨rfl, rfl, rfl⟩
      · exact ⟨rfl, rfl, rfl⟩
  unfold State.countNd
  rw [(d _).1, (d _).2.1, (d _).2.2]
  exact c _ _ _

theorem countNd_lane (s : State) (l : Lane) : (s.countNd l).lane l = s.lane l := by
  cases l
  · exact (countNd_parts s .A).2.1
  · exact (countNd_parts s .B).2.2

theorem timeRead_go (s : State) (l : Lane) (date : Bool) (p : BitVec 15) (h : s.laneRuns l = true) (hd : (s.lane l).det = false) (hv : s.rtc.onVbat = false) :
    exec (.timeGroupRead l date p false) s = .next ((((s.prescalerAt p.toNat).readTimeGroup l date).1.loaded l ((s.prescalerAt p.toNat).readTimeGroup l date).2).countNd l) := by
  show Host.Outcome.next (if s.laneRuns l then _ else s) = _
  rw [if_pos h]
  congr 1
  have d1 : ((s.prescalerAt p.toNat).lane l).det = false := by cases l <;> exact hd
  have d2 : (s.prescalerAt p.toNat).laneRuns l = true := h
  have d3 : (s.prescalerAt p.toNat).rtc.onVbat = false := hv
  generalize s.prescalerAt p.toNat = u at d1 d2 d3
  have k : u.regRead l (0x400F0010 + 4 * b2n date) = u.readTimeGroup l date := by
    unfold State.regRead
    rw [if_neg (by simp [d3])]
    cases date
    · rw [if_pos (by decide)]
    · rw [if_neg (by decide), if_pos (by decide)]
  unfold State.laneRead
  rw [if_neg (by simp [d2]), if_neg (by cases date <;> decide), if_neg (by simp [d1]), if_neg (by decide)]
  simp only
  rw [if_pos (time_nd l date), k]

theorem shadow_facts (s : State) (l : Lane) (x : Option Shadow) : (s.setShadow l x).rtc.shadow l = x := by cases l <;> rfl

/-! ### The second mark of the RTC -/

theorem mark_err (p : Nat) (hp : p < 32768) : signed 16 (unsigned 16 (if 16384 ≤ p then (p : Int) - 32768 else p)) = if 16384 ≤ p then (p : Int) - 32768 else p := by
  unfold signed unsigned
  split <;> split <;> omega

theorem mark_body (v : State) (p : Nat) (hp : p < 32768) (leap : Bool) (hL : leap = (v.on RTC_LEAP_PEND && v.tb.now.sec % 2 ^ 48 == v.rd RTC_LEAP_EFF)) (err : Int) (old : Int) (far : Bool) :
    let w := if leap then (v.wr RTC_UTC_OFS (v.rd RTC_LEAP_NEWOFS)).wr RTC_LEAP_PEND 0 else v
    let exp := expectedCalendar v.tb.now.sec (w.rd RTC_UTC_OFS) w.zone
    let x := if !inCalendar exp then w.raise RTC_STATUS_DISCRNG
      else if (w.calendar : Int) = exp && !far then w
      else
        let s := w.setCalendar exp.toNat
        if leap && (w.calendar : Int) == old && !far then s else (s.raise RTC_STATUS_DISCSTEP).count RTC_DRIFT_STEP_CNT RTC_STATUS_CNTWRAP
    w.rd RTC_UTC_OFS = ofsAt v ∧ w.zone = v.zone ∧ (inCalendar exp = true → (x.calendar : Int) = exp) ∧ (inCalendar exp = false → x.rd RTC_STATUS_DISCRNG = 1) := by
  intro w exp x
  have w1 : w.rd RTC_UTC_OFS = ofsAt v := by
    show (if leap then (v.wr RTC_UTC_OFS (v.rd RTC_LEAP_NEWOFS)).wr RTC_LEAP_PEND 0 else v).rd RTC_UTC_OFS = _
    unfold ofsAt
    have b := rd_lt v RTC_LEAP_NEWOFS
    rw [hL]
    by_cases c : v.rd RTC_LEAP_PEND ≠ 0 ∧ v.tb.now.sec % 2 ^ 48 = v.rd RTC_LEAP_EFF
    · rw [if_pos c, if_pos (by simp only [State.on, Bool.and_eq_true, bne_iff_ne, beq_iff_eq]; exact c), rd_wr_ne _ _ (by decide), rd_wr_same]
      refine Nat.mod_eq_of_lt (Nat.lt_trans b ?_)
      decide
    · rw [if_neg c, if_neg]
      simp only [State.on, Bool.and_eq_true, bne_iff_ne, beq_iff_eq]
      exact c
  have w2 : w.zone = v.zone := by
    show (if leap then (v.wr RTC_UTC_OFS (v.rd RTC_LEAP_NEWOFS)).wr RTC_LEAP_PEND 0 else v).zone = _
    split
    · unfold State.zone State.rdI; rw [rd_wr_ne _ _ (by decide), rd_wr_ne _ _ (by decide)]
    · rfl
  refine ⟨w1, w2, fun c => ?_, fun c => ?_⟩
  · have cb : exp.toNat < 73049 * 86400 ∧ 0 ≤ exp := by
      unfold inCalendar calendarDays at c; simp only [Bool.and_eq_true, decide_eq_true_eq] at c; omega
    show ((if !inCalendar exp then w.raise RTC_STATUS_DISCRNG
      else if (w.calendar : Int) = exp && !far then w
      else (if leap && (w.calendar : Int) == old && !far then (w.setCalendar exp.toNat) else ((w.setCalendar exp.toNat).raise RTC_STATUS_DISCSTEP).count RTC_DRIFT_STEP_CNT RTC_STATUS_CNTWRAP) : State).calendar : Int) = exp
    rw [if_neg (by simp [c])]
    have sc := set_calendar w exp.toNat cb.1
    split
    · rename_i h; simp only [Bool.and_eq_true, decide_eq_true_eq] at h; exact h.1
    · split
      · rw [sc]; omega
      · rw [cal_regs (s := w.setCalendar exp.toNat) (fun f hf => ?_), sc]
        · omega
        · rw [count_rd_ne _ (by rcases hf with hf | hf | hf | hf | hf | hf <;> subst hf <;> decide) (by rcases hf with hf | hf | hf | hf | hf | hf <;> subst hf <;> decide), raise_def, rd_wr_ne _ _ (by rcases hf with hf | hf | hf | hf | hf | hf <;> subst hf <;> decide)]
  · show (if !inCalendar exp then w.raise RTC_STATUS_DISCRNG
      else if (w.calendar : Int) = exp && !far then w
      else (if leap && (w.calendar : Int) == old && !far then (w.setCalendar exp.toNat) else ((w.setCalendar exp.toNat).raise RTC_STATUS_DISCSTEP).count RTC_DRIFT_STEP_CNT RTC_STATUS_CNTWRAP) : State).rd RTC_STATUS_DISCRNG = 1
    rw [if_pos (by simp [c]), raise_def, rd_wr_same]; rfl

theorem second_keeps (s : State) (ha : s.rtc.armed = none) (f : Field) (hf : f = RTC_LEAP_PEND ∨ f = RTC_LEAP_EFF ∨ f = RTC_LEAP_NEWOFS ∨ f = RTC_UTC_OFS) : s.rtcSecond.rd f = s.rd f := by
  rw [second_go s, (hour_facts _).1 (by rw [(move_parts _ _).1]; exact ha)]
  rcases hf with hf | hf | hf | hf <;> subst hf
  all_goals rw [alarm_rd _ _ _ (by decide), alarm_rd _ _ _ (by decide), move_rd _ _ _ (by decide)]; rfl

/-- A mark that the discipline acts on, outside the cycle of a tick or a commit (R309, R310). -/
theorem mark_go (s : State) (p : Nat) (hn : s.tb.now.sec ≠ s.tb.marked) (hc : s.rtcCycle.commit = false) (ht : s.rtcCycle.tick = false) (h : s.rd RTC_CTRL_DISC_EN ≠ 0) (hl : s.rd TB_STATUS_STATE = 2)
    (hv : s.rtc.onVbat = false) (hs : s.rtc.stopped = false) :
    s.rtcMark p = ((({ s with tb := { s.tb with marked := s.tb.now.sec } } : State).prescalerAt p).discipline (p % 32768)).noteRtc { s with tb := { s.tb with marked := s.tb.now.sec } } true := by
  have hn' : s.tb.now.sec ≠ s.tb.marked := hn
  have ec : ({ s with tb := { s.tb with marked := s.tb.now.sec } } : State).rtcCycle = s.rtcCycle := rfl
  unfold State.rtcMark
  simp only
  rw [if_neg hn', ec, if_neg (by
    show ¬(!(s.rd RTC_CTRL_DISC_EN != 0) || s.rd TB_STATUS_STATE != 2 || s.rtc.onVbat || s.rtc.stopped || s.rtcCycle.commit) = true
    simp [h, hl, hv, hs, hc]), ht, if_neg (by simp)]
  rfl

theorem stepped_ofs (w : State) (a b c : Bool) (n : Nat) :
    (if a = true then w.raise RTC_STATUS_DISCRNG else if b = true then w else if c = true then w.setCalendar n
      else ((w.setCalendar n).raise RTC_STATUS_DISCSTEP).count RTC_DRIFT_STEP_CNT RTC_STATUS_CNTWRAP : State).rd RTC_UTC_OFS = w.rd RTC_UTC_OFS := by
  cases a
  · cases b
    · cases c
      · simp only [Bool.false_eq_true, if_false]
        rw [count_rd_ne _ (by decide) (by decide), raise_def, rd_wr_ne _ _ (by decide)]; exact set_rd _ _ _ (by decide)
      · exact set_rd _ _ _ (by decide)
    · rfl
  · exact rd_wr_ne _ _ (by decide)

/-- What the discipline's work leaves (R310, R311), from the state `v` whose second has been counted where the prescaler asked for it. -/
theorem discipline_facts (s : State) (p : Nat) (hp : p < 32768) (v : State) (hv : v = if 16384 ≤ p then s.rtcSecond else s) :
    (s.discipline p).rtc.prescaler = 2 ∧ (s.discipline p).rd RTC_STATUS_OSCSTOP = 0 ∧ (s.discipline p).rdI RTC_DRIFT_ERR = (if 16384 ≤ p then (p : Int) - 32768 else p) ∧ (s.discipline p).rd RTC_UTC_OFS = ofsAt v ∧
    (inCalendar (expectedCalendar v.tb.now.sec (ofsAt v) v.zone) = true → ((s.discipline p).calendar : Int) = expectedCalendar v.tb.now.sec (ofsAt v) v.zone) ∧
    (inCalendar (expectedCalendar v.tb.now.sec (ofsAt v) v.zone) = false → (s.discipline p).rd RTC_STATUS_DISCRNG = 1) := by
  have B := mark_body v p hp (v.on RTC_LEAP_PEND && v.tb.now.sec % 2 ^ 48 == v.rd RTC_LEAP_EFF) rfl (if 16384 ≤ p then (p : Int) - 32768 else p)
    (expectedCalendar v.tb.now.sec (v.rd RTC_UTC_OFS) v.zone)
    (decide ((if (v.on RTC_LEAP_PEND && v.tb.now.sec % 2 ^ 48 == v.rd RTC_LEAP_EFF) then (v.wr RTC_UTC_OFS (v.rd RTC_LEAP_NEWOFS)).wr RTC_LEAP_PEND 0 else v).rd RTC_CTRL_DWIN <
      (if 16384 ≤ p then (p : Int) - 32768 else p).natAbs))
  simp only at B
  unfold State.discipline
  simp only
  rw [← hv]
  generalize (if (v.on RTC_LEAP_PEND && v.tb.now.sec % 2 ^ 48 == v.rd RTC_LEAP_EFF) then (v.wr RTC_UTC_OFS (v.rd RTC_LEAP_NEWOFS)).wr RTC_LEAP_PEND 0 else v) = w at *
  obtain ⟨b1, b2, b3, b4⟩ := B
  rw [b1, b2] at b3 b4
  rw [b1, b2]
  generalize expectedCalendar v.tb.now.sec (ofsAt v) v.zone = exp at *
  refine ⟨rfl, ?_, ?_, ?_, ?_, ?_⟩
  · rw [rd_wr_same]; rfl
  · unfold State.rdI State.wrI
    rw [rd_wr_ne _ _ (by decide), rd_wr_same]
    exact (congrArg (signed 16) (Nat.mod_eq_of_lt (by unfold unsigned; omega))).trans (mark_err p hp)
  · rw [rd_wr_ne _ _ (by decide)]
    unfold State.wrI
    rw [rd_wr_ne _ _ (by decide)]
    exact (stepped_ofs _ _ _ _ _).trans b1
  · intro c
    refine Eq.trans (congrArg Nat.cast ?_) (b3 c)
    exact cal_regs (fun f hf => by
      unfold State.wrI
      rw [rd_wr_ne _ _ (by rcases hf with hf | hf | hf | hf | hf | hf <;> subst hf <;> decide), rd_wr_ne _ _ (by rcases hf with hf | hf | hf | hf | hf | hf <;> subst hf <;> decide)]
      rfl)
  · intro c
    refine Eq.trans ?_ (b4 c)
    unfold State.wrI
    rw [rd_wr_ne _ _ (by decide), rd_wr_ne _ _ (by decide)]
    rfl

end Sys2Proof.Machine
end

