-- ==== Sys2Proof/Laws/FactsKeys.lean ====
section
/-!
SUPPORT. Small laws about keys, the crypto engine and the loader.
-/
namespace Sys2Proof.Machine
set_option Elab.async false
open Host (Cell)

/-! ### The Key Store Unit -/

theorem ksuCmd_run (s : State) (key : BitVec 16) (user : Bool) (run : State → State) : (key = 0x4B5E#16 → user = false → s.ksu.commit = none → s.ksuCommand key.toNat false user run = run s) ∧
    (key ≠ 0x4B5E#16 → s.ksuCommand key.toNat false user run = s.raise KSU_STATUS_CTXREJ) ∧
    (key = 0x4B5E#16 → user = true → s.ksuCommand key.toNat false user run = (s.wr KSU_CMDSTAT_RESULT ksuBadCtx).raise KSU_STATUS_CTXREJ) ∧
    (key = 0x4B5E#16 → user = false → s.ksu.commit ≠ none → s.ksuCommand key.toNat false user run = s.wr KSU_CMDSTAT_RESULT ksuBusy) := by
  refine ⟨fun e u c => ?_, fun e => ?_, fun e u => ?_, fun e u c => ?_⟩
  · subst e u; unfold State.ksuCommand; rw [if_neg (by decide), if_neg (by decide), if_neg (by simp [c])]
  · unfold State.ksuCommand; rw [if_pos]; rw [bne_iff_ne]; intro h; exact e (BitVec.eq_of_toNat_eq h)
  · subst e u; unfold State.ksuCommand; rw [if_neg (by decide), if_pos (by decide)]
  · subst e u; unfold State.ksuCommand; rw [if_neg (by decide), if_neg (by decide), if_pos]
    cases h : s.ksu.commit with
    | none => exact absurd h c
    | some x => rfl

theorem done_facts (s : State) (r : Nat) (h : r < 256) : (s.ksuDone r).rd KSU_CMDSTAT_RESULT = r ∧ (s.ksuDone r).rd KSU_STATUS_DONE = 1 ∧ (s.ksuDone r).ksu = s.ksu ∧ (s.ksuDone r).otp = s.otp ∧ (s.ksuDone r).pst = s.pst := by
  unfold State.ksuDone
  refine ⟨?_, by rw [raise_def, rd_wr_same]; rfl, rfl, rfl, rfl⟩
  rw [raise_def, rd_wr_ne _ _ (by decide), rd_wr_same]
  exact Nat.mod_eq_of_lt h

theorem setSlot_facts (s : State) (n : Nat) (k : Option KeySlot) : (s.setSlot n k).slot n = k ∧ ∀ m, m ≠ n → (s.setSlot n k).slot m = s.slot m := by
  unfold State.setSlot State.slot
  cases k with
  | none => exact ⟨kvFind_kvErase_same _ _, fun m h => kvFind_kvErase_ne _ h⟩
  | some x => exact ⟨kvFind_kvSet_same _ _ _, fun m h => kvFind_kvSet_ne _ _ h⟩

theorem slot_ksu {s t : State} (h : t.ksu = s.ksu) (n : Nat) : t.slot n = s.slot n := by unfold State.slot; rw [h]

theorem pstWords_parts (s : State) (w : Writer) (ws : List (Nat × Nat)) : (s.pstWords w ws).ksu = s.ksu ∧ (s.pstWords w ws).otp = s.otp :=
  ⟨only_part (pstWords_only (μ := 140857747447808) rfl (Only.refl _)) .ksu rfl, only_part (pstWords_only (μ := 140857747447808) rfl (Only.refl _)) .otp rfl⟩

theorem ksuWrite_facts (s : State) (o : Nat) (bs : Octets) : (s.ksuWrite o bs).ksu = s.ksu ∧ (s.ksuWrite o bs).otp = s.otp ∧ ∀ f : Field, f.key ≠ PST_WORDS_COUNT.key → f.key ≠ PST_STATUS_CNTWRAP.key → (s.ksuWrite o bs).rd f = s.rd f := by
  unfold State.ksuWrite
  simp only
  split
  · exact ⟨rfl, rfl, fun _ _ _ => rfl⟩
  · exact ⟨(pstWords_parts _ _ _).1, (pstWords_parts _ _ _).2, fun f a b => pstWords_rd _ _ _ a b⟩

theorem eraseStale_facts (s : State) : s.eraseStale.ksu = s.ksu ∧ s.eraseStale.otp = s.otp := by
  have k : ∀ (L : List Nat) (u : State), (L.foldl (fun s i => if octAt (s.sealedRecord i) 8 = s.epoch then s else s.eraseRecord (sealedAt i)) u).ksu = u.ksu ∧ (L.foldl (fun s i => if octAt (s.sealedRecord i) 8 = s.epoch then s else s.eraseRecord (sealedAt i)) u).otp = u.otp := by
    intro L
    induction L with
    | nil => intro u; exact ⟨rfl, rfl⟩
    | cons i L ih =>
      intro u
      rw [List.foldl_cons, (ih _).1, (ih _).2]
      split
      · exact ⟨rfl, rfl⟩
      · exact ⟨(ksuWrite_facts u _ _).1, (ksuWrite_facts u _ _).2.1⟩
  exact k _ _

theorem reseal_facts (old new : KeyCache) (ep : Nat) (is js : List Nat) (s : State) : (reseal old new ep is js s).ksu = s.ksu ∧ (reseal old new ep is js s).otp = s.otp := by
  induction is generalizing js s with
  | nil => unfold reseal; exact ⟨rfl, rfl⟩
  | cons i is ih =>
    cases js with
    | nil => unfold reseal; exact ⟨rfl, rfl⟩
    | cons j js =>
      unfold reseal
      simp only
      rw [(ih _ _).1, (ih _ _).2]
      exact ⟨(ksuWrite_facts s _ _).1, (ksuWrite_facts s _ _).2.1⟩

theorem setSlot_rd (s : State) (n : Nat) (k : Option KeySlot) : (s.setSlot n k).regs = s.regs := rfl

theorem loadAnchor_facts (s : State) (c : KeyCache) : (s.loadAnchor c).ksu.cache = s.ksu.cache ∧ (s.loadAnchor c).ksu.kPuf = s.ksu.kPuf ∧ (s.loadAnchor c).ksu.wantMirror = s.ksu.wantMirror ∧ (s.loadAnchor c).ksu.tried = s.ksu.tried ∧
    (s.loadAnchor c).ksu.response = s.ksu.response ∧ (s.loadAnchor c).otp = s.otp ∧ ∀ f : Field, f.key ≠ KSU_STATUS_ANCHORERR.key → (s.loadAnchor c).rd f = s.rd f := by
  unfold State.loadAnchor
  simp only
  split
  · exact ⟨rfl, rfl, rfl, rfl, rfl, rfl, fun _ _ => rfl⟩
  · exact ⟨rfl, rfl, rfl, rfl, rfl, rfl, fun f hf => by rw [raise_def, rd_wr_ne _ _ hf]; rfl⟩

theorem foldl_inv {α β : Type} (P : β → Prop) (f : β → α → β) (hf : ∀ b a, P b → P (f b a)) : ∀ (L : List α) (b : β), P b → P (L.foldl f b) := by
  intro L
  induction L with
  | nil => intro b h; exact h
  | cons a L ih => intro b h; exact ih _ (hf _ _ h)

theorem loadSealed_facts (s : State) (c : KeyCache) : (s.loadSealed c).ksu.cache = s.ksu.cache ∧ (s.loadSealed c).ksu.kPuf = s.ksu.kPuf ∧ (s.loadSealed c).ksu.wantMirror = s.ksu.wantMirror ∧ (s.loadSealed c).ksu.tried = s.ksu.tried ∧
    (s.loadSealed c).ksu.response = s.ksu.response ∧ (s.loadSealed c).otp = s.otp ∧ (s.loadSealed c).regs = s.regs := by
  have hP : ∀ P : State → Prop, (∀ (b : State) (i : Nat), P b → P (if sealedValid c.kSeal b.epoch (b.sealedRecord i) then b.setSlot (octAt (b.sealedRecord i) 1) (some ⟨octAt (b.sealedRecord i) 2, leAt (b.sealedRecord i) 4 4, 3, sealedKey c.kSeal (b.sealedRecord i)⟩) else b)) →
      P s → P (s.loadSealed c) := fun P hf h0 => foldl_inv P _ hf _ _ h0
  refine hP (fun v : State => v.ksu.cache = s.ksu.cache ∧ v.ksu.kPuf = s.ksu.kPuf ∧ v.ksu.wantMirror = s.ksu.wantMirror ∧ v.ksu.tried = s.ksu.tried ∧ v.ksu.response = s.ksu.response ∧ v.otp = s.otp ∧ v.regs = s.regs) (fun u i h => ?_) ⟨rfl, rfl, rfl, rfl, rfl, rfl, rfl⟩
  split
  · exact h
  · exact h

theorem formRoot_facts (s : State) (k : Octets) : (s.formRoot k).ksu.cache = some (deriveCache k s.lcState s.epoch) ∧ (s.formRoot k).ksu.kPuf = k ∧ (s.formRoot k).ksu.wantMirror = false ∧ (s.formRoot k).ksu.tried = s.ksu.tried ∧
    (s.formRoot k).ksu.response = s.ksu.response ∧ (s.formRoot k).otp = s.otp ∧ (s.formRoot k).rd KSU_STATUS_ROOTOK = 1 ∧ (∀ f : Field, f.key ≠ KSU_STATUS_ROOTOK.key → f.key ≠ KSU_QDEV_QDEV.key → f.key ≠ KSU_STATUS_ANCHORERR.key → (s.formRoot k).rd f = s.rd f) := by
  unfold State.formRoot
  simp only
  obtain ⟨u, eu⟩ : ∃ u : State, u = { s with ksu := { s.ksu with cache := some (deriveCache k s.lcState s.epoch), kPuf := k, wantMirror := false } } := ⟨_, rfl⟩
  have U : u.ksu.cache = some (deriveCache k s.lcState s.epoch) ∧ u.ksu.kPuf = k ∧ u.ksu.wantMirror = false ∧ u.ksu.tried = s.ksu.tried ∧ u.ksu.response = s.ksu.response ∧ u.otp = s.otp ∧ u.regs = s.regs := by rw [eu]; exact ⟨rfl, rfl, rfl, rfl, rfl, rfl, rfl⟩
  rw [← eu]
  have A := loadAnchor_facts u (deriveCache k s.lcState s.epoch)
  generalize u.loadAnchor (deriveCache k s.lcState s.epoch) = v at A
  have B := loadSealed_facts v (deriveCache k s.lcState s.epoch)
  generalize v.loadSealed (deriveCache k s.lcState s.epoch) = w at B
  refine ⟨?_, ?_, ?_, ?_, ?_, ?_, by rw [raise_def, rd_wr_same]; rfl, fun f h1 h2 h3 => ?_⟩
  · rw [raise_def, wr_ksu, wr_ksu, B.1, A.1, U.1]
  · rw [raise_def, wr_ksu, wr_ksu, B.2.1, A.2.1, U.2.1]
  · rw [raise_def, wr_ksu, wr_ksu, B.2.2.1, A.2.2.1, U.2.2.1]
  · rw [raise_def, wr_ksu, wr_ksu, B.2.2.2.1, A.2.2.2.1, U.2.2.2.1]
  · rw [raise_def, wr_ksu, wr_ksu, B.2.2.2.2.1, A.2.2.2.2.1, U.2.2.2.2.1]
  · rw [raise_def, wr_otp, wr_otp, B.2.2.2.2.2.1, A.2.2.2.2.2.1, U.2.2.2.2.2.1]
  · rw [raise_def, rd_wr_ne _ _ h1, rd_wr_ne _ _ h2, rd_regs B.2.2.2.2.2.2, A.2.2.2.2.2.2 f h3, rd_regs U.2.2.2.2.2.2]

/-! ### The crypto engine -/

theorem cryKey_facts (s : State) (d : Octets) (held : Option KeySlot) (user : Bool) : ((s.cryKey d held user).1 = s ∨ (s.cryKey d held user).1 = s.freeTick ∨ (s.cryKey d held user).1 = s.deny.raise CRY_STATUS_POLDENY) := by
  unfold State.cryKey
  simp only
  generalize (if user = true then ctxLaneU else ctxLane) = cx
  split
  · exact .inl rfl
  · split
    · split
      · exact .inl rfl
      · split
        · exact .inl rfl
        · split
          · exact .inl rfl
          · exact .inr (.inl rfl)
    · split
      · exact .inl rfl
      · split
        · exact .inl rfl
        · split
          · exact .inl rfl
          · split
            · exact .inl rfl
            · exact .inr (.inr rfl)

theorem deny_facts (s : State) : (s.deny).ksu = s.ksu ∧ s.deny.cry = s.cry ∧ s.deny.laneA = s.laneA ∧ s.deny.laneB = s.laneB ∧ s.deny.lsc = s.lsc ∧ s.deny.acmSize = s.acmSize := by
  unfold State.deny State.count State.addCount State.raiseIf; simp only; split <;> exact ⟨rfl, rfl, rfl, rfl, rfl, rfl⟩

theorem cryEval_facts (s : State) (d : Octets) (held : Option KeySlot) (user poison : Bool) : ((s.cryEval d held user poison).1 = s ∨ (s.cryEval d held user poison).1 = s.freeTick ∨ (s.cryEval d held user poison).1 = s.deny.raise CRY_STATUS_POLDENY) := by
  unfold State.cryEval
  simp only
  split
  · exact .inl rfl
  · split
    · exact .inl rfl
    · have K := cryKey_facts s d held user
      generalize s.cryKey d held user = r at K
      obtain ⟨r1, r2⟩ := r
      simp only at K
      cases r2 with
      | inl r => exact K
      | inr key =>
        simp only
        split
        · exact K
        · split
          · split
            · exact K
            · split
              · exact K
              · split <;> exact K
          · split <;> exact K

theorem cryWrite_facts (s : State) (a n : Nat) (bs : Octets) (ok : Bool) : (s.cryWrite a n bs ok).regs = s.regs ∧ (s.cryWrite a n bs ok).cry = s.cry := by
  unfold State.cryWrite
  split
  · split
    · exact ⟨rfl, rfl⟩
    · unfold State.sramWrite
      refine ⟨onLane_regs _ _ _, ?_⟩
      generalize s.busLane = l
      cases l <;> rfl
  · exact ⟨rfl, rfl⟩

theorem sramWrite_read (s : State) (l : Lane) (o : Nat) (bs : Octets) : memRead ((s.sramWrite l o bs).lane l).sram o bs.length = bs := by
  cases l <;> exact memRead_memWrite _ _ _

theorem cry_go (s : State) (poison : Bool) (j : CryJob) (rest : List CryJob) (o : Nat) (d : Octets) (held : Option KeySlot) (h : s.cry = j :: rest) (hr : s.region j.addr 64 = some (.sram, o))
    (hd : j.run = some (d, held)) :
    let b := { s with cry := rest }
    let r := b.cryEval d held j.user poison
    ∃ u : State, u.regs = r.1.regs ∧ u.cry = r.1.cry ∧ s.cryFinish poison = (fun (v : State) => if r.2.result == cryOk then v else (v.count CRY_FAIL_CNT_COUNT CRY_STATUS_CNTWRAP).raise CRY_STATUS_FAIL)
      (((u.sramWrite u.busLane (o + 44) (le 4 (r.2.result + 256))).count CRY_JOB_CNT_COUNT CRY_STATUS_CNTWRAP).raise CRY_STATUS_JOBDONE) := by
  intro b r
  obtain ⟨q, eq⟩ : ∃ q : State, q = (r.1.cryWrite (leAt d 32 4) (cryLengths (octAt d 0) (leAt d 28 4) (octAt d 2)).1 r.2.dst (r.2.result == cryOk)).cryWrite (leAt d 36 4) (cryLengths (octAt d 0) (leAt d 28 4) (octAt d 2)).2 r.2.tag (r.2.result == cryOk) := ⟨_, rfl⟩
  have Q : q.regs = r.1.regs ∧ q.cry = r.1.cry := by
    rw [eq]
    exact ⟨(cryWrite_facts _ _ _ _ _).1.trans (cryWrite_facts _ _ _ _ _).1, (cryWrite_facts _ _ _ _ _).2.trans (cryWrite_facts _ _ _ _ _).2⟩
  have go : s.cryFinish poison = (fun (u : State) => (fun (v : State) => if r.2.result == cryOk then v else (v.count CRY_FAIL_CNT_COUNT CRY_STATUS_CNTWRAP).raise CRY_STATUS_FAIL)
      (((u.sramWrite u.busLane (o + 44) (le 4 (r.2.result + 256))).count CRY_JOB_CNT_COUNT CRY_STATUS_CNTWRAP).raise CRY_STATUS_JOBDONE))
      (match r.2.slot with
        | some k => q.setSlot (octAt d 4) (some ⟨8, leAt d 40 4, 1, k⟩)
        | none => q) := by
    rw [eq]
    unfold State.cryFinish
    rw [h]
    simp only
    rw [show ({ s with cry := rest } : State).region j.addr 64 = some (.sram, o) from hr, hd]
    all_goals rfl
  clear eq
  refine ⟨_, ?_, ?_, go⟩
  · cases r.2.slot
    · exact Q.1
    · exact Q.1
  · cases r.2.slot
    · exact Q.2
    · exact Q.2

/-- A job that starts takes its descriptor and its slot; nothing but the queue of jobs changes (R334). -/
theorem cryStart_facts (s : State) : s.cryStart.regs = s.regs ∧ s.cryStart.cry.length = s.cry.length ∧ s.cryStart.cry.map (fun j => (j.addr, j.user)) = s.cry.map (fun j => (j.addr, j.user)) ∧
    s.cryStart.laneA = s.laneA ∧ s.cryStart.laneB = s.laneB := by
  unfold State.cryStart
  cases e : s.cry with
  | nil => exact ⟨rfl, by rw [e], by rw [e], rfl, rfl⟩
  | cons j rest =>
    simp only
    split
    · exact ⟨rfl, by rw [e], by rw [e], rfl, rfl⟩
    · split
      · exact ⟨rfl, rfl, rfl, rfl, rfl⟩
      · exact ⟨rfl, by rw [e], by rw [e], rfl, rfl⟩

/-! ### Work on the ACM -/

theorem rldEvent_facts (s : State) (k : Nat) (p : Octets) : (s.rldEvent k p).regs = s.regs ∧ (s.rldEvent k p).rld = s.rld ∧ (s.rldEvent k p).acm = s.acm ∧ (s.rldEvent k p).pst = s.pst ∧ (s.rldEvent k p).laneA = s.laneA ∧ (s.rldEvent k p).laneB = s.laneB := by
  unfold State.rldEvent State.postOrHold
  split <;> exact ⟨rfl, rfl, rfl, rfl, rfl, rfl⟩

theorem pstWords_more (s : State) (w : Writer) (ws : List (Nat × Nat)) : (s.pstWords w ws).rld = s.rld ∧ (s.pstWords w ws).acm = s.acm ∧ (s.pstWords w ws).laneA = s.laneA ∧ (s.pstWords w ws).laneB = s.laneB :=
  ⟨only_part (pstWords_only (μ := 140857747447808) rfl (Only.refl _)) .rld rfl, only_part (pstWords_only (μ := 140857747447808) rfl (Only.refl _)) .acm rfl, lane_part (only_part (pstWords_only (μ := 140857747447808) rfl (Only.refl _)) .lanes rfl) (only_part (pstWords_only (μ := 140857747447808) rfl (Only.refl _)) .sram rfl) .A,
    lane_part (only_part (pstWords_only (μ := 140857747447808) rfl (Only.refl _)) .lanes rfl) (only_part (pstWords_only (μ := 140857747447808) rfl (Only.refl _)) .sram rfl) .B⟩

theorem record_facts (s : State) : s.writeRecord.rld.step = s.rld.step ∧ s.writeRecord.rld.op = s.rld.op ∧ s.writeRecord.rld.tact = s.rld.tact ∧ s.writeRecord.rld.newCfg = s.rld.newCfg ∧ s.writeRecord.acm = s.acm ∧ s.writeRecord.laneA = s.laneA ∧
    s.writeRecord.laneB = s.laneB ∧ ∀ f : Field, f.key ≠ PST_WORDS_COUNT.key → f.key ≠ PST_STATUS_CNTWRAP.key → s.writeRecord.rd f = s.rd f := by
  obtain ⟨u, ws, eu, go⟩ : ∃ (u : State) (ws : List (Nat × Nat)), u = { s with rld := { s.rld with seq := (s.rld.seq + 1) % 4294967296 } } ∧ s.writeRecord = u.pstWords .rld ws := ⟨_, _, rfl, rfl⟩
  have P := pstWords_more u .rld ws
  have r : ∀ f : Field, u.rd f = s.rd f := by intro f; rw [eu]; rfl
  rw [go, P.1, P.2.1, P.2.2.1, P.2.2.2]
  refine ⟨by rw [eu], by rw [eu], by rw [eu], by rw [eu], by rw [eu], by rw [eu], by rw [eu], fun f a b => (pstWords_rd u .rld ws a b).trans (r f)⟩

theorem upTo_facts (s : State) (n : Nat) (hn : n < 8) : (s.upTo n).rd RLD_STATE_STATE = n ∧ (s.upTo n).rd RLD_STATUS_STCHG = 1 ∧
    (∀ f : Field, f.key ≠ RLD_STATE_STATE.key → f.key ≠ RLD_STATUS_STCHG.key → f.key ≠ PST_WORDS_COUNT.key → f.key ≠ PST_STATUS_CNTWRAP.key → (s.upTo n).rd f = s.rd f) ∧
    (s.upTo n).rld.step = s.rld.step ∧ (s.upTo n).rld.op = s.rld.op ∧ (s.upTo n).rld.tact = s.rld.tact ∧ (s.upTo n).acm = s.acm ∧ (s.upTo n).laneA = s.laneA ∧ (s.upTo n).laneB = s.laneB ∧
    (s.upTo n).pst = (s.wr RLD_STATE_STATE n).writeRecord.pst := by
  have go : s.upTo n = (((s.wr RLD_STATE_STATE n).writeRecord.raise RLD_STATUS_STCHG)).rldEvent 0x02 ([octet n, octet s.upState, octet (((s.wr RLD_STATE_STATE n).writeRecord.raise RLD_STATUS_STCHG).rd RLD_STATE_KIND),
    octet (((s.wr RLD_STATE_STATE n).writeRecord.raise RLD_STATUS_STCHG).rd RLD_STATE_CAUSE)] ++ zeros 4 ++ le 8 ((s.wr RLD_STATE_STATE n).writeRecord.raise RLD_STATUS_STCHG).rld.tact) := rfl
  rw [go]
  have E := rldEvent_facts ((s.wr RLD_STATE_STATE n).writeRecord.raise RLD_STATUS_STCHG) 0x02 ([octet n, octet s.upState, octet (((s.wr RLD_STATE_STATE n).writeRecord.raise RLD_STATUS_STCHG).rd RLD_STATE_KIND),
    octet (((s.wr RLD_STATE_STATE n).writeRecord.raise RLD_STATUS_STCHG).rd RLD_STATE_CAUSE)] ++ zeros 4 ++ le 8 ((s.wr RLD_STATE_STATE n).writeRecord.raise RLD_STATUS_STCHG).rld.tact)
  have R := record_facts (s.wr RLD_STATE_STATE n)
  generalize (s.wr RLD_STATE_STATE n).writeRecord = w at *
  have l : ∀ x : LoaderState, x = x := fun _ => rfl
  have rl : ((w.raise RLD_STATUS_STCHG).rldEvent 0x02 ([octet n, octet s.upState, octet ((w.raise RLD_STATUS_STCHG).rd RLD_STATE_KIND), octet ((w.raise RLD_STATUS_STCHG).rd RLD_STATE_CAUSE)] ++ zeros 4 ++ le 8 (w.raise RLD_STATUS_STCHG).rld.tact)).rld = w.rld := E.2.1
  refine ⟨?_, ?_, fun f a b c d => ?_, ?_, ?_, ?_, ?_, ?_, ?_, E.2.2.2.1⟩
  · rw [rd_regs E.1, raise_def, rd_wr_ne _ _ (by decide), R.2.2.2.2.2.2.2 _ (by decide) (by decide), rd_wr_same]; exact Nat.mod_eq_of_lt hn
  · rw [rd_regs E.1, raise_def, rd_wr_same]; rfl
  · rw [rd_regs E.1, raise_def, rd_wr_ne _ _ b, R.2.2.2.2.2.2.2 _ c d, rd_wr_ne _ _ a]
  · rw [rl, R.1]; rfl
  · rw [rl, R.2.1]; rfl
  · rw [rl, R.2.2.1]; rfl
  · exact E.2.2.1.trans (R.2.2.2.2.1.trans rfl)
  · exact E.2.2.2.2.1.trans (R.2.2.2.2.2.1.trans rfl)
  · exact E.2.2.2.2.2.trans (R.2.2.2.2.2.2.1.trans rfl)

theorem rldCmd_run (s : State) (key : BitVec 16) (run : State → State) : (key = 0x7D1E#16 → s.rldCommand key.toNat false run = run s) ∧ (key ≠ 0x7D1E#16 → s.rldCommand key.toNat false run = s.raise RLD_STATUS_CMDREJ) := by
  refine ⟨fun e => ?_, fun e => ?_⟩
  · subst e; unfold State.rldCommand; rw [if_neg (by decide)]
  · unfold State.rldCommand
    rw [if_pos]
    simp only [Bool.false_or, bne_iff_ne]
    intro h; exact e (BitVec.eq_of_toNat_eq h)

theorem kvFind_out {α : Type} (m : List (Nat × α)) (p : Nat → Bool) (a : Nat) (h : p a = false) : kvFind (m.filter (fun c => p c.1)) a = none := by
  induction m with
  | nil => rfl
  | cons x m ih =>
    rw [List.filter_cons]
    split
    · rename_i hp
      obtain ⟨k, v⟩ := x
      unfold kvFind
      rw [if_neg]
      · exact ih
      · intro e; subst e; simp only at hp; rw [h] at hp; cases hp
    · exact ih

theorem kvFind_in {α : Type} (m : List (Nat × α)) (p : Nat → Bool) (a : Nat) (h : p a = true) : kvFind (m.filter (fun c => p c.1)) a = kvFind m a := by
  induction m with
  | nil => rfl
  | cons x m ih =>
    obtain ⟨k, v⟩ := x
    rw [List.filter_cons]
    split
    · unfold kvFind
      rw [ih]
    · rename_i hp
      rw [ih]
      conv_rhs => unfold kvFind
      rw [if_neg]
      intro e; subst e; exact hp h

theorem unverify_acm (s : State) (a : Nat) : (s.unverify a).acm = s.acm ∧ (s.unverify a).rld = s.rld := by unfold State.unverify; split <;> exact ⟨rfl, rfl⟩

theorem map_not_not (l : Octets) : (l.map (~~~ ·)).map (~~~ ·) = l := by
  rw [List.map_map]
  exact (List.map_congr_left (fun b _ => BitVec.not_not)).trans (List.map_id _)

theorem slot_ne (n : Nat) : (RLD_SLOT_VERIFIED n).key ≠ RLD_STATUS_CMDDONE.key ∧ (RLD_SLOT_VERIFIED n).key ≠ RLD_STATUS_PGMERR.key := by
  constructor <;> (unfold Field.key; simp only [RLD_SLOT_VERIFIED, RLD_STATUS_CMDDONE, RLD_STATUS_PGMERR]; omega)

/-! ### Scheduled updates -/

theorem keyFor_facts (s : State) (n a b : Nat) : (s.keyFor n a b).1 = s ∨ (s.keyFor n a b).1 = s.deny := by
  unfold State.keyFor
  split
  · split
    · exact .inl rfl
    · exact .inr rfl
  · exact .inr rfl

theorem acceptable_facts (s : State) (c : Octets) (x : Nat) : (s.acceptable c x).1 = s ∨ (s.acceptable c x).1 = s.deny := by
  unfold State.acceptable
  split
  · exact .inl rfl
  · unfold State.signatureGood
    split
    · exact .inl rfl
    · rename_i h _
      have K := keyFor_facts s h.vSlot opImgVer x
      generalize s.keyFor h.vSlot opImgVer x = r at K
      obtain ⟨r1, r2⟩ := r
      cases r2 <;> exact K

theorem deny_rd (s : State) (f : Field) (h : f.block ≠ 16) (hb : f.block < 22) : s.deny.rd f = s.rd f := by
  refine only_rd (deny_only (μ := 65536) rfl (Only.refl _)) ?_
  rw [Bool.and_eq_true, decide_eq_true_eq]
  refine ⟨hb, ?_⟩
  generalize f.block = b at h hb
  interval_cases b <;> first | rfl | exact absurd rfl h

theorem acc_rd (s : State) (c : Octets) (x : Nat) (f : Field) (h : f.block ≠ 16) (hb : f.block < 22) : (s.acceptable c x).1.rd f = s.rd f := by
  rcases acceptable_facts s c x with e | e <;> rw [e]
  exact deny_rd s f h hb

theorem acc_rld (s : State) (c : Octets) (x : Nat) : (s.acceptable c x).1.rld = s.rld := by
  rcases acceptable_facts s c x with e | e <;> rw [e]
  unfold State.deny State.count State.addCount State.raiseIf; simp only; split <;> rfl

theorem slotN (n m : Nat) : (RLD_SLOT_VERIFIED n).key ≠ (RLD_SLOTVER_VERSION m).key ∧ (RLD_SLOT_VERIFIED n).key ≠ RLD_STATUS_VERIFIED.key ∧ (RLD_SLOTVER_VERSION n).key ≠ RLD_STATUS_VERIFIED.key ∧
    (RLD_SLOT_VERIFIED n).key ≠ RLD_STATUS_CMDDONE.key ∧ (RLD_SLOTVER_VERSION n).key ≠ RLD_STATUS_CMDDONE.key ∧ (RLD_SLOT_VERIFIED n).key ≠ RLD_STATE_STATE.key ∧ (RLD_SLOT_VERIFIED n).key ≠ RLD_STATUS_STCHG.key ∧
    (RLD_SLOT_VERIFIED n).key ≠ PST_WORDS_COUNT.key ∧ (RLD_SLOT_VERIFIED n).key ≠ PST_STATUS_CNTWRAP.key ∧ (RLD_SLOTVER_VERSION n).key ≠ RLD_STATE_STATE.key ∧ (RLD_SLOTVER_VERSION n).key ≠ RLD_STATUS_STCHG.key ∧
    (RLD_SLOTVER_VERSION n).key ≠ PST_WORDS_COUNT.key ∧ (RLD_SLOTVER_VERSION n).key ≠ PST_STATUS_CNTWRAP.key := by
  have e1 : ∀ n, (RLD_SLOT_VERIFIED n).key = (0x40120060 + 4 * (n % 4)) * 1024 + 31 := by intro n; unfold Field.key; simp only [RLD_SLOT_VERIFIED]
  have e2 : ∀ n, (RLD_SLOTVER_VERSION n).key = (0x40120070 + 4 * (n % 4)) * 1024 + 0 := by intro n; unfold Field.key; simp only [RLD_SLOTVER_VERSION]
  simp only [e1, e2]
  unfold Field.key
  simp only [RLD_STATUS_VERIFIED, RLD_STATUS_CMDDONE, RLD_STATE_STATE, RLD_STATUS_STCHG, PST_WORDS_COUNT, PST_STATUS_CNTWRAP]
  refine ⟨?_, ?_, ?_, ?_, ?_, ?_, ?_, ?_, ?_, ?_, ?_, ?_, ?_⟩ <;> omega

/-! ### The loader's record -/

theorem takeOut_rld (s : State) (l : Lane) (c : Nat) (h1 : s.rld.step ≠ .swapping) (h2 : s.upState ≠ 4) : (s.takeOut l c).rld = s.rld ∧ ∀ f : Field, f.block = 18 → (s.takeOut l c).rd f = s.rd f := by
  have b18 : ∀ (f : Field) (m : Nat), f.block = 18 → m.testBit 18 = false → (decide (f.block < 22) && !m.testBit f.block) = true := by
    intro f m hf hm; rw [hf, hm]; rfl
  have tail : ∀ u : State, u.rld = s.rld → (∀ f : Field, f.block = 18 → u.rd f = s.rd f) → ((u.settleAlone).rldLaneOut l).rld = s.rld ∧ ∀ f : Field, f.block = 18 → ((u.settleAlone).rldLaneOut l).rd f = s.rd f := by
    intro u a b
    have k1 : u.settleAlone.rld = s.rld := (show u.settleAlone.rld = u.rld from (only_part (settleAlone_only (μ := 301989896) rfl (Only.refl _)) .rld rfl)).trans a
    have k2 : ∀ f : Field, f.block = 18 → u.settleAlone.rd f = s.rd f := fun f hf => (only_rd (settleAlone_only (μ := 301989896) rfl (Only.refl _)) (b18 f _ hf rfl)).trans (b f hf)
    have i : (u.settleAlone).rldLaneOut l = u.settleAlone := by
      unfold State.rldLaneOut State.upState
      rw [if_neg (by rw [k1]; exact h1), if_neg]
      rintro ⟨x, _⟩
      rw [k2 _ rfl] at x
      exact h2 x
    rw [i]
    exact ⟨k1, k2⟩
  have lv1 : (s.leave l c).rld = s.rld := (only_part (leave_only (μ := 713031692) rfl (Only.refl _)) .rld rfl)
  have lv2 : ∀ f : Field, f.block = 18 → (s.leave l c).rd f = s.rd f := fun f hf => only_rd (leave_only (μ := 713031692) rfl (Only.refl _)) (b18 f _ hf rfl)
  unfold State.takeOut
  simp only
  split
  · exact ⟨rfl, fun _ _ => rfl⟩
  · split
    · refine tail _ ?_ ?_
      · exact (show ((s.leave l c).takeover l).rld = (s.leave l c).rld from (only_part (takeover_only (μ := 580546881654280) rfl (Only.refl _)) .rld rfl)).trans lv1
      · exact fun f hf => (only_rd (takeover_only (μ := 580546881654280) rfl (Only.refl _)) (b18 f _ hf rfl)).trans (lv2 f hf)
    · exact tail _ lv1 lv2

theorem role_regs {s t : State} (h : t.regs = s.regs) (l : Lane) (h2 : t.lane l = s.lane l) : t.role l = s.role l := by unfold State.role; rw [h2, rd_regs h]

theorem rollback_facts (s : State) (c : Nat) (hc : c < 256) : (s.rollback c).rd RLD_STATE_STATE = 6 ∧ (s.rollback c).rd RLD_STATE_CAUSE = c ∧ (s.rollback c).rd RLD_STATUS_STCHG = 1 ∧ (s.rollback c).rld.step = .restoring ∧
    (s.rd RLD_STATE_KIND = 1 → (s.lane .A).loaded = true → s.role .A ≠ roleOut → s.role .A ≠ roleOff → s.role .A ≠ roleBist → (s.rollback c).role .A = roleOut ∧ (s.rollback c).rd LSC_CAUSE_A_CAUSE = 9) := by
  obtain ⟨w, ew⟩ : ∃ w : State, w = (((s.upCause c).verdictEvent false c).setStep .restoring).upTo upRollback := ⟨_, rfl⟩
  have go : s.rollback c = if w.rd RLD_STATE_KIND = 1 ∧ (w.lane .A).loaded then w.takeOut .A causeUpdate else w := by rw [ew]; rfl
  have E := rldEvent_facts (s.upCause c) 0x03 ([octet (b2n false), octet c] ++ zeros 2 ++ le 4 (s.upCause c).newVersion ++ le 8 ((s.upCause c).creaseOf (s.upCause c).now))
  have ve : (s.upCause c).verdictEvent false c = (s.upCause c).rldEvent 0x03 ([octet (b2n false), octet c] ++ zeros 2 ++ le 4 (s.upCause c).newVersion ++ le 8 ((s.upCause c).creaseOf (s.upCause c).now)) := rfl
  rw [← ve] at E
  generalize (s.upCause c).verdictEvent false c = v at E ew
  have U := upTo_facts (v.setStep .restoring) upRollback (by decide)
  rw [← ew] at U
  have vs : ∀ f, (v.setStep .restoring).rd f = (s.upCause c).rd f := fun f => rd_regs (s := s.upCause c) E.1 f
  have W1 : w.rd RLD_STATE_CAUSE = c := by
    rw [U.2.2.1 _ (by decide) (by decide) (by decide) (by decide), vs]
    unfold State.upCause
    rw [rd_wr_same]; exact Nat.mod_eq_of_lt hc
  have wk : ∀ f : Field, f.key ≠ RLD_STATE_STATE.key → f.key ≠ RLD_STATUS_STCHG.key → f.key ≠ PST_WORDS_COUNT.key → f.key ≠ PST_STATUS_CNTWRAP.key → f.key ≠ RLD_STATE_CAUSE.key → w.rd f = s.rd f := by
    intro f a b d e g
    rw [U.2.2.1 _ a b d e, vs]
    unfold State.upCause
    rw [rd_wr_ne _ _ g]
  have WL : w.laneA = s.laneA := U.2.2.2.2.2.2.2.1.trans E.2.2.2.2.1
  have W2 : w.rld.step = .restoring := U.2.2.2.1
  have W3 : w.upState = 6 := U.1
  have Wr : w.role .A = s.role .A := by
    unfold State.role
    rw [show w.lane .A = s.lane .A from WL, wk (roleField .A) (by decide) (by decide) (by decide) (by decide) (by decide)]
  have tk := takeOut_rld w .A causeUpdate (by rw [W2]; decide) (by rw [W3]; decide)
  rw [go]
  have red : (if w.rd RLD_STATE_KIND = 1 ∧ (w.lane .A).loaded then w.takeOut .A causeUpdate else w).rld = w.rld ∧ ∀ f : Field, f.block = 18 → (if w.rd RLD_STATE_KIND = 1 ∧ (w.lane .A).loaded then w.takeOut .A causeUpdate else w).rd f = w.rd f := by
    split
    · exact tk
    · exact ⟨rfl, fun _ _ => rfl⟩
  refine ⟨(red.2 _ rfl).trans U.1, (red.2 _ rfl).trans W1, (red.2 _ rfl).trans U.2.1, (congrArg LoaderState.step red.1).trans W2, fun a b h1 h2 h3 => ?_⟩
  rw [if_pos ⟨by rw [wk _ (by decide) (by decide) (by decide) (by decide) (by decide)]; exact a, by rw [show w.lane .A = s.lane .A from WL]; exact b⟩]
  have F := takeOut_facts w .A causeUpdate (by rw [Wr]; exact ⟨h1, h2, h3⟩)
  exact ⟨by unfold State.role; rw [F.1]; rfl, F.2.1⟩

theorem verdict_may (s : State) (l : Lane) : (if s.rd RLD_STATE_KIND = 1 then l == .A else s.activeLane == some l) = true ↔ (s.rd RLD_STATE_KIND = 1 → l = .A) ∧ (s.rd RLD_STATE_KIND ≠ 1 → s.activeLane = some l) := by
  by_cases k : s.rd RLD_STATE_KIND = 1
  · simp [k]
  · simp [k]

theorem reset_other (v : State) (hk : v.ksu.commit = none) (hp : v.sys.por = false) (hr : v.sys.rstLow = false) (he : v.sys.extest = false) :
    (v.systemReset .other).pst = ⟨v.pst.cells, [], 0⟩ ∧ ∀ l, (v.systemReset .other).role l = roleBoot ∧ ((v.systemReset .other).lane l).refilling = true := by
  have e : v.systemReset .other = (v.clearAll false).startLanes := by
    simp [State.systemReset, State.resetCause, hk, hp, hr, he, clear_sys]
  rw [e]
  have p := clear_pst v false
  refine ⟨?_, fun l => ?_⟩
  · refine Eq.trans ?_ p.1
    rfl
  · have R := startLanes_role (v.clearAll false) l
    refine ⟨?_, R.2⟩
    unfold State.role
    have lv : ((v.clearAll false).startLanes.lane l).leaving = false := by cases l <;> rfl
    rw [lv]
    exact R.1

theorem commitSettings_facts (s : State) : s.commitSettings.rd PST_SETSEL_ACT = (1 - s.rd PST_SETSEL_ACT) % 2 ∧ s.commitSettings.rd PST_SETSEL_TRIAL = 0 ∧ s.commitSettings.rld = s.rld ∧ s.commitSettings.acm = s.acm ∧
    ∀ f : Field, f.key ≠ PST_WORDS_COUNT.key → f.key ≠ PST_STATUS_CNTWRAP.key → f.key ≠ PST_SETSEL_ACT.key → f.key ≠ PST_SETSEL_TRIAL.key → s.commitSettings.rd f = s.rd f := by
  obtain ⟨ws, go⟩ : ∃ ws, s.commitSettings = ((s.pstWords .rld ws).wr PST_SETSEL_ACT (1 - s.rd PST_SETSEL_ACT)).wr PST_SETSEL_TRIAL 0 := by
    unfold State.commitSettings State.copyPst; exact ⟨_, rfl⟩
  rw [go]
  have P := pstWords_more s .rld ws
  refine ⟨?_, ?_, P.1, P.2.1, fun f a b c d => ?_⟩
  · rw [rd_wr_ne _ _ (by decide), rd_wr_same]; rfl
  · rw [rd_wr_same]; rfl
  · rw [rd_wr_ne _ _ d, rd_wr_ne _ _ c]; exact pstWords_rd _ _ _ a b

theorem versions_facts (u : State) (c : Octets) (hc : c = u.slotContainer (u.rd RLD_STATE_NEWSLOT)) : (u.commitVersions false).rld = u.rld ∧ (u.commitVersions false).rd PST_SETSEL_ACT = u.rd PST_SETSEL_ACT ∧ (u.commitVersions false).rd PST_SETSEL_TRIAL = u.rd PST_SETSEL_TRIAL ∧
    (u.commitVersions false).rd RLD_STATE_KIND = u.rd RLD_STATE_KIND ∧ (u.commitVersions false).rd LSC_CTRL_SPLIT = u.rd LSC_CTRL_SPLIT ∧ (u.commitVersions false).rd RLD_STATE_STATE = u.rd RLD_STATE_STATE ∧
    (u.rd RLD_STATE_KIND ≠ 2 → (u.commitVersions false).rd RLD_VFB_VERSION = u.rd RLD_VCUR_VERSION ∧ (u.commitVersions false).rd RLD_VCUR_VERSION = containerVersion c % 2 ^ 32 ∧
      (u.commitVersions false).rd RLD_MINVER_VERSION = (if containerFloor c then containerVersion c % 2 ^ 32 else u.rd RLD_MINVER_VERSION)) ∧
    (u.rd RLD_STATE_KIND = 2 → (u.commitVersions false).rd RLD_VFB_VERSION = u.rd RLD_VFB_VERSION ∧ (u.commitVersions false).rd RLD_VCUR_VERSION = u.rd RLD_VCUR_VERSION) := by
  have b := rd_lt u RLD_VCUR_VERSION
  unfold State.commitVersions
  simp only
  rw [← hc]
  by_cases k : u.rd RLD_STATE_KIND = 2
  · rw [if_pos (.inl k)]
    exact ⟨rfl, rfl, rfl, rfl, rfl, rfl, fun n => absurd k n, fun _ => ⟨rfl, rfl⟩⟩
  · rw [if_neg (by rintro (x | x); exacts [k x, absurd x.1 (by decide)])]
    have q : ∀ f : Field, f.key ≠ RLD_VFB_VERSION.key → f.key ≠ RLD_VCUR_VERSION.key → f.key ≠ RLD_MINVER_VERSION.key → (if containerFloor c = true then ((u.wr RLD_VFB_VERSION (u.rd RLD_VCUR_VERSION)).wr RLD_VCUR_VERSION (containerVersion c)).wr RLD_MINVER_VERSION (containerVersion c)
        else (u.wr RLD_VFB_VERSION (u.rd RLD_VCUR_VERSION)).wr RLD_VCUR_VERSION (containerVersion c)).rd f = u.rd f := by
      intro f x y z
      split
      · rw [rd_wr_ne _ _ z, rd_wr_ne _ _ y, rd_wr_ne _ _ x]
      · rw [rd_wr_ne _ _ y, rd_wr_ne _ _ x]
    refine ⟨?_, q _ (by decide) (by decide) (by decide), q _ (by decide) (by decide) (by decide), q _ (by decide) (by decide) (by decide), q _ (by decide) (by decide) (by decide), q _ (by decide) (by decide) (by decide), fun _ => ⟨?_, ?_, ?_⟩, fun n => absurd n k⟩
    · split <;> rfl
    · split
      · rw [rd_wr_ne _ _ (by decide), rd_wr_ne _ _ (by decide), rd_wr_same]; exact Nat.mod_eq_of_lt b
      · rw [rd_wr_ne _ _ (by decide), rd_wr_same]; exact Nat.mod_eq_of_lt b
    · split
      · rw [rd_wr_ne _ _ (by decide), rd_wr_same]; rfl
      · rw [rd_wr_same]; rfl
    · split
      · rw [rd_wr_same]; rfl
      · rw [rd_wr_ne _ _ (by decide), rd_wr_ne _ _ (by decide)]

end Sys2Proof.Machine
end

