-- ==== Sys2Proof/Laws/FactsStore.lean ====
section
/-!
SUPPORT. Laws of the write buffer of PST where several writers share it: a span that one writer alone writes reads as its words say (R283).
-/
namespace Sys2Proof.Machine
set_option Elab.async false
open Host (Cell)

/-- The words of a buffer over a memory. -/
def pstLay (m : List Cell) (ws : List PstWord) : List Cell := ws.foldl (fun m w => memWrite m w.offset (le 4 w.value)) m

theorem pstImage_lay (s : State) : s.pstImage = pstLay s.pst.cells s.pst.buffer := rfl

theorem memGet_memWrite_congr (m m' : List Cell) (o : Nat) (bs : Octets) (a : Nat) (h : memGet m a = memGet m' a) : memGet (memWrite m o bs) a = memGet (memWrite m' o bs) a := by
  induction bs generalizing m m' o with
  | nil => exact h
  | cons b bs ih =>
    refine ih _ _ _ ?_
    by_cases e : a = o
    · rw [e, memGet_memSet_same, memGet_memSet_same]
    · rw [memGet_memSet_ne _ _ e, memGet_memSet_ne _ _ e, h]

theorem lay_congr (ws : List PstWord) (m m' : List Cell) (a : Nat) (h : memGet m a = memGet m' a) : memGet (pstLay m ws) a = memGet (pstLay m' ws) a := by
  induction ws generalizing m m' with
  | nil => exact h
  | cons w ws ih => exact ih _ _ (memGet_memWrite_congr _ _ _ _ _ h)

/-- A word covers an address. -/
def PstWord.covers (x : PstWord) (a : Nat) : Prop := x.offset ≤ a ∧ a < x.offset + 4

theorem write_out (m : List Cell) (x : PstWord) (a : Nat) (h : ¬x.covers a) : memGet (memWrite m x.offset (le 4 x.value)) a = memGet m a := by
  refine memGet_memWrite_outside _ _ _ _ ?_
  rw [le_length]; unfold PstWord.covers at h; omega

theorem lay_out (ws : List PstWord) (m : List Cell) (a : Nat) (h : ∀ x ∈ ws, ¬x.covers a) : memGet (pstLay m ws) a = memGet m a := by
  induction ws generalizing m with
  | nil => rfl
  | cons w ws ih => exact (ih _ (fun x hx => h x (List.mem_cons_of_mem _ hx))).trans (write_out _ _ _ (h w List.mem_cons_self))

/-- The oldest word of a writer written first: an address that the writer alone covers, or that the word does not cover, reads the same. -/
theorem lay_take (v : Writer) (a : Nat) : ∀ (ws : List PstWord) (m : List Cell) (x : PstWord), ws.find? (fun x => x.writer == v) = some x → (x.covers a → ∀ y ∈ ws, y.writer = v ∨ ¬y.covers a) →
    memGet (pstLay (memWrite m x.offset (le 4 x.value)) (takeWord v ws)) a = memGet (pstLay m ws) a := by
  intro ws
  induction ws with
  | nil => intro m x h; cases h
  | cons y ws ih =>
    intro m x h hc
    unfold takeWord
    by_cases e : y.writer = v
    · rw [if_pos e]
      rw [List.find?_cons_of_pos (by simpa using e)] at h
      cases h; rfl
    · rw [if_neg e]
      rw [List.find?_cons_of_neg (by simpa using e)] at h
      have i := ih (memWrite m y.offset (le 4 y.value)) x h (fun c z hz => hc c z (List.mem_cons_of_mem _ hz))
      refine Eq.trans ?_ i
      show memGet (pstLay (memWrite (memWrite m x.offset (le 4 x.value)) y.offset (le 4 y.value)) (takeWord v ws)) a = _
      refine lay_congr _ _ _ _ ?_
      by_cases c : x.covers a
      · have ny := (hc c y List.mem_cons_self).resolve_left e
        rw [write_out _ _ _ ny]
        exact memGet_memWrite_congr _ _ _ _ _ (write_out _ _ _ ny).symm
      · rw [write_out _ x _ c]
        exact memGet_memWrite_congr _ _ _ _ _ (write_out _ _ _ c)

/-- The address `a` of a state is one writer's. -/
def PstMine (w : Writer) (a : Nat) (s : State) : Prop :=
  (∀ x ∈ s.pst.buffer, x.writer = w ∨ ¬x.covers a) ∧ (∀ p ws, s.evr.closing = some (p, ws) → ∀ x ∈ ws, ¬(x.1 ≤ a ∧ a < x.1 + 4)) ∧ ∀ x ∈ s.rfl.store, ¬(x.1 ≤ a ∧ a < x.1 + 4)

theorem mine_of_alone {s : State} {w : Writer} {o n : Nat} (hw : w ≠ .evr ∧ w ≠ .plm) (h : s.pstAlone w o n) (a : Nat) (h1 : o ≤ a) (h2 : a < o + n) : PstMine w a s := by
  obtain ⟨a1, a2, a3⟩ := h
  refine ⟨fun x hx => (a1 x hx).imp id (fun c => ?_), fun p ws e x hx => ?_, fun x hx => ?_⟩
  · unfold PstWord.covers; omega
  · have := (a2 p ws e x hx).resolve_left hw.1; omega
  · have := (a3 x hx).resolve_left hw.2; omega

theorem enter_image (s : State) (w : Writer) (o v : Nat) : (s.pstEnter w o v).pstImage = memWrite s.pstImage o (le 4 (v % 4294967296)) := by
  unfold State.pstImage State.pstEnter; simp only [List.foldl_append, List.foldl_cons, List.foldl_nil]

theorem enter_mine {s : State} {w : Writer} {a : Nat} (h : PstMine w a s) (v : Writer) (o x : Nat) (hv : v = w ∨ ¬(o ≤ a ∧ a < o + 4)) : PstMine w a (s.pstEnter v o x) := by
  refine ⟨fun y hy => ?_, h.2⟩
  have hy : y ∈ s.pst.buffer ++ [⟨v, o, x % 4294967296⟩] := hy
  rw [List.mem_append, List.mem_singleton] at hy
  rcases hy with z | z
  · exact h.1 y z
  · rw [z]; exact hv

theorem feed_mine {s : State} {w : Writer} {a : Nat} (h : PstMine w a s) : PstMine w a s.pstFeedEvr.pstFeedPlm ∧ memGet s.pstFeedEvr.pstFeedPlm.pstImage a = memGet s.pstImage a := by
  have e1 : PstMine w a s.pstFeedEvr ∧ memGet s.pstFeedEvr.pstImage a = memGet s.pstImage a := by
    unfold State.pstFeedEvr
    split
    · rename_i p o v t e
      split
      · have c := h.2.1 p _ e (o, v) List.mem_cons_self
        have m := enter_mine h .evr o v (.inr c)
        refine ⟨⟨m.1, fun q ws hq x hx => ?_, m.2.2⟩, ?_⟩
        · cases hq; exact h.2.1 _ _ e x (List.mem_cons_of_mem _ hx)
        · show memGet (s.pstEnter .evr o v).pstImage a = _
          rw [enter_image]
          exact memGet_memWrite_outside _ _ _ _ (by rw [le_length]; simp only at c; omega)
      · exact ⟨h, rfl⟩
    · exact ⟨h, rfl⟩
  rw [← e1.2]
  have h := e1.1
  clear e1
  generalize s.pstFeedEvr = u at h
  unfold State.pstFeedPlm
  split
  · rename_i o v t e
    split
    · have c := h.2.2 (o, v) (by rw [e]; exact List.mem_cons_self)
      have m := enter_mine h .plm o v (.inr c)
      refine ⟨⟨m.1, m.2.1, fun x hx => h.2.2 x (by rw [e]; exact List.mem_cons_of_mem _ hx)⟩, ?_⟩
      show memGet (u.pstEnter .plm o v).pstImage a = _
      rw [enter_image]
      exact memGet_memWrite_outside _ _ _ _ (by rw [le_length]; simp only at c; omega)
    · exact ⟨h, rfl⟩
  · exact ⟨h, rfl⟩

theorem takeWord_mem (v : Writer) (l : List PstWord) (x : PstWord) (h : x ∈ takeWord v l) : x ∈ l := by
  induction l with
  | nil => exact h
  | cons y l ih =>
    unfold takeWord at h
    split at h
    · exact List.mem_cons_of_mem _ h
    · rcases List.mem_cons.mp h with e | e
      · rw [e]; exact List.mem_cons_self
      · exact List.mem_cons_of_mem _ (ih e)

/-- One word of the arbiter leaves an address of one writer as a reader finds it. -/
theorem step_mine {s : State} {w : Writer} {a : Nat} (h : PstMine w a s) : PstMine w a s.pstStep ∧ memGet s.pstStep.pstImage a = memGet s.pstImage a := by
  have f := feed_mine h
  rw [← f.2]
  have h := f.1
  unfold State.pstStep
  simp only
  clear f
  generalize s.pstFeedEvr.pstFeedPlm = u at h
  split
  · exact ⟨h, rfl⟩
  · rename_i i _
    split
    · exact ⟨h, rfl⟩
    · rename_i x e
      have c := pstCell_pst ({ u with pst := { u.pst with buffer := takeWord (nth .rld pstWriters i) u.pst.buffer, turn := (i + 1) % 8 } }) x.offset x.value
      have xw : x.writer = nth .rld pstWriters i := by simpa using List.find?_some e
      have r : (State.pstCell { u with pst := { u.pst with buffer := takeWord (nth .rld pstWriters i) u.pst.buffer, turn := (i + 1) % 8 } } x.offset x.value).rfl = u.rfl := by
        unfold State.pstCell State.count State.addCount State.raiseIf; simp only; split <;> rfl
      refine ⟨⟨?_, ?_, ?_⟩, ?_⟩
      · rw [c.1]; intro y hy; exact h.1 y (takeWord_mem _ _ _ hy)
      · rw [c.2]; exact h.2.1
      · rw [r]; exact h.2.2
      · unfold State.pstImage
        rw [c.1]
        refine lay_take _ a _ _ x e (fun cv y hy => ?_)
        have : x.writer = w := (h.1 x (List.mem_of_find?_eq_some e)).resolve_right (by simpa using cv)
        rw [← xw, this]
        exact h.1 y hy

theorem put_mine {s : State} {w : Writer} {a : Nat} (h : PstMine w a s) (o v : Nat) : PstMine w a (s.pstPut w o v) ∧
    memGet (s.pstPut w o v).pstImage a = memGet (memWrite s.pstImage o (le 4 (v % 4294967296))) a := by
  have k : ∀ u : State, PstMine w a u → memGet u.pstImage a = memGet s.pstImage a → PstMine w a (u.pstEnter w o v) ∧
      memGet (u.pstEnter w o v).pstImage a = memGet (memWrite s.pstImage o (le 4 (v % 4294967296))) a := by
    intro u hu e
    exact ⟨enter_mine hu w o v (.inl rfl), by rw [enter_image]; exact memGet_memWrite_congr _ _ _ _ _ e⟩
  unfold State.pstPut
  split
  · exact k s h rfl
  · exact k _ (step_mine h).1 (step_mine h).2

theorem until_mine {w v : Writer} {a : Nat} (n : Nat) {s : State} (h : PstMine w a s) : PstMine w a (pstUntil v n s) ∧ memGet (pstUntil v n s).pstImage a = memGet s.pstImage a := by
  induction n generalizing s with
  | zero => exact ⟨h, rfl⟩
  | succ n ih =>
    unfold pstUntil
    split
    · have q := ih (step_mine h).1
      exact ⟨q.1, q.2.trans (step_mine h).2⟩
    · exact ⟨h, rfl⟩

/-- Once a writer's words have drained, its span stands in the cells (R283). -/
theorem drain_mine {w : Writer} {a : Nat} {s : State} (hw : w ≠ .evr ∧ w ≠ .plm) (h : PstMine w a s) : memGet (s.pstDrain w).pst.cells a = memGet s.pstImage a := by
  have q := until_mine (v := w) (8 * s.pst.buffer.length) h
  rw [← q.2]
  have z := pstDrain_none s w hw
  show memGet (s.pstDrain w).pst.cells a = memGet (s.pstDrain w).pstImage a
  have m : PstMine w a (s.pstDrain w) := q.1
  generalize s.pstDrain w = u at z m
  refine (lay_out _ _ _ (fun x hx => ?_)).symm
  refine (m.1 x hx).resolve_left (fun e => ?_)
  unfold State.pstHas at z
  rw [List.any_eq_false] at z
  exact z x hx (by simpa using e)

end Sys2Proof.Machine
end

