-- ==== Sys2Proof/Laws/FactsDma.lean ====
section
/-!
SUPPORT. Small laws about the DMA engine, the dual-clock queues and the safety block.
-/
namespace Sys2Proof.Machine
set_option Elab.async false
open Host (Cell)

/-! ### Descriptors of the DMA engine -/

theorem head_key_ne (n : Nat) : (DMA_CH_W4_HEAD n).key ≠ DMA_DONE_CNT_COUNT.key ∧ (DMA_CH_W4_HEAD n).key ≠ DMA_STATUS_CNTWRAP.key ∧ (DMA_CH_W4_HEAD n).key ≠ DMA_ERR_CNT_COUNT.key := by
  unfold Field.key; simp only [DMA_CH_W4_HEAD, DMA_DONE_CNT_COUNT, DMA_STATUS_CNTWRAP, DMA_ERR_CNT_COUNT]; omega

theorem count_dma (s : State) (f w : Field) : (s.count f w).dma = s.dma ∧ (s.count f w).laneA = s.laneA ∧ (s.count f w).laneB = s.laneB := by
  unfold State.count State.addCount State.raiseIf; simp only; split <;> exact ⟨rfl, rfl, rfl⟩

theorem dmaFinish_facts (s : State) (n : Nat) (j : DmaJob) : (s.dmaFinish n j).dma = { s.dma with jobs := kvErase s.dma.jobs n, records := s.dma.records ++ [⟨n, j.record n s.tb.now, (readDescriptor j.desc).irq⟩] } ∧
    (s.dmaFinish n j).rd DMA_DONE_CNT_COUNT = (s.rd DMA_DONE_CNT_COUNT + 1) % 2 ^ 32 ∧ (s.dmaFinish n j).rd DMA_ERR_CNT_COUNT = (s.rd DMA_ERR_CNT_COUNT + if j.status = 0 then 0 else 1) % 2 ^ 32 ∧
    (∀ m, (s.dmaFinish n j).rd (DMA_CH_W4_HEAD m) = s.rd (DMA_CH_W4_HEAD m)) ∧ (s.dmaFinish n j).laneA = s.laneA ∧ (s.dmaFinish n j).laneB = s.laneB := by
  unfold State.dmaFinish
  simp only
  generalize (DmaRecord.mk n (j.record n s.tb.now) (readDescriptor j.desc).irq) = r
  obtain ⟨u, eu⟩ : ∃ u : State, u = { s with dma := { s.dma with jobs := kvErase s.dma.jobs n, records := s.dma.records ++ [r] } } := ⟨_, rfl⟩
  have ur : ∀ f, u.rd f = s.rd f := fun f => by rw [eu]; rfl
  have ud : u.dma = { s.dma with jobs := kvErase s.dma.jobs n, records := s.dma.records ++ [r] } := by rw [eu]
  have ua : u.laneA = s.laneA ∧ u.laneB = s.laneB := by rw [eu]; exact ⟨rfl, rfl⟩
  rw [← eu]
  clear eu
  have c1 := count_dma u DMA_DONE_CNT_COUNT DMA_STATUS_CNTWRAP
  have lt := rd_lt s DMA_ERR_CNT_COUNT
  by_cases z : j.status = 0
  · rw [if_pos z, if_pos z]
    refine ⟨c1.1.trans ud, ?_, ?_, fun m => ?_, c1.2.1.trans ua.1, c1.2.2.trans ua.2⟩
    · rw [count_rd_same _ (by decide), ur]; rfl
    · rw [count_rd_ne _ (by decide) (by decide), ur]; exact (Nat.mod_eq_of_lt lt).symm
    · rw [count_rd_ne _ (head_key_ne m).1 (head_key_ne m).2.1, ur]
  · rw [if_neg z, if_neg z]
    have c2 := count_dma (u.count DMA_DONE_CNT_COUNT DMA_STATUS_CNTWRAP) DMA_ERR_CNT_COUNT DMA_STATUS_CNTWRAP
    refine ⟨c2.1.trans (c1.1.trans ud), ?_, ?_, fun m => ?_, c2.2.1.trans (c1.2.1.trans ua.1), c2.2.2.trans (c1.2.2.trans ua.2)⟩
    · rw [count_rd_ne _ (by decide) (by decide), count_rd_same _ (by decide), ur]; rfl
    · rw [count_rd_same _ (by decide), count_rd_ne _ (by decide) (by decide), ur]; rfl
    · rw [count_rd_ne _ (head_key_ne m).2.2 (head_key_ne m).2.1, count_rd_ne _ (head_key_ne m).1 (head_key_ne m).2.1, ur]

theorem slice_mid (a b c : Octets) : slice (a ++ b ++ c) a.length b.length = b := by
  unfold slice padTo zeros
  rw [List.append_assoc, List.drop_left, List.take_left]
  simp

theorem leAt_mid (a c : Octets) (n v i : Nat) (h : a.length = i) : leAt (a ++ le n v ++ c) i n = v % 256 ^ n := by
  subst h
  unfold leAt
  have := slice_mid a (le n v) c
  rw [le_length] at this
  rw [this, leVal_le]

theorem record_layout (j : DmaJob) (n : Nat) (t : Time) : octAt (j.record n t) 0 = n % 256 ∧ octAt (j.record n t) 1 = j.status ∧ leAt (j.record n t) 2 2 = j.index % 65536 ∧ leAt (j.record n t) 4 4 = j.done % 2 ^ 32 ∧
    leAt (j.record n t) 8 4 = j.misCount % 2 ^ 32 ∧ leAt (j.record n t) 12 4 = (j.misAddr.getD 0xFFFFFFFF) % 2 ^ 32 ∧ leAt (j.record n t) 16 4 = (j.poisonAt.getD 0xFFFFFFFF) % 2 ^ 32 ∧
    leAt (j.record n t) 20 2 = min 65535 j.poisoned ∧ octAt (j.record n t) 22 = octAt j.desc 0 ∧ leAt (j.record n t) 24 8 = ts64 t % 2 ^ 64 := by
  have st : j.status < 256 := by
    unfold DmaJob.status
    split
    · decide
    · split
      · decide
      · split
        · decide
        · split
          · decide
          · split <;> decide
  have od : octAt j.desc 0 < 256 := by
    unfold octAt leAt
    generalize e : slice j.desc 0 1 = b
    have l : b.length = 1 := by rw [← e]; unfold slice padTo zeros; simp; omega
    obtain ⟨x, rfl⟩ := List.length_eq_one_iff.mp l
    simp only [leVal]
    have := x.isLt
    omega
  have e1 : ∀ v, [octet v] = le 1 v := fun v => rfl
  have go : j.record n t = le 1 n ++ le 1 j.status ++ le 2 j.index ++ le 4 j.done ++ le 4 j.misCount ++ le 4 (j.misAddr.getD 0xFFFFFFFF) ++
      le 4 (j.poisonAt.getD 0xFFFFFFFF) ++ le 2 (min 65535 j.poisoned) ++ le 1 (octAt j.desc 0) ++ le 1 0 ++ le 8 (ts64 t) := by
    unfold DmaJob.record readDescriptor
    simp only [← e1, List.cons_append, List.nil_append, List.append_assoc]
  have p1 : (256 : Nat) ^ 1 = 256 := rfl
  have p2 : (256 : Nat) ^ 2 = 65536 := rfl
  have p4 : (256 : Nat) ^ 4 = 2 ^ 32 := rfl
  have p8 : (256 : Nat) ^ 8 = 2 ^ 64 := rfl
  rw [go]
  generalize j.status = x at st
  generalize octAt j.desc 0 = y at od
  unfold octAt
  generalize ts64 t = z
  generalize j.misAddr.getD 0xFFFFFFFF = m
  generalize j.poisonAt.getD 0xFFFFFFFF = p
  refine ⟨?_, ?_, ?_, ?_, ?_, ?_, ?_, ?_, ?_, ?_⟩
  · have := leAt_mid [] (le 1 x ++ le 2 j.index ++ le 4 j.done ++ le 4 j.misCount ++ le 4 m ++ le 4 p ++ le 2 (min 65535 j.poisoned) ++ le 1 y ++ le 1 0 ++ le 8 z) 1 n 0 rfl
    simpa only [List.append_assoc, List.nil_append, p1] using this
  · have := leAt_mid (le 1 n) (le 2 j.index ++ le 4 j.done ++ le 4 j.misCount ++ le 4 m ++ le 4 p ++ le 2 (min 65535 j.poisoned) ++ le 1 y ++ le 1 0 ++ le 8 z) 1 x 1 rfl
    rw [p1, Nat.mod_eq_of_lt st] at this
    simpa only [List.append_assoc] using this
  · have := leAt_mid (le 1 n ++ le 1 x) (le 4 j.done ++ le 4 j.misCount ++ le 4 m ++ le 4 p ++ le 2 (min 65535 j.poisoned) ++ le 1 y ++ le 1 0 ++ le 8 z) 2 j.index 2 rfl
    simpa only [List.append_assoc, p2] using this
  · have := leAt_mid (le 1 n ++ le 1 x ++ le 2 j.index) (le 4 j.misCount ++ le 4 m ++ le 4 p ++ le 2 (min 65535 j.poisoned) ++ le 1 y ++ le 1 0 ++ le 8 z) 4 j.done 4 rfl
    simpa only [List.append_assoc, p4] using this
  · have := leAt_mid (le 1 n ++ le 1 x ++ le 2 j.index ++ le 4 j.done) (le 4 m ++ le 4 p ++ le 2 (min 65535 j.poisoned) ++ le 1 y ++ le 1 0 ++ le 8 z) 4 j.misCount 8 rfl
    simpa only [List.append_assoc, p4] using this
  · have := leAt_mid (le 1 n ++ le 1 x ++ le 2 j.index ++ le 4 j.done ++ le 4 j.misCount) (le 4 p ++ le 2 (min 65535 j.poisoned) ++ le 1 y ++ le 1 0 ++ le 8 z) 4 m 12 rfl
    simpa only [List.append_assoc, p4] using this
  · have := leAt_mid (le 1 n ++ le 1 x ++ le 2 j.index ++ le 4 j.done ++ le 4 j.misCount ++ le 4 m) (le 2 (min 65535 j.poisoned) ++ le 1 y ++ le 1 0 ++ le 8 z) 4 p 16 rfl
    simpa only [List.append_assoc, p4] using this
  · have := leAt_mid (le 1 n ++ le 1 x ++ le 2 j.index ++ le 4 j.done ++ le 4 j.misCount ++ le 4 m ++ le 4 p) (le 1 y ++ le 1 0 ++ le 8 z) 2 (min 65535 j.poisoned) 20 rfl
    rw [p2, Nat.mod_eq_of_lt (by omega)] at this
    simpa only [List.append_assoc] using this
  · have := leAt_mid (le 1 n ++ le 1 x ++ le 2 j.index ++ le 4 j.done ++ le 4 j.misCount ++ le 4 m ++ le 4 p ++ le 2 (min 65535 j.poisoned)) (le 1 0 ++ le 8 z) 1 y 22 rfl
    rw [p1, Nat.mod_eq_of_lt od] at this
    simpa only [List.append_assoc] using this
  · have := leAt_mid (le 1 n ++ le 1 x ++ le 2 j.index ++ le 4 j.done ++ le 4 j.misCount ++ le 4 m ++ le 4 p ++ le 2 (min 65535 j.poisoned) ++ le 1 y ++ le 1 0) [] 8 z 24 rfl
    rw [p8] at this
    simpa only [List.append_assoc, List.append_nil] using this

theorem tail_lock (n : Fin 16) : lockable (DMA_CH_W3_TAIL n.val) = false ∧ funcOf (DMA_CH_W3_TAIL n.val) = none ∧ bhm0Only (DMA_CH_W3_TAIL n.val) = false := by revert n; decide +kernel

theorem dmaNext (s : State) (n : Nat) : (s.rd (DMA_CH_W4_HEAD n) + 1) % s.dmaSize n % 2 ^ 12 = (s.rd (DMA_CH_W4_HEAD n) + 1) % s.dmaSize n := by
  apply Nat.mod_eq_of_lt
  have l := rd_lt s (DMA_CH_W2_SIZE n)
  have l' : s.rd (DMA_CH_W2_SIZE n) < 4096 := l
  have : s.dmaSize n < 4096 := by unfold State.dmaSize; omega
  have p : 0 < s.dmaSize n := by unfold State.dmaSize; omega
  have := Nat.mod_lt (s.rd (DMA_CH_W4_HEAD n) + 1) p
  omega

theorem wr_refused (s : State) (f : Field) (v : Nat) (d : Descriptor) : (s.wr f v).descRefused d = s.descRefused d := rfl

theorem dmaStart_idle (s : State) (op n : Nat) (b : Bool) (e : BusErrors) (h : s.dmaReady n = false ∨ (b = false ∧ (readDescriptor (s.dmaFetch n)).op ≤ 3 ∧ (readDescriptor (s.dmaFetch n)).op ≠ op)) : s.dmaStart op n b e = s := by
  unfold State.dmaStart
  by_cases r : s.dmaReady n = false
  · rw [if_pos (by simp [r])]
  · rw [if_neg (by simp at r ⊢; exact r)]
    obtain ⟨h1, h2, h3⟩ := h.resolve_left r
    simp only
    rw [if_pos (by simp [h1, h2, h3])]

def dmaTaken (s : State) (n : Nat) : State := s.wr (DMA_CH_W4_HEAD n) ((s.rd (DMA_CH_W4_HEAD n) + 1) % s.dmaSize n)

def dmaJob (s : State) (n : Nat) : DmaJob := newJob (s.rd (DMA_CH_W4_HEAD n)) (s.dmaFetch n) s.elapsed

theorem dmaStart_bad (s : State) (op n : Nat) (e : BusErrors) (r : s.dmaReady n = true) :
    s.dmaStart op n true e = ((dmaTaken s n).wordUncorrected (0x08000000 + (dmaTaken s n).rd (DMA_CH_W1_BASE n) * 32 + s.rd (DMA_CH_W4_HEAD n) * 32)).dmaFinish n { dmaJob s n with descErr := true, poisonAt := some (0x08000000 + (dmaTaken s n).rd (DMA_CH_W1_BASE n) * 32 + s.rd (DMA_CH_W4_HEAD n) * 32), poisoned := 1 } := by
  unfold State.dmaStart
  rw [if_neg (by simp [r])]
  simp only
  rw [if_neg (by simp), if_pos trivial]
  rfl

theorem dmaStart_refused (s : State) (op n : Nat) (e : BusErrors) (r : s.dmaReady n = true) (h : 3 < (readDescriptor (s.dmaFetch n)).op ∨ (readDescriptor (s.dmaFetch n)).op = op)
    (f : s.descRefused (readDescriptor (s.dmaFetch n)) = true) : s.dmaStart op n false e = (dmaTaken s n).dmaFinish n { dmaJob s n with descErr := true } := by
  unfold State.dmaStart
  rw [if_neg (by simp [r])]
  simp only
  rw [if_neg (by simp; omega), if_neg (by simp), if_pos ((wr_refused s (DMA_CH_W4_HEAD n) ((s.rd (DMA_CH_W4_HEAD n) + 1) % s.dmaSize n) (readDescriptor (s.dmaFetch n))).trans f)]
  rfl

theorem dmaStart_work (s : State) (op n : Nat) (e : BusErrors) (r : s.dmaReady n = true) (h : (readDescriptor (s.dmaFetch n)).op = op)
    (f : s.descRefused (readDescriptor (s.dmaFetch n)) = false) : s.dmaStart op n false e = ((dmaTaken s n).dmaWork n (dmaJob s n) (readDescriptor (s.dmaFetch n)) e).freeTick := by
  unfold State.dmaStart
  rw [if_neg (by simp [r])]
  simp only
  rw [if_neg (by simp [h]), if_neg (by simp), if_neg (by rw [wr_refused, f]; simp)]
  rfl

theorem base_key_ne (n : Nat) : (DMA_CH_W1_BASE n).key ≠ (DMA_CH_W4_HEAD n).key := by
  unfold Field.key; simp only [DMA_CH_W4_HEAD, DMA_CH_W1_BASE]; omega

/-! ### Spans that the DMA engine reads and writes -/

theorem memRead_length (m : List Cell) (a n : Nat) : (memRead m a n).length = n := by
  induction n generalizing a with
  | zero => rfl
  | succ n ih => simp [memRead, ih]

theorem busRead_length (s : State) (a n : Nat) : ((s.busRead a n).getD (zeros n)).length = n := by
  unfold State.busRead
  cases h : s.region a n with
  | none => simp [zeros]
  | some p =>
    obtain ⟨r, o⟩ := p
    simp only [Option.getD_some]
    cases r
    · exact memRead_length _ _ _
    · unfold State.regionRead State.freeOctets; simp
    · exact memRead_length _ _ _
    · unfold State.regionRead State.acmRead; simp [memRead_length]

theorem busLane_eq {s t : State} (a : t.laneA = s.laneA) (c : t.lsc = s.lsc) (r : ∀ f ∈ [LSC_ROLE_STATE_A, LSC_CTRL_PREF_B, SAF_BIST_BLOCK_A, SAF_BIST_BLOCK_B], t.rd f = s.rd f) : t.busLane = s.busLane := by
  have e1 := r LSC_ROLE_STATE_A (by simp)
  have e2 := r LSC_CTRL_PREF_B (by simp)
  have e3 := r SAF_BIST_BLOCK_A (by simp)
  have e4 := r SAF_BIST_BLOCK_B (by simp)
  have b : t.blocked = s.blocked := by
    funext l
    cases l
    · show (t.rd _ != 0) = (s.rd _ != 0); rw [e3]
    · show (t.rd _ != 0) = (s.rd _ != 0); rw [e4]
  have k : t.coldLane = s.coldLane := by
    unfold State.coldLane
    rw [b, show t.on LSC_CTRL_PREF_B = s.on LSC_CTRL_PREF_B by show (t.rd _ != 0) = (s.rd _ != 0); rw [e2]]
  have q : t.role .A = s.role .A := by
    show (if t.laneA.leaving then roleOut else t.rd LSC_ROLE_STATE_A) = (if s.laneA.leaving then roleOut else s.rd LSC_ROLE_STATE_A)
    rw [a, e1]
  unfold State.busLane State.actsActive
  rw [c, k, q]

def SafKeys : List Nat := [SAF_FABPAR_CNT_COUNT.key, SAF_STATUS_CNTWRAP.key, SAF_STATUS_FABPAR.key]

theorem parityError_rd (s : State) (n : Nat) {f : Field} (h : f.key ∉ SafKeys) : (s.parityError n).rd f = s.rd f := by
  unfold SafKeys at h
  simp only [List.mem_cons, List.not_mem_nil, or_false, not_or] at h
  unfold State.parityError
  split
  · rfl
  · rw [raise_def, rd_wr_ne _ _ h.2.2, addCount_rd_ne _ h.1 h.2.1]

/-- The counts of the lanes' corrected words. -/
def CeKeys : List Nat := [(LSC_CE_CNT_COUNT .A).key, (LSC_CE_CNT_COUNT .B).key, LSC_STATUS_CEWRAP.key]

theorem wordCorrected_rd (s : State) (a : Nat) {f : Field} (h : f.block ≠ 13) (hb : f.block < 22) (hc : f.key ∉ CeKeys) : (s.wordCorrected a).rd f = s.rd f := by
  unfold CeKeys at hc
  simp only [List.mem_cons, List.not_mem_nil, or_false, not_or] at hc
  unfold State.wordCorrected
  split
  · refine only_rd (pstCorrected_only (μ := 8192) rfl (Only.refl _)) ?_
    have b : ∀ k, k < 22 → k ≠ 13 → (decide (k < 22) && !(8192 : Nat).testBit k) = true := by decide
    exact b _ hb h
  · split
    · unfold State.correctedWord
      generalize s.busLane = l
      cases l
      · exact count_rd_ne _ hc.1 hc.2.2
      · exact count_rd_ne _ hc.2.1 hc.2.2
    · rfl

theorem wordUncorrected_rd (s : State) (a : Nat) {f : Field} (h : f.block ≠ 13) (hb : f.block < 22) : (s.wordUncorrected a).rd f = s.rd f := by
  refine only_rd (wordUncorrected_only (μ := 134225920) rfl (Only.refl _)) ?_
  have b : ∀ k, k < 22 → k ≠ 13 → (decide (k < 22) && !(134225920 : Nat).testBit k) = true := by decide
  exact b _ hb h

theorem spanMeets_rd (s : State) (e : BusErrors) (a n : Nat) {f : Field} (h : f.block ≠ 13) (hb : f.block < 22) (hk : f.key ∉ SafKeys) (hc : f.key ∉ CeKeys) : (s.spanMeets e a n).rd f = s.rd f := by
  unfold State.spanMeets
  simp only
  rw [parityError_rd _ _ hk]
  have k1 : ∀ (L : List Nat) (u : State), (L.foldl State.wordUncorrected u).rd f = u.rd f := by
    intro L; induction L with
    | nil => intro u; rfl
    | cons x L ih => intro u; exact (ih _).trans (wordUncorrected_rd u x h hb)
  have k2 : ∀ (L : List Nat) (u : State), (L.foldl State.wordCorrected u).rd f = u.rd f := by
    intro L; induction L with
    | nil => intro u; rfl
    | cons x L ih => intro u; exact (ih _).trans (wordCorrected_rd u x h hb hc)
  rw [k1, k2]

def DmaSame (s t : State) : Prop := t.laneA = s.laneA ∧ t.laneB = s.laneB ∧ t.lsc = s.lsc ∧ t.dma = s.dma ∧ t.tb = s.tb ∧ t.acm = s.acm ∧ t.pst = s.pst ∧
  ∀ f : Field, f.block ≠ 13 → f.block < 22 → f.key ∉ SafKeys → f.key ∉ CeKeys → t.rd f = s.rd f

theorem DmaSame.trans {s t u : State} (h : DmaSame s t) (g : DmaSame t u) : DmaSame s u := by
  obtain ⟨a1, a2, a3, a4, a5, a6, a7, a8⟩ := h
  obtain ⟨b1, b2, b3, b4, b5, b6, b7, b8⟩ := g
  exact ⟨b1.trans a1, b2.trans a2, b3.trans a3, b4.trans a4, b5.trans a5, b6.trans a6, b7.trans a7, fun f x y z w => (b8 f x y z w).trans (a8 f x y z w)⟩

theorem DmaSame.busLane {s t : State} (h : DmaSame s t) : t.busLane = s.busLane := by
  obtain ⟨a1, a2, a3, a4, a5, a6, a7, a8⟩ := h
  refine busLane_eq a1 a3 ?_
  intro f hf
  simp only [List.mem_cons, List.not_mem_nil, or_false] at hf
  rcases hf with rfl | rfl | rfl | rfl <;> exact a8 _ (by decide) (by decide) (by decide) (by decide)

theorem lane_whole {x y : LaneState} (h : { x with sram := [] } = { y with sram := [] }) (g : x.sram = y.sram) : x = y := by
  have e : ∀ z : LaneState, z = { ({ z with sram := [] } : LaneState) with sram := z.sram } := fun z => rfl
  rw [e x, e y, h, g]

theorem read_facts (r : DmaRun) (e : BusErrors) (a n : Nat) : (r.read e a n).1.done = r.done ∧ (r.read e a n).1.busErr = r.busErr ∧ (r.read e a n).1.first = r.first.or (wordsIn (e.poison ++ e.parity) a n).head? ∧
    (r.read e a n).1.count = r.count + (wordsIn (e.poison ++ e.parity) a n).length ∧
    (r.read e a n).2 = ((r.st.busRead a n).getD (zeros n)).mapIdx (fun i b => if hitsWord (wordsIn (e.poison ++ e.parity) a n) (a + i) then octet 0 else b) ∧ DmaSame r.st (r.read e a n).1.st := by
  refine ⟨rfl, rfl, rfl, rfl, ?_, ?_⟩
  · unfold DmaRun.read
    simp only
    split
    · rename_i h
      rw [List.isEmpty_iff.mp h]
      have : (fun (i : Nat) (b : Byte) => if hitsWord [] (a + i) = true then octet 0 else b) = fun i b => b := by
        funext i b; unfold hitsWord; simp
      rw [this]
      exact (List.mapIdx_eq_iff.mpr (by simp)).symm
    · rfl
  · have o := dmaRun_read_only (μ := 136323080) (r := r) (e := e) (a := a) (n := n) rfl (Only.refl _)
    have p1 : ({ (r.read e a n).1.st.laneA with sram := [] } : LaneState) = { r.st.laneA with sram := [] } ∧ ({ (r.read e a n).1.st.laneB with sram := [] } : LaneState) = { r.st.laneB with sram := [] } := only_part o .lanes rfl
    have p2 : (r.read e a n).1.st.laneA.sram = r.st.laneA.sram ∧ (r.read e a n).1.st.laneB.sram = r.st.laneB.sram := only_part o .sram rfl
    have p3 : (r.read e a n).1.st.pst.cells = r.st.pst.cells := only_part o .pstCells rfl
    have p4 : (r.read e a n).1.st.pst.buffer = r.st.pst.buffer ∧ (r.read e a n).1.st.pst.turn = r.st.pst.turn := only_part o .pstBuffer rfl
    have p5 : (r.read e a n).1.st.pst = r.st.pst := by
      generalize (r.read e a n).1.st.pst = x at p3 p4
      generalize r.st.pst = y at p3 p4
      cases x; cases y; simp only at p3 p4; rw [p3, p4.1, p4.2]
    refine ⟨lane_whole p1.1 p2.1, lane_whole p1.2 p2.2, only_part o .lsc rfl, only_part o .dma rfl, only_part o .tb rfl, only_part o .acm rfl, p5, ?_⟩
    exact fun f h hb hk hc => spanMeets_rd _ _ _ _ h hb hk hc

theorem sramSpan_clean (e : BusErrors) (a : Nat) (bs : Octets) (r : DmaRun) (h : e.lost = []) :
    sramSpan e a bs r = { r with st := r.st.sramWrite r.st.busLane (a % 0x08000000) bs, done := r.done + bs.length } := by
  unfold sramSpan
  rw [h]
  have : wordsIn [] a bs.length = [] := rfl
  simp only [this, List.isEmpty_nil, if_true]
  rfl

theorem sramWrite_lane (s : State) (l : Lane) (o : Nat) (bs : Octets) : ((s.sramWrite l o bs).lane l).sram = memWrite (s.lane l).sram o bs ∧ (s.sramWrite l o bs).lane l.other = s.lane l.other := by
  cases l <;> exact ⟨rfl, rfl⟩

theorem DmaSame.lane {s t : State} (h : DmaSame s t) (l : Lane) : t.lane l = s.lane l := by
  cases l
  · exact h.1
  · exact h.2.1

def heldJob (s : State) (n : Nat) (d : Descriptor) (done count : Nat) (first : Option Nat) : DmaJob := { dmaJob s n with done := done, poisonAt := first, poisoned := count, busErr := false }

theorem hold_facts (v : State) (n : Nat) (j : DmaJob) : let t := (v.dmaHold n j false).freeTick
    kvFind t.dma.jobs n = some j ∧ t.regs = v.regs ∧ (∀ l, t.lane l = v.lane l) := by
  intro t
  refine ⟨kvFind_kvSet_same _ _ _, rfl, fun l => ?_⟩
  cases l <;> rfl

theorem span_core (s : State) (n : Nat) (r : DmaRun) (e : BusErrors) (d : Descriptor) (bs : Octets) (unit : Nat) (hl : e.lost = []) (hd : d.dst < 0x20000000) (hr : r.busErr = false) (hs : DmaSame (dmaTaken s n) r.st) :
    let w := r.write e d.dst bs
    let t := (w.st.dmaHold n ((dmaJob s n).after w unit) (w.busErr && w.done == 0)).freeTick
    memRead (t.lane s.busLane).sram (d.dst % 0x08000000) bs.length = bs ∧ (∀ a, a < d.dst % 0x08000000 ∨ d.dst % 0x08000000 + bs.length ≤ a → memGet (t.lane s.busLane).sram a = memGet (s.lane s.busLane).sram a) ∧
    t.lane s.busLane.other = s.lane s.busLane.other ∧ t.rd (DMA_CH_W4_HEAD n) = (s.rd (DMA_CH_W4_HEAD n) + 1) % s.dmaSize n ∧
    kvFind t.dma.jobs n = some { dmaJob s n with done := (r.done + bs.length) / max 1 unit, poisonAt := r.first, poisoned := r.count, busErr := false } := by
  intro w t
  have w0 : w = { r with st := r.st.sramWrite r.st.busLane (d.dst % 0x08000000) bs, done := r.done + bs.length } := by
    show r.write e d.dst bs = _
    unfold DmaRun.write
    rw [if_pos hd, sramSpan_clean e d.dst bs r hl]
  have bl : r.st.busLane = s.busLane := hs.busLane.trans (busLane_eq rfl rfl (fun f hf => rd_wr_ne _ _ (by
    simp only [List.mem_cons, List.not_mem_nil, or_false] at hf
    rcases hf with rfl | rfl | rfl | rfl <;> (unfold Field.key; simp only [DMA_CH_W4_HEAD, LSC_ROLE_STATE_A, LSC_CTRL_PREF_B, SAF_BIST_BLOCK_A, SAF_BIST_BLOCK_B]; omega))))
  have ll : ∀ l, r.st.lane l = s.lane l := fun l => (hs.lane l).trans (by cases l <;> rfl)
  have wb : (w.busErr && w.done == 0) = false := by rw [w0]; simp [hr]
  have t0 : t = (w.st.dmaHold n ((dmaJob s n).after w unit) false).freeTick := by show State.freeTick _ = _; rw [wb]
  obtain ⟨h1, h2, h3⟩ := hold_facts w.st n ((dmaJob s n).after w unit)
  rw [← t0] at h1 h2 h3
  have ws : w.st = r.st.sramWrite s.busLane (d.dst % 0x08000000) bs := by rw [w0, bl]
  have sl := sramWrite_lane r.st s.busLane (d.dst % 0x08000000) bs
  rw [ll s.busLane, ll s.busLane.other] at sl
  rw [ws] at h2 h3
  have L : (t.lane s.busLane).sram = memWrite (s.lane s.busLane).sram (d.dst % 0x08000000) bs := by rw [h3]; exact sl.1
  refine ⟨by rw [L]; exact memRead_memWrite _ _ _, fun a ha => by rw [L]; exact memGet_memWrite_outside _ _ _ _ ha, by rw [h3]; exact sl.2, ?_, ?_⟩
  · refine (rd_regs (h2.trans (onLane_regs _ _ _)) _).trans ?_
    have hk : (DMA_CH_W4_HEAD n).block = 19 ∧ (DMA_CH_W4_HEAD n).key ∉ SafKeys ∧ (DMA_CH_W4_HEAD n).key ∉ CeKeys := by
      refine ⟨?_, ?_, ?_⟩
      · unfold Field.block Field.key; simp only [DMA_CH_W4_HEAD]; omega
      · unfold SafKeys Field.key
        simp only [DMA_CH_W4_HEAD, SAF_FABPAR_CNT_COUNT, SAF_STATUS_CNTWRAP, SAF_STATUS_FABPAR, List.mem_cons, List.not_mem_nil, or_false]; omega
      · unfold CeKeys Field.key
        simp only [DMA_CH_W4_HEAD, LSC_CE_CNT_COUNT, LSC_STATUS_CEWRAP, lanePart, List.mem_cons, List.not_mem_nil, or_false]; omega
    rw [hs.2.2.2.2.2.2.2 _ (by omega) (by omega) hk.2.1 hk.2.2]
    unfold dmaTaken
    rw [rd_wr_same]
    exact dmaNext s n
  · rw [h1]
    unfold DmaJob.after
    rw [w0]
    simp only [hr]

/-! ### COMPARE -/

theorem taken_head (s : State) (n : Nat) : (dmaTaken s n).rd (DMA_CH_W4_HEAD n) = (s.rd (DMA_CH_W4_HEAD n) + 1) % s.dmaSize n := by
  unfold dmaTaken; rw [rd_wr_same]; exact dmaNext s n

theorem taken_busLane (s : State) (n : Nat) : (dmaTaken s n).busLane = s.busLane := busLane_eq rfl rfl (fun f hf => rd_wr_ne _ _ (by
  simp only [List.mem_cons, List.not_mem_nil, or_false] at hf
  rcases hf with rfl | rfl | rfl | rfl <;> (unfold Field.key; simp only [DMA_CH_W4_HEAD, LSC_ROLE_STATE_A, LSC_CTRL_PREF_B, SAF_BIST_BLOCK_A, SAF_BIST_BLOCK_B]; omega)))

theorem busRead_eq {s t : State} (h1 : t.busLane = s.busLane) (h2 : ∀ l, (t.lane l).sram = (s.lane l).sram) (h3 : t.acmSize = s.acmSize) (h4 : t.acm = s.acm) (h5 : t.pst = s.pst) (h6 : t.freeCount = s.freeCount) (a n : Nat) :
    t.busRead a n = s.busRead a n := by
  have hr : t.region a n = s.region a n := by unfold State.region; rw [h3]
  unfold State.busRead
  rw [hr]
  cases s.region a n with
  | none => rfl
  | some p =>
    obtain ⟨q, o⟩ := p
    cases q
    · simp only [State.regionRead]; rw [h1, h2]
    · simp only [State.regionRead, State.freeOctets]; rw [h6]
    · simp only [State.regionRead, State.pstOctets]; rw [h5]
    · simp only [State.regionRead, State.acmRead]; rw [h4]

theorem taken_busRead (s : State) (n a k : Nat) : (dmaTaken s n).busRead a k = s.busRead a k := busRead_eq (taken_busLane s n) (fun l => by cases l <;> rfl) rfl rfl rfl rfl a k

theorem read_busRead (r : DmaRun) (e : BusErrors) (a n b m : Nat) : (r.read e a n).1.st.busRead b m = r.st.busRead b m := by
  have f := (read_facts r e a n).2.2.2.2.2
  have o := dmaRun_read_only (μ := 136323080) (r := r) (e := e) (a := a) (n := n) rfl (Only.refl _)
  exact busRead_eq f.busLane (fun l => congrArg LaneState.sram (f.lane l)) (only_part o .acmSize rfl) f.2.2.2.2.2.1 f.2.2.2.2.2.2.1 (only_part o .freeCount rfl) b m

theorem busWord_idem (a : Nat) : busWord (busWord a) = busWord a := by
  unfold busWord
  split
  · rw [if_pos (by omega)]; omega
  · rw [if_neg (by omega)]; omega

theorem hits_sub (l : List Nat) (a n x : Nat) (h : hitsWord (wordsIn l a n) x = true) : hitsWord l x = true := by
  unfold hitsWord at h ⊢
  rw [List.any_eq_true] at h ⊢
  obtain ⟨p, hp, e⟩ := h
  unfold wordsIn at hp
  have hp' := (List.mem_filter.mp hp).1
  rw [List.mem_eraseDups, List.mem_map] at hp'
  obtain ⟨q, hq, rfl⟩ := hp'
  exact ⟨q, hq, by rw [busWord_idem] at e; exact e⟩

def missAt (e : BusErrors) (d : Descriptor) (i : Nat) (as bs : Octets) (k : Nat) : Bool := hitsWord (e.poison ++ e.parity) (d.src + (i + k)) || hitsWord (e.poison ++ e.parity) (d.dst + (i + k)) || as[k]? != bs[k]?

theorem some_bne (a b : Byte) : (some a != some b) = (a != b) := rfl

theorem misses_eq (e : BusErrors) (d : Descriptor) (as bs : Octets) (i : Nat) (h : as.length = bs.length) : misses e d i as bs = ((List.range as.length).filter (missAt e d i as bs)).map (fun k => d.src + (i + k)) := by
  induction as generalizing bs i with
  | nil => cases bs <;> rfl
  | cons a as ih =>
    cases bs with
    | nil => simp at h
    | cons b bs =>
      simp only [List.length_cons, Nat.add_right_cancel_iff] at h
      have p0 : missAt e d i (a :: as) (b :: bs) 0 = (hitsWord (e.poison ++ e.parity) (d.src + i) || hitsWord (e.poison ++ e.parity) (d.dst + i) || a != b) := by
        unfold missAt
        rw [List.getElem?_cons_zero, List.getElem?_cons_zero, some_bne, Nat.add_zero]
      have ps : (missAt e d i (a :: as) (b :: bs)) ∘ Nat.succ = missAt e d (i + 1) as bs := by
        funext k
        unfold missAt
        rw [Function.comp, Nat.succ_eq_add_one, List.getElem?_cons_succ, List.getElem?_cons_succ, show i + (k + 1) = i + 1 + k by omega]
      have fs : (fun k => d.src + (i + k)) ∘ Nat.succ = fun k => d.src + (i + 1 + k) := by
        funext k
        show d.src + (i + (k + 1)) = _
        omega
      rw [List.length_cons, List.range_succ_eq_map, List.filter_cons, List.filter_map, ps]
      have go := ih bs (i + 1) h
      by_cases c : missAt e d i (a :: as) (b :: bs) 0 = true
      · rw [if_pos c, List.map_cons, List.map_map, fs, ← go, Nat.add_zero]
        rw [p0] at c
        conv => lhs; unfold misses
        simp only
        rw [if_pos c]
      · rw [if_neg c, List.map_map, fs, ← go]
        rw [p0] at c
        conv => lhs; unfold misses
        simp only
        rw [if_neg c]

/-! ### GATHER -/

def put (u : State) (m : List Cell) : State := u.onLane u.busLane (fun x => { x with sram := m })

theorem put_busLane' (u : State) (l : Lane) (m : List Cell) : (u.onLane l (fun x => { x with sram := m })).busLane = u.busLane := by cases l <;> rfl

theorem put_busLane (u : State) (m : List Cell) : (put u m).busLane = u.busLane := put_busLane' u _ m

theorem put_lane (u : State) (m : List Cell) : ((put u m).lane u.busLane).sram = m := by
  unfold put; generalize u.busLane = l; cases l <;> rfl

theorem put_write (u : State) (m : List Cell) (o : Nat) (bs : Octets) : (put u m).sramWrite (put u m).busLane o bs = put u (memWrite m o bs) := by
  rw [put_busLane]
  unfold put State.sramWrite
  generalize u.busLane = l
  cases l <;> rfl

theorem put_self (u : State) : put u (u.lane u.busLane).sram = u := by
  unfold put; generalize u.busLane = l; cases l <;> rfl

theorem put_region (u : State) (m : List Cell) (a n : Nat) : (put u m).region a n = u.region a n := by
  unfold put; generalize u.busLane = l; cases l <;> rfl

theorem memRead_congr (m m' : List Cell) (a n : Nat) (h : ∀ k, a ≤ k → k < a + n → memGet m k = memGet m' k) : memRead m a n = memRead m' a n := by
  induction n generalizing a with
  | zero => rfl
  | succ n ih =>
    simp only [memRead]
    rw [h a (Nat.le_refl _) (by omega), ih (a + 1) (fun k h1 h2 => h k (by omega) (by omega))]

theorem put_busRead (u : State) (m : List Cell) (a n D S : Nat) (hD : 0x08000000 ≤ D ∧ D + S ≤ 0x08400000) (hm : ∀ k, k < D % 0x08000000 ∨ D % 0x08000000 + S ≤ k → memGet m k = memGet (u.lane u.busLane).sram k)
    (ha : a + n ≤ D ∨ D + S ≤ a) : (put u m).busRead a n = u.busRead a n := by
  unfold State.busRead
  rw [put_region]
  cases h : u.region a n with
  | none => rfl
  | some p =>
    obtain ⟨q, o⟩ := p
    cases q
    · simp only [State.regionRead]
      rw [put_busLane, put_lane]
      have ho : 0x08000000 ≤ a ∧ a + n ≤ 0x08400000 ∧ o = a % 0x08000000 := by
        unfold State.region at h
        split at h
        · rename_i c; simp only [Option.some.injEq, Prod.mk.injEq, true_and] at h; exact ⟨c.1, c.2, h.symm⟩
        · split at h
          · simp at h
          · split at h
            · simp at h
            · split at h <;> simp at h
      refine congrArg _ (memRead_congr _ _ _ _ ?_)
      intro k k1 k2
      exact hm k (by omega)
    · unfold put; generalize u.busLane = l; cases l <;> rfl
    · unfold put; generalize u.busLane = l; cases l <;> rfl
    · unfold put; generalize u.busLane = l; cases l <;> rfl

theorem read_clean (r : DmaRun) (a n : Nat) : r.read ⟨[], [], [], []⟩ a n = (r, (r.st.busRead a n).getD (zeros n)) := by
  unfold DmaRun.read
  have w : wordsIn [] a n = [] := rfl
  simp only [List.append_nil, w, List.isEmpty_nil, if_true, List.length_nil]
  have z : r.st.spanMeets ⟨[], [], [], []⟩ a n = r.st := rfl
  rw [z]
  obtain ⟨s, f, c, dn, b⟩ := r
  unfold DmaRun.note
  cases f <;> rfl

theorem put_readable (u : State) (m : List Cell) (a n : Nat) : (put u m).readable a n = u.readable a n := by
  unfold State.readable; rw [put_region]

theorem gather_clean (u : State) (d : Descriptor) (hD : 0x08000000 ≤ d.dst ∧ d.dst + d.len * d.esize ≤ 0x08400000) (A : Nat → Nat)
    (hA : ∀ k, k < d.len → A k = (d.src + leAt ((u.busRead (d.idx + 4 * k) 4).getD (zeros 4)) 0 4) % 4294967296)
    (hI : ∀ k, k < d.len → d.idx + 4 * k + 4 ≤ d.dst ∨ d.dst + d.len * d.esize ≤ d.idx + 4 * k)
    (hE : ∀ k, k < d.len → u.readable (A k) d.esize = true ∧ (A k + d.esize ≤ d.dst ∨ d.dst + d.len * d.esize ≤ A k)) :
    ∀ n i m dn, i + n = d.len → (∀ k, k < d.dst % 0x08000000 ∨ d.dst % 0x08000000 + d.len * d.esize ≤ k → memGet m k = memGet (u.lane u.busLane).sram k) →
      ∃ m', gatherFrom ⟨[], [], [], []⟩ d n i ⟨put u m, none, 0, dn, false⟩ = ⟨put u m', none, 0, dn + n * d.esize, false⟩ ∧
        (∀ k, k < d.dst % 0x08000000 + i * d.esize ∨ d.dst % 0x08000000 + d.len * d.esize ≤ k → memGet m' k = memGet m k) ∧
        ∀ k, i ≤ k → k < d.len → memRead m' (d.dst % 0x08000000 + k * d.esize) d.esize = (u.busRead (A k) d.esize).getD (zeros d.esize) := by
  intro n
  induction n with
  | zero =>
    intro i m dn hi hm
    exact ⟨m, by rw [Nat.zero_mul]; rfl, fun _ _ => rfl, fun k h1 h2 => by omega⟩
  | succ n ih =>
    intro i m dn hi hm
    have il : i < d.len := by omega
    have q1 := put_busRead u m (d.idx + 4 * i) 4 d.dst (d.len * d.esize) hD hm (hI i il)
    have q2 := put_busRead u m (A i) d.esize d.dst (d.len * d.esize) hD hm (hE i il).2
    have i1 : (i + 1) * d.esize = i * d.esize + d.esize := Nat.succ_mul _ _
    have i2 : (i + 1) * d.esize ≤ d.len * d.esize := Nat.mul_le_mul_right _ il
    obtain ⟨bs, hbs⟩ : ∃ bs, bs = (u.busRead (A i) d.esize).getD (zeros d.esize) := ⟨_, rfl⟩
    have bl : bs.length = d.esize := by rw [hbs]; exact busRead_length _ _ _
    have om : (d.dst + i * d.esize) % 0x08000000 = d.dst % 0x08000000 + i * d.esize := by omega
    have step : gatherFrom ⟨[], [], [], []⟩ d (n + 1) i ⟨put u m, none, 0, dn, false⟩ = gatherFrom ⟨[], [], [], []⟩ d n (i + 1) ⟨put u (memWrite m (d.dst % 0x08000000 + i * d.esize) bs), none, 0, dn + d.esize, false⟩ := by
      conv => lhs; unfold gatherFrom
      rw [if_neg (by simp), read_clean]
      have nb : hitsWord ([] ++ []) (d.idx + 4 * i) = false := rfl
      simp only [nb, Bool.false_eq_true, if_false]
      rw [q1, ← hA i il, put_readable, (hE i il).1, if_pos rfl, read_clean]
      simp only
      rw [q2, ← hbs]
      unfold DmaRun.write
      rw [if_pos (by omega), sramSpan_clean _ _ _ _ rfl]
      simp only
      rw [put_write, om, bl]
    rw [step]
    obtain ⟨m', e1, e2, e3⟩ := ih (i + 1) (memWrite m (d.dst % 0x08000000 + i * d.esize) bs) (dn + d.esize) (by omega) (fun k hk => by
      rw [memGet_memWrite_outside _ _ _ _ (by omega)]; exact hm k hk)
    refine ⟨m', ?_, ?_, ?_⟩
    · rw [e1]
      have : dn + d.esize + n * d.esize = dn + (n + 1) * d.esize := by rw [Nat.succ_mul]; omega
      rw [this]
    · intro k hk
      rw [e2 k (by omega)]
      exact memGet_memWrite_outside _ _ _ _ (by omega)
    · intro k k1 k2
      by_cases ke : k = i
      · subst ke
        rw [memRead_congr m' (memWrite m (d.dst % 0x08000000 + k * d.esize) bs) _ _ (fun x x1 x2 => e2 x (by omega)), ← hbs]
        have := memRead_memWrite m (d.dst % 0x08000000 + k * d.esize) bs
        rw [bl] at this
        exact this
      · exact e3 k (by omega) k2

theorem writable_sram (s : State) (a n : Nat) (h : s.writable a n = true) (ha : a < 0x20000000) : 0x08000000 ≤ a ∧ a + n ≤ 0x08400000 := by
  unfold State.writable State.region at h
  split at h
  · rename_i x e
    split at e
    · rename_i c; exact c
    · split at e
      · simp at e
      · split at e
        · omega
        · split at e <;> simp at e
  · rename_i x e
    split at e
    · simp at e
    · split at e
      · simp at e
      · split at e
        · omega
        · split at e <;> simp at e
  · simp at h

theorem refused_dst (s : State) (d : Descriptor) (f : s.descRefused d = false) (o : d.op ≠ 3) : s.writable d.dst d.span = true := by
  unfold State.descRefused at f
  simp only [Bool.or_eq_false_iff] at f
  have g := f.1.2
  rw [if_neg o] at g
  simpa using g

theorem dma_write_only (r : DmaRun) (e : BusErrors) (d : Descriptor) : Only 140857900539912 r.st (r.copy e d).st ∧ Only 140857900539912 r.st (r.fill e d).st ∧ Only 140857900539912 r.st (gatherFrom e d d.len 0 r).st :=
  ⟨dmaRun_copy_only (μ := 140857900539912) rfl (Only.refl _), dmaRun_fill_only (μ := 140857900539912) rfl (Only.refl _), gatherFrom_only (μ := 140857900539912) rfl (Only.refl _)⟩

theorem head_block (n : Nat) : (DMA_CH_W4_HEAD n).block = 19 := by unfold Field.block Field.key; simp only [DMA_CH_W4_HEAD]; omega

/-! ### Completion of descriptors and their writes into PST -/

theorem end_facts (s : State) (n : Nat) (hn : n < 16) (j : DmaJob) : ∃ r, (s.dmaFinish n j).dma.records = s.dma.records ++ [⟨n, r, (readDescriptor j.desc).irq⟩] ∧ octAt r 0 = n ∧ octAt r 1 = j.status ∧ leAt r 2 2 = j.index % 65536 ∧ leAt r 4 4 = j.done % 2 ^ 32 ∧
    leAt r 8 4 = j.misCount % 2 ^ 32 ∧ leAt r 12 4 = (j.misAddr.getD 0xFFFFFFFF) % 2 ^ 32 ∧ leAt r 16 4 = (j.poisonAt.getD 0xFFFFFFFF) % 2 ^ 32 ∧ leAt r 20 2 = min 65535 j.poisoned ∧ octAt r 22 = octAt j.desc 0 ∧ leAt r 24 8 = ts64 s.tb.now % 2 ^ 64 := by
  obtain ⟨k1, k2, k3, k4, k5, k6⟩ := dmaFinish_facts s n j
  obtain ⟨l0, l1, l2, l3, l4, l5, l6, l7, l8, l9⟩ := record_layout j n s.tb.now
  exact ⟨j.record n s.tb.now, by rw [k1], by rw [l0]; omega, l1, l2, l3, l4, l5, l6, l7, l8, l9⟩

theorem memWrite_append (m : List Cell) (a : Nat) (b c : Octets) : memWrite m a (b ++ c) = memWrite (memWrite m a b) (a + b.length) c := by
  induction b generalizing m a with
  | nil => rfl
  | cons x b ih => simp only [List.cons_append, memWrite, ih, List.length_cons]; congr 1; omega

theorem le_leVal (bs : Octets) : le bs.length (leVal bs) = bs := by
  induction bs with
  | nil => rfl
  | cons b bs ih =>
    have hb : b.toNat < 256 := b.isLt
    simp only [List.length_cons, le, leVal]
    have h1 : octet (b.toNat + 256 * leVal bs) = b := by
      unfold octet
      apply BitVec.eq_of_toNat_eq
      rw [BitVec.toNat_ofNat]; omega
    have h2 : (b.toNat + 256 * leVal bs) / 256 = leVal bs := by omega
    rw [h1, h2, ih]

/-- A span of whole words written into the firmware data partition (R282, R284, R372): where no other writer's word waits for an address of it, a reader finds there what was written. -/
theorem pstSpan_clean : ∀ (n m a : Nat) (bs : Octets) (r : DmaRun), n < m → r.busErr = false → bs.length = 4 * n → a % 4 = 0 → 0x20D80000 ≤ a → a + 4 * n ≤ 0x21000000 →
    ∃ u, pstSpan ⟨[], [], [], []⟩ m a bs r = { r with st := u, done := r.done + 4 * n } ∧
      (∀ q, PstMine .dma q r.st → memGet u.pstImage q = memGet (memWrite r.st.pstImage (a - 0x20000000) bs) q) ∧ Only 140857747447808 r.st u := by
  intro n
  induction n with
  | zero =>
    intro m a bs r hm hr hl ha h1 h2
    have : bs = [] := List.length_eq_zero_iff.mp (by omega)
    subst this
    cases m with
    | zero => omega
    | succ m => exact ⟨r.st, by cases r; rfl, fun _ _ => rfl, Only.refl _⟩
  | succ n ih =>
    intro m a bs r hm hr hl ha h1 h2
    cases m with
    | zero => omega
    | succ m =>
    have al : r.st.pstAllowed .dma (a % 0x20000000) = true := by
      unfold State.pstAllowed
      rw [if_neg (by omega), if_neg (by omega), if_neg (by omega), if_neg (by omega), if_neg (by omega), if_neg (by omega), if_neg (by omega), if_neg (by omega), if_neg (by omega), if_neg (by omega), if_neg (by omega), if_neg (by omega)]
      simp
      omega
    have w : pstWord ⟨[], [], [], []⟩ a (leAt bs 0 4) r = { r with st := r.st.pstPut .dma (a % 0x20000000) (leAt bs 0 4), done := r.done + 4 } := by
      unfold pstWord
      rw [if_neg (by simp [hr]), if_neg (by simp [hitsWord])]
      unfold State.pstWrite DmaRun.answered
      rw [if_pos al]
      rfl
    have t4 : leAt bs 0 4 = leVal (bs.take 4) := by
      unfold leAt slice padTo zeros
      rw [List.drop_zero, show 4 - bs.length = 0 by omega]
      simp
    have l4 : (bs.take 4).length = 4 := by simp; omega
    have v4 := leVal_lt (bs.take 4)
    rw [l4] at v4
    obtain ⟨u, e1, e2, e3⟩ := ih m (a + 4) (bs.drop 4) { r with st := r.st.pstPut .dma (a % 0x20000000) (leAt bs 0 4), done := r.done + 4 } (by omega) hr (by simp; omega) (by omega) (by omega) (by omega)
    refine ⟨u, ?_, fun q hq => ?_, ?_⟩
    · unfold pstSpan
      rw [if_neg (by cases bs <;> simp at hl ⊢), if_neg (by omega), w, e1]
      simp only
      rw [show r.done + 4 + 4 * n = r.done + 4 * (n + 1) by omega]
    · have am : a % 0x20000000 = a - 0x20000000 := by omega
      have am4 : a + 4 - 0x20000000 = a - 0x20000000 + 4 := by omega
      have pm := put_mine hq (a % 0x20000000) (leAt bs 0 4)
      rw [e2 q pm.1, am4]
      conv => rhs; rw [← List.take_append_drop 4 bs]
      rw [memWrite_append, l4]
      refine memGet_memWrite_congr _ _ _ _ _ (pm.2.trans ?_)
      have lv := le_leVal (bs.take 4)
      rw [l4] at lv
      rw [am, t4, show leVal (bs.take 4) % 4294967296 = leVal (bs.take 4) from Nat.mod_eq_of_lt v4, lv]
    · exact (pstPut_only (μ := 140857747447808) rfl (Only.refl _)).trans e3

theorem writable_pst (s : State) (a n : Nat) (h : s.writable a n = true) (ha : 0x20000000 ≤ a) : a + n ≤ 0x21000000 ∧ a % 4 = 0 ∧ n % 4 = 0 := by
  unfold State.writable at h
  have r : s.region a n = if a + n ≤ 0x21000000 then some (.pst, a % 0x20000000) else s.region a n := by
    split
    · rename_i c
      unfold State.region
      rw [if_neg (by omega), if_neg (by omega), if_pos ⟨ha, c⟩]
    · rfl
  split at r
  · rename_i c
    rw [r] at h
    simp only [Bool.and_eq_true, beq_iff_eq] at h
    exact ⟨c, h.1, h.2⟩
  · rename_i c
    exfalso
    unfold State.region at h
    rw [if_neg (by omega), if_neg (by omega), if_neg (by omega)] at h
    split at h
    · rename_i x e; split at e <;> simp at e
    · rename_i x e; split at e <;> simp at e
    · simp at h

theorem pst_core (s : State) (n : Nat) (d : Descriptor) (bs : Octets) (hl : bs.length = d.len) (h1 : 0x20D80000 ≤ d.dst) (h2 : d.dst + d.len ≤ 0x21000000) (h3 : d.len % 4 = 0) (h4 : d.dst % 4 = 0)
    (hm : s.pstAlone .dma (d.dst % 0x20000000) d.len) :
    let w := (DmaRun.mk (dmaTaken s n) none 0 0 false).write ⟨[], [], [], []⟩ d.dst bs
    let t := (w.st.dmaHold n ((dmaJob s n).after w 1) (w.busErr && w.done == 0)).freeTick
    t.pstOctets (d.dst % 0x20000000) d.len = bs ∧ t.rd (DMA_CH_W4_HEAD n) = (s.rd (DMA_CH_W4_HEAD n) + 1) % s.dmaSize n ∧ (∀ l, t.lane l = s.lane l) ∧
    kvFind t.dma.jobs n = some { dmaJob s n with done := d.len } := by
  intro w t
  obtain ⟨u, e1, e2, e3⟩ := pstSpan_clean (d.len / 4) (d.len / 4 + 1) d.dst bs (DmaRun.mk (dmaTaken s n) none 0 0 false) (by omega) rfl (by omega) h4 h1 (by omega)
  have hw : w = { (DmaRun.mk (dmaTaken s n) none 0 0 false) with st := u, done := d.len } := by
    show DmaRun.write _ _ _ _ = _
    unfold DmaRun.write
    rw [if_neg (by omega), hl, e1]
    simp only
    rw [show 0 + 4 * (d.len / 4) = d.len by omega]
  have wb : (w.busErr && w.done == 0) = false := by rw [hw]; rfl
  have t0 : t = (w.st.dmaHold n ((dmaJob s n).after w 1) false).freeTick := by show State.freeTick _ = _; rw [wb]
  obtain ⟨k1, k2, k3⟩ := hold_facts w.st n ((dmaJob s n).after w 1)
  rw [← t0] at k1 k2 k3
  have ws : w.st = u := by rw [hw]
  rw [ws] at k2 k3
  have tp : t.pst = u.pst := by rw [t0, ← ws]; rfl
  refine ⟨?_, ?_, ?_, ?_⟩
  · have m := memRead_memWrite (dmaTaken s n).pstImage (d.dst - 0x20000000) bs
    rw [hl] at m
    rw [pstOctets_image]
    have ti : t.pstImage = u.pstImage := by unfold State.pstImage; rw [tp]
    rw [ti, show d.dst % 0x20000000 = d.dst - 0x20000000 by omega]
    refine Eq.trans (memRead_congr _ _ _ _ (fun k k1 k2 => ?_)) m
    have mm : PstMine .dma k s := mine_of_alone (by decide) hm k (by omega) (by omega)
    exact e2 k mm
  · rw [rd_regs k2, only_rd e3 (by rw [head_block]; decide)]
    exact taken_head s n
  · intro l
    rw [k3]
    have p1 : ({ u.laneA with sram := [] } : LaneState) = { (dmaTaken s n).laneA with sram := [] } ∧ ({ u.laneB with sram := [] } : LaneState) = { (dmaTaken s n).laneB with sram := [] } := only_part e3 .lanes rfl
    have p2 : u.laneA.sram = (dmaTaken s n).laneA.sram ∧ u.laneB.sram = (dmaTaken s n).laneB.sram := only_part e3 .sram rfl
    cases l
    · exact lane_whole p1.1 p2.1
    · exact lane_whole p1.2 p2.2
  · rw [k1]
    unfold DmaJob.after
    rw [hw]
    simp only
    rw [show max 1 1 = 1 from rfl, Nat.div_one]
    rfl

theorem copy_clean (s : State) (n : Nat) (d : Descriptor) : (DmaRun.mk (dmaTaken s n) none 0 0 false).copy ⟨[], [], [], []⟩ d = (DmaRun.mk (dmaTaken s n) none 0 0 false).write ⟨[], [], [], []⟩ d.dst ((s.busRead d.src d.len).getD (zeros d.len)) := by
  unfold DmaRun.copy
  rw [read_clean]
  simp only
  rw [taken_busRead]

theorem pstSpan_stop (e : BusErrors) (n a : Nat) (bs : Octets) (r : DmaRun) (h : r.busErr = true) : pstSpan e n a bs r = r := by
  induction n generalizing a bs with
  | zero => rfl
  | succ n ih =>
    unfold pstSpan
    split
    · rfl
    · split
      · unfold pstPart; rw [if_pos h]
      · rw [show pstWord e a (leAt bs 0 4) r = r by unfold pstWord; rw [if_pos h]]
        exact ih _ _

theorem dma_not_allowed (s : State) (o : Nat) (h : o < 0xD80000) : s.pstAllowed .dma o = false := by
  unfold State.pstAllowed Writer.isLane
  simp only [show (Writer.dma == Writer.rld) = false from rfl, show (Writer.dma == Writer.commit) = false from rfl, show (Writer.dma == Writer.ksu) = false from rfl,     show (Writer.dma == Writer.evr) = false from rfl, show (Writer.dma == Writer.plm) = false from rfl, Bool.false_and, Bool.or_false]
  repeat' split
  all_goals first | rfl | omega

/-! ### The dual-clock queues -/

theorem queue_fw (t : State) (n : Fin 17) (v : Nat) : (t.funcWrite (.queue n) v).waiting = t.waiting ∧ (t.funcWrite (.queue n) v).dcq = t.dcq ∧
    (∀ g : Field, g.key ≠ (DCQ_Q_W0_EN n.val).key → g.key ≠ (DCQ_Q_W0_RUNST n.val).key → (t.funcWrite (.queue n) v).rd g = t.rd g) := by
  rcases funcWrite_cases t (.queue n) v with e | e | e <;> rw [e]
  · exact ⟨rfl, rfl, fun g h1 _ => rd_wr_ne _ _ h1⟩
  · show ((t.wr (DCQ_Q_W0_EN n.val) v).wr (DCQ_Q_W0_RUNST n.val) 3).waiting = _ ∧ ((t.wr (DCQ_Q_W0_EN n.val) v).wr (DCQ_Q_W0_RUNST n.val) 3).dcq = _ ∧ _
    exact ⟨rfl, rfl, fun g h1 h2 => (rd_wr_ne _ _ h2).trans (rd_wr_ne _ _ h1)⟩
  · show ((t.wr (DCQ_Q_W0_EN n.val) v).wr (DCQ_Q_W0_RUNST n.val) 2).waiting = _ ∧ ((t.wr (DCQ_Q_W0_EN n.val) v).wr (DCQ_Q_W0_RUNST n.val) 2).dcq = _ ∧ _
    exact ⟨rfl, rfl, fun g h1 h2 => (rd_wr_ne _ _ h2).trans (rd_wr_ne _ _ h1)⟩

theorem dcq_keys (n : Fin 17) : (DCQ_Q_W0_CMDSEL n.val).key ≠ (DCQ_Q_W0_EN n.val).key ∧ (DCQ_Q_W0_CMDSEL n.val).key ≠ (DCQ_Q_W0_RUNST n.val).key ∧ (DCQ_Q_W0_CMDSEL n.val).key ≠ (DCQ_Q_W0_FLUSH n.val).key ∧ (DCQ_Q_W0_CMDSEL n.val).key ≠ (DCQ_Q_W0_DROP n.val).key ∧
    (DCQ_Q_W3_DISC n.val).key ≠ (DCQ_Q_W0_EN n.val).key ∧ (DCQ_Q_W3_DISC n.val).key ≠ (DCQ_Q_W0_RUNST n.val).key ∧ (DCQ_Q_W3_DISC n.val).key ≠ (DCQ_Q_W0_FLUSH n.val).key ∧ (DCQ_Q_W3_DISC n.val).key ≠ (DCQ_Q_W0_DROP n.val).key ∧ (DCQ_Q_W3_DISC n.val).key ≠ (DCQ_Q_W0_CMDSEL n.val).key ∧
    (DCQ_Q_W3_DISC n.val).key ≠ DCQ_WRAP_WRAP.key ∧ (DCQ_Q_W3_DISC n.val).key ≠ (DCQ_Q_W1_USED n.val).key ∧ (DCQ_Q_W1_USED n.val).key ≠ (DCQ_Q_W0_RUNST n.val).key ∧ (DCQ_Q_W3_DISC n.val).key ≠ DCQ_STATUS_CMDREJ.key ∧ (DCQ_Q_W0_CMDSEL n.val).key ≠ DCQ_STATUS_CMDREJ.key ∧
    DCQ_STATUS_CMDREJ.key ≠ (DCQ_Q_W0_EN n.val).key ∧ DCQ_STATUS_CMDREJ.key ≠ (DCQ_Q_W0_RUNST n.val).key ∧ (DCQ_Q_W2_PERR n.val).key ≠ DCQ_WRAP_WRAP.key ∧ (DCQ_Q_W2_PERR n.val).key ≠ (DCQ_Q_W1_USED n.val).key := by
  have := n.isLt
  unfold Field.key
  simp only [DCQ_Q_W0_CMDSEL, DCQ_Q_W0_EN, DCQ_Q_W0_RUNST, DCQ_Q_W0_FLUSH, DCQ_Q_W0_DROP, DCQ_Q_W3_DISC, DCQ_WRAP_WRAP, DCQ_Q_W1_USED, DCQ_STATUS_CMDREJ, DCQ_Q_W2_PERR]
  omega

theorem discard_facts (s : State) (n : Fin 17) (k : Nat) : (s.dcqDiscard n.val k).rd (DCQ_Q_W3_DISC n.val) = (s.rd (DCQ_Q_W3_DISC n.val) + k) % 2 ^ 32 ∧ (s.dcqDiscard n.val k).waiting = s.waiting ∧ (s.dcqDiscard n.val k).dcq = s.dcq := by
  unfold State.dcqDiscard
  simp only
  split
  · exact ⟨rd_wr_same _ _ _, rfl, rfl⟩
  · exact ⟨(rd_wr_ne _ _ (dcq_keys n).2.2.2.2.2.2.2.2.2.1).trans (rd_wr_same _ _ _), rfl, rfl⟩

theorem others_none (l : List Waiting) (n : Nat) : sumN ((l.filter (fun w => w.dcq != some n)).map (fun w => if w.dcq = some n then w.unread else 0)) = 0 := by
  induction l with
  | nil => rfl
  | cons w l ih =>
    rw [List.filter_cons]
    by_cases c : w.dcq = some n
    · rw [if_neg (by simp [c])]; exact ih
    · rw [if_pos (by simp [c]), List.map_cons, if_neg c]
      show 0 + _ = 0
      rw [ih]

theorem forwardWords_low (s : State) (n : Nat) (h : n < 15) : s.forwardWords n = 0 := by
  unfold State.forwardWords
  rw [if_neg (by omega), if_neg (by omega)]

theorem empty_facts (s : State) (n : Fin 17) (h15 : n.val < 15) : (s.dcqEmpty n.val).waiting = s.waiting.filter (fun w => w.dcq != some n.val) ∧ (s.dcqEmpty n.val).dcq = s.dcq ∧ (s.dcqEmpty n.val).rd (DCQ_Q_W3_DISC n.val) = (s.rd (DCQ_Q_W3_DISC n.val) + s.dcqUsed n.val) % 2 ^ 32 ∧
    (s.dcqEmpty n.val).rd (DCQ_Q_W1_USED n.val) = 0 := by
  unfold State.dcqEmpty
  simp only
  obtain ⟨d1, d2, d3⟩ := discard_facts ({ s with waiting := s.waiting.filter (fun w => w.dcq != some n.val) }) n (s.dcqUsed n.val)
  generalize (({ s with waiting := s.waiting.filter (fun w => w.dcq != some n.val) } : State).dcqDiscard n.val (s.dcqUsed n.val)) = u at d1 d2 d3
  have u0 : u.dcqUsed n.val = 0 := by
    unfold State.dcqUsed
    rw [d2, forwardWords_low u n.val h15]
    exact others_none s.waiting n.val
  refine ⟨d2, d3, ?_, ?_⟩
  · unfold State.dcqCount
    rw [rd_wr_ne _ _ (dcq_keys n).2.2.2.2.2.2.2.2.2.2.1, d1]; rfl
  · unfold State.dcqCount
    rw [rd_wr_same, u0, Nat.zero_mod]

/-- The first frame that the port has begun, with what it has taken; a flush leaves no words waiting. -/
theorem flush_words (s : State) (n : Fin 17) (h15 : 15 ≤ n.val) : (s.setFwd n.val (((s.fwdOf n.val).take 1).flatMap Forward.cut)).forwardWords n.val = 0 := by
  have c : ∀ l : List Forward, sumN (((l.take 1).flatMap Forward.cut).map (·.unread)) = 0 := by
    intro l
    cases l with
    | nil => rfl
    | cons x l =>
      simp only [List.take_succ_cons, List.take_zero, List.flatMap_cons, List.flatMap_nil, List.append_nil]
      unfold Forward.cut
      simp only
      split
      · rename_i h; simp [sumN, h]
      · split
        · rfl
        · rfl
  have : n.val = 15 ∨ n.val = 16 := by omega
  rcases this with e | e <;> rw [e]
  · exact c _
  · exact c _

theorem upd_at {α : Type} (g : α → α) (l : List α) (i : Nat) (x : α) (h : l[i]? = some x) : (updNth g l i)[i]? = some (g x) ∧ ∀ j, j ≠ i → (updNth g l i)[j]? = l[j]? := by
  induction l generalizing i with
  | nil => simp at h
  | cons a l ih =>
    cases i with
    | zero =>
      simp only [List.getElem?_cons_zero, Option.some.injEq] at h
      subst h
      refine ⟨rfl, fun j hj => ?_⟩
      cases j with
      | zero => exact absurd rfl hj
      | succ j => rfl
    | succ i =>
      simp only [List.getElem?_cons_succ] at h
      obtain ⟨h1, h2⟩ := ih i h
      refine ⟨h1, fun j hj => ?_⟩
      cases j with
      | zero => rfl
      | succ j => exact h2 j (by omega)

/-! ### The safety block -/

theorem safc (s : State) (f : State → State) : s.safCommand (0x5AFE#16).toNat f = f s := by unfold State.safCommand; rw [if_neg (by decide)]

theorem bistStart_facts (s : State) (l : Lane) (o : Nat) : (s.bistStart l o).saf.bist = some ⟨l, o⟩ ∧ (s.bistStart l o).rd (bistRunField l) = 1 ∧ (s.bistStart l o).rd (roleField l) = roleBist ∧ (s.bistStart l o).saf.lastBist = s.elapsed ∧
    (s.bistStart l o).saf.ordered = none ∧ (s.bistStart l o).saf.due = false := by
  unfold State.bistStart
  simp only
  obtain ⟨a, ha⟩ : ∃ a : State, a = (s.wr SAF_NEXT_TS64 s.bistNext).onSaf (fun x => { x with bist := some ⟨l, o⟩, ordered := none, due := false, lastLane := some l, lastBist := s.elapsed }) := ⟨_, rfl⟩
  have as : a.saf.bist = some ⟨l, o⟩ ∧ a.saf.lastBist = s.elapsed ∧ a.saf.ordered = none ∧ a.saf.due = false := by rw [ha]; exact ⟨rfl, rfl, rfl, rfl⟩
  rw [← ha]
  clear ha
  obtain ⟨b, hb⟩ : ∃ b : State, b = a.onLane l (fun x => { x with fill := [], sealing := none, closed := false, held := false }) := ⟨_, rfl⟩
  have bs : b.saf = a.saf := by rw [hb]; cases l <;> rfl
  rw [← hb]
  clear hb
  obtain ⟨c, hc⟩ : ∃ c : State, c = (b.wr (LSC_CB_USED l) 0).discardIdle l := ⟨_, rfl⟩
  have cs : c.saf = b.saf := by rw [hc]; exact (only_part (discardIdle_only (μ := 8388608) rfl (Only.refl _)) .saf rfl).trans rfl
  rw [← hc]
  clear hc
  obtain ⟨d, hd⟩ : ∃ d : State, d = c.unwait l (fun _ => true) := ⟨_, rfl⟩
  have ds : d.saf = c.saf := by rw [hd]; exact only_part (unwait_only (μ := 671088644) rfl (Only.refl _)) .saf rfl
  rw [← hd]
  clear hd
  obtain ⟨e, he⟩ : ∃ e : State, e = (d.wr (causeField l) causeBist).setRole l roleBist causeBist := ⟨_, rfl⟩
  have es : e.saf = d.saf := by rw [he]; exact (only_part (setRole_only (μ := 33554440) rfl (Only.refl _)) .saf rfl).trans rfl
  have er : e.rd (roleField l) = roleBist := by rw [he, setRole_rd]; rfl
  rw [← he]
  clear he
  have all : e.saf = a.saf := es.trans (ds.trans (cs.trans bs))
  refine ⟨?_, ?_, ?_, ?_, ?_, ?_⟩
  · exact (congrArg SafState.bist all).trans as.1
  · rw [rd_wr_same]; cases l <;> rfl
  · rw [rd_wr_ne _ _ (by cases l <;> decide)]; exact er
  · exact (congrArg SafState.lastBist all).trans as.2.1
  · exact (congrArg SafState.ordered all).trans as.2.2.1
  · exact (congrArg SafState.due all).trans as.2.2.2

theorem laneReset_other (s : State) (l : Lane) (n : Nat) {f : Field} (h : f.block ≠ 0) (h' : f.block ≠ 3) (hb : f.block < 22) : (s.laneReset l n).rd f = s.rd f := by
  refine only_rd (laneReset_only (μ := 25165833) rfl (Only.refl _)) ?_
  have b : ∀ k, k < 22 → k ≠ 0 → k ≠ 3 → (decide (k < 22) && !(25165833 : Nat).testBit k) = true := by decide
  exact b _ hb h h'

theorem setRole_other (s : State) (l : Lane) (n c : Nat) {f : Field} (h' : f.block ≠ 3) (hb : f.block < 22) : (s.setRole l n c).rd f = s.rd f := by
  refine only_rd (setRole_only (μ := 33554440) rfl (Only.refl _)) ?_
  have b : ∀ k, k < 22 → k ≠ 3 → (decide (k < 22) && !(33554440 : Nat).testBit k) = true := by decide
  exact b _ hb h'

theorem bistResult_facts (s : State) (l : Lane) (r : BistResult) : (s.bistRecord l r).rd (bistResField l) = bistCode r ∧ (s.bistRecord l r).rd (logicSig l) = r.lsig % 2 ^ 64 ∧ (s.bistRecord l r).rd (memorySig l) = r.msig % 2 ^ 64 ∧
    (s.bistRecord l r).rd SAF_STATUS_BISTDONE = 1 ∧ (bistCode r ≠ 1 → (s.bistRecord l r).rd SAF_STATUS_BISTFAIL = 1) ∧ (s.bistRecord l r).rd (bistBlockField l) = (if bistCode r = 1 then 0 else 1) ∧
    (s.bistRecord l r).rd (bistRunField l) = s.rd (bistRunField l) ∧ (s.bistRecord l r).rd (roleField l) = s.rd (roleField l) ∧ (s.bistRecord l r).saf = s.saf ∧ (s.bistRecord l r).lane l = s.lane l ∧ (s.bistRecord l r).tb = s.tb ∧
    (s.bistRecord l r).rd CRZ_SEG_SEG = s.rd CRZ_SEG_SEG ∧ (s.bistRecord l r).waiting = s.waiting := by
  have cd : bistCode r < 4 := by unfold bistCode; split; decide; split <;> decide
  unfold State.bistRecord
  simp only
  have rl : ∀ (u : State) b f, (u.raiseIf b f).saf = u.saf ∧ (u.raiseIf b f).lane l = u.lane l ∧ (u.raiseIf b f).tb = u.tb ∧ (u.raiseIf b f).waiting = u.waiting := by
    intro u b f; unfold State.raiseIf; split
    · exact ⟨rfl, by cases l <;> rfl, rfl, rfl⟩
    · exact ⟨rfl, rfl, rfl, rfl⟩
  obtain ⟨v, hv⟩ : ∃ v : State, v = ((s.wr (bistResField l) (bistCode r)).wr (logicSig l) r.lsig).wr (memorySig l) r.msig := ⟨_, rfl⟩
  have vv : v.saf = s.saf ∧ v.lane l = s.lane l ∧ v.tb = s.tb ∧ v.waiting = s.waiting := by rw [hv]; exact ⟨rfl, by cases l <;> rfl, rfl, rfl⟩
  have v1 : v.rd (bistResField l) = bistCode r := by
    rw [hv, rd_wr_ne _ _ (by cases l <;> decide), rd_wr_ne _ _ (by cases l <;> decide), rd_wr_same]
    exact Nat.mod_eq_of_lt (Nat.lt_trans cd (by cases l <;> decide))
  have v2 : v.rd (logicSig l) = r.lsig % 2 ^ 64 := by rw [hv, rd_wr_ne _ _ (by cases l <;> decide), rd_wr_same]; cases l <;> rfl
  have v3 : v.rd (memorySig l) = r.msig % 2 ^ 64 := by rw [hv, rd_wr_same]; cases l <;> rfl
  have v4 : ∀ f ∈ [bistRunField l, roleField l, CRZ_SEG_SEG], v.rd f = s.rd f := by
    intro f hf
    simp only [List.mem_cons, List.not_mem_nil, or_false] at hf
    rw [hv]
    rcases hf with rfl | rfl | rfl <;> rw [rd_wr_ne _ _ (by cases l <;> decide), rd_wr_ne _ _ (by cases l <;> decide), rd_wr_ne _ _ (by cases l <;> decide)]
  rw [← hv]
  clear hv
  have K : ∀ f, f.key ≠ (bistBlockField l).key → f.key ≠ SAF_STATUS_BISTFAIL.key → f.key ≠ SAF_STATUS_BISTDONE.key →
      (((v.raise SAF_STATUS_BISTDONE).raiseIf (bistCode r != 1) SAF_STATUS_BISTFAIL).wr (bistBlockField l) (b2n (bistCode r != 1))).rd f = v.rd f := by
    intro f h1 h2 h3
    rw [rd_wr_ne _ _ h1, raiseIf_rd_ne _ h2, raise_def, rd_wr_ne _ _ h3]
  refine ⟨?_, ?_, ?_, ?_, fun n => ?_, ?_, ?_, ?_, ?_, ?_, ?_, ?_, ?_⟩
  · rw [K _ (by cases l <;> decide) (by cases l <;> decide) (by cases l <;> decide)]; exact v1
  · rw [K _ (by cases l <;> decide) (by cases l <;> decide) (by cases l <;> decide)]; exact v2
  · rw [K _ (by cases l <;> decide) (by cases l <;> decide) (by cases l <;> decide)]; exact v3
  · rw [rd_wr_ne _ _ (by cases l <;> decide), raiseIf_rd_ne _ (by decide), raise_def, rd_wr_same]; rfl
  · rw [rd_wr_ne _ _ (by cases l <;> decide)]; exact raiseIf_rd_true _ (by simp [n]) (by decide)
  · rw [rd_wr_same]
    unfold b2n
    by_cases c : bistCode r = 1
    · simp [c]
    · have z : (bistCode r != 1) = true := by simp [c]
      rw [z, if_neg c]; cases l <;> rfl
  · rw [K _ (by cases l <;> decide) (by cases l <;> decide) (by cases l <;> decide)]; exact v4 _ (by simp)
  · rw [K _ (by cases l <;> decide) (by cases l <;> decide) (by cases l <;> decide)]; exact v4 _ (by simp)
  · exact ((rl _ _ _).1).trans vv.1
  · exact (wr_lane _ _ _ _).trans (((rl _ _ _).2.1).trans ((wr_lane _ _ _ _).trans vv.2.1))
  · exact ((rl _ _ _).2.2.1).trans vv.2.2.1
  · rw [K _ (by cases l <;> decide) (by decide) (by decide)]; exact v4 _ (by simp)
  · exact ((rl _ _ _).2.2.2).trans vv.2.2.2

theorem sf1Done_eq (s : State) (qt : Option Nat) (ok : Bool) (p : ProofTest) (c : s.saf.test = some p) (q : Nat) (hq : q = qt.elim (s.freeNat 16) (fun v => v % 65536)) (res : Nat) (r3 : (if qt.isNone ∨ 400 < q then 1 else if ok then 0 else 2) = res)
    (a : State) (ha : a = (if qt.isNone then s.freeTick else s)) (rf : Field) (hrf : rf = (if p.path = 0 then SAF_SF1T_RES_A else SAF_SF1T_RES_B)) :
    s.sf1TestDone qt ok = (fun (w : State) => (w.raiseIf (res != 0) SAF_STATUS_SF1TFAIL).post (w.event 68 0 0x02 ([octet (p.path + 1), octet (if p.full then 2 else 1), octet res, octet 0] ++ le 2 q) w.tb.now))
      ((((a.onSaf (fun x => { x with test := none, quietUntil := a.elapsed + 100000000 })).wr SAF_SF1T_RUN 0).wr SAF_SF1T_QTIME q).wr rf (if res = 0 then 1 else 2)) := by
  unfold State.sf1TestDone
  rw [c]
  subst ha; subst hrf; subst r3; subst hq
  cases qt <;> rfl

theorem takeover_rinse (s : State) (l : Lane) : (s.takeover l).rd SAF_STATUS_RINSEUE = s.rd SAF_STATUS_RINSEUE := by
  unfold State.takeover
  simp only
  split
  · rw [(only_rd (pbTakeover_only (μ := 17592186046464) rfl (Only.refl _)) (by decide +kernel)), (only_rd (portTakeover_only (μ := 17592186045952) rfl (Only.refl _)) (by decide +kernel)), (only_rd (portTakeover_only (μ := 17592186045952) rfl (Only.refl _)) (by decide +kernel)), (only_rd (dmaTakeover_only (μ := 4295491584) rfl (Only.refl _)) (by decide +kernel)), (only_rd (discardIdle_only (μ := 8388608) rfl (Only.refl _)) (by decide +kernel)), (only_rd (claimSealed_only (μ := 142606336) rfl (Only.refl _)) (by decide +kernel)), raise_def, rd_wr_ne _ _ (by decide), (only_rd (setRole_only (μ := 33554440) rfl (Only.refl _)) (by decide +kernel))]
  · have a : ∀ u : State, u.bistAbandon.rd SAF_STATUS_RINSEUE = u.rd SAF_STATUS_RINSEUE := by
      intro u
      unfold State.bistAbandon
      split
      · rfl
      · rename_i b _
        simp only
        rw [(only_rd (post_only (μ := 33554432) rfl (Only.refl _)) (by decide +kernel)), raise_def, rd_wr_ne _ _ (by decide), rd_wr_ne _ _ (by cases b.lane <;> decide), rd_wr_ne _ _ (by cases b.lane <;> decide)]
        rfl
    rw [a]
    show State.rd (s.raise LSC_STATUS_NOLANE) _ = _
    rw [raise_def, rd_wr_ne _ _ (by decide)]

theorem laneFault_rinse (s : State) (l : Lane) (c : Nat) : (s.laneFault l c).rd SAF_STATUS_RINSEUE = s.rd SAF_STATUS_RINSEUE := by
  have t : ∀ u : State, (u.takeOut l c).rd SAF_STATUS_RINSEUE = u.rd SAF_STATUS_RINSEUE := by
    intro u
    unfold State.takeOut
    simp only
    split
    · rfl
    · split
      · rw [(only_rd (rldLaneOut_only (μ := 2674132571660288) rfl (Only.refl _)) (by decide +kernel)), (only_rd (settleAlone_only (μ := 301989896) rfl (Only.refl _)) (by decide +kernel)), takeover_rinse, (only_rd (leave_only (μ := 713031692) rfl (Only.refl _)) (by decide +kernel))]
      · rw [(only_rd (rldLaneOut_only (μ := 2674132571660288) rfl (Only.refl _)) (by decide +kernel)), (only_rd (settleAlone_only (μ := 301989896) rfl (Only.refl _)) (by decide +kernel)), (only_rd (leave_only (μ := 713031692) rfl (Only.refl _)) (by decide +kernel))]
  unfold State.laneFault
  simp only
  split
  · rw [t, (only_rd (drEnd_only (μ := 17592664196612) rfl (Only.refl _)) (by decide +kernel))]
  · rw [t]

theorem rinse_fault (s : State) (l : Lane) (h : s.role l ≠ roleOut ∧ s.role l ≠ roleOff ∧ s.role l ≠ roleBist) : ((s.raise SAF_STATUS_RINSEUE).sramFault l).role l = roleOut ∧ ((s.raise SAF_STATUS_RINSEUE).sramFault l).rd (causeField l) = causeSramUe ∧
    ((s.raise SAF_STATUS_RINSEUE).sramFault l).rd (outFlag l) = 1 ∧ ((s.raise SAF_STATUS_RINSEUE).sramFault l).rd SAF_STATUS_RINSEUE = 1 := by
  unfold State.sramFault
  have k : ((s.raise SAF_STATUS_RINSEUE).countAgainst l 2).role l = s.role l := by
    refine (role_keep l (lane_part (only_part (countAgainst_only (μ := 134217728) rfl (Only.refl _)) .lanes rfl) (only_part (countAgainst_only (μ := 134217728) rfl (Only.refl _)) .sram rfl) l) (only_rd (countAgainst_only (μ := 134217728) rfl (Only.refl _)) (block3 _ _ (roleField_block l) rfl))).trans ?_
    exact role_keep l (wr_lane _ _ _ _) (by rw [raise_def]; exact rd_wr_ne _ _ (by cases l <;> decide))
  have f := laneFault_facts ((s.raise SAF_STATUS_RINSEUE).countAgainst l 2) l causeSramUe (by rw [k]; exact h)
  refine ⟨by unfold State.role; rw [f.1]; rfl, f.2.1.trans (by decide), f.2.2, ?_⟩
  rw [laneFault_rinse, (only_rd (countAgainst_only (μ := 134217728) rfl (Only.refl _)) (by decide +kernel)), raise_def, rd_wr_same]; rfl

theorem rinse_count (u : State) (l : Lane) : ∀ v : State, v = (if u.saf.rinseAt + 1 < 524288 then u.onSaf (fun x => { x with rinseAt := x.rinseAt + 1 }) else (u.onSaf (fun x => { x with rinseAt := 0 })).count SAF_RINSE_PASS_COUNT SAF_STATUS_CNTWRAP) →
    v.saf = { u.saf with rinseAt := (if u.saf.rinseAt + 1 < 524288 then u.saf.rinseAt + 1 else 0) } ∧ v.rd SAF_RINSE_PASS_COUNT = (u.rd SAF_RINSE_PASS_COUNT + if u.saf.rinseAt + 1 < 524288 then 0 else 1) % 2 ^ 32 ∧
    (∀ f : Field, f.key ≠ SAF_RINSE_PASS_COUNT.key → f.key ≠ SAF_STATUS_CNTWRAP.key → v.rd f = u.rd f) ∧ v.lane l = u.lane l := by
  intro v hv
  split at hv
  · rename_i c
    rw [hv]
    refine ⟨?_, ?_, fun _ _ _ => rfl, by cases l <;> rfl⟩
    · rw [if_pos c]; rfl
    · rw [if_pos c]; exact (Nat.mod_eq_of_lt (rd_lt u SAF_RINSE_PASS_COUNT)).symm
  · rename_i c
    rw [hv]
    have q : ∀ x : State, (x.count SAF_RINSE_PASS_COUNT SAF_STATUS_CNTWRAP).saf = x.saf ∧ (x.count SAF_RINSE_PASS_COUNT SAF_STATUS_CNTWRAP).lane l = x.lane l := by
      intro x; unfold State.count State.addCount State.raiseIf; simp only; split <;> exact ⟨rfl, by cases l <;> rfl⟩
    refine ⟨?_, ?_, fun f h1 h2 => ?_, ?_⟩
    · rw [if_neg c, (q _).1]; rfl
    · rw [if_neg c, count_rd_same _ (by decide)]; rfl
    · rw [count_rd_ne _ h1 h2]; rfl
    · rw [(q _).2]; cases l <;> rfl

theorem corrected_facts (s : State) (l : Lane) : (s.correctedWord l).rd (LSC_CE_CNT_COUNT l) = (s.rd (LSC_CE_CNT_COUNT l) + 1) % 2 ^ 32 ∧ (s.correctedWord l).rd (LSC_CE_CNT_COUNT l.other) = s.rd (LSC_CE_CNT_COUNT l.other) ∧
    (s.correctedWord l).saf = s.saf ∧ (s.correctedWord l).rd SAF_RINSE_PASS_COUNT = s.rd SAF_RINSE_PASS_COUNT ∧ (∀ m, (s.correctedWord l).rinsePaused m = s.rinsePaused m) := by
  have q : (s.correctedWord l).saf = s.saf ∧ ∀ m, (s.correctedWord l).lane m = s.lane m := by
    unfold State.correctedWord State.count State.addCount State.raiseIf; simp only; split <;> exact ⟨rfl, fun m => by cases m <;> rfl⟩
  refine ⟨?_, ?_, q.1, ?_, fun m => ?_⟩
  · unfold State.correctedWord; rw [count_rd_same _ (by cases l <;> decide)]; cases l <;> rfl
  · unfold State.correctedWord; exact count_rd_ne _ (by cases l <;> decide) (by cases l <;> decide)
  · unfold State.correctedWord; exact count_rd_ne _ (by cases l <;> decide) (by cases l <;> decide)
  · unfold State.rinsePaused State.on
    rw [q.2]
    have : (s.correctedWord l).rd (bistRunField m) = s.rd (bistRunField m) := by
      unfold State.correctedWord; exact count_rd_ne _ (by cases l <;> cases m <;> decide) (by cases l <;> cases m <;> decide)
    rw [this]

theorem rinse_word (s : State) (l : Lane) (m : RinseMeet) (h : s.rinsePaused l = false) (hm : m ≠ .uncorrected) : (s.rinseLane l m).rd (LSC_CE_CNT_COUNT l) = (s.rd (LSC_CE_CNT_COUNT l) + if m = .corrected then 1 else 0) % 2 ^ 32 ∧
    (s.rinseLane l m).rd (LSC_CE_CNT_COUNT l.other) = s.rd (LSC_CE_CNT_COUNT l.other) ∧ (s.rinseLane l m).saf = s.saf ∧ (s.rinseLane l m).rd SAF_RINSE_PASS_COUNT = s.rd SAF_RINSE_PASS_COUNT ∧ (∀ k, (s.rinseLane l m).rinsePaused k = s.rinsePaused k) := by
  unfold State.rinseLane
  rw [if_neg (by rw [h]; decide)]
  cases m with
  | clean => exact ⟨(Nat.mod_eq_of_lt (Nat.lt_of_lt_of_le (rd_lt s (LSC_CE_CNT_COUNT l)) (by cases l <;> decide))).symm, rfl, rfl, rfl, fun _ => rfl⟩
  | corrected => exact corrected_facts s l
  | uncorrected => exact absurd rfl hm

end Sys2Proof.Machine
end

