-- ==== Sys2Proof/Machine/Pins.lean ====
section
/-!
DEFINITION. What the module drives on its pins, as functions of its state (R33, R193, R318, R402, R411, R412, R421 to R424), and what the TAP shifts out as IDCODE.
-/
namespace Sys2Proof.Machine

/-- The levels of the digital outputs that the state of the module decides (R411, R412). -/
structure Pins where
  heartbeat : Bool
  pon : Bool
  ppsOut : Bool
  acmRstN : Bool
  tripA : Bool
  tripB : Bool
  plcSel : Nat
deriving DecidableEq, Repr

/-- A pin, system or power-on reset is asserted (R30, R421): a reset that OTP programming holds off is not yet. -/
def State.inReset (s : State) : Bool := s.sys.por || (s.sys.heldOff.isNone && (s.sys.rstLow || s.sys.extest))

/-- The pins: in a reset PPS_OUT and ACM_RST_N are low and PLC_SEL names no path; HEARTBEAT and PON hold their levels, and the trip outputs are those of the SF1 paths, but
for the gate of a DETECT test (R33, R401, R411, R412, R422). -/
def State.pins (s : State) : Pins where
  heartbeat := s.saf.level
  pon := s.on RTC_PON_PON
  ppsOut := s.tb.pps && !s.inReset
  acmRstN := !s.inReset
  tripA := s.on MTR_SF1_PATHA
  tripB := s.on MTR_SF1_PATHB
  plcSel := if s.inReset then 3 else s.plcSel

/-- What IDCODE shifts out (R424): the version is SYS_ID.STEP, the part 0x2048 and the manufacturer 0x61F, with bit 0 set. -/
def State.idcode (s : State) : Nat := s.rd SYS_ID_STEP % 16 * 2 ^ 28 + 0x2048 * 2 ^ 12 + 0x61F * 2 + 1

end Sys2Proof.Machine
end

