-- ==== Sys2Proof/WellFormed.lean ====
section
/-!
DEFINITION. The operands that a command can carry on this hardware: access sizes, samples, addresses and lengths within the ranges spec/ gives them. `exec` does
not depend on it.
-/
namespace Sys2Proof

/-- The size of an access of a core in octets (R16, R85). -/
def sizeGood (n : Nat) : Bool := n == 1 || n == 2 || n == 4 || n == 8

/-- Every integer of a list within `w` bits in two's complement. -/
def samplesGood (w : Nat) (l : List Int) : Bool := l.all (fun x => decide (-(2 ^ (w - 1) : Int) ≤ x) && decide (x < (2 ^ (w - 1) : Int)))

/-- The two signatures of a BIST have 64 bits (R403). -/
def bistGood (r : BistResult) : Bool := decide (r.lsig < 2 ^ 64) && decide (r.msig < 2 ^ 64)

/-- Addresses of 32 bits (R16). -/
def addressesGood (l : List Nat) : Bool := l.all (fun a => decide (a < 2 ^ 32))

/-- An address of the PST window (R282). -/
def inPst (a : Word) : Bool := decide (0x20000000 ≤ a.toNat) && decide (a.toNat < 0x21000000)

/-- The core of a lane has 16 PMP regions (R85) with address registers of 54 bits. -/
def CoreMeet.wf (x : CoreMeet) : Bool := x.pmp.all (fun l => l.length == 16 && l.all (fun r => decide (r.addr < 2 ^ 54)))

/-- The 8 KiB PUF array as it is read (R320). -/
def arrayGood (a : Octets) : Bool := a.length == 8192

/-- What a store meets: its core, and the nine reads of the PUF array where it makes any (R323). -/
def WriteMeet.wf (x : WriteMeet) : Bool := x.core.wf && (x.reads.isEmpty || (x.reads.length == 9 && x.reads.all arrayGood))

/-- The words that a descriptor meets with errors. -/
def BusErrors.wf (x : BusErrors) : Bool := addressesGood x.poison && addressesGood x.parity && addressesGood x.lost && addressesGood x.corrected

/-- An octet of a frame stands at a UI of a PCS word of ten (R40). -/
def symbolGood (n : Nat) : Bool := decide (n < 10)

/-- The samples of the eleven converters (R256). -/
def rawGood (l : List Int) : Bool := l.length == 11 && samplesGood 32 l

/-- What a path of SF1 sees (R276). -/
def Sf1Seen.wf : Sf1Seen → Bool
  | .analog _ _ => true
  | .digital samples => samplesGood 32 samples

/-- Whether a command's operands are within their ranges. -/
def Instr.wf : Instr → Bool
  | .registerWrite _ _ size value meet => sizeGood size && decide (value.toNat < 2 ^ (8 * size)) && meet.wf
  | .wideValueCommitWrite _ _ _ meet => meet.wf
  | .ndFieldRead _ _ size meet => sizeGood size && meet.core.wf
  | .powerOnResetEnd a b _ => bistGood a && bistGood b
  | .vinCollapse words => decide (words ≤ 64)
  | .tbCounterTick cycles => decide (0 < cycles)
  | .radioFrameReceive _ psdu _ _ => decide (1 ≤ psdu.length) && decide (psdu.length ≤ 125)
  | .plcFrameReceive psdu _ _ _ => decide (1 ≤ psdu.length) && decide (psdu.length ≤ 198)
  | .reflectRunStart noise => noise.length == 64 && noise.all (fun c => c.length == 4096 && samplesGood 16 c)
  | .shot capture _ _ => decide (capture.length ≤ 4096) && samplesGood 16 capture
  | .bhFrameReceive _ symbol _ _ => symbolGood symbol
  | .hsrForward _ symbol _ => symbolGood symbol
  | .txFrameSend _ symbol _ => symbolGood symbol
  | .pauseReceive _ _ _ quanta => quanta.length == 8 && quanta.all (fun q => decide (q < 65536))
  | .meteringSample raw => rawGood raw
  | .meteringStop _ raw => rawGood raw
  | .sf1PathBTrip samples => samplesGood 32 samples
  | .sf1TripRelease seen => seen.wf
  | .pstStore _ addr size _ meet => inPst addr && sizeGood size && meet.wf
  | .pstRead _ addr size core _ => inPst addr && sizeGood size && core.wf
  | .rootRecovery array => arrayGood array
  | .enrolpuf _ _ _ reads => reads.length == 9 && reads.all arrayGood
  | .copy _ _ meet => meet.wf
  | .gather _ _ meet => meet.wf
  | .fill _ _ meet => meet.wf
  | .compare _ _ meet => meet.wf
  | .bistComplete result => bistGood result
  | .sf1TestComplete time _ => decide (time.getD 0 < 65536)
  | _ => true

end Sys2Proof
end

