-- ==== Sys2Proof/Tests/Slice0.lean ====
section
/-!
SUPPORT. Tests of the model: small states that meet the hypotheses of the statements, and what one command does there by the rules of spec/; and ill-formed commands that the check of operands refuses.
-/
open Sys2Proof Sys2Proof.Machine

/-! ### Small states and what a command leaves -/

namespace Sys2Proof.Tests
set_option Elab.async false

/-- The state that a command leaves. -/
def after (c : Instr) (s : State) : State :=
  match Machine.exec c s with
  | .next t => t
  | _ => s

/-- A command answers the state `t`. -/
def gives (c : Instr) (s t : State) : Bool :=
  match Machine.exec c s with
  | .next u => decide (u = t)
  | _ => false

/-- The power-on reset has ended, nothing else has happened. -/
def sUp : State := { State.reset with sys := { State.reset.sys with por := false } }

/-- Lane A is ACTIVE and Lane B SHADOW, the Sequencer stands. -/
def sServe : State := ({ sUp with lsc := { sUp.lsc with coldStart := false } }.wr LSC_ROLE_STATE_A roleActive).wr LSC_ROLE_STATE_B roleShadow

/-- The same with the Sequencer started at Crease 1. -/
def sCrz : State := { sServe.wr CRZ_CTRL_EN 1 with crz := { sServe.crz with oldest := 1 }, lsc := { sServe.lsc with nextDrain := 1 } }

/-- Lane A in deterministic context. -/
def sDet : State := { sServe with laneA := { sServe.laneA with det := true } }

/-- A store that meets nothing. -/
def okWrite : WriteMeet := cleanWrite

/-- A load that meets nothing. -/
def okLoad : LoadMeet := ⟨false, cleanCore⟩

/-- The network time of a state set to `n` ns. -/
def at' (s : State) (n : Nat) : State := { s with tb := { s.tb with now := timeOfNs n } }

/-- `n` octets of a lane's SRAM written. -/
def put (s : State) (o : Nat) (bs : Octets) : State := { s with laneA := { s.laneA with sram := memWrite s.laneA.sram o bs } }

theorem serve_serves : sServe.serves .A := by unfold State.serves; decide +kernel

theorem crz_serves : sCrz.serves .A := by unfold State.serves; decide +kernel

/-! ### The queue, the invariant and register access -/

theorem witness_EmptyQueueIdles : State.reset.pending = [] ∧ (∃ t, step State.reset = .next t ∧ t = State.reset) := ⟨rfl, _, rfl, rfl⟩

theorem test_step_runs_the_front : (match step { sServe with pending := [.clrblk .A 0#16, .pinReset] } with | .next t => t.pending | _ => []) = [.pinReset] := by decide +kernel

theorem witness_StepKeepsInvariant : ({ sServe with pending := [.pinReset] } : State).Inv ∧ ∃ t, step { sServe with pending := [.pinReset] } = .next t := by
  refine ⟨⟨by decide +kernel, by decide +kernel, by decide +kernel, by decide +kernel, ?_, by decide +kernel, by decide +kernel, by decide +kernel, by decide +kernel, ?_, ?_⟩, _, rfl⟩
  · unfold kvWf; decide +kernel
  · unfold Time.ok; decide +kernel
  · intro q h; cases h

theorem witness_CommandsKeepOtherParts : (∃ t, exec (.dmaTailWrite .A 2 7#32) sServe = .next t) ∧ (∀ l, server (.dmaTailWrite .A 2 7#32) = some l → sServe.serves l) ∧ Part.tb ∉ touches (.dmaTailWrite .A 2 7#32) :=
  ⟨⟨_, rfl⟩, fun l h => by cases h; exact serve_serves, by decide⟩

theorem witness_OtpChangesOnceOnly : (∃ t, exec .pinReset sServe = .next t) ∧ Instr.pinReset ≠ .otpEntryProgrammed := ⟨⟨_, rfl⟩, by decide⟩

theorem witness_MisalignedRegisterAccess : sServe.laneRuns .A = true ∧ (0x40000000#32).toNat = 0x40000000 ∧ ((2 : Nat) ≠ 4) ∧ (0x4015FFFF#32).toNat < 0x40160000 ∧ (0x4015FFFF#32).toNat % 4 ≠ 0 := by decide +kernel

theorem test_misaligned_store_faults : gives (.registerWrite .A 0x4015FFFF#32 4 1#64 okWrite) sServe { sServe with laneA := { sServe.laneA with trap := some .storeFault } } = true ∧
    gives (.ndFieldRead .A 0x40000000#32 2 okLoad) sServe { sServe with laneA := { sServe.laneA with trap := some .loadFault } } = true := by decide +kernel

theorem witness_NdReads : sServe.laneRuns .A = true ∧ isNd .A (0x40010004#32).toNat = true ∧ sServe.laneA.det = false ∧ sDet.laneRuns .A = true ∧ sDet.laneA.det = true ∧
    (sServe.regRead .A 0x40010004).1.role .A = roleActive ∧ sServe.laneRuns .B = true ∧ (sServe.regRead .B 0x40010004).1.role .B ≠ roleActive := by decide +kernel

theorem witness_NdReads_core : (sServe.enterCore .A okLoad.core).coreMay .A false 0x40010004 4 = true ∧ (sServe.enterCore .A ⟨true, some [], .clean⟩).coreMay .A false 0x40010004 4 = false := by decide +kernel

theorem test_nd_read : (after (.ndFieldRead .A 0x40010004#32 4 okLoad) sServe).rd (LSC_ND_CNT_COUNT .A) = 1 ∧ (after (.ndFieldRead .A 0x40010004#32 4 okLoad) sDet).laneA.trap = some .loadFault := by decide +kernel

theorem witness_WideReads : sServe.laneRuns .A = true ∧ sServe.laneA.det = false ∧ (findReg 0x40010058).map (fun p => (p.word, p.row.words)) = some (0, 3) ∧
    (findReg 0x40010060).map (fun p => (p.word, p.row.words)) = some (2, 3) ∧ freeOfCapture 0x40010058 = false := by decide +kernel

theorem test_wide_read_holds : (after (.wideValueCaptureRead .A 0x40010060#32 false) ((after (.wideValueCaptureRead .A 0x40010058#32 false) (sServe.wr TB_MASTER_CLOCKID 0x1122334455667788)).wr TB_MASTER_CLOCKID 0)).laneA.data = 0x1122 := by decide +kernel

theorem witness_WideWrites_core : okWrite.atomic = none ∧ (sServe.enterCore .A okWrite.core).coreMay .A true 0x4001005C 4 = true ∧ (sServe.enterCore .A okWrite.core).writeLock .A 0x4001005C 5 = none ∧
    (sServe.enterCore .A okWrite.core).coreMay .A true 0x40010060 4 = true := by decide +kernel

theorem witness_WideWrites : sServe.serves .A ∧ (findReg 0x4001005C).map (fun p => (p.word, p.row.words)) = some (1, 3) ∧ sServe.writeLock .A 0x4001005C 5 = none ∧ okWrite.parity = false ∧
    (let s := after (.wideValueCommitWrite .A 0x4001005C#32 5#32 okWrite) (after (.wideValueCommitWrite .A 0x40010058#32 7#32 okWrite) sServe)
     s.serves .A ∧ kvFind s.laneA.staging 0x40010058 = some 7 ∧ kvFind s.laneA.staging 0x4001005C = some 5) := by unfold State.serves; decide +kernel

theorem test_wide_write_takes_effect :
    (after (.wideValueCommitWrite .A 0x40010060#32 3#32 okWrite) (after (.wideValueCommitWrite .A 0x4001005C#32 5#32 okWrite) (after (.wideValueCommitWrite .A 0x40010058#32 7#32 okWrite) sServe))).rd TB_MASTER_PORTNUM = 7 ∧
    (after (.wideValueCommitWrite .A 0x40010060#32 3#32 okWrite) (after (.wideValueCommitWrite .A 0x4001005C#32 5#32 okWrite) (after (.wideValueCommitWrite .A 0x40010058#32 7#32 okWrite) sServe))).rd TB_MASTER_CLOCKID = 0x300000005 * 65536 := by decide +kernel

theorem witness_LaneStores : sServe.laneRuns .A = true ∧ sServe.laneA.det = false ∧ sServe.actsActive .A = true ∧ sServe.laneRuns .B = true ∧ sServe.laneB.det = false ∧ sServe.actsActive .B = false ∧
    (0x083FFFF8#32).toNat + 8 ≤ 0x08400000 ∧ (0x083FFFF8#32).toNat % 8 = 0 ∧ sServe.laneA.closed = false ∧ (0x07FFFFFF#32).toNat < 0x08000000 := by decide +kernel

theorem witness_LaneStores_core : okWrite.core.word = .clean ∧ (sServe.enterCore .A okWrite.core).coreMay .A true 0x40000014 4 = true ∧ (sServe.enterCore .A okWrite.core).coreMay .A true 0x40010050 4 = true ∧
    (sServe.enterCore .B okWrite.core).coreMay .B true 0x40010050 4 = true ∧ (sServe.enterCore .A okWrite.core).coreMay .A true 0x083FFFF8 8 = true ∧ ({ okWrite with atomic := some AtomicOp.add }).atomic = some .add ∧
    leVal (memRead sServe.laneA.sram 0x3FFFF8 8) = 0 := by decide +kernel

theorem test_atomic_add : leVal (memRead (after (.registerWrite .A 0x08000004#32 4 0xFFFFFFFF#64 { okWrite with atomic := some .add }) (put sServe 4 [5#8])).laneA.sram 4 4) = 4 ∧
    (after (.registerWrite .A 0x08000004#32 4 0xFFFFFFFF#64 { okWrite with atomic := some .add }) (put sServe 4 [5#8])).laneA.data = 5 ∧
    (after (.registerWrite .A 0x40010050#32 4 1#64 { okWrite with atomic := some .add }) sServe).laneA.trap = some .storeFault := by decide +kernel

theorem test_lane_stores : (after (.registerWrite .A 0x40010050#32 4 0x12345678#64 okWrite) sServe).rd TB_LOCK_CFG_LOCK_THR = 0x678 ∧ (after (.registerWrite .B 0x40010050#32 4 0x12345678#64 okWrite) sServe).rd (LSC_SVC_WCNT_COUNT .B) = 1 ∧
    memRead (after (.registerWrite .A 0x083FFFF8#32 8 0x0807060504030201#64 okWrite) sServe).laneA.sram 0x3FFFFE 2 = [7#8, 8#8] ∧ (after (.registerWrite .A 0x07FFFFFF#32 1 1#64 okWrite) sServe).laneA.trap = some .storeFault := by decide +kernel

/-! ### Keys and images for the tests: the P-256 private key 1, the AES-256 key of 32 octets 7 -/

/-- An AES-256 key. -/
def aesKey : Octets := List.replicate 32 (octet 7)

/-- The public key of the private key 1: the base point. -/
def signerKey : Octets := be 33 0x036b17d1f2e12c4247f8bce6e563a440f277037d812deb33a0f4a13945d898c296

/-- An image container, version 1, whose body is the octets 1 to 8, signed with the nonce 1. -/
def image : Octets := be 200 0x4656494d010101000100000000000000482003000800000000000000000000000000000000000000000000000000000000000000000000000000000000000000951dd8c7eb46876725563979b820f44c00000000000000000000000000000000000000000000000000000000000000000000000000000000000000000000000060daa7b6fe940ce06b17d1f2e12c4247f8bce6e563a440f277037d812deb33a0f4a13945d898c29691cd7d9181de6801cf4813ccb27ac9fcc3585830bc609f93d81ec7956dbdc814

/-- A CFG container, version 1, with no section. -/
def config : Octets := be 192 0x4656494d010201000100000000000000482003000000000000000000000000000000000000000000000000000000000000000000000000000000000000000000fcb8e585d41447c2f928ef8aecdfd9250000000000000000000000000000000000000000000000000000000000000000000000000000000000000000000000006b17d1f2e12c4247f8bce6e563a440f277037d812deb33a0f4a13945d898c296f0b441a09270feff123322402cfd9f2dbd08e4a9dd3de16282c4b949de6d070a

/-- A boot header that names slots 0 and 1, with ACMSIZE 32 MiB. -/
def bootHeader : Octets := be 256 0x465642480100000001000000000000020001000000000000000000000000000000000000000000000000000000000000000000000000000000000000000000000000000000000000000000000000000000000000000000000000000000000000000000000000000000000000000000000000000000000000000000000000000000000000000000000000000000000000000000000000000000000000000000000000000000000000000000000000000000000000000000000000000000000000000000000000000000000000000000000000000000000000000000000000000000000000000000000000000000000000000000000000000032c1b1a13cc35aa5

/-- The key slots that containers and frames of the tests use: slot 0 verifies and decrypts nothing else but images, slot 1 decrypts them, slot 3 secures frames. -/
def testSlots : List (Nat × KeySlot) :=
  [(0, ⟨5, 2 ^ opImgVer + 2 ^ ctxBoot + 2 ^ ctxRld, 1, signerKey⟩), (1, ⟨2, 2 ^ opImgDec + 2 ^ ctxBoot + 2 ^ ctxRld, 1, aesKey⟩),
   (3, ⟨1, 2 ^ opLink + 2 ^ ctxRfm + 2 ^ ctxPlm, 1, List.replicate 16 (octet 9)⟩)]

/-- Octets as the cells of the ACM, of which each is kept as its complement. -/
def acmCells : Nat → Octets → List Host.Cell
  | _, [] => []
  | a, b :: bs => if b = octet 255 then acmCells (a + 1) bs else (a, ~~~b) :: acmCells (a + 1) bs

/-- Octets as the cells of the persistent store. -/
def pstCells : Nat → Octets → List Host.Cell
  | _, [] => []
  | a, b :: bs => if b = octet 0 then pstCells (a + 1) bs else (a, b) :: pstCells (a + 1) bs

/-- The module filled and waiting for its cold start, the ACM with a header and a CFG of no section in slot 2, the code store with an image of 8 octets. -/
def sBoot : State :=
  let s := ((sUp.wr LSC_ROLE_STATE_A roleBoot).wr LSC_ROLE_STATE_B roleBoot).wr KSU_STATUS_ROOTOK 1
  { s with acm := acmCells 0 bootHeader ++ acmCells 0x10000 config, ksu := { s.ksu with slots := testSlots }, pst := { s.pst with cells := pstCells 0x10000 image } }

/-! ### Resets and start-up -/

/-- The state with the pin reset held. -/
def sPin : State := after .pinReset sServe

theorem witness_ResetsClear : sServe.sys.por = false ∧ sServe.ksu.commit = none ∧ sServe.sys.rstLow = false ∧ sServe.sys.extest = false ∧ sServe.serves .A ∧ (0xC1A4#16 ≠ 0xC1A5#16) ∧
    (let s := { sServe with lsc := { sServe.lsc with noLane := true } }; s.lanesRun = true ∧ s.lsc.noLane = true) ∧ sServe.rtc.bkpDue = false ∧
    ({ sServe with rtc := { sServe.rtc with bkpDue := true } } : State).rtc.bkpDue = true := by unfold State.serves; decide +kernel

theorem test_resets_set_their_cause : (after .pinReset sServe).rd SYS_RESET_CAUSE_PIN = 1 ∧ (after .pinReset sServe).role .A = roleOff ∧ (after (.sysrst .A 0xC1A5#16 true) sServe).rd SYS_RESET_CAUSE_SOFT = 1 ∧
    (after (.sysrst .A 0xC1A5#16 true) sServe).role .B = roleBoot ∧ gives (.sysrst .A 0xC1A4#16 true) sServe sServe = true ∧
    (after .nolaneReset { sServe with lsc := { sServe.lsc with noLane := true } }).rd SYS_RESET_CAUSE_NOLANE = 1 ∧ (after .powerOnReset sServe).rd SYS_RESET_CAUSE_POR = 1 ∧ (after .powerOnReset sServe).sys.por = true ∧
    (after .powerOnReset sServe).rd SYS_RESET_CAUSE_BKP = 0 ∧ (after .powerOnReset { sServe with rtc := { sServe.rtc with bkpDue := true } }).rd SYS_RESET_CAUSE_BKP = 1 := by decide +kernel

theorem witness_ResetsEnd : State.reset.sys.por = true ∧ State.reset.sys.extest = false ∧ sPin.sys.rstLow = true ∧ sPin.sys.extest = false ∧ sPin.sys.heldOff = none := by decide +kernel

theorem test_power_on_reset_ends : (after (.powerOnResetEnd ⟨1, 2, false, false⟩ ⟨3, 4, false, true⟩ false) State.reset).rd SAF_BIST_RES_B = 3 ∧
    (after (.powerOnResetEnd ⟨1, 2, false, false⟩ ⟨3, 4, false, true⟩ false) State.reset).rd SAF_BIST_BLOCK_B = 1 ∧ (after (.powerOnResetEnd ⟨1, 2, false, false⟩ ⟨3, 4, false, true⟩ false) State.reset).laneA.refilling = true ∧
    (after .pinResetRelease sPin).role .A = roleBoot := by decide +kernel

theorem witness_LaneStartsAgain : (let s := { sServe with laneB := { sServe.laneB with leaving := true } }; s.lanesRun = true ∧ s.laneB.leaving = true) ∧
    (let s := ({ sServe with laneB := { sServe.laneB with refilling := true } }).wr LSC_ROLE_STATE_B roleOut; s.lanesRun = true ∧ s.laneB.refilling = true ∧ s.role .B = roleOut) ∧
    (let s := { sBoot with lsc := { sBoot.lsc with coldStart := false }, rld := { sBoot.rld with header := some ⟨0, 0, 0, 0, 1, 0x2000000⟩ } }
     s.lanesRun = true ∧ s.role .B = roleBoot ∧ s.laneB.refilling = false ∧ s.laneB.loaded = false ∧ s.blocked .B = false ∧ s.lsc.coldStart = false ∧ s.upState = upIdle ∧
     (s.acceptable s.codeStore ctxBoot).2 = true ∧ containerKind s.codeStore = 1 ∧ ((s.acceptable s.codeStore ctxBoot).1.bodyOf s.codeStore ctxBoot).2 = some [octet 1, octet 2, octet 3, octet 4, octet 5, octet 6, octet 7, octet 8]) := by decide +kernel

theorem test_lane_boot_load : (let s := { sBoot with lsc := { sBoot.lsc with coldStart := false }, rld := { sBoot.rld with header := some ⟨0, 0, 0, 0, 1, 0x2000000⟩ } }
     memRead (after (.laneBootLoad .B) s).laneB.sram 0 3 = [octet 1, octet 2, octet 3] ∧ (after (.laneBootLoad .B) s).laneB.loaded = true) := by decide +kernel

theorem test_lane_reset : (after (.laneReset .B) { sServe with laneB := { sServe.laneB with leaving := true } }).rd SYS_RESET_CAUSE_LANEB = 1 ∧
    (after (.sramRefillComplete .B) (({ sServe with laneB := { sServe.laneB with refilling := true } }).wr LSC_ROLE_STATE_B roleOut)).role .B = roleBoot := by decide +kernel

theorem witness_ColdStart_no_header : (let s := { sBoot with acm := [] }; s.bootReady = true ∧ s.chooseHeader = none) ∧ sBoot.bootReady = true ∧ sBoot.chooseHeader = some ⟨0, 0, 0, 0, 1, 0x2000000⟩ ∧ sBoot.lcState ≠ lcRetired := by decide +kernel

/-- The same with its header read and no update to recover. -/
def sBooted : State := { sBoot with acmSize := 0x2000000, rld := { sBoot.rld with booted := true, header := some ⟨0, 0, 0, 0, 1, 0x2000000⟩ } }

theorem boot_containers : sBooted.slotContainer (2 + sBooted.rd RLD_STATE_CFGCUR) = config ∧ sBooted.codeStore = image ∧ sBooted.recordCopy = none ∧ sBooted.upState = 0 := by decide +kernel

theorem boot_accepts (c : Octets) (h : (!sBooted.shapeGood c || decide (containerVersion c < sBooted.rd RLD_MINVER_VERSION)) = false) (h6 : octAt c 6 = 1)
    (v : ecdsaVerify 256 signerKey (c.take (128 + leAt c 20 4)) (slice c (128 + leAt c 20 4) (sigOctets c)) = true) : sBooted.acceptable c ctxBoot = (sBooted, true) := by
  have k : sBooted.keyFor 0 opImgVer ctxBoot = (sBooted, some ⟨5, 2 ^ opImgVer + 2 ^ ctxBoot + 2 ^ ctxRld, 1, signerKey⟩) := rfl
  have e : sBooted.rld.header = some ⟨0, 0, 0, 0, 1, 0x2000000⟩ := rfl
  unfold State.acceptable State.signatureGood
  rw [h, e]
  simp [k, h6, v]

theorem config_signed : ecdsaVerify 256 signerKey (config.take (128 + leAt config 20 4)) (slice config (128 + leAt config 20 4) (sigOctets config)) = true := by decide +kernel

theorem image_signed : ecdsaVerify 256 signerKey (image.take (128 + leAt image 20 4)) (slice image (128 + leAt image 20 4) (sigOctets image)) = true := by decide +kernel

theorem config_accepted : sBooted.acceptable config ctxBoot = (sBooted, true) := boot_accepts _ (by decide +kernel) (by decide +kernel) config_signed

theorem image_accepted : sBooted.acceptable image ctxBoot = (sBooted, true) := boot_accepts _ (by decide +kernel) (by decide +kernel) image_signed

theorem config_body : sBooted.bodyOf config ctxBoot = (sBooted, some []) := by
  have k : sBooted.keyFor 1 opImgDec ctxBoot = (sBooted, some ⟨2, 2 ^ opImgDec + 2 ^ ctxBoot + 2 ^ ctxRld, 1, aesKey⟩) := rfl
  have e : sBooted.rld.header = some ⟨0, 0, 0, 0, 1, 0x2000000⟩ := rfl
  have g : (2 == 2 && padTo 16 (gcmTag aesKey (slice config 40 12) (config.take 64) (slice config 128 (leAt config 20 4))) == slice config 64 16) = true := by decide +kernel
  unfold State.bodyOf
  rw [e]
  have x : padTo (slice config 128 (leAt config 20 4)).length (gcmText aesKey (slice config 40 12) (slice config 128 (leAt config 20 4))) = [] := by decide +kernel
  simp only [k]
  exact (if_pos g).trans (by rw [x])

theorem witness_ColdStart : ∃ (u v w : State) (x : CfgBody) (body : Octets), State.bootRecover (State.readRecord sBooted) = (u, true) ∧ u.cfgBody = (v, some x) ∧ (v.applyCfg x).bootStore = (w, true) ∧
    (w.bodyOf w.codeStore ctxBoot).2 = some body ∧ (w.bodyOf w.codeStore ctxBoot).1.blocked .A = false := by
  refine ⟨sBooted, sBooted, sBooted, ⟨[], [], none⟩, (List.range 8).map (fun n => octet (n + 1)), ?_, ?_, ?_, ?_, ?_⟩
  · unfold State.readRecord State.bootRecover
    simp only [boot_containers.2.2.1, boot_containers.2.2.2]
    rfl
  · unfold State.cfgBody
    have kk : containerKind config = 2 := by decide +kernel
    simp [boot_containers.1, config_accepted, config_body, kk, readSections]
  · show sBooted.bootStore = _
    unfold State.bootStore
    have kk : containerKind image = 1 := by decide +kernel
    simp [boot_containers.2.1, image_accepted, kk]
  · rw [boot_containers.2.1]; decide +kernel
  · rw [boot_containers.2.1]; decide +kernel

theorem test_cold_start_without_header : (after .coldStartBoot { sBoot with acm := [] }).rd RLD_STATUS_NOHDR = 1 := by decide +kernel

theorem witness_FunctionsStartAndStop : sServe.serves .A ∧ sServe.rd (runstField (.channel 15)) = 0 ∧ (sServe.wr (runstField (.channel 15)) 3).serves .A ∧ (sServe.wr (runstField (.channel 15)) 3).up = true ∧
    (sServe.wr (runstField (.channel 15)) 3).rd (runstField (.channel 15)) = 3 ∧ (let s := sServe.wr (runstField (.queue 16)) 2 |>.wr (enField (.queue 16)) 0
      s.rd (runstField (.queue 16)) = 2 ∧ s.funcEmpty (.queue 16) = true ∧ s.rd (enField (.queue 16)) = 0) ∧ (let s := sServe.wr (runstField .pole) 2 |>.wr (enField .pole) 1
      s.up = true ∧ s.rd (runstField .pole) = 2 ∧ s.funcEmpty .pole = true ∧ s.rd (enField .pole) = 1 ∧ Startable s .pole) := by unfold State.serves Startable; decide +kernel

theorem witness_functions_that_share_a_register : Startable sServe .rfA ∧ sServe.rd (runstField .rfA) = 0 ∧ (sServe.wr (runstField .rfB) 1).serves .A ∧ (sServe.wr (runstField .rfB) 1).rd (runstField .rfB) = 1 := by
  unfold Startable State.serves; decide +kernel

theorem test_functions : (after (.functionEnable .A (.channel 15)) sServe).rd (DMA_CH_W0_RUNST 15) = 3 ∧ (after (.functionRunning (.channel 15)) (after (.functionEnable .A (.channel 15)) sServe)).rd (DMA_CH_W0_RUNST 15) = 1 ∧
    (after (.functionDisable .A (.queue 16)) sServe).rd (DCQ_Q_W0_RUNST 16) = 2 ∧ (after (.shutdownComplete (.queue 16)) (after (.functionDisable .A (.queue 16)) sServe)).rd (DCQ_Q_W0_RUNST 16) = 0 := by decide +kernel

theorem witness_SupplyAndTap : sServe.sys.por = false ∧ sServe.sys.extest = false ∧ sServe.ksu.commit = none ∧ (let s := after (.tapInstructionUpdate .extest) sServe
      s.sys.por = false ∧ s.sys.extest = true ∧ s.sys.rstLow = false ∧ s.sys.heldOff = none) ∧ TapInstr.bypass ≠ .extest ∧
    (let s := { sServe with ksu := { sServe.ksu with commit := some lcCalibrate } }; s.ksu.commit = some 1 ∧ s.cry = [] ∧ s.sys.rstLow = false ∧ s.sys.extest = false ∧ s.sys.por = false ∧ s.sys.heldOff = none) ∧
    (let j : CryJob := ⟨0, false, none⟩; ({ sServe with cry := [j] } : State).cry = [j]) := by decide +kernel

/-- R424: stepping 1 reads 0x12048C3F; R411, R412, R422: PLC_SEL and ACM_RST_N in the power-on reset and after it. -/
theorem test_pins : State.reset.idcode = 0x12048C3F ∧ State.reset.pins.plcSel = 3 ∧ State.reset.pins.acmRstN = false ∧ sServe.pins.acmRstN = true := by decide +kernel

theorem test_supply_and_tap : (after (.vinCollapse 0) { sServe with pst := ⟨[], [⟨.dma, 0x380000, 5⟩], 0⟩ }).pst = ⟨[], [], 0⟩ ∧ (after (.vinCollapse 1) { sServe with pst := ⟨[], [⟨.dma, 0x380000, 5⟩], 0⟩ }).pst.cells = [(0x380000, 5#8)] ∧
    (after .referenceOscillatorStop sServe).up = false ∧ (after (.tapInstructionUpdate .bypass) (after (.tapInstructionUpdate .extest) sServe)).role .A = roleBoot ∧
    (after .otpEntryProgrammed { sServe with ksu := { sServe.ksu with commit := some lcCalibrate } }).otp.log = [(0, lcCode 1)] := by decide +kernel

/-! ### The Time Base -/

theorem witness_CounterTicks : sUp.up = true ∧ 0 < 1024 ∧ clampInc ((sServe.wr TB_INTEG_I 0x7FFFFFFF).incBase + (sServe.wr TB_INTEG_I 0x7FFFFFFF).rdI TB_INTEG_I) ≠ (sServe.wr TB_INTEG_I 0x7FFFFFFF).incBase + (sServe.wr TB_INTEG_I 0x7FFFFFFF).rdI TB_INTEG_I := by decide +kernel

theorem test_counter : (after (.tbCounterTick 250000000) sUp).tb.now = ⟨1, 0, 0⟩ ∧ (after (.tbCounterTick 250000000) sUp).cycles = 250000000 ∧ (after (.tbCounterTick 1) (sServe.wr TB_INTEG_I 0x7FFFFFFF)).rd TB_STATUS_INCCLAMP = 1 := by decide +kernel

theorem witness_StepsAtBoundaries : (let s := { sUp with tb := { sUp.tb with phase := 1024, step := some (.load ⟨5, 6, 7⟩) } }; s.up = true ∧ 1024 ≤ s.tb.phase ∧ s.tb.fresh = false ∧ s.tb.step = some (.load ⟨5, 6, 7⟩)) ∧
    (let s := ({ sUp with tb := { sUp.tb with phase := 1024, step := some (.add (-65536)) } }).wr TB_CTRL_SERVO_EN 1; s.up = true ∧ s.tb.step = some (.add (-65536)) ∧ s.rd TB_CTRL_SERVO_EN ≠ 0) := by decide +kernel

theorem test_steps : (after .snapshotBoundary { sUp with tb := { sUp.tb with phase := 1024, step := some (.load ⟨5, 6, 7⟩) } }).tb.now = ⟨5, 6, 7⟩ ∧
    (let s := ({ (at' sUp 3000) with tb := { (at' sUp 3000).tb with phase := 1030, step := some (.add (-65536)) } }).wr TB_CTRL_SERVO_EN 1
     (after .snapshotBoundary s).tb.now = ⟨0, 2999, 0⟩ ∧ (after .snapshotBoundary s).rd TB_STATUS_STATE = tbAcquiring ∧ (after .snapshotBoundary s).tb.phase = 6) ∧
    gives .snapshotBoundary { sUp with tb := { sUp.tb with phase := 1024 } } { sUp with tb := { sUp.tb with phase := 0 } } = true := by decide +kernel

/-- Lane A has staged the lower words of TB_SET. -/
def sStaged (ns : Nat) : State := { sServe with laneA := { sServe.laneA with staging := [(0x40010020, 9), (0x40010024, ns), (0x40010028, 77)] } }

theorem witness_TimeIsSet : (sStaged 999999999).serves .A ∧ kvFind (sStaged 999999999).laneA.staging 0x40010020 = some 9 ∧ kvFind (sStaged 999999999).laneA.staging 0x40010024 = some 999999999 ∧
    kvFind (sStaged 999999999).laneA.staging 0x40010028 = some 77 ∧ ((sStaged 999999999).wr TB_CTRL_SERVO_EN 0).rd TB_CTRL_SERVO_EN = 0 ∧ ((sStaged 999999999).wr TB_CTRL_SERVO_EN 0).serves .A ∧ 999999999 < 1000000000 % 2 ^ 30 := by unfold State.serves; decide +kernel

theorem test_time_is_set : (after (.tbSet .A 1#32) ((sStaged 999999999).wr TB_CTRL_SERVO_EN 0)).tb.step = some (.load ⟨0x10000004D, 999999999, 9⟩) ∧ (after (.tbSet .A 1#32) ((sStaged 1000000000).wr TB_CTRL_SERVO_EN 0)).rd TB_STATUS_SETREJ = 1 ∧
    (after (.tbSet .A 1#32) ((sStaged 0).wr TB_CTRL_SERVO_EN 1)).rd TB_STATUS_SETREJ = 1 ∧ (after (.servoDisable .A) ((sServe.wr TB_CTRL_SERVO_EN 1).wr TB_STATUS_STATE 2)).rd TB_STATUS_STATE = tbFreerun := by decide +kernel

/-- A two-step Sync that has waited `n` cycles for its Follow_Up. -/
def sAwaits (n : Nat) : State := { sUp with tb := { sUp.tb with follow := some ⟨⟨0, 0, 0⟩, 0, 1, n, 0, 0, []⟩ } }

theorem witness_TimeoutsOfTheTimeBase : (let s := sAwaits (sUp.syncCycles + 1); s.up = true ∧ s.tb.follow = some ⟨⟨0, 0, 0⟩, 0, 1, s.syncCycles + 1, 0, 0, []⟩) ∧
    (let s := (({ sUp with tb := { sUp.tb with quiet := 10000000000 } }).wr TB_CTRL_SERVO_EN 1).wr TB_STATUS_STATE tbLocked; s.up = true ∧ s.rd TB_CTRL_SERVO_EN ≠ 0 ∧ max 1 (s.rd TB_SYNC_CFG_TOUT_N) * s.syncCycles < s.tb.quiet ∧ s.rd TB_STATUS_STATE = tbLocked ∧ s.tb.follow = none ∧
      (s.wr TB_STATUS_STATE tbAcquiring).rd TB_STATUS_STATE = tbAcquiring) ∧
    (let s := ({ sUp with tb := { sUp.tb with hold := sUp.rd TB_SYNC_CFG_HOLD_MAX * 250000000 } }).wr TB_STATUS_STATE tbHoldover; s.up = true ∧ s.rd TB_STATUS_STATE = tbHoldover ∧ s.rd TB_SYNC_CFG_HOLD_MAX * 250000000 ≤ s.tb.hold) := by decide +kernel

theorem test_timeouts : (after .followUpTimeout (sAwaits (sUp.syncCycles + 1))).rd TB_ERR_CNT_FUMISS_CNT = 1 ∧
    (after .syncTimeout ((({ sUp with tb := { sUp.tb with quiet := 10000000000 } }).wr TB_CTRL_SERVO_EN 1).wr TB_STATUS_STATE tbLocked)).rd TB_STATUS_STATE = tbHoldover ∧
    (after .syncTimeout ((({ sUp with tb := { sUp.tb with quiet := 10000000000 } }).wr TB_CTRL_SERVO_EN 1).wr TB_STATUS_STATE tbAcquiring)).rd TB_STATUS_STATE = tbFreerun ∧
    (after .holdoverExpiry (({ sUp with tb := { sUp.tb with hold := sUp.rd TB_SYNC_CFG_HOLD_MAX * 250000000 } }).wr TB_STATUS_STATE tbHoldover)).rd TB_STATUS_STATE = tbFreerun := by decide +kernel

/-! ### The Crease Sequencer -/

/-- The closure of Crease 1 is due. -/
def sDue : State := { (at' sCrz 700000000) with tb := { (at' sCrz 700000000).tb with before := 699999996 } }

/-- Crease 1 has been sealed. -/
def sSealed : State := after (.creaseClosure false) sDue

/-- A batch of Crease 1 with one event waits for Lane A. -/
def sBatch : State := { sCrz with crz := { sCrz.crz with oldest := 2, sealed := [⟨1, le 8 1 ++ le 4 1 ++ zeros 52, [⟨⟨0, 150000000, 0⟩, 100, some 0, 5, zeros 16, false, false, []⟩], 1, true, false⟩] } }

/-- An event of channel 100. -/
def anEvent : Event := ⟨⟨0, 650000000, 0⟩, 100, none, 5, zeros 16, false, false, []⟩

/-- An event waits. -/
def sWaits : State := { sDue with waiting := [⟨anEvent, none, 0⟩] }

/-- The pool is full and the intake stands before the event. -/
def sStalled : State := { sWaits with crz := { sWaits.crz with stalled := some (1, 0), stallChan := 100 } }

/-- The entries that Crease 1 would take in the units of Lane A hold another Crease that is not sealed. -/
def sHeldEntries : State := { sBatch with flt := { sBatch.flt with unitA := [⟨5, 0, [], 0, false⟩] }, escA := { sBatch.escA with outs := [⟨5, 0, [], 0, 0, 0, 0, 0, 0, 0, false⟩] } }

theorem witness_CreaseIsSealed : sDue.up = true ∧ sDue.closureDue = true ∧ sDue.lagging .A = false ∧ sDue.lagging .B = false := by decide +kernel

theorem test_crease_is_sealed : sSealed.rd CRZ_SEAL_IDX_IDX = 1 ∧ sSealed.crz.oldest = 2 ∧ sSealed.crz.sealed.map (fun b => (b.k, b.forA, b.forB)) = [(1, true, true)] := by decide +kernel

theorem witness_EventsAreRegistered : sWaits.up = true ∧ sWaits.crzOn = true ∧ sWaits.crz.rest = false ∧ sWaits.crz.stalled = none ∧ takeFirst (fun x => x.ev.chan == 100) sWaits.waiting = some (⟨anEvent, none, 0⟩, []) ∧ sWaits.poolFits anEvent = true ∧
    ({ sWaits with crz := { sWaits.crz with sealed := [⟨0, [], [], 32768, true, true⟩] } } : State).poolFits anEvent = false ∧
    sStalled.crz.stallChan ≠ 64 ∧ sStalled.crz.stalled = some (1, 0) ∧ sStalled.poolUsed + 1 ≤ 32768 ∧ takeFirst (fun x => x.ev.chan == sStalled.crz.stallChan) sStalled.waiting = some (⟨anEvent, none, 0⟩, []) ∧ sStalled.poolFits anEvent = true := by decide +kernel

theorem witness_TimeBaseEvents : (let w : Waiting := ⟨{ anEvent with src := 64 }, none, 0⟩; let s := { sDue with waiting := [w] }
      takeFirst (fun x => x.ev.chan == 64) s.waiting = some (w, []) ∧ s.crz.tbBuf = [] ∧ s.poolFits w.ev = true ∧ ({ sDue with crz := { sDue.crz with tbBuf := [anEvent] } } : State).crz.tbBuf.length < 16) ∧
    16 ≤ (List.replicate 16 anEvent).length := by decide +kernel

theorem test_event_is_registered : (after (.eventRegister 100) sWaits).crz.bins.map (fun b => (b.k, b.events.map (·.seq))) = [(6, [some 0])] ∧ (after (.eventRegister 100) sWaits).waiting = [] ∧
    (after .intakeResume sStalled).crz.stalled = none ∧ (after .intakeResume sStalled).waiting = [] := by decide +kernel

theorem witness_BatchesAreDelivered : sBatch.up = true ∧ (sBatch.waitingBatch .A).map (·.k) = some 1 ∧ sBatch.deliveryHeld .A = false ∧ (sBatch.waitingBatch .A).all (fun b => sBatch.eqUsed .A + 2 + slotsOf b.events + 1 ≤ sBatch.eqSize) = true ∧
    sBatch.felterFree .A 1 = true ∧ sBatch.escortFree .A 1 = true ∧ sBatch.inService .A = true ∧ sBatch.rd (CRZ_EQ_WR_WR .A) < sBatch.eqSize ∧ sHeldEntries.deliveryHeld .A = false ∧ (sHeldEntries.waitingBatch .A).map (·.k) = some 1 ∧
    sHeldEntries.felterFree .A 1 = false ∧ sHeldEntries.escortFree .A 1 = false ∧
    (let s := sBatch.wr (CRZ_EQ_WR_WR .A) (sBatch.eqSize - 2); (s.waitingBatch .A).all (fun b => s.eqSize < s.eqUsed .A + 2 + slotsOf b.events + 1) = true ∧ s.deliveryHeld .A = false) := by decide +kernel

theorem test_batch_is_delivered : (after (.batchDelivery .A false) sBatch).rd (CRZ_EQ_WR_WR .A) = 3 ∧ memRead (after (.batchDelivery .A false) sBatch).laneA.sram (sBatch.eqSlot 0) 2 = [octet 1, octet 0] ∧
    (after (.batchDelivery .A true) sBatch).laneA.leaving = true ∧ (after (.batchDelivery .A false) (sBatch.wr (CRZ_EQ_WR_WR .A) (sBatch.eqSize - 2))).rd (qwaitFlag .A) = 1 := by decide +kernel

theorem witness_SequencerCommands : sServe.serves .A ∧ sServe.crzOn = false ∧ (let s := (({ sServe with lsc := { sServe.lsc with coldStart := true } }).wr LSC_ROLE_STATE_A roleBoot).wr LSC_ROLE_STATE_B roleBoot
      s.serves .A ∧ s.crzOn = false ∧ s.lsc.coldStart = true ∧ s.role s.coldLane = roleBoot ∧ s.blocked s.coldLane = false ∧ (s.lane s.coldLane).leaving = false ∧ s.role s.coldLane.other = roleBoot ∧ s.blocked s.coldLane.other = false) ∧
    (sCrz.crzOn = false ∨ sStalled.crz.stalled.isSome = true) ∧ sCrz.serves .A ∧ sCrz.crzOn = true ∧ (95#7).toNat < 96 ∧ 96 ≤ (96#7).toNat ∧ sCrz.crz.rest = false ∧ sCrz.crz.stalled = none ∧ sCrz.poolFits (sCrz.event 96 0 1 (le 16 (sCrz.rd CRZ_INJ_PAY_PAYLOAD)) sCrz.tb.now) = true := by unfold State.serves; decide +kernel

theorem test_sequencer_commands : (let s := (({ (at' sServe 250000000) with lsc := { sServe.lsc with coldStart := true } }).wr LSC_ROLE_STATE_A roleBoot).wr LSC_ROLE_STATE_B roleBoot
      (after (.crzEnable .A) s).role .A = roleActive ∧ (after (.crzEnable .A) s).role .B = roleShadow ∧ (after (.crzEnable .A) s).crz.oldest = 3) ∧
    (after (.crzDisable .A) { sDue with crz := { sDue.crz with bins := [⟨1, [anEvent]⟩] } }).crz.bins = [] ∧ (after (.injectEvent .A 95#7 1#8) sCrz).rd CRZ_STATUS_INJREJ = 1 ∧
    (after (.injectEvent .A 127#7 1#8) sDue).crz.bins.map (·.k) = [7] := by decide +kernel

/-! ### The lanes and the Lane Supervisor -/

/-- Lane A has the batch of Crease 1 in its queue and is in deterministic context, with one commit record. -/
def sQueue : State :=
  let s := put (sCrz.wr (CRZ_EQ_WR_WR .A) 3) 0 (le 8 1 ++ le 4 1 ++ zeros 20)
  { s with laneA := { s.laneA with det := true, fill := [(0x40010050, 0x12345678)] } }

/-- Its seal of Crease 1 has begun. -/
def sSealing : State := { sQueue with laneA := { sQueue.laneA with sealing := some 1, closed := true } }

/-- Lane A holds the sealed buffer of Crease 1; both lanes have formed its digest. -/
def sDrain : State :=
  { sCrz with laneA := { sCrz.laneA with sealedBuf := some ⟨1, [(0x40010050, 0x12345678)], true⟩, formed := some (1, true) }, laneB := { sCrz.laneB with formed := some (1, true) }, lsc := { sCrz.lsc with compared := some 1 } }

theorem witness_LaneContexts : sServe.laneRuns .A = true ∧ isNd .A (0x40010004#32).toNat = true ∧ sDet.laneRuns .A = true ∧ sDet.laneA.det = true ∧
    (let s := ((sServe.wr (SYS_IRQ_EN_EN .A) 0x1FFFFF).wr TB_STATUS_STCHG 1).wr TB_IRQ_EN_EN 0xFFFF; s.laneRuns .A = true ∧ s.laneA.det = false ∧ s.meip .A = true) ∧
    (sServe.wr (CRZ_EQ_WR_WR .A) 3).rd (CRZ_EQ_RD_RD .A) ≠ (sServe.wr (CRZ_EQ_WR_WR .A) 3).rd (CRZ_EQ_WR_WR .A) ∧ ({ sServe with laneA := { sServe.laneA with mip17 := true } } : State).laneRuns .A = true := by decide +kernel

theorem test_lane_contexts : (after (.mlanectxWrite .A true false) sServe).laneA.det = true ∧ (after (.mlanectxWrite .A true true) sServe).laneA.trap = some .illegalInstruction ∧ (after (.fenceViolation .A (.load 0x40010004#32)) sDet).laneA.trap = some .loadFault ∧
    (after (.fenceViolation .A (.store 0x40030018#32)) sDet).laneA.trap = some .storeFault ∧ (after (.fenceViolation .A .csr) sServe).laneA.trap = none ∧ (after (.fenceViolation .A .timeCsr) sServe).laneA.trap = some .illegalInstruction ∧
    (after (.interruptEntry .A .external) (((sServe.wr (SYS_IRQ_EN_EN .A) 0x1FFFFF).wr TB_STATUS_STCHG 1).wr TB_IRQ_EN_EN 0xFFFF)).laneA.trap = some (.interrupt .external) ∧ gives (.interruptEntry .A .external) sDet sDet = true ∧
    (after (.interruptEntry .A .batchReady) (sServe.wr (CRZ_EQ_WR_WR .A) 3)).laneA.trap = some (.interrupt .batchReady) := by decide +kernel

theorem witness_CommitRecordsAreKept : sQueue.laneRuns .A = true ∧ sQueue.laneA.det = true ∧ (0x4015FFFC#32).toNat % 4 = 0 ∧ (0x4015FFFC#32).toNat < 0x40160000 ∧ 0x4015FFFC#32 ≠ 0x40030100#32 ∧ (0x20FFFFFC#32).toNat < 0x21000000 ∧ sQueue.laneA.fill.length < 32768 ∧
    (1#32).toNat % 2 = 1 ∧ sQueue.laneA.sealing = none ∧ sQueue.frontIndex .A = some 1 ∧ sServe.laneRuns .A = true ∧ sServe.laneA.det = false := by decide +kernel

theorem witness_CommitRecordsAreKept_full : ({ sQueue with laneA := { sQueue.laneA with fill := List.replicate 32768 (0x40010050, 0) } } : State).laneRuns .A = true ∧ 32768 ≤ (List.replicate 32768 ((0x40010050, 0) : Nat × Nat)).length :=
  ⟨by decide +kernel, Nat.le_of_eq List.length_replicate.symm⟩

theorem test_commit_record : (after (.commitRecordStore .A 0x4015FFFC#32 5#32) sQueue).laneA.fill = [(0x40010050, 0x12345678), (0x4015FFFC, 5)] ∧ (after (.commitRecordStore .A 0x4015FFFC#32 5#32) sQueue).rd (LSC_CB_USED .A) = 2 ∧
    (after (.lscSeal .A 1#32) sQueue).laneA.sealing = some 1 ∧ (after (.lscSeal .A 1#32) sQueue).laneA.closed = true ∧ (after (.lscSeal .A 1#32) sServe).laneA.trap = some .storeFault := by decide +kernel

theorem witness_SealsComplete : sSealing.lanesRun = true ∧ sSealing.laneA.sealing = some 1 ∧ sSealing.laneA.sealedBuf = none ∧ sSealing.crz.rest = false ∧ sSealing.frontHeader .A = some (le 8 1 ++ le 4 1 ++ zeros 20) ∧
    ({ sSealing with laneA := { sSealing.laneA with sealedBuf := some ⟨0, [], true⟩ } } : State).laneA.sealedBuf.isSome = true := by decide +kernel

theorem test_seal_completes : (after (.sealComplete .A 0) sSealing).laneA.sealedBuf = some ⟨1, [(0x40010050, 0x12345678)], true⟩ ∧ (after (.sealComplete .A 0) sSealing).rd (CRZ_EQ_RD_RD .A) = 3 ∧ (after (.sealComplete .A 0) sSealing).rd (digestIndex .A) = 1 := by decide +kernel

theorem witness_LaneFaultsTakeOut : sServe.lanesRun = true ∧ sServe.role .A = roleActive ∧ sServe.role .B = roleShadow ∧ (sServe.wr LSC_ROLE_STATE_B roleOut).role .B ≠ roleShadow ∧ (sServe.wr LSC_ROLE_STATE_B roleBist).role .B = roleBist ∧ sServe.rd BHM0_DR_STAT_STATE ≠ 1 := by decide +kernel

theorem test_lane_fault : (after (.laneFault .A .sram) sServe).role .B = roleActive ∧ (after (.laneFault .A .sram) sServe).rd (causeField .A) = causeSramUe ∧ (after (.laneFault .A .sram) sServe).rd LSC_STATUS_TAKEOVER = 1 ∧
    (after (.laneFault .A (.unit 2)) (sServe.wr LSC_ROLE_STATE_B roleOut)).lsc.noLane = true ∧ (after (.laneFault .B .lockstep) (sServe.wr LSC_ROLE_STATE_B roleBist)).rd (outFlag .B) = 0 := by decide +kernel

theorem witness_DrainsRun : (let s := { sDrain with laneB := { sDrain.laneB with formed := none }, cycles := 25000000 }
      s.lanesRun = true ∧ s.activeLane = some .A ∧ s.laneA.formed = some (1, true) ∧ s.lsc.nextDrain ≤ 1 ∧ s.lsc.cmpExpired ≠ some 1 ∧ s.lsc.formedAt + s.cmpWait ≤ s.elapsed ∧ s.digestAwaited 1 .B = true) ∧
    sDrain.up = true ∧ sDrain.lsc.drain = none ∧ sDrain.drainLane = some (.A, ⟨1, [(0x40010050, 0x12345678)], true⟩) ∧ sDrain.drainMay .A 1 = true ∧
    (let s := { sDrain with laneA := { sDrain.laneA with sealedBuf := some ⟨1, [(0x20380000, 7)], true⟩ } }; s.drainLane = some (.A, ⟨1, [(0x20380000, 7)], true⟩) ∧ s.drainMay .A 1 = true) ∧
    ({ sDrain with lsc := { sDrain.lsc with drain := some ⟨1, .A, true⟩ } } : State).lsc.drain = some ⟨1, .A, true⟩ := by decide +kernel

theorem test_drain : (after (.commitDrain ⟨none, [], none⟩) sDrain).rd TB_LOCK_CFG_LOCK_THR = 0x678 ∧ (after (.commitDrain ⟨none, [], none⟩) sDrain).lsc.drain = some ⟨1, .A, true⟩ ∧ (after (.commitDrain ⟨none, [], none⟩) sDrain).lsc.nextDrain = 2 ∧
    (after .drainComplete { sDrain with lsc := { sDrain.lsc with drain := some ⟨1, .A, true⟩ } }).laneA.sealedBuf = none ∧
    (after .cmpWaitExpiry { sDrain with laneB := { sDrain.laneB with formed := none }, cycles := 25000000 }).rd LSC_STATUS_CMPTMO = 1 := by decide +kernel

theorem witness_RoleCommands : sServe.serves .A ∧ sServe.activeLane = some .A ∧ sServe.isShadow .B = true ∧ sServe.role .A = roleActive ∧ sServe.role .B = roleShadow ∧
    (let s := sServe.wr LSC_ROLE_STATE_B roleOut; s.serves .A ∧ s.role .A ≠ roleShadow ∧ s.role .B ≠ roleShadow) ∧ (0x5EA0#16 ≠ 0x5EA1#16) ∧
    (let s := (sServe.wr LSC_ROLE_STATE_B roleBoot).wr LSC_CTRL_AUTOREJOIN 1; s.laneRuns .B = true ∧ s.laneB.det = false ∧ s.role .B = roleBoot ∧ s.role .A = roleActive ∧ s.rd LSC_ROLE_DEGRADED = 0 ∧ s.blocked .B = false ∧ s.rd LSC_CTRL_AUTOREJOIN ≠ 0) := by unfold State.serves; decide +kernel

theorem test_role_commands : (after (.swap .A 0x5EA1#16) sServe).lsc.swap = true ∧ (after (.takeoutA .A 0x5EA1#16) sServe).role .A = roleOut ∧ (after (.takeoutB .A 0x5EA1#16) sServe).rd LSC_CAUSE_B_CAUSE = causeCmd ∧
    gives (.takeoutA .A 0x5EA1#16) (sServe.wr LSC_ROLE_STATE_B roleOut) (sServe.wr LSC_ROLE_STATE_B roleOut) = true ∧ gives (.swap .A 0x5EA0#16) sServe sServe = true ∧ (after (.rejoin .A 0x5EA1#16) (sServe.wr LSC_ROLE_DEGRADED 1)).rd LSC_ROLE_DEGRADED = 0 ∧
    (after (.lscJoin .B 1#32) ((sServe.wr LSC_ROLE_STATE_B roleBoot).wr LSC_CTRL_AUTOREJOIN 1)).role .B = roleJoining := by decide +kernel

/-! ### Felter and the Launch Unit -/

/-- A program over the first octet of the payload, with an operation. -/
def aProg (op : Nat) : Prog := ⟨true, false, true, 0, op, 0, 127, 0, 0, 0, 0, 2047, 0, 0, false, 0, 1, 0, 4⟩

/-- Two events with operands 200 (−56 as signed) and 7. -/
def twoEvents : List Event := [⟨⟨0, 1, 0⟩, 100, some 0, 5, [octet 200] ++ zeros 15, false, false, []⟩, ⟨⟨0, 2, 0⟩, 101, some 0, 5, [octet 7] ++ zeros 15, false, false, []⟩]

/-- A record to be sent at 1 ms, in a module that is no collector. -/
def aRecord : ResultRecord := ⟨1, 1, false, 0, 0, [], 1000000, false, 0, 0, 0, 0, 100, 500, 1⟩

def sRecord : State := { (at' sCrz 1000000) with flt := { sCrz.flt with records := [aRecord] } }

/-- A collector with a good record in its intake queue. -/
def sCollect : State :=
  let s := sCrz.wr FLT_CTRL_COLLECTOR 1
  { s with flt := { s.flt with inq := [s.recordOctets { aRecord with sendAt := s.sendTime 1 0, pMs := s.pMs, hMs := s.hMs, w := s.spreadW }] } }

/-- A lantern action launched at 100 ms, due on RF-A. -/
def anAction : Action := ⟨10, 0, 17, 500, 0, 0, false, 0, 2, 0, 1, true, true, true⟩

theorem witness_FelterConfigurationLock : sCrz.serves .A ∧ okWrite.parity = false ∧ (0x400617FC#32).toNat % 4 = 0 ∧ (0x400617FC#32).toNat < 0x40061800 ∧ sCrz.crzOn = true ∧ sServe.serves .A ∧ sServe.crzOn = false ∧
    (findReg 0x40060000).isSome = true := by unfold State.serves; decide +kernel

theorem witness_FelterConfigurationLock_core : okWrite.atomic = none ∧ (sCrz.enterCore .A okWrite.core).coreMay .A true 0x400617FC 4 = true ∧ (sServe.enterCore .A okWrite.core).coreMay .A true 0x40060000 4 = true := by decide +kernel

theorem test_felter_lock : gives (.registerWrite .A 0x40061000#32 4 0x1#64 okWrite) sCrz (sCrz.wr FLT_STATUS_CFGREJ 1) = true ∧ (after (.registerWrite .A 0x40061000#32 4 0x80000000#64 okWrite) sServe).rd (FLT_PROG_W0_EN 0) = 1 := by decide +kernel

theorem witness_LeastAndGreatest : twoEvents ≠ [] ∧ (aProg 3).op = 3 ∧ (aProg 4).op = 4 ∧ (aProg 3).operand ⟨⟨0, 1, 0⟩, 100, some 0, 5, [octet 200] ++ zeros 15, false, false, []⟩ = -56 := by decide +kernel

theorem witness_Histograms : (aProg 5).op = 5 ∧ twoEvents.length ≤ 32768 ∧ twoEvents.map (fun e => decide ((aProg 5).operand e < (aProg 5).hBase)) = [true, false] := by decide +kernel

theorem test_least_greatest_histogram : ((aProg 3).data twoEvents).1.take 8 = le 8 (2 ^ 64 - 56) ∧ ((aProg 4).data twoEvents).1.take 12 = le 8 7 ++ le 4 101 ∧ leAt ((aProg 5).data twoEvents).1 0 4 = 1 ∧ leAt ((aProg 5).data twoEvents).1 4 4 = 1 := by decide +kernel

theorem witness_RecordsAndDeadlines : sRecord.up = true ∧ sRecord.flt.records.find? (fun x => decide (x.sendAt ≤ sRecord.now)) = some aRecord ∧ sRecord.rd FLT_CTRL_COLLECTOR = 0 ∧ (sRecord.wr FLT_CTRL_COLLECTOR 1).rd FLT_CTRL_COLLECTOR ≠ 0 ∧
    aRecord.district = false ∧ sRecord.flt.inq.length < 16 ∧ ({ sCollect with flt := { sCollect.flt with inq := List.replicate 16 [] } } : State).flt.inq.length = 16 ∧
    sCollect.flt.inq.length = 1 ∧ sCollect.flt.inq.all sCollect.intakeGood = true ∧ ({ sCollect with flt := { sCollect.flt with inq := [zeros 48] } } : State).up = true ∧ octAt (zeros 48) 0 ≠ 1 ∧
    (let s := at' { sCrz with lnu := { sCrz.lnu with queue := [anAction] } } 200000000; s.up = true ∧ (s.lnu.queue.filter (s.missed .rfa)).length ≠ 0) := by decide +kernel

theorem test_records : (after .resultRecordSend sRecord).flt.records = [] ∧ (after .resultRecordSend sRecord).rd FLT_SEND_CNT_COUNT = 1 ∧ (after .resultRecordSend (sRecord.wr FLT_CTRL_COLLECTOR 1)).flt.inq.length = 1 ∧
    (after (.collectorRecordReceive []) { sCollect with flt := { sCollect.flt with inq := List.replicate 16 [] } }).rd FLT_STATUS_INQOVF = 1 ∧ (after (.collectorRecordReceive []) sCollect).rd FLT_INQ_USED = 2 ∧
    (after .collectorIntake sCollect).waiting.map (fun w => (w.ev.chan, w.ev.seq)) = [(88, some 16)] ∧ (after .collectorIntake { sCollect with flt := { sCollect.flt with inq := [zeros 48] } }).rd FLT_STATUS_INREJ = 1 := by decide +kernel

theorem test_deadline_miss : (let s := at' { sCrz with lnu := { sCrz.lnu with queue := [anAction] } } 200000000
      (after (.actionDeadlineMiss .rfa) s).rd (pathMissFlag .rfa) = 1 ∧ (after (.actionDeadlineMiss .rfa) s).rd (pathMiss .rfa) = 1 ∧ (after (.actionDeadlineMiss .rfa) s).lnu.queue = [{ anAction with dueA := false }]) := by decide +kernel


/-! ### Octets written and read back: framed records written whole are valid -/

theorem crcBits_lt (n c : Nat) (h : c < 2 ^ 32) : crcBits 0x82F63B78 n c < 2 ^ 32 := by
  induction n generalizing c with
  | zero => exact h
  | succ n ih =>
    refine ih _ ?_
    unfold crcBit
    split
    · exact Nat.xor_lt_two_pow (by omega) (by decide)
    · omega

theorem crcOver_lt (bs : Octets) (c : Nat) (h : c < 2 ^ 32) : crcOver 0x82F63B78 c bs < 2 ^ 32 := by
  induction bs generalizing c with
  | nil => exact h
  | cons b bs ih => exact ih _ (crcBits_lt _ _ (Nat.xor_lt_two_pow h (by have := b.isLt; omega)))

theorem leVal_le (n v : Nat) : leVal (le n v) = v % 256 ^ n := by
  induction n generalizing v with
  | zero => simp [le, leVal, Nat.mod_one]
  | succ n ih =>
    have e : (octet v).toNat = v % 256 := by simp [octet]
    simp only [le, leVal, ih, e, Nat.pow_succ]
    rw [Nat.mul_comm (256 ^ n) 256, Nat.mod_mul]

theorem memRead_take (m : List Host.Cell) (a n k : Nat) : (memRead m a (n + k)).take n = memRead m a n := by
  induction n generalizing a with
  | zero => rfl
  | succ n ih => rw [Nat.succ_add]; simp [memRead, ih]

theorem memRead_drop (m : List Host.Cell) (a i n : Nat) : (memRead m a (i + n)).drop i = memRead m (a + i) n := by
  induction i generalizing a with
  | zero => simp
  | succ i ih => rw [Nat.succ_add]; simp [memRead, ih, Nat.add_comm 1 i, Nat.add_assoc]

/-- A record of 64 + `k` octets written whole at `o` reads back whole. -/
theorem record_reads (s : State) (o k : Nat) (r c : Octets) (m : List Host.Cell) (h : r.length = 64) (hc : c.length = k) (hb : s.pst.buffer = []) (hm : s.pst.cells = memWrite m o (frameRecord (r ++ c))) :
    s.pstOctets o (64 + k) = r.take 56 ++ le 4 (crc32c (r.take 56 ++ c)) ++ le 4 validMark ++ c := by
  have e : frameRecord (r ++ c) = r.take 56 ++ le 4 (crc32c (r.take 56 ++ c)) ++ le 4 validMark ++ c := by
    unfold frameRecord
    rw [List.take_append_of_le_length (by omega), List.drop_append_of_le_length (by omega), List.drop_eq_nil_of_le (by omega), List.nil_append]
  have l4 : ∀ v, (le 4 v).length = 4 := fun _ => rfl
  have l : (frameRecord (r ++ c)).length = 64 + k := by rw [e]; simp [h, hc, l4]; omega
  unfold State.pstOctets
  rw [hb, hm, ← l]
  exact (memRead_memWrite _ _ _).trans e

theorem record_valid (s : State) (o k : Nat) (r c : Octets) (m : List Host.Cell) (h : r.length = 64) (hc : c.length = k) (hb : s.pst.buffer = []) (hm : s.pst.cells = memWrite m o (frameRecord (r ++ c))) :
    s.recordValid o (64 + k) = true := by
  have e := record_reads s o k r c m h hc hb hm
  have l4 : ∀ v, (le 4 v).length = 4 := fun _ => rfl
  have lt : (r.take 56).length = 56 := by simp [h]
  have w : s.pstWord (o + 60) = validMark := by
    unfold State.pstWord
    have : s.pstOctets (o + 60) 4 = ((s.pstOctets o (64 + k)).drop 60).take 4 := by
      unfold State.pstOctets
      rw [show 64 + k = 60 + (4 + k) by omega, memRead_drop, memRead_take]
    rw [this, e, List.append_assoc, List.drop_append_of_le_length (by simp [lt, l4]), List.drop_eq_nil_of_le (by simp [lt, l4]), List.nil_append, List.take_append_of_le_length (by simp [l4]), List.take_of_length_le (by simp [l4]), leVal_le]
    decide
  unfold State.recordValid
  rw [w, e]
  simp only [beq_self_eq_true, Bool.true_and]
  have t56 : (r.take 56 ++ le 4 (crc32c (r.take 56 ++ c)) ++ le 4 validMark ++ c).take 56 = r.take 56 := by
    rw [List.append_assoc, List.append_assoc, List.take_append_of_le_length (by omega), List.take_of_length_le (by omega)]
  have d64 : (r.take 56 ++ le 4 (crc32c (r.take 56 ++ c)) ++ le 4 validMark ++ c).drop 64 = c := by
    rw [List.drop_append_of_le_length (by simp [lt, l4]), List.drop_eq_nil_of_le (by simp [lt, l4]), List.nil_append]
  have v56 : leAt (r.take 56 ++ le 4 (crc32c (r.take 56 ++ c)) ++ le 4 validMark ++ c) 56 4 = crc32c (r.take 56 ++ c) := by
    have d : (r.take 56 ++ le 4 (crc32c (r.take 56 ++ c)) ++ le 4 validMark ++ c).drop 56 = le 4 (crc32c (r.take 56 ++ c)) ++ (le 4 validMark ++ c) := by
      rw [List.append_assoc, List.append_assoc, List.drop_append_of_le_length (by omega), List.drop_eq_nil_of_le (by omega), List.nil_append]
    unfold leAt slice padTo
    rw [d, List.take_append_of_le_length (by simp [l4]), List.take_of_length_le (by simp [l4]), show 4 - (le 4 (crc32c (r.take 56 ++ c)) ++ (le 4 validMark ++ c)).length = 0 by simp [l4], zeros, List.replicate_zero,
      List.append_nil, leVal_le]
    refine Nat.mod_eq_of_lt ?_
    exact Nat.xor_lt_two_pow (crcOver_lt _ _ (by decide)) (by decide)
  rw [t56, d64, v56]
  simp

theorem zeros_length (n : Nat) : (zeros n).length = n := by simp [zeros]


/-! ### The lantern radio link -/

/-- Both radios run with slot 3 as their link key and their beacon key. -/
def sRadio : State :=
  let s := (((sCrz.wr RFM_CTRL_RUNST_A 1).wr RFM_CTRL_RUNST_B 1).wr RFM_SEC_KSLOT0 3).wr RFM_SEC_KSLOTB 3
  { s with ksu := { s.ksu with slots := testSlots } }

/-- Lantern 3 reports in the first REPORT cell, slot 3; its state is `st`. -/
def sLantern (st : Nat) : State := ((sRadio.wr (RFM_LTAB_W0_EN 3) 1).wr (RFM_LTAB_W3_STATE 3) st).wr (RFM_LTAB_W1_FCKEY 3) 1

/-- A downlink frame for lantern 3 sent `n` times with the sequence number 9. -/
def aDownlink (n : Nat) : Downlink := ⟨3, [octet 1], 7, 0, n, 9⟩

/-- RF-A at 78 ms, before its BUNDLE cell in slot 8, with an action to launch at 2 s or a downlink frame, which may wait for its Imm-Ack up to 91 ms. -/
def sBundle : State := { (at' sRadio 78000000) with lnu := { sRadio.lnu with queue := [{ anAction with launch := 200 }] } }
def aWait (n : Nat) : Await := ⟨aDownlink n, 91000000, 100000000⟩
def sDown (n : Nat) (wait : Bool) : State := (at' (sLantern 1) 78000000).onRadio 0 (fun x => { x with queue := [aDownlink n], awaiting := if wait then [aWait n] else [] })

/-- No guard acts. -/
def noGuard : GuardMeet := ⟨none, false, false, false⟩

/-- A frame received with a good FCS. -/
def goodRadio : RadioMeet := ⟨true, false, false⟩

/-- A frame of lantern 3 with frame counter 5, of payload type 0xE1. -/
def aFrame : Octets := secured5 (List.replicate 16 (octet 9)) (ccmNonce sRadio.seg 3 5 5) (le 2 0xA869 ++ [octet 77] ++ le 2 sRadio.seg ++ le 2 0x0800 ++ le 2 3) (auxHeader 0x0D 5 1) [octet 0xE1, octet 2]

/-- The end of the SFD of the REPORT cell of slot 3, and the state at that time. -/
def aStamp : Time := ⟨0, 31740000, 0⟩
def sHears : State := { (sLantern 1) with tb := { (sLantern 1).tb with now := aStamp } }

/-- A called window of lantern 3. -/
def aCall : DarnCall := ⟨0, 3, 0, false⟩
def sCalled (d : Nat) : State := ((at' (sLantern 2) 80000100).wr (RFM_LTAB_W3_DARNF 3) d).onRadio 0 (fun x => { x with calls := [aCall] })

/-- Neighbour entry 7 of RF-B listens in slot 1. -/
def sNbr (n : Nat) : State := ((((at' sRadio 20000100).wr (RFM_NBR_W0_EN 7) 1).wr (RFM_NBR_W0_RADIO 7) 1).wr (RFM_NBR_W0_LSLOT 7) 1).wr (RFM_NBR_W1_MISSES 7) n |>.wr (RFM_NBR_W1_PRESENT 7) 1

/-- A beacon of neighbour entry 7, secured under the key of slot 3 with frame counter 5, as RF-B hears it in slot 1. -/
def nbrBeacon : Octets := secured1 (List.replicate 16 (octet 9)) (ccmNonce 0 0x0800 5 1) (le 2 0xA008 ++ [octet 0] ++ le 2 0 ++ le 2 0x0800) (auxHeader 0x09 5 0x10) ([octet 0xBE] ++ zeros 19)
def sNbrHears : State := at' ((((at' sRadio 0).wr (RFM_NBR_W0_EN 7) 1).wr (RFM_NBR_W0_RADIO 7) 1).wr (RFM_NBR_W0_LSLOT 7) 1) 11740000

theorem witness_RadioSends : sRadio.up = true ∧ (sRadio.radio 1).beaconed ≠ some (sRadio.sfAt 1 sRadio.now) ∧ sRadio.slotAt 1 sRadio.now < sRadio.span 1 ∧ sRadio.sfOfs 1 ≤ sRadio.now ∧ (sRadio.superframeStart 1 0).rfRuns 1 = true ∧
    sRadio.sfAt 1 sRadio.now = 0 ∧ (sRadio.superframeStart 1 0).dcqOpen (rfTxQueue 1) = true ∧ noGuard.frame = false ∧ noGuard.poison = false ∧
    ((sRadio.superframeStart 1 0).slot 3).all (fun k => k.allows opLink ctxRfm) = true ∧ ((sRadio.superframeStart 1 0).slot ((sRadio.superframeStart 1 0).rd RFM_SEC_KSLOTB)).isSome = true := by decide +kernel

theorem witness_RadioSends_bundle : sBundle.up = true ∧ sBundle.rfRuns 0 = true ∧ sBundle.dcqOpen (rfTxQueue 0) = true ∧ (sBundle.nextSlot 0 % 128).toNat = 8 ∧ sBundle.nextSlot 0 / 128 = 0 ∧ 8 % sBundle.span 0 = 0 ∧
    sBundle.codeAt 0 8 = 2 ∧ noGuard.frame = false ∧ (sBundle.askBundle (radioPath 0) noGuard).2 ≠ [] ∧
    ((sBundle.askBundle (radioPath 0) noGuard).1.linkFrame 0 none (bundleOctets (sBundle.askBundle (radioPath 0) noGuard).2)).2.isSome = true ∧
    (let s := sDown 0 false; s.rfRuns 0 = true ∧ (s.nextSlot 0 % 128).toNat = 8 ∧ s.nextSlot 0 / 128 = 0 ∧ s.codeAt 0 8 = 2 ∧ s.dcqOpen (rfTxQueue 0) = true ∧ (s.askBundle (radioPath 0) noGuard).2 = [] ∧
      ((s.askBundle (radioPath 0) noGuard).1.radio 0).queue.find? (fun d => (s.askBundle (radioPath 0) noGuard).1.awake d.dst 0 && !((s.askBundle (radioPath 0) noGuard).1.radio 0).awaiting.any (fun a => a.frame == d)) = some (aDownlink 0) ∧
      ((s.askBundle (radioPath 0) noGuard).1.linkFrame 0 (some 3) [octet 1]).2.isSome = true) := by decide +kernel

theorem witness_RadioSends_waits : (∀ n ∈ [2, 3], let s := sDown n true
      s.up = true ∧ (s.radio 0).awaiting.find? (fun a => a.frame.seq == (9#8).toNat && rfCycle (s.replica (repRadio 0)) ≤ rfCycleNs a.until') = some (aWait n) ∧
      (∀ a ∈ (s.radio 0).awaiting, a.frame.seq ≠ (8#8).toNat) ∧ ((at' s 91000100).radio 0).awaiting.find? (fun a => (at' s 91000100).rfPast a.until') = some (aWait n)) ∧
    (let s := at' (sDown 0 false) 81920000000; (s.radio 0).queue = [aDownlink 0] ∧ (aDownlink 0).tries = 0 ∧ (aDownlink 0).queued + 64 = s.sfAt 0 s.now) := by decide +kernel

theorem witness_RadioSends_queue : sRadio.serves .A ∧ 0 = sRadio.homeOf (2047#11).toNat ∧ (sRadio.radio 0).queue.length < 16 ∧ (106#7).toNat ≤ 106 ∧ 106 < (107#7).toNat ∧
    ((sRadio.onRadio 0 (fun x => { x with queue := List.replicate 16 (aDownlink 0) })).radio 0).queue.length = 16 ∧ (sRadio.onRadio 0 (fun x => { x with queue := List.replicate 16 (aDownlink 0) })).serves .A := by unfold State.serves; decide +kernel

theorem test_radio_sends : (after (.beacon 1 noGuard) sRadio).sent.map (fun x => (x.medium, x.at', slice x.octets 0 8, octAt x.octets 13)) = [(4, 1500000, le 2 0xA008 ++ [octet 0] ++ le 2 sRadio.seg ++ le 2 0x0800 ++ [octet 0x09], 0xBE)] ∧
    (after (.radioBundleCell 0 noGuard) sBundle).sent.map (fun x => (x.at', x.octets.length)) = [(81500000, 7 + 6 + 12 + 4)] ∧ (after (.radioBundleCell 0 noGuard) sBundle).lnu.queue.map (·.dueA) = [false] ∧
    ((after (.radioBundleCell 0 noGuard) (sDown 0 false)).radio 0).awaiting.length = 1 := by decide +kernel

theorem test_radio_waits : ((after (.immAckReceive 0 9#8) (sDown 1 true)).radio 0).queue = [] ∧ gives (.immAckReceive 0 8#8) (sDown 1 true) (sDown 1 true) = true ∧ ((after (.ackWaitExpiry 0) (at' (sDown 2 true) 91000100)).radio 0).queue = [aDownlink 2] ∧
    gives (.ackWaitExpiry 0) (at' (sDown 3 true) 91000000) (at' (sDown 3 true) 91000000) = true ∧
    (after (.ackWaitExpiry 0) (at' (sDown 3 true) 91000100)).rd RFM_STATUS_DLFAIL = 1 ∧ (after (.downlinkNoOpportunity 0) (at' (sDown 0 false) 81920000000)).rd RFM_STATUS_DLFAIL = 1 ∧
    ((after (.radioDownlinkQueue .A 1#8 2047#11 106#7) sRadio).radio 0).queue.map (fun d => (d.dst, d.payload.length)) = [(2047, 106)] ∧ ((after (.radioDownlinkQueue .A 1#8 2047#11 107#7) sRadio).radio 0).queue = [] := by decide +kernel

theorem witness_LanternsAreTracked_frames : sHears.up = true ∧ sHears.rfRuns 0 = true ∧ aStamp = sHears.replica (repRadio 0) ∧ sHears.listens 0 aStamp = true ∧ aFrame.length ≤ 125 ∧ leAt aFrame 0 2 = 0xA869 ∧ leAt aFrame 3 2 = sHears.seg ∧
    leAt aFrame 5 2 = 0x0800 ∧ leAt aFrame 7 2 = 3 ∧ octAt aFrame 9 = 0x0D ∧ octAt aFrame 14 = 1 ∧ (sHears.slot (sHears.rd RFM_SEC_KSLOT0)).any (fun k => k.allows opLink ctxRfm &&
      opened5 k.key (ccmNonce sHears.seg 3 (leAt aFrame 10 4) 5) aFrame 15 == some [octet 0xE1, octet 2]) = true ∧ sHears.lEn 3 = true ∧ sHears.rd (RFM_LTAB_W1_FCKEY 3) = 1 ∧
    sHears.rd (RFM_LTAB_W2_FC 3) < leAt aFrame 10 4 ∧ leAt aFrame 10 4 ≤ (sHears.wr (RFM_LTAB_W2_FC 3) 5).rd (RFM_LTAB_W2_FC 3) ∧ sHears.lRelayed 3 = false ∧ sHears.rd (RFM_LTAB_W3_STATE 3) = 1 ∧
    0 ∈ sHears.contactsMet 3 aStamp ∧ (sHears.link 3).judgedBy 0 = false ∧ (at' sHears 5000000).listens 0 ((at' sHears 5000000).replica (repRadio 0)) = false ∧
    (sHears.dcqOffer 6 (sHears.event 76 3 0x02 [octet 0xE1, octet 2] aStamp)).2 = true := by decide +kernel

theorem test_lantern_frame : (after (.radioFrameReceive 0 aFrame goodRadio 5#8) sHears).rd (RFM_LTAB_W2_FC 3) = 5 ∧ (after (.radioFrameReceive 0 aFrame goodRadio 5#8) sHears).sent.map (·.octets) = [[octet 2, octet 0, octet 77]] ∧
    (after (.radioFrameReceive 0 aFrame goodRadio 5#8) (sHears.wr (RFM_LTAB_W3_MISS 3) 2)).rd (RFM_LTAB_W3_MISS 3) = 0 ∧
    (after (.radioFrameReceive 0 aFrame goodRadio 5#8) (sHears.wr (RFM_LTAB_W2_FC 3) 5)).rd RFM_STATUS_REPLAY = 1 ∧ (after (.radioFrameReceive 0 aFrame ⟨false, false, false⟩ 5#8) sHears).rd RFM_DROP_COUNT = 1 ∧
    (after (.radioFrameReceive 0 aFrame ⟨true, true, false⟩ 5#8) sHears).rd RFM_DROP_COUNT = 1 ∧ (after (.radioFrameReceive 0 aFrame ⟨true, false, true⟩ 5#8) sHears).rd RFM_DROP_COUNT = 1 := by decide +kernel

theorem witness_LanternsAreTracked_neighbour : sNbrHears.up = true ∧ sNbrHears.rfRuns 1 = true ∧ sNbrHears.listens 1 (sNbrHears.replica (repRadio 1)) = true ∧ nbrBeacon.length ≤ 125 ∧ leAt nbrBeacon 0 2 = 0xA008 ∧
    sNbrHears.neighbourAt 1 (sNbrHears.slotAt 1 (nsOf (sNbrHears.replica (repRadio 1))) / sNbrHears.span 1 * sNbrHears.span 1) = some 7 ∧ leAt nbrBeacon 3 2 = sNbrHears.rd (RFM_NBR_W0_SEG 7) ∧ leAt nbrBeacon 5 2 = 0x0800 ∧
    octAt nbrBeacon 7 = 0x09 ∧ octAt nbrBeacon 12 = 0x10 ∧ (sNbrHears.slot (sNbrHears.rd RFM_SEC_KSLOTB)).any (fun k => k.allows opLink ctxRfm &&
      (opened1 k.key (ccmNonce 0 0x0800 (leAt nbrBeacon 8 4) 1) nbrBeacon 13).any (fun p => octAt p 0 == 0xBE)) = true ∧
    (after (.radioFrameReceive 1 nbrBeacon goodRadio 5#8) sNbrHears).rd (RFM_NBR_W1_PRESENT 7) = 1 := by decide +kernel

theorem witness_LanternsAreTracked_contacts : (∀ m ∈ [0, 1, 2], let s := (at' (sLantern 1) 40000100).wr (RFM_LTAB_W3_MISS 3) m
      s.up = true ∧ s.contactEnd 3 0 = some 40000000 ∧ s.rfPast 40000000 = true ∧ s.lEn 3 = true ∧ s.reportSf 3 0 = true ∧ (s.link 3).judgedBy 0 = false ∧ s.rfRuns (s.homeOf 3) = true ∧
        (s.radio (s.homeOf 3)).since ≤ s.contactStart 3 0 ∧ s.rd (RFM_LTAB_W3_STATE 3) = 1 ∧ (0 ∉ (s.link 3).met) ∧ s.rd (RFM_LTAB_W3_MISS 3) = m ∧
        s.guardRaw (s.deltaOf 3 0 (s.sfdOf (s.homeOf 3) 0 ((s.reportSlot 3).getD 0))) ≤ 15000000000000) ∧
    (let s := (at' (sLantern 1) 40000100).onLink 3 (fun x => { x with met := [0] }); 0 ∈ (s.link 3).met ∧ s.rd (RFM_LTAB_W3_STATE 3) = 1) ∧
    (∀ d ∈ [0, 1], let s := sCalled d; s.up = true ∧ (s.radio 0).calls.find? (fun x => x.window == 0 && s.rfPast (s.darnUntil 0 x)) = some aCall ∧ aCall.contact = false ∧ s.rd (RFM_LTAB_W3_STATE 3) = 2) ∧
    (sCalled 0).rd (RFM_LTAB_W3_DARNF 3) + 1 < (sCalled 0).darnMax ∧ (let s := sCalled ((sCalled 0).darnMax - 1); s.rd (RFM_LTAB_W3_DARNF 3) + 1 = s.darnMax) := by decide +kernel

theorem witness_LanternsAreTracked_others : (∀ n ∈ [1, 2], let s := sNbr n; s.up = true ∧ s.rd (RFM_NBR_W0_EN 7) ≠ 0 ∧ s.rd (RFM_NBR_W0_RADIO 7) = 1 ∧ s.rfRuns 1 = true ∧ s.rd (RFM_NBR_W0_LSLOT 7) * slotNs + s.span 1 * slotNs = 20000000 ∧
      ((s.now : Int) - 20000000 - s.sfOfs 1) / sfNs = 0 ∧ s.slotStart 1 0 0 + 20000000 = 20000000 ∧ s.rfPast 20000000 = true ∧ (s.radio 1).since + s.span 1 * slotNs ≤ 20000000 ∧ kvFind s.rfm.nbrJudged 7 ≠ some 0 ∧
      kvFind s.rfm.heard 7 = none ∧ s.rd (RFM_NBR_W1_MISSES 7) = n ∧ s.rd (RFM_NBR_W1_PRESENT 7) = 1) ∧ (let s := { (sNbr 1) with rfm := { (sNbr 1).rfm with heard := [(7, 0)] } }; kvFind s.rfm.heard 7 = some 0) ∧
    (let s := { (at' sRadio 12800000000) with rfm := { sRadio.rfm with wakeAt := some 10 } }; s.up = true ∧ s.rfm.wakeAt = some 10 ∧ 10 * sfNs ≤ s.now) ∧
    (sLantern 1).serves .A ∧ (sLantern 1).rd (RFM_LTAB_W0_EN 3) = 1 ∧ (0x80000000#32).toNat / 2 ^ 31 = 1 ∧ ((sLantern 1).radio ((sLantern 1).homeOf 3)).queue.length < 16 := by unfold State.serves; decide +kernel

theorem test_lantern_states : (after (.reportCellEnd 3 0) (at' (sLantern 1) 40000100)).rd (RFM_LTAB_W3_MISS 3) = 1 ∧ (after (.reportCellEnd 3 0) ((at' (sLantern 1) 40000100).wr (RFM_LTAB_W3_MISS 3) 2)).rd (RFM_LTAB_W3_STATE 3) = 2 ∧
    (after (.darnWindowEnd 0 0) (sCalled 0)).rd (RFM_LTAB_W3_DARNF 3) = 1 ∧ (after (.darnWindowEnd 0 0) (sCalled ((sCalled 0).darnMax - 1))).rd (RFM_LTAB_W3_STATE 3) = 3 ∧
    (after (.nbrCellEnd 7) (sNbr 2)).rd (RFM_NBR_W1_PRESENT 7) = 0 ∧ (after .wakeChange { (at' sRadio 12800000000).wr RFM_WAKE_WL_NEXT 2 with rfm := { sRadio.rfm with wakeAt := some 10 } }).rd RFM_WAKE_WL = 2 ∧
    ((after (.lanternTableWrite .A 3 0x80000102#32) (sLantern 1)).radio 0).queue.map (·.payload) = [[octet 0xA1] ++ le 4 0x80000102 ++ zeros 5] := by decide +kernel

/-! ### The power-line modem and Reflect -/

/-- The modem runs with slot 3 as its key, and lantern 2047 is enabled. -/
def sPlc : State :=
  let s := ((((sCrz.wr PLM_CTRL_RUNST 1).wr PLM_SEC_PKSLOT0 3).wr PLM_CFG_MOD 2).wr (PLM_LTAB_W0_EN 2047) 1).wr (PLM_LTAB_W1_FCKEY 2047) 1
  { s with ksu := { s.ksu with slots := testSlots } }

/-- 2 ms before BUNDLE cell 1, with an action to launch at 4 s, a pending assignment, or a downlink frame. -/
def sPlcBundle : State := { (at' sPlc 48000000) with lnu := { sPlc.lnu with queue := [{ anAction with launch := 400 }] } }
def sPlcAssign : State := { (at' sPlc 48000000) with plm := { sPlc.plm with assigns := [(2047, 1)] } }
def sPlcDown : State := { (at' sPlc 48000000) with plm := { sPlc.plm with queue := [aDownlink 1] } }

/-- The first downlink frame waits for its ACK up to 60 ms after `n` attempts, at time `t`; or the assignment of lantern 2047 does. -/
def sPlcWait (n t : Nat) : State := { (at' sPlc t) with plm := { sPlc.plm with queue := [aDownlink n], wait := [(⟨aDownlink n, 60000000, 100000000⟩, false)] } }
def sPlcWaits (t : Nat) : State := { (at' sPlc t) with plm := { sPlc.plm with assigns := [(2047, 1)], wait := [(⟨{ aDownlink 1 with dst := 2047 }, 60000000, 100000000⟩, true)] } }

/-- A frame of lantern 2047 with frame counter 5. -/
def aPlcFrame : Octets := secured5 (List.replicate 16 (octet 9)) (ccmNonce sPlc.seg 2047 5 5) (le 2 0x9869 ++ [octet 77] ++ le 2 sPlc.seg ++ le 2 0x0800 ++ le 2 2047) (auxHeader 0x0D 5 1) [octet 0xE1, octet 2]

/-- A TIME frame of the module of PAN 9. -/
def foreignFrame : Octets := secured5 (List.replicate 16 (octet 9)) (ccmNonce 9 0x0800 5 5) (le 2 0x1809 ++ [octet 77] ++ le 2 9 ++ le 2 0xFFFF) (auxHeader 0x0D 5 1) ([octet 0xBD] ++ zeros 20)

/-- A frame received with a good FCS in an accepted mode, whose last sample is 20 ms after the preamble's end. -/
def goodPlc : PlcMeet := ⟨true, false, 20000000⟩

theorem witness_PowerLineSends : sPlc.up = true ∧ sPlc.plm.timed ≠ some (sPlc.plcCycle sPlc.now) ∧ sPlc.plcCell sPlc.now = 0 ∧ sPlc.rd PLM_CTRL_RUNST = 1 ∧ sPlc.dcqOpen 11 = true ∧ sPlc.quietAt sPlc.now = false ∧ sPlc.plcCycle sPlc.now = 0 ∧
    ((sPlc.cycleStart 0).plcFrame none ((sPlc.cycleStart 0).timePayload 0)).2.isSome = true ∧ (sPlc.wr PLM_CTRL_RUNST 0).rd PLM_CTRL_RUNST ≠ 1 := by decide +kernel

theorem witness_PowerLineSends_cells : (∀ s ∈ [sPlcBundle, sPlcAssign, sPlcDown], s.up = true ∧ s.rd PLM_CTRL_RUNST = 1 ∧ s.dcqOpen 11 = true ∧ -(((s.cellOfs : Int) - s.now - 2000000) / cellNs) = 1 ∧ nth 0 s.plcCodes 1 = 2 ∧
      s.quietAt (s.cellStart 0 1) = false ∧ s.unicastLimit ≠ 0) ∧ noGuard.frame = false ∧
    (sPlcBundle.askBundle .plc noGuard).2 ≠ [] ∧ ((sPlcBundle.askBundle .plc noGuard).1.plcFrame none (bundleOctets (sPlcBundle.askBundle .plc noGuard).2)).2.isSome = true ∧
    (sPlcAssign.askBundle .plc noGuard).2 = [] ∧ ((sPlcAssign.askBundle .plc noGuard).1.plcAssignment.any (fun d => d.dst == 2047 && d.tries == 1 &&
      ((sPlcAssign.askBundle .plc noGuard).1.plcFrame (some d.dst) d.payload).2.isSome)) = true ∧
    (sPlcDown.askBundle .plc noGuard).2 = [] ∧ (aDownlink 1).payload.length ≤ sPlcDown.unicastLimit ∧ (sPlcDown.askBundle .plc noGuard).1.plcAssignment = none ∧ (sPlcDown.askBundle .plc noGuard).1.plcFirst = some (aDownlink 1) ∧
      ((sPlcDown.askBundle .plc noGuard).1.plcFrame (some 3) [octet 1]).2.isSome = true ∧
    (let d := { aDownlink 1 with payload := zeros 101 }; let s := { sPlcDown with plm := { sPlcDown.plm with queue := [d] } }; s.unicastLimit < d.payload.length ∧ (s.askBundle .plc noGuard).1.plcFirst = some d) := by decide +kernel

theorem witness_PowerLineSends_waits : (∀ n ∈ [2, 3], let s := sPlcWait n 60000200
      s.up = true ∧ s.plm.wait = [(⟨aDownlink n, 60000000, 100000000⟩, false)] ∧ s.plcPast 60000000 = true ∧ plcTickNs 60000000 < plcTick s.plcStamp ∧ (aDownlink n).tries = n) ∧
    plcTick (sPlcWait 1 60000000).plcStamp ≤ plcTickNs 60000000 ∧ (let s := sPlcWaits 59900000; plcTick s.plcStamp ≤ plcTickNs 60000000 ∧ kvFind s.plm.assigns 2047 = some 1) ∧ sPlc.serves .A ∧ sPlc.plm.queue.length < 16 ∧
    (128#8).toNat ≤ 128 ∧ 128 < (129#8).toNat ∧ (List.replicate 16 (aDownlink 0)).length = 16 ∧ (0x80000000#32).toNat / 2 ^ 31 = 1 ∧ sPlc.rd (PLM_LTAB_W0_EN 2047) = 1 := by unfold State.serves; decide +kernel

theorem test_power_line_sends : (after (.timeFrame noGuard) sPlc).sent.map (fun x => (x.medium, x.octets.length)) = [(5, 7 + 6 + 55 + 4)] ∧ (after (.plcBundleCell 20000000 noGuard) sPlcBundle).lnu.queue.map (·.dueP) = [false] ∧
    (after (.plcBundleCell 20000000 noGuard) sPlcAssign).plm.assigns = [(2047, 2)] ∧ (after (.plcBundleCell 20000000 noGuard) sPlcDown).plm.wait.map (fun w => (w.1.frame.tries, w.1.cellEnd, w.2)) = [(2, 100000000, false)] := by decide +kernel

theorem test_power_line_waits : (after (.plcAckReceive true) (sPlcWait 1 60000000)).rd (PLM_LTAB_W3_DLYM 3) = 50000 ∧ gives (.plcAckReceive true) (sPlcWait 1 60000200) (sPlcWait 1 60000200) = true ∧
    (after .plcAckWaitExpiry (sPlcWait 2 60000200)).plm.queue = [aDownlink 2] ∧ (after .plcAckWaitExpiry (sPlcWait 2 60000200)).plm.wait = [] ∧ gives .plcAckWaitExpiry (sPlcWait 3 60000000) (sPlcWait 3 60000000) = true ∧
    (after (.plcAckReceive true) (sPlcWaits 59900000)).plm.assigns = [] ∧
    (after .plcAckWaitExpiry (sPlcWait 3 60000200)).plm.queue = [] ∧ (after (.plcDownlinkQueue .A 1#8 2047#11 128#8) sPlc).rd PLM_DLQ_STAT_USED = 1 ∧ (after (.plcDownlinkQueue .A 1#8 2047#11 129#8) sPlc).plm.queue = [] := by decide +kernel

/-- The end of cell 33, the first REPORT cell, of cycle 0. -/
def sPlcReport (m : Nat) : State := ((at' sPlc 1700000200).wr (PLM_LTAB_W3_MISS 2047) m).wr (PLM_LTAB_W3_PRES 2047) 1

theorem witness_PowerLineReceives : sPlc.up = true ∧ sPlc.quietAt sPlc.now = false ∧ aPlcFrame.length ≤ 198 ∧ leAt aPlcFrame 0 2 = 0x9869 ∧ leAt aPlcFrame 3 2 = sPlc.seg ∧ leAt aPlcFrame 5 2 = 0x0800 ∧ leAt aPlcFrame 7 2 = 2047 ∧
    octAt aPlcFrame 9 = 0x0D ∧ octAt aPlcFrame 14 = 1 ∧ (sPlc.slot (sPlc.rd PLM_SEC_PKSLOT0)).any (fun k => k.allows opLink ctxPlm && opened5 k.key (ccmNonce sPlc.seg 2047 (leAt aPlcFrame 10 4) 5) aPlcFrame 15 == some [octet 0xE1, octet 2]) = true ∧
    bit (sPlc.plcEntry 2047) 31 = true ∧ sPlc.rd (PLM_LTAB_W1_FCKEY 2047) = 1 ∧ sPlc.rd (PLM_LTAB_W2_FC 2047) < leAt aPlcFrame 10 4 ∧ leAt aPlcFrame 10 4 ≤ (sPlc.wr (PLM_LTAB_W2_FC 2047) 5).rd (PLM_LTAB_W2_FC 2047) ∧
    (∃ g ∈ (sPlcReport 1).plcMeets 2047 (timeOfNs 1699000000), ((sPlcReport 1).plcLink 2047).judgedBy g = false) ∧
    (sPlc.dcqOffer 10 (sPlc.event 80 0 0x02 (le 2 2047 ++ [octet 0xE1, octet 2]) sPlc.plcStamp)).2 = true := by
  refine ⟨?_, ?_, ?_, ?_, ?_, ?_, ?_, ?_, ?_, ?_, ?_, ?_, ?_, ?_, ⟨0, ?_, ?_⟩, ?_⟩ <;> decide +kernel

theorem witness_PowerLineReceives_foreign : foreignFrame.length ≤ 198 ∧ leAt foreignFrame 0 2 = 0x1809 ∧ leAt foreignFrame 3 2 ≠ sPlc.seg ∧ leAt foreignFrame 5 2 = 0xFFFF ∧ octAt foreignFrame 7 = 0x0D ∧ octAt foreignFrame 12 = 1 ∧
    (sPlc.slot (sPlc.rd PLM_SEC_PKSLOT0)).any (fun k => k.allows opLink ctxPlm && (opened5 k.key (ccmNonce 9 0x0800 (leAt foreignFrame 8 4) 5) foreignFrame 13).any (fun p => octAt p 0 == 0xBD)) = true ∧
    (after (.plcFrameReceive foreignFrame goodPlc 0x1234#16 9#8) sPlc).rd PLM_STATUS_FOREIGN = 1 := by decide +kernel

theorem witness_PowerLineReceives_contacts : (∀ m ∈ [1, 2], let s := sPlcReport m; s.up = true ∧ s.reportCell 2047 = some 33 ∧ s.cellStart 0 34 = 1700000000 ∧ s.plcPast 1700000000 = true ∧ s.rd PLM_CTRL_RUNST = 1 ∧ bit (s.plcEntry 2047) 31 = true ∧
    s.plcReports 2047 0 = true ∧ (s.plcLink 2047).judgedBy 0 = false ∧ s.rfl.quiet = none ∧ (0 ∉ (s.plcLink 2047).met) ∧ s.rd (PLM_LTAB_W3_MISS 2047) = m) ∧ 0 ∈ (((sPlcReport 1).onPlcLink 2047 (fun x => { x with met := [0] })).plcLink 2047).met := by decide +kernel

theorem test_power_line_receives : (after (.plcFrameReceive aPlcFrame goodPlc 0x1234#16 9#8) sPlc).rd (PLM_LTAB_W2_FC 2047) = 5 ∧ (after (.plcFrameReceive aPlcFrame goodPlc 0x1234#16 9#8) sPlc).sent.map (fun x => (x.at', x.octets)) = [(21000000, [octet 0x34, octet 0x12])] ∧
    (after (.plcFrameReceive aPlcFrame goodPlc 0x1234#16 9#8) (sPlc.wr (PLM_LTAB_W2_FC 2047) 5)).rd PLM_STATUS_REPLAY = 1 ∧ (after (.plcFrameReceive aPlcFrame { goodPlc with robo := true } 0x1234#16 9#8) sPlc).rd PLM_DROP_COUNT = 1 ∧
    (after (.plcReportMiss 2047 0) (sPlcReport 2)).rd (PLM_LTAB_W3_PRES 2047) = 0 := by decide +kernel

/-- Reflect is enabled, metering RUNNING, and a run at 100 ms may be armed at 0. -/
def sRfl : State := (((sCrz.wr PLM_CTRL_REFL_EN 1).wr PLM_CTRL_RUNST_R 1).wr PLM_RFL_TSTART_T10 10 |>.wr MTR_CTRL_RUNST 1).wr (DCQ_Q_W0_RUNST 12) 1

/-- Slot 0 holds a baseline of the settings of reset. -/
def aBase : Octets := [octet 1, octet 0, octet 8, octet 8] ++ zeros 60
def basePst (c : Octets) : PstState := ⟨memWrite [] (baselineAt 0) (frameRecord (aBase ++ c)), [], 0⟩
def sBaseOf (p : PstState) : State := { sRfl with pst := p }
def sBase : State := sBaseOf (basePst (zeros 4096))

/-- A run in a phase. -/
def aRun (b : Bool) (n : Nat) : ReflectRun := ⟨b, 0, 100000000, 1, n, [], [], []⟩
def sRun (s : State) (b : Bool) (n phase : Nat) : State := { (at' s 100000000).wr PLM_RFL_STAT_PHASE phase with rfl := ⟨some (aRun b n), some (100000000, 100000000), true, [], []⟩ }

theorem aBase_length : aBase.length = 64 := by decide +kernel

theorem baseline_valid_of (s : State) (c : Octets) (hc : c.length = 4096) (h : s.pst = basePst c) : s.baselineValid 0 = true :=
  record_valid s (baselineAt 0) 4096 aBase c [] aBase_length hc (by rw [h, basePst]) (by rw [h, basePst])

theorem baseline_is_valid (s : State) (h : s.pst = sBase.pst) : s.baselineValid 0 = true := baseline_valid_of s (zeros 4096) (zeros_length _) h

theorem baseline_found_of (s : State) (c : Octets) (hc : c.length = 4096) (hs : s.pst = basePst c) (hu : s.rflSetup = 8) (hg : s.rd PLM_RFL_CFG_RXG = 8) (ho : s.on PLM_RFL_CFG_COND = false) : s.findBaseline = some 0 := by
  have h : s.pstOctets (baselineAt 0) 64 = aBase.take 56 ++ le 4 (crc32c (aBase.take 56 ++ c)) ++ le 4 validMark := by
    have e := record_reads s (baselineAt 0) 4096 aBase c [] aBase_length hc (by rw [hs, basePst]) (by rw [hs, basePst])
    have l : (aBase.take 56 ++ le 4 (crc32c (aBase.take 56 ++ c)) ++ le 4 validMark).length = 64 := by simp [aBase_length, le]
    have q : s.pstOctets (baselineAt 0) 64 = (s.pstOctets (baselineAt 0) (64 + 4096)).take 64 := (memRead_take _ _ 64 4096).symm
    rw [q, e, List.take_append_of_le_length (by omega), List.take_of_length_le (by omega)]
  have o (x : Nat) : octAt (aBase.take 56 ++ le 4 x ++ le 4 validMark) 2 = 8 ∧ octAt (aBase.take 56 ++ le 4 x ++ le 4 validMark) 3 = 8 := ⟨rfl, rfl⟩
  have p : (s.baselineValid 0 && (let h := s.pstOctets (baselineAt 0) 64
    octAt h 2 % 32 == s.rflSetup && octAt h 3 == s.rd PLM_RFL_CFG_RXG && (!s.on PLM_RFL_CFG_COND || leAt h 4 2 == s.rd PLM_RFL_LEVEL_LEVEL))) = true := by
    rw [baseline_valid_of s c hc hs, h]
    dsimp only
    rw [(o _).1, (o _).2, hu, hg, ho]
    rfl
  unfold State.findBaseline
  exact List.find?_cons_of_pos p

theorem reflect_settings : sRfl.serves .A ∧ sRfl.rd PLM_CTRL_REFL_EN = 1 ∧ sRfl.rflPhase = 0 ∧ sRfl.now + (if sRfl.rd PLM_RFL_CFG_COND = 0 then 100000000 else 7000000000) ≤ sRfl.tStart ∧ (at' sRfl 1).tStart < (at' sRfl 1).now + 100000000 ∧
    sRfl.rflSetup = 8 ∧ sRfl.rd PLM_RFL_CFG_RXG = 8 ∧ sRfl.on PLM_RFL_CFG_COND = false := by unfold State.serves; decide +kernel

theorem store_settings (s : State) (p : PstState) : (({ s with pst := p } : State).serves .A = s.serves .A) ∧ (∀ f, ({ s with pst := p } : State).rd f = s.rd f) ∧ ({ s with pst := p } : State).tStart = s.tStart ∧
    ({ s with pst := p } : State).now = s.now ∧ ({ s with pst := p } : State).rflPhase = s.rflPhase ∧ ({ s with pst := p } : State).rflSetup = s.rflSetup ∧ ({ s with pst := p } : State).on PLM_RFL_CFG_COND = s.on PLM_RFL_CFG_COND :=
  ⟨rfl, fun _ => rfl, rfl, rfl, rfl, rfl, rfl⟩

theorem baseline_settings (p : PstState) : (sBaseOf p).serves .A ∧ (sBaseOf p).rd PLM_CTRL_REFL_EN = 1 ∧ (sBaseOf p).rflPhase = 0 ∧ (sBaseOf p).now + (if (sBaseOf p).rd PLM_RFL_CFG_COND = 0 then 100000000 else 7000000000) ≤ (sBaseOf p).tStart ∧
    (sBaseOf p).rflSetup = 8 ∧ (sBaseOf p).rd PLM_RFL_CFG_RXG = 8 ∧ (sBaseOf p).on PLM_RFL_CFG_COND = false := by
  have ⟨v, r, k1, k2, k3, k4, k5⟩ := store_settings sRfl p
  have ⟨a, b, c, d, _, e⟩ := reflect_settings
  unfold sBaseOf
  rw [v, r, r, r, k1, k2, k3, k4, k5]
  exact ⟨a, b, c, d, e⟩

theorem baseline_is_found : sBase.findBaseline = some 0 :=
  have h := (baseline_settings (basePst (zeros 4096))).2.2.2.2
  baseline_found_of _ _ (zeros_length _) rfl h.1 h.2.1 h.2.2

theorem witness_ReflectRuns : sBase.serves .A ∧ sBase.rd PLM_CTRL_REFL_EN = 1 ∧ sBase.rflPhase = 0 ∧ sBase.now + (if sBase.rd PLM_RFL_CFG_COND = 0 then 100000000 else 7000000000) ≤ sBase.tStart ∧ sBase.findBaseline = some 0 ∧
    (at' sRfl 1).tStart < (at' sRfl 1).now + 100000000 :=
  have ⟨a, b, c, d, _⟩ := baseline_settings (basePst (zeros 4096))
  ⟨a, b, c, d, baseline_is_found, reflect_settings.2.2.2.2.1⟩

theorem witness_ReflectRuns_ends : (∀ p ∈ [1, 2, 3, 4, 5], (sRun sRfl false 16 p).serves .A ∧ (sRun sRfl false 16 p).rfl.run = some (aRun false 16) ∧ (sRun sRfl false 16 p).rflPhase = p ∧ (sRun sRfl false 16 p).rd PLM_CTRL_RUNST_R = 1) := by
  unfold State.serves; decide +kernel

theorem witness_ReflectRuns_phases : (sRun sRfl false 0 1).up = true ∧ (aRun false 0).start ≤ (sRun sRfl false 0 1).now ∧ (sRun sRfl false 0 1).rd MTR_CTRL_RUNST = 1 ∧
    bit ((sRun sRfl false 0 1).rd MTR_PHST_VPRES) (sRun sRfl false 0 1).sPath = (sRun sRfl false 0 1).on PLM_RFL_CFG_COND ∧ ((sRun sRfl false 0 1).wr MTR_CTRL_RUNST 0).rd MTR_CTRL_RUNST ≠ 1 ∧ (sRun sRfl false 0 2).rd (DCQ_Q_W0_RUNST 12) = 1 ∧
    (sRun sRfl false 0 2).rd PLM_RFL_STAT_SHOTS + 1 < 65536 ∧ (aRun false 15).repeats < 16 ∧ 16 ≤ (aRun false 16).repeats ∧ 4096 ≤ (List.replicate 4096 (3 : Int)).length ∧ ([3] : List Int).length < 4096 ∧ (sRun sRfl true 0 4).condHolds = true ∧ (sRun sRfl false 0 5).rflPhase = 5 ∧
    (sRun sRfl false 0 2).rfl.quiet = some (100000000, 100000000) ∧ (sRun sRfl false 0 2).rfl.quietOn = true := by decide +kernel

theorem witness_ReflectRuns_process : (sRun sBase false 0 4).rflPhase = 4 ∧ (sRun sBase false 0 4).up = true ∧ (sRun sBase false 0 4).condHolds = true ∧ (sRun sBase false 0 4).baselineValid 0 = true ∧
    (let b := ((sRun sRfl true 0 4).reflectHalves [] []).any (fun y => decide ((sRun sRfl true 0 4).rd PLM_RFL_DET_THR < 2 * y)); b = true ∨ b = false) :=
  ⟨by decide +kernel, by decide +kernel, by decide +kernel, baseline_is_valid _ rfl, by dsimp only; cases ((sRun sRfl true 0 4).reflectHalves [] []).any _ <;> simp⟩

theorem test_reflect : (after (.start .A) sRfl).rd PLM_STATUS_STARTREJ = 1 ∧ (after (.baseline .A 7#3) sRfl).rflPhase = 1 ∧ (after (.abort .A) (sRun sRfl false 0 1)).waiting = [] ∧ (after (.abort .A) (sRun sRfl false 0 3)).rd PLM_STATUS_RABORT = 1 ∧
    (after (.reflectRunStart []) (sRun sRfl false 0 1)).rflPhase = 2 ∧ (after (.shot (List.replicate 4096 3) false false) (sRun sRfl false 0 2)).rfl.run.map (fun r => r.accA.take 2) = some [3, 3] ∧ (after (.shot [3] false false) (sRun sRfl false 0 2)).rfl.run.map (·.repeats) = some 1 ∧ (after (.shot [] true false) (sRun sRfl false 16 2)).rd PLM_STATUS_RABORT = 1 ∧
    (after .baselineWriteDone (sRun sRfl true 0 5)).rd PLM_STATUS_BASEDONE = 1 ∧ (after .quietWindowEnd (sRun sRfl false 0 3)).rfl.quietOn = false := by decide +kernel

/-! ### The backhaul ports, Day Rest and the pole bus -/

/-- Both ports RUNNING and linked, independent, with the address 2 and a service ring of two slots. -/
def sBh : State :=
  let s := (((sCrz.wr (BHM_CTRL_RUNST 0) 1).wr (BHM_CTRL_RUNST 1) 1).wr (BHM_CTRL_LINK 0) 1).wr (BHM_CTRL_LINK 1) 1
  ((((s.wr (BHM_MAC_ADDR 0) 2).wr (BHM_MAC_ADDR 1) 3).wr (BHM_SRX_SIZE_VALUE 0) 2).wr (DCQ_Q_W0_RUNST 0) 1).wr (DCQ_Q_W0_RUNST 4) 1

/-- The same with one port down, in HSR, or with a ring state. -/
def sDown1 : State := (sBh.wr (BHM_CTRL_LINK 1) 0)
def sHsr : State := sBh.wr (BHM_CTRL_RING 0) 1

/-- A frame of 60 octets to `dst` from `src`, and one with an HSR tag of sequence number 77. -/
def aBhFrame (dst src : Nat) : Octets := be 6 dst ++ be 6 src ++ be 2 0x1234 ++ zeros 46
def aHsrFrame (dst src : Nat) : Octets := be 6 dst ++ be 6 src ++ be 2 0x892F ++ be 2 50 ++ be 2 77 ++ be 2 0x1234 ++ zeros 40

/-- A frame received without error. -/
def goodRx : RxMeet := ⟨false, .none, 0, false, false, false, false⟩

/-- A frame sent whole. -/
def wholeTx : TxMeet := ⟨[], false⟩

/-- A local frame that waits at port 0. -/
def anItem : TxItem := ⟨3, none, aBhFrame 5 2, 0, true, false, none, false, false, false⟩

/-- A frame of the pole bus ring. -/
def aPoleItem : TxItem := ⟨0, some (2, 1), le 4 0x10000000 ++ le 4 60 ++ zeros 24, 0, true, false, none, false, false, false⟩

/-- The pole bus RUNNING with node 7 enabled, and a frame that has met `n` collisions. -/
def sPole (n : Nat) (b : Option (Nat × Nat)) : State :=
  let s := ((sBh.wr PBM_CTRL_RUNST 1).wr (PBM_NODE_EN 7) 1).wr (PBM_NODE_ADDR 7) 9
  { s with bh := { s.bh with pole := ⟨[aPoleItem], n, b, false, 0⟩ } }

theorem witness_LinksAndPauses : (∀ m ∈ [1, 3], sBh.up = true ∧ (sDown1.wr (BHM_CTRL_RUNST 1) m).up = true ∧ (sDown1.wr (BHM_CTRL_RUNST 1) m).rd (BHM_CTRL_RUNST 1) = m ∧ (sDown1.wr (BHM_CTRL_RUNST 1) m).rd (BHM_CTRL_LINK 1) = 0) ∧
    (∀ m ∈ [0, 1, 2], (sDown1.wr (BHM_CTRL_MODE 1) m).portMode 1 = m) ∧ (let s := (sDown1.wr (BHM_CTRL_RING 0) 1).wr (BHM_CTRL_MODE 1) 1; s.ring = 1 ∧ s.rd (BHM_CTRL_LINK 0) = 1 ∧ s.portMode 1 ≠ s.portMode 0 ∧ s.rd (BHM_CTRL_LINK 1) = 0) ∧
    sDown1.ring ≠ 1 ∧ sBh.rd (BHM_CTRL_LINK 1) ≠ 0 ∧ (∀ n ∈ [2, 3], let s := sBh.onPort 1 (fun x => { x with verifying := true, verifies := n }); s.up = true ∧ (s.port 1).verifying = true ∧ (s.port 1).verifies = n ∧
      s.elapsed < (s.port 1).verifyAt + s.rd (BHM_TCCFG_VERIFY_MS 1) * 1000000 ∧ (let u := { s with cycles := 1000000000 }; (u.port 1).verifyAt + u.rd (BHM_TCCFG_VERIFY_MS 1) * 1000000 ≤ u.elapsed)) ∧
    (let s := (sDown1.wr (BHM_CTRL_PREEMPT 1) 1).wr (BHM_CTRL_VERIFY_DIS 1) 1; s.rd (BHM_CTRL_PREEMPT 1) ≠ 0 ∧ s.rd (BHM_CTRL_VERIFY_DIS 1) ≠ 0) ∧
    (let s := (sDown1.wr (BHM_CTRL_PREEMPT 1) 1).wr (BHM_CTRL_VERIFY_DIS 1) 0; s.rd (BHM_CTRL_PREEMPT 1) ≠ 0 ∧ s.rd (BHM_CTRL_VERIFY_DIS 1) = 0 ∧ s.rd (BHM_CTRL_LINK 1) = 0) := by decide +kernel

theorem witness_LinksAndPauses_pauses : sBh.portUp 0 = true ∧ sBh.express 0 4 = false ∧ kvFind (sBh.port 0).ignore 4 = none ∧ (sBh.wr (BHM_TCCFG_PAUSE_EN 0) 1).rd (BHM_TCCFG_PAUSE_EN 0) ≠ 0 ∧ (sBh.wr (BHM_TCCFG_PFC_EN 0) 1).rd (BHM_TCCFG_PFC_EN 0) ≠ 0 ∧
    bit (0x10#8).toNat 4 = true ∧ bit (0x10#8).toNat 3 = false ∧ sBh.express 0 3 = false ∧ nth 0 [0] 0 % 65536 = 0 ∧ nth 0 [65535] 0 % 65536 ≠ 0 ∧
    (let s := { sBh.onPort 0 (fun x => { x with pauses := [(4, ⟨0, 20⟩)] }) with cycles := 1000000000 }; s.up = true ∧ kvFind (s.port 0).pauses 4 = some ⟨0, 20⟩ ∧ 20 ≤ s.elapsed) ∧ sBh.overrun 0 4 = false ∧
    (∀ c ∈ [sBh.pwd 0 / 4, 1000000000], let s := { sBh.onPort 0 (fun x => { x with pauses := [(4, ⟨0, 2000000000⟩)] }) with cycles := c }
      s.up = true ∧ s.portUp 0 = true ∧ kvFind (s.port 0).pauses 4 = some ⟨0, 2000000000⟩ ∧ 0 + s.pwd 0 ≤ 2000000000 ∧ 0 + s.pwd 0 ≤ s.elapsed ∧ (c = sBh.pwd 0 / 4 → 0 + s.pwd 0 = s.elapsed)) ∧
    (∀ c ∈ [0, 1000000000], let s := { sBh with bh := { sBh.bh with dup := [(9, ⟨none, none, none, 0⟩)] }, cycles := c }; kvFind s.bh.dup 9 = some ⟨none, none, none, 0⟩ ∧ (if c = 0 then s.elapsed < 0 + s.forget else 0 + s.forget ≤ s.elapsed)) := by decide +kernel

theorem test_links_and_pauses : (after (.linkUp 1 1#2 false) sDown1).portUp 1 = true ∧ (after (.linkUp 1 1#2 true) (sDown1.wr (BHM_CTRL_MODE 1) 2)).rd (BHM_STATUS_MODEERR 1) = 1 ∧ (after (.linkDown 1) sBh).rd (BHM_CTRL_LINK 1) = 0 ∧
    (after (.verifyMpacketTimer 1) { sBh.onPort 1 (fun x => { x with verifying := true, verifies := 3 }) with cycles := 1000000000 }).rd (BHM_STATUS_VERIFYFAIL 1) = 1 ∧ (after (.respondMpacketReceive 1) (sBh.onPort 1 (fun x => { x with verifying := true, verifies := 3 }))).rd (BHM_CTRL_PVERIFIED 1) = 1 ∧
    kvFind ((after (.pauseReceive 0 true 0x10#8 [0, 0, 0, 0, 10]) (sBh.wr (BHM_TCCFG_PFC_EN 0) 1)).port 0).pauses 4 = some ⟨0, 5120⟩ ∧
    (after (.pauseWatchdogExpiry 0 4) { sBh.onPort 0 (fun x => { x with pauses := [(4, ⟨0, 2000000000⟩)] }) with cycles := 1000000000 }).rd (BHM_STATUS_PAUSEOVR 0) = 1 ∧
    ((after (.pauseExpiry 0 4) { sBh.onPort 0 (fun x => { x with pauses := [(4, ⟨0, 20⟩)] }) with cycles := 5 }).port 0).pauses = [] ∧
    (after (.duplicateEntryForget 9#48) { sBh with bh := { sBh.bh with dup := [(9, ⟨none, none, none, 0⟩)] }, cycles := 1000000000 }).bh.dup = [] := by decide +kernel

theorem witness_RingFrames : sBh.up = true ∧ sBh.portUp 0 = true ∧ goodRx.err = .none ∧ 60 ≤ (aBhFrame 2 9).length ∧ (aBhFrame 2 9).length + 4 ≤ sBh.maxRx 0 ∧ goodRx.verify = false ∧ sBh.bh.woke ≠ some sBh.cycles ∧ sBh.dcqFits 0 1000 = true ∧ (let s := sBh.wr (BHM_CTRL_PREEMPT 0) 1; s.up = true ∧ s.portUp 0 = true ∧ s.rd (BHM_CTRL_PREEMPT 0) ≠ 0) ∧
    ptpAt (aBhFrame 2 9) = none ∧ sBh.rd BHM0_DR_STAT_STATE = 0 ∧ sBh.rd FLT_CTRL_COLLECTOR = 0 ∧ sBh.ring = 0 ∧
    sBh.addressed 0 (aBhFrame 2 9) = true ∧ (∀ a ∈ [0, 1, 2], ((sBh.wr (BHM_RXCFG_DEFACT 0) a).steer 0 (aBhFrame 2 9)).1 = a) ∧
    (sBh.dcqOffer 0 (sBh.event 72 0 0x01 (le 2 60 ++ [octet (sBh.steer 0 (aBhFrame 2 9)).2, octet 0] ++ aBhFrame 2 9) (sBh.ingress 0 0))).2 = true ∧
    goodRx.full = false ∧ (sBh.rd (BHM_SRX_WR_VALUE 0) + 1) % sBh.srxSize 0 ≠ sBh.rd (BHM_SRX_RD_VALUE 0) % sBh.srxSize 0 ∧ sBh.addressed 0 (aBhFrame 4 9) = false := by decide +kernel

theorem witness_RingFrames_hsr : sHsr.ring = 1 ∧ hasHsr (aHsrFrame 4 9) = true ∧ beAt (aHsrFrame 4 9) 6 6 ≠ sHsr.macOf 0 ∧ isPdelay (aHsrFrame 4 9) = false ∧ beAt (aHsrFrame 4 9) 0 6 ≠ sHsr.macOf 0 ∧ (sHsr.dupTest 9 2 77).2.1 = true ∧ sHsr.portUp 1 = true ∧
    goodRx.fwdFull = false ∧ goodRx.fwdCut = false ∧ (let s := sHsr.wr (DCQ_Q_W0_RUNST 16) 1; s.dcqOpen (fwdQueue 1) = true ∧ s.dcqUsed (fwdQueue 1) + frameWords (aHsrFrame 4 9).length ≤ dcqDepth (fwdQueue 1)) ∧ sHsr.addressed 0 (aHsrFrame 4 9) = false ∧ 60 ≤ (aHsrFrame 4 9).length ∧ (aHsrFrame 4 9).length + 4 ≤ sHsr.maxRx 0 ∧ ptpAt (aHsrFrame 4 9) = none ∧
    (let s := { sHsr with bh := { sHsr.bh with dup := [(9, ⟨some ⟨77, 1⟩, none, none, 0⟩)] } }; kvFind s.bh.dup 9 = some ⟨some ⟨77, 1⟩, none, none, 0⟩ ∧ (DupWindow.test (some ⟨77, 1⟩) 77).2.1 = false ∧ s.addressed 0 (aHsrFrame (2 ^ 48 - 1) 9) = true ∧
      beAt (aHsrFrame (2 ^ 48 - 1) 9) 0 6 ≠ s.macOf 0 ∧ s.portUp 0 = true) := by decide +kernel

/-- A frame waits to be forwarded out of port 1, which ended with an error; a frame waits at port 0, which verifies preemption. -/
def aForward : Forward := ⟨aBhFrame 4 9, aStamp, 0, true, 0⟩
def sFwd : State := (sBh.wr (DCQ_Q_W0_RUNST 16) 1).onPort 1 (fun x => { x with fwd := [aForward] })
def sItem : State := { sBh.wr (DCQ_Q_W0_RUNST 1) 1 with bh := { sBh.bh with items := [anItem] } }

theorem witness_RingFrames_sending : sFwd.up = true ∧ sFwd.forwardFirst 1 = true ∧ sFwd.firstForward 1 = some aForward ∧ sFwd.portUp 1 = true ∧ (sFwd.rd TB_CTRL_TC_EN = 0 ∨ ptpType (aBhFrame 4 9) ≠ some 0) ∧ sFwd.rd (BHM_CTRL_PVERIFIED 1) = 0 ∧ sItem.dcqOpen 1 = true ∧
    (let s := sFwd.wr (BHM_CTRL_LINK 1) 0; s.portUp 1 = false ∧ s.forwardFirst 1 = true) ∧ sBh.serves .A ∧ (sBh.wr (BHM_CTRL_RUNST 1) 0).serves .A ∧ (sBh.wr (BHM_CTRL_RUNST 1) 0).rd (BHM_CTRL_RUNST 1) ≠ 1 ∧ sBh.rd (BHM_TX_HEAD_VALUE 1) < sBh.txSize 1 ∧
    sItem.up = true ∧ sItem.forwardFirst 0 = false ∧ sItem.firstLocal 0 = some anItem ∧ sItem.portUp 0 = true ∧ sItem.ring = 0 ∧ anItem.owner = none ∧ sItem.rd (BHM_CTRL_PVERIFIED 0) = 0 ∧ (let s := sItem.wr (BHM_CTRL_LINK 0) 0; s.portUp 0 = false ∧ s.firstLocal 0 = some anItem ∧ s.forwardFirst 0 = false) ∧
    (let s := { sBh with bh := { sBh.bh with backs := [⟨1, 5, 0, 1, true⟩] } }; s.up = true ∧ s.bh.backs = [⟨1, 5, 0, 1, true⟩]) := by unfold State.serves; decide +kernel

theorem test_ring_frames : (after (.bhFrameReceive 0 0 (aBhFrame 2 9) goodRx) sBh).rd (BHM_SRX_WR_VALUE 0) = 1 ∧ ((after (.bhFrameReceive 0 0 (aBhFrame 2 9) goodRx) (sBh.wr (BHM_RXCFG_DEFACT 0) 1)).waiting.map (·.ev.kind)) = [1] ∧
    (after (.bhFrameReceive 0 0 (aBhFrame 4 9) goodRx) sBh).rd (BHM_CNT_COUNT 0 18) = 1 ∧ ((after (.bhFrameReceive 0 0 (aHsrFrame 4 9) goodRx) (sHsr.wr (DCQ_Q_W0_RUNST 16) 1)).port 1).fwd.map (·.octets) = [aHsrFrame 4 9] ∧
    (after (.hsrForward 1 0 wholeTx) sFwd).sent.map (fun x => (x.octets, x.check)) = [(aBhFrame 4 9, (crc32 (aBhFrame 4 9)).xor 0xFFFFFFFF)] ∧ (after (.hsrForward 1 0 wholeTx) sFwd).rd (BHM_STATUS_STOMP 1) = 1 ∧
    (after (.txFrameSend 0 0 wholeTx) sItem).sent.map (·.octets) = [aBhFrame 5 2] ∧ (after (.bhFrameReceive 0 0 [] { goodRx with verify := true }) (sBh.wr (BHM_CTRL_PREEMPT 0) 1)).sent.map (·.part) = [.respond] ∧
    (after (.bhFrameReceive 0 0 (aBhFrame 2 9) { goodRx with full := true }) sBh).rd (BHM_STATUS_RXOVF 0) = 1 ∧ (after (.txTailWrite .A 1 5#32) (sBh.wr (BHM_TX_SIZE_VALUE 1) 8)).rd (BHM_TX_HEAD_VALUE 1) = 5 ∧
    (after .descriptorWriteback { sBh with bh := { sBh.bh with backs := [⟨1, 5, 0, 1, true⟩] } }).rd (BHM_STATUS_TXDONE 1) = 1 := by decide +kernel

/-- Day Rest at rest, with its wake time come. -/
def sRest : State := { (at' sBh 20000000).wr BHM0_DR_STAT_STATE 2 with crz := { sBh.crz with rest := true }, saf := { sBh.saf with drained := true } } |>.wr BHM0_DR_WAKE_T_TEN 1 |>.wr BHM0_DR_WAKE_T_T10 2

theorem witness_DayRestAndPoleBus : sBh.serves .A ∧ sBh.crzOn = true ∧ sBh.rd LSC_CTRL_SPLIT = 0 ∧ (∀ m ∈ [Lane.A, Lane.B], sBh.role m ≠ roleJoining ∧ sBh.role m ≠ roleBist) ∧ sBh.rd BHM0_DR_STAT_STATE = 0 ∧ (sBh.wr BHM0_DR_WAKE_T_TEN 1).rd BHM0_DR_WAKE_T_TEN ≠ 0 ∧
    (sBh.wr (BHM0_WP_W4_EN 7) 1).rd (BHM0_WP_W4_EN 7) ≠ 0 ∧ (sBh.wr CRZ_CTRL_EN 0).crzOn = false ∧ (0xDA7F#16) ≠ 0xDA7E#16 ∧ sRest.up = true ∧ sRest.rd BHM0_DR_WAKE_T_TEN ≠ 0 ∧ sRest.rd BHM0_DR_WAKE_T_T10 * 10000000 ≤ sRest.now ∧ sRest.rd BHM0_DR_STAT_STATE = 2 ∧
    sRest.crz.rest = true ∧ (let s := { sRest.wr BHM0_DR_STAT_STATE 1 with crz := sBh.crz }; s.rd BHM0_DR_STAT_STATE = 1 ∧ s.crz.rest = false ∧ s.up = true) ∧
    sRest.saf.drained = true ∧ sRest.tb.now.sec % 4 = 0 ∧ sRest.saf.restSecond ≠ some sRest.tb.now.sec ∧ sRest.inService .A = true := by unfold State.serves; decide +kernel

theorem witness_DayRestAndPoleBus_pole : (sPole 0 none).up = true ∧ (sPole 0 none).rd PBM_CTRL_RUNST = 1 ∧ 60 ≤ (aBhFrame 2 9).length ∧ (aBhFrame 2 9).length + 4 ≤ clampN 64 2000 ((sPole 0 none).rd PBM_RXCFG_MAXRX) ∧ (sPole 0 none).poleNode (beAt (aBhFrame 2 9) 6 6) = some 7 ∧
    ((sPole 0 none).dcqOffer 4 ((sPole 0 none).event 74 7 0x01 (le 2 60 ++ [octet 255, octet 0] ++ aBhFrame 2 9) ((sPole 0 none).replica repPole))).2 = true ∧ (sPole 0 none).poleNode (beAt (aBhFrame 2 8) 6 6) = none ∧ (sPole 14 none).bh.pole.items = [aPoleItem] ∧ (sPole 14 none).bh.pole.backoff = none ∧
    aPoleItem.owner = some (2, 1) ∧ (let s := (sPole 0 none).wr (DCQ_Q_W0_RUNST 5) 1; s.rd PBM_CTRL_CRS = 0 ∧ s.bh.pole.gapUntil ≤ s.elapsed ∧ s.dcqOpen 5 = true ∧ s.rd PBM_CTRL_RUNST = 1) ∧ (sPole 0 none).bh.pole.deferred = false ∧ (sPole 14 none).bh.pole.tries = 14 ∧ (sPole 15 none).bh.pole.tries = 15 ∧ ({ sPole 1 (some (1, 0)) with cycles := 12800 } : State).bh.pole.backoff = some (1, 0) ∧ 0 + 1 * 51200 ≤ ({ sPole 1 (some (1, 0)) with cycles := 12800 } : State).elapsed ∧
    (sPole 1 (some (1, 0))).elapsed < 0 + 1 * 51200 := by decide +kernel

theorem test_day_rest : gives (.enter .A 0xDA7E#16 true) (sBh.wr BHM0_DR_WAKE_T_TEN 1) ((sBh.wr BHM0_DR_WAKE_T_TEN 1).wr BHM0_DR_STAT_STATE 1) = true ∧ gives (.enter .A 0xDA7E#16 true) sBh (sBh.wr (BHM_STATUS_DRREJ 0) 1) = true ∧ (after .drWakeTime sRest).crz.rest = false ∧
    (after .drWakeTime sRest).rd BHM0_DR_STAT_TIME = 1 ∧ (after .heartbeatRestToggle sRest).saf.level = !sRest.saf.level := by decide +kernel

theorem test_pole_bus : ((after (.pbFrameReceive (aBhFrame 2 9) true) (sPole 0 none)).waiting.map (·.ev.src)) = [srcId sBh.seg 7 74] ∧ (after (.pbFrameReceive (aBhFrame 2 8) true) (sPole 0 none)).rd PBM_STATUS_UNKNOWN = 1 ∧
    (after (.pbFrameReceive (aBhFrame 2 9) false) (sPole 0 none)).rd (PBM_CNT_COUNT 2) = 1 ∧ (after (.pbFrameTransmit false false) ((sPole 0 none).wr (DCQ_Q_W0_RUNST 5) 1)).sent.map (fun x => (x.medium, x.octets.length)) = [(2, 60)] ∧ (after (.pbFrameTransmit true false) ((sPole 0 none).wr (DCQ_Q_W0_RUNST 5) 1)).rd PBM_CTRL_CRS = 1 ∧ (after (.pbCollision false) (sPole 14 none)).bh.pole.tries = 15 ∧
    (after (.pbCollision false) (sPole 15 none)).rd PBM_STATUS_EXCOLL = 1 ∧ (after (.pbCollision true) (sPole 0 none)).rd PBM_STATUS_LATECOLL = 1 ∧ (after .pbBackoffExpiry { sPole 1 (some (1, 0)) with cycles := 12800 }).bh.pole.backoff = none := by decide +kernel

/-! ### Metering and SF1 -/

/-- Metering in a state of operation, the last sample number `n`. -/
def sMtr (st n : Nat) : State := { sCrz.wr MTR_CTRL_RUNST st with mtr := { sCrz.mtr with lastN := some n, settled := 64, sf1RunA := true, sf1RunB := true } }

/-- The same in FREE, or with a summary due, and with path B of SF1 driving for `ns` and its 320 samples at `x`. -/
def sFree (n : Nat) : State := (sMtr 1 n).wr MTR_PHST_FREE 7
def sSum : State := { sMtr 0 1 with mtr := { (sMtr 0 1).mtr with due := [(3, zeros 16)] }, dcq := sCrz.dcq } |>.wr (DCQ_Q_W0_RUNST 13) 1
def sTrip (c : Nat) : State := { (sMtr 1 1).wr MTR_SF1_PATHB 1 with mtr := { (sMtr 1 1).mtr with sf1B := some 0, sf1First := some (1, 0) }, cycles := c }
def sDigital (ns : Nat) (n : Nat) (x : Int) : State :=
  { (sMtr 1 1).wr MTR_SF1_PATHB (b2n (0 < ns)) with mtr := { (sMtr 1 1).mtr with sf1B := if 0 < ns then some ns else none, sf1Hist := List.replicate 320 x, sf1Count := n } }

/-- Path A with its filter above the operating point for `ns`, driving its output for `d`. -/
def sAnalog (ns d : Nat) : State := { (sMtr 1 1).wr MTR_SF1_PATHA (b2n (0 < d)) with mtr := { (sMtr 1 1).mtr with sf1A := if 0 < d then some d else none, sf1Timer := ns } }

theorem witness_MeteringWindows : (at' (sMtr 1 5) 6249999999).up = true ∧ (sMtr 1 5).rd MTR_CTRL_RUNST ≠ 0 ∧ (at' (sMtr 1 5) 375000).mtr.lastN ≠ some ((at' (sMtr 1 5) 375000).now / sampleNs) ∧ (at' (sMtr 1 5) 374999).mtr.lastN = some ((at' (sMtr 1 5) 374999).now / sampleNs) ∧
    (sMtr 0 5).rd MTR_CTRL_RUNST = 0 ∧ (2 : Fin 3).val < (sMtr 1 5).mtr.phases.length ∧ (sMtr 1 480).phBit MTR_PHST_FREE 2 = false ∧ (sMtr 1 480).zcTimeout ≤ (sMtr 1 480).since 2 ∧ (sMtr 1 479).since 2 < (sMtr 1 479).zcTimeout ∧
    (sFree 320).phBit MTR_PHST_FREE 2 = true ∧ (sFree 320).nominal ≤ (sFree 320).since 2 ∧ (sFree 319).since 2 < (sFree 319).nominal ∧ (sFree 320).rd MTR_CTRL_RUNST = 1 := by decide +kernel

theorem witness_MeteringWindows_others : sSum.up = true ∧ sSum.rd MTR_CTRL_RUNST ≠ 1 ∧ sSum.mtr.due = [(3, zeros 16)] ∧ (sSum.dcqOffer 13 (sSum.event 84 0 0x10 (zeros 16) (timeOfNs ((3 + 1) * sSum.P - 1)))).2 = true ∧
    (sMtr 3 1).rd MTR_CTRL_RUNST = 3 ∧ 64 ≤ (sMtr 3 1).mtr.settled ∧ (sMtr 3 1).now % (sMtr 3 1).P < sampleNs ∧ sampleNs ≤ (at' (sMtr 3 1) 62500).now % (sMtr 3 1).P ∧ ({ sMtr 3 1 with mtr := { (sMtr 3 1).mtr with settled := 63 } } : State).mtr.settled < 64 ∧
    (sMtr 1 5).serves .A ∧ (sMtr 3 5).serves .A ∧ (sMtr 1 5).mtr.lastN ≠ some ((sMtr 1 5).now / sampleNs + 1) ∧ (sMtr 2 5).rd MTR_CTRL_RUNST = 2 ∧ (at' (sMtr 2 5) 375000).mtr.lastN ≠ some ((at' (sMtr 2 5) 375000).now / sampleNs) := by unfold State.serves; decide +kernel

theorem test_metering : (after (.meteringSample [0, 0, 0, 0, 0, 0, 0, 0, 0, 0, 0]) (at' (sMtr 3 5) 375000)).mtr.lastN = some 6 ∧ (after (.crossingTimeout 2) (sMtr 1 480)).rd MTR_STATUS_ZCTO = 1 ∧ gives (.crossingTimeout 2) (sMtr 1 479) (sMtr 1 479) = true ∧
    ((after (.freeWindowEnd 2) (sFree 320)).phase 2).ts = 321 * 62500 ∧ (after .creaseSummary sSum).waiting.map (fun w => (w.ev.kind, w.ev.stamp)) = [(0x10, timeOfNs (4 * sSum.P - 1))] ∧ (after .meteringStart (sMtr 3 1)).rd MTR_CTRL_RUNST = 1 ∧
    (after (.meteringStop .A [0, 0, 0, 0, 0, 0, 0, 0, 0, 0, 0]) (sMtr 1 5)).rd MTR_CTRL_RUNST = 0 ∧ (after (.meteringSample [0, 0, 0, 0, 0, 0, 0, 0, 0, 0, 0]) ((at' (sMtr 2 5) 375000).wr MTR_CTRL_EN 1)).rd MTR_CTRL_RUNST = 3 := by decide +kernel

theorem witness_TripsDrive : (sAnalog 0 0).mtr.sf1RunA = true ∧ (sAnalog 0 0).sf1Above 241 = true ∧ (sAnalog 0 0).sf1Above 240 = false ∧ 10000000 ≤ (sAnalog 0 0).mtr.sf1Timer + 10000000 ∧ (sAnalog 0 0).mtr.sf1Timer + 9999999 < 10000000 ∧
    (sAnalog 0 0).sf1Gated 0 = false ∧ (sAnalog 0 0).rd MTR_SF1_PATHA = 0 ∧ (sAnalog 0 190000000).rd MTR_SF1_PATHA = 1 ∧ (sAnalog 0 190000000).mtr.sf1A = some 190000000 ∧ 200000000 ≤ 190000000 + 10000000 := by decide +kernel

theorem witness_TripsDrive_digital : (sDigital 0 79 300000).mtr.sf1RunB = true ∧ (sDigital 0 79 300000).sf1Square ((300000 :: (sDigital 0 79 300000).mtr.sf1Hist).take 320) = true ∧ 79 ≤ (sDigital 0 79 300000).mtr.sf1Count ∧
    (sDigital 0 79 300000).sf1Gated 1 = false ∧ (sDigital 0 79 300000).rd MTR_SF1_PATHB = 0 ∧ (sDigital 0 79 9).sf1Square ((9 :: (sDigital 0 79 9).mtr.sf1Hist).take 320) = false ∧ (sDigital 199937500 0 9).mtr.sf1B = some 199937500 ∧
    (sDigital 199937499 79 300000).rd MTR_SF1_PATHB = 1 ∧ 200000000 ≤ 199937500 + 62500 ∧ 199937499 + 62500 < 200000000 ∧ ({ sMtr 1 1 with mtr := { (sMtr 1 1).mtr with sf1RunA := false, sf1RunB := false } } : State).mtr.sf1RunA = false := by decide +kernel

theorem witness_TripsDrive_disagree : (sTrip 25000000).up = true ∧ (sTrip 25000000).mtr.sf1First = some (1, 0) ∧ (sTrip 25000000).saf.test = none ∧ (sTrip 25000000).saf.quietUntil ≤ (sTrip 25000000).elapsed ∧ 0 + 100000000 ≤ (sTrip 25000000).elapsed ∧
    (sTrip 24999999).elapsed < 0 + 100000000 := by decide +kernel

theorem test_trips : (after (.sf1PathATrip 241 10000000) (sAnalog 0 0)).rd MTR_SF1_PATHA = 1 ∧ (after (.sf1PathATrip 241 9999999) (sAnalog 0 0)).rd MTR_SF1_PATHA = 0 ∧ (after (.sf1PathATrip 241 1) (after (.sf1PathATrip 241 9999999) (sAnalog 0 0))).rd MTR_STATUS_TRIP_A = 1 ∧
    (after (.sf1PathATrip 240 10000000) (sAnalog 0 0)).rd MTR_SF1_PATHA = 0 ∧ (after (.sf1PathBTrip [300000]) (sDigital 0 79 300000)).rd MTR_STATUS_TRIP_B = 1 ∧ (after (.sf1PathBTrip [300000]) (sDigital 0 78 300000)).rd MTR_SF1_PATHB = 0 ∧
    (after (.sf1PathBTrip [300000, 300000]) (sDigital 0 78 300000)).rd MTR_SF1_PATHB = 1 := by decide +kernel

theorem test_trip_releases : (after (.sf1TripRelease (.analog 240 10000000)) (sAnalog 0 190000000)).rd MTR_SF1_PATHA = 0 ∧ (after (.sf1TripRelease (.analog 240 9999999)) (sAnalog 0 190000000)).rd MTR_SF1_PATHA = 1 ∧
    (after (.sf1TripRelease (.digital [9])) (sDigital 199937500 0 9)).rd MTR_SF1_PATHB = 0 ∧ (after (.sf1TripRelease (.digital [9])) (sDigital 199937499 0 9)).rd MTR_SF1_PATHB = 1 ∧ (after .sf1DisagreeTimeout (sTrip 25000000)).rd SAF_STATUS_SF1DIS = 1 := by decide +kernel

theorem witness_TripThresholdOnce : sServe.serves .A ∧ sServe.rd MTR_SF1_LOCKED = 0 ∧ (sServe.wr MTR_SF1_LOCKED 1).rd MTR_SF1_LOCKED ≠ 0 ∧ (sServe.wr MTR_SF1_LOCKED 1).serves .A ∧ sServe.rd MTR_SF1_THR = 0 := by unfold State.serves; decide +kernel

theorem test_threshold : (after (.sf1ThrWrite .A 2#32) sServe).rd MTR_SF1_THR = 2 ∧ (after (.sf1ThrWrite .A 2#32) sServe).rd MTR_SF1_LOCKED = 1 ∧ gives (.sf1ThrWrite .A 1#32) (sServe.wr MTR_SF1_LOCKED 1) (sServe.wr MTR_SF1_LOCKED 1) = true ∧
    (after .pinReset ((sServe.wr MTR_SF1_THR 2).wr MTR_SF1_LOCKED 1)).rd MTR_SF1_THR = 2 ∧ (after .powerOnReset ((sServe.wr MTR_SF1_THR 2).wr MTR_SF1_LOCKED 1)).rd MTR_SF1_LOCKED = 0 := by decide +kernel

/-! ### The persistent store and the recorder -/

/-- A word of the last partition waits in the write buffer. -/
def sBuffer : State := { sServe with pst := ⟨[(0xFFFFF8, octet 5)], [⟨.lane .A, 0xFFFFFC, 0x01020304⟩], 0⟩ }

/-- A period has closed with one word still to write and one of EVR in the buffer; OPSEC stands before its wrap. -/
def sClosing : State := { sBuffer with pst := ⟨[], [⟨.evr, 0x400004, 6⟩], 0⟩, evr := { sBuffer.evr with closing := some (9, [(0x400000, 7)]) } }
def sWrap : State := { sUp with pst := ⟨[(0x3D1004, octet 255), (0x3D1005, octet 255), (0x3D1006, octet 255), (0x3D1007, octet 255)], [], 0⟩ }

theorem witness_PersistentStoreAccess : (∀ l ∈ [Lane.A, Lane.B], sServe.laneRuns l = true ∧ (sServe.lane l).det = false) ∧ 0x20000000 ≤ (0x20FFFFFF#32).toNat ∧ (0x20FFFFFF#32).toNat < 0x21000000 ∧ (0x20FFFFFE#32).toNat % 4 ≠ 0 ∧ okWrite.parity = false ∧ sServe.actsActive .A = true ∧
    sServe.actsActive .B = false ∧ sServe.rd LSC_CTRL_SPLIT = 0 ∧ sServe.pstAllowed (.lane .A) ((0x20380000#32).toNat - 0x20000000) = true ∧ sServe.pstAllowed (.lane .A) ((0x203BFFFC#32).toNat - 0x20000000) = true ∧
    sServe.pstAllowed (.lane .A) ((0x203C0000#32).toNat - 0x20000000) = false ∧ sServe.pstAllowed (.lane .A) ((0x20300000#32).toNat - 0x20000000) = true ∧ (sServe.wr PST_SETSEL_ACT 1).pstAllowed (.lane .A) ((0x20300000#32).toNat - 0x20000000) = false ∧
    sServe.pst.buffer = [] ∧ nth .rld pstWriters ((sBuffer.pst.turn + 0) % 8) = .lane .A ∧ sBuffer.pst.buffer.find? (fun y => y.writer == .lane .A) = some ⟨.lane .A, 0xFFFFFC, 0x01020304⟩ ∧ sBuffer.rfl.store = [] ∧ sBuffer.evr.closing = none ∧ (0x20FFFFF8#32).toNat + 8 ≤ 0x21000000 ∧ (0x20FFFFF8#32).toNat % 8 = 0 ∧ (0x20FFFFF4#32).toNat % 8 ≠ 0 ∧ (0x20FFFFF4#32).toNat + 8 ≤ 0x21000000 := by decide +kernel

theorem witness_PersistentStoreAccess_core : (sServe.enterCore .A okWrite.core).coreMay .A true 0x20380000 4 = true ∧ okWrite.atomic = none ∧ (sServe.enterCore .A ⟨true, some [], .clean⟩).coreMay .A true 0x20380000 4 = false ∧
    (sServe.enterCore .A okLoad.core).coreMay .A false 0x20FFFFF8 8 = true ∧ (sServe.enterCore .A ⟨true, some [], .clean⟩).coreMay .A false 0x20FFFFF8 8 = false := by decide +kernel

theorem witness_PersistentStoreAccess_writers : (let s := { sServe with evr := { sServe.evr with closing := some (9, [(0x400000, 7)]) } }; s.pst.buffer.length < 64 ∧ s.pstHas .evr = false ∧ s.evr.closing = some (9, [(0x400000, 7)])) ∧
    (let s := { sServe with rfl := { sServe.rfl with store := [(0x3C8000, 7)] } }; s.pstHas .plm = false ∧ s.rfl.store = [(0x3C8000, 7)] ∧ s.evr.closing = none) ∧ Writer.dma ≠ .evr ∧ Writer.dma ≠ .plm ∧ (∀ l : Lane, sServe.pstAlone (.lane l) 0 8) ∧
    sServe.pstAlone .dma 0 8 := by
  have b : sServe.pst.buffer = [] := by decide +kernel
  have c : sServe.evr.closing = none := by decide +kernel
  have d : sServe.rfl.store = [] := by decide +kernel
  have h : ∀ w : Writer, sServe.pstAlone w 0 8 := fun w => by simp [State.pstAlone, b, c, d]
  exact ⟨by decide +kernel, by decide +kernel, by decide, by decide, fun _ => h _, h _⟩

theorem test_store_access : (after (.pstStore .A 0x20380000#32 4 0x11223344#32 okWrite) sServe).pstWord 0x380000 = 0x11223344 ∧ (after (.pstStore .A 0x203C0000#32 4 1#32 okWrite) sServe).rd PST_WERR_ADDR = 0x203C0000 ∧
    (after (.pstStore .A 0x20FFFFFE#32 2 1#32 okWrite) sServe).rd PST_STATUS_ALIGN = 1 ∧ (after (.pstStore .B 0x20380000#32 4 1#32 okWrite) sServe).rd (LSC_SVC_WCNT_COUNT .B) = 1 ∧ (after .pstCellWrite sBuffer).pst.buffer = [] ∧
    (after .pstCellWrite sBuffer).rd PST_WORDS_COUNT = 1 := by decide +kernel

theorem test_store_reads : ((after (.pstRead .A 0x20FFFFF8#32 8 okLoad.core .clean) sBuffer).lane .A).data = 0x0102030400000005 ∧ (after (.pstRead .A 0x20FFFFFC#32 4 okLoad.core .corrected) sBuffer).rd PST_CE_CNT_COUNT = 1 ∧
    ((after (.pstRead .A 0x20FFFFFC#32 4 okLoad.core .uncorrected) sBuffer).lane .A).trap = some .loadFault ∧ ((after (.pstRead .A 0x20FFFFF4#32 8 okLoad.core .clean) sBuffer).lane .A).trap = some .loadMisaligned ∧ (after (.pstDrainRead .A false) sBuffer).pst.buffer = [] := by decide +kernel

theorem witness_RecorderWrites : sWrap.sys.por = false ∧ sWrap.sys.oscStop = false ∧ Memory.wf sWrap.pst.cells = true ∧ (∀ w ∈ sBuffer.pst.buffer, w.offset + 4 ≤ 0x3D1004 ∨ 0x3D1008 ≤ w.offset) ∧ sWrap.pst.buffer = [] ∧ sWrap.pstWord 0x3D1004 = 2 ^ 32 - 1 ∧ sClosing.up = true ∧
    sClosing.evr.closing = some (9, [(0x400000, 7)]) ∧ (∀ x ∈ sClosing.pst.buffer, x.writer = .evr) ∧ sClosing.rfl.store = [] ∧ sServe.evr.closing = none ∧ Memory.wf sServe.pst.cells = true ∧ (∀ x ∈ sServe.pst.buffer, x.writer = .rld) ∧ sServe.rfl.store = [] ∧
    64 ≤ (zeros 64).length ∧ (zeros 64).length % 4 = 0 := by decide +kernel

theorem test_recorder : (after .opsecTick sWrap).pstWord 0x3D1004 = 0 ∧ (after .opsecTick sWrap).rd PST_STATUS_CNTWRAP = 1 ∧ (after .recorderWriteDone sClosing).rd EVR_LAST_IDX = 9 ∧ memRead (after .recorderWriteDone sClosing).pst.cells 0x400000 8 = le 4 7 ++ le 4 6 ∧
    ((sServe.pstWords .rld (frameWrites 0x3C0000 true (zeros 64))).recordValid 0x3C0000 64) = true := by decide +kernel

/-! ### The real-time clock -/

/-- The last second of the calendar's range, with alarm 0 on the second 0 driving PON. -/
def sLast : State := (((sServe.setCalendar (calendarDays * 86400 - 1)).wr (RTC_ALM_W1_EN 0) 1).wr (RTC_ALM_W1_MASK 0) 1).wr (RTC_ALM_W1_ACT 0) 1 |>.wr RTC_STATUS_OSCSTOP 0

/-- The same with an hour command armed, with a trim, or with the discipline on. -/
def sArmed (b : Bool) : State := { sLast with rtc := { sLast.rtc with armed := some b } }
def sDisc : State := { ((sServe.wr RTC_CTRL_DISC_EN 1).wr TB_STATUS_STATE 2).wr RTC_STATUS_OSCSTOP 1 with tb := { sServe.tb with now := ⟨1700000000, 0, 0⟩ } }

/-- A trim of which 2^20 parts have passed. -/
def sTrimmed (t : Int) : State := { sLast.wrI RTC_TRIM_TRIM t with rtc := { sLast.rtc with trimAcc := 2 ^ 20 } }

/-- A staged date. -/
def sStg (m d : Nat) : State := (((sServe.wr RTC_STG_DATE_YEAR 100).wr RTC_STG_DATE_MONTH m).wr RTC_STG_DATE_DAY d).wr RTC_STG_TIME_HOUR 23

theorem witness_CalendarRuns : sLast.rtc.stopped = false ∧ sLast.calendar < calendarDays * 86400 ∧ sLast.rtc.armed = none ∧ sLast.calendar + 1 = calendarDays * 86400 ∧ (after .rtcSecondTick sLast).alarmMatches 0 = true ∧ (after .rtcSecondTick sLast).alarmMatches 1 = false ∧
    (after .rtcSecondTick sLast).rd (RTC_ALM_W1_ACT 0) = 1 ∧ (let s := ((sLast.wr (RTC_ALM_W1_EN 1) 1).wr (RTC_ALM_W1_MASK 1) 1).wr (RTC_ALM_W1_ACT 1) 2; (after .rtcSecondTick s).alarmMatches 1 = true ∧ (after .rtcSecondTick s).rd (RTC_ALM_W1_ACT 1) = 2) ∧
    (sArmed true).rtc.armed = some true ∧ (sArmed false).rtc.armed = some false ∧ ({ sLast with rtc := { sLast.rtc with stopped := true } } : State).rtc.stopped = true ∧ (∀ t ∈ [1, -1], let s := sTrimmed t; s.rtc.stopped = false ∧ s.rdI RTC_TRIM_TRIM = t ∧ 2 ^ 20 ≤ (s.prescalerAt (9#15).toNat).rtc.trimAcc ∧ 2 ^ 20 ≤ (s.prescalerAt (32767#15).toNat).rtc.trimAcc) ∧
    sLast.rtcCycle.commit = false ∧ sLast.rtcCycle.mark = false ∧ sLast.rtcCycle.pon = none ∧ (after (.ponSet .A 0xCA1D#16) sLast).rtcCycle.pon = some 1 ∧ (after (.commit .A 0xCA1D#16) (sStg 2 28)).rtcCycle.commit = true ∧
    (after (.rtcMark 5#15) sDisc).rtcCycle.mark = true ∧ sLast.rdI RTC_TRIM_TRIM = 0 ∧
    (32766#15).toNat < 32767 ∧ (32767#15).toNat = 32767 := by decide +kernel

theorem witness_CalendarRuns_mark : sDisc.up = true ∧ sDisc.tb.now.sec ≠ sDisc.tb.marked ∧ sDisc.rtcCycle.commit = false ∧ sDisc.rtcCycle.tick = false ∧ (5#15).toNat < 16384 ∧ 16384 ≤ (16384#15).toNat ∧ (after .rtcSecondTick sDisc).rtcCycle.tick = true ∧
    (after (.rtcMark 5#15) sDisc).tb.now.sec = (after (.rtcMark 5#15) sDisc).tb.marked ∧ sDisc.rd RTC_CTRL_DISC_EN ≠ 0 ∧ sDisc.rd TB_STATUS_STATE = 2 ∧ sDisc.rtc.onVbat = false ∧ sDisc.rtc.stopped = false ∧ sDisc.rtc.armed = none ∧
    inCalendar (expectedCalendar sDisc.tb.now.sec ((after (.rtcMark 16384#15) sDisc).rd RTC_UTC_OFS) sDisc.zone) = true ∧ inCalendar (expectedCalendar 946684799 0 0) = false ∧ inCalendar (expectedCalendar 946684800 0 0) = true := by decide +kernel

theorem test_calendar : (after .rtcSecondTick sLast).calendar = 0 ∧ (after .rtcSecondTick sLast).rd RTC_STATUS_YWRAP = 1 ∧ (after .rtcSecondTick sLast).rd RTC_DATE_WDAY = 5 ∧ (after .rtcSecondTick sLast).rd RTC_PON_PON = 1 ∧ (after .rtcSecondTick (sArmed true)).calendar = 3600 ∧
    (after .rtcSecondTick (sArmed false)).calendar = calendarDays * 86400 - 3600 ∧ (after (.rtcTrimStep 32767#15) (sTrimmed 1)).calendar = 0 ∧ (after (.rtcTrimStep 9#15) (sTrimmed (-1))).rtc.prescaler = 8 ∧ (after (.rtcTrimStep 9#15) { sTrimmed 1 with rtc := { sLast.rtc with trimAcc := 0 } }).rtc.prescaler = 9 ∧
    (after .rtcSecondTick (after (.ponClr .A 0xCA1D#16) sLast)).rd RTC_PON_PON = 0 ∧ gives .rtcSecondTick (after (.commit .A 0xCA1D#16) (sStg 2 28)) (after (.commit .A 0xCA1D#16) (sStg 2 28)) = true := by decide +kernel

theorem test_mark : (after (.rtcMark 16384#15) sDisc).rdI RTC_DRIFT_ERR = -16384 ∧ (after (.rtcMark 16383#15) sDisc).rdI RTC_DRIFT_ERR = 16383 ∧ (after (.rtcMark 5#15) sDisc).rtc.prescaler = 2 ∧ (after (.rtcMark 5#15) sDisc).rd RTC_STATUS_OSCSTOP = 0 ∧
    (after (.rtcMark 5#15) sDisc).calendar = 1700000000 - sDisc.rd RTC_UTC_OFS - 946684800 := by decide +kernel

/-- Lane A's shadows hold a time of which the date has been read. -/
def sShadow : State := sServe.setShadow .A (some ⟨7, 8, false, true⟩)

theorem witness_ClockCommands : sServe.laneRuns .A = true ∧ (sServe.lane .A).det = false ∧ sServe.rtc.onVbat = false ∧ sServe.rtc.shadow .A = none ∧ sShadow.rtc.shadow .A = some ⟨7, 8, false, true⟩ ∧ sShadow.laneRuns .A = true ∧ sShadow.rtc.onVbat = false ∧ (sShadow.lane .A).det = false ∧
    (sStg 2 28).serves .A ∧ (sStg 2 28).stagedGood = true ∧ (sStg 2 29).stagedGood = false ∧ (sStg 13 1).stagedGood = false ∧ (sArmed true).serves .A ∧ (sArmed true).rtc.armed ≠ none ∧ (sServe.wrI RTC_ZONE_ZONE 52).zone ≤ 52 ∧ 52 < (sServe.wrI RTC_ZONE_ZONE 53).zone ∧
    -44 ≤ (sServe.wrI RTC_ZONE_ZONE (-44)).zone ∧ (sServe.wrI RTC_ZONE_ZONE (-45)).zone < -44 ∧ (0xCA1C#16) ≠ 0xCA1D#16 ∧ (RTC_STATUS_OSCSTOP).lo < 1024 ∧ (RTC_STATUS_OSCSTOP).block = 15 ∧ (TB_STATUS_STATE).block ≠ 15 ∧ (TB_STATUS_STATE).block < 22 := by unfold State.serves; decide +kernel

theorem witness_ClockCommands_cycle : sServe.rtcCycle.tick = false ∧ (let s := after .rtcSecondTick sServe; s.rtcCycle.tick = true ∧ s.rtcCycle.mark = false ∧ s.rtcCycle.armed = none ∧ s.zone ≤ 52 ∧ -44 ≤ s.zone ∧ s.serves .A ∧ s.rtc.onVbat = false) ∧
    (after .rtcSecondTick (sArmed true)).rtcCycle.armed ≠ none ∧ (after (.addHour .A 0xCA1D#16) (after .rtcSecondTick sServe)).calendar = (sServe.calendar + 3601) % (calendarDays * 86400) := by unfold State.serves; decide +kernel

theorem test_time_group : (after (.timeGroupRead .A true 256#15 false) sServe).rtc.shadow .A = some ⟨2, sServe.dateWord, false, true⟩ ∧ ((after (.timeGroupRead .A false 1#15 false) sShadow).lane .A).data = 7 ∧ (after (.timeGroupRead .A false 1#15 false) sShadow).rtc.shadow .A = none ∧
    (after (.freezeTimeout .A) sShadow).rd RTC_STATUS_FRZTO = 1 ∧ gives (.freezeTimeout .A) sServe sServe = true := by decide +kernel

theorem test_clock_commands : (after (.commit .A 0xCA1D#16) (sStg 2 28)).rd RTC_DATE_DAY = 28 ∧ (after (.commit .A 0xCA1D#16) (sStg 2 29)).rd RTC_STATUS_BADDATE = 1 ∧ (after (.addHour .A 0xCA1D#16) (sServe.wrI RTC_ZONE_ZONE 53)).rd RTC_STATUS_HOURREJ = 1 ∧
    (after (.addHour .A 0xCA1D#16) sServe).rtc.armed = some true ∧ (after (.subHour .A 0xCA1D#16) sServe).rtc.armed = some false ∧ (after (.ponSet .A 0xCA1D#16) sServe).rd RTC_PON_SRC = 3 ∧ (after (.ponClr .A 0xCA1C#16) sServe).rd RTC_STATUS_CMDREJ = 1 ∧
    (after .oscillatorStop sServe).rd RTC_STATUS_OSCFAIL = 1 ∧ (after (.switchToVbat 256#15) sLast).rd RTC_OFF_DATE_YEAR = 199 ∧ (after (.switchToVbat 256#15) sLast).rd RTC_OFF_TIME_SUBSEC = 2 ∧ (after .switchToVmain (after (.switchToVbat 256#15) sLast)).rtc.onVbat = false ∧ (after .oscillatorResume (after .oscillatorStop sServe)).rtc.stopped = false ∧
    (after .backupDomainReset sLast).calendar = 0 := by decide +kernel

/-! ### The key store and the crypto engine -/

/-- The head of a helper copy of 30 zero messages with a KCV, the module with such a copy and its CRC in PST, and with a copy in the ACM for which the KSU waits. -/
def helperHead (kcv : Nat) : Octets := [octet 1, octet 30] ++ zeros 2 ++ be 8 kcv
def zeroKcv : Nat := 5385462754230558925
def sPufPst (x : Octets) : State := { sUp with pst := ⟨memWrite [] 0x3D0000 (x ++ le 4 (crc32c x)), [], 0⟩ }
def sPufAcm (x : Octets) : State := { sUp with acm := memWrite [] 0x2000 (x.map (~~~ ·)), ksu := { sUp.ksu with response := pufBlocks [], tried := true, wantMirror := true } }

/-- A cache of keys: zeros, and the device key 1. -/
def aCache : KeyCache := ⟨zeros 32, zeros 32, zeros 32, be 32 1⟩

/-- A sealed record of slot 9 at epoch 2, and the 22 records of which the first `n` are so filled. -/
def aSealed : Octets := be 128 0x10901100404000002000000000000000000000000000000cea7403d4d606b6e074ec5d3baf39d18726003ca37a62a74d1a2f58e7506358edd4ab1284d4ae17b41e85924470c36f74741cbe181bb7f30617c1de3ab0c3a1fd0c48f7321a82d376095ace0419167a0bcaf49b0c0cea62d0b855b82552486f6609683c2ab059329
def sealedOctets (n : Nat) : Octets := ((List.range 22).map (fun i => if i < n then aSealed else zeros 128)).flatten

/-- DEPLOYED at epoch 2 with an anchor, a cache and the first `n` sealed records. -/
def sKsu (n : Nat) : State :=
  { sServe with otp := { sServe.otp with log := [(0, lcCode 1), (1, lcCode 2)] }, pst := ⟨memWrite [] 0x3D0500 (sealedOctets n), [], 0⟩, ksu := { sServe.ksu with cache := some aCache, slots := [(0, ⟨5, anchorPolicy, 3, signerKey⟩), (7, ⟨8, 2 ^ opDerive + 2 ^ ctxLane, 1, zeros 32⟩)] } }

/-- Tokens by the anchor to SERVICE that carry no record and the first twelve, and blobs for slot 31 and with a bad field. -/
def tokenPlain : Nat := 0xdf9a470509e5e8874561d93c36df41683d1a4b80defab1c9c65024c094f1d35596c298d84539a1f4a033eb2d817d0377f240a463e5e6bcf847422ce1f2d1176b0000000000000000000000000000000000000000000000000000000000000000000000000000000000000000000000000000000000000000000000000000000000000000000000000000000000000096c298d84539a1f4a033eb2d817d0377f240a463e5e6bcf847422ce1f2d1176b0302000000000000000000000002030201
def tokenCarry : Nat := 0x344a39c072a7ff7e071ab2c555ff7e147afd9cec19cbbb859e6de4f9fb47a99996c298d84539a1f4a033eb2d817d0377f240a463e5e6bcf847422ce1f2d1176b0000000000000000000000000000000000000000000000000000000000000000000000000000000000000000000000000000000000000000000000000000000000000000000000000000000000000096c298d84539a1f4a033eb2d817d0377f240a463e5e6bcf847422ce1f2d1176b0302000fff000000000000000002030201
def blobGood : Nat := 0x308cfad94a4c547de02cd06c99a04c4253e43ac16bdd0174fa5152fc25baaa0e96c298d84539a1f4a033eb2d817d0377f240a463e5e6bcf847422ce1f2d1176be09ed3ef840dc4a66681df6ee9ebee4630f264d533fc62fa17ed38cc2ba28e546e35131bffe18a4b0968a76675d6bc8e2853ffb16c43112fe2204825116102dda58ce493bf57b668f72e0445d1148a43924515f3859c3712a8d6ca7f697bf5ad2ffd17d2fa349aa100000000000000000000000000000096c298d84539a1f4a033eb2d817d0377f240a463e5e6bcf847422ce1f2d1176b0300000001000000ff0000040120021f01
def blobBad : Nat := 0x9cc52f9349e51aeb0313bbc40d8371790404c16a4f692cda47070cb32981da4e96c298d84539a1f4a033eb2d817d0377f240a463e5e6bcf847422ce1f2d1176b000000000000000000000000000000000000000000000000000000000000000000000000000000000000000000000000000000000000000000000000000000000000000000000000000000000000000000000000000000000000000000000000000000000000000000000000000000000000000000000000000000000000000000000000000000000000000000000000000000000000000000000000000000000000000000000000

/-- A DERIVE into slot 31 of a TYPE 8 key with a policy. -/
def sDrv (root pol : Nat) : State := (((((((sKsu 0).wr KSU_DRV_ROOTSRC root).wr KSU_DRV_SRC 7).wr KSU_DRV_DST 31).wr KSU_DRV_TYPE 8).wr KSU_DRV_INFOLEN 32).wr KSU_DRV_INFO_INFO 1).wr KSU_DRV_POL_POLICY pol

/-- The command block of an operation, and a job of it in progress, before a second that waits: of SHA-256 over nothing, or with an empty command block. -/
def aBlock (op : Nat) : Octets := padTo 64 ([octet op] ++ zeros 35 ++ le 4 0x08000100)
def sJob (op : Nat) : State := put { sServe with cry := [⟨0x08000040, false, some (aBlock op, none)⟩, ⟨0x08000040, true, none⟩] } 64 (aBlock op)

theorem helper_reads (x : Octets) (hx : x.length = 1020) : (sPufPst x).pstOctets 0x3D0000 1024 = x ++ le 4 (crc32c x) := by
  have l : (x ++ le 4 (crc32c x)).length = 1024 := by rw [List.length_append, hx]; rfl
  unfold State.pstOctets sPufPst
  rw [← l]
  exact memRead_memWrite _ _ _

theorem slice_mid (a b c : Octets) (n : Nat) (hb : b.length = n) : slice (a ++ (b ++ c)) a.length n = b := by
  unfold slice padTo
  rw [List.drop_left, List.take_append_of_le_length (by omega), List.take_of_length_le (by omega), show n - (b ++ c).length = 0 by rw [List.length_append]; omega, zeros, List.replicate_zero, List.append_nil]

theorem octAt_cons (b : Byte) (x : Octets) : octAt (b :: x) 0 = b.toNat := by simp [octAt, leAt, slice, padTo, leVal, zeros]

theorem helper_sound (x : Octets) (hx : (octet 1 :: x).length = 1020) : helperSound ((sPufPst (octet 1 :: x)).pstOctets 0x3D0000 1024) = true := by
  have hc : leAt (octet 1 :: x ++ le 4 (crc32c (octet 1 :: x))) 1020 4 = crc32c (octet 1 :: x) := by
    have q := slice_mid (octet 1 :: x) (le 4 (crc32c (octet 1 :: x))) [] 4 rfl
    rw [hx, List.append_nil] at q
    unfold leAt
    rw [q, leVal_le]
    exact Nat.mod_eq_of_lt (Nat.xor_lt_two_pow (crcOver_lt _ _ (by decide)) (by decide))
  have h1 : octAt (octet 1 :: x ++ le 4 (crc32c (octet 1 :: x))) 0 = 1 := octAt_cons _ _
  unfold helperSound
  rw [helper_reads _ hx, h1, hc, List.take_append_of_le_length (by omega), List.take_of_length_le (by omega)]
  simp

theorem decodes_zero : bchDecode 0 = some 0 := by decide +kernel

theorem test_code : bchDecode ((bchEncode 0x123456789AB).xor (2 ^ 254 + 2 ^ 100 + 1)) = some 0x123456789AB ∧ bchSyndrome (bchEncode 1) 86 = 0 := by decide +kernel

theorem zero_messages : pufKey (pufOctets (List.replicate 30 0)) = pufKey (zeros 169) ∧ pufCheck (pufKey (zeros 169)) = be 8 zeroKcv := by decide +kernel

theorem zero_blocks : ∀ b ∈ List.range 30, (nth 0 (pufBlocks []) b).xor (offsetBlock (zeros 960) b) = 0 := by decide +kernel

theorem zero_recovers (w : Octets) (hw : w = zeros 960) : pufRecover (pufBlocks []) w = some (List.replicate 30 0) := by
  have e : (List.range 30).map (fun b => bchDecode ((nth 0 (pufBlocks []) b).xor (offsetBlock w b))) = (List.range 30).map (fun _ => some 0) :=
    List.map_congr_left (fun b hb => by rw [hw, zero_blocks b hb, decodes_zero])
  unfold pufRecover
  rw [e]
  rfl

/-- The key of a helper copy with zero code offset, where its KCV is that of the zero messages, and none where it is another. -/
theorem helper_key_of (w z : Octets) (kcv : Nat) (hw : w = zeros 960) : helperKey (pufBlocks []) (helperHead kcv ++ (w ++ z)) = if be 8 zeroKcv = be 8 kcv then some (pufKey (zeros 169)) else none := by
  have lh : (helperHead kcv).length = 12 := rfl
  have lw : w.length = 960 := by rw [hw]; exact zeros_length _
  have sw := slice_mid (helperHead kcv) w z 960 lw
  rw [lh] at sw
  have sk := slice_mid ([octet 1, octet 30] ++ zeros 2) (be 8 kcv) (w ++ z) 8 rfl
  rw [← List.append_assoc] at sk
  unfold helperKey
  rw [sw, zero_recovers w hw, show slice (helperHead kcv ++ (w ++ z)) 4 8 = be 8 kcv from sk]
  dsimp only
  rw [zero_messages.1, zero_messages.2]

theorem witness_RootAndJobs : sUp.up = true ∧ ({ sUp with ksu := { sUp.ksu with tried := true } } : State).ksu.tried = true ∧ ({ sUp with otp := { sUp.otp with log := [(0, lcCode 4)] } } : State).lcState = lcRetired ∧ sUp.ksu.tried = false ∧ sUp.lcState ≠ lcRetired ∧
    helperSound (sUp.pstOctets 0x3D0000 1024) = false := by decide +kernel

theorem store_root (s : State) (p : PstState) : ({ s with pst := p } : State).up = s.up ∧ ({ s with pst := p } : State).lcState = s.lcState ∧ ({ s with pst := p } : State).ksu = s.ksu := ⟨rfl, rfl, rfl⟩

theorem sound_of (w z : Octets) (hw : w = zeros 960) (hz : z.length = 48) : ∃ s : State, s.up = true ∧ s.ksu.tried = false ∧ s.lcState ≠ lcRetired ∧ helperSound (s.pstOctets 0x3D0000 1024) = true ∧
    helperKey (pufBlocks []) (s.pstOctets 0x3D0000 1024) = some (pufKey (zeros 169)) := by
  have h := witness_RootAndJobs
  have lw : w.length = 960 := by rw [hw]; exact zeros_length _
  have l : (helperHead zeroKcv ++ (w ++ z)).length = 1020 := by rw [List.length_append, List.length_append, lw, hz]; rfl
  have g := helper_sound ([octet 30] ++ zeros 2 ++ be 8 zeroKcv ++ (w ++ z)) l
  refine ⟨sPufPst (helperHead zeroKcv ++ (w ++ z)), ?_, ?_, ?_, g, ?_⟩
  · unfold sPufPst; rw [(store_root _ _).1]; exact h.1
  · unfold sPufPst; rw [(store_root _ _).2.2]; exact h.2.2.2.1
  · unfold sPufPst; rw [(store_root _ _).2.1]; exact h.2.2.2.2.1
  · rw [helper_reads _ l, List.append_assoc, List.append_assoc, helper_key_of w _ zeroKcv hw, if_pos rfl]

theorem witness_RootAndJobs_sound : ∃ s : State, s.up = true ∧ s.ksu.tried = false ∧ s.lcState ≠ lcRetired ∧ helperSound (s.pstOctets 0x3D0000 1024) = true ∧ helperKey (pufBlocks []) (s.pstOctets 0x3D0000 1024) = some (pufKey (zeros 169)) :=
  sound_of (zeros 960) (zeros 48) rfl (zeros_length _)

theorem mirror_reads (x : Octets) (hx : x.length = 1024) : (sPufAcm x).acmRead 0x2000 1024 = x := by
  have l : (x.map (~~~ ·)).length = 1024 := by rw [List.length_map, hx]
  unfold State.acmRead sPufAcm
  rw [← l]
  refine (congrArg (List.map (~~~ ·)) (memRead_memWrite [] 0x2000 (x.map (~~~ ·)))).trans ?_
  rw [List.map_map]
  exact (List.map_congr_left (fun b _ => by simp)).trans (List.map_id x)

theorem store_mirror (s : State) (m : List Host.Cell) (k : KeyState) : ({ s with acm := m, ksu := k } : State).up = s.up ∧ ({ s with acm := m, ksu := k } : State).pst = s.pst ∧ ({ s with acm := m, ksu := k } : State).ksu = k ∧
    ({ s with acm := m, ksu := k } : State).evr = s.evr ∧ ({ s with acm := m, ksu := k } : State).rfl = s.rfl := ⟨rfl, rfl, rfl, rfl, rfl⟩

theorem mirror_of (w z : Octets) (kcv : Nat) (hw : w = zeros 960) (hz : z.length = 52) : ∃ s : State, s.up = true ∧ s.ksu.wantMirror = true ∧ Memory.wf s.pst.cells = true ∧ s.pstAlone .ksu 0x3D0000 1024 ∧
    helperKey s.ksu.response (s.acmRead 0x2000 1024) = if be 8 zeroKcv = be 8 kcv then some (pufKey (zeros 169)) else none := by
  have lw : w.length = 960 := by rw [hw]; exact zeros_length _
  have q := store_mirror sUp (memWrite [] 0x2000 ((helperHead kcv ++ (w ++ z)).map (~~~ ·))) { sUp.ksu with response := pufBlocks [], tried := true, wantMirror := true }
  have b : sUp.pst.buffer = [] ∧ sUp.evr.closing = none ∧ sUp.rfl.store = [] := by decide +kernel
  refine ⟨sPufAcm (helperHead kcv ++ (w ++ z)), ?_, rfl, ?_, ?_, ?_⟩
  · unfold sPufAcm; rw [q.1]; exact witness_RootAndJobs.1
  · unfold sPufAcm; rw [q.2.1]; decide +kernel
  · unfold sPufAcm State.pstAlone; rw [q.2.1, q.2.2.2.1, q.2.2.2.2, b.1, b.2.1, b.2.2]; simp
  · rw [mirror_reads _ (by rw [List.length_append, List.length_append, lw, hz]; rfl), show (sPufAcm (helperHead kcv ++ (w ++ z))).ksu.response = pufBlocks [] from rfl]
    exact helper_key_of w z kcv hw

theorem witness_RootAndJobs_mirror : sUp.ksu.wantMirror = false ∧ (∃ s : State, s.up = true ∧ s.ksu.wantMirror = true ∧ Memory.wf s.pst.cells = true ∧ s.pstAlone .ksu 0x3D0000 1024 ∧ helperKey s.ksu.response (s.acmRead 0x2000 1024) = some (pufKey (zeros 169))) ∧
    ∃ s : State, s.up = true ∧ s.ksu.wantMirror = true ∧ helperKey s.ksu.response (s.acmRead 0x2000 1024) = none := by
  have ⟨s, a, b, c, d, e⟩ := mirror_of (zeros 960) (zeros 52) zeroKcv rfl (zeros_length _)
  have ⟨t, f, g, _, _, h⟩ := mirror_of (zeros 960) (zeros 52) 0 rfl (zeros_length _)
  exact ⟨by decide +kernel, ⟨s, a, b, c, d, e.trans (if_pos rfl)⟩, ⟨t, f, g, h.trans (if_neg (by decide))⟩⟩

theorem witness_RootAndJobs_jobs : sServe.serves .A ∧ sServe.ksu.commit = none ∧ sServe.cry.length < 8 ∧ (let s := { sServe with cry := List.replicate 8 ⟨0x08000000, true, none⟩ }; s.serves .A ∧ 8 ≤ s.cry.length) ∧
    (let s := { sServe with ksu := { sServe.ksu with commit := some 1 } }; s.serves .A ∧ s.ksu.commit ≠ none) ∧ (∀ p ∈ [(5, cryOk), (0, cryBadDesc)], let s := sJob p.1
      s.up = true ∧ s.cry = [⟨0x08000040, false, some (aBlock p.1, none)⟩, ⟨0x08000040, true, none⟩] ∧ s.region 0x08000040 64 = some (.sram, 64) ∧
      ({ s with cry := [⟨0x08000040, true, none⟩] }.cryEval (aBlock p.1) none false false).2.result = p.2) := by unfold State.serves; decide +kernel

theorem test_root : (after (.rootRecovery []) sUp).ksu.wantMirror = true := by decide +kernel

theorem test_jobs : (after (.cryJob .A 0x0800007F#32 true) sServe).cry.map (fun j => (j.addr, j.user)) = [(0x08000040, true)] ∧ (after (.cryJob .A 0#32 true) { sServe with cry := List.replicate 8 ⟨0x08000000, true, none⟩ }).rd CRY_STATUS_QFULL = 1 ∧
    (after (.cryJobComplete false) (sJob 5)).cry.map (fun j => (j.user, j.run.isSome)) = [(true, true)] ∧
    memRead (after (.cryJobComplete false) (sJob 5)).laneA.sram 256 4 = be 4 0xE3B0C442 ∧ (after (.cryJobComplete false) (sJob 0)).rd CRY_FAIL_CNT_COUNT = 1 := by decide +kernel

theorem witness_KeyCommands : (sKsu 0).serves .A ∧ (0x4B5F#16) ≠ 0x4B5E#16 ∧ (let s := { sServe with ksu := { sServe.ksu with commit := some 1 } }; s.serves .A ∧ s.ksu.commit ≠ none) ∧ (sKsu 0).ksu.commit = none ∧ ((sKsu 0).wr KSU_CLR_SLOT 31).slotLocked (((sKsu 0).wr KSU_CLR_SLOT 31).rd KSU_CLR_SLOT) = false ∧
    (sKsu 0).slotLocked ((sKsu 0).rd KSU_CLR_SLOT) = true ∧ octAt (le 32 ((sKsu 0).rd KSU_DRV_INFO_INFO)) 0 = 0 ∧ sServe.lcState = lcFactory ∧ sServe.epoch = 0 ∧ (sKsu 0).lcState ≠ lcFactory ∧ (sKsu 0).epoch ≠ 0 ∧ Memory.wf sServe.pst.cells = true := by unfold State.serves; decide +kernel

/-- Nine reads of a steady array, and nine of which one disagrees in 25 bits of block 0. -/
def steady : List Octets := List.replicate 9 []
def unsteady : List Octets := List.replicate 25 (octet 1) :: List.replicate 8 []

theorem witness_KeyCommands_enrol : (∀ b ∈ List.range 30, pufUnsteady (steady.map pufBlocks) b ≤ 24) ∧ 24 < pufUnsteady (unsteady.map pufBlocks) 0 ∧ sServe.pstAlone .ksu 0x3D0000 1024 := by
  have b : sServe.pst.buffer = [] ∧ sServe.evr.closing = none ∧ sServe.rfl.store = [] := by decide +kernel
  refine ⟨by decide +kernel, by decide +kernel, ?_⟩
  simp [State.pstAlone, b.1, b.2.1, b.2.2]

theorem witness_KeyCommands_derive : (∀ r ∈ [0, 1], let s := sDrv r (2 ^ opDerive + 2 ^ ctxLane); s.serves .A ∧ s.ksu.commit = none ∧ s.rd KSU_DRV_ROOTSRC = r ∧ s.ksu.cache = some aCache ∧ (s.slot (s.rd KSU_DRV_SRC)).any (fun k => k.allows opDerive ctxLane && k.typ != 7) = true ∧
      1 ≤ s.rd KSU_DRV_INFOLEN ∧ s.rd KSU_DRV_INFOLEN ≤ 32 ∧ octAt (le 32 (s.rd KSU_DRV_INFO_INFO)) 0 ≠ 0 ∧ s.rd KSU_DRV_DST ≠ 0 ∧ s.rd KSU_DRV_TYPE = 8 ∧ s.slotLocked (s.rd KSU_DRV_DST) = false ∧ policyGood (s.rd KSU_DRV_TYPE) (s.rd KSU_DRV_POL_POLICY) = true ∧
      (∀ b ∈ List.range 6, bit (s.rd KSU_DRV_POL_POLICY) (8 + b) = true → bit (2 ^ opDerive + 2 ^ ctxLane) (8 + b) = true)) ∧
    (∀ r ∈ [0, 1], let s := sDrv r (2 ^ opDerive + 2 ^ ctxPlm); policyGood (s.rd KSU_DRV_TYPE) (s.rd KSU_DRV_POL_POLICY) = true ∧ bit (s.rd KSU_DRV_POL_POLICY) (8 + 5) = true ∧ bit 0x700 (8 + 5) = false ∧ bit (2 ^ opDerive + 2 ^ ctxLane) (8 + 5) = false) := by
  unfold State.serves; decide +kernel

/-- The checks of a token signed by the anchor, part by part. -/
theorem token_ok (s : State) (t : Octets) (a : KeySlot) (h15 : octAt t 15 = 2) (hs : s.slot 0 = some a) (hv : ecdsaVerify 256 a.key (slice t 0 128) (slice t 128 64) = true)
    (hf : (octAt t 0 != 1 || octAt t 1 != s.lcState || octAt t 3 != s.epoch || slice t 4 8 != padTo 8 s.otp.uid || bits (leAt t 12 3) 22 2 != 0 || !allZero (slice t 49 15) || !allZero (slice t 113 15) || (octAt t 15 == 2 && !allZero (slice t 64 49))) = false)
    (hn : (!stepAllowed s.epoch (octAt t 1) (octAt t 2) || (octAt t 15 == 2 && octAt t 1 != lcDeployed && octAt t 1 != lcService) || (octAt t 2 == lcRetired && leAt t 12 3 != 0)) = false) : s.tokenCheck t = ksuOk := by
  have g : s.tokenSigned t = true := by
    unfold State.tokenSigned
    rw [h15, hs]
    exact hv
  unfold State.tokenCheck
  dsimp only
  rw [g, hf, hn]
  rfl

theorem tokens_signed : ecdsaVerify 256 signerKey (slice (le 224 tokenPlain) 0 128) (slice (le 224 tokenPlain) 128 64) = true ∧ ecdsaVerify 256 signerKey (slice (le 224 tokenCarry) 0 128) (slice (le 224 tokenCarry) 128 64) = true := by decide +kernel

theorem witness_KeyCommands_tokens : (∃ s : State, s.rd KSU_TOKEN_TOKEN = tokenPlain ∧ s.tokenCheck (le 224 tokenPlain) = ksuOk) ∧ (∃ s : State, s.rd KSU_TOKEN_TOKEN = tokenCarry ∧ s.tokenCheck (le 224 tokenCarry) = ksuOk) :=
  ⟨⟨(sKsu 0).wr KSU_TOKEN_TOKEN tokenPlain, by decide +kernel, token_ok _ _ ⟨5, anchorPolicy, 3, signerKey⟩ (by decide +kernel) (by decide +kernel) tokens_signed.1 (by decide +kernel) (by decide +kernel)⟩,
    ⟨(sKsu 12).wr KSU_TOKEN_TOKEN tokenCarry, by decide +kernel, token_ok _ _ ⟨5, anchorPolicy, 3, signerKey⟩ (by decide +kernel) (by decide +kernel) tokens_signed.2 (by decide +kernel) (by decide +kernel)⟩⟩

theorem flatten_place (l : List Octets) (h : ∀ x ∈ l, x.length = 128) (i : Nat) (x : Octets) (hx : l[i]? = some x) : (l.flatten.drop (128 * i)).take 128 = x := by
  induction l generalizing i with
  | nil => simp at hx
  | cons y l ih =>
    have ly : y.length = 128 := h y (by simp)
    cases i with
    | zero =>
      simp only [List.getElem?_cons_zero, Option.some.injEq] at hx
      subst hx
      simp [List.take_append_of_le_length (Nat.le_of_eq ly.symm), ly]
    | succ i =>
      rw [List.flatten_cons, show 128 * (i + 1) = y.length + 128 * i by omega, List.drop_append, List.drop_eq_nil_of_le (by omega), List.nil_append, Nat.add_sub_cancel_left]
      exact ih (fun z hz => h z (by simp [hz])) i (by simpa using hx)

theorem sealed_length (n : Nat) : (sealedOctets n).length = 22 * 128 := by
  have hz : (zeros 128).length = 128 := zeros_length _
  have ha : aSealed.length = 128 := by decide +kernel
  have : ∀ m : Nat, ((List.range m).map (fun i => if i < n then aSealed else zeros 128)).flatten.length = m * 128 := by
    intro m
    induction m with
    | zero => rfl
    | succ m ih => rw [List.range_succ, List.map_append, List.flatten_append, List.length_append, ih]; simp only [List.map_cons, List.map_nil, List.flatten_cons, List.flatten_nil, List.append_nil]; split <;> omega
  exact this 22

theorem sealed_reads (n i : Nat) (hi : i < 22) : (sKsu n).sealedRecord i = if i < n then aSealed else zeros 128 := by
  have w : memRead (memWrite [] 0x3D0500 (sealedOctets n)) 0x3D0500 (22 * 128) = sealedOctets n := by rw [← sealed_length n]; exact memRead_memWrite _ _ _
  have r : (sKsu n).sealedRecord i = ((sealedOctets n).drop (128 * i)).take 128 := by
    rw [← w, show 22 * 128 = 128 * i + (128 + (22 * 128 - 128 * i - 128)) by omega, memRead_drop, memRead_take]
    rfl
  rw [r]
  refine flatten_place _ ?_ i _ (by simp [hi])
  intro x hx
  obtain ⟨j, -, rfl⟩ := List.mem_map.mp hx
  split
  · decide +kernel
  · exact zeros_length _

theorem sealed_valid : sealedValid aCache.kSeal 2 aSealed = true ∧ sealedValid aCache.kSeal 2 (zeros 128) = false := by decide +kernel

theorem sealed_validity (n i : Nat) (hi : i < 22) : sealedValid aCache.kSeal (sKsu n).epoch ((sKsu n).sealedRecord i) = decide (i < n) := by
  have e : (sKsu n).epoch = 2 := rfl
  rw [sealed_reads n i hi, e]
  split
  · simp [sealed_valid.1, *]
  · simp [sealed_valid.2, *]

theorem free_records (n : Nat) : (sKsu n).freeRecords aCache = (List.range 22).filter (fun i => !decide (i < n)) :=
  List.filter_congr (fun i hi => by rw [sealed_validity n i (List.mem_range.mp hi)])

theorem carried_records (n c : Nat) : (sKsu n).carried aCache c = (List.range 22).filter (fun i => bit c i && decide (i < n)) :=
  List.filter_congr (fun i hi => by rw [sealed_validity n i (List.mem_range.mp hi)])

theorem witness_KeyCommands_transition : (sKsu 0).tokenCheck (le 224 0) = ksuBadSig ∧ ((sKsu 0).carried aCache (leAt (le 224 tokenPlain) 12 3)).length ≤ ((sKsu 0).freeRecords aCache).length ∧
    ((sKsu 12).freeRecords aCache).length < ((sKsu 12).carried aCache (leAt (le 224 tokenCarry) 12 3)).length := by
  refine ⟨by decide +kernel, ?_, ?_⟩ <;> rw [free_records, carried_records] <;> decide +kernel

theorem blob_signed : (∀ b ∈ [blobGood, blobBad], ecdsaVerify 256 signerKey (slice (le 232 b) 0 168) (slice (le 232 b) 168 64) = true) ∧ ecdsaVerify 256 signerKey (slice (le 232 0) 0 168) (slice (le 232 0) 168 64) = false := by decide +kernel

theorem witness_KeyCommands_import : ((sKsu 0).wr KSU_BLOB_BLOB blobGood).rd KSU_BLOB_BLOB = blobGood ∧ (sKsu 0).ksu.cache = some aCache ∧ (sKsu 0).slot 0 = some ⟨5, anchorPolicy, 3, signerKey⟩ ∧ (sKsu 0).importCheck (le 232 blobBad) aCache = ksuBadField ∧
    ({ sKsu 0 with otp := sServe.otp }.importCheck (le 232 blobGood) aCache) = ksuOk ∧ (let b := le 232 blobGood; let kw := hkdf (sKsu 0).otp.uid (ecdhX aCache.dDev (slice b 16 33)) ([octet 0] ++ ascii "WRAP") 32
      padTo 16 (gcmTag kw (slice b 52 12) (slice b 0 64) (slice b 64 88)) = slice b 152 16) := by decide +kernel

theorem test_key_commands : (after (.clear .A 0x4B5E#16 false) (sKsu 0)).rd KSU_CMDSTAT_RESULT = ksuLocked ∧ (after (.clear .A 0x4B5E#16 false) ((sKsu 0).wr KSU_CLR_SLOT 7)).slot 7 = none ∧ (after (.clear .A 0x4B5F#16 false) (sKsu 0)).rd KSU_STATUS_CTXREJ = 1 ∧
    ((after (.derive .A 0x4B5E#16 false) (sDrv 1 (2 ^ opDerive + 2 ^ ctxLane))).slot 31).map (·.typ) = some 8 ∧ (after (.derive .A 0x4B5E#16 false) (sDrv 0 (2 ^ opDerive + 2 ^ ctxPlm))).rd KSU_CMDSTAT_RESULT = ksuPolicy ∧
    (after (.enrolpuf .A 0x4B5E#16 false unsteady) sServe).rd KSU_CMDSTAT_RESULT = ksuPufWeak ∧ (after (.enrolpuf .A 0x4B5E#16 false steady) (sKsu 0)).rd KSU_CMDSTAT_RESULT = ksuNotAllowed ∧
    (after (.transition .A 0x4B5E#16 false) (sKsu 0)).rd KSU_STATUS_TOKREJ = 1 ∧ (after (.importBlob .A 0x4B5E#16 true) (sKsu 0)).rd KSU_CMDSTAT_RESULT = ksuBadCtx := by decide +kernel
/-! ### The resident loader -/

/-- In service with a header read, the head of an image in slot 0 and a CFG in slot 2; the image in the code store. -/
def sLdr : State :=
  { sServe with acm := acmCells 0x10000 config ++ acmCells 0x100000 (image.take 128), acmSize := 0x2000000, ksu := { sServe.ksu with slots := testSlots },
                pst := { sServe.pst with cells := pstCells 0x10000 image }, rld := { sServe.rld with booted := true, header := some ⟨0, 0, 0, 0, 1, 0x2000000⟩ } }.wr KSU_STATUS_ROOTOK 1

/-- A program and an erase under way. -/
def sPage (e : Bool) : State := { sLdr with rld := { sLdr.rld with op := some ⟨e, 0x10000, List.replicate 256 (octet 0xFF)⟩ } }

theorem ldr_serves : sLdr.serves .A := by unfold State.serves; decide +kernel

theorem witness_Staging : 0x7D1F#16 ≠ 0x7D1E#16 ∧ sLdr.acmRefused (sLdr.rd RLD_ADDR_ADDR / 256 * 256) = false ∧ sLdr.acmRefused (sLdr.rd RLD_ADDR_ADDR / 4096 * 4096) = false ∧
    (let s := sLdr.wr RLD_ADDR_ADDR 0x10000; s.serves .A ∧ s.acmRefused (s.rd RLD_ADDR_ADDR / 256 * 256) = true ∧ s.acmRefused (s.rd RLD_ADDR_ADDR / 4096 * 4096) = true) ∧ (sPage true).serves .A ∧ (sPage true).rldBusy = true ∧
    sLdr.rldBusy = false ∧ (sLdr.acceptable (sLdr.slotContainer (1#2).toNat) ctxRld).2 = false ∧ sLdr.crzOn = false ∧ sLdr.up = true ∧ sLdr.rld.op = none := by unfold State.serves; decide +kernel

/-- A container signed by the key of slot 0 is acceptable to the loader where its other fields are. -/
theorem ldr_accepts (s : State) (c : Octets) (e : s.rld.header = some ⟨0, 0, 0, 0, 1, 0x2000000⟩) (k : s.keyFor 0 opImgVer ctxRld = (s, some ⟨5, 2 ^ opImgVer + 2 ^ ctxBoot + 2 ^ ctxRld, 1, signerKey⟩))
    (h : (!s.shapeGood c || decide (containerVersion c < s.rd RLD_MINVER_VERSION)) = false) (h6 : octAt c 6 = 1) (v : ecdsaVerify 256 signerKey (c.take (128 + leAt c 20 4)) (slice c (128 + leAt c 20 4) (sigOctets c)) = true) :
    (s.acceptable c ctxRld).2 = true := by
  unfold State.acceptable State.signatureGood
  rw [h, e]
  simp [k, h6, v]

theorem ldr_container : sLdr.slotContainer (2#2).toNat = config := by decide +kernel

theorem witness_Staging_acceptable : sLdr.rldBusy = false ∧ (sLdr.acceptable (sLdr.slotContainer (2#2).toNat) ctxRld).2 = true :=
  ⟨by decide +kernel, by rw [ldr_container]; exact ldr_accepts _ _ rfl rfl (by decide +kernel) (by decide +kernel) config_signed⟩

theorem witness_Staging_operation : ∀ e : Bool, (sPage e).up = true ∧ (sPage e).rld.op = some ⟨e, 0x10000, List.replicate 256 (octet 0xFF)⟩ ∧ Memory.wf (sPage e).acm = true ∧ (List.replicate 256 (octet 0xFF)).length = 256 := by
  decide +kernel

theorem test_loader_refuses : sLdr.acmRefused 0xFFFF = false ∧ sLdr.acmRefused 0x10000 = true ∧ sLdr.acmRefused 0x4FFFF = true ∧ sLdr.acmRefused 0x50000 = false ∧ sLdr.acmRefused 0x1FFFFFF = false ∧ sLdr.acmRefused 0x2000000 = true := by decide +kernel

theorem test_loader_stages : (after (.program .A 0x7D1E#16) (sLdr.wr RLD_ADDR_ADDR 0x400104)).rld.op.map (·.addr) = some 0x400100 ∧ (after (.erase .A 0x7D1E#16) (sLdr.wr RLD_ADDR_ADDR 0x401104)).rld.op.map (·.addr) = some 0x401000 ∧
    (after (.acmOperationDone false) (sPage true)).acmRead 0x10000 2 = [octet 255, octet 255] ∧ (after (.acmOperationDone true) (sPage false)).rd RLD_STATUS_PGMERR = 1 := by decide +kernel

theorem test_loader_verifies : (after (.verify .A 0x7D1E#16 1#2) sLdr).rd RLD_STATUS_VERIFYFAIL = 1 := by decide +kernel

/-! #### The scheduled update -/

/-- An update in a state, of a KIND, with slot 0 the new image, slot 1 the fallback and TACT 100 s. -/
def sUpd (st kind : Nat) : State :=
  let s := ((((sLdr.wr RLD_STATE_STATE st).wr RLD_STATE_KIND kind).wr RLD_STATE_FBSLOT 1).wr (RLD_SLOT_VERIFIED 0) 1).wr (RLD_SLOT_VERIFIED 2) 1
  { s with rld := { s.rld with tact := 100 * 2 ^ 30 } }

/-- The same with time TACT, the time base LOCKED and the Sequencer started. -/
def sAct (kind : Nat) : State :=
  let s := ((at' (sUpd 2 kind) 100000000000).wr TB_STATUS_STATE tbLocked).wr CRZ_CTRL_EN 1
  { s with crz := { s.crz with oldest := 1 }, lsc := { s.lsc with nextDrain := 1 } }

theorem witness_ScheduledUpdate : (let s := (at' (sUpd 0 0) 40000000000).wr RLD_TACT_TACT (100 * 2 ^ 30)
     s.serves .A ∧ (3#2 : BitVec 2) ≠ 0 ∧ s.rldBusy = false ∧ s.rd RLD_STATE_STATE = 0 ∧ s.now + 60000000000 ≤ s.rd RLD_TACT_TACT / 2 ^ 30 * 1000000000 + s.rd RLD_TACT_TACT % 2 ^ 30 ∧ s.slotReady (b2n false) 1 = true ∧
     s.slotReady (2 + b2n false) 2 = true ∧ s.slotReady (b2n true) 1 = false ∧ s.slotReady (2 + b2n true) 2 = false) ∧
    (let s := (at' (sUpd 0 0) 40000000000).wr RLD_TACT_TACT (99 * 2 ^ 30 + 999999999); s.serves .A ∧ s.rd RLD_TACT_TACT / 2 ^ 30 * 1000000000 + s.rd RLD_TACT_TACT % 2 ^ 30 < s.now + 60000000000) ∧
    (sUpd 2 1).serves .A ∧ (sUpd 2 1).rd RLD_STATE_STATE = 2 ∧ (sUpd 2 1).rldBusy = false ∧ (sUpd 4 1).serves .A ∧ (sUpd 4 1).rd RLD_STATE_STATE ≠ 2 ∧ (sUpd 1 1).up = true ∧ (sUpd 1 1).rd RLD_STATE_STATE = 1 ∧ (sUpd 1 1).rldBusy = true ∧ (sUpd 1 1).serves .A := by
  unfold State.serves; decide +kernel

/-- A save under way into an empty ACM; the copy of the code store in slot 1 that it makes. -/
def sSave : State := { sUpd 1 1 with acm := [] }
def sCopied : State := ((sSave.acmErase (slotBase 1) (slotSize 1)).acmWrite (slotBase 1) sSave.codeStore).wr (RLD_SLOT_VERIFIED 1) 0

theorem copied_container : sCopied.slotContainer 1 = image := by decide +kernel

theorem witness_ScheduledUpdate_save : sSave.up = true ∧ sSave.rd RLD_STATE_STATE = 1 ∧ sSave.rd RLD_STATE_FBSLOT = 1 ∧ (sCopied.acceptable (sCopied.slotContainer 1) ctxRld).2 = true :=
  ⟨by decide +kernel, by decide +kernel, by decide +kernel, by rw [copied_container]; exact ldr_accepts _ _ rfl rfl (by decide +kernel) (by decide +kernel) image_signed⟩

theorem witness_ScheduledUpdate_activation : (sAct 1).up = true ∧ (sAct 1).rd RLD_STATE_STATE = 2 ∧ (sAct 1).rld.step = .none ∧ (sAct 1).tactNs ≤ (sAct 1).now ∧ (sAct 1).updateMay = true ∧ (sAct 1).rd RLD_STATE_KIND = 1 ∧ (sAct 1).role .A = roleActive ∧
    (let s := ((sAct 1).wr LSC_ROLE_STATE_A roleShadow).wr LSC_ROLE_STATE_B roleActive
     s.up = true ∧ s.rd RLD_STATE_STATE = 2 ∧ s.rld.step = .none ∧ s.tactNs ≤ s.now ∧ s.updateMay = true ∧ s.rd RLD_STATE_KIND = 1 ∧ s.role .A = roleShadow) ∧
    (sAct 2).up = true ∧ (sAct 2).rd RLD_STATE_STATE = 2 ∧ (sAct 2).rld.step = .none ∧ (sAct 2).tactNs ≤ (sAct 2).now ∧ (sAct 2).updateMay = true ∧ (sAct 2).rd RLD_STATE_KIND = 2 ∧ (sAct 2).ksu.commit = none ∧ (sAct 2).sys.rstLow = false ∧ (sAct 2).sys.extest = false ∧
    (let s := at' (sAct 1) 99999999999; s.up = true ∧ s.rd RLD_STATE_STATE = 2 ∧ s.rld.step = .none ∧ s.now < s.tactNs) ∧
    (let s := at' (sAct 1) 700000000000; s.up = true ∧ s.rd RLD_STATE_STATE = 2 ∧ s.rld.step = .none ∧ s.tactNs + max 1 (s.rd RLD_CFG_DEFER) * 1000000000 ≤ s.now) ∧
    (let s := at' (sAct 1) 699999999999; s.rd RLD_STATE_STATE = 2 ∧ s.now < s.tactNs + max 1 (s.rd RLD_CFG_DEFER) * 1000000000) := by decide +kernel

theorem witness_ScheduledUpdate_trial : (sUpd 3 1).up = true ∧ (sUpd 3 1).rd RLD_STATE_STATE = 3 ∧ Memory.wf (sUpd 3 1).pst.cells = true ∧
    (let s := sUpd 4 1; (s.up = true ∧ s.rd RLD_STATE_STATE = 4 ∧ s.now < (s.rd RLD_KSTART_IDX + max 10 s.rld.deadline) * s.P ∧ (s.rd RLD_STATE_KIND = 1 → Lane.A = .A) ∧ (s.lane .B).loaded = false)) ∧
    (let s := at' (sUpd 4 1) (10 * sLdr.P); s.up = true ∧ s.rd RLD_STATE_STATE = 4 ∧ (s.rd RLD_KSTART_IDX + max 10 s.rld.deadline) * s.P ≤ s.now) ∧
    (let s := sUpd 4 3; s.serves .A ∧ s.rd RLD_STATE_STATE = 4 ∧ s.rd RLD_STATE_KIND ≠ 1 ∧ s.activeLane = some .A) ∧ (let s := ((sUpd 4 1).wr LSC_ROLE_STATE_A roleShadow).wr LSC_ROLE_STATE_B roleActive; s.serves .B ∧ Lane.B ≠ .A ∧ (s.wr LSC_CTRL_SPLIT 1).laneRuns .A = true ∧ (s.lane .A).det = false ∧ (s.wr LSC_CTRL_SPLIT 1).rd LSC_CTRL_SPLIT ≠ 0 ∧ s.rd RLD_STATE_KIND = 1) ∧
    (sUpd 5 1).serves .A ∧ (sUpd 5 1).rd RLD_STATE_STATE ≠ 4 := by unfold State.serves; decide +kernel

theorem witness_ScheduledUpdate_end : (let s := (sUpd 5 1).wr LSC_CTRL_SPLIT 1; s.up = true ∧ s.rd RLD_STATE_STATE = 5 ∧ s.rld.step = .none ∧ s.rd RLD_STATE_KIND = 1 ∧ s.rd LSC_CTRL_SPLIT ≠ 0) ∧
    (sUpd 5 3).rd RLD_STATE_STATE = 5 ∧ (sUpd 5 3).rd RLD_STATE_KIND ≠ 1 ∧ (sUpd 5 3).rd RLD_STATE_KIND ≠ 2 ∧
    (∀ k ∈ [1, 3], let s := (sUpd 6 k).setStep .restoring; s.up = true ∧ s.rd RLD_STATE_STATE = 6 ∧ s.rld.step = .restoring ∧ s.rd RLD_STATE_KIND = k ∧ Memory.wf s.pst.cells = true ∧ s.ksu.commit = none ∧ s.sys.rstLow = false ∧ s.sys.extest = false) := by
  decide +kernel

theorem test_update_schedules : (let s := (at' (sUpd 0 0) 40000000000).wr RLD_TACT_TACT (100 * 2 ^ 30)
     (after (.schedule .A 0x7D1E#16 1 false false) s).rd RLD_STATE_STATE = 1 ∧ (after (.schedule .A 0x7D1E#16 2 false false) s).rd RLD_STATE_STATE = 2 ∧ (after (.schedule .A 0x7D1E#16 2 true false) s).rd RLD_STATUS_CMDREJ = 1) ∧
    (after (.cancel .A 0x7D1E#16) (sUpd 2 1)).rd RLD_STATE_STATE = 0 := by decide +kernel

theorem test_update_activates : (after .updateActivation (sAct 1)).rld.step = .swapping ∧ (after .updateActivation (sAct 2)).role .B = roleBoot ∧
    (after .activationDeferExpiry (at' (sAct 1) 700000000000)).rd RLD_STATE_CAUSE = 10 := by decide +kernel

theorem test_update_trial : (after (.verdict .A 0x7D1E#16 true 5#8) (sUpd 4 1)).rd RLD_STATE_STATE = 5 ∧ (after (.verdict .A 0x7D1E#16 false 5#8) (sUpd 4 1)).rd RLD_STATE_CAUSE = 5 ∧
    (let s := (((sUpd 4 1).wr LSC_ROLE_STATE_A roleShadow).wr LSC_ROLE_STATE_B roleActive).wr LSC_CTRL_SPLIT 1
     (after (.verdict .B 0x7D1E#16 true 5#8) s).rd RLD_STATUS_VERDREJ = 1 ∧ (after (.verdict .A 0x7D1E#16 true 5#8) s).rd RLD_STATE_STATE = 5) ∧ (after .trialDeadline (at' (sUpd 4 1) (10 * sLdr.P))).rd RLD_STATE_STATE = 6 := by decide +kernel
/-! ### The DMA engine and the dual-clock queues -/

/-- A descriptor: OP, ESIZE, LEN, SRC, DST, IDX and PATTERN. -/
def dmaDesc (op esize len src dst idx : Nat) (pat : Octets) : Octets := [octet op, octet 1] ++ le 2 esize ++ le 4 len ++ le 4 src ++ le 4 dst ++ le 4 idx ++ zeros 4 ++ padTo 8 pat

/-- Channel 0 with one descriptor, its ring of four at 0x08000040; the octets 1 to 8 at 0x08000100, the indexes 0x104 and 0x100 at 0x08000300, and an index that leads out of the regions at 0x08000380. -/
def sDma (d : Octets) : State :=
  put (put (put (put ((((sServe.wr (DMA_CH_W0_RUNST 0) 1).wr (DMA_CH_W1_BASE 0) 2).wr (DMA_CH_W2_SIZE 0) 4).wr (DMA_CH_W3_TAIL 0) 1) 64 d) 0x100 (be 8 0x0102030405060708)) 0x300 (le 4 0x104 ++ le 4 0x100)) 0x380 (le 4 0xF0000000)

/-- What COPY, FILL and COMPARE descriptors are worked on. -/
def copyTo (len dst : Nat) : Octets := dmaDesc 0 0 len 0x08000100 dst 0 []
def fillTo (len dst : Nat) : Octets := dmaDesc 2 0 len 0 dst 0 [octet 7, octet 8]
def gatherBy (idx : Nat) : Octets := dmaDesc 1 4 2 0x08000000 0x08000400 idx []

/-- A channel whose descriptor is read and accepted, with an operation and a destination. -/
def accepts (d : Octets) (op dst : Nat) : Bool :=
  let s := sDma d
  let x := readDescriptor (s.dmaFetch 0)
  s.up && s.dmaReady 0 && !s.descRefused x && x.op == op && x.dst == dst

/-- A descriptor in progress, a record that waits, and completion pointers. -/
def dmaHeld : State := { sServe with dma := { sServe.dma with jobs := [(0, newJob 0 (fillTo 8 0x08000200) 0)] } }
def dmaLong : State := { dmaHeld with cycles := 30000 }
def sDone (rd : Nat) : State := { sServe with dma := { sServe.dma with records := [⟨0, zeros 32, true⟩] } }.wr DMA_CQ_RD_VALUE rd

theorem witness_DmaWork : sServe.serves .A ∧ sServe.dmaReady 0 = false ∧ (∀ op ∈ [0, 1, 2, 3], let s := sDma (dmaDesc op 0 0 0 0 0 []); s.up = true ∧ s.dmaReady 0 = true ∧ (readDescriptor (s.dmaFetch 0)).op = op ∧ s.descRefused (readDescriptor (s.dmaFetch 0)) = true) ∧
    (let s := sDma (dmaDesc 4 0 8 0x08000100 0x08000200 0 []); s.dmaReady 0 = true ∧ 3 < (readDescriptor (s.dmaFetch 0)).op ∧ s.descRefused (readDescriptor (s.dmaFetch 0)) = true) ∧
    sServe.up = true ∧ kvFind sServe.dma.jobs 0 = none ∧ dmaHeld.up = true ∧ kvFind dmaHeld.dma.jobs 0 = some (newJob 0 (fillTo 8 0x08000200) 0) ∧ sServe.dma.records = [] := by unfold State.serves; decide +kernel

theorem witness_DmaWork_moves : accepts (copyTo 8 0x083FFFF8) 0 0x083FFFF8 = true ∧ accepts (fillTo 5 0x083FFFFB) 2 0x083FFFFB = true ∧ accepts (copyTo 8 0x20D80000) 0 0x20D80000 = true ∧ accepts (fillTo 8 0x20FFFFF8) 2 0x20FFFFF8 = true ∧
    accepts (copyTo 4 0x20D7FFFC) 0 0x20D7FFFC = true ∧ accepts (fillTo 4 0x20000000) 2 0x20000000 = true ∧ (sDma (copyTo 8 0x083FFFF8)).busRead 0x08000100 8 = some (be 8 0x0102030405060708) ∧
    (⟨[0x08000100], [0x08000104], [], []⟩ : BusErrors).lost = [] := by decide +kernel

/-- Where the elements of the gather lie. -/
def elementAt (k : Nat) : Nat := ((if k = 0 then 0x08000104 else 0x08000100 : Nat))

theorem sDma_alone (d : Octets) (o n : Nat) : (sDma d).pstAlone .dma o n := by
  have b : (sDma d).pst.buffer = [] := rfl
  have c : (sDma d).evr.closing = none := rfl
  have e : (sDma d).rfl.store = [] := rfl
  simp [State.pstAlone, b, c, e]

theorem witness_DmaWork_pst : (∀ d ∈ [copyTo 8 0x20D80000, fillTo 8 0x20D80000], accepts d (octAt d 0) 0x20D80000 = true ∧ (sDma d).pstAlone .dma (0x20D80000 % 0x20000000) 8) ∧
    (let j := newJob 0 (fillTo 8 0x08000200) 0; kvFind dmaLong.dma.jobs 0 = some j ∧ dmaLong.up = true ∧ dmaHeld.elapsed ≤ j.issued + max 1 (dmaHeld.rd (DMA_CH_W5_RTO 0)) * 1000 ∧ j.issued + max 1 (dmaLong.rd (DMA_CH_W5_RTO 0)) * 1000 < dmaLong.elapsed) :=
  ⟨fun d h => ⟨by revert d; decide +kernel, sDma_alone d _ _⟩, by decide +kernel⟩

theorem witness_DmaWork_gather : accepts (gatherBy 0x08000300) 1 0x08000400 = true ∧ (let s := sDma (gatherBy 0x08000300); let d := readDescriptor (s.dmaFetch 0)
     d.len = 2 ∧ ∀ k ∈ [0, 1], elementAt k = (d.src + leAt ((s.busRead (d.idx + 4 * k) 4).getD (zeros 4)) 0 4) % 2 ^ 32 ∧ d.idx + 4 * k + 4 ≤ d.dst ∧ s.readable (elementAt k) d.esize = true ∧ elementAt k + d.esize ≤ d.dst) ∧
    accepts (dmaDesc 1 4 1 0x08000000 0x08000400 0x08000380 []) 1 0x08000400 = true ∧ (let s := sDma (dmaDesc 1 4 1 0x08000000 0x08000400 0x08000380 []); let d := readDescriptor (s.dmaFetch 0)
     s.readable ((d.src + leAt ((s.busRead d.idx 4).getD (zeros 4)) 0 4) % 2 ^ 32) d.esize = false) := by decide +kernel

theorem witness_DmaWork_compare : accepts (dmaDesc 3 0 4 0x08000100 0x08000104 0 []) 3 0x08000104 = true ∧ (let s := sDma (dmaDesc 3 0 4 0x08000100 0x08000104 0 [])
     s.busRead 0x08000100 4 = some [octet 1, octet 2, octet 3, octet 4] ∧ s.busRead 0x08000104 4 = some [octet 5, octet 6, octet 7, octet 8]) := by decide +kernel

theorem witness_DmaWork_records : (∀ r ∈ [0, 1], (sDone r).up = true ∧ (sDone r).dma.records = [⟨0, zeros 32, true⟩] ∧ ((sDone r).rd DMA_CQ_WR_VALUE + 1) % (sDone r).cqSize = 1) ∧ 1 ≠ (sDone 0).rd DMA_CQ_RD_VALUE % (sDone 0).cqSize ∧
    1 = (sDone 1).rd DMA_CQ_RD_VALUE % (sDone 1).cqSize ∧ (zeros 32).length = 32 := by decide +kernel

/-- The SRAM of Lane A after a command of channel 0. -/
def movedTo (c : Instr) (d : Octets) (o n : Nat) : Octets := memRead (after c (sDma d)).laneA.sram o n

theorem test_dma_moves : movedTo (.copy 0 false ⟨[], [], [], []⟩) (copyTo 8 0x083FFFF8) 0x3FFFF8 8 = be 8 0x0102030405060708 ∧ movedTo (.copy 0 false ⟨[0x08000104], [], [], []⟩) (copyTo 8 0x083FFFF8) 0x3FFFF8 8 = zeros 8 ∧
    movedTo (.fill 0 false ⟨[], [], [], []⟩) (fillTo 2 0x08000200) 0x200 2 = [octet 7, octet 8] ∧ movedTo (.gather 0 false ⟨[], [], [], []⟩) (gatherBy 0x08000300) 0x400 8 = be 8 0x0506070801020304 ∧
    (after (.fill 0 false ⟨[], [], [], []⟩) (sDma (fillTo 8 0x20FFFFF8))).pstOctets 0xFFFFF8 2 = [octet 7, octet 8] := by decide +kernel

theorem test_dma_ends : ((after (.copy 0 false ⟨[], [], [], []⟩) (sDma (copyTo 4 0x20000000))).dma.records.map (fun r => octAt r.octets 1)) = [2] ∧ ((after (.copy 0 true ⟨[], [], [], []⟩) (sDma (copyTo 4 0x08000200))).dma.records.map (fun r => octAt r.octets 1)) = [3] ∧
    ((after (.compare 0 false ⟨[], [], [], []⟩) (sDma (dmaDesc 3 0 4 0x08000100 0x08000104 0 []))).dma.records.map (fun r => leAt r.octets 8 4)) = [4] ∧ ((after (.dmaResponseTimeout 0 3) dmaLong).dma.records.map (fun r => octAt r.octets 1)) = [4] ∧
    ((after (.dmaDescriptorComplete 0) (dmaLong.wr (DMA_CH_W0_RUNST 0) 2)).dma.records.map (fun r => octAt r.octets 1)) = [5] ∧ (after .completionRecordWrite (sDone 0)).rd DMA_CQ_WR_VALUE = 1 ∧ (after .completionRecordWrite (sDone 1)).rd DMA_STATUS_CQWAIT = 1 := by decide +kernel

/-! #### The dual-clock queues -/

/-- An event of one slot whose words wait in queue `q`. -/
def inQueue (q n : Nat) : Waiting := ⟨⟨timeOfNs 0, 20, none, 1, zeros 8, false, false, []⟩, some q, n⟩

/-- Queue 3 holds a packet read to its end, one of which 2 of 4 words are unread, and one unread; queue 14 holds one. -/
def sPackets : State := { sServe with waiting := [inQueue 3 0, inQueue 14 4, inQueue 3 2, inQueue 3 4] }
/-- The same with CMDSEL of queue 3 at FLUSH, and with an ABORT word due. -/
def sFlush : State := sPackets.wr (DCQ_Q_W0_CMDSEL 3) 0
def sAbort : State := { sPackets with dcq := { sPackets.dcq with abortDue := [3] } }

theorem witness_QueueCommands : sAbort.up = true ∧ sAbort.dcq.abortDue.contains 3 = true ∧ sPackets.up = true ∧ sPackets.dcq.abortDue.contains 3 = false ∧ (∀ w ∈ sServe.waiting, w.dcq = some 14 → w.unread = 0) ∧
    sPackets.waiting[2]? = some (inQueue 3 2) ∧ (inQueue 3 2).dcq = some 3 ∧ (inQueue 3 2).unread ≠ 0 ∧ (∀ k ∈ [0, 1], ∀ x ∈ sPackets.waiting[k]?, x.dcq ≠ some 3 ∨ x.unread = 0) ∧ sPackets.serves .A ∧ sFlush.serves .A ∧ sFlush.rd (DCQ_Q_W0_CMDSEL 3) = 0 ∧
    (∃ w ∈ sFlush.waiting, w.dcq = some 3 ∧ w.unread ≠ 0 ∧ w.unread ≠ w.ev.words) ∧ (sFlush.wr (DCQ_Q_W0_RUNST 3) 2).rd (DCQ_Q_W0_RUNST 3) = 2 ∧ sPackets.rd (DCQ_Q_W0_CMDSEL 3) ≠ 0 ∧ sPackets.waiting[3]? = some (inQueue 3 4) ∧ (inQueue 3 4).unread ≠ 0 ∧
    (∀ k : Nat, 3 < k → sPackets.waiting[k]? = none) := by
  unfold State.serves
  refine ⟨by decide +kernel, by decide +kernel, by decide +kernel, by decide +kernel, by decide +kernel, by decide +kernel, by decide +kernel, by decide +kernel, by decide +kernel, by decide +kernel, by decide +kernel, by decide +kernel, by decide +kernel,
    by decide +kernel, by decide +kernel, by decide +kernel, by decide +kernel, ?_⟩
  intro k h
  exact List.getElem?_eq_none (show 4 ≤ k from h)

/-- A frame in the queue from port 0 to port 1: read to its end, begun, and not begun. -/
def frameOf (unread : Nat) : Forward := ⟨zeros 60, timeOfNs 0, 0, false, unread⟩
def sFrames (l : List Nat) : State := sServe.setFwd 15 (l.map frameOf)

theorem witness_QueueCommands_frames : (∀ l ∈ [[0, 8], [3, 8], [8, 8], ([] : List Nat)], let s := sFrames l; s.up = true ∧ s.serves .A ∧ s.dcq.abortDue.contains 15 = false ∧ s.fwdOf 15 = l.map frameOf ∧ s.fwdOf 16 = [] ∧ s.waiting = [] ∧
      s.rd (DCQ_Q_W0_CMDSEL 15) = 0 ∧ (s.wr (DCQ_Q_W0_CMDSEL 15) 1).serves .A ∧ (s.wr (DCQ_Q_W0_CMDSEL 15) 1).rd (DCQ_Q_W0_CMDSEL 15) ≠ 0 ∧ (s.wr (DCQ_Q_W0_RUNST 15) 2).rd (DCQ_Q_W0_RUNST 15) = 2) ∧ (frameOf 0).unread = 0 ∧ (frameOf 3).unread ≠ 0 ∧
    ((sFrames [3, 8]).fwdOf 15).getLast? = some (frameOf 8) := by unfold State.serves; decide +kernel

/-- A command on queue 15, and what the queue then holds and has discarded. -/
def framesAfter (c : Instr) (s : State) : List (Nat × Nat × Bool) × Nat := (((after c s).fwdOf 15).map (fun x => (x.octets.length, x.unread, x.bad)), (after c s).rd (DCQ_Q_W3_DISC 15))

theorem test_frames : framesAfter (.dcqWordRead 15 true) (sFrames [3, 8]) = ([(60, 2, true), (60, 8, false)], 0) ∧ framesAfter (.flush .A 15 false) (sFrames [3, 8]) = ([(40, 0, true)], 11) ∧
    framesAfter (.flush .A 15 false) (sFrames [0, 8]) = ([(60, 0, false)], 8) ∧ framesAfter (.drop .A 15 true) ((sFrames [3, 8]).wr (DCQ_Q_W0_CMDSEL 15) 1) = ([(60, 3, false)], 8) := by decide +kernel

theorem test_queues : ((after (.dcqWordRead 3 true) sPackets).waiting.map (·.unread)) = [0, 4, 1, 4] ∧ (after (.dcqWordRead 3 true) sPackets).rd (DCQ_Q_W2_PERR 3) = 1 ∧ ((after (.dcqWordRead 3 true) sPackets).waiting.map (·.ev.bad)) = [[], [], [0], []] ∧
    (after (.dcqWordRead 3 false) sAbort).dcq.abortDue = [] ∧ (after (.flush .A 3 false) sFlush).waiting = [inQueue 14 4] ∧ (after (.flush .A 3 false) sFlush).rd (DCQ_Q_W3_DISC 3) = 6 ∧ (after (.flush .A 3 false) sFlush).dcq.abortDue = [3] ∧
    (after (.drop .A 3 true) sPackets).waiting = [inQueue 3 0, inQueue 14 4, inQueue 3 2] ∧ (after (.drop .A 3 false) sFlush).rd DCQ_STATUS_CMDREJ = 1 := by decide +kernel
/-! ### The safety block -/

/-- A test of Lane B ordered; a periodic start due, of Lane B or with the swap before it; and a run on Lane B. -/
def sOrder : State := { sServe with saf := { sServe.saf with ordered := some .B } }
def sPeriodic (last : Option Lane) : State := { sServe with saf := { sServe.saf with due := true, lastLane := last } }
def sTested : State := { sServe.wr LSC_ROLE_STATE_B roleBist with saf := { sServe.saf with bist := some ⟨.B, 2⟩ } }

/-- Lane B held in BOOT by BLOCK; an update in progress, so that no test may start. -/
def sBlocked : State := (sServe.wr LSC_ROLE_STATE_B roleBoot).wr SAF_BIST_BLOCK_B 1
def sNoTest (s : State) : State := s.wr RLD_STATE_STATE 2

/-- `n` ns after the start, an interval of 1 hour counted from there; periodic tests on. -/
def sHours (n : Nat) : State := ({ sServe with cycles := n / 4 }.wr SAF_CTRL_BIST_EN 1).wr SAF_CTRL_SF1T_EN 1

/-- A proof test runs on a path. -/
def sTest (path : Nat) (full : Bool) : State := { sServe with saf := { sServe.saf with test := some ⟨path, full⟩ } }

theorem witness_LaneTests : sServe.bistMay = true ∧ 0x5AFD#16 ≠ 0x5AFE#16 ∧ sServe.role .B = roleShadow ∧ sServe.saf.ordered = none ∧ sBlocked.serves .A ∧ sBlocked.role .B = roleBoot ∧ sBlocked.blocked .B = true ∧ sBlocked.role .A = roleActive ∧
    sBlocked.bistCalm = true ∧ sBlocked.saf.bist = none ∧ sServe.role .A ≠ roleShadow ∧ sServe.role .A ≠ roleBoot ∧ (sNoTest sServe).serves .A ∧ (sNoTest sServe).role .B = roleShadow ∧ (sNoTest sServe).bistMay = false ∧
    (sBlocked.wr SAF_BIST_BLOCK_B 0).serves .A ∧ (sBlocked.wr SAF_BIST_BLOCK_B 0).role .B = roleBoot ∧ (sBlocked.wr SAF_BIST_BLOCK_B 0).blocked .B = false ∧ (sNoTest sBlocked).bistCalm = false := by unfold State.serves; decide +kernel

theorem witness_LaneTests_periodic : (let n := max 1 (sServe.rd SAF_PER_BIST_PER) * 3600000000000
     (sHours n).up = true ∧ (sHours n).rd SAF_CTRL_BIST_EN ≠ 0 ∧ (sHours n).saf.lastBist + max 1 ((sHours n).rd SAF_PER_BIST_PER) * 3600000000000 ≤ (sHours n).elapsed ∧
     (sHours (n - 1)).elapsed < (sHours (n - 1)).saf.lastBist + max 1 ((sHours (n - 1)).rd SAF_PER_BIST_PER) * 3600000000000 ∧ (sServe.wr SAF_CTRL_BIST_EN 0).rd SAF_CTRL_BIST_EN = 0) := by decide +kernel

theorem witness_LaneTests_seal : sOrder.saf.ordered = some .B ∧ sOrder.bistMay = true ∧ sOrder.role .B = roleShadow ∧ (sNoTest sOrder).saf.ordered = some .B ∧ (sNoTest sOrder).bistMay = false ∧ sServe.saf.ordered = none ∧ sServe.saf.due = false ∧
    (sNoTest (sPeriodic none)).saf.due = true ∧ (sNoTest (sPeriodic none)).saf.ordered = none ∧ (sNoTest (sPeriodic none)).bistMay = false ∧ (∀ x ∈ [none, some Lane.B], (sPeriodic x).saf.due = true ∧ (sPeriodic x).saf.ordered = none ∧ (sPeriodic x).bistMay = true ∧ (sPeriodic x).role .A = roleActive) ∧
    ((sPeriodic (some .B)).wr SAF_CTRL_SWAP_EN 1).rd SAF_CTRL_SWAP_EN ≠ 0 ∧ (sPeriodic (some .B)).saf.lastLane = some Lane.A.other ∧ (sPeriodic none).saf.lastLane ≠ some Lane.A.other ∧ ((sPeriodic (some .B)).wr SAF_CTRL_SWAP_EN 1).bistMay = true ∧
    sServe.up = true ∧ sServe.saf.bist = none ∧ sTested.up = true ∧ sTested.saf.bist = some ⟨.B, 2⟩ := by decide +kernel

theorem test_lane_tests : (after (.bistLaneB .A 0x5AFE#16) sServe).saf.ordered = some .B ∧ (after (.bistLaneA .A 0x5AFE#16) sServe).rd SAF_STATUS_CMDREJ = 1 ∧ (after (.bistLaneB .A 0x5AFE#16) sBlocked).role .B = roleBist ∧
    sOrder.safSeal.role .B = roleBist ∧ ((sPeriodic (some .B)).wr SAF_CTRL_SWAP_EN 1).safSeal.role .B = roleActive ∧ ((sPeriodic none).wr SAF_CTRL_SWAP_EN 1).safSeal.role .B = roleBist ∧ (sNoTest (sPeriodic none)).safSeal.rd SAF_STATUS_BISTDEFER = 1 := by decide +kernel

theorem test_lane_test_ends : (after (.bistComplete ⟨1, 2, true, true⟩) sTested).rd SAF_BIST_RES_B = 2 ∧ (after (.bistComplete ⟨1, 2, false, true⟩) sTested).rd SAF_BIST_BLOCK_B = 1 ∧ (after (.bistComplete ⟨1, 2, false, false⟩) sTested).rd SAF_BIST_BLOCK_B = 0 ∧
    (after (.bistComplete ⟨1, 2, false, false⟩) sTested).role .B = roleBoot ∧ (after (.clrblk .A 0x5AFE#16) sBlocked).rd SAF_BIST_BLOCK_B = 0 := by decide +kernel

theorem witness_ProofTestsAndRinse : sServe.serves .A ∧ sServe.rd MTR_SF1_PATHA = 0 ∧ sServe.rd MTR_SF1_PATHB = 0 ∧ sServe.saf.test = none ∧ sServe.rd MTR_PHST_VPRES = 0 ∧ (sServe.wr MTR_SF1_PATHA 1).serves .A ∧ (sServe.wr MTR_SF1_PATHA 1).rd MTR_SF1_PATHA ≠ 0 ∧
    (sServe.wr MTR_PHST_VPRES 1).rd MTR_PHST_VPRES ≠ 0 ∧ (sTest 0 true).serves .A ∧ (sTest 0 true).saf.test = some ⟨0, true⟩ ∧ (sServe.wr SAF_CTRL_SF1T_EN 0).up = true ∧ (sServe.wr SAF_CTRL_SF1T_EN 0).rd SAF_CTRL_SF1T_EN = 0 ∧ (sTest 1 false).up = true ∧ (sTest 1 false).saf.test = some ⟨1, false⟩ ∧
    (∀ v ∈ (some 65535 : Option Nat), v < 65536) := by unfold State.serves; decide +kernel

theorem witness_ProofTestsAndRinse_periodic : (let n := max 1 (sServe.rd SAF_PER_SF1PER) * 3600000000000; let b := fun m : Nat => { sHours m with saf := { (sHours m).saf with dueB := some (n + 1000000000) } }
     (sHours n).rd SAF_CTRL_SF1T_EN ≠ 0 ∧ (sHours n).saf.dueB = none ∧ (sHours n).saf.lastTest + max 1 ((sHours n).rd SAF_PER_SF1PER) * 3600000000000 ≤ (sHours n).elapsed ∧ (sHours n).rd MTR_SF1_PATHA = 0 ∧ (sHours n).rd MTR_SF1_PATHB = 0 ∧ (sHours n).saf.test = none ∧
     (sHours (n - 1)).elapsed < (sHours (n - 1)).saf.lastTest + max 1 ((sHours (n - 1)).rd SAF_PER_SF1PER) * 3600000000000 ∧ (b (n + 999999999)).elapsed < n + 1000000000 ∧ n + 1000000000 ≤ (b (n + 1000000000)).elapsed ∧ (b (n + 1000000000)).saf.test = none) := by decide +kernel

theorem witness_ProofTestsAndRinse_rinse : (let s := (sServe.wr SAF_BIST_RUN_A 1).wr SAF_BIST_RUN_B 1; s.up = true ∧ s.rinsePaused .A = true ∧ s.rinsePaused .B = true) ∧ sServe.rinsePaused .A = false ∧ sServe.saf.rinseAt < 524287 ∧
    (let s := { sServe with saf := { sServe.saf with rinseAt := 524287 } }; s.saf.rinseAt = 524287 ∧ s.rinsePaused .A = false) ∧ (∀ l ∈ [Lane.A, Lane.B], sServe.rinsePaused l = false ∧ sServe.role l ≠ roleOut ∧ sServe.role l ≠ roleOff ∧ sServe.role l ≠ roleBist) := by decide +kernel

theorem test_proof_tests : (after (.fullPathB .A 0x5AFE#16) sServe).saf.test = some ⟨1, true⟩ ∧ (after (.fullPathB .A 0x5AFE#16) (sServe.wr MTR_PHST_VPRES 1)).rd SAF_STATUS_CMDREJ = 1 ∧ (after (.detectPathB .A 0x5AFE#16) (sServe.wr MTR_PHST_VPRES 1)).rd SAF_SF1T_RUN = 1 ∧
    (after (.sf1TestComplete (some 400) true) (sTest 0 true)).rd SAF_SF1T_RES_A = 1 ∧ (after (.sf1TestComplete (some 401) true) (sTest 1 true)).rd SAF_SF1T_RES_B = 2 ∧ (after (.sf1TestComplete (some 5) false) (sTest 1 true)).rd SAF_STATUS_SF1TFAIL = 1 := by decide +kernel

theorem test_rinse : (after (.rinseRead .corrected .clean) sServe).rd (LSC_CE_CNT_COUNT .A) = 1 ∧ (after (.rinseRead .clean .clean) { sServe with saf := { sServe.saf with rinseAt := 524287 } }).rd SAF_RINSE_PASS_COUNT = 1 ∧
    (after (.rinseRead .clean .uncorrected) sServe).role .B = roleOut := by decide +kernel
/-! ### Operands that the check refuses -/

/-- Nine reads of an array, and PMP regions, of the sizes named. -/
def nineOf (n : Nat) : List Octets := List.replicate 9 (zeros n)
def regionsOf (n addr : Nat) : Option (List PmpRegion) := some (List.replicate n ⟨addr, .na4, true, true, false⟩)

/-- Stores and loads of a core whose PMP list is cut short, or has an address that is too wide. -/
def badCores : List CoreMeet := [⟨false, regionsOf 15 0, .clean⟩, ⟨false, regionsOf 16 (2 ^ 54), .clean⟩]

theorem test_wf_accesses : (Instr.registerWrite .A 0x40000014#32 3 0#64 okWrite).wf = false ∧ (Instr.registerWrite .A 0x40000014#32 4 0x100000000#64 okWrite).wf = false ∧ (Instr.registerWrite .A 0x40000014#32 4 0xFFFFFFFF#64 okWrite).wf = true ∧
    (Instr.ndFieldRead .A 0x40000014#32 16 okLoad).wf = false ∧ (Instr.pstStore .A 0x1FFFFFFC#32 4 0#32 okWrite).wf = false ∧ (Instr.pstStore .A 0x20000000#32 3 0#32 okWrite).wf = false ∧ (Instr.pstRead .A 0x21000000#32 4 okLoad.core .clean).wf = false ∧
    (Instr.pstRead .A 0x20000000#32 0 okLoad.core .clean).wf = false ∧ (Instr.pstRead .A 0x20FFFFFC#32 4 okLoad.core .clean).wf = true := by decide +kernel

theorem test_wf_cores : (∀ c ∈ badCores, (Instr.registerWrite .A 0#32 4 0#64 { okWrite with core := c }).wf = false ∧ (Instr.wideValueCommitWrite .A 0#32 0#32 { okWrite with core := c }).wf = false ∧ (Instr.ndFieldRead .A 0#32 4 ⟨false, c⟩).wf = false ∧
      (Instr.pstStore .A 0x20000000#32 4 0#32 { okWrite with core := c }).wf = false ∧ (Instr.pstRead .A 0x20000000#32 4 c .clean).wf = false) ∧ (Instr.pstRead .A 0x20000000#32 4 ⟨true, regionsOf 16 (2 ^ 54 - 1), .clean⟩ .clean).wf = true := by decide +kernel

theorem test_wf_arrays : (∀ r ∈ [[zeros 8192], nineOf 8191], (Instr.registerWrite .A 0#32 4 0#64 { okWrite with reads := r }).wf = false ∧ (Instr.wideValueCommitWrite .A 0#32 0#32 { okWrite with reads := r }).wf = false ∧ (Instr.pstStore .A 0x20000000#32 4 0#32 { okWrite with reads := r }).wf = false ∧
      (Instr.enrolpuf .A 0#16 false r).wf = false) ∧ (Instr.enrolpuf .A 0#16 false (nineOf 8192)).wf = true ∧ (Instr.rootRecovery (zeros 8191)).wf = false ∧ (Instr.rootRecovery (zeros 8192)).wf = true := by decide +kernel

theorem test_wf_starts : (Instr.powerOnResetEnd ⟨2 ^ 64, 0, false, false⟩ ⟨0, 0, false, false⟩ false).wf = false ∧ (Instr.powerOnResetEnd ⟨0, 0, false, false⟩ ⟨0, 2 ^ 64, false, false⟩ false).wf = false ∧ (Instr.bistComplete ⟨0, 2 ^ 64, false, false⟩).wf = false ∧
    (Instr.bistComplete ⟨2 ^ 64 - 1, 0, false, false⟩).wf = true ∧ (Instr.vinCollapse 65).wf = false ∧ (Instr.vinCollapse 64).wf = true ∧ (Instr.tbCounterTick 0).wf = false ∧ (Instr.sf1TestComplete (some 65536) true).wf = false ∧ (Instr.sf1TestComplete none true).wf = true := by
  decide +kernel

theorem test_wf_frames : (∀ k ∈ [0, 126], (Instr.radioFrameReceive 0 (zeros k) ⟨true, false, false⟩ 0#8).wf = false) ∧ (Instr.radioFrameReceive 0 (zeros 125) ⟨true, false, false⟩ 0#8).wf = true ∧
    (∀ k ∈ [0, 199], (Instr.plcFrameReceive (zeros k) ⟨true, true, 0⟩ 0#16 0#8).wf = false) ∧ (Instr.plcFrameReceive (zeros 198) ⟨true, true, 0⟩ 0#16 0#8).wf = true ∧ (Instr.hsrForward 0 10 ⟨[], false⟩).wf = false ∧ (Instr.txFrameSend 0 10 ⟨[], false⟩).wf = false ∧
    (Instr.txFrameSend 0 9 ⟨[], false⟩).wf = true ∧ (Instr.bhFrameReceive 0 10 [] ⟨false, .none, 0, false, false, false, false⟩).wf = false ∧ (Instr.bhFrameReceive 0 9 [] ⟨false, .none, 0, false, false, false, false⟩).wf = true ∧
    (Instr.pauseReceive 0 true 0#8 [1]).wf = false ∧ (Instr.pauseReceive 0 true 0#8 (List.replicate 8 65536)).wf = false ∧ (Instr.pauseReceive 0 true 0#8 (List.replicate 8 65535)).wf = true := by decide +kernel

theorem test_wf_samples : (Instr.reflectRunStart []).wf = false ∧ (Instr.reflectRunStart (List.replicate 64 [])).wf = false ∧ (Instr.shot (List.replicate 4097 0) false false).wf = false ∧ (Instr.shot (List.replicate 4096 32768) false false).wf = false ∧ (Instr.shot [32767, -32768] false false).wf = true ∧
    (Instr.meteringSample []).wf = false ∧ (Instr.meteringSample (List.replicate 11 (2 ^ 31))).wf = false ∧ (Instr.meteringSample (List.replicate 11 (-2 ^ 31))).wf = true ∧ (Instr.meteringStop .A []).wf = false ∧
    (Instr.sf1PathBTrip [2 ^ 31]).wf = false ∧ (Instr.sf1TripRelease (.digital [2 ^ 31])).wf = false ∧ (Instr.sf1TripRelease (.digital [2 ^ 31 - 1])).wf = true := by decide +kernel

theorem test_wf_errors : ∀ e ∈ [(⟨[2 ^ 32], [], [], []⟩ : BusErrors), ⟨[], [2 ^ 32], [], []⟩, ⟨[], [], [2 ^ 32], []⟩, ⟨[], [], [], [2 ^ 32]⟩], (Instr.copy 0 false e).wf = false ∧ (Instr.gather 0 false e).wf = false ∧ (Instr.fill 0 false e).wf = false ∧
    (Instr.compare 0 false e).wf = false := by decide +kernel
end Sys2Proof.Tests
end

/-!
PROOFS. A lane's load of an ND word (R10, R91): what it answers in each of the two contexts, and what the count of ND reads changes.
-/
namespace Sys2Proof.Machine

/-! ### The count of ND reads -/

theorem roleField_key_ne_ndCount (l : Lane) : (roleField l).key ≠ (LSC_ND_CNT_COUNT l).key := by cases l <;> decide

theorem roleField_key_ne_ndWrap (l : Lane) : (roleField l).key ≠ LSC_STATUS_NDWRAP.key := by cases l <;> decide

@[simp] theorem count_lane (s : State) (f w : Field) (l : Lane) : (s.count f w).lane l = s.lane l := by
  unfold State.count State.addCount State.raiseIf
  simp only
  split <;> simp only [raise_def, wr_lane]

@[simp] theorem count_crz (s : State) (f w : Field) : (s.count f w).crz = s.crz := by
  unfold State.count State.addCount State.raiseIf
  simp only
  split <;> simp only [raise_def, wr_crz]

/-- LSC_ND_CNT and its wrap flag are not the lanes' roles. -/
theorem ndCount_role (s : State) (l : Lane) : (s.count (LSC_ND_CNT_COUNT l) LSC_STATUS_NDWRAP).role l = s.role l :=
  role_keep l (count_lane s _ _ l) (count_rd_ne s (roleField_key_ne_ndCount l) (roleField_key_ne_ndWrap l))

/-- A lane that is not Active counts against no Crease (R81, R91). -/
theorem countAgainst_of_role_ne {s : State} {l : Lane} {b : Nat} (h : s.role l ≠ roleActive) : s.countAgainst l b = s := by
  simp [State.countAgainst, h]

/-- What counts against a Crease is marked in the coverage, not in a register. -/
theorem countAgainst_rd (s : State) (l : Lane) (b : Nat) {f : Field} (h : f.block < 22) : (s.countAgainst l b).rd f = s.rd f := by
  have k : (134217728 : Nat).testBit f.block = false := by
    show (2 ^ 27 : Nat).testBit f.block = false
    rw [Nat.testBit_two_pow, decide_eq_false_iff_not]
    omega
  exact only_rd (m := 134217728) (countAgainst_only rfl (Only.refl s)) (by simp [h, k])

/-- LSC_ND_CNT advances by one and wraps (R29, R91). -/
theorem countNd_rd_count (s : State) (l : Lane) : (s.countNd l).rd (LSC_ND_CNT_COUNT l) = (s.rd (LSC_ND_CNT_COUNT l) + 1) % 2 ^ 32 := by
  have hb : (LSC_ND_CNT_COUNT l).block < 22 := by cases l <;> decide
  have hw : (LSC_ND_CNT_COUNT l).width = 32 := by cases l <;> rfl
  unfold State.countNd
  rw [countAgainst_rd _ l 3 hb, count_rd_same s (nd_ne l), hw]

/-- Only the Active lane's count reaches the coverage of a Crease (R81, R91). -/
theorem countNd_crz_of_role_ne {s : State} {l : Lane} (h : s.role l ≠ roleActive) : (s.countNd l).crz = s.crz := by
  unfold State.countNd
  rw [countAgainst_of_role_ne (by rwa [ndCount_role]), count_crz]

/-! ### The data of a load -/

@[simp] theorem loaded_rd (s : State) (l : Lane) (v : Nat) (f : Field) : (s.loaded l v).rd f = s.rd f := onLane_rd ..

@[simp] theorem loaded_crz (s : State) (l : Lane) (v : Nat) : (s.loaded l v).crz = s.crz := onLane_crz ..

@[simp] theorem loaded_lane (s : State) (l : Lane) (v : Nat) : (s.loaded l v).lane l = { s.lane l with data := v } := onLane_lane ..

@[simp] theorem loaded_role (s : State) (l : Lane) (v : Nat) : (s.loaded l v).role l = s.role l := by
  simp only [State.role, loaded_lane, loaded_rd]

/-! ### The load of an ND word -/

/-- ND_FIELD_READ is the load of a core (R10). -/
theorem exec_ndFieldRead (l : Lane) (a : Word) (size : Nat) (m : LoadMeet) (s : State) :
    exec (.ndFieldRead l a size m) s = .next (s.coreLoad l a.toNat size m .clean) := rfl

/-- A core's load from the register space goes through its PMP regions (R85). -/
theorem coreLoad_register {s : State} {l : Lane} {a size : Nat} {m : LoadMeet} {p : PstMeet} (hr : s.laneRuns l = true) (ha : 0x40000000 ≤ a ∧ a < 0x40160000) :
    s.coreLoad l a size m p = if (s.enterCore l m.core).coreMay l false a size then (s.enterCore l m.core).laneRead l a size m.parity
      else (s.enterCore l m.core).trapLane l .loadFault := by
  simp [State.coreLoad, hr, ha]

section
variable {s : State} {l : Lane} {a : Nat} {parity : Bool} (hr : s.laneRuns l = true) (ha : 0x40000000 ≤ a ∧ a < 0x40160000) (h4 : a % 4 = 0) (hn : isNd l a = true)
include hr ha h4 hn

/-- In deterministic context the load of an ND word is an access fault (R10). -/
theorem laneRead_nd_deterministic (hd : (s.lane l).det = true) : s.laneRead l a 4 parity = s.trapLane l .loadFault := by
  simp [State.laneRead, hr, ha, h4, hn, hd]

/-- In service context the load of an ND word returns the register's word and is counted (R10, R91). -/
theorem laneRead_nd_service (hd : (s.lane l).det = false) (hp : parity = false) :
    s.laneRead l a 4 parity = ((s.regRead l a).1.loaded l (s.regRead l a).2).countNd l := by
  simp [State.laneRead, hr, ha, h4, hn, hd, hp]

end

/-- Settles O9: the PMP regions and the lane's context choose between the access fault and the counted load. -/
theorem ndReads : Obligations.NdReads := by
  unfold Obligations.NdReads
  intro s u l a m hr ha₁ ha₂ h4 hn hu
  have hru : u.laneRuns l = true := by rw [hu, enterCore_runs, hr]
  have hdu : (u.lane l).det = (s.lane l).det := by rw [hu, enterCore_det]
  have ha : 0x40000000 ≤ a.toNat ∧ a.toNat < 0x40160000 := ⟨ha₁, ha₂⟩
  have load : exec (.ndFieldRead l a 4 m) s =
      .next (if u.coreMay l false a.toNat 4 then u.laneRead l a.toNat 4 m.parity else u.trapLane l .loadFault) := by
    rw [exec_ndFieldRead, coreLoad_register hr ha, hu]
  rw [Answers, load]
  constructor
  · intro hfault
    cases hmay : u.coreMay l false a.toNat 4 with
    | false => simp
    | true =>
      have hd : (u.lane l).det = true := by rw [hdu]; simpa [hmay] using hfault
      rw [if_pos rfl, laneRead_nd_deterministic hru ha h4 hn hd]
  · intro hd hmay hp
    rw [if_pos hmay, laneRead_nd_service hru ha h4 hn (hdu.trans hd) hp]
    refine ⟨_, rfl, ?_, ?_, ?_, fun hrole => ?_⟩
    · rw [countNd_lane, loaded_lane]
    · rw [countNd_lane, loaded_lane]
    · rw [countNd_rd_count, loaded_rd]
    · rw [countNd_crz_of_role_ne (by rwa [loaded_role]), loaded_crz]

end Sys2Proof.Machine

namespace Sys2Proof.Machine

/-! ### An access to the register space that is not an aligned word -/

/-- REGISTER_WRITE is the store of a core (R14). -/
theorem exec_registerWrite (l : Lane) (a : Word) (size : Nat) (v : BitVec 64) (m : WriteMeet) (s : State) :
    exec (.registerWrite l a size v m) s = .next (s.coreStore l a.toNat size v.toNat m) := rfl

/-- A lane's load that is not an aligned word is an access fault (R14). -/
theorem laneRead_misaligned {s : State} {l : Lane} {a size : Nat} (hr : s.laneRuns l = true) (hw : size ≠ 4 ∨ a % 4 ≠ 0) (parity : Bool) :
    s.laneRead l a size parity = s.trapLane l .loadFault := by
  have fault : size ≠ 4 ∨ a % 4 ≠ 0 ∨ ¬(0x40000000 ≤ a ∧ a < 0x40160000) := hw.imp_right .inl
  rw [State.laneRead, if_neg (by simp [hr]), if_pos fault]

section
variable {s : State} {l : Lane} {a size : Nat} (hr : s.laneRuns l = true) (ha : 0x40000000 ≤ a ∧ a < 0x40160000)
include hr ha

/-- A core's store to the register space goes through its PMP regions, whatever its alignment (R14, R85). -/
theorem coreStore_register {v : Nat} {m : WriteMeet} :
    s.coreStore l a size v m = if (s.enterCore l m.core).coreMay l true a size = false then (s.enterCore l m.core).trapLane l .storeFault
      else (s.enterCore l m.core).coreAccess l a size v m := by
  simp [State.coreStore, hr, ha]

variable (hw : size ≠ 4 ∨ a % 4 ≠ 0)
include hw

/-- A lane's store that is not an aligned word is an access fault of the register space (R14). -/
theorem laneStore_register_misaligned (v : Nat) (m : WriteMeet) : s.laneStore l a size v m = s.trapLane l .storeFault := by
  rw [State.laneStore, if_neg (by simp [hr]), if_pos ha, if_pos hw]

/-- So is the store of its core: an atomic instruction faults outside the SRAM (R85), and any other is the lane's store. -/
theorem coreAccess_register_misaligned (v : Nat) (m : WriteMeet) : s.coreAccess l a size v m = s.trapLane l .storeFault := by
  have notSram : (decide (0x08000000 ≤ a) && decide (a + size ≤ 0x08400000)) = false := by
    simp only [Bool.and_eq_false_iff, decide_eq_false_iff_not]
    omega
  unfold State.coreAccess
  cases m.atomic with
  | some op => simp [notSram]
  | none => simp [notSram, laneStore_register_misaligned hr ha hw]

end

/-- Settles O8: a refusal by the PMP regions is the same access fault, so the access faults whether they permit it or not. -/
theorem misalignedRegisterAccess : Obligations.MisalignedRegisterAccess := by
  unfold Obligations.MisalignedRegisterAccess
  intro s l a size v hr ha₁ ha₂ hw
  have ha : 0x40000000 ≤ a.toNat ∧ a.toNat < 0x40160000 := ⟨ha₁, ha₂⟩
  have runs (c : CoreMeet) : (s.enterCore l c).laneRuns l = true := by rw [enterCore_runs, hr]
  constructor
  · intro m
    rw [exec_registerWrite, coreStore_register hr ha, coreAccess_register_misaligned (runs m.core) ha hw, ite_self]
  · intro m
    rw [exec_ndFieldRead, coreLoad_register hr ha, laneRead_misaligned (runs m.core) hw, ite_self]

end Sys2Proof.Machine

/-!
PROOFS. The closure of a Crease (R71, R73): the batch that it seals when no lane lags, and what the mark of Day Rest leaves of it.
-/
namespace Sys2Proof.Machine

/-- CREASE_CLOSURE is the closure of the Crease that is sealed next, while the module is up (R71). -/
theorem exec_creaseClosure {s : State} (hu : s.up = true) (bad : Bool) : exec (.creaseClosure bad) s = .next (s.closeCrease bad) :=
  congrArg _ (whenUp_up hu)

/-- With no lane lagging, R102 takes no lane out and discards nothing: the closure that is due is the seal and the mark of Day Rest. -/
theorem closeCrease_of_not_lagging {s : State} (hdue : s.closureDue = true) (hA : s.lagging .A = false) (hB : s.lagging .B = false) (bad : Bool) :
    s.closeCrease bad = (s.sealBatch s.nextSeal bad).markLast s.nextSeal := by
  obtain ⟨keptOut, keptAlone⟩ := lag_none s hA hB
  exact lagAlone_keep s keptOut keptAlone hdue bad

/-- The mark of k_last (R248) changes no more of the Sequencer than that it rests. -/
theorem markLast_crz (s : State) (k : Nat) : (s.markLast k).crz = { s.crz with rest := (s.markLast k).crz.rest } := by
  unfold State.markLast
  split <;> rfl

/-- The digest of a batch is SHA-256 of the previous digest, its header and its slots (R73). -/
theorem batchValue_eq (s : State) (k : Nat) (bad : Bool) :
    batchValue s k bad = sha256 ((if s.crz.first then zeros 32 else s.crz.dPrev) ++ batchHeader s k bad ++ slotOctets (batchEvents s k bad)) := rfl

/-- Settles O23: the closure is the seal, whose registers and place in the chain the mark of Day Rest keeps. -/
theorem creaseIsSealed : Obligations.CreaseIsSealed := by
  unfold Obligations.CreaseIsSealed
  intro s bad hu hdue hA hB
  obtain ⟨sealIdx, digest, lastSealed, oldest, first, dPrev, batches⟩ := sealBatch_facts s s.nextSeal bad
  have kept := (markLast_facts (s.sealBatch s.nextSeal bad) s.nextSeal).2
  rw [Answers, exec_creaseClosure hu, closeCrease_of_not_lagging hdue hA hB, ← batchValue_eq]
  refine ⟨_, rfl, ?_⟩
  rw [kept _ (by decide), kept _ (by decide), markLast_crz]
  exact ⟨digest, dPrev, sealIdx, lastSealed, oldest, first, batches⟩

end Sys2Proof.Machine

/-!
PROOFS. Felter (R109, R115, R116): the event that MIN and MAX choose, the bins of HIST, and the write of HBASE, which is a register of two words.
-/
namespace Sys2Proof.Machine

/-! ### Order keys (R65) -/

/-- Order keys are compared lexicographically (R65). -/
theorem keyLt_iff {a b : Nat × Nat × Nat} :
    keyLt a b = true ↔ a.1 < b.1 ∨ a.1 = b.1 ∧ (a.2.1 < b.2.1 ∨ a.2.1 = b.2.1 ∧ a.2.2 < b.2.2) := by
  unfold keyLt
  split_ifs <;> simp <;> omega

theorem keyLt_irrefl (a : Nat × Nat × Nat) : keyLt a a = false := by
  rw [← Bool.not_eq_true, keyLt_iff]
  omega

theorem keyLt_asymm {a b : Nat × Nat × Nat} (h : keyLt a b = true) : keyLt b a = false := by
  rw [keyLt_iff] at h
  rw [← Bool.not_eq_true, keyLt_iff]
  omega

/-- Not to come before is transitive. -/
theorem keyLt_false_trans {a b c : Nat × Nat × Nat} (hab : keyLt a b = false) (hbc : keyLt b c = false) : keyLt a c = false := by
  rw [← Bool.not_eq_true, keyLt_iff] at hab hbc ⊢
  omega

/-! ### MIN and MAX (R115) -/

/-- `e` wins against `f` in MIN (or MAX, `mx`), or draws with it: its operand is no worse, and with the same operand the key of `f` is not the lower one (R115). -/
def Prog.Prefers (q : Prog) (mx : Bool) (e f : Event) : Prop :=
  (if mx then q.operand f ≤ q.operand e else q.operand e ≤ q.operand f) ∧ (q.operand f = q.operand e → keyLt f.key e.key = false)

theorem Prog.Prefers.refl (q : Prog) (mx : Bool) (e : Event) : q.Prefers mx e e :=
  ⟨by split <;> exact le_rfl, fun _ => keyLt_irrefl e.key⟩

theorem Prog.Prefers.trans {q : Prog} {mx : Bool} {e f g : Event} (hef : q.Prefers mx e f) (hfg : q.Prefers mx f g) : q.Prefers mx e g := by
  obtain ⟨opEF, keyEF⟩ := hef
  obtain ⟨opFG, keyFG⟩ := hfg
  cases mx <;> simp only [Bool.false_eq_true, if_false, if_true] at opEF opFG
  all_goals
    refine ⟨by simpa using by omega, fun same => ?_⟩
    exact keyLt_false_trans (keyFG (by omega)) (keyEF (by omega))

/-- The event at the front against the winner of the others: the preferred of the two wins. -/
theorem winner_cons (q : Prog) (mx : Bool) (e : Event) {f : Event} {t : List Event} (ht : winner q mx t = some f) :
    winner q mx (e :: t) = some e ∧ q.Prefers mx e f ∨ winner q mx (e :: t) = some f ∧ q.Prefers mx f e := by
  simp only [winner, ht, Prog.Prefers]
  by_cases better : (if mx then decide (q.operand f < q.operand e) else decide (q.operand e < q.operand f)) = true
  · refine .inl ⟨if_pos better, ?_⟩
    cases mx <;> simp at better ⊢ <;> omega
  · rw [if_neg better]
    by_cases tie : q.operand e = q.operand f
    · cases lower : keyLt e.key f.key with
      | true => exact .inl (by simp [tie, keyLt_asymm lower])
      | false => exact .inr (by simp [tie])
    · refine .inr ⟨by simp [tie], ?_⟩
      cases mx <;> simp at better ⊢ <;> omega

/-- The winner is an event of the batch that is preferred to every other (R115). -/
theorem winner_spec (q : Prog) (mx : Bool) {es : List Event} (hne : es ≠ []) :
    ∃ e ∈ es, winner q mx es = some e ∧ ∀ f ∈ es, q.Prefers mx e f := by
  induction es with
  | nil => exact absurd rfl hne
  | cons e t ih =>
    by_cases last : t = []
    · subst last
      exact ⟨e, by simp, rfl, by simp [Prog.Prefers.refl]⟩
    · obtain ⟨f, hf, wins, best⟩ := ih last
      obtain ⟨won, pref⟩ | ⟨won, pref⟩ := winner_cons q mx e wins
      · refine ⟨e, by simp, won, fun g hg => ?_⟩
        obtain rfl | hg := List.mem_cons.mp hg
        · exact .refl q mx g
        · exact pref.trans (best g hg)
      · refine ⟨f, by simp [hf], won, fun g hg => ?_⟩
        obtain rfl | hg := List.mem_cons.mp hg
        · exact pref
        · exact best g hg

/-- The data of MIN and MAX: the winner's operand, its arg and its stamp (R113, R115). -/
theorem data_of_winner {q : Prog} {es : List Event} {e : Event} (hop : q.op = 3 ∨ q.op = 4) (hw : winner q (q.op == 4) es = some e) :
    q.data es = (le 8 (unsigned 64 (q.operand e)) ++ le 4 (if q.argSel then e.field q.argOff 4 else e.src) ++ zeros 4 ++ le 8 (ts64 e.stamp), false) := by
  unfold Prog.data
  obtain hop | hop := hop <;> simp only [hop] at hw ⊢ <;> rw [hw]

/-- Settles O35: MIN and MAX give the data of the winner, whose operand and order key are the ones that R115 asks for. -/
theorem leastAndGreatest : Obligations.LeastAndGreatest := by
  unfold Obligations.LeastAndGreatest
  intro q es
  refine ⟨fun e => rfl, fun hne hop => ?_, fun hne hop => ?_⟩
  · obtain ⟨e, he, wins, best⟩ := winner_spec q false hne
    exact ⟨e, he, best, data_of_winner (.inl hop) (by rw [hop]; exact wins)⟩
  · obtain ⟨e, he, wins, best⟩ := winner_spec q true hne
    exact ⟨e, he, best, data_of_winner (.inr hop) (by rw [hop]; exact wins)⟩

/-! ### HIST (R116) -/

/-- The octets of a table of numbers, `w` for each: entry `i` stands at `w * i`. -/
theorem leAt_table (w : Nat) (f : Nat → Nat) {i n : Nat} (hi : i < n) :
    leAt ((List.range n).map (fun j => le w (f j))).flatten (w * i) w = f i % 256 ^ w := by
  obtain ⟨m, rfl⟩ := Nat.exists_eq_add_of_lt hi
  have cut : List.range (i + m + 1) = List.range i ++ i :: (List.range m).map (i + 1 + ·) := by
    rw [show i + m + 1 = i + 1 + m by omega, List.range_add, List.range_succ]
    simp
  have before : ((List.range i).map (fun j => le w (f j))).flatten.length = w * i := by
    simp [Function.comp_def, Nat.mul_comm]
  rw [cut, List.map_append, List.map_cons, List.flatten_append, List.flatten_cons, ← List.append_assoc]
  exact leAt_mid _ _ w (f i) (w * i) before

/-- The data of HIST: the number of events of each bin (R113, R116). -/
theorem data_hist {q : Prog} (hop : q.op = 5) (es : List Event) :
    (q.data es).1 = ((List.range 32).map (fun i => le 4 (es.filter (fun e => q.bin e == i)).length)).flatten := by
  simp only [Prog.data, hop]

/-- An operand below HBASE goes into bin 0 (R116). -/
theorem bin_below {q : Prog} {e : Event} (h : q.operand e < q.hBase) : q.bin e = 0 :=
  if_pos (by omega)

/-- Any other into the bin of its distance from HBASE shifted right, at most 31 (R116). -/
theorem bin_above {q : Prog} {e : Event} (h : q.hBase ≤ q.operand e) : q.bin e = min 31 ((q.operand e - q.hBase).toNat >>> q.shift) := by
  rw [Nat.shiftRight_eq_div_pow]
  exact if_neg (by omega)

/-- Settles O36: a bin counts some of the events of the batch, so that its 32 bits hold the count. -/
theorem histograms : Obligations.Histograms := by
  unfold Obligations.Histograms
  intro q es hop hlen
  refine ⟨fun e => ⟨bin_below, bin_above⟩, ?_, fun i hi => ?_⟩
  · simp [data_hist hop, Function.comp_def]
  · have few : (es.filter (fun e => q.bin e == i)).length ≤ 32768 := (List.length_filter_le _ es).trans hlen
    rw [data_hist hop, leAt_table 4 _ hi, Nat.mod_eq_of_lt (by omega)]
    exact ⟨rfl, few⟩

/-! ### The write of HBASE (R15, R109) -/

theorem enterCore_rd (s : State) (l : Lane) (c : CoreMeet) (f : Field) : (s.enterCore l c).rd f = s.rd f := onLane_rd ..

theorem enterCore_serves {s : State} {l : Lane} (h : s.serves l) (c : CoreMeet) : (s.enterCore l c).serves l := by
  simpa [State.serves] using h

/-- A word of a wide register below its highest, which its block does not ignore, is only staged (R15). -/
theorem performWrite_lowerWord {s : State} {org : Origin} {a v : Nat} {x : WriteMeet} {p : RegPlace} (hp : findReg a = some p) (hlow : p.word + 1 < p.row.words)
    (hv : ¬(s.rtc.onVbat ∧ 0x400F0000 ≤ a ∧ a < 0x40100000)) (hc : commitRefused org a = false) (hl : s.writeLock org.lane a v = none) (hh : a - 4 * p.word ≠ 0x40100800) :
    s.performWrite org a v x = s.stage org.lane a v := by
  have wide : p.row.words ≠ 1 := by omega
  simp [State.performWrite, hv, hp, hc, State.wordWrite, hl, wide, hh, hlow]

/-- The lower word of HBASE of program 0 stands at 0x40061018, and HBASE is the register's one field. -/
theorem findReg_hBaseLow : ∃ p, findReg 0x40061018 = some p ∧ p.word = 0 ∧ p.row.words = 2 ∧ ∀ l, p.fields l = [(FLT_PROG_W6_HBASE 0, .rw, false)] :=
  ⟨_, rfl, rfl, rfl, fun _ => rfl⟩

/-- While the Sequencer stands, Felter ignores no write (R109). -/
theorem writeLock_felter {s : State} (h : s.crzOn = false) {a : Nat} (ha : a / 0x10000 % 0x4000 = 6) (l : Lane) (v : Nat) : s.writeLock l a v = none := by
  unfold State.writeLock
  rw [ha]
  simp [State.fltLocked, h]

/-- With the Sequencer standing, a store to the lower word of HBASE is staged for the lane, and HBASE keeps its value (R15). -/
theorem store_hBaseLow {s : State} {l : Lane} {v : BitVec 64} {m : WriteMeet} (hs : s.serves l) (hp : m.parity = false) (ha : m.atomic = none)
    (hmay : (s.enterCore l m.core).coreMay l true 0x40061018 4 = true) (hoff : s.crzOn = false) :
    exec (.registerWrite l 0x40061018#32 4 v m) s = .next ((s.enterCore l m.core).stage l 0x40061018 (v.toNat % 2 ^ 32)) := by
  obtain ⟨p, hfind, hword, hwords, -⟩ := findReg_hBaseLow
  have off : (s.enterCore l m.core).crzOn = false := by rw [← hoff]; simp only [State.crzOn, State.on, enterCore_rd]
  rw [exec_registerWrite, show (0x40061018#32).toNat = 0x40061018 from rfl, coreStore_plain hs.1 ha hmay (by omega),
    laneStore_serves (enterCore_serves hs m.core) hp (by omega) rfl (by decide),
    performWrite_lowerWord hfind (by omega) (by omega) rfl (writeLock_felter off rfl l _) (by omega)]
  rfl

/-- Lane A serves as the Active lane, and the Sequencer stands. -/
def sequencerStands : State :=
  { State.reset with sys := { State.reset.sys with por := false }, lsc := { State.reset.lsc with coldStart := false } }.wr LSC_ROLE_STATE_A roleActive

theorem sequencerStands_serves : sequencerStands.serves .A := by
  unfold State.serves
  decide

/-- Refutes O34: HBASE is one field of two words, so with CRZ_CTRL.EN = 0 a store of 1 to its lower word at 0x40061018 is only staged (R15) and HBASE still holds 0. -/
theorem not_felterConfigurationLock : ¬ Obligations.FelterConfigurationLock := by
  unfold Obligations.FelterConfigurationLock
  intro h
  have may : (sequencerStands.enterCore .A cleanWrite.core).coreMay .A true 0x40061018 4 = true := by decide
  have stands : sequencerStands.crzOn = false := by decide
  obtain ⟨t, ht, -, takes⟩ := (h sequencerStands _ .A 0x40061018#32 1#64 cleanWrite sequencerStands_serves rfl rfl rfl may rfl (.inr (by decide))).2 stands
  rw [store_hBaseLow sequencerStands_serves rfl rfl may stands] at ht
  obtain ⟨p, hfind, -, -, hfields⟩ := findReg_hBaseLow
  have holds : t.rd (FLT_PROG_W6_HBASE 0) = 1 := takes p hfind (FLT_PROG_W6_HBASE 0, .rw, false) (by simp [hfields]) rfl
  have kept : t.rd (FLT_PROG_W6_HBASE 0) = 0 := by
    obtain rfl := Host.Outcome.next.inj ht
    rw [State.stage, onLane_rd, enterCore_rd]
    decide
  omega

end Sys2Proof.Machine

/-!
PROOFS. The queue, the invariant and the frame: what every command keeps, read off the law (`Only`) of each command.
-/
namespace Sys2Proof.Machine
set_option Elab.async false

/-! ### Masks and lists of parts -/

/-- A mask names no part outside a list. -/
def namesOnly (m : Nat) (L : List Part) : Bool := allParts.all (fun p => !m.testBit p.bit || L.any (fun q => q.bit == p.bit))

theorem mem_allParts (p : Part) : p ∈ allParts := by
  cases p with
  | regs b => cases b <;> decide
  | _ => decide

/-- Each part has a bit of its own. -/
theorem part_bit_inj {p q : Part} (h : p.bit = q.bit) : p = q :=
  List.inj_on_of_nodup_map (f := Part.bit) (l := allParts) (by decide) (mem_allParts p) (mem_allParts q) h

theorem testBit_of_namesOnly {m : Nat} {L : List Part} (h : namesOnly m L = true) {p : Part} (hp : p ∉ L) : m.testBit p.bit = false := by
  have named := List.all_eq_true.mp h p (mem_allParts p)
  simp only [Bool.or_eq_true, Bool.not_eq_true', List.any_eq_true, beq_iff_eq] at named
  refine named.resolve_right fun ⟨q, hq, e⟩ => hp ?_
  rwa [← part_bit_inj e]

theorem namesOnly_storeParts : namesOnly 22515661674643455 storeParts = true := by decide +kernel

theorem namesOnly_resetParts : namesOnly 22515644494774271 (allBut [.pstCells, .otp, .acmSize, .sent, .cycles]) = true := by decide +kernel

/-! ### The law of each command -/

/-- The parts that the law of a command names whatever the lane: a store of a command register may turn out to be any store. -/
def lawParts (c : Instr) : List Part :=
  if (server c).isSome then storeParts else match c with
    | .commitRecordStore .. => storeParts
    | .lscSeal .. => storeParts
    | c => touches c

/-- Every command answers a next state, the queue and the invariant stand, and only the parts of its law change. -/
theorem exec_ends (c : Instr) (s : State) : ∃ m, Ends m s (exec c s) ∧ namesOnly m (lawParts c) = true :=
  match c with
  | .registerWrite .. => ⟨_, execRegisterWrite_ends, namesOnly_storeParts⟩
  | .wideValueCaptureRead .. => ⟨_, execWideValueCaptureRead_ends, rfl⟩
  | .wideValueCommitWrite .. => ⟨_, execWideValueCommitWrite_ends, namesOnly_storeParts⟩
  | .ndFieldRead .. => ⟨_, execNdFieldRead_ends, rfl⟩
  | .powerOnReset => ⟨_, execPowerOnReset_ends, namesOnly_resetParts⟩
  | .powerOnResetEnd .. => ⟨_, execPowerOnResetEnd_ends, rfl⟩
  | .backupDomainReset => ⟨_, execBackupDomainReset_ends, rfl⟩
  | .pinReset => ⟨_, execPinReset_ends, namesOnly_resetParts⟩
  | .pinResetRelease => ⟨_, execPinResetRelease_ends, rfl⟩
  | .sysrst .. => ⟨_, execSysrst_ends, namesOnly_storeParts⟩
  | .nolaneReset => ⟨_, execNolaneReset_ends, namesOnly_resetParts⟩
  | .laneReset .. => ⟨_, execLaneReset_ends, rfl⟩
  | .sramRefillComplete .. => ⟨_, execSramRefillComplete_ends, rfl⟩
  | .coldStartBoot => ⟨_, execColdStartBoot_ends, by decide +kernel⟩
  | .laneBootLoad .. => ⟨_, execLaneBootLoad_ends, rfl⟩
  | .functionEnable .. => ⟨_, execFunctionEnable_ends, namesOnly_storeParts⟩
  | .functionDisable .. => ⟨_, execFunctionDisable_ends, namesOnly_storeParts⟩
  | .shutdownComplete .. => ⟨_, execShutdownComplete_ends, rfl⟩
  | .tbCounterTick .. => ⟨_, execTbCounterTick_ends, rfl⟩
  | .snapshotBoundary => ⟨_, execSnapshotBoundary_ends, rfl⟩
  | .tbSet .. => ⟨_, execTbSet_ends, namesOnly_storeParts⟩
  | .servoDisable .. => ⟨_, execServoDisable_ends, namesOnly_storeParts⟩
  | .followUpTimeout => ⟨_, execFollowUpTimeout_ends, rfl⟩
  | .syncTimeout => ⟨_, execSyncTimeout_ends, rfl⟩
  | .holdoverExpiry => ⟨_, execHoldoverExpiry_ends, rfl⟩
  | .creaseClosure .. => ⟨_, execCreaseClosure_ends, rfl⟩
  | .eventRegister .. => ⟨_, execEventRegister_ends, rfl⟩
  | .intakeResume => ⟨_, execIntakeResume_ends, rfl⟩
  | .batchDelivery .. => ⟨_, execBatchDelivery_ends, rfl⟩
  | .crzEnable .. => ⟨_, execCrzEnable_ends, namesOnly_storeParts⟩
  | .crzDisable .. => ⟨_, execCrzDisable_ends, namesOnly_storeParts⟩
  | .injectEvent .. => ⟨_, execInjectEvent_ends, namesOnly_storeParts⟩
  | .mlanectxWrite .. => ⟨_, execMlanectxWrite_ends, rfl⟩
  | .fenceViolation .. => ⟨_, execFenceViolation_ends, rfl⟩
  | .interruptEntry .. => ⟨_, execInterruptEntry_ends, rfl⟩
  | .commitRecordStore .. => ⟨_, execCommitRecordStore_ends, namesOnly_storeParts⟩
  | .lscSeal .. => ⟨_, execLscSeal_ends, namesOnly_storeParts⟩
  | .sealComplete .. => ⟨_, execSealComplete_ends, rfl⟩
  | .laneFault .. => ⟨_, execLaneFault_ends, rfl⟩
  | .cmpWaitExpiry => ⟨_, execCmpWaitExpiry_ends, rfl⟩
  | .commitDrain .. => ⟨_, execCommitDrain_ends, namesOnly_storeParts⟩
  | .drainComplete => ⟨_, execDrainComplete_ends, rfl⟩
  | .swap .. => ⟨_, execSwap_ends, namesOnly_storeParts⟩
  | .takeoutA .. => ⟨_, execTakeoutA_ends, namesOnly_storeParts⟩
  | .takeoutB .. => ⟨_, execTakeoutB_ends, namesOnly_storeParts⟩
  | .rejoin .. => ⟨_, execRejoin_ends, namesOnly_storeParts⟩
  | .lscJoin .. => ⟨_, execLscJoin_ends, namesOnly_storeParts⟩
  | .resultRecordSend => ⟨_, execResultRecordSend_ends, rfl⟩
  | .collectorRecordReceive .. => ⟨_, execCollectorRecordReceive_ends, rfl⟩
  | .collectorIntake => ⟨_, execCollectorIntake_ends, rfl⟩
  | .actionDeadlineMiss .. => ⟨_, execActionDeadlineMiss_ends, rfl⟩
  | .beacon .. => ⟨_, execBeacon_ends, rfl⟩
  | .radioBundleCell .. => ⟨_, execRadioBundleCell_ends, rfl⟩
  | .radioFrameReceive .. => ⟨_, execRadioFrameReceive_ends, rfl⟩
  | .immAckReceive .. => ⟨_, execImmAckReceive_ends, rfl⟩
  | .ackWaitExpiry .. => ⟨_, execAckWaitExpiry_ends, rfl⟩
  | .reportCellEnd .. => ⟨_, execReportCellEnd_ends, rfl⟩
  | .darnWindowEnd .. => ⟨_, execDarnWindowEnd_ends, rfl⟩
  | .nbrCellEnd .. => ⟨_, execNbrCellEnd_ends, rfl⟩
  | .wakeChange => ⟨_, execWakeChange_ends, rfl⟩
  | .radioDownlinkQueue .. => ⟨_, execRadioDownlinkQueue_ends, namesOnly_storeParts⟩
  | .lanternTableWrite .. => ⟨_, execLanternTableWrite_ends, namesOnly_storeParts⟩
  | .downlinkNoOpportunity .. => ⟨_, execDownlinkNoOpportunity_ends, rfl⟩
  | .timeFrame .. => ⟨_, execTimeFrame_ends, rfl⟩
  | .plcBundleCell .. => ⟨_, execPlcBundleCell_ends, rfl⟩
  | .plcFrameReceive .. => ⟨_, execPlcFrameReceive_ends, rfl⟩
  | .plcAckReceive .. => ⟨_, execPlcAckReceive_ends, rfl⟩
  | .plcAckWaitExpiry => ⟨_, execPlcAckWaitExpiry_ends, rfl⟩
  | .plcReportMiss .. => ⟨_, execPlcReportMiss_ends, rfl⟩
  | .plcDownlinkQueue .. => ⟨_, execPlcDownlinkQueue_ends, namesOnly_storeParts⟩
  | .plcAssignmentPending .. => ⟨_, execPlcAssignmentPending_ends, namesOnly_storeParts⟩
  | .start .. => ⟨_, execStart_ends, namesOnly_storeParts⟩
  | .baseline .. => ⟨_, execBaseline_ends, namesOnly_storeParts⟩
  | .abort .. => ⟨_, execAbort_ends, namesOnly_storeParts⟩
  | .reflectDisable .. => ⟨_, execReflectDisable_ends, namesOnly_storeParts⟩
  | .reflectRunStart .. => ⟨_, execReflectRunStart_ends, rfl⟩
  | .shot .. => ⟨_, execShot_ends, rfl⟩
  | .reflectProcess => ⟨_, execReflectProcess_ends, rfl⟩
  | .baselineWriteDone => ⟨_, execBaselineWriteDone_ends, rfl⟩
  | .quietWindowEnd => ⟨_, execQuietWindowEnd_ends, rfl⟩
  | .linkUp .. => ⟨_, execLinkUp_ends, rfl⟩
  | .linkDown .. => ⟨_, execLinkDown_ends, rfl⟩
  | .bhFrameReceive .. => ⟨_, execBhFrameReceive_ends, rfl⟩
  | .hsrForward .. => ⟨_, execHsrForward_ends, rfl⟩
  | .txTailWrite .. => ⟨_, execTxTailWrite_ends, namesOnly_storeParts⟩
  | .txFrameSend .. => ⟨_, execTxFrameSend_ends, rfl⟩
  | .descriptorWriteback => ⟨_, execDescriptorWriteback_ends, rfl⟩
  | .verifyMpacketTimer .. => ⟨_, execVerifyMpacketTimer_ends, rfl⟩
  | .respondMpacketReceive .. => ⟨_, execRespondMpacketReceive_ends, rfl⟩
  | .pauseReceive .. => ⟨_, execPauseReceive_ends, rfl⟩
  | .pauseExpiry .. => ⟨_, execPauseExpiry_ends, rfl⟩
  | .pauseWatchdogExpiry .. => ⟨_, execPauseWatchdogExpiry_ends, rfl⟩
  | .duplicateEntryForget .. => ⟨_, execDuplicateEntryForget_ends, rfl⟩
  | .enter .. => ⟨_, execEnter_ends, namesOnly_storeParts⟩
  | .drWakeTime => ⟨_, execDrWakeTime_ends, rfl⟩
  | .heartbeatRestToggle => ⟨_, execHeartbeatRestToggle_ends, rfl⟩
  | .pbFrameReceive .. => ⟨_, execPbFrameReceive_ends, rfl⟩
  | .pbFrameTransmit .. => ⟨_, execPbFrameTransmit_ends, rfl⟩
  | .pbCollision .. => ⟨_, execPbCollision_ends, rfl⟩
  | .pbBackoffExpiry => ⟨_, execPbBackoffExpiry_ends, rfl⟩
  | .meteringSample .. => ⟨_, execMeteringSample_ends, rfl⟩
  | .crossingTimeout .. => ⟨_, execCrossingTimeout_ends, rfl⟩
  | .freeWindowEnd .. => ⟨_, execFreeWindowEnd_ends, rfl⟩
  | .creaseSummary => ⟨_, execCreaseSummary_ends, rfl⟩
  | .meteringStart => ⟨_, execMeteringStart_ends, rfl⟩
  | .meteringStop .. => ⟨_, execMeteringStop_ends, namesOnly_storeParts⟩
  | .sf1PathATrip .. => ⟨_, execSf1PathATrip_ends, rfl⟩
  | .sf1PathBTrip .. => ⟨_, execSf1PathBTrip_ends, rfl⟩
  | .sf1TripRelease .. => ⟨_, execSf1TripRelease_ends, rfl⟩
  | .sf1DisagreeTimeout => ⟨_, execSf1DisagreeTimeout_ends, rfl⟩
  | .sf1ThrWrite .. => ⟨_, execSf1ThrWrite_ends, namesOnly_storeParts⟩
  | .pstStore .. => ⟨_, execPstStore_ends, namesOnly_storeParts⟩
  | .pstCellWrite => ⟨_, execPstCellWrite_ends, rfl⟩
  | .pstRead .. => ⟨_, execPstRead_ends, rfl⟩
  | .pstDrainRead .. => ⟨_, execPstDrainRead_ends, rfl⟩
  | .opsecTick => ⟨_, execOpsecTick_ends, rfl⟩
  | .recorderWriteDone => ⟨_, execRecorderWriteDone_ends, rfl⟩
  | .rtcSecondTick => ⟨_, execRtcSecondTick_ends, rfl⟩
  | .rtcTrimStep .. => ⟨_, execRtcTrimStep_ends, rfl⟩
  | .timeGroupRead .. => ⟨_, execTimeGroupRead_ends, rfl⟩
  | .freezeTimeout .. => ⟨_, execFreezeTimeout_ends, rfl⟩
  | .commit .. => ⟨_, execCommit_ends, namesOnly_storeParts⟩
  | .addHour .. => ⟨_, execAddHour_ends, namesOnly_storeParts⟩
  | .subHour .. => ⟨_, execSubHour_ends, namesOnly_storeParts⟩
  | .ponSet .. => ⟨_, execPonSet_ends, namesOnly_storeParts⟩
  | .ponClr .. => ⟨_, execPonClr_ends, namesOnly_storeParts⟩
  | .rtcMark .. => ⟨_, execRtcMark_ends, rfl⟩
  | .oscillatorStop => ⟨_, execOscillatorStop_ends, rfl⟩
  | .oscillatorResume => ⟨_, execOscillatorResume_ends, rfl⟩
  | .switchToVbat .. => ⟨_, execSwitchToVbat_ends, rfl⟩
  | .switchToVmain => ⟨_, execSwitchToVmain_ends, rfl⟩
  | .rootRecovery .. => ⟨_, execRootRecovery_ends, rfl⟩
  | .helperMirrorWrite => ⟨_, execHelperMirrorWrite_ends, rfl⟩
  | .transition .. => ⟨_, execTransition_ends, namesOnly_storeParts⟩
  | .importBlob .. => ⟨_, execImportBlob_ends, namesOnly_storeParts⟩
  | .derive .. => ⟨_, execDerive_ends, namesOnly_storeParts⟩
  | .clear .. => ⟨_, execClear_ends, namesOnly_storeParts⟩
  | .enrolpuf .. => ⟨_, execEnrolpuf_ends, namesOnly_storeParts⟩
  | .cryJob .. => ⟨_, execCryJob_ends, namesOnly_storeParts⟩
  | .cryJobComplete .. => ⟨_, execCryJobComplete_ends, rfl⟩
  | .program .. => ⟨_, execProgram_ends, namesOnly_storeParts⟩
  | .erase .. => ⟨_, execErase_ends, namesOnly_storeParts⟩
  | .acmOperationDone .. => ⟨_, execAcmOperationDone_ends, rfl⟩
  | .verify .. => ⟨_, execVerify_ends, namesOnly_storeParts⟩
  | .schedule .. => ⟨_, execSchedule_ends, namesOnly_storeParts⟩
  | .cancel .. => ⟨_, execCancel_ends, namesOnly_storeParts⟩
  | .saveCopyDone .. => ⟨_, execSaveCopyDone_ends, rfl⟩
  | .updateActivation => ⟨_, execUpdateActivation_ends, namesOnly_storeParts⟩
  | .activationDeferExpiry => ⟨_, execActivationDeferExpiry_ends, rfl⟩
  | .codeStoreWritten => ⟨_, execCodeStoreWritten_ends, rfl⟩
  | .verdict .. => ⟨_, execVerdict_ends, namesOnly_storeParts⟩
  | .trialDeadline => ⟨_, execTrialDeadline_ends, rfl⟩
  | .committingCopyDone => ⟨_, execCommittingCopyDone_ends, rfl⟩
  | .rollbackRestoreDone => ⟨_, execRollbackRestoreDone_ends, namesOnly_storeParts⟩
  | .dmaTailWrite .. => ⟨_, execDmaTailWrite_ends, namesOnly_storeParts⟩
  | .copy .. => ⟨_, execCopy_ends, rfl⟩
  | .gather .. => ⟨_, execGather_ends, rfl⟩
  | .fill .. => ⟨_, execFill_ends, rfl⟩
  | .compare .. => ⟨_, execCompare_ends, rfl⟩
  | .dmaDescriptorComplete .. => ⟨_, execDmaDescriptorComplete_ends, rfl⟩
  | .dmaResponseTimeout .. => ⟨_, execDmaResponseTimeout_ends, rfl⟩
  | .completionRecordWrite => ⟨_, execCompletionRecordWrite_ends, rfl⟩
  | .flush .. => ⟨_, execFlush_ends, namesOnly_storeParts⟩
  | .drop .. => ⟨_, execDrop_ends, namesOnly_storeParts⟩
  | .dcqWordRead .. => ⟨_, execDcqWordRead_ends, rfl⟩
  | .bistLaneA .. => ⟨_, execBistLaneA_ends, namesOnly_storeParts⟩
  | .bistLaneB .. => ⟨_, execBistLaneB_ends, namesOnly_storeParts⟩
  | .bistPeriodicDue => ⟨_, execBistPeriodicDue_ends, rfl⟩
  | .bistComplete .. => ⟨_, execBistComplete_ends, rfl⟩
  | .detectPathA .. => ⟨_, execDetectPathA_ends, namesOnly_storeParts⟩
  | .detectPathB .. => ⟨_, execDetectPathB_ends, namesOnly_storeParts⟩
  | .fullPathA .. => ⟨_, execFullPathA_ends, namesOnly_storeParts⟩
  | .fullPathB .. => ⟨_, execFullPathB_ends, rfl⟩
  | .clrblk .. => ⟨_, execClrblk_ends, rfl⟩
  | .sf1TestPeriodic => ⟨_, execSf1TestPeriodic_ends, rfl⟩
  | .sf1TestComplete .. => ⟨_, execSf1TestComplete_ends, rfl⟩
  | .rinseRead .. => ⟨_, execRinseRead_ends, rfl⟩
  | .vinCollapse .. => ⟨_, execVinCollapse_ends, namesOnly_storeParts⟩
  | .referenceOscillatorStop => ⟨_, execReferenceOscillatorStop_ends, rfl⟩
  | .tapInstructionUpdate .. => ⟨_, execTapInstructionUpdate_ends, namesOnly_resetParts⟩
  | .functionRunning .. => ⟨_, execFunctionRunning_ends, rfl⟩
  | .otpEntryProgrammed => ⟨_, execOtpEntryProgrammed_ends, by decide +kernel⟩

/-- A function's enable changes that function's parts only (R28). -/
theorem namesOnly_funcParts (f : Func) : namesOnly (funcMask f) (funcParts f) = true := by
  cases f with
  | channel _ => exact (rfl : namesOnly 524288 [.regs .dma] = true)
  | queue _ => exact (rfl : namesOnly 17600810582016 [.regs .dcq, .waiting, .dcq, .bh] = true)
  | _ => rfl

/-- Of a command that is a store of a command register, performed for a lane that serves, its register's parts only change; of any other, the parts of its law. -/
theorem exec_only {c : Instr} {s t : State} (he : exec c s = .next t) (hs : ∀ l, server c = some l → s.serves l) : ∃ m, Only m s t ∧ namesOnly m (touches c) = true := by
  have general : ∃ m, Only m s t ∧ namesOnly m (lawParts c) = true := by
    obtain ⟨m, ends, inside⟩ := exec_ends c s
    exact ⟨m, ends.only he, inside⟩
  cases c
  case sysrst => exact ⟨_, sysrst_frame _ _ (hs _ rfl) he, namesOnly_resetParts⟩
  case tbSet => exact ⟨_, tbSet_frame _ (hs _ rfl) he, rfl⟩
  case servoDisable => exact ⟨_, servoDisable_frame (hs _ rfl) he, rfl⟩
  case crzEnable => exact ⟨_, crzEnable_frame (hs _ rfl) he, rfl⟩
  case crzDisable => exact ⟨_, crzDisable_frame (hs _ rfl) he, rfl⟩
  case injectEvent => exact ⟨_, injectEvent_frame _ _ (hs _ rfl) he, rfl⟩
  case commitRecordStore => exact ⟨_, commitRecordStore_frame _ _ he, rfl⟩
  case lscSeal => exact ⟨_, lscSeal_frame _ he, rfl⟩
  case swap => exact ⟨_, swap_frame _ (hs _ rfl) he, rfl⟩
  case takeoutA => exact ⟨_, takeoutA_frame _ (hs _ rfl) he, rfl⟩
  case takeoutB => exact ⟨_, takeoutB_frame _ (hs _ rfl) he, rfl⟩
  case rejoin => exact ⟨_, rejoin_frame _ (hs _ rfl) he, rfl⟩
  case lscJoin => exact ⟨_, lscJoin_frame _ (hs _ rfl) he, rfl⟩
  case radioDownlinkQueue => exact ⟨_, radioDownlinkQueue_frame _ _ _ (hs _ rfl) he, rfl⟩
  case lanternTableWrite => exact ⟨_, lanternTableWrite_frame _ _ (hs _ rfl) he, rfl⟩
  case plcDownlinkQueue => exact ⟨_, plcDownlinkQueue_frame _ _ _ (hs _ rfl) he, rfl⟩
  case plcAssignmentPending => exact ⟨_, plcAssignmentPending_frame _ _ _ (hs _ rfl) he, rfl⟩
  case start => exact ⟨_, start_frame (hs _ rfl) he, rfl⟩
  case baseline => exact ⟨_, baseline_frame _ (hs _ rfl) he, rfl⟩
  case abort => exact ⟨_, abort_frame (hs _ rfl) he, rfl⟩
  case reflectDisable => exact ⟨_, reflectDisable_frame (hs _ rfl) he, rfl⟩
  case txTailWrite => exact ⟨_, txTailWrite_frame _ _ (hs _ rfl) he, rfl⟩
  case enter => exact ⟨_, enter_frame _ _ (hs _ rfl) he, rfl⟩
  case meteringStop => exact ⟨_, meteringStop_frame _ (hs _ rfl) he, rfl⟩
  case sf1ThrWrite => exact ⟨_, sf1ThrWrite_frame _ (hs _ rfl) he, rfl⟩
  case commit => exact ⟨_, commit_frame _ (hs _ rfl) he, rfl⟩
  case addHour => exact ⟨_, addHour_frame _ (hs _ rfl) he, rfl⟩
  case subHour => exact ⟨_, subHour_frame _ (hs _ rfl) he, rfl⟩
  case ponSet => exact ⟨_, ponSet_frame _ (hs _ rfl) he, rfl⟩
  case ponClr => exact ⟨_, ponClr_frame _ (hs _ rfl) he, rfl⟩
  case transition => exact ⟨_, transition_frame _ _ (hs _ rfl) he, rfl⟩
  case importBlob => exact ⟨_, importBlob_frame _ _ (hs _ rfl) he, rfl⟩
  case derive => exact ⟨_, derive_frame _ _ (hs _ rfl) he, rfl⟩
  case clear => exact ⟨_, clear_frame _ _ (hs _ rfl) he, rfl⟩
  case enrolpuf => exact ⟨_, enrolpuf_frame _ _ _ (hs _ rfl) he, rfl⟩
  case cryJob => exact ⟨_, cryJob_frame _ _ (hs _ rfl) he, rfl⟩
  case program => exact ⟨_, program_frame _ (hs _ rfl) he, rfl⟩
  case erase => exact ⟨_, erase_frame _ (hs _ rfl) he, rfl⟩
  case verify => exact ⟨_, verify_frame _ _ (hs _ rfl) he, rfl⟩
  case schedule => exact ⟨_, schedule_frame _ _ _ _ (hs _ rfl) he, rfl⟩
  case cancel => exact ⟨_, cancel_frame _ (hs _ rfl) he, rfl⟩
  case verdict => exact ⟨_, verdict_frame _ _ _ (hs _ rfl) he, rfl⟩
  case dmaTailWrite => exact ⟨_, dmaTailWrite_frame _ _ (hs _ rfl) he, rfl⟩
  case flush => exact ⟨_, flush_frame _ _ (hs _ rfl) he, rfl⟩
  case drop => exact ⟨_, drop_frame _ _ (hs _ rfl) he, rfl⟩
  case bistLaneA => exact ⟨_, bistLaneA_frame _ (hs _ rfl) he, rfl⟩
  case bistLaneB => exact ⟨_, bistLaneB_frame _ (hs _ rfl) he, rfl⟩
  case detectPathA => exact ⟨_, detectPathA_frame _ (hs _ rfl) he, rfl⟩
  case detectPathB => exact ⟨_, detectPathB_frame _ (hs _ rfl) he, rfl⟩
  case fullPathA => exact ⟨_, fullPathA_frame _ (hs _ rfl) he, rfl⟩
  case fullPathB => exact ⟨_, fullPathB_frame _ (hs _ rfl) he, rfl⟩
  case clrblk => exact ⟨_, clrblk_frame _ (hs _ rfl) he, rfl⟩
  case functionEnable f => exact ⟨_, functionEnable_frame f (hs _ rfl) he, namesOnly_funcParts f⟩
  case functionDisable f => exact ⟨_, functionDisable_frame f (hs _ rfl) he, namesOnly_funcParts f⟩
  case pstStore addr _ _ _ =>
    by_cases ha : 0x20000000 ≤ addr.toNat ∧ addr.toNat < 0x21000000
    · rw [touches, if_pos ha]
      exact ⟨_, pstStore_frame _ _ _ _ ha he, rfl⟩
    · rw [touches, if_neg ha]
      exact general
  all_goals exact general

/-- The law of no command but OTP_ENTRY_PROGRAMMED names the OTP. -/
theorem otp_notMem_lawParts {c : Instr} (hc : c ≠ .otpEntryProgrammed) : (lawParts c).contains .otp = false := by
  cases c
  case otpEntryProgrammed => exact absurd rfl hc
  all_goals rfl

/-! ### The statements -/

/-- Settles O1: a step is the command at the front. -/
theorem stepRunsFront : Obligations.StepRunsFront := fun _ _ _ => rfl

/-- Settles O2: with nothing in front a step answers the state itself. -/
theorem emptyQueueIdles : Obligations.EmptyQueueIdles := by
  intro s h
  simp only [step, h]

/-- Settles O3: by the law of each command. -/
theorem everyCommandAnswers : Obligations.EveryCommandAnswers := by
  intro c s
  obtain ⟨_, ⟨t, ht, only⟩, _⟩ := exec_ends c s
  exact ⟨t, ht, only.pending⟩

/-- Settles O4: the buffers are empty, the memories and registers are canonical lists, and the counter stands at a point of network time. -/
theorem resetMeetsInvariant : Obligations.ResetMeetsInvariant where
  sramA := by decide
  sramB := by decide
  cells := by decide
  acm := by decide
  regs := by unfold kvWf; decide
  buffer := by decide
  inq := by decide
  fillA := by decide
  fillB := by decide
  now := by unfold Time.ok; decide
  step := fun _ hq => nomatch hq

/-- Settles O5: the law of each command keeps the invariant, which does not speak of the queue. -/
theorem stepKeepsInvariant : Obligations.StepKeepsInvariant := by
  intro s t inv ht
  unfold step at ht
  split at ht
  case h_1 =>
    obtain rfl := Host.Outcome.next.inj ht
    exact inv
  case h_2 c rest _ =>
    obtain ⟨_, ends, _⟩ := exec_ends c { s with pending := rest }
    exact (ends.only ht).inv { inv with }

/-- Settles O6: a part that is not in the list is in no mask that lies within it. -/
theorem commandsKeepOtherParts : Obligations.CommandsKeepOtherParts := by
  intro c s t he hs p hp
  obtain ⟨m, only, inside⟩ := exec_only he hs
  exact only.same p (testBit_of_namesOnly inside hp)

/-- Settles O7: no other command's law names the OTP. -/
theorem otpChangesOnceOnly : Obligations.OtpChangesOnceOnly := by
  intro c s t he hc
  obtain ⟨m, ends, inside⟩ := exec_ends c s
  have hp : Part.otp ∉ lawParts c := by simpa using otp_notMem_lawParts hc
  exact (ends.only he).same .otp (testBit_of_namesOnly inside hp)

end Sys2Proof.Machine

/-!
PROOFS. The accesses of a lane to the registers and to its SRAM (R9, R15, R16, R17, R85).
-/
namespace Sys2Proof.Machine
set_option Elab.async false

/-! ### Wide registers are read whole (R15) -/

/-- WIDE_VALUE_CAPTURE_READ is the load of a lane, which its context alone can refuse (R15). -/
theorem exec_wideRead (l : Lane) (a : Word) (parity : Bool) (s : State) : exec (.wideValueCaptureRead l a parity) s = .next (s.laneRead l a.toNat 4 parity) := rfl

/-- A load that is counted returns the same data and holds the same values. -/
theorem laneRead_service_lane {s : State} {l : Lane} {a : Nat} (hr : s.laneRuns l = true) (hd : (s.lane l).det = false) (ha : 0x40000000 ≤ a ∧ a < 0x40160000) (h4 : a % 4 = 0) :
    (s.laneRead l a 4 false).lane l = { (s.regRead l a).1.lane l with data := (s.regRead l a).2 } := by
  cases hn : isNd l a with
  | true => rw [laneRead_nd_service hr ha h4 hn hd rfl, countNd_lane, loaded_lane]
  | false => simp [State.laneRead, hr, ha, h4, hn, hd]

/-- A word of a wide register outside the RTC: the lowest captures the value, a higher one answers from what is held (R15). -/
theorem regRead_wide {s : State} {l : Lane} {a : Nat} {p : RegPlace} (hrtc : a < 0x400F0000 ∨ 0x40100000 ≤ a) (hp : findReg a = some p) (hw : 1 < p.row.words)
    (hf : freeOfCapture (a - 4 * p.word) = false) :
    s.regRead l a = if p.word = 0 then (s.capture15 l (a - 4 * p.word) (s.placeValue l p), bits (s.placeValue l p) 0 32)
      else (s, bits ((kvFind (s.lane l).holding (a - 4 * p.word)).getD 0) (32 * p.word) 32) := by
  have notDrain : a ≠ 0x400D0020 := by
    rintro rfl
    have single : (findReg 0x400D0020).map (·.row.words) = some 1 := rfl
    rw [hp, Option.map_some, Option.some.injEq] at single
    omega
  have many : p.row.words ≠ 1 := by omega
  have notTime : ¬(s.rtc.onVbat = true ∧ 0x400F0000 ≤ a ∧ a < 0x40100000) := by omega
  rw [State.regRead, if_neg notTime, if_neg (by omega), if_neg (by omega), if_neg notDrain]
  simp [hp, many, hf]

/-- Settles O10: the load's data and the holding register are those of the register's read, whether the load is counted or not. -/
theorem wideReads : Obligations.WideReads := by
  unfold Obligations.WideReads
  intro s l a p hr hd ha₁ ha₂ hrtc h4 hp hw hf
  have lane := laneRead_service_lane hr hd ⟨ha₁, ha₂⟩ h4
  have read := regRead_wide (s := s) (l := l) hrtc hp hw hf
  rw [read] at lane
  simp only [Answers, exec_wideRead]
  constructor
  · intro low
    simp only [low, if_true, Nat.mul_zero, Nat.sub_zero] at lane
    refine ⟨_, rfl, ?_, ?_⟩ <;> rw [lane]
    simp [State.capture15]
  · intro high
    simp only [high, if_false] at lane
    refine ⟨_, rfl, ?_, ?_⟩ <;> rw [lane]

end Sys2Proof.Machine
namespace Sys2Proof.Machine
set_option Elab.async false
/-! ### Wide registers are written at their highest word (R15) -/

/-- WIDE_VALUE_COMMIT_WRITE is the store of a core (R15). -/
theorem exec_wideWrite (l : Lane) (a v : Word) (m : WriteMeet) (s : State) : exec (.wideValueCommitWrite l a v m) s = .next (s.coreStore l a.toNat 4 v.toNat m) := rfl

/-- The words that a whole value's three words are assembled to (R15). -/
theorem assemble_three {s : State} {l : Lane} {p : RegPlace} {base w0 w1 : Nat} (hr : p.row.words = 3) (h0 : kvFind (s.lane l).staging base = some w0)
    (h1 : kvFind (s.lane l).staging (base + 4) = some w1) (v : Nat) : s.assemble l p base v = w0 + w1 * 2 ^ 32 + v * 2 ^ 64 := by
  simp [State.assemble, hr, List.range_succ, sumN, h0, h1]

/-- A value that takes effect leaves none of its words staged (R15). -/
theorem unstage_find (s : State) (l : Lane) {base words a : Nat} (h : base ≤ a ∧ a < base + 4 * words) : kvFind ((s.unstage l base words).lane l).staging a = none := by
  rw [State.unstage, onLane_lane]
  exact kvFind_out _ (fun n => decide (n < base) || decide (base + 4 * words ≤ n)) a (by simp; omega)

/-- The highest word of TB_MASTER (R15). -/
theorem master_findReg (l : Lane) : ∃ p, findReg 0x40010060 = some p ∧ p.row.words = 3 ∧ p.word = 2 ∧ p.fields l = [(TB_MASTER_CLOCKID, .rw, false), (TB_MASTER_PORTNUM, .rw, false)] := by
  have place := master_place l
  cases hp : findReg 0x40010060 with
  | none => rw [hp] at place; cases place
  | some p =>
    rw [hp, Option.map_some, Option.some.injEq, Prod.mk.injEq, Prod.mk.injEq] at place
    obtain ⟨hr, hw, hL⟩ := place
    exact ⟨p, rfl, hr, hw, hL⟩

/-- Settles O11: a lower word is staged, and the highest of TB_MASTER writes the words assembled. -/
theorem wideWrites : Obligations.WideWrites := by
  unfold Obligations.WideWrites
  constructor
  · intro s u l a v p m hs hpar hat hu hmay ha₁ ha₂ h4 hp hlow hlock
    subst hu
    have notSeal : a.toNat ≠ 0x40030100 := by
      intro e
      rw [e] at hp
      obtain ⟨q, hq, one, -⟩ := single_place (a := 0x40030100) (by decide +kernel)
      obtain rfl := Option.some.inj (hp.symm.trans hq)
      omega
    rw [exec_wideWrite, coreStore_plain hs.1 hat hmay (by omega), laneStore_serves (enterCore_serves hs m.core) hpar (by omega) h4 notSeal,
      Nat.mod_eq_of_lt v.isLt, performWrite_lowerWord (org := .service l) hp hlow (by omega) rfl hlock (by omega)]
    rfl
  · intro s l v m w0 w1 hs hpar hat hmay b0 b1 hw0 hw1
    obtain ⟨p, hp, hr, hw, hL⟩ := master_findReg l
    have staged (n : Nat) : kvFind ((s.enterCore l m.core).lane l).staging n = kvFind (s.lane l).staging n := by rw [State.enterCore, onLane_lane]
    have whole := assemble_three (s := s.enterCore l m.core) hr ((staged _).trans hw0) ((staged _).trans hw1) v.toNat
    have iv := v.isLt
    rw [Answers, exec_wideWrite, show (0x40010060#32).toNat = 0x40010060 from rfl, coreStore_plain hs.1 hat hmay (by omega),
      master_store (enterCore_serves hs m.core) hpar iv hp hw hr hL whole]
    refine ⟨_, rfl, ?_, ?_, ?_, ?_⟩
    · rw [rd_wr_ne _ _ (by decide), rd_wr_same, rd_wr_same]
      simp only [bits, TB_MASTER_CLOCKID, TB_MASTER_PORTNUM]
      omega
    · rw [wr_lane, wr_lane, unstage_find _ _ (by omega)]
    · rw [wr_lane, wr_lane, unstage_find _ _ (by omega)]
    · simp only [wr_lane, State.unstage, State.enterCore, onLane_lane_other]

end Sys2Proof.Machine

namespace Sys2Proof.Machine
set_option Elab.async false
/-! ### The stores of a lane (R9, R16, R17, R85) -/

/-- Numbers that agree in their octets. -/
theorem le_congr {n v w : Nat} (h : v % 2 ^ (8 * n) = w % 2 ^ (8 * n)) : le n v = le n w := by
  have octets (v : Nat) : le n (v % 2 ^ (8 * n)) = le n v := by
    have := le_leVal (le n v)
    rwa [le_length, leVal_le, show (256 : Nat) = 2 ^ 8 from rfl, ← Nat.pow_mul] at this
  rw [← octets v, h, octets w]

/-- A lane's store to TB_LOCK_CFG, where it takes effect, gives its fields their bits (R9). -/
theorem store_lockCfg {s : State} {l : Lane} {v : Nat} {m : WriteMeet} (hs : s.serves l) (hp : m.parity = false) :
    s.laneStore l 0x40010050 4 v m = ((s.wr TB_LOCK_CFG_LOCK_N (bits (v % 2 ^ 32) 24 8)).wr TB_LOCK_CFG_UNLOCK_THR (bits (v % 2 ^ 32) 12 12)).wr TB_LOCK_CFG_LOCK_THR (bits (v % 2 ^ 32) 0 12) := by
  have noEffect (t : State) (w : Nat) : t.afterWrite s 0x40010050 w m = t := by simp [State.afterWrite]
  rw [store_register (L := [(TB_LOCK_CFG_LOCK_N, .rw, false), (TB_LOCK_CFG_UNLOCK_THR, .rw, false), (TB_LOCK_CFG_LOCK_THR, .rw, false)]) hs hp rfl (by decide) (by simp) rfl rfl rfl rfl rfl,
    noEffect]
  simp only [List.foldl_cons, List.foldl_nil]
  rw [writeField_rw (by decide), writeField_rw (by decide), writeField_rw (by decide)]
  rfl

/-- A store of a lane that does not act as the Active lane, to a register that is not its own, is counted and not performed (R17). -/
theorem store_notPerformed {s : State} {l : Lane} {a v : Nat} {m : WriteMeet} (hr : s.laneRuns l = true) (hd : (s.lane l).det = false) (hp : m.parity = false) (hact : s.actsActive l = false)
    (hown : s.ownRegister l a = false) (ha : 0x40000000 ≤ a ∧ a < 0x40160000) (h4 : a % 4 = 0) (hseal : a ≠ 0x40030100) : s.laneStore l a 4 v m = s.notPerformed l := by
  simp [State.laneStore, State.storeRegister, hr, hd, hp, hact, hown, ha, h4, hseal]

section
variable {s : State} {l : Lane} {a size : Nat}

/-- An aligned store that the core's PMP regions permit is the core's access (R85). -/
theorem coreStore_aligned {v : Nat} {m : WriteMeet} (hr : s.laneRuns l = true) (hal : a % size = 0)
    (hmay : (s.enterCore l m.core).coreMay l true a size = true) : s.coreStore l a size v m = (s.enterCore l m.core).coreAccess l a size v m := by
  simp [State.coreStore, hr, hal, hmay]

/-- The place in its SRAM of an address of a lane. -/
theorem sram_offset (hpos : 0 < size) (ha : 0x08000000 ≤ a ∧ a + size ≤ 0x08400000) : a % 0x08000000 = a - 0x08000000 := by omega

variable (hr : s.laneRuns l = true) (hsize : size = 1 ∨ size = 2 ∨ size = 4 ∨ size = 8) (ha : 0x08000000 ≤ a ∧ a + size ≤ 0x08400000) (hal : a % size = 0) (hopen : (s.lane l).closed = false)
include hr hsize ha hal hopen

/-- An aligned store to the lane's SRAM writes its octets (R85). -/
theorem laneStore_sram (v : Nat) (m : WriteMeet) : s.laneStore l a size v m = s.sramWrite l (a - 0x08000000) (le size v) := by
  have outside : ¬(0x40000000 ≤ a ∧ a < 0x40160000) ∧ ¬(0x20000000 ≤ a ∧ a < 0x21000000) := by omega
  rw [State.laneStore, if_neg (by simp [hr]), if_neg outside.1, if_neg outside.2, if_pos ⟨ha.1, ha.2, hsize⟩, if_neg (by simp [hal]), if_neg (by simp [hopen]), sram_offset (by omega) ha]

/-- So does its core, of a word without an error. -/
theorem coreAccess_sram {v : Nat} {m : WriteMeet} (hat : m.atomic = none) (hclean : m.core.word = .clean) : s.coreAccess l a size v m = s.sramWrite l (a - 0x08000000) (le size v) := by
  simp [State.coreAccess, State.sramMeet, hat, hclean, laneStore_sram hr hsize ha hal hopen]

omit hr hal in
/-- An atomic add returns the old word and writes the sum (R85). -/
theorem coreAccess_sram_add {v : Nat} {m : WriteMeet} (hat : m.atomic = some .add) (hclean : m.core.word = .clean) (h4 : 4 ≤ size) :
    s.coreAccess l a size v m =
      (s.sramWrite l (a - 0x08000000) (le size (leVal (memRead (s.lane l).sram (a - 0x08000000) size) + v))).loaded l (leVal (memRead (s.lane l).sram (a - 0x08000000) size)) := by
  have wide : size = 4 ∨ size = 8 := by omega
  have sum (old : Nat) : le size (old + v % 2 ^ (8 * size)) = le size (old + v) := le_congr (by simp)
  simp [State.coreAccess, State.sramMeet, State.atomicSram, atomicResult, hat, hclean, wide, hopen, ha, sram_offset (by omega) ha, sum]

end

/-- Outside the lane's spaces a store faults, and a misaligned one is so first (R16). -/
theorem coreStore_outside {s : State} {l : Lane} {a size v : Nat} {m : WriteMeet} (hr : s.laneRuns l = true) (hsize : size = 1 ∨ size = 2 ∨ size = 4 ∨ size = 8)
    (ha : a < 0x08000000 ∨ 0x50000000 ≤ a) : s.coreStore l a size v m = (s.enterCore l m.core).trapLane l (if a % size = 0 then .storeFault else .storeMisaligned) := by
  have unruled : ¬((0x40000000 ≤ a ∧ a < 0x40160000) ∨ (0x20000000 ≤ a ∧ a < 0x21000000)) := by omega
  have notSram : ¬(0x08000000 ≤ a ∧ a + size ≤ 0x08400000) := by omega
  have access : (s.enterCore l m.core).coreAccess l a size v m = (s.enterCore l m.core).trapLane l .storeFault := by
    have store : (s.enterCore l m.core).laneStore l a size v m = (s.enterCore l m.core).trapLane l .storeFault := by
      rw [State.laneStore, if_neg (by simp [hr]), if_neg (fun h => unruled (.inl h)), if_neg (fun h => unruled (.inr h)), if_neg (fun h => notSram ⟨h.1, h.2.1⟩)]
    have no : (decide (0x08000000 ≤ a) && decide (a + size ≤ 0x08400000)) = false := by simpa using notSram
    unfold State.coreAccess
    cases m.atomic with
    | some op => simp only [no, Bool.false_and, Bool.false_eq_true, if_false]
    | none => simp only [no, Bool.false_and, Bool.false_eq_true, if_false, store]
  by_cases hal : a % size = 0
  · simp only [State.coreStore, hr, unruled, hal, access]
    simp
  · simp [State.coreStore, hr, unruled, hal, hsize]

/-- An atomic instruction anywhere but on SRAM faults (R85). -/
theorem coreStore_atomic_register {s : State} {l : Lane} {a size v : Nat} {m : WriteMeet} {op : AtomicOp} (hr : s.laneRuns l = true) (hat : m.atomic = some op)
    (ha : 0x40000000 ≤ a ∧ a < 0x40160000) : s.coreStore l a size v m = (s.enterCore l m.core).trapLane l .storeFault := by
  have notSram : (decide (0x08000000 ≤ a) && decide (a + size ≤ 0x08400000)) = false := by
    simp only [Bool.and_eq_false_iff, decide_eq_false_iff_not]
    omega
  rw [coreStore_register hr ha]
  simp [State.coreAccess, hat, notSram]

/-- Settles O12: each kind of store is the store of a core that its PMP regions permit or refuse. -/
theorem laneStores : Obligations.LaneStores := by
  unfold Obligations.LaneStores
  intro s u l v m hr hd hpar hu
  have hru : u.laneRuns l = true := by rw [hu, enterCore_runs, hr]
  have hdu : (u.lane l).det = false := by rw [hu, enterCore_det, hd]
  have hact : u.actsActive l = s.actsActive l := by rw [hu, enterCore_active]
  have regs (f : Field) : u.rd f = s.rd f := by rw [hu, enterCore_rd]
  have otherLane : u.lane l.other = s.lane l.other := by rw [hu, State.enterCore, onLane_lane_other]
  have sram : (u.lane l).sram = (s.lane l).sram := by rw [hu, State.enterCore, onLane_lane]
  simp only [Answers, exec_registerWrite]
  refine ⟨fun hat hmay => ?_, fun hat hmay => ⟨fun act => ?_, fun act => ?_⟩, fun a size hsize => ⟨fun ha₁ ha₂ hal hmay hopen hclean => ?_, fun ha => ?_, fun ⟨op, hat⟩ ha₁ ha₂ => ?_⟩⟩
  · rw [show (0x40000014#32).toNat = 0x40000014 from rfl, coreStore_plain hr hat (hu ▸ hmay) (by omega), ← hu, own_store u l _ m hru hdu hpar]
    refine ⟨_, rfl, ?_, ?_⟩
    · rw [rd_wr_same, show (SYS_IRQ_EN_EN l).width = 21 from rfl]
      simp only [bits]
      omega
    · rw [rd_wr_ne _ _ (by cases l <;> decide), regs]
  · have hs : u.serves l := ⟨hru, hdu, hact.trans act⟩
    rw [show (0x40010050#32).toNat = 0x40010050 from rfl, coreStore_plain hr hat (hu ▸ hmay) (by omega), ← hu, store_lockCfg hs hpar]
    refine ⟨_, rfl, ?_⟩
    simp (disch := decide) only [rd_wr_ne, rd_wr_same]
    simp only [bits, TB_LOCK_CFG_LOCK_THR, TB_LOCK_CFG_UNLOCK_THR, TB_LOCK_CFG_LOCK_N]
    omega
  · rw [show (0x40010050#32).toNat = 0x40010050 from rfl, coreStore_plain hr hat (hu ▸ hmay) (by omega), ← hu,
      store_notPerformed hru hdu hpar (hact.trans act) (by simp [State.ownRegister]) (by omega) (by omega) (by omega)]
    have kept : Only 8 u (u.notPerformed l) := notPerformed_only rfl (Only.refl u)
    refine ⟨_, rfl, ?_, ?_, fun f hf => ?_⟩
    · rw [State.notPerformed, countSat_rd_same _ (svc_ne l), regs]
    · exact (only_part kept .tb rfl).trans (by rw [hu, State.enterCore, onLane_tb])
    · have apart {g : Field} (hg : g.block = 3) : f.key ≠ g.key := fun e => hf (by rw [← show g.block = f.block by rw [Field.block, ← e, Field.block], hg]; rfl)
      rw [State.notPerformed, countSat_rd_ne _ (apart (by cases l <;> rfl)) (apart rfl), regs]
  · have ha : 0x08000000 ≤ a.toNat ∧ a.toNat + size ≤ 0x08400000 := ⟨ha₁, ha₂⟩
    have hou : (u.lane l).closed = false := by rw [hu, State.enterCore, onLane_lane, hopen]
    have access : s.coreStore l a.toNat size v.toNat m = u.coreAccess l a.toNat size v.toNat m := by
      rw [coreStore_aligned hr hal (hu ▸ hmay), hu]
    rw [access]
    refine ⟨fun hat => ?_, fun hat h4 old hold => ?_⟩
    · rw [coreAccess_sram hru hsize ha hal hou hat hclean, State.sramWrite]
      exact ⟨_, rfl, by rw [onLane_lane, sram], by rw [onLane_lane_other, otherLane], fun f => by rw [onLane_rd, regs]⟩
    · rw [coreAccess_sram_add hsize ha hou hat hclean h4, sram, ← hold, State.sramWrite]
      refine ⟨_, rfl, by rw [loaded_lane], ?_, by rw [State.loaded, onLane_lane_other, onLane_lane_other, otherLane], fun f => by rw [loaded_rd, onLane_rd, regs]⟩
      have whole := memRead_memWrite (s.lane l).sram (a.toNat - 0x08000000) (le size (old + v.toNat))
      rw [le_length] at whole
      simpa only [loaded_lane, onLane_lane, sram] using whole
  · rw [coreStore_outside hr hsize ha, hu]
  · rw [coreStore_atomic_register hr hat ⟨ha₁, ha₂⟩, hu]

end Sys2Proof.Machine

/-!
PROOFS. The resets of the module, the supply and the TAP (R30, R297, R399, R417, R421, R424), and a lane that starts again (R31, R88, R356).
-/
namespace Sys2Proof.Machine
set_option Elab.async false

/-! ### What a reset leaves (R30) -/

/-- The clearing of a reset is what a reset leaves, before its cause is set. -/
theorem clearAll_leaves (por : Bool) (s : State) : ResetLeaves por [] s (s.clearAll por) := by
  obtain ⟨pst, otp, -⟩ := clear_pst s por
  obtain ⟨waiting, held, sramA, sramB⟩ := clear_gone s por
  exact ⟨fun f h0 h1 h2 _ _ _ => leaves_clear s por f h0 h1 h2, by simp, pst, otp, waiting, held, sramA, sramB, clear_acm s por⟩

/-- A cause bit raised. -/
theorem ResetLeaves.raise {por : Bool} {s t : State} (h : ResetLeaves por [] s t) (g : Field) (hw : 0 < g.width) : ResetLeaves por [g] s (t.raise g) := by
  obtain ⟨regs, -, rest⟩ := h
  refine ⟨fun f h0 h1 h2 hA hB hne => ?_, fun f hf => ?_, rest⟩
  · rw [raise_def, rd_wr_ne _ _ (hne g List.mem_cons_self), regs f h0 h1 h2 hA hB (by simp)]
  · rw [List.mem_singleton] at hf
    rw [hf, raise_def, rd_wr_same, Nat.mod_eq_of_lt (Nat.one_lt_two_pow (by omega))]

/-- The release of the lanes changes their roles and that they are refilled. -/
theorem ResetLeaves.startLanes {por : Bool} {s t : State} {cause : List Field} (h : ResetLeaves por cause s t) (hc : ∀ g ∈ cause, g.key ≠ LSC_ROLE_STATE_A.key ∧ g.key ≠ LSC_ROLE_STATE_B.key) :
    ResetLeaves por cause s t.startLanes := by
  obtain ⟨regs, causes, rest⟩ := h
  refine ⟨fun f h0 h1 h2 hA hB hne => ?_, fun g hg => ?_, rest⟩
  · rw [startLanes_rd _ _ hA hB, regs f h0 h1 h2 hA hB hne]
  · rw [startLanes_rd _ _ (hc g hg).1 (hc g hg).2, causes g hg]

/-- A reset leaves both lanes off until they are released. -/
theorem clearAll_rolesOff (s : State) (por : Bool) : (s.clearAll por).rd LSC_ROLE_STATE_A = roleOff ∧ (s.clearAll por).rd LSC_ROLE_STATE_B = roleOff := by
  constructor
  · exact clearAll_rd s por _ (by decide) (by decide) (by decide) (by cases por <;> decide)
  · exact clearAll_rd s por _ (by decide) (by decide) (by decide) (by cases por <;> decide)

/-- The released lanes are in BOOT and refilled (R99, R354). -/
theorem startLanes_boot (s : State) : s.startLanes.rd LSC_ROLE_STATE_A = roleBoot ∧ s.startLanes.rd LSC_ROLE_STATE_B = roleBoot ∧
    s.startLanes.laneA.refilling = true ∧ s.startLanes.laneB.refilling = true := by
  obtain ⟨roleA, fillA⟩ := startLanes_role s .A
  obtain ⟨roleB, fillB⟩ := startLanes_role s .B
  exact ⟨roleA, roleB, fillA, fillB⟩

theorem startLanes_parts (s : State) : s.startLanes.sys = s.sys ∧ s.startLanes.mtr = s.mtr := ⟨rfl, rfl⟩

/-- A pin or system reset that OTP does not hold off (R30, R421). -/
theorem systemReset_eq {s : State} (hk : s.ksu.commit = none) (c : ResetCause) :
    s.systemReset c = if s.sys.por || s.sys.rstLow || s.sys.extest then (s.clearAll false).resetCause c else ((s.clearAll false).resetCause c).startLanes := by
  have sys : ((s.clearAll false).resetCause c).sys = { s.sys with heldOff := none } := by
    cases c <;> simp [State.resetCause, clear_sys]
  simp [State.systemReset, hk, sys]

/-- A reset that the state of the module releases at once. -/
theorem systemReset_released {s : State} (hk : s.ksu.commit = none) (hp : s.sys.por = false) (hr : s.sys.rstLow = false) (he : s.sys.extest = false) (c : ResetCause) :
    s.systemReset c = ((s.clearAll false).resetCause c).startLanes := by
  rw [systemReset_eq hk, hp, hr, he]
  rfl

/-- What such a reset leaves where its cause has a bit. -/
theorem released_leaves {s : State} {c : ResetCause} {g : Field} (hk : s.ksu.commit = none) (hp : s.sys.por = false) (hr : s.sys.rstLow = false) (he : s.sys.extest = false)
    (hg : ∀ t : State, t.resetCause c = t.raise g) (hw : 0 < g.width) (hA : g.key ≠ LSC_ROLE_STATE_A.key) (hB : g.key ≠ LSC_ROLE_STATE_B.key) :
    ResetLeaves false [g] s (s.systemReset c) ∧ (s.systemReset c).rd LSC_ROLE_STATE_A = roleBoot ∧ (s.systemReset c).rd LSC_ROLE_STATE_B = roleBoot ∧
      (s.systemReset c).laneA.refilling = true ∧ (s.systemReset c).laneB.refilling = true ∧ (s.systemReset c).rtc = { s.rtc with cycle := none } := by
  rw [systemReset_released hk hp hr he, hg]
  obtain ⟨roleA, roleB, fillA, fillB⟩ := startLanes_boot ((s.clearAll false).raise g)
  exact ⟨((clearAll_leaves false s).raise g hw).startLanes (by simp [hA, hB]), roleA, roleB, fillA, fillB, (clear_pst s false).2.2⟩

theorem powerOn_rd (s : State) (f : Field) : s.powerOn.rd f = ((s.clearAll true).raiseIf s.rtc.bkpDue SYS_RESET_CAUSE_BKP).rd f := rfl

/-- What the power-on reset leaves: BKP tells whether the backup domain has been reset (R30). -/
theorem powerOn_leaves (s : State) : ResetLeaves true (if s.rtc.bkpDue = true then [SYS_RESET_CAUSE_BKP] else []) s s.powerOn := by
  unfold State.powerOn
  cases s.rtc.bkpDue with
  | true => exact (clearAll_leaves true s).raise SYS_RESET_CAUSE_BKP (by decide)
  | false => exact clearAll_leaves true s

theorem powerOn_causes (s : State) : s.powerOn.rd SYS_RESET_CAUSE_POR = 1 ∧ s.powerOn.rd SYS_RESET_CAUSE_BKP = b2n s.rtc.bkpDue := by
  constructor
  · rw [powerOn_rd, raiseIf_rd_ne _ (by decide), clearAll_rd s true _ (by decide) (by decide) (by decide) (by decide)]
    rfl
  · rw [powerOn_rd]
    cases s.rtc.bkpDue with
    | true => exact raiseIf_rd_true _ rfl (by decide)
    | false => exact clearAll_rd s true _ (by decide) (by decide) (by decide) (by decide)

theorem powerOn_rtc (s : State) : s.powerOn.rtc = { s.rtc with bkpDue := false, cycle := none } := by
  have rtc : ((s.clearAll true).raiseIf s.rtc.bkpDue SYS_RESET_CAUSE_BKP).rtc = { s.rtc with cycle := none } := by
    rw [State.raiseIf]
    split <;> simp [(clear_pst s true).2.2]
  unfold State.powerOn
  simp only [rtc]

/-- Lanes that run are out of the power-on reset. -/
theorem por_of_lanesRun {s : State} (h : s.lanesRun = true) : s.sys.por = false := by
  simp only [State.lanesRun, State.up, Bool.and_eq_true, Bool.not_eq_true'] at h
  exact h.1.1.1

theorem lanesRun_of_laneRuns {s : State} {l : Lane} (h : s.laneRuns l = true) : s.lanesRun = true := by
  simp only [State.laneRuns, Bool.and_eq_true] at h
  exact h.1.1

theorem up_of_lanesRun {s : State} (h : s.lanesRun = true) : s.up = true := by
  simp only [State.lanesRun, Bool.and_eq_true] at h
  exact h.1

/-- Settles O13: each reset is the clearing, its cause bit, and the release of the lanes where nothing holds them. -/
theorem resetsClear : Obligations.ResetsClear := by
  unfold Obligations.ResetsClear
  refine ⟨fun s => ⟨_, rfl, ?_⟩, fun s hp hk => ?_, fun s l hs hk hr he => ?_, fun s l key b hs hkey => ?_, fun s hrun hno hk hr he => ?_⟩
  · obtain ⟨offA, offB⟩ := clearAll_rolesOff s true
    obtain ⟨por, bkp⟩ := powerOn_causes s
    refine ⟨powerOn_leaves s, por, bkp, rfl, ?_, ?_, powerOn_rtc s⟩
    · rw [powerOn_rd, raiseIf_rd_ne _ (by decide), offA]
    · rw [powerOn_rd, raiseIf_rd_ne _ (by decide), offB]
  · have low : exec .pinReset s = .next (({ s with sys := { s.sys with rstLow := true } }.clearAll false).raise SYS_RESET_CAUSE_PIN) := by
      have reset := systemReset_eq (s := { s with sys := { s.sys with rstLow := true } }) hk .pin
      rw [Bool.or_true, Bool.true_or, if_pos rfl] at reset
      show Host.Outcome.next s.pinReset = _
      rw [State.pinReset, if_neg (by simp [hp]), reset]
      rfl
    obtain ⟨offA, offB⟩ := clearAll_rolesOff { s with sys := { s.sys with rstLow := true } } false
    rw [Answers, low]
    refine ⟨_, rfl, (clearAll_leaves false { s with sys := { s.sys with rstLow := true } }).raise SYS_RESET_CAUSE_PIN (by decide), ?_, ?_, ?_, ?_⟩
    · rw [raise_def, wr_sys, clear_sys]
    · rw [raise_def, rd_wr_ne _ _ (by decide), offA]
    · rw [raise_def, rd_wr_ne _ _ (by decide), offB]
    · rw [raise_def, wr_rtc, (clear_pst _ _).2.2]
  · have hrun := lanesRun_of_laneRuns hs.1
    have does : exec (.sysrst l 0xC1A5#16 true) s = .next (s.systemReset .soft) := by
      show execSysrst l 0xC1A5#16 true s = _
      rw [sysrst_does _ _ hs]
      rfl
    rw [Answers, does]
    obtain ⟨leaves, roleA, roleB, fillA, fillB, rtc⟩ := released_leaves (c := .soft) hk (por_of_lanesRun hrun) hr he (fun _ => rfl) (by decide) (by decide) (by decide)
    exact ⟨_, rfl, leaves, roleA, roleB, fillA, fillB, rtc⟩
  · have refused : ¬(key = 0xC1A5#16 ∧ b = true) := by simpa [imp_iff_not_or] using hkey
    show execSysrst l key b s = _
    rw [sysrst_does _ _ hs, if_neg refused]
  · have does : exec .nolaneReset s = .next (s.systemReset .noLane) := by
      show Host.Outcome.next (s.whenLanes State.noLaneReset) = _
      rw [whenLanes_run hrun, State.noLaneReset, if_pos hno]
    rw [Answers, does]
    obtain ⟨leaves, roleA, roleB, fillA, fillB, rtc⟩ := released_leaves (c := .noLane) hk (por_of_lanesRun hrun) hr he (fun _ => rfl) (by decide) (by decide) (by decide)
    exact ⟨_, rfl, leaves, roleA, roleB, fillA, fillB, rtc⟩

/-! ### How resets end (R404, R417, R421, R424) -/

/-- The cold-start BIST of a lane leaves its result and its BLOCK, and those of the other lane (R404). -/
theorem bistCold_rd (s : State) (l : Lane) (r : BistResult) :
    (s.bistCold l r).rd (bistResField l) = bistCode r ∧ (s.bistCold l r).rd (bistBlockField l) = b2n (bistCode r != 1) ∧
      (s.bistCold l r).rd (bistResField l.other) = s.rd (bistResField l.other) ∧ (s.bistCold l r).rd (bistBlockField l.other) = s.rd (bistBlockField l.other) := by
  obtain ⟨res, block, -, resOther, blockOther⟩ := bistRecord_facts s l r
  simp only [State.bistCold, postOrHold_rd]
  exact ⟨res, block, resOther, blockOther⟩

/-- The end of a power-on reset that nothing holds: the module starts, BIST is recorded and the lanes are released. -/
theorem powerOnEnd_eq {s : State} {a b : BistResult} (hp : s.sys.por = true) (he : s.sys.extest = false) :
    ∃ u : State, u.sys = { s.sys with por := false } ∧ u.mtr = { s.mtr with sf1RunA := true, sf1RunB := true } ∧ s.powerOnEnd a b false = ((u.bistCold .A a).bistCold .B b).startLanes := by
  have cells := porEnd_cells { s with sys := { s.sys with por := false }, mtr := { s.mtr with sf1RunA := true, sf1RunB := true } } 0x3D1000
  refine ⟨_, cells.1, cells.2, ?_⟩
  have ext : ∀ u : State, u.sys.extest = false → ((u.bistCold .A a).bistCold .B b).sys.extest = false := by
    intro u hu
    rw [(bistCold_sys _ _ _).1, (bistCold_sys _ _ _).1, hu]
  rw [State.powerOnEnd, if_neg (by simp [hp])]
  simp only
  rw [if_neg (by rw [ext _ (by rw [cells.1]; exact he)]; simp)]

/-- Settles O14: the lanes are released after BIST is recorded, and after RST_N where nothing else holds them. -/
theorem resetsEnd : Obligations.ResetsEnd := by
  unfold Obligations.ResetsEnd
  refine ⟨fun s a b hp he => ?_, fun s a b => ?_, fun s hr he hh => ?_⟩
  · obtain ⟨u, sys, mtr, ends⟩ := powerOnEnd_eq (a := a) (b := b) hp he
    have after := bistCold_sys (u.bistCold .A a) .B b
    have before := bistCold_sys u .A a
    obtain ⟨resB, blockB, resA, blockA⟩ := bistCold_rd (u.bistCold .A a) .B b
    obtain ⟨resA', blockA', -, -⟩ := bistCold_rd u .A a
    obtain ⟨roleA, roleB, fillA, fillB⟩ := startLanes_boot ((u.bistCold .A a).bistCold .B b)
    have lanes {f : Field} (hA : f.key ≠ LSC_ROLE_STATE_A.key) (hB : f.key ≠ LSC_ROLE_STATE_B.key) := startLanes_rd ((u.bistCold .A a).bistCold .B b) f hA hB
    have keptSys : ((u.bistCold .A a).bistCold .B b).startLanes.sys = u.sys := (startLanes_parts _).1.trans (after.1.trans before.1)
    have keptMtr : ((u.bistCold .A a).bistCold .B b).startLanes.mtr = u.mtr := (startLanes_parts _).2.trans (after.2.trans before.2)
    refine ⟨_, congrArg Host.Outcome.next ends, ?_, roleA, roleB, fillA, fillB, ?_, ?_, ?_, ?_, ?_, ?_⟩
    · rw [keptSys, sys]
    · rw [keptMtr, mtr]
    · rw [keptMtr, mtr]
    · exact (lanes (by decide) (by decide)).trans (resA.trans resA')
    · exact (lanes (by decide) (by decide)).trans resB
    · exact (lanes (by decide) (by decide)).trans (blockA.trans blockA')
    · exact (lanes (by decide) (by decide)).trans blockB
  · show Host.Outcome.next (s.powerOnEnd a b true) = _
    rw [State.powerOnEnd, if_pos (by simp)]
  · have ends : s.pinRelease = { s with sys := { s.sys with rstLow := false } }.startLanes := by
      simp [State.pinRelease, hr, he, hh]
    obtain ⟨roleA, roleB, fillA, fillB⟩ := startLanes_boot { s with sys := { s.sys with rstLow := false } }
    exact ⟨_, congrArg Host.Outcome.next ends, rfl, roleA, roleB, fillA, fillB⟩

/-! ### The supply, the reference, the TAP and the OTP entry (R297, R399, R424, R327) -/

/-- In a power-on reset the module is not up. -/
theorem up_of_por {s : State} (h : s.sys.por = true) : s.up = false := by simp [State.up, h]

/-- VIN falls: the words that still reach their cells, and the clearing (R297). -/
theorem vinCollapse_parts (s : State) (n : Nat) : (s.vinCollapse n).sys.por = true ∧ (s.vinCollapse n).pst = ⟨((List.range n).foldl (fun (u : State) _ => u.pstStep) s).pst.cells, [], 0⟩ ∧
    (s.vinCollapse n).otp = s.otp ∧ (s.vinCollapse n).rtc = { s.rtc with cycle := none } ∧ (s.vinCollapse n).laneA.sram = [] ∧ (s.vinCollapse n).laneB.sram = [] := by
  obtain ⟨otp, rtc⟩ := pstSteps_keep (List.range n) s
  obtain ⟨-, -, sramA, sramB⟩ := clear_gone { (List.range n).foldl (fun (u : State) _ => u.pstStep) s with pst := { ((List.range n).foldl (fun (u : State) _ => u.pstStep) s).pst with buffer := [] } } true
  obtain ⟨pst, otp', rtc'⟩ := clear_pst { (List.range n).foldl (fun (u : State) _ => u.pstStep) s with pst := { ((List.range n).foldl (fun (u : State) _ => u.pstStep) s).pst with buffer := [] } } true
  exact ⟨rfl, pst, otp'.trans otp, rtc'.trans (congrArg (fun r : RtcState => { r with cycle := none }) rtc), sramA, sramB⟩

/-- The OTP entry is programmed without a reset: what is erased leaves the resets and the TAP alone (R421). -/
theorem otpProgrammed_sys (s : State) (g : Nat) : (s.otpProgrammed g).sys = s.sys := only_part (otpProgrammed_only (μ := 141270064308224) rfl (Only.refl s)) .sys rfl

/-- A reset leaves the KSU as it is after a power-on (R30). -/
theorem clear_ksu (s : State) (por : Bool) : (s.clearAll por).ksu = State.reset.ksu := by
  unfold State.clearAll State.acmAbort State.loadLat
  cases s.rld.op <;> rfl

/-- A state of the TAP that is left the same but for the instruction. -/
theorem tapUpdate_idle {s : State} {i : TapInstr} (he : s.sys.extest = false) (hi : i ≠ .extest) : s.tapUpdate i = { s with sys := { s.sys with tap := i } } := by
  have now : (i == TapInstr.extest) = false := by simpa using hi
  have same : { s.sys with tap := i, extest := false } = { s.sys with tap := i } := by rw [← he]
  rw [State.tapUpdate]
  simp only [now]
  rw [if_pos (by simp [he]), same]

/-- EXTEST loaded holds a pin reset (R424). -/
theorem tapUpdate_extest {s : State} (hp : s.sys.por = false) (he : s.sys.extest = false) (hk : s.ksu.commit = none) :
    s.tapUpdate .extest = { s with sys := { s.sys with tap := .extest, extest := true } }.clearAll false := by
  simp [State.tapUpdate, hp, he, hk]

/-- EXTEST left releases the lanes and sets PIN, where nothing else holds the reset (R424). -/
theorem tapUpdate_leave {s : State} {i : TapInstr} (hp : s.sys.por = false) (he : s.sys.extest = true) (hr : s.sys.rstLow = false) (hh : s.sys.heldOff = none) (hi : i ≠ .extest) :
    s.tapUpdate i = ({ s with sys := { s.sys with tap := i, extest := false } }.raise SYS_RESET_CAUSE_PIN).startLanes := by
  have now : (i == TapInstr.extest) = false := by simpa using hi
  simp [State.tapUpdate, now, hp, he, hr, hh]

/-- The OTP entry programmed, with no crypto job in progress and no reset held off: the system resets as for SYS_RESET_CTRL (R327). -/
theorem otpDone_eq {s : State} {target : Nat} (hk : s.ksu.commit = some target) (hc : s.cry = []) (hr : s.sys.rstLow = false) (he : s.sys.extest = false) (hp : s.sys.por = false)
    (hh : s.sys.heldOff = none) : s.otpDone = ((((s.otpProgrammed target).clearAll false).raise SYS_RESET_CAUSE_SOFT).startLanes).raise SYS_RESET_CAUSE_SOFT := by
  have sys := otpProgrammed_sys s target
  have reset := systemReset_released (s := s.otpProgrammed target) rfl (by rw [sys, hp]) (by rw [sys, hr]) (by rw [sys, he]) .soft
  rw [State.otpDone, hk]
  simp only [hc, hh, List.isEmpty_nil, Bool.not_true, Option.getD_none, Bool.false_eq_true, if_false]
  rw [reset]
  rfl

/-- Settles O18: each event of the supply and the TAP is a clearing with what it holds or releases. -/
theorem supplyAndTap : Obligations.SupplyAndTap := by
  unfold Obligations.SupplyAndTap
  refine ⟨fun s => ⟨_, rfl, ?_⟩, fun s n => ⟨_, rfl, ?_⟩, fun s => ⟨_, rfl, rfl, ?_, rfl, rfl, rfl, rfl⟩, fun s hp he hk => ?_, fun s i hp he hr hh hi => ?_, fun s i he hi => ?_,
    fun s target hk hc hr he hp hh => ?_, fun s j js hc => ?_⟩
  · obtain ⟨por, pst, otp, rtc, sramA, sramB⟩ := vinCollapse_parts s 0
    exact ⟨por, up_of_por por, pst, otp, rtc, sramA, sramB⟩
  · obtain ⟨por, pst, -⟩ := vinCollapse_parts s n
    exact ⟨por, by rw [pst], by rw [pst]⟩
  · simp [State.up, State.referenceStop]
  · obtain ⟨offA, offB⟩ := clearAll_rolesOff { s with sys := { s.sys with tap := .extest, extest := true } } false
    obtain ⟨pst, -, rtc⟩ := clear_pst { s with sys := { s.sys with tap := .extest, extest := true } } false
    refine ⟨_, congrArg Host.Outcome.next (tapUpdate_extest hp he hk), ?_, ?_, offA, offB, rtc, pst⟩ <;> rw [clear_sys]
  · obtain ⟨roleA, roleB, -, -⟩ := startLanes_boot ({ s with sys := { s.sys with tap := i, extest := false } }.raise SYS_RESET_CAUSE_PIN)
    refine ⟨_, congrArg Host.Outcome.next (tapUpdate_leave hp he hr hh hi), rfl, rfl, ?_, roleA, roleB⟩
    rw [startLanes_rd _ _ (by decide) (by decide), raise_def, rd_wr_same]
    rfl
  · exact congrArg Host.Outcome.next (tapUpdate_idle he hi)
  · obtain ⟨-, otp, -⟩ := clear_pst (s.otpProgrammed target) false
    obtain ⟨roleA, roleB, -, -⟩ := startLanes_boot (((s.otpProgrammed target).clearAll false).raise SYS_RESET_CAUSE_SOFT)
    refine ⟨_, congrArg Host.Outcome.next (otpDone_eq hk hc hr he hp hh), otp.trans (otpProgrammed_facts s target), ?_, ?_, ?_, ?_⟩
    · exact congrArg KeyState.commit (clear_ksu (s.otpProgrammed target) false)
    · rw [raise_def, rd_wr_same]; rfl
    · rw [raise_def, rd_wr_ne _ _ (by decide), roleA]
    · rw [raise_def, rd_wr_ne _ _ (by decide), roleB]
  · show Host.Outcome.next s.otpDone = _
    rw [State.otpDone]
    split
    · rfl
    · rw [if_pos (by simp [hc])]

/-! ### A lane that starts again (R31, R88, R356) -/

/-- A lane that has been taken out is reset (R31). -/
theorem exec_laneReset {s : State} {l : Lane} (hrun : s.lanesRun = true) (hl : (s.lane l).leaving = true) : exec (.laneReset l) s = .next (s.laneReset l roleOut) := by
  show Host.Outcome.next (s.whenLanes fun s => s.resetLeft l) = _
  rw [whenLanes_run hrun, State.resetLeft, if_pos hl]

/-- A lane's reset disables its interrupts (R31). -/
theorem laneReset_irqEn (s : State) (l : Lane) (new : Nat) : (s.laneReset l new).rd (SYS_IRQ_EN_EN l) = 0 := by
  cases l <;> simp only [State.laneReset, roleField, raise_def] <;> simp (disch := decide) only [rd_wr_ne, rd_wr_same] <;> rfl

/-- The end of a lane's refill (R88). -/
theorem exec_sramRefillComplete {s : State} {l : Lane} (hrun : s.lanesRun = true) (hl : (s.lane l).refilling = true) :
    exec (.sramRefillComplete l) s = .next (if s.rd (roleField l) = roleOut then (s.onLane l (fun x => { x with refilling := false })).setRole l roleBoot 0
      else s.onLane l (fun x => { x with refilling := false })) := by
  show Host.Outcome.next (s.whenLanes fun s => s.refillDone l) = _
  rw [whenLanes_run hrun, State.refillDone, if_neg (by simp [hl])]
  simp only [onLane_rd]

/-- The load of a lane's image from a code store whose container the boot ROM accepts (R356). -/
theorem exec_laneBootLoad {s u : State} {l : Lane} {body : Octets} (hrun : s.lanesRun = true) (hrole : s.role l = roleBoot) (hf : (s.lane l).refilling = false) (hl : (s.lane l).loaded = false)
    (hb : s.blocked l = false) (hc : s.lsc.coldStart = false) (hu : s.upState = upIdle) (hacc : (s.acceptable s.codeStore ctxBoot).2 = true) (hk : containerKind s.codeStore = 1)
    (hbody : (s.acceptable s.codeStore ctxBoot).1.bodyOf s.codeStore ctxBoot = (u, some body)) :
    exec (.laneBootLoad l) s = .next (u.placeBody l (leAt s.codeStore 24 4) body) := by
  have waits : s.loadWaits l = false := by simp [State.loadWaits, hu]
  have image : s.loadImage l s.codeStore = (u.placeBody l (leAt s.codeStore 24 4) body, true) := by
    simp only [State.loadImage, hacc, hk, hbody]
    rfl
  show Host.Outcome.next (s.whenLanes fun s => s.laneLoad l) = _
  rw [whenLanes_run hrun, State.laneLoad, if_neg (by simp [hrole, hf, hl, hb, hc, waits])]
  simp [hu, image]

/-- Settles O15: the three commands change the lane's own state. -/
theorem laneStartsAgain : Obligations.LaneStartsAgain := by
  unfold Obligations.LaneStartsAgain
  refine ⟨fun s l hrun hl => ?_, fun s l hrun hl => ?_, fun s u l body hrun hrole hf hl hb hc hu hacc hk hbody => ?_⟩
  · obtain ⟨role, filling, sram, det, leaving, cause, otherLane⟩ := laneReset_facts s l roleOut
    exact ⟨_, exec_laneReset hrun hl, role, filling, sram, det, leaving, cause, laneReset_irqEn s l roleOut, otherLane⟩
  · refine ⟨_, exec_sramRefillComplete hrun hl, ?_⟩
    split
    · refine ⟨?_, fun _ => setRole_rd _ l _ _, ?_⟩
      · rw [setRole_lane, onLane_lane]
      · rw [setRole_lane, onLane_lane_other]
    · rename_i notOut
      exact ⟨by rw [onLane_lane], fun out => absurd out notOut, onLane_lane_other ..⟩
  · obtain ⟨loaded, det, otherLane⟩ := placeBody_lane u l (leAt s.codeStore 24 4) body
    exact ⟨_, exec_laneBootLoad hrun hrole hf hl hb hc hu hacc hk hbody, loaded, det, by rw [State.placeBody, onLane_lane], otherLane⟩

/-! ### The cold start (R354) -/

/-- What the boot ROM places in a lane that BLOCK does not hold: the body of the code store's container at its load address, and LANEDATA over it (R354). -/
def bootPut (x : CfgBody) (at' : Nat) (body : Octets) (s : State) (l : Lane) : State :=
  if s.blocked l then s else x.data.foldl (fun (s : State) d => s.sramWrite l d.1 d.2) (s.placeBody l at' body)

theorem laneData_sram (l : Lane) (L : List (Nat × Octets)) (s : State) :
    ((L.foldl (fun (s : State) d => s.sramWrite l d.1 d.2) s).lane l).sram = L.foldl (fun (m : List Host.Cell) d => memWrite m d.1 d.2) (s.lane l).sram := by
  induction L generalizing s with
  | nil => rfl
  | cons d L ih => rw [List.foldl_cons, List.foldl_cons, ih, State.sramWrite, onLane_lane]

/-- The image of a lane that BLOCK does not hold. -/
theorem bootPut_lane {x : CfgBody} {n : Nat} {body : Octets} {s : State} {l : Lane} (hb : s.blocked l = false) :
    ((bootPut x n body s l).lane l).loaded = true ∧ ((bootPut x n body s l).lane l).det = false ∧
      ((bootPut x n body s l).lane l).sram = x.data.foldl (fun (m : List Host.Cell) d => memWrite m d.1 d.2) (memWrite (s.lane l).sram n body) := by
  obtain ⟨loaded, det, -⟩ := placeBody_lane s l n body
  obtain ⟨keptLoaded, keptDet, -⟩ := placed (s.placeBody l n body) l x.data
  rw [bootPut, if_neg (by simp [hb])]
  exact ⟨keptLoaded.trans loaded, keptDet.trans det, by rw [laneData_sram, State.placeBody, onLane_lane]⟩

/-- It leaves the other lane and the registers as they were. -/
theorem bootPut_kept (x : CfgBody) (n : Nat) (body : Octets) (s : State) (l : Lane) : (bootPut x n body s l).lane l.other = s.lane l.other ∧ (bootPut x n body s l).regs = s.regs := by
  obtain ⟨-, -, otherLane, regs⟩ := placed (s.placeBody l n body) l x.data
  rw [bootPut]
  split
  · exact ⟨rfl, rfl⟩
  · exact ⟨otherLane.trans (placeBody_lane s l n body).2.2, regs.trans (onLane_regs ..)⟩

theorem blocked_of_regs {s t : State} (h : t.regs = s.regs) (l : Lane) : t.blocked l = s.blocked l := by
  cases l <;> simp only [State.blocked, State.on, State.rd, h]

/-- Both lanes are placed, each as if alone. -/
theorem bootBoth_lane {x : CfgBody} {n : Nat} {body : Octets} {s : State} {l : Lane} (hb : s.blocked l = false) :
    ((bootPut x n body (bootPut x n body s .A) .B).lane l).loaded = true ∧ ((bootPut x n body (bootPut x n body s .A) .B).lane l).det = false ∧
      ((bootPut x n body (bootPut x n body s .A) .B).lane l).sram = x.data.foldl (fun (m : List Host.Cell) d => memWrite m d.1 d.2) (memWrite (s.lane l).sram n body) := by
  obtain ⟨otherA, regsA⟩ := bootPut_kept x n body s .A
  cases l with
  | A =>
    rw [show (bootPut x n body (bootPut x n body s .A) .B).lane .A = (bootPut x n body s .A).lane .A from (bootPut_kept x n body _ .B).1]
    exact bootPut_lane hb
  | B =>
    have image := bootPut_lane (x := x) (n := n) (body := body) ((blocked_of_regs regsA .B).trans hb)
    rwa [show (bootPut x n body s .A).lane .B = s.lane .B from otherA] at image

/-- The lanes' load from a code store whose container is acceptable (R354). -/
theorem bootLanes_eq {s w : State} {x : CfgBody} {body : Octets} (hs : s.bootStore = (w, true)) (hb : (w.bodyOf w.codeStore ctxBoot).2 = some body) :
    s.bootLanes x = bootPut x (leAt w.codeStore 24 4) body (bootPut x (leAt w.codeStore 24 4) body (w.bodyOf w.codeStore ctxBoot).1 .A) .B := by
  unfold State.bootLanes
  rw [hs]
  dsimp only
  generalize w.bodyOf w.codeStore ctxBoot = r at hb ⊢
  obtain ⟨u, b⟩ := r
  obtain rfl : b = some body := hb
  rfl

/-- The header in force taken over (R346). -/
def State.withHeader (s : State) (h : BootHeader) : State := { s with acmSize := h.acmSize, rld := { s.rld with booted := true, header := some h } }

/-- With a usable header and not in RETIRED the cold start goes on with what the update record asks. -/
theorem coldBoot_go {s u : State} {h : BootHeader} (hr : s.bootReady = true) (hh : s.chooseHeader = some h) (hlc : s.lcState ≠ lcRetired)
    (hrec : (s.withHeader h).readRecord.bootRecover = (u, true)) : s.coldBoot = u.bootImages := by
  have found : ({ s with rld := { s.rld with booted := true } } : State).chooseHeader = some h := hh
  have state : (s.withHeader h).lcState ≠ lcRetired := hlc
  rw [State.coldBoot, if_neg (by simp [hr])]
  simp only [found]
  change (if (s.withHeader h).lcState = lcRetired then s.withHeader h else match (s.withHeader h).readRecord.bootRecover with | (s, false) => s | (s, true) => s.bootImages) = u.bootImages
  rw [if_neg state, hrec]

/-- Settles O16: with no recovery and an acceptable CFG the cold start ends with the load of both lanes. -/
theorem coldStart : Obligations.ColdStart := by
  unfold Obligations.ColdStart
  refine ⟨fun s hr hh => ?_, fun s u v w h x body hr hh hlc hrec hcfg hstore hbody => ?_⟩
  · have stops : s.coldBoot = ({ s with rld := { s.rld with booted := true } }).raise RLD_STATUS_NOHDR := by
      have lacks : ({ s with rld := { s.rld with booted := true } } : State).chooseHeader = none := hh
      simp only [State.coldBoot, hr, lacks]
      rfl
    refine ⟨_, congrArg Host.Outcome.next stops, ?_, rfl⟩
    rw [raise_def, rd_wr_same]
    rfl
  · have boots : s.coldBoot = (v.applyCfg x).bootLanes x := by
      have recovered : (s.withHeader h).readRecord.bootRecover = (u, true) := hrec
      rw [coldBoot_go hr hh hlc recovered]
      unfold State.bootImages
      rw [hcfg]
    exact ⟨_, congrArg Host.Outcome.next (boots.trans (bootLanes_eq hstore hbody)), fun l hb => bootBoth_lane hb⟩

end Sys2Proof.Machine

/-!
PROOFS. The Time Base (R35, R36, R37, R41, R48, R52, R53), the lock of the trip threshold (R278) and the order of sealed events (R65, R68, R70).
-/
namespace Sys2Proof.Machine
set_option Elab.async false

/-! ### The trip threshold (R278) -/

/-- Neither a reset of the module nor its hold-off touches a field that the resets keep, but for the cause bits and the roles of the lanes. -/
theorem systemReset_rd_kept (s : State) (c : ResetCause) {f : Field} (hl : f.lo < 1024) (h0 : f.reg ≠ TB_P0_LAT_TXLAT.reg) (h1 : f.reg ≠ TB_P1_LAT_TXLAT.reg)
    (hk : keptByReset false f.key = true) (cause : ∀ g ∈ [SYS_RESET_CAUSE_PIN, SYS_RESET_CAUSE_SOFT, SYS_RESET_CAUSE_NOLANE], f.key ≠ g.key)
    (role : f.key ≠ LSC_ROLE_STATE_A.key ∧ f.key ≠ LSC_ROLE_STATE_B.key) : (s.systemReset c).rd f = s.rd f := by
  have cleared : ((s.clearAll false).resetCause c).rd f = s.rd f := by
    have kept := clearAll_kept s false f hl h0 h1 hk
    cases c <;> simp_all [State.resetCause, rd_wr_ne]
  unfold State.systemReset
  split
  · rfl
  · dsimp only
    split
    · exact cleared
    · rw [startLanes_rd _ _ role.1 role.2, cleared]

/-- A reset of the module leaves THR and LOCKED (R278). -/
theorem systemReset_threshold (s : State) (c : ResetCause) :
    (s.systemReset c).rd MTR_SF1_THR = s.rd MTR_SF1_THR ∧ (s.systemReset c).rd MTR_SF1_LOCKED = s.rd MTR_SF1_LOCKED :=
  ⟨systemReset_rd_kept s c (by decide) (by decide) (by decide) (by decide) (by decide) (by decide),
    systemReset_rd_kept s c (by decide) (by decide) (by decide) (by decide) (by decide) (by decide)⟩

theorem powerOn_threshold (s : State) : s.powerOn.rd MTR_SF1_THR = 0 ∧ s.powerOn.rd MTR_SF1_LOCKED = 0 := by
  constructor <;> rw [powerOn_rd, raiseIf_rd_ne _ (by decide), clearAll_rd s true _ (by decide) (by decide) (by decide) (by decide)] <;> rfl

/-- Settles O48: LOCKED gates the write, and only the power-on reset clears it. -/
theorem tripThresholdOnce : Obligations.TripThresholdOnce := by
  unfold Obligations.TripThresholdOnce
  refine ⟨fun s l v hs => ?_, fun s => ⟨?_, fun l key b hs => ?_, ?_, ⟨_, rfl, powerOn_threshold s⟩, fun h => ?_⟩⟩
  · have does : exec (.sf1ThrWrite l v) s = .next (s.sf1Thr (bits v.toNat 0 2)) := sf1ThrWrite_serves v hs
    rw [Answers, does]
    refine ⟨fun h => ⟨_, rfl, ?_⟩, fun h => ?_⟩
    · rw [State.sf1Thr, if_neg (by simp [State.on, h])]
      constructor
      · rw [rd_wr_ne _ _ (by decide), rd_wr_same]
        simp [bits, MTR_SF1_THR]
      · exact rd_wr_same ..
    · rw [State.sf1Thr, if_pos (by simpa [State.on] using h)]
  · refine ⟨_, rfl, ?_⟩
    unfold State.pinReset
    split
    · exact ⟨rfl, rfl⟩
    · exact systemReset_threshold _ .pin
  · have does : exec (.sysrst l key b) s = .next (if key = 0xC1A5#16 ∧ b = true then s.systemReset .soft else s) := sysrst_does key b hs
    rw [Answers, does]
    refine ⟨_, rfl, ?_⟩
    split
    · exact systemReset_threshold s .soft
    · exact ⟨rfl, rfl⟩
  · refine ⟨_, rfl, ?_⟩
    unfold State.whenLanes State.noLaneReset
    split_ifs
    · exact systemReset_threshold s .noLane
    all_goals exact ⟨rfl, rfl⟩
  · rw [State.idn, h]
    rfl

/-! ### The counter and its steps (R35, R36, R37, R41) -/

theorem flagClamp_tb (s : State) : s.flagClamp.tb = s.tb := by
  rw [State.flagClamp, State.raiseIf]
  split <;> simp

theorem flagClamp_cycles (s : State) : s.flagClamp.cycles = s.cycles := by
  rw [State.flagClamp, State.raiseIf]
  split <;> simp

/-- Settles O19: a tick is the advance of the counter with the slew that fits in it, and its counts. -/
theorem counterTicks : Obligations.CounterTicks := by
  unfold Obligations.CounterTicks
  intro s n hu hn
  have does : exec (.tbCounterTick n) s = .next (s.tick n) := congrArg Host.Outcome.next (whenUp_up hu)
  rw [Answers, does]
  refine ⟨_, rfl, ?_⟩
  rw [State.tick, if_neg (by omega)]
  generalize hb : (State.redrift _ : State) = b
  obtain ⟨clamp, htb, hcycles⟩ := stallTick_rd b.flagClamp n TB_STATUS_INCCLAMP (by decide) (by decide)
  rw [clamp, htb, hcycles, flagClamp_tb, flagClamp_cycles]
  subst hb
  refine ⟨?_, rfl, rfl, rfl, rfl, rfl, rfl, fun h => raiseIf_rd_true _ (bne_iff_ne.mpr h) (by decide)⟩
  rw [add_assoc]
  rfl

/-- The cycles since the last snapshot boundary, counted anew (R41). -/
def State.rephased (s : State) : State := { s with tb := { s.tb with phase := s.tb.phase % 1024 } }

theorem boundary_eq {s : State} (h : 1024 ≤ s.tb.phase) : s.boundary = match s.tb.step with
    | some q => if s.tb.fresh = true then s.rephased else s.rephased.makeStep q
    | none => s.rephased := by
  rw [State.boundary, if_neg (by omega)]
  rfl

/-- Settles O20: a boundary makes the step that an earlier cycle requested. -/
theorem stepsAtBoundaries : Obligations.StepsAtBoundaries := by
  unfold Obligations.StepsAtBoundaries
  intro s hu hp
  have does : exec .snapshotBoundary s = .next s.boundary := congrArg Host.Outcome.next (whenUp_up hu)
  rw [boundary_eq hp] at does
  refine ⟨fun v hv hf => ?_, fun d hd hf he => ?_, ?_⟩
  · rw [hv, hf] at does
    obtain ⟨now, step, phase, stepped, state⟩ := step_load s.rephased v
    exact ⟨s.rephased.makeStep (.load v), does, now, step, phase, stepped, state⟩
  · rw [hd, hf] at does
    obtain ⟨now, step, phase, stepped, state⟩ := step_add s.rephased d he
    exact ⟨s.rephased.makeStep (.add d), does, now, step, phase, stepped, state⟩
  · intro h
    rw [does]
    cases hs : s.tb.step with
    | none => rfl
    | some q => exact congrArg Host.Outcome.next (if_pos (h.resolve_left (by simp [hs])))

/-- Settles O21: the step that is requested, and what a servo that is switched off keeps. -/
theorem timeIsSet : Obligations.TimeIsSet := by
  unfold Obligations.TimeIsSet
  intro s l hs
  refine ⟨fun v w0 w1 w2 e0 e1 e2 b0 b1 b2 => ?_, ?_⟩
  · obtain ⟨t, htb, hrd, does⟩ := tbSet_serves v hs e0 e1 e2 rfl
    have sec : bits (w0 + w1 * 2 ^ 32 + w2 * 2 ^ 64 + v.toNat * 2 ^ 96) 64 64 = w2 + v.toNat * 2 ^ 32 := by
      have := v.isLt
      simp only [bits]
      omega
    have ns : bits (w0 + w1 * 2 ^ 32 + w2 * 2 ^ 64 + v.toNat * 2 ^ 96) 32 30 = w1 % 2 ^ 30 := by
      simp only [bits]
      omega
    have frac : bits (w0 + w1 * 2 ^ 32 + w2 * 2 ^ 64 + v.toNat * 2 ^ 96) 0 32 = w0 := by
      simp only [bits]
      omega
    rw [sec, ns, frac] at does
    have hen : t.rd TB_CTRL_SERVO_EN = s.rd TB_CTRL_SERVO_EN := hrd _ (by decide)
    have hrej : t.rd TB_STATUS_SETREJ = s.rd TB_STATUS_SETREJ := hrd _ (by decide)
    refine ⟨fun h0 hn => ⟨_, does, ?_⟩, fun h => ⟨_, does, ?_⟩⟩
    · rw [State.setTime, if_neg (by simp [State.on, hen, h0]; omega), State.requestStep]
      exact ⟨by simp only [htb], hrej⟩
    · rw [State.setTime, if_pos (by simpa [State.on, hen, imp_iff_not_or] using h)]
      exact ⟨by simp [htb], rd_wr_same ..⟩
  · obtain ⟨t, near, does⟩ := servoDisable_serves hs
    refine ⟨_, does, ?_⟩
    obtain ⟨state, -, others, now, slew, -⟩ := setTb_facts ({ (t.wr TB_CTRL_SERVO_EN 0) with tb := { (t.wr TB_CTRL_SERVO_EN 0).tb with slew := 0 } }) tbFreerun (by decide)
    have htb : t.tb = s.tb := by rw [near.rest]
    unfold State.servoOff
    refine ⟨?_, state, slew, now.trans (by simp [htb]), ?_, ?_⟩
    · rw [others _ (by decide) (by decide) (by decide) (by decide)]
      show (t.wr TB_CTRL_SERVO_EN 0).rd TB_CTRL_SERVO_EN = 0
      exact rd_wr_same ..
    · rw [others _ (by decide) (by decide) (by decide) (by decide)]
      show (t.wr TB_CTRL_SERVO_EN 0).rd TB_INTEG_I = s.rd TB_INTEG_I
      rw [rd_wr_ne _ _ (by decide), near.rd _ (by decide)]
    · rw [others _ (by decide) (by decide) (by decide) (by decide)]
      show (t.wr TB_CTRL_SERVO_EN 0).rd TB_CTRL_STEP_EN = s.rd TB_CTRL_STEP_EN
      rw [rd_wr_ne _ _ (by decide), near.rd _ (by decide)]

/-! ### The timeouts (R48, R52) -/

/-- The Follow_Up wait that runs out (R48). -/
theorem followMiss_facts {s : State} {f : TwoStep} (h : s.tb.follow = some f) : s.followMiss.tb = { s.tb with follow := none } ∧ s.followMiss.rd TB_STATUS_FUMISS = 1 ∧
    s.followMiss.rd TB_ERR_CNT_FUMISS_CNT = min (2 ^ TB_ERR_CNT_FUMISS_CNT.width - 1) (s.rd TB_ERR_CNT_FUMISS_CNT + 1) := by
  simp only [State.followMiss, h]
  refine ⟨?_, ?_, ?_⟩
  · unfold State.countSat State.raiseIf
    dsimp only
    split_ifs <;> simp
  · rw [countSat_rd_ne _ (by decide) (by decide)]
    exact rd_wr_same ..
  · rw [countSat_rd_same _ (by decide)]
    congr 2
    exact rd_wr_ne _ _ (by decide)

/-- Settles O22: what each timeout does where its condition holds. -/
theorem timeoutsOfTheTimeBase : Obligations.TimeoutsOfTheTimeBase := by
  unfold Obligations.TimeoutsOfTheTimeBase
  intro s hu
  refine ⟨fun f hf hw => ?_, fun he hq hfollow => ?_, fun hq => ?_, fun hst hh => ?_⟩
  · have does : exec .followUpTimeout s = .next s.followMiss := by
      show Host.Outcome.next (s.whenUp State.followTimeout) = _
      rw [whenUp_up hu]
      simp only [State.followTimeout, hf, if_pos hw]
    exact ⟨_, does, followMiss_facts hf⟩
  · have awaited : s.syncAwaited = false := by
      unfold State.syncAwaited
      split
      · exact beq_eq_false_iff_ne.mpr (hfollow _ ‹_›)
      · rfl
    constructor
    · intro hs
      obtain ⟨t, ht, state, loss, chg, hold, now⟩ := sync_timeout s tbLocked tbHoldover (.inr ⟨rfl, rfl⟩) hu he hs hq awaited
      exact ⟨t, ht, state, loss, chg, hold rfl, now⟩
    · intro hs
      obtain ⟨t, ht, state, loss, chg, -, now⟩ := sync_timeout s tbAcquiring tbFreerun (.inl ⟨rfl, rfl⟩) hu he hs hq awaited
      exact ⟨t, ht, state, loss, chg, now⟩
  · have quiet : ¬s.syncLimit < s.tb.quiet := Nat.not_lt.mpr hq
    show Host.Outcome.next (s.whenUp State.syncTimeout) = _
    rw [whenUp_up hu, State.syncTimeout]
    simp [quiet]
  · have does : exec .holdoverExpiry s = .next (s.setTb tbFreerun) := by
      show Host.Outcome.next (s.whenUp State.holdoverExpiry) = _
      rw [whenUp_up hu, State.holdoverExpiry, if_pos ⟨hst, hh⟩]
    obtain ⟨state, chg, others, now, -⟩ := setTb_facts s tbFreerun (by decide)
    exact ⟨_, does, state, chg (by rw [hst]; decide), others _ (by decide) (by decide) (by decide) (by decide), now⟩

/-! ### Sealed groups (R65, R68, R70) -/

theorem keyLt_trans {a b c : Nat × Nat × Nat} (hab : keyLt a b = true) (hbc : keyLt b c = true) : keyLt a c = true := by
  rw [keyLt_iff] at *
  omega

/-- Keys of which neither is below the other are one key. -/
theorem key_eq_of_not_keyLt {a b : Nat × Nat × Nat} (hab : keyLt a b = false) (hba : keyLt b a = false) : a = b := by
  rw [← Bool.not_eq_true, keyLt_iff] at hab hba
  obtain ⟨a1, a2, a3⟩ := a
  obtain ⟨b1, b2, b3⟩ := b
  dsimp only at hab hba
  simp only [Prod.mk.injEq]
  omega

/-- `octLt` is the order of the lists of numbers, a total order. -/
theorem octLt_iff : ∀ {a b : Octets}, octLt a b = true ↔ a.map (·.toNat) < b.map (·.toNat)
  | [], [] => by simp [octLt]
  | [], _ :: _ => by simp [octLt]
  | _ :: _, [] => by simp [octLt]
  | x :: xs, y :: ys => by
    rw [octLt, List.map_cons, List.map_cons, List.cons_lt_cons_iff]
    split_ifs with hxy hyx
    · simp [hxy]
    · simp only [false_iff]
      omega
    · rw [octLt_iff]
      have : x.toNat = y.toNat := by omega
      simp [this]

theorem octLt_false_iff {a b : Octets} : octLt a b = false ↔ b.map (·.toNat) ≤ a.map (·.toNat) := by
  rw [← Bool.not_eq_true, octLt_iff, not_lt]

theorem octLt_irrefl (a : Octets) : octLt a a = false := octLt_false_iff.mpr le_rfl

theorem octLt_asymm {a b : Octets} (h : octLt a b = true) : octLt b a = false := octLt_false_iff.mpr (octLt_iff.mp h).le

theorem octLt_false_trans {a b c : Octets} (hab : octLt a b = false) (hbc : octLt b c = false) : octLt a c = false :=
  octLt_false_iff.mpr ((octLt_false_iff.mp hbc).trans (octLt_false_iff.mp hab))

/-- Insertion keeps the members. -/
theorem mem_insertBy {α : Type} (lt : α → α → Bool) (a : α) (L : List α) (x : α) : x ∈ insertBy lt a L ↔ x = a ∨ x ∈ L := by
  induction L with
  | nil => simp [insertBy]
  | cons b bs ih =>
    simp only [insertBy]
    split
    · simp
    · simp only [List.mem_cons, ih]
      tauto

theorem mem_sortBy {α : Type} (lt : α → α → Bool) (L : List α) (x : α) : x ∈ sortBy lt L ↔ x ∈ L := by
  induction L with
  | nil => rfl
  | cons a as ih => rw [sortBy, mem_insertBy, ih, List.mem_cons]

/-- Events in order, several of a key allowed. -/
def InOrder (es : List Event) : Prop := es.Pairwise (fun a b => keyLt b.key a.key = false)

theorem sortBy_inOrder (es : List Event) : InOrder (sortBy eventLt es) := by
  have insert (a : Event) (L : List Event) (h : InOrder L) : InOrder (insertBy (fun x y => !eventLt y x) a L) := by
    induction L with
    | nil => simp [InOrder, insertBy]
    | cons b bs ih =>
      obtain ⟨hb, hbs⟩ := List.pairwise_cons.mp h
      simp only [insertBy]
      split
      case isTrue hab =>
        have ab : keyLt b.key a.key = false := by simpa [eventLt] using hab
        refine List.pairwise_cons.mpr ⟨fun c hc => ?_, h⟩
        rcases List.mem_cons.mp hc with rfl | hc
        · exact ab
        · exact keyLt_false_trans (hb c hc) ab
      case isFalse hab =>
        have ba : keyLt b.key a.key = true := by simpa [eventLt] using hab
        refine List.pairwise_cons.mpr ⟨fun c hc => ?_, ih hbs⟩
        rcases (mem_insertBy _ _ _ _).mp hc with rfl | hc
        · exact keyLt_asymm ba
        · exact hb c hc
  induction es with
  | nil => exact List.Pairwise.nil
  | cons a as ih => exact insert a _ ih

/-- Events in strict order: no two have one key. -/
def InStrictOrder (es : List Event) : Prop := es.Pairwise (fun a b => keyLt a.key b.key = true)

theorem dedup_ne_nil {es : List Event} (h : es ≠ []) : dedup es ≠ [] := by
  cases es with
  | nil => exact absurd rfl h
  | cons e t =>
    simp only [dedup]
    split
    · simp
    · split_ifs <;> simp

theorem dedup_subset (es : List Event) : ∀ e ∈ dedup es, e ∈ es := by
  induction es with
  | nil => simp [dedup]
  | cons e t ih =>
    intro x hx
    simp only [dedup] at hx
    split at hx
    case h_1 => simp_all
    case h_2 f r hd =>
      rw [hd] at ih
      split_ifs at hx
      · exact List.mem_cons_of_mem _ (ih x hx)
      · rcases List.mem_cons.mp hx with rfl | hx
        · exact List.mem_cons_self
        · exact List.mem_cons_of_mem _ (ih x (List.mem_cons_of_mem _ hx))
      · rcases List.mem_cons.mp hx with rfl | hx
        · exact List.mem_cons_self
        · exact List.mem_cons_of_mem _ (ih x hx)

/-- Of the events of a key, `dedup` keeps one whose octets are the lowest (R70). -/
theorem dedup_keeps (es : List Event) : ∀ e ∈ es, ∃ f ∈ dedup es, f.key = e.key ∧ octLt e.tail f.tail = false := by
  induction es with
  | nil => simp
  | cons e t ih =>
    intro x hx
    simp only [dedup]
    split
    case h_1 hd =>
      have ht : t = [] := by
        by_contra h
        exact dedup_ne_nil h hd
      obtain rfl : x = e := by simpa [ht] using hx
      exact ⟨x, List.mem_cons_self, rfl, octLt_irrefl _⟩
    case h_2 f r hd =>
      rw [hd] at ih
      split_ifs with hkey hlt
      · rcases List.mem_cons.mp hx with rfl | hx
        · exact ⟨f, List.mem_cons_self, hkey.symm, octLt_asymm hlt⟩
        · exact ih x hx
      · rcases List.mem_cons.mp hx with rfl | hx
        · exact ⟨x, List.mem_cons_self, rfl, octLt_irrefl _⟩
        · obtain ⟨g, hg, kg, tg⟩ := ih x hx
          rcases List.mem_cons.mp hg with rfl | hg
          · exact ⟨e, List.mem_cons_self, hkey.trans kg, octLt_false_trans tg (by simpa using hlt)⟩
          · exact ⟨g, List.mem_cons_of_mem _ hg, kg, tg⟩
      · rcases List.mem_cons.mp hx with rfl | hx
        · exact ⟨x, List.mem_cons_self, rfl, octLt_irrefl _⟩
        · obtain ⟨g, hg, kg, tg⟩ := ih x hx
          exact ⟨g, List.mem_cons_of_mem _ hg, kg, tg⟩

theorem dedup_inStrictOrder {es : List Event} (h : InOrder es) : InStrictOrder (dedup es) := by
  induction es with
  | nil => exact List.Pairwise.nil
  | cons e t ih =>
    obtain ⟨he, ht⟩ := List.pairwise_cons.mp h
    have sub := dedup_subset t
    replace ih := ih ht
    simp only [dedup]
    split
    case h_1 => exact List.pairwise_singleton _ _
    case h_2 f r hd =>
      rw [hd] at ih sub
      obtain ⟨hf, hr⟩ := List.pairwise_cons.mp ih
      split_ifs with hkey hlt
      · exact ih
      · exact List.pairwise_cons.mpr ⟨fun x hx => by rw [hkey]; exact hf x hx, hr⟩
      · have ef : keyLt e.key f.key = true := by
          cases lower : keyLt e.key f.key with
          | true => rfl
          | false => exact absurd (key_eq_of_not_keyLt lower (he f (sub f List.mem_cons_self))) hkey
        refine List.pairwise_cons.mpr ⟨fun x hx => ?_, ih⟩
        rcases List.mem_cons.mp hx with rfl | hx
        · exact ef
        · exact keyLt_trans ef (hf x hx)

/-- The events that a batch keeps of those given, in strict order. -/
def keptEvents (es : List Event) : List Event := dedup (sortBy eventLt es)

theorem sealGroup_eq (es : List Event) : sealGroup es = (keptEvents es).filter (fun e => !e.late) ++ (keptEvents es).filter (·.late) := rfl

theorem keptEvents_inStrictOrder (es : List Event) : InStrictOrder (keptEvents es) := dedup_inStrictOrder (sortBy_inOrder es)

/-- A batch is a rearrangement of the events kept. -/
theorem sealGroup_perm (es : List Event) : (sealGroup es).Perm (keptEvents es) := by
  rw [sealGroup_eq]
  simpa using List.filter_append_perm (fun e : Event => !e.late) (keptEvents es)

theorem mem_sealGroup {es : List Event} {e : Event} : e ∈ sealGroup es ↔ e ∈ keptEvents es := (sealGroup_perm es).mem_iff

theorem sealGroup_onTime (es : List Event) : (sealGroup es).filter (fun e => !e.late) = (keptEvents es).filter (fun e => !e.late) := by
  rw [sealGroup_eq, List.filter_append, List.filter_filter, List.filter_filter]
  simp

theorem sealGroup_late (es : List Event) : (sealGroup es).filter (·.late) = (keptEvents es).filter (·.late) := by
  rw [sealGroup_eq, List.filter_append, List.filter_filter, List.filter_filter]
  simp

/-- In strict order, each key occurs once. -/
theorem InStrictOrder.keys_ne {es : List Event} (h : InStrictOrder es) : es.Pairwise (fun a b => a.key ≠ b.key) :=
  h.imp (fun {a b} lower same => by rw [same, keyLt_irrefl] at lower; cases lower)

/-- Settles O24: the batch is the strict order split into on time and LATE. -/
theorem sealedGroupsAreSorted : Obligations.SealedGroupsAreSorted := by
  unfold Obligations.SealedGroupsAreSorted
  intro es
  have order := keptEvents_inStrictOrder es
  rw [sealGroup_onTime, sealGroup_late]
  refine ⟨sealGroup_eq es, order.filter _, order.filter _, ?_, fun e he => ?_, fun e he => ?_⟩
  · exact ((sealGroup_perm es).pairwise_iff (fun hne => Ne.symm hne)).mpr order.keys_ne
  · exact (mem_sortBy _ _ _).mp (dedup_subset _ e (mem_sealGroup.mp he))
  · obtain ⟨f, hf, kf, tf⟩ := dedup_keeps _ e ((mem_sortBy eventLt es e).mpr he)
    exact ⟨f, mem_sealGroup.mpr hf, kf, tf⟩

end Sys2Proof.Machine

/-!
PROOFS. The Sequencer's intake, its commands, and the delivery of batches (R66, R69, R72, R74, R75, R76, R78, R80).
-/
namespace Sys2Proof.Machine
set_option Elab.async false

/-! ### The intake (R66, R69, R72) -/

/-- The pool is the Sequencer's: it fits what it fitted. -/
theorem poolFits_crz {s t : State} (h : t.crz = s.crz) (e : Event) : t.poolFits e = s.poolFits e := by
  unfold State.poolFits State.poolUsed
  rw [h]

theorem leaveQueue_poolFits (s : State) (w : Waiting) (rest : List Waiting) : (s.leaveQueue w rest).poolFits w.ev = s.poolFits w.ev :=
  poolFits_crz (leaveQueue_facts s w rest).2.2.1 w.ev

/-- An event that leaves its queue for the pool is registered as of the state before. -/
theorem registered_left (s : State) (w : Waiting) (rest : List Waiting) :
    ((s.leaveQueue w rest).register w.ev).waiting = rest ∧ Registered s ((s.leaveQueue w rest).register w.ev) w.ev ∧
      { ((s.leaveQueue w rest).register w.ev).crz with bins := [], late := [] } = { s.crz with bins := [], late := [] } := by
  obtain ⟨gone, tb, crz, regs⟩ := leaveQueue_facts s w rest
  obtain ⟨-, -, seq, waiting, -⟩ := register_facts (s.leaveQueue w rest) w.ev
  refine ⟨waiting.trans gone, ?_, by rw [seq, crz]⟩
  exact registered_of tb (regs _ (by decide) (by decide)) (regs _ (by decide) (by decide)) (by rw [crz]) (by rw [crz]) (by rw [crz]) (registered _ _)

section
variable {s : State} {chan : Nat} {w : Waiting} {rest : List Waiting} (on : s.crzOn = true) (awake : s.crz.rest = false)
  (first : takeFirst (fun x => x.ev.chan == chan) s.waiting = some (w, rest))
include on awake first

/-- The intake of a channel but the Time Base's, whose oldest event is `w`. -/
theorem intake_eq (hc : chan ≠ 64) (idle : s.crz.stalled = none) : s.intake chan = if s.poolFits w.ev then (s.leaveQueue w rest).register w.ev
    else ({ s with crz := { s.crz with stalled := some (w.ev.slots, s.now), stallRem := 0, stallChan := chan } }).raise CRZ_STATUS_STALL := by
  unfold State.intake
  rw [on, first]
  simp only [awake, hc, idle, Bool.not_true, Option.isSome_none, Bool.false_eq_true, if_false]

/-- The intake of the Time Base's channel goes through its status buffer (R69). -/
theorem intake_timeBase_eq (hc : chan = 64) : s.intake chan = if s.crz.tbBuf.isEmpty && s.poolFits w.ev then (s.leaveQueue w rest).register w.ev
    else (s.leaveQueue w rest).tbStalled w.ev := by
  unfold State.intake
  rw [on, first]
  simp only [awake, hc, Bool.not_true, Bool.false_eq_true, if_false, if_true, leaveQueue_poolFits, (leaveQueue_facts s w rest).2.2.1]
end

/-- The state in which the intake resumes (R72). -/
def State.unstalled (s : State) (since : Nat) : State := { s with crz := { s.crz with stalled := none, stalls := s.crz.stalls ++ [(since, s.now)] } }

theorem intakeResume_eq {s : State} {need since : Nat} (hst : s.crz.stalled = some (need, since)) (room : s.poolUsed + need ≤ 32768) :
    s.intakeResume = (s.unstalled since).intake s.crz.stallChan := by
  unfold State.intakeResume
  rw [hst]
  dsimp only
  rw [if_pos room]
  rfl

/-- Settles O25: the intake's three answers to the oldest event of a channel. -/
theorem eventsAreRegistered : Obligations.EventsAreRegistered := by
  unfold Obligations.EventsAreRegistered
  refine ⟨fun s chan w rest hu on awake hc idle first => ?_, fun s w rest hu on awake first => ?_, fun s w rest need since hu on awake hc hst room first fits => ?_⟩
  · have does : exec (.eventRegister chan) s = .next (s.intake chan.val) := congrArg Host.Outcome.next (whenUp_up hu)
    rw [intake_eq on awake first hc idle] at does
    refine ⟨fun fits => ?_, fun full => ?_⟩
    · rw [if_pos fits] at does
      obtain ⟨waiting, reg, -⟩ := registered_left s w rest
      exact ⟨_, does, waiting, reg⟩
    · rw [if_neg (by simp [full])] at does
      exact ⟨_, does, rfl, rfl, rd_wr_same ..⟩
  · have does : exec (.eventRegister 64) s = .next (s.intake 64) := congrArg Host.Outcome.next (whenUp_up hu)
    rw [intake_timeBase_eq on awake first rfl] at does
    obtain ⟨gone, -, crz, -⟩ := leaveQueue_facts s w rest
    refine ⟨fun empty fits => ?_, fun held room => ?_, fun full => ?_⟩
    · rw [if_pos (by simp [empty, fits])] at does
      obtain ⟨waiting, reg, -⟩ := registered_left s w rest
      exact ⟨_, does, waiting, reg⟩
    · have buffered : ¬(s.crz.tbBuf.isEmpty && s.poolFits w.ev) = true := by
        rcases held with h | h <;> simp [h]
      rw [if_neg buffered, State.tbStalled, if_pos (by rw [crz]; exact room), crz] at does
      exact ⟨_, does, gone, rfl⟩
    · have buffered : ¬(s.crz.tbBuf.isEmpty && s.poolFits w.ev) = true := by
        have : s.crz.tbBuf ≠ [] := by rintro h; simp [h] at full
        simp [this]
      rw [if_neg buffered, State.tbStalled, if_neg (by rw [crz]; omega)] at does
      exact ⟨_, does, gone, crz, rd_wr_same ..⟩
  · have does : exec .intakeResume s = .next s.intakeResume := congrArg Host.Outcome.next (whenUp_up hu)
    rw [intakeResume_eq hst room] at does
    rw [intake_eq (s := s.unstalled since) on awake first hc rfl, if_pos (show (s.unstalled since).poolFits w.ev = true from fits)] at does
    obtain ⟨waiting, reg, seq⟩ := registered_left (s.unstalled since) w rest
    exact ⟨_, does, waiting, (seq_two seq).2.1, registered_of rfl rfl rfl rfl rfl rfl reg⟩

/-! ### Delivery into the lanes (R74, R75, R119, R153) -/

/-- The units that take a batch, and its end in the Sequencer, leave the registers of other blocks. -/
theorem delivered_rd (s : State) (l : Lane) (b : Batch) {f : Field} (hf : f.key ≠ CRZ_POOL_PEAK.key) (hb : f.block < 22) (h5 : f.block ≠ 5) :
    (((s.felterTake l b.k b.events).escortTake l b.k b.events).unwait l (fun x => x.k == b.k)).rd f = s.rd f := by
  rw [(unwait_facts _ _ _).2 f hf]
  refine only_rd (escortTake_only (l := l) (k := b.k) (es := b.events) (μ := 2684354592) rfl (felterTake_only (l := l) (k := b.k) (es := b.events) rfl (Only.refl s))) ?_
  rw [Bool.and_eq_true, decide_eq_true_eq]
  refine ⟨hb, ?_⟩
  interval_cases f.block <;> first | rfl | exact absurd rfl h5

/-- The lane's queue with the batch written into it (R74). -/
def State.queued (s : State) (l : Lane) (b : Batch) : State :=
  (s.onLane l (fun x => { x with sram := putSlots s x.sram (s.rd (CRZ_EQ_WR_WR l)) (2 + slotsOf b.events) (b.header ++ slotOctets b.events) })).wr
    (CRZ_EQ_WR_WR l) ((s.rd (CRZ_EQ_WR_WR l) + (2 + slotsOf b.events)) % s.eqSize)

/-- The lane notes when the batch became ready, where none was (R76). -/
def State.readied (s : State) (l : Lane) (b : Batch) (was : Bool) : State :=
  if was then s else s.onLane l (fun x => { x with began := some (b.k, s.inService l) })

theorem deliverTo_eq (s : State) (l : Lane) (b : Batch) : s.deliverTo l b =
    ((((s.queued l b).readied l b (s.batchReady l)).felterTake l b.k b.events).escortTake l b.k b.events).unwait l (fun x => x.k == b.k) := by
  unfold State.deliverTo
  dsimp only
  rw [show (s.onLane l (fun x => { x with sram := putSlots s x.sram (s.rd (CRZ_EQ_WR_WR l)) (2 + slotsOf b.events) (b.header ++ slotOctets b.events) })).eqSize = s.eqSize by
    unfold State.eqSize; rw [onLane_rd]]
  rfl

theorem readied_rd (s : State) (l : Lane) (b : Batch) (was : Bool) (f : Field) : (s.readied l b was).rd f = s.rd f := by
  unfold State.readied
  split
  · rfl
  · exact onLane_rd ..

theorem deliverTo_rd_ne (s : State) (l : Lane) (b : Batch) {f : Field} (hf : f.key ≠ CRZ_POOL_PEAK.key) (hb : f.block < 22) (h5 : f.block ≠ 5) (hw : f.key ≠ (CRZ_EQ_WR_WR l).key) :
    (s.deliverTo l b).rd f = s.rd f := by
  rw [deliverTo_eq, delivered_rd _ l b hf hb h5, readied_rd, State.queued, rd_wr_ne _ _ hw, onLane_rd]

/-- The write index as the delivery leaves it. -/
theorem deliverTo_index (s : State) (l : Lane) (b : Batch) :
    (s.deliverTo l b).rd (CRZ_EQ_WR_WR l) = (s.rd (CRZ_EQ_WR_WR l) + (2 + slotsOf b.events)) % s.eqSize % 2 ^ (CRZ_EQ_WR_WR l).width := by
  have hb : (CRZ_EQ_WR_WR l).block = 2 := eqwr_block l
  rw [deliverTo_eq, delivered_rd _ l b (eqwr_peak l) (by omega) (by omega), readied_rd, State.queued, rd_wr_same]

theorem deliver_fits {s : State} {l : Lane} {b : Batch} (hb : s.waitingBatch l = some b) (hh : s.deliveryHeld l = false) (hq : s.eqUsed l + 2 + slotsOf b.events + 1 ≤ s.eqSize)
    (hf : s.felterFree l b.k = true) (he : s.escortFree l b.k = true) : s.deliver l = s.deliverTo l b := by
  unfold State.deliver
  rw [hb]
  have room : decide (s.eqSize < s.eqUsed l + 2 + slotsOf b.events + 1) = false := by simpa using hq
  dsimp only
  rw [hh, hf, he, room]
  rfl

theorem slotsOf_replicate (n : Nat) (e : Event) : slotsOf (List.replicate n e) = n * e.slots := by
  induction n with
  | zero => simp [slotsOf, sumN]
  | succ n ih =>
    rw [List.replicate_succ, slotsOf, List.map_cons, Nat.succ_mul, Nat.add_comm, ← ih]
    rfl

/-- An event of one slot. -/
def shortEvent : Event := ⟨⟨0, 650000000, 0⟩, 100, some 0, 5, zeros 16, false, false, []⟩

/-- A batch of 131,070 events: with its header it takes the 131,072 slots that the 17 bits of EQ_WR count. -/
def longBatch : Batch := ⟨1, zeros 64, List.replicate 131070 shortEvent, 1, true, false⟩

theorem longBatch_slots : slotsOf longBatch.events = 131070 := by
  have slots : shortEvent.slots = 1 := by decide
  rw [longBatch, slotsOf_replicate, slots]

/-- Lane A serves, and the batch waits before an event queue of 200,000 slots, which the 18 bits of EQ_SIZE hold. -/
def sLongQueue : State := ({ sequencerStands with crz := { sequencerStands.crz with sealed := [longBatch] } } : State).wr CRZ_EQ_SIZE_SIZE 200000

theorem sLongQueue_size : sLongQueue.eqSize = 200000 ∧ sLongQueue.eqUsed .A = 0 ∧ sLongQueue.rd (CRZ_EQ_WR_WR .A) = 0 ∧ sLongQueue.rd (digerrFlag .A) = 0 := by
  decide +kernel

theorem sLongQueue_holds : sLongQueue.eqUsed .A + 2 + slotsOf longBatch.events + 1 ≤ sLongQueue.eqSize := by
  obtain ⟨size, used, -, -⟩ := sLongQueue_size
  rw [size, used, longBatch_slots]
  decide

theorem sLongQueue_free : sLongQueue.up = true ∧ sLongQueue.deliveryHeld .A = false ∧ sLongQueue.felterFree .A 1 = true ∧ sLongQueue.escortFree .A 1 = true ∧ sLongQueue.inService .A = true := by
  decide +kernel

theorem sLongQueue_batch : sLongQueue.waitingBatch .A = some longBatch :=
  List.find?_cons_of_pos (show longBatch.waits .A = true from rfl)

/-- The digest of the batch differs, and nothing notes it: EQ_WR comes back to its value. -/
theorem sLongQueue_delivers : exec (.batchDelivery .A true) sLongQueue = .next (sLongQueue.deliverTo .A longBatch) := by
  obtain ⟨up, held, felter, escort, -⟩ := sLongQueue_free
  obtain ⟨size, -, index, -⟩ := sLongQueue_size
  have stands : (sLongQueue.deliverTo .A longBatch).rd (CRZ_EQ_WR_WR .A) = sLongQueue.rd (CRZ_EQ_WR_WR .A) := by
    rw [deliverTo_index, size, index, longBatch_slots]
    decide
  show Host.Outcome.next (sLongQueue.whenUp (fun s => s.deliverChecked .A true)) = _
  rw [whenUp_up up]
  unfold State.deliverChecked
  dsimp only
  rw [deliver_fits sLongQueue_batch held sLongQueue_holds felter escort, stands, bne_self_eq_false, Bool.and_false, if_neg Bool.false_ne_true]

/-- Refutes O26: EQ_SIZE has 18 bits and EQ_WR 17, so a batch of 131,072 slots leaves EQ_WR as it was, and the model, which reads a delivery off EQ_WR, does not set DIGERR. -/
theorem not_batchesAreDelivered : ¬ Obligations.BatchesAreDelivered := by
  unfold Obligations.BatchesAreDelivered
  rintro ⟨-, -, -, digest⟩
  obtain ⟨up, held, felter, escort, serves⟩ := sLongQueue_free
  obtain ⟨size, -, index, flag⟩ := sLongQueue_size
  obtain ⟨t, ht, noted, -⟩ := digest sLongQueue .A longBatch up sLongQueue_batch held sLongQueue_holds felter escort serves (by rw [size, index]; decide)
  rw [sLongQueue_delivers] at ht
  obtain rfl := Host.Outcome.next.inj ht
  rw [deliverTo_rd_ne _ _ _ (by decide) (by decide) (by decide) (by decide), flag] at noted
  cases noted

/-! ### The Sequencer's commands (R76, R78, R80, R133) -/

/-- What the start of the Sequencer leaves the units with: the launch queue is empty (R133). -/
theorem units_launch (s : State) : ((((s.coldRoles).launchReset).escortReset).recorderStart.releaseHeld).lnu.queue = [] ∧
    ((((s.coldRoles).launchReset).escortReset).recorderStart.releaseHeld).rd LNU_QSTAT_PEAK = 0 := by
  have o := recorderStart_only (μ := 70866977056) rfl (escortReset_only rfl (Only.refl s.coldRoles.launchReset))
  constructor
  · have held : ((s.coldRoles.launchReset.escortReset.recorderStart).releaseHeld).lnu = (s.coldRoles.launchReset.escortReset.recorderStart).lnu :=
      only_part (releaseHeld_only (μ := 2251800484773892) rfl (Only.refl _)) .lnu rfl
    have lnu : (s.coldRoles.launchReset.escortReset.recorderStart).lnu = s.coldRoles.launchReset.lnu := only_part o .lnu rfl
    rw [held, lnu]
    rfl
  · rw [(releaseHeld_facts _).2 _ (by decide), only_rd o (by decide)]
    exact rd_wr_same ..

/-- The Sequencer as it starts: the Crease after the present one is the oldest and the first drained (R76). -/
def State.crzReady (s : State) : State := { s.crzStart with lsc := { s.crzStart.lsc with nextDrain := s.crzStart.crz.oldest } }

theorem sequencerOn_eq (s : State) : s.sequencerOn = (((s.crzReady.coldRoles).launchReset).escortReset).recorderStart.releaseHeld := rfl

theorem crzReady_rd (s : State) {f : Field} (h1 : f.key ≠ CRZ_CTRL_EN.key) (h2 : f.key ≠ CRZ_POOL_PEAK.key) : s.crzReady.rd f = s.rd f :=
  (crzStart_facts s).2.2.2.2.2.2.2 f h1 h2

theorem crzReady_lane (s : State) (l : Lane) : s.crzReady.lane l = s.lane l := (crzStart_facts s).2.2.2.2.2.2.1 l

theorem crzReady_role (s : State) (l : Lane) : s.crzReady.role l = s.role l := by
  simp only [State.role, crzReady_lane]
  cases l <;> rw [crzReady_rd s (by decide) (by decide)]

theorem crzReady_blocked (s : State) (l : Lane) : s.crzReady.blocked l = s.blocked l := by
  cases l <;> simp only [State.blocked, State.on] <;> rw [crzReady_rd s (by decide) (by decide)]

theorem crzReady_coldLane (s : State) : s.crzReady.coldLane = s.coldLane := by
  have pref : s.crzReady.on LSC_CTRL_PREF_B = s.on LSC_CTRL_PREF_B := by
    unfold State.on
    rw [crzReady_rd s (by decide) (by decide)]
  simp only [State.coldLane, crzReady_blocked, pref]

/-- What the start of the Sequencer leaves of itself (R76). -/
theorem sequencerOn_crz (s : State) : s.sequencerOn.rd CRZ_CTRL_EN = 1 ∧ s.sequencerOn.crz.oldest = s.now / s.P + 1 ∧ s.sequencerOn.crz.first = true ∧ s.sequencerOn.crz.sealed = [] := by
  obtain ⟨oldest, first, none, -, en, -⟩ := crzStart_facts s
  obtain ⟨seq, regs⟩ := releaseHeld_facts ((((s.crzReady.coldRoles).launchReset).escortReset).recorderStart)
  obtain ⟨units, -⟩ := units_crz s.crzReady
  obtain ⟨sealed', -, oldest', first'⟩ := seq_five seq
  rw [sequencerOn_eq]
  refine ⟨?_, ?_, ?_, ?_⟩
  · rw [regs _ (by decide), units_rd _ _ (by decide) (by decide) (by decide) (by decide) (by decide)]
    exact en
  · rw [oldest', units]
    exact oldest
  · rw [first', units]
    exact first
  · rw [sealed', units]
    exact none

/-- At a cold start the lanes become ACTIVE and SHADOW (R95). -/
theorem sequencerOn_roles {s : State} (hc : s.lsc.coldStart = true) (hr : s.role s.coldLane = roleBoot) (hb : s.blocked s.coldLane = false) (hl : (s.lane s.coldLane).leaving = false) :
    s.sequencerOn.rd (roleField s.coldLane) = roleActive ∧ s.sequencerOn.lsc.coldStart = false ∧
    (s.role s.coldLane.other = roleBoot → s.blocked s.coldLane.other = false → s.sequencerOn.rd (roleField s.coldLane.other) = roleShadow) := by
  have lsc : s.crzReady.lsc.coldStart = true := hc
  obtain ⟨active, cold, shadow, -⟩ := coldRoles_facts s.crzReady lsc (by rw [crzReady_coldLane, crzReady_role]; exact hr) (by rw [crzReady_coldLane, crzReady_blocked]; exact hb)
    (by rw [crzReady_coldLane, crzReady_lane]; exact hl)
  rw [crzReady_coldLane] at active shadow
  rw [crzReady_role, crzReady_blocked] at shadow
  obtain ⟨-, unitsLsc⟩ := units_crz s.crzReady
  have peak : ∀ l, (roleField l).key ≠ CRZ_POOL_PEAK.key := by intro l; cases l <;> decide
  have role (l : Lane) : s.sequencerOn.rd (roleField l) = s.crzReady.coldRoles.rd (roleField l) := by
    rw [sequencerOn_eq, (releaseHeld_facts _).2 _ (peak l), units_role]
  have same : s.sequencerOn.lsc = s.crzReady.coldRoles.lsc := by
    rw [sequencerOn_eq, ← unitsLsc]
    exact only_part (releaseHeld_only (μ := 2251800484773892) rfl (Only.refl _)) .lsc rfl
  rw [role, role, same]
  exact ⟨active, cold, shadow⟩

/-- What the stop of the Sequencer discards (R80). -/
theorem crzStop_facts (s : State) : s.crzStop.rd CRZ_CTRL_EN = 0 ∧ s.crzStop.crz.bins = [] ∧ s.crzStop.crz.late = [] ∧ s.crzStop.crz.sealed = [] ∧
    ∀ f : Field, f.key ≠ CRZ_CTRL_EN.key → s.crzStop.rd f = s.rd f :=
  ⟨rd_wr_same .., rfl, rfl, rfl, fun _ hf => rd_wr_ne _ _ hf⟩

theorem queueIndex_ne (m : Lane) : (CRZ_EQ_RD_RD m).key ≠ CRZ_CTRL_EN.key ∧ (CRZ_EQ_WR_WR m).key ≠ CRZ_CTRL_EN.key := by cases m <;> decide

/-- The event that CRZ_INJ_CMD makes of its channel, its KIND and CRZ_INJ_PAY (R80). -/
def State.injected (s : State) (chan kind : Nat) : Event := s.event chan 0 kind (le 16 (s.rd CRZ_INJ_PAY_PAYLOAD)) s.tb.now

theorem inject_low (s : State) {chan : Nat} (kind : Nat) (h : chan < 96) : s.inject chan kind = s.raise CRZ_STATUS_INJREJ := by
  rw [State.inject, if_pos h]

theorem inject_eq (s : State) {chan : Nat} (kind : Nat) (h : 96 ≤ chan) (hr : s.crz.rest = false) :
    s.inject chan kind = if s.crzOn && s.crz.stalled.isNone && s.poolFits (s.injected chan kind) && !s.waiting.any (fun w => w.ev.chan == chan)
      then s.register (s.injected chan kind) else s.post (s.injected chan kind) := by
  rw [State.inject, if_neg (by omega)]
  dsimp only
  rw [hr, if_neg Bool.false_ne_true]
  rfl

/-- Settles O27: the start, the stop and the injection, by what each leaves. -/
theorem sequencerCommands : Obligations.SequencerCommands := by
  unfold Obligations.SequencerCommands
  intro s l hs
  have injects (chan : BitVec 7) (kind : Byte) : exec (.injectEvent l chan kind) s = .next (s.inject chan.toNat kind.toNat) := injectEvent_does chan kind hs
  refine ⟨fun off => ?_, fun on => ?_, fun chan kind low => ?_, fun chan kind high awake waits => ?_, fun chan kind high on awake idle alone fits => ?_⟩
  · have does : exec (.crzEnable l) s = .next s.sequencerOn := by
      show execCrzEnable l s = _
      rw [crzEnable_does hs, off]
      rfl
    obtain ⟨en, oldest, first, none⟩ := sequencerOn_crz s
    obtain ⟨queue, peak⟩ := units_launch s.crzReady
    exact ⟨_, does, en, oldest, first, none, queue, peak, sequencerOn_roles⟩
  · have does : exec (.crzDisable l) s = .next s.crzStop := by
      show execCrzDisable l s = _
      rw [crzDisable_does hs, on]
      rfl
    obtain ⟨en, bins, late, batches, regs⟩ := crzStop_facts s
    exact ⟨_, does, en, bins, late, batches, fun m => ⟨regs _ (queueIndex_ne m).1, regs _ (queueIndex_ne m).2⟩⟩
  · rw [injects, inject_low s _ low]
    rfl
  · have held : ¬(s.crzOn && s.crz.stalled.isNone && s.poolFits (s.injected chan.toNat kind.toNat) && !s.waiting.any (fun w => w.ev.chan == chan.toNat)) = true := by
      rcases waits with h | h | ⟨w, hw, hc⟩
      · simp [h]
      · cases hst : s.crz.stalled <;> simp_all
      · have : s.waiting.any (fun w => w.ev.chan == chan.toNat) = true := List.any_eq_true.mpr ⟨w, hw, by simp [hc]⟩
        simp [this]
    have does := injects chan kind
    rw [inject_eq s _ high awake, if_neg held] at does
    exact ⟨_, does, rfl, rfl⟩
  · have none : s.waiting.any (fun w => w.ev.chan == chan.toNat) = false := by
      rw [List.any_eq_false]
      intro w hw
      simpa using alone w hw
    have fits' : s.poolFits (s.injected chan.toNat kind.toNat) = true := fits
    have does := injects chan kind
    rw [inject_eq s _ high awake, if_pos (by simp [on, idle, none, fits'])] at does
    obtain ⟨-, -, -, waiting, -⟩ := register_facts s (s.injected chan.toNat kind.toNat)
    exact ⟨_, does, registered s _, waiting⟩

end Sys2Proof.Machine

/-!
PROOFS. The lanes and the Lane Supervisor (R87, R89, R90, R93, R95, R99, R100, R104, R106).
-/
namespace Sys2Proof.Machine
set_option Elab.async false

/-! ### The contexts of a lane (R89, R90) -/

theorem lanesRun_of_runs {s : State} {l : Lane} (h : s.laneRuns l = true) : s.lanesRun = true := by
  unfold State.laneRuns at h
  simp only [Bool.and_eq_true] at h
  exact h.1.1

theorem ite_and_eq_true {α : Type} {a b : Bool} (h : b = true) (x y : α) : (if (a && b) = true then x else y) = if a = true then x else y := by
  rw [h, Bool.and_true]

/-- Settles O28: the context register, the fence and the interrupts, each by its gate. -/
theorem laneContexts : Obligations.LaneContexts := by
  unfold Obligations.LaneContexts
  intro s l hr
  have fence (x : FenceAccess) : exec (.fenceViolation l x) s = .next (s.fence l x) := rfl
  have interrupt (x : IntSource) : exec (.interruptEntry l x) s = .next (if s.mayInterrupt l x then s.trapLane l (.interrupt x) else s) := rfl
  refine ⟨fun det => ⟨?_, ?_⟩, fun a ha => ?_, fun a ha => ?_, ?_, ?_, fun hd => ?_, fun hd hm => ?_, fun hb => ?_, fun hm => ?_⟩
  · show Host.Outcome.next (s.contextWrite l det false) = _
    unfold State.contextWrite
    rw [hr]
    rfl
  · show Host.Outcome.next (s.contextWrite l det true) = _
    unfold State.contextWrite
    rw [hr]
    rfl
  · rw [fence, State.fence, hr]
    exact congrArg Host.Outcome.next (ite_and_eq_true ha _ _)
  · have named : (a == 0x40020060#32 || a == 0x40030018#32) = true := by simpa using ha
    rw [fence, State.fence, hr]
    exact congrArg Host.Outcome.next (ite_and_eq_true named _ _)
  · rw [fence, State.fence, hr]
    rfl
  · rw [fence, State.fence, hr]
    rfl
  · rw [interrupt, if_neg (by simp [State.mayInterrupt, hd])]
  · rw [interrupt, if_pos (by simp [State.mayInterrupt, hr, hd, hm])]
  · rw [interrupt, if_pos (by simp [State.mayInterrupt, hr, State.batchReady, hb])]
  · rw [interrupt, if_pos (by simp [State.mayInterrupt, lanesRun_of_runs hr, hm])]

/-! ### Commit records (R93, R95) -/

theorem cbUsed_block (l : Lane) : (LSC_CB_USED l).block = 3 ∧ (LSC_CB_PEAK l).block = 3 := by cases l <;> decide +kernel

theorem peak_parts (s : State) (f : Field) (v : Nat) : (s.peak f v).pst = s.pst ∧ ∀ l, (s.peak f v).lane l = s.lane l := by
  unfold State.peak
  split
  · exact ⟨rfl, fun l => wr_lane ..⟩
  · exact ⟨rfl, fun _ => rfl⟩

/-- What a record touches: the lane that stores and the registers of the Lane Supervisor. -/
theorem recordStore_keeps (s : State) (l : Lane) (a v : Nat) : (s.recordStore l a v).1.pst = s.pst ∧ (s.recordStore l a v).1.lane l.other = s.lane l.other ∧
    ∀ f : Field, f.block ≠ 3 → (s.recordStore l a v).1.rd f = s.rd f := by
  have used := (cbUsed_block l).1
  have peak := (cbUsed_block l).2
  unfold State.recordStore
  dsimp only
  split
  · exact ⟨by simp [State.trapLane], by simp [State.trapLane], fun f hf => (onLane_rd ..).trans (rd_wr_ne _ _ (fun e => hf (congrArg (· / 67108864 % 16384) e)))⟩
  · refine ⟨?_, ?_, fun f hf => ?_⟩
    · rw [(peak_parts _ _ _).1, wr_pst, onLane_pst]
    · rw [(peak_parts _ _ _).2, wr_lane, onLane_lane_other]
    · rw [peak_rd_ne _ (fun e => hf ((congrArg (· / 67108864 % 16384) e).trans peak)), rd_wr_ne _ _ (fun e => hf ((congrArg (· / 67108864 % 16384) e).trans used)), onLane_rd]

/-- Settles O29: the record that is kept, the one too many, and the seal. -/
theorem commitRecordsAreKept : Obligations.CommitRecordsAreKept := by
  unfold Obligations.CommitRecordsAreKept
  intro s l hr
  refine ⟨fun a v hd ha place => ?_, fun v k hv hd hs hk => ?_, fun v hd => ?_⟩
  · have does : exec (.commitRecordStore l a v) s = .next (s.recordStore l a.toNat v.toNat).1 := by
      rcases place with ⟨h0, h1, n1, n2, n3⟩ | h
      · exact commitRecordStore_register a v hr hd ⟨h0, h1⟩ ha (fun h => n1 (BitVec.eq_of_toNat_eq h)) (fun h => n2 (BitVec.eq_of_toNat_eq h)) (fun h => n3 (BitVec.eq_of_toNat_eq h))
      · exact commitRecordStore_pst a v hr hd h ha
    rw [Answers, does, Answers, does]
    refine ⟨fun room => ?_, fun full => ?_⟩
    · obtain ⟨fill, used⟩ := recordStore_fits s l a.toNat v.toNat room
      obtain ⟨pst, other, regs⟩ := recordStore_keeps s l a.toNat v.toNat
      exact ⟨_, rfl, fill, used, pst, other, regs⟩
    · exact ⟨_, rfl, recordStore_full s l a.toNat v.toNat full⟩
  · show execLscSeal l v s = _
    rw [lscSeal_runs v hr, State.sealWrite, if_neg (by simp [hd]), if_neg (by simp [hs]; omega), hk]
  · show execLscSeal l v s = _
    rw [lscSeal_runs v hr, State.sealWrite, if_pos (by simp [hd])]

/-! ### Lane faults (R87, R99, R100) -/

theorem discardIdle_fill (s : State) (m l : Lane) : ((s.discardIdle m).lane l).fill = (s.lane l).fill := by
  unfold State.discardIdle State.releaseBuf
  split
  · split
    · rfl
    · cases m <;> cases l <;> rfl
  · rfl

theorem claimSealed_fill (s : State) (m l : Lane) : ((s.claimSealed m).lane l).fill = (s.lane l).fill := by
  unfold State.claimSealed
  split
  · split
    · rfl
    · rename_i b _ _
      have o := coverFinal_only (k := b.k) (μ := 134217728) rfl (Only.refl (s.onLane m (fun x => { x with sealedBuf := some { b with active := true } })))
      rw [lane_part (only_part o .lanes rfl) (only_part o .sram rfl)]
      cases m <;> cases l <;> rfl
  · rfl

theorem lane_of_only {m : Nat} {s t : State} (o : Only m s t) (h23 : m.testBit 23 = false) (h24 : m.testBit 24 = false) (l : Lane) : t.lane l = s.lane l :=
  lane_part (only_part o .lanes h23) (only_part o .sram h24) l

theorem role_of {s t : State} {l : Lane} (hl : (t.lane l).leaving = (s.lane l).leaving) (hr : t.rd (roleField l) = s.rd (roleField l)) : t.role l = s.role l := by
  simp only [State.role, hl, hr]

/-- What the lane that is left behind keeps of its commit buffer: nothing; and the other lane's role stands. -/
theorem leave_parts (s : State) (l : Lane) (c : Nat) : ((s.leave l c).lane l).fill = [] ∧ (s.leave l c).role l.other = s.role l.other := by
  have used : (roleField l.other).key ≠ (LSC_CB_USED l).key := by cases l <;> decide +kernel
  unfold State.leave
  dsimp only
  constructor
  · rw [lscEvent_lane, lane_of_only (unwait_only (μ := 671088644) rfl (Only.refl _)) rfl rfl, discardIdle_fill, wr_lane, onLane_lane]
  · refine role_of (l := l.other) ?_ ?_
    · rw [lscEvent_lane, lane_of_only (unwait_only (μ := 671088644) rfl (Only.refl _)) rfl rfl, discard_leaving, leaving_wr, onLane_lane_other, raise_def, leaving_wr]
      cases l <;> simp [State.countSat, State.raiseIf] <;> split_ifs <;> rfl
    · rw [lscEvent_rd, only_rd (unwait_only (μ := 671088644) rfl (Only.refl _)) (block3 _ _ (roleField_block _) rfl),
        only_rd (discardIdle_only (μ := 8388608) rfl (Only.refl _)) (block3 _ _ (roleField_block _) rfl), rd_wr_ne _ _ used, onLane_rd, raise_def, rd_wr_ne _ _ (by cases l <;> decide),
        countSat_rd_ne _ (by cases l <;> decide) (by cases l <;> decide), rd_wr_ne _ _ (by cases l <;> decide)]

/-- What a takeover leaves: the Shadow lane is Active, or no lane is (R99). -/
theorem takeover_parts (s : State) (l : Lane) : ((s.takeover l).lane l).fill = (s.lane l).fill ∧
    (s.role l.other = roleShadow → (s.takeover l).rd (roleField l.other) = roleActive ∧ (s.takeover l).rd LSC_STATUS_TAKEOVER = 1) ∧
    (s.role l.other ≠ roleShadow → (s.takeover l).rd LSC_STATUS_NOLANE = 1 ∧ (s.takeover l).lsc.noLane = true) := by
  unfold State.takeover
  dsimp only
  split
  case isTrue shadow =>
    have units (u : State) : Only 17596481539584 u ((((u.dmaTakeover).portTakeover 0).portTakeover 1).pbTakeover) :=
      pbTakeover_only rfl (portTakeover_only rfl (portTakeover_only rfl (dmaTakeover_only rfl (Only.refl u))))
    have taken (u : State) {f : Field} (hf : f.block = 3) : ((((u.dmaTakeover).portTakeover 0).portTakeover 1).pbTakeover).rd f = u.rd f :=
      only_rd (units u) (block3 _ f hf rfl)
    refine ⟨?_, fun _ => ⟨?_, ?_⟩, fun h => absurd shadow h⟩
    · rw [lane_of_only (units _) rfl rfl, discardIdle_fill, claimSealed_fill, raise_def, wr_lane, setRole_lane]
    · rw [taken _ (roleField_block _), claim_rd _ _ _ (roleField_block _), raise_def, rd_wr_ne _ _ (by cases l <;> decide), setRole_rd]
      rfl
    · rw [taken _ rfl, claim_rd _ _ _ rfl, raise_def, rd_wr_same]
      rfl
  case isFalse alone =>
    have o (u : State) : Only 562949989072896 u u.bistAbandon := bistAbandon_only rfl (Only.refl u)
    refine ⟨?_, fun h => absurd h alone, fun _ => ⟨?_, ?_⟩⟩
    · rw [lane_of_only (o _) rfl rfl]
      exact congrArg LaneState.fill (wr_lane s LSC_STATUS_NOLANE 1 l)
    · rw [only_rd (o _) (by decide)]
      exact rd_wr_same (s := s) (f := LSC_STATUS_NOLANE) (v := 1)
    · rw [only_part (o _) .lsc rfl]

theorem lscEvent_lsc (s : State) (k : Nat) (p : Octets) : (s.lscEvent k p).lsc = s.lsc := only_part (lscEvent_only (μ := 33554432) rfl (Only.refl s)) .lsc rfl

theorem settle_noLane (s : State) (k : Nat) : (s.settle k).lsc.noLane = s.lsc.noLane := by
  unfold State.settle
  split
  · rfl
  · dsimp only
    split
    · rfl
    · split
      · rw [lscEvent_lsc]
        rfl
      · rfl

/-- What is settled and reported after a lane is out leaves the lanes and the role of the other (R100). -/
theorem settled_parts (s : State) (l : Lane) : (((s.settleAlone).rldLaneOut l).lane l) = s.lane l ∧ ((s.settleAlone).rldLaneOut l).lsc.noLane = s.lsc.noLane ∧
    ∀ f : Field, f.block = 3 → f.key ≠ LSC_ROLE_SUSPECT.key → f.key ≠ LSC_ROLE_SUSP_CNT.key → ((s.settleAlone).rldLaneOut l).rd f = s.rd f := by
  have o : Only 2674132571660288 s.settleAlone (s.settleAlone.rldLaneOut l) := rldLaneOut_only rfl (Only.refl _)
  refine ⟨?_, ?_, fun f hf h1 h2 => ?_⟩
  · rw [lane_of_only o rfl rfl, (settleAlone_facts s l).1]
  · have lsc : (s.settleAlone.rldLaneOut l).lsc = s.settleAlone.lsc := only_part o .lsc rfl
    rw [lsc]
    unfold State.settleAlone
    split
    · split
      · split
        · rfl
        · exact settle_noLane s _
      · rfl
    · rfl
  · rw [only_rd o (block3 _ f hf rfl), (settleAlone_facts s l).2 f h1 h2]

/-- What the other lane becomes where a lane is taken out (R99, R100). -/
theorem takeOut_parts {s : State} {l : Lane} (c : Nat) (h : s.role l ≠ roleOut ∧ s.role l ≠ roleOff ∧ s.role l ≠ roleBist) : ((s.takeOut l c).lane l).fill = [] ∧
    (s.role l = roleActive → s.role l.other = roleShadow → (s.takeOut l c).rd (roleField l.other) = roleActive ∧ (s.takeOut l c).rd LSC_STATUS_TAKEOVER = 1) ∧
    (s.role l = roleActive → s.role l.other ≠ roleShadow → (s.takeOut l c).rd LSC_STATUS_NOLANE = 1 ∧ (s.takeOut l c).lsc.noLane = true) := by
  obtain ⟨fill, other⟩ := leave_parts s l c
  unfold State.takeOut
  dsimp only
  rw [if_neg (by tauto)]
  split
  case isTrue active =>
    obtain ⟨fillT, shadow, alone⟩ := takeover_parts (s.leave l c) l
    rw [other] at shadow alone
    obtain ⟨lane, noLane, regs⟩ := settled_parts ((s.leave l c).takeover l) l
    refine ⟨by rw [lane, fillT, fill], fun _ hs => ⟨?_, ?_⟩, fun _ hs => ⟨?_, ?_⟩⟩
    · rw [regs _ (roleField_block _) (by cases l <;> decide) (by cases l <;> decide), (shadow hs).1]
    · rw [regs _ rfl (by decide) (by decide), (shadow hs).2]
    · rw [regs _ rfl (by decide) (by decide), (alone hs).1]
    · rw [noLane, (alone hs).2]
  case isFalse passive =>
    exact ⟨by rw [(settled_parts _ l).1, fill], fun active => absurd active passive, fun active => absurd active passive⟩

/-- A lane is taken out: what it leaves behind, and who follows (R87, R99, R100). -/
structure TakenOut (s t : State) (l : Lane) (c : Nat) : Prop where
  leaving : (t.lane l).leaving = true
  cause : t.rd (causeField l) = c % 256
  out : t.rd (outFlag l) = 1
  fill : (t.lane l).fill = []
  follows : s.role l = roleActive → s.role l.other = roleShadow → t.rd (roleField l.other) = roleActive ∧ t.rd LSC_STATUS_TAKEOVER = 1
  alone : s.role l = roleActive → s.role l.other ≠ roleShadow → t.rd LSC_STATUS_NOLANE = 1 ∧ t.lsc.noLane = true

theorem TakenOut.of_roles {s u t : State} {l : Lane} {c : Nat} (h : TakenOut u t l c) (hr : ∀ m, u.role m = s.role m) : TakenOut s t l c :=
  { h with follows := by simpa only [hr] using h.follows, alone := by simpa only [hr] using h.alone }

theorem takeOut_takenOut {s : State} {l : Lane} (c : Nat) (h : s.role l ≠ roleOut ∧ s.role l ≠ roleOff ∧ s.role l ≠ roleBist) : TakenOut s (s.takeOut l c) l c := by
  obtain ⟨leaving, cause, out⟩ := takeOut_facts s l c h
  obtain ⟨fill, follows, alone⟩ := takeOut_parts c h
  exact ⟨leaving, cause, out, fill, follows, alone⟩

theorem laneFault_takenOut {s : State} {l : Lane} (c : Nat) (h : s.role l ≠ roleOut ∧ s.role l ≠ roleOff ∧ s.role l ≠ roleBist) : TakenOut s (s.laneFault l c) l c := by
  unfold State.laneFault
  dsimp only
  split
  · have role := drEnd_role s none false false
    exact (takeOut_takenOut c (by rw [role]; exact h)).of_roles role
  · exact takeOut_takenOut c h

/-- A fault that first notes something elsewhere takes the lane out as one that does not. -/
theorem laneFault_after {s u : State} {l : Lane} (c : Nat) (h : s.role l ≠ roleOut ∧ s.role l ≠ roleOff ∧ s.role l ≠ roleBist) (hr : ∀ m, u.role m = s.role m) : TakenOut s (u.laneFault l c) l c :=
  (laneFault_takenOut c (by rw [hr]; exact h)).of_roles hr

theorem wr_role (s : State) {f : Field} (v : Nat) (m : Lane) (h : f.block ≠ 3) : (s.wr f v).role m = s.role m :=
  role_of (leaving_wr s f v m) (rd_wr_ne _ _ (fun e => h ((congrArg (· / 67108864 % 16384) e).symm.trans (roleField_block m))))

theorem role_of_only {μ : Nat} {s t : State} (o : Only μ s t) (h3 : μ.testBit 3 = false) (h23 : μ.testBit 23 = false) (h24 : μ.testBit 24 = false) (m : Lane) : t.role m = s.role m :=
  role_keep m (lane_of_only o h23 h24 m) (only_rd o (block3 _ _ (roleField_block m) h3))

theorem faultOf_takenOut {s : State} {l : Lane} (kind : LaneFaultKind) (h : s.role l ≠ roleOut ∧ s.role l ≠ roleOff ∧ s.role l ≠ roleBist) : TakenOut s (s.faultOf l kind) l (faultCause kind) := by
  have counted (u : State) (m : Lane) : (u.countAgainst l 2).role m = u.role m := role_of_only (countAgainst_only (μ := 134217728) rfl (Only.refl u)) rfl rfl rfl m
  cases kind with
  | lockstep => exact laneFault_takenOut _ h
  | sram => exact laneFault_after _ h (counted s)
  | felterEntry => exact laneFault_after _ h (wr_role s 1 · (by decide))
  | escortMemory => exact laneFault_after _ h (wr_role s 1 · (by decide))
  | unit u =>
    refine laneFault_after _ h (fun m => ?_)
    have noted : (((s.wr SAF_UNITFLT_UNIT (u.val + 1)).wr SAF_UNITFLT_LANE l.num).wr SAF_STATUS_UNITFLT 1).role m = s.role m := by
      rw [wr_role _ _ m (by decide), wr_role _ _ m (by decide), wr_role _ _ m (by decide)]
    exact (role_of_only (post_only (μ := 33554432) rfl (Only.refl _)) rfl rfl rfl m).trans noted
  | poisonedLoad =>
    refine laneFault_after _ h (fun m => (counted _ m).trans ?_)
    exact role_of_only (parityError_only (n := 1) (μ := 2097152) rfl (Only.refl s)) rfl rfl rfl m

/-- Settles O31: a fault of any kind is a lane taken out. -/
theorem laneFaultsTakeOut : Obligations.LaneFaultsTakeOut := by
  unfold Obligations.LaneFaultsTakeOut
  intro s l kind hr
  have does : exec (.laneFault l kind) s = .next (s.faultOf l kind) := congrArg Host.Outcome.next (whenLanes_run hr)
  rw [Answers, does, Answers, does]
  refine ⟨fun h => ?_, fun h hk hd => ?_⟩
  · have out := faultOf_takenOut kind h
    refine ⟨_, rfl, out.leaving, ?_, ?_, out.out, out.fill, out.follows, out.alone⟩
    · rw [State.role, out.leaving]
      rfl
    · rw [out.cause]
      cases kind <;> rfl
  · subst hk
    have stands : s.faultOf l .lockstep = s := by
      show s.laneFault l causeLockstep = s
      rw [State.laneFault, if_neg hd, State.takeOut]
      exact if_pos h
    exact ⟨_, rfl, by rw [stands], by rw [stands], fun m => by rw [stands]⟩

/-! ### What follows a seal (R94, R95, R99, R100, R103) -/

/-- A seal of lane `l` stands: its buffer stays empty, no seal is in progress, and its read index is not moved. -/
structure SealStands (l : Lane) (s t : State) : Prop where
  empty : (s.lane l).fill = [] ∧ (s.lane l).sealing = none → (t.lane l).fill = [] ∧ (t.lane l).sealing = none
  index : t.rd (CRZ_EQ_RD_RD l) = s.rd (CRZ_EQ_RD_RD l)

namespace SealStands
variable {l : Lane} {r s t : State}

theorem refl (s : State) : SealStands l s s := ⟨id, rfl⟩

theorem trans (a : SealStands l r s) (b : SealStands l s t) : SealStands l r t := ⟨b.empty ∘ a.empty, b.index.trans a.index⟩

theorem lane (a : SealStands l r s) (hl : t.lane l = s.lane l) (hr : t.rd (CRZ_EQ_RD_RD l) = s.rd (CRZ_EQ_RD_RD l)) : SealStands l r t :=
  ⟨fun h => by rw [hl]; exact a.empty h, hr.trans a.index⟩

theorem wr (a : SealStands l r s) {f : Field} {v : Nat} (h : f.block ≠ 2) : SealStands l r (s.wr f v) :=
  a.lane (wr_lane ..) (rd_wr_ne _ _ (fun e => h ((congrArg (· / 67108864 % 16384) e).symm.trans (by cases l <;> decide))))

theorem wrOther (a : SealStands l r s) {f : Field} {v : Nat} (h : (CRZ_EQ_RD_RD l).key ≠ f.key) : SealStands l r (s.wr f v) := a.lane (wr_lane ..) (rd_wr_ne _ _ h)

theorem onOther (a : SealStands l r s) (f : LaneState → LaneState) : SealStands l r (s.onLane l.other f) :=
  a.lane (by cases l <;> rfl) (onLane_rd ..)

theorem setFlt (a : SealStands l r s) (x : FelterState) : SealStands l r { s with flt := x } := a.lane (by cases l <;> rfl) rfl

theorem setEsc (a : SealStands l r s) (m : Lane) (x : EscortEngine) : SealStands l r (s.setEsc m x) := by
  cases m <;> exact a.lane (by cases l <;> rfl) rfl

theorem mapSealed (a : SealStands l r s) (bs : List Batch) : SealStands l r { s with crz := { s.crz with sealed := bs } } := a.lane (by cases l <;> rfl) rfl

theorem setLsc (a : SealStands l r s) (x : Supervisor) : SealStands l r { s with lsc := x } := a.lane (by cases l <;> rfl) rfl

theorem raise (a : SealStands l r s) {f : Field} (h : f.block ≠ 2) : SealStands l r (s.raise f) := by
  rw [raise_def]
  exact a.wr h

theorem mask (a : SealStands l r s) {m : Nat} (o : Only m s t) (h2 : m.testBit 2 = false) (h23 : m.testBit 23 = false) (h24 : m.testBit 24 = false) : SealStands l r t :=
  a.lane (lane_of_only o h23 h24 l) (only_rd o (by
    have hb : (CRZ_EQ_RD_RD l).block = 2 := by cases l <;> decide
    simp [hb, h2]))

theorem onLane (a : SealStands l r s) (m : Lane) {f : LaneState → LaneState} (hf : ∀ x, x.fill = [] ∧ x.sealing = none → (f x).fill = [] ∧ (f x).sealing = none) : SealStands l r (s.onLane m f) := by
  refine ⟨fun h => ?_, (onLane_rd ..).trans a.index⟩
  have := a.empty h
  cases m <;> cases l <;> first | exact this | exact hf _ this

theorem ite {x y : State} {c : Prop} [Decidable c] (hx : SealStands l r x) (hy : SealStands l r y) : SealStands l r (if c then x else y) := by
  split
  · exact hx
  · exact hy

theorem setRole (a : SealStands l r s) (m : Lane) (n c : Nat) : SealStands l r (s.setRole m n c) :=
  a.mask (setRole_only (μ := 33554440) rfl (Only.refl _)) rfl rfl rfl

theorem event (a : SealStands l r s) (k : Nat) (p : Octets) : SealStands l r (s.lscEvent k p) := a.mask (lscEvent_only (μ := 33554432) rfl (Only.refl _)) rfl rfl rfl

theorem discard (a : SealStands l r s) (m : Lane) : SealStands l r (s.discardIdle m) := by
  unfold State.discardIdle State.releaseBuf
  split
  · exact .ite a (a.onLane m (fun _ h => h))
  · exact a

theorem claim (a : SealStands l r s) (m : Lane) : SealStands l r (s.claimSealed m) := by
  unfold State.claimSealed
  split
  · refine .ite a (SealStands.mask ?_ (coverFinal_only (μ := 134217728) rfl (Only.refl _)) rfl rfl rfl)
    exact a.onLane m (fun _ h => h)
  · exact a

theorem unwait (a : SealStands l r s) (m : Lane) (p : Batch → Bool) : SealStands l r (s.unwait m p) :=
  a.lane (lane_of_only (unwait_only (μ := 671088644) rfl (Only.refl _)) rfl rfl l) ((unwait_facts s m p).2 _ (by cases l <;> decide))

theorem settle (a : SealStands l r s) (k : Nat) : SealStands l r (s.settle k) := a.mask (settle_only (μ := 301989896) rfl (Only.refl _)) rfl rfl rfl

theorem leave (a : SealStands l r s) (m : Lane) (c : Nat) : SealStands l r (s.leave m c) := by
  have cause := (cause_block m).1
  have out := (cause_block m).2
  have outs : (outsField m).block = 3 := by cases m <;> decide
  have used := (cbUsed_block m).1
  have counted : SealStands l r ((s.wr (causeField m) c).countSat (outsField m) LSC_STATUS_SVCSAT) := by
    have b : SealStands l r (s.wr (causeField m) c) := a.wr (by omega)
    unfold State.countSat State.raiseIf
    dsimp only
    refine .ite (.ite ((b.wr (by omega)).raise (by decide)) (b.wr (by omega))) b
  unfold State.leave
  exact (((((counted.raise (by omega)).onLane m (fun _ _ => ⟨rfl, rfl⟩)).wr (by omega)).discard m).unwait m _).event _ _

theorem takeover (a : SealStands l r s) (m : Lane) : SealStands l r (s.takeover m) := by
  unfold State.takeover
  refine .ite ?_ ?_
  · have o (u : State) : Only 17596481539584 u ((((u.dmaTakeover).portTakeover 0).portTakeover 1).pbTakeover) :=
      pbTakeover_only rfl (portTakeover_only rfl (portTakeover_only rfl (dmaTakeover_only rfl (Only.refl u))))
    exact ((((a.setRole _ _ _).raise (by decide)).claim _).discard _).mask (o _) rfl rfl rfl
  · have b : SealStands l r (s.raise LSC_STATUS_NOLANE) := a.raise (by decide)
    refine SealStands.mask (s := { s.raise LSC_STATUS_NOLANE with lsc := { s.lsc with noLane := true } }) ?_ (bistAbandon_only (μ := 562949989072896) rfl (Only.refl _)) rfl rfl rfl
    exact b.lane (by cases l <;> rfl) rfl

theorem takeOut (a : SealStands l r s) (m : Lane) (c : Nat) : SealStands l r (s.takeOut m c) := by
  unfold State.takeOut
  refine .ite a ?_
  have left : SealStands l r (if s.role m = roleActive then (s.leave m c).takeover m else s.leave m c) := .ite ((a.leave m c).takeover m) (a.leave m c)
  exact (left.mask (settleAlone_only (μ := 301989896) rfl (Only.refl _)) rfl rfl rfl).mask (rldLaneOut_only (μ := 2674132571660288) rfl (Only.refl _)) rfl rfl rfl

theorem swapRoles (a : SealStands l r s) (m : Lane) : SealStands l r (s.swapRoles m) := by
  unfold State.swapRoles
  exact .ite (((a.setRole _ _ _).setRole _ _ _).claim _) a

theorem mismatch (a : SealStands l r s) (k : Nat) (m : Lane) : SealStands l r (s.mismatch k m) := by
  have b := ((a.raise (f := LSC_STATUS_MISMATCH) (by decide)).wr (f := LSC_MIS_IDX_IDX) (v := k) (by decide)).event 0x02 (le 8 k ++ [octet (b2n (s.on LSC_ROLE_SUSPECT))])
  unfold State.mismatch
  refine takeOut (.ite ?_ ?_) m _
  · exact (((b.wr (by decide)).raise (by decide)).event _ _).settle k
  · exact (((b.wr (f := LSC_ROLE_SUSPECT) (v := 1) (by decide)).raise (f := LSC_STATUS_SUSPECT) (by decide)).wr (f := LSC_ROLE_SUSP_CNT) (v := 64) (by decide)).lane (by cases l <;> rfl) rfl

theorem discardTaken (a : SealStands l r s) (k : Nat) : SealStands l r (s.discardTaken k) := by
  have drop (u : State) (h : SealStands l r u) (m : Lane) : SealStands l r (if (u.lane m).sealedBuf.map (·.k) = some k ∧ u.taken m.other k = true then u.discardIdle m else u) := .ite (h.discard m) h
  exact drop _ (drop _ a .A) .B

theorem compare (a : SealStands l r s) (k : Nat) : SealStands l r (s.compare k) := by
  have b := a.discardTaken k
  unfold State.compare
  split
  · exact a
  · exact .ite (.ite (b.settle k) (b.mismatch k _)) (.ite a (.ite (b.settle k) b))

theorem setStep (a : SealStands l r s) (p : UpdateStep) : SealStands l r (s.setStep p) := a.lane (by cases l <;> rfl) rfl

theorem upTo (a : SealStands l r s) (n : Nat) : SealStands l r (s.upTo n) := a.mask (upTo_only (μ := 2674132571660288) rfl (Only.refl _)) rfl rfl rfl

theorem openWindow (a : SealStands l r s) : SealStands l r s.openWindow := by
  have b := (a.setStep .none).takeOut .A causeUpdate
  unfold State.openWindow
  exact ((b.wr (f := LSC_CTRL_SPLIT) (by decide)).wr (f := PST_SETSEL_TRIAL) (by decide)).upTo _

theorem rldSeal (a : SealStands l r s) (m : Lane) : SealStands l r (s.rldSeal m) := by
  unfold State.rldSeal
  split
  · exact .ite (a.swapRoles _).openWindow a
  · exact .ite (((a.swapRoles _).setStep _).takeOut _ _) a
  · exact .ite (((a.swapRoles _).setStep _).takeOut _ _) a
  · exact a

theorem rldShadow (a : SealStands l r s) (m : Lane) : SealStands l r (s.rldShadow m) := by
  unfold State.rldShadow
  exact .ite (((a.wr (f := LSC_CTRL_SPLIT) (by decide)).setStep _).upTo _) (.ite (a.setStep _) a)

/-- What the Active lane copies into the joining lane is not its own (R103). -/
theorem copied (a : SealStands l r s) (split : Bool) : SealStands l r ((if split then s else s.copyRegions l).copyUnits l) := by
  have units (u : State) : SealStands l u (u.copyUnits l) := by
    unfold State.copyUnits
    refine mapSealed (wrOther (wrOther (setEsc (setFlt (onOther (refl u) _) _) _ _) ?_) ?_) _ <;> cases l <;> decide
  have regions : SealStands l s (s.copyRegions l) := (refl s).lane (by cases l <;> rfl) (onLane_rd ..)
  split
  · exact a.trans (units s)
  · exact a.trans (regions.trans (units _))

theorem transfer (a : SealStands l r s) (j : Nat) : SealStands l r (s.transfer l j) := by
  unfold State.transfer
  refine .ite a (.ite (a.takeOut _ _) (rldShadow ?_ _))
  refine onLane ?_ _ (fun _ h => ⟨h.1, rfl⟩)
  exact ((a.copied _).setRole _ _ _).raise (by decide)

theorem slowCheck (a : SealStands l r s) (m : Lane) (p : Option (Nat × Bool)) : SealStands l r (s.slowCheck m p) := by
  unfold State.slowCheck
  split
  · exact a
  · exact .ite ((a.settle _).takeOut _ _) a

theorem activeSeal (a : SealStands l r s) (k : Nat) (p : Option (Nat × Bool)) : SealStands l r (s.activeSeal l k p) := by
  unfold State.activeSeal
  dsimp only
  generalize hu : ({ s.coverFinal k with lsc := { s.lsc with formedAt := s.elapsed } } : State) = u
  have b : SealStands l r u := by
    have cover : SealStands l r (s.coverFinal k) := a.mask (coverFinal_only (μ := 134217728) rfl (Only.refl _)) rfl rfl rfl
    subst hu
    exact cover.lane (by cases l <;> rfl) rfl
  clear hu
  have c := (b.slowCheck l p).transfer k
  generalize (u.slowCheck l p).transfer l k = v at c
  exact .ite (swapRoles (c.setLsc _) l) c

theorem onSaf (a : SealStands l r s) (f : SafState → SafState) : SealStands l r (s.onSaf f) := a.lane (by cases l <;> rfl) rfl

theorem bistStart (a : SealStands l r s) (m : Lane) (o : Nat) : SealStands l r (s.bistStart m o) := by
  have cause := (cause_block m).1
  have used := (cbUsed_block m).1
  have run : (bistRunField m).block ≠ 2 := by cases m <;> decide
  unfold State.bistStart
  refine wr (setRole (wr (unwait (discard (wr (onLane (onSaf (wr a (by decide)) _) m (fun _ _ => ⟨rfl, rfl⟩)) (by omega)) m) m _) (by omega)) _ _ _) run

theorem safSeal (a : SealStands l r s) : SealStands l r s.safSeal := by
  unfold State.safSeal
  split
  · exact .ite (a.bistStart _ _) ((a.onSaf _).raise (by decide))
  · refine .ite a (.ite (a.raise (by decide)) ?_)
    split
    · exact a
    · exact .ite (a.swapRoles _) (a.bistStart _ _)
end SealStands

end Sys2Proof.Machine

/-!
PROOFS. Seals, drains and the role commands (R94, R96, R97, R99, R104, R106).
-/
namespace Sys2Proof.Machine
set_option Elab.async false

/-! ### A seal completes (R94, R96) -/

/-- The correctable errors that LSC met at the seal, counted (R87). -/
def State.ceCounted (s : State) (l : Lane) (n : Nat) : State := s.addCount (LSC_CE_CNT_COUNT l) n LSC_STATUS_CEWRAP

theorem ceCounted_lane (s : State) (l : Lane) (n : Nat) (m : Lane) : (s.ceCounted l n).lane m = s.lane m := by
  unfold State.ceCounted State.addCount State.raiseIf
  dsimp only
  split <;> simp

theorem ceCounted_crz (s : State) (l : Lane) (n : Nat) : (s.ceCounted l n).crz = s.crz := by
  unfold State.ceCounted State.addCount State.raiseIf
  dsimp only
  split <;> simp

theorem ceCount_block (l : Lane) : (LSC_CE_CNT_COUNT l).block = 3 ∧ (LSC_CE_CNT_COUNT l).key ∉ lscMoves := by cases l <;> decide +kernel

theorem ceCounted_rd (s : State) (l : Lane) (n : Nat) : (s.ceCounted l n).rd (LSC_CE_CNT_COUNT l) = (s.rd (LSC_CE_CNT_COUNT l) + n) % 2 ^ (LSC_CE_CNT_COUNT l).width :=
  addCount_rd_same s (by cases l <;> decide)

theorem ceCounted_rd_block (s : State) (l : Lane) (n : Nat) {f : Field} (h : f.block ≠ 3) : (s.ceCounted l n).rd f = s.rd f :=
  addCount_rd_ne s (fun e => h ((congrArg (· / 67108864 % 16384) e).trans (ceCount_block l).1)) (fun e => h (congrArg (· / 67108864 % 16384) e))

theorem ceCounted_srgTable (s : State) (l : Lane) (n : Nat) : (s.ceCounted l n).srgTable l = s.srgTable l := by
  have base (i : Nat) : (s.ceCounted l n).rd (LSC_SRG_BASE_BASE i l) = s.rd (LSC_SRG_BASE_BASE i l) := by
    refine addCount_rd_ne s ?_ ?_ <;> cases l <;> simp only [Field.key, LSC_SRG_BASE_BASE, LSC_CE_CNT_COUNT, LSC_STATUS_CEWRAP, lanePart] <;> omega
  have len (i : Nat) : (s.ceCounted l n).rd (LSC_SRG_LEN_LEN i l) = s.rd (LSC_SRG_LEN_LEN i l) := by
    refine addCount_rd_ne s ?_ ?_ <;> cases l <;> simp only [Field.key, LSC_SRG_LEN_LEN, LSC_CE_CNT_COUNT, LSC_STATUS_CEWRAP, lanePart] <;> omega
  simp only [State.srgTable, base, len]

theorem ceCounted_stateDigest (s : State) (l : Lane) (n k : Nat) : (s.ceCounted l n).stateDigest l k = s.stateDigest l k := by
  simp only [State.stateDigest, State.tableOctets, State.regionOctets, ceCounted_srgTable, ceCounted_lane]

/-- The batch at the front is read off the Sequencer's registers and the lane's SRAM (R74). -/
theorem frontHeader_same {s t : State} {l : Lane} (hr : ∀ f : Field, f.block = 2 → t.rd f = s.rd f) (hs : (t.lane l).sram = (s.lane l).sram) : t.frontHeader l = s.frontHeader l := by
  have rdI := hr (CRZ_EQ_RD_RD l) (by cases l <;> decide)
  have wrI := hr (CRZ_EQ_WR_WR l) (eqwr_block l)
  have base := hr CRZ_EQ_BASE_BASE rfl
  have size := hr CRZ_EQ_SIZE_SIZE rfl
  unfold State.frontHeader State.batchReady State.eqSlot State.eqSize
  rw [rdI, wrI, base, size, hs]

theorem advanceRead_parts (s : State) (l : Lane) : ((s.advanceRead l).lane l).fill = (s.lane l).fill ∧ ((s.advanceRead l).lane l).sealing = (s.lane l).sealing ∧
    ∀ h, s.frontHeader l = some h → (s.advanceRead l).rd (CRZ_EQ_RD_RD l) = (s.rd (CRZ_EQ_RD_RD l) + 2 + leAt h 8 4) % s.eqSize % 2 ^ (CRZ_EQ_RD_RD l).width := by
  unfold State.advanceRead
  split
  · exact ⟨rfl, rfl, fun h hh => by simp_all⟩
  · rename_i h hh
    dsimp only
    refine ⟨by rw [onLane_lane, wr_lane], by rw [onLane_lane, wr_lane], fun h' hh' => ?_⟩
    obtain rfl : h = h' := Option.some.inj (hh.symm.trans hh')
    rw [onLane_rd, rd_wr_same]

theorem formDigest_lane (s : State) (l : Lane) (k : Nat) : ((s.formDigest l k).lane l).fill = [] ∧ ((s.formDigest l k).lane l).sealing = none ∧ ((s.formDigest l k).lane l).sram = (s.lane l).sram := by
  have units (u : State) : ((u.felterSealed l k).escortSealed l k).lane l = u.lane l :=
    lane_of_only (escortSealed_only (μ := 2684354560) rfl (felterSealed_only rfl (Only.refl u))) rfl rfl l
  unfold State.formDigest
  dsimp only
  rw [units]
  simp only [wr_lane, onLane_lane, and_self]

theorem formDigest_ceCount (s : State) (l : Lane) (k : Nat) : (s.formDigest l k).rd (LSC_CE_CNT_COUNT l) = s.rd (LSC_CE_CNT_COUNT l) := by
  have units (u : State) : ((u.felterSealed l k).escortSealed l k).rd (LSC_CE_CNT_COUNT l) = u.rd (LSC_CE_CNT_COUNT l) :=
    only_rd (escortSealed_only (μ := 2684354560) rfl (felterSealed_only rfl (Only.refl u))) (block3 _ _ (ceCount_block l).1 rfl)
  have index : (LSC_CE_CNT_COUNT l).key ≠ (digestIndex l).key ∧ (LSC_CE_CNT_COUNT l).key ≠ (digestField l).key ∧ (LSC_CE_CNT_COUNT l).key ≠ (LSC_CB_USED l).key := by cases l <;> decide +kernel
  unfold State.formDigest
  dsimp only
  rw [units, rd_wr_ne _ _ index.1, rd_wr_ne _ _ index.2.1, rd_wr_ne _ _ index.2.2, onLane_rd]

/-- What stands once the digest is formed and the batch at the front is passed, or held for Day Rest. -/
def State.digested (s : State) (l : Lane) (k : Nat) : State :=
  if (s.crz.rest && s.rd BHM0_DR_KIDX_IDX == k) = true then (s.formDigest l k).onLane l (fun x => { x with held := true, closed := true }) else (s.formDigest l k).advanceRead l

theorem digested_lane (s : State) (l : Lane) (k : Nat) : ((s.digested l k).lane l).fill = [] ∧ ((s.digested l k).lane l).sealing = none := by
  obtain ⟨fill, sealing', -⟩ := formDigest_lane s l k
  unfold State.digested
  split
  · rw [onLane_lane]
    exact ⟨fill, sealing'⟩
  · obtain ⟨fill', sealing'', -⟩ := advanceRead_parts (s.formDigest l k) l
    exact ⟨fill'.trans fill, sealing''.trans sealing'⟩

theorem digested_index {s : State} {l : Lane} {k : Nat} (hr : s.crz.rest = false) {h : Octets} (hh : s.frontHeader l = some h) :
    (s.digested l k).rd (CRZ_EQ_RD_RD l) = (s.rd (CRZ_EQ_RD_RD l) + 2 + leAt h 8 4) % s.eqSize % 2 ^ (CRZ_EQ_RD_RD l).width := by
  have o : Only 2692743176 s (s.formDigest l k) := formDigest_only rfl (Only.refl s)
  have crz (f : Field) (hf : f.block = 2) : (s.formDigest l k).rd f = s.rd f := only_rd o (by rw [hf]; rfl)
  have front := (frontHeader_same crz (formDigest_lane s l k).2.2).trans hh
  unfold State.digested
  rw [hr, Bool.false_and, if_neg Bool.false_ne_true, (advanceRead_parts _ l).2.2 h front, crz _ (by cases l <;> decide)]
  unfold State.eqSize
  rw [crz _ rfl]

theorem digested_lk (s : State) (l : Lane) (k : Nat) : LK (s.formDigest l k) (s.digested l k) := by
  unfold State.digested
  exact .ite ((LK.refl _).onLane _ _) ((LK.refl _).mask (advanceRead_only (μ := 8388612) rfl (Only.refl _)) rfl)

/-- What follows the digest: FINAL and the transfer of the Active lane, the comparison, the update's steps and the BIST (R94, R99, R103). -/
def State.sealFollowed (s : State) (l : Lane) (k : Nat) (prev : Option (Nat × Bool)) (was : Bool) : State :=
  let s := ((if was then s.activeSeal l k prev else s).compare k).rldSeal l
  (if was then s.safSeal else s).restHalt

theorem sealFollowed_lk (s : State) (l : Lane) (k : Nat) (prev : Option (Nat × Bool)) (was : Bool) : LK s (s.sealFollowed l k prev was) := by
  have compared := lk_rldSeal (lk_compare (LK.ite (c := was = true) (lk_activeSeal (LK.refl s) l k prev) (LK.refl s)) k) l
  unfold State.sealFollowed
  exact (LK.ite (lk_safSeal compared) compared).mask (restHalt_only (μ := 268435968) rfl (Only.refl _)) rfl

theorem sealFollowed_stands (s : State) (l : Lane) (k : Nat) (prev : Option (Nat × Bool)) (was : Bool) : SealStands l s (s.sealFollowed l k prev was) := by
  have compared := ((SealStands.ite (l := l) (r := s) (c := was = true) ((SealStands.refl s).activeSeal k prev) (SealStands.refl s)).compare k).rldSeal l
  unfold State.sealFollowed
  exact (SealStands.ite compared.safSeal compared).mask (restHalt_only (μ := 268435968) rfl (Only.refl _)) rfl rfl rfl

theorem sealComplete_eq {s : State} {l : Lane} {k : Nat} (n : Nat) (hs : (s.lane l).sealing = some k) (hb : (s.lane l).sealedBuf = none) :
    s.sealComplete l n = ((s.ceCounted l n).digested l k).sealFollowed l k ((s.ceCounted l n).lane l).formed ((s.ceCounted l n).role l == roleActive) := by
  have role : (s.ceCounted l n).role l = s.role l :=
    role_of (congrArg LaneState.leaving (ceCounted_lane s l n l)) (addCount_rd_ne s (by cases l <;> decide) (by cases l <;> decide))
  have lane := ceCounted_lane s l n l
  have did : ((s.lane l).sealing.isSome && (s.lane l).sealedBuf.isNone) = true := by rw [hs, hb]; rfl
  have done : (s.ceCounted l n).sealDone l =
      ((if ((s.ceCounted l n).role l == roleActive) = true then ((s.ceCounted l n).digested l k).activeSeal l k ((s.ceCounted l n).lane l).formed else (s.ceCounted l n).digested l k).compare k).rldSeal l := by
    unfold State.sealDone
    rw [lane, hs]
    dsimp only
    rw [hb]
    rfl
  unfold State.sealComplete
  dsimp only
  rw [did, Bool.true_and]
  rw [show (s.addCount (LSC_CE_CNT_COUNT l) n LSC_STATUS_CEWRAP) = s.ceCounted l n from rfl, if_pos rfl, done, ← role]
  rfl

/-- A seal whose other buffer is held stalls (R95). -/
theorem sealComplete_stalled {s : State} {l : Lane} {k : Nat} (n : Nat) (hs : (s.lane l).sealing = some k) (hb : (s.lane l).sealedBuf.isSome = true) : s.sealComplete l n = s.restHalt := by
  have did : ((s.lane l).sealing.isSome && (s.lane l).sealedBuf.isNone) = false := by
    rw [hs, ← Option.not_isSome, hb]
    rfl
  have stands : s.sealDone l = s := by
    unfold State.sealDone
    rw [hs]
    exact if_pos hb
  unfold State.sealComplete
  dsimp only
  rw [did, if_neg Bool.false_ne_true, stands]
  rfl

/-- Settles O30: the digest is formed, the front passed, and nothing that follows touches either. -/
theorem sealsComplete : Obligations.SealsComplete := by
  unfold Obligations.SealsComplete
  intro s l k n hr hs
  have does : exec (.sealComplete l n) s = .next (s.sealComplete l n) := congrArg Host.Outcome.next (whenLanes_run hr)
  refine ⟨fun hb => ?_, fun hb => ?_⟩
  · rw [sealComplete_eq n hs hb] at does
    obtain ⟨digest, index⟩ := formDigest_facts (s.ceCounted l n) l k
    have followed := (digested_lk (s.ceCounted l n) l k).trans (sealFollowed_lk ((s.ceCounted l n).digested l k) l k ((s.ceCounted l n).lane l).formed ((s.ceCounted l n).role l == roleActive))
    have stands := sealFollowed_stands ((s.ceCounted l n).digested l k) l k ((s.ceCounted l n).lane l).formed ((s.ceCounted l n).role l == roleActive)
    obtain ⟨fill, sealing'⟩ := stands.empty (digested_lane _ l k)
    refine ⟨_, does, ?_, ?_, fill, sealing', ?_, fun hrest h hh => ?_⟩
    · rw [followed _ (digest_block l).1 (digest_stays l).1, digest, ceCounted_stateDigest]
      rfl
    · rw [followed _ (digest_block l).2 (digest_stays l).2, index]
    · rw [followed _ (ceCount_block l).1 (ceCount_block l).2, formDigest_ceCount, ceCounted_rd]
    · have front : (s.ceCounted l n).frontHeader l = some h :=
        (frontHeader_same (fun f hf => ceCounted_rd_block s l n (by omega)) (congrArg LaneState.sram (ceCounted_lane s l n l))).trans hh
      have rest : (s.ceCounted l n).crz.rest = false := by rw [ceCounted_crz, hrest]
      rw [stands.index, digested_index rest front, ceCounted_rd_block s l n (by cases l <;> decide)]
      unfold State.eqSize
      rw [ceCounted_rd_block s l n (by decide)]
  · rw [sealComplete_stalled n hs hb] at does
    have o : Only 268435968 s s.restHalt := restHalt_only rfl (Only.refl s)
    exact ⟨_, does, lane_of_only o rfl rfl .A, lane_of_only o rfl rfl .B, only_rd o (by cases l <;> decide)⟩

/-! ### Drains (R96, R97, R99) -/

/-- A commit record to TB_LOCK_CFG gives its fields their bits (R97). -/
theorem performRecord_lockCfg (s : State) (l : Lane) (k v : Nat) : s.performRecord l k 0x40010050 v =
    ((s.wr TB_LOCK_CFG_LOCK_N (bits v 24 8)).wr TB_LOCK_CFG_UNLOCK_THR (bits v 12 12)).wr TB_LOCK_CFG_LOCK_THR (bits v 0 12) := by
  obtain ⟨p, hp, e⟩ := performWrite_single (s := s) (org := .commit l k) (a := 0x40010050) (v := v) (x := cleanWrite) (by simp) (by decide) rfl rfl
  have fields : p.fields l = [(TB_LOCK_CFG_LOCK_N, .rw, false), (TB_LOCK_CFG_UNLOCK_THR, .rw, false), (TB_LOCK_CFG_LOCK_THR, .rw, false)] := by
    have h : (findReg 0x40010050).map (fun p => p.fields l) = some [(TB_LOCK_CFG_LOCK_N, .rw, false), (TB_LOCK_CFG_UNLOCK_THR, .rw, false), (TB_LOCK_CFG_LOCK_THR, .rw, false)] := rfl
    rw [hp] at h
    exact Option.some.inj h
  have noEffect (t : State) : t.afterWrite s 0x40010050 v cleanWrite = t := by simp [State.afterWrite]
  rw [State.performRecord, if_neg (by decide), e, takeEffect_plain rfl rfl rfl, noEffect]
  unfold State.writeFields
  rw [show (Origin.commit l k).lane = l from rfl, fields]
  simp only [List.foldl_cons, List.foldl_nil]
  rw [writeField_rw (by decide), writeField_rw (by decide), writeField_rw (by decide)]
  rfl

/-- The state in which the records of a Crease are performed (R96). -/
def State.drainOpened (s : State) (l : Lane) (b : SealedBuf) : State :=
  let s := { s with lsc := { s.lsc with drain := some ⟨b.k, l, false⟩, nextDrain := b.k + 1 } }
  let s := { s with flt := { s.flt with requests := [] } }
  ((s.guardEntry none).launchOpen b.k).recorderOpen b.k

theorem drainOpened_drain (s : State) (l : Lane) (b : SealedBuf) : (s.drainOpened l b).lsc.drain = some ⟨b.k, l, false⟩ := by
  unfold State.drainOpened
  dsimp only
  generalize hu : ({ s with lsc := _, flt := _ } : State) = u
  have o : Only 140858856857617 u (((u.guardEntry none).launchOpen b.k).recorderOpen b.k) := recorderOpen_only rfl (launchOpen_only rfl (guardEntry_only rfl (Only.refl u)))
  rw [only_part o .lsc rfl, ← hu]

/-- The units' own work at the end of a drain (R96). -/
def State.drainClosed (s : State) (l : Lane) (b : SealedBuf) : State :=
  { (s.felterBuild b.k l []).escortDrain l b.k with lsc := { ((s.felterBuild b.k l []).escortDrain l b.k).lsc with drain := some ⟨b.k, l, true⟩ } }

theorem drainRecords_eq (s : State) (l : Lane) (b : SealedBuf) : s.drainRecords l b ⟨none, [], none⟩ =
    if (performRecords l b.k b.records (s.drainOpened l b)).lsc.drain.isNone then performRecords l b.k b.records (s.drainOpened l b)
    else (performRecords l b.k b.records (s.drainOpened l b)).drainClosed l b := rfl

/-- The records of a drain performed, the units' own work of the drain leaves the other registers and the drain done (R96). -/
theorem drainRecords_after {s u : State} {l : Lane} {b : SealedBuf} (hu : performRecords l b.k b.records (s.drainOpened l b) = u) (hd : u.lsc.drain.isNone = false) :
    (s.drainRecords l b ⟨none, [], none⟩).lsc.drain = some ⟨b.k, l, true⟩ ∧ ∀ f : Field, f.block = 1 → (s.drainRecords l b ⟨none, [], none⟩).rd f = u.rd f := by
  have o : Only 1610612848 u ((u.felterBuild b.k l []).escortDrain l b.k) := escortDrain_only rfl (felterBuild_only rfl (Only.refl u))
  rw [drainRecords_eq, hu, hd, if_neg Bool.false_ne_true]
  refine ⟨rfl, fun f hf => ?_⟩
  show ((u.felterBuild b.k l []).escortDrain l b.k).rd f = u.rd f
  exact only_rd o (by rw [hf]; rfl)

theorem commitDrain_eq {s : State} {l : Lane} {b : SealedBuf} (m : DrainMeet) (hd : s.lsc.drain = none) (hl : s.drainLane = some (l, b)) (hm : s.drainMay l b.k = true) :
    s.commitDrain m = s.drainRecords l b m := by
  unfold State.commitDrain
  rw [hd, hl]
  exact if_pos hm

/-- A drain's buffer released, and no drain in progress (R96). -/
def State.drainReleased (s : State) (l : Lane) : State := { s.releaseBuf l with lsc := { s.lsc with drain := none } }

theorem drainComplete_eq {s : State} {d : Drain} (hd : s.lsc.drain = some d) (hdone : d.done = true) :
    ∃ u : State, s.drainComplete = (((u.drainReleased d.lane).safetyFrame d.k).heartbeatDrain).restHalt := by
  unfold State.drainComplete
  rw [hd]
  dsimp only
  rw [hdone]
  exact ⟨_, rfl⟩

/-- The end of a drain releases its buffer (R96). -/
theorem drainComplete_facts {s : State} {d : Drain} (hd : s.lsc.drain = some d) (hdone : d.done = true) : s.drainComplete.lsc.drain = none ∧ (s.drainComplete.lane d.lane).sealedBuf = none := by
  obtain ⟨u, eq⟩ := drainComplete_eq hd hdone
  have o (x : State) : Only 580542141562880 x (x.safetyFrame d.k).heartbeatDrain := heartbeatDrain_only rfl (safetyFrame_only rfl (Only.refl x))
  have released : (u.drainReleased d.lane).lsc.drain = none ∧ ((u.drainReleased d.lane).lane d.lane).sealedBuf = none := by
    unfold State.drainReleased State.releaseBuf
    cases d.lane <;> exact ⟨rfl, rfl⟩
  obtain ⟨drain, lanes⟩ := restHalt_facts ((u.drainReleased d.lane).safetyFrame d.k).heartbeatDrain
  rw [eq]
  refine ⟨?_, ?_⟩
  · rw [drain, only_part (o _) .lsc rfl, released.1]
  · rw [lanes, lane_of_only (o _) rfl rfl, released.2]

/-- Settles O32: the wait that ends, the records performed, and the buffer released. -/
theorem drainsRun : Obligations.DrainsRun := by
  unfold Obligations.DrainsRun
  refine ⟨fun s a k b hr ha hf hn hx ht hw => ?_, fun s l b m hu hd hl hm hrec => ?_, fun s l b v hu hd hl hm hrec => ?_, fun s d hu hd hdone => ?_⟩
  · show Host.Outcome.next (s.whenLanes State.cmpExpire) = _
    rw [whenLanes_run hr]
    unfold State.cmpExpire
    rw [ha]
    dsimp only
    rw [hf]
    dsimp only
    rw [if_neg (by simp [hw, hx]; omega)]
    rfl
  · have does : exec (.commitDrain m) s = .next (s.commitDrain m) := congrArg Host.Outcome.next (whenUp_up hu)
    rw [commitDrain_eq m hd hl hm] at does
    exact ⟨_, does, drainRecords_facts s l b m hrec⟩
  · have does : exec (.commitDrain ⟨none, [], none⟩) s = .next (s.commitDrain ⟨none, [], none⟩) := congrArg Host.Outcome.next (whenUp_up hu)
    rw [commitDrain_eq _ hd hl hm] at does
    have performed : performRecords l b.k b.records (s.drainOpened l b) = (s.drainOpened l b).performRecord l b.k 0x40010050 v := by
      rw [hrec]
      unfold performRecords
      rw [drainOpened_drain]
      rfl
    rw [performRecord_lockCfg] at performed
    obtain ⟨drain, regs⟩ := drainRecords_after performed (by simp [drainOpened_drain])
    refine ⟨_, does, ?_, ?_, ?_, drain⟩
    all_goals rw [regs _ rfl]
    · rw [rd_wr_same]
      exact bits_mod v 0 12
    · rw [rd_wr_ne _ _ (by decide), rd_wr_same]
      exact bits_mod v 12 12
    · rw [rd_wr_ne _ _ (by decide), rd_wr_ne _ _ (by decide), rd_wr_same]
      exact bits_mod v 24 8
  · have does : exec .drainComplete s = .next s.drainComplete := congrArg Host.Outcome.next (whenUp_up hu)
    exact ⟨_, does, drainComplete_facts hd hdone⟩

/-! ### The role commands (R99, R104, R106) -/

theorem rejoinCmd_facts (s : State) : s.rejoinCmd.rd LSC_ROLE_DEGRADED = 0 ∧ s.rejoinCmd.lsc = { s.lsc with rejoin := true } := by
  unfold State.rejoinCmd
  dsimp only
  split
  · rw [lscEvent_rd, lscEvent_lsc]
    exact ⟨wr_zero s LSC_ROLE_DEGRADED, rfl⟩
  · exact ⟨wr_zero s LSC_ROLE_DEGRADED, rfl⟩

/-- LSC_JOIN is a lane's own register: it takes the store of a lane that does not act as the Active lane (R17, R106). -/
theorem lscJoin_own {s : State} {l : Lane} (v : Word) (hr : s.laneRuns l = true) (hd : (s.lane l).det = false) : execLscJoin l v s = .next (s.joinWrite l v.toNat) := by
  have iv := v.isLt
  have store : s.laneStore l 0x40030104 4 v.toNat cleanWrite = s.performWrite (.service l) 0x40030104 v.toNat cleanWrite := by
    simp [State.laneStore, State.storeRegister, hr, hd, cleanWrite, State.ownRegister, Nat.mod_eq_of_lt iv]
  obtain ⟨p, hp, e⟩ := performWrite_single (s := s) (org := .service l) (a := 0x40030104) (v := v.toNat) (x := cleanWrite) (by simp) (by decide) rfl rfl
  show Host.Outcome.next (s.laneStore l 0x40030104 4 v.toNat cleanWrite) = _
  rw [store, e, takeEffect_core (t := s.joinWrite l v.toNat) rfl]

theorem joinWrite_joins {s : State} {l : Lane} {v : Nat} (hv : v % 2 = 1) (hr : s.laneRuns l = true) (hb : s.role l = roleBoot) (ha : s.role l.other = roleActive)
    (hd : s.rd LSC_ROLE_DEGRADED = 0) (hbl : s.blocked l = false) (hmay : s.rd LSC_CTRL_AUTOREJOIN ≠ 0 ∨ s.lsc.rejoin = true) :
    s.joinWrite l v = ({ s with lsc := { s.lsc with rejoin := false } } : State).setRole l roleJoining 0 := by
  have filled : (s.lane l).refilling = false := by
    unfold State.laneRuns at hr
    simp only [Bool.and_eq_true, Bool.not_eq_true'] at hr
    exact hr.1.2
  unfold State.joinWrite
  refine if_pos ⟨hv, hb, ?_, ?_, ha, ?_, ?_⟩
  · simpa [State.on] using hmay
  · simp [State.on, hd]
  · simp [hbl]
  · simp [filled]

/-- Settles O33: what each role command does with its key, and LSC_JOIN. -/
theorem roleCommands : Obligations.RoleCommands := by
  unfold Obligations.RoleCommands
  refine ⟨fun s l hs => ?_, fun s l v hr hd hb ha hdeg hbl hmay hv => ?_⟩
  · have swaps (key : BitVec 16) : exec (.swap l key) s = .next (if key = 0x5EA1#16 then s.swapCmd else s) := swap_does key hs
    have outA (key : BitVec 16) : exec (.takeoutA l key) s = .next (if key = 0x5EA1#16 then s.takeOutCmd .A else s) := takeoutA_does key hs
    have outB (key : BitVec 16) : exec (.takeoutB l key) s = .next (if key = 0x5EA1#16 then s.takeOutCmd .B else s) := takeoutB_does key hs
    have rejoins (key : BitVec 16) : exec (.rejoin l key) s = .next (if key = 0x5EA1#16 then s.rejoinCmd else s) := rejoin_does key hs
    refine ⟨fun a ha hsh => ?_, fun h => ?_, fun h => ?_, fun h1 h2 => ?_, fun h1 h2 => ?_, ?_, fun key hk => ⟨?_, ?_, ?_, ?_⟩⟩
    · rw [swaps, if_pos rfl]
      unfold State.swapCmd
      rw [ha]
      exact congrArg Host.Outcome.next (if_pos hsh)
    · obtain ⟨role, cause, out⟩ := takeOutCmd_facts s .A h
      exact ⟨_, outA _, role, cause, out⟩
    · obtain ⟨role, cause, out⟩ := takeOutCmd_facts s .B h
      exact ⟨_, outB _, role, cause, out⟩
    · rw [outA, if_pos rfl]
      unfold State.takeOutCmd
      exact congrArg Host.Outcome.next (if_neg (by rintro (h | ⟨h, h'⟩); exacts [h1 h, h2.elim (· h) (· h')]))
    · rw [outB, if_pos rfl]
      unfold State.takeOutCmd
      exact congrArg Host.Outcome.next (if_neg (by rintro (h | ⟨h, h'⟩); exacts [h1 h, h2.elim (· h) (· h')]))
    · exact ⟨_, rejoins _, rejoinCmd_facts s⟩
    · rw [swaps, if_neg hk]
    · rw [outA, if_neg hk]
    · rw [outB, if_neg hk]
    · rw [rejoins, if_neg hk]
  · have does : exec (.lscJoin l v) s = .next (s.joinWrite l v.toNat) := lscJoin_own v hr hd
    rw [joinWrite_joins hv hr hb ha hdeg hbl hmay] at does
    refine ⟨_, does, setRole_rd _ l _ _, ?_, ?_⟩
    · rw [setRole_ne _ _ _ _ _ (role_other l)]
      rfl
    · exact only_part (setRole_only (μ := 33554440) rfl (Only.refl _)) .lsc rfl

end Sys2Proof.Machine

/-!
PROOFS. Result records and the deadlines of actions (R121, R123, R124, R143).
-/
namespace Sys2Proof.Machine
set_option Elab.async false

/-! ### Records sent (R121) -/

theorem peak_flt (s : State) (f : Field) (v : Nat) : (s.peak f v).flt = s.flt ∧ (s.peak f v).bh = s.bh := by
  unfold State.peak
  split <;> exact ⟨rfl, rfl⟩

theorem count_flt (s : State) (f w : Field) : (s.count f w).flt = s.flt ∧ (s.count f w).bh = s.bh ∧ (s.count f w).waiting = s.waiting := by
  unfold State.count State.addCount State.raiseIf
  dsimp only
  split <;> exact ⟨rfl, rfl, rfl⟩

/-- The intake queue takes a record whole where it holds fewer than 16, with nothing else of the Felter moved (R123). -/
theorem intakeOffer_takes {s : State} (r : Octets) (h : s.flt.inq.length < 16) : (s.intakeOffer r).flt = { s.flt with inq := s.flt.inq ++ [r] } ∧ (s.intakeOffer r).bh = s.bh := by
  rw [State.intakeOffer, if_pos h]
  dsimp only
  exact ⟨(peak_flt _ _ _).1, (peak_flt _ _ _).2⟩

theorem intakeOffer_full {s : State} (r : Octets) (h : 16 ≤ s.flt.inq.length) : (s.intakeOffer r).flt = s.flt := by
  rw [State.intakeOffer, if_neg (by omega), (count_flt _ _ _).1]
  rfl

theorem intakeOffer_rd {s : State} (r : Octets) {f : Field} (h : s.flt.inq.length < 16) (h1 : f.key ≠ FLT_INQ_USED.key) (h2 : f.key ≠ FLT_INQ_PEAK.key) : (s.intakeOffer r).rd f = s.rd f := by
  rw [State.intakeOffer, if_pos h]
  dsimp only
  rw [peak_rd_ne _ h2, rd_wr_ne _ _ h1]
  rfl

/-- A record that leaves the Felter (R121). -/
def State.recordLeft (s : State) (r : ResultRecord) : State := { s with flt := { s.flt with records := s.flt.records.erase r } }

theorem sendRecord_eq {s : State} {r : ResultRecord} (h : s.flt.records.find? (fun x => decide (x.sendAt ≤ s.now)) = some r) :
    s.sendRecord = if (s.on FLT_CTRL_COLLECTOR && !r.district) = true then (s.recordLeft r).intakeOffer (s.recordOctets r)
      else ((s.recordLeft r).queueDatagram (s.rd BHM0_TPL_CFG_TC) none (s.recordOctets r)).count FLT_SEND_CNT_COUNT FLT_STATUS_CNTWRAP := by
  unfold State.sendRecord
  rw [h]
  rfl

/-- A datagram is formed of the template and the ports, whatever the Felter holds (R223). -/
theorem queueDatagram_recordLeft (s : State) (r : ResultRecord) (tc : Nat) (p : Octets) :
    ((s.recordLeft r).queueDatagram tc none p).bh = (s.queueDatagram tc none p).bh ∧ ((s.recordLeft r).queueDatagram tc none p).flt = (s.recordLeft r).flt ∧
      ∀ f : Field, ((s.recordLeft r).queueDatagram tc none p).rd f = s.rd f := ⟨rfl, rfl, fun _ => rfl⟩

/-! ### The intake of the collector (R124) -/

/-- A record taken from the intake queue (R124). -/
def State.dequeued (s : State) (rest : List Octets) : State := { s with flt := { s.flt with inq := rest } }.wr FLT_INQ_USED rest.length

theorem dequeued_rd (s : State) (rest : List Octets) {f : Field} (h : f.key ≠ FLT_INQ_USED.key) : (s.dequeued rest).rd f = s.rd f := rd_wr_ne _ _ h

/-- REPTAB is read off registers of its own (R124). -/
theorem dequeued_repTab (s : State) (rest : List Octets) : (s.dequeued rest).repTab = s.repTab := by
  have v0 (m : Nat) : (s.dequeued rest).rd (FLT_REPTAB_VALID0 m) = s.rd (FLT_REPTAB_VALID0 m) := dequeued_rd s rest (by simp only [Field.key, FLT_REPTAB_VALID0, FLT_INQ_USED]; omega)
  have v1 (m : Nat) : (s.dequeued rest).rd (FLT_REPTAB_VALID1 m) = s.rd (FLT_REPTAB_VALID1 m) := dequeued_rd s rest (by simp only [Field.key, FLT_REPTAB_VALID1, FLT_INQ_USED]; omega)
  have g0 (m : Nat) : (s.dequeued rest).rd (FLT_REPTAB_SEG0 m) = s.rd (FLT_REPTAB_SEG0 m) := dequeued_rd s rest (by simp only [Field.key, FLT_REPTAB_SEG0, FLT_INQ_USED]; omega)
  have g1 (m : Nat) : (s.dequeued rest).rd (FLT_REPTAB_SEG1 m) = s.rd (FLT_REPTAB_SEG1 m) := dequeued_rd s rest (by simp only [Field.key, FLT_REPTAB_SEG1, FLT_INQ_USED]; omega)
  have o0 (m : Nat) : (s.dequeued rest).on (FLT_REPTAB_VALID0 m) = s.on (FLT_REPTAB_VALID0 m) := congrArg (· != 0) (v0 m)
  have o1 (m : Nat) : (s.dequeued rest).on (FLT_REPTAB_VALID1 m) = s.on (FLT_REPTAB_VALID1 m) := congrArg (· != 0) (v1 m)
  simp only [State.repTab, o0, o1, g0, g1]

/-- The checks of a record read registers that the intake queue's own do not hold. -/
theorem intakeGood_dequeued (s : State) (rest : List Octets) (r : Octets) : (s.dequeued rest).intakeGood r = s.intakeGood r := by
  have period : (s.dequeued rest).P = s.P := by simp only [State.P, dequeued_rd s rest (show CRZ_GRID_P_STEP.key ≠ FLT_INQ_USED.key by decide)]
  have horizon : (s.dequeued rest).H = s.H := by simp only [State.H, dequeued_rd s rest (show CRZ_GRID_H_MS.key ≠ FLT_INQ_USED.key by decide)]
  have spread : (s.dequeued rest).spreadW = s.spreadW := by simp only [State.spreadW, dequeued_rd s rest (show FLT_SPREAD_W.key ≠ FLT_INQ_USED.key by decide)]
  have seg : (s.dequeued rest).seg = s.seg := dequeued_rd s rest (by decide)
  have mask : (s.dequeued rest).rd FLT_INMASK_MASK = s.rd FLT_INMASK_MASK := dequeued_rd s rest (by decide)
  simp only [State.intakeGood, State.pMs, State.hMs, State.sendTime, period, horizon, spread, seg, mask, dequeued_repTab]

theorem leAt_seg_lt {s : State} {r : Octets} (h : s.intakeGood r = true) : leAt r 4 2 < 2 ^ 14 ∧ octAt r 1 = 1 := by
  unfold State.intakeGood at h
  simp only [Bool.and_eq_true, Bool.or_eq_true, beq_iff_eq, decide_eq_true_eq, List.any_eq_true] at h
  obtain ⟨⟨⟨⟨⟨⟨⟨⟨-, -⟩, rtype⟩, -⟩, -⟩, -⟩, -⟩, seg⟩, -⟩ := h
  refine ⟨?_, rtype⟩
  rcases seg with h | ⟨x, hx, h⟩
  · rw [h]
    exact rd_lt s CRZ_SEG_SEG
  · rw [← h]
    unfold State.repTab at hx
    obtain ⟨L, hL, hx⟩ := List.mem_flatten.mp hx
    obtain ⟨m, -, rfl⟩ := List.mem_map.mp hL
    rcases List.mem_append.mp hx with hx | hx <;> split at hx
    · obtain rfl := List.mem_singleton.mp hx
      exact rd_lt s (FLT_REPTAB_SEG0 m)
    · simp at hx
    · obtain rfl := List.mem_singleton.mp hx
      exact rd_lt s (FLT_REPTAB_SEG1 m)
    · simp at hx

/-- The event of channel 88 that a good record becomes (R124). -/
theorem intakeEvent_good {s : State} {r : Octets} (h : s.intakeGood r = true) : intakeEvent r = ⟨⟨leAt r 16 8 / 2 ^ 30, leAt r 16 8 % 2 ^ 30, 0⟩, leAt r 4 2 * 262144 + 88, some (leAt r 6 2), 1,
    wholeSlots (r.take 3 ++ zeros 1 ++ (r.drop 4).take 34 ++ zeros 10 ++ r.drop 48), false, false, []⟩ := by
  obtain ⟨seg, rtype⟩ := leAt_seg_lt h
  have src : srcId (leAt r 4 2) 0 88 = leAt r 4 2 * 262144 + 88 := by
    unfold srcId
    omega
  unfold intakeEvent
  dsimp only
  rw [src, rtype, stripSideband]

/-- A record that fails one of its checks is not good. -/
theorem intakeGood_false {s : State} {r : Octets} (h : octAt r 0 ≠ 1 ∨ octAt r 1 ≠ 1 ∨ leAt r 32 2 ≠ s.pMs ∨ leAt r 34 2 ≠ s.hMs ∨ leAt r 36 2 ≠ s.spreadW ∨ leAt r 24 8 ≠ s.rd FLT_INMASK_MASK ∨
    (leAt r 4 2 ≠ s.seg ∧ ∀ x ∈ s.repTab, x.2 ≠ leAt r 4 2) ∨ leAt r 16 8 ≠ ts64 (timeOfNs (s.sendTime (leAt r 8 8) (leAt r 4 2)))) : s.intakeGood r = false := by
  rw [← Bool.not_eq_true]
  intro good
  unfold State.intakeGood at good
  simp only [Bool.and_eq_true, Bool.or_eq_true, beq_iff_eq, decide_eq_true_eq, List.any_eq_true] at good
  obtain ⟨⟨⟨⟨⟨⟨⟨⟨-, ver⟩, rtype⟩, p⟩, hms⟩, w⟩, mask⟩, seg⟩, time⟩ := good
  rcases h with h | h | h | h | h | h | ⟨h, none⟩ | h
  · exact h ver
  · exact h rtype
  · exact h p
  · exact h hms
  · exact h w
  · exact h mask
  · rcases seg with e | ⟨x, hx, e⟩
    · exact h e
    · exact none x hx e
  · exact h time

theorem intakeRecord_eq {s : State} {r : Octets} {rest : List Octets} (h : s.flt.inq = r :: rest) : s.intakeRecord = if s.intakeGood r = true then
      (((s.dequeued rest).putReceipt (leAt r 8 8) (leAt r 4 2) (octAt r 3)).count FLT_IN_CNT_COUNT FLT_STATUS_CNTWRAP).post (intakeEvent r)
    else ((s.dequeued rest).raise FLT_STATUS_INREJ).count FLT_INREJ_CNT_COUNT FLT_STATUS_CNTWRAP := by
  unfold State.intakeRecord
  rw [h]
  dsimp only
  rw [← intakeGood_dequeued s rest r]
  rfl

theorem putReceipt_parts (s : State) (k seg c : Nat) : (s.putReceipt k seg c).flt.inq = s.flt.inq ∧ (s.putReceipt k seg c).waiting = s.waiting ∧ (s.putReceipt k seg c).regs = s.regs := by
  unfold State.putReceipt
  split <;> exact ⟨rfl, rfl, rfl⟩

/-- Settles O37: the record's way out, its way in, and the actions whose deadline has passed. -/
theorem recordsAndDeadlines : Obligations.RecordsAndDeadlines := by
  unfold Obligations.RecordsAndDeadlines
  refine ⟨fun s r hu hr => ?_, fun s r hu hc => ?_, fun s r rest hu hq => ?_, fun s p hu hn => ?_⟩
  · have does : exec .resultRecordSend s = .next s.sendRecord := congrArg Host.Outcome.next (whenUp_up hu)
    rw [sendRecord_eq hr] at does
    refine ⟨fun h => ?_, fun hc hd room => ?_⟩
    · rw [if_neg (by rcases h with h | h <;> simp [State.on, h])] at does
      obtain ⟨bh, flt, regs⟩ := queueDatagram_recordLeft s r (s.rd BHM0_TPL_CFG_TC) (s.recordOctets r)
      obtain ⟨cFlt, cBh, -⟩ := count_flt ((s.recordLeft r).queueDatagram (s.rd BHM0_TPL_CFG_TC) none (s.recordOctets r)) FLT_SEND_CNT_COUNT FLT_STATUS_CNTWRAP
      refine ⟨_, does, cFlt.trans flt, ?_, cBh.trans bh⟩
      rw [count_rd_same _ (by decide), regs]
    · rw [if_pos (by simp [State.on, hc, hd])] at does
      obtain ⟨flt, bh⟩ := intakeOffer_takes (s := s.recordLeft r) (s.recordOctets r) room
      exact ⟨_, does, flt, bh, intakeOffer_rd (s := s.recordLeft r) _ room (by decide) (by decide)⟩
  · have does : exec (.collectorRecordReceive r) s = .next (s.intakeOffer r) := by
      show Host.Outcome.next (s.whenUp (fun s => if s.on FLT_CTRL_COLLECTOR then s.intakeOffer r else s)) = _
      rw [whenUp_up hu, if_pos (by simp [State.on, hc])]
    refine ⟨fun room => ?_, fun full => ?_⟩
    · exact ⟨_, does, (intakeOffer_takes r room).1, ((offer_facts s r).1 room).2.1⟩
    · exact ⟨_, does, intakeOffer_full r full, ((offer_facts s r).2 full).2.1⟩
  · have does : exec .collectorIntake s = .next s.intakeRecord := congrArg Host.Outcome.next (whenUp_up hu)
    rw [intakeRecord_eq hq] at does
    refine ⟨fun good => ?_, fun bad => ?_⟩
    · rw [if_pos good] at does
      obtain ⟨inq, waiting, regs⟩ := putReceipt_parts (s.dequeued rest) (leAt r 8 8) (leAt r 4 2) (octAt r 3)
      obtain ⟨cFlt, -, cWait⟩ := count_flt ((s.dequeued rest).putReceipt (leAt r 8 8) (leAt r 4 2) (octAt r 3)) FLT_IN_CNT_COUNT FLT_STATUS_CNTWRAP
      refine ⟨_, does, ?_, ?_, ?_⟩
      · exact (congrArg FelterState.inq cFlt).trans inq
      · rw [intakeEvent_good good]
        exact congrArg (· ++ _) (cWait.trans waiting)
      · rw [post_rd, count_rd_same _ (by decide), rd_regs regs]
        congr 2
        exact rd_wr_ne _ _ (by decide)
    · rw [if_neg (by rw [intakeGood_false bad]; decide)] at does
      obtain ⟨cFlt, -, cWait⟩ := count_flt ((s.dequeued rest).raise FLT_STATUS_INREJ) FLT_INREJ_CNT_COUNT FLT_STATUS_CNTWRAP
      refine ⟨_, does, cFlt, cWait, ?_⟩
      rw [count_rd_ne _ (by decide) (by decide)]
      exact rd_wr_same ..
  · have does : exec (.actionDeadlineMiss p) s = .next (s.dropMissed p) := congrArg Host.Outcome.next (whenUp_up hu)
    rw [State.dropMissed, if_neg hn] at does
    have lnu (u : State) (f w : Field) (n : Nat) : (u.addCount f n w).lnu = u.lnu := by
      unfold State.addCount State.raiseIf
      dsimp only
      split <;> rfl
    have flags : 0 < (pathMissFlag p).width ∧ (pathMiss p).key ≠ (pathMissFlag p).key ∧ (pathMiss p).key ≠ LNU_STATUS_CNTWRAP.key ∧ (pathMissFlag p).width = 1 := by cases p <;> decide
    refine ⟨_, does, lnu .., ?_, ?_⟩
    · rw [raise_def, rd_wr_same, flags.2.2.2]
      rfl
    · rw [raise_def, rd_wr_ne _ _ flags.2.1, addCount_rd_same _ flags.2.2.1]
      rfl

end Sys2Proof.Machine

/-!
PROOFS. What the radios send (R175, R180, R186 to R188, R193, R195, R196).
-/
namespace Sys2Proof.Machine
set_option Elab.async false

/-! ### Settings that a frame leaves with -/

/-- Two states whose registers differ in the counts of the downlink queues at most. -/
def SameButCounts (s t : State) : Prop := ∀ f : Field, f.key ≠ RFM_DLQ_STAT_USED_A.key → f.key ≠ RFM_DLQ_STAT_USED_B.key → t.rd f = s.rd f

theorem SameButCounts.rate {s t : State} (h : SameButCounts s t) (r : Nat) : t.rfRate r = s.rfRate r := by
  unfold State.rfRate
  split <;> exact h _ (by decide) (by decide)

theorem SameButCounts.channel {s t : State} (h : SameButCounts s t) (r : Nat) : t.rfChannel r = s.rfChannel r := by
  have top : t.topChannel r = s.topChannel r := by
    have variant := h SYS_ID_VARIANT (by decide) (by decide)
    unfold State.topChannel
    rw [h.rate, variant]
  have ch : t.rd (if r = 0 then RFM_RFA_CFG_CH else RFM_RFB_CFG_CH) = s.rd (if r = 0 then RFM_RFA_CFG_CH else RFM_RFB_CFG_CH) := by
    split <;> exact h _ (by decide) (by decide)
  unfold State.rfChannel State.channelOf
  rw [top, ch]

theorem SameButCounts.power {s t : State} (h : SameButCounts s t) (r : Nat) : t.rfPower r = s.rfPower r := by
  unfold State.rfPower
  split <;> rw [h _ (by decide) (by decide)]

theorem SameButCounts.slotStart {s t : State} (h : SameButCounts s t) (r : Nat) (f : Int) (slot : Nat) : t.slotStart r f slot = s.slotStart r f slot := by
  have ofs : t.sfOfs r = s.sfOfs r := by
    unfold State.sfOfs
    split <;> rw [h _ (by decide) (by decide)]
  unfold State.slotStart
  rw [ofs]

theorem SameButCounts.seg {s t : State} (h : SameButCounts s t) : t.seg = s.seg := h CRZ_SEG_SEG (by decide) (by decide)

theorem onRadio_same (s : State) (r : Nat) (f : RadioState → RadioState) : SameButCounts s (s.onRadio r f) := fun g _ _ => rd_regs (onRadio_regs s r f).1 g

theorem setDl_same (s : State) (r : Nat) (q : List Downlink) : SameButCounts s (s.setDl r q) := (setDl_facts s r q).2.2.2.2.2

theorem event_same {s t : State} (h : SameButCounts s t) (c n k : Nat) (p : Octets) (w : Time) : t.event c n k p w = s.event c n k p w := by
  unfold State.event
  rw [h.seg]

/-! ### Beacons (R186, R187) -/

section
variable {s u : State} {r : Nat} {n : Int} {g : GuardMeet} (hn : n = s.sfAt r s.now) (hb : (s.radio r).beaconed ≠ some n) (hslot : s.slotAt r s.now < s.span r) (hofs : s.sfOfs r ≤ s.now)
  (hu : u = s.superframeStart r n)
include hn hb hslot hofs hu

/-- A beacon that its guard lets through (R187). -/
theorem beacon_sends {k : KeySlot} (hr : u.rfRuns r = true) (hq : u.dcqOpen (rfTxQueue r) = true) (hf : g.frame = false) (hp : g.poison = false) (hk : u.slot (u.rd RFM_SEC_KSLOTB) = some k)
    (ha : k.allows opLink ctxRfm = true) : ∃ f, s.beacon r g = (u.onRadio r f).rfOut r (u.slotStart r n 0 + txOfs) (secured1 k.key (ccmNonce u.seg 0x0800 (beaconFc r n) 1)
        (le 2 0xA008 ++ [octet (unsigned 8 n)] ++ le 2 u.seg ++ le 2 0x0800) (auxHeader 0x09 (beaconFc r n) 0x10) (u.beaconPayload r n (u.callList r n))) ∧
      ∀ x : RadioState, (f x).beaconed = x.beaconed := by
  subst hn
  unfold State.beacon
  dsimp only
  rw [if_neg (by simp only [not_or]; exact ⟨hb, by omega, by omega⟩), ← hu, hr, hq, hf, hp]
  rw [if_neg (show ¬(!true || !true) = true by decide), if_neg (show ¬(false || false) = true by decide), keyFor_ok u _ _ _ k hk ha]
  dsimp only
  rw [(onRadio_same u r _).slotStart, (onRadio_same u r _).seg]
  exact ⟨_, rfl, fun _ => rfl⟩

/-- A beacon that the guard holds back, or that is poisoned in its queue, leaves its cell idle (R187). -/
theorem beacon_idle (h : g.frame = true ∨ g.poison = true) : (s.beacon r g).sent = s.sent ∧ ((s.beacon r g).radio r).beaconed = some n := by
  have lost : s.beacon r g = u ∨ s.beacon r g = u.frameLost g 3 (rfTxQueue r) := by
    subst hn
    unfold State.beacon
    dsimp only
    rw [if_neg (by simp only [not_or]; exact ⟨hb, by omega, by omega⟩), ← hu]
    split
    · exact .inl rfl
    · rw [if_pos (by simpa using h)]
      exact .inr rfl
  obtain ⟨sent, -, beaconed⟩ := superframe_facts s r n
  have o : Only 36700160 u (u.frameLost g 3 (rfTxQueue r)) := frameLost_only rfl (Only.refl u)
  rcases lost with e | e <;> rw [e]
  · rw [hu]
    exact ⟨sent, beaconed⟩
  · rw [only_part o .sent rfl, radio_rfm (only_part o .rfm rfl), hu]
    exact ⟨sent, beaconed⟩
end

/-! ### Bundle cells (R188, R195) -/

theorem askBundle_sent {s u : State} {p : Path} {g : GuardMeet} {b : List Action} (h : s.askBundle p g = (u, b)) : u.sent = s.sent := by
  have guarded (i : Option Nat) : (s.guardEntry i).sent = s.sent := only_part (guardEntry_only (μ := 1109393408) rfl (Only.refl s)) .sent rfl
  have again (v : State) : (v.guard 2).sent = v.sent := only_part (guard_only (μ := 35651584) rfl (Only.refl v)) .sent rfl
  unfold State.askBundle at h
  dsimp only at h
  split at h
  · obtain rfl := congrArg Prod.fst h
    exact (again _).trans (guarded _)
  · obtain rfl := congrArg Prod.fst h
    exact guarded _

section
variable {s u w : State} {r slot start q : Nat} {f : Int} {g : GuardMeet} {b : List Action} {x : Octets} (hr : s.rfRuns r = true) (ho : s.dcqOpen (rfTxQueue r) = true)
  (hslot : (s.nextSlot r % 128).toNat = slot) (hf : s.nextSlot r / 128 = f) (hstart : start = s.slotStart r f slot) (hspan : slot % s.span r = 0) (hcode : s.codeAt r slot = 2)
  (hask : s.askBundle (radioPath r) g = (u, b)) (hg : g.frame = false) (hp : g.poison = false)
include hr ho hslot hf hstart hspan hcode hask hg hp

/-- A BUNDLE cell carries the bundle of the Launch Unit (R188). -/
theorem bundleCell_bundle (hb : b ≠ []) (hx : u.linkFrame r none (bundleOctets b) = (w, some (x, q))) : s.bundleCell r g = (w.rfOut r (start + txOfs) x).markSent (radioPath r) b := by
  subst hslot hf
  unfold State.bundleCell
  dsimp only
  rw [hr, ho, hspan, hcode, if_pos (show (true && true && (0 : Nat) == 0 && (2 : Nat) == 2) = true from rfl)]
  unfold State.fillCell
  dsimp only
  rw [show (if r = 0 then Path.rfa else Path.rfb) = radioPath r from rfl, hask]
  dsimp only
  rw [if_pos (by simpa using hb), hx, hg, hp, hstart]
  rfl

/-- A BUNDLE cell without a bundle carries the first downlink frame whose target is awake (R195). -/
theorem bundleCell_downlink {d : Downlink} (hb : b = []) (hd : (u.radio r).queue.find? (fun d => u.awake d.dst f && !(u.radio r).awaiting.any (fun a => a.frame == d)) = some d)
    (hx : u.linkFrame r (some d.dst) d.payload = (w, some (x, q))) :
    s.bundleCell r g = ((w.setDl r ((w.radio r).queue.map (fun y => if y = d then { d with tries := d.tries + 1, seq := q } else y))).onRadio r (fun y => { y with awaiting := y.awaiting ++
      [w.rfAwait r (start + txOfs) (start + u.span r * slotNs) { d with tries := d.tries + 1, seq := q } x] })).rfOut r (start + txOfs) x := by
  subst hslot hf hb
  unfold State.bundleCell
  dsimp only
  rw [hr, ho, hspan, hcode, if_pos (show (true && true && (0 : Nat) == 0 && (2 : Nat) == 2) = true from rfl)]
  unfold State.fillCell
  dsimp only
  rw [show (if r = 0 then Path.rfa else Path.rfb) = radioPath r from rfl, hask]
  dsimp only
  rw [if_neg (by simp), hd]
  dsimp only
  unfold State.rfUnicast
  rw [hx, hg, hp, hstart]
  rfl
end

/-- What a frame that waits for its Imm-Ack leaves (R195). -/
theorem downlinkSent_facts (w : State) (r at' : Nat) (Q : List Downlink) (a : Await) (x : Octets) (t : State)
    (ht : t = ((w.setDl r Q).onRadio r (fun y => { y with awaiting := y.awaiting ++ [a] })).rfOut r at' x) :
    t.sent = w.sent ++ [⟨3 + r, at', x, 0, .whole, w.rfChannel r, w.rfPower r⟩] ∧ (t.radio r).queue = Q ∧ (t.radio r).awaiting = (w.radio r).awaiting ++ [a] := by
  obtain ⟨queue, awaiting, sent, -⟩ := setDl_facts w r Q
  obtain ⟨out, rfm, -⟩ := rfOut_facts ((w.setDl r Q).onRadio r (fun y => { y with awaiting := y.awaiting ++ [a] })) r at' x
  subst ht
  refine ⟨?_, ?_, ?_⟩
  · rw [out, (onRadio_regs _ _ _).2.1, sent, (onRadio_same _ r _).channel, (onRadio_same _ r _).power, (setDl_same w r Q).channel, (setDl_same w r Q).power]
  · rw [radio_rfm rfm, onRadio_radio]
    exact queue
  · rw [radio_rfm rfm, onRadio_radio]
    exact congrArg (· ++ [a]) awaiting

/-! ### The downlink queue (R193, R196) -/

theorem rfWaited_facts (s : State) (r : Nat) (a : Await) : ((s.rfWaited r a).radio r).queue = (s.radio r).queue ∧ ((s.rfWaited r a).radio r).awaiting = (s.radio r).awaiting.erase a ∧
    (s.rfWaited r a).waiting = s.waiting ∧ SameButCounts s (s.rfWaited r a) := by
  unfold State.rfWaited
  rw [onRadio_radio]
  exact ⟨rfl, rfl, (onRadio_regs _ _ _).2.2.2.1, onRadio_same _ _ _⟩

/-- A wait that ends with a result: the frame leaves the queue and its result becomes an event (R196). -/
theorem waitEnds (s : State) (r : Nat) (a : Await) (x : Nat) (w : Time) (t : State) (ht : t = ((s.rfWaited r a).setDl r ((s.radio r).queue.erase a.frame)).dlResult r a.frame x w) :
    (t.radio r).queue = (s.radio r).queue.erase a.frame ∧ (t.radio r).awaiting = (s.radio r).awaiting.erase a ∧ (x = 1 ∨ x = 2 → t.rd RFM_STATUS_DLFAIL = 1) ∧
      t.waiting = s.waiting ++ [⟨s.event (76 + r) a.frame.dst 0x04 [octet a.frame.handle, octet x] w, none, 0⟩] := by
  obtain ⟨-, waited, waiting, same⟩ := rfWaited_facts s r a
  obtain ⟨queue, awaiting, -, -, kept, same'⟩ := setDl_facts (s.rfWaited r a) r ((s.radio r).queue.erase a.frame)
  obtain ⟨rfm, result, fail, -⟩ := dlResult_facts ((s.rfWaited r a).setDl r ((s.radio r).queue.erase a.frame)) r a.frame x w
  subst ht
  refine ⟨?_, ?_, fun h => (fail h).1, ?_⟩
  · rw [radio_rfm rfm, queue]
  · rw [radio_rfm rfm, awaiting, waited]
  · rw [result, kept, waiting, event_same same', event_same same]

theorem noOpportunity_queue (s : State) (r : Nat) : ((s.noOpportunity r).radio r).queue = (s.radio r).queue.filter (fun d => !(decide (d.queued + 64 ≤ s.sfAt r s.now) && d.tries == 0)) := by
  unfold State.noOpportunity
  dsimp only
  rw [radio_rfm (noOpp_fold r (fun s d => timeOfNs (s.slotStart r (d.queued + 64) 0)) _ _).1, (setDl_facts _ _ _).1]

/-- The one frame of a queue that 64 superframes gave no opportunity (R196). -/
theorem noOpportunity_one {s : State} {r : Nat} {d : Downlink} (hq : (s.radio r).queue = [d]) (ht : d.tries = 0) (hd : d.queued + 64 ≤ s.sfAt r s.now) :
    s.noOpportunity r = (s.setDl r []).dlResult r d 2 (timeOfNs (s.slotStart r (d.queued + 64) 0)) := by
  unfold State.noOpportunity
  dsimp only
  rw [hq]
  simp only [List.filter_cons, List.filter_nil, ht, hd, decide_true, beq_self_eq_true, Bool.and_self, if_true, Bool.not_true, Bool.false_eq_true, if_false, List.foldl_cons, List.foldl_nil]
  rw [(setDl_same s r []).slotStart]

/-- Settles O38: the beacon, the cell, the Imm-Ack, the waits and the queue, each by what it leaves. -/
theorem radioSends : Obligations.RadioSends := by
  unfold Obligations.RadioSends
  intro s r hu
  refine ⟨fun u n g hn hb hslot hofs heq => ⟨fun k hr hq hf hp hk ha => ?_, fun h => ?_⟩, fun u w b g x q slot start f hr ho hslot hf hstart hspan hcode hask hg hp => ⟨fun hb hx => ?_, fun d hb hd hx => ?_⟩,
    fun seq => ⟨fun a ha => ?_, fun h => ?_⟩, fun a ha => ⟨fun ht => ?_, fun ht => ?_⟩, ?_, fun d hq ht hd => ?_, fun l handle dst len hs hh => ⟨fun h1 h2 room => ?_, fun h => ?_⟩⟩
  · have does : exec (.beacon r g) s = .next (s.beacon r.val g) := congrArg Host.Outcome.next (whenUp_up hu)
    obtain ⟨made, eq, keeps⟩ := beacon_sends hn hb hslot hofs heq hr hq hf hp hk ha
    rw [eq] at does
    obtain ⟨sent, -, beaconed⟩ := superframe_facts s r.val n
    obtain ⟨out, rfm, -⟩ := rfOut_facts (u.onRadio r.val made) r.val (u.slotStart r.val n 0 + txOfs) (secured1 k.key (ccmNonce u.seg 0x0800 (beaconFc r.val n) 1)
      (le 2 0xA008 ++ [octet (unsigned 8 n)] ++ le 2 u.seg ++ le 2 0x0800) (auxHeader 0x09 (beaconFc r.val n) 0x10) (u.beaconPayload r.val n (u.callList r.val n)))
    refine ⟨_, does, ?_, ?_⟩
    · rw [radio_rfm rfm, onRadio_radio, keeps, heq, beaconed]
    · rw [out, (onRadio_regs _ _ _).2.1, (onRadio_same _ _ _).channel, (onRadio_same _ _ _).power, heq, sent]
      rfl
  · exact ⟨_, congrArg Host.Outcome.next (whenUp_up hu), beacon_idle hn hb hslot hofs heq h⟩
  · have does : exec (.radioBundleCell r g) s = .next (s.bundleCell r.val g) := congrArg Host.Outcome.next (whenUp_up hu)
    rw [bundleCell_bundle hr ho hslot hf hstart hspan hcode hask hg hp hb hx] at does
    obtain ⟨sent, queue, -⟩ := markSent_facts (w.rfOut r.val (start + txOfs) x) (radioPath r.val) b
    obtain ⟨out, -, lnu, -⟩ := rfOut_facts w r.val (start + txOfs) x
    have made := (linkFrame_parts u r.val none (bundleOctets b)).1
    rw [hx] at made
    refine ⟨_, does, ?_, ?_⟩
    · rw [sent, out, show w.sent = u.sent from made, askBundle_sent hask]
    · rw [queue, lnu]
  · have does : exec (.radioBundleCell r g) s = .next (s.bundleCell r.val g) := congrArg Host.Outcome.next (whenUp_up hu)
    rw [bundleCell_downlink hr ho hslot hf hstart hspan hcode hask hg hp hb hd hx] at does
    have made := (linkFrame_parts u r.val (some d.dst) d.payload).1
    rw [hx] at made
    obtain ⟨sent, queue, awaiting⟩ := downlinkSent_facts w r.val _ _ _ x _ rfl
    refine ⟨_, does, ?_, queue, awaiting⟩
    rw [sent, show w.sent = u.sent from made, askBundle_sent hask]
  · have does : exec (.immAckReceive r seq) s = .next (((s.rfWaited r.val a).setDl r.val ((s.radio r.val).queue.erase a.frame)).dlResult r.val a.frame 0 (s.replica (repRadio r.val))) := by
      show Host.Outcome.next (s.whenUp (fun s => s.immAck r.val seq.toNat)) = _
      rw [whenUp_up hu]
      unfold State.immAck
      dsimp only
      rw [ha]
    obtain ⟨queue, awaiting, -, waiting⟩ := waitEnds s r.val a 0 (s.replica (repRadio r.val)) _ rfl
    exact ⟨_, does, queue, awaiting, waiting⟩
  · have none : (s.radio r.val).awaiting.find? (fun a => a.frame.seq == seq.toNat && rfCycle (s.replica (repRadio r.val)) ≤ rfCycleNs a.until') = none := by
      rw [List.find?_eq_none]
      intro a ha
      rcases h a ha with h | h
      · simp [h]
      · simp only [Bool.and_eq_true, decide_eq_true_eq, not_and]
        omega
    show Host.Outcome.next (s.whenUp (fun s => s.immAck r.val seq.toNat)) = _
    rw [whenUp_up hu]
    unfold State.immAck
    dsimp only
    rw [none]
  · have does : exec (.ackWaitExpiry r) s = .next (s.rfWaited r.val a) := by
      show Host.Outcome.next (s.whenUp (fun s => s.ackExpiry r.val)) = _
      rw [whenUp_up hu]
      unfold State.ackExpiry
      rw [ha]
      exact congrArg Host.Outcome.next (if_neg (by omega))
    obtain ⟨queue, awaiting, waiting, -⟩ := rfWaited_facts s r.val a
    exact ⟨_, does, queue, awaiting, waiting⟩
  · have does : exec (.ackWaitExpiry r) s = .next (((s.rfWaited r.val a).setDl r.val ((s.radio r.val).queue.erase a.frame)).dlResult r.val a.frame 1 (timeOfNs a.cellEnd)) := by
      show Host.Outcome.next (s.whenUp (fun s => s.ackExpiry r.val)) = _
      rw [whenUp_up hu]
      unfold State.ackExpiry
      rw [ha]
      exact congrArg Host.Outcome.next (if_pos ht)
    obtain ⟨queue, awaiting, fail, waiting⟩ := waitEnds s r.val a 1 (timeOfNs a.cellEnd) _ rfl
    exact ⟨_, does, queue, awaiting, fail (.inl rfl), waiting⟩
  · exact ⟨_, congrArg Host.Outcome.next (whenUp_up hu), noOpportunity_queue s r.val⟩
  · have does : exec (.downlinkNoOpportunity r) s = .next (s.noOpportunity r.val) := congrArg Host.Outcome.next (whenUp_up hu)
    rw [noOpportunity_one hq ht hd] at does
    obtain ⟨queue, -, -, -, kept, same⟩ := setDl_facts s r.val []
    obtain ⟨rfm, waiting, fail, -⟩ := dlResult_facts (s.setDl r.val []) r.val d 2 (timeOfNs (s.slotStart r.val (d.queued + 64) 0))
    refine ⟨_, does, ?_, (fail (.inr rfl)).1, ?_⟩
    · rw [radio_rfm rfm, queue]
    · rw [waiting, kept, event_same same]
  · have does : exec (.radioDownlinkQueue l handle dst len) s = .next (s.rfTxcmd handle.toNat dst.toNat len.toNat) := radioDownlinkQueue_does handle dst len hs
    rw [State.rfTxcmd, if_neg (by omega)] at does
    rw [hh] at room ⊢
    refine ⟨_, does, (dlQueue_facts s dst.toNat _ handle.toNat).1 room, ?_⟩
    unfold State.dlQueue
    dsimp only
    rw [if_pos room]
    exact (setDl_facts _ _ _).2.2.2.2.1
  · have does : exec (.radioDownlinkQueue l handle dst len) s = .next (s.rfTxcmd handle.toNat dst.toNat len.toNat) := radioDownlinkQueue_does handle dst len hs
    rw [hh] at h ⊢
    by_cases bad : len.toNat = 0 ∨ 106 < len.toNat
    · rw [State.rfTxcmd, if_pos bad] at does
      obtain ⟨rfm, waiting, -⟩ := dlResult_facts s (s.homeOf dst.toNat) ⟨dst.toNat, [], handle.toNat, 0, 0, 0⟩ 3 s.tb.now
      exact ⟨_, does, by rw [radio_rfm rfm], waiting⟩
    · rw [State.rfTxcmd, if_neg bad] at does
      obtain ⟨-, queue, waiting⟩ := (dlQueue_facts s dst.toNat (le len.toNat (s.rd RFM_TXBUF_PAYLOAD)) handle.toNat).2 (by omega)
      exact ⟨_, does, queue, waiting⟩

end Sys2Proof.Machine

/-!
PROOFS. The paths of SF1 (R276, R277, R401).
-/
namespace Sys2Proof.Machine
set_option Elab.async false

/-! ### What a path sees -/

/-- Path A has seen a current for a time: nothing but its qualifying timer and the time it has driven its output. -/
theorem qualified_analog (s : State) (c ns : Nat) : (s.sf1Analog c ns).sf1Qualified 0 = (s.sf1Above c && decide (10000000 ≤ s.mtr.sf1Timer + ns)) := by
  have timer := (analog_facts s c ns).2.2.1
  unfold State.sf1Qualified
  rw [if_pos rfl, timer]
  cases s.sf1Above c <;> simp

theorem qualified_digital (s : State) (x : Int) : (s.sf1Digital x).sf1Qualified 1 = (s.sf1Square ((x :: s.mtr.sf1Hist).take 320) && decide (79 ≤ s.mtr.sf1Count)) := by
  have count := (digital_facts s x).2.2.2.1
  unfold State.sf1Qualified
  rw [if_neg (by decide), count]
  cases s.sf1Square ((x :: s.mtr.sf1Hist).take 320) <;> simp

theorem sf1Gated_saf {s t : State} (h : t.saf = s.saf) (p : Nat) : t.sf1Gated p = s.sf1Gated p := by
  unfold State.sf1Gated
  rw [h]

/-- Path A that runs sees a current (R276). -/
theorem see_analog {s : State} (c ns : Nat) (h : s.mtr.sf1RunA = true) : s.sf1See (.analog c ns) = (s.sf1Analog c ns).sf1Qualify 0 := by
  have runs : s.sf1Runs 0 = true := h
  unfold State.sf1See sf1Path
  rw [runs]
  rfl

/-- Path B that runs sees samples one after the other (R276). -/
theorem see_digital {s : State} (l : List Int) (h : s.mtr.sf1RunB = true) : s.sf1See (.digital l) = l.foldl (fun (s : State) v => (s.sf1Digital v).sf1Qualify 1) s := by
  have runs : s.sf1Runs 1 = true := h
  unfold State.sf1See sf1Path
  rw [runs]
  rfl

theorem see_idle {s : State} {x : Sf1Seen} (h : s.sf1Runs (sf1Path x) = false) : s.sf1See x = s := by
  unfold State.sf1See
  rw [h]
  rfl

/-- A path releases its output at 200 ms unless it is still qualified (R277). -/
theorem release_at {s : State} {p t : Nat} (h : s.sf1At p = some t) : s.sf1Release p = if s.sf1Qualified p || t < 200000000 then s else (s.wr (sf1Field p) 0).setSf1At p none := by
  unfold State.sf1Release
  rw [h]

/-! ### Path A -/

/-- Path A's output after it saw a current that leaves it unqualified, released or still driven (R277). -/
theorem release_analog {s : State} {c ns t0 : Nat} (run : s.mtr.sf1RunA = true) (at0 : s.mtr.sf1A = some t0) (h : s.sf1Above c = false ∨ s.mtr.sf1Timer + ns < 10000000) :
    (s.sf1See (.analog c ns)).sf1Release 0 = if t0 + ns < 200000000 then s.sf1Analog c ns else ((s.sf1Analog c ns).wr MTR_SF1_PATHA 0).setSf1At 0 none := by
  have unqualified : (s.sf1Analog c ns).sf1Qualified 0 = false := by
    rw [qualified_analog]
    rcases h with h | h
    · rw [h]; rfl
    · rw [decide_eq_false (by omega), Bool.and_false]
  have driven : (s.sf1Analog c ns).sf1At 0 = some (t0 + ns) := by
    show (s.sf1Analog c ns).mtr.sf1A = _
    rw [(analog_facts s c ns).2.2.2, at0]
    rfl
  rw [see_analog c ns run, (qualify_facts _ 0 (by decide)).2 (.inr (.inl unqualified)), release_at driven, unqualified]
  simp only [Bool.false_or, decide_eq_true_eq]
  rfl

/-! ### Path B -/

theorem release_digital {s : State} {x : Int} {t0 : Nat} (run : s.mtr.sf1RunB = true) (at0 : s.mtr.sf1B = some t0) (h : s.sf1Square ((x :: s.mtr.sf1Hist).take 320) = false ∨ s.mtr.sf1Count < 79) :
    (s.sf1See (.digital [x])).sf1Release 1 = if t0 + 62500 < 200000000 then s.sf1Digital x else ((s.sf1Digital x).wr MTR_SF1_PATHB 0).setSf1At 1 none := by
  have unqualified : (s.sf1Digital x).sf1Qualified 1 = false := by
    rw [qualified_digital]
    rcases h with h | h
    · rw [h]; rfl
    · rw [decide_eq_false (by omega), Bool.and_false]
  have driven : (s.sf1Digital x).sf1At 1 = some (t0 + 62500) := by
    show (s.sf1Digital x).mtr.sf1B = _
    rw [(digital_facts s x).2.2.2.2, at0]
    rfl
  rw [see_digital [x] run, List.foldl_cons, List.foldl_nil, (qualify_facts _ 1 (by decide)).2 (.inr (.inl unqualified)), release_at driven, unqualified]
  simp only [Bool.false_or, decide_eq_true_eq]
  rfl

/-- What path B sees does not stop it: only a reset or the stop of the reference does (R276). -/
theorem qualify_runB (s : State) : (s.sf1Qualify 1).mtr.sf1RunB = s.mtr.sf1RunB := by
  have first (u : State) (o : Nat) : (match u.mtr.sf1First with
      | some (q, _) => if q = 1 then u else { u with mtr := { u.mtr with sf1First := none } }
      | none => if u.on (sf1Field (1 - 1)) then u else { u with mtr := { u.mtr with sf1First := some (1, o) } } : State).mtr.sf1RunB = u.mtr.sf1RunB := by
    split <;> split <;> rfl
  have assert : (s.sf1Assert 1).mtr.sf1RunB = s.mtr.sf1RunB := by
    unfold State.sf1Assert
    dsimp only
    refine (first _ _).trans ?_
    rw [meterEvent_mtr]
    rfl
  have trip : (s.sf1Trip 1).mtr.sf1RunB = s.mtr.sf1RunB := by
    unfold State.sf1Trip
    split
    · exact assert
    · rfl
  have woken : ((s.sf1Trip 1).drEnd none false true).mtr = (s.sf1Trip 1).mtr := only_part (drEnd_only (μ := 17592664196612) rfl (Only.refl _)) .mtr rfl
  unfold State.sf1Qualify
  split
  · rfl
  · dsimp only
    split
    · exact (congrArg MeterState.sf1RunB woken).trans trip
    · exact trip

/-- Path B sees a first sample and then the others (R276). -/
theorem see_cons (s : State) (x : Int) (l : List Int) : s.sf1See (.digital (x :: l)) = (s.sf1See (.digital [x])).sf1See (.digital l) := by
  cases run : s.mtr.sf1RunB
  · have stands (l : List Int) : s.sf1See (.digital l) = s := see_idle (x := .digital l) run
    rw [stands, stands, stands]
  · have runs : (s.sf1See (.digital [x])).mtr.sf1RunB = true := by
      rw [see_digital [x] run, List.foldl_cons, List.foldl_nil, qualify_runB]
      exact run
    rw [see_digital l runs, see_digital _ run, see_digital _ run, List.foldl_cons, List.foldl_cons, List.foldl_nil]

/-! ### The disagreement of the paths -/

theorem sf1Alone_suspended {s : State} {q t0 : Nat} (first : s.mtr.sf1First = some (q, t0)) (h : s.saf.test ≠ none ∨ s.elapsed < s.saf.quietUntil ∨ s.elapsed < t0 + 100000000) : s.sf1Alone = s := by
  unfold State.sf1Alone
  rw [first]
  dsimp only
  split
  · rfl
  · rename_i go
    rw [if_pos]
    rcases h with h | h | h
    · exact absurd (.inl (Option.isSome_iff_ne_none.mpr h)) go
    · exact absurd (.inr h) go
    · exact h

theorem sf1Alone_due {s : State} {q t0 : Nat} (first : s.mtr.sf1First = some (q, t0)) (free : s.saf.test = none) (quiet : s.saf.quietUntil ≤ s.elapsed) (h : t0 + 100000000 ≤ s.elapsed) :
    s.sf1Alone.rd MTR_STATUS_SF1DIS = 1 ∧ s.sf1Alone.rd SAF_STATUS_SF1DIS = 1 ∧ s.sf1Alone.mtr.sf1First = none := by
  have disagree : s.sf1Disagree = { s.raise MTR_STATUS_SF1DIS with mtr := { s.mtr with sf1First := none } } := by
    unfold State.sf1Disagree
    rw [first]
    dsimp only
    rw [if_neg (by omega)]
  unfold State.sf1Alone
  rw [first]
  dsimp only
  rw [if_neg (by rw [free]; simp; omega), if_neg (by omega), disagree]
  refine ⟨?_, ?_, rfl⟩
  · rw [post_rd, raise_def, rd_wr_ne _ _ (by decide)]
    exact rd_wr_same s MTR_STATUS_SF1DIS 1
  · rw [post_rd, raise_def]
    exact rd_wr_same _ _ _

/-! ### The obligation -/

/-- Path A: it drives its output once qualified, and releases it after 200 ms. -/
theorem pathA_drives (s : State) (c ns : Nat) (run : s.mtr.sf1RunA = true) :
    (s.sf1Above c = true → 10000000 ≤ s.mtr.sf1Timer + ns → s.sf1Gated 0 = false → s.rd MTR_SF1_PATHA = 0 →
      (s.sf1See (.analog c ns)).rd MTR_SF1_PATHA = 1 ∧ (s.sf1See (.analog c ns)).rd MTR_STATUS_TRIP_A = 1 ∧ (s.sf1See (.analog c ns)).mtr.sf1A = some 0) ∧
    (s.sf1Above c = false ∨ s.mtr.sf1Timer + ns < 10000000 ∨ s.sf1Gated 0 = true ∨ s.rd MTR_SF1_PATHA ≠ 0 → s.sf1See (.analog c ns) = s.sf1Analog c ns) := by
  have gate : (s.sf1Analog c ns).sf1Gated 0 = s.sf1Gated 0 := sf1Gated_saf (analog_facts s c ns).2.1 0
  have read : (s.sf1Analog c ns).rd (sf1Field 0) = s.rd MTR_SF1_PATHA := rd_regs (analog_facts s c ns).1 _
  obtain ⟨drives, stands⟩ := qualify_facts (s.sf1Analog c ns) 0 (by decide)
  rw [see_analog c ns run]
  refine ⟨fun above time free low => drives (gate.trans free) ?_ (read.trans low), fun h => stands ?_⟩
  · rw [qualified_analog, above, decide_eq_true time]
    rfl
  · rw [gate, read, qualified_analog]
    rcases h with h | h | h | h
    · rw [h]; exact .inr (.inl rfl)
    · rw [decide_eq_false (by omega), Bool.and_false]; exact .inr (.inl rfl)
    · exact .inl h
    · exact .inr (.inr h)

/-- Path B: it drives its output at the 80th sample, and releases it after 200 ms. -/
theorem pathB_drives (s : State) (x : Int) (run : s.mtr.sf1RunB = true) :
    (s.sf1Square ((x :: s.mtr.sf1Hist).take 320) = true → 79 ≤ s.mtr.sf1Count → s.sf1Gated 1 = false → s.rd MTR_SF1_PATHB = 0 →
      (s.sf1See (.digital [x])).rd MTR_SF1_PATHB = 1 ∧ (s.sf1See (.digital [x])).rd MTR_STATUS_TRIP_B = 1 ∧ (s.sf1See (.digital [x])).mtr.sf1B = some 0) ∧
    (s.sf1Square ((x :: s.mtr.sf1Hist).take 320) = false ∨ s.mtr.sf1Count < 79 ∨ s.sf1Gated 1 = true ∨ s.rd MTR_SF1_PATHB ≠ 0 → s.sf1See (.digital [x]) = s.sf1Digital x) := by
  have gate : (s.sf1Digital x).sf1Gated 1 = s.sf1Gated 1 := sf1Gated_saf (digital_facts s x).2.1 1
  have read : (s.sf1Digital x).rd (sf1Field 1) = s.rd MTR_SF1_PATHB := rd_regs (digital_facts s x).1 _
  obtain ⟨drives, stands⟩ := qualify_facts (s.sf1Digital x) 1 (by decide)
  rw [see_digital [x] run, List.foldl_cons, List.foldl_nil]
  refine ⟨fun above time free low => drives (gate.trans free) ?_ (read.trans low), fun h => stands ?_⟩
  · rw [qualified_digital, above, decide_eq_true time]
    rfl
  · rw [gate, read, qualified_digital]
    rcases h with h | h | h | h
    · rw [h]; exact .inr (.inl rfl)
    · rw [decide_eq_false (by omega), Bool.and_false]; exact .inr (.inl rfl)
    · exact .inl h
    · exact .inr (.inr h)

/-- Settles O47, path by path: a path qualifies by its timer or its count, and releases by the time it has driven its output. -/
theorem tripsDrive : Obligations.TripsDrive := by
  unfold Obligations.TripsDrive
  refine ⟨fun s c ns run => ?_, fun s x m run hm => ?_, fun s t x l h => ?_, fun s c ns l => ?_, fun s q t0 hu first => ?_⟩
  · obtain ⟨drives, stands⟩ := pathA_drives s c ns run
    refine ⟨fun above time free low => ⟨_, rfl, drives above time free low⟩, fun h => ⟨_, rfl, ?_⟩, fun t0 at0 h => ?_, fun t0 at0 high above time => ⟨_, rfl, ?_⟩⟩
    · rw [stands h]
      exact ⟨(analog_facts s c ns).1, (analog_facts s c ns).2.2.1⟩
    · have eq := release_analog run at0 h
      refine ⟨fun past => ⟨_, rfl, ?_⟩, fun short => ⟨_, rfl, ?_⟩⟩
      · rw [sf1Path, eq, if_neg (by omega)]
        exact ⟨rd_wr_same (s.sf1Analog c ns) MTR_SF1_PATHA 0, rfl, rd_wr_ne (s.sf1Analog c ns) (f := MTR_SF1_PATHA) (g := MTR_SF1_PATHB) 0 (by decide)⟩
      · rw [sf1Path, eq, if_pos short]
        exact ⟨(analog_facts s c ns).1, by rw [(analog_facts s c ns).2.2.2, at0]; rfl⟩
    · have driven : (s.sf1Analog c ns).sf1At 0 = some (t0 + ns) := by
        show (s.sf1Analog c ns).mtr.sf1A = _
        rw [(analog_facts s c ns).2.2.2, at0]
        rfl
      have qualified : (s.sf1Analog c ns).sf1Qualified 0 = true := by
        rw [qualified_analog, above, decide_eq_true time]
        rfl
      rw [stands (.inr (.inr (.inr (by omega)))), sf1Path, release_at driven, qualified, Bool.true_or, if_pos rfl]
      exact ⟨(analog_facts s c ns).1, driven⟩
  · subst hm
    obtain ⟨drives, stands⟩ := pathB_drives s x run
    refine ⟨fun above time free low => ⟨_, rfl, drives above time free low⟩, fun h => ⟨_, rfl, ?_⟩, fun t0 at0 h => ?_, fun t0 at0 high above time => ⟨_, rfl, ?_⟩⟩
    · rw [stands h]
      exact ⟨(digital_facts s x).1, (digital_facts s x).2.2.1, (digital_facts s x).2.2.2.1⟩
    · have eq := release_digital run at0 h
      refine ⟨fun past => ⟨_, rfl, ?_⟩, fun short => ⟨_, rfl, ?_⟩⟩
      · rw [sf1Path, eq, if_neg (by omega)]
        exact ⟨rd_wr_same (s.sf1Digital x) MTR_SF1_PATHB 0, rfl, rd_wr_ne (s.sf1Digital x) (f := MTR_SF1_PATHB) (g := MTR_SF1_PATHA) 0 (by decide)⟩
      · rw [sf1Path, eq, if_pos short]
        exact ⟨(digital_facts s x).1, by rw [(digital_facts s x).2.2.2.2, at0]; rfl⟩
    · have driven : (s.sf1Digital x).sf1At 1 = some (t0 + 62500) := by
        show (s.sf1Digital x).mtr.sf1B = _
        rw [(digital_facts s x).2.2.2.2, at0]
        rfl
      have qualified : (s.sf1Digital x).sf1Qualified 1 = true := by
        rw [qualified_digital, above, decide_eq_true time]
        rfl
      rw [stands (.inr (.inr (.inr (by omega)))), sf1Path, release_at driven, qualified, Bool.true_or, if_pos rfl]
      exact ⟨(digital_facts s x).1, driven⟩
  · obtain rfl : s.sf1See (.digital [x]) = t := Host.Outcome.next.inj h
    exact ⟨congrArg Host.Outcome.next (see_cons s x l), congrArg (fun u : State => Host.Outcome.next (u.sf1Release 1)) (see_cons s x l)⟩
  · exact ⟨fun h => congrArg Host.Outcome.next (see_idle (x := .analog c ns) h), fun h => congrArg Host.Outcome.next (see_idle (x := .digital l) h)⟩
  · have does : exec .sf1DisagreeTimeout s = .next s.sf1Alone := congrArg Host.Outcome.next (whenUp_up hu)
    exact ⟨fun free quiet h => ⟨_, does, sf1Alone_due first free quiet h⟩, fun h => does.trans (congrArg Host.Outcome.next (sf1Alone_suspended first h))⟩

end Sys2Proof.Machine

/-!
PROOFS. The recorder (R283, R286, R287, R291, R293).
-/
namespace Sys2Proof.Machine
set_option Elab.async false

/-! ### Framed records (R286) -/

theorem crcBits_lt (n c : Nat) (h : c < 2 ^ 32) : crcBits 0x82F63B78 n c < 2 ^ 32 := by
  induction n generalizing c with
  | zero => exact h
  | succ n ih =>
    refine ih _ ?_
    unfold crcBit
    split
    · exact Nat.xor_lt_two_pow (by omega) (by decide)
    · omega

theorem crcOver_lt (bs : Octets) (c : Nat) (h : c < 2 ^ 32) : crcOver 0x82F63B78 c bs < 2 ^ 32 := by
  induction bs generalizing c with
  | nil => exact h
  | cons b bs ih =>
    have byte : b.toNat < 2 ^ 32 := Nat.lt_trans b.isLt (by decide)
    exact ih _ (crcBits_lt _ _ (Nat.xor_lt_two_pow h byte))

theorem crc32c_lt (bs : Octets) : crc32c bs < 256 ^ 4 := Nat.xor_lt_two_pow (n := 32) (crcOver_lt bs _ (by decide)) (by decide)

theorem frameRecord_length {r : Octets} (h : 64 ≤ r.length) : (frameRecord r).length = r.length := by
  simp [frameRecord]
  omega

theorem frameRecord_take {r : Octets} (h : 64 ≤ r.length) : (frameRecord r).take 56 = r.take 56 := by
  have len : (r.take 56).length = 56 := by simp; omega
  unfold frameRecord
  rw [List.append_assoc, List.append_assoc, List.take_append_of_le_length (by omega), List.take_of_length_le (by omega)]

theorem frameRecord_drop {r : Octets} (h : 64 ≤ r.length) : (frameRecord r).drop 64 = r.drop 64 := by
  have len : (r.take 56 ++ le 4 (crc32c (r.take 56 ++ r.drop 64)) ++ le 4 validMark).length = 64 := by simp; omega
  unfold frameRecord
  rw [List.drop_append_of_le_length (by omega), List.drop_of_length_le (by omega), List.nil_append]

theorem frameRecord_crc {r : Octets} (h : 64 ≤ r.length) : leAt (frameRecord r) 56 4 = crc32c (r.take 56 ++ r.drop 64) := by
  unfold frameRecord
  rw [List.append_assoc, leAt_mid _ _ _ _ _ (by simp; omega), Nat.mod_eq_of_lt (crc32c_lt _)]

theorem frameRecord_mark {r : Octets} (h : 64 ≤ r.length) : leAt (frameRecord r) 60 4 = validMark := by
  unfold frameRecord
  rw [leAt_mid _ _ _ _ _ (by simp; omega)]
  decide

/-! ### Words written and read back (R283, R287) -/

/-- Octets written stand whatever stood before. -/
theorem memGet_memWrite_inside (m m' : List Host.Cell) (a k : Nat) (bs : Octets) (h1 : a ≤ k) (h2 : k < a + bs.length) : memGet (memWrite m a bs) k = memGet (memWrite m' a bs) k := by
  induction bs generalizing m m' a with
  | nil => exact absurd h2 (by simpa using h1)
  | cons b bs ih =>
    rw [List.length_cons] at h2
    simp only [memWrite]
    by_cases e : k = a
    · rw [memGet_memWrite_outside _ _ _ _ (.inl (by omega)), memGet_memWrite_outside _ _ _ _ (.inl (by omega)), e, memGet_memSet_same, memGet_memSet_same]
    · exact ih _ _ _ (by omega) (by omega)

theorem slice_inside {f : Octets} {i n : Nat} (h : i + n ≤ f.length) : slice f i n = (f.drop i).take n := by
  unfold slice padTo
  rw [show n - (f.drop i).length = 0 by simp; omega]
  exact List.append_nil _

/-- A word of octets that are written at `o`, written again where it stands. -/
theorem memGet_writeWord (m i : List Host.Cell) {f : Octets} {o j a : Nat} (hj : j + 4 ≤ f.length) (h1 : o + j ≤ a) (h2 : a < o + j + 4) :
    memGet (memWrite m (o + j) (le 4 (leAt f j 4))) a = memGet (memWrite i o f) a := by
  have word : le 4 (leAt f j 4) = (f.drop j).take 4 := by
    have len : ((f.drop j).take 4).length = 4 := by simp; omega
    have back := le_leVal ((f.drop j).take 4)
    rw [len] at back
    unfold leAt
    rw [slice_inside hj, back]
  have split : f = f.take j ++ ((f.drop j).take 4 ++ (f.drop j).drop 4) := by rw [List.take_append_drop, List.take_append_drop]
  have len1 : (f.take j).length = j := by simp; omega
  have len2 : ((f.drop j).take 4).length = 4 := by simp; omega
  rw [word]
  conv_rhs => rw [split]
  rw [memWrite_append, memWrite_append, len1, len2, memGet_memWrite_outside _ (o + j + 4) a _ (.inl h2)]
  exact memGet_memWrite_inside _ _ _ _ _ h1 (by omega)

/-- Words that each are of the octets `f` at `o` leave those octets wherever one of them writes, and elsewhere leave what stood. -/
def WordsOf (f : Octets) (o : Nat) (ws : List (Nat × Nat)) : Prop := ∀ w ∈ ws, ∃ j, j + 4 ≤ f.length ∧ w = (o + j, leAt f j 4)

theorem words_written {f : Octets} {o : Nat} (i : List Host.Cell) (a : Nat) : ∀ (ws : List (Nat × Nat)) (m : List Host.Cell), WordsOf f o ws →
    (memGet m a = memGet (memWrite i o f) a ∨ ∃ w ∈ ws, w.1 ≤ a ∧ a < w.1 + 4) →
      memGet (ws.foldl (fun m x => memWrite m x.1 (le 4 (x.2 % 4294967296))) m) a = memGet (memWrite i o f) a := by
  intro ws
  induction ws with
  | nil =>
    rintro m - (h | ⟨w, hw, -⟩)
    · exact h
    · exact absurd hw List.not_mem_nil
  | cons x ws ih =>
    intro m of h
    obtain ⟨j, hj, rfl⟩ := of x List.mem_cons_self
    have value : le 4 (leAt f j 4 % 4294967296) = le 4 (leAt f j 4) := le_congr (by norm_num)
    refine ih _ (fun w hw => of w (List.mem_cons_of_mem _ hw)) ?_
    by_cases here : o + j ≤ a ∧ a < o + j + 4
    · exact .inl ((congrArg (fun b => memGet (memWrite m (o + j) b) a) value).trans (memGet_writeWord m i hj here.1 here.2))
    · rcases h with h | ⟨w, hw, cov⟩
      · exact .inl ((memGet_memWrite_outside _ _ _ _ (by rw [le_length]; dsimp only; omega)).trans h)
      · rcases List.mem_cons.mp hw with rfl | hw
        · exact absurd cov here
        · exact .inr ⟨w, hw, cov⟩

theorem mem_recordWords {n o : Nat} {r : Octets} {w : Nat × Nat} : w ∈ recordWords n o r ↔ ∃ j < n, w = (o + 4 * j, leAt r (4 * j) 4) := by
  induction n generalizing o r with
  | zero => simp [recordWords]
  | succ n ih =>
    have later (j : Nat) : leAt (r.drop 4) (4 * j) 4 = leAt r (4 * (j + 1)) 4 := by
      unfold leAt slice
      rw [List.drop_drop, show 4 + 4 * j = 4 * (j + 1) by omega]
    rw [recordWords, List.mem_cons, ih]
    constructor
    · rintro (rfl | ⟨j, hj, rfl⟩)
      · exact ⟨0, by omega, rfl⟩
      · exact ⟨j + 1, by omega, by rw [later, show o + 4 + 4 * j = o + 4 * (j + 1) by omega]⟩
    · rintro ⟨j, hj, rfl⟩
      cases j with
      | zero => exact .inl rfl
      | succ j => exact .inr ⟨j, by omega, by rw [later, show o + 4 + 4 * j = o + 4 * (j + 1) by omega]⟩

/-- The writes of a framed record after the one that makes its mark invalid (R287). -/
def frameRest (o : Nat) (seq : Bool) (r : Octets) : List (Nat × Nat) := (frameWrites o seq r).tail

theorem frameWrites_eq (o : Nat) (seq : Bool) (r : Octets) : frameWrites o seq r = (o + 60, 0) :: frameRest o seq r := rfl

/-- The words of a framed record and the mark are all words of its octets (R287). -/
theorem frameRest_words {o : Nat} {seq : Bool} {r : Octets} (h : 64 ≤ r.length) : WordsOf (frameRecord r) o (frameRest o seq r) := by
  have len := frameRecord_length h
  intro w hw
  unfold frameRest frameWrites at hw
  rw [List.append_assoc, List.append_assoc, List.append_assoc, List.append_assoc, List.singleton_append, List.tail_cons] at hw
  simp only [List.mem_append, List.mem_filter, List.mem_singleton, mem_recordWords] at hw
  rcases hw with hw | ⟨⟨j, hj, rfl⟩, -⟩ | rfl | hw | rfl
  · split at hw
    · obtain rfl := List.mem_singleton.mp hw
      exact ⟨0, by omega, rfl⟩
    · exact absurd hw List.not_mem_nil
  · exact ⟨4 * j, by omega, rfl⟩
  · exact ⟨56, by omega, rfl⟩
  · split at hw
    · obtain rfl := List.mem_singleton.mp hw
      exact ⟨48, by omega, rfl⟩
    · exact absurd hw List.not_mem_nil
  · exact ⟨60, by omega, by rw [frameRecord_mark h]⟩

/-- Every word of a framed record is written (R287). -/
theorem frameRest_covers {o i : Nat} {seq : Bool} {r : Octets} (h : 64 ≤ r.length) (h4 : r.length % 4 = 0) (hi : i < r.length) : ∃ w ∈ frameRest o seq r, w.1 ≤ o + i ∧ o + i < w.1 + 4 := by
  have len := frameRecord_length h
  have here : ∃ v, (o + 4 * (i / 4), v) ∈ frameRest o seq r := by
    unfold frameRest frameWrites
    rw [List.append_assoc, List.append_assoc, List.append_assoc, List.append_assoc, List.singleton_append, List.tail_cons]
    simp only [List.mem_append, List.mem_filter, List.mem_singleton, mem_recordWords]
    by_cases mark : i / 4 = 15
    · exact ⟨validMark, .inr (.inr (.inr (.inr (by rw [mark]))))⟩
    by_cases crc : i / 4 = 14
    · exact ⟨leAt (frameRecord r) 56 4, .inr (.inr (.inl (by rw [crc])))⟩
    by_cases low : seq = true ∧ i / 4 = 0
    · exact ⟨leAt (frameRecord r) 0 4, .inl (by rw [if_pos low.1, low.2]; simp)⟩
    by_cases high : seq = true ∧ i / 4 = 12
    · exact ⟨leAt (frameRecord r) 48 4, .inr (.inr (.inr (.inl (by rw [if_pos high.1, high.2]; simp))))⟩
    refine ⟨leAt (frameRecord r) (4 * (i / 4)) 4, .inr (.inl ⟨⟨i / 4, by omega, rfl⟩, ?_⟩)⟩
    cases seq
    · simp
      omega
    · simp at low high ⊢
      omega
  obtain ⟨v, hv⟩ := here
  exact ⟨_, hv, by dsimp only; omega, by dsimp only; omega⟩

/-- A framed record that one writer writes reads back whole (R283, R287). -/
theorem frameWrites_read {s : State} {w : Writer} {o : Nat} {seq : Bool} {r : Octets} (own : PstOf w s) (h : 64 ≤ r.length) (h4 : r.length % 4 = 0) {i n : Nat} (hi : i + n ≤ r.length) :
    (s.pstWords w (frameWrites o seq r)).pstOctets (o + i) n = memRead (memWrite [] o (frameRecord r)) (o + i) n := by
  obtain ⟨empty, cells, -⟩ := pstWords_facts own (frameWrites o seq r)
  unfold State.pstOctets
  rw [empty, cells, frameWrites_eq, List.foldl_nil, List.foldl_cons]
  refine memRead_congr _ _ _ _ (fun k h1 h2 => ?_)
  obtain ⟨x, hx, cov⟩ := frameRest_covers (o := o) (i := k - o) (seq := seq) h h4 (by omega)
  exact words_written [] k _ _ (frameRest_words h) (.inr ⟨x, hx, by omega, by omega⟩)

/-- A framed record that one writer writes is valid, whatever stood there (R286, R287). -/
theorem frameWrites_valid {s : State} {w : Writer} {o : Nat} {seq : Bool} {r : Octets} (own : PstOf w s) (h : 64 ≤ r.length) (h4 : r.length % 4 = 0) :
    (s.pstWords w (frameWrites o seq r)).recordValid o r.length = true := by
  have len := frameRecord_length h
  have whole : (s.pstWords w (frameWrites o seq r)).pstOctets o r.length = frameRecord r := by
    refine (frameWrites_read own h h4 (i := 0) (by omega)).trans ?_
    rw [Nat.add_zero, ← len, memRead_memWrite]
  have mark : (s.pstWords w (frameWrites o seq r)).pstWord (o + 60) = validMark := by
    unfold State.pstWord
    rw [frameWrites_read own h h4 (by omega), ← frameRecord_mark h]
    have word : memRead (memWrite [] (o + 60) (le 4 (leAt (frameRecord r) 60 4))) (o + 60) 4 = le 4 (leAt (frameRecord r) 60 4) := memRead_memWrite _ _ (le 4 (leAt (frameRecord r) 60 4))
    rw [memRead_congr _ (memWrite [] (o + 60) (le 4 (leAt (frameRecord r) 60 4))) _ _ (fun k h1 h2 => (memGet_writeWord [] [] (by omega) h1 (by omega)).symm), word, leVal_le]
    exact Nat.mod_eq_of_lt (by rw [frameRecord_mark h]; decide)
  unfold State.recordValid
  rw [whole, mark]
  simp only [frameRecord_take h, frameRecord_drop h, frameRecord_crc h, beq_self_eq_true, Bool.and_self]

/-! ### Operating seconds (R291) -/

theorem pstWord_lt (s : State) (o : Nat) : s.pstWord o < 4294967296 := by
  have h := leVal_lt (s.pstOctets o 4)
  have len : (s.pstOctets o 4).length = 4 := memRead_length _ _ _
  rw [len] at h
  exact h

/-- A word of the cells that no word of the write buffer covers reads as it was written (R283). -/
theorem pstCell_word {s : State} {o v : Nat} (h : ∀ w ∈ s.pst.buffer, w.offset + 4 ≤ o ∨ o + 4 ≤ w.offset) : (s.pstCell o v).pstWord o = v % 4294967296 := by
  have octets : (s.pstCell o v).pstOctets o 4 = le 4 v := by
    unfold State.pstOctets
    rw [(pstCell_pst s o v).1]
    have read := memRead_memWrite s.pst.cells o (le 4 v)
    rw [le_length] at read
    refine (memRead_congr _ _ _ _ (fun k h1 h2 => ?_)).trans read
    exact lay_out s.pst.buffer _ k (fun x hx cov => by have := h x hx; unfold PstWord.covers at cov; omega)
  unfold State.pstWord
  rw [octets, leVal_le]
  rfl

theorem opsecTick_runs {s : State} (por : s.sys.por = false) (osc : s.sys.oscStop = false) : exec .opsecTick s = .next (s.pstAdvance 0x3D1004) :=
  congrArg Host.Outcome.next (if_neg (by rw [por, osc]; decide))

theorem pstAdvance_facts {s : State} {o : Nat} (h : ∀ w ∈ s.pst.buffer, w.offset + 4 ≤ o ∨ o + 4 ≤ w.offset) :
    (s.pstAdvance o).pstWord o = (s.pstWord o + 1) % 2 ^ 32 ∧ (s.pstWord o = 2 ^ 32 - 1 → (s.pstAdvance o).rd PST_STATUS_CNTWRAP = 1) := by
  have raised (u : State) (b : Bool) : (u.raiseIf b PST_STATUS_CNTWRAP).pstWord o = u.pstWord o := by
    unfold State.raiseIf
    split <;> rfl
  refine ⟨?_, fun top => raiseIf_rd_true _ (decide_eq_true (by omega)) (by decide)⟩
  show ((s.pstCell o ((s.pstWord o + 1) % 4294967296)).raiseIf _ PST_STATUS_CNTWRAP).pstWord o = _
  rw [raised, pstCell_word h]
  omega

/-! ### The writes of a closed period (R293) -/

/-- The recorder with its closed period's writes made. -/
def State.periodClosed (s : State) (p : Nat) (ws : List (Nat × Nat)) : State :=
  (((({ s with evr := { s.evr with closing := none } } : State).pstWords .evr ws).raise EVR_STATUS_RECDONE).wr EVR_LAST_IDX p).count EVR_REC_CNT_COUNT EVR_STATUS_CNTWRAP

theorem recorderDone_eq {s : State} {p : Nat} {ws : List (Nat × Nat)} (h : s.evr.closing = some (p, ws)) : s.recorderDone = s.periodClosed p ws := by
  unfold State.recorderDone
  rw [h]
  rfl

theorem recorderDone_idle {s : State} (h : s.evr.closing = none) : s.recorderDone = s := by
  unfold State.recorderDone
  rw [h]

theorem periodClosed_facts {s : State} {p : Nat} {ws : List (Nat × Nat)} (own : ∀ x ∈ s.pst.buffer, x.writer = .evr) (still : s.rfl.store = []) :
    (s.periodClosed p ws).evr = { s.evr with closing := none } ∧ (s.periodClosed p ws).pst.buffer = [] ∧
    (s.periodClosed p ws).pst.cells = (s.pst.buffer.map (fun x : PstWord => (x.offset, x.value)) ++ ws).foldl (fun m w => memWrite m w.1 (le 4 w.2)) s.pst.cells ∧
    (s.periodClosed p ws).rd EVR_STATUS_RECDONE = 1 ∧ (s.periodClosed p ws).rd EVR_LAST_IDX = p % 2 ^ 64 ∧ (s.periodClosed p ws).rd EVR_REC_CNT_COUNT = (s.rd EVR_REC_CNT_COUNT + 1) % 2 ^ 32 := by
  have of : PstOf .evr ({ s with evr := { s.evr with closing := none } } : State) := ⟨⟨fun _ _ _ c => (nomatch c), still⟩, own, 4, by decide, rfl⟩
  obtain ⟨empty, cells, evr⟩ := pstWords_facts of ws
  have count : (({ s with evr := { s.evr with closing := none } } : State).pstWords .evr ws).rd EVR_REC_CNT_COUNT = s.rd EVR_REC_CNT_COUNT := pstWords_rd _ _ _ (by decide) (by decide)
  unfold State.periodClosed
  refine ⟨(count_pst _ _ _).2.1.trans evr, (congrArg PstState.buffer (count_pst _ _ _).1).trans empty, (congrArg PstState.cells (count_pst _ _ _).1).trans (cells.trans ?_), ?_, ?_, ?_⟩
  · rw [List.foldl_append, List.foldl_map]
    have mod (v : Nat) : le 4 (v % 4294967296) = le 4 v := le_congr (by norm_num)
    simp only [mod]
    rfl
  · rw [count_rd_ne _ (by decide) (by decide), rd_wr_ne _ _ (by decide)]
    exact rd_wr_same _ _ _
  · rw [count_rd_ne _ (by decide) (by decide)]
    exact rd_wr_same _ _ _
  · rw [count_rd_same _ (by decide), rd_wr_ne _ _ (by decide), raise_def, rd_wr_ne _ _ (by decide), count]
    rfl

/-- Settles O50: OPSEC lies in the cells where no word of the buffer covers it, and the writer's own words reach the cells in order. -/
theorem recorderWrites : Obligations.RecorderWrites := by
  unfold Obligations.RecorderWrites
  refine ⟨fun s por osc _ h => ⟨s.pstAdvance 0x3D1004, ?_, pstAdvance_facts (fun w hw => by have := h w hw; omega)⟩, fun s hu => ⟨fun p ws hc own still => ?_, fun hc => ?_⟩, fun s w o seq r _ own closing still h h4 => ?_⟩
  · exact opsecTick_runs por osc
  · have does : exec .recorderWriteDone s = .next s.recorderDone := congrArg Host.Outcome.next (whenUp_up hu)
    rw [recorderDone_eq hc] at does
    exact ⟨_, does, periodClosed_facts own still⟩
  · have does : exec .recorderWriteDone s = .next s.recorderDone := congrArg Host.Outcome.next (whenUp_up hu)
    rwa [recorderDone_idle hc] at does
  · exact frameWrites_valid ⟨⟨fun p x ws => closing p x ws, still⟩, own, pstWriters_all w⟩ h h4

end Sys2Proof.Machine

/-!
PROOFS. Access to the persistent store (R282 to R284, R97).
-/
namespace Sys2Proof.Machine
set_option Elab.async false

/-! ### The partitions (R284) -/

theorem pstAllowed_lane (s : State) (l : Lane) (o : Nat) : s.pstAllowed (.lane l) o = true ↔
    (0x300000 ≤ o ∧ o < 0x340000 ∧ s.rd PST_SETSEL_ACT = 0 ∧ s.rd PST_SETSEL_TRIAL = 0) ∨ (0x340000 ≤ o ∧ o < 0x380000 ∧ s.rd PST_SETSEL_ACT ≠ 0 ∧ s.rd PST_SETSEL_TRIAL = 0) ∨
    (0x380000 ≤ o ∧ o < 0x3C0000) ∨ (0xD80000 ≤ o ∧ o < 0x1000000) := by
  have lane : Writer.isLane (.lane l) = true := rfl
  have notRld : (Writer.lane l == .rld) = false := rfl
  have notCommit : (Writer.lane l == .commit) = false := rfl
  have notKsu : (Writer.lane l == .ksu) = false := rfl
  have notEvr : (Writer.lane l == .evr) = false := rfl
  have notPlm : (Writer.lane l == .plm) = false := rfl
  have onBit (f : Field) : s.on f = decide (s.rd f ≠ 0) := by
    unfold State.on
    by_cases h : s.rd f = 0 <;> simp [h]
  unfold State.pstAllowed
  simp only [lane, notRld, notCommit, notKsu, notEvr, notPlm, onBit, Bool.true_and, Bool.true_or, Bool.false_or]
  generalize s.rd PST_SETSEL_ACT = act
  generalize s.rd PST_SETSEL_TRIAL = trial
  by_cases low : o < 0x300000
  · rw [if_pos low]
    simp only [Bool.false_eq_true, false_iff]
    omega
  rw [if_neg low]
  by_cases setA : o < 0x340000
  · rw [if_pos setA]
    simp only [Bool.and_eq_true, Bool.not_eq_true', decide_eq_false_iff_not]
    omega
  rw [if_neg setA]
  by_cases setB : o < 0x380000
  · rw [if_pos setB]
    simp only [Bool.and_eq_true, Bool.not_eq_true', decide_eq_false_iff_not, decide_eq_true_eq]
    omega
  rw [if_neg setB]
  by_cases both : o < 0x3C0000
  · rw [if_pos both]
    simp only [true_iff]
    omega
  rw [if_neg both]
  by_cases high : o < 0xD80000
  · rw [if_pos high]
    simp only [ite_self, Bool.false_eq_true, false_iff]
    omega
  rw [if_neg (show ¬o < 0x3D0000 by omega), if_neg (show ¬o < 0x3D1000 by omega), if_neg (show ¬o < 0x3D2000 by omega), if_neg (show ¬o < 0x3DA000 by omega), if_neg (show ¬o < 0x3E0000 by omega),
    if_neg (show ¬o < 0x3F0000 by omega), if_neg (show ¬o < 0x400000 by omega), if_neg high, Bool.and_true, decide_eq_true_eq]
  omega

/-! ### A lane's store (R282 to R284) -/

section
variable {s : State} {l : Lane} {a size v : Nat} {m : WriteMeet} (hr : s.laneRuns l = true) (ha : 0x20000000 ≤ a ∧ a < 0x21000000)
include hr ha

/-- A store to PST that the PMP regions refuse, or an atomic one, is an access fault (R85). -/
theorem coreStore_pst_refused (h : (s.enterCore l m.core).coreMay l true a size = false ∨ m.atomic ≠ none) : s.coreStore l a size v m = (s.enterCore l m.core).trapLane l .storeFault := by
  have notSram : (decide (0x08000000 ≤ a) && decide (a + size ≤ 0x08400000)) = false := by
    simp only [Bool.and_eq_false_iff, decide_eq_false_iff_not]
    omega
  unfold State.coreStore
  rw [hr]
  dsimp only
  rw [if_neg (by decide), if_neg (fun h => h.1 (.inr ha))]
  split
  · rfl
  · rename_i may
    rcases h with h | h
    · exact absurd (by rw [h]; rfl) may
    · obtain ⟨op, hop⟩ := Option.ne_none_iff_exists'.mp h
      unfold State.coreAccess
      rw [hop, notSram]
      rfl

/-- A store to PST that is not an aligned word faults with ALIGN (R282). -/
theorem laneStore_pst_misaligned (h : size ≠ 4 ∨ a % 4 ≠ 0) : s.laneStore l a size v m = (s.pstMisaligned (a % 0x20000000)).trapLane l .storeFault := by
  rw [State.laneStore, if_neg (by simp [hr]), if_neg (by omega), if_pos ha, if_pos h]

theorem laneStore_pst_aligned (h : a % 4 = 0) : s.laneStore l a 4 v m = s.storePst l a (v % 2 ^ 32) m := by
  rw [State.laneStore, if_neg (by simp [hr]), if_neg (by omega), if_pos ha, if_neg (by omega)]

end

section
variable {s : State} {l : Lane} {a v : Nat} {m : WriteMeet} (hd : (s.lane l).det = false) (hp : m.parity = false)
include hd hp

/-- What the partitions permit is written, and what they do not permit is not (R284). -/
theorem storePst_active (h : s.actsActive l = true) :
    s.storePst l a v m = if s.pstAllowed (.lane l) (a % 0x20000000) then s.pstPut (.lane l) (a % 0x20000000) v else (s.pstRefuse (a % 0x20000000)).trapLane l .storeFault := by
  unfold State.storePst
  dsimp only
  rw [if_neg (by rw [hd]; decide), if_neg (by rw [hp]; decide), if_pos (by rw [h]; rfl)]
  unfold State.pstWrite
  split <;> rfl

theorem storePst_notActive (h : s.actsActive l = false) (split : s.rd LSC_CTRL_SPLIT = 0) : s.storePst l a v m = s.notPerformed l := by
  have off : s.on LSC_CTRL_SPLIT = false := by
    unfold State.on
    rw [split]
    rfl
  unfold State.storePst
  dsimp only
  rw [if_neg (by rw [hd]; decide), if_neg (by rw [hp]; decide), if_neg (by rw [h, off]; simp)]

end

/-- What the write buffer takes leaves the lanes as they are (R283). -/
theorem pstPut_lane (s : State) (w : Writer) (o v : Nat) (l : Lane) : (s.pstPut w o v).lane l = s.lane l := by
  have only : Only 140857747447808 s (s.pstPut w o v) := pstPut_only rfl (Only.refl s)
  exact lane_of_only only rfl rfl l

theorem pstPut_rd (s : State) (w : Writer) (o v : Nat) {f : Field} (h1 : f.key ≠ PST_WORDS_COUNT.key) (h2 : f.key ≠ PST_STATUS_CNTWRAP.key) : (s.pstPut w o v).rd f = s.rd f := by
  have enter (u : State) : (u.pstEnter w o v).rd f = u.rd f := rfl
  unfold State.pstPut
  rw [enter]
  split
  · rfl
  · exact pstStep_rd s h1 h2

theorem trapLane_facts (s : State) (l : Lane) (t : Trap) : ((s.trapLane l t).lane l).trap = some t ∧ ((s.trapLane l t).lane l).data = (s.lane l).data ∧ (s.trapLane l t).pst = s.pst ∧ (s.trapLane l t).regs = s.regs := by
  unfold State.trapLane
  rw [onLane_lane, onLane_pst, onLane_regs]
  exact ⟨rfl, rfl, rfl, rfl⟩

theorem pstMisaligned_facts (s : State) (o : Nat) : (s.pstMisaligned o).rd PST_STATUS_ALIGN = 1 ∧ (s.pstMisaligned o).rd PST_WERR_ADDR = (0x20000000 + o) % 2 ^ 32 ∧ (s.pstMisaligned o).pst = s.pst := by
  refine ⟨?_, rd_wr_same _ _ _, rfl⟩
  unfold State.pstMisaligned
  rw [rd_wr_ne _ _ (by decide)]
  exact rd_wr_same _ _ _

theorem pstRefuse_facts (s : State) (o : Nat) : (s.pstRefuse o).rd PST_STATUS_WPERR = 1 ∧ (s.pstRefuse o).rd PST_WERR_ADDR = (0x20000000 + o) % 2 ^ 32 ∧ (s.pstRefuse o).pst = s.pst := by
  refine ⟨?_, rd_wr_same _ _ _, rfl⟩
  unfold State.pstRefuse
  rw [rd_wr_ne _ _ (by decide)]
  exact rd_wr_same _ _ _

theorem notPerformed_facts (s : State) (l : Lane) : (s.notPerformed l).pst = s.pst ∧ (s.notPerformed l).rd (LSC_SVC_WCNT_COUNT l) = min (2 ^ 32 - 1) (s.rd (LSC_SVC_WCNT_COUNT l) + 1) := by
  have width : (LSC_SVC_WCNT_COUNT l).width = 32 := by cases l <;> rfl
  have rose : (s.notPerformed l).rd (LSC_SVC_WCNT_COUNT l) = min (2 ^ (LSC_SVC_WCNT_COUNT l).width - 1) (s.rd (LSC_SVC_WCNT_COUNT l) + 1) := countSat_rd_same s (svc_ne l)
  rw [width] at rose
  refine ⟨?_, rose⟩
  unfold State.notPerformed State.countSat State.raiseIf
  dsimp only
  split_ifs <;> rfl

/-! ### The arbiter (R283) -/

theorem pstStep_idle {s : State} (h : PstStill s) (empty : s.pst.buffer = []) : s.pstStep = s := by
  have none : s.pstNext = none := by
    unfold State.pstNext
    rw [List.find?_eq_none]
    intro k _
    unfold State.pstHas
    rw [empty]
    simp
  unfold State.pstStep
  rw [pstFeed_still h]
  dsimp only
  rw [none]

/-- A word of the buffer that has reached its cells, with the turn past its writer (R283). -/
def State.wordStands (s : State) (i : Nat) (w : Writer) (x : PstWord) : State :=
  ({ s with pst := { s.pst with buffer := takeWord w s.pst.buffer, turn := (i + 1) % 8 } } : State).pstCell x.offset x.value

/-- The writer whose turn it is is the first that has words, counted from the turn on (R283). -/
theorem pstNext_turn {s : State} {i : Nat} (hi : i < 8) (has : s.pstHas (nth .rld pstWriters ((s.pst.turn + i) % 8)) = true)
    (before : ∀ j < i, s.pstHas (nth .rld pstWriters ((s.pst.turn + j) % 8)) = false) : s.pstNext = some ((s.pst.turn + i) % 8) := by
  have first : (List.range 8).find? ((fun k => s.pstHas (nth .rld pstWriters k)) ∘ fun j => (s.pst.turn + j) % 8) = some i := by
    rw [List.find?_range_eq_some]
    exact ⟨has, List.mem_range.mpr hi, fun j hj => by simpa using before j hj⟩
  unfold State.pstNext
  rw [List.find?_map, first]
  rfl

theorem pstStep_word {s : State} {i : Nat} {w : Writer} {x : PstWord} (still : PstStill s) (hi : i < 8) (hw : nth .rld pstWriters ((s.pst.turn + i) % 8) = w)
    (before : ∀ j < i, s.pstHas (nth .rld pstWriters ((s.pst.turn + j) % 8)) = false) (hx : s.pst.buffer.find? (fun y => y.writer == w) = some x) :
    s.pstStep = s.wordStands ((s.pst.turn + i) % 8) w x := by
  have has : s.pstHas (nth .rld pstWriters ((s.pst.turn + i) % 8)) = true := by
    rw [hw]
    exact List.any_eq_true.mpr ⟨x, List.mem_of_find?_eq_some hx, List.find?_some (p := fun y : PstWord => y.writer == w) hx⟩
  unfold State.pstStep
  rw [pstFeed_still still]
  dsimp only
  rw [pstNext_turn hi has before]
  dsimp only
  rw [hw, hx]
  rfl

theorem wordStands_facts (s : State) (i : Nat) (w : Writer) (x : PstWord) : (s.wordStands i w x).pst = ⟨memWrite s.pst.cells x.offset (le 4 x.value), takeWord w s.pst.buffer, (i + 1) % 8⟩ ∧
    (s.wordStands i w x).rd PST_WORDS_COUNT = (s.rd PST_WORDS_COUNT + 1) % 2 ^ 48 := by
  unfold State.wordStands
  exact ⟨(pstCell_pst _ _ _).1, count_rd_same _ (by decide)⟩

/-- EVR with a word of its own in the buffer offers no other (R283). -/
theorem pstFeedEvr_idle {s : State} (h : s.pstHas .evr = true ∨ s.evr.closing = none) : s.pstFeedEvr = s := by
  unfold State.pstFeedEvr
  split
  · rename_i hc
    rcases h with h | h
    · rw [if_neg (by rw [h]; simp)]
    · rw [h] at hc
      exact nomatch hc
  · rfl

theorem pstFeedPlm_idle {s : State} (h : s.pstHas .plm = true) : s.pstFeedPlm = s := by
  unfold State.pstFeedPlm
  split
  · rw [if_neg (by rw [h]; simp)]
  · rfl

theorem pstEnter_has (s : State) (w : Writer) (o v : Nat) : (s.pstEnter w o v).pstHas w = true :=
  List.any_eq_true.mpr ⟨⟨w, o, v % 4294967296⟩, List.mem_append_right _ (List.mem_singleton.mpr rfl), beq_self_eq_true w⟩

/-- EVR with its next word given to the buffer (R283). -/
def State.evrOffered (s : State) (p o v : Nat) (ws : List (Nat × Nat)) : State := { s.pstEnter .evr o v with evr := { s.evr with closing := some (p, ws) } }

/-- PLM with its next word given to the buffer (R283). -/
def State.plmOffered (s : State) (o v : Nat) (ws : List (Nat × Nat)) : State := { s.pstEnter .plm o v with rfl := { s.rfl with store := ws } }

theorem pstStep_fed (s : State) : s.pstStep = match s.pstFeedEvr.pstFeedPlm.pstNext with
    | none => s.pstFeedEvr.pstFeedPlm
    | some i => match s.pstFeedEvr.pstFeedPlm.pst.buffer.find? (fun x => x.writer == nth .rld pstWriters i) with
      | none => s.pstFeedEvr.pstFeedPlm
      | some x => s.pstFeedEvr.pstFeedPlm.wordStands i (nth .rld pstWriters i) x := rfl

theorem pstStep_evrOffered {s : State} {p o v : Nat} {ws : List (Nat × Nat)} (room : s.pst.buffer.length < 64) (has : s.pstHas .evr = false) (hc : s.evr.closing = some (p, (o, v) :: ws)) :
    s.pstStep = (s.evrOffered p o v ws).pstStep := by
  have feed : s.pstFeedEvr = s.evrOffered p o v ws := by
    unfold State.pstFeedEvr
    rw [hc]
    dsimp only
    rw [if_pos (by rw [decide_eq_true room, has]; rfl)]
    rfl
  have again : (s.evrOffered p o v ws).pstFeedEvr = s.evrOffered p o v ws := pstFeedEvr_idle (.inl (pstEnter_has s .evr o v))
  rw [pstStep_fed s, pstStep_fed (s.evrOffered p o v ws), feed, again]

theorem pstStep_plmOffered {s : State} {o v : Nat} {ws : List (Nat × Nat)} (room : s.pst.buffer.length < 64) (has : s.pstHas .plm = false) (hs : s.rfl.store = (o, v) :: ws) (hc : s.evr.closing = none) :
    s.pstStep = (s.plmOffered o v ws).pstStep := by
  have none : s.pstFeedEvr = s := pstFeedEvr_idle (.inr hc)
  have feed : s.pstFeedPlm = s.plmOffered o v ws := by
    unfold State.pstFeedPlm
    rw [hs]
    dsimp only
    rw [if_pos (by rw [decide_eq_true room, has]; rfl)]
    rfl
  have noneAgain : (s.plmOffered o v ws).pstFeedEvr = s.plmOffered o v ws := pstFeedEvr_idle (.inr hc)
  have again : (s.plmOffered o v ws).pstFeedPlm = s.plmOffered o v ws := pstFeedPlm_idle (pstEnter_has s .plm o v)
  rw [pstStep_fed s, pstStep_fed (s.plmOffered o v ws), none, feed, noneAgain, again]

/-- A word that reaches its cells changes nothing that a reader finds where no other writer has words (R283). -/
theorem pstStep_octets {s : State} {w : Writer} {p n : Nat} (hw : w ≠ .evr ∧ w ≠ .plm) (h : s.pstAlone w p n) : s.pstStep.pstOctets p n = s.pstOctets p n :=
  memRead_congr _ _ _ _ (fun k h1 h2 => (step_mine (mine_of_alone hw h k h1 h2)).2)

theorem pstDrain_octets {s : State} {w : Writer} {p n : Nat} (hw : w ≠ .evr ∧ w ≠ .plm) (h : s.pstAlone w p n) : (s.pstDrain w).pstOctets p n = s.pstOctets p n :=
  memRead_congr _ _ _ _ (fun k h1 h2 => (until_mine _ (mine_of_alone hw h k h1 h2)).2)

/-! ### A lane's load (R282) -/

section
variable {s : State} {l : Lane} {a size : Nat} {m : LoadMeet} {p : PstMeet} (hr : s.laneRuns l = true) (hsize : size = 1 ∨ size = 2 ∨ size = 4 ∨ size = 8) (ha : 0x20000000 ≤ a ∧ a + size ≤ 0x21000000)
include hr hsize ha

theorem coreLoad_pst (hal : a % size = 0) : s.coreLoad l a size m p =
    if (s.enterCore l m.core).coreMay l false a size = true then (s.enterCore l m.core).pstLoad l a size p else (s.enterCore l m.core).trapLane l .loadFault := by
  unfold State.coreLoad
  rw [hr]
  dsimp only
  rw [if_neg (by decide), if_neg (by omega), if_neg (not_not.mpr hsize), if_neg (by omega)]
  cases (s.enterCore l m.core).coreMay l false a size
  · rfl
  · rw [if_neg (by decide), if_pos (by omega)]
    rfl

theorem coreLoad_pst_misaligned (hal : a % size ≠ 0) : s.coreLoad l a size m p = (s.enterCore l m.core).trapLane l .loadMisaligned := by
  unfold State.coreLoad
  rw [hr]
  dsimp only
  rw [if_neg (by decide), if_neg (by omega), if_neg (not_not.mpr hsize), if_pos hal]

end

theorem pstCorrected_facts (s : State) : s.pstCorrected.pst = s.pst ∧ s.pstCorrected.rd PST_STATUS_CE = 1 ∧ s.pstCorrected.rd PST_CE_CNT_COUNT = (s.rd PST_CE_CNT_COUNT + 1) % 2 ^ 32 := by
  unfold State.pstCorrected
  refine ⟨(count_pst _ _ _).1, ?_, ?_⟩
  · rw [count_rd_ne _ (by decide) (by decide)]
    exact rd_wr_same _ _ _
  · rw [count_rd_same _ (by decide), raise_def, rd_wr_ne _ _ (by decide)]
    rfl

theorem pstUncorrected_facts (s : State) : (∀ l, s.pstUncorrected.lane l = s.lane l) ∧ s.pstUncorrected.rd PST_STATUS_UE = 1 ∧ s.pstUncorrected.rd PST_UE_CNT_COUNT = (s.rd PST_UE_CNT_COUNT + 1) % 2 ^ 32 := by
  unfold State.pstUncorrected
  refine ⟨fun l => ?_, ?_, ?_⟩
  · rw [count_lane, raise_def, wr_lane]
  · rw [count_rd_ne _ (by decide) (by decide)]
    exact rd_wr_same _ _ _
  · rw [count_rd_same _ (by decide), raise_def, rd_wr_ne _ _ (by decide)]
    rfl

theorem enterCore_facts (s : State) (l : Lane) (c : CoreMeet) : (s.enterCore l c).pst = s.pst ∧ (s.enterCore l c).regs = s.regs ∧ ((s.enterCore l c).lane l).data = (s.lane l).data ∧ ((s.enterCore l c).lane l).trap = (s.lane l).trap := by
  unfold State.enterCore
  rw [onLane_pst, onLane_regs, onLane_lane]
  exact ⟨rfl, rfl, rfl, rfl⟩

theorem pstOctets_pst {s t : State} (h : t.pst = s.pst) (o n : Nat) : t.pstOctets o n = s.pstOctets o n := by
  unfold State.pstOctets
  rw [h]

/-- A read of PST_DRAIN by a lane empties the buffer of its words and returns 0 (R283). -/
theorem laneRead_drain {s : State} {l : Lane} (hr : s.laneRuns l = true) : s.laneRead l 0x400D0020 4 false = (s.pstDrain (.lane l)).loaded l 0 := by
  have read : s.regRead l 0x400D0020 = (s.pstDrain (.lane l), 0) := by
    unfold State.regRead
    rw [if_neg (fun h => absurd h.2.1 (by decide)), if_neg (by decide), if_neg (by decide), if_pos rfl]
  unfold State.laneRead
  rw [hr, drain_nd, read]
  dsimp only
  rw [if_neg (by decide), if_neg (by decide), if_neg (by simp), if_neg (by decide), if_neg (by decide)]

/-! ### The obligation -/

/-- A lane's aligned word store in service context (R282, R284). -/
theorem pstStore_word {s : State} {l : Lane} {a v : Nat} {m : WriteMeet} (hr : s.laneRuns l = true) (ha : 0x20000000 ≤ a ∧ a < 0x21000000) (may : (s.enterCore l m.core).coreMay l true a 4 = true)
    (plain : m.atomic = none) (h4 : a % 4 = 0) : s.coreStore l a 4 v m = (s.enterCore l m.core).storePst l a (v % 2 ^ 32) m := by
  rw [coreStore_plain hr plain may (.inr ha), laneStore_pst_aligned ((enterCore_runs s l m.core).trans hr) ha h4]

theorem offset_eq {a : Nat} (ha : 0x20000000 ≤ a ∧ a < 0x21000000) : a % 0x20000000 = a - 0x20000000 ∧ (0x20000000 + a % 0x20000000) % 2 ^ 32 = a := by omega

/-- Settles O49, access by access: the core's rules come first, then the partitions, and the arbiter's order is that of its turn. -/
theorem persistentStoreAccess : Obligations.PersistentStoreAccess := by
  unfold Obligations.PersistentStoreAccess
  refine ⟨pstAllowed_lane, fun s u l a size v m hr ha1 ha2 hu => ?_, fun s closing store => ?_, fun s p o v ws room => ⟨fun has hc => congrArg Host.Outcome.next (pstStep_evrOffered room has hc), fun has hs hc =>
    congrArg Host.Outcome.next (pstStep_plmOffered room has hs hc)⟩, fun s w p n h1 h2 h => ⟨_, rfl, pstStep_octets ⟨h1, h2⟩ h⟩, fun s u l a size c hr hsize ha1 ha2 hu => ?_, fun s l hr => ?_⟩
  · subst hu
    obtain ⟨pst, regs, -, trap⟩ := enterCore_facts s l m.core
    have ha := And.intro ha1 ha2
    obtain ⟨off, addr⟩ := offset_eq ha
    refine ⟨fun h => ?_, fun may plain h => ?_, fun may plain h4 hal hp hd => ?_⟩
    · have does : exec (.pstStore l a size v m) s = .next ((s.enterCore l m.core).trapLane l .storeFault) := congrArg Host.Outcome.next (coreStore_pst_refused hr ha h)
      obtain ⟨t1, -, t3, t4⟩ := trapLane_facts (s.enterCore l m.core) l .storeFault
      exact ⟨_, does, t1, t3.trans pst, t4.trans regs⟩
    · have does : exec (.pstStore l a size v m) s = .next (((s.enterCore l m.core).pstMisaligned (a.toNat % 0x20000000)).trapLane l .storeFault) :=
        congrArg Host.Outcome.next ((coreStore_plain hr plain may (.inr ha)).trans (laneStore_pst_misaligned ((enterCore_runs s l m.core).trans hr) ha h))
      obtain ⟨t1, -, t3, t4⟩ := trapLane_facts ((s.enterCore l m.core).pstMisaligned (a.toNat % 0x20000000)) l .storeFault
      obtain ⟨m1, m2, m3⟩ := pstMisaligned_facts (s.enterCore l m.core) (a.toNat % 0x20000000)
      exact ⟨_, does, (rd_regs t4 _).trans m1, (rd_regs t4 _).trans (m2.trans addr), t1, t3.trans (m3.trans pst)⟩
    · subst h4
      have does : exec (.pstStore l a 4 v m) s = .next ((s.enterCore l m.core).storePst l a.toNat (v.toNat % 2 ^ 32) m) := congrArg Host.Outcome.next (pstStore_word hr ha may plain hal)
      have hdu : ((s.enterCore l m.core).lane l).det = false := (enterCore_det s l m.core).trans hd
      have acts := enterCore_active s l m.core
      have allow := enterCore_pstAllowed s l m.core (.lane l) (a.toNat - 0x20000000)
      rw [Nat.mod_eq_of_lt v.isLt] at does
      refine ⟨fun act ok => ?_, fun act no => ?_, fun act split => ?_⟩
      · rw [storePst_active hdu hp (acts.trans act), off, if_pos (allow.trans ok)] at does
        refine ⟨_, does, ?_, ?_, ?_⟩
        · rw [pstPut_word]
          exact Nat.mod_eq_of_lt v.isLt
        · rw [pstPut_lane, trap]
        · rw [pstPut_rd _ _ _ _ (by decide) (by decide)]
          exact rd_regs regs _
      · rw [storePst_active hdu hp (acts.trans act), if_neg (by rw [off, allow, no]; decide)] at does
        obtain ⟨t1, -, t3, t4⟩ := trapLane_facts ((s.enterCore l m.core).pstRefuse (a.toNat % 0x20000000)) l .storeFault
        obtain ⟨m1, m2, m3⟩ := pstRefuse_facts (s.enterCore l m.core) (a.toNat % 0x20000000)
        exact ⟨_, does, t3.trans (m3.trans pst), (rd_regs t4 _).trans m1, (rd_regs t4 _).trans (m2.trans addr), t1⟩
      · rw [storePst_notActive hdu hp (acts.trans act) ((rd_regs regs _).trans split)] at does
        obtain ⟨n1, n2⟩ := notPerformed_facts (s.enterCore l m.core) l
        exact ⟨_, does, n1.trans pst, n2.trans (by rw [rd_regs regs])⟩
  · have still : PstStill s := ⟨closing, store⟩
    refine ⟨fun empty => congrArg Host.Outcome.next (pstStep_idle still empty), fun i w x hi hw before hx => ?_⟩
    have does : exec .pstCellWrite s = .next (s.wordStands ((s.pst.turn + i) % 8) w x) := congrArg Host.Outcome.next (pstStep_word still hi hw before hx)
    exact ⟨_, does, wordStands_facts _ _ _ _⟩
  · subst hu
    obtain ⟨pst, regs, data, -⟩ := enterCore_facts s l c
    have ha := And.intro ha1 ha2
    have off : a.toNat % 0x20000000 = a.toNat - 0x20000000 := by omega
    have runs : (s.enterCore l c).laneRuns l = true := (enterCore_runs s l c).trans hr
    have octets := pstOctets_pst pst (a.toNat - 0x20000000) size
    refine ⟨fun hal may => ?_, fun hal may m => ?_, fun hal m => ?_⟩
    · have does (m : PstMeet) : exec (.pstRead l a size c m) s = .next ((s.enterCore l c).pstLoad l a.toNat size m) :=
        congrArg Host.Outcome.next ((coreLoad_pst (m := ⟨false, c⟩) hr hsize ha hal).trans (if_pos may))
      have go (m : PstMeet) := pstLoad_go (s.enterCore l c) l a size m runs hsize ha1 ha2 hal
      rw [off, octets] at go
      refine ⟨⟨_, (does .clean).trans (congrArg Host.Outcome.next (go .clean)), ?_, ?_, ?_⟩, ⟨_, (does .corrected).trans (congrArg Host.Outcome.next (go .corrected)), ?_, ?_, ?_, ?_⟩,
        ⟨_, (does .uncorrected).trans (congrArg Host.Outcome.next (go .uncorrected)), ?_, ?_, ?_, ?_⟩⟩
      · rw [loaded_lane]
      · exact (onLane_pst _ _ _).trans pst
      · exact (onLane_regs _ _ _).trans regs
      · rw [loaded_lane]
      · exact (onLane_pst _ _ _).trans ((pstCorrected_facts _).1.trans pst)
      · rw [loaded_rd]
        exact (pstCorrected_facts _).2.1
      · rw [loaded_rd, (pstCorrected_facts _).2.2, rd_regs regs]
      · rw [(trapLane_facts _ _ _).2.1, (pstUncorrected_facts _).1, data]
      · exact (trapLane_facts _ _ _).1
      · exact (rd_regs (trapLane_facts _ _ _).2.2.2 _).trans (pstUncorrected_facts _).2.1
      · exact (rd_regs (trapLane_facts _ _ _).2.2.2 _).trans ((pstUncorrected_facts _).2.2.trans (by rw [rd_regs regs]))
    · have does : exec (.pstRead l a size c m) s = .next ((s.enterCore l c).trapLane l .loadFault) :=
        congrArg Host.Outcome.next ((coreLoad_pst (m := ⟨false, c⟩) hr hsize ha hal).trans (if_neg (by rw [may]; decide)))
      obtain ⟨t1, t2, t3, -⟩ := trapLane_facts (s.enterCore l c) l .loadFault
      exact ⟨_, does, t1, t2.trans data, t3.trans pst⟩
    · have does : exec (.pstRead l a size c m) s = .next ((s.enterCore l c).trapLane l .loadMisaligned) := congrArg Host.Outcome.next (coreLoad_pst_misaligned (m := ⟨false, c⟩) hr hsize ha hal)
      obtain ⟨t1, t2, t3, -⟩ := trapLane_facts (s.enterCore l c) l .loadMisaligned
      exact ⟨_, does, t1, t2.trans data, t3.trans pst⟩
  · have own : (Writer.lane l) ≠ .evr ∧ (Writer.lane l) ≠ .plm := ⟨Writer.noConfusion, Writer.noConfusion⟩
    have does : exec (.pstDrainRead l false) s = .next ((s.pstDrain (.lane l)).loaded l 0) := congrArg Host.Outcome.next (laneRead_drain hr)
    have none := pstDrain_none s (.lane l) own
    refine ⟨_, does, fun x hx mine => ?_, ?_, fun p n h => ?_⟩
    · rw [State.loaded, onLane_pst] at hx
      rw [State.pstHas, List.any_eq_false] at none
      exact none x hx (by rw [mine]; exact beq_self_eq_true _)
    · rw [loaded_lane]
    · exact (pstOctets_pst (onLane_pst _ _ _) p n).trans (pstDrain_octets own h)

end Sys2Proof.Machine

/-!
PROOFS. The calendar of the real-time clock (R300 to R302, R306 to R314, R317).
-/
namespace Sys2Proof.Machine
set_option Elab.async false

/-! ### What the tick leaves of the calendar -/

/-- Reads that agree off PON agree in what alarms compare. -/
theorem alarmMatches_congr {s t : State} (h : ∀ f : Field, f.key ≠ RTC_PON_PON.key → f.key ≠ RTC_PON_SRC.key → t.rd f = s.rd f) {n : Nat} (hn : n < 2) : t.alarmMatches n = s.alarmMatches n := by
  obtain rfl | rfl : n = 0 ∨ n = 1 := by omega
  all_goals
    unfold State.alarmMatches State.on
    simp only
    rw [h (RTC_ALM_W1_MASK _) (by decide) (by decide), h (RTC_ALM_W1_EN _) (by decide) (by decide), h RTC_STATUS_OSCSTOP (by decide) (by decide), h RTC_TIME_SEC (by decide) (by decide),
      h (RTC_ALM_W0_SEC _) (by decide) (by decide), h RTC_TIME_MIN (by decide) (by decide), h (RTC_ALM_W0_MIN _) (by decide) (by decide), h RTC_TIME_HOUR (by decide) (by decide),
      h (RTC_ALM_W0_HOUR _) (by decide) (by decide), h RTC_DATE_DAY (by decide) (by decide), h (RTC_ALM_W0_DAY _) (by decide) (by decide), h RTC_DATE_MONTH (by decide) (by decide),
      h (RTC_ALM_W1_MONTH _) (by decide) (by decide), h RTC_DATE_YEAR (by decide) (by decide), h (RTC_ALM_W1_YEAR _) (by decide) (by decide)]

theorem checkAlarm_idle {s : State} {n : Nat} (h : s.alarmMatches n = false) : s.checkAlarm n = s := by
  unfold State.checkAlarm
  rw [h]
  rfl

/-- Alarm 1 leaves the flag of alarm 0. -/
theorem checkAlarm1_flag0 (s : State) : (s.checkAlarm 1).rd RTC_STATUS_ALM0 = s.rd RTC_STATUS_ALM0 := by
  have raised : (s.raise RTC_STATUS_ALM1).rd RTC_STATUS_ALM0 = s.rd RTC_STATUS_ALM0 := rd_wr_ne _ _ (by decide)
  have pon (u : State) (v : Nat) : (u.setPon v 2).rd RTC_STATUS_ALM0 = u.rd RTC_STATUS_ALM0 := (setPon_facts u v 2).2.2.2 _ (by decide) (by decide)
  unfold State.checkAlarm
  split
  · rfl
  · dsimp only
    rw [if_neg (show ¬(1 : Nat) = 0 by decide)]
    split
    · exact (pon _ _).trans raised
    · split
      · exact (pon _ _).trans raised
      · exact raised

/-- The calendar moved has its weekday with it (R300). -/
theorem move_wday (s : State) (d : Int) : (s.moveCalendar d).rd RTC_DATE_WDAY = ((s.moveCalendar d).calendar / 86400 + 5) % 7 := by
  have bound : (((s.calendar : Int) + d) % 6311433600).toNat < 73049 * 86400 := by omega
  rw [move_calendar]
  exact (raiseIf_rd_ne _ (by decide)).trans (set_fields s _ bound).2.2.2.1

theorem move_wraps {s : State} {d : Int} (h : (s.calendar : Int) + d < 0 ∨ 6311433600 ≤ (s.calendar : Int) + d) : (s.moveCalendar d).rd RTC_STATUS_YWRAP = 1 := by
  refine raiseIf_rd_true _ ?_ (by decide)
  rw [Bool.or_eq_true, decide_eq_true_eq, decide_eq_true_eq]
  exact h.imp id (fun h => h)

/-- YWRAP once set stands when the calendar moves on. -/
theorem move_keeps_wrap {s : State} (d : Int) (h : s.rd RTC_STATUS_YWRAP = 1) : (s.moveCalendar d).rd RTC_STATUS_YWRAP = 1 := by
  unfold State.moveCalendar State.raiseIf
  dsimp only
  split
  · exact rd_wr_same _ _ _
  · rw [set_rd _ _ _ (by decide)]
    exact h

theorem hour_armed {s : State} {a : Bool} (h : s.rtc.armed = some a) :
    s.applyHour = (({ s with rtc := { s.rtc with armed := none } } : State).moveCalendar (if a then 3600 else -3600)).wrI RTC_ZONE_ZONE (if a then s.zone + 4 else s.zone - 4) := by
  unfold State.applyHour
  rw [h]
  rfl

theorem unarmed_calendar (s : State) : ({ s with rtc := { s.rtc with armed := none } } : State).calendar = s.calendar := cal_regs (fun _ _ => rfl)

theorem hour_wday {s : State} {a : Bool} (h : s.rtc.armed = some a) : s.applyHour.rd RTC_DATE_WDAY = (s.applyHour.calendar / 86400 + 5) % 7 := by
  have calendar : s.applyHour.calendar = (({ s with rtc := { s.rtc with armed := none } } : State).moveCalendar (if a then 3600 else -3600)).calendar := by
    rw [hour_armed h]
    exact cal_regs (fun f hf => rd_wr_ne _ _ (by rcases hf with hf | hf | hf | hf | hf | hf <;> subst hf <;> decide))
  rw [calendar, hour_armed h]
  exact (rd_wr_ne _ _ (by decide)).trans (move_wday _ _)

theorem hour_wraps {s : State} {a : Bool} (h : s.rtc.armed = some a)
    (wrap : s.rd RTC_STATUS_YWRAP = 1 ∨ (s.calendar : Int) + (if a then 3600 else -3600) < 0 ∨ 6311433600 ≤ (s.calendar : Int) + (if a then 3600 else -3600)) : s.applyHour.rd RTC_STATUS_YWRAP = 1 := by
  have zone (u : State) (z : Int) : (u.wrI RTC_ZONE_ZONE z).rd RTC_STATUS_YWRAP = u.rd RTC_STATUS_YWRAP := rd_wr_ne _ _ (by decide)
  rw [hour_armed h, zone]
  rcases wrap with w | w
  · exact move_keeps_wrap _ w
  · exact move_wraps (by rw [unarmed_calendar]; exact w)

/-! ### The second's work -/

/-- The calendar after the second and the hour command of its tick, before the alarms. -/
def State.secondMoved (s : State) : State := (s.tickStart.moveCalendar 1).applyHour

theorem rtcSecond_eq (s : State) : s.rtcSecond = (s.secondMoved.checkAlarm 0).checkAlarm 1 := rfl

theorem rtcSecond_rd (s : State) {f : Field} (h : f.key ≠ RTC_STATUS_ALM0.key ∧ f.key ≠ RTC_STATUS_ALM1.key ∧ f.key ≠ RTC_PON_PON.key ∧ f.key ≠ RTC_PON_SRC.key) : s.rtcSecond.rd f = s.secondMoved.rd f := by
  rw [rtcSecond_eq, alarm_rd _ _ _ h, alarm_rd _ _ _ h]

theorem tickStart_move (s : State) : (s.tickStart.moveCalendar 1).calendar = (s.calendar + 1) % 6311433600 ∧ (s.tickStart.moveCalendar 1).rtc.armed = s.rtc.armed ∧
    (s.calendar + 1 = 6311433600 → (s.tickStart.moveCalendar 1).rd RTC_STATUS_YWRAP = 1) := by
  have start : s.tickStart.calendar = s.calendar := cal_regs (fun _ _ => rfl)
  refine ⟨?_, ?_, fun h => move_wraps (.inr ?_)⟩
  · rw [move_calendar, start]
    omega
  · rw [(move_parts _ _).1]
    rfl
  · rw [start]
    omega

theorem secondMoved_idle {s : State} (h : s.rtc.armed = none) : s.secondMoved = s.tickStart.moveCalendar 1 := (hour_facts _).1 ((tickStart_move s).2.1.trans h)

/-- After the second the weekday is that of the calendar (R300). -/
theorem rtcSecond_wday (s : State) : s.rtcSecond.rd RTC_DATE_WDAY = (s.rtcSecond.calendar / 86400 + 5) % 7 := by
  have moved : s.secondMoved.rd RTC_DATE_WDAY = (s.secondMoved.calendar / 86400 + 5) % 7 := by
    cases armed : s.rtc.armed with
    | none => rw [secondMoved_idle armed, move_wday]
    | some a => exact hour_wday ((tickStart_move s).2.1.trans armed)
  rw [rtcSecond_rd s (by decide), moved, rtcSecond_eq, alarm_calendar, alarm_calendar]

/-- At the end of its range the calendar begins anew (R301). -/
theorem rtcSecond_wraps {s : State} (armed : s.rtc.armed = none) (h : s.calendar + 1 = 6311433600) : s.rtcSecond.rd RTC_STATUS_YWRAP = 1 ∧ s.rtcSecond.rd RTC_DATE_YEAR = 0 ∧ s.rtcSecond.rd RTC_DATE_MONTH = 1 ∧
    s.rtcSecond.rd RTC_DATE_DAY = 1 ∧ s.rtcSecond.rd RTC_DATE_WDAY = 5 := by
  have start : s.tickStart.calendar = s.calendar := cal_regs (fun _ _ => rfl)
  have zero : (((s.tickStart.calendar : Int) + 1) % ((calendarDays * 86400 : Nat) : Int)).toNat = 0 := by
    rw [start, show ((calendarDays * 86400 : Nat) : Int) = 6311433600 from by decide]
    omega
  obtain ⟨year, month, day, wday, -⟩ := set_fields s.tickStart 0 (by decide)
  have fields (f : Field) (hf : f.key ≠ RTC_STATUS_YWRAP.key) : (s.tickStart.moveCalendar 1).rd f = (s.tickStart.setCalendar 0).rd f := by
    unfold State.moveCalendar
    dsimp only
    rw [raiseIf_rd_ne _ hf, zero]
  refine ⟨?_, ?_, ?_, ?_, ?_⟩
  all_goals rw [rtcSecond_rd s (by decide), secondMoved_idle armed]
  · exact (tickStart_move s).2.2 h
  · exact (fields _ (by decide)).trans (year.trans (by decide))
  · exact (fields _ (by decide)).trans (month.trans (by decide))
  · exact (fields _ (by decide)).trans (day.trans (by decide))
  · exact (fields _ (by decide)).trans (wday.trans (by decide))

theorem rtcSecond_hour_wraps {s : State} {a : Bool} (armed : s.rtc.armed = some a)
    (h : s.calendar + 1 = 6311433600 ∨ ((s.calendar : Int) + 1) % 6311433600 + (if a then 3600 else -3600) < 0 ∨ 6311433600 ≤ ((s.calendar : Int) + 1) % 6311433600 + (if a then 3600 else -3600)) :
    s.rtcSecond.rd RTC_STATUS_YWRAP = 1 := by
  obtain ⟨calendar, kept, wraps⟩ := tickStart_move s
  rw [rtcSecond_rd s (by decide)]
  refine hour_wraps (kept.trans armed) (h.imp wraps (fun h => ?_))
  rw [calendar]
  push_cast
  exact h

/-- An alarm that matches the new calendar sets its flag and applies its action (R317). -/
theorem rtcSecond_alarm0 (s : State) (h : s.rtcSecond.alarmMatches 0 = true) : s.rtcSecond.rd RTC_STATUS_ALM0 = 1 ∧ (s.rtcSecond.alarmMatches 1 = false →
    (s.rtcSecond.rd (RTC_ALM_W1_ACT 0) = 1 → s.rtcSecond.rd RTC_PON_PON = 1 ∧ s.rtcSecond.rd RTC_PON_SRC = 1) ∧ (s.rtcSecond.rd (RTC_ALM_W1_ACT 0) = 2 → s.rtcSecond.rd RTC_PON_PON = 0 ∧ s.rtcSecond.rd RTC_PON_SRC = 1)) := by
  rw [rtcSecond_eq, alarm_keeps _ _ _ (by decide), alarm_keeps _ _ _ (by decide)] at h
  obtain ⟨flag, on, off⟩ := alarm_flag s.secondMoved 0 h (by decide)
  have act : s.rtcSecond.rd (RTC_ALM_W1_ACT 0) = s.secondMoved.rd (RTC_ALM_W1_ACT 0) := rtcSecond_rd s (by decide)
  refine ⟨?_, fun one => ?_⟩
  · rw [rtcSecond_eq, checkAlarm1_flag0]
    exact flag
  · rw [rtcSecond_eq, alarm_keeps _ _ _ (by decide)] at one
    rw [act, rtcSecond_eq, checkAlarm_idle one]
    exact ⟨on, off⟩

theorem rtcSecond_alarm1 (s : State) (h : s.rtcSecond.alarmMatches 1 = true) : s.rtcSecond.rd RTC_STATUS_ALM1 = 1 ∧
    (s.rtcSecond.rd (RTC_ALM_W1_ACT 1) = 1 → s.rtcSecond.rd RTC_PON_PON = 1 ∧ s.rtcSecond.rd RTC_PON_SRC = 2) ∧ (s.rtcSecond.rd (RTC_ALM_W1_ACT 1) = 2 → s.rtcSecond.rd RTC_PON_PON = 0 ∧ s.rtcSecond.rd RTC_PON_SRC = 2) := by
  rw [rtcSecond_eq, alarm_keeps _ _ _ (by decide)] at h
  have act : s.rtcSecond.rd (RTC_ALM_W1_ACT 1) = (s.secondMoved.checkAlarm 0).rd (RTC_ALM_W1_ACT 1) := by rw [rtcSecond_eq, alarm_rd _ _ _ (by decide)]
  rw [act]
  exact alarm_flag (s.secondMoved.checkAlarm 0) 1 h (by decide)

/-! ### A trim step (R312) -/

theorem trimStep_idle {s : State} {p : Nat} (h : s.rtc.stopped = true ∨ s.rdI RTC_TRIM_TRIM = 0 ∨ (s.prescalerAt p).rtc.trimAcc < 2 ^ 20) : s.trimStep p = s.prescalerAt p := by
  have stopped : (s.prescalerAt p).rtc.stopped = s.rtc.stopped := rfl
  unfold State.trimStep
  dsimp only
  rw [if_pos]
  rw [stopped, Bool.or_eq_true, Bool.or_eq_true, beq_iff_eq, decide_eq_true_eq]
  rcases h with h | h | h
  · exact .inl (.inl h)
  · exact .inl (.inr h)
  · exact .inr h

theorem trimStep_taken {s : State} {p : Nat} (run : s.rtc.stopped = false) (trim : s.rdI RTC_TRIM_TRIM ≠ 0) (h : 2 ^ 20 ≤ (s.prescalerAt p).rtc.trimAcc) : s.trimStep p =
    if s.rdI RTC_TRIM_TRIM < 0 then { (s.prescalerAt p).trimTaken with rtc := { (s.prescalerAt p).trimTaken.rtc with prescaler := p % 32768 - 1 } }
    else if p % 32768 = 32767 then (s.prescalerAt p).trimTaken.rtcTick
    else { (s.prescalerAt p).trimTaken with rtc := { (s.prescalerAt p).trimTaken.rtc with prescaler := p % 32768 + 1 } } := by
  have stopped : (s.prescalerAt p).rtc.stopped = false := run
  unfold State.trimStep
  dsimp only
  rw [if_neg]
  · rfl
  · rw [stopped, Bool.or_eq_true, Bool.or_eq_true, beq_iff_eq, decide_eq_true_eq]
    rintro ((h | h) | h)
    · exact Bool.false_ne_true h
    · exact trim h
    · omega

/-! ### The second mark (R309, R310) -/

/-- The second of network time noted as marked. -/
def State.markTaken (s : State) : State := { s with tb := { s.tb with marked := s.tb.now.sec } }

/-- The work of a mark that the discipline acts on. -/
def State.markWork (s : State) (p : Nat) : State := ((s.prescalerAt p).discipline (p % 32768)).noteRtc (s.prescalerAt p) true

/-- A mark that the discipline does not act on (R309). -/
def State.markIdle (s : State) : Prop := s.rd RTC_CTRL_DISC_EN = 0 ∨ s.rd TB_STATUS_STATE ≠ 2 ∨ s.rtc.onVbat = true ∨ s.rtc.stopped = true ∨ s.rtcCycle.commit = true

/-- A mark once its second is noted. -/
def State.markRest (u : State) (p : Nat) : State :=
  if !u.on RTC_CTRL_DISC_EN || u.rd TB_STATUS_STATE != 2 || u.rtc.onVbat || u.rtc.stopped || u.rtcCycle.commit then u
  else (if u.rtcCycle.tick && decide (16384 ≤ p % 32768) then u.undoRtc u.rtcCycle else u).markWork p

theorem rtcMark_same {s : State} {p : Nat} (h : s.tb.now.sec = s.tb.marked) : s.rtcMark p = s := if_pos h

theorem rtcMark_new {s : State} {p : Nat} (h : s.tb.now.sec ≠ s.tb.marked) : s.rtcMark p = s.markTaken.markRest p := if_neg h

theorem markTaken_cycle (s : State) : s.markTaken.rtcCycle = s.rtcCycle := rfl

theorem markIdle_iff (s : State) : s.markIdle ↔ (!s.on RTC_CTRL_DISC_EN || s.rd TB_STATUS_STATE != 2 || s.rtc.onVbat || s.rtc.stopped || s.rtcCycle.commit) = true := by
  unfold State.markIdle State.on
  simp only [Bool.or_eq_true, bne_iff_ne, Bool.not_eq_true', bne_eq_false_iff_eq, or_assoc]

theorem rtcMark_idle {s : State} {p : Nat} (h : s.tb.now.sec ≠ s.tb.marked) (idle : s.markIdle) : s.rtcMark p = s.markTaken := by
  have cond : (!s.markTaken.on RTC_CTRL_DISC_EN || s.markTaken.rd TB_STATUS_STATE != 2 || s.markTaken.rtc.onVbat || s.markTaken.rtc.stopped || s.markTaken.rtcCycle.commit) = true := (markIdle_iff s).mp idle
  rw [rtcMark_new h]
  exact if_pos cond

theorem rtcMark_acts {s : State} {p : Nat} (h : s.tb.now.sec ≠ s.tb.marked) (acts : ¬s.markIdle) :
    s.rtcMark p = (if s.rtcCycle.tick && decide (16384 ≤ p % 32768) then s.markTaken.undoRtc s.rtcCycle else s.markTaken).markWork p := by
  have cond : ¬(!s.markTaken.on RTC_CTRL_DISC_EN || s.markTaken.rd TB_STATUS_STATE != 2 || s.markTaken.rtc.onVbat || s.markTaken.rtc.stopped || s.markTaken.rtcCycle.commit) = true :=
    fun c => acts ((markIdle_iff s).mpr c)
  rw [rtcMark_new h, ← markTaken_cycle s]
  exact if_neg cond

/-! ### The tick of a mark's cycle undone (R307, R309) -/

theorem rtcField_mem (i : Nat) : rtcField i ∈ rtcFields := by
  have inside : ∀ i < 21, rtcField i ∈ rtcFields := by
    intro i hi
    unfold rtcField
    interval_cases i <;> simp [nth, rtcFields]
  by_cases hi : i < 21
  · exact inside i hi
  · have outside (l : List Field) : ∀ i, l.length ≤ i → nth RTC_DATE_YEAR l i = RTC_DATE_YEAR := by
      induction l with
      | nil => intro i _; rfl
      | cons x l ih =>
        intro i hi
        cases i with
        | zero => simp at hi
        | succ i => exact ih i (by simpa using hi)
    rw [rtcField, outside rtcFields i (by simp [rtcFields]; omega)]
    exact List.mem_cons_self

/-- The writes that undo a tick. -/
def undoWrites (L : List (Nat × Nat × Nat)) (s : State) : State := L.foldl (fun (s : State) (u : Nat × Nat × Nat) => if s.rd (rtcField u.1) = u.2.2 then s.wr (rtcField u.1) u.2.1 else s) s

theorem undoWrites_regs (L : List (Nat × Nat × Nat)) (s : State) : ∃ R, undoWrites L s = { s with regs := R } := by
  induction L generalizing s with
  | nil => exact ⟨s.regs, rfl⟩
  | cons u L ih =>
    obtain ⟨R, hR⟩ := ih (if s.rd (rtcField u.1) = u.2.2 then s.wr (rtcField u.1) u.2.1 else s)
    refine ⟨R, hR.trans ?_⟩
    split <;> rfl

theorem undoWrites_rd (L : List (Nat × Nat × Nat)) (s : State) {f : Field} (h : ∀ g ∈ rtcFields, f.key ≠ g.key) : (undoWrites L s).rd f = s.rd f := by
  induction L generalizing s with
  | nil => rfl
  | cons u L ih =>
    refine (ih _).trans ?_
    dsimp only
    split
    · exact rd_wr_ne _ _ (h _ (rtcField_mem _))
    · rfl

theorem undoWrites_tb (L : List (Nat × Nat × Nat)) (s : State) (x : TimeBase) : undoWrites L { s with tb := x } = { undoWrites L s with tb := x } := by
  induction L generalizing s with
  | nil => rfl
  | cons u L ih =>
    have step : (if ({ s with tb := x } : State).rd (rtcField u.1) = u.2.2 then ({ s with tb := x } : State).wr (rtcField u.1) u.2.1 else { s with tb := x }) =
        { (if s.rd (rtcField u.1) = u.2.2 then s.wr (rtcField u.1) u.2.1 else s) with tb := x } := by
      by_cases h : s.rd (rtcField u.1) = u.2.2
      · rw [if_pos h]
        exact if_pos h
      · rw [if_neg h]
        exact if_neg h
    exact (congrArg (undoWrites L) step).trans (ih _)

/-- The RTC with its cycle's tick not yet made. -/
def State.unticked (s : State) (c : RtcCycle) : State :=
  { s with rtc := { s.rtc with armed := if s.rtc.armed.isSome then s.rtc.armed else c.armed, cycle := some { c with tick := false, mark := false, undo := [] } } }

theorem undoRtc_eq (s : State) (c : RtcCycle) : s.undoRtc c = undoWrites c.undo (s.unticked c) := rfl

theorem rtcCycle_recent (s : State) : s.elapsed < s.rtcCycle.at' + 30518 := by
  unfold State.rtcCycle State.rtcNow
  cases s.rtc.cycle with
  | none => exact Nat.lt_add_of_pos_right (by decide)
  | some c =>
    dsimp only
    split
    · rename_i h
      exact h
    · exact Nat.lt_add_of_pos_right (by decide)

/-- A cycle whose tick is undone holds what else it held. -/
theorem undoRtc_cycle (s : State) : (s.undoRtc s.rtcCycle).rtcCycle = { s.rtcCycle with tick := false, mark := false, undo := [] } := by
  obtain ⟨R, hR⟩ := undoWrites_regs s.rtcCycle.undo (s.unticked s.rtcCycle)
  rw [undoRtc_eq, hR]
  unfold State.rtcCycle State.rtcNow
  exact congrArg (fun o : Option RtcCycle => o.getD _) (if_pos (rtcCycle_recent s))

theorem undoRtc_parts (s : State) (c : RtcCycle) : (s.undoRtc c).tb = s.tb ∧ (s.undoRtc c).rtc.onVbat = s.rtc.onVbat ∧ (s.undoRtc c).rtc.stopped = s.rtc.stopped := by
  obtain ⟨R, hR⟩ := undoWrites_regs c.undo (s.unticked c)
  rw [undoRtc_eq, hR]
  exact ⟨rfl, rfl, rfl⟩

theorem undoRtc_rd (s : State) (c : RtcCycle) {f : Field} (h : ∀ g ∈ rtcFields, f.key ≠ g.key) : (s.undoRtc c).rd f = s.rd f := by
  rw [undoRtc_eq, undoWrites_rd _ _ h]
  rfl

theorem undoRtc_markTaken (s : State) (c : RtcCycle) : s.markTaken.undoRtc c = (s.undoRtc c).markTaken := by
  have taken : (s.undoRtc c).markTaken = { s.undoRtc c with tb := { s.tb with marked := s.tb.now.sec } } := by
    unfold State.markTaken
    rw [(undoRtc_parts s c).1]
  rw [taken, undoRtc_eq, undoRtc_eq]
  exact undoWrites_tb c.undo (s.unticked c) _

/-- A mark in the cycle of its own tick is the mark of the state without that tick (R309). -/
theorem rtcMark_undoes {s : State} {p : Nat} (h : s.tb.now.sec ≠ s.tb.marked) (acts : ¬s.markIdle) (tick : s.rtcCycle.tick = true) (hp : 16384 ≤ p % 32768) :
    s.rtcMark p = (s.undoRtc s.rtcCycle).rtcMark p := by
  obtain ⟨tb, vbat, stopped⟩ := undoRtc_parts s s.rtcCycle
  have cycle := undoRtc_cycle s
  have same : (s.undoRtc s.rtcCycle).markIdle ↔ s.markIdle := by
    unfold State.markIdle
    rw [undoRtc_rd s _ (f := RTC_CTRL_DISC_EN) (by decide), undoRtc_rd s _ (f := TB_STATUS_STATE) (by decide), vbat, stopped, cycle]
  rw [rtcMark_acts h acts, rtcMark_acts (by rw [tb]; exact h) (fun c => acts (same.mp c)), cycle, tick, decide_eq_true hp, undoRtc_markTaken]
  rfl

/-- What a mark that acts leaves (R310, R311). -/
theorem rtcMark_facts {s : State} {p : Nat} (hp : p < 32768) (h : s.tb.now.sec ≠ s.tb.marked) (acts : ¬s.markIdle) (armed : s.rtc.armed = none) (tick : s.rtcCycle.tick = false ∨ p < 16384) :
    (s.rtcMark p).rtc.prescaler = 2 ∧ (s.rtcMark p).tb.marked = s.tb.now.sec ∧ (s.rtcMark p).rd RTC_STATUS_OSCSTOP = 0 ∧ (s.rtcMark p).rdI RTC_DRIFT_ERR = (if 16384 ≤ p then (p : Int) - 32768 else p) ∧
    (s.rtcMark p).rd RTC_UTC_OFS = ofsAt s ∧
    (inCalendar (expectedCalendar s.tb.now.sec (ofsAt s) s.zone) = true → ((s.rtcMark p).calendar : Int) = expectedCalendar s.tb.now.sec (ofsAt s) s.zone) ∧
    (inCalendar (expectedCalendar s.tb.now.sec (ofsAt s) s.zone) = false → (s.rtcMark p).rd RTC_STATUS_DISCRNG = 1) := by
  have mod : p % 32768 = p := Nat.mod_eq_of_lt hp
  have keep : (s.rtcCycle.tick && decide (16384 ≤ p % 32768)) = false := by
    rw [mod, Bool.and_eq_false_iff, decide_eq_false_iff_not]
    exact tick.imp id (by omega)
  have work : s.rtcMark p = s.markTaken.markWork p := by rw [rtcMark_acts h acts, keep]; rfl
  let u : State := s.markTaken.prescalerAt p
  have unarmed : u.rtc.armed = none := armed
  obtain ⟨prescaler, osc, err, ofs, inside, outside⟩ := discipline_facts u p hp (if 16384 ≤ p then u.rtcSecond else u) rfl
  have counted : ofsAt (if 16384 ≤ p then u.rtcSecond else u) = ofsAt s ∧ (if 16384 ≤ p then u.rtcSecond else u).tb.now = s.tb.now ∧ (if 16384 ≤ p then u.rtcSecond else u).zone = s.zone := by
    obtain ⟨second, -, -, tb⟩ := second_facts u
    split
    · have same : ofsAt u.rtcSecond = ofsAt u := by
        unfold ofsAt
        rw [second_keeps u unarmed RTC_LEAP_PEND (.inl rfl), second_keeps u unarmed RTC_LEAP_EFF (.inr (.inl rfl)), second_keeps u unarmed RTC_LEAP_NEWOFS (.inr (.inr (.inl rfl))),
          second_keeps u unarmed RTC_UTC_OFS (.inr (.inr (.inr rfl))), tb]
      refine ⟨same, by rw [tb]; rfl, ?_⟩
      unfold State.zone
      rw [(second unarmed).2]
      rfl
    · exact ⟨rfl, rfl, rfl⟩
  rw [counted.1, counted.2.1, counted.2.2] at inside outside
  rw [counted.1] at ofs
  have tb : (u.discipline p).tb = u.tb := only_part (discipline_only (μ := 4398046543872) rfl (Only.refl u)) .tb rfl
  obtain ⟨rd, calendar, pre, -, -, -, tbn⟩ := note_facts (u.discipline p) u true
  rw [work, State.markWork, mod]
  refine ⟨pre.trans prescaler, ?_, (rd _).trans osc, ?_, (rd _).trans ofs, fun c => ?_, fun c => (rd _).trans (outside c)⟩
  · exact congrArg TimeBase.marked (tbn.trans tb)
  · unfold State.rdI
    rw [rd]
    exact err
  · exact (congrArg Nat.cast calendar).trans (inside c)

end Sys2Proof.Machine

/-!
PROOFS. The second tick of the calendar with its hour commands and alarms, and the reset of the backup domain (R300, R301, R306, R317, R305).
-/
namespace Sys2Proof.Machine
set_option Elab.async false

/-! ### The tick and PON -/

/-- The tick with no PON command of its cycle reads as the second's work (R307). -/
theorem rtcTick_alarms {s : State} (run : s.rtc.stopped = false) (commit : s.rtcCycle.commit = false) (mark : s.rtcCycle.mark = false) :
    (s.rtcTick.alarmMatches 0 = true → s.rtcTick.rd RTC_STATUS_ALM0 = 1 ∧ (s.rtcTick.alarmMatches 1 = false → s.rtcCycle.pon = none →
      (s.rtcTick.rd (RTC_ALM_W1_ACT 0) = 1 → s.rtcTick.rd RTC_PON_PON = 1 ∧ s.rtcTick.rd RTC_PON_SRC = 1) ∧ (s.rtcTick.rd (RTC_ALM_W1_ACT 0) = 2 → s.rtcTick.rd RTC_PON_PON = 0 ∧ s.rtcTick.rd RTC_PON_SRC = 1))) ∧
    (s.rtcTick.alarmMatches 1 = true → s.rtcTick.rd RTC_STATUS_ALM1 = 1 ∧ (s.rtcCycle.pon = none →
      (s.rtcTick.rd (RTC_ALM_W1_ACT 1) = 1 → s.rtcTick.rd RTC_PON_PON = 1 ∧ s.rtcTick.rd RTC_PON_SRC = 2) ∧ (s.rtcTick.rd (RTC_ALM_W1_ACT 1) = 2 → s.rtcTick.rd RTC_PON_PON = 0 ∧ s.rtcTick.rd RTC_PON_SRC = 2))) := by
  obtain ⟨-, -, -, -, -, -, reads, all⟩ := tick_second s run commit mark
  rw [alarmMatches_congr reads (n := 0) (by decide), alarmMatches_congr reads (n := 1) (by decide), reads (RTC_ALM_W1_ACT 0) (by decide) (by decide), reads (RTC_ALM_W1_ACT 1) (by decide) (by decide),
    reads RTC_STATUS_ALM0 (by decide) (by decide), reads RTC_STATUS_ALM1 (by decide) (by decide)]
  refine ⟨fun zero => ?_, fun one => ?_⟩
  · obtain ⟨flag, acts⟩ := rtcSecond_alarm0 s zero
    refine ⟨flag, fun none pon => ?_⟩
    rw [all pon, all pon]
    exact acts none
  · obtain ⟨flag, acts⟩ := rtcSecond_alarm1 s one
    refine ⟨flag, fun pon => ?_⟩
    rw [all pon, all pon]
    exact acts

/-- A PON command of the cycle stands over the alarms (R307). -/
theorem rtcTick_pon {s : State} {level : Nat} (run : s.rtc.stopped = false) (commit : s.rtcCycle.commit = false) (mark : s.rtcCycle.mark = false) (pon : s.rtcCycle.pon = some level) :
    s.rtcTick.rd RTC_PON_PON = level % 2 ∧ s.rtcTick.rd RTC_PON_SRC = 3 := by
  have reads := (note_facts (s.rtcSecond.setPon level 3) s false).1
  rw [tick_go s run commit mark, pon, reads, reads]
  exact pon_facts s.rtcSecond level

theorem rtcTick_wday {s : State} (run : s.rtc.stopped = false) (commit : s.rtcCycle.commit = false) (mark : s.rtcCycle.mark = false) :
    s.rtcTick.rd RTC_DATE_WDAY = (s.rtcTick.calendar / 86400 + 5) % 7 := by
  obtain ⟨calendar, -, -, -, -, -, reads, -⟩ := tick_second s run commit mark
  rw [reads _ (by decide) (by decide), calendar, rtcSecond_wday]

/-- The calendar, ZONE and YWRAP after a tick with an armed hour command (R306). -/
theorem rtcTick_hour {s : State} {a : Bool} (run : s.rtc.stopped = false) (commit : s.rtcCycle.commit = false) (mark : s.rtcCycle.mark = false) (armed : s.rtc.armed = some a) :
    s.rtcTick.calendar = ((((s.calendar + 1) % 6311433600 : Nat) + (if a then 3600 else -3600 : Int)) % 6311433600).toNat ∧ s.rtcTick.rdI RTC_ZONE_ZONE = s.zone + (if a then 4 else -4) ∧
    s.rtcTick.rtc.armed = none ∧ s.rtcTick.rd RTC_STATUS_YWRAP = s.rtcSecond.rd RTC_STATUS_YWRAP := by
  obtain ⟨calendar, none, -, -, -, -, reads, -⟩ := tick_second s run commit mark
  obtain ⟨moved, zone⟩ := (second_facts s).2.1 a armed
  refine ⟨calendar.trans moved, ?_, none, reads _ (by decide) (by decide)⟩
  rw [← zone]
  unfold State.rdI
  rw [reads _ (by decide) (by decide)]

/-- Settles O51: the tick is the second's work and then the PON command of its cycle, and a mark is the discipline's work on the state whose tick of that cycle is undone. -/
theorem calendarRuns : Obligations.CalendarRuns := by
  unfold Obligations.CalendarRuns
  have range : calendarDays * 86400 = 6311433600 := by decide
  rw [range]
  refine ⟨fun s run commit mark bound => ⟨fun armed => ?_, fun armed => ?_, fun armed => ?_⟩, fun s h => congrArg Host.Outcome.next (tick_still s h), fun s q p hq => ?_, fun s p hu => ?_,
    fun s p hu sec enabled locked vbat run armed commit tick => ?_⟩
  · obtain ⟨calendar, -, prescaler, -, -, -, reads, -⟩ := tick_second s run commit mark
    have moved := ((second_facts s).1 armed).1
    obtain ⟨alarm0, alarm1⟩ := rtcTick_alarms run commit mark
    refine ⟨_, rfl, calendar.trans moved, rtcTick_wday run commit mark, prescaler, fun wrap => ?_, alarm0, alarm1, fun level pon => rtcTick_pon run commit mark pon⟩
    show s.rtcTick.rd RTC_STATUS_YWRAP = 1 ∧ s.rtcTick.rd RTC_DATE_YEAR = 0 ∧ s.rtcTick.rd RTC_DATE_MONTH = 1 ∧ s.rtcTick.rd RTC_DATE_DAY = 1 ∧ s.rtcTick.rd RTC_DATE_WDAY = 5
    rw [reads RTC_STATUS_YWRAP (by decide) (by decide), reads RTC_DATE_YEAR (by decide) (by decide), reads RTC_DATE_MONTH (by decide) (by decide), reads RTC_DATE_DAY (by decide) (by decide),
      reads RTC_DATE_WDAY (by decide) (by decide)]
    exact rtcSecond_wraps armed wrap
  · obtain ⟨calendar, zone, none, ywrap⟩ := rtcTick_hour run commit mark armed
    refine ⟨_, rfl, ?_, rtcTick_wday run commit mark, zone, none, fun wrap => ywrap.trans (rtcSecond_hour_wraps armed ?_)⟩
    · rw [if_pos rfl] at calendar
      exact calendar.trans (by omega)
    · rw [if_pos rfl]
      omega
  · obtain ⟨calendar, zone, none, ywrap⟩ := rtcTick_hour run commit mark armed
    refine ⟨_, rfl, ?_, rtcTick_wday run commit mark, zone, none, fun wrap => ywrap.trans (rtcSecond_hour_wraps armed ?_)⟩
    · rw [if_neg Bool.false_ne_true] at calendar
      exact calendar.trans (by omega)
    · rw [if_neg Bool.false_ne_true]
      omega
  · subst hq
    have mod : p.toNat % 32768 = p.toNat := Nat.mod_eq_of_lt p.isLt
    refine ⟨fun run acc => ⟨fun pos below => ?_, fun pos top => ?_, fun neg => ?_⟩, fun h => congrArg Host.Outcome.next (trimStep_idle h)⟩
    · have step := trimStep_taken run (by omega) acc
      rw [mod, if_neg (by omega), if_neg (by omega)] at step
      exact congrArg Host.Outcome.next step
    · have step := trimStep_taken run (by omega) acc
      rw [mod, if_neg (by omega), if_pos top] at step
      exact congrArg Host.Outcome.next step
    · have step := trimStep_taken run (by omega) acc
      rw [mod, if_pos neg] at step
      exact congrArg Host.Outcome.next step
  · have does (u : State) (h : u.up = true) : exec (.rtcMark p) u = .next (u.rtcMark p.toNat) := congrArg Host.Outcome.next (whenUp_up h)
    refine ⟨fun same => (does s hu).trans (congrArg Host.Outcome.next (rtcMark_same same)), fun sec idle => (does s hu).trans (congrArg Host.Outcome.next (rtcMark_idle sec idle)),
      fun sec enabled locked vbat run commit tick late => ?_⟩
    have acts : ¬s.markIdle := by
      rintro (h | h | h | h | h)
      · exact enabled h
      · exact h locked
      · exact Bool.false_ne_true (vbat.symm.trans h)
      · exact Bool.false_ne_true (run.symm.trans h)
      · exact Bool.false_ne_true (commit.symm.trans h)
    have up : (s.undoRtc s.rtcCycle).up = true := by
      obtain ⟨R, hR⟩ := undoWrites_regs s.rtcCycle.undo (s.unticked s.rtcCycle)
      rw [undoRtc_eq, hR]
      exact hu
    rw [does s hu, does _ up, rtcMark_undoes sec acts tick (by rwa [Nat.mod_eq_of_lt p.isLt])]
  · have acts : ¬s.markIdle := by
      rintro (h | h | h | h | h)
      · exact enabled h
      · exact h locked
      · exact Bool.false_ne_true (vbat.symm.trans h)
      · exact Bool.false_ne_true (run.symm.trans h)
      · exact Bool.false_ne_true (commit.symm.trans h)
    have does : exec (.rtcMark p) s = .next (s.rtcMark p.toNat) := congrArg Host.Outcome.next (whenUp_up hu)
    obtain ⟨prescaler, marked, osc, err, ofs, inside, outside⟩ := rtcMark_facts p.isLt sec acts armed tick
    refine ⟨_, does, prescaler, marked, osc, err, ofs, ?_⟩
    rw [ofs]
    exact ⟨inside, outside⟩

/-! ### The reset of the backup domain (R305) -/

/-- A field at 0x000F0000: 64 KiB region 15 by its number, but no register of the RTC at 0x400F0000. -/
def strayField : Field := ⟨0x000F0000, 0, 1, 0⟩

/-- A module that holds a 1 there. -/
def strayState : State := State.reset.wr strayField 1

theorem strayField_stands : strayState.backupReset.rd strayField = 1 := by decide +kernel

/-- Refutes O52: a field at 0x000F0000 has the block number of the RTC, and the backup domain's reset clears the RTC's own addresses from 0x400F0000 on only. -/
theorem not_clockCommands : ¬ Obligations.ClockCommands := by
  unfold Obligations.ClockCommands
  rintro ⟨-, -, -, clauses⟩
  obtain ⟨-, -, -, -, -, t, does, -, -, -, -, -, -, -, cleared, -⟩ := clauses strayState
  obtain rfl : strayState.backupReset = t := Host.Outcome.next.inj does
  have zero : strayState.backupReset.rd strayField = 0 := cleared strayField (by decide) (by decide)
  rw [strayField_stands] at zero
  exact absurd zero (by decide)

end Sys2Proof.Machine

/-!
PROOFS. The root key and the crypto engine's jobs (R322, R330, R340 to R342).
-/
namespace Sys2Proof.Machine
set_option Elab.async false

/-! ### The root recovered (R322) -/

/-- The KSU that has tried its helper copy. -/
def State.rootTried (s : State) : State := { s with ksu := { s.ksu with tried := true } }

theorem rootRecovery_idle {s : State} {a : Octets} (h : s.ksu.tried = true ∨ s.lcState = lcRetired) : s.rootRecovery a = s :=
  if_pos (by rw [Bool.or_eq_true, beq_iff_eq]; exact h)

theorem rootRecovery_tries {s : State} {a : Octets} (tried : s.ksu.tried = false) (state : s.lcState ≠ lcRetired) : s.rootRecovery a =
    match (if helperSound (s.pstOctets 0x3D0000 1024) then helperKey (pufBlocks a) (s.pstOctets 0x3D0000 1024) else none) with
    | some k => s.rootTried.formRoot k
    | none => { s.rootTried with ksu := { s.rootTried.ksu with wantMirror := true, response := pufBlocks a } } := by
  unfold State.rootRecovery
  rw [if_neg (by rw [Bool.or_eq_true, beq_iff_eq, tried]; exact fun h => h.elim Bool.false_ne_true state)]
  dsimp only
  generalize (if helperSound (s.pstOctets 0x3D0000 1024) then helperKey (pufBlocks a) (s.pstOctets 0x3D0000 1024) else none) = k
  cases k <;> rfl

theorem formRoot_pst (s : State) (k : Octets) : (s.formRoot k).pst = s.pst := by
  have only : Only 274877972480 s (s.formRoot k) := formRoot_only rfl (Only.refl s)
  have cells : (s.formRoot k).pst.cells = s.pst.cells := only_part only .pstCells rfl
  obtain ⟨buffer, turn⟩ : (s.formRoot k).pst.buffer = s.pst.buffer ∧ (s.formRoot k).pst.turn = s.pst.turn := only_part only .pstBuffer rfl
  generalize (s.formRoot k).pst = x at cells buffer turn
  cases x
  cases h : s.pst
  rw [h] at cells buffer turn
  dsimp only at cells buffer turn
  rw [cells, buffer, turn]

/-! ### The mirror's root (R322) -/

/-- The KSU that has the mirror's helper block. -/
def State.mirrorTaken (s : State) (h : Octets) : State := { s.wr KSU_HLP_HLP (leVal (padTo 1024 h)) with ksu := { s.ksu with wantMirror := false, response := [] } }

/-- The KSU with the helper block rewritten in its partition. -/
def State.mirrorStored (s : State) (h : Octets) : State :=
  ((s.mirrorTaken h).pstWords .ksu (recordWords 256 0x3D0000 (le 1024 ((s.mirrorTaken h).rd KSU_HLP_HLP)))).raise KSU_STATUS_HLPFIX

theorem mirrorWrite_idle {s : State} {h : Octets} (want : s.ksu.wantMirror = false) : s.mirrorWrite h = s :=
  if_pos (by rw [want]; rfl)

theorem mirrorWrite_wanted {s : State} {h : Octets} (want : s.ksu.wantMirror = true) : s.mirrorWrite h =
    match helperKey s.ksu.response h with
    | some k => (s.mirrorStored h).formRoot k
    | none => (s.mirrorTaken h).raise KSU_STATUS_NOROOT := by
  unfold State.mirrorWrite
  rw [if_neg (by rw [want]; decide)]
  dsimp only
  cases helperKey s.ksu.response h <;> rfl

/-- The helper register holds the mirror's block whole. -/
theorem mirrorTaken_block {s : State} {h : Octets} (len : h.length = 1024) : le 1024 ((s.mirrorTaken h).rd KSU_HLP_HLP) = h := by
  have whole : padTo 1024 h = h := by
    unfold padTo
    rw [len, List.take_of_length_le (by omega)]
    exact List.append_nil _
  have read : (s.mirrorTaken h).rd KSU_HLP_HLP = leVal (padTo 1024 h) % 2 ^ KSU_HLP_HLP.width := rd_wr_same s KSU_HLP_HLP _
  have bound : leVal h < 2 ^ KSU_HLP_HLP.width := calc
    leVal h < 256 ^ h.length := leVal_lt h
    _ = 2 ^ (8 * h.length) := (Nat.pow_mul 2 8 h.length).symm
    _ = 2 ^ KSU_HLP_HLP.width := congrArg (2 ^ ·) (by rw [len]; rfl)
  have back := le_leVal h
  rw [len] at back
  rw [read, whole, Nat.mod_eq_of_lt bound, back]

/-- Words that one writer puts where no other has any stand in order, whatever else the buffer holds (R283). -/
theorem puts_mine {w : Writer} {a : Nat} (ws : List (Nat × Nat)) : ∀ {s : State}, PstMine w a s →
    PstMine w a (ws.foldl (fun s x => State.pstPut s w x.1 x.2) s) ∧
    memGet (ws.foldl (fun s x => State.pstPut s w x.1 x.2) s).pstImage a = memGet (ws.foldl (fun m x => memWrite m x.1 (le 4 (x.2 % 4294967296))) s.pstImage) a := by
  induction ws with
  | nil => exact fun h => ⟨h, rfl⟩
  | cons x ws ih =>
    intro s h
    obtain ⟨mine, image⟩ := put_mine h x.1 x.2
    obtain ⟨mine', image'⟩ := ih mine
    refine ⟨mine', image'.trans ?_⟩
    have congr : ∀ (ws : List (Nat × Nat)) (m m' : List Host.Cell), memGet m a = memGet m' a →
        memGet (ws.foldl (fun m x => memWrite m x.1 (le 4 (x.2 % 4294967296))) m) a = memGet (ws.foldl (fun m x => memWrite m x.1 (le 4 (x.2 % 4294967296))) m') a := by
      intro ws
      induction ws with
      | nil => exact fun _ _ h => h
      | cons y ws ih => exact fun m m' h => ih _ _ (memGet_memWrite_congr m m' y.1 _ a h)
    exact congr ws _ _ image

/-- A block of octets that one writer writes, word by word, reads back where no other has words (R283). -/
theorem pstWords_block {s : State} {w : Writer} (hw : w ≠ .evr ∧ w ≠ .plm) {o n m : Nat} {f : Octets} (hm : m = 4 * n) (len : f.length = m) (h : s.pstAlone w o m) :
    (s.pstWords w (recordWords n o f)).pstOctets o m = f := by
  subst hm
  have words : WordsOf f o (recordWords n o f) := by
    intro x hx
    obtain ⟨j, hj, rfl⟩ := mem_recordWords.mp hx
    exact ⟨4 * j, by omega, rfl⟩
  have whole := memRead_memWrite [] o f
  rw [len] at whole
  refine (memRead_congr _ _ _ _ (fun a h1 h2 => ?_)).trans whole
  obtain ⟨mine, image⟩ := puts_mine (recordWords n o f) (mine_of_alone hw h a h1 h2)
  refine (until_mine _ mine).2.trans (image.trans (words_written [] a _ _ words (.inr ⟨_, mem_recordWords.mpr ⟨(a - o) / 4, by omega, rfl⟩, ?_, ?_⟩)))
  · dsimp only
    omega
  · dsimp only
    omega

/-- Where the mirror fails too, the KSU has no root (R322). -/
theorem mirrorTaken_noRoot (s : State) (h : Octets) : ((s.mirrorTaken h).raise KSU_STATUS_NOROOT).rd KSU_STATUS_NOROOT = 1 ∧
    ((s.mirrorTaken h).raise KSU_STATUS_NOROOT).ksu = { s.ksu with wantMirror := false, response := [] } ∧ ((s.mirrorTaken h).raise KSU_STATUS_NOROOT).pst = s.pst := ⟨rd_wr_same _ _ _, rfl, rfl⟩

/-- LCS and the epoch are read off the OTP (R326). -/
theorem lifecycle_otp {s t : State} (h : t.otp = s.otp) : t.lcState = s.lcState ∧ t.epoch = s.epoch := by
  have entry : t.lcEntry = s.lcEntry := by
    funext i
    unfold State.lcEntry
    rw [h]
  have epoch : t.epoch = s.epoch := by
    unfold State.epoch
    rw [entry]
  refine ⟨?_, epoch⟩
  unfold State.lcState State.lcBroken
  rw [epoch, entry]

theorem mirrorStored_facts {s : State} {h : Octets} (len : h.length = 1024) (alone : s.pstAlone .ksu 0x3D0000 1024) :
    (s.mirrorStored h).otp = s.otp ∧ (s.mirrorStored h).rd KSU_STATUS_HLPFIX = 1 ∧ (s.mirrorStored h).pstOctets 0x3D0000 1024 = h := by
  have otp : (s.mirrorStored h).otp = s.otp := by
    unfold State.mirrorStored
    rw [raise_def, wr_otp, (pstWords_parts _ _ _).2]
    rfl
  have raised (u : State) (n : Nat) : (u.raise KSU_STATUS_HLPFIX).pstOctets 0x3D0000 n = u.pstOctets 0x3D0000 n := rfl
  have block := pstWords_block (s := s.mirrorTaken h) (w := .ksu) (o := 0x3D0000) (n := 256) (m := 1024) ⟨Writer.noConfusion, Writer.noConfusion⟩ (by decide) len alone
  refine ⟨otp, rd_wr_same _ _ _, ?_⟩
  rw [State.mirrorStored, mirrorTaken_block len, raised, block]

theorem acmRead_length (s : State) (o n : Nat) : (s.acmRead o n).length = n := by
  rw [State.acmRead, List.length_map, memRead_length]

/-! ### Jobs queued (R341, R342) -/

/-- A job queued behind the others. -/
def State.jobQueued (s : State) (a : Nat) (user : Bool) : State := { s with cry := s.cry ++ [⟨a, user, none⟩] }

theorem cryStart_only_cry (s : State) : s.cryStart = { s with cry := s.cryStart.cry } := by
  unfold State.cryStart
  split
  · rfl
  · split
    · rfl
    · split <;> rfl

theorem cryJob_takes {s : State} {a : Nat} {user : Bool} (free : s.ksu.commit = none) (room : s.cry.length < 8) : s.cryJob a false user = (s.jobQueued a user).cryStart := by
  unfold State.cryJob
  rw [if_neg (by decide), if_neg (by rw [free]; decide), if_neg (by omega)]
  rfl

theorem cryJob_full {s : State} {a : Nat} {user : Bool} (free : s.ksu.commit = none) (full : 8 ≤ s.cry.length) : s.cryJob a false user = s.raise CRY_STATUS_QFULL := by
  unfold State.cryJob
  rw [if_neg (by decide), if_neg (by rw [free]; decide), if_pos full]

theorem cryJob_idle {s : State} {a : Nat} {user : Bool} (busy : s.ksu.commit ≠ none) : s.cryJob a false user = s := by
  unfold State.cryJob
  rw [if_neg (by decide), if_pos (Option.isSome_iff_ne_none.mpr busy)]

/-! ### Jobs ended (R342) -/

/-- The lane that the bus reaches is read off the roles, BIST's blocks and LSC's state. -/
theorem busLane_of_only {m : Nat} {s t : State} (o : Only m s t) (lanes : m.testBit 23 = false) (lsc : m.testBit 28 = false) (roles : m.testBit 3 = false) (saf : m.testBit 21 = false) : t.busLane = s.busLane := by
  have lane := congrArg LaneState.leaving (only_part o .lanes lanes).1
  have leaving : t.laneA.leaving = s.laneA.leaving := lane
  have unit : t.lsc = s.lsc := only_part o .lsc lsc
  have read {f : Field} (h : f.block = 3 ∨ f.block = 21) : t.rd f = s.rd f := only_rd o (by rcases h with h | h <;> rw [h] <;> simp [roles, saf])
  have role : t.role .A = s.role .A := role_of leaving (read (.inl rfl))
  have cold : t.coldLane = s.coldLane := by
    unfold State.coldLane State.blocked State.on
    rw [read (f := LSC_CTRL_PREF_B) (.inl rfl)]
    split <;> simp only [read (f := SAF_BIST_BLOCK_A) (.inr rfl), read (f := SAF_BIST_BLOCK_B) (.inr rfl)]
  unfold State.busLane State.actsActive
  rw [unit, cold, role]

/-- What a job has written before its status: its outputs and the slot it fills (R342). -/
def State.jobOutput (s : State) (d : Octets) (out : CryOut) : State :=
  let t := (s.cryWrite (leAt d 32 4) (cryLengths (octAt d 0) (leAt d 28 4) (octAt d 2)).1 out.dst (out.result == cryOk)).cryWrite (leAt d 36 4) (cryLengths (octAt d 0) (leAt d 28 4) (octAt d 2)).2 out.tag (out.result == cryOk)
  match out.slot with
  | some k => t.setSlot (octAt d 4) (some ⟨8, leAt d 40 4, 1, k⟩)
  | none => t

/-- A job ended with its result in STAT, and counted (R342). -/
def State.jobEnded (s : State) (o r : Nat) : State :=
  let t := ((s.sramWrite s.busLane (o + 44) (le 4 (r + 256))).count CRY_JOB_CNT_COUNT CRY_STATUS_CNTWRAP).raise CRY_STATUS_JOBDONE
  if r == cryOk then t else (t.count CRY_FAIL_CNT_COUNT CRY_STATUS_CNTWRAP).raise CRY_STATUS_FAIL

/-- The queue without the job that runs. -/
def State.jobTaken (s : State) (rest : List CryJob) : State := { s with cry := rest }

/-- The job evaluated on the queue's rest, with what it denies (R342). -/
def State.jobRun (s : State) (rest : List CryJob) (d : Octets) (held : Option KeySlot) (user poison : Bool) : State × CryOut := (s.jobTaken rest).cryEval d held user poison

theorem cryFinish_eq {s : State} {poison : Bool} {j : CryJob} {rest : List CryJob} {o : Nat} {d : Octets} {held : Option KeySlot} (h : s.cry = j :: rest) (hr : s.region j.addr 64 = some (.sram, o)) (hd : j.run = some (d, held)) :
    s.cryFinish poison = ((s.jobRun rest d held j.user poison).1.jobOutput d (s.jobRun rest d held j.user poison).2).jobEnded o (s.jobRun rest d held j.user poison).2.result := by
  have region : ({ s with cry := rest } : State).region j.addr 64 = some (.sram, o) := hr
  unfold State.cryFinish
  rw [h]
  dsimp only
  rw [region, hd]
  rfl

theorem jobOutput_facts (s : State) (d : Octets) (out : CryOut) : (s.jobOutput d out).regs = s.regs ∧ (s.jobOutput d out).cry = s.cry ∧ Only 274894684160 s (s.jobOutput d out) := by
  have wrote (u : State) (a n : Nat) (b : Octets) (ok : Bool) := cryWrite_facts u a n b ok
  have only : Only 274894684160 s ((s.cryWrite (leAt d 32 4) (cryLengths (octAt d 0) (leAt d 28 4) (octAt d 2)).1 out.dst (out.result == cryOk)).cryWrite (leAt d 36 4) (cryLengths (octAt d 0) (leAt d 28 4) (octAt d 2)).2 out.tag (out.result == cryOk)) :=
    cryWrite_only rfl (cryWrite_only rfl (Only.refl s))
  unfold State.jobOutput
  dsimp only
  cases out.slot with
  | none => exact ⟨(wrote _ _ _ _ _).1.trans (wrote _ _ _ _ _).1, (wrote _ _ _ _ _).2.trans (wrote _ _ _ _ _).2, only⟩
  | some k => exact ⟨(wrote _ _ _ _ _).1.trans (wrote _ _ _ _ _).1, (wrote _ _ _ _ _).2.trans (wrote _ _ _ _ _).2, setSlot_only rfl only⟩

theorem jobRun_facts (s : State) (rest : List CryJob) (d : Octets) (held : Option KeySlot) (user poison : Bool) : (s.jobRun rest d held user poison).1.cry = rest ∧
    (∀ f : Field, f.key = CRY_JOB_CNT_COUNT.key ∨ f.key = CRY_FAIL_CNT_COUNT.key → (s.jobRun rest d held user poison).1.rd f = s.rd f) ∧ (s.jobRun rest d held user poison).1.busLane = s.busLane := by
  have only : Only 18014398509678592 (s.jobTaken rest) (s.jobRun rest d held user poison).1 := cryEval_only rfl (Only.refl _)
  have bus : (s.jobRun rest d held user poison).1.busLane = s.busLane := (busLane_of_only only rfl rfl rfl rfl).trans rfl
  have denied (u : State) (f : Field) (h : f.key = CRY_JOB_CNT_COUNT.key ∨ f.key = CRY_FAIL_CNT_COUNT.key) : (u.deny.raise CRY_STATUS_POLDENY).rd f = u.rd f := by
    have apart {g : Field} (h1 : g.key ≠ CRY_JOB_CNT_COUNT.key) (h2 : g.key ≠ CRY_FAIL_CNT_COUNT.key) : f.key ≠ g.key := fun e => h.elim (fun h => h1 (e.symm.trans h)) (fun h => h2 (e.symm.trans h))
    have flag : f.key ≠ CRY_STATUS_POLDENY.key := apart (by decide) (by decide)
    have ksu : f.key ≠ KSU_STATUS_POLDENY.key := apart (by decide) (by decide)
    have count : f.key ≠ KSU_DENY_CNT_COUNT.key := apart (by decide) (by decide)
    have wrap : f.key ≠ KSU_STATUS_CNTWRAP.key := apart (by decide) (by decide)
    unfold State.deny
    rw [raise_def, rd_wr_ne _ _ flag, count_rd_ne _ count wrap, raise_def, rd_wr_ne _ _ ksu]
  refine ⟨?_, fun f h => ?_, bus⟩
  · rcases cryEval_facts (s.jobTaken rest) d held user poison with e | e | e
    · exact congrArg State.cry e
    · exact congrArg State.cry e
    · exact (congrArg State.cry e).trans (deny_facts _).2.1
  · unfold State.jobRun
    rcases cryEval_facts (s.jobTaken rest) d held user poison with e | e | e
    · rw [e]
      rfl
    · rw [e]
      rfl
    · rw [e, denied _ f h]
      rfl

theorem sramWrite_regs (s : State) (l : Lane) (o : Nat) (bs : Octets) : (s.sramWrite l o bs).regs = s.regs ∧ (s.sramWrite l o bs).cry = s.cry := by
  cases l <;> exact ⟨rfl, rfl⟩

theorem count_raise_parts (s : State) (f w g : Field) : ((s.count f w).raise g).cry = s.cry ∧ ∀ l, ((s.count f w).raise g).lane l = s.lane l := by
  refine ⟨?_, fun l => by rw [raise_def, wr_lane, count_lane]⟩
  unfold State.count State.addCount State.raiseIf
  dsimp only
  split <;> rfl

theorem jobEnded_facts (s : State) (o r : Nat) : (s.jobEnded o r).cry = s.cry ∧ (s.jobEnded o r).rd CRY_JOB_CNT_COUNT = (s.rd CRY_JOB_CNT_COUNT + 1) % 2 ^ 32 ∧ (s.jobEnded o r).rd CRY_STATUS_JOBDONE = 1 ∧
    memRead ((s.jobEnded o r).lane s.busLane).sram (o + 44) 4 = le 4 (r + 256) ∧
    (r ≠ cryOk → (s.jobEnded o r).rd CRY_STATUS_FAIL = 1 ∧ (s.jobEnded o r).rd CRY_FAIL_CNT_COUNT = (s.rd CRY_FAIL_CNT_COUNT + 1) % 2 ^ 32) ∧ (r = cryOk → (s.jobEnded o r).rd CRY_FAIL_CNT_COUNT = s.rd CRY_FAIL_CNT_COUNT) := by
  obtain ⟨regs, cry⟩ := sramWrite_regs s s.busLane (o + 44) (le 4 (r + 256))
  have sram := sramWrite_read s s.busLane (o + 44) (le 4 (r + 256))
  rw [le_length] at sram
  generalize hu : s.sramWrite s.busLane (o + 44) (le 4 (r + 256)) = u at regs cry sram
  obtain ⟨cry1, lane1⟩ := count_raise_parts u CRY_JOB_CNT_COUNT CRY_STATUS_CNTWRAP CRY_STATUS_JOBDONE
  have jobs : ((u.count CRY_JOB_CNT_COUNT CRY_STATUS_CNTWRAP).raise CRY_STATUS_JOBDONE).rd CRY_JOB_CNT_COUNT = (s.rd CRY_JOB_CNT_COUNT + 1) % 2 ^ 32 := by
    rw [raise_def, rd_wr_ne _ _ (by decide), count_rd_same _ (by decide), rd_regs regs]
    rfl
  have fails : ((u.count CRY_JOB_CNT_COUNT CRY_STATUS_CNTWRAP).raise CRY_STATUS_JOBDONE).rd CRY_FAIL_CNT_COUNT = s.rd CRY_FAIL_CNT_COUNT := by
    rw [raise_def, rd_wr_ne _ _ (by decide), count_rd_ne _ (by decide) (by decide), rd_regs regs]
  have done : ((u.count CRY_JOB_CNT_COUNT CRY_STATUS_CNTWRAP).raise CRY_STATUS_JOBDONE).rd CRY_STATUS_JOBDONE = 1 := rd_wr_same _ _ _
  unfold State.jobEnded
  dsimp only
  rw [hu]
  generalize (u.count CRY_JOB_CNT_COUNT CRY_STATUS_CNTWRAP).raise CRY_STATUS_JOBDONE = v at cry1 lane1 jobs fails done
  by_cases ok : r = cryOk
  · rw [if_pos (beq_iff_eq.mpr ok)]
    exact ⟨cry1.trans cry, jobs, done, by rw [lane1, sram], fun h => absurd ok h, fun _ => fails⟩
  · rw [if_neg (fun h => ok (beq_iff_eq.mp h))]
    obtain ⟨cry2, lane2⟩ := count_raise_parts v CRY_FAIL_CNT_COUNT CRY_STATUS_CNTWRAP CRY_STATUS_FAIL
    refine ⟨cry2.trans (cry1.trans cry), ?_, ?_, by rw [lane2, lane1, sram], fun _ => ⟨rd_wr_same _ _ _, ?_⟩, fun h => absurd h ok⟩
    · rw [raise_def, rd_wr_ne _ _ (by decide), count_rd_ne _ (by decide) (by decide), jobs]
    · rw [raise_def, rd_wr_ne _ _ (by decide), count_rd_ne _ (by decide) (by decide), done]
    · rw [raise_def, rd_wr_ne _ _ (by decide), count_rd_same _ (by decide), fails]
      rfl

/-- The next job reads its command block and its slot (R342). -/
theorem cryStart_next {s : State} {n : CryJob} {more : List CryJob} {p : Nat} (h : s.cry = n :: more) (run : n.run = none) (region : s.region n.addr 64 = some (.sram, p)) :
    s.cryStart.cry = { n with run := some (memRead (s.lane s.busLane).sram p 64, s.slot (octAt (memRead (s.lane s.busLane).sram p 64) 1)) } :: more := by
  unfold State.cryStart
  rw [h]
  dsimp only
  rw [run, region]
  rfl

/-- Settles O53: the KSU's two tries at its root, the queue of jobs, and the end of the job that runs. -/
theorem rootAndJobs : Obligations.RootAndJobs := by
  unfold Obligations.RootAndJobs
  refine ⟨fun s a hu => ?_, fun s hu => ?_, fun s l a user hs free => ?_, fun s l a user hs busy => (cryJob_serves a user hs).trans (congrArg Host.Outcome.next (cryJob_idle busy)), fun s poison j rest d held o r hu hc hr hd hres => ?_,
    fun s poison hu hc => ?_⟩
  · have does : exec (.rootRecovery a) s = .next (s.rootRecovery a) := congrArg Host.Outcome.next (whenUp_up hu)
    refine ⟨fun h => does.trans (congrArg Host.Outcome.next (rootRecovery_idle h)), fun tried state => ⟨fun k sound key => ?_, fun h => ?_⟩⟩
    · rw [rootRecovery_tries tried state, if_pos sound, key] at does
      obtain ⟨cache, -, want, still, -, otp, ok, -⟩ := formRoot_facts s.rootTried k
      exact ⟨_, does, cache, ok, still, want, formRoot_pst _ _, otp⟩
    · have none : (if helperSound (s.pstOctets 0x3D0000 1024) then helperKey (pufBlocks a) (s.pstOctets 0x3D0000 1024) else none) = none := by
        rcases h with h | h
        · rw [h]; rfl
        · rw [h, ite_self]
      rw [rootRecovery_tries tried state, none] at does
      exact ⟨_, does, rfl, rfl, rfl⟩
  · have does : exec .helperMirrorWrite s = .next (s.mirrorWrite (s.acmRead 0x2000 1024)) := congrArg Host.Outcome.next (whenUp_up hu)
    refine ⟨fun want => does.trans (congrArg Host.Outcome.next (mirrorWrite_idle want)), fun want => ⟨fun k key _ alone => ?_, fun key => ?_⟩⟩
    · rw [mirrorWrite_wanted want, key] at does
      obtain ⟨otp, fix, block⟩ := mirrorStored_facts (acmRead_length s 0x2000 1024) alone
      obtain ⟨state, epoch⟩ := lifecycle_otp otp
      obtain ⟨cache, -, wanted, -, -, -, ok, reads⟩ := formRoot_facts (s.mirrorStored (s.acmRead 0x2000 1024)) k
      rw [state, epoch] at cache
      exact ⟨_, does, cache, ok, (reads _ (by decide) (by decide) (by decide)).trans fix, wanted, (pstOctets_pst (formRoot_pst _ _) _ _).trans block⟩
    · rw [mirrorWrite_wanted want, key] at does
      exact ⟨_, does, mirrorTaken_noRoot _ _⟩
  · have does := cryJob_serves a user hs
    refine ⟨fun room => ?_, fun full => does.trans (congrArg Host.Outcome.next (cryJob_full free full))⟩
    rw [cryJob_takes free room] at does
    refine ⟨_, does, cryStart_only_cry _, ?_⟩
    rw [(cryStart_facts _).2.2.1]
    exact List.map_append
  · have does : exec (.cryJobComplete poison) s = .next (s.cryFinish poison).cryStart := congrArg Host.Outcome.next (whenUp_up hu)
    have result : (s.jobRun rest d held j.user poison).2.result = r := hres
    obtain ⟨rest1, counts, bus1⟩ := jobRun_facts s rest d held j.user poison
    obtain ⟨regs2, cry2, only2⟩ := jobOutput_facts (s.jobRun rest d held j.user poison).1 d (s.jobRun rest d held j.user poison).2
    have bus2 := (busLane_of_only only2 rfl rfl rfl rfl).trans bus1
    rw [cryFinish_eq hc hr hd, result] at does
    generalize (s.jobRun rest d held j.user poison).1.jobOutput d (s.jobRun rest d held j.user poison).2 = v at regs2 cry2 bus2 does
    obtain ⟨cry3, jobs, done, stat, fails, oks⟩ := jobEnded_facts v o r
    have count (f : Field) (hf : f.key = CRY_JOB_CNT_COUNT.key ∨ f.key = CRY_FAIL_CNT_COUNT.key) : v.rd f = s.rd f := (rd_regs regs2 f).trans (counts f hf)
    rw [count _ (.inl rfl)] at jobs
    rw [count _ (.inr rfl)] at fails oks
    rw [bus2] at stat
    generalize v.jobEnded o r = w at cry3 jobs done stat fails oks does
    obtain ⟨regs4, -, map4, laneA4, laneB4⟩ := cryStart_facts w
    have lane4 : ∀ l, w.cryStart.lane l = w.lane l := fun l => by cases l; exacts [laneA4, laneB4]
    refine ⟨_, does, map4.trans (by rw [cry3, cry2, rest1]), (rd_regs regs4 _).trans jobs, (rd_regs regs4 _).trans done, by rw [lane4]; exact stat, fun h => ?_, fun h => (rd_regs regs4 _).trans (oks h), fun n more p hn run region => ?_⟩
    · exact ⟨(rd_regs regs4 _).trans (fails h).1, (rd_regs regs4 _).trans (fails h).2⟩
    · have only := cryStart_only_cry w
      have region' : w.region n.addr 64 = some (.sram, p) := by
        rw [only] at region
        exact region
      have bus : w.cryStart.busLane = w.busLane := by rw [only]; rfl
      have slot : w.cryStart.slot = w.slot := by rw [only]; rfl
      rw [bus, lane4, slot]
      exact cryStart_next (cry3.trans (cry2.trans (rest1.trans hn))) run region'
  · have does : exec (.cryJobComplete poison) s = .next (s.cryFinish poison).cryStart := congrArg Host.Outcome.next (whenUp_up hu)
    have none : s.cryFinish poison = s := by
      unfold State.cryFinish
      rw [hc]
    have idle : s.cryStart = s := by
      unfold State.cryStart
      rw [hc]
    rw [none, idle] at does
    exact does

end Sys2Proof.Machine

/-!
PROOFS. The commands of the key store (R323, R326, R327, R336 to R338, R343).
-/
namespace Sys2Proof.Machine
set_option Elab.async false

/-! ### Lengths -/

theorem be_length (n v : Nat) : (be n v).length = n := by
  rw [be, List.length_reverse, le_length]

theorem unpack_length (w n v : Nat) : (unpack w n v).length = n := by
  induction n generalizing v with
  | zero => rfl
  | succ n ih => rw [unpack, List.length_cons, ih]

/-- A round of the hash keeps its eight words. -/
theorem sha2Turn_length (h : Sha2) (r : List Nat × List Nat) (k : Nat) (len : r.2.length = 8) : (h.turn r k).2.length = 8 := by
  unfold Sha2.turn
  dsimp only
  rw [List.length_cons, upd_length, List.length_take, len]
  rfl

theorem sha2Turns_length (h : Sha2) (ks : List Nat) (r : List Nat × List Nat) (len : r.2.length = 8) : (ks.foldl h.turn r).2.length = 8 :=
  foldl_inv (fun r => r.2.length = 8) h.turn (fun r k len => sha2Turn_length h r k len) ks r len

theorem sha2Fold_length (h : Sha2) (hv : List Nat) (blk : Octets) (len : hv.length = 8) : (h.fold hv blk).length = 8 := by
  unfold Sha2.fold
  dsimp only
  rw [List.length_map, List.length_zip, sha2Turns_length h _ (unpack h.width 16 (beVal blk), hv) len, len]
  rfl

theorem sha2Blocks_length (h : Sha2) (n : Nat) (hv : List Nat) (bs : Octets) (len : hv.length = 8) : (h.blocks n hv bs).length = 8 := by
  induction n generalizing hv bs with
  | zero => exact len
  | succ n ih => exact ih _ _ (sha2Fold_length h hv _ len)

/-- Blocks of one length laid end to end. -/
theorem flatten_length {α : Type} (f : α → Octets) (k : Nat) (hf : ∀ x, (f x).length = k) (l : List α) : (l.map f).flatten.length = k * l.length := by
  induction l with
  | nil => rfl
  | cons x l ih =>
    rw [List.map_cons, List.flatten_cons, List.length_append, ih, hf, List.length_cons]
    ring

theorem sha256_length (m : Octets) : (sha256 m).length = 32 := by
  unfold sha256 Sha2.hash
  dsimp only
  rw [flatten_length _ _ (fun v => be_length _ v), sha2Blocks_length _ _ _ _ (unpack_length _ _ _)]
  rfl

/-- A helper block is of 1,024 octets (R322). -/
theorem helperBlock_length (r ms : List Nat) : (helperBlock r ms).length = 1024 := by
  have check : (pufCheck (pufKey (pufOctets ms))).length = 8 := by
    rw [pufCheck, List.length_take, sha256_length]
    rfl
  have offset : (pufOffset r ms).length = 960 := by
    rw [pufOffset, flatten_length _ 32 (fun _ => le_length _ _), List.length_range]
  simp [helperBlock, check, offset, zeros]

/-! ### Contexts of a policy (R336) -/

theorem bit_testBit (v i : Nat) : bit v i = v.testBit i := by
  rw [bit, Nat.testBit_eq_decide_div_mod_eq]
  exact Bool.beq_eq_decide_eq _ _

theorem bits_testBit (v lo w i : Nat) : (bits v lo w).testBit i = (decide (i < w) && bit v (lo + i)) := by
  rw [bits, Nat.testBit_mod_two_pow, Nat.testBit_div_two_pow, bit_testBit]
  rw [Nat.add_comm]

/-- A policy's contexts lie within another's where each of its bits is one of the other's. -/
theorem contexts_within (p q : Nat) : (bits p 8 6).land (bits q 8 6) = bits p 8 6 ↔ ∀ b < 6, bit p (8 + b) = true → bit q (8 + b) = true := by
  have land (a b : Nat) : a.land b = a &&& b := rfl
  rw [land]
  constructor
  · intro h b hb hp
    have at_b := congrArg (fun v => Nat.testBit v b) h
    simp only [Nat.testBit_and, bits_testBit, hb, hp, decide_true, Bool.true_and] at at_b
    exact at_b
  · intro h
    refine Nat.eq_of_testBit_eq (fun b => ?_)
    rw [Nat.testBit_and, bits_testBit, bits_testBit]
    by_cases hb : b < 6
    · cases hp : bit p (8 + b)
      · simp
      · simp [hb, h b hb hp]
    · simp [hb]

/-! ### CLEAR and DERIVE (R336, R338) -/

theorem ksuClear_locked {s : State} (h : s.slotLocked (s.rd KSU_CLR_SLOT) = true) : s.ksuClear = s.ksuDone ksuLocked := if_pos h

theorem ksuClear_open {s : State} (h : s.slotLocked (s.rd KSU_CLR_SLOT) = false) : s.ksuClear = (s.setSlot (s.rd KSU_CLR_SLOT) none).ksuDone ksuOk := if_neg (by rw [h]; decide)

/-- The first octet of INFO, whatever of it counts. -/
theorem octAt_take {bs : Octets} {n : Nat} (h : 0 < n) : octAt (bs.take n) 0 = octAt bs 0 := by
  cases bs with
  | nil => rw [List.take_nil]
  | cons b bs =>
    obtain ⟨m, rfl⟩ := Nat.exists_eq_add_of_lt h
    rw [Nat.zero_add, List.take_succ_cons]
    simp [octAt, leAt, slice, padTo, leVal]

theorem ksuDerive_badInfo {s : State} (h : octAt (le 32 (s.rd KSU_DRV_INFO_INFO)) 0 = 0) : s.ksuDerive = s.ksuDone ksuBadField := by
  refine if_pos ?_
  by_cases n : s.rd KSU_DRV_INFOLEN = 0
  · exact .inr (.inl n)
  · exact .inr (.inr (.inr (.inl ((octAt_take (by omega)).trans h))))

/-- DERIVE with fields in order works on its source (R338). -/
theorem ksuDerive_source {s : State} {ikm : Octets} {src : Nat} (source : s.deriveSource = (s, .inr (ikm, src))) (n1 : 1 ≤ s.rd KSU_DRV_INFOLEN) (n2 : s.rd KSU_DRV_INFOLEN ≤ 32)
    (info : octAt (le 32 (s.rd KSU_DRV_INFO_INFO)) 0 ≠ 0) (dst : s.rd KSU_DRV_DST ≠ 0) (typ : (1 ≤ s.rd KSU_DRV_TYPE ∧ s.rd KSU_DRV_TYPE ≤ 4) ∨ s.rd KSU_DRV_TYPE = 8)
    (policy : policyGood (s.rd KSU_DRV_TYPE) (s.rd KSU_DRV_POL_POLICY) = true) : s.ksuDerive =
      if (bits (s.rd KSU_DRV_POL_POLICY) 8 6).land (bits src 8 6) != bits (s.rd KSU_DRV_POL_POLICY) 8 6 then s.ksuDone ksuPolicy
      else (s.setSlot (s.rd KSU_DRV_DST) (some ⟨s.rd KSU_DRV_TYPE, s.rd KSU_DRV_POL_POLICY, 1,
        hkdf (zeros 32) ikm ((le 32 (s.rd KSU_DRV_INFO_INFO)).take (s.rd KSU_DRV_INFOLEN)) (typeOctets (s.rd KSU_DRV_TYPE))⟩)).ksuDone ksuOk := by
  have first := octAt_take (bs := le 32 (s.rd KSU_DRV_INFO_INFO)) (n := s.rd KSU_DRV_INFOLEN) (by omega)
  have good : ¬(s.rd KSU_DRV_DST = 0 ∨ s.rd KSU_DRV_INFOLEN = 0 ∨ 32 < s.rd KSU_DRV_INFOLEN ∨ octAt ((le 32 (s.rd KSU_DRV_INFO_INFO)).take (s.rd KSU_DRV_INFOLEN)) 0 = 0 ∨
      (!((decide (1 ≤ s.rd KSU_DRV_TYPE) && decide (s.rd KSU_DRV_TYPE ≤ 4)) || s.rd KSU_DRV_TYPE == 8)) = true) := by
    rw [first]
    simp only [Bool.not_eq_true', Bool.or_eq_false_iff, Bool.and_eq_false_iff, decide_eq_false_iff_not, beq_eq_false_iff_ne]
    omega
  unfold State.ksuDerive
  dsimp only
  rw [if_neg good, if_neg (by rw [policy]; decide), source]

/-- The source of DERIVE: the root, or a slot that may derive (R338). -/
theorem deriveSource_may {s : State} {ikm : Octets} {src : Nat} (h : (s.rd KSU_DRV_ROOTSRC ≠ 0 ∧ (∃ c : KeyCache, s.ksu.cache = some c ∧ ikm = c.prk) ∧ src = 0x700) ∨
    (s.rd KSU_DRV_ROOTSRC = 0 ∧ ∃ k : KeySlot, s.slot (s.rd KSU_DRV_SRC) = some k ∧ k.allows opDerive ctxLane = true ∧ k.typ ≠ 7 ∧ ikm = k.key ∧ src = k.policy)) : s.deriveSource = (s, .inr (ikm, src)) := by
  unfold State.deriveSource State.on
  rcases h with ⟨root, ⟨c, cache, rfl⟩, rfl⟩ | ⟨slot, k, hk, allows, typ, rfl, rfl⟩
  · rw [if_pos (by simpa using root), cache]
    rfl
  · rw [if_neg (by simp [slot]), State.keyFor, hk]
    dsimp only
    rw [if_pos allows]
    dsimp only
    rw [if_neg typ]

/-! ### ENROLPUF (R323) -/

/-- The root enrolled: a helper block in the KSU's partition and the keys of the root derived (R323). -/
def State.enrolled (s : State) (reads : List Octets) : State :=
  ((s.freeTick.pstWords .ksu (recordWords 256 0x3D0000 (helperBlock ((List.range 30).map (pufMajority (reads.map pufBlocks))) s.freeMessages))).formRoot (pufKey (pufOctets s.freeMessages)))

theorem ksuEnrol_refused {s : State} {reads : List Octets} (h : s.lcState ≠ lcFactory ∨ s.epoch ≠ 0) : s.ksuEnrol reads = s.ksuDone ksuNotAllowed :=
  if_pos (by rw [Bool.or_eq_true, bne_iff_ne, bne_iff_ne]; exact h)

theorem ksuEnrol_allowed {s : State} {reads : List Octets} (state : s.lcState = lcFactory) (epoch : s.epoch = 0) : s.ksuEnrol reads =
    if (List.range 30).any (fun b => decide (24 < pufUnsteady (reads.map pufBlocks) b)) then s.ksuDone ksuPufWeak else (s.enrolled reads).ksuDone ksuOk :=
  if_neg (by rw [state, epoch]; decide)

theorem enrolled_facts {s : State} {reads : List Octets} (state : s.lcState = lcFactory) (epoch : s.epoch = 0) (alone : s.pstAlone .ksu 0x3D0000 1024) :
    (s.enrolled reads).rd KSU_STATUS_ROOTOK = 1 ∧ (s.enrolled reads).ksu.cache = some (deriveCache (pufKey (pufOctets s.freeMessages)) lcFactory 0) ∧
    (s.enrolled reads).pstOctets 0x3D0000 1024 = helperBlock ((List.range 30).map (pufMajority (reads.map pufBlocks))) s.freeMessages := by
  have len := helperBlock_length ((List.range 30).map (pufMajority (reads.map pufBlocks))) s.freeMessages
  have block := pstWords_block (s := s.freeTick) (w := .ksu) (o := 0x3D0000) (n := 256) (m := 1024) ⟨Writer.noConfusion, Writer.noConfusion⟩ (by decide) len alone
  unfold State.enrolled
  generalize helperBlock ((List.range 30).map (pufMajority (reads.map pufBlocks))) s.freeMessages = f at block
  generalize pufKey (pufOctets s.freeMessages) = k
  have otp : (s.freeTick.pstWords .ksu (recordWords 256 0x3D0000 f)).otp = s.otp := (pstWords_parts _ _ _).2
  generalize s.freeTick.pstWords .ksu (recordWords 256 0x3D0000 f) = u at block otp
  obtain ⟨state', epoch'⟩ := lifecycle_otp otp
  obtain ⟨cache, -, -, -, -, -, ok, -⟩ := formRoot_facts u k
  rw [state', epoch', state, epoch] at cache
  exact ⟨ok, cache, (pstOctets_pst (formRoot_pst u k) _ _).trans block⟩

/-! ### The KSU's words drained (R283) -/

theorem pstWords_drained (s : State) (ws : List (Nat × Nat)) : (s.pstWords .ksu ws).pstHas .ksu = false := pstDrain_none _ .ksu ⟨Writer.noConfusion, Writer.noConfusion⟩

theorem ksuWrite_drained {s : State} {o : Nat} {bs : Octets} (h : s.pstHas .ksu = false ∨ 4 ≤ bs.length) : (s.ksuWrite o bs).pstHas .ksu = false := by
  unfold State.ksuWrite
  dsimp only
  split
  · rename_i none
    refine h.resolve_right (fun len => ?_)
    obtain ⟨n, hn⟩ := Nat.exists_eq_add_of_lt (show 0 < bs.length / 4 by omega)
    rw [hn] at none
    exact absurd none (by simp [recordWords])
  · exact pstWords_drained _ _

theorem eraseStale_drained {s : State} (h : s.pstHas .ksu = false) : s.eraseStale.pstHas .ksu = false := by
  refine foldl_inv (fun u : State => u.pstHas .ksu = false) _ (fun u i hu => ?_) (List.range 22) s h
  split
  · exact hu
  · exact ksuWrite_drained (.inl hu)

theorem reseal_drained (old new : KeyCache) (ep : Nat) (is js : List Nat) {s : State} (h : s.pstHas .ksu = false) : (reseal old new ep is js s).pstHas .ksu = false := by
  induction is generalizing js s with
  | nil =>
    rw [reseal]
    · exact h
    · exact fun _ _ _ _ e => nomatch e
  | cons i is ih =>
    cases js with
    | nil =>
      rw [reseal]
      · exact h
      · exact fun _ _ _ _ _ e => nomatch e
    | cons j js =>
      rw [reseal]
      exact ih js (ksuWrite_drained (.inl h))

theorem not_ksu_of_drained {s : State} (h : s.pstHas .ksu = false) : ∀ x ∈ s.pst.buffer, x.writer ≠ .ksu := by
  intro x hx e
  unfold State.pstHas at h
  rw [List.any_eq_false] at h
  exact h x hx (by rw [e]; rfl)

/-! ### TRANSITION (R326, R327) -/

theorem tokenCheck_lt (s : State) (t : Octets) : s.tokenCheck t < 256 := by
  unfold State.tokenCheck
  dsimp only
  split
  · decide
  · split
    · decide
    · split <;> decide

theorem tokenRefused_facts (s : State) {r : Nat} (h : r < 256) : (s.tokenRefused r).ksu = s.ksu ∧ (s.tokenRefused r).otp = s.otp ∧ (s.tokenRefused r).pst = s.pst ∧ (s.tokenRefused r).rd KSU_CMDSTAT_RESULT = r ∧
    (s.tokenRefused r).rd KSU_STATUS_TOKREJ = 1 := by
  obtain ⟨result, -, ksu, otp, pst⟩ := done_facts s r h
  exact ⟨ksu, otp, pst, (rd_wr_ne _ _ (by decide)).trans result, rd_wr_same _ _ _⟩

/-- The new epoch's enrolment record stored (R327). -/
def State.enrolStored (s : State) (t : Octets) (c : KeyCache) : State :=
  s.ksuWrite (enrolAt (s.epoch + 1)) (s.enrolmentRecord t c (deriveCache s.ksu.kPuf (octAt t 2) (s.epoch + 1)) (octAt t 2))

/-- The transition prepared, waiting for its OTP entry (R327). -/
def State.transitionReady (s : State) (t : Octets) (c : KeyCache) : State :=
  let u := reseal c (deriveCache s.ksu.kPuf (octAt t 2) (s.epoch + 1)) ((s.enrolStored t c).epoch + 1) (s.carried c (leAt t 12 3)) (s.freeRecords c) (s.enrolStored t c).eraseStale
  ({ u with ksu := { u.ksu with commit := some (octAt t 2) } } : State).wr KSU_CMDSTAT_BUSY 1

theorem ksuTransition_refused {s : State} {r : Nat} (h : s.tokenCheck (le 224 (s.rd KSU_TOKEN_TOKEN)) = r) (bad : r ≠ ksuOk) : s.ksuTransition = s.tokenRefused r := by
  unfold State.ksuTransition
  dsimp only
  rw [h, if_pos (bne_iff_ne.mpr bad)]

theorem ksuTransition_eq {s : State} {c : KeyCache} {t : Octets} (ht : t = le 224 (s.rd KSU_TOKEN_TOKEN)) (h : s.tokenCheck t = ksuOk) (cache : s.ksu.cache = some c) : s.ksuTransition =
    if (s.freeRecords c).length < (s.carried c (leAt t 12 3)).length then ((s.enrolStored t c).ksuDone ksuNoRoom).raise KSU_STATUS_NOROOM else s.transitionReady t c := by
  subst ht
  unfold State.ksuTransition
  dsimp only
  rw [h, if_neg (by decide), cache]
  rfl

theorem enrolStored_facts (s : State) (t : Octets) (c : KeyCache) : (s.enrolStored t c).ksu = s.ksu ∧ (s.enrolStored t c).otp = s.otp ∧ (s.enrolStored t c).pstHas .ksu = false := by
  refine ⟨(ksuWrite_facts _ _ _).1, (ksuWrite_facts _ _ _).2.1, ksuWrite_drained (.inr ?_)⟩
  unfold State.enrolmentRecord withAmac
  dsimp only
  rw [List.length_append]
  simp only [List.length_append, List.length_cons]
  omega

theorem transitionReady_facts (s : State) (t : Octets) (c : KeyCache) : (s.transitionReady t c).ksu = { s.ksu with commit := some (octAt t 2) } ∧ (s.transitionReady t c).otp = s.otp ∧
    (s.transitionReady t c).rd KSU_CMDSTAT_BUSY = 1 ∧ ∀ x ∈ (s.transitionReady t c).pst.buffer, x.writer ≠ .ksu := by
  obtain ⟨ksu1, otp1, drained1⟩ := enrolStored_facts s t c
  obtain ⟨ksu2, otp2⟩ := eraseStale_facts (s.enrolStored t c)
  obtain ⟨ksu3, otp3⟩ := reseal_facts c (deriveCache s.ksu.kPuf (octAt t 2) (s.epoch + 1)) ((s.enrolStored t c).epoch + 1) (s.carried c (leAt t 12 3)) (s.freeRecords c) (s.enrolStored t c).eraseStale
  have drained := reseal_drained c (deriveCache s.ksu.kPuf (octAt t 2) (s.epoch + 1)) ((s.enrolStored t c).epoch + 1) (s.carried c (leAt t 12 3)) (s.freeRecords c) (eraseStale_drained drained1)
  unfold State.transitionReady
  generalize reseal c (deriveCache s.ksu.kPuf (octAt t 2) (s.epoch + 1)) ((s.enrolStored t c).epoch + 1) (s.carried c (leAt t 12 3)) (s.freeRecords c) (s.enrolStored t c).eraseStale = u at ksu3 otp3 drained
  have ksu : u.ksu = s.ksu := ksu3.trans (ksu2.trans ksu1)
  refine ⟨?_, otp3.trans (otp2.trans otp1), rd_wr_same _ _ _, not_ksu_of_drained (s := u) drained⟩
  show { u.ksu with commit := some (octAt t 2) } = _
  rw [ksu]

/-! ### IMPORT (R337) -/

theorem importCheck_lt (s : State) (b : Octets) (c : KeyCache) : s.importCheck b c < 256 := by
  unfold State.importCheck
  dsimp only
  split
  · decide
  · split
    · decide
    · split
      · decide
      · split
        · decide
        · split <;> decide

theorem importRefused_facts (s : State) {r : Nat} (h : r < 256) : (s.importRefused r).ksu = s.ksu ∧ (s.importRefused r).pst = s.pst ∧ (s.importRefused r).rd KSU_CMDSTAT_RESULT = r ∧ (s.importRefused r).rd KSU_STATUS_IMPREJ = 1 := by
  obtain ⟨result, -, ksu, -, pst⟩ := done_facts s r h
  exact ⟨ksu, pst, (rd_wr_ne _ _ (by decide)).trans result, rd_wr_same _ _ _⟩

/-- The key of a blob that wraps it under `kw` (R337). -/
def blobKey (kw b : Octets) : Octets := (padTo 88 (gcmText kw (slice b 52 12) (slice b 64 88))).take (octAt b 3)

/-- An imported key in its slot, sealed where the blob asks for it (R337). -/
def State.keyImported (s : State) (b : Octets) (c : KeyCache) (kw : Octets) : State :=
  let u := s.setSlot (octAt b 1) (some ⟨octAt b 2, leAt b 4 4, 2, blobKey kw b⟩)
  if octAt b 8 = 255 then u
  else (u.ksuWrite (sealedAt (octAt b 8)) (sealRecord c.kSeal ([octet 1] ++ slice b 1 7 ++ [octet u.epoch] ++ zeros 3) (u.freeOctets 12) (blobKey kw b))).freeTick

section
variable {s : State} {b : Octets} {c : KeyCache} {a : KeySlot} (hb : b = le 232 (s.rd KSU_BLOB_BLOB)) (cache : s.ksu.cache = some c) (anchor : s.slot 0 = some a)
include hb cache anchor

theorem ksuImport_unsigned (sig : ecdsaVerify 256 a.key (slice b 0 168) (slice b 168 64) = false) : s.ksuImport = s.importRefused ksuBadSig := by
  subst hb
  unfold State.ksuImport
  dsimp only
  rw [cache, anchor]
  dsimp only
  rw [if_pos (by rw [sig]; rfl)]

theorem ksuImport_checked {r : Nat} (sig : ecdsaVerify 256 a.key (slice b 0 168) (slice b 168 64) = true) (h : s.importCheck b c = r) (bad : r ≠ ksuOk) : s.ksuImport = s.importRefused r := by
  subst hb
  unfold State.ksuImport
  dsimp only
  rw [cache, anchor]
  dsimp only
  rw [if_neg (by rw [sig]; decide), h, if_pos (bne_iff_ne.mpr bad)]

theorem ksuImport_fills {kw : Octets} (sig : ecdsaVerify 256 a.key (slice b 0 168) (slice b 168 64) = true) (h : s.importCheck b c = ksuOk)
    (hk : kw = hkdf s.otp.uid (ecdhX c.dDev (slice b 16 33)) ([octet 0] ++ ascii "WRAP") 32) (tag : padTo 16 (gcmTag kw (slice b 52 12) (slice b 0 64) (slice b 64 88)) = slice b 152 16) :
    s.ksuImport = ((s.keyImported b c kw).storeImpSeq c (leAt b 12 4)).ksuDone ksuOk := by
  subst hb hk
  unfold State.ksuImport
  dsimp only
  rw [cache, anchor]
  dsimp only
  rw [if_neg (by rw [sig]; decide), h, if_neg (by decide), if_neg (by rw [tag]; simp)]
  rfl

end

theorem keyImported_slot (s : State) (b : Octets) (c : KeyCache) (kw : Octets) : (s.keyImported b c kw).slot (octAt b 1) = some ⟨octAt b 2, leAt b 4 4, 2, blobKey kw b⟩ := by
  have filled := (setSlot_facts s (octAt b 1) (some ⟨octAt b 2, leAt b 4 4, 2, blobKey kw b⟩)).1
  unfold State.keyImported
  generalize s.setSlot (octAt b 1) (some ⟨octAt b 2, leAt b 4 4, 2, blobKey kw b⟩) = u at filled
  dsimp only
  split
  · exact filled
  · refine (slot_ksu (s := u) ?_ _).trans filled
    exact (ksuWrite_facts u _ _).1

theorem storeImpSeq_facts (s : State) (c : KeyCache) (q : Nat) : (∀ n, (s.storeImpSeq c q).slot n = s.slot n) ∧ (s.storeImpSeq c q).ksu.impSeq = q := by
  have ksu : (s.storeImpSeq c q).ksu = { s.ksu with impSeq := q } := (ksuWrite_facts _ _ _).1
  refine ⟨fun n => ?_, by rw [ksu]⟩
  unfold State.slot
  rw [ksu]

/-! ### The obligation -/

/-- A KSU command is refused by its key, by its mode, or while a transition runs (R343). -/
theorem ksuCommands_refused {s : State} {l : Lane} (hs : s.serves l) (key : BitVec 16) (user : Bool) (reads : List Octets) :
    ∀ c ∈ [Instr.transition l key user, .importBlob l key user, .derive l key user, .clear l key user, .enrolpuf l key user reads],
      (key ≠ 0x4B5E#16 → exec c s = .next (s.wr KSU_STATUS_CTXREJ 1)) ∧ (key = 0x4B5E#16 → user = true → exec c s = .next ((s.wr KSU_CMDSTAT_RESULT ksuBadCtx).wr KSU_STATUS_CTXREJ 1)) ∧
      (key = 0x4B5E#16 → user = false → s.ksu.commit ≠ none → exec c s = .next (s.wr KSU_CMDSTAT_RESULT ksuBusy)) := by
  have refused (c : Instr) (run : State → State) (does : exec c s = .next (s.ksuCommand key.toNat false user run)) :
      (key ≠ 0x4B5E#16 → exec c s = .next (s.wr KSU_STATUS_CTXREJ 1)) ∧ (key = 0x4B5E#16 → user = true → exec c s = .next ((s.wr KSU_CMDSTAT_RESULT ksuBadCtx).wr KSU_STATUS_CTXREJ 1)) ∧
      (key = 0x4B5E#16 → user = false → s.ksu.commit ≠ none → exec c s = .next (s.wr KSU_CMDSTAT_RESULT ksuBusy)) := by
    obtain ⟨-, badKey, badMode, busy⟩ := ksuCmd_run s key user run
    exact ⟨fun h => does.trans (congrArg Host.Outcome.next (badKey h)), fun h u => does.trans (congrArg Host.Outcome.next (badMode h u)), fun h u b => does.trans (congrArg Host.Outcome.next (busy h u b))⟩
  intro c hc
  simp only [List.mem_cons, List.not_mem_nil, or_false] at hc
  rcases hc with rfl | rfl | rfl | rfl | rfl
  · exact refused _ _ (transition_does key user hs)
  · exact refused _ _ (importBlob_does key user hs)
  · exact refused _ _ (derive_does key user hs)
  · exact refused _ _ (clear_does key user hs)
  · exact refused _ _ (enrolpuf_does key user reads hs)

/-- Settles O54, command by command: each runs on its own fields once the key, the mode and the transition let it. -/
theorem keyCommands : Obligations.KeyCommands := by
  unfold Obligations.KeyCommands
  intro s l hs
  refine ⟨ksuCommands_refused hs, fun free => ?_⟩
  have run (f : State → State) : s.ksuCommand (0x4B5E#16).toNat false false f = f s := (ksuCmd_run s 0x4B5E#16 false f).1 rfl rfl free
  have clear : exec (.clear l 0x4B5E#16 false) s = .next s.ksuClear := (clear_does _ _ hs).trans (congrArg Host.Outcome.next (run _))
  have derive : exec (.derive l 0x4B5E#16 false) s = .next s.ksuDerive := (derive_does _ _ hs).trans (congrArg Host.Outcome.next (run _))
  have enrol (reads : List Octets) : exec (.enrolpuf l 0x4B5E#16 false reads) s = .next (s.ksuEnrol reads) := (enrolpuf_does _ _ reads hs).trans (congrArg Host.Outcome.next (run _))
  have transition : exec (.transition l 0x4B5E#16 false) s = .next s.ksuTransition := (transition_does _ _ hs).trans (congrArg Host.Outcome.next (run _))
  have import' : exec (.importBlob l 0x4B5E#16 false) s = .next s.ksuImport := (importBlob_does _ _ hs).trans (congrArg Host.Outcome.next (run _))
  have only {c : Instr} (r : Nat) (hr : r < 256) (does : exec c s = .next (s.ksuDone r)) : Answers c s (fun t => t.ksu = s.ksu ∧ t.pst = s.pst ∧ t.rd KSU_CMDSTAT_RESULT = r) := by
    obtain ⟨result, -, ksu, -, pst⟩ := done_facts s r hr
    exact ⟨_, does, ksu, pst, result⟩
  have fills {c : Instr} (n : Nat) (k : Option KeySlot) (does : exec c s = .next ((s.setSlot n k).ksuDone ksuOk)) :
      Answers c s (fun t => t.slot n = k ∧ (∀ m : Nat, m ≠ n → t.slot m = s.slot m) ∧ t.rd KSU_CMDSTAT_RESULT = ksuOk ∧ t.rd KSU_STATUS_DONE = 1 ∧ t.pst = s.pst) := by
    obtain ⟨result, done, ksu, -, pst⟩ := done_facts (s.setSlot n k) ksuOk (by decide)
    obtain ⟨same, others⟩ := setSlot_facts s n k
    exact ⟨_, does, (slot_ksu ksu n).trans same, fun m hm => (slot_ksu ksu m).trans (others m hm), result, done, pst⟩
  refine ⟨fun h => fills _ _ (clear.trans (congrArg Host.Outcome.next (ksuClear_open h))), fun h => ?_, fun h => ?_, fun ikm src source n1 n2 info dst typ _ policy => ?_, fun reads h => only _ (by decide) ((enrol reads).trans (congrArg Host.Outcome.next (ksuEnrol_refused h))),
    fun reads state epoch => ⟨fun h => ?_, fun steady _ alone => ?_⟩, fun t0 ht0 => ⟨fun r hr bad => ?_, fun c ok cache => ⟨fun room => ?_, fun full => ?_⟩⟩, fun b c a hb cache anchor => ⟨fun sig => ?_, fun sig => ⟨fun r hr bad => ?_, fun kw ok hk tag => ?_⟩⟩⟩
  · obtain ⟨t, does, ksu, -, result⟩ := only ksuLocked (by decide) (clear.trans (congrArg Host.Outcome.next (ksuClear_locked h)))
    exact ⟨t, does, ksu, result⟩
  · obtain ⟨t, does, ksu, -, result⟩ := only ksuBadField (by decide) (derive.trans (congrArg Host.Outcome.next (ksuDerive_badInfo h)))
    exact ⟨t, does, ksu, result⟩
  · have derives := ksuDerive_source (deriveSource_may source) n1 n2 info dst typ policy
    refine ⟨fun within => ?_, fun ⟨b, hb, mine, beyond⟩ => ?_⟩
    · rw [if_neg (by rw [bne_iff_ne, not_not]; exact (contexts_within _ _).mpr within)] at derives
      exact fills _ _ (derive.trans (congrArg Host.Outcome.next derives))
    · rw [if_pos (bne_iff_ne.mpr (fun h => Bool.false_ne_true (beyond.symm.trans ((contexts_within _ _).mp h b hb mine))))] at derives
      obtain ⟨t, does, ksu, -, result⟩ := only ksuPolicy (by decide) (derive.trans (congrArg Host.Outcome.next derives))
      exact ⟨t, does, ksu, result⟩
  · obtain ⟨b, hb, weak⟩ := h
    have enrols := ksuEnrol_allowed (reads := reads) state epoch
    rw [if_pos (List.any_eq_true.mpr ⟨b, List.mem_range.mpr hb, decide_eq_true weak⟩)] at enrols
    exact only _ (by decide) ((enrol reads).trans (congrArg Host.Outcome.next enrols))
  · have enrols := ksuEnrol_allowed (reads := reads) state epoch
    have noneWeak : ¬(List.range 30).any (fun b => decide (24 < pufUnsteady (reads.map pufBlocks) b)) = true := by
      rw [List.any_eq_true]
      rintro ⟨b, hb, weak⟩
      have := steady b (List.mem_range.mp hb)
      have := of_decide_eq_true weak
      omega
    rw [if_neg noneWeak] at enrols
    obtain ⟨root, cache, block⟩ := enrolled_facts (reads := reads) state epoch alone
    obtain ⟨result, -, ksu, -, pst⟩ := done_facts (s.enrolled reads) ksuOk (by decide)
    refine ⟨_, (enrol reads).trans (congrArg Host.Outcome.next enrols), ?_, result, s.freeMessages, by rw [State.freeMessages, List.length_map, List.length_range], by rw [ksu, cache], (pstOctets_pst pst _ _).trans block⟩
    refine Eq.trans ?_ root
    unfold State.ksuDone
    rw [raise_def, rd_wr_ne _ _ (by decide), rd_wr_ne _ _ (by decide)]
  · subst ht0
    obtain ⟨ksu, otp, pst, result, rejected⟩ := tokenRefused_facts s (r := r) (by rw [← hr]; exact tokenCheck_lt _ _)
    exact ⟨_, transition.trans (congrArg Host.Outcome.next (ksuTransition_refused hr bad)), ksu, otp, pst, result, rejected⟩
  · have does := transition.trans (congrArg Host.Outcome.next (ksuTransition_eq ht0 ok cache))
    rw [if_neg (by omega)] at does
    exact ⟨_, does, transitionReady_facts s t0 c⟩
  · have does := transition.trans (congrArg Host.Outcome.next (ksuTransition_eq ht0 ok cache))
    rw [if_pos full] at does
    obtain ⟨ksu, otp, drained⟩ := enrolStored_facts s t0 c
    obtain ⟨result, -, ksu', otp', pst'⟩ := done_facts (s.enrolStored t0 c) ksuNoRoom (by decide)
    refine ⟨_, does, ksu'.trans ksu, otp'.trans otp, (rd_wr_ne _ _ (by decide)).trans result, rd_wr_same _ _ _, fun x hx => not_ksu_of_drained drained x ?_⟩
    rw [← pst']
    exact hx
  · obtain ⟨ksu, pst, result, rejected⟩ := importRefused_facts s (r := ksuBadSig) (by decide)
    exact ⟨_, import'.trans (congrArg Host.Outcome.next (ksuImport_unsigned hb cache anchor sig)), ksu, pst, result, rejected⟩
  · obtain ⟨ksu, pst, result, rejected⟩ := importRefused_facts s (r := r) (by rw [← hr]; exact importCheck_lt _ _ _)
    exact ⟨_, import'.trans (congrArg Host.Outcome.next (ksuImport_checked hb cache anchor sig hr bad)), ksu, pst, result, rejected⟩
  · obtain ⟨slot, seq⟩ := storeImpSeq_facts (s.keyImported b c kw) c (leAt b 12 4)
    obtain ⟨result, done, ksu, -, -⟩ := done_facts ((s.keyImported b c kw).storeImpSeq c (leAt b 12 4)) ksuOk (by decide)
    refine ⟨_, import'.trans (congrArg Host.Outcome.next (ksuImport_fills hb cache anchor sig ok hk tag)), (slot_ksu ksu _).trans ((slot _).trans (keyImported_slot s b c kw)), ?_, result, done⟩
    rw [ksu, seq]

end Sys2Proof.Machine

/-!
PROOFS. The proof tests of SF1, and Rinse (R401, R407 to R409).
-/
namespace Sys2Proof.Machine
set_option Elab.async false

/-! ### Flags -/

theorem on_of_ne {s : State} {f : Field} (h : s.rd f ≠ 0) : s.on f = true := by
  rw [State.on, bne_iff_ne]
  exact h

theorem on_of_eq {s : State} {f : Field} (h : s.rd f = 0) : s.on f = false := by
  rw [State.on, bne_eq_false_iff_eq]
  exact h

/-- A command word of the safety block with another key only sets CMDREJ (R409). -/
theorem safCommand_wrong {s : State} {key : BitVec 16} {run : State → State} (h : key ≠ 0x5AFE#16) : s.safCommand key.toNat run = s.wr SAF_STATUS_CMDREJ 1 := by
  refine if_pos ?_
  rw [bne_iff_ne]
  exact fun e => h (BitVec.eq_of_toNat_eq e)

/-! ### Starts of a proof test (R401) -/

theorem sf1Test_starts {s : State} {path : Nat} {full : Bool} (a : s.rd MTR_SF1_PATHA = 0) (b : s.rd MTR_SF1_PATHB = 0) (idle : s.saf.test = none)
    (voltage : full = true → s.rd MTR_PHST_VPRES = 0) : s.sf1Test path full = { s with saf := { s.saf with test := some ⟨path, full⟩ } }.wr SAF_SF1T_RUN 1 := by
  refine if_neg ?_
  rw [State.sf1Asserted, on_of_eq a, on_of_eq b, idle]
  cases full with
  | false => exact Bool.false_ne_true
  | true => rw [on_of_eq (voltage rfl)]; decide

theorem sf1Test_refused {s : State} {path : Nat} {full : Bool}
    (h : s.rd MTR_SF1_PATHA ≠ 0 ∨ s.rd MTR_SF1_PATHB ≠ 0 ∨ s.saf.test ≠ none ∨ (full = true ∧ s.rd MTR_PHST_VPRES ≠ 0)) : s.sf1Test path full = s.wr SAF_STATUS_CMDREJ 1 := by
  refine if_pos ?_
  rw [State.sf1Asserted]
  rcases h with a | b | busy | ⟨full, voltage⟩
  · rw [on_of_ne a]; rfl
  · rw [on_of_ne b, Bool.or_true]; rfl
  · rw [Option.isSome_iff_ne_none.mpr busy, Bool.or_true]; rfl
  · rw [full, on_of_ne voltage, Bool.and_true, Bool.or_true]

/-- What an order of a proof test does, whichever command it comes with. -/
theorem order_sf1Test {s : State} {i : Instr} {p : ProofTest} (does : exec i s = .next (s.sf1Test p.path p.full)) :
    (s.rd MTR_SF1_PATHA = 0 → s.rd MTR_SF1_PATHB = 0 → s.saf.test = none → (p.full = true → s.rd MTR_PHST_VPRES = 0) →
      exec i s = .next ({ s with saf := { s.saf with test := some p } }.wr SAF_SF1T_RUN 1)) ∧
    (s.rd MTR_SF1_PATHA ≠ 0 ∨ s.rd MTR_SF1_PATHB ≠ 0 ∨ s.saf.test ≠ none ∨ (p.full = true ∧ s.rd MTR_PHST_VPRES ≠ 0) → exec i s = .next (s.wr SAF_STATUS_CMDREJ 1)) :=
  ⟨fun a b idle voltage => does.trans (congrArg _ (sf1Test_starts a b idle voltage)), fun h => does.trans (congrArg _ (sf1Test_refused h))⟩

/-! ### The periodic tests -/

theorem sf1Periodic_off {s : State} (h : s.rd SAF_CTRL_SF1T_EN = 0) : s.sf1Periodic = s :=
  if_pos (by rw [on_of_eq h]; rfl)

theorem sf1Periodic_pathB {s : State} {t : Nat} (en : s.rd SAF_CTRL_SF1T_EN ≠ 0) (due : s.saf.dueB = some t) :
    s.sf1Periodic = if s.elapsed < t then s else (s.onSaf (fun x => { x with dueB := none })).sf1Test 1 false := by
  unfold State.sf1Periodic
  rw [if_neg (by rw [on_of_ne en]; decide), due]

theorem sf1Periodic_pathA {s : State} (en : s.rd SAF_CTRL_SF1T_EN ≠ 0) (due : s.saf.dueB = none) :
    s.sf1Periodic = if s.elapsed < s.saf.lastTest + hoursNs (s.rd SAF_PER_SF1PER) then s
      else (s.onSaf (fun x => { x with lastTest := s.elapsed, dueB := some (s.elapsed + 1000000000) })).sf1Test 0 false := by
  unfold State.sf1Periodic
  rw [if_neg (by rw [on_of_ne en]; decide), due]

/-- A periodic test that starts once its times are noted. -/
theorem periodic_starts {s : State} {f : SafState → SafState} {path : Nat} (a : s.rd MTR_SF1_PATHA = 0) (b : s.rd MTR_SF1_PATHB = 0) (idle : (f s.saf).test = none) :
    ((s.onSaf f).sf1Test path false).saf = { f s.saf with test := some ⟨path, false⟩ } ∧ ((s.onSaf f).sf1Test path false).rd SAF_SF1T_RUN = 1 := by
  rw [sf1Test_starts (s := s.onSaf f) a b idle (fun h => absurd h (by decide))]
  exact ⟨rfl, rd_wr_same _ _ _⟩

/-! ### The end of a proof test -/

theorem sf1TestDone_idle {s : State} {time : Option Nat} {ok : Bool} (h : s.saf.test = none) : s.sf1TestDone time ok = s := by
  unfold State.sf1TestDone
  rw [h]

/-- The result of a test from what it saw: late or never 1, else the readback's 0 or 2. -/
theorem sf1Result {time : Option Nat} {q : Nat} {ok : Bool} (hq : ∀ v ∈ time, q = v) :
    (if time.isNone ∨ 400 < q then 1 else if ok then 0 else 2) = if time.all (fun v => 400 < v) then 1 else if ok then 0 else 2 := by
  cases time with
  | none => rfl
  | some v => simp [hq v rfl]

/-- The field of a path's result. -/
def sf1ResField (path : Nat) : Field := if path = 0 then SAF_SF1T_RES_A else SAF_SF1T_RES_B
def sf1ResOther (path : Nat) : Field := if path = 0 then SAF_SF1T_RES_B else SAF_SF1T_RES_A

/-- The registers and the safety block as a test leaves them, but for SF1TFAIL. -/
def State.sf1Ended (a : State) (path q res : Nat) : State :=
  (({ a with saf := { a.saf with test := none, quietUntil := a.elapsed + 100000000 } }.wr SAF_SF1T_RUN 0).wr SAF_SF1T_QTIME q).wr (sf1ResField path) (if res = 0 then 1 else 2)

theorem sf1Fields (path : Nat) : sf1ResField path = SAF_SF1T_RES_A ∧ sf1ResOther path = SAF_SF1T_RES_B ∨ sf1ResField path = SAF_SF1T_RES_B ∧ sf1ResOther path = SAF_SF1T_RES_A := by
  unfold sf1ResField sf1ResOther
  by_cases h : path = 0
  · left; rw [if_pos h, if_pos h]; exact ⟨rfl, rfl⟩
  · right; rw [if_neg h, if_neg h]; exact ⟨rfl, rfl⟩

/-- The end of a test leaves every register but its own. -/
theorem sf1Ended_rd (a : State) (path q res : Nat) {f : Field} (run : f.key ≠ SAF_SF1T_RUN.key) (time : f.key ≠ SAF_SF1T_QTIME.key) (own : f.key ≠ (sf1ResField path).key) :
    (a.sf1Ended path q res).rd f = a.rd f := by
  unfold State.sf1Ended
  rw [rd_wr_ne _ _ own, rd_wr_ne _ _ time, rd_wr_ne _ _ run]
  rfl

theorem sf1Ended_facts (a : State) (path q res : Nat) (hq : q < 65536) :
    (a.sf1Ended path q res).rd SAF_SF1T_RUN = 0 ∧ (a.sf1Ended path q res).rd SAF_SF1T_QTIME = q ∧ (a.sf1Ended path q res).rd (sf1ResField path) = (if res = 0 then 1 else 2) ∧
    (a.sf1Ended path q res).rd (sf1ResOther path) = a.rd (sf1ResOther path) ∧ (a.sf1Ended path q res).rd SAF_STATUS_SF1TFAIL = a.rd SAF_STATUS_SF1TFAIL ∧
    (a.sf1Ended path q res).rd CRZ_SEG_SEG = a.rd CRZ_SEG_SEG := by
  have time : q % 2 ^ 16 = q := Nat.mod_eq_of_lt hq
  rcases sf1Fields path with ⟨own, other⟩ | ⟨own, other⟩ <;> rw [other] <;>
    refine ⟨?_, ?_, ?_, sf1Ended_rd a path q res (by decide) (by decide) (by rw [own]; decide), sf1Ended_rd a path q res (by decide) (by decide) (by rw [own]; decide),
      sf1Ended_rd a path q res (by decide) (by decide) (by rw [own]; decide)⟩ <;>
    unfold State.sf1Ended <;> rw [own]
  · rw [rd_wr_ne _ _ (by decide), rd_wr_ne _ _ (by decide), rd_wr_same]; rfl
  · rw [rd_wr_ne _ _ (by decide), rd_wr_same]; exact time
  · rw [rd_wr_same]; split <;> rfl
  · rw [rd_wr_ne _ _ (by decide), rd_wr_ne _ _ (by decide), rd_wr_same]; rfl
  · rw [rd_wr_ne _ _ (by decide), rd_wr_same]; exact time
  · rw [rd_wr_same]; split <;> rfl

/-- A flag raised or not, with the registers beside it. -/
theorem raiseIf_facts (u : State) (b : Bool) (f : Field) : (u.raiseIf b f).saf = u.saf ∧ (u.raiseIf b f).waiting = u.waiting ∧ ∀ g : Field, g.key ≠ f.key → (u.raiseIf b f).rd g = u.rd g := by
  refine ⟨?_, ?_, fun g h => raiseIf_rd_ne u h⟩ <;> unfold State.raiseIf <;> split <;> rfl

theorem raiseIf_result (u : State) (res : Nat) {f : Field} (hw : 0 < f.width) : (u.raiseIf (res != 0) f).rd f = if res = 0 then u.rd f else 1 := by
  by_cases h : res = 0
  · rw [if_pos h, h]; rfl
  · rw [if_neg h]; exact raiseIf_rd_true u (bne_iff_ne.mpr h) hw

/-- The clause of the end of a test (R401): with `a` the state that has taken the free value of a test that did not qualify. -/
theorem sf1TestDone_facts {s : State} {p : ProofTest} {time : Option Nat} {ok : Bool} {res : Nat} (run : s.saf.test = some p) (small : ∀ v ∈ time, v < 65536)
    (hres : res = (if time.all (fun v => 400 < v) then 1 else if ok then 0 else 2)) :
    ∃ t, t = s.sf1TestDone time ok ∧ t.saf = { s.saf with test := none, quietUntil := s.elapsed + 100000000 } ∧ t.rd SAF_SF1T_RUN = 0 ∧ (∀ v ∈ time, t.rd SAF_SF1T_QTIME = v) ∧
      t.rd (sf1ResField p.path) = (if res = 0 then 1 else 2) ∧ t.rd (sf1ResOther p.path) = s.rd (sf1ResOther p.path) ∧
      t.rd SAF_STATUS_SF1TFAIL = (if res = 0 then s.rd SAF_STATUS_SF1TFAIL else 1) ∧
      t.waiting = s.waiting ++ [⟨s.event 68 0 0x02 ([octet (p.path + 1), octet (if p.full then 2 else 1), octet res, octet 0] ++ le 2 (t.rd SAF_SF1T_QTIME)) s.tb.now, none, 0⟩] := by
  obtain ⟨q, hq⟩ : ∃ q, q = time.elim (s.freeNat 16) (fun v => v % 65536) := ⟨_, rfl⟩
  obtain ⟨a, ha⟩ : ∃ a, a = (if time.isNone then s.freeTick else s) := ⟨_, rfl⟩
  have bound : q < 65536 := by
    rw [hq]
    cases time with
    | none => exact Nat.mod_lt _ (by decide)
    | some v => exact Nat.mod_lt _ (by decide)
  have qual : ∀ v ∈ time, q = v := by
    rintro v rfl
    rw [hq]
    exact Nat.mod_eq_of_lt (small v rfl)
  have same : a.saf = s.saf ∧ a.elapsed = s.elapsed ∧ a.waiting = s.waiting ∧ a.tb = s.tb ∧ a.seg = s.seg ∧ (∀ f, a.rd f = s.rd f) := by
    rw [ha]
    split
    · exact ⟨rfl, rfl, rfl, rfl, rfl, fun _ => rfl⟩
    · exact ⟨rfl, rfl, rfl, rfl, rfl, fun _ => rfl⟩
  obtain ⟨saf, elapsed, waits, clock, segment, reads⟩ := same
  have eq := sf1Done_eq s time ok p run q hq res ((sf1Result qual).trans hres.symm) a ha (sf1ResField p.path) rfl
  obtain ⟨fRun, fTime, fRes, fOther, fFail, fSeg⟩ := sf1Ended_facts a p.path q res bound
  have ended : (a.sf1Ended p.path q res).saf = { s.saf with test := none, quietUntil := s.elapsed + 100000000 } ∧ (a.sf1Ended p.path q res).waiting = s.waiting ∧ (a.sf1Ended p.path q res).tb = s.tb := by
    rw [← waits, ← clock, ← saf, ← elapsed]
    exact ⟨rfl, rfl, rfl⟩
  change _ = State.post ((a.sf1Ended p.path q res).raiseIf (res != 0) SAF_STATUS_SF1TFAIL) ((a.sf1Ended p.path q res).event 68 0 0x02
    ([octet (p.path + 1), octet (if p.full then 2 else 1), octet res, octet 0] ++ le 2 q) (a.sf1Ended p.path q res).tb.now) at eq
  have seg : (a.sf1Ended p.path q res).seg = s.seg := fSeg.trans segment
  generalize a.sf1Ended p.path q res = u at *
  obtain ⟨endSaf, endWaits, endClock⟩ := ended
  obtain ⟨rSaf, rWaiting, rRd⟩ := raiseIf_facts u (res != 0) SAF_STATUS_SF1TFAIL
  have fail := raiseIf_result u res (f := SAF_STATUS_SF1TFAIL) (by decide)
  rw [eq]
  generalize u.raiseIf (res != 0) SAF_STATUS_SF1TFAIL = v at *
  have field : (sf1ResField p.path).key ≠ SAF_STATUS_SF1TFAIL.key ∧ (sf1ResOther p.path).key ≠ SAF_STATUS_SF1TFAIL.key := by
    rcases sf1Fields p.path with ⟨own, other⟩ | ⟨own, other⟩ <;> rw [own, other] <;> decide
  have read : v.rd SAF_SF1T_QTIME = q := (rRd _ (by decide)).trans fTime
  refine ⟨_, rfl, rSaf.trans endSaf, (rRd _ (by decide)).trans fRun, fun w hw => read.trans (qual w hw), (rRd _ field.1).trans fRes, (rRd _ field.2).trans (fOther.trans (reads _)), ?_, ?_⟩
  · rw [← reads SAF_STATUS_SF1TFAIL, ← fFail]
    exact fail
  · rw [show (v.post _).rd SAF_SF1T_QTIME = q from read]
    show v.waiting ++ _ = _
    rw [rWaiting, endWaits]
    unfold State.event
    rw [seg, endClock]

/-! ### Rinse (R407) -/

theorem rinseLane_paused {s : State} {l : Lane} (m : RinseMeet) (h : s.rinsePaused l = true) : s.rinseLane l m = s :=
  if_pos h

theorem rinseLane_clean (s : State) (l : Lane) : s.rinseLane l .clean = s := by
  unfold State.rinseLane
  split <;> rfl

theorem rinseLane_uncorrected {s : State} {l : Lane} (h : s.rinsePaused l = false) : s.rinseLane l .uncorrected = (s.raise SAF_STATUS_RINSEUE).sramFault l :=
  if_neg (by rw [h]; decide)

/-- Rinse moves to the next word of lane SRAM, or begins its next pass. -/
def State.rinseNext (u : State) : State :=
  if u.saf.rinseAt + 1 < 524288 then u.onSaf (fun x => { x with rinseAt := x.rinseAt + 1 })
  else (u.onSaf (fun x => { x with rinseAt := 0 })).count SAF_RINSE_PASS_COUNT SAF_STATUS_CNTWRAP

theorem rinseRead_eq (s : State) (a b : RinseMeet) : s.rinseRead a b =
    if s.rinsePaused .A && s.rinsePaused .B then (s.rinseLane .A a).rinseLane .B b else ((s.rinseLane .A a).rinseLane .B b).rinseNext := rfl

theorem rinseRead_paused {s : State} {a b : RinseMeet} (ha : s.rinsePaused .A = true) (hb : s.rinsePaused .B = true) : s.rinseRead a b = s := by
  rw [rinseRead_eq, ha, hb, rinseLane_paused a ha, rinseLane_paused b hb]
  rfl

theorem rinseRead_runs {s : State} {a b : RinseMeet} (h : s.rinsePaused .A = false ∨ s.rinsePaused .B = false) :
    s.rinseRead a b = ((s.rinseLane .A a).rinseLane .B b).rinseNext := by
  rw [rinseRead_eq]
  refine if_neg ?_
  rcases h with h | h <;> rw [h]
  · exact Bool.false_ne_true
  · rw [Bool.and_false]; exact Bool.false_ne_true

/-- A word without an uncorrected error is counted where it was corrected and its lane not paused. -/
theorem rinseLane_counts {s : State} {l : Lane} {m : RinseMeet} (hm : m ≠ .uncorrected) :
    (s.rinseLane l m).rd (LSC_CE_CNT_COUNT l) = (s.rd (LSC_CE_CNT_COUNT l) + if m = .corrected ∧ s.rinsePaused l = false then 1 else 0) % 2 ^ 32 ∧
    (s.rinseLane l m).rd (LSC_CE_CNT_COUNT l.other) = s.rd (LSC_CE_CNT_COUNT l.other) ∧ (s.rinseLane l m).saf = s.saf ∧
    (s.rinseLane l m).rd SAF_RINSE_PASS_COUNT = s.rd SAF_RINSE_PASS_COUNT ∧ (∀ k, (s.rinseLane l m).rinsePaused k = s.rinsePaused k) := by
  cases paused : s.rinsePaused l with
  | true =>
    rw [rinseLane_paused m paused, if_neg (fun h => Bool.noConfusion h.2)]
    exact ⟨(Nat.mod_eq_of_lt (Nat.lt_of_lt_of_le (rd_lt s (LSC_CE_CNT_COUNT l)) (by cases l <;> decide))).symm, rfl, rfl, rfl, fun _ => rfl⟩
  | false =>
    obtain ⟨own, other, saf, pass, keeps⟩ := rinse_word s l m paused hm
    refine ⟨own.trans ?_, other, saf, pass, keeps⟩
    simp

theorem rinseNext_facts (u : State) : (u.rinseNext).saf = { u.saf with rinseAt := (if u.saf.rinseAt + 1 < 524288 then u.saf.rinseAt + 1 else 0) } ∧
    u.rinseNext.rd SAF_RINSE_PASS_COUNT = (u.rd SAF_RINSE_PASS_COUNT + if u.saf.rinseAt + 1 < 524288 then 0 else 1) % 2 ^ 32 ∧
    (∀ f : Field, f.key ≠ SAF_RINSE_PASS_COUNT.key → f.key ≠ SAF_STATUS_CNTWRAP.key → u.rinseNext.rd f = u.rd f) ∧ ∀ l, u.rinseNext.lane l = u.lane l :=
  let facts := fun l => rinse_count u l u.rinseNext rfl
  ⟨(facts .A).1, (facts .A).2.1, (facts .A).2.2.1, fun l => (facts l).2.2.2⟩

theorem rinseRead_facts {s : State} {a b : RinseMeet} (ha : a ≠ .uncorrected) (hb : b ≠ .uncorrected) (runs : s.rinsePaused .A = false ∨ s.rinsePaused .B = false) :
    (s.rinseRead a b).rd (LSC_CE_CNT_COUNT .A) = (s.rd (LSC_CE_CNT_COUNT .A) + if a = .corrected ∧ s.rinsePaused .A = false then 1 else 0) % 2 ^ 32 ∧
    (s.rinseRead a b).rd (LSC_CE_CNT_COUNT .B) = (s.rd (LSC_CE_CNT_COUNT .B) + if b = .corrected ∧ s.rinsePaused .B = false then 1 else 0) % 2 ^ 32 ∧
    (s.saf.rinseAt < 524287 → (s.rinseRead a b).saf = { s.saf with rinseAt := s.saf.rinseAt + 1 } ∧ (s.rinseRead a b).rd SAF_RINSE_PASS_COUNT = s.rd SAF_RINSE_PASS_COUNT) ∧
    (s.saf.rinseAt = 524287 → (s.rinseRead a b).saf = { s.saf with rinseAt := 0 } ∧ (s.rinseRead a b).rd SAF_RINSE_PASS_COUNT = (s.rd SAF_RINSE_PASS_COUNT + 1) % 2 ^ 32) := by
  obtain ⟨ownA, otherA, safA, passA, keepsA⟩ := rinseLane_counts (s := s) (l := .A) ha
  rw [rinseRead_runs runs]
  generalize s.rinseLane .A a = u at *
  obtain ⟨ownB, otherB, safB, passB, -⟩ := rinseLane_counts (s := u) (l := .B) hb
  generalize u.rinseLane .B b = v at *
  obtain ⟨nSaf, nPass, nRd, -⟩ := rinseNext_facts v
  have bound : s.rd SAF_RINSE_PASS_COUNT < 2 ^ 32 := rd_lt s SAF_RINSE_PASS_COUNT
  rw [safB, safA] at nSaf
  rw [safB, safA, passB, passA] at nPass
  refine ⟨(nRd _ (by decide) (by decide)).trans (otherB.trans ownA), (nRd _ (by decide) (by decide)).trans (ownB.trans ?_), fun h => ⟨?_, ?_⟩, fun h => ⟨?_, ?_⟩⟩
  · rw [keepsA .B, show u.rd (LSC_CE_CNT_COUNT .B) = s.rd (LSC_CE_CNT_COUNT .B) from otherA]
  · rw [nSaf, if_pos (by omega)]
  · rw [nPass, if_pos (by omega), Nat.add_zero, Nat.mod_eq_of_lt bound]
  · rw [nSaf, if_neg (by omega)]
  · rw [nPass, if_neg (by omega)]

/-- The lane in whose word Rinse finds an uncorrected error is taken out. -/
theorem rinseRead_fault {s : State} {l : Lane} (runs : s.rinsePaused l = false) (role : s.role l ≠ roleOut ∧ s.role l ≠ roleOff ∧ s.role l ≠ roleBist) :
    ∃ u : State, s.rinseRead (if l = .A then .uncorrected else .clean) (if l = .B then .uncorrected else .clean) = u.rinseNext ∧
      u.role l = roleOut ∧ u.rd (causeField l) = causeSramUe ∧ u.rd (outFlag l) = 1 ∧ u.rd SAF_STATUS_RINSEUE = 1 := by
  refine ⟨(s.raise SAF_STATUS_RINSEUE).sramFault l, ?_, rinse_fault s l role⟩
  cases l with
  | A => rw [rinseRead_runs (.inl runs), if_pos rfl, if_neg (by decide), rinseLane_uncorrected runs, rinseLane_clean]
  | B => rw [rinseRead_runs (.inr runs), if_neg (by decide), if_pos rfl, rinseLane_clean, rinseLane_uncorrected runs]

/-- Settles O60: each clause is the case of its effect. -/
theorem proofTestsAndRinse : Obligations.ProofTestsAndRinse := by
  unfold Obligations.ProofTestsAndRinse
  refine ⟨fun s l serves => ⟨fun key wrong i hi => ?_, fun p hp => ?_⟩, fun s hu => ⟨fun off => ?_, fun en => ⟨fun t0 due => ⟨fun early => ?_, fun late a b idle => ?_⟩, fun due => ⟨fun early => ?_, fun late a b idle => ?_⟩⟩⟩,
    fun s time ok hu => ⟨fun idle => ?_, fun p res run small hres => ?_⟩, fun s a b hu => ⟨fun ha hb => ?_, fun ha hb runs => ?_, fun l runs out off bist => ?_⟩⟩
  · simp only [List.mem_cons, List.not_mem_nil, or_false] at hi
    rcases hi with rfl | rfl | rfl | rfl
    · exact (detectPathA_does key serves).trans (congrArg _ (safCommand_wrong wrong))
    · exact (detectPathB_does key serves).trans (congrArg _ (safCommand_wrong wrong))
    · exact (fullPathA_does key serves).trans (congrArg _ (safCommand_wrong wrong))
    · exact (fullPathB_does key serves).trans (congrArg _ (safCommand_wrong wrong))
  · simp only [List.mem_cons, List.not_mem_nil, or_false] at hp
    rcases hp with rfl | rfl | rfl | rfl
    · exact order_sf1Test (p := ⟨0, false⟩) ((detectPathA_does _ serves).trans (congrArg _ (safc _ _)))
    · exact order_sf1Test (p := ⟨1, false⟩) ((detectPathB_does _ serves).trans (congrArg _ (safc _ _)))
    · exact order_sf1Test (p := ⟨0, true⟩) ((fullPathA_does _ serves).trans (congrArg _ (safc _ _)))
    · exact order_sf1Test (p := ⟨1, true⟩) ((fullPathB_does _ serves).trans (congrArg _ (safc _ _)))
  · exact congrArg Host.Outcome.next ((whenUp_up hu).trans (sf1Periodic_off off))
  · exact congrArg Host.Outcome.next ((whenUp_up hu).trans ((sf1Periodic_pathB en due).trans (if_pos early)))
  · exact ⟨_, congrArg Host.Outcome.next ((whenUp_up hu).trans ((sf1Periodic_pathB en due).trans (if_neg (Nat.not_lt.mpr late)))), periodic_starts a b idle⟩
  · exact congrArg Host.Outcome.next ((whenUp_up hu).trans ((sf1Periodic_pathA en due).trans (if_pos early)))
  · exact ⟨_, congrArg Host.Outcome.next ((whenUp_up hu).trans ((sf1Periodic_pathA en due).trans (if_neg (Nat.not_lt.mpr late)))), periodic_starts a b idle⟩
  · exact congrArg Host.Outcome.next ((whenUp_up hu).trans (sf1TestDone_idle idle))
  · obtain ⟨t, done, facts⟩ := sf1TestDone_facts run small hres
    exact ⟨t, congrArg Host.Outcome.next ((whenUp_up hu).trans done.symm), facts⟩
  · exact congrArg Host.Outcome.next ((whenUp_up hu).trans (rinseRead_paused ha hb))
  · exact ⟨_, congrArg Host.Outcome.next (whenUp_up hu), rinseRead_facts ha hb runs⟩
  · obtain ⟨u, read, role, cause, flag, rinse⟩ := rinseRead_fault runs ⟨out, off, bist⟩
    obtain ⟨-, -, reads, lanes⟩ := rinseNext_facts u
    refine ⟨_, congrArg Host.Outcome.next ((whenUp_up hu).trans read), (reads _ (by decide) (by decide)).trans rinse, ?_, (reads _ (by cases l <;> decide) (by cases l <;> decide)).trans cause,
      (reads _ (by cases l <;> decide) (by cases l <;> decide)).trans flag⟩
    exact (role_keep l (lanes l) (reads _ (by cases l <;> decide) (by cases l <;> decide))).trans role

end Sys2Proof.Machine

/-!
PROOFS. BIST of the lanes (R403, R405, R406, R408, R409).
-/
namespace Sys2Proof.Machine
set_option Elab.async false

/-! ### Roles -/

theorem leaving_of_role {s : State} {l : Lane} (h : s.role l ≠ roleOut) : (s.lane l).leaving = false := by
  unfold State.role at h
  cases e : (s.lane l).leaving with
  | false => rfl
  | true => rw [e] at h; exact absurd rfl h

theorem isShadow_iff {s : State} {l : Lane} : s.isShadow l = true ↔ s.role l = roleShadow := beq_iff_eq

/-- Whether a lane acts as Active beside a Shadow lane. -/
def State.besideShadow (s : State) : Bool :=
  match s.activeLane with
  | some a => s.isShadow a.other
  | none => false

theorem bistMay_eq (s : State) : s.bistMay = (s.bistCalm && !s.on LSC_ROLE_SUSPECT && !s.on LSC_ROLE_DEGRADED && s.saf.bist.isNone && s.besideShadow) := rfl

theorem besideShadow_iff (s : State) : s.besideShadow = true ↔ (s.role .A = roleActive ∧ s.role .B = roleShadow) ∨ (s.role .A = roleShadow ∧ s.role .B = roleActive) := by
  unfold State.besideShadow State.activeLane
  by_cases a : s.role .A = roleActive
  · rw [if_pos a]
    simp only [isShadow_iff, Lane.other, a, true_and]
    exact ⟨.inl, fun h => h.elim id (fun h => absurd h.1 (by decide))⟩
  · rw [if_neg a]
    by_cases b : s.role .B = roleActive
    · rw [if_pos b]
      simp only [isShadow_iff, Lane.other, a, b, false_and, false_or, and_true]
    · rw [if_neg b]
      simp only [a, b, false_and, and_false, or_self, Bool.false_eq_true]

theorem bistCalm_iff (s : State) : s.bistCalm = true ↔ s.role .A ≠ roleJoining ∧ s.role .B ≠ roleJoining ∧ s.rd LSC_CTRL_SPLIT = 0 ∧ s.rd RLD_STATE_STATE = 0 ∧ s.rd BHM0_DR_STAT_STATE = 0 := by
  simp only [State.bistCalm, State.on, State.upState, Bool.and_eq_true, bne_iff_ne, beq_iff_eq, Bool.not_eq_true', bne_eq_false_iff_eq, ne_eq, and_assoc]

theorem bistMay_iff (s : State) : s.bistMay = true ↔ s.role .A ≠ roleJoining ∧ s.role .B ≠ roleJoining ∧ s.rd LSC_CTRL_SPLIT = 0 ∧ s.rd RLD_STATE_STATE = 0 ∧ s.rd BHM0_DR_STAT_STATE = 0 ∧
    s.rd LSC_ROLE_SUSPECT = 0 ∧ s.rd LSC_ROLE_DEGRADED = 0 ∧ s.saf.bist = none ∧ ((s.role .A = roleActive ∧ s.role .B = roleShadow) ∨ (s.role .A = roleShadow ∧ s.role .B = roleActive)) := by
  rw [bistMay_eq, Bool.and_eq_true, besideShadow_iff]
  simp only [Bool.and_eq_true, bistCalm_iff, State.on, Bool.not_eq_true', bne_eq_false_iff_eq, Option.isNone_iff_eq_none, and_assoc]

/-- Where a BIST may start, the lane beside the Active one is the Shadow lane, and none runs. -/
theorem bistMay_roles {s : State} {a : Lane} (may : s.bistMay = true) (active : s.role a = roleActive) : s.activeLane = some a ∧ s.role a.other = roleShadow := by
  obtain ⟨-, -, -, -, -, -, -, -, pair⟩ := (bistMay_iff s).mp may
  unfold State.activeLane
  rcases pair with ⟨act, shadow⟩ | ⟨shadow, act⟩
  · cases a with
    | A => rw [if_pos act]; exact ⟨rfl, shadow⟩
    | B => rw [shadow] at active; exact absurd active (by decide)
  · cases a with
    | A => rw [shadow] at active; exact absurd active (by decide)
    | B => rw [shadow, if_neg (by decide), if_pos act]; exact ⟨rfl, shadow⟩

/-! ### A test that starts -/

theorem unwait_lane (s : State) (l : Lane) (p : Batch → Bool) (m : Lane) : (s.unwait l p).lane m = s.lane m :=
  lane_of_only (unwait_only (μ := 671088644) rfl (Only.refl s)) rfl rfl m

/-- A lane with its records without a drain discarded, for which nothing waits any more. -/
def State.laneCleared (s : State) (l : Lane) : State :=
  (((s.onLane l (fun x => { x with fill := [], sealing := none, closed := false, held := false })).wr (LSC_CB_USED l) 0).discardIdle l).unwait l (fun _ => true)

theorem laneCleared_leaving (s : State) (l : Lane) : ((s.laneCleared l).lane l).leaving = (s.lane l).leaving := by
  rw [State.laneCleared, unwait_lane, discard_leaving, wr_lane]
  cases l <;> rfl

/-- A lane that a test takes. -/
def State.laneTested (s : State) (l : Lane) : State := ((s.wr (causeField l) causeBist).setRole l roleBist causeBist).wr (bistRunField l) 1

theorem laneTested_facts (s : State) (l : Lane) : ((s.laneTested l).lane l).leaving = (s.lane l).leaving ∧ (s.laneTested l).rd (causeField l) = causeBist := by
  unfold State.laneTested
  refine ⟨by rw [wr_lane, setRole_lane, wr_lane], ?_⟩
  rw [rd_wr_ne _ _ (by cases l <;> decide), setRole_ne _ _ _ _ _ (by cases l <;> decide), rd_wr_same]
  cases l <;> rfl

/-- The safety block that has begun a test. -/
def State.bistBegun (s : State) (l : Lane) (o : Nat) : State :=
  (s.wr SAF_NEXT_TS64 s.bistNext).onSaf (fun x => { x with bist := some ⟨l, o⟩, ordered := none, due := false, lastLane := some l, lastBist := s.elapsed })

theorem bistStart_eq (s : State) (l : Lane) (o : Nat) : s.bistStart l o = ((s.bistBegun l o).laneCleared l).laneTested l := rfl

theorem onSaf_lane (s : State) (f : SafState → SafState) (m : Lane) : (s.onSaf f).lane m = s.lane m := by cases m <;> rfl

theorem bistBegun_lane (s : State) (l : Lane) (o : Nat) (m : Lane) : (s.bistBegun l o).lane m = s.lane m :=
  (onSaf_lane _ _ m).trans (wr_lane s _ _ m)

theorem bistStart_leaving (s : State) (l : Lane) (o : Nat) : ((s.bistStart l o).lane l).leaving = (s.lane l).leaving := by
  rw [bistStart_eq, (laneTested_facts _ l).1, laneCleared_leaving, bistBegun_lane]

theorem bistStart_cause (s : State) (l : Lane) (o : Nat) : (s.bistStart l o).rd (causeField l) = causeBist := by
  rw [bistStart_eq, (laneTested_facts _ l).2]

theorem bistStart_role {s : State} {l : Lane} {o : Nat} (h : s.role l ≠ roleOut) : (s.bistStart l o).role l = roleBist := by
  rw [State.role, bistStart_leaving, leaving_of_role h, (bistStart_facts s l o).2.2.1]
  rfl

/-! ### Orders (R405) -/

theorem bistOrder_waits {s : State} {l : Lane} (shadow : s.role l = roleShadow) (may : s.bistMay = true) (free : s.saf.ordered = none) :
    s.bistOrder l = { s with saf := { s.saf with ordered := some l } } :=
  if_pos ⟨isShadow_iff.mpr shadow, may, by rw [free]; rfl⟩

theorem bistOrder_starts {s : State} {l : Lane} (boot : s.role l = roleBoot) (blocked : s.blocked l = true) (other : s.role l.other = roleActive) (calm : s.bistCalm = true)
    (idle : s.saf.bist = none) : s.bistOrder l = s.bistStart l 2 := by
  unfold State.bistOrder
  rw [if_neg (fun h => absurd (boot.symm.trans (isShadow_iff.mp h.1)) (by decide)), if_pos ⟨boot, blocked, other, calm, by rw [idle]; rfl⟩]

theorem bistOrder_refused {s : State} {l : Lane} (h : (s.role l ≠ roleShadow ∧ s.role l ≠ roleBoot) ∨ (s.role l = roleShadow ∧ s.bistMay = false) ∨
    (s.role l = roleBoot ∧ (s.blocked l = false ∨ s.role l.other ≠ roleActive ∨ s.bistCalm = false))) : s.bistOrder l = s.wr SAF_STATUS_CMDREJ 1 := by
  have waits : ¬ (s.isShadow l = true ∧ s.bistMay = true ∧ s.saf.ordered.isNone = true) := by
    rintro ⟨shadow, may, -⟩
    rw [isShadow_iff] at shadow
    rcases h with ⟨no, -⟩ | ⟨-, no⟩ | ⟨boot, -⟩
    · exact no shadow
    · rw [may] at no; exact Bool.noConfusion no
    · exact absurd (boot.symm.trans shadow) (by decide)
  have starts : ¬ (s.role l = roleBoot ∧ s.blocked l = true ∧ s.role l.other = roleActive ∧ s.bistCalm = true ∧ s.saf.bist.isNone = true) := by
    rintro ⟨boot, blocked, other, calm, -⟩
    rcases h with ⟨-, no⟩ | ⟨shadow, -⟩ | ⟨-, no⟩
    · exact no boot
    · exact absurd (boot.symm.trans shadow) (by decide)
    · rw [blocked, calm] at no
      rcases no with no | no | no
      · exact Bool.noConfusion no
      · exact no other
      · exact Bool.noConfusion no
  unfold State.bistOrder
  rw [if_neg waits, if_neg starts]
  rfl

/-- What an order of a BIST does, whichever lane's command it is. -/
theorem order_bist {s : State} {i : Instr} {l : Lane} (does : exec i s = .next (s.bistOrder l)) :
    (s.role l = roleShadow → s.bistMay = true → s.saf.ordered = none → exec i s = .next { s with saf := { s.saf with ordered := some l } }) ∧
    (s.role l = roleBoot → s.blocked l = true → s.role l.other = roleActive → s.bistCalm = true → s.saf.bist = none → Answers i s (fun t =>
      t.saf.bist = some ⟨l, 2⟩ ∧ t.rd (bistRunField l) = 1 ∧ t.role l = roleBist ∧ t.rd (causeField l) = causeBist)) ∧
    ((s.role l ≠ roleShadow ∧ s.role l ≠ roleBoot) ∨ (s.role l = roleShadow ∧ s.bistMay = false) ∨ (s.role l = roleBoot ∧ (s.blocked l = false ∨ s.role l.other ≠ roleActive ∨ s.bistCalm = false)) →
      exec i s = .next (s.wr SAF_STATUS_CMDREJ 1)) := by
  refine ⟨fun shadow may free => does.trans (congrArg _ (bistOrder_waits shadow may free)), fun boot blocked other calm idle => ?_, fun h => does.trans (congrArg _ (bistOrder_refused h))⟩
  obtain ⟨bist, run, -⟩ := bistStart_facts s l 2
  exact ⟨_, does.trans (congrArg _ (bistOrder_starts boot blocked other calm idle)), bist, run, bistStart_role (by rw [boot]; decide), bistStart_cause s l 2⟩

/-! ### The periodic start -/

theorem bistPeriodic_waits {s : State} (h : s.rd SAF_CTRL_BIST_EN = 0 ∨ s.elapsed < s.saf.lastBist + max 1 (s.rd SAF_PER_BIST_PER) * 3600000000000) : s.bistPeriodic = s :=
  if_pos (h.imp_left (fun off => by rw [on_of_eq off]; decide))

theorem bistPeriodic_due {s : State} (en : s.rd SAF_CTRL_BIST_EN ≠ 0) (h : s.saf.lastBist + max 1 (s.rd SAF_PER_BIST_PER) * 3600000000000 ≤ s.elapsed) :
    s.bistPeriodic = ({ s with saf := { s.saf with due := true } } : State).raiseIf (!s.bistMay) SAF_STATUS_BISTDEFER :=
  if_neg (fun c => c.elim (fun off => off (on_of_ne en)) (Nat.not_lt.mpr h))

/-! ### What the Active lane's seal brings -/

theorem safSeal_ordered {s : State} {l : Lane} (order : s.saf.ordered = some l) :
    s.safSeal = if s.bistMay ∧ s.isShadow l then s.bistStart l 2 else { s with saf := { s.saf with ordered := none } }.wr SAF_STATUS_CMDREJ 1 := by
  unfold State.safSeal
  rw [order]
  rfl

theorem safSeal_free {s : State} (order : s.saf.ordered = none) : s.safSeal =
    if !s.saf.due then s
    else if !s.bistMay then s.raise SAF_STATUS_BISTDEFER
    else match s.activeLane with
      | none => s
      | some a => if s.on SAF_CTRL_SWAP_EN && s.saf.lastLane == some a.other then s.swapRoles a else s.bistStart a.other 1 := by
  unfold State.safSeal
  rw [order] <;> rfl

theorem safSeal_due {s : State} {a : Lane} (order : s.saf.ordered = none) (due : s.saf.due = true) (may : s.bistMay = true) (active : s.role a = roleActive) : s.safSeal =
    if s.on SAF_CTRL_SWAP_EN && s.saf.lastLane == some a.other then s.swapRoles a else s.bistStart a.other 1 := by
  rw [safSeal_free order, if_neg (by rw [due]; decide), if_neg (by rw [may]; decide), (bistMay_roles may active).1]

theorem claimSealed_role (s : State) (l m : Lane) : (s.claimSealed l).role m = s.role m := by
  unfold State.role
  rw [claim_leaving, only_rd (claimSealed_only (μ := 142606336) rfl (Only.refl s)) (block3 _ _ (roleField_block m) rfl)]

theorem swapRoles_roles {s : State} {a : Lane} (active : s.role a = roleActive) (shadow : s.role a.other = roleShadow) :
    (s.swapRoles a).role a = roleShadow ∧ (s.swapRoles a).role a.other = roleActive ∧ (s.swapRoles a).saf = s.saf := by
  refine ⟨?_, ?_, only_part (swapRoles_only (μ := 176160776) rfl (Only.refl s)) .saf rfl⟩
  · rw [State.swapRoles, if_pos ⟨active, shadow⟩, claimSealed_role]
    have keeps := setRole_role_other (s.setRole a roleShadow 0) a.other roleActive 0
    rw [show a.other.other = a by cases a <;> rfl] at keeps
    rw [keeps, setRole_role _ _ _ _ (leaving_of_role (by rw [active]; decide))]
    rfl
  · rw [State.swapRoles, if_pos ⟨active, shadow⟩, claimSealed_role, setRole_role _ _ _ _ (by rw [setRole_lane]; exact leaving_of_role (by rw [shadow]; decide))]
    rfl

/-! ### The end of a test (R403, R406, R408) -/

theorem bistDone_idle {s : State} {r : BistResult} (h : s.saf.bist = none) : s.bistDone r = s := by
  unfold State.bistDone
  rw [h]

/-- The lane that a test has ended on, reset into BOOT, before its result is recorded. -/
def State.bistLeft (s : State) (l : Lane) : State :=
  ((({ s with saf := { s.saf with bist := none } }.wr (bistRunField l) 0).setRole l roleBoot 0).laneReset l roleBoot)

theorem bistDone_runs {s : State} {r : BistResult} {b : BistRun} (h : s.saf.bist = some b) : s.bistDone r =
    ((s.bistLeft b.lane).bistRecord b.lane r).post (((s.bistLeft b.lane).bistRecord b.lane r).bistEvent b.lane (bistCode r) b.origin (bistSig r)) := by
  unfold State.bistDone
  rw [h]
  rfl

theorem laneReset_lane (s : State) (l : Lane) (n : Nat) : ((s.laneReset l n).lane l).refilling = true ∧ ((s.laneReset l n).lane l).leaving = false := by
  cases l <;> exact ⟨rfl, rfl⟩

theorem laneReset_role (s : State) (l : Lane) : (s.laneReset l roleBoot).rd (roleField l) = roleBoot := by
  unfold State.laneReset
  rw [raise_def]
  cases l <;> rw [rd_wr_ne _ _ (by decide), rd_wr_same] <;> rfl

theorem bistLeft_facts (s : State) (l : Lane) : (s.bistLeft l).saf.bist = none ∧ (s.bistLeft l).rd (roleField l) = roleBoot ∧ ((s.bistLeft l).lane l).refilling = true ∧
    ((s.bistLeft l).lane l).leaving = false ∧ (s.bistLeft l).rd (bistRunField l) = 0 ∧ (s.bistLeft l).rd CRZ_SEG_SEG = s.rd CRZ_SEG_SEG ∧ (s.bistLeft l).tb = s.tb := by
  unfold State.bistLeft
  obtain ⟨u, hu⟩ : ∃ u : State, u = { s with saf := { s.saf with bist := none } }.wr (bistRunField l) 0 := ⟨_, rfl⟩
  have run : u.rd (bistRunField l) = 0 := by rw [hu, rd_wr_same, Nat.zero_mod]
  have seg : u.rd CRZ_SEG_SEG = s.rd CRZ_SEG_SEG := by rw [hu, rd_wr_ne _ _ (by cases l <;> decide)]; rfl
  have rest : u.saf.bist = none ∧ u.tb = s.tb := by rw [hu]; exact ⟨rfl, rfl⟩
  rw [← hu]
  clear hu
  have block : (bistRunField l).block = 21 := by cases l <;> rfl
  have set : Only 33554440 u (u.setRole l roleBoot 0) := setRole_only rfl (Only.refl u)
  generalize u.setRole l roleBoot 0 = v at set
  have reset : Only 25165833 v (v.laneReset l roleBoot) := laneReset_only rfl (Only.refl v)
  obtain ⟨refilling, leaving⟩ := laneReset_lane v l roleBoot
  refine ⟨?_, laneReset_role v l, refilling, leaving, ?_, ?_, ?_⟩
  · rw [only_part reset .saf rfl, only_part set .saf rfl]
    exact rest.1
  · rw [laneReset_other _ _ _ (by rw [block]; decide) (by rw [block]; decide) (by rw [block]; decide), only_rd set (by rw [block]; rfl), run]
  · rw [laneReset_other _ _ _ (by decide) (by decide) (by decide), only_rd set (by decide), seg]
  · rw [only_part reset .tb rfl, only_part set .tb rfl]
    exact rest.2

theorem bistDone_facts {s : State} {r : BistResult} {b : BistRun} (run : s.saf.bist = some b) :
    (s.bistDone r).saf.bist = none ∧ (s.bistDone r).role b.lane = roleBoot ∧ ((s.bistDone r).lane b.lane).refilling = true ∧ (s.bistDone r).rd (bistRunField b.lane) = 0 ∧
    (s.bistDone r).rd (bistResField b.lane) = bistCode r ∧ (s.bistDone r).rd (logicSig b.lane) = r.lsig % 2 ^ 64 ∧ (s.bistDone r).rd (memorySig b.lane) = r.msig % 2 ^ 64 ∧
    (s.bistDone r).rd SAF_STATUS_BISTDONE = 1 ∧ (bistCode r ≠ 1 → (s.bistDone r).rd SAF_STATUS_BISTFAIL = 1) ∧ (s.bistDone r).rd (bistBlockField b.lane) = (if bistCode r = 1 then 0 else 1) ∧
    (s.bistDone r).waiting.getLast? = some ⟨s.event 68 0 0x01 ([laneOctet b.lane, octet (bistCode r), octet b.origin] ++ zeros 5 ++ le 8 (bistSig r)) s.tb.now, none, 0⟩ := by
  rw [bistDone_runs run]
  obtain ⟨bist, role, refilling, leaving, runs, seg, clock⟩ := bistLeft_facts s b.lane
  generalize s.bistLeft b.lane = u at *
  obtain ⟨res, lsig, msig, done, fail, block, runK, roleK, safK, laneK, tbK, segK, -⟩ := bistResult_facts u b.lane r
  generalize u.bistRecord b.lane r = v at *
  refine ⟨(congrArg SafState.bist safK).trans bist, ?_, (congrArg LaneState.refilling laneK).trans refilling, runK.trans runs, res, lsig, msig, done, fail, block, ?_⟩
  · show v.role b.lane = _
    rw [State.role, laneK, leaving, roleK, role]
    rfl
  · show (v.waiting ++ [_]).getLast? = _
    rw [List.getLast?_concat, State.bistEvent]
    unfold State.event State.seg
    rw [segK, seg, tbK, clock]

/-- Settles O59: each clause is the case of its effect. -/
theorem laneTests : Obligations.LaneTests := by
  unfold Obligations.LaneTests
  refine ⟨bistMay_iff, fun s l serves => ⟨fun key wrong i hi => ?_, ?_, fun p hp => ?_⟩, fun s hu => ⟨fun waits => ?_, fun en due => ?_⟩,
    fun s => ⟨fun l order => ⟨fun may shadow => ?_, fun no => ?_⟩, fun order => ⟨fun due => ?_, fun due no => ?_, fun a due may active => ⟨fun again => ?_, fun fresh => ?_⟩⟩⟩,
    fun s r hu => ⟨fun idle => ?_, fun b code run hcode => ?_⟩⟩
  · simp only [List.mem_cons, List.not_mem_nil, or_false] at hi
    rcases hi with rfl | rfl | rfl
    · exact (bistLaneA_does key serves).trans (congrArg _ (safCommand_wrong wrong))
    · exact (bistLaneB_does key serves).trans (congrArg _ (safCommand_wrong wrong))
    · exact (clrblk_does key serves).trans (congrArg _ (safCommand_wrong wrong))
  · exact ⟨_, (clrblk_does _ serves).trans (congrArg _ (safc _ _)), (rd_wr_ne _ _ (by decide)).trans (rd_wr_same _ _ _), rd_wr_same _ _ _⟩
  · simp only [List.mem_cons, List.not_mem_nil, or_false] at hp
    rcases hp with rfl | rfl
    · exact order_bist (l := .A) ((bistLaneA_does _ serves).trans (congrArg _ (safc _ _)))
    · exact order_bist (l := .B) ((bistLaneB_does _ serves).trans (congrArg _ (safc _ _)))
  · exact congrArg Host.Outcome.next ((whenUp_up hu).trans (bistPeriodic_waits waits))
  · refine ⟨_, congrArg Host.Outcome.next ((whenUp_up hu).trans (bistPeriodic_due en due)), (raiseIf_facts _ _ _).1, ?_⟩
    cases s.bistMay with
    | true => rfl
    | false => exact raiseIf_rd_true _ rfl (by decide)
  · rw [safSeal_ordered order, if_pos ⟨may, isShadow_iff.mpr shadow⟩]
    obtain ⟨bist, runs, -, -, free, -⟩ := bistStart_facts s l 2
    exact ⟨bist, bistStart_role (by rw [shadow]; decide), runs, free⟩
  · rw [safSeal_ordered order, if_neg (fun h => by rw [no] at h; exact Bool.false_ne_true h.1)]
  · rw [safSeal_free order, if_pos (by rw [due]; rfl)]
  · rw [safSeal_free order, if_neg (by rw [due]; decide), if_pos (by rw [no]; rfl)]
    rfl
  · rw [safSeal_due order due may active, if_pos (by rw [on_of_ne again.1, again.2, beq_self_eq_true]; rfl)]
    exact swapRoles_roles active (bistMay_roles may active).2
  · have no : (s.on SAF_CTRL_SWAP_EN && s.saf.lastLane == some a.other) ≠ true := by
      intro h
      rw [Bool.and_eq_true, beq_iff_eq, State.on, bne_iff_ne] at h
      exact fresh.elim h.1 (fun n => n h.2)
    rw [safSeal_due order due may active, if_neg no]
    obtain ⟨bist, -, -, last, -, due'⟩ := bistStart_facts s a.other 1
    exact ⟨bist, bistStart_role (by rw [(bistMay_roles may active).2]; decide), due', last⟩
  · exact congrArg Host.Outcome.next ((whenUp_up hu).trans (bistDone_idle idle))
  · subst hcode
    exact ⟨_, congrArg Host.Outcome.next (whenUp_up hu), bistDone_facts run⟩

end Sys2Proof.Machine

/-!
PROOFS. The dual-clock queues: reads, FLUSH and DROP (R383 to R387).
-/
namespace Sys2Proof.Machine
set_option Elab.async false

/-! ### The counters of a queue -/

section
variable (s : State) (n : Fin 17)

theorem dcqDiscard_rd (k : Nat) {f : Field} (disc : f.key ≠ (DCQ_Q_W3_DISC n.val).key) (wrap : f.key ≠ DCQ_WRAP_WRAP.key) : (s.dcqDiscard n.val k).rd f = s.rd f := by
  unfold State.dcqDiscard
  dsimp only
  split
  · exact rd_wr_ne _ _ disc
  · exact (rd_wr_ne _ _ wrap).trans (rd_wr_ne _ _ disc)

theorem dcqDiscard_bh (k : Nat) : (s.dcqDiscard n.val k).bh = s.bh := by
  unfold State.dcqDiscard
  dsimp only
  split <;> rfl

theorem dcqPoison_facts : (s.dcqPoison n.val).waiting = s.waiting ∧ (s.dcqPoison n.val).bh = s.bh ∧ (s.dcqPoison n.val).rd (DCQ_Q_W2_PERR n.val) = (s.rd (DCQ_Q_W2_PERR n.val) + 1) % 2 ^ 32 := by
  unfold State.dcqPoison
  dsimp only
  split
  · exact ⟨rfl, rfl, rd_wr_same _ _ _⟩
  · refine ⟨rfl, rfl, (rd_wr_ne _ _ ?_).trans (rd_wr_same _ _ _)⟩
    simp only [Field.key, DCQ_Q_W2_PERR, DCQ_WRAP_WRAP]
    omega

/-- A word that has been read, `bad` with a parity error, with USED brought up. -/
def State.wordTaken (s : State) (n : Nat) (bad : Bool) : State := (if bad then s.dcqPoison n else s).dcqCount n

theorem wordTaken_facts (bad : Bool) : (s.wordTaken n.val bad).waiting = s.waiting ∧ (s.wordTaken n.val bad).bh = s.bh ∧
    (s.wordTaken n.val bad).rd (DCQ_Q_W2_PERR n.val) = (s.rd (DCQ_Q_W2_PERR n.val) + b2n bad) % 2 ^ 32 := by
  obtain ⟨-, -, -, -, -, -, -, -, -, -, -, -, -, -, -, -, -, used⟩ := dcq_keys n
  unfold State.wordTaken State.dcqCount
  rw [rd_wr_ne _ _ used]
  cases bad with
  | false => exact ⟨rfl, rfl, (Nat.mod_eq_of_lt (rd_lt s (DCQ_Q_W2_PERR n.val))).symm⟩
  | true => exact dcqPoison_facts s n

end

/-! ### Words read (R382 to R384) -/

theorem dcqRead_abort {s : State} {n : Nat} {bad : Bool} (due : s.dcq.abortDue.contains n = true) :
    s.dcqRead n bad = { s with dcq := { s.dcq with abortDue := s.dcq.abortDue.filter (· != n) } } := if_pos due

theorem dcqRead_forward {s : State} {n : Nat} {bad : Bool} (due : s.dcq.abortDue.contains n = false) (high : 15 ≤ n) : s.dcqRead n bad = s.fwdRead n bad := by
  unfold State.dcqRead
  rw [if_neg (by rw [due]; decide), if_pos high]

/-- What one read does to a packet. -/
def Waiting.read (bad : Bool) (w : Waiting) : Waiting := { (if bad then w.poisoned else w) with unread := w.unread - 1 }

theorem poisoned_unread (w : Waiting) : w.poisoned.unread = w.unread := rfl

theorem dcqRead_packet {s : State} {n : Nat} {bad : Bool} (due : s.dcq.abortDue.contains n = false) (low : n < 15) :
    s.dcqRead n bad = match s.waiting.findIdx? (fun w => w.dcq == some n && w.unread != 0) with
      | none => s
      | some i => ({ s with waiting := updNth (Waiting.read bad) s.waiting i } : State).wordTaken n bad := by
  unfold State.dcqRead
  rw [if_neg (by rw [due]; decide), if_neg (by omega)]
  have read : (fun w : Waiting => { (if bad then w.poisoned else w) with unread := (if bad then w.poisoned else w).unread - 1 }) = Waiting.read bad := by
    funext w
    cases bad <;> rfl
  dsimp only
  rw [read]
  rfl

/-- The packet of a queue that is read next, or none. -/
theorem unreadOf_iff (n : Nat) (w : Waiting) : (w.dcq == some n && w.unread != 0) = true ↔ w.dcq = some n ∧ w.unread ≠ 0 := by
  rw [Bool.and_eq_true, beq_iff_eq, bne_iff_ne]

theorem firstPacket_none {l : List Waiting} {n : Nat} (h : ∀ w ∈ l, w.dcq = some n → w.unread = 0) : l.findIdx? (fun w => w.dcq == some n && w.unread != 0) = none := by
  rw [List.findIdx?_eq_none_iff]
  intro w hw
  rw [Bool.eq_false_iff]
  exact fun c => ((unreadOf_iff n w).mp c).2 (h w hw ((unreadOf_iff n w).mp c).1)

theorem firstPacket_at {l : List Waiting} {n i : Nat} {w : Waiting} (at' : l[i]? = some w) (own : w.dcq = some n) (words : w.unread ≠ 0)
    (first : ∀ (k : Nat) (x : Waiting), k < i → l[k]? = some x → x.dcq ≠ some n ∨ x.unread = 0) : l.findIdx? (fun w => w.dcq == some n && w.unread != 0) = some i := by
  obtain ⟨bound, rfl⟩ := List.getElem?_eq_some_iff.mp at'
  rw [List.findIdx?_eq_some_iff_getElem]
  refine ⟨bound, (unreadOf_iff n _).mpr ⟨own, words⟩, fun j hj c => ?_⟩
  obtain ⟨own', words'⟩ := (unreadOf_iff n _).mp c
  exact (first j _ hj (List.getElem?_eq_getElem (by omega))).elim (fun no => no own') words'

/-- A word read with an error marks its slot of the packet and nothing else. -/
theorem read_marks (w : Waiting) : (w.read true).unread = w.unread - 1 ∧ (w.ev.words - w.unread) / 4 ∈ (w.read true).ev.bad ∧ { (w.read true).ev with bad := [] } = { w.ev with bad := [] } := by
  refine ⟨rfl, ?_, rfl⟩
  show _ ∈ (if w.ev.bad.contains ((w.ev.words - w.unread) / 4) then w.ev.bad else w.ev.bad ++ [(w.ev.words - w.unread) / 4])
  split
  · rename_i h
    exact List.contains_iff_mem.mp h
  · exact List.mem_append_right _ (List.mem_singleton.mpr rfl)

theorem fwdOf_setFwd (s : State) (n : Nat) (l : List Forward) : (s.setFwd n l).fwdOf n = l := by
  unfold State.setFwd State.fwdOf
  by_cases h : n = 15
  · rw [if_pos h, if_pos h]
  · rw [if_neg h, if_neg h]

theorem fwdOf_congr {s t : State} (h : t.bh = s.bh) (n : Nat) : t.fwdOf n = s.fwdOf n := by
  unfold State.fwdOf
  rw [h]

theorem setFwd_keeps (s : State) (n : Nat) (l : List Forward) : (s.setFwd n l).waiting = s.waiting ∧ (s.setFwd n l).dcq = s.dcq ∧ ∀ f, (s.setFwd n l).rd f = s.rd f := by
  unfold State.setFwd
  split <;> exact ⟨rfl, rfl, fun _ => rfl⟩

theorem fwdRead_empty {s : State} {n : Nat} {bad : Bool} (h : s.fwdOf n = []) : s.fwdRead n bad = s := by
  unfold State.fwdRead
  rw [h]

theorem fwdRead_frame {s : State} {n : Nat} {bad : Bool} {x : Forward} {rest : List Forward} (h : s.fwdOf n = x :: rest) : s.fwdRead n bad =
    if x.unread = 0 then s else (s.setFwd n ({ x with unread := x.unread - 1, bad := x.bad || bad } :: rest)).wordTaken n bad := by
  unfold State.fwdRead
  rw [h]
  rfl

/-! ### The words of a queue -/

theorem sum_none (l : List Waiting) (n : Nat) (h : ∀ w ∈ l, w.dcq ≠ some n) : sumN (l.map (fun w => if w.dcq = some n then w.unread else 0)) = 0 := by
  induction l with
  | nil => rfl
  | cons w l ih =>
    rw [List.map_cons, if_neg (h w List.mem_cons_self), sumN, ih (fun x hx => h x (List.mem_cons_of_mem w hx))]

theorem dcqUsed_congr {s t : State} (waits : t.waiting = s.waiting) (bh : t.bh = s.bh) (n : Nat) : t.dcqUsed n = s.dcqUsed n := by
  unfold State.dcqUsed State.forwardWords
  rw [waits, bh]

/-! ### FLUSH (R385, R386) -/

/-- An ABORT word made due for the reader of a queue. -/
def State.abortIf (s : State) (cut : Bool) (n : Nat) : State := if cut then { s with dcq := { s.dcq with abortDue := s.dcq.abortDue ++ [n] } } else s

/-- A queue in its shut-down that a flush leaves empty. -/
def State.flushEnd (s : State) (n : Nat) : State := if s.rd (DCQ_Q_W0_RUNST n) = 2 then s.wr (DCQ_Q_W0_RUNST n) (if s.on (DCQ_Q_W0_EN n) then 3 else 0) else s

/-- Whether the reader has taken words of a packet that a flush cuts. -/
def State.flushCuts (s : State) (n : Nat) : Bool := s.waiting.any (fun w => w.dcq == some n && w.unread != 0 && w.unread != w.ev.words)

theorem dcqFlush_eq (s : State) (n : Nat) : s.dcqFlush n = ((if 15 ≤ n then s.fwdFlush n else s.dcqEmpty n).abortIf (s.flushCuts n) n).flushEnd n := rfl

theorem flushCuts_of {s : State} {n : Nat} (h : ∃ w ∈ s.waiting, w.dcq = some n ∧ w.unread ≠ 0 ∧ w.unread ≠ w.ev.words) : s.flushCuts n = true := by
  obtain ⟨w, hw, own, words, part⟩ := h
  refine List.any_eq_true.mpr ⟨w, hw, ?_⟩
  rw [Bool.and_eq_true, unreadOf_iff, bne_iff_ne]
  exact ⟨⟨own, words⟩, part⟩

theorem abortIf_facts (s : State) (cut : Bool) (n : Nat) : (s.abortIf cut n).waiting = s.waiting ∧ (s.abortIf cut n).bh = s.bh ∧ (∀ f, (s.abortIf cut n).rd f = s.rd f) ∧ (cut = true → n ∈ (s.abortIf cut n).dcq.abortDue) := by
  unfold State.abortIf
  cases cut with
  | false => exact ⟨rfl, rfl, fun _ => rfl, fun h => Bool.noConfusion h⟩
  | true => exact ⟨rfl, rfl, fun _ => rfl, fun _ => List.mem_append_right _ (List.mem_singleton.mpr rfl)⟩

theorem flushEnd_facts (s : State) (n : Fin 17) : (s.flushEnd n.val).waiting = s.waiting ∧ (s.flushEnd n.val).bh = s.bh ∧ (s.flushEnd n.val).dcq = s.dcq ∧
    (∀ f : Field, f.key ≠ (DCQ_Q_W0_RUNST n.val).key → (s.flushEnd n.val).rd f = s.rd f) ∧
    (s.rd (DCQ_Q_W0_RUNST n.val) = 2 → (s.flushEnd n.val).rd (DCQ_Q_W0_RUNST n.val) = if s.rd (DCQ_Q_W0_EN n.val) = 0 then 0 else 3) := by
  unfold State.flushEnd
  split
  · refine ⟨rfl, rfl, rfl, fun f h => rd_wr_ne _ _ h, fun _ => ?_⟩
    by_cases en : s.rd (DCQ_Q_W0_EN n.val) = 0
    · rw [rd_wr_same, on_of_eq en, if_pos en]; rfl
    · rw [rd_wr_same, on_of_ne en, if_neg en]; rfl
  · exact ⟨rfl, rfl, rfl, fun _ _ => rfl, fun h => absurd h (by assumption)⟩

/-- What a flush keeps of the queue's fields. -/
structure FlushKeys (n : Fin 17) (f : Field) : Prop where
  disc : f.key ≠ (DCQ_Q_W3_DISC n.val).key
  wrap : f.key ≠ DCQ_WRAP_WRAP.key
  used : f.key ≠ (DCQ_Q_W1_USED n.val).key

theorem runst_flushKeys (n : Fin 17) : FlushKeys n (DCQ_Q_W0_RUNST n.val) := by
  constructor <;> simp only [Field.key, DCQ_Q_W0_RUNST, DCQ_Q_W3_DISC, DCQ_WRAP_WRAP, DCQ_Q_W1_USED] <;> omega

theorem en_flushKeys (n : Fin 17) : FlushKeys n (DCQ_Q_W0_EN n.val) := by
  constructor <;> simp only [Field.key, DCQ_Q_W0_EN, DCQ_Q_W3_DISC, DCQ_WRAP_WRAP, DCQ_Q_W1_USED] <;> omega

theorem dcqEmpty_rd (s : State) (n : Fin 17) {f : Field} (h : FlushKeys n f) : (s.dcqEmpty n.val).rd f = s.rd f := by
  unfold State.dcqEmpty State.dcqCount
  exact (rd_wr_ne _ _ h.used).trans (dcqDiscard_rd _ n _ h.disc h.wrap)

theorem fwdFlush_rd (s : State) (n : Fin 17) {f : Field} (h : FlushKeys n f) : (s.fwdFlush n.val).rd f = s.rd f := by
  unfold State.fwdFlush State.dcqCount
  exact (rd_wr_ne _ _ h.used).trans ((dcqDiscard_rd _ n _ h.disc h.wrap).trans ((setFwd_keeps s n.val _).2.2 f))

theorem fwdFlush_facts (s : State) (n : Fin 17) (high : 15 ≤ n.val) (none' : ∀ w ∈ s.waiting, w.dcq ≠ some n.val) :
    (s.fwdFlush n.val).waiting = s.waiting ∧ (s.fwdFlush n.val).fwdOf n.val = ((s.fwdOf n.val).take 1).flatMap Forward.cut ∧
    (s.fwdFlush n.val).rd (DCQ_Q_W3_DISC n.val) = (s.rd (DCQ_Q_W3_DISC n.val) + s.dcqUsed n.val) % 2 ^ 32 ∧ (s.fwdFlush n.val).rd (DCQ_Q_W1_USED n.val) = 0 := by
  obtain ⟨-, -, -, -, -, -, -, -, -, -, used, -⟩ := dcq_keys n
  unfold State.fwdFlush
  dsimp only
  have words := flush_words s n high
  have frames := fwdOf_setFwd s n.val (((s.fwdOf n.val).take 1).flatMap Forward.cut)
  obtain ⟨waits, -, reads⟩ := setFwd_keeps s n.val (((s.fwdOf n.val).take 1).flatMap Forward.cut)
  generalize s.setFwd n.val (((s.fwdOf n.val).take 1).flatMap Forward.cut) = u at *
  obtain ⟨disc, waits', -⟩ := discard_facts u n (s.dcqUsed n.val)
  have bh := dcqDiscard_bh u n (s.dcqUsed n.val)
  generalize u.dcqDiscard n.val (s.dcqUsed n.val) = v at *
  have empty : v.dcqUsed n.val = 0 := by
    rw [dcqUsed_congr waits' bh, State.dcqUsed, words, waits, sum_none _ _ none']
  unfold State.dcqCount
  refine ⟨waits'.trans waits, (fwdOf_congr (t := v.wr _ _) bh n.val).trans frames, (rd_wr_ne _ _ used).trans (disc.trans (by rw [reads])), ?_⟩
  rw [rd_wr_same, empty, Nat.zero_mod]

/-- A flush of a queue of events. -/
theorem dcqFlush_low (s : State) (n : Fin 17) (low : n.val < 15) : (s.dcqFlush n.val).waiting = s.waiting.filter (fun w => w.dcq != some n.val) ∧ (s.dcqFlush n.val).rd (DCQ_Q_W1_USED n.val) = 0 ∧
    (s.dcqFlush n.val).rd (DCQ_Q_W3_DISC n.val) = (s.rd (DCQ_Q_W3_DISC n.val) + s.dcqUsed n.val) % 2 ^ 32 ∧
    ((∃ w ∈ s.waiting, w.dcq = some n.val ∧ w.unread ≠ 0 ∧ w.unread ≠ w.ev.words) → n.val ∈ (s.dcqFlush n.val).dcq.abortDue) ∧
    (s.rd (DCQ_Q_W0_RUNST n.val) = 2 → (s.dcqFlush n.val).rd (DCQ_Q_W0_RUNST n.val) = if s.rd (DCQ_Q_W0_EN n.val) = 0 then 0 else 3) := by
  obtain ⟨-, -, -, -, -, discR, -, -, -, -, -, usedR, -⟩ := dcq_keys n
  rw [dcqFlush_eq, if_neg (by omega)]
  obtain ⟨waits, -, disc, used⟩ := empty_facts s n low
  have runst := dcqEmpty_rd s n (runst_flushKeys n)
  have en := dcqEmpty_rd s n (en_flushKeys n)
  generalize s.dcqEmpty n.val = u at *
  obtain ⟨waits', -, reads, abort⟩ := abortIf_facts u (s.flushCuts n.val) n.val
  generalize u.abortIf (s.flushCuts n.val) n.val = v at *
  obtain ⟨waitsE, -, dcqE, readsE, busy⟩ := flushEnd_facts v n
  rw [dcqE]
  refine ⟨waitsE.trans (waits'.trans waits), (readsE _ usedR).trans ((reads _).trans used), (readsE _ discR).trans ((reads _).trans disc), fun h => abort (flushCuts_of h), fun h => ?_⟩
  rw [busy (by rw [reads, runst, h]), reads, en]

/-- A flush of a forwarding queue. -/
theorem dcqFlush_high (s : State) (n : Fin 17) (high : 15 ≤ n.val) (none' : ∀ w ∈ s.waiting, w.dcq ≠ some n.val) : (s.dcqFlush n.val).waiting = s.waiting ∧
    (s.dcqFlush n.val).fwdOf n.val = ((s.fwdOf n.val).take 1).flatMap Forward.cut ∧ (s.dcqFlush n.val).rd (DCQ_Q_W1_USED n.val) = 0 ∧
    (s.dcqFlush n.val).rd (DCQ_Q_W3_DISC n.val) = (s.rd (DCQ_Q_W3_DISC n.val) + s.dcqUsed n.val) % 2 ^ 32 ∧
    (s.rd (DCQ_Q_W0_RUNST n.val) = 2 → (s.dcqFlush n.val).rd (DCQ_Q_W0_RUNST n.val) = if s.rd (DCQ_Q_W0_EN n.val) = 0 then 0 else 3) := by
  obtain ⟨-, -, -, -, -, discR, -, -, -, -, -, usedR, -⟩ := dcq_keys n
  rw [dcqFlush_eq, if_pos high]
  obtain ⟨waits, frames, disc, used⟩ := fwdFlush_facts s n high none'
  have runst := fwdFlush_rd s n (runst_flushKeys n)
  have en := fwdFlush_rd s n (en_flushKeys n)
  generalize s.fwdFlush n.val = u at *
  obtain ⟨waits', bh', reads, -⟩ := abortIf_facts u (s.flushCuts n.val) n.val
  generalize u.abortIf (s.flushCuts n.val) n.val = v at *
  obtain ⟨waitsE, bhE, -, readsE, busy⟩ := flushEnd_facts v n
  refine ⟨waitsE.trans (waits'.trans waits), (fwdOf_congr (bhE.trans bh') _).trans frames, (readsE _ usedR).trans ((reads _).trans used), (readsE _ discR).trans ((reads _).trans disc), fun h => ?_⟩
  rw [busy (by rw [reads, runst, h]), reads, en]

/-! ### DROP (R385) -/

theorem newestPacket_at {s : State} {n i : Nat} {w : Waiting} (at' : s.waiting[i]? = some w) (own : w.dcq = some n) (words : w.unread ≠ 0)
    (last : ∀ (k : Nat) (x : Waiting), i < k → s.waiting[k]? = some x → x.dcq ≠ some n ∨ x.unread = 0) : s.newestPacket n = some i := by
  obtain ⟨bound, -⟩ := List.getElem?_eq_some_iff.mp at'
  unfold State.newestPacket
  have split : List.range s.waiting.length = List.range i ++ i :: (List.range' (i + 1) (s.waiting.length - (i + 1))) := by
    rw [List.range_eq_range', List.range_eq_range', ← List.range'_succ]
    have := List.range'_append_1 (s := 0) (m := i) (n := s.waiting.length - (i + 1) + 1)
    rw [Nat.zero_add] at this
    rw [this]
    congr 1
    omega
  rw [split, List.filter_append, List.filter_cons, at', if_pos ((unreadOf_iff n w).mpr ⟨own, words⟩)]
  have none' : (List.range' (i + 1) (s.waiting.length - (i + 1))).filter (fun i => match s.waiting[i]? with
    | some w => w.dcq == some n && w.unread != 0
    | none => false) = [] := by
    rw [List.filter_eq_nil_iff]
    intro k hk
    have after : i < k := by have := (List.mem_range'_1.mp hk).1; omega
    cases e : s.waiting[k]? with
    | none => exact Bool.false_ne_true
    | some x => exact fun c => (last k x after e).elim (fun no => no ((unreadOf_iff n x).mp c).1) ((unreadOf_iff n x).mp c).2
  erw [none']
  rw [List.getLast?_append]
  rfl

theorem dcqDrop_idle (s : State) (n : Nat) : s.dcqDrop n false = s := by
  unfold State.dcqDrop
  split <;> rfl

theorem fwdDrop_idle (s : State) (n : Nat) : s.fwdDrop n false = s := by
  unfold State.fwdDrop
  split <;> rfl

theorem dcqDrop_packet {s : State} {n i : Nat} {w : Waiting} (newest : s.newestPacket n = some i) (at' : s.waiting[i]? = some w) :
    s.dcqDrop n true = ((({ s with waiting := s.waiting.eraseIdx i } : State).abortIf (w.unread != w.ev.words) n).dcqDiscard n w.unread).dcqCount n := by
  unfold State.dcqDrop
  rw [newest]
  dsimp only
  rw [if_neg (by decide), at']
  dsimp only
  unfold State.abortIf
  by_cases h : w.unread = w.ev.words
  · rw [if_pos h, if_neg (by rw [bne_iff_ne]; exact fun c => c h)]
  · rw [if_neg h, if_pos (bne_iff_ne.mpr h)]

theorem fwdDrop_frame {s : State} {n : Nat} {x : Forward} (last : (s.fwdOf n).getLast? = some x) (words : x.unread ≠ 0) :
    s.fwdDrop n true = ((s.setFwd n ((s.fwdOf n).dropLast ++ x.cut)).dcqDiscard n x.unread).dcqCount n := by
  unfold State.fwdDrop
  rw [last]
  exact if_neg (fun h => words (of_decide_eq_true h))

theorem dcqDrop_facts {s : State} {n : Fin 17} {i : Nat} {w : Waiting} (newest : s.newestPacket n.val = some i) (at' : s.waiting[i]? = some w) :
    (s.dcqDrop n.val true).waiting = s.waiting.eraseIdx i ∧ (s.dcqDrop n.val true).rd (DCQ_Q_W3_DISC n.val) = (s.rd (DCQ_Q_W3_DISC n.val) + w.unread) % 2 ^ 32 ∧
    (w.unread ≠ w.ev.words → n.val ∈ (s.dcqDrop n.val true).dcq.abortDue) := by
  obtain ⟨-, -, -, -, -, -, -, -, -, -, used, -⟩ := dcq_keys n
  rw [dcqDrop_packet newest at']
  obtain ⟨waits, -, reads, abort⟩ := abortIf_facts ({ s with waiting := s.waiting.eraseIdx i } : State) (w.unread != w.ev.words) n.val
  generalize ({ s with waiting := s.waiting.eraseIdx i } : State).abortIf (w.unread != w.ev.words) n.val = u at *
  obtain ⟨disc, waits', dcq⟩ := discard_facts u n w.unread
  generalize u.dcqDiscard n.val w.unread = v at *
  unfold State.dcqCount
  refine ⟨waits'.trans waits, (rd_wr_ne _ _ used).trans (disc.trans (by rw [reads]; rfl)), fun h => ?_⟩
  show n.val ∈ v.dcq.abortDue
  rw [dcq]
  exact abort (bne_iff_ne.mpr h)

theorem fwdDrop_facts {s : State} {n : Fin 17} {x : Forward} (last : (s.fwdOf n.val).getLast? = some x) (words : x.unread ≠ 0) :
    (s.fwdDrop n.val true).fwdOf n.val = (s.fwdOf n.val).dropLast ++ x.cut ∧ (s.fwdDrop n.val true).waiting = s.waiting ∧
    (s.fwdDrop n.val true).rd (DCQ_Q_W3_DISC n.val) = (s.rd (DCQ_Q_W3_DISC n.val) + x.unread) % 2 ^ 32 := by
  obtain ⟨-, -, -, -, -, -, -, -, -, -, used, -⟩ := dcq_keys n
  rw [fwdDrop_frame last words]
  have frames := fwdOf_setFwd s n.val ((s.fwdOf n.val).dropLast ++ x.cut)
  obtain ⟨waits, -, reads⟩ := setFwd_keeps s n.val ((s.fwdOf n.val).dropLast ++ x.cut)
  generalize s.setFwd n.val ((s.fwdOf n.val).dropLast ++ x.cut) = u at *
  obtain ⟨disc, waits', -⟩ := discard_facts u n x.unread
  have bh := dcqDiscard_bh u n x.unread
  generalize u.dcqDiscard n.val x.unread = v at *
  unfold State.dcqCount
  exact ⟨(fwdOf_congr (t := v.wr _ _) bh n.val).trans frames, waits'.trans waits, (rd_wr_ne _ _ used).trans (disc.trans (by rw [reads]))⟩

/-! ### The two commands -/

/-- The state that a command of a queue meets once its store has rewritten the queue's other fields. -/
structure QueueKept (n : Fin 17) (s u : State) : Prop where
  waiting : u.waiting = s.waiting
  dcq : u.dcq = s.dcq
  bh : u.bh = s.bh
  sel : u.rd (DCQ_Q_W0_CMDSEL n.val) = s.rd (DCQ_Q_W0_CMDSEL n.val)
  disc : u.rd (DCQ_Q_W3_DISC n.val) = s.rd (DCQ_Q_W3_DISC n.val)
  busy : s.rd (DCQ_Q_W0_RUNST n.val) = 2 → u.rd (DCQ_Q_W0_RUNST n.val) = 2 ∧ u.rd (DCQ_Q_W0_EN n.val) = s.rd (DCQ_Q_W0_EN n.val)

/-- A write of a queue's enable leaves a queue in its shut-down there. -/
theorem funcWrite_queue_busy {u : State} {n : Fin 17} {v : Nat} (busy : u.rd (DCQ_Q_W0_RUNST n.val) = 2) (small : v < 2) :
    (u.funcWrite (.queue n) v).rd (DCQ_Q_W0_RUNST n.val) = 2 ∧ (u.funcWrite (.queue n) v).rd (DCQ_Q_W0_EN n.val) = v := by
  have ne : (DCQ_Q_W0_RUNST n.val).key ≠ (DCQ_Q_W0_EN n.val).key := by simp only [Field.key, DCQ_Q_W0_RUNST, DCQ_Q_W0_EN]; omega
  have run : (u.wr (enField (.queue n)) v).rd (runstField (.queue n)) = 2 := (rd_wr_ne u v ne).trans busy
  have eq : u.funcWrite (.queue n) v = u.wr (enField (.queue n)) v := by
    unfold State.funcWrite
    dsimp only
    rw [run]
    split <;> rfl
  rw [eq]
  exact ⟨run, (rd_wr_same _ _ _).trans (Nat.mod_eq_of_lt small)⟩

theorem queueKept_of_near {s t : State} {n : Fin 17} {f d : Nat} (h : Near [DCQ_Q_W0_CMDSEL n.val] ((s.wr (DCQ_Q_W0_FLUSH n.val) f).wr (DCQ_Q_W0_DROP n.val) d) t) :
    QueueKept n s (t.funcWrite (.queue n) (s.rd (DCQ_Q_W0_EN n.val))) := by
  obtain ⟨selEn, selRun, selFlush, selDrop, discEn, discRun, discFlush, discDrop, discSel, -⟩ := dcq_keys n
  obtain ⟨waits, dcq, reads⟩ := queue_fw t n (s.rd (DCQ_Q_W0_EN n.val))
  have parts : t.waiting = s.waiting ∧ t.dcq = s.dcq ∧ t.bh = s.bh := by rw [h.rest]; exact ⟨rfl, rfl, rfl⟩
  have fields : ∀ g : Field, g.key ≠ (DCQ_Q_W0_FLUSH n.val).key → g.key ≠ (DCQ_Q_W0_DROP n.val).key → g = DCQ_Q_W0_CMDSEL n.val ∨ g.key ≠ (DCQ_Q_W0_CMDSEL n.val).key → t.rd g = s.rd g := by
    intro g h1 h2 h3
    rw [h.rd g (h3.imp (fun e => List.mem_singleton.mpr e) (fun e f hf => by rw [List.mem_singleton.mp hf]; exact e)), rd_wr_ne _ _ h2, rd_wr_ne _ _ h1]
  refine ⟨waits.trans parts.1, dcq.trans parts.2.1, (only_part (funcWrite_queue_only (μ := 1048576) rfl (Only.refl t)) .bh rfl).trans parts.2.2,
    (reads _ selEn selRun).trans (fields _ selFlush selDrop (.inl rfl)), (reads _ discEn discRun).trans (fields _ discFlush discDrop (.inr discSel)), fun busy => ?_⟩
  have run : t.rd (DCQ_Q_W0_RUNST n.val) = 2 := by
    refine (fields _ ?_ ?_ (.inr ?_)).trans busy <;> simp only [Field.key, DCQ_Q_W0_RUNST, DCQ_Q_W0_FLUSH, DCQ_Q_W0_DROP, DCQ_Q_W0_CMDSEL] <;> omega
  exact funcWrite_queue_busy run (rd_lt s (DCQ_Q_W0_EN n.val))

/-- The command that the queue does not accept. -/
theorem dcqCommand_refused {u : State} {n : Nat} {flush drop writing : Bool} (h : (flush = true ∧ drop = false ∧ u.rd (DCQ_Q_W0_CMDSEL n) = 1) ∨ (flush = false ∧ drop = true ∧ u.rd (DCQ_Q_W0_CMDSEL n) = 0)) :
    u.dcqCommand n flush drop writing = u.wr DCQ_STATUS_CMDREJ 1 := by
  unfold State.dcqCommand
  rcases h with ⟨rfl, rfl, sel⟩ | ⟨rfl, rfl, sel⟩ <;> rw [sel] <;> rfl

theorem dcqCommand_flush {u : State} {n : Nat} {writing : Bool} (sel : u.rd (DCQ_Q_W0_CMDSEL n) = 0) : u.dcqCommand n true false writing = u.dcqFlush n := by
  unfold State.dcqCommand
  rw [sel]
  rfl

theorem dcqCommand_drop {u : State} {n : Nat} {writing : Bool} (sel : u.rd (DCQ_Q_W0_CMDSEL n) = 1) :
    u.dcqCommand n false true writing = if 15 ≤ n then u.fwdDrop n writing else u.dcqDrop n writing := by
  unfold State.dcqCommand
  rw [sel]
  rfl

theorem QueueKept.refused {n : Fin 17} {s u : State} (h : QueueKept n s u) :
    (u.wr DCQ_STATUS_CMDREJ 1).rd DCQ_STATUS_CMDREJ = 1 ∧ (u.wr DCQ_STATUS_CMDREJ 1).waiting = s.waiting ∧ (u.wr DCQ_STATUS_CMDREJ 1).dcq = s.dcq ∧ (u.wr DCQ_STATUS_CMDREJ 1).bh = s.bh ∧
    (u.wr DCQ_STATUS_CMDREJ 1).rd (DCQ_Q_W3_DISC n.val) = s.rd (DCQ_Q_W3_DISC n.val) := by
  obtain ⟨-, -, -, -, -, -, -, -, -, -, -, -, rej, -⟩ := dcq_keys n
  exact ⟨rd_wr_same _ _ _, h.waiting, h.dcq, h.bh, (rd_wr_ne _ _ rej).trans h.disc⟩

/-- Settles O58: each clause is the case of its effect. -/
theorem queueCommands : Obligations.QueueCommands := by
  unfold Obligations.QueueCommands
  refine ⟨fun s q bad hu => ⟨fun due => ?_, fun due => ⟨fun low none' => ?_, fun i w low at' own words first => ?_, fun high empty => ?_, fun x rest high frames => ⟨fun idle => ?_, fun words => ?_⟩⟩⟩,
    fun s l q writing serves => ?_⟩
  · exact congrArg Host.Outcome.next ((whenUp_up hu).trans (dcqRead_abort due))
  · refine congrArg Host.Outcome.next ((whenUp_up hu).trans ((dcqRead_packet due low).trans ?_))
    rw [firstPacket_none none']
  · have does : exec (.dcqWordRead q bad) s = .next (({ s with waiting := updNth (Waiting.read bad) s.waiting i } : State).wordTaken q.val bad) := by
      refine congrArg Host.Outcome.next ((whenUp_up hu).trans ((dcqRead_packet due low).trans ?_))
      rw [firstPacket_at at' own words first]
    obtain ⟨waits, -, perr⟩ := wordTaken_facts ({ s with waiting := updNth (Waiting.read bad) s.waiting i } : State) q bad
    obtain ⟨here, there⟩ := upd_at (Waiting.read bad) s.waiting i w at'
    refine ⟨_, does, fun k hk => ?_, perr, fun ok => ?_, fun err => ⟨w.read true, ?_, read_marks w⟩⟩
    · rw [waits]; exact there k hk
    · subst ok; rw [waits]; exact here
    · subst err; rw [waits]; exact here
  · exact congrArg Host.Outcome.next ((whenUp_up hu).trans ((dcqRead_forward due high).trans (fwdRead_empty empty)))
  · exact congrArg Host.Outcome.next ((whenUp_up hu).trans ((dcqRead_forward due high).trans ((fwdRead_frame frames).trans (if_pos idle))))
  · obtain ⟨waits, bh, perr⟩ := wordTaken_facts (s.setFwd q.val ({ x with unread := x.unread - 1, bad := x.bad || bad } :: rest)) q bad
    obtain ⟨waits', -, reads⟩ := setFwd_keeps s q.val ({ x with unread := x.unread - 1, bad := x.bad || bad } :: rest)
    refine ⟨_, congrArg Host.Outcome.next ((whenUp_up hu).trans ((dcqRead_forward due high).trans ((fwdRead_frame frames).trans (if_neg words)))), ?_, waits.trans waits', perr.trans (by rw [reads])⟩
    exact (fwdOf_congr bh _).trans (fwdOf_setFwd _ _ _)
  · obtain ⟨t, near, flush⟩ := flush_serves q writing serves
    have kept := queueKept_of_near near
    obtain ⟨t', near', drop⟩ := drop_serves q writing serves
    have kept' := queueKept_of_near near'
    clear near near'
    generalize t.funcWrite (.queue q) (s.rd (DCQ_Q_W0_EN q.val)) = u at *
    generalize t'.funcWrite (.queue q) (s.rd (DCQ_Q_W0_EN q.val)) = u' at *
    have used : u.dcqUsed q.val = s.dcqUsed q.val := dcqUsed_congr kept.waiting kept.bh q.val
    refine ⟨fun sel => ⟨fun low => ?_, fun high none' => ?_, ?_⟩, fun sel => ⟨?_, fun no => ?_, fun yes low i w at' own words last => ?_, fun yes high x last words => ?_⟩⟩
    · obtain ⟨waits, empty, disc, abort, busy⟩ := dcqFlush_low u q low
      rw [kept.waiting] at waits abort
      rw [kept.disc, used] at disc
      refine ⟨_, flush.trans (congrArg _ (dcqCommand_flush (kept.sel.trans sel))), waits, empty, disc, abort, fun h => ?_⟩
      rw [busy (kept.busy h).1, (kept.busy h).2]
    · obtain ⟨waits, frames, empty, disc, busy⟩ := dcqFlush_high u q high (by rw [kept.waiting]; exact none')
      rw [kept.waiting] at waits
      rw [fwdOf_congr kept.bh] at frames
      rw [kept.disc, used] at disc
      refine ⟨_, flush.trans (congrArg _ (dcqCommand_flush (kept.sel.trans sel))), waits, frames, empty, disc, fun h => ?_⟩
      rw [busy (kept.busy h).1, (kept.busy h).2]
    · exact ⟨_, drop.trans (congrArg _ (dcqCommand_refused (.inr ⟨rfl, rfl, kept'.sel.trans sel⟩))), kept'.refused⟩
    all_goals
      have one : s.rd (DCQ_Q_W0_CMDSEL q.val) = 1 := by
        have := rd_lt s (DCQ_Q_W0_CMDSEL q.val)
        change _ < 2 at this
        omega
    · exact ⟨_, flush.trans (congrArg _ (dcqCommand_refused (.inl ⟨rfl, rfl, kept.sel.trans one⟩))), kept.refused⟩
    · refine ⟨_, drop.trans (congrArg _ ((dcqCommand_drop (kept'.sel.trans one)).trans ?_)), kept'.waiting, kept'.dcq, kept'.bh, kept'.disc⟩
      rw [no, fwdDrop_idle, dcqDrop_idle, ite_self]
    · subst yes
      rw [← kept'.waiting] at at' last
      have facts := dcqDrop_facts (n := q) (newestPacket_at at' own words last) at'
      rw [kept'.waiting, kept'.disc] at facts
      exact ⟨_, drop.trans (congrArg _ ((dcqCommand_drop (kept'.sel.trans one)).trans (if_neg (by omega)))), facts⟩
    · subst yes
      rw [← fwdOf_congr kept'.bh] at last
      have facts := fwdDrop_facts (n := q) last words
      rw [fwdOf_congr kept'.bh, kept'.waiting, kept'.disc] at facts
      exact ⟨_, drop.trans (congrArg _ ((dcqCommand_drop (kept'.sel.trans one)).trans (if_pos high))), facts⟩

end Sys2Proof.Machine

/-!
PROOFS. Staging in the attached configuration memory (R345, R358, R359, R368).
-/
namespace Sys2Proof.Machine
set_option Elab.async false

/-! ### Places that are refused (R358) -/

theorem acmRefused_eq (s : State) (a : Nat) : s.acmRefused a = (s.rldBusy || slotOf a == some (2 + s.rd RLD_STATE_CFGCUR) ||
    (s.upState != upIdle && s.rd RLD_STATE_FBSLOT != 3 && slotOf a == some (s.rd RLD_STATE_FBSLOT)) ||
    (s.upState != upIdle && s.rd RLD_STATE_CFGFB != 3 && slotOf a == some (2 + s.rd RLD_STATE_CFGFB)) ||
    (a < 0x2000 && s.lcState == lcDeployed) || decide ((s.rld.header.map (·.acmSize)).getD s.acmSize ≤ a)) := by
  unfold State.acmRefused
  cases s.rld.header <;> rfl

theorem acmRefused_iff (s : State) (a : Nat) : s.acmRefused a = true ↔
    s.rldBusy = true ∨ slotOf a = some (2 + s.rd RLD_STATE_CFGCUR) ∨ (s.rd RLD_STATE_STATE ≠ 0 ∧ s.rd RLD_STATE_FBSLOT ≠ 3 ∧ slotOf a = some (s.rd RLD_STATE_FBSLOT)) ∨
    (s.rd RLD_STATE_STATE ≠ 0 ∧ s.rd RLD_STATE_CFGFB ≠ 3 ∧ slotOf a = some (2 + s.rd RLD_STATE_CFGFB)) ∨ (a < 0x2000 ∧ s.lcState = lcDeployed) ∨ (s.rld.header.map (·.acmSize)).getD s.acmSize ≤ a := by
  rw [acmRefused_eq]
  simp only [Bool.or_eq_true, Bool.and_eq_true, beq_iff_eq, bne_iff_ne, decide_eq_true_eq, State.upState, or_assoc, and_assoc, ne_eq]

/-! ### Orders (R358, R359) -/

theorem rldStore_refused {s : State} {erase : Bool} (h : s.acmRefused (if erase then s.rd RLD_ADDR_ADDR / 4096 * 4096 else s.rd RLD_ADDR_ADDR / 256 * 256) = true) :
    s.rldStore erase = s.wr RLD_STATUS_CMDREJ 1 := if_pos h

theorem rldStore_starts {s : State} {erase : Bool} (h : s.acmRefused (if erase then s.rd RLD_ADDR_ADDR / 4096 * 4096 else s.rd RLD_ADDR_ADDR / 256 * 256) = false) :
    s.rldStore erase = { s with rld := { s.rld with op := some ⟨erase, if erase then s.rd RLD_ADDR_ADDR / 4096 * 4096 else s.rd RLD_ADDR_ADDR / 256 * 256, le 256 (s.rd RLD_PAGE_DATA)⟩ } } :=
  if_neg (by rw [h]; decide)

/-- The registers that a VERIFY leaves (R359). -/
def State.verifyMarked (u : State) (n : Nat) (c : Octets) (ok : Bool) : State :=
  (if ok then ((u.wr (RLD_SLOT_VERIFIED n) 1).wr (RLD_SLOTVER_VERSION n) (containerVersion c)).raise RLD_STATUS_VERIFIED else u.raise RLD_STATUS_VERIFYFAIL).raise RLD_STATUS_CMDDONE

theorem rldVerify_busy {s : State} {n : Nat} (h : s.rldBusy = true) : s.rldVerify n = s.wr RLD_STATUS_CMDREJ 1 := if_pos h

theorem rldVerify_runs {s : State} {n : Nat} (h : s.rldBusy = false) : s.rldVerify n =
    ((s.acceptable (s.slotContainer n) ctxRld).1.verifyMarked n (s.slotContainer n) (s.acceptable (s.slotContainer n) ctxRld).2).rldEvent 0x01
      ([octet n, octet (b2n (!(s.acceptable (s.slotContainer n) ctxRld).2)), octet 0, octet 0] ++ le 4 (containerVersion (s.slotContainer n))) := if_neg (by rw [h]; decide)

theorem verifyMarked_good (u : State) (n : Nat) (c : Octets) : (u.verifyMarked n c true).rd (RLD_SLOT_VERIFIED n) = 1 ∧ (u.verifyMarked n c true).rd (RLD_SLOTVER_VERSION n) = containerVersion c % 2 ^ 32 ∧
    (u.verifyMarked n c true).rd RLD_STATUS_VERIFIED = 1 ∧ (u.verifyMarked n c true).rd RLD_STATUS_CMDDONE = 1 := by
  obtain ⟨slotVer, slotOk, verOk, slotDone, verDone, -⟩ := slotN n n
  unfold State.verifyMarked
  rw [if_pos rfl, raise_def, raise_def]
  refine ⟨?_, ?_, ?_, rd_wr_same _ _ _⟩
  · rw [rd_wr_ne _ _ slotDone, rd_wr_ne _ _ slotOk, rd_wr_ne _ _ slotVer, rd_wr_same]; rfl
  · rw [rd_wr_ne _ _ verDone, rd_wr_ne _ _ verOk, rd_wr_same]; rfl
  · rw [rd_wr_ne _ _ (by decide), rd_wr_same]; rfl

theorem verifyMarked_bad (u : State) (n : Nat) (c : Octets) : (u.verifyMarked n c false).rd (RLD_SLOT_VERIFIED n) = u.rd (RLD_SLOT_VERIFIED n) ∧ (u.verifyMarked n c false).rd RLD_STATUS_VERIFYFAIL = 1 ∧
    (u.verifyMarked n c false).rd RLD_STATUS_CMDDONE = 1 := by
  obtain ⟨slotDone, -⟩ := slot_ne n
  have slotFail : (RLD_SLOT_VERIFIED n).key ≠ RLD_STATUS_VERIFYFAIL.key := by simp only [Field.key, RLD_SLOT_VERIFIED, RLD_STATUS_VERIFYFAIL]; omega
  unfold State.verifyMarked
  rw [if_neg Bool.false_ne_true, raise_def, raise_def]
  refine ⟨?_, ?_, rd_wr_same _ _ _⟩
  · rw [rd_wr_ne _ _ slotDone, rd_wr_ne _ _ slotFail]
  · rw [rd_wr_ne _ _ (by decide), rd_wr_same]; rfl

theorem rldEvent_rd (s : State) (k : Nat) (p : Octets) (f : Field) : (s.rldEvent k p).rd f = s.rd f := rd_regs (rldEvent_facts s k p).1 f

/-- A VERIFY that ends leaves the event's own surroundings: the Sequencer's registers, the Time Base and the held events. -/
theorem verifyMarked_keeps (u : State) (n : Nat) (c : Octets) (ok : Bool) : (u.verifyMarked n c ok).held = u.held ∧ (u.verifyMarked n c ok).tb = u.tb ∧ ∀ f ∈ [CRZ_CTRL_EN, CRZ_SEG_SEG], (u.verifyMarked n c ok).rd f = u.rd f := by
  unfold State.verifyMarked
  cases ok with
  | true =>
    refine ⟨rfl, rfl, fun f hf => ?_⟩
    simp only [List.mem_cons, List.not_mem_nil, or_false] at hf
    rw [if_pos rfl, raise_def, raise_def]
    rcases hf with rfl | rfl
    all_goals
      rw [rd_wr_ne _ _ (by decide), rd_wr_ne _ _ (by decide), rd_wr_ne, rd_wr_ne]
      · simp only [Field.key, RLD_SLOT_VERIFIED, CRZ_CTRL_EN, CRZ_SEG_SEG]; omega
      · simp only [Field.key, RLD_SLOTVER_VERSION, CRZ_CTRL_EN, CRZ_SEG_SEG]; omega
  | false =>
    refine ⟨rfl, rfl, fun f hf => ?_⟩
    simp only [List.mem_cons, List.not_mem_nil, or_false] at hf
    rw [if_neg Bool.false_ne_true, raise_def, raise_def]
    rcases hf with rfl | rfl <;> rw [rd_wr_ne _ _ (by decide), rd_wr_ne _ _ (by decide)]

theorem acceptable_keeps (s : State) (c : Octets) (x : Nat) : (s.acceptable c x).1.held = s.held ∧ (s.acceptable c x).1.tb = s.tb := by
  rcases acceptable_facts s c x with e | e <;> rw [e]
  · exact ⟨rfl, rfl⟩
  · have only : Only 65536 s s.deny := deny_only rfl (Only.refl s)
    exact ⟨only_part only .held rfl, only_part only .tb rfl⟩

/-- The event of a VERIFY waits while the Sequencer is stopped (R367). -/
theorem rldEvent_held {s u : State} {k : Nat} {p : Octets} (off : s.crzOn = false) (held : u.held = s.held) (clock : u.tb = s.tb) (reads : ∀ f ∈ [CRZ_CTRL_EN, CRZ_SEG_SEG], u.rd f = s.rd f) :
    (u.rldEvent k p).held = s.held ++ [s.event 67 0 k p s.tb.now] := by
  have on' : u.crzOn = s.crzOn := by unfold State.crzOn State.on; rw [reads _ (by simp)]
  unfold State.rldEvent State.postOrHold
  rw [if_neg (by rw [on', off]; decide)]
  dsimp only
  unfold State.event State.seg
  rw [held, clock, reads _ (by simp)]

/-! ### The end of an operation on the ACM -/

theorem acmDone_idle {s : State} {fail : Bool} (h : s.rld.op = none) : s.acmDone fail = s := by
  unfold State.acmDone
  rw [h]

/-- The loader that has ended its operation, the operation's slot not VERIFIED. -/
def State.acmEnded (s : State) (o : AcmOp) : State := ({ s with rld := { s.rld with op := none } } : State).unverify o.addr

theorem acmDone_good {s : State} {o : AcmOp} (h : s.rld.op = some o) : s.acmDone false =
    (if o.erase then (s.acmEnded o).acmErase o.addr (if o.erase then 4096 else 256) else (s.acmEnded o).acmWrite o.addr o.page).raise RLD_STATUS_CMDDONE := by
  unfold State.acmDone
  rw [h]
  rfl

theorem acmDone_failed {s : State} {o : AcmOp} (h : s.rld.op = some o) : s.acmDone true =
    (((s.acmEnded o).acmWrite o.addr ((s.acmEnded o).freeOctets (if o.erase then 4096 else 256))).freeTick).raise RLD_STATUS_PGMERR := by
  unfold State.acmDone
  rw [h]
  rfl

theorem acmEnded_facts (s : State) (o : AcmOp) : (s.acmEnded o).rld.op = none ∧ (s.acmEnded o).acm = s.acm ∧ (s.acmEnded o).rd RLD_STATUS_CMDDONE = s.rd RLD_STATUS_CMDDONE ∧
    ∀ n, slotOf o.addr = some n → (s.acmEnded o).rd (RLD_SLOT_VERIFIED n) = 0 := by
  obtain ⟨acm, rld⟩ := unverify_acm ({ s with rld := { s.rld with op := none } } : State) o.addr
  refine ⟨congrArg LoaderState.op rld, acm, ?_, fun n h => ?_⟩
  · unfold State.acmEnded State.unverify
    split
    · rename_i n _
      exact rd_wr_ne _ _ (fun e => (slot_ne n).1 e.symm)
    · rfl
  · unfold State.acmEnded State.unverify
    rw [h]
    exact (rd_wr_same _ _ _).trans (Nat.zero_mod _)

/-- What the operation leaves in the memory, with a write or an erase as its array of cells. -/
theorem acmRead_one {s t : State} {a : Nat} (h : memGet t.acm a = memGet s.acm a) : t.acmRead a 1 = s.acmRead a 1 := by
  unfold State.acmRead memRead memRead
  rw [h]

theorem acmWrite_read (s : State) (a : Nat) (bs : Octets) : (s.acmWrite a bs).acmRead a bs.length = bs := by
  unfold State.acmWrite State.acmRead
  dsimp only
  have := memRead_memWrite s.acm a (bs.map (~~~ ·))
  rw [List.length_map] at this
  rw [this, map_not_not]

theorem acmWrite_outside (s : State) {a k : Nat} {bs : Octets} (h : k < a ∨ a + bs.length ≤ k) : (s.acmWrite a bs).acmRead k 1 = s.acmRead k 1 :=
  acmRead_one (memGet_memWrite_outside _ _ _ _ (by rw [List.length_map]; exact h))

theorem memRead_zero (m : List Host.Cell) (n : Nat) : ∀ a : Nat, (∀ k, a ≤ k → k < a + n → memGet m k = octet 0) → memRead m a n = List.replicate n (octet 0) := by
  induction n with
  | zero => exact fun _ _ => rfl
  | succ n ih =>
    intro a h
    rw [memRead, List.replicate_succ, h a (Nat.le_refl a) (by omega), ih (a + 1) (fun k h1 h2 => h k (by omega) (by omega))]

/-- Whether an erase of `n` octets at `a` keeps an offset. -/
def keptBy (a n : Nat) (k : Nat) : Bool := decide (k < a) || decide (a + n ≤ k)

theorem acmErase_acm (s : State) (a n : Nat) : (s.acmErase a n).acm = s.acm.filter (fun c => keptBy a n c.1) := rfl

theorem acmErase_get (s : State) (a n k : Nat) : memGet (s.acmErase a n).acm k = if keptBy a n k then memGet s.acm k else octet 0 := by
  rw [acmErase_acm]
  unfold memGet
  cases h : keptBy a n k with
  | true => rw [kvFind_in _ _ _ h, if_pos rfl]
  | false => rw [kvFind_out _ _ _ h, if_neg Bool.false_ne_true]; rfl

theorem acmErase_read (s : State) (a n : Nat) : (s.acmErase a n).acmRead a n = List.replicate n (octet 255) := by
  have zero : memRead (s.acmErase a n).acm a n = List.replicate n (octet 0) := by
    refine memRead_zero _ _ _ (fun k h1 h2 => ?_)
    have out : keptBy a n k = false := by
      unfold keptBy
      rw [Bool.or_eq_false_iff]
      exact ⟨decide_eq_false (by omega), decide_eq_false (by omega)⟩
    rw [acmErase_get, out, if_neg Bool.false_ne_true]
  unfold State.acmRead
  rw [zero, List.map_replicate]
  rfl

theorem acmErase_outside (s : State) {a n k : Nat} (h : k < a ∨ a + n ≤ k) : (s.acmErase a n).acmRead k 1 = s.acmRead k 1 := by
  refine acmRead_one ?_
  have kept : keptBy a n k = true := by
    unfold keptBy
    rw [Bool.or_eq_true, decide_eq_true_eq, decide_eq_true_eq]
    exact h
  rw [acmErase_get, kept, if_pos rfl]

theorem freeOctets_length (s : State) (n : Nat) : (s.freeOctets n).length = n := by
  unfold State.freeOctets
  rw [List.length_map, List.length_range]

/-- The page or the sector as a completed operation leaves it. -/
theorem acmDone_memory {s u : State} {o : AcmOp} (page : o.page.length = 256) (memory : u.acm = s.acm) :
    (o.erase = false → (u.acmWrite o.addr o.page).acmRead o.addr 256 = o.page ∧ ∀ a, a < o.addr ∨ o.addr + 4096 ≤ a → (u.acmWrite o.addr o.page).acmRead a 1 = s.acmRead a 1) ∧
    ((u.acmErase o.addr 4096).acmRead o.addr 4096 = List.replicate 4096 (octet 255) ∧ ∀ a, a < o.addr ∨ o.addr + 4096 ≤ a → (u.acmErase o.addr 4096).acmRead a 1 = s.acmRead a 1) := by
  have same : ∀ a, u.acmRead a 1 = s.acmRead a 1 := fun a => acmRead_one (by rw [memory])
  refine ⟨fun _ => ⟨?_, fun a ha => (acmWrite_outside u (by omega)).trans (same a)⟩, acmErase_read u o.addr 4096, fun a ha => (acmErase_outside u ha).trans (same a)⟩
  have := acmWrite_read u o.addr o.page
  rw [page] at this
  exact this

/-- The end of an operation that the memory reports good. -/
theorem acmDone_good_facts {s : State} {o : AcmOp} (op : s.rld.op = some o) (page : o.page.length = 256) :
    (s.acmDone false).rld.op = none ∧ (s.acmDone false).rd RLD_STATUS_CMDDONE = 1 ∧ (o.erase = false → (s.acmDone false).acmRead o.addr 256 = o.page) ∧
    (o.erase = true → (s.acmDone false).acmRead o.addr 4096 = List.replicate 4096 (octet 255)) ∧ (∀ a : Nat, a < o.addr ∨ o.addr + 4096 ≤ a → (s.acmDone false).acmRead a 1 = s.acmRead a 1) ∧
    (∀ n : Nat, slotOf o.addr = some n → (s.acmDone false).rd (RLD_SLOT_VERIFIED n) = 0) := by
  obtain ⟨opEnded, memory, -, slot⟩ := acmEnded_facts s o
  rw [acmDone_good op]
  generalize s.acmEnded o = u at *
  obtain ⟨write, erased, outside⟩ := acmDone_memory (s := s) page memory
  have slots : ∀ v : State, (∀ f, v.rd f = u.rd f) → ∀ n, slotOf o.addr = some n → (v.raise RLD_STATUS_CMDDONE).rd (RLD_SLOT_VERIFIED n) = 0 := by
    intro v reads n h
    rw [raise_def, rd_wr_ne _ _ (slot_ne n).1, reads, slot n h]
  by_cases er : o.erase = true
  · rw [if_pos er, if_pos er]
    exact ⟨opEnded, rd_wr_same _ _ _, fun h => absurd (er.symm.trans h) (by decide), fun _ => erased, outside, slots _ (fun _ => rfl)⟩
  · rw [if_neg er]
    have no : o.erase = false := Bool.eq_false_iff.mpr er
    exact ⟨opEnded, rd_wr_same _ _ _, fun _ => (write no).1, fun h => absurd h er, (write no).2, slots _ (fun _ => rfl)⟩

/-- The end of an operation that the memory reports failed. -/
theorem acmDone_failed_facts {s : State} {o : AcmOp} (op : s.rld.op = some o) :
    (s.acmDone true).rld.op = none ∧ (s.acmDone true).rd RLD_STATUS_PGMERR = 1 ∧ (s.acmDone true).rd RLD_STATUS_CMDDONE = s.rd RLD_STATUS_CMDDONE ∧
    (∀ n : Nat, slotOf o.addr = some n → (s.acmDone true).rd (RLD_SLOT_VERIFIED n) = 0) := by
  obtain ⟨opEnded, -, done, slot⟩ := acmEnded_facts s o
  rw [acmDone_failed op]
  generalize s.acmEnded o = u at *
  refine ⟨opEnded, rd_wr_same _ _ _, (rd_wr_ne _ _ (by decide)).trans done, fun n h => (rd_wr_ne _ _ (slot_ne n).2).trans (slot n h)⟩

/-! ### The obligation -/

theorem rldCommand_wrong {s : State} {key : BitVec 16} {run : State → State} (h : key ≠ 0x7D1E#16) : s.rldCommand key.toNat false run = s.wr RLD_STATUS_CMDREJ 1 :=
  (rldCmd_run s key run).2 h

theorem rldCommand_runs (s : State) (run : State → State) : s.rldCommand (0x7D1E#16).toNat false run = run s := (rldCmd_run s _ run).1 rfl

/-- Settles O55: each clause is the case of its effect. -/
theorem staging : Obligations.Staging := by
  unfold Obligations.Staging
  refine ⟨acmRefused_iff, fun s l serves => ⟨fun key n kind c f wrong i hi => ?_, fun h => ?_, fun h => ?_, fun h => ?_, fun h => ?_, fun n => ⟨fun busy => ?_, fun free good => ?_, fun free bad => ?_, fun free off => ?_⟩⟩,
    fun s fail hu idle => ?_, fun s o hu op wf page => ⟨?_, ?_⟩⟩
  · simp only [List.mem_cons, List.not_mem_nil, or_false] at hi
    rcases hi with rfl | rfl | rfl | rfl | rfl
    · exact (program_does key serves).trans (congrArg _ (rldCommand_wrong wrong))
    · exact (erase_does key serves).trans (congrArg _ (rldCommand_wrong wrong))
    · exact (verify_does key n serves).trans (congrArg _ (rldCommand_wrong wrong))
    · exact (schedule_does key kind c f serves).trans (congrArg _ (rldCommand_wrong wrong))
    · exact (cancel_does key serves).trans (congrArg _ (rldCommand_wrong wrong))
  · exact (program_does _ serves).trans (congrArg _ ((rldCommand_runs s _).trans (rldStore_refused (erase := false) h)))
  · exact (program_does _ serves).trans (congrArg _ ((rldCommand_runs s _).trans (rldStore_starts (erase := false) h)))
  · exact (erase_does _ serves).trans (congrArg _ ((rldCommand_runs s _).trans (rldStore_refused (erase := true) h)))
  · exact (erase_does _ serves).trans (congrArg _ ((rldCommand_runs s _).trans (rldStore_starts (erase := true) h)))
  · exact (verify_does _ n serves).trans (congrArg _ ((rldCommand_runs s _).trans (rldVerify_busy busy)))
  · have does := (verify_does _ n serves).trans (congrArg Host.Outcome.next ((rldCommand_runs s _).trans (rldVerify_runs free)))
    rw [good] at does
    refine ⟨_, does, ?_⟩
    simp only [rldEvent_rd]
    exact verifyMarked_good _ _ _
  · have does := (verify_does _ n serves).trans (congrArg Host.Outcome.next ((rldCommand_runs s _).trans (rldVerify_runs free)))
    rw [bad] at does
    refine ⟨_, does, ?_⟩
    simp only [rldEvent_rd]
    obtain ⟨slot, fail, done⟩ := verifyMarked_bad (s.acceptable (s.slotContainer n.toNat) ctxRld).1 n.toNat (s.slotContainer n.toNat)
    have block : (RLD_SLOT_VERIFIED n.toNat).block = 18 := by simp only [Field.block, Field.key, RLD_SLOT_VERIFIED]; omega
    exact ⟨slot.trans (acc_rd s _ _ _ (by rw [block]; decide) (by rw [block]; decide)), fail, done⟩
  · refine ⟨_, (verify_does _ n serves).trans (congrArg Host.Outcome.next ((rldCommand_runs s _).trans (rldVerify_runs free))), ?_⟩
    obtain ⟨held, clock⟩ := acceptable_keeps s (s.slotContainer n.toNat) ctxRld
    obtain ⟨held', clock', reads⟩ := verifyMarked_keeps (s.acceptable (s.slotContainer n.toNat) ctxRld).1 n.toNat (s.slotContainer n.toNat) (s.acceptable (s.slotContainer n.toNat) ctxRld).2
    refine rldEvent_held off (held'.trans held) (clock'.trans clock) (fun f hf => (reads f hf).trans ?_)
    simp only [List.mem_cons, List.not_mem_nil, or_false] at hf
    rcases hf with rfl | rfl <;> exact acc_rd s _ _ _ (by decide) (by decide)
  · exact congrArg Host.Outcome.next ((whenUp_up hu).trans (acmDone_idle idle))
  · exact ⟨_, congrArg Host.Outcome.next (whenUp_up hu), acmDone_good_facts op page⟩
  · exact ⟨_, congrArg Host.Outcome.next (whenUp_up hu), acmDone_failed_facts op⟩

end Sys2Proof.Machine

/-!
PROOFS. The scheduled update (R361 to R366).
-/
namespace Sys2Proof.Machine
set_option Elab.async false

/-! ### The change of STATE and its record (R360, R361) -/

section
variable (s : State) {n : Nat}

theorem upTo_state (hn : n < 8) : (s.upTo n).rd RLD_STATE_STATE = n ∧ (s.upTo n).rd RLD_STATUS_STCHG = 1 :=
  ⟨(upTo_facts s n hn).1, (upTo_facts s n hn).2.1⟩

theorem upTo_rd (hn : n < 8) {f : Field}
    (h : f.key ≠ RLD_STATE_STATE.key ∧ f.key ≠ RLD_STATUS_STCHG.key ∧ f.key ≠ PST_WORDS_COUNT.key ∧ f.key ≠ PST_STATUS_CNTWRAP.key) : (s.upTo n).rd f = s.rd f := by
  obtain ⟨-, -, reads, -⟩ := upTo_facts s n hn
  exact reads f h.1 h.2.1 h.2.2.1 h.2.2.2

theorem upTo_rld (hn : n < 8) : (s.upTo n).rld.step = s.rld.step ∧ (s.upTo n).rld.tact = s.rld.tact := by
  obtain ⟨-, -, -, step, -, tact, -⟩ := upTo_facts s n hn
  exact ⟨step, tact⟩

theorem upTo_newCfg : (s.upTo n).rld.newCfg = s.rld.newCfg := by
  unfold State.upTo
  rw [(rldEvent_facts _ _ _).2.1]
  exact (record_facts (s.wr RLD_STATE_STATE n)).2.2.2.1

theorem upTo_acm (hn : n < 8) : (s.upTo n).acm = s.acm := by
  obtain ⟨-, -, -, -, -, -, acm, -⟩ := upTo_facts s n hn
  exact acm

theorem upTo_lane (hn : n < 8) (l : Lane) : (s.upTo n).lane l = s.lane l := by
  obtain ⟨-, -, -, -, -, -, -, laneA, laneB, -⟩ := upTo_facts s n hn
  cases l
  · exact laneA
  · exact laneB

theorem upTo_role (hn : n < 8) (l : Lane) : (s.upTo n).role l = s.role l :=
  role_keep l (upTo_lane s hn l) (upTo_rd s hn (by cases l <;> decide))

/-- What a reset asks of the state stays through a change of STATE. -/
theorem upTo_quiet : (s.upTo n).ksu = s.ksu ∧ (s.upTo n).sys = s.sys :=
  have only : Only 2674132571660288 s (s.upTo n) := upTo_only rfl (Only.refl s)
  ⟨only_part only .ksu rfl, only_part only .sys rfl⟩

end

theorem writeRecord_rd (s : State) {f : Field} (words : f.key ≠ PST_WORDS_COUNT.key) (wrap : f.key ≠ PST_STATUS_CNTWRAP.key) : s.writeRecord.rd f = s.rd f := by
  obtain ⟨-, -, -, -, -, -, -, reads⟩ := record_facts s
  exact reads f words wrap

theorem setStep_step (s : State) (x : UpdateStep) : (s.setStep x).rld.step = x := rfl

theorem setStep_rd (s : State) (x : UpdateStep) (f : Field) : (s.setStep x).rd f = s.rd f := rfl

/-! ### Words of the store that the record leaves -/

theorem pstWords_mine {w : Writer} {a : Nat} {s : State} (ws : List (Nat × Nat)) (h : PstMine w a s) :
    PstMine w a (s.pstWords w ws) ∧ memGet (s.pstWords w ws).pstImage a = memGet (ws.foldl (fun m x => memWrite m x.1 (le 4 (x.2 % 4294967296))) s.pstImage) a := by
  obtain ⟨mine, image⟩ := puts_mine ws h
  obtain ⟨mine', image'⟩ := until_mine (w := w) (v := w) (8 * (ws.foldl (fun s x => State.pstPut s w x.1 x.2) s).pst.buffer.length) mine
  exact ⟨mine', image'.trans image⟩

theorem words_outside {a : Nat} : ∀ (ws : List (Nat × Nat)) (m : List Host.Cell), (∀ x ∈ ws, a < x.1 ∨ x.1 + 4 ≤ a) → memGet (ws.foldl (fun m x => memWrite m x.1 (le 4 (x.2 % 4294967296))) m) a = memGet m a := by
  intro ws
  induction ws with
  | nil => exact fun _ _ => rfl
  | cons x ws ih =>
    intro m h
    rw [List.foldl_cons, ih _ (fun y hy => h y (List.mem_cons_of_mem x hy))]
    exact memGet_memWrite_outside m x.1 a _ (by rw [le_length]; exact h x List.mem_cons_self)

/-- Words of one writer elsewhere leave an octet of its own. -/
theorem pstWords_leave {w : Writer} {a : Nat} {s : State} {ws : List (Nat × Nat)} (h : PstMine w a s) (out : ∀ x ∈ ws, a < x.1 ∨ x.1 + 4 ≤ a) :
    PstMine w a (s.pstWords w ws) ∧ memGet (s.pstWords w ws).pstImage a = memGet s.pstImage a := by
  obtain ⟨mine, image⟩ := pstWords_mine ws h
  exact ⟨mine, image.trans (words_outside ws _ out)⟩

theorem updateRecord_length (s : State) (q : Nat) : (s.updateRecord q).length = 64 := by
  simp [State.updateRecord, le_length, zeros]

/-- The words of a record of 64 octets stand in its 64 octets. -/
theorem frameWrites_inside {o : Nat} {seq : Bool} {r : Octets} (len : r.length = 64) {x : Nat × Nat} (h : x ∈ frameWrites o seq r) : o ≤ x.1 ∧ x.1 + 4 ≤ o + 64 := by
  rw [frameWrites_eq, List.mem_cons] at h
  rcases h with rfl | h
  · dsimp only
    omega
  · obtain ⟨j, hj, rfl⟩ := frameRest_words (by rw [len]) x h
    rw [frameRecord_length (by rw [len]), len] at hj
    dsimp only
    omega

theorem recordAt_le (q : Nat) : recordAt q ≤ 0x100 := by
  unfold recordAt
  omega

/-- The record's words leave every octet behind its two copies. -/
theorem upTo_leaves {a n : Nat} {s : State} (h : PstMine .rld a s) (behind : 0x1000 ≤ a) : memGet (s.upTo n).pstImage a = memGet s.pstImage a := by
  have image : (s.upTo n).pstImage = (s.wr RLD_STATE_STATE n).writeRecord.pstImage := by
    have pst : (s.upTo n).pst = (s.wr RLD_STATE_STATE n).writeRecord.pst := by
      unfold State.upTo
      exact (rldEvent_facts _ _ _).2.2.2.1
    unfold State.pstImage
    rw [pst]
  rw [image]
  refine (pstWords_leave (w := .rld) (s := { s.wr RLD_STATE_STATE n with rld := { s.rld with seq := (s.rld.seq + 1) % 4294967296 } }) h (fun x hx => ?_)).2
  have inside := frameWrites_inside (updateRecord_length _ _) hx
  have low := Nat.le_trans inside.2 (Nat.add_le_add_right (recordAt_le _) 64)
  exact .inr (Nat.le_trans low (by omega))

theorem pstOctets_of_image {s t : State} {o n : Nat} (h : ∀ a, o ≤ a → a < o + n → memGet t.pstImage a = memGet s.pstImage a) : t.pstOctets o n = s.pstOctets o n :=
  memRead_congr _ _ _ _ h

theorem wr_pstOctets (s : State) (f : Field) (v o n : Nat) : (s.wr f v).pstOctets o n = s.pstOctets o n := rfl

theorem wr_mine {s : State} {w : Writer} {a : Nat} (f : Field) (v : Nat) (h : PstMine w a s) : PstMine w a (s.wr f v) := h

/-! ### The code store (R352, R363) -/

theorem padTo_eq {n : Nat} {c : Octets} (h : c.length ≤ n) : padTo n c = c ++ zeros (n - c.length) := by
  unfold padTo
  rw [List.take_of_length_le h]

theorem zeros_length (n : Nat) : (zeros n).length = n := List.length_replicate

/-- The first octets of what a span of words holds. -/
theorem memRead_front (m : List Host.Cell) (o : Nat) (c z : Octets) : memRead (memWrite m o (c ++ z)) o c.length = c := by
  rw [memWrite_append]
  refine (memRead_congr _ _ _ _ (fun k h1 h2 => ?_)).trans (memRead_memWrite m o c)
  exact memGet_memWrite_outside _ _ _ _ (.inl h2)

/-- A container written word by word where no other writer's words wait reads back, and its octets stay the loader's own. -/
theorem padded_words {s : State} {o n : Nat} {c : Octets} (room : c.length ≤ 4 * n) (alone : s.pstAlone .rld o c.length) :
    (∀ a, o ≤ a → a < o + c.length → PstMine .rld a (s.pstWords .rld (recordWords n o (padTo (4 * n) c)))) ∧
    (s.pstWords .rld (recordWords n o (padTo (4 * n) c))).pstOctets o c.length = c := by
  have len : (padTo (4 * n) c).length = 4 * n := by rw [padTo_eq room, List.length_append, zeros_length]; omega
  have words : WordsOf (padTo (4 * n) c) o (recordWords n o (padTo (4 * n) c)) := by
    intro x hx
    obtain ⟨j, hj, rfl⟩ := mem_recordWords.mp hx
    exact ⟨4 * j, by omega, rfl⟩
  have each : ∀ a, o ≤ a → a < o + c.length → PstMine .rld a (s.pstWords .rld (recordWords n o (padTo (4 * n) c))) ∧
      memGet (s.pstWords .rld (recordWords n o (padTo (4 * n) c))).pstImage a = memGet (memWrite [] o (padTo (4 * n) c)) a := by
    intro a h1 h2
    obtain ⟨mine, image⟩ := pstWords_mine (recordWords n o (padTo (4 * n) c)) (mine_of_alone ⟨Writer.noConfusion, Writer.noConfusion⟩ alone a h1 h2)
    refine ⟨mine, image.trans (words_written [] a _ _ words (.inr ⟨_, mem_recordWords.mpr ⟨(a - o) / 4, by omega, rfl⟩, ?_, ?_⟩))⟩
    · dsimp only
      omega
    · dsimp only
      omega
  refine ⟨fun a h1 h2 => (each a h1 h2).1, (memRead_congr _ (memWrite [] o (padTo (4 * n) c)) _ _ (fun a h1 h2 => (each a h1 h2).2)).trans ?_⟩
  rw [padTo_eq room]
  exact memRead_front _ _ _ _

theorem writeCodeStore_stands {s : State} {c : Octets} (alone : s.pstAlone .rld 0x10000 c.length) :
    (∀ a, 0x10000 ≤ a → a < 0x10000 + c.length → PstMine .rld a (s.writeCodeStore c)) ∧ (s.writeCodeStore c).pstOctets 0x10000 c.length = c :=
  padded_words (by unfold ceilDiv; rw [if_neg (by decide)]; omega) alone

theorem writeCodeStore_rd (s : State) (c : Octets) {f : Field} (h : f.key ≠ PST_WORDS_COUNT.key ∧ f.key ≠ PST_STATUS_CNTWRAP.key) : (s.writeCodeStore c).rd f = s.rd f :=
  pstWords_rd _ _ _ h.1 h.2

/-- The code store's octets stay through a change of STATE. -/
theorem upTo_codeStore {s : State} {n k : Nat} (mine : ∀ a, 0x10000 ≤ a → a < 0x10000 + k → PstMine .rld a s) : (s.upTo n).pstOctets 0x10000 k = s.pstOctets 0x10000 k :=
  pstOctets_of_image (fun a h1 h2 => upTo_leaves (mine a h1 h2) (by omega))

/-! ### SCHEDULE and CANCEL (R361) -/

/-- The loader and its registers with a schedule taken. -/
def State.scheduled (s : State) (kind c : Nat) (cfg : Bool) : State :=
  let u := (({ s with rld := { s.rld with tact := s.rd RLD_TACT_TACT, deadline := s.rd RLD_CFG_DEADLINE, newCfg := c, step := .none } } : State).wr RLD_STATE_KIND kind).raise RLD_STATUS_CMDDONE
  if cfg then u.wr RLD_STATE_CFGFB (u.rd RLD_STATE_CFGCUR) else u

/-- Where SCHEDULE is refused (R361). -/
def State.scheduleRefused (s : State) (kind c f : Nat) : Prop :=
  kind = 0 ∨ s.rldBusy ∨ s.upState ≠ upIdle ∨ ((kind == 1 || kind == 3) ∧ !s.slotReady f 1) ∨ ((kind == 2 || kind == 3) ∧ !s.slotReady (2 + c) 2) ∨
    s.rd RLD_TACT_TACT / 2 ^ 30 * 1000000000 + s.rd RLD_TACT_TACT % 2 ^ 30 < s.now + 60000000000

theorem kind_toNat (kind : BitVec 2) {k : Nat} (hk : k < 4) : kind.toNat = k ↔ kind = BitVec.ofNat 2 k := by
  rw [← BitVec.toNat_inj, BitVec.toNat_ofNat, Nat.mod_eq_of_lt hk]

theorem kindIs_iff (kind : BitVec 2) : ((kind.toNat == 1 || kind.toNat == 3) = true ↔ kind = 1 ∨ kind = 3) ∧ ((kind.toNat == 2 || kind.toNat == 3) = true ↔ kind = 2 ∨ kind = 3) := by
  revert kind
  decide

theorem rldSchedule_refused {s : State} {kind c f : Nat} (h : s.scheduleRefused kind c f) : s.rldSchedule kind c f = s.wr RLD_STATUS_CMDREJ 1 := if_pos h

theorem rldSchedule_runs {s : State} {kind c f : Nat} (h : ¬ s.scheduleRefused kind c f) : s.rldSchedule kind c f =
    if kind == 1 || kind == 3 then (((s.scheduled kind c (kind == 2 || kind == 3)).wr RLD_STATE_NEWSLOT f).wr RLD_STATE_FBSLOT (1 - f)).upTo upSaving
    else (s.scheduled kind c (kind == 2 || kind == 3)).upTo upArmed := if_neg h

theorem scheduled_facts (s : State) {kind c : Nat} (cfg : Bool) (small : kind < 4) : (s.scheduled kind c cfg).rd RLD_STATE_KIND = kind ∧ (s.scheduled kind c cfg).rd RLD_STATUS_CMDDONE = 1 ∧
    (s.scheduled kind c cfg).rld.tact = s.rd RLD_TACT_TACT ∧ (s.scheduled kind c cfg).rld.newCfg = c ∧ (cfg = true → (s.scheduled kind c cfg).rd RLD_STATE_CFGFB = s.rd RLD_STATE_CFGCUR) := by
  unfold State.scheduled
  have fits : kind % 2 ^ 2 = kind := Nat.mod_eq_of_lt small
  have narrow : s.rd RLD_STATE_CFGCUR % 2 ^ 2 = s.rd RLD_STATE_CFGCUR := Nat.mod_eq_of_lt (Nat.lt_of_lt_of_le (rd_lt s RLD_STATE_CFGCUR) (by decide))
  cases cfg with
  | true =>
    dsimp only
    rw [if_pos rfl, raise_def]
    refine ⟨?_, ?_, rfl, rfl, fun _ => ?_⟩
    · rw [rd_wr_ne _ _ (by decide), rd_wr_ne _ _ (by decide), rd_wr_same]; exact fits
    · rw [rd_wr_ne _ _ (by decide), rd_wr_same]; rfl
    · rw [rd_wr_same, rd_wr_ne _ _ (by decide), rd_wr_ne _ _ (by decide)]; exact narrow
  | false =>
    dsimp only
    rw [if_neg Bool.false_ne_true, raise_def]
    refine ⟨?_, ?_, rfl, rfl, fun h => Bool.noConfusion h⟩
    · rw [rd_wr_ne _ _ (by decide), rd_wr_same]; exact fits
    · rw [rd_wr_same]; rfl

/-- The two slots of a firmware update. -/
theorem slots_written (u : State) {f : Nat} (small : f < 2) : ((u.wr RLD_STATE_NEWSLOT f).wr RLD_STATE_FBSLOT (1 - f)).rd RLD_STATE_NEWSLOT = f ∧
    ((u.wr RLD_STATE_NEWSLOT f).wr RLD_STATE_FBSLOT (1 - f)).rd RLD_STATE_FBSLOT = 1 - f ∧
    ∀ g : Field, g.key ≠ RLD_STATE_NEWSLOT.key → g.key ≠ RLD_STATE_FBSLOT.key → ((u.wr RLD_STATE_NEWSLOT f).wr RLD_STATE_FBSLOT (1 - f)).rd g = u.rd g := by
  refine ⟨?_, ?_, fun g h1 h2 => (rd_wr_ne _ _ h2).trans (rd_wr_ne _ _ h1)⟩
  · rw [rd_wr_ne _ _ (by decide), rd_wr_same]
    exact Nat.mod_eq_of_lt (Nat.lt_of_lt_of_le small (by decide))
  · rw [rd_wr_same]
    exact Nat.mod_eq_of_lt (Nat.lt_of_le_of_lt (Nat.sub_le 1 f) (by decide))

theorem rldSchedule_facts {s : State} {kind c f : Nat} (h : ¬ s.scheduleRefused kind c f) (small : kind < 4) (slot : f < 2) (some' : kind ≠ 0) :
    (s.rldSchedule kind c f).rd RLD_STATE_KIND = kind ∧ (s.rldSchedule kind c f).rld.tact = s.rd RLD_TACT_TACT ∧ (s.rldSchedule kind c f).rd RLD_STATUS_STCHG = 1 ∧ (s.rldSchedule kind c f).rd RLD_STATUS_CMDDONE = 1 ∧
    (kind = 1 ∨ kind = 3 → (s.rldSchedule kind c f).rd RLD_STATE_STATE = 1 ∧ (s.rldSchedule kind c f).rd RLD_STATE_NEWSLOT = f ∧ (s.rldSchedule kind c f).rd RLD_STATE_FBSLOT = 1 - f) ∧
    (kind = 2 → (s.rldSchedule kind c f).rd RLD_STATE_STATE = 2) ∧
    (kind = 2 ∨ kind = 3 → (s.rldSchedule kind c f).rd RLD_STATE_CFGFB = s.rd RLD_STATE_CFGCUR ∧ (s.rldSchedule kind c f).rld.newCfg = c) := by
  obtain ⟨kindK, done, tact, newCfg, cfgfb⟩ := scheduled_facts s (c := c) (kind == 2 || kind == 3) small
  rw [rldSchedule_runs h]
  generalize s.scheduled kind c (kind == 2 || kind == 3) = u at *
  have cfg : kind = 2 ∨ kind = 3 → (kind == 2 || kind == 3) = true := by
    rintro (rfl | rfl) <;> rfl
  by_cases fw : kind = 1 ∨ kind = 3
  · obtain ⟨new, fb, keeps⟩ := slots_written u slot
    rw [if_pos (by rcases fw with rfl | rfl <;> rfl)]
    have vRld : ((u.wr RLD_STATE_NEWSLOT f).wr RLD_STATE_FBSLOT (1 - f)).rld = u.rld := rfl
    generalize (u.wr RLD_STATE_NEWSLOT f).wr RLD_STATE_FBSLOT (1 - f) = v at *
    obtain ⟨state, change⟩ := upTo_state v (n := upSaving) (by decide)
    refine ⟨?_, (upTo_rld v (by decide)).2.trans ?_, change, ?_, fun _ => ⟨state, ?_, ?_⟩, fun two => absurd fw (by omega), fun h => ⟨?_, (upTo_newCfg v).trans ?_⟩⟩
    · rw [upTo_rd v (by decide) (by decide), keeps _ (by decide) (by decide), kindK]
    · rw [vRld, tact]
    · rw [upTo_rd v (by decide) (by decide), keeps _ (by decide) (by decide), done]
    · rw [upTo_rd v (by decide) (by decide), new]
    · rw [upTo_rd v (by decide) (by decide), fb]
    · rw [upTo_rd v (by decide) (by decide), keeps _ (by decide) (by decide), cfgfb (cfg h)]
    · rw [vRld, newCfg]
  · have two : kind = 2 := by omega
    rw [if_neg (by rw [two]; decide)]
    obtain ⟨state, change⟩ := upTo_state u (n := upArmed) (by decide)
    refine ⟨?_, (upTo_rld u (by decide)).2.trans tact, change, ?_, fun h => absurd h fw, fun _ => state, fun h => ⟨?_, (upTo_newCfg u).trans newCfg⟩⟩
    · rw [upTo_rd u (by decide) (by decide), kindK]
    · rw [upTo_rd u (by decide) (by decide), done]
    · rw [upTo_rd u (by decide) (by decide), cfgfb (cfg h)]

theorem rldCancel_refused {s : State} (h : s.rd RLD_STATE_STATE ≠ 2) : s.rldCancel = s.wr RLD_STATUS_CMDREJ 1 := if_pos (.inl h)

theorem rldCancel_runs {s : State} (armed : s.rd RLD_STATE_STATE = 2) (free : s.rldBusy = false) : s.rldCancel = ((s.raise RLD_STATUS_CMDDONE).setStep .none).upTo upIdle :=
  if_neg (fun h => h.elim (fun n => n armed) (fun b => Bool.false_ne_true (free.symm.trans b)))

theorem rldCancel_facts {s : State} (armed : s.rd RLD_STATE_STATE = 2) (free : s.rldBusy = false) : s.rldCancel.rd RLD_STATE_STATE = 0 ∧ s.rldCancel.rd RLD_STATUS_CMDDONE = 1 := by
  rw [rldCancel_runs armed free]
  refine ⟨(upTo_state _ (by decide)).1, ?_⟩
  rw [upTo_rd _ (by decide) (by decide), setStep_rd]
  exact rd_wr_same _ _ _

/-! ### The saved copy (R361) -/

/-- The update ended with a cause. -/
theorem ended_facts (u : State) {c : Nat} (small : c < 256) : ((u.upCause c).upTo upIdle).rd RLD_STATE_STATE = 0 ∧ ((u.upCause c).upTo upIdle).rd RLD_STATE_CAUSE = c ∧
    ((u.upCause c).upTo upIdle).rd RLD_STATUS_STCHG = 1 := by
  obtain ⟨state, change⟩ := upTo_state (u.upCause c) (n := upIdle) (by decide)
  refine ⟨state, ?_, change⟩
  rw [upTo_rd _ (by decide) (by decide)]
  exact (rd_wr_same _ _ _).trans (Nat.mod_eq_of_lt small)

/-- The fallback slot with the code store's container in it. -/
def State.savedCopy (s : State) (n : Nat) : State := ((s.acmErase (slotBase n) (slotSize n)).acmWrite (slotBase n) s.codeStore).wr (RLD_SLOT_VERIFIED n) 0

theorem saveDone_fails {s : State} (saving : s.rd RLD_STATE_STATE = 1) : ∃ u : State, s.saveDone true = (u.upCause 9).upTo upIdle := by
  unfold State.saveDone
  rw [if_neg (fun h => h saving)]
  exact ⟨_, rfl⟩

theorem saveDone_good {s : State} {n : Nat} {u : State} (saving : s.rd RLD_STATE_STATE = 1) (hn : n = s.rd RLD_STATE_FBSLOT) (hu : u = s.savedCopy n) (good : (u.acceptable (u.slotContainer n) ctxRld).2 = true) :
    s.saveDone false = (((u.acceptable (u.slotContainer n) ctxRld).1.wr (RLD_SLOT_VERIFIED n) 1).wr (RLD_SLOTVER_VERSION n) (containerVersion (u.slotContainer n))).upTo upArmed := by
  unfold State.saveDone
  rw [if_neg (fun h => h saving), ← hn]
  have copy : ((s.acmErase (slotBase n) (slotSize n)).acmWrite (slotBase n) s.codeStore).wr (RLD_SLOT_VERIFIED n) 0 = u := hu.symm
  dsimp only
  rw [if_neg Bool.false_ne_true, if_neg Bool.false_ne_true, copy, good]
  rfl

theorem acceptable_acm (s : State) (c : Octets) (x : Nat) : (s.acceptable c x).1.acm = s.acm := by
  rcases acceptable_facts s c x with e | e <;> rw [e]
  exact only_part (deny_only (μ := 65536) rfl (Only.refl s)) .acm rfl

theorem saved_facts (v : State) (n ver : Nat) (c : Octets) (hv : ver = containerVersion c) :
    (((v.wr (RLD_SLOT_VERIFIED n) 1).wr (RLD_SLOTVER_VERSION n) ver).upTo upArmed).rd RLD_STATE_STATE = 2 ∧
    (((v.wr (RLD_SLOT_VERIFIED n) 1).wr (RLD_SLOTVER_VERSION n) ver).upTo upArmed).rd (RLD_SLOT_VERIFIED n) = 1 ∧
    (((v.wr (RLD_SLOT_VERIFIED n) 1).wr (RLD_SLOTVER_VERSION n) ver).upTo upArmed).rd (RLD_SLOTVER_VERSION n) = containerVersion c % 2 ^ 32 ∧
    (((v.wr (RLD_SLOT_VERIFIED n) 1).wr (RLD_SLOTVER_VERSION n) ver).upTo upArmed).acm = v.acm := by
  obtain ⟨slotVer, -, -, -, -, slotState, slotChange, slotWords, slotWrap, verState, verChange, verWords, verWrap⟩ := slotN n n
  refine ⟨(upTo_state _ (by decide)).1, ?_, ?_, (upTo_acm _ (by decide)).trans rfl⟩
  · rw [upTo_rd _ (by decide) ⟨slotState, slotChange, slotWords, slotWrap⟩, rd_wr_ne _ _ slotVer, rd_wr_same]
    rfl
  · rw [upTo_rd _ (by decide) ⟨verState, verChange, verWords, verWrap⟩, rd_wr_same, hv]
    rfl

/-! ### The activation (R362, R363) -/

theorem activate_waits {s : State} (h : s.now < s.tactNs ∨ s.updateMay = false) : s.activate = s :=
  if_pos (h.elim (fun early => .inr (.inr (.inl early))) (fun no => .inr (.inr (.inr (by rw [no]; decide)))))

section
variable {s : State} (armed : s.rd RLD_STATE_STATE = 2) (free : s.rld.step = .none) (due : s.tactNs ≤ s.now) (may : s.updateMay = true)
include armed free due may

theorem activate_goes : ¬ (s.upState ≠ upArmed ∨ s.rld.step ≠ .none ∨ s.now < s.tactNs ∨ ¬ s.updateMay = true) := by
  rintro (h | h | h | h)
  · exact h armed
  · exact h free
  · exact absurd h (Nat.not_lt.mpr due)
  · exact h may

theorem activate_swaps (kind : s.rd RLD_STATE_KIND = 1) (active : s.role .A = roleActive) : s.activate = s.setStep .swapping := by
  unfold State.activate
  rw [if_neg (activate_goes armed free due may), if_pos kind, if_pos active]

theorem activate_opens (kind : s.rd RLD_STATE_KIND = 1) (shadow : s.role .A = roleShadow) : s.activate = s.openWindow := by
  unfold State.activate
  rw [if_neg (activate_goes armed free due may), if_pos kind, if_neg (by rw [shadow]; decide)]

/-- A new CFG that the module resets to. -/
theorem activate_resets (kind : s.rd RLD_STATE_KIND = 2) :
    s.activate = (((s.wr RLD_STATE_CFGCUR s.rld.newCfg).wr RLD_KSTART_IDX s.kStart).upTo upCfgBoot).systemReset .other := by
  unfold State.activate
  rw [if_neg (activate_goes armed free due may), if_neg (by rw [kind]; decide), if_neg (by rw [kind]; decide)]

end

theorem openWindow_facts {s : State} (shadow : s.role .A = roleShadow) :
    s.openWindow.rd RLD_STATE_STATE = 3 ∧ s.openWindow.rd LSC_CTRL_SPLIT = 1 ∧ s.openWindow.rd PST_SETSEL_TRIAL = 1 ∧ s.openWindow.role .A = roleOut ∧ s.openWindow.rd LSC_CAUSE_A_CAUSE = 9 := by
  obtain ⟨leaving, cause, -⟩ := takeOut_facts (s.setStep .none) .A causeUpdate (by
    rw [show (s.setStep .none).role .A = roleShadow from shadow]
    decide)
  unfold State.openWindow
  generalize (s.setStep .none).takeOut .A causeUpdate = u at *
  obtain ⟨v, hv⟩ : ∃ v : State, v = (u.wr LSC_CTRL_SPLIT 1).wr PST_SETSEL_TRIAL 1 := ⟨_, rfl⟩
  have split : v.rd LSC_CTRL_SPLIT = 1 := by rw [hv, rd_wr_ne _ _ (by decide), rd_wr_same]; rfl
  have trial : v.rd PST_SETSEL_TRIAL = 1 := by rw [hv, rd_wr_same]; rfl
  have causeK : v.rd LSC_CAUSE_A_CAUSE = 9 := by rw [hv, rd_wr_ne _ _ (by decide), rd_wr_ne _ _ (by decide)]; exact cause
  have lane : v.lane .A = u.lane .A := by rw [hv]; rfl
  dsimp only
  rw [← hv]
  refine ⟨(upTo_state v (by decide)).1, ?_, ?_, ?_, ?_⟩
  · rw [upTo_rd v (by decide) (by decide), split]
  · rw [upTo_rd v (by decide) (by decide), trial]
  · rw [upTo_role v (by decide), State.role, lane, leaving]; rfl
  · rw [upTo_rd v (by decide) (by decide), causeK]

/-- A reset of the module from a state in which nothing holds it off leaves every lane in BOOT, with its refill. -/
theorem systemReset_lanes {s v : State} (hu : s.up = true) (ksu : v.ksu = s.ksu) (sys : v.sys = s.sys) (quiet : s.ksu.commit = none) (pin : s.sys.rstLow = false) (scan : s.sys.extest = false) (l : Lane) :
    (v.systemReset .other).role l = roleBoot ∧ ((v.systemReset .other).lane l).refilling = true := by
  have por : s.sys.por = false := by
    unfold State.up at hu
    rw [Bool.and_eq_true, Bool.and_eq_true] at hu
    simpa using hu.1.1
  exact (reset_other v (by rw [ksu]; exact quiet) (by rw [sys]; exact por) (by rw [sys]; exact pin) (by rw [sys]; exact scan)).2 l

/-- The new CFG's registers leave what a reset asks of the state. -/
theorem cfgTaken_quiet (s : State) (c k : Nat) : (((s.wr RLD_STATE_CFGCUR c).wr RLD_KSTART_IDX k).upTo upCfgBoot).ksu = s.ksu ∧ (((s.wr RLD_STATE_CFGCUR c).wr RLD_KSTART_IDX k).upTo upCfgBoot).sys = s.sys :=
  upTo_quiet ((s.wr RLD_STATE_CFGCUR c).wr RLD_KSTART_IDX k)

theorem deferExpiry_waits {s : State} (h : s.now < s.tactNs + max 1 (s.rd RLD_CFG_DEFER) * 1000000000) : s.deferExpiry = s := if_pos (.inr (.inr h))

theorem deferExpiry_ends {s : State} (armed : s.rd RLD_STATE_STATE = 2) (free : s.rld.step = .none) (late : s.tactNs + max 1 (s.rd RLD_CFG_DEFER) * 1000000000 ≤ s.now) :
    s.deferExpiry = (s.upCause 10).upTo upIdle := by
  refine if_neg ?_
  rintro (h | h | h)
  · exact h armed
  · exact h free
  · exact absurd h (Nat.not_lt.mpr late)

/-! ### The code store written, and the trial (R363, R364) -/

theorem codeWritten_facts {s : State} (writing : s.rd RLD_STATE_STATE = 3) (alone : s.pstAlone .rld 0x10000 (s.slotContainer (s.rd RLD_STATE_NEWSLOT)).length) :
    s.codeWritten.rd RLD_STATE_STATE = 4 ∧ s.codeWritten.rd RLD_KSTART_IDX = s.creaseOf s.tactNs % 2 ^ 64 ∧
    s.codeWritten.pstOctets 0x10000 (s.slotContainer (s.rd RLD_STATE_NEWSLOT)).length = s.slotContainer (s.rd RLD_STATE_NEWSLOT) := by
  unfold State.codeWritten
  rw [if_neg (fun h => h writing)]
  generalize s.slotContainer (s.rd RLD_STATE_NEWSLOT) = c at *
  obtain ⟨mine, stands⟩ := writeCodeStore_stands alone
  have start : s.kStart = s.creaseOf s.tactNs := rfl
  generalize s.kStart = k at *
  generalize s.writeCodeStore c = u at *
  refine ⟨(upTo_state _ (by decide)).1, ?_, ?_⟩
  · rw [upTo_rd _ (by decide) (by decide), rd_wr_same, start]
    rfl
  · rw [upTo_codeStore (fun a h1 h2 => wr_mine _ _ (mine a h1 h2)), wr_pstOctets, stands]

theorem trialDeadline_waits {s : State} (h : s.now < (s.rd RLD_KSTART_IDX + max 10 s.rld.deadline) * s.P) : s.trialDeadline = s := if_pos (.inr h)

theorem trialDeadline_ends {s : State} (trial : s.rd RLD_STATE_STATE = 4) (late : (s.rd RLD_KSTART_IDX + max 10 s.rld.deadline) * s.P ≤ s.now) : s.trialDeadline = s.rollback 3 :=
  if_neg (fun h => h.elim (fun n => n trial) (Nat.not_lt.mpr late))

/-! ### The commit (R365) -/

theorem committed_eq {s : State} (committing : s.rd RLD_STATE_STATE = 5) (free : s.rld.step = .none) : s.committed =
    if (s.commitSettings.commitVersions false).rd RLD_STATE_KIND = 1 ∧ (s.commitSettings.commitVersions false).on LSC_CTRL_SPLIT = true then
      ((s.commitSettings.commitVersions false).writeRecord).setStep .sealB else (s.commitSettings.commitVersions false).upTo upIdle :=
  if_neg (fun h => h.elim (fun n => n committing) (fun n => n free))

theorem commitSettings_container (s : State) (n : Nat) : s.commitSettings.slotContainer n = s.slotContainer n := by
  obtain ⟨-, -, -, acm, -⟩ := commitSettings_facts s
  unfold State.slotContainer State.acmRead
  rw [acm]

/-- What the commit's last step keeps: the record is written, or STATE changes to IDLE. -/
theorem commitEnd_rd (w : State) {f : Field} (h : f.key ≠ RLD_STATE_STATE.key ∧ f.key ≠ RLD_STATUS_STCHG.key ∧ f.key ≠ PST_WORDS_COUNT.key ∧ f.key ≠ PST_STATUS_CNTWRAP.key) :
    (if w.rd RLD_STATE_KIND = 1 ∧ w.on LSC_CTRL_SPLIT = true then w.writeRecord.setStep .sealB else w.upTo upIdle).rd f = w.rd f := by
  split
  · rw [setStep_rd, writeRecord_rd w h.2.2.1 h.2.2.2]
  · exact upTo_rd w (by decide) h

theorem committed_facts {s : State} (committing : s.rd RLD_STATE_STATE = 5) (free : s.rld.step = .none) :
    s.committed.rd PST_SETSEL_ACT = 1 - s.rd PST_SETSEL_ACT ∧ s.committed.rd PST_SETSEL_TRIAL = 0 ∧
    (s.rd RLD_STATE_KIND ≠ 2 → s.committed.rd RLD_VFB_VERSION = s.rd RLD_VCUR_VERSION ∧ s.committed.rd RLD_VCUR_VERSION = containerVersion (s.slotContainer (s.rd RLD_STATE_NEWSLOT)) % 2 ^ 32 ∧
      s.committed.rd RLD_MINVER_VERSION = (if containerFloor (s.slotContainer (s.rd RLD_STATE_NEWSLOT)) then containerVersion (s.slotContainer (s.rd RLD_STATE_NEWSLOT)) % 2 ^ 32 else s.rd RLD_MINVER_VERSION)) ∧
    (s.rd RLD_STATE_KIND ≠ 1 → s.committed.rd RLD_STATE_STATE = 0) ∧ (s.rd RLD_STATE_KIND = 1 → s.rd LSC_CTRL_SPLIT ≠ 0 → s.committed.rld.step = .sealB ∧ s.committed.rd RLD_STATE_STATE = 5) := by
  obtain ⟨act, trial, -, -, reads⟩ := commitSettings_facts s
  have container := commitSettings_container s (s.rd RLD_STATE_NEWSLOT)
  rw [committed_eq committing free]
  generalize s.commitSettings = u at *
  have slot : u.rd RLD_STATE_NEWSLOT = s.rd RLD_STATE_NEWSLOT := reads _ (by decide) (by decide) (by decide) (by decide)
  obtain ⟨-, act', trial', kind', split', state', versions, -⟩ := versions_facts u (s.slotContainer (s.rd RLD_STATE_NEWSLOT)) (by rw [slot, container])
  generalize u.commitVersions false = w at *
  have kind : w.rd RLD_STATE_KIND = s.rd RLD_STATE_KIND := kind'.trans (reads _ (by decide) (by decide) (by decide) (by decide))
  have split : w.rd LSC_CTRL_SPLIT = s.rd LSC_CTRL_SPLIT := split'.trans (reads _ (by decide) (by decide) (by decide) (by decide))
  have state : w.rd RLD_STATE_STATE = 5 := state'.trans ((reads _ (by decide) (by decide) (by decide) (by decide)).trans committing)
  have bound : s.rd PST_SETSEL_ACT < 2 := rd_lt s PST_SETSEL_ACT
  refine ⟨?_, ?_, fun fw => ?_, fun other => ?_, fun one window => ?_⟩
  · rw [commitEnd_rd w (by decide), act', act]
    omega
  · rw [commitEnd_rd w (by decide), trial', trial]
  · obtain ⟨vfb, vcur, minver⟩ := versions (by rw [reads _ (by decide) (by decide) (by decide) (by decide)]; exact fw)
    rw [reads _ (by decide) (by decide) (by decide) (by decide)] at vfb minver
    rw [commitEnd_rd w (by decide), commitEnd_rd w (by decide), commitEnd_rd w (by decide)]
    exact ⟨vfb, vcur, minver⟩
  · rw [if_neg (fun h => other (kind ▸ h.1))]
    exact (upTo_state w (by decide)).1
  · rw [if_pos ⟨kind.trans one, on_of_ne (by rw [split]; exact window)⟩]
    rw [setStep_rd, writeRecord_rd w (by decide) (by decide)]
    exact ⟨setStep_step _ _, state⟩

/-! ### The restore (R366) -/

/-- The code store as the restore leaves it. -/
def State.restoredStore (s : State) : State :=
  if s.rd RLD_STATE_KIND ≠ 2 ∧ s.rd RLD_STATE_FBSLOT ≠ 3 then s.writeCodeStore (s.slotContainer (s.rd RLD_STATE_FBSLOT)) else s

/-- The end of the split window. -/
def State.windowEnded (u : State) : State := ((u.voidTrial.wr LSC_CTRL_SPLIT 0).wr PST_SETSEL_TRIAL 0).setStep .none

/-- The fallback's CFG, with the trial area void. -/
def State.fallbackCfg (u : State) : State := ((u.wr RLD_STATE_CFGCUR (u.rd RLD_STATE_CFGFB)).voidTrial).setStep .none

theorem restored_eq {s : State} (back : s.rd RLD_STATE_STATE = 6) (step : s.rld.step = .restoring) :
    s.restored = if s.restoredStore.rd RLD_STATE_KIND = 1 then s.restoredStore.windowEnded.upTo upIdle else (s.restoredStore.fallbackCfg.upTo upIdle).systemReset .other :=
  if_neg (fun h => h.elim (fun n => n back) (fun n => n step))

theorem restoredStore_facts (s : State) : (s.restoredStore.ksu = s.ksu ∧ s.restoredStore.sys = s.sys) ∧
    ∀ f : Field, f.key ≠ PST_WORDS_COUNT.key ∧ f.key ≠ PST_STATUS_CNTWRAP.key → s.restoredStore.rd f = s.rd f := by
  unfold State.restoredStore
  split
  · have only : Only 140857747447808 s (s.writeCodeStore (s.slotContainer (s.rd RLD_STATE_FBSLOT))) := writeCodeStore_only rfl (Only.refl s)
    exact ⟨⟨only_part only .ksu rfl, only_part only .sys rfl⟩, fun f h => writeCodeStore_rd _ _ h⟩
  · exact ⟨⟨rfl, rfl⟩, fun _ _ => rfl⟩

theorem voidTrial_rd (u : State) {f : Field} (h : f.key ≠ PST_WORDS_COUNT.key ∧ f.key ≠ PST_STATUS_CNTWRAP.key) : u.voidTrial.rd f = u.rd f := pstWords_rd _ _ _ h.1 h.2

theorem windowEnded_facts (u : State) : u.windowEnded.rd LSC_CTRL_SPLIT = 0 ∧ u.windowEnded.rd PST_SETSEL_TRIAL = 0 ∧ u.windowEnded.rld.step = .none ∧ u.windowEnded.rd PST_SETSEL_ACT = u.rd PST_SETSEL_ACT := by
  have act := voidTrial_rd u (f := PST_SETSEL_ACT) (by decide)
  unfold State.windowEnded
  generalize u.voidTrial = v at *
  rw [setStep_rd, setStep_rd, setStep_rd]
  refine ⟨?_, rd_wr_same _ _ _, rfl, ?_⟩
  · rw [rd_wr_ne _ _ (by decide), rd_wr_same]; rfl
  · rw [rd_wr_ne _ _ (by decide), rd_wr_ne _ _ (by decide), act]

theorem slotContainer_length (s : State) (n : Nat) : (s.slotContainer n).length ≤ 0x300000 := by
  unfold State.slotContainer
  rw [acmRead_length]
  refine Nat.le_trans (Nat.min_le_left _ _) ?_
  unfold slotSize
  split <;> decide

/-- The word that voids the trial area stands behind every container of the code store. -/
theorem windowEnded_leaves {u : State} {a : Nat} (h : PstMine .rld a u) (before : a < 0x38003C) : PstMine .rld a u.windowEnded ∧ memGet u.windowEnded.pstImage a = memGet u.pstImage a :=
  pstWords_leave (ws := [(0x38003C, 0)]) h (fun x hx => by rw [List.mem_singleton.mp hx]; exact .inl before)

theorem restored_window {s : State} (back : s.rd RLD_STATE_STATE = 6) (step : s.rld.step = .restoring) (kind : s.rd RLD_STATE_KIND = 1)
    (alone : s.pstAlone .rld 0x10000 (s.slotContainer (s.rd RLD_STATE_FBSLOT)).length) :
    s.restored.rd RLD_STATE_STATE = 0 ∧ s.restored.rd LSC_CTRL_SPLIT = 0 ∧ s.restored.rd PST_SETSEL_TRIAL = 0 ∧ s.restored.rld.step = .none ∧ s.restored.rd PST_SETSEL_ACT = s.rd PST_SETSEL_ACT ∧
    (s.rd RLD_STATE_FBSLOT ≠ 3 → s.restored.pstOctets 0x10000 (s.slotContainer (s.rd RLD_STATE_FBSLOT)).length = s.slotContainer (s.rd RLD_STATE_FBSLOT)) := by
  obtain ⟨-, reads⟩ := restoredStore_facts s
  rw [restored_eq back step, if_pos ((reads _ (by decide)).trans kind)]
  obtain ⟨split, trial, none', act⟩ := windowEnded_facts s.restoredStore
  refine ⟨(upTo_state _ (by decide)).1, ?_, ?_, (upTo_rld _ (by decide)).1.trans none', ?_, fun fb => ?_⟩
  · rw [upTo_rd _ (by decide) (by decide), split]
  · rw [upTo_rd _ (by decide) (by decide), trial]
  · rw [upTo_rd _ (by decide) (by decide), act, reads _ (by decide)]
  · have store : s.restoredStore = s.writeCodeStore (s.slotContainer (s.rd RLD_STATE_FBSLOT)) := if_pos ⟨by rw [kind]; decide, fb⟩
    have length := slotContainer_length s (s.rd RLD_STATE_FBSLOT)
    rw [store]
    generalize s.slotContainer (s.rd RLD_STATE_FBSLOT) = c at *
    obtain ⟨mine, stands⟩ := writeCodeStore_stands alone
    generalize s.writeCodeStore c = u at *
    have kept := fun a h1 h2 => windowEnded_leaves (mine a h1 h2) (show a < 0x38003C by omega)
    exact (upTo_codeStore (fun a h1 h2 => (kept a h1 h2).1)).trans ((pstOctets_of_image (fun a h1 h2 => (kept a h1 h2).2)).trans stands)

theorem fallbackCfg_quiet (u : State) : u.fallbackCfg.ksu = u.ksu ∧ u.fallbackCfg.sys = u.sys := by
  have only : Only 140857747447808 (u.wr RLD_STATE_CFGCUR (u.rd RLD_STATE_CFGFB)) (u.wr RLD_STATE_CFGCUR (u.rd RLD_STATE_CFGFB)).voidTrial := pstWords_only rfl (Only.refl _)
  exact ⟨only_part only .ksu rfl, only_part only .sys rfl⟩

theorem restored_resets {s : State} (hu : s.up = true) (back : s.rd RLD_STATE_STATE = 6) (step : s.rld.step = .restoring) (kind : s.rd RLD_STATE_KIND ≠ 1) (quiet : s.ksu.commit = none)
    (pin : s.sys.rstLow = false) (scan : s.sys.extest = false) (l : Lane) : s.restored.role l = roleBoot ∧ (s.restored.lane l).refilling = true := by
  obtain ⟨⟨ksu, sys⟩, reads⟩ := restoredStore_facts s
  rw [restored_eq back step, if_neg (by rw [reads _ (by decide)]; exact kind)]
  obtain ⟨ksu', sys'⟩ := fallbackCfg_quiet s.restoredStore
  obtain ⟨ksu'', sys''⟩ := upTo_quiet s.restoredStore.fallbackCfg (n := upIdle)
  exact systemReset_lanes hu (ksu''.trans (ksu'.trans ksu)) (sys''.trans (sys'.trans sys)) quiet pin scan l

/-! ### Verdicts (R364) -/

/-- A store of a verdict by a lane whose store is performed: the Active lane's, or Lane A's in a split window (R363). -/
theorem verdict_reaches {s : State} {l : Lane} (key : BitVec 16) (pass : Bool) (cause : Byte) (runs : s.laneRuns l = true) (det : (s.lane l).det = false)
    (may : s.actsActive l = true ∨ (l = .A ∧ s.rd LSC_CTRL_SPLIT ≠ 0)) : exec (.verdict l key pass cause) s = .next (s.verdict l key.toNat (b2n pass) cause.toNat) := by
  by_cases active : s.actsActive l = true
  · exact verdict_does key pass cause ⟨runs, det, active⟩
  obtain ⟨rfl, split⟩ := may.resolve_left active
  have own : s.ownRegister .A 0x40120030 = true := by
    unfold State.ownRegister
    rw [on_of_ne split]
    rfl
  have i := cause.isLt
  have j := b2n_le pass
  have q := key.isLt
  obtain ⟨v, hv⟩ : ∃ v, v = key.toNat * 65536 + b2n pass * 256 + cause.toNat := ⟨_, rfl⟩
  have small : v % 2 ^ 32 = v := Nat.mod_eq_of_lt (by omega)
  have parts : bits v 16 16 = key.toNat ∧ bits v 8 1 = b2n pass ∧ bits v 0 8 = cause.toNat := by
    unfold bits
    refine ⟨?_, ?_, ?_⟩ <;> omega
  have store : s.commandStore .A 0x40120030 v = s.performWrite (.service .A) 0x40120030 v cleanWrite := by
    simp [State.commandStore, State.laneStore, State.storeRegister, runs, det, own]
    rw [show v % 4294967296 = v from small, if_neg (by decide)]
  obtain ⟨p, -, performs⟩ := performWrite_single (s := s) (org := .service .A) (a := 0x40120030) (v := v) (x := cleanWrite) (by simp) (by decide) rfl rfl
  have takes : s.takeEffect (.service .A) p 0x40120030 v cleanWrite = s.verdict .A (bits v 16 16) (bits v 8 1) (bits v 0 8) := takeEffect_control rfl rfl rfl
  have does : exec (.verdict .A key pass cause) s = .next (s.commandStore .A 0x40120030 v) := by rw [hv]; rfl
  rw [does, store, performs, takes, parts.1, parts.2.1, parts.2.2]

/-- The lane that may give a verdict (R364). -/
def State.judges (s : State) (l : Lane) : Bool := if s.rd RLD_STATE_KIND = 1 then l == .A else s.activeLane == some l

theorem verdict_refused {s : State} {l : Lane} {key : BitVec 16} {pass : Bool} {cause : Nat}
    (h : key ≠ 0x7D1E#16 ∨ s.rd RLD_STATE_STATE ≠ 4 ∨ (s.rd RLD_STATE_KIND = 1 ∧ l ≠ .A) ∨ (s.rd RLD_STATE_KIND ≠ 1 ∧ s.activeLane ≠ some l)) :
    s.verdict l key.toNat (b2n pass) cause = s.wr RLD_STATUS_VERDREJ 1 := by
  refine if_pos ?_
  rcases h with wrong | state | ⟨kind, lane⟩ | ⟨kind, lane⟩
  · exact .inl (fun e => wrong (BitVec.eq_of_toNat_eq e))
  · exact .inr (.inl state)
  · exact .inr (.inr (fun c => lane ((verdict_may s l).mp c |>.1 kind)))
  · exact .inr (.inr (fun c => lane ((verdict_may s l).mp c |>.2 kind)))

section
variable {s : State} {l : Lane} {cause : Nat} (trial : s.rd RLD_STATE_STATE = 4) (firmware : s.rd RLD_STATE_KIND = 1 → l = .A) (other : s.rd RLD_STATE_KIND ≠ 1 → s.activeLane = some l)
include trial firmware other

theorem verdict_goes : ¬ ((0x7D1E#16).toNat ≠ 0x7D1E ∨ s.upState ≠ upTrial ∨ ¬ (if s.rd RLD_STATE_KIND = 1 then l == .A else s.activeLane == some l) = true) := by
  rintro (h | h | h)
  · exact h rfl
  · exact h trial
  · exact h ((verdict_may s l).mpr ⟨firmware, other⟩)

theorem verdict_passes : s.verdict l (0x7D1E#16).toNat (b2n true) cause = (((s.upCause 0).verdictEvent true 0).setStep .none).upTo upCommitting :=
  (if_neg (verdict_goes trial firmware other)).trans (if_pos rfl)

theorem verdict_fails : s.verdict l (0x7D1E#16).toNat (b2n false) cause = s.rollback cause :=
  (if_neg (verdict_goes trial firmware other)).trans (if_neg (by decide))

end

theorem passed_facts (s : State) : ((((s.upCause 0).verdictEvent true 0).setStep .none).upTo upCommitting).rd RLD_STATE_STATE = 5 ∧
    ((((s.upCause 0).verdictEvent true 0).setStep .none).upTo upCommitting).rd RLD_STATE_CAUSE = 0 ∧ ((((s.upCause 0).verdictEvent true 0).setStep .none).upTo upCommitting).rd RLD_STATUS_STCHG = 1 := by
  obtain ⟨state, change⟩ := upTo_state (((s.upCause 0).verdictEvent true 0).setStep .none) (n := upCommitting) (by decide)
  refine ⟨state, ?_, change⟩
  rw [upTo_rd _ (by decide) (by decide)]
  exact (rldEvent_rd (s.upCause 0) _ _ _).trans (rd_wr_same _ _ _)

/-- A lane that runs is not out, off or in a test. -/
theorem laneRuns_role {s : State} {l : Lane} (runs : s.laneRuns l = true) : s.role l ≠ roleOut ∧ s.role l ≠ roleOff ∧ s.role l ≠ roleBist := by
  unfold State.laneRuns State.inService at runs
  rw [Bool.and_eq_true] at runs
  obtain ⟨-, roles⟩ := runs
  refine ⟨?_, ?_, ?_⟩ <;> intro h <;> rw [h] at roles <;> exact absurd roles (by decide)

/-- Settles O56: each clause is the case of its effect. -/
theorem scheduledUpdate : Obligations.ScheduledUpdate := by
  unfold Obligations.ScheduledUpdate
  refine ⟨fun s l kind c f serves => ⟨fun some' free idle ahead fw cfg => ?_, fun h => ?_, fun armed free => ?_, fun other => ?_⟩, fun s hu => ⟨fun saving => ⟨?_, fun n u hn hcopy good => ?_⟩, fun armed step => ⟨fun due may => ⟨fun kind active => ?_,
      fun kind shadow => ?_, fun kind quiet pin scan => ?_⟩, fun waits => ?_, fun late => ?_, fun early => ?_⟩, fun writing _ alone => ?_, fun trial => ⟨fun late => ?_, fun early => ?_⟩, fun committing step => ?_, fun back step => ⟨fun kind _ alone => ?_, fun kind quiet pin scan => ?_⟩⟩,
    fun s l cause runs det may => ⟨fun trial firmware other => ⟨?_, ?_⟩, fun key pass h => ?_⟩⟩
  · have does := (schedule_does _ kind c f serves).trans (congrArg Host.Outcome.next (rldCommand_runs s _))
    have number := fun k (hk : k < 4) => kind_toNat kind hk
    refine ⟨_, does, ?_⟩
    have go : ¬ s.scheduleRefused kind.toNat (b2n c) (b2n f) := by
      rintro (zero | busy | state | ⟨isFw, no⟩ | ⟨isCfg, no⟩ | soon)
      · exact some' ((number 0 (by decide)).mp zero)
      · exact Bool.false_ne_true (free.symm.trans busy)
      · exact state idle
      · rw [fw ((kindIs_iff kind).1.mp isFw)] at no; exact Bool.false_ne_true no
      · rw [cfg ((kindIs_iff kind).2.mp isCfg)] at no; exact Bool.false_ne_true no
      · exact absurd soon (Nat.not_lt.mpr ahead)
    obtain ⟨kindK, tact, change, done, firmware, alone, config⟩ := rldSchedule_facts go kind.isLt (Nat.lt_succ_of_le (b2n_le f)) (fun zero => some' ((number 0 (by decide)).mp zero))
    refine ⟨kindK, tact, change, done, fun h => firmware (h.imp (number 1 (by decide)).mpr (number 3 (by decide)).mpr), fun h => alone ((number 2 (by decide)).mpr h),
      fun h => config (h.imp (number 2 (by decide)).mpr (number 3 (by decide)).mpr)⟩
  · refine (schedule_does _ kind c f serves).trans (congrArg Host.Outcome.next ((rldCommand_runs s _).trans (rldSchedule_refused ?_)))
    rcases h with rfl | busy | state | ⟨isFw, no⟩ | ⟨isCfg, no⟩ | soon
    · exact .inl rfl
    · exact .inr (.inl busy)
    · exact .inr (.inr (.inl state))
    · exact .inr (.inr (.inr (.inl ⟨(kindIs_iff kind).1.mpr isFw, by rw [no]; rfl⟩)))
    · exact .inr (.inr (.inr (.inr (.inl ⟨(kindIs_iff kind).2.mpr isCfg, by rw [no]; rfl⟩))))
    · exact .inr (.inr (.inr (.inr (.inr soon))))
  · exact ⟨_, (cancel_does _ serves).trans (congrArg Host.Outcome.next (rldCommand_runs s _)), rldCancel_facts armed free⟩
  · exact (cancel_does _ serves).trans (congrArg Host.Outcome.next ((rldCommand_runs s _).trans (rldCancel_refused other)))
  · obtain ⟨u, ends⟩ := saveDone_fails saving
    exact ⟨_, congrArg Host.Outcome.next ((whenUp_up hu).trans ends), ended_facts u (by decide)⟩
  · have facts := saved_facts (u.acceptable (u.slotContainer n) ctxRld).1 n _ (u.slotContainer n) rfl
    rw [acceptable_acm] at facts
    exact ⟨_, congrArg Host.Outcome.next ((whenUp_up hu).trans (saveDone_good saving hn hcopy good)), facts⟩
  · exact congrArg Host.Outcome.next ((whenUp_up hu).trans (activate_swaps armed step due may kind active))
  · exact ⟨_, congrArg Host.Outcome.next ((whenUp_up hu).trans (activate_opens armed step due may kind shadow)), openWindow_facts shadow⟩
  · obtain ⟨ksu, sys⟩ := cfgTaken_quiet s s.rld.newCfg s.kStart
    exact ⟨_, congrArg Host.Outcome.next ((whenUp_up hu).trans (activate_resets armed step due may kind)), systemReset_lanes hu ksu sys quiet pin scan⟩
  · exact congrArg Host.Outcome.next ((whenUp_up hu).trans (activate_waits waits))
  · obtain ⟨state, cause, -⟩ := ended_facts s (c := 10) (by decide)
    exact ⟨_, congrArg Host.Outcome.next ((whenUp_up hu).trans (deferExpiry_ends armed step late)), state, cause⟩
  · exact congrArg Host.Outcome.next ((whenUp_up hu).trans (deferExpiry_waits early))
  · exact ⟨_, congrArg Host.Outcome.next (whenUp_up hu), codeWritten_facts writing alone⟩
  · obtain ⟨state, cause, -, stepK, -⟩ := rollback_facts s 3 (by decide)
    exact ⟨_, congrArg Host.Outcome.next ((whenUp_up hu).trans (trialDeadline_ends trial late)), state, cause, stepK⟩
  · exact congrArg Host.Outcome.next ((whenUp_up hu).trans (trialDeadline_waits early))
  · exact ⟨_, congrArg Host.Outcome.next (whenUp_up hu), committed_facts committing step⟩
  · exact ⟨_, congrArg Host.Outcome.next (whenUp_up hu), restored_window back step kind alone⟩
  · exact ⟨_, congrArg Host.Outcome.next (whenUp_up hu), restored_resets hu back step kind quiet pin scan⟩
  · exact ⟨_, (verdict_reaches _ true cause runs det may).trans (congrArg _ (verdict_passes trial firmware other)), passed_facts s⟩
  · obtain ⟨state, causeK, -, step, out⟩ := rollback_facts s cause.toNat cause.isLt
    refine ⟨_, (verdict_reaches _ false cause runs det may).trans (congrArg _ (verdict_fails trial firmware other)), state, causeK, step, fun kind loaded => ?_⟩
    have lane := firmware kind
    subst lane
    obtain ⟨notOut, notOff, notBist⟩ := laneRuns_role runs
    exact (out kind loaded notOut notOff notBist).1
  · exact (verdict_reaches key pass cause runs det may).trans (congrArg _ (verdict_refused h))

end Sys2Proof.Machine

/-! PROOFS. The DMA engine (R369 to R380). -/
namespace Sys2Proof.Machine
set_option Elab.async false

/-! ### A channel's command -/

/-- A run at its start (R372): nothing read, nothing written. -/
def dmaFresh (s : State) (n : Nat) : DmaRun := ⟨dmaTaken s n, none, 0, 0, false⟩

/-- What a run leaves: its descriptor completed at once, or its responses awaited (R375). -/
def DmaRun.left (w : DmaRun) (n : Nat) (j : DmaJob) (unit : Nat) : State := (w.st.dmaHold n (j.after w unit) (w.busErr && w.done == 0)).freeTick

theorem dmaStart_moves (s : State) {op n : Nat} (e : BusErrors) (r : s.dmaReady n = true) (h : (readDescriptor (s.dmaFetch n)).op = op) (h3 : op ≠ 3)
    (f : s.descRefused (readDescriptor (s.dmaFetch n)) = false) : s.dmaStart op n false e =
      (if op = 0 then (dmaFresh s n).copy e (readDescriptor (s.dmaFetch n)) else if op = 1 then gatherFrom e (readDescriptor (s.dmaFetch n)) (readDescriptor (s.dmaFetch n)).len 0 (dmaFresh s n)
        else (dmaFresh s n).fill e (readDescriptor (s.dmaFetch n))).left n (dmaJob s n) (if op = 1 then (readDescriptor (s.dmaFetch n)).esize else 1) := by
  rw [dmaStart_work s op n e r h f]
  unfold State.dmaWork
  rw [if_neg (h ▸ h3), h]
  rfl

theorem copy_start {s : State} {n : Nat} {d : Descriptor} (hd : readDescriptor (s.dmaFetch n) = d) (e : BusErrors) (r : s.dmaReady n = true) (op : d.op = 0) (f : s.descRefused d = false) :
    s.dmaStart 0 n false e = ((dmaFresh s n).copy e d).left n (dmaJob s n) 1 := by
  subst hd
  rw [dmaStart_moves s e r op (by decide) f, if_pos rfl, if_neg (by decide)]

theorem gather_start {s : State} {n : Nat} {d : Descriptor} (hd : readDescriptor (s.dmaFetch n) = d) (e : BusErrors) (r : s.dmaReady n = true) (op : d.op = 1) (f : s.descRefused d = false) :
    s.dmaStart 1 n false e = (gatherFrom e d d.len 0 (dmaFresh s n)).left n (dmaJob s n) d.esize := by
  subst hd
  rw [dmaStart_moves s e r op (by decide) f, if_neg (by decide), if_pos rfl, if_pos rfl]

theorem fill_start {s : State} {n : Nat} {d : Descriptor} (hd : readDescriptor (s.dmaFetch n) = d) (e : BusErrors) (r : s.dmaReady n = true) (op : d.op = 2) (f : s.descRefused d = false) :
    s.dmaStart 2 n false e = ((dmaFresh s n).fill e d).left n (dmaJob s n) 1 := by
  subst hd
  rw [dmaStart_moves s e r op (by decide) f, if_neg (by decide), if_neg (by decide), if_neg (by decide)]

theorem irq_of_job {s : State} {n : Nat} {d : Descriptor} (hd : d = readDescriptor (s.dmaFetch n)) : (readDescriptor (dmaJob s n).desc).irq = d.irq := by rw [hd]; rfl

theorem taken_lane (s : State) (n : Nat) (l : Lane) : (dmaTaken s n).lane l = s.lane l := by cases l <;> rfl

theorem lane_of_pair {s t : State} (a : t.laneA = s.laneA) (b : t.laneB = s.laneB) (l : Lane) : t.lane l = s.lane l := by
  cases l
  · exact a
  · exact b

theorem dmaFinish_lane (s : State) (n : Nat) (j : DmaJob) (l : Lane) : (s.dmaFinish n j).lane l = s.lane l := by
  obtain ⟨-, -, -, -, a, b⟩ := dmaFinish_facts s n j
  exact lane_of_pair a b l

theorem pst_of_only {m : Nat} {s t : State} (o : Only m s t) (hc : m.testBit 34 = false) (hb : m.testBit 35 = false) : t.pst = s.pst := by
  have c : t.pst.cells = s.pst.cells := only_part o .pstCells hc
  have b : t.pst.buffer = s.pst.buffer ∧ t.pst.turn = s.pst.turn := only_part o .pstBuffer hb
  obtain ⟨b, k⟩ := b
  revert c b k
  cases t.pst
  cases s.pst
  rintro rfl rfl rfl
  rfl

theorem dmaFinish_pst (s : State) (n : Nat) (j : DmaJob) : (s.dmaFinish n j).pst = s.pst := by
  have o : Only 4295491584 s (s.dmaFinish n j) := dmaFinish_only rfl (Only.refl _)
  exact pst_of_only o rfl rfl

/-- A run refused at its first octet ends with BUSERR and a record of no octet done (R376). -/
theorem left_busErr (w : DmaRun) {n : Nat} (hn : n < 16) (j : DmaJob) (unit : Nat) (hb : w.busErr = true) (hd : w.done = 0) (hj : j.descErr = false) : (∀ l, (w.left n j unit).lane l = w.st.lane l) ∧ (w.left n j unit).pst = w.st.pst ∧
    (∀ f : Field, f.block ≠ 19 → f.block < 22 → (w.left n j unit).rd f = w.st.rd f) ∧
    ∃ r : Octets, (w.left n j unit).dma.records = w.st.dma.records ++ [⟨n, r, (readDescriptor j.desc).irq⟩] ∧ octAt r 1 = 2 ∧ leAt r 4 4 = 0 := by
  have e : w.left n j unit = (w.st.dmaFinish n (j.after w unit)).freeTick := by
    unfold DmaRun.left
    rw [hb, hd]
    rfl
  have st : (j.after w unit).status = 2 := by
    unfold DmaJob.status DmaJob.after
    simp [hb, hj]
  have dn : (j.after w unit).done = 0 := by
    unfold DmaJob.after
    simp [hd]
  obtain ⟨r, r1, -, r2, -, r3, -⟩ := end_facts w.st n hn (j.after w unit)
  rw [e]
  refine ⟨fun l => (by cases l <;> rfl : _ = (w.st.dmaFinish n (j.after w unit)).lane l).trans (dmaFinish_lane _ _ _ l), dmaFinish_pst _ _ _, fun f h1 h2 => ?_, r, r1, r2.trans st, by rw [r3, dn]; rfl⟩
  show (w.st.dmaFinish n (j.after w unit)).rd f = _
  refine only_rd (m := 4295491584) (dmaFinish_only rfl (Only.refl _)) ?_
  have b : ∀ k, k < 22 → k ≠ 19 → (decide (k < 22) && !(4295491584 : Nat).testBit k) = true := by decide
  exact b _ h2 h1

theorem dma_exec (n : Fin 16) (s : State) : ∀ p ∈ [(0, Instr.copy n), (1, Instr.gather n), (2, Instr.fill n), (3, Instr.compare n)], ∀ (bad : Bool) (e : BusErrors),
    exec (p.2 bad e) s = .next (s.whenUp (fun t => t.dmaStart p.1 n.val bad e)) := by
  intro p hp bad e
  simp only [List.mem_cons, List.not_mem_nil, or_false] at hp
  rcases hp with rfl | rfl | rfl | rfl <;> rfl

theorem dma_exec_up (n : Fin 16) {s : State} (hu : s.up = true) {p : Nat × (Bool → BusErrors → Instr)} (hp : p ∈ [(0, Instr.copy n), (1, Instr.gather n), (2, Instr.fill n), (3, Instr.compare n)]) (bad : Bool) (e : BusErrors) :
    exec (p.2 bad e) s = .next (s.dmaStart p.1 n.val bad e) := by
  rw [dma_exec n s p hp bad e, whenUp_up hu]

theorem dmaReady_iff (s : State) (n : Nat) : s.dmaReady n = true ↔ s.rd (DMA_CH_W0_RUNST n) = 1 ∧ s.rd (DMA_CH_W4_HEAD n) ≠ s.rd (DMA_CH_W3_TAIL n) ∧ kvFind s.dma.jobs n = none ∧ ∀ r ∈ s.dma.records, r.chan ≠ n := by
  unfold State.dmaReady
  simp [and_assoc]

/-! ### Descriptors that move nothing -/

theorem refused_facts (s : State) (n : Fin 16) (d : Descriptor) (hd : d = readDescriptor (s.dmaFetch n.val)) : ((dmaTaken s n.val).dmaFinish n.val { dmaJob s n.val with descErr := true }).dma.records =
      s.dma.records ++ [⟨n.val, DmaJob.record { dmaJob s n.val with descErr := true } n.val s.tb.now, d.irq⟩] ∧
    ((dmaTaken s n.val).dmaFinish n.val { dmaJob s n.val with descErr := true }).rd (DMA_CH_W4_HEAD n.val) = (s.rd (DMA_CH_W4_HEAD n.val) + 1) % s.dmaSize n.val ∧
    ((dmaTaken s n.val).dmaFinish n.val { dmaJob s n.val with descErr := true }).rd DMA_ERR_CNT_COUNT = (s.rd DMA_ERR_CNT_COUNT + 1) % 2 ^ 32 ∧
    (∀ l, ((dmaTaken s n.val).dmaFinish n.val { dmaJob s n.val with descErr := true }).lane l = s.lane l) ∧ ((dmaTaken s n.val).dmaFinish n.val { dmaJob s n.val with descErr := true }).pst = s.pst := by
  obtain ⟨dma, -, err, head, -, -⟩ := dmaFinish_facts (dmaTaken s n.val) n.val { dmaJob s n.val with descErr := true }
  have keep : (dmaTaken s n.val).rd DMA_ERR_CNT_COUNT = s.rd DMA_ERR_CNT_COUNT := rd_wr_ne _ _ (head_key_ne n.val).2.2.symm
  refine ⟨by rw [dma, hd]; rfl, (head n.val).trans (taken_head s n.val), err.trans (by rw [keep]; rfl), fun l => (dmaFinish_lane _ _ _ l).trans (taken_lane s n.val l), dmaFinish_pst _ _ _⟩

/-- Where the descriptor at CH_HEAD stands (R369). -/
def dmaAt (s : State) (n : Nat) : Nat := 0x08000000 + s.rd (DMA_CH_W1_BASE n) * 32 + s.rd (DMA_CH_W4_HEAD n) * 32

theorem dmaAt_lt (s : State) (n : Nat) : dmaAt s n < 2 ^ 32 := by
  have b : s.rd (DMA_CH_W1_BASE n) < 2 ^ 17 := rd_lt _ _
  have h : s.rd (DMA_CH_W4_HEAD n) < 2 ^ 12 := rd_lt _ _
  unfold dmaAt
  omega

theorem wordUncorrected_pst (s : State) (a : Nat) : (s.wordUncorrected a).pst = s.pst ∧ (s.wordUncorrected a).dma = s.dma ∧ ∀ l, (s.wordUncorrected a).lane l = s.lane l := by
  have o : Only 134225920 s (s.wordUncorrected a) := wordUncorrected_only rfl (Only.refl _)
  exact ⟨pst_of_only o rfl rfl, only_part o .dma rfl, lane_of_only o rfl rfl⟩

/-- The job of a descriptor read poisoned (R378). -/
def poisonedJob (s : State) (n : Nat) : DmaJob := { dmaJob s n with descErr := true, poisonAt := some (dmaAt s n), poisoned := 1 }

theorem dmaStart_poisoned (s : State) (op n : Nat) (e : BusErrors) (r : s.dmaReady n = true) : s.dmaStart op n true e = ((dmaTaken s n).wordUncorrected (dmaAt s n)).dmaFinish n (poisonedJob s n) := by
  have b : (dmaTaken s n).rd (DMA_CH_W1_BASE n) = s.rd (DMA_CH_W1_BASE n) := rd_wr_ne _ _ (base_key_ne n)
  rw [dmaStart_bad s op n e r, b]
  rfl

theorem poisoned_facts (s : State) (n : Fin 16) (d : Descriptor) (hd : d = readDescriptor (s.dmaFetch n.val)) (t : State) (ht : t = ((dmaTaken s n.val).wordUncorrected (dmaAt s n.val)).dmaFinish n.val (poisonedJob s n.val)) :
    ∃ r : Octets, t.dma.records = s.dma.records ++ [⟨n.val, r, d.irq⟩] ∧ octAt r 1 = 3 ∧ leAt r 16 4 = dmaAt s n.val ∧ leAt r 20 2 = 1 ∧ (∀ l : Lane, t.lane l = s.lane l) ∧ t.pst = s.pst := by
  subst ht
  obtain ⟨pst, dma, lanes⟩ := wordUncorrected_pst (dmaTaken s n.val) (dmaAt s n.val)
  obtain ⟨r, r1, -, r2, -, -, -, -, r3, r4, -⟩ := end_facts ((dmaTaken s n.val).wordUncorrected (dmaAt s n.val)) n.val n.isLt (poisonedJob s n.val)
  refine ⟨r, r1.trans (by rw [dma, hd]; rfl), r2, r3.trans (Nat.mod_eq_of_lt (dmaAt_lt s n.val)), r4, fun l => ?_, ?_⟩
  · exact (dmaFinish_lane _ _ _ l).trans ((lanes l).trans (taken_lane s n.val l))
  · exact (dmaFinish_pst _ _ _).trans pst

/-! ### COPY and FILL (R372, R373, R378) -/

theorem refused_len (s : State) (d : Descriptor) (f : s.descRefused d = false) : 0 < d.len := by
  unfold State.descRefused at f
  simp only [Bool.or_eq_false_iff] at f
  obtain ⟨⟨⟨⟨-, h⟩, -⟩, -⟩, -⟩ := f
  by_cases c : d.op = 1
  · rw [if_pos c] at h
    simp only [Bool.or_eq_false_iff, beq_eq_false_iff_ne] at h
    omega
  · rw [if_neg c] at h
    simp only [Bool.or_eq_false_iff, beq_eq_false_iff_ne] at h
    omega

theorem refused_bounds (s : State) (d : Descriptor) (f : s.descRefused d = false) : (d.op = 1 → 0 < d.esize) ∧ (d.op ≠ 1 → d.len ≤ 2 ^ 24) := by
  unfold State.descRefused at f
  simp only [Bool.or_eq_false_iff] at f
  obtain ⟨⟨⟨⟨-, h⟩, -⟩, -⟩, -⟩ := f
  refine ⟨fun op => ?_, fun op => ?_⟩
  · rw [if_pos op] at h
    simp only [Bool.or_eq_false_iff, beq_eq_false_iff_ne] at h
    omega
  · rw [if_neg op] at h
    simp only [Bool.or_eq_false_iff, decide_eq_false_iff_not] at h
    omega

/-- The octets that FILL writes (R373). -/
def fillOctets (d : Descriptor) : Octets := (List.range d.len).map (fun i => octet (octAt d.pattern ((d.dst + i) % 8)))

/-- COPY and FILL write one span where no word is poisoned. -/
theorem span_exec (s : State) (n : Fin 16) {d : Descriptor} (hd : d = readDescriptor (s.dmaFetch n.val)) (hu : s.up = true) (r : s.dmaReady n.val = true) (f : s.descRefused d = false) (c : Instr) (bs : Octets)
    (h : (d.op = 0 ∧ c = .copy n false ⟨[], [], [], []⟩ ∧ s.busRead d.src d.len = some bs) ∨
      (d.op = 2 ∧ c = .fill n false ⟨[], [], [], []⟩ ∧ bs = fillOctets d)) :
    exec c s = .next (((dmaFresh s n.val).write ⟨[], [], [], []⟩ d.dst bs).left n.val (dmaJob s n.val) 1) ∧ bs.length = d.len ∧
    d.span = d.len ∧ d.op ≠ 3 := by
  rcases h with ⟨op, rfl, read⟩ | ⟨op, rfl, fill⟩
  · have e : (dmaFresh s n.val).copy ⟨[], [], [], []⟩ d = (dmaFresh s n.val).write ⟨[], [], [], []⟩ d.dst bs := (copy_clean s n.val _).trans (by rw [read]; rfl)
    have l := busRead_length s d.src d.len
    rw [read] at l
    refine ⟨(dma_exec_up n hu (List.mem_cons_self ..) false _).trans ?_, l, if_neg (by omega), by omega⟩
    rw [copy_start hd.symm _ r op f, e]
  · refine ⟨(dma_exec_up n hu (p := (2, Instr.fill n)) (by simp) false _).trans ?_, by rw [fill]; simp [fillOctets], if_neg (by omega), by omega⟩
    rw [fill_start hd.symm _ r op f, fill]
    rfl

theorem span_sram (s : State) (n : Fin 16) (d : Descriptor) (bs : Octets) (hl : bs.length = d.len) (hd : d.dst < 0x20000000) (t : State) (ht : t = ((dmaFresh s n.val).write ⟨[], [], [], []⟩ d.dst bs).left n.val (dmaJob s n.val) 1) :
    memRead (t.lane s.busLane).sram (d.dst % 0x08000000) d.len = bs ∧ (∀ a : Nat, a < d.dst % 0x08000000 ∨ d.dst % 0x08000000 + d.len ≤ a → memGet (t.lane s.busLane).sram a = memGet (s.lane s.busLane).sram a) ∧
    t.lane s.busLane.other = s.lane s.busLane.other ∧ t.rd (DMA_CH_W4_HEAD n.val) = (s.rd (DMA_CH_W4_HEAD n.val) + 1) % s.dmaSize n.val ∧ kvFind t.dma.jobs n.val = some { dmaJob s n.val with done := d.len } := by
  subst ht
  obtain ⟨k1, k2, k3, k4, k5⟩ := span_core s n.val (dmaFresh s n.val) ⟨[], [], [], []⟩ d bs 1 rfl hd rfl ⟨rfl, rfl, rfl, rfl, rfl, rfl, rfl, fun _ _ _ _ _ => rfl⟩
  rw [hl] at k1 k2 k5
  refine ⟨k1, k2, k3, k4, k5.trans ?_⟩
  rw [show max 1 1 = 1 from rfl, Nat.div_one, show (dmaFresh s n.val).done + d.len = d.len from Nat.zero_add _]
  rfl

theorem copy_poisoned (s : State) (n : Fin 16) (d : Descriptor) (bs : Octets) (e : BusErrors) (hd : d.dst < 0x20000000) (hr : s.busRead d.src d.len = some bs) (he : e.lost = []) (t : State)
    (ht : t = ((dmaFresh s n.val).copy e d).left n.val (dmaJob s n.val) 1) :
    memRead (t.lane s.busLane).sram (d.dst % 0x08000000) d.len = bs.mapIdx (fun i b => if hitsWord (wordsIn (e.poison ++ e.parity) d.src d.len) (d.src + i) then octet 0 else b) ∧
    kvFind t.dma.jobs n.val = some { dmaJob s n.val with done := d.len, poisonAt := (wordsIn (e.poison ++ e.parity) d.src d.len).head?, poisoned := (wordsIn (e.poison ++ e.parity) d.src d.len).length } := by
  subst ht
  obtain ⟨done, busErr, first, count, octets, same⟩ := read_facts (dmaFresh s n.val) e d.src d.len
  have l := busRead_length s d.src d.len
  rw [hr] at l
  have rb : (dmaFresh s n.val).st.busRead d.src d.len = some bs := (taken_busRead s n.val _ _).trans hr
  rw [rb] at octets
  have len : ((dmaFresh s n.val).read e d.src d.len).2.length = d.len := by
    rw [octets, List.length_mapIdx]
    exact l
  obtain ⟨k1, -, -, -, k5⟩ := span_core s n.val ((dmaFresh s n.val).read e d.src d.len).1 e d ((dmaFresh s n.val).read e d.src d.len).2 1 he hd busErr same
  rw [len] at k1 k5
  refine ⟨k1.trans octets, k5.trans ?_⟩
  rw [done, first, count, show max 1 1 = 1 from rfl, Nat.div_one, show (dmaFresh s n.val).done + d.len = d.len from Nat.zero_add _, show (dmaFresh s n.val).count + (wordsIn (e.poison ++ e.parity) d.src d.len).length = _ from Nat.zero_add _]
  rfl

theorem span_pst (s : State) (n : Fin 16) (d : Descriptor) (bs : Octets) (hl : bs.length = d.len) (hd : 0x20D80000 ≤ d.dst) (hw : s.writable d.dst d.len = true) (ha : s.pstAlone .dma (d.dst % 0x20000000) d.len) (t : State)
    (ht : t = ((dmaFresh s n.val).write ⟨[], [], [], []⟩ d.dst bs).left n.val (dmaJob s n.val) 1) :
    t.pstOctets (d.dst % 0x20000000) d.len = bs ∧ (∀ l : Lane, t.lane l = s.lane l) ∧ t.rd (DMA_CH_W4_HEAD n.val) = (s.rd (DMA_CH_W4_HEAD n.val) + 1) % s.dmaSize n.val ∧
    kvFind t.dma.jobs n.val = some { dmaJob s n.val with done := d.len } := by
  subst ht
  obtain ⟨h1, h2, h3⟩ := writable_pst s d.dst d.len hw (by omega)
  obtain ⟨k1, k2, k3, k4⟩ := pst_core s n.val d bs hl hd h1 h3 h2 ha
  exact ⟨k1, k3, k2, k4⟩

/-- The first word refused ends the span (R372). -/
theorem write_refused (r : DmaRun) (d : Descriptor) (bs : Octets) (hl : bs.length = d.len) (h0 : 0 < d.len) (h4 : d.len % 4 = 0) (ha : d.dst % 4 = 0) (h1 : 0x20000000 ≤ d.dst) (h2 : d.dst < 0x20D80000) (hb : r.busErr = false) :
    r.write ⟨[], [], [], []⟩ d.dst bs = { r with st := r.st.pstRefuse (d.dst % 0x20000000), busErr := true } := by
  unfold DmaRun.write
  rw [if_neg (by omega)]
  unfold pstSpan
  have ne : bs.isEmpty = false := by
    rw [List.isEmpty_eq_false_iff]
    rintro rfl
    simp only [List.length_nil] at hl
    omega
  have word : pstWord ⟨[], [], [], []⟩ d.dst (leAt bs 0 4) r = { r with st := r.st.pstRefuse (d.dst % 0x20000000), busErr := true } := by
    unfold pstWord
    rw [if_neg (by simp [hb]), if_neg (by simp [hitsWord])]
    unfold State.pstWrite
    rw [if_neg (by rw [dma_not_allowed r.st _ (by omega)]; exact Bool.false_ne_true)]
    rfl
  rw [if_neg (by rw [ne]; exact Bool.false_ne_true), if_neg (by omega), word]
  exact pstSpan_stop _ _ _ _ _ rfl

theorem span_refused (s : State) (n : Fin 16) (d : Descriptor) (hd : d = readDescriptor (s.dmaFetch n.val)) (bs : Octets) (hl : bs.length = d.len) (h0 : 0 < d.len) (h1 : 0x20000000 ≤ d.dst) (h2 : d.dst < 0x20D80000) (hw : s.writable d.dst d.len = true) (t : State)
    (ht : t = ((dmaFresh s n.val).write ⟨[], [], [], []⟩ d.dst bs).left n.val (dmaJob s n.val) 1) :
    t.pst = s.pst ∧ t.rd PST_STATUS_WPERR = 1 ∧ (∀ l : Lane, t.lane l = s.lane l) ∧
    ∃ r : Octets, t.dma.records = s.dma.records ++ [⟨n.val, r, d.irq⟩] ∧ octAt r 1 = 2 ∧ leAt r 4 4 = 0 := by
  obtain ⟨-, ha, h4⟩ := writable_pst s d.dst d.len hw h1
  have e := write_refused (dmaFresh s n.val) d bs hl h0 h4 ha h1 h2 rfl
  rw [e] at ht
  subst ht
  obtain ⟨lanes, pst, rd, record⟩ := left_busErr { dmaFresh s n.val with st := (dmaFresh s n.val).st.pstRefuse (d.dst % 0x20000000), busErr := true } n.isLt (dmaJob s n.val) 1 rfl rfl rfl
  refine ⟨pst, (rd PST_STATUS_WPERR (by decide) (by decide)).trans ?_, fun l => (lanes l).trans ?_, irq_of_job hd ▸ record⟩
  · exact (rd_wr_ne _ _ (by decide)).trans (rd_wr_same _ _ _)
  · cases l <;> rfl

/-! ### GATHER (R372) -/

theorem readable_read {s : State} {a n : Nat} (h : s.readable a n = true) : s.busRead a n = some ((s.busRead a n).getD (zeros n)) := by
  unfold State.readable at h
  unfold State.busRead
  obtain ⟨x, hx⟩ := Option.isSome_iff_exists.mp h
  rw [hx]
  rfl

theorem taken_readable (s : State) (n a k : Nat) : (dmaTaken s n).readable a k = s.readable a k := rfl

/-- The address of element `k` (R372). -/
def gatherAt (s : State) (d : Descriptor) (A : Nat → Nat) : Prop := ∀ k : Nat, k < d.len → A k = (d.src + leAt ((s.busRead (d.idx + 4 * k) 4).getD (zeros 4)) 0 4) % 2 ^ 32

theorem gatherAt_taken {s : State} {d : Descriptor} {A : Nat → Nat} (n : Nat) (h : gatherAt s d A) : ∀ k, k < d.len → A k = (d.src + leAt (((dmaTaken s n).busRead (d.idx + 4 * k) 4).getD (zeros 4)) 0 4) % 4294967296 :=
  fun k hk => by rw [taken_busRead]; exact h k hk

theorem gather_run (s : State) (n : Nat) (d : Descriptor) (op : d.op = 1) (hd : d.dst < 0x20000000) (hw : s.writable d.dst d.span = true) {A : Nat → Nat} (hA : gatherAt s d A)
    (hI : ∀ k : Nat, k < d.len → d.idx + 4 * k + 4 ≤ d.dst ∨ d.dst + d.len * d.esize ≤ d.idx + 4 * k)
    (hE : ∀ k : Nat, k < d.len → s.readable (A k) d.esize = true ∧ (A k + d.esize ≤ d.dst ∨ d.dst + d.len * d.esize ≤ A k)) :
    ∃ m, gatherFrom ⟨[], [], [], []⟩ d d.len 0 (dmaFresh s n) = ⟨put (dmaTaken s n) m, none, 0, d.len * d.esize, false⟩ ∧
      (∀ a, a < d.dst % 0x08000000 ∨ d.dst % 0x08000000 + d.len * d.esize ≤ a → memGet m a = memGet (s.lane s.busLane).sram a) ∧
      ∀ k, k < d.len → s.busRead (A k) d.esize = some (memRead m (d.dst % 0x08000000 + k * d.esize) d.esize) := by
  rw [show d.span = d.len * d.esize from if_pos op] at hw
  have whole := writable_sram s _ _ hw hd
  obtain ⟨m, e1, e2, e3⟩ := gather_clean (dmaTaken s n) d whole A (gatherAt_taken n hA) hI hE d.len 0 ((dmaTaken s n).lane (dmaTaken s n).busLane).sram 0 (Nat.zero_add _) (fun _ _ => rfl)
  rw [put_self, Nat.zero_add] at e1
  rw [taken_lane, taken_busLane] at e2
  refine ⟨m, e1, fun a ha => e2 a (by rw [Nat.zero_mul, Nat.add_zero]; exact ha), fun k hk => ?_⟩
  rw [e3 k (Nat.zero_le _) hk, taken_busRead]
  exact readable_read (hE k hk).1

theorem left_held (w : DmaRun) (n : Nat) (j : DmaJob) (unit : Nat) (hb : w.busErr = false) : kvFind (w.left n j unit).dma.jobs n = some (j.after w unit) ∧ ∀ l, (w.left n j unit).lane l = w.st.lane l := by
  have e : w.left n j unit = (w.st.dmaHold n (j.after w unit) false).freeTick := by
    unfold DmaRun.left
    rw [hb]
    rfl
  obtain ⟨job, -, lanes⟩ := hold_facts w.st n (j.after w unit)
  rw [e]
  exact ⟨job, lanes⟩

theorem gather_facts (s : State) (n : Nat) (d : Descriptor) (hl : 0 < d.esize) (op : d.op = 1) (hd : d.dst < 0x20000000) (hw : s.writable d.dst d.span = true) {A : Nat → Nat} (hA : gatherAt s d A)
    (hI : ∀ k : Nat, k < d.len → d.idx + 4 * k + 4 ≤ d.dst ∨ d.dst + d.len * d.esize ≤ d.idx + 4 * k)
    (hE : ∀ k : Nat, k < d.len → s.readable (A k) d.esize = true ∧ (A k + d.esize ≤ d.dst ∨ d.dst + d.len * d.esize ≤ A k)) (t : State)
    (ht : t = (gatherFrom ⟨[], [], [], []⟩ d d.len 0 (dmaFresh s n)).left n (dmaJob s n) d.esize) :
    (∀ k : Nat, k < d.len → s.busRead (A k) d.esize = some (memRead (t.lane s.busLane).sram (d.dst % 0x08000000 + k * d.esize) d.esize)) ∧
    (∀ a : Nat, a < d.dst % 0x08000000 ∨ d.dst % 0x08000000 + d.len * d.esize ≤ a → memGet (t.lane s.busLane).sram a = memGet (s.lane s.busLane).sram a) ∧
    kvFind t.dma.jobs n = some { dmaJob s n with done := d.len } := by
  obtain ⟨m, run, outside, inside⟩ := gather_run s n d op hd hw hA hI hE
  rw [run] at ht
  subst ht
  obtain ⟨job, lanes⟩ := left_held ⟨put (dmaTaken s n) m, none, 0, d.len * d.esize, false⟩ n (dmaJob s n) d.esize rfl
  have sram : ((DmaRun.left ⟨put (dmaTaken s n) m, none, 0, d.len * d.esize, false⟩ n (dmaJob s n) d.esize).lane s.busLane).sram = m := by
    rw [lanes]
    exact taken_busLane s n ▸ put_lane (dmaTaken s n) m
  rw [sram]
  refine ⟨inside, outside, job.trans ?_⟩
  unfold DmaJob.after
  simp only
  rw [show max 1 d.esize = d.esize by omega, Nat.mul_div_cancel _ hl]
  rfl

theorem gather_outside (s : State) (n : Fin 16) (d : Descriptor) (hd : d = readDescriptor (s.dmaFetch n.val)) (h0 : 0 < d.len) {A : Nat → Nat} (hA : gatherAt s d A) (hr : s.readable (A 0) d.esize = false) (t : State)
    (ht : t = (gatherFrom ⟨[], [], [], []⟩ d d.len 0 (dmaFresh s n.val)).left n.val (dmaJob s n.val) d.esize) :
    (∀ l : Lane, t.lane l = s.lane l) ∧ t.pst = s.pst ∧ ∃ r : Octets, t.dma.records = s.dma.records ++ [⟨n.val, r, d.irq⟩] ∧ octAt r 1 = 2 ∧ leAt r 4 4 = 0 := by
  have run : gatherFrom ⟨[], [], [], []⟩ d d.len 0 (dmaFresh s n.val) = { dmaFresh s n.val with busErr := true } := by
    obtain ⟨k, hk⟩ : ∃ k, d.len = k + 1 := ⟨d.len - 1, by omega⟩
    have a0 : (d.src + leAt (((dmaFresh s n.val).st.busRead (d.idx + 4 * 0) 4).getD (zeros 4)) 0 4) % 4294967296 = A 0 := (gatherAt_taken n.val hA 0 h0).symm
    have nb : hitsWord ([] ++ []) (d.idx + 4 * 0) = false := rfl
    rw [hk]
    unfold gatherFrom
    rw [if_neg (by exact Bool.false_ne_true), read_clean]
    simp only [nb]
    rw [if_neg Bool.false_ne_true, a0, if_neg (by rw [show (dmaFresh s n.val).st.readable (A 0) d.esize = false from hr]; exact Bool.false_ne_true)]
  rw [run] at ht
  subst ht
  obtain ⟨lanes, pst, -, record⟩ := left_busErr { dmaFresh s n.val with busErr := true } n.isLt (dmaJob s n.val) d.esize rfl rfl rfl
  exact ⟨fun l => (lanes l).trans (taken_lane s n.val l), pst, irq_of_job hd ▸ record⟩

/-! ### COMPARE (R374) -/

theorem busRead_lt {s : State} {a n : Nat} {bs : Octets} (h : s.busRead a n = some bs) : a + n < 2 ^ 32 := by
  unfold State.busRead State.region at h
  split at h
  · rename_i c
    split at c
    · omega
    · split at c
      · omega
      · split at c
        · omega
        · split at c
          · omega
          · exact absurd c (by simp)
  · exact absurd h (by simp)

/-- The positions at which two spans differ (R374). -/
def differences (as bs : Octets) (n : Nat) : List Nat := (List.range n).filter (fun k => as[k]? != bs[k]?)

theorem misses_clean (d : Descriptor) {as bs : Octets} (ha : as.length = d.len) (hb : bs.length = d.len) : misses ⟨[], [], [], []⟩ d 0 as bs = (differences as bs d.len).map (fun k => d.src + k) := by
  have test : missAt ⟨[], [], [], []⟩ d 0 as bs = fun k => as[k]? != bs[k]? := rfl
  rw [misses_eq _ d as bs 0 (ha.trans hb.symm), ha, test]
  simp only [Nat.zero_add]
  rfl

theorem differences_le (as bs : Octets) (n : Nat) : (differences as bs n).length ≤ n := (List.length_filter_le _ _).trans (by simp)

theorem differences_lt {as bs : Octets} {n k : Nat} (h : k ∈ differences as bs n) : k < n := List.mem_range.mp (List.mem_filter.mp h).1

/-- The job of a COMPARE (R374). -/
def comparedJob (s : State) (n : Nat) (d : Descriptor) (ms : List Nat) : DmaJob := { dmaJob s n with done := d.len, misCount := ms.length, misAddr := (ms.map (fun k => d.src + k)).head? }

theorem compare_run (s : State) (n : Nat) {d : Descriptor} (hd : d = readDescriptor (s.dmaFetch n)) (as bs : Octets) (r : s.dmaReady n = true) (f : s.descRefused d = false) (op : d.op = 3)
    (ha : s.busRead d.src d.len = some as) (hb : s.busRead d.dst d.len = some bs) :
    s.dmaStart 3 n false ⟨[], [], [], []⟩ = ((dmaTaken s n).dmaFinish n (comparedJob s n d (differences as bs d.len))).freeTick := by
  have work := dmaStart_work s 3 n ⟨[], [], [], []⟩ r (hd ▸ op) (hd ▸ f)
  rw [← hd] at work
  rw [work]
  have la := busRead_length s d.src d.len
  have lb := busRead_length s d.dst d.len
  rw [ha] at la
  rw [hb] at lb
  unfold State.dmaWork
  rw [if_pos op]
  simp only [read_clean]
  rw [taken_busRead, taken_busRead, ha, hb, show misses ⟨[], [], [], []⟩ d 0 ((some as).getD (zeros d.len)) ((some bs).getD (zeros d.len)) = _ from misses_clean d la lb, List.length_map]
  rfl

theorem compare_facts (s : State) (n : Fin 16) (as bs : Octets) (d : Descriptor) (hd : d = readDescriptor (s.dmaFetch n.val)) (op : d.op = 3) (hl : d.len ≤ 2 ^ 24) (ha : s.busRead d.src d.len = some as) (t : State)
    (ht : t = ((dmaTaken s n.val).dmaFinish n.val (comparedJob s n.val d (differences as bs d.len))).freeTick) :
    (∀ l : Lane, t.lane l = s.lane l) ∧ t.pst = s.pst ∧ ∃ r : Octets, t.dma.records = s.dma.records ++ [⟨n.val, r, d.irq⟩] ∧ octAt r 0 = n.val ∧ octAt r 1 = 0 ∧ leAt r 4 4 = d.len ∧
      leAt r 8 4 = (differences as bs d.len).length ∧ leAt r 12 4 = ((differences as bs d.len).head?).elim 0xFFFFFFFF (fun k => d.src + k) ∧ octAt r 22 = 3 ∧ leAt r 24 8 = ts64 s.tb.now % 2 ^ 64 := by
  subst ht
  obtain ⟨r, r1, r2, r3, -, r4, r5, r6, -, -, r7, r8⟩ := end_facts (dmaTaken s n.val) n.val n.isLt (comparedJob s n.val d (differences as bs d.len))
  have top := busRead_lt ha
  have cnt := differences_le as bs d.len
  refine ⟨fun l => ?_, dmaFinish_pst _ _ _, r, r1.trans (by rw [hd]; rfl), r2, r3, r4.trans (Nat.mod_eq_of_lt (by show d.len < _; omega)), r5.trans (Nat.mod_eq_of_lt (by show (differences as bs d.len).length < _; omega)), r6.trans ?_,
    r7.trans ?_, r8⟩
  · exact (show _ = ((dmaTaken s n.val).dmaFinish n.val (comparedJob s n.val d (differences as bs d.len))).lane l by cases l <;> rfl).trans ((dmaFinish_lane _ _ _ l).trans (taken_lane s n.val l))
  · show ((((differences as bs d.len).map (fun k => d.src + k)).head?).getD 0xFFFFFFFF) % 2 ^ 32 = _
    rw [List.head?_map]
    cases c : (differences as bs d.len).head? with
    | none => rfl
    | some k =>
      have := differences_lt (List.mem_of_head? c)
      exact Nat.mod_eq_of_lt (by show d.src + k < _; omega)
  · rw [hd] at op
    exact op

/-! ### Completion and its record (R375 to R377) -/

theorem not_dma_of_drained {s : State} (h : s.pstHas .dma = false) : ∀ x ∈ s.pst.buffer, x.writer ≠ .dma := by
  intro x hx e
  unfold State.pstHas at h
  rw [List.any_eq_false] at h
  exact h x hx (by rw [e]; rfl)

theorem dmaComplete_none {s : State} {n : Nat} (h : kvFind s.dma.jobs n = none) : s.dmaComplete n = s := by unfold State.dmaComplete; rw [h]
theorem dmaComplete_some {s : State} {n : Nat} {j : DmaJob} (h : kvFind s.dma.jobs n = some j) : s.dmaComplete n = (s.pstDrain .dma).dmaFinish n { j with aborted := s.rd (DMA_CH_W0_RUNST n) == 2 } := by
  unfold State.dmaComplete; rw [h]
theorem dmaTimeout_none {s : State} {n : Nat} (g : Nat) (h : kvFind s.dma.jobs n = none) : s.dmaTimeout n g = s := by unfold State.dmaTimeout; rw [h]
theorem dmaTimeout_early {s : State} {n g : Nat} {j : DmaJob} (h : kvFind s.dma.jobs n = some j) (e : s.elapsed ≤ j.issued + max 1 (s.rd (DMA_CH_W5_RTO n)) * 1000) : s.dmaTimeout n g = s := by
  unfold State.dmaTimeout; rw [h]; exact if_pos e
theorem dmaTimeout_due {s : State} {n g : Nat} {j : DmaJob} (h : kvFind s.dma.jobs n = some j) (e : j.issued + max 1 (s.rd (DMA_CH_W5_RTO n)) * 1000 < s.elapsed) :
    s.dmaTimeout n g = (s.pstDrain .dma).dmaFinish n { j with timedOut := true, done := min g j.done } := by
  unfold State.dmaTimeout; rw [h]; exact if_neg (Nat.not_le.mpr e)

theorem dmaEnded_facts (s : State) (n : Fin 16) (i : DmaJob) (t : State) (ht : t = (s.pstDrain .dma).dmaFinish n.val i) : t.dma.jobs = kvErase s.dma.jobs n.val ∧ (∀ x ∈ t.pst.buffer, x.writer ≠ .dma) ∧
    t.rd DMA_DONE_CNT_COUNT = (s.rd DMA_DONE_CNT_COUNT + 1) % 2 ^ 32 ∧ t.rd DMA_ERR_CNT_COUNT = (s.rd DMA_ERR_CNT_COUNT + if i.status = 0 then 0 else 1) % 2 ^ 32 ∧
    ∃ r : Octets, t.dma.records = s.dma.records ++ [⟨n.val, r, (readDescriptor i.desc).irq⟩] ∧ octAt r 0 = n.val ∧ octAt r 1 = i.status ∧ leAt r 2 2 = i.index % 65536 ∧ leAt r 4 4 = i.done % 2 ^ 32 ∧
      leAt r 16 4 = (i.poisonAt.getD 0xFFFFFFFF) % 2 ^ 32 ∧ leAt r 20 2 = min 65535 i.poisoned ∧ octAt r 22 = octAt i.desc 0 ∧ leAt r 24 8 = ts64 s.tb.now % 2 ^ 64 := by
  subst ht
  have o : Only 140857747447808 s (s.pstDrain .dma) := pstDrain_only rfl (Only.refl _)
  have dma : (s.pstDrain .dma).dma = s.dma := only_part o .dma rfl
  have tb : (s.pstDrain .dma).tb = s.tb := only_part o .tb rfl
  have drained := not_dma_of_drained (pstDrain_none s .dma (by decide))
  obtain ⟨k1, k2, k3, -⟩ := dmaFinish_facts (s.pstDrain .dma) n.val i
  obtain ⟨r, r1, r2, r3, r4, r5, -, -, r6, r7, r8, r9⟩ := end_facts (s.pstDrain .dma) n.val n.isLt i
  refine ⟨by rw [k1, dma], by rw [dmaFinish_pst]; exact drained, k2.trans (by rw [only_rd o (by decide)]), k3.trans (by rw [only_rd o (by decide)]), r, r1.trans (by rw [dma]), r2, r3, r4, r5, r6, r7, r8, r9.trans (by rw [tb])⟩

theorem dmaRecordWrite_none {s : State} (h : s.dma.records = []) : s.dmaRecordWrite = s := by unfold State.dmaRecordWrite; rw [h]

theorem dmaRecordWrite_full {s : State} {r : DmaRecord} {rest : List DmaRecord} (h : s.dma.records = r :: rest) (f : (s.rd DMA_CQ_WR_VALUE + 1) % s.cqSize = s.rd DMA_CQ_RD_VALUE % s.cqSize) :
    s.dmaRecordWrite = s.wr DMA_STATUS_CQWAIT 1 := by
  unfold State.dmaRecordWrite
  rw [h]
  exact if_pos f

/-- A record's octets as they stand in the queue, with PHASE (R377). -/
def phased (s : State) (r : DmaRecord) : Octets := r.octets.take 23 ++ [octet (b2n s.dma.phase)] ++ r.octets.drop 24

/-- A record's octets written, the record gone from those that wait. -/
def State.recordPut (s : State) (r : DmaRecord) (rest : List DmaRecord) (next : Nat) : State :=
  { s.sramWrite s.busLane (s.rd DMA_CQ_BASE_BASE * 32 + s.rd DMA_CQ_WR_VALUE * 32) (phased s r) with dma := { s.dma with records := rest, phase := if next = 0 then !s.dma.phase else s.dma.phase } }

theorem sramWrite_dma (s : State) (l : Lane) (o : Nat) (bs : Octets) : (s.sramWrite l o bs).dma = s.dma := by cases l <;> rfl

theorem dmaRecordWrite_room {s : State} {r : DmaRecord} {rest : List DmaRecord} {next : Nat} (h : s.dma.records = r :: rest) (hn : next = (s.rd DMA_CQ_WR_VALUE + 1) % s.cqSize) (f : next ≠ s.rd DMA_CQ_RD_VALUE % s.cqSize) :
    s.dmaRecordWrite = ((((s.recordPut r rest next).wr DMA_CQ_WR_VALUE next).wr DMA_STATUS_CQNEW 1).raiseIf r.irq DMA_STATUS_CQIRQ).raiseIf (octAt r.octets 1 != 0) DMA_STATUS_ERR := by
  unfold State.dmaRecordWrite
  rw [h]
  simp only
  rw [← hn, if_neg f, sramWrite_dma]
  rfl

theorem recordPut_facts (s : State) (r : DmaRecord) (rest : List DmaRecord) (next : Nat) (hl : r.octets.length = 32) :
    memRead ((s.recordPut r rest next).lane s.busLane).sram (s.rd DMA_CQ_BASE_BASE * 32 + s.rd DMA_CQ_WR_VALUE * 32) 32 = phased s r ∧ (s.recordPut r rest next).lane s.busLane.other = s.lane s.busLane.other := by
  obtain ⟨sram, other⟩ := sramWrite_lane s s.busLane (s.rd DMA_CQ_BASE_BASE * 32 + s.rd DMA_CQ_WR_VALUE * 32) (phased s r)
  have same : ∀ l, (s.recordPut r rest next).lane l = (s.sramWrite s.busLane (s.rd DMA_CQ_BASE_BASE * 32 + s.rd DMA_CQ_WR_VALUE * 32) (phased s r)).lane l := fun l => by cases l <;> rfl
  have len : (phased s r).length = 32 := by
    unfold phased
    simp [hl]
  have m := memRead_memWrite (s.lane s.busLane).sram (s.rd DMA_CQ_BASE_BASE * 32 + s.rd DMA_CQ_WR_VALUE * 32) (phased s r)
  rw [len] at m
  exact ⟨by rw [same, sram]; exact m, by rw [same]; exact other⟩

theorem raiseIf_lane (u : State) (b : Bool) (f : Field) (l : Lane) : (u.raiseIf b f).lane l = u.lane l ∧ (u.raiseIf b f).dma = u.dma := by
  unfold State.raiseIf
  split
  · exact ⟨by cases l <;> rfl, rfl⟩
  · exact ⟨rfl, rfl⟩

theorem record_written (u : State) (next : Nat) (irq err : Bool) (t : State) (hn : next < 4096) (ht : t = (((u.wr DMA_CQ_WR_VALUE next).wr DMA_STATUS_CQNEW 1).raiseIf irq DMA_STATUS_CQIRQ).raiseIf err DMA_STATUS_ERR) :
    (∀ l, t.lane l = u.lane l) ∧ t.dma = u.dma ∧ t.rd DMA_CQ_WR_VALUE = next ∧ t.rd DMA_STATUS_CQNEW = 1 ∧ (irq = true → t.rd DMA_STATUS_CQIRQ = 1) ∧ (err = true → t.rd DMA_STATUS_ERR = 1) := by
  subst ht
  refine ⟨fun l => ?_, (raiseIf_lane _ _ _ .A).2.trans (raiseIf_lane _ _ _ .A).2, ?_, ?_, fun h => ?_, fun h => raiseIf_rd_true _ h (by decide)⟩
  · rw [(raiseIf_lane _ _ _ l).1, (raiseIf_lane _ _ _ l).1]
    cases l <;> rfl
  · rw [raiseIf_rd_ne _ (by decide), raiseIf_rd_ne _ (by decide), rd_wr_ne _ _ (by decide), rd_wr_same]
    exact Nat.mod_eq_of_lt hn
  · rw [raiseIf_rd_ne _ (by decide), raiseIf_rd_ne _ (by decide), rd_wr_same]
    rfl
  · rw [raiseIf_rd_ne _ (by decide)]
    exact raiseIf_rd_true _ h (by decide)

theorem cqSize_le (s : State) : 0 < s.cqSize ∧ s.cqSize ≤ 4096 := by
  have : s.rd DMA_CQ_SIZE_VALUE < 2 ^ 12 := rd_lt _ _
  unfold State.cqSize
  omega

/-! ### The statement -/

theorem tailWrite_answers (s : State) (l : Lane) (n : Fin 16) (v : Word) (h : s.serves l) : Answers (.dmaTailWrite l n v) s (fun t => t.rd (DMA_CH_W3_TAIL n.val) = v.toNat % 4096 ∧ t.dma = s.dma) := by
  obtain ⟨lk, fn, bh⟩ := tail_lock n
  have e : s.writeField (DMA_CH_W3_TAIL n.val) .rw (bits v.toNat 0 12) = s.wr (DMA_CH_W3_TAIL n.val) (bits v.toNat 0 12) := by
    unfold State.writeField
    rw [if_neg (by rw [bh]; exact Bool.false_ne_true)]
    simp only [fieldLock_none lk, fn]
  refine ⟨_, (dmaTailWrite_serves n v h).trans (congrArg Host.Outcome.next e), (rd_wr_same _ _ _).trans ?_, rfl⟩
  show bits v.toNat 0 12 % 2 ^ 12 = _
  simp [bits]

/-- Settles O57. -/
theorem dmaWork : Obligations.DmaWork := by
  refine ⟨tailWrite_answers, dmaReady_iff, ?_, ?_, ?_⟩
  · intro s n d j hu hd hj
    have hj : j = dmaJob s n.val := hj
    subst hj
    refine ⟨fun p hp => ⟨fun h bad e => ?_, fun ready e => ⟨fun h3 hop => ?_, fun hop refused => ?_, ?_⟩⟩, fun ready accepted => ⟨fun c bs hc => ?_, fun bs e op dst read lost => ?_, fun op dst A hA => ⟨fun apart readable => ?_, fun outside => ?_⟩, ?_⟩⟩
    · rw [dma_exec_up n hu hp, dmaStart_idle s _ _ _ _ (.inl h)]
    · rw [dma_exec_up n hu hp, dmaStart_idle s _ _ _ _ (.inr ⟨rfl, hd ▸ h3, hd ▸ hop⟩)]
    · exact ⟨_, (dma_exec_up n hu hp false e).trans (congrArg Host.Outcome.next (dmaStart_refused s _ _ e ready (hd ▸ hop) (hd ▸ refused))), refused_facts s n d hd⟩
    · exact ⟨_, (dma_exec_up n hu hp true e).trans (congrArg Host.Outcome.next (dmaStart_poisoned s _ _ e ready)), poisoned_facts s n d hd _ rfl⟩
    · obtain ⟨run, len, span, op⟩ := span_exec s n hd hu ready accepted c bs hc
      have writable := refused_dst s _ accepted op
      rw [span] at writable
      exact ⟨fun dst => ⟨_, run, span_sram s n _ bs len dst _ rfl⟩, fun dst alone => ⟨_, run, span_pst s n _ bs len dst writable alone _ rfl⟩,
        fun dst low => ⟨_, run, span_refused s n d hd bs len (refused_len s _ accepted) dst low writable _ rfl⟩⟩
    · exact ⟨_, (dma_exec_up n hu (p := (0, Instr.copy n)) (List.mem_cons_self ..) false e).trans (congrArg Host.Outcome.next (copy_start hd.symm e ready op accepted)), copy_poisoned s n _ bs e dst read lost _ rfl⟩
    · have writable := refused_dst s _ accepted (by omega)
      refine ⟨_, (dma_exec_up n hu (p := (1, Instr.gather n)) (by simp) false _).trans (congrArg Host.Outcome.next (gather_start hd.symm _ ready op accepted)), ?_⟩
      exact gather_facts s n.val _ ((refused_bounds s _ accepted).1 op) op dst writable hA apart readable _ rfl
    · refine ⟨_, (dma_exec_up n hu (p := (1, Instr.gather n)) (by simp) false _).trans (congrArg Host.Outcome.next (gather_start hd.symm _ ready op accepted)), ?_⟩
      exact gather_outside s n d hd (refused_len s _ accepted) hA outside _ rfl
    · intro as bs ms op ra rb hms
      have hms : ms = differences as bs d.len := hms
      subst hms
      exact ⟨_, (dma_exec_up n hu (p := (3, Instr.compare n)) (by simp) false _).trans (congrArg Host.Outcome.next (compare_run s n.val hd as bs ready accepted op ra rb)),
        compare_facts s n as bs d hd op ((refused_bounds s _ accepted).2 (by omega)) ra _ rfl⟩
  · intro s n hu
    refine ⟨fun none => ⟨?_, fun got => ?_⟩, fun j got job early => ?_, fun j c i job h => ?_⟩
    · exact congrArg Host.Outcome.next ((whenUp_up hu).trans (dmaComplete_none none))
    · exact congrArg Host.Outcome.next ((whenUp_up hu).trans (dmaTimeout_none got none))
    · exact congrArg Host.Outcome.next ((whenUp_up hu).trans (dmaTimeout_early job early))
    · rcases h with ⟨rfl, rfl⟩ | ⟨got, due, rfl, rfl⟩
      · exact ⟨_, congrArg Host.Outcome.next ((whenUp_up hu).trans (dmaComplete_some job)), dmaEnded_facts s n _ _ rfl⟩
      · exact ⟨_, congrArg Host.Outcome.next ((whenUp_up hu).trans (dmaTimeout_due job due)), dmaEnded_facts s n _ _ rfl⟩
  · intro s hu
    refine ⟨fun none => congrArg Host.Outcome.next ((whenUp_up hu).trans (dmaRecordWrite_none none)), fun r rest next hr hn => ⟨fun full => ?_, fun room len => ?_⟩⟩
    · exact congrArg Host.Outcome.next ((whenUp_up hu).trans (dmaRecordWrite_full hr (hn ▸ full)))
    · obtain ⟨pos, top⟩ := cqSize_le s
      have small : next < 4096 := by
        rw [hn]
        exact (Nat.mod_lt _ pos).trans_le top
      obtain ⟨lanes, dma, wr, new, irq, err⟩ := record_written (s.recordPut r rest next) next r.irq (octAt r.octets 1 != 0) _ small rfl
      obtain ⟨put, other⟩ := recordPut_facts s r rest next len
      refine ⟨_, congrArg Host.Outcome.next ((whenUp_up hu).trans (dmaRecordWrite_room hr hn room)), ?_, (lanes _).trans other, wr, new, irq, fun h => err (bne_iff_ne.mpr h), dma⟩
      rw [lanes]
      exact put

end Sys2Proof.Machine

/-! PROOFS. Windows of metering (R257 to R279). -/
namespace Sys2Proof.Machine
set_option Elab.async false

/-! ### Fields that an operation leaves alone -/

/-- The fields of a class read the same in two states. -/
def Keeps (P : Field → Prop) (s t : State) : Prop := ∀ f, P f → t.rd f = s.rd f

section
variable {P : Field → Prop} {r s t : State}

theorem Keeps.refl (s : State) : Keeps P s s := fun _ _ => rfl

theorem Keeps.trans (h : Keeps P r s) (k : Keeps P s t) : Keeps P r t := fun f hf => (k f hf).trans (h f hf)

theorem Keeps.regs (h : Keeps P r s) (e : t.regs = s.regs) : Keeps P r t := h.trans fun _ _ => by simp only [State.rd, e]

theorem Keeps.wr (h : Keeps P r s) {g : Field} (hg : ∀ f, P f → f.key ≠ g.key) (v : Nat) : Keeps P r (s.wr g v) := h.trans fun f hf => rd_wr_ne s v (hg f hf)

theorem Keeps.raiseIf (h : Keeps P r s) {g : Field} (hg : ∀ f, P f → f.key ≠ g.key) (b : Bool) : Keeps P r (s.raiseIf b g) := h.trans fun f hf => raiseIf_rd_ne s (hg f hf)

theorem Keeps.count (h : Keeps P r s) {g w : Field} (hg : ∀ f, P f → f.key ≠ g.key) (hw : ∀ f, P f → f.key ≠ w.key) : Keeps P r (s.count g w) := h.trans fun f hf => count_rd_ne s (hg f hf) (hw f hf)

theorem Keeps.only (h : Keeps P r s) {m : Nat} (o : Only m s t) (hm : ∀ f, P f → (decide (f.block < 22) && !m.testBit f.block) = true) : Keeps P r t :=
  h.trans fun f hf => only_rd o (hm f hf)

theorem Keeps.foldl {α : Type} {op : State → α → State} (h : Keeps P r s) (hop : ∀ u x, Keeps P u (op u x)) (L : List α) : Keeps P r (L.foldl op s) := by
  induction L generalizing s with
  | nil => exact h
  | cons x L ih => exact ih (h.trans (hop s x))

theorem Keeps.ite {c : Prop} [Decidable c] (h : Keeps P r s) (k : Keeps P r t) : Keeps P r (if c then s else t) := by
  split
  · exact h
  · exact k

end

/-! ### MTR_CTRL stands while windows are booked -/

/-- The fields of MTR_CTRL. -/
def MeterCtrl (f : Field) : Prop := f ∈ [MTR_CTRL_RUNST, MTR_CTRL_EN, MTR_CTRL_MODE]

theorem meterCtrl_ne {g : Field} (hg : g.lo < 1024 ∧ g.reg ≠ 0x400C0000) (f : Field) (hf : MeterCtrl f) : f.key ≠ g.key := by
  obtain ⟨lo, reg⟩ := hg
  simp only [MeterCtrl, List.mem_cons, List.not_mem_nil, or_false] at hf
  rcases hf with rfl | rfl | rfl <;> (unfold Field.key; simp only [MTR_CTRL_RUNST, MTR_CTRL_EN, MTR_CTRL_MODE]; omega)

theorem meterCtrl_block (f : Field) (hf : MeterCtrl f) : f.block = 12 := by
  simp only [MeterCtrl, List.mem_cons, List.not_mem_nil, or_false] at hf
  rcases hf with rfl | rfl | rfl <;> rfl

theorem meterEvent_ctrl (s : State) (n k : Nat) (p : Octets) (x : Nat) : Keeps MeterCtrl s (s.meterEvent n k p x) := fun f hf => by
  have b := meterCtrl_block f hf
  exact meterEvent_rd _ _ _ _ _ (meterCtrl_ne (by decide) f hf) (by omega) (by omega)

theorem accumulate_ctrl (s : State) (m e : Nat) : Keeps MeterCtrl s (s.accumulate m e) := by
  have acc (u : State) (n v : Nat) (h : Keeps MeterCtrl s u) : Keeps MeterCtrl s (u.wr (MTR_ACC_COUNT n) v) := h.wr (meterCtrl_ne (by simp only [MTR_ACC_COUNT]; omega)) v
  unfold State.accumulate
  simp only
  generalize hu : ({ s with mtr := { s.mtr with residues := kvSet s.mtr.residues m (((kvFind s.mtr.residues m).getD 0 + e) % 4294967296) } } : State) = u
  have first : Keeps MeterCtrl s u := by
    rw [← hu]
    exact (Keeps.refl s).regs rfl
  clear hu
  split
  · exact acc _ _ _ first
  · refine Keeps.wr (Keeps.wr ?_ (meterCtrl_ne (by decide)) _) (meterCtrl_ne (by decide)) _
    exact (acc _ _ _ first).regs rfl

theorem book_ctrl (s : State) (a b c : Nat) (p q : Int) (v : Nat) : Keeps MeterCtrl s (s.book a b c p q v) := by
  unfold State.book
  exact ((accumulate_ctrl _ _ _).trans (accumulate_ctrl _ _ _)).trans (accumulate_ctrl _ _ _)

theorem setVpres_ctrl (s : State) (p : Nat) (b : Bool) (c x : Nat) : Keeps MeterCtrl s (s.setVpres p b c x) := by
  unfold State.setVpres
  refine Keeps.ite (Keeps.refl s) (Keeps.wr (Keeps.trans ?_ (meterEvent_ctrl _ _ _ _ _)) (meterCtrl_ne (by decide)) _)
  exact (Keeps.refl s).wr (meterCtrl_ne (by decide)) _

theorem gainTo_ctrl (s : State) (p : Nat) (g : Bool) (x : Int) : Keeps MeterCtrl s (s.gainTo p g x) := by
  unfold State.gainTo
  refine Keeps.wr (Keeps.count (Keeps.regs ?_ rfl) (meterCtrl_ne (by decide)) (meterCtrl_ne (by decide))) (meterCtrl_ne (by decide)) _
  exact (Keeps.refl s).wr (meterCtrl_ne (by decide)) _

theorem cycleGain_ctrl (s : State) (p a b : Nat) : Keeps MeterCtrl s (s.cycleGain p a b) := by
  unfold State.cycleGain
  refine Keeps.ite (Keeps.refl s) ?_
  simp only
  refine Keeps.ite ?_ ?_
  · exact ((Keeps.refl s).regs rfl).trans (gainTo_ctrl _ _ _ _)
  · exact (Keeps.refl s).regs rfl

theorem bookVoltage_ctrl (s : State) (w : MeterWindow) (m : MeterSums) : Keeps MeterCtrl s (s.bookVoltage w m) := by
  have valid : Keeps MeterCtrl s (if w.valid then s.setPhBit MTR_PHST_FVALID w.phase true else s) := Keeps.ite ((Keeps.refl s).wr (meterCtrl_ne (by decide)) _) (Keeps.refl s)
  unfold State.bookVoltage
  exact Keeps.ite (Keeps.refl s) (Keeps.ite (valid.trans (setVpres_ctrl _ _ _ _ _)) (valid.trans (setVpres_ctrl _ _ _ _ _)))

theorem onPhase_regs (s : State) (p : Nat) (f : MeterPhase → MeterPhase) : (s.onPhase p f).regs = s.regs := rfl

theorem bookPhase_ctrl (s : State) (p d : Nat) (m : MeterSums) (q a b : Int) (v i : Nat) : Keeps MeterCtrl s (s.bookPhase p d m q a b v i) := by
  have live : Keeps MeterCtrl s ((((s.wr (MTR_LIVE_W0_VRMS p) v).wr (MTR_LIVE_W1_IRMS p) i).wrI (MTR_LIVE_W2_P p) a).wrI (MTR_LIVE_W3_Q p) b) :=
    ((((Keeps.refl s).wr (meterCtrl_ne (by simp only [MTR_LIVE_W0_VRMS]; omega)) _).wr (meterCtrl_ne (by simp only [MTR_LIVE_W1_IRMS]; omega)) _).wr (meterCtrl_ne (by simp only [MTR_LIVE_W2_P]; omega)) _).wr
      (meterCtrl_ne (by simp only [MTR_LIVE_W3_Q]; omega)) _
  unfold State.bookPhase
  simp only
  generalize (((s.wr (MTR_LIVE_W0_VRMS p) v).wr (MTR_LIVE_W1_IRMS p) i).wrI (MTR_LIVE_W2_P p) a).wrI (MTR_LIVE_W3_Q p) b = u at live
  refine Keeps.regs (Keeps.ite live (live.trans (book_ctrl _ _ _ _ _ _ _))) (onPhase_regs _ _ _)

theorem bookTotal_ctrl (s : State) (live : List MeterSums) (n d : Nat) : Keeps MeterCtrl s (s.bookTotal live n d) := by
  have total : Keeps MeterCtrl s (s.totalQ live).1 := by
    unfold State.totalQ
    split
    · exact Keeps.refl s
    · exact (Keeps.refl s).regs rfl
  unfold State.bookTotal
  exact Keeps.ite total (total.trans (book_ctrl _ _ _ _ _ _ _))

theorem noteFree_regs (s : State) (k : Nat) : (s.noteFree k).regs = s.regs := by
  unfold State.noteFree
  split <;> rfl

theorem noteReference_regs (s : State) (free : Bool) (p : Int) (n i : Nat) : (s.noteReference free p n i).regs = s.regs := by
  unfold State.noteReference
  show (if free then s.noteFree s.mtr.open' else s).regs = s.regs
  split
  · exact noteFree_regs _ _
  · rfl

theorem bookReference_ctrl (s : State) (w : MeterWindow) (d : Nat) (l : List MeterSample) : Keeps MeterCtrl s (s.bookReference w d l) := by
  unfold State.bookReference
  simp only
  refine Keeps.ite (Keeps.wr ?_ (meterCtrl_ne (by decide)) _) ?_
  · exact ((bookTotal_ctrl s _ _ _).regs (noteReference_regs _ _ _ _ _)).wr (meterCtrl_ne (by decide)) _
  · exact ((bookTotal_ctrl s _ _ _).regs (noteReference_regs _ _ _ _ _)).wr (meterCtrl_ne (by decide)) _

theorem cycleEvent_ctrl (s : State) (w : MeterWindow) (d v i : Nat) (a b : Int) : Keeps MeterCtrl s (s.cycleEvent w d v i a b) := by
  unfold State.cycleEvent
  exact Keeps.ite (meterEvent_ctrl _ _ _ _ _) (Keeps.refl s)

theorem windowDur_regs (s : State) (w : MeterWindow) : (s.windowDur w).1.regs = s.regs := by
  unfold State.windowDur
  split <;> rfl

theorem windowQ_regs (s : State) (m : MeterSums) : (s.windowQ m).1.regs = s.regs := by
  unfold State.windowQ
  split <;> rfl

theorem bookWindow_ctrl (s : State) (w : MeterWindow) : Keeps MeterCtrl s (s.bookWindow w) := by
  unfold State.bookWindow
  refine Keeps.ite (Keeps.refl s) ?_
  simp only
  refine Keeps.ite (Keeps.trans ?_ (bookReference_ctrl _ _ _ _)) ?_ <;>
  · refine Keeps.trans (Keeps.trans (Keeps.trans ?_ (bookPhase_ctrl _ _ _ _ _ _ _ _ _)) (bookVoltage_ctrl _ _ _)) (cycleEvent_ctrl _ _ _ _ _ _ _)
    exact (Keeps.refl s).regs ((windowQ_regs _ _).trans (windowDur_regs _ _))

/-! ### MTR_CTRL stands while a sample is taken -/

theorem endWindow_ctrl (s : State) (p te : Nat) (c t : Bool) : Keeps MeterCtrl s (s.endWindow p te c t) := by
  unfold State.endWindow
  simp only
  generalize hw : ({ s with mtr := { s.mtr with windows := _ } } : State) = u
  have first : Keeps MeterCtrl s u := by
    rw [← hw]
    exact (Keeps.refl s).regs rfl
  exact (first.trans (cycleGain_ctrl u _ _ _)).regs rfl

theorem crossing_ctrl (s : State) (p tc : Nat) : Keeps MeterCtrl s (s.crossing p tc) := by
  have angle : Keeps MeterCtrl s (if p = 0 then s else s.noteAngle p tc) := Keeps.ite (Keeps.refl s) ((Keeps.refl s).regs (noteAngle_keep _ _ _).2.2.1)
  unfold State.crossing
  simp only
  exact Keeps.regs (Keeps.wr (angle.trans (endWindow_ctrl _ _ _ _ _)) (meterCtrl_ne (by decide)) _) rfl

theorem watchCrossing_regs (s : State) (p n : Nat) (a : Option Int) (b : Int) : (s.watchCrossing p n a b).1.regs = s.regs := by
  unfold State.watchCrossing
  cases a with
  | none =>
    simp only
    split <;> rfl
  | some a =>
    simp only
    split
    · rfl
    · simp only
      split <;> rfl

theorem watchAll_ctrl (s : State) (n : Nat) (q : Option MeterSample) (x : MeterSample) : Keeps MeterCtrl s (s.watchAll n q x) := by
  have seen : ∀ (L : List Nat) (r : State × List (Nat × Nat)), Keeps MeterCtrl r.1 (L.foldl (fun (r : State × List (Nat × Nat)) p =>
      ((r.1.watchCrossing p n (q.map (fun y => nth 0 y.v p)) (nth 0 x.v p)).1, match (r.1.watchCrossing p n (q.map (fun y => nth 0 y.v p)) (nth 0 x.v p)).2 with
        | some tc => r.2 ++ [(tc, p)]
        | none => r.2)) r).1 := by
    intro L
    induction L with
    | nil => exact fun r => Keeps.refl r.1
    | cons a L ih => exact fun r => ((Keeps.refl r.1).regs (watchCrossing_regs _ _ _ _ _)).trans (ih _)
  have crossings (L : List (Nat × Nat)) (u : State) : Keeps MeterCtrl u (L.foldl (fun (s : State) c => s.crossing c.2 c.1) u) := (Keeps.refl u).foldl (op := fun (s : State) (c : Nat × Nat) => s.crossing c.2 c.1) (fun v c => crossing_ctrl v c.2 c.1) L
  unfold State.watchAll
  exact Keeps.trans (seen [0, 1, 2] (s, [])) (crossings _ _)

theorem calibrate_regs (s : State) (c f : Nat) (raw : Int) : (s.calibrate c f raw).1.regs = s.regs := by
  unfold State.calibrate
  simp only
  split <;> rfl

theorem nativeCurrent_regs (s : State) (p : Nat) (raw : List Int) : (s.nativeCurrent p raw).1.regs = s.regs := by
  unfold State.nativeCurrent
  simp only
  split
  · exact calibrate_regs _ _ _ _
  · exact (calibrate_regs _ _ _ _).trans (calibrate_regs _ _ _ _)

theorem clipped_ctrl (s : State) (c : Prop) [Decidable c] : Keeps MeterCtrl s (if c then s else (s.count MTR_CLIP_CNT_COUNT MTR_STATUS_CNTWRAP).raise MTR_STATUS_CLIP) :=
  Keeps.ite (Keeps.refl s) (Keeps.wr ((Keeps.refl s).count (meterCtrl_ne (by decide)) (meterCtrl_ne (by decide))) (meterCtrl_ne (by decide)) _)

theorem compatCurrent_ctrl (s : State) (p : Nat) (raw : List Int) : Keeps MeterCtrl s (s.compatCurrent p raw).1 := by
  unfold State.compatCurrent
  simp only
  generalize hx : (if s.phBit MTR_PHST_G16 p = true then nth 0 raw (8 + p) else nth 0 raw (3 + p)) = x
  have clip := clipped_ctrl s (x.natAbs ≤ 8388608)
  generalize (if x.natAbs ≤ 8388608 then s else (s.count MTR_CLIP_CNT_COUNT MTR_STATUS_CNTWRAP).raise MTR_STATUS_CLIP) = u at clip
  generalize hr : (if s.phBit MTR_PHST_G16 p = true then u.calibrate (8 + p) 0 (clipRaw x) else u.calibrate (3 + p) 4 (clipRaw x)) = r
  have cal : Keeps MeterCtrl s r.1 := by
    refine clip.regs ?_
    rw [← hr]
    split <;> exact calibrate_regs _ _ _ _
  split
  · exact cal.trans (gainTo_ctrl _ _ _ _)
  · exact cal

theorem current_ctrl (s : State) (p : Nat) (raw : List Int) : Keeps MeterCtrl s (if s.on MTR_CTRL_MODE then s.compatCurrent p raw else s.nativeCurrent p raw).1 := by
  split
  · exact compatCurrent_ctrl _ _ _
  · exact (Keeps.refl s).regs (nativeCurrent_regs _ _ _)

theorem calibrateAll_ctrl (s : State) (n : Nat) (raw : List Int) : Keeps MeterCtrl s (s.calibrateAll n raw).1 := by
  unfold State.calibrateAll
  simp only
  refine Keeps.regs (Keeps.regs (Keeps.trans (Keeps.trans (Keeps.trans ?_ (current_ctrl _ 0 raw)) (current_ctrl _ 1 raw)) (current_ctrl _ 2 raw)) (calibrate_regs _ _ _ _)) (calibrate_regs _ _ _ _)
  exact Keeps.regs (Keeps.regs (Keeps.regs (Keeps.refl s) (calibrate_regs _ _ _ _)) (calibrate_regs _ _ _ _)) (calibrate_regs _ _ _ _)

theorem settleStep_regs (s : State) (p n : Nat) (x : MeterPhase) : (s.settleStep p n x).regs = s.regs := by
  unfold State.settleStep
  simp only
  generalize hu : (if x.settle = 1 then { s with mtr := { s.mtr with hist := interpolate s.mtr.hist p n x.base (match s.mtr.hist with | y :: _ => nth 0 y.i p | [] => 0) } } else s : State) = u
  have smoothed : u.regs = s.regs := by
    rw [← hu]
    split <;> rfl
  split <;> exact smoothed

theorem noteCrease_regs (s : State) (n : Nat) : (s.noteCrease n).regs = s.regs := by
  unfold State.noteCrease
  split
  · split <;> rfl
  · rfl

/-- A sample's place in the history (R257). -/
def State.keepSample (s : State) (n : Nat) (x : MeterSample) : State := { s with mtr := { s.mtr with hist := x :: s.mtr.hist.take 650, lastN := some n, settled := s.mtr.settled + 1 } }

/-- The sample before sample `n`, where it is held. -/
def State.sampleBefore (s : State) (n : Nat) : Option MeterSample :=
  match s.mtr.hist with
  | x :: _ => if x.n + 1 = n then some x else none
  | [] => none

theorem keepSample_regs (s : State) (n : Nat) (x : MeterSample) : (s.keepSample n x).regs = s.regs := rfl

/-- A calibrated sample kept, its settling done and its crossings found (R259, R261). -/
def State.sampleSeen (s : State) (n : Nat) (r : State × MeterSample) : State :=
  ([0, 1, 2].foldl (fun (u : State) p => u.settleStep p n (nth MeterPhase.init s.mtr.phases p)) (r.1.keepSample n r.2)).watchAll n (s.sampleBefore n) r.2

/-- A Crease in which the reference phase has been in FREE is noted (R267). -/
def State.noteReferenceFree (s : State) (n : Nat) : State := if s.rd MTR_CTRL_RUNST = 1 ∧ s.phBit MTR_PHST_FREE s.refPhase then s.noteFree (s.creaseOf (n * sampleNs)) else s

theorem takeSample_eq (s : State) (n : Nat) (raw : List Int) : s.takeSample n raw = ((s.noteCrease n).sampleSeen n ((s.noteCrease n).calibrateAll n raw)).noteReferenceFree n := by
  unfold State.takeSample
  simp only
  generalize s.noteCrease n = u
  generalize u.calibrateAll n raw = r
  rfl

theorem noteReferenceFree_regs (s : State) (n : Nat) : (s.noteReferenceFree n).regs = s.regs := by
  unfold State.noteReferenceFree
  split
  · exact noteFree_regs _ _
  · rfl

theorem sampleSeen_ctrl (s : State) (n : Nat) (r : State × MeterSample) : Keeps MeterCtrl r.1 (s.sampleSeen n r) := by
  have settled (u : State) (p : Nat) : Keeps MeterCtrl u (u.settleStep p n (nth MeterPhase.init s.mtr.phases p)) := (Keeps.refl u).regs (settleStep_regs _ _ _ _)
  have kept : Keeps MeterCtrl r.1 (r.1.keepSample n r.2) := (Keeps.refl r.1).regs (keepSample_regs _ _ _)
  exact (Keeps.foldl (op := fun (u : State) p => u.settleStep p n (nth MeterPhase.init s.mtr.phases p)) kept settled [0, 1, 2]).trans (watchAll_ctrl _ _ _ _)

theorem takeSample_ctrl (s : State) (n : Nat) (raw : List Int) : Keeps MeterCtrl s (s.takeSample n raw) := by
  have first : Keeps MeterCtrl s ((s.noteCrease n).calibrateAll n raw).1 := ((Keeps.refl s).regs (noteCrease_regs s n)).trans (calibrateAll_ctrl _ _ _)
  rw [takeSample_eq]
  exact (first.trans (sampleSeen_ctrl _ _ _)).regs (noteReferenceFree_regs _ _)

/-! ### The history of samples -/

theorem calibrate_mtr (s : State) (c f : Nat) (raw : Int) : (s.calibrate c f raw).1.mtr = s.mtr := by
  unfold State.calibrate
  simp only
  split <;> rfl

theorem MK.calibrate {r s : State} (h : MK r s) (c f : Nat) (raw : Int) : MK r (s.calibrate c f raw).1 := by
  have m := calibrate_mtr s c f raw
  exact h.mk' (calibrate_regs s c f raw) (by rw [m]) (by rw [m]) (by rw [m])

theorem MK.current {r s : State} (h : MK r s) (p : Nat) (raw : List Int) : MK r (if s.on MTR_CTRL_MODE then s.compatCurrent p raw else s.nativeCurrent p raw).1 := by
  split
  · unfold State.compatCurrent
    simp only
    generalize (if s.phBit MTR_PHST_G16 p = true then nth 0 raw (8 + p) else nth 0 raw (3 + p)) = x
    have clip : MK r (if x.natAbs ≤ 8388608 then s else (s.count MTR_CLIP_CNT_COUNT MTR_STATUS_CNTWRAP).raise MTR_STATUS_CLIP) := by
      split
      · exact h
      · exact (h.count (by decide) (by decide)).wr (by decide)
    generalize (if x.natAbs ≤ 8388608 then s else (s.count MTR_CLIP_CNT_COUNT MTR_STATUS_CNTWRAP).raise MTR_STATUS_CLIP) = u at clip
    generalize hr : (if s.phBit MTR_PHST_G16 p = true then u.calibrate (8 + p) 0 (clipRaw x) else u.calibrate (3 + p) 4 (clipRaw x)) = q
    have cal : MK r q.1 := by
      rw [← hr]
      split <;> exact clip.calibrate _ _ _
    split
    · exact cal.gainTo _ _ _
    · exact cal
  · unfold State.nativeCurrent
    simp only
    split
    · exact h.calibrate _ _ _
    · exact (h.calibrate _ _ _).calibrate _ _ _

theorem MK.calibrateAll (s : State) (n : Nat) (raw : List Int) : MK s (s.calibrateAll n raw).1 := by
  unfold State.calibrateAll
  simp only
  refine MK.calibrate (MK.calibrate (MK.current (MK.current (MK.current ?_ 0 raw) 1 raw) 2 raw) _ _ _) _ _ _
  exact (((MK.refl s).calibrate _ _ _).calibrate _ _ _).calibrate _ _ _

theorem noteCrease_hist (s : State) (n : Nat) : (s.noteCrease n).mtr.hist = s.mtr.hist := by
  unfold State.noteCrease
  split
  · split <;> rfl
  · rfl

theorem SH.noteReferenceFree {r s : State} (h : SH r s) (n : Nat) : SH r (s.noteReferenceFree n) := by
  unfold State.noteReferenceFree
  split
  · unfold State.noteFree
    split
    · exact h
    · exact h.same rfl rfl
  · exact h

theorem SH.sampleSeen (s : State) (n : Nat) (r : State × MeterSample) : SH (r.1.keepSample n r.2) (s.sampleSeen n r) :=
  SH.watchAll _ _ _ (SH.fold (fun (u : State) p => u.settleStep p n (nth MeterPhase.init s.mtr.phases p)) (fun _ p h => SH.step p n _ h) _ _ (SH.refl _))

theorem skey_n (l : List MeterSample) : l.map (·.n) = (l.map skey).map (·.1) := by
  rw [List.map_map]
  rfl

/-- A sample taken stands first in the history (R257). -/
theorem takeSample_hist (s : State) (n : Nat) (raw : List Int) : (s.takeSample n raw).mtr.lastN = some n ∧ (s.takeSample n raw).mtr.hist.map (·.n) = n :: (s.mtr.hist.take 650).map (·.n) := by
  have k := MK.calibrateAll (s.noteCrease n) n raw
  have num := calib_n (s.noteCrease n) n raw
  have seen := (SH.sampleSeen (s.noteCrease n) n ((s.noteCrease n).calibrateAll n raw)).noteReferenceFree n
  rw [← takeSample_eq] at seen
  refine ⟨seen.lastN, ?_⟩
  rw [skey_n, seen.hist, ← skey_n]
  show ((s.noteCrease n).calibrateAll n raw).2.n :: (((s.noteCrease n).calibrateAll n raw).1.mtr.hist.take 650).map (·.n) = _
  rw [num, k.hist, noteCrease_hist]

/-! ### The stop of metering (R279) -/

/-- A window of every phase ends, the settling of its samples given up. -/
def State.windowsEnded (s : State) : State :=
  let u := if s.meterIdle then s else [0, 1, 2].foldl (fun (u : State) p => u.endWindow p s.freeEnd false false) s
  { u with mtr := { u.mtr with phases := u.mtr.phases.map (fun x : MeterPhase => { x with settle := 0 }) } }

/-- The windows that have ended booked. -/
def State.windowsBooked (s : State) : State := s.mtr.windows.foldl (fun (u : State) w => u.bookWindow w) s

/-- VPRES cleared in every phase. -/
def State.voltsGone (s : State) (at' : Nat) : State := [0, 1, 2].foldl (fun (u : State) p => u.setVpres p false 4 at') s

/-- No window is left. -/
def State.windowsGone (s : State) : State := { s with mtr := { s.mtr with windows := [], phases := [MeterPhase.init, MeterPhase.init, MeterPhase.init] } }

/-- A state with another memory of the metering engine. -/
def State.meterSet (s : State) (m : MeterState) : State := { s with mtr := m }

@[simp] theorem meterSet_rd (s : State) (m : MeterState) (f : Field) : (s.meterSet m).rd f = s.rd f := rfl

/-- Metering that has stopped starts again where EN reads 1 (R28). -/
def State.meterAgain (s : State) : State := if s.on MTR_CTRL_EN then s.meterEnable 1 else s

theorem meterStop_eq {s : State} (h : s.rd MTR_CTRL_RUNST = 2) : s.meterStop = ((((s.windowsEnded.windowsBooked).voltsGone (s.freeEnd - sampleNs)).windowsGone).wr MTR_CTRL_RUNST 0).meterAgain := by
  unfold State.meterStop
  rw [if_neg (by rw [h]; decide)]
  rfl

theorem windowsEnded_ctrl (s : State) : Keeps MeterCtrl s s.windowsEnded := by
  have ended : Keeps MeterCtrl s (if s.meterIdle then s else [0, 1, 2].foldl (fun (u : State) p => u.endWindow p s.freeEnd false false) s) :=
    Keeps.ite (Keeps.refl s) (Keeps.foldl (op := fun (u : State) p => u.endWindow p s.freeEnd false false) (Keeps.refl s) (fun u p => endWindow_ctrl u p _ _ _) _)
  exact ended.regs rfl

theorem windowsBooked_ctrl (s : State) : Keeps MeterCtrl s s.windowsBooked := (Keeps.refl s).foldl (op := fun (u : State) w => u.bookWindow w) bookWindow_ctrl _

theorem voltsGone_ctrl (s : State) (x : Nat) : Keeps MeterCtrl s (s.voltsGone x) := (Keeps.refl s).foldl (op := fun (u : State) p => u.setVpres p false 4 x) (fun u p => setVpres_ctrl u p _ _ _) _

theorem bit_cleared : ∀ v < 8, ∀ p < 3, bit (setBit v p false % 8) p = false ∧ ∀ q < 3, bit v q = false → bit (setBit v p false % 8) q = false := by decide

theorem setVpres_cleared (s : State) {p : Nat} (hp : p < 3) (c x : Nat) : (s.setVpres p false c x).phBit MTR_PHST_VPRES p = false ∧ ∀ q < 3, s.phBit MTR_PHST_VPRES q = false → (s.setVpres p false c x).phBit MTR_PHST_VPRES q = false := by
  unfold State.setVpres
  by_cases h : s.phBit MTR_PHST_VPRES p = false
  · rw [if_pos h]
    exact ⟨h, fun _ _ k => k⟩
  · rw [if_neg h]
    have small : s.rd MTR_PHST_VPRES < 8 := rd_lt s _
    obtain ⟨this, others⟩ := bit_cleared _ small p hp
    have e : (((s.setPhBit MTR_PHST_VPRES p false).meterEvent (p + 1) 0x03 [octet (b2n false), octet c] x).raise MTR_STATUS_VPCHG).rd MTR_PHST_VPRES = setBit (s.rd MTR_PHST_VPRES) p false % 8 := by
      rw [raise_def, rd_wr_ne _ _ (by decide), meterEvent_rd _ _ _ _ _ (by decide) (by decide) (by decide)]
      exact rd_wr_same _ _ _
    refine ⟨?_, fun q hq k => ?_⟩
    · show bit _ p = false
      rw [e]
      exact this
    · show bit _ q = false
      rw [e]
      exact others q hq k

theorem voltsGone_clear (s : State) (x p : Nat) (hp : p < 3) : (s.voltsGone x).phBit MTR_PHST_VPRES p = false := by
  obtain ⟨c0, -⟩ := setVpres_cleared s (p := 0) (by decide) 4 x
  obtain ⟨c1, k1⟩ := setVpres_cleared (s.setVpres 0 false 4 x) (p := 1) (by decide) 4 x
  obtain ⟨c2, k2⟩ := setVpres_cleared ((s.setVpres 0 false 4 x).setVpres 1 false 4 x) (p := 2) (by decide) 4 x
  show (((s.setVpres 0 false 4 x).setVpres 1 false 4 x).setVpres 2 false 4 x).phBit MTR_PHST_VPRES p = false
  match p, hp with
  | 0, _ => exact k2 0 (by decide) (k1 0 (by decide) c0)
  | 1, _ => exact k2 1 (by decide) c1
  | 2, _ => exact c2

theorem meterAgain_facts (s : State) (run : s.rd MTR_CTRL_RUNST = 0) : s.meterAgain.mtr.windows = s.mtr.windows ∧ s.meterAgain.rd MTR_CTRL_RUNST = (if s.rd MTR_CTRL_EN = 1 then 3 else 0) ∧
    s.meterAgain.rd MTR_CTRL_EN = s.rd MTR_CTRL_EN ∧ s.meterAgain.rd MTR_CTRL_MODE = s.rd MTR_CTRL_MODE ∧ s.meterAgain.rd MTR_PHST_VPRES = s.rd MTR_PHST_VPRES := by
  have small : s.rd MTR_CTRL_EN < 2 := rd_lt s _
  unfold State.meterAgain
  by_cases en : s.rd MTR_CTRL_EN = 1
  · have still : (s.wr MTR_CTRL_EN 1).rd MTR_CTRL_RUNST = 0 := (rd_wr_ne _ _ (by decide)).trans run
    have e : s.meterEnable 1 = ((s.wr MTR_CTRL_EN 1).wr MTR_CTRL_RUNST 3).meterSet { s.mtr with settled := 0, hist := [], lastN := none } := by
      unfold State.meterEnable
      rw [if_pos ⟨rfl, still⟩]
      rfl
    rw [if_pos (by unfold State.on; rw [en]; rfl), if_pos en, e]
    simp only [meterSet_rd]
    refine ⟨rfl, rd_wr_same _ _ _, ?_, ?_, ?_⟩
    · exact (rd_wr_ne _ _ (by decide)).trans ((rd_wr_same _ _ _).trans en.symm)
    · exact (rd_wr_ne _ _ (by decide)).trans (rd_wr_ne _ _ (by decide))
    · exact (rd_wr_ne _ _ (by decide)).trans (rd_wr_ne _ _ (by decide))
  · have zero : s.rd MTR_CTRL_EN = 0 := by omega
    rw [if_neg (by unfold State.on; rw [zero]; decide), if_neg en]
    exact ⟨rfl, run, rfl, rfl, rfl⟩

theorem meterStop_facts {s : State} (h : s.rd MTR_CTRL_RUNST = 2) : s.meterStop.mtr.windows = [] ∧ s.meterStop.rd MTR_CTRL_RUNST = (if s.rd MTR_CTRL_EN = 1 then 3 else 0) ∧ s.meterStop.rd MTR_CTRL_EN = s.rd MTR_CTRL_EN ∧
    s.meterStop.rd MTR_CTRL_MODE = s.rd MTR_CTRL_MODE ∧ ∀ p, p < 3 → s.meterStop.phBit MTR_PHST_VPRES p = false := by
  have ctrl := ((windowsEnded_ctrl s).trans (windowsBooked_ctrl _)).trans (voltsGone_ctrl _ (s.freeEnd - sampleNs))
  have clear := voltsGone_clear s.windowsEnded.windowsBooked (s.freeEnd - sampleNs)
  rw [meterStop_eq h]
  generalize s.windowsEnded.windowsBooked.voltsGone (s.freeEnd - sampleNs) = u at ctrl clear
  obtain ⟨windows, run, en, mode, vpres⟩ := meterAgain_facts (u.windowsGone.wr MTR_CTRL_RUNST 0) (rd_wr_same _ _ _)
  have enU : (u.windowsGone.wr MTR_CTRL_RUNST 0).rd MTR_CTRL_EN = s.rd MTR_CTRL_EN := (rd_wr_ne _ _ (by decide)).trans (ctrl _ (by simp [MeterCtrl]))
  rw [enU] at run en
  refine ⟨windows, run, en, mode.trans ((rd_wr_ne _ _ (by decide)).trans (ctrl _ (by simp [MeterCtrl]))), fun p hp => ?_⟩
  show bit _ p = false
  rw [vpres, rd_wr_ne _ _ (by decide)]
  exact clear p hp

theorem meterStop_other {s : State} (h : s.rd MTR_CTRL_RUNST ≠ 2) : s.meterStop = s := by
  unfold State.meterStop
  exact if_pos (bne_iff_ne.mpr h)

/-! ### A sample (R257) -/

theorem meterSampleAt_idle {s : State} {n : Nat} (raw : List Int) (h : s.rd MTR_CTRL_RUNST = 0 ∨ s.mtr.lastN = some n) : s.meterSampleAt n raw = s := if_pos h

theorem meterSampleAt_taken {s : State} {n : Nat} (raw : List Int) (run : s.rd MTR_CTRL_RUNST = 1 ∨ s.rd MTR_CTRL_RUNST = 3) (h : s.mtr.lastN ≠ some n) :
    (s.meterSampleAt n raw).mtr.lastN = some n ∧ (s.meterSampleAt n raw).mtr.hist.map (·.n) = n :: (s.mtr.hist.take 650).map (·.n) := by
  have ctrl : (s.takeSample n raw).rd MTR_CTRL_RUNST = s.rd MTR_CTRL_RUNST := takeSample_ctrl s n raw _ (by simp [MeterCtrl])
  obtain ⟨last, hist⟩ := takeSample_hist s n raw
  have e : s.meterSampleAt n raw = if (s.takeSample n raw).rd MTR_CTRL_RUNST = 1 then (s.takeSample n raw).settleAll else (s.takeSample n raw).meterStop := if_neg (not_or.mpr ⟨by omega, h⟩)
  rw [e]
  generalize s.takeSample n raw = u at ctrl last hist
  rcases run with run | run
  · rw [if_pos (ctrl.trans run)]
    have k := MK.settleAll (MK.refl u)
    exact ⟨k.lastN.trans last, by rw [k.hist]; exact hist⟩
  · rw [if_neg (by omega), meterStop_other (by omega)]
    exact ⟨last, hist⟩

theorem meterSampleAt_stops {s : State} {n : Nat} (raw : List Int) (run : s.rd MTR_CTRL_RUNST = 2) (h : s.mtr.lastN ≠ some n) :
    (s.meterSampleAt n raw).mtr.windows = [] ∧ (s.meterSampleAt n raw).rd MTR_CTRL_RUNST = (if s.rd MTR_CTRL_EN = 1 then 3 else 0) ∧ (s.meterSampleAt n raw).rd MTR_CTRL_EN = s.rd MTR_CTRL_EN ∧
    (s.meterSampleAt n raw).rd MTR_CTRL_MODE = s.rd MTR_CTRL_MODE ∧ ∀ p, p < 3 → (s.meterSampleAt n raw).phBit MTR_PHST_VPRES p = false := by
  have ctrl := takeSample_ctrl s n raw
  have still : (s.takeSample n raw).rd MTR_CTRL_RUNST = 2 := (ctrl _ (by simp [MeterCtrl])).trans run
  have e : s.meterSampleAt n raw = (s.takeSample n raw).meterStop := (if_neg (not_or.mpr ⟨by omega, h⟩)).trans (if_neg (by omega))
  have en := ctrl MTR_CTRL_EN (by simp [MeterCtrl])
  have mode := ctrl MTR_CTRL_MODE (by simp [MeterCtrl])
  rw [e, ← en, ← mode]
  exact meterStop_facts still

/-! ### Timeouts and free windows (R262) -/

theorem crossingTimeout_idle {s : State} {p : Nat} (h : s.phBit MTR_PHST_FREE p = true ∨ s.since p < s.zcTimeout) : s.crossingTimeout p = s := by
  unfold State.crossingTimeout
  exact if_pos (by rcases h with h | h <;> simp [h])

/-- A timeout noted: the phase in FREE, ZCTO and its count (R262). -/
def State.timeoutNoted (s : State) (p : Nat) : State := (((s.endWindow p s.freeEnd false true).setPhBit MTR_PHST_FREE p true).count MTR_TO_CNT_COUNT MTR_STATUS_CNTWRAP).raise MTR_STATUS_ZCTO

theorem crossingTimeout_due {s : State} {p : Nat} (run : s.rd MTR_CTRL_RUNST = 1) (free : s.phBit MTR_PHST_FREE p = false) (due : s.zcTimeout ≤ s.since p) :
    s.crossingTimeout p = (((s.timeoutNoted p).setPhBit MTR_PHST_FVALID p false).setVpres p false 1 ((s.timeoutNoted p).mtr.lastN.getD 0 * sampleNs)).settleAll := by
  unfold State.crossingTimeout
  rw [if_neg (by simp [run, free]; omega)]
  rfl

theorem timeoutNoted_facts (s : State) {p : Nat} (hp : p < 3) (len : p < s.mtr.phases.length) : (s.timeoutNoted p).phBit MTR_PHST_FREE p = true ∧ (s.timeoutNoted p).rd MTR_STATUS_ZCTO = 1 ∧
    (s.timeoutNoted p).rd MTR_TO_CNT_COUNT = (s.rd MTR_TO_CNT_COUNT + 1) % 2 ^ 32 ∧ ((s.timeoutNoted p).phase p).ts = s.freeEnd := by
  obtain ⟨rd, ts, -⟩ := endWindow_facts s p s.freeEnd false true len
  unfold State.timeoutNoted
  generalize s.endWindow p s.freeEnd false true = u at rd ts
  have small : u.rd MTR_PHST_FREE < 8 := rd_lt u _
  refine ⟨?_, rd_wr_same _ _ _, ?_, ?_⟩
  · show bit _ p = true
    rw [raise_def, rd_wr_ne _ _ (by decide), count_rd_ne _ (by decide) (by decide), State.setPhBit, rd_wr_same]
    exact bit_set _ small p hp
  · rw [raise_def, rd_wr_ne _ _ (by decide), count_rd_same _ (by decide), State.setPhBit, rd_wr_ne _ _ (by decide), rd _ (by simp [QF])]
    rfl
  · have same : (((u.setPhBit MTR_PHST_FREE p true).count MTR_TO_CNT_COUNT MTR_STATUS_CNTWRAP).raise MTR_STATUS_ZCTO).mtr = u.mtr := (raiseIf_mtr _ _ _).1
    unfold State.phase
    rw [same]
    exact ts

theorem freeWindowEnd_idle {s : State} {p : Nat} (h : s.phBit MTR_PHST_FREE p = false ∨ s.since p < s.nominal) : s.freeWindowEnd p = s := by
  unfold State.freeWindowEnd
  exact if_pos (by rcases h with h | h <;> simp [h])

theorem freeWindowEnd_due {s : State} {p : Nat} (run : s.rd MTR_CTRL_RUNST = 1) (free : s.phBit MTR_PHST_FREE p = true) (due : s.nominal ≤ s.since p) : s.freeWindowEnd p = (s.endWindow p s.freeEnd false false).settleAll := by
  unfold State.freeWindowEnd
  exact if_neg (by simp [run, free]; omega)

/-! ### Summaries (R272) -/

theorem dcqOffer_dueless (s : State) (n : Nat) (e : Event) : ({ s with mtr := { s.mtr with due := [] } }.dcqOffer n e).2 = (s.dcqOffer n e).2 := by
  have fits : ({ s with mtr := { s.mtr with due := [] } } : State).dcqFits n e.words = s.dcqFits n e.words := rfl
  unfold State.dcqOffer
  rw [fits]
  split <;> rfl

theorem raiseIf_waiting (s : State) (b : Bool) (f : Field) : (s.raiseIf b f).waiting = s.waiting := by
  unfold State.raiseIf
  split <;> rfl

theorem registerSummaries_one {s : State} {k : Nat} {x : Octets} (h : s.mtr.due = [(k, x)]) (taken : (s.dcqOffer 13 (s.event 84 0 0x10 x (timeOfNs ((k + 1) * s.P - 1)))).2 = true) :
    s.registerSummaries.waiting = s.waiting ++ [⟨s.event 84 0 0x10 x (timeOfNs ((k + 1) * s.P - 1)), some 13, (s.event 84 0 0x10 x (timeOfNs ((k + 1) * s.P - 1))).words⟩] := by
  unfold State.registerSummaries
  rw [h]
  exact (raiseIf_waiting _ _ _).trans (dcqOffer_taken _ 13 _ ((dcqOffer_dueless s 13 _).trans taken))

/-! ### Start (R279) -/

theorem meterStart_idle {s : State} (h : s.mtr.settled < 64 ∨ sampleNs ≤ s.now % s.P) : s.meterStart = s := by
  unfold State.meterStart
  exact if_pos (by rcases h with h | h <;> simp [h])

/-- The state of every phase at the start (R279). -/
def startPhase (s : State) : MeterPhase := { MeterPhase.init with ts := s.creaseOf s.now * s.P, endN := s.creaseOf s.now * s.P / sampleNs - 1, prevT := s.freeNat 25 }

/-- The engine's memory at the start: no window, the Crease that begins open (R279). -/
def startMeter (s : State) : MeterState :=
  { s.mtr with phases := s.mtr.phases.map (fun x : MeterPhase => { startPhase s with armed := x.armed }), windows := [], open' := s.creaseOf s.now, nCyc := 0, wraps := 0, iresMax := 0, inSum := 0, tFree := [s.creaseOf s.now],
               pos := false, neg := false, startDue := true, ang12 := none, ang13 := none, g16End := 0 }

theorem meterStart_due {s : State} (run : s.rd MTR_CTRL_RUNST = 3) (settled : 64 ≤ s.mtr.settled) (at' : s.now % s.P < sampleNs) :
    s.meterStart = ((((s.freeTick.wr MTR_CTRL_RUNST 1).wr MTR_PHST_FREE 7).wr MTR_PHST_FVALID 0).wr MTR_PHST_G16 0).meterSet (startMeter s) := by
  unfold State.meterStart
  rw [if_neg (by simp [run]; omega)]
  rfl

/-! ### A write of EN = 0 (R279) -/

theorem meterOff_facts (s : State) (run : s.rd MTR_CTRL_RUNST = 1 ∨ s.rd MTR_CTRL_RUNST = 3) : (s.funcWrite .meter 0).rd MTR_CTRL_RUNST = 2 ∧ (s.funcWrite .meter 0).rd MTR_CTRL_EN = 0 ∧
    (s.funcWrite .meter 0).rd MTR_CTRL_MODE = s.rd MTR_CTRL_MODE ∧ (s.funcWrite .meter 0).mtr.lastN = s.mtr.lastN ∧ (s.funcWrite .meter 0).now = s.now := by
  have still : (s.wr MTR_CTRL_EN 0).rd MTR_CTRL_RUNST = s.rd MTR_CTRL_RUNST := rd_wr_ne _ _ (by decide)
  have e : s.funcWrite .meter 0 = (s.wr MTR_CTRL_EN 0).meterHalt.wr MTR_CTRL_RUNST 2 := by
    unfold State.funcWrite
    simp only
    rw [if_neg (by decide), if_pos (by rw [show (s.wr (enField .meter) 0).rd (runstField .meter) = s.rd MTR_CTRL_RUNST from still]; exact run)]
    rfl
  have halt (u : State) : u.meterHalt.regs = u.regs ∧ u.meterHalt.mtr.lastN = u.mtr.lastN ∧ u.meterHalt.now = u.now := by
    unfold State.meterHalt
    split <;> exact ⟨rfl, rfl, rfl⟩
  obtain ⟨regs, last, now⟩ := halt (s.wr MTR_CTRL_EN 0)
  rw [e]
  refine ⟨rd_wr_same _ _ _, ?_, ?_, last, now⟩
  · rw [rd_wr_ne _ _ (by decide), rd_regs regs, rd_wr_same]
    rfl
  · rw [rd_wr_ne _ _ (by decide), rd_regs regs, rd_wr_ne _ _ (by decide)]

/-! ### The statement -/

/-- Settles O46. -/
theorem meteringWindows : Obligations.MeteringWindows := by
  refine ⟨?_, ?_, ?_, ?_, ?_⟩
  · exact fun s raw hu => ⟨fun run h => ⟨_, congrArg Host.Outcome.next (whenUp_up hu), meterSampleAt_taken raw run h⟩,
      fun run h => by
        obtain ⟨windows, st, -, -, vpres⟩ := meterSampleAt_stops (n := s.now / sampleNs) raw run h
        exact ⟨_, congrArg Host.Outcome.next (whenUp_up hu), windows, st, vpres⟩,
      fun h => congrArg Host.Outcome.next ((whenUp_up hu).trans (meterSampleAt_idle raw h))⟩
  · intro s p hu run len
    refine ⟨fun free due => ⟨_, congrArg Host.Outcome.next ((whenUp_up hu).trans (crossingTimeout_due run free due)), ?_⟩, fun h => congrArg Host.Outcome.next ((whenUp_up hu).trans (crossingTimeout_idle h)),
      fun free due => ⟨_, congrArg Host.Outcome.next ((whenUp_up hu).trans (freeWindowEnd_due run free due)), ?_⟩, fun h => congrArg Host.Outcome.next ((whenUp_up hu).trans (freeWindowEnd_idle h))⟩
    · obtain ⟨fr, zcto, cnt, ts⟩ := timeoutNoted_facts s p.isLt len
      generalize s.timeoutNoted p.val = u at fr zcto cnt ts
      have k : MK u ((u.setPhBit MTR_PHST_FVALID p.val false).setVpres p.val false 1 (u.mtr.lastN.getD 0 * sampleNs)).settleAll := (((MK.refl u).setPh (by decide)).setVpres _ _ _ _).settleAll
      refine ⟨?_, (k.rd _ (by simp [QF])).trans zcto, (k.rd _ (by simp [QF])).trans cnt, (k.ph _).1.trans ts⟩
      show bit _ _ = true
      rw [k.rd _ (by simp [QF])]
      exact fr
    · obtain ⟨rd, ts, -⟩ := endWindow_facts s p.val s.freeEnd false false len
      have k := MK.settleAll (MK.refl (s.endWindow p.val s.freeEnd false false))
      refine ⟨?_, (k.ph _).1.trans ts⟩
      show bit _ _ = true
      rw [k.rd _ (by simp [QF]), rd _ (by simp [QF])]
      exact free
  · intro s hu
    refine ⟨⟨_, congrArg Host.Outcome.next (whenUp_up hu), register_due _⟩, fun k x run due taken => ⟨_, congrArg Host.Outcome.next ((whenUp_up hu).trans (congrArg State.registerSummaries (if_neg run))), registerSummaries_one due taken⟩⟩
  · intro s hu run
    refine ⟨fun settled at' => ⟨_, congrArg Host.Outcome.next ((whenUp_up hu).trans (meterStart_due run settled at')), ?_, ?_, ?_, rfl, rfl, rfl⟩, fun h => congrArg Host.Outcome.next ((whenUp_up hu).trans (meterStart_idle h))⟩
    · rw [meterSet_rd, rd_wr_ne _ _ (by decide), rd_wr_ne _ _ (by decide), rd_wr_ne _ _ (by decide), rd_wr_same]
      rfl
    · rw [meterSet_rd, rd_wr_ne _ _ (by decide), rd_wr_ne _ _ (by decide), rd_wr_same]
      rfl
    · rw [meterSet_rd, rd_wr_ne _ _ (by decide), rd_wr_same]
      rfl
  · intro s l raw hs run h
    obtain ⟨u, near, e⟩ := meteringStop_serves raw hs
    have runU : u.rd MTR_CTRL_RUNST = s.rd MTR_CTRL_RUNST := near.rd _ (.inr (by decide))
    have modeU : u.rd MTR_CTRL_MODE = s.rd MTR_CTRL_MODE := near.rd _ (.inl (by simp))
    have lastU : u.mtr.lastN = s.mtr.lastN := by rw [near.rest]
    have nowU : u.now = s.now := by rw [near.rest]; rfl
    obtain ⟨off, en, mode, last, now⟩ := meterOff_facts u (by rw [runU]; exact run)
    refine ⟨_, e.trans (congrArg Host.Outcome.next (if_pos off)), ?_⟩
    obtain ⟨windows, st, en2, mode2, vpres⟩ := meterSampleAt_stops (n := (u.funcWrite .meter 0).now / sampleNs + 1) raw off (by rw [last, lastU, now, nowU]; exact h)
    rw [en] at st en2
    exact ⟨en2, st, windows, mode2.trans (mode.trans modeU), vpres⟩

end Sys2Proof.Machine

/-! PROOFS. Day Rest and the pole bus (R247 to R252, R402). -/
namespace Sys2Proof.Machine
set_option Elab.async false

/-! ### Entry into Day Rest and its end -/

/-- What keeps the module from an entry into Day Rest (R248). -/
def State.restBarred (s : State) : Prop := s.crzOn = false ∨ s.rd LSC_CTRL_SPLIT ≠ 0 ∨ s.rd BHM0_DR_STAT_STATE ≠ 0 ∨ ∃ m, s.role m = roleJoining ∨ s.role m = roleBist

theorem lanes_any (f : Lane → Bool) : [Lane.A, Lane.B].any f = true ↔ ∃ m, f m = true := by
  constructor
  · intro h
    obtain ⟨m, -, hm⟩ := List.any_eq_true.mp h
    exact ⟨m, hm⟩
  · rintro ⟨m, hm⟩
    exact List.any_eq_true.mpr ⟨m, by cases m <;> simp, hm⟩

theorem drEnter_other {s : State} {key e : Nat} (h : key ≠ 0xDA7E) : s.drEnter key e = s := if_pos (.inl h)

theorem drEnter_barred {s : State} (h : s.restBarred) : s.drEnter 0xDA7E 1 = s.wr (BHM_STATUS_DRREJ 0) 1 := by
  unfold State.drEnter
  rw [if_neg (by decide)]
  refine if_pos ?_
  simp only [Bool.or_eq_true, lanes_any]
  rcases h with h | h | h | ⟨m, h⟩
  · simp [h]
  · simp [State.on, h]
  · simp [h]
  · exact .inl (.inl (.inr ⟨m, by rcases h with h | h <;> simp [h]⟩))

theorem drEnter_may {s : State} (on : s.crzOn = true) (split : s.rd LSC_CTRL_SPLIT = 0) (roles : ∀ m, s.role m ≠ roleJoining ∧ s.role m ≠ roleBist) (st : s.rd BHM0_DR_STAT_STATE = 0)
    (wakes : s.rd BHM0_DR_WAKE_T_TEN ≠ 0 ∨ ∃ n, n < 8 ∧ s.rd (BHM0_WP_W4_EN n) ≠ 0) : s.drEnter 0xDA7E 1 = s.wr BHM0_DR_STAT_STATE 1 := by
  have busy : [Lane.A, Lane.B].any (fun l => s.role l == roleJoining || s.role l == roleBist) = false := by
    rw [Bool.eq_false_iff, ne_eq, lanes_any]
    rintro ⟨m, h⟩
    obtain ⟨j, b⟩ := roles m
    simp [j, b] at h
  have wake : (s.on BHM0_DR_WAKE_T_TEN || (List.range 8).any (fun n => s.on (BHM0_WP_W4_EN n))) = true := by
    rw [Bool.or_eq_true, List.any_eq_true]
    rcases wakes with h | ⟨n, hn, h⟩
    · exact .inl (bne_iff_ne.mpr h)
    · exact .inr ⟨n, List.mem_range.mpr hn, bne_iff_ne.mpr h⟩
  unfold State.drEnter
  rw [if_neg (by decide)]
  refine if_neg ?_
  rw [busy, wake]
  simp [on, State.on, split, st]

/-- What the end of Day Rest records (R249). -/
def State.restNoted (s : State) : State :=
  let u := (((s.wr BHM0_DR_STAT_CANCEL (b2n (s.rd BHM0_DR_STAT_STATE == 1))).wr BHM0_DR_STAT_TRIP 0).wr BHM0_DR_STAT_TIME 1).wr BHM0_DR_STAT_PATTERN 0
  ({ u with bh := { u.bh with woke := some u.cycles } }.wr BHM0_DR_STAT_STATE 0).raise (BHM_STATUS_DRWAKE 0)

theorem drWakeTime_due {s : State} (ten : s.rd BHM0_DR_WAKE_T_TEN ≠ 0) (due : s.rd BHM0_DR_WAKE_T_T10 * 10000000 ≤ s.now) (st : s.rd BHM0_DR_STAT_STATE ≠ 0) : s.drWakeTime = s.restNoted.restEnd := by
  unfold State.drWakeTime
  rw [if_pos (by simp [State.on, ten, due])]
  unfold State.drEnd
  simp only
  rw [if_neg st]
  rfl

theorem restNoted_facts (s : State) : s.restNoted.rd BHM0_DR_STAT_STATE = 0 ∧ s.restNoted.rd BHM0_DR_STAT_TIME = 1 ∧ s.restNoted.rd BHM0_DR_STAT_CANCEL = b2n (s.rd BHM0_DR_STAT_STATE == 1) ∧ s.restNoted.rd (BHM_STATUS_DRWAKE 0) = 1 ∧
    s.restNoted.crz = s.crz ∧ s.restNoted.lsc = s.lsc ∧ s.restNoted.lnu = s.lnu ∧ s.restNoted.escA = s.escA ∧ s.restNoted.flt = s.flt ∧ s.restNoted.now = s.now ∧ s.restNoted.P = s.P := by
  have small : b2n (s.rd BHM0_DR_STAT_STATE == 1) % 2 ^ BHM0_DR_STAT_CANCEL.width = b2n (s.rd BHM0_DR_STAT_STATE == 1) := by
    cases s.rd BHM0_DR_STAT_STATE == 1 <;> rfl
  have grid : s.restNoted.rd CRZ_GRID_P_STEP = s.rd CRZ_GRID_P_STEP := by
    unfold State.restNoted
    simp only [raise_def]
    rw [rd_wr_ne _ _ (by decide), rd_wr_ne _ _ (by decide), rd_mk, rd_wr_ne _ _ (by decide), rd_wr_ne _ _ (by decide), rd_wr_ne _ _ (by decide), rd_wr_ne _ _ (by decide)]
  refine ⟨?_, ?_, ?_, rd_wr_same _ _ _, rfl, rfl, rfl, rfl, rfl, rfl, by unfold State.P; rw [grid]⟩ <;> unfold State.restNoted <;> simp only [raise_def]
  · rw [rd_wr_ne _ _ (by decide), rd_wr_same]
    rfl
  · rw [rd_wr_ne _ _ (by decide), rd_wr_ne _ _ (by decide), rd_mk, rd_wr_ne _ _ (by decide), rd_wr_same]
    rfl
  · rw [rd_wr_ne _ _ (by decide), rd_wr_ne _ _ (by decide), rd_mk, rd_wr_ne _ _ (by decide), rd_wr_ne _ _ (by decide), rd_wr_ne _ _ (by decide), rd_wr_same]
    exact small

theorem restEnd_awake {s : State} (h : s.crz.rest = false) : s.restEnd = s := by
  unfold State.restEnd
  rw [h]
  exact if_neg Bool.false_ne_true

theorem crzStart_rest (s : State) : s.crzStart.crz.rest = false := rfl

theorem restEnd_started {s : State} (h : s.crz.rest = true) : s.restEnd.crz.rest = false ∧ s.restEnd.crz.oldest = s.creaseOf s.now + 1 ∧ s.restEnd.crz.first = true ∧ s.restEnd.lsc.laneClocks = true := by
  obtain ⟨oldest, first, -⟩ := crzStart_facts s
  have e : s.restEnd = (({ s.crzStart with lsc := { s.crzStart.lsc with laneClocks := true } } : State).sealRelease .A).sealRelease .B := if_pos h
  have o : Only 8388612 ({ s.crzStart with lsc := { s.crzStart.lsc with laneClocks := true } } : State) s.restEnd := by
    rw [e]
    exact sealRelease_only rfl (sealRelease_only rfl (Only.refl _))
  have crz : s.restEnd.crz = s.crzStart.crz := only_part o .crz rfl
  have lsc : s.restEnd.lsc = { s.crzStart.lsc with laneClocks := true } := only_part o .lsc rfl
  exact ⟨by rw [crz]; exact crzStart_rest s, by rw [crz]; exact oldest, by rw [crz]; exact first, by rw [lsc]⟩

theorem restEnd_kept (s : State) : s.restEnd.rd BHM0_DR_STAT_CANCEL = s.rd BHM0_DR_STAT_CANCEL ∧ s.restEnd.lnu = s.lnu ∧ s.restEnd.escA = s.escA ∧ s.restEnd.flt = s.flt := by
  have o : Only 478150660 s s.restEnd := restEnd_only rfl (Only.refl _)
  exact ⟨only_rd o (by decide), only_part o .lnu rfl, (only_part o .esc rfl).1, only_part o .flt rfl⟩

/-! ### Frames of the pole bus received (R252) -/

theorem pbCarrier_parts (s : State) (b : Bool) : (s.pbCarrier b).waiting = s.waiting ∧ (s.pbCarrier b).tb = s.tb ∧ ∀ f : Field, f.key ≠ PBM_CTRL_CRS.key → (s.pbCarrier b).rd f = s.rd f := by
  unfold State.pbCarrier
  cases b with
  | true => exact ⟨rfl, rfl, fun f hf => rd_wr_ne _ _ hf⟩
  | false =>
    rw [if_neg Bool.false_ne_true]
    split
    · exact ⟨rfl, rfl, fun f hf => rd_wr_ne s 0 hf⟩
    · exact ⟨rfl, rfl, fun _ _ => rfl⟩

/-- The carrier of a frame has begun and ended, its octets counted (R252). -/
def State.pbHeard (s : State) (f : Octets) : State := ((s.pbCarrier true).pbCarrier false).pbCount 0 (f.length + 4)

theorem crs_low {f : Field} (h : PLow f) (hc : f.key ≠ PBM_CTRL_CRS.key) (s : State) (o : Octets) : (s.pbHeard o).rd f = s.rd f := by
  unfold State.pbHeard
  rw [pbCount_low _ h, (pbCarrier_parts _ _).2.2 f hc, (pbCarrier_parts _ _).2.2 f hc]

theorem cnt_crs (m : Nat) : (PBM_CNT_COUNT m).key ≠ PBM_CTRL_CRS.key := by unfold Field.key; simp only [PBM_CNT_COUNT, PBM_CTRL_CRS]; omega

theorem pbHeard_facts (s : State) (o : Octets) : (s.pbHeard o).waiting = s.waiting ∧ (s.pbHeard o).tb = s.tb ∧ ∀ m, 0 < m → m < 16 → (s.pbHeard o).rd (PBM_CNT_COUNT m) = s.rd (PBM_CNT_COUNT m) := by
  obtain ⟨w1, t1, r1⟩ := pbCarrier_parts s true
  obtain ⟨w2, t2, r2⟩ := pbCarrier_parts (s.pbCarrier true) false
  obtain ⟨-, -, t3, w3, -⟩ := pbCount_parts ((s.pbCarrier true).pbCarrier false) 0 (o.length + 4)
  refine ⟨w3.trans (w2.trans w1), t3.trans (t2.trans t1), fun m h0 h1 => ?_⟩
  exact (pbCount_other _ (by omega)).trans ((r2 _ (cnt_crs m)).trans (r1 _ (cnt_crs m)))

/-- The event of a frame of the pole bus (R252). -/
def State.pbEvent (s : State) (n : Nat) (f : Octets) (stamp : Time) : Event := s.event 74 n 0x01 (le 2 f.length ++ [octet 255, octet 0] ++ f) stamp

theorem pbReceive_bad {s : State} (f : Octets) (run : s.rd PBM_CTRL_RUNST = 1) (h60 : 60 ≤ f.length) : s.pbReceive f false = (s.pbHeard f).pbCount 2 1 := by
  unfold State.pbReceive
  rw [if_neg (by simp [run])]
  simp only
  rw [if_neg (by omega)]
  rfl

theorem maxrx_low : PLow PBM_RXCFG_MAXRX := by unfold PLow; decide

theorem pbReceive_good {s : State} (f : Octets) (run : s.rd PBM_CTRL_RUNST = 1) (h60 : 60 ≤ f.length) (hm : f.length + 4 ≤ clampN 64 2000 (s.rd PBM_RXCFG_MAXRX)) :
    s.pbReceive f true = match s.poleNode (beAt f 6 6) with
      | none => (((s.pbHeard f).pbCount 1 1).pbCount 5 1).raise PBM_STATUS_UNKNOWN
      | some n => if (((s.pbHeard f).pbCount 1 1).dcqOffer 4 (((s.pbHeard f).pbCount 1 1).pbEvent n f (s.replica repPole))).2 then (((s.pbHeard f).pbCount 1 1).dcqOffer 4 (((s.pbHeard f).pbCount 1 1).pbEvent n f (s.replica repPole))).1
          else ((((s.pbHeard f).pbCount 1 1).dcqOffer 4 (((s.pbHeard f).pbCount 1 1).pbEvent n f (s.replica repPole))).1.pbCount 6 1).raise PBM_STATUS_RXOVF := by
  have low : ∀ g, PLow g → g.key ≠ PBM_CTRL_CRS.key → ((s.pbHeard f).pbCount 1 1).rd g = s.rd g := fun g hg hc => (pbCount_low _ hg).trans (crs_low hg hc s f)
  have node : ((s.pbHeard f).pbCount 1 1).poleNode (beAt f 6 6) = s.poleNode (beAt f 6 6) := by
    have same : (fun n : Nat => n != 0 && ((s.pbHeard f).pbCount 1 1).on (PBM_NODE_EN n) && ((s.pbHeard f).pbCount 1 1).rd (PBM_NODE_ADDR n) == beAt f 6 6) = (fun n : Nat => n != 0 && s.on (PBM_NODE_EN n) && s.rd (PBM_NODE_ADDR n) == beAt f 6 6) := by
      funext n
      have en : ((s.pbHeard f).pbCount 1 1).rd (PBM_NODE_EN n) = s.rd (PBM_NODE_EN n) := low _ (by unfold PLow; simp only [PBM_NODE_EN]; omega) (by unfold Field.key; simp only [PBM_NODE_EN, PBM_CTRL_CRS]; omega)
      have ad : ((s.pbHeard f).pbCount 1 1).rd (PBM_NODE_ADDR n) = s.rd (PBM_NODE_ADDR n) := low _ (by unfold PLow; simp only [PBM_NODE_ADDR]; omega) (by unfold Field.key; simp only [PBM_NODE_ADDR, PBM_CTRL_CRS]; omega)
      unfold State.on
      rw [en, ad]
    unfold State.poleNode
    rw [same]
  have max : (s.pbHeard f).rd PBM_RXCFG_MAXRX = s.rd PBM_RXCFG_MAXRX := crs_low maxrx_low (by decide) s f
  unfold State.pbReceive
  rw [if_neg (by simp [run])]
  simp only
  rw [if_neg (by omega), if_neg (by decide), if_neg (by rw [show (((s.pbCarrier true).pbCarrier false).pbCount 0 (f.length + 4)).rd PBM_RXCFG_MAXRX = s.rd PBM_RXCFG_MAXRX from max]; omega),
    show (((((s.pbCarrier true).pbCarrier false).pbCount 0 (f.length + 4)).pbCount 1 1).poleNode (beAt f 6 6)) = _ from node]
  rfl

/-- What an offer to a queue answers depends on what waits, on the forwarded frames and on the queue's state alone. -/
theorem dcqFits_same {s t : State} {n : Nat} (k : Nat) (hn : n < 15) (w : t.waiting = s.waiting) (r : t.rd (DCQ_Q_W0_RUNST n) = s.rd (DCQ_Q_W0_RUNST n)) : t.dcqFits n k = s.dcqFits n k := by
  unfold State.dcqFits State.dcqOpen State.dcqUsed
  rw [w, r, forwardWords_low t n hn, forwardWords_low s n hn]

theorem dcqOffer_same {s t : State} {n : Nat} (e : Event) (hn : n < 15) (w : t.waiting = s.waiting) (r : t.rd (DCQ_Q_W0_RUNST n) = s.rd (DCQ_Q_W0_RUNST n)) : (t.dcqOffer n e).2 = (s.dcqOffer n e).2 := by
  unfold State.dcqOffer
  rw [dcqFits_same e.words hn w r]
  split <;> rfl

theorem pbEvent_same {s t : State} (h : t.rd CRZ_SEG_SEG = s.rd CRZ_SEG_SEG) (n : Nat) (f : Octets) (x : Time) : t.pbEvent n f x = s.pbEvent n f x := by
  unfold State.pbEvent State.event State.seg
  rw [h]

theorem pbReceive_event {s : State} {f : Octets} {n : Nat} (run : s.rd PBM_CTRL_RUNST = 1) (h60 : 60 ≤ f.length) (hm : f.length + 4 ≤ clampN 64 2000 (s.rd PBM_RXCFG_MAXRX)) (node : s.poleNode (beAt f 6 6) = some n)
    (taken : (s.dcqOffer 4 (s.pbEvent n f (s.replica repPole))).2 = true) :
    (s.pbReceive f true).waiting = s.waiting ++ [⟨s.pbEvent n f (s.replica repPole), some 4, (s.pbEvent n f (s.replica repPole)).words⟩] := by
  obtain ⟨wait, -, -⟩ := pbHeard_facts s f
  obtain ⟨-, -, -, wait2, -⟩ := pbCount_parts (s.pbHeard f) 1 1
  have low : ∀ g, PLow g → g.key ≠ PBM_CTRL_CRS.key → ((s.pbHeard f).pbCount 1 1).rd g = s.rd g := fun g hg hc => (pbCount_low _ hg).trans (crs_low hg hc s f)
  rw [pbReceive_good f run h60 hm, node]
  simp only
  generalize (s.pbHeard f).pbCount 1 1 = u at wait2 low
  rw [pbEvent_same (low CRZ_SEG_SEG (by unfold PLow; decide) (by decide)), if_pos ((dcqOffer_same _ (by decide) (wait2.trans wait) (low _ (by unfold PLow; decide) (by decide))).trans taken)]
  rw [dcqOffer_taken _ _ _ ((dcqOffer_same _ (by decide) (wait2.trans wait) (low _ (by unfold PLow; decide) (by decide))).trans taken), wait2, wait]

theorem pbReceive_unknown {s : State} {f : Octets} (run : s.rd PBM_CTRL_RUNST = 1) (h60 : 60 ≤ f.length) (hm : f.length + 4 ≤ clampN 64 2000 (s.rd PBM_RXCFG_MAXRX)) (node : s.poleNode (beAt f 6 6) = none) :
    (s.pbReceive f true).rd PBM_STATUS_UNKNOWN = 1 ∧ (s.pbReceive f true).rd (PBM_CNT_COUNT 5) = (s.rd (PBM_CNT_COUNT 5) + 1) % 2 ^ 40 ∧ (s.pbReceive f true).waiting = s.waiting := by
  obtain ⟨wait, -, cnt⟩ := pbHeard_facts s f
  obtain ⟨-, -, -, wait2, -⟩ := pbCount_parts (s.pbHeard f) 1 1
  obtain ⟨-, -, -, wait3, -⟩ := pbCount_parts ((s.pbHeard f).pbCount 1 1) 5 1
  rw [pbReceive_good f run h60 hm, node]
  simp only [raise_def]
  refine ⟨rd_wr_same _ _ _, ?_, wait3.trans (wait2.trans wait)⟩
  rw [rd_wr_ne _ _ (by decide), pbCount_same _ 5 1 (by decide), pbCount_other _ (by decide), cnt 5 (by decide) (by decide)]
  rfl

/-! ### Frames of the pole bus sent (R251) -/

theorem pbCarrier_idle {s : State} (h : s.rd PBM_CTRL_CRS = 0) : s.pbCarrier false = s := by
  unfold State.pbCarrier
  rw [if_neg Bool.false_ne_true, if_neg (by simp [State.on, h])]

theorem pbSend_go {s : State} {x : TxItem} {rest : List TxItem} (bad : Bool) (run : s.rd PBM_CTRL_RUNST = 1) (crs : s.rd PBM_CTRL_CRS = 0) (items : s.bh.pole.items = x :: rest) (backoff : s.bh.pole.backoff = none)
    (gap : s.bh.pole.gapUntil ≤ s.elapsed) (op : s.dcqOpen 5 = true) : s.pbSend false bad = s.pbOut x bad := by
  unfold State.pbSend
  rw [if_neg (by omega), pbCarrier_idle crs]
  simp only
  rw [if_neg Bool.false_ne_true, items, backoff]
  exact if_neg (by rw [op]; simp; exact gap)

/-- A frame on the medium (R251): counted, and sent with its FCS or an inverted one. -/
def State.pbSent (s : State) (x : TxItem) (bad : Bool) : State :=
  ((s.pbCount 7 ((padFrame (s.itemFrame x)).length + 4)).pbCount 8 1).emit ⟨2, s.now, padFrame (s.itemFrame x), if bad then (crc32 (padFrame (s.itemFrame x))).xor 0xFFFFFFFF else crc32 (padFrame (s.itemFrame x)), .whole, 0, 0⟩

theorem dcqPoison_parts (s : State) (n : Nat) : (s.dcqPoison n).bh = s.bh ∧ (s.dcqPoison n).sent = s.sent ∧ (s.dcqPoison n).cycles = s.cycles := by
  unfold State.dcqPoison
  simp only
  split <;> exact ⟨rfl, rfl, rfl⟩

theorem pbSent_parts (s : State) (x : TxItem) (bad : Bool) : (s.pbSent x bad).bh = s.bh ∧ (s.pbSent x bad).cycles = s.cycles ∧
    (s.pbSent x bad).sent = s.sent ++ [⟨2, s.now, padFrame (s.itemFrame x), if bad then (crc32 (padFrame (s.itemFrame x))).xor 0xFFFFFFFF else crc32 (padFrame (s.itemFrame x)), .whole, 0, 0⟩] ∧
    (s.pbSent x bad).rd (PBM_CNT_COUNT 8) = (s.rd (PBM_CNT_COUNT 8) + 1) % 2 ^ 40 := by
  obtain ⟨b1, s1, -, -, c1, -⟩ := pbCount_parts s 7 ((padFrame (s.itemFrame x)).length + 4)
  obtain ⟨b2, s2, -, -, c2, -⟩ := pbCount_parts (s.pbCount 7 ((padFrame (s.itemFrame x)).length + 4)) 8 1
  refine ⟨b2.trans b1, c2.trans c1, congrArg (· ++ _) (s2.trans s1), ?_⟩
  exact (pbCount_same _ 8 1 (by decide)).trans (by rw [pbCount_other _ (by decide)]; rfl)

theorem pbOut_eq (s : State) (x : TxItem) (bad : Bool) : s.pbOut x bad = ((if bad then (s.pbSent x bad).dcqPoison 5 else s.pbSent x bad).pbFinish x (if bad then 2 else 0) (b2n (!bad))).onPole
    (fun p => { p with gapUntil := (if bad then (s.pbSent x bad).dcqPoison 5 else s.pbSent x bad).elapsed + ((padFrame (s.itemFrame x)).length + 12) * 800 + 9600 }) := rfl

theorem pbOut_good {s : State} {x : TxItem} {rest : List TxItem} {i : Nat} (items : s.bh.pole.items = x :: rest) (owner : x.owner = some (2, i)) :
    (s.pbOut x false).sent = s.sent ++ [⟨2, s.now, padFrame (s.itemFrame x), crc32 (padFrame (s.itemFrame x)), .whole, 0, 0⟩] ∧
    (s.pbOut x false).bh.pole = ⟨rest, 0, none, false, s.elapsed + ((padFrame (s.itemFrame x)).length + 12) * 800 + 9600⟩ ∧ (s.pbOut x false).bh.backs = s.bh.backs ++ [⟨2, i, 0, 1, (txDesc x.desc).irq⟩] ∧
    (s.pbOut x false).rd (PBM_CNT_COUNT 8) = (s.rd (PBM_CNT_COUNT 8) + 1) % 2 ^ 40 := by
  obtain ⟨bh, cycles, sent, cnt⟩ := pbSent_parts s x false
  rw [pbOut_eq, if_neg Bool.false_ne_true]
  generalize s.pbSent x false = u at bh cycles sent cnt
  obtain ⟨pole, sent2, rd, backs⟩ := pbFinish_facts u x 0 1
  have el : u.elapsed = s.elapsed := by
    unfold State.elapsed
    rw [cycles]
  refine ⟨sent2.trans sent, ?_, (backs 2 i owner).trans (by rw [bh]), (rd _).trans cnt⟩
  show ({ (u.pbFinish x 0 1).bh.pole with gapUntil := _ } : PoleBus) = _
  rw [pole, bh, items, el]
  rfl

theorem pbOut_bad {s : State} {x : TxItem} {rest : List TxItem} {i : Nat} (items : s.bh.pole.items = x :: rest) (owner : x.owner = some (2, i)) :
    (s.pbOut x true).sent = s.sent ++ [⟨2, s.now, padFrame (s.itemFrame x), (crc32 (padFrame (s.itemFrame x))).xor 0xFFFFFFFF, .whole, 0, 0⟩] ∧ (s.pbOut x true).bh.pole.items = rest ∧
    (s.pbOut x true).bh.backs = s.bh.backs ++ [⟨2, i, 2, 0, (txDesc x.desc).irq⟩] := by
  obtain ⟨bh, -, sent, -⟩ := pbSent_parts s x true
  obtain ⟨bh2, sent2, -⟩ := dcqPoison_parts (s.pbSent x true) 5
  rw [pbOut_eq, if_pos rfl]
  generalize (s.pbSent x true).dcqPoison 5 = u at bh2 sent2
  obtain ⟨pole, sent3, -, backs⟩ := pbFinish_facts u x 2 0
  refine ⟨sent3.trans (sent2.trans sent), ?_, (backs 2 i owner).trans (by rw [bh2, bh])⟩
  show (u.pbFinish x 2 0).bh.pole.items = _
  rw [pole, bh2, bh, items]
  rfl

theorem pbSend_defers {s : State} {x : TxItem} {rest : List TxItem} (bad : Bool) (run : s.rd PBM_CTRL_RUNST = 1) (items : s.bh.pole.items = x :: rest) (fresh : s.bh.pole.deferred = false) :
    s.pbSend true bad = ((s.wr PBM_CTRL_CRS 1).pbCount 9 1).onPole (fun p => { p with deferred := true }) := by
  unfold State.pbSend
  rw [if_neg (by omega)]
  show (s.wr PBM_CTRL_CRS 1).pbDefer = _
  unfold State.pbDefer
  exact if_neg (by rw [show (s.wr PBM_CTRL_CRS 1).bh = s.bh from rfl, items, fresh]; simp)

theorem deferred_facts (s : State) : (((s.wr PBM_CTRL_CRS 1).pbCount 9 1).onPole (fun p => { p with deferred := true })).sent = s.sent ∧ (((s.wr PBM_CTRL_CRS 1).pbCount 9 1).onPole (fun p => { p with deferred := true })).rd PBM_CTRL_CRS = 1 ∧
    (((s.wr PBM_CTRL_CRS 1).pbCount 9 1).onPole (fun p => { p with deferred := true })).bh.pole = { s.bh.pole with deferred := true } ∧
    (((s.wr PBM_CTRL_CRS 1).pbCount 9 1).onPole (fun p => { p with deferred := true })).rd (PBM_CNT_COUNT 9) = (s.rd (PBM_CNT_COUNT 9) + 1) % 2 ^ 40 := by
  obtain ⟨bh, sent, -⟩ := pbCount_parts (s.wr PBM_CTRL_CRS 1) 9 1
  refine ⟨sent, ?_, ?_, ?_⟩
  · exact (pbCount_low (s.wr PBM_CTRL_CRS 1) (by unfold PLow; decide)).trans (rd_wr_same _ _ _)
  · show ({ ((s.wr PBM_CTRL_CRS 1).pbCount 9 1).bh.pole with deferred := true } : PoleBus) = _
    rw [bh]
    rfl
  · exact (pbCount_same _ 9 1 (by decide)).trans (by rw [rd_wr_ne _ _ (cnt_crs 9)]; rfl)

/-! ### Collisions (R251) -/

theorem pbCollision_eq {s : State} {x : TxItem} {rest : List TxItem} (late : Bool) (items : s.bh.pole.items = x :: rest) (backoff : s.bh.pole.backoff = none) : s.pbCollision late =
    if late then (((s.pbCount 10 1).pbCount 11 1).raise PBM_STATUS_LATECOLL).pbFinish x 5 0
    else if 16 ≤ (s.pbCount 10 1).bh.pole.tries + 1 then (((s.pbCount 10 1).pbCount 12 1).raise PBM_STATUS_EXCOLL).pbFinish x 4 0
    else (s.pbCount 10 1).freeTick.onPole (fun p => { p with tries := (s.pbCount 10 1).bh.pole.tries + 1, backoff := some ((s.pbCount 10 1).freeNat (min ((s.pbCount 10 1).bh.pole.tries + 1) 10), (s.pbCount 10 1).freeTick.elapsed) }) := by
  unfold State.pbCollision
  rw [items, backoff] <;> rfl

theorem collided_facts {s u : State} {x : TxItem} {rest : List TxItem} {flag : Field} (r n : Nat) (hw : 0 < flag.width) (bh : u.bh = s.bh) (items : s.bh.pole.items = x :: rest) : ((u.wr flag 1).pbFinish x r n).rd flag = 1 ∧
    ((u.wr flag 1).pbFinish x r n).bh.pole = ⟨rest, 0, none, false, s.bh.pole.gapUntil⟩ := by
  obtain ⟨pole, -, rd, -⟩ := pbFinish_facts (u.wr flag 1) x r n
  refine ⟨(rd _).trans ((rd_wr_same _ _ _).trans (Nat.mod_eq_of_lt (Nat.one_lt_two_pow (by omega)))), pole.trans ?_⟩
  rw [show (u.wr flag 1).bh = s.bh from bh, items]
  rfl

/-! ### The statement -/

/-- Settles O45. -/
theorem dayRestAndPoleBus : Obligations.DayRestAndPoleBus := by
  refine ⟨?_, ?_, ?_, ?_, ?_, ?_⟩
  · intro s l hs
    refine ⟨fun on split roles st wakes => ?_, fun barred => ?_, fun key hk e => ?_⟩
    · exact (enter_does _ true hs).trans (congrArg Host.Outcome.next (drEnter_may on split roles st wakes))
    · exact (enter_does _ true hs).trans (congrArg Host.Outcome.next (drEnter_barred barred))
    · exact (enter_does key e hs).trans (congrArg Host.Outcome.next (drEnter_other (fun h => hk (BitVec.eq_of_toNat_eq h))))
  · intro s hu ten due
    obtain ⟨st, time, cancel, wake, crz, lsc, lnu, esc, flt, now, p⟩ := restNoted_facts s
    refine ⟨fun h2 rest => ⟨_, congrArg Host.Outcome.next ((whenUp_up hu).trans (drWakeTime_due ten due (by omega))), ?_⟩, fun h1 rest => ⟨_, congrArg Host.Outcome.next ((whenUp_up hu).trans (drWakeTime_due ten due (by omega))), ?_⟩⟩
    · rw [h2] at cancel
      generalize s.restNoted = u at *
      obtain ⟨e1, e2, e3⟩ := restEnd_dr u
      obtain ⟨k1, k2, k3, k4⟩ := restEnd_kept u
      obtain ⟨r1, r2, r3, r4⟩ := restEnd_started (s := u) (by rw [crz]; exact rest)
      refine ⟨e1.trans st, e2.trans time, k1.trans cancel, e3.trans wake, r1, r2.trans ?_, r3, r4, k2.trans lnu, k3.trans esc, k4.trans flt⟩
      unfold State.creaseOf
      rw [now, p]
    · rw [h1] at cancel
      rw [restEnd_awake (s := s.restNoted) (by rw [crz]; exact rest)]
      exact ⟨st, cancel, crz, lsc⟩
  · intro s hu st drained sec once service
    refine congrArg Host.Outcome.next ((whenUp_up hu).trans ?_)
    unfold State.heartbeatRest
    exact if_neg (by rcases service with h | h <;> simp [st, drained, sec, once, h])
  · intro s stamp f hu run hs h60 hm
    subst hs
    refine ⟨fun n node taken => ⟨_, congrArg Host.Outcome.next (whenUp_up hu), pbReceive_event run h60 hm node taken⟩, fun node => ⟨_, congrArg Host.Outcome.next (whenUp_up hu), pbReceive_unknown run h60 hm node⟩,
      ⟨_, congrArg Host.Outcome.next ((whenUp_up hu).trans (pbReceive_bad f run h60)), ?_, ?_⟩⟩
    · rw [pbCount_same _ 2 1 (by decide), (pbHeard_facts s f).2.2 2 (by decide) (by decide)]
      rfl
    · exact (pbCount_parts _ 2 1).2.2.2.1.trans (pbHeard_facts s f).1
  · intro s x rest hu items backoff
    refine ⟨fun i f run crs gap op owner hf => ?_, fun bad run fresh => ⟨_, congrArg Host.Outcome.next ((whenUp_up hu).trans (pbSend_defers bad run items fresh)), deferred_facts s⟩, fun tries => ?_, fun tries => ?_, ?_⟩
    · subst hf
      exact ⟨⟨_, congrArg Host.Outcome.next ((whenUp_up hu).trans (pbSend_go false run crs items backoff gap op)), pbOut_good items owner⟩,
        ⟨_, congrArg Host.Outcome.next ((whenUp_up hu).trans (pbSend_go true run crs items backoff gap op)), pbOut_bad items owner⟩⟩
    · obtain ⟨bh, sent, -, -, cycles, free⟩ := pbCount_parts s 10 1
      have cnt : (s.pbCount 10 1).rd (PBM_CNT_COUNT 10) = (s.rd (PBM_CNT_COUNT 10) + 1) % 2 ^ 40 := pbCount_same s 10 1 (by decide)
      refine ⟨_, congrArg Host.Outcome.next ((whenUp_up hu).trans ((pbCollision_eq false items backoff).trans ((if_neg Bool.false_ne_true).trans (if_neg (by rw [bh]; omega))))), sent, cnt, (s.pbCount 10 1).freeNat (min (s.bh.pole.tries + 1) 10), ?_, ?_⟩
      · exact Nat.mod_lt _ (Nat.two_pow_pos _)
      · have el : (s.pbCount 10 1).freeTick.elapsed = s.elapsed := congrArg (· * 4) cycles
        show ({ (s.pbCount 10 1).bh.pole with tries := _, backoff := _ } : PoleBus) = _
        rw [el, bh]
    · exact ⟨_, congrArg Host.Outcome.next ((whenUp_up hu).trans ((pbCollision_eq false items backoff).trans ((if_neg Bool.false_ne_true).trans (if_pos (by rw [(pbCount_parts s 10 1).1]; omega))))),
        collided_facts 4 0 (by decide) ((pbCount_parts _ 12 1).1.trans (pbCount_parts s 10 1).1) items⟩
    · exact ⟨_, congrArg Host.Outcome.next ((whenUp_up hu).trans ((pbCollision_eq true items backoff).trans (if_pos rfl))),
        collided_facts 5 0 (by decide) ((pbCount_parts _ 11 1).1.trans (pbCount_parts s 10 1).1) items⟩
  · intro s r t0 hu backoff
    refine ⟨fun due => congrArg Host.Outcome.next ((whenUp_up hu).trans ?_), fun early => congrArg Host.Outcome.next ((whenUp_up hu).trans ?_)⟩ <;> unfold State.pbBackoff <;> rw [backoff]
    · exact if_pos due
    · exact if_neg (Nat.not_le.mpr early)

end Sys2Proof.Machine

/-! PROOFS. Links, preemption and pauses of the backhaul ports (R222, R223, R230, R234, R242, R243). -/
namespace Sys2Proof.Machine
set_option Elab.async false

/-! ### Fields of a port -/

/-- The fields of a port's control and status differ. -/
theorem port_keys : ∀ p : Fin 2,
    (BHM_CTRL_LINK p).key ≠ (BHM_CTRL_SGSPD p).key ∧ (BHM_CTRL_LINK p).key ≠ (BHM_STATUS_LINKCHG p).key ∧ (BHM_CTRL_LINK p).key ≠ (BHM_CTRL_RUNST p).key ∧ (BHM_CTRL_LINK p).key ≠ (BHM_STATUS_MODEERR p).key ∧
    (BHM_CTRL_LINK p).key ≠ (BHM_CTRL_PVERIFIED p).key ∧ (BHM_CTRL_RUNST p).key ≠ (BHM_STATUS_LINKCHG p).key ∧ (BHM_CTRL_RUNST p).key ≠ (BHM_STATUS_MODEERR p).key ∧ (BHM_CTRL_RUNST p).key ≠ (BHM_CTRL_PVERIFIED p).key ∧
    (BHM_STATUS_LINKCHG p).key ≠ (BHM_CTRL_RUNST p).key ∧ (BHM_STATUS_LINKCHG p).key ≠ (BHM_STATUS_MODEERR p).key ∧ (BHM_STATUS_LINKCHG p).key ≠ (BHM_CTRL_PVERIFIED p).key ∧
    (BHM_STATUS_MODEERR p).key ≠ (BHM_CTRL_PVERIFIED p).key ∧ (BHM_STATUS_MODEERR p).key ≠ (BHM_STATUS_STATHALF p).key ∧ (BHM_STATUS_MODEERR p).key ≠ (BHM_STATUS_TXERR p).key ∧
    (BHM_STATUS_LINKCHG p).key ≠ (BHM_STATUS_STATHALF p).key ∧ (BHM_STATUS_LINKCHG p).key ≠ (BHM_STATUS_TXERR p).key ∧ (BHM_CTRL_RUNST p).key ≠ (BHM_CTRL_LINK p).key := by decide

/-- The fields that a link's rise leaves: all but the port's link, its speed, its run state and their flags. -/
def LinkKeep (p : Nat) (f : Field) : Prop :=
  f.key ≠ (BHM_CTRL_SGSPD p).key ∧ f.key ≠ (BHM_CTRL_LINK p).key ∧ f.key ≠ (BHM_STATUS_LINKCHG p).key ∧ f.key ≠ (BHM_CTRL_RUNST p).key

/-! ### A port's state while descriptors are fetched -/

theorem txFetch_port (s : State) (p i q : Nat) : (s.txFetch p i).port q = s.port q := by
  unfold State.txFetch
  simp only
  split
  · rw [raise_def]
    exact port_bh (t := (s.bhCount p 46 1)) (bhCount_parts s p 46 1).1 q
  · rfl

theorem txFetchAll_port (p n q : Nat) : ∀ s : State, (txFetchAll p n s).port q = s.port q := by
  induction n with
  | zero => exact fun _ => rfl
  | succ n ih =>
    intro s
    unfold txFetchAll
    simp only
    split
    · rfl
    · exact (ih _).trans (txFetch_port s p _ q)

theorem txRun_port (s : State) (p q : Nat) : (s.txRun p).port q = s.port q := by
  unfold State.txRun
  split
  · exact txFetchAll_port _ _ _ _
  · rfl

theorem txRun_sent (s : State) (p : Nat) : (s.txRun p).sent = s.sent := only_part (m := 17592186045952) (txRun_only rfl (Only.refl s)) .sent rfl

/-- A field of a port's control reads on while descriptors are fetched. -/
theorem txRun_ctrl (s : State) (p : Fin 2) {f : Field} (h : f.reg % 65536 = 0 ∧ f.lo < 1024) : (s.txRun p).rd f = s.rd f := by
  obtain ⟨a, b⟩ := h
  refine txRun_rd s p f ⟨by omega, b, by omega⟩ ?_ ?_ <;> (unfold Field.key; simp only [BHM_STATUS_STATHALF, BHM_STATUS_TXERR]; omega)

/-! ### The verification of preemption (R242) -/

theorem startVerify_mismatch (s : State) (p : Nat) : ((s.startVerify p).port p).mismatch = (s.port p).mismatch := by
  unfold State.startVerify
  split
  · rfl
  · split
    · rfl
    · show ((s.onPort p (fun x => { x with verifies := 1, verifying := true, verifyAt := s.elapsed })).port p).mismatch = _
      rw [(onPort_facts _ _ _).1]

theorem control_sent (s : State) (p : Nat) (part : MPacket) : (s.control p part).sent = s.sent ++ [⟨p, s.now, zeros 60, mCrc (zeros 60), part, 0, 0⟩] := rfl

theorem onPort_rest (s : State) (p : Nat) (f : PortState → PortState) : (s.onPort p f).sent = s.sent ∧ (s.onPort p f).now = s.now := by
  unfold State.onPort
  split <;> exact ⟨rfl, rfl⟩

theorem startVerify_sends {s : State} {p : Nat} (pre : s.rd (BHM_CTRL_PREEMPT p) ≠ 0) (dis : s.rd (BHM_CTRL_VERIFY_DIS p) = 0) :
    (s.startVerify p).sent = s.sent ++ [⟨p, s.now, zeros 60, mCrc (zeros 60), .verify, 0, 0⟩] := by
  obtain ⟨sent, now⟩ := onPort_rest s p (fun x => { x with verifies := 1, verifying := true, verifyAt := s.elapsed })
  unfold State.startVerify
  rw [if_neg (by simp [State.on, pre]), if_neg (by simp [State.on, dis])]
  show ((s.onPort p _).control p .verify).sent = _
  rw [control_sent, sent, now]

theorem startVerify_skips {s : State} {p : Nat} (pre : s.rd (BHM_CTRL_PREEMPT p) ≠ 0) (dis : s.rd (BHM_CTRL_VERIFY_DIS p) ≠ 0) : s.startVerify p = s.wr (BHM_CTRL_PVERIFIED p) 1 := by
  unfold State.startVerify
  rw [if_neg (by simp [State.on, pre]), if_pos (by simp [State.on, dis])]

theorem verifyTimer_early {s : State} {p : Nat} (h : s.elapsed < (s.port p).verifyAt + s.rd (BHM_TCCFG_VERIFY_MS p) * 1000000) : s.verifyTimer p = s := by
  unfold State.verifyTimer
  exact if_pos (by simp [h])

theorem verifyTimer_again {s : State} {p : Nat} (on : (s.port p).verifying = true) (due : (s.port p).verifyAt + s.rd (BHM_TCCFG_VERIFY_MS p) * 1000000 ≤ s.elapsed) (n : (s.port p).verifies < 3) :
    s.verifyTimer p = (s.onPort p (fun x => { x with verifies := x.verifies + 1, verifyAt := s.elapsed })).control p .verify := by
  unfold State.verifyTimer
  exact (if_neg (by simp [on]; omega)).trans (if_pos n)

theorem verifyTimer_fails {s : State} {p : Nat} (on : (s.port p).verifying = true) (due : (s.port p).verifyAt + s.rd (BHM_TCCFG_VERIFY_MS p) * 1000000 ≤ s.elapsed) (n : 3 ≤ (s.port p).verifies) :
    s.verifyTimer p = (s.onPort p (fun x => { x with verifying := false })).raise (BHM_STATUS_VERIFYFAIL p) := by
  unfold State.verifyTimer
  exact (if_neg (by simp [on]; omega)).trans (if_neg (by omega))

theorem respond_awaited {s : State} {p : Nat} (on : (s.port p).verifying = true) : s.respond p = (s.onPort p (fun x => { x with verifying := false })).wr (BHM_CTRL_PVERIFIED p) 1 := if_pos on

/-! ### A link comes up or goes down (R222, R223) -/

/-- A port whose link has come up. -/
def State.linked (s : State) (p speed : Nat) : State :=
  (((if s.portMode p = 2 then s.wr (BHM_CTRL_SGSPD p) (min 2 speed) else s).wr (BHM_CTRL_LINK p) 1).raise (BHM_STATUS_LINKCHG p)).wr (BHM_CTRL_RUNST p) 1

/-- In HSR the ports' modes or speeds differ (R230). -/
def State.unlike (s : State) (p : Nat) : Bool :=
  s.ring == 1 && s.on (BHM_CTRL_LINK (1 - p)) && (s.portMode p != s.portMode (1 - p) || (s.portMode p == 2 && s.rd (BHM_CTRL_SGSPD p) != s.rd (BHM_CTRL_SGSPD (1 - p))))

/-- A port whose mode has been compared with the other's (R230). -/
def State.compared (s : State) (p : Nat) : State := (s.onPort p (fun x => { x with mismatch := s.unlike p })).raiseIf (s.unlike p) (BHM_STATUS_MODEERR p)

theorem linkUp_rises {s : State} {p speed : Nat} {half : Bool} (run : s.rd (BHM_CTRL_RUNST p) = 1 ∨ s.rd (BHM_CTRL_RUNST p) = 3) (down : s.rd (BHM_CTRL_LINK p) = 0) (duplex : s.portMode p ≠ 2 ∨ half = false) :
    s.linkUp p speed half = (((s.linked p speed).compared p).startVerify p).txRun p := by
  unfold State.linkUp
  simp only
  rw [if_neg (by rcases run with run | run <;> simp [run, State.on, down]), if_neg (by rcases duplex with h | h <;> simp [h])]
  rfl

theorem linkUp_half {s : State} {p speed : Nat} (run : s.rd (BHM_CTRL_RUNST p) = 1 ∨ s.rd (BHM_CTRL_RUNST p) = 3) (down : s.rd (BHM_CTRL_LINK p) = 0) (mode : s.portMode p = 2) :
    s.linkUp p speed true = s.wr (BHM_STATUS_MODEERR p) 1 := by
  unfold State.linkUp
  simp only
  rw [if_neg (by rcases run with run | run <;> simp [run, State.on, down]), if_pos ⟨mode, trivial⟩]
  rfl

theorem linked_facts (s : State) (p : Fin 2) (speed : Nat) : (s.linked p speed).rd (BHM_CTRL_LINK p) = 1 ∧ (s.linked p speed).rd (BHM_CTRL_RUNST p) = 1 ∧ (s.linked p speed).rd (BHM_STATUS_LINKCHG p) = 1 ∧
    (∀ f, LinkKeep p f → (s.linked p speed).rd f = s.rd f) ∧ (s.linked p speed).bh = s.bh ∧ (s.linked p speed).sent = s.sent ∧ (s.linked p speed).now = s.now := by
  obtain ⟨-, k2, k3, -, -, -, -, -, k9, -⟩ := port_keys p
  have first : (∀ f, f.key ≠ (BHM_CTRL_SGSPD p).key → (if s.portMode p = 2 then s.wr (BHM_CTRL_SGSPD p) (min 2 speed) else s).rd f = s.rd f) ∧ (if s.portMode p = 2 then s.wr (BHM_CTRL_SGSPD p) (min 2 speed) else s).bh = s.bh ∧
      (if s.portMode p = 2 then s.wr (BHM_CTRL_SGSPD p) (min 2 speed) else s).sent = s.sent ∧ (if s.portMode p = 2 then s.wr (BHM_CTRL_SGSPD p) (min 2 speed) else s).now = s.now := by
    split
    · exact ⟨fun f hf => rd_wr_ne _ _ hf, rfl, rfl, rfl⟩
    · exact ⟨fun _ _ => rfl, rfl, rfl, rfl⟩
  unfold State.linked
  generalize (if s.portMode p = 2 then s.wr (BHM_CTRL_SGSPD p) (min 2 speed) else s) = u at first
  obtain ⟨rd, bh, sent, now⟩ := first
  refine ⟨?_, rd_wr_same _ _ _, ?_, fun f ⟨h1, h2, h3, h4⟩ => ?_, bh, sent, now⟩
  · rw [rd_wr_ne _ _ k3, raise_def, rd_wr_ne _ _ k2, rd_wr_same]
    rfl
  · rw [rd_wr_ne _ _ k9, raise_def, rd_wr_same]
    rfl
  · rw [rd_wr_ne _ _ h4, raise_def, rd_wr_ne _ _ h3, rd_wr_ne _ _ h2]
    exact rd f h1

theorem linked_speed (s : State) (p : Fin 2) {speed : Nat} (mode : s.portMode p = 2) : (s.linked p speed).rd (BHM_CTRL_SGSPD p) = min 2 speed := by
  obtain ⟨k1, -⟩ := port_keys p
  have k2 : ∀ q : Fin 2, (BHM_CTRL_SGSPD q).key ≠ (BHM_STATUS_LINKCHG q).key ∧ (BHM_CTRL_SGSPD q).key ≠ (BHM_CTRL_RUNST q).key := by decide
  unfold State.linked
  rw [if_pos mode, rd_wr_ne _ _ (k2 p).2, raise_def, rd_wr_ne _ _ (k2 p).1, rd_wr_ne _ _ k1.symm, rd_wr_same]
  exact Nat.mod_eq_of_lt (Nat.lt_of_le_of_lt (Nat.min_le_left _ _) (by decide : 2 < 2 ^ 2))

theorem linkKeep_of (p : Fin 2) : LinkKeep p (BHM_CTRL_RING 0) ∧ LinkKeep p (BHM_CTRL_MODE p) ∧ LinkKeep p (BHM_CTRL_MODE (1 - p.val)) ∧ LinkKeep p (BHM_CTRL_LINK (1 - p.val)) ∧ LinkKeep p (BHM_CTRL_PREEMPT p) ∧
    LinkKeep p (BHM_CTRL_VERIFY_DIS p) := by
  unfold LinkKeep
  revert p
  decide

theorem unlike_linked {s u : State} (p : Fin 2) (rd : ∀ f, LinkKeep p f → u.rd f = s.rd f) : u.ring = s.ring ∧ u.portMode p = s.portMode p ∧ u.portMode (1 - p.val) = s.portMode (1 - p.val) ∧ u.on (BHM_CTRL_LINK (1 - p.val)) = s.on (BHM_CTRL_LINK (1 - p.val)) := by
  obtain ⟨ring, mode, mode2, link, -⟩ := linkKeep_of p
  unfold State.ring State.portMode State.on
  rw [rd _ ring, rd _ mode, rd _ mode2, rd _ link]
  exact ⟨rfl, rfl, rfl, rfl⟩

theorem compared_facts (s : State) (p : Nat) : ((s.compared p).port p).mismatch = s.unlike p ∧ (∀ f, f.key ≠ (BHM_STATUS_MODEERR p).key → (s.compared p).rd f = s.rd f) ∧ (s.unlike p = true → (s.compared p).rd (BHM_STATUS_MODEERR p) = 1) ∧
    (s.compared p).sent = s.sent ∧ (s.compared p).now = s.now := by
  obtain ⟨port, rd, -⟩ := onPort_facts s p (fun x => { x with mismatch := s.unlike p })
  obtain ⟨sent, now⟩ := onPort_rest s p (fun x => { x with mismatch := s.unlike p })
  unfold State.compared
  generalize s.onPort p (fun x => { x with mismatch := s.unlike p }) = u at port rd sent now
  have flag : ∀ b : Bool, (u.raiseIf b (BHM_STATUS_MODEERR p)).bh = u.bh ∧ (u.raiseIf b (BHM_STATUS_MODEERR p)).sent = u.sent ∧ (u.raiseIf b (BHM_STATUS_MODEERR p)).now = u.now := by
    intro b
    cases b <;> exact ⟨rfl, rfl, rfl⟩
  obtain ⟨f1, f2, f3⟩ := flag (s.unlike p)
  refine ⟨?_, fun f hf => (raiseIf_rd_ne _ hf).trans (rd f), fun h => raiseIf_rd_true _ h (by show 0 < 1; decide), f2.trans sent, f3.trans now⟩
  rw [port_bh f1, port]

theorem startVerify_other (s : State) (p : Fin 2) {f : Field} (h : f.key ≠ (BHM_CTRL_PVERIFIED p).key) : (s.startVerify p).rd f = s.rd f := startVerify_rd s p f h

theorem linkUp_facts {s : State} {p : Fin 2} {speed : Nat} (t : State) (ht : t = (((s.linked p speed).compared p).startVerify p).txRun p) :
    t.rd (BHM_CTRL_LINK p) = 1 ∧ t.rd (BHM_CTRL_RUNST p) = 1 ∧ t.rd (BHM_STATUS_LINKCHG p) = 1 ∧ (s.portMode p = 2 → t.rd (BHM_CTRL_SGSPD p) = min 2 speed) ∧ t.portUp p = !(s.linked p speed).unlike p ∧
    ((s.linked p speed).unlike p = true → t.rd (BHM_STATUS_MODEERR p) = 1) ∧
    (s.rd (BHM_CTRL_PREEMPT p) ≠ 0 → s.rd (BHM_CTRL_VERIFY_DIS p) = 0 → t.sent = s.sent ++ [⟨p, s.now, zeros 60, mCrc (zeros 60), .verify, 0, 0⟩]) ∧
    (s.rd (BHM_CTRL_PREEMPT p) ≠ 0 → s.rd (BHM_CTRL_VERIFY_DIS p) ≠ 0 → t.rd (BHM_CTRL_PVERIFIED p) = 1 ∧ t.sent = s.sent) := by
  obtain ⟨-, -, -, k4, k5, -, k7, k8, -, k10, k11, k12, k13, k14, k15, k16, -⟩ := port_keys p
  have ks : ∀ q : Fin 2, (BHM_CTRL_SGSPD q).key ≠ (BHM_STATUS_MODEERR q).key ∧ (BHM_CTRL_SGSPD q).key ≠ (BHM_CTRL_PVERIFIED q).key ∧ (BHM_CTRL_PREEMPT q).key ≠ (BHM_STATUS_MODEERR q).key ∧
    (BHM_CTRL_VERIFY_DIS q).key ≠ (BHM_STATUS_MODEERR q).key := by decide
  obtain ⟨ks1, ks2, ks3, ks4⟩ := ks p
  have ctrl : ∀ q : Fin 2, (BHM_CTRL_LINK q).reg % 65536 = 0 ∧ (BHM_CTRL_RUNST q).reg % 65536 = 0 ∧ (BHM_CTRL_SGSPD q).reg % 65536 = 0 ∧ (BHM_CTRL_PVERIFIED q).reg % 65536 = 0 := by decide
  have stat : ∀ q : Fin 2, (BHM_STATUS_LINKCHG q).reg % 65536 = 4 ∧ (BHM_STATUS_MODEERR q).reg % 65536 = 4 := by decide
  obtain ⟨c1, c2, c3, c4⟩ := ctrl p
  obtain ⟨s1, s2⟩ := stat p
  obtain ⟨link, run, chg, rd, -, sent, now⟩ := linked_facts s p speed
  obtain ⟨mis, rd2, err, sent2, now2⟩ := compared_facts (s.linked p speed) p
  obtain ⟨-, -, -, -, pre, dis⟩ := linkKeep_of p
  have spd := fun m => linked_speed s p (speed := speed) m
  subst ht
  generalize (s.linked p speed).unlike p = un at *
  generalize s.linked p speed = u at *
  generalize u.compared p = v at *
  have rdv : ∀ f : Field, f.key ≠ (BHM_CTRL_PVERIFIED p).key → f.key ≠ (BHM_STATUS_STATHALF p).key → f.key ≠ (BHM_STATUS_TXERR p).key → f.reg % 65536 < 2048 ∧ f.lo < 1024 ∧ f.reg % 65536 ≠ 0x8C → ((v.startVerify p).txRun p).rd f = v.rd f :=
    fun f h1 h2 h3 h4 => (txRun_rd _ _ _ h4 h2 h3).trans (startVerify_other v p h1)
  have linkT : ((v.startVerify p).txRun p).rd (BHM_CTRL_LINK p) = 1 := (txRun_ctrl _ p ⟨c1, by show 3 < 1024; decide⟩).trans ((startVerify_other v p k5).trans ((rd2 _ k4).trans link))
  have runT : ((v.startVerify p).txRun p).rd (BHM_CTRL_RUNST p) = 1 := (txRun_ctrl _ p ⟨c2, by show 1 < 1024; decide⟩).trans ((startVerify_other v p k8).trans ((rd2 _ k7).trans run))
  have preV : v.rd (BHM_CTRL_PREEMPT p) = s.rd (BHM_CTRL_PREEMPT p) := (rd2 _ ks3).trans (rd _ pre)
  have disV : v.rd (BHM_CTRL_VERIFY_DIS p) = s.rd (BHM_CTRL_VERIFY_DIS p) := (rd2 _ ks4).trans (rd _ dis)
  refine ⟨linkT, runT, ?_, fun mode => ?_, ?_, fun h => ?_, fun h1 h2 => ?_, fun h1 h2 => ?_⟩
  · exact (rdv _ k11 k15 k16 ⟨by omega, by show 12 < 1024; decide, by omega⟩).trans ((rd2 _ k10).trans chg)
  · exact (txRun_ctrl _ p ⟨c3, by show 6 < 1024; decide⟩).trans ((startVerify_other v p ks2).trans ((rd2 _ ks1).trans (spd mode)))
  · unfold State.portUp State.on
    rw [linkT, runT, txRun_port, startVerify_mismatch, mis]
    rfl
  · exact (rdv _ k12 k13 k14 ⟨by omega, by show 2 < 1024; decide, by omega⟩).trans (err h)
  · rw [txRun_sent, startVerify_sends (by rw [preV]; exact h1) (by rw [disV]; exact h2), sent2, sent, now2, now]
  · have e : v.startVerify p = v.wr (BHM_CTRL_PVERIFIED p) 1 := startVerify_skips (by rw [preV]; exact h1) (by rw [disV]; exact h2)
    refine ⟨?_, ?_⟩
    · rw [txRun_ctrl _ p ⟨c4, by show 8 < 1024; decide⟩, e, rd_wr_same]
      rfl
    · rw [txRun_sent, e]
      exact sent2.trans sent

theorem linkDown_falls {s : State} {p : Nat} (up : s.rd (BHM_CTRL_LINK p) ≠ 0) :
    s.linkDown p = (((s.wr (BHM_CTRL_LINK p) 0).raise (BHM_STATUS_LINKCHG p)).wr (BHM_CTRL_PVERIFIED p) 0).onPort p (fun x => { x with verifies := 0, verifying := false, mismatch := false }) := by
  unfold State.linkDown
  exact if_neg (by simp [State.on, up])

/-! ### Pauses (R243) -/

/-- A pause frame counted (R245). -/
def State.pauseHeard (s : State) (p m : Nat) : State := ((((((s.bhCount p 0 64).bhCount p 1 64).bhCount p 2 1).bhCount p m 1).bhCount p 4 1).bhCount p 6 1)

theorem pauseReceive_pause {s : State} {p : Nat} (mask : Nat) (quanta : List Nat) (up : s.portUp p = true) (en : (s.pauseHeard p 16).rd (BHM_TCCFG_PAUSE_EN p) ≠ 0) :
    s.pauseReceive p false mask quanta = (List.range 8).foldl (fun (s : State) tc => if (fun _ => true) tc then s.pauseTc p tc ((fun _ => nth 0 quanta 0 % 65536) tc) else s) (s.pauseHeard p 16) := by
  unfold State.pauseReceive
  rw [if_neg (by simp [up])]
  simp only
  rw [if_neg Bool.false_ne_true, if_neg Bool.false_ne_true]
  exact if_pos (bne_iff_ne.mpr en)

theorem pauseReceive_pfc {s : State} {p : Nat} (mask : Nat) (quanta : List Nat) (up : s.portUp p = true) (en : (s.pauseHeard p 17).rd (BHM_TCCFG_PFC_EN p) ≠ 0) :
    s.pauseReceive p true mask quanta = (List.range 8).foldl (fun (s : State) tc => if bit mask tc then s.pauseTc p tc ((fun k => nth 0 quanta k % 65536) tc) else s) (s.pauseHeard p 17) := by
  unfold State.pauseReceive
  rw [if_neg (by simp [up])]
  simp only
  rw [if_pos trivial, if_pos trivial]
  exact if_pos (bne_iff_ne.mpr en)

theorem pauseHeard_facts (s : State) (p : Nat) {m : Nat} (hm : m = 16 ∨ m = 17) : (s.pauseHeard p m).bh = s.bh ∧ (s.pauseHeard p m).cycles = s.cycles ∧
    (∀ f : Field, f.reg % 65536 < 2048 ∧ f.reg % 65536 ≠ 4 ∧ f.lo < 1024 → (s.pauseHeard p m).rd f = s.rd f) ∧ (s.pauseHeard p m).rd (BHM_CNT_COUNT p m) = (s.rd (BHM_CNT_COUNT p m) + 1) % 2 ^ 40 := by
  have parts (u : State) (k n : Nat) : (u.bhCount p k n).bh = u.bh ∧ (u.bhCount p k n).cycles = u.cycles := ⟨(bhCount_parts u p k n).1, (bhCount_parts u p k n).2.2.2.2⟩
  unfold State.pauseHeard
  refine ⟨?_, ?_, fun f hf => ?_, ?_⟩
  · simp only [parts]
  · simp only [parts]
  · simp only [bhCount_low _ hf]
  · rw [bhCount_other _ (by omega), bhCount_other _ (by omega), bhCount_same _ p m 1 (by omega), bhCount_other _ (by omega), bhCount_other _ (by omega), bhCount_other _ (by omega), if_neg (by omega)]

theorem elapsed_of {s t : State} (h : t.cycles = s.cycles) : t.elapsed = s.elapsed := congrArg (· * 4) h

/-- What a class's pause depends on stands after the frame is counted. -/
theorem pauseHeard_class (s : State) (p tc : Nat) {m : Nat} (hm : m = 16 ∨ m = 17) : (s.pauseHeard p m).express p tc = s.express p tc ∧ (s.pauseHeard p m).port p = s.port p ∧ (s.pauseHeard p m).overrun p tc = s.overrun p tc ∧
    (s.pauseHeard p m).elapsed = s.elapsed ∧ (∀ q, (s.pauseHeard p m).quantaNs p q = s.quantaNs p q) ∧ (s.pauseHeard p m).pwd p = s.pwd p := by
  obtain ⟨bh, cycles, low, -⟩ := pauseHeard_facts s p hm
  have el := elapsed_of cycles
  have pw : (s.pauseHeard p m).pwd p = s.pwd p := by
    unfold State.pwd
    rw [low _ (by simp only [BHM_TCCFG_PWD]; omega)]
  refine ⟨express_keep low p tc, port_bh bh p, ?_, el, quanta_keep low p, pw⟩
  unfold State.overrun
  rw [port_bh bh p, pw, el]

theorem cnt_pauseKeep (p : Nat) {m : Nat} (hm : m = 16 ∨ m = 17) : PauseKeep p (BHM_CNT_COUNT p m) := by
  obtain ⟨k1, k2, k3⟩ := cnt_ne (p := p) (m := m) (k := 45) (by omega)
  exact ⟨by unfold Field.key; simp only [BHM_CNT_COUNT, BHM_STATUS_PAUSEOVR]; omega, k1, k2, k3⟩

theorem pauseExpiry_due {s : State} {p tc : Nat} {z : Pause} (h : kvFind (s.port p).pauses tc = some z) (due : z.until' ≤ s.elapsed) : s.pauseExpiry p tc = s.onPort p (fun x => { x with pauses := kvErase x.pauses tc }) := by
  unfold State.pauseExpiry
  rw [h]
  exact if_pos due

/-! ### The pause watchdog (R243) -/

/-- A class that the watchdog has resumed. -/
def State.overridden (s : State) (p tc until' : Nat) : State :=
  ((s.onPort p (fun x => { x with pauses := kvErase x.pauses tc, ignore := kvSet x.ignore tc until' })).raise (BHM_STATUS_PAUSEOVR p)).bhCount p 45 1

theorem pauseWatchdog_due {s : State} {p tc : Nat} {z : Pause} (h : kvFind (s.port p).pauses tc = some z) (long : z.from' + s.pwd p ≤ z.until') (due : z.from' + s.pwd p ≤ s.elapsed) :
    s.pauseWatchdog p tc = s.overridden p tc (z.from' + s.pwd p + s.pwd p) := by
  unfold State.pauseWatchdog
  rw [h]
  exact if_pos ⟨long, due⟩

theorem overridden_facts (s : State) (p tc x : Nat) : kvFind ((s.overridden p tc x).port p).pauses tc = none ∧ (s.overridden p tc x).rd (BHM_STATUS_PAUSEOVR p) = 1 ∧
    (s.overridden p tc x).rd (BHM_CNT_COUNT p 45) = (s.rd (BHM_CNT_COUNT p 45) + 1) % 2 ^ 40 ∧ kvFind ((s.overridden p tc x).port p).ignore tc = some x ∧ (s.overridden p tc x).cycles = s.cycles := by
  obtain ⟨port, rd, cycles⟩ := onPort_facts s p (fun y => { y with pauses := kvErase y.pauses tc, ignore := kvSet y.ignore tc x })
  unfold State.overridden
  generalize s.onPort p (fun y => { y with pauses := kvErase y.pauses tc, ignore := kvSet y.ignore tc x }) = u at port rd cycles
  obtain ⟨bh, -, -, -, cyc⟩ := bhCount_parts (u.raise (BHM_STATUS_PAUSEOVR p)) p 45 1
  have e : ((u.raise (BHM_STATUS_PAUSEOVR p)).bhCount p 45 1).port p = u.port p := port_bh bh p
  have k1 : (BHM_STATUS_PAUSEOVR p).key ≠ (BHM_CNT_COUNT p 45).key := by unfold Field.key; simp only [BHM_CNT_COUNT, BHM_STATUS_PAUSEOVR]; omega
  have k2 : (BHM_STATUS_PAUSEOVR p).key ≠ (BHM_HALF_HALF p).key := by unfold Field.key; simp only [BHM_HALF_HALF, BHM_STATUS_PAUSEOVR]; omega
  have k3 : (BHM_STATUS_PAUSEOVR p).key ≠ (BHM_STATUS_STATHALF p).key := by unfold Field.key; simp only [BHM_STATUS_STATHALF, BHM_STATUS_PAUSEOVR]; omega
  refine ⟨?_, ?_, ?_, ?_, cyc.trans cycles⟩
  · rw [e, port]
    exact kvFind_kvErase_same _ _
  · rw [bhCount_ne _ k1 k2 k3, raise_def, rd_wr_same]
    rfl
  · rw [bhCount_same _ p 45 1 (by decide), raise_def, rd_wr_ne _ _ k1.symm, rd]
    rfl
  · rw [e, port]
    exact kvFind_kvSet_same _ _ _

theorem pauseWatchdog_over (s : State) (p tc : Nat) (h : s.rd (BHM_STATUS_PAUSEOVR p) = 1) : (s.pauseWatchdog p tc).rd (BHM_STATUS_PAUSEOVR p) = 1 := by
  unfold State.pauseWatchdog
  split
  · split
    · exact (overridden_facts s p tc _).2.1
    · exact h
  · exact h

theorem pauseTc_over (s : State) (p tc q : Nat) (h : s.rd (BHM_STATUS_PAUSEOVR p) = 1) : (s.pauseTc p tc q).rd (BHM_STATUS_PAUSEOVR p) = 1 := by
  have w := pauseWatchdog_over s p tc h
  unfold State.pauseTc
  simp only
  generalize s.pauseWatchdog p tc = u at w
  have port (g : PortState → PortState) : (u.onPort p g).rd (BHM_STATUS_PAUSEOVR p) = 1 := ((onPort_facts u p g).2.1 _).trans w
  simp only [apply_ite (fun v : State => v.rd (BHM_STATUS_PAUSEOVR p)), port, w, ite_self]

/-- A PAUSE of the cycle in which the watchdog expires does not prevent it. -/
theorem pauseTc_overrides {s : State} {p tc : Nat} {z : Pause} (q : Nat) (h : kvFind (s.port p).pauses tc = some z) (long : z.from' + s.pwd p ≤ z.until') (due : z.from' + s.pwd p = s.elapsed) :
    kvFind ((s.pauseTc p tc q).port p).pauses tc = none ∧ (s.pauseTc p tc q).rd (BHM_STATUS_PAUSEOVR p) = 1 := by
  obtain ⟨pauses, flag, -, ignore, cycles⟩ := overridden_facts s p tc (z.from' + s.pwd p + s.pwd p)
  have pw : 0 < s.pwd p := by
    unfold State.pwd
    omega
  have el := elapsed_of cycles
  have e : s.pauseTc p tc q = s.overridden p tc (z.from' + s.pwd p + s.pwd p) := by
    unfold State.pauseTc
    simp only
    rw [pauseWatchdog_due h long (by omega), ignore, el]
    exact if_pos (by simp; right; omega)
  rw [e]
  exact ⟨pauses, flag⟩

theorem pauses_override {p tc : Nat} (q : Nat) {z : Pause} : ∀ (L : List Nat) (s : State), tc ∈ L → L.Nodup → kvFind (s.port p).pauses tc = some z → z.from' + s.pwd p ≤ z.until' → z.from' + s.pwd p = s.elapsed →
    kvFind ((L.foldl (fun (u : State) k => u.pauseTc p k q) s).port p).pauses tc = none ∧ (L.foldl (fun (u : State) k => u.pauseTc p k q) s).rd (BHM_STATUS_PAUSEOVR p) = 1 := by
  have after : ∀ (L : List Nat) (u : State), tc ∉ L → kvFind (u.port p).pauses tc = none ∧ u.rd (BHM_STATUS_PAUSEOVR p) = 1 →
      kvFind ((L.foldl (fun (u : State) k => u.pauseTc p k q) u).port p).pauses tc = none ∧ (L.foldl (fun (u : State) k => u.pauseTc p k q) u).rd (BHM_STATUS_PAUSEOVR p) = 1 := by
    intro L
    induction L with
    | nil => exact fun _ _ h => h
    | cons x L ih =>
      intro u hx ⟨h1, h2⟩
      rw [List.mem_cons, not_or] at hx
      obtain ⟨-, -, others⟩ := pauseTc_facts u p x q
      exact ih _ hx.2 ⟨((others tc hx.1).1).trans h1, pauseTc_over u p x q h2⟩
  intro L
  induction L with
  | nil => exact fun _ h => absurd h List.not_mem_nil
  | cons x L ih =>
    intro s hm hd hz long due
    rw [List.nodup_cons] at hd
    by_cases e : tc = x
    · subst e
      exact after L _ hd.1 (pauseTc_overrides q hz long due)
    · obtain ⟨rd, cycles, others⟩ := pauseTc_facts s p x q
      have pw : (s.pauseTc p x q).pwd p = s.pwd p := by
        unfold State.pwd
        rw [rd (BHM_TCCFG_PWD p) ?_]
        refine ⟨?_, ?_, ?_, ?_⟩ <;> (unfold Field.key; simp only [BHM_TCCFG_PWD, BHM_STATUS_PAUSEOVR, BHM_CNT_COUNT, BHM_HALF_HALF, BHM_STATUS_STATHALF]; omega)
      refine ih (s.pauseTc p x q) ((List.mem_cons.mp hm).resolve_left e) hd.2 ((others tc e).1.trans hz) (by rw [pw]; exact long) (by rw [pw, elapsed_of cycles]; exact due)

/-! ### The duplicate table (R234) -/

theorem dupForget_due {s : State} {src : Nat} {e : DupEntry} (h : kvFind s.bh.dup src = some e) (due : e.used + s.forget ≤ s.elapsed) : s.dupForget src = { s with bh := { s.bh with dup := kvErase s.bh.dup src } } := by
  unfold State.dupForget
  rw [h]
  exact if_pos due

theorem dupForget_early {s : State} {src : Nat} {e : DupEntry} (h : kvFind s.bh.dup src = some e) (early : s.elapsed < e.used + s.forget) : s.dupForget src = s := by
  unfold State.dupForget
  rw [h]
  exact if_neg (Nat.not_le.mpr early)

/-! ### The statement -/

theorem pause_class {s : State} {p : Fin 2} {m : Nat} (hm : m = 16 ∨ m = 17) (g : Nat → Nat) (c : Nat → Bool) (tc : Fin 8) (t : State)
    (ht : t = (List.range 8).foldl (fun (s : State) k => if c k then s.pauseTc p k (g k) else s) (s.pauseHeard p m)) :
    t.rd (BHM_CNT_COUNT p m) = (s.rd (BHM_CNT_COUNT p m) + 1) % 2 ^ 40 ∧ (c tc = false → kvFind (t.port p).pauses tc = kvFind (s.port p).pauses tc) ∧
    (c tc = true → s.express p tc = false → kvFind (s.port p).ignore tc = none → s.overrun p tc = false →
      (g tc = 0 → kvFind (t.port p).pauses tc = none) ∧ (g tc ≠ 0 → ∃ z, kvFind (t.port p).pauses tc = some z ∧ z.until' = s.elapsed + s.quantaNs p (g tc))) := by
  obtain ⟨rd, -, -, off, on⟩ := pauses_fold p g c (List.range 8) (s.pauseHeard p m) List.nodup_range
  obtain ⟨-, -, -, cnt⟩ := pauseHeard_facts s p hm
  obtain ⟨ex, port, ovr, el, qn, -⟩ := pauseHeard_class s p tc hm
  have mem := List.mem_range.mpr tc.isLt
  subst ht
  refine ⟨(rd _ (cnt_pauseKeep p hm)).trans cnt, fun h => (off tc mem h).trans (by rw [port]), fun h he hi ho => ?_⟩
  have r := on tc mem h (ex.trans he) (by rw [port]; exact hi) (ovr.trans ho)
  rw [el, qn] at r
  exact r

/-- Settles O43. -/
theorem linksAndPauses : Obligations.LinksAndPauses := by
  intro s p hu
  refine ⟨fun speed half run down => ⟨fun duplex => ?_, fun mode => ?_⟩, fun up => ?_, fun on => ⟨fun early => ?_, fun due => ⟨fun n => ?_, fun n => ?_⟩, ?_⟩, fun mask quanta tc up ex ig ov => ⟨fun en => ?_, fun en => ?_⟩,
    fun tc z hz => ⟨fun due => ?_, fun mask quanta up en long due => ?_, fun long due => ?_⟩, fun src e he => ⟨fun due => ?_, fun early => ?_⟩⟩
  · obtain ⟨link, st, chg, spd, portUp, err, send, skip⟩ := linkUp_facts (s := s) (p := p) (speed := speed.toNat) _ rfl
    obtain ⟨-, -, -, rd, -⟩ := linked_facts s p speed.toNat
    obtain ⟨ring, mode, mode2, other⟩ := unlike_linked p rd
    refine ⟨_, congrArg Host.Outcome.next ((whenUp_up hu).trans (linkUp_rises run down duplex)), link, st, chg, spd, fun h1 h2 h3 => ?_, fun h1 => ?_, send, skip⟩
    · have un : (s.linked p speed.toNat).unlike p = true := by
        unfold State.unlike
        rw [ring, mode, mode2, other]
        simp [State.on, h1, h2, h3]
      rw [un] at portUp
      exact ⟨err un, portUp⟩
    · have un : (s.linked p speed.toNat).unlike p = false := by
        unfold State.unlike
        rw [ring]
        simp [h1]
      rw [un] at portUp
      exact portUp
  · exact ⟨_, congrArg Host.Outcome.next ((whenUp_up hu).trans (linkUp_half run down mode)), rfl⟩
  · obtain ⟨-, k2, -, -, k5, k6, -, k8, -, -, k11, -, -, -, -, -, k17⟩ := port_keys p
    refine ⟨_, congrArg Host.Outcome.next ((whenUp_up hu).trans (linkDown_falls up)), ?_, ?_, ?_, ?_⟩ <;> rw [(onPort_facts _ _ _).2.1]
    · rw [rd_wr_ne _ _ k5, raise_def, rd_wr_ne _ _ k2, rd_wr_same]
      rfl
    · rw [rd_wr_ne _ _ k11, raise_def, rd_wr_same]
      rfl
    · rw [rd_wr_same]
      rfl
    · rw [rd_wr_ne _ _ k8, raise_def, rd_wr_ne _ _ k6, rd_wr_ne _ _ k17]
  · exact congrArg Host.Outcome.next ((whenUp_up hu).trans (verifyTimer_early early))
  · obtain ⟨sent, now⟩ := onPort_rest s p (fun x => { x with verifies := x.verifies + 1, verifyAt := s.elapsed })
    refine ⟨_, congrArg Host.Outcome.next ((whenUp_up hu).trans (verifyTimer_again on due n)), (onPort_facts s p (fun x => { x with verifies := x.verifies + 1, verifyAt := s.elapsed })).1, ?_⟩
    rw [control_sent, sent, now]
  · have k : ∀ q : Fin 2, (BHM_CTRL_PVERIFIED q).key ≠ (BHM_STATUS_VERIFYFAIL q).key := by decide
    refine ⟨_, congrArg Host.Outcome.next ((whenUp_up hu).trans (verifyTimer_fails on due n)), rd_wr_same _ _ _, congrArg PortState.verifying (onPort_facts s p (fun x => { x with verifying := false })).1, ?_, (onPort_rest _ _ _).1⟩
    rw [raise_def, rd_wr_ne _ _ (k p), (onPort_facts _ _ _).2.1]
  · exact ⟨_, congrArg Host.Outcome.next ((whenUp_up hu).trans (respond_awaited on)), rd_wr_same _ _ _, congrArg PortState.verifying (onPort_facts s p (fun x => { x with verifying := false })).1⟩
  · have en2 : (s.pauseHeard p 16).rd (BHM_TCCFG_PAUSE_EN p) ≠ 0 := by
      rw [(pauseHeard_facts s p (.inl rfl)).2.2.1 _ (by simp only [BHM_TCCFG_PAUSE_EN]; omega)]
      exact en
    obtain ⟨cnt, -, set⟩ := pause_class (s := s) (p := p) (.inl rfl) (fun _ => nth 0 quanta 0 % 65536) (fun _ => true) tc _ rfl
    exact ⟨_, congrArg Host.Outcome.next ((whenUp_up hu).trans (pauseReceive_pause mask.toNat quanta up en2)), cnt, set rfl ex ig ov⟩
  · have en2 : (s.pauseHeard p 17).rd (BHM_TCCFG_PFC_EN p) ≠ 0 := by
      rw [(pauseHeard_facts s p (.inr rfl)).2.2.1 _ (by simp only [BHM_TCCFG_PFC_EN]; omega)]
      exact en
    obtain ⟨cnt, off, set⟩ := pause_class (s := s) (p := p) (.inr rfl) (fun k => nth 0 quanta k % 65536) (fun k => bit mask.toNat k) tc _ rfl
    exact ⟨_, congrArg Host.Outcome.next ((whenUp_up hu).trans (pauseReceive_pfc mask.toNat quanta up en2)), cnt, off, fun h => (set h ex ig ov).1, fun h => (set h ex ig ov).2⟩
  · refine ⟨_, congrArg Host.Outcome.next ((whenUp_up hu).trans (pauseExpiry_due hz due)), ?_⟩
    show kvFind (State.port _ p).pauses tc = none
    rw [(onPort_facts _ _ _).1]
    exact kvFind_kvErase_same _ _
  · have en2 : (s.pauseHeard p 16).rd (BHM_TCCFG_PAUSE_EN p) ≠ 0 := by
      rw [(pauseHeard_facts s p (.inl rfl)).2.2.1 _ (by simp only [BHM_TCCFG_PAUSE_EN]; omega)]
      exact en
    obtain ⟨-, port, -, el, -, pw⟩ := pauseHeard_class s p tc (m := 16) (.inl rfl)
    refine ⟨_, congrArg Host.Outcome.next ((whenUp_up hu).trans (pauseReceive_pause mask.toNat quanta up en2)), ?_⟩
    exact pauses_override (nth 0 quanta 0 % 65536) (List.range 8) (s.pauseHeard p 16) (List.mem_range.mpr tc.isLt) List.nodup_range (by rw [port]; exact hz) (by rw [pw]; exact long) (by rw [pw, el]; exact due)
  · obtain ⟨pauses, flag, cnt, ignore, -⟩ := overridden_facts s p tc (z.from' + s.pwd p + s.pwd p)
    exact ⟨_, congrArg Host.Outcome.next ((whenUp_up hu).trans (pauseWatchdog_due hz long due)), pauses, flag, cnt, ignore⟩
  · exact ⟨_, congrArg Host.Outcome.next ((whenUp_up hu).trans (dupForget_due he due)), kvFind_kvErase_same _ _, fun k hk => kvFind_kvErase_ne _ hk⟩
  · exact congrArg Host.Outcome.next ((whenUp_up hu).trans (dupForget_early he early))

end Sys2Proof.Machine

/-! PROOFS. Frames of the backhaul ring (R225 to R245). -/
namespace Sys2Proof.Machine
set_option Elab.async false

/-! ### Frames received and accepted (R225 to R229) -/

theorem extract_plain {s : State} {p : Nat} {f : Octets} (t : Time) (h : ptpAt f = none) : s.extract p f t = s := by
  unfold State.extract
  rw [h]

theorem verify_answered {s : State} {p y : Nat} {f : Octets} {m : RxMeet} (up : s.portUp p = true) (ver : m.verify = true) (pre : s.rd (BHM_CTRL_PREEMPT p) ≠ 0) : s.bhReceive p y f m = s.control p .respond := by
  unfold State.bhReceive
  rw [if_neg (by simp [up]), if_pos ver]
  exact if_pos (bne_iff_ne.mpr pre)

theorem receive_mine {s : State} {p : Nat} {f : Octets} (t : Time) (m : RxMeet) (ptp : ptpAt f = none) (ring : s.ring = 0) (mine : s.addressed p f = true) : s.receiveFrame p f t true false m = s.takeFrame p f t m := by
  unfold State.receiveFrame
  simp only [Bool.true_and, mine, if_true, extract_plain t ptp]
  rw [if_neg (by omega), if_neg (by decide), if_neg (by simp [ring])]

theorem receive_other {s : State} {p : Nat} {f : Octets} (t : Time) (m : RxMeet) (ring : s.ring = 0) (other : s.addressed p f = false) : s.receiveFrame p f t true false m = s.bhCount p 18 1 := by
  unfold State.receiveFrame
  simp only [Bool.true_and, other]
  rw [if_neg (by rw [if_neg Bool.false_ne_true]; omega), if_pos (by decide), if_neg Bool.false_ne_true]

theorem receive_hsr {s : State} {p : Nat} {f : Octets} (t : Time) (m : RxMeet) (ptp : ptpAt f = none) (ring : s.ring = 1) (hsr : hasHsr f = true) (own : beAt f 6 6 ≠ s.macOf p) (pd : isPdelay f = false) :
    s.receiveFrame p f t true false m =
      if s.addressed p f then (s.ringForward p f t false m).1.acceptOnce p (beAt f 6 6) (hsrSeq f) f t m
      else if (s.ringForward p f t false m).2 then (s.ringForward p f t false m).1
      else (if beAt f 0 6 = (s.ringForward p f t false m).1.macOf p then (s.ringForward p f t false m).1 else (s.ringForward p f t false m).1.bhCount p 21 1).bhCount p 18 1 := by
  have id : (if (true && s.addressed p f) = true then s.extract p f t else s) = s := by
    rw [extract_plain t ptp, ite_self]
  unfold State.receiveFrame
  simp only
  rw [id, if_pos ring, if_pos hsr, if_neg own, pd, if_neg Bool.false_ne_true, Bool.true_and]

theorem low_srx (p : Nat) : Low (BHM_SRX_WR_VALUE p) ∧ Low (BHM_SRX_RD_VALUE p) ∧ Low (BHM_SRX_SIZE_VALUE p) ∧ Low (BHM_SRX_BASE_BASE p) := by
  unfold Low
  simp only [BHM_SRX_WR_VALUE, BHM_SRX_RD_VALUE, BHM_SRX_SIZE_VALUE, BHM_SRX_BASE_BASE]
  omega

theorem dcqOverflow_rd (s : State) (n k : Nat) {f : Field} (h : f.block ≠ 20) (hb : f.block < 22) : (s.dcqOverflow n k).rd f = s.rd f := by
  refine only_rd (dcqOverflow_only (μ := 34603008) rfl (Only.refl _)) ?_
  have b : ∀ k, k < 22 → k ≠ 20 → (decide (k < 22) && !(34603008 : Nat).testBit k) = true := by decide
  exact b _ hb h

theorem port_block (p : Fin 2) : (∀ m, (BHM_CNT_COUNT p m).block = 9 + p.val) ∧ (BHM_SRX_WR_VALUE p).block = 9 + p.val ∧ (BHM_STATUS_RXOVF p).block = 9 + p.val := by
  have hp := p.isLt
  refine ⟨fun m => ?_, ?_, ?_⟩ <;> (unfold Field.block Field.key; simp only [BHM_CNT_COUNT, BHM_SRX_WR_VALUE, BHM_STATUS_RXOVF]; omega)

/-- A frame that finds its queue full (R229). -/
theorem overflowed_facts (s : State) (p : Fin 2) (n k : Nat) : (((s.dcqOverflow n k).bhCount p 20 1).raise (BHM_STATUS_RXOVF p)).rd (BHM_CNT_COUNT p 20) = (s.rd (BHM_CNT_COUNT p 20) + 1) % 2 ^ 40 ∧
    (((s.dcqOverflow n k).bhCount p 20 1).raise (BHM_STATUS_RXOVF p)).rd (BHM_STATUS_RXOVF p) = 1 ∧ (((s.dcqOverflow n k).bhCount p 20 1).raise (BHM_STATUS_RXOVF p)).rd (BHM_SRX_WR_VALUE p) = s.rd (BHM_SRX_WR_VALUE p) := by
  obtain ⟨cnt, wr, -⟩ := port_block p
  have hp := p.isLt
  have k1 : (BHM_CNT_COUNT p 20).key ≠ (BHM_STATUS_RXOVF p).key := by unfold Field.key; simp only [BHM_CNT_COUNT, BHM_STATUS_RXOVF]; omega
  have k2 : (BHM_SRX_WR_VALUE p).key ≠ (BHM_STATUS_RXOVF p).key := by unfold Field.key; simp only [BHM_SRX_WR_VALUE, BHM_STATUS_RXOVF]; omega
  refine ⟨?_, rd_wr_same _ _ _, ?_⟩
  · rw [raise_def, rd_wr_ne _ _ k1, bhCount_same _ _ 20 1 (by decide), dcqOverflow_rd _ _ _ (by rw [cnt]; omega) (by rw [cnt]; omega)]
    rfl
  · rw [raise_def, rd_wr_ne _ _ k2, bhCount_Low _ (low_srx p).1, dcqOverflow_rd _ _ _ (by rw [wr]; omega) (by rw [wr]; omega)]

/-- The octets of a slot of the service ring (R228). -/
def srxOctets (p rule : Nat) (f : Octets) (t : Time) (poison : Bool) : Octets :=
  le 2 f.length ++ [octet (p + 8 * b2n poison), octet rule] ++ le 4 t.frac ++ le 8 (ts64 t) ++ f

theorem toService_room {s : State} {p : Nat} (rule : Nat) (f : Octets) (t : Time) (poison : Bool) (room : (s.rd (BHM_SRX_WR_VALUE p) + 1) % s.srxSize p ≠ s.rd (BHM_SRX_RD_VALUE p) % s.srxSize p) :
    s.toService p rule f t false false poison = ((s.sramWrite s.busLane (s.rd (BHM_SRX_BASE_BASE p) * 32 + s.rd (BHM_SRX_WR_VALUE p) * 2048) (srxOctets p rule f t poison)).wr (BHM_SRX_WR_VALUE p)
      ((s.rd (BHM_SRX_WR_VALUE p) + 1) % s.srxSize p)).raise (BHM_STATUS_SRXNEW p) := by
  unfold State.toService
  exact if_neg room

theorem srxSize_le (s : State) (p : Nat) : 0 < s.srxSize p ∧ s.srxSize p ≤ 512 := by
  unfold State.srxSize clampN
  split
  · omega
  · split <;> omega

theorem toService_facts {s : State} {p : Nat} (rule : Nat) (f : Octets) (t : Time) (poison : Bool) (room : (s.rd (BHM_SRX_WR_VALUE p) + 1) % s.srxSize p ≠ s.rd (BHM_SRX_RD_VALUE p) % s.srxSize p) :
    (s.toService p rule f t false false poison).rd (BHM_SRX_WR_VALUE p) = (s.rd (BHM_SRX_WR_VALUE p) + 1) % s.srxSize p ∧ (s.toService p rule f t false false poison).rd (BHM_STATUS_SRXNEW p) = 1 ∧
    (s.toService p rule f t false false poison).waiting = s.waiting ∧
    ((s.toService p rule f t false false poison).lane s.busLane).sram = memWrite (s.lane s.busLane).sram (s.rd (BHM_SRX_BASE_BASE p) * 32 + s.rd (BHM_SRX_WR_VALUE p) * 2048) (srxOctets p rule f t poison) := by
  obtain ⟨pos, top⟩ := srxSize_le s p
  have small := Nat.mod_lt (s.rd (BHM_SRX_WR_VALUE p) + 1) pos
  have k : (BHM_SRX_WR_VALUE p).key ≠ (BHM_STATUS_SRXNEW p).key := by unfold Field.key; simp only [BHM_SRX_WR_VALUE, BHM_STATUS_SRXNEW]; omega
  rw [toService_room rule f t poison room]
  refine ⟨?_, rd_wr_same _ _ _, ?_, ?_⟩
  · rw [raise_def, rd_wr_ne _ _ k, rd_wr_same]
    exact Nat.mod_eq_of_lt (Nat.lt_of_lt_of_le small (by show _ ≤ 2 ^ 10; omega))
  · show (s.sramWrite _ _ _).waiting = _
    cases s.busLane <;> rfl
  · rw [raise_def, wr_lane, wr_lane]
    exact (sramWrite_lane s s.busLane _ _).1

/-! ### Duplicates and forwarding in the ring (R233, R234) -/

/-- The fields that the forwarding out of a port leaves. -/
def AwayFrom (q : Nat) (f : Field) : Prop :=
  (∀ k, f.key ≠ (BHM_CNT_COUNT q k).key) ∧ f.key ≠ (BHM_HALF_HALF q).key ∧ f.key ≠ (BHM_STATUS_STATHALF q).key ∧ f.key ≠ (BHM_STATUS_FWDDROP q).key ∧ f.block ≠ 20 ∧ f.block < 22

/-- What the forwarding out of a port leaves: the queues of events, the duplicate table and the fields away from the port. -/
def ForwardKeeps (q : Nat) (s t : State) : Prop := t.waiting = s.waiting ∧ t.bh.dup = s.bh.dup ∧ ∀ f, AwayFrom q f → t.rd f = s.rd f

section
variable {q : Nat} {r s : State}

theorem ForwardKeeps.refl (s : State) : ForwardKeeps q s s := ⟨rfl, rfl, fun _ _ => rfl⟩

theorem ForwardKeeps.bhCount (h : ForwardKeeps q r s) (m n : Nat) : ForwardKeeps q r (s.bhCount q m n) := by
  obtain ⟨wait, dup, rd⟩ := h
  obtain ⟨bh, -, -, w, -⟩ := bhCount_parts s q m n
  exact ⟨w.trans wait, by rw [bh]; exact dup, fun f ⟨h1, h2, h3, h4, h5⟩ => (bhCount_ne s (h1 m) h2 h3).trans (rd f ⟨h1, h2, h3, h4, h5⟩)⟩

theorem ForwardKeeps.flag (h : ForwardKeeps q r s) : ForwardKeeps q r (s.raise (BHM_STATUS_FWDDROP q)) := by
  obtain ⟨wait, dup, rd⟩ := h
  exact ⟨wait, dup, fun f hf => (rd_wr_ne s 1 hf.2.2.2.1).trans (rd f hf)⟩

theorem ForwardKeeps.setFwd (h : ForwardKeeps q r s) (n : Nat) (l : List Forward) : ForwardKeeps q r (s.setFwd n l) := by
  obtain ⟨wait, dup, rd⟩ := h
  obtain ⟨w, -, same⟩ := setFwd_keeps s n l
  refine ⟨w.trans wait, ?_, fun f hf => (same f).trans (rd f hf)⟩
  rw [← dup]
  unfold State.setFwd
  split <;> rfl

theorem ForwardKeeps.only (h : ForwardKeeps q r s) {t : State} (o : Only 1048576 s t) : ForwardKeeps q r t := by
  obtain ⟨wait, dup, rd⟩ := h
  have bh : t.bh = s.bh := only_part o .bh rfl
  refine ⟨(only_part o .waiting rfl : t.waiting = s.waiting).trans wait, by rw [bh]; exact dup, fun f hf => (only_rd o ?_).trans (rd f hf)⟩
  have b : ∀ k, k < 22 → k ≠ 20 → (decide (k < 22) && !(1048576 : Nat).testBit k) = true := by decide
  exact b _ hf.2.2.2.2.2 hf.2.2.2.2.1

theorem fwdOverflow_keeps (h : ForwardKeeps q r s) (kept : List Forward) (w : Nat) : ForwardKeeps q r (s.fwdOverflow q kept w) := by
  have first : ForwardKeeps q r ((s.bhCount q 41 1).raise (BHM_STATUS_FWDDROP q)) := (h.bhCount 41 1).flag
  unfold State.fwdOverflow
  simp only
  generalize (s.bhCount q 41 1).raise (BHM_STATUS_FWDDROP q) = u at first
  refine ForwardKeeps.only ?_ (dcqCount_only rfl (Only.refl _))
  split
  · exact (first.setFwd _ _).only (dcqDiscard_only rfl (Only.refl _))
  · exact (first.setFwd _ _).only (dcqDiscard_only rfl (Only.refl _))

theorem offerForward_keeps (h : ForwardKeeps q r s) (x : Forward) (m : RxMeet) : ForwardKeeps q r (s.offerForward q x m) := by
  unfold State.offerForward
  simp only
  split
  · exact (h.bhCount 47 1).bhCount 41 1
  · split
    · exact fwdOverflow_keeps h _ _
    · split
      · split
        · exact fwdOverflow_keeps h _ _
        · exact fwdOverflow_keeps h _ _
      · exact (h.setFwd _ _).only (dcqCount_only rfl (Only.refl _))

end

theorem dupTest_rest (s : State) (a b c : Nat) : (s.dupTest a b c).1.waiting = s.waiting ∧ ∀ f, (s.dupTest a b c).1.rd f = s.rd f := ⟨rfl, fun _ => rfl⟩

/-- A forwarding window leaves the acceptance window of its source. -/
theorem dupTest_accept {s : State} {src q : Nat} {e : DupEntry} (n : Nat) (h : kvFind s.bh.dup src = some e) : ∃ e', kvFind (s.dupTest src (1 + n) q).1.bh.dup src = some e' ∧ e'.accept = e.accept := by
  unfold State.dupTest
  simp only [h]
  refine ⟨_, kvFind_kvSet_same _ _ _, ?_⟩
  simp only [Option.getD_some]
  rw [if_neg (by omega)]
  split <;> rfl

/-- A frame whose duplicate test for forwarding is done. -/
def State.forwardTested (s : State) (p : Nat) (f : Octets) : State :=
  if (s.dupTest (beAt f 6 6) (1 + (1 - p)) (hsrSeq f)).2.2 then (s.dupTest (beAt f 6 6) (1 + (1 - p)) (hsrSeq f)).1.bhCount p 25 1 else (s.dupTest (beAt f 6 6) (1 + (1 - p)) (hsrSeq f)).1

theorem ringForward_eq {s : State} {p : Nat} {f : Octets} (t : Time) (m : RxMeet) (far : beAt f 0 6 ≠ s.macOf p) : s.ringForward p f t false m =
    if (s.dupTest (beAt f 6 6) (1 + (1 - p)) (hsrSeq f)).2.1 then ((s.forwardTested p f).offerForward (1 - p) ⟨f, t, p, false, frameWords f.length⟩ m, true) else (s.forwardTested p f, false) := by
  unfold State.ringForward
  rw [if_neg far]
  rfl

theorem forwardTested_facts (s : State) (p : Nat) (f : Octets) : (s.forwardTested p f).waiting = s.waiting ∧ (s.forwardTested p f).bh = (s.dupTest (beAt f 6 6) (1 + (1 - p)) (hsrSeq f)).1.bh ∧ (∀ g, Low g → (s.forwardTested p f).rd g = s.rd g) ∧
    (s.forwardTested p f).rd (BHM_CNT_COUNT p 21) = s.rd (BHM_CNT_COUNT p 21) := by
  unfold State.forwardTested
  split
  · obtain ⟨bh, -, -, wait, -⟩ := bhCount_parts (s.dupTest (beAt f 6 6) (1 + (1 - p)) (hsrSeq f)).1 p 25 1
    exact ⟨wait, bh, fun g hg => bhCount_Low _ hg, bhCount_other _ (by decide)⟩
  · exact ⟨rfl, rfl, fun _ _ => rfl, rfl⟩

theorem away_of (p : Fin 2) : AwayFrom (1 - p.val) (BHM_CNT_COUNT p 21) ∧ AwayFrom (1 - p.val) (BHM_SRX_WR_VALUE p) := by
  have hp := p.isLt
  obtain ⟨cnt, wr, -⟩ := port_block p
  refine ⟨⟨fun k => ?_, ?_, ?_, ?_, by rw [cnt]; omega, by rw [cnt]; omega⟩, ⟨fun k => ?_, ?_, ?_, ?_, by rw [wr]; omega, by rw [wr]; omega⟩⟩ <;>
    (unfold Field.key; simp only [BHM_CNT_COUNT, BHM_SRX_WR_VALUE, BHM_HALF_HALF, BHM_STATUS_STATHALF, BHM_STATUS_FWDDROP]; omega)

/-- The forwarding of a ring frame leaves its acceptance (R233, R234). -/
theorem ringForward_keeps {s : State} {p : Fin 2} {f : Octets} {e : DupEntry} (t : Time) (m : RxMeet) (far : beAt f 0 6 ≠ s.macOf p) (known : kvFind s.bh.dup (beAt f 6 6) = some e) :
    (s.ringForward p f t false m).1.waiting = s.waiting ∧ (s.ringForward p f t false m).1.rd (BHM_CNT_COUNT p 21) = s.rd (BHM_CNT_COUNT p 21) ∧
    (s.ringForward p f t false m).1.rd (BHM_SRX_WR_VALUE p) = s.rd (BHM_SRX_WR_VALUE p) ∧ ∃ e', kvFind (s.ringForward p f t false m).1.bh.dup (beAt f 6 6) = some e' ∧ e'.accept = e.accept := by
  obtain ⟨wait, bh, low, cnt⟩ := forwardTested_facts s p f
  obtain ⟨e', he, acc⟩ := dupTest_accept (q := hsrSeq f) (1 - p.val) known
  rw [← bh] at he
  obtain ⟨a1, a2⟩ := away_of p
  rw [ringForward_eq t m far]
  split
  · obtain ⟨w2, dup, rd⟩ := offerForward_keeps (ForwardKeeps.refl (q := 1 - p.val) (s.forwardTested p f)) ⟨f, t, p, false, frameWords f.length⟩ m
    exact ⟨w2.trans wait, (rd _ a1).trans cnt, (rd _ a2).trans (low _ (low_srx p).1), e', by rw [dup]; exact he, acc⟩
  · exact ⟨wait, cnt, low _ (low_srx p).1, e', he, acc⟩

theorem fwdOf_other (s : State) (p : Fin 2) : s.fwdOf (fwdQueue (1 - p.val)) = (s.port (1 - p.val)).fwd := by
  match p with
  | 0 => rfl
  | 1 => rfl

theorem setFwd_other (s : State) (p : Fin 2) (l : List Forward) : ((s.setFwd (fwdQueue (1 - p.val)) l).port (1 - p.val)).fwd = l := by
  match p with
  | 0 => rfl
  | 1 => rfl

theorem dcqCount_port (s : State) (n q : Nat) : (s.dcqCount n).port q = s.port q := rfl

/-- What the counting of a good frame at a port leaves (R227). -/
def HeardAs (p : Nat) (s u : State) : Prop :=
  (∀ f, Low f → u.rd f = s.rd f) ∧ u.bh = s.bh ∧ u.waiting = s.waiting ∧ u.cycles = s.cycles ∧ (∀ l, u.lane l = s.lane l) ∧ u.lsc = s.lsc ∧
    ∀ k, 12 ≤ k → k < 28 → u.rd (BHM_CNT_COUNT p k) = s.rd (BHM_CNT_COUNT p k)

theorem bhFrameReceive_good {s : State} {p : Fin 2} {y : Nat} {f : Octets} {m : RxMeet} (hu : s.up = true) (up : s.portUp p = true) (ver : m.verify = false) (ok : m.err = .none) (min : 60 ≤ f.length) (max : f.length + 4 ≤ s.maxRx p) :
    ∃ u, HeardAs p s u ∧ exec (.bhFrameReceive p y f m) s = .next (u.receiveFrame p f (s.ingress p y) true false m) := by
  obtain ⟨u, e, low, bh, wait, cyc, -, lane, lsc, cnt, -⟩ := rx_go s p y f m ver up ok min max
  exact ⟨u, ⟨low, bh, wait, cyc, lane, lsc, cnt⟩, congrArg Host.Outcome.next ((whenUp_up hu).trans e)⟩

section
variable {s u : State} {p : Fin 2} (heard : HeardAs p s u)
include heard

theorem HeardAs.fits (k : Nat) : u.dcqFits (2 * p) k = s.dcqFits (2 * p) k := by
  obtain ⟨low, -, wait, -⟩ := heard
  have hp := p.isLt
  exact dcqFits_same k (by omega) wait (low _ (by unfold Low; simp only [DCQ_Q_W0_RUNST]; omega))

theorem HeardAs.frameEvent (r : Nat) (f : Octets) (t : Time) : u.frameEvent p r f t = s.event (72 + p.val) 0 0x01 (le 2 f.length ++ [octet r, octet 0] ++ f) t := by
  obtain ⟨low, -⟩ := heard
  unfold State.frameEvent State.event State.seg
  rw [low CRZ_SEG_SEG (by unfold Low; decide)]

/-- A frame for the module outside a redundant ring is steered to its action (R228, R229). -/
theorem HeardAs.taken {f : Octets} {t : Time} {m : RxMeet} {e : Event} (ptp : ptpAt f = none) (rest : s.rd BHM0_DR_STAT_STATE = 0) (woke : s.bh.woke ≠ some s.cycles) (col : s.rd FLT_CTRL_COLLECTOR = 0) (ring : s.ring = 0)
    (mine : s.addressed p f = true) (he : e = s.event (72 + p.val) 0 0x01 (le 2 f.length ++ [octet (s.steer p f).2, octet 0] ++ f) t) :
    u.receiveFrame p f t true false m = if (s.steer p f).1 = 0 then u.bhCount p 19 1
      else if m.full || !s.dcqFits (2 * p) e.words then ((u.dcqOverflow (2 * p) e.words).bhCount p 20 1).raise (BHM_STATUS_RXOVF p)
      else if 2 ≤ (s.steer p f).1 then (if (s.steer p f).1 % 2 = 1 then (u.dcqOffer (2 * p) e).1 else u).toService p (s.steer p f).2 f t false false m.poison
      else if (s.steer p f).1 % 2 = 1 then (u.dcqOffer (2 * p) e).1 else u := by
  have fits := heard.fits
  have event := heard.frameEvent
  obtain ⟨low, bh, -, cyc, -⟩ := heard
  have wake : u.wakingNow = false := by
    unfold State.wakingNow
    rw [bh, cyc]
    exact beq_false_of_ne woke
  have ring' : u.ring = 0 := (ring_keep low).trans ring
  have ste : u.steer p f = s.steer p f := steer_keep low p f
  rw [receive_mine t m ptp ring' ((addressed_keep low p f).trans mine), take_go u p f t m ring' ((low BHM0_DR_STAT_STATE (by unfold Low; decide)).trans rest) wake ((low FLT_CTRL_COLLECTOR (by unfold Low; decide)).trans col), ste, event, ← he, fits]

theorem HeardAs.service_room (room : (s.rd (BHM_SRX_WR_VALUE p) + 1) % s.srxSize p ≠ s.rd (BHM_SRX_RD_VALUE p) % s.srxSize p) :
    u.rd (BHM_SRX_WR_VALUE p) = s.rd (BHM_SRX_WR_VALUE p) ∧ u.srxSize p = s.srxSize p ∧ (u.rd (BHM_SRX_WR_VALUE p) + 1) % u.srxSize p ≠ u.rd (BHM_SRX_RD_VALUE p) % u.srxSize p := by
  obtain ⟨low, -⟩ := heard
  obtain ⟨wr, rd, size, -⟩ := low_srx p
  have sz : u.srxSize p = s.srxSize p := by unfold State.srxSize; rw [low _ size]
  refine ⟨low _ wr, sz, ?_⟩
  rw [low _ wr, low _ rd, sz]
  exact room

end

theorem frameWords_pos (n : Nat) : 0 < frameWords n := by
  unfold frameWords ceilDiv
  rw [if_neg (by decide)]
  omega

/-- The duplicate test for forwarding leaves the ports and their queues. -/
theorem forwardTested_gate {s u : State} (low : ∀ f, Low f → u.rd f = s.rd f) (bh : u.bh = s.bh) (wait : u.waiting = s.waiting) (p : Nat) (f : Octets) (n : Nat) :
    (∀ q, (u.forwardTested p f).portUp q = s.portUp q) ∧ (u.forwardTested p f).dcqOpen n = s.dcqOpen n ∧ (u.forwardTested p f).dcqUsed n = s.dcqUsed n ∧ ∀ q, (u.forwardTested p f).port q = s.port q := by
  obtain ⟨wait2, bh2, low2, -⟩ := forwardTested_facts u p f
  have p0 : (u.forwardTested p f).bh.port0 = s.bh.port0 := by rw [bh2, ← bh]; rfl
  have p1 : (u.forwardTested p f).bh.port1 = s.bh.port1 := by rw [bh2, ← bh]; rfl
  have port : ∀ q, (u.forwardTested p f).port q = s.port q := by
    intro q
    unfold State.port
    rw [p0, p1]
  have rd : ∀ g, Low g → (u.forwardTested p f).rd g = s.rd g := fun g hg => (low2 g hg).trans (low g hg)
  refine ⟨fun q => ?_, ?_, ?_, port⟩
  · unfold State.portUp State.on
    rw [rd _ (by unfold Low; simp only [BHM_CTRL_RUNST]; omega), rd _ (by unfold Low; simp only [BHM_CTRL_LINK]; omega), port]
  · unfold State.dcqOpen
    rw [rd _ (by unfold Low; simp only [DCQ_Q_W0_RUNST]; omega)]
  · unfold State.dcqUsed State.forwardWords
    rw [wait2, wait, p0, p1]

/-! ### A good frame of the backhaul, by its action -/

/-- The conditions under which O44 speaks of a frame received. -/
structure GoodFrame (s : State) (p : Fin 2) (symbol : Nat) (stamp : Time) (f : Octets) (m : RxMeet) : Prop where
  up : s.up = true
  port : s.portUp p = true
  verify : m.verify = false
  err : m.err = .none
  least : 60 ≤ f.length
  most : f.length + 4 ≤ s.maxRx p
  ptp : ptpAt f = none
  stamp_eq : stamp = s.ingress p symbol
  rest : s.rd BHM0_DR_STAT_STATE = 0
  woke : s.bh.woke ≠ some s.cycles
  collector : s.rd FLT_CTRL_COLLECTOR = 0

section
variable {s : State} {p : Fin 2} {y : Nat} {stamp : Time} {f : Octets} {m : RxMeet}

theorem GoodFrame.heard (h : GoodFrame s p y stamp f m) : ∃ u, HeardAs p s u ∧ exec (.bhFrameReceive p y f m) s = .next (u.receiveFrame p f stamp true false m) := by
  rw [h.stamp_eq]
  exact bhFrameReceive_good h.up h.port h.verify h.err h.least h.most

section
variable {e : Event} (h : GoodFrame s p y stamp f m) (ring : s.ring = 0) (mine : s.addressed p f = true) (he : e = s.event (72 + p.val) 0 0x01 (le 2 f.length ++ [octet (s.steer p f).2, octet 0] ++ f) stamp)
include h ring mine he

theorem steered_drop (act : (s.steer p f).1 = 0) : Answers (.bhFrameReceive p y f m) s (fun t => t.rd (BHM_CNT_COUNT p 19) = (s.rd (BHM_CNT_COUNT p 19) + 1) % 2 ^ 40 ∧ t.waiting = s.waiting) := by
  obtain ⟨u, heard, run⟩ := h.heard
  rw [heard.taken h.ptp h.rest h.woke h.collector ring mine he, if_pos act] at run
  obtain ⟨-, -, wait, -, -, -, cnt⟩ := heard
  refine ⟨_, run, ?_, (bhCount_parts u p 19 1).2.2.2.1.trans wait⟩
  rw [bhCount_same _ _ 19 1 (by decide), cnt 19 (by decide) (by decide)]
  rfl

theorem steered_full (act : (s.steer p f).1 ≠ 0) (full : m.full = true ∨ s.dcqFits (2 * p.val) e.words = false) :
    Answers (.bhFrameReceive p y f m) s (fun t => t.rd (BHM_CNT_COUNT p 20) = (s.rd (BHM_CNT_COUNT p 20) + 1) % 2 ^ 40 ∧ t.rd (BHM_STATUS_RXOVF p) = 1 ∧ t.rd (BHM_SRX_WR_VALUE p) = s.rd (BHM_SRX_WR_VALUE p)) := by
  obtain ⟨u, heard, run⟩ := h.heard
  rw [heard.taken h.ptp h.rest h.woke h.collector ring mine he, if_neg act, if_pos (by simpa using full)] at run
  obtain ⟨low, -, -, -, -, -, cnt⟩ := heard
  have facts := overflowed_facts u p (2 * p) e.words
  rw [cnt 20 (by decide) (by decide), low _ (low_srx p).1] at facts
  exact ⟨_, run, facts⟩

theorem steered_event (act : (s.steer p f).1 = 1) (room : m.full = false) (taken : (s.dcqOffer (2 * p) e).2 = true) :
    Answers (.bhFrameReceive p y f m) s (fun t => t.waiting = s.waiting ++ [⟨e, some (2 * p), e.words⟩]) := by
  obtain ⟨u, heard, run⟩ := h.heard
  have fits : s.dcqFits (2 * p) e.words = true := by
    unfold State.dcqOffer at taken
    split at taken
    case isTrue fits => exact fits
    case isFalse => exact absurd taken Bool.false_ne_true
  rw [heard.taken h.ptp h.rest h.woke h.collector ring mine he, act, if_neg (by decide), if_neg (by simp [room, fits]), if_neg (by decide), if_pos rfl] at run
  obtain ⟨low, -, wait, -⟩ := heard
  have hp := p.isLt
  have taken' : (u.dcqOffer (2 * p) e).2 = true := (dcqOffer_same e (by omega) wait (low _ (by unfold Low; simp only [DCQ_Q_W0_RUNST]; omega))).trans taken
  exact ⟨_, run, (dcqOffer_taken u _ _ taken').trans (congrArg (· ++ _) wait)⟩

theorem steered_service (act : (s.steer p f).1 = 2) (open' : m.full = false) (fits : s.dcqFits (2 * p.val) e.words = true) (room : (s.rd (BHM_SRX_WR_VALUE p) + 1) % s.srxSize p ≠ s.rd (BHM_SRX_RD_VALUE p) % s.srxSize p) :
    Answers (.bhFrameReceive p y f m) s (fun t => t.rd (BHM_SRX_WR_VALUE p) = (s.rd (BHM_SRX_WR_VALUE p) + 1) % s.srxSize p ∧ t.rd (BHM_STATUS_SRXNEW p) = 1 ∧ t.waiting = s.waiting ∧
      (t.lane s.busLane).sram = memWrite (s.lane s.busLane).sram (s.rd (BHM_SRX_BASE_BASE p) * 32 + s.rd (BHM_SRX_WR_VALUE p) * 2048)
        (le 2 f.length ++ [octet (p.val + 8 * b2n m.poison), octet (s.steer p f).2] ++ le 4 stamp.frac ++ le 8 (ts64 stamp) ++ f)) := by
  obtain ⟨u, heard, run⟩ := h.heard
  rw [heard.taken h.ptp h.rest h.woke h.collector ring mine he, if_neg (by omega), if_neg (by simp [open', fits]), if_pos (by omega), if_neg (by omega)] at run
  obtain ⟨wr, size, room'⟩ := heard.service_room room
  obtain ⟨low, -, wait, -, lane, lsc, -⟩ := heard
  have facts := toService_facts (s.steer p f).2 f stamp m.poison room'
  rw [wr, size, wait, bus_keep low lane lsc, lane, low _ (low_srx p).2.2.2] at facts
  exact ⟨_, run, facts⟩

end

theorem other_filtered (h : GoodFrame s p y stamp f m) (ring : s.ring = 0) (other : s.addressed p f = false) :
    Answers (.bhFrameReceive p y f m) s (fun t => t.rd (BHM_CNT_COUNT p 18) = (s.rd (BHM_CNT_COUNT p 18) + 1) % 2 ^ 40 ∧ t.waiting = s.waiting) := by
  obtain ⟨u, ⟨low, -, wait, -, -, -, cnt⟩, run⟩ := h.heard
  rw [receive_other stamp m ((ring_keep low).trans ring) ((addressed_keep low p f).trans other)] at run
  refine ⟨_, run, ?_, (bhCount_parts u p 18 1).2.2.2.1.trans wait⟩
  rw [bhCount_same _ _ 18 1 (by decide), cnt 18 (by decide) (by decide)]
  rfl

section
variable (h : GoodFrame s p y stamp f m) (ring : s.ring = 1) (tag : hasHsr f = true) (own : beAt f 6 6 ≠ s.macOf p) (pd : isPdelay f = false) (far : beAt f 0 6 ≠ s.macOf p)
include h ring tag own pd far

theorem ring_forwarded (news : (s.dupTest (beAt f 6 6) (1 + (1 - p.val)) (hsrSeq f)).2.1 = true) (up : s.portUp (1 - p.val) = true) (full : m.fwdFull = false) (cut : m.fwdCut = false) (open' : s.dcqOpen (fwdQueue (1 - p.val)) = true)
    (room : s.dcqUsed (fwdQueue (1 - p.val)) + frameWords f.length ≤ dcqDepth (fwdQueue (1 - p.val))) (other : s.addressed p f = false) :
    Answers (.bhFrameReceive p y f m) s (fun t => (t.port (1 - p.val)).fwd = (s.port (1 - p.val)).fwd ++ [⟨f, stamp, p.val, false, frameWords f.length⟩] ∧ t.waiting = s.waiting) := by
  obtain ⟨u, ⟨low, bh, wait, -, -, -, -⟩, run⟩ := h.heard
  have mac := mac_keep low p
  have test : (u.dupTest (beAt f 6 6) (1 + (1 - p.val)) (hsrSeq f)).2.1 = true := (congrArg Prod.fst (dup_keep bh _ _ _)).trans news
  obtain ⟨wait2, bh2, low2, -⟩ := forwardTested_facts u p f
  rw [receive_hsr stamp m h.ptp ((ring_keep low).trans ring) tag (by rw [mac]; exact own) pd, if_neg (by rw [addressed_keep low, other]; decide), ringForward_eq stamp m (by rw [mac]; exact far), if_pos test, if_pos rfl] at run
  obtain ⟨gate, opn, used, port⟩ := forwardTested_gate low bh wait p f (fwdQueue (1 - p.val))
  rw [offer_go _ _ _ _ ((gate _).trans up) full cut (opn.trans open') (by rw [used]; exact Nat.le_sub_of_add_le ((Nat.add_comm _ _).trans_le room)) (by rw [used]; have := frameWords_pos f.length; omega)] at run
  refine ⟨_, run, ?_, (setFwd_keeps (u.forwardTested p f) _ _).1.trans (wait2.trans wait)⟩
  rw [dcqCount_port, setFwd_other, fwdOf_other, port]

theorem ring_duplicate {e : DupEntry} (known : kvFind s.bh.dup (beAt f 6 6) = some e) (seen : (DupWindow.test e.accept (hsrSeq f)).2.1 = false) (mine : s.addressed p f = true) :
    Answers (.bhFrameReceive p y f m) s (fun t => t.rd (BHM_CNT_COUNT p 21) = (s.rd (BHM_CNT_COUNT p 21) + 1) % 2 ^ 40 ∧ t.waiting = s.waiting ∧ t.rd (BHM_SRX_WR_VALUE p) = s.rd (BHM_SRX_WR_VALUE p)) := by
  obtain ⟨u, ⟨low, bh, wait, -, -, -, cnt⟩, run⟩ := h.heard
  have mac := mac_keep low p
  obtain ⟨wait2, cnt2, wr2, e', known2, acc⟩ := ringForward_keeps stamp m (show beAt f 0 6 ≠ u.macOf p by rw [mac]; exact far) (show kvFind u.bh.dup (beAt f 6 6) = some e by rw [bh]; exact known)
  rw [receive_hsr stamp m h.ptp ((ring_keep low).trans ring) tag (by rw [mac]; exact own) pd, if_pos ((addressed_keep low p f).trans mine)] at run
  generalize (u.ringForward p f stamp false m).1 = v at *
  rw [← acc] at seen
  have pass := dup_known v _ (hsrSeq f) e' known2
  rw [accept_go v p _ _ f stamp m ((congrArg Prod.fst pass).trans seen) ((congrArg Prod.snd pass).trans (window_drop _ _ seen))] at run
  refine ⟨_, run, ?_, ?_, ?_⟩
  · rw [bhCount_same _ _ 21 1 (by decide), (dupTest_rest v _ _ _).2, cnt2, cnt 21 (by decide) (by decide)]
    rfl
  · exact (bhCount_parts _ p 21 1).2.2.2.1.trans ((dupTest_rest v _ _ _).1.trans (wait2.trans wait))
  · rw [bhCount_Low _ (low_srx p).1, (dupTest_rest v _ _ _).2, wr2, low _ (low_srx p).1]

end
end

/-! ### What leaves a port (R236 to R238, R241, R242) -/

/-- What the counters of a frame that leaves keep: those of `ms`, STOMP, the low fields, what has been sent, and the time. -/
def SendKeeps (p : Nat) (ms : List Nat) (s t : State) : Prop :=
  t.sent = s.sent ∧ t.bh = s.bh ∧ t.tb = s.tb ∧ (∀ f, Low f → t.rd f = s.rd f) ∧ t.rd (BHM_STATUS_STOMP p) = s.rd (BHM_STATUS_STOMP p) ∧ ∀ m ∈ ms, t.rd (BHM_CNT_COUNT p m) = s.rd (BHM_CNT_COUNT p m)

theorem SendKeeps.refl (p : Nat) (ms : List Nat) (s : State) : SendKeeps p ms s s := ⟨rfl, rfl, rfl, fun _ _ => rfl, rfl, fun _ _ => rfl⟩

theorem SendKeeps.count {p : Nat} {ms : List Nat} {r s : State} (h : SendKeeps p ms r s) {m : Nat} (n : Nat) (away : ∀ k ∈ ms, k % 48 ≠ m % 48) : SendKeeps p ms r (s.bhCount p m n) := by
  obtain ⟨sent, bh, tb, low, stomp, cnt⟩ := h
  obtain ⟨bh2, sent2, tb2, -⟩ := bhCount_parts s p m n
  refine ⟨sent2.trans sent, bh2.trans bh, tb2.trans tb, fun f hf => (bhCount_Low s hf).trans (low f hf), ?_, fun k hk => (bhCount_other s (away k hk)).trans (cnt k hk)⟩
  refine (bhCount_ne s ?_ ?_ ?_).trans stomp <;> (unfold Field.key; simp only [BHM_CNT_COUNT, BHM_STATUS_STOMP, BHM_STATUS_STATHALF, BHM_HALF_HALF]; omega)

theorem txGood_keeps (s : State) (p : Nat) (f : Octets) : SendKeeps p [40] s (s.txGood p f) := by
  have c := castClass_lt 31 f
  have z := sizeClass_lt 34 (f.length + 4)
  have away : ∀ m, m < 40 → ∀ k ∈ [40], k % 48 ≠ m % 48 := by
    intro m hm k hk
    rw [List.mem_singleton] at hk
    omega
  unfold State.txGood
  exact ((((SendKeeps.refl p [40] s).count _ (away _ (by omega))).count _ (away _ (by omega))).count _ (away _ (by omega))).count _ (away _ (by omega))

/-- The state in which the counters of a frame that leaves stand, its fragments not yet sent. -/
def State.sendCounted (s : State) (p : Nat) (f : Octets) (bad : Bool) : State := if bad then (s.txGood p f).bhCount p 42 1 else s.txGood p f

theorem sendCounted_keeps (s : State) (p : Nat) (f : Octets) (bad : Bool) : SendKeeps p [40] s (s.sendCounted p f bad) ∧ (s.sendCounted p f bad).rd (BHM_CNT_COUNT p 30) = (s.rd (BHM_CNT_COUNT p 30) + 1) % 2 ^ 40 := by
  obtain ⟨-, sent⟩ := txGood_parts s p f
  unfold State.sendCounted
  split
  · exact ⟨(txGood_keeps s p f).count 1 (by decide), (bhCount_other _ (by decide)).trans sent⟩
  · exact ⟨txGood_keeps s p f, sent⟩

theorem emitFragments_facts (p : Nat) (bad : Bool) (l : List Octets) : ∀ (s : State) (part : MPacket) (done : Octets),
    (∃ x : List Transmission, (s.emitFragments p bad part done l).sent = s.sent ++ x ∧ x.map (·.octets) = l ∧ ∀ y ∈ x, y.medium = p) ∧ (s.emitFragments p bad part done l).bh = s.bh ∧
    ∀ f, (s.emitFragments p bad part done l).rd f = s.rd f := by
  induction l with
  | nil => exact fun s _ _ => ⟨⟨[], (List.append_nil _).symm, rfl, fun _ h => absurd h List.not_mem_nil⟩, rfl, fun _ => rfl⟩
  | cons f t ih =>
    intro s part done
    match t, ih with
    | [], _ => exact ⟨⟨[_], rfl, rfl, fun y hy => by rw [List.mem_singleton.mp hy]⟩, rfl, fun _ => rfl⟩
    | g :: t, ih =>
      obtain ⟨⟨x, sent, octets, medium⟩, bh, rd⟩ := ih (s.emit ⟨p, s.now, f, mCrc (done ++ f), part, 0, 0⟩) .further (done ++ f)
      refine ⟨⟨⟨p, s.now, f, mCrc (done ++ f), part, 0, 0⟩ :: x, sent.trans ?_, by rw [List.map_cons, octets], fun y hy => ?_⟩, bh, rd⟩
      · show s.sent ++ [_] ++ x = _
        rw [List.append_assoc, List.singleton_append]
      · obtain rfl | hy := List.mem_cons.mp hy
        · rfl
        · exact medium y hy

/-- The fragments of a frame hold its octets in order (R242). -/
theorem fragments_flatten (least : Nat) (cuts : List Nat) : ∀ f : Octets, (fragments least cuts f).flatten = f := by
  induction cuts with
  | nil => exact fun f => List.append_nil f
  | cons c cs ih =>
    intro f
    unfold fragments
    split
    · rw [List.flatten_cons, ih, List.take_append_drop]
    · exact ih f

theorem sendFrame_cases (s : State) (p tc : Nat) (f : Octets) (bad : Bool) (cuts : List Nat) :
    s.sendFrame p tc f bad cuts = if (s.sendCounted p f bad).express p tc || !(s.sendCounted p f bad).on (BHM_CTRL_PVERIFIED p) then (s.sendCounted p f bad).emitFragments p bad .whole [] [f]
      else (if (fragments (64 * (1 + (s.sendCounted p f bad).rd (BHM_CTRL_ADDFRAG p))) cuts f).length = 1 then s.sendCounted p f bad
        else ((s.sendCounted p f bad).bhCount p 43 ((fragments (64 * (1 + (s.sendCounted p f bad).rd (BHM_CTRL_ADDFRAG p))) cuts f).length - 1)).bhCount p 44
          (fragments (64 * (1 + (s.sendCounted p f bad).rd (BHM_CTRL_ADDFRAG p))) cuts f).length).emitFragments p bad .first [] (fragments (64 * (1 + (s.sendCounted p f bad).rd (BHM_CTRL_ADDFRAG p))) cuts f) := rfl

/-- A frame that leaves a port: its octets in order, counted as sent (R241, R242, R245). -/
theorem sendFrame_facts (s : State) (p tc : Nat) (f : Octets) (bad : Bool) (cuts : List Nat) :
    (∃ l : List Transmission, (s.sendFrame p tc f bad cuts).sent = s.sent ++ l ∧ (l.map (·.octets)).flatten = f ∧ ∀ y ∈ l, y.medium = p) ∧ (s.sendFrame p tc f bad cuts).bh = s.bh ∧
    (s.sendFrame p tc f bad cuts).rd (BHM_CNT_COUNT p 30) = (s.rd (BHM_CNT_COUNT p 30) + 1) % 2 ^ 40 ∧ (s.sendFrame p tc f bad cuts).rd (BHM_CNT_COUNT p 40) = s.rd (BHM_CNT_COUNT p 40) ∧
    (s.sendFrame p tc f bad cuts).rd (BHM_STATUS_STOMP p) = s.rd (BHM_STATUS_STOMP p) := by
  obtain ⟨⟨sent, bh, -, -, stomp, fwd⟩, cnt⟩ := sendCounted_keeps s p f bad
  have fwd := fwd 40 (List.mem_singleton_self 40)
  rw [sendFrame_cases]
  generalize s.sendCounted p f bad = u at *
  split
  · obtain ⟨⟨x, sent2, octets, medium⟩, bh2, rd⟩ := emitFragments_facts p bad [f] u .whole []
    exact ⟨⟨x, by rw [sent2, sent], by rw [octets]; exact List.append_nil f, medium⟩, bh2.trans bh, (rd _).trans cnt, (rd _).trans fwd, (rd _).trans stomp⟩
  · generalize hl : fragments _ cuts f = l
    have flat : l.flatten = f := by rw [← hl, fragments_flatten]
    have counted : SendKeeps p [30, 40] u (if l.length = 1 then u else (u.bhCount p 43 (l.length - 1)).bhCount p 44 l.length) := by
      split
      · exact SendKeeps.refl p _ u
      · exact ((SendKeeps.refl p _ u).count _ (by decide)).count _ (by decide)
    generalize (if l.length = 1 then u else (u.bhCount p 43 (l.length - 1)).bhCount p 44 l.length) = v at *
    obtain ⟨sentv, bhv, -, -, stompv, cntv⟩ := counted
    obtain ⟨⟨x, sent2, octets, medium⟩, bh2, rd⟩ := emitFragments_facts p bad l v .first []
    exact ⟨⟨x, by rw [sent2, sentv, sent], by rw [octets]; exact flat, medium⟩, bh2.trans (bhv.trans bh), (rd _).trans ((cntv 30 (by decide)).trans cnt), (rd _).trans ((cntv 40 (by decide)).trans fwd),
      (rd _).trans (stompv.trans stomp)⟩

/-- An express frame, or one of a port that has not verified preemption, leaves whole (R242). -/
theorem sendFrame_whole {s : State} {p tc : Nat} (f : Octets) (bad : Bool) (cuts : List Nat) (h : s.express p tc = true ∨ s.rd (BHM_CTRL_PVERIFIED p) = 0) :
    (s.sendFrame p tc f bad cuts).sent = s.sent ++ [⟨p, s.now, f, if bad then (crc32 f).xor 0xFFFFFFFF else crc32 f, .whole, 0, 0⟩] := by
  obtain ⟨⟨sent, -, tb, low, -⟩, -⟩ := sendCounted_keeps s p f bad
  rw [sendFrame_cases]
  generalize s.sendCounted p f bad = u at *
  have whole : (u.express p tc || !u.on (BHM_CTRL_PVERIFIED p)) = true := by
    unfold State.express State.on at *
    rw [low (BHM_TCCFG_FPMAP p) (by unfold Low; simp only [BHM_TCCFG_FPMAP]; omega), low (BHM_CTRL_PVERIFIED p) (by unfold Low; simp only [BHM_CTRL_PVERIFIED]; omega)]
    rcases h with h | h
    · rw [h, Bool.true_or]
    · rw [h, bne_self_eq_false, Bool.not_false, Bool.or_true]
  rw [if_pos whole, ← sent]
  unfold State.now
  rw [← tb]
  rfl

/-- The fields of a port are none of the events' queues. -/
theorem port_away : ∀ p : Fin 2, ∀ f ∈ [BHM_CTRL_RUNST p, BHM_CTRL_LINK p, BHM_TCCFG_FPMAP p, BHM_CTRL_PVERIFIED p, BHM_STATUS_STOMP p, BHM_CNT_COUNT p 30, BHM_CNT_COUNT p 40, BHM_CNT_COUNT p 41, BHM_CNT_COUNT p 47],
    f.block ≠ 20 ∧ f.block < 22 := by decide

theorem dcqCount_rd (s : State) (n : Nat) {f : Field} (h : f.block ≠ 20) (hb : f.block < 22) : (s.dcqCount n).rd f = s.rd f := by
  refine only_rd (dcqCount_only (μ := 1048576) rfl (Only.refl _)) ?_
  have b : ∀ k, k < 22 → k ≠ 20 → (decide (k < 22) && !(1048576 : Nat).testBit k) = true := by decide
  exact b _ hb h

theorem dcqPoison_rd (s : State) (n : Nat) {f : Field} (h : f.block ≠ 20) (hb : f.block < 22) : (s.dcqPoison n).rd f = s.rd f := by
  refine only_rd (dcqPoison_only (μ := 1048576) rfl (Only.refl _)) ?_
  have b : ∀ k, k < 22 → k ≠ 20 → (decide (k < 22) && !(1048576 : Nat).testBit k) = true := by decide
  exact b _ hb h

theorem dcqPoison_tb (s : State) (n : Nat) : (s.dcqPoison n).tb = s.tb := only_part (m := 1048576) (dcqPoison_only rfl (Only.refl _)) .tb rfl

theorem turnTaken_facts (s : State) (p tc : Nat) (b : Bool) : (s.turnTaken p tc b).sent = s.sent ∧ (s.turnTaken p tc b).tb = s.tb ∧ (∀ f, (s.turnTaken p tc b).rd f = s.rd f) ∧ (s.turnTaken p tc b).bh.items = s.bh.items ∧
    (∀ q : Fin 2, ((s.turnTaken p tc b).port q).fwd = (s.port q).fwd ∧ ((s.turnTaken p tc b).port q).mismatch = (s.port q).mismatch) := by
  unfold State.turnTaken State.onPort
  simp only
  generalize (b && !s.tcIdle p tc) = c
  split
  · refine ⟨rfl, rfl, fun _ => rfl, rfl, fun q => ?_⟩
    match q with
    | 0 => exact ⟨rfl, rfl⟩
    | 1 => exact ⟨rfl, rfl⟩
  · refine ⟨rfl, rfl, fun _ => rfl, rfl, fun q => ?_⟩
    match q with
    | 0 => exact ⟨rfl, rfl⟩
    | 1 => exact ⟨rfl, rfl⟩

/-- The port whose forwarded frame has been taken from its queue. -/
def State.forwardLeft (s : State) (p : Nat) (x : Forward) : State :=
  ((s.setFwd (fwdQueue p) ((s.fwdOf (fwdQueue p)).erase x)).dcqCount (fwdQueue p)).turnTaken p (s.forwardTc p x.octets) true

theorem setFwd_own (s : State) (p : Fin 2) (x : Forward) : ((s.setFwd (fwdQueue p) ((s.fwdOf (fwdQueue p)).erase x)).port p).fwd = (s.port p).fwd.erase x ∧
    ((s.setFwd (fwdQueue p) ((s.fwdOf (fwdQueue p)).erase x)).port p).mismatch = (s.port p).mismatch ∧ (s.setFwd (fwdQueue p) ((s.fwdOf (fwdQueue p)).erase x)).sent = s.sent ∧
    (s.setFwd (fwdQueue p) ((s.fwdOf (fwdQueue p)).erase x)).tb = s.tb := by
  match p with
  | 0 => exact ⟨rfl, rfl, rfl, rfl⟩
  | 1 => exact ⟨rfl, rfl, rfl, rfl⟩

theorem forwardLeft_facts (s : State) (p : Fin 2) (x : Forward) : (s.forwardLeft p x).sent = s.sent ∧ (s.forwardLeft p x).now = s.now ∧ ((s.forwardLeft p x).port p).fwd = (s.port p).fwd.erase x ∧
    (s.forwardLeft p x).portUp p = s.portUp p ∧ ∀ f : Field, f.block ≠ 20 → f.block < 22 → (s.forwardLeft p x).rd f = s.rd f := by
  have away := port_away p
  obtain ⟨fwd, mis, sent, tb⟩ := setFwd_own s p x
  obtain ⟨-, -, same⟩ := setFwd_keeps s (fwdQueue p) ((s.fwdOf (fwdQueue p)).erase x)
  unfold State.forwardLeft
  generalize s.setFwd (fwdQueue p) ((s.fwdOf (fwdQueue p)).erase x) = u at *
  obtain ⟨sent2, tb2, rd, -, port⟩ := turnTaken_facts (u.dcqCount (fwdQueue p)) p (s.forwardTc p x.octets) true
  have keep : ∀ f : Field, f.block ≠ 20 → f.block < 22 → ((u.dcqCount (fwdQueue p)).turnTaken p (s.forwardTc p x.octets) true).rd f = s.rd f :=
    fun f h hb => (rd f).trans ((dcqCount_rd u _ h hb).trans (same f))
  refine ⟨sent2.trans sent, congrArg nsOf (congrArg TimeBase.now (tb2.trans tb)), (port p).1.trans fwd, ?_, keep⟩
  unfold State.portUp State.on
  rw [keep _ (away _ (by simp)).1 (away _ (by simp)).2, keep _ (away _ (by simp)).1 (away _ (by simp)).2, (port p).2.trans mis]

/-- The port that sends a forwarded frame, its counters taken. -/
def State.forwardSending (s : State) (p : Nat) (x : Forward) (poison : Bool) : State :=
  ((if poison then (s.forwardLeft p x).dcqPoison (fwdQueue p) else s.forwardLeft p x).bhCount p 40 1).raiseIf (x.bad || poison) (BHM_STATUS_STOMP p)

theorem forward_down {s : State} {p y : Nat} {m : TxMeet} {x : Forward} (first : s.forwardFirst p = true) (which : s.firstForward p = some x) (down : (s.forwardLeft p x).portUp p = false) :
    s.forward p y m = ((s.forwardLeft p x).bhCount p 47 1).bhCount p 41 1 := by
  unfold State.forwardLeft at *
  unfold State.forward
  simp only [first, which, down, Bool.not_true, Bool.not_false, Bool.false_eq_true, if_false, if_true]

theorem forward_sends {s : State} {p y : Nat} {m : TxMeet} {x : Forward} (first : s.forwardFirst p = true) (which : s.firstForward p = some x) (up : (s.forwardLeft p x).portUp p = true)
    (plain : (s.forwardLeft p x).rd TB_CTRL_TC_EN = 0 ∨ ptpType x.octets ≠ some 0) : s.forward p y m = (s.forwardSending p x m.poison).sendFrame p (s.forwardTc p x.octets) x.octets (x.bad || m.poison) m.cuts := by
  have op : ((s.forwardLeft p x).on TB_CTRL_TC_EN && ptpType x.octets == some 0) = false := by
    unfold State.on
    rcases plain with h | h
    · rw [h]; rfl
    · rw [beq_false_of_ne h, Bool.and_false]
  unfold State.forwardSending
  unfold State.forwardLeft at *
  unfold State.forward
  simp only [first, which, up, op, insert_zero, Bool.not_true, Bool.false_eq_true, if_false]

/-- A forwarded frame as it is about to leave: out of its queue, counted, STOMP set where it ended badly. -/
theorem forwardSending_facts (s : State) (p : Fin 2) (x : Forward) (b : Bool) : (s.forwardSending p x b).sent = s.sent ∧ (s.forwardSending p x b).now = s.now ∧ ((s.forwardSending p x b).port p).fwd = (s.port p).fwd.erase x ∧
    (s.forwardSending p x b).rd (BHM_CNT_COUNT p 40) = (s.rd (BHM_CNT_COUNT p 40) + 1) % 2 ^ 40 ∧ (x.bad = true ∨ b = true → (s.forwardSending p x b).rd (BHM_STATUS_STOMP p) = 1) ∧
    ∀ f : Field, Low f → f.block ≠ 20 → f.block < 22 → (s.forwardSending p x b).rd f = s.rd f := by
  have away := port_away p
  obtain ⟨sent, now, fwd, -, keep⟩ := forwardLeft_facts s p x
  unfold State.forwardSending
  generalize s.forwardLeft p x = u at *
  have poisoned : (if b then u.dcqPoison (fwdQueue p) else u).sent = u.sent ∧ (if b then u.dcqPoison (fwdQueue p) else u).now = u.now ∧ (if b then u.dcqPoison (fwdQueue p) else u).bh = u.bh ∧
      ∀ f : Field, f.block ≠ 20 → f.block < 22 → (if b then u.dcqPoison (fwdQueue p) else u).rd f = u.rd f := by
    split
    · obtain ⟨bh, sent, -⟩ := dcqPoison_parts u (fwdQueue p)
      exact ⟨sent, congrArg nsOf (congrArg TimeBase.now (dcqPoison_tb u _)), bh, fun f => dcqPoison_rd u _⟩
    · exact ⟨rfl, rfl, rfl, fun _ _ _ => rfl⟩
  generalize (if b then u.dcqPoison (fwdQueue p) else u) = v at *
  obtain ⟨sentv, nowv, bhv, keepv⟩ := poisoned
  obtain ⟨bh2, sent2, tb2, -⟩ := bhCount_parts v p 40 1
  have cnt : (v.bhCount p 40 1).rd (BHM_CNT_COUNT p 40) = (s.rd (BHM_CNT_COUNT p 40) + 1) % 2 ^ 40 := by
    rw [bhCount_same _ _ 40 1 (by decide), keepv _ (away _ (by simp)).1 (away _ (by simp)).2, keep _ (away _ (by simp)).1 (away _ (by simp)).2]
    rfl
  have low : ∀ f : Field, Low f → f.block ≠ 20 → f.block < 22 → (v.bhCount p 40 1).rd f = s.rd f := fun f hf h hb => (bhCount_Low v hf).trans ((keepv f h hb).trans (keep f h hb))
  have port : (v.bhCount p 40 1).port p = u.port p := by
    unfold State.port
    rw [bh2, bhv]
  have now2 : (v.bhCount p 40 1).now = s.now := (congrArg nsOf (congrArg TimeBase.now tb2)).trans (nowv.trans now)
  generalize v.bhCount p 40 1 = w at *
  unfold State.raiseIf
  split
  · have k : (BHM_CNT_COUNT p 40).key ≠ (BHM_STATUS_STOMP p).key := by unfold Field.key; simp only [BHM_CNT_COUNT, BHM_STATUS_STOMP]; omega
    refine ⟨sent2.trans (sentv.trans sent), now2, (congrArg PortState.fwd port).trans fwd, (rd_wr_ne w 1 k).trans cnt, fun _ => rd_wr_same w _ 1, fun f hf h hb => (rd_wr_ne w 1 ?_).trans (low f hf h hb)⟩
    obtain ⟨h1, h2⟩ := hf
    unfold Field.key
    simp only [BHM_STATUS_STOMP]
    omega
  · next h => exact ⟨sent2.trans (sentv.trans sent), now2, (congrArg PortState.fwd port).trans fwd, cnt, fun c => absurd (by simpa using c) h, low⟩

section
variable {s : State} {p : Fin 2} {x : Forward} (y : Nat) (m : TxMeet) (hu : s.up = true) (first : s.forwardFirst p = true) (which : s.firstForward p = some x)
include hu first which

theorem hsrForward_sends (up : s.portUp p = true) (plain : s.rd TB_CTRL_TC_EN = 0 ∨ ptpType x.octets ≠ some 0) :
    Answers (.hsrForward p y m) s (fun t => (t.port p).fwd = (s.port p).fwd.erase x ∧ t.rd (BHM_CNT_COUNT p 40) = (s.rd (BHM_CNT_COUNT p 40) + 1) % 2 ^ 40 ∧ (x.bad = true ∨ m.poison = true → t.rd (BHM_STATUS_STOMP p) = 1) ∧
      ∃ l : List Transmission, t.sent = s.sent ++ l ∧ (l.map (·.octets)).flatten = x.octets ∧ ∀ y ∈ l, y.medium = p.val) ∧
    (s.express p (s.forwardTc p x.octets) = true ∨ s.rd (BHM_CTRL_PVERIFIED p) = 0 → Answers (.hsrForward p y m) s (fun t =>
      t.sent = s.sent ++ [⟨p, s.now, x.octets, if x.bad || m.poison then (crc32 x.octets).xor 0xFFFFFFFF else crc32 x.octets, .whole, 0, 0⟩])) := by
  have away := port_away p
  obtain ⟨-, -, -, gate, keep⟩ := forwardLeft_facts s p x
  have run := congrArg Host.Outcome.next (β := Host.Outcome State Fault Refusal) ((whenUp_up (f := fun s => s.forward p.val y m) hu).trans (forward_sends (y := y) (m := m) first which (gate.trans up) (by rw [keep _ (by decide) (by decide)]; exact plain)))
  obtain ⟨sent, now, fwd, cnt, stomp, low⟩ := forwardSending_facts s p x m.poison
  have fpmap := low (BHM_TCCFG_FPMAP p) (by unfold Low; simp only [BHM_TCCFG_FPMAP]; omega) (away _ (by simp)).1 (away _ (by simp)).2
  have verified := low (BHM_CTRL_PVERIFIED p) (by unfold Low; simp only [BHM_CTRL_PVERIFIED]; omega) (away _ (by simp)).1 (away _ (by simp)).2
  generalize s.forwardSending p x m.poison = u at *
  obtain ⟨⟨l, sent2, octets, medium⟩, bh, -, cnt2, stomp2⟩ := sendFrame_facts u p (s.forwardTc p x.octets) x.octets (x.bad || m.poison) m.cuts
  refine ⟨⟨_, run, ?_, cnt2.trans cnt, fun h => stomp2.trans (stomp h), l, by rw [sent2, sent], octets, medium⟩, fun h => ⟨_, run, ?_⟩⟩
  · rw [← fwd]
    unfold State.port
    rw [bh]
  · rw [← sent, ← now]
    refine sendFrame_whole _ _ _ ?_
    unfold State.express at *
    rw [fpmap, verified]
    exact h

theorem hsrForward_down (down : s.portUp p = false) : Answers (.hsrForward p y m) s (fun t => t.sent = s.sent ∧ (t.port p).fwd = (s.port p).fwd.erase x ∧ t.rd (BHM_CNT_COUNT p 41) = (s.rd (BHM_CNT_COUNT p 41) + 1) % 2 ^ 40 ∧
      t.rd (BHM_CNT_COUNT p 47) = (s.rd (BHM_CNT_COUNT p 47) + 1) % 2 ^ 40) := by
  have away := port_away p
  obtain ⟨sent, -, fwd, gate, keep⟩ := forwardLeft_facts s p x
  have run := congrArg Host.Outcome.next (β := Host.Outcome State Fault Refusal) ((whenUp_up (f := fun s => s.forward p.val y m) hu).trans (forward_down (y := y) (m := m) first which (gate.trans down)))
  have k41 := keep (BHM_CNT_COUNT p 41) (away _ (by simp)).1 (away _ (by simp)).2
  have k47 := keep (BHM_CNT_COUNT p 47) (away _ (by simp)).1 (away _ (by simp)).2
  generalize s.forwardLeft p x = u at *
  obtain ⟨bh1, sent1, -⟩ := bhCount_parts u p 47 1
  obtain ⟨bh2, sent2, -⟩ := bhCount_parts (u.bhCount p 47 1) p 41 1
  refine ⟨_, run, sent2.trans (sent1.trans sent), ?_, ?_, ?_⟩
  · rw [← fwd]
    unfold State.port
    rw [bh2, bh1]
  · rw [bhCount_same _ _ 41 1 (by decide), bhCount_other _ (by decide), k41]
    rfl
  · rw [bhCount_other _ (by decide), bhCount_same _ _ 47 1 (by decide), k47]
    rfl

end

/-! ### Local frames and descriptors (R225, R239 to R241) -/

theorem itemSeq_plain {s : State} (x : TxItem) (raw : Bool) (ring : s.ring = 0) : (s.itemSeq x raw).1 = s := by
  unfold State.itemSeq
  split
  · rfl
  · rw [if_pos (by simp [ring])]

theorem dress_plain {s : State} (p q : Nat) (raw : Bool) (f : Octets) (ring : s.ring = 0) : s.dress p q raw f = padFrame f := by
  unfold State.dress
  rw [if_pos (by simp [ring])]

/-- The port by which a local frame leaves, the frame's poison counted. -/
def State.localPoisoned (s : State) (p : Nat) (poison : Bool) : State := if poison then s.dcqPoison (1 + 2 * p) else s

theorem sendLocal_plain {s : State} {p y : Nat} {m : TxMeet} {x : TxItem} (up : s.portUp p = true) (ring : s.ring = 0) (op : x.owner = none ∨ (txDesc x.desc).op = 0) : ∃ g : TxItem,
    s.sendLocal p y m x = ((((s.localPoisoned p m.poison).sendFrame p x.tc (padFrame (s.itemFrame x)) m.poison m.cuts).putItem x g).turnTaken p x.tc false).itemDone g := by
  have zero : (if x.owner.isSome = true then (txDesc x.desc).op else 0) = 0 := by
    split
    · next some' =>
      rcases op with h | h
      · rw [h] at some'; exact absurd some' (by decide)
      · exact h
    · rfl
  unfold State.sendLocal State.localPoisoned
  simp only [up, Bool.not_true, Bool.false_eq_true, if_false, itemSeq_plain x _ ring, dress_plain p _ _ _ ring, zero, insert_zero]
  exact ⟨_, rfl⟩

theorem sendLocal_down {s : State} {p y : Nat} {m : TxMeet} {x : TxItem} (down : s.portUp p = false) : s.sendLocal p y m x = ((s.bhCount p 47 1).putItem x (x.gone p)).itemDone (x.gone p) := by
  unfold State.sendLocal
  rw [if_pos (by simp [down])]

section
variable {s : State} {p : Fin 2} {x : TxItem} {f : Octets} (y : Nat) (m : TxMeet) (hu : s.up = true) (first : s.forwardFirst p = false) (opn : s.dcqOpen (1 + 2 * p.val) = true) (which : s.firstLocal p = some x)
include hu first opn which

theorem txFrameSend_runs : exec (.txFrameSend p y m) s = .next (s.sendLocal p y m x) := by
  refine congrArg Host.Outcome.next ((whenUp_up hu).trans ?_)
  unfold State.txSend
  rw [if_neg (by simp [first, opn]), which]

theorem txFrameSend_sends (hf : f = padFrame (s.itemFrame x)) (up : s.portUp p = true) (ring : s.ring = 0) (op : x.owner = none ∨ (txDesc x.desc).op = 0) :
    Answers (.txFrameSend p y m) s (fun t => t.rd (BHM_CNT_COUNT p 30) = (s.rd (BHM_CNT_COUNT p 30) + 1) % 2 ^ 40 ∧ ∃ l : List Transmission, t.sent = s.sent ++ l ∧ (l.map (·.octets)).flatten = f ∧ ∀ y ∈ l, y.medium = p.val) ∧
    (s.express p x.tc = true ∨ s.rd (BHM_CTRL_PVERIFIED p) = 0 → Answers (.txFrameSend p y m) s (fun t =>
      t.sent = s.sent ++ [⟨p, s.now, f, if m.poison then (crc32 f).xor 0xFFFFFFFF else crc32 f, .whole, 0, 0⟩])) := by
  have away := port_away p
  have run := txFrameSend_runs y m hu first opn which
  obtain ⟨g, plain⟩ := sendLocal_plain (y := y) (m := m) up ring op
  rw [plain, ← hf] at run
  have poisoned : (s.localPoisoned p m.poison).sent = s.sent ∧ (s.localPoisoned p m.poison).now = s.now ∧ ∀ f : Field, f.block ≠ 20 → f.block < 22 → (s.localPoisoned p m.poison).rd f = s.rd f := by
    unfold State.localPoisoned
    split
    · exact ⟨(dcqPoison_parts s _).2.1, congrArg nsOf (congrArg TimeBase.now (dcqPoison_tb s _)), fun f => dcqPoison_rd s _⟩
    · exact ⟨rfl, rfl, fun _ _ _ => rfl⟩
  generalize s.localPoisoned p m.poison = u at *
  obtain ⟨sent, now, keep⟩ := poisoned
  have whole := sendFrame_whole (s := u) (p := p) (tc := x.tc) f m.poison m.cuts
  obtain ⟨⟨l, sent2, octets, medium⟩, -, cnt, -⟩ := sendFrame_facts u p x.tc f m.poison m.cuts
  generalize u.sendFrame p x.tc f m.poison m.cuts = v at *
  obtain ⟨sent4, rd4⟩ := itemDone_facts ((v.putItem x g).turnTaken p x.tc false) g
  obtain ⟨sent3, -, rd3, -⟩ := turnTaken_facts (v.putItem x g) p x.tc false
  refine ⟨⟨_, run, ?_, l, ?_, octets, medium⟩, fun h => ⟨_, run, ?_⟩⟩
  · rw [rd4, rd3]
    exact cnt.trans (by rw [keep _ (away _ (by simp)).1 (away _ (by simp)).2])
  · rw [sent4, sent3, ← sent]
    exact sent2
  · refine (sent4.trans sent3).trans ?_
    rw [← sent, ← now]
    refine whole ?_
    unfold State.express at *
    rw [keep _ (away (BHM_TCCFG_FPMAP p) (by simp)).1 (away _ (by simp)).2, keep _ (away (BHM_CTRL_PVERIFIED p) (by simp)).1 (away _ (by simp)).2]
    exact h

theorem txFrameSend_down (down : s.portUp p = false) : Answers (.txFrameSend p y m) s (fun t => t.sent = s.sent ∧ t.rd (BHM_CNT_COUNT p 47) = (s.rd (BHM_CNT_COUNT p 47) + 1) % 2 ^ 40) := by
  have run := txFrameSend_runs y m hu first opn which
  rw [sendLocal_down down] at run
  obtain ⟨sent2, rd2⟩ := itemDone_facts ((s.bhCount p 47 1).putItem x (x.gone p)) (x.gone p)
  refine ⟨_, run, sent2.trans (bhCount_parts s p 47 1).2.1, ?_⟩
  rw [rd2]
  exact bhCount_same s p 47 1 (by decide)

end

/-- A write of TX_TAIL has a running port fetch the descriptors up to it (R239). -/
theorem txTail_fetches {s : State} {p : Fin 2} (v : Nat) (run : s.rd (BHM_CTRL_RUNST p) = 1) (head : s.rd (BHM_TX_HEAD_VALUE p) < s.txSize p) :
    (s.txTail p v).rd (BHM_TX_TAIL_VALUE p) = v % 4096 ∧ (s.txTail p v).rd (BHM_TX_HEAD_VALUE p) = v % 4096 % s.txSize p := by
  have k1 : (BHM_CTRL_RUNST p).key ≠ (BHM_TX_TAIL_VALUE p).key := by unfold Field.key; simp only [BHM_CTRL_RUNST, BHM_TX_TAIL_VALUE]; omega
  have k2 : (BHM_TX_HEAD_VALUE p).key ≠ (BHM_TX_TAIL_VALUE p).key := by unfold Field.key; simp only [BHM_TX_HEAD_VALUE, BHM_TX_TAIL_VALUE]; omega
  have k3 : (BHM_TX_SIZE_VALUE p).key ≠ (BHM_TX_TAIL_VALUE p).key := by unfold Field.key; simp only [BHM_TX_SIZE_VALUE, BHM_TX_TAIL_VALUE]; omega
  have size : (s.wr (BHM_TX_TAIL_VALUE p) v).txSize p = s.txSize p := by
    unfold State.txSize
    rw [rd_wr_ne s v k3]
  have small : s.txSize p ≤ 4095 := by
    have := rd_lt s (BHM_TX_SIZE_VALUE p)
    unfold State.txSize
    have w : 2 ^ (BHM_TX_SIZE_VALUE p).width = 4096 := rfl
    omega
  have tail : (s.wr (BHM_TX_TAIL_VALUE p) v).rd (BHM_TX_TAIL_VALUE p) = v % 4096 := rd_wr_same s _ v
  have fetch : s.txTail p v = txFetchAll p (s.txSize p) (s.wr (BHM_TX_TAIL_VALUE p) v) := by
    unfold State.txTail State.txRun
    rw [if_pos ((rd_wr_ne s v k1).trans run), size]
  rw [fetch]
  have hp := p.isLt
  constructor
  · rw [txFetchAll_rd, tail] <;> (unfold Field.key; simp only [BHM_TX_TAIL_VALUE, BHM_CNT_COUNT, BHM_HALF_HALF, BHM_STATUS_STATHALF, BHM_STATUS_TXERR, BHM_TX_HEAD_VALUE]; omega)
  · rw [txFetchAll_head _ _ _ (by rw [rd_wr_ne s v k2, size]; exact head) (by rw [size]; exact small) (by rw [size]; exact (Nat.mod_lt _ (by unfold State.txSize; omega)).le), tail, size]

/-- A descriptor is written back with DONE, its result and its frames (R240). -/
theorem writeBack_facts {s : State} {b : WriteBack} {rest : List WriteBack} (hu : s.up = true) (backs : s.bh.backs = b :: rest) (ring : b.ring < 2) :
    Answers .descriptorWriteback s (fun t => t.bh = { s.bh with backs := rest } ∧
      (t.lane s.busLane).sram = memWrite (s.lane s.busLane).sram (s.rd (BHM_TX_BASE_BASE b.ring) * 32 + 32 * b.index + 28) (le 2 (1 + 2 * b.result) ++ le 2 b.frames) ∧ (b.irq = true → t.rd (BHM_STATUS_TXDONE b.ring) = 1)) := by
  have step : s.writeBackNext = ({ s with bh := { s.bh with backs := rest } } : State).txWriteNow b := by
    unfold State.writeBackNext
    rw [backs]
    exact if_neg (by omega)
  refine ⟨_, congrArg Host.Outcome.next ((whenUp_up hu).trans step), ?_⟩
  have bus : ({ s with bh := { s.bh with backs := rest } } : State).busLane = s.busLane := rfl
  have base : ({ s with bh := { s.bh with backs := rest } } : State).txSlot b.ring b.index = s.rd (BHM_TX_BASE_BASE b.ring) * 32 + 32 * b.index := rfl
  have lane : ∀ l, ({ s with bh := { s.bh with backs := rest } } : State).lane l = s.lane l := fun l => rfl
  have bh : ({ s with bh := { s.bh with backs := rest } } : State).bh = { s.bh with backs := rest } := rfl
  generalize ({ s with bh := { s.bh with backs := rest } } : State) = u at *
  unfold State.txWriteNow
  rw [bus, base]
  have written := (sramWrite_lane u s.busLane (s.rd (BHM_TX_BASE_BASE b.ring) * 32 + 32 * b.index + 28) (le 2 (1 + 2 * b.result) ++ le 2 b.frames)).1
  have bh2 : (u.sramWrite s.busLane (s.rd (BHM_TX_BASE_BASE b.ring) * 32 + 32 * b.index + 28) (le 2 (1 + 2 * b.result) ++ le 2 b.frames)).bh = u.bh := by cases s.busLane <;> rfl
  rw [lane] at written
  generalize u.sramWrite s.busLane _ _ = v at *
  unfold State.raiseIf
  split
  · exact ⟨bh2.trans bh, by rw [raise_def, wr_lane]; exact written, fun _ => rd_wr_same v _ 1⟩
  · next h => exact ⟨bh2.trans bh, written, fun c => absurd c h⟩

/-- Settles O44: a frame received goes the way of its counters, its steering and its duplicate test; a frame sent leaves in fragments whose octets are its own; and the ring of descriptors is fetched and written back. -/
theorem ringFrames : Obligations.RingFrames := by
  refine ⟨fun s p y f m hu up ver pre => ?_, fun s p y stamp f m e hu up ver err least most ptp st rest woke col => ?_, fun s p y m x hu first which => ⟨hsrForward_sends y m hu first which, hsrForward_down y m hu first which⟩,
    fun s l p v hs => ⟨fun off => ?_, fun run head => ⟨_, txTailWrite_serves p v hs, txTail_fetches v.toNat run head⟩⟩,
    fun s p y m x f hu first opn which hf => ⟨txFrameSend_sends y m hu first opn which hf, txFrameSend_down y m hu first opn which⟩, fun s b rest hu backs ring => writeBack_facts hu backs ring⟩
  · exact ⟨_, congrArg Host.Outcome.next ((whenUp_up hu).trans (verify_answered up ver pre)), control_sent s p .respond, rfl⟩
  · have good : GoodFrame s p y stamp f m := ⟨hu, up, ver, err, least, most, ptp, st, rest, woke, col⟩
    exact ⟨fun ring mine he => ⟨steered_drop good ring mine he, steered_full good ring mine he, steered_event good ring mine he, steered_service good ring mine he⟩, other_filtered good,
      fun ring tag own pd far => ⟨ring_forwarded good ring tag own pd far, fun e => ring_duplicate good ring tag own pd far⟩⟩
  · have k : (BHM_CTRL_RUNST p).key ≠ (BHM_TX_TAIL_VALUE p).key := by unfold Field.key; simp only [BHM_CTRL_RUNST, BHM_TX_TAIL_VALUE]; omega
    refine (txTailWrite_serves p v hs).trans (congrArg Host.Outcome.next ?_)
    unfold State.txTail State.txRun
    rw [if_neg (by rw [rd_wr_ne s _ k]; exact off)]

end Sys2Proof.Machine

/-! PROOFS. Runs of Reflect (R210 to R220). -/
namespace Sys2Proof.Machine
set_option Elab.async false

/-! ### What writes into PST leave of Reflect -/

/-- Reflect but for the words of its record that are still to be written. -/
def RunKept (s t : State) : Prop := t.rfl.run = s.rfl.run ∧ t.rfl.quiet = s.rfl.quiet ∧ t.rfl.quietOn = s.rfl.quietOn ∧ t.rfl.head = s.rfl.head

theorem RunKept.refl (s : State) : RunKept s s := ⟨rfl, rfl, rfl, rfl⟩

theorem RunKept.trans {r s t : State} (h : RunKept r s) (k : RunKept s t) : RunKept r t := by
  obtain ⟨h1, h2, h3, h4⟩ := h
  obtain ⟨k1, k2, k3, k4⟩ := k
  exact ⟨k1.trans h1, k2.trans h2, k3.trans h3, k4.trans h4⟩

theorem pstFeedPlm_run (s : State) : RunKept s s.pstFeedPlm := by
  unfold State.pstFeedPlm
  split
  · split <;> exact ⟨rfl, rfl, rfl, rfl⟩
  · exact .refl s

theorem pstFeedEvr_run (s : State) : RunKept s s.pstFeedEvr := by
  unfold State.pstFeedEvr
  split
  · split <;> exact ⟨rfl, rfl, rfl, rfl⟩
  · exact .refl s

theorem pstStep_run (s : State) : RunKept s s.pstStep := by
  unfold State.pstStep
  have fed := (pstFeedEvr_run s).trans (pstFeedPlm_run _)
  generalize s.pstFeedEvr.pstFeedPlm = u at *
  simp only
  split
  · exact fed
  · split
    · exact fed
    · exact fed.trans (by unfold State.pstCell State.count State.addCount State.raiseIf; simp only; split <;> exact ⟨rfl, rfl, rfl, rfl⟩)

theorem pstUntil_run (w : Writer) (n : Nat) : ∀ s : State, RunKept s (pstUntil w n s) := by
  induction n with
  | zero => exact .refl
  | succ n ih =>
    intro s
    unfold pstUntil
    split
    · exact (pstStep_run s).trans (ih _)
    · exact .refl s

theorem pstPut_run (s : State) (w : Writer) (o v : Nat) : RunKept s (s.pstPut w o v) := by
  unfold State.pstPut
  split
  · exact ⟨rfl, rfl, rfl, rfl⟩
  · exact (pstStep_run s).trans ⟨rfl, rfl, rfl, rfl⟩

theorem pstPuts_run (w : Writer) (ws : List (Nat × Nat)) : ∀ s : State, RunKept s (ws.foldl (fun s x => s.pstPut w x.1 x.2) s) := by
  induction ws with
  | nil => exact .refl
  | cons x ws ih => exact fun s => (pstPut_run s w x.1 x.2).trans (ih _)

theorem pstWords_run (s : State) (w : Writer) (ws : List (Nat × Nat)) : RunKept s (s.pstWords w ws) := (pstPuts_run w ws s).trans (pstUntil_run w _ _)

theorem pstWords_rest (s : State) (w : Writer) (ws : List (Nat × Nat)) : (s.pstWords w ws).waiting = s.waiting ∧ (s.pstWords w ws).tb = s.tb ∧ ∀ f : Field, f.block < 22 → f.block ≠ 13 → (s.pstWords w ws).rd f = s.rd f := by
  have o : Only 140857747447808 s (s.pstWords w ws) := pstWords_only rfl (Only.refl _)
  refine ⟨only_part o .waiting rfl, only_part o .tb rfl, fun f hb h => only_rd o ?_⟩
  have b : ∀ k, k < 22 → k ≠ 13 → (decide (k < 22) && !(140857747447808 : Nat).testBit k) = true := by decide
  exact b _ hb h

/-! ### The end of a run (R219, R220) -/

theorem octAt_head (b : Byte) (x : Octets) : octAt (b :: x) 0 = b.toNat := by simp [octAt, leAt, slice, padTo, leVal, zeros]

theorem rflRecord_status (s : State) (r : ReflectRun) (status a b : Nat) (cs : List Change) (m : Bool) : octAt (s.rflRecord r status a b cs m) 0 = status % 256 := by
  unfold State.rflRecord
  simp only [List.cons_append, List.append_assoc]
  rw [octAt_head, octet, BitVec.toNat_ofNat]

/-- A run ends without a change to report: PHASE 0, RABORT, and its record registered. -/
theorem rflFail_facts (s : State) (r : ReflectRun) {status : Nat} (h0 : status ≠ 0) (h : status < 256) : (s.rflFail r status).rfl.run = none ∧ (s.rflFail r status).rflPhase = 0 ∧ (s.rflFail r status).rd PLM_STATUS_RABORT = 1 ∧
    (s.rflFail r status).rfl.quietOn = s.rfl.quietOn ∧ ∃ q, octAt q 0 = status ∧ (s.rflFail r status).waiting = s.waiting ++ [⟨s.event 81 0 0x01 q s.tb.now, none, 0⟩] := by
  have void : RunKept s (s.baselineVoid r) ∧ (s.baselineVoid r).waiting = s.waiting ∧ (s.baselineVoid r).tb = s.tb ∧ (s.baselineVoid r).rd CRZ_SEG_SEG = s.rd CRZ_SEG_SEG := by
    unfold State.baselineVoid
    split
    · obtain ⟨wait, tb, rd⟩ := pstWords_rest s .plm ((frameWrites (baselineAt r.slot) false (zeros 4160)).take 1)
      exact ⟨pstWords_run s _ _, wait, tb, rd _ (by decide) (by decide)⟩
    · exact ⟨.refl s, rfl, rfl, rfl⟩
  unfold State.rflFail
  generalize s.baselineVoid r = u at *
  obtain ⟨⟨-, -, on, -⟩, wait, tb, seg⟩ := void
  obtain ⟨run, phase, -, abort, on2, wait2⟩ := rflEnd_facts u r status 0 0 [] false
  refine ⟨run, phase, abort h0, on2.trans on, u.rflRecord r status 0 0 [] false, ?_, ?_⟩
  · rw [rflRecord_status, Nat.mod_eq_of_lt h]
  · rw [wait2, wait, tb]
    unfold State.event State.seg
    rw [seg]
/-! ### The run's commands (R213, R220) -/

theorem condAhead (s : State) (a b : Nat) : (if s.rd PLM_RFL_CFG_COND = 0 then a else b) = if s.on PLM_RFL_CFG_COND then b else a := by
  unfold State.on
  by_cases c : s.rd PLM_RFL_CFG_COND = 0
  · rw [if_pos c, c]; rfl
  · rw [if_neg c, if_pos (bne_iff_ne.mpr c)]

theorem baselineOp (s : State) (slot : BitVec 3) : s.rflOp (16 * slot.toNat + 2) = s.rflArm true slot.toNat := by
  have h := slot.isLt
  have op : bits (16 * slot.toNat + 2) 0 3 = 2 := by unfold bits; omega
  have at' : bits (16 * slot.toNat + 2) 4 3 = slot.toNat := by unfold bits; omega
  unfold State.rflOp
  rw [op]
  exact congrArg (s.rflArm true) at'

theorem abort_armed {s : State} {r : ReflectRun} (run : s.rfl.run = some r) (armed : s.rflPhase = 1) : s.rflAbort.rfl.run = none ∧ s.rflAbort.rflPhase = 0 ∧ s.rflAbort.waiting = s.waiting := by
  obtain ⟨none', phase, -⟩ := abort_facts s r run
  refine ⟨none', phase, ?_⟩
  unfold State.rflAbort
  rw [run]
  simp only
  rw [if_pos armed]
  rfl

/-- The state in which a run in progress is given up: its quiet window ends with the present cell, and its store is left. -/
def State.givenUp (s : State) : State :=
  { s with rfl := { s.rfl with quiet := (match s.rfl.quiet with | some (a, b) => some (a, min b (s.cellEnd s.now)) | none => none), head := [], store := [] } }

theorem abort_running {s : State} {r : ReflectRun} (run : s.rfl.run = some r) (going : s.rflPhase ≠ 1) : s.rflAbort = s.givenUp.rflFail r 4 := by
  unfold State.rflAbort State.givenUp
  rw [run]
  simp only
  rw [if_neg going]
  rfl

/-- The registers of the modem's start: MAPERR, KEYERR and RUNST. -/
theorem plmStart_rd (s : State) {f : Field} (h1 : f.key ≠ PLM_STATUS_MAPERR.key) (h2 : f.key ≠ PLM_STATUS_KEYERR.key) (h3 : f.key ≠ PLM_CTRL_RUNST.key) : s.plmStart.rd f = s.rd f := by
  have pend (u : State) (n : Nat) : Keeps (· = f) u (u.plcPending n) := fun _ _ => rfl
  unfold State.plmStart
  simp only
  split
  · rw [raiseIf_rd_ne _ h2, raiseIf_rd_ne _ h1]
  · rw [rd_wr_ne _ _ h3, ((Keeps.refl _).foldl pend _) f rfl]
    split <;> rfl

theorem plmStart_rfl (s : State) : s.plmStart.rfl = s.rfl := only_part (m := 70368744177920) (plmStart_only rfl (Only.refl s)) .rfl rfl

/-- REFL_EN = 0 ends the run, and the shut-down of Reflect begins; the modem's enable, written as it is, leaves them. -/
theorem funcWrite_plm_rd (s : State) (v : Nat) {f : Field} (h0 : f.key ≠ PLM_CTRL_EN.key) (h1 : f.key ≠ PLM_STATUS_MAPERR.key) (h2 : f.key ≠ PLM_STATUS_KEYERR.key) (h3 : f.key ≠ PLM_CTRL_RUNST.key) :
    (s.funcWrite .plm v).rd f = s.rd f := by
  unfold State.funcWrite
  simp only
  split
  · split
    · exact (plmStart_rd _ h1 h2 h3).trans (rd_wr_ne s v h0)
    · exact rd_wr_ne s v h0
  · split
    · exact (rd_wr_ne _ _ h3).trans (rd_wr_ne s v h0)
    · exact rd_wr_ne s v h0

theorem funcWrite_plm_rfl (s : State) (v : Nat) : (s.funcWrite .plm v).rfl = s.rfl := by
  unfold State.funcWrite
  simp only
  split
  · split
    · exact plmStart_rfl _
    · rfl
  · split <;> rfl

theorem reflectOff_facts {s : State} {r : ReflectRun} (run : s.rfl.run = some r) (going : s.rd PLM_CTRL_RUNST_R = 1 ∨ s.rd PLM_CTRL_RUNST_R = 3) :
    (s.funcWrite .reflect 0).rfl.run = none ∧ (s.funcWrite .reflect 0).rflPhase = 0 := by
  have halt : s.funcWrite .reflect 0 = ((s.wr PLM_CTRL_REFL_EN 0).rflAbort).wr PLM_CTRL_RUNST_R 2 := by
    have r0 : (s.wr PLM_CTRL_REFL_EN 0).rd PLM_CTRL_RUNST_R = s.rd PLM_CTRL_RUNST_R := rd_wr_ne _ _ (by decide)
    unfold State.funcWrite
    show (if 0 % 2 = 1 then _ else if (s.wr PLM_CTRL_REFL_EN 0).rd PLM_CTRL_RUNST_R = 1 ∨ (s.wr PLM_CTRL_REFL_EN 0).rd PLM_CTRL_RUNST_R = 3 then _ else _) = _
    rw [if_neg (by decide), r0, if_pos going]
    rfl
  obtain ⟨none', phase, -⟩ := abort_facts (s.wr PLM_CTRL_REFL_EN 0) r run
  rw [halt]
  exact ⟨none', (rd_wr_ne _ 2 (by decide)).trans phase⟩

theorem reflectDisable_facts {s : State} {l : Lane} {r : ReflectRun} (hs : s.serves l) (run : s.rfl.run = some r) (going : s.rd PLM_CTRL_RUNST_R = 1 ∨ s.rd PLM_CTRL_RUNST_R = 3) :
    Answers (.reflectDisable l) s (fun t => t.rd PLM_CTRL_REFL_EN = 0 ∧ t.rd PLM_CTRL_RUNST_R = 2 ∧ t.rfl.run = none ∧ t.rflPhase = 0) := by
  obtain ⟨none', phase⟩ := reflectOff_facts run going
  obtain ⟨en, runst⟩ := funcWrite_off s .reflect going
  refine ⟨_, reflectDisable_serves hs, ?_, ?_, ?_, ?_⟩
  · exact (funcWrite_plm_rd _ _ (by decide) (by decide) (by decide) (by decide)).trans en
  · exact (funcWrite_plm_rd _ _ (by decide) (by decide) (by decide) (by decide)).trans runst
  · rw [funcWrite_plm_rfl]; exact none'
  · exact (funcWrite_plm_rd _ _ (by decide) (by decide) (by decide) (by decide)).trans phase

/-! ### The run and its shots (R210 to R212) -/

/-- The state in which the quiet window of a run has opened. -/
def State.quietOpened (s : State) (r : ReflectRun) : State := { s with rfl := { s.rfl with quiet := some (r.start, r.start + s.qCells r.baseline * cellNs), quietOn := true } }

/-- Reflect with another run. -/
def State.withRun (s : State) (r : Option ReflectRun) : State := { s with rfl := { s.rfl with run := r } }

theorem withRun_facts (s : State) (r : Option ReflectRun) : (s.withRun r).rfl.run = r ∧ (s.withRun r).rfl.quiet = s.rfl.quiet ∧ (s.withRun r).rfl.quietOn = s.rfl.quietOn ∧ (∀ f, (s.withRun r).rd f = s.rd f) ∧ (s.withRun r).waiting = s.waiting ∧
    (s.withRun r).pst = s.pst := ⟨rfl, rfl, rfl, fun _ => rfl, rfl, rfl⟩

theorem setPhase_facts (s : State) {p : Nat} (hp : p < 8) : (s.setPhase p).rflPhase = p ∧ (s.setPhase p).rfl = s.rfl ∧ (s.setPhase p).waiting = s.waiting ∧ (s.setPhase p).pst = s.pst ∧
    ∀ f : Field, f.key ≠ PLM_RFL_STAT_PHASE.key → (s.setPhase p).rd f = s.rd f :=
  ⟨(rd_wr_same s _ p).trans (Nat.mod_eq_of_lt hp), rfl, rfl, rfl, fun _ h => rd_wr_ne s p h⟩

theorem rflStart_eq {s : State} {r : ReflectRun} (noise : List (List Int)) (run : s.rfl.run = some r) (armed : s.rflPhase = 1) (due : r.start ≤ s.now) :
    s.rflStart noise = if !s.condHolds then (s.quietOpened r).rflFail r 2 else ((s.quietOpened r).withRun (some { r with noise := noise })).setPhase 2 := by
  unfold State.rflStart
  rw [run]
  simp only
  rw [if_neg (by omega)]
  rfl

theorem condHolds_iff (s : State) : s.condHolds = true ↔ s.rd MTR_CTRL_RUNST = 1 ∧ bit (s.rd MTR_PHST_VPRES) s.sPath = s.on PLM_RFL_CFG_COND := by
  unfold State.condHolds
  rw [Bool.and_eq_true, beq_iff_eq, beq_iff_eq]

section
variable {s : State} {r : ReflectRun} (hu : s.up = true) (run : s.rfl.run = some r)
include hu run

theorem runStart_begins (noise : List (List Int)) (armed : s.rflPhase = 1) (due : r.start ≤ s.now) (meter : s.rd MTR_CTRL_RUNST = 1) (cond : bit (s.rd MTR_PHST_VPRES) s.sPath = s.on PLM_RFL_CFG_COND) :
    Answers (.reflectRunStart noise) s (fun t => t.rflPhase = 2 ∧ t.rfl.quietOn = true ∧ t.rfl.quiet = some (r.start, r.start + s.qCells r.baseline * cellNs) ∧ t.rfl.run = some { r with noise := noise }) := by
  have eq := rflStart_eq noise run armed due
  rw [if_neg (by simp [(condHolds_iff s).mpr ⟨meter, cond⟩])] at eq
  obtain ⟨phase, rfl', -⟩ := setPhase_facts ((s.quietOpened r).withRun (some { r with noise := noise })) (p := 2) (by decide)
  refine ⟨_, congrArg Host.Outcome.next ((whenUp_up hu).trans eq), phase, ?_, ?_, ?_⟩ <;> rw [rfl'] <;> rfl

theorem runStart_mismatch (noise : List (List Int)) (armed : s.rflPhase = 1) (due : r.start ≤ s.now) (cond : s.rd MTR_CTRL_RUNST ≠ 1 ∨ bit (s.rd MTR_PHST_VPRES) s.sPath ≠ s.on PLM_RFL_CFG_COND) :
    Answers (.reflectRunStart noise) s (fun t => t.rflPhase = 0 ∧ t.rfl.quietOn = true ∧ t.rfl.run = none ∧ t.rd PLM_STATUS_RABORT = 1 ∧
      ∃ q, octAt q 0 = 2 ∧ t.waiting = s.waiting ++ [⟨s.event 81 0 0x01 q s.tb.now, none, 0⟩]) := by
  have eq := rflStart_eq noise run armed due
  have fails : s.condHolds ≠ true := fun h => by
    obtain ⟨h1, h2⟩ := (condHolds_iff s).mp h
    exact cond.elim (fun c => c h1) (fun c => c h2)
  rw [if_pos (by simpa using fails)] at eq
  obtain ⟨none', phase, abort, on, q, hq, wait⟩ := rflFail_facts (s.quietOpened r) r (status := 2) (by decide) (by decide)
  exact ⟨_, congrArg Host.Outcome.next ((whenUp_up hu).trans eq), phase, on, none', abort, q, hq, wait⟩

end

/-- A shot that is taken: accumulated in A, or in B in the second half of a capture (R211, R217). -/
def ReflectRun.taken (r : ReflectRun) (inB odd : Bool) (c : List Int) : ReflectRun := if inB then { r with accB := addCapture odd r.accB c } else { r with accA := addCapture odd r.accA c }

theorem shotsOf_setPhase (s : State) (p : Nat) (b : Bool) : (s.setPhase p).shotsOf b = s.shotsOf b := by
  unfold State.shotsOf State.navgl State.setPhase
  rw [rd_wr_ne _ _ (by decide)]

/-- A shot accumulated, before the phase that follows it. -/
def State.shotTaken (s : State) (r : ReflectRun) : State := ((s.setPhase 3).withRun (some r)).wr PLM_RFL_STAT_SHOTS (s.rd PLM_RFL_STAT_SHOTS + 1)

theorem taken_baseline (r : ReflectRun) (inB odd : Bool) (c : List Int) : (r.taken inB odd c).baseline = r.baseline := by cases inB <;> rfl

theorem badShot_facts (s : State) (poison : Bool) : (if poison then (s.setPhase 3).dcqPoison 12 else s.setPhase 3).rflPhase = 3 ∧
    (if poison then (s.setPhase 3).dcqPoison 12 else s.setPhase 3).rd PLM_RFL_STAT_SHOTS = s.rd PLM_RFL_STAT_SHOTS := by
  obtain ⟨at', -, -, -, rd⟩ := setPhase_facts s (p := 3) (by decide)
  unfold State.rflPhase at *
  split
  · exact ⟨(dcqPoison_rd _ _ (by decide) (by decide)).trans at', (dcqPoison_rd _ _ (by decide) (by decide)).trans (rd _ (by decide))⟩
  · exact ⟨at', rd _ (by decide)⟩

section
variable {s : State} {r : ReflectRun} (run : s.rfl.run = some r) (phase : s.rflPhase = 2 ∨ s.rflPhase = 3)
include run phase

theorem rflShot_good {c : List Int} (opn : s.rd (DCQ_Q_W0_RUNST 12) = 1) (len : 4096 ≤ c.length) :
    let x := r.taken (r.baseline && decide (s.shotsOf true / 2 ≤ s.rd PLM_RFL_STAT_SHOTS)) (s.rd PLM_RFL_STAT_SHOTS % 2 == 1) (c.take 4096)
    s.rflShot c false false = if s.rd PLM_RFL_STAT_SHOTS + 1 < s.shotsOf r.baseline then s.shotTaken x else (s.shotTaken x).setPhase 4 := by
  have shots : (s.setPhase 3).rd PLM_RFL_STAT_SHOTS = s.rd PLM_RFL_STAT_SHOTS := rd_wr_ne s 3 (by decide)
  have opn' : (s.setPhase 3).dcqOpen 12 = true := by
    unfold State.dcqOpen State.setPhase
    rw [rd_wr_ne _ _ (by decide), opn]
    rfl
  have per (x : ReflectRun) (b : Bool) : (s.shotTaken x).shotsOf b = s.shotsOf b := by
    unfold State.shotsOf State.navgl State.shotTaken
    rw [rd_wr_ne _ _ (by decide), (withRun_facts _ _).2.2.2.1, (setPhase_facts s (by decide)).2.2.2.2 _ (by decide)]
  intro x
  have hx : x.baseline = r.baseline := taken_baseline _ _ _ _
  rw [← per x r.baseline, ← hx]
  unfold State.rflShot
  rw [run]
  simp only [Bool.false_eq_true, if_false, shots, opn', Bool.or_self, Bool.not_true, Bool.false_or]
  rw [if_neg (by omega), if_neg (by simpa using len), shotsOf_setPhase]
  rfl

/-- A shot that is clipped, poisoned or short (R211). -/
theorem rflShot_bad {c : List Int} {clipped poison : Bool} (bad : clipped = true ∨ poison = true ∨ c.length < 4096) :
    s.rflShot c clipped poison = if r.repeats < 16 then (if poison then (s.setPhase 3).dcqPoison 12 else s.setPhase 3).withRun (some { r with repeats := r.repeats + 1 })
      else (if poison then (s.setPhase 3).dcqPoison 12 else s.setPhase 3).rflFail r 4 := by
  have again (open' : Bool) : (clipped || poison || !open' || decide (c.length < 4096)) = true := by
    rcases bad with h | h | h <;> simp [h]
  unfold State.rflShot
  rw [run]
  simp only
  rw [if_neg (by omega), if_pos (again _)]
  rfl

end

section
variable {s : State} {r : ReflectRun} (hu : s.up = true) (run : s.rfl.run = some r) {c : List Int} (phase : s.rflPhase = 2 ∨ s.rflPhase = 3)
include hu run phase

theorem shot_taken {a b : List Int} (opn : s.rd (DCQ_Q_W0_RUNST 12) = 1) (len : 4096 ≤ c.length) (few : s.rd PLM_RFL_STAT_SHOTS + 1 < 65536)
    (ha : a = (if r.baseline = true ∧ s.shotsOf true / 2 ≤ s.rd PLM_RFL_STAT_SHOTS then r.accA else addCapture (s.rd PLM_RFL_STAT_SHOTS % 2 == 1) r.accA (c.take 4096)))
    (hb : b = (if r.baseline = true ∧ s.shotsOf true / 2 ≤ s.rd PLM_RFL_STAT_SHOTS then addCapture (s.rd PLM_RFL_STAT_SHOTS % 2 == 1) r.accB (c.take 4096) else r.accB)) :
    Answers (.shot c false false) s (fun t => t.rd PLM_RFL_STAT_SHOTS = s.rd PLM_RFL_STAT_SHOTS + 1 ∧ t.rfl.run = some { r with accA := a, accB := b } ∧
      t.rflPhase = if s.rd PLM_RFL_STAT_SHOTS + 1 < s.shotsOf r.baseline then 3 else 4) := by
  have eq := rflShot_good run phase opn len
  have acc : r.taken (r.baseline && decide (s.shotsOf true / 2 ≤ s.rd PLM_RFL_STAT_SHOTS)) (s.rd PLM_RFL_STAT_SHOTS % 2 == 1) (c.take 4096) = { r with accA := a, accB := b } := by
    subst ha hb
    unfold ReflectRun.taken
    by_cases h : r.baseline = true ∧ s.shotsOf true / 2 ≤ s.rd PLM_RFL_STAT_SHOTS
    · rw [if_pos h, if_pos h, if_pos (by simpa using h)]
    · rw [if_neg h, if_neg h, if_neg (by simpa using h)]
  simp only [acc] at eq
  have shots : (s.shotTaken { r with accA := a, accB := b }).rd PLM_RFL_STAT_SHOTS = s.rd PLM_RFL_STAT_SHOTS + 1 := (rd_wr_same _ _ _).trans (Nat.mod_eq_of_lt few)
  have at3 : (s.shotTaken { r with accA := a, accB := b }).rflPhase = 3 := (rd_wr_ne _ _ (by decide)).trans (setPhase_facts s (p := 3) (by decide)).1
  have same : (s.shotTaken { r with accA := a, accB := b }).rfl.run = some { r with accA := a, accB := b } := rfl
  generalize s.shotTaken { r with accA := a, accB := b } = u at *
  refine ⟨_, congrArg Host.Outcome.next ((whenUp_up hu).trans eq), ?_⟩
  split
  · exact ⟨shots, same, at3⟩
  · obtain ⟨at4, rfl', -, -, rd⟩ := setPhase_facts u (p := 4) (by decide)
    exact ⟨(rd _ (by decide)).trans shots, by rw [rfl']; exact same, at4⟩

theorem shot_repeated {clipped poison : Bool} (bad : clipped = true ∨ poison = true ∨ c.length < 4096) (more : r.repeats < 16) :
    Answers (.shot c clipped poison) s (fun t => t.rflPhase = 3 ∧ t.rfl.run = some { r with repeats := r.repeats + 1 } ∧ t.rd PLM_RFL_STAT_SHOTS = s.rd PLM_RFL_STAT_SHOTS) := by
  have eq := rflShot_bad run phase bad
  obtain ⟨at3, shots⟩ := badShot_facts s poison
  rw [if_pos more] at eq
  exact ⟨_, congrArg Host.Outcome.next ((whenUp_up hu).trans eq), at3, rfl, shots⟩

theorem shot_gives_up {clipped poison : Bool} (bad : clipped = true ∨ poison = true ∨ c.length < 4096) (spent : 16 ≤ r.repeats) :
    Answers (.shot c clipped poison) s (fun t => t.rflPhase = 0 ∧ t.rfl.run = none ∧ t.rd PLM_STATUS_RABORT = 1) := by
  have eq := rflShot_bad run phase bad
  rw [if_neg (by omega)] at eq
  obtain ⟨none', at0, abort, -⟩ := rflFail_facts (if poison then (s.setPhase 3).dcqPoison 12 else s.setPhase 3) r (status := 4) (by decide) (by decide)
  exact ⟨_, congrArg Host.Outcome.next ((whenUp_up hu).trans eq), at0, none', abort⟩

end

/-! ### Processing, the store and the window's end (R212, R214, R217) -/

theorem rflProcess_eq {s : State} {r : ReflectRun} (run : s.rfl.run = some r) (phase : s.rflPhase = 4) (cond : s.condHolds = true) :
    s.rflProcess = if r.baseline then s.baselineProcess r else if !s.baselineValid r.slot then s.rflFail r 1 else s.rflSearch r := by
  unfold State.rflProcess
  rw [run]
  simp only
  rw [if_neg (by omega), if_neg (by simp [cond])]

/-- A search ends its run, with its changes or with a noise too high for any (R214). -/
theorem rflSearch_ends (s : State) (r : ReflectRun) : ∃ status a b cs m, (status = 0 ∨ status = 3) ∧ s.rflSearch r = s.rflEnd r status a b cs m := by
  unfold State.rflSearch
  simp only
  split
  · exact ⟨3, _, _, _, _, .inr rfl, rfl⟩
  · exact ⟨0, _, _, _, _, .inl rfl, rfl⟩

/-- A stable capture begins its store: the head of its record kept, the first word written. -/
def State.storeBegun (s : State) (r : ReflectRun) (ws : List (Nat × Nat)) : State := { s with rfl := { s.rfl with head := (s.baselineRecord r).take 16, store := ws } }

theorem baselineProcess_stable {s : State} {r : ReflectRun} (stable : (s.reflectHalves r.accA r.accB).any (fun y => decide (s.rd PLM_RFL_DET_THR < 2 * y)) = false) :
    ∃ w ws, s.baselineProcess r = ((s.storeBegun r ws).pstWords .plm [w]).setPhase 5 := by
  unfold State.baselineProcess State.storeBegun frameWrites
  rw [if_neg (by simp [stable])]
  exact ⟨_, _, rfl⟩

theorem baselineProcess_unstable {s : State} {r : ReflectRun} (unstable : (s.reflectHalves r.accA r.accB).any (fun y => decide (s.rd PLM_RFL_DET_THR < 2 * y)) = true) :
    s.baselineProcess r = ((s.withRun none).setPhase 0).raise PLM_STATUS_BASEUNST := by
  unfold State.baselineProcess
  exact if_pos unstable

section
variable {s : State} {r : ReflectRun} (hu : s.up = true) (run : s.rfl.run = some r)
include hu

section
variable (phase : s.rflPhase = 4) (cond : s.condHolds = true)
include run phase cond

theorem process_searches (start : r.baseline = false) (valid : s.baselineValid r.slot = true) :
    Answers .reflectProcess s (fun t => t.rflPhase = 0 ∧ t.rfl.run = none ∧ t.rd PLM_STATUS_RUNDONE = 1 ∧ ∃ q, (octAt q 0 = 0 ∨ octAt q 0 = 3) ∧ t.waiting = s.waiting ++ [⟨s.event 81 0 0x01 q s.tb.now, none, 0⟩]) := by
  have eq := rflProcess_eq run phase cond
  obtain ⟨status, a, b, cs, m, hst, search⟩ := rflSearch_ends s r
  rw [if_neg (by simp [start]), if_neg (by simp [valid]), search] at eq
  obtain ⟨none', at0, done, -, -, wait⟩ := rflEnd_facts s r status a b cs m
  refine ⟨_, congrArg Host.Outcome.next ((whenUp_up hu).trans eq), at0, none', done, s.rflRecord r status a b cs m, ?_, wait⟩
  rw [rflRecord_status]
  rcases hst with rfl | rfl
  · exact .inl rfl
  · exact .inr rfl

theorem process_unstable (capture : r.baseline = true) (unstable : (s.reflectHalves r.accA r.accB).any (fun y => decide (s.rd PLM_RFL_DET_THR < 2 * y)) = true) :
    Answers .reflectProcess s (fun t => t.rflPhase = 0 ∧ t.rfl.run = none ∧ t.rd PLM_STATUS_BASEUNST = 1 ∧ t.pst = s.pst ∧ t.waiting = s.waiting) := by
  have eq := rflProcess_eq run phase cond
  rw [if_pos capture, baselineProcess_unstable unstable] at eq
  obtain ⟨at0, rfl', wait, pst, -⟩ := setPhase_facts (s.withRun none) (p := 0) (by decide)
  exact ⟨_, congrArg Host.Outcome.next ((whenUp_up hu).trans eq), (rd_wr_ne _ 1 (by decide)).trans at0, congrArg ReflectState.run rfl', rd_wr_same _ _ 1, pst, wait⟩

theorem process_stores (capture : r.baseline = true) (stable : (s.reflectHalves r.accA r.accB).any (fun y => decide (s.rd PLM_RFL_DET_THR < 2 * y)) = false) :
    Answers .reflectProcess s (fun t => t.rflPhase = 5 ∧ t.rfl.run = some r ∧ t.rfl.head = (s.baselineRecord r).take 16) := by
  have eq := rflProcess_eq run phase cond
  obtain ⟨w, ws, begun⟩ := baselineProcess_stable stable
  rw [if_pos capture, begun] at eq
  obtain ⟨run2, -, -, head⟩ := pstWords_run (s.storeBegun r ws) .plm [w]
  obtain ⟨at5, rfl', -⟩ := setPhase_facts ((s.storeBegun r ws).pstWords .plm [w]) (p := 5) (by decide)
  exact ⟨_, congrArg Host.Outcome.next ((whenUp_up hu).trans eq), at5, by rw [rfl', run2]; exact run, by rw [rfl', head]; rfl⟩

end

/-- The state in which the store of a baseline record ends. -/
def State.storeCleared (s : State) : State := { s with rfl := { s.rfl with run := none, head := [], store := [] } }

theorem baselineWriteDone_facts (phase : s.rflPhase = 5) :
    Answers .baselineWriteDone s (fun t => t.rflPhase = 0 ∧ t.rfl.run = none ∧ t.rd PLM_STATUS_BASEDONE = 1 ∧ t.waiting = s.waiting ++ [⟨s.event 81 0 0x02 s.rfl.head s.tb.now, none, 0⟩]) := by
  have eq : s.baselineDone = ((((s.storeCleared.pstWords .plm s.rfl.store).setPhase 0).raise PLM_STATUS_BASEDONE).post ((s.storeCleared.pstWords .plm s.rfl.store).event 81 0 0x02 s.rfl.head (s.storeCleared.pstWords .plm s.rfl.store).tb.now)) := by
    unfold State.baselineDone
    exact if_neg (by omega)
  obtain ⟨run2, -⟩ := pstWords_run s.storeCleared .plm s.rfl.store
  obtain ⟨wait, tb, rd⟩ := pstWords_rest s.storeCleared .plm s.rfl.store
  have seg := rd CRZ_SEG_SEG (by decide) (by decide)
  generalize s.storeCleared.pstWords .plm s.rfl.store = u at *
  obtain ⟨at0, rfl', wait2, -⟩ := setPhase_facts u (p := 0) (by decide)
  refine ⟨_, congrArg Host.Outcome.next ((whenUp_up hu).trans eq), ?_, (congrArg ReflectState.run rfl').trans run2, ?_, ?_⟩
  · exact (post_rd _ _ _).trans ((rd_wr_ne (u.setPhase 0) 1 (by decide)).trans at0)
  · exact (post_rd _ _ _).trans (rd_wr_same (u.setPhase 0) PLM_STATUS_BASEDONE 1)
  show (u.setPhase 0).waiting ++ _ = _
  rw [wait2, wait, tb]
  unfold State.event State.seg
  rw [seg]
  rfl

section
variable {a b : Nat} (quiet : s.rfl.quiet = some (a, b)) (on : s.rfl.quietOn = true) (past : b ≤ s.now)
include run quiet on past

theorem quietWindowEnd_aborts (phase : s.rflPhase = 2 ∨ s.rflPhase = 3 ∨ s.rflPhase = 4) :
    Answers .quietWindowEnd s (fun t => t.rfl.quietOn = false ∧ t.rfl.run = none ∧ t.rflPhase = 0 ∧ t.rd PLM_STATUS_RABORT = 1) := by
  have eq : s.quietEnd = ({ s with rfl := { s.rfl with quietOn := false } } : State).rflFail r 4 := by
    unfold State.quietEnd
    rw [quiet]
    simp only
    rw [if_neg (by simp [on, past]), run]
    exact if_pos phase
  obtain ⟨none', at0, abort, on', -⟩ := rflFail_facts ({ s with rfl := { s.rfl with quietOn := false } } : State) r (status := 4) (by decide) (by decide)
  exact ⟨_, congrArg Host.Outcome.next ((whenUp_up hu).trans eq), on', none', at0, abort⟩

theorem quietWindowEnd_stores (phase : s.rflPhase = 5) : exec .quietWindowEnd s = .next { s with rfl := { s.rfl with quietOn := false } } := by
  refine congrArg Host.Outcome.next ((whenUp_up hu).trans ?_)
  unfold State.quietEnd
  rw [quiet]
  simp only
  rw [if_neg (by simp [on, past]), run]
  refine if_neg (fun h => ?_)
  have h : s.rflPhase = 2 ∨ s.rflPhase = 3 ∨ s.rflPhase = 4 := h
  omega

end
end

/-- Settles O42: each command of Reflect by the branch of its phase; the record of a run that ends has its status in octet 0. -/
theorem reflectRuns : Obligations.ReflectRuns := by
  refine ⟨fun s l hs => ⟨fun n en idle ahead => ⟨fun found => ?_, fun slot => ?_⟩, fun none' => ?_, fun slot h => ?_, fun r run => ⟨fun armed => ⟨_, abort_serves hs, abort_armed run armed⟩, fun going => ?_, reflectDisable_facts hs run⟩⟩,
    fun s r hu run => ⟨fun noise armed due => ⟨runStart_begins hu run noise armed due, runStart_mismatch hu run noise armed due⟩, fun c phase => ⟨fun a b => shot_taken hu run phase, fun clipped poison bad => ⟨shot_repeated hu run phase bad, shot_gives_up hu run phase bad⟩⟩,
      fun phase cond => ⟨process_searches hu run phase cond, process_unstable hu run phase cond, process_stores hu run phase cond⟩, baselineWriteDone_facts hu,
      fun a b quiet on past => ⟨quietWindowEnd_aborts hu run quiet on past, quietWindowEnd_stores hu run quiet on past⟩⟩⟩
  · rw [condAhead] at ahead
    obtain ⟨phase, shots, runs, run⟩ := arm_facts s false 0 n en idle ahead (.inr ⟨rfl, found⟩)
    rw [Nat.mod_mod_of_dvd _ (by decide)] at run
    exact ⟨_, start_serves hs, phase, shots, runs, run⟩
  · rw [condAhead] at ahead
    obtain ⟨phase, -, -, run⟩ := arm_facts s true slot.toNat slot.toNat en idle ahead (.inl ⟨rfl, rfl⟩)
    rw [Nat.mod_mod_of_dvd _ (by decide)] at run
    exact ⟨_, (baseline_serves slot hs).trans (congrArg Host.Outcome.next (baselineOp s slot)), phase, run⟩
  · exact (start_serves hs).trans (congrArg Host.Outcome.next (arm_refused s false 0 (.inr (.inr (.inr ⟨rfl, none'⟩)))))
  · rw [condAhead] at h
    have refused (b : Bool) : ArmRefused s b := h.imp id (Or.imp id .inl)
    exact ⟨(start_serves hs).trans (congrArg Host.Outcome.next (arm_refused s false 0 (refused false))),
      (baseline_serves slot hs).trans (congrArg Host.Outcome.next ((baselineOp s slot).trans (arm_refused s true slot.toNat (refused true))))⟩
  · obtain ⟨none', phase, abort, -, q, hq, wait⟩ := rflFail_facts s.givenUp r (status := 4) (by decide) (by decide)
    exact ⟨_, (abort_serves hs).trans (congrArg Host.Outcome.next (abort_running run going)), none', phase, abort, q, hq, wait⟩

end Sys2Proof.Machine

/-! PROOFS. What the power-line modem sends (R197 to R206). -/
namespace Sys2Proof.Machine
set_option Elab.async false

/-! ### The settings of a frame that leaves -/

/-- The settings of the modem's air interface. -/
def airSettings : List Field := [PLM_CFG_TPATH, PLM_CFG_TXATT, PLM_LAT_TXLAT, PLM_CFG_CELLOFS, PLM_CFG_MOD, SYS_ID_VARIANT]

/-- Two states whose modem sends alike, with the same frames sent so far. -/
def SameAir (s t : State) : Prop := t.sent = s.sent ∧ ∀ f ∈ airSettings, t.rd f = s.rd f

section
variable {r s t : State}

theorem SameAir.refl (s : State) : SameAir s s := ⟨rfl, fun _ _ => rfl⟩

theorem SameAir.trans (h : SameAir r s) (k : SameAir s t) : SameAir r t := ⟨k.1.trans h.1, fun f hf => (k.2 f hf).trans (h.2 f hf)⟩

theorem SameAir.only {m : Nat} (h : SameAir r s) (o : Only m s t) (hs : m.testBit 52 = false) (hf : ∀ f ∈ airSettings, (decide (f.block < 22) && !m.testBit f.block) = true) : SameAir r t := by
  exact h.trans ⟨only_part o .sent hs, fun f hm => only_rd o (hf f hm)⟩

theorem SameAir.cellStart (h : SameAir s t) (p : Int) (c : Nat) : t.cellStart p c = s.cellStart p c := by
  unfold State.cellStart State.cellOfs
  rw [h.2 PLM_CFG_CELLOFS (by simp [airSettings])]

theorem SameAir.preamble (h : SameAir s t) : t.preambleNs = s.preambleNs := by
  unfold State.preambleNs State.plcFcc
  rw [h.2 SYS_ID_VARIANT (by simp [airSettings])]

theorem SameAir.limit (h : SameAir s t) : t.unicastLimit = s.unicastLimit := by
  unfold State.unicastLimit State.plcFcc State.plcMod
  rw [h.2 SYS_ID_VARIANT (by simp [airSettings]), h.2 PLM_CFG_MOD (by simp [airSettings])]

theorem SameAir.await (h : SameAir s t) (start air : Nat) (d : Downlink) : t.plcAwait start air d = ⟨d, start + 2000000 + s.preambleNs + air + 1000000 + s.preambleNs + 100000, start + cellNs⟩ := by
  unfold State.plcAwait
  rw [h.preamble]

/-- The modem's queues are none of the settings. -/
theorem SameAir.withPlm (h : SameAir r s) (x : PlmState) : SameAir r { s with plm := x } := h

theorem SameAir.queue (h : SameAir r s) (q : List Downlink) : SameAir r (s.setPlcQueue q) := by
  have away : ∀ f ∈ airSettings, f.key ≠ PLM_DLQ_STAT_USED.key := by decide
  obtain ⟨-, -, -, sent, rd⟩ := setPlcQueue_facts s q
  exact h.trans ⟨sent, fun f hf => rd f (away f hf)⟩

/-- What leaves the modem in a cell. -/
theorem SameAir.out (h : SameAir s t) (start : Nat) (f : Octets) : (t.plcOut start f).sent = s.sent ++ [⟨5, start + 2000000 - s.rd PLM_LAT_TXLAT, f, 0, .whole, s.tPath, s.rd PLM_CFG_TXATT⟩] := by
  obtain ⟨sent, rd⟩ := h
  rw [(plcOut_facts t start f).1, sent, rd PLM_LAT_TXLAT (by simp [airSettings]), rd PLM_CFG_TXATT (by simp [airSettings])]
  unfold State.tPath
  rw [rd PLM_CFG_TPATH (by simp [airSettings])]

end

/-- A frame secured for the air keeps its settings. -/
theorem plcFrame_air (s : State) (d : Option Nat) (p : Octets) : SameAir s (s.plcFrame d p).1 := by
  refine ⟨(plcFrame_parts s d p).1, fun f hf => ?_⟩
  have key (n a b : Nat) : (s.keyFor n a b).1.rd f = s.rd f := by
    have o : Only 65536 s (s.keyFor n a b).1 := keyFor_only rfl (Only.refl s)
    have away : ∀ g ∈ airSettings, (decide (g.block < 22) && !(65536 : Nat).testBit g.block) = true := by decide
    exact only_rd o (away f hf)
  have fc (u : State) : u.plcFc.1.rd f = u.rd f := by
    have away : ∀ g ∈ airSettings, g.key ≠ PLM_FC_FC.key ∧ g.key ≠ PLM_STATUS_FCHALF.key ∧ g.key ≠ PLM_STATUS_FCEXH.key := by decide
    obtain ⟨h1, h2, h3⟩ := away f hf
    unfold State.plcFc
    simp only
    split
    · exact rd_wr_ne u 1 h3
    · rw [raiseIf_rd_ne _ h3, raiseIf_rd_ne _ h2, rd_wr_ne _ _ h1]
  unfold State.plcFrame
  have k := key (s.plcSlot (s.plm.txKey + 1)) opLink ctxPlm
  simp only
  split
  · next v hv => rw [hv] at k; exact k
  · next v x hv =>
    rw [hv] at k
    have c := fc v
    split
    · next w hw => rw [hw] at c; exact c.trans k
    · next w n hw => rw [hw] at c; exact c.trans k
/-! ### The TIME frame (R203) -/

theorem cycleStart_rd (s : State) (p : Int) {f : Field} (h : f.key ≠ PLM_FC_FC.key) : (s.cycleStart p).rd f = s.rd f := by
  unfold State.cycleStart
  simp only
  split
  · exact rd_wr_ne s 0 h
  · rfl

theorem cycleStart_facts (s : State) (p : Int) : (s.cycleStart p).plm.timed = some p ∧ (s.cycleStart p).plm.inForce = [] ∧ (s.cycleStart p).plm.txKey = s.rd PLM_SEC_PTXKEY ∧ (s.cycleStart p).rfl = s.rfl ∧ (s.cycleStart p).tb = s.tb ∧
    (s.cycleStart p).sent = s.sent := by
  unfold State.cycleStart
  dsimp only
  split <;> exact ⟨rfl, rfl, rfl, rfl, rfl, rfl⟩

theorem cycleStart_air (s : State) (p : Int) : SameAir s (s.cycleStart p) := by
  have away : ∀ f ∈ airSettings, f.key ≠ PLM_FC_FC.key := by decide
  exact ⟨(cycleStart_facts s p).2.2.2.2.2, fun f hf => cycleStart_rd s p (away f hf)⟩

theorem cycleStart_gate (s : State) (p : Int) : (s.cycleStart p).rd PLM_CTRL_RUNST = s.rd PLM_CTRL_RUNST ∧ (s.cycleStart p).dcqOpen 11 = s.dcqOpen 11 ∧ (s.cycleStart p).quietAt (s.cycleStart p).now = s.quietAt s.now := by
  obtain ⟨-, -, -, rfl', tb, -⟩ := cycleStart_facts s p
  refine ⟨cycleStart_rd s p (by decide), congrArg (· == 1) (cycleStart_rd s p (by decide)), ?_⟩
  unfold State.quietAt State.rflArmed State.qCells State.shotsOf State.navgl State.now
  rw [rfl', tb, cycleStart_rd s p (by decide), cycleStart_rd s p (by decide)]

/-- What the cycle's start stands for in PLM once a frame has been secured or lost. -/
theorem plm_cycle {x y : PlmState} (h : { x with seq := 0 } = { y with seq := 0 }) : x.timed = y.timed ∧ x.inForce = y.inForce ∧ x.txKey = y.txKey := by
  cases x
  cases y
  simp_all

section
variable {s : State} {g : GuardMeet} (fresh : s.plm.timed ≠ some (s.plcCycle s.now)) (zero : s.plcCell s.now = 0)
include fresh zero

/-- The TIME frame of a running modem, in cell 0 (R203). -/
theorem timeFrame_sent {w : State} {f : Octets} (run : s.rd PLM_CTRL_RUNST = 1) (opn : s.dcqOpen 11 = true) (quiet : s.quietAt s.now = false) (hg : g.frame = false) (hp : g.poison = false)
    (hf : (s.cycleStart (s.plcCycle s.now)).plcFrame none ((s.cycleStart (s.plcCycle s.now)).timePayload (s.plcCycle s.now)) = (w, some f)) :
    s.timeFrame g = w.plcOut (w.cellStart (s.plcCycle s.now) 0) f := by
  obtain ⟨runst, dcq, q⟩ := cycleStart_gate s (s.plcCycle s.now)
  unfold State.timeFrame
  simp only
  rw [if_neg (by simp [fresh, zero]), if_neg (by simp [runst, dcq, q, run, opn, quiet]), hf]
  simp [hg, hp]

/-- A cell 0 without the TIME frame. -/
theorem timeFrame_silent (idle : s.rd PLM_CTRL_RUNST ≠ 1 ∨ g.frame = true ∨ g.poison = true) :
    (s.timeFrame g).sent = s.sent ∧ { (s.timeFrame g).plm with seq := 0 } = { (s.cycleStart (s.plcCycle s.now)).plm with seq := 0 } := by
  obtain ⟨runst, -, -⟩ := cycleStart_gate s (s.plcCycle s.now)
  have sent := (cycleStart_facts s (s.plcCycle s.now)).2.2.2.2.2
  unfold State.timeFrame
  simp only
  rw [if_neg (by simp [fresh, zero])]
  generalize s.cycleStart (s.plcCycle s.now) = u at *
  split
  · exact ⟨sent, rfl⟩
  · next go =>
    have lost : (g.frame || g.poison) = true := by
      rcases idle with h | h | h
      · exact absurd (.inl (by rw [runst]; exact h)) go
      · rw [h]; rfl
      · rw [h, Bool.or_true]
    obtain ⟨sent2, -, -, plm⟩ := plcFrame_parts u none (u.timePayload (s.plcCycle s.now))
    split
    · next v hv =>
      rw [hv] at sent2 plm
      exact ⟨sent2.trans sent, plm⟩
    · next v f hv =>
      rw [hv] at sent2 plm
      rw [if_pos lost]
      have o : Only 36700160 v (v.frameLost g 4 11) := frameLost_only rfl (Only.refl v)
      exact ⟨(only_part o .sent rfl).trans (sent2.trans sent), by rw [only_part o .plm rfl]; exact plm⟩

end

theorem timeFrame_clause {s : State} (hu : s.up = true) (u : State) (g : GuardMeet) (fresh : s.plm.timed ≠ some (s.plcCycle s.now)) (zero : s.plcCell s.now = 0) (hstart : u = s.cycleStart (s.plcCycle s.now)) :
    (∀ (w : State) (f : Octets), s.rd PLM_CTRL_RUNST = 1 → s.dcqOpen 11 = true → s.quietAt s.now = false → g.frame = false → g.poison = false → u.plcFrame none (u.timePayload (s.plcCycle s.now)) = (w, some f) →
      Answers (.timeFrame g) s (fun t => t.sent = s.sent ++ [⟨5, s.cellStart (s.plcCycle s.now) 0 + 2000000 - s.rd PLM_LAT_TXLAT, f, 0, .whole, s.tPath, s.rd PLM_CFG_TXATT⟩] ∧
        t.plm.timed = some (s.plcCycle s.now) ∧ t.plm.inForce = [] ∧ t.plm.txKey = s.rd PLM_SEC_PTXKEY)) ∧
    (s.rd PLM_CTRL_RUNST ≠ 1 ∨ g.frame = true ∨ g.poison = true → Answers (.timeFrame g) s (fun t =>
      t.sent = s.sent ∧ t.plm.timed = some (s.plcCycle s.now) ∧ t.plm.inForce = [] ∧ t.plm.txKey = s.rd PLM_SEC_PTXKEY)) := by
  subst hstart
  obtain ⟨timed, force, key, -⟩ := cycleStart_facts s (s.plcCycle s.now)
  refine ⟨fun w f run opn quiet hg hp hf => ⟨_, congrArg Host.Outcome.next ((whenUp_up hu).trans (timeFrame_sent fresh zero run opn quiet hg hp hf)), ?_⟩,
    fun idle => ⟨_, congrArg Host.Outcome.next (whenUp_up hu), ?_⟩⟩
  · have air := (cycleStart_air s (s.plcCycle s.now)).trans (plcFrame_air (s.cycleStart (s.plcCycle s.now)) none ((s.cycleStart (s.plcCycle s.now)).timePayload (s.plcCycle s.now)))
    obtain ⟨-, -, -, plm⟩ := plcFrame_parts (s.cycleStart (s.plcCycle s.now)) none ((s.cycleStart (s.plcCycle s.now)).timePayload (s.plcCycle s.now))
    rw [hf] at air plm
    obtain ⟨t1, t2, t3⟩ := plm_cycle plm
    have out := (plcOut_facts w (w.cellStart (s.plcCycle s.now) 0) f).2.1
    have sent := air.out (w.cellStart (s.plcCycle s.now) 0) f
    rw [air.cellStart] at sent out
    rw [air.cellStart]
    exact ⟨sent, (congrArg PlmState.timed out).trans (t1.trans timed), (congrArg PlmState.inForce out).trans (t2.trans force), (congrArg PlmState.txKey out).trans (t3.trans key)⟩
  · obtain ⟨sent, plm⟩ := timeFrame_silent fresh zero idle
    obtain ⟨t1, t2, t3⟩ := plm_cycle plm
    exact ⟨sent, t1.trans timed, t2.trans force, t3.trans key⟩

/-! ### BUNDLE cells (R206) -/

theorem plcResult_sent (s : State) (d : Downlink) (x w : Nat) : (s.plcResult d x w).sent = s.sent := by
  unfold State.plcResult
  dsimp only
  split
  · exact (count_parts _ _ _).2.1
  · rfl

theorem askBundle_keeps {s u : State} {p : Path} {g : GuardMeet} {b : List Action} (h : s.askBundle p g = (u, b)) : SameAir s u ∧ u.plm = s.plm := by
  have o : Only 1109393408 s (s.askBundle p g).1 := askBundle_only rfl (Only.refl s)
  rw [h] at o
  exact ⟨(SameAir.refl s).only o rfl (by decide), only_part o .plm rfl⟩

section
variable {s u w : State} {b : List Action} {air start cell : Nat} {n : Int} {g : GuardMeet} {f : Octets} (hu : s.up = true) (run : s.rd PLM_CTRL_RUNST = 1) (opn : s.dcqOpen 11 = true)
  (hn : n = -(((s.cellOfs : Int) - s.now - 2000000) / cellNs)) (hcell : (n % 64).toNat = cell) (code : nth 0 s.plcCodes cell = 2) (hstart : s.cellStart (n / 64) cell = start) (quiet : s.quietAt start = false)
  (hask : s.askBundle .plc g = (u, b)) (hg : g.frame = false) (hp : g.poison = false)
include hu run opn hn hcell code hstart quiet

theorem plcBundleCell_runs : exec (.plcBundleCell air g) s = .next (s.fillPlcCell start air g) := by
  refine congrArg Host.Outcome.next ((whenUp_up hu).trans ?_)
  unfold State.plcBundleCell
  simp only
  rw [← hn, hcell, hstart, if_pos (by simp [run, opn, code, quiet])]

include hask hg hp

/-- The bundle of the Launch Unit in a BUNDLE cell. -/
theorem plcCell_bundle (some' : b ≠ []) (hf : u.plcFrame none (bundleOctets b) = (w, some f)) : Answers (.plcBundleCell air g) s (fun t =>
    t.sent = s.sent ++ [⟨5, start + 2000000 - s.rd PLM_LAT_TXLAT, f, 0, .whole, s.tPath, s.rd PLM_CFG_TXATT⟩] ∧ t.plm.wait = s.plm.wait ∧
    t.lnu.queue = w.lnu.queue.map (fun a => if b.any (fun y => y.aseq == a.aseq && y.launch == a.launch) then a.settle .plc else a)) := by
  have fill : s.fillPlcCell start air g = (w.plcOut start f).markSent .plc b := by
    unfold State.fillPlcCell
    rw [hask]
    dsimp only
    rw [if_pos (by simpa using some'), hf]
    simp [hg, hp]
  obtain ⟨keeps, plm⟩ := askBundle_keeps hask
  have same := keeps.trans (plcFrame_air u none (bundleOctets b))
  obtain ⟨-, -, -, plm2⟩ := plcFrame_parts u none (bundleOctets b)
  rw [hf] at same plm2
  obtain ⟨-, plm3, lnu, -⟩ := plcOut_facts w start f
  obtain ⟨sent, queue, -⟩ := markSent_facts (w.plcOut start f) .plc b
  refine ⟨_, (plcBundleCell_runs hu run opn hn hcell code hstart quiet).trans (congrArg Host.Outcome.next fill), sent.trans (same.out start f), ?_, ?_⟩
  · rw [markSent_plm, plm3, (plm_parts plm2).2.2.1, plm]
  · rw [queue, lnu]

section
variable {d : Downlink} (none' : b = []) (limit : s.unicastLimit ≠ 0)
include none' limit

/-- The lowest pending assignment in a BUNDLE cell. -/
theorem plcCell_assignment (hd : u.plcAssignment = some d) (hf : u.plcFrame (some d.dst) d.payload = (w, some f)) : Answers (.plcBundleCell air g) s (fun t =>
    t.sent = s.sent ++ [⟨5, start + 2000000 - s.rd PLM_LAT_TXLAT, f, 0, .whole, s.tPath, s.rd PLM_CFG_TXATT⟩] ∧ kvFind t.plm.assigns d.dst = some (d.tries + 1) ∧
    t.plm.wait = s.plm.wait ++ [(⟨{ d with tries := d.tries + 1 }, start + 2000000 + s.preambleNs + air + 1000000 + s.preambleNs + 100000, start + cellNs⟩, true)]) := by
  obtain ⟨keeps, plm⟩ := askBundle_keeps hask
  have fill : s.fillPlcCell start air g = u.plcUnicast start air d true g := by
    unfold State.fillPlcCell
    rw [hask]
    dsimp only
    rw [if_neg (by simp [none']), if_neg (by rw [keeps.limit]; exact limit), hd]
  have same := keeps.trans (plcFrame_air u (some d.dst) d.payload)
  obtain ⟨-, -, -, plm2⟩ := plcFrame_parts u (some d.dst) d.payload
  rw [hf] at same plm2
  have uni := plcUnicast_assign u w start air g d f (by rw [hg, hp]; rfl) hf
  rw [same.await] at uni
  refine ⟨_, (plcBundleCell_runs hu run opn hn hcell code hstart quiet).trans (congrArg Host.Outcome.next (fill.trans uni)), ?_, ?_, ?_⟩
  · exact (same.withPlm _).out start f
  · rw [(plcOut_facts _ _ _).2.1]
    exact kvFind_kvSet_same _ _ _
  · rw [(plcOut_facts _ _ _).2.1]
    show w.plm.wait ++ _ = _
    rw [(plm_parts plm2).2.2.1, plm]

section
variable (no : u.plcAssignment = none) (hd : u.plcFirst = some d)
include no hd

/-- The first downlink frame in a BUNDLE cell. -/
theorem plcCell_downlink (fits : d.payload.length ≤ s.unicastLimit) (hf : u.plcFrame (some d.dst) d.payload = (w, some f)) : Answers (.plcBundleCell air g) s (fun t =>
    t.sent = s.sent ++ [⟨5, start + 2000000 - s.rd PLM_LAT_TXLAT, f, 0, .whole, s.tPath, s.rd PLM_CFG_TXATT⟩] ∧ t.plm.queue = s.plm.queue.map (fun y => if y = d then { d with tries := d.tries + 1 } else y) ∧
    t.plm.wait = s.plm.wait ++ [(⟨{ d with tries := d.tries + 1 }, start + 2000000 + s.preambleNs + air + 1000000 + s.preambleNs + 100000, start + cellNs⟩, false)]) := by
  obtain ⟨keeps, plm⟩ := askBundle_keeps hask
  have fill : s.fillPlcCell start air g = u.plcUnicast start air d false g := by
    unfold State.fillPlcCell
    rw [hask]
    dsimp only
    rw [if_neg (by simp [none']), if_neg (by rw [keeps.limit]; exact limit), no]
    dsimp only
    rw [hd]
    exact if_neg (by rw [keeps.limit]; omega)
  have same := keeps.trans (plcFrame_air u (some d.dst) d.payload)
  obtain ⟨-, -, -, plm2⟩ := plcFrame_parts u (some d.dst) d.payload
  rw [hf] at same plm2
  obtain ⟨v, hv, uni⟩ := plcUnicast_queue u w start air g d f (by rw [hg, hp]; rfl) hf
  have same2 := same.queue (w.plm.queue.map (fun y => if y = d then { d with tries := d.tries + 1 } else y))
  obtain ⟨plm3, -⟩ := setPlcQueue_facts w (w.plm.queue.map (fun y => if y = d then { d with tries := d.tries + 1 } else y))
  obtain ⟨queue, -, wait, -⟩ := plm_parts plm2
  rw [← hv] at same2 plm3
  rw [same2.await] at uni
  refine ⟨_, (plcBundleCell_runs hu run opn hn hcell code hstart quiet).trans (congrArg Host.Outcome.next (fill.trans uni)), (same2.withPlm _).out start f, ?_, ?_⟩
  · rw [(plcOut_facts _ _ _).2.1]
    show v.plm.queue = _
    rw [plm3, ← plm, ← queue]
  · rw [(plcOut_facts _ _ _).2.1]
    show v.plm.wait ++ _ = _
    rw [plm3]
    show w.plm.wait ++ _ = _
    rw [wait, plm]

omit hg hp in
/-- A frame too large for the cell (R197). -/
theorem plcCell_large (large : s.unicastLimit < d.payload.length) : Answers (.plcBundleCell air g) s (fun t => t.sent = s.sent ∧ t.plm.queue = s.plm.queue.erase d ∧
    t.waiting = u.waiting ++ [⟨s.event 80 0 0x04 (le 2 d.dst ++ [octet d.handle, octet 3]) (timeOfNs (start + cellNs)), none, 0⟩]) := by
  obtain ⟨keeps, plm⟩ := askBundle_keeps hask
  have fill : s.fillPlcCell start air g = (u.setPlcQueue (u.plm.queue.erase d)).plcResult d 3 (start + cellNs) := by
    unfold State.fillPlcCell
    rw [hask]
    dsimp only
    rw [if_neg (by simp [none']), if_neg (by rw [keeps.limit]; exact limit), no]
    dsimp only
    rw [hd]
    exact if_pos (by rw [keeps.limit]; exact large)
  have o : Only 1109393408 s (s.askBundle .plc g).1 := askBundle_only rfl (Only.refl s)
  rw [hask] at o
  have seg : u.rd CRZ_SEG_SEG = s.rd CRZ_SEG_SEG := only_rd o (by decide)
  obtain ⟨plm3, -, wait, sent, rd⟩ := setPlcQueue_facts u (u.plm.queue.erase d)
  have seg2 := (rd CRZ_SEG_SEG (by decide)).trans seg
  generalize u.setPlcQueue (u.plm.queue.erase d) = v at *
  obtain ⟨plm4, -, wait2, -⟩ := plcResult_facts v d 3 (start + cellNs)
  refine ⟨_, (plcBundleCell_runs hu run opn hn hcell code hstart quiet).trans (congrArg Host.Outcome.next fill), (plcResult_sent v d 3 (start + cellNs)).trans (sent.trans keeps.1), ?_, ?_⟩
  · rw [plm4, plm3, plm]
  · rw [wait2, wait]
    unfold State.event State.seg
    rw [seg2]

end
end
end

/-! ### Acknowledgements (R201, R206) -/

theorem dlym_key (n : Nat) : (PLM_LTAB_W3_DLYM n).key ≠ PLM_DLQ_STAT_USED.key ∧ (PLM_LTAB_W3_DLYM n).key ≠ PLM_STATUS_DLFAIL.key ∧ (PLM_LTAB_W3_DLYM n).key ≠ PLM_DLFAIL_CNT_COUNT.key ∧
    (PLM_LTAB_W3_DLYM n).key ≠ PLM_STATUS_CNTWRAP.key ∧ CRZ_SEG_SEG.key ≠ (PLM_LTAB_W3_DLYM n).key := by
  unfold Field.key
  simp only [PLM_LTAB_W3_DLYM, PLM_DLQ_STAT_USED, PLM_STATUS_DLFAIL, PLM_DLFAIL_CNT_COUNT, PLM_STATUS_CNTWRAP, CRZ_SEG_SEG]
  omega

section
variable {s : State} {a : Await} {assign : Bool} {rest : List (Await × Bool)} (hw : s.plm.wait = (a, assign) :: rest)
include hw

theorem plcWaited_head : s.plcWaited (a, assign) = { s with plm := { s.plm with wait := rest } } := by
  unfold State.plcWaited
  rw [hw, List.erase_cons_head]

theorem plcAck_none (ours : Bool) (no : ours = false ∨ plcTickNs a.until' < plcTick s.plcStamp) : s.plcAck ours = s := by
  unfold State.plcAck
  rw [hw]
  exact if_pos (by rcases no with h | h <;> simp [h])

/-- The state in which an ACK has ended its wait, and its delay stands in the lantern's entry. -/
def State.ackTaken (s : State) (a : Await) (rest : List (Await × Bool)) (delay : Nat) : State := ({ s with plm := { s.plm with wait := rest } } : State).wr (PLM_LTAB_W3_DLYM a.frame.dst) delay

omit hw in
theorem ackTaken_facts (s : State) (a : Await) (rest : List (Await × Bool)) (v : Nat) : (s.ackTaken a rest v).rd (PLM_LTAB_W3_DLYM a.frame.dst) = v % 2 ^ (PLM_LTAB_W3_DLYM a.frame.dst).width ∧
    (s.ackTaken a rest v).rd CRZ_SEG_SEG = s.rd CRZ_SEG_SEG ∧ (s.ackTaken a rest v).plm = { s.plm with wait := rest } ∧ (s.ackTaken a rest v).waiting = s.waiting :=
  ⟨rd_wr_same _ _ _, rd_wr_ne _ _ (dlym_key a.frame.dst).2.2.2.2, rfl, rfl⟩

theorem plcAck_timely {v : Nat} (hv : v = rnd (unitsOf s.plcStamp - (a.until' - 100000) * 2 ^ 32) (2 * 2 ^ 32)) (timely : plcTick s.plcStamp ≤ plcTickNs a.until') (stands : s.plcStands a.frame assign = true) :
    s.plcAck true = ((s.ackTaken a rest v).plcDone a.frame assign).plcResult a.frame 0 a.cellEnd := by
  have two : (2 * 2 ^ 32 : Nat) = 8589934592 := by norm_num
  have one : (2 ^ 32 : Nat) = 4294967296 := by norm_num
  rw [two, one] at hv
  unfold State.plcAck State.ackTaken
  rw [← plcWaited_head hw, hw]
  dsimp only
  rw [if_neg (by simpa using timely), if_pos stands, ← hv]

theorem plcAckReceive_queue (hu : s.up = true) (timely : plcTick s.plcStamp ≤ plcTickNs a.until') (plain : assign = false) :
    Answers (.plcAckReceive true) s (fun t => t.plm = { s.plm with wait := rest, queue := s.plm.queue.erase a.frame } ∧
      t.rd (PLM_LTAB_W3_DLYM a.frame.dst) = rnd (unitsOf s.plcStamp - (a.until' - 100000) * 2 ^ 32) (2 * 2 ^ 32) % 2 ^ (PLM_LTAB_W3_DLYM a.frame.dst).width ∧
      t.waiting = s.waiting ++ [⟨s.event 80 0 0x04 (le 2 a.frame.dst ++ [octet a.frame.handle, octet 0]) (timeOfNs a.cellEnd), none, 0⟩]) := by
  subst plain
  generalize hv : rnd (unitsOf s.plcStamp - (a.until' - 100000) * 2 ^ 32) (2 * 2 ^ 32) = v
  have eq := plcAck_timely hw hv.symm timely (by unfold State.plcStands; rfl)
  obtain ⟨k1, k2, k3, k4, -⟩ := dlym_key a.frame.dst
  obtain ⟨delay, seg, plm, wait⟩ := ackTaken_facts s a rest v
  generalize s.ackTaken a rest v = u at *
  have done : u.plcDone a.frame false = u.setPlcQueue (u.plm.queue.erase a.frame) := rfl
  rw [done] at eq
  obtain ⟨plm2, -, wait2, -, rd2⟩ := setPlcQueue_facts u (u.plm.queue.erase a.frame)
  have seg2 := (rd2 CRZ_SEG_SEG (by decide)).trans seg
  have delay2 := (rd2 _ k1).trans delay
  generalize u.setPlcQueue (u.plm.queue.erase a.frame) = v at *
  obtain ⟨plm3, -, wait3, -, rd3⟩ := plcResult_facts v a.frame 0 a.cellEnd
  refine ⟨_, congrArg Host.Outcome.next ((whenUp_up hu).trans eq), ?_, (rd3 _ k2 k3 k4).trans delay2, ?_⟩
  · rw [plm3, plm2, plm]
  · rw [wait3, wait2, wait]
    unfold State.event State.seg
    rw [seg2]

theorem plcAckReceive_assignment (hu : s.up = true) (timely : plcTick s.plcStamp ≤ plcTickNs a.until') (pend : assign = true) (still : kvFind s.plm.assigns a.frame.dst = some a.frame.tries) :
    Answers (.plcAckReceive true) s (fun t => t.plm = { s.plm with wait := rest, assigns := kvErase s.plm.assigns a.frame.dst } ∧
      t.waiting = s.waiting ++ [⟨s.event 80 0 0x04 (le 2 a.frame.dst ++ [octet a.frame.handle, octet 0]) (timeOfNs a.cellEnd), none, 0⟩]) := by
  subst pend
  obtain ⟨v, eq⟩ : ∃ v, s.plcAck true = ((s.ackTaken a rest v).plcDone a.frame true).plcResult a.frame 0 a.cellEnd := ⟨_, plcAck_timely hw rfl timely (by unfold State.plcStands; rw [still]; simp)⟩
  obtain ⟨-, seg, plm, wait⟩ := ackTaken_facts s a rest v
  generalize s.ackTaken a rest v = u at *
  have done : (u.plcDone a.frame true).plm = { s.plm with wait := rest, assigns := kvErase s.plm.assigns a.frame.dst } := by
    show ({ u.plm with assigns := kvErase u.plm.assigns a.frame.dst } : PlmState) = _
    rw [plm]
  have seg2 : (u.plcDone a.frame true).rd CRZ_SEG_SEG = s.rd CRZ_SEG_SEG := seg
  have wait2 : (u.plcDone a.frame true).waiting = s.waiting := wait
  generalize u.plcDone a.frame true = v at *
  obtain ⟨plm3, -, wait3, -⟩ := plcResult_facts v a.frame 0 a.cellEnd
  refine ⟨_, congrArg Host.Outcome.next ((whenUp_up hu).trans eq), plm3.trans done, ?_⟩
  rw [wait3, wait2]
  unfold State.event State.seg
  rw [seg2]

/-- A wait that runs out leaves the frame for another opportunity (R201). -/
theorem plcAckExpiry_again (hu : s.up = true) (past : s.plcPast a.until' = true) (few : a.frame.tries < 3) : exec .plcAckWaitExpiry s = .next { s with plm := { s.plm with wait := rest } } := by
  refine congrArg Host.Outcome.next ((whenUp_up hu).trans ?_)
  rw [← plcWaited_head hw]
  unfold State.plcAckExpiry
  rw [hw]
  dsimp only
  rw [if_neg (by simp [past]), if_neg (by omega)]

theorem plcAckExpiry_fails (hu : s.up = true) (past : s.plcPast a.until' = true) (spent : 3 ≤ a.frame.tries) (plain : assign = false) :
    Answers .plcAckWaitExpiry s (fun t => t.plm = { s.plm with wait := rest, queue := s.plm.queue.erase a.frame } ∧ t.rd PLM_STATUS_DLFAIL = 1 ∧
      t.waiting = s.waiting ++ [⟨s.event 80 0 0x04 (le 2 a.frame.dst ++ [octet a.frame.handle, octet 1]) (timeOfNs a.cellEnd), none, 0⟩]) := by
  subst plain
  have eq : s.plcAckExpiry = (({ s with plm := { s.plm with wait := rest } } : State).setPlcQueue (s.plm.queue.erase a.frame)).plcResult a.frame 1 a.cellEnd := by
    unfold State.plcAckExpiry
    rw [hw]
    dsimp only
    rw [if_neg (by simp [past]), if_pos ⟨spent, rfl⟩, plcWaited_head hw]
    rfl
  obtain ⟨plm2, -, wait2, -, rd2⟩ := setPlcQueue_facts ({ s with plm := { s.plm with wait := rest } } : State) (s.plm.queue.erase a.frame)
  have seg : (({ s with plm := { s.plm with wait := rest } } : State).setPlcQueue (s.plm.queue.erase a.frame)).rd CRZ_SEG_SEG = s.rd CRZ_SEG_SEG := rd2 _ (by decide)
  generalize ({ s with plm := { s.plm with wait := rest } } : State).setPlcQueue (s.plm.queue.erase a.frame) = v at *
  obtain ⟨plm3, -, wait3, fail, -⟩ := plcResult_facts v a.frame 1 a.cellEnd
  refine ⟨_, congrArg Host.Outcome.next ((whenUp_up hu).trans eq), plm3.trans plm2, (fail (.inl rfl)).1, ?_⟩
  rw [wait3, wait2]
  unfold State.event State.seg
  rw [seg]

end

/-! ### Frames queued and assignments written (R206, R221) -/

theorem plcTxcmd_queued {s : State} {handle dst len : Nat} (least : 1 ≤ len) (most : len ≤ 128) (room : s.plm.queue.length < 16) :
    (s.plcTxcmd handle dst len).plm = { s.plm with queue := s.plm.queue ++ [⟨dst, le len (s.rd PLM_TXBUF_PAYLOAD), handle, s.plcCycle s.now, 0, 0⟩] } ∧ (s.plcTxcmd handle dst len).rd PLM_DLQ_STAT_USED = s.plm.queue.length + 1 := by
  have eq : s.plcTxcmd handle dst len = s.setPlcQueue (s.plm.queue ++ [⟨dst, le len (s.rd PLM_TXBUF_PAYLOAD), handle, s.plcCycle s.now, 0, 0⟩]) := by
    unfold State.plcTxcmd
    dsimp only
    rw [if_neg (by omega), if_pos room]
  rw [eq]
  refine ⟨rfl, (rd_wr_same _ _ _).trans ?_⟩
  rw [List.length_append, List.length_singleton]
  exact Nat.mod_eq_of_lt (Nat.lt_of_le_of_lt (show _ ≤ 16 by omega) (by decide))

theorem plcTxcmd_refused {s : State} {handle dst len : Nat} (bad : len = 0 ∨ 128 < len ∨ 16 ≤ s.plm.queue.length) : (s.plcTxcmd handle dst len).plm = s.plm ∧
    (s.plcTxcmd handle dst len).waiting = s.waiting ++ [⟨s.event 80 0 0x04 (le 2 dst ++ [octet handle, octet 3]) (timeOfNs (s.cellEnd s.now)), none, 0⟩] := by
  unfold State.plcTxcmd
  dsimp only
  split
  · obtain ⟨plm, -, wait, -⟩ := plcResult_facts s ⟨dst, le len (s.rd PLM_TXBUF_PAYLOAD), handle, s.plcCycle s.now, 0, 0⟩ 3 (s.cellEnd s.now)
    exact ⟨plm, wait⟩
  · rw [if_neg (by omega)]
    obtain ⟨plm, -, wait, -⟩ := plcResult_facts (s.raise PLM_STATUS_DLQFULL) ⟨dst, le len (s.rd PLM_TXBUF_PAYLOAD), handle, s.plcCycle s.now, 0, 0⟩ 3 (s.cellEnd s.now)
    refine ⟨plm, wait.trans ?_⟩
    have seg : (s.raise PLM_STATUS_DLQFULL).rd CRZ_SEG_SEG = s.rd CRZ_SEG_SEG := rd_wr_ne s 1 (by decide)
    unfold State.event State.seg
    rw [seg]
    rfl

theorem txcmd_bits {h d n : Nat} (hh : h < 256) (hd : d < 2048) (hn : n < 256) :
    bits (h * 16777216 + d * 4096 + n) 24 8 = h ∧ bits (h * 16777216 + d * 4096 + n) 12 11 = d ∧ bits (h * 16777216 + d * 4096 + n) 0 8 = n := by
  unfold bits
  omega

theorem plcTab_word {s : State} {n w : Nat} : (s.plcTabWrite n w).rd (PLM_LTAB_W0_EN n) = w / 2 ^ 31 % 2 ∧ (s.plcTabWrite n w).rd (PLM_LTAB_W0_CELL n) = bits w 24 6 ∧ (s.plcTabWrite n w).rd (PLM_LTAB_W0_PRP n) = bits w 8 8 ∧
    (s.plcTabWrite n w).rd (PLM_LTAB_W0_PPH n) = bits w 0 8 := by
  have pend (u : State) (f : Field) : (if bit w 31 then u.plcPending n else u).rd f = u.rd f := by split <;> rfl
  have k : (PLM_LTAB_W0_EN n).key ≠ (PLM_LTAB_W0_PPH n).key ∧ (PLM_LTAB_W0_EN n).key ≠ (PLM_LTAB_W0_PRP n).key ∧ (PLM_LTAB_W0_EN n).key ≠ (PLM_LTAB_W0_CELL n).key ∧ (PLM_LTAB_W0_CELL n).key ≠ (PLM_LTAB_W0_PPH n).key ∧
      (PLM_LTAB_W0_CELL n).key ≠ (PLM_LTAB_W0_PRP n).key ∧ (PLM_LTAB_W0_PRP n).key ≠ (PLM_LTAB_W0_PPH n).key := by
    unfold Field.key
    simp only [PLM_LTAB_W0_EN, PLM_LTAB_W0_CELL, PLM_LTAB_W0_PRP, PLM_LTAB_W0_PPH]
    omega
  obtain ⟨k1, k2, k3, k4, k5, k6⟩ := k
  unfold State.plcTabWrite
  dsimp only
  rw [pend, pend, pend, pend, rd_wr_ne _ _ k1, rd_wr_ne _ _ k2, rd_wr_ne _ _ k3, rd_wr_ne _ _ k4, rd_wr_ne _ _ k5, rd_wr_ne _ _ k6]
  refine ⟨rd_wr_same _ _ _, rd_wr_same _ _ _, rd_wr_same _ _ _, (rd_wr_same _ _ _).trans ?_⟩
  show w % 2 ^ 8 = w / 2 ^ 0 % 2 ^ 8
  rw [Nat.pow_zero, Nat.div_one]

theorem plcDlyWrite_facts {s : State} {n v : Nat} (en : s.rd (PLM_LTAB_W0_EN n) = 1) : kvFind (s.plcDlyWrite n v).plm.assigns n = some 0 ∧ (s.plcDlyWrite n v).rd (PLM_LTAB_W1_DLY n) = v % 2 ^ 16 := by
  have k : (PLM_LTAB_W0_EN n).key ≠ (PLM_LTAB_W1_DLY n).key := by unfold Field.key; simp only [PLM_LTAB_W0_EN, PLM_LTAB_W1_DLY]; omega
  have on : (s.wr (PLM_LTAB_W1_DLY n) v).on (PLM_LTAB_W0_EN n) = true := by
    unfold State.on
    rw [rd_wr_ne s v k, en]
    rfl
  have eq : s.plcDlyWrite n v = (s.wr (PLM_LTAB_W1_DLY n) v).plcPending n := by
    unfold State.plcDlyWrite
    exact if_pos on
  rw [eq]
  exact ⟨kvFind_kvSet_same _ _ _, rd_wr_same _ _ _⟩

/-- Settles O40: a cell's frame goes out with the modem's settings, its wait is ended by its ACK or runs out, and the queue and the table take what is written. -/
theorem powerLineSends : Obligations.PowerLineSends := by
  refine fun s hu => ⟨timeFrame_clause hu, fun u b air start cell n g run opn hn hcell code hstart quiet hask hg hp =>
      ⟨fun w f some' hf => plcCell_bundle hu run opn hn hcell code hstart quiet hask hg hp some' hf, fun d w f none' limit hd hf => plcCell_assignment hu run opn hn hcell code hstart quiet hask hg hp none' limit hd hf,
        fun d none' limit no hd => ⟨fun w f fits hf => plcCell_downlink hu run opn hn hcell code hstart quiet hask hg hp none' limit no hd fits hf, plcCell_large hu run opn hn hcell code hstart quiet hask none' limit no hd⟩⟩,
    fun a assign rest hw => ⟨plcAckReceive_queue hw hu, plcAckReceive_assignment hw hu, fun ours no => congrArg Host.Outcome.next ((whenUp_up hu).trans (plcAck_none hw ours no)), plcAckExpiry_again hw hu, plcAckExpiry_fails hw hu⟩,
    fun l handle dst len hs => ?_, fun l n v hs => ⟨fun en => ?_, fun en => ?_⟩⟩
  · obtain ⟨b1, b2, b3⟩ := txcmd_bits (h := handle.toNat) (d := dst.toNat) (n := len.toNat) handle.isLt dst.isLt len.isLt
    have run := plcDownlinkQueue_serves handle dst len hs
    rw [b1, b2, b3] at run
    exact ⟨fun least most room => ⟨_, run, plcTxcmd_queued least most room⟩, fun bad => ⟨_, run, plcTxcmd_refused bad⟩⟩
  · obtain ⟨w1, w2, w3, w4⟩ := plcTab_word (s := s) (n := n.val) (w := v.toNat)
    obtain ⟨-, entry, pend⟩ := plcTab_facts s n.val v.toNat v.isLt
    exact ⟨_, plcAssignmentPending_serves n v hs, pend (by unfold bit; rw [en]; rfl), entry, by rw [w1, en], w2, w3, w4⟩
  · obtain ⟨pend, dly⟩ := plcDlyWrite_facts (v := bits v.toNat 0 16) en
    refine ⟨_, plcDelayPending_serves n v hs, pend, dly.trans (Nat.mod_eq_of_lt (Nat.mod_lt _ (by decide)))⟩

end Sys2Proof.Machine

/-! PROOFS. What the power-line modem receives (R194 to R205). -/
namespace Sys2Proof.Machine
set_option Elab.async false

/-! ### The contacts that a frame meets (R205) -/

/-- The fields of the modem that a lantern's accepted frame leaves, but for presence and MISS. -/
def PlcSettled (n : Nat) (f : Field) : Prop :=
  f.block = 8 ∧ f.key ≠ PLM_RX_COUNT.key ∧ f.key ≠ PLM_STATUS_CNTWRAP.key ∧ f.key ≠ (PLM_LTAB_W1_FCKEY n).key ∧ f.key ≠ (PLM_LTAB_W2_FC n).key ∧ f.key ≠ (PLM_LTAB_W3_SNR n).key

theorem plcSettled_of (n : Nat) : PlcSettled n PLM_CFG_CELLOFS ∧ PlcSettled n (PLM_LTAB_W0_EN n) ∧ PlcSettled n (PLM_LTAB_W0_CELL n) ∧ PlcSettled n (PLM_LTAB_W0_PRP n) ∧ PlcSettled n (PLM_LTAB_W0_PPH n) ∧ ∀ w, PlcSettled n (PLM_MAP_CODE w) := by
  refine ⟨?_, ?_, ?_, ?_, ?_, fun w => ?_⟩ <;>
    (unfold PlcSettled Field.block Field.key
     simp only [PLM_RX_COUNT, PLM_STATUS_CNTWRAP, PLM_LTAB_W1_FCKEY, PLM_LTAB_W2_FC, PLM_LTAB_W3_SNR, PLM_CFG_CELLOFS, PLM_LTAB_W0_EN, PLM_LTAB_W0_CELL, PLM_LTAB_W0_PRP, PLM_LTAB_W0_PPH, PLM_MAP_CODE, true_and]
     omega)

theorem plcMeets_same {s t : State} {n : Nat} (plm : t.plm = s.plm) (rd : ∀ f, PlcSettled n f → t.rd f = s.rd f) (x : Time) : t.plcMeets n x = s.plcMeets n x ∧ t.plcLink n = s.plcLink n := by
  obtain ⟨ofs, en, cell, prp, pph, map⟩ := plcSettled_of n
  have codes : t.plcCodes = s.plcCodes := by
    unfold State.plcCodes
    simp only [rd _ (map _)]
  have entry : t.plcEntry n = s.plcEntry n := by
    unfold State.plcEntry State.plcWord
    rw [plm, rd _ en, rd _ cell, rd _ prp, rd _ pph]
  have start (a : Int) (b : Nat) : t.cellStart a b = s.cellStart a b := by
    unfold State.cellStart State.cellOfs
    rw [rd _ ofs]
  have cyc (a : Nat) : t.plcCycle a = s.plcCycle a := by
    unfold State.plcCycle State.cellOfs
    rw [rd _ ofs]
  refine ⟨?_, by unfold State.plcLink; rw [plm]⟩
  unfold State.plcMeets State.plcReports State.reportCell
  simp only [codes, entry, start, cyc]
/-! ### A lantern heard (R205) -/

/-- The state in which the contacts met by a frame are noted. -/
def State.plcMet (s : State) (n : Nat) (new : List Int) : State := if new.isEmpty then s else (s.wr (PLM_LTAB_W3_MISS n) 0).onPlcLink n (fun x => { x with met := (new ++ x.met).take 4 })

theorem plcMet_waiting (s : State) (n : Nat) (new : List Int) : (s.plcMet n new).waiting = s.waiting := by
  unfold State.plcMet
  split <;> rfl

/-- A silent lantern becomes present with an event, which leaves MISS. -/
theorem present_tail (u : State) (n k : Nat) (p : Octets) (x : Nat) : (∃ more, (if u.on (PLM_LTAB_W3_PRES n) then u else (u.wr (PLM_LTAB_W3_PRES n) 1).plcPost k p x).waiting = u.waiting ++ more) ∧
    (if u.on (PLM_LTAB_W3_PRES n) then u else (u.wr (PLM_LTAB_W3_PRES n) 1).plcPost k p x).rd (PLM_LTAB_W3_MISS n) = u.rd (PLM_LTAB_W3_MISS n) := by
  have key : (PLM_LTAB_W3_MISS n).key ≠ (PLM_LTAB_W3_PRES n).key := by unfold Field.key; simp only [PLM_LTAB_W3_MISS, PLM_LTAB_W3_PRES]; omega
  split
  · exact ⟨⟨[], (List.append_nil _).symm⟩, rfl⟩
  · exact ⟨⟨_, rfl⟩, rd_wr_ne u 1 key⟩

theorem plcMet_miss {s : State} {n : Nat} {new : List Int} (some' : new ≠ []) : (s.plcMet n new).rd (PLM_LTAB_W3_MISS n) = 0 := by
  unfold State.plcMet
  rw [if_neg (by rw [List.isEmpty_iff]; exact some'), onPlc_rd]
  exact rd_wr_same s _ 0

/-- A lantern heard clears MISS where it meets a contact, and adds at most an event. -/
theorem plcHeard_more (s : State) (n : Nat) (x : Time) : (∃ more, (s.plcHeard n x).waiting = s.waiting ++ more) ∧
    ((∃ g ∈ s.plcMeets n x, (s.plcLink n).judgedBy g = false) → (s.plcHeard n x).rd (PLM_LTAB_W3_MISS n) = 0) := by
  have tail := present_tail (s.plcMet n ((s.plcMeets n x).filter (fun g => !(s.plcLink n).judgedBy g))) n 0x06 (le 2 n ++ [octet 1])
    ((s.plcMet n ((s.plcMeets n x).filter (fun g => !(s.plcLink n).judgedBy g))).cellEnd (nsOf x))
  rw [plcMet_waiting] at tail
  refine ⟨tail.1, ?_⟩
  rintro ⟨g, mem, open'⟩
  refine tail.2.trans (plcMet_miss (List.ne_nil_of_mem (a := g) ?_))
  rw [List.mem_filter, open']
  exact ⟨mem, rfl⟩

/-- A lantern's frame that is accepted, its sender not yet heard: the ACK sent, and what it leaves in the entry. -/
def State.plcTaken (s : State) (src idx fc snr v air : Nat) : State :=
  (((((s.count PLM_RX_COUNT PLM_STATUS_CNTWRAP).plcEmit (nsOf (s.replica repPlc) + air + 1000000) (le 2 v)).wr (PLM_LTAB_W1_FCKEY src) idx).wr (PLM_LTAB_W2_FC src) fc).wr (PLM_LTAB_W3_SNR src) snr)

theorem plcAccept_eq (s : State) (src idx fc snr v air : Nat) (x : Time) : s.plcAccept src idx fc snr v air x = (s.plcTaken src idx fc snr v air).plcHeard src x := by
  unfold State.plcAccept State.plcTaken
  dsimp only

theorem plcTaken_facts (s : State) (src idx fc snr v air : Nat) : (s.plcTaken src idx fc snr v air).plm = s.plm ∧ (s.plcTaken src idx fc snr v air).waiting = s.waiting ∧
    ∀ f, PlcSettled src f → (s.plcTaken src idx fc snr v air).rd f = s.rd f := by
  obtain ⟨-, -, -, wait, -⟩ := count_parts s PLM_RX_COUNT PLM_STATUS_CNTWRAP
  have plm := count_plm s PLM_RX_COUNT PLM_STATUS_CNTWRAP
  have rd (f : Field) (h1 : f.key ≠ PLM_RX_COUNT.key) (h2 : f.key ≠ PLM_STATUS_CNTWRAP.key) := count_rd_ne s h1 h2
  unfold State.plcTaken
  generalize s.count PLM_RX_COUNT PLM_STATUS_CNTWRAP = u at *
  exact ⟨plm, wait, fun f ⟨_, h1, h2, h3, h4, h5⟩ => (rd_wr_ne _ _ h5).trans ((rd_wr_ne _ _ h4).trans ((rd_wr_ne _ _ h3).trans (rd f h1 h2)))⟩

theorem dcqOffer_block {s : State} {n : Nat} (e : Event) {f : Field} (h : f.block = 8) : (s.dcqOffer n e).1.rd f = s.rd f :=
  only_rd (m := 34603008) (dcqOffer_only rfl (Only.refl s)) (by rw [h]; decide)

theorem dcqOffer_plm (s : State) (n : Nat) (e : Event) : (s.dcqOffer n e).1.plm = s.plm ∧ (s.dcqOffer n e).1.tb = s.tb ∧ (s.dcqOffer n e).1.sent = s.sent := by
  have o : Only 34603008 s (s.dcqOffer n e).1 := dcqOffer_only rfl (Only.refl s)
  exact ⟨only_part o .plm rfl, only_part o .tb rfl, only_part o .sent rfl⟩

/-- A lantern's frame accepted: what `plcAccept_facts` leaves open, its event, and MISS where a contact is met (R204, R205). -/
theorem plcAccept_more {s u : State} (plm : u.plm = s.plm) (rd : ∀ f : Field, f.block = 8 → u.rd f = s.rd f) (src idx fc snr v air : Nat) (x : Time) : (∃ more, (u.plcAccept src idx fc snr v air x).waiting = u.waiting ++ more) ∧
    ((∃ g ∈ s.plcMeets src x, (s.plcLink src).judgedBy g = false) → (u.plcAccept src idx fc snr v air x).rd (PLM_LTAB_W3_MISS src) = 0) := by
  obtain ⟨plm2, wait, rd2⟩ := plcTaken_facts u src idx fc snr v air
  obtain ⟨meets, link⟩ := plcMeets_same (plm2.trans plm) (fun f hf => (rd2 f hf).trans (rd f hf.1)) (n := src) x
  obtain ⟨more, miss⟩ := plcHeard_more (u.plcTaken src idx fc snr v air) src x
  rw [plcAccept_eq]
  rw [meets, link] at miss
  rw [wait] at more
  exact ⟨more, miss⟩

/-! ### Frames received (R200, R202, R204) -/

section
variable {s : State} {f : Octets} {m : PlcMeet} {v snr : Nat} (run : s.rd PLM_CTRL_RUNST = 1) (quiet : s.quietAt s.now = false)
include run quiet

theorem plcReceive_dropped (bad : m.robo = true ∨ 198 < f.length ∨ m.fcs = false) : s.plcReceive f m v snr = s.plcDrop := by
  unfold State.plcReceive
  rw [if_neg (by simp [run, quiet])]
  split
  · rfl
  · next ok =>
    have fcs : m.fcs = false := by
      rcases bad with h | h | h
      · exact absurd (by simp [h]) ok
      · exact absurd (by simp [h]) ok
      · exact h
    split
    · unfold State.plcForeign
      exact if_pos (by simp [fcs])
    · unfold State.plcLantern
      exact if_pos (by simp [fcs])

section
variable (air : Nat) (short : f.length ≤ 198)
include short

theorem plcReceive_lantern (head : leAt f 0 2 = 0x9869) : s.plcReceive f ⟨true, false, air⟩ v snr = s.plcLantern s.plcStamp f true v snr air := by
  unfold State.plcReceive
  rw [if_neg (by simp [run, quiet]), if_neg (by simp; omega), if_neg (by omega)]

theorem plcReceive_broadcast (head : leAt f 0 2 = 0x1809) : s.plcReceive f ⟨true, false, air⟩ v snr = s.plcForeign s.plcStamp f true := by
  unfold State.plcReceive
  rw [if_neg (by simp [run, quiet]), if_neg (by simp; omega), if_pos head]

end
end

theorem plcDrop_parts (s : State) : s.plcDrop.sent = s.sent ∧ s.plcDrop.plm = s.plm ∧ ∀ f : Field, f.key ≠ PLM_DROP_COUNT.key → f.key ≠ PLM_STATUS_CNTWRAP.key → s.plcDrop.rd f = s.rd f :=
  ⟨(count_parts _ _ _).2.1, count_plm _ _ _, fun _ h1 h2 => count_rd_ne s h1 h2⟩

/-- The frames of a lantern of which O41 speaks: one of the segment, secured under the first key, of a management type, from an entry in force. -/
structure LanternFrame (s : State) (f p : Octets) (k : KeySlot) : Prop where
  head : leAt f 0 2 = 0x9869
  pan : leAt f 3 2 = s.seg
  dst : leAt f 5 2 = 0x0800
  src : leAt f 7 2 < 2048
  aux : octAt f 9 = 0x0D
  idx : octAt f 14 = 1
  slot : s.slot (s.rd PLM_SEC_PKSLOT0) = some k
  allows : k.allows opLink ctxPlm = true
  opens : opened5 k.key (ccmNonce s.seg (leAt f 7 2) (leAt f 10 4) 5) f 15 = some p
  type : octAt p 0 / 16 = 0xE
  entry : bit (s.plcEntry (leAt f 7 2)) 31 = true
  key : s.rd (PLM_LTAB_W1_FCKEY (leAt f 7 2)) = 1

section
variable {s : State} {f p : Octets} {k : KeySlot} (h : LanternFrame s f p k) (x : Time) (v snr air : Nat)
include h

theorem LanternFrame.lantern : s.plcLantern x f true v snr air = if s.plcReplayed (leAt f 7 2) 1 (leAt f 10 4) then (s.plcDrop).raise PLM_STATUS_REPLAY
    else if (s.dcqOffer 10 (s.event 80 0 0x02 (le 2 (leAt f 7 2) ++ p) x)).2 then (s.dcqOffer 10 (s.event 80 0 0x02 (le 2 (leAt f 7 2) ++ p) x)).1.plcAccept (leAt f 7 2) 1 (leAt f 10 4) snr v air x
    else ((s.dcqOffer 10 (s.event 80 0 0x02 (le 2 (leAt f 7 2) ++ p) x)).1.plcDrop).raise PLM_STATUS_EVDROP := by
  obtain ⟨head, pan, dst, src, aux, idx, slot, allows, opens, type, entry, -⟩ := h
  have none0 : ¬ octAt p 0 = 0xC0 := by omega
  have none1 : (octAt p 0 == 0xC0) = false := beq_false_of_ne none0
  have event : s.plcEvent (leAt f 7 2) p x = s.event 80 0 0x02 (le 2 (leAt f 7 2) ++ p) x := if_neg none0
  have key : s.keyFor (s.plcSlot 1) opLink ctxPlm = (s, some k) := keyFor_ok s _ _ _ k slot allows
  unfold State.plcLantern
  dsimp only
  rw [if_neg (by simp [pan, dst, head]; omega), if_neg (by simp [aux, idx]), idx, key]
  dsimp only
  rw [opens]
  dsimp only
  rw [if_neg (by simp [type]), event]
  simp only [none1, entry, Bool.false_and, Bool.not_true, Bool.false_eq_true, if_false]

theorem LanternFrame.replayed : s.plcReplayed (leAt f 7 2) 1 (leAt f 10 4) = decide (leAt f 10 4 ≤ s.rd (PLM_LTAB_W2_FC (leAt f 7 2))) := by
  unfold State.plcReplayed
  rw [if_pos h.key]

end

theorem leAt_lt (f : Octets) (i n : Nat) : leAt f i n < 256 ^ n := by
  have len : (slice f i n).length = n := by
    unfold slice padTo zeros
    rw [List.length_append, List.length_take, List.length_replicate]
    omega
  have bound := leVal_lt (slice f i n)
  rw [len] at bound
  exact bound

section
variable {s : State} {f p : Octets} {v : BitVec 16} {snr : Byte} (air : Nat) {k : KeySlot} (hu : s.up = true) (run : s.rd PLM_CTRL_RUNST = 1) (quiet : s.quietAt s.now = false) (short : f.length ≤ 198) (h : LanternFrame s f p k)
include hu run quiet short h

theorem plcFrame_accepted (fresh : s.rd (PLM_LTAB_W2_FC (leAt f 7 2)) < leAt f 10 4) (taken : (s.dcqOffer 10 (s.event 80 0 0x02 (le 2 (leAt f 7 2) ++ p) s.plcStamp)).2 = true) :
    Answers (.plcFrameReceive f ⟨true, false, air⟩ v snr) s (fun t => t.rd (PLM_LTAB_W1_FCKEY (leAt f 7 2)) = 1 ∧ t.rd (PLM_LTAB_W2_FC (leAt f 7 2)) = leAt f 10 4 ∧ t.rd (PLM_LTAB_W3_PRES (leAt f 7 2)) = 1 ∧
      ((∃ g ∈ s.plcMeets (leAt f 7 2) s.plcStamp, (s.plcLink (leAt f 7 2)).judgedBy g = false) → t.rd (PLM_LTAB_W3_MISS (leAt f 7 2)) = 0) ∧
      t.sent = s.sent ++ [⟨5, nsOf (s.replica repPlc) + air + 1000000, le 2 v.toNat, 0, .whole, s.tPath, s.rd PLM_CFG_TXATT⟩] ∧ ∃ more, t.waiting = s.waiting ++
        ⟨s.event 80 0 0x02 (le 2 (leAt f 7 2) ++ p) s.plcStamp, some 10, (s.event 80 0 0x02 (le 2 (leAt f 7 2) ++ p) s.plcStamp).words⟩ :: more) := by
  have eq := (plcReceive_lantern (v := v.toNat) (snr := snr.toNat) run quiet air short h.head).trans (h.lantern s.plcStamp v.toNat snr.toNat air)
  rw [h.replayed, if_neg (by simpa using fresh), if_pos taken] at eq
  have wait := dcqOffer_taken s 10 _ taken
  obtain ⟨plm, tb, sent⟩ := dcqOffer_plm s 10 (s.event 80 0 0x02 (le 2 (leAt f 7 2) ++ p) s.plcStamp)
  have rd (g : Field) (hg : g.block = 8) := dcqOffer_block (s := s) (n := 10) (s.event 80 0 0x02 (le 2 (leAt f 7 2) ++ p) s.plcStamp) hg
  generalize (s.dcqOffer 10 (s.event 80 0 0x02 (le 2 (leAt f 7 2) ++ p) s.plcStamp)).1 = u at *
  obtain ⟨sent2, fckey, fc, pres⟩ := plcAccept_facts u (leAt f 7 2) 1 (leAt f 10 4) snr.toNat v.toNat air s.plcStamp
  obtain ⟨⟨more, wait2⟩, miss⟩ := plcAccept_more plm rd (leAt f 7 2) 1 (leAt f 10 4) snr.toNat v.toNat air s.plcStamp
  have path : u.tPath = s.tPath := by
    unfold State.tPath
    rw [rd PLM_CFG_TPATH (by decide)]
  have now : u.replica repPlc = s.replica repPlc := by
    unfold State.replica
    rw [tb]
  rw [path, now, rd PLM_CFG_TXATT (by decide), sent] at sent2
  refine ⟨_, congrArg Host.Outcome.next ((whenUp_up hu).trans eq), fckey, fc.trans (Nat.mod_eq_of_lt (leAt_lt f 10 4)), pres, miss, sent2, more, ?_⟩
  rw [wait2, wait, List.append_assoc]
  rfl

theorem plcFrame_replayed (old : leAt f 10 4 ≤ s.rd (PLM_LTAB_W2_FC (leAt f 7 2))) : Answers (.plcFrameReceive f ⟨true, false, air⟩ v snr) s (fun t =>
    t.rd PLM_STATUS_REPLAY = 1 ∧ t.rd PLM_DROP_COUNT = (s.rd PLM_DROP_COUNT + 1) % 2 ^ PLM_DROP_COUNT.width ∧ t.rd (PLM_LTAB_W2_FC (leAt f 7 2)) = s.rd (PLM_LTAB_W2_FC (leAt f 7 2)) ∧ t.sent = s.sent ∧ t.waiting = s.waiting) := by
  have eq := (plcReceive_lantern (v := v.toNat) (snr := snr.toNat) run quiet air short h.head).trans (h.lantern s.plcStamp v.toNat snr.toNat air)
  rw [h.replayed, if_pos (by simpa using old)] at eq
  obtain ⟨drop, wait⟩ := plcDrop_facts s
  obtain ⟨sent, -, rd⟩ := plcDrop_parts s
  have fc : (PLM_LTAB_W2_FC (leAt f 7 2)).key ≠ PLM_DROP_COUNT.key ∧ (PLM_LTAB_W2_FC (leAt f 7 2)).key ≠ PLM_STATUS_CNTWRAP.key ∧ (PLM_LTAB_W2_FC (leAt f 7 2)).key ≠ PLM_STATUS_REPLAY.key := by
    unfold Field.key
    simp only [PLM_LTAB_W2_FC, PLM_DROP_COUNT, PLM_STATUS_CNTWRAP, PLM_STATUS_REPLAY]
    omega
  exact ⟨_, congrArg Host.Outcome.next ((whenUp_up hu).trans eq), rd_wr_same _ _ 1, (rd_wr_ne _ 1 (by decide)).trans drop, (rd_wr_ne _ 1 fc.2.2).trans (rd _ fc.1 fc.2.1), sent, wait⟩

end

/-- A TIME frame of another PAN (R204). -/
theorem plcForeign_time {s : State} {f p : Octets} {k : KeySlot} (x : Time) (pan : leAt f 3 2 ≠ s.seg) (dst : leAt f 5 2 = 0xFFFF) (aux : octAt f 7 = 0x0D) (idx : octAt f 12 = 1) (slot : s.slot (s.rd PLM_SEC_PKSLOT0) = some k)
    (allows : k.allows opLink ctxPlm = true) (opens : opened5 k.key (ccmNonce (leAt f 3 2) 0x0800 (leAt f 8 4) 5) f 13 = some p) (type : octAt p 0 = 0xBD)
    (taken : ((s.raise PLM_STATUS_FOREIGN).dcqOffer 10 (s.event 80 0 0x08 (le 2 (leAt f 3 2) ++ slice p 6 8) x)).2 = true) :
    s.plcForeign x f true = ((s.raise PLM_STATUS_FOREIGN).dcqOffer 10 (s.event 80 0 0x08 (le 2 (leAt f 3 2) ++ slice p 6 8) x)).1 := by
  have key : s.keyFor (s.plcSlot 1) opLink ctxPlm = (s, some k) := keyFor_ok s _ _ _ k slot allows
  unfold State.plcForeign
  dsimp only
  rw [if_neg (by simp [pan, dst]), if_neg (by simp [aux, idx]), idx, key]
  dsimp only
  rw [opens]
  dsimp only
  rw [if_neg (by simp [type]), if_pos taken]

theorem plcFrame_foreign {s : State} {f p : Octets} {v : BitVec 16} {snr : Byte} (air : Nat) {k : KeySlot} {e : Event} (hu : s.up = true) (run : s.rd PLM_CTRL_RUNST = 1) (quiet : s.quietAt s.now = false) (short : f.length ≤ 198)
    (head : leAt f 0 2 = 0x1809) (pan : leAt f 3 2 ≠ s.seg) (dst : leAt f 5 2 = 0xFFFF) (aux : octAt f 7 = 0x0D) (idx : octAt f 12 = 1) (slot : s.slot (s.rd PLM_SEC_PKSLOT0) = some k)
    (allows : k.allows opLink ctxPlm = true) (opens : opened5 k.key (ccmNonce (leAt f 3 2) 0x0800 (leAt f 8 4) 5) f 13 = some p) (type : octAt p 0 = 0xBD)
    (he : e = s.event 80 0 0x08 (le 2 (leAt f 3 2) ++ slice p 6 8) s.plcStamp) (taken : (s.dcqOffer 10 e).2 = true) :
    Answers (.plcFrameReceive f ⟨true, false, air⟩ v snr) s (fun t => t.rd PLM_STATUS_FOREIGN = 1 ∧ t.sent = s.sent ∧ t.waiting = s.waiting ++ [⟨e, some 10, e.words⟩]) := by
  have taken2 : ((s.raise PLM_STATUS_FOREIGN).dcqOffer 10 e).2 = true := (dcqOffer_same (s := s) (t := s.raise PLM_STATUS_FOREIGN) e (by decide) rfl (rd_wr_ne s 1 (by decide))).trans taken
  subst he
  have eq := (plcReceive_broadcast (v := v.toNat) (snr := snr.toNat) run quiet air short head).trans (plcForeign_time s.plcStamp pan dst aux idx slot allows opens type taken2)
  obtain ⟨-, -, sent⟩ := dcqOffer_plm (s.raise PLM_STATUS_FOREIGN) 10 (s.event 80 0 0x08 (le 2 (leAt f 3 2) ++ slice p 6 8) s.plcStamp)
  exact ⟨_, congrArg Host.Outcome.next ((whenUp_up hu).trans eq), (dcqOffer_block _ (by decide)).trans (rd_wr_same s _ 1), sent, dcqOffer_taken _ 10 _ taken2⟩

/-! ### Contacts missed (R205) -/

/-- The state in which the contact of a report cycle has been judged. -/
def State.plcJudged (s : State) (n : Nat) (p : Int) : State := s.onPlcLink n (fun x => { x with judged := some p })

theorem plcJudged_met (s : State) (n : Nat) (p : Int) : ((s.plcJudged n p).plcLink n).met = (s.plcLink n).met := by
  unfold State.plcJudged State.onPlcLink State.plcLink
  dsimp only
  rw [kvFind_kvSet_same]
  rfl

/-- A contact missed: MISS counts it, and at 3 the lantern falls silent. -/
def State.plcMissed (s : State) (n : Nat) (e : Nat) : State :=
  if s.rd (PLM_LTAB_W3_MISS n) < 2 || (s.rd (PLM_LTAB_W3_MISS n) == 3 && !(s.wr (PLM_LTAB_W3_MISS n) (min 3 (s.rd (PLM_LTAB_W3_MISS n) + 1))).on (PLM_LTAB_W3_PRES n)) then
    s.wr (PLM_LTAB_W3_MISS n) (min 3 (s.rd (PLM_LTAB_W3_MISS n) + 1))
  else (((s.wr (PLM_LTAB_W3_MISS n) (min 3 (s.rd (PLM_LTAB_W3_MISS n) + 1))).wr (PLM_LTAB_W3_PRES n) 0).raise PLM_STATUS_SILENT).plcPost 0x06 (le 2 n ++ [octet 0]) e

section
variable {s : State} {n : Nat} {p : Int} {c e : Nat} (cell : s.reportCell n = some c) (he : e = s.cellStart p (c + 1)) (past : s.plcPast e = true) (run : s.rd PLM_CTRL_RUNST = 1) (entry : bit (s.plcEntry n) 31 = true)
  (rep : s.plcReports n p = true) (fresh : (s.plcLink n).judgedBy p = false)
include cell he past run entry rep fresh

/-- A contact that was met, or that fell in a quiet window, is not missed. -/
theorem plcReportEnd_met (met : p ∈ (s.plcLink n).met ∨ ∃ a b : Nat, s.rfl.quiet = some (a, b) ∧ a < e ∧ s.cellStart p c < b) : s.plcReportEnd n p = s.plcJudged n p := by
  unfold State.plcReportEnd
  rw [cell]
  dsimp only
  rw [← he, if_neg (by simp [run, past, entry, rep, fresh])]
  refine if_pos ?_
  rcases met with h | ⟨a, b, quiet, before, after⟩
  · exact .inl (List.elem_eq_true_of_mem ((plcJudged_met s n p).symm ▸ h))
  · refine .inr ?_
    show (match s.rfl.quiet with | some (a, b) => decide (a < e) && decide (s.cellStart p c < b) | none => false) = true
    rw [quiet]
    simp [before, after]

theorem plcReportEnd_missed (alone : p ∉ (s.plcLink n).met) (loud : ∀ a b : Nat, s.rfl.quiet = some (a, b) → e ≤ a ∨ b ≤ s.cellStart p c) : s.plcReportEnd n p = (s.plcJudged n p).plcMissed n e := by
  unfold State.plcReportEnd
  rw [cell]
  dsimp only
  rw [← he, if_neg (by simp [run, past, entry, rep, fresh])]
  refine (if_neg ?_).trans rfl
  rintro (h | h)
  · exact alone (plcJudged_met s n p ▸ List.mem_of_elem_eq_true h)
  · have h : (match s.rfl.quiet with | some (a, b) => decide (a < e) && decide (s.cellStart p c < b) | none => false) = true := h
    split at h
    · next a b quiet =>
      have := loud a b quiet
      simp at h
      omega
    · exact absurd h Bool.false_ne_true

end

theorem plcMissed_counts {s : State} {n : Nat} (e : Nat) (few : s.rd (PLM_LTAB_W3_MISS n) < 2) : (s.plcMissed n e).rd (PLM_LTAB_W3_MISS n) = s.rd (PLM_LTAB_W3_MISS n) + 1 ∧
    (s.plcMissed n e).rd (PLM_LTAB_W3_PRES n) = s.rd (PLM_LTAB_W3_PRES n) ∧ (s.plcMissed n e).waiting = s.waiting := by
  have key : (PLM_LTAB_W3_PRES n).key ≠ (PLM_LTAB_W3_MISS n).key := by unfold Field.key; simp only [PLM_LTAB_W3_MISS, PLM_LTAB_W3_PRES]; omega
  have eq : s.plcMissed n e = s.wr (PLM_LTAB_W3_MISS n) (min 3 (s.rd (PLM_LTAB_W3_MISS n) + 1)) := if_pos (by simp [few])
  rw [eq]
  refine ⟨(rd_wr_same _ _ _).trans ?_, rd_wr_ne _ _ key, rfl⟩
  show min 3 (s.rd (PLM_LTAB_W3_MISS n) + 1) % 4 = _
  omega

theorem plcMissed_silent {s : State} {n : Nat} (e : Nat) (third : s.rd (PLM_LTAB_W3_MISS n) = 2) : (s.plcMissed n e).rd (PLM_LTAB_W3_MISS n) = 3 ∧ (s.plcMissed n e).rd (PLM_LTAB_W3_PRES n) = 0 ∧
    (s.plcMissed n e).rd PLM_STATUS_SILENT = 1 ∧ (s.plcMissed n e).waiting = s.waiting ++ [⟨s.event 80 0 0x06 (le 2 n ++ [octet 0]) (timeOfNs e), none, 0⟩] := by
  have keys : (PLM_LTAB_W3_MISS n).key ≠ (PLM_LTAB_W3_PRES n).key ∧ (PLM_LTAB_W3_MISS n).key ≠ PLM_STATUS_SILENT.key ∧ (PLM_LTAB_W3_PRES n).key ≠ PLM_STATUS_SILENT.key ∧ CRZ_SEG_SEG.key ≠ (PLM_LTAB_W3_MISS n).key ∧
      CRZ_SEG_SEG.key ≠ (PLM_LTAB_W3_PRES n).key := by
    unfold Field.key
    simp only [PLM_LTAB_W3_MISS, PLM_LTAB_W3_PRES, PLM_STATUS_SILENT, CRZ_SEG_SEG]
    omega
  obtain ⟨k1, k2, k3, k4, k5⟩ := keys
  have eq : s.plcMissed n e = (((s.wr (PLM_LTAB_W3_MISS n) 3).wr (PLM_LTAB_W3_PRES n) 0).raise PLM_STATUS_SILENT).plcPost 0x06 (le 2 n ++ [octet 0]) e := by
    unfold State.plcMissed
    rw [third]
    exact if_neg (by simp)
  have miss : (((s.wr (PLM_LTAB_W3_MISS n) 3).wr (PLM_LTAB_W3_PRES n) 0).raise PLM_STATUS_SILENT).rd (PLM_LTAB_W3_MISS n) = 3 := (rd_wr_ne _ 1 k2).trans ((rd_wr_ne _ 0 k1).trans (rd_wr_same _ _ _))
  have pres : (((s.wr (PLM_LTAB_W3_MISS n) 3).wr (PLM_LTAB_W3_PRES n) 0).raise PLM_STATUS_SILENT).rd (PLM_LTAB_W3_PRES n) = 0 := (rd_wr_ne _ 1 k3).trans (rd_wr_same _ _ 0)
  have silent : (((s.wr (PLM_LTAB_W3_MISS n) 3).wr (PLM_LTAB_W3_PRES n) 0).raise PLM_STATUS_SILENT).rd PLM_STATUS_SILENT = 1 := rd_wr_same _ _ 1
  have seg : (((s.wr (PLM_LTAB_W3_MISS n) 3).wr (PLM_LTAB_W3_PRES n) 0).raise PLM_STATUS_SILENT).rd CRZ_SEG_SEG = s.rd CRZ_SEG_SEG := (rd_wr_ne _ 1 (by decide)).trans ((rd_wr_ne _ 0 k5).trans (rd_wr_ne s 3 k4))
  have wait : (((s.wr (PLM_LTAB_W3_MISS n) 3).wr (PLM_LTAB_W3_PRES n) 0).raise PLM_STATUS_SILENT).waiting = s.waiting := rfl
  rw [eq]
  generalize ((s.wr (PLM_LTAB_W3_MISS n) 3).wr (PLM_LTAB_W3_PRES n) 0).raise PLM_STATUS_SILENT = u at *
  obtain ⟨-, regs, -, wait2⟩ := plcPost_facts u 0x06 (le 2 n ++ [octet 0]) e
  refine ⟨(rd_regs regs _).trans miss, (rd_regs regs _).trans pres, (rd_regs regs _).trans silent, wait2.trans ?_⟩
  rw [wait]
  unfold State.event State.seg
  rw [seg]

/-- Settles O41: a frame of the feeder goes by the checks of R200 in order, and the end of a report cycle by what was met in it. -/
theorem powerLineReceives : Obligations.PowerLineReceives := by
  refine ⟨fun s f p v snr air k hu run quiet short head pan dst src aux idx slot allows opens type entry key => ?_, fun s f m v snr hu run quiet bad => ?_,
    fun s f p v snr air k e hu run quiet short head pan dst aux idx slot allows opens type => plcFrame_foreign air hu run quiet short head pan dst aux idx slot allows opens type,
    fun s n p c e hu cell he past run entry rep fresh => ⟨fun met => ⟨_, congrArg Host.Outcome.next ((whenUp_up hu).trans (plcReportEnd_met cell he past run entry rep fresh met)), rfl, rfl⟩, fun alone loud => ?_⟩⟩
  · have h : LanternFrame s f p k := ⟨head, pan, dst, src, aux, idx, slot, allows, opens, type, entry, key⟩
    exact ⟨plcFrame_accepted air hu run quiet short h, plcFrame_replayed air hu run quiet short h⟩
  · obtain ⟨drop, wait⟩ := plcDrop_facts s
    obtain ⟨sent, plm, -⟩ := plcDrop_parts s
    exact ⟨_, congrArg Host.Outcome.next ((whenUp_up hu).trans (plcReceive_dropped run quiet bad)), drop, sent, wait, plm⟩
  · have eq := plcReportEnd_missed cell he past run entry rep fresh alone loud
    exact ⟨fun few => ⟨_, congrArg Host.Outcome.next ((whenUp_up hu).trans eq), plcMissed_counts (s := s.plcJudged n p) e few⟩,
      fun third => ⟨_, congrArg Host.Outcome.next ((whenUp_up hu).trans eq), plcMissed_silent (s := s.plcJudged n p) e third⟩⟩

end Sys2Proof.Machine

/-! PROOFS. Lanterns of the radios (R176 to R189). -/
namespace Sys2Proof.Machine
set_option Elab.async false

/-! ### The contacts that a frame meets (R183, R184) -/

/-- The fields that an accepted frame of a lantern leaves until its contact is met. -/
def RfSettled (n : Nat) (f : Field) : Prop :=
  f.block < 22 ∧ f.block ≠ 20 ∧ (f.reg < 0x40070000 ∨ 0x40070004 < f.reg) ∧ (f.reg < 0x40070040 ∨ 0x4007004C < f.reg) ∧ f.key ≠ (RFM_LTAB_W1_FCKEY n).key ∧ f.key ≠ (RFM_LTAB_W2_FC n).key ∧ f.key ≠ (RFM_LTAB_W3_RSSI n).key ∧ f.lo < 1024

theorem rfSettled_fixed (n : Nat) : ∀ f ∈ [RFM_RFA_CFG_SFOFS, RFM_RFB_CFG_SFOFS, RFM_RFA_CFG_RATE, RFM_RFB_CFG_RATE, RFM_WAKE_WL, RFM_WAKE_WL_NEXT, RFM_RFA_CFG_CH, RFM_RFB_CFG_CH, RFM_RFA_CFG_TXPWR, RFM_RFB_CFG_TXPWR, SYS_ID_VARIANT], RfSettled n f := by
  intro f hf
  have small : ∀ f ∈ [RFM_RFA_CFG_SFOFS, RFM_RFB_CFG_SFOFS, RFM_RFA_CFG_RATE, RFM_RFB_CFG_RATE, RFM_WAKE_WL, RFM_WAKE_WL_NEXT, RFM_RFA_CFG_CH, RFM_RFB_CFG_CH, RFM_RFA_CFG_TXPWR, RFM_RFB_CFG_TXPWR, SYS_ID_VARIANT],
      f.block < 22 ∧ f.block ≠ 20 ∧ (f.reg < 0x40070000 ∨ 0x40070004 < f.reg) ∧ (f.reg < 0x40070040 ∨ 0x4007004C < f.reg) ∧ f.reg < 0x40078000 ∧ f.lo < 1024 := by decide
  obtain ⟨h1, h2, h3, h4, h5, h6⟩ := small f hf
  refine ⟨h1, h2, h3, h4, ?_, ?_, ?_, h6⟩ <;> (unfold Field.key; simp only [RFM_LTAB_W1_FCKEY, RFM_LTAB_W2_FC, RFM_LTAB_W3_RSSI]; omega)

theorem rfSettled_rows (n : Nat) : (∀ w, RfSettled n (RFM_MAP_A_CODE w)) ∧ (∀ w, RfSettled n (RFM_MAP_B_CODE w)) ∧ ∀ w, RfSettled n (LNU_HOME_HOME w) := by
  refine ⟨fun w => ?_, fun w => ?_, fun w => ?_⟩ <;>
    (unfold RfSettled Field.block Field.key
     simp only [RFM_MAP_A_CODE, RFM_MAP_B_CODE, LNU_HOME_HOME, RFM_LTAB_W1_FCKEY, RFM_LTAB_W2_FC, RFM_LTAB_W3_RSSI]
     omega)

theorem rfSettled_w0 (n : Nat) : ∀ f ∈ w0Fields n, RfSettled n f := by
  intro f hf
  simp only [w0Fields, List.mem_cons, List.not_mem_nil, or_false] at hf
  unfold RfSettled Field.block Field.key
  rcases hf with rfl | rfl | rfl | rfl | rfl | rfl | rfl | rfl <;>
    (simp only [RFM_LTAB_W0_EN, RFM_LTAB_W0_SLEEPY, RFM_LTAB_W0_RELAYED, RFM_LTAB_W0_RELAY, RFM_LTAB_W0_CELL, RFM_LTAB_W0_RCELL, RFM_LTAB_W0_RP, RFM_LTAB_W0_PH, RFM_LTAB_W1_FCKEY, RFM_LTAB_W2_FC, RFM_LTAB_W3_RSSI]
     omega)

section
variable {s t : State} {n : Nat} (rfm : t.rfm = s.rfm) (rd : ∀ f, RfSettled n f → t.rd f = s.rd f)
include rfm rd

theorem ltab_same : t.ltab n = s.ltab n := by
  have w0 := rfSettled_w0 n
  unfold State.ltab State.ltabWord
  rw [rfm]
  rw [rd _ (w0 (RFM_LTAB_W0_EN n) (by simp [w0Fields])), rd _ (w0 (RFM_LTAB_W0_SLEEPY n) (by simp [w0Fields])), rd _ (w0 (RFM_LTAB_W0_RELAYED n) (by simp [w0Fields])), rd _ (w0 (RFM_LTAB_W0_RELAY n) (by simp [w0Fields])),
    rd _ (w0 (RFM_LTAB_W0_CELL n) (by simp [w0Fields])), rd _ (w0 (RFM_LTAB_W0_RCELL n) (by simp [w0Fields])), rd _ (w0 (RFM_LTAB_W0_RP n) (by simp [w0Fields])), rd _ (w0 (RFM_LTAB_W0_PH n) (by simp [w0Fields]))]

omit rfm in
theorem grid_same (r : Nat) : t.sfOfs r = s.sfOfs r ∧ t.span r = s.span r ∧ t.shrNs r = s.shrNs r ∧ t.mapCodes r = s.mapCodes r := by
  have fixed := rfSettled_fixed n
  obtain ⟨mapA, mapB, -⟩ := rfSettled_rows n
  have rate : t.rfRate r = s.rfRate r := by
    unfold State.rfRate
    split
    · exact rd _ (fixed _ (by simp))
    · exact rd _ (fixed _ (by simp))
  refine ⟨?_, ?_, ?_, ?_⟩
  · unfold State.sfOfs
    split
    · rw [rd _ (fixed _ (by simp))]
    · rw [rd _ (fixed _ (by simp))]
  · unfold State.span
    rw [rate]
  · unfold State.shrNs
    rw [rate]
  · unfold State.mapCodes
    split <;> simp only [rd _ (mapA _), rd _ (mapB _)]

theorem contactsMet_same (x : Time) : t.contactsMet n x = s.contactsMet n x := by
  have fixed := rfSettled_fixed n
  have entry := ltab_same rfm rd
  have grid := grid_same rd
  have home : t.homeOf n = s.homeOf n := by
    unfold State.homeOf State.homeB
    rw [rd _ ((rfSettled_rows n).2.2 _)]
  have wake (g : Int) : t.wakeN n g = s.wakeN n g := by
    unfold State.wakeN State.lSleepy State.wlAt
    rw [entry, rfm, rd _ (fixed RFM_WAKE_WL (by simp)), rd _ (fixed RFM_WAKE_WL_NEXT (by simp))]
  have report (g : Int) : t.reportSf n g = s.reportSf n g := by
    unfold State.reportSf State.lPh State.lRp
    rw [entry, wake]
  have ends (g : Int) : t.contactEnd n g = s.contactEnd n g := by
    unfold State.contactEnd State.reportSlot State.cellsOf State.lRelayed State.lCell State.slotStart
    rw [home, entry]
    obtain ⟨g1, g2, -, g4⟩ := grid (s.homeOf n)
    simp only [g1, g2, g4]
  unfold State.contactsMet State.sfAt
  simp only [home, (grid (s.homeOf n)).1, report, ends]

end
/-! ### What an accepted frame leaves (R176, R183 to R187) -/

theorem dlQueue_grows (s : State) (n : Nat) (p : Octets) (h : Nat) : ∃ more, (s.dlQueue n p h).waiting = s.waiting ++ more := by
  unfold State.dlQueue
  dsimp only
  split
  · exact ⟨[], (setDl_facts _ _ _).2.2.2.2.1.trans (List.append_nil _).symm⟩
  · exact ⟨_, (dlResult_facts _ _ _ _ _).2.1⟩

/-- A lantern's state at its contact: an adrift or lost one is tracked again (R185, R187). -/
def State.regained (s : State) (r n : Nat) (x : Time) : State :=
  if s.lState n = 2 ∨ s.lState n = 3 then ((s.wr (RFM_LTAB_W3_MISS n) 0).wr (RFM_LTAB_W3_DARNF n) 0).lanternTo r n 1 3 x else s

/-- The assignment that waits for a lantern's contact is queued (R187). -/
def State.assignDue (s : State) (n : Nat) : State := if (s.link n).assign then (s.onLink n (fun x => { x with assign := false })).queueAssign n else s

theorem contact_eq (s : State) (r n : Nat) (x : Time) : ∃ g, s.contact r n x = if !s.lEn n then s else ((s.regained r n x).onRadio r g).assignDue n := by
  unfold State.contact
  exact ⟨_, rfl⟩

theorem assignDue_keeps (s : State) (n : Nat) : (∃ more, (s.assignDue n).waiting = s.waiting ++ more) ∧ ∀ f : Field, 0x40070178 ≤ f.reg → f.lo < 1024 → (s.assignDue n).rd f = s.rd f := by
  unfold State.assignDue
  split
  · obtain ⟨rd, -⟩ := dlQueue_keep (s.onLink n (fun x => { x with assign := false })) n
      ([octet 0xA1] ++ le 4 ((s.onLink n (fun x => { x with assign := false })).ltabWord n) ++ le 4 ((s.onLink n (fun x => { x with assign := false })).rd (RFM_LTAB_W1_PARENT n) * 65536) ++
        [octet ((s.onLink n (fun x => { x with assign := false })).homeOf n)]) 0xFF
    exact ⟨dlQueue_grows _ _ _ _, rd⟩
  · exact ⟨⟨[], (List.append_nil _).symm⟩, fun _ _ _ => rfl⟩

theorem regained_grows (s : State) (r n : Nat) (x : Time) : ∃ more, (s.regained r n x).waiting = s.waiting ++ more := by
  unfold State.regained
  split
  · exact ⟨_, (lanternTo_facts _ _ _ _ _ _).2.2.2.1⟩
  · exact ⟨[], (List.append_nil _).symm⟩

theorem contact_grows (s : State) (r n : Nat) (x : Time) : ∃ more, (s.contact r n x).waiting = s.waiting ++ more := by
  obtain ⟨g, eq⟩ := contact_eq s r n x
  rw [eq]
  split
  · exact ⟨[], (List.append_nil _).symm⟩
  · obtain ⟨a, ha⟩ := regained_grows s r n x
    obtain ⟨-, -, -, wait, -⟩ := onRadio_regs (s.regained r n x) r g
    obtain ⟨⟨b, hb⟩, -⟩ := assignDue_keeps ((s.regained r n x).onRadio r g) n
    exact ⟨a ++ b, by rw [hb, wait, ha, List.append_assoc]⟩

/-- The contact of a tracked lantern leaves its MISS. -/
theorem contact_tracked {s : State} {n : Nat} (r : Nat) (x : Time) (tracked : s.lState n = 1) : (s.contact r n x).rd (RFM_LTAB_W3_MISS n) = s.rd (RFM_LTAB_W3_MISS n) := by
  obtain ⟨g, eq⟩ := contact_eq s r n x
  have same : s.regained r n x = s := if_neg (by omega)
  rw [eq, same]
  split
  · rfl
  · obtain ⟨regs, -⟩ := onRadio_regs s r g
    rw [(assignDue_keeps _ n).2 _ (by simp only [RFM_LTAB_W3_MISS]; omega) (by show 28 < 1024; decide), rd_regs regs]

theorem meet_waiting (s : State) (n : Nat) (x : Time) : (s.meet n x).waiting = s.waiting := by
  unfold State.meet
  dsimp only
  split <;> rfl

/-- A frame that meets an expected contact of a tracked lantern clears MISS (R185). -/
theorem meet_miss {s : State} {n : Nat} {x : Time} (tracked : s.lState n = 1) (met : ∃ g ∈ s.contactsMet n x, (s.link n).judgedBy g = false) : (s.meet n x).rd (RFM_LTAB_W3_MISS n) = 0 ∧ (s.meet n x).lState n = 1 := by
  obtain ⟨g, mem, fresh⟩ := met
  have some' : (s.contactsMet n x).filter (fun g => !(s.link n).judgedBy g) ≠ [] := by
    refine List.ne_nil_of_mem (a := g) ?_
    rw [List.mem_filter, fresh]
    exact ⟨mem, rfl⟩
  have key : (RFM_LTAB_W3_STATE n).key ≠ (RFM_LTAB_W3_MISS n).key := by unfold Field.key; simp only [RFM_LTAB_W3_STATE, RFM_LTAB_W3_MISS]; omega
  unfold State.meet
  dsimp only
  rw [if_pos ⟨tracked, some'⟩]
  exact ⟨rd_wr_same _ _ 0, (rd_wr_ne _ 0 key).trans tracked⟩

/-- What an accepted frame leaves in its sender's entry, before its contact. -/
def State.noted (s : State) (src idx fc rssi : Nat) : State := ((s.wr (RFM_LTAB_W1_FCKEY src) idx).wr (RFM_LTAB_W2_FC src) fc).wr (RFM_LTAB_W3_RSSI src) rssi

theorem noted_rd (s : State) (src idx fc rssi : Nat) {f : Field} (h1 : f.key ≠ (RFM_LTAB_W1_FCKEY src).key) (h2 : f.key ≠ (RFM_LTAB_W2_FC src).key) (h3 : f.key ≠ (RFM_LTAB_W3_RSSI src).key) :
    (s.noted src idx fc rssi).rd f = s.rd f := (rd_wr_ne _ _ h3).trans ((rd_wr_ne _ _ h2).trans (rd_wr_ne _ _ h1))

theorem noteFrame_eq {s : State} {src : Nat} {p : Octets} (r idx fc rssi : Nat) (x : Time) (plain : octAt p 0 ≠ 0xC0) :
    s.noteFrame r src idx fc rssi p x = (if (s.noted src idx fc rssi).lRelayed src then s.noted src idx fc rssi else (s.noted src idx fc rssi).meet src x).contact r src x := by
  unfold State.noteFrame
  dsimp only
  rw [if_neg plain]
  rfl

/-- A lantern's frame noted: MISS where it meets an expected contact, and the events that follow its own. -/
theorem noteFrame_more {s u : State} {src : Nat} {p : Octets} (r idx fc rssi : Nat) {x : Time} (rfm : u.rfm = s.rfm) (rd : ∀ f, RfSettled src f → u.rd f = s.rd f) (plain : octAt p 0 ≠ 0xC0) :
    (∃ more, (u.noteFrame r src idx fc rssi p x).waiting = u.waiting ++ more) ∧
    (s.lRelayed src = false → s.rd (RFM_LTAB_W3_STATE src) = 1 → (∃ g ∈ s.contactsMet src x, (s.link src).judgedBy g = false) → (u.noteFrame r src idx fc rssi p x).rd (RFM_LTAB_W3_MISS src) = 0) := by
  have rfm2 : (u.noted src idx fc rssi).rfm = s.rfm := rfm
  have rd2 : ∀ f, RfSettled src f → (u.noted src idx fc rssi).rd f = s.rd f := fun f hf => by
    obtain ⟨-, -, -, -, h1, h2, h3, -⟩ := id hf
    exact (noted_rd u src idx fc rssi h1 h2 h3).trans (rd f hf)
  have wait : (u.noted src idx fc rssi).waiting = u.waiting := rfl
  rw [noteFrame_eq r idx fc rssi x plain]
  generalize u.noted src idx fc rssi = v at *
  constructor
  · obtain ⟨more, grows⟩ := contact_grows (if v.lRelayed src then v else v.meet src x) r src x
    refine ⟨more, grows.trans (congrArg (· ++ more) ?_)⟩
    split
    · exact wait
    · exact (meet_waiting v src x).trans wait
  · intro direct tracked met
    have direct2 : v.lRelayed src = false := by
      unfold State.lRelayed
      rw [ltab_same rfm2 rd2]
      exact direct
    have state : RfSettled src (RFM_LTAB_W3_STATE src) := by
      unfold RfSettled Field.block Field.key
      simp only [RFM_LTAB_W3_STATE, RFM_LTAB_W1_FCKEY, RFM_LTAB_W2_FC, RFM_LTAB_W3_RSSI]
      omega
    have link : v.link src = s.link src := by
      unfold State.link
      rw [rfm2]
    obtain ⟨miss, still⟩ := meet_miss (s := v) (n := src) (x := x) ((rd2 _ state).trans tracked) (by rw [contactsMet_same rfm2 rd2, link]; exact met)
    rw [if_neg (by rw [direct2]; decide), contact_tracked r x still]
    exact miss

/-! ### Frames of lanterns (R176) -/

section
variable {s : State} {r : Nat} {f : Octets} {m : RadioMeet} {rssi : Nat} (run : s.rfRuns r = true) (hears : s.listens r (s.replica (repRadio r)) = true)
include run hears

theorem rfReceive_dropped (bad : m.fcs4 = true ∨ m.plain = true ∨ 125 < f.length ∨ (m.fcs = false ∧ leAt f 0 2 = 0xA869)) : s.rfReceive r f m rssi = s.rfDrop := by
  have on : s.rd (rfRunst r) = 1 := beq_iff_eq.mp run
  unfold State.rfReceive
  dsimp only
  rw [if_neg (by simp [on, hears])]
  split
  · rfl
  · next ok =>
    obtain ⟨fcs, head⟩ : m.fcs = false ∧ leAt f 0 2 = 0xA869 := by
      rcases bad with h | h | h | h
      · exact absurd (by simp [h]) ok
      · exact absurd (by simp [h]) ok
      · exact absurd (by simp [h]) ok
      · exact h
    rw [if_neg (by omega)]
    unfold State.lanternFrame
    exact if_pos (by simp [fcs])

theorem rfReceive_lantern (short : f.length ≤ 125) (head : leAt f 0 2 = 0xA869) : s.rfReceive r f ⟨true, false, false⟩ rssi = s.lanternFrame r (s.replica (repRadio r)) f true rssi := by
  have on : s.rd (rfRunst r) = 1 := beq_iff_eq.mp run
  unfold State.rfReceive
  dsimp only
  rw [if_neg (by simp [on, hears]), if_neg (by simp; omega), if_neg (by omega)]

theorem rfReceive_beacon (short : f.length ≤ 125) (head : leAt f 0 2 = 0xA008) : s.rfReceive r f ⟨true, false, false⟩ rssi = s.neighbourBeacon r (s.replica (repRadio r)) f true := by
  have on : s.rd (rfRunst r) = 1 := beq_iff_eq.mp run
  unfold State.rfReceive
  dsimp only
  rw [if_neg (by simp [on, hears]), if_neg (by simp; omega), if_pos head]

end

theorem rfReceive_deaf {s : State} {r : Nat} (f : Octets) (m : RadioMeet) (rssi : Nat) (deaf : s.listens r (s.replica (repRadio r)) = false) : s.rfReceive r f m rssi = s := by
  unfold State.rfReceive
  dsimp only
  rw [if_pos (by simp [deaf])]

/-- The frames of a lantern of which O39 speaks: one of the segment, secured under the first key, of a management type, from an enabled entry. -/
structure RadioFrame (s : State) (f p : Octets) (k : KeySlot) : Prop where
  head : leAt f 0 2 = 0xA869
  pan : leAt f 3 2 = s.seg
  dst : leAt f 5 2 = 0x0800
  src : leAt f 7 2 < 2048
  aux : octAt f 9 = 0x0D
  idx : octAt f 14 = 1
  slot : s.slot (s.rd RFM_SEC_KSLOT0) = some k
  allows : k.allows opLink ctxRfm = true
  opens : opened5 k.key (ccmNonce s.seg (leAt f 7 2) (leAt f 10 4) 5) f 15 = some p
  type : octAt p 0 / 16 = 0xE
  entry : s.lEn (leAt f 7 2) = true
  key : s.rd (RFM_LTAB_W1_FCKEY (leAt f 7 2)) = 1

/-- A lantern's frame counted and acknowledged, before it is noted (R176, R177). -/
def State.radioAcked (s : State) (r : Nat) (x : Time) (f : Octets) : State :=
  (s.count (rfRxCount r) RFM_STATUS_CNTWRAP).rfOut r (nsOf x + (s.count (rfRxCount r) RFM_STATUS_CNTWRAP).airNs r (4 + f.length) + 1000000) (le 2 0x0002 ++ [octet (octAt f 2)])

theorem RadioFrame.lantern {s : State} {f p : Octets} {k : KeySlot} (h : RadioFrame s f p k) (r : Nat) (x : Time) (rssi : Nat) : s.lanternFrame r x f true rssi =
    if leAt f 10 4 ≤ s.rd (RFM_LTAB_W2_FC (leAt f 7 2)) then (s.rfDrop).raise RFM_STATUS_REPLAY
    else if !(s.dcqOffer (6 + 2 * r) (s.event (76 + r) (leAt f 7 2) 0x02 p x)).2 then ((s.dcqOffer (6 + 2 * r) (s.event (76 + r) (leAt f 7 2) 0x02 p x)).1.rfDrop).raise RFM_STATUS_EVDROP
    else ((s.dcqOffer (6 + 2 * r) (s.event (76 + r) (leAt f 7 2) 0x02 p x)).1.radioAcked r x f).noteFrame r (leAt f 7 2) 1 (leAt f 10 4) rssi p x := by
  obtain ⟨head, pan, dst, src, aux, idx, slot, allows, opens, type, entry, fckey⟩ := h
  have none0 : ¬ octAt p 0 = 0xC0 := by omega
  have none1 : (octAt p 0 == 0xC0) = false := beq_false_of_ne none0
  have event : s.lanternEvent r (leAt f 7 2) p x = s.event (76 + r) (leAt f 7 2) 0x02 p x := if_neg none0
  have key : s.keyFor (if 1 = 1 then s.rd RFM_SEC_KSLOT0 else s.rd RFM_SEC_KSLOT1) opLink ctxRfm = (s, some k) := keyFor_ok s _ _ _ k slot allows
  have replay : s.replayed (leAt f 7 2) 1 (leAt f 10 4) = decide (leAt f 10 4 ≤ s.rd (RFM_LTAB_W2_FC (leAt f 7 2))) := by
    unfold State.replayed
    rw [if_pos fckey]
  unfold State.lanternFrame
  dsimp only
  rw [if_neg (by simp [pan, dst, head]; omega), if_neg (by simp [aux, idx]), idx, key]
  dsimp only
  rw [opens]
  dsimp only
  rw [if_neg (by simp [type]), event, replay]
  simp only [none1, entry, Bool.false_and, Bool.not_true, Bool.false_eq_true, if_false, decide_eq_true_eq]
  rfl

/-- The settings that a radio's frame leaves with. -/
theorem radioSet_same {s t : State} {n : Nat} (rd : ∀ f, RfSettled n f → t.rd f = s.rd f) (r : Nat) : t.rfChannel r = s.rfChannel r ∧ t.rfPower r = s.rfPower r ∧ ∀ k, t.airNs r k = s.airNs r k := by
  have fixed := rfSettled_fixed n
  have rate : t.rfRate r = s.rfRate r := by
    unfold State.rfRate
    split
    · exact rd _ (fixed _ (by simp))
    · exact rd _ (fixed _ (by simp))
  refine ⟨?_, ?_, fun k => ?_⟩
  · unfold State.rfChannel State.channelOf State.topChannel
    rw [rate, rd SYS_ID_VARIANT (fixed _ (by simp))]
    split <;> rw [rd _ (fixed _ (by simp))]
  · unfold State.rfPower
    split <;> rw [rd _ (fixed _ (by simp))]
  · unfold State.airNs
    rw [(grid_same rd r).2.2.1]

theorem rfCount_settled {n : Nat} (r : Nat) {f : Field} (h : RfSettled n f) : f.key ≠ (rfRxCount r).key ∧ f.key ≠ (rfTxCount r).key ∧ f.key ≠ RFM_STATUS_CNTWRAP.key := by
  obtain ⟨-, -, h3, h4, -, -, -, hl⟩ := h
  refine ⟨?_, ?_, ?_⟩
  · unfold rfRxCount Field.key
    split
    · simp only [RFM_RX_A_COUNT]; omega
    · simp only [RFM_RX_B_COUNT]; omega
  · unfold rfTxCount Field.key
    split
    · simp only [RFM_TX_A_COUNT]; omega
    · simp only [RFM_TX_B_COUNT]; omega
  · unfold Field.key
    simp only [RFM_STATUS_CNTWRAP]
    omega

/-- A frame acknowledged: its Imm-Ack sent, and nothing of the lanterns touched (R177). -/
theorem radioAcked_facts (s : State) (r n : Nat) (x : Time) (f : Octets) : (s.radioAcked r x f).sent = s.sent ++ [⟨3 + r, nsOf x + s.airNs r (4 + f.length) + 1000000, le 2 0x0002 ++ [octet (octAt f 2)], 0, .whole, s.rfChannel r, s.rfPower r⟩] ∧
    (s.radioAcked r x f).rfm = s.rfm ∧ (s.radioAcked r x f).waiting = s.waiting ∧ ∀ g, RfSettled n g → (s.radioAcked r x f).rd g = s.rd g := by
  obtain ⟨rfm, sent, -, wait, -⟩ := count_parts s (rfRxCount r) RFM_STATUS_CNTWRAP
  have rd : ∀ g, RfSettled n g → (s.count (rfRxCount r) RFM_STATUS_CNTWRAP).rd g = s.rd g := fun g hg => count_rd_ne s (rfCount_settled r hg).1 (rfCount_settled r hg).2.2
  unfold State.radioAcked
  generalize s.count (rfRxCount r) RFM_STATUS_CNTWRAP = u at *
  obtain ⟨ch, pw, air⟩ := radioSet_same rd r
  obtain ⟨sent2, rfm2, -⟩ := rfOut_facts u r (nsOf x + u.airNs r (4 + f.length) + 1000000) (le 2 0x0002 ++ [octet (octAt f 2)])
  refine ⟨?_, rfm2.trans rfm, ?_, fun g hg => ?_⟩
  · rw [sent2, sent, ch, pw, air]
  · exact (count_parts u (rfTxCount r) RFM_STATUS_CNTWRAP).2.2.2.1.trans wait
  · exact (count_rd_ne u (rfCount_settled r hg).2.1 (rfCount_settled r hg).2.2).trans (rd g hg)

theorem dcqOffer_settled {s : State} {n k : Nat} (e : Event) {f : Field} (h : RfSettled n f) : (s.dcqOffer k e).1.rd f = s.rd f := by
  obtain ⟨hb, h20, -⟩ := h
  refine only_rd (m := 34603008) (dcqOffer_only rfl (Only.refl s)) ?_
  have b : ∀ k, k < 22 → k ≠ 20 → (decide (k < 22) && !(34603008 : Nat).testBit k) = true := by decide
  exact b _ hb h20

theorem dcqOffer_rfm (s : State) (n : Nat) (e : Event) : (s.dcqOffer n e).1.rfm = s.rfm ∧ (s.dcqOffer n e).1.sent = s.sent ∧ (s.dcqOffer n e).1.tb = s.tb := by
  have o : Only 34603008 s (s.dcqOffer n e).1 := dcqOffer_only rfl (Only.refl s)
  exact ⟨only_part o .rfm rfl, only_part o .sent rfl, only_part o .tb rfl⟩

section
variable {s : State} {r : Fin 2} {stamp : Time} {f p : Octets} {rssi : Byte} {k : KeySlot} (hu : s.up = true) (run : s.rfRuns r.val = true) (hst : stamp = s.replica (repRadio r.val)) (hears : s.listens r.val stamp = true) (short : f.length ≤ 125)
  (h : RadioFrame s f p k)
include hu run hst hears short h

theorem radioFrame_accepted (fresh : s.rd (RFM_LTAB_W2_FC (leAt f 7 2)) < leAt f 10 4) (taken : (s.dcqOffer (6 + 2 * r.val) (s.event (76 + r.val) (leAt f 7 2) 0x02 p stamp)).2 = true) :
    Answers (.radioFrameReceive r f ⟨true, false, false⟩ rssi) s (fun t => t.rd (RFM_LTAB_W1_FCKEY (leAt f 7 2)) = 1 ∧ t.rd (RFM_LTAB_W2_FC (leAt f 7 2)) = leAt f 10 4 ∧
      t.sent = s.sent ++ [⟨3 + r.val, nsOf stamp + s.airNs r.val (4 + f.length) + 1000000, le 2 0x0002 ++ [octet (octAt f 2)], 0, .whole, s.rfChannel r.val, s.rfPower r.val⟩] ∧
      (s.lRelayed (leAt f 7 2) = false → s.rd (RFM_LTAB_W3_STATE (leAt f 7 2)) = 1 → (∃ g ∈ s.contactsMet (leAt f 7 2) stamp, (s.link (leAt f 7 2)).judgedBy g = false) → t.rd (RFM_LTAB_W3_MISS (leAt f 7 2)) = 0) ∧
      ∃ more, t.waiting = s.waiting ++ ⟨s.event (76 + r.val) (leAt f 7 2) 0x02 p stamp, some (6 + 2 * r.val), (s.event (76 + r.val) (leAt f 7 2) 0x02 p stamp).words⟩ :: more) := by
  subst hst
  have eq := (rfReceive_lantern (rssi := rssi.toNat) run hears short h.head).trans (h.lantern r.val (s.replica (repRadio r.val)) rssi.toNat)
  generalize s.replica (repRadio r.val) = x at *
  rw [if_neg (by omega), if_neg (by simp [taken])] at eq
  have plain : octAt p 0 ≠ 0xC0 := by have := h.type; omega
  have wait := dcqOffer_taken s (6 + 2 * r.val) _ taken
  obtain ⟨rfm, sent, -⟩ := dcqOffer_rfm s (6 + 2 * r.val) (s.event (76 + r.val) (leAt f 7 2) 0x02 p x)
  have rd (g : Field) (hg : RfSettled (leAt f 7 2) g) := dcqOffer_settled (s := s) (k := 6 + 2 * r.val) (s.event (76 + r.val) (leAt f 7 2) 0x02 p x) hg
  generalize (s.dcqOffer (6 + 2 * r.val) (s.event (76 + r.val) (leAt f 7 2) 0x02 p x)).1 = u at *
  obtain ⟨sent2, rfm2, wait2, rd2⟩ := radioAcked_facts u r.val (leAt f 7 2) x f
  obtain ⟨ch, pw, air⟩ := radioSet_same rd r.val
  rw [ch, pw, air, sent] at sent2
  generalize u.radioAcked r.val x f = v at *
  obtain ⟨fckey, fc, sent3⟩ := noteFrame_facts v r.val (leAt f 7 2) 1 (leAt f 10 4) rssi.toNat p x
  obtain ⟨⟨more, wait3⟩, miss⟩ := noteFrame_more (s := s) (u := v) r.val 1 (leAt f 10 4) rssi.toNat (x := x) (rfm2.trans rfm) (fun g hg => (rd2 g hg).trans (rd g hg)) plain
  refine ⟨_, congrArg Host.Outcome.next ((whenUp_up hu).trans eq), fckey, fc.trans (Nat.mod_eq_of_lt (leAt_lt f 10 4)), sent3.trans sent2, miss, more, ?_⟩
  rw [wait3, wait2, wait, List.append_assoc]
  rfl

theorem radioFrame_replayed (old : leAt f 10 4 ≤ s.rd (RFM_LTAB_W2_FC (leAt f 7 2))) : Answers (.radioFrameReceive r f ⟨true, false, false⟩ rssi) s (fun t =>
    t.rd RFM_STATUS_REPLAY = 1 ∧ t.rd (RFM_LTAB_W2_FC (leAt f 7 2)) = s.rd (RFM_LTAB_W2_FC (leAt f 7 2)) ∧ t.sent = s.sent ∧ t.waiting = s.waiting) := by
  subst hst
  have eq := (rfReceive_lantern (rssi := rssi.toNat) run hears short h.head).trans (h.lantern r.val (s.replica (repRadio r.val)) rssi.toNat)
  rw [if_pos old] at eq
  obtain ⟨-, rd⟩ := rfDrop_facts s
  obtain ⟨-, sent, -, wait, -⟩ := count_parts s RFM_DROP_COUNT RFM_STATUS_CNTWRAP
  have keys : (RFM_LTAB_W2_FC (leAt f 7 2)).key ≠ RFM_DROP_COUNT.key ∧ (RFM_LTAB_W2_FC (leAt f 7 2)).key ≠ RFM_STATUS_CNTWRAP.key ∧ (RFM_LTAB_W2_FC (leAt f 7 2)).key ≠ RFM_STATUS_REPLAY.key := by
    unfold Field.key
    simp only [RFM_LTAB_W2_FC, RFM_DROP_COUNT, RFM_STATUS_CNTWRAP, RFM_STATUS_REPLAY]
    omega
  exact ⟨_, congrArg Host.Outcome.next ((whenUp_up hu).trans eq), rd_wr_same _ _ 1, (rd_wr_ne _ 1 keys.2.2).trans (rd _ keys.1 keys.2.1), sent, wait⟩

end

/-! ### Neighbours (R174, R189) -/

/-- A neighbour's beacon counted, its entry without misses. -/
def State.nbrHeard (s : State) (r m : Nat) (sf : Int) : State :=
  { (s.count (rfRxCount r) RFM_STATUS_CNTWRAP).wr (RFM_NBR_W1_MISSES m) 0 with rfm := { ((s.count (rfRxCount r) RFM_STATUS_CNTWRAP).wr (RFM_NBR_W1_MISSES m) 0).rfm with
    heard := kvSet ((s.count (rfRxCount r) RFM_STATUS_CNTWRAP).wr (RFM_NBR_W1_MISSES m) 0).rfm.heard m sf } }

/-- The beacon's event (R180). -/
def State.beaconEvent (s : State) (r : Nat) (f p : Octets) (x : Time) : Event :=
  { s.event (76 + r) 0 0x01 (slice p 6 8 ++ slice p 1 5 ++ [octet 1]) x with src := srcId (leAt f 3 2) 0 (76 + r), seq := some (leAt p 1 2) }

theorem neighbourBeacon_heard {s : State} {r m : Nat} {x : Time} {f p : Octets} {k : KeySlot} (who : s.neighbourAt r (s.slotAt r (nsOf x) / s.span r * s.span r) = some m) (pan : leAt f 3 2 = s.rd (RFM_NBR_W0_SEG m))
    (dst : leAt f 5 2 = 0x0800) (aux : octAt f 7 = 0x09) (idx : octAt f 12 = 0x10) (slot : s.slot (s.rd RFM_SEC_KSLOTB) = some k) (allows : k.allows opLink ctxRfm = true)
    (opens : opened1 k.key (ccmNonce (leAt f 3 2) 0x0800 (leAt f 8 4) 1) f 13 = some p) (type : octAt p 0 = 0xBE) (taken : (s.dcqOffer (6 + 2 * r) (s.beaconEvent r f p x)).2 = true) :
    s.neighbourBeacon r x f true = if ((s.dcqOffer (6 + 2 * r) (s.beaconEvent r f p x)).1.nbrHeard r m (s.sfAt r (nsOf x))).on (RFM_NBR_W1_PRESENT m) then (s.dcqOffer (6 + 2 * r) (s.beaconEvent r f p x)).1.nbrHeard r m (s.sfAt r (nsOf x))
      else ((s.dcqOffer (6 + 2 * r) (s.beaconEvent r f p x)).1.nbrHeard r m (s.sfAt r (nsOf x))).neighbourTo m 1 x := by
  have key : s.keyFor (s.rd RFM_SEC_KSLOTB) opLink ctxRfm = (s, some k) := keyFor_ok s _ _ _ k slot allows
  unfold State.beaconEvent at *
  unfold State.neighbourBeacon State.rfEvent
  rw [who]
  dsimp only
  rw [if_neg (by simp [pan, dst]), key]
  dsimp only
  rw [dst, opens]
  dsimp only
  rw [if_neg (by simp [aux, idx]), if_neg (by simp [type]), if_neg (by rw [taken]; decide)]
  rfl

theorem nbrHeard_facts (s : State) (r m : Nat) (sf : Int) : (s.nbrHeard r m sf).rd (RFM_NBR_W1_MISSES m) = 0 ∧ kvFind (s.nbrHeard r m sf).rfm.heard m = some sf ∧ (s.nbrHeard r m sf).sent = s.sent ∧ (s.nbrHeard r m sf).waiting = s.waiting := by
  obtain ⟨-, sent, -, wait, -⟩ := count_parts s (rfRxCount r) RFM_STATUS_CNTWRAP
  unfold State.nbrHeard
  generalize s.count (rfRxCount r) RFM_STATUS_CNTWRAP = u at *
  exact ⟨(rd_mk _ _).trans (rd_wr_same u _ 0), kvFind_kvSet_same _ _ _, sent, wait⟩

/-- A neighbour's presence changes, with its event (R189). -/
theorem neighbourTo_facts (s : State) (m present : Nat) (x : Time) : (s.neighbourTo m present x).rd (RFM_NBR_W1_PRESENT m) = present % 2 ∧ (s.neighbourTo m present x).rd (RFM_NBR_W1_MISSES m) = s.rd (RFM_NBR_W1_MISSES m) ∧
    (s.neighbourTo m present x).rd RFM_STATUS_NBRCHG = 1 ∧ (s.neighbourTo m present x).rfm = s.rfm ∧ (s.neighbourTo m present x).sent = s.sent ∧ ∃ more, (s.neighbourTo m present x).waiting = s.waiting ++ more := by
  have keys : (RFM_NBR_W1_PRESENT m).key ≠ RFM_STATUS_NBRCHG.key ∧ (RFM_NBR_W1_MISSES m).key ≠ RFM_STATUS_NBRCHG.key ∧ (RFM_NBR_W1_MISSES m).key ≠ (RFM_NBR_W1_PRESENT m).key := by
    unfold Field.key
    simp only [RFM_NBR_W1_PRESENT, RFM_NBR_W1_MISSES, RFM_STATUS_NBRCHG]
    omega
  obtain ⟨k1, k2, k3⟩ := keys
  unfold State.neighbourTo
  dsimp only
  generalize { s.event (76 + s.rd (RFM_NBR_W0_RADIO m)) 0 0x05 [octet m, octet present] x with src := srcId (s.rd (RFM_NBR_W0_SEG m)) 0 (76 + s.rd (RFM_NBR_W0_RADIO m)) } = e
  refine ⟨?_, ?_, rd_wr_same _ _ 1, rfl, rfl, _, rfl⟩
  · exact (rd_wr_ne _ 1 k1).trans ((post_rd _ _ _).trans (rd_wr_same s _ present))
  · exact (rd_wr_ne _ 1 k2).trans ((post_rd _ _ _).trans (rd_wr_ne s present k3))

theorem radioBeacon_heard {s : State} {r : Fin 2} {m : Nat} {stamp : Time} {f p : Octets} {rssi : Byte} {k : KeySlot} {e : Event} (hu : s.up = true) (run : s.rfRuns r.val = true) (hst : stamp = s.replica (repRadio r.val))
    (hears : s.listens r.val stamp = true) (short : f.length ≤ 125) (head : leAt f 0 2 = 0xA008) (who : s.neighbourAt r.val (s.slotAt r.val (nsOf stamp) / s.span r.val * s.span r.val) = some m) (pan : leAt f 3 2 = s.rd (RFM_NBR_W0_SEG m))
    (dst : leAt f 5 2 = 0x0800) (aux : octAt f 7 = 0x09) (idx : octAt f 12 = 0x10) (slot : s.slot (s.rd RFM_SEC_KSLOTB) = some k) (allows : k.allows opLink ctxRfm = true)
    (opens : opened1 k.key (ccmNonce (leAt f 3 2) 0x0800 (leAt f 8 4) 1) f 13 = some p) (type : octAt p 0 = 0xBE)
    (he : e = { s.event (76 + r.val) 0 0x01 (slice p 6 8 ++ slice p 1 5 ++ [octet 1]) stamp with src := srcId (leAt f 3 2) 0 (76 + r.val), seq := some (leAt p 1 2) }) (taken : (s.dcqOffer (6 + 2 * r.val) e).2 = true) :
    Answers (.radioFrameReceive r f ⟨true, false, false⟩ rssi) s (fun t => t.rd (RFM_NBR_W1_MISSES m) = 0 ∧ t.rd (RFM_NBR_W1_PRESENT m) ≠ 0 ∧ kvFind t.rfm.heard m = some (s.sfAt r.val (nsOf stamp)) ∧ t.sent = s.sent ∧
      ∃ more, t.waiting = s.waiting ++ ⟨e, some (6 + 2 * r.val), e.words⟩ :: more) := by
  have he : e = s.beaconEvent r.val f p stamp := he
  subst hst
  have taken2 := taken
  rw [he] at taken2
  have eq := (rfReceive_beacon (rssi := rssi.toNat) run hears short head).trans (neighbourBeacon_heard who pan dst aux idx slot allows opens type taken2)
  rw [← he] at eq
  have wait := dcqOffer_taken s (6 + 2 * r.val) e taken
  obtain ⟨-, sent, -⟩ := dcqOffer_rfm s (6 + 2 * r.val) e
  generalize (s.dcqOffer (6 + 2 * r.val) e).1 = u at *
  obtain ⟨miss, heard, sent2, wait2⟩ := nbrHeard_facts u r.val m (s.sfAt r.val (nsOf (s.replica (repRadio r.val))))
  generalize u.nbrHeard r.val m (s.sfAt r.val (nsOf (s.replica (repRadio r.val)))) = v at *
  refine ⟨_, congrArg Host.Outcome.next ((whenUp_up hu).trans eq), ?_⟩
  split
  · next on => exact ⟨miss, bne_iff_ne.mp on, heard, sent2.trans sent, [], wait2.trans wait⟩
  · obtain ⟨present, miss2, -, rfm, sent3, more, wait3⟩ := neighbourTo_facts v m 1 (s.replica (repRadio r.val))
    refine ⟨miss2.trans miss, by rw [present]; decide, by rw [rfm]; exact heard, sent3.trans (sent2.trans sent), more, ?_⟩
    rw [wait3, wait2, wait, List.append_assoc]
    rfl

end Sys2Proof.Machine

/-! PROOFS. Expected contacts, Darn windows, neighbours' cells, wake settings and table writes of the radios (R183 to R192). -/
namespace Sys2Proof.Machine
set_option Elab.async false

/-! ### Frames discarded and not heard (R167, R176) -/

theorem radioFrame_dropped {s : State} {r : Fin 2} {f : Octets} {m : RadioMeet} (rssi : Byte) (hu : s.up = true) (run : s.rfRuns r.val = true) (hears : s.listens r.val (s.replica (repRadio r.val)) = true)
    (bad : m.fcs4 = true ∨ m.plain = true ∨ 125 < f.length ∨ (m.fcs = false ∧ leAt f 0 2 = 0xA869)) : Answers (.radioFrameReceive r f m rssi) s (fun t =>
      t.rd RFM_DROP_COUNT = (s.rd RFM_DROP_COUNT + 1) % 2 ^ RFM_DROP_COUNT.width ∧ t.sent = s.sent ∧ t.waiting = s.waiting ∧ t.rfm = s.rfm) := by
  obtain ⟨drops, -⟩ := rfDrop_facts s
  obtain ⟨rfm, sent, -, wait, -⟩ := count_parts s RFM_DROP_COUNT RFM_STATUS_CNTWRAP
  exact ⟨_, congrArg Host.Outcome.next ((whenUp_up hu).trans (rfReceive_dropped (rssi := rssi.toNat) run hears bad)), drops, sent, wait, rfm⟩

theorem radioFrame_unheard {s : State} {r : Fin 2} (f : Octets) (m : RadioMeet) (rssi : Byte) (deaf : s.listens r.val (s.replica (repRadio r.val)) = false) : exec (.radioFrameReceive r f m rssi) s = .next s := by
  refine congrArg Host.Outcome.next ?_
  unfold State.whenUp
  dsimp only
  rw [rfReceive_deaf f m rssi.toNat deaf, ite_self]

/-! ### Expected contacts judged (R183, R185) -/

/-- The expected contact of superframe `f` judged. -/
def State.judgedAt (s : State) (n : Nat) (f : Int) : State := s.onLink n (fun x => { x with judged := some f })

theorem judgedAt_link (s : State) (n : Nat) (f : Int) : (s.judgedAt n f).link n = { s.link n with judged := some f } := by
  unfold State.judgedAt State.onLink State.link
  dsimp only
  rw [kvFind_kvSet_same]
  rfl

theorem judgedAt_wide (s : State) (n : Nat) (f : Int) : (s.judgedAt n f).wideAt n f = s.wideAt n f := by
  have delta : ∀ x, (s.judgedAt n f).deltaOf n f x = s.deltaOf n f x := by
    intro x
    unfold State.deltaOf
    rw [judgedAt_link]
    rfl
  unfold State.wideAt
  rw [delta]
  rfl

/-- The keys of the last word of a lantern's entry differ from one another and from those of the status and identity registers. -/
theorem w3_keys (n : Nat) : (RFM_LTAB_W3_MISS n).key ≠ (RFM_LTAB_W3_DARNF n).key ∧ (RFM_LTAB_W3_MISS n).key ≠ (RFM_LTAB_W3_STATE n).key ∧ (RFM_LTAB_W3_DARNF n).key ≠ (RFM_LTAB_W3_STATE n).key ∧
    (RFM_LTAB_W3_MISS n).key ≠ RFM_STATUS_ADRIFT.key ∧ (RFM_LTAB_W3_DARNF n).key ≠ RFM_STATUS_ADRIFT.key ∧ (RFM_LTAB_W3_STATE n).key ≠ RFM_STATUS_ADRIFT.key ∧
    (RFM_LTAB_W3_DARNF n).key ≠ RFM_STATUS_LOST.key ∧ (RFM_LTAB_W3_STATE n).key ≠ RFM_STATUS_LOST.key := by
  unfold Field.key
  simp only [RFM_LTAB_W3_MISS, RFM_LTAB_W3_DARNF, RFM_LTAB_W3_STATE, RFM_STATUS_ADRIFT, RFM_STATUS_LOST]
  omega

theorem contactMissed_counted {s : State} {n : Nat} {f : Int} {e : Nat} (miss : s.rd (RFM_LTAB_W3_MISS n) < 2) (near : s.wideAt n f = false) : s.contactMissed n f e = s.wr (RFM_LTAB_W3_MISS n) (s.rd (RFM_LTAB_W3_MISS n) + 1) := by
  unfold State.contactMissed
  dsimp only
  rw [if_pos (by simp [miss, near])]

theorem contactMissed_adrift {s : State} {n : Nat} {f : Int} (e : Nat) (lost : 2 ≤ s.rd (RFM_LTAB_W3_MISS n) ∨ s.wideAt n f = true) : (s.contactMissed n f e).rd (RFM_LTAB_W3_MISS n) = 3 ∧ (s.contactMissed n f e).rd (RFM_LTAB_W3_DARNF n) = 0 ∧
    (s.contactMissed n f e).rd (RFM_LTAB_W3_STATE n) = 2 ∧ (s.contactMissed n f e).rd RFM_STATUS_ADRIFT = 1 ∧
    (s.contactMissed n f e).waiting = s.waiting ++ [⟨s.event (76 + s.homeOf n) n 0x03 [octet 2, octet (s.rd (RFM_LTAB_W3_STATE n)), octet 1] (timeOfNs e), none, 0⟩] := by
  have eq : s.contactMissed n f e = (((s.wr (RFM_LTAB_W3_MISS n) 3).wr (RFM_LTAB_W3_DARNF n) 0).lanternTo (s.homeOf n) n 2 1 (timeOfNs e)).raise RFM_STATUS_ADRIFT := by
    unfold State.contactMissed
    dsimp only
    refine if_neg fun ok => ?_
    obtain ⟨few, near⟩ := Bool.and_eq_true_iff.mp ok
    rcases lost with h | h
    · exact absurd (of_decide_eq_true few) (by omega)
    · exact absurd near (by simp [h])
  obtain ⟨k1, k2, k3, k4, k5, k6, -, -⟩ := w3_keys n
  rw [eq]
  have miss : ((s.wr (RFM_LTAB_W3_MISS n) 3).wr (RFM_LTAB_W3_DARNF n) 0).rd (RFM_LTAB_W3_MISS n) = 3 := (rd_wr_ne _ 0 k1).trans (rd_wr_same s _ 3)
  have darn : ((s.wr (RFM_LTAB_W3_MISS n) 3).wr (RFM_LTAB_W3_DARNF n) 0).rd (RFM_LTAB_W3_DARNF n) = 0 := rd_wr_same _ _ 0
  have others : ∀ g : Field, g.key ≠ (RFM_LTAB_W3_MISS n).key → g.key ≠ (RFM_LTAB_W3_DARNF n).key → ((s.wr (RFM_LTAB_W3_MISS n) 3).wr (RFM_LTAB_W3_DARNF n) 0).rd g = s.rd g := fun g a b => (rd_wr_ne _ 0 b).trans (rd_wr_ne s 3 a)
  have wait : ((s.wr (RFM_LTAB_W3_MISS n) 3).wr (RFM_LTAB_W3_DARNF n) 0).waiting = s.waiting := rfl
  have state := others (RFM_LTAB_W3_STATE n) k2.symm k3.symm
  have seg : ((s.wr (RFM_LTAB_W3_MISS n) 3).wr (RFM_LTAB_W3_DARNF n) 0).seg = s.seg :=
    others CRZ_SEG_SEG (by unfold Field.key; simp only [CRZ_SEG_SEG, RFM_LTAB_W3_MISS]; omega) (by unfold Field.key; simp only [CRZ_SEG_SEG, RFM_LTAB_W3_DARNF]; omega)
  generalize (s.wr (RFM_LTAB_W3_MISS n) 3).wr (RFM_LTAB_W3_DARNF n) 0 = u at *
  obtain ⟨state2, -, -, wait2, rd2⟩ := lanternTo_facts u (s.homeOf n) n 2 1 (timeOfNs e)
  refine ⟨(rd_wr_ne _ 1 k4).trans ((rd2 _ k2).trans miss), (rd_wr_ne _ 1 k5).trans ((rd2 _ k3).trans darn), (rd_wr_ne _ 1 k6).trans state2, rd_wr_same _ _ 1, wait2.trans ?_⟩
  rw [wait, state]
  unfold State.event
  rw [seg]

section
variable {s : State} {n : Fin 2048} {f : Int} {e : Nat} (hu : s.up = true) (hend : s.contactEnd n.val f = some e) (past : s.rfPast e = true) (en : s.lEn n.val = true) (due : s.reportSf n.val f = true)
  (fresh : (s.link n.val).judgedBy f = false) (runs : s.rfRuns (s.homeOf n.val) = true) (since : (s.radio (s.homeOf n.val)).since ≤ s.contactStart n.val f) (tracked : s.rd (RFM_LTAB_W3_STATE n.val) = 1)
include hu hend past en due fresh runs since tracked

theorem reportCell_eq : exec (.reportCellEnd n f) s = .next (if (s.link n.val).met.elem f then s.judgedAt n.val f else (s.judgedAt n.val f).contactMissed n.val f e) := by
  refine congrArg Host.Outcome.next ((whenUp_up hu).trans ?_)
  have state : (s.judgedAt n.val f).lState n.val = 1 := tracked
  unfold State.reportEnd
  rw [hend]
  dsimp only
  rw [if_neg (by simp [past, en, due, fresh, runs, since])]
  rw [show s.onLink n.val (fun x => { x with judged := some f }) = s.judgedAt n.val f from rfl, state]
  rfl

theorem reportCell_met (met : f ∈ (s.link n.val).met) : Answers (.reportCellEnd n f) s (fun t => t.regs = s.regs ∧ t.waiting = s.waiting ∧ (t.link n.val).judged = some f) := by
  refine ⟨_, (reportCell_eq hu hend past en due fresh runs since tracked).trans (congrArg Host.Outcome.next (if_pos (List.elem_eq_true_of_mem met))), rfl, rfl, ?_⟩
  rw [judgedAt_link]

theorem reportCell_missed (unmet : f ∉ (s.link n.val).met) : exec (.reportCellEnd n f) s = .next ((s.judgedAt n.val f).contactMissed n.val f e) :=
  (reportCell_eq hu hend past en due fresh runs since tracked).trans (congrArg Host.Outcome.next (if_neg (by simp [unmet])))

theorem reportCell_counted (unmet : f ∉ (s.link n.val).met) (few : s.rd (RFM_LTAB_W3_MISS n.val) < 2) (near : s.wideAt n.val f = false) : Answers (.reportCellEnd n f) s (fun t =>
    t.rd (RFM_LTAB_W3_MISS n.val) = s.rd (RFM_LTAB_W3_MISS n.val) + 1 ∧ t.rd (RFM_LTAB_W3_STATE n.val) = 1 ∧ t.waiting = s.waiting) := by
  have eq := reportCell_missed hu hend past en due fresh runs since tracked unmet
  rw [contactMissed_counted (s := s.judgedAt n.val f) few ((judgedAt_wide s n.val f).trans near)] at eq
  refine ⟨_, eq, (rd_wr_same _ _ _).trans (Nat.mod_eq_of_lt ?_), (rd_wr_ne _ _ (w3_keys n.val).2.1.symm).trans tracked, rfl⟩
  change s.rd (RFM_LTAB_W3_MISS n.val) + 1 < 4
  omega

theorem reportCell_adrift (unmet : f ∉ (s.link n.val).met) (lost : 2 ≤ s.rd (RFM_LTAB_W3_MISS n.val) ∨ s.wideAt n.val f = true) : Answers (.reportCellEnd n f) s (fun t =>
    t.rd (RFM_LTAB_W3_MISS n.val) = 3 ∧ t.rd (RFM_LTAB_W3_DARNF n.val) = 0 ∧ t.rd (RFM_LTAB_W3_STATE n.val) = 2 ∧ t.rd RFM_STATUS_ADRIFT = 1 ∧
    t.waiting = s.waiting ++ [⟨s.event (76 + s.homeOf n.val) n.val 0x03 [octet 2, octet 1, octet 1] (timeOfNs e), none, 0⟩]) := by
  have eq := reportCell_missed hu hend past en due fresh runs since tracked unmet
  obtain ⟨miss, darn, state, flag, wait⟩ := contactMissed_adrift (s := s.judgedAt n.val f) (n := n.val) (f := f) e (by rw [judgedAt_wide]; exact lost)
  have was : (s.judgedAt n.val f).rd (RFM_LTAB_W3_STATE n.val) = 1 := tracked
  rw [was] at wait
  exact ⟨_, eq, miss, darn, state, flag, wait⟩

end

/-! ### Darn windows (R185, R186) -/

/-- The times of a Darn window lie in registers below the lantern table. -/
theorem darnUntil_below {s t : State} (rd : ∀ f : Field, f.reg < 0x40078000 → f.lo < 1024 → t.rd f = s.rd f) (r : Nat) (c : DarnCall) : t.darnUntil r c = s.darnUntil r c := by
  have rate : t.rfRate r = s.rfRate r := by
    unfold State.rfRate
    split
    · exact rd _ (by decide) (by decide)
    · exact rd _ (by decide) (by decide)
  have ofs : t.sfOfs r = s.sfOfs r := by
    unfold State.sfOfs
    split
    · rw [rd _ (by decide) (by decide)]
    · rw [rd _ (by decide) (by decide)]
  have map : t.mapCodes r = s.mapCodes r := by
    have small : ∀ w, (if r = 0 then RFM_MAP_A_CODE w else RFM_MAP_B_CODE w).reg < 0x40078000 ∧ (if r = 0 then RFM_MAP_A_CODE w else RFM_MAP_B_CODE w).lo < 1024 := by
      intro w
      split <;> (simp only [RFM_MAP_A_CODE, RFM_MAP_B_CODE]; omega)
    unfold State.mapCodes
    simp only [rd _ (small _).1 (small _).2]
  unfold State.darnUntil State.darnStart State.slotStart State.cellsOf State.span
  rw [rate, ofs, map]

/-- A called window closed: its call removed. -/
def State.callEnded (s : State) (r : Nat) (c : DarnCall) : State := s.onRadio r (fun x => { x with calls := x.calls.erase c })

section
variable {s : State} {r : Fin 2} {w : Fin 4} {c : DarnCall} (hu : s.up = true) (call : (s.radio r.val).calls.find? (fun x => x.window == w.val && s.rfPast (s.darnUntil r.val x)) = some c)
  (silent : c.contact = false) (adrift : s.rd (RFM_LTAB_W3_STATE c.lantern) = 2)
include hu call silent adrift

theorem darnWindow_eq : exec (.darnWindowEnd r w) s = .next
    (if s.rd (RFM_LTAB_W3_DARNF c.lantern) + 1 < s.darnMax then (s.callEnded r.val c).wr (RFM_LTAB_W3_DARNF c.lantern) (min (s.rd (RFM_LTAB_W3_DARNF c.lantern) + 1) s.darnMax)
      else (((s.callEnded r.val c).wr (RFM_LTAB_W3_DARNF c.lantern) (min (s.rd (RFM_LTAB_W3_DARNF c.lantern) + 1) s.darnMax)).lanternTo r.val c.lantern 3 2 (timeOfNs (s.darnUntil r.val c))).raise RFM_STATUS_LOST) := by
  refine congrArg Host.Outcome.next ((whenUp_up hu).trans ?_)
  have rd : ∀ g, (s.callEnded r.val c).rd g = s.rd g := fun g => rd_regs (onRadio_regs _ _ _).1 g
  have most : (s.callEnded r.val c).darnMax = s.darnMax := congrArg (max 1) (rd _)
  have state : (s.callEnded r.val c).lState c.lantern = 2 := (rd _).trans adrift
  have link : ∀ v, ((s.callEnded r.val c).wr (RFM_LTAB_W3_DARNF c.lantern) v).rd RFM_LINK_DARN_MAX = s.rd RFM_LINK_DARN_MAX := fun v =>
    (rd_wr_ne _ v (by unfold Field.key; simp only [RFM_LINK_DARN_MAX, RFM_LTAB_W3_DARNF]; omega)).trans (rd _)
  have most2 : ∀ v, ((s.callEnded r.val c).wr (RFM_LTAB_W3_DARNF c.lantern) v).darnMax = s.darnMax := fun v => congrArg (max 1) (link v)
  have ofs : ∀ v, ((s.callEnded r.val c).wr (RFM_LTAB_W3_DARNF c.lantern) v).darnUntil r.val c = s.darnUntil r.val c := by
    refine fun v => darnUntil_below (fun f low lo => (rd_wr_ne _ v ?_).trans (rd f)) r.val c
    unfold Field.key
    simp only [RFM_LTAB_W3_DARNF]
    omega
  unfold State.darnEnd
  rw [call]
  dsimp only
  rw [show s.onRadio r.val (fun x => { x with calls := x.calls.erase c }) = s.callEnded r.val c from rfl, state, silent, rd, most, most2, ofs]
  rfl

theorem darnWindow_more (more : s.rd (RFM_LTAB_W3_DARNF c.lantern) + 1 < s.darnMax) : Answers (.darnWindowEnd r w) s (fun t =>
    t.rd (RFM_LTAB_W3_DARNF c.lantern) = s.rd (RFM_LTAB_W3_DARNF c.lantern) + 1 ∧ t.rd (RFM_LTAB_W3_STATE c.lantern) = 2 ∧ t.waiting = s.waiting) := by
  have eq := darnWindow_eq hu call silent adrift
  rw [if_pos more, Nat.min_eq_left (Nat.le_of_lt more)] at eq
  have rd : ∀ g, (s.callEnded r.val c).rd g = s.rd g := fun g => rd_regs (onRadio_regs _ _ _).1 g
  have wait : (s.callEnded r.val c).waiting = s.waiting := (onRadio_regs _ _ _).2.2.2.1
  have small : s.rd RFM_LINK_DARN_MAX < 16 := rd_lt s RFM_LINK_DARN_MAX
  have fits : s.rd (RFM_LTAB_W3_DARNF c.lantern) + 1 < 16 := by
    unfold State.darnMax at more
    omega
  exact ⟨_, eq, (rd_wr_same _ _ _).trans (Nat.mod_eq_of_lt fits), (rd_wr_ne _ _ (w3_keys c.lantern).2.2.1.symm).trans ((rd _).trans adrift), wait⟩

theorem darnWindow_lost (last : s.rd (RFM_LTAB_W3_DARNF c.lantern) + 1 = s.darnMax) : Answers (.darnWindowEnd r w) s (fun t =>
    t.rd (RFM_LTAB_W3_DARNF c.lantern) = s.darnMax % 2 ^ (RFM_LTAB_W3_DARNF c.lantern).width ∧ t.rd (RFM_LTAB_W3_STATE c.lantern) = 3 ∧ t.rd RFM_STATUS_LOST = 1 ∧
    t.waiting = s.waiting ++ [⟨s.event (76 + r.val) c.lantern 0x03 [octet 3, octet 2, octet 2] (timeOfNs (s.darnUntil r.val c)), none, 0⟩]) := by
  have eq := darnWindow_eq hu call silent adrift
  rw [if_neg (by omega), last, Nat.min_self] at eq
  have rd : ∀ g, (s.callEnded r.val c).rd g = s.rd g := fun g => rd_regs (onRadio_regs _ _ _).1 g
  have wait : (s.callEnded r.val c).waiting = s.waiting := (onRadio_regs _ _ _).2.2.2.1
  obtain ⟨-, -, k3, -, -, -, k7, k8⟩ := w3_keys c.lantern
  generalize s.callEnded r.val c = u at *
  have darn : (u.wr (RFM_LTAB_W3_DARNF c.lantern) s.darnMax).rd (RFM_LTAB_W3_DARNF c.lantern) = s.darnMax % 2 ^ (RFM_LTAB_W3_DARNF c.lantern).width := rd_wr_same _ _ _
  have state : (u.wr (RFM_LTAB_W3_DARNF c.lantern) s.darnMax).rd (RFM_LTAB_W3_STATE c.lantern) = 2 := (rd_wr_ne _ _ k3.symm).trans ((rd _).trans adrift)
  have seg : (u.wr (RFM_LTAB_W3_DARNF c.lantern) s.darnMax).seg = s.seg := (rd_wr_ne _ _ (by unfold Field.key; simp only [CRZ_SEG_SEG, RFM_LTAB_W3_DARNF]; omega)).trans (rd CRZ_SEG_SEG)
  have wait1 : (u.wr (RFM_LTAB_W3_DARNF c.lantern) s.darnMax).waiting = s.waiting := wait
  generalize u.wr (RFM_LTAB_W3_DARNF c.lantern) s.darnMax = v at *
  obtain ⟨state2, -, -, wait2, rd2⟩ := lanternTo_facts v r.val c.lantern 3 2 (timeOfNs (s.darnUntil r.val c))
  refine ⟨_, eq, (rd_wr_ne _ 1 k7).trans ((rd2 _ k3).trans darn), (rd_wr_ne _ 1 k8).trans state2, rd_wr_same _ _ 1, wait2.trans ?_⟩
  rw [wait1, state]
  unfold State.event
  rw [seg]

end

/-! ### Neighbours' cells (R189) -/

/-- The NBR cell of superframe `f` judged. -/
def State.nbrJudgedAt (s : State) (m : Nat) (f : Int) : State := { s with rfm := { s.rfm with nbrJudged := kvSet s.rfm.nbrJudged m f } }

section
variable {s : State} {m : Fin 8} {r d e : Nat} {f : Int} (hu : s.up = true) (en : s.rd (RFM_NBR_W0_EN m.val) ≠ 0) (hr : r = s.rd (RFM_NBR_W0_RADIO m.val)) (runs : s.rfRuns r = true)
  (hd : d = s.rd (RFM_NBR_W0_LSLOT m.val) * slotNs + s.span r * slotNs) (hf : f = ((s.now : Int) - d - s.sfOfs r) / sfNs) (he : e = s.slotStart r f 0 + d) (past : s.rfPast e = true)
  (since : (s.radio r).since + s.span r * slotNs ≤ e) (fresh : kvFind s.rfm.nbrJudged m.val ≠ some f)
include hu en hr runs hd hf he past since fresh

theorem nbrCell_eq : exec (.nbrCellEnd m) s = .next (if kvFind s.rfm.heard m.val = some f then s.nbrJudgedAt m.val f
    else if min 3 (s.rd (RFM_NBR_W1_MISSES m.val) + 1) = 3 ∧ ((s.nbrJudgedAt m.val f).wr (RFM_NBR_W1_MISSES m.val) (min 3 (s.rd (RFM_NBR_W1_MISSES m.val) + 1))).on (RFM_NBR_W1_PRESENT m.val) then
      ((s.nbrJudgedAt m.val f).wr (RFM_NBR_W1_MISSES m.val) (min 3 (s.rd (RFM_NBR_W1_MISSES m.val) + 1))).neighbourTo m.val 0 (timeOfNs e)
    else (s.nbrJudgedAt m.val f).wr (RFM_NBR_W1_MISSES m.val) (min 3 (s.rd (RFM_NBR_W1_MISSES m.val) + 1))) := by
  refine congrArg Host.Outcome.next ((whenUp_up hu).trans ?_)
  have on : s.on (RFM_NBR_W0_EN m.val) = true := bne_iff_ne.mpr en
  unfold State.nbrEnd
  dsimp only
  rw [← hr, ← hd, ← hf, ← he]
  exact if_neg (by simp [on, runs, past, Nat.not_lt.mpr since, fresh])

theorem nbrCell_heard (heard : kvFind s.rfm.heard m.val = some f) : Answers (.nbrCellEnd m) s (fun t => t.regs = s.regs ∧ t.waiting = s.waiting) :=
  ⟨_, (nbrCell_eq hu en hr runs hd hf he past since fresh).trans (congrArg Host.Outcome.next (if_pos heard)), rfl, rfl⟩

theorem nbrCell_missed (deaf : kvFind s.rfm.heard m.val ≠ some f) (few : s.rd (RFM_NBR_W1_MISSES m.val) < 2) : Answers (.nbrCellEnd m) s (fun t =>
    t.rd (RFM_NBR_W1_MISSES m.val) = s.rd (RFM_NBR_W1_MISSES m.val) + 1 ∧ t.rd (RFM_NBR_W1_PRESENT m.val) = s.rd (RFM_NBR_W1_PRESENT m.val)) := by
  have eq := nbrCell_eq hu en hr runs hd hf he past since fresh
  rw [if_neg deaf, Nat.min_eq_right (by omega : s.rd (RFM_NBR_W1_MISSES m.val) + 1 ≤ 3), if_neg (by omega)] at eq
  have fits : s.rd (RFM_NBR_W1_MISSES m.val) + 1 < 4 := by omega
  refine ⟨_, eq, (rd_wr_same _ _ _).trans (Nat.mod_eq_of_lt fits), rd_wr_ne _ _ ?_⟩
  unfold Field.key
  simp only [RFM_NBR_W1_MISSES, RFM_NBR_W1_PRESENT]
  omega

theorem nbrCell_absent (deaf : kvFind s.rfm.heard m.val ≠ some f) (third : s.rd (RFM_NBR_W1_MISSES m.val) = 2) (present : s.rd (RFM_NBR_W1_PRESENT m.val) = 1) : Answers (.nbrCellEnd m) s (fun t =>
    t.rd (RFM_NBR_W1_MISSES m.val) = 3 ∧ t.rd (RFM_NBR_W1_PRESENT m.val) = 0 ∧ t.rd RFM_STATUS_NBRCHG = 1) := by
  have eq := nbrCell_eq hu en hr runs hd hf he past since fresh
  have was : ((s.nbrJudgedAt m.val f).wr (RFM_NBR_W1_MISSES m.val) (min 3 (s.rd (RFM_NBR_W1_MISSES m.val) + 1))).rd (RFM_NBR_W1_PRESENT m.val) = 1 := by
    refine (rd_wr_ne _ _ ?_).trans present
    unfold Field.key
    simp only [RFM_NBR_W1_MISSES, RFM_NBR_W1_PRESENT]
    omega
  have misses : ((s.nbrJudgedAt m.val f).wr (RFM_NBR_W1_MISSES m.val) (min 3 (s.rd (RFM_NBR_W1_MISSES m.val) + 1))).rd (RFM_NBR_W1_MISSES m.val) = 3 := by
    rw [third]
    exact rd_wr_same _ _ 3
  rw [if_neg deaf, if_pos ⟨by omega, bne_iff_ne.mpr (by rw [was]; decide)⟩] at eq
  generalize (s.nbrJudgedAt m.val f).wr (RFM_NBR_W1_MISSES m.val) (min 3 (s.rd (RFM_NBR_W1_MISSES m.val) + 1)) = u at *
  obtain ⟨present2, misses2, flag, -⟩ := neighbourTo_facts u m.val 0 (timeOfNs e)
  exact ⟨_, eq, misses2.trans misses, present2, flag⟩

end

/-! ### Wake settings and table writes (R183, R185, R192) -/

theorem wakeChange_due {s : State} {n : Nat} (hu : s.up = true) (at' : s.rfm.wakeAt = some n) (due : n * sfNs ≤ s.now) : Answers .wakeChange s (fun t => t.rd RFM_WAKE_WL = s.rd RFM_WAKE_WL_NEXT ∧ t.rfm.wakeAt = none) := by
  have eq : s.wakeChange = { s.wr RFM_WAKE_WL (s.rd RFM_WAKE_WL_NEXT) with rfm := { s.rfm with wakeAt := none, wlOld := s.rd RFM_WAKE_WL, wlFrom := n } } := by
    unfold State.wakeChange
    rw [at']
    exact if_pos due
  exact ⟨_, congrArg Host.Outcome.next ((whenUp_up hu).trans eq), (rd_mk _ _).trans ((rd_wr_same s _ _).trans (Nat.mod_eq_of_lt (rd_lt s RFM_WAKE_WL_NEXT))), rfl⟩

/-- A write of word 0 noted: the entry in force stays as it is until the next superframe. -/
def State.ltabNoted (s : State) (n : Nat) : State :=
  { s with rfm := { s.rfm with inForce := match kvFind s.rfm.inForce n with
      | some _ => s.rfm.inForce
      | none => kvSet s.rfm.inForce n (s.ltabWord n) } }

theorem ltabWrite_eq (s : State) (n w : Nat) : s.ltabWrite n w = if bit (s.ltabWord n) 31 && bit w 31 then (ltabPut (s.ltabNoted n) n w).queueAssign n else ltabPut (s.ltabNoted n) n w := rfl

theorem ltabNoted_inForce (s : State) (n : Nat) : kvFind (s.ltabNoted n).rfm.inForce n = some (s.ltab n) := by
  unfold State.ltabNoted State.ltab
  dsimp only
  split
  · next old => rw [old]; rfl
  · next old => rw [kvFind_kvSet_same, old]; rfl

/-- What a write of word 0 of a lantern's entry gives, its assignment left out. -/
theorem ltabPut_facts (s : State) (n w : Nat) (h : w < 2 ^ 32) : (ltabPut (s.ltabNoted n) n w).ltabWord n = w ∧ kvFind (ltabPut (s.ltabNoted n) n w).rfm.inForce n = some (s.ltab n) ∧
    (∀ f : Field, (∀ g ∈ w0Fields n, f.key ≠ g.key) → (ltabPut (s.ltabNoted n) n w).rd f = s.rd f) ∧ (ltabPut (s.ltabNoted n) n w).now = s.now ∧ ∀ r, (ltabPut (s.ltabNoted n) n w).radio r = s.radio r := by
  obtain ⟨word, rd, rfm, tb⟩ := ltabPut_word (s.ltabNoted n) n w h
  refine ⟨word, by rw [rfm]; exact ltabNoted_inForce s n, rd, congrArg (fun t : TimeBase => nsOf t.now) tb, fun r => ?_⟩
  exact radio_rfm rfm r

theorem ltabWord_same {s t : State} {n : Nat} (rd : ∀ f : Field, 0x40070178 ≤ f.reg → f.lo < 1024 → t.rd f = s.rd f) : t.ltabWord n = s.ltabWord n := by
  have row : ∀ f ∈ w0Fields n, 0x40070178 ≤ f.reg ∧ f.lo < 1024 := by
    intro f hf
    simp only [w0Fields, List.mem_cons, List.not_mem_nil, or_false] at hf
    rcases hf with rfl | rfl | rfl | rfl | rfl | rfl | rfl | rfl <;>
      (simp only [RFM_LTAB_W0_EN, RFM_LTAB_W0_SLEEPY, RFM_LTAB_W0_RELAYED, RFM_LTAB_W0_RELAY, RFM_LTAB_W0_CELL, RFM_LTAB_W0_RCELL, RFM_LTAB_W0_RP, RFM_LTAB_W0_PH]
       omega)
  have same : ∀ f ∈ w0Fields n, t.rd f = s.rd f := fun f hf => rd f (row f hf).1 (row f hf).2
  unfold State.ltabWord
  rw [same (RFM_LTAB_W0_EN n) (by simp [w0Fields]), same (RFM_LTAB_W0_SLEEPY n) (by simp [w0Fields]), same (RFM_LTAB_W0_RELAYED n) (by simp [w0Fields]), same (RFM_LTAB_W0_RELAY n) (by simp [w0Fields]),
    same (RFM_LTAB_W0_CELL n) (by simp [w0Fields]), same (RFM_LTAB_W0_RCELL n) (by simp [w0Fields]), same (RFM_LTAB_W0_RP n) (by simp [w0Fields]), same (RFM_LTAB_W0_PH n) (by simp [w0Fields])]

theorem w0_other (n : Nat) {f : Field} (reg : f.reg = 0x4007800C + 16 * (n % 2048) ∨ f.reg = 0x40078004 + 16 * (n % 2048)) (lo : f.lo < 32) : ∀ g ∈ w0Fields n, f.key ≠ g.key := by
  intro g hg
  simp only [w0Fields, List.mem_cons, List.not_mem_nil, or_false] at hg
  unfold Field.key
  rcases hg with rfl | rfl | rfl | rfl | rfl | rfl | rfl | rfl <;>
    simp only [RFM_LTAB_W0_EN, RFM_LTAB_W0_SLEEPY, RFM_LTAB_W0_RELAYED, RFM_LTAB_W0_RELAY, RFM_LTAB_W0_CELL, RFM_LTAB_W0_RCELL, RFM_LTAB_W0_RP, RFM_LTAB_W0_PH] <;> omega

theorem lanternTable_stands {s : State} {l : Lane} (n : Fin 2048) (v : Word) (serves : s.serves l) : Answers (.lanternTableWrite l n v) s (fun t =>
    t.ltabWord n.val = v.toNat ∧ t.ltab n.val = s.ltab n.val ∧ t.rd (RFM_LTAB_W3_STATE n.val) = s.rd (RFM_LTAB_W3_STATE n.val)) := by
  refine ⟨_, lanternTableWrite_serves n v serves, ?_⟩
  rw [ltabWrite_eq]
  obtain ⟨word, force, rd, -, -⟩ := ltabPut_facts s n.val v.toNat v.isLt
  have state := rd (RFM_LTAB_W3_STATE n.val) (w0_other n.val (Or.inl rfl) (by show 30 < 32; decide))
  generalize ltabPut (s.ltabNoted n.val) n.val v.toNat = u at *
  have inForce : ∀ t : State, kvFind t.rfm.inForce n.val = some (s.ltab n.val) → t.ltab n.val = s.ltab n.val := by
    intro t h
    unfold State.ltab
    rw [h]
    rfl
  split
  · obtain ⟨rd2, force2⟩ := dlQueue_keep u n.val ([octet 0xA1] ++ le 4 (u.ltabWord n.val) ++ le 4 (u.rd (RFM_LTAB_W1_PARENT n.val) * 65536) ++ [octet (u.homeOf n.val)]) 0xFF
    refine ⟨(ltabWord_same rd2).trans word, inForce _ (by rw [State.queueAssign, force2]; exact force), (rd2 _ ?_ (by show 30 < 1024; decide)).trans state⟩
    simp only [RFM_LTAB_W3_STATE]
    omega
  · exact ⟨word, inForce _ force, state⟩

theorem lanternTable_assigns {s : State} {l : Lane} {n : Fin 2048} {v : Word} (serves : s.serves l) (en : s.rd (RFM_LTAB_W0_EN n.val) = 1) (stays : v.toNat / 2 ^ 31 = 1)
    (room : (s.radio (s.homeOf n.val)).queue.length < 16) : Answers (.lanternTableWrite l n v) s (fun t => (t.radio (s.homeOf n.val)).queue = (s.radio (s.homeOf n.val)).queue ++
      [⟨n.val, [octet 0xA1] ++ le 4 v.toNat ++ le 4 (s.rd (RFM_LTAB_W1_PARENT n.val) * 65536) ++ [octet (s.homeOf n.val)], 0xFF, s.sfAt (s.homeOf n.val) s.now, 0, 0⟩]) := by
  refine ⟨_, lanternTableWrite_serves n v serves, ?_⟩
  have was : bit (s.ltabWord n.val) 31 = true := by
    have b1 : s.rd (RFM_LTAB_W0_SLEEPY n.val) < 2 := rd_lt s _
    have b2 : s.rd (RFM_LTAB_W0_RELAYED n.val) < 2 := rd_lt s _
    have b3 : s.rd (RFM_LTAB_W0_RELAY n.val) < 2 := rd_lt s _
    have b4 : s.rd (RFM_LTAB_W0_CELL n.val) < 64 := rd_lt s _
    have b5 : s.rd (RFM_LTAB_W0_RCELL n.val) < 64 := rd_lt s _
    have b6 : s.rd (RFM_LTAB_W0_RP n.val) < 256 := rd_lt s _
    have b7 : s.rd (RFM_LTAB_W0_PH n.val) < 256 := rd_lt s _
    have high : s.ltabWord n.val / 2 ^ 31 = 1 := by
      unfold State.ltabWord
      omega
    unfold bit
    rw [high]
    rfl
  have now' : bit v.toNat 31 = true := by
    unfold bit
    rw [stays]
    rfl
  rw [ltabWrite_eq, was, now']
  obtain ⟨word, -, rd, time, radio⟩ := ltabPut_facts s n.val v.toNat v.isLt
  generalize ltabPut (s.ltabNoted n.val) n.val v.toNat = u at *
  have low : ∀ f : Field, f.reg < 0x40078000 → f.lo < 1024 → u.rd f = s.rd f := fun f a b => rd f (w0_ne n.val f a b)
  have home : u.homeOf n.val = s.homeOf n.val := by
    unfold State.homeOf State.homeB
    rw [low _ (by simp only [LNU_HOME_HOME]; omega) (by simp only [LNU_HOME_HOME]; decide)]
  have parent : u.rd (RFM_LTAB_W1_PARENT n.val) = s.rd (RFM_LTAB_W1_PARENT n.val) := rd _ (w0_other n.val (Or.inr rfl) (by simp only [RFM_LTAB_W1_PARENT]; decide))
  have sf : u.sfAt (s.homeOf n.val) u.now = s.sfAt (s.homeOf n.val) s.now := by
    unfold State.sfAt State.sfOfs
    rw [time]
    split
    · rw [low _ (by decide) (by decide)]
    · rw [low _ (by decide) (by decide)]
  obtain ⟨queued, -⟩ := dlQueue_facts u n.val ([octet 0xA1] ++ le 4 (u.ltabWord n.val) ++ le 4 (u.rd (RFM_LTAB_W1_PARENT n.val) * 65536) ++ [octet (u.homeOf n.val)]) 0xFF
  rw [home, radio] at queued
  have eq := queued room
  rw [word, parent, sf] at eq
  show ((u.queueAssign n.val).radio (s.homeOf n.val)).queue = _
  unfold State.queueAssign
  rw [home, word, parent]
  exact eq

/-- Settles O39: what is received leads to the entry's words, the contact and the Imm-Ack by the checks in order; what time ends, to the state the missed contact, window or beacon brings. -/
theorem lanternsAreTracked : Obligations.LanternsAreTracked := by
  unfold Obligations.LanternsAreTracked
  refine ⟨?_, ?_, ?_, ?_, ?_, ?_, ?_, ?_, ?_⟩
  · intro s r stamp f p rssi k hu run hst hears short head pan dst src aux idx slot allows opens type en
    exact ⟨fun fckey fresh taken => radioFrame_accepted hu run hst hears short ⟨head, pan, dst, src, aux, idx, slot, allows, opens, type, en, fckey⟩ fresh taken,
      fun fckey old => radioFrame_replayed hu run hst hears short ⟨head, pan, dst, src, aux, idx, slot, allows, opens, type, en, fckey⟩ old⟩
  · intro s r f m rssi hu run hears bad
    exact radioFrame_dropped rssi hu run hears bad
  · intro s r f m rssi deaf
    exact radioFrame_unheard f m rssi deaf
  · intro s r m stamp f p rssi k e hu run hst hears short head who pan dst aux idx slot allows opens type he taken
    exact radioBeacon_heard hu run hst hears short head who pan dst aux idx slot allows opens type he taken
  · intro s n f e w hu hend past en due fresh runs since tracked hw
    have wide : s.wideAt n.val f = decide (15000000000000 < w) := by rw [hw]; rfl
    refine ⟨fun met => reportCell_met hu hend past en due fresh runs since tracked met, fun unmet few narrow => reportCell_counted hu hend past en due fresh runs since tracked unmet few ?_,
      fun unmet lost => reportCell_adrift hu hend past en due fresh runs since tracked unmet ?_⟩
    · rw [wide]
      exact decide_eq_false (Nat.not_lt.mpr narrow)
    · rw [wide, decide_eq_true_iff]
      exact lost
  · intro s r w c hu call silent adrift
    exact ⟨fun more => darnWindow_more hu call silent adrift more, fun last => darnWindow_lost hu call silent adrift last⟩
  · intro s m r d e f hu en hr runs hd hf he past since fresh
    exact ⟨fun heard => nbrCell_heard hu en hr runs hd hf he past since fresh heard, fun deaf few => nbrCell_missed hu en hr runs hd hf he past since fresh deaf few,
      fun deaf third present => nbrCell_absent hu en hr runs hd hf he past since fresh deaf third present⟩
  · intro s n hu at' due
    exact wakeChange_due hu at' due
  · intro s l n v serves
    exact ⟨lanternTable_stands n v serves, fun en stays room => lanternTable_assigns serves en stays room⟩

end Sys2Proof.Machine

/-! PROOFS. The functions of R28: their enables, their start and the end of their shut-down. -/
namespace Sys2Proof.Machine
set_option Elab.async false

/-! ### A shut-down leaves the enable -/

/-- One field. -/
theorem Keeps.single {s t : State} {f : Field} (h : Keeps (· = f) s t) : t.rd f = s.rd f := h f rfl

theorem single_key_ne {f g : Field} (h : f.key ≠ g.key) : ∀ x, x = f → x.key ≠ g.key := fun _ e => e ▸ h

theorem Keeps.only_single {r s t : State} {f : Field} {m : Nat} (h : Keeps (· = f) r s) (o : Only m s t) (hm : (decide (f.block < 22) && !m.testBit f.block) = true) : Keeps (· = f) r t :=
  h.only o fun _ e => e ▸ hm

/-- Write-backs that go out change TXDONE of their rings alone. -/
theorem flushBacks_rd (s : State) (p : Nat) {f : Field} (h : ∀ r, f.key ≠ (BHM_STATUS_TXDONE r).key) : (s.flushBacks p).rd f = s.rd f := by
  have one (u : State) (b : WriteBack) : Keeps (· = f) u (u.txWriteNow b) :=
    ((Keeps.refl u).regs (onLane_regs ..)).raiseIf (single_key_ne (h _)) _
  have first : Keeps (· = f) s (s.dropBacks p) := (Keeps.refl s).regs rfl
  exact (first.foldl one _).single

theorem abortPort_rd (s : State) (p : Nat) (f : Field) : (s.abortPort p).rd f = s.rd f := by
  have desc (u : State) (i : Nat) : Keeps (· = f) u (u.descDone p i 2) := (Keeps.refl u).regs rfl
  have item (u : State) (x : TxItem) : Keeps (· = f) u ((u.putItem x (x.gone p)).itemDone (x.gone p)) :=
    fun g _ => ((itemDone_facts (u.putItem x (x.gone p)) (x.gone p)).2 g).trans rfl
  exact (((Keeps.refl s).foldl desc _).foldl item _).single

theorem dupCleared_rd (s : State) (c : Prop) [Decidable c] (f : Field) : (if c then { s with bh := { s.bh with dup := [] } } else s).rd f = s.rd f := by split <;> rfl

/-- A shut-down of a port leaves its enable (R28, R224). -/
theorem portShut_en (s : State) {p : Nat} (hp : p = 0 ∨ p = 1) : (s.portShut p).rd (BHM_CTRL_EN p) = s.rd (BHM_CTRL_EN p) := by
  have flush : Keeps (· = BHM_CTRL_EN p) s (if s.rd (DCQ_Q_W0_CMDSEL (fwdQueue p)) = 0 then s.dcqFlush (fwdQueue p) else s) :=
    .ite ((Keeps.refl s).only_single (dcqFlush_only (μ := 17600810582016) rfl (Only.refl s)) (by obtain rfl | rfl := hp <;> decide)) (.refl s)
  have backs (u : State) : Keeps (· = BHM_CTRL_EN p) u ((u.abortPort p).flushBacks p) := by
    rintro f rfl
    rw [flushBacks_rd _ _ (fun r => by simp only [Field.key, BHM_CTRL_EN, BHM_STATUS_TXDONE]; omega), abortPort_rd]
  have link (v : State) (z : Bool) : ((((((v.raiseIf z (BHM_STATUS_LINKCHG p)).wr (BHM_CTRL_LINK p) 0).wr (BHM_CTRL_SGSPD p) 0).wr (BHM_CTRL_PVERIFIED p) 0).wr (BHM_CTRL_RUNST p) 0)).rd (BHM_CTRL_EN p) =
      v.rd (BHM_CTRL_EN p) := by
    obtain rfl | rfl := hp <;> simp (disch := decide) only [rd_wr_ne, raiseIf_rd_ne]
  have head (v : State) (n : Nat) (g : PortState → PortState) : ((v.wr (BHM_TX_HEAD_VALUE p) n).onPort p g).rd (BHM_CTRL_EN p) = v.rd (BHM_CTRL_EN p) := by
    rw [(onPort_facts _ p g).2.1, rd_wr_ne _ _ (by obtain rfl | rfl := hp <;> decide)]
  unfold State.portShut
  simp only
  generalize (if s.rd (DCQ_Q_W0_CMDSEL (fwdQueue p)) = 0 then s.dcqFlush (fwdQueue p) else s) = u at flush ⊢
  have before := (flush.trans (backs u)).single
  generalize (u.abortPort p).flushBacks p = v at before ⊢
  rw [dupCleared_rd, link, head, before]

/-- Every field but those of a list. -/
def NotOf (L : List Field) (f : Field) : Prop := ∀ g ∈ L, f.key ≠ g.key

theorem Keeps.wr_mem {L : List Field} {r s : State} (h : Keeps (NotOf L) r s) {g : Field} (hg : g ∈ L) (v : Nat) : Keeps (NotOf L) r (s.wr g v) := h.wr (fun _ hf => hf g hg) v

theorem Keeps.raiseIf_mem {L : List Field} {r s : State} (h : Keeps (NotOf L) r s) {g : Field} (hg : g ∈ L) (b : Bool) : Keeps (NotOf L) r (s.raiseIf b g) := h.raiseIf (fun _ hf => hf g hg) b

/-! ### What the radios' and the modem's enables change -/

def radioShutFields : List Field := [RFM_DLQ_STAT_USED_A, RFM_DLQ_STAT_USED_B, RFM_STATUS_DLFAIL, RFM_DLFAIL_CNT_COUNT, RFM_STATUS_CNTWRAP, RFM_CTRL_RUNST_A, RFM_CTRL_RUNST_B]

/-- A radio's shut-down ends its queue and its operation (R190). -/
theorem rfShut_keeps (s : State) (r : Nat) : Keeps (NotOf radioShutFields) s (s.rfShut r) := by
  have queue (u : State) (q : List Downlink) : Keeps (NotOf radioShutFields) u (u.setDl r q) := fun f hf =>
    (setDl_facts u r q).2.2.2.2.2 f (hf _ (by simp [radioShutFields])) (hf _ (by simp [radioShutFields]))
  have result (u : State) (d : Downlink) : Keeps (NotOf radioShutFields) u (u.dlResult r d 3 u.tb.now) := fun f hf =>
    (dlResult_facts u r d 3 u.tb.now).2.2.2.2 f (hf _ (by simp [radioShutFields])) (hf _ (by simp [radioShutFields])) (hf _ (by simp [radioShutFields]))
  unfold State.rfShut
  exact (((queue s []).foldl result _).regs (onRadio_regs _ _ _).1).wr_mem (by unfold rfRunst; split <;> simp [radioShutFields]) 0

def modemShutFields : List Field := [PLM_DLQ_STAT_USED, PLM_STATUS_DLFAIL, PLM_DLFAIL_CNT_COUNT, PLM_STATUS_CNTWRAP, PLM_CTRL_RUNST]

/-- The modem's shut-down ends its queue and its operation (R209). -/
theorem plmShut_keeps (s : State) : Keeps (NotOf modemShutFields) s s.plmShut := by
  have queue : Keeps (NotOf modemShutFields) s (s.setPlcQueue []) := ((Keeps.refl s).regs rfl).wr_mem (by simp [modemShutFields]) 0
  have result (u : State) (d : Downlink) : Keeps (NotOf modemShutFields) u (u.plcResult d 3 (u.cellEnd u.now)) := fun f hf =>
    (plcResult_facts u d 3 (u.cellEnd u.now)).2.2.2.2 f (hf _ (by simp [modemShutFields])) (hf _ (by simp [modemShutFields])) (hf _ (by simp [modemShutFields]))
  unfold State.plmShut
  exact ((queue.foldl result _).regs rfl).wr_mem (by simp [modemShutFields]) 0

/-- The pole bus's shut-down writes its descriptors back (R27). -/
theorem pbShut_en (s : State) : s.pbShut.rd PBM_CTRL_EN = s.rd PBM_CTRL_EN := by
  have finish (u : State) (y : TxItem) : Keeps (· = PBM_CTRL_EN) u (u.pbFinish y 2 0) := fun f _ => (pbFinish_facts u y 2 0).2.2.1 f
  have back (u : State) (b : WriteBack) : Keeps (· = PBM_CTRL_EN) u (u.pbWriteNow b) := ((Keeps.refl u).regs (onLane_regs ..)).raiseIf (single_key_ne (by decide)) _
  unfold State.pbShut
  rw [rd_wr_ne _ _ (by decide), State.onPole, rd_mk, rd_wr_ne _ _ (by decide)]
  have items := (Keeps.refl s).foldl finish s.bh.pole.items
  have dropped (u : State) : Keeps (· = PBM_CTRL_EN) u (u.dropBacks 2) := (Keeps.refl u).regs rfl
  exact ((items.trans (dropped _)).foldl back _).single

theorem meterStop_en (s : State) : s.meterStop.rd MTR_CTRL_EN = s.rd MTR_CTRL_EN := by
  by_cases stopping : s.rd MTR_CTRL_RUNST = 2
  · exact (meterStop_facts stopping).2.2.1
  · rw [meterStop_other stopping]

/-- A channel's shut-down completes its descriptor (R379). -/
theorem dmaShut_en (s : State) (n : Nat) : (s.dmaShut n).rd (DMA_CH_W0_EN n) = s.rd (DMA_CH_W0_EN n) := by
  have drain (w : Writer) : Keeps (· = DMA_CH_W0_EN n) s (s.pstDrain w) :=
    (Keeps.refl s).only_single (pstDrain_only (μ := 140857747447808) rfl (Only.refl s)) (by
      have : (DMA_CH_W0_EN n).block = 19 := by simp only [Field.block, Field.key, DMA_CH_W0_EN]; omega
      rw [this]; rfl)
  have count (u : State) {f : Field} (hf : f = DMA_DONE_CNT_COUNT ∨ f = DMA_ERR_CNT_COUNT) : (u.count f DMA_STATUS_CNTWRAP).rd (DMA_CH_W0_EN n) = u.rd (DMA_CH_W0_EN n) := by
    obtain rfl | rfl := hf <;> refine count_rd_ne u ?_ ?_ <;> simp only [Field.key, DMA_CH_W0_EN, DMA_DONE_CNT_COUNT, DMA_ERR_CNT_COUNT, DMA_STATUS_CNTWRAP] <;> omega
  unfold State.dmaShut State.dmaFinish
  split
  · simp only
    split
    · rw [count _ (.inl rfl), rd_mk, (drain _).single]
    · rw [count _ (.inr rfl), count _ (.inl rfl), rd_mk, (drain _).single]
  · rfl

/-- A shut-down leaves the enable (R28). -/
theorem shut_en (s : State) (f : Func) : (s.funcShut f).rd (enField f) = s.rd (enField f) := by
  cases f with
  | port0 => simp only [State.funcShut, enField, portShut_en s (.inl rfl)]
  | port1 => simp only [State.funcShut, enField, portShut_en s (.inr rfl)]
  | pole => exact pbShut_en s
  | rfA => exact rfShut_keeps s 0 _ (by unfold NotOf; decide)
  | rfB => exact rfShut_keeps s 1 _ (by unfold NotOf; decide)
  | plm => exact plmShut_keeps s _ (by unfold NotOf; decide)
  | reflect => exact (((Keeps.refl s).regs rfl).wr (single_key_ne (by decide)) 0 |>.wr (single_key_ne (by decide)) 0).single
  | meter => exact (rd_wr_ne _ _ (by decide)).trans (meterStop_en s)
  | channel n => exact (rd_wr_ne _ _ (runst_ne (.channel n)).symm).trans (dmaShut_en s n.val)
  | queue n => exact rd_wr_ne _ _ (runst_ne (.queue n)).symm

/-! ### The registers on which a start depends (R172, R198) -/

/-- The registers that a start of a radio or of the modem reads: the rates, the keys and the maps. -/
def startReg (a : Nat) : Bool :=
  a == 0x40070010 || a == 0x40070014 || a == 0x40070028 || a == 0x40080018 || (decide (0x40070200 ≤ a) && decide (a < 0x40070280)) || (decide (0x40080200 ≤ a) && decide (a < 0x40080220))

/-- Their fields. -/
def StartField (f : Field) : Prop := startReg f.reg = true ∧ f.lo < 1024

theorem startField_ne {g : Field} (out : startReg g.reg = false) (lo : g.lo < 1024) (f : Field) (hf : StartField f) : f.key ≠ g.key := by
  obtain ⟨reg, flo⟩ := hf
  intro key
  have same : f.reg = g.reg := by
    unfold Field.key at key
    omega
  rw [same, out] at reg
  cases reg

theorem enField_out (f : Func) : startReg (enField f).reg = false ∧ (enField f).lo < 1024 := by
  cases f with
  | channel n => revert n; decide
  | queue n => revert n; decide
  | _ => decide

/-- A function stays startable while those fields stand. -/
theorem startable_keep {s t : State} (keeps : Keeps StartField s t) {f : Func} (h : Startable s f) : Startable t f := by
  have mapRow (a w : Nat) (ha : a = 0x40070200 ∨ a = 0x40070240) : startReg (a + 4 * (w % 16)) = true := by
    have row : ∀ i < 16, startReg (0x40070200 + 4 * i) = true ∧ startReg (0x40070240 + 4 * i) = true := by decide
    rcases ha with rfl | rfl
    · exact (row _ (Nat.mod_lt w (by decide))).1
    · exact (row _ (Nat.mod_lt w (by decide))).2
  have mapA (w : Nat) : t.rd (RFM_MAP_A_CODE w) = s.rd (RFM_MAP_A_CODE w) := keeps _ ⟨mapRow _ w (.inl rfl), Nat.zero_lt_succ _⟩
  have mapB (w : Nat) : t.rd (RFM_MAP_B_CODE w) = s.rd (RFM_MAP_B_CODE w) := keeps _ ⟨mapRow _ w (.inr rfl), Nat.zero_lt_succ _⟩
  have rate (r : Nat) : t.rfRate r = s.rfRate r := by
    unfold State.rfRate
    split
    · exact keeps _ ⟨by decide, by decide⟩
    · exact keeps _ ⟨by decide, by decide⟩
  cases f with
  | rfA =>
    obtain ⟨map, span⟩ := map_same 0 mapA mapB (rate 0)
    simpa only [Startable, map, span] using h
  | rfB =>
    obtain ⟨map, span⟩ := map_same 1 mapA mapB (rate 1)
    simpa only [Startable, map, span] using h
  | plm =>
    have row : ∀ i < 8, startReg (0x40080200 + 4 * i) = true := by decide
    have map (w : Nat) : t.rd (PLM_MAP_CODE w) = s.rd (PLM_MAP_CODE w) := keeps _ ⟨row _ (Nat.mod_lt w (by decide)), Nat.zero_lt_succ _⟩
    have codes : t.plcCodes = s.plcCodes := by
      unfold State.plcCodes
      simp only [map]
    have shared : t.plcKeyShared = s.plcKeyShared := by
      unfold State.plcKeyShared
      rw [keeps PLM_SEC_PKSLOT0 ⟨by decide, by decide⟩, keeps PLM_SEC_PKSLOT1 ⟨by decide, by decide⟩, keeps RFM_SEC_KSLOT0 ⟨by decide, by decide⟩, keeps RFM_SEC_KSLOT1 ⟨by decide, by decide⟩]
    simpa only [Startable, codes, shared] using h
  | _ => trivial

/-- A function that is OFF and can start, its enable at 1. -/
theorem start_runs {s : State} {f : Func} (off : s.rd (runstField f) = 0) (en : s.rd (enField f) = 1) (can : Startable s f) : (s.funcStart f).rd (enField f) = 1 ∧ (s.funcStart f).rd (runstField f) = 3 := by
  refine start_run s f ?_ ?_ ?_ en
  · rintro r (⟨rfl, rfl⟩ | ⟨rfl, rfl⟩)
    · exact can
    · exact can
  · rintro rfl
    exact can
  · rintro rfl
    exact off

/-- A write of 1 to the enable of a function that is OFF and can start (R28). -/
theorem funcWrite_starts {s : State} {f : Func} (off : s.rd (runstField f) = 0) (can : Startable s f) : (s.funcWrite f 1).rd (enField f) = 1 ∧ (s.funcWrite f 1).rd (runstField f) = 3 := by
  obtain ⟨out, lo⟩ := enField_out f
  have can2 : Startable (s.wr (enField f) 1) f := startable_keep ((Keeps.refl s).wr (startField_ne out lo) 1) can
  refine funcWrite_on s f off ?_ ?_
  · rintro r (⟨rfl, rfl⟩ | ⟨rfl, rfl⟩)
    · exact can2
    · exact can2
  · rintro rfl
    exact can2

/-! ### An enable that shares its word with another (R28) -/

/-- What a write of an enable leaves, from what the start and the halt leave. -/
theorem funcWrite_keeps {P : Field → Prop} {f : Func} (en : ∀ g, P g → g.key ≠ (enField f).key) (run : ∀ g, P g → g.key ≠ (runstField f).key) (start : ∀ u : State, Keeps P u (u.funcStart f))
    (halt : ∀ u : State, Keeps P u (u.funcHalt f)) (s : State) (v : Nat) : Keeps P s (s.funcWrite f v) := by
  have first := (Keeps.refl s).wr en v
  rcases funcWrite_cases s f v with e | e | e <;> rw [e]
  · exact first
  · exact first.trans (start _)
  · exact (first.trans (halt _)).wr run 2

def radioEnableFields : List Field := [RFM_CTRL_EN_A, RFM_CTRL_RUNST_A, RFM_STATUS_MAPERR_A]

/-- A write of Radio A's enable leaves the rest, Radio B's among it. -/
theorem funcWrite_rfA_keeps (s : State) (v : Nat) : Keeps (NotOf radioEnableFields) s (s.funcWrite .rfA v) := by
  refine funcWrite_keeps (fun _ h => h _ (by simp [radioEnableFields, enField])) (fun _ h => h _ (by simp [radioEnableFields, runstField])) (fun u => ?_) (fun u => Keeps.refl u) s v
  show Keeps _ u (u.rfStart 0)
  unfold State.rfStart
  simp only [if_true]
  refine Keeps.ite ((Keeps.refl u).wr_mem (by simp [radioEnableFields]) 1) (Keeps.wr_mem ?_ (by simp [radioEnableFields, rfRunst]) 3)
  exact Keeps.ite (Keeps.refl u) ((Keeps.refl u).regs (onRadio_regs _ _ _).1)

def reflectEnableFields : List Field := [PLM_CTRL_REFL_EN, PLM_CTRL_RUNST_R, PLM_RFL_STAT_PHASE, PLM_STATUS_RUNDONE, PLM_STATUS_RABORT]

/-- The fields of the radios and the modem that a write of Reflect's enable leaves. -/
def ReflectLeaves (f : Field) : Prop := NotOf reflectEnableFields f ∧ (f.block = 7 ∨ f.block = 8)

theorem rflAbort_keeps (s : State) : Keeps ReflectLeaves s s.rflAbort := by
  have ne {g : Field} (hg : g ∈ reflectEnableFields) : ∀ f, ReflectLeaves f → f.key ≠ g.key := fun f hf => hf.1 g hg
  have words (u : State) (w : Writer) (L : List (Nat × Nat)) : Keeps ReflectLeaves u (u.pstWords w L) := by
    refine (Keeps.refl u).only (pstWords_only (μ := 140857747447808) rfl (Only.refl u)) ?_
    rintro f ⟨-, b | b⟩ <;> rw [b] <;> rfl
  have void (u : State) (r : ReflectRun) : Keeps ReflectLeaves u (u.baselineVoid r) := by
    unfold State.baselineVoid
    exact Keeps.ite (words u _ _) (Keeps.refl u)
  have ends (u : State) (r : ReflectRun) (a b c : Nat) (L : List Change) (m : Bool) : Keeps ReflectLeaves u (u.rflEnd r a b c L m) := by
    unfold State.rflEnd
    dsimp only
    generalize u.event 81 0 0x01 (u.rflRecord r a b c L m) u.tb.now = e
    generalize hv : ({ u with rfl := { u.rfl with run := none } } : State) = v
    have same : Keeps ReflectLeaves u v := (Keeps.refl u).regs (by rw [← hv])
    have phase : Keeps ReflectLeaves u (v.setPhase 0) := same.wr (ne (by simp [reflectEnableFields])) 0
    generalize v.setPhase 0 = w at phase
    have posted : Keeps ReflectLeaves u (w.post e) := phase.trans fun f _ => post_rd w e f
    generalize w.post e = x at posted
    exact (posted.wr (ne (by simp [reflectEnableFields])) 1).raiseIf (ne (by simp [reflectEnableFields])) _
  have fail (u : State) (r : ReflectRun) (n : Nat) : Keeps ReflectLeaves u (u.rflFail r n) := (void u r).trans (ends _ _ _ _ _ _ _)
  unfold State.rflAbort
  split
  · exact Keeps.refl s
  · refine Keeps.ite (Keeps.wr ((Keeps.refl s).regs rfl) (ne (by simp [reflectEnableFields])) 0) ?_
    exact ((Keeps.refl s).regs rfl).trans (((Keeps.refl _).regs rfl).trans (fail _ _ 4))

/-- A write of Reflect's enable leaves the modem's enable and what its start reads. -/
theorem funcWrite_reflect_keeps (s : State) (v : Nat) : Keeps ReflectLeaves s (s.funcWrite .reflect v) :=
  funcWrite_keeps (fun _ h => h.1 _ (by simp [reflectEnableFields, enField])) (fun _ h => h.1 _ (by simp [reflectEnableFields, runstField]))
    (fun u => (Keeps.refl u).wr (fun _ h => h.1 _ (by simp [reflectEnableFields, runstField])) 3) rflAbort_keeps s v

/-! ### The word of an enable written (R28) -/

/-- What a store to the enable of a function does: what a write of the enable does to it, whatever else stands in its word. -/
structure Enabled (s t : State) (f : Func) (v : Nat) : Prop where
  starts : v = 1 → s.rd (runstField f) = 0 → Startable s f → t.rd (enField f) = 1 ∧ t.rd (runstField f) = 3
  stops : v = 0 → s.rd (runstField f) = 1 ∨ s.rd (runstField f) = 3 → t.rd (enField f) = 0 ∧ t.rd (runstField f) = 2

/-- The enable is written last, on a state where the function stands as before. -/
theorem Enabled.last {s u : State} {f : Func} {v : Nat} (run : u.rd (runstField f) = s.rd (runstField f)) (can : Startable s f → Startable u f) : Enabled s (u.funcWrite f v) f v := by
  refine ⟨?_, ?_⟩
  · rintro rfl off ok
    exact funcWrite_starts (run.trans off) (can ok)
  · rintro rfl going
    exact funcWrite_off u f (by rw [run]; exact going)

/-- What follows leaves the function. -/
theorem Enabled.after {s t u : State} {f : Func} {v : Nat} (h : Enabled s t f v) (en : u.rd (enField f) = t.rd (enField f)) (run : u.rd (runstField f) = t.rd (runstField f)) : Enabled s u f v := by
  obtain ⟨starts, stops⟩ := h
  rw [← en, ← run] at starts stops
  exact ⟨starts, stops⟩

theorem startFields_leave {L : List Field} (out : ∀ g ∈ L, startReg g.reg = false ∧ g.lo < 1024) {f : Field} (hf : StartField f) : NotOf L f := fun g hg => startField_ne (out g hg).1 (out g hg).2 f hf

theorem startField_block {f : Field} (hf : StartField f) : f.block = 7 ∨ f.block = 8 := by
  obtain ⟨reg, lo⟩ := hf
  have low : 0x40070000 ≤ f.reg ∧ f.reg < 0x40090000 := by
    simp only [startReg, Bool.or_eq_true, Bool.and_eq_true, decide_eq_true_eq, beq_iff_eq] at reg
    omega
  unfold Field.block Field.key
  omega

theorem enableWrite_enabled {s : State} {l : Lane} (h : s.serves l) (f : Func) {v : Nat} (hv : v < 2) : Enabled s (s.enableWrite l f v) f v := by
  cases f with
  | port0 =>
    obtain ⟨t, near, eq⟩ := enable_port0 hv h
    rw [eq]
    exact .last (near.rd _ (.inr (by decide))) (fun _ => trivial)
  | port1 =>
    obtain ⟨t, near, eq⟩ := enable_port1 hv h
    rw [eq]
    exact .last (near.rd _ (.inr (by decide))) (fun _ => trivial)
  | pole =>
    obtain ⟨t, near, eq⟩ := enable_pole hv h
    rw [eq]
    exact .last (near.rd _ (.inr (by decide))) (fun _ => trivial)
  | meter =>
    obtain ⟨t, near, eq⟩ := enable_meter hv h
    rw [eq]
    exact .last (near.rd _ (.inr (by decide))) (fun _ => trivial)
  | rfA =>
    have others {g : Field} := funcWrite_rfB_other s (s.rd RFM_CTRL_EN_B) (g := g)
    rw [enableBoth_rfA hv h]
    refine .last (others (by decide) (by decide) (by decide)) (startable_keep fun g hg => others ?_ ?_ ?_) <;> exact startField_ne (by decide) (by decide) g hg
  | rfB =>
    rw [enableBoth_rfB hv h]
    have keeps := funcWrite_rfA_keeps (s.funcWrite .rfB v) (s.rd RFM_CTRL_EN_A)
    exact (Enabled.last rfl id).after (keeps _ (by unfold NotOf; decide)) (keeps _ (by unfold NotOf; decide))
  | plm =>
    have keeps := funcWrite_reflect_keeps s (s.rd PLM_CTRL_REFL_EN)
    rw [enableBoth_plm hv h]
    exact .last (keeps _ ⟨by unfold NotOf; decide, .inr rfl⟩) (startable_keep fun g hg => keeps g ⟨startFields_leave (by decide) hg, startField_block hg⟩)
  | reflect =>
    have others {g : Field} := funcWrite_plm_rd (s.funcWrite .reflect v) (s.rd PLM_CTRL_EN) (f := g)
    rw [enable_reflect hv h]
    exact (Enabled.last rfl id).after (others (by decide) (by decide) (by decide) (by decide)) (others (by decide) (by decide) (by decide) (by decide))
  | channel n =>
    rw [enable_channel n hv h]
    exact .last rfl id
  | queue n =>
    obtain ⟨t, near, eq⟩ := enable_queue n hv h
    have no : ∀ u : State, u.dcqCommand n.val false false false = u := fun u => rfl
    have run : t.rd (DCQ_Q_W0_RUNST n.val) = s.rd (DCQ_Q_W0_RUNST n.val) := by
      have keys : (DCQ_Q_W0_RUNST n.val).key ≠ (DCQ_Q_W0_CMDSEL n.val).key ∧ (DCQ_Q_W0_RUNST n.val).key ≠ (DCQ_Q_W0_DROP n.val).key ∧ (DCQ_Q_W0_RUNST n.val).key ≠ (DCQ_Q_W0_FLUSH n.val).key := by
        unfold Field.key
        simp only [DCQ_Q_W0_RUNST, DCQ_Q_W0_CMDSEL, DCQ_Q_W0_DROP, DCQ_Q_W0_FLUSH]
        omega
      exact (near.rd _ (.inr fun g hg => by rw [List.mem_singleton.mp hg]; exact keys.1)).trans ((rd_wr_ne _ 0 keys.2.1).trans (rd_wr_ne s 0 keys.2.2))
    rw [eq, no]
    exact .last run (fun _ => trivial)

/-! ### A function comes to run, and a shut-down completes (R27, R28) -/

theorem pbFetch_run (s : State) (i : Nat) : (s.pbFetch i).rd PBM_CTRL_RUNST = s.rd PBM_CTRL_RUNST := by
  unfold State.pbFetch
  dsimp only
  split
  · exact (rd_wr_ne (s.pbCount 13 1) (f := PBM_STATUS_TXERR) (g := PBM_CTRL_RUNST) 1 (by decide)).trans (pbCount_low s (f := PBM_CTRL_RUNST) (by unfold PLow; decide))
  · rfl

theorem pbFetchAll_run (n : Nat) (s : State) : (pbFetchAll n s).rd PBM_CTRL_RUNST = s.rd PBM_CTRL_RUNST := by
  induction n generalizing s with
  | zero => rfl
  | succ n ih =>
    unfold pbFetchAll
    dsimp only
    split
    · rfl
    · exact (ih _).trans ((rd_wr_ne _ _ (by decide)).trans (pbFetch_run s _))

/-- A function in STARTING becomes RUNNING, but for those that wait for a link or a Crease boundary. -/
theorem funcRunning_runs {s : State} {f : Func} (starting : s.rd (runstField f) = 3) (port0 : f ≠ .port0) (port1 : f ≠ .port1) (meter : f ≠ .meter) : (s.funcRunning f).rd (runstField f) = 1 := by
  unfold State.funcRunning
  rw [if_neg (by rw [starting]; decide)]
  cases f with
  | port0 => exact absurd rfl port0
  | port1 => exact absurd rfl port1
  | meter => exact absurd rfl meter
  | pole =>
    have run : (s.wr PBM_CTRL_RUNST 1).rd PBM_CTRL_RUNST = 1 := rd_wr_same _ _ 1
    show (s.wr PBM_CTRL_RUNST 1).pbRun.rd PBM_CTRL_RUNST = 1
    unfold State.pbRun
    rw [if_pos run, pbFetchAll_run, run]
  | rfA => exact rd_wr_same _ _ 1
  | rfB => exact rd_wr_same _ _ 1
  | plm => exact rd_wr_same _ _ 1
  | reflect => exact rd_wr_same _ _ 1
  | channel n => exact rd_wr_same _ _ 1
  | queue n => exact rd_wr_same _ _ 1

/-- A shut-down leaves what a start reads. -/
theorem shut_startable {s : State} {f : Func} (can : Startable s f) : Startable (s.funcShut f) f := by
  cases f with
  | rfA => exact startable_keep (fun g hg => rfShut_keeps s 0 g (startFields_leave (by decide) hg)) can
  | rfB => exact startable_keep (fun g hg => rfShut_keeps s 1 g (startFields_leave (by decide) hg)) can
  | plm => exact startable_keep (fun g hg => plmShut_keeps s g (startFields_leave (by decide) hg)) can
  | _ => trivial

theorem shutDone_eq {s : State} {f : Func} (stopping : s.rd (runstField f) = 2) (empty : s.funcEmpty f = true) : s.shutDone f = if (s.funcShut f).on (enField f) then (s.funcShut f).funcStart f else s.funcShut f := by
  unfold State.shutDone
  exact if_neg (by simp [stopping, empty])

/-- Settles O17: the enable's word is written down to the function's own write; a shut-down ends in OFF with the enable as it stood, and the start follows from there. -/
theorem functionsStartAndStop : Obligations.FunctionsStartAndStop := by
  unfold Obligations.FunctionsStartAndStop
  refine ⟨?_, ?_, ?_, ?_, ?_⟩
  · intro s l f serves off can
    exact ⟨_, rfl, (enableWrite_enabled serves f (by decide)).starts rfl off can⟩
  · intro s l f serves going
    exact ⟨_, rfl, (enableWrite_enabled serves f (by decide)).stops rfl going⟩
  · intro s f hu starting port0 port1 meter
    exact ⟨_, congrArg Host.Outcome.next (whenUp_up hu), funcRunning_runs starting port0 port1 meter⟩
  · intro s f hu stopping empty en
    have off : ¬(s.funcShut f).on (enField f) = true := by
      unfold State.on
      rw [shut_en, en]
      decide
    refine ⟨_, congrArg Host.Outcome.next ((whenUp_up hu).trans ((shutDone_eq stopping empty).trans (if_neg off))), shut_run s f⟩
  · intro s f hu stopping empty en can
    have on : (s.funcShut f).on (enField f) = true := by
      unfold State.on
      rw [shut_en, en]
      decide
    refine ⟨_, congrArg Host.Outcome.next ((whenUp_up hu).trans ((shutDone_eq stopping empty).trans (if_pos on))), start_runs (shut_run s f) ?_ (shut_startable can)⟩
    rw [shut_en, en]

end Sys2Proof.Machine
